-- ==== Sys2Proof/Word.lean ====
section
/-!
DEFINITION. The word types of the Tiolo model: bytes, 64-bit words, and the index types of its units (R17, R42, R53, R68).
-/
namespace Sys2Proof

/-- A byte of memory, of a packet payload or of a descriptor (R5). -/
abbrev Byte := BitVec 8
/-- A configuration register, a stake value, a scalar register: 64 bits. -/
abbrev Word := BitVec 64
/-- A fabric port 0–127 (R30). -/
abbrev PortIx := Fin 128
/-- A link: that of fabric port 0–127, or 128, the Filard Link (R337, R515). -/
abbrev LinkIx := Fin 129
/-- A compute tile 0–255 (R17). -/
abbrev TileIx := Fin 256
/-- A context of a tile 0–15 (R182). -/
abbrev CtxIx := Fin 16
/-- A region, its cadastre slice, stake home and HBM stack 0–3 (R17). -/
abbrev SliceIx := Fin 4
/-- A block 0–15 (R17). -/
abbrev BlockIx := Fin 16
/-- A parcel 0–63 (R428). -/
abbrev ParcelIx := Fin 64
/-- A stake 0–16,383 (R53). -/
abbrev StakeIx := Fin 16384
/-- A module slot 0–63 (R47). -/
abbrev SlotIx := Fin 64

end Sys2Proof
end

