-- ==== Sys2Proof/Syntax.lean ====
section
/-!
DEFINITION. The commands the block takes, with their operands: one constructor of `Instr` per row of the opcode table,
and the plain-data records (packets, frames, descriptors read from outside) that those commands carry.
-/
namespace Sys2Proof

/-- The multicast extension MCX (R344). -/
structure Mcx where
  /-- Bit i selects the Tiolo at column i of the row, or at row i of the column. -/
  members : BitVec 32
  /-- 0: row. 1: column. -/
  axis : Bool
  /-- Bit p selects port p for delivery in each member Tiolo. -/
  ports : BitVec 128
  deriving DecidableEq, Repr

/-- The SEQX extension's first 16 bytes (R344). A COL packet's fields are held apart, because the rule gives STAGE bits [17:12] and
STEP bits [31:16] of one word, which overlap (DESIGN CHOICE, in the assumption log). -/
inductive Seqx where
  | col (chainage : BitVec 12) (stage : BitVec 6) (step : BitVec 16) (off : BitVec 32) (result : Bool)
  /-- The extension of a TRVD or TRVR packet, as its word. -/
  | trv (w : BitVec 128)
  deriving DecidableEq, Repr

/-- An LFP packet (R339, R340, R344): the header's fields, the extensions that are present, and the payload. -/
structure Packet where
  opcode : BitVec 8 := 0
  cls : BitVec 3 := 0
  hop : BitVec 2 := 0
  /-- LEN: payload bytes, or for a read the bytes it asks for (R346). -/
  len : Nat := 0
  poi : Bool := false
  ord : Bool := false
  tid : BitVec 16 := 0
  job : BitVec 16 := 0
  gfa : BitVec 56 := 0
  epoch : BitVec 8 := 0
  dst : BitVec 17 := 0
  src : BitVec 10 := 0
  agent : BitVec 12 := 0
  flow : BitVec 16 := 0
  status : BitVec 4 := 0
  flags : BitVec 3 := 0
  grant : BitVec 2 := 0
  offer : Bool := false
  grade : BitVec 3 := 0
  nmh : Bool := false
  age : BitVec 16 := 0
  /-- The MASKX extension: bit i enables byte i of one line. -/
  mask : Option (BitVec 128) := none
  mcx : Option Mcx := none
  seqx : Option Seqx := none
  payload : List Byte := []
  /-- The line-check tail, one word per payload line, on MODULE ports only; LEN does not count it (R339, R345). -/
  tail : List Word := []
  deriving DecidableEq, Repr

/-- A holder of a line's copies as the home knows it: a local agent number or a remote Tiolo index (R70). -/
inductive Holder where
  | agent (a : Fin 49)
  | tiolo (t : BitVec 10)
  deriving DecidableEq, Repr

/-- Where a packet enters the switch core (R368). -/
inductive Source where
  | port (p : PortIx)
  | tile (t : TileIx)
  /-- Any other internal source of a region. -/
  | region (r : SliceIx)
  deriving DecidableEq, Repr

/-- A frame as it reaches the lanes of a port: per physical lane, the PAM4 levels between its markers (R349, R350). -/
structure RxFrame where
  lanes : List (List (Fin 4))
  deriving DecidableEq, Repr

/-- A RoCEv2 packet of the subset (R407, R415). -/
structure RocePkt where
  opcode : BitVec 8
  destQP : BitVec 24
  psn : BitVec 24
  ackReq : Bool := false
  ce : Bool := false
  va : Word := 0
  rkey : BitVec 32 := 0
  dmaLen : BitVec 32 := 0
  imm : BitVec 32 := 0
  payload : List Byte := []
  deriving DecidableEq, Repr

/-- An Ethernet frame that reached an ETH port and passed MACsec (R408, R409). -/
structure EthFrame where
  /-- Addressed to the port's MAC. -/
  toPort : Bool
  broadcast : Bool
  /-- Destination MAC, IP address and UDP port 4791 match the port, without IPv4 options or IPv6 extension headers. -/
  isRoce : Bool
  icrcOk : Bool
  /-- The VLAN tag's PCP and DEI, when tagged. -/
  vlan : Option (BitVec 3 × Bool)
  dscp : Option (BitVec 6)
  /-- The frame is ECN-capable. -/
  ect : Bool
  /-- The frame's bytes from the destination address through the FCS. -/
  bytes : List Byte
  roce : RocePkt
  deriving DecidableEq, Repr

/-- What the sending engine's program says of a leg beyond its packets' headers (R307, R308, R312). -/
structure LegInfo where
  /-- BYTES and BLOCKS of the leg entry. -/
  bytes : Nat
  blocks : Nat
  /-- The window and the trailer, as offsets from the datum. -/
  win : Nat
  trl : Nat
  /-- The window's ready stake. -/
  stake : Nat
  deriving DecidableEq, Repr

/-- A visible action of a twinned operation (R458). -/
inductive TwinAct where
  /-- A ready-stake or notify release: the stake, and VALUE after it. -/
  | releaseSet (stake : Nat) (value : Word)
  /-- A result segment written to its slot, and sent to the hosts of the stage's sources. -/
  | slotLines (slot off stage : Nat) (status : BitVec 4) (data : List Byte)
  /-- The send point of a traverse's current leg. -/
  | leg (trav : Nat)
  /-- A PUBLISH step. -/
  | publish (p : Packet)
  /-- A READ response packet of a QP. -/
  | readResponse (qp : Nat)
  deriving DecidableEq, Repr

/-- The ownership record of a twin state page (R457), with what the page's state holds of the pending action. -/
structure TwinRecord where
  kind : BitVec 4
  job : BitVec 16
  opref : BitVec 32
  gen : BitVec 32
  owner : BitVec 10
  commit : Bool
  intent : Bool
  mseq : Word
  act : Option TwinAct
  /-- The packets of a pending leg (R313, R460). -/
  sends : List Packet
  /-- The CRC-32C at bytes [4095:4092] matches. -/
  crcOk : Bool
  deriving DecidableEq, Repr

/-- A field book (R468). -/
inductive BookIx where
  | block (n : BlockIx)
  | region (r : SliceIx)
  | chip
  deriving DecidableEq, Repr

/-- A security command block read from companion memory (R478). -/
structure SecBlock where
  op : BitVec 8
  target : BitVec 8 := 0
  /-- Some reserved byte of the block is non-zero. -/
  reservedSet : Bool := false
  nonce : BitVec 256 := 0
  vnonce : BitVec 256 := 0
  tenant : BitVec 128 := 0
  arg : BitVec 256 := 0
  ownerPk : List Byte := []
  signature : List Byte := []
  deriving DecidableEq, Repr

/-- What begins a cold reset (R496). -/
inductive ColdCause where
  | rstLow | pwrOkLow
  deriving DecidableEq, Repr

/-- The outcome of the known-answer and entropy tests (R481). -/
structure KatResult where
  aes : Bool
  sha3 : Bool
  mlKem : Bool
  mlDsa : Bool
  drbg : Bool
  entropy : Bool
  deriving DecidableEq, Repr

/-- What the BIST engine measured (R500, R502). -/
structure BistResult where
  misr : List Word
  /-- Bit 5p + l: lane l of port p failed in either direction. -/
  lanes : BitVec 640
  filard : BitVec 8
  deriving DecidableEq, Repr

/-- A source of a boot image set, as the boot ROM tries them (R499). -/
inductive ImageSource where
  | preferred0 | preferred8 | other0 | other8
  deriving DecidableEq, Repr

/-- A JTAG instruction (R493). -/
inductive JtagInstr where
  | idcode | bypass | boundaryScan | fullScan
  deriving DecidableEq, Repr


/-- The commands of the block: one constructor per row of the table of operations and events (opcode_table.json). -/
inductive Instr where
  /-- CONFIG_WRITE (R519): A configuration write to a register that has no row of its own takes effect in its configuration arbiter's order, or is ignored or refused as the access rules state. -/
  | configWrite (off : BitVec 24) (len : Nat) (v : Word) (tid : BitVec 16)
  /-- IN_BAND_CONFIG_ACCESS (R55): An in-band 8 B load or store to the configuration window is checked against alignment, the in-band management list and the page, then served or refused with ACCESS_FAULT. -/
  | inBandConfigAccess (p : Packet)
  /-- RDN (R346): An uncached or non-coherent read request reaches its home, is checked against its extent and is answered by CMP with data. -/
  | rdn (p : Packet)
  /-- WRN (R346): A non-coherent write, or a masked write of one line, reaches its home, is checked and is applied. -/
  | wrn (p : Packet)
  /-- ATM (R346): A memory atomic reaches its home and is applied single-copy atomically to one word. -/
  | atm (p : Packet)
  /-- RDS (R82): A read for a shareable copy is ordered at a home or a proxy and handled by the transition table. -/
  | rds (p : Packet)
  /-- RDO (R82): A read for ownership is ordered at a home or a proxy, and the other copies are snooped. -/
  | rdo (p : Packet)
  /-- UPG (R82): An upgrade of a held S copy to ownership is ordered at a home or a proxy. -/
  | upg (p : Packet)
  /-- RDU (R82): An uncached read of the current value is ordered at a home, and nothing is recorded. -/
  | rdu (p : Packet)
  /-- WRI (R82): An invalidating write of a line, or of bytes under a mask, is ordered at a home, and every copy is invalidated. -/
  | wri (p : Packet)
  /-- EVC (R82): A notice that a clean copy was dropped is ordered at a home or a proxy, and the requester's record is removed. -/
  | evc (p : Packet)
  /-- WBK (R82): A write-back of a dirty line is ordered at a home or a proxy, and ownership is given up. -/
  | wbk (p : Packet)
  /-- RPQ (R99): A proxy's acceptance of a page-replica offer is ordered at the home, which sends the page or answers RETRY. -/
  | rpq (p : Packet)
  /-- SNI (R85): A snoop to invalidate reaches a proxy, which invalidates its local holders and answers. -/
  | sni (p : Packet)
  /-- SND (R85): A snoop to downgrade reaches a proxy, which downgrades its local owner and answers with any dirty data. -/
  | snd (p : Packet)
  /-- SNF (R85): A snoop to fetch and invalidate reaches a proxy, which fetches its local owner's data and answers. -/
  | snf (p : Packet)
  /-- SPI (R85): A snoop to invalidate a replica page reaches a proxy, which drops the page and the copies taken from it. -/
  | spi (p : Packet)
  /-- CMP (R77): A completion arrives at its requester, a proxy or an internal agent, which records its status, grant and data and continues the waiting operation. -/
  | cmp (p : Packet)
  /-- SAK (R77): A snoop answer without data arrives at a home or a proxy, which resolves the snooped copy and may finish the transaction. -/
  | sak (p : Packet) (lost : Bool)
  /-- SDA (R77): A snoop answer with the full line arrives at a home or a proxy, which forwards or writes the data and may finish the transaction. -/
  | sda (p : Packet) (lost : Bool)
  /-- MEM_WRITE_ACCEPTED (R83): The memory controller accepts a write of a transaction, which lets the home send the transaction's CMP. -/
  | memWriteAccepted (n : SliceIx) (line : BitVec 49)
  /-- HOME_MEMORY_READ_DONE (R88): A read of home memory returns data, which is used or squashed and delivered. -/
  | homeMemoryReadDone (n : SliceIx) (line : BitVec 49)
  /-- BACKING_FETCH_DONE (R94): A directory entry fetched from the backing store arrives, and the waiting lookup continues. -/
  | backingFetchDone (n : SliceIx) (line : BitVec 49)
  /-- CONFLICT_QUEUE_DEQUEUE (R65): A request waiting for a busy line leaves the conflict queue in sequence order and is applied. -/
  | conflictQueueDequeue (n : SliceIx)
  /-- REPL_WINDOW_END (R97): A replica measurement window of 2^WIN_LOG2 cadastre cycles expires, and the page candidacy is judged afresh. -/
  | replWindowEnd (n : SliceIx)
  /-- REPLICA_DROP (R101): A proxy drops a replica page on its own, without a message. -/
  | replicaDrop (n : SliceIx) (page : BitVec 44)
  /-- SNOOP_TIMEOUT (R102): A snoop goes unanswered for the completion timeout, so the local agent is declared dead or the remote Tiolo is severed. -/
  | snoopTimeout (n : SliceIx) (line : BitVec 49) (holder : Holder)
  /-- DEAD_SWEEP_DONE (R102): The background sweep for a dead agent ends, and its agent number may be reused. -/
  | deadSweepDone (n : SliceIx)
  /-- CAD_DEAD_CLEAR (R102): A W1C write to CAD_DEAD clears dead-agent bits, unless the sweep is running. -/
  | cadDeadClear (n : SliceIx) (v : Word)
  /-- CAD_SEVER_CLEAR (R103): A W1C write to CAD_SEVER ends the severing of a remote Tiolo. -/
  | cadSeverClear (n : SliceIx) (j : Fin 16) (v : Word)
  /-- ENTRY_ECC_ERROR (R105): An uncorrectable error in a home entry or a backing set poisons the lines it covers, snoops every holder and raises FATAL. -/
  | entryEccError (n : SliceIx) (lines : List (BitVec 49))
  /-- CAD_ENABLE (R93): A write of 1 to CAD_CTL.EN enables a cadastre slice, or is refused under the backing-size and reservation rules. -/
  | cadEnable (n : SliceIx) (v : Word)
  /-- CAD_PROBE (R91): A write of GO to CAD_PROBE_ADDR probes one line's directory entry in arbiter order. -/
  | cadProbe (n : SliceIx) (v : Word)
  /-- STAKE_SREL (R116): A stake release adds OPERAND to VALUE at the stake home, records the release and checks the waiters. -/
  | stakeSrel (p : Packet)
  /-- STAKE_SACQ (R116): A stake acquire completes at once if VALUE meets its target, and otherwise parks or is refused with RETRY. -/
  | stakeSacq (p : Packet)
  /-- STAKE_SSET (R116): A stake set, or a plain 8 B store to a stake, writes VALUE, clears LSCOPE and checks the waiters. -/
  | stakeSset (p : Packet)
  /-- STAKE_SREAD (R116): A stake read, or a plain 8 B load of a stake, returns VALUE. -/
  | stakeSread (p : Packet)
  /-- SACQ_WAKE (R121): A parked SACQ whose target a change of value has met completes, one per cadastre cycle in parked order. -/
  | sacqWake (r : SliceIx)
  /-- SACQ_EXPIRY (R119): The wait bound of a parked SACQ expires, and it completes with TIMEOUT and the current VALUE. -/
  | sacqExpiry (k : Nat)
  /-- STK_PROBE (R115): A write of GO to STK_PROBE_CTL probes one stake's state in the stake home arbiter's order. -/
  | stkProbe (v : Word)
  /-- STAKE_ECC_ERROR (R453): An uncorrectable error in a stake's state raises FATAL and makes its operations complete with FATAL until an SSET. -/
  | stakeEccError (k : StakeIx)
  /-- PUBLISH (R133): A PUBLISH is checked at the deciding slice, then swaps the visible backing extent of a versioned window and maintains the notify stake. -/
  | publish (p : Packet)
  /-- DRN (R130): A drain marker reaches each port on the old path, is forwarded behind the earlier packets, and is returned by the far end. -/
  | drn (p : Packet)
  /-- DRN_RETURN (R131): A returned drain marker reaches the ingress Tiolo, which completes the old-epoch writes and releases the held ordered packets. -/
  | drnReturn (p : Packet)
  /-- COMMIT_T1_WE (R151): A write of TIER_WE.T1_WE makes T1 writable, or read-only, in one step of each home arbiter. -/
  | commitT1We (on : Bool)
  /-- COMMIT_T2_WE (R151): A write of TIER_WE.T2_WE makes T2 writable, or is refused while T2 is unmounted or low on spares. -/
  | commitT2We (on : Bool)
  /-- TQ_LIMIT_WRITE (R153): A write of a parcel's tier quotas is accepted, or is refused when the T0 quotas would exceed the pool. -/
  | tqLimitWrite (v : Word)
  /-- TC_ENABLE (R149): A write of TC_POOL.TC_EN reserves the tier cache pool and enables the write-back cache, or is refused. -/
  | tcEnable (v : Word)
  /-- OCREATE (R158): A tier command allocates an object's units and a fresh key and assigns an identifier. -/
  | ocreate (p : Packet)
  /-- ODELETE (R158): A tier command destroys an object's key and then frees its units. -/
  | odelete (p : Packet)
  /-- OWRITE (R158): A tier command copies a range into an object. -/
  | owrite (p : Packet)
  /-- OREAD (R158): A tier command copies an object range to T0 or T1. -/
  | oread (p : Packet)
  /-- COPY (R158): A tier command copies one range of T0 or T1 to another. -/
  | copy (p : Packet)
  /-- FLUSH (R166): A tier command writes back the pages of a WB range that were dirty when it was ordered. -/
  | flush (p : Packet)
  /-- PIN (R158): A tier command fills and pins the cached pages of a WB range. -/
  | pin (p : Packet)
  /-- UNPIN (R158): A tier command unpins the cached pages of a WB range. -/
  | unpin (p : Packet)
  /-- OQUERY (R158): A tier command reports an object's size. -/
  | oquery (p : Packet)
  /-- TIER_COMMAND_END (R160): A tier command ends, and its completion record is written and fenced, and its stake is released. -/
  | tierCommandEnd (k : Nat)
  /-- DOORBELL_HOLD_TIMEOUT (R156): A doorbell write held for a full command queue reaches the completion timeout, and it completes with TIMEOUT without queuing. -/
  | doorbellHoldTimeout (k : Nat)
  /-- HELD_DOORBELL_ACCEPTED (R156): A queue entry frees, and a held doorbell write is queued. -/
  | heldDoorbellAccepted (k : Nat)
  /-- CACHE_FILL_DONE (R166): The fill of a cache frame from its module completes, and the waiting request is served. -/
  | cacheFillDone (frame : Nat)
  /-- WRITE_BACK_DONE (R166): A page write-back to its module is acknowledged, so DIRTY is cleared and held stores and evictions proceed. -/
  | writeBackDone (frame : Nat)
  /-- T1_QUOTA_HOLD_TIMEOUT (R153): A store held under the T1 quota reaches the completion timeout and completes with QUOTA. -/
  | t1QuotaHoldTimeout (k : Nat)
  /-- UNIT_PROGRAM_DONE (R155): A new unit image is programmed, and its map entry switches in one translation-layer arbiter step. -/
  | unitProgramDone (k : Nat)
  /-- TL_MOUNT_START (R171): A write of TL_CTL.EN reserves the translation area and starts the format or mount of T2. -/
  | tlMountStart (v : Word)
  /-- TL_MOUNT_DONE (R171): The mount ends, MOUNTED is set, and the waiting T2 commands proceed. -/
  | tlMountDone (blank : Bool)
  /-- TL_MAP_LOST (R171): An error destroys part of the T2 map, so MAP_ERR is set, T2_WE is cleared and a remount starts. -/
  | tlMapLost
  /-- WEAR_LEVEL_MIGRATION (R170): The erase-count spread exceeds WL_DELTA, and the units of the coldest block migrate. -/
  | wearLevelMigration (block target : Nat)
  /-- REFRESH_MIGRATION (R170): A block reaches its read-disturb limit or needs soft decoding, and its units are migrated. -/
  | refreshMigration (block target : Nat)
  /-- BLOCK_RETIRE (R170): A program or erase fails, the block is retired and its data is rewritten. -/
  | blockRetire (block target : Nat)
  /-- BACKGROUND_ERASE_DONE (R172): A freed block is physically erased in the background, and ERASE_PEND is updated. -/
  | backgroundEraseDone (block : Nat)
  /-- RUN_DESCRIPTOR (R191): A RUN work descriptor is written to a tile doorbell and queued. -/
  | runDescriptor (t : TileIx) (p : Packet)
  /-- LOAD_KERNEL_DESCRIPTOR (R191): A LOAD_KERNEL work descriptor is written to a tile doorbell and queued. -/
  | loadKernelDescriptor (t : TileIx) (p : Packet)
  /-- LOAD_DATA_DESCRIPTOR (R191): A LOAD_DATA work descriptor is written to a tile doorbell and queued. -/
  | loadDataDescriptor (t : TileIx) (p : Packet)
  /-- CONTEXT_START (R192): The head descriptor starts on a free context once its accumulator lanes are free. -/
  | contextStart (t : TileIx)
  /-- CONTEXT_DRAIN_DONE (R194): A draining context's outstanding requests have completed, so it writes its completion record, releases its stake and becomes FREE. -/
  | contextDrainDone (t : TileIx) (c : CtxIx)
  /-- REMOTE_COMPLETION (R225): A remote access or stake completion reaches its context, which writes the data or status and becomes READY. -/
  | remoteCompletion (p : Packet)
  /-- QUANTUM_EXPIRY (R185): A running context's quantum expires, and it is switched out if another context of its level is READY. -/
  | quantumExpiry (t : TileIx) (c : CtxIx)
  /-- TILE_WATCHDOG_EXPIRY (R200): A context exceeds its watchdog limit and faults with WATCHDOG. -/
  | tileWatchdogExpiry (t : TileIx) (c : CtxIx)
  /-- CONTEXT_KILL (R201): A TILE_CTL.KILL bit kills a context at its next instruction boundary. -/
  | contextKill (t : TileIx) (mask : BitVec 16)
  /-- TILE_ZERO (R202): A TILE_CTL.ZERO write zeroes an idle tile. -/
  | tileZero (t : TileIx)
  /-- TILE_ZERO_DONE (R202): Zeroing of a tile ends, and ZERO_BUSY clears. -/
  | tileZeroDone (t : TileIx)
  /-- TILE_SRAM_WRITE (R178): A TILE_SRAM write changes the SRAM areas of an idle tile, or is refused. -/
  | tileSramWrite (t : TileIx) (v : Word)
  /-- TILE_LINE_CACHE_FAIL (R203): A block's tile line cache fails, so its agent is declared dead and its waiting contexts fault. -/
  | tileLineCacheFail (n : BlockIx)
  /-- ILLEGAL_INSTRUCTION (R208): An illegal instruction word reaches issue and faults the context with ILLEGAL. -/
  | illegalInstruction (t : TileIx) (c : CtxIx)
  /-- VADD (R214): The instruction adds vectors element by element. -/
  | vadd (t : TileIx) (c : CtxIx)
  /-- VMUL (R214): The instruction multiplies vectors element by element. -/
  | vmul (t : TileIx) (c : CtxIx)
  /-- VFMA (R214): The instruction computes a fused multiply-add with one rounding. -/
  | vfma (t : TileIx) (c : CtxIx)
  /-- VMAX (R214): The instruction takes the elementwise maximum. -/
  | vmax (t : TileIx) (c : CtxIx)
  /-- VMIN (R214): The instruction takes the elementwise minimum. -/
  | vmin (t : TileIx) (c : CtxIx)
  /-- VCVT (R216): The instruction converts elements between types, including MX types. -/
  | vcvt (t : TileIx) (c : CtxIx)
  /-- XACC (R217): The instruction adds elements exactly into accumulator lanes. -/
  | xacc (t : TileIx) (c : CtxIx)
  /-- XRD (R217): The instruction reads accumulator lanes, rounded once or raw, and may clear them. -/
  | xrd (t : TileIx) (c : CtxIx)
  /-- VCMP (R219): The instruction compares vectors into a predicate. -/
  | vcmp (t : TileIx) (c : CtxIx)
  /-- VCOMPACT (R219): The instruction packs the selected elements to the low end of a register. -/
  | vcompact (t : TileIx) (c : CtxIx)
  /-- VTOPK (R220): The instruction merges candidates into a running top-K list with indices. -/
  | vtopk (t : TileIx) (c : CtxIx)
  /-- VLD (R221): The instruction loads 128 B from local SRAM, or decodes an XCB block. -/
  | vld (t : TileIx) (c : CtxIx)
  /-- VST (R221): The instruction stores the selected bytes of a vector to local SRAM. -/
  | vst (t : TileIx) (c : CtxIx)
  /-- VGATH (R221): The instruction gathers elements from local SRAM by index. -/
  | vgath (t : TileIx) (c : CtxIx)
  /-- SLD (R221): The instruction loads 8 B from local SRAM into a scalar. -/
  | sld (t : TileIx) (c : CtxIx)
  /-- SST (R221): The instruction stores a scalar to local SRAM. -/
  | sst (t : TileIx) (c : CtxIx)
  /-- RLD (R223): The instruction issues remote loads of lines or of 8 B and puts the context in WAIT_REMOTE. -/
  | rld (t : TileIx) (c : CtxIx)
  /-- RST (R223): The instruction issues remote stores of lines or of 8 B, counted for the fence. -/
  | rst (t : TileIx) (c : CtxIx)
  /-- RATOM (R224): The instruction issues a remote atomic on one word at its home. -/
  | ratom (t : TileIx) (c : CtxIx)
  /-- RGATH (R223): The instruction issues remote loads of lines by index. -/
  | rgath (t : TileIx) (c : CtxIx)
  /-- SREL (R226): The instruction fences at its scope, then sends a stake release, or refuses locally on a failed fence. -/
  | srel (t : TileIx) (c : CtxIx)
  /-- SACQ (R226): The instruction sends a stake acquire and puts the context in WAIT_STAKE. -/
  | sacq (t : TileIx) (c : CtxIx)
  /-- SADD (R227): The instruction adds scalars. -/
  | sadd (t : TileIx) (c : CtxIx)
  /-- SSUB (R227): The instruction subtracts scalars. -/
  | ssub (t : TileIx) (c : CtxIx)
  /-- SMUL (R227): The instruction multiplies scalars, keeping the low 64 bits. -/
  | smul (t : TileIx) (c : CtxIx)
  /-- SAND (R227): The instruction computes a scalar AND. -/
  | sand (t : TileIx) (c : CtxIx)
  /-- SOR (R227): The instruction computes a scalar OR. -/
  | sor (t : TileIx) (c : CtxIx)
  /-- SXOR (R227): The instruction computes a scalar XOR. -/
  | sxor (t : TileIx) (c : CtxIx)
  /-- SSHL (R227): The instruction shifts a scalar left. -/
  | sshl (t : TileIx) (c : CtxIx)
  /-- SSHR (R227): The instruction shifts a scalar right, logical. -/
  | sshr (t : TileIx) (c : CtxIx)
  /-- SSRA (R227): The instruction shifts a scalar right, arithmetic. -/
  | ssra (t : TileIx) (c : CtxIx)
  /-- SMIN (R227): The instruction takes the signed minimum of two scalars. -/
  | smin (t : TileIx) (c : CtxIx)
  /-- SMAX (R227): The instruction takes the signed maximum of two scalars. -/
  | smax (t : TileIx) (c : CtxIx)
  /-- SCMP (R227): The instruction compares scalars into 0 or 1. -/
  | scmp (t : TileIx) (c : CtxIx)
  /-- SMOV (R227): The instruction copies a scalar. -/
  | smov (t : TileIx) (c : CtxIx)
  /-- SLI (R227): The instruction loads a sign-extended immediate. -/
  | sli (t : TileIx) (c : CtxIx)
  /-- SLIH (R227): The instruction shifts a scalar left by 24 and ORs in an immediate. -/
  | slih (t : TileIx) (c : CtxIx)
  /-- SGET (R227): The instruction moves one vector element into a scalar. -/
  | sget (t : TileIx) (c : CtxIx)
  /-- SPUT (R227): The instruction moves a scalar into one vector element. -/
  | sput (t : TileIx) (c : CtxIx)
  /-- SPCNT (R227): The instruction counts the predicated elements. -/
  | spcnt (t : TileIx) (c : CtxIx)
  /-- PFIRST (R227): The instruction sets a predicate for the first n elements. -/
  | pfirst (t : TileIx) (c : CtxIx)
  /-- SSTAT (R227): The instruction reads the context status word. -/
  | sstat (t : TileIx) (c : CtxIx)
  /-- SCLRF (R227): The instruction clears sticky status bits. -/
  | sclrf (t : TileIx) (c : CtxIx)
  /-- SCYC (R227): The instruction reads the context's local tile-cycle count. -/
  | scyc (t : TileIx) (c : CtxIx)
  /-- BR (R228): The instruction branches when its condition holds. -/
  | br (t : TileIx) (c : CtxIx)
  /-- LOOP (R228): The instruction decrements a counter and branches while it is non-zero. -/
  | loopDec (t : TileIx) (c : CtxIx)
  /-- YIELD (R228): The instruction gives up the issue slot and loads the next arrival entry in a bound context. -/
  | yield (t : TileIx) (c : CtxIx)
  /-- END (R228): The instruction ends a descriptor context, which enters DRAIN. -/
  | endCtx (t : TileIx) (c : CtxIx)
  /-- STFREE (R229): The instruction releases the staging region of an arrival entry in a KERNEL-kind binding. -/
  | stfree (t : TileIx) (c : CtxIx)
  /-- NOP (R228): The instruction does nothing. -/
  | nop (t : TileIx) (c : CtxIx)
  /-- PLAN_LAUNCH (R266): A plan command reads and checks a survey plan, and binds this host's stages and allocates its slots. -/
  | planLaunch (p : Packet)
  /-- PLAN_STOP (R268): A plan command starts stopping a plan once its steps in progress have been emitted or have passed their deadlines. -/
  | planStop (p : Packet)
  /-- PLAN_STOP_DONE (R268): The steps in progress of a stopping plan end, so its bindings are removed and its armed slots are freed. -/
  | planStopDone (job plan : BitVec 16)
  /-- PLAN_REBIND (R280): A plan command arms the rebinding of a chainage index to a spare endpoint. -/
  | planRebind (p : Packet)
  /-- COLD (R269): A COL packet reaches a stage and is checked, staged and combined, and its segment may be emitted. -/
  | cold (p : Packet)
  /-- STEP_DEADLINE (R270): A stage's step deadline expires, and its absent contributions count as present with TIMEOUT. -/
  | stepDeadline (job plan : BitVec 16) (stage : Fin 64) (step : BitVec 16)
  /-- SLOT_FILL_DONE (R271): Every line of a slot fill is written, and the slot's ready stake is released. -/
  | slotFillDone (slot : Fin 4096)
  /-- SLOT_PLAIN_READ (R272): A load through a result slot's plain-read view returns the data, or NOT_READY or LOST_STATE. -/
  | slotPlainRead (p : Packet)
  /-- SLOT_WAIT_READ (R272): A load through the read-with-wait view is served, or waits for the slot to become ready. -/
  | slotWaitRead (p : Packet)
  /-- SLOT_WAIT_READ_SERVED (R272): A waiting read-with-wait is served once its slot becomes ready. -/
  | slotWaitReadServed (k : Nat)
  /-- SLOT_WAIT_READ_TIMEOUT (R272): A waiting read-with-wait reaches its bound and completes with TIMEOUT. -/
  | slotWaitReadTimeout (k : Nat)
  /-- SLOT_CONSUME_READ (R273): A load through the consume-read view returns the data, counts each page, and re-arms or frees the slot. -/
  | slotConsumeRead (p : Packet)
  /-- RESULT_HOLD_RELEASE (R273): A result held for a slot that was still ready is written once the slot re-arms, and COL credits flow again. -/
  | resultHoldRelease (slot : Fin 4096)
  /-- GATHER_STEP_START (R275): The input-stake acquire of a GATHER_INDEXED step is satisfied, and its rows are read. -/
  | gatherStepStart (job plan : BitVec 16) (timedOut : Bool)
  /-- PNM_ADD (R283): An ADD command is written to the PNM doorbell and placed in its module's queue. -/
  | pnmAdd (p : Packet)
  /-- PNM_MUL (R283): A MUL command is written to the PNM doorbell and placed in its module's queue. -/
  | pnmMul (p : Packet)
  /-- PNM_FMA (R283): An FMA command is written to the PNM doorbell and placed in its module's queue. -/
  | pnmFma (p : Packet)
  /-- PNM_ACT (R283): An ACT command is written to the PNM doorbell and placed in its module's queue. -/
  | pnmAct (p : Packet)
  /-- PNM_ACCEPTANCE (R291): A queued command's bank set frees, the home slice accepts it, its ranges become active and preparation starts. -/
  | pnmAcceptance (m : SlotIx)
  /-- PNM_DISPATCH (R291): Preparation of a command ends, and the table and PNC are sent to the module. -/
  | pnmDispatch (m : SlotIx) (cmdid : BitVec 16)
  /-- PNA (R293): A module's answer is ordered, so the ranges stop being active, the held requests are released and the record and release follow. -/
  | pna (p : Packet)
  /-- PNA_TIMEOUT (R301): No PNA arrives within its bound, and the module port is declared failed. -/
  | pnaTimeout (m : SlotIx) (cmdid : BitVec 16)
  /-- MODULE_INIT_DONE (R300): A module's initialisation ends, and its slot becomes available. -/
  | moduleInitDone (p : PortIx)
  /-- TRAVERSE_START (R310): A traverse command copies and checks a program, and arms the traverse. -/
  | traverseStart (p : Packet)
  /-- TRAVERSE_STOP (R320): A traverse command stops a traverse at its next leg boundary. -/
  | traverseStop (p : Packet)
  /-- BMK (R305): A benchmark arrives and is accepted or discarded, then delivered to ports, forwarded along the column and used as an anchor. -/
  | bmk (p : Packet)
  /-- BENCHMARK_INJECT (R305): A write of TRV_BENCH.GO injects a benchmark locally, and may send it into the grid. -/
  | benchmarkInject (v : Word)
  /-- LEG_SEND_POINT (R313): A leg reaches its send point and starts reading its source and multicasting data. -/
  | legSendPoint (k : Fin 16)
  /-- TRVD (R313): A traverse data packet reaches a destination, which writes or decodes its window lines. -/
  | trvd (p : Packet) (info : LegInfo)
  /-- LEG_WRITES_DONE (R313): Every line of a leg has completed at a destination, so the trailer is written, the ready stake is released and a report is sent. -/
  | legWritesDone (k : Nat) (done : Nat)
  /-- TRVR (R313): A destination's report reaches the sending engine, and the leg ends once every member has reported. -/
  | trvr (p : Packet)
  /-- RUNAHEAD_FILL_START (R315): The fill of a run-ahead leg starts once its predecessor has reached its send point and the buffer has room. -/
  | runaheadFillStart (k : Fin 16)
  /-- RUNAHEAD_FILL_DONE (R315): A run-ahead fill completes in the buffer. -/
  | runaheadFillDone (k : Fin 16) (leg : BitVec 12)
  /-- TRAVERSE_STALL_TIMEOUT (R321): A hand-back or an anchor is not met within STALL_LIMIT, and the traverse ends with TIMEOUT. -/
  | traverseStallTimeout (k : Fin 16)
  /-- LEG_MEMBER_TIMEOUT (R321): A member's writes time out, and the leg ends for that member without a release. -/
  | legMemberTimeout (k : Fin 16) (member : Fin 32)
  /-- XC_ENCODE (R335): A GO with MODE ENCODE starts encoding a BF16 range into an XCB stream. -/
  | xcEncode (v : Word)
  /-- XC_VERIFY (R335): A GO with MODE VERIFY starts parsing a stream and counting its damaged blocks. -/
  | xcVerify (v : Word)
  /-- XC_RUN_DONE (R334): A coding-engine run ends, and DONE and STATUS are set. -/
  | xcRunDone
  /-- FRAME_SEND (R349): A port direction sends its next frame, with control flit, data slots and integrity flit. -/
  | frameSend (p : LinkIx)
  /-- FRAME_RECEIVE (R355): A received frame is decoded and checked, then accepted, or discarded with a NAK, and its credits and acknowledgements are applied. -/
  | frameReceive (p : LinkIx) (f : RxFrame)
  /-- LEVELLING_START (R357): A write of 1 to PORT_CTL.EN checks the port's role and starts levelling. -/
  | levellingStart (p : PortIx) (v : Word)
  /-- PORT_DISABLE (R362): A write of 0 to PORT_CTL.EN takes the port down with cause 0x0D. -/
  | portDisable (p : PortIx) (v : Word)
  /-- CARRIER_CHECK_DONE (R357): The carrier check of levelling ends, and lane training starts. -/
  | carrierCheckDone (p : LinkIx) (ok : Bool)
  /-- LANE_TRAINING_DONE (R357): Lane training ends, and the symbol-error measurement starts. -/
  | laneTrainingDone (p : LinkIx) (ok : Bool)
  /-- LANE_QUALIFY_DONE (R357): The symbol-error measurement ends, and the lanes and the spare are chosen. -/
  | laneQualifyDone (p : LinkIx) (tx rx : List Nat)
  /-- ALIGNMENT_LOCK (R357): Alignment markers are found and the lanes are locked, and key establishment starts. -/
  | alignmentLock (p : LinkIx) (ok : Bool)
  /-- LVL (R357): A levelling exchange packet arrives and is checked, and the port comes up. -/
  | lvl (p : LinkIx) (body : BitVec 128)
  /-- LEVELLING_RETRY (R358): The 10 ms wait after a failed levelling expires, and levelling starts again. -/
  | levellingRetry (p : LinkIx)
  /-- HELLO (R486): A key-exchange HELLO arrives and its suite is checked. -/
  | hello (p : LinkIx) (body : List Byte)
  /-- CERT (R486): A key-exchange CERT fragment arrives, and the peer's chain is verified. -/
  | cert (p : LinkIx) (body : List Byte)
  /-- KEMKEY (R486): An ephemeral encapsulation key arrives and is verified, and the initiator encapsulates. -/
  | kemkey (p : LinkIx) (body : List Byte)
  /-- KEMCT (R486): A KEM ciphertext arrives and is verified, and the link keys are derived. -/
  | kemct (p : LinkIx) (body : List Byte)
  /-- FINISH (R486): A FINISH arrives and is checked, and the direction switches to encryption. -/
  | finish (p : LinkIx) (body : List Byte)
  /-- ABORT (R486): A key-exchange ABORT arrives, and the port goes down with cause 0x06. -/
  | abort (p : LinkIx) (body : List Byte)
  /-- BER_WINDOW_END (R359): A lane's symbol-error window ends, and the lane may be judged degraded. `count` is how many wrong symbols the
  window's uncorrectable codewords held on the lane: their decoder cannot tell (log 207). -/
  | berWindowEnd (p : PortIx) (lane : Fin 5) (count : BitVec 32)
  /-- LANE_FAIL (R359): A lane loses signal, lock or alignment, or reports a carrier fault, and is swapped at once or takes the port down. -/
  | laneFail (p : LinkIx) (lane : Fin 8)
  /-- SWAP_REQUEST (R360): A swap request arrives, and the sender moves the lane's logical number to the spare. -/
  | swapRequest (p : PortIx) (lane : Fin 5)
  /-- SWAP_LOCK (R360): The receiver locks on the spare and sends NAK, and the replay begins. -/
  | swapLock (p : PortIx)
  /-- SWAP_TIMEOUT (R361): A spare swap does not end within 250 µs, and the port goes down with cause 0x09. -/
  | swapTimeout (p : PortIx)
  /-- SWAP_NOW (R360): A write of PORT_CTL.SWAP_NOW starts an orderly swap of one lane. -/
  | swapNow (p : PortIx) (v : Word)
  /-- REKEY (R488): A write of PORT_CTL.REKEY starts a rekey of both directions. -/
  | rekey (p : PortIx) (v : Word)
  /-- REKEY_INTERVAL (R353): A direction's frame count reaches 2^REKEY_LOG2, and a rekey starts. -/
  | rekeyInterval (p : LinkIx)
  /-- PORT_DOWN (R362): A port goes down, its paths are declared dead, its agents die and levelling restarts. -/
  | portDown (p : LinkIx) (cause : BitVec 8)
  /-- LINK_IDLE_TIMEOUT (R450): An UP port accepts no frame for 4 µs and goes down with cause 0x0C. -/
  | linkIdleTimeout (p : LinkIx)
  /-- LSR (R363): A loss report arrives, and the unproven packets of the dead port are reported lost at once. -/
  | lsr (p : Packet)
  /-- UNPROVEN_LOSS_TIMEOUT (R363): The largest age limit passes after a port went down, and the remaining unproven packets are reported lost. -/
  | unprovenLossTimeout (p : PortIx)
  /-- PACKET_INGRESS (R366): A packet enters from a port or an internal source, is routed and written into the buffer, and enters a VOQ. -/
  | packetIngress (src : Source) (p : Packet)
  /-- CELL_ADMIT (R373): A cell held in the link reserve passes its admission and meter tests, and its credit returns. -/
  | cellAdmit (p : PortIx) (vc : Fin 18)
  /-- SCHEDULER_ROUND (R369): A matching round moves one cell from each matched input to its output. -/
  | schedulerRound
  /-- AGE_SWEEP (R384): The background age sweep discards expired packets and sends TIMEOUT for discarded requests. -/
  | ageSweep
  /-- SAMPLE_RECORD_WRITTEN (R387): A sample record write completes, so HEAD advances and the sample stake may be released. -/
  | sampleRecordWritten
  /-- CLASS_RSV_WRITE (R372): A write of SCH_CLASS_RSV sets the class reserves, or is refused. -/
  | classRsvWrite (v : Word)
  /-- GRADE_UPDATE (R390): The grades of the measured resources are recomputed every 64 switch-core cycles. -/
  | gradeUpdate
  /-- METER_REFILL (R393): The meter buckets gain tokens every 64 switch-core cycles, and held packets are tested again. -/
  | meterRefill
  /-- METER_CONFIG (R396): A write to a meter's configuration is applied, or is refused. -/
  | meterConfig (cfg1 : Bool) (v : Word)
  /-- SHAPER_REFILL (R399): The shaper buckets gain tokens every 64 switch-core cycles. -/
  | shaperRefill
  /-- SHAPER_CONFIG (R398): A write to SHP_CFG configures or enables a shaper, or is refused. -/
  | shaperConfig (v : Word)
  /-- GATE_ENTRY_TRANSITION (R401): A port's offset count reaches the next gate-list entry, and its open mask takes effect. -/
  | gateEntryTransition (p : PortIx)
  /-- GATE_LIST_ENABLE (R404): A write of PORT_GATE.EN enables a gate list, or is refused. -/
  | gateListEnable (p : PortIx) (v : Word)
  /-- GATE_LIST_CHANGE (R404): A write of BASE or COUNT to an enabled list is checked and waits, pending, for the next arrival. -/
  | gateListChange (p : PortIx) (v : Word)
  /-- GATE_ENTRY_WRITE (R404): A GL_DATA write sets a gate-table entry, or is refused, and may advance ENTRY. -/
  | gateEntryWrite (v : Word)
  /-- ETH_FRAME (R408): An Ethernet frame passes MACsec and is classified to RoCE ingress, the raw ring or discard. -/
  | ethFrame (p : PortIx) (f : EthFrame)
  /-- RDMA_WRITE_FIRST (R415): The first packet of an RDMA WRITE is checked for sequence and key, and its payload is written. -/
  | rdmaWriteFirst (p : PortIx) (k : RocePkt)
  /-- RDMA_WRITE_MIDDLE (R415): A middle packet of an RDMA WRITE is written. -/
  | rdmaWriteMiddle (p : PortIx) (k : RocePkt)
  /-- RDMA_WRITE_LAST (R415): The last packet of an RDMA WRITE is written, and the message ends. -/
  | rdmaWriteLast (p : PortIx) (k : RocePkt)
  /-- RDMA_WRITE_ONLY (R415): A single-packet RDMA WRITE is checked and written. -/
  | rdmaWriteOnly (p : PortIx) (k : RocePkt)
  /-- RDMA_WRITE_LAST_WITH_IMMEDIATE (R422): The last packet of a WRITE with immediate reserves a ring position, then is written, posted and notified. -/
  | rdmaWriteLastWithImmediate (p : PortIx) (k : RocePkt)
  /-- RDMA_WRITE_ONLY_WITH_IMMEDIATE (R422): A single-packet WRITE with immediate is checked, written, posted and notified. -/
  | rdmaWriteOnlyWithImmediate (p : PortIx) (k : RocePkt)
  /-- RDMA_READ_REQUEST (R416): An RDMA READ request is checked, and its reads are issued after the QP's earlier writes. -/
  | rdmaReadRequest (p : PortIx) (k : RocePkt)
  /-- CNP (R424): A congestion notification from the client lowers the QP's response rate. -/
  | cnp (p : PortIx) (k : RocePkt)
  /-- ROCE_RATE_INCREASE (R424): INC_GAP passes without a CNP, and the QP's response rate rises. -/
  | roceRateIncrease (qp : BitVec 16)
  /-- PFC_FRAME (R411): A received PFC frame pauses or resumes the egress of its priorities. -/
  | pfcFrame (p : PortIx) (prios : BitVec 8) (quanta : List (BitVec 16))
  /-- PFC_REFRESH (R410): 1,000 pause quanta pass while a priority is above XOFF, and the PFC frame is sent again. -/
  | pfcRefresh (p : PortIx) (q : Fin 8)
  /-- PFC_CONFIG (R411): A write of ETH_PFC sets the thresholds, or is refused. -/
  | pfcConfig (p : PortIx) (v : Word)
  /-- ROCE_ENABLE (R414): A write of ROCE_CTL.EN enables RoCE ingress, or is refused. -/
  | roceEnable (v : Word)
  /-- QP_CREATE (R412): A QP command moves a QP from RESET to RTR with the staged context. -/
  | qpCreate (v : Word)
  /-- QP_QUERY (R412): A QP command copies a QP's context to the data registers. -/
  | qpQuery (v : Word)
  /-- QP_FAIL (R417): A QP command moves a QP from RTR to ERROR. -/
  | qpFail (v : Word)
  /-- QP_DESTROY (R412): A QP command moves a QP to RESET once its outstanding fabric requests have completed. -/
  | qpDestroy (v : Word)
  /-- QP_DESTROY_DONE (R412): The outstanding requests of a destroyed QP complete, and DONE is set. -/
  | qpDestroyDone (qp : BitVec 16)
  /-- QPC_FETCH_DONE (R414): A QP context fetch from the spill region completes, and the packets in the miss queue are served. -/
  | qpcFetchDone (p : PortIx) (qp : BitVec 16)
  /-- MR_REGISTER (R419): A registration command makes a registration entry VALID. -/
  | mrRegister (v : Word)
  /-- MR_REVOKE (R420): A registration command marks an entry REVOKING, and the messages past their check may finish. -/
  | mrRevoke (v : Word)
  /-- MR_REVOKE_TIMEOUT (R420): A revoking registration reaches its bound, so the unfinished messages are NAKed and the entry becomes FREE. -/
  | mrRevokeTimeout (k : Fin 16384)
  /-- MR_QUERY (R419): A registration command copies an entry to the data registers. -/
  | mrQuery (v : Word)
  /-- RAW_TX (R426): A write of ROCE_RAW_TX1.GO sends a raw Ethernet frame from T0. -/
  | rawTx (v : Word)
  /-- ETH_LINK_DOWN (R425): An Ethernet link goes down, and its unsent READ responses are abandoned. -/
  | ethLinkDown (p : PortIx)
  /-- SAK_INSTALL (R489): A write of LC_SEL.GO installs a MACsec SAK for one association. -/
  | sakInstall (v : Word)
  /-- BOOT (R433): A parcel command checks and applies a boot composition to a FREE parcel. -/
  | boot (n : ParcelIx)
  /-- COMPOSE (R433): A parcel command checks and applies a new composition, live if the parcel is in service. -/
  | compose (n : ParcelIx)
  /-- ACTIVATE (R433): A parcel command moves a parcel from BOOT to ACTIVE. -/
  | activate (n : ParcelIx)
  /-- RELEASE (R440): A parcel command starts releasing a parcel, revoking and stopping everything it holds. -/
  | release (n : ParcelIx)
  /-- CLEAR_DEGRADED (R433): A parcel command moves a parcel from DEGRADED to ACTIVE. -/
  | clearDegraded (n : ParcelIx)
  /-- COMPOSITION_GRANTS_EFFECT (R436): The quiesce, zeroing and drain steps of a composition end, and the new grants take effect in each home arbiter. -/
  | compositionGrantsEffect (n : ParcelIx)
  /-- RELEASE_DONE (R440): Every part of a release completes, and the parcel becomes FREE. -/
  | releaseDone (n : ParcelIx)
  /-- EXT_CREATE (R439): An extent command checks a descriptor and makes the extent VALID in each home slice. -/
  | extCreate (n : ParcelIx) (v : Word)
  /-- EXT_REVOKE (R439): An extent command marks an extent REVOKING in each home slice. -/
  | extRevoke (n : ParcelIx) (v : Word)
  /-- EXT_QUERY (R439): An extent command copies a descriptor with its STATE to the extent registers. -/
  | extQuery (n : ParcelIx) (v : Word)
  /-- EXTENT_REVOKE_DRAINED (R439): The requests ordered before a revocation complete, so copies are recalled, frames are written back and the extent becomes FREE. -/
  | extentRevokeDrained (e : Fin 8192)
  /-- OCCUPANCY_TICK (R441): Once per µs each region adds the parcels' unit counts to their occupancy counters. -/
  | occupancyTick (r : SliceIx)
  /-- USAGE_SNAP (R441): A write of PCL_USE_SEL.SNAP latches a parcel's counters in each region. -/
  | usageSnap (n : ParcelIx) (v : Word)
  /-- TRACKER_TIMEOUT (R446): A request's tracker reaches its TIMEOUT time, and the request completes with TIMEOUT. -/
  | trackerTimeout (k : Nat)
  /-- TWIN_BEAT (R459): A beat period passes, and an owner writes its beat line to its partner. -/
  | twinBeat (col : Fin 32)
  /-- TWIN_BEAT_MISS (R459): MISS beat periods pass without a beat, and the partner declares its owner lost and claims its operations. -/
  | twinBeatMiss (col : Fin 32)
  /-- HANDOVER (R459): A beat line with HANDOVER set arrives, and the partner declares its owner lost. -/
  | handover (col : Fin 32) (count : Nat)
  /-- MIRROR_WRITE (R458): An owner's mirror write reaches the partner's state page, which answers with GEN and MSEQ. -/
  | mirrorWrite (col : Fin 32) (page : Nat) (m : TwinRecord)
  /-- MIRROR_ANSWER (R458): A partner's answer reaches the owner, which then takes its pending visible action or stands down. -/
  | mirrorAnswer (col : Fin 32) (kind : BitVec 4) (opref gen : BitVec 32) (mseq : Word)
  /-- TAKEOVER_FENCE_END (R460): The takeover fence expires, and the partner loads the copies and reissues the pending actions. -/
  | takeoverFenceEnd (col : Fin 32)
  /-- BRING_IN_COMMIT (R462): A new partner answers the final write of a bring-in, and the operation is twinned again. -/
  | bringInCommit (col : Fin 32) (kind : BitVec 4) (opref gen : BitVec 32) (mseq : Word)
  /-- MGMT_WATCHDOG_EXPIRY (R466): A management core's watchdog expires, and its firmware restarts. -/
  | mgmtWatchdogExpiry (k : Fin 16)
  /-- FIRMWARE_RESTART_DONE (R466): A management core's firmware restart ends, and the commands waiting on firmware run. -/
  | firmwareRestartDone (k : Fin 16)
  /-- HEARTBEAT (R467): A write of FB_HB.BEAT records the companion heartbeat and may clear LOST. -/
  | heartbeat (v : Word)
  /-- COMPANION_LOST (R467): MISS heartbeat periods pass without a beat, and the companion processor is declared lost. -/
  | companionLost
  /-- FIELD_BOOK_EVENT (R471): An event reaches a field book, which writes a FIRST record or coalesces it, and copies it up. -/
  | fieldBookEvent (b : BookIx)
  /-- COALESCE_CLOSE (R471): A coalescing entry's window expires, and a LAST record is written. -/
  | coalesceClose (b : BookIx) (cls : BitVec 8) (source : BitVec 16)
  /-- SPILL_MOVE (R474): The chip book moves a record to the spill ring and advances its TAIL. -/
  | spillMove
  /-- FB_TAIL_WRITE (R472): A write of FB_TAIL consumes records and frees room in a field book. -/
  | fbTailWrite (b : BookIx) (v : Word)
  /-- HBM_STACK_FAIL (R451): An HBM controller reports its stack failed, and the lines, frames and state held there are resolved. -/
  | hbmStackFail (r : SliceIx)
  /-- CLAIM (R477): A security command records the owner key of a PROVISIONED part. -/
  | claim (blk : SecBlock)
  /-- CLEAR (R491): A signed security command runs a clearance into its target state. -/
  | clear (blk : SecBlock)
  /-- DEBUG (R493): A signed security command runs a clearance into DEBUG and enables debug access. -/
  | debugCmd (blk : SecBlock)
  /-- DECOMMISSION (R477): A signed security command runs a clearance and decommissions the part irreversibly. -/
  | decommission (blk : SecBlock)
  /-- REPORT (R490): A security command writes a signed device report. -/
  | report (blk : SecBlock)
  /-- CERTS (R484): A security command writes the DeviceID and Alias certificates. -/
  | certs (blk : SecBlock)
  /-- EXTEND (R483): A security command extends MR7 by a digest. -/
  | extend (blk : SecBlock)
  /-- NEW_OWNER (R477): A signed security command replaces the owner key hash. -/
  | newOwner (blk : SecBlock)
  /-- CLEARANCE_ITEMS_DONE (R491): The parallel clearance items end, so the final record is stored, MR5 is extended and the clearance report is signed. -/
  | clearanceItemsDone (status : List (BitVec 8)) (ms : List (BitVec 16))
  /-- ENTROPY_HEALTH_FAIL (R481): A continuous health test fails, SEC_STAT.ERROR is set and keying stops. -/
  | entropyHealthFail
  /-- COLD_RESET (R496): COLD_RST_N goes low or PWR_OK is deasserted, and optical drive, carriers and ports stop. -/
  | coldReset (why : ColdCause)
  /-- COLD_RESET_RELEASE (R497): COLD_RST_N rises, and the start-up sequence begins. -/
  | coldResetRelease (strap : BitVec 2)
  /-- PLL_LOCK (R497): The region PLLs lock, and the self-tests begin. -/
  | pllLock
  /-- BIST_DONE (R500): The BIST items end, and their MISRs are compared with the reference record. -/
  | bistDone (r : BistResult)
  /-- IMAGE_VERIFY_DONE (R499): The image sets are read and verified, and the first passing set is used. -/
  | imageVerifyDone (pass : List ImageSource) (digests : List Word)
  /-- HBM_TRAINING_DONE (R504): A stack's training ends, passing or failing. -/
  | hbmTrainingDone (r : SliceIx) (ok : Bool) (rate margin : BitVec 16)
  /-- FLASH_TRAINING_DONE (R505): A flash channel's training ends, passing or failing. -/
  | flashTrainingDone (ch : Fin 16) (ok : Bool) (targets : BitVec 8)
  /-- WARM_RESET (R507): A write of RST_CTL.WARM resets all but the PLLs and reruns start-up from step 2. -/
  | warmReset (v : Word)
  /-- REGION_RESET (R508): A write of RST_CTL.REGION resets one region, with its blocks, slice, stake home and stack. -/
  | regionReset (r : SliceIx)
  /-- BLOCK_RESET (R508): A write of RST_CTL.BLOCK resets one block's ports, tiles, cache and field book. -/
  | blockReset (n : BlockIx)
  /-- PARTIAL_RESET_DONE (R507): A region or block reset ends, and its instance is serving again. -/
  | partialResetDone
  /-- HBM_RETRAIN (R506): A write of HBM_CTL.RETRAIN retrains a stack while its slice is disabled. -/
  | hbmRetrain (r : SliceIx)
  /-- MS_LOAD (R511): A monument-store command copies the active copy into the staging buffer. -/
  | msLoad (v : Word)
  /-- MS_STORE (R511): A monument-store command checks the staging buffer and starts writing it into the inactive copy. -/
  | msStore (v : Word)
  /-- MS_STORE_DONE (R511): A stored copy is read back and checked, and becomes active or stays inactive. -/
  | msStoreDone (ok : Bool)
  /-- MS_IMAGE (R499): A monument-store command verifies an image set in T0 and writes it into the set that is not preferred. -/
  | msImage (v : Word)
  /-- MS_STG_DATA_WRITE (R511): A write of MS_STG_DATA changes 8 B of the staging buffer, and may advance OFFSET. -/
  | msStgDataWrite (v : Word)
  /-- REFCLK_LOSS (R546): A reference clock is lost, and the Tiolo acts as on a cold reset. -/
  | refclkLoss (r : SliceIx)
  /-- REFCLK_RESTORED (R546): All four references have been present for 1 ms, and start-up step 1 runs again. -/
  | refclkRestored
  /-- THERMTRIP (R554): A junction sensor reaches 115 °C, so THERMTRIP_N is asserted and the ports and carriers stop. -/
  | thermtrip
  /-- TEMP_UPDATE (R555): Every 100 µs the temperature readings update. -/
  | tempUpdate (temps : List (BitVec 8))
  /-- LASER_FAULT (R552): LS_FAULT_N falls, and the UP ports of the slot check their carrier monitors. -/
  | laserFault (slot : Fin 12) (low : List (PortIx × Fin 5))
  /-- POWER_ESTIMATE (R32): Every 10 µs each region estimates its power. -/
  | powerEstimate (r : SliceIx) (watts : Nat)
  /-- TILE_FREQ_STEP (R32): A 100 µs period ends, and the tile islands step down or up by 100 MHz, or stay. -/
  | tileFreqStep
  /-- POWER_FLOOR_EVENT (R33): The average stays above the limit for 10 ms at the floor, and a power event is recorded. -/
  | powerFloorEvent
  /-- INTERRUPT_RAISE (R525): A page raises its vector, and the interrupt arbiter sets PEND, sends a message or coalesces. -/
  | interruptRaise
  /-- INT_PEND_CLEAR (R525): A W1C write to INT_PEND clears pending bits. -/
  | intPendClear (j : Fin 32) (v : Word)
  /-- INT_MASK_WRITE (R525): A write of INT_MASK that unmasks pending vectors sends their messages. -/
  | intMaskWrite (j : Fin 32) (v : Word)
  /-- ERR_SUM_CLEAR (R523): A W1C write to PG_ERR_SUM clears error summary bits. -/
  | errSumClear (page : BitVec 12) (v : Word)
  /-- COUNTER_CLEAR (R521): A write of PG_CTL.CLEAR zeroes a page's counters in one arbiter step. -/
  | counterClear (page : BitVec 12)
  /-- PERTURB_OFF (R530): A PG_PERTURB write with KIND OFF ends any perturbation of the page. -/
  | perturbOff (page : BitVec 12) (v : Word)
  /-- PERTURB_DELAY (R530): A PG_PERTURB write adds delay to the handshakes into the page's instance, or is refused. -/
  | perturbDelay (page : BitVec 12) (v : Word)
  /-- PERTURB_BACKPRESSURE (R530): A PG_PERTURB write withholds credits of one channel in a pattern, or is refused. -/
  | perturbBackpressure (page : BitVec 12) (v : Word)
  /-- PERTURB_GATE_JITTER (R530): A PG_PERTURB write shifts a port's gate openings and closings, or is refused. -/
  | perturbGateJitter (page : BitVec 12) (v : Word)
  /-- PERTURB_INJECT (R530): A PG_PERTURB write arms injection of an error code, or is refused. -/
  | perturbInject (page : BitVec 12) (v : Word)
  /-- I3C_WARM (R533): A sideband write of the WARM index with the magic value starts a warm reset. -/
  | i3cWarm (v : Word)
  /-- I3C_DYNAMIC_ADDRESS (R532): SETDASA or ENTDAA assigns the sideband its dynamic address. -/
  | i3cDynamicAddress (a : BitVec 7)
  /-- SELF_TESTS_DONE (R497): The known-answer and entropy start-up tests of boot step 2 end; a failure sets SEC_STAT.ERROR, then the monument store is read and the reference record verified, entering reset-hold with cause 0x1 or 0x2 or starting BIST. -/
  | selfTestsDone (kat : KatResult)
  /-- ETH_LINK_UP (R364): An ETH port's 800 Gb/s Ethernet link comes up on its four lanes, after which frames are carried and the requester's go-back-N recovers. -/
  | ethLinkUp (p : PortIx)
  /-- PFC_PAUSE_EXPIRY (R411): The pause quanta of a received PFC frame run out, and the paused priority becomes eligible at its egress again and its units are retested under R403. -/
  | pfcPauseExpiry (p : PortIx) (q : Fin 8)
  /-- JTAG_INSTRUCTION (R493): An instruction shifted in on the JTAG pins is served (IDCODE, BYPASS, boundary scan in reset-hold, or full scan in DEBUG) or refused by the lifecycle state. -/
  | jtagInstruction (i : JtagInstr)
  /-- MS_IMAGE_DONE (R499): The write of a verified image set into the boot partition's non-preferred set ends, and MS_CTL reports DONE and STATUS. -/
  | msImageDone (ok : Bool)
  /-- I3C_IBI_DISABLE (R534): The I3C bus controller enables or disables In-Band Interrupts from the Tiolo, and this decides whether later BOOT_STAT events are signalled. -/
  | i3cIbiDisable (disabled : Bool)
  deriving DecidableEq, Repr

end Sys2Proof
end

