-- ==== Sys2Proof/Decode.lean ====
section
/-!
DEFINITION. The words that spell a command. The table of commands gives no row any bits, so no word spells one.
-/
namespace Sys2Proof

/-- The command that the `nbits` bits `w` spell: none, since no row of the table has bits. -/
def decodeTableWord (_nbits _w : Nat) : Option Instr := none

end Sys2Proof
end

