-- ==== Sys2Proof/Config.lean ====
section
/-!
DEFINITION. What the model leaves free: values the spec leaves open and the cryptographic functions it takes from other standards.
None has a body, so no proof can see a value of it. The counter `State.free` picks the next free value; each use is in the log.
-/
namespace Sys2Proof.Config

/-- The n-th open value taken, as raw bits (the low bits are used where fewer are needed). -/
opaque freeValue : Nat → BitVec 1024
/-- The n-th 256-bit draw from the CTR_DRBG of NIST SP 800-90A (R480). -/
opaque drbg : Nat → BitVec 256
/-- SHA3-256 (R483, R486). -/
opaque sha3 : List (BitVec 8) → BitVec 256
/-- ML-DSA-44 verification: public key, message, signature (R478, R482, R486). -/
opaque mlDsaVerify : List (BitVec 8) → List (BitVec 8) → List (BitVec 8) → Bool
/-- ML-DSA-44 signature with the key that a 256-bit secret stands for (R484, R486, R490). -/
opaque mlDsaSign : BitVec 256 → List (BitVec 8) → List (BitVec 8)
/-- ML-KEM-768 key generation from a seed: the encapsulation key, then the decapsulation key (R486). -/
opaque mlKemKeyGen : BitVec 256 → List (BitVec 8) × List (BitVec 8)
/-- ML-KEM-768 encapsulation to a key with a seed: the ciphertext, then the shared secret (R486). -/
opaque mlKemEncaps : List (BitVec 8) → BitVec 256 → List (BitVec 8) × List (BitVec 8)
/-- ML-KEM-768 decapsulation: decapsulation key, ciphertext (R486). -/
opaque mlKemDecaps : List (BitVec 8) → List (BitVec 8) → List (BitVec 8)
/-- Byte i of the AES-256 counter-mode key stream of GCM, for a key, a link salt and a frame counter (R353). -/
opaque gcmByte : BitVec 256 → BitVec 32 → BitVec 64 → Nat → BitVec 8
/-- The GCM tag of AES-256-GCM over additional data and ciphertext, for a key, a link salt and a frame counter (R352, R353). -/
opaque gcmTag : BitVec 256 → BitVec 32 → BitVec 64 → List (BitVec 8) → List (BitVec 8) → BitVec 128
/-- HMAC-SHA3-256 (R480, R486). -/
opaque hmac : List (BitVec 8) → List (BitVec 8) → BitVec 256
/-- The KDF in counter mode of NIST SP 800-108 with HMAC-SHA3-256: key, label, context, 104 bytes out (R486). -/
opaque kdf : List (BitVec 8) → List (BitVec 8) → List (BitVec 8) → List (BitVec 8)
/-- The identity public key of an X.509 chain, when the chain verifies to an anchor of the trust-anchor set (R486). -/
opaque chainKey : List (BitVec 8) → Option (List (BitVec 8))
/-- The lifecycle state and tenant that a peer Tiolo's Alias certificate names; none for another kind of peer (R484, R487). -/
opaque chainTiolo : List (BitVec 8) → Option (Nat × BitVec 128)
/-- The device's own certificates: 0 DeviceID, 1 Alias for a CDI, as DER (R484). -/
opaque certificate : Nat → BitVec 256 → List (BitVec 8)
/-- The digest of the boot ROM's own code (R483 MR0). -/
opaque romDigest : BitVec 256
/-- The digest of the trust-anchor set (R483 MR6). -/
opaque anchorDigest : BitVec 256
/-- The UDS-derived key of CDI (R480). -/
opaque udsKey : List (BitVec 8)
/-- A signature over a message verifies under the ML-DSA-44 public key whose SHA3-256 is given (R479). -/
opaque ownerSigned : BitVec 256 → List (BitVec 8) → List (BitVec 8) → Bool
/-- The 4,032 bytes of a lifecycle record: state, tenant, clearance count, owner key hash, wrapped MK, CLEARING mark (R509). -/
opaque lifeRecord : Nat → BitVec 128 → Nat → Option (BitVec 256) → BitVec 256 → Bool → List (BitVec 8)
/-- An image set read from memory passes R482. -/
opaque imageSetOk : List (BitVec 8) → Bool
/-- A staged reference record carries signatures that pass R501, for an owner key hash. -/
opaque referenceOk : List (BitVec 8) → Option (BitVec 256) → Bool
/-- SHA3-256 of the BOARD key in a reference record (R501). -/
opaque referenceKey : List (BitVec 8) → BitVec 256
/-- The MISR that a reference record's PKG (false) or BOARD (true) section expects of an item, where the item's flag is set (R501). -/
opaque referenceMisr : List (BitVec 8) → Bool → Nat → Option (BitVec 64)
/-- The backing set of a line's directory entry, of a slice whose backing store has the given number of sets (R94). -/
opaque backingSet : Nat → BitVec 49 → Nat
/-- The module offset that CHECK of a line of an activation table's packet covers (R293, R345). -/
opaque tableOffset : Nat → Nat

/-- The set of a line's directory entry in a cadastre cache (R92). -/
opaque cacheSet : BitVec 49 → Nat
/-- Read retries that a sector of a flash block needs before it decodes, by block, sector and reads of the block so far; 0 for one
that the hard decode reads (R170). -/
opaque sectorTries : Nat → Nat → Nat → Nat
/-- The flash blocks that the factory has marked bad (R170). -/
opaque factoryBad : List Nat
/-- FW_SVN of the fuses (R480). -/
opaque fwSvn : BitVec 32

end Sys2Proof.Config
end

