-- ==== Sys2Proof/Machine/State.lean ====
section
/-!
DEFINITION. The state of one Tiolo as plain data: its register pages, its memory, and every queue, table, buffer and mode the
spec gives it, with `State.reset`. Each field's docstring gives its width or range, the rule that names it and its reset value.
-/
namespace Sys2Proof.Machine

/-- Why the machine stops with a fault. It has no constructor: every command of the table has an effect in every state. -/
inductive Fault where
  deriving DecidableEq, Repr

/-- Why the machine gives a command no meaning. -/
inductive Refusal where
  /-- Raised by `exec` for a command that has no meaning yet. Safe: the model stops. -/
  | notModelled (mnemonic : String)
  deriving DecidableEq, Repr

/-- A table keyed by number, its keys strictly rising; an absent key reads as the owner's default. -/
abbrev KMap (α : Type) := List (Nat × α)

/-! ### Chapter 2: extents -/

/-- STATE of an extent (R57). -/
inductive ExtState where
  | free | valid | revoking
  deriving DecidableEq, Repr

/-- An extent descriptor (R57) with its STATE. -/
structure Extent where
  /-- Local offset of the first byte (R57 BASE). -/
  base : Nat := 0
  pages : Nat := 0
  owner : Nat := 0
  rd : Bool := false
  wr : Bool := false
  coh : Bool := false
  vers : Bool := false
  twin : Bool := false
  wb : Bool := false
  repl : Bool := false
  partner : Nat := 0
  visible : Nat := 0
  version : Nat := 0
  state : ExtState := .free
  /-- The WB extent's cache state was lost with a stack: every request completes with FATAL until it is created again (R169). -/
  fatal : Bool := false
  /-- Bit r: the coherent lines homed in region r were lost with its stack; requests to them complete with FATAL (R105). -/
  lostRegions : BitVec 4 := 0
  /-- Local line numbers whose directory entry was lost; requests to them complete with FATAL (R105). -/
  lostLines : List Nat := []
  deriving DecidableEq, Repr

/-! ### Chapter 3: the cadastre -/

/-- GSTATE of a directory entry (R91), or the held state of a proxy entry. -/
inductive GState where
  | i | s | m
  deriving DecidableEq, Repr

/-- LOSTATE of a directory entry (R91). -/
inductive LoState where
  | none | e | o | m
  deriving DecidableEq, Repr

/-- A directory entry (R91), keyed by its GFA line number; ROLE is home when HOME is this Tiolo. -/
structure DirEntry where
  proxy : Bool := false
  lostData : Bool := false
  gstate : GState := .i
  gowner : BitVec 10 := 0
  gsharers : BitVec 128 := 0
  lowner : Nat := 0
  lostate : LoState := .none
  lsharers : BitVec 49 := 0
  deriving DecidableEq, Repr

/-- What a transaction in progress does once its snoops are answered (R82–R85, R95, R96, R556). -/
inductive TxnKind where
  /-- A request of the table of R82 at the home. -/
  | home
  /-- A local request at the proxy that waits for local snoops, then for the home's CMP where it needs one (R84). -/
  | proxy
  /-- A home's snoop that waits for local snoops (R85). -/
  | snoop
  /-- A back-invalidation, a recall or the resolution of a failure: the line ends without copies (R95, R96, R102, R105). -/
  | recall
  /-- A line's owner is fetched and its data written to memory; S copies stay (R291 step 3). -/
  | fetch
  /-- The proxy gives the line up to its home by WBK, poisoned or with returned data (R84 WBK row, R95, R556). -/
  | giveUp
  deriving DecidableEq, Repr

/-- A transaction in progress on the lines of one request: their entries are busy (R65, R83). -/
structure Txn where
  /-- GFA line numbers: one, or every line of a request of up to one page (R49, R111). -/
  lines : List Nat
  kind : TxnKind
  req : Packet
  /-- Snooped holders that have not answered, with their line (R83). -/
  waiting : List (Nat × Holder) := []
  /-- Lines' data that a holder has supplied. -/
  got : List (Nat × List Byte) := []
  /-- Lines whose dirty owner's data was found lost (R104, R556). -/
  lost : List Nat := []
  /-- Memory writes not yet accepted (R83). -/
  writes : Nat := 0
  /-- A read of home memory is outstanding (R88). -/
  reading : Bool := false
  /-- Memory data has returned and may be used (R88). -/
  memOk : Bool := false
  /-- The outstanding read is a speculative one (R87). -/
  spec : Bool := false
  /-- The directory entry is being fetched from the backing store (R94). -/
  fetching : Bool := false
  /-- The proxy's own request to the home is outstanding (R84). -/
  atHome : Bool := false
  /-- Its memory effects have been applied. -/
  applied : Bool := false
  /-- The page's replicas are being invalidated (R100). -/
  spi : Bool := false
  /-- The home's CMP to the proxy's request, kept while the other local copies are invalidated (R84). -/
  ans : Option Packet := none
  /-- A line's page waits for its frame of the write-back cache (R166). -/
  framing : Bool := false
  /-- The copies that a dead or severed owner has left behind are being invalidated; then the lookup goes on (R102, R103). -/
  resolving : Bool := false
  /-- A completion is owed to the requester (R102 discards the requests of a dead agent). -/
  reply : Bool := true
  deriving DecidableEq, Repr

/-- A page of the replica measurement table (R97). -/
structure PageMeas where
  reads : Nat := 0
  writes : Nat := 0
  groups : BitVec 128 := 0
  /-- Sequence number of the slice's arbiter at the last touch (the replacement order of R97). -/
  touched : Nat := 0
  deriving DecidableEq, Repr

/-- One cadastre slice beside its register page (R64–R106). -/
structure CadSlice where
  /-- Directory entries (home and proxy), keyed by GFA line number, 49 bits (R90, R91); reset: none. -/
  entries : KMap DirEntry := []
  /-- Lines whose entry is held only in the backing store, so that a lookup fetches it (R94); reset: none. -/
  spilled : List Nat := []
  /-- Use order of the entries, least recently used first (R95); reset: none. -/
  lru : List Nat := []
  /-- Transactions in progress, one per busy line (R65, R83); reset: none. -/
  txns : List Txn := []
  /-- The conflict queue, at most 2,048 requests, oldest first, each with its resolved local offset (R62, R65); reset: empty. -/
  conflictQ : List (Nat × Packet) := []
  /-- Requests held for PNM operations, at most 1,024, in hold order, with their local offset (R295); reset: empty. -/
  holdQ : List (Nat × Packet) := []
  /-- The replica measurement table, at most 65,536 pages, keyed by GFA page (R97); reset: empty. -/
  measure : KMap PageMeas := []
  /-- The home's replica table: page to coarse groups (R99); reset: empty. -/
  replTable : KMap (BitVec 128) := []
  /-- The proxy's replica pages: GFA page to pool page (R99, R101); reset: empty. -/
  replicas : KMap Nat := []
  /-- Pages whose RPQ is outstanding, with the pool page kept for each (R99); reset: none. -/
  replPending : KMap Nat := []
  /-- Local holders of lines served from a replica: GFA line to agents (R85 SPI); reset: none. -/
  replHolders : KMap (BitVec 49) := []
  /-- Offers sent and not answered by RPQ: page and Tiolo (R98, R107 PG_CNT14); reset: none. -/
  offers : List (Nat × BitVec 10) := []
  /-- Agents whose sweep runs (R102); reset: none. -/
  sweeping : List Nat := []
  deriving DecidableEq, Repr

/-! ### Chapter 4: stakes, paths -/

/-- A stake's state (R114). -/
structure Stake where
  value : Word := 0
  lscope : BitVec 2 := 3
  ltiolo : BitVec 10 := 0
  lagent : BitVec 12 := 0
  lseq : Nat := 0
  /-- The state is lost: operations complete with FATAL until an SSET (R453). -/
  lost : Bool := false
  deriving DecidableEq, Repr

/-- A parked SACQ (R118–R121). -/
structure Parked where
  stake : Nat
  target : Word
  scope : BitVec 2
  req : Packet
  deriving DecidableEq, Repr

/-- A satisfied SACQ that waits for its completion slot, with the VALUE and sequence number of the change (R121). -/
structure Woken where
  parked : Parked
  value : Word
  seq : Nat
  flags : BitVec 3
  deriving DecidableEq, Repr

/-- The per-destination path state of the ingress (R130, R379). -/
structure Path where
  epoch : Nat := 0
  /-- Drain markers sent and not returned: the port each went down and its epoch (R130). -/
  drains : List (Nat × Nat) := []
  deriving DecidableEq, Repr

/-- The requester's side of one request (R446): who issued it, what it was, and why. -/
inductive Purpose where
  /-- A request of an agent outside: the completion is forwarded to its port. -/
  | outside
  /-- A remote access of a tile context. -/
  | context (tile ctx : Nat)
  /-- A line fill or ownership request of a block's tile line cache for a context. -/
  | lineCache (block tile ctx : Nat)
  /-- A page of a tier command (source read or destination write). -/
  | tier (cmd : Nat)
  /-- A completion-record write, then a stake release (R160). -/
  | record (cmd : Nat)
  /-- A back-stake acquire of a leg member (R313 step 1). -/
  | backAcquire (trav member : Nat)
  /-- A window or trailer write of a leg received here. -/
  | leg (id : Nat)
  /-- A row of a GATHER_INDEXED step (R275). -/
  | gather (plan row : Nat)
  /-- RoCE ingress: a write or read of a QP, by its request number (R416). -/
  | roce (qp k : Nat)
  /-- A record of the raw ring (R426). -/
  | rawRing
  /-- A proxy slice's request to a home (R84). -/
  | proxy (slice : Nat) (line : BitVec 49)
  /-- A source read (a line) or a destination write (a page) of the coding engine (R334). -/
  | xc (write : Bool) (part : Nat)
  /-- A mirror write of a twinned operation (R458). -/
  | mirror (kind : BitVec 4) (opref : BitVec 32) (taken : Option Nat)
  /-- A record of the field books' spill ring (R474). -/
  | spill
  /-- A source page of a leg: the page, whether it is for a fill, and the leg's number over all passes. -/
  | travLine (trav : Nat) (line : Nat)
  /-- The record of a plan command. -/
  | plan (p : Nat)
  /-- A record of the traverse engine. -/
  | travRec (id : Nat)
  /-- A PNM command's table read or record write: module and command. -/
  | pnm (m id : Nat)
  /-- A cadastre slice's own request without a waiter. -/
  | posted
  deriving DecidableEq, Repr

/-- A tracked request (R446). -/
structure Tracker where
  req : Packet
  purpose : Purpose
  /-- Destination Tiolo. -/
  dest : Nat
  /-- Its TIMEOUT time has come while a drain of its path is outstanding (R131). -/
  due : Bool := false
  deriving DecidableEq, Repr

/-! ### Chapter 5: tiers -/

/-- A parcel's tier quotas and use (R153): TQ_LIMIT, TQ_USE, TQ_OBJ. -/
structure Quota where
  t0 : Nat := 0
  t1 : Nat := 0
  t2 : Nat := 0
  objs : Nat := 0
  deriving DecidableEq, Repr

/-- An object of T2 (R154). -/
structure Obj where
  owner : Nat
  /-- Size in units of 1 MiB (R154). -/
  size : Nat
  /-- Its data key, by the number of its draw, and the media key under which it is wrapped (R172). -/
  key : Nat
  wrap : BitVec 256 := 0
  /-- OCREATE runs: its units and journal record are being programmed (R170). -/
  creating : Bool := false
  /-- ODELETE runs: later unit reads give POISON (R173). -/
  deleting : Bool := false
  deriving DecidableEq, Repr

/-- A flash unit: its map entry, content and poisoned sectors (R155, R159, R170). -/
structure FUnit where
  block : Nat := 0
  /-- The data key it is encrypted under (R172). -/
  key : Nat := 0
  /-- Non-zero bytes of the unit as that key recovers them, keyed by offset. -/
  data : List Host.Cell := []
  /-- Sectors of 4 KiB that read as POISON. -/
  bad : List Nat := []
  deriving DecidableEq, Repr

/-- A flash block of the translation layer (R170). -/
structure FBlock where
  erases : Nat := 0
  reads : Nat := 0
  retired : Bool := false
  /-- Freed, and not yet physically erased (R172). -/
  erasePending : Bool := false
  /-- Scheduled for a refresh migration: its read limit is reached, or a sector needed more than a hard decode (R170). -/
  due : Bool := false
  deriving DecidableEq, Repr

/-- Where a tier command stands (R156–R161). -/
inductive CmdPhase where
  | queued | running | ended
  deriving DecidableEq, Repr

/-- A tier command in the queue (R156, R157). -/
structure TierCmd where
  id : Nat
  parcel : Nat
  op : BitVec 8
  desc : List Word
  req : Packet
  phase : CmdPhase := .queued
  status : BitVec 4 := 0
  object : Nat := 0
  sizeMiB : Nat := 0
  /-- Fabric requests outstanding. -/
  waits : Nat := 0
  /-- Frames that a FLUSH or PIN still waits for (R166, R167). -/
  frames : List Nat := []
  /-- Pages done, of those it copies or pins. -/
  page : Nat := 0
  /-- The completion record is written and fenced, its stake released. -/
  recorded : Bool := false
  deriving DecidableEq, Repr

/-- A new unit image that is being programmed (R155). -/
structure UnitImage where
  cmd : Nat
  object : Nat
  index : Nat
  block : Nat
  data : List Host.Cell
  bad : List Nat
  /-- Every page of the unit that the command writes is in it. -/
  full : Bool := false
  deriving DecidableEq, Repr

/-- A frame of the write-back cache (R165–R167), keyed by the local page it caches. -/
structure Frame where
  parcel : Nat
  /-- The 4 KiB pool page in T0. -/
  pool : Nat
  dirty : Bool := false
  pin : Bool := false
  /-- Being filled from the module (R166). -/
  filling : Bool := false
  /-- Being written back; a store ordered since sets DIRTY again (R166). -/
  cleaning : Bool := false
  restored : Bool := false
  /-- Freed once its write-back is acknowledged (R167, R168). -/
  evict : Bool := false
  /-- Requests that wait for the fill or the eviction, with their local offset (R166, R167). -/
  waiters : List (Nat × Packet) := []
  /-- Its last use, and the store that made it dirty, in the cache's order (R153, R167). -/
  used : Nat := 0
  since : Nat := 0
  deriving DecidableEq, Repr

/-- An engine or tile doorbell write that is held for a full queue (R156, R190). -/
structure HeldDoorbell where
  /-- Engine 0–3, or 4 + tile. -/
  door : Nat
  req : Packet
  deriving DecidableEq, Repr

/-! ### Chapters 6 and 7: tiles -/

/-- The states of a context (R182). -/
inductive CtxState where
  | free | ready | running | waitRemote | waitStake | sleep | drain
  deriving DecidableEq, Repr

/-- TAG of an accumulator lane (R246). -/
inductive LaneTag where
  | finite | posInf | negInf | nan
  deriving DecidableEq, Repr

/-- An exact-accumulator lane (R246). -/
structure Lane where
  sum : BitVec 320 := 0
  tag : LaneTag := .finite
  /-- The context that holds it (R192, R217). -/
  owner : Option Nat := none
  deriving DecidableEq, Repr

/-- What an outstanding request of a context brings back (R223–R226). -/
inductive RemoteUse where
  | loadV (reg : Nat)
  /-- An 8 B load: the register, and the offset of the 8 B in their line. -/
  | loadS (spec off : Nat)
  /-- A line of an RST: the destination Tiolo, and the bytes to merge under their mask (R187). -/
  | store (dest : Nat) (mask : BitVec 128) (data : BitVec 1024)
  | atomic (spec : Nat) (dest : Nat)
  | srel (spec : Nat)
  | sacq (spec : Nat) (scope : BitVec 2)
  /-- Requests of the completion itself: the record write and the release (R194). -/
  | record
  | release
  /-- A line of a LOAD descriptor: the SRAM byte address it fills (R191). -/
  | load (addr : Nat)
  /-- A bound context's acquire of its step's input stake: the stake, the value and WAIT (R275). -/
  | input (stake : Nat) (value : Word) (wait : Nat)
  deriving DecidableEq, Repr

/-- An outstanding request of a context (R186, R188). -/
structure Outstanding where
  tid : BitVec 16 := 0
  use : RemoteUse := .record
  /-- The access goes through the tile line cache (R187). -/
  cached : Bool := false
  /-- Its line there, by GFA divided by 128, and the address that it asks for. -/
  line : Nat := 0
  gfa : BitVec 56 := 0
  /-- Its request has been sent; a cached access waits while the block has another request for the line under way. -/
  sent : Bool := true
  deriving DecidableEq, Repr

/-- A context of a tile (R181, R182, R188, R212). -/
structure Ctx where
  state : CtxState := .free
  v : KMap (BitVec 1024) := []
  s : KMap Word := []
  p : KMap (BitVec 128) := []
  a : KMap Word := []
  pc : BitVec 16 := 0
  csw : Word := 0
  /-- Physical numbers of its accumulator lanes, ascending (R217). -/
  lanes : List Nat := []
  outstanding : List Outstanding := []
  /-- Per destination Tiolo: RST and RATOM requests without a completion, and the worst status of those requests (R188). -/
  fence : KMap (Nat × BitVec 4) := []
  /-- The SREL that waits for its fence: destination specifier, stake address, addend, scope (R226). -/
  fencing : Option (Nat × BitVec 56 × Word × BitVec 2) := none
  /-- The descriptor it runs (R191); none in a bound context. -/
  desc : List Word := []
  isLoad : Bool := false
  /-- The binding that reserves it (R196). -/
  bound : Option Nat := none
  /-- A fault or kill code, 0 if none (R200). -/
  fault : BitVec 8 := 0
  faultPc : BitVec 16 := 0
  /-- RESULT: S0 at END (R195). -/
  result : BitVec 32 := 0
  /-- An access found no outstanding-request slot: the instruction is issued again once one frees (R183, R186). -/
  slotWait : Bool := false
  /-- The worst status and the flags gathered for LSTAT of a multi-line access (R225). -/
  gather : BitVec 4 := 0
  gatherFlags : BitVec 3 := 0
  /-- LOAD: bytes requested so far, and the worst status of its reads (R193, R195). -/
  loadNext : Nat := 0
  loadWorst : BitVec 4 := 0
  /-- The completion record is written (R194 step 3). -/
  recorded : Bool := false
  /-- The answer to its acquire of the step's input stake (R275). -/
  input : Option (BitVec 4) := none
  /-- Its job tag (R193). -/
  job : BitVec 16 := 0
  deriving DecidableEq, Repr

/-- An arrival entry of a binding (R197). -/
structure Arrival where
  s12 : Word
  s13 : Word
  deriving DecidableEq, Repr

/-- An on-path binding (R196). -/
structure Binding where
  ctx : Nat
  builtin : Bool
  job : BitVec 16
  plan : BitVec 16 := 0
  flow : BitVec 16
  /-- The stage it serves. -/
  stage : Nat := 0
  /-- Bytes of reorder staging it needs (R256). -/
  need : Nat := 0
  queue : List Arrival := []
  /-- Arrival entries delivered whose region is not yet released (R229). -/
  delivered : List Arrival := []
  /-- Bytes of staging in use. -/
  staged : Nat := 0
  /-- Arrivals that wait for staging space (R198), with their payload; ADDR is not yet given. -/
  waiting : List (Arrival × List Byte) := []
  deriving DecidableEq, Repr

/-- A compute tile beside its register page (R175–R203). -/
structure Tile where
  /-- Non-zero bytes of the 512 KiB SRAM, keyed by byte address (R176). -/
  sram : List Host.Cell := []
  ctxs : KMap Ctx := []
  lanes : KMap Lane := []
  /-- Queued descriptors, at most 64, with their job tag (R190). -/
  queue : List (List Word × Packet) := []
  bindings : KMap Binding := []
  /-- The rotating pointers of R185. -/
  rrUrgent : Nat := 0
  rrNormal : Nat := 0
  /-- A LOAD descriptor runs (R192). -/
  loading : Bool := false
  /-- SRAM words, by byte address divided by 8, with an error that SECDED corrects, and with one that it cannot (R176, R200). -/
  eccOne : List Nat := []
  eccBad : List Nat := []
  deriving DecidableEq, Repr

/-- A line of a block's tile line cache (R187). -/
structure TlcLine where
  /-- 0 NC, 1 S, 2 E, 3 M as GRANT (R78), 4 O (R71), 5 written back and kept until the CMP of its WBK (R80). -/
  state : BitVec 3
  data : List Byte
  deriving DecidableEq, Repr

/-! ### Chapter 9: collectives -/

/-- One contribution or combined node of a segment (R251, R255). -/
structure Node where
  status : BitVec 4
  data : List Byte
  deriving DecidableEq, Repr

/-- One segment of one step at a stage, not yet emitted (R250, R255). For ALLGATHER and FILTER, the step's pieces stand in one
segment at offset 0. -/
structure Segment where
  step : Nat
  off : Nat
  /-- Chainage indices present (R255); pieces by index and offset for ALLGATHER and FILTER. -/
  present : List (Nat × Nat) := []
  /-- Values held: (lo, size) to node (R251), or (index, offset) to piece; in exact mode the sums stand in `sums`. -/
  nodes : List ((Nat × Nat) × Node) := []
  sums : List Lane := []
  /-- The worst contribution status (R254). -/
  worst : BitVec 4 := 0
  deriving DecidableEq, Repr

/-- A chainage index's source: the endpoint or stage bound to it, and a rebinding (R264, R281). -/
structure Source' where
  stage : Bool
  ref : Nat
  /-- Bytes it contributes in a step. -/
  len : Nat := 0
  /-- Earlier endpoints, each with the effective step before which it is valid, in the order of those steps (R281). -/
  old : List (Nat × Nat) := []
  /-- The steps, from the next benchmark's on, for which a contribution of it has arrived (R281). -/
  seen : List Nat := []
  /-- An armed spare, and whether it was armed automatically (R280). -/
  armed : Option (Nat × Bool) := none
  run : Nat := 0
  rebound : Bool := false
  deriving DecidableEq, Repr

/-- A stage bound on this Tiolo (R264–R270). -/
structure Stage where
  number : Nat
  n : Nat
  next : Nat
  nextIdx : Nat
  tiles : List Nat
  /-- Its bindings, one per tile: tile, binding number, context. -/
  binds : List (Nat × Nat × Nat) := []
  sources : List Source'
  /-- Bytes of its output in a step. -/
  outLen : Nat
  /-- The lowest step not yet emitted (R269). -/
  current : Nat := 0
  /-- Steps whose first contribution has arrived, with the switch-core cycle of that arrival (R270, R279). -/
  began : KMap Nat := []
  segments : List Segment := []
  /-- Segments emitted, by step and offset, of steps from `current` on. -/
  emitted : List (Nat × Nat) := []
  /-- LAG by 4,096·step + index (R279). -/
  lags : KMap Nat := []
  /-- The index whose contribution arrived last, by step. -/
  lastIdx : KMap Nat := []
  /-- Steps that complete with UNSUPPORTED (R269). -/
  unsup : List Nat := []
  /-- Per tile: the status that its segments carry after a fault of the bound context (R282). -/
  failed : KMap (BitVec 4) := []
  /-- Rows of a GATHER_INDEXED step that are being read: offset and bytes in the slot (R275). -/
  rows : KMap (Nat × Nat) := []
  deriving DecidableEq, Repr

/-- A live plan on this Tiolo (R261–R268). -/
structure Plan where
  job : BitVec 16
  plan : BitVec 16
  parcel : Nat
  /-- The eight header words (R262). -/
  header : List Word
  /-- Hosts of every stage, in stage order. -/
  hosts : List Nat
  nexts : List Nat
  /-- The leaf stages, ascending. -/
  leaves : List Nat
  /-- The spare pool's grid references (R264). -/
  spares : List Nat
  stages : List Stage
  /-- The first slot of the ring. -/
  slot : Nat
  /-- VALUE of the input stake at launch (R275). -/
  inputBase : Word := 0
  stopping : Bool := false
  /-- Benchmarks of the job accepted since launch. -/
  benchmarks : Nat := 0
  /-- The stages' steps that had begun when STOP came, by stage and step (R268). -/
  awaited : List (Nat × Nat) := []
  deriving DecidableEq, Repr

/-- A plan command from its doorbell to the end of its record (R265). -/
structure PlanCmd where
  id : Nat
  parcel : Nat
  desc : List Word
  req : Packet
  status : BitVec 4 := 0
  detail : Nat := 0
  slot : Nat := 0
  value : Nat := 0
  flags : BitVec 3 := 0
  /-- Its record is being written; before that, a STOP or REBIND waits. -/
  recording : Bool := false
  deriving DecidableEq, Repr

/-- The states of a result slot (R272). -/
inductive SlotState where
  | free | armed | ready | lost
  deriving DecidableEq, Repr

/-- A result slot (R271–R273). -/
structure RSlot where
  state : SlotState := .free
  parcel : Nat := 0
  job : BitVec 16 := 0
  plan : BitVec 16 := 0
  /-- Local offset of its memory. -/
  base : Nat := 0
  lines : Nat := 0
  /-- The fill it awaits or holds (R271). -/
  fill : Nat := 1
  stake : Nat := 0
  /-- Status per line written in this fill (R271). -/
  status : KMap (BitVec 4) := []
  /-- Bytes this fill is due to receive; 0 where only the end of the step tells. -/
  due : Nat := 0
  /-- Written in this fill: offset to length. -/
  segs : KMap Nat := []
  /-- Every line of this fill has been written (FILTER, GATHER_INDEXED). -/
  full : Bool := false
  /-- Consume-reads counted per page (R273). -/
  counts : KMap Nat := []
  consumers : Nat := 1
  stopped : Bool := false
  deriving DecidableEq, Repr

/-- A result segment that waits for its slot (R273). -/
structure HeldResult where
  slot : Nat
  /-- The stage whose sources' hosts the segment is for. -/
  stage : Nat
  fill : Nat
  off : Nat
  status : BitVec 4
  data : List Byte
  deriving DecidableEq, Repr

/-! ### Chapter 10: PNM -/

/-- A PNM command (R289–R291). -/
structure PnmCmd where
  id : BitVec 16
  parcel : Nat
  desc : List Word
  req : Packet
  dispatched : Bool := false
  /-- Coherent lines of its ranges whose holders preparation has still to reach (R291 step 3). -/
  todo : List Nat := []
  /-- The activation table, once read and checked (R285). -/
  table : Option (List Byte) := none
  /-- The fields of its record (R292). -/
  status : BitVec 4 := 0
  detail : Nat := 0
  num : Nat := 0
  poisoned : Nat := 0
  /-- The module was lost after acceptance: no release is made (R301). -/
  lost : Bool := false
  deriving DecidableEq, Repr

/-- The PNM queue of one module (R289, R291). -/
structure PnmQueue where
  queue : List PnmCmd := []
  active : List PnmCmd := []
  /-- Commands whose record is being written. -/
  ending : List PnmCmd := []
  nextId : Nat := 0
  deriving DecidableEq, Repr

/-! ### Chapter 11: traverses -/

/-- A run-ahead fill (R315). -/
structure RaFill where
  /-- The leg's number counted over all passes. -/
  gidx : Nat
  /-- Where it starts, counted along the ring of the run-ahead buffer. -/
  pos : Nat := 0
  /-- Its pages are being read or stand in the buffer; false after a squash, until it is read again. -/
  reading : Bool := false
  /-- Reads still outstanding: pages, and single lines of pages that did not read OK. -/
  left : Nat := 0
  complete : Bool := false
  squashes : Nat := 0
  /-- The leg is sent as a direct leg, from its third squash. -/
  direct : Bool := false
  /-- Status per line of the leg that did not read OK. -/
  bad : KMap (BitVec 4) := []
  deriving DecidableEq, Repr

/-- A live traverse (R303, R309–R321). -/
structure Trav where
  parcel : Nat
  /-- The request of its START, and the START descriptor. -/
  req : Packet
  desc : List Word
  header : List Word
  legs : List (List Word)
  /-- STATE: 1 ARMED, 2 WAITING, 3 SENDING, 4 STOPPING. -/
  state : Nat := 1
  /-- The current leg, counted over all passes. -/
  gidx : Nat := 0
  /-- Arrivals not yet used, oldest first, at most 16 (R311). -/
  anchors : List (BitVec 16) := []
  /-- The step that anchors the current leg. -/
  anchor : Option (BitVec 16) := none
  /-- The step that anchored the previous leg. -/
  prev : Option (BitVec 16) := none
  /-- Per window: fills sent (R312). -/
  fills : KMap Nat := []
  /-- Members whose hand-back is met for the current leg (R313 step 1). -/
  handed : List Nat := []
  /-- Members that have reported or failed for the current leg (R313 step 6). -/
  reported : List Nat := []
  /-- Some member has reported the current leg delivered. -/
  released : Bool := false
  runahead : List RaFill := []
  /-- Bytes of the ring used so far. -/
  ringPos : Nat := 0
  /-- The last leg whose ready stakes were released, and its pass. -/
  delivered : Option (Nat × Nat) := none
  /-- The worst status in the last leg's trailers. -/
  last : BitVec 4 := 0
  /-- The descriptors and packets of STOPs that wait (R320). -/
  stops : List (List Word × Packet) := []
  /-- It was armed without its twin (R456). -/
  untwinned : Bool := false
  deriving DecidableEq, Repr

/-- A leg being written at this destination (R313 step 5). -/
structure DestLeg where
  id : Nat
  sender : Nat
  trav : Nat
  leg : Nat
  pass : Nat
  job : BitVec 16
  step : BitVec 16
  win : Nat
  comp : BitVec 2
  deadline : Nat
  info : LegInfo
  /-- Source bytes received. -/
  got : Nat := 0
  /-- EXPAND: packets received, by BYTE_OFF, with their status. -/
  coded : KMap (List Byte × BitVec 4) := []
  /-- Writes outstanding. -/
  out : Nat := 0
  /-- Bytes written, lines written poisoned, the worst status. -/
  written : Nat := 0
  poisoned : Nat := 0
  worst : BitVec 4 := 0
  /-- The trailer is being written, with these FLAGS. -/
  trailer : Bool := false
  flags : BitVec 3 := 0
  /-- A write of the leg has failed: no release follows its trailer (R128, R321). -/
  failed : Bool := false
  deriving DecidableEq, Repr

/-- The last leg of a traverse that this destination has released (R313). -/
structure DoneLeg where
  job : BitVec 16
  trav : Nat
  stake : Nat
  leg : Nat
  pass : Nat
  step : BitVec 16
  deriving DecidableEq, Repr

/-- A record of the traverse engine that is being written, and the release that follows it (R309). -/
structure TravRec where
  id : Nat
  parcel : Nat
  tag : Word
  stake : Option (Nat × BitVec 2)
  deriving DecidableEq, Repr

/-! ### Chapter 12: the coding engine -/

/-- The run in progress of the coding engine (R334, R335). -/
structure XcRun where
  verify : Bool
  /-- Source lines read so far, by line of the range: data and status (R330). -/
  got : KMap (List Byte × BitVec 4) := []
  /-- ENCODE: the stream to write, padding included. -/
  stream : List Byte := []
  /-- Pages of it written so far. -/
  page : Nat := 0
  /-- Every read and write of the run has completed, or the run was refused (R334). -/
  ended : Bool := false
  /-- The run's status, damaged blocks, first damaged block with its class. -/
  status : BitVec 4 := 0
  damaged : Nat := 0
  first : Option (Nat × Nat) := none
  deriving DecidableEq, Repr

/-! ### Chapter 13: links -/

/-- A flit queued at an egress: its virtual channel and, on a packet's first and last flit, the packet (R339, R348). -/
structure TxFlit where
  vc : Nat
  head : Option Packet := none
  last : Bool := true
  /-- The packet, on its last flit. -/
  tail : Option Packet := none
  /-- Its 64 bytes. -/
  data : List Byte := []
  deriving DecidableEq, Repr

/-- A frame as it was sent, held for replay (R349, R351, R355). -/
structure TxFrame where
  /-- The 64-bit frame counter; FSEQ is its bits [31:0]. -/
  ctr : Nat
  ackSeq : Nat
  nak : Bool
  kph : Bool
  swap : Option Nat
  /-- CREDIT, one count of 12 bits per virtual channel. -/
  credit : List Nat
  /-- The data slots in use, at most 28. -/
  slots : List TxFlit
  /-- The 1,920 B of its 30 flits as they were sent: control flit, ciphertext of the data slots, integrity flit (R349, R351, R352). -/
  body : List Byte := []
  deriving DecidableEq, Repr

/-- What the far end said in its LVL packet (R44, R357). -/
structure FarEnd where
  role : BitVec 3
  gref : BitVec 17
  axis : Bool
  peer : BitVec 5
  vcMin : BitVec 8
  deriving DecidableEq, Repr

/-- The link keys of R486 step 5. -/
structure LinkKeys where
  keyIR : BitVec 256
  keyRI : BitVec 256
  saltIR : BitVec 32
  saltRI : BitVec 32
  confirm : BitVec 256
  deriving DecidableEq, Repr

/-- The key exchange of a link (R485, R486, R488). -/
structure Kex where
  /-- The step of R486 that is in progress; 0 when no exchange runs. -/
  step : Nat := 0
  /-- This Tiolo is the initiator (R485). -/
  initiator : Bool := false
  /-- A rekey over the encrypted link (R488). -/
  rekey : Bool := false
  /-- Every KEX payload sent and received, oldest first: the transcript T is its SHA3-256. -/
  transcript : List (List Byte) := []
  /-- The HELLO and CERT payloads of the last exchange, which a rekey reuses in T (R488). -/
  first : List (List Byte) := []
  /-- CERT fragments received so far. -/
  frags : List (List Byte) := []
  peerHello : Bool := false
  peerVerified : Bool := false
  sentFinish : Bool := false
  gotFinish : Bool := false
  /-- The ephemeral secret of this side: the decapsulation key, or the shared secret. -/
  secret : Option (List Byte) := none
  /-- Derived, not yet in use. -/
  derived : Option LinkKeys := none
  deriving DecidableEq, Repr

/-- A packet received whole: its channel, the core cycle at which the frame with its header was accepted, and the packet (R348, R383). -/
structure Arrived where
  vc : Nat
  cycle : Nat
  pkt : Packet
  deriving DecidableEq, Repr

/-- A link: a fabric port's, or the Filard Link's (R349–R363, R515). -/
structure Link where
  /-- Counter of the next frame to send under the current key (R353). -/
  next : Nat := 0
  /-- Sent frames without an acknowledgement, oldest first, at most 64 (R355). -/
  unacked : List TxFrame := []
  /-- How many of them a replay in progress has still to resend (R355). -/
  toReplay : Nat := 0
  /-- Replays of the oldest unacknowledged frame (R355). -/
  replays : Nat := 0
  /-- Frames accepted in order: the counter of the next frame expected. -/
  accepted : Nat := 0
  /-- A damaged frame was discarded: NAK is sent and frames are discarded until the replay (R355). -/
  naking : Bool := false
  /-- The next frame carries NAK (R355). -/
  nakDue : Bool := false
  /-- Flits matched by the scheduler, not yet placed in a frame, oldest first. -/
  txq : List TxFlit := []
  /-- Credits held per virtual channel (R354). -/
  credits : KMap Nat := []
  /-- Credits freed here since the last frame, per virtual channel (R351). -/
  freed : KMap Nat := []
  /-- Frames sent since a BACKPRESSURE perturbation began (R530). -/
  bpFrames : Nat := 0
  /-- Per virtual channel: the packet being received, as the core cycle of its first flit and its bytes so far. -/
  partial' : KMap (Nat × List Byte) := []
  /-- Frames put on the lanes since levelling, replays among them (R350). -/
  framesOut : Nat := 0
  /-- What the transmit lanes carried last: per logical lane, its physical lane and the PAM4 levels of the frame (R350). -/
  laneOut : List (Nat × List (Fin 4)) := []
  /-- The alignment markers sent before that frame: the logical lane, and bits [15:0] of the frame counter (R350). -/
  markers : List (Nat × Nat) := []
  /-- Per physical lane: codewords and symbol errors of the running window (R359). -/
  window : KMap (Nat × Nat) := []
  /-- Per physical lane: the uncorrectable codewords of the running window (R350, R359). -/
  badWords : KMap Nat := []
  /-- Packets received whole, not yet taken by PACKET_INGRESS. -/
  received : List Arrived := []
  /-- Physical lane of each logical lane, receive side (R338). -/
  rxMap : List Nat := []
  rxSpare : Option Nat := none
  /-- Consecutive windows over THRESH, per logical lane (R359). -/
  overRun : KMap Nat := []
  /-- Receive side: the physical lane being swapped out (R360). -/
  swapRx : Option Nat := none
  /-- An orderly swap takes place (R359). -/
  swapOrderly : Bool := false
  kex : Kex := {}
  keys : Option LinkKeys := none
  /-- The keys of the previous phase, kept by the receiver until the old phase is accepted (R353). -/
  oldKeys : Option LinkKeys := none
  rxKph : Bool := false
  /-- New receive keys are derived, and the first frame under them is still to come (R353, R486 step 7). -/
  rxNew : Bool := false
  far : Option FarEnd := none
  /-- Packets in unacknowledged frames when the port died: the frame's counter and the packet (R363). -/
  unproven : List (Nat × Packet) := []
  /-- The ETH link is up (R364). -/
  ethUp : Bool := false
  /-- Carrier monitors that read low at levelling step 1 (R552). -/
  lowCarriers : List Nat := []
  deriving DecidableEq, Repr

/-! ### Chapter 14: the switch core -/

/-- What the Tiolo sends on an ETH port (R407, R410, R426). -/
inductive RoceTx where
  | ack (qp psn msn : Nat)
  | nak (qp psn : Nat) (syndrome : BitVec 8)
  | rnr (qp psn : Nat) (timer : Nat)
  /-- Opcode 0x0D–0x10. -/
  | readResponse (op : BitVec 8) (qp psn msn : Nat) (data : List Byte)
  | cnp (qp : Nat)
  | pfc (prio quanta : Nat)
  | raw (prio : Nat) (frame : List Byte)
  deriving DecidableEq, Repr

/-- An Ethernet frame on its way out through the packet buffer: what it is, its priority, and its bytes from the destination address
through the FCS (R35, R407, R426). -/
structure EthOut where
  tx : RoceTx
  prio : Nat
  len : Nat
  deriving DecidableEq, Repr

/-- A packet in the shared buffer (R366–R374). -/
structure Stored where
  id : Nat
  pkt : Packet
  /-- The scheduler input (R368). -/
  input : Nat
  /-- Cells of 128 B. -/
  cells : Nat
  /-- The buffer bank of each cell, 16 banks to a block's slice (R367). -/
  banks : List Nat := []
  /-- The parcel it is charged to, none from a GRID port (R373). -/
  account : Option Nat
  /-- Cells charged to the shared pool, beyond the class reserve. -/
  pool : Nat := 0
  /-- Arrived through this port and virtual channel: the credit that admission returns (R373). -/
  link : Option (Nat × Nat) := none
  admitted : Bool := false
  /-- Switch-core cycles of residence here (R383). -/
  res : Nat := 0
  /-- Outputs still owed, each with its channel (R368, R381, R382). -/
  outs : List (Nat × Nat) := []
  /-- Delivered to an internal target once admitted. -/
  internal : Bool := false
  /-- A started output: the output, its channel and cells sent (R366 lock). -/
  started : List (Nat × Nat × Nat) := []
  /-- Some copies left already: it is a residue entry (R382). -/
  residue : Bool := false
  multicast : Bool := false
  /-- The Ethernet frame that these cells hold; the packet then only carries class RSP, under which the frame is charged (log 217). -/
  frame : Option EthOut := none
  deriving DecidableEq, Repr

/-- A sample on its way to the ring (R386). -/
structure Sample where
  seq : Nat
  port : Nat
  cls : Nat
  trunc : Bool
  masked : Bool
  len : Nat
  cycle : Nat
  k : Nat
  pkt : Packet
  /-- Samples lost to a full ring since the previous record. -/
  dropped : Nat
  deriving DecidableEq, Repr

/-- The switch core beside its register page. -/
structure Switch where
  /-- Packets in the buffer in arrival order; VOQ(i, j, v) is the packets of input i that owe output j on channel v. -/
  buf : List Stored := []
  nextId : Nat := 0
  /-- Packets of internal sources that stall because the buffer has no free cell for them, oldest first (R30, R373). -/
  stalled : List Stored := []
  /-- gptr of each output (R369). -/
  gptr : KMap Nat := []
  /-- aptr of each input (R369). -/
  aptr : KMap Nat := []
  /-- The rotating channel pointer of each output (R370). -/
  vptr : KMap Nat := []
  /-- The rotating pointer over the row for non-minimal hops (R377). -/
  nptr : Nat := 0
  /-- Sampling counters, keyed by 8·port + class (R386). -/
  sampleCnt : KMap Nat := []
  samples : List Sample := []
  /-- Samples dropped since the last record (R386). -/
  dropped : Nat := 0
  /-- Switch-core cycles of region 0 since reset (R386). -/
  cycle : Nat := 0
  /-- Grades of the measured resources: 0–127 outputs, 128–131 T0 stacks, 132–135 slices, 136–139 stake homes (R390). -/
  grades : KMap Nat := []
  deriving DecidableEq, Repr

/-! ### Chapter 15: meters, shapers, gates -/

/-- A meter: its configuration words and buckets (R393–R397). -/
structure Meter where
  cfg0 : Word := 0
  cfg1 : Word := 0
  tc : Nat := 0
  tp : Nat := 0
  deriving DecidableEq, Repr

/-- A shaper (R398, R399). -/
structure Shaper where
  cfg : Word := 0
  tokens : Int := 0
  deriving DecidableEq, Repr

/-- A port's gate list in effect (R401, R404). -/
structure Gate where
  anchored : Bool := false
  entry : Nat := 0
  /-- Switch-core cycles since the last arrival; saturates at 2^32 − 1. -/
  offset : Nat := 0
  base : Nat := 0
  count : Nat := 0
  /-- The BASE and COUNT of a list change that waits (R404). -/
  pending : Option (Nat × Nat) := none
  deriving DecidableEq, Repr

/-- The traffic-control units beside their register pages. -/
structure Traffic where
  meters : KMap Meter := []
  shapers : KMap Shaper := []
  /-- The 4,096-entry gate table: OFFSET and OPEN (R400). -/
  table : KMap (Nat × BitVec 8) := []
  gates : KMap Gate := []
  deriving DecidableEq, Repr

/-! ### Chapter 16: remote access -/

/-- The states of a QP (R412). -/
inductive QpState where
  | reset | rtr | error
  deriving DecidableEq, Repr

/-- A message that passed its check, until it has ended (R415, R419, R420). -/
structure RoceMsg where
  write : Bool
  /-- READ: PSN of its first response. -/
  psn : Nat
  /-- Number of its last packet among the packets that the QP has served. -/
  num : Nat
  /-- WRITE: target of the next byte. -/
  gfa : Nat
  /-- WRITE: bytes still to come. READ: bytes not yet sent. -/
  left : Nat
  total : Nat
  /-- The registration it was checked against. -/
  mr : Nat
  /-- WRITE: its last packet has been received. -/
  ended : Bool := false
  imm : Option (BitVec 32) := none
  /-- The immediate: 0 its writes are outstanding, 1 the entry's write is outstanding, 2 the entry is written (R422). -/
  posting : Nat := 0
  /-- PSN of the last packet received. -/
  lastPsn : Nat := 0
  /-- READ: served again for a duplicate request. -/
  dup : Bool := false
  /-- READ: responses sent. -/
  resp : Nat := 0
  /-- READ: data returned, by offset. -/
  data : KMap (List Byte) := []
  deriving DecidableEq, Repr

/-- An acknowledgement that is due (R416): the PSN, how many packets must be complete, and whether a message ends there. -/
structure RoceAck where
  psn : Nat
  num : Nat
  last : Bool
  deriving DecidableEq, Repr

/-- What a fabric request of a QP is for (R416, R422). -/
inductive RoceUse where
  | write
  /-- `n` bytes from byte `cut` of its data stand at offset `off` of a READ. -/
  | read (off cut n : Nat)
  /-- The entry of a completion ring. -/
  | entry
  deriving DecidableEq, Repr

/-- An outstanding or held fabric request of a QP (R416, R417). -/
structure RoceReq where
  k : Nat
  pkt : Packet
  use : RoceUse
  /-- PSN of its packet, and its number among the packets that the QP has served. -/
  psn : Nat
  num : Nat
  mr : Nat
  issued : Bool := false
  retries : Nat := 0
  /-- The frame was yellow at its Ethernet meter (R397). -/
  yellow : Bool := false
  deriving DecidableEq, Repr

/-- A queue pair (R412, R413). -/
structure Qp where
  state : QpState := .reset
  /-- Context words 0–7 as CREATE gave them. -/
  words : List Word := []
  epsn : Nat := 0
  msn : Nat := 0
  rate : Nat := 0
  rdErrs : Nat := 0
  rdLast : BitVec 4 := 0
  errStatus : BitVec 4 := 0
  errSyndrome : BitVec 8 := 0
  /-- One sequence-error NAK was sent; packets are discarded until EPSN arrives (R415). -/
  naked : Bool := false
  /-- Packets served. -/
  num : Nat := 0
  msgs : List RoceMsg := []
  reqs : List RoceReq := []
  /-- Number given to the next fabric request. -/
  nextReq : Nat := 0
  acks : List RoceAck := []
  /-- Packets since the last acknowledgement became due. -/
  sinceAck : Nat := 0
  /-- DESTROY runs (R412). -/
  destroying : Bool := false
  /-- Switch-core cycle of the last CNP sent, and of the last decrease (R423, R424). -/
  cnpAt : Option Nat := none
  decAt : Option Nat := none
  /-- Switch-core cycle of the last CNP received or of the last increase (R424). -/
  incAt : Option Nat := none
  /-- The bucket of READ responses, in bytes (R424). -/
  tokens : Int := 0
  deriving DecidableEq, Repr

/-- A registration (R418). -/
structure Mr where
  state : Nat := 0
  words : List Word := []
  deriving DecidableEq, Repr

/-- A completion ring (R421): its ROCE_RING_CFG word, SIZE_LOG2 6 at reset. -/
structure Ring where
  cfg : Word := 12
  /-- The ring's count of posted entries. -/
  posted : Nat := 0
  /-- Positions reserved and not yet posted. -/
  reserved : Nat := 0
  deriving DecidableEq, Repr

/-- A packet that waits for its QP's context (R414). -/
structure Miss where
  qp : Nat
  prio : Nat
  yellow : Bool
  pkt : RocePkt
  deriving DecidableEq, Repr

/-- An ETH port's ingress (R410, R414). -/
structure EthPort where
  /-- Frames that wait, oldest first: priority and frame. -/
  buffer : List (Nat × EthFrame) := []
  /-- Priorities paused towards the peer. -/
  pausing : BitVec 8 := 0
  /-- Priorities paused by the peer. -/
  paused : BitVec 8 := 0
  /-- Packets that wait for a context, oldest first, at most 512 (R414). -/
  missq : List Miss := []
  /-- The frame that left the port last. -/
  lastTx : Option RoceTx := none
  deriving DecidableEq, Repr

/-- A MACsec association (R489). -/
structure Sak where
  key : List Word
  salt : List Word
  ssci : Word
  pn : Word
  deriving DecidableEq, Repr

/-- RoCE beside its register page. -/
structure Roce where
  qps : KMap Qp := []
  mrs : KMap Mr := []
  rings : KMap Ring := []
  eth : KMap EthPort := []
  /-- PFC frames that wait to be sent, oldest first, with their port. -/
  tx : List (Nat × RoceTx) := []
  /-- QPs whose context is on chip, least recently used first, at most 4,096 (R414). -/
  cached : List Nat := []
  /-- Raw frames dropped since the last record (R426). -/
  rawDropped : Nat := 0
  /-- Raw records, oldest first: port, SEQ, DROPPED and frame. The first one's write is outstanding, the others wait for it (R426). -/
  rawQ : List (Nat × Nat × Nat × List Byte) := []
  /-- SAKs keyed by 8·port + 2·AN + DIR; never readable (R489). -/
  saks : KMap Sak := []
  deriving DecidableEq, Repr

/-! ### Chapter 17: parcels -/

/-- A composition or release in progress (R436, R440). -/
structure Compose where
  /-- The command: 1 BOOT, 2 COMPOSE, 4 RELEASE. -/
  op : Nat
  /-- The state it came from. -/
  from' : Nat
  words : List Word
  /-- The parcel enters DEGRADED when it ends (R431). -/
  degrade : Bool := false
  /-- A release whose units are being removed (R440 step 3). -/
  removing : Bool := false
  deriving DecidableEq, Repr

/-- A parcel beside its register page. -/
structure Parcel where
  compose : Option Compose := none
  /-- Occupancy counters, keyed by 8·region + kind (R441). -/
  use : KMap Nat := []
  snap : KMap Nat := []
  deriving DecidableEq, Repr

/-- An extent revocation in progress: the parcel whose command waits for it, if any (R439). -/
structure Revoke where
  ext : Nat
  pages : List Nat := []
  deriving DecidableEq, Repr

/-! ### Chapter 18: field books, twins -/

/-- An event or record of a field book (R469). -/
structure Rec where
  cls : BitVec 8
  source : BitVec 16
  status : BitVec 4 := 0
  flags : BitVec 3 := 0
  parcel : Option Nat := none
  /-- KIND: LAST. -/
  last : Bool := false
  severity : BitVec 2
  esc : Bool := false
  book : BitVec 16 := 0
  seq : Nat
  bookSeq : Nat := 0
  cycle : Nat := 0
  addr : BitVec 56 := 0
  count : Nat := 1
  lost : Nat := 0
  data : BitVec 128 := 0
  deriving DecidableEq, Repr

/-- An open coalescing entry (R471). -/
structure Coal where
  cls : BitVec 8
  source : BitVec 16
  count : Nat := 0
  latest : Rec
  deriving DecidableEq, Repr

/-- A field book (R468, R472): 0–15 blocks, 16–19 regions, 20 chip. -/
structure Book where
  /-- The records that stand in the book, oldest first: up to its capacity, read ones included until they are overwritten. -/
  recs : List Rec := []
  /-- Open coalescing entries, oldest first. -/
  open' : List Coal := []
  /-- Events that have reached the book and wait. -/
  queue : List Rec := []
  /-- Records lost since the last record written. -/
  lostSince : Nat := 0
  deriving DecidableEq, Repr

/-- The owner's or the partner's view of a twinned operation (R455–R463). -/
structure TwinOp where
  kind : BitVec 4
  job : BitVec 16
  opref : BitVec 32
  parcel : Nat
  gen : BitVec 32 := 1
  owner : Nat
  /-- The partner's column; none while no twin holds a committed copy. -/
  partner : Option Nat
  mseq : Nat := 0
  /-- The state page it uses in the partner's sub-area for this column, 1 the first (R456). -/
  page : Nat := 1
  /-- The engine that owns it (R458). -/
  agent : BitVec 12 := 0
  /-- Visible actions that wait, oldest first; the oldest one's mirror write is out while `pending` (R458). -/
  acts : List TwinAct := []
  pending : Bool := false
  /-- A mirror write failed: no visible action until a bring-in has committed (R458). -/
  stopped : Bool := false
  /-- A bring-in to this column runs (R462). -/
  bringIn : Option Nat := none
  /-- The column whose lost owner it was taken over from (R460). -/
  taken : Option Nat := none
  deriving DecidableEq, Repr

/-- A copy held for a partner: the state page's record (R457). -/
structure TwinCopy where
  page : Nat
  rec' : TwinRecord
  /-- Claimed by this Tiolo (R460 step 2). -/
  claimed : Bool := false
  deriving DecidableEq, Repr

/-- One column's twin signals (R459). -/
structure TwinCol where
  /-- Last beat count received. -/
  count : Nat := 0
  /-- Beats sent. -/
  sent : Nat := 0
  copies : List TwinCopy := []
  /-- The owner is declared lost and the takeover fence runs (R460). -/
  fencing : Bool := false
  deriving DecidableEq, Repr

/-- A command that management firmware serves (R466): what runs when the restart ends. -/
inductive FwCmd where
  | levellingRetry (p : Nat)
  /-- A migration of the translation layer: wear levelling, or refresh. -/
  | migrate (wear : Bool) (block target : Nat)
  | parcel (n op : Nat)
  | extent (n op e : Nat)
  | hbmRetrain (r : Nat)
  | msStore
  | security (op : Nat) (blk : SecBlock)
  deriving DecidableEq, Repr

/-- Recovery state beside the field-book pages. -/
structure Recovery where
  books : KMap Book := []
  trackers : List Tracker := []
  /-- TWN_AREA entries, keyed by 32·parcel + column (R456). -/
  areas : KMap Word := []
  ops : List TwinOp := []
  cols : KMap TwinCol := []
  /-- Management cores whose firmware restarts (R466). -/
  restarting : List Nat := []
  /-- Commands that firmware serves and that wait for the restart (R466). -/
  waiting : List FwCmd := []
  /-- A heartbeat has come while LOST is 1 and a sweep for dead agents runs: LOST is cleared when the sweep ends (R467). -/
  beatDue : Bool := false
  /-- The write of a record to the spill ring is in flight (R474). -/
  spilling : Bool := false
  deriving DecidableEq, Repr

/-! ### Chapter 19: security -/

/-- The lifecycle record (R476, R509). -/
structure Lifecycle where
  state : Nat := 1
  tenant : BitVec 128 := 0
  clearances : Nat := 0
  /-- SHA3-256 of the owner public key; none before CLAIM. -/
  owner : Option (BitVec 256) := none
  /-- MK wrapped under SRK. -/
  mediaKey : BitVec 256 := 0
  clearing : Bool := false
  deriving DecidableEq, Repr

/-- A clearance in progress (R491). -/
structure Clearance where
  /-- Its OP. -/
  op : Nat := 2
  target : Nat
  tenant : BitVec 128
  vnonce : BitVec 256
  /-- The ports whose modules initialise (R491 item 1), how many received KEYP, and MODULE ports that were down. -/
  modules : List Nat := []
  sanitised : Nat := 0
  skipped : Nat := 0
  /-- The items have ended: their statuses and durations, while the final store waits for the store arbiter. -/
  ended : Option (List (BitVec 8) × List (BitVec 16)) := none
  deriving DecidableEq, Repr

/-- The security module beside its register page. -/
structure Security where
  life : Lifecycle := {}
  /-- MR0–MR7 (R483). -/
  mr : List (BitVec 256) := []
  clearance : Option Clearance := none
  /-- The command's output at buffer offset 0x1000 in companion memory (R478). -/
  output : List Byte := []
  /-- Debug access is enabled (R493). -/
  debug : Bool := false
  /-- The ML-DSA-44 or SHA3-256 known-answer test failed (R497). -/
  romRefuses : Bool := false
  /-- CDI and Alias as derived from MR0–MR6 (R480, R483). -/
  cdi : BitVec 256 := 0
  /-- Draws from the DRBG so far; the first gave the nonce at reset. -/
  drawn : Nat := 1
  /-- A command that needs a store and waits for the store arbiter, by its OP (R512). -/
  held : Option (Nat × SecBlock) := none
  deriving DecidableEq, Repr

/-! ### Chapter 20: start-up and the monument store -/

/-- One copy of the monument store (R509): the header and the areas as non-zero bytes. -/
structure MsCopy where
  magicOk : Bool := true
  crcOk : Bool := true
  gen : Nat := 0
  stores : Nat := 0
  /-- BOOT_PREF: set B. -/
  prefB : Bool := false
  life : Lifecycle := {}
  /-- Bytes from offset 0x1000 on, keyed by offset; unlisted bytes are zero. -/
  bytes : List Host.Cell := []
  /-- The reference record (R501): the PKG section is accepted, the BOARD signature verifies, and SHA3-256 of the BOARD key. -/
  pkgOk : Bool := true
  boardOk : Bool := false
  boardKey : BitVec 256 := 0
  /-- The MISR each item is compared with, by section: none where its flag is clear (R501). -/
  pkgRef : List (Option Word) := []
  boardRef : List (Option Word) := []
  deriving DecidableEq, Repr

/-- The start-up unit and the monument store beside their pages. -/
structure Boot where
  a : MsCopy := {}
  b : MsCopy := {}
  /-- The active copy is B. -/
  activeB : Bool := false
  /-- The 256 KiB staging buffer (R511). -/
  staging : List Host.Cell := []
  /-- A STORE in progress: the copy it writes (R511). -/
  storing : Option MsCopy := none
  imaging : Bool := false
  /-- The 32 MiB that an IMAGE writes, as cells from offset 0 (R499). -/
  imageData : List Host.Cell := []
  /-- The boot partition's image sets, keyed by 2·set + (0 channel 0, 1 channel 8), set A 0 and B 1: what IMAGE wrote, or none for a set
  left unwhole; an unlisted one is the set that the part came with (R498). -/
  sets : KMap (Option (List Host.Cell)) := []
  /-- Flash channels that have ended their training in step 10 (R497). -/
  doneParts : List Nat := []
  /-- Blocks and regions in reset: 0–15 blocks, 16–19 regions (R507). -/
  inReset : List Nat := []
  /-- An ACCEL or GRID port has started levelling since reset: GRID_CFG is locked (R39). -/
  gridLocked : Bool := false
  /-- Ports that have started levelling and have not been disabled since: their RWL fields are locked, and those that passed the role
  check hold their role and slot (R43). -/
  roleLocked : List Nat := []
  /-- Some port has started levelling since reset: SEC_POLICY.SAMPLE_CLEAR is locked (R494). -/
  policyLocked : Bool := false
  /-- JTAG instructions served, oldest first (R493). -/
  jtagServed : List JtagInstr := []
  deriving DecidableEq, Repr

/-! ### Chapters 21 and 22: management, pins -/

/-- An interrupt message, a posted write of 16 B into companion memory (R525): the address it goes to, and its fields. -/
structure IrqMsg where
  addr : Nat
  vector : Nat
  page : Nat
  coalesced : Nat
  seq : Nat
  deriving DecidableEq, Repr

/-- A raise on its way to the interrupt arbiter (R524, R526): its vector and PAGE field. -/
structure Raise where
  vector : Nat
  page : Nat
  deriving DecidableEq, Repr

/-- Interrupts, the sideband and the pins. -/
structure Mgmt where
  raises : List Raise := []
  msgs : List IrqMsg := []
  /-- Raises coalesced since the last message, per vector (R525). -/
  coalesced : KMap Nat := []
  /-- PAGE of the last raise, per vector. -/
  irqPage : KMap Nat := []
  /-- The I3C static address, 0x30 + S (R532, R548). -/
  staticAddr : BitVec 7 := 0x30
  dynAddr : Option (BitVec 7) := none
  ibiDisabled : Bool := false
  /-- In-Band Interrupts sent: the mandatory data bytes (R534). -/
  ibis : List Byte := []
  /-- Low COLD_RST_N or a deasserted PWR_OK (R496). -/
  coldRst : Bool := true
  pwrOk : Bool := true
  /-- THERMTRIP_N is asserted (R554). -/
  thermtrip : Bool := false
  /-- References lost (R546). -/
  refLost : List Nat := []
  /-- Per laser slot: LS_EN_N is driven low (R552). -/
  lsEn : BitVec 12 := 0
  /-- Per laser slot: LS_PRES_N is low, a source is fitted (R552). -/
  lsPres : BitVec 12 := 0xFFF
  /-- Power estimates of the regions in the current 1 ms (R32). -/
  power : KMap (List Nat) := []
  /-- The average stayed at least 5 % below the limit throughout the 100 µs period (R32). -/
  belowAll : Bool := true
  deriving DecidableEq, Repr

/-! ### Memory, stakes, tiers, engines: the tops -/

/-- What is wrong with a module line beside its POISON mark (R298). -/
inductive LineFault where
  /-- An error that the module ECC corrects. -/
  | correctable
  /-- An error that it cannot correct. -/
  | uncorrectable
  /-- The line was stored with this CHECK. -/
  | check (c : BitVec 32)
  /-- The next whole-line write arrives with a CHECK that does not match. -/
  | onWrite
  deriving DecidableEq, Repr

/-- The memory of this Tiolo: T0 and the module slots (R47, R48). -/
structure Mem where
  /-- Non-zero bytes keyed by local offset, strictly rising. -/
  cells : List Host.Cell := []
  /-- Poisoned lines, by local offset divided by 128 (R104, R159). -/
  poison : List Nat := []
  /-- Ranges of lines written poisoned as a whole: the first line, and the first after it (R105). -/
  spans : List (Nat × Nat) := []
  /-- Lines of modules whose INPLACE bit is set (R297, R298). -/
  inplace : List Nat := []
  /-- Module lines with a fault; CHECK and ECC of every other line are those of its bytes (R297, R298). -/
  faults : List (Nat × LineFault) := []
  /-- Bit m: module slot m is available (R48). -/
  avail : BitVec 64 := 0
  /-- Bit m: module slot m is lost (R48). -/
  lost : BitVec 64 := 0
  /-- HBM stacks reported failed in service (R451). -/
  failed : List Nat := []
  deriving DecidableEq, Repr

/-- The stake homes beside the stake control page (R114–R122). -/
structure StakeSt where
  stakes : KMap Stake := []
  /-- Parked SACQs, oldest first (R120). -/
  parked : List Parked := []
  /-- Satisfied SACQs that wait for their completion slot, oldest first (R121). -/
  woken : List Woken := []
  deriving DecidableEq, Repr

/-- The tiers beside the translation layer page (R149–R173). -/
structure Tier where
  cmds : List TierCmd := []
  /-- Doorbell writes held for a full queue, of every doorbell (R156, R190). -/
  held : List HeldDoorbell := []
  objs : KMap Obj := []
  /-- Programmed units, keyed by 2^26·object + unit; an unlisted unit of an object reads as zero. -/
  units : KMap FUnit := []
  blocks : KMap FBlock := []
  frames : KMap Frame := []
  /-- Stores held under the T1 quota, oldest first, each with its resolved local offset (R62, R153). -/
  heldStores : List (Nat × Packet) := []
  images : KMap UnitImage := []
  /-- The media are formatted, with the over-provisioning in 64ths that TL_CTL.OP gave then (R170, R171). -/
  formatted : Option Nat := none
  quotas : KMap Quota := []
  /-- OBJECTS limits by parcel live in `quotas`; a use counter of cache frames. -/
  clock : Nat := 0
  deriving DecidableEq, Repr

/-- The collectives engine (R249–R282). -/
structure Coll where
  plans : List Plan := []
  /-- Plan commands, at most 1,024, oldest first (R265). -/
  cmds : List PlanCmd := []
  slots : KMap RSlot := []
  /-- Read-with-wait loads that wait (R272). -/
  waits : List Packet := []
  /-- Results held for a slot that is still ready (R273). -/
  held : List HeldResult := []
  deriving DecidableEq, Repr

/-- The traverse engine (R303–R321). -/
structure TravSt where
  travs : KMap Trav := []
  legs : List DestLeg := []
  /-- Numbers given to legs received so far. -/
  nextLeg : Nat := 0
  /-- The accepted step of each job (R305): job to last step. -/
  steps : KMap Nat := []
  /-- The last leg released here, of each traverse and ready stake (R313). -/
  doneLegs : List DoneLeg := []
  /-- Records being written. -/
  recs : List TravRec := []
  deriving DecidableEq, Repr

/-- The whole state of one Tiolo. -/
structure State where
  /-- Commands that wait, first in, first out. -/
  pending : List Instr := []
  /-- Configuration registers, keyed by configuration offset; an unlisted one holds its reset value (R521). -/
  regs : KMap Word := []
  /-- The sequence counter of each arbiter, keyed by AID (R19, R21); unlisted: 0. -/
  seqs : KMap Nat := []
  /-- The model's own: how many free values have been taken. -/
  free : Nat := 0
  mem : Mem := {}
  extents : KMap Extent := []
  /-- Extent revocations in progress (R439). -/
  revoking : List Revoke := []
  cad : KMap CadSlice := []
  stk : StakeSt := {}
  /-- Path state per destination Tiolo (R130, R379). -/
  paths : KMap Path := []
  tier : Tier := {}
  tiles : KMap Tile := []
  /-- The tile line cache of each block, keyed by line (R187). -/
  tlc : KMap (KMap TlcLine) := []
  /-- Blocks whose tile line cache has failed since their last reset (R203). -/
  tlcDown : List Nat := []
  coll : Coll := {}
  /-- The PNM queue of each module slot (R289); 64 holds the commands that no module's queue takes. -/
  pnm : KMap PnmQueue := []
  trav : TravSt := {}
  xc : Option XcRun := none
  /-- Links, keyed by port; 128 is the Filard Link (R337, R515). -/
  links : KMap Link := []
  sw : Switch := {}
  traf : Traffic := {}
  roce : Roce := {}
  parcels : KMap Parcel := []
  recov : Recovery := {}
  sec : Security := {}
  /-- The current SEC_NONCE, drawn from the DRBG (R479). -/
  nonce : BitVec 256
  boot : Boot := {}
  mgmt : Mgmt := {}
  /-- Packets that internal units have sent and the switch core has not yet taken, oldest first (R35). -/
  out : List Packet := []
  deriving DecidableEq, Repr

/-- The Tiolo under cold reset, before step 1 of R497: every field at its reset value, COLD_RST_N low, the first nonce drawn. -/
def State.reset : State := { nonce := Config.drbg 0 }

end Sys2Proof.Machine
end

