-- ==== Sys2Proof/Machine/Flags.lean ====
section
/-!
DEFINITION. Statuses and flags: the completion codes and their precedence (R10, R11), the error value (R13), the flag bits (R15),
the scope test of an acquire (R123, R126) and the exception bits of the tiles' status word (R213).
-/
namespace Sys2Proof.Machine

/-! ### Completion statuses (R10) -/

abbrev Status := BitVec 4
def stOK : Status := 0x0
def stPoison : Status := 0x1
def stTimeout : Status := 0x2
def stRevoked : Status := 0x3
def stLostState : Status := 0x4
def stRetry : Status := 0x5
def stStale : Status := 0x6
def stNotReady : Status := 0x7
def stAccessFault : Status := 0x8
def stQuota : Status := 0x9
def stUnsupported : Status := 0xA
def stFatal : Status := 0xB

/-- The precedence number of a status (R10); OK and the reserved codes come last. -/
def statusPrec (s : Status) : Nat :=
  match s.toNat with
  | 0x1 => 11 | 0x2 => 8 | 0x3 => 4 | 0x4 => 2 | 0x5 => 3 | 0x6 => 10 | 0x7 => 9 | 0x8 => 5 | 0x9 => 7 | 0xA => 6 | 0xB => 1
  | _ => 12

/-- The status of a completion to which both apply: the one with the smaller precedence number (R11). -/
def statusMin (a b : Status) : Status := if statusPrec b < statusPrec a then b else a

/-- The first status that applies, of conditions given with their status (R11). -/
def statusOf : List (Bool × Status) → Status
  | [] => stOK
  | (c, s) :: rest => if c then statusMin s (statusOf rest) else statusOf rest

/-- The error value: 0xFF in every byte (R13). -/
def errorBytes (n : Nat) : List Byte := List.replicate n 0xFF

/-! ### Flag bits (R15) -/

def flScopeShort : BitVec 3 := 0b001
def flLate : BitVec 3 := 0b010
def flDegraded : BitVec 3 := 0b100

/-- An agent as scopes identify it: Tiolo index and agent field (R108). -/
structure AgentId where
  tiolo : BitVec 10
  agent : BitVec 12
  deriving DecidableEq, Repr

/-- The scope `sc`, seen from either of two agents, contains both (R123). -/
def scopeContains (sc : BitVec 2) (a b : AgentId) : Bool :=
  match sc.toNat with
  | 0 => a == b
  | 1 => a.tiolo == b.tiolo
  | 2 => true
  | _ => false

/-- The narrower of two scopes (R124). -/
def narrower (a b : BitVec 2) : BitVec 2 := if a.toNat ≤ b.toNat then a else b

/-- An acquire at scope `sq` by `b`, whose stake records a last release at scope `sr` by `a`, carries SCOPE_SHORT (R126). -/
def scopeShort (sr : BitVec 2) (a : AgentId) (sq : BitVec 2) (b : AgentId) : Bool :=
  sr != 3 && !scopeContains (narrower sr sq) a b

end Sys2Proof.Machine
end

