-- ==== Sys2Proof/Machine/Regs.lean ====
section
/-!
DEFINITION. The configuration space (R521): its pages, the registers of each page with their fields, types and reset values, and the
offset of each register by name.
-/
namespace Sys2Proof.Machine

/-- The access types of R520. -/
inductive RegType where
  | rw | ro | w1c | w1s | rc | wo | rwl
  deriving DecidableEq, Repr

/-- A field of a register: bits [hi:lo], its type and its reset value. -/
structure RegField where
  hi : Nat
  lo : Nat
  ty : RegType
  reset : Nat := 0
  deriving DecidableEq, Repr

/-- One register, or `count` registers 8 B apart, at a page offset. -/
structure RegDef where
  off : Nat
  count : Nat := 1
  fields : List RegField
  deriving DecidableEq, Repr

/-- A page, by R521: TYPE, instance number and the offset of the page. -/
structure Page where
  type : Nat
  inst : Nat
  base : Nat
  deriving DecidableEq, Repr

/-- The page that holds a configuration offset (R521, R522); none outside every page. -/
def pageOf (c : Nat) : Option Page :=
  let b := c / 0x1000 * 0x1000
  let k := c / 0x1000
  if k < 5 then some ⟨k + 1, 0, b⟩
  else if 0x10 ≤ k && k < 0x14 then some ⟨0x06, k - 0x10, b⟩
  else if 0x20 ≤ k && k < 0x30 then some ⟨0x07, k - 0x20, b⟩
  else if 0x30 ≤ k && k < 0x34 then some ⟨0x08, k - 0x30, b⟩
  else if 0x40 ≤ k && k < 0x44 then some ⟨0x09, k - 0x40, b⟩
  else if 0x50 ≤ k && k < 0x60 then some ⟨0x0A, k - 0x50, b⟩
  else if 0x60 ≤ k && k < 0xB0 && k % 0x10 == 0 then some ⟨k / 0x10 + 5, 0, b⟩
  else if 0xB0 ≤ k && k < 0xC0 then some ⟨0x10, k - 0xB0, 0x300000 + (k - 0xB0) * 0x1000⟩
  else if 0xC0 ≤ k && k < 0x100 && k % 0x10 == 0 then some ⟨k / 0x10 + 5, 0, b⟩
  else if 0x100 ≤ k && k < 0x200 then some ⟨0x15 + k % 2, (k - 0x100) / 2, b⟩
  else if 0x200 ≤ k && k < 0x300 then some ⟨0x17, k - 0x200, b⟩
  else if 0x300 ≤ k && k < 0x340 then some ⟨0x10, k - 0x300, b⟩
  else none

/-- The common header of every page (R522). Part 1. -/
def headerRegsa : List RegDef := [
  -- PG_ID (R522)
  { off := 0x0, count := 1, fields := [⟨7, 0, .ro, 0⟩, ⟨15, 8, .ro, 0⟩, ⟨31, 24, .ro, 176⟩, ⟨47, 32, .ro, 0⟩] },
  -- PG_CAP (R522)
  { off := 0x8, count := 1, fields := [⟨11, 0, .ro, 0⟩, ⟨16, 12, .ro, 0⟩, ⟨17, 17, .ro, 0⟩] },
  -- PG_CTL (R522)
  { off := 0x10, count := 1, fields := [⟨0, 0, .rw, 0⟩, ⟨1, 1, .w1s, 0⟩] },
  -- PG_STAT (R522)
  { off := 0x18, count := 1, fields := [⟨0, 0, .ro, 0⟩, ⟨1, 1, .ro, 0⟩, ⟨2, 2, .ro, 0⟩, ⟨3, 3, .ro, 0⟩, ⟨4, 4, .ro, 0⟩] },
  -- PG_ERR_SUM (R522)
  { off := 0x20, count := 1, fields := [⟨0, 0, .w1c, 0⟩, ⟨1, 1, .w1c, 0⟩, ⟨2, 2, .w1c, 0⟩, ⟨3, 3, .w1c, 0⟩, ⟨4, 4, .w1c, 0⟩, ⟨31, 16, .w1c, 0⟩] },
  -- PG_ERR_MASK (R522)
  { off := 0x28, count := 1, fields := [⟨0, 0, .rw, 0⟩, ⟨1, 1, .rw, 0⟩, ⟨2, 2, .rw, 0⟩, ⟨3, 3, .rw, 0⟩, ⟨4, 4, .rw, 0⟩, ⟨31, 16, .rw, 0⟩] },
  -- PG_IRQ_ROUTE (R522)
  { off := 0x30, count := 1, fields := [⟨10, 0, .rw, 0⟩, ⟨11, 11, .rw, 0⟩] },
  -- PG_PERTURB (R529)
  { off := 0x38, count := 1, fields := [⟨2, 0, .rw, 0⟩, ⟨7, 3, .rw, 0⟩, ⟨11, 8, .rw, 0⟩, ⟨12, 12, .rw, 0⟩, ⟨31, 16, .rw, 0⟩, ⟨47, 32, .rw, 0⟩, ⟨62, 48, .rw, 0⟩] }]

/-- The common header of every page (R522). Part 2. -/
def headerRegsb : List RegDef := [
  -- PG_CNT (R522)
  { off := 0x40, count := 24, fields := [⟨63, 0, .ro, 0⟩] }]

/-- The common header of every page (R522). -/
def headerRegs : List RegDef := headerRegsa ++ headerRegsb

/-- The registers of a page of TYPE 0x01 beyond the header. Part 1. -/
def pageRegs01a : List RegDef := [
  -- GRID_CFG (R38)
  { off := 0x100, count := 1, fields := [⟨4, 0, .rwl, 0⟩, ⟨12, 8, .rwl, 0⟩, ⟨20, 16, .rwl, 0⟩, ⟨28, 24, .rwl, 0⟩, ⟨41, 32, .ro, 0⟩] },
  -- CHIP_PWR (R528)
  { off := 0x108, count := 1, fields := [⟨11, 0, .rw, 0x3b6⟩, ⟨27, 16, .ro, 0⟩, ⟨28, 28, .ro, 0⟩, ⟨29, 29, .ro, 0⟩] },
  -- CHIP_TFREQ (R528)
  { off := 0x110, count := 2, fields := [⟨7, 0, .ro, 35⟩, ⟨15, 8, .ro, 35⟩, ⟨23, 16, .ro, 35⟩, ⟨31, 24, .ro, 35⟩, ⟨39, 32, .ro, 35⟩, ⟨47, 40, .ro, 35⟩, ⟨55, 48, .ro, 35⟩, ⟨63, 56, .ro, 35⟩] },
  -- CHIP_REF (R528)
  { off := 0x120, count := 1, fields := [⟨15, 0, .ro, 0⟩, ⟨31, 16, .ro, 0⟩, ⟨47, 32, .ro, 0⟩, ⟨63, 48, .ro, 0⟩] },
  -- INT_BASE (R528)
  { off := 0x128, count := 1, fields := [⟨0, 0, .rw, 0⟩, ⟨51, 15, .rw, 0⟩] },
  -- CHIP_TEMP (R554)
  { off := 0x130, count := 1, fields := [⟨7, 0, .ro, 0⟩, ⟨15, 8, .ro, 0⟩, ⟨23, 16, .ro, 0⟩, ⟨31, 24, .ro, 0⟩, ⟨39, 32, .rc, 0⟩] },
  -- IBM (R528)
  { off := 0x140, count := 16, fields := [⟨9, 0, .rw, 0⟩, ⟨16, 10, .rw, 0⟩, ⟨17, 17, .rw, 0⟩, ⟨18, 18, .rw, 0⟩] },
  -- INT_PEND (R528)
  { off := 0x200, count := 32, fields := [⟨63, 0, .w1c, 0⟩] }]

/-- The registers of a page of TYPE 0x01 beyond the header. Part 2. -/
def pageRegs01b : List RegDef := [
  -- INT_MASK (R528)
  { off := 0x300, count := 32, fields := [⟨63, 0, .rw, 0⟩] }]

/-- The registers of a page of TYPE 0x01 beyond the header. -/
def pageRegs01 : List RegDef := pageRegs01a ++ pageRegs01b

/-- The registers of a page of TYPE 0x02 beyond the header. -/
def pageRegs02 : List RegDef := [
  -- SEC_STAT (R494)
  { off := 0x100, count := 1, fields := [⟨2, 0, .ro, 0⟩, ⟨3, 3, .ro, 0⟩, ⟨4, 4, .ro, 0⟩, ⟨5, 5, .ro, 0⟩, ⟨6, 6, .ro, 0⟩, ⟨63, 32, .ro, 0⟩] },
  -- SEC_CMD (R494)
  { off := 0x108, count := 1, fields := [⟨3, 0, .rw, 0⟩, ⟨11, 8, .ro, 0⟩, ⟨23, 16, .ro, 0⟩, ⟨62, 62, .ro, 0⟩, ⟨63, 63, .w1s, 0⟩] },
  -- SEC_BUF (R494)
  { off := 0x110, count := 1, fields := [⟨51, 12, .rw, 0⟩] },
  -- SEC_NONCE (R494)
  { off := 0x118, count := 4, fields := [⟨63, 0, .ro, 0⟩] },
  -- SEC_POLICY (R494)
  { off := 0x138, count := 1, fields := [⟨0, 0, .rwl, 0⟩, ⟨1, 1, .ro, 0⟩] },
  -- SEC_TENANT (R494)
  { off := 0x140, count := 2, fields := [⟨63, 0, .ro, 0⟩] }]

/-- The registers of a page of TYPE 0x03 beyond the header. -/
def pageRegs03 : List RegDef := [
  -- MS_CTL (R513)
  { off := 0x100, count := 1, fields := [⟨3, 0, .rw, 0⟩, ⟨11, 8, .ro, 0⟩, ⟨23, 16, .ro, 0⟩, ⟨61, 61, .ro, 0⟩, ⟨62, 62, .ro, 0⟩, ⟨63, 63, .w1s, 0⟩] },
  -- MS_STAT (R513)
  { off := 0x108, count := 1, fields := [⟨31, 0, .ro, 0⟩, ⟨32, 32, .ro, 0⟩, ⟨33, 33, .ro, 0⟩, ⟨50, 34, .ro, 0⟩] },
  -- MS_STG_ADDR (R513)
  { off := 0x110, count := 1, fields := [⟨17, 3, .rw, 0⟩, ⟨63, 63, .rw, 0⟩] },
  -- MS_STG_DATA (R511)
  { off := 0x118, count := 1, fields := [⟨63, 0, .rw, 0⟩] },
  -- MS_STG_CRC (R513)
  { off := 0x120, count := 1, fields := [⟨31, 0, .rw, 0⟩] },
  -- MS_IMG (R499)
  { off := 0x128, count := 1, fields := [⟨55, 0, .rw, 0⟩] }]

/-- The registers of a page of TYPE 0x04 beyond the header. Part 1. -/
def pageRegs04a : List RegDef := [
  -- FB_HEAD (R474)
  { off := 0x100, count := 1, fields := [⟨31, 0, .ro, 0⟩, ⟨63, 32, .ro, 0⟩] },
  -- FB_TAIL (R474)
  { off := 0x108, count := 1, fields := [⟨31, 0, .rw, 0⟩] },
  -- FB_CTL (R474)
  { off := 0x110, count := 1, fields := [⟨1, 0, .rw, 2⟩, ⟨15, 8, .rw, 100⟩] },
  -- FB_IDX (R474)
  { off := 0x118, count := 1, fields := [⟨31, 0, .rw, 0⟩] },
  -- FB_REC (R474)
  { off := 0x120, count := 8, fields := [⟨63, 0, .ro, 0⟩] },
  -- FB_SPILL (R474)
  { off := 0x160, count := 1, fields := [⟨45, 12, .rw, 0⟩, ⟨52, 48, .rw, 8⟩, ⟨61, 56, .rw, 0⟩, ⟨63, 63, .rw, 0⟩] },
  -- FB_SPILL_HEAD (R474)
  { off := 0x168, count := 1, fields := [⟨31, 0, .ro, 0⟩, ⟨63, 32, .ro, 0⟩] },
  -- FB_SPILL_TAIL (R474)
  { off := 0x170, count := 1, fields := [⟨31, 0, .rw, 0⟩, ⟨45, 32, .rw, 0⟩, ⟨48, 48, .rw, 0⟩] }]

/-- The registers of a page of TYPE 0x04 beyond the header. Part 2. -/
def pageRegs04b : List RegDef := [
  -- FB_CTO (R474)
  { off := 0x178, count := 1, fields := [⟨9, 0, .rw, 24⟩] },
  -- FB_HB (R474)
  { off := 0x180, count := 1, fields := [⟨0, 0, .w1s, 0⟩, ⟨15, 8, .rw, 10⟩, ⟨19, 16, .rw, 3⟩, ⟨32, 32, .ro, 0⟩] },
  -- FB_MWDOG (R474)
  { off := 0x188, count := 1, fields := [⟨7, 0, .rw, 10⟩, ⟨31, 16, .rc, 0⟩] },
  -- TWN_CTL (R474)
  { off := 0x190, count := 1, fields := [⟨7, 0, .rw, 20⟩, ⟨11, 8, .rw, 3⟩] },
  -- TWN_SEL (R474)
  { off := 0x198, count := 1, fields := [⟨5, 0, .rw, 0⟩, ⟨12, 8, .rw, 0⟩] },
  -- TWN_AREA (R474)
  { off := 0x1A0, count := 1, fields := [⟨55, 0, .rw, 0⟩, ⟨61, 56, .rw, 0⟩, ⟨63, 63, .rw, 0⟩] },
  -- TWN_STAT (R474)
  { off := 0x1A8, count := 1, fields := [⟨15, 0, .ro, 0⟩, ⟨31, 16, .ro, 0⟩, ⟨47, 32, .ro, 0⟩] }]

/-- The registers of a page of TYPE 0x04 beyond the header. -/
def pageRegs04 : List RegDef := pageRegs04a ++ pageRegs04b

/-- The registers of a page of TYPE 0x05 beyond the header. -/
def pageRegs05 : List RegDef := [
  -- SCH_CTL (R388)
  { off := 0x100, count := 1, fields := [⟨0, 0, .rw, 1⟩, ⟨3, 1, .rw, 6⟩, ⟨6, 4, .rw, 2⟩, ⟨10, 8, .rw, 0⟩] },
  -- SCH_AGE (R388)
  { off := 0x108, count := 1, fields := [⟨9, 0, .rw, 16⟩, ⟨19, 10, .rw, 16⟩, ⟨29, 20, .rw, 16⟩, ⟨39, 30, .rw, 16⟩, ⟨49, 40, .rw, 16⟩, ⟨59, 50, .rw, 16⟩] },
  -- SCH_CLASS_RSV (R388)
  { off := 0x110, count := 1, fields := [⟨7, 0, .rw, 4⟩, ⟨15, 8, .rw, 4⟩, ⟨23, 16, .rw, 4⟩, ⟨31, 24, .rw, 4⟩, ⟨39, 32, .rw, 4⟩, ⟨47, 40, .rw, 4⟩] },
  -- SCH_PARCEL_LIM (R388)
  { off := 0x118, count := 8, fields := [⟨7, 0, .rw, 0⟩, ⟨15, 8, .rw, 0⟩, ⟨23, 16, .rw, 0⟩, ⟨31, 24, .rw, 0⟩, ⟨39, 32, .rw, 0⟩, ⟨47, 40, .rw, 0⟩, ⟨55, 48, .rw, 0⟩, ⟨63, 56, .rw, 0⟩] },
  -- SCH_STAT (R388)
  { off := 0x158, count := 1, fields := [⟨17, 0, .ro, 0⟩, ⟨45, 32, .ro, 0⟩, ⟨48, 48, .ro, 0⟩] },
  -- SCH_SMP_RING (R388)
  { off := 0x160, count := 1, fields := [⟨45, 12, .rw, 0⟩, ⟨52, 48, .rw, 8⟩, ⟨61, 56, .rw, 0⟩, ⟨63, 63, .rw, 0⟩] },
  -- SCH_SMP_HEAD (R388)
  { off := 0x168, count := 1, fields := [⟨31, 0, .ro, 0⟩, ⟨63, 32, .ro, 0⟩] },
  -- SCH_SMP_TAIL (R388)
  { off := 0x170, count := 1, fields := [⟨31, 0, .rw, 0⟩, ⟨45, 32, .rw, 0⟩, ⟨48, 48, .rw, 0⟩] }]

/-- The registers of a page of TYPE 0x06 beyond the header. -/
def pageRegs06 : List RegDef := [
  -- FB_HEAD (R474)
  { off := 0x100, count := 1, fields := [⟨31, 0, .ro, 0⟩, ⟨63, 32, .ro, 0⟩] },
  -- FB_TAIL (R474)
  { off := 0x108, count := 1, fields := [⟨31, 0, .rw, 0⟩] },
  -- FB_CTL (R474)
  { off := 0x110, count := 1, fields := [⟨1, 0, .rw, 2⟩, ⟨15, 8, .rw, 100⟩] },
  -- FB_IDX (R474)
  { off := 0x118, count := 1, fields := [⟨31, 0, .rw, 0⟩] },
  -- FB_REC (R474)
  { off := 0x120, count := 8, fields := [⟨63, 0, .ro, 0⟩] }]

/-- The registers of a page of TYPE 0x07 beyond the header. -/
def pageRegs07 : List RegDef := [
  -- FB_HEAD (R474)
  { off := 0x100, count := 1, fields := [⟨31, 0, .ro, 0⟩, ⟨63, 32, .ro, 0⟩] },
  -- FB_TAIL (R474)
  { off := 0x108, count := 1, fields := [⟨31, 0, .rw, 0⟩] },
  -- FB_CTL (R474)
  { off := 0x110, count := 1, fields := [⟨1, 0, .rw, 2⟩, ⟨15, 8, .rw, 100⟩] },
  -- FB_IDX (R474)
  { off := 0x118, count := 1, fields := [⟨31, 0, .rw, 0⟩] },
  -- FB_REC (R474)
  { off := 0x120, count := 8, fields := [⟨63, 0, .ro, 0⟩] }]

/-- The registers of a page of TYPE 0x08 beyond the header. Part 1. -/
def pageRegs08a : List RegDef := [
  -- CAD_CTL (R106)
  { off := 0x100, count := 1, fields := [⟨0, 0, .rw, 0⟩, ⟨1, 1, .rw, 1⟩, ⟨2, 2, .rw, 0⟩, ⟨11, 8, .rwl, 0⟩, ⟨23, 16, .rw, 64⟩] },
  -- CAD_STAT (R106)
  { off := 0x108, count := 1, fields := [⟨0, 0, .ro, 0⟩, ⟨1, 1, .ro, 0⟩, ⟨27, 16, .ro, 0⟩, ⟨43, 32, .rc, 0⟩] },
  -- CAD_REPL_CTL (R106)
  { off := 0x110, count := 1, fields := [⟨4, 0, .rw, 20⟩, ⟨15, 8, .rw, 16⟩, ⟨23, 16, .rw, 0⟩, ⟨31, 24, .rw, 2⟩, ⟨48, 32, .rw, 0x10000⟩] },
  -- CAD_REPL_POOL (R106)
  { off := 0x118, count := 1, fields := [⟨4, 0, .rwl, 0⟩, ⟨54, 32, .ro, 0⟩] },
  -- CAD_DEAD (R106)
  { off := 0x120, count := 1, fields := [⟨48, 0, .w1c, 0⟩, ⟨63, 63, .ro, 0⟩] },
  -- CAD_SEVER (R106)
  { off := 0x128, count := 16, fields := [⟨63, 0, .w1c, 0⟩] },
  -- CAD_AGENT_PORT (R106)
  { off := 0x1A8, count := 4, fields := [⟨6, 0, .ro, 0⟩, ⟨14, 8, .ro, 0⟩, ⟨22, 16, .ro, 0⟩, ⟨30, 24, .ro, 0⟩, ⟨38, 32, .ro, 0⟩, ⟨46, 40, .ro, 0⟩, ⟨54, 48, .ro, 0⟩, ⟨62, 56, .ro, 0⟩, ⟨7, 7, .ro, 0⟩, ⟨15, 15, .ro, 0⟩, ⟨23, 23, .ro, 0⟩, ⟨31, 31, .ro, 0⟩, ⟨39, 39, .ro, 0⟩, ⟨47, 47, .ro, 0⟩, ⟨55, 55, .ro, 0⟩, ⟨63, 63, .ro, 0⟩] },
  -- CAD_PROBE_ADDR (R106)
  { off := 0x1C8, count := 1, fields := [⟨55, 0, .rw, 0⟩, ⟨62, 62, .ro, 0⟩, ⟨63, 63, .w1s, 0⟩] }]

/-- The registers of a page of TYPE 0x08 beyond the header. Part 2. -/
def pageRegs08b : List RegDef := [
  -- CAD_PROBE (R106)
  { off := 0x1D0, count := 4, fields := [⟨63, 0, .ro, 0⟩] }]

/-- The registers of a page of TYPE 0x08 beyond the header. -/
def pageRegs08 : List RegDef := pageRegs08a ++ pageRegs08b

/-- The registers of a page of TYPE 0x09 beyond the header. -/
def pageRegs09 : List RegDef := [
  -- HBM_CTL (R513)
  { off := 0x100, count := 1, fields := [⟨0, 0, .w1s, 0⟩] },
  -- HBM_STAT (R513)
  { off := 0x108, count := 1, fields := [⟨0, 0, .ro, 0⟩, ⟨1, 1, .ro, 0⟩, ⟨2, 2, .ro, 0⟩, ⟨31, 16, .ro, 0⟩, ⟨47, 32, .ro, 0⟩] }]

/-- The registers of a page of TYPE 0x0A beyond the header. -/
def pageRegs0A : List RegDef := [
  -- FC_STAT (R513)
  { off := 0x108, count := 1, fields := [⟨0, 0, .ro, 0⟩, ⟨1, 1, .ro, 0⟩, ⟨15, 8, .ro, 0⟩] }]

/-- The registers of a page of TYPE 0x0B beyond the header. Part 1. -/
def pageRegs0Ba : List RegDef := [
  -- TL_CTL (R173)
  { off := 0x100, count := 1, fields := [⟨0, 0, .rw, 0⟩, ⟨12, 8, .rwl, 8⟩, ⟨19, 16, .rw, 8⟩, ⟨47, 32, .rw, 100⟩, ⟨63, 48, .rw, 0x3e8⟩] },
  -- TL_STAT (R173)
  { off := 0x108, count := 1, fields := [⟨0, 0, .ro, 0⟩, ⟨1, 1, .ro, 0⟩, ⟨2, 2, .ro, 0⟩, ⟨3, 3, .ro, 0⟩, ⟨4, 4, .ro, 0⟩, ⟨36, 16, .ro, 0⟩] },
  -- TIER_WE (R173)
  { off := 0x110, count := 1, fields := [⟨0, 0, .rw, 0⟩, ⟨1, 1, .rw, 0⟩, ⟨2, 2, .ro, 0⟩] },
  -- TC_POOL (R173)
  { off := 0x118, count := 1, fields := [⟨0, 0, .rw, 0⟩, ⟨14, 8, .rwl, 0⟩, ⟨55, 32, .ro, 0⟩] },
  -- TQ_SEL (R173)
  { off := 0x120, count := 1, fields := [⟨5, 0, .rw, 0⟩, ⟨63, 63, .ro, 0⟩] },
  -- TQ_LIMIT (R173)
  { off := 0x128, count := 1, fields := [⟨17, 0, .rw, 0⟩, ⟨37, 20, .rw, 0⟩, ⟨59, 40, .rw, 0⟩] },
  -- TQ_USE (R153)
  { off := 0x130, count := 1, fields := [⟨17, 0, .ro, 0⟩, ⟨37, 20, .ro, 0⟩, ⟨59, 40, .ro, 0⟩] },
  -- TQ_OBJ (R173)
  { off := 0x138, count := 1, fields := [⟨20, 0, .rw, 0⟩, ⟨52, 32, .ro, 0⟩] }]

/-- The registers of a page of TYPE 0x0B beyond the header. Part 2. -/
def pageRegs0Bb : List RegDef := [
  -- TL_CAP (R173)
  { off := 0x140, count := 1, fields := [⟨19, 0, .ro, 0⟩, ⟨39, 20, .ro, 0⟩] },
  -- TL_WEAR (R173)
  { off := 0x148, count := 1, fields := [⟨15, 0, .ro, 0⟩, ⟨31, 16, .ro, 0⟩, ⟨47, 32, .ro, 0⟩, ⟨57, 48, .ro, 0⟩] }]

/-- The registers of a page of TYPE 0x0B beyond the header. -/
def pageRegs0B : List RegDef := pageRegs0Ba ++ pageRegs0Bb

/-- The registers of a page of TYPE 0x0C beyond the header. -/
def pageRegs0C : List RegDef := [
  -- TRV_CTL (R321)
  { off := 0x100, count := 1, fields := [⟨0, 0, .rw, 0⟩, ⟨1, 1, .rw, 0⟩] },
  -- TRV_BENCH (R321)
  { off := 0x108, count := 1, fields := [⟨15, 0, .rw, 0⟩, ⟨31, 16, .rw, 0⟩, ⟨32, 32, .rw, 0⟩, ⟨63, 63, .w1s, 0⟩] },
  -- TRV_BENCH_MASK (R305)
  { off := 0x110, count := 1, fields := [⟨31, 0, .rw, 0⟩, ⟨63, 32, .rw, 0⟩] },
  -- TRV_T (R321)
  { off := 0x118, count := 16, fields := [⟨11, 0, .ro, 0⟩, ⟨14, 12, .ro, 0⟩, ⟨31, 16, .ro, 0⟩, ⟨35, 32, .ro, 0⟩, ⟨40, 36, .ro, 0⟩] }]

/-- The registers of a page of TYPE 0x0D beyond the header. Part 1. -/
def pageRegs0Da : List RegDef := [
  -- MTR_SEL (R404)
  { off := 0x100, count := 1, fields := [⟨8, 0, .rw, 0⟩] },
  -- MTR_CFG0 (R404)
  { off := 0x108, count := 1, fields := [⟨15, 0, .rw, 0⟩, ⟨31, 16, .rw, 0⟩, ⟨47, 32, .rw, 0⟩, ⟨63, 48, .rw, 0⟩] },
  -- MTR_CFG1 (R404)
  { off := 0x110, count := 1, fields := [⟨0, 0, .rw, 0⟩, ⟨1, 1, .rw, 0⟩, ⟨2, 2, .rw, 0⟩, ⟨63, 63, .ro, 0⟩] },
  -- MTR_STAT (R404)
  { off := 0x118, count := 1, fields := [⟨31, 0, .ro, 0⟩, ⟨63, 32, .ro, 0⟩] },
  -- SHP_SEL (R404)
  { off := 0x120, count := 1, fields := [⟨7, 0, .rw, 0⟩] },
  -- SHP_CFG (R404)
  { off := 0x128, count := 1, fields := [⟨0, 0, .rw, 0⟩, ⟨2, 1, .rw, 0⟩, ⟨9, 3, .rw, 0⟩, ⟨12, 10, .rw, 0⟩, ⟨31, 16, .rw, 0⟩, ⟨47, 32, .rw, 0⟩, ⟨63, 63, .ro, 0⟩] },
  -- SHP_STAT (R404)
  { off := 0x130, count := 1, fields := [⟨31, 0, .ro, 0⟩] },
  -- GRADE_THR (R404)
  { off := 0x138, count := 1, fields := [⟨7, 0, .rw, 1⟩, ⟨15, 8, .rw, 2⟩, ⟨23, 16, .rw, 4⟩, ⟨31, 24, .rw, 8⟩, ⟨39, 32, .rw, 16⟩, ⟨47, 40, .rw, 32⟩, ⟨55, 48, .rw, 64⟩] }]

/-- The registers of a page of TYPE 0x0D beyond the header. Part 2. -/
def pageRegs0Db : List RegDef := [
  -- GRADE_OUT (R404)
  { off := 0x140, count := 8, fields := [⟨2, 0, .ro, 0⟩, ⟨6, 4, .ro, 0⟩, ⟨10, 8, .ro, 0⟩, ⟨14, 12, .ro, 0⟩, ⟨18, 16, .ro, 0⟩, ⟨22, 20, .ro, 0⟩, ⟨26, 24, .ro, 0⟩, ⟨30, 28, .ro, 0⟩, ⟨34, 32, .ro, 0⟩, ⟨38, 36, .ro, 0⟩, ⟨42, 40, .ro, 0⟩, ⟨46, 44, .ro, 0⟩, ⟨50, 48, .ro, 0⟩, ⟨54, 52, .ro, 0⟩, ⟨58, 56, .ro, 0⟩, ⟨62, 60, .ro, 0⟩] }]

/-- The registers of a page of TYPE 0x0D beyond the header. -/
def pageRegs0D : List RegDef := pageRegs0Da ++ pageRegs0Db

/-- The registers of a page of TYPE 0x0E beyond the header. -/
def pageRegs0E : List RegDef := [
  -- GL_ADDR (R405)
  { off := 0x100, count := 1, fields := [⟨11, 0, .rw, 0⟩, ⟨16, 16, .rw, 0⟩] },
  -- GL_DATA (R405)
  { off := 0x108, count := 1, fields := [⟨31, 0, .rw, 0⟩, ⟨39, 32, .rw, 0⟩] },
  -- GL_STAT (R405)
  { off := 0x110, count := 1, fields := [⟨0, 0, .ro, 0⟩] }]

/-- The registers of a page of TYPE 0x0F beyond the header. -/
def pageRegs0F : List RegDef := [
  -- STK_STAT (R145)
  { off := 0x100, count := 1, fields := [⟨13, 0, .ro, 0⟩, ⟨29, 16, .ro, 0⟩, ⟨45, 32, .ro, 0⟩, ⟨61, 48, .ro, 0⟩] },
  -- STK_WAIT_LIMIT (R145)
  { off := 0x108, count := 8, fields := [⟨7, 0, .rw, 16⟩, ⟨15, 8, .rw, 16⟩, ⟨23, 16, .rw, 16⟩, ⟨31, 24, .rw, 16⟩, ⟨39, 32, .rw, 16⟩, ⟨47, 40, .rw, 16⟩, ⟨55, 48, .rw, 16⟩, ⟨63, 56, .rw, 16⟩] },
  -- STK_PROBE_CTL (R145)
  { off := 0x148, count := 1, fields := [⟨13, 0, .rw, 0⟩, ⟨62, 62, .ro, 0⟩, ⟨63, 63, .w1s, 0⟩] },
  -- STK_PROBE0 (R145)
  { off := 0x150, count := 1, fields := [⟨63, 0, .ro, 0⟩] },
  -- STK_PROBE1 (R145)
  { off := 0x158, count := 1, fields := [⟨1, 0, .ro, 0⟩, ⟨11, 2, .ro, 0⟩, ⟨23, 12, .ro, 0⟩] },
  -- STK_PROBE2 (R145)
  { off := 0x160, count := 1, fields := [⟨63, 0, .ro, 0⟩] },
  -- STK_PROBE3 (R145)
  { off := 0x168, count := 1, fields := [⟨13, 0, .ro, 0⟩] }]

/-- The registers of a page of TYPE 0x10 beyond the header. -/
def pageRegs10 : List RegDef := [
  -- PCL_CMD (R441)
  { off := 0x100, count := 1, fields := [⟨3, 0, .rw, 0⟩, ⟨11, 8, .ro, 0⟩, ⟨23, 16, .ro, 0⟩, ⟨61, 61, .ro, 0⟩, ⟨62, 62, .ro, 0⟩, ⟨63, 63, .w1s, 0⟩] },
  -- PCL_STAT (R441)
  { off := 0x108, count := 1, fields := [⟨2, 0, .ro, 0⟩, ⟨3, 3, .ro, 0⟩, ⟨28, 16, .ro, 0⟩] },
  -- PCL_CMP (R441)
  { off := 0x110, count := 8, fields := [⟨63, 0, .rw, 0⟩] },
  -- PCL_GRANT (R441)
  { off := 0x150, count := 8, fields := [⟨63, 0, .ro, 0⟩] },
  -- PCL_EXT_CMD (R441)
  { off := 0x190, count := 1, fields := [⟨12, 0, .rw, 0⟩, ⟨19, 16, .rw, 0⟩, ⟨23, 20, .ro, 0⟩, ⟨62, 62, .ro, 0⟩, ⟨63, 63, .w1s, 0⟩] },
  -- PCL_EXT (R439)
  { off := 0x198, count := 4, fields := [⟨63, 0, .rw, 0⟩] },
  -- PCL_USE_SEL (R441)
  { off := 0x1B8, count := 1, fields := [⟨1, 0, .rw, 0⟩, ⟨4, 2, .rw, 0⟩, ⟨63, 63, .w1s, 0⟩] },
  -- PCL_USE (R441)
  { off := 0x1C0, count := 1, fields := [⟨63, 0, .ro, 0⟩] }]

/-- The registers of a page of TYPE 0x11 beyond the header. Part 1. -/
def pageRegs11a : List RegDef := [
  -- ROCE_CTL (R426)
  { off := 0x100, count := 1, fields := [⟨0, 0, .rw, 0⟩, ⟨1, 1, .rwl, 0⟩, ⟨7, 2, .rwl, 0⟩, ⟨15, 8, .rwl, 0⟩, ⟨25, 16, .rwl, 0⟩] },
  -- ROCE_QPC_BASE (R426)
  { off := 0x108, count := 1, fields := [⟨45, 12, .rwl, 0⟩] },
  -- ROCE_QPC_CMD (R426)
  { off := 0x110, count := 1, fields := [⟨15, 0, .rw, 0⟩, ⟨19, 16, .rw, 0⟩, ⟨23, 20, .ro, 0⟩, ⟨62, 62, .ro, 0⟩, ⟨63, 63, .w1s, 0⟩] },
  -- ROCE_QPC_DATA (R413)
  { off := 0x118, count := 16, fields := [⟨63, 0, .rw, 0⟩] },
  -- ROCE_MR_CMD (R426)
  { off := 0x198, count := 1, fields := [⟨13, 0, .rw, 0⟩, ⟨17, 16, .rw, 0⟩, ⟨23, 20, .ro, 0⟩, ⟨62, 62, .ro, 0⟩, ⟨63, 63, .w1s, 0⟩] },
  -- ROCE_MR_DATA (R418)
  { off := 0x1A0, count := 4, fields := [⟨63, 0, .rw, 0⟩] },
  -- ROCE_RING_SEL (R426)
  { off := 0x1C0, count := 1, fields := [⟨9, 0, .rw, 0⟩] },
  -- ROCE_RING_CFG (R426)
  { off := 0x1C8, count := 1, fields := [⟨0, 0, .rw, 0⟩, ⟨5, 1, .rw, 6⟩, ⟨11, 6, .rw, 0⟩, ⟨45, 12, .rw, 0⟩, ⟨59, 46, .rw, 0⟩] }]

/-- The registers of a page of TYPE 0x11 beyond the header. Part 2. -/
def pageRegs11b : List RegDef := [
  -- ROCE_RING_STAT (R421)
  { off := 0x1D0, count := 1, fields := [⟨63, 0, .ro, 0⟩] },
  -- ROCE_CC (R426)
  { off := 0x1D8, count := 1, fields := [⟨7, 0, .rw, 50⟩, ⟨15, 8, .rw, 50⟩, ⟨23, 16, .rw, 55⟩, ⟨27, 24, .rw, 1⟩, ⟨47, 32, .rw, 50⟩, ⟨63, 48, .rw, 10⟩] },
  -- ROCE_CC1 (R426)
  { off := 0x1E0, count := 1, fields := [⟨15, 0, .rw, 64⟩, ⟨23, 16, .rw, 16⟩] },
  -- ROCE_RAW_RING (R426)
  { off := 0x1E8, count := 1, fields := [⟨45, 12, .rw, 0⟩, ⟨52, 48, .rw, 8⟩, ⟨61, 56, .rw, 0⟩, ⟨63, 63, .rw, 0⟩] },
  -- ROCE_RAW_HEAD (R426)
  { off := 0x1F0, count := 1, fields := [⟨31, 0, .ro, 0⟩, ⟨63, 32, .ro, 0⟩] },
  -- ROCE_RAW_TAIL (R426)
  { off := 0x1F8, count := 1, fields := [⟨31, 0, .rw, 0⟩, ⟨45, 32, .rw, 0⟩, ⟨48, 48, .rw, 0⟩] },
  -- ROCE_RAW_TX0 (R426)
  { off := 0x200, count := 1, fields := [⟨55, 0, .rw, 0⟩] },
  -- ROCE_RAW_TX1 (R426)
  { off := 0x208, count := 1, fields := [⟨13, 0, .rw, 0⟩, ⟨20, 14, .rw, 0⟩, ⟨23, 21, .rw, 0⟩, ⟨62, 62, .ro, 0⟩, ⟨63, 63, .w1s, 0⟩] }]

/-- The registers of a page of TYPE 0x11 beyond the header. -/
def pageRegs11 : List RegDef := pageRegs11a ++ pageRegs11b

/-- The registers of a page of TYPE 0x12 beyond the header. -/
def pageRegs12 : List RegDef := [
  -- LC_SEL (R494)
  { off := 0x100, count := 1, fields := [⟨6, 0, .rw, 0⟩, ⟨8, 7, .rw, 0⟩, ⟨9, 9, .rw, 0⟩, ⟨62, 62, .ro, 0⟩, ⟨63, 63, .w1s, 0⟩] },
  -- LC_SAK (R494)
  { off := 0x108, count := 4, fields := [⟨63, 0, .wo, 0⟩] },
  -- LC_SALT (R494)
  { off := 0x128, count := 2, fields := [⟨63, 0, .wo, 0⟩] },
  -- LC_SSCI (R494)
  { off := 0x138, count := 1, fields := [⟨31, 0, .rw, 0⟩] },
  -- LC_PN (R494)
  { off := 0x140, count := 1, fields := [⟨63, 0, .rw, 1⟩] }]

/-- The registers of a page of TYPE 0x13 beyond the header. -/
def pageRegs13 : List RegDef := [
  -- XC_CTL (R335)
  { off := 0x100, count := 1, fields := [⟨0, 0, .w1s, 0⟩, ⟨1, 1, .rw, 0⟩, ⟨13, 8, .rw, 0⟩] },
  -- XC_SRC (R335)
  { off := 0x108, count := 1, fields := [⟨55, 0, .rw, 0⟩] },
  -- XC_DST (R335)
  { off := 0x110, count := 1, fields := [⟨55, 0, .rw, 0⟩] },
  -- XC_LEN (R335)
  { off := 0x118, count := 1, fields := [⟨31, 0, .rw, 0⟩, ⟨51, 32, .rw, 0⟩] },
  -- XC_STAT (R335)
  { off := 0x120, count := 1, fields := [⟨0, 0, .ro, 0⟩, ⟨1, 1, .ro, 0⟩, ⟨5, 2, .ro, 0⟩, ⟨63, 32, .ro, 0⟩] },
  -- XC_FIRST (R335)
  { off := 0x128, count := 1, fields := [⟨19, 0, .ro, 0⟩, ⟨51, 32, .ro, 0⟩, ⟨53, 52, .ro, 0⟩] }]

/-- The registers of a page of TYPE 0x14 beyond the header. -/
def pageRegs14 : List RegDef := [
  -- BOOT_STAT (R513)
  { off := 0x100, count := 1, fields := [⟨3, 0, .ro, 0⟩, ⟨4, 4, .ro, 0⟩, ⟨5, 5, .ro, 0⟩, ⟨6, 6, .ro, 0⟩, ⟨11, 8, .ro, 0⟩, ⟨21, 16, .ro, 0⟩, ⟨22, 22, .ro, 0⟩] },
  -- BIST_RES (R513)
  { off := 0x108, count := 6, fields := [⟨63, 0, .ro, 0⟩] },
  -- BIST_LANE (R513)
  { off := 0x138, count := 10, fields := [⟨63, 0, .ro, 0⟩] },
  -- RST_CTL (R513)
  { off := 0x188, count := 1, fields := [⟨0, 0, .w1s, 0⟩, ⟨3, 1, .w1s, 0⟩, ⟨31, 16, .w1s, 0⟩, ⟨34, 32, .ro, 0⟩, ⟨35, 35, .ro, 0⟩] },
  -- BIST_FILARD (R513)
  { off := 0x190, count := 1, fields := [⟨7, 0, .ro, 0⟩, ⟨9, 8, .ro, 0⟩] }]

/-- The registers of a page of TYPE 0x15 beyond the header. -/
def pageRegs15 : List RegDef := [
  -- PORT_ROLE (R42)
  { off := 0x100, count := 1, fields := [⟨2, 0, .rwl, 0⟩, ⟨13, 8, .rwl, 0⟩, ⟨20, 16, .rwl, 0⟩, ⟨21, 21, .rwl, 0⟩] },
  -- PORT_CTL (R364)
  { off := 0x108, count := 1, fields := [⟨0, 0, .rw, 0⟩, ⟨7, 4, .rw, 8⟩, ⟨8, 8, .w1s, 0⟩, ⟨11, 9, .rw, 0⟩, ⟨12, 12, .w1s, 0⟩] },
  -- PORT_STAT (R364)
  { off := 0x110, count := 1, fields := [⟨2, 0, .ro, 0⟩, ⟨5, 3, .ro, 0⟩, ⟨6, 6, .ro, 0⟩, ⟨15, 8, .ro, 0⟩, ⟨23, 16, .ro, 0⟩] },
  -- PORT_LANE (R364)
  { off := 0x118, count := 1, fields := [⟨11, 0, .ro, 0⟩, ⟨14, 12, .ro, 0⟩, ⟨15, 15, .ro, 0⟩, ⟨20, 16, .ro, 0⟩, ⟨25, 21, .ro, 0⟩] },
  -- PORT_BER (R364)
  { off := 0x120, count := 1, fields := [⟨4, 0, .rw, 20⟩, ⟨11, 8, .rw, 2⟩, ⟨63, 32, .rw, 0x40000⟩] },
  -- PORT_LANE_ERR (R364)
  { off := 0x128, count := 5, fields := [⟨31, 0, .rc, 0⟩, ⟨63, 32, .ro, 0⟩] },
  -- PORT_LINK (R364)
  { off := 0x150, count := 1, fields := [⟨7, 0, .rwl, 96⟩, ⟨14, 8, .ro, 64⟩, ⟨47, 32, .ro, 0⟩] },
  -- PORT_KEY (R364)
  { off := 0x158, count := 1, fields := [⟨0, 0, .ro, 0⟩, ⟨1, 1, .ro, 0⟩, ⟨13, 8, .rw, 40⟩, ⟨63, 16, .ro, 0⟩] }]

/-- The registers of a page of TYPE 0x16 beyond the header. Part 1. -/
def pageRegs16a : List RegDef := [
  -- PORT_SMP (R388)
  { off := 0x100, count := 1, fields := [⟨4, 0, .rw, 0⟩, ⟨10, 6, .rw, 0⟩, ⟨16, 12, .rw, 0⟩, ⟨22, 18, .rw, 0⟩, ⟨28, 24, .rw, 0⟩, ⟨34, 30, .rw, 0⟩, ⟨5, 5, .rw, 0⟩, ⟨11, 11, .rw, 0⟩, ⟨17, 17, .rw, 0⟩, ⟨23, 23, .rw, 0⟩, ⟨29, 29, .rw, 0⟩, ⟨35, 35, .rw, 0⟩] },
  -- PORT_GATE (R405)
  { off := 0x108, count := 1, fields := [⟨11, 0, .rw, 0⟩, ⟨20, 12, .rw, 0⟩, ⟨31, 24, .rw, 0⟩, ⟨47, 32, .rw, 0⟩, ⟨48, 48, .rw, 0⟩, ⟨49, 49, .ro, 0⟩] },
  -- PORT_GATE_TIME (R405)
  { off := 0x110, count := 1, fields := [⟨7, 0, .rw, 128⟩, ⟨23, 8, .rw, 0xe14⟩, ⟨43, 32, .rw, 105⟩] },
  -- PORT_GATE_STAT (R405)
  { off := 0x118, count := 1, fields := [⟨7, 0, .ro, 0⟩, ⟨15, 8, .ro, 0⟩, ⟨16, 16, .ro, 0⟩, ⟨17, 17, .ro, 0⟩, ⟨63, 32, .ro, 0⟩] },
  -- MOD_PNM_CTL (R301)
  { off := 0x800, count := 1, fields := [⟨0, 0, .rw, 0⟩, ⟨1, 1, .rw, 0⟩] },
  -- MOD_PNM_STAT (R301)
  { off := 0x808, count := 1, fields := [⟨6, 0, .ro, 0⟩, ⟨11, 8, .ro, 0⟩, ⟨26, 16, .ro, 0⟩] },
  -- MOD_PNM_BANKS (R301)
  { off := 0x810, count := 1, fields := [⟨63, 0, .ro, 0⟩] },
  -- MOD_KEY_STAT (R301)
  { off := 0x818, count := 1, fields := [⟨0, 0, .ro, 0⟩, ⟨1, 1, .ro, 0⟩, ⟨63, 32, .ro, 0⟩] }]

/-- The registers of a page of TYPE 0x16 beyond the header. Part 2. -/
def pageRegs16b : List RegDef := [
  -- MOD_LAST_ERR (R301)
  { off := 0x820, count := 1, fields := [⟨37, 0, .rc, 0⟩, ⟨38, 38, .rc, 0⟩, ⟨39, 39, .rc, 0⟩] },
  -- ETH_MAC (R409)
  { off := 0x900, count := 1, fields := [⟨47, 0, .rw, 0⟩] },
  -- ETH_IP (R409)
  { off := 0x908, count := 2, fields := [⟨63, 0, .rw, 0⟩] },
  -- ETH_PRIO (R409)
  { off := 0x918, count := 1, fields := [⟨0, 0, .rw, 1⟩, ⟨3, 1, .rw, 0⟩, ⟨14, 12, .rw, 6⟩, ⟨20, 15, .rw, 48⟩] },
  -- ETH_DSCP (R409)
  { off := 0x920, count := 4, fields := [⟨2, 0, .rw, 0⟩, ⟨6, 4, .rw, 0⟩, ⟨10, 8, .rw, 0⟩, ⟨14, 12, .rw, 0⟩, ⟨18, 16, .rw, 0⟩, ⟨22, 20, .rw, 0⟩, ⟨26, 24, .rw, 0⟩, ⟨30, 28, .rw, 0⟩, ⟨34, 32, .rw, 0⟩, ⟨38, 36, .rw, 0⟩, ⟨42, 40, .rw, 0⟩, ⟨46, 44, .rw, 0⟩, ⟨50, 48, .rw, 0⟩, ⟨54, 52, .rw, 0⟩, ⟨58, 56, .rw, 0⟩, ⟨62, 60, .rw, 0⟩] },
  -- ETH_PFC (R411)
  { off := 0x940, count := 1, fields := [⟨7, 0, .rw, 0⟩, ⟨18, 8, .rw, 192⟩, ⟨29, 19, .rw, 128⟩, ⟨40, 30, .rw, 64⟩, ⟨63, 63, .ro, 0⟩] },
  -- ETH_STAT (R410)
  { off := 0x948, count := 1, fields := [⟨7, 0, .ro, 0⟩, ⟨15, 8, .ro, 0⟩, ⟨25, 16, .ro, 0⟩] }]

/-- The registers of a page of TYPE 0x16 beyond the header. -/
def pageRegs16 : List RegDef := pageRegs16a ++ pageRegs16b

/-- The registers of a page of TYPE 0x17 beyond the header. Part 1. -/
def pageRegs17a : List RegDef := [
  -- TILE_CTL (R203)
  { off := 0x100, count := 1, fields := [⟨0, 0, .rw, 0⟩, ⟨1, 1, .rw, 0⟩, ⟨2, 2, .w1s, 0⟩, ⟨31, 16, .w1s, 0⟩] },
  -- TILE_STAT (R203)
  { off := 0x108, count := 1, fields := [⟨15, 0, .ro, 0⟩, ⟨31, 16, .ro, 0⟩, ⟨38, 32, .ro, 0⟩, ⟨39, 39, .ro, 1⟩, ⟨40, 40, .ro, 0⟩, ⟨53, 48, .ro, 0⟩, ⟨54, 54, .ro, 0⟩] },
  -- TILE_SRAM (R203)
  { off := 0x110, count := 1, fields := [⟨4, 0, .rw, 4⟩, ⟨12, 8, .rw, 8⟩, ⟨63, 63, .ro, 0⟩] },
  -- TILE_WDOG (R203)
  { off := 0x118, count := 1, fields := [⟨31, 0, .rw, 0x4000⟩] },
  -- TILE_QUANTUM (R203)
  { off := 0x120, count := 1, fields := [⟨15, 0, .rw, 0x1000⟩] },
  -- TILE_ACC (R203)
  { off := 0x128, count := 1, fields := [⟨15, 0, .ro, 0⟩] },
  -- TILE_FAULT (R203)
  { off := 0x130, count := 1, fields := [⟨7, 0, .rc, 0⟩, ⟨11, 8, .rc, 0⟩, ⟨27, 12, .rc, 0⟩, ⟨63, 32, .rc, 0⟩] },
  -- TILE_CTX (R203)
  { off := 0x140, count := 16, fields := [⟨2, 0, .ro, 0⟩, ⟨23, 8, .ro, 0⟩, ⟨30, 24, .ro, 0⟩, ⟨47, 32, .ro, 0⟩] }]

/-- The registers of a page of TYPE 0x17 beyond the header. Part 2. -/
def pageRegs17b : List RegDef := [
  -- TILE_BIND (R203)
  { off := 0x1C0, count := 8, fields := [⟨3, 0, .ro, 0⟩, ⟨4, 4, .ro, 0⟩, ⟨5, 5, .ro, 0⟩, ⟨15, 6, .ro, 0⟩, ⟨31, 16, .ro, 0⟩, ⟨63, 32, .ro, 0⟩] }]

/-- The registers of a page of TYPE 0x17 beyond the header. -/
def pageRegs17 : List RegDef := pageRegs17a ++ pageRegs17b

/-- The registers beyond the header, by TYPE. -/
def pageRegs (type : Nat) : List RegDef :=
  match type with
  | 0x01 => pageRegs01
  | 0x02 => pageRegs02
  | 0x03 => pageRegs03
  | 0x04 => pageRegs04
  | 0x05 => pageRegs05
  | 0x06 => pageRegs06
  | 0x07 => pageRegs07
  | 0x08 => pageRegs08
  | 0x09 => pageRegs09
  | 0x0A => pageRegs0A
  | 0x0B => pageRegs0B
  | 0x0C => pageRegs0C
  | 0x0D => pageRegs0D
  | 0x0E => pageRegs0E
  | 0x0F => pageRegs0F
  | 0x10 => pageRegs10
  | 0x11 => pageRegs11
  | 0x12 => pageRegs12
  | 0x13 => pageRegs13
  | 0x14 => pageRegs14
  | 0x15 => pageRegs15
  | 0x16 => pageRegs16
  | 0x17 => pageRegs17
  | _ => []

/-! ### The registers by name -/

/-- PG_ID of the page at `page` (R522). -/
def rPgId (page : Nat) : Nat := page + 0x0
/-- PG_CAP of the page at `page` (R522). -/
def rPgCap (page : Nat) : Nat := page + 0x8
/-- PG_CTL of the page at `page` (R522). -/
def rPgCtl (page : Nat) : Nat := page + 0x10
/-- PG_STAT of the page at `page` (R522). -/
def rPgStat (page : Nat) : Nat := page + 0x18
/-- PG_ERR_SUM of the page at `page` (R522). -/
def rPgErrSum (page : Nat) : Nat := page + 0x20
/-- PG_ERR_MASK of the page at `page` (R522). -/
def rPgErrMask (page : Nat) : Nat := page + 0x28
/-- PG_IRQ_ROUTE of the page at `page` (R522). -/
def rPgIrqRoute (page : Nat) : Nat := page + 0x30
/-- PG_PERTURB of the page at `page` (R529). -/
def rPgPerturb (page : Nat) : Nat := page + 0x38
/-- PG_CNTk of the page at `page` (R522). -/
def rPgCnt (page k : Nat) : Nat := page + 0x40 + 8 * k
/-- GRID_CFG (R38). -/
def rGridCfg : Nat := 0x100
/-- CHIP_PWR (R528). -/
def rChipPwr : Nat := 0x108
/-- CHIP_TFREQi (R528). -/
def rChipTfreq (i : Nat) : Nat := 0x110 + 8 * i
/-- CHIP_REF (R528). -/
def rChipRef : Nat := 0x120
/-- INT_BASE (R528). -/
def rIntBase : Nat := 0x128
/-- CHIP_TEMP (R554). -/
def rChipTemp : Nat := 0x130
/-- IBMi (R528). -/
def rIbm (i : Nat) : Nat := 0x140 + 8 * i
/-- INT_PENDi (R528). -/
def rIntPend (i : Nat) : Nat := 0x200 + 8 * i
/-- INT_MASKi (R528). -/
def rIntMask (i : Nat) : Nat := 0x300 + 8 * i
/-- SEC_STAT (R494). -/
def rSecStat : Nat := 0x1100
/-- SEC_CMD (R494). -/
def rSecCmd : Nat := 0x1108
/-- SEC_BUF (R494). -/
def rSecBuf : Nat := 0x1110
/-- SEC_NONCEi (R494). -/
def rSecNonce (i : Nat) : Nat := 0x1118 + 8 * i
/-- SEC_POLICY (R494). -/
def rSecPolicy : Nat := 0x1138
/-- SEC_TENANTi (R494). -/
def rSecTenant (i : Nat) : Nat := 0x1140 + 8 * i
/-- MS_CTL (R513). -/
def rMsCtl : Nat := 0x2100
/-- MS_STAT (R513). -/
def rMsStat : Nat := 0x2108
/-- MS_STG_ADDR (R513). -/
def rMsStgAddr : Nat := 0x2110
/-- MS_STG_DATA (R511). -/
def rMsStgData : Nat := 0x2118
/-- MS_STG_CRC (R513). -/
def rMsStgCrc : Nat := 0x2120
/-- MS_IMG (R499). -/
def rMsImg : Nat := 0x2128
/-- FB_HEAD of the field-book page at `page` (R474). -/
def rFbHead (page : Nat) : Nat := page + 0x100
/-- FB_TAIL of the field-book page at `page` (R474). -/
def rFbTail (page : Nat) : Nat := page + 0x108
/-- FB_CTL of the field-book page at `page` (R474). -/
def rFbCtl (page : Nat) : Nat := page + 0x110
/-- FB_IDX of the field-book page at `page` (R474). -/
def rFbIdx (page : Nat) : Nat := page + 0x118
/-- FB_RECi of the field-book page at `page` (R474). -/
def rFbRec (page i : Nat) : Nat := page + 0x120 + 8 * i
/-- FB_SPILL (R474). -/
def rFbSpill : Nat := 0x3160
/-- FB_SPILL_HEAD (R474). -/
def rFbSpillHead : Nat := 0x3168
/-- FB_SPILL_TAIL (R474). -/
def rFbSpillTail : Nat := 0x3170
/-- FB_CTO (R474). -/
def rFbCto : Nat := 0x3178
/-- FB_HB (R474). -/
def rFbHb : Nat := 0x3180
/-- FB_MWDOG (R474). -/
def rFbMwdog : Nat := 0x3188
/-- TWN_CTL (R474). -/
def rTwnCtl : Nat := 0x3190
/-- TWN_SEL (R474). -/
def rTwnSel : Nat := 0x3198
/-- TWN_AREA (R474). -/
def rTwnArea : Nat := 0x31A0
/-- TWN_STAT (R474). -/
def rTwnStat : Nat := 0x31A8
/-- SCH_CTL (R388). -/
def rSchCtl : Nat := 0x4100
/-- SCH_AGE (R388). -/
def rSchAge : Nat := 0x4108
/-- SCH_CLASS_RSV (R388). -/
def rSchClassRsv : Nat := 0x4110
/-- SCH_PARCEL_LIMi (R388). -/
def rSchParcelLim (i : Nat) : Nat := 0x4118 + 8 * i
/-- SCH_STAT (R388). -/
def rSchStat : Nat := 0x4158
/-- SCH_SMP_RING (R388). -/
def rSchSmpRing : Nat := 0x4160
/-- SCH_SMP_HEAD (R388). -/
def rSchSmpHead : Nat := 0x4168
/-- SCH_SMP_TAIL (R388). -/
def rSchSmpTail : Nat := 0x4170
/-- CAD_CTL (R106). -/
def rCadCtl (n : Nat) : Nat := 0x30100 + 0x1000 * n
/-- CAD_STAT (R106). -/
def rCadStat (n : Nat) : Nat := 0x30108 + 0x1000 * n
/-- CAD_REPL_CTL (R106). -/
def rCadReplCtl (n : Nat) : Nat := 0x30110 + 0x1000 * n
/-- CAD_REPL_POOL (R106). -/
def rCadReplPool (n : Nat) : Nat := 0x30118 + 0x1000 * n
/-- CAD_DEAD (R106). -/
def rCadDead (n : Nat) : Nat := 0x30120 + 0x1000 * n
/-- CAD_SEVERi (R106). -/
def rCadSever (n i : Nat) : Nat := 0x30128 + 0x1000 * n + 8 * i
/-- CAD_AGENT_PORTi (R106). -/
def rCadAgentPort (n i : Nat) : Nat := 0x301A8 + 0x1000 * n + 8 * i
/-- CAD_PROBE_ADDR (R106). -/
def rCadProbeAddr (n : Nat) : Nat := 0x301C8 + 0x1000 * n
/-- CAD_PROBEi (R106). -/
def rCadProbe (n i : Nat) : Nat := 0x301D0 + 0x1000 * n + 8 * i
/-- HBM_CTL (R513). -/
def rHbmCtl (n : Nat) : Nat := 0x40100 + 0x1000 * n
/-- HBM_STAT (R513). -/
def rHbmStat (n : Nat) : Nat := 0x40108 + 0x1000 * n
/-- FC_STAT (R513). -/
def rFcStat (n : Nat) : Nat := 0x50108 + 0x1000 * n
/-- TL_CTL (R173). -/
def rTlCtl : Nat := 0x60100
/-- TL_STAT (R173). -/
def rTlStat : Nat := 0x60108
/-- TIER_WE (R173). -/
def rTierWe : Nat := 0x60110
/-- TC_POOL (R173). -/
def rTcPool : Nat := 0x60118
/-- TQ_SEL (R173). -/
def rTqSel : Nat := 0x60120
/-- TQ_LIMIT (R173). -/
def rTqLimit : Nat := 0x60128
/-- TQ_USE (R153). -/
def rTqUse : Nat := 0x60130
/-- TQ_OBJ (R173). -/
def rTqObj : Nat := 0x60138
/-- TL_CAP (R173). -/
def rTlCap : Nat := 0x60140
/-- TL_WEAR (R173). -/
def rTlWear : Nat := 0x60148
/-- TRV_CTL (R321). -/
def rTrvCtl : Nat := 0x70100
/-- TRV_BENCH (R321). -/
def rTrvBench : Nat := 0x70108
/-- TRV_BENCH_MASK (R305). -/
def rTrvBenchMask : Nat := 0x70110
/-- TRV_Ti (R321). -/
def rTrvT (i : Nat) : Nat := 0x70118 + 8 * i
/-- MTR_SEL (R404). -/
def rMtrSel : Nat := 0x80100
/-- MTR_CFG0 (R404). -/
def rMtrCfg0 : Nat := 0x80108
/-- MTR_CFG1 (R404). -/
def rMtrCfg1 : Nat := 0x80110
/-- MTR_STAT (R404). -/
def rMtrStat : Nat := 0x80118
/-- SHP_SEL (R404). -/
def rShpSel : Nat := 0x80120
/-- SHP_CFG (R404). -/
def rShpCfg : Nat := 0x80128
/-- SHP_STAT (R404). -/
def rShpStat : Nat := 0x80130
/-- GRADE_THR (R404). -/
def rGradeThr : Nat := 0x80138
/-- GRADE_OUTi (R404). -/
def rGradeOut (i : Nat) : Nat := 0x80140 + 8 * i
/-- GL_ADDR (R405). -/
def rGlAddr : Nat := 0x90100
/-- GL_DATA (R405). -/
def rGlData : Nat := 0x90108
/-- GL_STAT (R405). -/
def rGlStat : Nat := 0x90110
/-- STK_STAT (R145). -/
def rStkStat : Nat := 0xA0100
/-- STK_WAIT_LIMITi (R145). -/
def rStkWaitLimit (i : Nat) : Nat := 0xA0108 + 8 * i
/-- STK_PROBE_CTL (R145). -/
def rStkProbeCtl : Nat := 0xA0148
/-- STK_PROBE0 (R145). -/
def rStkProbe0 : Nat := 0xA0150
/-- STK_PROBE1 (R145). -/
def rStkProbe1 : Nat := 0xA0158
/-- STK_PROBE2 (R145). -/
def rStkProbe2 : Nat := 0xA0160
/-- STK_PROBE3 (R145). -/
def rStkProbe3 : Nat := 0xA0168
/-- PCL_CMD (R441). -/
def rPclCmd (n : Nat) : Nat := 0x300100 + 0x1000 * n
/-- PCL_STAT (R441). -/
def rPclStat (n : Nat) : Nat := 0x300108 + 0x1000 * n
/-- PCL_CMPi (R441). -/
def rPclCmp (n i : Nat) : Nat := 0x300110 + 0x1000 * n + 8 * i
/-- PCL_GRANTi (R441). -/
def rPclGrant (n i : Nat) : Nat := 0x300150 + 0x1000 * n + 8 * i
/-- PCL_EXT_CMD (R441). -/
def rPclExtCmd (n : Nat) : Nat := 0x300190 + 0x1000 * n
/-- PCL_EXTi (R439). -/
def rPclExt (n i : Nat) : Nat := 0x300198 + 0x1000 * n + 8 * i
/-- PCL_USE_SEL (R441). -/
def rPclUseSel (n : Nat) : Nat := 0x3001B8 + 0x1000 * n
/-- PCL_USE (R441). -/
def rPclUse (n : Nat) : Nat := 0x3001C0 + 0x1000 * n
/-- ROCE_CTL (R426). -/
def rRoceCtl : Nat := 0xC0100
/-- ROCE_QPC_BASE (R426). -/
def rRoceQpcBase : Nat := 0xC0108
/-- ROCE_QPC_CMD (R426). -/
def rRoceQpcCmd : Nat := 0xC0110
/-- ROCE_QPC_DATAi (R413). -/
def rRoceQpcData (i : Nat) : Nat := 0xC0118 + 8 * i
/-- ROCE_MR_CMD (R426). -/
def rRoceMrCmd : Nat := 0xC0198
/-- ROCE_MR_DATAi (R418). -/
def rRoceMrData (i : Nat) : Nat := 0xC01A0 + 8 * i
/-- ROCE_RING_SEL (R426). -/
def rRoceRingSel : Nat := 0xC01C0
/-- ROCE_RING_CFG (R426). -/
def rRoceRingCfg : Nat := 0xC01C8
/-- ROCE_RING_STAT (R421). -/
def rRoceRingStat : Nat := 0xC01D0
/-- ROCE_CC (R426). -/
def rRoceCc : Nat := 0xC01D8
/-- ROCE_CC1 (R426). -/
def rRoceCc1 : Nat := 0xC01E0
/-- ROCE_RAW_RING (R426). -/
def rRoceRawRing : Nat := 0xC01E8
/-- ROCE_RAW_HEAD (R426). -/
def rRoceRawHead : Nat := 0xC01F0
/-- ROCE_RAW_TAIL (R426). -/
def rRoceRawTail : Nat := 0xC01F8
/-- ROCE_RAW_TX0 (R426). -/
def rRoceRawTx0 : Nat := 0xC0200
/-- ROCE_RAW_TX1 (R426). -/
def rRoceRawTx1 : Nat := 0xC0208
/-- LC_SEL (R494). -/
def rLcSel : Nat := 0xD0100
/-- LC_SAKi (R494). -/
def rLcSak (i : Nat) : Nat := 0xD0108 + 8 * i
/-- LC_SALTi (R494). -/
def rLcSalt (i : Nat) : Nat := 0xD0128 + 8 * i
/-- LC_SSCI (R494). -/
def rLcSsci : Nat := 0xD0138
/-- LC_PN (R494). -/
def rLcPn : Nat := 0xD0140
/-- XC_CTL (R335). -/
def rXcCtl : Nat := 0xE0100
/-- XC_SRC (R335). -/
def rXcSrc : Nat := 0xE0108
/-- XC_DST (R335). -/
def rXcDst : Nat := 0xE0110
/-- XC_LEN (R335). -/
def rXcLen : Nat := 0xE0118
/-- XC_STAT (R335). -/
def rXcStat : Nat := 0xE0120
/-- XC_FIRST (R335). -/
def rXcFirst : Nat := 0xE0128
/-- BOOT_STAT (R513). -/
def rBootStat : Nat := 0xF0100
/-- BIST_RESi (R513). -/
def rBistRes (i : Nat) : Nat := 0xF0108 + 8 * i
/-- BIST_LANEi (R513). -/
def rBistLane (i : Nat) : Nat := 0xF0138 + 8 * i
/-- RST_CTL (R513). -/
def rRstCtl : Nat := 0xF0188
/-- BIST_FILARD (R513). -/
def rBistFilard : Nat := 0xF0190
/-- The page of a port; the link words of the Filard Link, which has no page, are kept past every page. -/
def portBase (n : Nat) : Nat := if n < 128 then 0x100000 + 0x2000 * n else 0x800000
/-- PORT_ROLE (R42). -/
def rPortRole (n : Nat) : Nat := portBase n + 0x100
/-- PORT_CTL (R364). -/
def rPortCtl (n : Nat) : Nat := portBase n + 0x108
/-- PORT_STAT (R364). -/
def rPortStat (n : Nat) : Nat := portBase n + 0x110
/-- PORT_LANE (R364). -/
def rPortLane (n : Nat) : Nat := portBase n + 0x118
/-- PORT_BER (R364). -/
def rPortBer (n : Nat) : Nat := portBase n + 0x120
/-- PORT_LANE_ERRi (R364). -/
def rPortLaneErr (n i : Nat) : Nat := portBase n + 0x128 + 8 * i
/-- PORT_LINK (R364). -/
def rPortLink (n : Nat) : Nat := portBase n + 0x150
/-- PORT_KEY (R364). -/
def rPortKey (n : Nat) : Nat := portBase n + 0x158
/-- PORT_SMP (R388). -/
def rPortSmp (n : Nat) : Nat := portBase n + 0x1100
/-- PORT_GATE (R405). -/
def rPortGate (n : Nat) : Nat := portBase n + 0x1108
/-- PORT_GATE_TIME (R405). -/
def rPortGateTime (n : Nat) : Nat := portBase n + 0x1110
/-- PORT_GATE_STAT (R405). -/
def rPortGateStat (n : Nat) : Nat := portBase n + 0x1118
/-- MOD_PNM_CTL (R301). -/
def rModPnmCtl (n : Nat) : Nat := portBase n + 0x1800
/-- MOD_PNM_STAT (R301). -/
def rModPnmStat (n : Nat) : Nat := portBase n + 0x1808
/-- MOD_PNM_BANKS (R301). -/
def rModPnmBanks (n : Nat) : Nat := portBase n + 0x1810
/-- MOD_KEY_STAT (R301). -/
def rModKeyStat (n : Nat) : Nat := portBase n + 0x1818
/-- MOD_LAST_ERR (R301). -/
def rModLastErr (n : Nat) : Nat := portBase n + 0x1820
/-- ETH_MAC (R409). -/
def rEthMac (n : Nat) : Nat := portBase n + 0x1900
/-- ETH_IPi (R409). -/
def rEthIp (n i : Nat) : Nat := portBase n + 0x1908 + 8 * i
/-- ETH_PRIO (R409). -/
def rEthPrio (n : Nat) : Nat := portBase n + 0x1918
/-- ETH_DSCPi (R409). -/
def rEthDscp (n i : Nat) : Nat := portBase n + 0x1920 + 8 * i
/-- ETH_PFC (R411). -/
def rEthPfc (n : Nat) : Nat := portBase n + 0x1940
/-- ETH_STAT (R410). -/
def rEthStat (n : Nat) : Nat := portBase n + 0x1948
/-- TILE_CTL (R203). -/
def rTileCtl (n : Nat) : Nat := 0x200100 + 0x1000 * n
/-- TILE_STAT (R203). -/
def rTileStat (n : Nat) : Nat := 0x200108 + 0x1000 * n
/-- TILE_SRAM (R203). -/
def rTileSram (n : Nat) : Nat := 0x200110 + 0x1000 * n
/-- TILE_WDOG (R203). -/
def rTileWdog (n : Nat) : Nat := 0x200118 + 0x1000 * n
/-- TILE_QUANTUM (R203). -/
def rTileQuantum (n : Nat) : Nat := 0x200120 + 0x1000 * n
/-- TILE_ACC (R203). -/
def rTileAcc (n : Nat) : Nat := 0x200128 + 0x1000 * n
/-- TILE_FAULT (R203). -/
def rTileFault (n : Nat) : Nat := 0x200130 + 0x1000 * n
/-- TILE_CTXi (R203). -/
def rTileCtx (n i : Nat) : Nat := 0x200140 + 0x1000 * n + 8 * i
/-- TILE_BINDi (R203). -/
def rTileBind (n i : Nat) : Nat := 0x2001C0 + 0x1000 * n + 8 * i

end Sys2Proof.Machine
end

