-- ==== Sys2Proof/Machine/Ops.lean ====
section
/-!
DEFINITION. The named operations over the state that the meanings share: tables, bit fields, registers and counters, arbiters,
memory, packets and completions, events and interrupts, parcels and extents.
-/
namespace Sys2Proof.Machine

/-! ### Tables keyed by number -/

/-- The entry of a key. -/
def kget {α : Type} : KMap α → Nat → Option α
  | [], _ => none
  | (k, v) :: rest, a => if k = a then some v else kget rest a

/-- The entry of a key, or the owner's default. -/
def kgetD {α : Type} (m : KMap α) (k : Nat) (d : α) : α := (kget m k).getD d

/-- Writes an entry; keys stay strictly rising. -/
def kset {α : Type} : KMap α → Nat → α → KMap α
  | [], a, v => [(a, v)]
  | (k, w) :: rest, a, v =>
    if a < k then (a, v) :: (k, w) :: rest
    else if a = k then (a, v) :: rest
    else (k, w) :: kset rest a v

/-- Removes an entry. -/
def kdel {α : Type} (m : KMap α) (a : Nat) : KMap α := m.filter (fun e => e.1 != a)

/-- Applies a function to an entry, from a default. -/
def kmod {α : Type} (m : KMap α) (k : Nat) (d : α) (f : α → α) : KMap α := kset m k (f (kgetD m k d))

/-! ### Bit fields and byte order (R5) -/

/-- Bits [hi:lo] of a number. -/
def nbits (w hi lo : Nat) : Nat := w / 2 ^ lo % 2 ^ (hi + 1 - lo)

/-- Bit i of a number. -/
def nbit (w i : Nat) : Bool := w / 2 ^ i % 2 == 1

/-- The number with bits [hi:lo] replaced by `v`. -/
def nsetBits (w hi lo v : Nat) : Nat := w - nbits w hi lo * 2 ^ lo + v % 2 ^ (hi + 1 - lo) * 2 ^ lo

/-- Little-endian value of bytes (R5). -/
def leNat : List Byte → Nat
  | [] => 0
  | b :: rest => b.toNat + 256 * leNat rest

/-- The `n` little-endian bytes of a value. -/
def leBytes : Nat → Nat → List Byte
  | 0, _ => []
  | n + 1, v => BitVec.ofNat 8 v :: leBytes n (v / 256)

/-- Bytes [lo, lo + n) of a list, zero past its end. -/
def slice (bs : List Byte) (lo n : Nat) : List Byte := (bs.drop lo ++ List.replicate n 0).take n

/-- The 64-bit word i of a byte list (R5). -/
def wordAt (bs : List Byte) (i : Nat) : Nat := leNat (slice bs (8 * i) 8)

/-- ⌈a / b⌉. -/
def ceilDiv (a b : Nat) : Nat := (a + b - 1) / b

/-- Adds an element to a list that has no repeats. -/
def insertNew (l : List Nat) (a : Nat) : List Nat := if l.contains a then l else l ++ [a]

/-! ### Registers (R520, R521) -/

/-- The reset value of a field list. -/
def fieldsReset (fs : List RegField) : Nat := fs.foldl (fun a f => a + f.reset * 2 ^ f.lo) 0

/-- The register of a list that covers a page offset. -/
def findReg (ds : List RegDef) (o : Nat) : Option RegDef :=
  ds.find? (fun d => d.off ≤ o && o < d.off + 8 * d.count && (o - d.off) % 8 == 0)

/-- PG_IRQ_ROUTE.VECTOR at reset (R528). -/
def resetVector (p : Page) : Nat :=
  match p.type with
  | 0x01 => 121 | 0x02 => 85 | 0x03 => 86 | 0x04 => 64 | 0x05 => 88
  | 0x06 => 65 + p.inst | 0x07 => 69 + p.inst | 0x08 => 89 + p.inst | 0x09 => 93 + p.inst | 0x0A => 97 + p.inst
  | 0x0B => 113 | 0x0C => 114 | 0x0D => 115 | 0x0E => 116 | 0x0F => 117 | 0x11 => 118 | 0x12 => 119 | 0x13 => 120
  | 0x14 => 87 | 0x15 => 128 + p.inst | 0x16 => 256 + p.inst | 0x17 => 384 + p.inst | 0x10 => 640 + p.inst
  | _ => 0

/-- PG_IRQ_ROUTE at reset: VECTOR, and EN on chip, region, block and chip field-book pages. -/
def resetRoute (p : Page) : Nat :=
  resetVector p + (if p.type == 0x01 || p.type == 0x04 || p.type == 0x06 || p.type == 0x07 then 2 ^ 11 else 0)

/-- The value a register holds after reset, by its configuration offset (the Reset column). -/
def regReset (c : Nat) : Nat :=
  match pageOf c with
  | none => if portBase 128 + 0x100 ≤ c && c < portBase 128 + 0x1000 then ((findReg pageRegs15 (c % 0x1000)).map (fun d => fieldsReset d.fields)).getD 0 else 0
  | some p =>
    let o := c % 0x1000
    if o == 0x030 then resetRoute p
    else if o < 0x100 then ((findReg headerRegs o).map (fun d => fieldsReset d.fields)).getD 0
    else ((findReg (pageRegs p.type) o).map (fun d => fieldsReset d.fields)).getD 0

/-- The content of the register at a configuration offset. -/
def State.reg (s : State) (c : Nat) : Nat :=
  match kget s.regs c with
  | some v => v.toNat
  | none => regReset c

/-- Writes a register. -/
def State.setReg (s : State) (c v : Nat) : State := { s with regs := kset s.regs c (BitVec.ofNat 64 v) }

/-- Field [hi:lo] of a register. -/
def State.fld (s : State) (c hi lo : Nat) : Nat := nbits (s.reg c) hi lo

/-- Writes field [hi:lo] of a register. -/
def State.setFld (s : State) (c hi lo v : Nat) : State := s.setReg c (nsetBits (s.reg c) hi lo v)

/-- Bit i of a register. -/
def State.bit (s : State) (c i : Nat) : Bool := nbit (s.reg c) i

/-- Writes bit i of a register. -/
def State.setBit (s : State) (c i : Nat) (b : Bool) : State := s.setFld c i i (if b then 1 else 0)

/-- Puts a register back to its reset value. -/
def State.resetReg (s : State) (c : Nat) : State := { s with regs := kdel s.regs c }

/-- Resets every register whose offset satisfies a test. -/
def State.resetRegs (s : State) (q : Nat → Bool) : State := { s with regs := s.regs.filter (fun e => !q e.1) }

/-- Adds events to PG_CNTk of a page, saturating; a frozen page's counters hold (R522). -/
def State.count (s : State) (page k : Nat) (n : Nat := 1) : State :=
  if s.bit (rPgCtl page) 0 then s
  else s.setReg (rPgCnt page k) (min (2 ^ 64 - 1) (s.reg (rPgCnt page k) + n))

/-! ### Pages by name -/

def pgChip : Nat := 0x0
def pgSec : Nat := 0x1000
def pgMs : Nat := 0x2000
def pgFb : Nat := 0x3000
def pgSch : Nat := 0x4000
def pgRegion (r : Nat) : Nat := 0x10000 + 0x1000 * r
def pgBlock (n : Nat) : Nat := 0x20000 + 0x1000 * n
def pgCad (n : Nat) : Nat := 0x30000 + 0x1000 * n
def pgHbm (n : Nat) : Nat := 0x40000 + 0x1000 * n
def pgFlash (n : Nat) : Nat := 0x50000 + 0x1000 * n
def pgTl : Nat := 0x60000
def pgTrv : Nat := 0x70000
def pgMtr : Nat := 0x80000
def pgGl : Nat := 0x90000
def pgStk : Nat := 0xA0000
def pgPcl (n : Nat) : Nat := 0x300000 + 0x1000 * n
def pgRoce : Nat := 0xC0000
def pgLc : Nat := 0xD0000
def pgXc : Nat := 0xE0000
def pgBist : Nat := 0xF0000
def pgPort (p : Nat) : Nat := portBase p
def pgPort2 (p : Nat) : Nat := portBase p + 0x1000
def pgTile (t : Nat) : Nat := 0x200000 + 0x1000 * t

/-- The page of field book b: 0–15 blocks, 16–19 regions, 20 chip (R468). -/
def pgBook (b : Nat) : Nat := if b < 16 then pgBlock b else if b < 20 then pgRegion (b - 16) else pgFb

/-! ### Arbiters (R19–R21) -/

def aidCell (r b unit : Nat) : Nat := r * 0x1000 + b * 0x400 + unit
/-- A block arbiter, by the chip-wide block number. -/
def aidBlock (n unit : Nat) : Nat := 0x4000 + n / 4 * 0x1000 + n % 4 * 0x400 + unit
def aidRegion (r unit : Nat) : Nat := 0x8000 + r * 0x1000 + unit
def aidChip (unit : Nat) : Nat := 0xC000 + unit

/-- The sequence number of the arbiter's last event; 0 before the first (R21). -/
def State.seq (s : State) (aid : Nat) : Nat := kgetD s.seqs aid 0

/-- The arbiter orders one more event (R21). -/
def State.tick (s : State) (aid : Nat) : State := { s with seqs := kset s.seqs aid (s.seq aid + 1) }

/-! ### Free values -/

/-- The next free value, of at most 1,024 bits. -/
def State.freeNat (s : State) (w : Nat) : Nat := (Config.freeValue s.free).toNat % 2 ^ w

/-- One free value has been taken. -/
def State.took (s : State) : State := { s with free := s.free + 1 }

/-- The `n` bytes of free values that are taken next. -/
def State.freeBytes (s : State) (n : Nat) : List Byte :=
  ((List.range (ceilDiv n 128)).flatMap (fun i => leBytes 128 (Config.freeValue (s.free + i)).toNat)).take n

/-! ### Memory (R47, R48) -/

/-- The byte at a local offset; an unlisted byte reads as zero. -/
def memGet : List Host.Cell → Nat → Byte
  | [], _ => 0
  | (k, v) :: rest, a => if k = a then v else memGet rest a

/-- Writes a byte; the list stays sorted and holds no zero byte. -/
def memSet : List Host.Cell → Nat → Byte → List Host.Cell
  | [], a, v => if v = 0 then [] else [(a, v)]
  | (k, w) :: rest, a, v =>
    if a < k then (if v = 0 then (k, w) :: rest else (a, v) :: (k, w) :: rest)
    else if a = k then (if v = 0 then rest else (a, v) :: rest)
    else (k, w) :: memSet rest a v

/-- The `n` bytes from an address. -/
def memRead (m : List Host.Cell) (a : Nat) : Nat → List Byte
  | 0 => []
  | n + 1 => memGet m a :: memRead m (a + 1) n

/-- Writes bytes from an address on. -/
def memWrite (m : List Host.Cell) (a : Nat) : List Byte → List Host.Cell
  | [] => m
  | b :: rest => memWrite (memSet m a b) (a + 1) rest

/-- Writes those bytes whose mask bit is set. -/
def memWriteMask (m : List Host.Cell) (a i mask : Nat) : List Byte → List Host.Cell
  | [] => m
  | b :: rest => memWriteMask (if nbit mask i then memSet m (a + i) b else m) a (i + 1) mask rest

/-- Zeroes addresses [lo, hi). -/
def memZero (m : List Host.Cell) (lo hi : Nat) : List Host.Cell := m.filter (fun c => c.1 < lo || hi ≤ c.1)

/-- The canonical form: addresses strictly rising from `lo`, and no zero byte. -/
def memWfFrom (lo : Nat) : List Host.Cell → Bool
  | [] => true
  | (k, v) :: rest => decide (lo ≤ k) && v != 0 && memWfFrom (k + 1) rest

/-- The canonical form of a memory. -/
def Memory.wf (m : List Host.Cell) : Bool := memWfFrom 0 m

/-- T0 ends at 512 GiB (R47). -/
def t0End : Nat := 0x0080_0000_0000
def slotBase (m : Nat) : Nat := 0x1000_0000_0000 + m * 0x0040_0000_0000
def slotSize : Nat := 0x0040_0000_0000
def aliasBase : Nat := 0x2000_0000_0000
def stakeBase : Nat := 0x3FFE_0000_0000
def cfgBase : Nat := 0x3FFF_0000_0000

/-- The parts of the local map (R47, R53). -/
inductive Place where
  | t0
  | slot (m : Nat)
  | aliased
  /-- Byte `o` of stake n's entry. -/
  | stake (n o : Nat)
  | tileDoor (t o : Nat)
  | engineDoor (e o : Nat)
  /-- View 0 plain, 1 read-with-wait, 2 consume; slot and offset. -/
  | result (view sl o : Nat)
  | config (c : Nat)
  | unmapped
  deriving DecidableEq, Repr

/-- Where a local offset lies (R47, R53). -/
def placeOf (a : Nat) : Place :=
  if a < t0End then .t0
  else if 0x1000_0000_0000 ≤ a && a < 0x2000_0000_0000 then .slot ((a - 0x1000_0000_0000) / slotSize)
  else if 0x2000_0000_0000 ≤ a && a < 0x3000_0000_0000 then .aliased
  else if stakeBase ≤ a && a < cfgBase then
    let o := a - stakeBase
    if o < 0x10_0000 then .stake (o / 64) (o % 64)
    else if 0x100_0000 ≤ o && o < 0x110_0000 then .tileDoor ((o - 0x100_0000) / 0x1000) (o % 0x1000)
    else if 0x110_0000 ≤ o && o < 0x110_4000 then .engineDoor ((o - 0x110_0000) / 0x1000) (o % 0x1000)
    else if 0x4000_0000 ≤ o then .result ((o - 0x4000_0000) / 0x4000_0000) (o % 0x4000_0000 / 0x4_0000) (o % 0x4_0000)
    else .unmapped
  else if cfgBase ≤ a && a < 0x3FFF_0100_0000 then .config (a - cfgBase)
  else .unmapped

/-! ### CRC-32C (R297) -/

/-- One bit of the reflected CRC. -/
def crcBit (c : BitVec 32) : BitVec 32 := if c.getLsbD 0 then (c >>> 1) ^^^ 0x82F63B78 else c >>> 1

/-- One byte. -/
def crcByte (c : BitVec 32) (b : Byte) : BitVec 32 :=
  crcBit (crcBit (crcBit (crcBit (crcBit (crcBit (crcBit (crcBit (c ^^^ b.zeroExtend 32))))))))

/-- CRC-32C: initial value and final XOR all ones. -/
def crc32c (bs : List Byte) : BitVec 32 := (bs.foldl crcByte 0xFFFFFFFF) ^^^ 0xFFFFFFFF

/-- The line of a local offset. -/
def lineOf (a : Nat) : Nat := a / 128

/-- Module slot m is available (R48). -/
def State.slotAvail (s : State) (m : Nat) : Bool := nbit s.mem.avail.toNat m
/-- Module slot m is lost (R48). -/
def State.slotLost (s : State) (m : Nat) : Bool := nbit s.mem.lost.toNat m

def State.setSlot (s : State) (m : Nat) (avail lost : Bool) : State :=
  { s with mem := { s.mem with
      avail := BitVec.ofNat 64 (nsetBits s.mem.avail.toNat m m (if avail then 1 else 0)),
      lost := BitVec.ofNat 64 (nsetBits s.mem.lost.toNat m m (if lost then 1 else 0)) } }

/-- An available slot becomes lost; a slot that is not available stays unavailable (R48). -/
def State.loseSlot (s : State) (m : Nat) : State := if s.slotAvail m then s.setSlot m false true else s

/-- The lost state of a slot ends: it is unavailable until it is initialised (R48). -/
def State.endLost (s : State) (m : Nat) : State := if s.slotLost m then s.setSlot m false false else s

/-- The stack that holds a T0 offset (R50). -/
def t0Stack (a : Nat) : Nat := a / 0x1000 % 4

/-- The stack of a region has failed: in training (R504) or in service (R451). -/
def State.stackFailed (s : State) (r : Nat) : Bool := s.bit (rHbmStat r) 1 || s.mem.failed.contains r

/-- A line stands in one of some ranges of lines. -/
def inSpan (l : List (Nat × Nat)) (line : Nat) : Bool := l.any (fun x => decide (x.1 ≤ line) && decide (line < x.2))

/-- The ranges without one line. -/
def cutSpans (l : List (Nat × Nat)) (line : Nat) : List (Nat × Nat) :=
  l.flatMap (fun x => if x.1 ≤ line && line < x.2 then [(x.1, line), (line + 1, x.2)].filter (fun y => decide (y.1 < y.2)) else [x])

/-- A line is marked poisoned, by itself or with a range. -/
def State.marked (s : State) (line : Nat) : Bool := s.mem.poison.contains line || inSpan s.mem.spans line

/-- Changes the memory's marks. -/
def State.onMem (s : State) (f : Mem → Mem) : State := { s with mem := { f s.mem with cells := s.mem.cells } }

/-- Marks a line poisoned. -/
def State.poisonLine (s : State) (line : Nat) : State :=
  { s with mem := { s.mem with poison := insertNew s.mem.poison line } }

/-- A line's check and ECC are computed afresh, and it is no longer computed in place; how its next write arrives is not its own (R298). -/
def State.freshLine (s : State) (line : Nat) : State :=
  { s with mem := { s.mem with inplace := s.mem.inplace.filter (· != line),
                               faults := s.mem.faults.filter (fun f => f.1 != line || f.2 == .onWrite) } }

/-- Ends the poison of a line. -/
def State.curePoison (s : State) (line : Nat) : State :=
  let s1 := s.freshLine line
  { s1 with mem := { s1.mem with poison := s1.mem.poison.filter (· != line), spans := cutSpans s1.mem.spans line } }

/-- The frame of the write-back cache that holds a local offset's page (R165). -/
def State.frameOf (s : State) (a : Nat) : Option Frame := kget s.tier.frames (a / 0x1000)

/-- Where the data of a local offset stands: in its cache frame, or in its own place (R165). -/
def State.dataAt (s : State) (a : Nat) : Nat :=
  match s.frameOf a with
  | some f => if f.filling then a else f.pool + a % 0x1000
  | none => a

def State.readByte (s : State) (a : Nat) : Byte := memGet s.mem.cells (s.dataAt a)

/-- The `n` bytes at a local offset, all in one page. -/
def State.readMem (s : State) (a n : Nat) : List Byte := memRead s.mem.cells (s.dataAt a) n

/-! ### Line checks of the modules (R297, R298, R345) -/

/-- CHECK of a line: the CRC-32C of its bytes and then of its module offset, in 8 bytes (R297). -/
def lineCheck (bs : List Byte) (off : Nat) : BitVec 32 := crc32c (bs ++ leBytes 8 off)

/-- The module offset of a line of a slot (R42). -/
def moduleOff (line : Nat) : Nat := (128 * line - 0x1000_0000_0000) % slotSize

/-- The bytes of a line in its own place. -/
def State.ownBytes (s : State) (line : Nat) : List Byte := memRead s.mem.cells (128 * line) 128

/-- The CHECK that the Hexbuf keeps beside a line (R297). -/
def State.storedCheck (s : State) (line : Nat) : BitVec 32 :=
  (s.mem.faults.findSome? (fun f => match f.2 with
    | .check c => if f.1 == line then some c else none
    | _ => none)).getD (lineCheck (s.ownBytes line) (moduleOff line))

def State.faulty (s : State) (line : Nat) (f : LineFault) : Bool := s.mem.faults.contains (line, f)

/-- The CHECK of a line does not match its bytes. -/
def State.mismatched (s : State) (line : Nat) : Bool :=
  s.mem.faults.any (fun f => f.1 == line) && s.storedCheck line != lineCheck (s.ownBytes line) (moduleOff line)

/-- A module line that its check or its ECC finds bad (R298). -/
def State.damaged (s : State) (line : Nat) : Bool := s.faulty line .uncorrectable || s.mismatched line

/-- The tail with which the Hexbuf returns a line (R345). -/
def State.lineTail (s : State) (line : Nat) : Word :=
  (BitVec.ofBool (s.mem.inplace.contains line) ++ (BitVec.ofBool (s.faulty line .uncorrectable) ++
    (BitVec.ofBool (s.marked line) ++ s.storedCheck line))).setWidth 64

/-- The Tiolo's judgement of a line that a module returned with a tail (R298 Host read). -/
def tailBad (w : Word) (bs : List Byte) (off : Nat) : Bool := w.getLsbD 32 || w.getLsbD 33 || w.setWidth 32 != lineCheck bs off

/-- The data of a local offset stands in its own place, not in a cache frame. -/
def State.ownPlace (s : State) (a : Nat) : Bool := s.dataAt a == a

/-- The line at a local offset reads as POISON (R48, R104, R298, R504). -/
def State.poisoned (s : State) (a : Nat) : Bool :=
  s.marked (lineOf a) ||
  match placeOf a with
  | .t0 => s.stackFailed (t0Stack a)
  | .slot m => s.slotLost m || (s.ownPlace a && s.damaged (lineOf a))
  | _ => false

/-- The lines that [a, a + n) touches. -/
def linesOf (a n : Nat) : List Nat :=
  (List.range ((a + max n 1 - 1) / 128 - a / 128 + 1)).map (fun i => a / 128 + i)

/-- Some line of [a, a + n) is poisoned. -/
def State.anyPoison (s : State) (a n : Nat) : Bool := (linesOf a n).any (fun l => s.poisoned (128 * l))

/-- Writes bytes in one page; a line written whole is no longer poisoned (R104), and the others are merged and checked afresh (R298). -/
def State.writeMem (s : State) (a : Nat) (bs : List Byte) : State :=
  let s1 : State := { s with mem := { s.mem with cells := memWrite s.mem.cells (s.dataAt a) bs } }
  (linesOf a bs.length).foldl (fun s l => if a ≤ 128 * l && 128 * l + 128 ≤ a + bs.length then s.curePoison l else s.freshLine l) s1

/-- Writes the bytes of one line whose mask bit is set (R344). -/
def State.writeMask (s : State) (a mask : Nat) (bs : List Byte) : State :=
  ({ s with mem := { s.mem with cells := memWriteMask s.mem.cells (s.dataAt a) 0 mask bs } } : State).freshLine (lineOf a)

/-- A store of a whole line with its poison mark (R340 POI). -/
def State.writeLine (s : State) (line : Nat) (bs : List Byte) (poi : Bool) : State :=
  let s1 := s.writeMem (128 * line) bs
  if poi then s1.poisonLine line else s1

/-- The ranges without the lines from `a` up to `b`. -/
def cutRange (l : List (Nat × Nat)) (a b : Nat) : List (Nat × Nat) :=
  l.flatMap (fun x => [(x.1, min x.2 a), (max x.1 b, x.2)].filter (fun y => decide (y.1 < y.2)))

/-- [lo, hi) is zeroed; its lines bear no mark (R300, R436, R491). -/
def State.zeroMem (s : State) (lo hi : Nat) : State :=
  let stays (l : Nat) : Bool := 128 * l + 128 ≤ lo || hi ≤ 128 * l
  { s with mem := { s.mem with cells := memZero s.mem.cells lo hi, poison := s.mem.poison.filter stays,
                               spans := cutRange s.mem.spans (lo / 128) (ceilDiv hi 128),
                               inplace := s.mem.inplace.filter stays, faults := s.mem.faults.filter (fun f => stays f.1) } }

/-! ### The grid (R37–R42) -/

def State.row (s : State) : Nat := s.fld rGridCfg 4 0
def State.col (s : State) : Nat := s.fld rGridCfg 12 8
def State.rows (s : State) : Nat := s.fld rGridCfg 20 16 + 1
def State.cols (s : State) : Nat := s.fld rGridCfg 28 24 + 1
/-- The Tiolo index, ROW × 32 + COL (R37). -/
def State.ix (s : State) : Nat := s.row * 32 + s.col
/-- A Tiolo index lies in the grid. -/
def State.inGrid (s : State) (t : Nat) : Bool := t / 32 < s.rows && t % 32 < s.cols && t < 1024

def roleDisabled : Nat := 0
def roleAccel : Nat := 1
def roleGrid : Nat := 2
def roleModule : Nat := 3
def roleEth : Nat := 4

/-- The number of the Filard Link among the links. -/
def filardLink : Nat := 128
/-- The model's own role number of the Filard Link. -/
def roleFilard : Nat := 5

def State.portRole (s : State) (p : Nat) : Nat := if p = filardLink then roleFilard else s.fld (rPortRole p) 2 0
/-- PORT_STAT.STATE: 0 DOWN, 1 LEVELLING, 2 UP, 3 SWAPPING, 4 FAILED. -/
def State.portState (s : State) (p : Nat) : Nat := s.fld (rPortStat p) 2 0
def State.portUp (s : State) (p : Nat) : Bool := s.portState p == 2 || s.portState p == 3

/-- The port has started levelling, has passed its role check and has not been disabled: it holds its role and slot (R43). -/
def State.roleHeld (s : State) (p : Nat) : Bool := s.boot.roleLocked.contains p && s.fld (rPortStat p) 15 8 != 1

/-- The port that serves a module slot (R42). -/
def State.slotPort (s : State) (m : Nat) : Option Nat :=
  (List.range 128).find? (fun p => s.portRole p == roleModule && s.fld (rPortRole p) 13 8 == m && s.roleHeld p)

/-- The home Tiolo of a GFA (R45). -/
def gfaHome (g : BitVec 56) : Nat := g.toNat / 2 ^ 46
/-- The local offset of a GFA (R45). -/
def gfaOff (g : BitVec 56) : Nat := g.toNat % 2 ^ 46

/-! ### Links, the buffer and grades -/

def State.link (s : State) (p : Nat) : Link := kgetD s.links p {}
def State.setLink (s : State) (p : Nat) (l : Link) : State := { s with links := kset s.links p l }

/-- The grade of a measured resource (R390): 0–127 outputs, 128–131 T0 stacks, 132–135 slices, 136–139 stake homes. -/
def State.grade (s : State) (k : Nat) : Nat := kgetD s.sw.grades k 0

/-- The live members of the trunk to a neighbour: UP GRID ports by axis and peer, ascending (R38, R375). -/
def State.trunk (s : State) (axis : Bool) (peer : Nat) : List Nat :=
  (List.range 128).filter (fun p => s.portRole p == roleGrid && s.portUp p && s.bit (rPortRole p) 21 == axis &&
    s.fld (rPortRole p) 20 16 == peer)

/-- The trunk's grade: the lowest grade among its live members, 7 when it has none (R390). -/
def State.trunkGrade (s : State) (ms : List Nat) : Nat := ms.foldl (fun g p => min g (s.grade p)) 7

/-- The trunks a packet to a Tiolo may take first, in the order R376 prefers them for ORD 0 (R375). -/
def State.firstTrunks (s : State) (t : Nat) : List (List Nat) :=
  let rowT := s.trunk false (t % 32)
  let colT := s.trunk true (t / 32)
  let l := if t / 32 == s.row then [rowT] else if t % 32 == s.col then [colT]
           else if s.trunkGrade colT < s.trunkGrade rowT then [colT, rowT] else [rowT, colT]
  l.filter (fun m => !m.isEmpty)

/-- The grade of the output on which a response leaves, 0 when it is delivered internally (R391). -/
def State.outGrade (s : State) (tiolo : Nat) (port : Option Nat) : Nat :=
  if tiolo == s.ix then (match port with
    | some p => s.grade p
    | none => 0)
  else match s.firstTrunks tiolo with
    | [] => 0
    | t :: _ => s.trunkGrade t

/-! ### Parcels (R428–R432) -/

def State.grant (s : State) (n i : Nat) : Nat := s.reg (rPclGrant n i)
/-- PCL_STAT.STATE of parcel n (R430). -/
def State.pclState (s : State) (n : Nat) : Nat := s.fld (rPclStat n) 2 0
def State.setPclState (s : State) (n v : Nat) : State := s.setFld (rPclStat n) 2 0 v

/-- A request that a parcel's resource refuses with REVOKED counts in PG_CNT4 of the parcel's page (R442). -/
def State.countRevoked (s : State) (st : Status) (n : Nat) : State := if st == stRevoked then s.count (pgPcl n) 4 else s

/-- Parcel n binds a job tag (R429). -/
def State.binds (s : State) (n job : Nat) : Bool :=
  (List.range 4).any (fun i => nbit (s.grant n 7) i && nbits (s.grant n 6) (16 * i + 15) (16 * i) == job)

/-- The parcel that binds a job tag (R429). -/
def State.parcelOf (s : State) (job : Nat) : Option Nat := (List.range 64).find? (fun n => s.binds n job)

/-- The parcel of a port. -/
def State.portParcel (s : State) (p : Nat) : Option Nat :=
  (List.range 64).find? (fun n => nbit (s.grant n (2 + p / 64)) (p % 64))

/-- Parcel n's composition in progress removes port p (R436 step 2). -/
def State.portLeaves (s : State) (n p : Nat) : Bool :=
  match (kgetD s.parcels n {}).compose with
  | some c => c.op != 4 && !nbit (c.words.getD (2 + p / 64) 0).toNat (p % 64)
  | none => false

/-- The parcel of a tile. -/
def State.tileParcel (s : State) (t : Nat) : Option Nat :=
  (List.range 64).find? (fun n => nbit (s.grant n 1) (t / 4))

/-- The parcel of a stake. -/
def State.stakeParcel (s : State) (k : Nat) : Option Nat :=
  (List.range 64).find? (fun n => nbit (s.grant n 4) (k / 256))

/-- The parcel of a module slot: the one that holds its port (R56). -/
def State.slotParcel (s : State) (m : Nat) : Option Nat :=
  match s.slotPort m with
  | some p => s.portParcel p
  | none => none

/-- Completions for the parcel's requests carry DEGRADED (R430, R431). -/
def State.degraded (s : State) (n : Nat) : Bool :=
  s.pclState n == 4 ||
  (s.pclState n == 3 && match (kgetD s.parcels n {}).compose with
    | some c => c.degrade || c.from' == 4
    | none => false)

/-- The DEGRADED flag of a completion for a job tag. -/
def State.degradedFlag (s : State) (job : Nat) : BitVec 3 :=
  match s.parcelOf job with
  | some n => if s.degraded n then flDegraded else 0
  | none => 0

/-! ### Packets and completions (R13, R340, R391) -/

/-- The opcodes (R77, R116, R293, R300, R346). -/
def opRDN : Nat := 0x01
def opWRN : Nat := 0x02
def opATM : Nat := 0x03
def opCOLD : Nat := 0x08
def opTRVD : Nat := 0x09
def opTRVR : Nat := 0x0A
def opRDS : Nat := 0x10
def opRDO : Nat := 0x11
def opUPG : Nat := 0x12
def opRDU : Nat := 0x13
def opWRI : Nat := 0x14
def opEVC : Nat := 0x15
def opWBK : Nat := 0x16
def opRPQ : Nat := 0x17
def opSNI : Nat := 0x20
def opSND : Nat := 0x21
def opSNF : Nat := 0x22
def opSPI : Nat := 0x23
def opCMP : Nat := 0x30
def opSAK : Nat := 0x31
def opSDA : Nat := 0x32
def opSREL : Nat := 0x40
def opSACQ : Nat := 0x41
def opSSET : Nat := 0x42
def opSREAD : Nat := 0x43
def opPUBLISH : Nat := 0x44
def opDRN : Nat := 0x45
def opPNT : Nat := 0x50
def opPNC : Nat := 0x51
def opPNA : Nat := 0x52
def opKEYP : Nat := 0x53
def opBMK : Nat := 0x60
def opLVL : Nat := 0x61
def opLSR : Nat := 0x62
def opKEX : Nat := 0x63

/-- AGENT of the companion processor (R342). -/
def agCompanion : BitVec 12 := 0x900
/-- AGENT of the traverse engine, which covers tier commands (R342). -/
def agTraverse : BitVec 12 := 0xA00
def agPlan : BitVec 12 := 0xA01
def agPnmEngine : BitVec 12 := 0xA02
def agPnmUnit (m : Nat) : BitVec 12 := BitVec.ofNat 12 (0xB00 + m)
def agRoce (p : Nat) : BitVec 12 := BitVec.ofNat 12 (0xC00 + p)
def agSlice (n : Nat) : BitVec 12 := BitVec.ofNat 12 (0xD00 + n)
def agTile (t : Nat) : BitVec 12 := BitVec.ofNat 12 (0x800 + t)

/-- Where a packet to the agent of a transaction goes: its Tiolo, and its port when it sits behind one (R340, R342). -/
def agentDst (tiolo : BitVec 10) (agent : BitVec 12) : BitVec 17 :=
  BitVec.ofNat 17 (tiolo.toNat * 128 + (if agent.toNat < 2048 then agent.toNat % 128 else 0))

/-- Bytes of a packet with its header, extensions and tail (R339, R344, R345). -/
def pktBytes (p : Packet) : Nat :=
  32 + (if p.mask.isSome then 32 else 0) + (if p.mcx.isSome then 32 else 0) + (if p.seqx.isSome then 32 else 0) + p.payload.length +
  8 * p.tail.length

/-- Flits of 64 B. -/
def pktFlits (p : Packet) : Nat := ceilDiv (pktBytes p) 64

/-- The virtual channel of a class at a level (R347). -/
def vcOf (cls level : Nat) : Nat := 3 * cls + level

/-- The SEQX words as chapter 13's example adds them (R344). -/
def seqxWord : Seqx → Nat
  | .col c g st o r => c.toNat + g.toNat * 2 ^ 12 + st.toNat * 2 ^ 16 + o.toNat * 2 ^ 32 + (if r then 2 ^ 64 else 0)
  | .trv w => w.toNat

/-- The header bytes and extensions of a packet as they stand on the link (R340, R344). -/
def pktHeader (p : Packet) : List Byte :=
  let b (x : Bool) (i : Nat) : Nat := if x then 2 ^ i else 0
  let w0 := p.opcode.toNat + p.cls.toNat * 2 ^ 8 + p.hop.toNat * 2 ^ 11 + b p.mask.isSome 13 + b p.mcx.isSome 14 + b p.seqx.isSome 15 +
    p.len % 2 ^ 13 * 2 ^ 16 + b p.poi 29 + b p.ord 31 + p.tid.toNat * 2 ^ 32 + p.job.toNat * 2 ^ 48
  let w1 := p.gfa.toNat + p.epoch.toNat * 2 ^ 56
  let w2 := p.dst.toNat + p.src.toNat * 2 ^ 17 + p.agent.toNat * 2 ^ 27 + p.flow.toNat * 2 ^ 39
  let w3 := p.status.toNat + p.flags.toNat * 2 ^ 4 + p.grant.toNat * 2 ^ 7 + b p.offer 9 + p.grade.toNat * 2 ^ 10 + b p.nmh 13 +
    p.age.toNat * 2 ^ 16
  let e1 := match p.mask with
    | some m => leBytes 32 m.toNat
    | none => []
  let e2 := match p.mcx with
    | some m => leBytes 4 m.members.toNat ++ leBytes 12 (if m.axis then 1 else 0) ++ leBytes 16 m.ports.toNat
    | none => []
  let e3 := match p.seqx with
    | some q => leBytes 32 (seqxWord q)
    | none => []
  leBytes 8 w0 ++ leBytes 8 w1 ++ leBytes 8 w2 ++ leBytes 8 w3 ++ e1 ++ e2 ++ e3

/-- A packet as its bytes: header, extensions, payload and tail, without a gap (R339). -/
def pktWire (p : Packet) : List Byte := pktHeader p ++ p.payload ++ p.tail.flatMap (fun w => leBytes 8 w.toNat)

/-- Flit i of a packet on a channel: its 64 B, the last flit padded with zeros (R339). -/
def packetFlit (p : Packet) (v i : Nat) : TxFlit :=
  let last := i + 1 == pktFlits p
  { vc := v, head := if i == 0 then some p else none, last := last, tail := if last then some p else none, data := slice (pktWire p) (64 * i) 64 }

/-- The flits of a packet on a channel (R339). -/
def packetFlits (p : Packet) (v : Nat) : List TxFlit := (List.range (pktFlits p)).map (packetFlit p v)

/-- A packet leaves for the companion processor over the Filard Link, at level 0 of its class; without a link it is dropped (R515). -/
def State.toFilard (s : State) (p : Packet) : State :=
  let l := s.link filardLink
  if s.portUp filardLink then s.setLink filardLink { l with txq := l.txq ++ packetFlits p (vcOf p.cls.toNat 0) } else s

/-- Appends a packet to those that internal units have sent (R35). -/
def State.send (s : State) (p : Packet) : State := { s with out := s.out ++ [p] }

/-- The opcode asks for data to be returned. -/
def asksData (op : Nat) : Bool := op == opRDN || op == opRDU || op == opRDS || op == opRDO

/-- Bytes of data that a request's completion carries when it fails: what it reads, a line, 8 bytes of an atomic or a publication, 16
bytes of a stake operation; of any other request, as many as are given (R13, R77, R118, R134, R224). -/
def errLen (op len given : Nat) : Nat :=
  if op == opRDS || op == opRDO then 128 else if asksData op then len
  else if op == opATM || op == opPUBLISH then 8
  else if op == opSREL || op == opSACQ || op == opSSET || op == opSREAD then 16 else given

/-- The bytes a completion carries: the given ones when OK, else the error value for each (R13). -/
def respData (op len : Nat) (st : Status) (data : List Byte) : List Byte :=
  if st == stOK then data else errorBytes (errLen op len data.length)

/-- A packet as it is heeded: a STATUS of 0xC–0xF counts as a failure, whose code is a free one of 1 to 11, and its data is invalid
(R12). -/
def State.heed (s : State) (p : Packet) : State × Packet :=
  if p.status.toNat < 12 then (s, p)
  else (s.took, { p with status := BitVec.ofNat 4 (1 + s.freeNat 8 % 11), payload := errorBytes p.payload.length })

/-- The CMP to a request: STATUS, FLAGS, GRANT, data, and the larger of the server's and the output's grade (R340, R391). -/
def State.cmpFor (s : State) (p : Packet) (st : Status) (data : List Byte) (flags : BitVec 3) (grant : BitVec 2)
    (offer : Bool) (res : Nat) : Packet :=
  let port := if p.agent.toNat < 2048 then some (p.agent.toNat % 128) else none
  { opcode := BitVec.ofNat 8 opCMP, cls := if data.isEmpty then 2 else 3, len := data.length, tid := p.tid, job := p.job,
    gfa := p.gfa, dst := agentDst p.src p.agent, src := BitVec.ofNat 10 s.ix, agent := p.agent, flow := p.flow, status := st,
    flags := flags ||| s.degradedFlag p.job.toNat, grant := grant, offer := offer,
    grade := BitVec.ofNat 3 (max (s.grade res) (s.outGrade p.src.toNat port)), payload := data }

/-- Completes a request: its data, or the error value when the status is not OK (R13). -/
def State.complete (s : State) (p : Packet) (st : Status) (data : List Byte := []) (flags : BitVec 3 := 0)
    (grant : BitVec 2 := 0) (offer : Bool := false) (res : Nat := 999) : State :=
  let c := s.cmpFor p st (respData p.opcode.toNat p.len st data) flags grant offer res
  (s.send c).count pgMtr 8 (if c.grade.toNat ≥ 5 then 1 else 0)

/-- Completes a request with the data as given, whatever the status (R118, R134). -/
def State.completeRaw (s : State) (p : Packet) (st : Status) (data : List Byte) (flags : BitVec 3 := 0) (res : Nat := 999) : State :=
  s.send (s.cmpFor p st data flags 0 false res)

/-! ### Field-book events and interrupts (R452, R468–R473, R523–R526) -/

def bookChip : Nat := 20
def bookRegion (r : Nat) : Nat := 16 + r

def clsConfig : BitVec 8 := 0x01
def clsLink : BitVec 8 := 0x02
def clsSecurity : BitVec 8 := 0x03
def clsPoison : BitVec 8 := 0x04
def clsFatal : BitVec 8 := 0x05
def clsDiscard : BitVec 8 := 0x06
def clsTimeout : BitVec 8 := 0x07
def clsTile : BitVec 8 := 0x08
def clsRecord : BitVec 8 := 0x09
def clsTwin : BitVec 8 := 0x0A
def clsAgent : BitVec 8 := 0x0B
def clsStraggler : BitVec 8 := 0x0C
def clsPower : BitVec 8 := 0x0D
def clsTier : BitVec 8 := 0x0E
def clsRoce : BitVec 8 := 0x0F
def clsWatchdog : BitVec 8 := 0x10
def clsCompanion : BitVec 8 := 0x11
def clsTraverse : BitVec 8 := 0x12

/-- A page's raise goes to the interrupt arbiter when EN is 1 (R524). -/
def State.raisePage (s : State) (page : Nat) : State :=
  if s.bit (rPgIrqRoute page) 11 then
    { s with mgmt := { s.mgmt with raises := s.mgmt.raises ++ [{ vector := s.fld (rPgIrqRoute page) 10 0, page := page / 0x1000 }] } }
  else s

/-- A cell sets a PG_ERR_SUM bit; a change from 0 to 1 of an unmasked bit raises (R523, R524). -/
def State.errSum (s : State) (page i : Nat) : State :=
  if s.bit (rPgErrSum page) i then s
  else
    let s1 := s.setBit (rPgErrSum page) i true
    if s.bit (rPgErrMask page) i then s1 else s1.raisePage page

/-- An event reaches a field book and waits for the book's arbiter (R468). -/
def State.event (s : State) (b : Nat) (r : Rec) : State :=
  { s with recov := { s.recov with books := kmod s.recov.books b {} (fun k => { k with queue := k.queue ++ [r] }) } }

/-- A unit records an event of a severity in a book, and its page latches it (R469, R470, R523). -/
def State.note (s : State) (b page : Nat) (cls : BitVec 8) (sev : BitVec 2) (aid : Nat) (data : Nat := 0) (addr : Nat := 0)
    (st : Status := 0) (parcel : Option Nat := none) : State :=
  let s1 := s.event b { cls := cls, source := BitVec.ofNat 16 aid, severity := sev, seq := s.seq aid, data := BitVec.ofNat 128 data,
                        addr := BitVec.ofNat 56 addr, status := st, parcel := parcel }
  let s2 := if sev == 1 then s1.errSum page 0 else if sev == 2 then s1.errSum page 1 else if sev == 3 then s1.errSum page 2 else s1
  if cls == clsConfig then s2.errSum page 4 else s2

/-- A unit records an event of its own: its arbiter orders the event first (R21, R469). -/
def State.record (s : State) (b page : Nat) (cls : BitVec 8) (sev : BitVec 2) (aid : Nat) (data : Nat := 0) (addr : Nat := 0)
    (st : Status := 0) (parcel : Option Nat := none) : State :=
  (s.tick aid).note b page cls sev aid data addr st parcel

/-- Parcel n enters DEGRADED if ACTIVE, or when its composition ends if COMPOSING (R431). -/
def State.degrade (s : State) (n : Nat) : State :=
  if s.pclState n == 2 then (s.setPclState n 4).count (pgPcl n) 6
  else if s.pclState n == 3 then
    { s with parcels := kmod s.parcels n {} (fun p => { p with compose := p.compose.map (fun c => { c with degrade := true }) }) }
  else s

/-- A FATAL event to a parcel (R452, R526). -/
def State.fatalEvent (s : State) (n page aid data addr : Nat) : State :=
  let s1 := (s.note bookChip page clsFatal 3 aid data addr stFatal (some n)).count pgFb 13
  let s2 : State := { s1 with mgmt := { s1.mgmt with raises := s1.mgmt.raises ++ [{ vector := n, page := 0xFFFF }] } }
  s2.degrade n

/-- 2^24 times the factor by which region 0's trim scales the switch core's nominal frequency (R28). -/
def State.coreTrim (s : State) : Nat := ((2 ^ 24 : Int) + (BitVec.ofNat 16 (s.fld rChipRef 15 0)).toInt).toNat

/-! ### Trackers (R446) -/

/-- An internal unit issues a request and tracks it (R446). -/
def State.issue (s : State) (p : Packet) (u : Purpose) : State :=
  { s with recov := { s.recov with trackers := s.recov.trackers ++ [{ req := p, purpose := u, dest := gfaHome p.gfa }] }, out := s.out ++ [p] }

/-- The tracker of a completion, by TID, agent and Tiolo. -/
def Tracker.matches' (t : Tracker) (c : Packet) : Bool := t.req.tid == c.tid && t.req.agent == c.agent

/-- The oldest tracker that a completion answers. -/
def State.trackerFor (s : State) (c : Packet) : Option Tracker := s.recov.trackers.find? (fun t => t.matches' c)

/-- Removes that tracker. -/
def State.dropTracker (s : State) (c : Packet) : State :=
  { s with recov := { s.recov with trackers := s.recov.trackers.eraseP (fun t => t.matches' c) } }

/-- A proxy's transaction waits for this completion from its home (R84). -/
def State.proxyAwaits (s : State) (c : Packet) : Bool :=
  s.cad.any (fun e => e.2.txns.any (fun t => t.atHome && t.req.tid == c.tid && t.req.agent == c.agent && t.lines.contains (c.gfa.toNat / 128)))

/-! ### Extents (R57–R62) -/

/-- The extent with a number; FREE when none was created. -/
def State.ext (s : State) (e : Nat) : Extent := kgetD s.extents e {}
def State.setExt (s : State) (e : Nat) (x : Extent) : State := { s with extents := kset s.extents e x }

def Extent.covers (x : Extent) (a : Nat) : Bool := x.state != .free && x.base ≤ a && a < x.base + 0x1000 * x.pages

/-- The VALID or REVOKING extent that covers a local offset (R60). -/
def State.extAt (s : State) (a : Nat) : Option (Nat × Extent) := s.extents.find? (fun e => e.2.covers a)

/-- What a request wants of its extent. -/
inductive Want where
  | load | store
  /-- A line for ownership, with its data (RDO). -/
  | own
  /-- A copy given back, with data (WBK) or without (EVC), by the agent that held it. -/
  | writeBack | notice
  /-- A copy that a proxy slice gives back on its own: it names no job (R95, R556). -/
  | giveUp
  deriving DecidableEq, Repr

/-- RD or WR permits what is wanted (R60). -/
def Want.permitted (w : Want) (x : Extent) : Bool :=
  match w with
  | .load => x.rd
  | .store | .own | .writeBack => x.wr
  | .notice | .giveUp => true

/-- A lost slot answers it with POISON, as a read (R48). -/
def Want.reads (w : Want) : Bool := w == .load || w == .own

/-- It is a store through the alias window, which R62 refuses. A copy given back belongs to the backing line, and is taken there. -/
def Want.stores (w : Want) : Bool := w == .store || w == .own

/-- It carries data to memory. -/
def Want.writes (w : Want) : Bool := w == .store || w == .writeBack || w == .giveUp

/-- The region a line of T0 or of a module slot is homed in (R50). -/
def State.lineRegion (s : State) (a : Nat) : Nat :=
  match placeOf a with
  | .slot m => ((s.slotPort m).getD 0) / 32
  | _ => t0Stack a

/-- Some byte of the range lies in a line whose metadata is lost (R105, R169); four successive pages cover every region. -/
def State.lostAt (s : State) (x : Extent) (a len : Nat) : Bool :=
  let last := a + max len 1 - 1
  x.fatal || x.lostLines.any (fun l => decide (a / 128 ≤ l) && decide (l ≤ last / 128)) ||
  (x.lostRegions != 0 && (List.range (min 4 (last / 0x1000 - a / 0x1000 + 1))).any (fun i => x.lostRegions.getLsbD (s.lineRegion (a + 0x1000 * i))))

/-- The check of R60 of a range in one extent for a job tag: OK, REVOKED, ACCESS_FAULT, or FATAL for lost metadata (R105, R169). -/
def State.checkExt (s : State) (x : Extent) (a len job : Nat) (w : Want) : Status :=
  if s.lostAt x a len then stFatal
  else if x.state == .revoking then stRevoked
  else if s.pclState x.owner == 5 then stRevoked
  else if x.state == .valid && (s.binds x.owner job || w == .giveUp) && w.permitted x then stOK
  else stAccessFault

/-- The resolved target of a request: its extent and the local offset of the data, an Alias window resolved (R62). -/
structure Target where
  status : Status
  ext : Nat := 0
  off : Nat := 0
  x : Extent := {}
  deriving DecidableEq, Repr

/-- The region that holds a line's data: its own, or for a window that of the visible backing extent's line (R50). -/
def State.windowRegion (s : State) (a : Nat) : Nat :=
  match s.extAt a with
  | some (_, x) => if placeOf a == .aliased then s.lineRegion ((s.ext x.visible).base + (a - x.base)) else s.lineRegion a
  | none => s.lineRegion a

/-- The check of the part of a request that lies in the page of local offset `a`: unmapped ranges, slots, extents and, through a window,
both extents (R48, R60, R62). Every condition that holds takes part, and the one of least precedence number wins (R11). -/
def State.targetPage (s : State) (a len job : Nat) (w : Want) : Target :=
  match placeOf a with
  | .t0 =>
    match s.extAt a with
    | some (e, x) =>
      let st := s.checkExt x a len job w
      { status := if st == stOK && w.writes && s.stackFailed (t0Stack a) then stAccessFault else st, ext := e, off := a, x := x }
    | none => { status := stAccessFault, off := a }
  | .slot m =>
    let gone := if s.slotAvail m then stOK else if s.slotLost m && w.reads then stPoison else stAccessFault
    match s.extAt a with
    | some (e, x) => { status := statusMin (s.checkExt x a len job w) gone, ext := e, off := a, x := x }
    | none => { status := stAccessFault, off := a }
  | .aliased =>
    match s.extAt a with
    | some (_, x) =>
      let y := s.ext x.visible
      let b := y.base + (a - x.base)
      let gone := match placeOf b with
        | .slot m => if s.slotAvail m then stOK else if s.slotLost m && w.reads then stPoison else stAccessFault
        | .t0 => if w.writes && s.stackFailed (t0Stack b) then stAccessFault else stOK
        | _ => stOK
      let st := statusMin (s.checkExt x a len job w) (statusMin (s.checkExt y b len job w) gone)
      { status := if w.stores then statusMin stAccessFault st else st, ext := x.visible, off := b, x := y }
    | none => { status := stAccessFault, off := a }
  | _ => { status := stAccessFault, off := a }

/-- Checks a request of `len` bytes at local offset `a` (R48, R49, R60, R62). One that crosses a page is UNSUPPORTED, beside what applies to
either page (R11). -/
def State.target (s : State) (a len job : Nat) (w : Want) : Target :=
  let last := a + max len 1 - 1
  if a / 0x1000 == last / 0x1000 then s.targetPage a len job w
  else
    let cut := last / 0x1000 * 0x1000
    let t := s.targetPage a (cut - a) job w
    { t with status := statusMin stUnsupported (statusMin t.status (s.targetPage cut (last + 1 - cut) job w).status) }

/-- The home region of a local offset (R50). -/
def State.homeRegion (s : State) (a : Nat) : Nat :=
  match placeOf a with
  | .t0 => t0Stack a
  | .slot _ => s.lineRegion a
  | .aliased => s.windowRegion a
  | .stake n _ => n / 4096
  | .tileDoor t _ => t / 64
  | _ => 0

/-! ### Configuration gates (R519) -/

/-- The block or region in reset that holds a page (R507, R519). -/
def State.pageInReset (s : State) (p : Page) : Bool :=
  let blk (n : Nat) := s.boot.inReset.contains n || s.boot.inReset.contains (16 + n / 4)
  match p.type with
  | 0x06 => s.boot.inReset.contains (16 + p.inst)
  | 0x07 => blk p.inst
  | 0x08 => s.boot.inReset.contains (16 + p.inst)
  | 0x09 => s.boot.inReset.contains (16 + p.inst)
  | 0x0A => s.boot.inReset.contains (16 + p.inst / 4)
  | 0x15 => blk (p.inst / 8)
  | 0x16 => blk (p.inst / 8)
  | 0x17 => blk (p.inst / 16)
  | _ => false

/-- A configuration write to a page at offset `c` takes effect: the page exists, is not in reset, and no clearance shuts it out. -/
def State.cfgOpen (s : State) (c : Nat) : Bool :=
  match pageOf c with
  | none => false
  | some p => !s.pageInReset p && (!s.bit rSecStat 4 || p.type == 0x02 || p.type == 0x03 || p.type == 0x04)

/-- The AID of the configuration arbiter of a page (R518, R522). -/
def cfgAid (p : Page) : Nat :=
  match p.type with
  | 0x06 => aidRegion p.inst 0x3E0
  | 0x08 => aidRegion p.inst 0x3E0
  | 0x09 => aidRegion p.inst 0x3E0
  | 0x0A => aidRegion (p.inst / 4) 0x3E0
  | 0x07 => aidBlock p.inst 0x3E0
  | 0x15 => aidBlock (p.inst / 8) 0x3E0
  | 0x16 => aidBlock (p.inst / 8) 0x3E0
  | 0x17 => aidBlock (p.inst / 16) 0x3E0
  | _ => aidChip 0x3E0

/-- The configuration arbiter of a page orders one access (R518). -/
def State.cfgTick (s : State) (c : Nat) : State :=
  match pageOf c with
  | none => s
  | some p => s.tick (cfgAid p)

/-- A write command at configuration offset `c`: ordered, then applied when the page takes writes (R518, R519). -/
def State.cfgDo (s : State) (c : Nat) (f : State → State) : State :=
  if s.cfgOpen c then f (s.cfgTick c) else s

/-- Takes one injection of an armed PG_PERTURB INJECT; KIND returns to OFF when COUNT reaches 0 (R530). -/
def State.takeInject (s : State) (page err : Nat) : Option State :=
  let c := rPgPerturb page
  if s.fld c 2 0 == 4 && s.fld c 11 8 == err && s.fld c 62 48 > 0 then
    let s1 := s.setFld c 62 48 (s.fld c 62 48 - 1)
    some (if s.fld c 62 48 == 1 then s1.setFld c 2 0 0 else s1)
  else none

/-- A command that management firmware serves: while a core's firmware restarts it stays BUSY, and runs after the restart (R466). -/
def State.onFirmware (s : State) (i : FwCmd) (f : State → State) : State :=
  if s.recov.restarting.isEmpty then f s
  else { s with recov := { s.recov with waiting := s.recov.waiting ++ [i] } }

/-- Guarded update: a command whose precondition does not hold changes nothing. -/
def State.onlyIf (s : State) (b : Bool) (f : State → State) : State := if b then f s else s

end Sys2Proof.Machine
end

