-- ==== Sys2Proof/Machine/Stakes.lean ====
section
/-!
DEFINITION. The stake homes (chapter 4): SREL, SACQ, SSET, SREAD, waiting, expiry, probes, errors in stake state (R453).
-/
namespace Sys2Proof.Machine

def aidStake (r : Nat) : Nat := aidRegion r 0x140

def State.stake (s : State) (n : Nat) : Stake := kgetD s.stk.stakes n {}
def State.setStake (s : State) (n : Nat) (k : Stake) : State := { s with stk := { s.stk with stakes := kset s.stk.stakes n k } }

/-- OPERAND, SCOPE and WAIT of a stake request's payload (R117). -/
def stakeOperand (p : Packet) : Word := BitVec.ofNat 64 (wordAt p.payload 0)
def stakeScope (p : Packet) : BitVec 2 := BitVec.ofNat 2 (nbits (wordAt p.payload 1) 1 0)
def stakeWait (p : Packet) : Nat := nbits (wordAt p.payload 1) 31 16

/-- The stake a request names, with the byte of its entry. -/
def stakeOf (p : Packet) : Option (Nat × Nat) :=
  match placeOf (gfaOff p.gfa) with
  | .stake n o => some (n, o)
  | _ => none

def reqAgent (p : Packet) : AgentId := { tiolo := p.src, agent := p.agent }

/-- The parcel of the request's job tag holds the stake's group (R54). -/
def State.stakeAccess (s : State) (n job : Nat) : Status :=
  match s.stakeParcel n with
  | some q => if s.binds q job then (if s.pclState q == 5 then stRevoked else stOK) else stAccessFault
  | none => stAccessFault

/-- The 16 B of a stake completion: VALUE and the event's sequence number (R118). -/
def stakeData (v : Word) (seq : Nat) : List Byte := leBytes 8 v.toNat ++ leBytes 8 seq

/-- A stake operation completes with a status; the 16 B are the error value unless it is OK or TIMEOUT (R118). -/
def State.stakeCmp (s : State) (p : Packet) (r : Nat) (st : Status) (v : Word) (seq : Nat) (fl : BitVec 3 := 0) : State :=
  let d := if st == stOK || st == stTimeout then stakeData v seq else errorBytes 16
  let s1 := match (stakeOf p).bind (fun x => s.stakeParcel x.1) with
    | some q => s.countRevoked st q
    | none => s
  (s1.completeRaw p st d fl (136 + r)).count pgStk 5 (if (fl &&& flScopeShort) == flScopeShort then 1 else 0)

/-- The flags of an acquire that stake `k` satisfies (R126). -/
def acqFlags (k : Stake) (scope : BitVec 2) (a : AgentId) : BitVec 3 :=
  if scopeShort k.lscope { tiolo := k.ltiolo, agent := k.lagent } scope a then flScopeShort else 0

/-- A parked SACQ that a change of value satisfies (R121). -/
def wakeOf (k : Stake) (v : Word) (seq : Nat) (q : Parked) : Woken :=
  { parked := q, value := v, seq := seq, flags := acqFlags k q.scope (reqAgent q.req) }

/-- The parked SACQs on a stake whose target is met move to the completion slots, in parked order (R121). -/
def State.wake (s : State) (n : Nat) (v : Word) (seq : Nat) : State :=
  let met (q : Parked) : Bool := q.stake == n && decide (q.target ≤ v)
  { s with stk := { s.stk with parked := s.stk.parked.filter (fun q => !met q),
                               woken := s.stk.woken ++ (s.stk.parked.filter met).map (wakeOf (s.stake n) v seq) } }

/-- A release of a stake: VALUE becomes `v`, the releaser, its scope and the sequence number are recorded, waiters are checked. -/
def State.stakeRelease (s : State) (n : Nat) (v : Word) (scope : BitVec 2) (a : AgentId) : State :=
  let r := n / 4096
  let s1 := s.tick (aidStake r)
  let seq := s1.seq (aidStake r)
  let k := s1.stake n
  (s1.setStake n { k with value := v, lscope := scope, ltiolo := a.tiolo, lagent := a.agent, lseq := seq }).wake n v seq

/-- An SREL by an internal unit on this Tiolo's own stake (R116); on a lost stake or with SCOPE 0b11 it is ordered and has no effect (R117,
R453). -/
def State.srelLocal (s : State) (n : Nat) (inc : Word) (scope : BitVec 2) (agent : BitVec 12) : State :=
  if (s.stake n).lost || scope == 3 then s.tick (aidStake (n / 4096))
  else (s.stakeRelease n ((s.stake n).value + inc) scope { tiolo := BitVec.ofNat 10 s.ix, agent := agent }).count pgStk 0

/-- A release-set: VALUE is written and a HALL-scope release recorded (R134). -/
def State.releaseSet (s : State) (n : Nat) (v : Word) (a : AgentId) : State := s.stakeRelease n v 2 a

/-- A local offset lies in an unmapped range or in a module slot that is not available (R48). -/
def State.offMap (s : State) (a : Nat) : Bool :=
  match placeOf a with
  | .unmapped => true
  | .slot m => !s.slotAvail m
  | _ => false

/-- The status of a stake opcode whose address lies in no stake entry (R48, R117). -/
def State.strayStake (s : State) (p : Packet) : Status := if s.offMap (gfaOff p.gfa) then stAccessFault else stUnsupported

/-- The check of a stake opcode: its address, its scope and the grants (R54, R117). -/
def State.stakeCheck (s : State) (p : Packet) (withScope : Bool) : Status :=
  match stakeOf p with
  | none => s.strayStake p
  | some (n, o) => statusOf [(o != 0, stUnsupported), (withScope && stakeScope p == 3, stUnsupported),
      (s.stakeAccess n p.job.toNat != stOK, s.stakeAccess n p.job.toNat), ((s.stake n).lost, stFatal)]

/-- STAKE_SREL: adds OPERAND, records the release, checks the waiters, completes with VALUE after the add (R116). As for the other stake
opcodes, only an operation that passes its checks counts in R146 (DESIGN CHOICE, log 178). -/
def State.stakeSrel (s : State) (p : Packet) : State :=
  match stakeOf p with
  | none => s.stakeCmp p 0 (s.strayStake p) 0 0
  | some (n, _) =>
    let st := s.stakeCheck p true
    if st == stOK then
      let v := (s.stake n).value + stakeOperand p
      let s1 := s.stakeRelease n v (stakeScope p) (reqAgent p)
      (s1.count pgStk 0).stakeCmp p (n / 4096) stOK v (s1.seq (aidStake (n / 4096)))
    else (s.tick (aidStake (n / 4096))).stakeCmp p (n / 4096) st 0 0

def execStakeSrel (p : Packet) (s : State) : Host.Outcome State Fault Refusal := .next (s.stakeSrel p)

/-- Parked SACQs that occupy a region's table, or a parcel's share of it; a satisfied one keeps its entry until it completes, and no longer
shows as parked in STK_STAT and STK_PROBE3 (R120; DESIGN CHOICE, log 179). -/
def State.parkedIn (s : State) (r : Nat) : List Parked :=
  (s.stk.parked ++ s.stk.woken.map Woken.parked).filter (fun q => q.stake / 4096 == r)

/-- The parking limit of a parcel in each region (R120). -/
def State.parkLimit (s : State) (n : Nat) : Nat := 32 * s.fld (rStkWaitLimit (n / 8)) (8 * (n % 8) + 7) (8 * (n % 8))

/-- No entry is free for a SACQ of a parcel on stake n (R120). -/
def State.parkFull (s : State) (n q : Nat) : Bool :=
  (s.parkedIn (n / 4096)).length ≥ 8192 ||
  ((s.parkedIn (n / 4096)).filter (fun k => s.stakeParcel k.stake == some q)).length ≥ s.parkLimit q

/-- STAKE_SACQ: completes at once when VALUE meets the target, and otherwise parks, or is refused (R116, R118–R120, R126). -/
def State.stakeSacq (s : State) (p : Packet) : State :=
  match stakeOf p with
  | none => s.stakeCmp p 0 (s.strayStake p) 0 0
  | some (n, _) =>
    let r := n / 4096
    let st := s.stakeCheck p true
    let s1 := s.tick (aidStake r)
    let seq := s1.seq (aidStake r)
    if st != stOK then s1.stakeCmp p r st 0 0
    else
      let s2 := s1.count pgStk 1
      let k := s2.stake n
      if stakeOperand p ≤ k.value then
        (s2.count pgStk 2).stakeCmp p r stOK k.value seq
          (acqFlags k (stakeScope p) (reqAgent p))
      else if s2.parkFull n ((s2.stakeParcel n).getD 0) then (s2.count pgStk 6).stakeCmp p r stRetry 0 0
      else if stakeWait p == 0 then (s2.count pgStk 4).stakeCmp p r stTimeout k.value seq
      else ({ s2 with stk := { s2.stk with parked := s2.stk.parked ++
              [{ stake := n, target := stakeOperand p, scope := stakeScope p, req := p }] } } : State).count pgStk 3

def execStakeSacq (p : Packet) (s : State) : Host.Outcome State Fault Refusal := .next (s.stakeSacq p)

/-- Sets a stake: VALUE is written, no release is recorded any more, a lost state is restored, waiters are checked (R116, R453). -/
def State.stakeSet (s : State) (n : Nat) (v : Word) : State :=
  let s1 := (s.tick (aidStake (n / 4096))).count pgStk 7
  (s1.setStake n { s1.stake n with value := v, lscope := 3, lost := false }).wake n v (s1.seq (aidStake (n / 4096)))

/-- The status of a plain load or store of a stake entry: of bytes [7:0] whole, or of bytes [63:8] only (R53, R117). -/
def plainStake (o len : Nat) : Status :=
  if (o == 0 && len == 8) || (8 ≤ o && o + max len 1 ≤ 64) then stOK else stUnsupported

/-- A masked store of a line from byte `o` of an entry on writes bytes [63:8] of entries only (R53, R117, R344). -/
def maskedStake (o : Nat) (mask : BitVec 128) : Bool := (List.range 128).all (fun i => !nbit mask.toNat i || decide (8 ≤ (o + i) % 64))

/-- The status of a plain store of a stake entry; a masked one writes no VALUE (R53, R117). -/
def plainStakeStore (o : Nat) (p : Packet) : Status :=
  match p.mask with
  | none => plainStake o p.len
  | some m => if maskedStake o m then stOK else stUnsupported

/-- A plain access of a stake entry completes with a status and, when that is OK, with data (R53, R442). -/
def State.stakePlain (s : State) (p : Packet) (n : Nat) (st : Status) (d : List Byte := []) : State :=
  let s1 := match s.stakeParcel n with
    | some q => s.countRevoked st q
    | none => s
  s1.complete p st d 0 0 false (136 + n / 4096)

/-- STAKE_SSET: writes VALUE; a plain aligned 8 B store does the same, and a store to bytes [63:8] is ignored (R53, R116). -/
def State.stakeSset (s : State) (p : Packet) : State :=
  match stakeOf p with
  | none => s.stakeCmp p 0 (s.strayStake p) 0 0
  | some (n, o) =>
    let acc := s.stakeAccess n p.job.toNat
    let r := n / 4096
    if p.opcode.toNat == opSSET then
      let st := statusOf [(o != 0, stUnsupported), (acc != stOK, acc)]
      if st == stOK then
        let s1 := s.stakeSet n (stakeOperand p)
        s1.stakeCmp p r stOK (stakeOperand p) (s1.seq (aidStake r))
      else (s.tick (aidStake r)).stakeCmp p r st 0 0
    else
      let st := statusOf [(plainStakeStore o p != stOK, stUnsupported), (p.opcode.toNat != opWRN, stUnsupported), (acc != stOK, acc)]
      if st == stOK && o == 0 && p.mask.isNone then (s.stakeSet n (BitVec.ofNat 64 (wordAt p.payload 0))).stakePlain p n stOK
      else (s.tick (aidStake r)).stakePlain p n st

def execStakeSset (p : Packet) (s : State) : Host.Outcome State Fault Refusal := .next (s.stakeSset p)

/-- STAKE_SREAD: returns VALUE; a plain aligned 8 B load does the same, and a load of bytes [63:8] reads zero (R53, R116). -/
def State.stakeSread (s : State) (p : Packet) : State :=
  match stakeOf p with
  | none => s.stakeCmp p 0 (s.strayStake p) 0 0
  | some (n, o) =>
    let acc := s.stakeAccess n p.job.toNat
    let r := n / 4096
    let s1 := s.tick (aidStake r)
    if p.opcode.toNat == opSREAD then
      let st := statusOf [(o != 0, stUnsupported), (acc != stOK, acc), ((s.stake n).lost, stFatal)]
      (s1.count pgStk 8 (if st == stOK then 1 else 0)).stakeCmp p r st (s.stake n).value (s1.seq (aidStake r))
    else
      let st := statusOf [(plainStake o p.len != stOK, stUnsupported), (p.opcode.toNat != opRDN, stUnsupported), (acc != stOK, acc),
                          ((s.stake n).lost && o == 0, stFatal)]
      let d := if o == 0 then leBytes 8 (s.stake n).value.toNat else List.replicate p.len 0
      (s1.count pgStk 8 (if st == stOK && o == 0 then 1 else 0)).stakePlain p n st d

def execStakeSread (p : Packet) (s : State) : Host.Outcome State Fault Refusal := .next (s.stakeSread p)

/-- SACQ_WAKE: the oldest satisfied SACQ of a region completes, with the VALUE and sequence number of its change (R118, R121). -/
def State.sacqWake (s : State) (r : Nat) : State :=
  match s.stk.woken.find? (fun w => w.parked.stake / 4096 == r) with
  | none => s
  | some w =>
    let s1 : State := { s with stk := { s.stk with woken := s.stk.woken.erase w } }
    s1.stakeCmp w.parked.req r stOK w.value w.seq w.flags

def execSacqWake (r : SliceIx) (s : State) : Host.Outcome State Fault Refusal := .next (s.sacqWake r)

/-- SACQ_EXPIRY: the k-th parked SACQ's bound expires; it completes with TIMEOUT and the current VALUE (R119). -/
def State.sacqExpiry (s : State) (k : Nat) : State :=
  match s.stk.parked[k]? with
  | none => s
  | some q =>
    let r := q.stake / 4096
    let s1 : State := ({ s with stk := { s.stk with parked := s.stk.parked.eraseIdx k } } : State).tick (aidStake r)
    (s1.count pgStk 4).stakeCmp q.req r stTimeout (s1.stake q.stake).value (s1.seq (aidStake r))

def execSacqExpiry (k : Nat) (s : State) : Host.Outcome State Fault Refusal := .next (s.sacqExpiry k)

/-- STK_PROBE: a write of GO to STK_PROBE_CTL copies one stake's state to STK_PROBE0–3, in the stake home arbiter's order (R115). -/
def State.stkProbe (s : State) (v : Word) : State :=
  s.cfgDo rStkProbeCtl (fun s =>
    let n := nbits v.toNat 13 0
    let s1 := s.setFld rStkProbeCtl 13 0 n
    if nbit v.toNat 63 then
      let s2 := s1.tick (aidStake (n / 4096))
      let k := s2.stake n
      ((((s2.setReg rStkProbe0 k.value.toNat).setReg rStkProbe1 (k.lscope.toNat + 4 * k.ltiolo.toNat + 4096 * k.lagent.toNat)).setReg
        rStkProbe2 k.lseq).setReg rStkProbe3 (s2.stk.parked.filter (fun q => q.stake == n)).length).setBit rStkProbeCtl 62 true
    else s1)

def execStkProbe (v : Word) (s : State) : Host.Outcome State Fault Refusal := .next (s.stkProbe v)

/-- The parked SACQs that satisfy a test leave without completion (R122). -/
def State.dropParked (s : State) (q : Packet → Bool) : State :=
  { s with stk := { s.stk with parked := s.stk.parked.filter (fun k => !q k.req), woken := s.stk.woken.filter (fun k => !q k.parked.req) } }

/-- Every parked SACQ on stakes that satisfy a test completes with a status (R436 step 2, R453). -/
def State.failParked (s : State) (q : Nat → Bool) (st : Status) : State :=
  let l := (s.stk.parked ++ s.stk.woken.map Woken.parked).filter (fun k => q k.stake)
  let s1 : State := { s with stk := { s.stk with parked := s.stk.parked.filter (fun k => !q k.stake),
                                                 woken := s.stk.woken.filter (fun k => !q k.parked.stake) } }
  l.foldl (fun s k => s.stakeCmp k.req (k.stake / 4096) st 0 0) s1

/-- Stakes that satisfy a test take their reset state (R114). -/
def State.resetStakes (s : State) (q : Nat → Bool) : State :=
  { s with stk := { s.stk with stakes := s.stk.stakes.filter (fun e => !q e.1) } }

/-- STAKE_ECC_ERROR: the parcel of the stake receives a FATAL event, parked SACQs complete with FATAL, and so does every later
operation until an SSET (R453). -/
def State.stakeEccError (s : State) (n : Nat) : State :=
  let a := aidStake (n / 4096)
  let s1 := s.tick a
  let s2 := (s1.setStake n { s1.stake n with lost := true }).failParked (· == n) stFatal
  match s2.stakeParcel n with
  | some q => s2.fatalEvent q pgStk a n (stakeBase + 64 * n)
  | none => s2

def execStakeEccError (k : StakeIx) (s : State) : Host.Outcome State Fault Refusal := .next (s.stakeEccError k)

end Sys2Proof.Machine
end

