-- ==== Sys2Proof/Machine/HomeMem.lean ====
section
/-!
DEFINITION. Home memory below the cadastre: the reserved top of T0 (R148), tier write enable (R150), the write-back cache's frames and
quotas (R153, R165–R167), the ranges of active PNM commands (R295), the effect of memory atomics (R224, R346).
-/
namespace Sys2Proof.Machine

/-! ### The reserved top of T0 (R148, R149) -/

/-- The backing size in GiB per slice: that of the slices enabled, else 0 (R93). -/
def State.backingGib (s : State) : Nat :=
  match (List.range 4).find? (fun n => s.bit (rCadCtl n) 0) with
  | some n => s.fld (rCadCtl n) 11 8
  | none => 0
def State.poolGib (s : State) : Nat := if s.bit (rCadCtl 0) 0 then s.fld (rCadReplPool 0) 4 0 else 0
def State.tlGib (s : State) : Nat := if s.bit rTlCtl 0 then 3 else 0
def State.tcGib (s : State) : Nat := if s.bit rTcPool 0 then s.fld rTcPool 14 8 else 0

/-- The first GiB of the reserved top. -/
def State.reservedTop (s : State) : Nat := 512 - 4 * s.backingGib - s.poolGib - s.tlGib - s.tcGib

/-- Local offset of the replica pool, and of the tier cache pool. -/
def State.replBase (s : State) : Nat := (512 - 4 * s.backingGib - s.poolGib) * 2 ^ 30
def State.tcBase (s : State) : Nat := s.reservedTop * 2 ^ 30

/-- The DATUM_GIB and T0_GIB of a grant's word 0 end above a GiB. -/
def t0Above (w gib : Nat) : Bool := decide (nbits w 24 16 > 0) && decide (nbits w 8 0 + nbits w 24 16 > gib)

/-- Some parcel that is not FREE has T0 at or above a GiB, or an accepted BOOT or COMPOSE has marked such T0 for one (R149, R433). -/
def State.grantsAbove (s : State) (gib : Nat) : Bool :=
  (List.range 64).any (fun n => (s.pclState n != 0 && t0Above (s.grant n 0) gib) ||
    (match (kgetD s.parcels n {}).compose with
      | some c => c.op != 4 && t0Above (c.words.getD 0 0).toNat gib
      | none => false))

/-- The composition arbiter (R433). -/
def aidCompose : Nat := aidChip 0x0B0

/-- An enable that R149 or R504 refuses: a CONFIG record names the register (R149). -/
def State.refuseEnable (s : State) (c : Nat) : State := s.note bookChip pgChip clsConfig 2 aidCompose c

/-- Every stack is trained and serving (R504). -/
def State.stacksOk (s : State) : Bool := (List.range 4).all (fun r => !s.stackFailed r)

/-- No stack has failed its training (R504). -/
def State.stacksTrained (s : State) : Bool := (List.range 4).all (fun r => !s.bit (rHbmStat r) 1)

/-! ### Tier write enable (R150) -/

def State.t1We (s : State) : Bool := s.bit rTierWe 0
def State.t2We (s : State) : Bool := s.bit rTierWe 1

/-- A write to a module slot while T1 is read-only (R150). -/
def State.readOnly (s : State) (a : Nat) : Bool :=
  match placeOf a with
  | .slot _ => !s.t1We
  | _ => false

/-! ### The write-back cache (R153, R165–R167) -/

def State.setFrame (s : State) (k : Nat) (f : Frame) : State :=
  { s with tier := { s.tier with frames := kset s.tier.frames k f } }
def State.dropFrame (s : State) (k : Nat) : State := { s with tier := { s.tier with frames := kdel s.tier.frames k } }

/-- The home arbiter of a slice (R64). -/
def aidCad (n : Nat) : Nat := aidRegion n 0x100

/-- Counts an event on the second page of the port that serves a slot (R302). -/
def State.slotCount (s : State) (m k : Nat) (n : Nat := 1) : State :=
  match s.slotPort m with
  | some p => s.count (pgPort2 p) k n
  | none => s

/-- The CHECK of a module line does not match, on a write or a read: counted, kept in MOD_LAST_ERR, and recorded with the line, its INPLACE
bit and the owning parcel (R298, R302). -/
def State.checkFailed (s : State) (line : Nat) (write : Bool) : State :=
  let n := s.homeRegion (128 * line)
  let i := if s.mem.inplace.contains line then 1 else 0
  let w := if write then 1 else 0
  let m := (128 * line - 0x1000_0000_0000) / slotSize
  let s1 := match s.slotPort m with
    | some p => (s.count (pgPort2 p) (8 + w)).setReg (rModLastErr p) (moduleOff line + i * 2 ^ 38 + w * 2 ^ 39)
    | none => s
  s1.record (bookRegion n) (pgCad n) clsPoison 2 (aidCad n) (i + 2 * w + 2 ^ 64) (s.ix * 2 ^ 46 + 128 * line) stPoison
    ((s.extAt (128 * line)).map (fun e => e.2.owner))

/-- A line is read from its module: ECC corrects it or cannot, and its CHECK is compared (R298 Host read). -/
def State.verifyLine (s : State) (line : Nat) : State :=
  match placeOf (128 * line) with
  | .slot m =>
    if !s.mem.faults.any (fun f => f.1 == line) || !s.ownPlace (128 * line) then s
    else
      let s1 := if s.faulty line .correctable then s.slotCount m 10 else s
      let s2 := if s.faulty line .uncorrectable then s1.slotCount m 11 else s1
      if s.mismatched line then s2.checkFailed line false else s2
  | _ => s

/-- The lines of [a, a + len) are read. -/
def State.verify (s : State) (a len : Nat) : State := (linesOf a len).foldl State.verifyLine s

/-- The next whole-line write of a module line will arrive with a CHECK that does not match. -/
def State.miswrites (s : State) (line : Nat) : Bool :=
  s.faulty line .onWrite && (match placeOf (128 * line) with
    | .slot _ => s.ownPlace (128 * line)
    | _ => false)

/-- A whole line has been written to its module: on a mismatch it stands there poisoned (R298 Full-line host write). -/
def State.lineWritten (s : State) (line : Nat) : State :=
  if s.miswrites line then
    (s.checkFailed line true).poisonLine line |>.onMem (fun m => { m with faults := m.faults.filter (· != (line, .onWrite)) })
  else s

/-- The home region of a cached page, by its local page number (R50, R165). -/
def State.frameRegion (s : State) (k : Nat) : Nat := s.homeRegion (0x1000 * k)

def State.quota (s : State) (n : Nat) : Quota := kgetD s.tier.quotas n {}

/-- A parcel's frames in a region. -/
def State.framesIn (s : State) (n r : Nat) : KMap Frame :=
  s.tier.frames.filter (fun e => e.2.parcel == n && s.frameRegion e.1 == r)

/-- A parcel's dirty frames, Tiolo-wide (R153 T1). -/
def State.dirtyFrames (s : State) (n : Nat) : KMap Frame := s.tier.frames.filter (fun e => e.2.parcel == n && e.2.dirty)

/-- A store reaches a frame at a time of the cache's order: it is dirty, since then if it was clean; a write-back in progress has not
written it (R166). -/
def Frame.stored (f : Frame) (now : Nat) : Frame :=
  { f with dirty := true, restored := f.restored || f.cleaning, since := if f.dirty && (f.restored || !f.cleaning) then f.since else now }

/-- The cache's order goes on by one use. -/
def State.cacheTick (s : State) : State := { s with tier := { s.tier with clock := s.tier.clock + 1 } }

/-- The lowest free pool page of a region (R165). -/
def State.freePool (s : State) (r : Nat) : Nat :=
  let used := s.tier.frames.map (fun e => e.2.pool)
  let cand (i : Nat) : Nat := s.tcBase + 0x1000 * (4 * i + r)
  cand (((List.range (used.length + 1)).find? (fun i => !used.contains (cand i))).getD 0)

/-- Starts the write-back of a dirty frame: the page is read now and written to the module (R166). -/
def State.startWriteBack (s : State) (k : Nat) : State :=
  match kget s.tier.frames k with
  | none => s
  | some f =>
    if f.dirty && !f.cleaning && s.t1We then
      let bytes := memRead s.mem.cells f.pool 0x1000
      let s1 : State := { s with mem := { s.mem with cells := memWrite s.mem.cells (0x1000 * k) bytes } }
      let gone := s1.dropFrame k
      let s2 := (linesOf (0x1000 * k) 0x1000).foldl (fun (s : State) l => (s.freshLine l).lineWritten l) gone
      s2.setFrame k { f with cleaning := true, restored := false }
    else s

/-- The least recently used frame of a list that may be evicted (R167). -/
def State.victim (s : State) (l : KMap Frame) : Option (Nat × Frame) :=
  (l.filter (fun e => !e.2.pin && !e.2.filling && !e.2.evict && (!e.2.dirty || s.t1We))).foldl
    (fun b e => match b with
      | none => some e
      | some x => if e.2.used < x.2.used then some e else b) none

/-- A frame of a list that is in motion and may be evicted after it: the request for a frame waits for it (R153, R167). -/
def State.busyFrame (s : State) (l : KMap Frame) : Option (Nat × Frame) :=
  l.find? (fun e => !e.2.pin && (e.2.filling || e.2.evict) && (!e.2.dirty || s.t1We))

/-- What a request finds at the cache (R166, R167). -/
inductive CacheAnswer where
  /-- Served: the page's frame is there, or the extent is not cached. -/
  | hit (s : State)
  /-- The request waits for a fill or an eviction. -/
  | waits (s : State)
  /-- No frame can be had: QUOTA (R153). -/
  | quota (s : State)
  deriving DecidableEq, Repr

/-- A frame for a page: allocated filling (or whole, for a store of the whole page), or after an eviction (R166, R167). What asks for it
waits as `w`. -/
def State.allocFrame (s0 : State) (a n : Nat) (whole : Bool) (w : List (Nat × Packet)) : CacheAnswer :=
  let s := s0.cacheTick
  let k := a / 0x1000
  let r := s.frameRegion k
  let fs := s.framesIn n r
  let have' (s : State) (pool : Nat) : CacheAnswer :=
    let f : Frame := { parcel := n, pool := pool, filling := !whole, used := s.tier.clock, waiters := if whole then [] else w }
    let s1 := (s.setFrame k f).count pgTl 11
    if whole then .hit s1 else .waits s1
  if fs.length < 256 * (s.quota n).t0 then have' s (s.freePool r)
  else match s.victim fs with
    | none => (match s.busyFrame fs with
      | some (v, g) => .waits (s.setFrame v { g with waiters := g.waiters ++ w })
      | none => .quota (s.count pgTl 14))
    | some (v, f) =>
      if f.dirty then
        let s1 := s.startWriteBack v
        .waits (match kget s1.tier.frames v with
          | some g => s1.setFrame v { g with evict := true, waiters := g.waiters ++ w }
          | none => s1)
      else have' (s.dropFrame v) f.pool

/-- How a request comes to be served. -/
inductive Serve where
  /-- It has just been ordered and checked. -/
  | fresh
  /-- It leaves the conflict queue (R65). -/
  | turn
  /-- The frame that it waited for is there, or gone (R166, R167). -/
  | filled
  /-- It leaves the hold under the T1 quota (R153). -/
  | retried
  deriving DecidableEq, Repr

/-- The cache answers for an extent's page: WB is set, the cache is enabled, and the slot is there. -/
def State.cached (s : State) (x : Extent) (a : Nat) : Bool :=
  x.wb && s.bit rTcPool 0 && (match placeOf a with
    | .slot m => s.slotAvail m
    | _ => false)

/-- A request at the cache of a WB extent; the misses of the traverse engine read the module and allocate nothing (R166, R168). -/
def State.cacheLookup (s : State) (x : Extent) (a len : Nat) (store : Bool) (p : Packet) (how : Serve) : CacheAnswer :=
  let new := how == .fresh || how == .retried
  if !s.cached x a then .hit s
  else
    let k := a / 0x1000
    match kget s.tier.frames k with
    | some f =>
      if f.filling || f.evict then .waits (s.setFrame k { f with waiters := f.waiters ++ [(a, p)] })
      else
        let s1 := s.cacheTick
        let g := { f with used := s1.tier.clock }
        .hit ((s1.setFrame k (if store then g.stored s1.tier.clock else g)).count pgTl 10 (if new then 1 else 0))
    | none =>
      if p.agent == agTraverse then .hit (s.count pgTl 11 (if new then 1 else 0))
      else match s.allocFrame a x.owner (store && len == 0x1000) [(a, p)] with
        | .hit s1 => (match kget s1.tier.frames k with
            | some f => .hit (s1.setFrame k (if store then f.stored s1.tier.clock else f))
            | none => .hit s1)
        | c => c

/-- A store would dirty a page while the parcel's dirty frames are at its T1 quota; a miss of the traverse engine dirties none
(R153, R168). -/
def State.t1Full (s : State) (x : Extent) (a : Nat) (agent : BitVec 12) : Bool :=
  s.cached x a && (s.dirtyFrames x.owner).length ≥ 256 * (s.quota x.owner).t1 &&
  (match kget s.tier.frames (a / 0x1000) with
    | some f => !f.dirty
    | none => agent != agTraverse)

/-- Holds a store under the T1 quota, and writes the parcel's oldest dirty page back (R153). -/
def State.holdStore (s : State) (n off : Nat) (p : Packet) (how : Serve) : State :=
  let s1 := ({ s with tier := { s.tier with heldStores := s.tier.heldStores ++ [(off, p)] } } : State).count pgTl 13 (if how == .retried then 0 else 1)
  match (s1.dirtyFrames n).foldl (fun (b : Option (Nat × Frame)) e => match b with
      | none => some e
      | some x => if e.2.since < x.2.since then some e else b) none with
  | some (k, _) => s1.startWriteBack k
  | none => s1

/-! ### PNM ranges (R290, R295) -/

/-- Operand and result ranges of a descriptor as local offsets: A, B, D and LEN. -/
def pnmA (d : List Word) : Nat := (d.getD 1 0).toNat % 2 ^ 46
def pnmB (d : List Word) : Nat := (d.getD 2 0).toNat % 2 ^ 46
def pnmD (d : List Word) : Nat := (d.getD 3 0).toNat % 2 ^ 46
def pnmLen (d : List Word) : Nat := nbits (d.getD 4 0).toNat 26 0
def pnmOp (d : List Word) : Nat := nbits (d.getD 0 0).toNat 7 0

def overlaps (a la b lb : Nat) : Bool := a < b + lb && b < a + la

/-- An active command holds an access to [a, a + len): any access to D, a write to A or B (R295). -/
def PnmCmd.holds (c : PnmCmd) (a len : Nat) (store : Bool) : Bool :=
  overlaps a len (pnmD c.desc) (pnmLen c.desc) ||
  (store && (overlaps a len (pnmA c.desc) (pnmLen c.desc) || (pnmOp c.desc != 4 && overlaps a len (pnmB c.desc) (pnmLen c.desc))))

/-- The module slot whose active command holds the access, if any (R295). -/
def State.pnmHolds (s : State) (a len : Nat) (store : Bool) : Option Nat :=
  match placeOf a with
  | .slot m => if (kgetD s.pnm m {}).active.any (fun c => c.holds a len store) then some m else none
  | _ => none

/-! ### Memory atomics (R224, R346) -/

/-- AOP, W32 and the operands of an ATM payload (R346). -/
def atmAop (p : Packet) : Nat := nbits (wordAt p.payload 2) 2 0
def atmW32 (p : Packet) : Bool := nbit (wordAt p.payload 2) 3
def atmOp1 (p : Packet) : Nat := wordAt p.payload 0
def atmOp2 (p : Packet) : Nat := wordAt p.payload 1

/-- The new value of a w-bit word m under an atomic (R224): 0 ADD, 1 SWAP, 2 CAS, 3 AND, 4 OR, 5 UMAX, 6 UMIN. -/
def atomicOp (aop w m a b : Nat) : Nat :=
  let a := a % 2 ^ w
  match aop with
  | 0 => (m + a) % 2 ^ w
  | 1 => a
  | 2 => if m == b % 2 ^ w then a else m
  | 3 => m &&& a
  | 4 => m ||| a
  | 5 => max m a
  | _ => min m a

/-! ### Squashed run-ahead fills (R315) -/

/-- The pages of a T1 leg: the n-th of the selected slots, and the page's rank in it (R308). -/
def legSlots (leg : List Word) : List Nat := (List.range 64).filter (fun m => nbit (leg.getD 1 0).toNat m)

/-- A T1 leg reads the byte at a local offset. -/
def legReads (leg : List Word) (off : Nat) : Bool :=
  nbits (leg.getD 0 0).toNat 1 0 == 0 &&
  match placeOf off with
  | .slot m =>
    let o := off - slotBase m
    let src := nbits (leg.getD 2 0).toNat 45 0
    let ms := legSlots leg
    ms.contains m && decide (src ≤ o) && decide (((o - src) / 0x1000 * ms.length + ms.idxOf m) * 0x1000 < nbits (leg.getD 3 0).toNat 31 0)
  | _ => false

/-- A T2 leg reads a unit of an object. -/
def legUnit (leg : List Word) (obj ix : Nat) : Bool :=
  nbits (leg.getD 0 0).toNat 1 0 == 1 && nbits (leg.getD 1 0).toNat 19 0 == obj &&
  decide (nbits (leg.getD 2 0).toNat 45 0 / 2 ^ 20 ≤ ix) &&
  decide (ix * 2 ^ 20 < nbits (leg.getD 2 0).toNat 45 0 + nbits (leg.getD 3 0).toNat 31 0)

/-- Squashes every fill whose leg reads what has changed: it is discarded and will be read again, and from its third squash the leg is
sent as a direct leg (R315). -/
def State.squash (s : State) (hit : List Word → Bool) : State :=
  let hits (t : Trav) (f : RaFill) : Bool := f.reading && hit (t.legs.getD (f.gidx % max 1 t.legs.length) [])
  let n := s.trav.travs.foldl (fun a e => a + (e.2.runahead.filter (hits e.2)).length) 0
  if n == 0 then s
  else
    let one (t : Trav) : Trav := { t with runahead := t.runahead.map (fun f =>
      if hits t f then { f with reading := false, complete := false, left := 0, bad := [], squashes := f.squashes + 1, direct := 2 ≤ f.squashes } else f) }
    ({ s with trav := { s.trav with travs := s.trav.travs.map (fun e => (e.1, one e.2)) } } : State).count pgTrv 3 n

end Sys2Proof.Machine
end

