-- ==== Sys2Proof/Machine/Directory.lean ====
section
/-!
DEFINITION. The directory of a cadastre slice (chapter 3): who a requester is, entries and their storage, snoops and who receives them,
the tile line caches as snooped holders, transactions in progress, poisoning, replica measurement.
-/
namespace Sys2Proof.Machine


def State.cadSlice (s : State) (n : Nat) : CadSlice := kgetD s.cad n {}
def State.modSlice (s : State) (n : Nat) (f : CadSlice → CadSlice) : State := { s with cad := kset s.cad n (f (s.cadSlice n)) }

/-- The GFA line number of a local offset of this Tiolo. -/
def State.lineKey (s : State) (off : Nat) : Nat := s.ix * 2 ^ 39 + off / 128
/-- Home Tiolo and local offset of a GFA line number (R45). -/
def keyHome (k : Nat) : Nat := k / 2 ^ 39
def keyOff (k : Nat) : Nat := k % 2 ^ 39 * 128
def keyGfa (k : Nat) : BitVec 56 := BitVec.ofNat 56 (128 * k)
/-- The GFA page of a line. -/
def keyPage (k : Nat) : Nat := k / 32

/-- The slice that holds a line's entry: its home slice (R50, R64), or at a proxy the slice of OFFSET[13:12] (R90). -/
def State.keySlice (s : State) (k : Nat) : Nat := if keyHome k == s.ix then s.homeRegion (keyOff k) else keyOff k / 0x1000 % 4

/-- All four slices are ready (R93). -/
def State.cadReady (s : State) : Bool := (List.range 4).all (fun n => s.bit (rCadCtl n) 0 && s.bit (rCadStat n) 0)

/-! ### Requesters and holders (R68–R70) -/

/-- The agent numbers bound to an ACCEL port, ascending: two after it has levelled again while the first is still being swept (R69, R102). -/
def State.agentsOfPort (s : State) (p : Nat) : List Nat :=
  (List.range 32).filter (fun a => s.fld (rCadAgentPort 0 (a / 8)) (8 * (a % 8) + 7) (8 * (a % 8)) == 128 + p)

/-- Some slice sweeps for an agent that is dead (R102). -/
def State.swept (s : State) (a : Nat) : Bool := (List.range 4).any (fun n => (s.cadSlice n).sweeping.contains a)

/-- The agent number of an ACCEL port: one that is not being swept, if it has one (R69). -/
def State.agentOfPort (s : State) (p : Nat) : Option Nat :=
  let l := s.agentsOfPort p
  match l.find? (fun a => !s.swept a) with
  | some a => some a
  | none => l.head?

/-- The lowest agent number that no port holds (R69). -/
def State.freeAgent (s : State) : Option Nat :=
  (List.range 32).find? (fun a => s.fld (rCadAgentPort 0 (a / 8)) (8 * (a % 8) + 7) (8 * (a % 8)) < 128)

/-- The port bound to an agent number (R69). -/
def State.portOfAgent (s : State) (a : Nat) : Option Nat :=
  let b := s.fld (rCadAgentPort 0 (a / 8)) (8 * (a % 8) + 7) (8 * (a % 8))
  if a < 32 && b ≥ 128 then some (b - 128) else none

/-- Binds an agent number to a port on every slice, or frees it (R69). -/
def State.bindAgent (s : State) (a : Nat) (port : Option Nat) : State :=
  (List.range 4).foldl (fun s n => s.setFld (rCadAgentPort n (a / 8)) (8 * (a % 8) + 7) (8 * (a % 8))
    (match port with
      | some p => 128 + p
      | none => 0)) s

/-- The agent number of an AGENT field of this Tiolo (R68): a bound port, the companion processor, a block's tile line cache. -/
def State.agentNo (s : State) (a : BitVec 12) : Option (Fin 49) :=
  let n := a.toNat
  let r := if n < 0x800 then s.agentOfPort (n % 128) else if n < 0x900 then some (33 + (n - 0x800) / 16)
           else if n == 0x900 then some 32 else none
  r.map (Fin.ofNat 49)

/-- Whom the home or proxy takes a packet to come from: a local agent number or a remote Tiolo (R70). -/
def State.who (s : State) (p : Packet) : Option Holder :=
  if p.src.toNat == s.ix then (s.agentNo p.agent).map Holder.agent else some (Holder.tiolo p.src)

def State.severed (s : State) (n t : Nat) : Bool := s.bit (rCadSever n (t / 64)) (t % 64)

/-- The Tiolos present in the grid that a coarse vector names, without the severed ones (R70, R82). -/
def State.coarse (s : State) (n : Nat) (v : BitVec 128) : List (BitVec 10) :=
  ((((List.range 128).filter (fun k => v.getLsbD k)).flatMap (fun k => (List.range 8).map (8 * k + ·))).filter
    (fun t => s.inGrid t && t != s.ix && !s.severed n t)).map (BitVec.ofNat 10)

/-- The coarse bit of a Tiolo (R70). -/
def coarseBit (t : BitVec 10) : BitVec 128 := BitVec.ofNat 128 (2 ^ (t.toNat / 8))

/-! ### Entries (R71–R73, R90–R92) -/

/-- Agent a as a sharer bit. -/
def agentBit (a : Fin 49) : BitVec 49 := BitVec.ofNat 49 (2 ^ a.val)

/-- The local E, M or O holder. -/
def DirEntry.owner (e : DirEntry) : Option (Fin 49) := if e.lostate == .none then none else some (Fin.ofNat 49 e.lowner)

/-- The local M or O holder. -/
def DirEntry.dirtyOwner (e : DirEntry) : Option (Fin 49) :=
  if e.lostate == .m || e.lostate == .o then some (Fin.ofNat 49 e.lowner) else none

/-- The local S holders, ascending. -/
def DirEntry.sharers (e : DirEntry) : List (Fin 49) := (List.finRange 49).filter (fun a => e.lsharers.getLsbD a.val)

/-- Every local holder. -/
def DirEntry.locals (e : DirEntry) : List (Fin 49) :=
  match e.owner with
  | some b => b :: e.sharers.filter (· != b)
  | none => e.sharers

/-- (I, I) at a home, held I at a proxy (R73, R90). -/
def DirEntry.isFree (e : DirEntry) : Bool := e.gstate == .i && e.lostate == .none && e.lsharers == 0 && !e.lostData

def DirEntry.noOwner (e : DirEntry) : DirEntry := { e with lostate := .none, lowner := 0 }
def DirEntry.setOwner (e : DirEntry) (a : Fin 49) (l : LoState) : DirEntry :=
  { e with lowner := a.val, lostate := l, lsharers := e.lsharers &&& ~~~agentBit a }
def DirEntry.addSharer (e : DirEntry) (a : Fin 49) : DirEntry := { e with lsharers := e.lsharers ||| agentBit a }
def DirEntry.dropSharer (e : DirEntry) (a : Fin 49) : DirEntry := { e with lsharers := e.lsharers &&& ~~~agentBit a }
def DirEntry.addTiolo (e : DirEntry) (t : BitVec 10) : DirEntry :=
  { e with gstate := .s, gowner := 0, gsharers := e.gsharers ||| coarseBit t }
/-- No remote Tiolo holds the line. -/
def DirEntry.noRemote (e : DirEntry) : DirEntry := { e with gstate := .i, gowner := 0, gsharers := 0 }
/-- No local agent holds the line. -/
def DirEntry.noLocal (e : DirEntry) : DirEntry := { e with lowner := 0, lostate := .none, lsharers := 0 }

/-- Agent a's S or E record is removed (R82, R84). -/
def DirEntry.forget (e : DirEntry) (a : Fin 49) : DirEntry :=
  let e1 := e.dropSharer a
  if e1.lostate == .e && e1.lowner == a.val then e1.noOwner else e1

/-- Agent a's record is removed, whatever it is. -/
def DirEntry.dropAgent (e : DirEntry) (a : Fin 49) : DirEntry :=
  let e1 := e.dropSharer a
  if e1.owner == some a then e1.noOwner else e1

/-- The holder is recorded as the local M or O owner or the global M owner (R104). -/
def DirEntry.dirtyAt (e : DirEntry) (h : Holder) : Bool :=
  match h with
  | .agent a => e.dirtyOwner == some a
  | .tiolo t => e.gstate == .m && e.gowner == t

/-- The entry of R91 as 256 bits. -/
def entryBits (k : Nat) (busy : Bool) (e : DirEntry) : Nat :=
  1 + (if e.proxy then 2 else 0) + (if e.lostData then 4 else 0) + (if busy then 8 else 0) + k % 2 ^ 39 * 2 ^ 4 + keyHome k * 2 ^ 43 +
  (match e.gstate with
    | .i => 0
    | .s => 1
    | .m => 2) * 2 ^ 53 + e.gowner.toNat * 2 ^ 55 + e.gsharers.toNat * 2 ^ 65 + e.lowner % 64 * 2 ^ 193 +
  (match e.lostate with
    | .none => 0
    | .e => 1
    | .o => 2
    | .m => 3) * 2 ^ 199 + e.lsharers.toNat * 2 ^ 201

def State.entry (s : State) (n k : Nat) : DirEntry := kgetD (s.cadSlice n).entries k {}

/-- Entries of the cadastre cache (R92). -/
def cacheEntries : Nat := 196608

/-- The set of the cadastre cache, of 12,288 sets of 16 ways, that holds a line's entry: which one is the implementation's (R92). -/
def cacheSetOf (k : Nat) : Nat := Config.cacheSet (BitVec.ofNat 49 k) % (cacheEntries / 16)

/-- A line's entry has come into the cache: of a 17th in its set, the least recently used is held in the backing store only (R92, R94). -/
def CadSlice.spill (c : CadSlice) (k : Nat) : CadSlice :=
  if c.entries.length ≤ 16 then c
  else if (c.entries.filter (fun e => !c.spilled.contains e.1 && cacheSetOf e.1 == cacheSetOf k)).length > 16 then
    match c.lru.find? (fun v => v != k && !c.spilled.contains v && cacheSetOf v == cacheSetOf k) with
    | some v => { c with spilled := c.spilled ++ [v] }
    | none => c
  else c

/-- A line's entry is the one used last. -/
def CadSlice.touch (c : CadSlice) (k : Nat) : CadSlice := if c.lru.contains k then { c with lru := c.lru.filter (· != k) ++ [k] } else c

/-- A line of the slice has an entry, held in the cadastre cache. -/
def CadSlice.hits (c : CadSlice) (k : Nat) : Bool := (kget c.entries k).isSome && !c.spilled.contains k

/-- Lookups of some lines: each is counted, as is each hit in the cadastre cache, and marks its entry as used (R92, R107). -/
def State.lookup (s : State) (n : Nat) (ks : List Nat) : State :=
  let s1 := (s.count (pgCad n) 0 ks.length).count (pgCad n) 1 (ks.filter (s.cadSlice n).hits).length
  s1.modSlice n (fun c => ks.foldl CadSlice.touch c)

/-- Writes a line's entry; an entry at (I, I), or with held I, is freed (R90). -/
def State.putEntry (s : State) (n k : Nat) (e : DirEntry) : State :=
  let pr := keyHome k != s.ix
  s.modSlice n (fun c =>
    if e.isFree then { c with entries := kdel c.entries k, lru := c.lru.filter (· != k), spilled := c.spilled.filter (· != k) }
    else CadSlice.spill { c with entries := kset c.entries k { e with proxy := pr }, lru := c.lru.filter (· != k) ++ [k] } k)

/-- The backing set of a line: the index is the implementation's (R92, R94). -/
def State.setIx (s : State) (k : Nat) : Nat := Config.backingSet (s.backingGib * 2 ^ 21) (BitVec.ofNat 49 k)

/-- A transaction is in progress on a line of the slice (R65). -/
def State.busyLine (s : State) (n k : Nat) : Bool := (s.cadSlice n).txns.any (fun t => t.lines.contains k)

/-- A snoop round is in progress on a line (R85). -/
def State.roundOn (s : State) (n k : Nat) : Bool :=
  (s.cadSlice n).txns.any (fun t => t.lines.contains k && !t.waiting.isEmpty)

/-- A new entry for the line finds its backing set with 16 valid entries (R95). -/
def State.setFull (s : State) (n k : Nat) : Bool :=
  (kget (s.cadSlice n).entries k).isNone && decide (16 ≤ (s.cadSlice n).entries.length) &&
  ((s.cadSlice n).entries.filter (fun e => s.setIx e.1 == s.setIx k)).length ≥ 16

/-- The victim of R95: the least recently used entry of the set that is not busy. -/
def State.setVictim (s : State) (n k : Nat) : Option Nat :=
  (s.cadSlice n).lru.find? (fun v => s.setIx v == s.setIx k && !s.busyLine n v)

/-- A recall frees a place in the line's backing set. -/
def State.setRecalling (s : State) (n k : Nat) : Bool :=
  (s.cadSlice n).txns.any (fun t => (t.kind == .recall || t.kind == .giveUp) && t.lines.any (fun v => s.setIx v == s.setIx k))

/-! ### Poison and lost data (R104) -/

/-- The parcel that owns the extent of a local offset. -/
def State.ownerAt (s : State) (off : Nat) : Option Nat := (s.extAt off).map (fun e => e.2.owner)

/-- A line is written poisoned, with a POISON record of its GFA and owner parcel (R104). -/
def State.writePoisoned (s : State) (n k : Nat) : State :=
  ((s.poisonLine (lineOf (keyOff k))).count (pgCad n) 11).record (bookRegion n) (pgCad n) clsPoison 2 (aidCad n) (2 ^ 64)
    (128 * k) stPoison (s.ownerAt (keyOff k))

/-! ### Tile line caches as holders (R80, R187) -/

def State.tlcLine (s : State) (b k : Nat) : Option TlcLine := kget (kgetD s.tlc b []) k
def State.setTlc (s : State) (b k : Nat) (l : TlcLine) : State := { s with tlc := kset s.tlc b (kset (kgetD s.tlc b []) k l) }
def State.delTlc (s : State) (b k : Nat) : State := { s with tlc := kset s.tlc b (kdel (kgetD s.tlc b []) k) }

/-- A snoop's answer as a packet towards the slice that snooped. -/
def State.snoopAnswerPkt (s : State) (tiolo : BitVec 10) (agent : BitVec 12) (tid : BitVec 16) (gfa : BitVec 56)
    (data : Option (List Byte)) (lost : Bool) : Packet :=
  { opcode := BitVec.ofNat 8 (if data.isSome then opSDA else opSAK), cls := if data.isSome then 3 else 2, len := (data.getD []).length,
    poi := lost, tid := tid, gfa := gfa, dst := BitVec.ofNat 17 (tiolo.toNat * 128), src := BitVec.ofNat 10 s.ix, agent := agent,
    payload := data.getD [] }

/-- The tile line cache of block b takes a snoop and answers it (R80, R81, R187). -/
def State.tlcSnoop (s : State) (b k op : Nat) : State :=
  let me := agTile (16 * b)
  let ans (s : State) (d : Option (List Byte)) : State :=
    s.send (s.snoopAnswerPkt (BitVec.ofNat 10 s.ix) me (BitVec.ofNat 16 (33 + b)) (keyGfa k) d false)
  match s.tlcLine b k with
  | none => ans s none
  | some l =>
    if l.state == 0 then ans s none
    else if l.state == 5 then ans s (some l.data)
    else
      let dirty := l.state == 3 || l.state == 4
      let s1 := if op == opSND then s.setTlc b k { l with state := if dirty then 4 else 1 } else s.delTlc b k
      ans s1 (if dirty && op != opSNI then some l.data else none)

/-! ### Snoops (R77, R82) -/

/-- The number a snoop carries in TID for its holder: an agent number, or 64 for a remote Tiolo. -/
def holderTid (h : Holder) : Nat :=
  match h with
  | .agent a => a.val
  | .tiolo _ => 64

/-- Sends one snoop. -/
def State.sendSnoop (s : State) (n k : Nat) (h : Holder) (op : Nat) : State :=
  let pkt (dst : Nat) : Packet :=
    { opcode := BitVec.ofNat 8 op, cls := 1, tid := BitVec.ofNat 16 (holderTid h), gfa := keyGfa k, dst := BitVec.ofNat 17 dst,
      src := BitVec.ofNat 10 s.ix, agent := agSlice n }
  match h with
  | .agent a =>
    let s1 := s.count (pgCad n) 7
    if a.val ≥ 33 then s1.tlcSnoop (a.val - 33) k op
    else if a.val = 32 then s1.toFilard (pkt 0)
    else s1.send (pkt (s.ix * 128 + (s.portOfAgent a.val).getD 0))
  | .tiolo t => (s.count (pgCad n) 8).send (pkt (t.toNat * 128))

/-- Sends the snoops of a line, in order. -/
def State.sendSnoops (s : State) (n k : Nat) : List (Holder × Nat) → State
  | [] => s
  | h :: rest => (s.sendSnoop n k h.1 h.2).sendSnoops n k rest

/-- SNF to each owner and SNI to each sharer, except one holder (R82). -/
def State.snoopAll (s : State) (n : Nat) (e : DirEntry) (but : Option Holder) : List (Holder × Nat) :=
  (((match e.owner with
      | some b => [(Holder.agent b, opSNF)]
      | none => []) ++
    (e.sharers.map (fun a => (Holder.agent a, opSNI))) ++
    (match e.gstate with
      | .m => [(Holder.tiolo e.gowner, opSNF)]
      | .s => (s.coarse n e.gsharers).map (fun t => (Holder.tiolo t, opSNI))
      | .i => [])).filter (fun h => but != some h.1))

/-- SND to the local owner, or to the global M owner, except one holder (R82). -/
def DirEntry.snoopDown (e : DirEntry) (but : Option Holder) : List (Holder × Nat) :=
  ((match e.owner with
      | some b => [(Holder.agent b, opSND)]
      | none => if e.gstate == GState.m then [(Holder.tiolo e.gowner, opSND)] else [])).filter (fun h => but != some h.1)

/-- SNI to every local holder but one; the owner is fetched (R84, R85). -/
def DirEntry.snoopLocals (e : DirEntry) (fetch : Bool) (but : Option (Fin 49)) : List (Holder × Nat) :=
  (e.locals.filter (fun a => but != some a)).map (fun a =>
    (Holder.agent a, if fetch && e.owner == some a then opSNF else opSNI))

/-! ### Transactions in progress -/

def State.txn (s : State) (n i : Nat) : Option Txn := (s.cadSlice n).txns[i]?
def State.setTxn (s : State) (n i : Nat) (t : Txn) : State := s.modSlice n (fun c => { c with txns := c.txns.set i t })
def State.delTxn (s : State) (n i : Nat) : State := s.modSlice n (fun c => { c with txns := c.txns.eraseIdx i })
/-- Starts a transaction; its index is the last one. -/
def State.addTxn (s : State) (n : Nat) (t : Txn) : State := s.modSlice n (fun c => { c with txns := c.txns ++ [t] })

/-- Adds outstanding snoops of a line to a transaction. -/
def Txn.waitFor (t : Txn) (k : Nat) (hs : List (Holder × Nat)) : Txn := { t with waiting := t.waiting ++ hs.map (fun h => (k, h.1)) }

/-- Data that a holder supplied for a line. -/
def Txn.data (t : Txn) (k : Nat) : Option (List Byte) := (t.got.find? (fun e => e.1 == k)).map (fun e => e.2)

/-- The first line of a transaction. -/
def Txn.line (t : Txn) : Nat := t.lines.headD 0

/-- The opcode a transaction is handled as: plain reads and writes of coherent lines act as RDU and WRI. -/
def cohOp (op : Nat) : Nat := if op == opRDN then opRDU else if op == opWRN then opWRI else op

/-- The bytes of memory that a request names (R77, R339): those it reads or stores, an atomic's word, a page, or its line. -/
def reqBytes (p : Packet) : Nat :=
  let op := cohOp p.opcode.toNat
  if op == opRDU then max 1 p.len else if op == opWRI then max 1 p.payload.length
  else if op == opATM then (if atmW32 p then 4 else 8) else if op == opRPQ then 0x1000 else 128

/-- Where those bytes begin, for a request of resolved offset `off`. -/
def reqAt (p : Packet) (off : Nat) : Nat :=
  let op := cohOp p.opcode.toNat
  if op == opRDU || op == opWRI || op == opATM then off else off - off % 128

/-- Places in a slice's conflict queue and in its hold queue (R65, R295). -/
def conflictPlaces : Nat := 2048
def holdPlaces : Nat := 1024

/-- The conflict queue or the hold queue of a slice is full: the slice withholds REQ-class credits (R66, R295). -/
def State.sliceFull (s : State) (n : Nat) : Bool :=
  decide (conflictPlaces ≤ (s.cadSlice n).conflictQ.length) || decide (holdPlaces ≤ (s.cadSlice n).holdQ.length)

/-- The GFA lines of a queued request: its resolved lines at the home, its own line at a proxy. -/
def State.queuedLines (s : State) (e : Nat × Packet) : List Nat :=
  if gfaHome e.2.gfa == s.ix then
    let op := cohOp e.2.opcode.toNat
    if op == opRPQ then (List.range 32).map (fun i => s.lineKey (e.1 + 128 * i))
    else (linesOf e.1 (if op == opRDU || op == opWRI then reqBytes e.2 else 1)).map (fun l => s.lineKey (128 * l))
  else [e.2.gfa.toNat / 128]

/-- A request that waits in the conflict queue for one of some lines, ordered before (R65). -/
def State.queuedBefore (s : State) (n : Nat) (ls : List Nat) : Bool :=
  (s.cadSlice n).conflictQ.any (fun e => e.2.cls == 0 && (s.queuedLines e).any ls.contains)

/-- The conflict queue takes a request (R65); CAD_STAT.PENDQ_MAX follows its length. -/
def State.queueConflict (s : State) (n off : Nat) (p : Packet) : State :=
  let s1 := (s.modSlice n (fun c => { c with conflictQ := c.conflictQ ++ [(off, p)] })).count (pgCad n) 10
  let l := (s1.cadSlice n).conflictQ.length
  if s1.fld (rCadStat n) 43 32 < l then s1.setFld (rCadStat n) 43 32 (min 4095 l) else s1

/-! ### Replicas: measurement and candidacy (R97, R98) -/

def State.replOn (s : State) (n : Nat) : Bool := s.bit (rCadCtl n) 2

/-- One ordered request of a tracked page (R97). -/
def State.measure (s : State) (n pg : Nat) (write : Bool) (reader : Option (BitVec 10)) : State :=
  let c := s.cadSlice n
  let now := s.seq (aidCad n)
  let old := kgetD c.measure pg {}
  let m : PageMeas :=
    { reads := old.reads + (if reader.isSome then 1 else 0), writes := old.writes + (if write then 1 else 0),
      groups := old.groups ||| (reader.map coarseBit).getD 0, touched := now }
  let room := if (kget c.measure pg).isNone && c.measure.length ≥ 65536 then
      (match c.measure.foldl (fun (b : Option (Nat × PageMeas)) e => match b with
          | none => some e
          | some x => if e.2.touched < x.2.touched then some e else b) none with
        | some (v, _) => kdel c.measure v
        | none => c.measure)
    else c.measure
  s.modSlice n (fun c => { c with measure := kset room pg m })

/-- The lines of a GFA page. -/
def pageLines (pg : Nat) : List Nat := (List.range 32).map (32 * pg + ·)

/-- A page is a candidate for replication in the current window (R98). -/
def State.candidate (s : State) (n pg : Nat) : Bool :=
  let c := s.cadSlice n
  let m := kgetD c.measure pg {}
  let ctl := s.reg (rCadReplCtl n)
  decide (nbits ctl 15 8 ≤ m.reads) && decide (m.writes ≤ nbits ctl 23 16) &&
  decide (nbits ctl 31 24 ≤ ((List.range 128).filter (fun k => m.groups.getLsbD k)).length) &&
  (pageLines pg).all (fun k => !s.busyLine n k && (s.entry n k).dirtyOwner.isNone && (s.entry n k).gstate != .m)

/-- HOME_MAX, at most 65,536. -/
def State.homeMax (s : State) (n : Nat) : Nat := min 65536 (s.fld (rCadReplCtl n) 48 32)

/-- The Tiolos present that hold a replica of a page. -/
def State.replicaHolders (s : State) (n pg : Nat) : List (BitVec 10) := s.coarse n (kgetD (s.cadSlice n).replTable pg 0)

end Sys2Proof.Machine
end

