-- ==== Sys2Proof/Machine/Home.lean ====
section
/-!
DEFINITION. The home of a line: the checks of a request (R48, R60, R62, R93, R150), its effect on a non-coherent line, and the
transactions of the transition table (R82, R83), with the memory reads, memory writes, recalls and failures that belong to them.
-/
namespace Sys2Proof.Machine

/-! ### Writing memory -/

/-- A write is ordered at the line's home: the frame that caches its page becomes dirty (R166), and run-ahead fills that have read the
line are squashed (R315). -/
def State.touchDirty (s0 : State) (off : Nat) : State :=
  let s := s0.squash (fun leg => legReads leg off)
  match kget s.tier.frames (off / 0x1000) with
  | some f => if f.filling then s else (s.cacheTick).setFrame (off / 0x1000) (f.stored (s.tier.clock + 1))
  | none => s

/-- A whole line of an owner's data is written to home memory; in a module slot it has no effect while T1 is read-only (R150). -/
def State.homeWriteLine (s : State) (off : Nat) (bs : List Byte) : State :=
  if s.readOnly off then s else ((s.touchDirty off).writeLine (lineOf off) (slice bs 0 128) false).lineWritten (lineOf off)

/-- The bytes of a write that fall in one line: their offset and content. -/
def storePart (off : Nat) (payload : List Byte) (l : Nat) : Nat × List Byte :=
  let lo := max off (128 * l)
  let hi := min (off + payload.length) (128 * l + 128)
  (lo, slice payload (lo - off) (hi - lo))

/-- The write writes the line whole, with no byte-mask bit clear (R104). -/
def storesWhole (off : Nat) (p : Packet) (l : Nat) : Bool :=
  match p.mask with
  | some m => m == BitVec.allOnes 128
  | none => (storePart off p.payload l).2.length == 128

/-- One line of a WRI or WRN (R82, R104, R298): POISON when a part is merged into a poisoned line, or one that fails its check, or when
the line reaches its module with a wrong CHECK. Data with POI poisons the line (R340). -/
def State.storeLine (s : State) (off : Nat) (p : Packet) (l : Nat) : State × Status :=
  let s0 := s.touchDirty (128 * l)
  let poison (s1 : State) : State := if p.poi then s1.writePoisoned (s1.homeRegion (128 * l)) (s1.lineKey (128 * l)) else s1
  if storesWhole off p l then
    (poison ((s0.writeLine l (slice (storePart off p.payload l).2 0 128) false).lineWritten l), if s.miswrites l then stPoison else stOK)
  else
    let v := s0.verifyLine l
    let s1 := match p.mask with
      | some m => v.writeMask (128 * l) m.toNat p.payload
      | none => v.writeMem (storePart off p.payload l).1 (storePart off p.payload l).2
    let s2 := if s.poisoned (128 * l) && s.damaged l then s1.poisonLine l else s1
    (poison s2, if s.poisoned (128 * l) then stPoison else stOK)

/-- Every line of a write, ascending. -/
def State.storeLines (s : State) (off : Nat) (p : Packet) : List Nat → State × Status
  | [] => (s, stOK)
  | l :: rest =>
    let r := s.storeLine off p l
    let q := r.1.storeLines off p rest
    (q.1, statusMin r.2 q.2)

/-- A memory atomic on its word (R104, R224): the new state, the status and the old value, zero-extended. -/
def State.atomicAt (s : State) (off : Nat) (p : Packet) : State × Status × List Byte :=
  let sz := if atmW32 p then 4 else 8
  let a := off - off % sz
  let s1 := s.verifyLine (lineOf a)
  if s.poisoned a then (s1, stPoison, errorBytes 8)
  else
    let m := leNat (s.readMem a sz)
    let v := atomicOp (atmAop p) (8 * sz) m (atmOp1 p) (atmOp2 p)
    ((s1.touchDirty a).writeMem a (leBytes sz v), stOK, leBytes 8 m)

/-! ### A transaction of the table (R82) -/

/-- The entry after an SND: a dirty owner keeps the line as O, a clean one as S, a remote owner as S. -/
def DirEntry.down (e : DirEntry) (dirty : Bool) : DirEntry :=
  match e.owner with
  | some b => if dirty then e.setOwner b .o else (e.noOwner).addSharer b
  | none => if e.gstate == GState.m then (e.noRemote).addTiolo e.gowner else e

/-- A reader is recorded: E when no copy exists and it is local, otherwise S; with the GRANT (R78, R82). -/
def DirEntry.readBy (e : DirEntry) (who : Option Holder) : DirEntry × BitVec 2 :=
  match who with
  | some (.agent a) => if e.isFree then (e.setOwner a .e, 2) else (e.addSharer a, 1)
  | some (.tiolo t) => (e.addTiolo t, 1)
  | none => (e, 0)

/-- The new owner is the only holder. -/
def takenBy (who : Option Holder) : DirEntry :=
  match who with
  | some (.agent a) => ({} : DirEntry).setOwner a .m
  | some (.tiolo t) => { gstate := .m, gowner := t }
  | none => {}

/-- The requester is the recorded global owner. -/
def DirEntry.ownedBy (e : DirEntry) (who : Option Holder) : Bool :=
  e.gstate == GState.m && (match who with
    | some (.tiolo t) => e.gowner == t
    | _ => false)

def isRemote (who : Option Holder) : Bool :=
  match who with
  | some (.tiolo _) => true
  | _ => false

/-- What one line of a transaction comes to. -/
structure LineEnd where
  s : State
  status : Status := stOK
  data : List Byte := []
  grant : BitVec 2 := 0
  /-- Memory writes issued. -/
  writes : Nat := 0
  deriving DecidableEq, Repr

/-- The requester is dead or severed: nothing is granted to it (R102, R103). -/
def State.requesterGone (s : State) (n : Nat) (t : Txn) (who : Option Holder) : Bool :=
  match who with
  | some (.agent a) => !t.reply || (s.cadSlice n).sweeping.contains a.val
  | some (.tiolo x) => s.severed n x.toNat
  | none => false

/-- Owner data goes to home memory: from a remote owner, before a remote grant (R75), under a write, or when nothing is granted. -/
def ownerDataStored (op : Nat) (e : DirEntry) (who : Option Holder) (gone : Bool) : Bool :=
  e.gstate == GState.m || op == opWRI || op == opATM || ((op == opRDO || op == opUPG) && (isRemote who || gone))

/-- The end of a transaction on one line, once its snoops are answered and its data is there (R82). An owner that died meanwhile is
resolved first (R102), as is a requester that was severed as the line's owner (R103); a line whose entry was lost ends with FATAL (R105). -/
def State.endLine (s : State) (n : Nat) (t : Txn) (who : Option Holder) (off k : Nat) : LineEnd :=
  let op := cohOp t.req.opcode.toNat
  let gone := s.requesterGone n t who
  let lost := t.lost.contains k
  let e0 := if lost then {} else s.entry n k
  let got := if lost then none else t.data k
  let dead := match e0.owner with
    | some b => (s.cadSlice n).sweeping.contains b.val
    | none => false
  let fled := gone && e0.ownedBy who
  let e1 := if fled || (e0.gstate == GState.m && s.severed n e0.gowner.toNat) then e0.noRemote else e0
  let e := if dead then e1.noOwner else e1
  let s0 := if fled || (dead && e0.dirtyOwner.isSome && got.isNone) then s.writePoisoned n k else s
  let wr := got.isSome && (dead || ownerDataStored op e0 who gone)
  let readOp := op == opRDS || op == opRDU || op == opRDO
  let s1 := if wr then s0.homeWriteLine (keyOff k) (got.getD []) else if got.isNone && readOp then s0.verifyLine (lineOf (keyOff k)) else s0
  let bad := got.isNone && s1.poisoned (keyOff k)
  let bytes := got.getD (s1.readMem (keyOff k) 128)
  let w := if wr then 1 else 0
  if s.lostAt (((s.extAt (keyOff k)).map (fun x => x.2)).getD {}) (keyOff k) 128 then
    { s := s1.putEntry n k e, status := stFatal, data := bytes, writes := w }
  else if op == opRDS && e.ownedBy who && !gone then
    { s := s1, status := if bad then stPoison else stOK, data := bytes, grant := if bad then 0 else 3 }
  else if op == opRDS || op == opRDU || op == opRPQ then
    let e1 := e.down got.isSome
    if bad || gone || op != opRDS then { s := s1.putEntry n k e1, status := if bad then stPoison else stOK, data := bytes, writes := w }
    else { s := s1.putEntry n k (e1.readBy who).1, data := bytes, grant := (e1.readBy who).2, writes := w }
  else if op == opRDO || op == opUPG then
    let st := if bad && op == opRDO then stPoison else stOK
    let d := if op == opRDO then bytes else []
    if gone then { s := s1.putEntry n k {}, status := st, data := d, writes := w }
    else { s := s1.putEntry n k (takenBy who), status := st, data := d, grant := 3, writes := w }
  else if op == opATM then
    let r := s1.atomicAt off t.req
    { s := r.1.putEntry n k {}, status := r.2.1, data := r.2.2, writes := 1 }
  else
    let r := s1.storeLine off t.req (lineOf (keyOff k))
    { s := r.1.putEntry n k {}, status := r.2, writes := 1 }

/-- All lines of a transaction; each line is single-copy atomic (R111). -/
def State.endLines (s : State) (n : Nat) (t : Txn) (who : Option Holder) (off : Nat) : List Nat → LineEnd
  | [] => { s := s }
  | k :: rest =>
    let a := s.endLine n t who off k
    let b := a.s.endLines n t who off rest
    { s := b.s, status := statusMin a.status b.status, data := a.data ++ b.data, grant := a.grant ||| b.grant,
      writes := a.writes + b.writes }

/-- The offer of a page replica that the completion of a remote RDS carries (R98). -/
def State.offers' (s : State) (n : Nat) (p : Packet) (k : Nat) (c : Packet) : Bool :=
  let tab := (s.cadSlice n).replTable
  p.opcode.toNat == opRDS && p.src.toNat != s.ix && c.status == stOK && c.grant == 1 && s.replOn n &&
  (match s.extAt (keyOff k) with
    | some (_, x) => x.repl
    | none => false) && s.candidate n (keyPage k) && decide (tab.length < s.homeMax n) &&
  (kgetD tab (keyPage k) 0 &&& coarseBit p.src) == 0

/-- The transaction ends: its lines leave busy and its CMP is sent (R83). -/
def State.finishTxn (s : State) (n i : Nat) (t : Txn) : State :=
  let s1 := s.delTxn n i
  match t.ans with
  | some c =>
    if t.reply then
      let off := s1.offers' n t.req t.line c
      let s2 := if off then s1.modSlice n (fun z => { z with offers := (z.offers.filter (· != (keyPage t.line, t.req.src))) ++ [(keyPage t.line, t.req.src)] }) else s1
      s2.complete t.req c.status c.payload c.flags c.grant off (132 + n)
    else s1
  | none => s1

/-- Reads of home memory that a slice has outstanding. -/
def State.readsOut (s : State) (n : Nat) : Nat := ((s.cadSlice n).txns.filter (fun t => t.reading)).length

/-- A transaction that is about to write a page of a WB extent waits until the page has its frame, as a store that misses (R166). Without
a frame to be had, the module is written. -/
def State.waitFrame (s : State) (n i : Nat) (t : Txn) (off : Nat) : Option State :=
  match s.extAt off with
  | none => none
  | some (_, x) =>
    if !s.cached x off || s.readOnly off then none
    else
      let wait (s1 : State) : Option State := some (s1.setTxn n i { t with framing := true })
      match kget s.tier.frames (off / 0x1000) with
      | some f => if f.filling || f.evict then wait s else none
      | none => match s.allocFrame off x.owner false [] with
        | .waits s1 => wait s1
        | _ => none

/-- The end of a transaction will write the line to memory. -/
def State.lineWrites (s : State) (n : Nat) (t : Txn) (who : Option Holder) (k : Nat) : Bool :=
  let op := cohOp t.req.opcode.toNat
  op == opWRI || op == opATM || ((t.data k).isSome && !t.lost.contains k && ownerDataStored op (s.entry n k) who (s.requesterGone n t who))

/-- The end of an RPQ (R99): while the page still qualifies, the Tiolo is recorded for the page and for every line, and the page is sent;
otherwise RETRY. -/
def State.rpqEnd (s : State) (n i : Nat) (t : Txn) : State :=
  let pg := keyPage t.line
  let off := keyOff t.line
  let dirty := t.lines.any (fun k => (t.data k).isSome || t.lost.contains k)
  let s1 := t.lines.foldl (fun s k =>
    let e := s.entry n k
    let c := (s.cadSlice n)
    let e1 := match e.owner with
      | some b => if c.sweeping.contains b.val then e.noOwner else e.down (t.data k).isSome
      | none => e
    s.putEntry n k e1) s
  let done (s : State) (st : Status) (d : List Byte) : State := s.finishTxn n i { t with ans := some { status := st, payload := d } }
  if s1.severed n t.req.src.toNat then done s1 stAccessFault []
  else if s1.lostAt (((s1.extAt off).map (fun x => x.2)).getD {}) off 0x1000 then done s1 stFatal []
  else if dirty then done s1 stRetry []
  else if s1.anyPoison off 0x1000 then done (s1.verify off 0x1000) stPoison (errorBytes 0x1000)
  else
    let grp (c : CadSlice) : KMap (BitVec 128) := kset c.replTable pg (kgetD c.replTable pg 0 ||| coarseBit t.req.src)
    let s2 := (s1.verify off 0x1000).modSlice n (fun c => { c with replTable := grp c })
    let s3 := t.lines.foldl (fun s k => s.putEntry n k ((s.entry n k).addTiolo t.req.src)) s2
    done s3 stOK (s3.readMem off 0x1000)

/-- A transaction at its home whose snoops are all answered: it reads memory if it must, then applies and ends (R82, R83, R88). -/
def State.homeEnd (s : State) (n i : Nat) (t : Txn) : State :=
  let op := cohOp t.req.opcode.toNat
  let reads := op == opRDS || op == opRDO || op == opRDU
  let needMem := reads && t.lines.any (fun k => (t.data k).isNone && !t.lost.contains k)
  if op == opRPQ then (s.waitFrame n i t (keyOff t.line)).getD (s.rpqEnd n i t)
  else if needMem && !t.memOk then
    if t.reading then s.setTxn n i t else s.setTxn n i { t with reading := true, spec := false }
  else
    let s0 := if t.spec then s.count (pgCad n) (if needMem then 5 else 6) else s
    let who := if op == opRDU || op == opWRI || op == opATM then none else s.who t.req
    let off := keyOff t.line + t.req.gfa.toNat % 128
    let wait := if t.lines.any (fun k => s.lineWrites n t who k) then s.waitFrame n i t off else none
    match wait with
    | some s' => s'
    | none =>
    let r := s0.endLines n t who off t.lines
    let sev := match s.who t.req with
      | some (.tiolo x) => s.severed n x.toNat
      | _ => false
    let data := if op == opRDU then slice r.data (t.req.gfa.toNat % 128) t.req.len else r.data
    let st := if sev then stAccessFault else r.status
    let t1 := { t with ans := some { status := st, grant := if sev then 0 else r.grant, payload := data }, applied := true,
                       writes := r.writes, reading := false, spec := false }
    if r.writes == 0 then r.s.finishTxn n i t1 else r.s.setTxn n i t1

/-- The snoops of the table for one line (R82). -/
def State.homeSnoops (s : State) (n op : Nat) (e : DirEntry) (who : Option Holder) : List (Holder × Nat) :=
  if op == opRDS then e.snoopDown who
  else if op == opRPQ then e.snoopDown none
  else if op == opRDU then e.snoopDown none
  else if op == opRDO then (if e.ownedBy who then [] else s.snoopAll n e who)
  else if op == opUPG then s.snoopAll n e who
  else s.snoopAll n e none

/-- The requester of a UPG is recorded as an S holder or as the local O owner (R82). -/
def DirEntry.mayUpgrade (e : DirEntry) (who : Option Holder) : Bool :=
  match who with
  | some (.agent a) => e.lsharers.getLsbD a.val || (e.lostate == LoState.o && e.owner == some a)
  | some (.tiolo t) => e.gstate == GState.s && (e.gsharers &&& coarseBit t) != 0
  | none => false

/-- Starts the snoops of each line of a transaction. -/
def State.startSnoops (s : State) (n op : Nat) (who : Option Holder) (t : Txn) : List Nat → State × Txn
  | [] => (s, t)
  | k :: rest =>
    let hs := s.homeSnoops n op (s.entry n k) who
    (s.sendSnoops n k hs).startSnoops n op who (t.waitFor k hs) rest

/-- The table is applied to transaction i: own records removed, UPG without a copy taken as RDO, snoops sent (R82). -/
def State.startTable (s : State) (n i : Nat) (t : Txn) : State :=
  let op0 := cohOp t.req.opcode.toNat
  let who := s.who t.req
  let s0 := match who with
    | some (.agent a) => if op0 == opRDS || op0 == opRDO then s.putEntry n t.line ((s.entry n t.line).forget a) else s
    | _ => s
  let up := op0 == opUPG && !(s0.entry n t.line).mayUpgrade who
  let t0 := if up then { t with req := { t.req with opcode := BitVec.ofNat 8 opRDO, len := 128 } } else t
  let op := if up then opRDO else op0
  let e := s0.entry n t.line
  let squash := t0.spec && (e.dirtyOwner.isSome || (e.gstate == GState.m && !e.ownedBy who))
  let s1 := if squash then s0.count (pgCad n) 6 else s0
  let t1 := if squash then { t0 with spec := false, reading := false } else t0
  let r := s1.startSnoops n op who t1 t1.lines
  if r.2.waiting.isEmpty then r.1.homeEnd n i r.2 else r.1.setTxn n i r.2

/-- A write-back that reaches its home (R82): accepted from the recorded owner, otherwise discarded. -/
def State.homeWbk (s : State) (n i : Nat) (t : Txn) : State :=
  let k := t.line
  let e := s.entry n k
  let done (s : State) (e : DirEntry) : State :=
    let s1 := (s.homeWriteLine (keyOff k) t.req.payload).putEntry n k e
    let s2 := if t.req.poi then s1.writePoisoned n k else s1
    s2.setTxn n i { t with ans := some { status := stOK }, applied := true, writes := 1 }
  let drop : State := s.finishTxn n i { t with ans := some { status := stOK } }
  match s.who t.req with
  | some (.agent a) => if e.owner == some a then done s e.noOwner else drop
  | some (.tiolo x) => if e.gstate == GState.m && e.gowner == x then done s e.noRemote else drop
  | none => drop

/-- A Tiolo is the only one present that its coarse bit covers (R82). -/
def State.aloneInGroup (s : State) (t : Nat) : Bool :=
  (List.range 8).all (fun i => t / 8 * 8 + i == t || !s.inGrid (t / 8 * 8 + i))

/-- A lookup that names a dead agent, or a severed owner, resolves it first (R102, R103): a dirty line is written poisoned and freed, and the
copies that are left are to be invalidated; a clean record goes. -/
def State.resolveLine (s : State) (n k : Nat) : State × List (Holder × Nat) :=
  let e := s.entry n k
  let dead (a : Fin 49) : Bool := (s.cadSlice n).sweeping.contains a.val
  let fled := e.gstate == GState.m && keyHome k == s.ix && s.severed n e.gowner.toNat
  if fled || e.dirtyOwner.any dead then
    let hs := (s.snoopAll n (if fled then e.noRemote else e.noOwner) none).filter (fun h => match h.1 with
      | .agent a => !dead a
      | .tiolo _ => true)
    ((s.writePoisoned n k).putEntry n k {}, hs.map (fun h => (h.1, opSNI)))
  else if e.locals.any dead then (s.putEntry n k ((e.locals.filter dead).foldl DirEntry.dropAgent e), [])
  else (s, [])

/-- The same for each line of a transaction, which waits for the answers of the copies invalidated. -/
def State.resolveLines (s : State) (n : Nat) (t : Txn) : List Nat → State × Txn
  | [] => (s, t)
  | k :: rest =>
    let r := s.resolveLine n k
    (r.1.sendSnoops n k r.2).resolveLines n (t.waitFor k r.2) rest

/-- A notice that a clean copy was dropped (R82). -/
def State.homeEvc (s : State) (n i : Nat) (t : Txn) : State :=
  let k := t.line
  let e := s.entry n k
  let e1 := match s.who t.req with
    | some (.agent a) => e.dropAgent a
    | some (.tiolo x) =>
      if e.gstate == GState.m then (if e.gowner == x then e.noRemote else e)
      else if e.gstate == GState.s && s.aloneInGroup x.toNat then
        let v := e.gsharers &&& ~~~coarseBit x
        if v == 0 then e.noRemote else { e with gsharers := v }
      else e
    | none => e
  (s.putEntry n k e1).finishTxn n i { t with ans := some { status := stOK } }

/-- A page is not offered again in this window (R100). -/
def State.barPage (s : State) (n pg : Nat) : State :=
  s.modSlice n (fun c => { c with replTable := kdel c.replTable pg,
                                  measure := kset c.measure pg { kgetD c.measure pg {} with writes := 2 ^ 32 } })

/-- A request writes a line (R100), and as RDO, UPG or WRI counts as a write in the measurement (R97). -/
def cohWrite (op : Nat) : Bool := op == opRDO || op == opUPG || op == opWRI || op == opATM

/-- The replicas of a page are invalidated before a write to it (R100); otherwise the table is applied. -/
def State.afterLookup (s : State) (n i : Nat) (t : Txn) : State :=
  let op := cohOp t.req.opcode.toNat
  let pg := keyPage t.line
  if op == opWBK then s.homeWbk n i t
  else if op == opEVC then s.homeEvc n i t
  else if cohWrite op && (kget (s.cadSlice n).replTable pg).isSome then
    let hs := (s.replicaHolders n pg).map (fun x => (Holder.tiolo x, opSPI))
    let s1 := s.sendSnoops n (32 * pg) hs
    if hs.isEmpty then (s1.barPage n pg).startTable n i t
    else s1.setTxn n i ({ t with spi := true }.waitFor (32 * pg) hs)
  else s.startTable n i t

/-- A request at its home starts: a severed Tiolo's is refused, dead and severed owners are resolved, the page is measured (R97, R102,
R103), and the table is applied. -/
def State.startHome (s : State) (n i : Nat) (t : Txn) : State :=
  let op := cohOp t.req.opcode.toNat
  let reader := match s.who t.req with
    | some (.tiolo x) => if op == opRDS then some x else none
    | _ => none
  let sev := match s.who t.req with
    | some (.tiolo x) => s.severed n x.toNat
    | _ => false
  let writes := cohWrite op && op != opATM
  let tracked := s.replOn n && (match s.extAt (keyOff t.line) with
    | some (_, x) => x.repl
    | none => false)
  if sev then s.finishTxn n i { t with ans := some { status := stAccessFault } }
  else
    let s0 := if tracked && (writes || reader.isSome) then s.measure n (keyPage t.line) writes reader else s
    let r := s0.resolveLines n t t.lines
    if r.2.waiting.isEmpty then r.1.afterLookup n i r.2 else r.1.setTxn n i { r.2 with resolving := true }

/-- The replicas are gone: the page is not offered again in this window, and the table is applied (R100). A recall only waits for them. -/
def State.spiDone (s : State) (n i : Nat) (t : Txn) : State :=
  let s1 := s.barPage n (keyPage t.line)
  if t.kind == .recall then s1.delTxn n i else s1.startTable n i { t with spi := false }

/-! ### Recalls (R95, R96, R102, R105) -/

/-- A recall whose snoops are answered: dirty data goes to memory and the entry is freed (R95). -/
def State.recallEnd (s : State) (n i : Nat) (t : Txn) : State :=
  let k := t.line
  match t.data k with
  | some d => if t.lost.contains k then (s.putEntry n k {}).delTxn n i
              else (s.waitFrame n i t (keyOff k)).getD
                (((s.homeWriteLine (keyOff k) d).putEntry n k {}).setTxn n i { t with applied := true, writes := 1 })
  | none => (s.putEntry n k {}).delTxn n i

/-- A line whose owner has been fetched: its data goes to memory, the owner is gone, other copies stay (R291 step 3). -/
def State.fetchEnd (s : State) (n i : Nat) (t : Txn) : State :=
  let k := t.line
  let e := (s.entry n k).noOwner
  let e1 := if e.gstate == GState.m then e.noRemote else e
  match t.data k with
  | some d => if t.lost.contains k then (s.putEntry n k e1).delTxn n i
              else (s.waitFrame n i t (keyOff k)).getD
                (((s.homeWriteLine (keyOff k) d).putEntry n k e1).setTxn n i { t with applied := true, writes := 1 })
  | none => (s.putEntry n k e1).delTxn n i

/-- Starts the recall of every copy of a home line (R95, R96). -/
def State.startRecall (s : State) (n k : Nat) : State :=
  let hs := s.snoopAll n (s.entry n k) none
  let t : Txn := { lines := [k], kind := .recall, req := {}, reply := false }
  let s1 := (s.sendSnoops n k hs)
  if hs.isEmpty then s1.putEntry n k {} else s1.addTxn n (t.waitFor k hs)

/-- The replicas of a page are invalidated; its lines are busy until every answer is in (R96, R100, R291 step 3). -/
def State.startSpi (s : State) (n pg : Nat) : State :=
  let hs := (s.replicaHolders n pg).map (fun x => (Holder.tiolo x, opSPI))
  let t : Txn := { lines := pageLines pg, kind := .recall, req := {}, reply := false, spi := true }
  if hs.isEmpty then s.barPage n pg else (s.sendSnoops n (32 * pg) hs).addTxn n (t.waitFor (32 * pg) hs)

/-- The proxy gives a line up to its home by WBK, with POI when its data is lost (R84, R95, R556). -/
def State.sendGiveUp (s : State) (n i : Nat) (t : Txn) : State :=
  let k := t.line
  let lost := !t.lost.isEmpty
  let d := if lost then List.replicate 128 0 else (t.data k).getD []
  let q : Packet :=
    { opcode := BitVec.ofNat 8 opWBK, len := 128, poi := lost, tid := t.req.tid, job := t.req.job, gfa := keyGfa k,
      dst := BitVec.ofNat 17 (keyHome k * 128), src := BitVec.ofNat 10 s.ix, agent := t.req.agent, payload := d }
  (s.issue q (.proxy n (BitVec.ofNat 49 k))).setTxn n i { t with atHome := true, applied := true }

/-- A victim at a proxy: with local dirty data by WBK, otherwise silently (R95). -/
def State.giveUpEnd (s : State) (n i : Nat) (t : Txn) : State :=
  let k := t.line
  if (t.data k).isSome || !t.lost.isEmpty then
    ((s.putEntry n k { (s.entry n k).noLocal with lostData := false }).count (pgCad n) 15).sendGiveUp n i t
  else ((s.putEntry n k {}).count (pgCad n) 15).delTxn n i

/-- Starts giving up a proxy entry (R95, R556). -/
def State.startGiveUp (s : State) (n k : Nat) (req : Packet) (reply : Bool) (lost : Bool) (but : Option (Fin 49)) : State :=
  let hs := (s.entry n k).snoopLocals (!lost) but
  let t : Txn := { lines := [k], kind := .giveUp, req := req, reply := reply, lost := if lost then [k] else [] }
  let i := (s.cadSlice n).txns.length
  let s1 := (s.sendSnoops n k hs).addTxn n (t.waitFor k hs)
  if hs.isEmpty then s1.giveUpEnd n i t else s1

/-- Frees a place in the backing set of a line (R95). -/
def State.backInvalidate (s : State) (n k : Nat) : State :=
  match s.setVictim n k with
  | none => s
  | some v =>
    let s1 := s.count (pgCad n) 3
    if keyHome v == s.ix then s1.startRecall n v
    else s1.startGiveUp n v { agent := agSlice n } false false none

/-! ### Requests at their home -/

/-- Bytes of data that a request's completion brings with OK. -/
def okLen (p : Packet) : Nat :=
  let op := p.opcode.toNat
  if op == opRDS || op == opRDO then 128 else if op == opRDN || op == opRDU then p.len else if op == opATM then 8 else 0

/-- A request that breaks R74 by an M or O owner (R3, R82, R84): some status, with OK data of no stated value, GRANT NC. The model's choice:
the entry and memory stay as they were. -/
def State.brokenRequest (s : State) (p : Packet) : State :=
  let st : Status := BitVec.ofNat 4 (s.freeNat 8 % 12)
  let s1 := s.took
  let s2 : State := { s1 with free := s1.free + ceilDiv (okLen p) 128 }
  s2.complete p st (s1.freeBytes (okLen p))

/-- The requester is the local agent recorded as the line's M or O owner, and the request is neither WBK nor UPG from the O owner (R82). -/
def DirEntry.breaksR74 (e : DirEntry) (op : Nat) (who : Option Holder) : Bool :=
  match who with
  | some (.agent a) => e.dirtyOwner == some a && op != opWBK && !(op == opUPG && e.lostate == LoState.o)
  | _ => false

/-- Where a coherent request stands among those of its line: it waits behind one in progress, or behind an earlier one that waits, unless
its turn has come (R65). -/
def State.mustWait (s : State) (n : Nat) (ls : List Nat) (how : Serve) : Bool :=
  ls.any (fun l => s.busyLine n l) || (how != .turn && s.queuedBefore n ls)

/-- Some lines' new entries do not fit into their backing sets: the first set that is short of places (R95). -/
def State.shortSet (s : State) (n : Nat) (ls : List Nat) : Option Nat :=
  let new := ls.filter (fun k => (kget (s.cadSlice n).entries k).isNone)
  if (s.cadSlice n).entries.isEmpty && new.length ≤ 16 then none
  else new.find? (fun k => decide (16 < ((s.cadSlice n).entries.filter (fun e => s.setIx e.1 == s.setIx k)).length +
    (new.filter (fun l => s.setIx l == s.setIx k)).length))

/-- A page that needs new entries has more lines in one backing set than the set has places: it can have no replica. -/
def State.overfull (s : State) (n : Nat) (ls : List Nat) : Bool :=
  ls.any (fun k => (kget (s.cadSlice n).entries k).isNone) && decide (16 < ls.length) &&
  ls.any (fun k => decide (16 < (ls.filter (fun l => s.setIx l == s.setIx k)).length))

/-- A page qualifies for a replica when its RPQ is ordered: replicas are on, its extent has REPL, it is a candidate, and the replica table and
the backing sets have room for it (R97–R99). -/
def State.qualifies (s : State) (n off : Nat) : Bool :=
  let pg := keyPage (s.lineKey off)
  s.replOn n && (match s.extAt off with
    | some (_, x) => x.repl
    | none => false) && s.candidate n pg &&
  ((kget (s.cadSlice n).replTable pg).isSome || decide ((s.cadSlice n).replTable.length < s.homeMax n)) && !s.overfull n (pageLines pg)

/-- The lines of a request's entries are fetched from the backing store, or the request starts (R94). -/
def State.openTxn (s : State) (n : Nat) (t : Txn) : State :=
  let i := (s.cadSlice n).txns.length
  if t.lines.any (fun l => (s.cadSlice n).spilled.contains l) then (s.count (pgCad n) 2).addTxn n { t with fetching := true }
  else (s.addTxn n t).startHome n i t

/-- An RPQ is taken up (R99): a page that does not qualify any more gets RETRY; new entries are made room for first (R95). -/
def State.serveRpq (s : State) (n : Nat) (p : Packet) (off : Nat) (how : Serve) : State :=
  let pg := keyPage (s.lineKey off)
  let ls := pageLines pg
  let s1 := s.lookup n ls
  let q := { p with len := 0x1000 }
  if how != .turn && s1.queuedBefore n ls then s1.queueConflict n off q
  else if !s1.qualifies n off then s1.complete q stRetry [] 0 0 false (132 + n)
  else match s1.shortSet n ls with
    | some k => (s1.backInvalidate n k).queueConflict n off q
    | none => s1.openTxn n { lines := ls, kind := .home, req := q }

/-- A coherent request is taken up at its home: it waits if its line is busy, recalls a victim if its set is full, fetches its entry
if that is in the backing store only, and otherwise starts (R65, R87, R94, R95). -/
def State.serveCoherent (s : State) (n : Nat) (p : Packet) (off : Nat) (how : Serve) : State :=
  let op := cohOp p.opcode.toNat
  let len := if op == opRDU || op == opWRI then reqBytes p else 1
  let lines := (linesOf off len).map (fun l => s.lineKey (128 * l))
  let spec := (op == opRDS || op == opRDO || op == opRDU) && s.bit (rCadCtl n) 1 && decide (s.readsOut n < s.fld (rCadCtl n) 23 16)
  let s1 := (s.lookup n lines).count (pgCad n) 4 (if spec then 1 else 0)
  let squashed := s1.count (pgCad n) 6 (if spec then 1 else 0)
  let k := lines.headD 0
  if op == opRPQ then s.serveRpq n p off how
  else if s1.mustWait n lines how then squashed.queueConflict n off p
  else if lines.any (fun l => (s1.entry n l).breaksR74 op (s1.who p)) then squashed.brokenRequest p
  else if (op == opRDS || op == opRDO || op == opUPG) && s1.setFull n k then (squashed.backInvalidate n k).queueConflict n off p
  else s1.openTxn n { lines := lines, kind := .home, req := p, spec := spec, reading := spec }

/-- A request to a non-coherent extent: served in one step, GRANT NC, nothing recorded (R57, R78); no page of it qualifies for a replica (R97,
R99). -/
def State.servePlain (s : State) (n : Nat) (p : Packet) (off : Nat) : State :=
  let op := cohOp p.opcode.toNat
  let res := if off < t0End then 128 + t0Stack off else 132 + n
  if op == opRDU || op == opRDS || op == opRDO then
    let a := if op == opRDU then off else off - off % 128
    let len := if op == opRDU then p.len else 128
    let st := if s.anyPoison a len then stPoison else stOK
    (s.verify a len).complete { p with len := len } st (s.readMem a len) 0 0 false res
  else if op == opATM then
    let r := s.atomicAt off p
    r.1.complete p r.2.1 r.2.2 0 0 false res
  else if op == opWRI then
    let r := s.storeLines off p (linesOf off p.payload.length)
    r.1.complete p r.2 [] 0 0 false res
  else s.complete p (if op == opRPQ then stRetry else stOK) [] 0 0 false res

/-- The request stores. -/
def storesOp (op : Nat) : Bool := op == opWRI || op == opATM

/-- What a request that passed its check meets when it is served: a line whose metadata were lost meanwhile (R105, R169), a slot that is
no longer available (R48), a Tiolo that was severed (R103). -/
def State.lateCheck (s : State) (p : Packet) (x : Extent) (off len : Nat) : Status :=
  let op := cohOp p.opcode.toNat
  let reads := op == opRDU || op == opRDS || op == opRDO || op == opRPQ
  let gone := match placeOf off with
    | .slot m => !s.slotAvail m && !(s.slotLost m && reads)
    | _ => false
  let sev := p.src.toNat != s.ix && s.severed (s.homeRegion off) p.src.toNat
  statusOf [(s.lostAt x off len, stFatal), (gone || sev, stAccessFault)]

/-- A request that has passed its check is served; it may be held for a PNM command, for a cache frame or under a quota
(R153, R166, R295). One that has waited since was ordered before any command that is now active could hold it (R291 step 3). -/
def State.memServe (s : State) (p : Packet) (off : Nat) (how : Serve) : State :=
  let op := cohOp p.opcode.toNat
  let n := s.homeRegion off
  let len := reqBytes p
  let a := reqAt p off
  let x := ((s.extAt off).map (fun e => e.2)).getD {}
  let st := s.lateCheck p x a len
  let writes := storesOp op || op == opWBK
  let held := if op == opEVC || how != .fresh then none else s.pnmHolds a len writes
  if st != stOK then s.complete p st [] 0 0 false (132 + n)
  else if held.isSome then
    let s1 := match held.bind s.slotPort with
      | some q => s.count (pgPort2 q) 5
      | none => s
    s1.modSlice n (fun c => { c with holdQ := c.holdQ ++ [(off, p)] })
  else if writes && s.t1Full x off p.agent then s.holdStore x.owner off p how
  else if writes || (!x.coh && asksData p.opcode.toNat) then
    match s.cacheLookup x off len writes p how with
    | .waits s1 => s1
    | .quota s1 => s1.complete p stQuota [] 0 0 false (132 + n)
    | .hit s1 => if x.coh then s1.serveCoherent n p off how else s1.servePlain n p off
  else if x.coh then s.serveCoherent n p off how
  else s.servePlain n p off

/-- What a request wants of its extent. -/
def wantOf (p : Packet) : Want :=
  let op := cohOp p.opcode.toNat
  if op == opWRI || op == opATM || op == opUPG then .store else if op == opRDO then .own
  else if op == opWBK || op == opEVC then
    (if 0xD00 ≤ p.agent.toNat && p.agent.toNat < 0xD04 then .giveUp else if op == opWBK then .writeBack else .notice)
  else .load

/-- The check of a request at its home: reserved forms, the map, its extent, readiness, write enable, severing, agent numbers
(R7, R48, R49, R60, R62, R68, R93, R103, R150, R344). -/
def State.memCheck (s : State) (p : Packet) : Target :=
  let op := cohOp p.opcode.toNat
  let off := if op == opRPQ then gfaOff p.gfa / 0x1000 * 0x1000 else gfaOff p.gfa
  let len := if op == opRDU then p.len else if op == opWRI then p.payload.length else if op == opRPQ then 0x1000 else 1
  let t := s.target off len p.job.toNat (wantOf p)
  let who := s.who p
  let sev := match who with
    | some (.tiolo y) => s.severed (s.homeRegion t.off) y.toNat
    | _ => false
  { t with status := statusOf [(t.status != stOK, t.status), (sev, stAccessFault),
      (who.isNone && (op == opRDS || op == opRDO || op == opUPG || op == opWBK || op == opEVC), stUnsupported),
      (op == opATM && atmAop p == 7, stUnsupported), (p.mask.isSome && p.len != 128, stUnsupported),
      (t.x.coh && !s.cadReady, stAccessFault), ((storesOp op || op == opWBK) && s.readOnly t.off, stAccessFault)] }

/-- RDN, WRN, ATM, RDS, RDO, UPG, RDU, WRI, EVC, WBK, RPQ at their home: ordered by the home arbiter, checked, then served (R64, R82, R346). -/
def State.memRequest (s : State) (p : Packet) : State :=
  let op := cohOp p.opcode.toNat
  let c := s.memCheck p
  let n := s.homeRegion c.off
  let s1 := s.tick (aidCad n)
  if c.status == stOK then s1.memServe p c.off .fresh
  else
    let s2 := if (storesOp op || op == opWBK) && s.readOnly c.off then s1.count pgTl 15 else s1
    let s3 := match s.extAt c.off with
      | some (_, x) => s2.countRevoked c.status x.owner
      | none => s2
    s3.complete p c.status [] 0 0 false (132 + n)

end Sys2Proof.Machine
end

