-- ==== Sys2Proof/Machine/Proxy.lean ====
section
/-!
DEFINITION. The proxy of a Tiolo for its local agents' copies of remote lines (R84–R86, R95, R99, R101, R556).
-/
namespace Sys2Proof.Machine

/-- Sends a transaction's request on to the line's home, under the requester's own tag (R84). -/
def State.toHome (s : State) (n i : Nat) (t : Txn) (op : Nat) (data : List Byte) : State :=
  let q : Packet :=
    { t.req with opcode := BitVec.ofNat 8 op, cls := 0, hop := 0, gfa := keyGfa t.line, dst := BitVec.ofNat 17 (keyHome t.line * 128),
                 src := BitVec.ofNat 10 s.ix, len := if op == opRDS || op == opRDO || op == opWBK then 128 else 0, payload := data,
                 poi := t.req.poi || !t.lost.isEmpty }
  (s.issue q (.proxy n (BitVec.ofNat 49 t.line))).setTxn n i { t with atHome := true }

/-- A local request at the proxy completes. -/
def State.proxyDone (s : State) (n i : Nat) (t : Txn) (st : Status) (data : List Byte) (flags : BitVec 3) (grant : BitVec 2) : State :=
  let s1 := s.delTxn n i
  if t.reply then s1.complete { t.req with len := 128 } st data flags grant false (132 + n) else s1

/-- The local agent of a proxy transaction. -/
def State.txnAgent (s : State) (t : Txn) : Option (Fin 49) := s.agentNo t.req.agent

/-- The local agent of a proxy transaction, when a completion is owed to it and it is not dead (R102). -/
def State.liveAgent (s : State) (n : Nat) (t : Txn) : Option (Fin 49) :=
  (s.txnAgent t).filter (fun a => t.reply && !(s.cadSlice n).sweeping.contains a.val)

/-- The requester becomes the only local holder, in M (R84). -/
def State.takeM (s : State) (n : Nat) (t : Txn) : State :=
  let e := s.entry n t.line
  let e1 : DirEntry := { e.noLocal with gstate := .m, lostData := false }
  s.putEntry n t.line (match s.liveAgent n t with
    | some a => e1.setOwner a .m
    | none => e1)

/-- The line's data is lost: every other local holder is invalidated, then the line goes home poisoned (R556). -/
def State.loseLocal (s : State) (n i : Nat) (t : Txn) : State :=
  let k := t.line
  let hs := (s.entry n k).snoopLocals false none
  let t1 : Txn := { ({ t with kind := .giveUp, lost := [k] } : Txn).waitFor k hs with ans := none }
  let s1 := s.sendSnoops n k hs
  if hs.isEmpty then s1.giveUpEnd n i t1 else s1.setTxn n i t1

/-- A proxy transaction whose local snoops are answered (R84). -/
def State.proxyEnd (s : State) (n i : Nat) (t : Txn) : State :=
  let op := t.req.opcode.toNat
  let k := t.line
  let e := s.entry n k
  match t.ans with
  | some c => (s.takeM n t).proxyDone n i t c.status c.payload c.flags 3
  | none =>
    if op == opWBK then (s.putEntry n k { e.noLocal with gstate := .m }).toHome n i t opWBK t.req.payload
    else if !t.lost.isEmpty || (t.data k).isNone && e.dirtyOwner.any (fun b => (s.cadSlice n).sweeping.contains b.val) then s.loseLocal n i t
    else if op == opRDS then
      match t.data k, e.owner, s.liveAgent n t with
      | some d, some b, r =>
        let e1 := e.setOwner b .o
        (s.putEntry n k ((r.map e1.addSharer).getD e1)).proxyDone n i t stOK d 0 1
      | _, some b, _ => (s.putEntry n k ((e.noOwner).addSharer b)).toHome n i t opRDS []
      | _, none, _ => s.toHome n i t opRDS []
    else if e.gstate == GState.m then
      if op == opUPG then (s.takeM n t).proxyDone n i t stOK [] 0 3
      else match t.data k with
        | some d => if (s.liveAgent n t).isSome then (s.takeM n t).proxyDone n i t stOK d 0 3 else s.giveUpEnd n i { t with kind := .giveUp }
        | none => (s.putEntry n k { e.noLocal with gstate := .m }).toHome n i t opRDS []
    else s.toHome n i t op []

/-- Starts local snoops of a proxy transaction, or goes on at once. -/
def State.proxySnoops (s : State) (n i : Nat) (t : Txn) (hs : List (Holder × Nat)) : State :=
  let t1 := t.waitFor t.line hs
  let s1 := s.sendSnoops n t.line hs
  if hs.isEmpty then s1.proxyEnd n i t1 else s1.setTxn n i t1

/-- A replica page serves a read (R84, R99). -/
def State.fromReplica (s : State) (n i : Nat) (t : Txn) (a : Fin 49) (pool : Nat) : State :=
  let k := t.line
  let e := s.entry n k
  let off := pool + k % 32 * 128
  let hold (c : CadSlice) : KMap (BitVec 49) := kset c.replHolders k (kgetD c.replHolders k 0 ||| agentBit a)
  let s1 := (s.putEntry n k ({ e with gstate := .s }.addSharer a)).modSlice n (fun c => { c with replHolders := hold c })
  if s.anyPoison off 128 then s1.proxyDone n i t stPoison [] 0 0 else s1.proxyDone n i t stOK (s1.readMem off 128) 0 1

/-- A local request at the proxy: the table of R84. -/
def State.startProxy (s : State) (n i : Nat) (t : Txn) : State :=
  let k := t.line
  let op0 := t.req.opcode.toNat
  match s.txnAgent t with
  | none => s.proxyDone n i t stUnsupported [] 0 0
  | some a =>
    let dead (b : Fin 49) : Bool := (s.cadSlice n).sweeping.contains b.val
    let e0 := (((s.entry n k).locals.filter dead).foldl DirEntry.dropAgent (s.entry n k))
    if (s.entry n k).dirtyOwner.any dead then (s.putEntry n k e0).loseLocal n i t
    else if op0 == opWBK then
      if e0.owner == some a && e0.gstate == GState.m then
        s.proxySnoops n i t (e0.snoopLocals false (some a))
      else s.proxyDone n i t stOK [] 0 0
    else if op0 == opEVC then
      let e1 := e0.dropAgent a
      if e1.gstate == GState.s && e1.locals.isEmpty then (s.putEntry n k {}).toHome n i t opEVC []
      else (s.putEntry n k e1).proxyDone n i t stOK [] 0 0
    else
      let up := op0 == opUPG && !e0.mayUpgrade (some (.agent a))
      let t1 := if up then { t with req := { t.req with opcode := BitVec.ofNat 8 opRDO, len := 128 } } else t
      let op := if up then opRDO else op0
      let e := if op == opUPG then e0 else e0.forget a
      let s1 := s.putEntry n k e
      if op == opRDS then
        if e.gstate == GState.m && e.owner.isSome then s1.proxySnoops n i t1 (e.snoopDown none)
        else match (if e.gstate == GState.m then none else kget (s1.cadSlice n).replicas (keyPage k)) with
          | some pool => s1.fromReplica n i t1 a pool
          | none => s1.toHome n i t1 opRDS []
      else if e.gstate == GState.m then s1.proxySnoops n i t1 (e.snoopLocals true (some a))
      else s1.toHome n i t1 (if op == opUPG && e.gstate == GState.s then opUPG else opRDO) []

/-- A local request for a remote line reaches its proxy slice (R84); as at a home it may wait, recall or fetch (R65, R94, R95). -/
def State.proxyServe (s : State) (p : Packet) (how : Serve) : State :=
  let k := p.gfa.toNat / 128
  let n := keyOff k / 0x1000 % 4
  let op := p.opcode.toNat
  let s1 := s.lookup n [k]
  if s1.mustWait n [k] how then s1.queueConflict n 0 p
  else if (s1.entry n k).breaksR74 op (s1.who p) then s1.brokenRequest p
  else if (op == opRDS || op == opRDO || op == opUPG) && s1.setFull n k then (s1.backInvalidate n k).queueConflict n 0 p
  else
    let i := (s1.cadSlice n).txns.length
    let t : Txn := { lines := [k], kind := .proxy, req := p }
    if (s1.cadSlice n).spilled.contains k then (s1.count (pgCad n) 2).addTxn n { t with fetching := true }
    else (s1.addTxn n t).startProxy n i t

/-- RDS, RDO, UPG, EVC, WBK of a local agent for a remote line: ordered by the proxy slice, refused until the slices are ready or to a
requester without an agent number, then served (R68, R84, R93). -/
def State.proxyRequest (s : State) (p : Packet) : State :=
  let n := gfaOff p.gfa / 0x1000 % 4
  let s1 := s.tick (aidCad n)
  let st := statusOf [((s.who p).isNone, stUnsupported), (!s.cadReady, stAccessFault)]
  if st == stOK then s1.proxyServe p .fresh else s1.complete { p with len := 128 } st [] 0 0 false (132 + n)

/-- The free pages of the replica pool, lowest first (R99, R101). -/
def State.freeReplicaPage (s : State) : Option Nat :=
  let used := (List.range 4).flatMap (fun n => ((s.cadSlice n).replicas ++ (s.cadSlice n).replPending).map (fun e => e.2))
  ((List.range (min (used.length + 1) (s.poolGib * 2 ^ 18))).map (fun i => s.replBase + 0x1000 * i)).find? (fun a => !used.contains a)

/-- An offered replica page is accepted by RPQ when the pool has a free page and replicas are enabled (R99). -/
def State.takeOffer (s : State) (n : Nat) (c : Packet) : State :=
  let pg := c.gfa.toNat / 0x1000
  match s.freeReplicaPage with
  | some a =>
    if c.offer && s.replOn n && (kget (s.cadSlice n).replicas pg).isNone && (kget (s.cadSlice n).replPending pg).isNone then
      let q : Packet :=
        { opcode := BitVec.ofNat 8 opRPQ, len := 4096, tid := c.tid, job := c.job, gfa := BitVec.ofNat 56 (0x1000 * pg),
          dst := BitVec.ofNat 17 (gfaHome c.gfa * 128), src := BitVec.ofNat 10 s.ix, agent := agSlice n }
      (s.modSlice n (fun z => { z with replPending := kset z.replPending pg a })).issue q (.proxy n (BitVec.ofNat 49 (32 * pg)))
    else s
  | none => s

/-- The answer to an RPQ: the page is stored in the pool, or its pool page is freed (R99). -/
def State.pageArrives (s : State) (n pg : Nat) (c : Packet) : State :=
  match kget (s.cadSlice n).replPending pg with
  | none => s
  | some a =>
    let s1 := s.modSlice n (fun z => { z with replPending := kdel z.replPending pg })
    if c.status == stOK then
      ((s1.writeMem a (slice c.payload 0 0x1000)).modSlice n (fun z => { z with replicas := kset z.replicas pg a })).count (pgCad n) 12
    else s1

/-- Local requests for a line that has been given up complete with POISON (R556). -/
def State.poisonWaiters (s : State) (n k : Nat) : State :=
  let hit (e : Nat × Packet) : Bool := e.2.cls == 0 && e.2.gfa.toNat / 128 == k
  let l := (s.cadSlice n).conflictQ.filter hit
  let s1 := s.modSlice n (fun c => { c with conflictQ := c.conflictQ.filter (fun e => !hit e) })
  l.foldl (fun s e => s.complete { e.2 with len := 128 } stPoison) s1

/-- The home's CMP to a proxy's request (R84, R556). -/
def State.proxyCmp (s : State) (n i : Nat) (t0 : Txn) (c : Packet) : State :=
  let t := { t0 with atHome := false }
  let k := t.line
  let e := s.entry n k
  let op := t.req.opcode.toNat
  if t.kind == .giveUp then
    let s1 := (if c.status == stTimeout then s else s.putEntry n k {}).delTxn n i
    if t.lost.isEmpty then s1
    else
      let s2 := s1.poisonWaiters n k
      if t.reply then s2.complete { t.req with len := 128 } stPoison else s2
  else if op == opWBK then
    (if c.status == stTimeout then s else s.putEntry n k {}).proxyDone n i t c.status [] c.flags 0
  else if op == opEVC then s.proxyDone n i t c.status [] c.flags 0
  else if op == opRDS then
    if c.grant == 0 then s.proxyDone n i t c.status c.payload c.flags 0
    else
      let held : GState := if c.grant == 3 then .m else if e.gstate == GState.m then .m else .s
      match s.liveAgent n t with
      | none => (s.putEntry n k { e with gstate := held }).proxyDone n i t c.status c.payload c.flags 0
      | some a =>
        let alone := e.locals.isEmpty && held == GState.m
        let e1 : DirEntry := { e with gstate := held }
        let e2 := if alone then e1.setOwner a .e else e1.addSharer a
        ((s.putEntry n k e2).proxyDone n i t c.status c.payload c.flags (if alone then 2 else 1)).takeOffer n c
  else if e.gstate == GState.m then (s.takeM n t).proxyDone n i t c.status c.payload c.flags 3
  else if c.grant == 3 then
    let s1 := s.putEntry n k { e with gstate := .m }
    let hs := e.snoopLocals false (s.txnAgent t)
    s1.proxySnoops n i { t with ans := some c } hs
  else if c.grant == 1 then (s.putEntry n k { e with gstate := .s }).toHome n i t opRDO []
  else s.proxyDone n i t c.status c.payload c.flags 0

/-! ### The home's snoops (R85, R86) -/

/-- The proxy answers a home's snoop. -/
def State.answerHome (s : State) (p : Packet) (data : Option (List Byte)) (lost : Bool) : State :=
  s.send (s.snoopAnswerPkt p.src p.agent p.tid p.gfa data lost)

/-- The data of a write-back that the proxy has in flight for a line (R80, R83), and whether it goes home poisoned. -/
def State.inFlight (s : State) (n k : Nat) : Option Txn :=
  (s.cadSlice n).txns.find? (fun t => t.lines.contains k && t.atHome && (t.kind == .giveUp || t.req.opcode.toNat == opWBK))

/-- A home's snoop whose local snoops are answered (R85). -/
def State.snoopEnd (s : State) (n i : Nat) (t : Txn) : State :=
  let p := t.req
  let op := p.opcode.toNat
  let k := t.line
  let s0 := s.delTxn n i
  if op == opSPI then s0.answerHome p none false
  else
    let e := s0.entry n k
    let fl := s0.inFlight n k
    let lost := e.lostData || !t.lost.isEmpty || (match fl with
      | some f => !f.lost.isEmpty
      | none => false)
    let d := match t.data k with
      | some b => some b
      | none => (match fl with
          | some f => if f.kind == .giveUp then f.data k else some f.req.payload
          | none => none)
    let e1 := if op == opSND && !lost then
        (match e.owner with
          | some b => { (e.noOwner).addSharer b with gstate := .s }
          | none => { e with gstate := .s })
      else {}
    let s1 := s0.putEntry n k e1
    if lost then s1.answerHome p none true
    else if op == opSNI then s1.answerHome p none false
    else s1.answerHome p d false

/-- SNI, SND, SNF at the proxy: local holders are snooped first, then the home is answered (R85, R86). -/
def State.proxySnoop (s : State) (p : Packet) : State :=
  let k := p.gfa.toNat / 128
  let n := keyOff k / 0x1000 % 4
  let op := p.opcode.toNat
  let s := s.lookup n [k]
  let e := s.entry n k
  if s.roundOn n k then s.modSlice n (fun c => { c with conflictQ := c.conflictQ ++ [(0, p)] })
  else if e.isFree && (s.inFlight n k).isNone then s.answerHome p none false
  else
    let hs := if op == opSND && !e.lostData then e.snoopDown none |>.filter (fun h => match h.1 with
        | .agent _ => true
        | .tiolo _ => false)
      else e.snoopLocals (op != opSNI) none
    let i := (s.cadSlice n).txns.length
    let t : Txn := { ({ lines := [k], kind := .snoop, req := p, reply := false } : Txn) with waiting := hs.map (fun h => (k, h.1)) }
    let s1 := (s.sendSnoops n k hs).addTxn n t
    if hs.isEmpty then s1.snoopEnd n i t else s1

/-- SPI: the replica page goes, and so do the local copies served from it (R85). -/
def State.proxySpi (s : State) (p : Packet) : State :=
  let pg := p.gfa.toNat / 0x1000
  let n := gfaOff p.gfa / 0x1000 % 4
  let had := (kget (s.cadSlice n).replicas pg).isSome
  let hs := (pageLines pg).flatMap (fun k =>
    (((List.finRange 49).filter (fun a => (kgetD (s.cadSlice n).replHolders k 0).getLsbD a.val && (s.entry n k).lsharers.getLsbD a.val)).map
      (fun a => (k, a))))
  let s1 := s.modSlice n (fun c => { c with replicas := kdel c.replicas pg, replHolders := c.replHolders.filter (fun e => keyPage e.1 != pg) })
  let s2 := s1.count (pgCad n) 13 (if had then 1 else 0)
  let s3 := hs.foldl (fun s h => (s.sendSnoop n h.1 (.agent h.2) opSNI).putEntry n h.1 ((s.entry n h.1).dropSharer h.2)) s2
  let i := (s3.cadSlice n).txns.length
  let t : Txn := { lines := (32 * pg) :: hs.map (fun h => h.1), kind := .snoop, req := p, reply := false,
                   waiting := hs.map (fun h => (h.1, Holder.agent h.2)) }
  if hs.isEmpty then (s3.addTxn n t).snoopEnd n i t else s3.addTxn n t

end Sys2Proof.Machine
end

