-- ==== Sys2Proof/Machine/Cadastre.lean ====
section
/-!
DEFINITION. The cadastre's commands (chapter 3): requests, snoops and answers, memory and backing-store events, the conflict queue,
replicas, failures of agents, Tiolos and entries, and the slice's control registers.
-/
namespace Sys2Proof.Machine

/-! ### Agents of ports that leave their parcel (R69, R436) -/

/-- The parcel of a port gives it up: its composition removes the port, or its release removes every unit (R436 step 2, R440). -/
def State.portGone (s : State) (p : Nat) : Bool :=
  match s.portParcel p with
  | none => false
  | some n => s.portLeaves n p || (match (kgetD s.parcels n {}).compose with
    | some c => c.op == 4 && c.removing
    | none => false)

/-- An agent holds lines, or an answer of its own is awaited. -/
def State.agentHolds (s : State) (a : Nat) : Bool :=
  (List.range 4).any (fun i =>
    (s.cadSlice i).entries.any (fun e => (e.2.lowner == a && e.2.lostate != .none) || e.2.lsharers.getLsbD a) ||
    (s.cadSlice i).txns.any (fun t => t.waiting.any (fun w => w.2 == .agent (Fin.ofNat 49 a))))

/-- A request of a port's agents is in flight. -/
def State.portInFlight (s : State) (p : Nat) : Bool :=
  s.recov.trackers.any (fun t => t.req.src.toNat == s.ix && decide (t.req.agent.toNat < 2048) && t.req.agent.toNat % 128 == p)

/-- The agent of a port that leaves its parcel has given up its last line: its number is free (R69, R436 step 2). -/
def State.leaver (s : State) (p : Nat) : State :=
  match s.agentOfPort p with
  | some a => if s.portGone p && !s.agentHolds a && !s.portInFlight p then s.bindAgent a none else s
  | none => s

/-- Every agent of a port that leaves its parcel. -/
def State.leavers (s : State) : State :=
  (List.range 32).foldl (fun s a => match s.portOfAgent a with
    | some p => s.leaver p
    | none => s) s

/-! ### Transactions go on -/

/-- Transaction i goes on when nothing it waits for is outstanding (R83–R85, R95, R100). -/
def State.advance (s : State) (n i : Nat) : State :=
  match s.txn n i with
  | none => s
  | some t =>
    if !t.waiting.isEmpty || t.fetching || t.atHome || t.framing then s
    else if t.resolving then s.afterLookup n i { t with resolving := false }
    else if t.spi then s.spiDone n i t
    else if t.applied then (if t.writes == 0 then s.finishTxn n i t else s)
    else match t.kind with
      | .home => s.homeEnd n i t
      | .proxy => s.proxyEnd n i t
      | .snoop => s.snoopEnd n i t
      | .recall => (s.recallEnd n i t).leavers
      | .fetch => s.fetchEnd n i t
      | .giveUp => s.giveUpEnd n i t

/-- The index of the first transaction of a slice that satisfies a test. -/
def State.txnIx (s : State) (n : Nat) (q : Txn → Bool) : Option Nat := (s.cadSlice n).txns.findIdx? q

/-- A holder's answer is in, or its silence has been resolved: the transaction that waited for it goes on (R83, R85, R104, R556). -/
def State.holderAnswers (s : State) (n k : Nat) (h : Holder) (data : Option (List Byte)) (lost : Bool) : State :=
  match s.txnIx n (fun t => t.waiting.contains (k, h)) with
  | none => s
  | some i =>
    match s.txn n i with
    | none => s
    | some t =>
      let e := s.entry n k
      let dirty := e.dirtyAt h
      let gone := lost && dirty && data.isNone
      let isProxy := keyHome k != s.ix
      let t1 := { t with waiting := t.waiting.erase (k, h),
                         got := (match data with
                           | some d => if t.got.any (fun g => g.1 == k) then t.got else t.got ++ [(k, slice d 0 128)]
                           | none => t.got),
                         lost := if gone then insertNew t.lost k else t.lost }
      let e1 := match h with
        | .agent a => if lost && data.isNone && isProxy then e.dropAgent a else e
        | .tiolo _ => e
      let s1 := if lost && data.isNone && isProxy then s.putEntry n k e1 else s
      if gone && !isProxy then
        let hs := ((s1.snoopAll n (e.noRemote) (some h)) ++ (s1.snoopAll n (e.noLocal) (some h))).filter
          (fun g => !t1.waiting.contains (k, g.1))
        let s2 := (s1.writePoisoned n k).sendSnoops n k (hs.map (fun g => (g.1, opSNI)))
        (s2.setTxn n i (t1.waitFor k hs)).advance n i
      else if gone && t1.kind == .snoop then
        let hs := (e1.snoopLocals false none).filter (fun g => !t1.waiting.contains (k, g.1))
        ((s1.sendSnoops n k hs).setTxn n i (t1.waitFor k hs)).advance n i
      else (s1.setTxn n i t1).advance n i

/-- SAK and SDA (R77): the answer's line and slice, and who answers. -/
def State.snoopReply (s : State) (p : Packet) (data : Option (List Byte)) (lost : Bool) : State :=
  let k := p.gfa.toNat / 128
  let n := s.keySlice k
  let s1 := s.tick (aidCad n)
  match s1.who p with
  | some h => s1.holderAnswers n k h data lost
  | none => s1

/-! ### Lost entries (R105) -/

/-- Every holder that a home line could have: all local agents bound, and every Tiolo present (R105). -/
def State.allHolders (s : State) (n : Nat) : List (Holder × Nat) :=
  ((List.finRange 49).filter (fun a => 32 ≤ a.val || (s.portOfAgent a.val).isSome)).map (fun a => (Holder.agent a, opSNI)) ++
  (s.coarse n (BitVec.allOnes 128)).map (fun t => (Holder.tiolo t, opSNI))

/-- A home line whose entry is lost: written poisoned, every possible holder invalidated (R105). -/
def State.loseEntry (s : State) (n k : Nat) : State :=
  let s1 := s.writePoisoned n k
  let hs := s1.allHolders n
  match s1.txnIx n (fun t => t.lines.contains k) with
  | some i => (match s1.txn n i with
    | some t =>
      let new := hs.filter (fun h => !t.waiting.contains (k, h.1))
      (s1.sendSnoops n k new).setTxn n i (({ t with lost := insertNew t.lost k } : Txn).waitFor k new)
    | none => s1)
  | none =>
    let t : Txn := { lines := [k], kind := .recall, req := {}, reply := false, lost := [k] }
    let s2 := (s1.putEntry n k {}).sendSnoops n k hs
    if hs.isEmpty then s2 else s2.addTxn n (t.waitFor k hs)

/-- Lines of an extent lose their directory state: requests to them complete with FATAL, and the owner gets a FATAL event that names the
range from the first to the last of them (R105, R452). -/
def State.fatalLines (s : State) (n e : Nat) (ls : List Nat) : State :=
  let x := s.ext e
  let lo := ls.foldl min (ls.headD 0)
  let hi := ls.foldl max 0
  (s.setExt e { x with lostLines := ls.foldl insertNew x.lostLines }).fatalEvent x.owner (pgCad n) (aidCad n) (128 * (hi + 1 - lo))
    (s.ix * 2 ^ 46 + 128 * lo)

/-- The coherent lines of an extent that are homed in a region, and the whole of a WB extent, are lost: the owner gets a FATAL event. The
coherent lines of a module slot are written poisoned (R105, R169); those of T0 stand in the stack itself. -/
def State.fatalRegion (s : State) (n e : Nat) : State :=
  let x := s.ext e
  let span (m : Mem) : List (Nat × Nat) := match placeOf x.base with
    | .slot _ => if x.coh then m.spans ++ [(x.base / 128, x.base / 128 + 32 * x.pages)] else m.spans
    | _ => m.spans
  ((s.setExt e { x with fatal := x.fatal || x.wb, lostRegions := if x.coh then x.lostRegions ||| BitVec.ofNat 4 (2 ^ n) else x.lostRegions }).onMem
    (fun m => { m with spans := span m })).fatalEvent x.owner (pgCad n) (aidCad n) (x.pages * 0x1000) (s.ix * 2 ^ 46 + x.base)

/-- The home lines among some are written poisoned and invalidated; the proxy lines keep LOSTDATA for their home's snoop (R86, R105). -/
def State.loseLines (s : State) (n : Nat) (ks : List Nat) : State :=
  let home := ks.filter (fun k => keyHome k == s.ix)
  let proxy := ks.filter (fun k => keyHome k != s.ix && (kget (s.cadSlice n).entries k).isSome)
  proxy.foldl (fun s k => s.putEntry n k { s.entry n k with lostData := true }) (home.foldl (fun s k => s.loseEntry n k) s)

/-- An error covers some lines: they are lost, and each extent that holds some of them (R105). -/
def State.entryError (s : State) (n : Nat) (ks : List Nat) : State :=
  let home := ks.filter (fun k => keyHome k == s.ix)
  let exts := (home.filterMap (fun k => (s.extAt (keyOff k)).map (fun e => e.1))).eraseDups
  exts.foldl (fun s e => s.fatalLines n e ((home.filter (fun k => (s.ext e).covers (keyOff k))).map (fun k => keyOff k / 128))) (s.loseLines n ks)

/-! ### Injected errors (R530, R531) -/

/-- The page whose INJECT POISON covers a line read: its HBM controller, or the second page of its module's port (R530). -/
def State.poisonPage (s : State) (a : Nat) : Option Nat :=
  match placeOf (s.dataAt a) with
  | .t0 => some (pgHbm (t0Stack (s.dataAt a)))
  | .slot m => (s.slotPort m).map pgPort2
  | _ => none

/-- Takes an injected POISON for each of some lines that an armed page covers; the lines taken are returned. -/
def State.injectPoison (s : State) : List Nat → State × List Nat
  | [] => (s, [])
  | l :: rest =>
    let r := match s.poisonPage (128 * l) with
      | some pg => s.takeInject pg 1
      | none => none
    match r with
    | some s1 =>
      let z := s1.injectPoison rest
      (z.1, if s.marked l then z.2 else l :: z.2)
    | none => s.injectPoison rest

/-- Does `f` with some lines reading as POISON; no stored mark changes (R530). -/
def State.withPoison (s : State) (ls : List Nat) (f : State → State) : State :=
  if ls.isEmpty then f s
  else
    let s1 := f { s with mem := { s.mem with poison := s.mem.poison ++ ls } }
    { s1 with mem := { s1.mem with poison := s1.mem.poison.filter (fun l => !ls.contains l) } }

/-- An armed ENTRY_ECC makes the lookup of these lines fail as R105 says (R530, R531). -/
def State.injectEntry (s : State) (n : Nat) (ks : List Nat) : State :=
  match s.takeInject (pgCad n) 5 with
  | some s1 => (s1.count (pgCad n) 16).entryError n ks
  | none => s

/-- The local line numbers that a request reads. -/
def readLines (p : Packet) (off : Nat) : List Nat :=
  if cohOp p.opcode.toNat == opRDU then linesOf off p.len
  else if p.opcode.toNat == opRDS || p.opcode.toNat == opRDO then [off / 128] else []

/-- A request at its home, under the injections that are armed there. -/
def State.homeRequest (s : State) (p : Packet) : State :=
  let c := s.memCheck p
  let n := s.homeRegion c.off
  if c.status != stOK then s.memRequest p
  else if c.x.coh then (s.injectEntry n [s.lineKey c.off]).memRequest p
  else
    let r := s.injectPoison (readLines p c.off)
    r.1.withPoison r.2 (fun s => s.memRequest p)

/-! ### Requests -/

/-- A request at the Tiolo that homes it, or at the proxy of its requester's Tiolo (R84). While a queue of the slice is full, none reaches
it, for want of credits (R66, R295). -/
def State.cadRequest (s : State) (p0 : Packet) : State :=
  let p := { p0 with cls := 0 }
  let k := p.gfa.toNat / 128
  if gfaHome p.gfa == s.ix then s.onlyIf (!s.sliceFull (s.homeRegion (s.memCheck p).off)) (fun s => s.homeRequest p)
  else if p.src.toNat == s.ix then s.onlyIf (!s.sliceFull (s.keySlice k)) (fun s => (s.injectEntry (s.keySlice k) [k]).proxyRequest p)
  else s

/-- RDS (R82, R84). -/
def execRds (p : Packet) (s : State) : Host.Outcome State Fault Refusal := .next (s.cadRequest { p with opcode := BitVec.ofNat 8 opRDS })
/-- RDO (R82, R84). -/
def execRdo (p : Packet) (s : State) : Host.Outcome State Fault Refusal := .next (s.cadRequest { p with opcode := BitVec.ofNat 8 opRDO })
/-- UPG (R82, R84). -/
def execUpg (p : Packet) (s : State) : Host.Outcome State Fault Refusal := .next (s.cadRequest { p with opcode := BitVec.ofNat 8 opUPG })
/-- EVC (R82, R84). -/
def execEvc (p : Packet) (s : State) : Host.Outcome State Fault Refusal := .next (s.cadRequest { p with opcode := BitVec.ofNat 8 opEVC })
/-- WBK (R82, R84). -/
def execWbk (p : Packet) (s : State) : Host.Outcome State Fault Refusal := .next (s.cadRequest { p with opcode := BitVec.ofNat 8 opWBK })

/-- RPQ (R99): it is ordered and checked as a request for its page, an offer to its Tiolo is taken, and candidacy is checked again. -/
def State.rpq (s : State) (p : Packet) : State :=
  let n := s.homeRegion (gfaOff p.gfa / 0x1000 * 0x1000)
  (s.modSlice n (fun c => { c with offers := c.offers.filter (· != (p.gfa.toNat / 0x1000, p.src)) })).cadRequest { p with len := 0x1000 }

def execRpq (p : Packet) (s : State) : Host.Outcome State Fault Refusal :=
  .next (s.onlyIf (gfaHome p.gfa == s.ix) (fun s => s.rpq { p with opcode := BitVec.ofNat 8 opRPQ }))

/-! ### Snoops at a proxy, and answers -/

/-- A snoop from a home that is not this Tiolo is ordered by the proxy's slice (R85). -/
def State.snooped (s : State) (p : Packet) (f : State → State) : State :=
  if gfaHome p.gfa == s.ix then s else f (s.tick (aidCad (gfaOff p.gfa / 0x1000 % 4)))

/-- SNI (R85). -/
def execSni (p : Packet) (s : State) : Host.Outcome State Fault Refusal :=
  .next (s.snooped p (fun s => s.proxySnoop { p with opcode := BitVec.ofNat 8 opSNI, cls := 1 }))
/-- SND (R85). -/
def execSnd (p : Packet) (s : State) : Host.Outcome State Fault Refusal :=
  .next (s.snooped p (fun s => s.proxySnoop { p with opcode := BitVec.ofNat 8 opSND, cls := 1 }))
/-- SNF (R85). -/
def execSnf (p : Packet) (s : State) : Host.Outcome State Fault Refusal :=
  .next (s.snooped p (fun s => s.proxySnoop { p with opcode := BitVec.ofNat 8 opSNF, cls := 1 }))
/-- SPI (R85). -/
def execSpi (p : Packet) (s : State) : Host.Outcome State Fault Refusal :=
  .next (s.snooped p (fun s => s.proxySpi { p with opcode := BitVec.ofNat 8 opSPI, cls := 1 }))
/-- SAK (R77): a snoop answer without data. -/
def execSak (p : Packet) (lost : Bool) (s : State) : Host.Outcome State Fault Refusal := .next (s.snoopReply p none lost)
/-- SDA (R77): a snoop answer with the line. -/
def execSda (p : Packet) (lost : Bool) (s : State) : Host.Outcome State Fault Refusal := .next (s.snoopReply p (some p.payload) lost)

/-! ### Memory controller and backing store -/

/-- The memory controller accepts a write of a transaction (R83). -/
def State.memWriteAccepted (s : State) (n k : Nat) : State :=
  match s.txnIx n (fun t => t.lines.contains k && t.applied && decide (0 < t.writes) && !t.atHome) with
  | none => s
  | some i => match s.txn n i with
    | none => s
    | some t => (s.setTxn n i { t with writes := t.writes - 1 }).advance n i

def execMemWriteAccepted (n : SliceIx) (line : BitVec 49) (s : State) : Host.Outcome State Fault Refusal :=
  .next (s.memWriteAccepted n line.toNat)

/-- Memory data returns for a transaction. A used read of a cached page takes part in the write-back cache; a speculative read does so
only once it is used (R88, R89, R166). -/
def State.memReadDone (s : State) (n k : Nat) : State :=
  match s.txnIx n (fun t => t.lines.contains k && t.reading && !t.framing) with
  | none => s
  | some i => match s.txn n i with
    | none => s
    | some t =>
      let off := keyOff t.line
      let x := ((s.extAt off).map (fun e => e.2)).getD {}
      let used := t.waiting.isEmpty
      if used && t.lines.any (fun l => (t.data l).isNone) && s.cached x off then
        match kget s.tier.frames (off / 0x1000) with
        | none => (match s.allocFrame off x.owner false [] with
          | .hit s1 => (s1.setTxn n i { t with reading := false, memOk := true }).advance n i
          | .waits s1 => s1.setTxn n i { t with framing := true }
          | .quota s1 => s1.finishTxn n i { t with ans := some { status := stQuota } })
        | some f =>
          if f.filling || f.evict then s.setTxn n i { t with framing := true }
          else match s.cacheLookup x off 128 false t.req .fresh with
            | .hit s1 => (s1.setTxn n i { t with reading := false, memOk := true }).advance n i
            | _ => s
      else (s.setTxn n i { t with reading := false, memOk := true }).advance n i

/-- The same, under an injected POISON that is armed there (R530). -/
def State.homeReadDone (s : State) (n k : Nat) : State :=
  match (s.txnIx n (fun t => t.lines.contains k && t.reading)).bind (s.txn n) with
  | some t =>
    if t.waiting.isEmpty && t.lines.any (fun l => (t.data l).isNone) then
      let r := s.injectPoison (t.lines.map (fun l => keyOff l / 128))
      r.1.withPoison r.2 (fun s => s.memReadDone n k)
    else s.memReadDone n k
  | none => s.memReadDone n k

def execHomeMemoryReadDone (n : SliceIx) (line : BitVec 49) (s : State) : Host.Outcome State Fault Refusal :=
  .next (s.homeReadDone n line.toNat)

/-- A fetched entry arrives, and the waiting lookup continues (R94). -/
def State.backingFetchDone (s : State) (n k : Nat) : State :=
  let s1 := s.modSlice n (fun c => CadSlice.spill { c with spilled := c.spilled.filter (· != k) } k)
  match s1.txnIx n (fun t => t.lines.contains k && t.fetching) with
  | none => s1
  | some i => match s1.txn n i with
    | none => s1
    | some t =>
      if t.lines.any (fun l => (s1.cadSlice n).spilled.contains l) then s1
      else
        let t1 := { t with fetching := false }
        if t.kind == .proxy then s1.startProxy n i t1 else s1.startHome n i t1

def execBackingFetchDone (n : SliceIx) (line : BitVec 49) (s : State) : Host.Outcome State Fault Refusal :=
  .next (s.backingFetchDone n line.toNat)

/-! ### The conflict queue (R65) -/

/-- A new entry that a request needs finds its backing set full: the line (R95). -/
def State.shortOf (s : State) (n : Nat) (e : Nat × Packet) : Option Nat :=
  let op := e.2.opcode.toNat
  if e.2.cls == 1 then none
  else if op == opRPQ then s.shortSet n (s.queuedLines e)
  else if op == opRDS || op == opRDO || op == opUPG then (s.queuedLines e).find? (fun k => s.setFull n k)
  else none

/-- A queued request may leave: its lines are free, no earlier request for them waits, and where its set is full a victim can be recalled
and no place is being freed. -/
def State.mayLeave (s : State) (n : Nat) (before : List (Nat × Packet)) (e : Nat × Packet) : Bool :=
  let ls := s.queuedLines e
  if e.2.cls == 1 then ls.all (fun k => !s.roundOn n k)
  else ls.all (fun k => !s.busyLine n k && !before.any (fun b => b.2.cls == 0 && (s.queuedLines b).contains k)) &&
    (match s.shortOf n e with
      | some k => !s.setRecalling n k && (s.setVictim n k).isSome
      | none => true)

/-- The position of the first request that may leave. -/
def State.firstLeaver (s : State) (n : Nat) : List (Nat × Packet) → List (Nat × Packet) → Option Nat
  | _, [] => none
  | before, e :: rest => if s.mayLeave n before e then some before.length else s.firstLeaver n (before ++ [e]) rest

/-- CONFLICT_QUEUE_DEQUEUE: the first request that may leaves in order and is applied; where its set has no place it keeps its own, and a
victim is recalled (R65, R95). -/
def State.dequeue (s : State) (n : Nat) : State :=
  let q := (s.cadSlice n).conflictQ
  match s.firstLeaver n [] q with
  | none => s
  | some i => match q[i]? with
    | none => s
    | some e => match s.shortOf n e with
      | some k => s.backInvalidate n k
      | none =>
        let s1 := s.modSlice n (fun c => { c with conflictQ := c.conflictQ.eraseIdx i })
        if e.2.cls == 1 then s1.proxySnoop e.2
        else if gfaHome e.2.gfa == s1.ix then s1.memServe e.2 e.1 .turn
        else s1.proxyServe e.2 .turn

def execConflictQueueDequeue (n : SliceIx) (s : State) : Host.Outcome State Fault Refusal := .next (s.dequeue n)

/-! ### Replicas -/

/-- REPL_WINDOW_END: a new window; offers that no RPQ took are counted (R97, R107). -/
def State.replWindowEnd (s : State) (n : Nat) : State :=
  let c := s.cadSlice n
  (s.count (pgCad n) 14 c.offers.length).modSlice n (fun c => { c with measure := [], offers := [] })

def execReplWindowEnd (n : SliceIx) (s : State) : Host.Outcome State Fault Refusal := .next (s.onlyIf (s.replOn n) (·.replWindowEnd n))

/-- REPLICA_DROP: a proxy drops a replica page without a message (R101). -/
def State.replicaDrop (s : State) (n pg : Nat) : State := s.modSlice n (fun c => { c with replicas := kdel c.replicas pg })

def execReplicaDrop (n : SliceIx) (page : BitVec 44) (s : State) : Host.Outcome State Fault Refusal := .next (s.replicaDrop n page.toNat)

/-! ### Death of a local agent (R102, R122, R556) -/

/-- A request of a local agent: any engine behind its port, the companion processor, a tile of its block (R68, R102). -/
def State.belongsTo (s : State) (a : Nat) (p : Packet) : Bool :=
  p.src.toNat == s.ix &&
  (if a < 32 then decide (p.agent.toNat < 0x800) && s.portOfAgent a == some (p.agent.toNat % 128)
   else if a == 32 then p.agent == agCompanion
   else decide (0x800 ≤ p.agent.toNat) && decide (p.agent.toNat < 0x900) && (p.agent.toNat - 0x800) / 16 == a - 33)

/-- One line that a dead agent held (the table of R102). -/
def State.resolveDead (s : State) (n : Nat) (a : Fin 49) (k : Nat) : State :=
  let e := s.entry n k
  let busy := s.busyLine n k
  if e.dirtyOwner == some a then
    if keyHome k == s.ix then
      if busy then s   -- the transaction's own snoop of the owner is resolved with it
      else
        let e1 := e.dropAgent a
        ((s.writePoisoned n k).putEntry n k e1).startRecall n k
    else if busy then s
    else (s.putEntry n k (e.dropAgent a)).startGiveUp n k { agent := agSlice n } false true (some a)
  else if busy && e.owner == some a then s
  else s.putEntry n k (e.dropAgent a)

/-- The dead agent's requests in a slice go without completion, its outstanding snoops count as answered, its lines are resolved. -/
def State.deadInSlice (s : State) (a : Fin 49) (n : Nat) : State :=
  let mine (p : Packet) : Bool := s.belongsTo a.val p && p.cls == 0
  let s1 := s.modSlice n (fun c => { c with
    conflictQ := c.conflictQ.filter (fun e => !mine e.2), holdQ := c.holdQ.filter (fun e => !mine e.2),
    txns := c.txns.map (fun t => if (t.kind == .home || t.kind == .proxy || t.kind == .giveUp) && mine t.req then { t with reply := false } else t) })
  let waits := (s1.cadSlice n).txns.flatMap (fun t => t.waiting.filter (fun w => w.2 == Holder.agent a))
  let s2 := waits.foldl (fun s w => s.holderAnswers n w.1 w.2 none true) s1
  let held := (s2.cadSlice n).entries.filter (fun e => e.2.locals.contains a)
  let s3 := held.foldl (fun s e => s.resolveDead n a e.1) s2
  let bits := s3.reg (rCadDead n)
  (s3.setReg (rCadDead n) (bits % 2 ^ 63 - nbits bits a.val a.val * 2 ^ a.val + 2 ^ a.val + 2 ^ 63)).modSlice n
    (fun c => { c with sweeping := insertNew c.sweeping a.val })

/-- The requests of a dead agent that wait for a cache frame, or under the T1 quota, go without completion (R102). -/
def State.dropWaiters (s : State) (a : Nat) : State :=
  let mine (p : Packet) : Bool := s.belongsTo a p
  { s with tier := { s.tier with frames := s.tier.frames.map (fun e => (e.1, { e.2 with waiters := e.2.waiters.filter (fun w => !mine w.2) })),
                                 heldStores := s.tier.heldStores.filter (fun h => !mine h.2) } }

/-- An agent is declared dead by one slice: every slice resolves it, one AGENT record is made, its parked SACQs go (R102, R122). -/
def State.agentDead (s : State) (a : Fin 49) (by' : Nat) : State :=
  if (s.cadSlice by').sweeping.contains a.val then s
  else
    let s1 := (s.tick (aidCad by')).note (bookRegion by') (pgCad by') clsAgent 2 (aidCad by') a.val
    let s2 := (s1.dropParked (fun p => s.belongsTo a.val p)).dropWaiters a.val
    (List.range 4).foldl (fun s n => (if n == by' then s else s.tick (aidCad n)).deadInSlice a n) s2

/-! ### Severing a remote Tiolo (R103) -/

/-- The recorded holder t leaves a coarse group: the bit stays while another Tiolo of the group may hold copies. -/
def State.othersInGroup (s : State) (n t : Nat) : Bool :=
  (List.range 8).any (fun i => t / 8 * 8 + i != t && t / 8 * 8 + i != s.ix && s.inGrid (t / 8 * 8 + i) && !s.severed n (t / 8 * 8 + i))

def State.severLine (s : State) (n : Nat) (t : BitVec 10) (k : Nat) : State :=
  let e := s.entry n k
  if e.gstate == GState.m && e.gowner == t then
    if s.busyLine n k then s else (s.writePoisoned n k).putEntry n k e.noRemote
  else if e.gstate == GState.s && (e.gsharers &&& coarseBit t) != 0 && !s.othersInGroup n t.toNat then
    let v := e.gsharers &&& ~~~coarseBit t
    s.putEntry n k (if v == 0 then e.noRemote else { e with gsharers := v })
  else s

/-- Tiolo t is severed by slice n: its outstanding snoops count as answered, and the lines it held here are resolved (R103). -/
def State.sever (s : State) (n : Nat) (t : BitVec 10) : State :=
  if s.severed n t.toNat then s
  else
    let s1 := ((s.tick (aidCad n)).note (bookRegion n) (pgCad n) clsAgent 2 (aidCad n) t.toNat).setBit (rCadSever n (t.toNat / 64)) (t.toNat % 64) true
    let waits := (s1.cadSlice n).txns.flatMap (fun x => x.waiting.filter (fun w => w.2 == Holder.tiolo t))
    let s2 := waits.foldl (fun s w => s.holderAnswers n w.1 w.2 none true) s1
    let rec' (s : State) : KMap (BitVec 128) := (s.cadSlice n).replTable.filterMap (fun e =>
      if s.othersInGroup n t.toNat then some e
      else
        let v := e.2 &&& ~~~coarseBit t
        if v == 0 then none else some (e.1, v))
    let s3 := s2.modSlice n (fun c => { c with replTable := rec' s2 })
    ((s3.cadSlice n).entries.map (fun e => e.1)).foldl (fun s k => s.severLine n t k) s3

/-- SNOOP_TIMEOUT: the silent agent is declared dead, or the silent Tiolo is severed (R102, R103). -/
def State.snoopTimeout (s : State) (n k : Nat) (h : Holder) : State :=
  if (s.txnIx n (fun t => t.waiting.contains (k, h))).isSome then
    let s1 := s.count (pgCad n) 9
    match h with
    | .agent a => s1.agentDead a n
    | .tiolo t => s1.sever n t
  else s

def execSnoopTimeout (n : SliceIx) (line : BitVec 49) (holder : Holder) (s : State) : Host.Outcome State Fault Refusal :=
  .next (s.snoopTimeout n line.toNat holder)

/-- Some slice sweeps for dead agents. -/
def State.sweepBusy (s : State) : Bool := (List.range 4).any (fun n => s.bit (rCadDead n) 63)

/-- The companion's heartbeat has come while LOST is 1: LOST is cleared, and recorded, once no sweep runs (R467, R470). -/
def State.companionBeat (s : State) : State :=
  if !s.bit rFbHb 32 then s
  else if s.sweepBusy then { s with recov := { s.recov with beatDue := true } }
  else (({ s with recov := { s.recov with beatDue := false } } : State).setBit rFbHb 32 false).record bookChip pgFb clsCompanion 2 (aidChip 0x3F0) 1

/-- DEAD_SWEEP_DONE: the sweeps of a slice end; when no slice sweeps for an agent whose port has gone down, its number is free (R69, R102). -/
def State.deadSweepDone (s : State) (n : Nat) : State :=
  let done := (s.cadSlice n).sweeping
  if (s.cadSlice n).entries.any (fun e => e.2.locals.any (fun a => done.contains a.val)) then s else
  let s1 := (s.modSlice n (fun c => { c with sweeping := [] })).setBit (rCadDead n) 63 false
  let s2 := (done.filter (fun a => a < 32 && (List.range 4).all (fun m => !(s1.cadSlice m).sweeping.contains a))).foldl (fun s a =>
    match s.portOfAgent a with
    | some p => if s.portUp p && (s.agentsOfPort p).length ≤ 1 then s else s.bindAgent a none
    | none => s) s1
  if s2.recov.beatDue then s2.companionBeat else s2

def execDeadSweepDone (n : SliceIx) (s : State) : Host.Outcome State Fault Refusal := .next (s.deadSweepDone n)

/-- CAD_DEAD_CLEAR: each 1 clears its bit, unless the sweep runs (R102). -/
def State.cadDeadClear (s : State) (n : Nat) (v : Word) : State :=
  s.cfgDo (rCadDead n) (fun s =>
    if s.bit (rCadDead n) 63 then s
    else s.setReg (rCadDead n) ((BitVec.ofNat 64 (s.reg (rCadDead n)) &&& ~~~v).toNat % 2 ^ 49))

def execCadDeadClear (n : SliceIx) (v : Word) (s : State) : Host.Outcome State Fault Refusal := .next (s.cadDeadClear n v)

/-- CAD_SEVER_CLEAR: each 1 ends the severing of a Tiolo (R103). -/
def State.cadSeverClear (s : State) (n j : Nat) (v : Word) : State :=
  s.cfgDo (rCadSever n j) (fun s => s.setReg (rCadSever n j) (BitVec.ofNat 64 (s.reg (rCadSever n j)) &&& ~~~v).toNat)

def execCadSeverClear (n : SliceIx) (j : Fin 16) (v : Word) (s : State) : Host.Outcome State Fault Refusal := .next (s.cadSeverClear n j v)

/-! ### Lost entries: the event (R105) -/

/-- ENTRY_ECC_ERROR (R105). -/
def execEntryEccError (n : SliceIx) (lines : List (BitVec 49)) (s : State) : Host.Outcome State Fault Refusal :=
  .next (((s.tick (aidCad n)).count (pgCad n) 16).entryError n ((lines.map BitVec.toNat).filter (fun k => s.keySlice k == n.val)))

/-! ### Control registers (R91, R93, R149) -/

/-- The reserved top of T0 that BACKING_GIB of slice n and POOL_GIB of slice 0 would make. -/
def State.topWith (s : State) (n : Nat) : Nat :=
  let gib := s.fld (rCadCtl n) 11 8
  512 - 4 * (if s.backingGib == 0 then gib else s.backingGib) -
    (if n == 0 || s.bit (rCadCtl 0) 0 then s.fld (rCadReplPool 0) 4 0 else 0) - s.tlGib - s.tcGib

/-- The rest of a CAD_CTL write: SPEC_EN, REPL_EN, SPEC_QMAX, and BACKING_GIB while it is unlocked. -/
def State.cadCtlFields (s : State) (n : Nat) (v : Nat) : State :=
  let c := rCadCtl n
  let s1 := ((s.setFld c 1 1 (nbits v 1 1)).setFld c 2 2 (nbits v 2 2)).setFld c 23 16 (nbits v 23 16)
  let s2 := if s.bit c 0 then s1 else s1.setFld c 11 8 (nbits v 11 8)
  if nbit v 2 && !s.bit c 2 then s2.modSlice n (fun z => { z with measure := [] }) else s2

/-- CAD_ENABLE: a write of CAD_CTL. EN 1 makes the slice ready, or is refused by size, by R149 or by a failed stack (R93, R149, R504). -/
def State.cadEnable (s : State) (n : Nat) (v : Word) : State :=
  s.cfgDo (rCadCtl n) (fun s =>
    let s1 := s.cadCtlFields n v.toNat
    if !nbit v.toNat 0 || s.bit (rCadCtl n) 0 then s1
    else
      let gib := s1.fld (rCadCtl n) 11 8
      let sizeBad := gib < 1 || 8 < gib || (s1.backingGib != 0 && s1.backingGib != gib)
      let s2 := s1.tick aidCompose
      if sizeBad then
        (s2.setBit (rCadStat n) 1 true).note (bookRegion n) (pgCad n) clsConfig 2 (cfgAid { type := 0x08, inst := n, base := pgCad n }) (rCadCtl n)
      else if s2.grantsAbove (s2.topWith n) || !s2.stacksOk then
        ((s2.setBit (rCadStat n) 1 true).refuseEnable (rCadCtl n)).note (bookRegion n) (pgCad n) clsConfig 2
          (cfgAid { type := 0x08, inst := n, base := pgCad n }) (rCadCtl n)
      else ((s2.setBit (rCadCtl n) 0 true).setBit (rCadStat n) 0 true).setBit (rCadStat n) 1 false)

def execCadEnable (n : SliceIx) (v : Word) (s : State) : Host.Outcome State Fault Refusal := .next (s.cadEnable n v)

/-- CAD_PROBE: a write of CAD_PROBE_ADDR; GO copies the line's entry to CAD_PROBE0–3 in arbiter order (R91). -/
def State.cadProbe (s : State) (n : Nat) (v : Word) : State :=
  s.cfgDo (rCadProbeAddr n) (fun s =>
    let s1 := s.setFld (rCadProbeAddr n) 55 0 v.toNat
    if nbit v.toNat 63 then
      let k := v.toNat % 2 ^ 56 / 128
      let s2 := ((s1.tick (aidCad n)).count (pgCad n) 0).count (pgCad n) 1 (if (s1.cadSlice n).hits k then 1 else 0)
      let w := match kget (s2.cadSlice n).entries k with
        | some e => entryBits k (s2.busyLine n k) e
        | none => 0
      ((List.range 4).foldl (fun s j => s.setReg (rCadProbe n j) (w / 2 ^ (64 * j) % 2 ^ 64)) s2).setBit (rCadProbeAddr n) 62 true
    else s1)

def execCadProbe (n : SliceIx) (v : Word) (s : State) : Host.Outcome State Fault Refusal := .next (s.cadProbe n v)

end Sys2Proof.Machine
end

