-- ==== Sys2Proof/Machine/Traffic.lean ====
section
/-!
DEFINITION. Grades, meters, shapers and gates (chapter 15): the counted sizes of packets, the grades of measured resources, the two-rate
three-colour meters, the token-bucket shapers and the gate lists of the ports.
-/
namespace Sys2Proof.Machine

/-! ### Counted sizes (R339, R393, R402) -/

/-- Cells of 128 B (R366). -/
def pktCells (p : Packet) : Nat := ceilDiv (pktBytes p) 128

/-! ### Grades (R390) -/

/-- Cells of a stored packet that an output still has to take. -/
def Stored.owedTo (st : Stored) (j : Nat) : Nat :=
  (st.outs.filter (fun o => o.1 == j)).foldl (fun a _ =>
    a + (st.cells - ((st.started.find? (fun x => x.1 == j)).map (fun x => x.2.2)).getD 0)) 0

/-- Cells queued for output j in every VOQ, with copies owed by residue entries. -/
def State.outBacklog (s : State) (j : Nat) : Nat := s.sw.buf.foldl (fun a st => a + st.owedTo j) 0

/-- Thresholds GT1–GT7 of GRADE_THR that a backlog of cells reaches; a threshold unit is 64 KiB, 512 cells. -/
def State.thrGrade (s : State) (cells : Nat) : Nat :=
  ((List.range 7).filter (fun k => decide (512 * s.fld rGradeThr (8 * k + 7) (8 * k) ≤ cells))).length

/-- Requests in the queue of region r's HBM controller: reads and writes of its slice's transactions that are outstanding. -/
def State.hbmQueue (s : State) (r : Nat) : Nat :=
  (kgetD s.cad r {}).txns.foldl (fun a t => a + t.writes + (if t.reading then 1 else 0)) 0

/-- The grade of a measured resource, computed afresh (R390). -/
def State.measureGrade (s : State) (k : Nat) : Nat :=
  if k < 128 then s.thrGrade (s.outBacklog k)
  else if k < 132 then min 7 (8 * s.hbmQueue (k - 128) / 512)
  else if k < 136 then min 7 (8 * (kgetD s.cad (k - 132) {}).conflictQ.length / 2048)
  else min 7 (8 * (s.parkedIn (k - 136)).length / 8192)

/-- Writes the grades of outputs into GRADE_OUT0–GRADE_OUT7. -/
def State.showGrades (s : State) : State :=
  (List.range 8).foldl (fun (a : State) j =>
    a.setReg (rGradeOut j) ((List.range 16).foldl (fun w k => w + s.grade (16 * j + k) * 2 ^ (4 * k)) 0)) s

/-- Every grade is recomputed (R390). -/
def State.gradeUpdate (s : State) : State :=
  let g := (List.range 140).foldl (fun (m : KMap Nat) k => let v := s.measureGrade k; if v == 0 then m else m ++ [(k, v)]) []
  ({ s with sw := { s.sw with grades := g } } : State).showGrades

/-- A write of GRADE_THR whose thresholds do not rise strictly is ignored. -/
def State.gradeThrWrite (s : State) (v : Word) : State :=
  let t := (List.range 7).map (fun k => nbits v.toNat (8 * k + 7) (8 * k))
  if (List.range 6).all (fun k => t.getD k 0 < t.getD (k + 1) 0) then s.setReg rGradeThr (v.toNat % 2 ^ 56) else s

/-! ### Rates and the region 0 trim (R28) -/

/-- The tokens that a rate in units of 100 MB/s brings in 64 switch-core cycles at region 0's calibrated frequency (R28, R393, R399):
rate · 10^8 · 64 / (1.8·10^9 · (1 + trim·2^−24)), to the nearest byte. -/
def State.gain64 (s : State) (rate : Nat) : Nat :=
  let den := s.coreTrim * 18
  (2 * (rate * 64 * 2 ^ 24) + den) / (2 * den)

/-! ### Meters (R392–R397) -/

/-- AID of the meter arbiter (R395). -/
def aidMeter : Nat := aidChip 0x082

def State.meter (s : State) (m : Nat) : Meter := kgetD s.traf.meters m {}
def State.setMeter (s : State) (m : Nat) (x : Meter) : State := { s with traf := { s.traf with meters := kset s.traf.meters m x } }

def Meter.cir (x : Meter) : Nat := nbits x.cfg0.toNat 15 0
def Meter.pir (x : Meter) : Nat := nbits x.cfg0.toNat 31 16
/-- CBS in bytes. -/
def Meter.cbs (x : Meter) : Nat := 1024 * nbits x.cfg0.toNat 47 32
/-- PBS in bytes. -/
def Meter.pbs (x : Meter) : Nat := 1024 * nbits x.cfg0.toNat 63 48
def Meter.en (x : Meter) : Bool := x.cfg1.getLsbD 0
/-- Colour-aware. -/
def Meter.ca (x : Meter) : Bool := x.cfg1.getLsbD 1
def Meter.markYellow (x : Meter) : Bool := x.cfg1.getLsbD 2

/-- A configuration that R396 accepts: PIR ≥ CIR, PIR ≠ 0, PBS ≥ CBS ≥ 5 KiB. -/
def Meter.ok (x : Meter) : Bool := decide (x.cir ≤ x.pir) && x.pir != 0 && decide (x.cbs ≤ x.pbs) && decide (5 * 1024 ≤ x.cbs)

/-- Bit 63 of MTR_CFG1. -/
def Meter.refused (x : Meter) (b : Bool) : Meter := { x with cfg1 := BitVec.ofNat 64 (nsetBits x.cfg1.toNat 63 63 (if b then 1 else 0)) }

/-- A write of MTR_CFG0 or MTR_CFG1 of meter m (R396): refused, or applied; buckets are clamped to new sizes, and start full at EN. -/
def Meter.write (x : Meter) (m : Nat) (cfg1 : Bool) (v : Word) : Meter :=
  if cfg1 then
    let y : Meter := { x with cfg1 := BitVec.ofNat 64 (v.toNat % (if m < 64 then 4 else 8)) }
    if y.en && !y.ok then x.refused true
    else if y.en && !x.en then { y with tc := y.cbs, tp := y.pbs }
    else y
  else
    let y : Meter := { x with cfg0 := v }
    if y.ok then ({ y with tc := min y.tc y.cbs, tp := min y.tp y.pbs } : Meter).refused false else x.refused true

/-- METER_CONFIG: a write to the meter that MTR_SEL shows; numbers above 319 ignore writes. -/
def State.meterConfig (s : State) (cfg1 : Bool) (v : Word) : State :=
  s.cfgDo (if cfg1 then rMtrCfg1 else rMtrCfg0) (fun s =>
    let m := s.fld rMtrSel 8 0
    if m < 320 then s.setMeter m ((s.meter m).write m cfg1 v) else s)

def execMeterConfig (cfg1 : Bool) (v : Word) (s : State) : Host.Outcome State Fault Refusal := .next (s.meterConfig cfg1 v)

/-- One refill: each bucket gains its rate × 64 cycles, up to its size (R393). -/
def State.refillOne (s : State) (x : Meter) : Meter :=
  if x.en then { x with tc := min x.cbs (x.tc + s.gain64 x.cir), tp := min x.pbs (x.tp + s.gain64 x.pir) } else x

/-- Every meter's refill. -/
def State.refillMeters (s : State) : State :=
  { s with traf := { s.traf with meters := s.traf.meters.map (fun e => (e.1, s.refillOne e.2)) } }

/-- The colours of R394. -/
inductive Colour where
  | green | yellow | red
  deriving DecidableEq, Repr

/-- The colour of a packet of counted length L, from its input colour when the meter is colour-aware (R394). -/
def Meter.colour (x : Meter) (incol : Colour) (len : Nat) : Colour :=
  let ic := if x.ca then incol else .green
  if ic == .red || x.tp < len then .red
  else if ic == .yellow || x.tc < len then .yellow
  else .green

/-- Takes the tokens of an admitted packet (R394). -/
def Meter.take (x : Meter) (c : Colour) (len : Nat) : Meter :=
  match c with
  | .green => { x with tc := x.tc - len, tp := x.tp - len }
  | .yellow => { x with tp := x.tp - len }
  | .red => x

/-- The contract's test of a packet (R392–R394): the state after it, and whether the packet is admitted. `grade` is the grade of its
first egress or internal target. A meter whose EN is 0 admits at once. -/
def State.contractTest (s : State) (m len grade : Nat) (incol : Colour) : State × Bool :=
  let x := s.meter m
  if !x.en then (s, true)
  else
    let s0 := s.tick aidMeter
    match x.colour incol len with
    | .green => ((s0.setMeter m (x.take .green len)).count pgMtr 0, true)
    | .yellow => if grade ≤ 3 then ((s0.setMeter m (x.take .yellow len)).count pgMtr 1, true) else (s0.count pgMtr 2, false)
    | .red => (s0.count pgMtr 3, false)

/-- The Ethernet meter of ETH port p and priority q (R397). -/
def ethMeter (p q : Nat) : Nat := 64 + 8 * (p - 96) + q

/-- The Ethernet meter's test of a frame (R397): the state, the colour, and whether it is marked CE. -/
def State.ethMeterTest (s : State) (p q len : Nat) (dei ect : Bool) : State × Colour × Bool :=
  let x := s.meter (ethMeter p q)
  if !x.en then (s, .green, false)
  else
    let s0 := s.tick aidMeter
    match x.colour (if dei then .yellow else .green) len with
    | .green => (s0.setMeter (ethMeter p q) (x.take .green len), .green, false)
    | .yellow =>
      let ce := x.markYellow && ect
      ((s0.setMeter (ethMeter p q) (x.take .yellow len)).count pgMtr 4 (if ce then 1 else 0), .yellow, ce)
    | .red => (s0.count pgMtr 5, .red, false)

/-! ### Shapers (R398, R399) -/

def State.shaper (s : State) (k : Nat) : Shaper := kgetD s.traf.shapers k {}
def State.setShaper (s : State) (k : Nat) (x : Shaper) : State := { s with traf := { s.traf with shapers := kset s.traf.shapers k x } }

def Shaper.en (x : Shaper) : Bool := x.cfg.getLsbD 0
def Shaper.kind (x : Shaper) : Nat := nbits x.cfg.toNat 2 1
/-- What it is bound to: KIND, TARGET and, for KIND 0, PRIO. -/
def Shaper.target (x : Shaper) : Nat × Nat × Nat :=
  let k := x.kind
  (k, nbits x.cfg.toNat (if k == 0 then 9 else 8) 3, if k == 0 then nbits x.cfg.toNat 12 10 else 0)
def Shaper.rate (x : Shaper) : Nat := nbits x.cfg.toNat 31 16
/-- BURST in bytes. -/
def Shaper.burst (x : Shaper) : Nat := 1024 * nbits x.cfg.toNat 47 32

/-- The bits of SHP_CFG that a write of value v keeps: [9] and PRIO are zero for KIND 1–3. -/
def shpMask (v : Nat) : Nat :=
  let w := nbits v 12 0 + nbits v 47 16 * 2 ^ 16
  if nbits v 2 1 == 0 then w else nsetBits w 12 9 0

/-- SHAPER_CONFIG of the shaper that SHP_SEL shows: refused when RATE or BURST is too small, or when another enabled shaper has the
target; otherwise applied, the bucket at zero when EN rises. -/
def State.shaperConfig (s : State) (v : Word) : State :=
  s.cfgDo rShpCfg (fun s =>
    let k := s.fld rShpSel 7 0
    let x := s.shaper k
    let y : Shaper := { x with cfg := BitVec.ofNat 64 (shpMask v.toNat) }
    let twice := y.en && s.traf.shapers.any (fun e => e.1 != k && e.2.en && e.2.target == y.target)
    if y.rate < 1 || y.burst < 5 * 1024 || twice then
      s.setShaper k { x with cfg := BitVec.ofNat 64 (nsetBits x.cfg.toNat 63 63 1) }
    else if y.en && !x.en then s.setShaper k { y with tokens := 0 }
    else s.setShaper k { y with tokens := min y.tokens (Int.ofNat y.burst) })

def execShaperConfig (v : Word) (s : State) : Host.Outcome State Fault Refusal := .next (s.shaperConfig v)

/-- The gain of R399. -/
def State.refillShaper (s : State) (x : Shaper) : Shaper :=
  if x.en then { x with tokens := min (Int.ofNat x.burst) (x.tokens + Int.ofNat (s.gain64 x.rate)) } else x

/-- ETH shapers whose bucket is below zero: their priorities were ineligible (R405 PG_CNT7 counts their 64 cycles). -/
def State.shapersBelow (s : State) : Nat :=
  (s.traf.shapers.filter (fun e => e.2.en && e.2.kind == 0 && decide (e.2.tokens < 0))).length

/-- SHAPER_REFILL: every enabled shaper gains (R399). -/
def State.shaperRefill (s : State) : State :=
  ({ s with traf := { s.traf with shapers := s.traf.shapers.map (fun e => (e.1, s.refillShaper e.2)) } } : State).count pgMtr 7 (64 * s.shapersBelow)

def execShaperRefill (s : State) : Host.Outcome State Fault Refusal := .next s.shaperRefill

/-- The enabled shaper bound to a target. -/
def State.shaperOf (s : State) (kind target prio : Nat) : Option (Nat × Shaper) :=
  s.traf.shapers.find? (fun e => e.2.en && e.2.target == (kind, target, prio))

/-- A unit may start: its target is not shaped, or its bucket is at zero or above (R399). -/
def State.shaperOpen (s : State) (kind target prio : Nat) : Bool :=
  match s.shaperOf kind target prio with
  | some (_, x) => decide (0 ≤ x.tokens)
  | none => true

/-- A unit starts: its counted length is subtracted (R399). -/
def State.shaperTake (s : State) (kind target prio len : Nat) : State :=
  match s.shaperOf kind target prio with
  | some (k, x) => s.setShaper k { x with tokens := x.tokens - Int.ofNat len }
  | none => s

/-! ### Gates (R400–R404) -/

/-- OFFSET and OPEN of a table entry. -/
def State.glEntry (s : State) (k : Nat) : Nat × BitVec 8 := kgetD s.traf.table k (0, 0)

def State.gate (s : State) (p : Nat) : Option Gate := kget s.traf.gates p
def State.setGate (s : State) (p : Nat) (g : Gate) : State := { s with traf := { s.traf with gates := kset s.traf.gates p g } }

/-- The list that BASE and COUNT name. -/
def State.glList (s : State) (base count : Nat) : List (Nat × BitVec 8) := (List.range count).map (fun i => s.glEntry (base + i))

/-- Offsets rise strictly. -/
def offsetsRise : List (Nat × BitVec 8) → Bool
  | a :: b :: rest => decide (a.1 < b.1) && offsetsRise (b :: rest)
  | _ => true

/-- The checks of a list for a port (R404). -/
def State.listOk (s : State) (p base count : Nat) : Bool :=
  let l := s.glList base count
  1 ≤ count && count ≤ 256 && base + count ≤ 4096 && (s.glEntry base).1 == 0 && offsetsRise l &&
  (s.portRole p == roleEth || l.all (fun e => e.2.toNat < 2))

/-- A write of PORT_GATE (R404): refused, or EN set, the list changed (pending while the list is enabled), or EN cleared. -/
def State.portGateWrite (s : State) (p : Nat) (v : Word) : State :=
  s.cfgDo (rPortGate p) (fun s =>
    let w := v.toNat
    let base := nbits w 11 0
    let count := nbits w 20 12
    let keep := nbits w 20 0 + nbits w 48 24 * 2 ^ 24
    if nbit w 48 && !s.listOk p base count then (s.setBit (rPortGate p) 49 true).count pgGl 4
    else
      let s1 := s.setReg (rPortGate p) keep
      if !nbit w 48 then { s1 with traf := { s1.traf with gates := kdel s1.traf.gates p } }
      else match s.gate p with
        | none => s1.setGate p { base := base, count := count }
        | some g =>
          if g.base == base && g.count == count then s1.setGate p { g with pending := none }
          else s1.setGate p { g with pending := some (base, count) })

/-- GATE_LIST_ENABLE (R404). -/
def execGateListEnable (p : PortIx) (v : Word) (s : State) : Host.Outcome State Fault Refusal := .next (s.portGateWrite p.val v)
/-- GATE_LIST_CHANGE (R404). -/
def execGateListChange (p : PortIx) (v : Word) (s : State) : Host.Outcome State Fault Refusal := .next (s.portGateWrite p.val v)

/-- ENTRY of GL_ADDR advances after a GL_DATA access when INC is 1. -/
def State.glAdvance (s : State) : State :=
  if s.bit rGlAddr 16 then s.setFld rGlAddr 11 0 ((s.fld rGlAddr 11 0 + 1) % 4096) else s

/-- A table entry belongs to a list in effect on some port (R404). -/
def State.entryInEffect (s : State) (k : Nat) : Bool := s.traf.gates.any (fun e => decide (e.2.base ≤ k) && decide (k < e.2.base + e.2.count))

/-- GATE_ENTRY_WRITE: a write of GL_DATA (R404). -/
def State.gateEntryWrite (s : State) (v : Word) : State :=
  s.cfgDo rGlData (fun s =>
    let k := s.fld rGlAddr 11 0
    if s.entryInEffect k then ((s.setBit rGlStat 0 true).count pgGl 4).glAdvance
    else
      let e := (nbits v.toNat 31 0, BitVec.ofNat 8 (nbits v.toNat 39 32))
      (({ s with traf := { s.traf with table := kset s.traf.table k e } } : State).setBit rGlStat 0 false).glAdvance)

def execGateEntryWrite (v : Word) (s : State) : Host.Outcome State Fault Refusal := .next (s.gateEntryWrite v)

/-- The port's arrival of a benchmark of a job anchors its list again (R401, R404). -/
def State.gateAnchor (s : State) (p job : Nat) : State :=
  match s.gate p with
  | none => s
  | some g =>
    if s.fld (rPortGate p) 47 32 != job then s
    else
      let g1 := match g.pending with
        | some (b, c) => { g with base := b, count := c, pending := none }
        | none => g
      let s1 := if g.pending.isSome then s.count pgGl 3 else s
      (s1.setGate p { g1 with anchored := true, entry := 0, offset := 0 }).count pgGl 2

/-- Cycles pass at every anchored gate; the count saturates (R401). The entry follows the offset. -/
def State.gatePass (s : State) (n : Nat) (g : Gate) : Gate :=
  if g.anchored then
    let o := min (2 ^ 32 - 1) (g.offset + n)
    { g with offset := o, entry := ((List.range g.count).filter (fun k => decide ((s.glEntry (g.base + k)).1 ≤ o))).length - 1 }
  else g

/-- Cycles pass at every port's gate. -/
def State.gatesPass (s : State) (n : Nat) : State :=
  { s with traf := { s.traf with gates := s.traf.gates.map (fun e => (e.1, s.gatePass n e.2)) } }

/-- GATE_ENTRY_TRANSITION: the offset count of a port reaches the next entry of its list (R401). -/
def State.gateTransition (s : State) (p : Nat) : State :=
  match s.gate p with
  | some g =>
    if g.anchored && decide (g.entry + 1 < g.count) then
      s.setGate p { g with entry := g.entry + 1, offset := max g.offset (s.glEntry (g.base + g.entry + 1)).1 }
    else s
  | none => s

def execGateEntryTransition (p : PortIx) (s : State) : Host.Outcome State Fault Refusal := .next (s.gateTransition p.val)

/-- The changes of bit b in the list in effect: the offset and whether it is open, shifted by GATE_JITTER (R530): SIGN 0 brings openings
later and closings earlier. -/
def State.gateEdges (s : State) (p b : Nat) (g : Gate) : List (Nat × Bool) :=
  let c := rPgPerturb (pgPort2 p)
  let am := if s.fld c 2 0 == 3 then s.fld c 31 16 else 0
  let l := s.glList g.base g.count
  (List.range l.length).map (fun k =>
    let e := l.getD k (0, 0)
    let on := e.2.getLsbD b
    let was := if k == 0 then on else (l.getD (k - 1) (0, 0)).2.getLsbD b
    if on == was then (e.1, on) else if on == !s.bit c 12 then (e.1 + am, on) else (e.1 - am, on))

/-- Bit b of a port's gate is open now (R401). -/
def State.gateBit (s : State) (p b : Nat) : Bool :=
  match s.gate p with
  | none => true
  | some g =>
    if !g.anchored then nbit (s.fld (rPortGate p) 31 24) b
    else (s.gateEdges p b g).foldl (fun a e => if e.1 ≤ g.offset then e.2 else a) true

/-- The mask a port's gate has now (PORT_GATE_STAT.OPEN). -/
def State.gateMask (s : State) (p : Nat) : Nat := (List.range 8).foldl (fun a b => if s.gateBit p b then a + 2 ^ b else a) 0

/-- T and D of R402 for a unit of `bytes` and a closing at `c`. -/
def State.gateT (s : State) (p bytes : Nat) : Nat :=
  ceilDiv ((bytes + s.fld (rPortGateTime p) 7 0) * 64) (max 1 (s.fld (rPortGateTime p) 23 8))
def State.gateD (s : State) (p c : Nat) : Nat := ceilDiv (c * s.fld (rPortGateTime p) 43 32) (2 ^ 20)

/-- A gated unit on bit b may start now (R402). -/
def State.gateMayStart (s : State) (p b bytes : Nat) : Bool :=
  s.gateBit p b &&
  match s.gate p with
  | none => true
  | some g =>
    if !g.anchored then true
    else match (s.gateEdges p b g).find? (fun e => decide (g.offset < e.1) && !e.2) with
      | none => true
      | some (c, _) => decide (g.offset + s.gateT p bytes + s.gateD p c ≤ c)

end Sys2Proof.Machine
end

