-- ==== Sys2Proof/Machine/Switch.lean ====
section
/-!
DEFINITION. The switch core (chapter 14): routes, ingress and sampling, admission to the buffer, the matching rounds of the central
scheduler, age and discard, multicast residues, path epochs with their drain markers.
-/
namespace Sys2Proof.Machine

/-! ### Arbiters, classes, channels -/

/-- AID of the central scheduler (R369), of the sampler (R386), of the scheduler cell of input i (R20). -/
def aidSched : Nat := aidChip 0x040
def aidSampler : Nat := aidChip 0x041
def aidInput (i : Nat) : Nat := aidCell (i / 32) (i / 8 % 4) (0x190 + i % 8)
/-- AID of what a link's packets meet first: the ingress of its port's block, or the Filard ingress (R20). -/
def aidLink (p : Nat) : Nat := if p < 128 then aidBlock (p / 8) 0 else aidChip 0x003
/-- AID of a buffer bank, counted over the Tiolo: bank b mod 16 of block b div 16 (R20). -/
def aidBank (b : Nat) : Nat := aidCell (b / 64) (b / 16 % 4) (0x180 + b % 16)

/-- The arbiter of a physical lane's events: its lane replay, or the Filard ingress for a lane of the Filard Link (R17, R20). -/
def aidLane (p l : Nat) : Nat := if p < 128 then aidCell (p / 32) (p / 8 % 4) (0x200 + 5 * (p % 8) + l) else aidChip 0x003

/-- The lane replays of lanes of a port order one more event each (R21). -/
def State.tickLanes (s : State) (p : Nat) (ls : List Nat) : State := if p < 128 then ls.foldl (fun s l => s.tick (aidLane p l)) s else s

/-- The opcode is allocated (R346). -/
def knownOp (op : Nat) : Bool :=
  (1 ≤ op && op ≤ 3) || (8 ≤ op && op ≤ 0xA) || (0x10 ≤ op && op ≤ 0x17) || (0x20 ≤ op && op ≤ 0x23) || (0x30 ≤ op && op ≤ 0x32) ||
  (0x40 ≤ op && op ≤ 0x45) || (0x50 ≤ op && op ≤ 0x53) || (0x60 ≤ op && op ≤ 0x63)

/-- A coherent request that its requester's own proxy serves when the home is elsewhere (R84). -/
def proxyOp (op : Nat) : Bool := op == opRDS || op == opRDO || op == opUPG || op == opEVC || op == opWBK

/-! ### Where a packet goes (R35, R375) -/

/-- A request by its opcode: RDN, WRN, ATM, the coherent requests, the stake operations and PUBLISH (R77, R116, R132, R346). -/
def requestOp (op : Nat) : Bool := (1 ≤ op && op ≤ 3) || (0x10 ≤ op && op ≤ 0x17) || (0x40 ≤ op && op ≤ 0x44)

/-- The packet is a request: of class REQ, or of a reserved class with the opcode of a request (R346). -/
def isRequest (p : Packet) : Bool := p.cls == 0 || (decide (5 < p.cls.toNat) && requestOp p.opcode.toNat)

/-- Where a packet enters: a GRID port, another port, or inside. -/
inductive Entry where
  | grid | edge | inside
  deriving DecidableEq, Repr

/-- The destination Tiolo: from the GFA for a REQ-class packet, otherwise from DST. -/
def destOf (p : Packet) : Nat := if p.cls == 0 && p.opcode.toNat != opDRN then gfaHome p.gfa else p.dst.toNat / 128

/-- The port at the destination that the packet is delivered to; none for an internal target. -/
def endPort (p : Packet) (e : Entry) : Option Nat :=
  let op := p.opcode.toNat
  if op == opCMP then (if p.agent.toNat < 2048 then some (p.agent.toNat % 128) else none)
  else if p.cls == 1 then (if e == .inside then some (p.dst.toNat % 128) else none)
  else if op == opPNT || op == opPNC || op == opKEYP then some (p.dst.toNat % 128)
  else if op == opBMK then (if e == .inside then some (p.dst.toNat % 128) else none)
  else none

/-! ### Routes (R376, R377) -/

/-- The hash of an ordered packet: CRC-32C of the 8 B key of SRC, DST, CLASS and FLOW. -/
def routeHash (p : Packet) : Nat :=
  (crc32c (leBytes 8 (p.src.toNat + p.dst.toNat * 2 ^ 10 + p.cls.toNat * 2 ^ 27 + p.flow.toNat * 2 ^ 30))).toNat

/-- Free credits of a port for a channel. -/
def State.creditOf (s : State) (j v : Nat) : Nat := kgetD (s.link j).credits v 0

/-- The trunk member a packet takes: by hash when ORD is 1, otherwise the most free credits, the lowest port first. -/
def State.member (s : State) (p : Packet) (v : Nat) (ms : List Nat) : Nat :=
  if p.ord then ms.getD (nbits (routeHash p) 15 8 % max 1 ms.length) 0
  else ms.foldl (fun b m => if s.creditOf b v < s.creditOf m v then m else b) (ms.headD 0)

/-- The minimal trunks from here to Tiolo t with a live member, preferred first (R375, R376). -/
def State.minimal (s : State) (p : Packet) (t : Nat) : List (List Nat) :=
  let rowT := s.trunk false (t % 32)
  let colT := s.trunk true (t / 32)
  let l :=
    if t / 32 == s.row then [rowT] else if t % 32 == s.col then [colT]
    else if p.hop != 0 || p.nmh then [colT]
    else if p.ord then (if nbit (routeHash p) 0 then [colT, rowT] else [rowT, colT])
    else if s.trunkGrade colT < s.trunkGrade rowT then [colT, rowT] else [rowT, colT]
  l.filter (fun m => !m.isEmpty)

/-- Columns of this row, from the rotating pointer on, that may be the intermediate of a hop to t. -/
def State.viaCols (s : State) (t : Nat) : List Nat :=
  ((List.range s.cols).map (fun k => (s.sw.nptr + k) % s.cols)).filter (fun x =>
    x != s.col && x != t % 32 && !(s.trunk false x).isEmpty)

/-- The first intermediate whose trunk's grade is low enough (R377). -/
def State.viaLow (s : State) (t : Nat) : Option Nat :=
  (s.viaCols t).find? (fun x => decide (s.trunkGrade (s.trunk false x) + s.fld rSchCtl 6 4 ≤ s.fld rSchCtl 3 1))

/-- One non-minimal hop through column x: the packet with NMH set, and its trunk. -/
def State.takeVia (s : State) (p : Packet) (x : Nat) : State × Packet × Option Nat :=
  let v := vcOf p.cls.toNat p.hop.toNat
  (({ s with sw := { s.sw with nptr := (x + 1) % max 1 s.cols } } : State).count pgSch 3, { p with nmh := true },
    some (s.member p v (s.trunk false x)))

/-- The port on which a packet to another Tiolo leaves; none when no route is live (R375–R378, R448). -/
def State.route (s : State) (p : Packet) (t : Nat) : State × Packet × Option Nat :=
  let v := vcOf p.cls.toNat p.hop.toNat
  let fresh := p.hop == 0 && !p.nmh
  if p.hop == 3 then (s, p, none)
  else match s.minimal p t with
  | [] =>
    if fresh then (match (s.viaCols t).head? with
      | some x => s.takeVia p x
      | none => (s, p, none))
    else (s, p, none)
  | m :: rest =>
    let high := (m :: rest).all (fun ms => decide (s.fld rSchCtl 3 1 ≤ s.trunkGrade ms))
    if fresh && !p.ord && s.bit rSchCtl 0 && high then
      match s.viaLow t with
      | some x => s.takeVia p x
      | none => (s, p, some (s.member p v m))
    else (s, p, some (s.member p v m))

/-! ### Discards (R385) -/

/-- The chip page counter of discards, and a DISCARD record of class, port and flow (R470). -/
def State.noteDiscard (s : State) (i : Nat) (p : Packet) : State :=
  s.record (i / 8) (pgBlock (i / 8)) clsDiscard 0 (aidInput i) (p.cls.toNat + i * 2 ^ 8 + p.flow.toNat * 2 ^ 16) 0 0
    (s.parcelOf p.job.toNat)

/-- A TIMEOUT completion for a discarded request: a new RSP packet with AGE 0 and GRADE 7, and the error value for what it asked
(R13, R385, R391). -/
def State.timeoutFor (s : State) (p : Packet) : State :=
  let c := s.cmpFor p stTimeout (respData p.opcode.toNat p.len stTimeout []) 0 0 false 999
  (s.send { c with cls := 2, grade := 7 }).count pgSch 10

/-- What a discard for age brings (R385). -/
def State.ageDiscard (s : State) (i : Nat) (p : Packet) : State :=
  let s1 := (s.count pgSch 9).noteDiscard i p
  let s2 := if p.opcode.toNat == opTRVD && s1.traf.gates.length != 0 then s1.count pgGl 5 else s1
  if p.cls == 0 && p.opcode.toNat != opDRN then s2.timeoutFor p else s2

/-- A packet that R341 or R346 refuses: a request completes with a status, another packet is discarded and counted at its port. -/
def State.refusePkt (s : State) (port : Option Nat) (p : Packet) (st : Status) : State :=
  if isRequest p then s.complete p st
  else match port with
    | some j => s.count (pgPort j) 11
    | none => s

/-! ### Age (R383, R384) -/

/-- ⌈residence / 64 ns⌉ at the calibrated frequency: 115.2 cycles, scaled by the trim (R28). -/
def State.res64 (s : State) (cycles : Nat) : Nat := ceilDiv (cycles * 10 * 2 ^ 24) (max 1 (1152 * s.coreTrim))

/-- LIMIT of a class in µs: 0 acts as 1, above 1,000 as 1,000. -/
def State.ageLimit (s : State) (c : Nat) : Nat := min 1000 (max 1 (s.fld rSchAge (10 * c + 9) (10 * c)))

/-- A packet with this residence has expired (R384). -/
def State.expired (s : State) (p : Packet) (res : Nat) : Bool :=
  decide (s.ageLimit p.cls.toNat * 1000 < (p.age.toNat + s.res64 res) * 64)

/-! ### The buffer (R372, R373) -/

/-- Link reserves of the levelled ports, in cells: VC_MIN flits for each of 18 channels. -/
def State.linkReserve (s : State) : Nat :=
  (List.range 128).foldl (fun a p => if s.portUp p && s.portRole p != roleEth then a + (s.fld (rPortLink p) 7 0 * 18 + 1) / 2 else a) 0

/-- Class reserves of a SCH_CLASS_RSV value, in MiB. -/
def rsvMiB (v : Nat) : Nat := (List.range 6).foldl (fun a c => a + nbits v (8 * c + 7) (8 * c)) 0

/-- Cells of class c that stand in its class reserve. -/
def State.rsvUsed (s : State) (c : Nat) : Nat :=
  (s.sw.buf.filter (fun x => x.admitted && x.pkt.cls.toNat == c)).foldl (fun a x => a + (x.cells - x.pool)) 0

/-- Free cells of the shared pool. -/
def State.poolFree (s : State) : Nat :=
  1572864 - s.linkReserve - 8192 * rsvMiB (s.reg rSchClassRsv) - s.sw.buf.foldl (fun a x => a + x.pool) 0

/-- Pool cells charged to an account, or to a parcel in every class. -/
def State.poolUse (s : State) (acct : Option Nat) (cls : Option Nat) : Nat :=
  (s.sw.buf.filter (fun x => x.account == acct && (cls.isNone || cls == some x.pkt.cls.toNat))).foldl (fun a x => a + x.pool) 0

/-- A use is below 2^ALPHA × the free cells, ALPHA in two's complement, −4 to 3. -/
def belowAlpha (alpha use free : Nat) : Bool := if alpha < 4 then decide (use < free * 2 ^ alpha) else decide (use * 2 ^ (8 - alpha) < free)

/-- The pool test of R373, cell by cell: every cell passes as 0; a cell meets a full pool as 1, a parcel limit as 2. The last cell is the
hardest, since each one before it has raised the use and lowered the free cells. -/
def State.poolTest (s : State) (acct : Option Nat) (cls cells : Nat) : Nat :=
  if cells == 0 then 0
  else
    let ahead := cells - 1
    let fits := decide (cells ≤ s.poolFree) && belowAlpha (s.fld rSchCtl 10 8) (s.poolUse acct (some cls) + ahead) (s.poolFree - ahead)
    match acct with
    | some n =>
      let lim := s.fld (rSchParcelLim (n / 8)) (8 * (n % 8) + 7) (8 * (n % 8))
      if lim != 0 && 8192 * lim ≤ s.poolUse acct none + ahead then 2 else if fits then 0 else 1
    | none => if fits then 0 else 1

/-- Cells of a packet that go to the pool: what the class reserve has no room for. -/
def State.poolShare (s : State) (cls cells : Nat) : Nat := cells - (8192 * s.fld rSchClassRsv (8 * cls + 7) (8 * cls) - s.rsvUsed cls)

/-- CLASS_RSV_WRITE: refused when link and class reserves together would exceed 96 MiB (R372). -/
def State.classRsvWrite (s : State) (v : Word) : State :=
  s.cfgDo rSchClassRsv (fun s =>
    if 96 * 8192 < s.linkReserve + 8192 * rsvMiB v.toNat then s.setBit rSchStat 48 true
    else (s.setReg rSchClassRsv (v.toNat % 2 ^ 48)).setBit rSchStat 48 false)

def execClassRsvWrite (v : Word) (s : State) : Host.Outcome State Fault Refusal := .next (s.classRsvWrite v)

/-! ### Path epochs and drain markers (R130, R379) -/

def State.path (s : State) (t : Nat) : Path := kgetD s.paths t {}
def State.setPath (s : State) (t : Nat) (x : Path) : State := { s with paths := kset s.paths t x }

/-- Cells in use of a buffer bank. -/
def State.bankUsed (s : State) (b : Nat) : Nat := s.sw.buf.foldl (fun a x => a + x.banks.count b) 0

/-- The slices that a packet's cells may go to, preferred first: its block's own, the others of the region, the rest (R367). -/
def sliceOrder (block : Nat) : List Nat :=
  let same := (List.range 16).filter (fun n => n != block && n / 4 == block / 4)
  block :: same ++ (List.range 16).filter (fun n => n / 4 != block / 4)

/-- The bank of the next cell: in the first slice with a free cell, the first bank with one of its 6,144 from a rotating start (R17, R367). -/
def State.nextBank (s : State) (block : Nat) (taken : List Nat) : Option Nat :=
  let from' := s.sw.nextId + taken.length
  ((sliceOrder block).flatMap (fun n => (List.range 16).map (fun k => 16 * n + (from' + k) % 16))).find?
    (fun b => decide (s.bankUsed b + taken.count b < 6144))

/-- Banks for n more cells; fewer when the buffer has no more free cells. -/
def State.placeCells (s : State) (block : Nat) : Nat → List Nat → List Nat
  | 0, taken => taken
  | n + 1, taken => match s.nextBank block taken with
    | some b => s.placeCells block n (taken ++ [b])
    | none => taken

/-- The 1,572,864 cells have room for n more (R30, R372). -/
def State.hasRoom (s : State) (block n : Nat) : Bool := (s.placeCells block n []).length == n

/-- Writes a packet into the buffer, each cell by its bank's arbiter; without free cells its internal source stalls (R17, R30, R366, R373). -/
def State.store (s : State) (x : Stored) : State :=
  let bs := s.placeCells (x.input / 8 % 16) x.cells []
  if bs.length < x.cells then { s with sw := { s.sw with stalled := s.sw.stalled ++ [x] } }
  else
    let s1 : State := { s with sw := { s.sw with buf := s.sw.buf ++ [{ x with id := s.sw.nextId, banks := bs }], nextId := s.sw.nextId + 1 } }
    bs.foldl (fun s b => s.tick (aidBank b)) s1

/-- A packet of an internal source goes into the buffer when its account passes the pool test and nothing of its input stalls before it;
otherwise its source stalls (R373). -/
def State.storeInner (s : State) (x : Stored) : State :=
  let share := s.poolShare x.pkt.cls.toNat x.cells
  if s.sw.stalled.any (fun y => y.input == x.input) || s.poolTest x.account x.pkt.cls.toNat share != 0 then
    { s with sw := { s.sw with stalled := s.sw.stalled ++ [x] } }
  else (s.count pgSch 11 (share - x.pool)).store { x with pool := share }

/-- Stalled packets of internal sources are tested again, in their order (R373). -/
def State.unstall (s : State) : State :=
  s.sw.stalled.foldl (fun s x => s.storeInner x) { s with sw := { s.sw with stalled := [] } }

/-- A drain marker of the path to t for its old epoch, down one port; TID holds the port, FLOW the old epoch, which the far end's ingress
does not write again. -/
def State.sendDrn (s : State) (t epoch j : Nat) : State :=
  let p : Packet := { opcode := BitVec.ofNat 8 opDRN, ord := true, tid := BitVec.ofNat 16 j, epoch := BitVec.ofNat 8 epoch, flow := BitVec.ofNat 16 epoch,
                      dst := BitVec.ofNat 17 (t * 128), src := BitVec.ofNat 10 s.ix, agent := agCompanion }
  (s.count pgStk 11).storeInner { id := 0, pkt := p, input := j, cells := 1, account := none, admitted := true, outs := [(j, 0)] }

/-- The path epoch to a Tiolo increments, and a marker follows on each old first hop that is still alive; a port that has just come up is
no part of an old path (R130, R379). -/
def State.bumpEpoch (s : State) (t : Nat) (fresh : Option Nat := none) : State :=
  if t == s.ix || !s.inGrid t then s
  else
    let x := s.path t
    let ports := ((s.firstTrunks t).foldl (fun (a : List Nat) m => m.foldl insertNew a) []).filter (fun j => some j != fresh)
    let s1 := (s.setPath t { epoch := (x.epoch + 1) % 256, drains := x.drains ++ ports.map (fun j => (j, x.epoch)) }).count pgSch 4
    ports.foldl (fun a j => a.sendDrn t x.epoch j) s1

/-- The ingress holds an ordered packet while a path of an earlier epoch than its own still drains (R379). -/
def State.heldOrd (s : State) (p : Packet) : Bool :=
  p.ord && p.opcode.toNat != opDRN && p.src.toNat == s.ix &&
  (s.path (p.dst.toNat / 128)).drains.any (fun d => let older := (p.epoch.toNat + 256 - d.2 % 256) % 256; 1 ≤ older && older < 128)

/-! ### Delivery to an endpoint (R446) -/

/-- A completion for an agent behind a port of this Tiolo. -/
def State.forEndpoint (s : State) (p : Packet) : Bool := p.opcode.toNat == opCMP && p.agent.toNat < 2048 && destOf p == s.ix

/-- It is late when its request is no longer tracked: it is discarded and counted (R446). -/
def State.lateEndpoint (s : State) (p : Packet) : Bool := s.forEndpoint p && (s.trackerFor p).isNone

/-- A completion on its way to the port of its agent: its request is no longer tracked, and it leaves at level 0 (R347, R446). -/
def State.toEndpoint (s : State) (p : Packet) : State := if s.forEndpoint p then s.dropTracker p else s

/-! ### Ingress (R341, R366, R375, R381) -/

/-- The scheduler input of an internal source for a packet to output j (R368). -/
def inputOf (src : Source) (j : Nat) : Nat :=
  match src with
  | .port p => p.val
  | .tile t => 8 * (t.val / 16) + t.val % 8
  | .region r => 32 * r.val + j % 32

/-- What an arriving packet's ingress makes of it: rejected with a status, or stored with its outputs and internal delivery. -/
inductive Ruling where
  | refuse (st : Status)
  | drop
  /-- No live route (R448). -/
  | noRoute
  | go (p : Packet) (outs : List (Nat × Nat)) (internal : Bool)
  deriving DecidableEq, Repr

/-- A member of a multicast lies in the grid (R381). -/
def State.mcxInGrid (s : State) (m : Mcx) : Bool :=
  (List.range 32).all (fun i => !m.members.getLsbD i || decide (i < (if m.axis then s.rows else s.cols)))

/-- The ports of PORTS. -/
def mcxPorts (m : Mcx) : List Nat := (List.range 128).filter (fun p => m.ports.getLsbD p)

/-- The port is an endpoint: its role is ACCEL or ETH (R41). -/
def State.endpointPort (s : State) (j : Nat) : Bool := s.portRole j == roleAccel || s.portRole j == roleEth

/-- The local delivery of a multicast: the endpoints of PORTS, or the internal target (R41, R381). -/
def State.mcxLocal (s : State) (p : Packet) (m : Mcx) : List (Nat × Nat) :=
  ((mcxPorts m).filter s.endpointPort).map (fun j => (j, vcOf p.cls.toNat 0))

/-- A request that R346 or R381 refuses: UNSUPPORTED, or ACCESS_FAULT when its GFA lies outside the grid as well (R11, R41). -/
def State.badRequest (s : State) (p : Packet) : Status := if s.inGrid (gfaHome p.gfa) then stUnsupported else stAccessFault

/-- The packet names an endpoint of this Tiolo by a port that is none (R41). KEYP, PNT and PNC go to module ports. -/
def State.noEndpoint (s : State) (p : Packet) (e : Entry) : Bool :=
  let op := p.opcode.toNat
  !(op == opPNT || op == opPNC || op == opKEYP) &&
  match endPort p e with
  | some j => !s.endpointPort j
  | none => p.cls != 0 && p.dst.toNat % 128 != 0 && !s.endpointPort (p.dst.toNat % 128)

/-- The outputs of a multicast at its sending Tiolo: one trunk member for each other member, with local delivery for its own bit. -/
def State.mcxRule (s : State) (p : Packet) (m : Mcx) : Ruling :=
  let own := if m.axis then s.row else s.col
  let others := (List.range 32).filter (fun i => m.members.getLsbD i && i != own)
  let v := vcOf p.cls.toNat 0
  let trunks := others.map (fun i => s.trunk m.axis i)
  let outs := (trunks.filter (fun t => !t.isEmpty)).map (fun t => (s.member p v t, v))
  let bad := !s.mcxInGrid m || (p.ord && decide (1 < others.length))
  if bad then (if p.cls == 0 then .refuse (s.badRequest p) else .drop)
  else
    let here := m.members.getLsbD own
    .go p ((if here then s.mcxLocal p m else []) ++ outs) (here && (mcxPorts m).isEmpty)

/-- The ruling on a packet and the switch state after its route choice. -/
def State.ruling (s : State) (p : Packet) (e : Entry) : State × Ruling :=
  if p.cls.toNat > 5 || !knownOp p.opcode.toNat then (s, if isRequest p then .refuse (s.badRequest p) else .drop)
  else
    match p.mcx with
    | some m =>
      if e == .grid then (s, .go p (s.mcxLocal p m) (mcxPorts m).isEmpty) else (s, s.mcxRule p m)
    | none =>
      let t := destOf p
      if e == .edge && proxyOp p.opcode.toNat && t != s.ix && s.inGrid t then (s, .go p [] true)
      else if !s.inGrid t then (s, if p.cls == 0 then .refuse stAccessFault else .drop)
      else if t == s.ix then
        if s.noEndpoint p e then (s, if p.cls == 0 then .refuse stAccessFault else .drop)
        else match endPort p e with
        | some j => (s, .go p [(j, vcOf p.cls.toNat 0)] false)
        | none => (s, .go p [] true)
      else
        let q := if p.cls == 0 && p.opcode.toNat != opDRN then { p with dst := BitVec.ofNat 17 (t * 128) } else p
        match s.route q t with
        | (s1, q1, some j) => (s1, .go q1 [(j, vcOf q1.cls.toNat q1.hop.toNat)] false)
        | (s1, _, none) => (s1, .noRoute)

/-- No live route: a request completes at once with TIMEOUT, and a TIMEOUT record is raised, with the arbiter that ordered the packet
first and its number there (R24, R448). -/
def State.noRoute (s : State) (i aid : Nat) (p : Packet) : State :=
  if p.cls == 0 then
    let s1 := (s.complete p stTimeout).count pgFb 6
    s1.note (i / 8) (pgBlock (i / 8)) clsTimeout 2 aid (p.agent.toNat + p.tid.toNat * 2 ^ 16 + p.opcode.toNat * 2 ^ 32)
      p.gfa.toNat stTimeout (s.parcelOf p.job.toNat)
  else s.ageDiscard i p

/-- What the Tiolo writes into a packet from an ACCEL port (R341). -/
def State.stampAccel (s : State) (j : Nat) (p : Packet) : Packet :=
  { p with src := BitVec.ofNat 10 s.ix, agent := BitVec.ofNat 12 (nbits p.agent.toNat 10 7 * 128 + j), age := 0, hop := 0, nmh := false,
           epoch := BitVec.ofNat 8 (s.path (destOf p)).epoch }

/-- The job check of a packet from an ACCEL port (R341, R430), which fails while a composition removes the port (R436): snoop answers carry
no job of their own. -/
def State.jobCheck (s : State) (j : Nat) (p : Packet) : Status :=
  if p.opcode.toNat == opSAK || p.opcode.toNat == opSDA then stOK
  else match s.portParcel j with
    | none => stAccessFault
    | some n =>
      if s.pclState n == 5 && p.cls == 0 then stRevoked
      else if s.binds n p.job.toNat && !s.portLeaves n j then stOK else stAccessFault

/-- A request that the job check refuses counts on the page of the port's parcel: REVOKED in PG_CNT4, ACCESS_FAULT in PG_CNT5 (R442). -/
def State.countRefused (s : State) (j : Nat) (p : Packet) (st : Status) : State :=
  match s.portParcel j with
  | some n => if p.cls == 0 then s.count (pgPcl n) (if st == stRevoked then 4 else 5) else s
  | none => s

/-! ### Sampling (R386) -/

/-- Sample payloads are masked by the lifecycle state and SEC_POLICY.SAMPLE_CLEAR (R494). -/
def State.sampleMasked (s : State) : Bool :=
  match s.sec.life.state with
  | 1 => false
  | 4 => false
  | 3 => !s.bit rSecPolicy 0
  | _ => true

/-- A job tag that a parcel binds. -/
def State.jobOf (s : State) (n : Nat) : Option Nat :=
  ((List.range 4).find? (fun i => nbit (s.grant n 7) i)).map (fun i => nbits (s.grant n 6) (16 * i + 15) (16 * i))

/-- Records of a ring: 2^SIZE_LOG2 within [lo, 20], lo for other values. -/
def ringSize (reg lo : Nat) : Nat := if lo ≤ nbits reg 52 48 && nbits reg 52 48 ≤ 20 then 2 ^ nbits reg 52 48 else 2 ^ lo

/-- The 256 B record of a sample (R386). -/
def sampleBytes (x : Sample) : List Byte :=
  let body := pktHeader x.pkt ++ (if x.masked then [] else x.pkt.payload)
  let w := x.port + x.cls * 2 ^ 8 + (if x.trunc then 2 ^ 11 else 0) + (if x.masked then 2 ^ 12 else 0) + x.len % 2 ^ 13 * 2 ^ 16 +
    x.dropped % 2 ^ 32 * 2 ^ 32
  leBytes 8 w ++ leBytes 8 x.seq ++ leBytes 8 x.cycle ++ leBytes 1 x.k ++ leBytes 39 0 ++ slice body 0 192

/-- The write of a ring record: a WRI from the companion processor's agent under a job tag of the ring's parcel (R387). -/
def State.ringPacket (s : State) (ring off : Nat) (tid : BitVec 16) (bytes : List Byte) : Option Packet :=
  (s.jobOf (nbits ring 61 56)).map (fun j =>
    { opcode := BitVec.ofNat 8 opWRI, len := bytes.length, tid := tid, job := BitVec.ofNat 16 j,
      gfa := BitVec.ofNat 56 (s.ix * 2 ^ 46 + nbits ring 45 12 * 0x1000 + off), dst := BitVec.ofNat 17 (s.ix * 128),
      src := BitVec.ofNat 10 s.ix, agent := agCompanion, payload := bytes })

/-- A record is written to the sample ring, when a job tag of its parcel is bound. -/
def State.ringWrite (s : State) (ring : Nat) (off : Nat) (bytes : List Byte) : State :=
  match s.ringPacket ring off 0xFFFF bytes with
  | none => s
  | some p => s.send p

/-- Samples a packet at a port's ingress: one in 2^K of its class; a full ring drops the sample (R386, R387). -/
def State.sample (s : State) (j : Nat) (p : Packet) : State :=
  let c := p.cls.toNat
  let r := s.reg (rPortSmp j)
  if c > 5 || !nbit r (6 * c + 5) then s
  else
    let k := min 20 (nbits r (6 * c + 4) (6 * c))
    let n := kgetD s.sw.sampleCnt (8 * j + c) 0 + 1
    if n < 2 ^ k then { s with sw := { s.sw with sampleCnt := kset s.sw.sampleCnt (8 * j + c) n } }
    else
      let s1 := ({ s with sw := { s.sw with sampleCnt := kset s.sw.sampleCnt (8 * j + c) 0 } } : State).tick aidSampler
      let ring := s1.reg rSchSmpRing
      let size := ringSize ring 8
      let head := s1.fld rSchSmpHead 31 0 + s1.sw.samples.length
      if !nbit ring 63 then s1
      else if (head + 2 ^ 32 - s1.fld rSchSmpTail 31 0) % 2 ^ 32 ≥ size then
        (({ s1 with sw := { s1.sw with dropped := s1.sw.dropped + 1 } } : State).setFld rSchSmpHead 63 32 (s1.fld rSchSmpHead 63 32 + 1)).count pgSch 15
      else
        let x : Sample := { seq := s1.seq aidSampler, port := j, cls := c, trunc := decide (192 < pktBytes p), masked := s1.sampleMasked,
                            len := pktBytes p, cycle := s1.sw.cycle, k := k, pkt := p, dropped := s1.sw.dropped }
        ({ s1 with sw := { s1.sw with samples := s1.sw.samples ++ [x], dropped := 0 } } : State).ringWrite ring (head % size * 256) (sampleBytes x)

/-- SAMPLE_RECORD_WRITTEN: the oldest record's write has completed; HEAD advances and the stake may be released (R387). -/
def State.sampleWritten (s : State) : State :=
  match s.sw.samples with
  | [] => s
  | _ :: rest =>
    let s1 : State := { s with sw := { s.sw with samples := rest } }
    let s2 := (s1.setFld rSchSmpHead 31 0 (s1.fld rSchSmpHead 31 0 + 1)).count pgSch 14
    if s2.bit rSchSmpTail 48 then s2.srelLocal (s2.fld rSchSmpTail 45 32) 1 1 agCompanion else s2

def execSampleRecordWritten (s : State) : Host.Outcome State Fault Refusal := .next s.sampleWritten

/-! ### PACKET_INGRESS (R366) -/

/-- Flits of a channel become free at a port: their credit returns (R354, R373). -/
def State.freeFlits (s : State) (j v n : Nat) : State :=
  let l := s.link j
  s.setLink j { l with freed := kset l.freed v (kgetD l.freed v 0 + n) }

/-- A request of an agent behind a port is tracked by the port's ingress (R446). -/
def State.trackOutside (s : State) (p : Packet) : State :=
  if isRequest p && p.agent.toNat < 2048 then
    { s with recov := { s.recov with trackers := s.recov.trackers ++ [{ req := p, purpose := .outside, dest := destOf p }] } }
  else s

/-- A request is tracked once it has come in at an ACCEL port, so that a refusal of it finds its tracker (R446). -/
def State.trackAccel (s : State) (j : Nat) (p : Packet) : State := if s.portRole j == roleAccel then s.trackOutside p else s

/-- The packet that arrived: its channel and the core cycle of its header's frame; a packet not received over the link has just come. -/
def State.arrived (s : State) (j : Nat) (p : Packet) : Nat × Nat :=
  match (s.link j).received.find? (fun r => r.pkt == p) with
  | some r => (r.vc, r.cycle)
  | none => (vcOf p.cls.toNat (if s.portRole j == roleGrid then p.hop.toNat else 0), s.sw.cycle)

/-- A packet from a port: ordered by the block ingress and the scheduler cell, stamped, checked, sampled, and held in the link reserve
until it is admitted. A late completion is discarded (R446). A full buffer takes no packet. -/
def State.portIngress (s : State) (j : Nat) (p0 : Packet) : State :=
  let role := s.portRole j
  let l := s.link j
  let a := s.arrived j p0
  let v := a.1
  let s0 := ((s.setLink j { l with received := l.received.eraseP (fun r => r.pkt == p0) }).tick (aidLink j)).tick (aidInput j)
  let s1 := s0.sample j p0
  let p := if role == roleAccel then s1.stampAccel j p0 else if role == roleGrid then { p0 with hop := p0.hop + 1 } else p0
  let flits := pktFlits p0
  let st := if role == roleAccel then s1.jobCheck j p else stOK
  if st != stOK then (((s1.trackAccel j p).countRefused j p st).refusePkt (some j) p st).freeFlits j v flits
  else
    match s1.ruling p (if role == roleGrid then .grid else .edge) with
    | (s2, .refuse st) => ((s2.trackAccel j p).refusePkt (some j) p st).freeFlits j v flits
    | (s2, .drop) => (s2.count (pgPort j) 11).freeFlits j v flits
    | (s2, .noRoute) => (((s2.trackAccel j p).noRoute j (aidLink j) p).freeFlits j v flits)
    | (s2, .go q0 outs0 inn0) =>
      let toProxy := p.opcode.toNat == opCMP && destOf p == s.ix && s.proxyAwaits p
      if !toProxy && s2.lateEndpoint p then (s2.count pgFb 5).freeFlits j v flits
      else if !s.hasRoom (j / 8) (pktCells q0) then s
      else
        let outs := if toProxy then [] else outs0
        let inn := inn0 || toProxy
        let q := if !toProxy && s2.forEndpoint p then { q0 with hop := 0 } else q0
        let s3 := if toProxy then s2 else s2.toEndpoint p
        let s4 := if role == roleAccel then s3.trackOutside q else s3
        let s5 := if q.mcx.isSome then s4.count pgSch 6 else s4
        let s6 := if s5.heldOrd q then s5.count pgSch 5 else s5
        s6.store { id := 0, pkt := q, input := j, cells := pktCells q, account := if role == roleGrid then none else s6.portParcel j,
                   link := some (j, v), res := s.sw.cycle - a.2, outs := outs, internal := inn, multicast := q.mcx.isSome }

/-- The shaper target of an internal source's packet (R398): KIND and parcel. -/
def State.shaperFor (s : State) (p : Packet) : Option (Nat × Nat) :=
  let n := s.parcelOf p.job.toNat
  let tier := match s.trackerFor p with
    | some t => (match t.purpose with
      | .tier _ => true
      | _ => false)
    | none => false
  match n with
  | none => none
  | some n =>
    if p.opcode.toNat == opTRVD then some (1, n)
    else if p.agent == agTraverse && tier && !p.payload.isEmpty then some (2, n)
    else if 0x800 ≤ p.agent.toNat && p.agent.toNat < 0x900 && p.cls == 0 then some (3, n)
    else none

/-- A packet that RoCE ingress issued for a yellow frame: the input colour of its contract (R397). -/
def State.roceColour (s : State) (p : Packet) : Colour :=
  if s.roce.qps.any (fun q => q.2.reqs.any (fun r => r.pkt.tid == p.tid && r.pkt.agent == p.agent && r.yellow)) then .yellow else .green

/-- The grade that a meter tests: the highest of a packet's outputs, or of its internal target (R394). -/
def State.firstGrade (s : State) (p : Packet) (outs : List (Nat × Nat)) (inn : Bool) : Nat :=
  let a := outs.foldl (fun g o => max g (s.grade o.1)) 0
  if !inn || p.cls != 0 then a
  else
    let off := gfaOff p.gfa
    match placeOf off with
    | .stake n _ => max a (s.grade (136 + n / 4096))
    | .slot m => max a (match s.slotPort m with
      | some q => s.grade q
      | none => 0)
    | _ => match s.extAt off with
      | some (_, x) => max a (s.grade ((if x.coh then 132 else 128) + s.homeRegion off))
      | none => max a (s.grade (128 + s.homeRegion off))

/-- The slice that a request for an internal target goes to: its line's home here, or its proxy's slice (R64, R90). -/
def State.sliceFor (s : State) (p : Packet) : Nat :=
  if gfaHome p.gfa == s.ix then s.homeRegion (gfaOff p.gfa) else s.keySlice (p.gfa.toNat / 128)

/-- A slice withholds REQ-class credits from a request for it while its conflict queue or its hold queue is full (R66, R295). -/
def State.sliceHolds (s : State) (p : Packet) (inn : Bool) : Bool := inn && p.cls == 0 && s.sliceFull (s.sliceFor p)

/-- The parcel that a tile leaves with its release: new requests of it complete with REVOKED (R430). -/
def State.releasingTile (s : State) (src : Source) : Option Nat :=
  match src with
  | .tile t => (s.tileParcel t.val).filter (fun n => s.pclState n == 5)
  | _ => none

/-- The source is a tile of a RELEASING parcel. -/
def State.tileReleasing (s : State) (src : Source) : Bool := (s.releasingTile src).isSome

/-- Such a request counts on the parcel's page (R442). -/
def State.countReleasing (s : State) (src : Source) : State :=
  match s.releasingTile src with
  | some n => s.count (pgPcl n) 4
  | none => s

/-- A packet of an internal source: shaped, routed and admitted, or left with its source when something holds it (R368, R373, R398).
`first` is the arbiter that ordered it before, if one did (R24). -/
def State.innerIngress (s : State) (src : Source) (e : Entry) (p0 : Packet) (first : Option Nat := none) : State :=
  let p := { p0 with epoch := BitVec.ofNat 8 (s.path (destOf p0)).epoch }
  let shp := s.shaperFor p0
  let open' := match shp with
    | some (k, n) => s.shaperOpen k n 0
    | none => true
  let taken (x : State) : State := { x with out := x.out.erase p0 }
  if isRequest p && s.tileReleasing src then (taken (s.countReleasing src)).refusePkt none p stRevoked
  else if !open' then s.count pgMtr 6
  else
    match s.ruling p e with
    | (s1, .refuse st) => (taken s1).refusePkt none p st
    | (s1, .drop) => taken s1
    | (s1, .noRoute) => ((taken s1).tick (aidInput (inputOf src 0))).noRoute (inputOf src 0) (first.getD (aidInput (inputOf src 0))) p
    | (s1, .go q0 outs inn) =>
      let i := inputOf src ((outs.map (fun o => o.1)).headD 0)
      if s1.lateEndpoint p then (taken s1).count pgFb 5
      else if s1.sliceHolds p inn then s
      else
        let q := if s1.forEndpoint p then { q0 with hop := 0 } else q0
        let share := s1.poolShare q.cls.toNat (pktCells q)
        let acct := s1.parcelOf q.job.toNat
        let roce := q.agent.toNat / 256 == 0xC && (q.cls == 0 || q.cls == 4)
        let port := q.agent.toNat % 256
        let full := s1.poolTest acct q.cls.toNat share
        if full != 0 then s.count pgSch (if full == 2 then 12 else 13)
        else
          let r := if roce then s1.contractTest ((s1.portParcel port).getD 64) (64 * pktFlits q) (s1.firstGrade q outs inn) (s1.roceColour q)
                   else (s1, true)
          if !r.2 then { s with traf := r.1.traf, regs := r.1.regs, seqs := r.1.seqs }
          else
            let s2 := match shp with
              | some (k, n) => ((taken r.1).toEndpoint p).shaperTake k n 0 (64 * pktFlits q)
              | none => (taken r.1).toEndpoint p
            let s3 := (s2.tick (aidInput i)).count pgSch 11 share
            let s4 := if q.mcx.isSome then s3.count pgSch 6 else s3
            let s5 := if s4.heldOrd q then s4.count pgSch 5 else s4
            if outs.isEmpty then s5
            else s5.store { id := 0, pkt := q, input := i, cells := pktCells q, account := acct, pool := share, admitted := true, outs := outs,
                            multicast := q.mcx.isSome }

/-- A packet that the Filard Link has received: the ingress orders it, stamps it as the companion processor's and frees its flits
(R24, R341, R516). -/
def State.filardIngress (s : State) (p0 : Packet) : State :=
  let l := s.link filardLink
  let v := vcOf p0.cls.toNat 0
  let p := { p0 with src := BitVec.ofNat 10 s.ix, agent := agCompanion, age := 0, hop := 0, nmh := false }
  ((((s.setLink filardLink { l with received := l.received.eraseP (fun r => r.pkt == p0) }).tick (aidLink filardLink)).freeFlits filardLink v
    (pktFlits p0)).innerIngress (.region 0) .edge p (some (aidLink filardLink)))

/-- PACKET_INGRESS: a packet enters from a port or an internal source (R366, R368, R375). -/
def State.packetIngress (s : State) (src : Source) (p : Packet) : State :=
  match src with
  | .port j => s.portIngress j.val p
  | .tile _ => s.innerIngress src .edge p
  | .region r => if r = 0 && (s.link filardLink).received.any (fun r => r.pkt == p) then s.filardIngress p else s.innerIngress src .inside p

def execPacketIngress (src : Source) (p : Packet) (s : State) : Host.Outcome State Fault Refusal := .next (s.packetIngress src p)

/-! ### Admission (R373, R394) -/

def State.setBuf (s : State) (l : List Stored) : State := { s with sw := { s.sw with buf := l } }

/-- Replaces a stored packet. -/
def State.putStored (s : State) (x : Stored) : State := s.setBuf (s.sw.buf.map (fun y => if y.id == x.id then x else y))

/-- Removes a stored packet. -/
def State.delStored (s : State) (id : Nat) : State := s.setBuf (s.sw.buf.filter (fun y => y.id != id))

/-- A collective packet whose credits are withheld (R198, R273): its stage's tile has no staging for it, or results of its plan wait
for their slots. -/
def State.colHeld (s : State) (x : Stored) : Bool :=
  x.internal && x.pkt.opcode.toNat == opCOLD &&
  s.coll.plans.any (fun q => q.job == x.pkt.job && q.plan == x.pkt.flow &&
    (s.coll.held.any (fun h => decide (q.slot ≤ h.slot) && decide (h.slot < q.slot + nbits (q.header.getD 2 0).toNat 3 0)) ||
     q.stages.any (fun g => g.binds.any (fun b => ((kget (kgetD s.tiles b.1 {}).bindings b.2.1).map (fun k => !k.waiting.isEmpty)).getD false))))

/-- The oldest packet of a port's channel that is not admitted and whose credits are not withheld. -/
def State.waitingHead (s : State) (j v : Nat) : Option Stored :=
  s.sw.buf.find? (fun x => !x.admitted && x.link == some (j, v) && !s.colHeld x)

/-- More than 2,048 requests of a port are tracked, the packet's own among the surplus (R447). -/
def State.trackersFull (s : State) (j : Nat) (p : Packet) : Bool :=
  let l := s.recov.trackers.filter (fun t => t.purpose == .outside && t.req.agent.toNat % 128 == j)
  p.cls == 0 && ((l.drop 2048).any (fun t => t.matches' p))

/-- One admission test of the head of a port's channel. -/
def State.admitHead (s : State) (j v : Nat) : State :=
  match s.waitingHead j v with
  | none => s
  | some x =>
    let p := x.pkt
    if s.expired p x.res then ((s.delStored x.id).freeFlits j v (pktFlits p)).ageDiscard j p
    else if s.portRole j == roleAccel && s.trackersFull j p then s
    else if s.sliceHolds p x.internal then s
    else
      let share := s.poolShare p.cls.toNat x.cells
      let full := s.poolTest x.account p.cls.toNat share
      if full != 0 then s.count pgSch (if full == 2 then 12 else 13)
      else
        let metered := s.portRole j == roleAccel && (p.cls == 0 || p.cls == 4)
        let r := if metered then s.contractTest ((s.portParcel j).getD 64) (64 * pktFlits p) (s.firstGrade p x.outs x.internal) .green
                 else (s, true)
        if !r.2 then r.1
        else
          let s1 := (r.1.freeFlits j v (pktFlits p)).count pgSch 11 share
          if x.outs.isEmpty then s1.delStored x.id
          else s1.putStored { x with admitted := true, pool := share, link := none, internal := false }

/-- CELL_ADMIT: the head of a port's channel passes its tests, is admitted and its credit returns (R373, R394). -/
def execCellAdmit (p : PortIx) (vc : Fin 18) (s : State) : Host.Outcome State Fault Refusal := .next (s.admitHead p.val vc.val)

/-- The heads that wait for admission: ports ascending from the meter arbiter's pointer, which advances by one port each cycle (R23, R395). -/
def State.waitingHeads (s : State) : List (Nat × Nat) :=
  ((List.range 128).map (fun k => (s.sw.cycle + k) % 128)).flatMap (fun j =>
    ((List.range 18).filter (fun v => (s.waitingHead j v).isSome)).map (fun v => (j, v)))

/-- Held packets are tested again (R394). -/
def State.testHeads (s : State) : State := (if s.sw.buf.isEmpty then [] else s.waitingHeads).foldl (fun a h => a.admitHead h.1 h.2) s

/-- METER_REFILL: every bucket gains, and held packets are tested again (R393, R394). -/
def State.meterRefill (s : State) : State := s.refillMeters.testHeads

def execMeterRefill (s : State) : Host.Outcome State Fault Refusal := .next s.meterRefill

/-- GRADE_UPDATE: every grade is recomputed, and a change tests the held packets again (R390, R394). -/
def State.gradesMeasured (s : State) : State := if s.gradeUpdate.sw.grades == s.sw.grades then s.gradeUpdate else s.gradeUpdate.testHeads

def execGradeUpdate (s : State) : Host.Outcome State Fault Refusal := .next s.gradesMeasured

/-! ### The scheduler (R366, R369–R371, R382) -/

/-- Cells of a stored packet sent on an output and channel. -/
def Stored.sent (x : Stored) (o : Nat × Nat) : Nat :=
  ((x.started.find? (fun q => q.1 == o.1 && q.2.1 == o.2)).map (fun q => q.2.2)).getD 0

def Stored.isStarted (x : Stored) (o : Nat × Nat) : Bool := x.started.any (fun q => q.1 == o.1 && q.2.1 == o.2)

/-- Flits of the next cell. -/
def Stored.nextFlits (x : Stored) (o : Nat × Nat) : Nat := min 2 (pktFlits x.pkt - 2 * x.sent o)

/-- The sub-queue a packet stands in: benchmarks ahead in MGT queues, traverse data apart in DAT queues (R370, R402). -/
def subQueue (p : Packet) : Nat := if p.opcode.toNat == opBMK then 1 else if p.opcode.toNat == opTRVD then 2 else 0

/-- A drain marker leaves a port only after every earlier packet of its class and parcel (R130): a marker serves every parcel. -/
def State.drnReady (s : State) (x : Stored) (j : Nat) : Bool :=
  x.pkt.opcode.toNat != opDRN ||
  !s.sw.buf.any (fun y => decide (y.id < x.id) && y.pkt.cls == x.pkt.cls && y.outs.any (fun o => o.1 == j))

/-- Credits that a packet needs to go on: for its next cell; to start as a gated unit, which then takes every data slot, for all its
flits, or for all that the far end advertised if they are fewer (R369, R402, R403). -/
def State.creditsNeeded (s : State) (x : Stored) (o : Nat × Nat) : Nat :=
  if subQueue x.pkt == 2 && (s.gate o.1).isSome && !x.isStarted o then
    min (pktFlits x.pkt) (((s.link o.1).far.map (fun f => f.vcMin.toNat)).getD (x.nextFlits o))
  else x.nextFlits o

def State.eth (s : State) (p : Nat) : EthPort := kgetD s.roce.eth p {}
def State.setEth (s : State) (p : Nat) (e : EthPort) : State := { s with roce := { s.roce with eth := kset s.roce.eth p e } }

/-- The port is an ETH port whose link is up (R364). -/
def State.ethOpen (s : State) (p : Nat) : Bool := s.portRole p == roleEth && s.portState p == 2 && (s.link p).ethUp

/-- An Ethernet frame may go to its output in this round: a started one goes on; one that starts heads its priority, which is not paused,
and its gate and shaper let it (R369, R398, R400, R411). -/
def State.frameEligible (s : State) (x : Stored) (o : Nat × Nat) (f : EthOut) : Bool :=
  x.outs.contains o && s.ethOpen o.1 &&
  match s.sw.buf.find? (fun y => y.started.any (fun q => q.1 == o.1)) with
  | some y => y.id == x.id
  | none =>
    !s.sw.buf.any (fun y => decide (y.id < x.id) && y.frame.isSome && y.outs.contains o) && !(s.eth o.1).paused.getLsbD f.prio &&
    s.gateMayStart o.1 f.prio f.len && s.shaperOpen 0 o.1 f.prio

/-- The packet may go to output and channel o in this round: R369's conditions, and the head of its sub-queue. -/
def State.packetEligible (s : State) (x : Stored) (o : Nat × Nat) : Bool :=
  x.admitted && x.outs.contains o && s.portUp o.1 && decide (s.creditsNeeded x o ≤ s.creditOf o.1 o.2) &&
  !(s.sw.buf.any (fun y => y.id != x.id && subQueue y.pkt == 2 && (s.gate o.1).isSome && y.started.any (fun q => q.1 == o.1))) &&
  match s.sw.buf.find? (fun y => y.isStarted o) with
  | some y => y.id == x.id
  | none =>
    let fit (y : Stored) : Bool := y.admitted && y.outs.contains o && !s.expired y.pkt y.res && !s.heldOrd y.pkt
    fit x && s.drnReady x o.1 &&
    !s.sw.buf.any (fun y => decide (y.id < x.id) && y.input == x.input && subQueue y.pkt == subQueue x.pkt && fit y) &&
    (subQueue x.pkt != 2 || s.gateMayStart o.1 0 (64 * pktFlits x.pkt)) &&
    !(x.multicast && !x.residue && decide (8192 ≤ (s.sw.buf.filter (fun y => y.residue)).length))

/-- A stored packet or frame may go to output and channel o in this round (R369). -/
def State.eligible (s : State) (x : Stored) (o : Nat × Nat) : Bool :=
  match x.frame with
  | some f => s.frameEligible x o f
  | none => s.packetEligible x o

/-- Every eligible (packet, output and channel). -/
def State.requests (s : State) : List (Stored × (Nat × Nat)) :=
  s.sw.buf.flatMap (fun x => (x.outs.filter (fun o => s.eligible x o)).map (fun o => (x, o)))

/-- The element of a list that comes first counting from `base` modulo 128. -/
def firstFrom (base : Nat) : List Nat → Option Nat
  | [] => none
  | a :: rest => match firstFrom base rest with
    | none => some a
    | some b => if (a + 128 - base) % 128 ≤ (b + 128 - base) % 128 then some a else some b

/-- What a matching has so far: matches, and the pointers. -/
structure Matching where
  pairs : List (Nat × Nat) := []
  gptr : KMap Nat
  aptr : KMap Nat
  deriving DecidableEq, Repr

/-- One iteration (R369): grants by output, accepts by input; pointers move only on a first-iteration accept. -/
def matchIter (reqs : List (Nat × Nat)) (first : Bool) (m : Matching) : Matching :=
  let open' := reqs.filter (fun r => !m.pairs.any (fun q => q.1 == r.1 || q.2 == r.2))
  let outs := (open'.map (fun r => r.2)).foldl insertNew []
  let grants := outs.filterMap (fun j =>
    (firstFrom (kgetD m.gptr j 0) ((open'.filter (fun r => r.2 == j)).map (fun r => r.1))).map (fun i => (i, j)))
  let ins := (grants.map (fun g => g.1)).foldl insertNew []
  let acc := ins.filterMap (fun i =>
    (firstFrom (kgetD m.aptr i 0) ((grants.filter (fun g => g.1 == i)).map (fun g => g.2))).map (fun j => (i, j)))
  acc.foldl (fun a p =>
    if first then { pairs := a.pairs ++ [p], gptr := kset a.gptr p.2 ((p.1 + 1) % 128), aptr := kset a.aptr p.1 ((p.2 + 1) % 128) }
    else { a with pairs := a.pairs ++ [p] }) m

/-- The channel and packet that a match serves (R370): a continued packet, else a benchmark, else the rotating pointer's next. -/
def State.serve (s : State) (reqs : List (Stored × (Nat × Nat))) (m : Nat × Nat) : Option (Stored × (Nat × Nat)) :=
  let l := reqs.filter (fun r => r.1.input == m.1 && r.2.1 == m.2)
  match l.find? (fun r => r.1.isStarted r.2) with
  | some r => some r
  | none => match l.find? (fun r => subQueue r.1.pkt == 1) with
    | some r => some r
    | none =>
      let from' := kgetD s.sw.vptr m.2 0
      l.foldl (fun b r => match b with
        | none => some r
        | some q => if (r.2.2 + 18 - from') % 18 < (q.2.2 + 18 - from') % 18 then some r else some q) none

/-- The header a copy carries on output j: a GRID link takes the age so far (R383). -/
def State.outgoing (s : State) (x : Stored) (j : Nat) : Packet :=
  if s.portRole j == roleGrid then { x.pkt with age := BitVec.ofNat 16 (min 0xFFFF (x.pkt.age.toNat + s.res64 x.res)) } else x.pkt

/-- A frame has left an ETH port; DONE of a raw frame is set (R426). -/
def State.frameSent (s : State) (p : Nat) (t : RoceTx) : State :=
  let s1 := s.setEth p { s.eth p with lastTx := some t }
  match t with
  | .raw _ _ => s1.setBit rRoceRawTx1 62 true
  | _ => s1

/-- One cell of an Ethernet frame crosses to its output: the frame takes its shaper's tokens as it starts, and is a gated unit where the
port has a gate list (R399, R406). -/
def State.frameCell (s : State) (x : Stored) (o : Nat × Nat) (f : EthOut) : State :=
  let k := x.sent o
  let s0 := match x.banks[k]? with
    | some b => s.tick (aidBank b)
    | none => s
  let s1 : State := { s0 with sw := { s0.sw with vptr := kset s0.sw.vptr o.1 ((o.2 + 1) % 18) } }
  let s2 := if k == 0 then (s1.shaperTake 0 o.1 f.prio (f.len + s1.fld (rPortGateTime o.1) 7 0)).count pgGl 0 (if (s1.gate o.1).isSome then 1 else 0)
    else s1
  if k + 1 < x.cells then s2.putStored { x with started := [(o.1, o.2, k + 1)] } else (s2.delStored x.id).frameSent o.1 f.tx

/-- One cell of a packet crosses to an output: its flits are queued for frames, their credits are used; the last cell ends the copy. -/
def State.packetCell (s : State) (x : Stored) (o : Nat × Nat) : State :=
  let n := x.nextFlits o
  let k := x.sent o
  let total := pktFlits x.pkt
  let l := s.link o.1
  let flits : List TxFlit := (List.range n).map (fun i => packetFlit (s.outgoing x o.1) o.2 (2 * k + i))
  let s0 := match x.banks[k]? with
    | some b => s.tick (aidBank b)
    | none => s
  let s1 := s0.setLink o.1 { l with txq := l.txq ++ flits, credits := kset l.credits o.2 (kgetD l.credits o.2 0 - n) }
  let s2 : State := { s1 with sw := { s1.sw with vptr := kset s1.sw.vptr o.1 ((o.2 + 1) % 18) } }
  let s3 := if k == 0 && subQueue x.pkt == 2 && (s2.gate o.1).isSome then s2.count pgGl 0 else s2
  let rest := x.started.filter (fun q => !(q.1 == o.1 && q.2.1 == o.2))
  if 2 * k + n == total then
    let y : Stored := { x with outs := x.outs.erase o, started := rest }
    if y.outs.isEmpty then s3.delStored x.id
    else if y.multicast && !y.residue then (s3.putStored { y with residue := true }).count pgSch 7 else s3.putStored y
  else
    let y : Stored := { x with started := rest ++ [(o.1, o.2, k + 1)] }
    if y.multicast && !y.residue && decide (1 < y.outs.length) then (s3.putStored { y with residue := true }).count pgSch 7 else s3.putStored y

/-- One cell of a stored packet or frame crosses to an output. -/
def State.sendCell (s : State) (x : Stored) (o : Nat × Nat) : State :=
  match x.frame with
  | some f => s.frameCell x o f
  | none => s.packetCell x o

/-- Serves each match in turn. -/
def State.serveAll (s : State) (reqs : List (Stored × (Nat × Nat))) : List (Nat × Nat) → State
  | [] => s
  | m :: rest =>
    match s.serve reqs m with
    | none => s.serveAll reqs rest
    | some (x, o) =>
      let y := (s.sw.buf.find? (fun z => z.id == x.id)).getD x
      ((s.sendCell y o).count pgSch 1).serveAll reqs rest

/-! ### Expiry (R384, R385) -/

/-- An expired packet loses its copies that have not started; the packet itself goes when none is left. Ethernet frames carry no AGE. -/
def State.expire (s : State) (x : Stored) : State :=
  if x.frame.isSome || !s.expired x.pkt x.res then s
  else
    let keep := x.outs.filter (fun o => x.isStarted o)
    let s1 := match x.link with
      | some (j, v) => if x.admitted then s else s.freeFlits j v (pktFlits x.pkt)
      | none => s
    if keep.length == x.outs.length && !x.outs.isEmpty then s
    else if keep.isEmpty then (s1.delStored x.id).ageDiscard x.input x.pkt
    else (s1.putStored { x with outs := keep }).ageDiscard x.input x.pkt

/-- AGE_SWEEP: every buffered packet is visited (R384). -/
def State.ageSweep (s : State) : State := s.sw.buf.foldl (fun a x => a.expire x) s

def execAgeSweep (s : State) : Host.Outcome State Fault Refusal := .next s.ageSweep

/-- Two switch-core cycles pass in the core (R369, R383, R401). -/
def State.coreCycles (s : State) (n : Nat) : State :=
  let b := s.sw.buf.map (fun x => { x with res := x.res + n })
  let w := s.sw.stalled.map (fun x => { x with res := x.res + n })
  ({ s with sw := { s.sw with buf := b, stalled := w, cycle := s.sw.cycle + n } } : State).gatesPass n

/-- The gate bit and the bytes of a gated unit: a traverse packet, or an Ethernet frame by its priority (R400, R402). -/
def Stored.gated (x : Stored) : Option (Nat × Nat) :=
  match x.frame with
  | some f => some (f.prio, f.len)
  | none => if subQueue x.pkt == 2 then some (0, 64 * pktFlits x.pkt) else none

/-- Gated units that the closing of a gate holds now (R406 PG_CNT1). -/
def State.gateHeld (s : State) : Nat :=
  (s.sw.buf.filter (fun x => x.admitted && x.outs.any (fun o => match x.gated with
    | some (b, n) => !x.isStarted o && s.gateBit o.1 b && !s.gateMayStart o.1 b n
    | none => false))).length

/-- SCHEDULER_ROUND, the fabric outputs: expired heads are discarded, three iterations match inputs to outputs, each match moves one
cell, two cycles pass (R369–R371). -/
def State.fabricRound (s : State) : State :=
  let s0 := (s.unstall.ageSweep.tick aidSched).count pgSch 0
  let reqs := s0.requests
  let pairs := (reqs.map (fun r => (r.1.input, r.2.1))).foldl (fun (a : List (Nat × Nat)) p => if a.contains p then a else a ++ [p]) []
  let m0 : Matching := { gptr := s0.sw.gptr, aptr := s0.sw.aptr }
  let m := matchIter pairs false (matchIter pairs false (matchIter pairs true m0))
  let left := pairs.any (fun r => !m.pairs.any (fun q => q.1 == r.1))
  let full := decide (8192 ≤ (s0.sw.buf.filter (fun y => y.residue)).length)
  let s1 : State := { s0 with sw := { s0.sw with gptr := m.gptr, aptr := m.aptr } }
  let s2 := (((s1.count pgSch 2 (if left then 1 else 0)).count pgSch 8 (if full then 1 else 0)).count pgGl 1 s1.gateHeld)
  (s2.serveAll reqs m.pairs).coreCycles 2

/-! ### DRN at its destination (R130) -/

/-- DRN: at its destination it returns in the RSP class; elsewhere it is stored behind the earlier packets of its path (R130). -/
def State.drn (s : State) (p : Packet) : State :=
  if p.dst.toNat / 128 == s.ix then
    s.send { p with cls := 2, hop := 0, nmh := false, dst := BitVec.ofNat 17 (p.src.toNat * 128), src := BitVec.ofNat 10 s.ix }
  else
    match s.route { p with opcode := BitVec.ofNat 8 opDRN } (p.dst.toNat / 128) with
    | (s1, q, some j) =>
      s1.storeInner { id := 0, pkt := q, input := j, cells := 1, account := none, admitted := true, outs := [(j, vcOf q.cls.toNat q.hop.toNat)] }
    | (s1, _, none) => s1

def execDrn (p : Packet) (s : State) : Host.Outcome State Fault Refusal := .next (s.drn p)

end Sys2Proof.Machine
end

