-- ==== Sys2Proof/Machine/Twins.lean ====
section
/-!
DEFINITION. Twinned operations at their owner (R455–R458): twin areas and state pages, the start of twinning, mirror writes, visible
actions that wait for the partner's answer.
-/
namespace Sys2Proof.Machine

/-! ### Twin areas (R456) -/

/-- TWN_AREA of a parcel and column. -/
def State.twinArea (s : State) (n col : Nat) : Nat := (kgetD s.recov.areas (32 * n + col) 0).toNat

def areaGfa (w : Nat) : Nat := nbits w 55 0
/-- Bytes of one of the 32 sub-areas. -/
def areaSub (w : Nat) : Nat := nbits w 61 56 * 2 ^ 20
def areaValid (w : Nat) : Bool := nbit w 63 && nbits w 61 56 != 0

/-- The first byte of state page j of this Tiolo's sub-area on a column; page 0 is the beat page. -/
def State.twinPage (s : State) (n col j : Nat) : BitVec 56 :=
  let w := s.twinArea n col
  BitVec.ofNat 56 (areaGfa w + areaSub w * s.col + 0x1000 * j)

def State.setOps (s : State) (l : List TwinOp) : State := { s with recov := { s.recov with ops := l } }

/-- The operation is the one of a kind and reference, and of a job where one is named. -/
def TwinOp.is (o : TwinOp) (kind : BitVec 4) (opref : BitVec 32) (job : Option (BitVec 16)) : Bool :=
  o.kind == kind && o.opref == opref && (job.isNone || job == some o.job)

/-- The twinned operation of a kind and reference (and job) that this Tiolo runs itself. -/
def State.twinOp (s : State) (kind : BitVec 4) (opref : BitVec 32) (job : Option (BitVec 16) := none) : Option TwinOp :=
  s.recov.ops.find? (fun o => o.is kind opref job && o.owner == s.ix && o.taken.isNone)

/-- Two entries are of one operation: references repeat among the Tiolos, so the one it was taken over from belongs to its name. -/
def TwinOp.same (q o : TwinOp) : Bool := q.is o.kind o.opref (some o.job) && q.taken == o.taken

/-- Replaces a twinned operation. -/
def State.setTwin (s : State) (o : TwinOp) : State := s.setOps (s.recov.ops.map (fun q => if q.same o then o else q))

/-- A twinned operation that this Tiolo runs itself ends. -/
def State.dropTwin (s : State) (kind : BitVec 4) (opref : BitVec 32) (job : Option (BitVec 16) := none) : State :=
  s.setOps (s.recov.ops.filter (fun o => !(o.is kind opref job && o.taken.isNone)))

/-- One twinned operation is forgotten. -/
def State.dropOp (s : State) (o : TwinOp) : State := s.setOps (s.recov.ops.filter (fun q => !q.same o))

/-- A state page of a column's sub-area that no operation of this Tiolo uses (R456). -/
def State.freeTwinPage (s : State) (n col : Nat) : Option Nat :=
  let used := (s.recov.ops.filter (fun o => o.parcel == n && (o.partner == some col || o.bringIn == some col))).map TwinOp.page
  let pages := areaSub (s.twinArea n col) / 0x1000 - 1
  ((List.range (min pages (used.length + 1))).map (· + 1)).find? (fun j => !used.contains j)

/-! ### Records and mirror writes (R457, R458) -/

/-- AID of the twin unit's records: the chip book's own arbiter. -/
def aidChipBook : Nat := aidChip 0x3F0

/-- A TWIN record (R470): KIND and OPREF; old owner, new owner and GEN. -/
def State.twinRecord (s : State) (kind : BitVec 4) (opref : BitVec 32) (n old new gen : Nat) : State :=
  s.record bookChip pgFb clsTwin 2 aidChipBook (kind.toNat + opref.toNat * 2 ^ 32 + old * 2 ^ 64 + new * 2 ^ 80 + gen * 2 ^ 96) 0 0 (some n)

/-- The 64 B ownership record (R457). -/
def ownRecord (o : TwinOp) (commit intent : Bool) : List Byte :=
  leBytes 8 (o.kind.toNat + o.job.toNat * 2 ^ 16 + o.opref.toNat * 2 ^ 32) ++
  leBytes 8 (o.gen.toNat + o.owner * 2 ^ 32 + (if commit then 2 ^ 42 else 0) + (if intent then 2 ^ 43 else 0)) ++
  leBytes 8 o.mseq ++ List.replicate 40 0

/-- A state page: the ownership record, the state in a form that only the Tiolo reads, which is a free value, and the CRC (R457). -/
def statePage (own state : List Byte) : List Byte := own ++ state ++ leBytes 4 (crc32c (own ++ state)).toNat

/-- The lowest TID of the twin unit that no outstanding request of an agent uses. -/
def State.twinTid (s : State) (agent : BitVec 12) : BitVec 16 :=
  BitVec.ofNat 16 (0xE000 + ((List.range (s.recov.trackers.length + 1)).find? (fun i =>
    !s.recov.trackers.any (fun t => t.req.agent == agent && t.req.src.toNat == s.ix && t.req.tid.toNat == 0xE000 + i))).getD 0)

/-- A write of the twin unit to another Tiolo's T0, ordered behind its earlier ones. -/
def State.twinWrite (s : State) (agent : BitVec 12) (job : BitVec 16) (g : BitVec 56) (bs : List Byte) (u : Purpose) : State :=
  s.issue { opcode := BitVec.ofNat 8 opWRN, len := bs.length, ord := true, tid := s.twinTid agent, job := job, gfa := g,
            dst := BitVec.ofNat 17 (gfaHome g * 128), src := BitVec.ofNat 10 s.ix, agent := agent, payload := bs } u

/-- The owner writes the operation's state page on a column (R458): a WRN with ORD 1 from the engine that owns it. -/
def State.mirrorTo (s : State) (o : TwinOp) (col : Nat) (commit intent : Bool) : State :=
  let s1 : State := { s with free := s.free + 32 }
  s1.twinWrite o.agent o.job (s.twinPage o.parcel col o.page) (statePage (ownRecord o commit intent) (s.freeBytes 4028))
    (.mirror o.kind o.opref o.taken)

/-- The mirror write of the oldest waiting action goes out, MSEQ raised and INTENT set (R458 step 1). -/
def State.mirrorNext (s : State) (o : TwinOp) : State :=
  match o.acts, o.partner with
  | _ :: _, some col =>
    if o.pending || o.stopped || o.bringIn.isSome then s.setTwin o
    else
      let o1 := { o with pending := true, mseq := o.mseq + 1 }
      (s.setTwin o1).mirrorTo o1 col true true
  | _, _ => s.setTwin o

/-- A twinned operation starts: its page on the partner's column is taken and its first copy is written. Where the partner's area is
not VALID, or no page is free, it runs untwinned and a TWIN record is made (R456); the answer says whether it is twinned. -/
def State.startTwin (s : State) (kind : BitVec 4) (job : BitVec 16) (opref : BitVec 32) (n col : Nat) (agent : BitVec 12) : State × Bool :=
  if !areaValid (s.twinArea n col) || col == s.col then (s.twinRecord kind opref n s.ix s.ix 0, false)
  else match s.freeTwinPage n col with
    | none => (s.twinRecord kind opref n s.ix s.ix 0, false)
    | some j =>
      let o : TwinOp := { kind := kind, job := job, opref := opref, parcel := n, owner := s.ix, partner := some col, page := j, agent := agent }
      ((s.setOps (s.recov.ops ++ [o])).mirrorTo o col true false, true)

/-- A visible action: taken at once for an operation that is not twinned; otherwise it waits for its mirror write's answer (R458). -/
def State.visible (s : State) (kind : BitVec 4) (opref : BitVec 32) (act : TwinAct) (f : State → State)
    (job : Option (BitVec 16) := none) : State :=
  match s.twinOp kind opref job with
  | none => f s
  | some o => s.mirrorNext { o with acts := o.acts ++ [act] }

/-! ### Copies held for the owners of other columns, and their loss (R457, R459, R460, R463) -/

def State.twinCol (s : State) (c : Nat) : TwinCol := kgetD s.recov.cols c {}
def State.setTwinCol (s : State) (c : Nat) (x : TwinCol) : State := { s with recov := { s.recov with cols := kset s.recov.cols c x } }

/-- The owner at a column is declared lost: each committed copy is claimed with the next GEN, the others are discarded, and the fence
starts (R460 steps 1 and 2, R463). -/
def State.declareLost (s : State) (col : Nat) : State :=
  let x := s.twinCol col
  let live := x.copies.filter (fun c => !c.claimed)
  if x.fencing || live.isEmpty then s
  else
    let claim (c : TwinCopy) : TwinCopy :=
      { c with claimed := true, rec' := { c.rec' with gen := c.rec'.gen + 1, owner := BitVec.ofNat 10 s.ix } }
    let kept := live.filter (fun c => c.rec'.commit)
    let lost := live.filter (fun c => !c.rec'.commit)
    let s1 := s.setTwinCol col { x with copies := (x.copies.filter (fun c => c.claimed)) ++ kept.map claim, fencing := true }
    let s2 := kept.foldl (fun s c => (s.twinRecord c.rec'.kind c.rec'.opref ((s.parcelOf c.rec'.job.toNat).getD 0) c.rec'.owner.toNat s.ix
      (c.rec'.gen.toNat + 1)).count pgFb 7) s1
    lost.foldl (fun s c =>
      let n := s.parcelOf c.rec'.job.toNat
      let s3 := (s.count pgFb 10).twinRecord c.rec'.kind c.rec'.opref (n.getD 0) c.rec'.owner.toNat s.ix c.rec'.gen.toNat
      match n with
      | some k => s3.degrade k
      | none => s3) s2

/-- The last route to the owner of a column has gone down: it is lost (R459). -/
def State.routesLost (s : State) : State :=
  (s.recov.cols.map (fun e => e.1)).foldl (fun s c =>
    if c != s.col && (s.firstTrunks (s.row * 32 + c)).isEmpty then s.declareLost c else s) s

end Sys2Proof.Machine
end

