-- ==== Sys2Proof/Machine/Books.lean ====
section
/-!
DEFINITION. The field books (R468–R475): events, coalescing, records, escalation, the spill ring; and the watchdogs of the management
cores and of the companion processor (R466, R467).
-/
namespace Sys2Proof.Machine

/-! ### Books (R468) -/

/-- The number of a book: blocks, regions, chip. -/
def bookNo : BookIx → Nat
  | .block n => n.val
  | .region r => 16 + r.val
  | .chip => 20

def bookCap (b : Nat) : Nat := if b < 16 then 64 else if b < 20 then 256 else 1024
def bookEntries (b : Nat) : Nat := if b < 16 then 16 else if b < 20 then 32 else 128
/-- AID of a book's arbiter. -/
def aidBook (b : Nat) : Nat := if b < 16 then aidBlock b 0x3F0 else if b < 20 then aidRegion (b - 16) 0x3F0 else aidChip 0x3F0
/-- The region whose management core counts CYCLE. -/
def bookRegionOf (b : Nat) : Nat := if b < 16 then b / 4 else if b < 20 then b - 16 else 0
/-- The book of the next level. -/
def bookUp (b : Nat) : Option Nat := if b < 16 then some (16 + b / 4) else if b < 20 then some 20 else none

def State.book (s : State) (b : Nat) : Book := kgetD s.recov.books b {}
def State.setBook (s : State) (b : Nat) (k : Book) : State := { s with recov := { s.recov with books := kset s.recov.books b k } }

/-- The 64 B of a record (R469). -/
def Rec.bytes (r : Rec) (region : Nat) : List Byte :=
  leBytes 8 (r.cls.toNat + r.source.toNat * 2 ^ 8 + r.status.toNat * 2 ^ 24 + r.flags.toNat * 2 ^ 28 + r.parcel.getD 0 * 2 ^ 32 +
    (if r.parcel.isSome then 2 ^ 38 else 0) + (if r.last then 2 ^ 39 else 0) + r.severity.toNat * 2 ^ 40 + (if r.esc then 2 ^ 42 else 0) +
    r.book.toNat * 2 ^ 48) ++
  leBytes 8 r.seq ++ leBytes 8 r.bookSeq ++ leBytes 8 (r.cycle + region * 2 ^ 48) ++ leBytes 8 r.addr.toNat ++
  leBytes 8 (r.count % 2 ^ 32 + r.lost % 2 ^ 32 * 2 ^ 32) ++ leBytes 16 r.data.toNat

/-! ### Records (R471–R473) -/

/-- A record goes up: a copy with ESC set, an event of weight COUNT at the next book (R473). -/
def State.escalate (s : State) (b : Nat) (r : Rec) : State :=
  match bookUp b with
  | none => s
  | some u =>
    if s.fld (rFbCtl (pgBook b)) 1 0 ≤ r.severity.toNat || r.cls == clsFatal then
      let s1 := s.event u { r with esc := true, last := false }
      if u == 20 then (s1.count (pgBook b) 2).count pgFb 2 else s1.count (pgBook b) 2
    else s

/-- The last `n` elements of a list. -/
def lastN {α : Type} (n : Nat) (l : List α) : List α := l.drop (l.length - n)

/-- Records of a book from TAIL to HEAD − 1. -/
def State.unread (s : State) (b : Nat) : Nat :=
  min (s.book b).recs.length ((s.fld (rFbHead (pgBook b)) 31 0 + 2 ^ 32 - s.fld (rFbTail (pgBook b)) 31 0) % 2 ^ 32)

/-- A book produces a record: written when there is room, otherwise lost and counted; copied up either way (R472, R473). -/
def State.produce (s : State) (b : Nat) (r0 : Rec) : State :=
  let pg := pgBook b
  let s0 := s.tick (aidBook b)
  let k := s0.book b
  let r : Rec := { r0 with book := BitVec.ofNat 16 (aidBook b), bookSeq := s0.seq (aidBook b), cycle := s0.freeNat 48, lost := k.lostSince }
  let s1 := s0.took
  if s.unread b < bookCap b then
    let s2 := ((s1.setBook b { k with recs := lastN (bookCap b) (k.recs ++ [r]), lostSince := 0 }).setFld (rFbHead pg) 31 0 (s1.fld (rFbHead pg) 31 0 + 1)).count pg 0
    (s2.raisePage pg).escalate b r
  else
    let s2 := ((s1.setBook b { k with lostSince := k.lostSince + 1 }).setFld (rFbHead pg) 63 32 (s1.fld (rFbHead pg) 63 32 + 1)).count pg 1
    (s2.errSum pg 3).escalate b r

/-- An entry closes: a LAST record when it counted events since its FIRST (R471). -/
def State.closeEntry (s : State) (b : Nat) (c : Coal) : State :=
  let k := s.book b
  let s1 := s.setBook b { k with open' := k.open'.filter (fun e => !(e.cls == c.cls && e.source == c.source)) }
  if c.count == 0 then s1 else s1.produce b { c.latest with last := true, count := c.count }

/-- FIELD_BOOK_EVENT: the oldest event that waits at a book is coalesced, or opens an entry with a FIRST record (R471). -/
def State.bookEvent (s : State) (b : Nat) : State :=
  let k := s.book b
  match k.queue with
  | [] => s
  | e :: rest =>
    let s0 := (s.setBook b { k with queue := rest }).count (pgBook b) 4 (if b < 20 && e.severity == 1 && !e.esc then 1 else 0)
    match k.open'.find? (fun c => c.cls == e.cls && c.source == e.source) with
    | some c =>
      let k1 := s0.book b
      let f (d : Coal) : Coal := if d.cls == c.cls && d.source == c.source then { d with count := d.count + e.count, latest := e } else d
      (s0.setBook b { k1 with open' := k1.open'.map f }).count (pgBook b) 3 (if b < 20 then 1 else 0)
    | none =>
      let s1 := if bookEntries b ≤ k.open'.length then (match k.open' with
          | c :: _ => s0.closeEntry b c
          | [] => s0) else s0
      let s2 := s1.produce b e
      let k2 := s2.book b
      s2.setBook b { k2 with open' := k2.open' ++ [{ cls := e.cls, source := e.source, latest := e }] }

def execFieldBookEvent (b : BookIx) (s : State) : Host.Outcome State Fault Refusal := .next (s.bookEvent (bookNo b))

/-- COALESCE_CLOSE: an entry has been open for COAL_US (R471). -/
def State.coalClose (s : State) (b : Nat) (cls : BitVec 8) (source : BitVec 16) : State :=
  match (s.book b).open'.find? (fun c => c.cls == cls && c.source == source) with
  | some c => s.closeEntry b c
  | none => s

def execCoalesceClose (b : BookIx) (cls : BitVec 8) (source : BitVec 16) (s : State) : Host.Outcome State Fault Refusal :=
  .next (s.coalClose (bookNo b) cls source)

/-- FB_TAIL_WRITE: TAIL takes a value from HEAD − capacity to HEAD; a value outside is ignored. A record below TAIL stays until it is
overwritten, so a lower TAIL finds it again (R472). -/
def State.tailWrite (s : State) (b : Nat) (v : Word) : State :=
  s.cfgDo (rFbTail (pgBook b)) (fun s =>
    let n := (s.fld (rFbHead (pgBook b)) 31 0 + 2 ^ 32 - v.toNat % 2 ^ 32) % 2 ^ 32
    if n ≤ (s.book b).recs.length then s.setFld (rFbTail (pgBook b)) 31 0 (v.toNat % 2 ^ 32) else s)

def execFbTailWrite (b : BookIx) (v : Word) (s : State) : Host.Outcome State Fault Refusal := .next (s.tailWrite (bookNo b) v)

/-- SPILL_MOVE: the write of the chip book's oldest record to the ring is issued, unless the ring is full or a write is in flight
(R387, R474). -/
def State.spillMove (s : State) : State :=
  match (lastN (s.unread 20) (s.book 20).recs) with
  | [] => s
  | r :: _ =>
    let head := s.fld rFbSpillHead 31 0
    let size := ringSize (s.reg rFbSpill) 10
    if s.recov.spilling || !s.bit rFbSpill 63 || (head + 2 ^ 32 - s.fld rFbSpillTail 31 0) % 2 ^ 32 ≥ size then s
    else match s.ringPacket (s.reg rFbSpill) (head % size * 64) 0xFFFD (r.bytes 0) with
      | none => s
      | some p => ({ s with recov := { s.recov with spilling := true } } : State).issue p .spill

/-- A record's write to the spill ring has completed: with OK the chip book's TAIL and the ring's HEAD advance and the stake may be
released; otherwise the record stays where it is (R128, R387, R474). -/
def State.spilled (s0 : State) (c : Packet) : State :=
  let s : State := { s0 with recov := { s0.recov with spilling := false } }
  if c.status != stOK then s
  else
    let s1 := ((s.setFld (rFbTail pgFb) 31 0 (s.fld (rFbTail pgFb) 31 0 + 1)).count pgFb 3).setFld rFbSpillHead 31 0 (s.fld rFbSpillHead 31 0 + 1)
    if s1.bit rFbSpillTail 48 then s1.srelLocal (s1.fld rFbSpillTail 45 32) 1 1 agCompanion else s1

def execSpillMove (s : State) : Host.Outcome State Fault Refusal := .next s.spillMove

/-- WORD of FB_RECi: a word of record IDX, zero outside TAIL to HEAD − 1. -/
def State.bookWord (s : State) (b i : Nat) : Nat :=
  let back := (s.fld (rFbHead (pgBook b)) 31 0 + 2 ^ 32 - s.fld (rFbIdx (pgBook b)) 31 0) % 2 ^ 32
  if back == 0 || s.unread b < back then 0
  else match (lastN back (s.book b).recs) with
    | r :: _ => wordAt (r.bytes (bookRegionOf b)) i
    | [] => 0

/-! ### Watchdogs (R466, R467) -/

/-- MGMT_WATCHDOG_EXPIRY: a core's firmware restarts; a WATCHDOG record is made (R466). The book it first enters, the chip book, and its
SOURCE, that book's own arbiter, are the model's choice: R466 names neither (log 218). -/
def State.coreWatchdog (s : State) (k : Nat) : State :=
  let s1 := (s.record bookChip pgFb clsWatchdog 2 aidChipBook k).count pgFb 11
  let s2 := s1.setBit rFbMwdog (16 + k) true
  { s2 with recov := { s2.recov with restarting := insertNew s2.recov.restarting k } }

def execMgmtWatchdogExpiry (k : Fin 16) (s : State) : Host.Outcome State Fault Refusal := .next (s.coreWatchdog k.val)

/-- HEARTBEAT: a write of FB_HB; BEAT while LOST clears LOST once no sweep runs (R467). -/
def State.heartbeat (s : State) (v : Word) : State :=
  s.cfgDo rFbHb (fun s =>
    let s1 := (s.setFld rFbHb 15 8 (nbits v.toNat 15 8)).setFld rFbHb 19 16 (nbits v.toNat 19 16)
    if nbit v.toNat 0 then s1.companionBeat else s1)

def execHeartbeat (v : Word) (s : State) : Host.Outcome State Fault Refusal := .next (s.heartbeat v)

/-- COMPANION_LOST: LOST is set, a COMPANION record made, agent 32 declared dead; its parked SACQs go (R122, R467). -/
def State.companionLost (s : State) : State :=
  if s.bit rFbHb 32 then s
  else
    let s1 := ((s.setBit rFbHb 32 true).record bookChip pgFb clsCompanion 2 aidChipBook 0).count pgFb 12
    s1.agentDead 32 0

def execCompanionLost (s : State) : Host.Outcome State Fault Refusal := .next s.companionLost

end Sys2Proof.Machine
end

