-- ==== Sys2Proof/Machine/Operands.lean ====
section
/-!
DEFINITION. The number formats and the elements of vectors (chapter 8, R209): floating-point values, rounding and its flags, MX
blocks, integers, element arithmetic, comparison, conversions, and the exact accumulator's lanes.
-/
namespace Sys2Proof.Machine

/-! ### Flags of an operation (R212): bits [3:0] of the context status word -/

def flNV : Nat := 1
def flOF : Nat := 2
def flUF : Nat := 4
def flNX : Nat := 8
/-- XV, bit 5 of the context status word. -/
def flXV : Nat := 32

/-! ### Formats (R231, R234) -/

/-- A floating-point format: exponent and mantissa widths, bias, the code of the largest finite magnitude, whether it has infinities,
and whether it is an MX element. -/
structure Fmt where
  e : Nat
  m : Nat
  bias : Nat
  maxCode : Nat
  inf : Bool := true
  mx : Bool := false
  deriving DecidableEq, Repr

def fmtFP32 : Fmt := { e := 8, m := 23, bias := 127, maxCode := 0x7F7FFFFF }
def fmtBF16 : Fmt := { e := 8, m := 7, bias := 127, maxCode := 0x7F7F }
def fmtFP16 : Fmt := { e := 5, m := 10, bias := 15, maxCode := 0x7BFF }
def fmtE4M3 : Fmt := { e := 4, m := 3, bias := 7, maxCode := 0x7E, inf := false }
def fmtE5M2 : Fmt := { e := 5, m := 2, bias := 15, maxCode := 0x7B }
/-- The elements of MXFP8, MXFP6 and MXFP4 (R234). -/
def fmtMX8 : Fmt := { fmtE4M3 with mx := true }
def fmtMX6 : Fmt := { e := 2, m := 3, bias := 1, maxCode := 0x1F, inf := false, mx := true }
def fmtMX4 : Fmt := { e := 2, m := 1, bias := 1, maxCode := 0x7, inf := false, mx := true }

/-- The format of a scalar floating-point data type (R231). -/
def fpFmt (dt : Nat) : Option Fmt :=
  match dt with
  | 0 => some fmtFP32 | 1 => some fmtBF16 | 2 => some fmtFP16 | 3 => some fmtE4M3 | 4 => some fmtE5M2 | _ => none

/-- The element format of an MX data type (R234). -/
def mxFmt (dt : Nat) : Option Fmt :=
  match dt with
  | 5 => some fmtMX8 | 6 => some fmtMX6 | 7 => some fmtMX4 | _ => none

/-- Bits of an element of a data type (R209). -/
def elemBits (dt : Nat) : Nat :=
  match dt with
  | 0 => 32 | 9 => 32 | 1 => 16 | 2 => 16 | 6 => 6 | 7 => 4 | _ => 8

/-- Elements per register (R209). -/
def elemCount (dt : Nat) : Nat :=
  match dt with
  | 0 => 32 | 9 => 32 | 1 => 64 | 2 => 64 | 7 => 256 | _ => 128

/-- INT8 or INT32. -/
def isIntDt (dt : Nat) : Bool := dt == 8 || dt == 9

/-! ### Values (R232, R233) -/

/-- A floating-point value: a NaN, an infinity, or (−1)^neg × mant × 2^exp. -/
inductive Fp where
  | nan
  | inf (neg : Bool)
  | fin (neg : Bool) (mant : Nat) (exp : Int)
  deriving DecidableEq, Repr

def Fp.neg : Fp → Bool
  | .nan => false
  | .inf s => s
  | .fin s _ _ => s

def Fp.isNan : Fp → Bool
  | .nan => true
  | _ => false

def Fp.isInf : Fp → Bool
  | .inf _ => true
  | _ => false

def Fp.isZero : Fp → Bool
  | .fin _ m _ => m == 0
  | _ => false

/-- The value with its sign flipped (R215). -/
def Fp.negate : Fp → Fp
  | .nan => .nan
  | .inf s => .inf (!s)
  | .fin s m x => .fin (!s) m x

/-- The value of a code (R232); codes above the largest finite one are an infinity or a NaN. -/
def Fmt.decode (f : Fmt) (c : Nat) : Fp :=
  let s := nbit c (f.e + f.m)
  let mag := c % 2 ^ (f.e + f.m)
  if f.maxCode < mag then (if f.inf && mag == f.maxCode + 1 then .inf s else .nan)
  else
    let ef := mag / 2 ^ f.m
    let mant := mag % 2 ^ f.m
    if ef == 0 then .fin s mant (1 - (f.bias : Int) - (f.m : Int))
    else .fin s (2 ^ f.m + mant) ((ef : Int) - (f.bias : Int) - (f.m : Int))

/-- The canonical NaN of a format (R231). -/
def Fmt.nanCode (f : Fmt) : Nat := if f.inf then f.maxCode + 1 + 2 ^ (f.m - 1) else f.maxCode + 1

/-- The sign bit of a format. -/
def Fmt.sign (f : Fmt) (s : Bool) : Nat := if s then 2 ^ (f.e + f.m) else 0

/-! ### Rounding (R237–R239) -/

/-- ⌊log2⌋ of a non-zero magnitude mant × 2^exp. -/
def floorLog2 (mant : Nat) (exp : Int) : Int := (mant.log2 : Int) + exp

/-- mant / 2^d rounded to nearest, ties to even, and whether it was inexact. -/
def roundShift (mant d : Nat) : Nat × Bool :=
  let q := mant / 2 ^ d
  let r := mant % 2 ^ d
  let up := d != 0 && (2 ^ (d - 1) < r || (r == 2 ^ (d - 1) && q % 2 == 1))
  ((if up then q + 1 else q), r != 0)

/-- Rounds a value once to a format: its code and flags (R237–R240). -/
def Fmt.encode (f : Fmt) (v : Fp) : Nat × Nat :=
  match v with
  | .nan => (f.nanCode, flNV)
  | .inf s => if f.inf then (f.sign s + f.maxCode + 1, 0) else (f.nanCode, flNV)
  | .fin s mant exp =>
    if mant == 0 then (f.sign s, 0)
    else
      let emin : Int := 1 - (f.bias : Int)
      let e := floorLog2 mant exp
      let q := max e emin - (f.m : Int)
      let (n, inexact) := if q ≤ exp then (mant * 2 ^ (exp - q).toNat, false) else roundShift mant (q - exp).toNat
      let ef : Nat := (q + (f.m : Int) + (f.bias : Int)).toNat
      -- a normal n lies in [2^m, 2^(m+1)]; a subnormal one has ef = 1 and is below 2^m
      let c := ef * 2 ^ f.m + n - 2 ^ f.m
      if f.maxCode < c then
        (if f.inf then (f.sign s + f.maxCode + 1, flOF + flNX)
         else if f.mx then (f.sign s + f.maxCode, flNX) else (f.sign s + f.maxCode, flOF + flNX))
      else (f.sign s + c, if inexact then (if e < emin then flUF + flNX else flNX) else 0)

/-! ### Exact operations (R237, R241) -/

def signedMant (s : Bool) (m : Nat) : Int := if s then -(m : Int) else (m : Int)

/-- The exact sum; ∞ − ∞ is invalid, a zero sum is +0 unless both operands are −0 (R241). -/
def Fp.add (a b : Fp) : Fp :=
  match a, b with
  | .nan, _ => .nan
  | _, .nan => .nan
  | .inf s, .inf t => if s == t then .inf s else .nan
  | .inf s, .fin _ _ _ => .inf s
  | .fin _ _ _, .inf t => .inf t
  | .fin s m x, .fin t n y =>
    let z := min x y
    let sum := signedMant s m * 2 ^ (x - z).toNat + signedMant t n * 2 ^ (y - z).toNat
    if sum == 0 then .fin (m == 0 && n == 0 && s && t) 0 z else .fin (sum < 0) sum.natAbs z

/-- The exact product; 0 × ∞ is invalid (R241). -/
def Fp.mul (a b : Fp) : Fp :=
  match a, b with
  | .nan, _ => .nan
  | _, .nan => .nan
  | .inf s, .inf t => .inf (s != t)
  | .inf s, .fin t n _ => if n == 0 then .nan else .inf (s != t)
  | .fin s m _, .inf t => if m == 0 then .nan else .inf (s != t)
  | .fin s m x, .fin t n y => .fin (s != t) (m * n) (x + y)

/-- a ≤ b for values that are not NaN; the zeros compare equal (R219). -/
def Fp.le (a b : Fp) : Bool :=
  match a, b with
  | .inf true, _ => true
  | _, .inf false => true
  | .inf false, _ => false
  | _, .inf true => false
  | .fin s m x, .fin t n y =>
    let z := min x y
    decide (signedMant s m * 2 ^ (x - z).toNat ≤ signedMant t n * 2 ^ (y - z).toNat)
  | .nan, _ => false
  | _, .nan => false

/-- The larger; a NaN if either is one; +0 is larger than −0 (R214). -/
def Fp.max (a b : Fp) : Fp :=
  if a.isNan || b.isNan then .nan
  else if a.le b then (if b.le a then (if a.neg then b else a) else b) else a

/-- The smaller; a NaN if either is one; −0 is smaller than +0 (R214). -/
def Fp.min (a b : Fp) : Fp :=
  if a.isNan || b.isNan then .nan
  else if a.le b then (if b.le a then (if a.neg then a else b) else a) else b

/-! ### Integers (R236) -/

/-- The signed value of the low `w` bits. -/
def sgn (w c : Nat) : Int := if nbit c (w - 1) then (c % 2 ^ w : Int) - 2 ^ w else (c % 2 ^ w : Int)

/-- The low `w` bits of an integer. -/
def wrapInt (w : Nat) (v : Int) : Nat := (v % 2 ^ w).toNat

def intMin (w : Nat) : Int := -(2 ^ (w - 1))
def intMax (w : Nat) : Int := 2 ^ (w - 1) - 1

/-- Narrows an exact integer result: wraps, or saturates with SAT; either sets OF (R214, R236). -/
def narrowInt (w : Nat) (sat : Bool) (v : Int) : Nat × Nat :=
  if intMin w ≤ v && v ≤ intMax w then (wrapInt w v, 0)
  else if sat then (wrapInt w (if v < 0 then intMin w else intMax w), flOF)
  else (wrapInt w v, flOF)

/-! ### Element arithmetic (R214, R215) -/

inductive VOp where
  | add | mul | fma | max | min
  deriving DecidableEq, Repr

/-- One element of a vector operation: the source codes, each negated as asked, to the result code and its flags (R214, R215). -/
def elemOp (op : VOp) (dt : Nat) (sat n1 n2 n3 : Bool) (a b c : Nat) : Nat × Nat :=
  if isIntDt dt then
    let w := elemBits dt
    let g (n : Bool) (x : Nat) : Int := if n then sgn w (wrapInt w (-(sgn w x))) else sgn w x
    let x := g n1 a
    let y := g n2 b
    let z := g n3 c
    match op with
    | .add => narrowInt w sat (x + y)
    | .mul => narrowInt w sat (x * y)
    | .fma => narrowInt w sat (x * y + z)
    | .max => (wrapInt w (if x ≤ y then y else x), 0)
    | .min => (wrapInt w (if x ≤ y then x else y), 0)
  else match fpFmt dt with
    | none => (0, 0)
    | some f =>
      let g (n : Bool) (x : Nat) : Fp := if n then (f.decode x).negate else f.decode x
      let x := g n1 a
      let y := g n2 b
      let z := g n3 c
      f.encode (match op with
        | .add => x.add y
        | .mul => x.mul y
        | .fma => (x.mul y).add z
        | .max => x.max y
        | .min => x.min y)

/-- COND of VCMP: 0 EQ, 1 NE, 2 LT, 3 LE, 4 GT, 5 GE, 6 UN (R219). -/
def condOf (cond : Nat) (le ge un : Bool) : Bool :=
  match cond with
  | 0 => !un && le && ge
  | 1 => un || !(le && ge)
  | 2 => !un && le && !ge
  | 3 => !un && le
  | 4 => !un && ge && !le
  | 5 => !un && ge
  | _ => un

/-- The test of VCMP on one element (R219). -/
def elemCmp (cond dt a b : Nat) : Bool :=
  if isIntDt dt then
    let w := elemBits dt
    condOf cond (sgn w a ≤ sgn w b) (sgn w b ≤ sgn w a) false
  else match fpFmt dt with
    | none => false
    | some f =>
      let x := f.decode a
      let y := f.decode b
      condOf cond (x.le y) (y.le x) (x.isNan || y.isNan)

/-! ### Vectors (R209, R210) -/

/-- Element i, `w` bits wide. -/
def vget (v : BitVec 1024) (w i : Nat) : Nat := v.toNat / 2 ^ (w * i) % 2 ^ w

/-- Packs elements `w` bits wide, element 0 lowest. -/
def vpackNat (w : Nat) : List Nat → Nat
  | [] => 0
  | x :: rest => x % 2 ^ w + 2 ^ w * vpackNat w rest

def vpack (w : Nat) (l : List Nat) : BitVec 1024 := BitVec.ofNat 1024 (vpackNat w l)

/-- Every element of a register. -/
def velems (v : BitVec 1024) (w n : Nat) : List Nat := (List.range n).map (vget v w)

/-- The 128 bytes of a register. -/
def vbytes (v : BitVec 1024) : List Byte := leBytes 128 v.toNat

def vofBytes (bs : List Byte) : BitVec 1024 := BitVec.ofNat 1024 (leNat bs)

/-- An element is selected: by the predicate bit of its lowest-numbered byte, or always without a predicate (R181, R210). -/
def selOf (p : Option (BitVec 128)) (w i : Nat) : Bool :=
  match p with
  | none => true
  | some b => b.getLsbD (w * i / 8)

/-- Replaces the selected ones of `n` elements; the flags of the selected ones are gathered (R210). -/
def vmap (w n : Nat) (p : Option (BitVec 128)) (d : BitVec 1024) (f : Nat → Nat × Nat) : BitVec 1024 × Nat :=
  let rs := (List.range n).map (fun i => if selOf p w i then f i else (vget d w i, 0))
  (vpack w (rs.map Prod.fst), rs.foldl (fun a r => a ||| r.2) 0)

/-! ### Conversions (R216, R242–R245) -/

/-- A floating-point value to an integer type (R243). -/
def fpToInt (w : Nat) (v : Fp) : Nat × Nat :=
  match v with
  | .nan => (0, flNV)
  | .inf s => (wrapInt w (if s then intMin w else intMax w), flNV)
  | .fin s mant exp =>
    let (n, inexact) := if 0 ≤ exp then (mant * 2 ^ exp.toNat, false) else roundShift mant (-exp).toNat
    let i := signedMant s n
    if i < intMin w then (wrapInt w (intMin w), flNV)
    else if intMax w < i then (wrapInt w (intMax w), flNV)
    else (wrapInt w i, if inexact then flNX else 0)

/-- One element between scalar types (R242, R243). -/
def convElem (src dst c : Nat) : Nat × Nat :=
  match fpFmt src, fpFmt dst with
  | some f, some g => g.encode (f.decode c)
  | some f, none => fpToInt (elemBits dst) (f.decode c)
  | none, some g =>
    let i := sgn (elemBits src) c
    g.encode (.fin (i < 0) i.natAbs 0)
  | none, none => narrowInt (elemBits dst) true (sgn (elemBits src) c)

/-- An element of an MX block with scale byte `s` (R245). -/
def mxValue (f : Fmt) (s c : Nat) : Fp :=
  if s == 0xFF then .nan
  else match f.decode c with
    | .fin n m x => .fin n m (x + (s : Int) - 127)
    | v => v

/-- emax of an MX format (R234). -/
def mxEmax (dt : Nat) : Int := if dt == 5 then 8 else 2

/-- Converts one block of 32 values to an MX type: the scale byte, the element codes and the flags (R244). -/
def mxBlock (dt : Nat) (f : Fmt) (vs : List Fp) : Nat × List Nat × Nat :=
  if vs.any (fun v => v.isNan || v.isInf) then (0xFF, vs.map (fun _ => 0), flNV)
  else
    let logs : List Int := vs.filterMap (fun v => match v with
      | .fin _ m x => if m == 0 then none else some (floorLog2 m x)
      | _ => none)
    match logs with
    | [] => (0x7F, vs.map (fun v => f.sign v.neg), 0)
    | l :: rest =>
      let amax := rest.foldl max l
      let x := max (-127) (min 127 (amax - mxEmax dt))
      let rs := vs.map (fun v => match v with
        | .fin n m e => f.encode (.fin n m (e - x))
        | w => f.encode w)
      ((x + 127).toNat, rs.map Prod.fst, rs.foldl (fun a r => a ||| r.2) 0)

/-- Groups of 32. -/
def blocks32 {α : Type} : Nat → List α → List (List α)
  | 0, _ => []
  | n + 1, l => l.take 32 :: blocks32 n (l.drop 32)

/-- The elements that a VCVT converts (R216). -/
def cvtCount (src dst : Nat) : Nat :=
  match mxFmt src, mxFmt dst with
  | some _, _ => elemCount dst
  | _, some _ => elemCount src
  | _, _ => min (elemCount src) (elemCount dst)

/-- PART is permitted (R216). -/
def cvtPartOk (src dst part : Nat) : Bool :=
  let e := cvtCount src dst
  decide (part < max (elemCount src) (elemCount dst) / e)

/-- Replaces elements [lo, lo + l.length) of a register. -/
def vsplice (v : BitVec 1024) (w n lo : Nat) (l : List Nat) : BitVec 1024 :=
  vpack w ((velems v w n).take lo ++ l ++ (velems v w n).drop (lo + l.length))

/-- VCVT: the new Vd, the new scale register and the flags (R216, R242–R245). MXFP6 writes bytes [127:96] as zero (R209). -/
def convert (src dst part : Nat) (d v : BitVec 1024) (scale : Word) : BitVec 1024 × Word × Nat :=
  let e := cvtCount src dst
  let sw := elemBits src
  let dw := elemBits dst
  match mxFmt src, mxFmt dst, fpFmt src, fpFmt dst with
  | some f, _, _, some g =>
    let rs := (List.range e).map (fun i =>
      let j := part * e + i
      g.encode (mxValue f (nbits scale.toNat (8 * (j / 32) + 7) (8 * (j / 32))) (vget v sw j)))
    (vpack dw (rs.map Prod.fst), scale, rs.foldl (fun a r => a ||| r.2) 0)
  | _, some f, some g, _ =>
    let vs := (List.range e).map (fun i => g.decode (vget v sw i))
    let bs := (blocks32 (e / 32) vs).map (mxBlock dst f)
    let out := (bs.map (fun b => b.2.1)).flatten
    let sc := (bs.zipIdx).foldl (fun a b => nsetBits a (8 * (part * e / 32 + b.2) + 7) (8 * (part * e / 32 + b.2)) b.1.1) scale.toNat
    (vsplice d dw (elemCount dst) (part * e) out, BitVec.ofNat 64 sc, bs.foldl (fun a b => a ||| b.2.2) 0)
  | _, _, _, _ =>
    let from' := if elemCount src > elemCount dst then part * e else 0
    let rs := (List.range e).map (fun i => convElem src dst (vget v sw (from' + i)))
    let fl := rs.foldl (fun a r => a ||| r.2) 0
    if elemCount dst > elemCount src then (vsplice d dw (elemCount dst) (part * e) (rs.map Prod.fst), scale, fl)
    else (vpack dw (rs.map Prod.fst), scale, fl)

/-! ### The exact accumulator (R246–R248) -/

/-- Adds a value to a lane; `neg` negates it; XV when it is set. A sum that leaves the range has no stated content: `fv` (R247). -/
def Lane.add (l : Lane) (v : Fp) (neg : Bool) (fv : BitVec 320) : Lane × Nat :=
  let v := if neg then v.negate else v
  match v, l.tag with
  | .nan, _ => ({ l with tag := .nan }, flXV)
  | .inf s, .finite => ({ l with tag := if s then .negInf else .posInf }, flXV)
  | .inf s, .posInf => (if s then { l with tag := .nan } else l, flXV)
  | .inf s, .negInf => (if s then l else { l with tag := .nan }, flXV)
  | .inf _, .nan => (l, flXV)
  | .fin s m x, .finite =>
    let sum := l.sum.toInt + signedMant s (m * 2 ^ (x + 149).toNat)
    if -(2 ^ 319) ≤ sum && sum < 2 ^ 319 then ({ l with sum := BitVec.ofInt 320 sum }, 0)
    else ({ l with sum := fv, tag := .nan }, flXV)
  | .fin _ _ _, _ => (l, 0)

/-- The value of a lane (R246, R248). -/
def Lane.value (l : Lane) : Fp :=
  match l.tag with
  | .finite => .fin (l.sum.toInt < 0) l.sum.toInt.natAbs (-149)
  | .posInf => .inf false
  | .negInf => .inf true
  | .nan => .nan

/-- A lane read in value mode: rounded once to a format (R248). -/
def Lane.read (l : Lane) (f : Fmt) : Nat × Nat := f.encode l.value

/-- A cleared lane of the same owner (R246). -/
def Lane.cleared (l : Lane) : Lane := { owner := l.owner }

end Sys2Proof.Machine
end

