-- ==== Sys2Proof/Machine/Tiers.lean ====
section
/-!
DEFINITION. The tiers (chapter 5): tier write enable, quotas, tier commands and their records, the flash translation layer with its
objects, units and blocks, and the write-back cache's fills and write-backs.
-/
namespace Sys2Proof.Machine

/-! ### Arbiters and doorbells (R155, R156) -/

/-- AID of the translation layer, and of the traverse engine, which executes tier commands. -/
def aidTl : Nat := aidChip 0x060
def aidTrav : Nat := aidChip 0x070

/-- The check of an engine doorbell write (R53, R54, R430): a 64 B write to offset 0x000 by an agent whose job a parcel binds. -/
def State.engineDoor (s : State) (p : Packet) : Status :=
  let rel := match s.parcelOf p.job.toNat with
    | some n => s.pclState n == 5
    | none => false
  statusOf [((s.parcelOf p.job.toNat).isNone, stAccessFault), (rel, stRevoked),
    (p.payload.length != 64 || gfaOff p.gfa % 0x1000 != 0 || p.mask.isSome, stUnsupported)]

/-- The eight words of a descriptor. -/
def descOf (p : Packet) : List Word := (List.range 8).map (fun i => BitVec.ofNat 64 (wordAt p.payload i))

def State.holdDoor (s : State) (door : Nat) (p : Packet) : State :=
  { s with tier := { s.tier with held := s.tier.held ++ [{ door := door, req := p }] } }

/-- A write to an engine doorbell must be held: an earlier one of its job is (R156). -/
def State.doorWaits (s : State) (door : Nat) (p : Packet) : Bool := s.tier.held.any (fun h => h.door == door && h.req.job == p.job)

/-! ### Tier records (R470) -/

/-- A TIER record in a book: an event code and a count. -/
def State.tierNote (s : State) (b page code n : Nat) (parcel : Option Nat := none) : State :=
  s.record b page clsTier 2 aidTl (code + n * 2 ^ 32) 0 0 parcel

/-! ### Flash: capacity, blocks, units (R154, R155, R170) -/

/-- Raw units of 1 MiB: 2 TiB for each NAND target of a trained channel, less the boot partition, the first 64 blocks of each target of
channels 0 and 8 (R498). -/
def State.rawUnits (s : State) : Nat :=
  (List.range 16).foldl (fun a c => if s.bit (rFcStat c) 0 then
    a + ((List.range 8).filter (fun t => s.bit (rFcStat c) (8 + t))).length * (2 ^ 21 - (if c % 8 == 0 then 64 else 0)) else a) 0

def State.retired (s : State) : Nat := (s.tier.blocks.filter (fun e => e.2.retired)).length

/-- The over-provisioning in 64ths: as at the format, or as a format would take it now (R170). -/
def State.opShare (s : State) : Nat := s.tier.formatted.getD (s.fld rTlCtl 12 8)

/-- Usable units: raw × (1 − OP/64), less bad blocks. -/
def State.usableUnits (s : State) : Nat := s.rawUnits * (64 - s.opShare) / 64 - s.retired

/-- Units allocated to objects. -/
def State.usedUnits (s : State) : Nat := s.tier.objs.foldl (fun a e => a + e.2.size) 0

/-- Spare blocks: the over-provisioned share, less the blocks retired. -/
def State.spareBlocks (s : State) : Nat := s.rawUnits * s.opShare / 64 - s.retired

def unitKey (obj ix : Nat) : Nat := obj * 2 ^ 26 + ix

def State.setUnit (s : State) (k : Nat) (u : FUnit) : State := { s with tier := { s.tier with units := kset s.tier.units k u } }
def State.fblock (s : State) (b : Nat) : FBlock := kgetD s.tier.blocks b {}
def State.setBlock (s : State) (b : Nat) (x : FBlock) : State := { s with tier := { s.tier with blocks := kset s.tier.blocks b x } }

/-- A block that holds no unit, is not being programmed, retired or waiting for its erase. -/
def State.blockFree (s : State) (b : Nat) : Bool :=
  !s.tier.units.any (fun e => e.2.block == b) && !s.tier.images.any (fun e => e.2.block == b) && !(s.fblock b).retired && !(s.fblock b).erasePending

/-- The free block with the fewest erases, the lowest number first (R170). -/
def State.allocBlock (s : State) : Option Nat :=
  let n := min s.rawUnits (s.tier.units.length + s.tier.images.length + s.tier.blocks.length + 1)
  ((List.range n).filter (fun b => s.blockFree b)).foldl (fun (b : Option Nat) c => match b with
    | none => some c
    | some x => if (s.fblock c).erases < (s.fblock x).erases then some c else b) none

/-- A block's content is no longer mapped: it waits for its physical erase (R172). -/
def State.freeBlock (s : State) (b : Nat) : State := s.setBlock b { s.fblock b with erasePending := true }

/-- The content of a unit; an unprogrammed unit reads as zero (R158). -/
def State.unitOf (s : State) (obj ix : Nat) : Option FUnit := kget s.tier.units (unitKey obj ix)

/-- Read retries that a sector of a block needs now, and whether RETRY_MAX of them are too few (R170). -/
def State.triesOf (s : State) (b sec : Nat) : Nat := Config.sectorTries b sec (s.fblock b).reads
def State.sectorFails (s : State) (b sec : Nat) : Bool := decide (s.fld rTlCtl 19 16 < s.triesOf b sec)

/-- The object's data key still unwraps under the media key (R172). -/
def State.keyLives (s : State) (o : Obj) : Bool := o.wrap == s.sec.life.mediaKey

/-- The 4 KiB of a parcel's object at a byte offset, and whether they read as POISON (R159, R170, R173). A unit under another key than the
object's, or a key that does not unwrap, gives nothing back (R172). -/
def State.objRead (s : State) (n obj off : Nat) : List Byte × Bool :=
  let lost : List Byte × Bool := (errorBytes 0x1000, true)
  match kget s.tier.objs obj with
  | none => lost
  | some o =>
    if o.owner != n || o.deleting || !s.keyLives o then lost
    else match s.unitOf obj (off / 2 ^ 20) with
      | none => (List.replicate 0x1000 0, false)
      | some u =>
        let sec := off % 2 ^ 20 / 0x1000
        if u.key != o.key || u.bad.contains sec || s.sectorFails u.block sec then lost else (memRead u.data (off % 2 ^ 20) 0x1000, false)

/-- Counts a read of an object page: the block's reads, units, retried and poisoned sectors. At its read limit, or after a sector that the
hard decode did not read, the block is scheduled for a refresh (R170, R174). -/
def State.objReadCount (s : State) (obj off : Nat) (first bad : Bool) : State :=
  let s1 := match s.unitOf obj (off / 2 ^ 20) with
    | some u =>
      let b := s.fblock u.block
      let soft := decide (0 < s.triesOf u.block (off % 2 ^ 20 / 0x1000))
      (s.setBlock u.block { b with reads := b.reads + 1, due := b.due || soft || decide (s.fld rTlCtl 47 32 * 1000 ≤ b.reads + 1) }).count pgTl 5
        (if soft then 1 else 0)
    | none => s
  (s1.count pgTl 4 (if first || off % 2 ^ 20 == 0 then 1 else 0)).count pgTl 6 (if bad then 1 else 0)

/-! ### Tier commands: fields (R157) -/

def TierCmd.scope (c : TierCmd) : Nat := nbits (c.desc.getD 0 0).toNat 9 8
def TierCmd.stake (c : TierCmd) : Nat := nbits (c.desc.getD 0 0).toNat 29 16
def TierCmd.stakeEn (c : TierCmd) : Bool := nbit (c.desc.getD 0 0).toNat 30
def TierCmd.obj (c : TierCmd) : Nat := nbits (c.desc.getD 1 0).toNat 19 0
def TierCmd.objOff (c : TierCmd) : Nat := nbits (c.desc.getD 2 0).toNat 45 0
def TierCmd.addrA (c : TierCmd) : Nat := nbits (c.desc.getD 3 0).toNat 55 0
def TierCmd.addrB (c : TierCmd) : Nat := nbits (c.desc.getD 4 0).toNat 55 0
def TierCmd.len (c : TierCmd) : Nat := nbits (c.desc.getD 5 0).toNat 45 0
def TierCmd.rec' (c : TierCmd) : Nat := nbits (c.desc.getD 6 0).toNat 55 0
def TierCmd.tag (c : TierCmd) : Word := c.desc.getD 7 0
def TierCmd.pages (c : TierCmd) : Nat := c.len / 0x1000

/-- The operation needs T2 (R171). -/
def TierCmd.needsT2 (c : TierCmd) : Bool := let o := c.op.toNat; o == 1 || o == 2 || o == 3 || o == 4 || o == 9

/-- The object range a command touches, if any: object, first unit, units (R161). -/
def TierCmd.units (c : TierCmd) : Option (Nat × Nat × Nat) :=
  match c.op.toNat with
  | 2 => some (c.obj, 0, 2 ^ 26)
  | 9 => some (c.obj, 0, 2 ^ 26)
  | 3 => some (c.obj, c.objOff / 2 ^ 20, (c.objOff % 2 ^ 20 + c.len + 2 ^ 20 - 1) / 2 ^ 20)
  | 4 => some (c.obj, c.objOff / 2 ^ 20, (c.objOff % 2 ^ 20 + c.len + 2 ^ 20 - 1) / 2 ^ 20)
  | _ => none

/-- The GFA ranges a command touches. -/
def TierCmd.ranges (c : TierCmd) : List (Nat × Nat) :=
  let o := c.op.toNat
  (if 3 ≤ o && o ≤ 8 then [(c.addrA, c.len)] else []) ++ (if o == 5 then [(c.addrB, c.len)] else [])

/-- Two commands overlap: a common object unit, or a common page of GFA (R161). -/
def TierCmd.overlap (c d : TierCmd) : Bool :=
  (match c.units, d.units with
    | some (o, a, n), some (q, b, m) => o == q && overlaps a n b m
    | _, _ => false) ||
  c.ranges.any (fun x => d.ranges.any (fun y => overlaps x.1 x.2 y.1 y.2))

/-! ### Tier commands: running -/

def State.setCmds (s : State) (l : List TierCmd) : State := { s with tier := { s.tier with cmds := l } }
def State.cmd (s : State) (id : Nat) : Option TierCmd := s.tier.cmds.find? (fun c => c.id == id)
def State.setCmd (s : State) (c : TierCmd) : State := s.setCmds (s.tier.cmds.map (fun d => if d.id == c.id then c else d))

/-- The command's effects are over, with a status (R11). -/
def State.endCmd (s : State) (c : TierCmd) (st : Status) : State := s.setCmd { c with phase := .ended, status := statusMin c.status st }

/-- A fabric request of the engine for a command: RDN or WRI of a page (R158). -/
def State.tierReq (s : State) (c : TierCmd) (op gfa : Nat) (data : List Byte) (poi : Bool) : State :=
  s.issue { opcode := BitVec.ofNat 8 op, len := 0x1000, poi := poi, tid := BitVec.ofNat 16 c.id, job := c.req.job, gfa := BitVec.ofNat 56 gfa,
            dst := BitVec.ofNat 17 (gfaHome (BitVec.ofNat 56 gfa) * 128), src := BitVec.ofNat 10 s.ix, agent := agTraverse, payload := data }
    (.tier c.id)

/-- The range of a FLUSH, PIN or UNPIN lies in one WB extent of the parcel on this Tiolo (R158, R166). -/
def State.wbRange (s : State) (c : TierCmd) : Status :=
  let g := BitVec.ofNat 56 c.addrA
  if gfaHome g != s.ix then stAccessFault
  else match s.extAt (gfaOff g) with
    | none => stAccessFault
    | some (_, x) =>
      let st := s.checkExt x (gfaOff g) c.len c.req.job.toNat .load
      if st == stFatal || st == stRevoked then st
      else if x.wb && s.bit rTcPool 0 && x.owner == c.parcel && gfaOff g + c.len ≤ x.base + 0x1000 * x.pages then stOK
      else stAccessFault

/-- The cached pages of a command's range. -/
def State.wbFrames (s : State) (c : TierCmd) : KMap Frame :=
  let a := gfaOff (BitVec.ofNat 56 c.addrA) / 0x1000
  s.tier.frames.filter (fun e => decide (a ≤ e.1) && decide (e.1 < a + c.pages))

/-- Pinned frames of a parcel in a region. -/
def State.pinned (s : State) (n r : Nat) : Nat := ((s.framesIn n r).filter (fun e => e.2.pin)).length

/-- What one page of a PIN meets (R153, R158, R167). -/
inductive PinAnswer where
  /-- The page is pinned; its frame may still be filling. -/
  | pinned (fills : Bool)
  /-- A frame is in motion, and the page is tried again after it. -/
  | waits (frame : Nat)
  /-- No frame can be had, or the quota is pinned. -/
  | quota
  deriving DecidableEq, Repr

/-- One page of a PIN: pinned in its frame, or in a frame allocated for it, the least recently used one evicted when none is free. -/
def State.pinPage (s : State) (c : TierCmd) (k : Nat) : State × PinAnswer :=
  let r := s.frameRegion k
  let q := 256 * (s.quota c.parcel).t0
  let room := decide (s.pinned c.parcel r < q)
  match kget s.tier.frames k with
  | some f => if f.evict then (s, .waits k) else if f.pin || room then (s.setFrame k { f with pin := true }, .pinned f.filling) else (s, .quota)
  | none =>
    let fs := s.framesIn c.parcel r
    let fill (s2 : State) : State × PinAnswer :=
      let s3 := s2.cacheTick
      ((s3.setFrame k { parcel := c.parcel, pool := s3.freePool r, pin := true, filling := true, used := s3.tier.clock }).count pgTl 11, .pinned true)
    if !room then (s, .quota)
    else if fs.length < q then fill s
    else match s.victim fs with
      | some (v, f) =>
        if f.dirty then
          let s1 := s.startWriteBack v
          (s1.setFrame v { (kget s1.tier.frames v).getD f with evict := true }, .waits v)
        else fill (s.dropFrame v)
      | none => match s.busyFrame fs with
        | some (v, _) => (s, .waits v)
        | none => (s, .quota)

/-- The remaining pages of a PIN, ascending, as far as they can be pinned now; what it waits for stands in `frames`. -/
def State.pinPages (s : State) (c : TierCmd) : Nat → State × TierCmd × Status
  | 0 => (s, c, stOK)
  | n + 1 => match s.pinPage c (gfaOff (BitVec.ofNat 56 c.addrA) / 0x1000 + c.page) with
    | (s1, .pinned fills) =>
      let k := gfaOff (BitVec.ofNat 56 c.addrA) / 0x1000 + c.page
      s1.pinPages { c with page := c.page + 1, frames := if fills then insertNew c.frames k else c.frames } n
    | (s1, .waits v) => (s1, { c with frames := insertNew c.frames v }, stOK)
    | (s1, .quota) => (s1, c, stQuota)

/-- A PIN goes on while its range is a WB extent's (R158): its next pages, and its end once each is in its frame. -/
def State.pinStep (s : State) (c : TierCmd) : State :=
  if s.wbRange c != stOK then s.endCmd c (s.wbRange c)
  else
    let r := s.pinPages c (c.pages - c.page)
    if r.2.2 != stOK then r.1.endCmd r.2.1 r.2.2
    else if r.2.1.page == c.pages && r.2.1.frames.isEmpty then r.1.endCmd r.2.1 stOK
    else r.1.setCmd r.2.1

/-- The new image of the unit that a page of an OWRITE falls in: programming takes a free block, and starts from the unit's old content
(R155, R170). Without a free block it waits for an erase. -/
def State.openImage (s : State) (c : TierCmd) : Option State :=
  let ix := (c.objOff + 0x1000 * c.page) / 2 ^ 20
  let k := unitKey c.obj ix
  if (kget s.tier.images k).isSome then some s
  else match s.allocBlock with
    | none => none
    | some b =>
      let old := kgetD s.tier.units k {}
      let im : UnitImage := { cmd := c.id, object := c.obj, index := ix, block := b, data := old.data, bad := old.bad }
      some { s with tier := { s.tier with images := kset s.tier.images k im } }

/-- The command goes on: its next page, its last images, or its end (R155, R158, R166). -/
def State.tierStep (s : State) (c : TierCmd) : State :=
  match c.op.toNat with
  | 3 =>
    if c.page < c.pages then
      match s.openImage c with
      | some s1 => (s1.setCmd { c with waits := 1 }).tierReq c opRDN (c.addrA + 0x1000 * c.page) [] false
      | none => s.setCmd c
    else if s.tier.images.any (fun e => e.2.cmd == c.id) then s.setCmd c
    else s.endCmd c stOK
  | 4 =>
    if c.page < c.pages then
      let r := s.objRead c.parcel c.obj (c.objOff + 0x1000 * c.page)
      let s1 := s.objReadCount c.obj (c.objOff + 0x1000 * c.page) (c.page == 0) r.2
      let d := { c with waits := 1, status := if r.2 then statusMin c.status stPoison else c.status }
      (s1.setCmd d).tierReq d opWRI (c.addrA + 0x1000 * c.page) r.1 r.2
    else s.endCmd c stOK
  | 5 =>
    if c.page < c.pages then (s.setCmd { c with waits := 1 }).tierReq c opRDN (c.addrA + 0x1000 * c.page) [] false
    else s.endCmd c stOK
  | 7 => s.pinStep c
  | _ => if c.frames.isEmpty then s.endCmd c stOK else s.setCmd c

/-- The lowest object identifier that is not in use. -/
def State.freeObj (s : State) : Nat :=
  ((List.range (s.tier.objs.length + 1)).find? (fun i => (kget s.tier.objs i).isNone)).getD 0

/-- The T2 use of a parcel in GiB, and its live objects (R153). -/
def State.t2Units (s : State) (n : Nat) : Nat := (s.tier.objs.filter (fun e => e.2.owner == n)).foldl (fun a e => a + e.2.size) 0
def State.liveObjs (s : State) (n : Nat) : Nat := (s.tier.objs.filter (fun e => e.2.owner == n)).length

def State.setObj (s : State) (i : Nat) (o : Obj) : State := { s with tier := { s.tier with objs := kset s.tier.objs i o } }

/-- A field that R157 does not allow: SCOPE, or a misaligned RECORD, address, offset or length. -/
def TierCmd.bad (c : TierCmd) : Bool :=
  let o := c.op.toNat
  (c.scope != 1 && c.scope != 2) || c.rec' % 16 != 0 || (3 ≤ o && o ≤ 8 && (c.len == 0 || c.len % 0x1000 != 0)) ||
  (3 ≤ o && o ≤ 8 && c.addrA % 0x1000 != 0) || (o == 5 && c.addrB % 0x1000 != 0) || ((o == 3 || o == 4) && c.objOff % 0x1000 != 0)

/-- The status with which an OCREATE ends at its start, OK when it runs (R11, R150, R153, R157, R158). -/
def State.createStatus (s : State) (c : TierCmd) : Status :=
  let n := c.len / 2 ^ 20
  let q := s.quota c.parcel
  statusOf [(c.bad, stUnsupported), (c.len == 0 || c.len % 2 ^ 20 != 0, stUnsupported), (!s.t2We, stAccessFault),
    (ceilDiv (s.t2Units c.parcel + n) 1024 > q.t2, stQuota), (s.liveObjs c.parcel + 1 > min (2 ^ 20) q.objs, stQuota),
    (s.tier.objs.length ≥ 2 ^ 20, stQuota), (s.usedUnits + n > s.usableUnits, stQuota)]

/-- OCREATE starts: the units and a fresh key are allocated, and the lowest free identifier is assigned; it completes once its units and
journal record are programmed (R153, R158, R170). -/
def State.startCreate (s : State) (c : TierCmd) : State :=
  let n := c.len / 2 ^ 20
  let st := s.createStatus c
  let s0 := if s.t2We then s else s.count pgTl 15
  if st != stOK then s0.endCmd c st
  else
    let id := s0.freeObj
    let s1 : State := { s0 with sec := { s0.sec with drawn := s0.sec.drawn + 1 } }
    (s1.setObj id { owner := c.parcel, size := n, key := s1.sec.drawn, wrap := s1.sec.life.mediaKey, creating := true }).setCmd
      { c with object := id, sizeMiB := n }

/-- The object that a command names, when its parcel owns it and the range lies in it (R154, R157). -/
def State.cmdObj (s : State) (c : TierCmd) (range : Bool) : Status :=
  match kget s.tier.objs c.obj with
  | none => stAccessFault
  | some o => if o.owner != c.parcel || o.deleting || o.creating then stAccessFault
              else if range && o.size * 2 ^ 20 < c.objOff + c.len then stAccessFault else stOK

/-- The status with which a command ends at its start, OK when it runs (R11, R150, R157, R158). -/
def State.startStatus (s : State) (c : TierCmd) : Status :=
  let bad := (c.bad, stUnsupported)
  let obj (range : Bool) := (s.cmdObj c range != stOK, s.cmdObj c range)
  let wb := (s.wbRange c != stOK, s.wbRange c)
  match c.op.toNat with
  | 1 => stOK
  | 2 => statusOf [bad, (!s.t2We, stAccessFault), obj false]
  | 3 => statusOf [bad, (!s.t2We, stAccessFault), obj true]
  | 4 => statusOf [bad, obj true]
  | 5 => statusOf [bad]
  | 6 => statusOf [bad, (!s.t1We, stAccessFault), wb]
  | 7 => statusOf [bad, wb]
  | 8 => statusOf [bad, wb]
  | 9 => statusOf [bad, obj false]
  | _ => stUnsupported

/-- The command writes a tier that is read-only (R150, R166). -/
def State.shutOut (s : State) (c : TierCmd) : Bool :=
  match c.op.toNat with
  | 2 | 3 => !s.t2We
  | 6 => !s.t1We
  | _ => false

/-- A command starts: its checks, then its first steps (R150, R157, R158). -/
def State.tierStart (s : State) (c0 : TierCmd) : State :=
  let s0 := s.count pgTl 0
  let c := { c0 with phase := .running, object := c0.obj }
  if s0.startStatus c != stOK then (s0.count pgTl 15 (if s0.shutOut c then 1 else 0)).endCmd c (s0.startStatus c)
  else match c.op.toNat with
  | 1 => s0.startCreate c
  | 2 =>
    match kget s0.tier.objs c.obj with
    | some x => ((s0.setObj c.obj { x with deleting := true }).squash (fun leg =>
        nbits (leg.getD 0 0).toNat 1 0 == 1 && nbits (leg.getD 1 0).toNat 19 0 == c.obj)).setCmd c
    | none => s0.endCmd c stAccessFault
  | 6 =>
    let fs := (s0.wbFrames c).filter (fun e => e.2.dirty)
    let ks := fs.map (fun e => e.1)
    -- a page that a store has dirtied since its write-back began is written back twice
    let twice := (fs.filter (fun e => e.2.cleaning && e.2.restored)).map (fun e => e.1)
    (ks.foldl State.startWriteBack s0).tierStep { c with frames := ks ++ twice }
  | 8 => ((s0.wbFrames c).foldl (fun a e => a.setFrame e.1 { e.2 with pin := false }) s0).endCmd c stOK
  | 9 => s0.endCmd { c with sizeMiB := ((kget s0.tier.objs c.obj).map (fun x => x.size)).getD 0 } stOK
  | _ => s0.tierStep c

/-- A queued command may start: earlier commands of its parcel have started, none that overlaps is unfinished, T2 is mounted (R161, R171). -/
def State.mayStart (s : State) (c : TierCmd) : Bool :=
  let before := (s.tier.cmds.takeWhile (fun d => d.id != c.id)).filter (fun d => d.parcel == c.parcel)
  c.phase == .queued && !before.any (fun d => d.phase == .queued || (d.phase == .running && c.overlap d)) &&
  (!c.needsT2 || s.bit rTlStat 0)

/-- Starts every command that may start, in queue order. -/
def State.tierPump (s : State) : State :=
  s.tier.cmds.foldl (fun a c => match a.cmd c.id with
    | some d => if a.mayStart d then a.tierStart d else a
    | none => a) s

/-- The lowest command number that is free. -/
def State.freeCmd (s : State) : Nat :=
  ((List.range 1025).find? (fun i => (s.cmd i).isNone)).getD 1024

/-- The command queue has room for a parcel: 1,024 entries, 64 for a parcel (R156). -/
def State.tierRoom (s : State) (n : Nat) : Bool :=
  decide (s.tier.cmds.length < 1024) && decide ((s.tier.cmds.filter (fun c => c.parcel == n)).length < 64)

/-- A command is queued and its doorbell write completes (R156). -/
def State.tierQueue (s : State) (n : Nat) (p : Packet) : State :=
  let d := descOf p
  let c : TierCmd := { id := s.freeCmd, parcel := n, op := BitVec.ofNat 8 (nbits (d.getD 0 0).toNat 7 0), desc := d, req := p }
  ((s.setCmds (s.tier.cmds ++ [c])).complete p stOK).tierPump

/-- A write to the tier-command doorbell: queued, or held while the queue is full (R156). -/
def State.tierDoor (s : State) (op : Nat) (p0 : Packet) : State :=
  let p := { p0 with payload := leBytes 1 op ++ p0.payload.drop 1 }
  let s1 := s.tick aidTrav
  let st := s1.engineDoor p
  if st != stOK then s1.complete p st
  else match s1.parcelOf p.job.toNat with
    | none => s1.complete p stAccessFault
    | some n => if s1.tierRoom n && !s1.doorWaits 1 p then s1.tierQueue n p else s1.holdDoor 1 p

/-- OCREATE (R158). -/
def execOcreate (p : Packet) (s : State) : Host.Outcome State Fault Refusal := .next (s.tierDoor 1 p)
/-- ODELETE (R158, R173). -/
def execOdelete (p : Packet) (s : State) : Host.Outcome State Fault Refusal := .next (s.tierDoor 2 p)
/-- OWRITE (R158). -/
def execOwrite (p : Packet) (s : State) : Host.Outcome State Fault Refusal := .next (s.tierDoor 3 p)
/-- OREAD (R158). -/
def execOread (p : Packet) (s : State) : Host.Outcome State Fault Refusal := .next (s.tierDoor 4 p)
/-- COPY (R158). -/
def execCopy (p : Packet) (s : State) : Host.Outcome State Fault Refusal := .next (s.tierDoor 5 p)
/-- FLUSH (R166). -/
def execFlush (p : Packet) (s : State) : Host.Outcome State Fault Refusal := .next (s.tierDoor 6 p)
/-- PIN (R158). -/
def execPin (p : Packet) (s : State) : Host.Outcome State Fault Refusal := .next (s.tierDoor 7 p)
/-- UNPIN (R158). -/
def execUnpin (p : Packet) (s : State) : Host.Outcome State Fault Refusal := .next (s.tierDoor 8 p)
/-- OQUERY (R158). -/
def execOquery (p : Packet) (s : State) : Host.Outcome State Fault Refusal := .next (s.tierDoor 9 p)

/-- Images of a command that ends early are given up; their blocks are erased, and their units keep their old content (R155). -/
def State.dropImages (s : State) (id : Nat) : State :=
  let gone := s.tier.images.filter (fun e => e.2.cmd == id)
  gone.foldl (fun a e => a.freeBlock e.2.block) ({ s with tier := { s.tier with images := s.tier.images.filter (fun e => e.2.cmd != id) } } : State)

/-- A source page of an OWRITE goes into its unit's new image; the unit is programmed once its last page is in (R155, R159). -/
def State.imagePage (s : State) (c : TierCmd) (data : List Byte) (poi : Bool) : State :=
  let off := c.objOff + 0x1000 * c.page
  let k := unitKey c.obj (off / 2 ^ 20)
  match kget s.tier.images k with
  | none => s
  | some im =>
    let sec := off % 2 ^ 20 / 0x1000
    let im1 : UnitImage := { im with data := memWrite im.data (off % 2 ^ 20) (slice data 0 0x1000),
                                     bad := if poi then insertNew im.bad sec else im.bad.filter (· != sec),
                                     full := c.page + 1 == c.pages || sec == 255 }
    { s with tier := { s.tier with images := kset s.tier.images k im1 } }

/-- A completion of a tier command's page arrives (R158, R159): POISON is carried on, another failure ends the command. -/
def State.tierCmp (s : State) (id : Nat) (req p : Packet) : State :=
  match s.cmd id with
  | none => s
  | some c0 =>
    let c := { c0 with waits := 0 }
    if c.phase != .running then s.setCmd c
    else if p.status != stOK && p.status != stPoison then ((s.dropImages id).endCmd c p.status).tierPump
    else
      let poi := p.status == stPoison
      let c1 := { c with status := if poi then statusMin c.status stPoison else c.status }
      if req.opcode.toNat == opRDN && c.op.toNat == 5 then
        (s.setCmd { c1 with waits := 1 }).tierReq c1 opWRI (c.addrB + 0x1000 * c.page) (slice p.payload 0 0x1000) poi
      else
        let s1 := if c.op.toNat == 3 then s.imagePage c1 p.payload poi else s
        (s1.tierStep { c1 with page := c1.page + 1 }).tierPump

/-- The map entry of an image's unit switches to it; the old block is freed (R155). -/
def State.unitSwitch (s : State) (k : Nat) (im : UnitImage) : State :=
  let s1 := match kget s.tier.units k with
    | some u => s.freeBlock u.block
    | none => s
  let key := ((kget s1.tier.objs im.object).map (fun o => o.key)).getD 0
  let s2 := s1.setUnit k { block := im.block, key := key, data := im.data, bad := im.bad }
  { s2 with tier := { s2.tier with images := kdel s2.tier.images k } }

/-- UNIT_PROGRAM_DONE: the map entry of a programmed image switches in one step; the old block is freed (R155). -/
def State.unitDone (s : State) (k : Nat) : State :=
  match kget s.tier.images k with
  | none => s
  | some im =>
    if !im.full then s
    else
      let s0 := ((s.tick aidTl).count pgTl 3).squash (fun leg => legUnit leg im.object im.index)
      let s3 := s0.unitSwitch k im
      match s3.cmd im.cmd with
      | some c => if c.phase == .running && c.waits == 0 then (s3.tierStep c).tierPump else s3
      | none => s3

def execUnitProgramDone (k : Nat) (s : State) : Host.Outcome State Fault Refusal := .next (s.unitDone k)

/-! ### The end of a command (R160) -/

/-- The 16 B completion record. -/
def TierCmd.record (c : TierCmd) (flags : BitVec 3) : List Byte :=
  leBytes 8 (c.status.toNat + flags.toNat * 2 ^ 4 + c.object * 2 ^ 8 + (if c.op.toNat == 1 || c.op.toNat == 9 then c.sizeMiB else 0) * 2 ^ 32) ++
  leBytes 8 c.tag.toNat

/-- A deleted object goes, and its units' blocks wait for their erase (R158, R172). -/
def State.dropObj (s : State) (id : Nat) : State :=
  let mine := s.tier.units.filter (fun e => e.1 / 2 ^ 26 == id)
  let s1 := mine.foldl (fun a e => a.freeBlock e.2.block) s
  { s1 with tier := { s1.tier with objs := kdel s1.tier.objs id, units := s1.tier.units.filter (fun e => e.1 / 2 ^ 26 != id) } }

/-- OCREATE and ODELETE have their journal records programmed: the object is there, or gone (R158, R170, R172). -/
def State.tierFinish (s : State) (c : TierCmd) : State :=
  if c.phase != .running then s
  else match c.op.toNat, kget s.tier.objs c.object with
    | 1, some o => (s.setObj c.object { o with creating := false }).endCmd c stOK
    | 2, some _ => (s.dropObj c.object).endCmd c stOK
    | _, _ => s

/-- TIER_COMMAND_END: an ended command's record is written (R160); OCREATE and ODELETE end with this event. -/
def State.tierEnd (s : State) (id : Nat) : State :=
  match s.cmd id with
  | none => s
  | some c0 =>
    let s0 := s.tierFinish c0
    match s0.cmd id with
    | none => s
    | some c =>
      if c.phase != .ended || c.recorded then s
      else
        let s1 := (s0.count pgTl (if c.status == stOK then 1 else 2)).count pgTl 14 (if c.status == stQuota then 1 else 0)
        let g := BitVec.ofNat 56 c.rec'
        (s1.setCmd { c with recorded := true }).issue
          { opcode := BitVec.ofNat 8 opWRN, len := 16, tid := BitVec.ofNat 16 (0x400 + id), job := c.req.job, gfa := g,
            dst := BitVec.ofNat 17 (gfaHome g * 128), src := BitVec.ofNat 10 s1.ix, agent := agTraverse,
            payload := c.record (s1.degradedFlag c.req.job.toNat) } (.record id)

def execTierCommandEnd (k : Nat) (s : State) : Host.Outcome State Fault Refusal := .next (s.tierEnd k)

/-- The record's completion: the stake is released when it is OK; otherwise a RECORD event is made (R160). The command leaves the queue. -/
def State.tierRecorded (s : State) (id : Nat) (p : Packet) : State :=
  match s.cmd id with
  | none => s
  | some c =>
    let s0 := s.setCmds (s.tier.cmds.filter (fun d => d.id != id))
    let s1 :=
      if p.status == stOK then
        if c.stakeEn && s0.stakeAccess c.stake c.req.job.toNat == stOK then s0.srelLocal c.stake 1 (BitVec.ofNat 2 c.scope) agTraverse else s0
      else s0.record (bookRegion 0) (pgRegion 0) clsRecord 2 aidTrav (c.tag.toNat + 2 ^ 64) c.rec' p.status (some c.parcel)
    s1.tierPump

/-! ### Mount, map loss, wear (R170–R172) -/

/-- LOW_SPARE below 1 %; at 0.25 % T2_WE is cleared and recorded (R152, R170). -/
def State.checkSpare (s : State) : State :=
  let s1 := s.setBit rTlStat 2 (decide (100 * s.spareBlocks < s.rawUnits))
  if s1.t2We && 400 * s1.spareBlocks ≤ s1.rawUnits then (s1.setBit rTierWe 1 false).tierNote bookChip pgTl 1 s1.spareBlocks else s1

/-- TL_MOUNT_START: a write of TL_CTL; EN reserves the translation area and starts the mount, or is refused; with a stack
that failed its training MAP_ERR is set and the mount never ends (R149, R171, R504). -/
def State.mountStart (s : State) (v : Word) : State :=
  s.cfgDo rTlCtl (fun s =>
    let w := v.toNat
    let was := s.bit rTlCtl 0
    let opOk := !was && 4 ≤ nbits w 12 8 && nbits w 12 8 ≤ 16
    let s1 := (if opOk then s.setFld rTlCtl 12 8 (nbits w 12 8) else s)
    let s2 := ((s1.setFld rTlCtl 19 16 (nbits w 19 16)).setFld rTlCtl 47 32 (nbits w 47 32)).setFld rTlCtl 63 48 (nbits w 63 48)
    if nbit w 0 && !was then
      let s3 := s2.tick aidCompose
      if s2.grantsAbove (s2.reservedTop - 3) then s3.refuseEnable rTlCtl
      else (s3.setBit rTlCtl 0 true).setBit rTlStat 4 (!s2.stacksTrained)
    else if !nbit w 0 && was then (s2.setBit rTlCtl 0 false).setBit rTlStat 0 false
    else s2)

def execTlMountStart (v : Word) (s : State) : Host.Outcome State Fault Refusal := .next (s.mountStart v)

/-- Blank media are formatted: the factory-marked blocks are excluded, and OP is taken for good (R170, R171). -/
def Tier.format (t : Tier) (op raw : Nat) : Tier :=
  { t with objs := [], units := [], images := [], formatted := some op,
           blocks := (Config.factoryBad.filter (fun b => decide (b < raw))).foldl (fun m b => kset m b { retired := true }) [] }

/-- TL_MOUNT_DONE: MOUNTED is set; blank media, which no mount has formatted before, have been formatted; the waiting T2 commands proceed
(R171). -/
def State.mountDone (s : State) (blank : Bool) : State :=
  if !s.bit rTlCtl 0 || s.bit rTlStat 0 || !s.stacksTrained then s
  else
    let new := blank && s.tier.formatted.isNone
    let op := s.fld rTlCtl 12 8
    let s0 : State := { s with tier := if new then s.tier.format op s.rawUnits else { s.tier with formatted := some (s.tier.formatted.getD op) } }
    ((((s0.setBit rTlStat 0 true).setBit rTlStat 1 new).setBit rTlStat 4 false).checkSpare).tierPump

/-- A command loses its state in progress (R164): RETRY, or LOST_STATE for OCREATE and ODELETE, which leave the object whole or gone. -/
def State.loseCmd (s : State) (c : TierCmd) : State :=
  let s1 := s.dropImages c.id
  match c.op.toNat, kget s1.tier.objs c.object with
  | 1, some o =>
    ((if s1.freeNat 1 == 1 then s1.setObj c.object { o with creating := false } else s1.dropObj c.object).took).endCmd { c with status := 0 } stLostState
  | 2, some o =>
    ((if s1.freeNat 1 == 1 then s1.setObj c.object { o with deleting := false } else s1.dropObj c.object).took).endCmd { c with status := 0 } stLostState
  | _, _ => s1.endCmd { c with status := 0 } (if c.op.toNat ≤ 2 then stLostState else stRetry)

/-- Every running command of a kind loses its state. -/
def State.loseCmds (s : State) (q : TierCmd → Bool) : State :=
  s.tier.cmds.foldl (fun a c => if q c && c.phase == .running then a.loseCmd c else a) s

/-- T2 commands in progress lose their state (R164, R171). -/
def State.loseT2Cmds (s : State) : State := s.loseCmds TierCmd.needsT2

/-- TL_MAP_LOST: MAP_ERR is set, T2_WE cleared, commands in progress complete, a remount starts (R152, R171). -/
def State.mapLost (s : State) : State :=
  if !s.bit rTlCtl 0 then s
  else
    let s1 := ((s.setBit rTlStat 4 true).setBit rTierWe 1 false).setBit rTlStat 0 false
    ((s1.loseT2Cmds).tierNote bookChip pgTl 2 1).tierPump

def execTlMapLost (s : State) : Host.Outcome State Fault Refusal := .next s.mapLost

/-- The units in a block move to another, a sector that fails there as one that reads as POISON; the old block waits for its erase (R170). -/
def State.migrate (s : State) (b t : Nat) : State :=
  let f (u : FUnit) : FUnit :=
    if u.block == b then { u with block := t, bad := u.bad ++ (List.range 256).filter (fun i => s.sectorFails b i && !u.bad.contains i) } else u
  (({ s with tier := { s.tier with units := s.tier.units.map (fun e => (e.1, f e.2)) } } : State).tick aidTl).freeBlock b

/-- The unit of a block may migrate to a target now: T2 is mounted and writable, the target is free (R150, R170). -/
def State.mayMigrate (s : State) (b t : Nat) : Bool :=
  s.bit rTlStat 0 && s.t2We && s.tier.units.any (fun e => e.2.block == b) && b != t && s.blockFree t

/-- Highest and lowest erase counts of good blocks; a block that was never listed has none. -/
def State.peMax (s : State) : Nat := (s.tier.blocks.filter (fun e => !e.2.retired)).foldl (fun a e => max a e.2.erases) 0
def State.peMin (s : State) : Nat :=
  let l := s.tier.blocks.filter (fun e => !e.2.retired)
  if s.tier.blocks.length < s.rawUnits then 0 else l.foldl (fun a e => min a e.2.erases) (l.foldl (fun a e => max a e.2.erases) 0)

/-- WEAR_LEVEL_MIGRATION: the spread exceeds WL_DELTA, and the coldest block's units migrate (R170). -/
def State.wearLevel (s : State) (b t : Nat) : State :=
  let cold := s.tier.units.all (fun e => decide ((s.fblock b).erases ≤ (s.fblock e.2.block).erases))
  if s.mayMigrate b t && cold && decide (s.fld rTlCtl 63 48 < s.peMax - s.peMin) then (s.migrate b t).count pgTl 8 else s

def execWearLevelMigration (block target : Nat) (s : State) : Host.Outcome State Fault Refusal :=
  .next (s.onFirmware (.migrate true block target) (fun s => s.wearLevel block target))

/-- REFRESH_MIGRATION: a block that is scheduled, at its read limit or for a sector that needed soft decoding, has its units migrated
(R170). -/
def State.refresh (s : State) (b t : Nat) : State :=
  if s.mayMigrate b t && (s.fblock b).due then
    let s1 := (s.migrate b t).count pgTl 7
    s1.setBlock b { s1.fblock b with reads := 0, due := false }
  else s

def execRefreshMigration (block target : Nat) (s : State) : Host.Outcome State Fault Refusal :=
  .next (s.onFirmware (.migrate false block target) (fun s => s.refresh block target))

/-- BLOCK_RETIRE: a program or erase failed; the block is retired and its data, programmed or being programmed, goes elsewhere (R170). -/
def State.retireBlock (s : State) (b t : Nat) : State :=
  if !s.bit rTlStat 0 || (s.fblock b).retired || b == t || !s.blockFree t then s
  else
    let f (u : FUnit) : FUnit := if u.block == b then { u with block := t } else u
    let g (u : UnitImage) : UnitImage := if u.block == b then { u with block := t } else u
    let s1 : State := { s with tier := { s.tier with units := s.tier.units.map (fun e => (e.1, f e.2)),
                                                     images := s.tier.images.map (fun e => (e.1, g e.2)) } }
    ((s1.setBlock b { s1.fblock b with retired := true, erasePending := false }).count pgTl 9).checkSpare

def execBlockRetire (block target : Nat) (s : State) : Host.Outcome State Fault Refusal := .next (s.retireBlock block target)

/-- Each OWRITE that waits for a free block goes on (R170). -/
def State.resumeWrites (s : State) : State :=
  (s.tier.cmds.foldl (fun a c => if c.op == 3 && c.phase == .running && c.waits == 0 && c.page < c.pages then a.tierStep c else a) s).tierPump

/-- BACKGROUND_ERASE_DONE: a freed block has been erased (R172). -/
def State.eraseDone (s : State) (b : Nat) : State :=
  if (s.fblock b).erasePending then
    (s.setBlock b { s.fblock b with erasePending := false, erases := (s.fblock b).erases + 1, reads := 0, due := false }).resumeWrites
  else s

def execBackgroundEraseDone (block : Nat) (s : State) : Host.Outcome State Fault Refusal := .next (s.eraseDone block)

/-! ### Tier write enable and quotas (R151, R153) -/

/-- Every home arbiter takes its step: the cadastre's, as in R65 and R151 (R436 step 5). -/
def State.homeSteps (s : State) : State := (List.range 4).foldl (fun s n => s.tick (aidCad n)) s

/-- A new value of a write enable takes effect in one step of each home arbiter (R151). -/
def State.weSteps (s : State) (old : Nat) : State := if s.fld rTierWe 1 0 == old then s else s.homeSteps

/-- COMMIT_T1_WE (R151, R152). -/
def execCommitT1We (on : Bool) (s : State) : Host.Outcome State Fault Refusal :=
  .next (s.cfgDo rTierWe (fun s => (s.setBit rTierWe 0 on).weSteps (s.fld rTierWe 1 0)))

/-- The new value of T2_WE: refused while T2 is unmounted or low on spares (R151). -/
def State.commitT2 (s : State) (on : Bool) : State :=
  if on && (!s.bit rTlStat 0 || s.bit rTlStat 2) then s.setBit rTierWe 2 true
  else if on then (s.setBit rTierWe 1 true).setBit rTierWe 2 false
  else s.setBit rTierWe 1 false

def execCommitT2We (on : Bool) (s : State) : Host.Outcome State Fault Refusal := .next (s.cfgDo rTierWe (fun s => (s.commitT2 on).weSteps (s.fld rTierWe 1 0)))

/-- TQ_LIMIT_WRITE: refused when the T0 quotas of all parcels would exceed one region's share of the pool (R153). -/
def State.tqLimitWrite (s : State) (v : Word) : State :=
  s.cfgDo rTqLimit (fun s =>
    let n := s.fld rTqSel 5 0
    let t0 := nbits v.toNat 17 0
    let others := (s.tier.quotas.filter (fun e => e.1 != n)).foldl (fun a e => a + e.2.t0) 0
    if s.fld rTcPool 14 8 * 256 < others + t0 then s.setBit rTqSel 63 true
    else
      let q := { s.quota n with t0 := t0, t1 := nbits v.toNat 37 20, t2 := nbits v.toNat 59 40 }
      (({ s with tier := { s.tier with quotas := kset s.tier.quotas n q } } : State).setBit rTqSel 63 false))

def execTqLimitWrite (v : Word) (s : State) : Host.Outcome State Fault Refusal := .next (s.tqLimitWrite v)

/-! ### The write-back cache's events (R153, R166, R167) -/

/-- Commands that wait for a frame wait for it once less. -/
def State.frameDone (s : State) (k : Nat) : State :=
  (s.tier.cmds.foldl (fun (a : State) c =>
    if c.phase == .running && c.frames.contains k then a.tierStep { c with frames := c.frames.erase k } else a) s).tierPump

/-- No command waits for a frame any more. -/
def State.frameGone (s : State) (k : Nat) : State :=
  (s.tier.cmds.foldl (fun (a : State) c =>
    if c.phase == .running && c.frames.contains k then a.tierStep { c with frames := c.frames.filter (· != k) } else a) s).tierPump

/-- A transaction that waits for a page's frame goes on: with the frame there, or by trying again (R166). -/
def State.frameMoves (s : State) (n k : Nat) : State :=
  match s.txnIx n (fun t => t.framing && t.lines.contains k) with
  | none => s
  | some i => match s.txn n i with
    | none => s
    | some t =>
      let there := (kget s.tier.frames (keyOff k / 0x1000)).any (fun f => !f.filling && !f.evict)
      if !t.reading then (s.setTxn n i { t with framing := false }).advance n i
      else if there then (s.setTxn n i { t with framing := false, reading := false, memOk := true }).advance n i
      else (s.setTxn n i { t with framing := false }).memReadDone n k

/-- Every transaction that waits for a frame. -/
def State.framesMove (s : State) : State :=
  (List.range 4).foldl (fun s n =>
    (((s.cadSlice n).txns.filter (fun t => t.framing)).map Txn.line).foldl (fun s k => s.frameMoves n k) s) s

/-- CACHE_FILL_DONE: the page is in its frame, and the requests that waited for it are served (R166). -/
def State.fillDone (s : State) (k : Nat) : State :=
  match kget s.tier.frames k with
  | none => s
  | some f =>
    if !f.filling then s
    else
      let ls := linesOf (0x1000 * k) 0x1000
      let v := (ls.filter s.damaged).foldl State.poisonLine (s.verify (0x1000 * k) 0x1000)
      let s1 : State := { v with mem := { v.mem with cells := memWrite v.mem.cells f.pool (memRead v.mem.cells (0x1000 * k) 0x1000) } }
      let s2 := s1.setFrame k { f with filling := false, waiters := [] }
      ((f.waiters.foldl (fun a w => a.memServe w.2 w.1 .filled) s2).frameDone k).framesMove

def execCacheFillDone (frame : Nat) (s : State) : Host.Outcome State Fault Refusal := .next (s.fillDone frame)

/-- Held stores are tried again, in order. -/
def State.serveHeld (s : State) (q : Nat × Packet → Bool) : State :=
  (s.tier.heldStores.filter q).foldl (fun a h => a.memServe h.2 h.1 .retried)
    { s with tier := { s.tier with heldStores := s.tier.heldStores.filter (fun h => !q h) } }

/-- Held stores of a parcel are tried again (R153). -/
def State.retryHeld (s : State) (n : Nat) : State :=
  s.serveHeld (fun h => match s.extAt h.1 with
    | some (_, x) => x.owner == n
    | none => true)

/-- WRITE_BACK_DONE: the module has acknowledged a page: DIRTY is cleared unless a store came since; an evicted frame goes (R166, R167). -/
def State.writeBackDone (s : State) (k : Nat) : State :=
  match kget s.tier.frames k with
  | none => s
  | some f =>
    if !f.cleaning then s
    else
      let s1 := (s.setFrame k { f with cleaning := false, dirty := f.restored, restored := false }).count pgTl 12
      if f.evict && !f.restored then
        (((f.waiters.foldl (fun a w => a.memServe w.2 w.1 .filled) (s1.dropFrame k)).frameGone k).framesMove).retryHeld f.parcel
      else
        let s2 := (if f.evict then s1.startWriteBack k else s1).frameDone k
        let again := s2.tier.cmds.any (fun c => c.phase == .running && c.op == 6 && c.frames.contains k)
        (if again then s2.startWriteBack k else s2).retryHeld f.parcel

def execWriteBackDone (frame : Nat) (s : State) : Host.Outcome State Fault Refusal := .next (s.writeBackDone frame)

/-- The stores held for every parcel are tried again: their slots or stacks may be lost (R153, R169). -/
def State.retryAll (s : State) : State := s.serveHeld (fun _ => true)

/-- T1_QUOTA_HOLD_TIMEOUT: the k-th held store completes with QUOTA (R153). -/
def State.holdTimeout (s : State) (k : Nat) : State :=
  match s.tier.heldStores[k]? with
  | none => s
  | some (_, p) =>
    (({ s with tier := { s.tier with heldStores := s.tier.heldStores.eraseIdx k } } : State).complete p stQuota).count pgTl 14

def execT1QuotaHoldTimeout (k : Nat) (s : State) : Host.Outcome State Fault Refusal := .next (s.holdTimeout k)

/-- DOORBELL_HOLD_TIMEOUT: the k-th held doorbell write completes with TIMEOUT (R156). -/
def State.doorTimeout (s : State) (k : Nat) : State :=
  match s.tier.held[k]? with
  | none => s
  | some h => ({ s with tier := { s.tier with held := s.tier.held.eraseIdx k } } : State).complete h.req stTimeout

def execDoorbellHoldTimeout (k : Nat) (s : State) : Host.Outcome State Fault Refusal := .next (s.doorTimeout k)

/-- The cache is disabled: dirty frames are written back while T1 is writable, every frame is freed, and what waited for one goes on. -/
def State.cacheOff (s : State) : State :=
  let fs := s.tier.frames
  let s1 := fs.foldl (fun a e => (a.setFrame e.1 { e.2 with cleaning := false }).startWriteBack e.1) s
  let s2 := ({ s1 with tier := { s1.tier with frames := [] } } : State).setBit rTcPool 0 false
  (fs.foldl (fun a e => (e.2.waiters.foldl (fun a w => a.memServe w.2 w.1 .filled) a).frameGone e.1) s2).framesMove

/-- TC_ENABLE: a write of TC_POOL; TC_EN reserves the pool, or is refused, as it is while a stack has failed its
training (R149, R165, R504). -/
def State.tcEnable (s : State) (v : Word) : State :=
  s.cfgDo rTcPool (fun s =>
    let w := v.toNat
    let was := s.bit rTcPool 0
    let g := nbits w 14 8
    let s1 := if !was && g ≤ 64 && g % 4 == 0 then s.setFld rTcPool 14 8 g else s
    if nbit w 0 && !was then
      let s2 := s1.tick aidCompose
      if s1.grantsAbove (s1.reservedTop - s1.fld rTcPool 14 8) then s2.refuseEnable rTcPool
      else if s1.stacksTrained then s2.setBit rTcPool 0 true else s2
    else if !nbit w 0 && was then s1.cacheOff
    else s1)

def execTcEnable (v : Word) (s : State) : Host.Outcome State Fault Refusal := .next (s.tcEnable v)

/-! ### Losses (R169) -/

/-- A request that waits for a frame of a lost module: loads get POISON, stores ACCESS_FAULT (R48). -/
def State.waiterLost (s : State) (p : Packet) : State :=
  let op := cohOp p.opcode.toNat
  s.complete p (if storesOp op || op == opWBK then stAccessFault else stPoison)

/-- Drops the frames that satisfy a test, recording in a region's book how many were dirty (R169). -/
def State.dropFrames (s : State) (q : Nat → Bool) (r code : Nat) : State :=
  let gone := s.tier.frames.filter (fun e => q e.1)
  let dirty := (gone.filter (fun e => e.2.dirty)).length
  let s1 : State := { s with tier := { s.tier with frames := s.tier.frames.filter (fun e => !q e.1) } }
  let s2 := (gone.foldl (fun a e => (e.2.waiters.foldl (fun b w => b.waiterLost w.2) a).frameGone e.1) s1).framesMove
  if dirty == 0 then s2 else s2.tierNote (bookRegion r) (pgRegion r) code dirty

/-- The slot of a cached page. -/
def frameSlot (k : Nat) : Option Nat :=
  match placeOf (0x1000 * k) with
  | .slot m => some m
  | _ => none

/-- A module is lost: its frames are dropped (R169). -/
def State.dropSlotFrames (s : State) (m : Nat) : State :=
  (s.dropFrames (fun k => frameSlot k == some m) (s.homeRegion (slotBase m)) 3).retryAll

end Sys2Proof.Machine
end

