-- ==== Sys2Proof/Machine/Pnm.lean ====
section
/-!
DEFINITION. Arithmetic in the memory modules (chapter 10): the doorbell, acceptance with its preparation, dispatch, the results the
bank units write, the module's answer and the completion record, and the keys and initialisation of a module.
-/
namespace Sys2Proof.Machine

/-- AID of the PNM doorbell arbiter (R289). -/
def aidPnm : Nat := aidChip 0x080

/-- The lowest TID that no outstanding request of an engine uses (R446). -/
def State.freeTid (s : State) (ag : BitVec 12) : Nat :=
  ((List.range (s.recov.trackers.length + 1)).find? (fun i =>
    !s.recov.trackers.any (fun t => t.req.agent == ag && t.req.src.toNat == s.ix && t.req.tid.toNat == i))).getD 0

/-! ### Fields of a descriptor (R290) -/

def PnmCmd.word (c : PnmCmd) (i : Nat) : Nat := (c.desc.getD i 0).toNat
def PnmCmd.scope (c : PnmCmd) : Nat := nbits (c.word 0) 9 8
def PnmCmd.stake (c : PnmCmd) : Nat := nbits (c.word 0) 29 16
def PnmCmd.stakeEn (c : PnmCmd) : Bool := nbit (c.word 0) 30
def PnmCmd.dt (c : PnmCmd) : Nat := nbits (c.word 0) 35 32
def PnmCmd.func (c : PnmCmd) : Nat := nbits (c.word 0) 38 36
def PnmCmd.op (c : PnmCmd) : Nat := pnmOp c.desc
def PnmCmd.len (c : PnmCmd) : Nat := pnmLen c.desc
def PnmCmd.scalar (c : PnmCmd) : Nat := nbits (c.word 4) 63 32
def PnmCmd.tableGfa (c : PnmCmd) : Nat := nbits (c.word 5) 55 0
def PnmCmd.rec' (c : PnmCmd) : Nat := nbits (c.word 6) 55 0
def PnmCmd.isAct (c : PnmCmd) : Bool := c.op == 4

/-- The ranges of a command: their GFA, and whether it is the destination. -/
def PnmCmd.gfas (c : PnmCmd) : List (Nat × Bool) :=
  [(nbits (c.word 1) 55 0, false)] ++ (if c.isAct then [] else [(nbits (c.word 2) 55 0, false)]) ++ [(nbits (c.word 3) 55 0, true)]

/-- The same by local offset. -/
def PnmCmd.ranges (c : PnmCmd) : List (Nat × Bool) := c.gfas.map (fun r => (r.1 % 2 ^ 46, r.2))

/-- The bank set: the colours that the ranges touch (R288). -/
def PnmCmd.banks (c : PnmCmd) : List Nat :=
  if 0x4_0000 ≤ c.len then List.range 64
  else (List.range (min 64 (ceilDiv (pnmA c.desc % 0x1000 + c.len) 0x1000))).map (fun i => (pnmA c.desc / 0x1000 + i) % 64)

/-- Bits of the descriptor that no field covers. -/
def PnmCmd.reservedSet (c : PnmCmd) : Bool :=
  nbits (c.word 0) 15 10 != 0 || nbit (c.word 0) 31 || nbits (c.word 0) 63 39 != 0 || nbits (c.word 1) 63 56 != 0 ||
  nbits (c.word 2) 63 56 != 0 || nbits (c.word 3) 63 56 != 0 || nbits (c.word 4) 31 27 != 0 || nbits (c.word 5) 63 56 != 0 ||
  nbits (c.word 6) 63 56 != 0

/-- SCALAR is set where the operation or its type does not use it (R290, R292). -/
def PnmCmd.scalarUnused (c : PnmCmd) : Bool :=
  if c.op != 3 then c.scalar != 0
  else (c.dt == 8 && c.scalar / 2 ^ 8 != 0) || ((c.dt == 1 || c.dt == 2) && c.scalar / 2 ^ 16 != 0)

/-! ### The module's queue -/

def State.pnmQ (s : State) (m : Nat) : PnmQueue := kgetD s.pnm m {}
def State.setPnmQ (s : State) (m : Nat) (q : PnmQueue) : State := { s with pnm := kset s.pnm m q }

/-- The levelled MODULE port of a slot. -/
def State.modPort (s : State) (m : Nat) : Option Nat :=
  match s.slotPort m with
  | some p => if s.portUp p then some p else none
  | none => none

/-- Counts an event on the second page of a slot's port (R302). -/
abbrev State.pnmCount (s : State) (m k : Nat) (n : Nat := 1) : State := s.slotCount m k n

/-! ### The end of a command (R291 step 7, R292) -/

/-- The 16 B completion record (R292). -/
def PnmCmd.record (c : PnmCmd) (flags : BitVec 3) : List Byte :=
  leBytes 8 (c.status.toNat + flags.toNat * 2 ^ 4 + c.detail * 2 ^ 8 + c.num * 2 ^ 16 + c.poisoned * 2 ^ 32) ++ leBytes 8 (c.word 7)

/-- The command's record is written; it waits among the ending commands (R291 step 7). -/
def State.pnmEnd (s : State) (m : Nat) (c : PnmCmd) : State :=
  let q := s.pnmQ m
  let keep (l : List PnmCmd) : List PnmCmd := l.filter (fun d => d.id != c.id)
  let s1 := s.setPnmQ m { q with queue := keep q.queue, active := keep q.active, ending := q.ending ++ [c] }
  let s2 := s1.pnmCount m (if c.status == stOK then 1 else 2)
  let g := BitVec.ofNat 56 c.rec'
  s2.issue { opcode := BitVec.ofNat 8 opWRN, len := 16, tid := BitVec.ofNat 16 (s2.freeTid agPnmEngine), job := c.req.job, gfa := g,
             dst := BitVec.ofNat 17 (gfaHome g * 128), src := BitVec.ofNat 10 s2.ix, agent := agPnmEngine,
             payload := c.record (s2.degradedFlag c.req.job.toNat) } (.pnm m c.id.toNat)

/-- Held requests that no active command holds any more are released in hold order (R291 step 6, R295). -/
def State.pnmRelease (s : State) (n : Nat) : State :=
  let held := (s.cadSlice n).holdQ
  held.foldl (fun s e => s.memServe e.2 e.1 .fresh) (s.modSlice n (fun c => { c with holdQ := [] }))

/-- The record's completion: the stake is released, unless the module was lost; a failed write is recorded with TAG (R291 step 7). A module
lost before acceptance does not withhold the release of a command that it makes fail (log 194). -/
def State.pnmRecorded (s : State) (m id : Nat) (p : Packet) : State :=
  let q := s.pnmQ m
  match q.ending.find? (fun c => c.id.toNat == id) with
  | none => s
  | some c =>
    let s1 := s.setPnmQ m { q with ending := q.ending.filter (fun d => d.id != c.id) }
    if p.status != stOK then
      let r := if m < 64 then s1.homeRegion (slotBase m) else 0
      s1.record (bookRegion r) (pgRegion r) clsRecord 2 aidPnm (c.word 7) c.rec' p.status (some c.parcel)
    else if c.stakeEn && !c.lost && s1.stakeAccess c.stake c.req.job.toNat == stOK then
      s1.srelLocal c.stake 1 (BitVec.ofNat 2 c.scope) agPnmEngine
    else s1

/-! ### The doorbell (R289) -/

/-- The module slot that a descriptor's D range names, when it decodes to a levelled MODULE port with EN at 1. -/
def State.pnmModule (s : State) (d : List Word) : Option Nat :=
  let g : BitVec 56 := BitVec.ofNat 56 ((d.getD 3 0).toNat % 2 ^ 56)
  if gfaHome g != s.ix then none
  else match placeOf (gfaOff g) with
    | .slot m => (match s.modPort m with
      | some p => if s.bit (rModPnmCtl p) 0 then some m else none
      | none => none)
    | _ => none

/-- A command takes its place in a module's queue, and its doorbell write completes; a full queue holds the write (R289). -/
def State.pnmQueue (s : State) (n : Nat) (p : Packet) : State :=
  let d := descOf p
  let m := (s.pnmModule d).getD 64
  let q := s.pnmQ m
  let c : PnmCmd := { id := BitVec.ofNat 16 q.nextId, parcel := n, desc := d, req := p }
  if m == 64 then
    ((s.setPnmQ m { q with nextId := q.nextId + 1 }).complete p stOK).pnmEnd m { c with status := stAccessFault, detail := 8 }
  else (s.setPnmQ m { q with nextId := q.nextId + 1, queue := q.queue ++ [c] }).complete p stOK

/-- The queue that a doorbell write needs has room. -/
def State.pnmRoom (s : State) (p : Packet) : Bool :=
  match s.pnmModule (descOf p) with
  | some m => decide ((s.pnmQ m).queue.length < 64)
  | none => true

/-- A write to the PNM doorbell with an opcode (R283, R289). -/
def State.pnmDoor (s : State) (op : Nat) (p0 : Packet) : State :=
  let p := { p0 with payload := leBytes 1 op ++ p0.payload.drop 1 }
  let s1 := s.tick aidPnm
  let st := s1.engineDoor p
  if st != stOK then s1.complete p st
  else match s1.parcelOf p.job.toNat with
    | none => s1.complete p stAccessFault
    | some n => if s1.pnmRoom p && !s1.doorWaits 3 p then s1.pnmQueue n p else s1.holdDoor 3 p

/-- PNM_ADD (R283). -/
def execPnmAdd (p : Packet) (s : State) : Host.Outcome State Fault Refusal := .next (s.pnmDoor 1 p)
/-- PNM_MUL (R283). -/
def execPnmMul (p : Packet) (s : State) : Host.Outcome State Fault Refusal := .next (s.pnmDoor 2 p)
/-- PNM_FMA (R283). -/
def execPnmFma (p : Packet) (s : State) : Host.Outcome State Fault Refusal := .next (s.pnmDoor 3 p)
/-- PNM_ACT (R283). -/
def execPnmAct (p : Packet) (s : State) : Host.Outcome State Fault Refusal := .next (s.pnmDoor 4 p)

/-! ### Acceptance (R287, R290–R292) -/

/-- The check of one range on this Tiolo: it lies in one VALID extent of the parcel with its right, and in no alias window (R60, R62, R287).
A range on another Tiolo is judged by its place alone. -/
def State.pnmRange (s : State) (c : PnmCmd) (r : Nat × Bool) : Status :=
  let a := r.1 % 2 ^ 46
  if r.1 / 2 ^ 46 != s.ix then stOK
  else match s.extAt a with
    | none => stAccessFault
    | some (_, x) =>
      let st := s.checkExt x a c.len c.req.job.toNat (if r.2 then .store else .load)
      let within := x.owner == c.parcel && decide (a + c.len ≤ x.base + 0x1000 * x.pages) && placeOf a != .aliased
      statusMin st (if within then stOK else stAccessFault)

/-- A range of the command lies in a coherent extent of this Tiolo. -/
def State.pnmCoh (s : State) (r : Nat × Bool) : Bool :=
  r.1 / 2 ^ 46 == s.ix && (match s.extAt (r.1 % 2 ^ 46) with
    | some (_, x) => x.coh
    | none => false)

/-- The causes that fail a command at acceptance: each with its STATUS and DETAIL (R287, R292). -/
def State.pnmCauses (s : State) (m : Nat) (c : PnmCmd) : List (Bool × Status × Nat) :=
  let a := pnmA c.desc
  let b := pnmB c.desc
  let d := pnmD c.desc
  let inSlot (x : Nat) (g : Nat) : Bool := decide (slotBase m ≤ x) && decide (x + c.len ≤ slotBase (m + 1)) && nbits g 55 46 == s.ix
  let aside (x : Nat) : Bool := x == d || !overlaps x c.len d c.len
  let dtOk := c.dt == 0 || c.dt == 1 || c.dt == 2 || c.dt == 8
  let rs := c.gfas.map (fun r => s.pnmRange c r)
  let tg : BitVec 56 := BitVec.ofNat 56 c.tableGfa
  [(c.op == 0 || 4 < c.op || (c.scope != 1 && c.scope != 2) || !dtOk || c.reservedSet || c.rec' % 16 != 0 || a % 128 != 0 || d % 128 != 0 ||
      (!c.isAct && b % 128 != 0) || c.len == 0 || c.len % 128 != 0 || decide (0x400_0000 < c.len) || (c.isAct && c.func > 4) ||
      (c.isAct && (c.tableGfa % 0x1000 != 0 || gfaHome tg != s.ix)), stUnsupported, 1),
   (!inSlot a (c.word 1) || !inSlot d (c.word 3) || a % 0x4_0000 != d % 0x4_0000 || !aside a ||
      (!c.isAct && (!inSlot b (c.word 2) || b % 0x4_0000 != d % 0x4_0000 || !aside b)), stUnsupported, 2),
   (decide (0x4_0000 < c.len) && c.gfas.any s.pnmCoh, stUnsupported, 3),
   ((c.isAct && (c.dt == 8 || c.word 2 % 2 ^ 56 != 0)) || c.scalarUnused || (!c.isAct && c.func != 0), stUnsupported, 4),
   (rs.contains stFatal, stFatal, 6), (rs.contains stRevoked, stRevoked, 6), (rs.contains stAccessFault, stAccessFault, 6),
   (!s.t1We, stAccessFault, 7), (!s.slotAvail m, stAccessFault, 8)]

/-- STATUS by R11, and DETAIL of the first cause that gives it (R292). -/
def State.pnmCheck (s : State) (m : Nat) (c : PnmCmd) : Status × Nat :=
  let l := (s.pnmCauses m c).filter (fun e => e.1)
  let st := statusOf (l.map (fun e => (true, e.2.1)))
  (st, ((l.find? (fun e => e.2.1 == st)).map (fun e => e.2.2)).getD 0)

def disjoint (a b : List Nat) : Bool := a.all (fun x => !b.contains x)

/-- The first queued command that may be accepted: disjoint from active commands, and from earlier queued ones (R291 step 1). -/
def pnmNext (active : List Nat) : List PnmCmd → List Nat → Option PnmCmd
  | [], _ => none
  | c :: rest, before =>
    if disjoint c.banks active && disjoint c.banks before then some c else pnmNext active rest (before ++ c.banks)

/-- The pages of the write-back cache that a command's ranges touch. -/
def State.pnmFrames (s : State) (c : PnmCmd) : KMap Frame :=
  s.tier.frames.filter (fun e => c.ranges.any (fun r => overlaps (0x1000 * e.1) 0x1000 r.1 c.len))

/-- The GFA lines of a range. -/
def State.rangeKeys (s : State) (a len : Nat) : List Nat := (linesOf a len).map (fun l => s.lineKey (128 * l))

/-- A line of this Tiolo lies in a range of the command. -/
def State.pnmTouches (s : State) (c : PnmCmd) (k : Nat) : Bool :=
  keyHome k == s.ix && c.ranges.any (fun r => overlaps (keyOff k) 128 r.1 c.len)

/-- An earlier request to the ranges has not completed at the module: a busy line, a queued or a held request (R291 step 3). -/
def State.pnmBusy (s : State) (n : Nat) (c : PnmCmd) : Bool :=
  (s.cadSlice n).txns.any (fun t => t.lines.any (s.pnmTouches c)) ||
  (s.cadSlice n).conflictQ.any (fun e => (s.queuedLines e).any (s.pnmTouches c)) ||
  s.tier.heldStores.any (fun h => c.ranges.any (fun r => overlaps h.1 (max 1 h.2.len) r.1 c.len))

/-- The owner of a coherent operand line is fetched with SNF; a holder recorded in E may have changed to M silently (R71, R291 step 3). -/
def State.pnmFetch (s : State) (n k : Nat) : State :=
  let e := s.entry n k
  let hs : List (Holder × Nat) :=
    if e.gstate == GState.m then [(Holder.tiolo e.gowner, opSNF)]
    else match e.owner with
      | some a => [(Holder.agent a, opSNF)]
      | none => []
  if hs.isEmpty then s
  else
    let t : Txn := { lines := [k], kind := .fetch, req := {}, reply := false }
    (s.sendSnoops n k hs).addTxn n (t.waitFor k hs)

/-- The coherent lines of the ranges that a copy of or a request to exists at acceptance, and every line of D. -/
def State.pnmLinesToSweep (s : State) (n : Nat) (c : PnmCmd) : List Nat :=
  ((c.gfas.filter s.pnmCoh).flatMap (fun r => (s.rangeKeys (r.1 % 2 ^ 46) c.len).filter (fun k =>
    r.2 || (kget (s.cadSlice n).entries k).isSome || s.busyLine n k || s.queuedBefore n [k]))).eraseDups

/-- One line of the sweep, unless a request that came before still holds it: on D every copy goes, replicas first, elsewhere the owner is
fetched; the lines that are still to do are returned (R291 step 3). -/
def State.pnmSweepLine (s : State) (n : Nat) (c : PnmCmd) (k : Nat) : State × List Nat :=
  if s.busyLine n k || s.queuedBefore n [k] then (s, [k])
  else if !overlaps (keyOff k) 128 (pnmD c.desc) c.len then (s.pnmFetch n k, [])
  else if (kget (s.cadSlice n).replTable (keyPage k)).isSome then (s.startSpi n (keyPage k), [k])
  else (s.startRecall n k, [])

/-- The coherent part of the preparation, as far as it can go now (R291 step 3). -/
def State.pnmSweep (s : State) (n m : Nat) (c : PnmCmd) : State :=
  let r := c.todo.foldl (fun (a : State × List Nat) k =>
    let b := a.1.pnmSweepLine n c k
    (b.1, a.2 ++ b.2)) (s, [])
  let q := r.1.pnmQ m
  r.1.setPnmQ m { q with active := q.active.map (fun d => if d.id == c.id then { d with todo := r.2 } else d) }

/-- Frames over the ranges: dirty ones are written back, frames over D are dropped (R168, R291 step 3). -/
def State.pnmCache (s : State) (m : Nat) (c : PnmCmd) : State :=
  (s.pnmFrames c).foldl (fun s e =>
    let onD := overlaps (0x1000 * e.1) 0x1000 (pnmD c.desc) c.len
    let s1 := if e.2.dirty && !e.2.cleaning then (s.startWriteBack e.1).pnmCount m 6 else s
    match kget s1.tier.frames e.1 with
    | some f => if !onD || f.filling then s1 else if f.dirty || f.cleaning then s1.setFrame e.1 { f with evict := true } else s1.dropFrame e.1
    | none => s1) s

/-- The preparation has ended: what came before has completed, no holder is left to reach, no frame over the ranges holds data of its
own, and the table is there (R291 step 3). -/
def State.pnmPrepared (s : State) (n : Nat) (c : PnmCmd) : Bool :=
  c.todo.isEmpty && !s.pnmBusy n c && !(c.isAct && c.table.isNone) &&
  (s.pnmFrames c).all (fun e => !e.2.dirty && !e.2.cleaning && !e.2.evict && (!e.2.filling || e.2.waiters.isEmpty) &&
    !overlaps (0x1000 * e.1) 0x1000 (pnmD c.desc) c.len)

/-- The preparation of a command goes as far as it can. -/
def State.pnmPrepare (s : State) (n m : Nat) (c : PnmCmd) : State := (s.pnmCache m c).pnmSweep n m c

/-- The read of the activation table, uncached (R291 step 3). -/
def State.pnmTable (s : State) (m : Nat) (c : PnmCmd) : State :=
  if !c.isAct then s
  else
    let g := BitVec.ofNat 56 c.tableGfa
    s.issue { opcode := BitVec.ofNat 8 opRDN, len := 0x1000, tid := BitVec.ofNat 16 (s.freeTid agPnmEngine), job := c.req.job, gfa := g,
              dst := BitVec.ofNat 17 (gfaHome g * 128), src := BitVec.ofNat 10 s.ix, agent := agPnmEngine } (.pnm m c.id.toNat)

/-- PNM_ACCEPTANCE: the next command of a module is checked by the home slice; it fails, or its ranges become active and its
preparation starts (R291 steps 1–3). -/
def State.pnmAccept (s : State) (m : Nat) : State :=
  let q := s.pnmQ m
  let held := match s.slotPort m with
    | some p => s.bit (rModPnmCtl p) 1
    | none => false
  match pnmNext (q.active.flatMap PnmCmd.banks) q.queue [] with
  | none => s
  | some c =>
    let n := s.homeRegion (slotBase m)
    if held || 8 ≤ q.active.length then s
    else
      let r := s.pnmCheck m c
      let s0 := s.tick (aidCad n)
      if r.1 != stOK then (s0.count pgTl 15 (if r.2 == 7 then 1 else 0)).pnmEnd m { c with status := r.1, detail := r.2 }
      else
        let c1 := { c with todo := s0.pnmLinesToSweep n c }
        let s1 := (s0.pnmCount m 0).setPnmQ m { q with queue := q.queue.filter (fun d => d.id != c.id), active := q.active ++ [c1] }
        (s1.pnmPrepare n m c1).pnmTable m c1

def execPnmAcceptance (m : SlotIx) (s : State) : Host.Outcome State Fault Refusal := .next (s.pnmAccept m)

/-- The table's completion: kept, or its status taken (R291 step 3, R292). -/
def State.pnmTableRead (s : State) (m id : Nat) (p : Packet) : State :=
  let q := s.pnmQ m
  let f (c : PnmCmd) : PnmCmd :=
    if c.id.toNat == id then
      (if p.status == stOK then { c with table := some (slice p.payload 0 0x1000) } else { c with table := some [], status := p.status, detail := 11 })
    else c
  s.setPnmQ m { q with active := q.active.map f }

/-! ### What the bank units compute (R283–R286) -/

/-- Fields of entry k of an activation table (R285). -/
def actBreak (t : List Byte) (k : Nat) : Nat := leNat (slice t (16 * k) 4)
def actSlope (t : List Byte) (k : Nat) : Nat := leNat (slice t (16 * k + 4) 4)
def actIcpt (t : List Byte) (k : Nat) : Nat := leNat (slice t (16 * k + 8) 4)
def actRsvd (t : List Byte) (k : Nat) : Nat := leNat (slice t (16 * k + 12) 4)

def fp32Finite (c : Nat) : Bool :=
  match fmtFP32.decode c with
  | .fin _ _ _ => true
  | _ => false

/-- a < b, for values that are not NaN. -/
def Fp.lt (a b : Fp) : Bool := a.le b && !b.le a

/-- A valid activation table (R285). -/
def actValid (t : List Byte) : Bool :=
  actBreak t 0 == 0xFF80_0000 &&
  (List.range 256).all (fun k => fp32Finite (actSlope t k) && fp32Finite (actIcpt t k) && actRsvd t k == 0 &&
    (k == 0 || (fp32Finite (actBreak t k) && (fmtFP32.decode (actBreak t (k - 1))).lt (fmtFP32.decode (actBreak t k)))))

/-- One element of ACT: the result code and its flags (R286). -/
def actElem (t : List Byte) (f : Fmt) (c : Nat) : Nat × Nat :=
  let x := f.decode c
  if x.isNan then (f.nanCode, flNV)
  else
    let k := ((List.range 256).filter (fun k => (fmtFP32.decode (actBreak t k)).le x)).getLastD 0
    let sl := fmtFP32.decode (actSlope t k)
    let ic := fmtFP32.decode (actIcpt t k)
    if x.isInf then (if sl.isZero then f.encode ic else f.encode (sl.mul x)) else f.encode ((sl.mul x).add ic)

/-- The scalar's code in the command's type (R290). -/
def PnmCmd.scalarCode (c : PnmCmd) : Nat :=
  if c.dt == 0 then c.scalar else if c.dt == 8 then c.scalar % 2 ^ 8 else c.scalar % 2 ^ 16

/-- One result element from its operand elements (R283, R284, R286). -/
def PnmCmd.elem (c : PnmCmd) (a b : Nat) : Nat × Nat :=
  match c.op with
  | 1 => elemOp .add c.dt true false false false a b 0
  | 2 => elemOp .mul c.dt true false false false a b 0
  | 3 => elemOp .fma c.dt true false false false a c.scalarCode b
  | _ => match fpFmt c.dt with
    | some f => actElem (c.table.getD []) f a
    | none => (0, 0)

/-- The flags and result bytes of one line. -/
def PnmCmd.line (c : PnmCmd) (a b : List Byte) : List Byte × Nat :=
  let w := elemBits c.dt / 8
  let r := (List.range (128 / w)).map (fun i => c.elem (leNat (slice a (w * i) w)) (leNat (slice b (w * i) w)))
  (r.flatMap (fun e => leBytes w e.1), r.foldl (fun f e => f ||| e.2) 0)

/-- One result line: computed in place of the line at the same position of D, poisoned when an operand line is (R298 PNM result). -/
def State.pnmLine (s : State) (c : PnmCmd) (i : Nat) : State × Nat × Nat :=
  let a := pnmA c.desc + 128 * i
  let b := pnmB c.desc + 128 * i
  let d := (pnmD c.desc + 128 * i) / 128
  let bad := s.poisoned a || (!c.isAct && s.poisoned b)
  let r := c.line (memRead s.mem.cells a 128) (if c.isAct then [] else memRead s.mem.cells b 128)
  let s1 := (s.squash (fun leg => legReads leg (128 * d))).curePoison d
  let s2 : State := { s1 with mem := { s1.mem with cells := memWrite s1.mem.cells (128 * d) r.1, inplace := insertNew s1.mem.inplace d } }
  if bad then (s2.poisonLine d, 0, 1) else (s2, r.2, 0)

/-- Result lines `i` and on, `n` of them: the flags gathered and the lines written poisoned (R284, R292). -/
def State.pnmLines (s : State) (c : PnmCmd) (i : Nat) : Nat → State × Nat × Nat
  | 0 => (s, 0, 0)
  | n + 1 =>
    let a := s.pnmLine c i
    let b := a.1.pnmLines c (i + 1) n
    (b.1, a.2.1 ||| b.2.1, a.2.2 + b.2.2)

/-! ### Dispatch and the module's answer (R291 steps 4–6, R293) -/

/-- The 48 B payload of PNC (R293). -/
def PnmCmd.pnc (c : PnmCmd) : List Byte :=
  let mo (a : Nat) : Nat := a % slotSize % 2 ^ 38
  leBytes 8 (c.op % 16 + c.dt * 2 ^ 4 + c.func * 2 ^ 8 + c.id.toNat * 2 ^ 16 + c.scalar * 2 ^ 32) ++
  leBytes 8 (c.banks.foldl (fun w b => w ||| 2 ^ b) 0) ++
  leBytes 8 (mo (pnmA c.desc)) ++ leBytes 8 (if c.isAct then 0 else mo (pnmB c.desc)) ++ leBytes 8 (mo (pnmD c.desc)) ++ leBytes 8 c.len

/-- The tail of a packet that the Tiolo sends to a module: CHECK of each line, when its payload is whole lines (R345). -/
def tailOf (payload : List Byte) : List Word :=
  if payload.length % 128 != 0 then []
  else (List.range (payload.length / 128)).map (fun i => (lineCheck (slice payload (128 * i) 128) (Config.tableOffset i)).setWidth 64)

/-- A packet to the module behind a port. -/
def State.toModule (s : State) (m p op cls : Nat) (id : BitVec 16) (payload : List Byte) : State :=
  s.send { opcode := BitVec.ofNat 8 op, cls := BitVec.ofNat 3 cls, len := payload.length, tid := id, dst := BitVec.ofNat 17 (s.ix * 128 + p),
           src := BitVec.ofNat 10 s.ix, agent := agPnmUnit m, payload := payload, tail := tailOf payload }

/-- PNM_DISPATCH: preparation has ended; the table, then the command go to the module, and its bank units compute (R291 steps 4, 5). While
it has not ended, it goes on (log 195). -/
def State.pnmDispatch (s : State) (m id : Nat) : State :=
  let q := s.pnmQ m
  let n := s.homeRegion (slotBase m)
  match q.active.find? (fun c => c.id.toNat == id && !c.dispatched), s.modPort m with
  | some c, some p =>
    if !s.pnmPrepared n c then s.pnmPrepare n m c
    else if c.isAct && c.detail == 11 then (s.pnmEnd m c).pnmRelease n
    else if c.isAct && !actValid (c.table.getD []) then (s.pnmEnd m { c with status := stUnsupported, detail := 5 }).pnmRelease n
    else
      let s1 := if c.isAct then (s.toModule m p opPNT 3 c.id (c.table.getD [])).pnmCount m 7 else s
      let s2 := s1.toModule m p opPNC 0 c.id c.pnc
      let r := s2.pnmLines c 0 (c.len / 128)
      let c1 := { c with dispatched := true, num := r.2.1, poisoned := r.2.2 }
      ((r.1.setPnmQ m { q with active := q.active.map (fun d => if d.id == c.id then c1 else d) }).pnmCount m 3 (c.len / 128)).pnmCount m 4 r.2.2
  | _, _ => s

def execPnmDispatch (m : SlotIx) (cmdid : BitVec 16) (s : State) : Host.Outcome State Fault Refusal := .next (s.pnmDispatch m cmdid.toNat)

/-- PNA: the answer is ordered; the ranges stop being active, held requests are released, the record follows (R291 steps 6, 7, R293). -/
def State.pna (s : State) (p : Packet) : State :=
  let m := p.agent.toNat % 64
  let w := wordAt p.payload 0
  let q := s.pnmQ m
  let n := s.homeRegion (slotBase m)
  match q.active.find? (fun c => c.id.toNat == nbits w 15 0 && c.dispatched) with
  | none => s
  | some c =>
    let poi := nbits w 19 16 == stPoison.toNat
    let c1 := { c with status := statusMin c.status (if poi then stPoison else stOK),
                       detail := if c.status == stOK && poi then 10 else c.detail, num := nbits w 23 20, poisoned := nbits w 63 32 }
    ((s.tick (aidCad n)).pnmEnd m c1).pnmRelease n

def execPna (p : Packet) (s : State) : Host.Outcome State Fault Refusal := .next (s.pna p)

/-! ### Losses (R169, R301) -/

/-- The module is lost: active commands end with POISON and DETAIL 0x09 and no release; held requests complete as R48 says (R301). -/
def State.pnmModuleLost (s : State) (m : Nat) : State :=
  let n := s.homeRegion (slotBase m)
  let q := s.pnmQ m
  let held := (s.cadSlice n).holdQ.filter (fun e => placeOf e.1 == .slot m)
  let s1 := s.modSlice n (fun c => { c with holdQ := c.holdQ.filter (fun e => placeOf e.1 != .slot m) })
  let s2 := held.foldl (fun s e => s.waiterLost e.2) s1
  q.active.foldl (fun s c => s.pnmEnd m { c with status := statusMin c.status stPoison, detail := if c.status == stOK then 9 else c.detail,
                                                 lost := true }) s2

/-- The home stack of a region is lost: accepted commands on the slots homed there carry FATAL (R301). -/
def State.pnmStackLost (s : State) (r : Nat) : State :=
  (List.range 64).foldl (fun s m =>
    let q := s.pnmQ m
    if q.active.isEmpty || s.homeRegion (slotBase m) != r then s
    else s.setPnmQ m { q with active := q.active.map (fun c => { c with status := stFatal, detail := 6 }) }) s

/-! ### Module keys (R300) -/

/-- KEYP is sent: a fresh key and the next generation; the module's lines become zero, and the slot is not available until the
initialisation ends (R48, R300). After a failed self-test no KEYP is sent (R481). -/
def State.sendKeyp (s : State) (p : Nat) : State :=
  if s.bit rSecStat 6 then s else
  let m := s.fld (rPortRole p) 13 8
  let d := s.sec.drawn
  let gen := (s.fld (rModKeyStat p) 63 32 + 1) % 2 ^ 32
  let key := leBytes 32 (Config.drbg d).toNat ++ leBytes 32 (Config.drbg (d + 1)).toNat
  let s1 : State := { s with sec := { s.sec with drawn := d + 2 } }
  let s2 := (s1.setReg (rModKeyStat p) (2 + gen * 2 ^ 32)).zeroMem (slotBase m) (slotBase (m + 1))
  (s2.setSlot m false (s2.slotLost m)).toModule m p opKEYP 5 0 (key ++ leBytes 4 gen)

/-- MODULE_INIT_DONE: the module is keyed and its slot is available (R48, R300). -/
def State.moduleInitDone (s : State) (p : Nat) : State :=
  if s.portRole p == roleModule && s.portUp p && s.bit (rModKeyStat p) 1 then
    ((s.setBit (rModKeyStat p) 1 false).setBit (rModKeyStat p) 0 true).setSlot (s.fld (rPortRole p) 13 8) true false
  else s

end Sys2Proof.Machine
end

