-- ==== Sys2Proof/Machine/Tiles.lean ====
section
/-!
DEFINITION. Compute tiles and their contexts (chapter 6): registers of a context, the issue arbiter, faults, requests of a context and
the tile line cache, descriptors, completion, kill, zeroing, the tile's registers.
-/
namespace Sys2Proof.Machine

/-! ### Access -/

def State.tile (s : State) (t : Nat) : Tile := kgetD s.tiles t {}
def State.setTile (s : State) (t : Nat) (x : Tile) : State := { s with tiles := kset s.tiles t x }
def State.ctx (s : State) (t c : Nat) : Ctx := kgetD (s.tile t).ctxs c {}
def State.setCtx (s : State) (t c : Nat) (x : Ctx) : State := s.setTile t { s.tile t with ctxs := kset (s.tile t).ctxs c x }

/-- AID of a tile's context issue arbiter, and of its doorbell arbiter (R175). -/
def aidIssue (t : Nat) : Nat := aidCell (t / 64) (t / 16 % 4) (0x100 + t % 16)
def aidDoor (t : Nat) : Nat := aidBlock (t / 16) (0x10 + t % 16)

/-- KERNEL and STAGING of TILE_SRAM in bytes (R177). -/
def State.kernelEnd (s : State) (t : Nat) : Nat := s.fld (rTileSram t) 4 0 * 0x4000
def State.stageBase (s : State) (t : Nat) : Nat := (32 - s.fld (rTileSram t) 12 8) * 0x4000

/-- Bytes [a, a + n) lie in the data area (R179). -/
def State.inData (s : State) (t a n : Nat) : Bool := s.kernelEnd t ≤ a && a + n ≤ s.stageBase t

/-- A context that is reserved by a binding (R196). -/
def Ctx.isBound (x : Ctx) : Bool := x.bound.isSome

/-- Bytes are written to a tile's SRAM: the words written whole hold no error any more (R176). -/
def State.sramWrite (s : State) (t a : Nat) (bs : List Byte) : State :=
  let x := s.tile t
  let fresh (w : Nat) : Bool := decide (a ≤ 8 * w) && decide (8 * w + 8 ≤ a + bs.length)
  s.setTile t { x with sram := memWrite x.sram a bs, eccOne := x.eccOne.filter (fun w => !fresh w), eccBad := x.eccBad.filter (fun w => !fresh w) }

/-- The SRAM words that some spans of bytes touch. -/
def spanWords (l : List (Nat × Nat)) : List Nat := (l.flatMap (fun r => (List.range ((r.1 + max 1 r.2 - 1) / 8 - r.1 / 8 + 1)).map (fun i => r.1 / 8 + i))).eraseDups

/-- Some word among these has an error that cannot be corrected. -/
def Tile.badWords (x : Tile) (ws : List Nat) : Bool := ws.any x.eccBad.contains

/-- Words that are read: correctable errors are corrected in place and counted (R200). -/
def State.scrub (s : State) (t : Nat) (ws : List Nat) : State :=
  let x := s.tile t
  let n := (ws.filter x.eccOne.contains).length
  if n == 0 then s else (s.setTile t { x with eccOne := x.eccOne.filter (fun w => !ws.contains w) }).count (pgTile t) 12 n

/-- An armed injection makes this local read find an uncorrectable error (R200, R530). -/
def State.sramInject (s : State) (t c : Nat) : Option State :=
  if s.fld (rPgPerturb (pgTile t)) 7 3 == c then s.takeInject (pgTile t) 4 else none

/-- The tile is idle (R178). -/
def Tile.idle (x : Tile) : Bool := x.ctxs.all (fun c => c.2.state == .free) && x.queue.isEmpty && x.bindings.isEmpty

/-! ### Registers of a context (R181, R206) -/

def isV (r : Nat) : Bool := r < 0x20
def isS (r : Nat) : Bool := (0x20 ≤ r && r < 0x30) || (0x38 ≤ r && r < 0x40)
def isP (r : Nat) : Bool := 0x30 ≤ r && r < 0x38
def isA (r : Nat) : Bool := 0x38 ≤ r && r < 0x40

def Ctx.rv (x : Ctx) (r : Nat) : BitVec 1024 := kgetD x.v r 0
/-- A scalar or address register, by its specifier. -/
def Ctx.rs (x : Ctx) (r : Nat) : Word := if r < 0x30 then kgetD x.s (r - 0x20) 0 else kgetD x.a (r - 0x38) 0
def Ctx.rp (x : Ctx) (r : Nat) : BitVec 128 := kgetD x.p (r - 0x30) 0
def Ctx.wv (x : Ctx) (r : Nat) (v : BitVec 1024) : Ctx := { x with v := kset x.v r v }
def Ctx.ws (x : Ctx) (r : Nat) (v : Word) : Ctx :=
  if r < 0x30 then { x with s := kset x.s (r - 0x20) v } else { x with a := kset x.a (r - 0x38) v }
def Ctx.wp (x : Ctx) (r : Nat) (v : BitVec 128) : Ctx := { x with p := kset x.p (r - 0x30) v }

/-- Sets sticky flags of the context status word (R212). -/
def Ctx.flag (x : Ctx) (f : Nat) : Ctx := { x with csw := x.csw ||| BitVec.ofNat 64 f }

/-! ### The issue arbiter (R183–R185) -/

def Ctx.ready (x : Ctx) : Bool := x.state == .ready

/-- The first READY context of a level at or after a pointer, cyclically (R185). -/
def Tile.nextReady (x : Tile) (urgent : Bool) (from' : Nat) : Option Nat :=
  ((List.range 16).map (fun i => (from' + i) % 16)).find? (fun c =>
    match kget x.ctxs c with
    | some y => y.ready && y.isBound == urgent
    | none => false)

/-- The context that the issue arbiter chooses among the READY ones (R185). -/
def Tile.choice (x : Tile) : Option Nat :=
  match x.nextReady true x.rrUrgent with
  | some c => some c
  | none => x.nextReady false x.rrNormal

/-- The context that issues. -/
def Tile.running (x : Tile) : Option Nat := (x.ctxs.find? (fun c => c.2.state == .running)).map Prod.fst

/-- A context takes the issue slot: a context switch, counted also when the slot was idle or was its own before (R204, log 198). -/
def State.takeSlot (s : State) (t c : Nat) : State :=
  let x := s.tile t
  let y := s.ctx t c
  let x1 := if y.isBound then { x with rrUrgent := (c + 1) % 16 } else { x with rrNormal := (c + 1) % 16 }
  ((s.setTile t x1).setCtx t c { y with state := .running }).count (pgTile t) 2

/-- An urgent context that is READY pre-empts a normal one at its instruction boundary (R185). -/
def State.preempt (s : State) (t : Nat) : State :=
  let x := s.tile t
  match x.running, x.nextReady true x.rrUrgent with
  | some r, some u =>
    if (s.ctx t r).isBound then s
    else ((s.setCtx t r { s.ctx t r with state := .ready }).count (pgTile t) 3).takeSlot t u
  | _, _ => s

/-- Context c is to issue its next instruction: it holds the slot, or the arbiter gives it the free slot now (R185). None: it is not its
turn. -/
def State.turn (s : State) (t c : Nat) : Option State :=
  let x := s.tile t
  let y := s.ctx t c
  if y.state == .running then some s
  else if y.state == .ready && x.choice == some c && x.running.isNone then some (s.takeSlot t c)
  else none

/-! ### Faults (R200) -/

def fltIllegal : BitVec 8 := 0x01
def fltPcRange : BitVec 8 := 0x02
def fltLocalRange : BitVec 8 := 0x03
def fltSramEcc : BitVec 8 := 0x04
def fltWatchdog : BitVec 8 := 0x05
def fltKilled : BitVec 8 := 0x06
def fltDescBad : BitVec 8 := 0x07
def fltAccRange : BitVec 8 := 0x08

/-- STATUS of a fault (R200). -/
def faultStatus (f : BitVec 8) : Status :=
  match f.toNat with
  | 0x01 => stUnsupported | 0x02 => stAccessFault | 0x03 => stAccessFault | 0x04 => stPoison | 0x05 => stTimeout | 0x06 => stRevoked
  | 0x07 => stUnsupported | 0x08 => stAccessFault | _ => stOK

/-- TAG of a context's descriptor (R191). -/
def Ctx.tag (x : Ctx) : Word := x.desc.getD 2 0

/-- The lanes of a context become free (R194 step 1). -/
def Tile.freeLanes (x : Tile) (c : Nat) : Tile :=
  { x with lanes := x.lanes.filter (fun l => l.2.owner != some c) }

/-- A context enters DRAIN; its lanes are freed (R194 step 1). -/
def State.enterDrain (s : State) (t c : Nat) : State :=
  let y := s.ctx t c
  let s1 := s.setCtx t c { y with state := .drain, lanes := [], slotWait := false, fencing := none }
  s1.setTile t ((s1.tile t).freeLanes c)

/-- A fault stops the context at its PC: recorded, latched in TILE_FAULT; a bound context's binding fails (R199, R200). -/
def State.ctxFault (s : State) (t c : Nat) (f : BitVec 8) : State :=
  let y := s.ctx t c
  let s1 := (s.setCtx t c { y with fault := f, faultPc := y.pc }).enterDrain t c
  let w := f.toNat + c * 2 ^ 8 + y.pc.toNat * 2 ^ 12 + y.tag.toNat % 2 ^ 32 * 2 ^ 32
  let s2 := (s1.setReg (rTileFault t) w).count (pgTile t) 9
  let s3 := s2.record (t / 16) (pgTile t) clsTile 2 (aidIssue t) (f.toNat + t * 2 ^ 8 + c * 2 ^ 16 + y.pc.toNat * 2 ^ 20 + y.tag.toNat * 2 ^ 64) 0
    (faultStatus f) (s.tileParcel t)
  match y.bound with
  | none => s3
  | some b =>
    let x := s3.tile t
    -- the stage that the binding serves fails with the fault's status (R199, R282)
    let job := ((kget x.bindings b).map Binding.job).getD 0
    let plan := ((kget x.bindings b).map Binding.plan).getD 0
    let stg := ((kget x.bindings b).map Binding.stage).getD 0
    let s4 := s3.setTile t { x with bindings := kdel x.bindings b }
    { s4 with coll := { s4.coll with plans := s4.coll.plans.map (fun p =>
        if p.job == job && p.plan == plan then { p with stages := p.stages.map (fun g =>
          if g.number == stg && g.binds.any (fun e => e.1 == t && e.2.1 == b) then
            { g with failed := kset g.failed t (statusMin (kgetD g.failed t 0) (faultStatus f)), binds := g.binds.filter (fun e => !(e.1 == t && e.2.1 == b)) }
          else g) }
        else p) } }

/-! ### Requests of a context (R186, R187, R343) -/

def tileLimit : Nat := 512
def ctxLimit : Nat := 64

/-- Requests of a context that count against its limit: an SREL counts while it fences (R186). -/
def Ctx.requests (x : Ctx) : Nat := x.outstanding.length + (if x.fencing.isSome then 1 else 0)

/-- Those of all contexts of a tile. -/
def Tile.requests (x : Tile) : Nat := x.ctxs.foldl (fun a c => a + c.2.requests) 0

/-- `k` more requests of context c fit (R186). -/
def State.slotsFor (s : State) (t c k : Nat) : Bool :=
  decide ((s.ctx t c).requests + k ≤ ctxLimit) && decide ((s.tile t).requests + k ≤ tileLimit)

/-- The least TID of a context that no outstanding request of it carries. -/
def Ctx.freeTid (x : Ctx) (c : Nat) : BitVec 16 :=
  let used := x.outstanding.map (fun o => o.tid.toNat)
  BitVec.ofNat 16 (((List.range 65).map (fun i => 128 * c + i)).find? (fun i => !used.contains i) |>.getD (128 * c))

/-- A request packet of a tile. -/
def tileReq (t : Nat) (op : Nat) (job tid : BitVec 16) (gfa : BitVec 56) (len : Nat) (payload : List Byte) (mask : Option (BitVec 128)) : Packet :=
  { opcode := BitVec.ofNat 8 op, cls := 0, len := len, tid := tid, job := job, gfa := gfa, dst := BitVec.ofNat 17 (gfaHome gfa * 128),
    agent := agTile t, mask := mask, payload := payload }

/-- A request of a context becomes outstanding, with the least TID free; a store or an atomic is counted for the fence (R186, R188). -/
def State.ctxOpen (s : State) (t c : Nat) (use : RemoteUse) (o0 : Outstanding) : State × Outstanding :=
  let y := s.ctx t c
  let o := { o0 with tid := y.freeTid c, use := use }
  let fence := match use with
    | .store d _ _ => kmod y.fence d (0, 0) (fun f => (f.1 + 1, f.2))
    | .atomic _ d => kmod y.fence d (0, 0) (fun f => (f.1 + 1, f.2))
    | _ => y.fence
  (s.setCtx t c { y with outstanding := y.outstanding ++ [o], fence := fence }, o)

/-- The packet of an outstanding request leaves, tracked (R446). -/
def State.ctxIssue (s : State) (t c op : Nat) (tid : BitVec 16) (gfa : BitVec 56) (len : Nat) (payload : List Byte)
    (mask : Option (BitVec 128)) : State :=
  s.issue { tileReq t op (s.ctx t c).job tid gfa len payload mask with src := BitVec.ofNat 10 s.ix } (.context t c)

/-- A context sends a request that is no access of the tile line cache. -/
def State.ctxSend (s : State) (t c op : Nat) (gfa : BitVec 56) (len : Nat) (payload : List Byte) (mask : Option (BitVec 128))
    (use : RemoteUse) : State :=
  let r := s.ctxOpen t c use {}
  r.1.ctxIssue t c op r.2.tid gfa len payload mask

/-- Whether a line lies in a coherent extent: this Tiolo's extents say so; another Tiolo's are not in its state, so there a free bit does
(R58, R187, log 199). -/
def State.coherentAt (s : State) (gfa : BitVec 56) : State × Bool :=
  if gfaHome gfa == s.ix then (s, match s.extAt (gfaOff gfa) with
    | some (_, x) => x.coh
    | none => false)
  else (s.took, s.freeNat 1 == 1)

/-- The worse of two statuses, OK the best (R11, R213). -/
def worse (a b : Status) : Status := if a == stOK then b else if b == stOK then a else statusMin a b

/-- Status x of a remote load or atomic updates RSTAT (R213). -/
def Ctx.rstat (x : Ctx) (st : Status) : Ctx :=
  if st == stOK then x
  else { x with csw := BitVec.ofNat 64 (nsetBits x.csw.toNat 11 8 (worse (BitVec.ofNat 4 (nbits x.csw.toNat 11 8)) st).toNat) }

/-- LSTAT and LFLAGS of the most recent completion (R212, R225). -/
def Ctx.lstat (x : Ctx) (st : Status) (fl : BitVec 3) : Ctx :=
  { x with csw := BitVec.ofNat 64 (nsetBits (nsetBits x.csw.toNat 15 12 st.toNat) 18 16 fl.toNat) }

/-! ### The tile line cache (R187) -/

/-- The lines of a set of the 512 KiB, 16-way cache: 256 sets by line number. -/
def tlcSet (l : KMap TlcLine) (k : Nat) : List (Nat × TlcLine) := l.filter (fun e => e.1 % 256 == k % 256)

/-- The least TID that no write-back of a block's tile line cache in flight carries. -/
def State.freeWbTid (s : State) (b : Nat) : BitVec 16 :=
  let used := s.recov.trackers.filterMap (fun x => match x.purpose with
    | .lineCache n _ _ => if n == b then some x.req.tid.toNat else none
    | _ => none)
  BitVec.ofNat 16 (0xF000 + ((List.range (used.length + 1)).find? (fun i => !used.contains (0xF000 + i))).getD 0)

/-- Puts a line in the cache of block b; a full set gives up a line, its data written back if dirty (R80, R187). -/
def State.tlcFill (s : State) (b k : Nat) (l : TlcLine) : State :=
  let cache := kgetD s.tlc b []
  let set := (tlcSet cache k).filter (fun e => e.2.state != 5)
  if (kget cache k).isSome || set.length < 16 then s.setTlc b k l
  else match set[s.freeNat 4 % set.length]? with
    | none => s.setTlc b k l
    | some (v, x) =>
      let s1 := s.took
      if x.state == 3 || x.state == 4 then
        let p := { tileReq (16 * b) opWBK 0 (s1.freeWbTid b) (keyGfa v) 128 x.data none with src := BitVec.ofNat 10 s.ix }
        ((s1.setTlc b v { x with state := 5 }).setTlc b k l).issue p (.lineCache b 0 0)
      else (s1.delTlc b v).setTlc b k l

/-- Merges the bytes that a mask selects into a line. -/
def mergeMask (old new : BitVec 1024) (mask : BitVec 128) : BitVec 1024 :=
  vofBytes (((vbytes old).zip (vbytes new)).zipIdx.map (fun e => if mask.getLsbD e.2 then e.1.2 else e.1.1))

/-- The block's tile line cache has failed: its agent is dead, and its accesses complete with POISON (R203). -/
def State.tlcFailed (s : State) (b : Nat) : Bool := s.tlcDown.contains b

/-! ### Accesses of the remote instructions (R187, R223–R225) -/

/-- A load's data reaches its register; a failed one brings the error value (R189, R225). -/
def Ctx.loaded (x : Ctx) (use : RemoteUse) (st : Status) (fl : BitVec 3) (data : List Byte) : Ctx :=
  let x1 := match use with
    | .loadV r => x.wv r (vofBytes (if st == stOK then slice data 0 128 else errorBytes 128))
    | .loadS r o => x.ws r (BitVec.ofNat 64 (if st == stOK then leNat (slice data (if data.length > 8 then o else 0) 8) else 2 ^ 64 - 1))
    | _ => x
  { x1.rstat st with gather := worse x1.gather st, gatherFlags := x1.gatherFlags ||| fl }

/-- The line under which the tile line cache keeps what an address reads: through an alias window of this Tiolo, the backing line; none
for the other windows, and for the alias windows of other Tiolos, which it reads and writes uncached (R53, R62, R187, log 199). -/
def State.cacheKey (s : State) (gfa : BitVec 56) : Option Nat :=
  match placeOf (gfaOff gfa) with
  | .t0 => some (gfa.toNat / 128)
  | .slot _ => some (gfa.toNat / 128)
  | .aliased =>
    if gfaHome gfa != s.ix then none
    else match s.extAt (gfaOff gfa) with
      | some (_, x) => some (s.lineKey ((s.ext x.visible).base + (gfaOff gfa - x.base)))
      | none => some (gfa.toNat / 128)
  | _ => none

/-- The first and the number of the bytes that a mask selects, when they are one run. -/
def maskRun (mask : BitVec 128) : Option (Nat × Nat) :=
  let on := (List.range 128).filter (fun i => mask.getLsbD i)
  let lo := on.headD 0
  if !on.isEmpty && mask == BitVec.ofNat 128 ((2 ^ on.length - 1) * 2 ^ lo) then some (lo, on.length) else none

/-- An uncached store: the bytes selected as one write where they are one run, else the line under its mask (R54, R223, R344). -/
def State.storeOut (s : State) (t c : Nat) (tid : BitVec 16) (gfa : BitVec 56) (mask : BitVec 128) (data : BitVec 1024) : State :=
  let g := gfa.toNat / 128 * 128
  match maskRun mask with
  | some (lo, n) => s.ctxIssue t c opWRN tid (BitVec.ofNat 56 (g + lo)) n (slice (vbytes data) lo n) none
  | none => s.ctxIssue t c opWRN tid (BitVec.ofNat 56 g) 128 (vbytes data) (some mask)

/-- A request of a context ends: it is no longer outstanding; its data reaches the registers, its status the fence (R188, R189, R225). After
a fault the data is discarded (R194). -/
def State.useEnds (s : State) (t c : Nat) (o : Outstanding) (st : Status) (fl : BitVec 3) (data : List Byte) : State :=
  let y := s.ctx t c
  let y0 := { y with outstanding := y.outstanding.filter (fun q => q.tid != o.tid) }
  let dead := y.state == .drain && y.fault != 0
  let fenced (d : Nat) : KMap (Nat × BitVec 4) := kmod y0.fence d (0, 0) (fun f => (f.1 - 1, worse f.2 st))
  match o.use with
  | .store d _ _ => s.setCtx t c { y0 with fence := fenced d }
  | .atomic r d =>
    let y1 : Ctx := { y0 with fence := fenced d }
    let v := if st == stOK then BitVec.ofNat 64 (leNat (slice data 0 8)) else BitVec.allOnes 64
    s.setCtx t c (if dead then y1 else { (y1.ws r v).rstat st with gather := st, gatherFlags := fl })
  | u => s.setCtx t c (if dead then y0 else y0.loaded u st fl data)

/-- The request that an access of the tile line cache needs. -/
def State.cacheAsk (s : State) (t c : Nat) (o : Outstanding) (op : Nat) : State :=
  let y := s.ctx t c
  (s.setCtx t c { y with outstanding := y.outstanding.map (fun q => if q.tid == o.tid then { q with sent := true } else q) }).ctxIssue
    t c op o.tid o.gfa (if op == opUPG then 0 else 128) [] none

/-- The block has a request for the line under way: another access to it waits for its end. -/
def State.tlcBusy (s : State) (b k : Nat) : Bool :=
  (s.tlcLine b k).any (fun l => l.state == 5) ||
  (List.range 16).any (fun i => (s.tile (16 * b + i)).ctxs.any (fun e =>
    e.2.outstanding.any (fun o => o.cached && o.sent && o.line == k)))

/-- What an access finds in the tile line cache: its data, the line to merge into, or the request that it needs (R187). -/
def State.tlcServe (s : State) (t c : Nat) (o : Outstanding) : State :=
  let b := t / 16
  if s.tlcBusy b o.line then s
  else match s.tlcLine b o.line, o.use with
    | some l, .store _ mask data =>
      if l.state == 2 || l.state == 3 then
        (s.setTlc b o.line { state := 3, data := vbytes (mergeMask (vofBytes l.data) data mask) }).useEnds t c o stOK 0 []
      else if l.state == 0 then (s.delTlc b o.line).cacheAsk t c o opRDO
      else s.cacheAsk t c o opUPG
    | none, .store _ _ _ => s.cacheAsk t c o opRDO
    | some l, _ => s.useEnds t c o stOK 0 l.data
    | none, _ => s.cacheAsk t c o opRDS

/-- One line, or 8 B, of a load: from the cache, with a fill, or past the cache (R187, R223). Each is one remote access issued (R204,
log 198). -/
def State.loadLine (s : State) (t c : Nat) (gfa : BitVec 56) (byp : Bool) (use : RemoteUse) : State :=
  let s1 := s.count (pgTile t) 5
  let len := match use with
    | .loadS _ _ => 8
    | _ => 128
  if s.tlcFailed (t / 16) then s1.setCtx t c ((s1.ctx t c).loaded use stPoison 0 [])
  else match s.cacheKey gfa with
    | none => s1.ctxSend t c opRDN gfa len [] none use
    | some k =>
      if byp then
        let r := s1.coherentAt gfa
        r.1.ctxSend t c (if r.2 then opRDU else opRDN) gfa len [] none use
      else
        let r := s1.ctxOpen t c use { cached := true, line := k, gfa := BitVec.ofNat 56 (gfa.toNat / 128 * 128), sent := false }
        r.1.tlcServe t c r.2

/-- One line of a store, its bytes under a mask (R187, R223). -/
def State.storeLineOf (s : State) (t c : Nat) (gfa : BitVec 56) (mask : BitVec 128) (data : BitVec 1024) : State :=
  let use := RemoteUse.store (gfaHome gfa) mask data
  let s1 := s.count (pgTile t) 5
  if s.tlcFailed (t / 16) then
    let y := s1.ctx t c
    s1.setCtx t c { y with fence := kmod y.fence (gfaHome gfa) (0, 0) (fun f => (f.1, worse f.2 stPoison)) }
  else
    let plain (s : State) : State :=
      let r := s.ctxOpen t c use {}
      r.1.storeOut t c r.2.tid gfa mask data
    match s.cacheKey gfa with
    | none => plain s1
    | some k =>
      let r := s1.coherentAt gfa
      if r.2 then
        let q := r.1.ctxOpen t c use { cached := true, line := k, gfa := BitVec.ofNat 56 (gfa.toNat / 128 * 128), sent := false }
        q.1.tlcServe t c q.2
      else plain (match r.1.tlcLine (t / 16) k with
        | some l => if l.state == 0 then r.1.delTlc (t / 16) k else r.1
        | none => r.1)

/-- The loads and atomics of a context that are outstanding. -/
def Ctx.awaiting (x : Ctx) : Bool := x.outstanding.any (fun o => match o.use with
  | .loadV _ => true
  | .loadS _ _ => true
  | .atomic _ _ => true
  | _ => false)

/-- A load or atomic has all its completions: LSTAT is set and the context is READY (R183, R225). -/
def State.accessEnds (s : State) (t c : Nat) : State :=
  let y := s.ctx t c
  if y.state == .waitRemote && !y.slotWait && !y.awaiting then
    s.setCtx t c { y.lstat y.gather y.gatherFlags with state := .ready, gather := 0, gatherFlags := 0 }
  else s

/-- The fence of a scope has ended: nothing that it covers is outstanding (R123, R127, R188). -/
def Ctx.fenceDone (x : Ctx) (ix : Nat) (scope : BitVec 2) : Bool :=
  x.fence.all (fun f => f.2.1 == 0 || (scope == 1 && f.1 != ix))

/-- The worst status of the requests that a fence covers (R128, R188). -/
def Ctx.fenceWorst (x : Ctx) (ix : Nat) (scope : BitVec 2) : Status :=
  (x.fence.filter (fun f => scope != 1 || f.1 == ix)).foldl (fun a f => worse a f.2.2) stOK

/-- An SREL whose fence has ended is sent, or completes locally with the fenced status (R128, R226). -/
def State.fenceEnds (s : State) (t c : Nat) : State :=
  let y := s.ctx t c
  match y.fencing with
  | none => s
  | some (spec, gfa, add, scope) =>
    if !y.fenceDone s.ix scope then s
    else if y.fenceWorst s.ix scope == stOK then
      (s.setCtx t c { y with fencing := none }).ctxSend t c opSREL gfa 16 (leBytes 8 add.toNat ++ leBytes 8 scope.toNat) none (.srel spec)
    else
      let y1 := ({ y with fencing := none } : Ctx).ws spec (BitVec.allOnes 64)
      s.setCtx t c { y1.lstat (y.fenceWorst s.ix scope) 0 with state := .ready }

/-- NC copies that an acquire's scope names leave the cache of block b (R123, R129, R187). -/
def State.acquireDiscard (s : State) (b : Nat) (scope : BitVec 2) : State :=
  if scope == 0 then s
  else { s with tlc := kset s.tlc b ((kgetD s.tlc b []).filter (fun e => !(e.2.state == 0 && (scope == 2 || keyHome e.1 == s.ix)))) }

/-! ### LOAD descriptors (R191, R193) -/

/-- Source GFA, length and destination of a LOAD descriptor. -/
def Ctx.loadSrc (x : Ctx) : Nat := (x.desc.getD 3 0).toNat % 2 ^ 56
def Ctx.loadLen (x : Ctx) : Nat := (x.desc.getD 4 0).toNat
def Ctx.loadDst (x : Ctx) : Nat := nbits (x.desc.getD 0 0).toNat 15 0 * 128

/-- Requests the next pages of a LOAD, up to the request limits (R49, R186, R193). -/
def State.loadMore (s : State) (t c : Nat) : Nat → State
  | 0 => s
  | n + 1 =>
    let y := s.ctx t c
    if y.loadNext < y.loadLen && s.slotsFor t c 1 then
      let a := y.loadSrc + y.loadNext
      let len := min (y.loadLen - y.loadNext) (0x1000 - a % 0x1000)
      let s1 := s.setCtx t c { y with loadNext := y.loadNext + len }
      ((s1.ctxSend t c opRDN (BitVec.ofNat 56 a) len [] none (.load (y.loadDst + y.loadNext))).count (pgTile t) 5).loadMore t c n
    else s

/-- A slot frees: contexts of the tile that found none become READY, and a LOAD that has bytes left to ask for goes on (R183, R186). -/
def State.slotFrees (s : State) (t : Nat) : State :=
  let x := s.tile t
  let s1 := s.setTile t { x with ctxs := x.ctxs.map (fun e =>
    if e.2.state == .waitRemote && e.2.slotWait then (e.1, { e.2 with state := .ready, slotWait := false }) else e) }
  ((x.ctxs.filter (fun e => e.2.isLoad && e.2.state == .waitRemote)).map Prod.fst).foldl (fun s c => s.loadMore t c 64) s1

/-- What follows the end of a request: its instruction may end, its fence too, and a slot is free (R183, R186, R188). -/
def State.ctxSettle (s : State) (t c : Nat) : State := ((s.accessEnds t c).fenceEnds t c).slotFrees t

/-- The accesses of a block that wait for a request for a line. -/
def State.tlcWaiting (s : State) (b k : Nat) : List (Nat × Nat × Outstanding) :=
  (List.range 16).flatMap (fun i => (s.tile (16 * b + i)).ctxs.flatMap (fun e =>
    (e.2.outstanding.filter (fun o => o.cached && !o.sent && o.line == k)).map (fun o => (16 * b + i, e.1, o))))

/-- A request for a line has ended: the accesses that waited for it look it up again. -/
def State.tlcReplay (s : State) (b k : Nat) : State :=
  (s.tlcWaiting b k).foldl (fun s w => (s.tlcServe w.1 w.2.1 w.2.2).ctxSettle w.1 w.2.1) s

/-! ### Completion of a context (R194, R195) -/

/-- SCOPE, STAKE_EN, STAKE and RECORD of a descriptor (R191). -/
def Ctx.scope (x : Ctx) : BitVec 2 := BitVec.ofNat 2 (nbits (x.desc.getD 0 0).toNat 25 24)
def Ctx.stakeEn (x : Ctx) : Bool := nbit (x.desc.getD 0 0).toNat 26
def Ctx.stakeNo (x : Ctx) : Nat := nbits (x.desc.getD 0 0).toNat 45 32
def Ctx.recordGfa (x : Ctx) : BitVec 56 := BitVec.ofNat 56 (x.desc.getD 1 0).toNat

/-- STATUS of the completion record (R195): of a LOAD, also the worst status of its reads (log 198). -/
def Ctx.endStatus (x : Ctx) (ix : Nat) : Status :=
  if x.fault != 0 then faultStatus x.fault else worse (x.fenceWorst ix x.scope) x.loadWorst

/-- The 16 B completion record (R195). -/
def Ctx.record (x : Ctx) (ix : Nat) (fl : BitVec 3) : List Byte :=
  leBytes 8 ((x.endStatus ix).toNat + fl.toNat * 16 + x.fault.toNat * 2 ^ 8 + x.faultPc.toNat * 2 ^ 16 +
    (if x.fault == 0 then x.result.toNat else 0) * 2 ^ 32) ++ leBytes 8 x.tag.toNat

/-- The context becomes FREE; every register of its next use starts at zero (R193, R194). -/
def State.ctxFree (s : State) (t c : Nat) : State :=
  let y := s.ctx t c
  let s1 := if y.desc.isEmpty || y.fault != 0 then s else s.count (pgTile t) 8
  let x := s1.tile t
  s1.setTile t { x with ctxs := kset x.ctxs c {}, loading := x.loading && !y.isLoad }

/-- CONTEXT_DRAIN_DONE: the outstanding requests have completed; the record is written, then the release follows (R194 steps 2–5). -/
def State.drainDone (s : State) (t c : Nat) : State :=
  let y := s.ctx t c
  if y.state == .drain && y.outstanding.isEmpty && !y.recorded then
    if y.desc.isEmpty then s.ctxFree t c
    else if !s.slotsFor t c 1 then s
    else (s.setCtx t c { y with recorded := true }).ctxSend t c opWRN y.recordGfa 16 (y.record s.ix (s.degradedFlag y.job.toNat)) none .record
  else s

def execContextDrainDone (t : TileIx) (c : CtxIx) (s : State) : Host.Outcome State Fault Refusal := .next (s.drainDone t c)

/-! ### Completions (R225) -/

/-- Where a completion's request stands: tile, context and position. -/
def tileOfPkt (p : Packet) : Option Nat := if 0x800 ≤ p.agent.toNat && p.agent.toNat < 0x900 then some (p.agent.toNat - 0x800) else none

/-- The line of a cached access is there: it enters the cache with its grant, or takes the bytes of the store (R78, R187). -/
def State.tlcTaken (s : State) (b : Nat) (o : Outstanding) (p : Packet) : State :=
  match o.use with
  | .store _ mask data =>
    let old := if p.payload.isEmpty then ((s.tlcLine b o.line).map (fun l => l.data)).getD [] else p.payload
    s.tlcFill b o.line { state := 3, data := vbytes (mergeMask (vofBytes (slice old 0 128)) data mask) }
  | _ => s.tlcFill b o.line { state := BitVec.ofNat 3 p.grant.toNat, data := slice p.payload 0 128 }

/-- A completion for an access of the tile line cache: in a non-coherent extent a store's bytes go to the home, and no copy stays (R187). -/
def State.cacheCompletes (s : State) (t c : Nat) (o : Outstanding) (p : Packet) : State :=
  let b := t / 16
  let st := if s.tlcFailed b then stPoison else p.status
  match o.use, st == stOK && p.grant == 0 with
  | .store _ mask data, true =>
    let y := s.ctx t c
    let s1 := s.setCtx t c { y with outstanding := y.outstanding.map (fun q => if q.tid == o.tid then { q with cached := false } else q) }
    ((s1.delTlc b o.line).storeOut t c o.tid p.gfa mask data).tlcReplay b o.line
  | _, _ =>
    let s1 := if st == stOK then s.tlcTaken b o p else s
    ((s1.useEnds t c o st p.flags p.payload).ctxSettle t c).tlcReplay b o.line

/-- A bound context acquires its step's input stake at HALL scope, and waits for it (R275). -/
def State.inputAcquire (s : State) (t c k : Nat) (v : Word) (w : Nat) : State :=
  (s.setCtx t c { s.ctx t c with state := .waitStake, input := none }).ctxSend t c opSACQ (BitVec.ofNat 56 (s.ix * 2 ^ 46 + stakeBase + 64 * k)) 16
    (leBytes 8 v.toNat ++ leBytes 8 (2 + w * 2 ^ 16)) none (.input k v w)

/-- That acquire ends: its status is kept for the start of the step; RETRY is answered by the same acquire again (R275, log 201). A context
that has been given up takes no notice. -/
def State.inputEnds (s : State) (t c k : Nat) (v : Word) (w : Nat) (st : Status) : State :=
  if (s.ctx t c).state != .waitStake then s.slotFrees t
  else if st == stRetry then s.inputAcquire t c k v w
  else
    let s1 := s.setCtx t c { s.ctx t c with state := .sleep, input := some st }
    (if st == stOK then s1.acquireDiscard (t / 16) 2 else s1).slotFrees t

/-- A completion of context c of tile t for its request o (R188, R194, R225, R226). -/
def State.ctxCompletes (s : State) (t c : Nat) (o : Outstanding) (p : Packet) : State :=
  let y := s.ctx t c
  let y0 := { y with outstanding := y.outstanding.filter (fun q => q.tid != o.tid) }
  let b := t / 16
  let dead := y.state == .drain && y.fault != 0
  let st := p.status
  if o.cached then s.cacheCompletes t c o p
  else match o.use with
  | .srel r =>
    let v : Word := BitVec.ofNat 64 (leNat (slice p.payload 0 8))
    let y1 := if dead then y0 else { (y0.ws r v).lstat st p.flags with state := .ready }
    (s.setCtx t c y1).slotFrees t
  | .sacq r scope =>
    let v : Word := BitVec.ofNat 64 (leNat (slice p.payload 0 8))
    let short := p.flags.getLsbD 0
    let y1 := if dead then y0 else
      let z := (y0.ws r v).lstat st p.flags
      { (if short then z.flag 64 else z) with state := .ready }
    let s1 := s.setCtx t c y1
    (if st == stOK && !dead then s1.acquireDiscard b scope else s1).slotFrees t
  | .load a =>
    if dead then (s.setCtx t c y0).slotFrees t
    else
      let s1 := s.sramWrite t a (if st == stOK then p.payload else errorBytes p.payload.length)
      let s2 := (s1.setCtx t c { y0 with loadWorst := worse y0.loadWorst st }).loadMore t c 64
      let z := s2.ctx t c
      (if z.outstanding.isEmpty && z.loadNext ≥ z.loadLen then s2.enterDrain t c else s2).slotFrees t
  | .record =>
    let s1 := s.setCtx t c y0
    if st != stOK then
      ((s1.record b (pgTile t) clsRecord 2 (aidIssue t) (y.tag.toNat + t * 2 ^ 64) y.recordGfa.toNat st (s.tileParcel t)).ctxFree t c).slotFrees t
    else if y.stakeEn && y.fault == 0 && y.endStatus s.ix == stOK then
      s1.ctxSend t c opSREL (BitVec.ofNat 56 (s.ix * 2 ^ 46 + stakeBase + 64 * y.stakeNo)) 16 (leBytes 8 1 ++ leBytes 8 y.scope.toNat) none .release
    else (s1.ctxFree t c).slotFrees t
  | .release => ((s.setCtx t c y0).ctxFree t c).slotFrees t
  | .input k v w => (s.setCtx t c y0).inputEnds t c k v w st
  | _ => (s.useEnds t c o st p.flags p.payload).ctxSettle t c

/-- REMOTE_COMPLETION: a completion reaches its context through its TID (R225, R343). -/
def State.remoteCompletion (s : State) (p : Packet) : State :=
  match tileOfPkt p with
  | none => s
  | some t =>
    let c := p.tid.toNat / 128
    match (s.ctx t c).outstanding.find? (fun o => o.tid == p.tid) with
    | none => s
    | some o => (s.dropTracker p).ctxCompletes t c o p

def execRemoteCompletion (p : Packet) (s : State) : Host.Outcome State Fault Refusal := .next (s.remoteCompletion p)

/-! ### Doorbell (R190, R191) -/

/-- A write to a tile's doorbell page: checked, then queued, or held for a full queue (R54, R190, R202). -/
def State.tileDoor (s : State) (t : Nat) (p : Packet) : State :=
  let s1 := s.tick (aidDoor t)
  let mine := match s.tileParcel t with
    | some n => s.binds n p.job.toNat
    | none => false
  let st := statusOf [(!mine, stAccessFault), (!s.bit (rTileCtl t) 0, stAccessFault), (s.bit (rTileStat t) 40, stAccessFault),
    ((p.opcode.toNat != opWRN && p.opcode.toNat != opWRI) || p.len != 64 || gfaOff p.gfa % 0x1000 != 0 || p.mask.isSome, stUnsupported)]
  if st != stOK then s1.complete p st
  else
    let x := s1.tile t
    if x.queue.length < 64 && !s1.tier.held.any (fun h => h.door == 4 + t) then
      (s1.setTile t { x with queue := x.queue ++ [((List.range 8).map (fun i => BitVec.ofNat 64 (wordAt p.payload i)), p)] }).complete p stOK
    else { s1 with tier := { s1.tier with held := s1.tier.held ++ [{ door := 4 + t, req := p }] } }

/-- RUN_DESCRIPTOR (R191). -/
def execRunDescriptor (t : TileIx) (p : Packet) (s : State) : Host.Outcome State Fault Refusal := .next (s.tileDoor t p)
/-- LOAD_KERNEL_DESCRIPTOR (R191). -/
def execLoadKernelDescriptor (t : TileIx) (p : Packet) (s : State) : Host.Outcome State Fault Refusal := .next (s.tileDoor t p)
/-- LOAD_DATA_DESCRIPTOR (R191). -/
def execLoadDataDescriptor (t : TileIx) (p : Packet) (s : State) : Host.Outcome State Fault Refusal := .next (s.tileDoor t p)

/-- The fault of a descriptor that is not run, if any (R191); bits that are reserved do not count (R6). -/
def State.descFault (s : State) (t : Nat) (d : List Word) : Option (BitVec 8) :=
  let w0 := (d.getD 0 0).toNat
  let w1 := (d.getD 1 0).toNat
  let kind := nbits w0 63 60
  let bad := kind > 2 || w1 % 16 != 0 || (nbits w0 25 24 != 1 && nbits w0 25 24 != 2) || (if kind == 0 then decide (nbits w0 20 16 > 16) else nbits w0 20 16 != 0)
  if bad then some fltDescBad
  else if kind == 0 then none
  else
    let src := (d.getD 3 0).toNat
    let len := (d.getD 4 0).toNat
    let dst := nbits w0 15 0 * 128
    if src % 128 != 0 || src ≥ 2 ^ 56 || len == 0 || len % 128 != 0 then some fltDescBad
    else
      let lo := if kind == 1 then 0 else s.kernelEnd t
      let hi := if kind == 1 then s.kernelEnd t else s.stageBase t
      if lo ≤ dst && dst + len ≤ hi then none else some fltLocalRange

/-- The FREE context that a descriptor takes: the lowest-numbered (R192, log 198). -/
def State.freeCtx (s : State) (t : Nat) : Option Nat := (List.range 16).find? (fun c => (s.ctx t c).state == .free)

/-- The unallocated lanes, ascending. -/
def State.freeLanes (s : State) (t : Nat) : List Nat := (List.range 16).filter (fun l => (kget (s.tile t).lanes l).isNone)

/-- Allocates lanes to a context, the lowest-numbered first, cleared (R193, R246). -/
def State.allocLanes (s : State) (t c : Nat) (ls : List Nat) : State :=
  let s1 := s.setTile t { s.tile t with lanes := ls.foldl (fun m l => kset m l { owner := some c }) (s.tile t).lanes }
  s1.setCtx t c { s1.ctx t c with lanes := ls }

/-- CONTEXT_START: the head descriptor starts when a context and its lanes are free (R192, R193), and the tile is not being zeroed or
passed on (R202). One that is not run is counted as started too (log 198). -/
def State.contextStart (s : State) (t : Nat) : State :=
  let x := s.tile t
  match x.queue, s.freeCtx t with
  | (d, p) :: rest, some c =>
    let w0 := (d.getD 0 0).toNat
    let flt := s.descFault t d
    let load := flt.isNone && nbits w0 63 60 != 0
    let lanes := if flt.isSome || load then 0 else nbits w0 20 16
    let earlier := x.ctxs.any (fun e => e.2.state != .free && !e.2.isBound)
    if s.bit (rTileCtl t) 1 || s.bit (rTileStat t) 40 || x.loading || (load && earlier) || (s.freeLanes t).length < lanes then s
    else
      let s1 := ((s.tick (aidDoor t)).setTile t { x with queue := rest, loading := load }).count (pgTile t) 7
      let y : Ctx := { desc := d, job := p.job, isLoad := load, fault := flt.getD 0 }
      match flt with
      | some f => ((s1.setCtx t c { y with state := .ready }).ctxFault t c f)
      | none =>
        if load then (s1.setCtx t c { y with state := .waitRemote }).loadMore t c 64
        else
          let sregs : KMap Word := [(0, d.getD 3 0), (1, d.getD 4 0), (2, d.getD 5 0), (3, d.getD 6 0), (4, d.getD 7 0),
            (15, BitVec.ofNat 64 (16 * t + c))]
          let y1 : Ctx := { y with state := .ready, pc := BitVec.ofNat 16 w0, s := sregs }
          (s1.setCtx t c y1).allocLanes t c ((s.freeLanes t).take lanes)
  | _, _ => s

def execContextStart (t : TileIx) (s : State) : Host.Outcome State Fault Refusal := .next (s.contextStart t)

/-! ### Quantum, watchdog, kill, zeroing (R185, R200–R203) -/

/-- QUANTUM_EXPIRY: the running context is switched out if another of its level is READY (R185). -/
def State.quantumExpiry (s : State) (t c : Nat) : State :=
  let y := s.ctx t c
  let other := (s.tile t).ctxs.any (fun e => e.1 != c && e.2.ready && e.2.isBound == y.isBound)
  if y.state == .running && other then (s.setCtx t c { y with state := .ready }).count (pgTile t) 4 else s

def execQuantumExpiry (t : TileIx) (c : CtxIx) (s : State) : Host.Outcome State Fault Refusal := .next (s.quantumExpiry t c)

/-- TILE_WATCHDOG_EXPIRY: a descriptor context over its limit faults; a limit of 0 disables it, bound contexts are exempt (R199, R200). -/
def State.watchdog (s : State) (t c : Nat) : State :=
  let y := s.ctx t c
  if s.fld (rTileWdog t) 31 0 != 0 && !y.isBound && y.state != .free && y.state != .drain then s.ctxFault t c fltWatchdog else s

def execTileWatchdogExpiry (t : TileIx) (c : CtxIx) (s : State) : Host.Outcome State Fault Refusal := .next (s.watchdog t c)

/-- Kills a context that holds work: it completes with fault KILLED (R201). -/
def State.killCtx (s : State) (t c : Nat) : State :=
  let y := s.ctx t c
  if y.state == .free || y.state == .drain then s else s.ctxFault t c fltKilled

/-- Kills every context of a tile (R202, R436). -/
def State.killTile (s : State) (t : Nat) : State := (List.range 16).foldl (fun s c => s.killCtx t c) s

/-- CONTEXT_KILL: a write of TILE_CTL.KILL (R201). -/
def State.contextKill (s : State) (t mask : Nat) : State :=
  s.cfgDo (rTileCtl t) (fun s => ((List.range 16).filter (nbit mask)).foldl (fun s c => s.killCtx t c) s)

def execContextKill (t : TileIx) (mask : BitVec 16) (s : State) : Host.Outcome State Fault Refusal := .next (s.contextKill t mask.toNat)

/-- Everything of a tile is cleared: SRAM, registers, lanes, queue, bindings (R202). -/
def State.clearTile (s : State) (t : Nat) : State := { s with tiles := kdel s.tiles t }

/-- TILE_ZERO: zeroing of an idle tile starts, and its doorbell refuses writes (R202). -/
def State.tileZero (s : State) (t : Nat) : State :=
  s.cfgDo (rTileCtl t) (fun s => if (s.tile t).idle && !s.bit (rTileStat t) 40 then (s.clearTile t).setBit (rTileStat t) 40 true else s)

def execTileZero (t : TileIx) (s : State) : Host.Outcome State Fault Refusal := .next (s.tileZero t)

/-- TILE_ZERO_DONE: ZERO_BUSY reads 0 (R202). -/
def execTileZeroDone (t : TileIx) (s : State) : Host.Outcome State Fault Refusal := .next (s.setBit (rTileStat t) 40 false)

/-- TILE_SRAM_WRITE: the areas change on an idle tile, within the limits of R177 (R178). -/
def State.tileSramWrite (s : State) (t : Nat) (v : Word) : State :=
  s.cfgDo (rTileSram t) (fun s =>
    let k := nbits v.toNat 4 0
    let g := nbits v.toNat 12 8
    if (s.tile t).idle && 1 ≤ k && k ≤ 31 && g ≤ 16 && k + g ≤ 31 then s.setReg (rTileSram t) (k + g * 2 ^ 8)
    else s.setBit (rTileSram t) 63 true)

def execTileSramWrite (t : TileIx) (v : Word) (s : State) : Host.Outcome State Fault Refusal := .next (s.tileSramWrite t v)

end Sys2Proof.Machine
end

