-- ==== Sys2Proof/Machine/Xcb.lean ====
section
/-!
DEFINITION. Exponent-coded BF16 (chapter 12): the block's checks and its decoding (R324–R329), the parse of a stream (R331, R332) and
the encoder's choice of a block's form (R335).
-/
namespace Sys2Proof.Machine

/-- The classes of damage (R328). -/
inductive XcbDamage where
  | header | code | length
  deriving DecidableEq, Repr

/-- Its number in XC_FIRST.CLASS. -/
def XcbDamage.num : XcbDamage → Nat
  | .header => 1
  | .code => 2
  | .length => 3

/-! ### The header (R324) -/

def xcbClen (bs : List Byte) : Nat := nbits (leNat (slice bs 0 2)) 12 0
def xcbCount (bs : List Byte) : Nat := nbits (leNat (slice bs 2 2)) 11 0
def xcbForm (bs : List Byte) : Bool := nbit (leNat (slice bs 2 2)) 12
/-- Dictionary entry k: EXP, LEN and the reserved bits. -/
def xcbDict (bs : List Byte) (k : Nat) : Nat := leNat (slice bs (8 + 2 * k) 2)
def xcbExp (bs : List Byte) (k : Nat) : Nat := nbits (xcbDict bs k) 7 0
def xcbLen (bs : List Byte) (k : Nat) : Nat := nbits (xcbDict bs k) 10 8

/-- CLEN lies in range and is a multiple of 8 (R324). -/
def clenOk (c : Nat) : Bool := 48 ≤ c && c ≤ 4136 && c % 8 == 0

/-- The Kraft sum of the used entries, in sixteenths (R325). -/
def kraft (lens : List Nat) : Nat := lens.foldl (fun a l => a + (if l == 0 then 0 else 16 / 2 ^ l)) 0

/-- No two used entries other than the escape share one EXP. -/
def expsDistinct (bs : List Byte) : Bool :=
  let used := (List.range 15).filter (fun k => xcbLen bs k != 0)
  used.all (fun k => (used.filter (fun j => xcbExp bs j == xcbExp bs k)).length == 1)

/-- The header class of R328. EXP of entry 15 must be zero (R324). -/
def xcbHeaderOk (bs : List Byte) : Bool :=
  let lens := (List.range 16).map (xcbLen bs)
  nbits (leNat (slice bs 0 2)) 15 13 == 0 && nbits (leNat (slice bs 2 2)) 15 13 == 0 && leNat (slice bs 4 4) == 0 &&
  1 ≤ xcbCount bs && xcbCount bs ≤ 2048 && clenOk (xcbClen bs) &&
  (List.range 16).all (fun k => nbits (xcbDict bs k) 15 11 == 0) && xcbExp bs 15 == 0 &&
  lens.all (· ≤ 4) && kraft lens ≤ 16 && expsDistinct bs &&
  (!xcbForm bs || (slice bs 8 32).all (· == 0))

/-! ### Codes (R325) -/

/-- The codes of one length: entry, length and code value, in ascending entry order; and the next code. -/
def codesOf (lens : List Nat) (len code : Nat) : List (Nat × Nat × Nat) × Nat :=
  lens.zipIdx.foldl (fun (acc : List (Nat × Nat × Nat) × Nat) (e : Nat × Nat) => if e.1 == len then (acc.1 ++ [(e.2, len, acc.2)], acc.2 + 1) else acc) ([], code)

/-- The canonical codes built from the LEN fields (R325). -/
def xcbCodes (lens : List Nat) : List (Nat × Nat × Nat) :=
  let c1 := codesOf lens 1 0
  let c2 := codesOf lens 2 (2 * c1.2)
  let c3 := codesOf lens 3 (2 * c2.2)
  let c4 := codesOf lens 4 (2 * c3.2)
  c1.1 ++ c2.1 ++ c3.1 ++ c4.1

/-! ### The bitstream (R326, R327) -/

/-- The bits of bytes, least significant first. -/
def bitsOf (bs : List Byte) : List Bool := (bs.map (fun b => (List.range 8).map (fun i => b.getLsbD i))).flatten

/-- The value of bits, the first one least significant. -/
def lsbNat : List Bool → Nat
  | [] => 0
  | b :: rest => (if b then 1 else 0) + 2 * lsbNat rest

/-- The value of bits, the first one most significant. -/
def msbNat (bs : List Bool) : Nat := bs.foldl (fun a b => 2 * a + (if b then 1 else 0)) 0

/-- Why the next code cannot be read, or its entry and length. -/
inductive CodeRead where
  | entry (k len : Nat)
  | undefined
  | short
  deriving DecidableEq, Repr

/-- Reads one code from the front of the bits. Bits that begin no code are undefined; those that end within a code fall short (R325, R328). -/
def readCode (codes : List (Nat × Nat × Nat)) (bits : List Bool) : CodeRead :=
  match codes.find? (fun c => decide (c.2.1 ≤ bits.length) && msbNat (bits.take c.2.1) == c.2.2) with
  | some c => .entry c.1 c.2.1
  | none =>
    if codes.any (fun c => decide (bits.length < c.2.1) && msbNat bits == c.2.2 / 2 ^ (c.2.1 - bits.length)) then .short else .undefined

/-- Decodes `n` elements of the coded form: their codes and the bits left (R326, R328). -/
def xcbElems (bs : List Byte) (codes : List (Nat × Nat × Nat)) : Nat → List Bool → Except XcbDamage (List Nat × List Bool)
  | 0, bits => .ok ([], bits)
  | n + 1, bits =>
    match readCode codes bits with
    | .undefined => .error .code
    | .short => .error .length
    | .entry k len =>
      let b1 := bits.drop len
      if b1.length < (if k == 15 then 16 else 8) then .error .length
      else
        let exp := if k == 15 then lsbNat (b1.take 8) else xcbExp bs k
        let b2 := if k == 15 then b1.drop 8 else b1
        let clash := k == 15 && (List.range 15).any (fun j => xcbLen bs j != 0 && xcbExp bs j == exp)
        if clash then .error .code
        else
          let sm := lsbNat (b2.take 8)
          match xcbElems bs codes n (b2.drop 8) with
          | .error d => .error d
          | .ok (es, rest) => .ok ((sm / 128 * 2 ^ 15 + exp * 128 + sm % 128) :: es, rest)

/-- The least coded length for B bits (R327). -/
def clenFor (b : Nat) : Nat := 8 * ceilDiv (40 + ceilDiv b 8) 8

/-- Decodes a block from its bytes, of which at least 40 are given and CLEN are read (R324–R329). -/
def xcbDecode (bs : List Byte) : Except XcbDamage (List Nat) :=
  if !xcbHeaderOk bs then .error .header
  else
    let n := xcbCount bs
    let bits := bitsOf (slice bs 40 (xcbClen bs - 40))
    let r : Except XcbDamage (List Nat × List Bool) :=
      if xcbForm bs then
        if bits.length < 16 * n then .error .length
        else .ok ((List.range n).map (fun i => leNat (slice bs (40 + 2 * i) 2)), bits.drop (16 * n))
      else xcbElems bs (xcbCodes ((List.range 16).map (xcbLen bs))) n bits
    match r with
    | .error d => .error d
    | .ok (es, rest) =>
      if xcbClen bs != clenFor (bits.length - rest.length) || rest.any id then .error .length else .ok es

/-- The 4 KiB a decoder delivers for one block: its elements, +0 beyond them; the error value for a damaged block (R329). -/
def xcbOutput (r : Except XcbDamage (List Nat)) : List Byte :=
  match r with
  | .error _ => errorBytesX 4096
  | .ok es => slice ((es.map (leBytes 2)).flatten) 0 4096
where
  errorBytesX (n : Nat) : List Byte := List.replicate n 0xFF

/-- One block of a stream: the bytes from its start on in the range, and whether each is readable with status OK. -/
structure XcbBlock where
  result : Except XcbDamage (List Nat)
  /-- The worst status of its lines when one is not OK (R330). -/
  status : BitVec 4 := 0

/-- Parses up to `n` blocks of a stream from its bytes (R331, R332): the result of each. After a block whose CLEN is unusable, or
that leaves the range, every block is damaged. -/
def xcbStream : Nat → List Byte → List (Except XcbDamage (List Nat))
  | 0, _ => []
  | n + 1, bs =>
    if bs.length < 40 || bs.length < xcbClen bs || !clenOk (xcbClen bs) then List.replicate (n + 1) (.error .header)
    else xcbDecode bs :: xcbStream n (bs.drop (xcbClen bs))

/-! ### The encoder (R335) -/

/-- Occurrences of each exponent among the elements, in ascending exponent order. -/
def expCounts (es : List Nat) : List (Nat × Nat) :=
  (List.range 256).filterMap (fun x =>
    let c := (es.filter (fun e => e / 128 % 256 == x)).length
    if c == 0 then none else some (x, c))

/-- Inserts by descending count, then ascending exponent. -/
def insertExp (a : Nat × Nat) : List (Nat × Nat) → List (Nat × Nat)
  | [] => [a]
  | b :: rest => if b.2 < a.2 || (b.2 == a.2 && a.1 < b.1) then a :: b :: rest else b :: insertExp a rest

/-- The exponents by descending count, then ascending exponent. -/
def sortedExps (es : List Nat) : List (Nat × Nat) := (expCounts es).foldr insertExp []

/-- The cheapest lengths of the entries from one on, for each Kraft budget 0–16 in sixteenths: bits and lengths. -/
abbrev LenTable := List (Option (Nat × List Nat))

/-- Adds one entry in front: its count, and 8 more bits per element for the escape; the smallest length wins a tie. -/
def lenStep (count extra : Nat) (t : LenTable) : LenTable :=
  (List.range 17).map (fun b =>
    if count == 0 then (t.getD b none).map (fun x => (x.1, 0 :: x.2))
    else [1, 2, 3, 4].foldl (fun (best : Option (Nat × List Nat)) l =>
      if b < 16 / 2 ^ l then best
      else match t.getD (b - 16 / 2 ^ l) none with
        | none => best
        | some x =>
          let c := x.1 + count * (l + extra)
          match best with
          | some y => if c < y.1 then some (c, l :: x.2) else best
          | none => some (c, l :: x.2)) none)

/-- The lengths that minimise B, lexicographically smallest in entry order, for 15 entry counts and the escape's. -/
def bestLens (counts : List Nat) (esc : Nat) : List Nat :=
  let t0 : LenTable := List.replicate 17 (some (0, []))
  let t1 := lenStep esc 8 t0
  let t := counts.foldr (fun c t => lenStep c 0 t) t1
  match t.getD 16 none with
  | some x => x.2
  | none => []

/-- A code's bits, most significant first. -/
def codeBits (len code : Nat) : List Bool := (List.range len).map (fun i => nbit code (len - 1 - i))

/-- The low `n` bits of a value, least significant first. -/
def lowBits (n v : Nat) : List Bool := (List.range n).map (fun i => nbit v i)

/-- Packs bits into bytes, zero-filled to `n` bytes. -/
def packBits : Nat → List Bool → List Byte
  | 0, _ => []
  | n + 1, bits => BitVec.ofNat 8 (lsbNat (bits.take 8)) :: packBits n (bits.drop 8)

/-- One element's bits in the coded form (R326). -/
def elemBitsOf (exps : List Nat) (codes : List (Nat × Nat × Nat)) (e : Nat) : List Bool :=
  let x := e / 128 % 256
  let sm := e / 2 ^ 15 * 128 + e % 128
  let k := (exps.findIdx? (· == x)).getD 15
  match codes.find? (fun c => c.1 == k) with
  | some c => codeBits c.2.1 c.2.2 ++ (if k == 15 then lowBits 8 x else []) ++ lowBits 8 sm
  | none => []

/-- The header bytes (R324). -/
def xcbHeader (clen count : Nat) (stored : Bool) (dict : List Nat) : List Byte :=
  leBytes 2 clen ++ leBytes 2 (count + (if stored then 4096 else 0)) ++ leBytes 4 0 ++ (dict.map (leBytes 2)).flatten

/-- Encodes one block of 1–2,048 elements: its bytes, and whether the stored form was taken (R335). -/
def xcbEncode (es : List Nat) : List Byte × Bool :=
  let top := (sortedExps es).take 15
  let exps := top.map Prod.fst
  let esc := es.length - (top.map Prod.snd).foldl (· + ·) 0
  let lens := bestLens ((List.range 15).map (fun k => (top.getD k (0, 0)).2)) esc
  let codes := xcbCodes lens
  let bits := (es.map (elemBitsOf exps codes)).flatten
  let clen := clenFor bits.length
  let stored := clenFor (16 * es.length)
  if stored ≤ clen then
    (xcbHeader stored es.length true (List.replicate 16 0) ++ slice ((es.map (leBytes 2)).flatten) 0 (stored - 40), true)
  else
    let dict := (List.range 16).map (fun k => exps.getD k 0 + lens.getD k 0 * 256)
    (xcbHeader clen es.length false dict ++ packBits (clen - 40) bits, false)

/-- Elements in groups of 2,048, the remainder last (R335). -/
def xcbGroups : Nat → List Nat → List (List Nat)
  | 0, _ => []
  | n + 1, es => es.take 2048 :: xcbGroups n (es.drop 2048)

end Sys2Proof.Machine
end

