-- ==== Sys2Proof/Machine/TileWord.lean ====
section
/-!
DEFINITION. The tile instruction word (R205–R208): its fields, the operand forms and formats that each opcode permits, fetching the word
at a context's PC, and how a context issues it.
-/
namespace Sys2Proof.Machine

/-- The fields of an instruction word (R205). -/
structure TWord where
  op : Nat
  fmt : Nat
  dst : Nat
  s1 : Nat
  s2 : Nat
  s3 : Nat
  dt : Nat
  imm : Nat
  deriving DecidableEq, Repr

/-- The fields of a 64-bit word (R205). -/
def twordOf (w : Nat) : TWord :=
  { op := nbits w 63 56, fmt := nbits w 55 52, dst := nbits w 51 46, s1 := nbits w 45 40, s2 := nbits w 39 34, s3 := nbits w 33 28,
    dt := nbits w 27 24, imm := nbits w 23 0 }

/-- The types of vector arithmetic (R214). -/
def arithDt (dt : Nat) : Bool := dt ≤ 4 || dt == 8 || dt == 9

/-- A predicate specifier: none, or P0–P7 (R210). -/
def predOk (r : Nat) : Bool := r == 0 || isP r

/-- Bits [hi:lo] of IMM are zero. -/
def TWord.zero (x : TWord) (hi lo : Nat) : Bool := nbits x.imm hi lo == 0

/-- The immediate of format RI fits its type (R215). -/
def TWord.immOk (x : TWord) : Bool :=
  if x.dt == 0 || x.dt == 9 then true else if elemBits x.dt == 16 then x.zero 23 16 else x.zero 23 8

/-- SRC2 of formats R, RS and RI (R207). -/
def TWord.src2Ok (x : TWord) : Bool := if x.fmt == 0 then isV x.s2 else if x.fmt == 1 then isS x.s2 else x.s2 == 0

/-- The modifiers of formats R and RS (R215). -/
def TWord.modsOk (x : TWord) (fma : Bool) : Bool :=
  if x.fmt == 2 then isV x.s1 && x.immOk
  else (fma || x.zero 2 2) && (isIntDt x.dt || x.zero 3 3) && (if nbit x.imm 4 then x.s1 == 0 else isV x.s1) && x.zero 7 5 &&
    (fma || x.zero 11 8) && x.zero 23 12

/-- A scalar operation with two sources (R227). -/
def TWord.scalar2Ok (x : TWord) : Bool :=
  x.fmt ≤ 2 && x.fmt != 1 && isS x.dst && isS x.s1 && x.s3 == 0 && x.dt == 0 && (if x.fmt == 0 then isS x.s2 && x.imm == 0 else x.s2 == 0)

/-- IMM of a local or remote memory access beyond OFFSET and POST is zero. -/
def TWord.memImmOk (x : TWord) : Bool := x.zero 23 17

/-- MX types convert only to and from FP32, BF16 and FP16 (R216). -/
def cvtTypesOk (src dst : Nat) : Bool :=
  src != dst && (match mxFmt src, mxFmt dst with
    | some _, some _ => false
    | some _, none => dst ≤ 2
    | none, some _ => src ≤ 2
    | none, none => arithDt src && arithDt dst)

/-- The word is legal (R208); WORD counts in raw reads alone, so a value 1-4 of it elsewhere is legal and has no effect (R217, log 198); `bound` is the context's binding: none, or whether it is of KERNEL kind. -/
def TWord.legal (x : TWord) (bound : Option Bool) : Bool :=
  match x.op with
  | 0x01 => x.fmt ≤ 2 && isV x.dst && x.src2Ok && predOk x.s3 && arithDt x.dt && x.modsOk false
  | 0x02 => x.fmt ≤ 2 && isV x.dst && x.src2Ok && predOk x.s3 && arithDt x.dt && x.modsOk false
  | 0x03 => x.fmt ≤ 2 && isV x.dst && x.src2Ok && isV x.s3 && arithDt x.dt && x.modsOk true
  | 0x04 => x.fmt ≤ 2 && isV x.dst && x.src2Ok && predOk x.s3 && arithDt x.dt && x.modsOk false
  | 0x05 => x.fmt ≤ 2 && isV x.dst && x.src2Ok && predOk x.s3 && arithDt x.dt && x.modsOk false
  | 0x06 =>
    let src := nbits x.imm 3 0
    x.fmt == 0 && isV x.dst && isV x.s1 && x.s2 == 0 && x.zero 23 7 && cvtTypesOk src x.dt && cvtPartOk src x.dt (nbits x.imm 6 4) &&
      (if (mxFmt src).isSome || (mxFmt x.dt).isSome then isS x.s3 else x.s3 == 0)
  | 0x08 =>
    x.fmt == 0 && x.dst == 0 && isV x.s1 && x.s2 == 0 && predOk x.s3 && x.dt ≤ 4 && x.zero 23 13 &&
      (if nbit x.imm 11 then x.zero 10 4 else decide (nbits x.imm 10 8 * 16 + nbits x.imm 7 4 < elemCount x.dt))
  | 0x09 =>
    x.fmt == 0 && x.s1 == 0 && x.s2 == 0 && x.s3 == 0 && x.zero 23 16 && nbits x.imm 15 13 ≤ 4 &&
      (if nbit x.imm 12 then isS x.dst && x.dt == 0 && x.zero 10 4
       else isV x.dst && x.dt ≤ 2 && decide (nbits x.imm 10 8 * 16 + nbits x.imm 7 4 < elemCount x.dt))
  | 0x0C => x.fmt ≤ 1 && isP x.dst && isV x.s1 && x.src2Ok && predOk x.s3 && arithDt x.dt && nbits x.imm 2 0 ≤ 6 && x.zero 23 3
  | 0x0D => x.fmt == 0 && isV x.dst && isV x.s1 && x.s2 == 0 && predOk x.s3 && arithDt x.dt && x.imm == 0
  | 0x0E =>
    x.fmt == 0 && isV x.dst && x.dst % 2 == 0 && isV x.s1 && isS x.s3 && (x.dt == 1 || x.dt == 2) && 1 ≤ nbits x.imm 6 0 &&
      nbits x.imm 6 0 ≤ 64 && (if nbit x.imm 7 then x.s2 == 0 else isV x.s2 && x.s2 % 2 == 0) && x.zero 23 12
  | 0x10 =>
    x.fmt == 3 && isV x.dst && isA x.s1 && x.s2 == 0 && predOk x.s3 && (x.dt == 0xA || (x.dt == 0 && x.zero 21 17)) && x.zero 23 22
  | 0x11 => x.fmt == 3 && x.dst == 0 && isA x.s1 && isV x.s2 && predOk x.s3 && x.dt == 0 && x.memImmOk
  | 0x12 =>
    x.fmt == 3 && isV x.dst && isA x.s1 && isV x.s2 && predOk x.s3 && (x.dt ≤ 2 || x.dt == 9) && x.zero 16 16 && x.memImmOk
  | 0x13 => x.fmt == 3 && isS x.dst && isA x.s1 && x.s2 == 0 && x.s3 == 0 && x.dt == 0 && x.memImmOk
  | 0x14 => x.fmt == 3 && x.dst == 0 && isA x.s1 && isS x.s2 && x.s3 == 0 && x.dt == 0 && x.memImmOk
  | 0x18 =>
    x.fmt == 3 && isA x.s1 && x.s2 == 0 && x.s3 == 0 && x.dt == 0 && x.zero 23 21 &&
      ((isV x.dst && x.dst + nbits x.imm 19 17 ≤ 0x1F) || (isS x.dst && x.zero 19 17))
  | 0x19 =>
    x.fmt == 3 && x.dst == 0 && isA x.s1 && x.dt == 0 && x.zero 23 20 &&
      ((isV x.s2 && x.s2 + nbits x.imm 19 17 ≤ 0x1F && predOk x.s3) || (isS x.s2 && x.zero 19 17 && x.s3 == 0))
  | 0x1A =>
    x.fmt == 3 && isS x.dst && isA x.s1 && isS x.s2 && isS x.s3 && x.dt == 0 && x.zero 16 16 && nbits x.imm 19 17 ≤ 6 && x.zero 20 20 &&
      x.zero 23 22
  | 0x1B =>
    x.fmt == 3 && isV x.dst && x.dst + nbits x.imm 19 17 ≤ 0x1F && isA x.s1 && isV x.s2 && x.s3 == 0 && x.dt == 0 && x.zero 16 16 &&
      x.zero 23 21
  | 0x20 =>
    x.fmt == 3 && isS x.dst && isA x.s1 && isS x.s2 && x.s3 == 0 && x.dt == 0 && nbits x.imm 1 0 ≤ 2 && x.zero 23 2
  | 0x21 =>
    x.fmt == 3 && isS x.dst && isA x.s1 && isS x.s2 && x.s3 == 0 && x.dt == 0 && nbits x.imm 1 0 ≤ 2 && x.zero 23 18
  | 0x30 => x.scalar2Ok | 0x31 => x.scalar2Ok | 0x32 => x.scalar2Ok | 0x33 => x.scalar2Ok | 0x34 => x.scalar2Ok | 0x35 => x.scalar2Ok
  | 0x36 => x.scalar2Ok | 0x37 => x.scalar2Ok | 0x38 => x.scalar2Ok | 0x39 => x.scalar2Ok | 0x3A => x.scalar2Ok
  | 0x3B => x.fmt == 0 && isS x.dst && isS x.s1 && isS x.s2 && x.s3 == 0 && x.dt == 0 && nbits x.imm 2 0 ≤ 5 && x.zero 23 3
  | 0x3C => x.fmt == 0 && isS x.dst && isS x.s1 && x.s2 == 0 && x.s3 == 0 && x.dt == 0 && x.imm == 0
  | 0x3D => x.fmt == 2 && isS x.dst && x.s1 == 0 && x.s2 == 0 && x.s3 == 0 && x.dt == 0
  | 0x3E => x.fmt == 2 && isS x.dst && x.s1 == 0 && x.s2 == 0 && x.s3 == 0 && x.dt == 0
  | 0x3F =>
    x.fmt == 0 && isS x.dst && isV x.s1 && x.s2 == 0 && x.s3 == 0 && arithDt x.dt && nbits x.imm 7 0 < elemCount x.dt && x.zero 23 8
  | 0x40 =>
    x.fmt == 0 && isV x.dst && isS x.s1 && x.s2 == 0 && x.s3 == 0 && arithDt x.dt && nbits x.imm 7 0 < elemCount x.dt && x.zero 23 8
  | 0x41 => x.fmt == 0 && isS x.dst && isP x.s1 && x.s2 == 0 && x.s3 == 0 && x.dt ≤ 9 && x.imm == 0
  | 0x42 => x.fmt == 0 && isP x.dst && isS x.s1 && x.s2 == 0 && x.s3 == 0 && x.dt ≤ 9 && x.imm == 0
  | 0x43 => x.fmt == 0 && isS x.dst && x.s1 == 0 && x.s2 == 0 && x.s3 == 0 && x.dt == 0 && x.imm == 0
  | 0x44 => x.fmt == 0 && x.dst == 0 && x.s1 == 0 && x.s2 == 0 && x.s3 == 0 && x.dt == 0 && x.zero 7 7 && x.zero 23 9
  | 0x45 => x.fmt == 0 && isS x.dst && x.s1 == 0 && x.s2 == 0 && x.s3 == 0 && x.dt == 0 && x.imm == 0
  | 0x50 =>
    x.fmt == 4 && x.dst == 0 && (isS x.s1 || (x.s1 == 0 && nbits x.imm 18 16 == 0)) && x.s2 == 0 && x.s3 == 0 && x.dt == 0 &&
      nbits x.imm 18 16 ≤ 4 && x.zero 23 19
  | 0x51 => x.fmt == 4 && x.dst == 0 && isS x.s1 && x.s2 == 0 && x.s3 == 0 && x.dt == 0 && x.zero 23 16
  | 0x52 => x.fmt == 0 && x.dst == 0 && x.s1 == 0 && x.s2 == 0 && x.s3 == 0 && x.dt == 0 && x.imm == 0
  | 0x53 => x.fmt == 0 && x.dst == 0 && x.s1 == 0 && x.s2 == 0 && x.s3 == 0 && x.dt == 0 && x.imm == 0 && bound.isNone
  | 0x54 => x.fmt == 0 && x.dst == 0 && isS x.s1 && x.s2 == 0 && x.s3 == 0 && x.dt == 0 && x.imm == 0 && bound == some true
  | 0x55 => x.fmt == 0 && x.dst == 0 && x.s1 == 0 && x.s2 == 0 && x.s3 == 0 && x.dt == 0 && x.imm == 0
  | _ => false

/-! ### Fetch and issue -/

/-- Whether a context is bound, and whether by a KERNEL binding (R196, R229). -/
def State.boundKind (s : State) (t c : Nat) : Option Bool :=
  match (s.ctx t c).bound with
  | none => none
  | some b => some (match kget (s.tile t).bindings b with
      | some k => !k.builtin
      | none => false)

/-- The instruction word at a PC (R177, R181). -/
def State.fetchWord (s : State) (t pc : Nat) : Nat := leNat (memRead (s.tile t).sram (8 * pc) 8)

/-- PC lies in the kernel area (R179). -/
def State.pcOk (s : State) (t pc : Nat) : Bool := 8 * pc + 8 ≤ s.kernelEnd t

/-- Context c of tile t issues the word at its PC, when it is its turn: it faults outside the kernel area, and on a word with an error that
cannot be corrected (R179, R185, R200). `f` says what the word does; without it the slot stays as it was. -/
def State.issueAt (s0 : State) (t c : Nat) (f : State → TWord → Option State) : State :=
  let s := s0.preempt t
  match s.turn t c with
  | none => s
  | some s1 =>
    let y := s1.ctx t c
    if !s1.pcOk t y.pc.toNat then s1.ctxFault t c fltPcRange
    else if (s1.tile t).badWords [y.pc.toNat] then (s1.count (pgTile t) 13).ctxFault t c fltSramEcc
    else (f (s1.scrub t [y.pc.toNat]) (twordOf (s1.fetchWord t y.pc.toNat))).getD s

/-- Context c of tile t issues an instruction: the event of another instruction than the one at its PC changes nothing (R183, R208). -/
def State.issueOp (s : State) (t c op : Nat) (f : State → TWord → State) : State :=
  s.issueAt t c (fun s1 x => if x.op == op && x.legal (s1.boundKind t c) then some ((f (s1.tick (aidIssue t)) x).preempt t) else none)

/-- The instruction ends: the context's registers, the next PC, one more instruction counted (R204). -/
def State.retire (s : State) (t c : Nat) (y : Ctx) : State := (s.setCtx t c { y with pc := y.pc + 1 }).count (pgTile t) 0

/-- ILLEGAL_INSTRUCTION: an illegal word at issue faults the context (R208). -/
def State.illegal (s : State) (t c : Nat) : State :=
  s.issueAt t c (fun s1 x => if x.legal (s1.boundKind t c) then none else some (s1.ctxFault t c fltIllegal))

def execIllegalInstruction (t : TileIx) (c : CtxIx) (s : State) : Host.Outcome State Fault Refusal := .next (s.illegal t c)

/-- The predicate that SRC3 names (R210). -/
def Ctx.pred (y : Ctx) (x : TWord) : Option (BitVec 128) := if x.s3 == 0 then none else some (y.rp x.s3)

/-- The predicate that IMM[11:8] names (R210). -/
def Ctx.predImm (y : Ctx) (x : TWord) : Option (BitVec 128) :=
  if nbit x.imm 11 then some (y.rp (0x30 + nbits x.imm 10 8)) else none

/-- OFFSET, sign-extended (R221, R223, R228). -/
def TWord.offset (x : TWord) : Word := (BitVec.ofNat 16 x.imm).signExtend 64

/-- The address of a memory access, and the address register after it (R221, R223). -/
def Ctx.addr (y : Ctx) (x : TWord) : Word × Ctx :=
  let a := y.rs x.s1
  if nbit x.imm 16 then (a, y.ws x.s1 (a + x.offset)) else (a + x.offset, y)

end Sys2Proof.Machine
end

