-- ==== Sys2Proof/Machine/TileScalar.lean ====
section
/-!
DEFINITION. Scalar and control instructions (R227–R229).
-/
namespace Sys2Proof.Machine

/-! ### Scalars (R227) -/

/-- Source 2: a register, or IMM sign-extended in format RI. -/
def Ctx.sc2 (y : Ctx) (x : TWord) : Word := if x.fmt == 2 then (BitVec.ofNat 24 x.imm).signExtend 64 else y.rs x.s2

/-- A scalar instruction: Sd takes a value of the sources. -/
def State.scalar (s : State) (t c op : Nat) (f : Ctx → TWord → Word) : State :=
  s.issueOp t c op (fun s x => s.retire t c ((s.ctx t c).ws x.dst (f (s.ctx t c) x)))

/-- The shift count (R227). -/
def Ctx.shift (y : Ctx) (x : TWord) : Nat := (y.sc2 x).toNat % 64

/-- SADD (R227). -/
def execSadd (t : TileIx) (c : CtxIx) (s : State) : Host.Outcome State Fault Refusal :=
  .next (s.scalar t c 0x30 (fun y x => y.rs x.s1 + y.sc2 x))
/-- SSUB (R227). -/
def execSsub (t : TileIx) (c : CtxIx) (s : State) : Host.Outcome State Fault Refusal :=
  .next (s.scalar t c 0x31 (fun y x => y.rs x.s1 - y.sc2 x))
/-- SMUL (R227). -/
def execSmul (t : TileIx) (c : CtxIx) (s : State) : Host.Outcome State Fault Refusal :=
  .next (s.scalar t c 0x32 (fun y x => y.rs x.s1 * y.sc2 x))
/-- SAND (R227). -/
def execSand (t : TileIx) (c : CtxIx) (s : State) : Host.Outcome State Fault Refusal :=
  .next (s.scalar t c 0x33 (fun y x => y.rs x.s1 &&& y.sc2 x))
/-- SOR (R227). -/
def execSor (t : TileIx) (c : CtxIx) (s : State) : Host.Outcome State Fault Refusal :=
  .next (s.scalar t c 0x34 (fun y x => y.rs x.s1 ||| y.sc2 x))
/-- SXOR (R227). -/
def execSxor (t : TileIx) (c : CtxIx) (s : State) : Host.Outcome State Fault Refusal :=
  .next (s.scalar t c 0x35 (fun y x => y.rs x.s1 ^^^ y.sc2 x))
/-- SSHL (R227). -/
def execSshl (t : TileIx) (c : CtxIx) (s : State) : Host.Outcome State Fault Refusal :=
  .next (s.scalar t c 0x36 (fun y x => y.rs x.s1 <<< y.shift x))
/-- SSHR (R227). -/
def execSshr (t : TileIx) (c : CtxIx) (s : State) : Host.Outcome State Fault Refusal :=
  .next (s.scalar t c 0x37 (fun y x => y.rs x.s1 >>> y.shift x))
/-- SSRA (R227). -/
def execSsra (t : TileIx) (c : CtxIx) (s : State) : Host.Outcome State Fault Refusal :=
  .next (s.scalar t c 0x38 (fun y x => (y.rs x.s1).sshiftRight (y.shift x)))
/-- SMIN (R227). -/
def execSmin (t : TileIx) (c : CtxIx) (s : State) : Host.Outcome State Fault Refusal :=
  .next (s.scalar t c 0x39 (fun y x => if (y.rs x.s1).toInt ≤ (y.sc2 x).toInt then y.rs x.s1 else y.sc2 x))
/-- SMAX (R227). -/
def execSmax (t : TileIx) (c : CtxIx) (s : State) : Host.Outcome State Fault Refusal :=
  .next (s.scalar t c 0x3A (fun y x => if (y.rs x.s1).toInt ≤ (y.sc2 x).toInt then y.sc2 x else y.rs x.s1))

/-- The test of SCMP: 0 EQ, 1 NE, 2 LT, 3 GE, 4 LTU, 5 GEU (R227). -/
def scmpTest (cond : Nat) (a b : Word) : Bool :=
  match cond with
  | 0 => a == b
  | 1 => a != b
  | 2 => decide (a.toInt < b.toInt)
  | 3 => decide (b.toInt ≤ a.toInt)
  | 4 => decide (a.toNat < b.toNat)
  | _ => decide (b.toNat ≤ a.toNat)

/-- SCMP (R227). -/
def execScmp (t : TileIx) (c : CtxIx) (s : State) : Host.Outcome State Fault Refusal :=
  .next (s.scalar t c 0x3B (fun y x => if scmpTest (nbits x.imm 2 0) (y.rs x.s1) (y.rs x.s2) then 1 else 0))
/-- SMOV (R227). -/
def execSmov (t : TileIx) (c : CtxIx) (s : State) : Host.Outcome State Fault Refusal :=
  .next (s.scalar t c 0x3C (fun y x => y.rs x.s1))
/-- SLI (R227). -/
def execSli (t : TileIx) (c : CtxIx) (s : State) : Host.Outcome State Fault Refusal :=
  .next (s.scalar t c 0x3D (fun _ x => (BitVec.ofNat 24 x.imm).signExtend 64))
/-- SLIH (R227). -/
def execSlih (t : TileIx) (c : CtxIx) (s : State) : Host.Outcome State Fault Refusal :=
  .next (s.scalar t c 0x3E (fun y x => (y.rs x.dst <<< 24) ||| BitVec.ofNat 64 x.imm))
/-- SGET (R227). -/
def execSget (t : TileIx) (c : CtxIx) (s : State) : Host.Outcome State Fault Refusal :=
  .next (s.scalar t c 0x3F (fun y x => BitVec.ofNat 64 (vget (y.rv x.s1) (elemBits x.dt) (nbits x.imm 7 0))))

/-- SPUT: one element of Vd takes the low bits of a scalar (R227). -/
def execSput (t : TileIx) (c : CtxIx) (s : State) : Host.Outcome State Fault Refusal :=
  .next (s.issueOp t c 0x40 (fun s x =>
    let y := s.ctx t c
    let w := elemBits x.dt
    s.retire t c (y.wv x.dst (vsplice (y.rv x.dst) w (elemCount x.dt) (nbits x.imm 7 0) [(y.rs x.s1).toNat % 2 ^ w]))))

/-- SPCNT: the elements whose governing bit is set (R227). -/
def execSpcnt (t : TileIx) (c : CtxIx) (s : State) : Host.Outcome State Fault Refusal :=
  .next (s.scalar t c 0x41 (fun y x =>
    BitVec.ofNat 64 ((List.range (elemCount x.dt)).filter (selOf (some (y.rp x.s1)) (elemBits x.dt))).length))

/-- PFIRST: the governing bits of the first min(s1, E) elements, none for a negative s1 (R227). -/
def Ctx.pfirst (y : Ctx) (x : TWord) : BitVec 128 :=
  let n := (min (y.rs x.s1).toInt (elemCount x.dt)).toNat
  (List.range n).foldl (fun a i => a ||| BitVec.ofNat 128 (2 ^ (elemBits x.dt * i / 8))) 0

def execPfirst (t : TileIx) (c : CtxIx) (s : State) : Host.Outcome State Fault Refusal :=
  .next (s.issueOp t c 0x42 (fun s x => s.retire t c ((s.ctx t c).wp x.dst ((s.ctx t c).pfirst x))))

/-- SSTAT (R227). -/
def execSstat (t : TileIx) (c : CtxIx) (s : State) : Host.Outcome State Fault Refusal := .next (s.scalar t c 0x43 (fun y _ => y.csw))

/-- SCLRF: clears sticky bits, and RSTAT (R213, R227). -/
def Ctx.sclrf (y : Ctx) (x : TWord) : Ctx :=
  { y with csw := y.csw &&& ~~~(BitVec.ofNat 64 (nbits x.imm 6 0 + (if nbit x.imm 8 then 0xF00 else 0))) }

def execSclrf (t : TileIx) (c : CtxIx) (s : State) : Host.Outcome State Fault Refusal :=
  .next (s.issueOp t c 0x44 (fun s x => s.retire t c ((s.ctx t c).sclrf x)))

/-- SCYC: a count of local cycles; the model leaves out time, so its value is open (R8, R227). -/
def execScyc (t : TileIx) (c : CtxIx) (s : State) : Host.Outcome State Fault Refusal :=
  .next (s.issueOp t c 0x45 (fun s x => s.took.retire t c ((s.ctx t c).ws x.dst (BitVec.ofNat 64 (s.freeNat 64)))))

/-! ### Control (R228, R229) -/

/-- The condition of BR (R228). -/
def brTaken (cond : Nat) (v : Word) : Bool :=
  match cond with
  | 0 => true
  | 1 => v == 0
  | 2 => v != 0
  | 3 => decide (v.toInt < 0)
  | _ => decide (0 ≤ v.toInt)

/-- The context goes on at PC + OFFSET, or at the next word. -/
def State.branch (s : State) (t c : Nat) (y : Ctx) (x : TWord) (taken : Bool) : State :=
  if taken then (s.setCtx t c { y with pc := y.pc + BitVec.ofNat 16 x.imm }).count (pgTile t) 0 else s.retire t c y

/-- BR (R228). -/
def execBr (t : TileIx) (c : CtxIx) (s : State) : Host.Outcome State Fault Refusal :=
  .next (s.issueOp t c 0x50 (fun s x => s.branch t c (s.ctx t c) x (brTaken (nbits x.imm 18 16) ((s.ctx t c).rs x.s1))))

/-- LOOP (R228). -/
def execLoopDec (t : TileIx) (c : CtxIx) (s : State) : Host.Outcome State Fault Refusal :=
  .next (s.issueOp t c 0x51 (fun s x =>
    let y := s.ctx t c
    let v := y.rs x.s1 - 1
    s.branch t c (y.ws x.s1 v) x (v != 0)))

/-- An arrival entry whose payload meets a staging word that cannot be corrected, or an injected error, has STATUS POISON (R199, R530). -/
def State.stagedRead (s : State) (t c : Nat) (a : Arrival) : State × Arrival :=
  let ws := spanWords [(nbits a.s12.toNat 18 0, nbits a.s12.toNat 31 19)]
  let r := match s.sramInject t c with
    | some s1 => (s1, true)
    | none => (s, (s.tile t).badWords ws)
  if r.2 then ((r.1.count (pgTile t) 13).scrub t ws, { a with s12 := BitVec.ofNat 64 (nsetBits a.s12.toNat 47 44 stPoison.toNat) })
  else (r.1.scrub t ws, a)

/-- An arrival entry is loaded into S12 and S13 of the bound context (R197). -/
def State.loadEntry (s : State) (t c : Nat) (a : Arrival) : State := s.setCtx t c (((s.ctx t c).ws 0x2C a.s12).ws 0x2D a.s13)

/-- The head arrival entry of a binding is loaded and removed, and its context is READY (R197, R199). -/
def State.loadArrival (s : State) (t b c : Nat) : State :=
  match kget (s.tile t).bindings b with
  | none => s
  | some k =>
    match k.queue with
    | [] => s
    | a0 :: rest =>
      let r := s.stagedRead t c a0
      let s1 := r.1.setTile t { r.1.tile t with bindings := kset (r.1.tile t).bindings b { k with queue := rest, delivered := k.delivered ++ [r.2] } }
      let s2 := s1.loadEntry t c r.2
      s2.setCtx t c { s2.ctx t c with state := .ready }

/-- YIELD: gives up the slot; a bound context takes its next arrival, or sleeps (R183, R197, R228). -/
def execYield (t : TileIx) (c : CtxIx) (s : State) : Host.Outcome State Fault Refusal :=
  .next (s.issueOp t c 0x52 (fun s _ =>
    let y := s.ctx t c
    match y.bound with
    | none => s.retire t c { y with state := .ready }
    | some b =>
      let s1 := s.retire t c { y with state := .sleep }
      s1.loadArrival t b c))

/-- END: a descriptor context enters DRAIN with its RESULT (R194, R195, R228). -/
def execEndCtx (t : TileIx) (c : CtxIx) (s : State) : Host.Outcome State Fault Refusal :=
  .next (s.issueOp t c 0x53 (fun s _ =>
    let y := s.ctx t c
    ((s.setCtx t c { y with result := BitVec.ofNat 32 (y.rs 0x20).toNat, faultPc := y.pc }).count (pgTile t) 0).enterDrain t c))

/-- Bytes of reorder staging of a tile (R177). -/
def State.stagingBytes (s : State) (t : Nat) : Nat := s.fld (rTileSram t) 12 8 * 0x4000

/-- Staging that the bindings of a tile take from a new payload or binding: a BUILTIN one its need, another what its payloads hold
(R198, R256, R267). -/
def Tile.stagingTaken (x : Tile) (least : Nat) : Nat := x.bindings.foldl (fun a b => a + if b.2.builtin then b.2.need else max least b.2.staged) 0

/-- The lowest staging address, in whole lines, at which `n` bytes are free of every entry queued or delivered. -/
def State.stagingSpot (s : State) (t n : Nat) : Option Nat :=
  let used := (s.tile t).bindings.flatMap (fun b => (b.2.queue ++ b.2.delivered).map (fun a => (nbits a.s12.toNat 18 0, nbits a.s12.toNat 31 19)))
  let base := s.stageBase t
  ((List.range (s.stagingBytes t / 128)).map (fun i => base + 128 * i)).find? (fun a =>
    decide (a + n ≤ base + s.stagingBytes t) && !used.any (fun u => decide (a < u.1 + u.2) && decide (u.1 < a + n)))

/-- Where a payload of a KERNEL binding lands: the staging that the BUILTIN bindings need stays theirs (R198, R256). -/
def State.kernelSpot (s : State) (t n : Nat) : Option Nat :=
  if (s.tile t).stagingTaken 0 + n ≤ s.stagingBytes t then s.stagingSpot t n else none

/-- An arrival of a KERNEL binding (R197, R198): its payload takes staging and its entry is queued; without space it waits. A sleeping
context takes its head entry. -/
def State.arrive (s : State) (t b : Nat) (a : Arrival) (data : List Byte) : State :=
  let x := s.tile t
  match kget x.bindings b with
  | none => s
  | some k =>
    match (if k.waiting.isEmpty then s.kernelSpot t data.length else none) with
    | none => s.setTile t { x with bindings := kset x.bindings b { k with waiting := k.waiting ++ [(a, data)] } }
    | some addr =>
      let a1 : Arrival := { a with s12 := BitVec.ofNat 64 (a.s12.toNat + addr) }
      let k1 := { k with queue := k.queue ++ [a1], staged := k.staged + data.length }
      let s0 := s.sramWrite t addr data
      let s1 := (s0.setTile t { s0.tile t with bindings := kset x.bindings b k1 }).count (pgTile t) 10
      if (s1.ctx t k.ctx).state == .sleep then s1.loadArrival t b k.ctx else s1

/-- An arrival of a BUILTIN binding: its payload lands in staging, its entry is loaded into S12 and S13 of the bound context, and the
built-in sequence merges it in the same step, after which its space is free again (R196, R197, R255). The answer is the status it is merged
with: POISON where a staging word cannot be corrected (R199). -/
def State.land (s : State) (t b : Nat) (a : Arrival) (data : List Byte) : State × Status :=
  match kget (s.tile t).bindings b with
  | none => (s, BitVec.ofNat 4 (nbits a.s12.toNat 47 44))
  | some k =>
    let addr := (s.stagingSpot t data.length).getD (s.stageBase t)
    let r := ((s.sramWrite t addr data).count (pgTile t) 10).stagedRead t k.ctx { a with s12 := BitVec.ofNat 64 (a.s12.toNat + addr) }
    (r.1.loadEntry t k.ctx r.2, BitVec.ofNat 4 (nbits r.2.s12.toNat 47 44))

/-- Waiting arrivals of a tile's bindings take the staging that has come free. -/
def State.arriveWaiting (s : State) (t : Nat) : State :=
  (s.tile t).bindings.foldl (fun s b =>
    match kget (s.tile t).bindings b.1 with
    | none => s
    | some k =>
      let s1 := s.setTile t { s.tile t with bindings := kset (s.tile t).bindings b.1 { k with waiting := [] } }
      k.waiting.foldl (fun s w => s.arrive t b.1 w.1 w.2) s1) s

/-- The value names an arrival entry delivered to the binding whose region is not yet released (R229). -/
def Binding.holds (k : Binding) (v : Word) : Bool := k.delivered.any (fun a => a.s12 == v)

/-- The staging region of a delivered arrival entry returns (R229). -/
def State.stfree (s : State) (t b : Nat) (v : Word) : State :=
  let x := s.tile t
  match kget x.bindings b with
  | none => s
  | some k =>
    let k1 := { k with delivered := k.delivered.eraseP (fun a => a.s12 == v), staged := k.staged - nbits v.toNat 31 19 }
    (s.setTile t { x with bindings := kset x.bindings b k1 }).arriveWaiting t

/-- STFREE: a value that names no such entry has no effect, and is not counted (R229). -/
def execStfree (t : TileIx) (c : CtxIx) (s : State) : Host.Outcome State Fault Refusal :=
  .next (s.issueOp t c 0x54 (fun s x =>
    let y := s.ctx t c
    let v := y.rs x.s1
    match y.bound with
    | none => s
    | some b =>
      if ((kget (s.tile t).bindings b).map (fun k => k.holds v)).getD false then (s.retire t c y).stfree t b v
      else s.setCtx t c { y with pc := y.pc + 1 }))

/-- NOP (R228). -/
def execNop (t : TileIx) (c : CtxIx) (s : State) : Host.Outcome State Fault Refusal :=
  .next (s.issueOp t c 0x55 (fun s _ => s.retire t c (s.ctx t c)))

end Sys2Proof.Machine
end

