-- ==== Sys2Proof/Machine/Plans.lean ====
section
/-!
DEFINITION. Survey plans (chapter 9, R261–R268): the plan's words and the checks of a launch, the binding of stages to tiles, the
ring of result slots, plan commands and their records, and the end of a plan.
-/
namespace Sys2Proof.Machine

/-! ### The header (R262, R263) -/

/-- Bits [hi:lo] of header word w. -/
def hdr (h : List Word) (w hi lo : Nat) : Nat := nbits (h.getD w 0).toNat hi lo

def Plan.kind (q : Plan) : Nat := hdr q.header 0 19 16
def hdrStages (h : List Word) : Nat := hdr h 0 30 24
def hdrLen (h : List Word) : Nat := hdr h 1 23 0
/-- Bytes of a segment (R250). -/
def hdrSeg (h : List Word) : Nat := hdr h 1 29 24 * 128
def hdrExact (h : List Word) : Bool := hdr h 1 32 32 == 1
def hdrCt (h : List Word) : Nat := hdr h 1 39 36
def hdrRt (h : List Word) : Nat := hdr h 1 43 40
/-- The combine type (R252). -/
def hdrCombine (h : List Word) : Nat := if hdr h 1 33 33 == 1 then 0 else hdrCt h
def hdrDepth (h : List Word) : Nat := hdr h 2 3 0
def hdrSlotLines (h : List Word) : Nat := hdr h 2 43 32
def Plan.depth (q : Plan) : Nat := hdrDepth q.header
def Plan.seg (q : Plan) : Nat := hdrSeg q.header
def Plan.len (q : Plan) : Nat := hdrLen q.header
/-- ALLREDUCE and REDUCE_SCATTER. -/
def reduces (kind : Nat) : Bool := kind == 1 || kind == 2
/-- Bytes of a value of `n` bytes of the contribution type once converted to the result type. -/
def hdrResult (h : List Word) (n : Nat) : Nat := n * elemBits (hdrRt h) / elemBits (hdrCt h)
/-- 4 KiB pages of one ring slot (R271). -/
def hdrSlotPages (h : List Word) : Nat := ceilDiv (hdrSlotLines h * 128) 0x1000

/-! ### The parts of a plan (R261, R264): `f off n` is the value of `n` bytes at a byte offset -/

def plHost (f : Nat → Nat → Nat) (k : Nat) : Nat := nbits (f (64 + 16 * k) 8) 9 0
def plN (f : Nat → Nat → Nat) (k : Nat) : Nat := nbits (f (64 + 16 * k) 8) 28 16
def plNext (f : Nat → Nat → Nat) (k : Nat) : Nat := nbits (f (64 + 16 * k) 8) 37 32
def plNextIdx (f : Nat → Nat → Nat) (k : Nat) : Nat := nbits (f (64 + 16 * k) 8) 51 40
def plTiles (f : Nat → Nat → Nat) (k : Nat) : Nat := nbits (f (64 + 16 * k) 8) 60 56
def plTable (f : Nat → Nat → Nat) (k : Nat) : Nat := nbits (f (72 + 16 * k) 8) 23 0
def plEntry (f : Nat → Nat → Nat) (k c : Nat) : Nat := f (plTable f k + 4 * c) 4
def plEntries (f : Nat → Nat → Nat) (k : Nat) : List Nat := (List.range (plN f k)).map (plEntry f k)
def entryStage (e : Nat) : Bool := nbit e 31
def entryRef (e : Nat) : Nat := nbits e 16 0
def plLeaf (f : Nat → Nat → Nat) (k : Nat) : Bool := (plEntries f k).all (fun e => !entryStage e)
def plHeader (f : Nat → Nat → Nat) : List Word := (List.range 8).map (fun i => BitVec.ofNat 64 (f (8 * i) 8))
def plStages (f : Nat → Nat → Nat) : List Nat := List.range (hdrStages (plHeader f))
def plSpareOff (f : Nat → Nat → Nat) : Nat := hdr (plHeader f) 6 55 32
def plSpares (f : Nat → Nat → Nat) : List Nat := (List.range (hdr (plHeader f) 6 23 16)).map (fun i => f (plSpareOff f + 4 * i) 4)

/-- The plan's length: the end of its last part (R261). -/
def plLength (f : Nat → Nat → Nat) : Nat :=
  ((plStages f).map (fun k => plTable f k + 4 * plN f k)).foldl max
    (max (64 + 16 * hdrStages (plHeader f)) (if (plSpares f).isEmpty then 0 else plSpareOff f + 4 * (plSpares f).length))

/-! ### The checks of R266 -/

/-- Word 7 is not well formed for its kind (R263). -/
def word7Bad (h : List Word) (kind : Nat) : Bool :=
  match kind with
  | 4 => hdr h 7 3 0 != 0 || hdr h 7 47 46 != 0 || hdr h 7 63 48 == 0 || 4096 < hdr h 7 63 48
  | 5 => hdr h 7 25 24 == 3 || hdr h 7 23 23 != 0 || hdr h 7 31 26 != 0 || hdr h 7 47 41 != 0 || hdr h 7 22 16 == 0 || 64 < hdr h 7 22 16 ||
    hdr h 7 40 32 == 0 || 256 < hdr h 7 40 32 || hdr h 7 63 48 == 0
  | 6 => false
  | _ => (h.getD 7 0) != 0

/-- The header has a reserved field or encoding in use, or a field misaligned or out of range. -/
def headerBad (h : List Word) (cols : Nat) : Bool :=
  let kind := hdr h 0 19 16
  let ring := kind != 6
  kind == 0 || 6 < kind || hdr h 0 23 20 != 0 || hdr h 0 63 42 != 0 || hdrStages h == 0 || 64 < hdrStages h ||
  (hdr h 0 31 31 == 1 && cols ≤ hdr h 0 36 32) ||
  hdrLen h == 0 || hdrLen h % 128 != 0 || hdr h 1 29 24 == 0 || 32 < hdr h 1 29 24 || hdr h 1 31 30 == 3 || hdr h 1 35 34 != 0 ||
  hdr h 1 63 44 != 0 || 9 < hdrCt h || 9 < hdrRt h ||
  (if ring then hdrDepth h == 0 || 8 < hdrDepth h else hdrDepth h != 0) ||
  hdr h 2 15 8 == 0 || hdrSlotLines h == 0 || 2048 < hdrSlotLines h || hdr h 2 7 4 != 0 || hdr h 2 31 30 != 0 || hdr h 2 63 44 != 0 ||
  hdr h 3 11 0 != 0 || hdr h 3 63 46 != 0 || hdr h 4 15 0 == 0 || hdr h 4 27 24 == 0 || hdr h 4 31 29 != 0 ||
  hdr h 4 63 38 != 0 || (if kind == 5 then hdr h 4 37 32 == 0 || 32 < hdr h 4 37 32 else hdr h 4 37 32 != 0) ||
  hdr h 5 6 0 != 0 || hdr h 5 63 46 != 0 || hdr h 6 15 14 != 0 || 64 < hdr h 6 23 16 || hdr h 6 31 24 != 0 || hdr h 6 63 56 != 0 ||
  hdr h 6 33 32 != 0 || word7Bad h kind

/-- A stage entry or its chainage table breaks R264. -/
def stageBad (f : Nat → Nat → Nat) (inGrid : Nat → Bool) (k : Nat) : Bool :=
  let w0 := f (64 + 16 * k) 8
  let w1 := f (72 + 16 * k) 8
  nbits w0 15 10 != 0 || nbits w0 31 29 != 0 || nbits w0 39 38 != 0 || nbits w0 55 52 != 0 || nbits w0 63 61 != 0 ||
  nbits w1 63 24 != 0 || nbits w1 1 0 != 0 || plN f k == 0 || 4096 < plN f k || plTiles f k == 0 || 16 < plTiles f k ||
  !inGrid (plHost f k) || hdrStages (plHeader f) ≤ plNext f k ||
  (plEntries f k).any (fun e => nbits e 30 17 != 0 || (entryStage e && (nbits e 16 6 != 0 || hdrStages (plHeader f) ≤ entryRef e)))

/-- DETAIL 0x01. -/
def planMalformed (f : Nat → Nat → Nat) (cols : Nat) (inGrid : Nat → Bool) : Bool :=
  headerBad (plHeader f) cols || (plStages f).any (stageBad f inGrid) ||
  (plSpares f).any (fun e => nbits e 31 17 != 0) || 2 ^ 20 < plLength f

/-- Where a stage number stands in the chainage tables: stage and index. -/
def plPlaces (f : Nat → Nat → Nat) (z : Nat) : List (Nat × Nat) :=
  (plStages f).flatMap (fun k => ((List.range (plN f k)).filter (fun c => plEntry f k c == 2 ^ 31 + z)).map (fun c => (k, c)))

/-- NEXT followed n times. -/
def followNext (f : Nat → Nat → Nat) : Nat → Nat → Nat
  | 0, k => k
  | n + 1, k => followNext f n (plNext f k)

/-- DETAIL 0x02: one root, every other stage once at NEXT_IDX of its NEXT, and no cycle. -/
def planTree (f : Nat → Nat → Nat) : Bool :=
  ((plStages f).filter (fun k => plNext f k == k)).length == 1 &&
  (plStages f).all (fun k => if plNext f k == k then (plPlaces f k).isEmpty else plPlaces f k == [(plNext f k, plNextIdx f k)]) &&
  (plStages f).all (fun k => let r := followNext f 64 k; plNext f r == r)

/-- Hosts of a stage's stage sources. -/
def plSourceHosts (f : Nat → Nat → Nat) (k : Nat) : List Nat :=
  ((plEntries f k).filter entryStage).map (fun e => plHost f (entryRef e))

/-- A levelled ACCEL port of this Tiolo. -/
def State.levelledAccel (s : State) (p : Nat) : Bool := s.portRole p == roleAccel && s.portUp p

/-- DETAIL 0x03. -/
def State.planSources (s : State) (f : Nat → Nat → Nat) : Bool :=
  (plStages f).all (fun k =>
    let h := plHost f k
    (plEntries f k).all (fun e => entryStage e || (entryRef e / 128 == h && (h != s.ix || s.levelledAccel (entryRef e % 128)))) &&
    ((plSourceHosts f k).all (fun t => t / 32 == h / 32) || (plSourceHosts f k).all (fun t => t % 32 == h % 32)) &&
    (!plLeaf f k || (plStages f).all (fun j => j == k || !plLeaf f j || plHost f j != h)))

/-- Bytes a stage puts out in a step, by nested sources (R260, R267). -/
def plOut (f : Nat → Nat → Nat) (kind len : Nat) : Nat → Nat → Nat
  | 0, _ => 0
  | n + 1, k =>
    if kind == 3 then (plEntries f k).foldl (fun a e => a + (if entryStage e then plOut f kind len n (entryRef e) else len)) 0 else len

/-- Bytes of one contribution of an entry. -/
def plSourceLen (f : Nat → Nat → Nat) (e : Nat) : Nat :=
  let h := plHeader f
  if entryStage e then plOut f (hdr h 0 19 16) (hdrLen h) 64 (entryRef e) else hdrLen h

/-- A stage's input length (R267). -/
def plInput (f : Nat → Nat → Nat) (k : Nat) : Nat :=
  let h := plHeader f
  if hdr h 0 19 16 == 3 && !plLeaf f k then plOut f 3 (hdrLen h) 64 k else hdrLen h

/-- Bytes of the count area of a FILTER slot (R276). -/
def countArea (h : List Word) (n : Nat) : Nat :=
  let words := match hdr h 7 25 24 with
    | 0 => hdr h 7 40 32 * n
    | 1 => n
    | _ => 1
  ceilDiv (4 * words) 128 * 128

/-- Bytes of a fill at its fullest, on this host. -/
def plFill (f : Nat → Nat → Nat) : Nat :=
  let h := plHeader f
  let n := plN f 0
  let root := ((plStages f).find? (fun k => plNext f k == k)).getD 0
  match hdr h 0 19 16 with
  | 1 => hdrResult h (hdrLen h)
  | 2 => hdrResult h (hdrLen h) / max 1 ((plStages f).filter (plLeaf f)).length
  | 3 => plOut f 3 (hdrLen h) 64 root
  | 4 => hdr h 7 63 48 * 128
  | 5 =>
    let row := hdr h 4 37 32 * 128
    countArea h n + row * (match hdr h 7 25 24 with
      | 0 => hdr h 7 40 32 * n * hdr h 7 63 48
      | 1 => n * hdr h 7 63 48
      | _ => hdr h 7 22 16)
  | _ => 0

/-- The types of a reduction fit its mode (R252, R254). -/
def typesFit (h : List Word) : Bool :=
  let fp (t : Nat) : Bool := t ≤ 4
  if hdrExact h then hdr h 1 31 30 == 0 && fp (hdrCt h) && hdrRt h ≤ 2
  else (fp (hdrCt h) || isIntDt (hdrCt h)) && (fp (hdrRt h) || isIntDt (hdrRt h)) && !(isIntDt (hdrCt h) && hdr h 1 33 33 == 1)

/-- DETAIL 0x04. -/
def planFits (f : Nat → Nat → Nat) : Bool :=
  let h := plHeader f
  let kind := hdr h 0 19 16
  (!reduces kind || typesFit h) &&
  (kind < 4 || hdrStages h == 1) &&
  (kind != 2 || hdrLen h % (128 * max 1 ((plStages f).filter (plLeaf f)).length) == 0) &&
  (kind != 5 || (hdr h 1 29 24 % hdr h 4 37 32 == 0 && hdrLen h % (hdr h 4 37 32 * 128) == 0)) &&
  (kind == 6 || plFill f ≤ hdrSlotLines h * 128)

/-- ⌈log2 n⌉. -/
def clog2 (n : Nat) : Nat := if n ≤ 1 then 0 else (n - 1).log2 + 1

/-- DETAIL 0x05: the bound of R277 for canonical-order reduction. -/
def planBound (f : Nat → Nat → Nat) : Bool :=
  let h := plHeader f
  !reduces (hdr h 0 19 16) || hdrExact h ||
  (plStages f).all (fun k => 75 + clog2 (plN f k) * ceilDiv (hdrSeg h * 8 / elemBits (hdrCt h)) (elemCount (hdrCombine h)) ≤ 315)

/-- Staging that a stage needs on each of its tiles (R256). -/
def stageNeed (f : Nat → Nat → Nat) (k : Nat) : Nat :=
  let h := plHeader f
  let segs := ceilDiv (ceilDiv (plInput f k) (hdrSeg h)) (max 1 (plTiles f k))
  let e := hdrSeg h * 8 / elemBits (hdrCt h)
  if !reduces (hdr h 0 19 16) then 16384
  else if hdrExact h then 2 * segs * e * 40 + 16384
  else 2 * segs * ceilDiv (plN f k) 2 * e * elemBits (hdrCombine h) / 8 + 16384

/-! ### Datum areas and stakes (R56, R266) -/

def State.datum (s : State) (n : Nat) : Nat := nbits (s.grant n 0) 8 0 * 2 ^ 30
def State.t0Bytes (s : State) (n : Nat) : Nat := nbits (s.grant n 0) 24 16 * 2 ^ 30

/-- [a, a + len) lies in the datum range and overlaps no VALID or REVOKING extent. -/
def State.areaOk (s : State) (n a len : Nat) : Bool :=
  decide (a + len ≤ s.t0Bytes n) &&
  !s.extents.any (fun e => e.2.state != .free && overlaps (s.datum n + a) len e.2.base (0x1000 * e.2.pages))

/-- DETAIL 0x08. -/
def State.planAreas (s : State) (n : Nat) (h : List Word) : Bool :=
  let kind := hdr h 0 19 16
  (kind == 6 || s.areaOk n (hdr h 3 45 0) (hdrDepth h * hdrSlotPages h * 0x1000)) &&
  s.areaOk n (hdr h 5 45 0) (hdrStages h * 4096 * 8) &&
  (kind != 4 || s.areaOk n (hdr h 7 45 0) (hdrDepth h * hdr h 7 63 48 * 16))

/-- DETAIL 0x09. -/
def State.planStakes (s : State) (n : Nat) (job : BitVec 16) (h : List Word) : Bool :=
  (List.range (hdrDepth h)).all (fun r => decide (hdr h 2 29 16 + r < 16384) && s.stakeParcel (hdr h 2 29 16 + r) == some n) &&
  (hdr h 0 19 16 != 4 || s.stakeParcel (hdr h 6 13 0) == some n) &&
  !s.coll.plans.any (fun q => q.job == job && q.plan.toNat == hdr h 0 15 0) &&
  !s.coll.slots.any (fun e => e.2.state != .free && e.2.job == job && e.2.plan.toNat == hdr h 0 15 0)

/-! ### Slots (R266, R271) -/

def State.rslot (s : State) (n : Nat) : RSlot := kgetD s.coll.slots n {}
def State.setSlots (s : State) (l : KMap RSlot) : State := { s with coll := { s.coll with slots := l } }
def State.setRslot (s : State) (n : Nat) (x : RSlot) : State := s.setSlots (kset s.coll.slots n x)
def State.freeRslot (s : State) (n : Nat) : State := s.setSlots (kdel s.coll.slots n)

/-- The lowest run of `d` free slots, within the parcel's limit. -/
def State.slotRun (s : State) (n d : Nat) : Option Nat :=
  let held := (s.coll.slots.filter (fun e => e.2.state != .free && e.2.parcel == n)).length
  if nbits (s.grant n 0) 44 32 < held + d then none
  else
    let ends := 0 :: (s.coll.slots.filter (fun e => e.2.state != .free)).map (fun e => e.1 + 1)
    ends.find? (fun a => decide (a + d ≤ 4096) && (List.range d).all (fun r => (s.rslot (a + r)).state == .free))

/-! ### Binding (R196, R267) -/

/-- A tile that a stage may take. -/
def State.tileMeets (s : State) (n t need : Nat) : Bool :=
  let x := s.tile t
  s.tileParcel t == some n && decide (x.bindings.length < 8) && (s.freeCtx t).isSome &&
  decide (need + x.stagingTaken 16384 ≤ s.stagingBytes t)

/-- Binds one tile to a stage; its context sleeps (R196). -/
def State.bindTile (s : State) (h : List Word) (job : BitVec 16) (k need t : Nat) : State × (Nat × Nat × Nat) :=
  let x := s.tile t
  let b := ((List.range 8).find? (fun b => (kget x.bindings b).isNone)).getD 0
  let c := (s.freeCtx t).getD 0
  let plan := BitVec.ofNat 16 (hdr h 0 15 0)
  let kernel := hdr h 0 19 16 == 6
  let bind : Binding := { ctx := c, builtin := !kernel, job := job, plan := plan, flow := plan, stage := k, need := need }
  let y : Ctx := { state := .sleep, bound := some b, job := job, pc := if kernel then BitVec.ofNat 16 (hdr h 7 15 0) else 0,
                   s := if kernel then [(0, BitVec.ofNat 64 (hdr h 7 63 16))] else [] }
  ((s.setTile t { x with bindings := kset x.bindings b bind }).setCtx t c y, (t, b, c))

/-- A stage takes the lowest tiles of the parcel that meet R267; none when there are too few. -/
def State.bindStage (s : State) (n : Nat) (job : BitVec 16) (f : Nat → Nat → Nat) (k : Nat) : Option (State × Stage) :=
  let need := stageNeed f k
  let ts := ((List.range 256).filter (fun t => s.tileMeets n t need)).take (plTiles f k)
  if ts.length < plTiles f k then none
  else
    let r := ts.foldl (fun (a : State × List (Nat × Nat × Nat)) t =>
      let b := a.1.bindTile (plHeader f) job k need t
      (b.1, a.2 ++ [b.2])) (s, [])
    let srcs : List Source' := (plEntries f k).map (fun e => { stage := entryStage e, ref := entryRef e, len := plSourceLen f e })
    some (r.1, { number := k, n := plN f k, next := plNext f k, nextIdx := plNextIdx f k, tiles := ts, binds := r.2, sources := srcs,
                 outLen := plOut f (hdr (plHeader f) 0 19 16) (hdrLen (plHeader f)) 64 k })

/-- This host's stages are bound in ascending stage number. -/
def State.bindStages (s : State) (n : Nat) (job : BitVec 16) (f : Nat → Nat → Nat) : List Nat → Option (State × List Stage)
  | [] => some (s, [])
  | k :: rest =>
    match s.bindStage n job f k with
    | none => none
    | some (s1, g) => (s1.bindStages n job f rest).map (fun r => (r.1, g :: r.2))

/-- A binding of a stage of a plan ends, where it still is that stage's: its context becomes FREE, once its requests have ended
(R201, R229, R268). -/
def State.unbind (s : State) (q : Plan) (g : Stage) (b : Nat × Nat × Nat) : State :=
  let x := s.tile b.1
  match kget x.bindings b.2.1 with
  | none => s
  | some k =>
    if k.job != q.job || k.plan != q.plan || k.stage != g.number then s
    else
      let y := s.ctx b.1 b.2.2
      let x1 := x.freeLanes b.2.2
      let ctxs := if y.outstanding.isEmpty then kdel x1.ctxs b.2.2 else kset x1.ctxs b.2.2 { y with state := .drain, bound := none, lanes := [] }
      s.setTile b.1 { x1 with ctxs := ctxs, bindings := kdel x1.bindings b.2.1 }

/-- Every binding of a plan on this Tiolo ends. -/
def State.unbindAll (s : State) (q : Plan) : State := q.stages.foldl (fun s g => g.binds.foldl (fun s b => s.unbind q g b) s) s

/-! ### Plans -/

def State.setPlans (s : State) (l : List Plan) : State := { s with coll := { s.coll with plans := l } }
def State.plan (s : State) (job plan : BitVec 16) : Option Plan := s.coll.plans.find? (fun q => q.job == job && q.plan == plan)
def State.modPlan (s : State) (job plan : BitVec 16) (f : Plan → Plan) : State :=
  s.setPlans (s.coll.plans.map (fun q => if q.job == job && q.plan == plan then f q else q))
def Plan.stage (q : Plan) (k : Nat) : Option Stage := q.stages.find? (fun g => g.number == k)
def Plan.setStage (q : Plan) (g : Stage) : Plan := { q with stages := q.stages.map (fun x => if x.number == g.number then g else x) }
def State.setStage (s : State) (q : Plan) (g : Stage) : State := s.modPlan q.job q.plan (fun x => x.setStage g)

/-- OPREF of a plan at this host: plan identifier, and its first stage here (R457). -/
def Plan.opref (q : Plan) : BitVec 32 := BitVec.ofNat 32 (q.plan.toNat + ((q.stages.map Stage.number).headD 0) * 2 ^ 16)

/-- The ring's slots. -/
def Plan.slots (q : Plan) : List Nat := (List.range q.depth).map (fun r => q.slot + r)

/-! ### Plan commands (R265) -/

def PlanCmd.word (c : PlanCmd) (i : Nat) : Nat := (c.desc.getD i 0).toNat
def PlanCmd.op (c : PlanCmd) : Nat := nbits (c.word 0) 7 0
def PlanCmd.plan (c : PlanCmd) : BitVec 16 := BitVec.ofNat 16 (c.word 1)
def PlanCmd.stage (c : PlanCmd) : Nat := nbits (c.word 2) 5 0
def PlanCmd.index (c : PlanCmd) : Nat := nbits (c.word 2) 19 8
def PlanCmd.rec' (c : PlanCmd) : Nat := nbits (c.word 6) 55 0

/-- A field of the descriptor has a value that R265 does not allow; reserved bits do not count (R6). -/
def PlanCmd.bad (c : PlanCmd) : Bool :=
  nbits (c.word 0) 9 8 == 0 || nbits (c.word 0) 9 8 == 3 || c.rec' % 16 != 0 || (c.op == 1 && c.word 2 % 64 != 0)

/-- The 16 B completion record (R265). -/
def PlanCmd.record (c : PlanCmd) (flags : BitVec 3) : List Byte :=
  leBytes 8 (c.status.toNat + (flags ||| c.flags).toNat * 2 ^ 4 + c.detail * 2 ^ 8 + c.slot * 2 ^ 16 + c.value * 2 ^ 32) ++ leBytes 8 (c.word 7)

def State.setPlanCmds (s : State) (l : List PlanCmd) : State := { s with coll := { s.coll with cmds := l } }

/-- A plan command ends: its record is written (R160, R265). -/
def State.planEnd (s : State) (c : PlanCmd) (st : Status) (detail : Nat) : State :=
  let d := { c with status := st, detail := detail, recording := true }
  let g := BitVec.ofNat 56 d.rec'
  let s1 := s.setPlanCmds (s.coll.cmds.map (fun x => if x.id == d.id then d else x))
  s1.issue { opcode := BitVec.ofNat 8 opWRN, len := 16, tid := BitVec.ofNat 16 (s1.freeTid agPlan), job := d.req.job, gfa := g,
             dst := BitVec.ofNat 17 (gfaHome g * 128), src := BitVec.ofNat 10 s1.ix, agent := agPlan,
             payload := d.record (s1.degradedFlag d.req.job.toNat) } (.plan d.id)

/-- The record of a plan command is written: the stake is released; a failed write is recorded with TAG (R128, R160). -/
def State.planRecorded (s : State) (id : Nat) (p : Packet) : State :=
  match s.coll.cmds.find? (fun c => c.id == id) with
  | none => s
  | some c =>
    let s1 := s.setPlanCmds (s.coll.cmds.filter (fun d => d.id != id))
    if p.status != stOK then s1.record (bookRegion 0) (pgRegion 0) clsRecord 2 aidTrav (c.word 7) c.rec' p.status (some c.parcel)
    else if nbit (c.word 0) 30 && s1.stakeAccess (nbits (c.word 0) 29 16) c.req.job.toNat == stOK then
      s1.srelLocal (nbits (c.word 0) 29 16) 1 (BitVec.ofNat 2 (nbits (c.word 0) 9 8)) agPlan
    else s1

/-- Bytes of local memory that may cross pages. -/
def State.readSpan (s : State) (a n : Nat) : List Byte :=
  ((List.range (n / 0x1000 + 2)).flatMap (fun i =>
    let lo := if i == 0 then a else (a / 0x1000 + i) * 0x1000
    let hi := min (a + n) ((a / 0x1000 + i + 1) * 0x1000)
    s.readMem lo (hi - lo)))

/-- The column that the host's plan twins with (R262 PARTNER). -/
def State.partnerCol (s : State) (partner : Nat) : Nat := if s.col == partner % 32 then (s.col + 1) % s.cols else partner % 32

/-- The checks of a launch that bind nothing, in the order of R266: DETAIL and status. -/
def State.launchCheck (s : State) (n : Nat) (job : BitVec 16) (f : Nat → Nat → Nat) : List (Bool × Nat × Status) :=
  let h := plHeader f
  [(planMalformed f s.cols s.inGrid, 1, stUnsupported), (!planTree f, 2, stUnsupported), (!s.planSources f, 3, stUnsupported),
   (!planFits f, 4, stUnsupported), (!planBound f, 5, stUnsupported),
   ((s.bindStages n job f ((plStages f).filter (fun k => plHost f k == s.ix))).isNone, 6, stQuota),
   ((s.slotRun n (hdrDepth h)).isNone || 256 ≤ s.coll.plans.length, 7, stQuota),
   (!s.planAreas n h, 8, stAccessFault), (!s.planStakes n job h, 9, stAccessFault)]

/-- The bound contexts of a GATHER_INDEXED plan acquire the input stake for a step: at the value it had at launch plus the step and 1
(R275). -/
def State.gatherAcquires (s : State) (q : Plan) (step : Nat) : State :=
  if q.kind != 4 then s
  else (q.stages.flatMap Stage.binds).foldl (fun s b =>
    s.inputAcquire b.1 b.2.2 (hdr q.header 6 13 0) (q.inputBase + BitVec.ofNat 64 (step + 1)) (hdr q.header 4 15 0)) s

/-- LAUNCH of a plan whose checks pass: stages bound, slots allocated and ARMED for fill 1, twinning started (R266, R271, R456). -/
def State.launchNow (s : State) (c : PlanCmd) (f : Nat → Nat → Nat) : State :=
  let h := plHeader f
  let job := c.req.job
  let kind := hdr h 0 19 16
  match s.bindStages c.parcel job f ((plStages f).filter (fun k => plHost f k == s.ix)), s.slotRun c.parcel (hdrDepth h) with
  | some (s1, gs), some a =>
    let first := if hdrDepth h == 0 then 0 else a
    let leaves := (plStages f).filter (plLeaf f)
    let mine := kind != 2 || leaves.any (fun k => plHost f k == s.ix)
    let due := if kind == 4 || kind == 5 || !mine then 0 else plFill f
    let q : Plan := { job := job, plan := BitVec.ofNat 16 (hdr h 0 15 0), parcel := c.parcel, header := h, hosts := (plStages f).map (plHost f),
                      nexts := (plStages f).map (plNext f), leaves := leaves, spares := (plSpares f).map entryRef, stages := gs, slot := first,
                      inputBase := if kind == 4 then (s.stake (hdr h 6 13 0)).value else 0 }
    let s2 := (List.range (hdrDepth h)).foldl (fun s r =>
      s.setRslot (first + r) { state := .armed, parcel := c.parcel, job := job, plan := q.plan,
                               base := s.datum c.parcel + hdr h 3 45 0 + r * hdrSlotPages h * 0x1000, lines := hdrSlotLines h,
                               stake := hdr h 2 29 16 + r, due := due, consumers := hdr h 2 15 8 }) s1
    let s3 := s2.setPlans (s2.coll.plans ++ [q])
    let r := if hdr h 0 31 31 == 1 then s3.startTwin 1 job q.opref c.parcel (s3.partnerCol (hdr h 0 41 32)) agPlan else (s3, true)
    (r.1.gatherAcquires q 0).planEnd { c with slot := first, flags := if r.2 then 0 else flDegraded } stOK 0
  | _, _ => s.planEnd c stQuota 6

/-- The plan's bytes may be read: its extent is VALID with RD for the parcel, and covers the plan (R265). -/
def State.planReadable (s : State) (c : PlanCmd) : Status :=
  let a := nbits (c.word 2) 45 0
  match s.extAt a with
  | none => stAccessFault
  | some (_, x) =>
    if placeOf a != .t0 then stAccessFault
    else if x.base + 0x1000 * x.pages < a + 64 then stAccessFault
    else s.checkExt x a 64 c.req.job.toNat .load

/-- LAUNCH (R266). The record reports the CRC-32C of a plan that could be read whole, whatever else is found (R261, R265). -/
def State.launch (s : State) (c0 : PlanCmd) : State :=
  let a := nbits (c0.word 2) 45 0
  let f (o n : Nat) : Nat := leNat (s.readMem (a + o) n)
  let top := match s.extAt a with
    | some (_, x) => x.base + 0x1000 * x.pages - a
    | none => 0
  if s.planReadable c0 != stOK then s.planEnd c0 (s.planReadable c0) 8
  else
    let whole := decide (plLength f ≤ min top (2 ^ 20)) && !s.anyPoison a (plLength f)
    let c := if whole then { c0 with value := (crc32c (s.readSpan a (plLength f))).toNat } else c0
    if planMalformed f s.cols s.inGrid then s.planEnd c stUnsupported 1
    else if top < plLength f then s.planEnd c stAccessFault 8
    else if !whole then s.planEnd c stPoison 0
    else match (s.launchCheck c.parcel c.req.job f).find? (fun e => e.1) with
      | some e => s.planEnd c e.2.2 e.2.1
      | none => s.launchNow c f

/-- An endpoint is bound to an index of a stage: now, by a rebinding that is armed, or for steps before a rebinding's effective step that
the stage has still to emit (R280, R281). -/
def Stage.bindsEndpoint (g : Stage) (r : Nat) : Bool :=
  g.sources.any (fun x => !x.stage && (x.ref == r || x.armed.any (fun a => a.1 == r) ||
    x.old.any (fun o => o.1 == r && decide (g.current < o.2))))

/-- The first spare that may take over an index of a stage here: a levelled ACCEL port of this host that is bound to no index (R280). -/
def State.spareFor (s : State) (q : Plan) : Option Nat :=
  q.spares.find? (fun r => decide (r / 128 = s.ix) && s.levelledAccel (r % 128) && !q.stages.any (fun g => g.bindsEndpoint r))

/-- REBIND: a spare is armed, and the command waits for its effective step (R280, R281). -/
def State.rebind (s : State) (c : PlanCmd) : State :=
  match s.plan c.req.job c.plan with
  | none => s.planEnd c stAccessFault 9
  | some q =>
    match q.stage c.stage with
    | none => s.planEnd c stUnsupported 1
    | some g =>
      match g.sources[c.index]? with
      | none => s.planEnd c stUnsupported 1
      | some x =>
        if x.stage then s.planEnd c stUnsupported 1
        else if x.armed.isSome then s
        else match s.spareFor q with
          | none => s.planEnd c stQuota 10
          | some r => s.setStage q { g with sources := g.sources.set c.index { x with armed := some (r, false) } }

/-- A plan is to stop: it waits for the steps that have begun (R268). -/
def Plan.stop (q : Plan) : Plan :=
  if q.stopping then q else { q with stopping := true, awaited := q.stages.flatMap (fun g => g.began.map (fun e => (g.number, e.1))) }

/-- A plan command's effect. -/
def State.planRun (s : State) (c : PlanCmd) : State :=
  if c.op == 0 || 3 < c.op || c.bad then s.planEnd c stUnsupported 1
  else match c.op with
    | 1 => s.launch c
    | 2 => if (s.plan c.req.job c.plan).isSome then s.modPlan c.req.job c.plan Plan.stop
           else s.planEnd c stAccessFault 9
    | _ => s.rebind c

/-- The queue has room for a parcel (R156, R265). -/
def State.planRoom (s : State) (n : Nat) : Bool :=
  decide (s.coll.cmds.length < 1024) && decide ((s.coll.cmds.filter (fun c => c.parcel == n)).length < 64)

/-- A plan command is queued, its doorbell write completes, and it runs. -/
def State.planQueue (s : State) (n : Nat) (p : Packet) : State :=
  let id := ((List.range 1025).find? (fun i => !s.coll.cmds.any (fun c => c.id == i))).getD 1024
  let c : PlanCmd := { id := id, parcel := n, desc := descOf p, req := p }
  ((s.setPlanCmds (s.coll.cmds ++ [c])).complete p stOK).planRun c

/-- A write to the plan doorbell with an opcode; it is held while the queue is full (R265). -/
def State.planDoor (s : State) (op : Nat) (p0 : Packet) : State :=
  let p := { p0 with payload := leBytes 1 op ++ p0.payload.drop 1 }
  let st := s.engineDoor p
  if st != stOK then s.complete p st
  else match s.parcelOf p.job.toNat with
    | none => s.complete p stAccessFault
    | some n => if s.planRoom n && !s.doorWaits 2 p then s.planQueue n p else s.holdDoor 2 p

/-- PLAN_LAUNCH (R266). -/
def execPlanLaunch (p : Packet) (s : State) : Host.Outcome State Fault Refusal := .next (s.planDoor 1 p)
/-- PLAN_STOP (R268). -/
def execPlanStop (p : Packet) (s : State) : Host.Outcome State Fault Refusal := .next (s.planDoor 2 p)
/-- PLAN_REBIND (R280). -/
def execPlanRebind (p : Packet) (s : State) : Host.Outcome State Fault Refusal := .next (s.planDoor 3 p)

/-! ### The end of a plan (R268) -/

/-- No step that had begun at the STOP is still to be emitted, and no fill that is whole is still to be announced (R268, R271). -/
def State.planIdle (s : State) (q : Plan) : Bool :=
  q.stages.all (fun g => !q.awaited.any (fun e => e.1 == g.number && (kget g.began e.2).isSome)) &&
  q.slots.all (fun n => let x := s.rslot n; x.state != .armed || !(x.full || (0 < x.due && x.due ≤ x.segs.foldl (fun a e => a + e.2) 0))) &&
  match s.twinOp 1 q.opref (some q.job) with
  | some o => o.acts.isEmpty
  | none => true

/-- The plan is removed: bindings end, results still held for its slots go, slots other than READY ones are freed, and READY ones are freed
once consumed. -/
def State.removePlan (s : State) (q : Plan) : State :=
  let s0 := s.unbindAll q
  let s1 : State := { s0 with coll := { s0.coll with held := s0.coll.held.filter (fun h => !q.slots.contains h.slot) } }
  let s2 := q.slots.foldl (fun s n =>
    let x := s.rslot n
    if x.state == .ready then s.setRslot n { x with stopped := true } else s.freeRslot n) s1
  (s2.setPlans (s2.coll.plans.filter (fun r => !(r.job == q.job && r.plan == q.plan)))).dropTwin 1 q.opref (some q.job)

/-- PLAN_STOP_DONE: a stopping plan whose steps in progress have ended is removed, and its commands complete (R268). -/
def State.planStopDone (s : State) (job plan : BitVec 16) : State :=
  match s.plan job plan with
  | none => s
  | some q =>
    if !q.stopping || !s.planIdle q then s
    else
      let s1 := s.removePlan q
      (s1.coll.cmds.filter (fun c => !c.recording && c.req.job == job && c.plan == plan)).foldl (fun s c =>
        if c.op == 2 then s.planEnd c stOK 0 else s.planEnd c stAccessFault 9) s1

def execPlanStopDone (job plan : BitVec 16) (s : State) : Host.Outcome State Fault Refusal := .next (s.planStopDone job plan)

end Sys2Proof.Machine
end

