-- ==== Sys2Proof/Machine/Collectives.lean ====
section
/-!
DEFINITION. Collectives (chapter 9): contributions and their combination, results and their return, result slots and their reads,
gather and filter steps, deadlines, skew entries and rebindings.
-/
namespace Sys2Proof.Machine

/-! ### The SEQX extension of a COL packet (R344) -/

def colIndex (p : Packet) : Nat := match p.seqx with
  | some (.col c _ _ _ _) => c.toNat
  | _ => 0
def colStage (p : Packet) : Nat := match p.seqx with
  | some (.col _ g _ _ _) => g.toNat
  | _ => 0
def colStep (p : Packet) : Nat := match p.seqx with
  | some (.col _ _ st _ _) => st.toNat
  | _ => 0
def colOff (p : Packet) : Nat := match p.seqx with
  | some (.col _ _ _ o _) => o.toNat
  | _ => 0
def colResult (p : Packet) : Bool := match p.seqx with
  | some (.col _ _ _ _ r) => r
  | _ => false
def mkSeqx (index stage step off : Nat) (result : Bool) : Seqx :=
  .col (BitVec.ofNat 12 index) (BitVec.ofNat 6 stage) (BitVec.ofNat 16 step) (BitVec.ofNat 32 off) result

/-- STATUS of a contribution: POISON when the packet carries poisoned data (R197). -/
def colStatus (p : Packet) : Status := if p.poi then statusMin p.status stPoison else p.status

/-- A COL packet of the plan engine. -/
def State.colPacket (s : State) (q : Plan) (host : Nat) (seqx : Seqx) (st : Status) (data : List Byte) : Packet :=
  { opcode := BitVec.ofNat 8 opCOLD, cls := 4, len := data.length, poi := st == stPoison, job := q.job, dst := BitVec.ofNat 17 (host * 128),
    src := BitVec.ofNat 10 s.ix, agent := agPlan, flow := q.plan, status := st, seqx := some seqx, payload := data }

/-- The book and the arbiter of a discarded packet: those of the ingress of the port it entered by, when a local endpoint sent it (R474's
example); else those of the stage's block. -/
def State.colIngress (s : State) (block : Nat) (p : Packet) : Nat × Nat :=
  if p.src.toNat == s.ix && p.agent.toNat < 2048 then (p.agent.toNat % 128 / 8, aidInput (p.agent.toNat % 128)) else (block, aidBlock block 0)

/-- A packet is discarded with a block record: class, port and flow; STEP (R269, R470). -/
def State.colDiscard (s : State) (block : Nat) (p : Packet) : State :=
  let u := s.colIngress block p
  s.record u.1 (pgBlock u.1) clsDiscard 0 u.2
    (p.cls.toNat + (if p.agent.toNat < 2048 then p.agent.toNat % 128 else 0) * 2 ^ 8 + p.flow.toNat * 2 ^ 16 + colStep p * 2 ^ 64)
    0 0 (s.parcelOf p.job.toNat)

/-! ### Writing results (R271, R273, R274) -/

/-- Parts of at most 4,096 bytes, with their offsets. -/
def chunks4k : Nat → Nat → List Byte → List (Nat × List Byte)
  | 0, _, _ => []
  | n + 1, off, d => if d.isEmpty then [] else (off, d.take 4096) :: chunks4k n (off + 4096) (d.drop 4096)

/-- Sends a result segment from a stage of this host, as one multicast, to the other hosts of its stage sources, and goes on with the
source stages that stand here (R274). -/
def State.forwardResult (s : State) (q : Plan) (step off : Nat) (st : Status) (data : List Byte) : Nat → Nat → State
  | 0, _ => s
  | n + 1, g =>
    let srcs := (List.range q.hosts.length).filter (fun z => z != g && q.nexts.getD z 64 == g)
    let host := q.hosts.getD g 0
    let others := ((srcs.map (fun z => q.hosts.getD z 0)).filter (· != host)).eraseDups
    let inRow := others.all (fun t => t / 32 == host / 32)
    let members : Nat := others.foldl (fun m t => m + 2 ^ (if inRow then t % 32 else t / 32)) 0
    let m : Mcx := { members := BitVec.ofNat 32 members, axis := !inRow, ports := 0 }
    let s1 := if others.isEmpty || host != s.ix then s
      else (chunks4k 8 off data).foldl (fun s c =>
        s.send { s.colPacket q (others.headD 0) (mkSeqx 0 g step c.1 true) st c.2 with mcx := some m }) s
    (srcs.filter (fun z => q.hosts.getD z 0 == s.ix)).foldl (fun s z => s.forwardResult q step off st data n z) s1

/-- The visible write of a result segment into a slot, with its status per line; then it is returned down the tree. Without data, it
marks the end of a fill whose length only the step tells (R271, R274). -/
def State.slotWrite (s : State) (slot off stage : Nat) (st : Status) (data : List Byte) : State :=
  let x := s.rslot slot
  if data.isEmpty then s.setRslot slot { x with full := true }
  else
    let lines := linesOf off data.length
    let s1 := (chunks4k 64 off data).foldl (fun s c =>
      let a := x.base + c.1
      let head := min c.2.length (0x1000 - a % 0x1000)
      (s.writeMem a (c.2.take head)).writeMem (a + head) (c.2.drop head)) s
    let x1 := { x with status := lines.foldl (fun m l => kset m l (worse (kgetD m l 0) st)) x.status, segs := kset x.segs off data.length }
    let s2 := s1.setRslot slot x1
    match s2.plan x.job x.plan with
    | none => s2
    | some q =>
      if q.kind == 1 || q.kind == 3 then s2.forwardResult q ((x.fill - 1) * q.depth + (slot - q.slot)) off st data 64 stage else s2

/-- A result segment of fill `fill` for a slot: written when the slot awaits that fill, held while it does not, dropped when it is past
or lost (R273, R282). -/
def State.slotResult (s : State) (q : Plan) (slot fill off stage : Nat) (st : Status) (data : List Byte) : State :=
  let x := s.rslot slot
  if x.state == .lost || x.state == .free || fill < x.fill then s
  else if x.state == .armed && fill == x.fill && !s.coll.held.any (fun h => h.slot == slot) then
    if (kget x.segs off).isSome && !data.isEmpty then s
    else s.visible 1 q.opref (.slotLines slot off stage st data) (fun s => s.slotWrite slot off stage st data) (some q.job)
  else
    let h : HeldResult := { slot := slot, stage := stage, fill := fill, off := off, status := st, data := data }
    { s with coll := { s.coll with held := s.coll.held ++ [h] } }

/-- A result of the plan's step on this host. -/
def State.ownResult (s : State) (q : Plan) (step off stage : Nat) (st : Status) (data : List Byte) : State :=
  let d := max 1 q.depth
  s.slotResult q (q.slot + step % d) (step / d + 1) off stage st data

/-- The root's result of a segment: written here and returned, or cut into shards for the hosts of the leaf stages (R274). -/
def State.rootResult (s : State) (q : Plan) (root step off : Nat) (st : Status) (data : List Byte) : State :=
  if q.kind == 2 then
    let n := max 1 q.leaves.length
    let sh := hdrResult q.header q.len / n
    (List.range n).foldl (fun s i =>
      let lo := max off (i * sh)
      let hi := min (off + data.length) ((i + 1) * sh)
      if hi ≤ lo then s
      else
        let part := (data.drop (lo - off)).take (hi - lo)
        let host := q.hosts.getD (q.leaves.getD i 0) 0
        if host == s.ix then s.ownResult q step (lo - i * sh) root st part
        else (chunks4k 8 (lo - i * sh) part).foldl (fun s c => s.send (s.colPacket q host (mkSeqx 0 root step c.1 true) st c.2)) s) s
  else s.ownResult q step off root st data

/-! ### Skew and stragglers (R279, R280) -/

/-- STRAGGLER (R470): plan, stage and index; the effective step, 0xFFFF while there is none. -/
def State.stragglerNote (s : State) (q : Plan) (g : Stage) (index step : Nat) : State :=
  let b := g.tiles.headD 0 / 16
  s.record b (pgBlock b) clsStraggler 0 (aidBlock b 0) (q.plan.toNat + g.number * 2 ^ 16 + index * 2 ^ 32 + step * 2 ^ 64) 0 0 (some q.parcel)

/-- LAG of an index in a step; a contribution that never arrived has the saturated one. -/
def Stage.lag (g : Stage) (step index : Nat) : Nat := kgetD g.lags (4096 * step + index) 0xFFFF_FFFF

/-- The index completed last in the step with a LAG of at least SKEW_THRESH × 64 ns at the calibrated frequency: 115.2 cycles each, scaled
by the trim (R28, R279). -/
def State.late (s : State) (g : Stage) (step index thresh : Nat) : Bool :=
  (kgetD g.lastIdx step 0 == index || (kget g.lags (4096 * step + index)).isNone) &&
  decide (thresh * 1152 * s.coreTrim ≤ g.lag step index * 10 * 2 ^ 24)

/-- One skew entry after a step, and the automatic arming of a spare (R279, R280). -/
def State.skewEntry (s : State) (q : Plan) (k step c : Nat) : State :=
  match s.plan q.job q.plan with
  | none => s
  | some q1 =>
    match q1.stage k with
    | none => s
    | some g =>
      match g.sources[c]? with
      | none => s
      | some x =>
        let run := if s.late g step c (hdr q.header 4 23 16) then min 15 (x.run + 1) else 0
        let entry := g.lag step c + run * 2 ^ 32 + (if x.rebound then 2 ^ 36 else 0) + step % 65536 * 2 ^ 48
        let s1 := s.writeMem (s.datum q.parcel + hdr q.header 5 45 0 + (k * 4096 + c) * 8) (leBytes 8 entry)
        let auto := hdr q.header 4 28 28 == 1 && run == hdr q.header 4 27 24 && !x.stage && x.armed.isNone
        let x1 := { x with run := run }
        match (if auto then s1.spareFor q1 else none) with
        | some r => s1.setStage q1 { g with sources := g.sources.set c { x1 with armed := some (r, true) } }
        | none =>
          let s2 := s1.setStage q1 { g with sources := g.sources.set c x1 }
          if auto then s2.stragglerNote q1 g c 0xFFFF else s2

/-- The current step moves past every step that has been emitted (R269). -/
def Stage.settle (g : Stage) (total : Nat) : Nat → Stage
  | 0 => g
  | n + 1 =>
    if total ≤ (g.emitted.filter (fun e => e.1 == g.current)).length then
      Stage.settle { g with current := g.current + 1, emitted := g.emitted.filter (fun e => e.1 != g.current) } total n
    else g

/-- Output segments of a stage in one step. -/
def Plan.outSegs (q : Plan) (g : Stage) : Nat :=
  if reduces q.kind then ceilDiv q.len q.seg else if q.kind == 3 then ceilDiv g.outLen q.seg else 1

/-- One segment of a step is emitted; when it is the step's last, the skew entries are written (R279). -/
def State.segmentDone (s : State) (q : Plan) (k step off : Nat) : State :=
  match (s.plan q.job q.plan).bind (fun q => q.stage k) with
  | none => s
  | some g =>
    let g1 := { g with emitted := g.emitted ++ [(step, off)] }
    if (g1.emitted.filter (fun e => e.1 == step)).length < q.outSegs g then s.setStage q g1
    else
      let s1 := (List.range g.n).foldl (fun s c => s.skewEntry q k step c) (s.setStage q g1)
      match (s1.plan q.job q.plan).bind (fun q => q.stage k) with
      | none => s1
      | some g2 =>
        let g3 := { g2 with began := kdel g2.began step, lags := g2.lags.filter (fun e => e.1 / 4096 != step), lastIdx := kdel g2.lastIdx step,
                            segments := g2.segments.filter (fun x => x.step != step), unsup := g2.unsup.filter (· != step) }
        s1.setStage q (g3.settle (q.outSegs g) 4)

/-! ### Combining (R251–R254) -/

/-- The elements of a byte string, of a width that fills whole bytes. -/
def colElems (dt : Nat) (bs : List Byte) : List Nat :=
  let w := elemBits dt / 8
  (List.range (bs.length / max 1 w)).map (fun i => leNat (slice bs (w * i) w))

def elemsToBytes (dt : Nat) (es : List Nat) : List Byte := es.flatMap (leBytes (elemBits dt / 8))

/-- Elements converted from a type to another; the same type stays as it is. -/
def convBytes (src dst : Nat) (bs : List Byte) : List Byte :=
  if src == dst then bs else elemsToBytes dst ((colElems src bs).map (fun c => (convElem src dst c).1))

/-- The plan's combining operation (R260). -/
def hdrOp (h : List Word) : VOp :=
  match hdr h 1 31 30 with
  | 1 => .max
  | 2 => .min
  | _ => .add

/-- combine(a, b): element by element in the combine type, or the error value with the smaller status (R251, R253). -/
def combineNodes (op : VOp) (dt : Nat) (a b : Node) : Node :=
  if a.status == stOK && b.status == stOK then
    { status := stOK, data := elemsToBytes dt (List.zipWith (fun x y => (elemOp op dt false false false false x y 0).1) (colElems dt a.data) (colElems dt b.data)) }
  else { status := worse a.status b.status, data := errorBytes a.data.length }

/-- A node is formed: it joins its sibling as soon as that stands, or moves up where no sibling can come (R251, R255). -/
def climb (op : VOp) (dt n : Nat) : Nat → List ((Nat × Nat) × Node) → Nat × Nat → Node → List ((Nat × Nat) × Node)
  | 0, l, at', x => l ++ [(at', x)]
  | fuel + 1, l, at', x =>
    let lo := at'.1
    let size := at'.2
    if n ≤ size then l ++ [(at', x)]
    else
      let plo := lo / (2 * size) * (2 * size)
      if lo == plo then
        if n ≤ lo + size then climb op dt n fuel l (plo, 2 * size) x
        else match l.find? (fun e => e.1 == (lo + size, size)) with
          | some y => climb op dt n fuel (l.filter (fun e => e.1 != (lo + size, size))) (plo, 2 * size) (combineNodes op dt x y.2)
          | none => l ++ [(at', x)]
      else match l.find? (fun e => e.1 == (plo, size)) with
        | some y => climb op dt n fuel (l.filter (fun e => e.1 != (plo, size))) (plo, 2 * size) (combineNodes op dt y.2 x)
        | none => l ++ [(at', x)]

/-- One contribution of a reduction segment (R252–R255); free values stand in for sums outside the lane's range. -/
def Segment.take (x : Segment) (h : List Word) (n c : Nat) (st : Status) (data : List Byte) (fv : BitVec 320) : Segment :=
  let y := { x with present := x.present ++ [(c, 0)], worst := worse x.worst st }
  if hdrExact h then
    if st != stOK then y
    else match fpFmt (hdrCt h) with
      | none => y
      | some f =>
        let es := colElems (hdrCt h) data
        let sums := if x.sums.isEmpty then es.map (fun _ => ({} : Lane)) else x.sums
        { y with sums := List.zipWith (fun (l : Lane) e => (l.add (f.decode e) false fv).1) sums es }
  else
    let leaf : Node := if st == stOK then { status := st, data := convBytes (hdrCt h) (hdrCombine h) data }
                       else { status := st, data := errorBytes (data.length * elemBits (hdrCombine h) / elemBits (hdrCt h)) }
    { y with nodes := climb (hdrOp h) (hdrCombine h) n 13 x.nodes (c, 1) leaf }

/-- The data of a complete segment in the type that leaves the stage: the result type from the root, the contribution type from
another stage (R252, R254). -/
def Segment.value (x : Segment) (h : List Word) (root : Bool) : List Byte :=
  let dt := if root then hdrRt h else hdrCt h
  if hdrExact h then
    match fpFmt dt with
    | none => []
    | some f => elemsToBytes dt (x.sums.map (fun l => (l.read f).1))
  else match x.nodes with
    | [] => []
    | e :: _ => convBytes (hdrCombine h) dt e.2.data

/-! ### Emission (R253, R259, R274) -/

/-- The tile that serves a segment of a stage (R267). -/
def Stage.tileOf (g : Stage) (q : Plan) (off : Nat) : Nat := g.tiles.getD (off / max 1 q.seg % max 1 g.tiles.length) 0

/-- A stage puts out one segment of a step: to the next stage's host, or as the root's result (R253, R274). After a fault of its tile it
carries the fault's status, after a loss of its staging values LOST_STATE (R282). -/
def State.emitSegment (s : State) (q : Plan) (g : Stage) (step off : Nat) (st : Status) (data : List Byte) : State :=
  let tile := if st == stLostState then stOK else kgetD g.failed (g.tileOf q off) 0
  let st1 := worse st (worse tile (if g.unsup.contains step then stUnsupported else stOK))
  let d := if st1 == stOK then data else errorBytes data.length
  let root := g.next == g.number
  let s1 := if root then
      let o := if reduces q.kind then hdrResult q.header off else off
      s.rootResult q g.number step o st1 d
    else s.send (s.colPacket q (q.hosts.getD g.next 0) (mkSeqx g.nextIdx g.next step off false) st1 d)
  s1.segmentDone q g.number step off

/-- Bytes of a reduction segment as it leaves the stage. -/
def Plan.segBytes (q : Plan) (g : Stage) (off : Nat) : Nat :=
  let n := min q.seg (q.len - off)
  if g.next == g.number then hdrResult q.header n else n

/-- A reduction segment is complete: emitted with its status (R253, R254). -/
def State.emitReduced (s : State) (q : Plan) (g : Stage) (x : Segment) : State :=
  let s1 := s.setStage q { g with segments := g.segments.filter (fun y => !(y.step == x.step && y.off == x.off)) }
  let n := q.segBytes g x.off
  s1.emitSegment q g x.step x.off x.worst (if x.worst == stOK then x.value q.header (g.next == g.number) else errorBytes n)

/-! ### ALLGATHER and FILTER (R260, R276) -/

/-- Where an index's bytes begin in the stage's output. -/
def Stage.base (g : Stage) (c : Nat) : Nat := (g.sources.take c).foldl (fun a x => a + x.len) 0

/-- The pieces (index, offset) of a contributor of `len` bytes. -/
def pieceOffs (seg len : Nat) : List Nat := (List.range (ceilDiv len (max 1 seg))).map (fun i => i * seg)

/-- Output segments of an ALLGATHER stage whose pieces are all present: emitted once each. -/
def State.emitGathered (s : State) (q : Plan) (g : Stage) (x : Segment) (o : Nat) : State :=
  let hi := min g.outLen (o + q.seg)
  let need := (List.range g.n).flatMap (fun c =>
    let b := g.base c
    let len := ((g.sources[c]?).map Source'.len).getD 0
    if b < hi && o < b + len then
      ((pieceOffs q.seg len).filter (fun k => decide (b + k < hi) && decide (o < b + min len (k + q.seg)))).map (fun k => (c, k))
    else [])
  if (g.emitted.contains (x.step, o)) || !need.all (fun e => x.present.contains e) then s
  else
    let st := need.foldl (fun a e => worse a (((x.nodes.find? (fun y => y.1 == e)).map (fun y => y.2.status)).getD stOK)) stOK
    let at' (e : Nat × Nat) : List Byte := ((x.nodes.find? (fun y => y.1 == e)).map (fun y => y.2.data)).getD []
    let bytes := need.flatMap (fun e =>
      let a := g.base e.1 + e.2
      let d := at' e
      (d.drop (o - a)).take (hi - max a o))
    s.emitSegment q g x.step o st bytes

/-- A FILTER row: contributor, ordinal, bytes. -/
structure FRow where
  c : Nat
  ord : Nat
  bytes : List Byte
  deriving DecidableEq, Repr

def FRow.key (r : FRow) : Nat := nbits (leNat (r.bytes.take 8)) 15 0
def FRow.score (r : FRow) : Nat := nbits (leNat (r.bytes.take 8)) 31 16

/-- The rows of the OK pieces of a step, by contributor and ordinal. -/
def filterRows (q : Plan) (g : Stage) (x : Segment) : List FRow :=
  let row := hdr q.header 4 37 32 * 128
  (List.range g.n).flatMap (fun c =>
    (pieceOffs q.seg q.len).flatMap (fun k =>
      match x.nodes.find? (fun e => e.1 == (c, k)) with
      | some e => if e.2.status == stOK then
          (List.range (e.2.data.length / max 1 row)).map (fun i => { c := c, ord := k / max 1 row + i, bytes := slice e.2.data (row * i) row })
        else []
      | none => []))

/-- What a FILTER step leaves: count words, placed rows with their position, whether a KEY was out of range (R276). -/
structure FilterOut where
  counts : KMap (Nat × Nat) := []
  rows : List (Nat × List Byte) := []
  bad : Bool := false

/-- A row's place in the descending order of scores, ties by contributor and ordinal. -/
def rankAbove (a b : FRow) : Bool :=
  elemCmp 4 1 a.score b.score || (elemCmp 0 1 a.score b.score && (a.c < b.c || (a.c == b.c && a.ord < b.ord)))

/-- The step's rows under the plan's mode (R276). -/
def filterStep (h : List Word) (n : Nat) (rows : List FRow) : FilterOut :=
  let cap := hdr h 7 63 48
  match hdr h 7 25 24 with
  | 0 => rows.foldl (fun o r =>
      if hdr h 7 40 32 ≤ r.key then { o with bad := true }
      else
        let w := r.key * n + r.c
        let v := kgetD o.counts w (0, 0)
        if v.1 < cap then { o with counts := kset o.counts w (v.1 + 1, v.2), rows := o.rows ++ [(w * cap + v.1, r.bytes)] }
        else { o with counts := kset o.counts w (v.1, v.2 + 1) }) {}
  | 1 => rows.foldl (fun o r =>
      if !elemCmp 5 1 r.score (hdr h 7 15 0) then o
      else
        let v := kgetD o.counts r.c (0, 0)
        if v.1 < cap then { o with counts := kset o.counts r.c (v.1 + 1, v.2), rows := o.rows ++ [(r.c * cap + v.1, r.bytes)] }
        else { o with counts := kset o.counts r.c (v.1, v.2 + 1) }) {}
  | _ =>
    let real := rows.filter (fun r => elemCmp 0 1 r.score r.score)
    let ranked := real.map (fun r => ((real.filter (fun t => rankAbove t r)).length, r.bytes))
    let kept := ranked.filter (fun e => e.1 < hdr h 7 22 16)
    { counts := [(0, (kept.length, 0))], rows := kept }

/-- The count area: KEPT and DROPPED per word; a DROPPED that its field cannot hold is a free value (R276). -/
def countBytes (h : List Word) (n free : Nat) (o : FilterOut) : List Byte :=
  let size := countArea h n
  (List.range (size / 4)).flatMap (fun w =>
    let v := kgetD o.counts w (0, 0)
    leBytes 4 (v.1 % 65536 + (if v.2 < 65536 then v.2 else free) * 65536))

/-- A FILTER step ends: its counts and rows are placed in the slot (R276). -/
def State.emitFilter (s : State) (q : Plan) (g : Stage) (x : Segment) : State :=
  let h := q.header
  let out := filterStep h g.n (filterRows q g x)
  let st := worse x.worst (worse (g.failed.foldl (fun a e => worse a e.2) stOK) (if g.unsup.contains x.step then stUnsupported else stOK))
  let tooMany := out.counts.any (fun e => 65536 ≤ e.2.2)
  let s0 := s.setStage q { g with segments := g.segments.filter (fun y => y.step != x.step) }
  let s1 := if tooMany then s0.took else s0
  let area := countArea h g.n
  let row := hdr h 4 37 32 * 128
  let s2 := s1.ownResult q x.step 0 g.number st (countBytes h g.n (s.freeNat 16) out)
  let s3 := out.rows.foldl (fun s r => s.ownResult q x.step (area + r.1 * row) g.number st r.2) s2
  let s4 := s3.ownResult q x.step 0 g.number st []
  let b := g.tiles.headD 0 / 16
  let s5 := if out.bad then s4.record b (pgBlock b) clsDiscard 0 (aidBlock b 0) (4 + q.plan.toNat * 2 ^ 16 + x.step % 65536 * 2 ^ 64) 0 0 (some q.parcel)
            else s4
  s5.segmentDone q g.number x.step 0

/-- Every piece of a FILTER or CUSTOM step is present. -/
def allPieces (q : Plan) (g : Stage) (x : Segment) : Bool :=
  (List.range g.n).all (fun c => (pieceOffs q.seg q.len).all (fun k => x.present.contains (c, k)))

/-! ### Contributions (R269) -/

/-- The segment of a step and offset, a new one when none stands. -/
def Stage.segment (g : Stage) (step off : Nat) : Segment :=
  (g.segments.find? (fun x => x.step == step && x.off == off)).getD { step := step, off := off }

def Stage.setSegment (g : Stage) (x : Segment) : Stage :=
  { g with segments := g.segments.filter (fun y => !(y.step == x.step && y.off == x.off)) ++ [x] }

/-- The endpoint or stage that an index accepts for a step (R269, R281). -/
def Source'.accepts (x : Source') (hosts : List Nat) (step : Nat) (p : Packet) : Bool :=
  if x.stage then p.agent == agPlan && p.src.toNat == hosts.getD x.ref 1024
  else
    let ref := ((x.old.find? (fun o => decide (step < o.2))).map Prod.fst).getD x.ref
    p.agent.toNat < 2048 && p.src.toNat * 128 + p.agent.toNat % 128 == ref

/-- The absolute number of a step field, when it is the current step or the next one (R257, R269). -/
def Stage.stepOf (g : Stage) (f : Nat) : Option Nat :=
  if f == g.current % 65536 then some g.current else if f == (g.current + 1) % 65536 then some (g.current + 1) else none

/-- BYTE_OFF and LEN match the plan's segmentation of the contributor's data (R250). -/
def segmented (q : Plan) (len : Nat) (p : Packet) : Bool :=
  colOff p % max 1 q.seg == 0 && colOff p < len && p.payload.length == min q.seg (len - colOff p)

/-- The step's first arrival, the index's LAG and the last index (R270, R279). -/
def State.markArrival (s : State) (g : Stage) (step c : Nat) : Stage :=
  let began := if (kget g.began step).isSome then g.began else kset g.began step s.sw.cycle
  { g with began := began, lags := kset g.lags (4096 * step + c) (min 0xFFFF_FFFF (s.sw.cycle - kgetD began step 0)),
           lastIdx := kset g.lastIdx step c }

/-- An accepted contribution of a reduction (R251–R255), with the status it is merged with. -/
def State.colReduce (s : State) (q : Plan) (g : Stage) (step : Nat) (p : Packet) (st : Status) : State :=
  let x := (g.segment step (colOff p)).take q.header g.n (colIndex p) st p.payload (BitVec.ofNat 320 (s.freeNat 320))
  let s1 := if hdrExact q.header then s.took else s
  let g1 := g.setSegment x
  if x.present.length == g.n then (s1.setStage q g1).emitReduced q g1 x else s1.setStage q g1

/-- An accepted contribution of a placing stage or a filter: a piece is kept; what it completes is emitted. -/
def State.colPlace (s : State) (q : Plan) (g : Stage) (step : Nat) (p : Packet) (st : Status) : State :=
  let key := (colIndex p, colOff p)
  let x0 := g.segment step 0
  let nd : Node := { status := st, data := if st == stOK then p.payload else errorBytes p.payload.length }
  let x := { x0 with present := x0.present ++ [key], worst := worse x0.worst st, nodes := x0.nodes ++ [(key, nd)] }
  let g1 := g.setSegment x
  let s1 := s.setStage q g1
  if q.kind == 3 then
    (pieceOffs q.seg g.outLen).foldl (fun s o =>
      match (s.plan q.job q.plan).bind (fun q => q.stage g.number) with
      | some g2 => if g2.segments.any (fun y => y.step == step) then s.emitGathered q g2 x o else s
      | none => s) s1
  else if allPieces q g1 x then s1.emitFilter q g1 x else s1

/-- The arrival entry of a contribution, its ADDR still 0 (R197). -/
def arrivalOf (p : Packet) : Arrival :=
  { s12 := BitVec.ofNat 64 (p.payload.length * 2 ^ 19 + colIndex p * 2 ^ 32 + (colStatus p).toNat * 2 ^ 44 + p.flags.toNat * 2 ^ 48),
    s13 := BitVec.ofNat 64 (colOff p + colStep p * 2 ^ 32) }

/-- The binding that serves a contribution (R267). -/
def Stage.bindOf (g : Stage) (q : Plan) (p : Packet) : Option (Nat × Nat × Nat) := g.binds.find? (fun b => b.1 == g.tileOf q (colOff p))

/-- An accepted contribution of a CUSTOM stage: its arrival entry goes to the kernel of its tile (R196, R197). -/
def State.colKernel (s : State) (q : Plan) (g : Stage) (step : Nat) (p : Packet) : State :=
  let key := (colIndex p, colOff p)
  let x0 := g.segment step 0
  let x := { x0 with present := x0.present ++ [key] }
  let g1 := g.setSegment x
  let s1 := s.setStage q g1
  let s2 := match g.bindOf q p with
    | some b => s1.arrive b.1 b.2.1 (arrivalOf p) p.payload
    | none => s1
  if allPieces q g1 x then s2.segmentDone q g.number step 0 else s2

/-- A contribution passes through the staging of the tile that serves it (R197, R199). -/
def State.colLand (s : State) (q : Plan) (g : Stage) (p : Packet) : State × Status :=
  match g.bindOf q p with
  | some b => s.land b.1 b.2.1 (arrivalOf p) p.payload
  | none => (s, colStatus p)

/-- The contribution is already present in its segment and step, or its segment has been emitted (R255). -/
def colPresent (q : Plan) (g : Stage) (step : Nat) (p : Packet) : Bool :=
  if reduces q.kind then g.emitted.contains (step, colOff p) || (g.segment step (colOff p)).present.contains (colIndex p, 0)
  else g.emitted.contains (step, 0) && q.kind != 3 || (g.segment step 0).present.contains (colIndex p, colOff p) ||
    (q.outSegs g ≤ (g.emitted.filter (fun e => e.1 == step)).length)

/-- A contribution of index c for a step has arrived; what the next rebinding asks for is kept (R281). -/
def Stage.hear (g : Stage) (c step from' : Nat) : Stage :=
  match g.sources[c]? with
  | none => g
  | some x => if step < from' then g else { g with sources := g.sources.set c { x with seen := insertNew x.seen step } }

/-- A contribution reaches a live stage: the checks of R269 in their order. -/
def State.colStageCheck (s : State) (q : Plan) (g0 : Stage) (p : Packet) : State :=
  let b := g0.tileOf q (colOff p) / 16
  match g0.sources[colIndex p]?, g0.stepOf (colStep p) with
  | some x, some step =>
    if !x.accepts q.hosts step p then s.colDiscard b p
    else
      let g := g0.hear (colIndex p) step q.benchmarks
      if !segmented q x.len p then
        let began := if (kget g.began step).isSome then g.began else kset g.began step s.sw.cycle
        s.setStage q { g with unsup := insertNew g.unsup step, began := began }
      else if colPresent q g step p then s.colDiscard b p
      else
        let g1 := s.markArrival g step (colIndex p)
        if q.kind == 6 then s.colKernel q g1 step p
        else
          let r := s.colLand q g1 p
          if reduces q.kind then r.1.colReduce q g1 step p r.2
          else if q.kind == 4 then r.1
          else r.1.colPlace q g1 step p r.2
  | _, _ => s.colDiscard b p

/-! ### Returned results (R274) -/

/-- Step that the plan's ring awaits next on this host. -/
def State.ringStep (s : State) (q : Plan) : Nat :=
  (List.range q.depth).foldl (fun a r => min a (((s.rslot (q.slot + r)).fill - 1) * q.depth + r))
    (((s.rslot q.slot).fill - 1) * q.depth)

/-- A result segment arrives from the host of the stage above: checked, written to the slot and returned further (R274). -/
def State.colResultArrives (s : State) (q : Plan) (p : Packet) : State :=
  let b := ((q.stages.flatMap Stage.tiles).headD 0) / 16
  let base := s.ringStep q
  let ahead := (colStep p + 65536 - base % 65536) % 65536
  let due := (s.rslot q.slot).due
  let ok := p.agent == agPlan && p.src.toNat == q.hosts.getD (colStage p) 1024 && p.src.toNat != s.ix && 0 < q.depth && ahead < 32768 &&
    colOff p + p.payload.length ≤ due && !p.payload.isEmpty
  if ok then s.ownResult q (base + ahead) (colOff p) (colStage p) (colStatus p)
      (if colStatus p == stOK then p.payload else errorBytes p.payload.length)
  else s.colDiscard b p

/-- A COL packet reaches this Tiolo (R269, R274). -/
def State.cold (s0 : State) (p0 : Packet) : State :=
  let s := (s0.heed p0).1
  let p := (s0.heed p0).2
  match s.plan p.job p.flow with
  | none => s.colDiscard 0 p
  | some q =>
    let s1 := s.tick (aidBlock (((q.stages.flatMap Stage.tiles).headD 0) / 16) 0)
    if colResult p then s1.colResultArrives q p
    else match q.stage (colStage p) with
      | none => s1.colDiscard 0 p
      | some g => s1.colStageCheck q g p

/-- COLD (R269). -/
def execCold (p : Packet) (s : State) : Host.Outcome State Fault Refusal := .next (s.cold p)

/-! ### Deadlines (R270) -/

/-- An index is absent from a reduction segment: counted present with TIMEOUT. -/
def Segment.expire (x : Segment) : Segment := { x with worst := worse x.worst stTimeout }

/-- The stage's current and started steps: the deadline of one comes (R270). -/
def State.stepDeadline (s : State) (job plan : BitVec 16) (k : Nat) (step : BitVec 16) : State :=
  match s.plan job plan with
  | none => s
  | some q =>
    match q.stage k with
    | none => s
    | some g =>
      match g.stepOf step.toNat with
      | none => s
      | some a =>
        if (kget g.began a).isNone then s
        else if reduces q.kind then
          ((pieceOffs q.seg q.len).filter (fun o => !g.emitted.contains (a, o))).foldl (fun s o =>
            match (s.plan job plan).bind (fun q => q.stage k) with
            | some g1 => s.emitReduced q g1 (g1.segment a o).expire
            | none => s) s
        else
          let x0 := g.segment a 0
          let missing := (List.range g.n).flatMap (fun c =>
            ((pieceOffs q.seg (((g.sources[c]?).map Source'.len).getD 0)).filter (fun o => !x0.present.contains (c, o))).map (fun o => (c, o)))
          let nodes := missing.map (fun e => (e, ({ status := stTimeout, data := errorBytes (min q.seg ((((g.sources[e.1]?).map Source'.len).getD 0) - e.2)) } : Node)))
          let x := { x0 with present := x0.present ++ missing, nodes := x0.nodes ++ nodes, worst := worse x0.worst stTimeout }
          let g1 := g.setSegment x
          let s1 := s.setStage q g1
          if q.kind == 3 then
            (pieceOffs q.seg g.outLen).foldl (fun s o =>
              match (s.plan job plan).bind (fun q => q.stage k) with
              | some g2 => if g2.segments.any (fun y => y.step == a) then s.emitGathered q g2 x o else s
              | none => s) s1
          else if q.kind == 5 then s1.emitFilter q g1 x
          else if q.kind == 6 then s1.segmentDone q k a 0
          else s

def execStepDeadline (job plan : BitVec 16) (stage : Fin 64) (step : BitVec 16) (s : State) : Host.Outcome State Fault Refusal :=
  .next (s.stepDeadline job plan stage.val step)

/-! ### Result slots: fills and reads (R271–R273) -/

/-- Every line of the slot's fill has been written. -/
def RSlot.filled (x : RSlot) : Bool := x.full || (0 < x.due && x.due ≤ x.segs.foldl (fun a e => a + e.2) 0)

/-- OPREF of the plan that holds a slot. -/
def State.slotOpref (s : State) (x : RSlot) : BitVec 32 := ((s.plan x.job x.plan).map Plan.opref).getD 0

/-- No written segment of the slot waits for its mirror answer. -/
def State.slotSettled (s : State) (slot : Nat) : Bool :=
  !s.recov.ops.any (fun o => o.acts.any (fun a => match a with
    | .slotLines n _ _ _ _ => n == slot
    | _ => false))

/-- SLOT_FILL_DONE: the slot is READY and its ready stake is released by 1 at HALL scope (R271). -/
def State.slotFillDone (s : State) (slot : Nat) : State :=
  let x := s.rslot slot
  if x.state == .armed && x.filled && s.slotSettled slot then
    let v := (s.stake x.stake).value + 1
    (s.setRslot slot { x with state := .ready }).visible 1 (s.slotOpref x) (.releaseSet x.stake v) (fun s => s.srelLocal x.stake 1 2 agPlan) (some x.job)
  else s

def execSlotFillDone (slot : Fin 4096) (s : State) : Host.Outcome State Fault Refusal := .next (s.slotFillDone slot.val)

/-- The view, slot and offset of a result-window access (R53). -/
def slotPlace (p : Packet) : Option (Nat × Nat × Nat) :=
  match placeOf (gfaOff p.gfa) with
  | .result v sl o => some (v, sl, o)
  | _ => none

/-- The check of a result-slot access: a load of the slot's parcel within its length and one page; a lost slot gives LOST_STATE
(R49, R54, R272). -/
def State.slotCheck (s : State) (sl o : Nat) (p : Packet) : Status :=
  let x := s.rslot sl
  let mine := x.state != .free && s.binds x.parcel p.job.toNat
  let revoked := mine && s.pclState x.parcel == 5
  statusOf [(!mine || x.lines * 128 < o + p.len, stAccessFault), (revoked, stRevoked), (mine && x.state == .lost, stLostState),
    (p.opcode.toNat == opWRN || p.opcode.toNat == opWRI || p.opcode.toNat == opATM, stAccessFault),
    (!asksData p.opcode.toNat || 0x1000 < o % 0x1000 + p.len, stUnsupported)]

/-- A READY slot is read: the data and the worst line status of the read (R272). -/
def State.slotData (s : State) (x : RSlot) (o : Nat) (p : Packet) : State :=
  let st := (linesOf o p.len).foldl (fun a l => worse a (kgetD x.status l 0)) stOK
  let st1 := if s.anyPoison (x.base + o) p.len then worse st stPoison else st
  s.complete p st1 (s.readSpan (x.base + o) p.len)

/-- The slot's answer to a read in its present state; none while an ARMED slot makes a wait read wait. -/
def State.slotAnswer (s : State) (sl o : Nat) (wait : Bool) (p : Packet) : Option State :=
  let x := s.rslot sl
  let st := s.slotCheck sl o p
  if st != stOK then some ((s.countRevoked st x.parcel).complete p st)
  else match x.state with
    | .ready => some (s.slotData x o p)
    | .lost => some (s.complete p stLostState)
    | _ => if wait then none else some (s.complete p stNotReady)

/-- SLOT_PLAIN_READ (R272). -/
def State.slotPlainRead (s : State) (p : Packet) : State :=
  match slotPlace p with
  | some (0, sl, o) => (s.slotAnswer sl o false p).getD s
  | _ => s.complete p stAccessFault

def execSlotPlainRead (p : Packet) (s : State) : Host.Outcome State Fault Refusal := .next (s.slotPlainRead p)

def State.setWaits (s : State) (l : List Packet) : State := { s with coll := { s.coll with waits := l } }

/-- SLOT_WAIT_READ: served, or waits for the slot (R272). -/
def State.slotWaitRead (s : State) (p : Packet) : State :=
  match slotPlace p with
  | some (1, sl, o) => (s.slotAnswer sl o true p).getD (s.setWaits (s.coll.waits ++ [p]))
  | _ => s.complete p stAccessFault

def execSlotWaitRead (p : Packet) (s : State) : Host.Outcome State Fault Refusal := .next (s.slotWaitRead p)

/-- SLOT_WAIT_READ_SERVED: the k-th waiting read is served when its slot no longer makes it wait (R272). -/
def State.slotWaitServed (s : State) (k : Nat) : State :=
  match s.coll.waits[k]? with
  | none => s
  | some p =>
    match slotPlace p with
    | some (_, sl, o) => (match s.slotAnswer sl o true p with
      | some s1 => s1.setWaits (s1.coll.waits.eraseIdx k)
      | none => s)
    | none => s

def execSlotWaitReadServed (k : Nat) (s : State) : Host.Outcome State Fault Refusal := .next (s.slotWaitServed k)

/-- SLOT_WAIT_READ_TIMEOUT: a waiting read completes with TIMEOUT (R272). -/
def State.slotWaitTimeout (s : State) (k : Nat) : State :=
  match s.coll.waits[k]? with
  | none => s
  | some p => (s.complete p stTimeout).setWaits (s.coll.waits.eraseIdx k)

def execSlotWaitReadTimeout (k : Nat) (s : State) : Host.Outcome State Fault Refusal := .next (s.slotWaitTimeout k)

/-- The pages of a slot. -/
def RSlot.pages (x : RSlot) : Nat := ceilDiv (x.lines * 128) 0x1000

/-- Each page that a consume-read touches is counted once, up to CONSUMERS (R273). -/
def RSlot.consume (x : RSlot) (o len : Nat) : RSlot :=
  let ps := (List.range x.pages).filter (fun i => decide (o / 0x1000 ≤ i) && decide (i ≤ (o + max len 1 - 1) / 0x1000))
  { x with counts := ps.foldl (fun m i => kset m i (min x.consumers (kgetD m i 0 + 1))) x.counts }

def RSlot.consumed (x : RSlot) : Bool := (List.range x.pages).all (fun i => kgetD x.counts i 0 == x.consumers)

/-- SLOT_CONSUME_READ: the data; the last count re-arms the slot for its next fill, or frees it (R272, R273). -/
def State.slotConsumeRead (s : State) (p : Packet) : State :=
  match slotPlace p with
  | some (2, sl, o) =>
    let x := s.rslot sl
    let s1 := (s.slotAnswer sl o false p).getD s
    if s.slotCheck sl o p != stOK || x.state != .ready then s1
    else
      let y := x.consume o p.len
      if !y.consumed then s1.setRslot sl y
      else if y.stopped then s1.freeRslot sl
      else s1.setRslot sl { y with state := .armed, fill := y.fill + 1, status := [], segs := [], full := false, counts := [] }
  | _ => s.complete p stAccessFault

def execSlotConsumeRead (p : Packet) (s : State) : Host.Outcome State Fault Refusal := .next (s.slotConsumeRead p)

/-- RESULT_HOLD_RELEASE: results held for a slot that has re-armed for their fill are written (R273). -/
def State.resultHoldRelease (s : State) (slot : Nat) : State :=
  let x := s.rslot slot
  if x.state != .armed then s
  else
    let mine := s.coll.held.filter (fun h => h.slot == slot && h.fill == x.fill)
    let s1 : State := { s with coll := { s.coll with held := s.coll.held.filter (fun h => !(h.slot == slot && h.fill == x.fill)) } }
    mine.foldl (fun s h =>
      s.visible 1 (s.slotOpref x) (.slotLines slot h.off h.stage h.status h.data) (fun s => s.slotWrite slot h.off h.stage h.status h.data) (some x.job)) s1

def execResultHoldRelease (slot : Fin 4096) (s : State) : Host.Outcome State Fault Refusal := .next (s.resultHoldRelease slot.val)

/-! ### GATHER_INDEXED (R275) -/

/-- An index-list entry is well formed: aligned, and within one 4 KiB page (R275). -/
def gatherEntryOk (e : Nat) : Bool := nbits e 6 0 == 0 && nbits e 11 0 + (nbits e 68 64 + 1) * 128 ≤ 0x1000

/-- The purpose of a row's read. -/
def gatherKey (q : Plan) : Nat := q.job.toNat * 65536 + q.plan.toNat

/-- A gather step ends once every row has been read: the fill is whole, the step is emitted, and the input stake is acquired for the next
one. -/
def State.gatherEnds (s : State) (q : Plan) (k : Nat) : State :=
  match (s.plan q.job q.plan).bind (fun q => q.stage k) with
  | none => s
  | some g =>
    if !g.rows.isEmpty then s
    else
      let s1 := (s.ownResult q g.current 0 k stOK []).segmentDone q k g.current 0
      match s1.plan q.job q.plan with
      | some q1 => if q1.stopping then s1 else s1.gatherAcquires q1 (g.current + 1)
      | none => s1

/-- One row of a step: read uncached, or written as the error value when its entry is malformed, leaves the slot, or is served by a tile
whose context has faulted (R275, R282). -/
def State.gatherRow (s : State) (q : Plan) (g : Stage) (step i : Nat) (e off : Nat) (poison : Bool) : State :=
  let bytes := (nbits e 68 64 + 1) * 128
  let room := hdrSlotLines q.header * 128 - off
  let st := worse (if poison then stPoison else if !gatherEntryOk e || room < bytes then stUnsupported else stOK)
    (kgetD g.failed (g.tiles.getD (i % max 1 g.tiles.length) 0) 0)
  if st != stOK then
    if room == 0 then s else s.ownResult q step off g.number st (errorBytes (min bytes room))
  else
    let gfa := BitVec.ofNat 56 e
    let s1 := s.modPlan q.job q.plan (fun q => match q.stage g.number with
      | some g => q.setStage { g with rows := kset g.rows i (off, bytes) }
      | none => q)
    let r := s1.coherentAt gfa
    r.1.issue { opcode := BitVec.ofNat 8 (if r.2 then opRDU else opRDN), len := bytes, tid := BitVec.ofNat 16 (s1.freeTid agPlan), job := q.job,
                gfa := gfa, dst := BitVec.ofNat 17 (gfaHome gfa * 128), src := BitVec.ofNat 10 s.ix, agent := agPlan } (.gather (gatherKey q) i)

/-- The rows of a step, in list order, with the offset each is packed at. -/
def State.gatherRows (s : State) (q : Plan) (g : Stage) (step at' : Nat) : Nat → Nat → Nat → State
  | 0, _, _ => s
  | n + 1, i, off =>
    let e := leNat (s.readMem (at' + 16 * i) 16)
    let bad := s.poisoned (at' + 16 * i)
    (s.gatherRow q g step i e off bad).gatherRows q g step at' n (i + 1) (off + (nbits e 68 64 + 1) * 128)

/-- The acquires of a step's input stake by the stage's bound contexts: their worst status, once all have completed (R275). -/
def State.inputStatus (s : State) (g : Stage) : Option Status :=
  g.binds.foldl (fun a b => match a, (s.ctx b.1 b.2.2).input with
    | some x, some y => some (worse x y)
    | _, _ => none) (some stOK)

/-- The bound contexts take their answers. -/
def State.inputTaken (s : State) (g : Stage) : State := g.binds.foldl (fun s b => s.setCtx b.1 b.2.2 { s.ctx b.1 b.2.2 with input := none }) s

/-- GATHER_STEP_START: the acquires of the input stake have completed: the rows are read, or every line carries the status with which they
failed (R275, log 201). -/
def State.gatherStart (s : State) (job plan : BitVec 16) (timedOut : Bool) : State :=
  match s.plan job plan with
  | none => s
  | some q =>
    match q.stages with
    | g :: _ =>
      match s.inputStatus g with
      | none => s
      | some st =>
        if q.kind != 4 || q.stopping || !g.began.isEmpty || !g.rows.isEmpty || (st != stOK) != timedOut then s
        else
          let s1 := (s.inputTaken g).setStage q { g with began := kset g.began g.current s.sw.cycle }
          if timedOut then
            let s2 := (List.range (hdrSlotPages q.header)).foldl (fun s i =>
              s.ownResult q g.current (0x1000 * i) g.number st (errorBytes (min 0x1000 (hdrSlotLines q.header * 128 - 0x1000 * i)))) s1
            s2.gatherEnds q g.number
          else
            let n := hdr q.header 7 63 48
            let at' := s.datum q.parcel + hdr q.header 7 45 0 + g.current % max 1 q.depth * n * 16
            (s1.gatherRows q g g.current at' n 0 0).gatherEnds q g.number
    | [] => s

def execGatherStepStart (job plan : BitVec 16) (timedOut : Bool) (s : State) : Host.Outcome State Fault Refusal :=
  .next (s.gatherStart job plan timedOut)

/-- A row's completion: its lines are written with its status (R275). -/
def State.gatherCmp (s : State) (key row : Nat) (c : Packet) : State :=
  match s.coll.plans.find? (fun q => gatherKey q == key) with
  | none => s
  | some q =>
    match q.stages with
    | g :: _ =>
      (match kget g.rows row with
      | none => s
      | some (off, bytes) =>
        let st := if c.poi then worse c.status stPoison else c.status
        let g1 := { g with rows := kdel g.rows row }
        ((s.setStage q g1).ownResult q g.current off g.number st (if st == stOK then slice c.payload 0 bytes else errorBytes bytes)).gatherEnds q g.number)
    | [] => s

/-! ### Rebinding at a benchmark (R281) -/

/-- The effective step of an armed index, for a benchmark that begins step `b`: `b`, unless a contribution for it has arrived. -/
def effectiveStep (x : Source') (b : Nat) : Nat := if x.seen.contains b then b + 1 else b

/-- An armed index takes its spare; waiting REBINDs of it complete with E, an automatic one is recorded (R281). -/
def State.rebindIndex (s : State) (q0 : Plan) (k b c : Nat) : State :=
  match s.plan q0.job q0.plan with
  | none => s
  | some q =>
    match q.stage k with
    | none => s
    | some g =>
      match g.sources[c]? with
      | none => s
      | some x =>
        match x.armed with
        | none => s
        | some (r, auto) =>
          let full := effectiveStep x b
          let e := full % 65536
          let x1 := { x with ref := r, old := x.old.filter (fun o => decide (g.current < o.2)) ++ [(x.ref, full)], armed := none, rebound := true }
          let s1 := s.setStage q { g with sources := g.sources.set c x1 }
          let s2 := if auto then s1.stragglerNote q g c e else s1
          (s2.coll.cmds.filter (fun d => !d.recording && d.op == 3 && d.req.job == q.job && d.plan == q.plan && d.stage == k && d.index == c)).foldl
            (fun s d => s.planEnd { d with value := e } stOK 0) s2

/-- The next step begins; which contributions of earlier ones have arrived is not asked any more. -/
def Plan.nextBenchmark (q : Plan) : Plan :=
  { q with benchmarks := q.benchmarks + 1,
           stages := q.stages.map (fun g => { g with sources := g.sources.map (fun x => { x with seen := x.seen.filter (fun k => decide (q.benchmarks < k)) }) }) }

/-- A benchmark of a job tag reaches the host: armed rebindings take effect, and the next step begins (R281). -/
def State.planBenchmark (s : State) (job : BitVec 16) : State :=
  (s.coll.plans.filter (fun q => q.job == job)).foldl (fun s q =>
    let s1 := q.stages.foldl (fun s g => (List.range g.n).foldl (fun s c =>
      if ((g.sources[c]?).bind Source'.armed).isSome then s.rebindIndex q g.number q.benchmarks c else s) s) s
    s1.modPlan q.job q.plan Plan.nextBenchmark) s

/-- Every slot of the parcels whose slot state was in lost T0 becomes LOST (R282). -/
def State.loseSlots (s : State) (which : RSlot → Bool) : State :=
  s.setSlots (s.coll.slots.map (fun e => if e.2.state != .free && which e.2 then (e.1, { e.2 with state := .lost }) else e))

/-! ### Loss of staging values (R259, R282) -/

/-- The values of a segment that stood in a tile's staging are lost: whatever else arrives, it carries LOST_STATE. -/
def Segment.lose (x : Segment) (q : Plan) (g : Stage) (t : Nat) : Segment :=
  let gone (off : Nat) : Bool := g.tileOf q off == t
  let lost (n : Node) : Node := { status := stLostState, data := errorBytes n.data.length }
  if reduces q.kind then
    if gone x.off && !x.present.isEmpty then
      { x with worst := worse x.worst stLostState, nodes := x.nodes.map (fun e => (e.1, lost e.2)), sums := [] }
    else x
  else if x.nodes.any (fun e => gone e.1.2) then
    { x with worst := worse x.worst stLostState, nodes := x.nodes.map (fun e => (e.1, if gone e.1.2 then lost e.2 else e.2)) }
  else x

/-- The staging values that a tile holds for steps in progress are lost (R282). -/
def State.loseStaging (s : State) (t : Nat) : State :=
  s.setPlans (s.coll.plans.map (fun q => { q with stages := q.stages.map (fun g =>
    if g.binds.any (fun b => b.1 == t) then { g with segments := g.segments.map (fun x => x.lose q g t) } else g) }))

/-- Every live plan of a parcel is stopped (R440 step 2). -/
def State.stopPlans (s : State) (n : Nat) : State :=
  s.setPlans (s.coll.plans.map (fun q => if q.parcel == n then q.stop else q))

/-- The result slots and plan commands that a released parcel leaves. -/
def State.dropPlans (s : State) (n : Nat) : State :=
  let s1 := s.setSlots (s.coll.slots.filter (fun e => e.2.parcel != n))
  s1.setPlanCmds (s1.coll.cmds.filter (fun c => c.parcel != n))

end Sys2Proof.Machine
end

