-- ==== Sys2Proof/Machine/Fec.lean ====
section
/-!
DEFINITION. The frame's coding (R350, R352): the Karair FEC over GF(2^10), its symbols on the lanes as PAM4 levels, and CRC-64.
-/
namespace Sys2Proof.Machine

/-! ### The field GF(2^10) and its polynomials (R350) -/

/-- x · α in the field of x^10 + x^3 + 1. -/
def gfNext (a : Nat) : Nat := if a.testBit 9 then (2 * a) ^^^ 0x409 else 2 * a

/-- The product of two field elements. -/
def gfMul (a b : Nat) : Nat := (List.range 10).foldl (fun r i => if b.testBit (9 - i) then gfNext r ^^^ a else gfNext r) 0

/-- α^n. -/
def gfExp (n : Nat) : Nat := (List.range n).foldl (fun a _ => gfNext a) 1

/-- a^(2^10 − 2), the inverse of a non-zero element. -/
def gfInv (a : Nat) : Nat := ((List.range 9).foldl (fun q _ => let x := gfMul q.1 q.1; (x, gfMul q.2 x)) (a, 1)).2

/-- A polynomial, lowest coefficient first, at x. -/
def gfEval (p : List Nat) (x : Nat) : Nat := p.foldr (fun c r => c ^^^ gfMul r x) 0

/-- The sum of two polynomials. -/
def gfAdd : List Nat → List Nat → List Nat
  | [], q => q
  | p, [] => p
  | a :: p, b :: q => (a ^^^ b) :: gfAdd p q

/-- g(x), the product of x − α^j for j = 0 to 15, lowest coefficient first. -/
def rsGen : List Nat := (List.range 16).foldl (fun g j => gfAdd (0 :: g) (g.map (fun c => gfMul c (gfExp j)))) [1]

/-- α^k · (g(x) − x^16) for k = 0 to 9, each with coefficient i at bits [10i + 9 : 10i]. -/
def rsGenRows : List Nat := [
  0x8e226bb2d4a2bedba01b3326936a53736eaf0378,
  0x1e445745a1477d376436660db6d0afe69dde26f9,
  0x3c88ae8b428ebafec86ccc1b6da15ecf7bac6dfb,
  0x79114d368d1f757db4d89a76cb66bc9cf7d8fff6,
  0xf2228a4d133eaa7b4db036ed16ed713bef31dfe5,
  0xe64594be267d1476bf606d9abddae2779ef3bbc3,
  0xcecb297845fa28ed7ac9db356b95cdef3de7738f,
  0x9fd642d48af6515ad59bb46a570f9adc7b5ee317,
  0x3dec85a914eee2a58f366ad43e1b3dbaf63de627,
  0x7b999b5228dfc5db1a65d5a86c167377ecfbec47]

/-- f · (g(x) − x^16), packed as the rows are. -/
def rsFeedback (f : Nat) : Nat :=
  (rsGenRows.foldl (fun (q : Nat × Nat) row => (q.1 + 1, if f.testBit q.1 then q.2 ^^^ row else q.2)) (0, 0)).2

/-- The 16 parity symbols p15 down to p0 of message symbols in sending order: the remainder of m(x) · x^16 divided by g(x). -/
def rsParity (m : List Nat) : List Nat :=
  let r := m.foldl (fun r c => (r % 2 ^ 150 * 2 ^ 10) ^^^ rsFeedback ((r / 2 ^ 150) ^^^ c)) 0
  (List.range 16).map (fun i => r / 2 ^ (10 * (15 - i)) % 2 ^ 10)

/-- The codeword of 512 message symbols. -/
def rsEncode (m : List Nat) : List Nat := m ++ rsParity m

/-! ### Decoding: up to 8 symbol errors are corrected (R350) -/

/-- The values of a received word, highest coefficient first, at α^0 to α^15. -/
def rsSyndromes (w : List Nat) : List Nat :=
  (List.range 16).map (fun j => let a := gfExp j; w.foldl (fun r c => gfMul r a ^^^ c) 0)

/-- A step of the search for the error locator: locator, the one before its last change, its degree, the shift and the discrepancy of
that change. -/
structure Locator where
  lam : List Nat := [1]
  prev : List Nat := [1]
  deg : Nat := 0
  shift : Nat := 1
  last : Nat := 1

/-- One more syndrome enters the locator. -/
def Locator.next (syn : List Nat) (x : Locator) (n : Nat) : Locator :=
  let d := (List.range (x.deg + 1)).foldl (fun a i => a ^^^ gfMul (x.lam.getD i 0) (if i ≤ n then syn.getD (n - i) 0 else 0)) 0
  if d == 0 then { x with shift := x.shift + 1 }
  else
    let k := gfMul d (gfInv x.last)
    let lam := gfAdd x.lam (List.replicate x.shift 0 ++ x.prev.map (gfMul k))
    if 2 * x.deg ≤ n then { lam := lam, prev := x.lam, deg := n + 1 - x.deg, shift := 1, last := d }
    else { x with lam := lam, shift := x.shift + 1 }

/-- The error of a position of the word, by its power of x: its magnitude where the locator has the position's inverse as a root. -/
def rsErrorAt (lam syn : List Nat) (e : Nat) : Nat :=
  let y := gfExp ((1023 - e % 1023) % 1023)
  if gfEval lam y != 0 then 0
  else
    let omega := (List.range 16).map (fun i => (List.range (i + 1)).foldl (fun a j => a ^^^ gfMul (lam.getD j 0) (syn.getD (i - j) 0)) 0)
    let slope := ((List.range lam.length).map (fun i => if i % 2 == 1 then lam.getD i 0 else 0)).drop 1
    gfMul (gfExp (e % 1023)) (gfMul (gfEval omega y) (gfInv (gfEval slope y)))

/-- A received codeword: the message symbols and the places, in sending order, of the symbols corrected; none where more than 8 symbols
are wrong and no codeword lies within 8 symbols. -/
def rsDecode (w : List Nat) : Option (List Nat × List Nat) :=
  let m := w.take 512
  if rsParity m == w.drop 512 then some (m, [])
  else
    let syn := rsSyndromes w
    let x := (List.range 16).foldl (Locator.next syn) {}
    let err := (List.range 528).map (fun i => rsErrorAt x.lam syn (527 - i))
    let good := List.zipWith (· ^^^ ·) w err
    let places := (List.range 528).filter (fun i => err.getD i 0 != 0)
    if x.deg ≤ 8 && places.length == x.deg && rsParity (good.take 512) == good.drop 512 then some (good.take 512, places) else none

/-! ### Bytes, symbols and lanes (R349, R350) -/

/-- The 512 message symbols of 640 B, in sending order. -/
def bytesSymbols (bs : List Byte) : List Nat := let v := leNat bs; (List.range 512).map (fun i => v / 2 ^ (10 * i) % 2 ^ 10)

/-- The 640 B of 512 message symbols. -/
def symbolsBytes (m : List Nat) : List Byte := leBytes 640 (m.foldr (fun c a => c + a * 2 ^ 10) 0)

/-- Gray coding of a bit pair as a level. -/
def grayLevel (b : Nat) : Fin 4 := match b with
  | 0 => 0
  | 1 => 1
  | 3 => 2
  | _ => 3

/-- The bit pair of a level. -/
def grayBits (l : Fin 4) : Nat := match l.val with
  | 0 => 0
  | 1 => 1
  | 2 => 3
  | _ => 2

/-- The five levels of a symbol, the most significant bit pair first. -/
def symbolLevels (c : Nat) : List (Fin 4) := [grayLevel (c / 256 % 4), grayLevel (c / 64 % 4), grayLevel (c / 16 % 4), grayLevel (c / 4 % 4), grayLevel (c % 4)]

/-- The symbols of a lane's levels. -/
def levelSymbols : List (Fin 4) → List Nat
  | a :: b :: c :: d :: e :: rest =>
    (grayBits a * 256 + grayBits b * 64 + grayBits c * 16 + grayBits d * 4 + grayBits e) :: levelSymbols rest
  | _ => []

/-- Symbol j of a list to lane j mod n; the length is a multiple of n. -/
def dealOut (n : Nat) (l : List Nat) : List (List Nat) :=
  l.foldr (fun c a => (c :: a.getLastD []) :: a.dropLast) (List.replicate n [])

/-- The symbols of lanes in turn, k from each. -/
def gather (k : Nat) (lanes : List (List Nat)) : List Nat :=
  (lanes.foldr (fun l a => List.zipWith (fun c r => c :: r) l a) (List.replicate k [])).flatten

/-- The 1,920 B of a frame as the levels of n logical lanes: three codewords, one after the other. -/
def frameLevels (n : Nat) (body : List Byte) : List (List (Fin 4)) :=
  let word (c : Nat) : List (List Nat) := dealOut n (rsEncode (bytesSymbols (slice body (640 * c) 640)))
  (List.zipWith (· ++ ·) (List.zipWith (· ++ ·) (word 0) (word 1)) (word 2)).map (fun l => l.flatMap symbolLevels)

/-- The three received codewords of n logical lanes. -/
def laneWords (lanes : List (List (Fin 4))) : List (List Nat) :=
  let sym := lanes.map levelSymbols
  let k := 528 / lanes.length
  [0, 1, 2].map (fun c => gather k (sym.map (fun l => (l.drop (k * c)).take k)))

/-! ### CRC-64 (R352) -/

/-- One byte enters the CRC, most significant bit first. -/
def crc64Byte (r : Nat) (b : Byte) : Nat :=
  (List.range 8).foldl (fun r _ => if r.testBit 63 then (r * 2 % 2 ^ 64) ^^^ 0x42F0E1EBA9EA3693 else r * 2) (r ^^^ (b.toNat * 2 ^ 56))

/-- CRC-64 with the ECMA-182 polynomial, an initial value of all ones and a final inversion. -/
def crc64 (bs : List Byte) : Nat := bs.foldl crc64Byte (2 ^ 64 - 1) ^^^ (2 ^ 64 - 1)

end Sys2Proof.Machine
end

