-- ==== Sys2Proof/Machine/Mgmt.lean ====
section
/-!
DEFINITION. Management (chapter 21) and power and temperature (chapters 1 and 22): interrupts, header registers of a page, the I3C
sideband's addresses and In-Band Interrupts, power estimates, tile-frequency steps, temperature readings.
-/
namespace Sys2Proof.Machine

/-! ### Interrupts (R525–R527) -/

/-- AID of the interrupt arbiter (R524). -/
def aidIrq : Nat := aidChip 0x0F1

/-- Messages are sent only while INT_BASE.EN is 1 and the Filard Link is up (R525, R527). -/
def State.irqOpen (s : State) : Bool := s.bit rIntBase 0 && s.bit rBootStat 5

/-- The interrupt arbiter orders an event that sends a vector's message, which carries its sequence number and the raises coalesced since the
last one (R21, R525). -/
def State.irqSend (s : State) (v : Nat) : State :=
  if s.irqOpen then
    let s1 := s.tick aidIrq
    let m : IrqMsg := { addr := s.fld rIntBase 51 15 * 0x8000 + 16 * v, vector := v, page := kgetD s.mgmt.irqPage v 0, coalesced := kgetD s.mgmt.coalesced v 0, seq := s1.seq aidIrq }
    ({ s1 with mgmt := { s1.mgmt with msgs := s1.mgmt.msgs ++ [m], coalesced := kdel s1.mgmt.coalesced v } } : State).count pgChip 3
  else s.tick aidIrq

/-- One raise at the interrupt arbiter (the table of R525). -/
def State.irqRaise (s : State) (r : Raise) : State :=
  let v := r.vector % 2048
  if s.bit (rIntPend (v / 64)) (v % 64) then
    let s1 := s.tick aidIrq
    ({ s1 with mgmt := { s1.mgmt with coalesced := kset s1.mgmt.coalesced v (kgetD s1.mgmt.coalesced v 0 + 1) } } : State).count pgChip 4
  else
    let s1 := s.setBit (rIntPend (v / 64)) (v % 64) true
    let s2 : State := { s1 with mgmt := { s1.mgmt with irqPage := kset s1.mgmt.irqPage v r.page } }
    if s2.bit (rIntMask (v / 64)) (v % 64) then s2.tick aidIrq else s2.irqSend v

/-- INTERRUPT_RAISE: the oldest raise reaches the interrupt arbiter (R524–R526). -/
def execInterruptRaise (s : State) : Host.Outcome State Fault Refusal :=
  match s.mgmt.raises with
  | [] => .next s
  | r :: rest => .next (({ s with mgmt := { s.mgmt with raises := rest } } : State).irqRaise r)

/-- INT_PEND_CLEAR: each 1 clears its pending bit (R525). -/
def State.intPendClear (s : State) (j : Nat) (v : Word) : State :=
  s.cfgDo (rIntPend j) (fun s => (s.tick aidIrq).setReg (rIntPend j) ((BitVec.ofNat 64 (s.reg (rIntPend j)) &&& ~~~v).toNat))

def execIntPendClear (j : Fin 32) (v : Word) (s : State) : Host.Outcome State Fault Refusal := .next (s.intPendClear j v)

/-- Sends the messages of pending vectors among the given bits of register j, ascending (R525). -/
def State.irqUnmask (s : State) (j : Nat) : List Nat → State
  | [] => s
  | i :: rest => (s.irqSend (64 * j + i)).irqUnmask j rest

/-- INT_MASK_WRITE: unmasked pending vectors send their messages, in ascending order (R525). -/
def State.intMaskWrite (s : State) (j : Nat) (v : Word) : State :=
  s.cfgDo (rIntMask j) (fun s =>
    let old := s.reg (rIntMask j)
    let open' := (List.range 64).filter (fun i => nbit old i && !nbit v.toNat i && s.bit (rIntPend j) i)
    (s.setReg (rIntMask j) v.toNat).irqUnmask j open')

def execIntMaskWrite (j : Fin 32) (v : Word) (s : State) : Host.Outcome State Fault Refusal := .next (s.intMaskWrite j v)

/-! ### Header registers (R521–R523) -/

/-- The page base that a page number names, the second address of parcels 0–15 resolved (R522). -/
def pageBase (page : BitVec 12) : Option Nat := (pageOf (page.toNat * 0x1000)).map Page.base

/-- The W1C bits of PG_ERR_SUM. -/
def errSumMask : Nat := 0xFFFF001F

/-- ERR_SUM_CLEAR: each 1 clears its bit of PG_ERR_SUM (R520, R523). -/
def State.errSumClear (s : State) (b : Nat) (v : Word) : State :=
  s.cfgDo (rPgErrSum b) (fun s => s.setReg (rPgErrSum b)
    ((BitVec.ofNat 64 (s.reg (rPgErrSum b)) &&& ~~~(v &&& BitVec.ofNat 64 errSumMask)).toNat))

def execErrSumClear (page : BitVec 12) (v : Word) (s : State) : Host.Outcome State Fault Refusal :=
  match pageBase page with
  | none => .next s
  | some b => .next (s.errSumClear b v)

/-- COUNTER_CLEAR: every counter of the page becomes zero in one step (R522). -/
def State.counterClear (s : State) (b : Nat) : State :=
  s.cfgDo (rPgCtl b) (fun s => s.resetRegs (fun c => rPgCnt b 0 ≤ c && c ≤ rPgCnt b 23))

def execCounterClear (page : BitVec 12) (s : State) : Host.Outcome State Fault Refusal :=
  match pageBase page with
  | none => .next s
  | some b => .next (s.counterClear b)

/-! ### The I3C sideband (R532–R534) -/

/-- The sideband is ready: COLD_RST_N is high and PWR_OK asserted (R532). -/
def State.i3cReady (s : State) : Bool := !s.mgmt.coldRst && s.mgmt.pwrOk

/-- An In-Band Interrupt with PHASE, HOLD and FILARD, unless the controller has disabled them (R534). -/
def State.ibi (s : State) : State :=
  if s.mgmt.ibiDisabled then s
  else { s with mgmt := { s.mgmt with ibis := s.mgmt.ibis ++
    [BitVec.ofNat 8 (s.fld rBootStat 3 0 + (if s.bit rBootStat 4 then 16 else 0) + (if s.bit rBootStat 5 then 32 else 0))] } }

/-- I3C_DYNAMIC_ADDRESS: SETDASA or ENTDAA assigns the dynamic address (R532). -/
def execI3cDynamicAddress (a : BitVec 7) (s : State) : Host.Outcome State Fault Refusal :=
  .next (s.onlyIf s.i3cReady (fun s => { s with mgmt := { s.mgmt with dynAddr := some a } }))

/-- I3C_IBI_DISABLE: the bus controller enables or disables In-Band Interrupts; events meanwhile are not queued (R534). -/
def execI3cIbiDisable (disabled : Bool) (s : State) : Host.Outcome State Fault Refusal :=
  .next (s.onlyIf s.i3cReady (fun s => { s with mgmt := { s.mgmt with ibiDisabled := disabled } }))

/-- The configuration offset that a sideband index reads; none for an unlisted index, which reads zero (R533). -/
def i3cReg (ix : Nat) : Option Nat :=
  if ix == 0x00 then some (rPgId pgChip)
  else if ix == 0x01 then some rBootStat
  else if ix == 0x02 then some rSecStat
  else if 0x03 ≤ ix && ix ≤ 0x08 then some (rBistRes (ix - 3))
  else if 0x09 ≤ ix && ix ≤ 0x12 then some (rBistLane (ix - 9))
  else if ix == 0x13 then some rMsStat
  else if ix == 0x14 then some rChipPwr
  else if ix == 0x15 then some rFbHb
  else if ix == 0x16 then some rBistFilard
  else none

/-! ### Power (R32, R33) -/

/-- The power limit in W, clamped to 400–950. -/
def State.powerLimit (s : State) : Nat := min 950 (max 400 (s.fld rChipPwr 11 0))

/-- The package power averaged over 1 ms, as a fraction: the sum of the regions' means over their estimates of the last 1 ms (R32). -/
def State.powerSum (s : State) : Nat × Nat :=
  s.mgmt.power.foldl (fun a e => if e.2.isEmpty then a else (a.1 * e.2.length + e.2.foldl (· + ·) 0 * a.2, a.2 * e.2.length)) (0, 1)

/-- The average in W, rounded down. -/
def State.avgPower (s : State) : Nat := s.powerSum.1 / s.powerSum.2

/-- The average exceeds the limit. -/
def State.overLimit (s : State) : Bool := decide (s.powerLimit * s.powerSum.2 < s.powerSum.1)

/-- The average is judged: whether it has stayed at least 5 % below the limit since the last step (R32). -/
def State.judgePower (s : State) : State :=
  { s with mgmt := { s.mgmt with belowAll := s.mgmt.belowAll && decide (100 * s.powerSum.1 ≤ 95 * s.powerLimit * s.powerSum.2) } }

/-- POWER_ESTIMATE: a region adds a 10 µs estimate; 100 of them span 1 ms (R32). -/
def State.powerEstimate (s : State) (r watts : Nat) : State :=
  let l := (watts :: kgetD s.mgmt.power r []).take 100
  let s1 : State := { s with mgmt := { s.mgmt with power := kset s.mgmt.power r l } }
  (s1.setFld rChipPwr 27 16 (min 4095 s1.avgPower)).judgePower

def execPowerEstimate (r : SliceIx) (watts : Nat) (s : State) : Host.Outcome State Fault Refusal := .next (s.powerEstimate r watts)

/-- The tile-island frequency of a block, in units of 100 MHz. -/
def State.tileFreq (s : State) (n : Nat) : Nat := s.fld (rChipTfreq (n / 8)) (8 * (n % 8) + 7) (8 * (n % 8))

/-- Sets every tile island to a frequency, with THROTTLED and FLOOR. -/
def State.setTileFreq (s : State) (f : Nat) : State :=
  let w := (List.range 8).foldl (fun a k => a + f * 2 ^ (8 * k)) 0
  (((s.setReg (rChipTfreq 0) w).setReg (rChipTfreq 1) w).setBit rChipPwr 28 (f < 35)).setBit rChipPwr 29 (f == 18)

/-- TILE_FREQ_STEP: at the end of a 100 µs period the islands step down when the average exceeds the limit, up when it stayed at
least 5 % below it throughout, within 1.8–3.5 GHz (R32). -/
def State.tileFreqStep (s : State) : State :=
  let f := s.tileFreq 0
  let g := if s.overLimit then max 18 (f - 1) else if s.mgmt.belowAll then min 35 (f + 1) else f
  let s1 := (s.setTileFreq g).count pgChip 5 (if g == f then 0 else 1)
  ({ s1 with mgmt := { s1.mgmt with belowAll := true } } : State).judgePower

def execTileFreqStep (s : State) : Host.Outcome State Fault Refusal := .next s.tileFreqStep

/-- POWER_FLOOR_EVENT: the average above the limit with every island at the floor is recorded in the chip field book (R33). The record's
SOURCE, the chip book's own arbiter, is the model's choice: R33 names none (log 218). -/
def execPowerFloorEvent (s : State) : Host.Outcome State Fault Refusal :=
  .next (s.onlyIf (s.bit rChipPwr 29 && s.overLimit)
    (fun s => s.record bookChip pgChip clsPower 2 (aidChip 0x3F0) s.avgPower))

/-! ### Temperature (R554, R555) -/

/-- A reading as a signed number. -/
def signed8 (n : Nat) : Int := (BitVec.ofNat 8 n).toInt

/-- TEMP_UPDATE: the hottest sensor of each region, and the highest since the last read (R555). -/
def State.tempUpdate (s : State) (temps : List (BitVec 8)) : State :=
  let w := (List.range 4).foldl (fun a r => a + (temps.getD r 0).toNat * 2 ^ (8 * r)) 0
  let peak := (List.range 4).foldl (fun a r => if signed8 a < (temps.getD r 0).toInt then (temps.getD r 0).toNat else a) (s.fld rChipTemp 39 32)
  (s.setFld rChipTemp 31 0 w).setFld rChipTemp 39 32 peak

def execTempUpdate (temps : List (BitVec 8)) (s : State) : Host.Outcome State Fault Refusal := .next (s.tempUpdate temps)

end Sys2Proof.Machine
end

