-- ==== Sys2Proof/Machine/PortDown.lean ====
section
/-!
DEFINITION. A port's levelling state and its going down (R43, R358, R362, R363, R450–R454, R552): role check, laser lines, unproven
packets and loss reports, the re-routing of what waits for a dead port, and the deaths that follow.
-/
namespace Sys2Proof.Machine

/-! ### PORT_STAT and the laser lines -/

/-- Some port of laser slot k is levelling or UP (R552). -/
def State.slotActive (s : State) (k : Nat) : Bool := (List.range 8).any (fun i => let st := s.portState (8 * k + i); 1 ≤ st && st ≤ 3)

/-- LS_EN_N of each slot follows its ports (R552). -/
def State.laserLines (s : State) : State :=
  { s with mgmt := { s.mgmt with lsEn := BitVec.ofNat 12 (((List.range 12).filter (fun k => s.slotActive k)).foldl (fun a k => a + 2 ^ k) 0) } }

def State.setPortState (s : State) (p st : Nat) : State := (s.setFld (rPortStat p) 2 0 st).laserLines
def State.setPortStep (s : State) (p n : Nat) : State := s.setFld (rPortStat p) 5 3 n
def State.setPortCause (s : State) (p c : Nat) : State := s.setFld (rPortStat p) 15 8 c

/-- The field book and the page of a link's records: the port's, or the chip's for the Filard Link. -/
def linkBook (p : Nat) : Nat := if p < 128 then p / 8 else bookChip
def linkPage (p : Nat) : Nat := if p < 128 then pgPort p else pgChip

/-- A LINK record of a link, or of one of its lanes (R470). -/
def State.linkNote (s : State) (p : Nat) (sev : BitVec 2) (ctr : Nat) (lane : Option Nat := none) : State :=
  s.record (linkBook p) (linkPage p) clsLink sev (match lane with
    | some l => aidLane p l
    | none => aidLink p)
    (p + s.fld (rPortStat p) 15 8 * 2 ^ 8 + s.fld (rPortLane p) 25 0 * 2 ^ 16 + ctr * 2 ^ 64)

/-! ### The role check (R42, R43) -/

/-- Ports other than p that hold a role. -/
def State.roleCount (s : State) (p r : Nat) : Nat :=
  ((List.range 128).filter (fun q => q != p && s.portRole q == r && s.roleHeld q)).length

/-- The role check at the start of levelling (R43). -/
def State.roleOk (s : State) (p : Nat) : Bool :=
  let r := s.portRole p
  let slot := s.fld (rPortRole p) 13 8
  let peer := s.fld (rPortRole p) 20 16
  let axis := s.bit (rPortRole p) 21
  match r with
  | 1 => decide (s.roleCount p 1 < 32)
  | 2 => peer != (if axis then s.row else s.col) && decide (peer < (if axis then s.rows else s.cols))
  | 3 => decide (s.roleCount p 3 < 64) &&
      !(List.range 128).any (fun q => q != p && s.portRole q == roleModule && s.fld (rPortRole q) 13 8 == slot && s.roleHeld q)
  | 4 => decide (96 ≤ p) && decide (s.roleCount p 4 < 16)
  | _ => false

/-- The link is made new for a levelling; what earlier frames left unproven stays (R363). -/
def Link.fresh (l : Link) : Link := { unproven := l.unproven, far := l.far, received := l.received }

/-- GRID_CFG locks with the first ACCEL or GRID port that starts levelling, SEC_POLICY.SAMPLE_CLEAR with any port, the RWL fields of the
port's own page with its own (R39, R43, R494). -/
def State.lockPolicy (s : State) (p : Nat) : State :=
  let r := s.portRole p
  { s with boot := { s.boot with roleLocked := insertNew s.boot.roleLocked p, gridLocked := s.boot.gridLocked || r == roleAccel || r == roleGrid,
                                 policyLocked := s.boot.policyLocked || p != filardLink } }

/-- Levelling begins at step 1 (R357). -/
def State.beginLevelling (s : State) (p : Nat) : State :=
  let s1 := ((s.setPortState p 1).setPortStep p 1).count (pgPort p) 9
  (s1.setReg (rPortKey p) (s1.fld (rPortKey p) 13 8 * 2 ^ 8)).setLink p (s1.link p).fresh

/-- Levelling starts after the role check, which the composition arbiter orders; a port that fails it stays down (R43, R357). DISABLED
is not levelled (R42), nor is a GRID port of a Tiolo that lies outside its grid (R39). -/
def State.startLevelling (s : State) (p : Nat) : State :=
  if s.portRole p == roleDisabled then s
  else if s.portRole p == roleGrid && !s.inGrid s.ix then
    (s.setPortState p 0).record bookChip pgChip clsConfig 2 aidCompose (s.reg rGridCfg)
  else
    let s1 := (s.lockPolicy p).tick aidCompose
    if s1.roleOk p then (s1.setPortCause p 0).beginLevelling p
    else ((s1.setPortState p 0).setPortCause p 1).note (p / 8) (pgPort p) clsConfig 2 aidCompose (p + s1.reg (rPortRole p) * 2 ^ 32)

/-! ### What waits for a dead port -/

/-- A packet of the buffer that owed a copy to a dead port takes another route, or is treated as without one (R379, R448). -/
def State.rerouteOne (s : State) (p : Nat) (x : Stored) : State :=
  let mine := x.outs.filter (fun o => o.1 == p)
  if mine.isEmpty then s
  else
    let y : Stored := { x with outs := x.outs.filter (fun o => o.1 != p), started := x.started.filter (fun q => q.1 != p) }
    let fresh := mine.filter (fun o => !x.isStarted o)
    let put (s : State) (z : Stored) : State := if z.outs.isEmpty && !z.internal then s.delStored z.id else s.putStored z
    if s.portRole p != roleGrid || fresh.isEmpty then put s y
    else if x.multicast then
      let ms := s.trunk (s.bit (rPortRole p) 21) (s.fld (rPortRole p) 20 16)
      if ms.isEmpty then put s y
      else put s { y with outs := y.outs ++ fresh.map (fun o => (s.member x.pkt o.2 ms, o.2)) }
    else
      match s.route x.pkt (destOf x.pkt) with
      | (s1, q, some j) => put s1 { y with pkt := q, outs := y.outs ++ [(j, vcOf q.cls.toNat q.hop.toNat)] }
      | (s1, q, none) => ((put s1 y).tick (aidInput x.input)).noRoute x.input (aidInput x.input) q

/-- Every packet of the buffer that owed the dead port a copy. -/
def State.rerouteBuf (s : State) (p : Nat) : State :=
  (s.sw.buf.filter (fun x => x.outs.any (fun o => o.1 == p))).foldl (fun s x => s.rerouteOne p x) s

/-- Packets that had crossed to the port and had no flit in a frame go back to the buffer, and take another route. -/
def State.returnQueued (s : State) (p : Nat) (ps : List Packet) : State :=
  if s.portRole p != roleGrid then s
  else ps.foldl (fun s q =>
    match s.route q (destOf q) with
    | (s1, r, some j) => s1.store { id := 0, pkt := r, input := p, cells := pktCells r, account := none, admitted := true,
                                    outs := [(j, vcOf r.cls.toNat r.hop.toNat)] }
    | (s1, r, none) => (s1.tick (aidInput p)).noRoute p (aidInput p) r) s

/-! ### Unproven packets and loss reports (R131, R363) -/

/-- Classes whose packets are unproven: REQ, DAT and COL. -/
def provable (p : Packet) : Bool := p.cls == 0 || p.cls == 3 || p.cls == 4

/-- The packets that a dead link cannot prove delivered: the last flit is in an unacknowledged frame, or the first one left and the
last one did not. -/
def State.unprovenAt (s : State) (p : Nat) : List (Nat × Packet) :=
  let l := s.link p
  let inFrames := l.unacked.flatMap (fun f => (f.slots.filterMap (fun x => x.tail)).map (fun q => (f.ctr, q)))
  let heads := l.txq.filterMap (fun x => x.head)
  let cut := (l.txq.filterMap (fun x => x.tail)).filter (fun q => !heads.contains q)
  let started := (s.sw.buf.filter (fun x => x.started.any (fun o => o.1 == p))).map (fun x => x.pkt)
  (inFrames ++ (cut ++ started).map (fun q => (l.next, q))).filter (fun e => provable e.2)

/-- The packets of the queue whose first flit has not left. -/
def Link.unsent (l : Link) : List Packet := l.txq.filterMap (fun x => x.head)

/-- A request that writes: its loss completes with LOST_STATE (R131, R363). -/
def writesOp (op : Nat) : Bool :=
  op == opWRN || op == opATM || op == opWRI || op == opWBK || op == opSREL || op == opSSET || op == opPUBLISH

/-- A packet is reported lost (R363). -/
def State.reportLost (s : State) (port : Nat) (q : Packet) : State :=
  let s1 := s.count (pgPort port) 13
  if q.cls == 0 && writesOp q.opcode.toNat then (s1.count pgStk 13).complete q stLostState else s1

/-- Requests whose TIMEOUT time came while a drain of their path was outstanding complete once the last drain is resolved (R131). -/
def State.completeDue (s : State) (t : Nat) : State :=
  if !(s.path t).drains.isEmpty then s
  else
    let hit (k : Tracker) : Bool := k.due && k.dest == t
    let due := s.recov.trackers.filter hit
    let s1 : State := { s with recov := { s.recov with trackers := s.recov.trackers.map (fun k => if hit k then { k with due := false } else k) } }
    due.foldl (fun s k => s.complete k.req stTimeout) s1

/-- Drains down a dead port are resolved once its packets are (R131). -/
def State.dropDrains (s : State) (p : Nat) : State :=
  let ts := (s.paths.filter (fun e => e.2.drains.any (fun d => d.1 == p))).map (fun e => e.1)
  ts.foldl (fun s t =>
    let x := s.path t
    (s.setPath t { x with drains := x.drains.filter (fun d => d.1 != p) }).completeDue t) s

/-- LSR to the far Tiolo by another route: the dead port's number here, and the counter of the last frame accepted (R363). -/
def State.sendLsr (s : State) (p : Nat) : State :=
  let l := s.link p
  match l.far with
  | some f =>
    let last := (l.accepted + 2 ^ 64 - 1) % 2 ^ 64
    s.send { opcode := BitVec.ofNat 8 opLSR, cls := 5, len := 16, dst := f.gref.extractLsb' 7 10 ++ (0 : BitVec 7), src := BitVec.ofNat 10 s.ix, agent := agCompanion,
             payload := leBytes 8 p ++ leBytes 8 last }
  | none => s

/-- LSR: unproven packets of the port named by its far end, in frames after the last accepted one, are lost; the others landed (R363). -/
def State.lsr (s : State) (q : Packet) : State :=
  let d := wordAt q.payload 0 % 128
  let n := (wordAt q.payload 1 + 1) % 2 ^ 64
  match (List.range 128).find? (fun p => match (s.link p).far with
      | some f => f.gref.toNat == q.src.toNat * 128 + d && s.portRole p == roleGrid
      | none => false) with
  | none => s
  | some p =>
    let l := s.link p
    let s1 := s.setLink p { l with unproven := [] }
    ((l.unproven.filter (fun e => decide (n ≤ e.1))).foldl (fun s e => s.reportLost p e.2) s1).dropDrains p

def execLsr (p : Packet) (s : State) : Host.Outcome State Fault Refusal := .next (s.lsr p)

/-- UNPROVEN_LOSS_TIMEOUT: what is still unproven is reported lost; by now it can no longer land (R363). -/
def State.unprovenTimeout (s : State) (p : Nat) : State :=
  let l := s.link p
  (l.unproven.foldl (fun s e => s.reportLost p e.2) (s.setLink p { l with unproven := [] })).dropDrains p

def execUnprovenLossTimeout (p : PortIx) (s : State) : Host.Outcome State Fault Refusal := .next (s.unprovenTimeout p)

/-! ### Going down (R358, R362) -/

/-- A GRID port's packets: unproven ones are kept for the report, the others take another route; epochs of the Tiolos behind it rise. A
twin's owner that no route reaches any more is lost (R459). -/
def State.gridDown (s : State) (p : Nat) (ts : List Nat) : State :=
  let un := s.unprovenAt p
  let back := (s.link p).unsent
  let l := s.link p
  let s1 := s.setLink p { l.fresh with unproven := l.unproven ++ un, accepted := l.accepted, next := l.next }
  let s2 := (s1.sendLsr p).rerouteBuf p
  let s3 := s2.returnQueued p back
  let s4 := ts.foldl (fun s t => s.bumpEpoch t) s3
  (if (s4.link p).unproven.isEmpty then s4.dropDrains p else s4).routesLost

/-- The Tiolos whose packets may take a port's trunk first. -/
def State.behindPort (s : State) (p : Nat) : List Nat :=
  (List.range 1024).filter (fun t => s.inGrid t && t != s.ix && (s.firstTrunks t).any (fun m => m.contains p))

/-- An ACCEL port's requests are discarded and its agent dies (R102, R122, R451). -/
def State.accelDown (s : State) (p : Nat) : State :=
  let s1 : State := { s with recov := { s.recov with trackers := s.recov.trackers.filter (fun t =>
    !(t.purpose == .outside && t.req.agent.toNat % 128 == p && t.req.agent.toNat < 2048)) } }
  let s2 := (s1.setLink p ((s1.link p).fresh)).rerouteBuf p
  match s2.agentOfPort p with
  | some a => s2.agentDead (Fin.ofNat 49 a) (p / 32)
  | none => s2

/-- A MODULE port's slot is lost: frames, PNM commands and keys with it (R169, R301, R451). -/
def State.moduleDown (s : State) (p : Nat) : State :=
  let m := s.fld (rPortRole p) 13 8
  let s1 := (s.setLink p ((s.link p).fresh)).rerouteBuf p
  let s2 := (s1.setBit (rModKeyStat p) 0 false).setBit (rModKeyStat p) 1 false
  ((s2.loseSlot m).dropSlotFrames m).pnmModuleLost m

/-! ### Ethernet ports and queue pairs (R413, R420, R425) -/

/-- AID of the registration arbiter (R419). -/
def aidMr : Nat := aidChip 0x0C0

def State.qp (s : State) (n : Nat) : Qp := kgetD s.roce.qps n {}
def State.setQp (s : State) (n : Nat) (q : Qp) : State := { s with roce := { s.roce with qps := kset s.roce.qps n q } }
def State.mr (s : State) (k : Nat) : Mr := kgetD s.roce.mrs k {}
def State.setMr (s : State) (k : Nat) (m : Mr) : State := { s with roce := { s.roce with mrs := kset s.roce.mrs k m } }

/-- Field [hi:lo] of context word w (R413). -/
def Qp.f (q : Qp) (w hi lo : Nat) : Nat := nbits (q.words.getD w 0).toNat hi lo
def Qp.port (q : Qp) : Nat := q.f 0 44 38

/-- Some message past its check, or an outstanding request of one, refers to registration k. -/
def State.mrBusy (s : State) (k : Nat) : Bool :=
  s.roce.qps.any (fun e => e.2.msgs.any (fun m => m.mr == k) || e.2.reqs.any (fun r => r.mr == k))

/-- ROCE_MR_CMD holds the REVOKE of registration k (R419). -/
def State.mrNamed (s : State) (k : Nat) : Bool := s.fld rRoceMrCmd 13 0 == k && s.fld rRoceMrCmd 17 16 == 2

/-- Step 4 of R420: the registration is FREE, and DONE tells a REVOKE command of it so. -/
def State.mrFree (s : State) (k : Nat) : State :=
  let s1 := (s.tick aidMr).setMr k { s.mr k with state := 0 }
  if s1.mrNamed k then s1.setBit rRoceMrCmd 62 true else s1

/-- Step 4 of R420, once nothing refers to a REVOKING registration. -/
def State.mrSettle (s : State) (k : Nat) : State := if (s.mr k).state == 2 && !s.mrBusy k then s.mrFree k else s

/-- READ responses of a QP that are not sent are abandoned (R425). -/
def Qp.abandonReads (q : Qp) : Qp :=
  { q with msgs := q.msgs.filter RoceMsg.write, reqs := q.reqs.filter (fun r => r.issued || r.use == .write || r.use == .entry) }

/-- An ETH link is down: what waits to be sent is lost, with what the port holds, and unsent READ responses are abandoned; contexts are
unchanged (R364, R425). -/
def State.ethLost (s : State) (p : Nat) : State :=
  let s1 := (s.setLink p { (s.link p).fresh with ethUp := false }).rerouteBuf p
  let s2 : State := { s1 with sw := { s1.sw with stalled := s1.sw.stalled.filter (fun x => !x.outs.any (fun o => o.1 == p)) } }
  let s3 : State := { s2 with roce := { s2.roce with tx := s2.roce.tx.filter (fun t => t.1 != p),
                                                     qps := s2.roce.qps.map (fun e => (e.1, if e.2.port == p then e.2.abandonReads else e.2)) } }
  let s4 := s3.setEth p { s3.eth p with buffer := [], missq := [], pausing := 0, paused := 0 }
  (s4.roce.mrs.map (fun e => e.1)).foldl (fun s k => s.mrSettle k) s4

/-- BOOT_STAT.FILARD follows the Filard Link, and a change sends an In-Band Interrupt (R534). -/
def State.filardSet (s : State) (p : Nat) (up : Bool) : State :=
  if p != filardLink || s.bit rBootStat 5 == up then s else (s.setBit rBootStat 5 up).ibi

/-- A port in service or levelling goes down with a cause: it is recorded, its packets and agents are resolved, and levelling starts
again; with EN 0, or after LVL_RETRY failed levellings, it enters FAILED (R358, R362). -/
def State.portGoesDown (s : State) (p cause : Nat) : State :=
  let st := s.portState p
  if st == 0 || st == 4 then s
  else
    let up := s.portUp p
    let role := s.portRole p
    let ts := if up && role == roleGrid then s.behindPort p else []
    let s0 := ((s.setPortCause p cause).linkNote p 2 (s.link p).next).filardSet p false
    let s1 := (s0.setPortState p 0).setFld (rPortStat p) 6 6 0
    let s2 := s1.setBit (rPortKey p) 0 false
    let s3 :=
      if !up then s2.setLink p (s2.link p).fresh
      else if role == roleGrid then s2.gridDown p ts
      else if role == roleAccel then s2.accelDown p
      else if role == roleModule then s2.moduleDown p
      else if role == roleEth then s2.ethLost p
      else s2.setLink p (s2.link p).fresh
    if !s3.bit (rPortCtl p) 0 then s3.setPortState p 4
    else if up then
      (if role == roleEth then s3.setPortState p 1 else s3.beginLevelling p)
    else
      let n := min 255 (s3.fld (rPortStat p) 23 16 + 1)
      let s4 := s3.setFld (rPortStat p) 23 16 n
      if s4.fld (rPortCtl p) 7 4 ≤ n && p != filardLink then s4.setPortState p 4 else s4

/-- PORT_DOWN (R362). -/
def execPortDown (p : LinkIx) (cause : BitVec 8) (s : State) : Host.Outcome State Fault Refusal := .next (s.portGoesDown p cause.toNat)

/-- LINK_IDLE_TIMEOUT: an UP port that is not swapping has accepted no frame for 4 µs (R450). -/
def execLinkIdleTimeout (p : LinkIx) (s : State) : Host.Outcome State Fault Refusal :=
  .next (s.onlyIf (s.portState p == 2 && s.portRole p != roleEth) (fun s => s.portGoesDown p 0x0C))

/-- PNA_TIMEOUT: the module's port is declared failed (R301). -/
def State.pnaTimeout (s : State) (m id : Nat) : State :=
  match (s.pnmQ m).active.find? (fun c => c.id.toNat == id && c.dispatched), s.modPort m with
  | some _, some p => s.portGoesDown p 0x0C
  | _, _ => s

def execPnaTimeout (m : SlotIx) (cmdid : BitVec 16) (s : State) : Host.Outcome State Fault Refusal := .next (s.pnaTimeout m cmdid.toNat)

end Sys2Proof.Machine
end

