-- ==== Sys2Proof/Machine/Kex.lean ====
section
/-!
DEFINITION. The key exchange of a link (R485–R488): its messages, the transcript, the derivation of the link keys, the rekey, and the
LVL packet that follows the exchange at levelling (R357).
-/
namespace Sys2Proof.Machine

/-! ### Link-local packets -/

/-- A link-local packet of class MGT is queued at the port, past the switch core (R485). -/
def State.queueLocal (s : State) (p op : Nat) (payload : List Byte) : State :=
  let q : Packet := { opcode := BitVec.ofNat 8 op, cls := 5, len := payload.length, src := BitVec.ofNat 10 s.ix, payload := payload }
  let l := s.link p
  s.setLink p { l with txq := l.txq ++ packetFlits q (vcOf 5 0) }

/-- The grid reference of a port. -/
def State.gref (s : State) (p : Nat) : Nat := s.ix * 128 + p % 128

/-- The 16 B LVL payload (R357). -/
def State.lvlBody (s : State) (p : Nat) : List Byte :=
  leBytes 8 (s.portRole p + s.gref p * 2 ^ 3 + (if s.bit (rPortRole p) 21 then 2 ^ 20 else 0) + s.fld (rPortRole p) 20 16 * 2 ^ 21 +
    max 8 (s.fld (rPortLink p) 7 0) * 2 ^ 26) ++ leBytes 8 0

/-! ### KEX messages (R485) -/

def kexHeader (type frag nfrag : Nat) : List Byte := leBytes 1 type ++ leBytes 1 frag ++ leBytes 1 nfrag ++ leBytes 13 0
def kexBody (payload : List Byte) : List Byte := payload.drop 16

def State.setKex (s : State) (p : Nat) (k : Kex) : State := s.setLink p { s.link p with kex := k }

/-- Adds a payload, sent or received, to the transcript; HELLO and CERT payloads are kept for a rekey too (R486, R488). -/
def Kex.note (k : Kex) (payload : List Byte) : Kex :=
  let ty := (payload.headD 0).toNat
  let k1 := { k with transcript := k.transcript ++ [payload] }
  if ty == 1 || ty == 2 then { k1 with first := k1.first ++ [payload] } else k1

/-- A KEX payload is sent; FINISH and ABORT do not enter T. -/
def State.sendKex (s : State) (p : Nat) (payload : List Byte) : State :=
  let ty := (payload.headD 0).toNat
  let s1 := if ty == 5 || ty == 6 then s else s.setKex p ((s.link p).kex.note payload)
  s1.queueLocal p opKEX payload

/-- T: SHA3-256 of every payload so far (R486). -/
def Kex.t (k : Kex) : List Byte := leBytes 32 (Config.sha3 k.transcript.flatten).toNat

/-- 32 B drawn from the DRBG (R480). -/
def State.draw (s : State) : BitVec 256 × State := (Config.drbg s.sec.drawn, { s with sec := { s.sec with drawn := s.sec.drawn + 1 } })

/-- The initiator of a port's link (R485). -/
def State.kexInitiator (s : State) (p : Nat) : Bool :=
  if s.portRole p == roleGrid then
    let peer := if s.bit (rPortRole p) 21 then s.fld (rPortRole p) 20 16 * 32 + s.col else s.row * 32 + s.fld (rPortRole p) 20 16
    decide (s.ix < peer)
  else p != filardLink

/-- HELLO: NONCE, SUITE 0x0001, STATE, ROLE. -/
def State.sendHello (s : State) (p : Nat) : State :=
  let d := s.draw
  d.2.sendKex p (kexHeader 1 0 1 ++ leBytes 32 d.1.toNat ++ leBytes 2 1 ++ leBytes 1 s.sec.life.state ++ leBytes 1 (s.portRole p))

/-- The Tiolo's own chain, leaf first: Alias, then DeviceID (R484). -/
def State.ownChain (s : State) : List Byte := Config.certificate 1 s.sec.cdi ++ Config.certificate 0 s.sec.cdi

/-- CERT, in fragments of up to 4,080 B. -/
def State.sendCert (s : State) (p : Nat) : State :=
  let c := s.ownChain
  let n := min 4 (max 1 (ceilDiv c.length 4080))
  (List.range n).foldl (fun s i => s.sendKex p (kexHeader 2 i n ++ (c.drop (4080 * i)).take 4080)) s

/-- A failed check: ABORT is sent, every value derived so far is zeroised, and the port goes down with cause 0x06 (R486, R488). -/
def State.kexFail (s : State) (p : Nat) : State :=
  (((s.sendKex p (kexHeader 6 0 1 ++ leBytes 1 0)).setKex p {}).count pgSec 4).portGoesDown p 6

/-- Key establishment fails on every port of a Tiolo that is decommissioned or whose self-tests have failed (R477, R481). -/
def State.kexBarred (s : State) : Bool := s.sec.life.state == 5 || s.bit rSecStat 6

/-- The exchange begins: the initiator sends HELLO (R486 step 1). -/
def State.startKex (s : State) (p : Nat) : State :=
  let i := s.kexInitiator p
  let s1 := s.setKex p { step := 1, initiator := i }
  if s.kexBarred then s1.kexFail p else if i then s1.sendHello p else s1

/-- A peer Tiolo is accepted by the lifecycle states (R487). -/
def State.peerOk (s : State) (chain : List Byte) : Bool :=
  match Config.chainTiolo chain with
  | none => true
  | some (st, tenant) =>
    match s.sec.life.state with
    | 2 => st == 2 && tenant == s.sec.life.tenant
    | 1 => st == 1 || st == 3
    | 3 => st == 1 || st == 3
    | 4 => st == 4
    | _ => false

/-- The peer's identity key, once its chain is whole. -/
def Kex.peerKey (k : Kex) : Option (List Byte) := Config.chainKey k.frags.flatten

/-- The signature of this Tiolo over T. -/
def State.kexSign (s : State) (p : Nat) : List Byte := Config.mlDsaSign s.sec.cdi (s.link p).kex.t

/-- KEMKEY: an ephemeral encapsulation key, and a signature over T up to HELLO and CERT (R486 step 3). -/
def State.sendKemkey (s : State) (p : Nat) : State :=
  let d := s.draw
  let kp := Config.mlKemKeyGen d.1
  let sig := d.2.kexSign p
  let s1 := d.2.sendKex p (kexHeader 3 0 1 ++ slice kp.1 0 1184 ++ slice sig 0 2420)
  s1.setKex p { (s1.link p).kex with step := 4, secret := some kp.2 }

/-- The 104 B derived from the shared secret (R486 step 5). -/
def deriveKeys (shared t : List Byte) : LinkKeys :=
  let out := Config.kdf shared (("LFP-LINK".toList.map (fun c => BitVec.ofNat 8 c.toNat))) t
  { keyIR := BitVec.ofNat 256 (leNat (slice out 0 32)), keyRI := BitVec.ofNat 256 (leNat (slice out 32 32)),
    saltIR := BitVec.ofNat 32 (leNat (slice out 64 4)), saltRI := BitVec.ofNat 32 (leNat (slice out 68 4)),
    confirm := BitVec.ofNat 256 (leNat (slice out 72 32)) }

/-- FINISH: an HMAC of T under CONFIRM (R486 step 6). -/
def finishMac (k : Kex) (d : LinkKeys) : List Byte := leBytes 32 (Config.hmac (leBytes 32 d.confirm.toNat) k.t).toNat

/-- FINISH has been sent and received: each direction switches to the new keys, the counter at 0; a rekey flips KPH. The secrets are
zeroised. At levelling the LVL packet follows (R353, R357 step 6, R486 step 7, R488). -/
def State.kexDone (s : State) (p : Nat) : State :=
  let l := s.link p
  let k := l.kex
  if !k.sentFinish || !k.gotFinish then s
  else
    let s1 := s.setLink p { l with kex := { first := k.first }, keys := k.derived, oldKeys := if k.rekey then l.keys else none, next := 0,
                                   rxNew := true, rxKph := if k.rekey then !l.rxKph else false }
    let kph := if k.rekey then !s.bit (rPortKey p) 1 else false
    let s2 := ((s1.setBit (rPortKey p) 0 true).setBit (rPortKey p) 1 kph).setFld (rPortKey p) 63 16 0
    if k.rekey then (s2.count (pgPort p) 12).count pgSec 5
    else ((s2.count pgSec 3).setPortStep p 6).queueLocal p opLVL (s2.lvlBody p)

/-- The keys are derived from the shared secret, and FINISH is sent (R486 steps 5, 6). -/
def State.kexDerive (s : State) (p : Nat) (shared : List Byte) : State :=
  let k := (s.link p).kex
  let d := deriveKeys shared k.t
  let s1 := s.sendKex p (kexHeader 5 0 1 ++ finishMac k d)
  s1.setKex p { (s1.link p).kex with step := 6, derived := some d, secret := none, sentFinish := true }

/-- HELLO: the suite is checked; the responder answers HELLO, the initiator goes on with CERT (R486 steps 1, 2). -/
def State.kexHello (s : State) (p : Nat) (m : List Byte) : State :=
  let k := (s.link p).kex
  if k.step != 1 || k.rekey then s
  else
    let s1 := s.setKex p { k.note m with peerHello := true, step := 2 }
    if leNat (slice (kexBody m) 32 2) != 1 then s1.kexFail p
    else if k.initiator then s1.sendCert p
    else s1.sendHello p

def execHello (p : LinkIx) (body : List Byte) (s : State) : Host.Outcome State Fault Refusal := .next (s.kexHello p body)

/-- CERT: with the last fragment the chain is verified and the peer checked; the responder then sends its own, and KEMKEY (R486, R487). -/
def State.kexCert (s : State) (p : Nat) (m : List Byte) : State :=
  let k := (s.link p).kex
  if k.step != 2 then s
  else
    let nfrag := (m.getD 2 0).toNat
    let k1 := { k.note m with frags := k.frags ++ [kexBody m] }
    if nfrag < 1 || 4 < nfrag || (m.getD 1 0).toNat != k.frags.length then (s.setKex p k1).kexFail p
    else if k1.frags.length < nfrag then s.setKex p k1
    else if k1.peerKey.isNone || !s.peerOk k1.frags.flatten then (s.setKex p k1).kexFail p
    else
      let s1 := s.setKex p { k1 with peerVerified := true, step := 3 }
      if k.initiator then s1 else (s1.sendCert p).sendKemkey p

def execCert (p : LinkIx) (body : List Byte) (s : State) : Host.Outcome State Fault Refusal := .next (s.kexCert p body)

/-- A KEX in progress at a port, or one that the peer starts as a rekey (R488). -/
def State.kexOrRekey (s : State) (p : Nat) : State :=
  let l := s.link p
  if l.kex.step == 0 && s.portUp p && l.keys.isSome then
    s.setKex p { l.kex with step := 3, rekey := true, initiator := s.kexInitiator p, transcript := l.kex.first, peerVerified := true,
                            frags := (l.kex.first.filter (fun m => (m.headD 0).toNat == 2)).map kexBody }
  else s

/-- The peer's chain: of the CERT payloads of an exchange, those it sent. At levelling `frags` holds them; a rekey takes the second half
or the first half of the CERT payloads, as this side is the initiator or the responder. -/
def Kex.peerChainKey (k : Kex) (own : List Byte) : Option (List Byte) :=
  if k.rekey then
    let n := min 4 (max 1 (ceilDiv own.length 4080))
    Config.chainKey (if k.initiator then k.frags.drop n else k.frags.take (k.frags.length - n)).flatten
  else k.peerKey

/-- The signature at the end of a message is good, over T. -/
def State.kexSigOk (s : State) (p : Nat) (m : List Byte) (len : Nat) : Bool :=
  let k := (s.link p).kex
  match k.peerChainKey s.ownChain with
  | some pk => Config.mlDsaVerify pk k.t (slice (kexBody m) len 2420)
  | none => false

/-- KEMKEY: the initiator verifies the signature, encapsulates and sends KEMCT; both then derive (R486 steps 4, 5). -/
def State.kexKemkey (s0 : State) (p : Nat) (m : List Byte) : State :=
  let s := s0.kexOrRekey p
  let k := (s.link p).kex
  if k.step != 3 || !k.initiator then s0
  else if !s.kexSigOk p m 1184 then s.kexFail p
  else
    let s1 := s.setKex p (k.note m)
    let d := s1.draw
    let r := Config.mlKemEncaps (slice (kexBody m) 0 1184) d.1
    let sig := d.2.kexSign p
    (d.2.sendKex p (kexHeader 4 0 1 ++ slice r.1 0 1088 ++ slice sig 0 2420)).kexDerive p r.2

def execKemkey (p : LinkIx) (body : List Byte) (s : State) : Host.Outcome State Fault Refusal := .next (s.kexKemkey p body)

/-- KEMCT: the responder verifies the signature, decapsulates and derives (R486 step 5). -/
def State.kexKemct (s : State) (p : Nat) (m : List Byte) : State :=
  let k := (s.link p).kex
  if k.step != 4 || k.initiator then s
  else if !s.kexSigOk p m 1088 then s.kexFail p
  else match k.secret with
    | none => s
    | some dk => (s.setKex p (k.note m)).kexDerive p (Config.mlKemDecaps dk (slice (kexBody m) 0 1088))

def execKemct (p : LinkIx) (body : List Byte) (s : State) : Host.Outcome State Fault Refusal := .next (s.kexKemct p body)

/-- FINISH: the peer's HMAC is checked (R486 steps 6, 7). -/
def State.kexFinish (s : State) (p : Nat) (m : List Byte) : State :=
  let k := (s.link p).kex
  match k.derived with
  | none => s
  | some d =>
    if slice (kexBody m) 0 32 != finishMac k d then s.kexFail p
    else (s.setKex p { k with gotFinish := true }).kexDone p

def execFinish (p : LinkIx) (body : List Byte) (s : State) : Host.Outcome State Fault Refusal := .next (s.kexFinish p body)

/-- ABORT: the port goes down with cause 0x06 (R486). -/
def State.kexAbort (s : State) (p : Nat) : State :=
  if (s.link p).kex.step == 0 then s else ((s.setKex p {}).count pgSec 4).portGoesDown p 6

def execAbort (p : LinkIx) (_body : List Byte) (s : State) : Host.Outcome State Fault Refusal := .next (s.kexAbort p)

/-- A rekey of both directions starts over the encrypted link; the responder sends KEMKEY (R353, R488). -/
def State.startRekey (s : State) (p : Nat) : State :=
  if (s.link p).kex.step != 0 || !s.portUp p || (s.link p).keys.isNone then s
  else if s.kexBarred then s.kexFail p
  else
    let s1 := s.kexOrRekey p
    if (s1.link p).kex.initiator then s1 else s1.sendKemkey p

end Sys2Proof.Machine
end

