-- ==== Sys2Proof/Machine/Link.lean ====
section
/-!
DEFINITION. The links (chapter 13): levelling, frames with their acceptance and replay, credits, lane health and the spare swap, and
the writes of PORT_CTL.
-/
namespace Sys2Proof.Machine

/-! ### Levelling (R357, R358) -/

/-- The port stands at a step of levelling. -/
def State.atStep (s : State) (p n : Nat) : Bool := s.portState p == 1 && s.fld (rPortStat p) 5 3 == n && s.portRole p != roleEth

/-- A step ends well and the next one is reached, or levelling fails with a cause. -/
def State.stepDone (s : State) (p n : Nat) (ok : Bool) (cause : Nat) : State :=
  if !s.atStep p n then s else if ok then s.setPortStep p (n + 1) else s.portGoesDown p cause

/-- CARRIER_CHECK_DONE: an optical port needs its laser source, and five good carriers (R357 step 1, R552). -/
def State.carrierDone (s : State) (p : Nat) (ok : Bool) : State :=
  let laser := decide (96 ≤ p) || (s.mgmt.lsPres.getLsbD (p / 8) && (s.link p).lowCarriers.isEmpty)
  s.stepDone p 1 (ok && laser) 2

def execCarrierCheckDone (p : LinkIx) (ok : Bool) (s : State) : Host.Outcome State Fault Refusal := .next (s.carrierDone p ok)

/-- LANE_TRAINING_DONE (R357 step 2). -/
def execLaneTrainingDone (p : LinkIx) (ok : Bool) (s : State) : Host.Outcome State Fault Refusal := .next (s.stepDone p 2 ok 3)

/-- Logical lanes 0–3 and the spare of qualified physical lanes, best first: the worst of five is the spare (R338, R357 step 3). -/
def laneMap (q : List Nat) : List Nat × Option Nat :=
  let spare := if q.length == 5 then q.getLast? else none
  ((List.range 5).filter (fun i => q.contains i && spare != some i), spare)

def packMap (m : List Nat) : Nat := (List.range m.length).foldl (fun a l => a + m.getD l 0 * 2 ^ (3 * l)) 0

/-- The qualified lanes named, each once. -/
def lanesOf (l : List Nat) : List Nat := (l.filter (fun i => decide (i < 5))).eraseDups

/-- The Filard Link levels on all 8 lanes, or at half rate on lanes 0–3 or 4–7, among the groups that the self-test left it; without
a whole group levelling fails (R502, R515). -/
def State.filardQualify (s : State) (tx rx : List Nat) : State :=
  let ok (l : Nat) : Bool := tx.contains l && rx.contains l && nbit (s.fld rBistFilard 9 8) (l / 4)
  let lo := [0, 1, 2, 3]
  let hi := [4, 5, 6, 7]
  let m := if (lo ++ hi).all ok then lo ++ hi else if lo.all ok then lo else if hi.all ok then hi else []
  if m.isEmpty then s.portGoesDown filardLink 4
  else (s.setLink filardLink { s.link filardLink with rxMap := m, rxSpare := none }).setPortStep filardLink 4

/-- A lane that failed the self-test is excluded from its port's levelling (R502). -/
def State.laneExcluded (s : State) (p l : Nat) : Bool := s.bit (rBistLane ((5 * p + l) / 64)) ((5 * p + l) % 64)

/-- LANE_QUALIFY_DONE: the lanes that qualified, best first, in each direction; fewer than four fail (R357 step 3, R502). -/
def State.qualifyDone (s : State) (p : Nat) (tx rx : List Nat) : State :=
  if !s.atStep p 3 then s
  else if p == filardLink then s.filardQualify tx rx
  else
    let good (l : List Nat) : List Nat := (lanesOf l).filter (fun i => !s.laneExcluded p i)
    if (good tx).length < 4 || (good rx).length < 4 then s.portGoesDown p 4
    else
      let t := laneMap (good tx)
      let r := laneMap (good rx)
      let failed := ((List.range 5).filter (fun i => !(good rx).contains i)).foldl (fun a i => a + 2 ^ i) 0
      let s1 := s.setReg (rPortLane p) (packMap t.1 + t.2.getD 0 * 2 ^ 12 + (if t.2.isSome then 2 ^ 15 else 0) + failed * 2 ^ 16)
      let s2 := s1.setBit (rPortStat p) 6 (t.2.isSome && r.2.isSome)
      (s2.setLink p { s2.link p with rxMap := r.1, rxSpare := r.2 }).setPortStep p 4

def execLaneQualifyDone (p : LinkIx) (tx rx : List Nat) (s : State) : Host.Outcome State Fault Refusal := .next (s.qualifyDone p tx rx)

/-- ALIGNMENT_LOCK: lanes are locked, and the key exchange begins (R357 steps 4, 5). -/
def State.alignmentLock (s : State) (p : Nat) (ok : Bool) : State :=
  if !s.atStep p 4 then s else if ok then (s.setPortStep p 5).startKex p else s.portGoesDown p 5

def execAlignmentLock (p : LinkIx) (ok : Bool) (s : State) : Host.Outcome State Fault Refusal := .next (s.alignmentLock p ok)

/-- The fields of an LVL payload (R357). -/
def lvlFar (b : BitVec 128) : FarEnd :=
  { role := b.extractLsb' 0 3, gref := b.extractLsb' 3 17, axis := b.getLsbD 20, peer := b.extractLsb' 21 5, vcMin := b.extractLsb' 26 8 }

/-- The checks of R44 of a GRID port's far end. -/
def State.farOk (s : State) (p : Nat) (f : FarEnd) : Bool :=
  if s.portRole p != roleGrid then true
  else
    let t := f.gref.toNat / 128
    let axis := s.bit (rPortRole p) 21
    let peer := s.fld (rPortRole p) 20 16
    f.role.toNat == roleGrid && t == (if axis then peer * 32 + s.col else s.row * 32 + peer) &&
    f.axis == axis && f.peer.toNat == (if axis then s.row else s.col)

/-- The credits a far end advertises: VC_MIN on every channel, level 0 only on a link to an endpoint or module (R347, R354). -/
def State.openCredits (s : State) (p : Nat) (f : FarEnd) : KMap Nat :=
  ((List.range 18).filter (fun v => s.portRole p == roleGrid || v % 3 == 0)).map (fun v => (v, f.vcMin.toNat))

/-- OVHD and G_RATE of PORT_GATE_TIME are set at levelling from the role (R405). -/
def State.gateTimeSet (s : State) (p : Nat) : State :=
  let eth := s.portRole p == roleEth
  (s.setFld (rPortGateTime p) 7 0 (if eth then 20 else 128)).setFld (rPortGateTime p) 23 8 (if eth then 3555 else 3604)

/-- The port is UP: credits flow; an ACCEL port takes an agent number, a MODULE port its key, a new trunk member changes the grid
(R69, R300, R357 step 7, R379). -/
def State.portComesUp (s : State) (p : Nat) (f : FarEnd) : State :=
  let l := s.link p
  let s1 := s.setLink p { l with far := some f, credits := s.openCredits p f, freed := [] }
  let s2 := ((s1.setPortState p 2).setPortStep p 7).setPortCause p 0
  let s3 := (s2.setFld (rPortStat p) 23 16 0).setFld (rPortLink p) 47 32 (s2.freeNat 16)
  let s4 := if p == filardLink then s3.took else s3.took.gateTimeSet p
  match s4.portRole p with
  | 1 => if (s4.agentsOfPort p).any (fun a => !s4.swept a) then s4
         else match s4.freeAgent with
          | some a => s4.bindAgent a (some p)
          | none => s4
  | 2 => (s4.behindPort p).foldl (fun s t => s.bumpEpoch t (some p)) s4
  | 3 => s4.sendKeyp p
  | _ => s4

/-- LVL: the far end is checked; the port comes up, or fails with cause 0x07 and its block's book holds the far end's grid reference
(R44, R357 steps 6, 7). -/
def State.lvl (s : State) (p : Nat) (b : BitVec 128) : State :=
  if !s.atStep p 6 then s
  else
    let f := lvlFar b
    if s.farOk p f then s.portComesUp p f
    else (s.record (linkBook p) (linkPage p) clsConfig 2 (aidLink p) (p + f.gref.toNat * 2 ^ 32)).portGoesDown p 7

/-- LEVELLING_RETRY: 10 ms after a failed levelling, it starts again (R358). -/
def State.levellingRetry (s : State) (p : Nat) : State :=
  if s.bit (rPortCtl p) 0 && s.portState p == 0 && s.fld (rPortStat p) 15 8 != 1 && s.fld (rPortStat p) 23 16 != 0 then s.beginLevelling p else s

def execLevellingRetry (p : LinkIx) (s : State) : Host.Outcome State Fault Refusal := .next (s.onFirmware (.levellingRetry p.val) (fun s => s.levellingRetry p))

/-! ### Lane health and the spare swap (R359–R361) -/

/-- A receive lane is to be replaced by the spare: SWAP goes out in the beacon and the control flits, frames are discarded (R360). -/
def State.startSwap (s : State) (p lane : Nat) (orderly : Bool) : State :=
  let s1 := s.setLink p { s.link p with swapRx := some lane, swapOrderly := orderly }
  (s1.setPortState p 3).linkNote p 1 (s1.link p).accepted (some lane)

/-- The receive side can swap now. -/
def State.canSwap (s : State) (p lane : Nat) : Bool :=
  let l := s.link p
  s.portUp p && l.rxSpare.isSome && l.swapRx.isNone && l.rxMap.contains lane

/-- A lane of a port has failed: it is swapped at once, or the port goes down with cause 0x08; an ETH link goes down (R359, R364). -/
def State.laneFails (s : State) (p lane : Nat) : State :=
  if !s.portUp p || (p != filardLink && decide (5 ≤ lane)) then s
  else if p == filardLink then (if (s.link p).rxMap.contains lane then s.portGoesDown p 8 else s)
  else if s.portRole p == roleEth then (if lane < 4 then s.portGoesDown p 8 else s)
  else
    let l := s.link p
    let s1 := (s.setBit (rPortLane p) (16 + lane) true).errSum (pgPort p) (16 + lane)
    if l.rxSpare == some lane then
      if l.swapRx.isSome then s1.portGoesDown p 8
      else (s1.setLink p { l with rxSpare := none }).setBit (rPortStat p) 6 false
    else if !l.rxMap.contains lane then s1
    else if s1.canSwap p lane then s1.startSwap p lane false
    else if l.swapRx == some lane then s1
    else s1.portGoesDown p 8

def execLaneFail (p : LinkIx) (lane : Fin 8) (s : State) : Host.Outcome State Fault Refusal := .next (s.laneFails p lane.val)

/-- The wrong symbols of a lane's uncorrectable codewords in the running window: as many as the command says, and at most as many symbols as
they have on the lane (R350, R359; log 207). -/
def State.lostSymbols (s : State) (p lane count : Nat) : Nat :=
  let l := s.link p
  min count (kgetD l.badWords lane 0 * (528 / l.rxMap.length))

/-- BER_WINDOW_END: 2^WIN_LOG2 codewords of a lane have been counted. Over THRESH in DEG_WINDOWS consecutive windows the lane is degraded,
and is swapped in an orderly way, or kept and recorded without a spare (R359). -/
def State.berWindow (s : State) (p lane count : Nat) : State :=
  let k := s.fld (rPortBer p) 4 0
  let w := kgetD (s.link p).window lane (0, 0)
  if !s.portUp p || s.portRole p == roleEth || decide (w.1 < 2 ^ (if 16 ≤ k && k ≤ 26 then k else 20)) then s
  else
    let l := s.link p
    let u := s.lostSymbols p lane count
    let run := if s.fld (rPortBer p) 63 32 < w.2 + u then kgetD l.overRun lane 0 + 1 else 0
    let c := rPortLaneErr p lane
    let s0 := s.setLink p { l with overRun := kset l.overRun lane run, window := kdel l.window lane, badWords := kdel l.badWords lane }
    let s1 := ((s0.setFld c 63 32 (w.2 + u)).setFld c 31 0 (min (2 ^ 32 - 1) (s.fld c 31 0 + u))).tickLanes p [lane]
    if !l.rxMap.contains lane || run < max 1 (s1.fld (rPortBer p) 11 8) || s1.bit (rPortLane p) (21 + lane) then s1
    else
      let s2 := s1.setBit (rPortLane p) (21 + lane) true
      if s2.canSwap p lane then s2.startSwap p lane true else s2.linkNote p 1 l.accepted (some lane)

def execBerWindowEnd (p : PortIx) (lane : Fin 5) (count : BitVec 32) (s : State) : Host.Outcome State Fault Refusal :=
  .next (s.berWindow p lane.val count.toNat)

/-- SWAP_REQUEST: the sender moves the logical number of a physical lane to its spare (R360 step 3). -/
def State.swapRequest (s : State) (p lane : Nat) : State :=
  let c := rPortLane p
  match (List.range 4).find? (fun l => s.fld c (3 * l + 2) (3 * l) == lane) with
  | some l =>
    if s.portUp p && s.bit c 15 then
      let s1 := (s.setFld c (3 * l + 2) (3 * l) (s.fld c 14 12)).setBit c 15 false
      (s1.setBit (rPortStat p) 6 false).setPortState p 3
    else s
  | none => s

def execSwapRequest (p : PortIx) (lane : Fin 5) (s : State) : Host.Outcome State Fault Refusal := .next (s.swapRequest p lane.val)

/-- SWAP_LOCK: the receiver has locked on the spare; it sends NAK, and the replay begins (R360 steps 4, 5). -/
def State.swapLock (s : State) (p : Nat) : State :=
  let l := s.link p
  match l.swapRx, l.rxSpare with
  | some lane, some sp =>
    let s1 := s.setLink p { l with rxMap := l.rxMap.map (fun x => if x == lane then sp else x), rxSpare := none, swapRx := none,
                                   naking := true, nakDue := true }
    (s1.setBit (rPortStat p) 6 false).count (pgPort p) 8
  | _, _ => s

def execSwapLock (p : PortIx) (s : State) : Host.Outcome State Fault Refusal := .next (s.swapLock p)

/-- SWAP_TIMEOUT: a swap has not ended after 250 µs (R361). -/
def execSwapTimeout (p : PortIx) (s : State) : Host.Outcome State Fault Refusal :=
  .next (s.onlyIf (s.portState p == 3) (fun s => s.portGoesDown p 9))

/-! ### Frames sent (R349–R355) -/

/-- BACKPRESSURE is active for a channel in the frame about to be sent (R530). -/
def State.creditHeld (s : State) (p v : Nat) : Bool :=
  let c := rPgPerturb (pgPort p)
  s.fld c 2 0 == 2 && s.fld c 7 3 == v && decide ((s.link p).bpFrames % max 1 (s.fld c 47 32) < s.fld c 31 16)

/-- The port sends frames: in service, or from the key exchange of its levelling on. -/
def State.framing (s : State) (p : Nat) : Bool :=
  s.portRole p != roleEth && (s.portUp p || (s.portState p == 1 && decide (5 ≤ s.fld (rPortStat p) 5 3)))

/-- The physical lanes of the logical lanes, transmit side; the Filard Link uses the lanes it levelled on (R338, R515). -/
def State.txLanes (s : State) (p : Nat) : List Nat :=
  if p == filardLink then (s.link p).rxMap else (List.range 4).map (fun l => s.fld (rPortLane p) (3 * l + 2) (3 * l))

/-- The 64 B control flit (R351). -/
def TxFrame.controlFlit (f : TxFrame) : List Byte :=
  let swap := match f.swap with
    | some l => 4 + 8 * l
    | none => 0
  let credit := (List.range 18).foldl (fun a v => a + f.credit.getD v 0 % 2 ^ 12 * 2 ^ (12 * v)) 0
  let slot (i : Nat) : Nat := match f.slots[i]? with
    | some x => x.vc % 32
    | none => 31
  let map := (List.range 28).foldl (fun a i => a + slot i * 2 ^ (5 * i)) 0
  leBytes 64 (f.ctr % 2 ^ 32 + f.ackSeq % 2 ^ 32 * 2 ^ 32 + ((if f.nak then 1 else 0) + (if f.kph then 2 else 0) + swap) * 2 ^ 64 +
    credit * 2 ^ 128 + map * 2 ^ 344)

/-- The key and salt of a direction: initiator to responder, or back (R353, R486). -/
def LinkKeys.dir (k : LinkKeys) (ir : Bool) : BitVec 256 × BitVec 32 := if ir then (k.keyIR, k.saltIR) else (k.keyRI, k.saltRI)

/-- Bytes under the key stream of a key, a salt and a frame counter: encrypted, or decrypted (R353). -/
def gcmMix (k : BitVec 256 × BitVec 32) (ctr : Nat) (bs : List Byte) : List Byte :=
  List.zipWith (fun b i => b ^^^ Config.gcmByte k.1 k.2 (BitVec.ofNat 64 ctr) i) bs (List.range bs.length)

/-- The 28 data slots as plaintext; an idle slot holds zeros. -/
def TxFrame.plain (f : TxFrame) : List Byte := slice (f.slots.flatMap (fun x => slice x.data 0 64)) 0 1792

/-- The frame's 30 flits: control flit, ciphertext and integrity flit; without keys the slots go as they are, with a zero tag
(R349, R352, R353, R357 step 5). -/
def TxFrame.seal (f : TxFrame) (key : Option (BitVec 256 × BitVec 32)) : List Byte :=
  let ctl := f.controlFlit
  let cipher := match key with
    | some k => gcmMix k f.ctr f.plain
    | none => f.plain
  let tag := match key with
    | some k => (Config.gcmTag k.1 k.2 (BitVec.ofNat 64 f.ctr) ctl cipher).toNat
    | none => 0
  let front := ctl ++ cipher ++ leBytes 56 tag
  front ++ leBytes 8 (crc64 front)

/-- A frame goes out on the lanes: alignment markers first at every 1,024th, then its codewords; each lane's replay orders it
(R17, R350). -/
def State.putOnLanes (s : State) (p : Nat) (f : TxFrame) : State :=
  let l := s.link p
  let map := s.txLanes p
  let out := List.zip map (frameLevels map.length f.body)
  let marks := if l.framesOut % 1024 == 0 then (List.range map.length).map (fun i => (i, f.ctr % 2 ^ 16)) else []
  (s.setLink p { l with framesOut := l.framesOut + 1, laneOut := out, markers := marks }).tickLanes p map

/-- The flits of the next frame and what stays queued: the first 28, or on the Filard Link in service the first 28 whose channel holds a
credit, which each uses (R349, R354). A fabric port's flits used their credits when the scheduler matched them. -/
def pickFlits : List TxFlit → Nat → KMap Nat → List TxFlit × List TxFlit × KMap Nat
  | [], _, c => ([], [], c)
  | x :: rest, n, c =>
    if n == 0 then ([], x :: rest, c)
    else if kgetD c x.vc 0 == 0 then let r := pickFlits rest n c; (r.1, x :: r.2.1, r.2.2)
    else let r := pickFlits rest (n - 1) (kset c x.vc (kgetD c x.vc 0 - 1)); (x :: r.1, r.2.1, r.2.2)

/-- The flits of a port's next frame, the ones that stay, and the credits left. -/
def State.nextFlits (s : State) (p : Nat) : List TxFlit × List TxFlit × KMap Nat :=
  let l := s.link p
  if p == filardLink && s.portUp p then pickFlits l.txq 28 l.credits else (l.txq.take 28, l.txq.drop 28, l.credits)

/-- A new frame: the next counter, the acknowledgement, the credits freed, and up to 28 flits (R349, R351, R354). -/
def State.newFrame (s : State) (p : Nat) : State :=
  let l := s.link p
  let give (v : Nat) : Nat := if s.creditHeld p v then 0 else min 4095 (kgetD l.freed v 0)
  let credit := (List.range 18).map give
  let q := s.nextFlits p
  let f0 : TxFrame := { ctr := l.next, ackSeq := (l.accepted + 2 ^ 32 - 1) % 2 ^ 32, nak := l.nakDue, kph := s.bit (rPortKey p) 1,
                        swap := l.swapRx, credit := credit, slots := q.1 }
  let f : TxFrame := { f0 with body := f0.seal (l.keys.map (fun k => k.dir (s.kexInitiator p))) }
  let freed := (List.range 18).map (fun v => (v, kgetD l.freed v 0 - give v))
  let s1 := s.setLink p { l with next := l.next + 1, unacked := l.unacked ++ [f], txq := q.2.1, credits := q.2.2, nakDue := false, freed := freed,
                                 bpFrames := l.bpFrames + 1 }
  let s2 := ((s1.count (pgPort p) 0).count (pgPort p) 10 (if q.1.isEmpty then 1 else 0)).count (pgPort p) 5 (if l.nakDue then 1 else 0)
  (s2.setFld (rPortKey p) 63 16 (l.next + 1)).putOnLanes p f

/-- The next frame of a replay: the stored one, unchanged (R355). -/
def State.replayFrame (s : State) (p : Nat) : State :=
  let l := s.link p
  let s1 := ((s.setLink p { l with toReplay := l.toReplay - 1 }).count (pgPort p) 0).count (pgPort p) 6
  match l.unacked[l.unacked.length - l.toReplay]? with
  | some f => s1.putOnLanes p f
  | none => s1

/-- FRAME_SEND: a frame of a replay unchanged, or a new one; with 64 frames unacknowledged the sender pauses (R349, R355). -/
def State.frameSend (s : State) (p : Nat) : State :=
  let l := s.link p
  if !s.framing p then s
  else if 0 < l.toReplay then s.replayFrame p
  else if 64 ≤ l.unacked.length then s
  else s.newFrame p

def execFrameSend (p : LinkIx) (s : State) : Host.Outcome State Fault Refusal := .next (s.frameSend p)

/-! ### Frames received: the codewords and the control flit (R350–R353) -/

/-- The codewords of a received frame, decoded: the logical lanes are taken from their physical ones (R338, R350). -/
def State.rxWords (s : State) (p : Nat) (f : RxFrame) : List (Option (List Nat × List Nat)) :=
  (laneWords ((s.link p).rxMap.map (fun x => f.lanes.getD x []))).map rsDecode

/-- The 1,920 B of a frame, when every codeword decodes. -/
def rxBody (ws : List (Option (List Nat × List Nat))) : Option (List Byte) :=
  if ws.length == 3 && ws.all Option.isSome then some (ws.flatMap (fun w => match w with
    | some x => symbolsBytes x.1
    | none => [])) else none

/-- Symbols corrected on logical lane l of n. -/
def laneErrors (ws : List (Option (List Nat × List Nat))) (n l : Nat) : Nat :=
  (ws.map (fun w => match w with
    | some x => (x.2.filter (fun j => j % n == l)).length
    | none => 0)).sum

/-- What the decoders counted: codewords corrected and uncorrectable, and per lane the symbol errors of the register and of the window
(R359, R365). -/
def State.countWords (s : State) (p : Nat) (ws : List (Option (List Nat × List Nat))) : State :=
  let fixed (w : Option (List Nat × List Nat)) : Bool := match w with
    | some x => !x.2.isEmpty
    | none => false
  let s1 := (s.count (pgPort p) 2 (ws.filter fixed).length).count (pgPort p) 3 (ws.filter Option.isNone).length
  if p == filardLink then s1
  else
    let l := s1.link p
    let n := l.rxMap.length
    (List.range n).foldl (fun s i =>
      let x := l.rxMap.getD i 0
      let e := laneErrors ws n i
      let k := s.link p
      let w := kgetD k.window x (0, 0)
      let b := kgetD k.badWords x 0 + (ws.filter Option.isNone).length
      (s.setLink p { k with window := kset k.window x (w.1 + ws.length, w.2 + e), badWords := kset k.badWords x b }).setFld (rPortLaneErr p x) 31 0
        (min (2 ^ 32 - 1) (s.fld (rPortLaneErr p x) 31 0 + e))) s1

/-- The fields of a control flit (R351). -/
structure FrameCtl where
  fseq : Nat
  ackSeq : Nat
  nak : Bool
  kph : Bool
  swap : Option Nat
  credit : List Nat
  slotmap : List Nat
  deriving DecidableEq, Repr

def readControl (body : List Byte) : FrameCtl :=
  let v := leNat (slice body 0 64)
  { fseq := nbits v 31 0, ackSeq := nbits v 63 32, nak := nbit v 64, kph := nbit v 65, swap := if nbit v 66 then some (nbits v 69 67) else none,
    credit := (List.range 18).map (fun c => nbits v (128 + 12 * c + 11) (128 + 12 * c)),
    slotmap := (List.range 28).map (fun i => nbits v (344 + 5 * i + 4) (344 + 5 * i)) }

/-- The CRC of a frame matches (R352). -/
def crcMatches (body : List Byte) : Bool := crc64 (slice body 0 1912) == leNat (slice body 1912 8)

/-- A frame of the key phase before the one that has just been established; before the first keys its frames are not encrypted
(R353, R486 step 7). -/
def Link.oldPhase (l : Link) (c : FrameCtl) : Bool := l.rxNew && (if l.oldKeys.isSome then c.kph != l.rxKph else c.fseq != 0)

/-- The counter of the next frame expected in a frame's phase. -/
def Link.expected (l : Link) (c : FrameCtl) : Nat := if l.rxNew && !l.oldPhase c then 0 else l.accepted

/-- The keys of a frame's phase. -/
def Link.phaseKeys (l : Link) (c : FrameCtl) : Option LinkKeys := if l.oldPhase c then l.oldKeys else l.keys

/-- A frame's 64-bit counter: the one nearest the expected one whose low half is FSEQ (R351). -/
def frameCtr (expected fseq : Nat) : Nat :=
  let b := expected / 2 ^ 32 * 2 ^ 32 + fseq
  if b + 2 ^ 31 ≤ expected then b + 2 ^ 32 else if expected + 2 ^ 31 < b ∧ 2 ^ 32 ≤ b then b - 2 ^ 32 else b

/-- The key and salt that a frame was sealed under, none before the first keys (R353). -/
def State.rxKey (s : State) (p : Nat) (c : FrameCtl) : Option (BitVec 256 × BitVec 32) :=
  ((s.link p).phaseKeys c).map (fun k => k.dir (!s.kexInitiator p))

/-- The GCM tag of a frame matches, where its phase has keys (R352, R353). -/
def State.tagMatches (s : State) (p : Nat) (c : FrameCtl) (body : List Byte) : Bool :=
  match s.rxKey p c with
  | none => true
  | some k => (Config.gcmTag k.1 k.2 (BitVec.ofNat 64 (frameCtr ((s.link p).expected c) c.fseq)) (slice body 0 64) (slice body 64 1792)).toNat ==
      leNat (slice body 1856 16)

/-- The plaintext of the data slots. -/
def State.rxPlain (s : State) (p : Nat) (c : FrameCtl) (body : List Byte) : List Byte :=
  match s.rxKey p c with
  | none => slice body 64 1792
  | some k => gcmMix k (frameCtr ((s.link p).expected c) c.fseq) (slice body 64 1792)

/-! ### Packets from flits (R339, R340, R344, R345, R348) -/

/-- The payload bytes that a packet carries: LEN, and none for a request that asks for data (R339, R346). -/
def wirePayload (w0 : Nat) : Nat := if nbits w0 10 8 == 0 && asksData (nbits w0 7 0) then 0 else nbits w0 28 16

/-- Bytes of the extensions. -/
def wireExt (w0 : Nat) : Nat := 32 * ((if nbit w0 13 then 1 else 0) + (if nbit w0 14 then 1 else 0) + (if nbit w0 15 then 1 else 0))

/-- Words of the line-check tail: one per line of a payload of whole lines, on a MODULE port (R345). -/
def wireTail (module : Bool) (w0 : Nat) : Nat := if module && wirePayload w0 % 128 == 0 then wirePayload w0 / 128 else 0

/-- Bytes of the packet that a header's word 0 begins. -/
def wireBytes (module : Bool) (w0 : Nat) : Nat := 32 + wireExt w0 + wirePayload w0 + 8 * wireTail module w0

/-- The packet that its bytes spell. -/
def wirePacket (module : Bool) (bs : List Byte) : Packet :=
  let w0 := wordAt bs 0
  let w1 := wordAt bs 1
  let w2 := wordAt bs 2
  let w3 := wordAt bs 3
  let a1 := 32 + (if nbit w0 13 then 32 else 0)
  let a2 := a1 + (if nbit w0 14 then 32 else 0)
  let e := leNat (slice bs a2 16)
  let body := 32 + wireExt w0
  let seqx : Seqx := if nbits w0 10 8 == 4 then
      .col (BitVec.ofNat 12 (nbits e 11 0)) (BitVec.ofNat 6 (nbits e 15 12)) (BitVec.ofNat 16 (nbits e 31 16)) (BitVec.ofNat 32 (nbits e 63 32)) (nbit e 64)
    else .trv (BitVec.ofNat 128 e)
  { opcode := BitVec.ofNat 8 (nbits w0 7 0), cls := BitVec.ofNat 3 (nbits w0 10 8), hop := BitVec.ofNat 2 (nbits w0 12 11),
    len := nbits w0 28 16, poi := nbit w0 29, ord := nbit w0 31, tid := BitVec.ofNat 16 (nbits w0 47 32),
    job := BitVec.ofNat 16 (nbits w0 63 48), gfa := BitVec.ofNat 56 (nbits w1 55 0), epoch := BitVec.ofNat 8 (nbits w1 63 56),
    dst := BitVec.ofNat 17 (nbits w2 16 0), src := BitVec.ofNat 10 (nbits w2 26 17), agent := BitVec.ofNat 12 (nbits w2 38 27),
    flow := BitVec.ofNat 16 (nbits w2 54 39), status := BitVec.ofNat 4 (nbits w3 3 0), flags := BitVec.ofNat 3 (nbits w3 6 4),
    grant := BitVec.ofNat 2 (nbits w3 8 7), offer := nbit w3 9, grade := BitVec.ofNat 3 (nbits w3 12 10), nmh := nbit w3 13,
    age := BitVec.ofNat 16 (nbits w3 31 16),
    mask := if nbit w0 13 then some (BitVec.ofNat 128 (leNat (slice bs 32 16))) else none,
    mcx := if nbit w0 14 then some { members := BitVec.ofNat 32 (leNat (slice bs a1 4)), axis := nbit (leNat (slice bs (a1 + 4) 1)) 0,
                                     ports := BitVec.ofNat 128 (leNat (slice bs (a1 + 16) 16)) } else none,
    seqx := if nbit w0 15 then some seqx else none,
    payload := slice bs body (wirePayload w0),
    tail := (List.range (wireTail module w0)).map (fun i => BitVec.ofNat 64 (leNat (slice bs (body + wirePayload w0 + 8 * i) 8))) }

/-- One flit on its channel: a packet begins, goes on, or is whole (R339, R348). A link-local packet is served by its own command. -/
def Link.flit (module : Bool) (cycle : Nat) (l : Link) (v : Nat) (data : List Byte) : Link :=
  let c := kgetD l.partial' v (cycle, [])
  let bs := c.2 ++ data
  if bs.length < wireBytes module (wordAt bs 0) then { l with partial' := kset l.partial' v (c.1, bs) }
  else
    let q := wirePacket module bs
    let l1 := { l with partial' := kdel l.partial' v }
    if q.opcode.toNat == opKEX || q.opcode.toNat == opLVL then l1 else { l1 with received := l1.received ++ [{ vc := v, cycle := c.1, pkt := q }] }

/-- The data slots of a frame, each on the channel of the slot map. -/
def Link.slots (module : Bool) (cycle : Nat) (l : Link) (c : FrameCtl) (plain : List Byte) : Link :=
  (List.range 28).foldl (fun l i =>
    let v := c.slotmap.getD i 31
    if v < 18 then l.flit module cycle v (slice plain (64 * i) 64) else l) l

/-! ### Acceptance and replay (R355, R356) -/

/-- Frames up to the acknowledged one leave the replay buffer. -/
def ackFrames (ack : Nat) : List TxFrame → List TxFrame → List TxFrame
  | whole, [] => whole
  | whole, f :: rest => if f.ctr % 2 ^ 32 == ack then rest else ackFrames ack whole rest

/-- The acknowledgement, NAK and credits of an accepted frame: NAK starts a replay from ACKSEQ + 1 (R355). -/
def Link.control (l : Link) (c : FrameCtl) : Link :=
  let un := ackFrames c.ackSeq l.unacked l.unacked
  let moved := decide (un.length < l.unacked.length)
  let l1 := { l with unacked := un, toReplay := min l.toReplay un.length, replays := if moved then 0 else l.replays,
                     credits := (List.range c.credit.length).foldl (fun m v => kset m v (kgetD m v 0 + c.credit.getD v 0)) l.credits }
  if c.nak && !un.isEmpty then { l1 with toReplay := un.length, replays := l1.replays + 1 } else l1

/-- A frame is accepted in order: its control flit is applied, then its data slots, and a swap that it asks for begins (R355, R360). A swap
ends for this port with the first frame accepted after it. -/
def State.acceptFrame (s : State) (p : Nat) (c : FrameCtl) (plain : List Byte) : State :=
  let l := s.link p
  let new := l.rxNew && !l.oldPhase c
  let l1 := ({ l with accepted := l.expected c + 1, naking := false, rxNew := l.rxNew && !new, oldKeys := if new then none else l.oldKeys } : Link).control c
  let l2 := l1.slots (s.portRole p == roleModule) s.sw.cycle c plain
  let s1 := (s.setLink p l2).count (pgPort p) 1
  let s2 := if s1.portState p == 3 && l.swapRx.isNone && (c.nak || l.naking) then s1.setPortState p 2 else s1
  let s3 := match c.swap with
    | some lane => if p == filardLink then s2 else s2.swapRequest p lane
    | none => s2
  if 16 < l2.replays then s3.portGoesDown p 0x0A else s3

/-- A frame that decoded, with its CRC good: a bad tag takes the port down; in counter order it is accepted, else the rest is discarded
with NAK (R355, R356). -/
def State.frameChecked (s : State) (p : Nat) (body : List Byte) : State :=
  let l := s.link p
  let c := readControl body
  if !s.tagMatches p c body then
    ((s.count (pgPort p) 7).record bookChip (linkPage p) clsSecurity 3 (aidLink p) (p + (if c.kph then 2 ^ 32 else 0))).portGoesDown p 0x0B
  else if c.fseq == l.expected c % 2 ^ 32 then s.acceptFrame p c (s.rxPlain p c body)
  else if l.naking || c.fseq < l.expected c % 2 ^ 32 then s
  else s.setLink p { l with naking := true, nakDue := true }

/-- A damaged frame is discarded, and NAK is due (R355). -/
def State.frameDamaged (s : State) (p : Nat) : State := s.setLink p { s.link p with naking := true, nakDue := true }

/-- FRAME_RECEIVE: the codewords are decoded and the CRC is checked; what passes is accepted or discarded by its tag and counter. A port
that swaps a receive lane discards frames (R350, R352, R355, R360). -/
def State.frameReceive (s0 : State) (p : Nat) (f : RxFrame) : State :=
  let l := s0.link p
  if !s0.framing p || l.swapRx.isSome then s0
  else
    let ws := s0.rxWords p f
    let inj := s0.takeInject (pgPort p) 2
    let s := ((inj.getD s0).tickLanes p l.rxMap).countWords p ws
    match rxBody ws with
    | none => s.frameDamaged p
    | some body =>
      if inj.isSome || !crcMatches body then (s.count (pgPort p) 4).frameDamaged p else s.frameChecked p body

def execFrameReceive (p : LinkIx) (f : RxFrame) (s : State) : Host.Outcome State Fault Refusal := .next (s.frameReceive p f)

/-! ### PORT_CTL -/

/-- A write of PORT_CTL: EN 1 starts levelling and EN 0 takes the port down with cause 0x0D, each on a change; SWAP_NOW swaps a lane in
an orderly way when a spare exists, REKEY rekeys (R43, R353, R357, R358, R362). -/
def State.portCtlWrite (s : State) (p : Nat) (v : Word) : State :=
  s.cfgDo (rPortCtl p) (fun s =>
    let w := v.toNat
    let was := s.bit (rPortCtl p) 0
    let s1 := ((s.setFld (rPortCtl p) 7 4 (nbits w 7 4)).setFld (rPortCtl p) 11 9 (nbits w 11 9)).setBit (rPortCtl p) 0 (nbit w 0)
    let s2 :=
      if nbit w 0 && !was then (s1.setFld (rPortStat p) 23 16 0).startLevelling p
      else if !nbit w 0 && was then
        let d := if s1.portState p == 4 || s1.portState p == 0 then ((s1.setPortState p 4).setPortCause p 0x0D) else s1.portGoesDown p 0x0D
        { d with boot := { d.boot with roleLocked := d.boot.roleLocked.filter (· != p) } }
      else s1
    let lane := nbits w 11 9
    let s3 := if nbit w 8 && s2.canSwap p lane then s2.startSwap p lane true else s2
    if nbit w 12 then s3.startRekey p else s3)

/-- LEVELLING_START (R357). -/
def execLevellingStart (p : PortIx) (v : Word) (s : State) : Host.Outcome State Fault Refusal := .next (s.portCtlWrite p v)
/-- PORT_DISABLE (R362). -/
def execPortDisable (p : PortIx) (v : Word) (s : State) : Host.Outcome State Fault Refusal := .next (s.portCtlWrite p v)
/-- SWAP_NOW (R360). -/
def execSwapNow (p : PortIx) (v : Word) (s : State) : Host.Outcome State Fault Refusal := .next (s.portCtlWrite p v)
/-- REKEY (R488). -/
def execRekey (p : PortIx) (v : Word) (s : State) : Host.Outcome State Fault Refusal := .next (s.portCtlWrite p v)

/-- REKEY_INTERVAL: the frame count has reached 2^REKEY_LOG2, between 20 and 47 (R353). -/
def State.rekeyInterval (s : State) (p : Nat) : State :=
  let k := min 47 (max 20 (s.fld (rPortKey p) 13 8))
  if 2 ^ k ≤ (s.link p).next then s.startRekey p else s

def execRekeyInterval (p : LinkIx) (s : State) : Host.Outcome State Fault Refusal := .next (s.rekeyInterval p)

/-- LASER_FAULT: LS_FAULT_N of a slot falls; an UP port's low carriers fail their lanes, and a port at levelling step 1 reads its
monitors anew (R552). -/
def State.laserFault (s : State) (k : Nat) (low : List (PortIx × Fin 5)) : State :=
  let mine := low.filter (fun e => e.1.val / 8 == k)
  mine.foldl (fun s e =>
    if s.portUp e.1 then s.laneFails e.1 e.2.val
    else if s.atStep e.1 1 then
      let l := s.link e.1
      s.setLink e.1 { l with lowCarriers := insertNew l.lowCarriers e.2.val }
    else s) s

def execLaserFault (slot : Fin 12) (low : List (PortIx × Fin 5)) (s : State) : Host.Outcome State Fault Refusal := .next (s.laserFault slot.val low)

end Sys2Proof.Machine
end

