-- ==== Sys2Proof/Machine/Roce.lean ====
section
/-!
DEFINITION. Remote memory access over Ethernet (chapter 16, R364, R489): frames and priorities, PFC, queue pairs and their contexts, RDMA
writes and reads, registrations, completion rings, congestion response, the raw path, MACsec keys and the Ethernet egress.
-/
namespace Sys2Proof.Machine

/-! ### Parts of the state -/

/-- AID of RoCE ingress of ETH port p (R412). -/
def aidRoce (p : Nat) : Nat := aidBlock (12 + p / 8 % 4) (0x020 + p % 8)
/-- RoCE ingress of an ETH port orders one more event; a QP that was never created names no port (R21, R412). -/
def State.tickRoce (s : State) (p : Nat) : State := if 96 ≤ p then s.tick (aidRoce p) else s
/-- AID of the posting arbiter (R421). -/
def aidPost : Nat := aidChip 0x0C1

def State.ring (s : State) (r : Nat) : Ring := kgetD s.roce.rings r {}
def State.setRing (s : State) (r : Nat) (x : Ring) : State := { s with roce := { s.roce with rings := kset s.roce.rings r x } }

def Qp.parcel (q : Qp) : Nat := q.f 0 7 2
def Qp.prio (q : Qp) : Nat := q.f 0 28 26
def Qp.job (q : Qp) : Nat := q.f 1 63 48
/-- PMTU in bytes: 3, 4, 5 for 1,024, 2,048, 4,096. -/
def Qp.pmtu (q : Qp) : Nat := 2 ^ (q.f 0 37 35 + 7)
/-- SCOPE; 0 is taken as HALL. -/
def Qp.scope (q : Qp) : BitVec 2 := if q.f 0 21 20 == 0 then 2 else BitVec.ofNat 2 (q.f 0 21 20)

/-- At least some µs have passed since a cycle, at region 0's calibrated 1.8 GHz, or it never came (R28). -/
def State.since (s : State) (at' : Option Nat) (us : Nat) : Bool :=
  match at' with
  | none => true
  | some c => decide (1800 * us * s.coreTrim ≤ (s.sw.cycle - c) * 2 ^ 24)

/-! ### Frames to send (R35, R407, R424, R426) -/

/-- Bytes of a frame from its destination address through the FCS, with SecTAG and ICV. -/
def State.frameLen (s : State) (t : RoceTx) : Nat :=
  let head (n : Nat) : Nat := 14 + (if (s.qp n).f 0 25 25 == 1 then 4 else 0) + 16 + (if (s.qp n).f 0 24 24 == 1 then 40 else 20) + 8 + 12 + 4 + 16 + 4
  match t with
  | .ack n _ _ => head n + 4
  | .nak n _ _ => head n + 4
  | .rnr n _ _ => head n + 4
  | .readResponse op n _ _ d => head n + d.length + (if op == 0x0E then 0 else 4)
  | .cnp n => head n + 16
  | .pfc _ _ => 64
  | .raw _ f => f.length + 16 + 16 + 4

/-- The priority that something to be sent has; none for a PFC frame. -/
def State.txPrio (s : State) (p : Nat) : RoceTx → Option Nat
  | .ack n _ _ => some (s.qp n).prio
  | .nak n _ _ => some (s.qp n).prio
  | .rnr n _ _ => some (s.qp n).prio
  | .readResponse _ n _ _ _ => some (s.qp n).prio
  | .cnp _ => some (s.fld (rEthPrio p) 14 12)
  | .pfc _ _ => none
  | .raw q _ => some q

/-- The parcel that a frame is charged to: its QP's; none for the companion processor's raw frames (R373). -/
def State.txParcel (s : State) : RoceTx → Option Nat
  | .ack n _ _ => some (s.qp n).parcel
  | .nak n _ _ => some (s.qp n).parcel
  | .rnr n _ _ => some (s.qp n).parcel
  | .readResponse _ n _ _ _ => some (s.qp n).parcel
  | .cnp n => some (s.qp n).parcel
  | .pfc _ _ => none
  | .raw _ _ => none

/-- A frame as the packet buffer holds it: at the input of an internal source of the port's region, in cells of 128 B (R35, R366, R368). -/
def State.framed (s : State) (p q : Nat) (t : RoceTx) : Stored :=
  let n := s.frameLen t
  { id := 0, pkt := { opcode := 0, cls := 2 }, input := 32 * (p / 32) + p % 32, cells := ceilDiv n 128, account := s.txParcel t, admitted := true,
    outs := [(p, q)], frame := some { tx := t, prio := q, len := n } }

/-- Queues something to be sent on an ETH port: a PFC frame at the port itself, another frame in the packet buffer. A frame for a link
that is down is lost (R35, R425). -/
def State.ethTx (s : State) (p : Nat) (t : RoceTx) : State :=
  match s.txPrio p t with
  | none => { s with roce := { s.roce with tx := s.roce.tx ++ [(p, t)] } }
  | some q => if s.ethOpen p then s.storeInner (s.framed p q t) else s

/-! ### Priorities and PFC (R409–R411) -/

/-- The priority of a frame (R409). -/
def State.ethPrio (s : State) (p : Nat) (f : EthFrame) : Nat :=
  match f.vlan, s.bit (rEthPrio p) 0 with
  | some (pcp, _), true => pcp.toNat
  | _, _ => match f.dscp with
    | some d => s.fld (rEthDscp p (d.toNat / 16)) (4 * (d.toNat % 16) + 2) (4 * (d.toNat % 16))
    | none => s.fld (rEthPrio p) 3 1

/-- Bytes of priority q in the buffer. -/
def EthPort.held (e : EthPort) (q : Nat) : Nat := (e.buffer.filter (fun x => x.1 == q)).foldl (fun a x => a + x.2.bytes.length) 0
/-- Bytes in the buffer. -/
def EthPort.total (e : EthPort) : Nat := e.buffer.foldl (fun a x => a + x.2.bytes.length) 0
/-- The miss queue is full, and holds a packet of priority q (R414). -/
def EthPort.missFull (e : EthPort) (q : Nat) : Bool := decide (512 ≤ e.missq.length) && e.missq.any (fun m => m.prio == q)

/-- The PFC state of priority q follows the buffer and the miss queue; each change sends a PFC frame (R410). -/
def State.pfcOne (s : State) (p : Nat) (q : Nat) : State :=
  let e := s.eth p
  let c := rEthPfc p
  let on := e.pausing.getLsbD q
  let want := s.bit c q && (e.missFull q || decide (1024 * s.fld c 18 8 ≤ e.held q) || (on && decide (1024 * s.fld c 29 19 < e.held q)))
  if want == on then s
  else
    let e1 : EthPort := { e with pausing := BitVec.ofNat 8 (nsetBits e.pausing.toNat q q (if want then 1 else 0)) }
    (s.setEth p e1).ethTx p (.pfc q (if want then 0xFFFF else 0))

def State.pfcUpdate (s : State) (p : Nat) : State := (List.range 8).foldl (fun s q => s.pfcOne p q) s

/-- PFC_REFRESH: 1,000 pause quanta have passed while the condition holds: the frame is sent again (R410). -/
def execPfcRefresh (p : PortIx) (q : Fin 8) (s : State) : Host.Outcome State Fault Refusal :=
  .next (s.onlyIf ((s.eth p.val).pausing.getLsbD q.val) (fun s => s.ethTx p.val (.pfc q.val 0xFFFF)))

/-- PFC_FRAME: each named priority is paused for its quanta, or resumed by quanta of zero (R411). -/
def State.pfcFrame (s : State) (p : Nat) (prios : BitVec 8) (quanta : List (BitVec 16)) : State :=
  if !s.ethOpen p then s
  else
    let e := s.eth p
    let w := (List.range 8).foldl (fun a q => if prios.getLsbD q then nsetBits a q q (if quanta.getD q 0 == 0 then 0 else 1) else a) e.paused.toNat
    s.setEth p { e with paused := BitVec.ofNat 8 w }

def execPfcFrame (p : PortIx) (prios : BitVec 8) (quanta : List (BitVec 16)) (s : State) : Host.Outcome State Fault Refusal :=
  .next (s.pfcFrame p.val prios quanta)

/-- PFC_PAUSE_EXPIRY: a received pause runs out, and the priority is eligible again (R411). -/
def State.pfcExpiry (s : State) (p q : Nat) : State :=
  let e := s.eth p
  s.setEth p { e with paused := BitVec.ofNat 8 (nsetBits e.paused.toNat q q 0) }

def execPfcPauseExpiry (p : PortIx) (q : Fin 8) (s : State) : Host.Outcome State Fault Refusal := .next (s.pfcExpiry p.val q.val)

/-- PFC_CONFIG: a write of ETH_PFC, refused under R411; ignored unless the role is ETH. -/
def State.pfcConfig (s : State) (p : Nat) (v : Word) : State :=
  s.cfgDo (rEthPfc p) (fun s =>
    let w := v.toNat % 2 ^ 41
    let n := ((List.range 8).filter (fun q => nbit w q)).length
    if s.portRole p != roleEth then s
    else if decide (2048 < n * (nbits w 18 8 + nbits w 40 30)) || decide (nbits w 18 8 ≤ nbits w 29 19) then s.setBit (rEthPfc p) 63 true
    else (s.setReg (rEthPfc p) w).pfcUpdate p)

def execPfcConfig (p : PortIx) (v : Word) (s : State) : Host.Outcome State Fault Refusal := .next (s.pfcConfig p.val v)

/-! ### Contexts (R413, R414) -/

/-- The eight context words as QUERY shows them, hardware fields filled in. -/
def ctxWords (q : Qp) : List Nat :=
  let w (i : Nat) : Nat := (q.words.getD i 0).toNat
  let st := match q.state with
    | .reset => 0
    | .rtr => 1
    | .error => 2
  [nsetBits (w 0) 1 0 st, nsetBits (w 1) 47 24 q.epsn, nsetBits (w 2) 23 0 q.msn, w 3, w 4, w 5, w 6,
   q.rate % 2 ^ 16 + q.rdErrs * 2 ^ 16 + q.rdLast.toNat * 2 ^ 32 + q.errStatus.toNat * 2 ^ 36 + q.errSyndrome.toNat * 2 ^ 40]

/-- Something of the QP is in progress: its context is busy (R414). -/
def State.qpBusy (s : State) (n : Nat) : Bool :=
  let q := s.qp n
  !q.msgs.isEmpty || !q.reqs.isEmpty || !q.acks.isEmpty || s.roce.eth.any (fun e => e.2.missq.any (fun m => m.qp == n))

/-- Local offset of context n in the spill region. -/
def State.spillAt (s : State) (n : Nat) : Nat := s.fld rRoceQpcBase 45 12 * 0x1000 + 128 * n

/-- The extent of the spill region: VALID, non-coherent, of a parcel, over the whole 8 MiB (R414). -/
def State.spillExt (s : State) (parcel : Nat) : Bool :=
  let a := s.spillAt 0
  decide (a + 0x80_0000 ≤ t0End) && match s.extAt a with
    | some (_, x) => x.state == .valid && !x.coh && !x.vers && x.owner == parcel && x.covers (a + 0x80_0000 - 1)
    | none => false

/-- A victim's context is written to the spill region with CP_PARCEL's permissions. The model keeps the context itself in `qps`. -/
def State.spillWrite (s : State) (n : Nat) : State :=
  match s.extAt (s.spillAt n) with
  | some (_, x) => if x.state == .valid && x.wr && x.owner == s.fld rRoceCtl 7 2
      then s.writeMem (s.spillAt n) ((ctxWords (s.qp n)).flatMap (leBytes 8) ++ List.replicate 64 0) else s
  | none => s

/-- The context comes on chip, the least recently used one that is not busy leaving for it; none when every one is busy (R414). -/
def State.cacheQp (s : State) (n : Nat) : Option State :=
  let put (s : State) (l : List Nat) : State := { s with roce := { s.roce with cached := l ++ [n] } }
  let l := s.roce.cached.filter (· != n)
  if l.length < 4096 then some (put s l)
  else match l.find? (fun v => !s.qpBusy v) with
    | some v => some (put (s.spillWrite v) (l.filter (· != v)))
    | none => none

/-! ### Registrations (R418–R420) -/

/-- The check of a message's first packet (R419): [va, va + len) of registration RKEY for a QP. -/
def State.mrCheck (s : State) (q : Qp) (k : RocePkt) (write : Bool) : Option Nat :=
  let ix := nbits k.rkey.toNat 29 16
  let m := s.mr ix
  let w (i : Nat) : Nat := (m.words.getD i 0).toNat
  let len := nbits (w 3) 40 0
  let ok := m.state == 1 && nbits k.rkey.toNat 31 30 == 0 && nbits k.rkey.toNat 15 0 == nbits (w 0) 47 32 && nbits (w 0) 7 2 == q.parcel &&
    nbits (w 0) 19 8 == q.f 0 19 8 && nbit (w 0) (if write then 21 else 20) && decide (w 1 ≤ k.va.toNat) &&
    decide (k.va.toNat + k.dmaLen.toNat ≤ w 1 + len)
  if ok then some ix else none

/-- The GFA that a message targets (R418). -/
def State.mrTarget (s : State) (ix va : Nat) : Nat := nbits ((s.mr ix).words.getD 2 0).toNat 55 0 + (va - ((s.mr ix).words.getD 1 0).toNat)

/-- The GO of a registration command: the register is written, STATUS and DONE are set; ignored while a REVOKE is outstanding. -/
def State.mrCmd (s : State) (op : Nat) (v : Word) (f : State → Nat → State) : State :=
  s.cfgDo rRoceMrCmd (fun s =>
    if s.roce.mrs.any (fun m => m.2.state == 2) && !s.bit rRoceMrCmd 62 then s
    else
      let s1 := (s.setFld rRoceMrCmd 13 0 (nbits v.toNat 13 0)).setFld rRoceMrCmd 17 16 op
      if !v.getLsbD 63 then s1
      else f ((s1.setFld rRoceMrCmd 62 62 0).tick aidMr) (nbits v.toNat 13 0))

/-- A registration command ends with a status. -/
def State.mrEnd (s : State) (st : Status) : State := (s.setFld rRoceMrCmd 23 20 st.toNat).setBit rRoceMrCmd 62 true

/-- MR_REGISTER: a FREE entry takes the words of ROCE_MR_DATA0–3 and becomes VALID (R418, R419). -/
def State.mrRegister (s : State) (v : Word) : State :=
  s.mrCmd 1 v (fun s k =>
    let ws := (List.range 4).map (fun i => BitVec.ofNat 64 (s.reg (rRoceMrData i)))
    if (s.mr k).state != 0 then s.mrEnd stAccessFault
    else if nbits (ws.getD 3 0).toNat 40 0 == 0 then s.mrEnd stUnsupported
    else (s.setMr k { state := 1, words := ws }).mrEnd stOK)

def execMrRegister (v : Word) (s : State) : Host.Outcome State Fault Refusal := .next (s.mrRegister v)

/-- MR_REVOKE: the entry becomes REVOKING, and FREE once the messages past its check have ended (R420). -/
def State.mrRevoke (s : State) (v : Word) : State :=
  s.mrCmd 2 v (fun s k =>
    let m := s.mr k
    if m.state != 1 then s.mrEnd stAccessFault
    else ((s.setMr k { m with state := 2 }).setFld rRoceMrCmd 23 20 0).mrSettle k)

def execMrRevoke (v : Word) (s : State) : Host.Outcome State Fault Refusal := .next (s.mrRevoke v)

/-- MR_QUERY: the entry is copied to ROCE_MR_DATA0–3 with its STATE (R419). -/
def State.mrQuery (s : State) (v : Word) : State :=
  s.mrCmd 3 v (fun s k =>
    let m := s.mr k
    ((List.range 4).foldl (fun (s : State) i =>
      let w := (m.words.getD i 0).toNat
      s.setReg (rRoceMrData i) (if i == 0 then nsetBits w 1 0 m.state else w)) s).mrEnd stOK)

def execMrQuery (v : Word) (s : State) : Host.Outcome State Fault Refusal := .next (s.mrQuery v)

/-! ### Entry to ERROR (R417) -/

/-- The registrations that a QP's messages and requests refer to. -/
def Qp.mrsOf (q : Qp) : List Nat := (q.msgs.map (fun m => m.mr) ++ q.reqs.map (fun r => r.mr)).foldl insertNew []

/-- Ring positions reserved by messages whose entry is not written. -/
def State.unreserve (s : State) (q : Qp) : State :=
  let n := (q.msgs.filter (fun m => m.ended && m.imm.isSome && m.posting == 0)).length
  let r := q.f 6 25 16
  if n == 0 then s else s.setRing r { s.ring r with reserved := (s.ring r).reserved - n }

/-- A QP enters ERROR: what was issued completes, the rest is abandoned, and a region book holds the cause (R417). -/
def State.qpError (s : State) (n : Nat) (st : Status) (synd : BitVec 8) : State :=
  let q := s.qp n
  if q.state != .rtr then s
  else
    let q1 : Qp := { q with state := .error, errStatus := st, errSyndrome := synd, msgs := [], acks := [], reqs := q.reqs.filter (fun r => r.issued) }
    let s1 := ((s.unreserve q).setQp n q1).dropTwin 4 (BitVec.ofNat 32 n)
    let s2 := (s1.record (bookRegion (q.port / 32)) (pgRegion (q.port / 32)) clsRoce 2 (aidRoce q.port)
      (n + st.toNat * 2 ^ 64 + synd.toNat * 2 ^ 68) 0 st (some q.parcel)).count pgRoce 10
    q.mrsOf.foldl (fun s k => s.mrSettle k) s2

/-- A NAK other than a sequence error is sent and the QP enters ERROR. -/
def State.qpFail (s : State) (n psn : Nat) (st : Status) (synd : BitVec 8) : State :=
  ((s.ethTx (s.qp n).port (.nak n psn synd)).count pgRoce 3).qpError n st synd

def synInvalid : BitVec 8 := 0x61
def synAccess : BitVec 8 := 0x62
def synOperational : BitVec 8 := 0x63
def synSequence : BitVec 8 := 0x60

/-- The NAK of a fabric status (R417). -/
def syndromeOf (st : Status) : BitVec 8 :=
  if st == stAccessFault || st == stRevoked then synAccess else if st == stUnsupported then synInvalid else synOperational

/-- MR_REVOKE_TIMEOUT: messages of a REVOKING registration that have not ended are answered with NAK remote access error, and it becomes
FREE (R420 steps 3, 4). -/
def State.mrTimeout (s : State) (k : Nat) : State :=
  if (s.mr k).state != 2 then s
  else
    let ns := (s.roce.qps.filter (fun e => e.2.msgs.any (fun m => m.mr == k))).map (fun e => e.1)
    let s1 := ns.foldl (fun s n => s.qpFail n (s.qp n).epsn stRevoked synAccess) s
    if (s1.mr k).state == 2 then s1.mrFree k else s1

def execMrRevokeTimeout (k : Fin 16384) (s : State) : Host.Outcome State Fault Refusal := .next (s.mrTimeout k.val)

/-! ### Fabric requests (R416) -/

/-- The lowest TID that no outstanding request of RoCE ingress of port p uses. -/
def State.roceTid (s : State) (p : Nat) : BitVec 16 :=
  BitVec.ofNat 16 (((List.range (s.recov.trackers.length + 1)).find? (fun i =>
    !s.recov.trackers.any (fun t => t.req.agent == agRoce p && t.req.src.toNat == s.ix && t.req.tid.toNat == i))).getD 0)

/-- A payload cut into requests: partial lines alone under a mask, whole lines up to the end of their page. -/
def writeParts : Nat → Nat → List Byte → List (Nat × List Byte × Option (BitVec 128))
  | 0, _, _ => []
  | fuel + 1, g, bs =>
    if bs.isEmpty then []
    else
      let o := g % 128
      if o != 0 || bs.length < 128 then
        let n := min (128 - o) bs.length
        (g - o, List.replicate o 0 ++ bs.take n ++ List.replicate (128 - o - n) 0, some (BitVec.ofNat 128 ((2 ^ n - 1) * 2 ^ o))) ::
          writeParts fuel (g + n) (bs.drop n)
      else
        let n := min (0x1000 - g % 0x1000) (bs.length / 128 * 128)
        (g, bs.take n, none) :: writeParts fuel (g + n) (bs.drop n)

/-- A READ's range cut into reads of whole lines within a page: line address, length, offset in the message, bytes to skip, bytes. -/
def readParts : Nat → Nat → Nat → Nat → List (Nat × Nat × Nat × Nat × Nat)
  | 0, _, _, _ => []
  | fuel + 1, g, off, left =>
    if left == 0 then []
    else
      let n := min left (0x1000 - g % 0x1000)
      (g - g % 128, ceilDiv (g % 128 + n) 128 * 128, off, g % 128, n) :: readParts fuel (g + n) (off + n) (left - n)

/-- A request packet of RoCE ingress, by whether its lines lie in a coherent extent (R416); its TID is given when it is issued. -/
def State.rocePacket (s : State) (p job gfa len : Nat) (coh read : Bool) (data : List Byte) (mask : Option (BitVec 128)) : Packet :=
  let g := BitVec.ofNat 56 gfa
  let op := if read then (if coh then opRDU else opRDN) else if coh then opWRI else opWRN
  { opcode := BitVec.ofNat 8 op, len := len, job := BitVec.ofNat 16 job, gfa := g, dst := BitVec.ofNat 17 (gfaHome g * 128),
    src := BitVec.ofNat 10 s.ix, agent := agRoce p, mask := mask, payload := data }

/-- Adds a request to a QP. -/
def State.addReq (s : State) (n : Nat) (pkt : Packet) (use : RoceUse) (psn num mr : Nat) (yellow : Bool) : State :=
  let q := s.qp n
  let r : RoceReq := { k := q.nextReq, pkt := pkt, use := use, psn := psn, num := num, mr := mr, yellow := yellow }
  s.setQp n { q with reqs := q.reqs ++ [r], nextReq := q.nextReq + 1 }

/-- Adds a request of a message's data, by the extent of its lines (R416). -/
def State.addData (s : State) (p n gfa len : Nat) (read : Bool) (data : List Byte) (mask : Option (BitVec 128)) (use : RoceUse) (psn num mr : Nat)
    (yellow : Bool) : State :=
  let r := s.coherentAt (BitVec.ofNat 56 gfa)
  r.1.addReq n (r.1.rocePacket p (r.1.qp n).job gfa len r.2 read data mask) use psn num mr yellow

def RoceReq.isWrite (r : RoceReq) : Bool := r.use == .write

/-- Lines of a request. -/
def RoceReq.lines (r : RoceReq) : List Nat := linesOf r.pkt.gfa.toNat r.pkt.len

/-- A write waits for earlier writes to its lines, a read for every earlier write of its QP (R416). -/
def Qp.mayIssue (q : Qp) (r : RoceReq) : Bool :=
  let before := q.reqs.takeWhile (fun x => x.k != r.k)
  match r.use with
  | .write => !before.any (fun x => x.isWrite && x.lines.any (fun l => r.lines.contains l))
  | .read _ _ _ => !before.any RoceReq.isWrite
  | .entry => true

/-- Fabric requests of RoCE ingress of a port that are tracked (R447). -/
def State.roceTracked (s : State) (p : Nat) : Nat :=
  (s.recov.trackers.filter (fun t => t.req.agent == agRoce p && t.req.src.toNat == s.ix)).length

/-- Issues a held request when it may go: at most 2,048 of a port's RoCE ingress are tracked at a time (R447). -/
def State.roceIssue (s : State) (n k : Nat) : State :=
  let q := s.qp n
  match q.reqs.find? (fun r => r.k == k) with
  | none => s
  | some r =>
    if r.issued || !q.mayIssue r || 2048 ≤ s.roceTracked (r.pkt.agent.toNat % 256) then s
    else
      let pkt : Packet := { r.pkt with tid := s.roceTid (r.pkt.agent.toNat % 256) }
      let r1 : RoceReq := { r with pkt := pkt, issued := true }
      (s.setQp n { q with reqs := q.reqs.map (fun x => if x.k == k then r1 else x) }).issue pkt (.roce n k)

def State.rocePump (s : State) (n : Nat) : State := ((s.qp n).reqs.map (fun r => r.k)).foldl (fun s k => s.roceIssue n k) s

/-! ### Completion rings (R421, R422) -/

/-- Entries of a ring: SIZE_LOG2 6–20, other values act as 6. -/
def Ring.size (r : Ring) : Nat :=
  let z := nbits r.cfg.toNat 5 1
  if 6 ≤ z && z ≤ 20 then 2 ^ z else 64

/-- The ring has no room for one more entry (R422). -/
def State.ringFull (s : State) (r : Nat) : Bool :=
  let x := s.ring r
  decide (x.size < x.posted + x.reserved + 1 - (s.stake (nbits x.cfg.toNat 59 46)).value.toNat)

/-- The 32 B entry (R421). -/
def ringEntry (imm : BitVec 32) (n len psn seq : Nat) : List Byte :=
  leBytes 4 imm.toNat ++ leBytes 4 n ++ leBytes 4 len ++ leBytes 4 (psn % 2 ^ 24) ++ leBytes 8 seq ++ leBytes 8 0

/-- Steps 4 and 5 begin: the entry takes its place in the ring and is written with WRI (R422). -/
def State.postEntry (s : State) (n : Nat) (m : RoceMsg) : State :=
  let q := s.qp n
  let r := q.f 6 25 16
  let x := s.ring r
  let seq := x.posted + 1
  let off := nbits x.cfg.toNat 45 12 * 0x1000 + (seq - 1) % x.size * 32
  let job := (s.jobOf (nbits x.cfg.toNat 11 6)).getD q.job
  let lo := off % 128
  let data := List.replicate lo 0 ++ ringEntry (m.imm.getD 0) n m.total m.lastPsn seq ++ List.replicate (96 - lo) 0
  let pkt := s.rocePacket q.port job (s.ix * 2 ^ 46 + off - lo) 128 true false data (some (BitVec.ofNat 128 ((2 ^ 32 - 1) * 2 ^ lo)))
  let s1 := (s.tick aidPost).setRing r { x with posted := seq, reserved := x.reserved - 1 }
  let q1 : Qp := { q with msgs := q.msgs.map (fun y => if y.num == m.num then { y with posting := 1 } else y) }
  ((s1.setQp n q1).addReq n pkt .entry m.lastPsn m.num m.mr false).count pgRoce 6

/-! ### Responses (R416, R417, R422, R424) -/

/-- Responses of a READ. -/
def Qp.responses (q : Qp) (m : RoceMsg) : Nat := max 1 (ceilDiv m.total q.pmtu)

/-- The bytes [off, off + n) of a READ's data, once all have returned. -/
def RoceMsg.chunk (m : RoceMsg) (off n : Nat) : Option (List Byte) :=
  let bs := m.data.flatMap (fun e => (e.2.drop (off - e.1)).take (off + n - max off e.1))
  if bs.length == n then some bs else none

/-- The response that READ m may send next: its opcode and data (R424). -/
def Qp.nextResponse (q : Qp) (m : RoceMsg) : Option (BitVec 8 × List Byte) :=
  let off := m.resp * q.pmtu
  let n := min q.pmtu (m.total - off)
  let total := q.responses m
  if decide (q.tokens < 0) then none
  else (m.chunk off n).map (fun d =>
    ((if total == 1 then 0x10 else if m.resp == 0 then 0x0D else if m.resp + 1 == total then 0x0F else 0x0E), d))

/-- The READ whose responses come next in PSN order: nothing before it is unacknowledged. -/
def Qp.readHead (q : Qp) : Option RoceMsg :=
  match q.msgs.find? (fun m => !m.write) with
  | none => none
  | some m => if q.acks.any (fun a => decide (a.num < m.num)) then none else some m

/-- The head READ's next response is sent; after its last one the message ends. -/
def State.readSend (s : State) (n : Nat) : State :=
  let q := s.qp n
  match q.readHead with
  | none => s
  | some m => match q.nextResponse m with
    | none => s
    | some (op, d) =>
      let done := m.resp + 1 == q.responses m
      let msn := if done && !m.dup then (q.msn + 1) % 2 ^ 24 else q.msn
      let tx : RoceTx := .readResponse op n ((m.psn + m.resp) % 2 ^ 24) msn d
      let m1 : RoceMsg := { m with resp := m.resp + 1, left := m.left - d.length }
      let ms := if done then q.msgs.filter (fun x => x.num != m.num || x.write) else q.msgs.map (fun x => if x.num == m.num && !x.write then m1 else x)
      let q1 : Qp := { q with msn := msn, msgs := ms, tokens := q.tokens - Int.ofNat (s.frameLen tx) }
      let s1 := (s.setQp n q1).ethTx q.port tx
      if done then (s1.tick aidMr).mrSettle m.mr else s1

/-- The acknowledgement at the head is sent once its writes are complete and its immediate is posted; a posted immediate's notify stake
is released (R416, R422). -/
def State.ackOne (s : State) (n : Nat) (a : RoceAck) : Option State :=
  let q := s.qp n
  if q.reqs.any (fun r => r.isWrite && decide (r.num ≤ a.num)) then none
  else
    let here := q.msgs.find? (fun m => m.write && m.ended && m.num == a.num && a.last)
    match here with
    | some m =>
      if m.imm.isSome && m.posting == 0 then some (s.postEntry n m)
      else if m.imm.isSome && m.posting == 1 then none
      else
        let q1 : Qp := { q with msn := (q.msn + 1) % 2 ^ 24, acks := q.acks.drop 1, msgs := q.msgs.filter (fun x => !(x.write && x.num == m.num)) }
        let s1 := (s.setQp n q1).ethTx q.port (.ack n a.psn q1.msn)
        let s2 := if m.imm.isSome && q.f 6 14 14 == 1 && s1.stakeParcel (q.f 6 13 0) == some q.parcel
          then s1.srelLocal (q.f 6 13 0) 1 q.scope (agRoce q.port) else s1
        some ((s2.tick aidMr).mrSettle m.mr)
    | none => some ((s.setQp n { q with acks := q.acks.drop 1 }).ethTx q.port (.ack n a.psn q.msn))

/-- Sends what a QP may send, in PSN order. -/
def State.roceOut : Nat → State → Nat → State
  | 0, s, _ => s
  | fuel + 1, s, n =>
    let q := s.qp n
    match q.readHead with
    | some m =>
      if (q.nextResponse m).isNone then s
      else match s.twinOp 4 (BitVec.ofNat 32 n) with
        | none => (s.readSend n).roceOut fuel n
        | some o => if o.acts.isEmpty then s.visible 4 (BitVec.ofNat 32 n) (.readResponse n) (fun s => s) else s
    | none => match q.acks with
      | [] => s
      | a :: _ => match s.ackOne n a with
        | some s1 => (s1.rocePump n).roceOut fuel n
        | none => s

/-- Everything that a QP can do now: requests that may go, and what may be sent. -/
def State.roceRun (s : State) (n : Nat) : State :=
  let q := s.qp n
  if q.state != .rtr then s
  else (s.rocePump n).roceOut (2 * q.acks.length + q.msgs.foldl (fun a m => a + q.responses m) 1) n

/-- The action of a twinned READ: one response leaves, and the next one may follow (R458). -/
def State.readResponseAct (s : State) (n : Nat) : State := (s.readSend n).roceRun n

/-- A fabric request of a QP has completed (R417, R422 steps 3–5). -/
def State.roceStep (s : State) (n k : Nat) (p : Packet) : State :=
  let q := s.qp n
  match q.reqs.find? (fun r => r.k == k) with
  | none => s
  | some r =>
    let gone : Qp := { q with reqs := q.reqs.filter (fun x => x.k != k) }
    if q.state != .rtr then (s.setQp n gone).mrSettle r.mr
    else if p.status == stRetry && r.retries < 3 then
      (s.setQp n { q with reqs := q.reqs.map (fun x => if x.k == k then { x with retries := x.retries + 1 } else x) }).issue r.pkt (.roce n k)
    else
      let st := if p.status == stRetry then stLostState else p.status
      match r.use with
      | .read off cut len =>
        let d := if st == stOK then slice p.payload cut len else errorBytes len
        let f (m : RoceMsg) : RoceMsg := if m.num == r.num && !m.write then { m with data := kset m.data off d } else m
        let q1 : Qp := { gone with msgs := q.msgs.map f }
        if st == stOK then (s.setQp n q1).roceRun n
        else
          let l := ceilDiv (cut + len) 128
          let q2 : Qp := { q1 with rdErrs := min 0xFFFF (q.rdErrs + l), rdLast := st }
          let s1 := (s.setQp n q2).record (q.port / 8) (pgBlock (q.port / 8)) clsRoce 2 (aidRoce q.port) (n + st.toNat * 2 ^ 64) r.pkt.gfa.toNat st (some q.parcel)
          (s1.count pgRoce 11 l).roceRun n
      | .entry =>
        if st == stOK then
          (s.setQp n { gone with msgs := q.msgs.map (fun m => if m.num == r.num && m.posting == 1 then { m with posting := 2 } else m) }).roceRun n
        else (s.setQp n gone).qpFail n r.psn st (syndromeOf st)
      | .write => if st == stOK then (s.setQp n gone).roceRun n else (s.setQp n gone).qpFail n r.psn st (syndromeOf st)

/-- The same, and where the port's trackers were all in use, requests of its other QPs may go (R447). -/
def State.roceCmp (s : State) (n k : Nat) (p : Packet) : State :=
  let s1 := s.roceStep n k p
  if s.roceTracked (s.qp n).port + 1 < 2048 then s1
  else ((s1.roce.qps.filter (fun e => e.1 != n && e.2.port == (s.qp n).port && e.2.state == .rtr)).map (fun e => e.1)).foldl State.rocePump s1

/-! ### Serving packets (R415, R416, R419, R422, R423) -/

/-- A packet was served: EPSN, counters, and the acknowledgement it makes due (R416). -/
def State.served (s : State) (n : Nat) (k : RocePkt) (psns : Nat) (last read : Bool) : State :=
  let q := s.qp n
  let since := q.sinceAck + 1
  let due := !read && (last || k.ackReq || decide (max 1 (s.fld rRoceCc1 23 16) ≤ since))
  let q1 : Qp := { q with epsn := (q.epsn + psns) % 2 ^ 24, naked := false, sinceAck := if due || read then 0 else since,
                          acks := if due then q.acks ++ [{ psn := k.psn.toNat, num := q.num, last := last }] else q.acks }
  ((s.setQp n q1).count pgRoce 0).roceRun n

/-- A served packet with CE brings a CNP, at most one per CNP_GAP (R423). -/
def State.sendCnp (s : State) (n : Nat) (ce : Bool) : State :=
  let q := s.qp n
  if ce && s.since q.cnpAt (s.fld rRoceCc 7 0) then
    ((s.setQp n { q with cnpAt := some s.sw.cycle }).ethTx q.port (.cnp n)).count pgRoce 7
  else s

/-- The writes of a packet's payload. -/
def State.roceWrites (s : State) (p n : Nat) (k : RocePkt) (gfa mr : Nat) (yellow : Bool) : State :=
  (writeParts (k.payload.length / 0x1000 + 6) gfa k.payload).foldl (fun s w =>
    s.addData p n w.1 w.2.1.length false w.2.1 w.2.2 .write k.psn.toNat (s.qp n).num mr yellow) s

def opFirst (op : Nat) : Bool := op == 0x06 || op == 0x0A || op == 0x0B
def opLast (op : Nat) : Bool := op == 0x08 || op == 0x09 || op == 0x0A || op == 0x0B
def opImm (op : Nat) : Bool := op == 0x09 || op == 0x0B

/-- A WRITE packet at EPSN: its message is checked or continued, its payload written, its immediate's ring position reserved. -/
def State.serveWrite (s : State) (p n : Nat) (k : RocePkt) (yellow : Bool) : State :=
  let q := s.qp n
  let op := k.opcode.toNat
  let len := k.payload.length
  let cur := q.msgs.find? (fun m => m.write && !m.ended)
  let left := if opFirst op then k.dmaLen.toNat else (cur.map (fun m => m.left)).getD 0
  let bad := q.f 0 23 23 == 0 || opFirst op == cur.isSome || (opFirst op && decide (2 ^ 31 < k.dmaLen.toNat)) ||
    (op == 0x07 && len != q.pmtu) || decide (q.pmtu < len) || decide (left < len) || (opLast op && len != left) ||
    (opImm op && (q.f 6 26 26 == 0 || !(s.ring (q.f 6 25 16)).cfg.getLsbD 0))
  if bad then s.qpFail n k.psn.toNat stUnsupported synInvalid
  else
    let ok := if opFirst op then s.mrCheck q k true else cur.map (fun m => m.mr)
    match ok with
    | none => (s.tick aidMr).qpFail n k.psn.toNat stAccessFault synAccess
    | some mr =>
      if opImm op && s.ringFull (q.f 6 25 16) then (s.ethTx q.port (.rnr n k.psn.toNat (q.f 0 49 45))).count pgRoce 4
      else
        let s0 := if opFirst op then s.tick aidMr else s
        let s1 := if opImm op then (s0.tick aidPost).setRing (q.f 6 25 16) { s0.ring (q.f 6 25 16) with reserved := (s0.ring (q.f 6 25 16)).reserved + 1 } else s0
        let m0 : RoceMsg := match cur with
          | some m => m
          | none => { write := true, psn := k.psn.toNat, num := 0, gfa := s.mrTarget mr k.va.toNat, left := k.dmaLen.toNat, total := k.dmaLen.toNat, mr := mr }
        let m1 : RoceMsg := { m0 with num := q.num + 1, gfa := m0.gfa + len, left := m0.left - len, ended := opLast op, lastPsn := k.psn.toNat,
                                      imm := if opImm op then some k.imm else none }
        let q1 : Qp := { q with num := q.num + 1, msgs := q.msgs.filter (fun m => !(m.write && !m.ended)) ++ [m1] }
        (((s1.setQp n q1).roceWrites p n k m0.gfa mr yellow).served n k 1 (opLast op) false)

/-- A READ REQUEST at EPSN, or a duplicate one: it is checked, and its reads wait for the QP's earlier writes (R415, R416). -/
def State.serveRead (s : State) (p n : Nat) (k : RocePkt) (yellow dup : Bool) : State :=
  let q0 := s.qp n
  let q : Qp := if dup then { q0 with msgs := q0.msgs.filter (fun m => m.write || m.psn != k.psn.toNat),
                                      reqs := q0.reqs.filter (fun r => r.issued || r.psn != k.psn.toNat || r.isWrite) } else q0
  let reads := (q.msgs.filter (fun m => !m.write)).length
  let bad := q.f 0 22 22 == 0 || decide (2 ^ 31 < k.dmaLen.toNat) || decide (q.f 0 53 50 + 1 ≤ reads) || q.msgs.any (fun m => m.write && !m.ended)
  if bad then s.qpFail n k.psn.toNat stUnsupported synInvalid
  else
    let s0 := s.tick aidMr
    match s.mrCheck q k false with
    | none => s0.qpFail n k.psn.toNat stAccessFault synAccess
    | some mr =>
      let len := k.dmaLen.toNat
      let m : RoceMsg := { write := false, psn := k.psn.toNat, num := q.num + 1, gfa := s.mrTarget mr k.va.toNat, left := len, total := len, mr := mr,
                           lastPsn := k.psn.toNat, dup := dup }
      let s1 := s0.setQp n { q with num := q.num + 1, msgs := q.msgs ++ [m] }
      let s2 := (readParts (len / 0x1000 + 2) m.gfa 0 len).foldl (fun (s : State) w =>
        s.addData p n w.1 w.2.1 true [] none (.read w.2.2.1 w.2.2.2.1 w.2.2.2.2) k.psn.toNat m.num mr yellow) s1
      if dup then s2.roceRun n else s2.served n k (q.responses m) true true

/-- A packet of an RTR QP whose context is on chip (R415). -/
def State.servePacket (s0 : State) (p n : Nat) (k : RocePkt) (yellow : Bool) : State :=
  let s := s0.tick (aidRoce p)
  let q := s.qp n
  let d := (k.psn.toNat + 2 ^ 24 - q.epsn) % 2 ^ 24
  let read := k.opcode == 0x0C
  if d == 0 then
    let s1 := if read then s.serveRead p n k yellow false else s.serveWrite p n k yellow
    if (s1.qp n).epsn == q.epsn then s1 else s1.sendCnp n k.ce
  else if 2 ^ 24 - 2 ^ 22 ≤ d then
    let s1 := s.count pgRoce 1
    if read then
      let s2 := s1.serveRead p n k yellow true
      if (s2.qp n).state == .rtr then s2.sendCnp n k.ce else s2
    else (s1.setQp n { q with acks := q.acks ++ [{ psn := k.psn.toNat, num := q.num, last := false }] }).roceRun n
  else if q.naked then s
  else ((s.setQp n { q with naked := true }).ethTx q.port (.nak n q.epsn synSequence)).count pgRoce 2

/-! ### Ingress (R408, R410, R414) -/

/-- The QP a packet names, when it is one of this Tiolo's. -/
def State.qpOf (s : State) (k : RocePkt) : Option Nat :=
  if nbits k.destQP.toNat 23 16 == s.fld rRoceCtl 15 8 then some (nbits k.destQP.toNat 15 0) else none

/-- Whether RoCE ingress serves the QP: enabled, and RTR. -/
def State.qpServes (s : State) (n : Nat) : Bool := s.bit rRoceCtl 0 && (s.qp n).state == .rtr

/-- A packet at RoCE ingress: served, or put behind the fetch of its QP's context; none when the miss queue has no room for it. -/
def State.roceAccept (s : State) (p prio n : Nat) (k : RocePkt) (yellow : Bool) : Option State :=
  let e := s.eth p
  let waits := e.missq.any (fun m => m.qp == n)
  match (if waits || !s.roce.cached.contains n then none else s.cacheQp n) with
  | some s1 => some (s1.servePacket p n k yellow)
  | none =>
    if e.missq.length < 512 then
      let s1 := if waits then s else s.count pgRoce 5
      some ((s1.setEth p { e with missq := e.missq ++ [{ qp := n, prio := prio, yellow := yellow, pkt := k }] }).pfcUpdate p)
    else none

/-- CNP from the client: the rate falls, at most once per DEC_GAP (R424). -/
def State.cnpServe (s : State) (n : Nat) : State :=
  let q := s.qp n
  let s1 := (s.count pgRoce 8).setQp n { q with incAt := some s.sw.cycle }
  if !s.since q.decAt (s.fld rRoceCc 15 8) then s1
  else s1.setQp n { q with incAt := some s.sw.cycle, rate := max (s.fld rRoceCc 63 48) (q.rate - q.rate / 2 ^ s.fld rRoceCc 27 24), decAt := some s.sw.cycle }

/-- A packet of one opcode reaches RoCE ingress of port p: the oldest waiting frame of its priority that carries it passes its Ethernet
meter and leaves the buffer; the packet is served, held for its context, or discarded (R397, R408, R410, R414). -/
def State.rocePacketIn (s : State) (op : BitVec 8) (p : Nat) (k0 : RocePkt) : State :=
  let k : RocePkt := { k0 with opcode := op }
  if !s.ethOpen p then s
  else
    let e := s.eth p
    let frame := e.buffer.find? (fun x => x.2.isRoce && x.2.roce == k)
    let q := (frame.map (fun x => x.1)).getD (s.fld (rEthPrio p) 3 1)
    let first := match frame with
      | none => true
      | some f => (e.buffer.find? (fun x => x.1 == f.1)) == some f
    if !first then s
    else
      let r : State × Colour × Bool := match frame with
        | some f => s.ethMeterTest p q f.2.bytes.length ((f.2.vlan.map (fun v => v.2)).getD false) f.2.ect
        | none => (s, .green, false)
      if r.2.1 == .red then r.1
      else
        let s1 := match frame with
          | some f => r.1.setEth p { e with buffer := e.buffer.erase f }
          | none => r.1
        let k1 : RocePkt := { k with ce := k.ce || r.2.2 }
        match s1.qpOf k with
        | none => (s1.count pgRoce 9).pfcUpdate p
        | some n =>
          if !s1.qpServes n then (s1.count pgRoce 9).pfcUpdate p
          else if op == 0x81 then (s1.cnpServe n).pfcUpdate p
          else match s1.roceAccept p q n k1 (r.2.1 == .yellow) with
            | some s2 => s2.pfcUpdate p
            | none => s

def execRdmaWriteFirst (p : PortIx) (k : RocePkt) (s : State) : Host.Outcome State Fault Refusal := .next (s.rocePacketIn 0x06 p.val k)
def execRdmaWriteMiddle (p : PortIx) (k : RocePkt) (s : State) : Host.Outcome State Fault Refusal := .next (s.rocePacketIn 0x07 p.val k)
def execRdmaWriteLast (p : PortIx) (k : RocePkt) (s : State) : Host.Outcome State Fault Refusal := .next (s.rocePacketIn 0x08 p.val k)
def execRdmaWriteOnly (p : PortIx) (k : RocePkt) (s : State) : Host.Outcome State Fault Refusal := .next (s.rocePacketIn 0x0A p.val k)
def execRdmaWriteLastWithImmediate (p : PortIx) (k : RocePkt) (s : State) : Host.Outcome State Fault Refusal := .next (s.rocePacketIn 0x09 p.val k)
def execRdmaWriteOnlyWithImmediate (p : PortIx) (k : RocePkt) (s : State) : Host.Outcome State Fault Refusal := .next (s.rocePacketIn 0x0B p.val k)
def execRdmaReadRequest (p : PortIx) (k : RocePkt) (s : State) : Host.Outcome State Fault Refusal := .next (s.rocePacketIn 0x0C p.val k)
def execCnp (p : PortIx) (k : RocePkt) (s : State) : Host.Outcome State Fault Refusal := .next (s.rocePacketIn 0x81 p.val k)

/-- ROCE_RATE_INCREASE: the rate rises when INC_GAP has passed since the last CNP and the last increase (R424). -/
def State.rateUp (s : State) (n : Nat) : State :=
  let q := s.qp n
  if s.since q.incAt (s.fld rRoceCc 23 16) then s.setQp n { q with rate := min 1000 (q.rate + s.fld rRoceCc 47 32), incAt := some s.sw.cycle } else s

def execRoceRateIncrease (qp : BitVec 16) (s : State) : Host.Outcome State Fault Refusal :=
  .next (s.onlyIf ((s.qp qp.toNat).state == .rtr) (fun s => s.rateUp qp.toNat))

/-- QPC_FETCH_DONE: the context is on chip and its packets are served in order; one whose spill lines are lost enters ERROR (R414, R425). -/
def State.fetchDone (s : State) (p n : Nat) : State :=
  let e := s.eth p
  let mine := e.missq.filter (fun m => m.qp == n)
  if mine.isEmpty then s
  else match s.cacheQp n with
    | none => s
    | some s1 =>
      let s2 := s1.setEth p { e with missq := e.missq.filter (fun m => m.qp != n) }
      let lost := !s.roce.cached.contains n && s.poisoned (s.spillAt n)
      let s3 := if lost then (s2.qpError n stPoison 0).fatalEvent (s.fld rRoceCtl 7 2) pgRoce (aidRoce p) n (s.spillAt n) else s2
      (mine.foldl (fun s m => if s.qpServes n then s.servePacket p n m.pkt m.yellow else s.count pgRoce 9) s3).pfcUpdate p

def execQpcFetchDone (p : PortIx) (qp : BitVec 16) (s : State) : Host.Outcome State Fault Refusal := .next (s.fetchDone p.val qp.toNat)

/-! ### The raw path (R426) -/

/-- The 2 KiB record of a raw frame. -/
def rawRecord (p seq dropped : Nat) (bytes : List Byte) : List Byte :=
  leBytes 8 (p + (if 2032 < bytes.length then 2 ^ 7 else 0) + bytes.length % 2 ^ 14 * 2 ^ 8 + dropped % 2 ^ 32 * 2 ^ 32) ++ leBytes 8 seq ++
  slice bytes 0 2032

/-- Records of the raw ring: SIZE_LOG2 4–12, other values act as 8. -/
def rawSize (ring : Nat) : Nat := if 4 ≤ nbits ring 52 48 && nbits ring 52 48 ≤ 12 then 2 ^ nbits ring 52 48 else 256

/-- A raw frame is dropped, and counted in HEAD's register and for the next record (R425, R426). -/
def State.rawDrop (s : State) : State :=
  ({ s with roce := { s.roce with rawDropped := s.roce.rawDropped + 1 } } : State).setFld rRoceRawHead 63 32 (s.fld rRoceRawHead 63 32 + 1)

/-- The write of the oldest raw record, to the position that HEAD names, as the companion processor's agent (R387, R426). -/
def State.rawWrite (s : State) : State :=
  let ring := s.reg rRoceRawRing
  match s.roce.rawQ, s.jobOf (nbits ring 61 56) with
  | x :: _, some j =>
    let g := BitVec.ofNat 56 (s.ix * 2 ^ 46 + nbits ring 45 12 * 0x1000 + s.fld rRoceRawHead 31 0 % rawSize ring * 2048)
    let pkt : Packet := { opcode := BitVec.ofNat 8 opWRI, len := 2048, tid := 0xFFFE, job := BitVec.ofNat 16 j, gfa := g,
                          dst := BitVec.ofNat 17 (s.ix * 128), src := BitVec.ofNat 10 s.ix, agent := agCompanion,
                          payload := rawRecord x.1 x.2.1 x.2.2.1 x.2.2.2 }
    s.issue pkt .rawRing
  | _, _ => s

/-- A frame goes to the raw ring; a full or disabled ring drops it, counted. One record is written at a time (R387, R425, R426). -/
def State.rawFrame (s0 : State) (p : Nat) (bytes : List Byte) : State :=
  let s := s0.tick (aidRoce p)
  let ring := s.reg rRoceRawRing
  let head := s.fld rRoceRawHead 31 0 + s.roce.rawQ.length
  let full := !nbit ring 63 || decide (rawSize ring ≤ (head + 2 ^ 32 - s.fld rRoceRawTail 31 0) % 2 ^ 32)
  if full || (s.jobOf (nbits ring 61 56)).isNone then s.rawDrop
  else
    let s1 : State := { s with roce := { s.roce with rawDropped := 0, rawQ := s.roce.rawQ ++ [(p, s.seq (aidRoce p), s.roce.rawDropped, bytes)] } }
    let s2 := s1.count pgRoce 12
    if s.roce.rawQ.isEmpty then s2.rawWrite else s2

/-- The write of a raw record has completed: HEAD advances and the stake may be released. A write that fails leaves HEAD and the stake as
they are, and its frame is counted as dropped; the next record takes the position (R128, R387, R426). -/
def State.rawWritten (s : State) (c : Packet) : State :=
  let s1 : State := { s with roce := { s.roce with rawQ := s.roce.rawQ.drop 1 } }
  let s2 :=
    if c.status != stOK then s1.rawDrop
    else
      let s3 := s1.setFld rRoceRawHead 31 0 (s1.fld rRoceRawHead 31 0 + 1)
      if s3.bit rRoceRawTail 48 then s3.srelLocal (s3.fld rRoceRawTail 45 32) 1 1 agCompanion else s3
  s2.rawWrite

/-- Raw frames at the head of their priority that pass their meter leave the buffer for the raw ring. -/
def State.rawPump (s : State) (p q : Nat) : State :=
  let e := s.eth p
  match e.buffer.find? (fun x => x.1 == q) with
  | none => s
  | some f =>
    if f.2.isRoce && f.2.roce.destQP != 1 then s
    else
      let r := s.ethMeterTest p q f.2.bytes.length ((f.2.vlan.map (fun v => v.2)).getD false) f.2.ect
      if r.2.1 == .red then r.1 else ((r.1.setEth p { e with buffer := e.buffer.erase f }).rawFrame p f.2.bytes).pfcUpdate p

/-- ETH_FRAME: a frame that passed MACsec is classified; it waits in the buffer for RoCE ingress or the raw ring, or is discarded
(R408–R410). -/
def State.ethFrame (s : State) (p : Nat) (f : EthFrame) : State :=
  let raw := if f.isRoce then f.icrcOk && f.roce.destQP == 1 else f.toPort || f.broadcast
  let n := if f.isRoce && f.icrcOk then s.qpOf f.roce else none
  let roce := match n with
    | some n => s.qpServes n
    | none => false
  let op := f.roce.opcode.toNat
  if !s.ethOpen p then s
  else if !raw && !roce then s.count pgRoce 9
  else if !raw && !((0x06 ≤ op && op ≤ 0x0C) || op == 0x81) then s.qpFail (n.getD 0) f.roce.psn.toNat stUnsupported synInvalid
  else
    let q := s.ethPrio p f
    let e := s.eth p
    let room := decide (e.total + f.bytes.length ≤ 2 * 2 ^ 20) && (s.bit (rEthPfc p) q || decide (e.held q < 1024 * s.fld (rEthPfc p) 18 8))
    if !room then s.count pgRoce 9
    else
      let s1 := (s.setEth p { e with buffer := e.buffer ++ [(q, f)] }).pfcUpdate p
      if raw then s1.rawPump p q else s1

def execEthFrame (p : PortIx) (f : EthFrame) (s : State) : Host.Outcome State Fault Refusal := .next (s.ethFrame p.val f)

/-- RAW_TX: a frame is read from T0 and queued; DONE is set when it is sent (R426). -/
def State.rawTx (s : State) (v : Word) : State :=
  s.cfgDo rRoceRawTx1 (fun s =>
    let w := v.toNat
    let s1 := s.setReg rRoceRawTx1 (nbits w 23 0 + (if nbit w 63 then 0 else if s.bit rRoceRawTx1 62 then 2 ^ 62 else 0))
    let g := s.reg rRoceRawTx0
    let len := nbits w 13 0
    let ok := nbit w 63 && s.ethOpen (nbits w 20 14) && 60 ≤ len && len ≤ 9216 && g / 2 ^ 46 == s.ix && g % 64 == 0 && decide (g % 2 ^ 46 + len ≤ t0End)
    if ok then s1.ethTx (nbits w 20 14) (.raw (nbits w 23 21) (memRead s.mem.cells (g % 2 ^ 46) len)) else s1)

def execRawTx (v : Word) (s : State) : Host.Outcome State Fault Refusal := .next (s.rawTx v)

/-! ### QP commands (R412, R414) -/

/-- ROCE_ENABLE: a write of ROCE_CTL; EN is refused unless the spill region lies in one extent of CP_PARCEL (R414). -/
def State.roceEnable (s : State) (v : Word) : State :=
  s.cfgDo rRoceCtl (fun s =>
    let w := nbits v.toNat 25 0
    let locked := s.bit rRoceCtl 0
    let s1 := if locked then s else s.setReg rRoceCtl (w - w % 2)
    if !nbit w 0 then s1.setBit rRoceCtl 0 false
    else if locked then s1
    else if s1.spillExt (s1.fld rRoceCtl 7 2) then s1.setBit rRoceCtl 0 true
    else s1.note bookChip pgRoce clsConfig 2 (aidChip 0x3E0) rRoceCtl)

def execRoceEnable (v : Word) (s : State) : Host.Outcome State Fault Refusal := .next (s.roceEnable v)

/-- The GO of a QP command, ordered by the port's RoCE ingress; ignored while a DESTROY is outstanding. -/
def State.qpCmd (s : State) (op : Nat) (v : Word) (f : State → Nat → State) : State :=
  s.cfgDo rRoceQpcCmd (fun s =>
    if s.roce.qps.any (fun e => e.2.destroying) then s
    else
      let s1 := (s.setFld rRoceQpcCmd 15 0 (nbits v.toNat 15 0)).setFld rRoceQpcCmd 19 16 op
      if !v.getLsbD 63 then s1 else f (s1.setFld rRoceQpcCmd 62 62 0) (nbits v.toNat 15 0))

/-- A QP command ends with a status. -/
def State.qpCmdEnd (s : State) (st : Status) : State := (s.setFld rRoceQpcCmd 23 20 st.toNat).setBit rRoceQpcCmd 62 true

/-- A field of a context is out of range (R413). -/
def ctxBad (ws : List Nat) : Bool :=
  let w (i : Nat) : Nat := ws.getD i 0
  nbits (w 0) 21 20 == 3 || !(3 ≤ nbits (w 0) 37 35 && nbits (w 0) 37 35 ≤ 5) || !(96 ≤ nbits (w 0) 44 38) || (ws.drop 8).any (· != 0)

/-- A parcel holds a QP: its group lies in the parcel's range (R432). -/
def State.holdsQp (s : State) (parcel n : Nat) : Bool :=
  let b := nbits (s.grant parcel 5) 9 0
  decide (b ≤ n / 64) && decide (n / 64 < b + nbits (s.grant parcel 5) 26 16)

/-- QP_CREATE: RESET to RTR with the staged context (R412, R413, R424). -/
def State.qpCreate (s : State) (v : Word) : State :=
  s.qpCmd 1 v (fun s n =>
    let ws := (List.range 16).map (fun i => s.reg (rRoceQpcData i))
    let q : Qp := { state := .rtr, words := (ws.take 8).map (BitVec.ofNat 64), epsn := nbits (ws.getD 1 0) 47 24, rate := 1000 }
    if (s.qp n).state != .reset || !s.binds q.parcel q.job || !s.holdsQp q.parcel n then s.qpCmdEnd stAccessFault
    else if ctxBad ws then s.qpCmdEnd stUnsupported
    else
      let s1 := (s.tickRoce q.port).setQp n q
      let s2 := (s1.cacheQp n).getD (s1.spillWrite n)
      let s3 := if s2.bit rRoceCtl 1 && s2.fld rRoceCtl 25 16 / 32 == s2.row
        then (s2.startTwin 4 (BitVec.ofNat 16 q.job) (BitVec.ofNat 32 n) q.parcel (s2.fld rRoceCtl 25 16 % 32) (agRoce q.port)).1 else s2
      s3.qpCmdEnd stOK)

def execQpCreate (v : Word) (s : State) : Host.Outcome State Fault Refusal := .next (s.qpCreate v)

/-- QP_QUERY: the context is copied to ROCE_QPC_DATA0–15; its hardware words are a free value (R412, R413). -/
def State.qpQuery (s : State) (v : Word) : State :=
  s.qpCmd 2 v (fun s n =>
    let q := s.qp n
    let ws := ctxWords q
    let hw := s.freeNat 512
    let s1 := (List.range 16).foldl (fun (a : State) i =>
      a.setReg (rRoceQpcData i) (if i < 8 then ws.getD i 0 else nbits hw (64 * (i - 8) + 63) (64 * (i - 8)))) ((s.tickRoce q.port).took)
    s1.qpCmdEnd stOK)

def execQpQuery (v : Word) (s : State) : Host.Outcome State Fault Refusal := .next (s.qpQuery v)

/-- QP_FAIL: RTR to ERROR (R412, R417). -/
def State.qpFailCmd (s : State) (v : Word) : State :=
  s.qpCmd 3 v (fun s n =>
    if (s.qp n).state == .rtr then ((s.tickRoce (s.qp n).port).qpError n stOK 0).qpCmdEnd stOK else s.qpCmdEnd stAccessFault)

def execQpFail (v : Word) (s : State) : Host.Outcome State Fault Refusal := .next (s.qpFailCmd v)

/-- A QP goes to RESET: nothing more is sent for it; requests already issued complete. -/
def State.qpReset (s : State) (n : Nat) (wait : Bool) : State :=
  let q := s.qp n
  let left := q.reqs.filter (fun r => r.issued)
  let s1 := (s.unreserve q).dropTwin 4 (BitVec.ofNat 32 n)
  let s2 : State := { s1 with roce := { s1.roce with cached := s1.roce.cached.filter (· != n) } }
  let q1 : Qp := { state := .reset, words := q.words, reqs := left, nextReq := q.nextReq, destroying := wait && !left.isEmpty }
  q.mrsOf.foldl (fun s k => s.mrSettle k) (s2.setQp n q1)

/-- QP_DESTROY: to RESET; DONE once its outstanding fabric requests have completed (R412). -/
def State.qpDestroy (s : State) (v : Word) : State :=
  s.qpCmd 4 v (fun s n =>
    let s1 := (s.tickRoce (s.qp n).port).qpReset n true
    if (s1.qp n).destroying then s1.setFld rRoceQpcCmd 23 20 0 else s1.qpCmdEnd stOK)

def execQpDestroy (v : Word) (s : State) : Host.Outcome State Fault Refusal := .next (s.qpDestroy v)

/-- QP_DESTROY_DONE: the outstanding requests of a destroyed QP have completed (R412). -/
def State.qpDestroyDone (s : State) (n : Nat) : State :=
  let q := s.qp n
  if q.destroying && q.reqs.isEmpty then (s.setQp n { q with destroying := false }).qpCmdEnd stOK else s

def execQpDestroyDone (qp : BitVec 16) (s : State) : Host.Outcome State Fault Refusal := .next (s.qpDestroyDone qp.toNat)

/-- Every QP of a parcel is destroyed, and every registration of it is revoked (R440). -/
def State.dropRemote (s : State) (parcel : Nat) : State :=
  let ns := (s.roce.qps.filter (fun e => e.2.state != .reset && e.2.parcel == parcel)).map (fun e => e.1)
  let s1 := ns.foldl (fun s n => s.qpReset n false) s
  let ks := (s1.roce.mrs.filter (fun e => e.2.state == 1 && nbits (e.2.words.getD 0 0).toNat 7 2 == parcel)).map (fun e => e.1)
  ks.foldl (fun s k => (s.setMr k { s.mr k with state := if s.mrBusy k then 2 else 0 }).tick aidMr) s1

/-- A parcel holds a QP or registration that is not at rest (R436, R440). -/
def State.remoteBusy (s : State) (parcel : Nat) : Bool :=
  s.roce.qps.any (fun e => (e.2.state != .reset || !e.2.reqs.isEmpty) && e.2.parcel == parcel) ||
  s.roce.mrs.any (fun e => e.2.state != 0 && nbits (e.2.words.getD 0 0).toNat 7 2 == parcel)

/-! ### The Ethernet link and MACsec keys (R364, R425, R489) -/

/-- ETH_LINK_DOWN: what waits to be sent is lost and unsent READ responses are abandoned; contexts are unchanged (R364, R425). -/
def State.ethDown (s : State) (p : Nat) : State :=
  if s.portRole p != roleEth || !(s.link p).ethUp then s else s.portGoesDown p 0x02

def execEthLinkDown (p : PortIx) (s : State) : Host.Outcome State Fault Refusal := .next (s.ethDown p.val)

/-- ETH_LINK_UP: the link carries frames (R364). -/
def State.ethUp (s : State) (p : Nat) : State :=
  if s.portRole p != roleEth || s.portState p != 1 then s
  else
    let s1 := (((s.setPortState p 2).setPortStep p 7).setPortCause p 0).setFld (rPortStat p) 23 16 0
    (s1.setLink p { s1.link p with ethUp := true }).gateTimeSet p

def execEthLinkUp (p : PortIx) (s : State) : Host.Outcome State Fault Refusal := .next (s.ethUp p.val)

/-- SAK_INSTALL: a write of LC_SEL; GO installs the staged key for the selected association and zeroes it (R489). -/
def State.sakInstall (s : State) (v : Word) : State :=
  s.cfgDo rLcSel (fun s =>
    let w := nbits v.toNat 9 0
    let s1 := s.setReg rLcSel (w + (if s.bit rLcSel 62 then 2 ^ 62 else 0))
    if !v.getLsbD 63 then s1
    else
      let x : Sak := { key := (List.range 4).map (fun i => BitVec.ofNat 64 (s.reg (rLcSak i))),
                       salt := (List.range 2).map (fun i => BitVec.ofNat 64 (s.reg (rLcSalt i))),
                       ssci := BitVec.ofNat 64 (s.reg rLcSsci), pn := BitVec.ofNat 64 (s.reg rLcPn) }
      let key := 8 * nbits w 6 0 + 2 * nbits w 8 7 + nbits w 9 9
      let s2 : State := { s1 with roce := { s1.roce with saks := kset s1.roce.saks key x } }
      ((List.range 4).foldl (fun s i => s.resetReg (rLcSak i)) s2).setReg rLcSel (w + 2 ^ 62))

def execSakInstall (v : Word) (s : State) : Host.Outcome State Fault Refusal := .next (s.sakInstall v)

/-! ### Ethernet egress (R369, R398–R403, R424) -/

/-- One PFC frame leaves an ETH port, ahead of its other frames (R410). -/
def State.pfcSend (s : State) (p : Nat) : State :=
  if !s.ethOpen p then s
  else match s.roce.tx.find? (fun t => t.1 == p) with
    | none => s
    | some t => ({ s with roce := { s.roce with tx := s.roce.tx.erase t } } : State).frameSent p t.2

/-- Every 64 cycles the READ buckets gain, up to BURST_KIB, and what they held goes on (R399, R424). -/
def State.readRefill (s : State) : State :=
  let top := Int.ofNat (1024 * s.fld rRoceCc1 15 0)
  let s1 : State := { s with roce := { s.roce with qps := s.roce.qps.map (fun e =>
    (e.1, { e.2 with tokens := min top (e.2.tokens + Int.ofNat (s.gain64 e.2.rate)) })) } }
  ((s1.roce.qps.filter (fun e => e.2.msgs.any (fun m => !m.write))).map (fun e => e.1)).foldl (fun s n => s.roceRun n) s1

/-- SCHEDULER_ROUND: the outputs are matched, READ buckets gain, and each ETH port sends a PFC frame that waits (R369, R399, R410). -/
def State.schedulerRound (s : State) : State :=
  let s1 := s.fabricRound
  let s2 := if s1.roce.qps.isEmpty || s.sw.cycle / 64 == s1.sw.cycle / 64 then s1 else s1.readRefill
  if s2.roce.tx.isEmpty && s2.roce.eth.isEmpty then s2
  else (List.range 32).foldl (fun s k => ((List.range 8).foldl (fun s q => s.rawPump (96 + k) q) s).pfcSend (96 + k)) s2

def execSchedulerRound (s : State) : Host.Outcome State Fault Refusal := .next s.schedulerRound

end Sys2Proof.Machine
end

