-- ==== Sys2Proof/Machine/XcEngine.lean ====
section
/-!
DEFINITION. The coding engine (R334–R336): ENCODE and VERIFY runs, their line reads and page writes, and their end.
-/
namespace Sys2Proof.Machine

def State.xcSrc (s : State) : Nat := s.fld rXcSrc 55 0
def State.xcDst (s : State) : Nat := s.fld rXcDst 55 0
def State.xcBytes (s : State) : Nat := s.fld rXcLen 31 0
def State.xcLines (s : State) : Nat := ceilDiv s.xcBytes 128

/-- A request of the engine, as part of the companion processor agent, under the job of parcel XC_CTL.PARCEL (R334). -/
def State.xcReq (s : State) (op gfa len : Nat) (data : List Byte) (write : Bool) (part : Nat) : State :=
  let g := BitVec.ofNat 56 gfa
  s.issue { opcode := BitVec.ofNat 8 op, len := len, tid := BitVec.ofNat 16 (0x8000 + s.freeTid agCompanion % 0x8000),
            job := BitVec.ofNat 16 ((s.jobOf (s.fld rXcCtl 13 8)).getD 0), gfa := g, dst := BitVec.ofNat 17 (gfaHome g * 128),
            src := BitVec.ofNat 10 s.ix, agent := agCompanion, payload := data } (.xc write part)

def State.setXc (s : State) (x : XcRun) : State := { s with xc := some x }

/-- Every element of the source range, 2 B each. -/
def elemsOf : Nat → List Byte → List Nat
  | 0, _ => []
  | n + 1, bs => leNat (bs.take 2) :: elemsOf n (bs.drop 2)

/-- The bytes of the range read so far. -/
def XcRun.bytes (x : XcRun) (n : Nat) : List Byte := ((x.got.map (fun e => slice e.2.1 0 128)).flatten).take n

/-- The stream of an ENCODE, zero-filled to 4 KiB, and its blocks in coded and in stored form (R335). -/
def xcStream (bs : List Byte) : List Byte × Nat × Nat :=
  let es := elemsOf (bs.length / 2) bs
  let blocks := (xcbGroups (ceilDiv es.length 2048) es).map xcbEncode
  let out := (blocks.map (fun b => b.1)).flatten
  let stored := (blocks.filter (fun b => b.2)).length
  (slice out 0 (ceilDiv out.length 0x1000 * 0x1000), blocks.length - stored, stored)

/-- Start offsets of the first blocks of a stream, as the parse finds them (R331, R332). -/
def blockStarts : Nat → Nat → List Byte → List Nat
  | 0, _, _ => []
  | n + 1, o, bs => o :: (if clenOk (xcbClen bs) && xcbClen bs ≤ bs.length then blockStarts n (o + xcbClen bs) (bs.drop (xcbClen bs)) else [])

/-- A block with a line that reads with a status other than OK is damaged (R330). -/
def XcRun.unreadable (x : XcRun) (bs : List Byte) (o : Nat) : Bool :=
  (linesOf o (max 40 (xcbClen (bs.drop o)))).any (fun l => match kget x.got l with
    | some g => g.2 != stOK
    | none => false)

/-- The class of damage of each of the blocks of a VERIFY, 0 for none (R328, R330, R332). -/
def XcRun.classes (x : XcRun) (bytes blocks : Nat) : List Nat :=
  let bs := x.bytes bytes
  let starts := blockStarts blocks 0 bs
  (xcbStream blocks bs).zipIdx.map (fun r => match r.1 with
    | .error d => d.num
    | .ok _ => if x.unreadable bs (starts.getD r.2 bytes) then 1 else 0)

/-- The run goes on: its next source line, its next destination page, or its end (R334, R335). -/
def State.xcStep (s : State) (x : XcRun) : State :=
  if x.got.length < s.xcLines then
    let a := s.xcSrc + 128 * x.got.length
    let r := (s.setXc x).coherentAt (BitVec.ofNat 56 a)
    r.1.xcReq (if r.2 then opRDU else opRDN) a 128 [] false x.got.length
  else if x.verify then
    let cl := x.classes s.xcBytes (s.fld rXcLen 51 32)
    let n (k : Nat) : Nat := (cl.filter (· == k)).length
    let first := (cl.zipIdx.find? (fun c => c.1 != 0)).map (fun c => (c.2, c.1))
    ((((s.count pgXc 1 (n 1)).count pgXc 2 (n 2)).count pgXc 3 (n 3))).setXc
      { x with ended := true, damaged := (cl.filter (· != 0)).length, first := first }
  else if x.stream.isEmpty then
    let r := xcStream (x.bytes s.xcBytes)
    let y := { x with stream := r.1 }
    let s1 := (((s.count pgXc 4 r.2.1).count pgXc 5 r.2.2).count pgXc 6 s.xcBytes).setXc y
    s1.xcReq opWRI s1.xcDst 0x1000 (slice y.stream 0 0x1000) true 0
  else if 0x1000 * x.page < x.stream.length then
    (s.setXc x).xcReq opWRI (s.xcDst + 0x1000 * x.page) 0x1000 (slice x.stream (0x1000 * x.page) 0x1000) true x.page
  else s.setXc { x with ended := true }

/-- A completion of the engine's read or write: a source line that is not OK ends an ENCODE with that status (R330, R335). -/
def State.xcCmp (s : State) (write : Bool) (part : Nat) (p : Packet) : State :=
  match s.xc with
  | none => s
  | some x =>
    if x.ended then s
    else if write then
      if p.status != stOK then s.setXc { x with ended := true, status := p.status }
      else (s.count pgXc 7 0x1000).xcStep { x with page := x.page + 1 }
    else if p.status != stOK && !x.verify then s.setXc { x with ended := true, status := p.status }
    else s.xcStep { x with got := kset x.got part (slice p.payload 0 128, p.status) }

/-- A write of XC_CTL; GO starts a run unless one is in progress (R334). -/
def State.xcCtlWrite (s : State) (v : Word) : State :=
  s.cfgDo rXcCtl (fun s =>
    let w := v.toNat
    let s1 := (s.setFld rXcCtl 1 1 (nbits w 1 1)).setFld rXcCtl 13 8 (nbits w 13 8)
    if !nbit w 0 || s.bit rXcStat 0 then s1
    else
      let verify := nbit w 1
      let s2 := (s1.setReg rXcStat 1).setReg rXcFirst 0
      let bad := s2.xcSrc % 0x1000 != 0 || (!verify && (s2.xcDst % 0x1000 != 0 || s2.xcBytes == 0 || s2.xcBytes % 2 != 0 ||
        decide (2 ^ 30 < s2.xcBytes)))
      if bad then s2.setXc { verify := verify, ended := true, status := stUnsupported } else s2.xcStep { verify := verify })

/-- XC_ENCODE (R335). -/
def execXcEncode (v : Word) (s : State) : Host.Outcome State Fault Refusal := .next (s.xcCtlWrite v)
/-- XC_VERIFY (R335). -/
def execXcVerify (v : Word) (s : State) : Host.Outcome State Fault Refusal := .next (s.xcCtlWrite v)

/-- XC_RUN_DONE: DONE, STATUS and the results are set (R334). -/
def State.xcDone (s : State) : State :=
  match s.xc with
  | none => s
  | some x =>
    if !x.ended then s
    else
      let s1 := s.setReg rXcStat (2 + x.status.toNat * 2 ^ 2 + (if x.verify then 0 else 0x1000 * x.page) * 2 ^ 32)
      let f := x.first.getD (0, 0)
      let s2 := if x.verify then s1.setReg rXcFirst (x.damaged + f.1 * 2 ^ 32 + f.2 * 2 ^ 52) else s1
      { s2 with xc := none }

def execXcRunDone (s : State) : Host.Outcome State Fault Refusal := .next s.xcDone

end Sys2Proof.Machine
end

