-- ==== Sys2Proof/Machine/Traverse.lean ====
section
/-!
DEFINITION. Traverses and benchmarks (chapter 11): the program and its checks, benchmarks and anchors, legs with their hand-backs, send
points, run-ahead fills and reports, and the destination's windows, trailers and releases.
-/
namespace Sys2Proof.Machine

/-! ### The program (R307, R308) -/

/-- Bits [hi:lo] of word w of a header, leg entry or descriptor. -/
def wbits (h : List Word) (w hi lo : Nat) : Nat := nbits (h.getD w 0).toNat hi lo

def Trav.count (t : Trav) : Nat := max 1 t.legs.length
/-- The current leg and pass. -/
def Trav.leg (t : Trav) : Nat := t.gidx % t.count
def Trav.pass (t : Trav) : Nat := t.gidx / t.count
def Trav.num (t : Trav) : Nat := wbits t.header 0 3 0
def Trav.job (t : Trav) : BitVec 16 := BitVec.ofNat 16 (wbits t.header 1 15 0)
def Trav.entry (t : Trav) (g : Nat) : List Word := t.legs.getD (g % t.count) []
def Trav.cur (t : Trav) : List Word := t.entry t.gidx
def legT2 (l : List Word) : Bool := wbits l 0 1 0 == 1
def legComp (l : List Word) : Nat := wbits l 0 3 2
def legRa (l : List Word) : Bool := wbits l 0 4 4 == 1
def legAdv (l : List Word) : Nat := wbits l 0 11 8
def legWin (l : List Word) : Nat := wbits l 0 19 16
def legSrc (l : List Word) : Nat := wbits l 2 45 0
def legBytes (l : List Word) : Nat := wbits l 3 31 0
def legPages (l : List Word) : Nat := legBytes l / 0x1000
def legBlocks (l : List Word) : Nat := wbits l 6 31 0
/-- Bytes a leg writes at its destination. -/
def legDest (l : List Word) : Nat := if legComp l == 2 then legBlocks l * 0x1000 else legBytes l

/-- The destination Tiolos of a leg (R308 MEMBERS, AXIS). -/
def State.legMembers (s : State) (l : List Word) : List Nat :=
  ((List.range 32).filter (fun i => nbit (wbits l 5 31 0) i)).map (fun i => if wbits l 5 32 32 == 1 then i * 32 + s.col else s.row * 32 + i)

/-- A leg entry has a reserved field in use, or a field misaligned or out of range. -/
def legBad (h l : List Word) : Bool :=
  2 ≤ wbits l 0 1 0 || legComp l == 3 || wbits l 0 7 5 != 0 || wbits l 0 15 12 != 0 || wbits l 0 63 20 != 0 || wbits h 0 51 48 < legWin l ||
  (legT2 l && wbits l 1 63 20 != 0) || (!legT2 l && l.getD 1 0 == 0) || wbits l 2 11 0 != 0 || wbits l 2 63 46 != 0 ||
  legBytes l == 0 || legBytes l % 0x1000 != 0 || 2 ^ 30 < legBytes l || wbits l 3 63 32 != 0 ||
  wbits l 4 31 22 != 0 || wbits l 4 63 54 != 0 || wbits l 4 53 32 ≤ wbits l 4 21 0 || wbits l 5 63 33 != 0 ||
  wbits l 6 63 32 != 0 || (legComp l == 0 && legBlocks l != 0) || l.getD 7 0 != 0

/-- The header has a reserved field in use, or a field misaligned or out of range. -/
def travHeaderBad (h : List Word) : Bool :=
  wbits h 0 15 4 != 0 || wbits h 0 31 28 != 0 || 8 < wbits h 0 55 52 || wbits h 0 63 57 != 0 || wbits h 1 63 48 != 0 ||
  wbits h 2 11 0 != 0 || wbits h 2 63 46 != 0 || wbits h 3 11 0 != 0 || 2 ^ 30 < wbits h 3 31 0 || wbits h 3 47 32 == 0 ||
  wbits h 3 63 48 != 0 || wbits h 4 15 14 != 0 || wbits h 4 63 30 != 0 || wbits h 5 5 0 != 0 || wbits h 5 63 46 != 0 ||
  wbits h 6 11 0 != 0 || wbits h 6 63 46 != 0 || wbits h 7 11 0 != 0 || wbits h 7 47 42 != 0

/-! ### Records (R309) -/

def TravRec.data (st : Status) (flags : BitVec 3) (detail : Nat) (d : Option (Nat × Nat)) (tag : Word) : List Byte :=
  leBytes 8 (st.toNat + flags.toNat * 2 ^ 4 + detail * 2 ^ 8 + (match d with
    | some (leg, pass) => leg * 2 ^ 16 + 2 ^ 28 + pass % 65536 * 2 ^ 32
    | none => 0)) ++ leBytes 8 tag.toNat

/-- The lowest TID that no outstanding request of the traverse engine uses, above those of tier commands. -/
def State.travTid (s : State) : BitVec 16 :=
  BitVec.ofNat 16 (0x1000 + (((List.range (s.recov.trackers.length + 1)).find? (fun i =>
    !s.recov.trackers.any (fun t => t.req.agent == agTraverse && t.req.src.toNat == s.ix && t.req.tid.toNat == 0x1000 + i))).getD 0))

/-- A request of the traverse engine. -/
def State.travReq (s : State) (op : Nat) (job : BitVec 16) (gfa len : Nat) (data : List Byte) (poi : Bool) (mask : Option (BitVec 128))
    (u : Purpose) : State :=
  let g := BitVec.ofNat 56 gfa
  s.issue { opcode := BitVec.ofNat 8 op, len := len, poi := poi, tid := s.travTid, job := job, gfa := g, dst := BitVec.ofNat 17 (gfaHome g * 128),
            src := BitVec.ofNat 10 s.ix, agent := agTraverse, mask := mask, payload := data } u

/-- A record is written, and its stake is released once it is (R160, R309). -/
def State.travRecord (s : State) (n : Nat) (req : Packet) (gfa : Nat) (stake : Option (Nat × BitVec 2)) (tag : Word) (st : Status)
    (flags : BitVec 3) (detail : Nat) (d : Option (Nat × Nat)) : State :=
  let id := ((List.range (s.trav.recs.length + 1)).find? (fun i => !s.trav.recs.any (fun r => r.id == i))).getD 0
  let s1 : State := { s with trav := { s.trav with recs := s.trav.recs ++ [{ id := id, parcel := n, tag := tag, stake := stake }] } }
  s1.travReq opWRN req.job gfa 16 (TravRec.data st (flags ||| s.degradedFlag req.job.toNat) detail d tag) false none (.travRec id)

/-- A record is written: its stake is released; a failed write is recorded with TAG (R128, R160). -/
def State.travRecorded (s : State) (id : Nat) (p : Packet) : State :=
  match s.trav.recs.find? (fun r => r.id == id) with
  | none => s
  | some r =>
    let s1 : State := { s with trav := { s.trav with recs := s.trav.recs.filter (fun x => x.id != id) } }
    if p.status != stOK then s1.record (bookRegion 0) (pgRegion 0) clsRecord 2 aidTrav r.tag.toNat p.gfa.toNat p.status (some r.parcel)
    else match r.stake with
      | some (k, sc) => if s1.stakeParcel k == some r.parcel then s1.srelLocal k 1 sc agTraverse else s1
      | none => s1

/-- The completion record of a traverse command. -/
def State.travCmdEnd (s : State) (n : Nat) (desc : List Word) (p : Packet) (st : Status) (flags : BitVec 3) (detail : Nat)
    (d : Option (Nat × Nat)) : State :=
  let stake := if wbits desc 0 30 30 == 1 then some (wbits desc 0 29 16, BitVec.ofNat 2 (wbits desc 0 9 8)) else none
  s.travRecord n p (wbits desc 6 55 0) stake (desc.getD 7 0) st flags detail d

/-! ### Traverses -/

def State.setTravs (s : State) (l : KMap Trav) : State := { s with trav := { s.trav with travs := l } }
def State.trav' (s : State) (k : Nat) : Option Trav := kget s.trav.travs k
def State.setTrav (s : State) (k : Nat) (t : Trav) : State := s.setTravs (kset s.trav.travs k t)

/-- The record of R470: TRAV, LEG and PASS; a member, or a block index and class. -/
def State.travNote (s : State) (b page trav leg pass x : Nat) (parcel : Option Nat) : State :=
  s.record b page clsTraverse 2 aidTrav (trav + leg * 2 ^ 8 + pass * 2 ^ 32 + x * 2 ^ 64) 0 0 parcel

/-- Requests of a traverse whose completions will be discarded. -/
def State.dropTravReqs (s : State) (k : Nat) : State :=
  { s with recov := { s.recov with trackers := s.recov.trackers.filter (fun t => match t.purpose with
    | .backAcquire n _ => n != k
    | .travLine n _ => n != k
    | _ => true) } }

/-- A traverse ends: fills are discarded, its end record and then the records of waiting STOPs are written (R309, R320, R321). -/
def State.travEnd (s : State) (k : Nat) (st : Status) (detail : Nat) : State :=
  match s.trav' k with
  | none => s
  | some t =>
    let s1 := ((s.dropTravReqs k).setTravs (kdel s.trav.travs k)).count pgTrv 4 (t.runahead.filter (fun f => !f.direct)).length
    let s2 := (s1.count pgTrv 9 (if st == stOK then 0 else 1)).dropTwin 2 (BitVec.ofNat 32 k)
    let stake := if wbits t.desc 4 14 14 == 1 then some (wbits t.desc 4 13 0, BitVec.ofNat 2 (wbits t.desc 0 9 8)) else none
    let fl := if t.untwinned then flDegraded else 0
    let s3 := s2.travRecord t.parcel t.req (wbits t.desc 3 55 0) stake (t.desc.getD 7 0) st fl detail t.delivered
    t.stops.foldl (fun s e => s.travCmdEnd t.parcel e.1 e.2 stOK 0 0 t.delivered) s3

/-! ### Legs: hand-backs and anchors (R311–R313) -/

/-- The fill that the current leg makes in its window (R312). -/
def Trav.fill (t : Trav) : Nat :=
  let w := legWin t.cur
  kgetD t.fills w 0 + (if nbit (wbits t.header 1 47 32) w then 1 else 0) + 1

/-- The acquire of a member's back stake (R313 step 1). -/
def State.backSacq (s : State) (k : Nat) (t : Trav) (m : Nat) : State :=
  let stake := wbits t.header 4 29 16 + legWin t.cur
  let target := wbits t.header 3 47 32 * (t.fill - 1)
  s.travReq opSACQ t.req.job (m * 2 ^ 46 + stakeBase + 64 * stake) 16 (leBytes 8 target ++ leBytes 8 (2 + 0x100 * 2 ^ 16)) false none (.backAcquire k m)

/-- The current leg takes its anchor from the queued arrivals: ADV arrivals after the previous leg's anchor (R311). -/
def Trav.takeAnchor (t : Trav) : Trav :=
  if t.anchor.isSome then t
  else
    let adv := if t.gidx == 0 then 1 else legAdv t.cur
    if adv == 0 then { t with anchor := t.prev, state := if t.state == 1 then 2 else t.state }
    else match t.anchors[adv - 1]? with
      | some a => { t with anchor := some a, anchors := t.anchors.drop adv, state := if t.state == 1 then 2 else t.state }
      | none => t

/-- A leg becomes the current one: its hand-back acquires go out and it looks for its anchor. -/
def State.legBegin (s : State) (k : Nat) (t : Trav) : State :=
  let t1 := { t with anchor := none, handed := [], reported := [], released := false, state := if t.gidx == 0 then 1 else 2 }.takeAnchor
  (s.legMembers t1.cur).foldl (fun s m => s.backSacq k t1 m) (s.setTrav k t1)

/-- The leg ends once every member has reported or failed: the next one begins, or the traverse ends (R313 step 6, R320). -/
def State.legEnds (s : State) (k : Nat) : State :=
  match s.trav' k with
  | none => s
  | some t =>
    if t.state < 3 || !(s.legMembers t.cur).all (fun m => t.reported.contains m) then s
    else
      let d := if t.released then some (t.leg, t.pass) else t.delivered
      let g := t.gidx + 1
      let rep := wbits t.header 0 47 32
      let t1 := { t with gidx := g, prev := t.anchor, delivered := d, runahead := t.runahead.filter (fun f => f.gidx != t.gidx) }
      if t.state == 4 || !t.stops.isEmpty then (s.setTrav k t1).travEnd k stOK 0x0D
      else if rep != 0 && rep * t.count ≤ g then (s.setTrav k t1).travEnd k stOK 0
      else s.legBegin k t1

/-- A member fails: it gets no release, and the leg ends for it (R321). -/
def State.memberFails (s : State) (k m : Nat) : State :=
  match s.trav' k with
  | none => s
  | some t =>
    if t.reported.contains m then s
    else
      let s1 := s.travNote bookChip pgFb k t.leg t.pass m (some t.parcel)
      (s1.setTrav k { t with reported := t.reported ++ [m], handed := insertNew t.handed m }).legEnds k

/-- The answer to a hand-back acquire: met, reissued on TIMEOUT and on RETRY, or the member has failed (R10, R313 step 1, log 203). -/
def State.backCmp (s : State) (k m : Nat) (p : Packet) : State :=
  match s.trav' k with
  | none => s
  | some t =>
    if p.status == stOK then s.setTrav k { t with handed := insertNew t.handed m }
    else if p.status == stTimeout || p.status == stRetry then (s.count pgTrv 8).backSacq k t m
    else s.memberFails k m

/-! ### Benchmarks (R304, R305) -/

def aidBench : Nat := aidChip 0x071

/-- A benchmark packet (R304). -/
def State.bmkPacket (s : State) (job step : Nat) (fan : Bool) (colmask : Nat) (dst : Nat) (m : Option Mcx) : Packet :=
  { opcode := BitVec.ofNat 8 opBMK, cls := 5, len := 16, job := BitVec.ofNat 16 job, dst := BitVec.ofNat 17 dst, src := BitVec.ofNat 10 s.ix,
    agent := agTraverse, mcx := m, payload := leBytes 8 (job + step * 2 ^ 16 + (if fan then 2 ^ 32 else 0)) ++ leBytes 8 colmask }

/-- A multicast along the row or column to the members of a mask, other than this Tiolo and only in the grid. -/
def State.bmkCast (s : State) (job step : Nat) (fan : Bool) (colmask mask : Nat) (axis : Bool) : State :=
  let own := if axis then s.row else s.col
  let ms := (List.range (if axis then s.rows else s.cols)).filter (fun i => nbit mask i && i != own)
  if ms.isEmpty then s
  else s.send (s.bmkPacket job step fan colmask (s.ix * 128)
    (some { members := BitVec.ofNat 32 (ms.foldl (fun a i => a + 2 ^ i) 0), axis := axis, ports := 0 }))

/-- The arbiter accepts the benchmark (R305). -/
def State.benchOk (s : State) (job step : Nat) : Bool :=
  (s.parcelOf job).isSome && match kget s.trav.steps job with
    | none => true
    | some l => let d := (step + 65536 - l) % 65536; 1 ≤ d && d ≤ 32767

/-- A new arrival at a traverse of the job: queued as an anchor; a 17th unused one ends the traverse (R311). -/
def State.travArrival (s : State) (k step : Nat) : State :=
  match s.trav' k with
  | none => s
  | some t =>
    let early := t.gidx == 0 && t.anchor.isNone && t.anchors.isEmpty && 32768 ≤ (step + 65536 - wbits t.header 1 31 16) % 65536
    if early then s
    else if 16 ≤ t.anchors.length then s.travEnd k stTimeout 0x0A
    else s.setTrav k ({ t with anchors := t.anchors ++ [BitVec.ofNat 16 step] } : Trav).takeAnchor

/-- An accepted benchmark: ports, column, plans and traverses (R281, R305, R311, R401). -/
def State.benchAccept (s : State) (job step : Nat) (fan : Bool) (colmask : Nat) : State :=
  let s0 := ({ s with trav := { s.trav with steps := kset s.trav.steps job step } } : State).count pgTrv 5
  let mine := s0.parcelOf job
  let ports := (List.range 128).filter (fun p => s0.portRole p == roleGrid || (mine.isSome && s0.portParcel p == mine))
  let s1 := ports.foldl (fun s p => s.gateAnchor p job) s0
  let s2 := (ports.filter (fun p => s1.portRole p == roleAccel && s1.portUp p)).foldl (fun s p =>
    s.send (s.bmkPacket job step false colmask (s.ix * 128 + p) none)) s1
  let s3 := if fan then s2.bmkCast job step false colmask colmask true else s2
  let s4 := s3.planBenchmark (BitVec.ofNat 16 job)
  (s4.trav.travs.filter (fun e => e.2.job.toNat == job)).foldl (fun s e => s.travArrival e.1 step) s4

/-- A benchmark is discarded and counted; for a job that no parcel holds, recorded too (R305). -/
def State.benchDrop (s : State) (job step flow : Nat) : State :=
  let s1 := s.count pgTrv 6
  if (s.parcelOf job).isNone then s1.note 0 (pgBlock 0) clsDiscard 0 aidBench (5 + flow * 2 ^ 16 + step * 2 ^ 64) else s1

/-- BMK: accepted, or discarded (R305). -/
def State.bmk (s : State) (p : Packet) : State :=
  let w := wordAt p.payload 0
  let job := nbits w 15 0
  let step := nbits w 31 16
  let s1 := s.tick aidBench
  if s1.benchOk job step then s1.benchAccept job step (nbit w 32) (nbits (wordAt p.payload 1) 31 0)
  else s1.benchDrop job step p.flow.toNat

def execBmk (p : Packet) (s : State) : Host.Outcome State Fault Refusal := .next (s.bmk p)

/-- BENCHMARK_INJECT: a write of TRV_BENCH; GO injects, and SEND also sends the benchmark into the grid (R305). -/
def State.benchInject (s : State) (v : Word) : State :=
  s.cfgDo rTrvBench (fun s =>
    let w := v.toNat
    let job := nbits w 15 0
    let step := nbits w 31 16
    let s1 := s.setReg rTrvBench (w % 2 ^ 33)
    if !nbit w 63 then s1
    else
      let s2 := s1.tick aidBench
      if !s2.benchOk job step then s2.benchDrop job step 0
      else
        let rowmask := s2.fld rTrvBenchMask 31 0
        let colmask := s2.fld rTrvBenchMask 63 32
        let s3 := s2.benchAccept job step (nbit w 32) colmask
        if nbit w 32 then s3.bmkCast job step true colmask rowmask false else s3)

def execBenchmarkInject (v : Word) (s : State) : Host.Outcome State Fault Refusal := .next (s.benchInject v)

/-! ### START and STOP (R309, R310, R320) -/

/-- A field of a command's descriptor that the engine refuses: a SCOPE without meaning, a misaligned record; of a START also a reserved
field in use or a misaligned program (R309, R310). A STOP's reserved bits do not count (R6). -/
def travDescBad (d : List Word) : Bool :=
  wbits d 0 9 8 == 0 || wbits d 0 9 8 == 3 || wbits d 6 3 0 != 0 ||
  (wbits d 0 7 0 == 1 && (wbits d 0 15 10 != 0 || wbits d 0 63 31 != 0 || wbits d 1 63 4 != 0 || wbits d 2 63 46 != 0 || wbits d 2 5 0 != 0 ||
    wbits d 3 63 56 != 0 || wbits d 3 3 0 != 0 || wbits d 4 63 15 != 0 || d.getD 5 0 != 0 || wbits d 6 63 56 != 0))

/-- DETAIL 0x02: a source lies outside what the parcel holds (R154, R308). -/
def State.legSourceBad (s : State) (n : Nat) (l : List Word) : Bool :=
  if legT2 l then
    match kget s.tier.objs (wbits l 1 19 0) with
    | some o => o.owner != n || o.deleting || o.size * 2 ^ 20 < legSrc l + legBytes l
    | none => true
  else
    let ms := legSlots l
    ms.any (fun m => s.slotParcel m != some n) || slotSize < legSrc l + ceilDiv (legPages l) (max 1 ms.length) * 0x1000

/-- The largest run-ahead leg. -/
def maxRaBytes (legs : List (List Word)) : Nat := (legs.filter legRa).foldl (fun a l => max a (legBytes l)) 0

/-- The failures of R310 in their order. -/
def State.startChecks (s : State) (n : Nat) (d h : List Word) (legs : List (List Word)) : List (Bool × Nat × Status) :=
  let w := wbits h 0 51 48 + 1
  let stakeBad (k : Nat) : Bool := s.stakeParcel k != some n
  [(travHeaderBad h || legs.any (legBad h) || wbits h 0 3 0 != wbits d 1 3 0 ||
      (wbits h 0 56 56 == 1 && wbits h 7 41 32 / 32 != s.row), 1, stUnsupported),
   (legs.any (s.legSourceBad n), 2, stAccessFault),
   (wbits h 7 31 0 != 0 && !s.areaOk n (wbits h 6 45 0) (wbits h 7 31 0), 3, stAccessFault),
   (legs.any (fun l => (s.legMembers l).any (fun m => !s.inGrid m)), 4, stUnsupported),
   (legs.any (fun l => wbits h 3 31 0 < legDest l) || wbits h 7 31 0 < wbits h 0 55 52 * maxRaBytes legs ||
     (wbits h 0 55 52 == 0 && legs.any legRa), 5, stUnsupported),
   ((s.trav' (wbits h 0 3 0)).isSome || 16 ≤ s.trav.travs.length, 6, stQuota),
   ((List.range w).any (fun i => stakeBad (wbits h 4 13 0 + i) || stakeBad (wbits h 4 29 16 + i)) ||
     (wbits d 4 14 14 == 1 && stakeBad (wbits d 4 13 0)), 7, stAccessFault),
   (!s.binds n (wbits h 1 15 0), 8, stAccessFault)]

/-- START: the program is copied and checked, and the traverse is armed (R307, R310). -/
def State.travStart (s : State) (n : Nat) (d : List Word) (p : Packet) : State :=
  let a := wbits d 2 45 0
  let fail (s : State) (st : Status) (detail : Nat) : State := s.travCmdEnd n d p st 0 detail none
  let word (o i : Nat) : Word := BitVec.ofNat 64 (leNat (s.readMem (a + o + 8 * i) 8))
  let h := (List.range 8).map (word 0)
  let len := 64 + 64 * (wbits h 0 27 16 + 1)
  let acc := match s.extAt a with
    | some (_, x) => if placeOf a != .t0 || x.base + 0x1000 * x.pages < a + len then stAccessFault else s.checkExt x a len p.job.toNat .load
    | none => stAccessFault
  if travDescBad d then fail s stUnsupported 1
  else if acc != stOK then fail s acc 2
  else if s.anyPoison a len then fail s stPoison 0
  else
    let legs := (List.range (wbits h 0 27 16 + 1)).map (fun j => (List.range 8).map (word (64 + 64 * j)))
    match (s.startChecks n d h legs).find? (fun e => e.1) with
    | some e => fail s e.2.2 e.2.1
    | none =>
      let k := wbits h 0 3 0
      let r := if wbits h 0 56 56 == 1 then s.startTwin 2 (BitVec.ofNat 16 (wbits h 1 15 0)) (BitVec.ofNat 32 k) n (wbits h 7 41 32 % 32) agTraverse
               else (s, true)
      let t : Trav := { parcel := n, req := p, desc := d, header := h, legs := legs, untwinned := !r.2 }
      (r.1.legBegin k t).travCmdEnd n d p stOK (if r.2 then 0 else flDegraded) 0 none

/-- STOP: at once before a send point, otherwise at the end of the leg (R320). -/
def State.travStop (s : State) (n : Nat) (d : List Word) (p : Packet) : State :=
  let k := wbits d 1 3 0
  if travDescBad d then s.travCmdEnd n d p stUnsupported 0 1 none
  else match s.trav' k with
    | none => s.travCmdEnd n d p stAccessFault 0 6 none
    | some t =>
      if t.parcel != n then s.travCmdEnd n d p stAccessFault 0 6 none
      else
        let t1 := { t with stops := t.stops ++ [(d, p)] }
        if 3 ≤ t.state then s.setTrav k { t1 with state := 4 } else (s.setTrav k t1).travEnd k stOK 0x0D

/-- The command queue has room for a parcel (R156, R309): commands stand in it from their doorbell to their record. -/
def State.travRoom (s : State) (n : Nat) : Bool :=
  let stops := s.trav.travs.foldl (fun a e => a + e.2.stops.length) 0
  let mine := s.trav.travs.foldl (fun a e => a + (if e.2.parcel == n then e.2.stops.length else 0)) 0
  decide (s.trav.recs.length + stops < 1024) && decide ((s.trav.recs.filter (fun r => r.parcel == n)).length + mine < 64)

/-- A traverse command enters the queue, its doorbell write completes, and it runs. -/
def State.travQueue (s : State) (n : Nat) (p : Packet) : State :=
  let d := descOf p
  let s1 := s.complete p stOK
  match wbits d 0 7 0 with
  | 1 => s1.travStart n d p
  | 2 => s1.travStop n d p
  | _ => s1.travCmdEnd n d p stUnsupported 0 1 none

/-- A write to the traverse doorbell with an opcode (R309; TRV_CTL.EN). -/
def State.travDoor (s : State) (op : Nat) (p0 : Packet) : State :=
  let p := { p0 with payload := leBytes 1 op ++ p0.payload.drop 1 }
  let s1 := s.tick aidTrav
  let st := statusMin (s1.engineDoor p) (if s1.bit rTrvCtl 0 then stOK else stAccessFault)
  if st != stOK then s1.complete p st
  else match s1.parcelOf p.job.toNat with
    | none => s1.complete p stAccessFault
    | some n => if s1.travRoom n && !s1.doorWaits 0 p then s1.travQueue n p else s1.holdDoor 0 p

/-- TRAVERSE_START (R310). -/
def execTraverseStart (p : Packet) (s : State) : Host.Outcome State Fault Refusal := .next (s.travDoor 1 p)
/-- TRAVERSE_STOP (R320). -/
def execTraverseStop (p : Packet) (s : State) : Host.Outcome State Fault Refusal := .next (s.travDoor 2 p)

/-! ### The destination (R313 step 5, R314, R317, R318) -/

def State.setDest (s : State) (l : DestLeg) : State :=
  { s with trav := { s.trav with legs := s.trav.legs.map (fun x => if x.id == l.id then l else x) } }
def State.destLeg (s : State) (id : Nat) : Option DestLeg := s.trav.legs.find? (fun x => x.id == id)

/-- The datum of the parcel bound to a leg's job here. -/
def State.jobDatum (s : State) (job : BitVec 16) : Option Nat := (s.parcelOf job.toNat).map s.datum

/-- A window write of up to a page: an invalidating write of the engine (R313 step 5). -/
def State.windowWrite (s : State) (id off : Nat) (data : List Byte) (poi : Bool) : State :=
  match s.destLeg id with
  | none => s
  | some x =>
    match s.jobDatum x.job with
    | none => s.setDest { x with worst := worse x.worst stAccessFault, failed := true }
    | some base =>
      let lines := data.length / 128
      let x1 := { x with out := x.out + 1, poisoned := x.poisoned + (if poi then lines else 0) }
      ((s.setDest x1).count pgTrv 7 (if poi then lines else 0)).travReq opWRI x.job (s.ix * 2 ^ 46 + base + x.info.win + off) data.length data poi none (.leg id)

/-- Start offsets of the blocks of a stream, as far as the parse goes on (R331, R332). -/
def expandStarts (x : DestLeg) (bs : List Byte) : List Nat := blockStarts x.info.blocks 0 bs

/-- The worst status of the packets that hold a block's coded bytes (R330). -/
def DestLeg.blockStatus (x : DestLeg) (o n : Nat) : Status :=
  x.coded.foldl (fun a e => if e.1 < o + n && o < e.1 + e.2.1.length then worse a e.2.2 else a) stOK

/-- EXPAND: every coded byte has arrived, and each block is decoded into its 4 KiB of the window (R314, R329). -/
def State.expandLeg (s : State) (id : Nat) : State :=
  match s.destLeg id with
  | none => s
  | some x =>
    let bs := x.coded.foldl (fun a e => a ++ e.2.1) []
    let starts := expandStarts x bs
    (xcbStream x.info.blocks bs).zipIdx.foldl (fun s r =>
      let o := starts.getD r.2 bs.length
      let st := x.blockStatus o (max 40 (xcbClen (bs.drop o)))
      let damage := match r.1 with
        | .error d => d.num
        | .ok _ => if st == stOK then 0 else 1
      let s0 := s.count pgXc damage
      if damage == 0 then s0.windowWrite id (0x1000 * r.2) (xcbOutput r.1) false
      else
        let reg := t0Stack ((s.jobDatum x.job).getD 0 + x.info.win + 0x1000 * r.2)
        let s1 := s0.travNote (bookRegion reg) (pgRegion reg) x.trav x.leg x.pass (r.2 + damage * 2 ^ 32) (s.parcelOf x.job.toNat)
        let s2 := match s1.destLeg id with
          | some y => s1.setDest { y with worst := worse y.worst (worse st stPoison) }
          | none => s1
        s2.windowWrite id (0x1000 * r.2) (errorBytes 0x1000) true) s

/-- A part of a leg at its destination: RAW and CODED bytes are written as they are, EXPAND bytes are decoded once all are there. -/
def State.legPart (s : State) (id off : Nat) (st : Status) (data : List Byte) : State :=
  match s.destLeg id with
  | none => s
  | some x =>
    let x1 := { x with got := x.got + data.length, worst := worse x.worst st }
    if x.comp == 2 then
      let s1 := s.setDest { x1 with coded := kset x1.coded off (data, st) }
      if x.info.bytes ≤ x1.got then s1.expandLeg id else s1
    else (s.setDest x1).windowWrite id off (if st == stOK then data else errorBytes data.length) (st != stOK)

/-- The leg was released here already (R313). -/
def State.legDone (s : State) (job : BitVec 16) (trav stake leg pass : Nat) (step : BitVec 16) : Bool :=
  s.trav.doneLegs.contains { job := job, trav := trav, stake := stake, leg := leg, pass := pass, step := step }

/-- A report of a leg: at this Tiolo's own engine, or as a TRVR packet (R313 steps 5 and 6). Of a member whose writes timed out a chip record
is made (R321). -/
def State.legReported (s : State) (k gleg gpass m : Nat) (st : Status) (released : Bool) : State :=
  match s.trav' k with
  | none => s
  | some t =>
    if t.state < 3 || t.leg != gleg || t.pass % 65536 != gpass || !(s.legMembers t.cur).contains m || t.reported.contains m then s
    else
      let s1 := if !released && st == stTimeout then s.travNote bookChip pgFb k t.leg t.pass m (some t.parcel) else s
      (s1.setTrav k { t with reported := t.reported ++ [m], last := worse t.last st, released := t.released || released }).legEnds k

def travSeqx (trav leg pass off step win comp deadline : Nat) : BitVec 128 :=
  BitVec.ofNat 128 (trav + leg * 2 ^ 4 + pass % 65536 * 2 ^ 16 + off * 2 ^ 32 + step * 2 ^ 64 + win * 2 ^ 80 + comp * 2 ^ 84 + deadline * 2 ^ 96)

/-- The fields that name a leg in a TRVD or TRVR packet (R344). -/
def trvWord (p : Packet) : Nat := match p.seqx with
  | some (.trv w) => w.toNat
  | _ => 0

/-- The destination reports to the sending engine, with the trailer's STATUS and FLAGS; BYTE_OFF of a TRVR is 1 where the ready stake was
released (log 203). -/
def State.report (s : State) (sender trav leg pass : Nat) (job : BitVec 16) (st : Status) (flags : BitVec 3) (released : Bool) : State :=
  if sender == s.ix then s.legReported trav leg pass s.ix st released
  else s.send { opcode := BitVec.ofNat 8 opTRVR, cls := 2, job := job, dst := BitVec.ofNat 17 (sender * 128), src := BitVec.ofNat 10 s.ix,
                agent := agTraverse, status := st, flags := flags,
                seqx := some (.trv (travSeqx trav leg pass (if released then 1 else 0) 0 0 0 0)) }

/-- A part of a leg reaches this destination, from this Tiolo's own engine or from another (R313 step 5). -/
def State.legArrives (s : State) (sender : Nat) (w : Nat) (job : BitVec 16) (info : LegInfo) (st : Status) (data : List Byte) : State :=
  let trav := nbits w 3 0
  let leg := nbits w 15 4
  let pass := nbits w 31 16
  let step := BitVec.ofNat 16 (nbits w 79 64)
  if s.legDone job trav info.stake leg pass step then
    if nbits w 63 32 == 0 then s.report sender trav leg pass job stOK 0 true else s
  else
    let same (x : DestLeg) : Bool := x.sender == sender && x.trav == trav && x.job == job && x.info.stake == info.stake
    match s.trav.legs.find? (fun x => same x && x.leg == leg && x.pass == pass) with
    | some x => if x.trailer || x.info.bytes ≤ x.got then s else s.legPart x.id (nbits w 63 32) st data
    | none =>
      let id := s.trav.nextLeg
      let x : DestLeg := { id := id, sender := sender, trav := trav, leg := leg, pass := pass, job := job, step := step, win := nbits w 83 80,
                           comp := BitVec.ofNat 2 (nbits w 85 84), deadline := nbits w 117 96, info := info }
      let keep := s.trav.legs.filter (fun x => !same x)
      let s1 : State := { s with trav := { s.trav with legs := keep ++ [x], nextLeg := id + 1 } }
      s1.legPart id (nbits w 63 32) st data

/-- TRVD (R313). -/
def State.trvdArrives (s : State) (p : Packet) (info : LegInfo) : State :=
  s.legArrives p.src.toNat (trvWord p) p.job info (if p.poi then worse p.status stPoison else p.status) p.payload

def execTrvd (p : Packet) (info : LegInfo) (s : State) : Host.Outcome State Fault Refusal := .next ((s.heed p).1.trvdArrives (s.heed p).2 info)

/-- TRVR: a report reaches the sending engine (R313 step 6). -/
def State.trvrArrives (s : State) (p : Packet) : State :=
  let w := trvWord p
  s.legReported (nbits w 3 0) (nbits w 15 4) (nbits w 31 16) p.src.toNat p.status (nbits w 63 32 == 1)

def execTrvr (p : Packet) (s : State) : Host.Outcome State Fault Refusal := .next ((s.heed p).1.trvrArrives (s.heed p).2)

/-- The benchmark of a step has been accepted here (R318). -/
def State.stepAccepted (s : State) (job step : BitVec 16) : Bool :=
  match kget s.trav.steps job.toNat with
  | some l => (l + 65536 - step.toNat) % 65536 < 32768
  | none => false

/-- The 64 B trailer (R317). -/
def trailerOf (x : DestLeg) (flags : BitVec 3) (done : Nat) : List Byte :=
  leBytes 8 (x.worst.toNat + flags.toNat * 2 ^ 4 + x.leg * 2 ^ 16 + x.pass * 2 ^ 32 + x.step.toNat * 2 ^ 48) ++
  leBytes 8 (x.written + x.poisoned * 2 ^ 32) ++ leBytes 8 (min 0xFFFF_FFFF done) ++ List.replicate 40 0

/-- The leg is no longer in progress here. -/
def State.dropDest (s : State) (id : Nat) : State :=
  { s with trav := { s.trav with legs := s.trav.legs.filter (fun x => x.id != id) } }

/-- LEG_WRITES_DONE: every line of a leg has completed, `done` × 4 ns after this Tiolo's arrival of its anchor: the trailer is written
with LATE as R318 says; a DONE with no accepted anchor is a free value. -/
def State.legWritesDone (s : State) (k done : Nat) : State :=
  match s.trav.legs[k]? with
  | none => s
  | some x =>
    if x.trailer || x.out != 0 || x.got < x.info.bytes then s
    else
      let seen := s.stepAccepted x.job x.step
      let d := if seen then done else s.freeNat 32
      let s0 := if seen then s else s.took
      let late := !seen || x.deadline < done
      match s.jobDatum x.job with
      | none => (s0.dropDest x.id).report x.sender x.trav x.leg x.pass x.job (worse x.worst stAccessFault) 0 false
      | some base =>
        let a := base + x.info.trl
        let half := a % 128 / 64
        let fl := (if late then flLate else 0) ||| s0.degradedFlag x.job.toNat
        let t := trailerOf x fl d
        let bytes := if half == 0 then t ++ List.replicate 64 0 else List.replicate 64 0 ++ t
        let s1 := (s0.setDest { x with trailer := true, flags := fl, out := 1 }).count pgTrv 1 (if late then 1 else 0)
        s1.travReq opWRI x.job (s.ix * 2 ^ 46 + a / 128 * 128) 128 bytes false (some (BitVec.ofNat 128 ((2 ^ 64 - 1) * 2 ^ (64 * half)))) (.leg x.id)

def execLegWritesDone (k done : Nat) (s : State) : Host.Outcome State Fault Refusal := .next (s.legWritesDone k done)

/-- The completion of a window or trailer write. With every write of the leg OK, the ready stake is released at SWITCH scope and the leg is
reported; a failed write is recorded at the end of the leg and withholds the release (R128, R142, R160, R313, R321). -/
def State.destCmp (s : State) (id : Nat) (req p : Packet) : State :=
  match s.destLeg id with
  | none => s
  | some x =>
    let bad := p.status != stOK && !(p.status == stPoison && req.poi)
    if !x.trailer then
      s.setDest { x with out := x.out - 1, worst := if bad then worse x.worst p.status else x.worst, failed := x.failed || bad,
                         written := x.written + (if bad then 0 else req.payload.length) }
    else
      let s1 := s.dropDest id
      if bad || x.failed then
        let st := if bad then worse x.worst p.status else x.worst
        let s2 := s1.record (bookRegion 0) (pgRegion 0) clsRecord 2 aidTrav (x.trav + x.leg * 2 ^ 8) req.gfa.toNat st (s1.parcelOf x.job.toNat)
        s2.report x.sender x.trav x.leg x.pass x.job st x.flags false
      else
        let d : DoneLeg := { job := x.job, trav := x.trav, stake := x.info.stake, leg := x.leg, pass := x.pass, step := x.step }
        let keep := s1.trav.doneLegs.filter (fun y => !(y.job == d.job && y.trav == d.trav && y.stake == d.stake))
        let s2 : State := { s1 with trav := { s1.trav with doneLegs := keep ++ [d] } }
        (s2.srelLocal x.info.stake 1 1 agTraverse).report x.sender x.trav x.leg x.pass x.job x.worst x.flags true

/-! ### Reading the source (R308, R314, R315) -/

/-- The local offset of source page i of a T1 leg. -/
def legPageAt (l : List Word) (i : Nat) : Nat :=
  let ms := legSlots l
  let n := max 1 ms.length
  slotBase (ms.getD (i % n) 0) + legSrc l + i / n * 0x1000

/-- The purpose of a source read: page, whether for a fill, the line where it is a single one, the fill's squashes, and the leg. -/
def travKey (page : Nat) (fill : Bool) (line : Option Nat) (sq g : Nat) : Nat :=
  page + (if fill then 2 ^ 18 else 0) + (match line with
    | some l => l * 2 ^ 19 + 2 ^ 24
    | none => 0) + sq * 2 ^ 25 + 2 ^ 28 * g

/-- Bytes [off, off + len) of source page i are asked for, as an uncached read (R314). -/
def State.askSource (s : State) (k : Nat) (t : Trav) (g i off len key : Nat) : State :=
  let gfa := s.ix * 2 ^ 46 + legPageAt (t.entry g) i + off
  let r := s.coherentAt (BitVec.ofNat 56 gfa)
  r.1.travReq (if r.2 then opRDU else opRDN) t.req.job gfa len [] false none (.travLine k key)

/-- The source pages of a T1 leg are asked for (R314). -/
def State.askPages (s : State) (k : Nat) (t : Trav) (g : Nat) (fill : Bool) (sq : Nat) : State :=
  (List.range (legPages (t.entry g))).foldl (fun s i => s.askSource k t g i 0 0x1000 (travKey i fill none sq g)) s

/-- A page that did not read OK is read again line by line, so that only the lines that fail are poisoned (R314). -/
def State.askLines (s : State) (k : Nat) (t : Trav) (g i : Nat) (fill : Bool) (sq : Nat) : State :=
  (List.range 32).foldl (fun s l => s.askSource k t g i (128 * l) 128 (travKey i fill (some l) sq g)) s

/-- A unit read of a T2 leg while T2 is not mounted: it waits for the mount as a tracked request (R321, R446). -/
def State.awaitUnit (s : State) (k : Nat) (t : Trav) (key : Nat) : State :=
  let p : Packet := { opcode := BitVec.ofNat 8 opRDN, len := 0x1000, tid := s.travTid, job := t.req.job, gfa := BitVec.ofNat 56 (s.ix * 2 ^ 46),
                      src := BitVec.ofNat 10 s.ix, agent := agTraverse }
  { s with recov := { s.recov with trackers := s.recov.trackers ++ [{ req := p, purpose := .travLine k key, dest := s.ix }] } }

/-- What the leg's program says to its destinations. -/
def Trav.info (t : Trav) : LegInfo :=
  let l := t.cur
  let w := legWin l
  { bytes := legBytes l, blocks := legBlocks l, win := wbits t.header 2 45 0 + w * wbits t.header 3 31 0, trl := wbits t.header 5 45 0 + 64 * w,
    stake := wbits t.header 4 13 0 + w }

/-- The part of the current leg at an offset is sent: one multicast to the other members that have not failed, and this Tiolo's own window (R313 step 3). -/
def State.sendPart (s : State) (k : Nat) (t : Trav) (off : Nat) (st : Status) (data : List Byte) : State :=
  let l := t.cur
  let w := travSeqx k t.leg t.pass off (t.anchor.getD 0).toNat (legWin l) (legComp l) (wbits l 4 53 32)
  let ms := (s.legMembers l).filter (fun m => !t.reported.contains m)
  let axis := wbits l 5 32 32 == 1
  let others := ms.filter (· != s.ix)
  let mask : Nat := others.foldl (fun a m => a + 2 ^ (if axis then m / 32 else m % 32)) 0
  let s1 := if others.isEmpty then s
    else s.send { opcode := BitVec.ofNat 8 opTRVD, cls := 3, len := data.length, poi := st != stOK, job := t.job, dst := BitVec.ofNat 17 (others.headD 0 * 128),
                  src := BitVec.ofNat 10 s.ix, agent := agTraverse, status := st, seqx := some (.trv w), payload := data,
                  mcx := some { members := BitVec.ofNat 32 mask, axis := axis, ports := 0 } }
  if ms.contains s.ix then s1.legArrives s.ix w.toNat t.job t.info st data else s1

/-- Where page i of a fill stands in T0 (R315). -/
def State.ringAt (s : State) (t : Trav) (f : RaFill) (i : Nat) : Nat :=
  s.datum t.parcel + wbits t.header 6 45 0 + (f.pos + 0x1000 * i) % max 1 (wbits t.header 7 31 0)

/-- The fill of the current leg, when it is sent from one. -/
def Trav.fillOf (t : Trav) (g : Nat) : Option RaFill := t.runahead.find? (fun f => f.gidx == g)

/-- The fill of the leg is whole, or the leg is a direct one. -/
def Trav.sourceReady (t : Trav) : Bool :=
  !legRa t.cur || match t.fillOf t.gidx with
    | some f => f.direct || f.complete
    | none => false

/-- A page of a fill is sent: whole, or line by line where a line of it did not read OK (R314, R316). -/
def State.sendFilled (s : State) (k : Nat) (t : Trav) (f : RaFill) (i : Nat) : State :=
  let a := s.ringAt t f i
  let st (l : Nat) : Status := worse (kgetD f.bad (32 * i + l) 0) (if s.poisoned (a + 128 * l) then stPoison else stOK)
  if (List.range 32).all (fun l => st l == stOK) then s.sendPart k t (0x1000 * i) stOK (s.readMem a 0x1000)
  else (List.range 32).foldl (fun s' l =>
    s'.sendPart k t (0x1000 * i + 128 * l) (st l) (if st l == stOK then s.readMem (a + 128 * l) 128 else errorBytes 128)) s

/-- A page of a T2 leg is read from its unit: the bytes and the status (R155, R170, R314). -/
def State.unitPage (s : State) (t : Trav) (g i : Nat) : State × List Byte × Status :=
  let l := t.entry g
  let off := legSrc l + 0x1000 * i
  let r := s.objRead t.parcel (wbits l 1 19 0) off
  (s.objReadCount (wbits l 1 19 0) off (i == 0) r.2, r.1, if r.2 then stPoison else stOK)

/-- The leg is sent from its source or its fill (R313 step 3, R314). -/
def State.legSend (s : State) (k : Nat) : State :=
  match s.trav' k with
  | none => s
  | some t =>
    let l := t.cur
    let w := legWin l
    if t.state != 2 then s else
    let t1 := { t with state := if t.stops.isEmpty then 3 else 4, fills := kset t.fills w (kgetD t.fills w 0 + 1), last := 0 }
    let s1 := (s.setTrav k t1).count pgTrv 0
    let pages := List.range (legPages l)
    let fromFill := if legRa l then (t.fillOf t.gidx).filter (fun f => !f.direct) else none
    let s2 := match fromFill with
      | some f => pages.foldl (fun (s : State) i => s.sendFilled k t1 f i) s1
      | none =>
        if !legT2 l then s1.askPages k t1 t.gidx false 0
        else if s.bit rTlStat 0 then
          pages.foldl (fun (s : State) i =>
            let r := s.unitPage t1 t.gidx i
            r.1.sendPart k t1 (0x1000 * i) r.2.2 r.2.1) s1
        else pages.foldl (fun (s : State) i => s.awaitUnit k t1 (travKey i false none 0 t.gidx)) s1
    s2.legEnds k

/-- LEG_SEND_POINT (R313 step 2): the anchor's offset GATE has come, every hand-back is met, a run-ahead leg's fill is whole. -/
def State.legSendPoint (s : State) (k : Nat) : State :=
  match s.trav' k with
  | none => s
  | some t =>
    let met := (s.legMembers t.cur).all (fun m => t.handed.contains m)
    let waiting := match s.twinOp 2 (BitVec.ofNat 32 k) with
      | some o => !o.acts.isEmpty
      | none => false
    if s.bit rTrvCtl 1 || t.state != 2 || t.anchor.isNone || !met || !t.sourceReady || waiting then s
    else s.visible 2 (BitVec.ofNat 32 k) (.leg k) (fun s => s.legSend k)

def execLegSendPoint (k : Fin 16) (s : State) : Host.Outcome State Fault Refusal := .next (s.legSendPoint k.val)

/-! ### Run-ahead (R315) -/

/-- The next leg to fill: the lowest run-ahead leg not yet sent whose fill is not being read, and its squashes so far. -/
def Trav.nextFill (t : Trav) : Option (Nat × Nat) :=
  let depth := wbits t.header 0 55 52
  let rep := wbits t.header 0 47 32
  let sent := if 3 ≤ t.state then t.gidx + 1 else t.gidx
  ((List.range (depth + 1)).map (fun i => sent + i)).findSome? (fun g =>
    if !legRa (t.entry g) || (rep != 0 && rep * t.count ≤ g) || sent + depth ≤ g then none
    else match t.fillOf g with
      | some f => if f.direct || f.reading then none else some (g, f.squashes)
      | none => some (g, 0))

/-- Bytes of the ring that live fills occupy, other than the one for leg g. -/
def Trav.ringUsed (t : Trav) (g : Nat) : Nat :=
  t.runahead.foldl (fun a f => if f.gidx == g || f.direct then a else a + legBytes (t.entry f.gidx)) 0

/-- The statuses of a fill's lines after a read of page i, or of one line of it. -/
def badLines (m : KMap (BitVec 4)) (i : Nat) (line : Option Nat) (st : Status) : KMap (BitVec 4) :=
  if st == stOK then m
  else match line with
    | some l => kset m (32 * i + l) st
    | none => (List.range 32).foldl (fun m l => kset m (32 * i + l) st) m

/-- RUNAHEAD_FILL_START: the fill of a run-ahead leg starts, or is read again after a squash (R315). -/
def State.fillStart (s : State) (k : Nat) : State :=
  match s.trav' k with
  | none => s
  | some t =>
    match t.nextFill with
    | none => s
    | some (g, sq) =>
      let l := t.entry g
      if wbits t.header 7 31 0 < t.ringUsed g + legBytes l then s
      else
        let old := t.fillOf g
        let pos := (old.map RaFill.pos).getD t.ringPos
        let f : RaFill := { gidx := g, pos := pos, reading := true, left := if legT2 l && s.bit rTlStat 0 then 0 else legPages l, squashes := sq }
        let t1 := { t with runahead := t.runahead.filter (fun x => x.gidx != g) ++ [f],
                           ringPos := if old.isSome then t.ringPos else t.ringPos + legBytes l }
        let s1 := (s.setTrav k t1).count pgTrv 2
        if !legT2 l then s1.askPages k t1 g true sq
        else if s.bit rTlStat 0 then
          let r := (List.range (legPages l)).foldl (fun (a : State × KMap (BitVec 4)) i =>
            let d := a.1.unitPage t1 g i
            (d.1.writeMem (d.1.ringAt t1 f i) d.2.1, badLines a.2 i none d.2.2)) (s1, [])
          r.1.setTrav k { t1 with runahead := t1.runahead.map (fun x => if x.gidx == g then { x with bad := r.2 } else x) }
        else (List.range (legPages l)).foldl (fun s i => s.awaitUnit k t1 (travKey i true none sq g)) s1

def execRunaheadFillStart (k : Fin 16) (s : State) : Host.Outcome State Fault Refusal := .next (s.fillStart k.val)

/-- RUNAHEAD_FILL_DONE: every page of a fill is in the buffer (R315). -/
def State.raFillDone (s : State) (k leg : Nat) : State :=
  match s.trav' k with
  | none => s
  | some t => s.setTrav k { t with runahead := t.runahead.map (fun f =>
      if f.gidx % t.count == leg && f.reading && f.left == 0 then { f with complete := true } else f) }

def execRunaheadFillDone (k : Fin 16) (leg : BitVec 12) (s : State) : Host.Outcome State Fault Refusal := .next (s.raFillDone k.val leg.toNat)

/-- A source read ends: for a fill it goes into the buffer, for a direct leg it is sent. A T1 page that did not read OK is read again line by
line (R313, R314, R315). -/
def State.sourceRead (s : State) (k key : Nat) (st : Status) (bytes : List Byte) : State :=
  let page := key % 2 ^ 18
  let fill := nbit key 18
  let line := if nbit key 24 then some (key / 2 ^ 19 % 32) else none
  let sq := key / 2 ^ 25 % 8
  let g := key / 2 ^ 28
  let len := if line.isSome then 128 else 0x1000
  let off := 0x1000 * page + 128 * line.getD 0
  let data := if st == stOK then slice bytes 0 len else errorBytes len
  match s.trav' k with
  | none => s
  | some t =>
    let again := st != stOK && line.isNone && !legT2 (t.entry g)
    if fill then
      match t.fillOf g with
      | none => s
      | some f =>
        if !f.reading || f.left == 0 || f.squashes != sq then s
        else
          let f1 := if again then { f with left := f.left + 31 } else { f with left := f.left - 1, bad := badLines f.bad page line st }
          let s1 := s.setTrav k { t with runahead := t.runahead.map (fun x => if x.gidx == g then f1 else x) }
          if again then s1.askLines k t g page true sq else s1.writeMem (s.ringAt t f page + 128 * line.getD 0) data
    else if t.gidx == g && 3 ≤ t.state then
      if again then s.askLines k t g page false sq else s.sendPart k t off st data
    else s

/-- The completion of a source read. -/
def State.travLineCmp (s : State) (k key : Nat) (p : Packet) : State :=
  s.sourceRead k key (if p.poi then worse p.status stPoison else p.status) p.payload

/-- The unit reads that waited for the mount are served (R321). -/
def State.unitsServed (s : State) : State :=
  if !s.bit rTlStat 0 then s
  else s.recov.trackers.foldl (fun s x => match x.purpose with
    | .travLine k key =>
      (match s.trav' k with
      | some t =>
        if !legT2 (t.entry (key / 2 ^ 28)) then s
        else
          let r := s.unitPage t (key / 2 ^ 28) (key % 2 ^ 18)
          (r.1.dropTracker x.req).sourceRead k key r.2.2 r.2.1
      | none => s)
    | _ => s) s

/-- TL_MOUNT_DONE (R171): the mount, and the unit reads of traverses that waited for it. -/
def execTlMountDone (blank : Bool) (s : State) : Host.Outcome State Fault Refusal := .next ((s.mountDone blank).unitsServed)

/-! ### Time-outs (R321) -/

/-- TRAVERSE_STALL_TIMEOUT: a hand-back or an anchor has not come within STALL_LIMIT; a limit of 0 sets none (R321). -/
def State.travStall (s : State) (k : Nat) : State :=
  match s.trav' k with
  | none => s
  | some t =>
    let met := (s.legMembers t.cur).all (fun m => t.handed.contains m)
    if wbits t.header 7 63 48 != 0 && t.state < 3 && !(met && t.anchor.isSome) then s.travEnd k stTimeout 0x0B else s

def execTraverseStallTimeout (k : Fin 16) (s : State) : Host.Outcome State Fault Refusal := .next (s.travStall k.val)

/-- LEG_MEMBER_TIMEOUT: a member of the leg in progress has not reported (R321). -/
def State.legMemberTimeout (s : State) (k i : Nat) : State :=
  match s.trav' k with
  | none => s
  | some t =>
    let m := if wbits t.cur 5 32 32 == 1 then i * 32 + s.col else s.row * 32 + i
    if 3 ≤ t.state && (s.legMembers t.cur).contains m then s.memberFails k m else s

def execLegMemberTimeout (k : Fin 16) (member : Fin 32) (s : State) : Host.Outcome State Fault Refusal := .next (s.legMemberTimeout k.val member.val)

/-- Every traverse of a parcel is stopped: at once before a send point, otherwise at the end of the leg (R320, R440 step 2). -/
def State.stopTravs (s : State) (n : Nat) : State :=
  (s.trav.travs.filter (fun e => e.2.parcel == n)).foldl (fun s e =>
    if 3 ≤ e.2.state then s.setTrav e.1 { e.2 with state := 4 } else s.travEnd e.1 stOK 0x0D) s

/-- Legs being written for a released parcel's jobs, and its records that wait, are given up. -/
def State.dropTravs (s : State) (n : Nat) : State :=
  { s with trav := { s.trav with legs := s.trav.legs.filter (fun x => !s.binds n x.job.toNat), recs := s.trav.recs.filter (fun r => r.parcel != n) } }

end Sys2Proof.Machine
end

