-- ==== Sys2Proof/Machine/Parcels.lean ====
section
/-!
DEFINITION. Parcels (chapter 17): the checks of a composition, the composition sequence, release, extents and their revocation, and
occupancy metering.
-/
namespace Sys2Proof.Machine

/-! ### Composition words (R432) -/

abbrev CompWords := List Nat

def cw (w : CompWords) (i : Nat) : Nat := w.getD i 0
def cwDatum (w : CompWords) : Nat := nbits (cw w 0) 8 0
def cwT0 (w : CompWords) : Nat := nbits (cw w 0) 24 16
def cwQpBase (w : CompWords) : Nat := nbits (cw w 5) 9 0
def cwQps (w : CompWords) : Nat := nbits (cw w 5) 26 16
def cwPort (w : CompWords) (p : Nat) : Bool := nbit (cw w (2 + p / 64)) (p % 64)
def cwTile (w : CompWords) (k : Nat) : Bool := nbit (cw w 1) k
def cwStake (w : CompWords) (k : Nat) : Bool := nbit (cw w 4) k
/-- The job tags bound. -/
def cwJobs (w : CompWords) : List Nat := ((List.range 4).filter (fun i => nbit (cw w 7) i)).map (fun i => nbits (cw w 6) (16 * i + 15) (16 * i))
def cwQp (w : CompWords) (k : Nat) : Bool := decide (cwQpBase w ≤ k) && decide (k < cwQpBase w + cwQps w)

/-- The grants in force, and the composition proposed. -/
def State.grants (s : State) (n : Nat) : CompWords := (List.range 8).map (fun i => s.grant n i)
def State.proposed (s : State) (n : Nat) : CompWords := (List.range 8).map (fun i => s.reg (rPclCmp n i))

def State.pcl (s : State) (n : Nat) : Parcel := kgetD s.parcels n {}
def State.setPcl (s : State) (n : Nat) (x : Parcel) : State := { s with parcels := kset s.parcels n x }

/-- What parcel m holds: its grants, and what a composition in progress has marked as its own (R436 step 1). -/
def State.holdings (s : State) (m : Nat) : List CompWords :=
  (if s.pclState m == 0 then [] else [s.grants m]) ++
  (match (s.pcl m).compose with
    | some c => if c.op == 4 then [] else [c.words.map BitVec.toNat]
    | none => [])

/-- Two ranges [a, a + n) and [b, b + m) share a unit. -/
def rangesMeet (a n b m : Nat) : Bool := n != 0 && m != 0 && decide (a < b + m) && decide (b < a + n)

/-- Two compositions claim one unit or one job tag (R428, R429). -/
def unitsMeet (v w : CompWords) : Bool :=
  rangesMeet (cwDatum v) (cwT0 v) (cwDatum w) (cwT0 w) || (List.range 64).any (fun k => cwTile v k && cwTile w k) ||
  (List.range 128).any (fun p => cwPort v p && cwPort w p) || (List.range 64).any (fun k => cwStake v k && cwStake w k) ||
  rangesMeet (cwQpBase v) (cwQps v) (cwQpBase w) (cwQps w) || (cwJobs v).any (fun j => (cwJobs w).contains j)

/-! ### The checks (R434, R435) -/

/-- A reserved bit is set or a field is out of range (DETAIL 0x01). -/
def compBad (w : CompWords) : Bool :=
  nbits (cw w 0) 15 9 != 0 || nbits (cw w 0) 31 25 != 0 || nbits (cw w 0) 63 45 != 0 || decide (4096 < nbits (cw w 0) 44 32) ||
  nbits (cw w 5) 15 10 != 0 || nbits (cw w 5) 63 27 != 0 || decide (1024 < cwQpBase w + cwQps w) || nbits (cw w 7) 63 4 != 0

/-- A T0 byte or module slot that the new grants no longer cover lies in a VALID or REVOKING extent of the parcel. -/
def State.extentLeaves (s : State) (n : Nat) (w : CompWords) : Bool :=
  s.extents.any (fun e => e.2.state != .free && e.2.owner == n && match placeOf e.2.base with
    | .t0 => !(decide (cwDatum w * 2 ^ 30 ≤ e.2.base) && decide (e.2.base + 0x1000 * e.2.pages ≤ (cwDatum w + cwT0 w) * 2 ^ 30))
    | .slot m => match s.slotPort m with
      | some p => !cwPort w p
      | none => false
    | _ => false)

/-- A stake is named by a live plan, a live traverse, an RTR QP context or an enabled completion ring of the parcel. -/
def State.stakeNamed (s : State) (n k : Nat) : Bool :=
  s.coll.plans.any (fun q => q.parcel == n && (decide (hdr q.header 2 29 16 ≤ k && k < hdr q.header 2 29 16 + hdrDepth q.header) ||
    (hdr q.header 0 19 16 == 4 && hdr q.header 6 13 0 == k))) ||
  s.trav.travs.any (fun e => e.2.parcel == n && (List.range 16).any (fun i =>
    wbits e.2.header 4 13 0 + i == k || wbits e.2.header 4 29 16 + i == k)) ||
  s.roce.qps.any (fun e => e.2.state == .rtr && e.2.parcel == n && e.2.f 6 14 14 == 1 && e.2.f 6 13 0 == k) ||
  s.roce.rings.any (fun e => e.2.cfg.getLsbD 0 && nbits e.2.cfg.toNat 11 6 == n && nbits e.2.cfg.toNat 59 46 == k)

/-- A unit that the change removes is in use (DETAIL 0x05). -/
def State.removesUsed (s : State) (n : Nat) (w : CompWords) : Bool :=
  let g := s.grants n
  s.extentLeaves n w ||
  (List.range 64).any (fun k => cwTile g k && !cwTile w k && (List.range 4).any (fun i =>
    let x := s.tile (4 * k + i)
    !x.bindings.isEmpty || !x.queue.isEmpty)) ||
  s.roce.qps.any (fun e => e.2.state != .reset && cwQp g (e.1 / 64) && !cwQp w (e.1 / 64)) ||
  (List.range 64).any (fun k => cwStake g k && !cwStake w k && (List.range 256).any (fun i => s.stakeNamed n (256 * k + i)))

/-- A plan, traverse or QP of the parcel names a job tag. -/
def State.jobNamed (s : State) (n j : Nat) : Bool :=
  s.coll.plans.any (fun q => q.parcel == n && q.job.toNat == j) || s.trav.travs.any (fun e => e.2.parcel == n && e.2.job.toNat == j) ||
  s.roce.qps.any (fun e => e.2.state != .reset && e.2.parcel == n && e.2.job == j)

/-- The grid permits live changes (PCL_STAT.LIVE_OK). -/
def State.liveGrid (s : State) : Bool := decide (s.rows * s.cols ≤ 64)

/-- The change is live (R435). -/
def State.isLive (s : State) (n : Nat) (w : CompWords) : Bool :=
  let g := s.grants n
  s.liveGrid && cwDatum g == cwDatum w && decide (cwT0 w ≤ cwT0 g + 8) &&
  (List.range 128).all (fun p => cwPort g p == cwPort w p ||
    (s.portRole p != roleModule && s.portRole p != roleEth && (!cwPort w p || s.portRole p != roleAccel || (s.portUp p && (s.portParcel p).isNone)))) &&
  (cwJobs g).all (fun j => (cwJobs w).contains j || !s.jobNamed n j)

/-- The first failing row of R434: status and DETAIL. -/
def State.compCheck (s : State) (n : Nat) (w : CompWords) (boot : Bool) : Option (Status × Nat) :=
  if compBad w then some (stUnsupported, 1)
  else if (List.range 64).any (fun m => m != n && (s.holdings m).any (fun v => unitsMeet v w)) then some (stAccessFault, 2)
  else if cwT0 w != 0 && decide (s.reservedTop < cwDatum w + cwT0 w) then some (stAccessFault, 3)
  else if (List.range 128).any (fun p => cwPort w p && s.portRole p == roleGrid) then some (stUnsupported, 4)
  else if s.removesUsed n w then some (stAccessFault, 5)
  else if !boot && !s.isLive n w then some (stAccessFault, 6)
  else none

/-! ### Commands (R433) -/

/-- A parcel command ends: STATUS, DETAIL and DONE. -/
def State.pclEnd (s : State) (n : Nat) (st : Status) (detail : Nat) : State :=
  let c := rPclCmd n
  (((s.setFld c 11 8 st.toNat).setFld c 23 16 detail).setFld c 61 61 0).setFld c 62 62 1

/-- Units of a parcel change: those that `g` has and `w` has not are removed. -/
def removedTiles (g w : CompWords) : List Nat := ((List.range 64).filter (fun k => cwTile g k && !cwTile w k)).flatMap (fun k => (List.range 4).map (4 * k + ·))
def removedPorts (g w : CompWords) : List Nat := (List.range 128).filter (fun p => cwPort g p && !cwPort w p)
def stakeIn (w : CompWords) (k : Nat) : Bool := cwStake w (k / 256)

/-- Every line that a port's agent holds and that is not busy is recalled, a line homed elsewhere given up by the proxy (R95, R436 step 2). -/
def State.recallAgent (s : State) (p : Nat) : State :=
  match s.agentOfPort p with
  | none => s
  | some a =>
    (List.range 4).foldl (fun s n =>
      let ks := ((s.cadSlice n).entries.filter (fun e => ((e.2.lowner == a && e.2.lostate != .none) || e.2.lsharers.getLsbD a) &&
        !s.busyLine n e.1)).map (fun e => e.1)
      ks.foldl (fun s k => if keyHome k == s.ix then s.startRecall n k else s.startGiveUp n k { agent := agSlice n } false false none) s) s

/-- The agents of removed ports give up their lines; one that holds none any more gives up its number (R69, R436 step 2). -/
def State.clearPorts (s : State) (ports : List Nat) : State :=
  (ports.filter (fun p => s.portRole p == roleAccel)).foldl (fun s p => (s.recallAgent p).leaver p) s

/-- Requests of removed ports and tiles that are in flight: the Tiolos they reached. -/
def State.reached (s : State) (ports tiles : List Nat) : List Nat :=
  ((s.recov.trackers.filter (fun t => t.req.src.toNat == s.ix &&
    ((t.req.agent.toNat < 2048 && ports.contains (t.req.agent.toNat % 128)) ||
     (0x800 ≤ t.req.agent.toNat && t.req.agent.toNat < 0x900 && tiles.contains (t.req.agent.toNat - 0x800))))).map (fun t => t.dest)).foldl insertNew []

/-- Descriptors held for a full queue of a removed tile complete with REVOKED (R430, R440). -/
def State.dropHeld (s : State) (tiles : List Nat) : State :=
  let mine (h : HeldDoorbell) : Bool := decide (4 ≤ h.door) && tiles.contains (h.door - 4)
  (s.tier.held.filter mine).foldl (fun s h => s.complete h.req stRevoked)
    { s with tier := { s.tier with held := s.tier.held.filter (fun h => !mine h) } }

/-- ZERO_BUSY of tiles: their doorbells refuse writes while it is 1 (R202). -/
def State.zeroBusy (s : State) (tiles : List Nat) (b : Bool) : State := tiles.foldl (fun s t => s.setBit (rTileStat t) 40 b) s

/-- Steps 2 and 4 begin: removed units are quiesced, and drain markers follow what they have in flight (R436). -/
def State.quiesce (s : State) (g w : CompWords) : State :=
  let tiles := removedTiles g w
  let ports := (removedPorts g w).filter (fun p => s.portRole p == roleAccel)
  let s1 := tiles.foldl (fun s t => s.killTile t) s
  let s2 := s1.clearPorts ports
  let s3 := (s2.failParked (fun k => stakeIn g k && !stakeIn w k) stRevoked).resetStakes (fun k => stakeIn g k && !stakeIn w k)
  let s4 := (s3.dropHeld tiles).zeroBusy (tiles ++ removedTiles w g) true
  (s.reached ports tiles).foldl (fun s t => s.bumpEpoch t) s4

/-- The lines that the agents of removed ports hold are recalled (R436 step 2). -/
def State.recalled (s : State) (ports : List Nat) : Bool :=
  ports.all (fun p => match s.agentOfPort p with
    | some a => !s.agentHolds a
    | none => true)

/-- Steps 2 and 4 have ended: recalls are over, the contexts of removed tiles have drained, and none of the requests of removed units is
in flight (R436). -/
def State.quiesced (s : State) (g w : CompWords) : Bool :=
  s.recalled (removedPorts g w) && (removedTiles g w).all (fun t => (s.tile t).ctxs.all (fun c => c.2.state == .free)) &&
  (s.reached (removedPorts g w) (removedTiles g w)).isEmpty

/-- Removed and added units take their zero or reset state (R436 steps 2, 3). -/
def State.zeroUnits (s : State) (g w : CompWords) : State :=
  let s1 := (removedTiles g w ++ removedTiles w g).foldl (fun s t => s.clearTile t) s
  let s2 := (s1.resetStakes (fun k => stakeIn g k != stakeIn w k)).zeroBusy (removedTiles g w ++ removedTiles w g) false
  let lo := cwDatum w * 2 ^ 30
  let hi := (cwDatum w + cwT0 w) * 2 ^ 30
  let glo := cwDatum g * 2 ^ 30
  let ghi := (cwDatum g + cwT0 g) * 2 ^ 30
  if cwT0 g == 0 then s2.zeroMem lo hi
  else (s2.zeroMem lo (min hi glo)).zeroMem (max lo ghi) hi

/-- Agent numbers that removed ports still hold are free (R69). -/
def State.freeAgents (s : State) (g w : CompWords) : State :=
  (removedPorts g w).foldl (fun s p => match s.agentOfPort p with
    | some a => s.bindAgent a none
    | none => s) s

/-- Added ACCEL ports that are UP without an agent number take the lowest free one (R69). -/
def State.giveAgents (s : State) (g w : CompWords) : State :=
  ((removedPorts w g).filter (fun p => s.portRole p == roleAccel && s.portUp p)).foldl (fun s p =>
    if (s.agentOfPort p).isSome then s
    else match s.freeAgent with
      | some a => s.bindAgent a (some p)
      | none => s) s

/-- Writes the grants in force. -/
def State.setGrants (s : State) (n : Nat) (w : CompWords) : State :=
  (List.range 8).foldl (fun s i => s.setReg (rPclGrant n i) (cw w i)) s

/-- A module that joins a parcel is sanitised by KEYP (R300, R435). -/
def State.keyModules (s : State) (g w : CompWords) : State :=
  ((removedPorts w g).filter (fun p => s.portRole p == roleModule && s.portUp p)).foldl (fun s p => s.sendKeyp p) s

/-- An accepted BOOT or COMPOSE begins: the units are marked, removed units are quiesced, modules that join are sanitised (R435, R436). -/
def State.compBegin (s : State) (n op : Nat) (w : CompWords) : State :=
  let st := s.pclState n
  let c : Compose := { op := op, from' := st, words := w.map (BitVec.ofNat 64) }
  let s1 := (s.setPcl n { s.pcl n with compose := some c }).setFld (rPclCmd n) 61 61 1
  let s2 := if st == 2 || st == 4 then s1.setPclState n 3 else s1
  (s2.quiesce (s2.grants n) w).keyModules (s2.grants n) w

/-- A composition is refused: nothing changes (R434). -/
def State.compRefuse (s : State) (n : Nat) (st : Status) (detail : Nat) : State := (s.pclEnd n st detail).count (pgPcl n) 1

/-- Step 1 of R439 for an extent, with the alias whose visible extent it is (R62); traverse legs from its pages are squashed. -/
def State.revokeExt (s : State) (e : Nat) : State :=
  let hit (i : Nat) (x : Extent) : Bool := x.state == .valid && (i == e || (x.vers && x.visible == e))
  let x := s.ext e
  let s1 := (List.range 4).foldl (fun s n => s.tick (aidCad n)) s
  let now := (s1.extents.filter (fun i => hit i.1 i.2)).map (fun i => i.1)
  let s2 : State := { s1 with extents := s1.extents.map (fun i => if hit i.1 i.2 then (i.1, { i.2 with state := .revoking }) else i),
                              revoking := s1.revoking ++ (now.filter (fun i => !s1.revoking.any (fun r => r.ext == i))).map (fun i => { ext := i }) }
  s2.squash (fun leg => nbits (leg.getD 0 0).toNat 1 0 == 0 && match placeOf x.base with
    | .slot m => (legSlots leg).contains m && decide (nbits (leg.getD 2 0).toNat 45 0 < x.base + 0x1000 * x.pages - slotBase m) &&
        decide (x.base - slotBase m < nbits (leg.getD 2 0).toNat 45 0 + nbits (leg.getD 3 0).toNat 31 0)
    | _ => false)

/-- RELEASE (R440 steps 1, 2): extents are revoked, plans, traverses, QPs and registrations end. -/
def State.releaseBegin (s : State) (n : Nat) : State :=
  let c : Compose := { op := 4, from' := s.pclState n, words := [] }
  let s1 := ((s.setPcl n { s.pcl n with compose := some c }).setPclState n 5).setFld (rPclCmd n) 61 61 1
  let es := (s1.extents.filter (fun e => e.2.state == .valid && e.2.owner == n)).map (fun e => e.1)
  let s2 := es.foldl (fun s e => s.revokeExt e) s1
  ((s2.stopPlans n).stopTravs n).dropRemote n

/-- A command of the table of R433, by its OP. -/
def State.pclRun (s0 : State) (n op : Nat) : State :=
  let s := s0.tick aidCompose
  let st := s.pclState n
  let comp := (s.pcl n).compose.isSome
  let served := st == 1 || st == 2 || st == 4
  if comp then s.pclEnd n stAccessFault 7
  else match op with
    | 1 =>
      if st != 0 then s.pclEnd n stAccessFault 7
      else match s.compCheck n (s.proposed n) true with
        | some (e, d) => s.compRefuse n e d
        | none => s.compBegin n 1 (s.proposed n)
    | 2 =>
      if !served then s.pclEnd n stAccessFault 7
      else match s.compCheck n (s.proposed n) (st == 1) with
        | some (e, d) => s.compRefuse n e d
        | none => s.compBegin n 2 (s.proposed n)
    | 3 => if st != 1 then s.pclEnd n stAccessFault 7 else (s.setPclState n 2).pclEnd n stOK 0
    | 4 => if !served then s.pclEnd n stAccessFault 7 else s.releaseBegin n
    | 5 => if st != 4 then s.pclEnd n stAccessFault 7 else (s.setPclState n 2).pclEnd n stOK 0
    | _ => s.pclEnd n stUnsupported 1

/-- GO with an OP: ignored while BUSY; otherwise DONE clears and the command runs, after a firmware restart if one is in progress
(R433, R466). -/
def State.pclGo (s : State) (n op : Nat) : State :=
  s.cfgDo (rPclCmd n) (fun s =>
    if s.bit (rPclCmd n) 61 then s
    else ((s.setReg (rPclCmd n) (op % 16)).setFld (rPclCmd n) 61 61 (if s.recov.restarting.isEmpty then 0 else 1)).onFirmware
      (.parcel n op) (fun s => s.pclRun n op))

def execBoot (n : ParcelIx) (s : State) : Host.Outcome State Fault Refusal := .next (s.pclGo n.val 1)
def execCompose (n : ParcelIx) (s : State) : Host.Outcome State Fault Refusal := .next (s.pclGo n.val 2)
def execActivate (n : ParcelIx) (s : State) : Host.Outcome State Fault Refusal := .next (s.pclGo n.val 3)
def execRelease (n : ParcelIx) (s : State) : Host.Outcome State Fault Refusal := .next (s.pclGo n.val 4)
def execClearDegraded (n : ParcelIx) (s : State) : Host.Outcome State Fault Refusal := .next (s.pclGo n.val 5)

/-- Steps of jobs that no parcel binds any more are forgotten (R305). -/
def State.forgetSteps (s : State) : State :=
  { s with trav := { s.trav with steps := s.trav.steps.filter (fun e => (s.parcelOf e.1).isSome) } }

/-- COMPOSITION_GRANTS_EFFECT: once the quiesce, zeroing and drain steps have ended, the new grants take effect in every home arbiter, the
parcel takes its new state and DONE is set (R436 step 5). -/
def State.grantsEffect (s : State) (n : Nat) : State :=
  match (s.pcl n).compose with
  | none => s
  | some c =>
    if c.op == 4 then s
    else
      let g := if s.pclState n == 0 then [] else s.grants n
      let w := c.words.map BitVec.toNat
      let s0 := s.clearPorts (removedPorts g w)
      if !s0.quiesced g w then s0 else
      let s1 := (((s0.zeroUnits g w).freeAgents g w).homeSteps).setGrants n w
      let s2 := (s1.giveAgents g w).forgetSteps
      let st := if c.op == 1 || c.from' == 1 then 1 else if c.from' == 4 || c.degrade then 4 else 2
      let s3 := (s2.setPclState n st).count (pgPcl n) 6 (if st == 4 && c.from' == 2 then 1 else 0)
      let x := s3.pcl n
      let s4 := s3.setPcl n { x with compose := none, use := if c.op == 1 then [] else x.use }
      (s4.pclEnd n stOK 0).count (pgPcl n) 0

def execCompositionGrantsEffect (n : ParcelIx) (s : State) : Host.Outcome State Fault Refusal := .next (s.grantsEffect n.val)

/-- Every part of a release's step 2 has ended: no extent, plan, traverse, QP or registration of the parcel is left (R440). -/
def State.releaseReady (s : State) (n : Nat) : Bool :=
  !s.extents.any (fun e => e.2.state != .free && e.2.owner == n) && !s.coll.plans.any (fun q => q.parcel == n) &&
  !s.trav.travs.any (fun e => e.2.parcel == n) && !s.remoteBusy n

/-- RELEASE_DONE: once the extents, plans, traverses, QPs and registrations have ended, the units begin to be removed; once the lines
their agents held are recalled and nothing of them is in flight, every unit is zeroed and the parcel becomes FREE (R440 steps 3, 4). -/
def State.releaseDone (s : State) (n : Nat) : State :=
  match (s.pcl n).compose with
  | none => s
  | some c =>
    if c.op != 4 || !s.releaseReady n then s
    else if !c.removing then (s.setPcl n { s.pcl n with compose := some { c with removing := true } }).quiesce (s.grants n) []
    else if !(s.clearPorts (removedPorts (s.grants n) [])).quiesced (s.grants n) [] then s.clearPorts (removedPorts (s.grants n) [])
    else
      let g := s.grants n
      let s0 := ((s.clearPorts (removedPorts g [])).dropPlans n).dropTravs n
      let s1 := (((s0.zeroUnits g []).zeroMem (cwDatum g * 2 ^ 30) ((cwDatum g + cwT0 g) * 2 ^ 30)).freeAgents g []).homeSteps
      let s2 := (s1.setGrants n []).forgetSteps
      ((s2.setPclState n 0).setPcl n { s2.pcl n with compose := none }).pclEnd n stOK 0

def execReleaseDone (n : ParcelIx) (s : State) : Host.Outcome State Fault Refusal := .next (s.releaseDone n.val)

/-- Word 5 with the QP groups that two compositions share (R438). -/
def keptQps (g w : CompWords) : Nat :=
  let lo := max (cwQpBase g) (cwQpBase w)
  let hi := min (cwQpBase g + cwQps g) (cwQpBase w + cwQps w)
  if lo < hi then lo + (hi - lo) * 2 ^ 16 else cwQpBase g

/-- The state of a composition in progress is lost: units being added return to no parcel, units being removed stay removed and zeroed
(R438). -/
def State.loseCompose (s : State) (n : Nat) : State :=
  match (s.pcl n).compose with
  | none => s
  | some c =>
    if c.op == 4 then s
    else
      let g := if s.pclState n == 0 then [] else s.grants n
      let w := c.words.map BitVec.toNat
      let both (i : Nat) : Nat := (BitVec.ofNat 64 (cw g i) &&& BitVec.ofNat 64 (cw w i)).toNat
      let kept : CompWords := if g.isEmpty then [] else
        [nsetBits (cw g 0) 24 16 (min (cwT0 g) (cwT0 w)), both 1, both 2, both 3, both 4, keptQps g w, cw g 6, cw g 7]
      let s1 := ((s.zeroUnits g kept).freeAgents g kept).setGrants n kept
      let st := if c.from' == 2 then 4 else c.from'
      let s2 := (s1.setPclState n st).count (pgPcl n) 6 (if c.from' == 2 then 1 else 0)
      (s2.setPcl n { s2.pcl n with compose := none }).pclEnd n stLostState 0

/-! ### Extents (R58, R439) -/

/-- The descriptor in PCL_EXT0–PCL_EXT3, its owner the page's parcel (R57, R439). -/
def State.stagedExt (s : State) (n : Nat) : Extent :=
  let w (i : Nat) : Nat := s.reg (rPclExt n i)
  { base := nbits (w 0) 45 12 * 0x1000, pages := nbits (w 1) 33 0, owner := n, rd := nbit (w 2) 8, wr := nbit (w 2) 9, coh := nbit (w 2) 10,
    vers := nbit (w 2) 11, twin := nbit (w 2) 12, wb := nbit (w 2) 13, repl := nbit (w 2) 14, partner := nbits (w 2) 25 16,
    visible := nbits (w 3) 12 0, version := nbits (w 3) 47 16, state := .valid }

/-- The words of a descriptor, with STATE (R57). -/
def Extent.words (x : Extent) : List Nat :=
  let b (v : Bool) (i : Nat) : Nat := if v then 2 ^ i else 0
  let st := match x.state with
    | .free => 0
    | .valid => 1
    | .revoking => 2
  if x.state == .free then [0, 0, 0, 0]
  else [x.base, x.pages, x.owner + b x.rd 8 + b x.wr 9 + b x.coh 10 + b x.vers 11 + b x.twin 12 + b x.wb 13 + b x.repl 14 + x.partner * 2 ^ 16,
        x.visible + x.version * 2 ^ 16 + st * 2 ^ 62]

/-- R58 or R165 refuses a descriptor for an extent number. -/
def State.extBad (s : State) (e n : Nat) (x : Extent) : Bool :=
  let last := x.base + 0x1000 * x.pages - 1
  let g := s.grants n
  let inOne := match placeOf x.base, placeOf last with
    | .t0, .t0 => decide (cwDatum g * 2 ^ 30 ≤ x.base) && decide (last < (cwDatum g + cwT0 g) * 2 ^ 30)
    | .slot a, .slot b => a == b && s.slotParcel a == some n
    | .aliased, .aliased => true
    | _, _ => false
  let inAlias := placeOf x.base == .aliased
  let inSlot := match placeOf x.base with
    | .slot _ => true
    | _ => false
  let y := s.ext x.visible
  (s.ext e).state != .free || x.pages == 0 || !inOne ||
  s.extents.any (fun i => i.2.state != .free && decide (x.base < i.2.base + 0x1000 * i.2.pages) && decide (i.2.base ≤ last)) ||
  x.vers != inAlias || (x.repl && !x.coh) || (x.wb && (!inSlot || !s.bit rTcPool 0)) ||
  (x.twin && (x.partner == s.ix || x.partner / 32 != s.row)) ||
  (x.vers && !(y.state == .valid && !y.vers && y.owner == n && y.pages == x.pages))

/-- An extent command ends. -/
def State.extEnd (s : State) (n : Nat) (st : Status) : State := (s.setFld (rPclExtCmd n) 23 20 st.toNat).setBit (rPclExtCmd n) 62 true

/-- CREATE: the extent becomes VALID in the order of each home slice (R58, R61, R439). -/
def State.extCreateRun (s : State) (n e : Nat) : State :=
  let x := s.stagedExt n
  if s.extBad e n x then s.extEnd n stAccessFault
  else
    let s1 := (List.range 4).foldl (fun s i => s.tick (aidCad i)) s
    ((s1.setExt e x).extEnd n stOK).count (pgPcl n) 2

/-- REVOKE: step 1 of R439; the command ends with its step 4. -/
def State.extRevokeRun (s : State) (n e : Nat) : State :=
  let x := s.ext e
  if x.state == .free || x.owner != n then s.extEnd n stAccessFault
  else if x.state == .revoking then s
  else s.revokeExt e

/-- QUERY (R439). -/
def State.extQueryRun (s : State) (n e : Nat) : State :=
  let x := s.ext e
  if x.state != .free && x.owner != n then s.extEnd n stAccessFault
  else ((List.range 4).foldl (fun (s : State) i => s.setReg (rPclExt n i) (x.words.getD i 0)) s).extEnd n stOK

/-- An extent command by its OP. -/
def State.extRun (s : State) (n op e : Nat) : State :=
  match op with
  | 1 => s.extCreateRun n e
  | 2 => s.extRevokeRun n e
  | 3 => s.extQueryRun n e
  | _ => s.extEnd n stUnsupported

/-- A write of PCL_EXT_CMD with an OP; GO starts it (R439, R466). -/
def State.extGo (s : State) (n op : Nat) (v : Word) : State :=
  s.cfgDo (rPclExtCmd n) (fun s =>
    let e := nbits v.toNat 12 0
    if !v.getLsbD 63 then s.setReg (rPclExtCmd n) (e + op * 2 ^ 16 + (if s.bit (rPclExtCmd n) 62 then 2 ^ 62 else 0) + s.fld (rPclExtCmd n) 23 20 * 2 ^ 20)
    else (s.setReg (rPclExtCmd n) (e + op * 2 ^ 16)).onFirmware (.extent n op e) (fun s => s.extRun n op e))

def execExtCreate (n : ParcelIx) (v : Word) (s : State) : Host.Outcome State Fault Refusal := .next (s.extGo n.val 1 v)
def execExtRevoke (n : ParcelIx) (v : Word) (s : State) : Host.Outcome State Fault Refusal := .next (s.extGo n.val 2 v)
def execExtQuery (n : ParcelIx) (v : Word) (s : State) : Host.Outcome State Fault Refusal := .next (s.extGo n.val 3 v)

/-- A request of a queue or transaction targets the extent. -/
def Extent.hit (x : Extent) (off : Nat) : Bool := decide (x.base ≤ off) && decide (off < x.base + 0x1000 * x.pages)

/-- Requests through an alias that have not completed at the home (R62, R439 step 2). -/
def State.aliasPending (s : State) (x : Extent) : Bool :=
  let mine (p : Packet) : Bool := gfaHome p.gfa == s.ix && x.hit (gfaOff p.gfa)
  s.cad.any (fun c => c.2.txns.any (fun t => t.kind == .home && t.reply && mine t.req) || c.2.conflictQ.any (fun q => mine q.2) ||
    c.2.holdQ.any (fun q => mine q.2)) ||
  s.tier.frames.any (fun f => f.2.waiters.any (fun w => mine w.2))

/-- Requests ordered before the revocation that have not completed their effects at the home (R439 step 2). -/
def State.extPending (s : State) (x : Extent) : Bool :=
  if x.vers then s.aliasPending x
  else
  s.cad.any (fun c => c.2.txns.any (fun t => t.lines.any (fun k => keyHome k == s.ix && x.hit (keyOff k))) ||
    c.2.conflictQ.any (fun q => x.hit q.1) || c.2.holdQ.any (fun q => x.hit q.1)) ||
  s.pnm.any (fun q => (q.2.queue ++ q.2.active).any (fun c =>
    let l := pnmLen c.desc
    let meets (a : Nat) : Bool := decide (a < x.base + 0x1000 * x.pages) && decide (x.base < a + l)
    meets (pnmA c.desc) || meets (pnmD c.desc) || (pnmOp c.desc != 4 && meets (pnmB c.desc)))) ||
  s.tier.heldStores.any (fun h => x.hit h.1) ||
  s.tier.frames.any (fun f => x.hit (0x1000 * f.1) && (f.2.filling || !f.2.waiters.isEmpty))

/-- The replicas of the extent's pages are invalidated, and every copy of its lines that are not busy is recalled (R96, R100). -/
def State.extRecall (s : State) (x : Extent) : State :=
  (List.range 4).foldl (fun s n =>
    let pages := ((s.cadSlice n).replTable.filter (fun e => e.1 / 2 ^ 34 == s.ix && x.hit (keyOff (32 * e.1)) &&
      !(pageLines e.1).any (fun k => s.busyLine n k))).map (fun e => e.1)
    let s1 := pages.foldl (fun s pg => s.startSpi n pg) s
    let ks := ((s1.cadSlice n).entries.filter (fun e => keyHome e.1 == s.ix && x.hit (keyOff e.1) && !s1.busyLine n e.1)).map (fun e => e.1)
    ks.foldl (fun s k => s.startRecall n k) s1) s

/-- Step 4 of R439: an extent and the aliases that end with it are FREE, in one step of each slice, and DONE tells the REVOKE command that
names one of them (R62). -/
def State.extsFree (s : State) (owner : Nat) (es : List Nat) : State :=
  let s1 := (List.range 4).foldl (fun s i => s.tick (aidCad i)) s
  let s2 : State := { s1 with extents := s1.extents.filter (fun i => !es.contains i.1), revoking := s1.revoking.filter (fun r => !es.contains r.ext) }
  let s3 := s2.count (pgPcl owner) 3 es.length
  let c := rPclExtCmd owner
  if s3.fld c 19 16 == 2 && es.contains (s3.fld c 12 0) && !s3.bit c 62 then s3.extEnd owner stOK else s3

/-- EXTENT_REVOKE_DRAINED: once the requests ordered before a revocation have completed, the copies are recalled and the dirty frames are
written back, or dropped while T1 is read-only; when none is left the extent becomes FREE and EXT_CMD.DONE is set. The event comes again
while a recall or a write-back is outstanding. An alias that revokes with its visible extent ends with it; alone, it recalls nothing
(R62, R439 steps 2–4). -/
def State.revokeDrained (s : State) (e : Nat) : State :=
  let x := s.ext e
  let aliases := (s.extents.filter (fun i => i.2.state == .revoking && i.2.vers && i.2.visible == e)).map (fun i => i.1)
  if x.state != .revoking || s.extPending x || (x.vers && (s.ext x.visible).state == .revoking) then s
  else if x.vers then s.extsFree x.owner [e]
  else
    let s0 := if x.coh then s.extRecall x else s
    if s0.extPending x then s0 else
    let s1 := if x.wb && !s0.t1We then s0.dropFrames (fun k => x.hit (0x1000 * k)) (s0.homeRegion x.base) 5 else s0
    let dirty := (s1.tier.frames.filter (fun f => x.hit (0x1000 * f.1) && f.2.dirty)).map (fun f => f.1)
    let s2 := if x.wb then dirty.foldl (fun s k => s.startWriteBack k) s1 else s1
    if x.wb && !dirty.isEmpty then s2
    else
      let s3 : State := { s2 with tier := { s2.tier with frames := s2.tier.frames.filter (fun f => !(x.wb && x.hit (0x1000 * f.1))) } }
      s3.extsFree x.owner (e :: aliases)

def execExtentRevokeDrained (e : Fin 8192) (s : State) : Host.Outcome State Fault Refusal := .next (s.revokeDrained e.val)

/-! ### Occupancy (R441) -/

/-- Units of each kind that a parcel holds in a region (R441). -/
def State.unitsIn (s : State) (n r : Nat) : List Nat :=
  if s.pclState n == 0 then [0, 0, 0, 0, 0]
  else
    let g := s.grants n
    [((List.range 16).filter (fun k => cwTile g (16 * r + k))).length, ((List.range 32).filter (fun p => cwPort g (32 * r + p))).length,
     if r == 0 then cwT0 g else 0, ((List.range 16).filter (fun k => cwStake g (16 * r + k))).length, if r == 3 then cwQps g else 0]

/-- Adds one µs of a parcel's units to its counters of a region. -/
def State.occupyOne (s : State) (r n : Nat) : State :=
  let us := s.unitsIn n r
  let x := s.pcl n
  if us.all (· == 0) then s
  else s.setPcl n { x with use := (List.range 5).foldl (fun m k =>
    if us.getD k 0 == 0 then m else kset m (8 * r + k) (kgetD m (8 * r + k) 0 + us.getD k 0)) x.use }

/-- OCCUPANCY_TICK (R441). -/
def execOccupancyTick (r : SliceIx) (s : State) : Host.Outcome State Fault Refusal :=
  .next ((List.range 64).foldl (fun s n => s.occupyOne r.val n) s)

/-- USAGE_SNAP: a write of PCL_USE_SEL; SNAP latches the parcel's counters in every region (R441). -/
def State.usageSnap (s : State) (n : Nat) (v : Word) : State :=
  s.cfgDo (rPclUseSel n) (fun s =>
    let s1 := s.setReg (rPclUseSel n) (nbits v.toNat 4 0)
    if v.getLsbD 63 then s1.setPcl n { s1.pcl n with snap := (s1.pcl n).use } else s1)

def execUsageSnap (n : ParcelIx) (v : Word) (s : State) : Host.Outcome State Fault Refusal := .next (s.usageSnap n.val v)

end Sys2Proof.Machine
end

