-- ==== Sys2Proof/Machine/Publish.lean ====
section
/-!
DEFINITION. Versioned publication (R132–R136): the checks of PUBLISH at the deciding slice, and the swap of the visible extent.
-/
namespace Sys2Proof.Machine

/-! ### Fields of a PUBLISH payload (R132) -/

def pubAlias (p : Packet) : Nat := nbits (wordAt p.payload 0) 12 0
def pubStaging (p : Packet) : Nat := nbits (wordAt p.payload 0) 28 16
def pubVersion (p : Packet) : Nat := nbits (wordAt p.payload 0) 63 32
def pubNotify (p : Packet) : Nat := nbits (wordAt p.payload 1) 13 0
def pubNotifyEn (p : Packet) : Bool := nbit (wordAt p.payload 1) 15

/-- An extent is visible through some versioned window. -/
def State.visibleSomewhere (s : State) (e : Nat) : Bool := s.extents.any (fun x => x.2.vers && x.2.state != .free && x.2.visible == e)

/-- The checks of a PUBLISH (R133). -/
def State.publishCheck (s : State) (p : Packet) : Status :=
  let a := s.ext (pubAlias p)
  let t := s.ext (pubStaging p)
  statusOf [
    (gfaHome p.gfa != s.ix || a.state == .free || gfaOff p.gfa != a.base, stAccessFault),
    (a.state == .revoking || t.state == .revoking || s.pclState a.owner == 5, stRevoked),
    (a.state != .valid || !a.vers || t.state != .valid || t.vers || t.owner != a.owner || t.pages != a.pages ||
      s.visibleSomewhere (pubStaging p) || !s.binds a.owner p.job.toNat, stAccessFault),
    (pubNotifyEn p && s.stakeParcel (pubNotify p) != some a.owner, stAccessFault),
    (pubNotifyEn p && (s.stake (pubNotify p)).lost, stFatal),
    (decide (pubVersion p ≤ a.version), stStale),
    (p.payload.length != 16, stUnsupported)]

/-- The 8 B of a PUBLISH completion: the retired extent and the version (R134). -/
def publishData (retired version : Nat) : List Byte := leBytes 8 (retired + version * 2 ^ 16)

/-- A PUBLISH that failed its checks: nothing changes; STALE carries the current version (R133, R134). -/
def State.publishRefuse (s : State) (p : Packet) (st : Status) : State :=
  let d := if st == stStale then publishData 0 (s.ext (pubAlias p)).version else errorBytes 8
  let s1 := s.countRevoked st (s.ext (pubAlias p)).owner
  (s1.completeRaw p st d 0 (132 + s.homeRegion (gfaOff p.gfa))).count pgStk 10 (if st == stStale then 1 else 0)

/-- Steps 1–4 of a PUBLISH that passed: the notify stake odd, the swap in all four slices, the notify stake even, the CMP (R134). -/
def State.publishSteps (s : State) (p : Packet) : State :=
  let x := s.ext (pubAlias p)
  let v := pubVersion p
  let note (s : State) (k : Nat) : State :=
    if pubNotifyEn p then s.releaseSet (pubNotify p) (BitVec.ofNat 64 k) (reqAgent p) else s
  let s1 := note s (2 * v - 1)
  let s2 := (List.range 4).foldl (fun s n => s.tick (aidCad n)) s1
  let s3 := s2.setExt (pubAlias p) { x with visible := pubStaging p, version := v }
  let s4 := note s3 (2 * v)
  (s4.completeRaw p stOK (publishData x.visible v) 0 (132 + s.homeRegion x.base)).count pgStk 9

/-- A PUBLISH is checked, and applied or refused. -/
def State.publishNow (s : State) (p : Packet) : State :=
  let st := s.publishCheck p
  if st == stOK then s.publishSteps p else s.publishRefuse p st

/-- OPREF of a PUBLISH: the versioned extent's number (R457). -/
def pubRef (p : Packet) : BitVec 32 := BitVec.ofNat 32 (pubAlias p)

/-- PUBLISH at its deciding slice. One of a twinned window waits for its mirror write's answer, and later ones to that window wait behind
it (R133, R455, R458). -/
def State.publish (s0 : State) (p : Packet) : State :=
  let s := s0.tick (aidCad (s0.homeRegion (s0.ext (pubAlias p)).base))
  let x := s.ext (pubAlias p)
  if (s.twinOp 3 (pubRef p)).isSome then s.visible 3 (pubRef p) (.publish p) (fun s => s)
  else
    let st := s.publishCheck p
    if st != stOK then s.publishRefuse p st
    else if !x.twin then s.publishSteps p
    else
      let r := s.startTwin 3 p.job (pubRef p) x.owner x.partner agPlan
      if r.2 then r.1.visible 3 (pubRef p) (.publish p) (fun s => s) else r.1.publishSteps p

def execPublish (p : Packet) (s : State) : Host.Outcome State Fault Refusal := .next (s.publish p)

/-- The action of a twinned PUBLISH is taken; the operation ends when no later PUBLISH waits behind it. -/
def State.publishAct (s : State) (p : Packet) : State :=
  let s1 := s.publishNow p
  match s1.twinOp 3 (pubRef p) with
  | some o => if o.acts.isEmpty then s1.dropTwin 3 (pubRef p) else s1
  | none => s1

end Sys2Proof.Machine
end

