-- ==== Sys2Proof/Machine/Takeover.lean ====
section
/-!
DEFINITION. Twins at work (R458–R464): answers and the visible actions they release, bring-ins, copies held for other columns, beats,
handover, takeover and stand-down, and what is lost with the only copy of an operation.
-/
namespace Sys2Proof.Machine

/-! ### The owner: answers and actions (R458) -/

/-- A visible action is taken by the engine that owns the operation. -/
def State.doAct (s : State) (o : TwinOp) (a : TwinAct) : State :=
  match a with
  | .releaseSet k v => s.releaseSet k v { tiolo := BitVec.ofNat 10 s.ix, agent := o.agent }
  | .slotLines n off stage st d => s.slotWrite n off stage st d
  | .leg k => s.legSend k
  | .publish p => s.publishAct p
  | .readResponse n => s.readResponseAct n

/-- The operation of a kind and reference that mirrors to a column; the one of the generation, where there are several. -/
def State.twinAt (s : State) (col : Nat) (kind : BitVec 4) (opref gen : BitVec 32) : Option TwinOp :=
  let l := s.recov.ops.filter (fun o => o.kind == kind && o.opref == opref && o.owner == s.ix && (o.partner == some col || o.bringIn == some col))
  (l.find? (fun o => o.gen == gen)).orElse (fun _ => l.head?)

/-- The ownership record with the higher GEN owns, on equal GEN the lower OWNER (R461). -/
def outranks (gen owner gen' owner' : Nat) : Bool := decide (gen' < gen) || (gen == gen' && decide (owner < owner'))

/-- This Tiolo's own state of an operation is discarded, so it takes no further action of it: the stage host with its bindings, the
traverse with its requests, or the READ responses; a PUBLISH, and an operation taken over, have no state but their waiting actions
(R461). -/
def State.discardOp (s : State) (o : TwinOp) : State :=
  let s1 := s.dropOp o
  match if o.taken.isSome then 0 else o.kind.toNat with
  | 1 =>
    let mine := s1.coll.plans.filter (fun q => q.opref == o.opref && q.job == o.job)
    let s2 := mine.foldl State.unbindAll s1
    let s3 := s2.setPlans (s2.coll.plans.filter (fun q => !(q.opref == o.opref && q.job == o.job)))
    { s3 with coll := { s3.coll with held := s3.coll.held.filter (fun h => !mine.any (fun q => q.slots.contains h.slot)) } }
  | 2 => (s1.dropTravReqs o.opref.toNat).setTravs (kdel s1.trav.travs o.opref.toNat)
  | 4 => { s1 with roce := { s1.roce with qps := s1.roce.qps.map (fun e => (e.1, if e.1 == o.opref.toNat then e.2.abandonReads else e.2)) } }
  | _ => s1

/-- This Tiolo finds itself not the owner: it drops its own state of the operation, and a TWIN record is made (R461). -/
def State.standDown (s : State) (o : TwinOp) (new gen : Nat) : State :=
  ((s.discardOp o).twinRecord o.kind o.opref o.parcel s.ix new gen).count pgFb 8

/-- MIRROR_ANSWER: with its own GEN and MSEQ the owner takes the pending action and mirrors the cleared INTENT; with a higher GEN it
stands down (R458 steps 3 and 4, R461). -/
def State.mirrorAnswer (s : State) (col : Nat) (kind : BitVec 4) (opref gen : BitVec 32) (mseq : Word) : State :=
  match s.twinAt col kind opref gen with
  | none => s
  | some o =>
    if o.gen.toNat < gen.toNat then s.standDown o (s.row * 32 + col) gen.toNat
    else if gen != o.gen || mseq.toNat != o.mseq || !o.pending || o.partner != some col || o.stopped then s
    else match o.acts with
      | [] => s.setTwin { o with pending := false }
      | a :: rest =>
        let o1 := { o with pending := false, acts := rest }
        let s1 := (s.setTwin o1).doAct o1 a
        match s1.recov.ops.find? (fun q => q.same o) with
        | none => s1
        | some o2 => if o2.pending then s1 else (s1.mirrorTo o2 col true false).mirrorNext o2

def execMirrorAnswer (col : Fin 32) (kind : BitVec 4) (opref gen : BitVec 32) (mseq : Word) (s : State) : Host.Outcome State Fault Refusal :=
  .next (s.mirrorAnswer col kind opref gen mseq)

/-! ### Bring-ins (R462) -/

/-- The Tiolo of the own row at a column has a live route. -/
def State.reachable (s : State) (col : Nat) : Bool := !(s.firstTrunks (s.row * 32 + col)).isEmpty

/-- The first column after the own one, cyclically, whose area is VALID and whose Tiolo is reachable, other than one column. -/
def State.bringInCol (s : State) (n but : Nat) : Option Nat :=
  ((List.range s.cols).map (fun i => (s.col + 1 + i) % s.cols)).find? (fun c =>
    c != s.col && c != but && areaValid (s.twinArea n c) && s.reachable c && (s.freeTwinPage n c).isSome)

/-- A bring-in starts: a full copy is written with COMMIT clear, then COMMIT is set. Where no column qualifies, a stopped operation
stays stopped, and another one runs on without a twin (R462). -/
def State.startBringIn (s : State) (o : TwinOp) (but : Nat) : State :=
  match s.bringInCol o.parcel but with
  | none => if o.stopped then s.setTwin { o with bringIn := none } else s.dropOp o
  | some c =>
    let o1 := { o with partner := none, bringIn := some c, page := (s.freeTwinPage o.parcel c).getD 1, mseq := o.mseq + 1, pending := false }
    ((s.setTwin o1).mirrorTo o1 c false false).mirrorTo o1 c true (!o1.acts.isEmpty)

/-- BRING_IN_COMMIT: the new partner has answered the final write, and the operation is twinned again (R462). -/
def State.bringInCommit (s : State) (col : Nat) (kind : BitVec 4) (opref gen : BitVec 32) (mseq : Word) : State :=
  match s.twinAt col kind opref gen with
  | none => s
  | some o =>
    if o.gen.toNat < gen.toNat then s.standDown o (s.row * 32 + col) gen.toNat
    else if o.bringIn != some col || gen != o.gen || mseq.toNat != o.mseq then s
    else
      let o1 := { o with partner := some col, bringIn := none, stopped := false }
      ((s.setTwin o1).count pgFb 9).mirrorNext o1

def execBringInCommit (col : Fin 32) (kind : BitVec 4) (opref gen : BitVec 32) (mseq : Word) (s : State) : Host.Outcome State Fault Refusal :=
  .next (s.bringInCommit col kind opref gen mseq)

/-- A mirror write has failed: the owner takes no visible action until a bring-in commits; a bring-in that fails is aborted
(R458, R462). -/
def State.mirrorFailed (s : State) (kind : BitVec 4) (opref : BitVec 32) (job : BitVec 16) (taken : Option Nat) : State :=
  match s.recov.ops.find? (fun o => o.is kind opref (some job) && o.taken == taken) with
  | none => s
  | some o =>
    match o.bringIn with
    | some c => ((s.count pgFb 10).twinRecord kind opref o.parcel s.ix s.ix o.gen.toNat).startBringIn { o with stopped := true, bringIn := none } c
    | none => if o.stopped then s else s.startBringIn { o with stopped := true, pending := false } (o.partner.getD s.col)

/-- The CMP of a mirror write (R458). -/
def State.mirrorCmp (s : State) (kind : BitVec 4) (opref : BitVec 32) (taken : Option Nat) (req p : Packet) : State :=
  if p.status == stOK then s else s.mirrorFailed kind opref req.job taken

/-! ### The partner: copies and answers (R457, R458 step 2) -/

/-- The copy is of one operation. -/
def TwinCopy.same (c : TwinCopy) (m : TwinRecord) : Bool := c.rec'.kind == m.kind && c.rec'.opref == m.opref && c.rec'.job == m.job

/-- The answer (GEN, MSEQ) into the sender's incoming sub-area for this column. -/
def State.answerMirror (s : State) (col page : Nat) (job : BitVec 16) (gen : Nat) (mseq : Word) : State :=
  match s.parcelOf job.toNat with
  | none => s
  | some n =>
    let g := BitVec.ofNat 56 (areaGfa (s.twinArea n col) + areaSub (s.twinArea n col) * s.col + 0x1000 * page)
    s.twinWrite agPlan job g (leBytes 8 gen ++ leBytes 8 mseq.toNat) .posted

/-- MIRROR_WRITE: the copy is stored and answered. A claimed copy is not overwritten by an older generation, and its own GEN is the
answer; one that this Tiolo has taken over from the sender and owns is compared by R461. A copy with a bad CRC is treated as absent
(R457). -/
def State.mirrorWrite (s : State) (col page : Nat) (m : TwinRecord) : State :=
  if !m.crcOk then s
  else
    let own := s.recov.ops.find? (fun o => o.is m.kind m.opref (some m.job) && o.taken == some col)
    let x := s.twinCol col
    let held := x.copies.find? (fun c => c.same m && c.claimed)
    match own, held with
    | some o, _ =>
      if outranks m.gen.toNat m.owner.toNat o.gen.toNat s.ix then s.standDown o m.owner.toNat m.gen.toNat
      else s.answerMirror col page m.job o.gen.toNat m.mseq
    | none, some c =>
      if outranks m.gen.toNat m.owner.toNat c.rec'.gen.toNat s.ix then
        (s.setTwinCol col { x with copies := x.copies.filter (fun d => !d.same m) ++ [{ page := page, rec' := m }] }).answerMirror col page m.job m.gen.toNat m.mseq
      else s.answerMirror col page m.job c.rec'.gen.toNat m.mseq
    | none, none =>
      let y : TwinCopy := { page := page, rec' := m }
      (s.setTwinCol col { x with copies := x.copies.filter (fun d => !d.same m) ++ [y] }).answerMirror col page m.job m.gen.toNat m.mseq

def execMirrorWrite (col : Fin 32) (page : Nat) (m : TwinRecord) (s : State) : Host.Outcome State Fault Refusal := .next (s.mirrorWrite col.val page m)

/-! ### Beats (R459) -/

/-- A beat line into the beat page of one parcel's sub-area on a column. -/
def State.beatLine (s : State) (n col count : Nat) (job : BitVec 16) (handover : Bool) : State :=
  let g := s.twinPage n col 0
  s.twinWrite agPlan job g (leBytes 8 (s.ix + (if handover then 2 ^ 10 else 0)) ++ leBytes 8 count ++ List.replicate 48 0) .posted

/-- The parcels with an operation twinned to a column, and a job of each. -/
def State.twinnedTo (s : State) (col : Nat) : List (Nat × BitVec 16) :=
  (s.recov.ops.filter (fun o => o.owner == s.ix && o.partner == some col)).foldl (fun l o =>
    if l.any (fun e => e.1 == o.parcel) then l else l ++ [(o.parcel, o.job)]) []

/-- TWIN_BEAT: the owner writes its beat line, its count raised. -/
def State.twinBeat (s : State) (col : Nat) : State :=
  let l := s.twinnedTo col
  if l.isEmpty then s
  else
    let x := s.twinCol col
    let s1 := s.setTwinCol col { x with sent := x.sent + 1 }
    l.foldl (fun s e => s.beatLine e.1 col (x.sent + 1) e.2 false) s1

def execTwinBeat (col : Fin 32) (s : State) : Host.Outcome State Fault Refusal := .next (s.twinBeat col.val)

/-! ### Takeover (R460, R463) -/

/-- TWIN_BEAT_MISS (R459). -/
def execTwinBeatMiss (col : Fin 32) (s : State) : Host.Outcome State Fault Refusal := .next (s.declareLost col.val)

/-- HANDOVER: the beat line with HANDOVER set (R459). -/
def State.handover (s : State) (col count : Nat) : State := (s.setTwinCol col { s.twinCol col with count := count }).declareLost col

def execHandover (col : Fin 32) (count : Nat) (s : State) : Host.Outcome State Fault Refusal := .next (s.handover col.val count)

/-- A request that a takeover issues again towards the Tiolo of the old owner. -/
def State.reissueTo (s : State) (m : TwinRecord) (old : Nat) (op off : Nat) (payload : List Byte) (agent : BitVec 12) : State :=
  let g := BitVec.ofNat 56 (old * 2 ^ 46 + off)
  let p : Packet := { opcode := BitVec.ofNat 8 op, len := payload.length, tid := s.twinTid agent, job := m.job, gfa := g, dst := BitVec.ofNat 17 (old * 128),
                      src := BitVec.ofNat 10 s.ix, agent := agent, payload := payload }
  s.issue p .posted

/-- The engine that owns an operation of a kind (R458). -/
def twinAgent (kind : BitVec 4) : BitVec 12 := if kind == 2 then agTraverse else if kind == 4 then agRoce 96 else agPlan

/-- The idempotent reissue of a pending action (R460 step 5). The packets of a leg go to its destinations again, from this Tiolo. READ
responses resume at the old owner, which loads the copy (R425). -/
def State.reissue (s : State) (old : Nat) (m : TwinRecord) (a : TwinAct) : State :=
  match a with
  | .releaseSet k v => s.reissueTo m old opSSET (stakeBase + 64 * k) (leBytes 8 v.toNat) (twinAgent m.kind)
  | .slotLines n off _ _ d => s.reissueTo m old opWRN (stakeBase + 0x4000_0000 + 0x4_0000 * n + off) d (twinAgent m.kind)
  | .leg _ => m.sends.foldl (fun s p => s.send { p with src := BitVec.ofNat 10 s.ix, agent := agTraverse, job := m.job, cls := 3 }) s
  | .publish p => s.issue { p with src := BitVec.ofNat 10 s.ix, agent := agPlan, tid := s.twinTid agPlan } .posted
  | .readResponse _ => s

/-- TAKEOVER_FENCE_END: the claimed copies are loaded, their pending actions are issued again, and bring-ins start (R460 steps 3–5,
R462). -/
def State.takeoverFenceEnd (s : State) (col : Nat) : State :=
  let x := s.twinCol col
  if !x.fencing then s
  else
    let mine := x.copies.filter (fun c => c.claimed)
    let old := s.row * 32 + col
    let s1 := s.setTwinCol col { x with copies := x.copies.filter (fun c => !c.claimed), fencing := false }
    mine.foldl (fun s c =>
      let m := c.rec'
      let o : TwinOp := { kind := m.kind, job := m.job, opref := m.opref, parcel := (s.parcelOf m.job.toNat).getD 0, gen := m.gen, owner := s.ix,
                          partner := none, mseq := m.mseq.toNat, agent := twinAgent m.kind, taken := some col }
      let s2 := match m.act with
        | some a => if m.intent then s.reissue old m a else s
        | none => s
      (s2.setOps (s2.recov.ops ++ [o])).startBringIn o col) s1

def execTakeoverFenceEnd (col : Fin 32) (s : State) : Host.Outcome State Fault Refusal := .next (s.takeoverFenceEnd col.val)

/-! ### The only copy is lost (R459, R464) -/

/-- A fill of a slot has begun on this host: a segment of it is written, or a stage of its step has had a contribution. -/
def Plan.fillBegun (q : Plan) (i : Nat) (x : RSlot) : Bool :=
  !x.segs.isEmpty || q.stages.any (fun g => (kget g.began ((x.fill - 1) * q.depth + (i - q.slot))).isSome)

/-- A step in progress of a host whose state is taken over: its unwritten lines carry LOST_STATE, and it is released (R282). -/
def State.loseFill (s : State) (q : Plan) (i : Nat) : State :=
  let x := s.rslot i
  if x.state != .armed || !q.fillBegun i x then s
  else
    let st := (List.range x.lines).foldl (fun m l => if (kget m l).isSome then m else kset m l stLostState) x.status
    (s.setRslot i { x with state := .ready, status := st, full := true }).srelLocal x.stake 1 2 agPlan

/-- An operation is handed over: a stage host's steps in progress end; its state is given up (R282, R459). -/
def State.handOver (s : State) (o : TwinOp) : State :=
  let mine := s.coll.plans.filter (fun q => o.kind == 1 && q.opref == o.opref && q.job == o.job)
  (mine.foldl (fun s q => q.slots.foldl (fun s i => s.loseFill q i) s) s).discardOp o

/-- The owner's own copy of its twinned operations is lost: the beat lines carry HANDOVER, and its state is given up; READ responses
resume here from the copy at the partner (R425, R459). -/
def State.handOverAll (s : State) : State :=
  let ops := s.recov.ops.filter (fun o => o.owner == s.ix && o.partner.isSome && o.kind != 4)
  let cols := (ops.filterMap (fun o => o.partner)).eraseDups
  let s1 := cols.foldl (fun s c =>
    let x := s.twinCol c
    (s.twinnedTo c).foldl (fun s e => s.beatLine e.1 c (x.sent + 1) e.2 true) (s.setTwinCol c { x with sent := x.sent + 1 })) s
  ops.foldl State.handOver s1

/-- A twinned PUBLISH whose state is lost without a copy: the publisher receives LOST_STATE, and the versioned extent starts revoking
(R464). -/
def State.publishLost (s : State) (o : TwinOp) : State :=
  let s1 := o.acts.foldl (fun s a => match a with
    | .publish p => s.complete p stLostState (errorBytes 8)
    | _ => s) s
  let s2 := s1.dropOp o
  if o.taken.isSome then s2 else s2.revokeExt o.opref.toNat

/-- The request state of multi-phase operations was in a stack that is lost: twinned operations are handed over, and the others are
lost; tier commands in progress are lost in every case (R164, R282, R321, R425, R451, R464). -/
def State.requestStateLost (s : State) : State :=
  let alone := s.recov.ops.filter (fun o => o.owner == s.ix && o.partner.isNone)
  let twinned (kind : BitVec 4) (r : BitVec 32) : Bool := s.recov.ops.any (fun o => o.kind == kind && o.opref == r && o.owner == s.ix && o.partner.isSome && o.taken.isNone)
  let s1 := (alone.filter (fun o => o.kind == 3)).foldl State.publishLost s
  let plans := s1.coll.plans.filter (fun q => !twinned 1 q.opref)
  let s2 := s1.loseSlots (fun x => plans.any (fun q => q.job == x.job && q.plan == x.plan))
  let ks := (s2.trav.travs.filter (fun e => !twinned 2 (BitVec.ofNat 32 e.1))).map (fun e => e.1)
  let s3 := ks.foldl (fun s k => s.travEnd k stLostState 0x0C) s2
  let s4 : State := { s3 with roce := { s3.roce with qps := s3.roce.qps.map (fun e =>
    (e.1, if twinned 4 (BitVec.ofNat 32 e.1) then e.2 else e.2.abandonReads)) } }
  ((s4.handOverAll).loseCmds (fun _ => true)).tierPump

end Sys2Proof.Machine
end

