-- ==== Sys2Proof/Machine/Reset.lean ====
section
/-!
DEFINITION. Failed stacks (R451) and resets (R507, R508, R546, R554): what each kind resets, what it keeps, and what it does to the rest.
-/
namespace Sys2Proof.Machine

/-! ### A failed HBM stack (R105, R169, R451, R464) -/

/-- An extent has a page homed in a region. -/
def State.extHomed (s : State) (x : Extent) (r : Nat) : Bool :=
  match placeOf x.base with
  | .t0 => (List.range (min x.pages 4)).any (fun i => t0Stack (x.base + 0x1000 * i) == r)
  | .slot _ => s.homeRegion x.base == r
  | _ => false

/-- Frames of slots homed in a region are lost, and what waits for them completes with FATAL (R169). -/
def State.dropRegionFrames (s : State) (r : Nat) : State :=
  let hit (k : Nat) : Bool := match frameSlot k with
    | some m => s.homeRegion (slotBase m) == r
    | none => false
  let waiting := ((s.tier.frames.filter (fun e => hit e.1)).flatMap (fun e => e.2.waiters)).map (fun w => w.2)
  let s1 : State := { s with tier := { s.tier with frames := s.tier.frames.map (fun e => if hit e.1 then (e.1, { e.2 with waiters := [] }) else e) } }
  (waiting.foldl (fun s p => s.complete p stFatal (if p.opcode.toNat == opATM then errorBytes 8 else [])) (s1.dropFrames hit r 4)).retryAll

/-- HBM_STACK_FAIL: coherent lines homed in the region resolve by R105 and the cache frames by R169, other lines of the stack read as
POISON; request state held there is taken over or lost, as it may or may not have stood in this stack (R451). -/
def State.stackFail (s : State) (r : Nat) : State :=
  if s.mem.failed.contains r then s
  else
    let s0 : State := ({ s with mem := { s.mem with failed := s.mem.failed ++ [r] } } : State).tick (aidRegion r 0x120)
    let s1 := s0.loseLines r ((s0.cadSlice r).entries.map (fun e => e.1))
    let es := (s1.extents.filter (fun e => e.2.state != .free && s1.extHomed e.2 r && (e.2.coh || e.2.wb))).map (fun e => e.1)
    let s2 := es.foldl (fun s e => s.fatalRegion r e) s1
    let s3 := ((s2.dropRegionFrames r).pnmStackLost r).mapLost
    if s3.freeNat 1 == 1 then s3.took.requestStateLost else s3.took

def execHbmStackFail (r : SliceIx) (s : State) : Host.Outcome State Fault Refusal := .next (s.stackFail r.val)

/-! ### Cold and warm reset (R496, R507) -/

/-- The active copy of the monument store (R510). -/
def Boot.active (b : Boot) : MsCopy := if b.activeB then b.b else b.a

/-- A copy is valid (R510). -/
def MsCopy.valid (c : MsCopy) : Bool := c.magicOk && c.crcOk

/-- The image set of the boot partition that IMAGE writes: the one that is not preferred (R499); 0 A, 1 B. -/
def Boot.spareSet (b : Boot) : Nat := if b.active.prefB then 0 else 1

/-- Puts content into both copies of an image set, on channels 0 and 8 (R498). -/
def Boot.putSet (b : Boot) (i : Nat) (x : Option (List Host.Cell)) : Boot :=
  { b with sets := kset (kset b.sets (2 * i) x) (2 * i + 1) x }

/-- What a reset leaves of the monument store and the boot partition: a store that is cut short leaves its copy with a bad CRC, an IMAGE
its set unwhole (R499, R511). -/
def Boot.cut (b : Boot) : Boot :=
  let sets := if b.imaging then (b.putSet b.spareSet none).sets else b.sets
  match b.storing with
  | none => { a := b.a, b := b.b, activeB := b.activeB, sets := sets }
  | some c => if b.activeB then { a := { c with crcOk := false }, b := b.b, activeB := true, sets := sets }
              else { a := b.a, b := { c with crcOk := false }, activeB := false, sets := sets }

/-- What a reset leaves of T2: a unit whose programming was under way holds wholly old or wholly new content, an incomplete OCREATE
leaves no object, and an incomplete ODELETE leaves it whole or gone; free bits decide (R170). -/
def State.flashCut (s : State) : State :=
  let s1 := s.tier.images.foldl (fun s e =>
    let new := e.2.full && s.freeNat 1 == 1
    if new then s.took.unitSwitch e.1 e.2 else s.took.freeBlock e.2.block) s
  s1.tier.objs.foldl (fun s e =>
    if e.2.creating then s.dropObj e.1
    else if e.2.deleting then (if s.freeNat 1 == 1 then s.took.dropObj e.1 else s.took.setObj e.1 { e.2 with deleting := false })
    else s) s1

/-- Everything takes its reset state but the fuses, the monument store, flash and the pins; T0 and the modules hold what memory holds
that nothing has written (their content is unspecified); a new nonce is drawn (R29, R479, R507). -/
def State.allReset (s0 : State) : State :=
  let s := s0.flashCut
  let keep := s.sec.life.clearing
  let sec : Security := { life := s.sec.life, clearance := if keep then s.sec.clearance.map (fun c => { c with ended := none }) else none,
                          drawn := s.sec.drawn + 1 }
  let tier : Tier := { objs := s.tier.objs, units := s.tier.units, blocks := s.tier.blocks, formatted := s.tier.formatted }
  let mgmt : Mgmt := { staticAddr := s.mgmt.staticAddr, coldRst := s.mgmt.coldRst, pwrOk := s.mgmt.pwrOk, thermtrip := s.mgmt.thermtrip,
                       refLost := s.mgmt.refLost, lsPres := s.mgmt.lsPres }
  { pending := s.pending, free := s.free, tier := tier, sec := sec, nonce := Config.drbg s.sec.drawn, boot := s.boot.cut, mgmt := mgmt }

/-- COLD_RESET: a low COLD_RST_N or a deasserted PWR_OK; a low COLD_RST_N also ends a latched thermal trip (R496, R554). -/
def State.coldReset (s : State) (why : ColdCause) : State :=
  let m := s.mgmt
  let m1 : Mgmt := match why with
    | .rstLow => { m with coldRst := true, thermtrip := false }
    | .pwrOkLow => { m with pwrOk := false }
  ({ s with mgmt := m1 } : State).allReset

def execColdReset (why : ColdCause) (s : State) : Host.Outcome State Fault Refusal := .next (s.coldReset why)

/-- BOOT_STAT.PHASE. -/
def State.phase (s : State) : Nat := s.fld rBootStat 3 0
def State.setPhase (s : State) (n : Nat) : State := s.setFld rBootStat 3 0 n

/-- The start-up sequence may run: PWR_OK, COLD_RST_N and every reference are good, and no thermal trip is latched. -/
def State.mayBoot (s : State) : Bool := s.mgmt.pwrOk && !s.mgmt.coldRst && s.mgmt.refLost.isEmpty && !s.mgmt.thermtrip

/-- COLD_RESET_RELEASE: COLD_RST_N rises, the straps are sampled, and step 1 runs once the references are present (R497, R548). -/
def State.coldRelease (s : State) (strap : Nat) : State :=
  if !s.mgmt.coldRst && s.mgmt.pwrOk then s
  else
    let s1 : State := { s with mgmt := { s.mgmt with coldRst := false, pwrOk := true, staticAddr := BitVec.ofNat 7 (0x30 + strap) } }
    if s1.mayBoot then s1.setPhase 1 else s1

def execColdResetRelease (strap : BitVec 2) (s : State) : Host.Outcome State Fault Refusal := .next (s.coldRelease strap.toNat)

/-- REFCLK_LOSS: as on a cold reset (R546). -/
def State.refLoss (s : State) (r : Nat) : State :=
  let s1 := s.allReset
  { s1 with mgmt := { s1.mgmt with refLost := insertNew s1.mgmt.refLost r } }

def execRefclkLoss (r : SliceIx) (s : State) : Host.Outcome State Fault Refusal := .next (s.refLoss r.val)

/-- REFCLK_RESTORED: step 1 runs again, when COLD_RST_N is high (R546). -/
def State.refRestored (s : State) : State :=
  if s.mgmt.refLost.isEmpty then s
  else
    let s1 : State := { s with mgmt := { s.mgmt with refLost := [] } }
    if s1.mayBoot then s1.setPhase 1 else s1

def execRefclkRestored (s : State) : Host.Outcome State Fault Refusal := .next s.refRestored

/-- THERMTRIP: the trip is latched until COLD_RST_N is low; ports and carriers stop as on a cold reset, and nothing further runs
(R554). -/
def execThermtrip (s : State) : Host.Outcome State Fault Refusal :=
  .next ({ s.allReset with mgmt := { s.allReset.mgmt with thermtrip := true } })

/-! ### Measurement (R483) -/

def State.measured (s : State) (k : Nat) : BitVec 256 := s.sec.mr.getD k 0

/-- MRk := SHA3-256(MRk ‖ d). -/
def State.extendMr (s : State) (k : Nat) (d : BitVec 256) : State :=
  let v := Config.sha3 (leBytes 32 (s.measured k).toNat ++ leBytes 32 d.toNat)
  { s with sec := { s.sec with mr := (List.range 8).map (fun i => if i == k then v else s.measured i) } }

/-- CDI is derived anew from MR0–MR6 (R480, R483). -/
def State.deriveCdi (s : State) : State :=
  { s with sec := { s.sec with cdi := Config.hmac Config.udsKey ((List.range 7).flatMap (fun i => leBytes 32 (s.measured i).toNat)) } }

/-- Step 2 begins: MR0 holds the measurement of the ROM (R483, R497). -/
def State.beginTests (s : State) : State := (s.setPhase 2).extendMr 0 Config.romDigest

/-- PLL_LOCK (R497 step 1). -/
def execPllLock (s : State) : Host.Outcome State Fault Refusal := .next (s.onlyIf (s.phase == 1) State.beginTests)

/-- A warm reset: as cold, with the PLLs still locked. Reset-hold ends only with a cold reset (R503, R507). -/
def State.warm (s : State) : State :=
  if s.bit rBootStat 4 then s
  else
    let p := s.phase
    let s1 := s.allReset.setFld rRstCtl 34 32 1
    if p < 2 then s1.setPhase p else s1.beginTests

/-- I3C_WARM: the sideband's WARM index with its magic value (R533). -/
def execI3cWarm (v : Word) (s : State) : Host.Outcome State Fault Refusal :=
  .next (s.onlyIf (s.i3cReady && v == 0x57524D5A) State.warm)

/-! ### Block and region reset (R507, R508) -/

/-- A configuration offset belongs to block n: its page, its ports' pages other than their roles, its tiles' pages. -/
def inBlock (n c : Nat) : Bool :=
  match pageOf c with
  | some p =>
    match p.type with
    | 0x07 => p.inst == n
    | 0x15 => p.inst / 8 == n && c != rPortRole p.inst
    | 0x16 => p.inst / 8 == n
    | 0x17 => p.inst / 16 == n
    | _ => false
  | none => false

/-- A configuration offset belongs to region r itself. -/
def inRegion (r c : Nat) : Bool :=
  match pageOf c with
  | some p => ((p.type == 0x06 || p.type == 0x08 || p.type == 0x09) && p.inst == r) || (p.type == 0x0A && p.inst / 4 == r)
  | none => false

/-- A port goes down with cause 0x0D and stays down: its block's reset, or a clearance. The lost state of its slot ends, and its role
unlocks (R43, R48, R491, R508). -/
def State.portReset (s : State) (p : Nat) : State :=
  let s1 := (s.setBit (rPortCtl p) 0 false).portGoesDown p 0x0D
  let s2 := if s1.portRole p == roleModule then s1.endLost (s1.fld (rPortRole p) 13 8) else s1
  { s2 with boot := { s2.boot with roleLocked := s2.boot.roleLocked.filter (· != p) } }

/-- Block n is reset: its ports, agent 33 + n, its tiles, tile line cache, doorbells and field book (R508). -/
def State.blockDown (s : State) (n : Nat) : State :=
  let ports := (List.range 8).map (8 * n + ·)
  let tiles := (List.range 16).map (16 * n + ·)
  let s1 := ports.foldl (fun s p => s.portReset p) s
  let s2 := s1.agentDead (Fin.ofNat 49 (33 + n)) 0
  let s3 := tiles.foldl (fun s t => ((s.loseStaging t).killTile t).clearTile t) s2
  let s4 : State := { s3 with tlc := kdel s3.tlc n, tlcDown := s3.tlcDown.filter (· != n),
                              tier := { s3.tier with held := s3.tier.held.filter (fun h => h.door < 4 || (h.door - 4) / 16 != n) },
                              recov := { s3.recov with books := kdel s3.recov.books n },
                              seqs := s3.seqs.filter (fun e => !((aidCell (n / 4) (n % 4) 0 ≤ e.1 && e.1 < aidCell (n / 4) (n % 4) 0x400) ||
                                (aidBlock n 0 ≤ e.1 && e.1 < aidBlock n 0x400))) }
  let s5 := s4.resetRegs (inBlock n)
  (ports.foldl (fun s p => s.setPortCause p 0x0D) s5).laserLines

/-- A partial reset begins: BUSY, LAST and the counter. -/
def State.partialBegin (s : State) (id kind : Nat) : State :=
  let s1 : State := { s with boot := { s.boot with inReset := insertNew s.boot.inReset id } }
  (((s1.setBit rRstCtl 35 true).setFld rRstCtl 34 32 kind).count pgBist 3)

def State.blockResets (s : State) (n : Nat) : State := (s.blockDown n).partialBegin n 3

/-- Stakes homed in a region take their reset state, and each parcel that holds one of their groups receives a FATAL event (R508). -/
def State.stakesDown (s : State) (r : Nat) : State :=
  let s1 := s.resetStakes (fun k => k / 4096 == r)
  let s2 : State := { s1 with stk := { s1.stk with parked := s1.stk.parked.filter (fun k => k.stake / 4096 != r),
                                                   woken := s1.stk.woken.filter (fun k => k.parked.stake / 4096 != r) } }
  let hit := ((List.range 16).filterMap (fun i => s2.stakeParcel (4096 * r + 256 * i))).eraseDups
  hit.foldl (fun s n => (s.tick (aidStake r)).fatalEvent n pgStk (aidStake r) (4096 * r) (stakeBase + 64 * 4096 * r)) s2

/-- Region r is reset: its blocks, the stack (lost), the cadastre slice (lost), its stakes, its management cores and book; the stack and
the flash channels train again (R507, R508). A composition in progress follows R438. -/
def State.regionResets (s : State) (r : Nat) : State :=
  let s1 := (List.range 4).foldl (fun s i => s.blockDown (4 * r + i)) s
  let s2 := ((s1.stackFail r).stakesDown r).modSlice r (fun c => { c with conflictQ := [], holdQ := [], measure := [], spilled := [], lru := [] })
  let s3 := (List.range 64).foldl (fun s n => s.loseCompose n) s2
  let s4 : State := { s3 with recov := { s3.recov with books := kdel s3.recov.books (16 + r),
                                                       restarting := s3.recov.restarting.filter (fun k => k / 4 != r) },
                              seqs := s3.seqs.filter (fun e => !(aidRegion r 0 ≤ e.1 && e.1 < aidRegion r 0x1000)) }
  let s5 := (s4.resetRegs (inRegion r)).setBit (rHbmStat r) 2 true
  s5.partialBegin (16 + r) 2

/-- A write of RST_CTL: WARM supersedes what runs; a partial reset is ignored while one runs (R507, R508). -/
def State.rstCtlWrite (s : State) (v : Word) : State :=
  s.cfgDo rRstCtl (fun s =>
    if v.getLsbD 0 then s.warm
    else if s.bit rRstCtl 35 then s
    else
      let s1 := ((List.range 4).filter (fun r => r != 0 && v.getLsbD r)).foldl (fun s r => s.regionResets r) s
      ((List.range 16).filter (fun n => v.getLsbD (16 + n))).foldl (fun s n => s.blockResets n) s1)

/-- WARM_RESET (R507). -/
def execWarmReset (v : Word) (s : State) : Host.Outcome State Fault Refusal := .next (s.rstCtlWrite v)
/-- REGION_RESET (R508). -/
def execRegionReset (r : SliceIx) (s : State) : Host.Outcome State Fault Refusal := .next (s.rstCtlWrite (BitVec.ofNat 64 (2 ^ r.val - (if r.val = 0 then 1 else 0))))
/-- BLOCK_RESET (R508). -/
def execBlockReset (n : BlockIx) (s : State) : Host.Outcome State Fault Refusal := .next (s.rstCtlWrite (BitVec.ofNat 64 (2 ^ (16 + n.val))))

end Sys2Proof.Machine
end

