-- ==== Sys2Proof/Machine/Security.lean ====
section
/-!
DEFINITION. The security module (chapter 19): security commands and their checks, lifecycle, attestation, clearance, health tests, the
JTAG port.
-/
namespace Sys2Proof.Machine

/-! ### The lifecycle record (R476, R491, R509) -/

/-- AID of the security command arbiter (R20). -/
def aidSec : Nat := aidChip 0x001

/-- A store by the security module: the inactive copy takes the content of the active one with the new lifecycle record, and becomes
active (R511, R512). -/
def State.secStore (s : State) (life : Lifecycle) : State :=
  let b := s.boot
  let c := b.active
  let c1 : MsCopy := { c with magicOk := true, crcOk := true, gen := c.gen + 1, stores := c.stores + 1, life := life }
  { s with boot := if b.activeB then { b with a := c1, activeB := false } else { b with b := c1, activeB := true },
           sec := { s.sec with life := life } }

/-- Further stores are refused at the rated endurance (R512). -/
def State.storesLeft (s : State) : Nat := 100000 - s.boot.active.stores

/-- The digest of the lifecycle record that MR5 takes (R483). -/
def Lifecycle.digest (l : Lifecycle) : BitVec 256 :=
  Config.sha3 (leBytes 1 l.state ++ leBytes 16 l.tenant.toNat ++ leBytes 8 l.clearances ++ leBytes 32 (l.owner.getD 0).toNat)

/-- Draws a fresh SEC_NONCE (R479). -/
def State.newNonce (s : State) : State :=
  let d := s.draw
  { d.2 with nonce := d.1 }

/-! ### Commands (R477–R479) -/

/-- A command ends: STATUS, DETAIL, DONE; a signed one draws a fresh nonce. -/
def State.secEnd (s : State) (op : Nat) (st : Status) (detail : Nat) : State :=
  let s1 := (((s.setFld rSecCmd 11 8 st.toNat).setFld rSecCmd 23 16 detail).setBit rSecCmd 62 true).setBit rSecStat 3 false
  if op == 2 || op == 3 || op == 4 || op == 8 then s1.newNonce else s1

/-- The signed part of a command block: bytes [1439:0] (R478). -/
def signedBytes (b : SecBlock) (op : Nat) : List Byte :=
  leBytes 1 op ++ leBytes 1 b.target.toNat ++ leBytes 6 0 ++ leBytes 32 b.nonce.toNat ++ leBytes 32 b.vnonce.toNat ++
  leBytes 16 b.tenant.toNat ++ leBytes 32 b.arg.toNat ++ leBytes 8 0 ++ slice b.ownerPk 0 1312

/-- The lifecycle state permits an OP (R477). -/
def State.secPermits (s : State) (op : Nat) : Bool :=
  let st := s.sec.life.state
  match op with
  | 1 => st == 1 && s.sec.life.owner.isNone
  | 2 => 1 ≤ st && st ≤ 4
  | 3 => 1 ≤ st && st ≤ 3
  | 4 => 1 ≤ st && st ≤ 4
  | 5 => st != 0
  | 6 => st != 0
  | 7 => 1 ≤ st && st ≤ 4
  | 8 => 1 ≤ st && st ≤ 3
  | _ => false

/-- TARGET is permitted: a CLEAR names PROVISIONED, CERTIFIED or SHARED, from DEBUG only PROVISIONED; other commands name none. -/
def State.targetOk (s : State) (op target : Nat) : Bool :=
  if op == 2 then (target == 1 || ((target == 2 || target == 3) && s.sec.life.state != 4)) else target == 0

/-- The checks of a signed command, in order (R479). -/
def State.signedCheck (s : State) (op : Nat) (b : SecBlock) : Option (Status × Nat) :=
  if b.reservedSet || !s.targetOk op b.target.toNat then some (stUnsupported, 1)
  else if !s.secPermits op then some (stAccessFault, 2)
  else if !(match s.sec.life.owner with
    | some h => Config.ownerSigned h (signedBytes b op) b.signature
    | none => false) then some (stAccessFault, 3)
  else if b.nonce != s.nonce then some (stStale, 4)
  else none

/-! ### Attestation (R484, R490) -/

/-- Bytes [383:0] of a report: TYPE, the verifier's nonce, and for a clearance its item statuses, durations and module counts. -/
def State.reportBody (s : State) (type : Nat) (vnonce : BitVec 256) (st : List (BitVec 8)) (ms : List (BitVec 16)) (san skip : Nat) : List Byte :=
  let l := s.sec.life
  leBytes 2 1 ++ leBytes 1 type ++ leBytes 1 l.state ++ leBytes 4 Config.fwSvn.toNat ++ leBytes 8 l.clearances ++ leBytes 16 l.tenant.toNat ++
  leBytes 32 vnonce.toNat ++ (List.range 8).flatMap (fun i => leBytes 32 (s.measured i).toNat) ++ leBytes 32 (l.owner.getD 0).toNat ++
  (List.range 8).flatMap (fun i => leBytes 1 (st.getD i 0).toNat) ++ (List.range 8).flatMap (fun i => leBytes 2 (ms.getD i 0).toNat) ++
  leBytes 2 san ++ leBytes 2 skip ++ leBytes 4 0

/-- A report is signed by the Alias key and written at buffer offset 0x1000 (R490). -/
def State.writeReport (s : State) (body : List Byte) : State :=
  ({ s with sec := { s.sec with output := body ++ slice (Config.mlDsaSign s.sec.cdi body) 0 2420 } } : State).count pgSec 6

/-- Both certificates, DeviceID first, each preceded by its length (R484). -/
def State.writeCerts (s : State) : State :=
  let c (i : Nat) : List Byte := Config.certificate i s.sec.cdi
  { s with sec := { s.sec with output := leBytes 4 (c 0).length ++ c 0 ++ leBytes 4 (c 1).length ++ c 1 } }

/-! ### Clearance (R491) -/

/-- Ports go down with cause 0x0D and stay down, but for those of UP modules and the Filard Link (R491 step 2). -/
def State.portsOff (s : State) : State :=
  ((List.range 128).filter (fun p => !(s.portRole p == roleModule && s.portUp p))).foldl (fun s p => s.portReset p) s

/-- Halted parcels: RELEASING, no composition in progress; a command that ran ends with LOST_STATE, and no tile stays ZERO_BUSY (R438,
R491 step 2). -/
def State.parcelsHalt (s : State) : State :=
  let s0 := ((List.range 64).filter (fun n => s.pclState n != 0)).foldl (fun s n => s.setPclState n 5) s
  let s1 := (((List.range 64).filter (fun n => s.bit (rPclCmd n) 61)).foldl (fun s n => s.pclEnd n stLostState 0) s0).zeroBusy
    ((List.range 256).filter (fun t => s.bit (rTileStat t) 40)) false
  { s1 with parcels := s1.parcels.map (fun e => (e.1, { e.2 with compose := none })) }

/-- Engines halt, outstanding requests are discarded, and every on-die store is zeroed: tiles, buffer, caches, contexts, stakes, SAKs
(R491 steps 2 and 5). -/
def State.onDieZero (s : State) : State :=
  { s with
    out := [], extents := [], revoking := [], cad := [], stk := {}, tiles := [], tlc := [], tlcDown := [], coll := {}, pnm := [], trav := {},
    xc := none, roce := {},
    sw := { s.sw with buf := [], stalled := [], samples := [] }, paths := s.paths.map (fun e => (e.1, { e.2 with drains := [] })),
    tier := { s.tier with cmds := [], held := [], frames := [], heldStores := [] },
    recov := { s.recov with trackers := [], ops := [], cols := [], waiting := [], areas := [], spilling := false },
    links := s.links.map (fun e => if e.1 == filardLink then e else (e.1, { e.2 with received := [], partial' := [], unproven := [] })) }

/-- The object table is zeroed, and what it mapped, or an OWRITE was writing, waits for its physical erase (R172, R491 step 3). -/
def State.objectsGone (s : State) : State :=
  let bs := s.tier.units.map (fun e => e.2.block) ++ s.tier.images.map (fun e => e.2.block)
  let s1 := bs.foldl (fun s b => s.freeBlock b) s
  { s1 with tier := { s1.tier with objs := [], units := [], images := [] } }

/-- Steps 2–5 of a clearance begin (R491, R492). -/
def State.clearBegin (s : State) (op target : Nat) (tenant : BitVec 128) (vnonce : BitVec 256) : State :=
  let d := s.draw
  let s1 := d.2.setBit rSecStat 4 true
  let down := ((List.range 128).filter (fun p => s1.portRole p == roleModule && !s1.portUp p)).length
  let s2 := (s1.portsOff.parcelsHalt).resetRegs (fun c => c % 0x1000 == 0x38)
  let mods := (List.range 128).filter (fun p => s2.portRole p == roleModule && s2.portUp p)
  let c : Clearance := { op := op, target := target, tenant := tenant, vnonce := vnonce, modules := mods, sanitised := mods.length, skipped := down }
  let life : Lifecycle := { s2.sec.life with clearing := true, mediaKey := d.1 }
  let s3 := ((s2.secStore life).secStore life).objectsGone.onDieZero
  let s4 : State := { s3 with sec := { s3.sec with clearance := some c, debug := false } }
  (mods.foldl (fun s p => s.sendKeyp p) s4).startRekey filardLink

/-- Every item has ended: T0 reads as zero, the final record is stored, TIER_WE is cleared, MR5 is extended, Alias derived anew, the
clearance report written and CLEARING cleared. An item 4 that found a bad line leaves PROVISIONED, and the command carries FATAL (R491). -/
def State.clearFinish (s : State) (c : Clearance) (st : List (BitVec 8)) (ms : List (BitVec 16)) : State :=
  let bad := st.getD 4 0 != 0
  let target := if bad then 1 else c.target
  let life : Lifecycle := { s.sec.life with state := target, clearing := false, clearances := s.sec.life.clearances + 1,
                                            tenant := if target == 2 || target == 3 then c.tenant else 0 }
  let s1 := ((s.zeroMem 0 t0End).secStore life).setReg rTierWe 0
  let s2 := (List.range 32).foldl (fun (s : State) a => s.bindAgent a none)
    ((List.range 64).foldl (fun (s : State) n => if s.pclState n == 0 then s else (s.setGrants n []).setPclState n 0) s1)
  let s3 := ((s2.extendMr 5 life.digest).deriveCdi).setBit rSecStat 4 false
  let s4 := s3.writeReport (s3.reportBody 2 c.vnonce st ms c.sanitised c.skipped)
  let s5 : State := { s4 with sec := { s4.sec with clearance := none, debug := target == 4 } }
  (s5.count pgSec 2).secEnd c.op (if bad then stFatal else stOK) 0

/-- The ports whose modules still initialise. -/
def State.modulesBusy (s : State) (c : Clearance) : Bool := c.modules.any (fun p => s.portUp p)

/-- A store is in progress at the store arbiter (R511, R512). -/
def State.storeBusy (s : State) : Bool := s.boot.storing.isSome || s.boot.imaging

/-- The clearance ends, once the store arbiter is free. -/
def State.clearMayEnd (s : State) : State :=
  match s.sec.clearance with
  | none => s
  | some c => match c.ended with
    | none => s
    | some (st, ms) => if s.storeBusy then s else s.clearFinish c st ms

/-- MODULE_INIT_DONE: the module is keyed and its slot available; in a clearance its port then goes down with cause 0x0D (R48, R300,
R491 step 4). -/
def State.moduleInit (s : State) (p : Nat) : State :=
  let s1 := s.moduleInitDone p
  match s1.sec.clearance with
  | some c => if c.modules.contains p && s.bit (rModKeyStat p) 1 then s1.portReset p else s1
  | none => s1

def execModuleInitDone (p : PortIx) (s : State) : Host.Outcome State Fault Refusal := .next (s.moduleInit p)

/-! ### Running a command -/

/-- What an accepted command does. -/
def State.secAct (s : State) (op : Nat) (b : SecBlock) : State :=
  match op with
  | 1 => if s.storesLeft == 0 then s.secEnd op stQuota 3
         else (s.secStore { s.sec.life with owner := some (Config.sha3 (slice b.ownerPk 0 1312)) }).secEnd op stOK 0
  | 5 => (s.writeReport (s.reportBody 1 b.vnonce [] [] 0 0)).secEnd op stOK 0
  | 6 => s.writeCerts.secEnd op stOK 0
  | 7 => (s.extendMr 7 b.arg).secEnd op stOK 0
  | 8 => if s.storesLeft == 0 then s.secEnd op stQuota 3
         else (s.secStore { s.sec.life with owner := some (Config.sha3 (slice b.ownerPk 0 1312)) }).secEnd op stOK 0
  | _ => if s.storesLeft < 3 then s.secEnd op stQuota 3
         else (s.clearBegin op (if op == 2 then b.target.toNat else if op == 3 then 4 else 5) (if op == 2 then b.tenant else 0) b.vnonce)

/-- A GO with a reserved OP, 0 or 9–15: it completes with UNSUPPORTED; ignored while BUSY (R7, R478, R479). No command but REPORT runs after
a failed self-test (R481). -/
def State.secReserved (s : State) (op : Nat) : State :=
  if s.bit rSecStat 3 || s.bit rSecStat 6 then s else ((s.setReg rSecCmd op).tick aidSec).secEnd op stUnsupported 1

/-- A command that makes a store. -/
def needsStore (op : Nat) : Bool := op == 1 || op == 2 || op == 3 || op == 4 || op == 8

/-- A command runs: after a failed self-test only REPORT, which completes with FATAL; one that needs a store waits for the store arbiter
(R477–R481, R512). -/
def State.secRun (s0 : State) (op : Nat) (b : SecBlock) : State :=
  let s := (s0.tick aidSec).setBit rSecStat 3 true
  if s.bit rSecStat 6 then (if op == 5 then s.secEnd op stFatal 0 else s.setBit rSecStat 3 false)
  else if needsStore op && s.storeBusy then { s with sec := { s.sec with held := some (op, b) } }
  else if op == 2 || op == 3 || op == 4 || op == 8 then
    match s.signedCheck op b with
    | some (st, d) => (s.count pgSec 1).secEnd op st d
    | none => (s.count pgSec 0).secAct op b
  else if !s.secPermits op then s.secEnd op stAccessFault 2
  else s.secAct op b

/-- GO with a command block; ignored while BUSY (R478). -/
def State.secGo (s : State) (op : Nat) (b : SecBlock) : State :=
  s.cfgDo rSecCmd (fun s =>
    if s.bit rSecStat 3 then s
    else ((s.setReg rSecCmd op).setBit rSecStat 3 (!s.recov.restarting.isEmpty)).onFirmware (.security op b) (fun s => s.secRun op b))

def execClaim (blk : SecBlock) (s : State) : Host.Outcome State Fault Refusal := .next (s.secGo 1 blk)
def execClear (blk : SecBlock) (s : State) : Host.Outcome State Fault Refusal := .next (s.secGo 2 blk)
def execDebugCmd (blk : SecBlock) (s : State) : Host.Outcome State Fault Refusal := .next (s.secGo 3 blk)
def execDecommission (blk : SecBlock) (s : State) : Host.Outcome State Fault Refusal := .next (s.secGo 4 blk)
def execReport (blk : SecBlock) (s : State) : Host.Outcome State Fault Refusal := .next (s.secGo 5 blk)
def execCerts (blk : SecBlock) (s : State) : Host.Outcome State Fault Refusal := .next (s.secGo 6 blk)
def execExtend (blk : SecBlock) (s : State) : Host.Outcome State Fault Refusal := .next (s.secGo 7 blk)
def execNewOwner (blk : SecBlock) (s : State) : Host.Outcome State Fault Refusal := .next (s.secGo 8 blk)

/-- CLEARANCE_ITEMS_DONE: the parallel items have ended, with the statuses and durations of the items (R491 steps 8 and 9). -/
def State.clearItems (s : State) (st : List (BitVec 8)) (ms : List (BitVec 16)) : State :=
  match s.sec.clearance with
  | none => s
  | some c =>
    if !s.bit rSecStat 4 || s.modulesBusy c || c.ended.isSome then s
    else ({ s with sec := { s.sec with clearance := some { c with ended := some (st, ms) } } } : State).clearMayEnd

/-! ### Health tests and JTAG (R481, R493) -/

/-- ENTROPY_HEALTH_FAIL: SEC_STAT.ERROR is set, and every key establishment in progress fails (R481). -/
def State.entropyFail (s : State) : State :=
  let s1 := (s.setBit rSecStat 6 true).count pgSec 7
  ((List.range 129).filter (fun p => (s1.link p).kex.step != 0)).foldl (fun s p => s.kexFail p) s1

def execEntropyHealthFail (s : State) : Host.Outcome State Fault Refusal := .next s.entropyFail

/-- A JTAG instruction is permitted: IDCODE and BYPASS always, boundary scan in reset-hold, full scan with debug access (R493). -/
def State.jtagServes (s : State) (i : JtagInstr) : Bool :=
  match i with
  | .idcode => true
  | .bypass => true
  | .boundaryScan => s.bit rBootStat 4 || s.sec.debug
  | .fullScan => s.sec.debug

/-- JTAG_INSTRUCTION: served, or refused (R493). -/
def State.jtag (s : State) (i : JtagInstr) : State :=
  s.onlyIf (s.jtagServes i) (fun s => { s with boot := { s.boot with jtagServed := s.boot.jtagServed ++ [i] } })

def execJtagInstruction (i : JtagInstr) (s : State) : Host.Outcome State Fault Refusal := .next (s.jtag i)

end Sys2Proof.Machine
end

