-- ==== Sys2Proof/Machine/Monument.lean ====
section
/-!
DEFINITION. The monument store's commands (R499, R509–R513) and the retraining of a stack (R506).
-/
namespace Sys2Proof.Machine

/-- AID of the store arbiter (R20). -/
def aidStore : Nat := aidChip 0x002

/-- The header's 64 bytes (R509), with a given CRC. -/
def MsCopy.header (c : MsCopy) (crc : Nat) : List Byte :=
  leBytes 4 0x534D4C54 ++ leBytes 4 c.gen ++ leBytes 4 c.stores ++ leBytes 4 (if c.prefB then 1 else 0) ++ leBytes 4 crc ++ List.replicate 44 0

/-- The lifecycle record's 4,032 bytes (R509). -/
def Lifecycle.bytes (l : Lifecycle) : List Byte :=
  slice (Config.lifeRecord l.state l.tenant l.clearances l.owner l.mediaKey l.clearing) 0 4032

/-- The length of a copy. -/
def copySize : Nat := 0x4_0000

/-- The whole copy, with its CRC (R509). -/
def MsCopy.image (c : MsCopy) : List Byte :=
  let rest := c.life.bytes ++ memRead c.bytes 0x1000 (copySize - 0x1000)
  let crc := crc32c (c.header 0 ++ rest)
  c.header crc.toNat ++ rest

/-- An area of a copy. -/
def MsCopy.area (c : MsCopy) (lo n : Nat) : List Byte := memRead c.bytes lo n

/-- The 64-bit word of a copy at an offset. -/
def MsCopy.word (c : MsCopy) (off : Nat) : Nat := leNat (memRead c.bytes off 8)

/-- A monument-store command ends. -/
def State.msEnd (s : State) (st : Status) (detail : Nat) : State :=
  (((s.setFld rMsCtl 11 8 st.toNat).setFld rMsCtl 23 16 detail).setBit rMsCtl 61 false).setBit rMsCtl 62 true

/-- LOAD: the active copy is copied into the staging buffer (R511). -/
def State.msLoadRun (s : State) : State :=
  ({ s with boot := { s.boot with staging := memWrite [] 0 s.boot.active.image } } : State).msEnd stOK 0

/-- The CRC-32C of the staging buffer with bytes [63:0] read as zero (R511). -/
def State.stagedCrc (s : State) : Nat := (crc32c (List.replicate 64 0 ++ memRead s.boot.staging 64 (copySize - 64))).toNat

/-- The staged reference record differs from the active one (R511 step 1). -/
def State.refChanged (s : State) : Bool := memRead s.boot.staging 0x7000 0x8000 != s.boot.active.area 0x7000 0x8000

/-- A STORE that passed its checks: the copy it writes. The lifecycle record and the header come from the active copy, but BOOT_PREF is
the staged one (R499, R509, R511). -/
def State.storedCopy (s : State) : MsCopy :=
  let c := s.boot.active
  let ref := memRead s.boot.staging 0x7000 0x8000
  let body := memZero s.boot.staging 0 0x1000
  let c1 : MsCopy := { c with magicOk := true, crcOk := true, gen := c.gen + 1, stores := c.stores + 1, bytes := body,
                              prefB := nbit (memGet s.boot.staging 12).toNat 0 }
  if s.refChanged then
    { c1 with pkgOk := true, boardOk := true, boardKey := Config.referenceKey ref,
              pkgRef := (List.range 6).map (Config.referenceMisr ref false), boardRef := (List.range 6).map (Config.referenceMisr ref true) }
  else c1

/-- STORE: ordered, checked, and then written into the inactive copy (R511, R512). -/
def State.msStoreRun (s0 : State) : State :=
  let s := s0.tick aidStore
  let refuse (st : Status) (d : Nat) : State := (s.count pgMs 1).msEnd st d
  if s.stagedCrc != s.fld rMsStgCrc 31 0 then refuse stUnsupported 1
  else if s.refChanged && !Config.referenceOk (memRead s.boot.staging 0x7000 0x8000) s.sec.life.owner then refuse stAccessFault 2
  else if 95000 ≤ s.boot.active.stores then refuse stQuota 3
  else { s with boot := { s.boot with storing := some s.storedCopy } }

/-- The listed cells of a range, counted from its start. -/
def memPart (m : List Host.Cell) (off n : Nat) : List Host.Cell :=
  (m.filter (fun c => off ≤ c.1 && c.1 < off + n)).map (fun c => (c.1 - off, c.2))

/-- IMAGE: the 32 MiB at MS_IMG are read and verified before anything is written (R499). -/
def State.msImageRun (s0 : State) : State :=
  let s := s0.tick aidStore
  let g := s.fld rMsImg 55 0
  let off := g % 2 ^ 46
  if g / 2 ^ 46 != s.ix || t0End < off + 0x200_0000 || off % 0x1000 != 0 then s.msEnd stAccessFault 0
  else if s.anyPoison off 0x200_0000 then s.msEnd stPoison 0
  else if !Config.imageSetOk (memRead s.mem.cells off 0x200_0000) then s.msEnd stAccessFault 2
  else { s with boot := { s.boot with imaging := true, imageData := memPart s.mem.cells off 0x200_0000 } }

/-- A write of MS_CTL: GO starts the OP unless BUSY is 1 (R511–R513). -/
def State.msGo (s : State) (v : Word) : State :=
  s.cfgDo rMsCtl (fun s =>
    let op := nbits v.toNat 3 0
    if !v.getLsbD 63 then s.setFld rMsCtl 3 0 op
    else if s.bit rMsCtl 61 then s
    else
      let s1 := (s.setReg rMsCtl op).setBit rMsCtl 61 true
      match op with
      | 1 => s1.msLoadRun
      | 2 => s1.onFirmware .msStore (fun s => s.msStoreRun)
      | 3 => s1.msImageRun
      | _ => s1.msEnd stUnsupported 1)

/-- MS_LOAD (R511). -/
def execMsLoad (v : Word) (s : State) : Host.Outcome State Fault Refusal := .next (s.msGo v)
/-- MS_STORE (R511). -/
def execMsStore (v : Word) (s : State) : Host.Outcome State Fault Refusal := .next (s.msGo v)
/-- MS_IMAGE (R499). -/
def execMsImage (v : Word) (s : State) : Host.Outcome State Fault Refusal := .next (s.msGo v)

/-- The store arbiter is free: a clearance that waits for its last store ends, or a security command that waits for a store runs
(R512). -/
def State.storeFree (s : State) : State :=
  match s.sec.held with
  | some (op, b) => ({ s with sec := { s.sec with held := none } } : State).secRun op b
  | none => s.clearMayEnd

/-- MS_STORE_DONE: the copy is read back; it becomes active, or stays inactive with a bad CRC (R511 step 4, R512). -/
def State.msStoreDone (s : State) (ok : Bool) : State :=
  match s.boot.storing with
  | none => s
  | some c =>
    let b := s.boot
    let c1 : MsCopy := { c with crcOk := ok }
    let b1 : Boot := if b.activeB then { b with a := c1, activeB := !ok, storing := none } else { b with b := c1, activeB := ok, storing := none }
    let s1 : State := { s with boot := b1 }
    (if ok then (s1.count pgMs 0).msEnd stOK 0 else s1.msEnd stFatal 4).storeFree

def execMsStoreDone (ok : Bool) (s : State) : Host.Outcome State Fault Refusal := .next (s.msStoreDone ok)

/-- MS_IMAGE_DONE: the set that is not preferred has been written on both channels, or is left unwhole (R498, R499). -/
def State.msImageDone (s : State) (ok : Bool) : State :=
  if !s.boot.imaging then s
  else
    let b := s.boot.putSet s.boot.spareSet (if ok then some s.boot.imageData else none)
    let s1 : State := { s with boot := { b with imaging := false, imageData := [] } }
    (if ok then (s1.count pgMs 2).msEnd stOK 0 else s1.msEnd stFatal 4).storeFree

def execMsImageDone (ok : Bool) (s : State) : Host.Outcome State Fault Refusal := .next (s.msImageDone ok)

/-- The staging offset in bytes, and its advance when INC is 1 (R513). -/
def State.stgOff (s : State) : Nat := 8 * s.fld rMsStgAddr 17 3
def State.stgAdvance (s : State) : State := if s.bit rMsStgAddr 63 then s.setFld rMsStgAddr 17 3 (s.fld rMsStgAddr 17 3 + 1) else s

/-- MS_STG_DATA_WRITE: the 8 B that MS_STG_ADDR names change (R511, R513). -/
def State.stgWrite (s : State) (v : Word) : State :=
  s.cfgDo rMsStgData (fun s =>
    ({ s with boot := { s.boot with staging := memWrite s.boot.staging s.stgOff (leBytes 8 v.toNat) } } : State).stgAdvance)

def execMsStgDataWrite (v : Word) (s : State) : Host.Outcome State Fault Refusal := .next (s.stgWrite v)

/-- A retrain is accepted only while the slice of the region is disabled (R506). -/
def State.hbmRetrainRun (s : State) (r : Nat) : State :=
  if s.bit (rCadCtl r) 0 then s else s.setBit (rHbmStat r) 2 true

/-- HBM_RETRAIN: a write of HBM_CTL.RETRAIN (R506, R466). -/
def State.hbmRetrain (s : State) (r : Nat) : State :=
  s.cfgDo (rHbmCtl r) (fun s => s.onFirmware (.hbmRetrain r) (fun s => s.hbmRetrainRun r))

def execHbmRetrain (r : SliceIx) (s : State) : Host.Outcome State Fault Refusal := .next (s.hbmRetrain r.val)

end Sys2Proof.Machine
end

