-- ==== Sys2Proof/Machine/TileCache.lean ====
section
/-!
DEFINITION. The failure of a block's tile line cache (R203).
-/
namespace Sys2Proof.Machine

/-- Contexts of a tile with an access outstanding through the cache (R203). -/
def Tile.throughCache (x : Tile) : List Nat :=
  (x.ctxs.filter (fun e => e.2.state != .drain && e.2.outstanding.any (fun o => o.cached))).map Prod.fst

/-- TILE_LINE_CACHE_FAIL: agent 33 + n is dead, its copies are gone, and the contexts that wait through it fault with SRAM_ECC; until
the block is reset its accesses complete with POISON, those that waited in the cache at once (R102, R203). -/
def State.tlcFail (s : State) (n : Nat) : State :=
  let s1 : State := { s.agentDead (Fin.ofNat 49 (33 + n)) (n / 4) with tlcDown := insertNew s.tlcDown n }
  let s2 : State := { s1 with tlc := kdel s1.tlc n }
  let s3 := (List.range 16).foldl (fun s i =>
    let t := 16 * n + i
    ((s.tile t).throughCache).foldl (fun s c => s.ctxFault t c fltSramEcc) s) s2
  let left := (List.range 16).flatMap (fun i => (s3.tile (16 * n + i)).ctxs.flatMap (fun e =>
    (e.2.outstanding.filter (fun o => o.cached && !o.sent)).map (fun o => (16 * n + i, e.1, o))))
  left.foldl (fun s w => (s.useEnds w.1 w.2.1 w.2.2 stPoison 0 []).ctxSettle w.1 w.2.1) s3

def execTileLineCacheFail (n : BlockIx) (s : State) : Host.Outcome State Fault Refusal := .next (s.tlcFail n)

end Sys2Proof.Machine
end

