-- ==== Sys2Proof/Machine/Completions.lean ====
section
/-!
DEFINITION. Completions at their requesters (R77, R343, R446), trackers and their TIMEOUT time, drain markers that return, held doorbell
writes, and the end of a firmware restart (R466).
-/
namespace Sys2Proof.Machine

/-! ### CMP (R77) -/

/-- Removes the tracker of a proxy's request to a home. -/
def State.dropProxyTracker (s : State) (c : Packet) : State :=
  let isP (t : Tracker) : Bool := match t.purpose with
    | .proxy _ _ => true
    | _ => false
  { s with recov := { s.recov with trackers := s.recov.trackers.eraseP (fun t => t.matches' c && isP t) } }

/-- The transaction that waits for a home's CMP: its slice and place. -/
def State.proxyTxn (s : State) (c : Packet) : Option (Nat × Nat × Txn) :=
  let k := c.gfa.toNat / 128
  let n := s.keySlice k
  match s.txnIx n (fun t => t.atHome && t.req.tid == c.tid && t.req.agent == c.agent && t.lines.contains k) with
  | none => none
  | some i => (s.txn n i).map (fun t => (n, i, t))

/-- The CMP of a write-back from a block's tile line cache: the line, kept until now, is dropped (R80). -/
def State.tlcWritten (s : State) (b : Nat) (c : Packet) : State :=
  let k := c.gfa.toNat / 128
  match s.tlcLine b k with
  | some l => if l.state == 5 then (s.delTlc b k).tlcReplay b k else s
  | none => s

/-- A completion continues what its tracker says the request was for. -/
def State.cmpFor' (s0 : State) (t : Tracker) (c : Packet) : State :=
  let s := s0.dropTracker c
  match t.purpose with
  | .outside => s0.send c
  | .context _ _ => s0.remoteCompletion c
  | .lineCache b _ _ => s.tlcWritten b c
  | .tier id => s.tierCmp id t.req c
  | .record id => s.tierRecorded id c
  | .backAcquire k m => s.backCmp k m c
  | .leg id => s.destCmp id t.req c
  | .gather key row => s.gatherCmp key row c
  | .roce n k => s.roceCmp n k c
  | .rawRing => s.rawWritten c
  | .proxy n line => s.pageArrives n (line.toNat / 32) c
  | .xc w part => s.xcCmp w part c
  | .mirror kind opref taken => s.mirrorCmp kind opref taken t.req c
  | .spill => s.spilled c
  | .travLine k key => s.travLineCmp k key c
  | .plan id => s.planRecorded id c
  | .travRec id => s.travRecorded id c
  | .pnm m id => if t.req.opcode.toNat == opWRN then s.pnmRecorded m id c else s.pnmTableRead m id c
  | .posted => s

/-- A completion at its requester: a proxy that waits for it, the holder of its tracker, or the companion processor; without any of them
it is late, and is discarded and counted (R12, R77, R446, R516). -/
def State.cmp (s0 : State) (c0 : Packet) : State :=
  let s := (s0.heed c0).1
  let c := (s0.heed c0).2
  match s.proxyTxn c with
  | some (n, i, t) => (s.dropProxyTracker c).proxyCmp n i t c
  | none =>
    match s.trackerFor c with
    | some t => s.cmpFor' t c
    | none =>
      if c.agent == agCompanion then (if c.tid == 0xFFFF then s else s.toFilard c) else s.count pgFb 5

def execCmp (p : Packet) (s : State) : Host.Outcome State Fault Refusal := .next (s.cmp p)

/-! ### TIMEOUT and drains (R130, R131, R446) -/

/-- The tracker answers its request with a status, as a completion would. -/
def State.answerSelf (s : State) (t : Tracker) (st : Status) : State :=
  let c := s.cmpFor t.req st (respData t.req.opcode.toNat t.req.len st (if t.req.opcode.toNat == opATM then errorBytes 8 else [])) 0 0 false 999
  match t.purpose with
  | .outside => s.send c
  | .proxy _ _ => s.cmp c
  | _ => s.cmpFor' t c

/-- TRACKER_TIMEOUT: the k-th tracked request completes with TIMEOUT; a write whose old path still drains waits for the drain
(R131, R446). -/
def State.trackerTimeout (s : State) (k : Nat) : State :=
  match s.recov.trackers[k]? with
  | none => s
  | some t =>
    if writesOp t.req.opcode.toNat && !(s.path t.dest).drains.isEmpty then
      { s with recov := { s.recov with trackers := s.recov.trackers.set k { t with due := true } } }
    else
      let i := if t.req.agent.toNat < 2048 then t.req.agent.toNat % 128 else 0
      let s1 := (s.count pgFb 4).record (i / 8) (pgBlock (i / 8)) clsTimeout 2 (aidInput i)
        (t.req.agent.toNat + t.req.tid.toNat * 2 ^ 16 + t.req.opcode.toNat * 2 ^ 32) t.req.gfa.toNat stTimeout (s.parcelOf t.req.job.toNat)
      s1.answerSelf t stTimeout

def execTrackerTimeout (k : Nat) (s : State) : Host.Outcome State Fault Refusal := .next (s.trackerTimeout k)

/-- DRN_RETURN: the drain of one first hop and epoch is resolved (R131, R379). -/
def State.drnReturn (s : State) (p : Packet) : State :=
  let t := p.src.toNat
  let x := s.path t
  ((s.count pgStk 12).setPath t { x with drains := x.drains.filter (fun d => d != (p.tid.toNat, p.flow.toNat)) }).completeDue t

def execDrnReturn (p : Packet) (s : State) : Host.Outcome State Fault Refusal := .next (s.drnReturn p)

/-! ### Held doorbell writes (R156, R190) -/

/-- The queue behind a doorbell has room for a write. -/
def State.doorRoom (s : State) (d : Nat) (p : Packet) : Bool :=
  let n := (s.parcelOf p.job.toNat).getD 0
  match d with
  | 0 => s.travRoom n
  | 1 => s.tierRoom n
  | 2 => s.planRoom n
  | 3 => s.pnmRoom p
  | _ => decide ((s.tile (d - 4)).queue.length < 64)

/-- A doorbell write enters its queue. -/
def State.doorTake (s : State) (d : Nat) (p : Packet) : State :=
  let n := (s.parcelOf p.job.toNat).getD 0
  match d with
  | 0 => s.travQueue n p
  | 1 => s.tierQueue n p
  | 2 => s.planQueue n p
  | 3 => s.pnmQueue n p
  | _ =>
    let t := d - 4
    let x := s.tile t
    (s.setTile t { x with queue := x.queue ++ [((List.range 8).map (fun i => BitVec.ofNat 64 (wordAt p.payload i)), p)] }).complete p stOK

/-- HELD_DOORBELL_ACCEPTED: the k-th held write is queued, when its queue has room and no earlier one of its doorbell and job waits. -/
def State.heldAccepted (s : State) (k : Nat) : State :=
  match s.tier.held[k]? with
  | none => s
  | some h =>
    if !s.doorRoom h.door h.req || (s.tier.held.take k).any (fun g => g.door == h.door && g.req.job == h.req.job) then s
    else ({ s with tier := { s.tier with held := s.tier.held.eraseIdx k } } : State).doorTake h.door h.req

def execHeldDoorbellAccepted (k : Nat) (s : State) : Host.Outcome State Fault Refusal := .next (s.heldAccepted k)

/-! ### The end of a firmware restart (R466) -/

/-- A command that waited for firmware runs. -/
def State.fwRun (s : State) (c : FwCmd) : State :=
  match c with
  | .levellingRetry p => s.levellingRetry p
  | .migrate wear b t => if wear then s.wearLevel b t else s.refresh b t
  | .parcel n op => s.pclRun n op
  | .extent n op e => s.extRun n op e
  | .hbmRetrain r => s.hbmRetrainRun r
  | .msStore => s.msStoreRun
  | .security op b => s.secRun op b

/-- FIRMWARE_RESTART_DONE: once no core restarts, the commands that waited run in their order (R466). -/
def State.firmwareDone (s : State) (k : Nat) : State :=
  let s1 : State := { s with recov := { s.recov with restarting := s.recov.restarting.filter (· != k) } }
  if s1.recov.restarting.isEmpty then
    s1.recov.waiting.foldl State.fwRun { s1 with recov := { s1.recov with waiting := [] } }
  else s1

def execFirmwareRestartDone (k : Fin 16) (s : State) : Host.Outcome State Fault Refusal := .next (s.firmwareDone k.val)

end Sys2Proof.Machine
end

