-- ==== Sys2Proof/Machine/ConfigSpace.lean ====
section
/-!
DEFINITION. The configuration space as software sees it (R55, R517–R523, R528–R531): what each register reads as, what a write of each
does, the two paths of access, and test perturbation.
-/
namespace Sys2Proof.Machine

/-! ### The common header (R522) -/

/-- Counters defined for a page (R522), by the counter tables of the chapters. -/
def cntsOf (type role : Nat) : Nat :=
  match type with
  | 0x01 => 6 | 0x02 => 8 | 0x03 => 3 | 0x04 => 14 | 0x05 => 16 | 0x06 => 5 | 0x07 => 5 | 0x08 => 17
  | 0x0B => 16 | 0x0C => 10 | 0x0D => 9 | 0x0E => 6 | 0x0F => 14 | 0x10 => 7 | 0x11 => 13 | 0x13 => 8
  | 0x14 => 4 | 0x15 => 14 | 0x16 => if role == roleModule then 12 else 0 | 0x17 => 14
  | _ => 0

/-- The highest assigned offset of a page, divided by 8 (R522). -/
def topOf (type role : Nat) : Nat :=
  if type == 0x16 then (if role == roleModule then 0x104 else if role == roleEth then 0x129 else 0x23)
  else (pageRegs type).foldl (fun a d => max a ((d.off + 8 * (d.count - 1)) / 8)) 0

/-- The page has a valid KIND of perturbation in some role (R530). -/
def perturbable (type : Nat) : Bool :=
  type == 0x06 || type == 0x07 || type == 0x08 || type == 0x09 || type == 0x0F || type == 0x15 || type == 0x16 || type == 0x17

/-- CERTIFIED (R494). -/
def State.certified (s : State) : Bool := s.sec.life.state == 2

/-- The page's instance has completed its start-up and is serving (PG_STAT.READY). -/
def State.pageReady (s : State) (p : Page) : Bool :=
  !s.pageInReset p &&
  match p.type with
  | 0x08 => s.bit (rCadStat p.inst) 0
  | 0x09 => s.bit (rHbmStat p.inst) 0 && !s.bit (rHbmStat p.inst) 2
  | 0x0A => s.bit (rFcStat p.inst) 0
  | 0x0B => s.bit rTlStat 0
  | 0x15 => s.portUp p.inst
  | 0x16 => s.portUp p.inst
  | _ => s.fld rBootStat 3 0 == 12

/-- PG_ID (R522). -/
def pgIdOf (p : Page) : Nat := p.type + p.inst * 2 ^ 8 + 0xB0 * 2 ^ 24 + cfgAid p * 2 ^ 32

/-- PG_STAT: READY, IN_RESET, PERTURBED, PERTURB_REFUSED, LOCKED (R522). -/
def State.pgStatOf (s : State) (p : Page) : Nat :=
  (if s.pageReady p then 1 else 0) + (if s.pageInReset p then 2 else 0) + (if s.fld (rPgPerturb p.base) 2 0 != 0 then 4 else 0) +
  (if s.bit (rPgStat p.base) 3 then 8 else 0) + (if s.certified then 16 else 0)

/-! ### Read-only fields that show a unit's state -/

/-- TILE_STAT (R203). -/
def State.tileStat (s : State) (t : Nat) : Nat :=
  let x := s.tile t
  let bits (q : Nat → Bool) : Nat := (List.range 16).foldl (fun a c => if q c then a + 2 ^ c else a) 0
  bits (fun c => (s.ctx t c).state != .free) + bits (fun c => (s.ctx t c).isBound) * 2 ^ 16 + x.queue.length * 2 ^ 32 +
  (if x.idle then 2 ^ 39 else 0) + (if s.bit (rTileStat t) 40 then 2 ^ 40 else 0) +
  (match s.tileParcel t with
    | some n => n * 2 ^ 48 + 2 ^ 54
    | none => 0)

/-- The code of a context's state (R182). -/
def CtxState.code : CtxState → Nat
  | .free => 0 | .ready => 1 | .running => 2 | .waitRemote => 3 | .waitStake => 4 | .sleep => 5 | .drain => 6

/-- TILE_CTXc (R203). -/
def State.tileCtxWord (s : State) (t c : Nat) : Nat :=
  let x := s.ctx t c
  x.state.code + x.pc.toNat * 2 ^ 8 + min 64 x.outstanding.length * 2 ^ 24 + x.lanes.foldl (fun a l => a + 2 ^ (32 + l)) 0

/-- TILE_BINDb (R203). -/
def State.tileBindWord (s : State) (t b : Nat) : Nat :=
  match kget (s.tile t).bindings b with
  | some x => x.ctx + 2 ^ 4 + (if x.builtin then 2 ^ 5 else 0) + x.queue.length % 1024 * 2 ^ 6 + x.job.toNat * 2 ^ 16 + x.flow.toNat * 2 ^ 32
  | none => 0

/-- TWN_STAT (R474). -/
def State.twnStat (s : State) : Nat :=
  let own := s.recov.ops.filter (fun o => o.owner == s.ix)
  own.length % 2 ^ 16 + s.recov.cols.foldl (fun a e => a + (e.2.copies.filter (fun c => c.rec'.commit)).length) 0 % 2 ^ 16 * 2 ^ 16 +
  (own.filter (fun o => o.bringIn.isSome)).length % 2 ^ 16 * 2 ^ 32

/-- T0 frames of a parcel in the region that holds most of them, dirty frames, in MiB; T2 in GiB; each rounded up (R153). -/
def State.tqUse (s : State) (n : Nat) : Nat :=
  let mine := s.tier.frames.filter (fun f => f.2.parcel == n)
  let t0 := (List.range 4).foldl (fun a r => max a (mine.filter (fun f => t0Stack f.2.pool == r)).length) 0
  let t1 := (mine.filter (fun f => f.2.dirty)).length
  let t2 := (s.tier.objs.filter (fun o => o.2.owner == n)).foldl (fun a o => a + o.2.size) 0
  ceilDiv t0 256 + ceilDiv t1 256 * 2 ^ 20 + ceilDiv t2 1024 * 2 ^ 40

/-- TQ_LIMIT of the selected parcel. -/
def State.tqLimit (s : State) (n : Nat) : Nat := (s.quota n).t0 + (s.quota n).t1 * 2 ^ 20 + (s.quota n).t2 * 2 ^ 40

/-- TL_STAT: ERASE_PEND and OBJECTS follow the tables (R173). -/
def State.tlStat (s : State) : Nat :=
  s.reg rTlStat % 8 + (if s.tier.blocks.any (fun b => b.2.erasePending) then 8 else 0) + (if s.bit rTlStat 4 then 16 else 0) +
  s.tier.objs.length * 2 ^ 16

/-- TL_WEAR (R173): erase counts of good blocks, and bad blocks in thousandths. -/
def State.tlWear (s : State) : Nat :=
  let good := s.tier.blocks.filter (fun e => !e.2.retired)
  let sum := good.foldl (fun a e => a + e.2.erases) 0
  let all := max 1 s.rawUnits
  s.peMin % 2 ^ 16 + s.peMax % 2 ^ 16 * 2 ^ 16 + sum / max 1 (all - s.retired) % 2 ^ 16 * 2 ^ 32 + min 1000 (s.retired * 1000 / all) * 2 ^ 48

/-- TRV_Tn (R321). -/
def State.trvWord (s : State) (n : Nat) : Nat :=
  match kget s.trav.travs n with
  | some t => t.leg + t.state * 2 ^ 12 + t.pass % 2 ^ 16 * 2 ^ 16 + t.last.toNat * 2 ^ 32 + t.anchors.length * 2 ^ 36
  | none => 0

/-- PORT_GATE_STAT (R405). -/
def State.gateStat (s : State) (p : Nat) : Nat :=
  match s.gate p with
  | none => s.gateMask p
  | some g => s.gateMask p + g.entry % 256 * 2 ^ 8 + (if g.anchored then 2 ^ 16 else 0) + (if g.pending.isSome then 2 ^ 17 else 0) + g.offset * 2 ^ 32

/-- The slot that a MODULE port serves. -/
def State.portSlot (s : State) (p : Nat) : Nat := s.fld (rPortRole p) 13 8

/-- MOD_PNM_STAT (R301). -/
def State.pnmStat (s : State) (p : Nat) : Nat :=
  let m := s.portSlot p
  let q := s.pnmQ m
  let held := s.cad.foldl (fun a c => a + (c.2.holdQ.filter (fun e => placeOf e.1 == .slot m)).length) 0
  min 64 q.queue.length + min 8 q.active.length * 2 ^ 8 + min 1024 held * 2 ^ 16

/-- MOD_PNM_BANKS (R301). -/
def State.pnmBanks (s : State) (p : Nat) : Nat :=
  let ks := (s.pnmQ (s.portSlot p)).active.flatMap PnmCmd.banks
  (List.range 64).foldl (fun a c => if ks.contains c then a + 2 ^ c else a) 0

/-- ETH_STAT (R410). -/
def State.ethStat (s : State) (p : Nat) : Nat :=
  let e := kgetD s.roce.eth p {}
  e.pausing.toNat + e.paused.toNat * 2 ^ 8 + e.missq.length * 2 ^ 16

/-- STK_STAT (R145). -/
def State.stkStat (s : State) : Nat :=
  (List.range 4).foldl (fun a r => a + (s.stk.parked.filter (fun k => k.stake / 4096 == r)).length * 2 ^ (16 * r)) 0

/-- Free pages of the replica pool (R106). -/
def State.replFree (s : State) : Nat :=
  s.poolGib * 2 ^ 18 - (List.range 4).foldl (fun a n => a + (s.cadSlice n).replicas.length + (s.cadSlice n).replPending.length) 0

/-- MS_STAT (R513). -/
def State.msStat (s : State) : Nat :=
  let b := s.boot
  let other := if b.activeB then b.a else b.b
  b.active.gen % 2 ^ 32 + (if b.activeB then 2 ^ 32 else 0) + (if other.valid then 2 ^ 33 else 0) + b.active.stores % 2 ^ 17 * 2 ^ 34

/-- SEC_STAT: STATE, CLAIMED and CLEARANCES follow the lifecycle record (R494). -/
def State.secStat (s : State) : Nat :=
  let l := s.sec.life
  l.state % 8 + s.fld rSecStat 4 3 * 2 ^ 3 + (if l.owner.isSome then 2 ^ 5 else 0) + (if s.bit rSecStat 6 then 2 ^ 6 else 0) + l.clearances % 2 ^ 32 * 2 ^ 32

/-- PCL_STAT (R441). -/
def State.pclStat (s : State) (n : Nat) : Nat :=
  s.pclState n + (if s.liveGrid then 8 else 0) + (s.coll.slots.filter (fun e => e.2.state != .free && e.2.parcel == n)).length * 2 ^ 16

/-- PCL_USE: the latched counter of the selected region and kind (R441). -/
def State.pclUse (s : State) (n : Nat) : Nat := kgetD (kgetD s.parcels n {}).snap (8 * s.fld (rPclUseSel n) 1 0 + s.fld (rPclUseSel n) 4 2) 0

/-- Meters and shapers shown by their selectors (R404). -/
def State.mtrShown (s : State) (k : Nat) : Nat :=
  let m := s.fld rMtrSel 8 0
  let x := s.meter m
  if 320 ≤ m then 0 else if k == 0 then x.cfg0.toNat else if k == 1 then x.cfg1.toNat else x.tc % 2 ^ 32 + x.tp % 2 ^ 32 * 2 ^ 32

/-- SHP_CFG and SHP_STAT of the selected shaper. -/
def State.shpShown (s : State) (stat : Bool) : Nat :=
  let x := s.shaper (s.fld rShpSel 7 0)
  if stat then (BitVec.ofInt 32 x.tokens).toNat else x.cfg.toNat

/-- What a register holds, by page and offset: stored bits, or a unit's state where the register shows it. -/
def State.regHeld (s : State) (p : Page) (o : Nat) : Nat :=
  let c := p.base + o
  let n := p.inst
  match p.type, o with
  | _, 0x000 => pgIdOf p
  | _, 0x008 => topOf p.type (s.portRole n) + cntsOf p.type (s.portRole n) * 2 ^ 12 + (if perturbable p.type then 2 ^ 17 else 0)
  | _, 0x018 => s.pgStatOf p
  | _, 0x038 => if s.certified then 0 else s.reg c
  | 0x01, 0x100 => s.reg c + s.ix * 2 ^ 32
  | 0x02, 0x100 => s.secStat
  | 0x02, 0x118 => s.nonce.toNat % 2 ^ 64
  | 0x02, 0x120 => s.nonce.toNat / 2 ^ 64 % 2 ^ 64
  | 0x02, 0x128 => s.nonce.toNat / 2 ^ 128 % 2 ^ 64
  | 0x02, 0x130 => s.nonce.toNat / 2 ^ 192
  | 0x02, 0x138 => (if s.certified then 2 else s.fld c 0 0)
  | 0x02, 0x140 => s.sec.life.tenant.toNat % 2 ^ 64
  | 0x02, 0x148 => s.sec.life.tenant.toNat / 2 ^ 64
  | 0x03, 0x108 => s.msStat
  | 0x03, 0x118 => leNat (memRead s.boot.staging s.stgOff 8)
  | 0x04, 0x1A0 => (kgetD s.recov.areas (32 * s.fld rTwnSel 5 0 + s.fld rTwnSel 12 8) 0).toNat
  | 0x04, 0x1A8 => s.twnStat
  | 0x05, 0x158 => s.poolFree / 8 % 2 ^ 18 + (s.sw.buf.filter (fun x => x.residue)).length * 2 ^ 32 + (if s.bit c 48 then 2 ^ 48 else 0)
  | 0x08, 0x108 => s.fld c 1 0 + min 4095 (s.cadSlice n).conflictQ.length * 2 ^ 16 + s.fld c 43 32 * 2 ^ 32
  | 0x08, 0x118 => if n == 0 then s.fld c 4 0 + s.replFree * 2 ^ 32 else 0
  | 0x0B, 0x108 => s.tlStat
  | 0x0B, 0x118 => s.reg c % 2 ^ 15 + (if s.bit c 0 then (s.fld c 14 8 * 1024 - ceilDiv s.tier.frames.length 256) * 2 ^ 32 else 0)
  | 0x0B, 0x128 => s.tqLimit (s.fld rTqSel 5 0)
  | 0x0B, 0x130 => s.tqUse (s.fld rTqSel 5 0)
  | 0x0B, 0x138 => (s.quota (s.fld rTqSel 5 0)).objs + s.liveObjs (s.fld rTqSel 5 0) * 2 ^ 32
  | 0x0B, 0x140 => if s.bit rTlStat 0 then min (2 ^ 20 - 1) (s.usableUnits / 1024) + min (2 ^ 20 - 1) ((s.usableUnits - s.usedUnits) / 1024) * 2 ^ 20 else 0
  | 0x0B, 0x148 => if s.bit rTlStat 0 then s.tlWear else 0
  | 0x0D, 0x108 => s.mtrShown 0
  | 0x0D, 0x110 => s.mtrShown 1
  | 0x0D, 0x118 => s.mtrShown 2
  | 0x0D, 0x128 => s.shpShown false
  | 0x0D, 0x130 => s.shpShown true
  | 0x0E, 0x108 => let e := s.glEntry (s.fld rGlAddr 11 0); e.1 % 2 ^ 32 + e.2.toNat * 2 ^ 32
  | 0x0F, 0x100 => s.stkStat
  | 0x10, 0x108 => s.pclStat n
  | 0x10, 0x1C0 => s.pclUse n
  | 0x11, 0x1C8 => (s.ring (s.fld rRoceRingSel 9 0)).cfg.toNat
  | 0x11, 0x1D0 => (s.ring (s.fld rRoceRingSel 9 0)).posted % 2 ^ 64
  | 0x16, 0x118 => s.gateStat n
  | 0x16, 0x808 => s.pnmStat n
  | 0x16, 0x810 => s.pnmBanks n
  | 0x16, 0x948 => s.ethStat n
  | 0x17, 0x108 => s.tileStat n
  | 0x17, 0x128 => (s.tile n).lanes.foldl (fun a e => if e.2.owner.isSome then a + 2 ^ e.1 else a) 0
  | t, _ =>
    if (t == 0x04 || t == 0x06 || t == 0x07) && 0x120 ≤ o && o < 0x160 then
      s.bookWord (if t == 0x04 then 20 else if t == 0x06 then 16 + n else n) ((o - 0x120) / 8)
    else if t == 0x0C && 0x118 ≤ o && o < 0x198 then s.trvWord ((o - 0x118) / 8)
    else if t == 0x17 && 0x140 ≤ o && o < 0x1C0 then s.tileCtxWord n ((o - 0x140) / 8)
    else if t == 0x17 && 0x1C0 ≤ o && o < 0x200 then s.tileBindWord n ((o - 0x1C0) / 8)
    else s.reg c

/-! ### Reading (R519, R520) -/

/-- The register that holds a page offset; none where the offset is unassigned. The module and Ethernet registers of a port's second page
stand there in their role only (R522). -/
def State.regDefAt (s : State) (p : Page) (o : Nat) : Option RegDef :=
  if o % 8 != 0 then none
  else if o < 0x100 then findReg headerRegs o
  else if p.type == 0x16 && 8 * topOf 0x16 (s.portRole p.inst) < o then none
  else if p.type == 0x16 && s.portRole p.inst == roleEth && 0x800 ≤ o && o < 0x900 then none
  else findReg (pageRegs p.type) o

/-- The bits of a value that a read shows: W1S and WO fields read as zero (R520). -/
def readBits (fs : List RegField) (v : Nat) : Nat :=
  fs.foldl (fun a f => if f.ty == .w1s || f.ty == .wo then a else a + nbits v f.hi f.lo * 2 ^ f.lo) 0

/-- The fields cleared by a read (R520). -/
def rcBits (fs : List RegField) (v : Nat) : Nat := fs.foldl (fun a f => if f.ty == .rc then nsetBits a f.hi f.lo 0 else a) v

/-- The value a configuration read returns; an unassigned offset reads as zero (R519). -/
def State.cfgValue (s : State) (c : Nat) : Nat :=
  match pageOf c with
  | none => 0
  | some p => match s.regDefAt p (c % 0x1000) with
    | some d => readBits d.fields (s.regHeld p (c % 0x1000)) % 2 ^ 64
    | none => 0

/-- What a read does in its arbiter step: RC fields clear, the table and staging addresses advance (R405, R513, R520). -/
def State.cfgRead (s : State) (c : Nat) : State :=
  match pageOf c with
  | none => s
  | some p =>
    let o := c % 0x1000
    let s1 := s.tick (cfgAid p)
    let s2 := match s.regDefAt p o with
      | some d => if d.fields.any (fun f => f.ty == .rc) then s1.setReg (p.base + o) (rcBits d.fields (s1.reg (p.base + o))) else s1
      | none => s1
    if p.base + o == rGlData then s2.glAdvance else if p.base + o == rMsStgData then s2.stgAdvance else s2

/-! ### Test perturbation (R530, R531) -/

/-- The pages where DELAY is valid. -/
def delayPage (t : Nat) : Bool := t == 0x06 || t == 0x07 || t == 0x08 || t == 0x0F || t == 0x15

/-- A combination of KIND, ERR, fields and page that R530 accepts. -/
def State.perturbOk (s : State) (p : Page) (w : Nat) : Bool :=
  let target := nbits w 7 3
  let amount := nbits w 31 16
  let period := nbits w 47 32
  match nbits w 2 0 with
  | 0 => true
  | 1 => delayPage p.type && decide (amount ≤ 1023)
  | 2 => p.type == 0x15 && decide (target ≤ 17) && decide (1 ≤ period) && decide (amount ≤ period)
  | 3 => p.type == 0x16
  | 4 => match nbits w 11 8 with
    | 1 => p.type == 0x09 || (p.type == 0x16 && s.portRole p.inst == roleModule)
    | 2 => p.type == 0x15
    | 3 => p.type == 0x15 && decide (target ≤ 4)
    | 4 => p.type == 0x17 && decide (target ≤ 15)
    | 5 => p.type == 0x08
    | _ => false
  | _ => false

/-- The bits of PG_PERTURB that are RW. -/
def perturbBits (w : Nat) : Nat := nbits w 12 0 + nbits w 62 16 * 2 ^ 16

/-- A write of PG_PERTURB: ignored in CERTIFIED; refused, or accepted. An INJECT without a count, and LANE_FAIL, return KIND to OFF at
once (R494, R530). -/
def State.perturbWrite (s : State) (p : Page) (v : Word) : State :=
  let c := rPgPerturb p.base
  s.cfgDo c (fun s =>
    let w := v.toNat
    let kind := nbits w 2 0
    let laneFail := kind == 4 && nbits w 11 8 == 3
    if s.certified then s
    else if !s.perturbOk p w then s.setBit (rPgStat p.base) 3 true
    else
      let off := laneFail || (kind == 4 && nbits w 62 48 == 0)
      let s1 := (s.setBit (rPgStat p.base) 3 false).setReg c (if off then perturbBits w - kind else perturbBits w)
      let s2 := if p.type == 0x15 then s1.setLink p.inst { s1.link p.inst with bpFrames := 0 } else s1
      if laneFail then s2.laneFails p.inst (nbits w 7 3) else s2)

/-- The write of a page by its number; a number that names no page changes nothing. -/
def State.perturbPage (s : State) (page : BitVec 12) (v : Word) : State :=
  match pageOf (page.toNat * 0x1000) with
  | some p => s.perturbWrite p v
  | none => s

/-- PERTURB_OFF (R530): a KIND of OFF ends any perturbation of the page. -/
def execPerturbOff (page : BitVec 12) (v : Word) (s : State) : Host.Outcome State Fault Refusal := .next (s.perturbPage page v)
/-- PERTURB_DELAY (R530). -/
def execPerturbDelay (page : BitVec 12) (v : Word) (s : State) : Host.Outcome State Fault Refusal := .next (s.perturbPage page v)
/-- PERTURB_BACKPRESSURE (R530). -/
def execPerturbBackpressure (page : BitVec 12) (v : Word) (s : State) : Host.Outcome State Fault Refusal := .next (s.perturbPage page v)
/-- PERTURB_GATE_JITTER (R530). -/
def execPerturbGateJitter (page : BitVec 12) (v : Word) (s : State) : Host.Outcome State Fault Refusal := .next (s.perturbPage page v)
/-- PERTURB_INJECT (R530). -/
def execPerturbInject (page : BitVec 12) (v : Word) (s : State) : Host.Outcome State Fault Refusal := .next (s.perturbPage page v)

/-! ### Writing (R519, R520) -/

/-- An RWL field of a register is locked (R39, R43, R93, R364, R414, R494). -/
def State.locked (s : State) (p : Page) (o : Nat) : Bool :=
  match p.type, o with
  | 0x01, 0x100 => s.boot.gridLocked
  | 0x02, 0x138 => s.boot.policyLocked || s.certified
  | 0x08, 0x118 => s.bit (rCadCtl 0) 0
  | 0x11, 0x108 => s.bit rRoceCtl 0
  | 0x15, _ => s.boot.roleLocked.contains p.inst
  | _, _ => false

/-- The new value of a register without a unit of its own behind it: each field by its type. -/
def writeBits (fs : List RegField) (old w : Nat) (locked : Bool) : Nat :=
  fs.foldl (fun a f =>
    match f.ty with
    | .rw => nsetBits a f.hi f.lo (nbits w f.hi f.lo)
    | .wo => nsetBits a f.hi f.lo (nbits w f.hi f.lo)
    | .rwl => if locked then a else nsetBits a f.hi f.lo (nbits w f.hi f.lo)
    | .w1c => nsetBits a f.hi f.lo (BitVec.ofNat 64 (nbits a f.hi f.lo) &&& ~~~BitVec.ofNat 64 (nbits w f.hi f.lo)).toNat
    | _ => a) old

/-- A write to a register that only holds what software wrote. -/
def State.plainWrite (s : State) (p : Page) (o : Nat) (v : Word) : State :=
  let c := p.base + o
  s.cfgDo c (fun s => match s.regDefAt p o with
    | none => s
    | some d =>
      if p.type == 0x08 && o == 0x118 && (p.inst != 0 || 16 < nbits v.toNat 4 0) then s
      else s.setReg c (writeBits d.fields (s.reg c) v.toNat (s.locked p o)))

/-- PG_CTL: FREEZE, and CLEAR (R522). -/
def State.pgCtlWrite (s : State) (b : Nat) (v : Word) : State :=
  s.cfgDo (rPgCtl b) (fun s =>
    let s1 := s.setBit (rPgCtl b) 0 (v.getLsbD 0)
    if v.getLsbD 1 then s1.resetRegs (fun c => rPgCnt b 0 ≤ c && c ≤ rPgCnt b 23) else s1)

/-- TWN_AREA: the entry that TWN_SEL shows (R474). -/
def State.twnAreaWrite (s : State) (v : Word) : State :=
  s.cfgDo rTwnArea (fun s =>
    let w := BitVec.ofNat 64 (nbits v.toNat 61 0 + nbits v.toNat 63 63 * 2 ^ 63)
    { s with recov := { s.recov with areas := kset s.recov.areas (32 * s.fld rTwnSel 5 0 + s.fld rTwnSel 12 8) w } })

/-- TQ_OBJ: the object quota of the selected parcel; a larger value acts as 1,048,576 (R173). -/
def State.tqObjWrite (s : State) (v : Word) : State :=
  s.cfgDo rTqObj (fun s =>
    let n := s.fld rTqSel 5 0
    { s with tier := { s.tier with quotas := kset s.tier.quotas n { s.quota n with objs := nbits v.toNat 20 0 } } })

/-- ROCE_RING_CFG: the ring that ROCE_RING_SEL shows (R426). -/
def State.ringCfgWrite (s : State) (v : Word) : State :=
  s.cfgDo rRoceRingCfg (fun s =>
    let r := s.fld rRoceRingSel 9 0
    s.setRing r { s.ring r with cfg := BitVec.ofNat 64 (nbits v.toNat 59 0) })

/-- TIER_WE: both write enables (R151). -/
def State.tierWeWrite (s : State) (v : Word) : State :=
  s.cfgDo rTierWe (fun s =>
    let s1 := s.setBit rTierWe 0 (v.getLsbD 0)
    (if v.getLsbD 1 != s1.bit rTierWe 1 || v.getLsbD 1 then s1.commitT2 (v.getLsbD 1) else s1).weSteps (s.fld rTierWe 1 0))

/-- TILE_CTL: EN, HOLD, ZERO and KILL (R201–R203). -/
def State.tileCtlWrite (s : State) (t : Nat) (v : Word) : State :=
  let c := rTileCtl t
  s.cfgDo c (fun s =>
    let s1 := s.setFld c 1 0 (nbits v.toNat 1 0)
    let s2 := ((List.range 16).filter (fun i => v.getLsbD (16 + i))).foldl (fun s i => s.killCtx t i) s1
    if v.getLsbD 2 && (s2.tile t).idle && !s2.bit (rTileStat t) 40 then (s2.clearTile t).setBit (rTileStat t) 40 true else s2)

/-- SEC_CMD without a block: OP; a GO with a reserved OP completes with UNSUPPORTED. A GO with another OP comes as the command's own row,
with the block it reads (R7, R478). -/
def State.secOpWrite (s : State) (v : Word) : State :=
  s.cfgDo rSecCmd (fun s =>
    let op := nbits v.toNat 3 0
    if v.getLsbD 63 && (op == 0 || 9 ≤ op) then s.secReserved op else s.setFld rSecCmd 3 0 op)

/-- PORT_ROLE: a change of the role, or of the slot, of a port ends the lost state of the slot it served (R43, R48). -/
def State.roleWrite (s : State) (p : Page) (v : Word) : State :=
  let c := rPortRole p.inst
  let m := s.portSlot p.inst
  let s1 := s.plainWrite p 0x100 v
  if s.portRole p.inst == roleModule && (s1.portRole p.inst != roleModule || s1.fld c 13 8 != m) then s1.endLost m else s1

/-- CHIP_PWR: the average is judged by the new limit from the write on (R32). -/
def State.powerWrite (s : State) (p : Page) (v : Word) : State := (s.plainWrite p 0x108 v).judgePower

/-- A configuration write that is open, by register (R519). -/
def State.regWrite (s : State) (p : Page) (o : Nat) (v : Word) : State :=
  let n := p.inst
  let w := v.toNat
  match p.type, o with
  | _, 0x010 => s.pgCtlWrite p.base v
  | _, 0x020 => s.errSumClear p.base v
  | _, 0x038 => s.perturbWrite p v
  | 0x01, 0x108 => s.powerWrite p v
  | 0x02, 0x108 => s.secOpWrite v
  | 0x03, 0x100 => s.msGo v
  | 0x03, 0x118 => s.stgWrite v
  | 0x04, 0x108 => s.tailWrite 20 v
  | 0x06, 0x108 => s.tailWrite (16 + n) v
  | 0x07, 0x108 => s.tailWrite n v
  | 0x04, 0x180 => s.heartbeat v
  | 0x04, 0x1A0 => s.twnAreaWrite v
  | 0x05, 0x110 => s.classRsvWrite v
  | 0x08, 0x100 => s.cadEnable n v
  | 0x08, 0x120 => s.cadDeadClear n v
  | 0x08, 0x1C8 => s.cadProbe n v
  | 0x09, 0x100 => if v.getLsbD 0 then s.hbmRetrain n else s.plainWrite p o v
  | 0x0B, 0x100 => s.mountStart v
  | 0x0B, 0x110 => s.tierWeWrite v
  | 0x0B, 0x118 => s.tcEnable v
  | 0x0B, 0x128 => s.tqLimitWrite v
  | 0x0B, 0x138 => s.tqObjWrite v
  | 0x0C, 0x108 => s.benchInject v
  | 0x0D, 0x108 => s.meterConfig false v
  | 0x0D, 0x110 => s.meterConfig true v
  | 0x0D, 0x128 => s.shaperConfig v
  | 0x0E, 0x108 => s.gateEntryWrite v
  | 0x0F, 0x148 => s.stkProbe v
  | 0x10, 0x100 => if v.getLsbD 63 then s.pclGo n (nbits w 3 0) else s.plainWrite p o v
  | 0x10, 0x190 => s.extGo n (nbits w 19 16) v
  | 0x10, 0x1B8 => s.usageSnap n v
  | 0x11, 0x100 => s.roceEnable v
  | 0x11, 0x110 => match nbits w 19 16 with
    | 1 => s.qpCreate v
    | 2 => s.qpQuery v
    | 3 => s.qpFailCmd v
    | 4 => s.qpDestroy v
    | k => s.qpCmd k v (fun s _ => s.qpCmdEnd stUnsupported)
  | 0x11, 0x198 => match nbits w 17 16 with
    | 1 => s.mrRegister v
    | 2 => s.mrRevoke v
    | 3 => s.mrQuery v
    | k => s.mrCmd k v (fun s _ => s.mrEnd stUnsupported)
  | 0x11, 0x1C8 => s.ringCfgWrite v
  | 0x11, 0x208 => s.rawTx v
  | 0x12, 0x100 => s.sakInstall v
  | 0x13, 0x100 => s.xcCtlWrite v
  | 0x14, 0x188 => s.rstCtlWrite v
  | 0x15, 0x100 => s.roleWrite p v
  | 0x15, 0x108 => s.portCtlWrite n v
  | 0x16, 0x108 => s.portGateWrite n v
  | 0x16, 0x940 => if s.portRole n == roleEth then s.pfcConfig n v else s.plainWrite p o v
  | 0x17, 0x100 => s.tileCtlWrite n v
  | 0x17, 0x110 => s.tileSramWrite n v
  | t, _ =>
    if t == 0x01 && 0x200 ≤ o && o < 0x300 && o % 8 == 0 then s.intPendClear ((o - 0x200) / 8) v
    else if t == 0x01 && 0x300 ≤ o && o < 0x400 && o % 8 == 0 then s.intMaskWrite ((o - 0x300) / 8) v
    else if t == 0x08 && 0x128 ≤ o && o < 0x1A8 && o % 8 == 0 then s.cadSeverClear n ((o - 0x128) / 8) v
    else s.plainWrite p o v

/-! ### The two paths (R55, R517–R519) -/

/-- The status of an aligned access to a configuration offset (R519). -/
def State.cfgStatus (s : State) (c : Nat) : Status :=
  match pageOf c with
  | none => stAccessFault
  | some p => if s.pageInReset p then stRetry else stOK

/-- A configuration write of an offset by either path: its status and its effect (R517, R519). -/
def State.cfgWriteAt (s : State) (c : Nat) (v : Word) : State :=
  match pageOf c with
  | none => s
  | some p => if s.cfgOpen c then s.regWrite p (c % 0x1000) v else s

/-- A configuration access over the Filard Link or in band, once it is admitted: the access and its completion (R517). -/
def State.cfgServe (s : State) (p : Packet) (c : Nat) : State :=
  let st := s.cfgStatus c
  if p.opcode.toNat == opRDN then
    if st == stOK then (s.cfgRead c).complete p st (leBytes 8 (s.cfgValue c)) else s.complete p st
  else if st == stOK then (s.cfgWriteAt c (BitVec.ofNat 64 (wordAt p.payload 0))).complete p st else s.complete p st

/-- An aligned access of 8 B, by RDN or WRN. -/
def cfgAligned (p : Packet) (c : Nat) : Bool :=
  (p.opcode.toNat == opRDN || p.opcode.toNat == opWRN) && p.len == 8 && c % 8 == 0 && p.mask.isNone

/-- The requester stands in the in-band management list; a store needs WR (R55, R528). -/
def State.inList (s : State) (p : Packet) : Bool :=
  p.agent.toNat < 2048 &&
  (List.range 16).any (fun i =>
    s.bit (rIbm i) 17 && s.fld (rIbm i) 9 0 == p.src.toNat && s.fld (rIbm i) 16 10 == p.agent.toNat % 128 &&
    (p.opcode.toNat == opRDN || s.bit (rIbm i) 18))

/-- The security and monument-store pages are reached over the Filard Link only (R55). -/
def filardOnly (c : Nat) : Bool := match pageOf c with
  | some p => p.type == 0x02 || p.type == 0x03
  | none => false

/-- A configuration access over the Filard Link (R517): the list and the two pages do not restrict it. -/
def State.filardConfig (s : State) (p : Packet) (c : Nat) : State :=
  let s1 := s.count pgChip 0
  if cfgAligned p c then s1.cfgServe p c else s1.complete p stAccessFault

/-- An in-band configuration access: refused with ACCESS_FAULT, also during a clearance, or served (R55, R491). -/
def State.inBandConfig (s : State) (p : Packet) (c : Nat) : State :=
  if cfgAligned p c && s.inList p && !filardOnly c && !s.bit rSecStat 4 then (s.count pgChip 1).cfgServe p c
  else (s.count pgChip 2).complete p stAccessFault

/-- The configuration offset that a packet names on this Tiolo. -/
def State.configOff (s : State) (p : Packet) : Option Nat :=
  if gfaHome p.gfa == s.ix then (match placeOf (gfaOff p.gfa) with
    | .config c => some c
    | _ => none) else none

/-- A request of the companion processor came over the Filard Link (R341, R516). -/
def State.fromCompanion (s : State) (p : Packet) : Bool := p.agent == agCompanion && p.src.toNat == s.ix

/-- A packet that names the configuration window, by its path. -/
def State.configAccess (s : State) (p : Packet) (c : Nat) : State :=
  if s.fromCompanion p then s.filardConfig p c else s.inBandConfig p c

/-- IN_BAND_CONFIG_ACCESS (R55). -/
def execInBandConfigAccess (p : Packet) (s : State) : Host.Outcome State Fault Refusal :=
  match s.configOff p with
  | some c => .next (s.configAccess p c)
  | none => .next s

/-- CONFIG_WRITE: a WRN of the companion processor to a configuration offset, with its completion (R517, R519). -/
def execConfigWrite (off : BitVec 24) (len : Nat) (v : Word) (tid : BitVec 16) (s : State) : Host.Outcome State Fault Refusal :=
  let p : Packet := { opcode := BitVec.ofNat 8 opWRN, len := len, tid := tid, gfa := BitVec.ofNat 56 (s.ix * 2 ^ 46 + cfgBase + off.toNat),
                      dst := BitVec.ofNat 17 (s.ix * 128), src := BitVec.ofNat 10 s.ix, agent := agCompanion, payload := leBytes 8 v.toNat }
  .next (s.filardConfig p off.toNat)

end Sys2Proof.Machine
end

