-- ==== Sys2Proof/Machine/Doors.lean ====
section
/-!
DEFINITION. The plain requests at their home, in every window of the local map (R47, R53–R55): memory, stakes, tile and engine
doorbells, result slots and the configuration window.
-/
namespace Sys2Proof.Machine

/-- The opcode writes its payload. -/
def writesPlain (op : Nat) : Bool := op == opWRN || op == opWRI

/-- An access to an engine doorbell page; a write's descriptor goes to its engine with the OPCODE it carries, reserved values
included (R53, R156, R265, R289, R309). -/
def State.engineAccess (s : State) (e : Nat) (p0 : Packet) : State :=
  let p := if writesPlain p0.opcode.toNat then p0 else { p0 with payload := [] }
  let op := (p.payload.headD 0).toNat
  match e with
  | 0 => s.travDoor op p
  | 1 => s.tierDoor op p
  | 2 => s.planDoor op p
  | _ => s.pnmDoor op p

/-- A plain request at this home, by the window that its address lies in (R47, R53, R54, R117, R272). -/
def State.plainRequest (s : State) (p : Packet) : State :=
  if gfaHome p.gfa == s.ix then
    match placeOf (gfaOff p.gfa) with
    | .stake _ _ => if writesPlain p.opcode.toNat then s.stakeSset p else s.stakeSread p
    | .tileDoor t _ => s.tileDoor t p
    | .engineDoor e _ => s.engineAccess e p
    | .result v _ _ => if v == 0 then s.slotPlainRead p else if v == 1 then s.slotWaitRead p else s.slotConsumeRead p
    | .config c => s.configAccess p c
    | _ => s.homeRequest p
  else s

/-- RDN (R346): read at its home. -/
def execRdn (p : Packet) (s : State) : Host.Outcome State Fault Refusal := .next (s.plainRequest { p with opcode := BitVec.ofNat 8 opRDN })
/-- WRN (R346): write at its home. -/
def execWrn (p : Packet) (s : State) : Host.Outcome State Fault Refusal := .next (s.plainRequest { p with opcode := BitVec.ofNat 8 opWRN })
/-- RDU (R82): only a home serves it. -/
def execRdu (p : Packet) (s : State) : Host.Outcome State Fault Refusal := .next (s.plainRequest { p with opcode := BitVec.ofNat 8 opRDU })
/-- WRI (R82). -/
def execWri (p : Packet) (s : State) : Host.Outcome State Fault Refusal := .next (s.plainRequest { p with opcode := BitVec.ofNat 8 opWRI })
/-- ATM (R113). -/
def execAtm (p : Packet) (s : State) : Host.Outcome State Fault Refusal := .next (s.plainRequest { p with opcode := BitVec.ofNat 8 opATM })

end Sys2Proof.Machine
end

