-- ==== Sys2Proof/Machine/Startup.lean ====
section
/-!
DEFINITION. The start-up sequence (R497–R505): the events that end its steps, reset-hold, stored settings and boot sets, the end of a
clearance that a boot repeats, the end of a partial reset, and the port's coming up, which the Filard Link's step waits for.
-/
namespace Sys2Proof.Machine

/-! ### Reset-hold (R503) -/

/-- Reset-hold is entered with a cause (R503, R534). -/
def State.hold (s : State) (cause : Nat) : State := ((s.setBit rBootStat 4 true).setFld rBootStat 11 8 cause).ibi

/-- The sequence stands at a step and is not held. -/
def State.atPhase (s : State) (n : Nat) : Bool := s.phase == n && !s.bit rBootStat 4

/-! ### Steps 2 and 3: self-tests, the monument store (R481, R497, R501, R510) -/

def katPass (k : KatResult) : Bool := k.aes && k.sha3 && k.mlKem && k.mlDsa && k.drbg && k.entropy

/-- The active copy is the valid one with the higher GEN, A when both are valid with equal GEN (R510). -/
def Boot.choose (b : Boot) : Boot :=
  { b with activeB := b.b.valid && (!b.a.valid || decide (b.a.gen < b.b.gen)) }

/-- The lifecycle record of the active copy takes effect; states 0 and 5 stand in fuses (R476). -/
def State.loadLife (s : State) : State :=
  let l := s.boot.active.life
  let st := if s.sec.life.state == 0 || s.sec.life.state == 5 then s.sec.life.state else l.state
  { s with sec := { s.sec with life := { l with state := st }, debug := st == 4 && !l.clearing } }

/-- The BOARD section is accepted: its signature verifies, and its key is the owner's (R501). -/
def State.boardOk (s : State) : Bool :=
  let c := s.boot.active
  c.boardOk && s.sec.life.owner == some c.boardKey

/-- Step 3 (R497): the active copy, then the reference record. -/
def State.readStore (s : State) : State :=
  let s1 : State := { s with boot := s.boot.choose }
  if !s1.boot.active.valid then s1.hold 1
  else
    let s2 := s1.loadLife
    if !s2.boot.active.pkgOk then s2.hold 2 else (s2.setBit rBootStat 22 s2.boardOk).setPhase 4

/-- SELF_TESTS_DONE: a failure sets SEC_STAT.ERROR; without ML-DSA-44 or SHA3-256 the ROM will refuse every image (R481, R497). -/
def State.selfTests (s : State) (k : KatResult) : State :=
  if !s.atPhase 2 then s
  else
    let s1 := if katPass k then s else (s.setBit rSecStat 6 true).count pgSec 7
    let s2 : State := { s1 with sec := { s1.sec with romRefuses := !k.sha3 || !k.mlDsa } }
    (s2.setPhase 3).readStore

def execSelfTestsDone (kat : KatResult) (s : State) : Host.Outcome State Fault Refusal := .next (s.selfTests kat)

/-! ### Step 4: built-in self-test (R500–R503) -/

/-- Failing lanes of a port in item 4. -/
def lanePortFails (r : BistResult) (p : Nat) : Nat := ((List.range 5).filter (fun l => r.lanes.getLsbD (5 * p + l))).length

/-- A group of four Filard lanes has no failing lane: 0 lanes 0–3, 1 lanes 4–7 (R502). -/
def filardGroupOk (r : BistResult) (g : Nat) : Bool := (List.range 4).all (fun l => !r.filard.getLsbD (4 * g + l))

/-- BIST_FILARD.GROUP (R502). -/
def filardGroup (r : BistResult) : Nat := (if filardGroupOk r 0 then 1 else 0) + (if filardGroupOk r 1 then 2 else 0)

/-- Item 4 counts as failed (R502). -/
def bistLanesFail (r : BistResult) : Bool := (List.range 128).any (fun p => decide (1 < lanePortFails r p)) || filardGroup r == 0

/-- Lanes that R502 excludes. -/
def bistExcluded (r : BistResult) : Nat :=
  (List.range 128).foldl (fun a p => a + lanePortFails r p) 0 + ((List.range 8).filter (fun l => r.filard.getLsbD l)).length

/-- An item mismatches: the MISR against its section's, item 4 by R502; an item without a flag, or of a section that is not accepted, is
not compared (R501). -/
def State.itemFails (s : State) (r : BistResult) (i : Nat) : Bool :=
  let c := s.boot.active
  let want := if i == 3 then (if s.bit rBootStat 22 then c.boardRef.getD 3 none else none) else c.pkgRef.getD i none
  match want with
  | none => false
  | some m => if i == 4 then bistLanesFail r else m != r.misr.getD i 0

/-- What the BIST page shows (R500, R502). -/
def State.showBist (s : State) (r : BistResult) : State :=
  let s1 := (List.range 6).foldl (fun s i => s.setReg (rBistRes i) (r.misr.getD i 0).toNat) s
  let s2 := (List.range 10).foldl (fun s j => s.setReg (rBistLane j) (r.lanes.toNat / 2 ^ (64 * j) % 2 ^ 64)) s1
  s2.setReg rBistFilard (r.filard.toNat + filardGroup r * 2 ^ 8)

/-- BIST_DONE: any compared item that mismatches enters reset-hold with cause 0x3 (R503). -/
def State.bistDone (s : State) (r : BistResult) : State :=
  if !s.atPhase 4 then s
  else
    let s1 := s.showBist r
    let bad := (List.range 6).filter (fun i => s1.itemFails r i)
    if bad.isEmpty then (s1.count pgBist 2 (bistExcluded r)).setPhase 5
    else ((s1.count pgBist 1 bad.length).setFld rBootStat 21 16 (bad.foldl (fun a i => a + 2 ^ i) 0)).hold 3

def execBistDone (r : BistResult) (s : State) : Host.Outcome State Fault Refusal := .next (s.bistDone r)

/-! ### Step 7: stored settings (R497, R509, R513) -/

/-- The writable bits of a register. -/
def writable (fs : List RegField) : Nat := fs.foldl (fun a f => if f.ty == .ro then a else nsetBits a f.hi f.lo (2 ^ (f.hi + 1 - f.lo) - 1)) 0

/-- The policy area's images up to the first with offset 0: offset and value (R509). -/
def MsCopy.policy (c : MsCopy) : List (Nat × Nat) :=
  ((List.range 1024).map (fun i => (c.word (0xF000 + 16 * i), c.word (0xF008 + 16 * i)))).takeWhile (fun e => e.1 != 0)

/-- One image: written, or skipped with a CONFIG record when it names the security or monument-store page, no register, or a bit that is
RO or reserved (R509). -/
def State.applyImage (s : State) (e : Nat × Nat) : State :=
  let skip := s.record bookChip pgChip clsConfig 2 (aidChip 0x3E0) (e.1 + e.2 * 2 ^ 64)
  match pageOf e.1 with
  | none => skip
  | some p => match s.regDefAt p (e.1 % 0x1000) with
    | none => skip
    | some d =>
      if p.type == 0x02 || p.type == 0x03 || (BitVec.ofNat 64 e.2 &&& ~~~BitVec.ofNat 64 (writable d.fields)) != 0 then skip
      else s.regWrite p (e.1 % 0x1000) (BitVec.ofNat 64 e.2)

/-- The stored word of a port: PORT_ROLE, and AUTO (R509). -/
def MsCopy.portWord (c : MsCopy) (p : Nat) : Nat := c.word (0x1100 + 8 * p)

/-- Registers whose reset column reads "Monument store" take their stored values, of the ports that satisfy a test. -/
def State.applyRoles (s : State) (q : Nat → Bool) : State :=
  ((List.range 128).filter q).foldl (fun s p => s.setReg (rPortRole p) (writeBits [⟨2, 0, .rw, 0⟩, ⟨13, 8, .rw, 0⟩, ⟨20, 16, .rw, 0⟩, ⟨21, 21, .rw, 0⟩] 0
    (s.boot.active.portWord p) false)) s

/-- Step 7 of a whole boot. -/
def State.applyStored (s : State) : State :=
  let c := s.boot.active
  let s1 := s.setReg rGridCfg (writeBits [⟨4, 0, .rw, 0⟩, ⟨12, 8, .rw, 0⟩, ⟨20, 16, .rw, 0⟩, ⟨28, 24, .rw, 0⟩] 0 (c.word 0x1000) false)
  let s2 := (s1.setReg rChipRef (c.word 0x3000)).applyRoles (fun _ => true)
  c.policy.foldl (fun s e => s.applyImage e) s2

/-- Steps 7 and 8: settings, then the four stacks train (R497, R504). -/
def State.bootStep7 (s : State) : State :=
  let s1 := ((s.setPhase 7).applyStored).setPhase 8
  (List.range 4).foldl (fun s r => s.setBit (rHbmStat r) 2 true) s1

/-! ### Steps 5 and 6: images, measurement (R482, R483, R499) -/

/-- The set and channel of a source, as `Boot.sets` keys them (R498, R499). -/
def Boot.sourceKey (b : Boot) (i : ImageSource) : Nat :=
  let pref := if b.active.prefB then 2 else 0
  match i with
  | .preferred0 => pref
  | .preferred8 => pref + 1
  | .other0 => 2 - pref
  | .other8 => 3 - pref

/-- The first source, in the order of R499, that holds a whole set and whose images passed; none when the ROM refuses every image. -/
def State.bootSource (s : State) (pass : List ImageSource) : Option ImageSource :=
  if s.sec.romRefuses then none
  else [ImageSource.preferred0, .preferred8, .other0, .other8].find? (fun i =>
    pass.contains i && kget s.boot.sets (s.boot.sourceKey i) != some none)

/-- The source belongs to the preferred set. -/
def imagePreferred : ImageSource → Bool
  | .preferred0 => true
  | .preferred8 => true
  | .other0 => false
  | .other8 => false

/-- The 256-bit digest i of a list of words. -/
def digestAt (ws : List Word) (i : Nat) : BitVec 256 :=
  BitVec.ofNat 256 ((List.range 4).foldl (fun a k => a + (ws.getD (4 * i + k) 0).toNat * 2 ^ (64 * k)) 0)

/-- MR4 to MR6, CDI and Alias (R483). -/
def State.measureRest (s : State) : State :=
  let c := s.boot.active
  (((s.extendMr 4 (Config.sha3 (c.area 0x1000 0x2000 ++ c.area 0xF000 0x4000))).extendMr 5 s.sec.life.digest).extendMr 6 Config.anchorDigest).deriveCdi

/-- Step 6: an interrupted clearance is repeated before anything levels or runs (R492); otherwise step 7 follows. -/
def State.bootStep6 (s : State) : State :=
  let s1 := (s.setPhase 6).measureRest
  if !s1.sec.life.clearing then s1.bootStep7
  else match s1.sec.clearance with
    | some c => s1.clearBegin c.op c.target c.tenant c.vnonce
    | none => s1.clearBegin 2 1 0 0

/-- IMAGE_VERIFY_DONE (R499). -/
def State.imagesDone (s : State) (pass : List ImageSource) (ds : List Word) : State :=
  if !s.atPhase 5 then s
  else match s.bootSource pass with
    | none => s.hold 4
    | some i =>
      let s1 := s.setBit rBootStat 6 (s.boot.active.prefB == imagePreferred i)
      (((s1.extendMr 1 (digestAt ds 0)).extendMr 2 (digestAt ds 1)).extendMr 3 (digestAt ds 2)).bootStep6

def execImageVerifyDone (pass : List ImageSource) (digests : List Word) (s : State) : Host.Outcome State Fault Refusal :=
  .next (s.imagesDone pass digests)

/-- CLEARANCE_ITEMS_DONE: the clearance ends; one that a boot repeated leads on to step 7 (R491, R492, R497). -/
def State.clearDone (s : State) (st : List (BitVec 8)) (ms : List (BitVec 16)) : State :=
  let s1 := s.clearItems st ms
  if s.atPhase 6 && s.sec.clearance.isSome && s1.sec.clearance.isNone then s1.bootStep7 else s1

def execClearanceItemsDone (status : List (BitVec 8)) (ms : List (BitVec 16)) (s : State) : Host.Outcome State Fault Refusal :=
  .next (s.clearDone status ms)

/-! ### Steps 8 and 9: HBM and the Filard Link (R504, R515) -/

/-- Region r is in reset. -/
def State.regionInReset (s : State) (r : Nat) : Bool := s.boot.inReset.contains (16 + r)

/-- Step 9: the Filard Link levels (R497). -/
def State.levelFilard (s : State) : State := ((s.setPhase 9).setBit (rPortCtl filardLink) 0 true).beginLevelling filardLink

/-- HBM_TRAINING_DONE: the stack is trained, or failed with a TIER record (R504, R506). -/
def State.hbmDone (s : State) (r : Nat) (ok : Bool) (rate margin : Nat) : State :=
  let c := rHbmStat r
  if !s.bit c 2 then s
  else
    let s1 := s.setReg c ((if ok then 1 else 2) + rate * 2 ^ 16 + margin * 2 ^ 32)
    let s2 : State := if ok then { s1 with mem := { s1.mem with failed := if s1.regionInReset r then s1.mem.failed.filter (· != r) else s1.mem.failed } }
                      else s1.record bookChip (pgHbm r) clsTier 2 (aidRegion r 0x120) (3 + r * 2 ^ 32)
    if s2.atPhase 8 && (List.range 4).all (fun i => !s2.bit (rHbmStat i) 2) then s2.levelFilard else s2

def execHbmTrainingDone (r : SliceIx) (ok : Bool) (rate margin : BitVec 16) (s : State) : Host.Outcome State Fault Refusal :=
  .next (s.hbmDone r.val ok rate.toNat margin.toNat)

/-- LVL: the far end's packet; once the Filard Link is up, step 9 ends (R357 steps 6 and 7, R497). -/
def State.lvlStep (s : State) (p : Nat) (b : BitVec 128) : State :=
  let s1 := s.lvl p b
  if p == filardLink && s1.portUp p && !s.portUp p then
    let s2 := s1.filardSet p true
    if s2.atPhase 9 then s2.setPhase 10 else s2
  else s1

def execLvl (p : LinkIx) (body : BitVec 128) (s : State) : Host.Outcome State Fault Refusal := .next (s.lvlStep p.val body)

/-! ### Step 10: flash, boot sets, AUTO levelling (R433, R497, R505) -/

/-- A port whose stored word has AUTO set starts levelling. -/
def State.autoLevel (s : State) (p : Nat) : State :=
  if nbit (s.boot.active.portWord p) 63 then s.portCtlWrite p (BitVec.ofNat 64 (nsetBits (s.reg (rPortCtl p)) 0 0 1)) else s

/-- One valid boot set is applied with BOOT; a set that R434 refuses leaves a CONFIG record that names the parcel and the DETAIL. -/
def State.bootSet (s : State) (n : Nat) : State :=
  let c := s.boot.active
  let w (i : Nat) : Nat := c.word (0x2000 + 64 * n + 8 * i)
  if !nbit (w 7) 63 then s
  else
    let s1 := (List.range 8).foldl (fun s i => s.setReg (rPclCmp n i) (if i == 7 then w 7 % 2 ^ 63 else w i)) s
    let s2 := s1.pclRun n 1
    if (s2.pcl n).compose.isSome then s2
    else s2.note bookChip (pgPcl n) clsConfig 2 aidCompose (n + s2.fld (rPclCmd n) 23 16 * 2 ^ 32) 0 0 (some n)

/-- The end of step 10: boot sets, AUTO ports, and the start-up sequence is over but for the runtime's step 11 (R497, R534). -/
def State.bootEnd (s : State) : State :=
  let s1 := (List.range 64).foldl (fun s n => s.bootSet n) s
  let s2 := (List.range 128).foldl (fun s p => s.autoLevel p) s1
  ((s2.setPhase 12).count pgBist 0).ibi

/-- FLASH_TRAINING_DONE: a channel is trained, with the targets found, or failed (R505). -/
def State.flashDone (s : State) (ch : Nat) (ok : Bool) (targets : Nat) : State :=
  let set (s : State) : State := s.setReg (rFcStat ch) ((if ok then 1 else 2) + targets * 2 ^ 8)
  if s.regionInReset (ch / 4) then set s
  else if !s.atPhase 10 || s.boot.doneParts.contains ch then s
  else
    let s1 := set s
    let s2 : State := { s1 with boot := { s1.boot with doneParts := s1.boot.doneParts ++ [ch] } }
    if 16 ≤ s2.boot.doneParts.length then s2.bootEnd else s2

def execFlashTrainingDone (ch : Fin 16) (ok : Bool) (targets : BitVec 8) (s : State) : Host.Outcome State Fault Refusal :=
  .next (s.flashDone ch.val ok targets.toNat)

/-! ### The end of a partial reset (R507, R508) -/

/-- A region's stack and flash channels have ended their training. -/
def State.regionTrained (s : State) (r : Nat) : Bool :=
  !s.bit (rHbmStat r) 2 && (List.range 4).all (fun i => s.fld (rFcStat (4 * r + i)) 1 0 != 0)

/-- A page belongs to region r: its own pages, and those of its blocks. -/
def pageRegion (r : Nat) (c : Nat) : Bool := inRegion r c || (List.range 4).any (fun i => inBlock (4 * r + i) c)

/-- PARTIAL_RESET_DONE: the blocks and regions serve again. A region takes its share of the stored settings; ports with AUTO level, and
commands that waited for the firmware of a core in the reset run (R466). -/
def State.partialDone (s : State) : State :=
  let ids := s.boot.inReset
  let regions := (ids.filter (16 ≤ ·)).map (· - 16)
  if ids.isEmpty || regions.any (fun r => !s.regionTrained r) then s
  else
    let s1 : State := { s with boot := { s.boot with inReset := [] } }
    let s2 := s1.setBit rRstCtl 35 false
    let s3 := regions.foldl (fun (s : State) r =>
      (s.boot.active.policy.filter (fun e => pageRegion r e.1)).foldl (fun s e => s.applyImage e) (s.applyRoles (fun p => p / 32 == r))) s2
    let mine (p : Nat) : Bool := ids.contains (p / 8) || ids.contains (16 + p / 32)
    (((List.range 128).filter mine).foldl (fun s p => s.autoLevel p) s3).firmwareDone 16

def execPartialResetDone (s : State) : Host.Outcome State Fault Refusal := .next s.partialDone

end Sys2Proof.Machine
end

