-- ==== Sys2Proof/Machine/TileMem.lean ====
section
/-!
DEFINITION. Local memory, remote memory and stakes of a tile context (R221–R226).
-/
namespace Sys2Proof.Machine

/-! ### Local memory (R179, R180, R221, R222) -/

/-- A local read of some spans: an injected error, or a word that cannot be corrected, faults with SRAM_ECC; otherwise it goes on (R200). -/
def State.localRead (s : State) (t c : Nat) (spans : List (Nat × Nat)) (f : State → State) : State :=
  let ws := spanWords spans
  match s.sramInject t c with
  | some s1 => (s1.count (pgTile t) 13).ctxFault t c fltSramEcc
  | none => if (s.tile t).badWords ws then (s.count (pgTile t) 13).ctxFault t c fltSramEcc else f (s.scrub t ws)

def State.sram (s : State) (t a n : Nat) : List Byte := memRead (s.tile t).sram a n

/-- The spans that the selected bytes of a 128 B access read. -/
def selSpans (a : Nat) (p : Option (BitVec 128)) : List (Nat × Nat) :=
  match p with
  | none => [(a, 128)]
  | some b => ((List.range 128).filter (fun i => b.getLsbD i)).map (fun i => (a + i, 1))

/-- The selected bytes of a 128 B access lie in the data area (R179, R210). -/
def State.bytesOk (s : State) (t a : Nat) (p : Option (BitVec 128)) : Bool :=
  (List.range 128).all (fun i => !selOf p 8 i || s.inData t (a + i) 1)

/-- VLD of type XCB-BF16: the group's elements, or the error value and XD for a damaged block (R222). -/
def xcbGroup (r : Except XcbDamage (List Nat)) (g i : Nat) : Nat :=
  match r with
  | .error _ => 0xFFFF
  | .ok es => es.getD (64 * g + i) 0

def isDamaged (r : Except XcbDamage (List Nat)) : Bool :=
  match r with
  | .error _ => true
  | .ok _ => false

/-- VLD (R221, R222). -/
def execVld (t : TileIx) (c : CtxIx) (s : State) : Host.Outcome State Fault Refusal :=
  .next (s.issueOp t c 0x10 (fun s x =>
    let y := s.ctx t c
    let (a, y1) := y.addr x
    let p := y.pred x
    if x.dt == 0 then
      if !s.bytesOk t a.toNat p then s.ctxFault t c fltLocalRange
      else s.localRead t c (selSpans a.toNat p) (fun s =>
        let d := vmap 8 128 p (y.rv x.dst) (fun i => ((memGet (s.tile t).sram (a.toNat + i)).toNat, 0))
        s.retire t c (y1.wv x.dst d.1))
    else
      let head := s.sram t a.toNat 40
      if !s.inData t a.toNat 40 || !s.inData t a.toNat (xcbClen head) then s.ctxFault t c fltLocalRange
      else s.localRead t c [(a.toNat, max 40 (xcbClen head))] (fun s =>
        let r := xcbDecode (s.sram t a.toNat (max 40 (xcbClen head)))
        let d := vmap 16 64 p (y.rv x.dst) (fun i => (xcbGroup r (nbits x.imm 21 17) i, 0))
        let y2 := y1.wv x.dst d.1
        s.retire t c (if isDamaged r then y2.flag 16 else y2))))

/-- VST (R221). -/
def execVst (t : TileIx) (c : CtxIx) (s : State) : Host.Outcome State Fault Refusal :=
  .next (s.issueOp t c 0x11 (fun s x =>
    let y := s.ctx t c
    let (a, y1) := y.addr x
    let p := y.pred x
    if !s.bytesOk t a.toNat p then s.ctxFault t c fltLocalRange
    else
      let mask := match p with
        | some b => b.toNat
        | none => 2 ^ 128 - 1
      let s1 := if p.isNone then s.sramWrite t a.toNat (vbytes (y.rv x.s2))
                else s.setTile t { s.tile t with sram := memWriteMask (s.tile t).sram a.toNat 0 mask (vbytes (y.rv x.s2)) }
      s1.retire t c y1))

/-- The address of element i of a VGATH: low bits below w ignored (R221). -/
def gatherAddr (a : Word) (w idx : Nat) : Nat := (a.toNat + idx * w) / w * w

/-- VGATH (R221). -/
def execVgath (t : TileIx) (c : CtxIx) (s : State) : Host.Outcome State Fault Refusal :=
  .next (s.issueOp t c 0x12 (fun s x =>
    let y := s.ctx t c
    let a := (y.addr x).1
    let w := elemBits x.dt
    let p := y.pred x
    let at' (i : Nat) : Nat := gatherAddr a (w / 8) (vget (y.rv x.s2) 16 i)
    if (List.range (elemCount x.dt)).any (fun i => selOf p w i && !s.inData t (at' i) (w / 8)) then s.ctxFault t c fltLocalRange
    else s.localRead t c (((List.range (elemCount x.dt)).filter (selOf p w)).map (fun i => (at' i, w / 8))) (fun s =>
      let d := vmap w (elemCount x.dt) p (y.rv x.dst) (fun i => (leNat (s.sram t (at' i) (w / 8)), 0))
      s.retire t c (y.wv x.dst d.1))))

/-- SLD (R221). -/
def execSld (t : TileIx) (c : CtxIx) (s : State) : Host.Outcome State Fault Refusal :=
  .next (s.issueOp t c 0x13 (fun s x =>
    let (a, y1) := (s.ctx t c).addr x
    let b := a.toNat / 8 * 8
    if !s.inData t b 8 then s.ctxFault t c fltLocalRange
    else s.localRead t c [(b, 8)] (fun s => s.retire t c (y1.ws x.dst (BitVec.ofNat 64 (leNat (s.sram t b 8)))))))

/-- SST (R221). -/
def execSst (t : TileIx) (c : CtxIx) (s : State) : Host.Outcome State Fault Refusal :=
  .next (s.issueOp t c 0x14 (fun s x =>
    let y := s.ctx t c
    let (a, y1) := y.addr x
    let b := a.toNat / 8 * 8
    if !s.inData t b 8 then s.ctxFault t c fltLocalRange
    else (s.sramWrite t b (leBytes 8 (y.rs x.s2).toNat)).retire t c y1))

/-! ### Remote memory (R183, R186, R223–R225) -/

/-- A remote instruction finds no slot: the context waits and issues it again (R183, R186). -/
def State.noSlot (s : State) (t c : Nat) : State :=
  (s.setCtx t c { s.ctx t c with state := .waitRemote, slotWait := true }).count (pgTile t) 6

/-- The context leaves the issue slot to wait for an access (R183). -/
def State.waits (s : State) (t c : Nat) (y : Ctx) : State :=
  s.retire t c { y with state := .waitRemote, gather := 0, gatherFlags := 0 }

/-- The address of line i of an access, modulo 2^56 (R223). -/
def lineGfa (a : Nat) (i : Nat) : BitVec 56 := BitVec.ofNat 56 (a / 128 * 128 + 128 * i)

/-- The lines of one access lie in one 4 KiB page (R49, R223). -/
def onePage (a n : Nat) : Bool := a / 0x1000 == (a / 128 * 128 + 128 * n - 1) / 0x1000

/-- The lines of an RLD or RGATH, one after the other. -/
def State.loadLines (s : State) (t c : Nat) (byp : Bool) : List (BitVec 56 × RemoteUse) → State
  | [] => s
  | (g, u) :: rest => (s.loadLine t c g byp u).loadLines t c byp rest

/-- RLD (R223, R225). -/
def execRld (t : TileIx) (c : CtxIx) (s : State) : Host.Outcome State Fault Refusal :=
  .next (s.issueOp t c 0x18 (fun s x =>
    let y := s.ctx t c
    let (a, y1) := y.addr x
    let a := a.toNat % 2 ^ 56
    let n := nbits x.imm 19 17 + 1
    if !s.slotsFor t c n then s.noSlot t c
    else
      let reqs : List (BitVec 56 × RemoteUse) :=
        if isV x.dst then (List.range n).map (fun i => (lineGfa a i, RemoteUse.loadV (x.dst + i)))
        else [(BitVec.ofNat 56 (a / 8 * 8), RemoteUse.loadS x.dst (a % 128 / 8 * 8))]
      let s1 := s.waits t c y1
      let s2 := if onePage a n then s1.loadLines t c (nbit x.imm 20) reqs
                else s1.setCtx t c (reqs.foldl (fun z r => z.loaded r.2 stUnsupported 0 []) (s1.ctx t c))
      s2.accessEnds t c))

/-- RGATH: the line at address + idx × 128 for each j (R223). -/
def execRgath (t : TileIx) (c : CtxIx) (s : State) : Host.Outcome State Fault Refusal :=
  .next (s.issueOp t c 0x1B (fun s x =>
    let y := s.ctx t c
    let a := (y.addr x).1.toNat % 2 ^ 56
    let n := nbits x.imm 19 17 + 1
    if !s.slotsFor t c n then s.noSlot t c
    else
      let reqs := (List.range n).map (fun j => (lineGfa (a + 128 * vget (y.rv x.s2) 32 j) 0, RemoteUse.loadV (x.dst + j)))
      ((s.waits t c y).loadLines t c (nbit x.imm 20) reqs).accessEnds t c))

/-- The lines of an RST, one after the other. -/
def State.storeLinesOf (s : State) (t c : Nat) : List (BitVec 56 × BitVec 128 × BitVec 1024) → State
  | [] => s
  | (g, m, d) :: rest => (s.storeLineOf t c g m d).storeLinesOf t c rest

/-- The lines, masks and bytes of an RST (R223). -/
def Ctx.rstLines (y : Ctx) (x : TWord) (a : Nat) : List (BitVec 56 × BitVec 128 × BitVec 1024) :=
  if isV x.s2 then
    let m := match y.pred x with
      | some b => b
      | none => BitVec.allOnes 128
    (List.range (nbits x.imm 19 17 + 1)).map (fun i => (lineGfa a i, m, y.rv (x.s2 + i)))
  else
    let o := a % 128 / 8 * 8
    [(lineGfa a 0, BitVec.ofNat 128 (255 * 2 ^ o), BitVec.ofNat 1024 ((y.rs x.s2).toNat * 2 ^ (8 * o)))]

/-- RST: the stores are accepted at once into the block's egress queue, and their completions are counted later (R183, R188, R223). -/
def execRst (t : TileIx) (c : CtxIx) (s : State) : Host.Outcome State Fault Refusal :=
  .next (s.issueOp t c 0x19 (fun s x =>
    let y := s.ctx t c
    let (a, y1) := y.addr x
    let a := a.toNat % 2 ^ 56
    let n := nbits x.imm 19 17 + 1
    if !s.slotsFor t c n then s.noSlot t c
    else
      let s1 := s.retire t c { y1 with state := .ready }
      if onePage a n then s1.storeLinesOf t c (y.rstLines x a)
      else
        let z := s1.ctx t c
        s1.setCtx t c { z with fence := kmod z.fence (a / 2 ^ 46) (0, 0) (fun f => (f.1, worse f.2 stUnsupported)) }))

/-- RATOM: one word at its home (R224). -/
def execRatom (t : TileIx) (c : CtxIx) (s : State) : Host.Outcome State Fault Refusal :=
  .next (s.issueOp t c 0x1A (fun s x =>
    let y := s.ctx t c
    let w := if nbit x.imm 21 then 4 else 8
    let a := (y.addr x).1.toNat % 2 ^ 56 / w * w
    if !s.slotsFor t c 1 then s.noSlot t c
    else
      let s1 := s.waits t c y
      if s.tlcFailed (t / 16) then
        let z := (s1.ctx t c).ws x.dst (BitVec.allOnes 64)
        (s1.setCtx t c { z.rstat stPoison with gather := stPoison, fence := kmod z.fence (a / 2 ^ 46) (0, 0) (fun f => (f.1, worse f.2 stPoison)) }).accessEnds t c
      else
        let payload := leBytes 8 (y.rs x.s2).toNat ++ leBytes 8 (y.rs x.s3).toNat ++
          leBytes 8 (nbits x.imm 19 17 + (if nbit x.imm 21 then 8 else 0))
        (s1.count (pgTile t) 5).ctxSend t c opATM (BitVec.ofNat 56 a) 24 payload none (.atomic x.dst (a / 2 ^ 46))))

/-! ### Stakes (R226) -/

/-- SREL: fences at its scope, then sends the release, or completes locally on a failed fence (R128, R226). -/
def execSrel (t : TileIx) (c : CtxIx) (s : State) : Host.Outcome State Fault Refusal :=
  .next (s.issueOp t c 0x20 (fun s x =>
    let y := s.ctx t c
    if !s.slotsFor t c 1 then s.noSlot t c
    else
      let f := (x.dst, BitVec.ofNat 56 (y.rs x.s1).toNat, y.rs x.s2, BitVec.ofNat 2 (nbits x.imm 1 0))
      (s.retire t c { y with state := .waitStake, fencing := some f }).fenceEnds t c))

/-- SACQ: sends the acquire; the context waits for its completion (R226). -/
def execSacq (t : TileIx) (c : CtxIx) (s : State) : Host.Outcome State Fault Refusal :=
  .next (s.issueOp t c 0x21 (fun s x =>
    let y := s.ctx t c
    if !s.slotsFor t c 1 then s.noSlot t c
    else
      let scope := BitVec.ofNat 2 (nbits x.imm 1 0)
      (s.retire t c { y with state := .waitStake }).ctxSend t c opSACQ (BitVec.ofNat 56 (y.rs x.s1).toNat) 16
        (leBytes 8 (y.rs x.s2).toNat ++ leBytes 8 (scope.toNat + nbits x.imm 17 2 * 2 ^ 16)) none (.sacq x.dst scope)))

end Sys2Proof.Machine
end

