-- ==== Sys2Proof/Machine/TileVector.lean ====
section
/-!
DEFINITION. Vector arithmetic, conversion, exact accumulation, compare and filter (R214–R220).
-/
namespace Sys2Proof.Machine

/-! ### Vector arithmetic (R214, R215) -/

/-- The element that an RI immediate gives (R215). -/
def immElem (dt imm : Nat) : Nat :=
  match dt with
  | 0 => imm * 256
  | 9 => ((BitVec.ofNat 24 imm).signExtend 32).toNat
  | 1 => imm % 2 ^ 16
  | 2 => imm % 2 ^ 16
  | _ => imm % 2 ^ 8

/-- Element i of source 1 (Z1 reads as zero), and of source 2 by format (R207, R215). -/
def Ctx.src1 (y : Ctx) (x : TWord) (i : Nat) : Nat :=
  if x.fmt != 2 && nbit x.imm 4 then 0 else vget (y.rv x.s1) (elemBits x.dt) i
def Ctx.src2 (y : Ctx) (x : TWord) (i : Nat) : Nat :=
  if x.fmt == 0 then vget (y.rv x.s2) (elemBits x.dt) i
  else if x.fmt == 1 then (y.rs x.s2).toNat % 2 ^ elemBits x.dt
  else immElem x.dt x.imm

/-- A modifier bit of formats R and RS (R215). -/
def TWord.mod (x : TWord) (i : Nat) : Bool := x.fmt != 2 && nbit x.imm i

/-- The new Vd of a vector operation, and its flags (R210, R214, R215). -/
def Ctx.vecOp (y : Ctx) (x : TWord) (op : VOp) : BitVec 1024 × Nat :=
  let p := if op == .fma then (if x.fmt == 2 then none else y.predImm x) else y.pred x
  vmap (elemBits x.dt) (elemCount x.dt) p (y.rv x.dst) (fun i =>
    elemOp op x.dt (x.mod 3) (x.mod 0) (x.mod 1) (x.mod 2) (y.src1 x i) (y.src2 x i) (vget (y.rv x.s3) (elemBits x.dt) i))

/-- A vector operation of a context: Vd and the flags (R214). -/
def State.vecOp (s : State) (t c op : Nat) (o : VOp) : State :=
  s.issueOp t c op (fun s x =>
    let y := s.ctx t c
    s.retire t c ((y.wv x.dst (y.vecOp x o).1).flag (y.vecOp x o).2))

/-- VADD (R214). -/
def execVadd (t : TileIx) (c : CtxIx) (s : State) : Host.Outcome State Fault Refusal := .next (s.vecOp t c 0x01 .add)
/-- VMUL (R214). -/
def execVmul (t : TileIx) (c : CtxIx) (s : State) : Host.Outcome State Fault Refusal := .next (s.vecOp t c 0x02 .mul)
/-- VFMA (R214). -/
def execVfma (t : TileIx) (c : CtxIx) (s : State) : Host.Outcome State Fault Refusal := .next (s.vecOp t c 0x03 .fma)
/-- VMAX (R214). -/
def execVmax (t : TileIx) (c : CtxIx) (s : State) : Host.Outcome State Fault Refusal := .next (s.vecOp t c 0x04 .max)
/-- VMIN (R214). -/
def execVmin (t : TileIx) (c : CtxIx) (s : State) : Host.Outcome State Fault Refusal := .next (s.vecOp t c 0x05 .min)

/-- VCVT: Vd, the scale register of an MX destination, and the flags (R216). -/
def Ctx.vcvt (y : Ctx) (x : TWord) : Ctx :=
  let src := nbits x.imm 3 0
  let scale := if x.s3 == 0 then 0 else y.rs x.s3
  let r := convert src x.dt (nbits x.imm 6 4) (y.rv x.dst) (y.rv x.s1) scale
  let y1 := (y.wv x.dst r.1).flag r.2.2
  if (mxFmt x.dt).isSome then y1.ws x.s3 r.2.1 else y1

def execVcvt (t : TileIx) (c : CtxIx) (s : State) : Host.Outcome State Fault Refusal :=
  .next (s.issueOp t c 0x06 (fun s x => s.retire t c ((s.ctx t c).vcvt x)))

/-! ### Exact accumulation (R217, R218) -/

def State.lane (s : State) (t l : Nat) : Lane := kgetD (s.tile t).lanes l {}
def State.setLane (s : State) (t l : Nat) (x : Lane) : State := s.setTile t { s.tile t with lanes := kset (s.tile t).lanes l x }

/-- The selected elements that XACC adds, with the relative lane of each (R217). -/
def Ctx.xaccElems (y : Ctx) (x : TWord) : List (Nat × Nat) :=
  let w := elemBits x.dt
  let lane := nbits x.imm 3 0
  let idx := if nbit x.imm 11 then (List.range (elemCount x.dt)).map (fun i => (lane, i))
             else (List.range (nbits x.imm 7 4 + 1)).map (fun j => (lane + j, nbits x.imm 10 8 * 16 + j))
  (idx.filter (fun e => selOf (y.pred x) w e.2)).map (fun e => (e.1, vget (y.rv x.s1) w e.2))

/-- Adds elements to the lanes of a context; the flags gather (R247). -/
def State.addLanes (s : State) (t : Nat) (phys : List Nat) (f : Fmt) (neg : Bool) : List (Nat × Nat) → State × Nat
  | [] => (s, 0)
  | (l, e) :: rest =>
    let k := phys.getD l 0
    let r := (s.lane t k).add (f.decode e) neg (BitVec.ofNat 320 (s.freeNat 320))
    let s1 := (s.setLane t k r.1).took
    let q := s1.addLanes t phys f neg rest
    (q.1, q.2 ||| r.2)

/-- XACC: adds elements exactly into lanes; a lane outside the allocation faults (R217). -/
def execXacc (t : TileIx) (c : CtxIx) (s : State) : Host.Outcome State Fault Refusal :=
  .next (s.issueOp t c 0x08 (fun s x =>
    let y := s.ctx t c
    let n := if nbit x.imm 11 then 1 else nbits x.imm 7 4 + 1
    if nbits x.imm 3 0 + n > y.lanes.length then s.ctxFault t c fltAccRange
    else match fpFmt x.dt with
      | none => s
      | some f =>
        let r := s.addLanes t y.lanes f (nbit x.imm 12) (y.xaccElems x)
        r.1.retire t c ((r.1.ctx t c).flag r.2)))

/-- Clears lanes of a tile (R246). -/
def State.clearLanes (s : State) (t : Nat) : List Nat → State
  | [] => s
  | l :: rest => (s.setLane t l (s.lane t l).cleared).clearLanes t rest

/-- XRD in value mode: the new Vd and the flags (R217, R248). -/
def State.xrdValue (s : State) (t : Nat) (y : Ctx) (x : TWord) (f : Fmt) : BitVec 1024 × Nat :=
  let w := elemBits x.dt
  let n := nbits x.imm 7 4 + 1
  let rs := (List.range n).map (fun j => (s.lane t (y.lanes.getD (nbits x.imm 3 0 + j) 0)).read f)
  (vsplice (y.rv x.dst) w (elemCount x.dt) (nbits x.imm 10 8 * 16) (rs.map Prod.fst), rs.foldl (fun a r => a ||| r.2) 0)

/-- XRD: reads lanes, rounded once or raw, and may clear them (R217, R248). -/
def execXrd (t : TileIx) (c : CtxIx) (s : State) : Host.Outcome State Fault Refusal :=
  .next (s.issueOp t c 0x09 (fun s x =>
    let y := s.ctx t c
    let raw := nbit x.imm 12
    let lane := nbits x.imm 3 0
    let n := if raw then 1 else nbits x.imm 7 4 + 1
    if lane + n > y.lanes.length then s.ctxFault t c fltAccRange
    else
      let phys := (List.range n).map (fun j => y.lanes.getD (lane + j) 0)
      let y1 :=
        if raw then
          let word := nbits x.imm 15 13
          y.ws x.dst (BitVec.ofNat 64 ((s.lane t (phys.getD 0 0)).sum.toNat / 2 ^ (64 * word)))
        else match fpFmt x.dt with
          | none => y
          | some f => (y.wv x.dst (s.xrdValue t y x f).1).flag (s.xrdValue t y x f).2
      let s1 := if nbit x.imm 11 then s.clearLanes t phys else s
      s1.retire t c y1))

/-! ### Compare and filter (R219, R220) -/

/-- The predicate that VCMP writes: every bit that governs a byte of an element whose test holds (R219). -/
def Ctx.vcmp (y : Ctx) (x : TWord) : BitVec 128 :=
  let w := elemBits x.dt
  BitVec.ofNat 128 (((List.range 128).filter (fun b =>
    let i := 8 * b / w
    selOf (y.pred x) w i && elemCmp (nbits x.imm 2 0) x.dt (vget (y.rv x.s1) w i) (y.src2 x i))).foldl (fun a b => a + 2 ^ b) 0)

/-- VCMP (R219). -/
def execVcmp (t : TileIx) (c : CtxIx) (s : State) : Host.Outcome State Fault Refusal :=
  .next (s.issueOp t c 0x0C (fun s x => s.retire t c ((s.ctx t c).wp x.dst ((s.ctx t c).vcmp x))))

/-- VCOMPACT: the selected elements in ascending order, then zeros (R219). -/
def Ctx.vcompact (y : Ctx) (x : TWord) : BitVec 1024 :=
  let w := elemBits x.dt
  vpack w (((List.range (elemCount x.dt)).filter (selOf (y.pred x) w)).map (vget (y.rv x.s1) w))

def execVcompact (t : TileIx) (c : CtxIx) (s : State) : Host.Outcome State Fault Refusal :=
  .next (s.issueOp t c 0x0D (fun s x => s.retire t c ((s.ctx t c).wv x.dst ((s.ctx t c).vcompact x))))

/-- An entry of a top-K list goes before another: larger value, then smaller index (R220). -/
def topBefore (f : Fmt) (a b : Nat × Nat) : Bool :=
  let x := f.decode a.1
  let y := f.decode b.1
  !(x.le y) || (y.le x && decide (a.2 < b.2))

/-- Inserts an entry into a descending list, after its equals. -/
def topInsert (f : Fmt) (a : Nat × Nat) : List (Nat × Nat) → List (Nat × Nat)
  | [] => [a]
  | b :: rest => if topBefore f a b then a :: b :: rest else b :: topInsert f a rest

/-- −∞ of a format. -/
def negInfCode (f : Fmt) : Nat := f.sign true + f.maxCode + 1

/-- VTOPK: the new list of values and indices (R220). -/
def Ctx.vtopk (y : Ctx) (x : TWord) (f : Fmt) : List (Nat × Nat) :=
  let k := nbits x.imm 6 0
  let old := if nbit x.imm 7 then [] else (List.range k).map (fun j => (vget (y.rv x.s2) 16 j, vget (y.rv (x.s2 + 1)) 16 j))
  let b := (y.rs x.s3).toNat
  let cand := ((List.range 64).filter (selOf (y.predImm x) 16)).map (fun i => (vget (y.rv x.s1) 16 i, (b + i) % 2 ^ 16))
  let all := (old ++ cand).filter (fun e => !(f.decode e.1).isNan)
  let sorted := (all.foldl (fun l e => topInsert f e l) []).take k
  sorted ++ List.replicate (64 - sorted.length) (negInfCode f, 0xFFFF)

/-- VTOPK (R220). -/
def execVtopk (t : TileIx) (c : CtxIx) (s : State) : Host.Outcome State Fault Refusal :=
  .next (s.issueOp t c 0x0E (fun s x =>
    let y := s.ctx t c
    match fpFmt x.dt with
    | none => s
    | some f =>
      let l := y.vtopk x f
      s.retire t c ((y.wv x.dst (vpack 16 (l.map Prod.fst))).wv (x.dst + 1) (vpack 16 (l.map Prod.snd)))))

end Sys2Proof.Machine
end

