-- ==== Sys2Proof/Machine/Dispatch.lean ====
section
/-!
DEFINITION. The dispatch: one arm per command of the table, each one direct call of its meaning.
-/
namespace Sys2Proof.Machine

/-- The effect of a command on everything but the queue of waiting commands. -/
def exec (i : Instr) (s : State) : Host.Outcome State Fault Refusal :=
  match i with
  | .configWrite off len v tid => Sys2Proof.Machine.execConfigWrite off len v tid s
  | .inBandConfigAccess p => Sys2Proof.Machine.execInBandConfigAccess p s
  | .rdn p => Sys2Proof.Machine.execRdn p s
  | .wrn p => Sys2Proof.Machine.execWrn p s
  | .atm p => Sys2Proof.Machine.execAtm p s
  | .rds p => Sys2Proof.Machine.execRds p s
  | .rdo p => Sys2Proof.Machine.execRdo p s
  | .upg p => Sys2Proof.Machine.execUpg p s
  | .rdu p => Sys2Proof.Machine.execRdu p s
  | .wri p => Sys2Proof.Machine.execWri p s
  | .evc p => Sys2Proof.Machine.execEvc p s
  | .wbk p => Sys2Proof.Machine.execWbk p s
  | .rpq p => Sys2Proof.Machine.execRpq p s
  | .sni p => Sys2Proof.Machine.execSni p s
  | .snd p => Sys2Proof.Machine.execSnd p s
  | .snf p => Sys2Proof.Machine.execSnf p s
  | .spi p => Sys2Proof.Machine.execSpi p s
  | .cmp p => Sys2Proof.Machine.execCmp p s
  | .sak p lost => Sys2Proof.Machine.execSak p lost s
  | .sda p lost => Sys2Proof.Machine.execSda p lost s
  | .memWriteAccepted n line => Sys2Proof.Machine.execMemWriteAccepted n line s
  | .homeMemoryReadDone n line => Sys2Proof.Machine.execHomeMemoryReadDone n line s
  | .backingFetchDone n line => Sys2Proof.Machine.execBackingFetchDone n line s
  | .conflictQueueDequeue n => Sys2Proof.Machine.execConflictQueueDequeue n s
  | .replWindowEnd n => Sys2Proof.Machine.execReplWindowEnd n s
  | .replicaDrop n page => Sys2Proof.Machine.execReplicaDrop n page s
  | .snoopTimeout n line holder => Sys2Proof.Machine.execSnoopTimeout n line holder s
  | .deadSweepDone n => Sys2Proof.Machine.execDeadSweepDone n s
  | .cadDeadClear n v => Sys2Proof.Machine.execCadDeadClear n v s
  | .cadSeverClear n j v => Sys2Proof.Machine.execCadSeverClear n j v s
  | .entryEccError n lines => Sys2Proof.Machine.execEntryEccError n lines s
  | .cadEnable n v => Sys2Proof.Machine.execCadEnable n v s
  | .cadProbe n v => Sys2Proof.Machine.execCadProbe n v s
  | .stakeSrel p => Sys2Proof.Machine.execStakeSrel p s
  | .stakeSacq p => Sys2Proof.Machine.execStakeSacq p s
  | .stakeSset p => Sys2Proof.Machine.execStakeSset p s
  | .stakeSread p => Sys2Proof.Machine.execStakeSread p s
  | .sacqWake r => Sys2Proof.Machine.execSacqWake r s
  | .sacqExpiry k => Sys2Proof.Machine.execSacqExpiry k s
  | .stkProbe v => Sys2Proof.Machine.execStkProbe v s
  | .stakeEccError k => Sys2Proof.Machine.execStakeEccError k s
  | .publish p => Sys2Proof.Machine.execPublish p s
  | .drn p => Sys2Proof.Machine.execDrn p s
  | .drnReturn p => Sys2Proof.Machine.execDrnReturn p s
  | .commitT1We on => Sys2Proof.Machine.execCommitT1We on s
  | .commitT2We on => Sys2Proof.Machine.execCommitT2We on s
  | .tqLimitWrite v => Sys2Proof.Machine.execTqLimitWrite v s
  | .tcEnable v => Sys2Proof.Machine.execTcEnable v s
  | .ocreate p => Sys2Proof.Machine.execOcreate p s
  | .odelete p => Sys2Proof.Machine.execOdelete p s
  | .owrite p => Sys2Proof.Machine.execOwrite p s
  | .oread p => Sys2Proof.Machine.execOread p s
  | .copy p => Sys2Proof.Machine.execCopy p s
  | .flush p => Sys2Proof.Machine.execFlush p s
  | .pin p => Sys2Proof.Machine.execPin p s
  | .unpin p => Sys2Proof.Machine.execUnpin p s
  | .oquery p => Sys2Proof.Machine.execOquery p s
  | .tierCommandEnd k => Sys2Proof.Machine.execTierCommandEnd k s
  | .doorbellHoldTimeout k => Sys2Proof.Machine.execDoorbellHoldTimeout k s
  | .heldDoorbellAccepted k => Sys2Proof.Machine.execHeldDoorbellAccepted k s
  | .cacheFillDone frame => Sys2Proof.Machine.execCacheFillDone frame s
  | .writeBackDone frame => Sys2Proof.Machine.execWriteBackDone frame s
  | .t1QuotaHoldTimeout k => Sys2Proof.Machine.execT1QuotaHoldTimeout k s
  | .unitProgramDone k => Sys2Proof.Machine.execUnitProgramDone k s
  | .tlMountStart v => Sys2Proof.Machine.execTlMountStart v s
  | .tlMountDone blank => Sys2Proof.Machine.execTlMountDone blank s
  | .tlMapLost => Sys2Proof.Machine.execTlMapLost s
  | .wearLevelMigration block target => Sys2Proof.Machine.execWearLevelMigration block target s
  | .refreshMigration block target => Sys2Proof.Machine.execRefreshMigration block target s
  | .blockRetire block target => Sys2Proof.Machine.execBlockRetire block target s
  | .backgroundEraseDone block => Sys2Proof.Machine.execBackgroundEraseDone block s
  | .runDescriptor t p => Sys2Proof.Machine.execRunDescriptor t p s
  | .loadKernelDescriptor t p => Sys2Proof.Machine.execLoadKernelDescriptor t p s
  | .loadDataDescriptor t p => Sys2Proof.Machine.execLoadDataDescriptor t p s
  | .contextStart t => Sys2Proof.Machine.execContextStart t s
  | .contextDrainDone t c => Sys2Proof.Machine.execContextDrainDone t c s
  | .remoteCompletion p => Sys2Proof.Machine.execRemoteCompletion p s
  | .quantumExpiry t c => Sys2Proof.Machine.execQuantumExpiry t c s
  | .tileWatchdogExpiry t c => Sys2Proof.Machine.execTileWatchdogExpiry t c s
  | .contextKill t mask => Sys2Proof.Machine.execContextKill t mask s
  | .tileZero t => Sys2Proof.Machine.execTileZero t s
  | .tileZeroDone t => Sys2Proof.Machine.execTileZeroDone t s
  | .tileSramWrite t v => Sys2Proof.Machine.execTileSramWrite t v s
  | .tileLineCacheFail n => Sys2Proof.Machine.execTileLineCacheFail n s
  | .illegalInstruction t c => Sys2Proof.Machine.execIllegalInstruction t c s
  | .vadd t c => Sys2Proof.Machine.execVadd t c s
  | .vmul t c => Sys2Proof.Machine.execVmul t c s
  | .vfma t c => Sys2Proof.Machine.execVfma t c s
  | .vmax t c => Sys2Proof.Machine.execVmax t c s
  | .vmin t c => Sys2Proof.Machine.execVmin t c s
  | .vcvt t c => Sys2Proof.Machine.execVcvt t c s
  | .xacc t c => Sys2Proof.Machine.execXacc t c s
  | .xrd t c => Sys2Proof.Machine.execXrd t c s
  | .vcmp t c => Sys2Proof.Machine.execVcmp t c s
  | .vcompact t c => Sys2Proof.Machine.execVcompact t c s
  | .vtopk t c => Sys2Proof.Machine.execVtopk t c s
  | .vld t c => Sys2Proof.Machine.execVld t c s
  | .vst t c => Sys2Proof.Machine.execVst t c s
  | .vgath t c => Sys2Proof.Machine.execVgath t c s
  | .sld t c => Sys2Proof.Machine.execSld t c s
  | .sst t c => Sys2Proof.Machine.execSst t c s
  | .rld t c => Sys2Proof.Machine.execRld t c s
  | .rst t c => Sys2Proof.Machine.execRst t c s
  | .ratom t c => Sys2Proof.Machine.execRatom t c s
  | .rgath t c => Sys2Proof.Machine.execRgath t c s
  | .srel t c => Sys2Proof.Machine.execSrel t c s
  | .sacq t c => Sys2Proof.Machine.execSacq t c s
  | .sadd t c => Sys2Proof.Machine.execSadd t c s
  | .ssub t c => Sys2Proof.Machine.execSsub t c s
  | .smul t c => Sys2Proof.Machine.execSmul t c s
  | .sand t c => Sys2Proof.Machine.execSand t c s
  | .sor t c => Sys2Proof.Machine.execSor t c s
  | .sxor t c => Sys2Proof.Machine.execSxor t c s
  | .sshl t c => Sys2Proof.Machine.execSshl t c s
  | .sshr t c => Sys2Proof.Machine.execSshr t c s
  | .ssra t c => Sys2Proof.Machine.execSsra t c s
  | .smin t c => Sys2Proof.Machine.execSmin t c s
  | .smax t c => Sys2Proof.Machine.execSmax t c s
  | .scmp t c => Sys2Proof.Machine.execScmp t c s
  | .smov t c => Sys2Proof.Machine.execSmov t c s
  | .sli t c => Sys2Proof.Machine.execSli t c s
  | .slih t c => Sys2Proof.Machine.execSlih t c s
  | .sget t c => Sys2Proof.Machine.execSget t c s
  | .sput t c => Sys2Proof.Machine.execSput t c s
  | .spcnt t c => Sys2Proof.Machine.execSpcnt t c s
  | .pfirst t c => Sys2Proof.Machine.execPfirst t c s
  | .sstat t c => Sys2Proof.Machine.execSstat t c s
  | .sclrf t c => Sys2Proof.Machine.execSclrf t c s
  | .scyc t c => Sys2Proof.Machine.execScyc t c s
  | .br t c => Sys2Proof.Machine.execBr t c s
  | .loopDec t c => Sys2Proof.Machine.execLoopDec t c s
  | .yield t c => Sys2Proof.Machine.execYield t c s
  | .endCtx t c => Sys2Proof.Machine.execEndCtx t c s
  | .stfree t c => Sys2Proof.Machine.execStfree t c s
  | .nop t c => Sys2Proof.Machine.execNop t c s
  | .planLaunch p => Sys2Proof.Machine.execPlanLaunch p s
  | .planStop p => Sys2Proof.Machine.execPlanStop p s
  | .planStopDone job plan => Sys2Proof.Machine.execPlanStopDone job plan s
  | .planRebind p => Sys2Proof.Machine.execPlanRebind p s
  | .cold p => Sys2Proof.Machine.execCold p s
  | .stepDeadline job plan stage step => Sys2Proof.Machine.execStepDeadline job plan stage step s
  | .slotFillDone slot => Sys2Proof.Machine.execSlotFillDone slot s
  | .slotPlainRead p => Sys2Proof.Machine.execSlotPlainRead p s
  | .slotWaitRead p => Sys2Proof.Machine.execSlotWaitRead p s
  | .slotWaitReadServed k => Sys2Proof.Machine.execSlotWaitReadServed k s
  | .slotWaitReadTimeout k => Sys2Proof.Machine.execSlotWaitReadTimeout k s
  | .slotConsumeRead p => Sys2Proof.Machine.execSlotConsumeRead p s
  | .resultHoldRelease slot => Sys2Proof.Machine.execResultHoldRelease slot s
  | .gatherStepStart job plan timedOut => Sys2Proof.Machine.execGatherStepStart job plan timedOut s
  | .pnmAdd p => Sys2Proof.Machine.execPnmAdd p s
  | .pnmMul p => Sys2Proof.Machine.execPnmMul p s
  | .pnmFma p => Sys2Proof.Machine.execPnmFma p s
  | .pnmAct p => Sys2Proof.Machine.execPnmAct p s
  | .pnmAcceptance m => Sys2Proof.Machine.execPnmAcceptance m s
  | .pnmDispatch m cmdid => Sys2Proof.Machine.execPnmDispatch m cmdid s
  | .pna p => Sys2Proof.Machine.execPna p s
  | .pnaTimeout m cmdid => Sys2Proof.Machine.execPnaTimeout m cmdid s
  | .moduleInitDone p => Sys2Proof.Machine.execModuleInitDone p s
  | .traverseStart p => Sys2Proof.Machine.execTraverseStart p s
  | .traverseStop p => Sys2Proof.Machine.execTraverseStop p s
  | .bmk p => Sys2Proof.Machine.execBmk p s
  | .benchmarkInject v => Sys2Proof.Machine.execBenchmarkInject v s
  | .legSendPoint k => Sys2Proof.Machine.execLegSendPoint k s
  | .trvd p info => Sys2Proof.Machine.execTrvd p info s
  | .legWritesDone k done => Sys2Proof.Machine.execLegWritesDone k done s
  | .trvr p => Sys2Proof.Machine.execTrvr p s
  | .runaheadFillStart k => Sys2Proof.Machine.execRunaheadFillStart k s
  | .runaheadFillDone k leg => Sys2Proof.Machine.execRunaheadFillDone k leg s
  | .traverseStallTimeout k => Sys2Proof.Machine.execTraverseStallTimeout k s
  | .legMemberTimeout k member => Sys2Proof.Machine.execLegMemberTimeout k member s
  | .xcEncode v => Sys2Proof.Machine.execXcEncode v s
  | .xcVerify v => Sys2Proof.Machine.execXcVerify v s
  | .xcRunDone => Sys2Proof.Machine.execXcRunDone s
  | .frameSend p => Sys2Proof.Machine.execFrameSend p s
  | .frameReceive p f => Sys2Proof.Machine.execFrameReceive p f s
  | .levellingStart p v => Sys2Proof.Machine.execLevellingStart p v s
  | .portDisable p v => Sys2Proof.Machine.execPortDisable p v s
  | .carrierCheckDone p ok => Sys2Proof.Machine.execCarrierCheckDone p ok s
  | .laneTrainingDone p ok => Sys2Proof.Machine.execLaneTrainingDone p ok s
  | .laneQualifyDone p tx rx => Sys2Proof.Machine.execLaneQualifyDone p tx rx s
  | .alignmentLock p ok => Sys2Proof.Machine.execAlignmentLock p ok s
  | .lvl p body => Sys2Proof.Machine.execLvl p body s
  | .levellingRetry p => Sys2Proof.Machine.execLevellingRetry p s
  | .hello p body => Sys2Proof.Machine.execHello p body s
  | .cert p body => Sys2Proof.Machine.execCert p body s
  | .kemkey p body => Sys2Proof.Machine.execKemkey p body s
  | .kemct p body => Sys2Proof.Machine.execKemct p body s
  | .finish p body => Sys2Proof.Machine.execFinish p body s
  | .abort p body => Sys2Proof.Machine.execAbort p body s
  | .berWindowEnd p lane count => Sys2Proof.Machine.execBerWindowEnd p lane count s
  | .laneFail p lane => Sys2Proof.Machine.execLaneFail p lane s
  | .swapRequest p lane => Sys2Proof.Machine.execSwapRequest p lane s
  | .swapLock p => Sys2Proof.Machine.execSwapLock p s
  | .swapTimeout p => Sys2Proof.Machine.execSwapTimeout p s
  | .swapNow p v => Sys2Proof.Machine.execSwapNow p v s
  | .rekey p v => Sys2Proof.Machine.execRekey p v s
  | .rekeyInterval p => Sys2Proof.Machine.execRekeyInterval p s
  | .portDown p cause => Sys2Proof.Machine.execPortDown p cause s
  | .linkIdleTimeout p => Sys2Proof.Machine.execLinkIdleTimeout p s
  | .lsr p => Sys2Proof.Machine.execLsr p s
  | .unprovenLossTimeout p => Sys2Proof.Machine.execUnprovenLossTimeout p s
  | .packetIngress src p => Sys2Proof.Machine.execPacketIngress src p s
  | .cellAdmit p vc => Sys2Proof.Machine.execCellAdmit p vc s
  | .schedulerRound => Sys2Proof.Machine.execSchedulerRound s
  | .ageSweep => Sys2Proof.Machine.execAgeSweep s
  | .sampleRecordWritten => Sys2Proof.Machine.execSampleRecordWritten s
  | .classRsvWrite v => Sys2Proof.Machine.execClassRsvWrite v s
  | .gradeUpdate => Sys2Proof.Machine.execGradeUpdate s
  | .meterRefill => Sys2Proof.Machine.execMeterRefill s
  | .meterConfig cfg1 v => Sys2Proof.Machine.execMeterConfig cfg1 v s
  | .shaperRefill => Sys2Proof.Machine.execShaperRefill s
  | .shaperConfig v => Sys2Proof.Machine.execShaperConfig v s
  | .gateEntryTransition p => Sys2Proof.Machine.execGateEntryTransition p s
  | .gateListEnable p v => Sys2Proof.Machine.execGateListEnable p v s
  | .gateListChange p v => Sys2Proof.Machine.execGateListChange p v s
  | .gateEntryWrite v => Sys2Proof.Machine.execGateEntryWrite v s
  | .ethFrame p f => Sys2Proof.Machine.execEthFrame p f s
  | .rdmaWriteFirst p k => Sys2Proof.Machine.execRdmaWriteFirst p k s
  | .rdmaWriteMiddle p k => Sys2Proof.Machine.execRdmaWriteMiddle p k s
  | .rdmaWriteLast p k => Sys2Proof.Machine.execRdmaWriteLast p k s
  | .rdmaWriteOnly p k => Sys2Proof.Machine.execRdmaWriteOnly p k s
  | .rdmaWriteLastWithImmediate p k => Sys2Proof.Machine.execRdmaWriteLastWithImmediate p k s
  | .rdmaWriteOnlyWithImmediate p k => Sys2Proof.Machine.execRdmaWriteOnlyWithImmediate p k s
  | .rdmaReadRequest p k => Sys2Proof.Machine.execRdmaReadRequest p k s
  | .cnp p k => Sys2Proof.Machine.execCnp p k s
  | .roceRateIncrease qp => Sys2Proof.Machine.execRoceRateIncrease qp s
  | .pfcFrame p prios quanta => Sys2Proof.Machine.execPfcFrame p prios quanta s
  | .pfcRefresh p q => Sys2Proof.Machine.execPfcRefresh p q s
  | .pfcConfig p v => Sys2Proof.Machine.execPfcConfig p v s
  | .roceEnable v => Sys2Proof.Machine.execRoceEnable v s
  | .qpCreate v => Sys2Proof.Machine.execQpCreate v s
  | .qpQuery v => Sys2Proof.Machine.execQpQuery v s
  | .qpFail v => Sys2Proof.Machine.execQpFail v s
  | .qpDestroy v => Sys2Proof.Machine.execQpDestroy v s
  | .qpDestroyDone qp => Sys2Proof.Machine.execQpDestroyDone qp s
  | .qpcFetchDone p qp => Sys2Proof.Machine.execQpcFetchDone p qp s
  | .mrRegister v => Sys2Proof.Machine.execMrRegister v s
  | .mrRevoke v => Sys2Proof.Machine.execMrRevoke v s
  | .mrRevokeTimeout k => Sys2Proof.Machine.execMrRevokeTimeout k s
  | .mrQuery v => Sys2Proof.Machine.execMrQuery v s
  | .rawTx v => Sys2Proof.Machine.execRawTx v s
  | .ethLinkDown p => Sys2Proof.Machine.execEthLinkDown p s
  | .sakInstall v => Sys2Proof.Machine.execSakInstall v s
  | .boot n => Sys2Proof.Machine.execBoot n s
  | .compose n => Sys2Proof.Machine.execCompose n s
  | .activate n => Sys2Proof.Machine.execActivate n s
  | .release n => Sys2Proof.Machine.execRelease n s
  | .clearDegraded n => Sys2Proof.Machine.execClearDegraded n s
  | .compositionGrantsEffect n => Sys2Proof.Machine.execCompositionGrantsEffect n s
  | .releaseDone n => Sys2Proof.Machine.execReleaseDone n s
  | .extCreate n v => Sys2Proof.Machine.execExtCreate n v s
  | .extRevoke n v => Sys2Proof.Machine.execExtRevoke n v s
  | .extQuery n v => Sys2Proof.Machine.execExtQuery n v s
  | .extentRevokeDrained e => Sys2Proof.Machine.execExtentRevokeDrained e s
  | .occupancyTick r => Sys2Proof.Machine.execOccupancyTick r s
  | .usageSnap n v => Sys2Proof.Machine.execUsageSnap n v s
  | .trackerTimeout k => Sys2Proof.Machine.execTrackerTimeout k s
  | .twinBeat col => Sys2Proof.Machine.execTwinBeat col s
  | .twinBeatMiss col => Sys2Proof.Machine.execTwinBeatMiss col s
  | .handover col count => Sys2Proof.Machine.execHandover col count s
  | .mirrorWrite col page m => Sys2Proof.Machine.execMirrorWrite col page m s
  | .mirrorAnswer col kind opref gen mseq => Sys2Proof.Machine.execMirrorAnswer col kind opref gen mseq s
  | .takeoverFenceEnd col => Sys2Proof.Machine.execTakeoverFenceEnd col s
  | .bringInCommit col kind opref gen mseq => Sys2Proof.Machine.execBringInCommit col kind opref gen mseq s
  | .mgmtWatchdogExpiry k => Sys2Proof.Machine.execMgmtWatchdogExpiry k s
  | .firmwareRestartDone k => Sys2Proof.Machine.execFirmwareRestartDone k s
  | .heartbeat v => Sys2Proof.Machine.execHeartbeat v s
  | .companionLost => Sys2Proof.Machine.execCompanionLost s
  | .fieldBookEvent b => Sys2Proof.Machine.execFieldBookEvent b s
  | .coalesceClose b cls source => Sys2Proof.Machine.execCoalesceClose b cls source s
  | .spillMove => Sys2Proof.Machine.execSpillMove s
  | .fbTailWrite b v => Sys2Proof.Machine.execFbTailWrite b v s
  | .hbmStackFail r => Sys2Proof.Machine.execHbmStackFail r s
  | .claim blk => Sys2Proof.Machine.execClaim blk s
  | .clear blk => Sys2Proof.Machine.execClear blk s
  | .debugCmd blk => Sys2Proof.Machine.execDebugCmd blk s
  | .decommission blk => Sys2Proof.Machine.execDecommission blk s
  | .report blk => Sys2Proof.Machine.execReport blk s
  | .certs blk => Sys2Proof.Machine.execCerts blk s
  | .extend blk => Sys2Proof.Machine.execExtend blk s
  | .newOwner blk => Sys2Proof.Machine.execNewOwner blk s
  | .clearanceItemsDone status ms => Sys2Proof.Machine.execClearanceItemsDone status ms s
  | .entropyHealthFail => Sys2Proof.Machine.execEntropyHealthFail s
  | .coldReset why => Sys2Proof.Machine.execColdReset why s
  | .coldResetRelease strap => Sys2Proof.Machine.execColdResetRelease strap s
  | .pllLock => Sys2Proof.Machine.execPllLock s
  | .bistDone r => Sys2Proof.Machine.execBistDone r s
  | .imageVerifyDone pass digests => Sys2Proof.Machine.execImageVerifyDone pass digests s
  | .hbmTrainingDone r ok rate margin => Sys2Proof.Machine.execHbmTrainingDone r ok rate margin s
  | .flashTrainingDone ch ok targets => Sys2Proof.Machine.execFlashTrainingDone ch ok targets s
  | .warmReset v => Sys2Proof.Machine.execWarmReset v s
  | .regionReset r => Sys2Proof.Machine.execRegionReset r s
  | .blockReset n => Sys2Proof.Machine.execBlockReset n s
  | .partialResetDone => Sys2Proof.Machine.execPartialResetDone s
  | .hbmRetrain r => Sys2Proof.Machine.execHbmRetrain r s
  | .msLoad v => Sys2Proof.Machine.execMsLoad v s
  | .msStore v => Sys2Proof.Machine.execMsStore v s
  | .msStoreDone ok => Sys2Proof.Machine.execMsStoreDone ok s
  | .msImage v => Sys2Proof.Machine.execMsImage v s
  | .msStgDataWrite v => Sys2Proof.Machine.execMsStgDataWrite v s
  | .refclkLoss r => Sys2Proof.Machine.execRefclkLoss r s
  | .refclkRestored => Sys2Proof.Machine.execRefclkRestored s
  | .thermtrip => Sys2Proof.Machine.execThermtrip s
  | .tempUpdate temps => Sys2Proof.Machine.execTempUpdate temps s
  | .laserFault slot low => Sys2Proof.Machine.execLaserFault slot low s
  | .powerEstimate r watts => Sys2Proof.Machine.execPowerEstimate r watts s
  | .tileFreqStep => Sys2Proof.Machine.execTileFreqStep s
  | .powerFloorEvent => Sys2Proof.Machine.execPowerFloorEvent s
  | .interruptRaise => Sys2Proof.Machine.execInterruptRaise s
  | .intPendClear j v => Sys2Proof.Machine.execIntPendClear j v s
  | .intMaskWrite j v => Sys2Proof.Machine.execIntMaskWrite j v s
  | .errSumClear page v => Sys2Proof.Machine.execErrSumClear page v s
  | .counterClear page => Sys2Proof.Machine.execCounterClear page s
  | .perturbOff page v => Sys2Proof.Machine.execPerturbOff page v s
  | .perturbDelay page v => Sys2Proof.Machine.execPerturbDelay page v s
  | .perturbBackpressure page v => Sys2Proof.Machine.execPerturbBackpressure page v s
  | .perturbGateJitter page v => Sys2Proof.Machine.execPerturbGateJitter page v s
  | .perturbInject page v => Sys2Proof.Machine.execPerturbInject page v s
  | .i3cWarm v => Sys2Proof.Machine.execI3cWarm v s
  | .i3cDynamicAddress a => Sys2Proof.Machine.execI3cDynamicAddress a s
  | .selfTestsDone kat => Sys2Proof.Machine.execSelfTestsDone kat s
  | .ethLinkUp p => Sys2Proof.Machine.execEthLinkUp p s
  | .pfcPauseExpiry p q => Sys2Proof.Machine.execPfcPauseExpiry p q s
  | .jtagInstruction j => Sys2Proof.Machine.execJtagInstruction j s
  | .msImageDone ok => Sys2Proof.Machine.execMsImageDone ok s
  | .i3cIbiDisable disabled => Sys2Proof.Machine.execI3cIbiDisable disabled s

end Sys2Proof.Machine
end

