-- ==== Sys2Proof/WellFormed.lean ====
section
/-!
DEFINITION. Well-formed commands: the bounds that the formats of packets, frames, command blocks and measurement results give their
fields (R338–R344, R347, R351, R407, R478, R491, R497, R500, R555). `exec` is total and asks for none of them.
-/
namespace Sys2Proof

/-- A packet as a link carries it: a class and a level that exist, and at most one page of payload (R339, R346, R347). -/
def Packet.wf (p : Packet) : Bool :=
  decide (p.cls.toNat < 6) && decide (p.hop.toNat < 3) && decide (p.len ≤ 4096) && decide (p.payload.length ≤ 4096)

/-- A received frame: 8 lanes at most, each with a quarter of the 7,920 levels of three codewords at most (R349, R350, R515). -/
def RxFrame.wf (f : RxFrame) : Bool := decide (f.lanes.length ≤ 8) && f.lanes.all (fun l => decide (l.length ≤ 1980))

/-- An Ethernet frame: a RoCE payload of at most the largest PMTU, 4,096 B (R407). -/
def EthFrame.wf (f : EthFrame) : Bool := decide (f.roce.payload.length ≤ 4096)

/-- A command block: a key of 1,312 B and a signature of 2,420 B at most (R478). -/
def SecBlock.wf (b : SecBlock) : Bool := decide (b.ownerPk.length ≤ 1312) && decide (b.signature.length ≤ 2420)

/-- Six MISRs (R500). -/
def BistResult.wf (r : BistResult) : Bool := r.misr.length == 6

/-- A leg writes at least one byte, and its window's stake exists (R53, R308). -/
def LegInfo.wf (i : LegInfo) : Bool := decide (0 < i.bytes) && decide (i.stake < 16384)

/-- A twin record's visible action names what exists: a stake, a result slot, a traverse, a QP (R53, R271, R303, R412). -/
def TwinAct.wf : TwinAct → Bool
  | .releaseSet stake _ => decide (stake < 16384)
  | .slotLines slot _ _ _ data => decide (slot < 4096) && decide (data.length ≤ 4096)
  | .leg trav => decide (trav < 16)
  | .publish p => p.wf
  | .readResponse qp => decide (qp < 65536)

def TwinRecord.wf (m : TwinRecord) : Bool := m.act.all TwinAct.wf && m.sends.all Packet.wf

/-- Qualified lanes: each at most once, and one of the link's lanes: 8 of the Filard Link, 5 of a port (R338, R515). -/
def lanesWf (p : LinkIx) (l : List Nat) : Bool := decide l.Nodup && l.all (fun i => decide (i < (if p.val = 128 then 8 else 5)))

/-- The command's operands lie in the ranges of their formats. -/
def Instr.wf : Instr → Bool
  | .configWrite _ _ _ _ => true
  | .inBandConfigAccess p => p.wf
  | .rdn p => p.wf
  | .wrn p => p.wf
  | .atm p => p.wf
  | .rds p => p.wf
  | .rdo p => p.wf
  | .upg p => p.wf
  | .rdu p => p.wf
  | .wri p => p.wf
  | .evc p => p.wf
  | .wbk p => p.wf
  | .rpq p => p.wf
  | .sni p => p.wf
  | .snd p => p.wf
  | .snf p => p.wf
  | .spi p => p.wf
  | .cmp p => p.wf
  | .sak p _ => p.wf
  | .sda p _ => p.wf
  | .memWriteAccepted _ _ => true
  | .homeMemoryReadDone _ _ => true
  | .backingFetchDone _ _ => true
  | .conflictQueueDequeue _ => true
  | .replWindowEnd _ => true
  | .replicaDrop _ _ => true
  | .snoopTimeout _ _ _ => true
  | .deadSweepDone _ => true
  | .cadDeadClear _ _ => true
  | .cadSeverClear _ _ _ => true
  | .entryEccError _ _ => true
  | .cadEnable _ _ => true
  | .cadProbe _ _ => true
  | .stakeSrel p => p.wf
  | .stakeSacq p => p.wf
  | .stakeSset p => p.wf
  | .stakeSread p => p.wf
  | .sacqWake _ => true
  | .sacqExpiry _ => true
  | .stkProbe _ => true
  | .stakeEccError _ => true
  | .publish p => p.wf
  | .drn p => p.wf
  | .drnReturn p => p.wf
  | .commitT1We _ => true
  | .commitT2We _ => true
  | .tqLimitWrite _ => true
  | .tcEnable _ => true
  | .ocreate p => p.wf
  | .odelete p => p.wf
  | .owrite p => p.wf
  | .oread p => p.wf
  | .copy p => p.wf
  | .flush p => p.wf
  | .pin p => p.wf
  | .unpin p => p.wf
  | .oquery p => p.wf
  | .tierCommandEnd _ => true
  | .doorbellHoldTimeout _ => true
  | .heldDoorbellAccepted _ => true
  | .cacheFillDone _ => true
  | .writeBackDone _ => true
  | .t1QuotaHoldTimeout _ => true
  | .unitProgramDone _ => true
  | .tlMountStart _ => true
  | .tlMountDone _ => true
  | .tlMapLost => true
  | .wearLevelMigration _ _ => true
  | .refreshMigration _ _ => true
  | .blockRetire _ _ => true
  | .backgroundEraseDone _ => true
  | .runDescriptor _ p => p.wf
  | .loadKernelDescriptor _ p => p.wf
  | .loadDataDescriptor _ p => p.wf
  | .contextStart _ => true
  | .contextDrainDone _ _ => true
  | .remoteCompletion p => p.wf
  | .quantumExpiry _ _ => true
  | .tileWatchdogExpiry _ _ => true
  | .contextKill _ _ => true
  | .tileZero _ => true
  | .tileZeroDone _ => true
  | .tileSramWrite _ _ => true
  | .tileLineCacheFail _ => true
  | .illegalInstruction _ _ => true
  | .vadd _ _ => true
  | .vmul _ _ => true
  | .vfma _ _ => true
  | .vmax _ _ => true
  | .vmin _ _ => true
  | .vcvt _ _ => true
  | .xacc _ _ => true
  | .xrd _ _ => true
  | .vcmp _ _ => true
  | .vcompact _ _ => true
  | .vtopk _ _ => true
  | .vld _ _ => true
  | .vst _ _ => true
  | .vgath _ _ => true
  | .sld _ _ => true
  | .sst _ _ => true
  | .rld _ _ => true
  | .rst _ _ => true
  | .ratom _ _ => true
  | .rgath _ _ => true
  | .srel _ _ => true
  | .sacq _ _ => true
  | .sadd _ _ => true
  | .ssub _ _ => true
  | .smul _ _ => true
  | .sand _ _ => true
  | .sor _ _ => true
  | .sxor _ _ => true
  | .sshl _ _ => true
  | .sshr _ _ => true
  | .ssra _ _ => true
  | .smin _ _ => true
  | .smax _ _ => true
  | .scmp _ _ => true
  | .smov _ _ => true
  | .sli _ _ => true
  | .slih _ _ => true
  | .sget _ _ => true
  | .sput _ _ => true
  | .spcnt _ _ => true
  | .pfirst _ _ => true
  | .sstat _ _ => true
  | .sclrf _ _ => true
  | .scyc _ _ => true
  | .br _ _ => true
  | .loopDec _ _ => true
  | .yield _ _ => true
  | .endCtx _ _ => true
  | .stfree _ _ => true
  | .nop _ _ => true
  | .planLaunch p => p.wf
  | .planStop p => p.wf
  | .planStopDone _ _ => true
  | .planRebind p => p.wf
  | .cold p => p.wf
  | .stepDeadline _ _ _ _ => true
  | .slotFillDone _ => true
  | .slotPlainRead p => p.wf
  | .slotWaitRead p => p.wf
  | .slotWaitReadServed _ => true
  | .slotWaitReadTimeout _ => true
  | .slotConsumeRead p => p.wf
  | .resultHoldRelease _ => true
  | .gatherStepStart _ _ _ => true
  | .pnmAdd p => p.wf
  | .pnmMul p => p.wf
  | .pnmFma p => p.wf
  | .pnmAct p => p.wf
  | .pnmAcceptance _ => true
  | .pnmDispatch _ _ => true
  | .pna p => p.wf
  | .pnaTimeout _ _ => true
  | .moduleInitDone _ => true
  | .traverseStart p => p.wf
  | .traverseStop p => p.wf
  | .bmk p => p.wf
  | .benchmarkInject _ => true
  | .legSendPoint _ => true
  | .trvd p info => p.wf && info.wf
  | .legWritesDone _ _ => true
  | .trvr p => p.wf
  | .runaheadFillStart _ => true
  | .runaheadFillDone _ _ => true
  | .traverseStallTimeout _ => true
  | .legMemberTimeout _ _ => true
  | .xcEncode _ => true
  | .xcVerify _ => true
  | .xcRunDone => true
  | .frameSend _ => true
  | .frameReceive _ f => f.wf
  | .levellingStart _ _ => true
  | .portDisable _ _ => true
  | .carrierCheckDone _ _ => true
  | .laneTrainingDone _ _ => true
  | .laneQualifyDone p tx rx => lanesWf p tx && lanesWf p rx
  | .alignmentLock _ _ => true
  | .lvl _ _ => true
  | .levellingRetry _ => true
  | .hello _ body => decide (body.length ≤ 4096)
  | .cert _ body => decide (body.length ≤ 4096)
  | .kemkey _ body => decide (body.length ≤ 4096)
  | .kemct _ body => decide (body.length ≤ 4096)
  | .finish _ body => decide (body.length ≤ 4096)
  | .abort _ body => decide (body.length ≤ 4096)
  | .berWindowEnd _ _ _ => true
  | .laneFail _ _ => true
  | .swapRequest _ _ => true
  | .swapLock _ => true
  | .swapTimeout _ => true
  | .swapNow _ _ => true
  | .rekey _ _ => true
  | .rekeyInterval _ => true
  | .portDown _ _ => true
  | .linkIdleTimeout _ => true
  | .lsr p => p.wf
  | .unprovenLossTimeout _ => true
  | .packetIngress _ p => p.wf
  | .cellAdmit _ _ => true
  | .schedulerRound => true
  | .ageSweep => true
  | .sampleRecordWritten => true
  | .classRsvWrite _ => true
  | .gradeUpdate => true
  | .meterRefill => true
  | .meterConfig _ _ => true
  | .shaperRefill => true
  | .shaperConfig _ => true
  | .gateEntryTransition _ => true
  | .gateListEnable _ _ => true
  | .gateListChange _ _ => true
  | .gateEntryWrite _ => true
  | .ethFrame _ f => f.wf
  | .rdmaWriteFirst _ _ => true
  | .rdmaWriteMiddle _ _ => true
  | .rdmaWriteLast _ _ => true
  | .rdmaWriteOnly _ _ => true
  | .rdmaWriteLastWithImmediate _ _ => true
  | .rdmaWriteOnlyWithImmediate _ _ => true
  | .rdmaReadRequest _ _ => true
  | .cnp _ _ => true
  | .roceRateIncrease _ => true
  | .pfcFrame _ _ quanta => quanta.length == 8
  | .pfcRefresh _ _ => true
  | .pfcConfig _ _ => true
  | .roceEnable _ => true
  | .qpCreate _ => true
  | .qpQuery _ => true
  | .qpFail _ => true
  | .qpDestroy _ => true
  | .qpDestroyDone _ => true
  | .qpcFetchDone _ _ => true
  | .mrRegister _ => true
  | .mrRevoke _ => true
  | .mrRevokeTimeout _ => true
  | .mrQuery _ => true
  | .rawTx _ => true
  | .ethLinkDown _ => true
  | .sakInstall _ => true
  | .boot _ => true
  | .compose _ => true
  | .activate _ => true
  | .release _ => true
  | .clearDegraded _ => true
  | .compositionGrantsEffect _ => true
  | .releaseDone _ => true
  | .extCreate _ _ => true
  | .extRevoke _ _ => true
  | .extQuery _ _ => true
  | .extentRevokeDrained _ => true
  | .occupancyTick _ => true
  | .usageSnap _ _ => true
  | .trackerTimeout _ => true
  | .twinBeat _ => true
  | .twinBeatMiss _ => true
  | .handover _ _ => true
  | .mirrorWrite _ _ m => m.wf
  | .mirrorAnswer _ _ _ _ _ => true
  | .takeoverFenceEnd _ => true
  | .bringInCommit _ _ _ _ _ => true
  | .mgmtWatchdogExpiry _ => true
  | .firmwareRestartDone _ => true
  | .heartbeat _ => true
  | .companionLost => true
  | .fieldBookEvent _ => true
  | .coalesceClose _ _ _ => true
  | .spillMove => true
  | .fbTailWrite _ _ => true
  | .hbmStackFail _ => true
  | .claim blk => blk.wf
  | .clear blk => blk.wf
  | .debugCmd blk => blk.wf
  | .decommission blk => blk.wf
  | .report blk => blk.wf
  | .certs blk => blk.wf
  | .extend blk => blk.wf
  | .newOwner blk => blk.wf
  | .clearanceItemsDone status ms => status.length == 6 && ms.length == 6
  | .entropyHealthFail => true
  | .coldReset _ => true
  | .coldResetRelease _ => true
  | .pllLock => true
  | .bistDone r => r.wf
  | .imageVerifyDone pass digests => decide pass.Nodup && digests.length == 12
  | .hbmTrainingDone _ _ _ _ => true
  | .flashTrainingDone _ _ _ => true
  | .warmReset _ => true
  | .regionReset _ => true
  | .blockReset _ => true
  | .partialResetDone => true
  | .hbmRetrain _ => true
  | .msLoad _ => true
  | .msStore _ => true
  | .msStoreDone _ => true
  | .msImage _ => true
  | .msStgDataWrite _ => true
  | .refclkLoss _ => true
  | .refclkRestored => true
  | .thermtrip => true
  | .tempUpdate temps => temps.length == 4
  | .laserFault _ _ => true
  | .powerEstimate _ watts => decide (watts < 4096)
  | .tileFreqStep => true
  | .powerFloorEvent => true
  | .interruptRaise => true
  | .intPendClear _ _ => true
  | .intMaskWrite _ _ => true
  | .errSumClear _ _ => true
  | .counterClear _ => true
  | .perturbOff _ _ => true
  | .perturbDelay _ _ => true
  | .perturbBackpressure _ _ => true
  | .perturbGateJitter _ _ => true
  | .perturbInject _ _ => true
  | .i3cWarm _ => true
  | .i3cDynamicAddress _ => true
  | .selfTestsDone _ => true
  | .ethLinkUp _ => true
  | .pfcPauseExpiry _ _ => true
  | .jtagInstruction _ => true
  | .msImageDone _ => true
  | .i3cIbiDisable _ => true

end Sys2Proof
end

