-- ==== Sys2Proof/Safety.lean ====
section
/-!
DEFINITION. What claims say of states: the canonical form of the plain data, which makes equal machines equal data, and what a run
leaves alone.
-/
namespace Sys2Proof.Machine

/-- The keys of a table rise strictly from `lo` on. -/
def risesFrom {α : Type} (lo : Nat) : KMap α → Bool
  | [] => true
  | (k, _) :: rest => decide (lo ≤ k) && risesFrom (k + 1) rest

/-- The keys of a table rise strictly. -/
def KMap.wf {α : Type} (m : KMap α) : Bool := risesFrom 0 m

/-- The canonical form of the state: memory lists no zero byte and no address twice (R47, R48); each register and each arbiter has at most
one value listed (R21, R521). -/
structure State.Canon (s : State) : Prop where
  mem : Memory.wf s.mem.cells = true
  regs : KMap.wf s.regs = true
  seqs : KMap.wf s.seqs = true

/-- The parts of a state that a frame names. -/
inductive Part where
  | pending | regs | seqs | free | mem | extents | revoking | cad | stk | paths | tier | tiles | tlc | tlcDown | coll | pnm | trav | xc | links | sw | traf | roce | parcels | recov | sec | nonce | boot | mgmt | out
  deriving DecidableEq, Repr

/-- Two states agree in a part. -/
def Part.same (s t : State) : Part → Prop
  | .pending => t.pending = s.pending
  | .regs => t.regs = s.regs
  | .seqs => t.seqs = s.seqs
  | .free => t.free = s.free
  | .mem => t.mem = s.mem
  | .extents => t.extents = s.extents
  | .revoking => t.revoking = s.revoking
  | .cad => t.cad = s.cad
  | .stk => t.stk = s.stk
  | .paths => t.paths = s.paths
  | .tier => t.tier = s.tier
  | .tiles => t.tiles = s.tiles
  | .tlc => t.tlc = s.tlc
  | .tlcDown => t.tlcDown = s.tlcDown
  | .coll => t.coll = s.coll
  | .pnm => t.pnm = s.pnm
  | .trav => t.trav = s.trav
  | .xc => t.xc = s.xc
  | .links => t.links = s.links
  | .sw => t.sw = s.sw
  | .traf => t.traf = s.traf
  | .roce => t.roce = s.roce
  | .parcels => t.parcels = s.parcels
  | .recov => t.recov = s.recov
  | .sec => t.sec = s.sec
  | .nonce => t.nonce = s.nonce
  | .boot => t.boot = s.boot
  | .mgmt => t.mgmt = s.mgmt
  | .out => t.out = s.out

/-- The number of a part, in the order of the state's fields. -/
def Part.ix : Part → Nat
  | .pending => 0
  | .regs => 1
  | .seqs => 2
  | .free => 3
  | .mem => 4
  | .extents => 5
  | .revoking => 6
  | .cad => 7
  | .stk => 8
  | .paths => 9
  | .tier => 10
  | .tiles => 11
  | .tlc => 12
  | .tlcDown => 13
  | .coll => 14
  | .pnm => 15
  | .trav => 16
  | .xc => 17
  | .links => 18
  | .sw => 19
  | .traf => 20
  | .roce => 21
  | .parcels => 22
  | .recov => 23
  | .sec => 24
  | .nonce => 25
  | .boot => 26
  | .mgmt => 27
  | .out => 28

/-- Every part but some. -/
def allBut (l : List Part) : List Part :=
  [.regs, .seqs, .free, .mem, .extents, .revoking, .cad, .stk, .paths, .tier, .tiles, .tlc, .tlcDown, .coll, .pnm, .trav, .xc, .links, .sw, .traf, .roce, .parcels, .recov, .sec, .nonce, .boot, .mgmt, .out].filter (fun q => !l.contains q)

/-- The parts that a command may change: whatever its operands and the state, it changes nothing else. -/
def touches (c : Instr) : List Part :=
  match c with
  | .configWrite .. | .inBandConfigAccess .. | .rdn .. | .wrn .. | .atm .. | .rdu .. | .wri .. | .clearanceItemsDone .. | .coldReset ..
  | .imageVerifyDone .. | .warmReset .. | .regionReset .. | .blockReset .. | .partialResetDone | .refclkLoss .. | .thermtrip
  | .i3cWarm .. => allBut []
  | .rds .. | .rdo .. | .upg .. | .evc .. | .wbk .. | .rpq ..
    => [.regs, .seqs, .free, .mem, .extents, .cad, .tier, .tlc, .trav, .links, .parcels, .recov, .mgmt, .out]
  | .sni .. | .snd .. | .snf .. | .spi .. => [.regs, .seqs, .cad, .tlc, .links, .out]
  | .cmp .. | .trackerTimeout .. => allBut [.extents, .revoking, .paths, .tlcDown, .traf, .parcels, .nonce, .boot]
  | .sak .. | .sda .. | .memWriteAccepted .. | .homeMemoryReadDone .. | .backingFetchDone ..
    => [.regs, .seqs, .mem, .cad, .tier, .tlc, .trav, .links, .recov, .mgmt, .out]
  | .conflictQueueDequeue .. => [.regs, .seqs, .free, .mem, .cad, .tier, .tlc, .trav, .links, .recov, .mgmt, .out]
  | .replWindowEnd .. => [.regs, .cad]
  | .replicaDrop .. => [.cad]
  | .snoopTimeout .. | .companionLost => [.regs, .seqs, .mem, .cad, .stk, .tier, .tlc, .trav, .links, .recov, .mgmt, .out]
  | .deadSweepDone .. | .cadEnable .. => [.regs, .seqs, .cad, .recov, .mgmt]
  | .cadDeadClear .. | .cadSeverClear .. | .cadProbe .. | .stkProbe .. | .commitT1We .. | .commitT2We .. | .tileSramWrite ..
  | .classRsvWrite .. | .mrQuery .. | .fbTailWrite .. | .intPendClear .. | .errSumClear .. | .counterClear .. => [.regs, .seqs]
  | .entryEccError .. => [.regs, .seqs, .mem, .extents, .cad, .tlc, .links, .parcels, .recov, .mgmt, .out]
  | .stakeSrel .. | .stakeSacq .. | .stakeSset .. | .sacqExpiry .. => [.regs, .seqs, .stk, .out]
  | .stakeSread .. => [.regs, .seqs, .out]
  | .sacqWake .. => [.regs, .stk, .out]
  | .stakeEccError .. => [.regs, .seqs, .stk, .parcels, .recov, .mgmt, .out]
  | .publish .. => [.regs, .seqs, .free, .extents, .stk, .recov, .mgmt, .out]
  | .drn .. => [.regs, .seqs, .sw, .out]
  | .drnReturn .. => [.regs, .paths, .recov, .out]
  | .tqLimitWrite .. => [.regs, .seqs, .tier]
  | .tcEnable .. | .cacheFillDone .. | .writeBackDone ..
    => [.regs, .seqs, .free, .mem, .cad, .tier, .tlc, .trav, .links, .recov, .sec, .mgmt, .out]
  | .ocreate .. | .odelete .. | .owrite .. | .oread .. | .copy .. | .flush .. | .pin .. | .unpin .. | .oquery .. | .unitProgramDone ..
  | .backgroundEraseDone .. => [.regs, .seqs, .mem, .tier, .trav, .recov, .sec, .mgmt, .out]
  | .tierCommandEnd .. => [.regs, .tier, .recov, .out]
  | .doorbellHoldTimeout .. | .t1QuotaHoldTimeout .. => [.regs, .tier, .out]
  | .heldDoorbellAccepted .. => [.regs, .seqs, .free, .mem, .tier, .tiles, .coll, .pnm, .trav, .recov, .sec, .mgmt, .out]
  | .tlMountStart .. | .roceEnable .. | .mgmtWatchdogExpiry .. | .heartbeat .. | .powerFloorEvent => [.regs, .seqs, .recov, .mgmt]
  | .tlMountDone .. | .tlMapLost => [.regs, .seqs, .free, .mem, .tier, .trav, .recov, .sec, .mgmt, .out]
  | .wearLevelMigration .. | .refreshMigration .. => [.regs, .seqs, .tier, .recov]
  | .blockRetire .. => [.regs, .seqs, .tier, .recov, .mgmt]
  | .runDescriptor .. | .loadKernelDescriptor .. | .loadDataDescriptor .. => [.regs, .seqs, .tier, .tiles, .out]
  | .contextStart .. | .ratom .. | .srel .. | .sacq .. => [.regs, .seqs, .tiles, .coll, .recov, .mgmt, .out]
  | .contextDrainDone .. => [.regs, .tiles, .recov, .out]
  | .remoteCompletion .. => [.regs, .seqs, .free, .tiles, .tlc, .recov, .mgmt, .out]
  | .quantumExpiry .. => [.regs, .tiles]
  | .tileWatchdogExpiry .. | .contextKill .. | .illegalInstruction .. | .vadd .. | .vmul .. | .vfma .. | .vmax .. | .vmin .. | .vcvt ..
  | .xrd .. | .vcmp .. | .vcompact .. | .vtopk .. | .vld .. | .vst .. | .vgath .. | .sld .. | .sst .. | .sadd .. | .ssub .. | .smul ..
  | .sand .. | .sor .. | .sxor .. | .sshl .. | .sshr .. | .ssra .. | .smin .. | .smax .. | .scmp .. | .smov .. | .sli .. | .slih ..
  | .sget .. | .sput .. | .spcnt .. | .pfirst .. | .sstat .. | .sclrf .. | .br .. | .loopDec .. | .yield .. | .endCtx .. | .stfree ..
  | .nop .. => [.regs, .seqs, .tiles, .coll, .recov, .mgmt]
  | .tileZero .. => [.regs, .seqs, .tiles]
  | .tileZeroDone .. | .tempUpdate .. => [.regs]
  | .tileLineCacheFail .. => allBut [.free, .extents, .revoking, .paths, .pnm, .xc, .sw, .traf, .roce, .parcels, .sec, .nonce, .boot]
  | .xacc .. | .scyc .. => [.regs, .seqs, .free, .tiles, .coll, .recov, .mgmt]
  | .rld .. | .rst .. | .rgath .. => [.regs, .seqs, .free, .tiles, .tlc, .coll, .recov, .mgmt, .out]
  | .planLaunch .. | .planStop .. | .planRebind .. => [.regs, .seqs, .free, .tier, .tiles, .coll, .recov, .mgmt, .out]
  | .planStopDone .. => [.tiles, .coll, .recov, .out]
  | .cold .. | .gatherStepStart .. => [.regs, .seqs, .free, .mem, .tiles, .coll, .recov, .mgmt, .out]
  | .stepDeadline .. => [.regs, .seqs, .free, .mem, .coll, .recov, .mgmt, .out]
  | .slotFillDone .. => [.regs, .seqs, .free, .stk, .coll, .recov, .out]
  | .slotPlainRead .. => [.regs, .out]
  | .slotWaitRead .. | .slotWaitReadServed .. | .slotWaitReadTimeout .. | .slotConsumeRead .. => [.regs, .coll, .out]
  | .resultHoldRelease .. => [.free, .mem, .coll, .recov, .out]
  | .pnmAdd .. | .pnmMul .. | .pnmFma .. | .pnmAct .. => [.regs, .seqs, .tier, .pnm, .recov, .out]
  | .pnmAcceptance .. => [.regs, .seqs, .mem, .cad, .tier, .tlc, .pnm, .links, .recov, .mgmt, .out]
  | .pnmDispatch .. | .pna .. => [.regs, .seqs, .free, .mem, .cad, .tier, .tlc, .pnm, .trav, .links, .recov, .mgmt, .out]
  | .pnaTimeout .. | .frameReceive .. | .carrierCheckDone .. | .laneTrainingDone .. | .laneQualifyDone .. | .alignmentLock .. | .lvl ..
  | .hello .. | .cert .. | .kemkey .. | .kemct .. | .finish .. | .abort .. | .laneFail .. | .swapTimeout .. | .rekeyInterval ..
  | .portDown .. | .linkIdleTimeout .. | .ethLinkDown .. | .entropyHealthFail | .laserFault .. | .perturbOff .. | .perturbDelay ..
  | .perturbBackpressure .. | .perturbGateJitter .. | .perturbInject ..
    => allBut [.extents, .revoking, .tiles, .tlcDown, .coll, .xc, .traf, .nonce, .boot]
  | .moduleInitDone .. | .levellingStart .. | .portDisable .. | .swapNow .. | .rekey ..
    => allBut [.extents, .revoking, .tiles, .tlcDown, .coll, .xc, .traf, .nonce]
  | .traverseStart .. | .traverseStop .. | .legSendPoint .. => [.regs, .seqs, .free, .tier, .trav, .recov, .mgmt, .out]
  | .bmk .. | .benchmarkInject .. => [.regs, .seqs, .coll, .trav, .traf, .recov, .mgmt, .out]
  | .trvd .. | .legWritesDone .. | .trvr .. => [.regs, .seqs, .free, .trav, .recov, .mgmt, .out]
  | .runaheadFillStart .. => [.regs, .free, .mem, .tier, .trav, .recov, .out]
  | .runaheadFillDone .. => [.trav]
  | .traverseStallTimeout .. => [.regs, .trav, .recov, .out]
  | .legMemberTimeout .. => [.regs, .seqs, .trav, .recov, .mgmt, .out]
  | .xcEncode .. | .xcVerify .. => [.regs, .seqs, .free, .xc, .recov, .out]
  | .xcRunDone => [.regs, .xc]
  | .frameSend .. => [.regs, .seqs, .links]
  | .levellingRetry .. => [.regs, .links, .recov, .mgmt]
  | .berWindowEnd .. => [.regs, .seqs, .links, .recov, .mgmt]
  | .swapRequest .. | .coldResetRelease .. | .bistDone .. | .refclkRestored | .powerEstimate .. | .tileFreqStep => [.regs, .mgmt]
  | .swapLock .. => [.regs, .links]
  | .lsr .. | .unprovenLossTimeout .. => [.regs, .paths, .links, .recov, .out]
  | .packetIngress .. | .cellAdmit .. | .gradeUpdate | .meterRefill => [.regs, .seqs, .links, .sw, .traf, .recov, .mgmt, .out]
  | .schedulerRound => [.regs, .seqs, .free, .stk, .links, .sw, .traf, .roce, .recov, .mgmt, .out]
  | .ageSweep => [.regs, .seqs, .links, .sw, .recov, .mgmt, .out]
  | .sampleRecordWritten => [.regs, .seqs, .stk, .sw]
  | .meterConfig .. | .shaperConfig .. => [.seqs, .traf]
  | .shaperRefill => [.regs, .traf]
  | .gateEntryTransition .. => [.traf]
  | .gateListEnable .. | .gateListChange .. | .gateEntryWrite .. => [.regs, .seqs, .traf]
  | .ethFrame .. => [.regs, .seqs, .sw, .traf, .roce, .recov, .mgmt, .out]
  | .rdmaWriteFirst .. | .rdmaWriteMiddle .. | .rdmaWriteLast .. | .rdmaWriteOnly .. | .rdmaWriteLastWithImmediate ..
  | .rdmaWriteOnlyWithImmediate .. | .rdmaReadRequest .. | .cnp ..
    => [.regs, .seqs, .free, .mem, .stk, .sw, .traf, .roce, .recov, .mgmt, .out]
  | .roceRateIncrease .. | .pfcFrame .. | .pfcPauseExpiry .. => [.roce]
  | .pfcRefresh .. | .pfcConfig .. | .rawTx .. => [.regs, .seqs, .sw, .roce]
  | .qpCreate .. => [.regs, .seqs, .free, .mem, .roce, .recov, .mgmt, .out]
  | .qpQuery .. => [.regs, .seqs, .free]
  | .qpFail .. => [.regs, .seqs, .roce, .recov, .mgmt]
  | .qpDestroy .. => [.regs, .seqs, .roce, .recov]
  | .qpDestroyDone .. => [.regs, .roce]
  | .qpcFetchDone .. => [.regs, .seqs, .free, .mem, .stk, .sw, .roce, .parcels, .recov, .mgmt, .out]
  | .mrRegister .. | .mrRevoke .. | .sakInstall .. => [.regs, .seqs, .roce]
  | .mrRevokeTimeout .. => [.regs, .seqs, .sw, .roce, .recov, .mgmt]
  | .boot .. | .compose .. | .activate .. | .release .. | .clearDegraded .. => allBut [.free, .tlcDown, .pnm, .xc, .traf, .nonce, .boot]
  | .compositionGrantsEffect .. => [.regs, .seqs, .mem, .cad, .stk, .tiles, .tlc, .trav, .links, .parcels, .recov, .out]
  | .releaseDone .. => allBut [.free, .extents, .revoking, .tlcDown, .pnm, .xc, .traf, .roce, .sec, .nonce, .boot]
  | .extCreate .. | .extRevoke .. | .extQuery .. => [.regs, .seqs, .extents, .revoking, .trav, .recov]
  | .extentRevokeDrained .. => [.regs, .seqs, .mem, .extents, .revoking, .cad, .tier, .tlc, .trav, .links, .recov, .sec, .mgmt, .out]
  | .occupancyTick .. => [.parcels]
  | .usageSnap .. => [.regs, .seqs, .parcels]
  | .twinBeat .. | .spillMove => [.recov, .out]
  | .twinBeatMiss .. | .handover .. => [.regs, .seqs, .parcels, .recov, .mgmt]
  | .mirrorWrite .. => [.regs, .seqs, .tiles, .coll, .trav, .roce, .recov, .mgmt, .out]
  | .mirrorAnswer .. => allBut [.revoking, .cad, .paths, .tlc, .tlcDown, .pnm, .xc, .links, .traf, .parcels, .sec, .nonce, .boot]
  | .takeoverFenceEnd .. => [.free, .recov, .out]
  | .bringInCommit .. => [.regs, .seqs, .free, .tiles, .coll, .trav, .roce, .recov, .mgmt, .out]
  | .firmwareRestartDone .. | .claim .. | .clear .. | .debugCmd .. | .decommission .. | .report .. | .certs .. | .extend ..
  | .newOwner .. | .msStoreDone .. | .msImageDone .. => allBut [.traf]
  | .fieldBookEvent .. | .coalesceClose .. => [.regs, .seqs, .free, .recov, .mgmt]
  | .hbmStackFail .. => allBut [.paths, .tlcDown, .xc, .sw, .traf, .nonce, .boot]
  | .pllLock => [.regs, .sec]
  | .hbmTrainingDone .. => [.regs, .seqs, .mem, .links, .recov, .mgmt]
  | .flashTrainingDone .. => allBut [.tlcDown, .xc, .traf, .nonce]
  | .hbmRetrain .. => [.regs, .seqs, .recov]
  | .msLoad .. | .msStore .. | .msImage .. => [.regs, .seqs, .recov, .boot]
  | .msStgDataWrite .. => [.regs, .seqs, .boot]
  | .interruptRaise | .intMaskWrite .. => [.regs, .seqs, .mgmt]
  | .i3cDynamicAddress .. | .i3cIbiDisable .. => [.mgmt]
  | .selfTestsDone .. => [.regs, .sec, .boot, .mgmt]
  | .ethLinkUp .. => [.regs, .links, .mgmt]
  | .jtagInstruction .. => [.boot]

/-- A step changed nothing outside the parts listed. -/
def Only (ps : List Part) (s t : State) : Prop := ∀ q, q ∉ ps → q.same s t

/-- No register was written outside the pages listed. -/
def OnlyPages (pages : List Nat) (s t : State) : Prop := ∀ c, c / 0x1000 * 0x1000 ∉ pages → t.reg c = s.reg c

/-- A command completes from a state, in a next state of which `P` holds. -/
def Runs (c : Instr) (s : State) (P : State → Prop) : Prop := ∃ t, exec c s = .next t ∧ P t

/-- Exactly one packet was sent, a completion of the request with a status. -/
def Answered (s t : State) (p : Packet) (st : Status) : Prop :=
  ∃ c, t.out = s.out ++ [c] ∧ c.opcode = 0x30 ∧ c.tid = p.tid ∧ c.dst = agentDst p.src p.agent ∧ c.agent = p.agent ∧ c.status = st

end Sys2Proof.Machine
end

