-- ==== Sys2Proof/Certificates/Slice0/Obligations.lean ====
section
/-!
DEFINITION. The statements for the provers, each about the commands of one family: what a command does, what it leaves alone, and where it
completes.
-/
open Sys2Proof Sys2Proof.Machine

/-- For every command and state, a step of the state with that command at the front of its queue is the command's effect on the state with the
rest of the queue; with an empty queue the block idles (log entry 1, a design choice). -/
def Obligations.StepRunsTheFront : Prop :=
  (∀ (c : Instr) (rest : List Instr) (s : State), step { s with pending := c :: rest } = exec c { s with pending := rest }) ∧
  (∀ s : State, step { s with pending := [] } = .next { s with pending := [] })

/-- Every command, with any operands, in every state ends in a next state in which nothing has changed but the parts of the Tiolo listed for that
command (touches): the queue of waiting commands never, and each register bank, memory, engine, table and link only under the commands
listed with it. -/
def Obligations.EveryCommandChangesOnlyItsParts : Prop :=
  ∀ (c : Instr) (s : State), Runs c s (fun t => Only (touches c) s t)

/-- From every state whose memory lists no zero byte and no address twice, and whose register and arbiter tables list no key twice, every step
leads to a state of the same form. -/
def Obligations.StepKeepsTheCanonicalForm : Prop :=
  ∀ s t : State, s.Canon → step s = .next t → t.Canon

/-- The state after reset has the canonical form, no command waits in it, and no packet was sent. -/
def Obligations.ResetIsCanonical : Prop :=
  State.reset.Canon ∧ State.reset.pending = [] ∧ State.reset.out = []

/-- After bytes are written to canonical memory from an address on, reading that many bytes from it gives them, every other byte reads as
before, and the form is kept; a masked write changes no byte outside the masked line; a zeroed range reads as zero and nothing else changes. -/
def Obligations.MemoryReadsWhatWasWritten : Prop :=
  (∀ (m : List Host.Cell) (a : Nat) (bs : List Byte), Memory.wf m = true →
    memRead (memWrite m a bs) a bs.length = bs ∧ (∀ x, (x < a ∨ a + bs.length ≤ x) → memGet (memWrite m a bs) x = memGet m x) ∧
    Memory.wf (memWrite m a bs) = true) ∧
  (∀ (m : List Host.Cell) (a mask x : Nat) (bs : List Byte), Memory.wf m = true → x < bs.length →
    memGet (memWriteMask m a 0 mask bs) (a + x) = if nbit mask x then bs.getD x 0 else memGet m (a + x)) ∧
  (∀ (m : List Host.Cell) (a mask x : Nat) (bs : List Byte), (x < a ∨ a + bs.length ≤ x) →
    memGet (memWriteMask m a 0 mask bs) x = memGet m x) ∧
  (∀ (m : List Host.Cell) (lo hi x : Nat), memGet (memZero m lo hi) x = if lo ≤ x ∧ x < hi then 0 else memGet m x)

namespace Sys2Proof.Machine

/-- The pages whose counters a refused operation on a stake may move: the stake page, and the page of the parcel that holds the stake. -/
def stakePages (s : State) (p : Packet) : List Nat := [pgStk, pgPcl (((stakeOf p).bind (fun x => s.stakeParcel x.1)).getD 0)]

/-- The status of an SSET, or of a plain store, at byte `o` of stake n's entry (R53, R54, R117). -/
def ssetStatus (s : State) (p : Packet) (n o : Nat) : Status :=
  statusOf [(if p.opcode = 0x02 then plainStakeStore o p != stOK else o != 0, stUnsupported),
            (s.stakeAccess n p.job.toNat != stOK, s.stakeAccess n p.job.toNat)]

/-- The status of an SREAD, or of a plain load, at byte `o` of stake n's entry (R53, R54, R117, R453). -/
def sreadStatus (s : State) (p : Packet) (n o : Nat) : Status :=
  statusOf [(if p.opcode = 0x01 then plainStake o p.len != stOK else o != 0, stUnsupported),
            (s.stakeAccess n p.job.toNat != stOK, s.stakeAccess n p.job.toNat),
            ((s.stake n).lost && (o == 0 || p.opcode == 0x43), stFatal)]

end Sys2Proof.Machine

/-- An SREL that passes its checks adds OPERAND to VALUE, records its scope, its Tiolo, its agent and the number its stake home gives it, moves
exactly the parked acquires on that stake whose target is now met to the completion slots in parked order, and completes with OK, the new VALUE
and that number. Every other stake, and every part of the Tiolo but the stakes, the stake page's counters, the arbiters and the packets sent,
stays. One that fails a check, at a stake or at none, completes with that status and changes nothing but counters and its arbiter. -/
def Obligations.StakeReleaseAdds : Prop :=
  (∀ (s : State) (p : Packet) (n : Nat), placeOf (gfaOff p.gfa) = .stake n 0 → s.stakeCheck p true = stOK →
    Runs (.stakeSrel p) s (fun t =>
      (t.stake n).value = (s.stake n).value + stakeOperand p ∧ (t.stake n).lscope = stakeScope p ∧ (t.stake n).ltiolo = p.src ∧
      (t.stake n).lagent = p.agent ∧ (t.stake n).lseq = s.seq (aidStake (n / 4096)) + 1 ∧ (∀ k, k ≠ n → t.stake k = s.stake k) ∧
      t.stk.parked = s.stk.parked.filter (fun q => !(q.stake == n && decide (q.target ≤ (s.stake n).value + stakeOperand p))) ∧
      t.stk.woken.map Woken.parked = s.stk.woken.map Woken.parked ++
        s.stk.parked.filter (fun q => q.stake == n && decide (q.target ≤ (s.stake n).value + stakeOperand p)) ∧
      Answered s t p stOK ∧ t.out.getLast?.map Packet.payload =
        some (stakeData ((s.stake n).value + stakeOperand p) (s.seq (aidStake (n / 4096)) + 1)) ∧
      Only [.stk, .regs, .seqs, .out] s t ∧ OnlyPages [pgStk] s t)) ∧
  (∀ (s : State) (p : Packet), s.stakeCheck p true ≠ stOK →
    Runs (.stakeSrel p) s (fun t => Answered s t p (s.stakeCheck p true) ∧ Only [.regs, .seqs, .out] s t ∧ OnlyPages (stakePages s p) s t))

/-- An SACQ that passes its checks leaves every stake's state alone. Met at once, it completes with OK, VALUE and the number its stake home gives
it; not met with no entry free, with RETRY, leaving no state; not met with an entry free and WAIT 0, with TIMEOUT, VALUE and that number;
otherwise it is parked last with its target, and nothing is sent. One that fails a check completes with that status and parks nothing. -/
def Obligations.StakeAcquireCompletesParksOrGivesUp : Prop :=
  (∀ (s : State) (p : Packet) (n : Nat), placeOf (gfaOff p.gfa) = .stake n 0 → s.stakeCheck p true = stOK →
    Runs (.stakeSacq p) s (fun t =>
      t.stk.stakes = s.stk.stakes ∧ t.stk.woken = s.stk.woken ∧ Only [.stk, .regs, .seqs, .out] s t ∧ OnlyPages [pgStk] s t ∧
      (stakeOperand p ≤ (s.stake n).value → t.stk.parked = s.stk.parked ∧ Answered s t p stOK ∧
        t.out.getLast?.map Packet.payload = some (stakeData (s.stake n).value (s.seq (aidStake (n / 4096)) + 1))) ∧
      (¬ stakeOperand p ≤ (s.stake n).value → s.parkFull n ((s.stakeParcel n).getD 0) = true →
        t.stk.parked = s.stk.parked ∧ Answered s t p stRetry) ∧
      (¬ stakeOperand p ≤ (s.stake n).value → s.parkFull n ((s.stakeParcel n).getD 0) = false → stakeWait p = 0 →
        t.stk.parked = s.stk.parked ∧ Answered s t p stTimeout ∧
        t.out.getLast?.map Packet.payload = some (stakeData (s.stake n).value (s.seq (aidStake (n / 4096)) + 1))) ∧
      (¬ stakeOperand p ≤ (s.stake n).value → s.parkFull n ((s.stakeParcel n).getD 0) = false → stakeWait p ≠ 0 →
        t.stk.parked = s.stk.parked ++ [{ stake := n, target := stakeOperand p, scope := stakeScope p, req := p }] ∧ t.out = s.out))) ∧
  (∀ (s : State) (p : Packet), s.stakeCheck p true ≠ stOK →
    Runs (.stakeSacq p) s (fun t => Answered s t p (s.stakeCheck p true) ∧ Only [.regs, .seqs, .out] s t ∧ OnlyPages (stakePages s p) s t))

/-- SSET writes VALUE, records that no release is known, restores a lost stake and moves exactly the parked acquires that are now met to the
completion slots; a plain aligned 8-byte store does the same, and a store of bytes [63:8] of an entry changes no stake; each completes with OK.
An SSET or a store that fails a check completes with that status and changes no stake. SREAD, or a plain aligned 8-byte load, changes no stake
and completes with VALUE, and a load of bytes [63:8] reads zeros; one that fails a check, or meets a lost stake, completes with that status. SACQ_WAKE completes the oldest met acquire of its region with OK and the VALUE and number of the change that met it, and does nothing where none
is met. SACQ_EXPIRY removes one parked acquire and completes it with TIMEOUT and the current VALUE. A write to STK_PROBE_CTL of an open page
selects a stake; with GO it copies that stake to STK_PROBE0 to 3 and sets DONE. An error in stake state marks that stake as lost and keeps its
VALUE, completes every acquire that waits on it with FATAL, and tells the parcel that holds it by the FATAL vector. -/
def Obligations.StakeSetReadWakeAndExpiry : Prop :=
  (∀ (s : State) (p : Packet) (n : Nat), placeOf (gfaOff p.gfa) = .stake n 0 → ssetStatus s p n 0 = stOK →
    (p.opcode = 0x42 ∨ (p.opcode = 0x02 ∧ p.mask = none)) →
    Runs (.stakeSset p) s (fun t => (t.stake n).value = stakeOperand p ∧ (t.stake n).lscope = 3 ∧ (t.stake n).lost = false ∧
      (∀ k, k ≠ n → t.stake k = s.stake k) ∧
      t.stk.parked = s.stk.parked.filter (fun q => !(q.stake == n && decide (q.target ≤ stakeOperand p))) ∧
      t.stk.woken.map Woken.parked = s.stk.woken.map Woken.parked ++ s.stk.parked.filter (fun q => q.stake == n && decide (q.target ≤ stakeOperand p)) ∧
      Answered s t p stOK ∧ Only [.stk, .regs, .seqs, .out] s t ∧ OnlyPages [pgStk, pgMtr] s t)) ∧
  (∀ (s : State) (p : Packet) (n o : Nat), placeOf (gfaOff p.gfa) = .stake n o → ssetStatus s p n o = stOK → p.opcode = 0x02 →
    (o ≠ 0 ∨ p.mask ≠ none) →
    Runs (.stakeSset p) s (fun t => Answered s t p stOK ∧ Only [.regs, .seqs, .out] s t ∧ OnlyPages [pgMtr] s t)) ∧
  (∀ (s : State) (p : Packet) (n o : Nat), placeOf (gfaOff p.gfa) = .stake n o → (p.opcode = 0x42 ∨ p.opcode = 0x02) → ssetStatus s p n o ≠ stOK →
    Runs (.stakeSset p) s (fun t => Answered s t p (ssetStatus s p n o) ∧ Only [.regs, .seqs, .out] s t ∧
      OnlyPages (pgMtr :: stakePages s p) s t)) ∧
  (∀ (s : State) (p : Packet) (n o : Nat), placeOf (gfaOff p.gfa) = .stake n o → sreadStatus s p n o = stOK →
    (p.opcode = 0x43 → Runs (.stakeSread p) s (fun t => Answered s t p stOK ∧
      t.out.getLast?.map Packet.payload = some (stakeData (s.stake n).value (s.seq (aidStake (n / 4096)) + 1)) ∧
      Only [.regs, .seqs, .out] s t ∧ OnlyPages [pgStk] s t)) ∧
    (p.opcode = 0x01 → Runs (.stakeSread p) s (fun t => Answered s t p stOK ∧
      t.out.getLast?.map Packet.payload = some (if o = 0 then leBytes 8 (s.stake n).value.toNat else List.replicate p.len 0) ∧
      Only [.regs, .seqs, .out] s t ∧ OnlyPages [pgStk, pgMtr] s t))) ∧
  (∀ (s : State) (p : Packet) (n o : Nat), placeOf (gfaOff p.gfa) = .stake n o → (p.opcode = 0x43 ∨ p.opcode = 0x01) → sreadStatus s p n o ≠ stOK →
    Runs (.stakeSread p) s (fun t => Answered s t p (sreadStatus s p n o) ∧ Only [.regs, .seqs, .out] s t ∧
      OnlyPages (pgMtr :: stakePages s p) s t)) ∧
  (∀ (s : State) (r : SliceIx) (w : Woken), s.stk.woken.find? (fun w => w.parked.stake / 4096 == r.val) = some w →
    Runs (.sacqWake r) s (fun t => t.stk = { s.stk with woken := s.stk.woken.erase w } ∧ Answered s t w.parked.req stOK ∧
      t.out.getLast?.map Packet.payload = some (stakeData w.value w.seq) ∧ Only [.stk, .regs, .out] s t ∧ OnlyPages [pgStk] s t)) ∧
  (∀ (s : State) (r : SliceIx), s.stk.woken.find? (fun w => w.parked.stake / 4096 == r.val) = none → Runs (.sacqWake r) s (fun t => t = s)) ∧
  (∀ (s : State) (k : Nat) (q : Parked), s.stk.parked[k]? = some q →
    Runs (.sacqExpiry k) s (fun t => t.stk = { s.stk with parked := s.stk.parked.eraseIdx k } ∧ Answered s t q.req stTimeout ∧
      t.out.getLast?.map Packet.payload = some (stakeData (s.stake q.stake).value (s.seq (aidStake (q.stake / 4096)) + 1)) ∧
      Only [.stk, .regs, .seqs, .out] s t ∧ OnlyPages [pgStk] s t)) ∧
  (∀ (s : State) (v : Word), s.cfgOpen rStkProbeCtl = true →
    Runs (.stkProbe v) s (fun t => t.fld rStkProbeCtl 13 0 = v.toNat % 16384 ∧ Only [.regs, .seqs] s t ∧ OnlyPages [pgStk] s t ∧
      (v.getLsbD 63 = true → t.reg rStkProbe0 = (s.stake (v.toNat % 16384)).value.toNat ∧
        t.reg rStkProbe1 = (s.stake (v.toNat % 16384)).lscope.toNat + 4 * (s.stake (v.toNat % 16384)).ltiolo.toNat +
          4096 * (s.stake (v.toNat % 16384)).lagent.toNat ∧
        t.reg rStkProbe2 = (s.stake (v.toNat % 16384)).lseq % 2 ^ 64 ∧
        t.reg rStkProbe3 = (s.stk.parked.filter (fun q => q.stake == v.toNat % 16384)).length % 2 ^ 64 ∧ t.bit rStkProbeCtl 62 = true) ∧
      (v.getLsbD 63 = false → ∀ c, c ≠ rStkProbeCtl → t.reg c = s.reg c))) ∧
  (∀ (s : State) (k : StakeIx), Runs (.stakeEccError k) s (fun t => (t.stake k.val).lost = true ∧ (t.stake k.val).value = (s.stake k.val).value ∧
      (∀ i, i ≠ k.val → t.stake i = s.stake i) ∧ t.stk.parked = s.stk.parked.filter (fun q => q.stake != k.val) ∧
      t.stk.woken = s.stk.woken.filter (fun w => w.parked.stake != k.val) ∧
      (∃ cs : List Packet, t.out = s.out ++ cs ∧ cs.map (fun c => (c.tid, c.agent, c.status)) =
        ((s.stk.parked ++ s.stk.woken.map Woken.parked).filter (fun q => q.stake == k.val)).map (fun q => (q.req.tid, q.req.agent, stFatal))) ∧
      (∀ n, s.stakeParcel k.val = some n → (Raise.mk n 0xFFFF) ∈ t.mgmt.raises) ∧ t.mem = s.mem ∧ t.extents = s.extents))

/-- A PUBLISH that passes its checks, of a window that is not twinned, makes the staging extent visible at the new version, leaves every other
extent, and with a notify stake leaves it at twice the version with a HALL release; it completes with OK, the retired extent and the version.
One that fails a check changes no extent and no stake and completes with that status. One of a twinned window whose mirror write is under way
waits behind it: nothing is sent and nothing is swapped. -/
def Obligations.PublishSwapsTheVisibleExtent : Prop :=
  (∀ (s : State) (p : Packet), s.twinOp 3 (pubRef p) = none → (s.ext (pubAlias p)).twin = false → s.publishCheck p = stOK →
    Runs (.publish p) s (fun t =>
      t.ext (pubAlias p) = { s.ext (pubAlias p) with visible := pubStaging p, version := pubVersion p } ∧
      (∀ e, e ≠ pubAlias p → t.ext e = s.ext e) ∧
      (pubNotifyEn p = true → (t.stake (pubNotify p)).value = BitVec.ofNat 64 (2 * pubVersion p) ∧ (t.stake (pubNotify p)).lscope = 2) ∧
      (∀ k, (pubNotifyEn p = false ∨ k ≠ pubNotify p) → t.stake k = s.stake k) ∧
      Answered s t p stOK ∧ t.out.getLast?.map Packet.payload = some (publishData (s.ext (pubAlias p)).visible (pubVersion p)) ∧
      Only [.extents, .stk, .regs, .seqs, .out] s t ∧ OnlyPages [pgStk] s t)) ∧
  (∀ (s : State) (p : Packet), s.twinOp 3 (pubRef p) = none → s.publishCheck p ≠ stOK →
    Runs (.publish p) s (fun t => Answered s t p (s.publishCheck p) ∧ Only [.regs, .seqs, .out] s t ∧
      OnlyPages [pgStk, pgPcl (s.ext (pubAlias p)).owner] s t)) ∧
  (∀ (s : State) (p : Packet) (o : TwinOp), s.twinOp 3 (pubRef p) = some o → o.pending = true →
    Runs (.publish p) s (fun t => t.out = s.out ∧
      t.recov.ops = s.recov.ops.map (fun q => if q.same o then { o with acts := o.acts ++ [.publish p] } else q) ∧ Only [.recov, .seqs] s t))

/-- A completion of a posted request removes its tracker, and one of an outside agent's request goes on to that agent as it came; one that nobody
waits for is discarded and counted. A tracked request of an outside agent that times out is answered with TIMEOUT, and a write whose old path
still drains is marked due instead. A returned drain is no longer outstanding. A held tile doorbell write enters its queue when there is room and
completes, and stays held while there is none. While another core restarts, the end of one core's restart only takes that core off the list;
with the last one, and no command waiting, no core is left on it. -/
def Obligations.CompletionsTrackersAndRestarts : Prop :=
  (∀ (s : State) (c : Packet) (x : Tracker), s.proxyTxn c = none → s.trackerFor c = some x → x.purpose = .posted →
    Runs (.cmp c) s (fun t => t.recov.trackers = s.recov.trackers.eraseP (fun k => k.matches' c) ∧ Only [.recov, .free] s t)) ∧
  (∀ (s : State) (c : Packet) (x : Tracker), s.proxyTxn c = none → s.trackerFor c = some x → x.purpose = .outside → c.status.toNat < 12 →
    Runs (.cmp c) s (fun t => t = { s with out := s.out ++ [c] })) ∧
  (∀ (s : State) (c : Packet), s.proxyTxn c = none → s.trackerFor c = none → c.agent ≠ 0x900 → s.bit (rPgCtl pgFb) 0 = false →
    Runs (.cmp c) s (fun t => t.reg (rPgCnt pgFb 5) = min (2 ^ 64 - 1) (s.reg (rPgCnt pgFb 5) + 1) ∧ Only [.regs, .free] s t ∧
      OnlyPages [pgFb] s t)) ∧
  (∀ (s : State) (k : Nat) (x : Tracker), s.recov.trackers[k]? = some x → x.purpose = .outside →
    (writesOp x.req.opcode.toNat = false ∨ (s.path x.dest).drains = []) →
    Runs (.trackerTimeout k) s (fun t => Answered s t x.req stTimeout ∧ t.recov.trackers = s.recov.trackers ∧
      Only [.recov, .regs, .seqs, .mgmt, .out] s t)) ∧
  (∀ (s : State) (k : Nat) (x : Tracker), s.recov.trackers[k]? = some x → writesOp x.req.opcode.toNat = true → (s.path x.dest).drains ≠ [] →
    Runs (.trackerTimeout k) s (fun t => t.recov.trackers = s.recov.trackers.set k { x with due := true } ∧ Only [.recov] s t)) ∧
  (∀ (s : State) (p : Packet), Runs (.drnReturn p) s (fun t =>
    (p.tid.toNat, p.flow.toNat) ∉ (t.path p.src.toNat).drains ∧ (t.path p.src.toNat).epoch = (s.path p.src.toNat).epoch ∧
    (∀ i, i ≠ p.src.toNat → t.path i = s.path i) ∧ Only [.paths, .recov, .regs, .out] s t)) ∧
  (∀ (s : State) (k n : Nat) (p : Packet), s.tier.held[k]? = some { door := 4 + n, req := p } →
    ((s.tile n).queue.length < 64 → (∀ g, g ∈ s.tier.held.take k → g.door ≠ 4 + n ∨ g.req.job ≠ p.job) →
      Runs (.heldDoorbellAccepted k) s (fun t => t.tier = { s.tier with held := s.tier.held.eraseIdx k } ∧
        (t.tile n).queue.length = (s.tile n).queue.length + 1 ∧ (∀ i, i ≠ n → t.tile i = s.tile i) ∧
        Answered s t p stOK ∧ Only [.tier, .tiles, .regs, .out] s t ∧ OnlyPages [pgMtr] s t)) ∧
    (¬ (s.tile n).queue.length < 64 → Runs (.heldDoorbellAccepted k) s (fun t => t = s))) ∧
  (∀ (s : State) (k : Fin 16),
    (s.recov.restarting.filter (· != k.val) ≠ [] →
      Runs (.firmwareRestartDone k) s (fun t => t = { s with recov := { s.recov with restarting := s.recov.restarting.filter (· != k.val) } })) ∧
    (s.recov.restarting.filter (· != k.val) = [] → s.recov.waiting = [] →
      Runs (.firmwareRestartDone k) s (fun t => t = { s with recov := { s.recov with restarting := [] } })))

namespace Sys2Proof.Machine

/-- Exactly one packet was sent, of which `P` holds. -/
def Sent (s t : State) (P : Packet → Prop) : Prop := ∃ c, t.out = s.out ++ [c] ∧ P c

/-- No test injection of POISON is armed over a local line. -/
def State.calmLine (s : State) (l : Nat) : Bool :=
  match s.poisonPage (128 * l) with
  | some pg => (s.takeInject pg 1).isNone
  | none => true

/-- The lines of memory that a request names. -/
def reqLines (s : State) (p : Packet) : List Nat := linesOf (reqAt p (s.memCheck p).off) (reqBytes p)

/-- A request at its home is admitted: it passes its check, its slice takes requests, its extent is not cached and nothing was lost of it, no
command of a module holds it, no module line that it names has a fault, no test injection is armed over the lines it reads. -/
def admitted (s : State) (p : Packet) : Bool :=
  let off := (s.memCheck p).off
  gfaHome p.gfa == s.ix && s.configOff p == none && (s.memCheck p).status == stOK && !s.sliceFull (s.homeRegion off) &&
  (match s.extAt off with
    | some (_, x) => x.coh == (s.memCheck p).x.coh && !x.wb && s.lateCheck p x (reqAt p off) (reqBytes p) == stOK
    | none => false) &&
  s.pnm.all (fun e => e.2.active.isEmpty) && s.tier.frames.isEmpty && (reqLines s p).all (fun l => !s.mem.faults.any (fun f => f.1 == l)) &&
  (readLines p off).all (s.calmLine ·)

/-- Such a request for an extent that is not coherent. -/
def admittedPlain (s : State) (p : Packet) : Bool := admitted s p && !(s.memCheck p).x.coh

/-- Such a request for coherent line `k` of slice `n`: nothing else works on the line or waits for it, its set has room, its entry is in the
cache, replicas are off, no agent is swept, no injected entry error is armed. -/
def admittedCoherent (s : State) (p : Packet) (n k : Nat) : Bool :=
  admitted s p && (s.memCheck p).x.coh && keyHome k == s.ix && s.homeRegion (s.memCheck p).off == n && s.lineKey (s.memCheck p).off == k &&
  s.extAt (keyOff k) == s.extAt (s.memCheck p).off && !s.busyLine n k && !s.queuedBefore n [k] && !s.setFull n k &&
  (s.cadSlice n).spilled.isEmpty && !s.replOn n && (s.cadSlice n).replTable.isEmpty && (s.cadSlice n).sweeping.isEmpty &&
  (s.takeInject (pgCad n) 5).isNone

/-- An RPQ of another Tiolo at its home whose page is `pg` of slice `n`: admitted, no request for the page waits, no entry is held in the backing store only, no
agent is swept, no injected entry error is armed. -/
def admittedPage (s : State) (p : Packet) (n pg : Nat) : Bool :=
  let q : Packet := { p with opcode := 0x17, len := 0x1000 }
  let off := (s.memCheck q).off
  admitted s q && (s.memCheck q).x.coh && p.src.toNat != s.ix && s.homeRegion off == n && keyPage (s.lineKey off) == pg && keyHome (32 * pg) == s.ix &&
  keyOff (32 * pg) == off && !s.queuedBefore n (pageLines pg) && (s.cadSlice n).spilled.isEmpty && (s.cadSlice n).sweeping.isEmpty &&
  (s.takeInject (pgCad n) 5).isNone

/-- The counters that a read of a module line moves. -/
def slotPages (s : State) (a : Nat) : List Nat :=
  match placeOf a with
  | .slot m => ((s.slotPort m).map pgPort2).toList
  | _ => []

/-- Only byte runs [a, a + n) of memory may have changed. -/
def OnlyBytes (a n : Nat) (s t : State) : Prop := ∀ x, (x < a ∨ a + n ≤ x) → memGet t.mem.cells x = memGet s.mem.cells x

/-- What RDN and RDU do on plain memory. -/
def ReadsPlain (c : Packet → Instr) (op : BitVec 8) : Prop :=
  ∀ (s : State) (p : Packet), admittedPlain s { p with opcode := op } = true →
    let a := (s.memCheck { p with opcode := op }).off
    s.anyPoison a p.len = false →
    Runs (c p) s (fun t => t.mem = s.mem ∧ t.extents = s.extents ∧ Answered s t p stOK ∧
      t.out.getLast?.map Packet.payload = some (s.readMem a p.len))

/-- What WRN and WRI do on plain memory. -/
def StoresPlain (c : Packet → Instr) (op : BitVec 8) : Prop :=
  ∀ (s : State) (p : Packet), s.Canon → admittedPlain s { p with opcode := op } = true →
    let a := (s.memCheck { p with opcode := op }).off
    let n := p.payload.length
    s.anyPoison a n = false →
    (p.mask = none → Runs (c p) s (fun t => t.readMem a n = p.payload ∧ OnlyBytes a n s t ∧
      (p.poi = false → Answered s t p stOK) ∧
      (p.poi = true → (linesOf a n).all (fun l => t.poisoned (128 * l)) = true ∧ t.out.getLast?.map Packet.status = some stOK))) ∧
    (∀ m : BitVec 128, p.mask = some m → a % 128 = 0 → n = 128 → p.poi = false → Runs (c p) s (fun t => Answered s t p stOK ∧ OnlyBytes a 128 s t ∧
      ∀ i, i < 128 → memGet t.mem.cells (a + i) = if m.getLsbD i then p.payload.getD i 0 else memGet s.mem.cells (a + i)))

end Sys2Proof.Machine

/-- A configuration write over the Filard Link that is not an aligned access of 8 bytes completes with ACCESS_FAULT; an aligned one outside every
page, or to a page in reset, completes with ACCESS_FAULT or RETRY; one that a clearance shuts out completes with OK; none of these changes any
register but the counters. An aligned one to STK_WAIT_LIMIT of a page that takes writes stores the value and completes with OK. In band, a
requester of the management list that makes an aligned access outside the security and monument-store pages, with no clearance under way, gets
the page's status; where that is OK a read returns the register's 8 bytes, and a write of STK_WAIT_LIMIT stores the value. Every other in-band
access completes with ACCESS_FAULT and changes no register but the counters. -/
def Obligations.ConfigurationAccesses : Prop :=
  (∀ (s : State) (off : BitVec 24) (len : Nat) (v : Word) (tid : BitVec 16), (len ≠ 8 ∨ off.toNat % 8 ≠ 0) →
    Runs (.configWrite off len v tid) s (fun t => Only [.regs, .out] s t ∧ OnlyPages [pgChip, pgMtr] s t ∧
      ∃ c, t.out = s.out ++ [c] ∧ c.tid = tid ∧ c.status = stAccessFault)) ∧
  (∀ (s : State) (off : BitVec 24) (v : Word) (tid : BitVec 16), off.toNat % 8 = 0 → s.cfgOpen off.toNat = false →
    Runs (.configWrite off 8 v tid) s (fun t => Only [.regs, .out] s t ∧ OnlyPages [pgChip, pgMtr] s t ∧
      ∃ c, t.out = s.out ++ [c] ∧ c.tid = tid ∧ c.status = s.cfgStatus off.toNat)) ∧
  (∀ (s : State) (v : Word) (tid : BitVec 16), s.cfgOpen (rStkWaitLimit 0) = true →
    Runs (.configWrite (BitVec.ofNat 24 (rStkWaitLimit 0)) 8 v tid) s (fun t => t.reg (rStkWaitLimit 0) = v.toNat ∧ Only [.regs, .seqs, .out] s t ∧
      OnlyPages [pgChip, pgMtr, pgStk] s t ∧ ∃ c, t.out = s.out ++ [c] ∧ c.tid = tid ∧ c.status = stOK)) ∧
  (∀ (s : State) (p : Packet) (c : Nat), s.configOff p = some c → s.fromCompanion p = false → cfgAligned p c = true →
    s.inList p = true → filardOnly c = false → s.bit rSecStat 4 = false →
    (p.opcode = 0x01 → s.cfgStatus c = stOK → Runs (.inBandConfigAccess p) s (fun t => t.mem = s.mem ∧ Answered s t p stOK ∧
      t.out.getLast?.map Packet.payload = some (leBytes 8 ((s.count pgChip 1).cfgValue c)))) ∧
    (p.opcode = 0x02 → c = rStkWaitLimit 0 → s.cfgStatus c = stOK → Runs (.inBandConfigAccess p) s (fun t =>
      t.reg (rStkWaitLimit 0) = wordAt p.payload 0 % 2 ^ 64 ∧ Only [.regs, .seqs, .out] s t ∧ OnlyPages [pgChip, pgMtr, pgStk] s t ∧
      Answered s t p stOK)) ∧
    (s.cfgStatus c ≠ stOK → Runs (.inBandConfigAccess p) s (fun t => Answered s t p (s.cfgStatus c) ∧ Only [.regs, .out] s t ∧
      OnlyPages [pgChip, pgMtr] s t))) ∧
  (∀ (s : State) (p : Packet) (c : Nat), s.configOff p = some c → s.fromCompanion p = false →
    (cfgAligned p c = false ∨ s.inList p = false ∨ filardOnly c = true ∨ s.bit rSecStat 4 = true) →
    Runs (.inBandConfigAccess p) s (fun t => Answered s t p stAccessFault ∧ Only [.regs, .out] s t ∧ OnlyPages [pgChip, pgMtr] s t))

/-- On a page that takes writes, outside CERTIFIED, a combination that R530 accepts sets KIND and clears PERTURB_REFUSED: OFF, DELAY, BACKPRESSURE,
GATE_JITTER with its fields, and INJECT with its COUNT when it is not LANE_FAIL and COUNT is not 0; with COUNT 0 such an INJECT leaves KIND at
OFF. A combination that R530 does not accept sets PERTURB_REFUSED and leaves PG_PERTURB as it was. In CERTIFIED no write changes a register. -/
def Obligations.PerturbationsAreArmedOrRefused : Prop :=
  (∀ (s : State) (page : BitVec 12) (v : Word) (p : Page), pageOf (page.toNat * 0x1000) = some p → s.cfgOpen (rPgPerturb p.base) = true →
    s.certified = false → s.perturbOk p v.toNat = true →
    let armed (k : Nat) (t : State) : Prop := t.reg (rPgPerturb p.base) = perturbBits v.toNat ∧ t.fld (rPgPerturb p.base) 2 0 = k ∧
      t.bit (rPgStat p.base) 3 = false ∧ Only [.regs, .seqs, .links] s t ∧ OnlyPages [p.base] s t
    (v.toNat % 8 = 0 → Runs (.perturbOff page v) s (armed 0)) ∧ (v.toNat % 8 = 1 → Runs (.perturbDelay page v) s (armed 1)) ∧
    (v.toNat % 8 = 2 → Runs (.perturbBackpressure page v) s (armed 2)) ∧ (v.toNat % 8 = 3 → Runs (.perturbGateJitter page v) s (armed 3)) ∧
    (v.toNat % 8 = 4 → nbits v.toNat 11 8 ≠ 3 → nbits v.toNat 62 48 ≠ 0 → Runs (.perturbInject page v) s (armed 4)) ∧
    (v.toNat % 8 = 4 → nbits v.toNat 11 8 ≠ 3 → nbits v.toNat 62 48 = 0 → Runs (.perturbInject page v) s (fun t =>
      t.fld (rPgPerturb p.base) 2 0 = 0 ∧ t.bit (rPgStat p.base) 3 = false ∧ Only [.regs, .seqs, .links] s t ∧ OnlyPages [p.base] s t))) ∧
  (∀ (s : State) (page : BitVec 12) (v : Word) (p : Page), pageOf (page.toNat * 0x1000) = some p → s.cfgOpen (rPgPerturb p.base) = true →
    let all (P : State → Prop) : Prop := Runs (.perturbOff page v) s P ∧ Runs (.perturbDelay page v) s P ∧ Runs (.perturbBackpressure page v) s P ∧
      Runs (.perturbGateJitter page v) s P ∧ Runs (.perturbInject page v) s P
    (s.certified = false → s.perturbOk p v.toNat = false →
      all (fun t => t.bit (rPgStat p.base) 3 = true ∧ t.reg (rPgPerturb p.base) = s.reg (rPgPerturb p.base) ∧ Only [.regs, .seqs] s t ∧
        OnlyPages [p.base] s t)) ∧
    (s.certified = true → all (fun t => Only [.seqs] s t)))

/-- At its home, admitted (admittedPlain), on memory that is not coherent: RDN and RDU of lines that are not poisoned complete with OK and the bytes
that stand there, and change no memory. WRN and WRI of such lines make exactly their payload's bytes read as written, and a masked line's only
where the mask is 1, and complete with OK; data marked POI leaves its lines poisoned. ATM applies its operation to its word, if its line is not
poisoned, changes no other byte, and completes with OK and the old value, zero-extended. -/
def Obligations.PlainMemoryRequests : Prop :=
  ReadsPlain .rdn 0x01 ∧ ReadsPlain .rdu 0x13 ∧ StoresPlain .wrn 0x02 ∧ StoresPlain .wri 0x14 ∧
  (∀ (s : State) (p : Packet), s.Canon → admittedPlain s { p with opcode := 0x03 } = true →
    let sz := if atmW32 p then 4 else 8
    let a := (s.memCheck { p with opcode := 0x03 }).off - (s.memCheck { p with opcode := 0x03 }).off % sz
    let m := leNat (s.readMem a sz)
    s.poisoned a = false →
    Runs (.atm p) s (fun t => t.readMem a sz = leBytes sz (atomicOp (atmAop p) (8 * sz) m (atmOp1 p) (atmOp2 p)) ∧ OnlyBytes a sz s t ∧
      Answered s t p stOK ∧ t.out.getLast?.map Packet.payload = some (leBytes 8 m)))

/-- At the home of a coherent line for which nothing else works or waits (admittedCoherent): RDS and RDO of a line that nobody holds, from a local
agent or another Tiolo, start a transaction that reads memory, and send nothing yet. UPG by the only sharer, a local agent, grants it M at once;
EVC by the only sharer, a local agent, frees the entry; both complete with OK. WBK by the recorded M owner, a local agent or another Tiolo, writes
the line to memory, poisoned where its data is, removes the owner, and its transaction waits for the memory write to be accepted. -/
def Obligations.CoherentRequestsAtHome : Prop :=
  (∀ (s : State) (p : Packet) (n k : Nat) (w : Holder), s.who p = some w → s.entry n k = {} →
    let starts (t : State) : Prop :=
      ((t.cadSlice n).txns.getLast?).map (fun x => (x.lines, x.reading, x.waiting)) = some ([k], true, []) ∧
      (t.cadSlice n).txns.dropLast = (s.cadSlice n).txns ∧ (∀ m, m ≠ n → t.cadSlice m = s.cadSlice m) ∧ t.out = s.out ∧
      Only [.regs, .seqs, .cad] s t ∧ OnlyPages [pgCad n] s t
    (admittedCoherent s { p with opcode := 0x10 } n k = true → Runs (.rds p) s starts) ∧
    (admittedCoherent s { p with opcode := 0x11 } n k = true → Runs (.rdo p) s starts)) ∧
  (∀ (s : State) (p : Packet) (n k : Nat) (a : Fin 49), s.who p = some (.agent a) → s.entry n k = ({} : DirEntry).addSharer a →
    let ends (e : DirEntry) (t : State) : Prop :=
      t.entry n k = e ∧ (∀ j, j ≠ k → t.entry n j = s.entry n j) ∧ (t.cadSlice n).txns = (s.cadSlice n).txns ∧
      (∀ m, m ≠ n → t.cadSlice m = s.cadSlice m) ∧ Answered s t p stOK ∧ Only [.regs, .seqs, .cad, .out] s t ∧ OnlyPages [pgCad n, pgMtr] s t
    (admittedCoherent s { p with opcode := 0x12 } n k = true → Runs (.upg p) s (fun t =>
      ends (({} : DirEntry).setOwner a .m) t ∧ t.out.getLast?.map Packet.grant = some 3)) ∧
    (admittedCoherent s { p with opcode := 0x15 } n k = true → Runs (.evc p) s (ends {}))) ∧
  (∀ (s : State) (p : Packet) (n k : Nat), s.Canon → admittedCoherent s { p with opcode := 0x16 } n k = true →
    ((∃ a, s.who p = some (.agent a) ∧ s.entry n k = ({} : DirEntry).setOwner a .m) ∨
      (s.who p = some (.tiolo p.src) ∧ s.entry n k = { gstate := .m, gowner := p.src })) → p.payload.length = 128 →
    Runs (.wbk p) s (fun t => t.readMem (keyOff k) 128 = p.payload ∧ OnlyBytes (keyOff k) 128 s t ∧ t.entry n k = {} ∧
      ((t.cadSlice n).txns.getLast?).map (fun x => (x.lines, x.applied, x.writes)) = some ([k], true, 1) ∧
      (p.poi = false → t.out = s.out) ∧ (p.poi = true → t.poisoned (keyOff k) = true)))

/-- When memory data returns for an RDS of a line that nobody holds, of an extent that is neither cached nor lost, for a local agent that is not
swept, the requester is recorded as the E holder and its completion carries the line and grant E. An accepted memory write ends a transaction
whose effects are applied, and sends its completion. A fetched entry is no longer spilled. A queued snoop of a line the proxy does not hold leaves
the conflict queue and is answered. An answer of one snooped holder of a line leaves the transaction waiting for the others; SDA's data is kept;
one whose data is not lost changes no entry. -/
def Obligations.CoherentTransactionsGoOn : Prop :=
  (∀ (s : State) (p : Packet) (n : SliceIx) (k : BitVec 49) (a : Fin 49) (e : Nat) (x : Extent),
    (s.cadSlice n).txns = [{ lines := [k.toNat], kind := .home, req := p, reading := true }] → p.opcode = 0x10 → s.who p = some (.agent a) →
    s.entry n k.toNat = {} → keyHome k.toNat = s.ix → s.extAt (keyOff k.toNat) = some (e, x) → x.wb = false →
    s.lostAt x (keyOff k.toNat) 128 = false → (s.cadSlice n).sweeping = [] → s.poisoned (keyOff k.toNat) = false →
    s.calmLine (keyOff k.toNat / 128) = true →
    Runs (.homeMemoryReadDone n k) s (fun t => t.entry n k.toNat = ({} : DirEntry).setOwner a .e ∧ (t.cadSlice n).txns = [] ∧
      Answered s t p stOK ∧ t.out.getLast?.map (fun c => (c.grant, c.payload)) = some (2, s.readMem (keyOff k.toNat) 128) ∧
      Only [.regs, .cad, .out] s t ∧ OnlyPages (pgMtr :: slotPages s (keyOff k.toNat)) s t)) ∧
  (∀ (s : State) (p c : Packet) (n : SliceIx) (k : BitVec 49),
    (s.cadSlice n).txns = [{ lines := [k.toNat], kind := .home, req := p, applied := true, writes := 1, ans := some c }] →
    Runs (.memWriteAccepted n k) s (fun t => (t.cadSlice n).txns = [] ∧ (t.cadSlice n).entries = (s.cadSlice n).entries ∧ Answered s t p c.status ∧
      Only [.regs, .cad, .out] s t ∧ OnlyPages [pgMtr] s t)) ∧
  (∀ (s : State) (n : SliceIx) (k : BitVec 49), (s.cadSlice n).txns = [] →
    Runs (.backingFetchDone n k) s (fun t => k.toNat ∉ (t.cadSlice n).spilled ∧ (t.cadSlice n).entries = (s.cadSlice n).entries ∧
      (t.cadSlice n).txns = [] ∧ (∀ m, m ≠ n.val → t.cadSlice m = s.cadSlice m) ∧ Only [.cad] s t)) ∧
  (∀ (s : State) (n : SliceIx) (p : Packet), (s.cadSlice n).conflictQ = [(0, p)] → p.cls = 1 → (s.cadSlice n).txns = [] →
    gfaHome p.gfa ≠ s.ix → keyOff (p.gfa.toNat / 128) / 0x1000 % 4 = n.val → (s.entry n (p.gfa.toNat / 128)).isFree = true →
    Runs (.conflictQueueDequeue n) s (fun t => (t.cadSlice n).conflictQ = [] ∧ (t.cadSlice n).entries = (s.cadSlice n).entries ∧
      Sent s t (fun c => c.opcode = 0x31 ∧ c.tid = p.tid ∧ c.poi = false) ∧ Only [.regs, .cad, .out] s t ∧ OnlyPages [pgCad n] s t)) ∧
  (∀ (s : State) (n : Nat) (p : Packet) (h : Holder) (w : Nat × Holder) (x : Txn) (lost : Bool), s.keySlice (p.gfa.toNat / 128) = n →
    s.who p = some h → (s.cadSlice n).txns = [x] → x.waiting = [(p.gfa.toNat / 128, h), w] → x.got = [] →
    (lost = false ∨ (s.entry n (p.gfa.toNat / 128)).dirtyAt h = false) →
    (Runs (.sak p lost) s (fun t => (t.cadSlice n).txns = [{ x with waiting := [w] }] ∧ (∀ m, m ≠ n → t.cadSlice m = s.cadSlice m) ∧
      (lost = false → (t.cadSlice n).entries = (s.cadSlice n).entries) ∧ Only [.seqs, .cad] s t)) ∧
    (Runs (.sda p lost) s (fun t => (t.cadSlice n).txns = [{ x with waiting := [w], got := [(p.gfa.toNat / 128, slice p.payload 0 128)] }] ∧
      (t.cadSlice n).entries = (s.cadSlice n).entries ∧ (∀ m, m ≠ n → t.cadSlice m = s.cadSlice m) ∧ Only [.seqs, .cad] s t)))

/-- At a proxy, for a line that no local agent holds, whose data is not lost, that no write-back in flight carries, and on which no round works: SNI
and SNF leave the line not held and are answered by one SAK to the home's Tiolo; SND leaves the line free or S, and is answered by one SAK. SPI
removes the replica page, and where no local agent holds a copy served from it, is answered by one SAK. -/
def Obligations.SnoopsAtTheProxy : Prop :=
  (∀ (s : State) (p : Packet) (n k : Nat), gfaHome p.gfa ≠ s.ix → k = p.gfa.toNat / 128 → n = keyOff k / 0x1000 % 4 → s.roundOn n k = false →
    (s.entry n k).locals = [] → (s.entry n k).lostData = false → s.inFlight n k = none →
    let answered (P : DirEntry → Prop) (t : State) : Prop := P (t.entry n k) ∧ (∀ j, j ≠ k → t.entry n j = s.entry n j) ∧
      (t.cadSlice n).txns = (s.cadSlice n).txns ∧ (∀ m, m ≠ n → t.cadSlice m = s.cadSlice m) ∧
      Sent s t (fun c => c.opcode = 0x31 ∧ c.tid = p.tid ∧ c.poi = false ∧ c.dst = BitVec.ofNat 17 (p.src.toNat * 128)) ∧
      Only [.regs, .seqs, .cad, .out] s t ∧ OnlyPages [pgCad n] s t
    Runs (.sni p) s (answered (fun e => e.isFree = true)) ∧ Runs (.snf p) s (answered (fun e => e.isFree = true)) ∧
    Runs (.snd p) s (answered (fun e => e.isFree = true ∨ e.gstate = .s))) ∧
  (∀ (s : State) (p : Packet) (n : Nat), gfaHome p.gfa ≠ s.ix → n = gfaOff p.gfa / 0x1000 % 4 → (s.cadSlice n).replHolders = [] →
    Runs (.spi p) s (fun t => kget (t.cadSlice n).replicas (p.gfa.toNat / 0x1000) = none ∧
      (∀ g, g ≠ p.gfa.toNat / 0x1000 → kget (t.cadSlice n).replicas g = kget (s.cadSlice n).replicas g) ∧
      (t.cadSlice n).entries = (s.cadSlice n).entries ∧ (t.cadSlice n).txns = (s.cadSlice n).txns ∧ (∀ m, m ≠ n → t.cadSlice m = s.cadSlice m) ∧
      Sent s t (fun c => c.opcode = 0x31 ∧ c.tid = p.tid ∧ c.dst = BitVec.ofNat 17 (p.src.toNat * 128)) ∧
      Only [.regs, .seqs, .cad, .out] s t ∧ OnlyPages [pgCad n] s t))

/-- RPQ of another Tiolo for a page that still qualifies, of which no line is poisoned or owned and every line has room for its entry, records the requester's group
in the replica table and as a sharer of every line, and answers with the page. For a page that does not qualify (replicas off, its extent without
REPL, no candidate, the table or the sets full), or one of an extent that is not coherent, it is answered with RETRY and records nothing. While
replicas are on, the end of a window empties the measurement table and the offers; while they are off, it changes nothing. A dropped replica page
is no longer held. -/
def Obligations.ReplicasAtHome : Prop :=
  (∀ (s : State) (p : Packet) (n pg : Nat), admittedPage s p n pg = true → s.qualifies n (keyOff (32 * pg)) = true →
    s.shortSet n (pageLines pg) = none → (pageLines pg).all (fun k => (s.entry n k).owner.isNone) = true →
    s.anyPoison (keyOff (32 * pg)) 0x1000 = false →
    Runs (.rpq p) s (fun t =>
      kgetD (t.cadSlice n).replTable pg 0 = kgetD (s.cadSlice n).replTable pg 0 ||| coarseBit p.src ∧
      (∀ g, g ≠ pg → kget (t.cadSlice n).replTable g = kget (s.cadSlice n).replTable g) ∧
      (∀ k ∈ pageLines pg, (t.entry n k).gstate = .s ∧ (t.entry n k).gsharers &&& coarseBit p.src = coarseBit p.src) ∧
      (∀ k, k ∉ pageLines pg → t.entry n k = s.entry n k) ∧ t.mem = s.mem ∧ Answered s t p stOK ∧
      t.out.getLast?.map Packet.payload = some (s.readMem (keyOff (32 * pg)) 0x1000))) ∧
  (∀ (s : State) (p : Packet) (n pg : Nat), admittedPage s p n pg = true → s.qualifies n (keyOff (32 * pg)) = false →
    Runs (.rpq p) s (fun t => (t.cadSlice n).replTable = (s.cadSlice n).replTable ∧ (t.cadSlice n).entries = (s.cadSlice n).entries ∧
      Answered s t p stRetry ∧ Only [.regs, .seqs, .cad, .out] s t ∧ OnlyPages [pgCad n, pgMtr] s t)) ∧
  (∀ (s : State) (p : Packet), admittedPlain s { p with opcode := 0x17, len := 0x1000 } = true →
    Runs (.rpq p) s (fun t => (∀ n, (t.cadSlice n).replTable = (s.cadSlice n).replTable ∧ (t.cadSlice n).entries = (s.cadSlice n).entries) ∧
      Answered s t p stRetry ∧ Only [.regs, .seqs, .cad, .out] s t ∧ OnlyPages [pgMtr] s t)) ∧
  (∀ (s : State) (n : SliceIx), s.replOn n = true →
    Runs (.replWindowEnd n) s (fun t => (t.cadSlice n).measure = [] ∧ (t.cadSlice n).offers = [] ∧ (t.cadSlice n).replTable = (s.cadSlice n).replTable ∧
      (t.cadSlice n).entries = (s.cadSlice n).entries ∧ (∀ m, m ≠ n.val → t.cadSlice m = s.cadSlice m) ∧
      Only [.regs, .cad] s t ∧ OnlyPages [pgCad n] s t)) ∧
  (∀ (s : State) (n : SliceIx), s.replOn n = false → Runs (.replWindowEnd n) s (fun t => t = s)) ∧
  (∀ (s : State) (n : SliceIx) (g : BitVec 44),
    Runs (.replicaDrop n g) s (fun t => kget (t.cadSlice n).replicas g.toNat = none ∧
      (∀ h, h ≠ g.toNat → kget (t.cadSlice n).replicas h = kget (s.cadSlice n).replicas h) ∧
      (t.cadSlice n).entries = (s.cadSlice n).entries ∧ (∀ m, m ≠ n.val → t.cadSlice m = s.cadSlice m) ∧ Only [.cad] s t))

/-- When a snooped local agent stays silent, every slice records it as dead and sweeps, and where the slice already sweeps for it only counters
change; a silent remote Tiolo is severed by that slice. When no entry of a slice names a swept agent, its sweep ends; while one does, nothing
changes. Writes of 1 to CAD_DEAD outside a sweep and to CAD_SEVER clear those bits. A home line whose entry is lost reads as POISON, loses its
entry, and is listed as lost in its extent, whose parcel gets the FATAL vector. -/
def Obligations.HoldersThatFail : Prop :=
  (∀ (s : State) (n : SliceIx) (k : BitVec 49) (a : Fin 49), (s.txnIx n (fun t => t.waiting.contains (k.toNat, Holder.agent a))).isSome = true →
    ((s.cadSlice n).sweeping.contains a.val = false → Runs (.snoopTimeout n k (.agent a)) s (fun t => ∀ m, m < 4 →
      t.bit (rCadDead m) a.val = true ∧ t.bit (rCadDead m) 63 = true ∧ a.val ∈ (t.cadSlice m).sweeping)) ∧
    ((s.cadSlice n).sweeping.contains a.val = true → Runs (.snoopTimeout n k (.agent a)) s (fun t => Only [.regs] s t ∧ OnlyPages [pgCad n] s t))) ∧
  (∀ (s : State) (n : SliceIx) (k : BitVec 49) (x : BitVec 10), (s.txnIx n (fun t => t.waiting.contains (k.toNat, Holder.tiolo x))).isSome = true →
    Runs (.snoopTimeout n k (.tiolo x)) s (fun t => t.severed n x.toNat = true)) ∧
  (∀ (s : State) (n : SliceIx),
    ((s.cadSlice n).entries.any (fun e => e.2.locals.any (fun a => (s.cadSlice n).sweeping.contains a.val)) = false →
      Runs (.deadSweepDone n) s (fun t => (t.cadSlice n).sweeping = [] ∧ t.bit (rCadDead n) 63 = false ∧
        (t.cadSlice n).entries = (s.cadSlice n).entries ∧ (∀ m, m ≠ n.val → t.cadSlice m = s.cadSlice m) ∧
        Only [.regs, .seqs, .cad, .recov, .mgmt] s t ∧ (s.recov.beatDue = false → Only [.regs, .cad] s t))) ∧
    ((s.cadSlice n).entries.any (fun e => e.2.locals.any (fun a => (s.cadSlice n).sweeping.contains a.val)) = true →
      Runs (.deadSweepDone n) s (fun t => t = s))) ∧
  (∀ (s : State) (n : SliceIx) (v : Word), s.cfgOpen (rCadDead n) = true → s.bit (rCadDead n) 63 = false →
    Runs (.cadDeadClear n v) s (fun t =>
      t.reg (rCadDead n) = (BitVec.ofNat 64 (s.reg (rCadDead n)) &&& ~~~v).toNat % 2 ^ 49 ∧ Only [.regs, .seqs] s t ∧ OnlyPages [pgCad n] s t)) ∧
  (∀ (s : State) (n : SliceIx) (j : Fin 16) (v : Word), s.cfgOpen (rCadSever n j) = true →
    Runs (.cadSeverClear n j v) s (fun t =>
      t.reg (rCadSever n j) = (BitVec.ofNat 64 (s.reg (rCadSever n j)) &&& ~~~v).toNat ∧ Only [.regs, .seqs] s t ∧ OnlyPages [pgCad n] s t)) ∧
  (∀ (s : State) (n : SliceIx) (k : BitVec 49) (e : Nat) (x : Extent), s.keySlice k.toNat = n.val → keyHome k.toNat = s.ix → (s.cadSlice n).txns = [] →
    s.extAt (keyOff k.toNat) = some (e, x) → s.ext e = x →
    Runs (.entryEccError n [k]) s (fun t => t.poisoned (keyOff k.toNat) = true ∧ keyOff k.toNat / 128 ∈ (t.ext e).lostLines ∧
      t.entry n k.toNat = {} ∧ (∃ r ∈ t.mgmt.raises, r.vector = x.owner)))

/-- A write of CAD_CTL to a slice that is not enabled, with EN 1, a BACKING_GIB from 1 to 8 that agrees with the other slices, all grants below the
reserved top and all stacks working, makes the slice enabled and READY with START_REFUSED clear; where one of these does not hold it stays
disabled and START_REFUSED is set. With EN 0, or to an enabled slice, it leaves EN, READY and START_REFUSED as they were. Each sets SPEC_EN,
REPL_EN and SPEC_QMAX. A write of CAD_PROBE_ADDR with GO copies the four words of the line's entry, or zero, and sets DONE. -/
def Obligations.SliceControl : Prop :=
  (∀ (s : State) (n : SliceIx) (v : Word), s.cfgOpen (rCadCtl n) = true →
    let u := s.cadCtlFields n v.toNat
    let gib := nbits v.toNat 11 8
    let fits : Bool := decide (1 ≤ gib) && decide (gib ≤ 8) && (s.backingGib == 0 || s.backingGib == gib) && !u.grantsAbove (u.topWith n) && u.stacksOk
    let fields (t : State) : Prop := t.bit (rCadCtl n) 1 = nbit v.toNat 1 ∧ t.bit (rCadCtl n) 2 = nbit v.toNat 2 ∧
      t.fld (rCadCtl n) 23 16 = nbits v.toNat 23 16
    (v.getLsbD 0 = true → s.bit (rCadCtl n) 0 = false → fits = true → Runs (.cadEnable n v) s (fun t =>
      t.bit (rCadCtl n) 0 = true ∧ t.bit (rCadStat n) 0 = true ∧ t.bit (rCadStat n) 1 = false ∧ t.fld (rCadCtl n) 11 8 = gib ∧ fields t ∧
      Only [.regs, .seqs, .cad] s t ∧ OnlyPages [pgCad n] s t)) ∧
    (v.getLsbD 0 = true → s.bit (rCadCtl n) 0 = false → fits = false → Runs (.cadEnable n v) s (fun t =>
      t.bit (rCadCtl n) 0 = false ∧ t.bit (rCadStat n) 1 = true ∧ t.bit (rCadStat n) 0 = s.bit (rCadStat n) 0 ∧ fields t ∧
      Only [.regs, .seqs, .cad, .recov, .mgmt] s t)) ∧
    ((v.getLsbD 0 = false ∨ s.bit (rCadCtl n) 0 = true) → Runs (.cadEnable n v) s (fun t =>
      t.bit (rCadCtl n) 0 = s.bit (rCadCtl n) 0 ∧ t.reg (rCadStat n) = s.reg (rCadStat n) ∧ fields t ∧
      Only [.regs, .seqs, .cad] s t ∧ OnlyPages [pgCad n] s t))) ∧
  (∀ (s : State) (n : SliceIx) (v : Word), s.cfgOpen (rCadProbeAddr n) = true → v.getLsbD 63 = true →
    Runs (.cadProbe n v) s (fun t => t.bit (rCadProbeAddr n) 62 = true ∧ t.fld (rCadProbeAddr n) 55 0 = v.toNat % 2 ^ 56 ∧
      (∀ j, j < 4 → t.reg (rCadProbe n j) = (match kget (s.cadSlice n).entries (v.toNat % 2 ^ 56 / 128) with
        | some e => entryBits (v.toNat % 2 ^ 56 / 128) (s.busyLine n (v.toNat % 2 ^ 56 / 128)) e
        | none => 0) / 2 ^ (64 * j) % 2 ^ 64) ∧ Only [.regs, .seqs] s t ∧ OnlyPages [pgCad n] s t))

namespace Sys2Proof.Machine

/-- A packet from a GRID port as its ingress passes it on. -/
def oneHop (p : Packet) : Packet := { p with hop := p.hop + 1 }

/-- Neither a full list of tracked requests nor a full queue of its slice holds a packet at the head of a port's channel. -/
def State.headFree (s : State) (j : Nat) (x : Stored) : Bool :=
  !(s.portRole j == roleAccel && s.trackersFull j x.pkt) && !s.sliceHolds x.pkt x.internal

/-- The contract of its parcel lets a packet at the head of a port's channel pass; only ACCEL ports' requests and data are metered. -/
def State.headMeter (s : State) (j : Nat) (x : Stored) : Bool :=
  !(s.portRole j == roleAccel && (x.pkt.cls == 0 || x.pkt.cls == 4)) ||
  (s.contractTest ((s.portParcel j).getD 64) (64 * pktFlits x.pkt) (s.firstGrade x.pkt x.outs x.internal) .green).2

/-- Such a packet passes the pool test. -/
def State.headFits (s : State) (x : Stored) : Bool := s.poolTest x.account x.pkt.cls.toNat (s.poolShare x.pkt.cls.toNat x.cells) == 0

end Sys2Proof.Machine

/-- An unsampled packet of an allocated opcode and class from a GRID port, not multicast, for an internal target of this Tiolo, is stored with HOP one
more, waiting for admission in its channel; while the buffer has no room for it, it is not taken. A request from an ACCEL port that belongs to no
parcel is tracked and completes with ACCESS_FAULT, is not stored, and its flits become free. The head of a channel that has not expired and is not
held is admitted, or taken by its internal target, when it passes the pool test and its contract, and its flits become free; when it is held,
nothing changes; when it fails the pool test or its contract, it stays, and only counters, arbiters and meters change. A drain marker at its
destination goes back in the RSP class; one for elsewhere is not answered. -/
def Obligations.PacketsEnterTheSwitch : Prop :=
  (∀ (s : State) (j : PortIx) (p : Packet), s.portRole j.val = roleGrid → p.cls.toNat ≤ 5 → knownOp p.opcode.toNat = true → p.mcx = none →
    destOf (oneHop p) = s.ix → s.inGrid s.ix = true → endPort (oneHop p) .grid = none → s.noEndpoint (oneHop p) .grid = false →
    nbit (s.reg (rPortSmp j.val)) (6 * p.cls.toNat + 5) = false →
    (s.hasRoom (j.val / 8) (pktCells (oneHop p)) = true → Runs (.packetIngress (.port j) p) s (fun t => t.sw.buf.dropLast = s.sw.buf ∧
      (t.sw.buf.getLast?).map (fun x => (x.pkt, x.input, x.internal, x.outs, x.admitted, x.link)) =
        some (oneHop p, j.val, true, [], false, some (j.val, (s.arrived j.val p).1)) ∧
      t.out = s.out ∧ Only [.regs, .seqs, .links, .sw] s t ∧ OnlyPages [pgSch] s t)) ∧
    (s.hasRoom (j.val / 8) (pktCells (oneHop p)) = false → Runs (.packetIngress (.port j) p) s (fun t => t = s))) ∧
  (∀ (s : State) (j : PortIx) (p : Packet), s.portRole j.val = roleAccel → p.cls = 0 → s.portParcel j.val = none → p.opcode.toNat ≠ opSAK →
    p.opcode.toNat ≠ opSDA → nbit (s.reg (rPortSmp j.val)) (6 * p.cls.toNat + 5) = false →
    let v := (s.arrived j.val p).1
    Runs (.packetIngress (.port j) p) s (fun t => t.sw.buf = s.sw.buf ∧ Sent s t (fun c => c.opcode = 0x30 ∧ c.tid = p.tid ∧ c.status = stAccessFault) ∧
      kgetD (t.link j.val).freed v 0 = kgetD (s.link j.val).freed v 0 + pktFlits p ∧
      (∃ x ∈ t.recov.trackers, x.purpose = .outside ∧ x.req.tid = p.tid) ∧ t.recov.books = s.recov.books ∧
      Only [.regs, .seqs, .links, .sw, .out, .recov] s t ∧ OnlyPages [pgMtr] s t)) ∧
  (∀ (s : State) (j : PortIx) (v : Fin 18) (x : Stored), s.waitingHead j.val v.val = some x → s.expired x.pkt x.res = false →
    (s.headFree j.val x = true → s.headFits x = true → s.headMeter j.val x = true → Runs (.cellAdmit j v) s (fun t =>
      (x.outs ≠ [] → { x with admitted := true, pool := s.poolShare x.pkt.cls.toNat x.cells, link := none, internal := false } ∈ t.sw.buf) ∧
      (x.outs = [] → ∀ y ∈ t.sw.buf, y.id ≠ x.id) ∧ (∀ y ∈ s.sw.buf, y.id ≠ x.id → y ∈ t.sw.buf) ∧
      kgetD (t.link j.val).freed v.val 0 = kgetD (s.link j.val).freed v.val 0 + pktFlits x.pkt ∧
      Only [.regs, .seqs, .links, .sw, .traf] s t ∧ OnlyPages [pgSch, pgMtr] s t)) ∧
    (s.headFree j.val x = false → Runs (.cellAdmit j v) s (fun t => t = s)) ∧
    (s.headFree j.val x = true → s.headFits x = false → Runs (.cellAdmit j v) s (fun t => Only [.regs] s t ∧ OnlyPages [pgSch] s t)) ∧
    (s.headFree j.val x = true → s.headFits x = true → s.headMeter j.val x = false → Runs (.cellAdmit j v) s (fun t =>
      Only [.regs, .seqs, .traf] s t ∧ OnlyPages [pgMtr] s t))) ∧
  (∀ (s : State) (p : Packet), p.dst.toNat / 128 = s.ix →
    Runs (.drn p) s (fun t => Only [.out] s t ∧
      Sent s t (fun c => c.cls = 2 ∧ c.tid = p.tid ∧ c.flow = p.flow ∧ c.dst = BitVec.ofNat 17 (p.src.toNat * 128)))) ∧
  (∀ (s : State) (p : Packet), p.dst.toNat / 128 ≠ s.ix → Runs (.drn p) s (fun t => Only [.regs, .seqs, .sw] s t ∧ OnlyPages [pgSch] s t))

/-- An age sweep leaves everything when no packet has expired; an expired request that has not started leaves the buffer, its flits become free if it
was not admitted, and its requester gets a TIMEOUT completion of grade 7. A written sample record advances HEAD. A write of SCH_CLASS_RSV that fits
96 MiB takes effect, and one that does not is refused. While no packet waits for admission, a meter refill adds each enabled meter's rates, up to
its bucket sizes. -/
def Obligations.PacketsAgeAndAreSampled : Prop :=
  (∀ (s : State), s.sw.buf.all (fun x => x.frame.isSome || !s.expired x.pkt x.res) = true → Runs .ageSweep s (fun t => t = s)) ∧
  (∀ (s : State) (x : Stored), s.sw.buf = [x] → x.frame = none → s.expired x.pkt x.res = true → x.started = [] → x.pkt.cls = 0 →
    x.pkt.opcode.toNat ≠ opDRN →
    Runs .ageSweep s (fun t => t.sw.buf = [] ∧
      Sent s t (fun c => c.opcode = 0x30 ∧ c.tid = x.pkt.tid ∧ c.agent = x.pkt.agent ∧ c.status = stTimeout ∧ c.grade = 7) ∧ t.mem = s.mem ∧
      ((x.admitted = true ∨ x.link = none) → t.links = s.links) ∧
      (∀ j v, x.admitted = false → x.link = some (j, v) →
        kgetD (t.link j).freed v 0 = kgetD (s.link j).freed v 0 + pktFlits x.pkt))) ∧
  (∀ (s : State) (x : Sample) (rest : List Sample), s.sw.samples = x :: rest →
    Runs .sampleRecordWritten s (fun t => t.sw.samples = rest ∧ t.sw.buf = s.sw.buf ∧
      t.fld rSchSmpHead 31 0 = (s.fld rSchSmpHead 31 0 + 1) % 2 ^ 32 ∧ Only [.regs, .seqs, .stk, .sw] s t)) ∧
  (∀ (s : State) (v : Word), s.cfgOpen rSchClassRsv = true → s.linkReserve + 8192 * rsvMiB v.toNat ≤ 96 * 8192 →
    Runs (.classRsvWrite v) s (fun t => t.reg rSchClassRsv = v.toNat % 2 ^ 48 ∧
      t.bit rSchStat 48 = false ∧ Only [.regs, .seqs] s t ∧ OnlyPages [pgSch] s t)) ∧
  (∀ (s : State) (v : Word), s.cfgOpen rSchClassRsv = true → 96 * 8192 < s.linkReserve + 8192 * rsvMiB v.toNat →
    Runs (.classRsvWrite v) s (fun t => t.reg rSchClassRsv = s.reg rSchClassRsv ∧
      t.bit rSchStat 48 = true ∧ Only [.regs, .seqs] s t ∧ OnlyPages [pgSch] s t)) ∧
  (∀ (s : State), s.sw.buf.all (fun x => x.admitted) = true →
    Runs .meterRefill s (fun t => Only [.traf] s t ∧ t.traf.shapers = s.traf.shapers ∧ t.traf.gates = s.traf.gates ∧
      ∀ m, (t.meter m).cfg0 = (s.meter m).cfg0 ∧ (t.meter m).cfg1 = (s.meter m).cfg1 ∧
        (t.meter m).tc = (if (s.meter m).en then min (s.meter m).cbs ((s.meter m).tc + s.gain64 (s.meter m).cir) else (s.meter m).tc) ∧
        (t.meter m).tp = (if (s.meter m).en then min (s.meter m).pbs ((s.meter m).tp + s.gain64 (s.meter m).pir) else (s.meter m).tp)))

/-- A grade update gives every measured resource its grade and shows the outputs' grades; while no packet waits for admission it changes nothing else.
A write of MTR_CFG0 that R396 accepts takes effect, the buckets cut to the new sizes; a write of MTR_CFG1 takes effect unless it enables a meter
whose configuration R396 does not accept, and the buckets are full when EN rises; another write is refused and marked. A shaper refill adds each
enabled shaper's rate up to BURST. A write of SHP_CFG takes effect, with an empty bucket when EN rises and else one cut to BURST; RATE 0, a BURST
under 5 KiB, or a target that another enabled shaper has, is refused and marked. -/
def Obligations.MetersAndGrades : Prop :=
  (∀ (s : State),
    Runs .gradeUpdate s (fun t => (∀ k, k < 140 → t.grade k = s.measureGrade k) ∧
      (∀ j, j < 8 → t.reg (rGradeOut j) = (List.range 16).foldl (fun w k => w + s.measureGrade (16 * j + k) * 2 ^ (4 * k)) 0) ∧
      (s.sw.buf.all (fun x => x.admitted) = true → t.sw.buf = s.sw.buf ∧ Only [.regs, .sw] s t))) ∧
  (∀ (s : State) (v : Word) (m : Nat), s.cfgOpen rMtrCfg0 = true → s.fld rMtrSel 8 0 = m → m < 320 → ({ s.meter m with cfg0 := v } : Meter).ok = true →
    Runs (.meterConfig false v) s (fun t => (t.meter m).cfg0 = v ∧ (t.meter m).tc = min (s.meter m).tc (t.meter m).cbs ∧
      (t.meter m).tp = min (s.meter m).tp (t.meter m).pbs ∧ (t.meter m).en = (s.meter m).en ∧ (t.meter m).cfg1.getLsbD 63 = false ∧
      (∀ k, k ≠ m → t.meter k = s.meter k) ∧ Only [.seqs, .traf] s t)) ∧
  (∀ (s : State) (v : Word) (m : Nat), s.cfgOpen rMtrCfg1 = true → s.fld rMtrSel 8 0 = m → m < 320 →
    (v.getLsbD 0 = false ∨ (s.meter m).ok = true) →
    Runs (.meterConfig true v) s (fun t => (t.meter m).cfg0 = (s.meter m).cfg0 ∧ (t.meter m).en = v.getLsbD 0 ∧ (t.meter m).ca = v.getLsbD 1 ∧
      (t.meter m).tc = (if v.getLsbD 0 && !(s.meter m).en then (s.meter m).cbs else (s.meter m).tc) ∧
      (t.meter m).tp = (if v.getLsbD 0 && !(s.meter m).en then (s.meter m).pbs else (s.meter m).tp) ∧
      (∀ k, k ≠ m → t.meter k = s.meter k) ∧ Only [.seqs, .traf] s t)) ∧
  (∀ (s : State) (v : Word) (m : Nat) (b : Bool), s.cfgOpen (if b then rMtrCfg1 else rMtrCfg0) = true → s.fld rMtrSel 8 0 = m → m < 320 →
    (if b then v.getLsbD 0 = true ∧ (s.meter m).ok = false else ({ s.meter m with cfg0 := v } : Meter).ok = false) →
    Runs (.meterConfig b v) s (fun t => (t.meter m).cfg0 = (s.meter m).cfg0 ∧ (t.meter m).tc = (s.meter m).tc ∧ (t.meter m).tp = (s.meter m).tp ∧
      (t.meter m).en = (s.meter m).en ∧ (t.meter m).cfg1.getLsbD 63 = true ∧ (∀ k, k ≠ m → t.meter k = s.meter k) ∧ Only [.seqs, .traf] s t)) ∧
  (∀ (s : State),
    Runs .shaperRefill s (fun t => (∀ k, (t.shaper k).cfg = (s.shaper k).cfg ∧ (t.shaper k).tokens =
        (if (s.shaper k).en then min (Int.ofNat (s.shaper k).burst) ((s.shaper k).tokens + Int.ofNat (s.gain64 (s.shaper k).rate)) else (s.shaper k).tokens)) ∧
      t.traf.meters = s.traf.meters ∧ Only [.regs, .traf] s t ∧ OnlyPages [pgMtr] s t)) ∧
  (∀ (s : State) (v : Word) (k : Nat), s.cfgOpen rShpCfg = true → s.fld rShpSel 7 0 = k →
    let y : Shaper := { s.shaper k with cfg := BitVec.ofNat 64 (shpMask v.toNat) }
    let ok : Bool := decide (1 ≤ nbits v.toNat 31 16) && decide (5 ≤ nbits v.toNat 47 32) &&
      !(v.getLsbD 0 && s.traf.shapers.any (fun e => e.1 != k && e.2.en && e.2.target == y.target))
    (ok = true → Runs (.shaperConfig v) s (fun t => (t.shaper k).cfg = y.cfg ∧
      (t.shaper k).tokens = (if v.getLsbD 0 && !(s.shaper k).en then 0 else min (s.shaper k).tokens (Int.ofNat y.burst)) ∧
      (∀ i, i ≠ k → t.shaper i = s.shaper i) ∧ Only [.seqs, .traf] s t)) ∧
    (ok = false → Runs (.shaperConfig v) s (fun t => (t.shaper k).cfg.getLsbD 63 = true ∧ (t.shaper k).tokens = (s.shaper k).tokens ∧
      (t.shaper k).en = (s.shaper k).en ∧ (∀ i, i ≠ k → t.shaper i = s.shaper i) ∧ Only [.seqs, .traf] s t)))

/-- Either write of PORT_GATE with EN of a list that passes R404's checks puts a port without a list under that list, not anchored, makes a different
list pending on a port that has one, and takes a pending change back when it names the list in effect; a list that fails them is refused, and the
port keeps what it has; with EN 0 the port has no list. A write of GL_DATA to an entry of no list in effect sets it; one in effect is refused.
When the offset of an anchored list reaches the next entry, that entry is in effect; without a next entry nothing changes. -/
def Obligations.GateLists : Prop :=
  (∀ (s : State) (p : PortIx) (v : Word), s.cfgOpen (rPortGate p.val) = true →
    let base := nbits v.toNat 11 0
    let count := nbits v.toNat 20 12
    let both (P : State → Prop) : Prop := Runs (.gateListEnable p v) s P ∧ Runs (.gateListChange p v) s P
    let takes (g : Option Gate) (t : State) : Prop := t.gate p.val = g ∧ (∀ q, q ≠ p.val → t.gate q = s.gate q) ∧
      t.fld (rPortGate p.val) 20 0 = nbits v.toNat 20 0 ∧ t.bit (rPortGate p.val) 48 = v.getLsbD 48 ∧ t.traf.table = s.traf.table ∧
      Only [.regs, .seqs, .traf] s t ∧ OnlyPages [pgPort2 p.val] s t
    (v.getLsbD 48 = true → s.listOk p.val base count = true →
      (s.gate p.val = none → both (takes (some { base := base, count := count }))) ∧
      (∀ g, s.gate p.val = some g → (g.base ≠ base ∨ g.count ≠ count) → both (takes (some { g with pending := some (base, count) }))) ∧
      (∀ g, s.gate p.val = some g → g.base = base → g.count = count → both (takes (some { g with pending := none })))) ∧
    (v.getLsbD 48 = true → s.listOk p.val base count = false → both (fun t =>
      t.traf = s.traf ∧ t.bit (rPortGate p.val) 49 = true ∧ Only [.regs, .seqs] s t ∧ OnlyPages [pgPort2 p.val, pgGl] s t)) ∧
    (v.getLsbD 48 = false → both (takes none))) ∧
  (∀ (s : State) (v : Word), s.cfgOpen rGlData = true → s.entryInEffect (s.fld rGlAddr 11 0) = false →
    Runs (.gateEntryWrite v) s (fun t =>
      t.glEntry (s.fld rGlAddr 11 0) = (nbits v.toNat 31 0, BitVec.ofNat 8 (nbits v.toNat 39 32)) ∧ t.bit rGlStat 0 = false ∧
      (∀ k, k ≠ s.fld rGlAddr 11 0 → t.glEntry k = s.glEntry k) ∧ t.traf.gates = s.traf.gates ∧ Only [.regs, .seqs, .traf] s t ∧ OnlyPages [pgGl] s t)) ∧
  (∀ (s : State) (v : Word), s.cfgOpen rGlData = true → s.entryInEffect (s.fld rGlAddr 11 0) = true →
    Runs (.gateEntryWrite v) s (fun t =>
      t.traf = s.traf ∧ t.bit rGlStat 0 = true ∧ Only [.regs, .seqs] s t ∧ OnlyPages [pgGl] s t)) ∧
  (∀ (s : State) (p : PortIx) (g : Gate), s.gate p.val = some g → g.anchored = true →
    (g.entry + 1 < g.count → Runs (.gateEntryTransition p) s (fun t =>
      t.gate p.val = some { g with entry := g.entry + 1, offset := max g.offset (s.glEntry (g.base + g.entry + 1)).1 } ∧
      (∀ q, q ≠ p.val → t.gate q = s.gate q) ∧ Only [.traf] s t)) ∧
    (g.count ≤ g.entry + 1 → Runs (.gateEntryTransition p) s (fun t => t = s)))

namespace Sys2Proof.Machine

/-- The tier command that a doorbell write queues first, under number 0 (R156, R157). -/
def tierCmdOf (op n : Nat) (p : Packet) : TierCmd :=
  let q : Packet := { p with payload := leBytes 1 op ++ p.payload.drop 1 }
  { id := 0, parcel := n, op := BitVec.ofNat 8 op, desc := descOf q, req := q }

/-- The doorbell write that queues a tier command of each operation (R158). -/
def tierInstr (op : Nat) (p : Packet) : Instr :=
  match op with
  | 1 => .ocreate p
  | 2 => .odelete p
  | 3 => .owrite p
  | 4 => .oread p
  | 5 => .copy p
  | 6 => .flush p
  | 7 => .pin p
  | 8 => .unpin p
  | _ => .oquery p

/-- A doorbell write of a 64 B descriptor by a job of parcel `n` finds the tier-command queue empty, no earlier write of its job held, and T2
mounted. -/
def State.tierReady (s : State) (n : Nat) (p : Packet) : Bool :=
  s.engineDoor p == stOK && s.parcelOf p.job.toNat == some n && s.tier.cmds.isEmpty && !s.doorWaits 1 p && s.bit rTlStat 0

/-- The first command has ended with OK. -/
abbrev State.tierOK (s : State) : Prop := (s.cmd 0).map (fun c => (c.phase, c.status)) = some (.ended, stOK)

end Sys2Proof.Machine

/-- A doorbell write of a tier command that the doorbell's checks refuse completes with their status; one that finds no room, or an earlier one of its
job held, is held. One that finds the queue empty is accepted with OK, and a command that fails its own checks ends with their status. OCREATE that
passes them makes an object of the parcel, of that size, under a fresh key, and runs until its end; ODELETE marks the object as being deleted, and
runs until its end. FLUSH of a range with no dirty page ends with OK, and of one dirty page writes it to the module and waits for its
acknowledgement; PIN of one page in a frame at rest, within quota, UNPIN, and OQUERY take effect and end with OK. -/
def Obligations.TierCommandsThatEndAtOnce : Prop :=
  (∀ (s : State) (p : Packet) (op n : Nat), 1 ≤ op → op ≤ 9 →
    (s.engineDoor p ≠ stOK → Runs (tierInstr op p) s (fun t => Answered s t p (s.engineDoor p) ∧ Only [.regs, .seqs, .out] s t ∧ OnlyPages [pgMtr] s t)) ∧
    (s.engineDoor p = stOK → s.parcelOf p.job.toNat = some n → (s.tierRoom n = false ∨ s.doorWaits 1 p = true) → Runs (tierInstr op p) s (fun t =>
      t.tier = { s.tier with held := s.tier.held ++ [{ door := 1, req := (tierCmdOf op n p).req }] } ∧ Only [.seqs, .tier] s t))) ∧
  (∀ (s : State) (p : Packet) (op n : Nat), 1 ≤ op → op ≤ 9 → s.tierReady n p = true →
    let st := if op = 1 then s.createStatus (tierCmdOf op n p) else s.startStatus (tierCmdOf op n p)
    st ≠ stOK → Runs (tierInstr op p) s (fun t => (t.cmd 0).map (fun c => (c.phase, c.status)) = some (.ended, st) ∧ Answered s t p stOK ∧
      t.tier.objs = s.tier.objs ∧ t.tier.frames = s.tier.frames ∧ Only [.regs, .seqs, .tier, .out] s t ∧ OnlyPages [pgTl, pgMtr] s t)) ∧
  (∀ (s : State) (p : Packet) (n : Nat), s.tierReady n p = true → s.createStatus (tierCmdOf 1 n p) = stOK →
    let size := (tierCmdOf 1 n p).len / 2 ^ 20
    Runs (.ocreate p) s (fun t =>
      kget t.tier.objs s.freeObj = some { owner := n, size := size, key := s.sec.drawn + 1, wrap := s.sec.life.mediaKey, creating := true } ∧
      (∀ i, i ≠ s.freeObj → kget t.tier.objs i = kget s.tier.objs i) ∧
      (t.cmd 0).map (fun c => (c.phase, c.object, c.sizeMiB)) = some (.running, s.freeObj, size) ∧ Answered s t p stOK ∧
      Only [.regs, .seqs, .tier, .sec, .out] s t)) ∧
  (∀ (s : State) (p : Packet) (n : Nat) (o : Obj), s.tierReady n p = true → s.startStatus (tierCmdOf 2 n p) = stOK →
    kget s.tier.objs (tierCmdOf 2 n p).obj = some o →
    Runs (.odelete p) s (fun t => kget t.tier.objs (tierCmdOf 2 n p).obj = some { o with deleting := true } ∧ t.tier.units = s.tier.units ∧
      (∀ i, i ≠ (tierCmdOf 2 n p).obj → kget t.tier.objs i = kget s.tier.objs i) ∧ (t.cmd 0).map (fun c => c.phase) = some .running ∧
      Answered s t p stOK)) ∧
  (∀ (s : State) (p : Packet) (n : Nat), s.tierReady n p = true → s.startStatus (tierCmdOf 6 n p) = stOK →
    ((s.wbFrames (tierCmdOf 6 n p)).all (fun e => !e.2.dirty) = true → Runs (.flush p) s (fun t => t.tier.frames = s.tier.frames ∧ t.mem = s.mem ∧
      t.tierOK ∧ Answered s t p stOK)) ∧
    (∀ (k : Nat) (f : Frame), (tierCmdOf 6 n p).len = 0x1000 → k = gfaOff (BitVec.ofNat 56 (tierCmdOf 6 n p).addrA) / 0x1000 →
      kget s.tier.frames k = some f → f.dirty = true → f.cleaning = false → s.Canon → Runs (.flush p) s (fun t =>
        kget t.tier.frames k = some { f with cleaning := true, restored := false } ∧
        memRead t.mem.cells (0x1000 * k) 0x1000 = memRead s.mem.cells f.pool 0x1000 ∧
        (t.cmd 0).map (fun c => c.phase) = some .running ∧ Answered s t p stOK))) ∧
  (∀ (s : State) (p : Packet) (n : Nat) (k : Nat) (f : Frame), s.tierReady n p = true → s.startStatus (tierCmdOf 7 n p) = stOK →
    (tierCmdOf 7 n p).len = 0x1000 → k = gfaOff (BitVec.ofNat 56 (tierCmdOf 7 n p).addrA) / 0x1000 → kget s.tier.frames k = some f →
    f.filling = false → f.evict = false → s.pinned n (s.frameRegion k) < 256 * (s.quota n).t0 →
    Runs (.pin p) s (fun t => kget t.tier.frames k = some { f with pin := true } ∧ (∀ i, i ≠ k → kget t.tier.frames i = kget s.tier.frames i) ∧
      t.mem = s.mem ∧ t.tierOK ∧ Answered s t p stOK)) ∧
  (∀ (s : State) (p : Packet) (n : Nat), s.tierReady n p = true → s.startStatus (tierCmdOf 8 n p) = stOK →
    Runs (.unpin p) s (fun t => (∀ e ∈ s.wbFrames (tierCmdOf 8 n p), (kget t.tier.frames e.1).map (fun f => f.pin) = some false) ∧ t.mem = s.mem ∧
      t.tierOK ∧ Answered s t p stOK)) ∧
  (∀ (s : State) (p : Packet) (n : Nat) (o : Obj), s.tierReady n p = true → s.startStatus (tierCmdOf 9 n p) = stOK →
    kget s.tier.objs (tierCmdOf 9 n p).obj = some o →
    Runs (.oquery p) s (fun t => (t.cmd 0).map (fun c => c.sizeMiB) = some o.size ∧ t.tier.objs = s.tier.objs ∧ t.tierOK ∧ Answered s t p stOK))

/-- An OWRITE and a COPY that pass their checks are accepted and read their first source page, the OWRITE once its first unit has a block to be
programmed into; without a free block it waits. An OREAD that passes its checks writes the object's first page to its destination, marked POI where
it reads as POISON. The end of a command writes its 16 B record under its own tag; an OCREATE or ODELETE that runs has its object there, or gone
with its units, by then. -/
def Obligations.TierCommandsThatMovePages : Prop :=
  (∀ (s : State) (p : Packet) (n : Nat), s.tierReady n p = true → s.startStatus (tierCmdOf 3 n p) = stOK →
    let k := unitKey (tierCmdOf 3 n p).obj ((tierCmdOf 3 n p).objOff / 2 ^ 20)
    (((kget s.tier.images k).isSome = true ∨ s.allocBlock ≠ none) → Runs (.owrite p) s (fun t =>
      (t.cmd 0).map (fun c => (c.phase, c.waits, c.page)) = some (.running, 1, 0) ∧ (kget t.tier.images k).isSome = true ∧
      (t.out.getLast?).map (fun q => (q.opcode.toNat, q.gfa.toNat, q.len, q.payload)) = some (opRDN, (tierCmdOf 3 n p).addrA, 0x1000, []) ∧
      t.tier.objs = s.tier.objs ∧ t.tier.units = s.tier.units ∧ t.mem = s.mem)) ∧
    (kget s.tier.images k = none → s.allocBlock = none → Runs (.owrite p) s (fun t =>
      (t.cmd 0).map (fun c => (c.phase, c.waits, c.page)) = some (.running, 0, 0) ∧ Answered s t p stOK ∧ t.tier.units = s.tier.units ∧ t.mem = s.mem))) ∧
  (∀ (s : State) (p : Packet) (n : Nat), s.tierReady n p = true → s.startStatus (tierCmdOf 4 n p) = stOK →
    let r := s.objRead n (tierCmdOf 4 n p).obj (tierCmdOf 4 n p).objOff
    Runs (.oread p) s (fun t => (t.cmd 0).map (fun c => (c.phase, c.waits, c.page)) = some (.running, 1, 0) ∧
      (t.out.getLast?).map (fun q => (q.opcode.toNat, q.gfa.toNat, q.len, q.payload, q.poi)) = some (opWRI, (tierCmdOf 4 n p).addrA, 0x1000, r.1, r.2) ∧
      t.tier.objs = s.tier.objs ∧ t.tier.units = s.tier.units ∧ t.mem = s.mem)) ∧
  (∀ (s : State) (p : Packet) (n : Nat), s.tierReady n p = true → s.startStatus (tierCmdOf 5 n p) = stOK →
    Runs (.copy p) s (fun t => (t.cmd 0).map (fun c => (c.phase, c.waits, c.page)) = some (.running, 1, 0) ∧
      (t.out.getLast?).map (fun q => (q.opcode.toNat, q.gfa.toNat, q.len, q.payload)) = some (opRDN, (tierCmdOf 5 n p).addrA, 0x1000, []) ∧
      t.tier.objs = s.tier.objs ∧ t.tier.frames = s.tier.frames ∧ t.mem = s.mem)) ∧
  (∀ (s : State) (k : Nat) (x : TierCmd), s.cmd k = some x → x.phase = .ended → x.recorded = false →
    Runs (.tierCommandEnd k) s (fun t => (t.cmd k).map (fun c => (c.recorded, c.status)) = some (true, x.status) ∧
      Sent s t (fun q => q.opcode.toNat = opWRN ∧ q.tid = BitVec.ofNat 16 (0x400 + k) ∧ q.gfa = BitVec.ofNat 56 x.rec' ∧
        q.payload = x.record (s.degradedFlag x.req.job.toNat)) ∧ t.tier.objs = s.tier.objs ∧ t.tier.units = s.tier.units ∧
      Only [.regs, .tier, .recov, .out] s t ∧ OnlyPages [pgTl] s t)) ∧
  (∀ (s : State) (k : Nat) (x : TierCmd) (o : Obj), s.cmd k = some x → x.phase = .running → x.recorded = false →
    (x.op = 1 ∨ x.op = 2) → kget s.tier.objs x.object = some o →
    Runs (.tierCommandEnd k) s (fun t => (t.cmd k).map (fun c => (c.phase, c.recorded)) = some (.ended, true) ∧
      kget t.tier.objs x.object = (if x.op = 1 then some { o with creating := false } else none) ∧
      (∀ i, i ≠ x.object → kget t.tier.objs i = kget s.tier.objs i) ∧
      (x.op = 2 → ∀ e ∈ t.tier.units, e.1 / 2 ^ 26 ≠ x.object) ∧
      Sent s t (fun q => q.opcode.toNat = opWRN ∧ q.gfa = BitVec.ofNat 56 x.rec') ∧
      Only [.regs, .tier, .recov, .out] s t ∧ OnlyPages [pgTl] s t))

/-- A finished fill for which nothing waits puts the module's page into its frame, which then serves. A finished write-back clears DIRTY unless a store
came since, and of a frame to be evicted, on which nothing waits and to which no store came, frees the frame. A doorbell write or a store that was
held too long completes, with TIMEOUT and with QUOTA. -/
def Obligations.CacheAndHoldEvents : Prop :=
  (∀ (s : State) (k : Nat) (f : Frame), s.Canon → kget s.tier.frames k = some f → f.filling = true → f.waiters = [] → s.tier.cmds = [] →
    (∀ n, n < 4 → (s.cadSlice n).txns.all (fun x => !x.framing) = true) →
    (linesOf (0x1000 * k) 0x1000).all (fun l => !s.mem.faults.any (fun y => y.1 == l)) = true →
    Runs (.cacheFillDone k) s (fun t =>
      kget t.tier.frames k = some { f with filling := false, waiters := [] } ∧ memRead t.mem.cells f.pool 0x1000 = memRead s.mem.cells (0x1000 * k) 0x1000 ∧
      (∀ i, i ≠ k → kget t.tier.frames i = kget s.tier.frames i) ∧ Only [.mem, .tier] s t)) ∧
  (∀ (s : State) (k : Nat) (f : Frame), kget s.tier.frames k = some f → f.cleaning = true → s.tier.cmds = [] → s.tier.heldStores = [] →
    (f.evict = false → Runs (.writeBackDone k) s (fun t =>
      kget t.tier.frames k = some { f with cleaning := false, dirty := f.restored, restored := false } ∧
      (∀ i, i ≠ k → kget t.tier.frames i = kget s.tier.frames i) ∧ Only [.regs, .tier] s t ∧ OnlyPages [pgTl] s t)) ∧
    (f.evict = true → f.restored = false → f.waiters = [] → (∀ n, n < 4 → (s.cadSlice n).txns.all (fun x => !x.framing) = true) →
      Runs (.writeBackDone k) s (fun t => kget t.tier.frames k = none ∧ (∀ i, i ≠ k → kget t.tier.frames i = kget s.tier.frames i) ∧
        Only [.regs, .tier] s t ∧ OnlyPages [pgTl] s t))) ∧
  (∀ (s : State) (k : Nat) (h : HeldDoorbell), s.tier.held[k]? = some h →
    Runs (.doorbellHoldTimeout k) s (fun t => t.tier = { s.tier with held := s.tier.held.eraseIdx k } ∧ Answered s t h.req stTimeout ∧
      Only [.regs, .tier, .out] s t ∧ OnlyPages [pgMtr] s t)) ∧
  (∀ (s : State) (k off : Nat) (p : Packet), s.tier.heldStores[k]? = some (off, p) →
    Runs (.t1QuotaHoldTimeout k) s (fun t => t.tier = { s.tier with heldStores := s.tier.heldStores.eraseIdx k } ∧ Answered s t p stQuota ∧
      Only [.regs, .tier, .out] s t ∧ OnlyPages [pgMtr, pgTl] s t))

/-- A programmed unit image becomes the unit's content in one step, and the old block waits for its erase. A finished mount of trained stacks sets
MOUNTED, and of blank media that no mount has formatted it starts with no object. A lost map sets MAP_ERR and clears MOUNTED and T2_WE, and while no
command is queued it keeps every object and unit. A migration, for wear when the erase counts differ by more than WL_DELTA or for a refresh when the
block is scheduled, leaves no unit in its block and keeps every unit's data; otherwise nothing migrates. A retired block holds no unit. A finished
erase adds one to the block's erase count. -/
def Obligations.FlashLayer : Prop :=
  (∀ (s : State) (k : Nat) (im : UnitImage), kget s.tier.images k = some im → im.full = true →
    Runs (.unitProgramDone k) s (fun t =>
      kget t.tier.units k = some { block := im.block, key := ((kget s.tier.objs im.object).map (fun o => o.key)).getD 0, data := im.data, bad := im.bad } ∧
      (∀ u, kget s.tier.units k = some u → (t.fblock u.block).erasePending = true) ∧ (∀ i, i ≠ k → kget t.tier.units i = kget s.tier.units i) ∧
      (s.cmd im.cmd = none → kget t.tier.images k = none ∧ t.mem = s.mem ∧ t.out = s.out))) ∧
  (∀ (s : State) (blank : Bool), s.bit rTlCtl 0 = true → s.bit rTlStat 0 = false → s.stacksTrained = true → s.tier.cmds = [] → s.recov.trackers = [] →
    Runs (.tlMountDone blank) s (fun t => t.bit rTlStat 0 = true ∧ t.bit rTlStat 1 = (blank && s.tier.formatted.isNone) ∧
      t.bit rTlStat 4 = false ∧ t.tier.objs = (if blank && s.tier.formatted.isNone then [] else s.tier.objs) ∧ t.tier.formatted.isSome = true ∧
      t.mem = s.mem ∧ t.out = s.out)) ∧
  (∀ (s : State), s.bit rTlCtl 0 = true →
    Runs .tlMapLost s (fun t => t.bit rTlStat 4 = true ∧ t.bit rTlStat 0 = false ∧ t.t2We = false ∧
      (s.tier.cmds = [] → t.tier = s.tier ∧ Only [.regs, .seqs, .tier, .recov, .mgmt] s t))) ∧
  (∀ (s : State) (b g : Nat), s.recov.restarting = [] →
    let moves (t : State) : Prop := t.tier.units.map (fun e => (e.1, e.2.key, e.2.data)) = s.tier.units.map (fun e => (e.1, e.2.key, e.2.data)) ∧
      (∀ e ∈ t.tier.units, e.2.block ≠ b) ∧ (t.fblock b).erasePending = true ∧ t.tier.objs = s.tier.objs ∧ Only [.regs, .seqs, .tier] s t ∧
      OnlyPages [pgTl] s t
    let cold := s.tier.units.all (fun e => decide ((s.fblock b).erases ≤ (s.fblock e.2.block).erases))
    let wear := s.mayMigrate b g && cold && decide (s.fld rTlCtl 63 48 < s.peMax - s.peMin)
    let due := s.mayMigrate b g && (s.fblock b).due
    (wear = true → Runs (.wearLevelMigration b g) s moves) ∧ (wear = false → Runs (.wearLevelMigration b g) s (fun t => t = s)) ∧
    (due = true → Runs (.refreshMigration b g) s (fun t => moves t ∧ (t.fblock b).reads = 0 ∧ (t.fblock b).due = false)) ∧
    (due = false → Runs (.refreshMigration b g) s (fun t => t = s))) ∧
  (∀ (s : State) (b g : Nat), s.bit rTlStat 0 = true → (s.fblock b).retired = false → b ≠ g → s.blockFree g = true →
    Runs (.blockRetire b g) s (fun t => (t.fblock b).retired = true ∧
      t.tier.units.map (fun e => (e.1, e.2.data, e.2.bad)) = s.tier.units.map (fun e => (e.1, e.2.data, e.2.bad)) ∧ (∀ e ∈ t.tier.units, e.2.block ≠ b) ∧
      Only [.regs, .seqs, .tier, .recov, .mgmt] s t)) ∧
  (∀ (s : State) (b : Nat), (s.fblock b).erasePending = true →
    Runs (.backgroundEraseDone b) s (fun t => (t.fblock b).erasePending = false ∧ (t.fblock b).erases = (s.fblock b).erases + 1 ∧
      (s.tier.cmds = [] → t.fblock b = { s.fblock b with erasePending := false, erases := (s.fblock b).erases + 1, reads := 0, due := false } ∧
        (∀ i, i ≠ b → t.fblock i = s.fblock i) ∧ Only [.tier] s t)))

/-- A commit of T1_WE takes effect; setting T2_WE takes effect while T2 is mounted with spares, and is refused otherwise; clearing it takes effect. A
quota write that fits one region's share of the pool takes effect, and one that does not is refused. TL_CTL.EN starts the mount, and TC_EN with all
stacks trained the cache of the written size, when no grant reaches into the area that each reserves; a grant that does refuses either. TC_EN 0
disables a cache that holds no frame. -/
def Obligations.TierControl : Prop :=
  (∀ (s : State) (on : Bool), s.cfgOpen rTierWe = true →
    Runs (.commitT1We on) s (fun t => t.t1We = on ∧ t.t2We = s.t2We ∧ t.bit rTierWe 2 = s.bit rTierWe 2 ∧ Only [.regs, .seqs] s t)) ∧
  (∀ (s : State) (on : Bool), s.cfgOpen rTierWe = true →
    ((on = false ∨ (s.bit rTlStat 0 = true ∧ s.bit rTlStat 2 = false)) → Runs (.commitT2We on) s (fun t => t.t2We = on ∧
      t.bit rTierWe 2 = (!on && s.bit rTierWe 2) ∧ t.t1We = s.t1We ∧ Only [.regs, .seqs] s t)) ∧
    (on = true → (s.bit rTlStat 0 = false ∨ s.bit rTlStat 2 = true) → Runs (.commitT2We on) s (fun t => t.t2We = s.t2We ∧
      t.bit rTierWe 2 = true ∧ t.t1We = s.t1We ∧ Only [.regs, .seqs] s t))) ∧
  (∀ (s : State) (v : Word) (n : Nat), s.cfgOpen rTqLimit = true → s.fld rTqSel 5 0 = n →
    let sum := (s.tier.quotas.filter (fun e => e.1 != n)).foldl (fun a e => a + e.2.t0) 0 + nbits v.toNat 17 0
    (sum ≤ s.fld rTcPool 14 8 * 256 → Runs (.tqLimitWrite v) s (fun t =>
      t.quota n = { s.quota n with t0 := nbits v.toNat 17 0, t1 := nbits v.toNat 37 20, t2 := nbits v.toNat 59 40 } ∧
      (∀ i, i ≠ n → t.quota i = s.quota i) ∧ t.tier.frames = s.tier.frames ∧ t.bit rTqSel 63 = false ∧ Only [.regs, .seqs, .tier] s t)) ∧
    (s.fld rTcPool 14 8 * 256 < sum → Runs (.tqLimitWrite v) s (fun t => t.tier = s.tier ∧ t.bit rTqSel 63 = true ∧ Only [.regs, .seqs] s t))) ∧
  (∀ (s : State) (v : Word), s.cfgOpen rTlCtl = true → v.getLsbD 0 = true → s.bit rTlCtl 0 = false →
    (s.grantsAbove (s.reservedTop - 3) = false → Runs (.tlMountStart v) s (fun t => t.bit rTlCtl 0 = true ∧
      t.bit rTlStat 4 = !s.stacksTrained ∧ (4 ≤ nbits v.toNat 12 8 → nbits v.toNat 12 8 ≤ 16 → t.fld rTlCtl 12 8 = nbits v.toNat 12 8) ∧
      t.fld rTlCtl 63 48 = nbits v.toNat 63 48 ∧ Only [.regs, .seqs] s t ∧ OnlyPages [pgTl] s t)) ∧
    (s.grantsAbove (s.reservedTop - 3) = true → Runs (.tlMountStart v) s (fun t => t.bit rTlCtl 0 = false ∧
      t.bit rTlStat 0 = s.bit rTlStat 0 ∧ t.mem = s.mem ∧ t.tier = s.tier))) ∧
  (∀ (s : State) (v : Word), s.cfgOpen rTcPool = true → v.getLsbD 0 = true → s.bit rTcPool 0 = false → nbits v.toNat 14 8 ≤ 64 → nbits v.toNat 14 8 % 4 = 0 →
    (s.grantsAbove (s.reservedTop - nbits v.toNat 14 8) = false → Runs (.tcEnable v) s (fun t => t.bit rTcPool 0 = s.stacksTrained ∧
      t.fld rTcPool 14 8 = nbits v.toNat 14 8 ∧ t.tier = s.tier ∧ Only [.regs, .seqs] s t)) ∧
    (s.grantsAbove (s.reservedTop - nbits v.toNat 14 8) = true → Runs (.tcEnable v) s (fun t => t.bit rTcPool 0 = false ∧ t.tier = s.tier ∧ t.mem = s.mem))) ∧
  (∀ (s : State) (v : Word), s.cfgOpen rTcPool = true → v.getLsbD 0 = false → s.bit rTcPool 0 = true → s.tier.frames = [] →
    (∀ n, n < 4 → (s.cadSlice n).txns.all (fun x => !x.framing) = true) →
    Runs (.tcEnable v) s (fun t => t.bit rTcPool 0 = false ∧ t.tier = s.tier ∧ t.mem = s.mem ∧ Only [.regs, .seqs] s t))

namespace Sys2Proof.Machine

/-- Context `c` of tile `t` holds the issue slot, alone, and keeps it (no urgent context is READY beside a normal one), and the word at its PC lies
in the kernel area and can be read (R179, R183, R185, R200). -/
def State.atSlot (s : State) (t c : Nat) : Bool :=
  (s.ctx t c).state == .running && (s.tile t).ctxs.all (fun e => e.1 == c || e.2.state != .running) &&
  ((s.ctx t c).isBound || ((s.tile t).nextReady true (s.tile t).rrUrgent).isNone) &&
  s.pcOk t (s.ctx t c).pc.toNat && !(s.tile t).badWords [(s.ctx t c).pc.toNat]

/-- It stands there at the legal word `x` of opcode `op` (R205, R208). -/
def State.atWord (s : State) (t c op : Nat) (x : TWord) : Bool :=
  s.atSlot t c && twordOf (s.fetchWord t (s.ctx t c).pc.toNat) == x && x.op == op && x.legal (s.boundKind t c)

/-- The tile once the word at the context's PC is fetched: a correctable error of that word is gone (R200). -/
def State.fetched (s : State) (t c : Nat) : Tile :=
  { s.tile t with eccOne := (s.tile t).eccOne.filter (fun w => w != (s.ctx t c).pc.toNat) }

/-- The tile once some SRAM words are read as well. -/
def State.readTile (s : State) (t c : Nat) (ws : List Nat) : Tile :=
  { s.fetched t c with eccOne := (s.fetched t c).eccOne.filter (fun w => !ws.contains w) }

/-- Those words can be read: none has an error that cannot be corrected, and no test injection is armed (R200, R530). -/
def State.readsOk (s : State) (t c : Nat) (ws : List Nat) : Bool := (s.sramInject t c).isNone && !(s.tile t).badWords ws

/-- The tile once bytes [a, a + n) are written: its words written whole have no error any more (R176). -/
def State.writtenTile (s : State) (t c a n : Nat) (whole : Bool) (sram : List Host.Cell) : Tile :=
  let keep (w : Nat) : Bool := !(whole && decide (a ≤ 8 * w) && decide (8 * w + 8 ≤ a + n))
  { s.fetched t c with sram := sram, eccOne := (s.fetched t c).eccOne.filter keep, eccBad := (s.fetched t c).eccBad.filter keep }

/-- Context `c` of tile `t` is `y`, the tile's other parts are those of `x`, no other context and no other tile has changed, and no register outside
the tile's page. -/
abbrev Became (s u : State) (t c : Nat) (y : Ctx) (x : Tile) : Prop :=
  u.ctx t c = y ∧ { u.tile t with ctxs := x.ctxs } = x ∧ (∀ d, d ≠ c → u.ctx t d = s.ctx t d) ∧ (∀ k, k ≠ t → u.tile k = s.tile k) ∧
  OnlyPages [pgTile t] s u

/-- The same, and the context stands at the next PC. -/
abbrev Retired (s u : State) (t c : Nat) (y : Ctx) (x : Tile) : Prop := Became s u t c { y with pc := y.pc + 1 } x

/-- No other context of the tile, no other tile and no memory has changed. -/
abbrev OthersAsBefore (s u : State) (t c : Nat) : Prop :=
  (∀ d, d ≠ c → u.ctx t d = s.ctx t d) ∧ (∀ k, k ≠ t → u.tile k = s.tile k) ∧ u.mem = s.mem

/-- Context `c` of tile `t` has faulted with `f` at its PC: it drains, TILE_FAULT latches the fault, and the SRAM is as it was (R200). -/
abbrev Faulted (s u : State) (t c : Nat) (f : BitVec 8) : Prop :=
  (u.ctx t c).state = .drain ∧ (u.ctx t c).fault = f ∧ (u.ctx t c).faultPc = (s.ctx t c).pc ∧ (u.tile t).sram = (s.tile t).sram ∧
  u.reg (rTileFault t) = f.toNat + c * 2 ^ 8 + (s.ctx t c).pc.toNat * 2 ^ 12 + (s.ctx t c).tag.toNat % 2 ^ 32 * 2 ^ 32 ∧ OthersAsBefore s u t c

/-- At a word of the opcode (atWord) the instruction makes of the context what `f` says and goes to the next PC; nothing else of the tile changes. -/
def Computes (cmd : TileIx → CtxIx → Instr) (op : Nat) (f : Ctx → TWord → Ctx) : Prop :=
  ∀ (s : State) (i : TileIx) (c : CtxIx) (x : TWord), s.atWord i c op x = true →
    Runs (cmd i c) s (fun u => Retired s u i c (f (s.ctx i c) x) (s.fetched i c) ∧ Only [.regs, .seqs, .tiles] s u)

/-- At a word of the opcode of which `P` holds the instruction faults with `f`. -/
def FaultsWhen (cmd : TileIx → CtxIx → Instr) (op : Nat) (f : BitVec 8) (P : State → TileIx → CtxIx → TWord → Prop) : Prop :=
  ∀ (s : State) (i : TileIx) (c : CtxIx) (x : TWord), s.atWord i c op x = true → P s i c x → Runs (cmd i c) s (fun u => Faulted s u i c f)

/-- At a word of the opcode that finds fewer free slots for requests than its lines need (R183, R186), the context waits at its PC to issue the
instruction again, and nothing is sent. -/
def WaitsForASlot (cmd : TileIx → CtxIx → Instr) (op : Nat) (n : TWord → Nat) : Prop :=
  ∀ (s : State) (i : TileIx) (c : CtxIx) (x : TWord), s.atWord i c op x = true → s.slotsFor i c (n x) = false →
    Runs (cmd i c) s (fun u => Became s u i c { s.ctx i c with state := .waitRemote, slotWait := true } (s.fetched i c) ∧ Only [.regs, .seqs, .tiles] s u)

/-- A binding after the entry that a value names has been released (R229). -/
def Binding.released (k : Binding) (v : Word) : Binding :=
  { k with delivered := k.delivered.eraseP (fun a => a.s12 == v), staged := k.staged - nbits v.toNat 31 19 }

/-- The tile instructions, with their opcodes (R227 and the tables before it). -/
def tileOps : List ((TileIx → CtxIx → Instr) × Nat) :=
  [(.vadd, 0x01), (.vmul, 0x02), (.vfma, 0x03), (.vmax, 0x04), (.vmin, 0x05), (.vcvt, 0x06), (.xacc, 0x08), (.xrd, 0x09), (.vcmp, 0x0C), (.vcompact, 0x0D),
   (.vtopk, 0x0E), (.vld, 0x10), (.vst, 0x11), (.vgath, 0x12), (.sld, 0x13), (.sst, 0x14), (.rld, 0x18), (.rst, 0x19), (.ratom, 0x1A), (.rgath, 0x1B),
   (.srel, 0x20), (.sacq, 0x21)] ++
  [(.sadd, 0x30), (.ssub, 0x31), (.smul, 0x32), (.sand, 0x33), (.sor, 0x34), (.sxor, 0x35), (.sshl, 0x36), (.sshr, 0x37), (.ssra, 0x38), (.smin, 0x39),
   (.smax, 0x3A), (.scmp, 0x3B), (.smov, 0x3C), (.sli, 0x3D), (.slih, 0x3E), (.sget, 0x3F), (.sput, 0x40), (.spcnt, 0x41), (.pfirst, 0x42), (.sstat, 0x43),
   (.sclrf, 0x44), (.scyc, 0x45), (.br, 0x50), (.loopDec, 0x51), (.yield, 0x52), (.endCtx, 0x53), (.stfree, 0x54), (.nop, 0x55)]

end Sys2Proof.Machine

/-- When a context holds the issue slot at a readable, legal word of the opcode (atWord), the instruction writes its destination from its sources and
goes to the next PC: SADD, SSUB, SMUL modulo 2^64; SAND, SOR, SXOR; SSHL, SSHR, SSRA by source 2 modulo 64; SMIN and SMAX of two's complement. Nothing
else of the tile changes, but a correctable error of the fetched word. -/
def Obligations.TileScalarArithmetic : Prop :=
  Computes .sadd 0x30 (fun y x => y.ws x.dst (y.rs x.s1 + y.sc2 x)) ∧
  Computes .ssub 0x31 (fun y x => y.ws x.dst (y.rs x.s1 - y.sc2 x)) ∧
  Computes .smul 0x32 (fun y x => y.ws x.dst (y.rs x.s1 * y.sc2 x)) ∧
  Computes .sand 0x33 (fun y x => y.ws x.dst (y.rs x.s1 &&& y.sc2 x)) ∧
  Computes .sor 0x34 (fun y x => y.ws x.dst (y.rs x.s1 ||| y.sc2 x)) ∧
  Computes .sxor 0x35 (fun y x => y.ws x.dst (y.rs x.s1 ^^^ y.sc2 x)) ∧
  Computes .sshl 0x36 (fun y x => y.ws x.dst (y.rs x.s1 <<< ((y.sc2 x).toNat % 64))) ∧
  Computes .sshr 0x37 (fun y x => y.ws x.dst (y.rs x.s1 >>> ((y.sc2 x).toNat % 64))) ∧
  Computes .ssra 0x38 (fun y x => y.ws x.dst ((y.rs x.s1).sshiftRight ((y.sc2 x).toNat % 64))) ∧
  Computes .smin 0x39 (fun y x => y.ws x.dst (if (y.rs x.s1).toInt ≤ (y.sc2 x).toInt then y.rs x.s1 else y.sc2 x)) ∧
  Computes .smax 0x3A (fun y x => y.ws x.dst (if (y.rs x.s1).toInt ≤ (y.sc2 x).toInt then y.sc2 x else y.rs x.s1))

/-- At a readable, legal word of the opcode (atWord): SCMP writes 1 or 0 by its condition; SMOV, SLI and SLIH build a register; SGET and SPUT move one
element; SPCNT counts the elements whose governing bit is set; PFIRST sets the governing bits of the first elements, none for a negative source;
SSTAT reads the status word and SCLRF clears the bits it names; SCYC writes a value that is left free (log entry 45); NOP only goes on. Each goes to
the next PC, and nothing else of the tile changes, but a correctable error of the fetched word. -/
def Obligations.TileScalarMoves : Prop :=
  Computes .scmp 0x3B (fun y x => y.ws x.dst (if scmpTest (nbits x.imm 2 0) (y.rs x.s1) (y.rs x.s2) then 1 else 0)) ∧
  Computes .smov 0x3C (fun y x => y.ws x.dst (y.rs x.s1)) ∧
  Computes .sli 0x3D (fun y x => y.ws x.dst ((BitVec.ofNat 24 x.imm).signExtend 64)) ∧
  Computes .slih 0x3E (fun y x => y.ws x.dst ((y.rs x.dst <<< 24) ||| BitVec.ofNat 64 x.imm)) ∧
  Computes .sget 0x3F (fun y x => y.ws x.dst (BitVec.ofNat 64 (vget (y.rv x.s1) (elemBits x.dt) (nbits x.imm 7 0)))) ∧
  (∀ (s : State) (i : TileIx) (c : CtxIx) (x : TWord), s.atWord i c 0x40 x = true →
    Runs (.sput i c) s (fun u => Retired s u i c ((s.ctx i c).wv x.dst ((u.ctx i c).rv x.dst)) (s.fetched i c) ∧ Only [.regs, .seqs, .tiles] s u ∧
      ∀ j, j < elemCount x.dt → vget ((u.ctx i c).rv x.dst) (elemBits x.dt) j =
        (if j = nbits x.imm 7 0 then ((s.ctx i c).rs x.s1).toNat % 2 ^ elemBits x.dt else vget ((s.ctx i c).rv x.dst) (elemBits x.dt) j))) ∧
  Computes .spcnt 0x41 (fun y x =>
    y.ws x.dst (BitVec.ofNat 64 ((List.range (elemCount x.dt)).filter (selOf (some (y.rp x.s1)) (elemBits x.dt))).length)) ∧
  (∀ (s : State) (i : TileIx) (c : CtxIx) (x : TWord), s.atWord i c 0x42 x = true →
    Runs (.pfirst i c) s (fun u => Retired s u i c ((s.ctx i c).wp x.dst ((u.ctx i c).rp x.dst)) (s.fetched i c) ∧ Only [.regs, .seqs, .tiles] s u ∧
      ∀ b, b < 128 → ((u.ctx i c).rp x.dst).getLsbD b =
        (List.range (elemCount x.dt)).any (fun k => decide ((k : Int) < ((s.ctx i c).rs x.s1).toInt) && elemBits x.dt * k / 8 == b))) ∧
  Computes .sstat 0x43 (fun y x => y.ws x.dst y.csw) ∧
  Computes .sclrf 0x44 (fun y x =>
    { y with csw := y.csw &&& ~~~(BitVec.ofNat 64 (nbits x.imm 6 0 + (if nbit x.imm 8 then 0xF00 else 0))) }) ∧
  (∀ (s : State) (i : TileIx) (c : CtxIx) (x : TWord), s.atWord i c 0x45 x = true →
    Runs (.scyc i c) s (fun u => Retired s u i c ((s.ctx i c).ws x.dst (BitVec.ofNat 64 (s.freeNat 64))) (s.fetched i c) ∧ u.free = s.free + 1 ∧
      Only [.regs, .seqs, .free, .tiles] s u)) ∧
  Computes .nop 0x55 (fun y _ => y)

/-- A READY context that the issue arbiter chooses while no context runs takes the slot and issues at once, as if it had held it. At a readable, legal
word of the opcode (atWord): BR and LOOP go to PC + OFFSET when taken, otherwise to the next PC. YIELD leaves an unbound context READY; a bound
context sleeps when its binding has no arrival queued, and otherwise takes the head entry into S12 and S13, with STATUS POISON when its payload cannot
be read, and is READY. END brings a descriptor context into DRAIN with S0 as its RESULT, and frees its lanes. STFREE of an entry delivered to its
binding, when no arrival waits for staging, returns the entry's bytes; of any other value it only goes on, uncounted. A context at an illegal word
faults: it drains with that fault at that PC, which TILE_FAULT latches. -/
def Obligations.TileControlFlow : Prop :=
  (∀ (s : State) (i : TileIx) (c : CtxIx) (x : TWord) (cmd : TileIx → CtxIx → Instr) (op : Nat), (cmd, op) ∈ tileOps → (s.ctx i c).state = .ready →
    (s.tile i).choice = some c.val → (s.tile i).running = none → (s.takeSlot i c).atWord i c op x = true →
    exec (cmd i c) s = exec (cmd i c) (s.takeSlot i c)) ∧
  (∀ (s : State) (i : TileIx) (c : CtxIx) (x : TWord), s.atWord i c 0x50 x = true →
    let y := s.ctx i c
    let next := if brTaken (nbits x.imm 18 16) (y.rs x.s1) then y.pc + BitVec.ofNat 16 x.imm else y.pc + 1
    Runs (.br i c) s (fun u => Became s u i c { y with pc := next } (s.fetched i c) ∧ Only [.regs, .seqs, .tiles] s u)) ∧
  (∀ (s : State) (i : TileIx) (c : CtxIx) (x : TWord), s.atWord i c 0x51 x = true →
    let y := s.ctx i c
    let next := if y.rs x.s1 - 1 = 0 then y.pc + 1 else y.pc + BitVec.ofNat 16 x.imm
    Runs (.loopDec i c) s (fun u => Became s u i c { y.ws x.s1 (y.rs x.s1 - 1) with pc := next } (s.fetched i c) ∧
      Only [.regs, .seqs, .tiles] s u)) ∧
  (∀ (s : State) (i : TileIx) (c : CtxIx) (x : TWord), s.atWord i c 0x52 x = true → (s.ctx i c).bound = none →
    Runs (.yield i c) s (fun u => Retired s u i c { s.ctx i c with state := .ready } (s.fetched i c) ∧ Only [.regs, .seqs, .tiles] s u)) ∧
  (∀ (s : State) (i : TileIx) (c : CtxIx) (x : TWord) (b : Nat), s.atWord i c 0x52 x = true → (s.ctx i c).bound = some b →
    (((kget (s.tile i).bindings b).map (fun k => k.queue)).getD [] = [] →
      Runs (.yield i c) s (fun u => Retired s u i c { s.ctx i c with state := .sleep } (s.fetched i c) ∧ Only [.regs, .seqs, .tiles] s u)) ∧
    (∀ (k : Binding) (a : Arrival) (rest : List Arrival), kget (s.tile i).bindings b = some k → k.queue = a :: rest →
      Runs (.yield i c) s (fun u =>
        (∃ e : Arrival, u.ctx i c = { ((s.ctx i c).ws 0x2C e.s12).ws 0x2D e.s13 with state := .ready, pc := (s.ctx i c).pc + 1 } ∧
          kget (u.tile i).bindings b = some { k with queue := rest, delivered := k.delivered ++ [e] } ∧
          e = (if s.readsOk i c (spanWords [(nbits a.s12.toNat 18 0, nbits a.s12.toNat 31 19)]) then a
            else { a with s12 := BitVec.ofNat 64 (nsetBits a.s12.toNat 47 44 stPoison.toNat) })) ∧
        (∀ n, n ≠ b → kget (u.tile i).bindings n = kget (s.tile i).bindings n) ∧ (u.tile i).sram = (s.tile i).sram ∧ OthersAsBefore s u i c ∧
        Only [.regs, .seqs, .tiles] s u ∧ OnlyPages [pgTile i] s u))) ∧
  (∀ (s : State) (i : TileIx) (c : CtxIx) (x : TWord), s.atWord i c 0x53 x = true →
    let y := s.ctx i c
    let r := BitVec.ofNat 32 (y.rs 0x20).toNat
    Runs (.endCtx i c) s (fun u => Only [.regs, .seqs, .tiles] s u ∧ Became s u i c
      { y with state := .drain, result := r, faultPc := y.pc, lanes := [], slotWait := false, fencing := none } ((s.fetched i c).freeLanes c))) ∧
  (∀ (s : State) (i : TileIx) (c : CtxIx) (x : TWord) (b : Nat), s.atWord i c 0x54 x = true → (s.ctx i c).bound = some b →
    (((kget (s.tile i).bindings b).map (fun k => k.holds ((s.ctx i c).rs x.s1))).getD false = false →
      Runs (.stfree i c) s (fun u => Retired s u i c (s.ctx i c) (s.fetched i c) ∧ u.reg (rPgCnt (pgTile i) 0) = s.reg (rPgCnt (pgTile i) 0) ∧
        Only [.regs, .seqs, .tiles] s u)) ∧
    (∀ k : Binding, kget (s.tile i).bindings b = some k → k.holds ((s.ctx i c).rs x.s1) = true →
      (s.tile i).bindings.all (fun e => e.2.waiting.isEmpty) = true →
      Runs (.stfree i c) s (fun u => Retired s u i c (s.ctx i c) { s.fetched i c with bindings := (u.tile i).bindings } ∧
        (∀ n, kget (u.tile i).bindings n = if n = b then some (k.released ((s.ctx i c).rs x.s1)) else kget (s.tile i).bindings n) ∧
        Only [.regs, .seqs, .tiles] s u))) ∧
  (∀ (s : State) (i : TileIx) (c : CtxIx), s.atSlot i c = true → (twordOf (s.fetchWord i (s.ctx i c).pc.toNat)).legal (s.boundKind i c) = false →
    Runs (.illegalInstruction i c) s (fun u => Faulted s u i c fltIllegal))

namespace Sys2Proof.Machine

/-- The predicate of a vector operation: VFMA's stands in IMM and none in format RI, the others' in SRC3 (R210, R215). -/
def vecPred (y : Ctx) (x : TWord) (fma : Bool) : Option (BitVec 128) := if fma then (if x.fmt == 2 then none else y.predImm x) else y.pred x

/-- Element `j` of a vector operation's result, and its flags (R214, R215). -/
def vecElem (y : Ctx) (x : TWord) (op : VOp) (j : Nat) : Nat × Nat :=
  elemOp op x.dt (x.mod 3) (x.mod 0) (x.mod 1) (x.mod 2) (y.src1 x j) (y.src2 x j) (vget (y.rv x.s3) (elemBits x.dt) j)

/-- At a word of the opcode (atWord) the vector operation writes each selected element of Vd with the operation on the elements of its sources, leaves
the others, gathers the flags of the selected ones, and goes to the next PC. -/
def Elementwise (cmd : TileIx → CtxIx → Instr) (code : Nat) (op : VOp) (fma : Bool) : Prop :=
  ∀ (s : State) (i : TileIx) (c : CtxIx) (x : TWord), s.atWord i c code x = true →
    let y := s.ctx i c
    let on (j : Nat) : Bool := selOf (vecPred y x fma) (elemBits x.dt) j
    let flags := (List.range (elemCount x.dt)).foldl (fun a j => a ||| if on j then (vecElem y x op j).2 else 0) 0
    Runs (cmd i c) s (fun u => Retired s u i c ((y.wv x.dst ((u.ctx i c).rv x.dst)).flag flags) (s.fetched i c) ∧ Only [.regs, .seqs, .tiles] s u ∧
      ∀ j, j < elemCount x.dt → vget ((u.ctx i c).rv x.dst) (elemBits x.dt) j =
        if on j then (vecElem y x op j).1 % 2 ^ elemBits x.dt else vget (y.rv x.dst) (elemBits x.dt) j)

/-- VADD or VMUL of INT32 registers, unmodified and unpredicated, is the operation modulo 2^32 on each element (R214, R215). -/
def WrapsInt32 (cmd : TileIx → CtxIx → Instr) (code : Nat) (f : Nat → Nat → Nat) : Prop :=
  ∀ (s : State) (i : TileIx) (c : CtxIx) (x : TWord), s.atWord i c code x = true → x.fmt = 0 → x.dt = 9 → x.s3 = 0 → nbits x.imm 4 0 = 0 →
    Runs (cmd i c) s (fun u => ∀ j, j < 32 →
      vget ((u.ctx i c).rv x.dst) 32 j = f (vget ((s.ctx i c).rv x.s1) 32 j) (vget ((s.ctx i c).rv x.s2) 32 j) % 2 ^ 32)

end Sys2Proof.Machine

/-- At a readable, legal word of the opcode (atWord), VADD, VMUL, VFMA, VMAX and VMIN write each selected element of Vd with the operation on the
elements of their sources, leave the others, gather the flags of the selected ones, and go to the next PC; nothing else of the tile changes, but a
correctable error of the fetched word. VADD and VMUL of INT32 registers, unmodified and unpredicated, wrap modulo 2^32. -/
def Obligations.TileVectors : Prop :=
  Elementwise .vadd 0x01 .add false ∧ Elementwise .vmul 0x02 .mul false ∧ Elementwise .vfma 0x03 .fma true ∧ Elementwise .vmax 0x04 .max false ∧
  Elementwise .vmin 0x05 .min false ∧ WrapsInt32 .vadd 0x01 (· + ·) ∧ WrapsInt32 .vmul 0x02 (· * ·)

/-- At a readable, legal word of the opcode (atWord): VCVT writes the converted elements, the scale of an MX destination and the flags. XACC adds its
selected elements to its lanes in order; one selected finite element of a finite lane is added exactly. XRD reads raw a word of a lane's sum, or
lanes rounded once into elements of Vd, and clears the lanes if it says so. Either faults with ACC_RANGE on a lane outside the context's. VCMP sets
the predicate bits of the elements whose test holds; VCOMPACT packs the selected elements, then zeros; VTOPK writes the first entries and their
indices. Each goes to the next PC and changes nothing else of the tile, but a correctable error of the fetched word. -/
def Obligations.TileVectorsBeyondArithmetic : Prop :=
  Computes .vcvt 0x06 (fun y x => y.vcvt x) ∧
  (∀ (s : State) (i : TileIx) (c : CtxIx) (x : TWord) (f : Fmt), s.atWord i c 0x08 x = true → fpFmt x.dt = some f →
    nbits x.imm 3 0 + (if nbit x.imm 11 then 1 else nbits x.imm 7 4 + 1) ≤ (s.ctx i c).lanes.length →
    let r := s.addLanes i (s.ctx i c).lanes f (nbit x.imm 12) ((s.ctx i c).xaccElems x)
    Runs (.xacc i c) s (fun u => Retired s u i c ((s.ctx i c).flag r.2) { s.fetched i c with lanes := (r.1.tile i).lanes } ∧
      Only [.regs, .seqs, .free, .tiles] s u)) ∧
  (∀ (s : State) (i : TileIx) (c : CtxIx) (x : TWord) (f : Fmt) (l e m : Nat) (g : Bool) (z : Int), s.atWord i c 0x08 x = true → fpFmt x.dt = some f →
    (s.ctx i c).xaccElems x = [(l, e)] → f.decode e = .fin g m z → nbit x.imm 12 = false →
    nbits x.imm 3 0 + (if nbit x.imm 11 then 1 else nbits x.imm 7 4 + 1) ≤ (s.ctx i c).lanes.length →
    let k := (s.ctx i c).lanes.getD l 0
    let sum := (s.lane i k).sum.toInt + signedMant g (m * 2 ^ (z + 149).toNat)
    (s.lane i k).tag = .finite → -(2 ^ 319) ≤ sum → sum < 2 ^ 319 →
    Runs (.xacc i c) s (fun u => (u.lane i k).sum.toInt = sum ∧ (u.lane i k).tag = .finite ∧ ∀ j, j ≠ k → u.lane i j = s.lane i j)) ∧
  FaultsWhen .xacc 0x08 fltAccRange (fun s i c x =>
    (s.ctx i c).lanes.length < nbits x.imm 3 0 + (if nbit x.imm 11 then 1 else nbits x.imm 7 4 + 1)) ∧
  (∀ (s : State) (i : TileIx) (c : CtxIx) (x : TWord), s.atWord i c 0x09 x = true →
    let n := if nbit x.imm 12 then 1 else nbits x.imm 7 4 + 1
    let named := (List.range n).map (fun j => (s.ctx i c).lanes.getD (nbits x.imm 3 0 + j) 0)
    let reads (y : Ctx) (u : State) : Prop := Retired s u i c y { s.fetched i c with lanes := (u.tile i).lanes } ∧
      (∀ k, u.lane i k = if nbit x.imm 11 = true ∧ k ∈ named then (s.lane i k).cleared else s.lane i k) ∧ Only [.regs, .seqs, .tiles] s u
    nbits x.imm 3 0 + n ≤ (s.ctx i c).lanes.length →
    (nbit x.imm 12 = true → Runs (.xrd i c) s (reads ((s.ctx i c).ws x.dst
      (BitVec.ofNat 64 ((s.lane i ((s.ctx i c).lanes.getD (nbits x.imm 3 0) 0)).sum.toNat / 2 ^ (64 * nbits x.imm 15 13)))))) ∧
    (∀ f, nbit x.imm 12 = false → fpFmt x.dt = some f → Runs (.xrd i c) s (fun u =>
      reads (((s.ctx i c).wv x.dst ((u.ctx i c).rv x.dst)).flag (named.foldl (fun a k => a ||| ((s.lane i k).read f).2) 0)) u ∧
      ∀ j, j < elemCount x.dt → vget ((u.ctx i c).rv x.dst) (elemBits x.dt) j =
        if nbits x.imm 10 8 * 16 ≤ j ∧ j < nbits x.imm 10 8 * 16 + n then
          ((s.lane i (named.getD (j - nbits x.imm 10 8 * 16) 0)).read f).1 % 2 ^ elemBits x.dt
        else vget ((s.ctx i c).rv x.dst) (elemBits x.dt) j))) ∧
  FaultsWhen .xrd 0x09 fltAccRange (fun s i c x =>
    (s.ctx i c).lanes.length < nbits x.imm 3 0 + (if nbit x.imm 12 then 1 else nbits x.imm 7 4 + 1)) ∧
  (∀ (s : State) (i : TileIx) (c : CtxIx) (x : TWord), s.atWord i c 0x0C x = true →
    Runs (.vcmp i c) s (fun u => Retired s u i c ((s.ctx i c).wp x.dst ((u.ctx i c).rp x.dst)) (s.fetched i c) ∧ Only [.regs, .seqs, .tiles] s u ∧
      ∀ b, b < 128 → ((u.ctx i c).rp x.dst).getLsbD b = (selOf ((s.ctx i c).pred x) (elemBits x.dt) (8 * b / elemBits x.dt) &&
        elemCmp (nbits x.imm 2 0) x.dt (vget ((s.ctx i c).rv x.s1) (elemBits x.dt) (8 * b / elemBits x.dt))
          ((s.ctx i c).src2 x (8 * b / elemBits x.dt))))) ∧
  (∀ (s : State) (i : TileIx) (c : CtxIx) (x : TWord), s.atWord i c 0x0D x = true →
    Runs (.vcompact i c) s (fun u => Retired s u i c ((s.ctx i c).wv x.dst ((u.ctx i c).rv x.dst)) (s.fetched i c) ∧ Only [.regs, .seqs, .tiles] s u ∧
      ∀ j, j < elemCount x.dt → vget ((u.ctx i c).rv x.dst) (elemBits x.dt) j = (((List.range (elemCount x.dt)).filter
        (selOf ((s.ctx i c).pred x) (elemBits x.dt))).map (vget ((s.ctx i c).rv x.s1) (elemBits x.dt))).getD j 0)) ∧
  (∀ (s : State) (i : TileIx) (c : CtxIx) (x : TWord) (f : Fmt), s.atWord i c 0x0E x = true → fpFmt x.dt = some f →
    Runs (.vtopk i c) s (fun u =>
      Retired s u i c (((s.ctx i c).wv x.dst ((u.ctx i c).rv x.dst)).wv (x.dst + 1) ((u.ctx i c).rv (x.dst + 1))) (s.fetched i c) ∧
      Only [.regs, .seqs, .tiles] s u ∧
      ∀ j, j < 64 → vget ((u.ctx i c).rv x.dst) 16 j = (((s.ctx i c).vtopk x f).map Prod.fst).getD j 0 % 2 ^ 16 ∧
        vget ((u.ctx i c).rv (x.dst + 1)) 16 j = (((s.ctx i c).vtopk x f).map Prod.snd).getD j 0 % 2 ^ 16))

namespace Sys2Proof.Machine

/-- The address of an access, the address register as the access leaves it, and the SRAM words that its selected bytes, its block, its elements or its
8 bytes lie in (R210, R221, R222). -/
def State.localAt (s : State) (t c : Nat) (x : TWord) : Nat := ((s.ctx t c).addr x).1.toNat
def State.stepped (s : State) (t c : Nat) (x : TWord) : Ctx := ((s.ctx t c).addr x).2
def State.selWords (s : State) (t c : Nat) (x : TWord) : List Nat := spanWords (selSpans (s.localAt t c x) ((s.ctx t c).pred x))
def State.gathWords (s : State) (t c : Nat) (x : TWord) : List Nat :=
  spanWords (((List.range (elemCount x.dt)).filter (selOf ((s.ctx t c).pred x) (elemBits x.dt))).map (fun j =>
    (gatherAddr ((s.ctx t c).addr x).1 (elemBits x.dt / 8) (vget ((s.ctx t c).rv x.s2) 16 j), elemBits x.dt / 8)))
/-- The length of the XCB block at the address. -/
def State.xcbLen (s : State) (t c : Nat) (x : TWord) : Nat := max 40 (xcbClen (memRead (s.tile t).sram (s.localAt t c x) 40))
/-- The access lies in the data area. -/
def State.selIn (s : State) (t c : Nat) (x : TWord) : Bool := s.bytesOk t (s.localAt t c x) ((s.ctx t c).pred x)
def State.xcbIn (s : State) (t c : Nat) (x : TWord) : Bool :=
  s.inData t (s.localAt t c x) 40 && s.inData t (s.localAt t c x) (xcbClen (memRead (s.tile t).sram (s.localAt t c x) 40))
def State.gathIn (s : State) (t c : Nat) (x : TWord) : Bool :=
  (List.range (elemCount x.dt)).all (fun j => !selOf ((s.ctx t c).pred x) (elemBits x.dt) j ||
    s.inData t (gatherAddr ((s.ctx t c).addr x).1 (elemBits x.dt / 8) (vget ((s.ctx t c).rv x.s2) 16 j)) (elemBits x.dt / 8))
def State.wordIn (s : State) (t c : Nat) (x : TWord) : Bool := s.inData t (s.localAt t c x / 8 * 8) 8

end Sys2Proof.Machine

/-- At a readable, legal word of the opcode (atWord), on words that can be read and bytes within the data area: VLD, VGATH and SLD load the selected
elements, VLD of type XCB-BF16 the group's elements of the block, or the error value and XD where it is damaged; VST and SST store exactly the
selected bytes of canonical SRAM, and words written whole lose their errors; POST updates the address register. An access with a selected byte
outside the data area faults with LOCAL_RANGE, and a read that meets an error that cannot be corrected, or an armed injection, with SRAM_ECC; neither
writes anything. -/
def Obligations.TileLocalMemory : Prop :=
  (∀ (s : State) (i : TileIx) (c : CtxIx) (x : TWord), s.atWord i c 0x10 x = true → x.dt = 0 → s.selIn i c x = true →
    s.readsOk i c (s.selWords i c x) = true →
    Runs (.vld i c) s (fun u => Retired s u i c ((s.stepped i c x).wv x.dst ((u.ctx i c).rv x.dst)) (s.readTile i c (s.selWords i c x)) ∧
      Only [.regs, .seqs, .tiles] s u ∧ ∀ j, j < 128 → vget ((u.ctx i c).rv x.dst) 8 j =
        if selOf ((s.ctx i c).pred x) 8 j then (memGet (s.tile i).sram (s.localAt i c x + j)).toNat else vget ((s.ctx i c).rv x.dst) 8 j)) ∧
  (∀ (s : State) (i : TileIx) (c : CtxIx) (x : TWord), s.atWord i c 0x10 x = true → x.dt ≠ 0 → s.xcbIn i c x = true →
    let ws := spanWords [(s.localAt i c x, s.xcbLen i c x)]
    let block := xcbDecode (memRead (s.tile i).sram (s.localAt i c x) (s.xcbLen i c x))
    s.readsOk i c ws = true → Runs (.vld i c) s (fun u =>
      Retired s u i c (let y := (s.stepped i c x).wv x.dst ((u.ctx i c).rv x.dst); if isDamaged block then y.flag 16 else y) (s.readTile i c ws) ∧
      Only [.regs, .seqs, .tiles] s u ∧ ∀ j, j < 64 → vget ((u.ctx i c).rv x.dst) 16 j =
        if selOf ((s.ctx i c).pred x) 16 j then xcbGroup block (nbits x.imm 21 17) j % 2 ^ 16 else vget ((s.ctx i c).rv x.dst) 16 j)) ∧
  (∀ (s : State) (i : TileIx) (c : CtxIx) (x : TWord), s.atWord i c 0x11 x = true → Memory.wf (s.tile i).sram = true → s.selIn i c x = true →
    Runs (.vst i c) s (fun u => Retired s u i c (s.stepped i c x)
        (s.writtenTile i c (s.localAt i c x) 128 ((s.ctx i c).pred x).isNone (u.tile i).sram) ∧ Only [.regs, .seqs, .tiles] s u ∧
      (∀ j, j < 128 → memGet (u.tile i).sram (s.localAt i c x + j) = if selOf ((s.ctx i c).pred x) 8 j then
        BitVec.ofNat 8 (vget ((s.ctx i c).rv x.s2) 8 j) else memGet (s.tile i).sram (s.localAt i c x + j)) ∧
      ∀ a, (a < s.localAt i c x ∨ s.localAt i c x + 128 ≤ a) → memGet (u.tile i).sram a = memGet (s.tile i).sram a)) ∧
  (∀ (s : State) (i : TileIx) (c : CtxIx) (x : TWord), s.atWord i c 0x12 x = true → s.gathIn i c x = true → s.readsOk i c (s.gathWords i c x) = true →
    Runs (.vgath i c) s (fun u => Retired s u i c ((s.ctx i c).wv x.dst ((u.ctx i c).rv x.dst)) (s.readTile i c (s.gathWords i c x)) ∧
      Only [.regs, .seqs, .tiles] s u ∧ ∀ j, j < elemCount x.dt → vget ((u.ctx i c).rv x.dst) (elemBits x.dt) j =
        if selOf ((s.ctx i c).pred x) (elemBits x.dt) j then leNat (memRead (s.tile i).sram (gatherAddr ((s.ctx i c).addr x).1 (elemBits x.dt / 8)
          (vget ((s.ctx i c).rv x.s2) 16 j)) (elemBits x.dt / 8)) else vget ((s.ctx i c).rv x.dst) (elemBits x.dt) j)) ∧
  (∀ (s : State) (i : TileIx) (c : CtxIx) (x : TWord), s.atWord i c 0x13 x = true → s.wordIn i c x = true →
    s.readsOk i c [s.localAt i c x / 8] = true →
    Runs (.sld i c) s (fun u => Retired s u i c ((s.stepped i c x).ws x.dst
      (BitVec.ofNat 64 (leNat (memRead (s.tile i).sram (s.localAt i c x / 8 * 8) 8)))) (s.readTile i c [s.localAt i c x / 8]) ∧
      Only [.regs, .seqs, .tiles] s u)) ∧
  (∀ (s : State) (i : TileIx) (c : CtxIx) (x : TWord), s.atWord i c 0x14 x = true → Memory.wf (s.tile i).sram = true → s.wordIn i c x = true →
    Runs (.sst i c) s (fun u => Retired s u i c (s.stepped i c x) (s.writtenTile i c (s.localAt i c x / 8 * 8) 8 true (u.tile i).sram) ∧
      Only [.regs, .seqs, .tiles] s u ∧ memRead (u.tile i).sram (s.localAt i c x / 8 * 8) 8 = leBytes 8 ((s.ctx i c).rs x.s2).toNat ∧
      ∀ b, (b < s.localAt i c x / 8 * 8 ∨ s.localAt i c x / 8 * 8 + 8 ≤ b) → memGet (u.tile i).sram b = memGet (s.tile i).sram b)) ∧
  FaultsWhen .vld 0x10 fltLocalRange (fun s i c x => (if x.dt = 0 then s.selIn i c x else s.xcbIn i c x) = false) ∧
  FaultsWhen .vst 0x11 fltLocalRange (fun s i c x => s.selIn i c x = false) ∧
  FaultsWhen .vgath 0x12 fltLocalRange (fun s i c x => s.gathIn i c x = false) ∧
  FaultsWhen .sld 0x13 fltLocalRange (fun s i c x => s.wordIn i c x = false) ∧
  FaultsWhen .sst 0x14 fltLocalRange (fun s i c x => s.wordIn i c x = false) ∧
  FaultsWhen .vld 0x10 fltSramEcc (fun s i c x => (if x.dt = 0 then s.selIn i c x else s.xcbIn i c x) = true ∧
    s.readsOk i c (if x.dt = 0 then s.selWords i c x else spanWords [(s.localAt i c x, s.xcbLen i c x)]) = false) ∧
  FaultsWhen .vgath 0x12 fltSramEcc (fun s i c x => s.gathIn i c x = true ∧ s.readsOk i c (s.gathWords i c x) = false) ∧
  FaultsWhen .sld 0x13 fltSramEcc (fun s i c x => s.wordIn i c x = true ∧ s.readsOk i c [s.localAt i c x / 8] = false)

namespace Sys2Proof.Machine

/-- The lines, or registers, that a remote access takes (R223). -/
def TWord.count (x : TWord) : Nat := nbits x.imm 19 17 + 1

/-- The address of an RLD, RST or RATOM, and of element 0 of an RGATH (R223, R224). -/
def State.remoteAt (s : State) (t c : Nat) (x : TWord) : Nat := ((s.ctx t c).addr x).1.toNat % 2 ^ 56
def State.gathAt (s : State) (t c : Nat) (x : TWord) : Nat := s.remoteAt t c x + 128 * vget ((s.ctx t c).rv x.s2) 32 0

/-- The context stands at the next PC and waits for one more request, which is the one packet sent; the tile's other contexts, other tiles and memory
are as before. -/
abbrev Waits (s u : State) (t c : Nat) (P : Packet → Prop) : Prop :=
  (u.ctx t c).state = .waitRemote ∧ (u.ctx t c).pc = (s.ctx t c).pc + 1 ∧ (u.ctx t c).outstanding.length = (s.ctx t c).outstanding.length + 1 ∧
  OthersAsBefore s u t c ∧ Only [.regs, .seqs, .free, .tiles, .recov, .out] s u ∧
  Sent s u (fun q => P q ∧ q.agent = agTile t ∧ q.job = (s.ctx t c).job ∧ q.src = BitVec.ofNat 10 s.ix)

/-- The context goes on READY at the next PC, nothing is sent, and a load's registers hold `v`; its LSTAT is `st`. -/
abbrev LoadsAtOnce (s u : State) (t c : Nat) (st : Status) : Prop :=
  (u.ctx t c).state = .ready ∧ (u.ctx t c).pc = (s.ctx t c).pc + 1 ∧ nbits (u.ctx t c).csw.toNat 15 12 = st.toNat ∧ u.out = s.out ∧
  OthersAsBefore s u t c ∧ Only [.regs, .seqs, .tiles] s u

/-- The context has no access under way but stores, as every context that issues. -/
def State.idleCtx (s : State) (t c : Nat) : Bool := !(s.ctx t c).awaiting && !(s.ctx t c).slotWait

/-- The 8 bytes of a line that an access of a scalar register takes. -/
def wordOf (l : List Byte) (a : Nat) : Word := BitVec.ofNat 64 (leNat (slice l (a % 128 / 8 * 8) 8))

end Sys2Proof.Machine

/-- At a readable, legal word of the opcode (atWord), with slots free for its lines, RLD, RGATH and RST go to the next PC and change no other context.
With the block's tile line cache working, for one line within a page: RLD and RGATH of a line that the cache keeps and does not hold send RDS and
wait; of a line it holds, with nothing else awaited, they load it at once; RLD past the cache sends RDU for a coherent line and RDN for another, and
of a window it sends RDN. RST of a line that is not coherent sends its bytes with WRN, one run as a write of its own, and the context stays READY; of
a coherent line it merges them into a line held E or M, and otherwise asks for it with RDO or UPG. RATOM sends ATM, SACQ sends SACQ, and the context
waits. SREL whose fence has ended sends SREL; with a failed one it completes with that status and the error value; before its end it waits. Lines of
two pages end with UNSUPPORTED, and accesses to a failed cache with POISON, the registers of a load with the error value. Without free slots each
waits and is issued again. -/
def Obligations.TileRemoteMemory : Prop :=
  WaitsForASlot .rld 0x18 TWord.count ∧ WaitsForASlot .rst 0x19 TWord.count ∧ WaitsForASlot .rgath 0x1B TWord.count ∧
  WaitsForASlot .ratom 0x1A (fun _ => 1) ∧ WaitsForASlot .srel 0x20 (fun _ => 1) ∧ WaitsForASlot .sacq 0x21 (fun _ => 1) ∧
  (∀ (s : State) (i : TileIx) (c : CtxIx) (x : TWord), s.slotsFor i c x.count = true →
    let goesOn (u : State) : Prop := (u.ctx i c).pc = (s.ctx i c).pc + 1 ∧ OthersAsBefore s u i c
    (s.atWord i c 0x18 x = true → Runs (.rld i c) s (fun u => goesOn u ∧ (x.dst ≠ x.s1 → (u.ctx i c).rs x.s1 = (s.stepped i c x).rs x.s1) ∧
      Only [.regs, .seqs, .free, .tiles, .recov, .out] s u)) ∧
    (s.atWord i c 0x1B x = true → Runs (.rgath i c) s (fun u => goesOn u ∧ Only [.regs, .seqs, .free, .tiles, .recov, .out] s u)) ∧
    (s.atWord i c 0x19 x = true → Runs (.rst i c) s (fun u => goesOn u ∧ (u.ctx i c).state = .ready ∧
      (u.ctx i c).rs x.s1 = (s.stepped i c x).rs x.s1 ∧ Only [.regs, .seqs, .free, .tiles, .tlc, .recov, .out] s u))) ∧
  (∀ (s : State) (i : TileIx) (c : CtxIx) (x : TWord) (k : Nat), s.slotsFor i c 1 = true → s.tlcFailed (i.val / 16) = false → x.count = 1 →
    s.tlcBusy (i.val / 16) k = false → s.tlcLine (i.val / 16) k = none → nbit x.imm 20 = false →
    (s.atWord i c 0x18 x = true → s.cacheKey (lineGfa (s.remoteAt i c x) 0) = some k →
      s.cacheKey (BitVec.ofNat 56 (s.remoteAt i c x / 8 * 8)) = some k → Runs (.rld i c) s (fun u => Waits s u i c (fun q =>
        q.opcode.toNat = opRDS ∧ q.gfa = lineGfa (s.remoteAt i c x) 0 ∧ q.len = 128))) ∧
    (s.atWord i c 0x1B x = true → s.cacheKey (lineGfa (s.gathAt i c x) 0) = some k → Runs (.rgath i c) s (fun u => Waits s u i c (fun q =>
      q.opcode.toNat = opRDS ∧ q.gfa = lineGfa (s.gathAt i c x) 0 ∧ q.len = 128)))) ∧
  (∀ (s : State) (i : TileIx) (c : CtxIx) (x : TWord) (k : Nat) (l : TlcLine), s.slotsFor i c 1 = true → s.tlcFailed (i.val / 16) = false →
    x.count = 1 → s.tlcBusy (i.val / 16) k = false → s.tlcLine (i.val / 16) k = some l → l.data.length = 128 → s.idleCtx i c = true →
    nbit x.imm 20 = false →
    (s.atWord i c 0x18 x = true → s.cacheKey (lineGfa (s.remoteAt i c x) 0) = some k →
      s.cacheKey (BitVec.ofNat 56 (s.remoteAt i c x / 8 * 8)) = some k → Runs (.rld i c) s (fun u => LoadsAtOnce s u i c stOK ∧
        if isV x.dst then (u.ctx i c).rv x.dst = vofBytes l.data else (u.ctx i c).rs x.dst = wordOf l.data (s.remoteAt i c x))) ∧
    (s.atWord i c 0x1B x = true → s.cacheKey (lineGfa (s.gathAt i c x) 0) = some k → Runs (.rgath i c) s (fun u => LoadsAtOnce s u i c stOK ∧
      (u.ctx i c).rv x.dst = vofBytes l.data))) ∧
  (∀ (s : State) (i : TileIx) (c : CtxIx) (x : TWord), s.atWord i c 0x18 x = true → s.slotsFor i c 1 = true → s.tlcFailed (i.val / 16) = false →
    x.count = 1 →
    let g := if isV x.dst then lineGfa (s.remoteAt i c x) 0 else BitVec.ofNat 56 (s.remoteAt i c x / 8 * 8)
    ((s.cacheKey g).isSome = true → nbit x.imm 20 = true → Runs (.rld i c) s (fun u => Waits s u i c (fun q =>
      q.opcode.toNat = (if (s.coherentAt g).2 then opRDU else opRDN) ∧ q.gfa = g ∧ q.len = if isV x.dst then 128 else 8))) ∧
    (s.cacheKey g = none → Runs (.rld i c) s (fun u => Waits s u i c (fun q =>
      q.opcode.toNat = opRDN ∧ q.gfa = g ∧ q.len = if isV x.dst then 128 else 8)))) ∧
  (∀ (s : State) (i : TileIx) (c : CtxIx) (x : TWord), s.slotsFor i c x.count = true → s.idleCtx i c = true →
    let errs (u : State) : Prop := if isV x.dst then ∀ k, k < x.count → (u.ctx i c).rv (x.dst + k) = vofBytes (errorBytes 128)
      else (u.ctx i c).rs x.dst = BitVec.allOnes 64
    (s.atWord i c 0x18 x = true → onePage (s.remoteAt i c x) x.count = false →
      Runs (.rld i c) s (fun u => LoadsAtOnce s u i c stUnsupported ∧ errs u)) ∧
    (s.atWord i c 0x18 x = true → onePage (s.remoteAt i c x) x.count = true → s.tlcFailed (i.val / 16) = true →
      Runs (.rld i c) s (fun u => LoadsAtOnce s u i c stPoison ∧ errs u)) ∧
    (s.atWord i c 0x1B x = true → s.tlcFailed (i.val / 16) = true → Runs (.rgath i c) s (fun u => LoadsAtOnce s u i c stPoison ∧ errs u))) ∧
  (∀ (s : State) (i : TileIx) (c : CtxIx) (x : TWord), s.atWord i c 0x1A x = true → s.slotsFor i c 1 = true → s.idleCtx i c = true →
    s.tlcFailed (i.val / 16) = true →
    Runs (.ratom i c) s (fun u => LoadsAtOnce s u i c stPoison ∧ (u.ctx i c).rs x.dst = BitVec.allOnes 64)) ∧
  (∀ (s : State) (i : TileIx) (c : CtxIx) (x : TWord), s.atWord i c 0x19 x = true → s.slotsFor i c x.count = true →
    let d := s.remoteAt i c x / 2 ^ 46
    let fails (st : Status) (u : State) : Prop := (kgetD (u.ctx i c).fence d (0, 0)).1 = (kgetD (s.ctx i c).fence d (0, 0)).1 ∧
      (kgetD (u.ctx i c).fence d (0, 0)).2 = worse (kgetD (s.ctx i c).fence d (0, 0)).2 st ∧ u.out = s.out
    (onePage (s.remoteAt i c x) x.count = false → Runs (.rst i c) s (fails stUnsupported)) ∧
    (x.count = 1 → s.tlcFailed (i.val / 16) = true → Runs (.rst i c) s (fails stPoison))) ∧
  (∀ (s : State) (i : TileIx) (c : CtxIx) (x : TWord), s.atWord i c 0x19 x = true → s.slotsFor i c 1 = true → s.tlcFailed (i.val / 16) = false →
    x.count = 1 → (s.cacheKey (lineGfa (s.remoteAt i c x) 0) = none ∨ (s.coherentAt (lineGfa (s.remoteAt i c x) 0)).2 = false) →
    let v := (s.ctx i c).rv x.s2
    let sends (g : BitVec 56) (n : Nat) (m : Option (BitVec 128)) (bs : List Byte) (u : State) : Prop :=
      (u.ctx i c).outstanding.length = (s.ctx i c).outstanding.length + 1 ∧
      Sent s u (fun q => q.opcode.toNat = opWRN ∧ q.gfa = g ∧ q.len = n ∧ q.mask = m ∧ q.payload = bs ∧ q.agent = agTile i.val)
    (isV x.s2 = true → (s.ctx i c).pred x = none → Runs (.rst i c) s (sends (lineGfa (s.remoteAt i c x) 0) 128 none (vbytes v))) ∧
    (∀ b, isV x.s2 = true → (s.ctx i c).pred x = some b → maskRun b = none →
      Runs (.rst i c) s (sends (lineGfa (s.remoteAt i c x) 0) 128 (some b) (vbytes v))) ∧
    (∀ b lo n, isV x.s2 = true → (s.ctx i c).pred x = some b → maskRun b = some (lo, n) →
      Runs (.rst i c) s (sends (BitVec.ofNat 56 (s.remoteAt i c x / 128 * 128 + lo)) n none (slice (vbytes v) lo n))) ∧
    (isV x.s2 = false → Runs (.rst i c) s (sends (BitVec.ofNat 56 (s.remoteAt i c x / 8 * 8)) 8 none (leBytes 8 ((s.ctx i c).rs x.s2).toNat)))) ∧
  (∀ (s : State) (i : TileIx) (c : CtxIx) (x : TWord) (k : Nat), s.atWord i c 0x19 x = true → s.slotsFor i c 1 = true →
    s.tlcFailed (i.val / 16) = false → x.count = 1 → s.cacheKey (lineGfa (s.remoteAt i c x) 0) = some k →
    (s.coherentAt (lineGfa (s.remoteAt i c x) 0)).2 = true → s.tlcBusy (i.val / 16) k = false →
    (∀ l, s.tlcLine (i.val / 16) k = some l → (l.state = 2 ∨ l.state = 3) → isV x.s2 = true → (s.ctx i c).pred x = none →
      Runs (.rst i c) s (fun u => u.tlcLine (i.val / 16) k = some { state := 3, data := vbytes ((s.ctx i c).rv x.s2) } ∧ u.out = s.out ∧
        (u.ctx i c).outstanding = (s.ctx i c).outstanding)) ∧
    ((∀ l, s.tlcLine (i.val / 16) k = some l → l.state ≠ 2 ∧ l.state ≠ 3) → Runs (.rst i c) s (fun u =>
      (u.ctx i c).outstanding.length = (s.ctx i c).outstanding.length + 1 ∧ Sent s u (fun q => q.gfa = lineGfa (s.remoteAt i c x) 0 ∧
        q.opcode.toNat = if ((s.tlcLine (i.val / 16) k).map (fun l => l.state)).getD 0 = 0 then opRDO else opUPG)))) ∧
  (∀ (s : State) (i : TileIx) (c : CtxIx) (x : TWord), s.atWord i c 0x1A x = true → s.slotsFor i c 1 = true → s.tlcFailed (i.val / 16) = false →
    let w := if nbit x.imm 21 then 4 else 8
    Runs (.ratom i c) s (fun u => Waits s u i c (fun q => q.opcode.toNat = opATM ∧ q.gfa = BitVec.ofNat 56 (s.remoteAt i c x / w * w) ∧
      q.payload = leBytes 8 ((s.ctx i c).rs x.s2).toNat ++ leBytes 8 ((s.ctx i c).rs x.s3).toNat ++
        leBytes 8 (nbits x.imm 19 17 + if nbit x.imm 21 then 8 else 0)))) ∧
  (∀ (s : State) (i : TileIx) (c : CtxIx) (x : TWord), s.atWord i c 0x20 x = true → s.slotsFor i c 1 = true →
    let scope := BitVec.ofNat 2 (nbits x.imm 1 0)
    let st := (s.ctx i c).fenceWorst s.ix scope
    ((s.ctx i c).fenceDone s.ix scope = true → st = stOK → Runs (.srel i c) s (fun u => (u.ctx i c).state = .waitStake ∧
      (u.ctx i c).pc = (s.ctx i c).pc + 1 ∧ (u.ctx i c).outstanding.length = (s.ctx i c).outstanding.length + 1 ∧ (u.ctx i c).fencing = none ∧
      OthersAsBefore s u i c ∧ Only [.regs, .seqs, .tiles, .recov, .out] s u ∧ Sent s u (fun q => q.opcode.toNat = opSREL ∧
        q.gfa = BitVec.ofNat 56 ((s.ctx i c).rs x.s1).toNat ∧ q.payload = leBytes 8 ((s.ctx i c).rs x.s2).toNat ++ leBytes 8 (nbits x.imm 1 0)))) ∧
    ((s.ctx i c).fenceDone s.ix scope = true → st ≠ stOK → Runs (.srel i c) s (fun u => LoadsAtOnce s u i c st ∧
      (u.ctx i c).rs x.dst = BitVec.allOnes 64)) ∧
    let f := (x.dst, BitVec.ofNat 56 ((s.ctx i c).rs x.s1).toNat, (s.ctx i c).rs x.s2, scope)
    ((s.ctx i c).fenceDone s.ix scope = false → Runs (.srel i c) s (fun u =>
      Retired s u i c { s.ctx i c with state := .waitStake, fencing := some f } (s.fetched i c) ∧ Only [.regs, .seqs, .tiles] s u))) ∧
  (∀ (s : State) (i : TileIx) (c : CtxIx) (x : TWord), s.atWord i c 0x21 x = true → s.slotsFor i c 1 = true →
    Runs (.sacq i c) s (fun u => (u.ctx i c).state = .waitStake ∧ (u.ctx i c).pc = (s.ctx i c).pc + 1 ∧
      (u.ctx i c).outstanding.length = (s.ctx i c).outstanding.length + 1 ∧ OthersAsBefore s u i c ∧ Only [.regs, .seqs, .tiles, .recov, .out] s u ∧
      Sent s u (fun q => q.opcode.toNat = opSACQ ∧ q.gfa = BitVec.ofNat 56 ((s.ctx i c).rs x.s1).toNat ∧
        q.payload = leBytes 8 ((s.ctx i c).rs x.s2).toNat ++ leBytes 8 (nbits x.imm 1 0 + nbits x.imm 17 2 * 2 ^ 16))))

namespace Sys2Proof.Machine

/-- A tile takes a doorbell write of the packet's job: its parcel binds the job, and the tile is enabled and not being zeroed (R54, R190, R202). -/
def State.tileOpen (s : State) (t : Nat) (p : Packet) : Bool :=
  (match s.tileParcel t with
    | some n => s.binds n p.job.toNat
    | none => false) && s.bit (rTileCtl t) 0 && !s.bit (rTileStat t) 40

/-- The write is a 64 B write to offset 0 (R190). -/
def doorForm (p : Packet) : Bool := (p.opcode.toNat == opWRN || p.opcode.toNat == opWRI) && p.len == 64 && gfaOff p.gfa % 0x1000 == 0 && p.mask.isNone

/-- A descriptor write passes its checks and is queued and completed, or held behind a full queue or a held write; one that fails them completes with
that status and changes nothing of the tile. -/
def TileDoor (cmd : TileIx → Packet → Instr) : Prop :=
  ∀ (s : State) (i : TileIx) (p : Packet),
    let free := decide ((s.tile i).queue.length < 64) && !s.tier.held.any (fun h => h.door == 4 + i.val)
    (s.tileOpen i p = true → doorForm p = true → free = true → Runs (cmd i p) s (fun u =>
      u.tile i = { s.tile i with queue := (s.tile i).queue ++ [((List.range 8).map (fun k => BitVec.ofNat 64 (wordAt p.payload k)), p)] } ∧
      (∀ k, k ≠ i.val → u.tile k = s.tile k) ∧ Answered s u p stOK ∧ Only [.regs, .seqs, .tiles, .out] s u ∧ OnlyPages [pgMtr] s u)) ∧
    (s.tileOpen i p = true → doorForm p = true → free = false → Runs (cmd i p) s (fun u =>
      u.tier = { s.tier with held := s.tier.held ++ [{ door := 4 + i.val, req := p }] } ∧ Only [.seqs, .tier] s u)) ∧
    ((s.tileOpen i p && doorForm p) = false → Runs (cmd i p) s (fun u =>
      Answered s u p (if s.tileOpen i p then stUnsupported else stAccessFault) ∧ Only [.regs, .seqs, .out] s u ∧ OnlyPages [pgMtr] s u))

/-- The packet completes the only request of context `c`, which waits for no slot and no fence; the tile's contexts are listed once each. -/
def State.completesOnly (s : State) (t c : Nat) (o : Outstanding) (p : Packet) : Bool :=
  tileOfPkt p == some t && p.tid.toNat / 128 == c && (s.ctx t c).outstanding == [o] && o.tid == p.tid && !(s.ctx t c).slotWait &&
  (s.ctx t c).fencing.isNone && KMap.wf (s.tile t).ctxs

end Sys2Proof.Machine

/-- A RUN, LOAD_KERNEL or LOAD_DATA descriptor write that passes its checks enters the tile's queue and completes with OK, or is held behind a full
queue or an older held write; one that fails them completes with ACCESS_FAULT or UNSUPPORTED and changes nothing of the tile. When the tile is neither
passed on nor zeroed, no LOAD runs, and a context and the lanes it asks for are free, the head descriptor starts the lowest FREE context: a RUN at its
PC with its lanes and arguments; a LOAD, when no descriptor context is left, waiting for its page; a bad one's context faults. Otherwise nothing
starts. A drained context with a free slot writes its 16 B record, a bound one is FREE, and without a slot it stays. A completion of a context's only
request, which waits for no slot and no fence: a load's or an atomic's brings its data and the context is READY, through the cache the line stays there; a store's
counts for the fence; an SREL's or an SACQ's brings VALUE; the last read of a LOAD writes the SRAM and ends it; the record's frees the context or
sends its release, which frees it when it ends. A completion that no request awaits changes nothing. -/
def Obligations.TileDescriptorsAndContexts : Prop :=
  TileDoor .runDescriptor ∧ TileDoor .loadKernelDescriptor ∧ TileDoor .loadDataDescriptor ∧
  (∀ (s : State) (i : TileIx) (d : List Word) (p : Packet) (rest : List (List Word × Packet)) (c : Nat), (s.tile i).queue = (d, p) :: rest →
    s.freeCtx i = some c → s.bit (rTileCtl i) 1 = false → s.bit (rTileStat i) 40 = false → (s.tile i).loading = false →
    let w0 := (d.getD 0 0).toNat
    let args := [(0, d.getD 3 0), (1, d.getD 4 0), (2, d.getD 5 0), (3, d.getD 6 0), (4, d.getD 7 0), (15, BitVec.ofNat 64 (16 * i.val + c))]
    (s.descFault i d = none → nbits w0 63 60 = 0 → nbits w0 20 16 ≤ (s.freeLanes i).length → Runs (.contextStart i) s (fun u =>
      (u.tile i).queue = rest ∧
      u.ctx i c = { state := .ready, pc := BitVec.ofNat 16 w0, desc := d, job := p.job, s := args, lanes := (s.freeLanes i).take (nbits w0 20 16) } ∧
      (∀ l, l ∈ (s.freeLanes i).take (nbits w0 20 16) → u.lane i l = { owner := some c }) ∧ OthersAsBefore s u i c ∧
      Only [.regs, .seqs, .tiles] s u ∧ OnlyPages [pgTile i] s u)) ∧
    (s.descFault i d = none → nbits w0 63 60 ≠ 0 → (s.tile i).ctxs.all (fun e => e.2.state == .free || e.2.isBound) = true →
      s.slotsFor i c 1 = true → (d.getD 3 0).toNat % 0x1000 + (d.getD 4 0).toNat ≤ 0x1000 → Runs (.contextStart i) s (fun u =>
        (u.tile i).queue = rest ∧ (u.tile i).loading = true ∧ (u.ctx i c).state = .waitRemote ∧ (u.ctx i c).isLoad = true ∧ (u.ctx i c).desc = d ∧
        Sent s u (fun q => q.opcode.toNat = opRDN ∧ q.gfa = BitVec.ofNat 56 (d.getD 3 0).toNat ∧ q.len = (d.getD 4 0).toNat ∧ q.job = p.job) ∧
        OthersAsBefore s u i c ∧ Only [.regs, .seqs, .tiles, .recov, .out] s u)) ∧
    (∀ f, s.descFault i d = some f → Runs (.contextStart i) s (fun u => (u.tile i).queue = rest ∧ (u.ctx i c).state = .drain ∧ (u.ctx i c).fault = f ∧
      (u.ctx i c).desc = d ∧ OthersAsBefore s u i c))) ∧
  (∀ (s : State) (i : TileIx), ((s.tile i).queue = [] ∨ s.freeCtx i = none ∨ s.bit (rTileCtl i) 1 = true ∨ s.bit (rTileStat i) 40 = true ∨
    (s.tile i).loading = true) → Runs (.contextStart i) s (fun u => u = s)) ∧
  (∀ (s : State) (i : TileIx) (c : CtxIx),
    (((s.ctx i c).state ≠ .drain ∨ (s.ctx i c).outstanding ≠ [] ∨ (s.ctx i c).recorded = true) → Runs (.contextDrainDone i c) s (fun u => u = s)) ∧
    ((s.ctx i c).state = .drain → (s.ctx i c).outstanding = [] → (s.ctx i c).recorded = false →
      ((s.ctx i c).desc ≠ [] → s.slotsFor i c 1 = true → Runs (.contextDrainDone i c) s (fun u => (u.ctx i c).recorded = true ∧
        (u.ctx i c).state = .drain ∧ OthersAsBefore s u i c ∧ Only [.tiles, .recov, .out] s u ∧ Sent s u (fun q => q.opcode.toNat = opWRN ∧
          q.gfa = (s.ctx i c).recordGfa ∧ q.len = 16 ∧ q.payload = (s.ctx i c).record s.ix (s.degradedFlag (s.ctx i c).job.toNat)))) ∧
      ((s.ctx i c).desc ≠ [] → s.slotsFor i c 1 = false → Runs (.contextDrainDone i c) s (fun u => u = s)) ∧
      ((s.ctx i c).desc = [] → Runs (.contextDrainDone i c) s (fun u => u.ctx i c = {} ∧ OthersAsBefore s u i c ∧ Only [.regs, .tiles] s u)))) ∧
  (∀ (s : State) (i : TileIx) (c : CtxIx) (p : Packet) (o : Outstanding), s.completesOnly i c o p = true → o.cached = false →
    let done (y : Ctx) (u : State) : Prop := u.ctx i c = y ∧ u.mem = s.mem
    let y : Ctx := { s.ctx i c with outstanding := [] }
    let ok := p.status == stOK
    (∀ r, o.use = .loadV r → (s.ctx i c).state = .waitRemote → Runs (.remoteCompletion p) s (fun u => (u.ctx i c).state = .ready ∧
      (u.ctx i c).rv r = vofBytes (if ok then slice p.payload 0 128 else errorBytes 128) ∧ (u.ctx i c).outstanding = [] ∧ u.mem = s.mem)) ∧
    (∀ r d, o.use = .atomic r d → (s.ctx i c).state = .waitRemote → Runs (.remoteCompletion p) s (fun u => (u.ctx i c).state = .ready ∧
      (u.ctx i c).rs r = (if ok then BitVec.ofNat 64 (leNat (slice p.payload 0 8)) else BitVec.allOnes 64) ∧ (u.ctx i c).outstanding = [] ∧ u.mem = s.mem)) ∧
    (∀ d m v, o.use = .store d m v → (s.ctx i c).state ≠ .waitRemote → (s.ctx i c).fencing = none → Runs (.remoteCompletion p) s (done { y with
      fence := kmod y.fence d (0, 0) (fun f => (f.1 - 1, worse f.2 p.status)) })) ∧
    (∀ r, o.use = .srel r → (s.ctx i c).state = .waitStake → Runs (.remoteCompletion p) s
      (done { (y.ws r (BitVec.ofNat 64 (leNat (slice p.payload 0 8)))).lstat p.status p.flags with state := .ready })) ∧
    (∀ r scope, o.use = .sacq r scope → (s.ctx i c).state = .waitStake → Runs (.remoteCompletion p) s
      (done (let z := (y.ws r (BitVec.ofNat 64 (leNat (slice p.payload 0 8)))).lstat p.status p.flags
        { (if p.flags.getLsbD 0 then z.flag 64 else z) with state := .ready }))) ∧
    (∀ a, o.use = .load a → (s.ctx i c).state = .waitRemote → (s.ctx i c).loadLen ≤ (s.ctx i c).loadNext → Memory.wf (s.tile i).sram = true →
      Runs (.remoteCompletion p) s (fun u => (u.ctx i c).state = .drain ∧ (u.ctx i c).fault = (s.ctx i c).fault ∧
        memRead (u.tile i).sram a p.payload.length = (if ok then p.payload else errorBytes p.payload.length) ∧ u.mem = s.mem)) ∧
    (o.use = .record → (ok = true → (s.ctx i c).stakeEn = true → (s.ctx i c).fault = 0 → (s.ctx i c).endStatus s.ix = stOK →
        Runs (.remoteCompletion p) s (fun u => (u.ctx i c).state = (s.ctx i c).state ∧ Sent s u (fun q => q.opcode.toNat = opSREL ∧
          q.gfa = BitVec.ofNat 56 (s.ix * 2 ^ 46 + stakeBase + 64 * (s.ctx i c).stakeNo)))) ∧
      ((ok = false ∨ (s.ctx i c).stakeEn = false ∨ (s.ctx i c).fault ≠ 0 ∨ (s.ctx i c).endStatus s.ix ≠ stOK) →
        Runs (.remoteCompletion p) s (done {}))) ∧
    (o.use = .release → Runs (.remoteCompletion p) s (done {}))) ∧
  (∀ (s : State) (i : TileIx) (c : CtxIx) (p : Packet) (o : Outstanding) (r : Nat), s.completesOnly i c o p = true → o.cached = true → o.sent = true →
    o.use = .loadV r → s.tlcFailed (i.val / 16) = false → p.status = stOK → (s.ctx i c).state = .waitRemote →
    (tlcSet (kgetD s.tlc (i.val / 16) []) o.line).length < 16 → s.tlcWaiting (i.val / 16) o.line = [] →
    Runs (.remoteCompletion p) s (fun u => (u.ctx i c).state = .ready ∧ (u.ctx i c).rv r = vofBytes (slice p.payload 0 128) ∧
      u.tlcLine (i.val / 16) o.line = some { state := BitVec.ofNat 3 p.grant.toNat, data := slice p.payload 0 128 } ∧ u.mem = s.mem)) ∧
  (∀ (s : State) (p : Packet), (∀ i, tileOfPkt p = some i → ∀ o, o ∈ (s.ctx i (p.tid.toNat / 128)).outstanding → o.tid ≠ p.tid) →
    Runs (.remoteCompletion p) s (fun u => u = s))

/-- A READY urgent context pre-empts a running normal one, whose instruction does not issue. A running context with a READY peer of its level is
switched out at its quantum, and one without goes on. A descriptor context over a limit that is not 0 faults with WATCHDOG; a bound one does not.
TILE_CTL.KILL faults each context that it names and that holds work with KILLED, and no other. An idle tile is cleared, with ZERO_BUSY until the end;
one that is not idle is not. A legal division of an idle tile's SRAM takes effect, and another is refused. A failed tile line cache is marked failed
and holds nothing, and every context with an access through it faults with SRAM_ECC. -/
def Obligations.TileEvents : Prop :=
  (∀ (s : State) (i : TileIx) (c : CtxIx) (n : Nat), (s.tile i).running = some c.val → (s.ctx i c).state = .running → (s.ctx i c).bound = none →
    (s.tile i).nextReady true (s.tile i).rrUrgent = some n →
    Runs (.nop i c) s (fun u => u.ctx i c = { s.ctx i c with state := .ready } ∧ u.ctx i n = { s.ctx i n with state := .running } ∧
      (u.tile i).rrUrgent = (n + 1) % 16 ∧ (∀ d, d ≠ c → d ≠ n → u.ctx i d = s.ctx i d) ∧ Only [.regs, .tiles] s u ∧ OnlyPages [pgTile i] s u)) ∧
  (∀ (s : State) (i : TileIx) (c : CtxIx),
    let other := (s.tile i).ctxs.any (fun e => e.1 != c.val && e.2.ready && e.2.isBound == (s.ctx i c).isBound)
    ((s.ctx i c).state = .running → other = true → Runs (.quantumExpiry i c) s (fun u => u.ctx i c = { s.ctx i c with state := .ready } ∧
      OthersAsBefore s u i c ∧ Only [.regs, .tiles] s u ∧ OnlyPages [pgTile i] s u)) ∧
    (((s.ctx i c).state ≠ .running ∨ other = false) → Runs (.quantumExpiry i c) s (fun u => u = s))) ∧
  (∀ (s : State) (i : TileIx) (c : CtxIx),
    let due := s.fld (rTileWdog i) 31 0 ≠ 0 ∧ (s.ctx i c).bound = none ∧ (s.ctx i c).state ≠ .free ∧ (s.ctx i c).state ≠ .drain
    (due → Runs (.tileWatchdogExpiry i c) s (fun u => Faulted s u i c fltWatchdog)) ∧
    (¬ due → Runs (.tileWatchdogExpiry i c) s (fun u => u = s))) ∧
  (∀ (s : State) (i : TileIx) (m : BitVec 16), s.cfgOpen (rTileCtl i) = true → Runs (.contextKill i m) s (fun u => ∀ c, c < 16 →
    if m.getLsbD c = true ∧ (s.ctx i c).state ≠ .free ∧ (s.ctx i c).state ≠ .drain then
      (u.ctx i c).state = .drain ∧ (u.ctx i c).fault = fltKilled ∧ (u.ctx i c).faultPc = (s.ctx i c).pc
    else u.ctx i c = s.ctx i c)) ∧
  (∀ (s : State) (i : TileIx), s.cfgOpen (rTileCtl i) = true →
    ((s.tile i).idle = true → s.bit (rTileStat i) 40 = false → Runs (.tileZero i) s (fun u => u.tile i = {} ∧ u.bit (rTileStat i) 40 = true ∧
      (∀ k, k ≠ i.val → u.tile k = s.tile k) ∧ Only [.regs, .seqs, .tiles] s u ∧ OnlyPages [pgTile i] s u)) ∧
    (((s.tile i).idle = false ∨ s.bit (rTileStat i) 40 = true) → Runs (.tileZero i) s (fun u => Only [.seqs] s u))) ∧
  (∀ (s : State) (i : TileIx), Runs (.tileZeroDone i) s (fun u => u.bit (rTileStat i) 40 = false ∧
    u.fld (rTileStat i) 39 0 = s.fld (rTileStat i) 39 0 ∧ Only [.regs] s u ∧ OnlyPages [pgTile i] s u)) ∧
  (∀ (s : State) (i : TileIx) (v : Word), s.cfgOpen (rTileSram i) = true →
    let k := nbits v.toNat 4 0
    let g := nbits v.toNat 12 8
    let legal := (s.tile i).idle && decide (1 ≤ k) && decide (g ≤ 16) && decide (k + g ≤ 31)
    (legal = true → Runs (.tileSramWrite i v) s (fun u => u.reg (rTileSram i) = k + g * 2 ^ 8 ∧ Only [.regs, .seqs] s u ∧ OnlyPages [pgTile i] s u)) ∧
    (legal = false → Runs (.tileSramWrite i v) s (fun u => u.bit (rTileSram i) 63 = true ∧ u.fld (rTileSram i) 12 0 = s.fld (rTileSram i) 12 0 ∧
      Only [.regs, .seqs] s u ∧ OnlyPages [pgTile i] s u))) ∧
  (∀ (s : State) (n : BlockIx), Runs (.tileLineCacheFail n) s (fun u => u.tlcFailed n = true ∧ kget u.tlc n = none ∧ u.pnm = s.pnm ∧
    ∀ i c, i < 16 → c ∈ (s.tile (16 * n.val + i)).throughCache → (u.ctx (16 * n.val + i) c).state = .drain ∧ (u.ctx (16 * n.val + i) c).fault = fltSramEcc))

namespace Sys2Proof.Machine

/-- A doorbell write whose descriptor carries an opcode. -/
def withOp (op : Nat) (p : Packet) : Packet := { p with payload := leBytes 1 op ++ p.payload.drop 1 }

/-- The plan command that a doorbell write queues first, under number 0 (R265). -/
def planCmdOf (op n : Nat) (p : Packet) : PlanCmd := { id := 0, parcel := n, desc := descOf (withOp op p), req := withOp op p }

/-- The doorbell takes a write of a job of parcel `n`: it passes the door's checks, finds room, and no earlier one of its job is held (R156, R265). -/
def State.planOpen (s : State) (op n : Nat) (p : Packet) : Bool :=
  s.engineDoor (withOp op p) == stOK && s.parcelOf p.job.toNat == some n && s.planRoom n && !s.doorWaits 2 p

/-- It finds the plan queue empty, and no field of the descriptor is bad (R265). -/
def State.planReady (s : State) (op n : Nat) (p : Packet) : Bool :=
  s.planOpen op n p && s.coll.cmds.isEmpty && !(planCmdOf op n p).bad

/-- The bytes of a LAUNCH's plan, and the first check of the launch that fails, with its status and DETAIL (R261, R265, R266). -/
def State.planBytes (s : State) (c : PlanCmd) (o n : Nat) : Nat := leNat (s.readMem (nbits (c.word 2) 45 0 + o) n)
def State.planRefusal (s : State) (c : PlanCmd) : Option (Status × Nat) :=
  let a := nbits (c.word 2) 45 0
  let f := s.planBytes c
  let top := match s.extAt a with
    | some (_, x) => x.base + 0x1000 * x.pages - a
    | none => 0
  if s.planReadable c != stOK then some (s.planReadable c, 8)
  else if planMalformed f s.cols s.inGrid then some (stUnsupported, 1)
  else if top < plLength f then some (stAccessFault, 8)
  else if s.anyPoison a (plLength f) then some (stPoison, 0)
  else ((s.launchCheck c.parcel c.req.job f).find? (fun e => e.1)).map (fun e => (e.2.2, e.2.1))

/-- The one plan command has ended, with a status and a detail, and its record is being written. -/
abbrev State.planEnded (s : State) (st : Status) (detail : Nat) : Prop :=
  s.coll.cmds.map (fun c => (c.id, c.status, c.detail, c.recording)) = [(0, st, detail, true)]

/-- The plan keys other than this one name what they named before. -/
def OtherPlans (s t : State) (j k : BitVec 16) : Prop := ∀ a b, (a, b) ≠ (j, k) → t.plan a b = s.plan a b

/-- A plan doorbell write that the door's checks refuse completes with their status; one that finds no room, or an earlier one of its job held, is
held; one with a bad field is accepted with OK and its command ends with UNSUPPORTED. -/
def PlanDoor (cmd : Packet → Instr) (op : Nat) : Prop :=
  ∀ (s : State) (p : Packet),
    (s.engineDoor (withOp op p) ≠ stOK → Runs (cmd p) s (fun t => Answered s t p (s.engineDoor (withOp op p)) ∧ Only [.regs, .out] s t ∧
      OnlyPages [pgMtr] s t)) ∧
    (∀ n, s.engineDoor (withOp op p) = stOK → s.parcelOf p.job.toNat = some n → (s.planRoom n = false ∨ s.doorWaits 2 p = true) →
      Runs (cmd p) s (fun t => t.tier = { s.tier with held := s.tier.held ++ [{ door := 2, req := withOp op p }] } ∧ Only [.tier] s t)) ∧
    (∀ n, s.planOpen op n p = true → s.coll.cmds = [] → (planCmdOf op n p).bad = true →
      Runs (cmd p) s (fun t => t.planEnded stUnsupported 1 ∧ t.coll.plans = s.coll.plans ∧ t.coll.slots = s.coll.slots ∧ t.mem = s.mem))

end Sys2Proof.Machine

/-- A plan doorbell write that the door refuses completes with that status, one without room is held, and one with a bad field ends with UNSUPPORTED.
With the plan queue empty and no field bad (planReady): a LAUNCH that passes every check installs the plan with its stages of this host, arms its
slots for fill 1 and ends with OK and the CRC-32C of the plan; the first check that fails (planRefusal) ends it with its status and DETAIL, and
nothing is installed. STOP of a live plan marks it and waits; of an unknown one it ends with ACCESS_FAULT. REBIND of an endpoint's index arms the
first fitting spare, waits where one is armed, and ends with QUOTA where none fits; of an unknown plan it ends with ACCESS_FAULT, and of an index
that is no endpoint's with UNSUPPORTED. A stopping plan that is idle is removed, and its STOP ends with OK; its READY slots stay for their readers
and its other slots are freed. One that does not stop or is not idle stays. -/
def Obligations.PlanCommands : Prop :=
  PlanDoor .planLaunch 1 ∧ PlanDoor .planStop 2 ∧ PlanDoor .planRebind 3 ∧
  (∀ (s : State) (p : Packet) (n : Nat), s.planReady 1 n p = true → s.planRefusal (planCmdOf 1 n p) = none →
    let f := s.planBytes (planCmdOf 1 n p)
    let h := plHeader f
    let k := BitVec.ofNat 16 (hdr h 0 15 0)
    let first := (s.slotRun n (hdrDepth h)).getD 0
    Runs (.planLaunch p) s (fun t =>
      (t.plan p.job k).map (fun q => (q.parcel, q.header, q.hosts, q.stages.map (fun g => g.number), q.stopping)) =
        some (n, h, (plStages f).map (plHost f), (plStages f).filter (fun g => plHost f g == s.ix), false) ∧
      (∀ r, r < hdrDepth h → (t.rslot (first + r)).state = .armed ∧ (t.rslot (first + r)).fill = 1 ∧ (t.rslot (first + r)).parcel = n ∧
        (t.rslot (first + r)).lines = hdrSlotLines h) ∧
      t.planEnded stOK 0 ∧ t.coll.cmds.map (fun c => c.value) = [(crc32c (s.readSpan (nbits ((planCmdOf 1 n p).word 2) 45 0) (plLength f))).toNat] ∧
      OtherPlans s t p.job k ∧ t.mem = s.mem)) ∧
  (∀ (s : State) (p : Packet) (n d : Nat) (st : Status), s.planReady 1 n p = true → s.planRefusal (planCmdOf 1 n p) = some (st, d) →
    Runs (.planLaunch p) s (fun t => t.planEnded st d ∧ t.coll.plans = s.coll.plans ∧ t.coll.slots = s.coll.slots ∧ t.tiles = s.tiles ∧ t.mem = s.mem)) ∧
  (∀ (s : State) (p : Packet) (n : Nat) (q : Plan), s.planReady 2 n p = true →
    let k := (planCmdOf 2 n p).plan
    (s.plan p.job k = some q → Runs (.planStop p) s (fun t => t.plan p.job k = some q.stop ∧ OtherPlans s t p.job k ∧ t.coll.cmds = [planCmdOf 2 n p] ∧
      t.tiles = s.tiles ∧ t.mem = s.mem ∧ Answered s t p stOK)) ∧
    (s.plan p.job k = none → Runs (.planStop p) s (fun t => t.planEnded stAccessFault 9 ∧ t.coll.plans = s.coll.plans ∧ t.tiles = s.tiles ∧
      t.mem = s.mem))) ∧
  (∀ (s : State) (p : Packet) (n : Nat) (q : Plan) (g : Stage) (x : Source'), s.planReady 3 n p = true →
    let c := planCmdOf 3 n p
    s.plan p.job c.plan = some q → q.stage c.stage = some g → g.sources[c.index]? = some x → x.stage = false →
    (∀ r, x.armed = none → s.spareFor q = some r → Runs (.planRebind p) s (fun t =>
      ((t.plan p.job c.plan).bind (fun q => q.stage c.stage)).map (fun g => g.sources) = some (g.sources.set c.index { x with armed := some (r, false) }) ∧
      OtherPlans s t p.job c.plan ∧ t.coll.cmds = [c] ∧ t.mem = s.mem ∧ Answered s t p stOK)) ∧
    (x.armed.isSome = true → Runs (.planRebind p) s (fun t => t.coll.plans = s.coll.plans ∧ t.coll.cmds = [c] ∧ t.mem = s.mem ∧ Answered s t p stOK)) ∧
    (x.armed = none → s.spareFor q = none → Runs (.planRebind p) s (fun t => t.planEnded stQuota 10 ∧ t.coll.plans = s.coll.plans ∧ t.mem = s.mem))) ∧
  (∀ (s : State) (p : Packet) (n : Nat), s.planReady 3 n p = true →
    let c := planCmdOf 3 n p
    (s.plan p.job c.plan = none → Runs (.planRebind p) s (fun t => t.planEnded stAccessFault 9 ∧ t.coll.plans = s.coll.plans ∧ t.mem = s.mem)) ∧
    (∀ q, s.plan p.job c.plan = some q → (∀ g x, q.stage c.stage = some g → g.sources[c.index]? = some x → x.stage = true) →
      Runs (.planRebind p) s (fun t => t.planEnded stUnsupported 1 ∧ t.coll.plans = s.coll.plans ∧ t.mem = s.mem))) ∧
  (∀ (s : State) (j k : BitVec 16) (q : Plan), s.plan j k = some q → q.stopping = true → s.planIdle q = true →
    Runs (.planStopDone j k) s (fun t => t.plan j k = none ∧ OtherPlans s t j k ∧
      (∀ m, m ∈ q.slots → t.rslot m = (if (s.rslot m).state = .ready then { s.rslot m with stopped := true } else {})) ∧
      (∀ m, m ∉ q.slots → t.rslot m = s.rslot m) ∧
      (∀ c, s.coll.cmds = [c] → c.recording = false → c.req.job = j → c.plan = k → c.op = 2 →
        t.coll.cmds.map (fun c => (c.id, c.status, c.detail, c.recording)) = [(c.id, stOK, 0, true)]) ∧
      Only [.tiles, .coll, .recov, .out] s t)) ∧
  (∀ (s : State) (j k : BitVec 16), (∀ q, s.plan j k = some q → q.stopping = false ∨ s.planIdle q = false) →
    Runs (.planStopDone j k) s (fun t => t = s))

namespace Sys2Proof.Machine

/-- A stage of a live plan hears a contribution: it comes, with a status that is no reserved code, from the source bound to its index, for the stage's
current or next step `a` (R12, R269). -/
def State.colHeard (s : State) (p : Packet) (q : Plan) (g : Stage) (a : Nat) : Bool :=
  s.plan p.job p.flow == some q && !colResult p && decide (p.status.toNat < 12) && q.stage (colStage p) == some g && g.stepOf (colStep p) == some a &&
  (match g.sources[colIndex p]? with
    | some x => x.accepts q.hosts a p
    | none => false)

/-- It is segmented as the plan says (R250). -/
def Stage.fits (g : Stage) (q : Plan) (p : Packet) : Bool :=
  match g.sources[colIndex p]? with
  | some x => segmented q x.len p
  | none => false

/-- The stage takes it: it is also not present yet (R255, R269). -/
def State.colTaken (s : State) (p : Packet) (q : Plan) (g : Stage) (a : Nat) : Bool :=
  s.colHeard p q g a && g.fits q p && !colPresent q g a p

/-- The stage of a key and number, after a command. -/
def State.stageOf (s : State) (j k : BitVec 16) (g : Nat) : Option Stage := (s.plan j k).bind (fun q => q.stage g)

/-- A reduction's segment with the contribution merged: its status POISON where its staging could not be read (R199, R251). -/
def State.merged (s : State) (p : Packet) (q : Plan) (g : Stage) (a : Nat) : Segment :=
  (g.segment a (colOff p)).take q.header g.n (colIndex p) (s.colLand q g p).2 p.payload (BitVec.ofNat 320 (s.freeNat 320))

/-- STATUS that a segment of a stage leaves with, from the worst of its contributions (R253, R254, R282). -/
def Stage.outStatus (g : Stage) (q : Plan) (a off : Nat) (worst : Status) : Status :=
  worse worst (worse (if worst == stLostState then stOK else kgetD g.failed (g.tileOf q off) 0) (if g.unsup.contains a then stUnsupported else stOK))

/-- A COLD packet to the next stage's host, for a segment of a step. -/
def ColdTo (t : State) (q : Plan) (g : Stage) (a off : Nat) (P : Packet → Prop) : Prop :=
  ∃ c, c ∈ t.out ∧ c.opcode.toNat = opCOLD ∧ c.job = q.job ∧ c.flow = q.plan ∧ c.dst = BitVec.ofNat 17 (q.hosts.getD g.next 0 * 128) ∧
    c.seqx = some (mkSeqx g.nextIdx g.next a off false) ∧ P c

/-- The slot of a step, and whether it awaits the segment at `off` of that step: ARMED for its fill, with none held before it and the segment not
written, of a plan that is not twinned (R271, R273). -/
def Plan.slotOf (q : Plan) (step : Nat) : Nat := q.slot + step % max 1 q.depth
def State.awaits (s : State) (q : Plan) (step off : Nat) : Bool :=
  let x := s.rslot (q.slotOf step)
  x.state == .armed && x.fill == step / max 1 q.depth + 1 && !s.coll.held.any (fun h => h.slot == q.slotOf step) && (kget x.segs off).isNone &&
  (s.twinOp 1 q.opref (some q.job)).isNone

/-- The step that a result packet names, and whether it is accepted (R274). -/
def State.resultAhead (s : State) (q : Plan) (p : Packet) : Nat := (colStep p + 65536 - s.ringStep q % 65536) % 65536
def State.resultOk (s : State) (q : Plan) (p : Packet) : Bool :=
  s.plan p.job p.flow == some q && colResult p && decide (p.status.toNat < 12) && p.agent == agPlan && p.src.toNat == q.hosts.getD (colStage p) 1024 &&
  p.src.toNat != s.ix && decide (0 < q.depth) && decide (s.resultAhead q p < 32768) && decide (colOff p + p.payload.length ≤ (s.rslot q.slot).due) &&
  !p.payload.isEmpty

/-- The entries of the index list of a GATHER_INDEXED step, and where each row is packed in the slot (R275). -/
def State.gatherEntry (s : State) (q : Plan) (g : Stage) (i : Nat) : Nat × Bool :=
  let a := s.datum q.parcel + hdr q.header 7 45 0 + g.current % max 1 q.depth * hdr q.header 7 63 48 * 16 + 16 * i
  (leNat (s.readMem a 16), s.poisoned a)
def rowBytes (e : Nat) : Nat := (nbits e 68 64 + 1) * 128
def State.gatherOff (s : State) (q : Plan) (g : Stage) (i : Nat) : Nat := (List.range i).foldl (fun a j => a + rowBytes (s.gatherEntry q g j).1) 0
def State.gatherFits (s : State) (q : Plan) (g : Stage) (i : Nat) : Bool :=
  let e := s.gatherEntry q g i
  gatherEntryOk e.1 && !e.2 && decide (s.gatherOff q g i + rowBytes e.1 ≤ hdrSlotLines q.header * 128) &&
  kgetD g.failed (g.tiles.getD (i % max 1 g.tiles.length) 0) 0 == stOK

/-- A gather step of a plan may start: its first stage has begun no step and reads no row, and the acquires of the input stake by its bound contexts
have completed, with a worst status `st` (R275). -/
def State.gatherMay (s : State) (j k : BitVec 16) (q : Plan) (g : Stage) (st : Status) : Bool :=
  s.plan j k == some q && q.stages.head? == some g && q.kind == 4 && !q.stopping && g.began.isEmpty && g.rows.isEmpty && s.inputStatus g == some st

end Sys2Proof.Machine

/-- A contribution with a reserved status is taken as a failed one, with a free status (log entry 219). One of no live plan, one that no stage hears (its
source, index or step is not awaited), and one already present are discarded, with a record; one segmented wrongly makes its step UNSUPPORTED. An
accepted contribution of a reduction joins its segment; the one that completes it sends the segment on to the next stage's host, or at the root of an
ALLREDUCE into the slot that awaits it, with the worst status and, when all are OK, the combined value. One of a FILTER whose step is not complete is
kept, and one of a CUSTOM stage goes to the kernel of its tile. A result from the stage above enters the slot that awaits it; another is discarded.
The deadline of a step that has not begun does nothing; that of a one-segment reduction sends it on with a status other than OK. A GATHER_INDEXED
step whose acquires completed with OK requests every row of a well-formed list; with another status every line of the slot that awaits it carries
that status and the fill is whole; otherwise nothing starts. -/
def Obligations.Contributions : Prop :=
  (∀ (s : State) (p : Packet), 12 ≤ p.status.toNat → exec (.cold p) s = exec (.cold (s.heed p).2) (s.heed p).1 ∧
    (s.heed p).2.status ≠ stOK ∧ (s.heed p).2.status.toNat < 12) ∧
  (∀ (s : State) (p : Packet), p.status.toNat < 12 →
    (s.plan p.job p.flow = none ∨ ∃ q, s.plan p.job p.flow = some q ∧ colResult p = false ∧
      ∀ g a, s.colHeard p q g a = true → g.fits q p = true ∧ colPresent q g a p = true) →
    Runs (.cold p) s (fun t => t.coll = s.coll ∧ Only [.regs, .seqs, .recov, .mgmt] s t)) ∧
  (∀ (s : State) (p : Packet) (q : Plan) (g : Stage) (a : Nat), s.colHeard p q g a = true → g.fits q p = false →
    Runs (.cold p) s (fun t => (t.stageOf p.job p.flow g.number).map (fun h => (h.unsup, h.segments)) = some (insertNew g.unsup a, g.segments) ∧
      OtherPlans s t p.job p.flow ∧ t.coll.slots = s.coll.slots ∧ Only [.seqs, .coll] s t)) ∧
  (∀ (s : State) (p : Packet) (q : Plan) (g : Stage) (a : Nat), s.colTaken p q g a = true → reduces q.kind = true →
    let x := s.merged p q g a
    let st := g.outStatus q a (colOff p) x.worst
    let len := if x.worst == stOK then (x.value q.header true).length else q.segBytes g (colOff p)
    (x.present.length ≠ g.n → Runs (.cold p) s (fun t => (t.stageOf p.job p.flow g.number).map (fun h => h.segment a (colOff p)) = some x ∧
      OtherPlans s t p.job p.flow ∧ t.coll.slots = s.coll.slots ∧ Only [.regs, .seqs, .free, .tiles, .coll] s t)) ∧
    (x.present.length = g.n → g.next ≠ g.number → Runs (.cold p) s (fun t => t.coll.slots = s.coll.slots ∧
      ColdTo t q g a (colOff p) (fun c => c.status = st ∧ (st = stOK → c.payload = x.value q.header false)))) ∧
    (x.present.length = g.n → g.next = g.number → q.kind = 1 → s.awaits q a (hdrResult q.header (colOff p)) = true →
      0 < len → Runs (.cold p) s (fun t => kget (t.rslot (q.slotOf a)).segs (hdrResult q.header (colOff p)) = some len ∧
        ∀ m, m ≠ q.slotOf a → t.rslot m = s.rslot m))) ∧
  (∀ (s : State) (p : Packet) (q : Plan) (g : Stage) (a : Nat), s.colTaken p q g a = true →
    let st := (s.colLand q g p).2
    let x := g.segment a 0
    let nd : Node := { status := st, data := if st == stOK then p.payload else errorBytes p.payload.length }
    let y : Segment := { x with present := x.present ++ [(colIndex p, colOff p)], worst := worse x.worst st, nodes := x.nodes ++ [((colIndex p, colOff p), nd)] }
    (q.kind = 5 → allPieces q g y = false → Runs (.cold p) s (fun t => (t.stageOf p.job p.flow g.number).map (fun h => h.segment a 0) = some y ∧
      OtherPlans s t p.job p.flow ∧ t.coll.slots = s.coll.slots ∧ Only [.regs, .seqs, .tiles, .coll] s t)) ∧
    (∀ b, q.kind = 6 → g.bindOf q p = some b → allPieces q g y = false → Runs (.cold p) s (fun t =>
      t.tiles = (s.arrive b.1 b.2.1 (arrivalOf p) p.payload).tiles ∧ OtherPlans s t p.job p.flow ∧ t.coll.slots = s.coll.slots ∧
      Only [.regs, .seqs, .tiles, .coll] s t))) ∧
  (∀ (s : State) (p : Packet) (q : Plan), s.plan p.job p.flow = some q → colResult p = true → p.status.toNat < 12 →
    let step := s.ringStep q + s.resultAhead q p
    (s.resultOk q p = false → Runs (.cold p) s (fun t => t.coll = s.coll ∧ Only [.regs, .seqs, .recov, .mgmt] s t)) ∧
    (s.resultOk q p = true → s.awaits q step (colOff p) = true → Runs (.cold p) s (fun t =>
      kget (t.rslot (q.slotOf step)).segs (colOff p) = some p.payload.length ∧
      (∀ l, l ∈ linesOf (colOff p) p.payload.length → kget (t.rslot (q.slotOf step)).status l =
        some (worse (kgetD (s.rslot (q.slotOf step)).status l 0) (colStatus p))) ∧
      (∀ m, m ≠ q.slotOf step → t.rslot m = s.rslot m) ∧ t.coll.plans = s.coll.plans))) ∧
  (∀ (s : State) (j k : BitVec 16) (f : BitVec 16) (i : Fin 64),
    (∀ q g a, s.plan j k = some q → q.stage i = some g → g.stepOf f.toNat = some a → kget g.began a = none) →
    Runs (.stepDeadline j k i f) s (fun t => t = s)) ∧
  (∀ (s : State) (j k : BitVec 16) (f : BitVec 16) (i : Fin 64) (q : Plan) (g : Stage) (a : Nat), s.plan j k = some q → q.stage i = some g →
    g.stepOf f.toNat = some a → (kget g.began a).isSome = true → reduces q.kind = true → pieceOffs q.seg q.len = [0] →
    g.emitted.contains (a, 0) = false → g.next ≠ g.number →
    Runs (.stepDeadline j k i f) s (fun t => t.coll.slots = s.coll.slots ∧
      ColdTo t q g a 0 (fun c => c.status ≠ stOK ∧ c.payload = errorBytes (q.segBytes g 0)))) ∧
  (∀ (s : State) (j k : BitVec 16) (q : Plan) (g : Stage), s.gatherMay j k q g stOK = true → 0 < hdr q.header 7 63 48 →
    (List.range (hdr q.header 7 63 48)).all (s.gatherFits q g) = true →
    Runs (.gatherStepStart j k false) s (fun t => (∀ i, i < hdr q.header 7 63 48 → ∃ c, c ∈ t.out ∧ (c.opcode.toNat = opRDN ∨ c.opcode.toNat = opRDU) ∧
      c.gfa = BitVec.ofNat 56 (s.gatherEntry q g i).1 ∧ c.len = rowBytes (s.gatherEntry q g i).1 ∧ c.job = q.job) ∧
      t.out.length = s.out.length + hdr q.header 7 63 48 ∧ OtherPlans s t j k ∧ t.coll.slots = s.coll.slots ∧ t.mem = s.mem)) ∧
  (∀ (s : State) (j k : BitVec 16) (q : Plan) (g : Stage) (st : Status), s.gatherMay j k q g st = true → st ≠ stOK → s.awaits q g.current 0 = true →
    (s.rslot (q.slotOf g.current)).segs = [] → (s.rslot (q.slotOf g.current)).status = [] → 0 < hdrSlotLines q.header →
    Runs (.gatherStepStart j k true) s (fun t => (t.rslot (q.slotOf g.current)).full = true ∧
      (∀ l, l < hdrSlotLines q.header → kget (t.rslot (q.slotOf g.current)).status l = some st) ∧
      (∀ m, m ≠ q.slotOf g.current → t.rslot m = s.rslot m))) ∧
  (∀ (s : State) (j k : BitVec 16) (late : Bool), (∀ q g st, s.gatherMay j k q g st = true → (st = stOK ↔ late = true)) →
    Runs (.gatherStepStart j k late) s (fun t => t = s))

namespace Sys2Proof.Machine

/-- The worst status of a READY slot's lines that a read takes, and of the bytes read (R272). -/
def State.slotStatus (s : State) (sl o : Nat) (p : Packet) : Status :=
  let st := (linesOf o p.len).foldl (fun a l => worse a (kgetD (s.rslot sl).status l 0)) stOK
  if s.anyPoison ((s.rslot sl).base + o) p.len then worse st stPoison else st

/-- The read is answered with the slot's data and the worst status of its lines; the error value stands for the data of another status than OK. -/
def SlotRead (s t : State) (sl o : Nat) (p : Packet) : Prop :=
  Answered s t p (s.slotStatus sl o p) ∧
  (s.slotStatus sl o p = stOK → t.out.getLast?.map Packet.payload = some (s.readSpan ((s.rslot sl).base + o) p.len))

/-- A read of a slot through its view: one of another view completes with ACCESS_FAULT, one that fails the slot's checks with their status (of a LOST
slot of the reader's parcel, LOST_STATE). -/
def SlotDoor (cmd : Packet → Instr) (view : Nat) : Prop :=
  ∀ (s : State) (p : Packet),
    ((∀ sl o, slotPlace p ≠ some (view, sl, o)) → Runs (cmd p) s (fun t => Answered s t p stAccessFault ∧ Only [.regs, .out] s t)) ∧
    (∀ sl o, slotPlace p = some (view, sl, o) → s.slotCheck sl o p ≠ stOK →
      Runs (cmd p) s (fun t => Answered s t p (s.slotCheck sl o p) ∧ Only [.regs, .out] s t)) ∧
    (∀ sl o, slotPlace p = some (view, sl, o) → (s.rslot sl).state = .lost → s.binds (s.rslot sl).parcel p.job.toNat = true →
      Runs (cmd p) s (fun t => Answered s t p stLostState ∧ Only [.regs, .out] s t))

end Sys2Proof.Machine

/-- A filled and settled ARMED slot of a plan that is not twinned becomes READY, and its stake, when not lost, gains 1; any other stays. A plain, wait
or consume read that fails the slot's checks completes with their status, and of a LOST slot with LOST_STATE. A read of a READY slot returns its data
with the worst status of its lines; a plain or a consume read of an ARMED one completes with NOT_READY, and a wait read of it waits: it is served
once the slot is READY, stays while it is ARMED, or times out. A consume read counts its pages; the one after which every page is counted out re-arms
the slot for its next fill, or frees it when its plan has stopped. Results held for the fill that an ARMED slot awaits are released, and written
when the plan is not twinned; for another slot nothing is. -/
def Obligations.ResultSlots : Prop :=
  (∀ (s : State) (i : Fin 4096), (s.rslot i).state = .armed → (s.rslot i).filled = true → s.slotSettled i = true →
    (s.twinOp 1 (s.slotOpref (s.rslot i)) (some (s.rslot i).job)) = none → (s.stake (s.rslot i).stake).lost = false →
    Runs (.slotFillDone i) s (fun t => t.rslot i = { s.rslot i with state := .ready } ∧ (∀ k, k ≠ i.val → t.rslot k = s.rslot k) ∧
      (t.stake (s.rslot i).stake).value = (s.stake (s.rslot i).stake).value + 1 ∧ (∀ k, k ≠ (s.rslot i).stake → t.stake k = s.stake k) ∧
      Only [.regs, .seqs, .stk, .coll, .out] s t)) ∧
  (∀ (s : State) (i : Fin 4096), ((s.rslot i).state ≠ .armed ∨ (s.rslot i).filled = false ∨ s.slotSettled i = false) →
    Runs (.slotFillDone i) s (fun t => t = s)) ∧
  SlotDoor .slotPlainRead 0 ∧ SlotDoor .slotWaitRead 1 ∧ SlotDoor .slotConsumeRead 2 ∧
  (∀ (s : State) (p : Packet) (sl o : Nat), slotPlace p = some (0, sl, o) → s.slotCheck sl o p = stOK →
    ((s.rslot sl).state = .ready → Runs (.slotPlainRead p) s (fun t => SlotRead s t sl o p ∧ Only [.regs, .out] s t)) ∧
    ((s.rslot sl).state = .armed → Runs (.slotPlainRead p) s (fun t => Answered s t p stNotReady ∧ Only [.regs, .out] s t))) ∧
  (∀ (s : State) (p : Packet) (sl o : Nat), slotPlace p = some (1, sl, o) → s.slotCheck sl o p = stOK →
    ((s.rslot sl).state = .ready → Runs (.slotWaitRead p) s (fun t => SlotRead s t sl o p ∧ Only [.regs, .out] s t)) ∧
    ((s.rslot sl).state = .armed → Runs (.slotWaitRead p) s (fun t => t.coll = { s.coll with waits := s.coll.waits ++ [p] } ∧ Only [.coll] s t))) ∧
  (∀ (s : State) (k : Nat) (p : Packet) (sl o : Nat), s.coll.waits[k]? = some p → slotPlace p = some (1, sl, o) → s.slotCheck sl o p = stOK →
    ((s.rslot sl).state = .ready → Runs (.slotWaitReadServed k) s (fun t => t.coll = { s.coll with waits := s.coll.waits.eraseIdx k } ∧
      SlotRead s t sl o p ∧ Only [.regs, .coll, .out] s t)) ∧
    ((s.rslot sl).state = .armed → Runs (.slotWaitReadServed k) s (fun t => t = s))) ∧
  (∀ (s : State) (k : Nat) (p : Packet), s.coll.waits[k]? = some p →
    Runs (.slotWaitReadTimeout k) s (fun t => t.coll = { s.coll with waits := s.coll.waits.eraseIdx k } ∧ Answered s t p stTimeout ∧
      Only [.regs, .coll, .out] s t)) ∧
  (∀ (s : State) (p : Packet) (sl o : Nat), slotPlace p = some (2, sl, o) → s.slotCheck sl o p = stOK →
    let y := (s.rslot sl).consume o p.len
    ((s.rslot sl).state = .armed → Runs (.slotConsumeRead p) s (fun t => Answered s t p stNotReady ∧ Only [.regs, .out] s t)) ∧
    ((s.rslot sl).state = .ready → Runs (.slotConsumeRead p) s (fun t => SlotRead s t sl o p ∧ (∀ k, k ≠ sl → t.rslot k = s.rslot k) ∧
      Only [.regs, .coll, .out] s t ∧ t.rslot sl = if y.consumed = false then y else if y.stopped then {}
        else { y with state := .armed, fill := y.fill + 1, status := [], segs := [], full := false, counts := [] }))) ∧
  (∀ (s : State) (i : Fin 4096),
    ((s.rslot i).state = .armed → Runs (.resultHoldRelease i) s (fun t =>
      t.coll.held = s.coll.held.filter (fun h => !(h.slot == i.val && h.fill == (s.rslot i).fill)) ∧ t.coll.plans = s.coll.plans ∧
      Only [.free, .mem, .coll, .recov, .out] s t)) ∧
    ((s.rslot i).state ≠ .armed → Runs (.resultHoldRelease i) s (fun t => t = s))) ∧
  (∀ (s : State) (i : Fin 4096) (h : HeldResult), (s.rslot i).state = .armed → s.coll.held = [h] → h.slot = i.val → h.fill = (s.rslot i).fill →
    h.data.length = 128 → h.off % 128 = 0 → s.twinOp 1 (s.slotOpref (s.rslot i)) (some (s.rslot i).job) = none →
    Runs (.resultHoldRelease i) s (fun t => kget (t.rslot i).segs h.off = some 128 ∧
      kget (t.rslot i).status (h.off / 128) = some (worse (kgetD (s.rslot i).status (h.off / 128) 0) h.status) ∧ t.coll.held = []))

namespace Sys2Proof.Machine

/-- The command that a PNM doorbell write of a job of parcel `n` queues at a module (R289). -/
def pnmCmdOf (q : PnmQueue) (op n : Nat) (p : Packet) : PnmCmd :=
  { id := BitVec.ofNat 16 q.nextId, parcel := n, desc := descOf (withOp op p), req := withOp op p }

/-- A PNM doorbell write passes the door's checks, for a job of parcel `n`, and no earlier one of its job is held (R156, R289). -/
def State.pnmOpen (s : State) (op n : Nat) (p : Packet) : Bool :=
  s.engineDoor (withOp op p) == stOK && s.parcelOf p.job.toNat == some n && !s.doorWaits 3 p

/-- A PNM doorbell write that the door's checks refuse completes with their status. One that finds an earlier one of its job held, or the queue of
its module full, is held. Otherwise it completes with OK: its command takes the last place of the queue of the module of D, or, where D names no
module that takes commands, ends with ACCESS_FAULT and DETAIL 8, with a record. -/
def PnmDoor (cmd : Packet → Instr) (op : Nat) : Prop :=
  ∀ (s : State) (p : Packet),
    (s.engineDoor (withOp op p) ≠ stOK → Runs (cmd p) s (fun t => Answered s t p (s.engineDoor (withOp op p)) ∧ Only [.regs, .seqs, .out] s t ∧
      OnlyPages [pgMtr] s t)) ∧
    (∀ n, s.engineDoor (withOp op p) = stOK → s.parcelOf p.job.toNat = some n → (s.doorWaits 3 p = true ∨ s.pnmRoom (withOp op p) = false) →
      Runs (cmd p) s (fun t => t.tier = { s.tier with held := s.tier.held ++ [{ door := 3, req := withOp op p }] } ∧ Only [.seqs, .tier] s t)) ∧
    (∀ n m, s.pnmOpen op n p = true → s.pnmModule (descOf (withOp op p)) = some m → (s.pnmQ m).queue.length < 64 →
      Runs (cmd p) s (fun t =>
        t.pnmQ m = { s.pnmQ m with nextId := (s.pnmQ m).nextId + 1, queue := (s.pnmQ m).queue ++ [pnmCmdOf (s.pnmQ m) op n p] } ∧
        (∀ k, k ≠ m → t.pnmQ k = s.pnmQ k) ∧ Answered s t p stOK ∧ Only [.regs, .seqs, .pnm, .out] s t ∧ OnlyPages [pgMtr] s t)) ∧
    (∀ n, s.pnmOpen op n p = true → s.pnmModule (descOf (withOp op p)) = none →
      let c := { pnmCmdOf (s.pnmQ 64) op n p with status := stAccessFault, detail := 8 }
      Runs (cmd p) s (fun t => (t.pnmQ 64).ending = (s.pnmQ 64).ending ++ [c] ∧ (∀ k, k ≠ 64 → t.pnmQ k = s.pnmQ k) ∧
        (∃ a w, t.out = s.out ++ [a, w] ∧ a.opcode = 0x30 ∧ a.tid = p.tid ∧ a.status = stOK ∧ w.opcode.toNat = opWRN ∧
          w.gfa = BitVec.ofNat 56 c.rec' ∧ w.len = 16) ∧ Only [.regs, .seqs, .pnm, .recov, .out] s t))

/-- The first queued command of a module may be accepted: its banks are free, the module is not on hold and has fewer than 8 active (R291). -/
def State.pnmTurn (s : State) (m : Nat) (c : PnmCmd) : Bool :=
  let q := s.pnmQ m
  pnmNext (q.active.flatMap PnmCmd.banks) q.queue [] == some c && decide (q.active.length < 8) &&
  !(match s.slotPort m with
    | some p => s.bit (rModPnmCtl p) 1
    | none => false)

/-- Sources whose results need no earlier ones: A and B each equal D or lie apart from it, in whole lines of a type the units take (R287). -/
def PnmCmd.aside (c : PnmCmd) : Bool :=
  let d := pnmD c.desc
  let f (a : Nat) : Bool := a == d || !overlaps a c.len d c.len
  f (pnmA c.desc) && (c.isAct || f (pnmB c.desc)) && d % 128 == 0 && c.len % 128 == 0 && (c.dt == 0 || c.dt == 1 || c.dt == 2 || c.dt == 8)

/-- An operand line of result line `j` is poisoned (R298). -/
def State.pnmPoison (s : State) (c : PnmCmd) (j : Nat) : Bool :=
  s.poisoned (pnmA c.desc + 128 * j) || (!c.isAct && s.poisoned (pnmB c.desc + 128 * j))

/-- The active command that waits for dispatch at a module under a number. -/
def State.pnmWaiting (s : State) (m i : Nat) : Option PnmCmd := (s.pnmQ m).active.find? (fun c => c.id.toNat == i && !c.dispatched)

/-- Of the commands of a module, one has ended with a status and a detail: it waits for its record, which was sent, and is neither queued nor
active; nothing changed in memory or in another module (R291 step 7). -/
def PnmEnded (s t : State) (m : Nat) (c : PnmCmd) (st : Status) (detail : Nat) : Prop :=
  (t.pnmQ m).ending = (s.pnmQ m).ending ++ [{ c with status := st, detail := detail }] ∧
  (t.pnmQ m).queue = (s.pnmQ m).queue.filter (fun d => d.id != c.id) ∧ (t.pnmQ m).active = (s.pnmQ m).active.filter (fun d => d.id != c.id) ∧
  (∀ k, k ≠ m → t.pnmQ k = s.pnmQ k) ∧ t.mem = s.mem ∧
  Sent s t (fun w => w.opcode.toNat = opWRN ∧ w.gfa = BitVec.ofNat 56 c.rec' ∧ w.len = 16 ∧ w.agent = agPnmEngine ∧ w.job = c.req.job)

/-- What goes to the module when a command is dispatched: the table of an ACT, then the command (R293). -/
def pnmSends (c : PnmCmd) : List (Nat × List Byte) := (if c.isAct then [(opPNT, c.table.getD [])] else []) ++ [(opPNC, c.pnc)]

end Sys2Proof.Machine

/-- ADD, MUL, FMA and ACT at the PNM doorbell: a write that the door's checks refuse completes with their status; one with an earlier one of its job
held, or with its module's queue full, is held; else it completes with OK, and its command is queued at the module of D, or ends with ACCESS_FAULT
and DETAIL 8 where D names no module that takes commands. Acceptance does nothing while no queued command may be accepted. The first that may be
fails with the status and DETAIL of its check, with a record and no effect on memory; or it becomes active, its preparation starts, and an ACT's
table is read; with no coherent range and no cached page, memory and directory stay. Dispatch of no waiting command does nothing; of one not
prepared it goes on with the preparation. An ACT whose table was not read ends with the read's status, one with an invalid table with UNSUPPORTED
and DETAIL 5. Any other prepared command of operands apart from D goes to the module, after an ACT's table, and leaves in D, line by line, the
operation's results, poisoned where an operand line was, and changes no other byte. The module's answer to a dispatched command ends it with POISON
and DETAIL 10 where it says POISON, with its record, if no request is held; an answer to no such command does nothing. -/
def Obligations.PnmCommands : Prop :=
  PnmDoor .pnmAdd 1 ∧ PnmDoor .pnmMul 2 ∧ PnmDoor .pnmFma 3 ∧ PnmDoor .pnmAct 4 ∧
  (∀ (s : State) (m : SlotIx), (∀ c, s.pnmTurn m c = false) → Runs (.pnmAcceptance m) s (fun t => t = s)) ∧
  (∀ (s : State) (m : SlotIx) (c : PnmCmd), s.pnmTurn m c = true → (s.pnmCheck m c).1 ≠ stOK →
    Runs (.pnmAcceptance m) s (fun t => PnmEnded s t m c (s.pnmCheck m c).1 (s.pnmCheck m c).2 ∧ Only [.regs, .seqs, .pnm, .recov, .out] s t)) ∧
  (∀ (s : State) (m : SlotIx) (c : PnmCmd), s.pnmTurn m c = true → (s.pnmCheck m c).1 = stOK →
    Runs (.pnmAcceptance m) s (fun t => (t.pnmQ m).queue = (s.pnmQ m).queue.filter (fun d => d.id != c.id) ∧
      (t.pnmQ m).active.map (fun d => (d.id, d.desc, d.dispatched)) =
        (s.pnmQ m).active.map (fun d => (d.id, d.desc, d.dispatched)) ++ [(c.id, c.desc, c.dispatched)] ∧
      (c.isAct = true → t.out.getLast?.map (fun w => (w.opcode.toNat, w.gfa, w.len)) = some (opRDN, BitVec.ofNat 56 c.tableGfa, 0x1000)) ∧
      (s.pnmFrames c = [] → c.gfas.all (fun r => !s.pnmCoh r) = true → t.mem = s.mem ∧ t.cad = s.cad ∧ (c.isAct = false → t.out = s.out)))) ∧
  (∀ (s : State) (m : SlotIx) (i : BitVec 16), (s.pnmWaiting m i.toNat = none ∨ s.modPort m = none) → Runs (.pnmDispatch m i) s (fun t => t = s)) ∧
  (∀ (s : State) (m : SlotIx) (i : BitVec 16) (c : PnmCmd) (p : Nat), s.pnmWaiting m i.toNat = some c → s.modPort m = some p →
    let n := s.homeRegion (slotBase m)
    (s.pnmPrepared n c = false → Runs (.pnmDispatch m i) s (fun t => (t.pnmQ m).queue = (s.pnmQ m).queue ∧
      (t.pnmQ m).active.map (fun d => (d.id, d.desc, d.dispatched)) = (s.pnmQ m).active.map (fun d => (d.id, d.desc, d.dispatched)))) ∧
    (s.pnmPrepared n c = true → c.isAct = true → c.detail = 11 → (s.cadSlice n).holdQ = [] →
      Runs (.pnmDispatch m i) s (fun t => PnmEnded s t m c c.status 11)) ∧
    (s.pnmPrepared n c = true → c.isAct = true → c.detail ≠ 11 → actValid (c.table.getD []) = false → (s.cadSlice n).holdQ = [] →
      Runs (.pnmDispatch m i) s (fun t => PnmEnded s t m c stUnsupported 5)) ∧
    (s.pnmPrepared n c = true → (c.isAct = false ∨ (c.detail ≠ 11 ∧ actValid (c.table.getD []) = true)) → c.aside = true →
      Memory.wf s.mem.cells = true →
      Runs (.pnmDispatch m i) s (fun t =>
        (∀ j, j < c.len / 128 → memRead t.mem.cells (pnmD c.desc + 128 * j) 128 =
            (c.line (memRead s.mem.cells (pnmA c.desc + 128 * j) 128) (if c.isAct then [] else memRead s.mem.cells (pnmB c.desc + 128 * j) 128)).1 ∧
          t.marked (pnmD c.desc / 128 + j) = s.pnmPoison c j) ∧
        OnlyBytes (pnmD c.desc) c.len s t ∧ (t.pnmQ m).queue = (s.pnmQ m).queue ∧
        (t.pnmQ m).active.map (fun d => (d.id, d.dispatched)) = (s.pnmQ m).active.map (fun d => (d.id, d.dispatched || d.id == c.id)) ∧
        ∃ ws, t.out = s.out ++ ws ∧ ws.map (fun w => (w.opcode.toNat, w.payload)) = pnmSends c ∧
          ∀ w, w ∈ ws → w.dst = BitVec.ofNat 17 (s.ix * 128 + p) ∧ w.tid = c.id))) ∧
  (∀ (s : State) (p : Packet), let m := p.agent.toNat % 64
    let w := wordAt p.payload 0
    let mine := (s.pnmQ m).active.find? (fun c => c.id.toNat == nbits w 15 0 && c.dispatched)
    (mine = none → Runs (.pna p) s (fun t => t = s)) ∧
    (∀ c, mine = some c → (s.cadSlice (s.homeRegion (slotBase m))).holdQ = [] → Runs (.pna p) s (fun t =>
      let poi := nbits w 19 16 == stPoison.toNat
      PnmEnded s t m { c with num := nbits w 23 20, poisoned := nbits w 63 32 } (statusMin c.status (if poi then stPoison else stOK))
        (if c.status == stOK && poi then 10 else c.detail))))

namespace Sys2Proof.Machine

/-- The GRID port whose far end a loss report names (R363). -/
def State.lsrPort (s : State) (q : Packet) : Option Nat :=
  (List.range 128).find? (fun p => match (s.link p).far with
      | some f => f.gref.toNat == q.src.toNat * 128 + wordAt q.payload 0 % 128 && s.portRole p == roleGrid
      | none => false)

/-- A write request that was lost with a link is answered with LOST_STATE (R363). -/
abbrev LostAnswered (t : State) (q : Packet) : Prop :=
  q.cls = 0 → writesOp q.opcode.toNat = true → ∃ c, c ∈ t.out ∧ c.opcode.toNat = opCMP ∧ c.tid = q.tid ∧ c.agent = q.agent ∧ c.status = stLostState

/-- A port left service with a cause: it levels again, or is FAILED with EN at 0, and its link keys are no longer in force (R362). -/
def WentDown (s t : State) (p c : Nat) : Prop :=
  t.portState p = (if s.bit (rPortCtl p) 0 then 1 else 4) ∧ t.fld (rPortStat p) 15 8 = c ∧ t.bit (rPortKey p) 0 = false

end Sys2Proof.Machine

/-- A port that is DOWN or FAILED is not affected. A port in service goes down with its cause: with EN at 1 it starts to level again, with EN at 0 it is
FAILED. A MODULE port's slot is then unavailable, lost if it was available, and its keys are gone; an ETH port's link is down, and no other link, no
memory and no packet sent changes; a GRID port keeps its unproven packets and reports to its far end; the agent of an ACCEL port, not swept yet, is
declared dead by every slice. A levelling that fails with EN at 1 counts, and with LVL_RETRY of them the port, unless it is the Filard Link, is
FAILED; with EN at 0 it is FAILED at once. An UP port, not ETH, that accepts no frame, and the port of a module that does not answer a dispatched
command, go down so, with cause 0x0C; otherwise both events do nothing. A loss report that names a port answers each lost write of a frame after the
last accepted one with LOST_STATE, its timeout answers each lost write so, and the port then has no unproven packet; one that names none does
nothing. -/
def Obligations.PortsGoDown : Prop :=
  (∀ (s : State) (p : LinkIx) (c : BitVec 8), (s.portState p = 0 ∨ s.portState p = 4) → Runs (.portDown p c) s (fun t => t = s)) ∧
  (∀ (s : State) (p : LinkIx) (c : BitVec 8), s.portUp p = true → Runs (.portDown p c) s (fun t => WentDown s t p c.toNat)) ∧
  (∀ (s : State) (p : LinkIx) (c : BitVec 8), s.portUp p = true → s.portRole p = roleModule → Runs (.portDown p c) s (fun t =>
    let m := s.fld (rPortRole p) 13 8
    t.slotAvail m = false ∧ (s.slotAvail m = true → t.slotLost m = true) ∧ t.bit (rModKeyStat p) 0 = false)) ∧
  (∀ (s : State) (p : LinkIx) (c : BitVec 8), s.portUp p = true → s.portRole p = roleEth → Runs (.portDown p c) s (fun t =>
    (t.link p).ethUp = false ∧ (∀ k, k ≠ p.val → t.link k = s.link k) ∧ t.mem = s.mem ∧ t.out = s.out)) ∧
  (∀ (s : State) (p : LinkIx) (c : BitVec 8), s.portUp p = true → s.portRole p = roleGrid → Runs (.portDown p c) s (fun t =>
    (t.link p).unproven = (s.link p).unproven ++ s.unprovenAt p ∧
    (∀ f, (s.link p).far = some f → ∃ w, w ∈ t.out ∧ w.opcode.toNat = opLSR ∧ w.dst / 128 = f.gref / 128 ∧
      w.payload = leBytes 8 p.val ++ leBytes 8 (((s.link p).accepted + 2 ^ 64 - 1) % 2 ^ 64)))) ∧
  (∀ (s : State) (p : LinkIx) (c : BitVec 8) (a : Nat), s.portUp p = true → s.portRole p = roleAccel → s.agentOfPort p = some a → a < 32 →
    (s.cadSlice (p.val / 32)).sweeping.contains a = false → Runs (.portDown p c) s (fun t =>
      ∀ n, n < 4 → (t.cadSlice n).sweeping.contains a = true ∧ t.bit (rCadDead n) a = true)) ∧
  (∀ (s : State) (p : LinkIx) (c : BitVec 8), s.portUp p = false → s.portState p ≠ 0 → s.portState p ≠ 4 → Runs (.portDown p c) s (fun t =>
    let n := min 255 (s.fld (rPortStat p) 23 16 + 1)
    t.fld (rPortStat p) 15 8 = c.toNat ∧ t.mem = s.mem ∧ t.out = s.out ∧
    (s.bit (rPortCtl p) 0 = true → t.fld (rPortStat p) 23 16 = n ∧
      t.portState p = (if s.fld (rPortCtl p) 7 4 ≤ n ∧ p.val ≠ filardLink then 4 else 0)) ∧
    (s.bit (rPortCtl p) 0 = false → t.portState p = 4))) ∧
  (∀ (s : State) (p : LinkIx),
    (s.portState p = 2 → s.portRole p ≠ roleEth → Runs (.linkIdleTimeout p) s (fun t => exec (.portDown p 0x0C) s = .next t)) ∧
    ((s.portState p ≠ 2 ∨ s.portRole p = roleEth) → Runs (.linkIdleTimeout p) s (fun t => t = s))) ∧
  (∀ (s : State) (m : SlotIx) (i : BitVec 16), let waits := (s.pnmQ m).active.any (fun c => c.id.toNat == i.toNat && c.dispatched)
    (∀ p : LinkIx, waits = true → s.modPort m = some p.val → Runs (.pnaTimeout m i) s (fun t => exec (.portDown p 0x0C) s = .next t)) ∧
    ((waits = false ∨ s.modPort m = none) → Runs (.pnaTimeout m i) s (fun t => t = s))) ∧
  (∀ (s : State) (q : Packet),
    (∀ p, s.lsrPort q = some p → Runs (.lsr q) s (fun t => (t.link p).unproven = [] ∧ (∀ k, k ≠ p → t.link k = s.link k) ∧ t.mem = s.mem ∧
      ∀ e, e ∈ (s.link p).unproven → (wordAt q.payload 1 + 1) % 2 ^ 64 ≤ e.1 → LostAnswered t e.2)) ∧
    (s.lsrPort q = none → Runs (.lsr q) s (fun t => t = s))) ∧
  (∀ (s : State) (p : PortIx), Runs (.unprovenLossTimeout p) s (fun t =>
    (t.link p).unproven = [] ∧ (∀ k, k ≠ p.val → t.link k = s.link k) ∧ t.mem = s.mem ∧ ∀ e, e ∈ (s.link p).unproven → LostAnswered t e.2))

namespace Sys2Proof.Machine

/-- GO with an OP reaches the security module: it is neither busy, in error, restarting, nor is the store that the OP needs in progress (R477–R481). -/
def State.secOpen (s : State) (op : Nat) : Bool :=
  !s.bit rSecStat 3 && !s.bit rSecStat 6 && s.recov.restarting.isEmpty && !(needsStore op && s.storeBusy)

/-- SEC_CMD shows the end of its command: STATUS, DETAIL, DONE, and BUSY clear. -/
abbrev State.secResult (s : State) (st : Status) (detail : Nat) : Prop :=
  s.fld rSecCmd 11 8 = st.toNat ∧ s.fld rSecCmd 23 16 = detail ∧ s.bit rSecCmd 62 = true ∧ s.bit rSecStat 3 = false

/-- A security command ended with a status and a detail, and with no effect. -/
def SecRefused (s t : State) (st : Status) (detail : Nat) : Prop :=
  t.secResult st detail ∧ t.sec.life = s.sec.life ∧ t.sec.output = s.sec.output ∧ t.sec.mr = s.sec.mr ∧ Only [.regs, .seqs, .sec, .nonce] s t

/-- What GO does when it does not reach the module: while BUSY nothing but its place in the page's order; while firmware restarts it stays BUSY and
waits; after a failed self-test a REPORT ends with FATAL and any other OP does not (R466, R478, R481). -/
def SecWaits (cmd : SecBlock → Instr) (op : Nat) : Prop :=
  ∀ (s : State) (b : SecBlock),
    (s.bit rSecStat 3 = true → Runs (cmd b) s (fun t => Only [.seqs] s t)) ∧
    (s.bit rSecStat 3 = false → s.recov.restarting ≠ [] → Runs (cmd b) s (fun t =>
      t.recov = { s.recov with waiting := s.recov.waiting ++ [.security op b] } ∧ t.bit rSecStat 3 = true ∧ Only [.regs, .seqs, .recov] s t)) ∧
    (s.bit rSecStat 3 = false → s.recov.restarting = [] → s.bit rSecStat 6 = true → Runs (cmd b) s (fun t =>
      (if op = 5 then t.secResult stFatal 0 else t.bit rSecCmd 62 = false ∧ t.bit rSecStat 3 = false) ∧ Only [.regs, .seqs] s t))

/-- What GO of an OP that needs a store does behind one that runs: it stays BUSY and is held (R512). -/
def SecHeld (cmd : SecBlock → Instr) (op : Nat) : Prop :=
  ∀ (s : State) (b : SecBlock), s.bit rSecStat 3 = false → s.recov.restarting = [] → s.bit rSecStat 6 = false → s.storeBusy = true →
    Runs (cmd b) s (fun t => t.sec = { s.sec with held := some (op, b) } ∧ t.bit rSecStat 3 = true ∧ Only [.regs, .seqs, .sec] s t)

/-- A signed command that reaches the module ends with UNSUPPORTED and DETAIL 1 for a reserved byte or a TARGET its OP does not permit, with
ACCESS_FAULT and DETAIL 2 where the lifecycle does not permit it, with ACCESS_FAULT and DETAIL 3 where the owner's key did not sign it, with STALE
and DETAIL 4 where its nonce is not the current one; else its effect takes place (R479). -/
def SignedDoor (cmd : SecBlock → Instr) (op : Nat) (effect : State → SecBlock → State → Prop) : Prop :=
  ∀ (s : State) (b : SecBlock), s.secOpen op = true →
    let formed := !b.reservedSet && s.targetOk op b.target.toNat
    (formed = false → Runs (cmd b) s (fun t => SecRefused s t stUnsupported 1)) ∧
    (formed = true → s.secPermits op = false → Runs (cmd b) s (fun t => SecRefused s t stAccessFault 2)) ∧
    (formed = true → s.secPermits op = true → s.sec.life.owner = none → Runs (cmd b) s (fun t => SecRefused s t stAccessFault 3)) ∧
    (∀ h, formed = true → s.secPermits op = true → s.sec.life.owner = some h → Runs (cmd b) s (fun t =>
      if Config.ownerSigned h (signedBytes b op) b.signature = false then SecRefused s t stAccessFault 3
      else if b.nonce ≠ s.nonce then SecRefused s t stStale 4 else effect s b t))

/-- A clearance has begun: CLEARING, its parameters kept, the on-die stores and the object table empty (R491); with fewer than three stores left it
is refused with QUOTA (R512). -/
def ClearingTo (op : Nat) (target : SecBlock → Nat) (tenant : SecBlock → BitVec 128) (s : State) (b : SecBlock) (t : State) : Prop :=
  if s.storesLeft < 3 then SecRefused s t stQuota 3
  else t.bit rSecStat 4 = true ∧ t.bit rSecStat 3 = true ∧ t.sec.life = { s.sec.life with clearing := true, mediaKey := t.sec.life.mediaKey } ∧
    t.sec.clearance.map (fun c => (c.op, c.target, c.tenant, c.vnonce, c.ended)) = some (op, target b, tenant b, b.vnonce, none) ∧
    t.tiles = [] ∧ t.stk = {} ∧ t.extents = [] ∧ t.cad = [] ∧ t.tlc = [] ∧ t.tier.objs = [] ∧ t.sec.debug = false

/-- The owner's key is recorded, in the security module and in a store of the lifecycle record; with no store left the command is refused. -/
def OwnerRecorded (s : State) (b : SecBlock) (t : State) : Prop :=
  if s.storesLeft = 0 then SecRefused s t stQuota 3
  else t.sec.life = { s.sec.life with owner := some (Config.sha3 (slice b.ownerPk 0 1312)) } ∧ t.secResult stOK 0 ∧ t.boot.active.life = t.sec.life ∧
    t.boot.active.gen = s.boot.active.gen + 1 ∧ t.boot.activeB = !s.boot.activeB ∧ Only [.regs, .seqs, .sec, .nonce, .boot] s t

end Sys2Proof.Machine

/-- GO of each OP waits or is ignored as SecWaits says, and of one that needs a store is held as SecHeld says. One that reaches the module and that the lifecycle does not permit ends with
ACCESS_FAULT and DETAIL 2. CLAIM, and NEW_OWNER signed by the owner's key with the current nonce, record the digest of the owner's key, or end with
QUOTA when no store is left. CLEAR, DEBUG and DECOMMISSION signed so begin the clearance to their target, or end with QUOTA when fewer than three
stores are left. A signed command that fails a check ends with that check's status and DETAIL, and has no effect. REPORT writes a signed report,
CERTS both certificates, EXTEND extends MR7 alone. -/
def Obligations.SecurityCommands : Prop :=
  SecWaits .claim 1 ∧ SecWaits .clear 2 ∧ SecWaits .debugCmd 3 ∧ SecWaits .decommission 4 ∧ SecWaits .report 5 ∧ SecWaits .certs 6 ∧
  SecWaits .extend 7 ∧ SecWaits .newOwner 8 ∧
  SecHeld .claim 1 ∧ SecHeld .clear 2 ∧ SecHeld .debugCmd 3 ∧ SecHeld .decommission 4 ∧ SecHeld .newOwner 8 ∧
  SignedDoor .clear 2 (ClearingTo 2 (fun b => b.target.toNat) (fun b => b.tenant)) ∧ SignedDoor .debugCmd 3 (ClearingTo 3 (fun _ => 4) (fun _ => 0)) ∧
  SignedDoor .decommission 4 (ClearingTo 4 (fun _ => 5) (fun _ => 0)) ∧ SignedDoor .newOwner 8 OwnerRecorded ∧
  (∀ (s : State) (b : SecBlock),
    (s.secOpen 1 = true → s.secPermits 1 = true → Runs (.claim b) s (fun t => OwnerRecorded s b t)) ∧
    (s.secOpen 1 = true → s.secPermits 1 = false → Runs (.claim b) s (fun t => SecRefused s t stAccessFault 2)) ∧
    (s.secOpen 5 = true → s.secPermits 5 = false → Runs (.report b) s (fun t => SecRefused s t stAccessFault 2)) ∧
    (s.secOpen 6 = true → s.secPermits 6 = false → Runs (.certs b) s (fun t => SecRefused s t stAccessFault 2)) ∧
    (s.secOpen 7 = true → s.secPermits 7 = false → Runs (.extend b) s (fun t => SecRefused s t stAccessFault 2)) ∧
    (s.secOpen 5 = true → s.secPermits 5 = true → Runs (.report b) s (fun t => t.secResult stOK 0 ∧ t.sec.life = s.sec.life ∧
      t.sec.output = s.reportBody 1 b.vnonce [] [] 0 0 ++ slice (Config.mlDsaSign s.sec.cdi (s.reportBody 1 b.vnonce [] [] 0 0)) 0 2420 ∧
      Only [.regs, .seqs, .sec] s t)) ∧
    (s.secOpen 6 = true → s.secPermits 6 = true → Runs (.certs b) s (fun t => t.secResult stOK 0 ∧
      (let c (i : Nat) := Config.certificate i s.sec.cdi
       t.sec = { s.sec with output := leBytes 4 (c 0).length ++ c 0 ++ leBytes 4 (c 1).length ++ c 1 }) ∧ Only [.regs, .seqs, .sec] s t)) ∧
    (s.secOpen 7 = true → s.secPermits 7 = true → Runs (.extend b) s (fun t => t.secResult stOK 0 ∧
      t.measured 7 = Config.sha3 (leBytes 32 (s.measured 7).toNat ++ leBytes 32 b.arg.toNat) ∧
      (∀ k, k < 7 → t.measured k = s.measured k) ∧ t.sec.life = s.sec.life ∧ Only [.regs, .seqs, .sec] s t)))

/-- The module that initialises at an UP MODULE port is keyed and its slot available; where a clearance waits for that port, it goes down with cause
0x0D. At a port with no UP module, or whose module does not initialise, the event does nothing. Once its modules are done, and no store is in progress, the end of its items ends a clearance: it
leaves its target state, or PROVISIONED with FATAL when item 4 failed, and T0 reads as zero; behind a store it waits, and with no clearance to end it
does nothing. A failed health test sets ERROR and ends every key establishment in progress. JTAG serves IDCODE and BYPASS always, boundary scan in
reset-hold and with debug access, full scan only with debug access. -/
def Obligations.SecurityEvents : Prop :=
  (∀ (s : State) (p : PortIx), let m := s.fld (rPortRole p) 13 8
    let here := s.portRole p == roleModule && s.portUp p && s.bit (rModKeyStat p) 1
    (here = true → (∀ c, s.sec.clearance = some c → c.modules.contains p.val = false) → Runs (.moduleInitDone p) s (fun t => t.slotAvail m = true ∧ t.slotLost m = false ∧
      t.bit (rModKeyStat p) 0 = true ∧ t.bit (rModKeyStat p) 1 = false ∧ t.mem.cells = s.mem.cells ∧ Only [.regs, .mem] s t)) ∧
    (∀ c, here = true → s.sec.clearance = some c → c.modules.contains p.val = true → Runs (.moduleInitDone p) s (fun t =>
      t.portState p = 4 ∧ t.fld (rPortStat p) 15 8 = 0x0D ∧ t.slotAvail m = false)) ∧
    (here = false → (s.bit (rModKeyStat p) 1 = false ∨ ∀ c, s.sec.clearance = some c → c.modules.contains p.val = false) → Runs (.moduleInitDone p) s (fun t => t = s))) ∧
  (∀ (s : State) (st : List (BitVec 8)) (ms : List (BitVec 16)),
    (∀ c, s.sec.clearance = some c → s.bit rSecStat 4 = true → s.modulesBusy c = false → c.ended = none →
      (s.storeBusy = false → s.atPhase 6 = false → Runs (.clearanceItemsDone st ms) s (fun t =>
        t.sec.clearance = none ∧ t.bit rSecStat 4 = false ∧ t.sec.life.state = (if st.getD 4 0 = 0 then c.target else 1) ∧
        t.secResult (if st.getD 4 0 = 0 then stOK else stFatal) 0 ∧ t.sec.life.clearances = s.sec.life.clearances + 1 ∧
        t.sec.life.clearing = false ∧ t.reg rTierWe = 0 ∧ (∀ a, a < t0End → memGet t.mem.cells a = 0))) ∧
      (s.storeBusy = true → Runs (.clearanceItemsDone st ms) s (fun t =>
        t.sec = { s.sec with clearance := some { c with ended := some (st, ms) } } ∧ Only [.sec] s t))) ∧
    ((∀ c, s.sec.clearance = some c → s.bit rSecStat 4 = false ∨ s.modulesBusy c = true ∨ c.ended ≠ none) →
      Runs (.clearanceItemsDone st ms) s (fun t => t = s))) ∧
  (∀ (s : State), Runs .entropyHealthFail s (fun t => t.bit rSecStat 6 = true ∧
    (∀ p, p < 129 → (s.link p).kex.step ≠ 0 → (t.link p).kex.step = 0) ∧ ((∀ p, p < 129 → (s.link p).kex.step = 0) → Only [.regs] s t))) ∧
  (∀ (s : State) (i : JtagInstr),
    Runs (.jtagInstruction i) s (fun t => t = (if i = .idcode ∨ i = .bypass ∨ s.sec.debug = true ∨ (i = .boundaryScan ∧ s.bit rBootStat 4 = true)
      then { s with boot := { s.boot with jtagServed := s.boot.jtagServed ++ [i] } } else s)))

/-- Self-tests end step 2: SEC_STAT.ERROR follows them, the valid copy of the store with the higher GEN is active and its lifecycle takes effect, with
states 0 and 5 from fuses, and the sequence stands at step 4; with no valid copy it holds with cause 1, with a PKG section not accepted with cause 2.
A BIST without a mismatch leads to step 5; mismatches hold with cause 3 and name their items. Images that pass are measured and lead, with no
interrupted clearance and no stored policy image, through the stored settings to step 8 with the stacks in training; an interrupted clearance begins
again at step 6; without such images the hold has cause 4. A stack whose training ends shows so, and the last one of step 8 starts the Filard Link.
A flash channel whose training ends shows so, and the last one of step 10 ends the sequence. Blocks and regions in reset serve again once their
regions are trained. Each of these events at another step, or of a part that does not train, does nothing. -/
def Obligations.StartUp : Prop :=
  (∀ (s : State) (k : KatResult), let c := s.boot.choose.active
    (s.atPhase 2 = false → Runs (.selfTestsDone k) s (fun t => t = s)) ∧
    (s.atPhase 2 = true → Runs (.selfTestsDone k) s (fun t => t.bit rSecStat 6 = (s.bit rSecStat 6 || !katPass k) ∧
      t.sec.romRefuses = (!k.sha3 || !k.mlDsa) ∧ t.boot = s.boot.choose ∧ Only [.regs, .sec, .boot, .mgmt] s t ∧
      (c.valid = false → t.phase = 3 ∧ t.bit rBootStat 4 = true ∧ t.fld rBootStat 11 8 = 1 ∧ t.sec.life = s.sec.life) ∧
      (c.valid = true → t.sec.life = { c.life with state := if s.sec.life.state = 0 ∨ s.sec.life.state = 5 then s.sec.life.state else c.life.state }) ∧
      (c.valid = true → c.pkgOk = false → t.phase = 3 ∧ t.bit rBootStat 4 = true ∧ t.fld rBootStat 11 8 = 2) ∧
      (c.valid = true → c.pkgOk = true → t.phase = 4 ∧ t.bit rBootStat 4 = false ∧
        t.bit rBootStat 22 = (c.boardOk && c.life.owner == some c.boardKey))))) ∧
  (∀ (s : State) (r : BistResult), let bad := (List.range 6).filter (fun i => s.itemFails r i)
    (s.atPhase 4 = false → Runs (.bistDone r) s (fun t => t = s)) ∧
    (s.atPhase 4 = true → Runs (.bistDone r) s (fun t => (∀ i, i < 6 → t.reg (rBistRes i) = (r.misr.getD i 0).toNat) ∧ Only [.regs, .mgmt] s t ∧
      (bad = [] → t.phase = 5 ∧ t.bit rBootStat 4 = false) ∧
      (bad ≠ [] → t.phase = 4 ∧ t.bit rBootStat 4 = true ∧ t.fld rBootStat 11 8 = 3 ∧ t.fld rBootStat 21 16 = bad.foldl (fun a i => a + 2 ^ i) 0)))) ∧
  (∀ (s : State) (p : List ImageSource) (ds : List Word),
    (s.atPhase 5 = false → Runs (.imageVerifyDone p ds) s (fun t => t = s)) ∧
    (s.atPhase 5 = true → s.bootSource p = none → Runs (.imageVerifyDone p ds) s (fun t =>
      t.phase = 5 ∧ t.bit rBootStat 4 = true ∧ t.fld rBootStat 11 8 = 4 ∧ t.sec = s.sec ∧ Only [.regs, .mgmt] s t)) ∧
    (∀ i, s.atPhase 5 = true → s.bootSource p = some i →
      let measured (t : State) : Prop := t.bit rBootStat 4 = false ∧ t.bit rBootStat 6 = (s.boot.active.prefB == imagePreferred i) ∧
        ∀ j, j < 3 → t.measured (j + 1) = Config.sha3 (leBytes 32 (s.measured (j + 1)).toNat ++ leBytes 32 (digestAt ds j).toNat)
      (s.sec.life.clearing = false → s.boot.active.policy = [] → Runs (.imageVerifyDone p ds) s (fun t => measured t ∧ t.phase = 8 ∧
        (∀ r, r < 4 → t.bit (rHbmStat r) 2 = true) ∧ t.fld rGridCfg 4 0 = nbits (s.boot.active.word 0x1000) 4 0 ∧
        (∀ q, q < 128 → t.fld (rPortRole q) 2 0 = nbits (s.boot.active.portWord q) 2 0) ∧ t.mem = s.mem ∧ t.links = s.links)) ∧
      (s.sec.life.clearing = true → Runs (.imageVerifyDone p ds) s (fun t => measured t ∧ t.phase = 6 ∧ t.bit rSecStat 4 = true ∧
        t.sec.clearance.map (fun c => c.target) = some ((s.sec.clearance.map (fun c => c.target)).getD 1))))) ∧
  (∀ (s : State) (r : SliceIx) (ok : Bool) (x y : BitVec 16), let last := (List.range 4).all (fun i => i == r.val || !s.bit (rHbmStat i) 2)
    (s.bit (rHbmStat r) 2 = false → Runs (.hbmTrainingDone r ok x y) s (fun t => t = s)) ∧
    (s.bit (rHbmStat r) 2 = true → Runs (.hbmTrainingDone r ok x y) s (fun t => t.mem.cells = s.mem.cells ∧
      t.reg (rHbmStat r) = (if ok then 1 else 2) + x.toNat * 2 ^ 16 + y.toNat * 2 ^ 32 ∧
      (if s.atPhase 8 = true ∧ last = true then t.phase = 9 ∧ t.portState filardLink = 1 ∧ t.bit (rPortCtl filardLink) 0 = true
        else t.phase = s.phase ∧ t.links = s.links)))) ∧
  (∀ (s : State) (c : Fin 16) (ok : Bool) (x : BitVec 8), let shown := (if ok then 1 else 2) + x.toNat * 2 ^ 8
    (s.regionInReset (c / 4) = true → Runs (.flashTrainingDone c ok x) s (fun t => t.reg (rFcStat c) = shown ∧ t.phase = s.phase ∧ Only [.regs] s t)) ∧
    (s.regionInReset (c / 4) = false → (s.atPhase 10 = false ∨ s.boot.doneParts.contains c.val = true) →
      Runs (.flashTrainingDone c ok x) s (fun t => t = s)) ∧
    (s.regionInReset (c / 4) = false → s.atPhase 10 = true → s.boot.doneParts.contains c.val = false →
      (s.boot.doneParts.length < 15 → Runs (.flashTrainingDone c ok x) s (fun t => t.reg (rFcStat c) = shown ∧
        t.boot = { s.boot with doneParts := s.boot.doneParts ++ [c.val] } ∧ t.phase = 10 ∧ Only [.regs, .boot] s t)) ∧
      (15 ≤ s.boot.doneParts.length → Runs (.flashTrainingDone c ok x) s (fun t => t.reg (rFcStat c) = shown ∧ t.phase = 12)))) ∧
  (∀ (s : State), let trained := s.boot.inReset.all (fun k => decide (k < 16) || s.regionTrained (k - 16))
    (s.boot.inReset ≠ [] → trained = true → Runs .partialResetDone s (fun t => t.boot.inReset = [] ∧ t.bit rRstCtl 35 = false)) ∧
    ((s.boot.inReset = [] ∨ trained = false) → Runs .partialResetDone s (fun t => t = s)))

namespace Sys2Proof.Machine

/-- What a write of PORT_CTL does with EN, in each of its four forms (R42, R43, R357, R362). -/
def PortEnable (cmd : PortIx → Word → Instr) : Prop :=
  ∀ (s : State) (p : PortIx) (v : Word),
    (s.cfgOpen (rPortCtl p) = false → Runs (cmd p v) s (fun t => t = s)) ∧
    (s.cfgOpen (rPortCtl p) = true → v.getLsbD 0 = true → s.bit (rPortCtl p) 0 = false →
      (s.portRole p ≠ roleDisabled → (s.portRole p = roleGrid → s.inGrid s.ix = true) → s.roleOk p = true → Runs (cmd p v) s (fun t =>
        t.portState p = 1 ∧ t.fld (rPortStat p) 5 3 = 1 ∧ t.fld (rPortStat p) 15 8 = 0 ∧ t.bit (rPortCtl p) 0 = true ∧
        t.boot.roleLocked.contains p.val = true ∧ Only [.regs, .seqs, .links, .boot, .mgmt] s t)) ∧
      (s.portRole p ≠ roleDisabled → (s.portRole p = roleGrid → s.inGrid s.ix = true) → s.roleOk p = false → Runs (cmd p v) s (fun t =>
        t.portState p = 0 ∧ t.fld (rPortStat p) 15 8 = 1 ∧ t.bit (rPortCtl p) 0 = true ∧ t.links = s.links)) ∧
      (s.portRole p = roleGrid → s.inGrid s.ix = false → Runs (cmd p v) s (fun t => t.portState p = 0 ∧ t.bit (rPortCtl p) 0 = true ∧ t.links = s.links)) ∧
      (s.portRole p = roleDisabled → s.portUp p = false → Runs (cmd p v) s (fun t =>
        t.portState p = s.portState p ∧ t.bit (rPortCtl p) 0 = true ∧ Only [.regs, .seqs] s t))) ∧
    (s.cfgOpen (rPortCtl p) = true → v.getLsbD 0 = false → s.bit (rPortCtl p) 0 = true → Runs (cmd p v) s (fun t =>
      t.portState p = 4 ∧ t.fld (rPortStat p) 15 8 = 0x0D ∧ t.bit (rPortCtl p) 0 = false ∧ t.boot.roleLocked.contains p.val = false)) ∧
    (s.cfgOpen (rPortCtl p) = true → v.getLsbD 0 = s.bit (rPortCtl p) 0 → v.getLsbD 8 = false → v.getLsbD 12 = false → Runs (cmd p v) s (fun t =>
      t.fld (rPortCtl p) 7 4 = nbits v.toNat 7 4 ∧ t.portState p = s.portState p ∧ Only [.regs, .seqs] s t))

/-- The lanes of a list that levelling may use: each once, but those that the self-test excludes (R502). -/
def State.goodLanes (s : State) (p : Nat) (l : List Nat) : List Nat := (lanesOf l).filter (fun i => !s.laneExcluded p i)

end Sys2Proof.Machine

/-- A write of PORT_CTL, by each of its four commands, does nothing on a page that takes no writes. EN from 0 to 1 starts the levelling of a port that
passes the role check at step 1; one that fails it stays DOWN with cause 1, a GRID port of a Tiolo outside its grid stays DOWN, a DISABLED one stays
as it is. EN to 0 leaves the port FAILED with cause 0x0D and gives up its role. With EN, SWAP_NOW and REKEY as they were it stores LVL_RETRY. Each
step of levelling that ends well leads to the next, with the lanes that qualified and the key exchange begun, and to UP with the far end's credits,
an agent number for an ACCEL port if one is free, a key for a MODULE port; one that fails takes the port down with the cause of that step. At
another step these events do nothing. A port that failed a levelling, with EN at 1, starts again, or waits while firmware restarts. -/
def Obligations.LevellingSteps : Prop :=
  PortEnable .levellingStart ∧ PortEnable .portDisable ∧ PortEnable .swapNow ∧ PortEnable .rekey ∧
  (∀ (s : State) (p : LinkIx) (ok : Bool) (x y : List Nat) (b : BitVec 128),
    (s.atStep p 1 = false → Runs (.carrierCheckDone p ok) s (fun t => t = s)) ∧ (s.atStep p 2 = false → Runs (.laneTrainingDone p ok) s (fun t => t = s)) ∧
    (s.atStep p 3 = false → Runs (.laneQualifyDone p x y) s (fun t => t = s)) ∧ (s.atStep p 4 = false → Runs (.alignmentLock p ok) s (fun t => t = s)) ∧
    (s.atStep p 6 = false → Runs (.lvl p b) s (fun t => t = s))) ∧
  (∀ (s : State) (p : LinkIx) (ok : Bool), s.atStep p 1 = true →
    let good := ok && (decide (96 ≤ p.val) || (s.mgmt.lsPres.getLsbD (p.val / 8) && (s.link p).lowCarriers.isEmpty))
    (good = true → Runs (.carrierCheckDone p ok) s (fun t => t.fld (rPortStat p) 5 3 = 2 ∧ t.portState p = 1 ∧ Only [.regs] s t)) ∧
    (good = false → Runs (.carrierCheckDone p ok) s (fun t => exec (.portDown p 2) s = .next t))) ∧
  (∀ (s : State) (p : LinkIx), s.atStep p 2 = true →
    Runs (.laneTrainingDone p true) s (fun t => t.fld (rPortStat p) 5 3 = 3 ∧ t.portState p = 1 ∧ Only [.regs] s t) ∧
    Runs (.laneTrainingDone p false) s (fun t => exec (.portDown p 3) s = .next t)) ∧
  (∀ (s : State) (p : LinkIx) (x y : List Nat), s.atStep p 3 = true → p.val ≠ filardLink →
    let a := s.goodLanes p x
    let b := s.goodLanes p y
    (4 ≤ a.length → 4 ≤ b.length → Runs (.laneQualifyDone p x y) s (fun t => t.fld (rPortStat p) 5 3 = 4 ∧ t.portState p = 1 ∧
      t.fld (rPortLane p) 11 0 = packMap (laneMap a).1 ∧ (t.link p).rxMap = (laneMap b).1 ∧ (t.link p).rxSpare = (laneMap b).2 ∧
      t.bit (rPortStat p) 6 = ((laneMap a).2.isSome && (laneMap b).2.isSome) ∧ (∀ k, k ≠ p.val → t.link k = s.link k) ∧ Only [.regs, .links] s t)) ∧
    ((a.length < 4 ∨ b.length < 4) → Runs (.laneQualifyDone p x y) s (fun t => exec (.portDown p 4) s = .next t))) ∧
  (∀ (s : State) (x y : List Nat), s.atStep filardLink 3 = true →
    let ok (l : Nat) : Bool := x.contains l && y.contains l && nbit (s.fld rBistFilard 9 8) (l / 4)
    let lo := [0, 1, 2, 3].all ok
    let hi := [4, 5, 6, 7].all ok
    ((lo || hi) = true → Runs (.laneQualifyDone 128 x y) s (fun t => t.fld (rPortStat filardLink) 5 3 = 4 ∧
      (t.link filardLink).rxMap = (if lo then [0, 1, 2, 3] else []) ++ (if hi then [4, 5, 6, 7] else []) ∧ Only [.regs, .links] s t)) ∧
    ((lo || hi) = false → Runs (.laneQualifyDone 128 x y) s (fun t => exec (.portDown 128 4) s = .next t))) ∧
  (∀ (s : State) (p : LinkIx), s.atStep p 4 = true →
    (s.kexBarred = false → Runs (.alignmentLock p true) s (fun t => t.fld (rPortStat p) 5 3 = 5 ∧ t.portState p = 1 ∧ (t.link p).kex.step = 1 ∧
      (t.link p).kex.initiator = s.kexInitiator p ∧ (t.link p).kex.transcript.length = (if s.kexInitiator p then 1 else 0) ∧
      (∀ k, k ≠ p.val → t.link k = s.link k))) ∧
    (s.kexBarred = true → Runs (.alignmentLock p true) s (fun t => t.fld (rPortStat p) 15 8 = 6 ∧ t.portUp p = false ∧ (t.link p).kex.step = 0)) ∧
    Runs (.alignmentLock p false) s (fun t => exec (.portDown p 5) s = .next t)) ∧
  (∀ (s : State) (p : LinkIx) (b : BitVec 128), s.atStep p 6 = true →
    (s.farOk p (lvlFar b) = true → Runs (.lvl p b) s (fun t => t.portState p = 2 ∧ t.fld (rPortStat p) 5 3 = 7 ∧ t.fld (rPortStat p) 15 8 = 0 ∧
      (t.link p).far = some (lvlFar b) ∧ (t.link p).credits = s.openCredits p (lvlFar b) ∧ (s.portRole p ≠ roleModule → t.mem = s.mem) ∧
      (s.portRole p = roleAccel → s.freeAgent ≠ none → (t.agentOfPort p).isSome = true) ∧
      (s.portRole p = roleModule → s.bit rSecStat 6 = false → t.bit (rModKeyStat p) 1 = true ∧ t.slotAvail (s.fld (rPortRole p) 13 8) = false) ∧
      (p.val = filardLink → t.bit rBootStat 5 = true ∧ (s.atPhase 9 = true → t.phase = 10)))) ∧
    (s.farOk p (lvlFar b) = false → Runs (.lvl p b) s (fun t => t.fld (rPortStat p) 15 8 = 7 ∧ t.portUp p = false ∧ t.mem = s.mem))) ∧
  (∀ (s : State) (p : LinkIx), let again := s.bit (rPortCtl p) 0 && s.portState p == 0 && s.fld (rPortStat p) 15 8 != 1 && s.fld (rPortStat p) 23 16 != 0
    (s.recov.restarting = [] → again = true → Runs (.levellingRetry p) s (fun t =>
      t.portState p = 1 ∧ t.fld (rPortStat p) 5 3 = 1 ∧ Only [.regs, .links, .mgmt] s t)) ∧
    (s.recov.restarting = [] → again = false → Runs (.levellingRetry p) s (fun t => t = s)) ∧
    (s.recov.restarting ≠ [] → Runs (.levellingRetry p) s (fun t =>
      t = { s with recov := { s.recov with waiting := s.recov.waiting ++ [.levellingRetry p] } })))

namespace Sys2Proof.Machine

/-- Frame `f` is on the lanes of a port, as PAM4 levels of its codewords (R338, R350). -/
def OnLanes (s t : State) (p : Nat) (f : TxFrame) : Prop := (t.link p).laneOut = List.zip (s.txLanes p) (frameLevels (s.txLanes p).length f.body)

/-- Every link but one stays as it was. -/
def OtherLinks (s t : State) (p : Nat) : Prop := ∀ k, k ≠ p → t.link k = s.link k

/-- What a link has received and sent stays as it was. -/
def KeepsTraffic (s t : State) (p : Nat) : Prop :=
  (t.link p).accepted = (s.link p).accepted ∧ (t.link p).received = (s.link p).received ∧ (t.link p).unacked = (s.link p).unacked ∧
  OtherLinks s t p ∧ Only [.regs, .seqs, .links] s t

/-- A port receives frames: it frames, and no receive lane is being swapped (R355, R360). -/
def State.receives (s : State) (p : Nat) : Bool := s.framing p && (s.link p).swapRx.isNone

/-- The body of a received frame, if its codewords decode, its CRC matches and no CRC injection is armed (R350, R352, R530). -/
def State.rxGood (s : State) (p : Nat) (f : RxFrame) : Option (List Byte) :=
  (rxBody (s.rxWords p f)).filter (fun b => crcMatches b && (s.takeInject (pgPort p) 2).isNone)

/-- A window of a lane has been counted whole (R359). -/
def State.windowWhole (s : State) (p lane : Nat) : Bool :=
  let k := s.fld (rPortBer p) 4 0
  s.portUp p && s.portRole p != roleEth && decide (2 ^ (if 16 ≤ k && k ≤ 26 then k else 20) ≤ (kgetD (s.link p).window lane (0, 0)).1)

/-- A swap of a receive lane for the spare has begun (R360). -/
def SwapBegun (s t : State) (p lane : Nat) (orderly : Bool) : Prop :=
  t.portState p = 3 ∧ (t.link p).swapRx = some lane ∧ (t.link p).swapOrderly = orderly ∧ OtherLinks s t p

end Sys2Proof.Machine

/-- A framing port sends the next frame of a replay unchanged, or, with fewer than 64 unacknowledged, a new one under the next counter with up to 28
flits, on the Filard Link in service only flits that hold a credit, and keeps it; else it sends none. A receiving port accepts a frame that decodes,
with good CRC and tag, in counter order: it takes its acknowledgement, NAK, credits and flits, and goes down with cause 0x0A after the 17th replay
in a row; a damaged one is discarded and NAK is due, a bad tag takes the port down with cause 0x0B, one out of order is discarded, one after a gap
with NAK due. A failed lane of a port in service is swapped for the spare, ends the spare, or takes the port down with cause 8, as does any lane
an ETH or Filard Link needs. A whole window shows its errors; over THRESH often enough it marks the lane, and swaps it where a swap is possible. The
sender of a swap moves the lane to its spare and the receiver does so at its lock; a swap that does not end takes the port down with cause 9.
SWAP_NOW swaps when a swap is possible, and a low carrier of a laser fault fails its lane, or counts at levelling step 1. Otherwise each does nothing. -/
def Obligations.FramesAndLanes : Prop :=
  (∀ (s : State) (p : LinkIx), let l := s.link p
    (s.framing p = false → Runs (.frameSend p) s (fun t => t = s)) ∧
    (s.framing p = true → l.toReplay = 0 → 64 ≤ l.unacked.length → Runs (.frameSend p) s (fun t => t = s)) ∧
    (s.framing p = true → 0 < l.toReplay → Runs (.frameSend p) s (fun t => (t.link p).toReplay = l.toReplay - 1 ∧ (t.link p).next = l.next ∧
      KeepsTraffic s t p ∧ ∀ f, l.unacked[l.unacked.length - l.toReplay]? = some f → OnLanes s t p f)) ∧
    (s.framing p = true → l.toReplay = 0 → l.unacked.length < 64 → Runs (.frameSend p) s (fun t =>
      let q := s.nextFlits p
      (t.link p).next = l.next + 1 ∧ (t.link p).txq = q.2.1 ∧ (t.link p).credits = q.2.2 ∧ (t.link p).nakDue = false ∧
      (p.val ≠ filardLink → q.1 = l.txq.take 28 ∧ q.2.1 = l.txq.drop 28) ∧ q.1.length ≤ 28 ∧
      (∃ f : TxFrame, (t.link p).unacked = l.unacked ++ [f] ∧ f.ctr = l.next ∧ f.slots = q.1 ∧ f.nak = l.nakDue ∧ f.swap = l.swapRx ∧
        f.body = f.seal (l.keys.map (fun k => k.dir (s.kexInitiator p))) ∧ OnLanes s t p f) ∧
      OtherLinks s t p ∧ Only [.regs, .seqs, .links] s t))) ∧
  (∀ (s : State) (p : LinkIx) (f : RxFrame), s.receives p = false → Runs (.frameReceive p f) s (fun t => t = s)) ∧
  (∀ (s : State) (p : LinkIx) (f : RxFrame), s.receives p = true → s.rxGood p f = none → Runs (.frameReceive p f) s (fun t =>
    (t.link p).naking = true ∧ (t.link p).nakDue = true ∧ KeepsTraffic s t p)) ∧
  (∀ (s : State) (p : LinkIx) (f : RxFrame) (body : List Byte), s.receives p = true → s.rxGood p f = some body →
    let l := s.link p
    let c := readControl body
    let un := ackFrames c.ackSeq l.unacked l.unacked
    let again := if c.nak = true ∧ un ≠ [] then (if un.length < l.unacked.length then 1 else l.replays + 1)
      else if un.length < l.unacked.length then 0 else l.replays
    (s.tagMatches p c body = false → Runs (.frameReceive p f) s (fun t => t.fld (rPortStat p) 15 8 = 0x0B ∧ t.portUp p = false)) ∧
    (s.tagMatches p c body = true → c.fseq = l.expected c % 2 ^ 32 → again ≤ 16 → Runs (.frameReceive p f) s (fun t =>
      (t.link p).accepted = l.expected c + 1 ∧ (t.link p).naking = false ∧ (t.link p).unacked = un ∧ (t.link p).replays = again ∧
      (c.nak = true → un ≠ [] → (t.link p).toReplay = un.length) ∧
      (∀ v, v < 18 → kgetD (t.link p).credits v 0 = kgetD l.credits v 0 + c.credit.getD v 0) ∧
      (t.link p).received = (l.slots (s.portRole p == roleModule) s.sw.cycle c (s.rxPlain p c body)).received ∧
      OtherLinks s t p ∧ t.mem = s.mem ∧ t.out = s.out)) ∧
    (s.tagMatches p c body = true → c.fseq = l.expected c % 2 ^ 32 → 16 < again → Runs (.frameReceive p f) s (fun t =>
      t.fld (rPortStat p) 15 8 = 0x0A ∧ t.portUp p = false)) ∧
    (s.tagMatches p c body = true → c.fseq ≠ l.expected c % 2 ^ 32 → Runs (.frameReceive p f) s (fun t => KeepsTraffic s t p ∧
      (if l.naking = true ∨ c.fseq < l.expected c % 2 ^ 32 then (t.link p).naking = l.naking ∧ (t.link p).nakDue = l.nakDue
        else (t.link p).naking = true ∧ (t.link p).nakDue = true)))) ∧
  (∀ (s : State) (p : LinkIx) (a : Fin 8), let l := s.link p
    let special := p.val = filardLink ∨ s.portRole p = roleEth
    let needed := if p.val = filardLink then l.rxMap.contains a.val else decide (a.val < 4)
    ((s.portUp p = false ∨ (p.val ≠ filardLink ∧ 5 ≤ a.val)) → Runs (.laneFail p a) s (fun t => t = s)) ∧
    (s.portUp p = true → special → needed = true → Runs (.laneFail p a) s (fun t => exec (.portDown p 8) s = .next t)) ∧
    (s.portUp p = true → special → needed = false → Runs (.laneFail p a) s (fun t => t = s)) ∧
    (s.portUp p = true → ¬special → a.val < 5 →
      (l.rxSpare = some a.val → l.swapRx = none → Runs (.laneFail p a) s (fun t => t.bit (rPortLane p) (16 + a) = true ∧
        (t.link p).rxSpare = none ∧ t.bit (rPortStat p) 6 = false ∧ t.portState p = s.portState p ∧ OtherLinks s t p)) ∧
      (l.rxSpare = some a.val → l.swapRx ≠ none → Runs (.laneFail p a) s (fun t => t.bit (rPortLane p) (16 + a) = true ∧
        t.fld (rPortStat p) 15 8 = 8 ∧ t.portUp p = false)) ∧
      (l.rxSpare ≠ some a.val → (l.rxMap.contains a.val = false ∨ l.swapRx = some a.val) → Runs (.laneFail p a) s (fun t =>
        t.bit (rPortLane p) (16 + a) = true ∧ t.portState p = s.portState p ∧ t.links = s.links)) ∧
      (l.rxSpare ≠ some a.val → s.canSwap p a = true → Runs (.laneFail p a) s (fun t =>
        t.bit (rPortLane p) (16 + a) = true ∧ SwapBegun s t p a false)) ∧
      (l.rxSpare ≠ some a.val → l.rxMap.contains a.val = true → l.swapRx ≠ some a.val → s.canSwap p a = false → Runs (.laneFail p a) s (fun t =>
        t.bit (rPortLane p) (16 + a) = true ∧ t.fld (rPortStat p) 15 8 = 8 ∧ t.portUp p = false)))) ∧
  (∀ (s : State) (p : PortIx) (a : Fin 5) (n : BitVec 32), let w := (kgetD (s.link p).window a (0, 0)).2 + s.lostSymbols p a n.toNat
    let run := if s.fld (rPortBer p) 63 32 < w then kgetD (s.link p).overRun a 0 + 1 else 0
    let marks := (s.link p).rxMap.contains a.val && decide (max 1 (s.fld (rPortBer p) 11 8) ≤ run) && !s.bit (rPortLane p) (21 + a)
    (s.windowWhole p a = false → Runs (.berWindowEnd p a n) s (fun t => t = s)) ∧
    (s.windowWhole p a = true → Runs (.berWindowEnd p a n) s (fun t => kgetD (t.link p).overRun a 0 = run ∧ kgetD (t.link p).window a (0, 0) = (0, 0) ∧
      kgetD (t.link p).badWords a 0 = 0 ∧ t.fld (rPortLaneErr p a) 63 32 = w % 2 ^ 32 ∧ OtherLinks s t p ∧
      (marks = true → t.bit (rPortLane p) (21 + a) = true) ∧ (marks = true → s.canSwap p a = true → SwapBegun s t p a true) ∧
      ((marks = false ∨ s.canSwap p a = false) → t.portState p = s.portState p ∧ (t.link p).swapRx = (s.link p).swapRx)))) ∧
  (∀ (s : State) (p : PortIx) (a : Fin 5), let on := (List.range 4).find? (fun j => s.fld (rPortLane p) (3 * j + 2) (3 * j) == a.val)
    (∀ k, on = some k → s.portUp p = true → s.bit (rPortLane p) 15 = true → Runs (.swapRequest p a) s (fun t =>
      t.portState p = 3 ∧ t.fld (rPortLane p) (3 * k + 2) (3 * k) = s.fld (rPortLane p) 14 12 ∧
      t.bit (rPortLane p) 15 = false ∧ t.bit (rPortStat p) 6 = false ∧ Only [.regs, .mgmt] s t)) ∧
    ((on = none ∨ s.portUp p = false ∨ s.bit (rPortLane p) 15 = false) → Runs (.swapRequest p a) s (fun t => t = s))) ∧
  (∀ (s : State) (p : PortIx), let l := s.link p
    (∀ a sp, l.swapRx = some a → l.rxSpare = some sp → Runs (.swapLock p) s (fun t =>
      (t.link p).rxMap = l.rxMap.map (fun x => if x == a then sp else x) ∧ (t.link p).rxSpare = none ∧ (t.link p).swapRx = none ∧
      (t.link p).nakDue = true ∧ t.bit (rPortStat p) 6 = false ∧ OtherLinks s t p ∧ Only [.regs, .links] s t)) ∧
    ((l.swapRx = none ∨ l.rxSpare = none) → Runs (.swapLock p) s (fun t => t = s))) ∧
  (∀ (s : State) (p : PortIx) (q : LinkIx), q.val = p.val →
    (s.portState p = 3 → Runs (.swapTimeout p) s (fun t => exec (.portDown q 9) s = .next t)) ∧
    (s.portState p ≠ 3 → Runs (.swapTimeout p) s (fun t => t = s))) ∧
  (∀ (s : State) (p : PortIx) (v : Word), s.cfgOpen (rPortCtl p) = true → v.getLsbD 0 = s.bit (rPortCtl p) 0 → v.getLsbD 8 = true →
    (v.getLsbD 12 = false ∨ s.kexBarred = false) → s.canSwap p (nbits v.toNat 11 9) = true →
    Runs (.swapNow p v) s (fun t => SwapBegun s t p (nbits v.toNat 11 9) true ∧ t.bit (rPortCtl p) 0 = s.bit (rPortCtl p) 0)) ∧
  (∀ (s : State) (k : Fin 12),
    Runs (.laserFault k []) s (fun t => t = s) ∧
    (∀ e es, Runs (.laserFault k (e :: es)) s (fun t => ∃ u, exec (.laserFault k [e]) s = .next u ∧ exec (.laserFault k es) u = .next t)) ∧
    (∀ (p : PortIx) (a : Fin 5) (q : LinkIx) (m : Fin 8), q.val = p.val → m.val = a.val →
      (p.val / 8 = k.val → s.portUp p = true → Runs (.laserFault k [(p, a)]) s (fun t => exec (.laneFail q m) s = .next t)) ∧
      (p.val / 8 = k.val → s.atStep p 1 = true → Runs (.laserFault k [(p, a)]) s (fun t =>
        (t.link p).lowCarriers = insertNew (s.link p).lowCarriers a.val ∧ OtherLinks s t p ∧ Only [.links] s t)) ∧
      ((p.val / 8 ≠ k.val ∨ (s.portUp p = false ∧ s.atStep p 1 = false)) → Runs (.laserFault k [(p, a)]) s (fun t => t = s))))

namespace Sys2Proof.Machine

/-- A key exchange of a link has failed: it is over, and a port that was not down goes down with cause 6 (R486, R488). -/
def KexFailed (s t : State) (p : Nat) : Prop :=
  (t.link p).kex.step = 0 ∧ (t.link p).kex.derived = none ∧ (t.link p).kex.secret = none ∧
  (s.portState p ≠ 0 → s.portState p ≠ 4 → t.fld (rPortStat p) 15 8 = 6 ∧ t.portUp p = false)

/-- A rekey can start at a link (R488). -/
def State.mayRekey (s : State) (p : Nat) : Bool := s.portUp p && (s.link p).keys.isSome && (s.link p).kex.step == 0

/-- A rekey of a link in service has begun; its keys stay in force meanwhile (R488). -/
def RekeyBegun (s t : State) (p : Nat) : Prop :=
  (t.link p).kex.rekey = true ∧ (t.link p).kex.step = (if s.kexInitiator p then 3 else 4) ∧ (t.link p).keys = (s.link p).keys ∧
  t.portState p = s.portState p ∧ OtherLinks s t p

/-- FINISH is sent and the keys are derived, the ephemeral secret is gone (R486 steps 5 and 6). -/
def KexDerived (s t : State) (p : Nat) : Prop :=
  (t.link p).kex.step = 6 ∧ (t.link p).kex.sentFinish = true ∧ (t.link p).kex.derived.isSome = true ∧ (t.link p).kex.secret = none ∧
  (t.link p).keys = (s.link p).keys ∧ OtherLinks s t p

end Sys2Proof.Machine

/-- A message of a key exchange that its step does not await does nothing. HELLO with the one suite leads on, the responder with its own HELLO, the
initiator with its chain. A fragment of a chain in its turn is kept; the last leads on if the chain verifies and the peer's state is accepted.
KEMKEY, also one that starts a rekey, and KEMCT whose signature verifies lead to derived keys. A FINISH that matches, once this side's is sent, puts
them in use with the counter at 0, at levelling with step 6, in a rekey with KPH flipped. Each failed check, and ABORT, ends the exchange and takes
the port down with cause 6. REKEY with no swap asked for, or the frame count, starts a rekey on an UP link with keys and no exchange, fails it where
key establishment is barred, and elsewhere leaves the link alone. -/
def Obligations.KeyExchange : Prop :=
  (∀ (s : State) (p : LinkIx) (b : List Byte), let k := (s.link p).kex
    let suite := leNat (slice (kexBody b) 32 2)
    ((k.step ≠ 1 ∨ k.rekey = true) → Runs (.hello p b) s (fun t => t = s)) ∧
    (k.step = 1 → k.rekey = false → suite ≠ 1 → Runs (.hello p b) s (fun t => KexFailed s t p)) ∧
    (k.step = 1 → k.rekey = false → suite = 1 → k.initiator = false → Runs (.hello p b) s (fun t => (t.link p).kex.step = 2 ∧
      (t.link p).kex.peerHello = true ∧ (t.link p).kex.transcript.length = k.transcript.length + 2 ∧ t.sec.drawn = s.sec.drawn + 1 ∧
      OtherLinks s t p ∧ Only [.links, .sec] s t)) ∧
    (k.step = 1 → k.rekey = false → suite = 1 → k.initiator = true → Runs (.hello p b) s (fun t => (t.link p).kex.step = 2 ∧
      (t.link p).kex.peerHello = true ∧ k.transcript.length + 2 ≤ (t.link p).kex.transcript.length ∧ OtherLinks s t p ∧ Only [.links] s t))) ∧
  (∀ (s : State) (p : LinkIx) (b : List Byte), let k := (s.link p).kex
    let n := (b.getD 2 0).toNat
    let inTurn := decide (1 ≤ n ∧ n ≤ 4 ∧ (b.getD 1 0).toNat = k.frags.length)
    let chain := (k.frags ++ [kexBody b]).flatten
    (k.step ≠ 2 → Runs (.cert p b) s (fun t => t = s)) ∧
    (k.step = 2 → inTurn = false → Runs (.cert p b) s (fun t => KexFailed s t p)) ∧
    (k.step = 2 → inTurn = true → k.frags.length + 1 < n → Runs (.cert p b) s (fun t => (t.link p).kex.frags = k.frags ++ [kexBody b] ∧
      (t.link p).kex.step = 2 ∧ OtherLinks s t p ∧ Only [.links] s t)) ∧
    (k.step = 2 → inTurn = true → n ≤ k.frags.length + 1 → Runs (.cert p b) s (fun t =>
      if (Config.chainKey chain).isSome = true ∧ s.peerOk chain = true
      then (t.link p).kex.peerVerified = true ∧ (t.link p).kex.step = (if k.initiator then 3 else 4) ∧ OtherLinks s t p else KexFailed s t p))) ∧
  (∀ (s : State) (p : LinkIx) (b : List Byte), let u := s.kexOrRekey p
    let k := (u.link p).kex
    ((k.step ≠ 3 ∨ k.initiator = false) → Runs (.kemkey p b) s (fun t => t = s)) ∧
    (k.step = 3 → k.initiator = true → Runs (.kemkey p b) s (fun t => if u.kexSigOk p b 1184 = true
      then KexDerived s t p ∧ (t.link p).kex.rekey = k.rekey ∧ t.sec.drawn = s.sec.drawn + 1 else KexFailed s t p))) ∧
  (∀ (s : State) (p : LinkIx) (b : List Byte), let k := (s.link p).kex
    ((k.step ≠ 4 ∨ k.initiator = true) → Runs (.kemct p b) s (fun t => t = s)) ∧
    (k.step = 4 → k.initiator = false → k.secret = none → Runs (.kemct p b) s (fun t =>
      if s.kexSigOk p b 1088 = true then t = s else KexFailed s t p)) ∧
    (∀ d, k.step = 4 → k.initiator = false → k.secret = some d → Runs (.kemct p b) s (fun t => if s.kexSigOk p b 1088 = true
      then KexDerived s t p ∧ (t.link p).kex.derived = some (deriveKeys (Config.mlKemDecaps d (slice (kexBody b) 0 1088)) (k.note b).t)
      else KexFailed s t p))) ∧
  (∀ (s : State) (p : LinkIx) (b : List Byte), let k := (s.link p).kex
    (k.derived = none → Runs (.finish p b) s (fun t => t = s)) ∧
    (∀ d, k.derived = some d → Runs (.finish p b) s (fun t =>
      if slice (kexBody b) 0 32 ≠ finishMac k d then KexFailed s t p
      else OtherLinks s t p ∧ (k.sentFinish = false → (t.link p).kex = { k with gotFinish := true } ∧ Only [.links] s t) ∧
        (k.sentFinish = true → (t.link p).keys = some d ∧ (t.link p).next = 0 ∧ (t.link p).kex.step = 0 ∧ t.bit (rPortKey p) 0 = true ∧
          t.fld (rPortKey p) 63 16 = 0 ∧
          (if k.rekey then t.bit (rPortKey p) 1 = (!s.bit (rPortKey p) 1) ∧ (t.link p).oldKeys = (s.link p).keys ∧ t.portState p = s.portState p
            else t.fld (rPortStat p) 5 3 = 6 ∧ t.bit (rPortKey p) 1 = false))))) ∧
  (∀ (s : State) (p : LinkIx) (b : List Byte),
    ((s.link p).kex.step ≠ 0 → Runs (.abort p b) s (fun t => KexFailed s t p)) ∧
    ((s.link p).kex.step = 0 → Runs (.abort p b) s (fun t => t = s))) ∧
  (∀ (s : State) (p : PortIx) (v : Word), s.cfgOpen (rPortCtl p) = true → v.getLsbD 0 = s.bit (rPortCtl p) 0 → v.getLsbD 8 = false →
    v.getLsbD 12 = true →
    (s.mayRekey p = true → s.kexBarred = false → Runs (.rekey p v) s (fun t => RekeyBegun s t p)) ∧
    (s.mayRekey p = true → s.kexBarred = true → Runs (.rekey p v) s (fun t => KexFailed s t p)) ∧
    (s.mayRekey p = false → Runs (.rekey p v) s (fun t => t.links = s.links ∧ t.portState p = s.portState p ∧ Only [.regs, .seqs] s t))) ∧
  (∀ (s : State) (p : LinkIx), let due := decide (2 ^ min 47 (max 20 (s.fld (rPortKey p) 13 8)) ≤ (s.link p).next)
    (due = true → s.mayRekey p = true → s.kexBarred = false → Runs (.rekeyInterval p) s (fun t => RekeyBegun s t p)) ∧
    (due = true → s.mayRekey p = true → s.kexBarred = true → Runs (.rekeyInterval p) s (fun t => KexFailed s t p)) ∧
    ((due = false ∨ s.mayRekey p = false) → Runs (.rekeyInterval p) s (fun t => t = s)))

namespace Sys2Proof.Machine

/-- The keys of traverses other than `k` name what they named before. -/
def OtherTravs (s t : State) (k : Nat) : Prop := ∀ j, j ≠ k → t.trav' j = s.trav' j

/-- What the traverse doorbell answers a write that it does not take: the door's refusal, or ACCESS_FAULT while TRV_CTL.EN is 0 (R309). -/
def State.travDoorStatus (s : State) (op : Nat) (p : Packet) : Status :=
  statusMin (s.engineDoor (withOp op p)) (if s.bit rTrvCtl 0 then stOK else stAccessFault)

/-- The doorbell takes a write of a job of parcel `n`: the queue has room, and no earlier one of its job is held (R156, R309). -/
def State.travOpen (s : State) (op n : Nat) (p : Packet) : Bool :=
  s.travDoorStatus op p == stOK && s.parcelOf p.job.toNat == some n && s.travRoom n && !s.doorWaits 0 p

/-- The program that a START names: its words, header, legs and length (R307). -/
def State.progWord (s : State) (d : List Word) (o i : Nat) : Word := BitVec.ofNat 64 (leNat (s.readMem (wbits d 2 45 0 + o + 8 * i) 8))
def State.progHeader (s : State) (d : List Word) : List Word := (List.range 8).map (s.progWord d 0)
def State.progLegs (s : State) (d : List Word) : List (List Word) :=
  (List.range (wbits (s.progHeader d) 0 27 16 + 1)).map (fun j => (List.range 8).map (s.progWord d (64 + 64 * j)))
def State.progLength (s : State) (d : List Word) : Nat := 64 + 64 * (wbits (s.progHeader d) 0 27 16 + 1)

/-- Whether the parcel may read the program: in T0, whole in one extent that lets its job load (R307, R310). -/
def State.progAccess (s : State) (d : List Word) (p : Packet) : Status :=
  let a := wbits d 2 45 0
  match s.extAt a with
  | none => stAccessFault
  | some (_, x) => if placeOf a = .t0 ∧ a + s.progLength d ≤ x.base + 0x1000 * x.pages then s.checkExt x a (s.progLength d) p.job.toNat .load
    else stAccessFault

/-- The first failure of a START, with its STATUS and DETAIL (R310). -/
def State.startFailure (s : State) (n : Nat) (p : Packet) : Option (Status × Nat) :=
  let d := descOf (withOp 1 p)
  if travDescBad d then some (stUnsupported, 1)
  else if s.progAccess d p ≠ stOK then some (s.progAccess d p, 2)
  else if s.anyPoison (wbits d 2 45 0) (s.progLength d) then some (stPoison, 0)
  else ((s.startChecks n d (s.progHeader d) (s.progLegs d)).find? (fun e => e.1)).map (fun e => (e.2.2, e.2.1))

/-- The first failure of a STOP (R320). -/
def State.stopFailure (s : State) (n : Nat) (p : Packet) : Option (Status × Nat) :=
  let d := descOf (withOp 2 p)
  if travDescBad d then some (stUnsupported, 1)
  else if (s.trav' (wbits d 1 3 0)).any (fun x => x.parcel == n) then none else some (stAccessFault, 6)

/-- The write completes with OK, and the command ends: no traverse changes, and its record is written with a status and a DETAIL (R309). -/
def TravRefused (s t : State) (op : Nat) (p : Packet) (st : Status) (detail : Nat) : Prop :=
  let d := descOf (withOp op p)
  t.trav.travs = s.trav.travs ∧ t.mem = s.mem ∧ ∃ a w, t.out = s.out ++ [a, w] ∧ a.opcode.toNat = opCMP ∧ a.tid = p.tid ∧ a.status = stOK ∧
    w.opcode.toNat = opWRN ∧ w.gfa.toNat = wbits d 6 55 0 ∧
    w.payload = TravRec.data st (s.degradedFlag p.job.toNat) detail none (d.getD 7 0)

/-- A traverse doorbell write that is not taken completes with the refusal, or is held; a command that fails a check ends so. -/
def TravDoor (cmd : Packet → Instr) (op : Nat) (failure : State → Nat → Packet → Option (Status × Nat)) : Prop :=
  ∀ (s : State) (p : Packet),
    (s.travDoorStatus op p ≠ stOK → Runs (cmd p) s (fun t => Answered s t p (s.travDoorStatus op p) ∧ Only [.regs, .seqs, .out] s t ∧
      OnlyPages [pgMtr] s t)) ∧
    (∀ n, s.travDoorStatus op p = stOK → s.parcelOf p.job.toNat = some n → (s.travRoom n = false ∨ s.doorWaits 0 p = true) →
      Runs (cmd p) s (fun t => t.tier = { s.tier with held := s.tier.held ++ [{ door := 0, req := withOp op p }] } ∧ Only [.seqs, .tier] s t)) ∧
    (∀ n st detail, s.travOpen op n p = true → failure s n p = some (st, detail) → Runs (cmd p) s (fun t => TravRefused s t op p st detail))

/-- A benchmark's job tag and step number (R304). -/
def bmkJob (p : Packet) : Nat := nbits (wordAt p.payload 0) 15 0
def bmkStep (p : Packet) : Nat := nbits (wordAt p.payload 0) 31 16

/-- A benchmark of a job at a step was accepted: the step is the job's last, and each UP ACCEL port of its parcel gets it (R305). -/
def BenchTaken (s t : State) (job step : Nat) : Prop :=
  kget t.trav.steps job = some step ∧ (∀ j, j ≠ job → kget t.trav.steps j = kget s.trav.steps j) ∧ t.mem = s.mem ∧
  ∀ q, q < 128 → s.portRole q = roleAccel → s.portUp q = true → s.portParcel q = s.parcelOf job →
    ∃ c, c ∈ t.out ∧ c.opcode.toNat = opBMK ∧ c.dst = BitVec.ofNat 17 (s.ix * 128 + q)

/-- A benchmark was discarded (R305). -/
def BenchDropped (s t : State) : Prop := t.trav = s.trav ∧ t.coll = s.coll ∧ t.traf = s.traf ∧ t.out = s.out ∧ t.mem = s.mem

end Sys2Proof.Machine

/-- A traverse doorbell write that is refused completes with its status, and one without room, or behind a held one of its job, is held. A START that
fails a check of R310 ends with the first failing one's status and DETAIL and arms nothing; else it arms the traverse with its header and legs, at
leg 0, asks each member of the leg to hand back its window, and is recorded. A STOP with a bad field, or of a traverse that is not its parcel's, ends
so; before the send point it ends the traverse at once, after it at the leg's end. A benchmark that is accepted is the job's last step and goes to
its ACCEL ports; another one is discarded. A write of TRV_BENCH stores its fields; with GO it injects the benchmark, and with SEND it sends an
accepted one to the other columns of its mask in the grid. -/
def Obligations.TraverseCommands : Prop :=
  TravDoor .traverseStart 1 State.startFailure ∧ TravDoor .traverseStop 2 State.stopFailure ∧
  (∀ (s : State) (p : Packet) (n : Nat), s.travOpen 1 n p = true → s.startFailure n p = none →
    let d := descOf (withOp 1 p)
    let h := s.progHeader d
    let legs := s.progLegs d
    let k := wbits h 0 3 0
    Runs (.traverseStart p) s (fun t =>
      (t.trav' k).map (fun x => (x.parcel, x.header, x.legs, x.gidx, x.state, x.anchor, x.anchors)) = some (n, h, legs, 0, 1, none, []) ∧
      OtherTravs s t k ∧ t.mem = s.mem ∧
      (∀ m, m ∈ s.legMembers (legs.getD 0 []) → ∃ c, c ∈ t.out ∧ c.opcode.toNat = opSACQ ∧
        c.gfa = BitVec.ofNat 56 (m * 2 ^ 46 + stakeBase + 64 * (wbits h 4 29 16 + legWin (legs.getD 0 [])))) ∧
      (t.out.getLast?).map (fun c => (c.opcode.toNat, c.gfa.toNat)) = some (opWRN, wbits d 6 55 0))) ∧
  (∀ (s : State) (p : Packet) (n : Nat) (x : Trav), s.travOpen 2 n p = true → s.stopFailure n p = none →
    let d := descOf (withOp 2 p)
    let k := wbits d 1 3 0
    s.trav' k = some x →
    (x.state < 3 → Runs (.traverseStop p) s (fun t => t.trav' k = none ∧ OtherTravs s t k ∧ t.mem = s.mem ∧
      (t.out.getLast?).map (fun c => (c.opcode.toNat, c.gfa.toNat)) = some (opWRN, wbits d 6 55 0))) ∧
    (3 ≤ x.state → Runs (.traverseStop p) s (fun t => t.trav' k = some { x with state := 4, stops := x.stops ++ [(d, withOp 2 p)] } ∧
      OtherTravs s t k ∧ Answered s t p stOK ∧ t.mem = s.mem))) ∧
  (∀ (s : State) (p : Packet),
    (s.benchOk (bmkJob p) (bmkStep p) = true → Runs (.bmk p) s (fun t => BenchTaken s t (bmkJob p) (bmkStep p))) ∧
    (s.benchOk (bmkJob p) (bmkStep p) = false → Runs (.bmk p) s (fun t => BenchDropped s t))) ∧
  (∀ (s : State) (v : Word), let job := nbits v.toNat 15 0
    let step := nbits v.toNat 31 16
    (s.cfgOpen rTrvBench = false → Runs (.benchmarkInject v) s (fun t => t = s)) ∧
    (s.cfgOpen rTrvBench = true → v.getLsbD 63 = false → Runs (.benchmarkInject v) s (fun t =>
      t.reg rTrvBench = v.toNat % 2 ^ 33 ∧ Only [.regs, .seqs] s t)) ∧
    (s.cfgOpen rTrvBench = true → v.getLsbD 63 = true → s.benchOk job step = true → Runs (.benchmarkInject v) s (fun t => BenchTaken s t job step ∧
      (v.getLsbD 32 = true → ∀ i, i < s.cols → i ≠ s.col → s.bit rTrvBenchMask i = true →
        ∃ c, c ∈ t.out ∧ c.opcode.toNat = opBMK ∧ c.mcx.map (fun m => (m.axis, m.members.getLsbD i)) = some (false, true)))) ∧
    (s.cfgOpen rTrvBench = true → v.getLsbD 63 = true → s.benchOk job step = false → Runs (.benchmarkInject v) s (fun t => BenchDropped s t)))

namespace Sys2Proof.Machine

/-- Some member of the current leg of a traverse has still to report (R313). -/
def State.legOpen (s : State) (x : Trav) : Bool := !(s.legMembers x.cur).all (fun m => x.reported.contains m)

/-- The fields that name a leg in a TRVD packet (R313): traverse, leg, pass, byte offset, step, form. -/
def trvW (p : Packet) : Nat := trvWord p

/-- A leg in progress here has the sender, the traverse, the job and the stake of a packet's, and its leg and pass. -/
def sameLeg (p : Packet) (i : LegInfo) (x : DestLeg) : Bool :=
  x.sender == p.src.toNat && x.trav == nbits (trvW p) 3 0 && x.job == p.job && x.info.stake == i.stake &&
  x.leg == nbits (trvW p) 15 4 && x.pass == nbits (trvW p) 31 16

/-- The leg of a TRVD packet was released here before (R313). -/
def State.legOver (s : State) (p : Packet) (i : LegInfo) : Bool :=
  s.legDone p.job (nbits (trvW p) 3 0) i.stake (nbits (trvW p) 15 4) (nbits (trvW p) 31 16) (BitVec.ofNat 16 (nbits (trvW p) 79 64))

/-- The status that a TRVD packet's bytes bear (R314). -/
def trvdStatus (p : Packet) : Status := if p.poi then worse p.status stPoison else p.status

/-- A page or less of a window is written, poisoned and with error bytes unless its bytes are good (R313 step 5, R314). -/
def WritesWindow (s t : State) (p : Packet) (i : LegInfo) (b : Nat) : Prop :=
  Sent s t (fun c => c.opcode.toNat = opWRI ∧ c.gfa = BitVec.ofNat 56 (s.ix * 2 ^ 46 + b + i.win + nbits (trvW p) 63 32) ∧ c.job = p.job ∧
    c.payload = (if trvdStatus p = stOK then p.payload else errorBytes p.payload.length) ∧ c.poi = (trvdStatus p != stOK))

/-- The current leg of a traverse may be sent: it has its anchor and its windows back, its fill is whole, it is not held (R313 step 2). -/
def State.mayLeaveLeg (s : State) (x : Trav) : Bool :=
  !s.bit rTrvCtl 1 && x.state == 2 && x.anchor.isSome && (s.legMembers x.cur).all (fun m => x.handed.contains m) && x.sourceReady

/-- The members of a leg other than this Tiolo that have not failed. -/
def State.legOthers (s : State) (x : Trav) : List Nat := (s.legMembers x.cur).filter (fun m => !x.reported.contains m && m != s.ix)

/-- A TRVD packet at an offset of a leg's bytes. -/
def IsPart (c : Packet) (off : Nat) : Prop := c.opcode.toNat = opTRVD ∧ nbits (trvWord c) 63 32 = off

/-- A report of a member reaches the leg in progress that it names, and is its first (R313 step 6). -/
def State.reports (s : State) (x : Trav) (w m : Nat) : Bool :=
  decide (3 ≤ x.state) && x.leg == nbits w 15 4 && x.pass % 65536 == nbits w 31 16 && (s.legMembers x.cur).contains m && !x.reported.contains m

/-- After the last report the next leg is the current one, with its windows asked for (R313, R320). -/
def NextLeg (s t : State) (k : Nat) (x : Trav) : Prop :=
  (t.trav' k).map (fun y => (y.gidx, y.reported, y.handed, y.prev)) = some (x.gidx + 1, [], [], x.anchor) ∧ OtherTravs s t k ∧ t.mem = s.mem ∧
  ∀ m, m ∈ s.legMembers (x.entry (x.gidx + 1)) → ∃ c, c ∈ t.out ∧ c.opcode.toNat = opSACQ

/-- After the last report the traverse goes on with another leg: no STOP waits and REPEAT is not reached (R308, R320). -/
def Trav.goesOn (x : Trav) : Bool :=
  x.state != 4 && x.stops.isEmpty && (wbits x.header 0 47 32 == 0 || decide (x.gidx + 1 < wbits x.header 0 47 32 * x.count))

/-- The traverse is over: its end record is written with a status and a DETAIL (R309). -/
def TravOver (s t : State) (k : Nat) (x : Trav) (st : Status) (detail : Nat) : Prop :=
  t.trav' k = none ∧ OtherTravs s t k ∧ t.mem = s.mem ∧
  ∃ w, w ∈ t.out ∧ w.opcode.toNat = opWRN ∧ w.gfa.toNat = wbits x.desc 3 55 0 ∧ (w.payload.getD 0 0).toNat % 16 = st.toNat ∧
    (w.payload.getD 1 0).toNat = detail

end Sys2Proof.Machine

/-- At its send point, and not twinned, a direct T1 leg asks for every source page, a T2 leg sends every page once T2 is mounted and waits for it
before, a run-ahead leg sends every page of its fill; before it nothing happens. Of a leg with bytes in RAW or CODED form a packet is written to the
window at the destination, poisoned where it is not good, and begins the leg or adds to it; in EXPAND form it is kept, and the last one of a whole
stream gives every block; of a leg released before, the first packet is answered with a report. When all is written the trailer is, LATE when
the deadline has passed or no anchor was accepted, and a DONE without an anchor is a free value. A report counts its member, and the last one begins
the next leg or ends the traverse. A run-ahead fill with room asks for its pages, and is whole once all are there. A traverse that stalls past its
limit ends with TIMEOUT; a member that does not report counts as failed. Each event without its leg does nothing. -/
def Obligations.TraverseLegs : Prop :=
  (∀ (s : State) (k : Fin 16) (l : BitVec 12) (i : Fin 32), s.trav' k = none →
    Runs (.legSendPoint k) s (fun t => t = s) ∧ Runs (.runaheadFillStart k) s (fun t => t = s) ∧ Runs (.runaheadFillDone k l) s (fun t => t = s) ∧
    Runs (.traverseStallTimeout k) s (fun t => t = s) ∧ Runs (.legMemberTimeout k i) s (fun t => t = s)) ∧
  (∀ (s : State) (k : Fin 16) (x : Trav), s.trav' k = some x → s.mayLeaveLeg x = false → Runs (.legSendPoint k) s (fun t => t = s)) ∧
  (∀ (s : State) (k : Fin 16) (x : Trav), s.trav' k = some x → s.mayLeaveLeg x = true → s.twinOp 2 (BitVec.ofNat 32 k) = none →
    s.legOpen x = true → x.count ≤ 4096 →
    let fill := if legRa x.cur then (x.fillOf x.gidx).filter (fun f => !f.direct) else none
    let sent (t : State) : Prop := OtherTravs s t k ∧ t.mem = s.mem ∧ (fill = none ∧ legT2 x.cur = false ∨ (s.legMembers x.cur).contains s.ix = false →
      (t.trav' k).map (fun y => (y.state, y.gidx, y.last)) = some (if x.stops = [] then 3 else 4, x.gidx, 0))
    (fill = none → legT2 x.cur = false → Runs (.legSendPoint k) s (fun t => sent t ∧ ∀ i, i < legPages x.cur → ∃ c, c ∈ t.out ∧
      (c.opcode.toNat = opRDN ∨ c.opcode.toNat = opRDU) ∧ c.gfa = BitVec.ofNat 56 (s.ix * 2 ^ 46 + legPageAt x.cur i) ∧ c.len = 0x1000)) ∧
    (fill = none → legT2 x.cur = true → s.bit rTlStat 0 = true → Runs (.legSendPoint k) s (fun t => sent t ∧ (s.legOthers x ≠ [] →
      ∀ i, i < legPages x.cur → ∃ c, c ∈ t.out ∧ IsPart c (0x1000 * i)))) ∧
    (fill = none → legT2 x.cur = true → s.bit rTlStat 0 = false → Runs (.legSendPoint k) s (fun t => sent t ∧ t.out = s.out ∧
      ∀ i, i < legPages x.cur → ∃ r, r ∈ t.recov.trackers ∧ r.purpose = .travLine k (travKey i false none 0 x.gidx))) ∧
    (∀ f, fill = some f → f.bad = [] → Runs (.legSendPoint k) s (fun t => sent t ∧ (s.legOthers x ≠ [] →
      ∀ i, i < legPages x.cur → s.anyPoison (s.ringAt x f i) 0x1000 = false → s.ringAt x f i % 0x1000 = 0 →
        ∃ c, c ∈ t.out ∧ IsPart c (0x1000 * i) ∧ c.payload = s.readMem (s.ringAt x f i) 0x1000 ∧ c.poi = false)))) ∧
  (∀ (s : State) (p : Packet) (i : LegInfo), p.status.toNat < 12 → s.legOver p i = true →
    (nbits (trvW p) 63 32 = 0 → p.src.toNat ≠ s.ix → Runs (.trvd p i) s (fun t => Only [.out] s t ∧
      Sent s t (fun c => c.opcode.toNat = opTRVR ∧ c.status = stOK ∧ c.dst = BitVec.ofNat 17 (p.src.toNat * 128) ∧
        nbits (trvWord c) 31 0 = nbits (trvW p) 31 0 ∧ nbits (trvWord c) 63 32 = 1))) ∧
    (nbits (trvW p) 63 32 ≠ 0 → Runs (.trvd p i) s (fun t => t = s))) ∧
  (∀ (s : State) (p : Packet) (i : LegInfo), p.status.toNat < 12 → s.legOver p i = false →
    s.trav.legs.any (fun x => sameLeg p i x || x.id == s.trav.nextLeg) = false →
    let expand := nbits (trvW p) 85 84 % 4 == 2
    let begun (t : State) : Prop := (t.destLeg s.trav.nextLeg).map (fun x => (x.got, x.sender, x.info)) = some (p.payload.length, p.src.toNat, i) ∧
      t.trav.nextLeg = s.trav.nextLeg + 1 ∧ t.mem = s.mem
    (∀ b, expand = false → s.jobDatum p.job = some b → Runs (.trvd p i) s (fun t => begun t ∧ WritesWindow s t p i b ∧
      (t.destLeg s.trav.nextLeg).map (fun x => (x.out, x.worst)) = some (1, worse stOK (trvdStatus p)))) ∧
    (expand = false → s.jobDatum p.job = none → Runs (.trvd p i) s (fun t => begun t ∧ t.out = s.out ∧
      (t.destLeg s.trav.nextLeg).map (fun x => x.failed) = some true)) ∧
    (expand = true → p.payload.length < i.bytes → Runs (.trvd p i) s (fun t => begun t ∧ t.out = s.out ∧
      (t.destLeg s.trav.nextLeg).map (fun x => x.coded) = some [(nbits (trvW p) 63 32, p.payload, trvdStatus p)])) ∧
    (∀ b, expand = true → i.bytes ≤ p.payload.length → s.jobDatum p.job = some b → Runs (.trvd p i) s (fun t => begun t ∧
      ∀ j bs, (xcbStream i.blocks p.payload)[j]?.bind Except.toOption = some bs → trvdStatus p = stOK →
        ∃ c, c ∈ t.out ∧ c.opcode.toNat = opWRI ∧ c.gfa = BitVec.ofNat 56 (s.ix * 2 ^ 46 + b + i.win + 0x1000 * j) ∧ c.poi = false))) ∧
  (∀ (s : State) (p : Packet) (i : LegInfo) (x : DestLeg), p.status.toNat < 12 → s.legOver p i = false →
    s.trav.legs.find? (sameLeg p i) = some x → s.destLeg x.id = some x →
    ((x.trailer = true ∨ x.info.bytes ≤ x.got) → Runs (.trvd p i) s (fun t => t = s)) ∧
    (∀ b, x.trailer = false → x.got < x.info.bytes → x.comp ≠ 2 → s.jobDatum p.job = some b → Runs (.trvd p i) s (fun t => WritesWindow s t p x.info b ∧
      (t.destLeg x.id).map (fun y => (y.got, y.out, y.worst)) = some (x.got + p.payload.length, x.out + 1, worse x.worst (trvdStatus p)) ∧
      t.mem = s.mem))) ∧
  (∀ (s : State) (k d : Nat),
    ((∀ x, s.trav.legs[k]? = some x → x.trailer = true ∨ x.out ≠ 0 ∨ x.got < x.info.bytes) → Runs (.legWritesDone k d) s (fun t => t = s)) ∧
    (∀ x, s.trav.legs[k]? = some x → x.trailer = false → x.out = 0 → x.info.bytes ≤ x.got →
      let seen := s.stepAccepted x.job x.step
      let done := if seen then d else s.freeNat 32
      (∀ b, s.jobDatum x.job = some b → Runs (.legWritesDone k d) s (fun t =>
        let fl := (if seen = false ∨ x.deadline < d then flLate else 0) ||| s.degradedFlag x.job.toNat
        t.trav.legs = s.trav.legs.map (fun y => if y.id == x.id then { x with trailer := true, flags := fl, out := 1 } else y) ∧
        Only [.regs, .free, .trav, .recov, .out] s t ∧
        Sent s t (fun c => c.opcode.toNat = opWRI ∧ c.gfa = BitVec.ofNat 56 (s.ix * 2 ^ 46 + (b + x.info.trl) / 128 * 128) ∧
          slice c.payload ((b + x.info.trl) % 128 / 64 * 64) 64 = trailerOf x fl done))) ∧
      (s.jobDatum x.job = none → x.sender ≠ s.ix → Runs (.legWritesDone k d) s (fun t => t.trav.legs = s.trav.legs.filter (fun y => y.id != x.id) ∧
        Sent s t (fun c => c.opcode.toNat = opTRVR ∧ c.status = worse x.worst stAccessFault ∧ c.dst = BitVec.ofNat 17 (x.sender * 128)))))) ∧
  (∀ (s : State) (p : Packet), p.status.toNat < 12 →
    let k := nbits (trvW p) 3 0
    let m := p.src.toNat
    let after (x : Trav) : Trav := { x with reported := x.reported ++ [m] }
    ((∀ x, s.trav' k = some x → s.reports x (trvW p) m = false) → Runs (.trvr p) s (fun t => t = s)) ∧
    (∀ x, s.trav' k = some x → s.reports x (trvW p) m = true →
      (s.legOpen (after x) = true → Runs (.trvr p) s (fun t =>
        t.trav' k = some { after x with last := worse x.last p.status, released := x.released || nbits (trvW p) 63 32 == 1 } ∧
        OtherTravs s t k ∧ t.mem = s.mem ∧ t.out = s.out)) ∧
      (s.legOpen (after x) = false → x.goesOn = true → Runs (.trvr p) s (fun t => NextLeg s t k x)) ∧
      (s.legOpen (after x) = false → x.goesOn = false → Runs (.trvr p) s (fun t =>
        TravOver s t k x stOK (if x.state = 4 ∨ x.stops ≠ [] then 0x0D else 0))))) ∧
  (∀ (s : State) (k : Fin 16) (x : Trav), s.trav' k = some x →
    (x.nextFill = none → Runs (.runaheadFillStart k) s (fun t => t = s)) ∧
    (∀ g q, x.nextFill = some (g, q) → let l := x.entry g
      let room := decide (x.ringUsed g + legBytes l ≤ wbits x.header 7 31 0)
      let filling (t : State) (n : Nat) : Prop := ((t.trav' k).bind (fun y => y.fillOf g)).map (fun f => (f.reading, f.complete, f.left, f.squashes)) =
        some (true, false, n, q) ∧ OtherTravs s t k
      (room = false → Runs (.runaheadFillStart k) s (fun t => t = s)) ∧
      (room = true → legT2 l = false → Runs (.runaheadFillStart k) s (fun t => filling t (legPages l) ∧ t.mem = s.mem ∧
        ∀ i, i < legPages l → ∃ c, c ∈ t.out ∧ (c.opcode.toNat = opRDN ∨ c.opcode.toNat = opRDU) ∧
          c.gfa = BitVec.ofNat 56 (s.ix * 2 ^ 46 + legPageAt l i))) ∧
      (room = true → legT2 l = true → Runs (.runaheadFillStart k) s (fun t => filling t (if s.bit rTlStat 0 then 0 else legPages l) ∧ t.out = s.out ∧
        (s.bit rTlStat 0 = false → t.mem = s.mem))))) ∧
  (∀ (s : State) (k : Fin 16) (x : Trav) (l : BitVec 12), s.trav' k = some x → Runs (.runaheadFillDone k l) s (fun t =>
    t.trav' k = some { x with runahead := x.runahead.map (fun f => if f.gidx % x.count == l.toNat && f.reading && f.left == 0 then { f with complete := true } else f) } ∧
    OtherTravs s t k ∧ Only [.trav] s t)) ∧
  (∀ (s : State) (k : Fin 16) (x : Trav), s.trav' k = some x →
    let stalls := decide (wbits x.header 7 63 48 ≠ 0 ∧ x.state < 3) && !((s.legMembers x.cur).all (fun m => x.handed.contains m) && x.anchor.isSome)
    (stalls = true → Runs (.traverseStallTimeout k) s (fun t => TravOver s t k x stTimeout 0x0B)) ∧
    (stalls = false → Runs (.traverseStallTimeout k) s (fun t => t = s))) ∧
  (∀ (s : State) (k : Fin 16) (x : Trav) (i : Fin 32), s.trav' k = some x →
    let m := if wbits x.cur 5 32 32 == 1 then i * 32 + s.col else s.row * 32 + i
    let fails := decide (3 ≤ x.state) && (s.legMembers x.cur).contains m && !x.reported.contains m
    let after : Trav := { x with reported := x.reported ++ [m], handed := insertNew x.handed m }
    (fails = false → Runs (.legMemberTimeout k i) s (fun t => t = s)) ∧
    (fails = true → s.legOpen after = true → Runs (.legMemberTimeout k i) s (fun t => t.trav' k = some after ∧ OtherTravs s t k ∧ t.mem = s.mem ∧
      t.out = s.out)) ∧
    (fails = true → s.legOpen after = false → x.goesOn = true → Runs (.legMemberTimeout k i) s (fun t => NextLeg s t k x)) ∧
    (fails = true → s.legOpen after = false → x.goesOn = false → Runs (.legMemberTimeout k i) s (fun t =>
      TravOver s t k x stOK (if x.state = 4 ∨ x.stops ≠ [] then 0x0D else 0))))

namespace Sys2Proof.Machine

/-- A write of XC_CTL with GO reaches an idle coding engine (R334). -/
def State.xcIdle (s : State) (v : Word) : Bool := s.cfgOpen rXcCtl && v.getLsbD 0 && !s.bit rXcStat 0

/-- The addresses and the length that the engine is given do not fit the run (R335). -/
def State.xcBad (s : State) (v : Word) : Bool :=
  s.xcSrc % 0x1000 != 0 || (!v.getLsbD 1 && (s.xcDst % 0x1000 != 0 || s.xcBytes == 0 || s.xcBytes % 2 != 0 || decide (2 ^ 30 < s.xcBytes)))

/-- A write of XC_CTL: ignored on a page that takes no writes, without effect on a run without GO or while one goes on; a run that does not fit ends
with UNSUPPORTED, a VERIFY of nothing ends at once, and any other run starts with the read of its first source line (R334, R335). -/
def XcGo (cmd : Word → Instr) : Prop :=
  ∀ (s : State) (v : Word),
    (s.cfgOpen rXcCtl = false → Runs (cmd v) s (fun t => t = s)) ∧
    (s.cfgOpen rXcCtl = true → (v.getLsbD 0 = false ∨ s.bit rXcStat 0 = true) → Runs (cmd v) s (fun t =>
      t.fld rXcCtl 13 8 = nbits v.toNat 13 8 ∧ t.reg rXcStat = s.reg rXcStat ∧ Only [.regs, .seqs] s t)) ∧
    (s.xcIdle v = true → s.xcBad v = true → Runs (cmd v) s (fun t =>
      t.xc = some { verify := v.getLsbD 1, ended := true, status := stUnsupported } ∧ t.reg rXcStat = 1 ∧ Only [.regs, .seqs, .xc] s t)) ∧
    (s.xcIdle v = true → s.xcBad v = false → s.xcBytes ≠ 0 → Runs (cmd v) s (fun t => t.xc = some { verify := v.getLsbD 1 } ∧ t.reg rXcStat = 1 ∧
      Only [.regs, .seqs, .free, .xc, .recov, .out] s t ∧ Sent s t (fun c => (c.opcode.toNat = opRDN ∨ c.opcode.toNat = opRDU) ∧
        c.gfa = BitVec.ofNat 56 s.xcSrc ∧ c.len = 128 ∧ c.agent = agCompanion))) ∧
    (s.xcIdle v = true → s.xcBad v = false → s.xcBytes = 0 → Runs (cmd v) s (fun t =>
      t.xc.map (fun x => (x.verify, x.ended, x.status)) = some (true, true, stOK) ∧ t.reg rXcStat = 1 ∧ t.out = s.out))

/-- A write of MS_CTL with GO and this OP reaches a store unit that is not BUSY (R511, R513). -/
def State.msIdle (s : State) (v : Word) (op : Nat) : Bool := v.getLsbD 63 && nbits v.toNat 3 0 == op && !s.bit rMsCtl 61

/-- MS_CTL shows the end of its command. -/
abbrev State.msResult (s : State) (st : Status) (detail : Nat) : Prop :=
  s.fld rMsCtl 11 8 = st.toNat ∧ s.fld rMsCtl 23 16 = detail ∧ s.bit rMsCtl 62 = true ∧ s.bit rMsCtl 61 = false

/-- A command of MS_CTL ended with a status and a DETAIL, and nothing else changed. -/
def MsRefused (s t : State) (st : Status) (detail : Nat) : Prop := t.msResult st detail ∧ Only [.regs, .seqs] s t

/-- A write of MS_CTL: without GO it sets OP; with GO it is ignored while BUSY; a reserved OP ends with
UNSUPPORTED (R7, R513). -/
def MsGo (cmd : Word → Instr) : Prop :=
  ∀ (s : State) (v : Word),
    (v.getLsbD 63 = false → Runs (cmd v) s (fun t => t.fld rMsCtl 3 0 = nbits v.toNat 3 0 ∧
      t.bit rMsCtl 61 = s.bit rMsCtl 61 ∧ Only [.regs, .seqs] s t)) ∧
    (v.getLsbD 63 = true → s.bit rMsCtl 61 = true → Runs (cmd v) s (fun t => Only [.seqs] s t)) ∧
    (∀ op, (op = 0 ∨ 3 < op) → s.msIdle v op = true → Runs (cmd v) s (fun t => MsRefused s t stUnsupported 1))

/-- No security command waits for the store unit, and no clearance for its last store (R512). -/
def State.storeAlone (s : State) : Prop := s.sec.held = none ∧ ∀ c, s.sec.clearance = some c → c.ended = none

/-- At the end of a store or an image, with neither going on, a security command that waited runs, and else a clearance whose items ended ends. -/
def StoreFreed (s t : State) : Prop :=
  (s.sec.held ≠ none → t.sec.held = none) ∧ (∀ c, s.sec.held = none → s.sec.clearance = some c → c.ended ≠ none → t.sec.clearance = none)

end Sys2Proof.Machine

/-- A write of XC_CTL, by either command, with GO at an idle coding engine whose addresses and length fit starts its ENCODE or VERIFY with the read of the
first source line; one that does not fit ends with UNSUPPORTED; a busy engine goes on. The end of a run shows in XC_STAT. A write of MS_CTL, by
any of its three commands, is ignored while BUSY, and a reserved OP ends with UNSUPPORTED. LOAD copies the active copy into the staging buffer; STORE
and IMAGE begin when their checks pass and end with the failing check's status otherwise; STORE waits while firmware restarts. A store that reads
back makes its copy active, one that does not leaves it inactive with a bad CRC; an image set is whole or not; and what waited for the store unit
goes on. A staged word lies at the staging address, which advances with INC. A retrain is accepted only while the slice is disabled, and waits
while firmware restarts. -/
def Obligations.CodingEngineAndStore : Prop :=
  XcGo .xcEncode ∧ XcGo .xcVerify ∧ MsGo .msLoad ∧ MsGo .msStore ∧ MsGo .msImage ∧
  (∀ (s : State),
    (∀ x, s.xc = some x → x.ended = true → Runs .xcRunDone s (fun t => t.xc = none ∧ t.bit rXcStat 0 = false ∧ t.bit rXcStat 1 = true ∧
      t.fld rXcStat 5 2 = x.status.toNat ∧ t.fld rXcStat 63 32 = (if x.verify then 0 else 0x1000 * x.page) % 2 ^ 32 ∧
      (x.verify = true → t.fld rXcFirst 31 0 = x.damaged % 2 ^ 32) ∧ Only [.regs, .xc] s t)) ∧
    ((∀ x, s.xc = some x → x.ended = false) → Runs .xcRunDone s (fun t => t = s))) ∧
  (∀ (s : State) (v : Word), s.msIdle v 1 = true → Runs (.msLoad v) s (fun t =>
    t.boot = { s.boot with staging := memWrite [] 0 s.boot.active.image } ∧ t.msResult stOK 0 ∧ Only [.regs, .seqs, .boot] s t)) ∧
  (∀ (s : State) (v : Word), s.msIdle v 2 = true →
    (s.recov.restarting ≠ [] → Runs (.msStore v) s (fun t => t.recov = { s.recov with waiting := s.recov.waiting ++ [.msStore] } ∧
      t.bit rMsCtl 61 = true ∧ Only [.regs, .seqs, .recov] s t)) ∧
    (s.recov.restarting = [] → Runs (.msStore v) s (fun t => if s.stagedCrc ≠ s.fld rMsStgCrc 31 0 then MsRefused s t stUnsupported 1
      else if (s.refChanged && !Config.referenceOk (memRead s.boot.staging 0x7000 0x8000) s.sec.life.owner) = true then MsRefused s t stAccessFault 2
      else if 95000 ≤ s.boot.active.stores then MsRefused s t stQuota 3
      else t.boot = { s.boot with storing := some s.storedCopy } ∧ t.bit rMsCtl 61 = true ∧ Only [.regs, .seqs, .boot] s t))) ∧
  (∀ (s : State) (v : Word), s.msIdle v 3 = true →
    let g := s.fld rMsImg 55 0
    let a := g % 2 ^ 46
    let placed := decide (g / 2 ^ 46 = s.ix ∧ a + 0x2000000 ≤ t0End ∧ a % 0x1000 = 0)
    (placed = false → Runs (.msImage v) s (fun t => MsRefused s t stAccessFault 0)) ∧
    (placed = true → Runs (.msImage v) s (fun t => if s.anyPoison a 0x2000000 = true then MsRefused s t stPoison 0
      else if Config.imageSetOk (memRead s.mem.cells a 0x2000000) = false then MsRefused s t stAccessFault 2
      else t.boot = { s.boot with imaging := true, imageData := memPart s.mem.cells a 0x2000000 } ∧ t.bit rMsCtl 61 = true))) ∧
  (∀ (s : State) (ok : Bool),
    (s.boot.storing = none → Runs (.msStoreDone ok) s (fun t => t = s)) ∧
    (∀ c, s.boot.storing = some c → s.storeAlone → Runs (.msStoreDone ok) s (fun t => t.boot.storing = none ∧ t.boot.activeB = (s.boot.activeB != ok) ∧
      t.boot.active = (if ok then { c with crcOk := true } else s.boot.active) ∧
      (ok = false → (if s.boot.activeB then t.boot.a else t.boot.b) = { c with crcOk := false }) ∧
      (if ok then t.msResult stOK 0 else t.msResult stFatal 4) ∧ Only [.regs, .boot] s t)) ∧
    (∀ c, s.boot.storing = some c → s.boot.imaging = false → Runs (.msStoreDone ok) s (fun t => StoreFreed s t))) ∧
  (∀ (s : State) (ok : Bool),
    (s.boot.imaging = false → Runs (.msImageDone ok) s (fun t => t = s)) ∧
    (s.boot.imaging = true → s.storeAlone → Runs (.msImageDone ok) s (fun t => t.boot.imaging = false ∧
      (∀ i, i < 2 → kget t.boot.sets (2 * s.boot.spareSet + i) = some (if ok then some s.boot.imageData else none)) ∧
      t.boot.active = s.boot.active ∧ (if ok then t.msResult stOK 0 else t.msResult stFatal 4) ∧ Only [.regs, .boot] s t)) ∧
    (s.boot.imaging = true → s.boot.storing = none → Runs (.msImageDone ok) s (fun t => StoreFreed s t))) ∧
  (∀ (s : State) (v : Word), Runs (.msStgDataWrite v) s (fun t =>
    t.boot = { s.boot with staging := memWrite s.boot.staging s.stgOff (leBytes 8 v.toNat) } ∧
    t.fld rMsStgAddr 17 3 = (if s.bit rMsStgAddr 63 then (s.fld rMsStgAddr 17 3 + 1) % 2 ^ 15 else s.fld rMsStgAddr 17 3) ∧
    Only [.regs, .seqs, .boot] s t)) ∧
  (∀ (s : State) (r : SliceIx),
    (s.cfgOpen (rHbmCtl r) = false → Runs (.hbmRetrain r) s (fun t => t = s)) ∧
    (s.cfgOpen (rHbmCtl r) = true → s.recov.restarting ≠ [] → Runs (.hbmRetrain r) s (fun t =>
      t.recov = { s.recov with waiting := s.recov.waiting ++ [.hbmRetrain r] } ∧ Only [.seqs, .recov] s t)) ∧
    (s.cfgOpen (rHbmCtl r) = true → s.recov.restarting = [] → s.bit (rCadCtl r) 0 = false → Runs (.hbmRetrain r) s (fun t =>
      t.bit (rHbmStat r) 2 = true ∧ Only [.regs, .seqs] s t)) ∧
    (s.cfgOpen (rHbmCtl r) = true → s.recov.restarting = [] → s.bit (rCadCtl r) 0 = true → Runs (.hbmRetrain r) s (fun t => Only [.seqs] s t)))

/-- When the self-tests end, the sequence goes on with step 3: of two valid copies the one with the higher GEN is active, and copy A when their GEN is equal; of one valid copy
that one; with none the Tiolo holds with cause 0x1. A copy is valid when its MAGIC and its CRC match. -/
def Obligations.ActiveCopy : Prop :=
  (∀ (c : MsCopy), 
    (c.valid = true ↔ c.magicOk = true ∧ c.crcOk = true)) ∧
  (∀ (s : State) (k : KatResult), s.atPhase 2 = true → (s.boot.a.valid = true ∨ s.boot.b.valid = true) → 
    Runs (.selfTestsDone k) s (fun t => t.boot.a = s.boot.a ∧ t.boot.b = s.boot.b ∧
      (t.boot.activeB = true ↔ s.boot.b.valid = true ∧ (s.boot.a.valid = true → s.boot.a.gen < s.boot.b.gen)))) ∧
  (∀ (s : State) (k : KatResult), s.atPhase 2 = true → s.boot.a.valid = false → s.boot.b.valid = false → 
    Runs (.selfTestsDone k) s (fun t => t.bit rBootStat 4 = true ∧ t.fld rBootStat 11 8 = 1))

/-- While BOOT_STAT.FILARD is 0, a raise at the interrupt arbiter and a write of INT_MASK send no message. Every PEND bit that is set stays set; a
raise sets its own. -/
def Obligations.MessagesWaitForTheLink : Prop :=
  (∀ (s : State), s.bit rBootStat 5 = false → 
    Runs .interruptRaise s (fun t => t.mgmt.msgs = s.mgmt.msgs ∧ t.out = s.out ∧ (∀ j i, j < 32 → s.bit (rIntPend j) i = true → t.bit (rIntPend j) i = true) ∧
      (∀ r, s.mgmt.raises.head? = some r → t.bit (rIntPend (r.vector % 2048 / 64)) (r.vector % 64) = true))) ∧
  (∀ (s : State) (j : Fin 32) (v : Word), s.bit rBootStat 5 = false → 
    Runs (.intMaskWrite j v) s (fun t => t.mgmt.msgs = s.mgmt.msgs ∧ t.out = s.out ∧ (∀ k i, k < 32 → t.bit (rIntPend k) i = s.bit (rIntPend k) i)))

namespace Sys2Proof.Machine

/-- The vector's bit in the register of a bank (INT_PEND or INT_MASK) that holds it (R525). -/
abbrev State.vectorBit (s : State) (bank : Nat → Nat) (v : Nat) : Bool := s.bit (bank (v / 64)) (v % 64)

/-- The message of a vector that the interrupt arbiter's next event sends (R525). -/
def State.nextIrq (s : State) (v page : Nat) : IrqMsg :=
  { addr := s.fld rIntBase 51 15 * 0x8000 + 16 * v, vector := v, page, coalesced := kgetD s.mgmt.coalesced v 0, seq := s.seq aidIrq + 1 }

/-- The pending vectors of register j that a write of INT_MASK unmasks, in ascending order (R525). -/
def State.unmasked (s : State) (j : Nat) (v : Word) : List Nat :=
  ((List.range 64).filter (fun i => s.bit (rIntMask j) i && !v.getLsbD i && s.bit (rIntPend j) i)).map (fun i => 64 * j + i)

end Sys2Proof.Machine

/-- A raise of a vector that does not pend sets its PEND bit; unmasked, with messages enabled and the link up, it also sends the message, with a fresh
sequence number and what had been coalesced; masked, or with no message to be sent, it sends none. A raise of one that pends is counted. Every raise
is an event of the interrupt arbiter; with no raise waiting nothing happens. Writing ones clears PEND bits; a write of INT_MASK takes effect and sends
one message for each pending vector it unmasks, ascending, or none while messages are off. A page's error bits and counters are cleared. Each
write is ignored on a page that takes no writes, and a page number that names no page does nothing. The sideband, while ready, takes its address and
its enable. A power estimate joins its region's last 100, and the average is shown and judged; the tile frequency moves by at most one step of
100 MHz within 1.8 and 3.5 GHz; an average over the limit at the floor is recorded in the chip field book (with the book's own arbiter as SOURCE, the model's choice, log 218), and no
other; temperatures show with their peak. -/
def Obligations.ManagementEvents : Prop :=
  (∀ (s : State), s.mgmt.raises = [] → Runs .interruptRaise s (fun t => t = s)) ∧
  (∀ (s : State) (r : Raise) (l : List Raise) (v : Nat), s.mgmt.raises = r :: l → v = r.vector % 2048 →
    (s.vectorBit rIntPend v = true → Runs .interruptRaise s (fun t => kgetD t.mgmt.coalesced v 0 = kgetD s.mgmt.coalesced v 0 + 1 ∧
      t.mgmt.msgs = s.mgmt.msgs ∧ t.mgmt.raises = l ∧ t.vectorBit rIntPend v = true ∧ t.seq aidIrq = s.seq aidIrq + 1 ∧ Only [.regs, .seqs, .mgmt] s t)) ∧
    (s.vectorBit rIntPend v = false → (s.vectorBit rIntMask v = true ∨ s.irqOpen = false) → Runs .interruptRaise s (fun t =>
      t.vectorBit rIntPend v = true ∧ t.mgmt.msgs = s.mgmt.msgs ∧ t.mgmt.coalesced = s.mgmt.coalesced ∧ t.mgmt.raises = l ∧
      t.seq aidIrq = s.seq aidIrq + 1 ∧ Only [.regs, .seqs, .mgmt] s t)) ∧
    (s.vectorBit rIntPend v = false → s.vectorBit rIntMask v = false → s.irqOpen = true → Runs .interruptRaise s (fun t =>
      t.vectorBit rIntPend v = true ∧ t.mgmt.msgs = s.mgmt.msgs ++ [s.nextIrq v r.page] ∧ kgetD t.mgmt.coalesced v 0 = 0 ∧ t.mgmt.raises = l ∧
      t.seq aidIrq = s.seq aidIrq + 1 ∧ Only [.regs, .seqs, .mgmt] s t))) ∧
  (∀ (s : State) (j : Fin 32) (v : Word),
    (s.cfgOpen (rIntPend j) = false → Runs (.intPendClear j v) s (fun t => t = s)) ∧
    (s.cfgOpen (rIntPend j) = true → Runs (.intPendClear j v) s (fun t => (∀ i, i < 64 → t.bit (rIntPend j) i = (s.bit (rIntPend j) i && !v.getLsbD i)) ∧
      (∀ c, c ≠ rIntPend j → t.reg c = s.reg c) ∧ Only [.regs, .seqs] s t))) ∧
  (∀ (s : State) (j : Fin 32) (v : Word),
    (s.cfgOpen (rIntMask j) = false → Runs (.intMaskWrite j v) s (fun t => t = s)) ∧
    (s.cfgOpen (rIntMask j) = true → s.irqOpen = false → Runs (.intMaskWrite j v) s (fun t => t.reg (rIntMask j) = v.toNat ∧
      (∀ c, c ≠ rIntMask j → t.reg c = s.reg c) ∧ Only [.regs, .seqs] s t)) ∧
    (s.cfgOpen (rIntMask j) = true → s.irqOpen = true → Runs (.intMaskWrite j v) s (fun t => t.reg (rIntMask j) = v.toNat ∧
      t.mgmt.msgs.map (fun m => (m.vector, m.coalesced, m.addr)) = s.mgmt.msgs.map (fun m => (m.vector, m.coalesced, m.addr)) ++
        (s.unmasked j v).map (fun n => (n, kgetD s.mgmt.coalesced n 0, s.fld rIntBase 51 15 * 0x8000 + 16 * n)) ∧
      t.seq aidIrq = s.seq aidIrq + (s.unmasked j v).length ∧ (∀ i, i < 64 → t.bit (rIntPend j) i = s.bit (rIntPend j) i) ∧ Only [.regs, .seqs, .mgmt] s t))) ∧
  (∀ (s : State) (p : BitVec 12) (v : Word),
    (pageBase p = none → Runs (.errSumClear p v) s (fun t => t = s)) ∧
    (∀ b, pageBase p = some b → s.cfgOpen (rPgErrSum b) = false → Runs (.errSumClear p v) s (fun t => t = s)) ∧
    (∀ b, pageBase p = some b → s.cfgOpen (rPgErrSum b) = true → Runs (.errSumClear p v) s (fun t =>
      (∀ i, i < 64 → t.bit (rPgErrSum b) i = (s.bit (rPgErrSum b) i && !(v.getLsbD i && nbit errSumMask i))) ∧
      (∀ c, c ≠ rPgErrSum b → t.reg c = s.reg c) ∧ Only [.regs, .seqs] s t))) ∧
  (∀ (s : State) (p : BitVec 12),
    (pageBase p = none → Runs (.counterClear p) s (fun t => t = s)) ∧
    (∀ b, pageBase p = some b → s.cfgOpen (rPgCtl b) = false → Runs (.counterClear p) s (fun t => t = s)) ∧
    (∀ b, pageBase p = some b → s.cfgOpen (rPgCtl b) = true → Runs (.counterClear p) s (fun t => (∀ k, k < 24 → t.reg (rPgCnt b k) = 0) ∧
      (∀ c, (c < rPgCnt b 0 ∨ rPgCnt b 23 < c) → t.reg c = s.reg c) ∧ Only [.regs, .seqs] s t))) ∧
  (∀ (s : State) (a : BitVec 7), Runs (.i3cDynamicAddress a) s (fun t =>
    t.mgmt = (if s.i3cReady then { s.mgmt with dynAddr := some a } else s.mgmt) ∧ Only [.mgmt] s t)) ∧
  (∀ (s : State) (b : Bool), Runs (.i3cIbiDisable b) s (fun t =>
    t.mgmt = (if s.i3cReady then { s.mgmt with ibiDisabled := b } else s.mgmt) ∧ Only [.mgmt] s t)) ∧
  (∀ (s : State) (r : SliceIx) (w : Nat),
    Runs (.powerEstimate r w) s (fun t => kgetD t.mgmt.power r [] = (w :: kgetD s.mgmt.power r []).take 100 ∧
      (∀ q, q ≠ r.val → kgetD t.mgmt.power q [] = kgetD s.mgmt.power q []) ∧ t.fld rChipPwr 27 16 = min 4095 t.avgPower ∧
      t.mgmt.belowAll = (s.mgmt.belowAll && decide (100 * t.powerSum.1 ≤ 95 * s.powerLimit * t.powerSum.2)) ∧
      (∀ c, c ≠ rChipPwr → t.reg c = s.reg c) ∧ Only [.regs, .mgmt] s t)) ∧
  (∀ (s : State) (g : Nat), g = (if s.overLimit then max 18 (s.tileFreq 0 - 1) else if s.mgmt.belowAll then min 35 (s.tileFreq 0 + 1) else s.tileFreq 0) →
    Runs .tileFreqStep s (fun t => (∀ n, n < 16 → t.tileFreq n = g) ∧ t.bit rChipPwr 28 = decide (g < 35) ∧ t.bit rChipPwr 29 = (g == 18) ∧
      t.mgmt = { s.mgmt with belowAll := decide (100 * s.powerSum.1 ≤ 95 * s.powerLimit * s.powerSum.2) } ∧ Only [.regs, .mgmt] s t)) ∧
  (∀ (s : State),
    ((s.bit rChipPwr 29 = false ∨ s.overLimit = false) → Runs .powerFloorEvent s (fun t => t = s)) ∧
    (s.bit rChipPwr 29 = true → s.overLimit = true → Runs .powerFloorEvent s (fun t =>
      ((t.book 20).queue).map (fun r => (r.cls, r.source, r.data)) =
        (s.book 20).queue.map (fun r => (r.cls, r.source, r.data)) ++ [(clsPower, BitVec.ofNat 16 (aidChip 0x3F0), BitVec.ofNat 128 s.avgPower)] ∧
      Only [.regs, .seqs, .mgmt, .recov] s t))) ∧
  (∀ (s : State) (l : List (BitVec 8)),
    Runs (.tempUpdate l) s (fun t => (∀ r, r < 4 → t.fld rChipTemp (8 * r + 7) (8 * r) = (l.getD r 0).toNat) ∧
      (∀ r, r < 4 → (l.getD r 0).toInt ≤ signed8 (t.fld rChipTemp 39 32)) ∧ signed8 (s.fld rChipTemp 39 32) ≤ signed8 (t.fld rChipTemp 39 32) ∧
      (t.fld rChipTemp 39 32 = s.fld rChipTemp 39 32 ∨ ∃ r, r < 4 ∧ t.fld rChipTemp 39 32 = (l.getD r 0).toNat) ∧
      (∀ c, c ≠ rChipTemp → t.reg c = s.reg c) ∧ Only [.regs] s t))

namespace Sys2Proof.Machine

/-- What a cold or a warm reset leaves: every part is in its reset state but the stores, the fuses, flash, the pins, what names them, and the
commands that wait. The store loses the copy that was being written, flash what was half done, the security unit everything but its life and a
clearance under way; a new nonce is drawn. -/
def KeptByReset (s t : State) : Prop :=
  Only [.pending, .free, .regs, .tier, .sec, .nonce, .boot, .mgmt] State.reset t ∧ t.pending = s.pending ∧
  t.tier = { objs := s.flashCut.tier.objs, units := s.flashCut.tier.units, blocks := s.flashCut.tier.blocks, formatted := s.flashCut.tier.formatted } ∧
  t.sec = { life := s.sec.life, drawn := s.sec.drawn + 1, mr := t.sec.mr,
            clearance := if s.sec.life.clearing then s.sec.clearance.map (fun c => { c with ended := none }) else none } ∧
  t.nonce = Config.drbg s.sec.drawn ∧
  t.boot = s.boot.cut ∧ t.mgmt.staticAddr = s.mgmt.staticAddr ∧ t.mgmt.lsPres = s.mgmt.lsPres ∧ t.mgmt.dynAddr = none

/-- A cold reset, of whatever cause: every register holds its reset value, so that the sequence has not begun. -/
def ColdState (s t : State) : Prop := KeptByReset s t ∧ t.regs = []

/-- A warm reset: before step 2 the sequence stays where it is, and from then on it runs again from step 2, with RST_CTL's LAST 1. -/
def WarmState (s t : State) : Prop :=
  KeptByReset s t ∧ t.phase = min s.phase 2 ∧ t.fld rRstCtl 34 32 = 1 ∧ ∀ c, c ≠ rBootStat → c ≠ rRstCtl → t.reg c = State.reset.reg c

/-- A partial reset shows: the unit is in reset, RST_CTL shows BUSY and the kind. -/
abbrev State.partialShown (s : State) (unit kind : Nat) : Prop :=
  s.boot.inReset.contains unit = true ∧ s.bit rRstCtl 35 = true ∧ s.fld rRstCtl 34 32 = kind

/-- Block n is down: its tiles are empty and its ports down with cause 0x0D. -/
abbrev State.blockEmpty (s : State) (n : Nat) : Prop :=
  (∀ i, i < 16 → s.tile (16 * n + i) = {}) ∧ (∀ i, i < 8 → s.portState (8 * n + i) = 0 ∧ s.fld (rPortStat (8 * n + i)) 15 8 = 0x0D)

/-- The blocks and the regions that a write of RST_CTL resets. -/
abbrev rstUnits (v : Word) : List Nat :=
  ((List.range 4).filter (fun r => r != 0 && v.getLsbD r)).map (16 + ·) ++ (List.range 16).filter (fun n => v.getLsbD (16 + n))

end Sys2Proof.Machine

/-- A stack that fails reads as POISON from then on, and fails once. A cold reset, a lost reference and a thermal trip leave every part in its reset
state but the stores, fuses, flash, pins and waiting commands; the end of a cold reset and of a lost reference starts step 1 when nothing else
holds the sequence, and the lock of the PLLs step 2. A warm reset, by RST_CTL or by the sideband, does so from step 2 on and is ignored in reset-hold.
Any other sideband value is ignored, and a sideband that is not ready too. A region or block reset marks its unit, shows BUSY and its kind, and leaves a
block's tiles empty and its ports down with cause 0x0D; so does a write of RST_CTL that names them. A write while a partial reset
runs is ignored unless it is WARM; region 0 has no reset of its own. A page that takes no writes ignores each of them. -/
def Obligations.Resets : Prop :=
  (∀ (s : State) (r : SliceIx),
    (s.mem.failed.contains r.val = true → Runs (.hbmStackFail r) s (fun t => t = s)) ∧
    (s.mem.failed.contains r.val = false → Runs (.hbmStackFail r) s (fun t => t.mem.failed = s.mem.failed ++ [r.val] ∧
      (∀ a, a < t0End → t0Stack a = r → t.poisoned a = true)))) ∧
  (∀ (s : State) (w : ColdCause), Runs (.coldReset w) s (fun t => ColdState s t ∧ t.mgmt.refLost = s.mgmt.refLost ∧
    t.mgmt.coldRst = (s.mgmt.coldRst || w == .rstLow) ∧ t.mgmt.pwrOk = (s.mgmt.pwrOk && w != .pwrOkLow) ∧
    t.mgmt.thermtrip = (s.mgmt.thermtrip && w != .rstLow))) ∧
  (∀ (s : State) (k : BitVec 2), let m : Mgmt := { s.mgmt with coldRst := false, pwrOk := true, staticAddr := BitVec.ofNat 7 (0x30 + k.toNat) }
    (s.mgmt.coldRst = false → s.mgmt.pwrOk = true → Runs (.coldResetRelease k) s (fun t => t = s)) ∧
    ((s.mgmt.coldRst = true ∨ s.mgmt.pwrOk = false) → s.mgmt.refLost = [] → s.mgmt.thermtrip = false →
      Runs (.coldResetRelease k) s (fun t => t.phase = 1 ∧ t.mgmt = m ∧ Only [.regs, .mgmt] s t)) ∧
    ((s.mgmt.coldRst = true ∨ s.mgmt.pwrOk = false) → (s.mgmt.refLost ≠ [] ∨ s.mgmt.thermtrip = true) →
      Runs (.coldResetRelease k) s (fun t => t.mgmt = m ∧ Only [.mgmt] s t))) ∧
  (∀ (s : State),
    (s.phase = 1 → Runs .pllLock s (fun t => t.phase = 2 ∧
      t.measured 0 = Config.sha3 (leBytes 32 (s.measured 0).toNat ++ leBytes 32 Config.romDigest.toNat) ∧
      (∀ k, 0 < k → k < 8 → t.measured k = s.measured k) ∧ Only [.regs, .sec] s t)) ∧
    (s.phase ≠ 1 → Runs .pllLock s (fun t => t = s))) ∧
  (∀ (s : State) (v : Word),
    (s.cfgOpen rRstCtl = false → Runs (.warmReset v) s (fun t => t = s)) ∧
    (s.cfgOpen rRstCtl = true → v.getLsbD 0 = true → s.bit rBootStat 4 = false → Runs (.warmReset v) s (fun t => WarmState s t)) ∧
    (s.cfgOpen rRstCtl = true → v.getLsbD 0 = true → s.bit rBootStat 4 = true → Runs (.warmReset v) s (fun t => Only [.seqs] s t)) ∧
    (s.cfgOpen rRstCtl = true → v.getLsbD 0 = false → (s.bit rRstCtl 35 = true ∨ rstUnits v = []) → Runs (.warmReset v) s (fun t => Only [.seqs] s t)) ∧
    (s.cfgOpen rRstCtl = true → v.getLsbD 0 = false → s.bit rRstCtl 35 = false → rstUnits v ≠ [] → Runs (.warmReset v) s (fun t =>
      ∀ u, u ∈ rstUnits v → t.partialShown u (if (rstUnits v).any (· < 16) then 3 else 2) ∧ (u < 16 → t.blockEmpty u)))) ∧
  (∀ (s : State) (r : SliceIx),
    (s.cfgOpen rRstCtl = false → Runs (.regionReset r) s (fun t => t = s)) ∧
    (s.cfgOpen rRstCtl = true → (s.bit rRstCtl 35 = true ∨ r.val = 0) → Runs (.regionReset r) s (fun t => Only [.seqs] s t)) ∧
    (s.cfgOpen rRstCtl = true → s.bit rRstCtl 35 = false → r.val ≠ 0 → Runs (.regionReset r) s (fun t => t.partialShown (16 + r) 2 ∧
      t.bit (rHbmStat r) 2 = true ∧ (∀ i, i < 4 → t.blockEmpty (4 * r + i))))) ∧
  (∀ (s : State) (n : BlockIx),
    (s.cfgOpen rRstCtl = false → Runs (.blockReset n) s (fun t => t = s)) ∧
    (s.cfgOpen rRstCtl = true → s.bit rRstCtl 35 = true → Runs (.blockReset n) s (fun t => Only [.seqs] s t)) ∧
    (s.cfgOpen rRstCtl = true → s.bit rRstCtl 35 = false → Runs (.blockReset n) s (fun t => t.partialShown n 3 ∧ t.blockEmpty n))) ∧
  (∀ (s : State) (r : SliceIx), Runs (.refclkLoss r) s (fun t => ColdState s t ∧ t.mgmt.refLost = insertNew s.mgmt.refLost r.val ∧
    t.mgmt.coldRst = s.mgmt.coldRst ∧ t.mgmt.pwrOk = s.mgmt.pwrOk ∧ t.mgmt.thermtrip = s.mgmt.thermtrip)) ∧
  (∀ (s : State), let free := s.mgmt.pwrOk && !s.mgmt.coldRst && !s.mgmt.thermtrip
    (s.mgmt.refLost = [] → Runs .refclkRestored s (fun t => t = s)) ∧
    (s.mgmt.refLost ≠ [] → free = true → Runs .refclkRestored s (fun t => t.phase = 1 ∧ t.mgmt = { s.mgmt with refLost := [] } ∧ Only [.regs, .mgmt] s t)) ∧
    (s.mgmt.refLost ≠ [] → free = false → Runs .refclkRestored s (fun t => t.mgmt = { s.mgmt with refLost := [] } ∧ Only [.mgmt] s t))) ∧
  (∀ (s : State), Runs .thermtrip s (fun t => ColdState s t ∧ t.mgmt.thermtrip = true ∧ t.mgmt.refLost = s.mgmt.refLost ∧
    t.mgmt.coldRst = s.mgmt.coldRst ∧ t.mgmt.pwrOk = s.mgmt.pwrOk)) ∧
  (∀ (s : State) (v : Word),
    ((s.i3cReady = false ∨ v ≠ 0x57524D5A ∨ s.bit rBootStat 4 = true) → Runs (.i3cWarm v) s (fun t => t = s)) ∧
    (s.i3cReady = true → v = 0x57524D5A → s.bit rBootStat 4 = false → Runs (.i3cWarm v) s (fun t => WarmState s t)))

namespace Sys2Proof.Machine

/-- A record as book b would write it now: its own AID and next number, the time, and the records lost since the last one written (R469, R472). -/
def State.stamped (s : State) (b : Nat) (r : Rec) : Rec :=
  { r with book := BitVec.ofNat 16 (aidBook b), bookSeq := s.seq (aidBook b) + 1, cycle := s.freeNat 48, lost := (s.book b).lostSince }

/-- Book b has produced a record: with room it is written, HEAD advances and its page raises; with none it is lost and counted; either way a
severity of at least ESC_MIN, or class FATAL, puts a copy with ESC before the book of the next level (R472, R473). -/
def Produced (s t : State) (b : Nat) (r : Rec) : Prop :=
  (s.unread b < bookCap b → (t.book b).recs = lastN (bookCap b) ((s.book b).recs ++ [s.stamped b r]) ∧ (t.book b).lostSince = 0 ∧
    t.fld (rFbHead (pgBook b)) 31 0 = (s.fld (rFbHead (pgBook b)) 31 0 + 1) % 2 ^ 32) ∧
  (bookCap b ≤ s.unread b → (t.book b).recs = (s.book b).recs ∧ (t.book b).lostSince = (s.book b).lostSince + 1 ∧
    t.fld (rFbHead (pgBook b)) 63 32 = (s.fld (rFbHead (pgBook b)) 63 32 + 1) % 2 ^ 32) ∧
  (∀ u, bookUp b = some u → (t.book u).queue = (s.book u).queue ++
    (if s.fld (rFbCtl (pgBook b)) 1 0 ≤ r.severity.toNat ∨ r.cls = clsFatal then [{ s.stamped b r with esc := true, last := false }] else [])) ∧
  Only [.regs, .seqs, .free, .recov, .mgmt] s t

/-- A pair's entry of a book. -/
def Coal.of (c : Coal) (cls : BitVec 8) (source : BitVec 16) : Bool := c.cls == cls && c.source == source

/-- The events that a book adds to the queue of another book while this happens are one record of a class and a source. -/
def Reported (s t : State) (b : Nat) (cls : BitVec 8) (source : Nat) (data : Nat) : Prop :=
  (t.book b).queue.map (fun r => (r.cls, r.source, r.data)) =
    (s.book b).queue.map (fun r => (r.cls, r.source, r.data)) ++ [(cls, BitVec.ofNat 16 source, BitVec.ofNat 128 data)]

/-- The next move to the spill ring may go: it is enabled, not full, and no write of it is in flight (R387, R474). -/
def State.maySpill (s : State) : Bool :=
  s.bit rFbSpill 63 && !s.recov.spilling &&
  decide ((s.fld rFbSpillHead 31 0 + 2 ^ 32 - s.fld rFbSpillTail 31 0) % 2 ^ 32 < ringSize (s.reg rFbSpill) 10)

/-- How many records lie between a book's HEAD and a value for its TAIL. -/
abbrev State.behindHead (s : State) (b : Nat) (v : Word) : Nat := (s.fld (rFbHead (pgBook b)) 31 0 + 2 ^ 32 - v.toNat % 2 ^ 32) % 2 ^ 32

end Sys2Proof.Machine

/-- The oldest event that waits at a book: one whose pair has an open entry is counted there; another one opens an entry and leaves a FIRST record, the entry
that opened earliest closing first where all are taken; with no event waiting nothing happens. A closing entry that counted leaves a LAST record, another one none, and a pair
without an entry changes nothing. A record with room is written, HEAD advancing, and one without is lost and counted; either way ESC_MIN or class
FATAL sends a copy to the next book. TAIL takes a value from HEAD − capacity to HEAD, and no other, and none on a page that takes no writes. The chip
book's oldest record is written to the ring while that is enabled and has room and no other write is in flight; the write's completion with OK advances TAIL and the ring's HEAD, and one that fails leaves both. A core
that expires restarts and is recorded. A lost companion processor shows and is recorded, and its agent is dead in every slice; its beat ends that at once, or once no sweep runs. -/
def Obligations.FieldBooks : Prop :=
  (∀ (s : State) (b : BookIx), (s.book (bookNo b)).queue = [] → Runs (.fieldBookEvent b) s (fun t => t = s)) ∧
  (∀ (s : State) (b : BookIx) (e : Rec) (l : List Rec), (s.book (bookNo b)).queue = e :: l →
    let k := s.book (bookNo b)
    let waits (o : List Coal) : State := s.setBook (bookNo b) { k with queue := l, open' := o }
    (∀ c, k.open'.find? (fun c => c.of e.cls e.source) = some c → Runs (.fieldBookEvent b) s (fun t =>
      t.book (bookNo b) = { k with queue := l, open' := k.open'.map (fun d => if d.of c.cls c.source then { d with count := d.count + e.count, latest := e } else d) } ∧
      Only [.regs, .recov] s t)) ∧
    (k.open'.any (fun c => c.of e.cls e.source) = false → k.open'.length < bookEntries (bookNo b) → Runs (.fieldBookEvent b) s (fun t =>
      (t.book (bookNo b)).queue = l ∧ (t.book (bookNo b)).open' = k.open' ++ [{ cls := e.cls, source := e.source, latest := e }] ∧
      Produced (waits k.open') t (bookNo b) e)) ∧
    (k.open'.any (fun c => c.of e.cls e.source) = false → ∀ c o, k.open' = c :: o → bookEntries (bookNo b) ≤ k.open'.length →
      Runs (.fieldBookEvent b) s (fun t => (t.book (bookNo b)).queue = l ∧
        (t.book (bookNo b)).open' = k.open'.filter (fun d => !d.of c.cls c.source) ++ [{ cls := e.cls, source := e.source, latest := e }] ∧
        (c.count = 0 → Produced (waits (k.open'.filter (fun d => !d.of c.cls c.source))) t (bookNo b) e) ∧
        (c.count ≠ 0 → s.unread (bookNo b) + 1 < bookCap (bookNo b) →
          (t.book (bookNo b)).recs.map (fun r => (r.cls, r.source, r.data, r.count, r.last)) = lastN (bookCap (bookNo b))
            (k.recs.map (fun r => (r.cls, r.source, r.data, r.count, r.last)) ++
              [(c.latest.cls, c.latest.source, c.latest.data, c.count, true), (e.cls, e.source, e.data, e.count, e.last)]))))) ∧
  (∀ (s : State) (b : BookIx) (x : BitVec 8) (y : BitVec 16),
    let k := s.book (bookNo b)
    (k.open'.any (fun c => c.of x y) = false → Runs (.coalesceClose b x y) s (fun t => t = s)) ∧
    (∀ c, k.open'.find? (fun c => c.of x y) = some c →
      let closed : State := s.setBook (bookNo b) { k with open' := k.open'.filter (fun e => !e.of c.cls c.source) }
      (c.count = 0 → Runs (.coalesceClose b x y) s (fun t => t = closed)) ∧
      (c.count ≠ 0 → Runs (.coalesceClose b x y) s (fun t =>
        (t.book (bookNo b)).open' = (closed.book (bookNo b)).open' ∧ Produced closed t (bookNo b) { c.latest with last := true, count := c.count })))) ∧
  (∀ (s : State) (b : BookIx) (v : Word),
    (s.cfgOpen (rFbTail (pgBook (bookNo b))) = false → Runs (.fbTailWrite b v) s (fun t => t = s)) ∧
    (s.cfgOpen (rFbTail (pgBook (bookNo b))) = true → s.behindHead (bookNo b) v ≤ (s.book (bookNo b)).recs.length →
      Runs (.fbTailWrite b v) s (fun t => t.fld (rFbTail (pgBook (bookNo b))) 31 0 = v.toNat % 2 ^ 32 ∧ Only [.regs, .seqs] s t)) ∧
    (s.cfgOpen (rFbTail (pgBook (bookNo b))) = true → (s.book (bookNo b)).recs.length < s.behindHead (bookNo b) v →
      Runs (.fbTailWrite b v) s (fun t => Only [.seqs] s t))) ∧
  (∀ (s : State),
    ((lastN (s.unread 20) (s.book 20).recs = [] ∨ s.maySpill = false ∨ s.jobOf (nbits (s.reg rFbSpill) 61 56) = none) → Runs .spillMove s (fun t => t = s)) ∧
    (∀ r l j, lastN (s.unread 20) (s.book 20).recs = r :: l → s.maySpill = true → s.jobOf (nbits (s.reg rFbSpill) 61 56) = some j →
      Runs .spillMove s (fun t => t.recov.spilling = true ∧ t.recov.books = s.recov.books ∧ Only [.recov, .out] s t ∧
        Sent s t (fun c => c.opcode.toNat = opWRI ∧ c.payload = r.bytes 0 ∧ c.job = BitVec.ofNat 16 j ∧ c.len = 64 ∧ c.tid = 0xFFFD ∧
          c.gfa = BitVec.ofNat 56 (s.ix * 2 ^ 46 + nbits (s.reg rFbSpill) 45 12 * 0x1000 + s.fld rFbSpillHead 31 0 % ringSize (s.reg rFbSpill) 10 * 64) ∧
          t.recov.trackers = s.recov.trackers ++ [{ req := c, purpose := .spill, dest := gfaHome c.gfa }])))) ∧
  (∀ (s : State) (c : Packet) (x : Tracker), s.proxyTxn c = none → s.trackerFor c = some x → x.purpose = .spill →
    (c.status = stOK → s.bit rFbSpillTail 48 = false → Runs (.cmp c) s (fun t => t.recov.spilling = false ∧ t.recov.books = s.recov.books ∧
      t.fld (rFbTail pgFb) 31 0 = (s.fld (rFbTail pgFb) 31 0 + 1) % 2 ^ 32 ∧ t.fld rFbSpillHead 31 0 = (s.fld rFbSpillHead 31 0 + 1) % 2 ^ 32 ∧
      Only [.regs, .recov] s t)) ∧
    (c.status ≠ stOK → Runs (.cmp c) s (fun t => t.recov.spilling = false ∧ t.recov.books = s.recov.books ∧ Only [.recov, .free] s t))) ∧
  (∀ (s : State) (k : Fin 16), Runs (.mgmtWatchdogExpiry k) s (fun t => t.bit rFbMwdog (16 + k) = true ∧ t.recov.restarting = insertNew s.recov.restarting k.val ∧
    Reported s t 20 clsWatchdog aidChipBook k ∧ Only [.regs, .seqs, .recov, .mgmt] s t)) ∧
  (∀ (s : State) (v : Word),
    let set (t : State) : Prop := t.fld rFbHb 15 8 = nbits v.toNat 15 8 ∧ t.fld rFbHb 19 16 = nbits v.toNat 19 16
    ((v.getLsbD 0 = false ∨ s.bit rFbHb 32 = false) → Runs (.heartbeat v) s (fun t => set t ∧
      t.bit rFbHb 32 = s.bit rFbHb 32 ∧ Only [.regs, .seqs] s t)) ∧
    (v.getLsbD 0 = true → s.bit rFbHb 32 = true → s.sweepBusy = true → Runs (.heartbeat v) s (fun t => set t ∧
      t.bit rFbHb 32 = true ∧ t.recov = { s.recov with beatDue := true } ∧ Only [.regs, .seqs, .recov] s t)) ∧
    (v.getLsbD 0 = true → s.bit rFbHb 32 = true → s.sweepBusy = false → Runs (.heartbeat v) s (fun t => set t ∧
      t.bit rFbHb 32 = false ∧ t.recov.beatDue = false ∧ Reported s t 20 clsCompanion aidChipBook 1 ∧ Only [.regs, .seqs, .recov, .mgmt] s t))) ∧
  (∀ (s : State),
    (s.bit rFbHb 32 = true → Runs .companionLost s (fun t => t = s)) ∧
    (s.bit rFbHb 32 = false → (s.cadSlice 0).sweeping.contains 32 = true → Runs .companionLost s (fun t => t.bit rFbHb 32 = true ∧
      Reported s t 20 clsCompanion aidChipBook 0 ∧ Only [.regs, .seqs, .recov, .mgmt] s t)) ∧
    (s.bit rFbHb 32 = false → (s.cadSlice 0).sweeping.contains 32 = false → Runs .companionLost s (fun t => t.bit rFbHb 32 = true ∧
      ∀ m, m < 4 → t.bit (rCadDead m) 32 = true ∧ t.bit (rCadDead m) 63 = true ∧ 32 ∈ (t.cadSlice m).sweeping)))

namespace Sys2Proof.Machine

/-- The mirror write of an operation's state page on a column, with its COMMIT and INTENT (R457, R458). -/
def Mirrors (s : State) (o : TwinOp) (col : Nat) (commit intent : Bool) (q : Packet) : Prop :=
  q.opcode.toNat = opWRN ∧ q.ord = true ∧ q.agent = o.agent ∧ q.job = o.job ∧ q.gfa = s.twinPage o.parcel col o.page ∧
  q.payload.take 64 = ownRecord o commit intent

/-- The twinned operation stands down: it is forgotten, without a packet, a store or a release, and a TWIN record names it (R461). -/
def StoodDown (s t : State) (o : TwinOp) (owner gen : Nat) : Prop :=
  t.recov.ops = s.recov.ops.filter (fun q => !q.same o) ∧
  Reported s t 20 clsTwin aidChipBook (o.kind.toNat + o.opref.toNat * 2 ^ 32 + s.ix * 2 ^ 64 + owner * 2 ^ 80 + gen * 2 ^ 96) ∧
  t.out = s.out ∧ t.mem = s.mem ∧ t.stk = s.stk

/-- The answer to a mirror write: its generation and MSEQ, written into the sender's sub-area for this column where a parcel binds its job (R458). -/
def MirrorAnswered (s t : State) (col page : Nat) (job : BitVec 16) (gen : Nat) (mseq : Word) : Prop :=
  match s.parcelOf job.toNat with
  | none => t.out = s.out
  | some n => Sent s t (fun q => q.opcode.toNat = opWRN ∧ q.payload = leBytes 8 gen ++ leBytes 8 mseq.toNat ∧ q.job = job ∧
      q.gfa = BitVec.ofNat 56 (areaGfa (s.twinArea n col) + areaSub (s.twinArea n col) * s.col + 0x1000 * page))

/-- The copies of a column whose owner may still be declared lost. -/
def TwinCol.live (x : TwinCol) : List TwinCopy := x.copies.filter (fun c => !c.claimed)

/-- A claimed copy: this Tiolo owns it under the next GEN (R460 step 2). -/
def TwinCopy.taken (c : TwinCopy) (ix : Nat) : TwinCopy :=
  { c with claimed := true, rec' := { c.rec' with gen := c.rec'.gen + 1, owner := BitVec.ofNat 10 ix } }

/-- The copies after the owner of column c was declared lost: the committed ones are claimed, the others are gone; the parcels of those are degraded. -/
def Claimed (s t : State) (c : Nat) : Prop :=
  (t.twinCol c).fencing = true ∧
  (t.twinCol c).copies = (s.twinCol c).copies.filter (fun x => x.claimed) ++ ((s.twinCol c).live.filter (fun x => x.rec'.commit)).map (fun x => x.taken s.ix) ∧
  (∀ x ∈ (s.twinCol c).live, x.rec'.commit = false → ∀ n, s.parcelOf x.rec'.job.toNat = some n → s.pclState n = 2 → t.pclState n = 4) ∧
  Only [.regs, .seqs, .recov, .mgmt, .parcels] s t

/-- What an idempotent reissue of a pending action sends from here towards the Tiolo of the old owner, or to the destinations of a leg again (R460 step 5). -/
def Reissues (s t : State) (old : Nat) (m : TwinRecord) : TwinAct → Prop
  | .releaseSet n v => ∃ q ∈ t.out, q.opcode.toNat = opSSET ∧ q.gfa = BitVec.ofNat 56 (old * 2 ^ 46 + (stakeBase + 64 * n)) ∧ q.payload = leBytes 8 v.toNat ∧ q.job = m.job
  | .slotLines n off _ _ d => ∃ q ∈ t.out, q.opcode.toNat = opWRN ∧ q.payload = d ∧ q.job = m.job ∧
      q.gfa = BitVec.ofNat 56 (old * 2 ^ 46 + (stakeBase + 0x4000_0000 + 0x4_0000 * n + off))
  | .leg _ => ∀ p ∈ m.sends, { p with src := BitVec.ofNat 10 s.ix, agent := agTraverse, job := m.job, cls := 3 } ∈ t.out
  | .publish p => ∃ q ∈ t.out, q.opcode = p.opcode ∧ q.gfa = p.gfa ∧ q.payload = p.payload ∧ q.agent = agPlan
  | .readResponse _ => True

/-- A mirror answer of this generation and number is for the pending action of `o` (R458 step 3). -/
def State.answers (_s : State) (o : TwinOp) (c : Nat) (g : BitVec 32) (m : Word) : Bool :=
  g == o.gen && m.toNat == o.mseq && o.pending && o.partner == some c && !o.stopped

end Sys2Proof.Machine

/-- The owner beats, with a rising count, towards each column it twins to, and towards no other. A missed beat, or HANDOVER with its count, claims the committed copies under the next GEN,
drops the others, degrades their parcels and starts the fence; where a fence runs or nothing is held it does not. The fence's end gives the claimed copies up and issues
their pending actions again: a release-set, the slot lines, the packets of a leg, the PUBLISH. A copy with a bad CRC is treated as absent; another one is stored and answered, unless this Tiolo has
claimed or taken over the operation: then the record with the higher GEN, or on equal GEN the lower OWNER, owns. The matching answer lets the pending action happen, whatever it is, and the
cleared INTENT is mirrored; one with a higher GEN makes this Tiolo stand down, and another one does nothing. The answer to a bring-in's last write twins the operation again; one with a higher GEN makes it stand down, and another one does nothing. -/
def Obligations.Twins : Prop :=
  (∀ (s : State) (c : Fin 32),
    (s.twinnedTo c = [] → Runs (.twinBeat c) s (fun t => t = s)) ∧
    (s.twinnedTo c ≠ [] → Runs (.twinBeat c) s (fun t => (t.twinCol c).sent = (s.twinCol c).sent + 1 ∧
      t.out.length = s.out.length + (s.twinnedTo c).length ∧ (∀ e ∈ s.twinnedTo c, ∃ q ∈ t.out, q.opcode.toNat = opWRN ∧
        q.gfa = s.twinPage e.1 c 0 ∧ q.payload = leBytes 8 s.ix ++ leBytes 8 ((s.twinCol c).sent + 1) ++ List.replicate 48 0) ∧ Only [.recov, .out] s t))) ∧
  (∀ (s : State) (c : Fin 32),
    (((s.twinCol c).fencing = true ∨ (s.twinCol c).live = []) → Runs (.twinBeatMiss c) s (fun t => t = s)) ∧
    ((s.twinCol c).fencing = false → (s.twinCol c).live ≠ [] → Runs (.twinBeatMiss c) s (fun t => Claimed s t c))) ∧
  (∀ (s : State) (c : Fin 32) (n : Nat),
    (((s.twinCol c).fencing = true ∨ (s.twinCol c).live = []) → Runs (.handover c n) s (fun t =>
      t.twinCol c = { s.twinCol c with count := n } ∧ Only [.recov] s t)) ∧
    ((s.twinCol c).fencing = false → (s.twinCol c).live ≠ [] → Runs (.handover c n) s (fun t => Claimed s t c ∧ (t.twinCol c).count = n))) ∧
  (∀ (s : State) (c : Fin 32) (p : Nat) (m : TwinRecord),
    let own := s.recov.ops.find? (fun o => o.is m.kind m.opref (some m.job) && o.taken == some c.val)
    let held := (s.twinCol c).copies.find? (fun x => x.same m && x.claimed)
    let stored (t : State) : Prop := (t.twinCol c).copies = (s.twinCol c).copies.filter (fun d => !d.same m) ++ [{ page := p, rec' := m }]
    (m.crcOk = false → Runs (.mirrorWrite c p m) s (fun t => t = s)) ∧
    (m.crcOk = true → own = none → held = none → Runs (.mirrorWrite c p m) s (fun t => stored t ∧
      MirrorAnswered s t c p m.job m.gen.toNat m.mseq ∧ Only [.recov, .out] s t)) ∧
    (m.crcOk = true → own = none → ∀ x, held = some x → outranks m.gen.toNat m.owner.toNat x.rec'.gen.toNat s.ix = true →
      Runs (.mirrorWrite c p m) s (fun t => stored t ∧ MirrorAnswered s t c p m.job m.gen.toNat m.mseq ∧ Only [.recov, .out] s t)) ∧
    (m.crcOk = true → own = none → ∀ x, held = some x → outranks m.gen.toNat m.owner.toNat x.rec'.gen.toNat s.ix = false →
      Runs (.mirrorWrite c p m) s (fun t => (t.twinCol c).copies = (s.twinCol c).copies ∧
        MirrorAnswered s t c p m.job x.rec'.gen.toNat m.mseq ∧ Only [.recov, .out] s t)) ∧
    (m.crcOk = true → ∀ o, own = some o → outranks m.gen.toNat m.owner.toNat o.gen.toNat s.ix = true →
      Runs (.mirrorWrite c p m) s (fun t => StoodDown s t o m.owner.toNat m.gen.toNat)) ∧
    (m.crcOk = true → ∀ o, own = some o → outranks m.gen.toNat m.owner.toNat o.gen.toNat s.ix = false →
      Runs (.mirrorWrite c p m) s (fun t => t.recov.ops = s.recov.ops ∧ MirrorAnswered s t c p m.job o.gen.toNat m.mseq ∧ Only [.recov, .out] s t))) ∧
  (∀ (s : State) (c : Fin 32) (k : BitVec 4) (r g : BitVec 32) (m : Word),
    (s.twinAt c k r g = none → Runs (.mirrorAnswer c k r g m) s (fun t => t = s)) ∧
    (∀ o, s.twinAt c k r g = some o →
      (o.gen.toNat < g.toNat → Runs (.mirrorAnswer c k r g m) s (fun t => StoodDown s t o (s.row * 32 + c) g.toNat)) ∧
      (g.toNat ≤ o.gen.toNat → s.answers o c g m = false → Runs (.mirrorAnswer c k r g m) s (fun t => t = s)) ∧
      (s.answers o c g m = true → o.acts = [] → Runs (.mirrorAnswer c k r g m) s (fun t => t = s.setTwin { o with pending := false })) ∧
      (s.answers o c g m = true → ∀ a rest, o.acts = a :: rest → Runs (.mirrorAnswer c k r g m) s (fun t =>
        let o1 : TwinOp := { o with pending := false, acts := rest }
        let s1 := (s.setTwin o1).doAct o1 a
        Only [.recov, .free, .out] s1 t ∧ (∀ n v, a = .releaseSet n v → (t.stake n).value = v ∧ t.mem = s.mem) ∧
        (∀ o2, s1.recov.ops.find? (fun q => q.same o) = some o2 → o2.pending = false → ∃ q ∈ t.out, Mirrors s1 o2 c true false q))))) ∧
  (∀ (s : State) (c : Fin 32) (k : BitVec 4) (r g : BitVec 32) (m : Word),
    (s.twinAt c k r g = none → Runs (.bringInCommit c k r g m) s (fun t => t = s)) ∧
    (∀ o, s.twinAt c k r g = some o →
      (o.gen.toNat < g.toNat → Runs (.bringInCommit c k r g m) s (fun t => StoodDown s t o (s.row * 32 + c) g.toNat)) ∧
      (g.toNat ≤ o.gen.toNat → (o.bringIn ≠ some c.val ∨ g ≠ o.gen ∨ m.toNat ≠ o.mseq) → Runs (.bringInCommit c k r g m) s (fun t => t = s)) ∧
      (g = o.gen → m.toNat = o.mseq → o.bringIn = some c.val → Runs (.bringInCommit c k r g m) s (fun t =>
        (t.twinAt c k r g).map (fun x => (x.partner, x.bringIn, x.stopped, x.acts)) = some (some c.val, none, false, o.acts) ∧
        ((o.acts = [] ∨ o.pending = true) → t.out = s.out) ∧
        (o.acts ≠ [] → o.pending = false → Sent s t (Mirrors s { o with mseq := o.mseq + 1 } c true true)) ∧ Only [.regs, .recov, .free, .out] s t)))) ∧
  (∀ (s : State) (c : Fin 32),
    ((s.twinCol c).fencing = false → Runs (.takeoverFenceEnd c) s (fun t => t = s)) ∧
    ((s.twinCol c).fencing = true → Runs (.takeoverFenceEnd c) s (fun t => (t.twinCol c).fencing = false ∧ (t.twinCol c).copies = (s.twinCol c).live ∧
      (∀ x ∈ (s.twinCol c).copies, x.claimed = true → x.rec'.intent = true → ∀ a, x.rec'.act = some a → Reissues s t (s.row * 32 + c) x.rec' a) ∧
      Only [.regs, .seqs, .free, .recov, .mgmt, .out] s t)))

namespace Sys2Proof.Machine

/-- A parcel command may run now: its page takes writes, it is not BUSY, and no management firmware restarts (R433, R466). -/
def State.pclOpen (s : State) (n : Nat) : Bool := s.cfgOpen (rPclCmd n) && !s.bit (rPclCmd n) 61 && s.recov.restarting.isEmpty

/-- PCL_CMD shows the end of its command. -/
abbrev State.pclResult (s : State) (n : Nat) (st : Status) (detail : Nat) : Prop :=
  s.fld (rPclCmd n) 11 8 = st.toNat ∧ s.fld (rPclCmd n) 23 16 = detail ∧ s.bit (rPclCmd n) 62 = true ∧ s.bit (rPclCmd n) 61 = false

/-- A parcel command of an OP that some states allow: ignored on a page that takes no writes and while BUSY; while firmware restarts it waits, BUSY; while a composition of
the parcel runs, and in any other state, it ends with ACCESS_FAULT and DETAIL 7, and nothing else changes (R433, R466). -/
def PclDoor (cmd : ParcelIx → Instr) (op : Nat) (states : List Nat) : Prop :=
  ∀ (s : State) (n : ParcelIx),
    (s.cfgOpen (rPclCmd n) = false → Runs (cmd n) s (fun t => t = s)) ∧
    (s.cfgOpen (rPclCmd n) = true → s.bit (rPclCmd n) 61 = true → Runs (cmd n) s (fun t => Only [.seqs] s t)) ∧
    (s.cfgOpen (rPclCmd n) = true → s.bit (rPclCmd n) 61 = false → s.recov.restarting ≠ [] → Runs (cmd n) s (fun t =>
      t.recov = { s.recov with waiting := s.recov.waiting ++ [.parcel n op] } ∧ t.bit (rPclCmd n) 61 = true ∧ t.bit (rPclCmd n) 62 = false ∧
      (∀ c, c ≠ rPclCmd n → t.reg c = s.reg c) ∧ Only [.regs, .seqs, .recov] s t)) ∧
    (s.pclOpen n = true → ((s.pcl n).compose ≠ none ∨ s.pclState n ∉ states) → Runs (cmd n) s (fun t => t.pclResult n stAccessFault 7 ∧
      (∀ c, c ≠ rPclCmd n → t.reg c = s.reg c) ∧ Only [.regs, .seqs] s t))

/-- A composition that may begin: the command may run, no other composition of the parcel does. -/
def State.pclFree (s : State) (n : Nat) : Bool := s.pclOpen n && (s.pcl n).compose.isNone

/-- A BOOT or COMPOSE has begun: its units are marked, and the command is BUSY. -/
def CompBegun (s t : State) (n op : Nat) : Prop :=
  (t.pcl n).compose = some { op := op, from' := s.pclState n, words := (s.proposed n).map (BitVec.ofNat 64) } ∧ t.bit (rPclCmd n) 61 = true ∧
  (∀ i, i < 8 → t.grant n i = s.grant n i) ∧ (∀ m, m ≠ n → t.pcl m = s.pcl m) ∧
  Only [.regs, .seqs, .mem, .cad, .stk, .paths, .tier, .tiles, .tlc, .coll, .links, .sw, .parcels, .recov, .sec, .mgmt, .out] s t

/-- A composition was refused: its status and DETAIL, and nothing else but a counter of the parcel's page. -/
def CompRefused (s t : State) (n : Nat) (e : Status × Nat) : Prop :=
  t.pclResult n e.1 e.2 ∧ t.pclState n = s.pclState n ∧ Only [.regs, .seqs] s t ∧ OnlyPages [pgPcl n] s t

/-- An extent command may run now. -/
def State.extOpen (s : State) (n : Nat) (v : Word) : Bool := s.cfgOpen (rPclExtCmd n) && v.getLsbD 63 && s.recov.restarting.isEmpty

/-- PCL_EXT_CMD shows the end of its command. -/
abbrev State.extResult (s : State) (n : Nat) (st : Status) : Prop := s.fld (rPclExtCmd n) 23 20 = st.toNat ∧ s.bit (rPclExtCmd n) 62 = true

/-- A write of PCL_EXT_CMD with an OP: ignored on a page that takes no writes; without GO it only names the OP and the extent; while firmware restarts the
command waits (R439, R466). -/
def ExtDoor (cmd : ParcelIx → Word → Instr) (op : Nat) : Prop :=
  ∀ (s : State) (n : ParcelIx) (v : Word),
    (s.cfgOpen (rPclExtCmd n) = false → Runs (cmd n v) s (fun t => t = s)) ∧
    (s.cfgOpen (rPclExtCmd n) = true → v.getLsbD 63 = false → Runs (cmd n v) s (fun t => t.fld (rPclExtCmd n) 12 0 = nbits v.toNat 12 0 ∧
      t.fld (rPclExtCmd n) 19 16 = op ∧ t.bit (rPclExtCmd n) 62 = s.bit (rPclExtCmd n) 62 ∧ t.fld (rPclExtCmd n) 23 20 = s.fld (rPclExtCmd n) 23 20 ∧
      Only [.regs, .seqs] s t)) ∧
    (s.cfgOpen (rPclExtCmd n) = true → v.getLsbD 63 = true → s.recov.restarting ≠ [] → Runs (cmd n v) s (fun t =>
      t.recov = { s.recov with waiting := s.recov.waiting ++ [.extent n op (nbits v.toNat 12 0)] } ∧ t.bit (rPclExtCmd n) 62 = false ∧ Only [.regs, .seqs, .recov] s t))

/-- An extent command ended with ACCESS_FAULT, and nothing else changed but its page. -/
def ExtRefused (s t : State) (n : Nat) : Prop := t.extResult n stAccessFault ∧ Only [.regs, .seqs] s t ∧ OnlyPages [pgPcl n] s t

/-- The aliases that revoke with their visible extent (R62). -/
def State.dyingAliases (s : State) (e : Nat) : List Nat := (s.extents.filter (fun i => i.2.state == .revoking && i.2.vers && i.2.visible == e)).map (fun i => i.1)

/-- These extents are FREE from now on, no revocation of them goes on, and the REVOKE command that waits for one of them ends. -/
def ExtsFreed (s t : State) (owner : Nat) (es : List Nat) : Prop :=
  (∀ i, t.ext i = if i ∈ es then {} else s.ext i) ∧ (∀ r ∈ t.revoking, r.ext ∉ es) ∧
  (s.fld (rPclExtCmd owner) 19 16 = 2 → s.fld (rPclExtCmd owner) 12 0 ∈ es → s.bit (rPclExtCmd owner) 62 = false → t.extResult owner stOK) ∧
  (¬ (s.fld (rPclExtCmd owner) 19 16 = 2 ∧ s.fld (rPclExtCmd owner) 12 0 ∈ es ∧ s.bit (rPclExtCmd owner) 62 = false) →
    t.reg (rPclExtCmd owner) = s.reg (rPclExtCmd owner)) ∧ OnlyPages [pgPcl owner] s t

/-- A range of composition words' T0 bytes. -/
abbrev inT0 (w : CompWords) (a : Nat) : Prop := cwDatum w * 2 ^ 30 ≤ a ∧ a < (cwDatum w + cwT0 w) * 2 ^ 30

end Sys2Proof.Machine

/-- Each of BOOT, COMPOSE, ACTIVATE, RELEASE and CLEAR_DEGRADED is ignored while BUSY, waits while firmware restarts, and ends with ACCESS_FAULT and DETAIL 7 in a wrong state or while a
composition of the parcel runs. A composition that fails a check ends with the check's status and DETAIL; nothing else changes. An accepted one
marks its units, from ACTIVE or DEGRADED in COMPOSING; its effect, once its removed units are quiet, puts the new grants in force, zeroes added T0 and changed tile groups and stakes, and ends; before
that it only takes the steps towards it. ACTIVATE and CLEAR_DEGRADED lead to ACTIVE. RELEASE revokes every extent in RELEASING; when its parts have ended its units begin to go, and once they are quiet the parcel is FREE with no grant;
before, nothing more happens than the steps towards that. CREATE makes a checked extent VALID, REVOKE makes its own REVOKING with its versioned windows, QUERY shows its words; each that is refused ends with
ACCESS_FAULT, each waits while firmware restarts, and none runs without GO. A drained extent becomes FREE with the aliases that go with it; before, its copies are recalled and its frames written back or dropped, and an extent that is not
revoking, or still pending, or an alias whose visible extent revokes, does not change. Each microsecond adds the units held; SNAP latches. -/
def Obligations.Parcels : Prop :=
  PclDoor .boot 1 [0] ∧ PclDoor .compose 2 [1, 2, 4] ∧ PclDoor .activate 3 [1] ∧ PclDoor .release 4 [1, 2, 4] ∧ PclDoor .clearDegraded 5 [4] ∧
  (∀ (s : State) (n : ParcelIx), s.pclFree n = true → s.pclState n = 0 →
    (s.compCheck n (s.proposed n) true = none → Runs (.boot n) s (fun t => t.pclState n = 0 ∧ CompBegun s t n 1)) ∧
    (∀ e, s.compCheck n (s.proposed n) true = some e → Runs (.boot n) s (fun t => CompRefused s t n e))) ∧
  (∀ (s : State) (n : ParcelIx), s.pclFree n = true → (s.pclState n = 1 ∨ s.pclState n = 2 ∨ s.pclState n = 4) →
    (s.compCheck n (s.proposed n) (s.pclState n == 1) = none → Runs (.compose n) s (fun t => t.pclState n = (if s.pclState n = 1 then 1 else 3) ∧ CompBegun s t n 2)) ∧
    (∀ e, s.compCheck n (s.proposed n) (s.pclState n == 1) = some e → Runs (.compose n) s (fun t => CompRefused s t n e))) ∧
  (∀ (s : State) (n : ParcelIx), s.pclFree n = true →
    (s.pclState n = 1 → Runs (.activate n) s (fun t => t.pclState n = 2 ∧ t.pclResult n stOK 0 ∧ Only [.regs, .seqs] s t ∧ OnlyPages [pgPcl n] s t)) ∧
    (s.pclState n = 4 → Runs (.clearDegraded n) s (fun t => t.pclState n = 2 ∧ t.pclResult n stOK 0 ∧ Only [.regs, .seqs] s t ∧ OnlyPages [pgPcl n] s t)) ∧
    ((s.pclState n = 1 ∨ s.pclState n = 2 ∨ s.pclState n = 4) → Runs (.release n) s (fun t => t.pclState n = 5 ∧
      (t.pcl n).compose = some { op := 4, from' := s.pclState n, words := [] } ∧ t.bit (rPclCmd n) 61 = true ∧
      (∀ e, (s.ext e).state = .valid → (s.ext e).owner = n.val → (t.ext e).state = .revoking) ∧
      (∀ e, t.ext e = s.ext e ∨ ((s.ext e).state = .valid ∧ t.ext e = { s.ext e with state := .revoking })) ∧ t.mem = s.mem))) ∧
  (∀ (s : State) (n : ParcelIx),
    ((∀ x, (s.pcl n).compose = some x → x.op = 4) → Runs (.compositionGrantsEffect n) s (fun t => t = s)) ∧
    (∀ (x : Compose) (g w : CompWords), (s.pcl n).compose = some x → x.op ≠ 4 → g = (if s.pclState n = 0 then [] else s.grants n) → w = x.words.map BitVec.toNat →
      let s0 := s.clearPorts (removedPorts g w)
      (s0.quiesced g w = false → Runs (.compositionGrantsEffect n) s (fun t => t = s0)) ∧
      (s0.quiesced g w = true → Runs (.compositionGrantsEffect n) s (fun t =>
        t.pclState n = (if x.op = 1 ∨ x.from' = 1 then 1 else if x.from' = 4 ∨ x.degrade = true then 4 else 2) ∧ (∀ i, i < 8 → t.grant n i = cw w i) ∧
        (t.pcl n).compose = none ∧ t.pclResult n stOK 0 ∧ (∀ m, m ≠ n.val → t.pcl m = s.pcl m) ∧
        (∀ a, memGet t.mem.cells a = if inT0 w a ∧ ¬ inT0 g a then 0 else memGet s.mem.cells a) ∧
        (∀ k i, k < 64 → i < 4 → t.tile (4 * k + i) = if cwTile g k = cwTile w k then s.tile (4 * k + i) else {}) ∧
        (∀ k, t.stake k = if stakeIn g k = stakeIn w k then s.stake k else {}) ∧ Only [.regs, .seqs, .mem, .stk, .tiles, .trav, .parcels] s0 t)))) ∧
  (∀ (s : State) (n : ParcelIx),
    (((∀ x, (s.pcl n).compose = some x → x.op ≠ 4) ∨ s.releaseReady n = false) → Runs (.releaseDone n) s (fun t => t = s)) ∧
    (∀ (x : Compose), (s.pcl n).compose = some x → x.op = 4 → s.releaseReady n = true →
      let g := s.grants n
      let s0 := s.clearPorts (removedPorts g [])
      (x.removing = false → Runs (.releaseDone n) s (fun t => t.pclState n = s.pclState n ∧ (t.pcl n).compose = some { x with removing := true } ∧
        (∀ i, i < 8 → t.grant n i = s.grant n i) ∧ t.stk.parked = s.stk.parked.filter (fun k => !stakeIn g k.stake) ∧ t.mem = s.mem)) ∧
      (x.removing = true → s0.quiesced g [] = false → Runs (.releaseDone n) s (fun t => t = s0)) ∧
      (x.removing = true → s0.quiesced g [] = true → Runs (.releaseDone n) s (fun t => t.pclState n = 0 ∧ (∀ i, i < 8 → t.grant n i = 0) ∧
        (t.pcl n).compose = none ∧ t.pclResult n stOK 0 ∧ (∀ a, memGet t.mem.cells a = if inT0 g a then 0 else memGet s.mem.cells a) ∧
        (∀ k i, k < 64 → i < 4 → t.tile (4 * k + i) = if cwTile g k then {} else s.tile (4 * k + i)) ∧
        (∀ k, t.stake k = if stakeIn g k then {} else s.stake k) ∧ Only [.regs, .seqs, .mem, .stk, .tiles, .coll, .trav, .parcels] s0 t)))) ∧
  ExtDoor .extCreate 1 ∧ ExtDoor .extRevoke 2 ∧ ExtDoor .extQuery 3 ∧
  (∀ (s : State) (n : ParcelIx) (v : Word) (e : Nat), s.extOpen n v = true → e = nbits v.toNat 12 0 →
    (s.extBad e n (s.stagedExt n) = false → Runs (.extCreate n v) s (fun t => t.ext e = s.stagedExt n ∧ (t.ext e).owner = n.val ∧
      (∀ i, i ≠ e → t.ext i = s.ext i) ∧ t.extResult n stOK ∧ Only [.regs, .seqs, .extents] s t ∧ OnlyPages [pgPcl n] s t)) ∧
    (s.extBad e n (s.stagedExt n) = true → Runs (.extCreate n v) s (fun t => ExtRefused s t n)) ∧
    ((s.ext e).state = .valid → (s.ext e).owner = n.val → Runs (.extRevoke n v) s (fun t => t.bit (rPclExtCmd n) 62 = false ∧
      (∀ i, t.ext i = if (s.ext i).state = .valid ∧ (i = e ∨ ((s.ext i).vers = true ∧ (s.ext i).visible = e)) then { s.ext i with state := .revoking } else s.ext i) ∧
      (∃ r, r ∈ t.revoking ∧ r.ext = e) ∧ Only [.regs, .seqs, .extents, .revoking, .trav] s t)) ∧
    ((s.ext e).state = .revoking → (s.ext e).owner = n.val → Runs (.extRevoke n v) s (fun t => t.bit (rPclExtCmd n) 62 = false ∧
      Only [.regs, .seqs] s t ∧ OnlyPages [pgPcl n] s t)) ∧
    (((s.ext e).state = .free ∨ (s.ext e).owner ≠ n.val) → Runs (.extRevoke n v) s (fun t => ExtRefused s t n)) ∧
    (((s.ext e).state = .free ∨ (s.ext e).owner = n.val) → Runs (.extQuery n v) s (fun t =>
      (∀ i, i < 4 → t.reg (rPclExt n i) = (s.ext e).words.getD i 0 % 2 ^ 64) ∧ t.extResult n stOK ∧ Only [.regs, .seqs] s t ∧ OnlyPages [pgPcl n] s t)) ∧
    ((s.ext e).state ≠ .free → (s.ext e).owner ≠ n.val → Runs (.extQuery n v) s (fun t =>
      (∀ i, i < 4 → t.reg (rPclExt n i) = s.reg (rPclExt n i)) ∧ ExtRefused s t n))) ∧
  (∀ (s : State) (e : Fin 8192) (x : Extent), x = s.ext e →
    ((x.state ≠ .revoking ∨ s.extPending x = true ∨ (x.vers = true ∧ (s.ext x.visible).state = .revoking)) →
      Runs (.extentRevokeDrained e) s (fun t => t = s)) ∧
    (x.state = .revoking → s.extPending x = false → x.vers = true → (s.ext x.visible).state ≠ .revoking → Runs (.extentRevokeDrained e) s (fun t =>
      ExtsFreed s t x.owner [e.val] ∧ Only [.regs, .seqs, .extents, .revoking] s t)) ∧
    (x.state = .revoking → s.extPending x = false → x.vers = false → x.coh = false → x.wb = false → Runs (.extentRevokeDrained e) s (fun t =>
      ExtsFreed s t x.owner (e.val :: s.dyingAliases e) ∧ Only [.regs, .seqs, .extents, .revoking, .tier] s t ∧ t.tier.frames = s.tier.frames)) ∧
    (x.state = .revoking → s.extPending x = false → x.vers = false →
      let s0 := if x.coh then s.extRecall x else s
      let s1 := if x.wb && !s0.t1We then s0.dropFrames (fun k => x.hit (0x1000 * k)) (s0.homeRegion x.base) 5 else s0
      let dirty := (s1.tier.frames.filter (fun f => x.hit (0x1000 * f.1) && f.2.dirty)).map (fun f => f.1)
      (s0.extPending x = true → Runs (.extentRevokeDrained e) s (fun t => t = s0)) ∧
      (s0.extPending x = false → x.wb = true → dirty ≠ [] → Runs (.extentRevokeDrained e) s (fun t => t = dirty.foldl State.startWriteBack s1)) ∧
      (s0.extPending x = false → (x.wb = false ∨ dirty = []) → Runs (.extentRevokeDrained e) s (fun t =>
        ExtsFreed s1 t x.owner (e.val :: s.dyingAliases e) ∧ (x.wb = true → ∀ f ∈ t.tier.frames, x.hit (0x1000 * f.1) = false) ∧
        Only [.regs, .seqs, .extents, .revoking, .tier] s1 t)))) ∧
  (∀ (s : State) (r : SliceIx),
    Runs (.occupancyTick r) s (fun t => (∀ n k, n < 64 → k < 5 →
      kgetD (t.pcl n).use (8 * r + k) 0 = kgetD (s.pcl n).use (8 * r + k) 0 + (s.unitsIn n r).getD k 0) ∧ (∀ n, (t.pcl n).snap = (s.pcl n).snap) ∧ Only [.parcels] s t)) ∧
  (∀ (s : State) (n : ParcelIx) (v : Word),
    (s.cfgOpen (rPclUseSel n) = false → Runs (.usageSnap n v) s (fun t => t = s)) ∧
    (s.cfgOpen (rPclUseSel n) = true → Runs (.usageSnap n v) s (fun t => t.reg (rPclUseSel n) = nbits v.toNat 4 0 ∧
      (t.pcl n).snap = (if v.getLsbD 63 then (s.pcl n).use else (s.pcl n).snap) ∧ (t.pcl n).use = (s.pcl n).use ∧ (∀ m, m ≠ n.val → t.pcl m = s.pcl m) ∧
      Only [.regs, .seqs, .parcels] s t ∧ OnlyPages [pgPcl n] s t)))

namespace Sys2Proof.Machine

/-- The Ethernet frames in the packet buffer, each with its port: those stored and those whose source stalls. -/
def State.ethFrames (s : State) : List (Nat × RoceTx) :=
  (s.sw.buf ++ s.sw.stalled).filterMap (fun x => x.frame.map (fun f => ((x.outs.headD (0, 0)).1, f.tx)))

/-- Exactly these frames were put into the packet buffer for port p; for a link that is down, they are lost. -/
def EthGoes (s t : State) (p : Nat) (l : List RoceTx) : Prop :=
  t.ethFrames.Perm (s.ethFrames ++ if s.ethOpen p then l.map (fun x => (p, x)) else [])

/-- The six WRITE opcodes, each with its command. -/
def writeForms : List (Nat × (PortIx → RocePkt → Instr)) :=
  [(0x06, .rdmaWriteFirst), (0x07, .rdmaWriteMiddle), (0x08, .rdmaWriteLast), (0x0A, .rdmaWriteOnly), (0x09, .rdmaWriteLastWithImmediate),
   (0x0B, .rdmaWriteOnlyWithImmediate)]

/-- They and the READ REQUEST. -/
def rdmaForms : List (Nat × (PortIx → RocePkt → Instr)) := writeForms ++ [(0x0C, .rdmaReadRequest)]

/-- They and the CNP. -/
def roceForms : List (Nat × (PortIx → RocePkt → Instr)) := rdmaForms ++ [(0x81, .cnp)]

/-- A packet with this opcode. -/
def rocePktOf (k : RocePkt) (op : Nat) : RocePkt := { k with opcode := BitVec.ofNat 8 op }

/-- The oldest waiting frame of port p that carries packet k. -/
def State.roceFrame (s : State) (op p : Nat) (k : RocePkt) : Option (Nat × EthFrame) :=
  (s.eth p).buffer.find? (fun x => x.2.isRoce && x.2.roce == rocePktOf k op)

/-- No frame of its priority stands before that frame. -/
def State.frameFirst (s : State) (p : Nat) (f : Nat × EthFrame) : Bool := (s.eth p).buffer.find? (fun x => x.1 == f.1) == some f

/-- The port's link is up, and the packet comes from no frame, or from the first of its priority, which no meter tests. -/
def State.arrives (s : State) (op p : Nat) (k : RocePkt) : Bool :=
  s.ethOpen p && match s.roceFrame op p k with
    | none => true
    | some f => s.frameFirst p f && !(s.meter (ethMeter p f.1)).en

/-- The buffer without that frame. -/
def State.bufferAfter (s : State) (op p : Nat) (k : RocePkt) : List (Nat × EthFrame) :=
  match s.roceFrame op p k with
  | none => (s.eth p).buffer
  | some f => (s.eth p).buffer.erase f

/-- The packet arrives for QP n, which is served and whose context is on chip, and is served now. -/
def State.servedNow (s : State) (op p n : Nat) (k : RocePkt) : Bool :=
  s.arrives op p k && s.qpOf k == some n && s.qpServes n && s.roce.cached.contains n && decide (s.roce.cached.length ≤ 4096) &&
  !(s.eth p).missq.any (fun m => m.qp == n)

/-- The QP has nothing outstanding but the WRITE message of which more packets come. -/
def Qp.quiet (q : Qp) : Bool := q.reqs.isEmpty && q.acks.isEmpty && q.msgs.all (fun m => m.write && !m.ended)

/-- The WRITE message of which more packets come. -/
def Qp.openWrite (q : Qp) : Option RoceMsg := q.msgs.find? (fun m => m.write && !m.ended)

/-- An invalid WRITE packet (R417): writes forbidden, out of its message's order, too long, not the length its place asks for, or an immediate
without a completion ring. -/
def State.writeBad (s : State) (n op : Nat) (k : RocePkt) : Bool :=
  let q := s.qp n
  let left := if opFirst op then k.dmaLen.toNat else (q.openWrite.map (fun m => m.left)).getD 0
  q.f 0 23 23 == 0 || opFirst op == q.openWrite.isSome || (opFirst op && decide (2 ^ 31 < k.dmaLen.toNat)) ||
  (op == 0x07 && k.payload.length != q.pmtu) || decide (q.pmtu < k.payload.length) || decide (left < k.payload.length) ||
  (opLast op && k.payload.length != left) || (opImm op && (q.f 6 26 26 == 0 || !(s.ring (q.f 6 25 16)).cfg.getLsbD 0))

/-- What a WRITE packet writes to: the address, the bytes left of its message before it, the message's length and its registration. A message's first
packet passes the key check, or there is none. -/
def State.writeMsg (s : State) (n op : Nat) (k : RocePkt) : Option (Nat × Nat × Nat × Nat) :=
  if opFirst op then (s.mrCheck (s.qp n) k true).map (fun m => (s.mrTarget m k.va.toNat, k.dmaLen.toNat, k.dmaLen.toNat, m))
  else (s.qp n).openWrite.map (fun m => (m.gfa, m.left, m.total, m.mr))

/-- An invalid READ REQUEST (R417): reads forbidden, too long, too many outstanding, or a WRITE message still open. -/
def State.readBad (s : State) (n : Nat) (k : RocePkt) : Bool :=
  let q := s.qp n
  q.f 0 22 22 == 0 || decide (2 ^ 31 < k.dmaLen.toNat) || decide (q.f 0 53 50 + 1 ≤ (q.msgs.filter (fun m => !m.write)).length) || q.openWrite.isSome

/-- An acknowledgement comes with this packet although its message goes on (R416). -/
def State.ackDue (s : State) (n : Nat) (k : RocePkt) : Bool :=
  k.ackReq || decide (max 1 (s.fld rRoceCc1 23 16) ≤ (s.qp n).sinceAck + 1)

/-- A served packet is answered with a CNP: CE, and CNP_GAP has passed (R423). -/
def State.cnpDue (s : State) (n : Nat) (k : RocePkt) : Bool := k.ce && s.since (s.qp n).cnpAt (s.fld rRoceCc 7 0)

/-- The parts that a served packet changes. -/
def serveParts : List Part := [.regs, .seqs, .free, .sw, .roce, .recov, .out]

/-- What every packet leaves that was served now: its frame has left the buffer, and no other port's frames and no other QP changed. -/
def Taken (s t : State) (op p n : Nat) (k : RocePkt) : Prop :=
  (t.eth p).buffer = s.bufferAfter op p k ∧ (t.eth p).missq = (s.eth p).missq ∧ (∀ r, r ≠ p → t.eth r = s.eth r) ∧ (∀ m, m ≠ n → t.qp m = s.qp m)

/-- A WRITE packet at EPSN was served. EPSN moves on; its payload stands in requests from address g on, and those that the port's trackers have room
for are issued; the acknowledgement of the message's last packet, or one that is due, waits for them, or goes at once without payload; the message
stays open until its last packet; an immediate holds a position of its ring. -/
def Placed (s t : State) (op p n g left total mr : Nat) (k : RocePkt) : Prop :=
  let q := t.qp n
  let due := opLast op || s.ackDue n k
  let parts := writeParts (k.payload.length / 0x1000 + 6) g k.payload
  q.state = .rtr ∧ q.epsn = ((s.qp n).epsn + 1) % 2 ^ 24 ∧ q.naked = false ∧ q.sinceAck = (if due then 0 else (s.qp n).sinceAck + 1) ∧
  q.reqs.map (fun r => (r.pkt.gfa, r.pkt.payload, r.pkt.mask)) = parts.map (fun w => (BitVec.ofNat 56 w.1, w.2.1, w.2.2)) ∧
  q.reqs.map (fun r => r.issued) = (List.range parts.length).map (fun i => decide (s.roceTracked p + i < 2048)) ∧
  t.out = s.out ++ (q.reqs.filter (fun r => r.issued)).map (fun r => r.pkt) ∧
  q.acks.map (fun a => (a.psn, a.last)) = (if due = true ∧ k.payload ≠ [] then [(k.psn.toNat, opLast op)] else []) ∧
  q.msn = (if opLast op = true ∧ k.payload = [] then ((s.qp n).msn + 1) % 2 ^ 24 else (s.qp n).msn) ∧
  q.msgs.map (fun m => (m.gfa, m.left, m.total, m.mr, m.ended, m.imm)) = (if opLast op = true ∧ k.payload = [] then [] else
    [(g + k.payload.length, left - k.payload.length, total, mr, opLast op, if opImm op then some k.imm else none)]) ∧
  (∀ r, t.ring r = { s.ring r with reserved := (s.ring r).reserved + if opImm op = true ∧ r = (s.qp n).f 6 25 16 then 1 else 0 }) ∧
  EthGoes s t (s.qp n).port ((if due = true ∧ k.payload = [] then [.ack n k.psn.toNat q.msn] else []) ++ if s.cnpDue n k then [.cnp n] else []) ∧
  (∀ j, j ≠ mr → t.mr j = s.mr j) ∧ Taken s t op p n k ∧ Only serveParts s t

/-- The QP failed with a cause: a NAK carries the syndrome, what was issued completes, the rest is abandoned, the region's book is told. -/
def QpFailed (s t : State) (n psn : Nat) (st : Status) (synd : BitVec 8) : Prop :=
  EthGoes s t (s.qp n).port [.nak n psn synd] ∧
  t.qp n = { s.qp n with state := .error, errStatus := st, errSyndrome := synd, msgs := [], acks := [], reqs := (s.qp n).reqs.filter (fun r => r.issued) } ∧
  (t.book (bookRegion ((s.qp n).port / 32))).queue.length = (s.book (bookRegion ((s.qp n).port / 32))).queue.length + 1 ∧
  Only [.regs, .seqs, .sw, .roce, .recov, .mgmt] s t

/-- A READ's data is read: its message waits with one request for each part of the range, in reads of whole lines, and those that the port's trackers
have room for are issued. -/
def ReadsOut (s t : State) (p n g : Nat) (k : RocePkt) (dup : Bool) : Prop :=
  let q := t.qp n
  let parts := readParts (k.dmaLen.toNat / 0x1000 + 2) g 0 k.dmaLen.toNat
  q.state = .rtr ∧ q.msn = (s.qp n).msn ∧ q.acks = [] ∧
  q.msgs.map (fun m => (m.write, m.psn, m.gfa, m.total, m.resp, m.dup)) = [(false, k.psn.toNat, g, k.dmaLen.toNat, 0, dup)] ∧
  q.reqs.map (fun r => (r.pkt.gfa, r.pkt.len, r.use)) =
    parts.map (fun w => (BitVec.ofNat 56 w.1, w.2.1, RoceUse.read w.2.2.1 w.2.2.2.1 w.2.2.2.2)) ∧
  q.reqs.map (fun r => r.issued) = (List.range parts.length).map (fun i => decide (s.roceTracked p + i < 2048)) ∧
  t.out = s.out ++ (q.reqs.filter (fun r => r.issued)).map (fun r => r.pkt) ∧ Only serveParts s t

end Sys2Proof.Machine

/-- A WRITE packet at EPSN of a QP with nothing outstanding is served: EPSN moves on, its payload goes out in requests to the registered address, as far as
the port may track them, the acknowledgement waits for them; a message stays open until its last packet; an immediate reserves a ring position, a full
ring answers RNR and serves nothing, and an immediate without payload is posted at once. A READ REQUEST goes out in reads; one of no bytes is answered
at once if the rate lets it. An invalid packet and a failed key check are answered with their NAK and put the QP into ERROR; a packet ahead of EPSN is
answered with one NAK sequence error; a duplicate write is acknowledged again and a duplicate READ read again. A packet of a QP that is not served is
discarded, of a missing context it waits for it, and with the miss queue full its frame stays; so does a frame behind another of its priority, or one
whose meter is red; on a link that is down nothing arrives. A context that has come serves what waits for it, and with no context to make room for it
goes on waiting. A write that completes lets its message be acknowledged, a RETRY is sent again, any other status is answered with its NAK, and the data
of a READ goes out in its response. A CNP lowers the rate once per DEC_GAP; the rate rises once INC_GAP has passed. -/
def Obligations.RemoteWritesAndReads : Prop :=
  (∀ (s : State) (p : PortIx) (k : RocePkt) (n : Nat), ∀ w ∈ writeForms, s.servedNow w.1 p n k = true → k.psn.toNat = (s.qp n).epsn →
    (s.writeBad n w.1 k = false → (opImm w.1 = true → s.ringFull ((s.qp n).f 6 25 16) = false ∧ k.payload ≠ []) → (s.qp n).quiet = true →
      ∀ g left total mr, s.writeMsg n w.1 k = some (g, left, total, mr) → Runs (w.2 p k) s (fun t => Placed s t w.1 p n g left total mr k)) ∧
    (s.writeBad n w.1 k = false → s.writeMsg n w.1 k ≠ none → opImm w.1 = true → s.ringFull ((s.qp n).f 6 25 16) = true → Runs (w.2 p k) s (fun t =>
      t.roce.qps = s.roce.qps ∧ t.roce.rings = s.roce.rings ∧ EthGoes s t (s.qp n).port [.rnr n k.psn.toNat ((s.qp n).f 0 49 45)] ∧
      Taken s t w.1 p n k ∧ Only [.regs, .seqs, .sw, .roce] s t)) ∧
    (s.writeBad n w.1 k = true → Runs (w.2 p k) s (fun t => QpFailed s t n k.psn.toNat stUnsupported synInvalid ∧ Taken s t w.1 p n k)) ∧
    (s.writeBad n w.1 k = false → s.writeMsg n w.1 k = none → Runs (w.2 p k) s (fun t =>
      QpFailed s t n k.psn.toNat stAccessFault synAccess ∧ Taken s t w.1 p n k))) ∧
  (∀ (s : State) (p : PortIx) (k : RocePkt) (n : Nat) (m : Nat × Nat × Nat × Nat), ∀ w ∈ writeForms, opImm w.1 = true → s.servedNow w.1 p n k = true →
    k.psn.toNat = (s.qp n).epsn → s.writeBad n w.1 k = false → s.writeMsg n w.1 k = some m → k.payload = [] → (s.qp n).quiet = true →
    s.ringFull ((s.qp n).f 6 25 16) = false → s.roceTracked (s.qp n).port < 2048 → Runs (w.2 p k) s (fun t =>
      let x := s.ring ((s.qp n).f 6 25 16)
      (t.qp n).epsn = ((s.qp n).epsn + 1) % 2 ^ 24 ∧ t.ring ((s.qp n).f 6 25 16) = { x with posted := x.posted + 1 } ∧
      (t.qp n).msgs.map (fun m => m.posting) = [1] ∧ (t.qp n).acks.map (fun a => (a.psn, a.last)) = [(k.psn.toNat, true)] ∧
      Sent s t (fun c => c.opcode.toNat = opWRI ∧ c.gfa.toNat = (s.ix * 2 ^ 46 + (nbits x.cfg.toNat 45 12 * 0x1000 + x.posted % x.size * 32) / 128 * 128) % 2 ^ 56 ∧
        (c.payload.drop (x.posted % x.size * 32 % 128)).take 32 = ringEntry k.imm n m.2.2.1 k.psn.toNat (x.posted + 1)) ∧
      Taken s t w.1 p n k ∧ Only serveParts s t)) ∧
  (∀ (s : State) (p : PortIx) (k : RocePkt) (n : Nat), s.servedNow 0x0C p n k = true → k.psn.toNat = (s.qp n).epsn →
    (∀ m, s.readBad n k = false → s.mrCheck (s.qp n) k false = some m → (s.qp n).quiet = true → 3 ≤ (s.qp n).f 0 37 35 →
      (k.dmaLen ≠ 0 ∨ (s.qp n).tokens < 0) → Runs (.rdmaReadRequest p k) s (fun t => ReadsOut s t p n (s.mrTarget m k.va.toNat) k false ∧
        (t.qp n).epsn = ((s.qp n).epsn + max 1 (ceilDiv k.dmaLen.toNat (s.qp n).pmtu)) % 2 ^ 24 ∧
        EthGoes s t (s.qp n).port (if s.cnpDue n k then [.cnp n] else []) ∧ Taken s t 0x0C p n k)) ∧
    (∀ m, s.readBad n k = false → s.mrCheck (s.qp n) k false = some m → (s.qp n).quiet = true → k.dmaLen = 0 → 0 ≤ (s.qp n).tokens →
      s.twinOp 4 (BitVec.ofNat 32 n) = none → Runs (.rdmaReadRequest p k) s (fun t =>
        (t.qp n).epsn = ((s.qp n).epsn + 1) % 2 ^ 24 ∧ (t.qp n).msn = ((s.qp n).msn + 1) % 2 ^ 24 ∧ (t.qp n).msgs = [] ∧ (t.qp n).reqs = [] ∧
        EthGoes s t (s.qp n).port ([.readResponse 0x10 n k.psn.toNat (((s.qp n).msn + 1) % 2 ^ 24) []] ++ if s.cnpDue n k then [.cnp n] else []) ∧
        Taken s t 0x0C p n k ∧ Only [.regs, .seqs, .sw, .roce] s t)) ∧
    (s.readBad n k = true → Runs (.rdmaReadRequest p k) s (fun t => QpFailed s t n k.psn.toNat stUnsupported synInvalid ∧ Taken s t 0x0C p n k)) ∧
    (s.readBad n k = false → s.mrCheck (s.qp n) k false = none → Runs (.rdmaReadRequest p k) s (fun t =>
      QpFailed s t n k.psn.toNat stAccessFault synAccess ∧ Taken s t 0x0C p n k))) ∧
  (∀ (s : State) (p : PortIx) (k : RocePkt) (n : Nat), let d := (k.psn.toNat + 2 ^ 24 - (s.qp n).epsn) % 2 ^ 24
    ∀ w ∈ rdmaForms, s.servedNow w.1 p n k = true →
      (d ≠ 0 → d < 2 ^ 24 - 2 ^ 22 → Runs (w.2 p k) s (fun t => t.qp n = { s.qp n with naked := true } ∧
        EthGoes s t (s.qp n).port (if (s.qp n).naked then [] else [.nak n (s.qp n).epsn synSequence]) ∧ Taken s t w.1 p n k ∧
        Only [.regs, .seqs, .sw, .roce] s t)) ∧
      (2 ^ 24 - 2 ^ 22 ≤ d → w ∈ writeForms → (s.qp n).quiet = true → Runs (w.2 p k) s (fun t => t.qp n = s.qp n ∧
        EthGoes s t (s.qp n).port [.ack n k.psn.toNat (s.qp n).msn] ∧ Taken s t w.1 p n k ∧ Only [.regs, .seqs, .sw, .roce] s t))) ∧
  (∀ (s : State) (p : PortIx) (k : RocePkt) (n m : Nat), s.servedNow 0x0C p n k = true →
    2 ^ 24 - 2 ^ 22 ≤ (k.psn.toNat + 2 ^ 24 - (s.qp n).epsn) % 2 ^ 24 → s.readBad n k = false → s.mrCheck (s.qp n) k false = some m →
    (s.qp n).quiet = true → (k.dmaLen ≠ 0 ∨ (s.qp n).tokens < 0) → Runs (.rdmaReadRequest p k) s (fun t =>
      ReadsOut s t p n (s.mrTarget m k.va.toNat) k true ∧ (t.qp n).epsn = (s.qp n).epsn ∧
      EthGoes s t (s.qp n).port (if s.cnpDue n k then [.cnp n] else []) ∧ Taken s t 0x0C p n k)) ∧
  (∀ (s : State) (p : PortIx) (k : RocePkt), ∀ w ∈ roceForms,
    (s.ethOpen p = false → Runs (w.2 p k) s (fun t => t = s)) ∧
    (∀ f, s.ethOpen p = true → s.roceFrame w.1 p k = some f → s.frameFirst p f = false → Runs (w.2 p k) s (fun t => t = s)) ∧
    (∀ f, s.ethOpen p = true → s.roceFrame w.1 p k = some f → s.frameFirst p f = true → (s.meter (ethMeter p f.1)).en = true →
      (s.meter (ethMeter p f.1)).colour (if (f.2.vlan.map (fun v => v.2)).getD false then .yellow else .green) f.2.bytes.length = .red →
      Runs (w.2 p k) s (fun t => Only [.regs, .seqs] s t)) ∧
    (s.arrives w.1 p k = true → (s.qpOf k).all (fun n => !s.qpServes n) = true → Runs (w.2 p k) s (fun t =>
      (t.eth p).buffer = s.bufferAfter w.1 p k ∧ t.roce.qps = s.roce.qps ∧ Only [.regs, .roce] s t))) ∧
  (∀ (s : State) (p : PortIx) (k : RocePkt) (n : Nat), ∀ w ∈ rdmaForms, s.arrives w.1 p k = true → s.qpOf k = some n → s.qpServes n = true →
    (s.roce.cached.contains n = false ∨ (s.eth p).missq.any (fun m => m.qp == n) = true) →
    ((s.eth p).missq.length < 512 → Runs (w.2 p k) s (fun t =>
      (t.eth p).missq = (s.eth p).missq ++ [{ qp := n, prio := ((s.roceFrame w.1 p k).map (fun f => f.1)).getD (s.fld (rEthPrio p) 3 1), yellow := false,
                                              pkt := rocePktOf k w.1 }] ∧
      (t.eth p).buffer = s.bufferAfter w.1 p k ∧ t.roce.qps = s.roce.qps ∧ Only [.regs, .roce] s t)) ∧
    (512 ≤ (s.eth p).missq.length → Runs (w.2 p k) s (fun t => t = s))) ∧
  (∀ (s : State) (p : PortIx) (n : BitVec 16),
    ((s.eth p).missq.all (fun m => m.qp != n.toNat) = true → Runs (.qpcFetchDone p n) s (fun t => t = s)) ∧
    (4096 ≤ (s.roce.cached.filter (· != n.toNat)).length → s.roce.cached.all (fun v => s.qpBusy v) = true → Runs (.qpcFetchDone p n) s (fun t => t = s)) ∧
    ((s.eth p).missq.any (fun m => m.qp == n.toNat) = true → s.roce.cached.length < 4096 → s.poisoned (s.spillAt n.toNat) = false →
      s.qpServes n.toNat = false → Runs (.qpcFetchDone p n) s (fun t => (t.eth p).missq = (s.eth p).missq.filter (fun m => m.qp != n.toNat) ∧
        n.toNat ∈ t.roce.cached ∧ t.roce.qps = s.roce.qps ∧ Only [.regs, .roce] s t)) ∧
    (∀ m, (s.eth p).missq = [m] → m.qp = n.toNat → s.qpServes n.toNat = true → s.roce.cached.length < 4096 →
      s.poisoned (s.spillAt n.toNat) = false → (s.qp n.toNat).quiet = true → m.pkt.opcode ≠ 0x0C →
      2 ^ 24 - 2 ^ 22 ≤ (m.pkt.psn.toNat + 2 ^ 24 - (s.qp n.toNat).epsn) % 2 ^ 24 → Runs (.qpcFetchDone p n) s (fun t =>
        (t.eth p).missq = [] ∧ n.toNat ∈ t.roce.cached ∧ t.qp n.toNat = s.qp n.toNat ∧
        EthGoes s t (s.qp n.toNat).port [.ack n.toNat m.pkt.psn.toNat (s.qp n.toNat).msn] ∧ Only [.regs, .seqs, .sw, .roce] s t)) ∧
    ((s.eth p).missq.any (fun m => m.qp == n.toNat) = true → s.roce.cached.length < 4096 → s.roce.cached.contains n.toNat = false →
      s.poisoned (s.spillAt n.toNat) = true → s.qpServes n.toNat = true → Runs (.qpcFetchDone p n) s (fun t =>
        (t.qp n.toNat).state = .error ∧ (t.qp n.toNat).errStatus = stPoison ∧ (t.eth p).missq = (s.eth p).missq.filter (fun m => m.qp != n.toNat) ∧
        { vector := s.fld rRoceCtl 7 2, page := 0xFFFF } ∈ t.mgmt.raises ∧ t.mem = s.mem ∧ t.out = s.out))) ∧
  (∀ (s : State) (c : Packet) (x : Tracker) (r : RoceReq) (n : Nat), s.proxyTxn c = none → s.trackerFor c = some x → x.purpose = .roce n r.k →
    (s.qp n).state = .rtr → (s.qp n).reqs = [r] → s.roceTracked (s.qp n).port + 1 < 2048 → c.status.toNat < 12 →
    (∀ a m, c.status = stOK → r.use = .write → (s.qp n).acks = [a] → (s.qp n).msgs = [m] → m.write = true → m.ended = true → m.num = a.num →
      m.imm = none → a.last = true → Runs (.cmp c) s (fun t => (t.qp n).reqs = [] ∧ (t.qp n).acks = [] ∧ (t.qp n).msgs = [] ∧
        (t.qp n).msn = ((s.qp n).msn + 1) % 2 ^ 24 ∧ EthGoes s t (s.qp n).port [.ack n a.psn (((s.qp n).msn + 1) % 2 ^ 24)] ∧
        (∀ j, j ≠ n → t.qp j = s.qp j) ∧ Only [.regs, .seqs, .sw, .roce, .recov] s t)) ∧
    (c.status = stRetry → r.retries < 3 → Runs (.cmp c) s (fun t => (t.qp n).reqs = [{ r with retries := r.retries + 1 }] ∧ t.out = s.out ++ [r.pkt] ∧
      (∀ j, j ≠ n → t.qp j = s.qp j) ∧ Only [.roce, .recov, .out] s t)) ∧
    (∀ st, st = (if c.status = stRetry then stLostState else c.status) → c.status ≠ stOK → (c.status = stRetry → 3 ≤ r.retries) → (∀ off cut len, r.use ≠ .read off cut len) →
      Runs (.cmp c) s (fun t => EthGoes s t (s.qp n).port [.nak n r.psn (syndromeOf st)] ∧ (t.qp n).state = .error ∧ (t.qp n).errStatus = st ∧
        (t.qp n).errSyndrome = syndromeOf st ∧ (t.qp n).reqs = [] ∧ (t.qp n).msgs = [] ∧ (∀ j, j ≠ n → t.qp j = s.qp j) ∧
        Only [.regs, .seqs, .sw, .roce, .recov, .mgmt] s t)) ∧
    (∀ m cut len, c.status = stOK → r.use = .read 0 cut len → (s.qp n).acks = [] → (s.qp n).msgs = [m] → m.write = false → m.num = r.num → m.data = [] →
      m.resp = 0 → m.total = len → 0 < len → len ≤ (s.qp n).pmtu → cut + len ≤ c.payload.length → 0 ≤ (s.qp n).tokens → m.dup = false →
      s.twinOp 4 (BitVec.ofNat 32 n) = none → Runs (.cmp c) s (fun t => (t.qp n).reqs = [] ∧ (t.qp n).msgs = [] ∧
        (t.qp n).msn = ((s.qp n).msn + 1) % 2 ^ 24 ∧
        EthGoes s t (s.qp n).port [.readResponse 0x10 n (m.psn % 2 ^ 24) (((s.qp n).msn + 1) % 2 ^ 24) ((c.payload.drop cut).take len)] ∧
        (∀ j, j ≠ n → t.qp j = s.qp j) ∧ Only [.regs, .seqs, .sw, .roce, .recov] s t))) ∧
  (∀ (s : State) (p : PortIx) (k : RocePkt) (n : Nat), s.arrives 0x81 p k = true → s.qpOf k = some n → s.qpServes n = true →
    Runs (.cnp p k) s (fun t => t.qp n = (if s.since (s.qp n).decAt (s.fld rRoceCc 15 8) then
        { s.qp n with incAt := some s.sw.cycle, decAt := some s.sw.cycle,
                      rate := max (s.fld rRoceCc 63 48) ((s.qp n).rate - (s.qp n).rate / 2 ^ s.fld rRoceCc 27 24) }
      else { s.qp n with incAt := some s.sw.cycle }) ∧ Taken s t 0x81 p n k ∧ Only [.regs, .roce] s t)) ∧
  (∀ (s : State) (n : BitVec 16), let q := s.qp n.toNat
    (q.state = .rtr → s.since q.incAt (s.fld rRoceCc 23 16) = true → Runs (.roceRateIncrease n) s (fun t =>
      t.qp n.toNat = { q with rate := min 1000 (q.rate + s.fld rRoceCc 47 32), incAt := some s.sw.cycle } ∧ (∀ m, m ≠ n.toNat → t.qp m = s.qp m) ∧
      Only [.roce] s t)) ∧
    ((q.state ≠ .rtr ∨ s.since q.incAt (s.fld rRoceCc 23 16) = false) → Runs (.roceRateIncrease n) s (fun t => t = s)))

namespace Sys2Proof.Machine

/-- The QP that QP_CREATE takes from the staged context. -/
def State.stagedQp (s : State) : Qp :=
  { state := .rtr, words := (List.range 8).map (fun i => BitVec.ofNat 64 (s.reg (rRoceQpcData i))), epsn := nbits (s.reg (rRoceQpcData 1)) 47 24, rate := 1000 }

/-- The staged QP may be created as QP n: that QP is in RESET, and the parcel named binds the job tag and holds QP n. -/
def State.mayCreate (s : State) (n : Nat) : Bool :=
  (s.qp n).state == .reset && s.binds s.stagedQp.parcel s.stagedQp.job && s.holdsQp s.stagedQp.parcel n

/-- The staged context words. -/
def State.stagedWords (s : State) : List Nat := (List.range 16).map (fun i => s.reg (rRoceQpcData i))

/-- A frame for the raw ring (R408). -/
def rawEth (f : EthFrame) : Bool := if f.isRoce then f.icrcOk && f.roce.destQP == 1 else f.toPort || f.broadcast

/-- The QP that RoCE ingress serves for a frame. -/
def State.frameQp (s : State) (f : EthFrame) : Option Nat :=
  if f.isRoce && f.icrcOk then (s.qpOf f.roce).filter (fun n => s.qpServes n) else none

/-- An opcode that RoCE ingress serves (R415). -/
def roceOpOk (f : EthFrame) : Bool := (decide (0x06 ≤ f.roce.opcode.toNat) && decide (f.roce.opcode.toNat ≤ 0x0C)) || f.roce.opcode == 0x81

/-- The port's buffer has room for a frame of priority q (R410). -/
def State.frameRoom (s : State) (p q : Nat) (f : EthFrame) : Bool :=
  decide ((s.eth p).total + f.bytes.length ≤ 2 * 2 ^ 20) && (s.bit (rEthPfc p) q || decide ((s.eth p).held q < 1024 * s.fld (rEthPfc p) 18 8))

/-- The raw ring takes another record: it is enabled, not full, and its parcel binds a job tag (R426). -/
def State.rawTakes (s : State) : Bool :=
  s.bit rRoceRawRing 63 && (s.jobOf (s.fld rRoceRawRing 61 56)).isSome &&
  decide ((s.fld rRoceRawHead 31 0 + s.roce.rawQ.length + 2 ^ 32 - s.fld rRoceRawTail 31 0) % 2 ^ 32 < rawSize (s.reg rRoceRawRing))

/-- The write of a raw record to the position that HEAD names. -/
def State.isRawWrite (s : State) (p seq dropped : Nat) (bytes : List Byte) (c : Packet) : Prop :=
  c.opcode.toNat = opWRI ∧ c.len = 2048 ∧ some c.job.toNat = (s.jobOf (s.fld rRoceRawRing 61 56)).map (· % 2 ^ 16) ∧
  c.gfa.toNat = (s.ix * 2 ^ 46 + s.fld rRoceRawRing 45 12 * 0x1000 + s.fld rRoceRawHead 31 0 % rawSize (s.reg rRoceRawRing) * 2048) % 2 ^ 56 ∧
  c.payload = rawRecord p seq dropped bytes

/-- An ETH_PFC value that is refused (R411). -/
def pfcRefused (w : Nat) : Bool :=
  decide (2048 < ((List.range 8).filter (fun q => nbit w q)).length * (nbits w 18 8 + nbits w 40 30)) || decide (nbits w 18 8 ≤ nbits w 29 19)

/-- The QP and registration commands, each with its OP. -/
def qpForms : List (Nat × (Word → Instr)) := [(1, .qpCreate), (2, .qpQuery), (3, .qpFail), (4, .qpDestroy)]
def mrForms : List (Nat × (Word → Instr)) := [(1, .mrRegister), (2, .mrRevoke), (3, .mrQuery)]

/-- A DESTROY, or a REVOKE, is outstanding. -/
def State.qpHeld (s : State) : Bool := s.roce.qps.any (fun e => e.2.destroying)
def State.mrHeld (s : State) : Bool := s.roce.mrs.any (fun m => m.2.state == 2) && !s.bit rRoceMrCmd 62

/-- A command with GO that is taken. -/
def State.qpGo (s : State) (v : Word) : Bool := s.cfgOpen rRoceQpcCmd && v.getLsbD 63 && !s.qpHeld
def State.mrGo (s : State) (v : Word) : Bool := s.cfgOpen rRoceMrCmd && v.getLsbD 63 && !s.mrHeld

/-- A command of register c ended with a status. -/
def CmdEnded (t : State) (c : Nat) (st : Status) : Prop := t.fld c 23 20 = st.toNat ∧ t.bit c 62 = true

/-- It ended so, and nothing but the registers of its page changed. -/
def CmdRefused (s t : State) (c : Nat) (st : Status) : Prop := CmdEnded t c st ∧ Only [.regs, .seqs] s t ∧ OnlyPages [pgRoce] s t

end Sys2Proof.Machine

/-- A frame waits for RoCE ingress, goes to the raw ring, waits for its meter, or is discarded; an opcode that RoCE ingress does not know is answered with
NAK invalid. A raw record is written where HEAD points, one at a time; its completion moves HEAD and may release the stake, a failed one does neither; a
ring that is off or full drops the frame. PFC frames pause and resume priorities; a refused ETH_PFC write sets REFUSED. QP and registration commands move
their target between its states and end with their status, later when something is outstanding; without GO they write their fields, and while a DESTROY or
REVOKE is outstanding they are ignored; ROCE_ENABLE needs its spill region. RAW_TX puts a frame of T0 into the packet buffer. A link that goes down loses
what waited; one that comes up carries frames. SAK_INSTALL stores and zeroes the staged key. A scheduler round lasts two cycles, sends a cell of an
eligible packet or frame and one PFC frame of a port, and every 64 cycles the READ buckets gain. -/
def Obligations.EthernetAndItsCommands : Prop :=
  (∀ (s : State) (p : PortIx) (w : BitVec 8) (l : List (BitVec 16)),
    (s.ethOpen p = true → Runs (.pfcFrame p w l) s (fun t =>
      (∀ q, q < 8 → (t.eth p).paused.getLsbD q = if w.getLsbD q then decide (l.getD q 0 ≠ 0) else (s.eth p).paused.getLsbD q) ∧
      t.eth p = { s.eth p with paused := (t.eth p).paused } ∧ (∀ r, r ≠ p.val → t.eth r = s.eth r) ∧ Only [.roce] s t)) ∧
    (s.ethOpen p = false → Runs (.pfcFrame p w l) s (fun t => t = s))) ∧
  (∀ (s : State) (p : PortIx) (q : Fin 8),
    ((s.eth p).pausing.getLsbD q = true → Runs (.pfcRefresh p q) s (fun t =>
      t.roce = { s.roce with tx := s.roce.tx ++ [(p.val, .pfc q 0xFFFF)] } ∧ Only [.roce] s t)) ∧
    ((s.eth p).pausing.getLsbD q = false → Runs (.pfcRefresh p q) s (fun t => t = s)) ∧
    Runs (.pfcPauseExpiry p q) s (fun t => (∀ i, i < 8 → (t.eth p).paused.getLsbD i = ((s.eth p).paused.getLsbD i && i != q.val)) ∧
      t.eth p = { s.eth p with paused := (t.eth p).paused } ∧ (∀ r, r ≠ p.val → t.eth r = s.eth r) ∧ Only [.roce] s t)) ∧
  (∀ (s : State) (p : PortIx) (v : Word), let w := v.toNat % 2 ^ 41
    (s.cfgOpen (rEthPfc p) = false → Runs (.pfcConfig p v) s (fun t => t = s)) ∧
    (s.cfgOpen (rEthPfc p) = true → s.portRole p ≠ roleEth → Runs (.pfcConfig p v) s (fun t => Only [.seqs] s t)) ∧
    (s.cfgOpen (rEthPfc p) = true → s.portRole p = roleEth → pfcRefused w = false → Runs (.pfcConfig p v) s (fun t =>
      t.reg (rEthPfc p) = w ∧ (∀ c, c ≠ rEthPfc p → t.reg c = s.reg c) ∧ Only [.regs, .seqs, .roce] s t)) ∧
    (s.cfgOpen (rEthPfc p) = true → s.portRole p = roleEth → pfcRefused w = true → Runs (.pfcConfig p v) s (fun t =>
      t.bit (rEthPfc p) 63 = true ∧ (∀ i, i < 63 → t.bit (rEthPfc p) i = s.bit (rEthPfc p) i) ∧ (∀ c, c ≠ rEthPfc p → t.reg c = s.reg c) ∧
      Only [.regs, .seqs] s t))) ∧
  (∀ (s : State) (p : PortIx) (f : EthFrame), let q := s.ethPrio p f
    (s.ethOpen p = false → Runs (.ethFrame p f) s (fun t => t = s)) ∧
    (s.ethOpen p = true → rawEth f = false → s.frameQp f = none → Runs (.ethFrame p f) s (fun t => Only [.regs] s t ∧ OnlyPages [pgRoce] s t)) ∧
    (∀ n, s.ethOpen p = true → rawEth f = false → s.frameQp f = some n → roceOpOk f = false → Runs (.ethFrame p f) s (fun t =>
      QpFailed s t n f.roce.psn.toNat stUnsupported synInvalid ∧ t.roce.eth = s.roce.eth)) ∧
    (s.ethOpen p = true → (rawEth f = true ∨ (s.frameQp f ≠ none ∧ roceOpOk f = true)) → s.frameRoom p q f = false → Runs (.ethFrame p f) s (fun t =>
      Only [.regs] s t ∧ OnlyPages [pgRoce] s t)) ∧
    (s.ethOpen p = true → rawEth f = false → s.frameQp f ≠ none → roceOpOk f = true → s.frameRoom p q f = true → Runs (.ethFrame p f) s (fun t =>
      (t.eth p).buffer = (s.eth p).buffer ++ [(q, f)] ∧ t.roce.qps = s.roce.qps ∧ (∀ r, r ≠ p.val → t.eth r = s.eth r) ∧ Only [.roce] s t)) ∧
    (∀ g, s.ethOpen p = true → rawEth f = true → s.frameRoom p q f = true → (s.eth p).buffer.find? (fun x => x.1 == q) = some g → g.2.isRoce = true →
      g.2.roce.destQP ≠ 1 → Runs (.ethFrame p f) s (fun t => (t.eth p).buffer = (s.eth p).buffer ++ [(q, f)] ∧ Only [.roce] s t)) ∧
    (s.ethOpen p = true → rawEth f = true → s.frameRoom p q f = true → (s.eth p).buffer.all (fun x => x.1 != q) = true →
      (let y := s.meter (ethMeter p q)
      (y.en = true → y.colour (if (f.vlan.map (fun v => v.2)).getD false then .yellow else .green) f.bytes.length = .red →
        Runs (.ethFrame p f) s (fun t => (t.eth p).buffer = (s.eth p).buffer ++ [(q, f)] ∧ t.roce.rawQ = s.roce.rawQ ∧ Only [.regs, .seqs, .roce] s t)) ∧
      (y.en = false → s.rawTakes = true → Runs (.ethFrame p f) s (fun t => (t.eth p).buffer = (s.eth p).buffer ∧
        t.roce.rawQ = s.roce.rawQ ++ [(p.val, s.seq (aidRoce p) + 1, s.roce.rawDropped, f.bytes)] ∧ t.roce.rawDropped = 0 ∧
        (s.roce.rawQ = [] → Sent s t (s.isRawWrite p (s.seq (aidRoce p) + 1) s.roce.rawDropped f.bytes)) ∧ (s.roce.rawQ ≠ [] → t.out = s.out) ∧
        Only [.regs, .seqs, .roce, .recov, .out] s t)) ∧
      (y.en = false → s.rawTakes = false → Runs (.ethFrame p f) s (fun t => (t.eth p).buffer = (s.eth p).buffer ∧ t.roce.rawQ = s.roce.rawQ ∧
        t.roce.rawDropped = s.roce.rawDropped + 1 ∧ t.fld rRoceRawHead 63 32 = (s.fld rRoceRawHead 63 32 + 1) % 2 ^ 32 ∧
        t.fld rRoceRawHead 31 0 = s.fld rRoceRawHead 31 0 ∧ Only [.regs, .seqs, .roce] s t))))) ∧
  (∀ (s : State) (c : Packet) (x : Tracker) (e : Nat × Nat × Nat × List Byte), s.proxyTxn c = none → s.trackerFor c = some x → x.purpose = .rawRing →
    c.status.toNat < 12 → s.roce.rawQ = [e] →
    (c.status = stOK → Runs (.cmp c) s (fun t => t.roce.rawQ = [] ∧ t.fld rRoceRawHead 31 0 = (s.fld rRoceRawHead 31 0 + 1) % 2 ^ 32 ∧
      (let n := s.fld rRoceRawTail 45 32
      (s.bit rRoceRawTail 48 = true → (s.stake n).lost = false → (t.stake n).value = (s.stake n).value + 1 ∧ ∀ k, k ≠ n → t.stake k = s.stake k) ∧
      (s.bit rRoceRawTail 48 = false → t.stk = s.stk)) ∧ t.out = s.out ∧ Only [.regs, .seqs, .stk, .roce, .recov] s t)) ∧
    (c.status ≠ stOK → Runs (.cmp c) s (fun t => t.roce.rawQ = [] ∧ t.roce.rawDropped = s.roce.rawDropped + 1 ∧
      t.fld rRoceRawHead 31 0 = s.fld rRoceRawHead 31 0 ∧ Only [.regs, .roce, .recov] s t))) ∧
  (∀ (s : State) (v : Word), let w := nbits v.toNat 25 0
    (s.cfgOpen rRoceCtl = false → Runs (.roceEnable v) s (fun t => t = s)) ∧
    (s.cfgOpen rRoceCtl = true → s.bit rRoceCtl 0 = false → v.getLsbD 0 = true → s.spillExt (nbits v.toNat 7 2) = true → Runs (.roceEnable v) s (fun t =>
      t.reg rRoceCtl = w ∧ (∀ c, c ≠ rRoceCtl → t.reg c = s.reg c) ∧ Only [.regs, .seqs] s t)) ∧
    (s.cfgOpen rRoceCtl = true → s.bit rRoceCtl 0 = false → v.getLsbD 0 = true → s.spillExt (nbits v.toNat 7 2) = false → Runs (.roceEnable v) s (fun t =>
      t.reg rRoceCtl = w - 1 ∧ (t.book bookChip).queue.length = (s.book bookChip).queue.length + 1 ∧ Only [.regs, .seqs, .recov, .mgmt] s t)) ∧
    (s.cfgOpen rRoceCtl = true → s.bit rRoceCtl 0 = true → v.getLsbD 0 = true → Runs (.roceEnable v) s (fun t => Only [.seqs] s t)) ∧
    (s.cfgOpen rRoceCtl = true → v.getLsbD 0 = false → Runs (.roceEnable v) s (fun t => t.bit rRoceCtl 0 = false ∧
      (s.bit rRoceCtl 0 = false → t.reg rRoceCtl = w) ∧ (s.bit rRoceCtl 0 = true → ∀ i, 0 < i → t.bit rRoceCtl i = s.bit rRoceCtl i) ∧
      (∀ c, c ≠ rRoceCtl → t.reg c = s.reg c) ∧ Only [.regs, .seqs] s t))) ∧
  (∀ (s : State) (v : Word),
    (∀ w ∈ qpForms, (s.cfgOpen rRoceQpcCmd = false → Runs (w.2 v) s (fun t => t = s)) ∧
      (s.cfgOpen rRoceQpcCmd = true → s.qpHeld = true → Runs (w.2 v) s (fun t => Only [.seqs] s t)) ∧
      (s.cfgOpen rRoceQpcCmd = true → s.qpHeld = false → v.getLsbD 63 = false → Runs (w.2 v) s (fun t =>
        t.fld rRoceQpcCmd 15 0 = nbits v.toNat 15 0 ∧ t.fld rRoceQpcCmd 19 16 = w.1 ∧ (∀ c, c ≠ rRoceQpcCmd → t.reg c = s.reg c) ∧ Only [.regs, .seqs] s t))) ∧
    (∀ w ∈ mrForms, (s.cfgOpen rRoceMrCmd = false → Runs (w.2 v) s (fun t => t = s)) ∧
      (s.cfgOpen rRoceMrCmd = true → s.mrHeld = true → Runs (w.2 v) s (fun t => Only [.seqs] s t)) ∧
      (s.cfgOpen rRoceMrCmd = true → s.mrHeld = false → v.getLsbD 63 = false → Runs (w.2 v) s (fun t =>
        t.fld rRoceMrCmd 13 0 = nbits v.toNat 13 0 ∧ t.fld rRoceMrCmd 17 16 = w.1 ∧ (∀ c, c ≠ rRoceMrCmd → t.reg c = s.reg c) ∧ Only [.regs, .seqs] s t)))) ∧
  (∀ (s : State) (v : Word), s.qpGo v = true → let n := nbits v.toNat 15 0
    (s.mayCreate n = true → ctxBad s.stagedWords = false → Runs (.qpCreate v) s (fun t => t.qp n = s.stagedQp ∧ CmdEnded t rRoceQpcCmd stOK ∧
      (∀ m, m ≠ n → t.qp m = s.qp m) ∧ t.roce.mrs = s.roce.mrs ∧ (s.roce.cached.length < 4096 → n ∈ t.roce.cached ∧ t.mem = s.mem) ∧
      (s.bit rRoceCtl 1 = false → Only [.regs, .seqs, .mem, .roce] s t))) ∧
    (s.mayCreate n = false → Runs (.qpCreate v) s (fun t => CmdRefused s t rRoceQpcCmd stAccessFault)) ∧
    (s.mayCreate n = true → ctxBad s.stagedWords = true → Runs (.qpCreate v) s (fun t => CmdRefused s t rRoceQpcCmd stUnsupported)) ∧
    Runs (.qpQuery v) s (fun t => (∀ i, i < 8 → t.reg (rRoceQpcData i) = (ctxWords (s.qp n)).getD i 0 % 2 ^ 64) ∧ CmdEnded t rRoceQpcCmd stOK ∧
      Only [.regs, .seqs, .free] s t ∧ OnlyPages [pgRoce] s t) ∧
    ((s.qp n).state = .rtr → Runs (.qpFail v) s (fun t => (t.qp n).state = .error ∧ (t.qp n).msgs = [] ∧ (t.qp n).acks = [] ∧
      (t.qp n).reqs = (s.qp n).reqs.filter (fun r => r.issued) ∧ CmdEnded t rRoceQpcCmd stOK ∧ (∀ m, m ≠ n → t.qp m = s.qp m) ∧
      Only [.regs, .seqs, .roce, .recov, .mgmt] s t)) ∧
    ((s.qp n).state ≠ .rtr → Runs (.qpFail v) s (fun t => CmdRefused s t rRoceQpcCmd stAccessFault)) ∧
    Runs (.qpDestroy v) s (fun t => (t.qp n).state = .reset ∧ (t.qp n).msgs = [] ∧ (t.qp n).acks = [] ∧
      (t.qp n).reqs = (s.qp n).reqs.filter (fun r => r.issued) ∧ n ∉ t.roce.cached ∧ (∀ m, m ≠ n → t.qp m = s.qp m) ∧
      ((t.qp n).reqs = [] → (t.qp n).destroying = false ∧ CmdEnded t rRoceQpcCmd stOK) ∧
      ((t.qp n).reqs ≠ [] → (t.qp n).destroying = true ∧ t.bit rRoceQpcCmd 62 = false) ∧ Only [.regs, .seqs, .roce, .recov] s t)) ∧
  (∀ (s : State) (n : BitVec 16),
    ((s.qp n.toNat).destroying = true → (s.qp n.toNat).reqs = [] → Runs (.qpDestroyDone n) s (fun t =>
      t.qp n.toNat = { s.qp n.toNat with destroying := false } ∧ (∀ m, m ≠ n.toNat → t.qp m = s.qp m) ∧ CmdEnded t rRoceQpcCmd stOK ∧ Only [.regs, .roce] s t)) ∧
    (((s.qp n.toNat).destroying = false ∨ (s.qp n.toNat).reqs ≠ []) → Runs (.qpDestroyDone n) s (fun t => t = s))) ∧
  (∀ (s : State) (v : Word), s.mrGo v = true → let n := nbits v.toNat 13 0
    let len := s.reg (rRoceMrData 3) % 2 ^ 41
    ((s.mr n).state = 0 → len ≠ 0 → Runs (.mrRegister v) s (fun t =>
      t.mr n = { state := 1, words := (List.range 4).map (fun i => BitVec.ofNat 64 (s.reg (rRoceMrData i))) } ∧ CmdEnded t rRoceMrCmd stOK ∧
      (∀ m, m ≠ n → t.mr m = s.mr m) ∧ t.roce.qps = s.roce.qps ∧ Only [.regs, .seqs, .roce] s t ∧ OnlyPages [pgRoce] s t)) ∧
    ((s.mr n).state ≠ 0 → Runs (.mrRegister v) s (fun t => CmdRefused s t rRoceMrCmd stAccessFault)) ∧
    ((s.mr n).state = 0 → len = 0 → Runs (.mrRegister v) s (fun t => CmdRefused s t rRoceMrCmd stUnsupported)) ∧
    ((s.mr n).state = 1 → s.mrBusy n = false → Runs (.mrRevoke v) s (fun t => t.mr n = { s.mr n with state := 0 } ∧ CmdEnded t rRoceMrCmd stOK ∧
      (∀ m, m ≠ n → t.mr m = s.mr m) ∧ t.roce.qps = s.roce.qps ∧ Only [.regs, .seqs, .roce] s t ∧ OnlyPages [pgRoce] s t)) ∧
    ((s.mr n).state = 1 → s.mrBusy n = true → Runs (.mrRevoke v) s (fun t => t.mr n = { s.mr n with state := 2 } ∧ t.bit rRoceMrCmd 62 = false ∧
      (∀ m, m ≠ n → t.mr m = s.mr m) ∧ t.roce.qps = s.roce.qps ∧ Only [.regs, .seqs, .roce] s t ∧ OnlyPages [pgRoce] s t)) ∧
    ((s.mr n).state ≠ 1 → Runs (.mrRevoke v) s (fun t => CmdRefused s t rRoceMrCmd stAccessFault)) ∧
    Runs (.mrQuery v) s (fun t => (∀ i, i < 4 → t.reg (rRoceMrData i) =
        if i = 0 then nsetBits ((s.mr n).words.getD 0 0).toNat 1 0 (s.mr n).state else ((s.mr n).words.getD i 0).toNat) ∧
      CmdRefused s t rRoceMrCmd stOK)) ∧
  (∀ (s : State) (k : Fin 16384),
    ((s.mr k).state = 2 → Runs (.mrRevokeTimeout k) s (fun t => (t.mr k).state = 0 ∧ (s.mrNamed k = true → t.bit rRoceMrCmd 62 = true) ∧
      (∀ n, (s.qp n).state = .rtr → (s.qp n).msgs.any (fun m => m.mr == k.val) = true → (t.qp n).state = .error ∧ (t.qp n).errSyndrome = synAccess ∧
        (s.ethOpen (s.qp n).port = true → ((s.qp n).port, RoceTx.nak n (s.qp n).epsn synAccess) ∈ t.ethFrames)) ∧ t.mem = s.mem ∧ t.out = s.out)) ∧
    ((s.mr k).state ≠ 2 → Runs (.mrRevokeTimeout k) s (fun t => t = s))) ∧
  (∀ (s : State) (v : Word), let g := s.reg rRoceRawTx0
    let n := nbits v.toNat 13 0
    let p := nbits v.toNat 20 14
    let ok := s.ethOpen p && decide (60 ≤ n) && decide (n ≤ 9216) && g / 2 ^ 46 == s.ix && g % 64 == 0 && decide (g % 2 ^ 46 + n ≤ t0End)
    (s.cfgOpen rRoceRawTx1 = false → Runs (.rawTx v) s (fun t => t = s)) ∧
    (s.cfgOpen rRoceRawTx1 = true → v.getLsbD 63 = true → ok = true → Runs (.rawTx v) s (fun t => t.reg rRoceRawTx1 = nbits v.toNat 23 0 ∧
      EthGoes s t p [.raw (nbits v.toNat 23 21) (memRead s.mem.cells (g % 2 ^ 46) n)] ∧ Only [.regs, .seqs, .sw] s t)) ∧
    (s.cfgOpen rRoceRawTx1 = true → v.getLsbD 63 = true → ok = false → Runs (.rawTx v) s (fun t => t.reg rRoceRawTx1 = nbits v.toNat 23 0 ∧
      (∀ c, c ≠ rRoceRawTx1 → t.reg c = s.reg c) ∧ Only [.regs, .seqs] s t)) ∧
    (s.cfgOpen rRoceRawTx1 = true → v.getLsbD 63 = false → Runs (.rawTx v) s (fun t =>
      t.reg rRoceRawTx1 = nbits v.toNat 23 0 + (if s.bit rRoceRawTx1 62 then 2 ^ 62 else 0) ∧ (∀ c, c ≠ rRoceRawTx1 → t.reg c = s.reg c) ∧
      Only [.regs, .seqs] s t))) ∧
  (∀ (s : State) (p : PortIx),
    (s.portRole p = roleEth → s.portState p = 2 → (s.link p).ethUp = true → Runs (.ethLinkDown p) s (fun t =>
      t.portState p = (if s.bit (rPortCtl p) 0 then 1 else 4) ∧ t.fld (rPortStat p) 15 8 = 2 ∧ (t.link p).ethUp = false ∧
      t.roce.tx = s.roce.tx.filter (fun x => x.1 != p.val) ∧ (∀ x ∈ t.sw.buf ++ t.sw.stalled, ∀ o ∈ x.outs, o.1 ≠ p.val) ∧
      (t.eth p).buffer = [] ∧ (t.eth p).missq = [] ∧ (∀ n, (t.qp n).state = (s.qp n).state ∧ (t.qp n).epsn = (s.qp n).epsn ∧
        (t.qp n).msgs = if (s.qp n).port = p.val then (s.qp n).msgs.filter (fun m => m.write) else (s.qp n).msgs) ∧
      t.extents = s.extents ∧ t.mem = s.mem ∧ t.out = s.out)) ∧
    ((s.portRole p ≠ roleEth ∨ (s.link p).ethUp = false) → Runs (.ethLinkDown p) s (fun t => t = s)) ∧
    (s.portRole p = roleEth → s.portState p = 1 → Runs (.ethLinkUp p) s (fun t => t.portState p = 2 ∧ t.ethOpen p = true ∧
      t.fld (rPortStat p) 15 8 = 0 ∧ t.fld (rPortStat p) 5 3 = 7 ∧ t.fld (rPortStat p) 23 16 = 0 ∧ Only [.regs, .links, .mgmt] s t)) ∧
    ((s.portRole p ≠ roleEth ∨ s.portState p ≠ 1) → Runs (.ethLinkUp p) s (fun t => t = s))) ∧
  (∀ (s : State) (v : Word), let k := 8 * nbits v.toNat 6 0 + 2 * nbits v.toNat 8 7 + nbits v.toNat 9 9
    (s.cfgOpen rLcSel = false → Runs (.sakInstall v) s (fun t => t = s)) ∧
    (s.cfgOpen rLcSel = true → v.getLsbD 63 = true → Runs (.sakInstall v) s (fun t =>
      kget t.roce.saks k = some { key := (List.range 4).map (fun i => BitVec.ofNat 64 (s.reg (rLcSak i))),
                                  salt := (List.range 2).map (fun i => BitVec.ofNat 64 (s.reg (rLcSalt i))),
                                  ssci := BitVec.ofNat 64 (s.reg rLcSsci), pn := BitVec.ofNat 64 (s.reg rLcPn) } ∧
      (∀ j, j ≠ k → kget t.roce.saks j = kget s.roce.saks j) ∧ (∀ i, i < 4 → t.reg (rLcSak i) = State.reset.reg (rLcSak i)) ∧
      t.reg rLcSel = nbits v.toNat 9 0 + 2 ^ 62 ∧ Only [.regs, .seqs, .roce] s t)) ∧
    (s.cfgOpen rLcSel = true → v.getLsbD 63 = false → Runs (.sakInstall v) s (fun t =>
      t.reg rLcSel = nbits v.toNat 9 0 + (if s.bit rLcSel 62 then 2 ^ 62 else 0) ∧ (∀ c, c ≠ rLcSel → t.reg c = s.reg c) ∧ Only [.regs, .seqs] s t))) ∧
  (∀ (s : State) (x : Stored) (o : Nat × Nat), s.sw.buf = [x] → s.sw.stalled = [] → x.outs = [o] → x.started = [] → s.eligible x o = true →
    s.roce.qps = [] → s.roce.tx = [] →
    (x.frame = none → s.roce.eth = [] → 1 ≤ pktFlits x.pkt → pktFlits x.pkt ≤ 2 → Runs .schedulerRound s (fun t =>
      t.sw.buf = [] ∧ t.sw.cycle = s.sw.cycle + 2 ∧ (t.link o.1).txq.length = (s.link o.1).txq.length + pktFlits x.pkt ∧
      t.creditOf o.1 o.2 = s.creditOf o.1 o.2 - pktFlits x.pkt ∧ (∀ j, j ≠ o.1 → t.link j = s.link j) ∧ t.roce = s.roce ∧ t.mem = s.mem ∧ t.out = s.out)) ∧
    (∀ f, x.frame = some f → x.cells = 1 → s.roce.eth.all (fun e => e.2.buffer.isEmpty) = true → Runs .schedulerRound s (fun t =>
      t.sw.buf = [] ∧ t.sw.cycle = s.sw.cycle + 2 ∧ (t.eth o.1).lastTx = some f.tx ∧ (∀ r, r ≠ o.1 → t.eth r = s.eth r) ∧
      (∀ q b, f.tx = .raw q b → t.bit rRoceRawTx1 62 = true) ∧ t.links = s.links ∧ t.mem = s.mem ∧ t.out = s.out)) ∧
    (∀ f, x.frame = some f → 1 < x.cells → s.roce.eth.all (fun e => e.2.buffer.isEmpty) = true → Runs .schedulerRound s (fun t =>
      t.sw.buf = [{ x with started := [(o.1, o.2, 1)], res := x.res + 2 }] ∧ t.sw.cycle = s.sw.cycle + 2 ∧ t.roce = s.roce ∧ t.links = s.links ∧
      t.mem = s.mem ∧ t.out = s.out))) ∧
  (∀ (s : State) (p : Fin 32) (x : RoceTx), s.sw.buf = [] → s.sw.stalled = [] → s.roce.qps = [] → s.roce.eth.all (fun e => e.2.buffer.isEmpty) = true →
    s.roce.tx = [(96 + p.val, x)] →
    (s.ethOpen (96 + p) = true → Runs .schedulerRound s (fun t => t.roce.tx = [] ∧ (t.eth (96 + p)).lastTx = some x ∧
      (∀ r, r ≠ 96 + p.val → t.eth r = s.eth r) ∧ t.sw.cycle = s.sw.cycle + 2 ∧ t.out = s.out ∧ t.mem = s.mem)) ∧
    (s.ethOpen (96 + p) = false → Runs .schedulerRound s (fun t => t.roce = s.roce ∧ t.sw.cycle = s.sw.cycle + 2 ∧ t.out = s.out ∧ t.mem = s.mem))) ∧
  (∀ (s : State), s.sw.buf = [] → s.sw.stalled = [] → s.roce.eth = [] → s.roce.tx = [] → s.sw.cycle / 64 ≠ (s.sw.cycle + 2) / 64 →
    s.roce.qps.all (fun e => e.2.msgs.all (fun m => m.write)) = true → Runs .schedulerRound s (fun t => t.sw.cycle = s.sw.cycle + 2 ∧
      (∀ n q, kget s.roce.qps n = some q →
        t.qp n = { q with tokens := min (Int.ofNat (1024 * s.fld rRoceCc1 15 0)) (q.tokens + Int.ofNat (s.gain64 q.rate)) }) ∧
      t.out = s.out ∧ t.mem = s.mem ∧ t.links = s.links))
end

