-- ==== Sys2Proof/Laws/Maps.lean ====
section
/-!
SUPPORT. Laws of the tables and of memory: a read after a write, every other place left alone, and the canonical form kept by every
operation over them.
-/
namespace Sys2Proof.Machine

/-! ### Tables -/

@[simp] theorem kget_nil {α : Type} (a : Nat) : kget ([] : KMap α) a = none := rfl

theorem kget_kset_self {α : Type} (m : KMap α) (a : Nat) (v : α) : kget (kset m a v) a = some v := by
  induction m with
  | nil => simp [kset, kget]
  | cons e rest ih =>
    obtain ⟨k, w⟩ := e
    simp only [kset]
    split
    · simp [kget]
    · split
      · simp [kget]
      · rename_i h
        have : k ≠ a := fun e => h e.symm
        simp [kget, this, ih]

theorem kget_kset_ne {α : Type} (m : KMap α) (a b : Nat) (v : α) (hab : b ≠ a) : kget (kset m a v) b = kget m b := by
  induction m with
  | nil => simp [kset, kget, Ne.symm hab]
  | cons e rest ih =>
    obtain ⟨k, w⟩ := e
    simp only [kset]
    split
    · simp [kget, Ne.symm hab]
    · split
      · rename_i h; subst h; simp [kget, Ne.symm hab]
      · simp [kget, ih]

@[simp] theorem kgetD_kset_self {α : Type} (m : KMap α) (a : Nat) (v d : α) : kgetD (kset m a v) a d = v := by
  simp [kgetD, kget_kset_self]

theorem kgetD_kset_ne {α : Type} (m : KMap α) (a b : Nat) (v d : α) (hab : b ≠ a) : kgetD (kset m a v) b d = kgetD m b d := by
  simp [kgetD, kget_kset_ne m a b v hab]

theorem risesFrom_le {α : Type} (m : KMap α) (lo lo' : Nat) (hl : lo' ≤ lo) (h : risesFrom lo m = true) : risesFrom lo' m = true := by
  cases m with
  | nil => rfl
  | cons e rest =>
    obtain ⟨k, v⟩ := e
    simp only [risesFrom, Bool.and_eq_true, decide_eq_true_eq] at h ⊢
    exact ⟨by omega, h.2⟩

theorem risesFrom_kset {α : Type} (m : KMap α) (lo a : Nat) (v : α) (hl : lo ≤ a) (h : risesFrom lo m = true) :
    risesFrom lo (kset m a v) = true := by
  induction m generalizing lo with
  | nil => simp [kset, risesFrom, hl]
  | cons e rest ih =>
    obtain ⟨k, w⟩ := e
    simp only [risesFrom, Bool.and_eq_true, decide_eq_true_eq] at h
    simp only [kset]
    split
    · simp only [risesFrom, Bool.and_eq_true, decide_eq_true_eq]
      exact ⟨hl, by omega, h.2⟩
    · split
      · rename_i e; subst e
        simp only [risesFrom, Bool.and_eq_true, decide_eq_true_eq]
        exact h
      · simp only [risesFrom, Bool.and_eq_true, decide_eq_true_eq]
        exact ⟨h.1, ih (k + 1) (by omega) h.2⟩

/-- Writing an entry keeps the keys strictly rising. -/
theorem wf_kset {α : Type} (m : KMap α) (a : Nat) (v : α) (h : KMap.wf m = true) : KMap.wf (kset m a v) = true :=
  risesFrom_kset m 0 a v (Nat.zero_le a) h

theorem risesFrom_filter {α : Type} (m : KMap α) (lo : Nat) (q : Nat × α → Bool) (h : risesFrom lo m = true) :
    risesFrom lo (m.filter q) = true := by
  induction m generalizing lo with
  | nil => rfl
  | cons e rest ih =>
    obtain ⟨k, v⟩ := e
    simp only [risesFrom, Bool.and_eq_true, decide_eq_true_eq] at h
    simp only [List.filter_cons]
    split
    · simp only [risesFrom, Bool.and_eq_true, decide_eq_true_eq]
      exact ⟨h.1, ih (k + 1) h.2⟩
    · exact risesFrom_le _ (k + 1) lo (by omega) (ih (k + 1) h.2)

/-- Removing entries keeps the keys strictly rising. -/
theorem wf_filter {α : Type} (m : KMap α) (q : Nat × α → Bool) (h : KMap.wf m = true) : KMap.wf (m.filter q) = true :=
  risesFrom_filter m 0 q h

theorem wf_kdel {α : Type} (m : KMap α) (a : Nat) (h : KMap.wf m = true) : KMap.wf (kdel m a) = true :=
  wf_filter m _ h

/-! ### Memory -/

theorem memWfFrom_le (m : List Host.Cell) (lo lo' : Nat) (hl : lo' ≤ lo) (h : memWfFrom lo m = true) : memWfFrom lo' m = true := by
  cases m with
  | nil => rfl
  | cons e rest =>
    obtain ⟨k, v⟩ := e
    simp only [memWfFrom, Bool.and_eq_true, decide_eq_true_eq] at h ⊢
    exact ⟨⟨by omega, h.1.2⟩, h.2⟩

/-- An address below the list's first reads as zero. -/
theorem memGet_below (m : List Host.Cell) (lo a : Nat) (h : memWfFrom lo m = true) (ha : a < lo) : memGet m a = 0 := by
  induction m generalizing lo with
  | nil => rfl
  | cons e rest ih =>
    obtain ⟨k, w⟩ := e
    simp only [memWfFrom, Bool.and_eq_true, decide_eq_true_eq] at h
    have : k ≠ a := by omega
    simp only [memGet, this, if_false]
    exact ih (k + 1) h.2 (by omega)

theorem memWfFrom_memSet (m : List Host.Cell) (lo a : Nat) (v : Byte) (hl : lo ≤ a) (h : memWfFrom lo m = true) :
    memWfFrom lo (memSet m a v) = true := by
  induction m generalizing lo with
  | nil =>
    simp only [memSet]
    split
    · rfl
    · rename_i hv
      simpa [memWfFrom, hl] using hv
  | cons e rest ih =>
    obtain ⟨k, w⟩ := e
    have h' := h
    simp only [memWfFrom, Bool.and_eq_true, decide_eq_true_eq] at h
    simp only [memSet]
    split
    · split
      · exact h'
      · rename_i hak hv
        simp only [memWfFrom, Bool.and_eq_true, decide_eq_true_eq, bne_iff_ne, ne_eq]
        exact ⟨⟨hl, hv⟩, ⟨by omega, by simpa using h.1.2⟩, h.2⟩
    · split
      · rename_i e; subst e
        split
        · exact memWfFrom_le _ _ _ (by omega) h.2
        · rename_i hv
          simp only [memWfFrom, Bool.and_eq_true, decide_eq_true_eq, bne_iff_ne, ne_eq]
          exact ⟨⟨hl, hv⟩, h.2⟩
      · simp only [memWfFrom, Bool.and_eq_true, decide_eq_true_eq]
        exact ⟨h.1, ih (k + 1) (by omega) h.2⟩

/-- Writing a byte keeps the canonical form. -/
theorem wf_memSet (m : List Host.Cell) (a : Nat) (v : Byte) (h : Memory.wf m = true) : Memory.wf (memSet m a v) = true :=
  memWfFrom_memSet m 0 a v (Nat.zero_le a) h

theorem memGet_memSet_self_from (m : List Host.Cell) (lo a : Nat) (v : Byte) (h : memWfFrom lo m = true) :
    memGet (memSet m a v) a = v := by
  induction m generalizing lo with
  | nil =>
    simp only [memSet]
    split
    · rename_i hv; simp [memGet, hv]
    · simp [memGet]
  | cons e rest ih =>
    obtain ⟨k, w⟩ := e
    simp only [memWfFrom, Bool.and_eq_true, decide_eq_true_eq] at h
    simp only [memSet]
    split
    · rename_i hak
      split
      · rename_i hv
        have hk : k ≠ a := by omega
        simp only [memGet, hk, if_false]
        rw [memGet_below rest (k + 1) a h.2 (by omega), hv]
      · simp [memGet]
    · split
      · rename_i e; subst e
        split
        · rename_i hv
          rw [memGet_below rest (a + 1) a h.2 (by omega), hv]
        · simp [memGet]
      · rename_i e
        have hk : k ≠ a := fun x => e x.symm
        simp only [memGet, hk, if_false]
        exact ih (k + 1) h.2

/-- A read after a write to the same address gives the byte written. -/
theorem memGet_memSet_self (m : List Host.Cell) (a : Nat) (v : Byte) (h : Memory.wf m = true) : memGet (memSet m a v) a = v :=
  memGet_memSet_self_from m 0 a v h

/-- A write leaves every other address alone. -/
theorem memGet_memSet_ne (m : List Host.Cell) (a b : Nat) (v : Byte) (hab : b ≠ a) : memGet (memSet m a v) b = memGet m b := by
  induction m with
  | nil =>
    simp only [memSet]
    split <;> simp [memGet, Ne.symm hab]
  | cons e rest ih =>
    obtain ⟨k, w⟩ := e
    simp only [memSet]
    split
    · split
      · rfl
      · simp [memGet, Ne.symm hab]
    · split
      · rename_i e; subst e
        split <;> simp [memGet, Ne.symm hab]
      · simp [memGet, ih]

/-- Writing bytes keeps the canonical form. -/
theorem wf_memWrite (bs : List Byte) (m : List Host.Cell) (a : Nat) (h : Memory.wf m = true) : Memory.wf (memWrite m a bs) = true := by
  induction bs generalizing m a with
  | nil => exact h
  | cons b rest ih => exact ih _ _ (wf_memSet m a b h)

/-- Bytes outside those written keep their value. -/
theorem memGet_memWrite_outside (bs : List Byte) (m : List Host.Cell) (a x : Nat) (hx : x < a ∨ a + bs.length ≤ x) :
    memGet (memWrite m a bs) x = memGet m x := by
  induction bs generalizing m a with
  | nil => rfl
  | cons b rest ih =>
    simp only [memWrite, List.length_cons] at hx ⊢
    rw [ih _ _ (by omega), memGet_memSet_ne _ _ _ _ (by omega)]

/-- A read of bytes just written gives them back. -/
theorem memRead_memWrite (bs : List Byte) (m : List Host.Cell) (a : Nat) (h : Memory.wf m = true) :
    memRead (memWrite m a bs) a bs.length = bs := by
  induction bs generalizing m a with
  | nil => rfl
  | cons b rest ih =>
    simp only [memWrite, List.length_cons, memRead]
    rw [ih _ _ (wf_memSet m a b h), memGet_memWrite_outside _ _ _ _ (by omega), memGet_memSet_self m a b h]

/-- A masked write keeps the canonical form. -/
theorem wf_memWriteMask (bs : List Byte) (m : List Host.Cell) (a i mask : Nat) (h : Memory.wf m = true) :
    Memory.wf (memWriteMask m a i mask bs) = true := by
  induction bs generalizing m i with
  | nil => exact h
  | cons b rest ih =>
    simp only [memWriteMask]
    split
    · exact ih _ _ (wf_memSet _ _ _ h)
    · exact ih _ _ h

/-- Bytes outside the line that a masked write names keep their value. -/
theorem memGet_memWriteMask_outside (bs : List Byte) (m : List Host.Cell) (a i mask x : Nat) (hx : x < a + i ∨ a + i + bs.length ≤ x) :
    memGet (memWriteMask m a i mask bs) x = memGet m x := by
  induction bs generalizing m i with
  | nil => rfl
  | cons b rest ih =>
    simp only [memWriteMask, List.length_cons] at hx ⊢
    rw [ih _ _ (by omega)]
    split
    · rw [memGet_memSet_ne _ _ _ _ (by omega)]
    · rfl

theorem memWfFrom_filter (m : List Host.Cell) (lo : Nat) (q : Host.Cell → Bool) (h : memWfFrom lo m = true) :
    memWfFrom lo (m.filter q) = true := by
  induction m generalizing lo with
  | nil => rfl
  | cons e rest ih =>
    obtain ⟨k, v⟩ := e
    simp only [memWfFrom, Bool.and_eq_true, decide_eq_true_eq] at h
    simp only [List.filter_cons]
    split
    · simp only [memWfFrom, Bool.and_eq_true, decide_eq_true_eq]
      exact ⟨h.1, ih (k + 1) h.2⟩
    · exact memWfFrom_le _ (k + 1) lo (by omega) (ih (k + 1) h.2)

/-- Zeroing a range keeps the canonical form. -/
theorem wf_memZero (m : List Host.Cell) (lo hi : Nat) (h : Memory.wf m = true) : Memory.wf (memZero m lo hi) = true :=
  memWfFrom_filter m 0 _ h

/-- Zeroing a range: its bytes read as zero, every other byte as before. -/
theorem memGet_memZero (m : List Host.Cell) (lo hi x : Nat) :
    memGet (memZero m lo hi) x = if lo ≤ x ∧ x < hi then 0 else memGet m x := by
  induction m with
  | nil => simp [memZero, memGet]
  | cons e rest ih =>
    obtain ⟨k, v⟩ := e
    simp only [memZero, List.filter_cons] at ih ⊢
    split
    · rename_i hk
      simp only [Bool.or_eq_true, decide_eq_true_eq] at hk
      simp only [memGet]
      split
      · subst_vars
        rw [if_neg (by omega)]
      · exact ih
    · rename_i hk
      simp only [Bool.or_eq_true, decide_eq_true_eq, not_or, Nat.not_lt, Nat.not_le] at hk
      rw [ih]
      split
      · rfl
      · have : k ≠ x := by omega
        simp [memGet, this]

/-! ### Registers -/

/-- A register reads as it was last written, within 64 bits (R521). -/
theorem State.reg_setReg_self (s : State) (c v : Nat) : (s.setReg c v).reg c = v % 2 ^ 64 := by
  simp [State.reg, State.setReg, kget_kset_self, BitVec.toNat_ofNat]

/-- A write to one register leaves every other alone. -/
theorem State.reg_setReg_ne (s : State) (c d v : Nat) (h : d ≠ c) : (s.setReg c v).reg d = s.reg d := by
  simp [State.reg, State.setReg, kget_kset_ne _ _ _ _ h]

/-- An arbiter's number rises by one when it orders an event (R21). -/
theorem State.seq_tick_self (s : State) (a : Nat) : (s.tick a).seq a = s.seq a + 1 := by
  simp [State.tick, State.seq]

/-- The other arbiters' numbers stay (R21). -/
theorem State.seq_tick_ne (s : State) (a b : Nat) (h : b ≠ a) : (s.tick a).seq b = s.seq b := by
  simp [State.tick, State.seq, kgetD_kset_ne _ _ _ _ _ h]

end Sys2Proof.Machine
end

