-- ==== Sys2Proof/Laws/KeepsBase.lean ====
section
/-!
SUPPORT. The rules by which an operation is shown to leave the queue of waiting commands alone, to keep the canonical form, and to change
nothing outside the parts of a mask (bit k of the mask is the part with number k).
-/
namespace Sys2Proof.Machine

/-- Every part of one mask is in the other. -/
def Sub (a b : Nat) : Prop := a &&& b = a

theorem Sub.bit {a b : Nat} (k : Nat) (ha : a.testBit k = true) (h : Sub a b) : b.testBit k = true := by
  have : (a &&& b).testBit k = true := by rw [h]; exact ha
  rw [Nat.testBit_and] at this
  simp only [Bool.and_eq_true] at this
  exact this.2

theorem Sub.trans {a b c : Nat} (k : Sub b c) (h : Sub a b) : Sub a c := by
  unfold Sub at *
  rw [← h, Nat.and_assoc, k]

theorem Sub.rfl' (a : Nat) : Sub a a := Nat.and_self a

/-- What an operation leaves alone: the waiting commands, the canonical form if the state had it, and every part outside the mask. -/
structure Keeps (m : Nat) (s t : State) : Prop where
  pending : t.pending = s.pending
  canon : s.Canon → t.Canon
  only : ∀ q : Part, m.testBit q.ix = false → q.same s t

theorem Keeps.rfl' (m : Nat) (s : State) : Keeps m s s := ⟨rfl, id, fun q _ => by cases q <;> rfl⟩

theorem Keeps.regs {m : Nat} {s0 s : State} (h : Keeps m s0 s) {x : KMap Word} (hw : KMap.wf s.regs = true → KMap.wf x = true) (hb : m.testBit 1 = true) :
    Keeps m s0 (State.mk s.pending x s.seqs s.free s.mem s.extents s.revoking s.cad s.stk s.paths s.tier s.tiles s.tlc s.tlcDown s.coll s.pnm s.trav s.xc s.links s.sw s.traf s.roce s.parcels s.recov s.sec s.nonce s.boot s.mgmt s.out) :=
  ⟨h.pending, fun c => ⟨(h.canon c).mem, hw (h.canon c).regs, (h.canon c).seqs⟩, fun q hq => by cases q <;> first | exact h.only _ hq | exact absurd hq (by simp [Part.ix, hb])⟩

theorem Keeps.seqs {m : Nat} {s0 s : State} (h : Keeps m s0 s) {x : KMap Nat} (hw : KMap.wf s.seqs = true → KMap.wf x = true) (hb : m.testBit 2 = true) :
    Keeps m s0 (State.mk s.pending s.regs x s.free s.mem s.extents s.revoking s.cad s.stk s.paths s.tier s.tiles s.tlc s.tlcDown s.coll s.pnm s.trav s.xc s.links s.sw s.traf s.roce s.parcels s.recov s.sec s.nonce s.boot s.mgmt s.out) :=
  ⟨h.pending, fun c => ⟨(h.canon c).mem, (h.canon c).regs, hw (h.canon c).seqs⟩, fun q hq => by cases q <;> first | exact h.only _ hq | exact absurd hq (by simp [Part.ix, hb])⟩

theorem Keeps.free {m : Nat} {s0 s : State} (h : Keeps m s0 s) {x} (hb : m.testBit 3 = true) :
    Keeps m s0 (State.mk s.pending s.regs s.seqs x s.mem s.extents s.revoking s.cad s.stk s.paths s.tier s.tiles s.tlc s.tlcDown s.coll s.pnm s.trav s.xc s.links s.sw s.traf s.roce s.parcels s.recov s.sec s.nonce s.boot s.mgmt s.out) :=
  ⟨h.pending, fun c => ⟨(h.canon c).mem, (h.canon c).regs, (h.canon c).seqs⟩, fun q hq => by cases q <;> first | exact h.only _ hq | exact absurd hq (by simp [Part.ix, hb])⟩

theorem Keeps.mem {m : Nat} {s0 s : State} (h : Keeps m s0 s) {x : Mem} (hc : x.cells = s.mem.cells) (hb : m.testBit 4 = true) :
    Keeps m s0 (State.mk s.pending s.regs s.seqs s.free x s.extents s.revoking s.cad s.stk s.paths s.tier s.tiles s.tlc s.tlcDown s.coll s.pnm s.trav s.xc s.links s.sw s.traf s.roce s.parcels s.recov s.sec s.nonce s.boot s.mgmt s.out) :=
  ⟨h.pending, fun c => ⟨hc ▸ (h.canon c).mem, (h.canon c).regs, (h.canon c).seqs⟩, fun q hq => by cases q <;> first | exact h.only _ hq | exact absurd hq (by simp [Part.ix, hb])⟩

theorem Keeps.extents {m : Nat} {s0 s : State} (h : Keeps m s0 s) {x} (hb : m.testBit 5 = true) :
    Keeps m s0 (State.mk s.pending s.regs s.seqs s.free s.mem x s.revoking s.cad s.stk s.paths s.tier s.tiles s.tlc s.tlcDown s.coll s.pnm s.trav s.xc s.links s.sw s.traf s.roce s.parcels s.recov s.sec s.nonce s.boot s.mgmt s.out) :=
  ⟨h.pending, fun c => ⟨(h.canon c).mem, (h.canon c).regs, (h.canon c).seqs⟩, fun q hq => by cases q <;> first | exact h.only _ hq | exact absurd hq (by simp [Part.ix, hb])⟩

theorem Keeps.revoking {m : Nat} {s0 s : State} (h : Keeps m s0 s) {x} (hb : m.testBit 6 = true) :
    Keeps m s0 (State.mk s.pending s.regs s.seqs s.free s.mem s.extents x s.cad s.stk s.paths s.tier s.tiles s.tlc s.tlcDown s.coll s.pnm s.trav s.xc s.links s.sw s.traf s.roce s.parcels s.recov s.sec s.nonce s.boot s.mgmt s.out) :=
  ⟨h.pending, fun c => ⟨(h.canon c).mem, (h.canon c).regs, (h.canon c).seqs⟩, fun q hq => by cases q <;> first | exact h.only _ hq | exact absurd hq (by simp [Part.ix, hb])⟩

theorem Keeps.cad {m : Nat} {s0 s : State} (h : Keeps m s0 s) {x} (hb : m.testBit 7 = true) :
    Keeps m s0 (State.mk s.pending s.regs s.seqs s.free s.mem s.extents s.revoking x s.stk s.paths s.tier s.tiles s.tlc s.tlcDown s.coll s.pnm s.trav s.xc s.links s.sw s.traf s.roce s.parcels s.recov s.sec s.nonce s.boot s.mgmt s.out) :=
  ⟨h.pending, fun c => ⟨(h.canon c).mem, (h.canon c).regs, (h.canon c).seqs⟩, fun q hq => by cases q <;> first | exact h.only _ hq | exact absurd hq (by simp [Part.ix, hb])⟩

theorem Keeps.stk {m : Nat} {s0 s : State} (h : Keeps m s0 s) {x} (hb : m.testBit 8 = true) :
    Keeps m s0 (State.mk s.pending s.regs s.seqs s.free s.mem s.extents s.revoking s.cad x s.paths s.tier s.tiles s.tlc s.tlcDown s.coll s.pnm s.trav s.xc s.links s.sw s.traf s.roce s.parcels s.recov s.sec s.nonce s.boot s.mgmt s.out) :=
  ⟨h.pending, fun c => ⟨(h.canon c).mem, (h.canon c).regs, (h.canon c).seqs⟩, fun q hq => by cases q <;> first | exact h.only _ hq | exact absurd hq (by simp [Part.ix, hb])⟩

theorem Keeps.paths {m : Nat} {s0 s : State} (h : Keeps m s0 s) {x} (hb : m.testBit 9 = true) :
    Keeps m s0 (State.mk s.pending s.regs s.seqs s.free s.mem s.extents s.revoking s.cad s.stk x s.tier s.tiles s.tlc s.tlcDown s.coll s.pnm s.trav s.xc s.links s.sw s.traf s.roce s.parcels s.recov s.sec s.nonce s.boot s.mgmt s.out) :=
  ⟨h.pending, fun c => ⟨(h.canon c).mem, (h.canon c).regs, (h.canon c).seqs⟩, fun q hq => by cases q <;> first | exact h.only _ hq | exact absurd hq (by simp [Part.ix, hb])⟩

theorem Keeps.tier {m : Nat} {s0 s : State} (h : Keeps m s0 s) {x} (hb : m.testBit 10 = true) :
    Keeps m s0 (State.mk s.pending s.regs s.seqs s.free s.mem s.extents s.revoking s.cad s.stk s.paths x s.tiles s.tlc s.tlcDown s.coll s.pnm s.trav s.xc s.links s.sw s.traf s.roce s.parcels s.recov s.sec s.nonce s.boot s.mgmt s.out) :=
  ⟨h.pending, fun c => ⟨(h.canon c).mem, (h.canon c).regs, (h.canon c).seqs⟩, fun q hq => by cases q <;> first | exact h.only _ hq | exact absurd hq (by simp [Part.ix, hb])⟩

theorem Keeps.tiles {m : Nat} {s0 s : State} (h : Keeps m s0 s) {x} (hb : m.testBit 11 = true) :
    Keeps m s0 (State.mk s.pending s.regs s.seqs s.free s.mem s.extents s.revoking s.cad s.stk s.paths s.tier x s.tlc s.tlcDown s.coll s.pnm s.trav s.xc s.links s.sw s.traf s.roce s.parcels s.recov s.sec s.nonce s.boot s.mgmt s.out) :=
  ⟨h.pending, fun c => ⟨(h.canon c).mem, (h.canon c).regs, (h.canon c).seqs⟩, fun q hq => by cases q <;> first | exact h.only _ hq | exact absurd hq (by simp [Part.ix, hb])⟩

theorem Keeps.tlc {m : Nat} {s0 s : State} (h : Keeps m s0 s) {x} (hb : m.testBit 12 = true) :
    Keeps m s0 (State.mk s.pending s.regs s.seqs s.free s.mem s.extents s.revoking s.cad s.stk s.paths s.tier s.tiles x s.tlcDown s.coll s.pnm s.trav s.xc s.links s.sw s.traf s.roce s.parcels s.recov s.sec s.nonce s.boot s.mgmt s.out) :=
  ⟨h.pending, fun c => ⟨(h.canon c).mem, (h.canon c).regs, (h.canon c).seqs⟩, fun q hq => by cases q <;> first | exact h.only _ hq | exact absurd hq (by simp [Part.ix, hb])⟩

theorem Keeps.tlcDown {m : Nat} {s0 s : State} (h : Keeps m s0 s) {x} (hb : m.testBit 13 = true) :
    Keeps m s0 (State.mk s.pending s.regs s.seqs s.free s.mem s.extents s.revoking s.cad s.stk s.paths s.tier s.tiles s.tlc x s.coll s.pnm s.trav s.xc s.links s.sw s.traf s.roce s.parcels s.recov s.sec s.nonce s.boot s.mgmt s.out) :=
  ⟨h.pending, fun c => ⟨(h.canon c).mem, (h.canon c).regs, (h.canon c).seqs⟩, fun q hq => by cases q <;> first | exact h.only _ hq | exact absurd hq (by simp [Part.ix, hb])⟩

theorem Keeps.coll {m : Nat} {s0 s : State} (h : Keeps m s0 s) {x} (hb : m.testBit 14 = true) :
    Keeps m s0 (State.mk s.pending s.regs s.seqs s.free s.mem s.extents s.revoking s.cad s.stk s.paths s.tier s.tiles s.tlc s.tlcDown x s.pnm s.trav s.xc s.links s.sw s.traf s.roce s.parcels s.recov s.sec s.nonce s.boot s.mgmt s.out) :=
  ⟨h.pending, fun c => ⟨(h.canon c).mem, (h.canon c).regs, (h.canon c).seqs⟩, fun q hq => by cases q <;> first | exact h.only _ hq | exact absurd hq (by simp [Part.ix, hb])⟩

theorem Keeps.pnm {m : Nat} {s0 s : State} (h : Keeps m s0 s) {x} (hb : m.testBit 15 = true) :
    Keeps m s0 (State.mk s.pending s.regs s.seqs s.free s.mem s.extents s.revoking s.cad s.stk s.paths s.tier s.tiles s.tlc s.tlcDown s.coll x s.trav s.xc s.links s.sw s.traf s.roce s.parcels s.recov s.sec s.nonce s.boot s.mgmt s.out) :=
  ⟨h.pending, fun c => ⟨(h.canon c).mem, (h.canon c).regs, (h.canon c).seqs⟩, fun q hq => by cases q <;> first | exact h.only _ hq | exact absurd hq (by simp [Part.ix, hb])⟩

theorem Keeps.trav {m : Nat} {s0 s : State} (h : Keeps m s0 s) {x} (hb : m.testBit 16 = true) :
    Keeps m s0 (State.mk s.pending s.regs s.seqs s.free s.mem s.extents s.revoking s.cad s.stk s.paths s.tier s.tiles s.tlc s.tlcDown s.coll s.pnm x s.xc s.links s.sw s.traf s.roce s.parcels s.recov s.sec s.nonce s.boot s.mgmt s.out) :=
  ⟨h.pending, fun c => ⟨(h.canon c).mem, (h.canon c).regs, (h.canon c).seqs⟩, fun q hq => by cases q <;> first | exact h.only _ hq | exact absurd hq (by simp [Part.ix, hb])⟩

theorem Keeps.xc {m : Nat} {s0 s : State} (h : Keeps m s0 s) {x} (hb : m.testBit 17 = true) :
    Keeps m s0 (State.mk s.pending s.regs s.seqs s.free s.mem s.extents s.revoking s.cad s.stk s.paths s.tier s.tiles s.tlc s.tlcDown s.coll s.pnm s.trav x s.links s.sw s.traf s.roce s.parcels s.recov s.sec s.nonce s.boot s.mgmt s.out) :=
  ⟨h.pending, fun c => ⟨(h.canon c).mem, (h.canon c).regs, (h.canon c).seqs⟩, fun q hq => by cases q <;> first | exact h.only _ hq | exact absurd hq (by simp [Part.ix, hb])⟩

theorem Keeps.links {m : Nat} {s0 s : State} (h : Keeps m s0 s) {x} (hb : m.testBit 18 = true) :
    Keeps m s0 (State.mk s.pending s.regs s.seqs s.free s.mem s.extents s.revoking s.cad s.stk s.paths s.tier s.tiles s.tlc s.tlcDown s.coll s.pnm s.trav s.xc x s.sw s.traf s.roce s.parcels s.recov s.sec s.nonce s.boot s.mgmt s.out) :=
  ⟨h.pending, fun c => ⟨(h.canon c).mem, (h.canon c).regs, (h.canon c).seqs⟩, fun q hq => by cases q <;> first | exact h.only _ hq | exact absurd hq (by simp [Part.ix, hb])⟩

theorem Keeps.sw {m : Nat} {s0 s : State} (h : Keeps m s0 s) {x} (hb : m.testBit 19 = true) :
    Keeps m s0 (State.mk s.pending s.regs s.seqs s.free s.mem s.extents s.revoking s.cad s.stk s.paths s.tier s.tiles s.tlc s.tlcDown s.coll s.pnm s.trav s.xc s.links x s.traf s.roce s.parcels s.recov s.sec s.nonce s.boot s.mgmt s.out) :=
  ⟨h.pending, fun c => ⟨(h.canon c).mem, (h.canon c).regs, (h.canon c).seqs⟩, fun q hq => by cases q <;> first | exact h.only _ hq | exact absurd hq (by simp [Part.ix, hb])⟩

theorem Keeps.traf {m : Nat} {s0 s : State} (h : Keeps m s0 s) {x} (hb : m.testBit 20 = true) :
    Keeps m s0 (State.mk s.pending s.regs s.seqs s.free s.mem s.extents s.revoking s.cad s.stk s.paths s.tier s.tiles s.tlc s.tlcDown s.coll s.pnm s.trav s.xc s.links s.sw x s.roce s.parcels s.recov s.sec s.nonce s.boot s.mgmt s.out) :=
  ⟨h.pending, fun c => ⟨(h.canon c).mem, (h.canon c).regs, (h.canon c).seqs⟩, fun q hq => by cases q <;> first | exact h.only _ hq | exact absurd hq (by simp [Part.ix, hb])⟩

theorem Keeps.roce {m : Nat} {s0 s : State} (h : Keeps m s0 s) {x} (hb : m.testBit 21 = true) :
    Keeps m s0 (State.mk s.pending s.regs s.seqs s.free s.mem s.extents s.revoking s.cad s.stk s.paths s.tier s.tiles s.tlc s.tlcDown s.coll s.pnm s.trav s.xc s.links s.sw s.traf x s.parcels s.recov s.sec s.nonce s.boot s.mgmt s.out) :=
  ⟨h.pending, fun c => ⟨(h.canon c).mem, (h.canon c).regs, (h.canon c).seqs⟩, fun q hq => by cases q <;> first | exact h.only _ hq | exact absurd hq (by simp [Part.ix, hb])⟩

theorem Keeps.parcels {m : Nat} {s0 s : State} (h : Keeps m s0 s) {x} (hb : m.testBit 22 = true) :
    Keeps m s0 (State.mk s.pending s.regs s.seqs s.free s.mem s.extents s.revoking s.cad s.stk s.paths s.tier s.tiles s.tlc s.tlcDown s.coll s.pnm s.trav s.xc s.links s.sw s.traf s.roce x s.recov s.sec s.nonce s.boot s.mgmt s.out) :=
  ⟨h.pending, fun c => ⟨(h.canon c).mem, (h.canon c).regs, (h.canon c).seqs⟩, fun q hq => by cases q <;> first | exact h.only _ hq | exact absurd hq (by simp [Part.ix, hb])⟩

theorem Keeps.recov {m : Nat} {s0 s : State} (h : Keeps m s0 s) {x} (hb : m.testBit 23 = true) :
    Keeps m s0 (State.mk s.pending s.regs s.seqs s.free s.mem s.extents s.revoking s.cad s.stk s.paths s.tier s.tiles s.tlc s.tlcDown s.coll s.pnm s.trav s.xc s.links s.sw s.traf s.roce s.parcels x s.sec s.nonce s.boot s.mgmt s.out) :=
  ⟨h.pending, fun c => ⟨(h.canon c).mem, (h.canon c).regs, (h.canon c).seqs⟩, fun q hq => by cases q <;> first | exact h.only _ hq | exact absurd hq (by simp [Part.ix, hb])⟩

theorem Keeps.sec {m : Nat} {s0 s : State} (h : Keeps m s0 s) {x} (hb : m.testBit 24 = true) :
    Keeps m s0 (State.mk s.pending s.regs s.seqs s.free s.mem s.extents s.revoking s.cad s.stk s.paths s.tier s.tiles s.tlc s.tlcDown s.coll s.pnm s.trav s.xc s.links s.sw s.traf s.roce s.parcels s.recov x s.nonce s.boot s.mgmt s.out) :=
  ⟨h.pending, fun c => ⟨(h.canon c).mem, (h.canon c).regs, (h.canon c).seqs⟩, fun q hq => by cases q <;> first | exact h.only _ hq | exact absurd hq (by simp [Part.ix, hb])⟩

theorem Keeps.nonce {m : Nat} {s0 s : State} (h : Keeps m s0 s) {x} (hb : m.testBit 25 = true) :
    Keeps m s0 (State.mk s.pending s.regs s.seqs s.free s.mem s.extents s.revoking s.cad s.stk s.paths s.tier s.tiles s.tlc s.tlcDown s.coll s.pnm s.trav s.xc s.links s.sw s.traf s.roce s.parcels s.recov s.sec x s.boot s.mgmt s.out) :=
  ⟨h.pending, fun c => ⟨(h.canon c).mem, (h.canon c).regs, (h.canon c).seqs⟩, fun q hq => by cases q <;> first | exact h.only _ hq | exact absurd hq (by simp [Part.ix, hb])⟩

theorem Keeps.boot {m : Nat} {s0 s : State} (h : Keeps m s0 s) {x} (hb : m.testBit 26 = true) :
    Keeps m s0 (State.mk s.pending s.regs s.seqs s.free s.mem s.extents s.revoking s.cad s.stk s.paths s.tier s.tiles s.tlc s.tlcDown s.coll s.pnm s.trav s.xc s.links s.sw s.traf s.roce s.parcels s.recov s.sec s.nonce x s.mgmt s.out) :=
  ⟨h.pending, fun c => ⟨(h.canon c).mem, (h.canon c).regs, (h.canon c).seqs⟩, fun q hq => by cases q <;> first | exact h.only _ hq | exact absurd hq (by simp [Part.ix, hb])⟩

theorem Keeps.mgmt {m : Nat} {s0 s : State} (h : Keeps m s0 s) {x} (hb : m.testBit 27 = true) :
    Keeps m s0 (State.mk s.pending s.regs s.seqs s.free s.mem s.extents s.revoking s.cad s.stk s.paths s.tier s.tiles s.tlc s.tlcDown s.coll s.pnm s.trav s.xc s.links s.sw s.traf s.roce s.parcels s.recov s.sec s.nonce s.boot x s.out) :=
  ⟨h.pending, fun c => ⟨(h.canon c).mem, (h.canon c).regs, (h.canon c).seqs⟩, fun q hq => by cases q <;> first | exact h.only _ hq | exact absurd hq (by simp [Part.ix, hb])⟩

theorem Keeps.out {m : Nat} {s0 s : State} (h : Keeps m s0 s) {x} (hb : m.testBit 28 = true) :
    Keeps m s0 (State.mk s.pending s.regs s.seqs s.free s.mem s.extents s.revoking s.cad s.stk s.paths s.tier s.tiles s.tlc s.tlcDown s.coll s.pnm s.trav s.xc s.links s.sw s.traf s.roce s.parcels s.recov s.sec s.nonce s.boot s.mgmt x) :=
  ⟨h.pending, fun c => ⟨(h.canon c).mem, (h.canon c).regs, (h.canon c).seqs⟩, fun q hq => by cases q <;> first | exact h.only _ hq | exact absurd hq (by simp [Part.ix, hb])⟩

/-- The bytes of memory change too. -/
theorem Keeps.cells {m : Nat} {s0 s : State} (h : Keeps m s0 s) {x : Mem} (hw : Memory.wf s.mem.cells = true → Memory.wf x.cells = true)
    (hb : m.testBit 4 = true) :
    Keeps m s0 (State.mk s.pending s.regs s.seqs s.free x s.extents s.revoking s.cad s.stk s.paths s.tier s.tiles s.tlc s.tlcDown s.coll s.pnm s.trav s.xc s.links s.sw s.traf s.roce s.parcels s.recov s.sec s.nonce s.boot s.mgmt s.out) :=
  ⟨h.pending, fun c => ⟨hw (h.canon c).mem, (h.canon c).regs, (h.canon c).seqs⟩,
   fun q hq => by cases q <;> first | exact h.only _ hq | exact absurd hq (by simp [Part.ix, hb])⟩

/-- An update of several parts at once; registers, arbiters and the bytes of memory keep their form. -/
theorem Keeps.several {m : Nat} {s0 s : State} (h : Keeps m s0 s) {regs : KMap Word} {seqs : KMap Nat} {mem : Mem}
    {free extents revoking cad stk paths tier tiles tlc tlcDown coll pnm trav xc links sw traf roce parcels recov sec nonce boot mgmt out}
    (hr : KMap.wf s.regs = true → KMap.wf regs = true) (hq : KMap.wf s.seqs = true → KMap.wf seqs = true)
    (hm : Memory.wf s.mem.cells = true → Memory.wf mem.cells = true)
    (h1 : regs = s.regs ∨ m.testBit 1 = true)
    (h2 : seqs = s.seqs ∨ m.testBit 2 = true)
    (h3 : free = s.free ∨ m.testBit 3 = true)
    (h4 : mem = s.mem ∨ m.testBit 4 = true)
    (h5 : extents = s.extents ∨ m.testBit 5 = true)
    (h6 : revoking = s.revoking ∨ m.testBit 6 = true)
    (h7 : cad = s.cad ∨ m.testBit 7 = true)
    (h8 : stk = s.stk ∨ m.testBit 8 = true)
    (h9 : paths = s.paths ∨ m.testBit 9 = true)
    (h10 : tier = s.tier ∨ m.testBit 10 = true)
    (h11 : tiles = s.tiles ∨ m.testBit 11 = true)
    (h12 : tlc = s.tlc ∨ m.testBit 12 = true)
    (h13 : tlcDown = s.tlcDown ∨ m.testBit 13 = true)
    (h14 : coll = s.coll ∨ m.testBit 14 = true)
    (h15 : pnm = s.pnm ∨ m.testBit 15 = true)
    (h16 : trav = s.trav ∨ m.testBit 16 = true)
    (h17 : xc = s.xc ∨ m.testBit 17 = true)
    (h18 : links = s.links ∨ m.testBit 18 = true)
    (h19 : sw = s.sw ∨ m.testBit 19 = true)
    (h20 : traf = s.traf ∨ m.testBit 20 = true)
    (h21 : roce = s.roce ∨ m.testBit 21 = true)
    (h22 : parcels = s.parcels ∨ m.testBit 22 = true)
    (h23 : recov = s.recov ∨ m.testBit 23 = true)
    (h24 : sec = s.sec ∨ m.testBit 24 = true)
    (h25 : nonce = s.nonce ∨ m.testBit 25 = true)
    (h26 : boot = s.boot ∨ m.testBit 26 = true)
    (h27 : mgmt = s.mgmt ∨ m.testBit 27 = true)
    (h28 : out = s.out ∨ m.testBit 28 = true)
    : Keeps m s0 (State.mk s.pending regs seqs free mem extents revoking cad stk paths tier tiles tlc tlcDown coll pnm trav xc links sw traf roce parcels recov sec nonce boot mgmt out) := by
  refine ⟨h.pending, fun c => ⟨hm (h.canon c).mem, hr (h.canon c).regs, hq (h.canon c).seqs⟩, ?_⟩
  intro q hx
  have hy := h.only q hx
  cases q <;> simp_all [Part.same, Part.ix]

/-- The registers, arbiters, meters and shapers of one state beside the rest of another. -/
theorem Keeps.mix {m : Nat} {s0 s s2 : State} (h : Keeps m s0 s) (h2 : Keeps m s0 s2) :
    Keeps m s0 (State.mk s.pending s2.regs s2.seqs s.free s.mem s.extents s.revoking s.cad s.stk s.paths s.tier s.tiles s.tlc s.tlcDown s.coll s.pnm s.trav s.xc s.links s.sw s2.traf s.roce s.parcels s.recov s.sec s.nonce s.boot s.mgmt s.out) :=
  ⟨h.pending, fun c => ⟨(h.canon c).mem, (h2.canon c).regs, (h2.canon c).seqs⟩,
   fun q hq => by cases q <;> first | exact h.only _ hq | exact h2.only _ hq⟩

theorem Keeps.foldl {α : Type} {m : Nat} {s0 s : State} {f : State → α → State} {l : List α} (h : Keeps m s0 s)
    (hf : ∀ t a, Keeps m s0 t → Keeps m s0 (f t a)) : Keeps m s0 (l.foldl f s) := by
  induction l generalizing s with
  | nil => exact h
  | cons a rest ih => exact ih (hf s a h)

theorem Keeps.foldl_fst {α β : Type} {m : Nat} {s0 : State} {p : State × β} {f : State × β → α → State × β} {l : List α} (h : Keeps m s0 p.1)
    (hf : ∀ q a, Keeps m s0 q.1 → Keeps m s0 (f q a).1) : Keeps m s0 (l.foldl f p).1 := by
  induction l generalizing p with
  | nil => exact h
  | cons a rest ih => exact ih (hf p a h)

theorem Keeps.of_fst {β : Type} {m : Nat} {s0 t : State} {b : β} {p : State × β} (e : p = (t, b)) (h : Keeps m s0 p.1) : Keeps m s0 t := by
  subst e; exact h

theorem Keeps.of_snd {β : Type} {m : Nat} {s0 t : State} {b : β} {p : β × State} (e : p = (b, t)) (h : Keeps m s0 p.2) : Keeps m s0 t := by
  subst e; exact h

theorem Keeps.seq {m : Nat} {s0 : State} {P : Prop} (x : State) (h : Keeps m s0 x) (k : Keeps m s0 x → P) : P := k h

theorem Keeps.seqF {m : Nat} {s0 : State} {P : Prop} (x : State → State) (h : ∀ t, Keeps m s0 t → Keeps m s0 (x t))
    (k : (∀ t, Keeps m s0 t → Keeps m s0 (x t)) → P) : P := k h
theorem Keeps.seqG {α : Type} {m : Nat} {s0 : State} {P : Prop} (x : State → α → State) (h : ∀ t a, Keeps m s0 t → Keeps m s0 (x t a))
    (k : (∀ t a, Keeps m s0 t → Keeps m s0 (x t a)) → P) : P := k h
theorem Keeps.seqH {α β : Type} {m : Nat} {s0 : State} {P : Prop} (x : State → α → β → State) (h : ∀ t a b, Keeps m s0 t → Keeps m s0 (x t a b))
    (k : (∀ t a b, Keeps m s0 t → Keeps m s0 (x t a b)) → P) : P := k h

/-- The state that an operation may answer. -/
structure KeepsO (m : Nat) (s0 : State) (o : Option State) : Prop where
  ans : ∀ t, o = some t → Keeps m s0 t

theorem KeepsO.some_ {m : Nat} {s0 t : State} (h : Keeps m s0 t) : KeepsO m s0 (some t) := ⟨fun u e => by cases e; exact h⟩
theorem KeepsO.none_ {m : Nat} {s0 : State} : KeepsO m s0 none := ⟨fun _ e => by cases e⟩
theorem KeepsO.seq {m : Nat} {s0 : State} {P : Prop} (x : Option State) (h : KeepsO m s0 x) (k : KeepsO m s0 x → P) : P := k h
theorem KeepsO.get {m : Nat} {s0 t : State} {o : Option State} (e : o = some t) (h : KeepsO m s0 o) : Keeps m s0 t := h.ans t e
theorem KeepsO.getD {m : Nat} {s0 d : State} {o : Option State} (h : KeepsO m s0 o) (k : Keeps m s0 d) : Keeps m s0 (o.getD d) := by
  cases o with
  | none => exact k
  | some t => exact h.ans t rfl

/-- The state beside a value that an operation may answer. -/
structure KeepsP {β : Type} (m : Nat) (s0 : State) (o : Option (State × β)) : Prop where
  ans : ∀ r, o = some r → Keeps m s0 r.1

theorem KeepsP.some_ {β : Type} {m : Nat} {s0 : State} {r : State × β} (h : Keeps m s0 r.1) : KeepsP m s0 (some r) := ⟨fun u e => by cases e; exact h⟩
theorem KeepsP.none_ {β : Type} {m : Nat} {s0 : State} : KeepsP m s0 (none : Option (State × β)) := ⟨fun _ e => by cases e⟩
theorem KeepsP.get {β : Type} {m : Nat} {s0 t : State} {b : β} {o : Option (State × β)} (e : o = some (t, b)) (h : KeepsP m s0 o) : Keeps m s0 t := h.ans _ e

theorem KeepsP.map_ {β γ : Type} {m : Nat} {s0 : State} {o : Option (State × β)} {f : State × β → State × γ} (hf : ∀ r, (f r).1 = r.1)
    (h : KeepsP m s0 o) : KeepsP m s0 (o.map f) := by
  cases o with
  | none => exact KeepsP.none_
  | some r => exact KeepsP.some_ (by rw [hf]; exact h.ans r rfl)

/-- The state in each answer of the cache. -/
def KeepsC (m : Nat) (s0 : State) : CacheAnswer → Prop
  | .hit t => Keeps m s0 t
  | .waits t => Keeps m s0 t
  | .quota t => Keeps m s0 t

theorem KeepsC.hit {m : Nat} {s0 t : State} (h : Keeps m s0 t) : KeepsC m s0 (.hit t) := h
theorem KeepsC.waits {m : Nat} {s0 t : State} (h : Keeps m s0 t) : KeepsC m s0 (.waits t) := h
theorem KeepsC.quota {m : Nat} {s0 t : State} (h : Keeps m s0 t) : KeepsC m s0 (.quota t) := h
theorem KeepsC.seqG {α : Type} {m : Nat} {s0 : State} {P : Prop} (x : State → α → CacheAnswer) (h : ∀ t a, Keeps m s0 t → KeepsC m s0 (x t a))
    (k : (∀ t a, Keeps m s0 t → KeepsC m s0 (x t a)) → P) : P := k h
theorem KeepsC.ofHit {m : Nat} {s0 t : State} {c : CacheAnswer} (e : c = .hit t) (h : KeepsC m s0 c) : Keeps m s0 t := by subst e; exact h
theorem KeepsC.ofWaits {m : Nat} {s0 t : State} {c : CacheAnswer} (e : c = .waits t) (h : KeepsC m s0 c) : Keeps m s0 t := by subst e; exact h
theorem KeepsC.ofQuota {m : Nat} {s0 t : State} {c : CacheAnswer} (e : c = .quota t) (h : KeepsC m s0 c) : Keeps m s0 t := by subst e; exact h

/-- What a command answers: a next state, its queue and form kept. -/
def Ends (m : Nat) (s0 : State) (o : Host.Outcome State Fault Refusal) : Prop := ∃ t, o = .next t ∧ Keeps m s0 t

theorem Ends.next {m : Nat} {s0 t : State} (h : Keeps m s0 t) : Ends m s0 (.next t) := ⟨t, rfl, h⟩

end Sys2Proof.Machine
end

