-- ==== Sys2Proof/Laws/KeepsOps.lean ====
section
/-!
SUPPORT. The operations of Machine/Ops.lean leave the queue of waiting commands alone and keep the canonical form.
-/
namespace Sys2Proof.Machine

set_option linter.all false

theorem State.setReg_keeps {m : Nat} {s0 s : State} (h : Keeps m s0 s) (hp : Sub 0x2 m) (a1 a2) : Keeps m s0 (State.setReg s a1 a2) := by
  unfold State.setReg
  repeat' first
    | with_reducible assumption
    | with_reducible refine Keeps.regs (by assumption) (by first | exact wf_kset _ _ _ | exact wf_kdel _ _ | exact wf_filter _ _) (Sub.bit 1 rfl hp)

theorem State.setFld_keeps {m : Nat} {s0 s : State} (h : Keeps m s0 s) (hp : Sub 0x2 m) (a1 a2 a3 a4) : Keeps m s0 (State.setFld s a1 a2 a3 a4) := by
  unfold State.setFld
  repeat' first | with_reducible assumption | exact hp.trans rfl | with_reducible apply State.setReg_keeps

theorem State.setBit_keeps {m : Nat} {s0 s : State} (h : Keeps m s0 s) (hp : Sub 0x2 m) (a1 a2 a3) : Keeps m s0 (State.setBit s a1 a2 a3) := by
  unfold State.setBit
  repeat' first | with_reducible assumption | exact hp.trans rfl | with_reducible apply State.setFld_keeps | split

theorem State.resetReg_keeps {m : Nat} {s0 s : State} (h : Keeps m s0 s) (hp : Sub 0x2 m) (a1) : Keeps m s0 (State.resetReg s a1) := by
  unfold State.resetReg
  repeat' first
    | with_reducible assumption
    | with_reducible refine Keeps.regs (by assumption) (by first | exact wf_kset _ _ _ | exact wf_kdel _ _ | exact wf_filter _ _) (Sub.bit 1 rfl hp)

theorem State.resetRegs_keeps {m : Nat} {s0 s : State} (h : Keeps m s0 s) (hp : Sub 0x2 m) (a1) : Keeps m s0 (State.resetRegs s a1) := by
  unfold State.resetRegs
  repeat' first
    | with_reducible assumption
    | with_reducible refine Keeps.regs (by assumption) (by first | exact wf_kset _ _ _ | exact wf_kdel _ _ | exact wf_filter _ _) (Sub.bit 1 rfl hp)

theorem State.count_keeps {m : Nat} {s0 s : State} (h : Keeps m s0 s) (hp : Sub 0x2 m) (a1 a2 a3) : Keeps m s0 (State.count s a1 a2 a3) := by
  unfold State.count
  repeat' first | with_reducible assumption | exact hp.trans rfl | with_reducible apply State.setReg_keeps | split

theorem State.tick_keeps {m : Nat} {s0 s : State} (h : Keeps m s0 s) (hp : Sub 0x4 m) (a1) : Keeps m s0 (State.tick s a1) := by
  unfold State.tick
  repeat' first
    | with_reducible assumption
    | with_reducible refine Keeps.seqs (by assumption) (by first | exact wf_kset _ _ _ | exact wf_kdel _ _ | exact wf_filter _ _) (Sub.bit 2 rfl hp)

theorem State.took_keeps {m : Nat} {s0 s : State} (h : Keeps m s0 s) (hp : Sub 0x8 m) : Keeps m s0 (State.took s) := by
  unfold State.took
  repeat' first | with_reducible assumption | with_reducible refine Keeps.free (by assumption) (Sub.bit 3 rfl hp)

theorem State.setSlot_keeps {m : Nat} {s0 s : State} (h : Keeps m s0 s) (hp : Sub 0x10 m) (a1 a2 a3) : Keeps m s0 (State.setSlot s a1 a2 a3) := by
  unfold State.setSlot
  repeat' first
    | with_reducible assumption | intro _
    | (extract_lets +onlyGivenNames x; refine Keeps.seq (m := m) (s0 := s0) x ?_ ?_; rotate_left; clear_value x; revert x; intro _ _; rotate_left; unfold x; clear x)
    | (extract_lets +onlyGivenNames x; revert x; intro _) | split | (clear_value *; split)
    | with_reducible refine Keeps.mem (by assumption) rfl (Sub.bit 4 rfl hp)

theorem State.loseSlot_keeps {m : Nat} {s0 s : State} (h : Keeps m s0 s) (hp : Sub 0x10 m) (a1) : Keeps m s0 (State.loseSlot s a1) := by
  unfold State.loseSlot
  repeat' first | with_reducible assumption | exact hp.trans rfl | with_reducible apply State.setSlot_keeps | split

theorem State.endLost_keeps {m : Nat} {s0 s : State} (h : Keeps m s0 s) (hp : Sub 0x10 m) (a1) : Keeps m s0 (State.endLost s a1) := by
  unfold State.endLost
  repeat' first | with_reducible assumption | exact hp.trans rfl | with_reducible apply State.setSlot_keeps | split

theorem State.onMem_keeps {m : Nat} {s0 s : State} (h : Keeps m s0 s) (hp : Sub 0x10 m) (a1) : Keeps m s0 (State.onMem s a1) := by
  unfold State.onMem
  repeat' first
    | with_reducible assumption | intro _
    | (extract_lets +onlyGivenNames x; refine Keeps.seq (m := m) (s0 := s0) x ?_ ?_; rotate_left; clear_value x; revert x; intro _ _; rotate_left; unfold x; clear x)
    | (extract_lets +onlyGivenNames x; revert x; intro _) | with_reducible refine Keeps.mem (by assumption) rfl (Sub.bit 4 rfl hp)

theorem State.poisonLine_keeps {m : Nat} {s0 s : State} (h : Keeps m s0 s) (hp : Sub 0x10 m) (a1) : Keeps m s0 (State.poisonLine s a1) := by
  unfold State.poisonLine
  repeat' first
    | with_reducible assumption | intro _
    | (extract_lets +onlyGivenNames x; refine Keeps.seq (m := m) (s0 := s0) x ?_ ?_; rotate_left; clear_value x; revert x; intro _ _; rotate_left; unfold x; clear x)
    | (extract_lets +onlyGivenNames x; revert x; intro _) | with_reducible refine Keeps.mem (by assumption) rfl (Sub.bit 4 rfl hp)

theorem State.freshLine_keeps {m : Nat} {s0 s : State} (h : Keeps m s0 s) (hp : Sub 0x10 m) (a1) : Keeps m s0 (State.freshLine s a1) := by
  unfold State.freshLine
  repeat' first
    | with_reducible assumption | intro _
    | (extract_lets +onlyGivenNames x; refine Keeps.seq (m := m) (s0 := s0) x ?_ ?_; rotate_left; clear_value x; revert x; intro _ _; rotate_left; unfold x; clear x)
    | (extract_lets +onlyGivenNames x; revert x; intro _) | with_reducible refine Keeps.mem (by assumption) rfl (Sub.bit 4 rfl hp)

theorem State.curePoison_keeps {m : Nat} {s0 s : State} (h : Keeps m s0 s) (hp : Sub 0x10 m) (a1) : Keeps m s0 (State.curePoison s a1) := by
  unfold State.curePoison
  repeat' first
    | with_reducible assumption | exact hp.trans rfl | intro _
    | (extract_lets +onlyGivenNames x; refine Keeps.seq (m := m) (s0 := s0) x ?_ ?_; rotate_left; clear_value x; revert x; intro _ _; rotate_left; unfold x; clear x)
    | (extract_lets +onlyGivenNames x; revert x; intro _) | with_reducible apply State.freshLine_keeps
    | with_reducible refine Keeps.mem (by assumption) rfl (Sub.bit 4 rfl hp)

theorem State.writeMem_keeps {m : Nat} {s0 s : State} (h : Keeps m s0 s) (hp : Sub 0x10 m) (a1 a2) : Keeps m s0 (State.writeMem s a1 a2) := by
  unfold State.writeMem
  repeat' first
    | with_reducible assumption | exact hp.trans rfl | intro _
    | (extract_lets +onlyGivenNames x; refine Keeps.seq (m := m) (s0 := s0) x ?_ ?_; rotate_left; clear_value x; revert x; intro _ _; rotate_left; unfold x; clear x)
    | (extract_lets +onlyGivenNames x; revert x; intro _) | with_reducible apply State.curePoison_keeps
    | with_reducible apply State.freshLine_keeps | with_reducible apply Keeps.foldl | with_reducible apply Keeps.foldl_fst | split
    | (clear_value *; split) | with_reducible refine Keeps.cells (by assumption) (by first | exact wf_memWrite _ _ _) (Sub.bit 4 rfl hp)
    | with_reducible refine Keeps.mem (by assumption) rfl (Sub.bit 4 rfl hp)

theorem State.writeMask_keeps {m : Nat} {s0 s : State} (h : Keeps m s0 s) (hp : Sub 0x10 m) (a1 a2 a3) : Keeps m s0 (State.writeMask s a1 a2 a3) := by
  unfold State.writeMask
  repeat' first
    | with_reducible assumption | exact hp.trans rfl | intro _
    | (extract_lets +onlyGivenNames x; refine Keeps.seq (m := m) (s0 := s0) x ?_ ?_; rotate_left; clear_value x; revert x; intro _ _; rotate_left; unfold x; clear x)
    | (extract_lets +onlyGivenNames x; revert x; intro _) | with_reducible apply State.freshLine_keeps
    | with_reducible refine Keeps.cells (by assumption) (by first | exact wf_memWriteMask _ _ _ _ _) (Sub.bit 4 rfl hp)
    | with_reducible refine Keeps.mem (by assumption) rfl (Sub.bit 4 rfl hp)

theorem State.writeLine_keeps {m : Nat} {s0 s : State} (h : Keeps m s0 s) (hp : Sub 0x10 m) (a1 a2 a3) : Keeps m s0 (State.writeLine s a1 a2 a3) := by
  unfold State.writeLine
  repeat' first
    | with_reducible assumption | exact hp.trans rfl | intro _
    | (extract_lets +onlyGivenNames x; refine Keeps.seq (m := m) (s0 := s0) x ?_ ?_; rotate_left; clear_value x; revert x; intro _ _; rotate_left; unfold x; clear x)
    | (extract_lets +onlyGivenNames x; revert x; intro _) | with_reducible apply State.writeMem_keeps
    | with_reducible apply State.poisonLine_keeps | split | (clear_value *; split)

theorem State.zeroMem_keeps {m : Nat} {s0 s : State} (h : Keeps m s0 s) (hp : Sub 0x10 m) (a1 a2) : Keeps m s0 (State.zeroMem s a1 a2) := by
  unfold State.zeroMem
  repeat' first
    | with_reducible assumption | intro _
    | (extract_lets +onlyGivenNames x; refine Keeps.seq (m := m) (s0 := s0) x ?_ ?_; rotate_left; clear_value x; revert x; intro _ _; rotate_left; unfold x; clear x)
    | (extract_lets +onlyGivenNames x; revert x; intro _)
    | with_reducible refine Keeps.cells (by assumption) (by first | exact wf_memZero _ _ _) (Sub.bit 4 rfl hp)
    | with_reducible refine Keeps.mem (by assumption) rfl (Sub.bit 4 rfl hp)

theorem State.setLink_keeps {m : Nat} {s0 s : State} (h : Keeps m s0 s) (hp : Sub 0x40000 m) (a1 a2) : Keeps m s0 (State.setLink s a1 a2) := by
  unfold State.setLink
  repeat' first | with_reducible assumption | with_reducible refine Keeps.links (by assumption) (Sub.bit 18 rfl hp)

theorem State.setPclState_keeps {m : Nat} {s0 s : State} (h : Keeps m s0 s) (hp : Sub 0x2 m) (a1 a2) : Keeps m s0 (State.setPclState s a1 a2) := by
  unfold State.setPclState
  repeat' first | with_reducible assumption | exact hp.trans rfl | with_reducible apply State.setFld_keeps

theorem State.countRevoked_keeps {m : Nat} {s0 s : State} (h : Keeps m s0 s) (hp : Sub 0x2 m) (a1 a2) : Keeps m s0 (State.countRevoked s a1 a2) := by
  unfold State.countRevoked
  repeat' first | with_reducible assumption | exact hp.trans rfl | with_reducible apply State.count_keeps | split

theorem State.toFilard_keeps {m : Nat} {s0 s : State} (h : Keeps m s0 s) (hp : Sub 0x40000 m) (a1) : Keeps m s0 (State.toFilard s a1) := by
  unfold State.toFilard
  repeat' first
    | with_reducible assumption | exact hp.trans rfl | intro _
    | (extract_lets +onlyGivenNames x; refine Keeps.seq (m := m) (s0 := s0) x ?_ ?_; rotate_left; clear_value x; revert x; intro _ _; rotate_left; unfold x; clear x)
    | (extract_lets +onlyGivenNames x; revert x; intro _) | with_reducible apply State.setLink_keeps | split | (clear_value *; split)

theorem State.send_keeps {m : Nat} {s0 s : State} (h : Keeps m s0 s) (hp : Sub 0x10000000 m) (a1) : Keeps m s0 (State.send s a1) := by
  unfold State.send
  repeat' first | with_reducible assumption | with_reducible refine Keeps.out (by assumption) (Sub.bit 28 rfl hp)

theorem State.heed_keeps {m : Nat} {s0 s : State} (h : Keeps m s0 s) (hp : Sub 0x8 m) (a1) : Keeps m s0 (State.heed s a1).1 := by
  unfold State.heed
  repeat' first
    | with_reducible assumption | exact hp.trans rfl | with_reducible apply State.took_keeps | split | (clear_value *; split)
    | with_reducible refine Keeps.of_fst (by assumption) ?_

theorem State.complete_keeps {m : Nat} {s0 s : State} (h : Keeps m s0 s) (hp : Sub 0x10000002 m) (a1 a2 a3 a4 a5 a6 a7) : Keeps m s0 (State.complete s a1 a2 a3 a4 a5 a6 a7) := by
  unfold State.complete
  repeat' first
    | with_reducible assumption | exact hp.trans rfl | intro _
    | (extract_lets +onlyGivenNames x; refine Keeps.seq (m := m) (s0 := s0) x ?_ ?_; rotate_left; clear_value x; revert x; intro _ _; rotate_left; unfold x; clear x)
    | (extract_lets +onlyGivenNames x; revert x; intro _) | with_reducible apply State.count_keeps | with_reducible apply State.send_keeps
    | split | (clear_value *; split)

theorem State.completeRaw_keeps {m : Nat} {s0 s : State} (h : Keeps m s0 s) (hp : Sub 0x10000000 m) (a1 a2 a3 a4 a5) : Keeps m s0 (State.completeRaw s a1 a2 a3 a4 a5) := by
  unfold State.completeRaw
  repeat' first | with_reducible assumption | exact hp.trans rfl | with_reducible apply State.send_keeps

theorem State.raisePage_keeps {m : Nat} {s0 s : State} (h : Keeps m s0 s) (hp : Sub 0x8000000 m) (a1) : Keeps m s0 (State.raisePage s a1) := by
  unfold State.raisePage
  repeat' first
    | with_reducible assumption | intro _
    | (extract_lets +onlyGivenNames x; refine Keeps.seq (m := m) (s0 := s0) x ?_ ?_; rotate_left; clear_value x; revert x; intro _ _; rotate_left; unfold x; clear x)
    | (extract_lets +onlyGivenNames x; revert x; intro _) | split | (clear_value *; split)
    | with_reducible refine Keeps.mgmt (by assumption) (Sub.bit 27 rfl hp)

theorem State.errSum_keeps {m : Nat} {s0 s : State} (h : Keeps m s0 s) (hp : Sub 0x8000002 m) (a1 a2) : Keeps m s0 (State.errSum s a1 a2) := by
  unfold State.errSum
  repeat' first
    | with_reducible assumption | exact hp.trans rfl | intro _
    | (extract_lets +onlyGivenNames x; refine Keeps.seq (m := m) (s0 := s0) x ?_ ?_; rotate_left; clear_value x; revert x; intro _ _; rotate_left; unfold x; clear x)
    | (extract_lets +onlyGivenNames x; revert x; intro _) | with_reducible apply State.setBit_keeps
    | with_reducible apply State.raisePage_keeps | split | (clear_value *; split)

theorem State.event_keeps {m : Nat} {s0 s : State} (h : Keeps m s0 s) (hp : Sub 0x800000 m) (a1 a2) : Keeps m s0 (State.event s a1 a2) := by
  unfold State.event
  repeat' first
    | with_reducible assumption | intro _
    | (extract_lets +onlyGivenNames x; refine Keeps.seq (m := m) (s0 := s0) x ?_ ?_; rotate_left; clear_value x; revert x; intro _ _; rotate_left; unfold x; clear x)
    | (extract_lets +onlyGivenNames x; revert x; intro _) | with_reducible refine Keeps.recov (by assumption) (Sub.bit 23 rfl hp)

theorem State.note_keeps {m : Nat} {s0 s : State} (h : Keeps m s0 s) (hp : Sub 0x8800002 m) (a1 a2 a3 a4 a5 a6 a7 a8 a9) : Keeps m s0 (State.note s a1 a2 a3 a4 a5 a6 a7 a8 a9) := by
  unfold State.note
  repeat' first
    | with_reducible assumption | exact hp.trans rfl | intro _
    | (extract_lets +onlyGivenNames x; refine Keeps.seq (m := m) (s0 := s0) x ?_ ?_; rotate_left; clear_value x; revert x; intro _ _; rotate_left; unfold x; clear x)
    | (extract_lets +onlyGivenNames x; revert x; intro _) | with_reducible apply State.event_keeps | with_reducible apply State.errSum_keeps
    | split | (clear_value *; split)

theorem State.record_keeps {m : Nat} {s0 s : State} (h : Keeps m s0 s) (hp : Sub 0x8800006 m) (a1 a2 a3 a4 a5 a6 a7 a8 a9) : Keeps m s0 (State.record s a1 a2 a3 a4 a5 a6 a7 a8 a9) := by
  unfold State.record
  repeat' first
    | with_reducible assumption | exact hp.trans rfl | with_reducible apply State.note_keeps | with_reducible apply State.tick_keeps

theorem State.degrade_keeps {m : Nat} {s0 s : State} (h : Keeps m s0 s) (hp : Sub 0x400002 m) (a1) : Keeps m s0 (State.degrade s a1) := by
  unfold State.degrade
  repeat' first
    | with_reducible assumption | exact hp.trans rfl | with_reducible apply State.count_keeps | with_reducible apply State.setPclState_keeps
    | split | with_reducible refine Keeps.parcels (by assumption) (Sub.bit 22 rfl hp)

theorem State.fatalEvent_keeps {m : Nat} {s0 s : State} (h : Keeps m s0 s) (hp : Sub 0x8c00002 m) (a1 a2 a3 a4 a5) : Keeps m s0 (State.fatalEvent s a1 a2 a3 a4 a5) := by
  unfold State.fatalEvent
  repeat' first
    | with_reducible assumption | exact hp.trans rfl | intro _
    | (extract_lets +onlyGivenNames x; refine Keeps.seq (m := m) (s0 := s0) x ?_ ?_; rotate_left; clear_value x; revert x; intro _ _; rotate_left; unfold x; clear x)
    | (extract_lets +onlyGivenNames x; revert x; intro _) | with_reducible apply State.count_keeps | with_reducible apply State.note_keeps
    | with_reducible apply State.degrade_keeps | with_reducible refine Keeps.mgmt (by assumption) (Sub.bit 27 rfl hp)

theorem State.issue_keeps {m : Nat} {s0 s : State} (h : Keeps m s0 s) (hp : Sub 0x10800000 m) (a1 a2) : Keeps m s0 (State.issue s a1 a2) := by
  unfold State.issue
  repeat' first
    | with_reducible assumption | intro _
    | (extract_lets +onlyGivenNames x; refine Keeps.seq (m := m) (s0 := s0) x ?_ ?_; rotate_left; clear_value x; revert x; intro _ _; rotate_left; unfold x; clear x)
    | (extract_lets +onlyGivenNames x; revert x; intro _)
    | (with_reducible apply Keeps.several <;> first | assumption | exact id | exact .inl rfl | exact .inr (Sub.bit _ rfl hp) | exact wf_kset _ _ _ | exact wf_kdel _ _ | exact wf_filter _ _ | exact wf_memWrite _ _ _)

theorem State.dropTracker_keeps {m : Nat} {s0 s : State} (h : Keeps m s0 s) (hp : Sub 0x800000 m) (a1) : Keeps m s0 (State.dropTracker s a1) := by
  unfold State.dropTracker
  repeat' first
    | with_reducible assumption | intro _
    | (extract_lets +onlyGivenNames x; refine Keeps.seq (m := m) (s0 := s0) x ?_ ?_; rotate_left; clear_value x; revert x; intro _ _; rotate_left; unfold x; clear x)
    | (extract_lets +onlyGivenNames x; revert x; intro _) | with_reducible refine Keeps.recov (by assumption) (Sub.bit 23 rfl hp)

theorem State.setExt_keeps {m : Nat} {s0 s : State} (h : Keeps m s0 s) (hp : Sub 0x20 m) (a1 a2) : Keeps m s0 (State.setExt s a1 a2) := by
  unfold State.setExt
  repeat' first | with_reducible assumption | with_reducible refine Keeps.extents (by assumption) (Sub.bit 5 rfl hp)

theorem State.cfgTick_keeps {m : Nat} {s0 s : State} (h : Keeps m s0 s) (hp : Sub 0x4 m) (a1) : Keeps m s0 (State.cfgTick s a1) := by
  unfold State.cfgTick
  repeat' first | with_reducible assumption | exact hp.trans rfl | with_reducible apply State.tick_keeps | split

theorem State.cfgDo_keeps {m : Nat} {s0 s : State} (h : Keeps m s0 s) (hp : Sub 0x4 m) (a1 a2) (hf : ∀ t, Keeps m s0 t → Keeps m s0 (a2 t)) : Keeps m s0 (State.cfgDo s a1 a2) := by
  unfold State.cfgDo
  repeat' first
    | with_reducible assumption | exact hp.trans rfl | intro _ | with_reducible apply hf | with_reducible apply State.cfgTick_keeps | split

theorem State.takeInject_keeps {m : Nat} {s0 s : State} (h : Keeps m s0 s) (hp : Sub 0x2 m) (a1 a2) : KeepsO m s0 (State.takeInject s a1 a2) := by
  unfold State.takeInject
  repeat' first
    | with_reducible assumption | exact hp.trans rfl | intro _
    | (extract_lets +onlyGivenNames x; refine Keeps.seq (m := m) (s0 := s0) x ?_ ?_; rotate_left; clear_value x; revert x; intro _ _; rotate_left; unfold x; clear x)
    | (extract_lets +onlyGivenNames x; revert x; intro _) | with_reducible apply State.setFld_keeps | with_reducible apply KeepsO.some_
    | with_reducible apply KeepsO.none_ | with_reducible apply KeepsO.getD | with_reducible refine KeepsO.get (by assumption) ?_ | split
    | (clear_value *; split)

theorem State.onFirmware_keeps {m : Nat} {s0 s : State} (h : Keeps m s0 s) (hp : Sub 0x800000 m) (a1 a2) (hf : ∀ t, Keeps m s0 t → Keeps m s0 (a2 t)) : Keeps m s0 (State.onFirmware s a1 a2) := by
  unfold State.onFirmware
  repeat' first
    | with_reducible assumption | exact hp.trans rfl | intro _ | with_reducible apply hf
    | (extract_lets +onlyGivenNames x; refine Keeps.seq (m := m) (s0 := s0) x ?_ ?_; rotate_left; clear_value x; revert x; intro _ _; rotate_left; unfold x; clear x)
    | (extract_lets +onlyGivenNames x; revert x; intro _) | split | (clear_value *; split)
    | with_reducible refine Keeps.recov (by assumption) (Sub.bit 23 rfl hp)

theorem State.onlyIf_keeps {m : Nat} {s0 s : State} (h : Keeps m s0 s) (hp : Sub 0x0 m) (a1 a2) (hf : ∀ t, Keeps m s0 t → Keeps m s0 (a2 t)) : Keeps m s0 (State.onlyIf s a1 a2) := by
  unfold State.onlyIf
  repeat' first | with_reducible assumption | exact hp.trans rfl | intro _ | with_reducible apply hf | split

end Sys2Proof.Machine
end

