-- ==== Sys2Proof/Laws/KeepsDirectory.lean ====
section
/-!
SUPPORT. The operations of Machine/Directory.lean leave the queue of waiting commands alone and keep the canonical form.
-/
namespace Sys2Proof.Machine

set_option linter.all false

theorem State.modSlice_keeps {m : Nat} {s0 s : State} (h : Keeps m s0 s) (hp : Sub 0x80 m) (a1 a2) : Keeps m s0 (State.modSlice s a1 a2) := by
  unfold State.modSlice
  repeat' first | with_reducible assumption | with_reducible refine Keeps.cad (by assumption) (Sub.bit 7 rfl hp)

theorem State.bindAgent_keeps {m : Nat} {s0 s : State} (h : Keeps m s0 s) (hp : Sub 0x2 m) (a1 a2) : Keeps m s0 (State.bindAgent s a1 a2) := by
  unfold State.bindAgent
  repeat' first
    | with_reducible assumption | exact hp.trans rfl | intro _ | with_reducible apply State.setFld_keeps | with_reducible apply Keeps.foldl
    | with_reducible apply Keeps.foldl_fst | split

theorem State.lookup_keeps {m : Nat} {s0 s : State} (h : Keeps m s0 s) (hp : Sub 0x82 m) (a1 a2) : Keeps m s0 (State.lookup s a1 a2) := by
  unfold State.lookup
  repeat' first
    | with_reducible assumption | exact hp.trans rfl | intro _
    | (extract_lets +onlyGivenNames x; refine Keeps.seq (m := m) (s0 := s0) x ?_ ?_; rotate_left; clear_value x; revert x; intro _ _; rotate_left; unfold x; clear x)
    | (extract_lets +onlyGivenNames x; revert x; intro _) | with_reducible apply State.count_keeps
    | with_reducible apply State.modSlice_keeps | with_reducible apply Keeps.foldl | with_reducible apply Keeps.foldl_fst

theorem State.putEntry_keeps {m : Nat} {s0 s : State} (h : Keeps m s0 s) (hp : Sub 0x80 m) (a1 a2 a3) : Keeps m s0 (State.putEntry s a1 a2 a3) := by
  unfold State.putEntry
  repeat' first
    | with_reducible assumption | exact hp.trans rfl | intro _
    | (extract_lets +onlyGivenNames x; refine Keeps.seq (m := m) (s0 := s0) x ?_ ?_; rotate_left; clear_value x; revert x; intro _ _; rotate_left; unfold x; clear x)
    | (extract_lets +onlyGivenNames x; revert x; intro _) | with_reducible apply State.modSlice_keeps | split | (clear_value *; split)

theorem State.writePoisoned_keeps {m : Nat} {s0 s : State} (h : Keeps m s0 s) (hp : Sub 0x8800016 m) (a1 a2) : Keeps m s0 (State.writePoisoned s a1 a2) := by
  unfold State.writePoisoned
  repeat' first
    | with_reducible assumption | exact hp.trans rfl | with_reducible apply State.record_keeps | with_reducible apply State.count_keeps
    | with_reducible apply State.poisonLine_keeps

theorem State.setTlc_keeps {m : Nat} {s0 s : State} (h : Keeps m s0 s) (hp : Sub 0x1000 m) (a1 a2 a3) : Keeps m s0 (State.setTlc s a1 a2 a3) := by
  unfold State.setTlc
  repeat' first | with_reducible assumption | with_reducible refine Keeps.tlc (by assumption) (Sub.bit 12 rfl hp)

theorem State.delTlc_keeps {m : Nat} {s0 s : State} (h : Keeps m s0 s) (hp : Sub 0x1000 m) (a1 a2) : Keeps m s0 (State.delTlc s a1 a2) := by
  unfold State.delTlc
  repeat' first | with_reducible assumption | with_reducible refine Keeps.tlc (by assumption) (Sub.bit 12 rfl hp)

theorem State.tlcSnoop_keeps {m : Nat} {s0 s : State} (h : Keeps m s0 s) (hp : Sub 0x10001000 m) (a1 a2 a3) : Keeps m s0 (State.tlcSnoop s a1 a2 a3) := by
  unfold State.tlcSnoop
  repeat' first
    | with_reducible assumption | exact hp.trans rfl | intro _ | with_reducible apply hF
    | (extract_lets +onlyGivenNames x; refine Keeps.seq (m := m) (s0 := s0) x ?_ ?_; rotate_left; clear_value x; revert x; intro _ _; rotate_left; unfold x; clear x)
    | (extract_lets +onlyGivenNames x; refine Keeps.seqF (m := m) (s0 := s0) x ?_ ?_; rotate_left; clear_value x; revert x; intro _ hF; rotate_left; unfold x; clear x)
    | (extract_lets +onlyGivenNames x; refine Keeps.seqG (m := m) (s0 := s0) x ?_ ?_; rotate_left; clear_value x; revert x; intro _ hF; rotate_left; unfold x; clear x)
    | (extract_lets +onlyGivenNames x; refine Keeps.seqH (m := m) (s0 := s0) x ?_ ?_; rotate_left; clear_value x; revert x; intro _ hF; rotate_left; unfold x; clear x)
    | (extract_lets +onlyGivenNames x; revert x; intro _) | with_reducible apply State.send_keeps | with_reducible apply State.setTlc_keeps
    | with_reducible apply State.delTlc_keeps | split | (clear_value *; split)

theorem State.sendSnoop_keeps {m : Nat} {s0 s : State} (h : Keeps m s0 s) (hp : Sub 0x10041002 m) (a1 a2 a3 a4) : Keeps m s0 (State.sendSnoop s a1 a2 a3 a4) := by
  unfold State.sendSnoop
  repeat' first
    | with_reducible assumption | exact hp.trans rfl | intro _
    | (extract_lets +onlyGivenNames x; refine Keeps.seq (m := m) (s0 := s0) x ?_ ?_; rotate_left; clear_value x; revert x; intro _ _; rotate_left; unfold x; clear x)
    | (extract_lets +onlyGivenNames x; revert x; intro _) | with_reducible apply State.count_keeps
    | with_reducible apply State.tlcSnoop_keeps | with_reducible apply State.toFilard_keeps | with_reducible apply State.send_keeps | split
    | (clear_value *; split)

theorem State.sendSnoops_keeps {m : Nat} {s0 s : State} (h : Keeps m s0 s) (hp : Sub 0x10041002 m) (a1 a2 a3) : Keeps m s0 (State.sendSnoops s a1 a2 a3) := by
  induction a3 generalizing s a1 a2 with
  | nil =>
    unfold State.sendSnoops
    repeat' first | with_reducible assumption | exact hp.trans rfl | with_reducible apply State.sendSnoop_keeps | split
  | cons _ _ ih =>
    unfold State.sendSnoops
    repeat' first
      | with_reducible assumption | with_reducible apply ih | exact hp.trans rfl | with_reducible apply State.sendSnoop_keeps | split

theorem State.setTxn_keeps {m : Nat} {s0 s : State} (h : Keeps m s0 s) (hp : Sub 0x80 m) (a1 a2 a3) : Keeps m s0 (State.setTxn s a1 a2 a3) := by
  unfold State.setTxn
  repeat' first | with_reducible assumption | exact hp.trans rfl | with_reducible apply State.modSlice_keeps

theorem State.delTxn_keeps {m : Nat} {s0 s : State} (h : Keeps m s0 s) (hp : Sub 0x80 m) (a1 a2) : Keeps m s0 (State.delTxn s a1 a2) := by
  unfold State.delTxn
  repeat' first | with_reducible assumption | exact hp.trans rfl | with_reducible apply State.modSlice_keeps

theorem State.addTxn_keeps {m : Nat} {s0 s : State} (h : Keeps m s0 s) (hp : Sub 0x80 m) (a1 a2) : Keeps m s0 (State.addTxn s a1 a2) := by
  unfold State.addTxn
  repeat' first | with_reducible assumption | exact hp.trans rfl | with_reducible apply State.modSlice_keeps

theorem State.queueConflict_keeps {m : Nat} {s0 s : State} (h : Keeps m s0 s) (hp : Sub 0x82 m) (a1 a2 a3) : Keeps m s0 (State.queueConflict s a1 a2 a3) := by
  unfold State.queueConflict
  repeat' first
    | with_reducible assumption | exact hp.trans rfl | intro _
    | (extract_lets +onlyGivenNames x; refine Keeps.seq (m := m) (s0 := s0) x ?_ ?_; rotate_left; clear_value x; revert x; intro _ _; rotate_left; unfold x; clear x)
    | (extract_lets +onlyGivenNames x; revert x; intro _) | with_reducible apply State.count_keeps
    | with_reducible apply State.modSlice_keeps | with_reducible apply State.setFld_keeps | split | (clear_value *; split)

theorem State.measure_keeps {m : Nat} {s0 s : State} (h : Keeps m s0 s) (hp : Sub 0x80 m) (a1 a2 a3 a4) : Keeps m s0 (State.measure s a1 a2 a3 a4) := by
  unfold State.measure
  repeat' first
    | with_reducible assumption | exact hp.trans rfl | intro _
    | (extract_lets +onlyGivenNames x; refine Keeps.seq (m := m) (s0 := s0) x ?_ ?_; rotate_left; clear_value x; revert x; intro _ _; rotate_left; unfold x; clear x)
    | (extract_lets +onlyGivenNames x; revert x; intro _) | with_reducible apply State.modSlice_keeps | with_reducible apply Keeps.foldl
    | with_reducible apply Keeps.foldl_fst | split | (clear_value *; split)

end Sys2Proof.Machine
end

