-- ==== Sys2Proof/Laws/KeepsHomeMem.lean ====
section
/-!
SUPPORT. The operations of Machine/HomeMem.lean leave the queue of waiting commands alone and keep the canonical form.
-/
namespace Sys2Proof.Machine

set_option linter.all false

theorem State.refuseEnable_keeps {m : Nat} {s0 s : State} (h : Keeps m s0 s) (hp : Sub 0x8800002 m) (a1) : Keeps m s0 (State.refuseEnable s a1) := by
  unfold State.refuseEnable
  repeat' first | with_reducible assumption | exact hp.trans rfl | with_reducible apply State.note_keeps

theorem State.setFrame_keeps {m : Nat} {s0 s : State} (h : Keeps m s0 s) (hp : Sub 0x400 m) (a1 a2) : Keeps m s0 (State.setFrame s a1 a2) := by
  unfold State.setFrame
  repeat' first
    | with_reducible assumption | intro _
    | (extract_lets +onlyGivenNames x; refine Keeps.seq (m := m) (s0 := s0) x ?_ ?_; rotate_left; clear_value x; revert x; intro _ _; rotate_left; unfold x; clear x)
    | (extract_lets +onlyGivenNames x; revert x; intro _) | with_reducible refine Keeps.tier (by assumption) (Sub.bit 10 rfl hp)

theorem State.dropFrame_keeps {m : Nat} {s0 s : State} (h : Keeps m s0 s) (hp : Sub 0x400 m) (a1) : Keeps m s0 (State.dropFrame s a1) := by
  unfold State.dropFrame
  repeat' first
    | with_reducible assumption | intro _
    | (extract_lets +onlyGivenNames x; refine Keeps.seq (m := m) (s0 := s0) x ?_ ?_; rotate_left; clear_value x; revert x; intro _ _; rotate_left; unfold x; clear x)
    | (extract_lets +onlyGivenNames x; revert x; intro _) | with_reducible refine Keeps.tier (by assumption) (Sub.bit 10 rfl hp)

theorem State.slotCount_keeps {m : Nat} {s0 s : State} (h : Keeps m s0 s) (hp : Sub 0x2 m) (a1 a2 a3) : Keeps m s0 (State.slotCount s a1 a2 a3) := by
  unfold State.slotCount
  repeat' first | with_reducible assumption | exact hp.trans rfl | with_reducible apply State.count_keeps | split

theorem State.checkFailed_keeps {m : Nat} {s0 s : State} (h : Keeps m s0 s) (hp : Sub 0x8800006 m) (a1 a2) : Keeps m s0 (State.checkFailed s a1 a2) := by
  unfold State.checkFailed
  repeat' first
    | with_reducible assumption | exact hp.trans rfl | intro _
    | (extract_lets +onlyGivenNames x; refine Keeps.seq (m := m) (s0 := s0) x ?_ ?_; rotate_left; clear_value x; revert x; intro _ _; rotate_left; unfold x; clear x)
    | (extract_lets +onlyGivenNames x; revert x; intro _) | with_reducible apply State.setReg_keeps | with_reducible apply State.count_keeps
    | with_reducible apply State.record_keeps | split | (clear_value *; split)

theorem State.verifyLine_keeps {m : Nat} {s0 s : State} (h : Keeps m s0 s) (hp : Sub 0x8800006 m) (a1) : Keeps m s0 (State.verifyLine s a1) := by
  unfold State.verifyLine
  repeat' first
    | with_reducible assumption | exact hp.trans rfl | intro _
    | (extract_lets +onlyGivenNames x; refine Keeps.seq (m := m) (s0 := s0) x ?_ ?_; rotate_left; clear_value x; revert x; intro _ _; rotate_left; unfold x; clear x)
    | (extract_lets +onlyGivenNames x; revert x; intro _) | with_reducible apply State.slotCount_keeps
    | with_reducible apply State.checkFailed_keeps | split | (clear_value *; split)

theorem State.verify_keeps {m : Nat} {s0 s : State} (h : Keeps m s0 s) (hp : Sub 0x8800006 m) (a1 a2) : Keeps m s0 (State.verify s a1 a2) := by
  unfold State.verify
  repeat' first
    | with_reducible assumption | exact hp.trans rfl | intro _ | with_reducible apply State.verifyLine_keeps
    | with_reducible apply Keeps.foldl | with_reducible apply Keeps.foldl_fst

theorem State.lineWritten_keeps {m : Nat} {s0 s : State} (h : Keeps m s0 s) (hp : Sub 0x8800016 m) (a1) : Keeps m s0 (State.lineWritten s a1) := by
  unfold State.lineWritten
  repeat' first
    | with_reducible assumption | exact hp.trans rfl | with_reducible apply State.onMem_keeps | with_reducible apply State.poisonLine_keeps
    | with_reducible apply State.checkFailed_keeps | split

theorem State.cacheTick_keeps {m : Nat} {s0 s : State} (h : Keeps m s0 s) (hp : Sub 0x400 m) : Keeps m s0 (State.cacheTick s) := by
  unfold State.cacheTick
  repeat' first
    | with_reducible assumption | intro _
    | (extract_lets +onlyGivenNames x; refine Keeps.seq (m := m) (s0 := s0) x ?_ ?_; rotate_left; clear_value x; revert x; intro _ _; rotate_left; unfold x; clear x)
    | (extract_lets +onlyGivenNames x; revert x; intro _) | with_reducible refine Keeps.tier (by assumption) (Sub.bit 10 rfl hp)

theorem State.startWriteBack_keeps {m : Nat} {s0 s : State} (h : Keeps m s0 s) (hp : Sub 0x8800416 m) (a1) : Keeps m s0 (State.startWriteBack s a1) := by
  unfold State.startWriteBack
  repeat' first
    | with_reducible assumption | exact hp.trans rfl | intro _
    | (extract_lets +onlyGivenNames x; refine Keeps.seq (m := m) (s0 := s0) x ?_ ?_; rotate_left; clear_value x; revert x; intro _ _; rotate_left; unfold x; clear x)
    | (extract_lets +onlyGivenNames x; revert x; intro _) | with_reducible apply State.dropFrame_keeps
    | with_reducible apply State.lineWritten_keeps | with_reducible apply State.freshLine_keeps | with_reducible apply State.setFrame_keeps
    | with_reducible apply Keeps.foldl | with_reducible apply Keeps.foldl_fst | split | (clear_value *; split)
    | with_reducible refine Keeps.cells (by assumption) (by first | exact wf_memWrite _ _ _) (Sub.bit 4 rfl hp)
    | with_reducible refine Keeps.mem (by assumption) rfl (Sub.bit 4 rfl hp)

theorem State.allocFrame_keeps {m : Nat} {s0 s : State} (h : Keeps m s0 s) (hp : Sub 0x8800416 m) (a1 a2 a3 a4) : KeepsC m s0 (State.allocFrame s a1 a2 a3 a4) := by
  unfold State.allocFrame
  repeat' first
    | with_reducible assumption | exact hp.trans rfl | intro _ | with_reducible apply hF
    | (extract_lets +onlyGivenNames x; refine Keeps.seq (m := m) (s0 := s0) x ?_ ?_; rotate_left; clear_value x; revert x; intro _ _; rotate_left; unfold x; clear x)
    | (extract_lets +onlyGivenNames x; refine KeepsC.seqG (m := m) (s0 := s0) x ?_ ?_; rotate_left; clear_value x; revert x; intro _ hF; rotate_left; unfold x; clear x)
    | (extract_lets +onlyGivenNames x; revert x; intro _) | with_reducible apply State.cacheTick_keeps
    | with_reducible apply State.count_keeps | with_reducible apply State.setFrame_keeps | with_reducible apply State.startWriteBack_keeps
    | with_reducible apply State.dropFrame_keeps | with_reducible apply KeepsC.hit | with_reducible apply KeepsC.waits
    | with_reducible apply KeepsC.quota | with_reducible refine KeepsC.ofHit (by assumption) ?_
    | with_reducible refine KeepsC.ofWaits (by assumption) ?_ | with_reducible refine KeepsC.ofQuota (by assumption) ?_ | split
    | (clear_value *; split)

theorem State.cacheLookup_keeps {m : Nat} {s0 s : State} (h : Keeps m s0 s) (hp : Sub 0x8800416 m) (a1 a2 a3 a4 a5 a6) : KeepsC m s0 (State.cacheLookup s a1 a2 a3 a4 a5 a6) := by
  unfold State.cacheLookup
  repeat' first
    | with_reducible assumption | exact hp.trans rfl | intro _
    | (extract_lets +onlyGivenNames x; refine Keeps.seq (m := m) (s0 := s0) x ?_ ?_; rotate_left; clear_value x; revert x; intro _ _; rotate_left; unfold x; clear x)
    | (extract_lets +onlyGivenNames x; revert x; intro _) | with_reducible apply State.setFrame_keeps
    | with_reducible apply State.cacheTick_keeps | with_reducible apply State.count_keeps | with_reducible apply State.allocFrame_keeps
    | with_reducible apply KeepsC.hit | with_reducible apply KeepsC.waits | with_reducible apply KeepsC.quota
    | with_reducible refine KeepsC.ofHit (by assumption) ?_ | with_reducible refine KeepsC.ofWaits (by assumption) ?_
    | with_reducible refine KeepsC.ofQuota (by assumption) ?_ | split | (clear_value *; split)

theorem State.holdStore_keeps {m : Nat} {s0 s : State} (h : Keeps m s0 s) (hp : Sub 0x8800416 m) (a1 a2 a3 a4) : Keeps m s0 (State.holdStore s a1 a2 a3 a4) := by
  unfold State.holdStore
  repeat' first
    | with_reducible assumption | exact hp.trans rfl | intro _
    | (extract_lets +onlyGivenNames x; refine Keeps.seq (m := m) (s0 := s0) x ?_ ?_; rotate_left; clear_value x; revert x; intro _ _; rotate_left; unfold x; clear x)
    | (extract_lets +onlyGivenNames x; revert x; intro _) | with_reducible apply State.count_keeps
    | with_reducible apply State.startWriteBack_keeps | with_reducible apply Keeps.foldl | with_reducible apply Keeps.foldl_fst | split
    | (clear_value *; split) | with_reducible refine Keeps.tier (by assumption) (Sub.bit 10 rfl hp)

theorem State.squash_keeps {m : Nat} {s0 s : State} (h : Keeps m s0 s) (hp : Sub 0x10002 m) (a1) : Keeps m s0 (State.squash s a1) := by
  unfold State.squash
  repeat' first
    | with_reducible assumption | exact hp.trans rfl | intro _
    | (extract_lets +onlyGivenNames x; refine Keeps.seq (m := m) (s0 := s0) x ?_ ?_; rotate_left; clear_value x; revert x; intro _ _; rotate_left; unfold x; clear x)
    | (extract_lets +onlyGivenNames x; revert x; intro _) | with_reducible apply State.count_keeps | with_reducible apply Keeps.foldl
    | with_reducible apply Keeps.foldl_fst | split | (clear_value *; split)
    | with_reducible refine Keeps.trav (by assumption) (Sub.bit 16 rfl hp)

end Sys2Proof.Machine
end

