-- ==== Sys2Proof/Laws/KeepsHome.lean ====
section
/-!
SUPPORT. The operations of Machine/Home.lean leave the queue of waiting commands alone and keep the canonical form.
-/
namespace Sys2Proof.Machine

set_option linter.all false

theorem State.touchDirty_keeps {m : Nat} {s0 s : State} (h : Keeps m s0 s) (hp : Sub 0x10402 m) (a1) : Keeps m s0 (State.touchDirty s a1) := by
  unfold State.touchDirty
  repeat' first
    | with_reducible assumption | exact hp.trans rfl | intro _
    | (extract_lets +onlyGivenNames x; refine Keeps.seq (m := m) (s0 := s0) x ?_ ?_; rotate_left; clear_value x; revert x; intro _ _; rotate_left; unfold x; clear x)
    | (extract_lets +onlyGivenNames x; revert x; intro _) | with_reducible apply State.squash_keeps
    | with_reducible apply State.setFrame_keeps | with_reducible apply State.cacheTick_keeps | split | (clear_value *; split)

theorem State.homeWriteLine_keeps {m : Nat} {s0 s : State} (h : Keeps m s0 s) (hp : Sub 0x8810416 m) (a1 a2) : Keeps m s0 (State.homeWriteLine s a1 a2) := by
  unfold State.homeWriteLine
  repeat' first
    | with_reducible assumption | exact hp.trans rfl | with_reducible apply State.lineWritten_keeps
    | with_reducible apply State.writeLine_keeps | with_reducible apply State.touchDirty_keeps | split

theorem State.storeLine_keeps {m : Nat} {s0 s : State} (h : Keeps m s0 s) (hp : Sub 0x8810416 m) (a1 a2 a3) : Keeps m s0 (State.storeLine s a1 a2 a3).1 := by
  unfold State.storeLine
  repeat' first
    | with_reducible assumption | exact hp.trans rfl | intro _ | with_reducible apply hF
    | (extract_lets +onlyGivenNames x; refine Keeps.seq (m := m) (s0 := s0) x ?_ ?_; rotate_left; clear_value x; revert x; intro _ _; rotate_left; unfold x; clear x)
    | (extract_lets +onlyGivenNames x; refine Keeps.seq (m := m) (s0 := s0) x.1 ?_ ?_; rotate_left; clear_value x; revert x; intro _ _; rotate_left; unfold x; clear x)
    | (extract_lets +onlyGivenNames x; refine Keeps.seqF (m := m) (s0 := s0) x ?_ ?_; rotate_left; clear_value x; revert x; intro _ hF; rotate_left; unfold x; clear x)
    | (extract_lets +onlyGivenNames x; refine Keeps.seqG (m := m) (s0 := s0) x ?_ ?_; rotate_left; clear_value x; revert x; intro _ hF; rotate_left; unfold x; clear x)
    | (extract_lets +onlyGivenNames x; refine Keeps.seqH (m := m) (s0 := s0) x ?_ ?_; rotate_left; clear_value x; revert x; intro _ hF; rotate_left; unfold x; clear x)
    | (extract_lets +onlyGivenNames x; revert x; intro _) | with_reducible apply State.touchDirty_keeps
    | with_reducible apply State.writePoisoned_keeps | with_reducible apply State.lineWritten_keeps
    | with_reducible apply State.writeLine_keeps | with_reducible apply State.verifyLine_keeps | with_reducible apply State.writeMask_keeps
    | with_reducible apply State.writeMem_keeps | with_reducible apply State.poisonLine_keeps | split | (clear_value *; split)
    | with_reducible refine Keeps.of_fst (by assumption) ?_

theorem State.storeLines_keeps {m : Nat} {s0 s : State} (h : Keeps m s0 s) (hp : Sub 0x8810416 m) (a1 a2 a3) : Keeps m s0 (State.storeLines s a1 a2 a3).1 := by
  induction a3 generalizing s a1 a2 with
  | nil =>
    unfold State.storeLines
    repeat' first
      | with_reducible assumption | exact hp.trans rfl | intro _
      | (extract_lets +onlyGivenNames x; refine Keeps.seq (m := m) (s0 := s0) x ?_ ?_; rotate_left; clear_value x; revert x; intro _ _; rotate_left; unfold x; clear x)
      | (extract_lets +onlyGivenNames x; refine Keeps.seq (m := m) (s0 := s0) x.1 ?_ ?_; rotate_left; clear_value x; revert x; intro _ _; rotate_left; unfold x; clear x)
      | (extract_lets +onlyGivenNames x; revert x; intro _) | with_reducible apply State.storeLine_keeps | split | (clear_value *; split)
      | with_reducible refine Keeps.of_fst (by assumption) ?_
  | cons _ _ ih =>
    unfold State.storeLines
    repeat' first
      | with_reducible assumption | with_reducible apply ih | exact hp.trans rfl | intro _
      | (extract_lets +onlyGivenNames x; refine Keeps.seq (m := m) (s0 := s0) x ?_ ?_; rotate_left; clear_value x; revert x; intro _ _; rotate_left; unfold x; clear x)
      | (extract_lets +onlyGivenNames x; refine Keeps.seq (m := m) (s0 := s0) x.1 ?_ ?_; rotate_left; clear_value x; revert x; intro _ _; rotate_left; unfold x; clear x)
      | (extract_lets +onlyGivenNames x; revert x; intro _) | with_reducible apply State.storeLine_keeps | split | (clear_value *; split)
      | with_reducible refine Keeps.of_fst (by assumption) ?_

theorem State.atomicAt_keeps {m : Nat} {s0 s : State} (h : Keeps m s0 s) (hp : Sub 0x8810416 m) (a1 a2) : Keeps m s0 (State.atomicAt s a1 a2).1 := by
  unfold State.atomicAt
  repeat' first
    | with_reducible assumption | exact hp.trans rfl | intro _
    | (extract_lets +onlyGivenNames x; refine Keeps.seq (m := m) (s0 := s0) x ?_ ?_; rotate_left; clear_value x; revert x; intro _ _; rotate_left; unfold x; clear x)
    | (extract_lets +onlyGivenNames x; refine Keeps.seq (m := m) (s0 := s0) x.1 ?_ ?_; rotate_left; clear_value x; revert x; intro _ _; rotate_left; unfold x; clear x)
    | (extract_lets +onlyGivenNames x; revert x; intro _) | with_reducible apply State.verifyLine_keeps
    | with_reducible apply State.writeMem_keeps | with_reducible apply State.touchDirty_keeps | split | (clear_value *; split)
    | with_reducible refine Keeps.of_fst (by assumption) ?_

theorem State.endLine_keeps {m : Nat} {s0 s : State} (h : Keeps m s0 s) (hp : Sub 0x8810496 m) (a1 a2 a3 a4 a5) : Keeps m s0 (State.endLine s a1 a2 a3 a4 a5).s := by
  unfold State.endLine
  repeat' first
    | with_reducible assumption | exact hp.trans rfl | intro _
    | (extract_lets +onlyGivenNames x; refine Keeps.seq (m := m) (s0 := s0) x ?_ ?_; rotate_left; clear_value x; revert x; intro _ _; rotate_left; unfold x; clear x)
    | (extract_lets +onlyGivenNames x; refine Keeps.seq (m := m) (s0 := s0) x.1 ?_ ?_; rotate_left; clear_value x; revert x; intro _ _; rotate_left; unfold x; clear x)
    | (extract_lets +onlyGivenNames x; revert x; intro _) | with_reducible apply State.writePoisoned_keeps
    | with_reducible apply State.homeWriteLine_keeps | with_reducible apply State.verifyLine_keeps
    | with_reducible apply State.putEntry_keeps | with_reducible apply State.atomicAt_keeps | with_reducible apply State.storeLine_keeps
    | split | (clear_value *; split) | with_reducible refine Keeps.of_fst (by assumption) ?_

theorem State.endLines_keeps {m : Nat} {s0 s : State} (h : Keeps m s0 s) (hp : Sub 0x8810496 m) (a1 a2 a3 a4 a5) : Keeps m s0 (State.endLines s a1 a2 a3 a4 a5).s := by
  induction a5 generalizing s a1 a2 a3 a4 with
  | nil =>
    unfold State.endLines
    repeat' first
      | with_reducible assumption | exact hp.trans rfl | intro _
      | (extract_lets +onlyGivenNames x; refine Keeps.seq (m := m) (s0 := s0) x ?_ ?_; rotate_left; clear_value x; revert x; intro _ _; rotate_left; unfold x; clear x)
      | (extract_lets +onlyGivenNames x; refine Keeps.seq (m := m) (s0 := s0) x.s ?_ ?_; rotate_left; clear_value x; revert x; intro _ _; rotate_left; unfold x; clear x)
      | (extract_lets +onlyGivenNames x; revert x; intro _) | with_reducible apply State.endLine_keeps | split | (clear_value *; split)
  | cons _ _ ih =>
    unfold State.endLines
    repeat' first
      | with_reducible assumption | with_reducible apply ih | exact hp.trans rfl | intro _
      | (extract_lets +onlyGivenNames x; refine Keeps.seq (m := m) (s0 := s0) x ?_ ?_; rotate_left; clear_value x; revert x; intro _ _; rotate_left; unfold x; clear x)
      | (extract_lets +onlyGivenNames x; refine Keeps.seq (m := m) (s0 := s0) x.s ?_ ?_; rotate_left; clear_value x; revert x; intro _ _; rotate_left; unfold x; clear x)
      | (extract_lets +onlyGivenNames x; revert x; intro _) | with_reducible apply State.endLine_keeps | split | (clear_value *; split)

theorem State.finishTxn_keeps {m : Nat} {s0 s : State} (h : Keeps m s0 s) (hp : Sub 0x10000082 m) (a1 a2 a3) : Keeps m s0 (State.finishTxn s a1 a2 a3) := by
  unfold State.finishTxn
  repeat' first
    | with_reducible assumption | exact hp.trans rfl | intro _
    | (extract_lets +onlyGivenNames x; refine Keeps.seq (m := m) (s0 := s0) x ?_ ?_; rotate_left; clear_value x; revert x; intro _ _; rotate_left; unfold x; clear x)
    | (extract_lets +onlyGivenNames x; revert x; intro _) | with_reducible apply State.delTxn_keeps
    | with_reducible apply State.modSlice_keeps | with_reducible apply State.complete_keeps | split | (clear_value *; split)

theorem State.waitFrame_keeps {m : Nat} {s0 s : State} (h : Keeps m s0 s) (hp : Sub 0x8800496 m) (a1 a2 a3 a4) : KeepsO m s0 (State.waitFrame s a1 a2 a3 a4) := by
  unfold State.waitFrame
  repeat' first
    | with_reducible assumption | exact hp.trans rfl | intro _
    | (extract_lets +onlyGivenNames x; refine Keeps.seq (m := m) (s0 := s0) x ?_ ?_; rotate_left; clear_value x; revert x; intro _ _; rotate_left; unfold x; clear x)
    | (extract_lets +onlyGivenNames x; revert x; intro _) | with_reducible apply State.setTxn_keeps
    | with_reducible apply State.allocFrame_keeps | with_reducible apply KeepsO.some_ | with_reducible apply KeepsO.none_
    | with_reducible apply KeepsO.getD | with_reducible refine KeepsO.get (by assumption) ?_ | with_reducible apply KeepsC.hit
    | with_reducible apply KeepsC.waits | with_reducible apply KeepsC.quota | with_reducible refine KeepsC.ofHit (by assumption) ?_
    | with_reducible refine KeepsC.ofWaits (by assumption) ?_ | with_reducible refine KeepsC.ofQuota (by assumption) ?_ | split
    | (clear_value *; split)

theorem State.rpqEnd_keeps {m : Nat} {s0 s : State} (h : Keeps m s0 s) (hp : Sub 0x18800086 m) (a1 a2 a3) : Keeps m s0 (State.rpqEnd s a1 a2 a3) := by
  unfold State.rpqEnd
  repeat' first
    | with_reducible assumption | exact hp.trans rfl | intro _ | with_reducible apply hF
    | (extract_lets +onlyGivenNames x; refine Keeps.seq (m := m) (s0 := s0) x ?_ ?_; rotate_left; clear_value x; revert x; intro _ _; rotate_left; unfold x; clear x)
    | (extract_lets +onlyGivenNames x; refine Keeps.seqF (m := m) (s0 := s0) x ?_ ?_; rotate_left; clear_value x; revert x; intro _ hF; rotate_left; unfold x; clear x)
    | (extract_lets +onlyGivenNames x; refine Keeps.seqG (m := m) (s0 := s0) x ?_ ?_; rotate_left; clear_value x; revert x; intro _ hF; rotate_left; unfold x; clear x)
    | (extract_lets +onlyGivenNames x; refine Keeps.seqH (m := m) (s0 := s0) x ?_ ?_; rotate_left; clear_value x; revert x; intro _ hF; rotate_left; unfold x; clear x)
    | (extract_lets +onlyGivenNames x; revert x; intro _) | with_reducible apply State.putEntry_keeps
    | with_reducible apply State.finishTxn_keeps | with_reducible apply State.verify_keeps | with_reducible apply State.modSlice_keeps
    | with_reducible apply Keeps.foldl | with_reducible apply Keeps.foldl_fst | split | (clear_value *; split)

theorem State.homeEnd_keeps {m : Nat} {s0 s : State} (h : Keeps m s0 s) (hp : Sub 0x18810496 m) (a1 a2 a3) : Keeps m s0 (State.homeEnd s a1 a2 a3) := by
  unfold State.homeEnd
  repeat' first
    | with_reducible assumption | exact hp.trans rfl | intro _
    | (extract_lets +onlyGivenNames x; refine Keeps.seq (m := m) (s0 := s0) x ?_ ?_; rotate_left; clear_value x; revert x; intro _ _; rotate_left; unfold x; clear x)
    | (extract_lets +onlyGivenNames x; refine Keeps.seq (m := m) (s0 := s0) x.s ?_ ?_; rotate_left; clear_value x; revert x; intro _ _; rotate_left; unfold x; clear x)
    | (extract_lets +onlyGivenNames x; refine KeepsO.seq (m := m) (s0 := s0) x ?_ ?_; rotate_left; clear_value x; revert x; intro _ _; rotate_left; unfold x; clear x)
    | (extract_lets +onlyGivenNames x; revert x; intro _) | with_reducible apply State.waitFrame_keeps
    | with_reducible apply State.rpqEnd_keeps | with_reducible apply State.setTxn_keeps | with_reducible apply State.count_keeps
    | with_reducible apply State.endLines_keeps | with_reducible apply State.finishTxn_keeps | with_reducible apply KeepsO.some_
    | with_reducible apply KeepsO.none_ | with_reducible apply KeepsO.getD | with_reducible refine KeepsO.get (by assumption) ?_ | split
    | (clear_value *; split) | exact KeepsO.get rfl (by assumption)

theorem State.startSnoops_keeps {m : Nat} {s0 s : State} (h : Keeps m s0 s) (hp : Sub 0x10041002 m) (a1 a2 a3 a4 a5) : Keeps m s0 (State.startSnoops s a1 a2 a3 a4 a5).1 := by
  induction a5 generalizing s a1 a2 a3 a4 with
  | nil =>
    unfold State.startSnoops
    repeat' first
      | with_reducible assumption | exact hp.trans rfl | intro _
      | (extract_lets +onlyGivenNames x; refine Keeps.seq (m := m) (s0 := s0) x ?_ ?_; rotate_left; clear_value x; revert x; intro _ _; rotate_left; unfold x; clear x)
      | (extract_lets +onlyGivenNames x; refine Keeps.seq (m := m) (s0 := s0) x.1 ?_ ?_; rotate_left; clear_value x; revert x; intro _ _; rotate_left; unfold x; clear x)
      | (extract_lets +onlyGivenNames x; revert x; intro _) | with_reducible apply State.sendSnoops_keeps | split | (clear_value *; split)
      | with_reducible refine Keeps.of_fst (by assumption) ?_
  | cons _ _ ih =>
    unfold State.startSnoops
    repeat' first
      | with_reducible assumption | with_reducible apply ih | exact hp.trans rfl | intro _
      | (extract_lets +onlyGivenNames x; refine Keeps.seq (m := m) (s0 := s0) x ?_ ?_; rotate_left; clear_value x; revert x; intro _ _; rotate_left; unfold x; clear x)
      | (extract_lets +onlyGivenNames x; refine Keeps.seq (m := m) (s0 := s0) x.1 ?_ ?_; rotate_left; clear_value x; revert x; intro _ _; rotate_left; unfold x; clear x)
      | (extract_lets +onlyGivenNames x; revert x; intro _) | with_reducible apply State.sendSnoops_keeps | split | (clear_value *; split)
      | with_reducible refine Keeps.of_fst (by assumption) ?_

theorem State.startTable_keeps {m : Nat} {s0 s : State} (h : Keeps m s0 s) (hp : Sub 0x18851496 m) (a1 a2 a3) : Keeps m s0 (State.startTable s a1 a2 a3) := by
  unfold State.startTable
  repeat' first
    | with_reducible assumption | exact hp.trans rfl | intro _
    | (extract_lets +onlyGivenNames x; refine Keeps.seq (m := m) (s0 := s0) x ?_ ?_; rotate_left; clear_value x; revert x; intro _ _; rotate_left; unfold x; clear x)
    | (extract_lets +onlyGivenNames x; refine Keeps.seq (m := m) (s0 := s0) x.1 ?_ ?_; rotate_left; clear_value x; revert x; intro _ _; rotate_left; unfold x; clear x)
    | (extract_lets +onlyGivenNames x; revert x; intro _) | with_reducible apply State.putEntry_keeps
    | with_reducible apply State.count_keeps | with_reducible apply State.startSnoops_keeps | with_reducible apply State.homeEnd_keeps
    | with_reducible apply State.setTxn_keeps | split | (clear_value *; split) | with_reducible refine Keeps.of_fst (by assumption) ?_

theorem State.homeWbk_keeps {m : Nat} {s0 s : State} (h : Keeps m s0 s) (hp : Sub 0x18810496 m) (a1 a2 a3) : Keeps m s0 (State.homeWbk s a1 a2 a3) := by
  unfold State.homeWbk
  repeat' first
    | with_reducible assumption | exact hp.trans rfl | intro _ | with_reducible apply hF
    | (extract_lets +onlyGivenNames x; refine Keeps.seq (m := m) (s0 := s0) x ?_ ?_; rotate_left; clear_value x; revert x; intro _ _; rotate_left; unfold x; clear x)
    | (extract_lets +onlyGivenNames x; refine Keeps.seqF (m := m) (s0 := s0) x ?_ ?_; rotate_left; clear_value x; revert x; intro _ hF; rotate_left; unfold x; clear x)
    | (extract_lets +onlyGivenNames x; refine Keeps.seqG (m := m) (s0 := s0) x ?_ ?_; rotate_left; clear_value x; revert x; intro _ hF; rotate_left; unfold x; clear x)
    | (extract_lets +onlyGivenNames x; refine Keeps.seqH (m := m) (s0 := s0) x ?_ ?_; rotate_left; clear_value x; revert x; intro _ hF; rotate_left; unfold x; clear x)
    | (extract_lets +onlyGivenNames x; revert x; intro _) | with_reducible apply State.putEntry_keeps
    | with_reducible apply State.homeWriteLine_keeps | with_reducible apply State.writePoisoned_keeps
    | with_reducible apply State.setTxn_keeps | with_reducible apply State.finishTxn_keeps | split | (clear_value *; split)

theorem State.resolveLine_keeps {m : Nat} {s0 s : State} (h : Keeps m s0 s) (hp : Sub 0x8800096 m) (a1 a2) : Keeps m s0 (State.resolveLine s a1 a2).1 := by
  unfold State.resolveLine
  repeat' first
    | with_reducible assumption | exact hp.trans rfl | intro _
    | (extract_lets +onlyGivenNames x; refine Keeps.seq (m := m) (s0 := s0) x ?_ ?_; rotate_left; clear_value x; revert x; intro _ _; rotate_left; unfold x; clear x)
    | (extract_lets +onlyGivenNames x; refine Keeps.seq (m := m) (s0 := s0) x.1 ?_ ?_; rotate_left; clear_value x; revert x; intro _ _; rotate_left; unfold x; clear x)
    | (extract_lets +onlyGivenNames x; revert x; intro _) | with_reducible apply State.putEntry_keeps
    | with_reducible apply State.writePoisoned_keeps | with_reducible apply Keeps.foldl | with_reducible apply Keeps.foldl_fst | split
    | (clear_value *; split) | with_reducible refine Keeps.of_fst (by assumption) ?_

theorem State.resolveLines_keeps {m : Nat} {s0 s : State} (h : Keeps m s0 s) (hp : Sub 0x18841096 m) (a1 a2 a3) : Keeps m s0 (State.resolveLines s a1 a2 a3).1 := by
  induction a3 generalizing s a1 a2 with
  | nil =>
    unfold State.resolveLines
    repeat' first
      | with_reducible assumption | exact hp.trans rfl | intro _
      | (extract_lets +onlyGivenNames x; refine Keeps.seq (m := m) (s0 := s0) x ?_ ?_; rotate_left; clear_value x; revert x; intro _ _; rotate_left; unfold x; clear x)
      | (extract_lets +onlyGivenNames x; refine Keeps.seq (m := m) (s0 := s0) x.1 ?_ ?_; rotate_left; clear_value x; revert x; intro _ _; rotate_left; unfold x; clear x)
      | (extract_lets +onlyGivenNames x; revert x; intro _) | with_reducible apply State.resolveLine_keeps
      | with_reducible apply State.sendSnoops_keeps | split | (clear_value *; split) | with_reducible refine Keeps.of_fst (by assumption) ?_
  | cons _ _ ih =>
    unfold State.resolveLines
    repeat' first
      | with_reducible assumption | with_reducible apply ih | exact hp.trans rfl | intro _
      | (extract_lets +onlyGivenNames x; refine Keeps.seq (m := m) (s0 := s0) x ?_ ?_; rotate_left; clear_value x; revert x; intro _ _; rotate_left; unfold x; clear x)
      | (extract_lets +onlyGivenNames x; refine Keeps.seq (m := m) (s0 := s0) x.1 ?_ ?_; rotate_left; clear_value x; revert x; intro _ _; rotate_left; unfold x; clear x)
      | (extract_lets +onlyGivenNames x; revert x; intro _) | with_reducible apply State.resolveLine_keeps
      | with_reducible apply State.sendSnoops_keeps | split | (clear_value *; split) | with_reducible refine Keeps.of_fst (by assumption) ?_

theorem State.homeEvc_keeps {m : Nat} {s0 s : State} (h : Keeps m s0 s) (hp : Sub 0x10000082 m) (a1 a2 a3) : Keeps m s0 (State.homeEvc s a1 a2 a3) := by
  unfold State.homeEvc
  repeat' first
    | with_reducible assumption | exact hp.trans rfl | intro _
    | (extract_lets +onlyGivenNames x; refine Keeps.seq (m := m) (s0 := s0) x ?_ ?_; rotate_left; clear_value x; revert x; intro _ _; rotate_left; unfold x; clear x)
    | (extract_lets +onlyGivenNames x; revert x; intro _) | with_reducible apply State.finishTxn_keeps
    | with_reducible apply State.putEntry_keeps | split | (clear_value *; split)

theorem State.barPage_keeps {m : Nat} {s0 s : State} (h : Keeps m s0 s) (hp : Sub 0x80 m) (a1 a2) : Keeps m s0 (State.barPage s a1 a2) := by
  unfold State.barPage
  repeat' first
    | with_reducible assumption | exact hp.trans rfl | intro _
    | (extract_lets +onlyGivenNames x; refine Keeps.seq (m := m) (s0 := s0) x ?_ ?_; rotate_left; clear_value x; revert x; intro _ _; rotate_left; unfold x; clear x)
    | (extract_lets +onlyGivenNames x; revert x; intro _) | with_reducible apply State.modSlice_keeps

theorem State.afterLookup_keeps {m : Nat} {s0 s : State} (h : Keeps m s0 s) (hp : Sub 0x18851496 m) (a1 a2 a3) : Keeps m s0 (State.afterLookup s a1 a2 a3) := by
  unfold State.afterLookup
  repeat' first
    | with_reducible assumption | exact hp.trans rfl | intro _
    | (extract_lets +onlyGivenNames x; refine Keeps.seq (m := m) (s0 := s0) x ?_ ?_; rotate_left; clear_value x; revert x; intro _ _; rotate_left; unfold x; clear x)
    | (extract_lets +onlyGivenNames x; revert x; intro _) | with_reducible apply State.homeWbk_keeps
    | with_reducible apply State.homeEvc_keeps | with_reducible apply State.sendSnoops_keeps | with_reducible apply State.startTable_keeps
    | with_reducible apply State.barPage_keeps | with_reducible apply State.setTxn_keeps | split | (clear_value *; split)

theorem State.startHome_keeps {m : Nat} {s0 s : State} (h : Keeps m s0 s) (hp : Sub 0x18851496 m) (a1 a2 a3) : Keeps m s0 (State.startHome s a1 a2 a3) := by
  unfold State.startHome
  repeat' first
    | with_reducible assumption | exact hp.trans rfl | intro _
    | (extract_lets +onlyGivenNames x; refine Keeps.seq (m := m) (s0 := s0) x ?_ ?_; rotate_left; clear_value x; revert x; intro _ _; rotate_left; unfold x; clear x)
    | (extract_lets +onlyGivenNames x; refine Keeps.seq (m := m) (s0 := s0) x.1 ?_ ?_; rotate_left; clear_value x; revert x; intro _ _; rotate_left; unfold x; clear x)
    | (extract_lets +onlyGivenNames x; revert x; intro _) | with_reducible apply State.finishTxn_keeps
    | with_reducible apply State.measure_keeps | with_reducible apply State.resolveLines_keeps
    | with_reducible apply State.afterLookup_keeps | with_reducible apply State.setTxn_keeps | split | (clear_value *; split)
    | with_reducible refine Keeps.of_fst (by assumption) ?_

theorem State.spiDone_keeps {m : Nat} {s0 s : State} (h : Keeps m s0 s) (hp : Sub 0x18851496 m) (a1 a2 a3) : Keeps m s0 (State.spiDone s a1 a2 a3) := by
  unfold State.spiDone
  repeat' first
    | with_reducible assumption | exact hp.trans rfl | intro _
    | (extract_lets +onlyGivenNames x; refine Keeps.seq (m := m) (s0 := s0) x ?_ ?_; rotate_left; clear_value x; revert x; intro _ _; rotate_left; unfold x; clear x)
    | (extract_lets +onlyGivenNames x; revert x; intro _) | with_reducible apply State.barPage_keeps
    | with_reducible apply State.delTxn_keeps | with_reducible apply State.startTable_keeps | split | (clear_value *; split)

theorem State.recallEnd_keeps {m : Nat} {s0 s : State} (h : Keeps m s0 s) (hp : Sub 0x8810496 m) (a1 a2 a3) : Keeps m s0 (State.recallEnd s a1 a2 a3) := by
  unfold State.recallEnd
  repeat' first
    | with_reducible assumption | exact hp.trans rfl | intro _
    | (extract_lets +onlyGivenNames x; refine Keeps.seq (m := m) (s0 := s0) x ?_ ?_; rotate_left; clear_value x; revert x; intro _ _; rotate_left; unfold x; clear x)
    | (extract_lets +onlyGivenNames x; revert x; intro _) | with_reducible apply State.delTxn_keeps
    | with_reducible apply State.putEntry_keeps | with_reducible apply State.waitFrame_keeps | with_reducible apply State.setTxn_keeps
    | with_reducible apply State.homeWriteLine_keeps | with_reducible apply KeepsO.some_ | with_reducible apply KeepsO.none_
    | with_reducible apply KeepsO.getD | with_reducible refine KeepsO.get (by assumption) ?_ | split | (clear_value *; split)

theorem State.fetchEnd_keeps {m : Nat} {s0 s : State} (h : Keeps m s0 s) (hp : Sub 0x8810496 m) (a1 a2 a3) : Keeps m s0 (State.fetchEnd s a1 a2 a3) := by
  unfold State.fetchEnd
  repeat' first
    | with_reducible assumption | exact hp.trans rfl | intro _
    | (extract_lets +onlyGivenNames x; refine Keeps.seq (m := m) (s0 := s0) x ?_ ?_; rotate_left; clear_value x; revert x; intro _ _; rotate_left; unfold x; clear x)
    | (extract_lets +onlyGivenNames x; revert x; intro _) | with_reducible apply State.delTxn_keeps
    | with_reducible apply State.putEntry_keeps | with_reducible apply State.waitFrame_keeps | with_reducible apply State.setTxn_keeps
    | with_reducible apply State.homeWriteLine_keeps | with_reducible apply KeepsO.some_ | with_reducible apply KeepsO.none_
    | with_reducible apply KeepsO.getD | with_reducible refine KeepsO.get (by assumption) ?_ | split | (clear_value *; split)

theorem State.startRecall_keeps {m : Nat} {s0 s : State} (h : Keeps m s0 s) (hp : Sub 0x10041082 m) (a1 a2) : Keeps m s0 (State.startRecall s a1 a2) := by
  unfold State.startRecall
  repeat' first
    | with_reducible assumption | exact hp.trans rfl | intro _
    | (extract_lets +onlyGivenNames x; refine Keeps.seq (m := m) (s0 := s0) x ?_ ?_; rotate_left; clear_value x; revert x; intro _ _; rotate_left; unfold x; clear x)
    | (extract_lets +onlyGivenNames x; revert x; intro _) | with_reducible apply State.sendSnoops_keeps
    | with_reducible apply State.putEntry_keeps | with_reducible apply State.addTxn_keeps | split | (clear_value *; split)

theorem State.startSpi_keeps {m : Nat} {s0 s : State} (h : Keeps m s0 s) (hp : Sub 0x10041082 m) (a1 a2) : Keeps m s0 (State.startSpi s a1 a2) := by
  unfold State.startSpi
  repeat' first
    | with_reducible assumption | exact hp.trans rfl | intro _
    | (extract_lets +onlyGivenNames x; refine Keeps.seq (m := m) (s0 := s0) x ?_ ?_; rotate_left; clear_value x; revert x; intro _ _; rotate_left; unfold x; clear x)
    | (extract_lets +onlyGivenNames x; revert x; intro _) | with_reducible apply State.barPage_keeps
    | with_reducible apply State.addTxn_keeps | with_reducible apply State.sendSnoops_keeps | split | (clear_value *; split)

theorem State.sendGiveUp_keeps {m : Nat} {s0 s : State} (h : Keeps m s0 s) (hp : Sub 0x10800080 m) (a1 a2 a3) : Keeps m s0 (State.sendGiveUp s a1 a2 a3) := by
  unfold State.sendGiveUp
  repeat' first
    | with_reducible assumption | exact hp.trans rfl | intro _
    | (extract_lets +onlyGivenNames x; refine Keeps.seq (m := m) (s0 := s0) x ?_ ?_; rotate_left; clear_value x; revert x; intro _ _; rotate_left; unfold x; clear x)
    | (extract_lets +onlyGivenNames x; revert x; intro _) | with_reducible apply State.setTxn_keeps | with_reducible apply State.issue_keeps
    | split | (clear_value *; split)

theorem State.giveUpEnd_keeps {m : Nat} {s0 s : State} (h : Keeps m s0 s) (hp : Sub 0x10800082 m) (a1 a2 a3) : Keeps m s0 (State.giveUpEnd s a1 a2 a3) := by
  unfold State.giveUpEnd
  repeat' first
    | with_reducible assumption | exact hp.trans rfl | intro _
    | (extract_lets +onlyGivenNames x; refine Keeps.seq (m := m) (s0 := s0) x ?_ ?_; rotate_left; clear_value x; revert x; intro _ _; rotate_left; unfold x; clear x)
    | (extract_lets +onlyGivenNames x; revert x; intro _) | with_reducible apply State.sendGiveUp_keeps
    | with_reducible apply State.count_keeps | with_reducible apply State.putEntry_keeps | with_reducible apply State.delTxn_keeps | split
    | (clear_value *; split)

theorem State.startGiveUp_keeps {m : Nat} {s0 s : State} (h : Keeps m s0 s) (hp : Sub 0x10841082 m) (a1 a2 a3 a4 a5 a6) : Keeps m s0 (State.startGiveUp s a1 a2 a3 a4 a5 a6) := by
  unfold State.startGiveUp
  repeat' first
    | with_reducible assumption | exact hp.trans rfl | intro _
    | (extract_lets +onlyGivenNames x; refine Keeps.seq (m := m) (s0 := s0) x ?_ ?_; rotate_left; clear_value x; revert x; intro _ _; rotate_left; unfold x; clear x)
    | (extract_lets +onlyGivenNames x; revert x; intro _) | with_reducible apply State.addTxn_keeps
    | with_reducible apply State.sendSnoops_keeps | with_reducible apply State.giveUpEnd_keeps | split | (clear_value *; split)

theorem State.backInvalidate_keeps {m : Nat} {s0 s : State} (h : Keeps m s0 s) (hp : Sub 0x10841082 m) (a1 a2) : Keeps m s0 (State.backInvalidate s a1 a2) := by
  unfold State.backInvalidate
  repeat' first
    | with_reducible assumption | exact hp.trans rfl | intro _
    | (extract_lets +onlyGivenNames x; refine Keeps.seq (m := m) (s0 := s0) x ?_ ?_; rotate_left; clear_value x; revert x; intro _ _; rotate_left; unfold x; clear x)
    | (extract_lets +onlyGivenNames x; revert x; intro _) | with_reducible apply State.count_keeps
    | with_reducible apply State.startRecall_keeps | with_reducible apply State.startGiveUp_keeps | split | (clear_value *; split)

theorem State.brokenRequest_keeps {m : Nat} {s0 s : State} (h : Keeps m s0 s) (hp : Sub 0x1000000a m) (a1) : Keeps m s0 (State.brokenRequest s a1) := by
  unfold State.brokenRequest
  repeat' first
    | with_reducible assumption | exact hp.trans rfl | intro _
    | (extract_lets +onlyGivenNames x; refine Keeps.seq (m := m) (s0 := s0) x ?_ ?_; rotate_left; clear_value x; revert x; intro _ _; rotate_left; unfold x; clear x)
    | (extract_lets +onlyGivenNames x; revert x; intro _) | with_reducible apply State.took_keeps
    | with_reducible apply State.complete_keeps | with_reducible refine Keeps.free (by assumption) (Sub.bit 3 rfl hp)

theorem State.openTxn_keeps {m : Nat} {s0 s : State} (h : Keeps m s0 s) (hp : Sub 0x18851496 m) (a1 a2) : Keeps m s0 (State.openTxn s a1 a2) := by
  unfold State.openTxn
  repeat' first
    | with_reducible assumption | exact hp.trans rfl | intro _
    | (extract_lets +onlyGivenNames x; refine Keeps.seq (m := m) (s0 := s0) x ?_ ?_; rotate_left; clear_value x; revert x; intro _ _; rotate_left; unfold x; clear x)
    | (extract_lets +onlyGivenNames x; revert x; intro _) | with_reducible apply State.addTxn_keeps | with_reducible apply State.count_keeps
    | with_reducible apply State.startHome_keeps | split | (clear_value *; split)

theorem State.serveRpq_keeps {m : Nat} {s0 s : State} (h : Keeps m s0 s) (hp : Sub 0x18851496 m) (a1 a2 a3 a4) : Keeps m s0 (State.serveRpq s a1 a2 a3 a4) := by
  unfold State.serveRpq
  repeat' first
    | with_reducible assumption | exact hp.trans rfl | intro _
    | (extract_lets +onlyGivenNames x; refine Keeps.seq (m := m) (s0 := s0) x ?_ ?_; rotate_left; clear_value x; revert x; intro _ _; rotate_left; unfold x; clear x)
    | (extract_lets +onlyGivenNames x; revert x; intro _) | with_reducible apply State.lookup_keeps
    | with_reducible apply State.queueConflict_keeps | with_reducible apply State.complete_keeps
    | with_reducible apply State.backInvalidate_keeps | with_reducible apply State.openTxn_keeps | split | (clear_value *; split)

theorem State.serveCoherent_keeps {m : Nat} {s0 s : State} (h : Keeps m s0 s) (hp : Sub 0x1885149e m) (a1 a2 a3 a4) : Keeps m s0 (State.serveCoherent s a1 a2 a3 a4) := by
  unfold State.serveCoherent
  repeat' first
    | with_reducible assumption | exact hp.trans rfl | intro _
    | (extract_lets +onlyGivenNames x; refine Keeps.seq (m := m) (s0 := s0) x ?_ ?_; rotate_left; clear_value x; revert x; intro _ _; rotate_left; unfold x; clear x)
    | (extract_lets +onlyGivenNames x; revert x; intro _) | with_reducible apply State.count_keeps | with_reducible apply State.lookup_keeps
    | with_reducible apply State.serveRpq_keeps | with_reducible apply State.queueConflict_keeps
    | with_reducible apply State.brokenRequest_keeps | with_reducible apply State.backInvalidate_keeps
    | with_reducible apply State.openTxn_keeps | split | (clear_value *; split)

theorem State.servePlain_keeps {m : Nat} {s0 s : State} (h : Keeps m s0 s) (hp : Sub 0x18810416 m) (a1 a2 a3) : Keeps m s0 (State.servePlain s a1 a2 a3) := by
  unfold State.servePlain
  repeat' first
    | with_reducible assumption | exact hp.trans rfl | intro _
    | (extract_lets +onlyGivenNames x; refine Keeps.seq (m := m) (s0 := s0) x ?_ ?_; rotate_left; clear_value x; revert x; intro _ _; rotate_left; unfold x; clear x)
    | (extract_lets +onlyGivenNames x; refine Keeps.seq (m := m) (s0 := s0) x.1 ?_ ?_; rotate_left; clear_value x; revert x; intro _ _; rotate_left; unfold x; clear x)
    | (extract_lets +onlyGivenNames x; revert x; intro _) | with_reducible apply State.complete_keeps
    | with_reducible apply State.verify_keeps | with_reducible apply State.atomicAt_keeps | with_reducible apply State.storeLines_keeps
    | split | (clear_value *; split) | with_reducible refine Keeps.of_fst (by assumption) ?_

theorem State.memServe_keeps {m : Nat} {s0 s : State} (h : Keeps m s0 s) (hp : Sub 0x1885149e m) (a1 a2 a3) : Keeps m s0 (State.memServe s a1 a2 a3) := by
  unfold State.memServe
  repeat' first
    | with_reducible assumption | exact hp.trans rfl | intro _
    | (extract_lets +onlyGivenNames x; refine Keeps.seq (m := m) (s0 := s0) x ?_ ?_; rotate_left; clear_value x; revert x; intro _ _; rotate_left; unfold x; clear x)
    | (extract_lets +onlyGivenNames x; revert x; intro _) | with_reducible apply State.complete_keeps
    | with_reducible apply State.count_keeps | with_reducible apply State.modSlice_keeps | with_reducible apply State.holdStore_keeps
    | with_reducible apply State.cacheLookup_keeps | with_reducible apply State.serveCoherent_keeps
    | with_reducible apply State.servePlain_keeps | with_reducible apply KeepsC.hit | with_reducible apply KeepsC.waits
    | with_reducible apply KeepsC.quota | with_reducible refine KeepsC.ofHit (by assumption) ?_
    | with_reducible refine KeepsC.ofWaits (by assumption) ?_ | with_reducible refine KeepsC.ofQuota (by assumption) ?_ | split
    | (clear_value *; split)

theorem State.memRequest_keeps {m : Nat} {s0 s : State} (h : Keeps m s0 s) (hp : Sub 0x1885149e m) (a1) : Keeps m s0 (State.memRequest s a1) := by
  unfold State.memRequest
  repeat' first
    | with_reducible assumption | exact hp.trans rfl | intro _
    | (extract_lets +onlyGivenNames x; refine Keeps.seq (m := m) (s0 := s0) x ?_ ?_; rotate_left; clear_value x; revert x; intro _ _; rotate_left; unfold x; clear x)
    | (extract_lets +onlyGivenNames x; revert x; intro _) | with_reducible apply State.tick_keeps
    | with_reducible apply State.memServe_keeps | with_reducible apply State.count_keeps | with_reducible apply State.countRevoked_keeps
    | with_reducible apply State.complete_keeps | split | (clear_value *; split)

end Sys2Proof.Machine
end

