-- ==== Sys2Proof/Laws/KeepsProxy.lean ====
section
/-!
SUPPORT. The operations of Machine/Proxy.lean leave the queue of waiting commands alone and keep the canonical form.
-/
namespace Sys2Proof.Machine

set_option linter.all false

theorem State.toHome_keeps {m : Nat} {s0 s : State} (h : Keeps m s0 s) (hp : Sub 0x10800080 m) (a1 a2 a3 a4 a5) : Keeps m s0 (State.toHome s a1 a2 a3 a4 a5) := by
  unfold State.toHome
  repeat' first
    | with_reducible assumption | exact hp.trans rfl | intro _
    | (extract_lets +onlyGivenNames x; refine Keeps.seq (m := m) (s0 := s0) x ?_ ?_; rotate_left; clear_value x; revert x; intro _ _; rotate_left; unfold x; clear x)
    | (extract_lets +onlyGivenNames x; revert x; intro _) | with_reducible apply State.setTxn_keeps | with_reducible apply State.issue_keeps
    | split | (clear_value *; split)

theorem State.proxyDone_keeps {m : Nat} {s0 s : State} (h : Keeps m s0 s) (hp : Sub 0x10000082 m) (a1 a2 a3 a4 a5 a6 a7) : Keeps m s0 (State.proxyDone s a1 a2 a3 a4 a5 a6 a7) := by
  unfold State.proxyDone
  repeat' first
    | with_reducible assumption | exact hp.trans rfl | intro _
    | (extract_lets +onlyGivenNames x; refine Keeps.seq (m := m) (s0 := s0) x ?_ ?_; rotate_left; clear_value x; revert x; intro _ _; rotate_left; unfold x; clear x)
    | (extract_lets +onlyGivenNames x; revert x; intro _) | with_reducible apply State.delTxn_keeps
    | with_reducible apply State.complete_keeps | split | (clear_value *; split)

theorem State.takeM_keeps {m : Nat} {s0 s : State} (h : Keeps m s0 s) (hp : Sub 0x80 m) (a1 a2) : Keeps m s0 (State.takeM s a1 a2) := by
  unfold State.takeM
  repeat' first
    | with_reducible assumption | exact hp.trans rfl | intro _
    | (extract_lets +onlyGivenNames x; refine Keeps.seq (m := m) (s0 := s0) x ?_ ?_; rotate_left; clear_value x; revert x; intro _ _; rotate_left; unfold x; clear x)
    | (extract_lets +onlyGivenNames x; revert x; intro _) | with_reducible apply State.putEntry_keeps | split | (clear_value *; split)

theorem State.loseLocal_keeps {m : Nat} {s0 s : State} (h : Keeps m s0 s) (hp : Sub 0x10841082 m) (a1 a2 a3) : Keeps m s0 (State.loseLocal s a1 a2 a3) := by
  unfold State.loseLocal
  repeat' first
    | with_reducible assumption | exact hp.trans rfl | intro _
    | (extract_lets +onlyGivenNames x; refine Keeps.seq (m := m) (s0 := s0) x ?_ ?_; rotate_left; clear_value x; revert x; intro _ _; rotate_left; unfold x; clear x)
    | (extract_lets +onlyGivenNames x; revert x; intro _) | with_reducible apply State.sendSnoops_keeps
    | with_reducible apply State.giveUpEnd_keeps | with_reducible apply State.setTxn_keeps | split | (clear_value *; split)

theorem State.proxyEnd_keeps {m : Nat} {s0 s : State} (h : Keeps m s0 s) (hp : Sub 0x10841082 m) (a1 a2 a3) : Keeps m s0 (State.proxyEnd s a1 a2 a3) := by
  unfold State.proxyEnd
  repeat' first
    | with_reducible assumption | exact hp.trans rfl | intro _
    | (extract_lets +onlyGivenNames x; refine Keeps.seq (m := m) (s0 := s0) x ?_ ?_; rotate_left; clear_value x; revert x; intro _ _; rotate_left; unfold x; clear x)
    | (extract_lets +onlyGivenNames x; revert x; intro _) | with_reducible apply State.proxyDone_keeps
    | with_reducible apply State.takeM_keeps | with_reducible apply State.toHome_keeps | with_reducible apply State.putEntry_keeps
    | with_reducible apply State.loseLocal_keeps | with_reducible apply State.giveUpEnd_keeps | split | (clear_value *; split)

theorem State.proxySnoops_keeps {m : Nat} {s0 s : State} (h : Keeps m s0 s) (hp : Sub 0x10841082 m) (a1 a2 a3 a4) : Keeps m s0 (State.proxySnoops s a1 a2 a3 a4) := by
  unfold State.proxySnoops
  repeat' first
    | with_reducible assumption | exact hp.trans rfl | intro _
    | (extract_lets +onlyGivenNames x; refine Keeps.seq (m := m) (s0 := s0) x ?_ ?_; rotate_left; clear_value x; revert x; intro _ _; rotate_left; unfold x; clear x)
    | (extract_lets +onlyGivenNames x; revert x; intro _) | with_reducible apply State.sendSnoops_keeps
    | with_reducible apply State.proxyEnd_keeps | with_reducible apply State.setTxn_keeps | split | (clear_value *; split)

theorem State.fromReplica_keeps {m : Nat} {s0 s : State} (h : Keeps m s0 s) (hp : Sub 0x10000082 m) (a1 a2 a3 a4 a5) : Keeps m s0 (State.fromReplica s a1 a2 a3 a4 a5) := by
  unfold State.fromReplica
  repeat' first
    | with_reducible assumption | exact hp.trans rfl | intro _
    | (extract_lets +onlyGivenNames x; refine Keeps.seq (m := m) (s0 := s0) x ?_ ?_; rotate_left; clear_value x; revert x; intro _ _; rotate_left; unfold x; clear x)
    | (extract_lets +onlyGivenNames x; revert x; intro _) | with_reducible apply State.modSlice_keeps
    | with_reducible apply State.putEntry_keeps | with_reducible apply State.proxyDone_keeps | split | (clear_value *; split)

theorem State.startProxy_keeps {m : Nat} {s0 s : State} (h : Keeps m s0 s) (hp : Sub 0x10841082 m) (a1 a2 a3) : Keeps m s0 (State.startProxy s a1 a2 a3) := by
  unfold State.startProxy
  repeat' first
    | with_reducible assumption | exact hp.trans rfl | intro _
    | (extract_lets +onlyGivenNames x; refine Keeps.seq (m := m) (s0 := s0) x ?_ ?_; rotate_left; clear_value x; revert x; intro _ _; rotate_left; unfold x; clear x)
    | (extract_lets +onlyGivenNames x; revert x; intro _) | with_reducible apply State.proxyDone_keeps
    | with_reducible apply State.loseLocal_keeps | with_reducible apply State.putEntry_keeps | with_reducible apply State.proxySnoops_keeps
    | with_reducible apply State.toHome_keeps | with_reducible apply State.fromReplica_keeps | with_reducible apply Keeps.foldl
    | with_reducible apply Keeps.foldl_fst | split | (clear_value *; split)

theorem State.proxyServe_keeps {m : Nat} {s0 s : State} (h : Keeps m s0 s) (hp : Sub 0x1084108a m) (a1 a2) : Keeps m s0 (State.proxyServe s a1 a2) := by
  unfold State.proxyServe
  repeat' first
    | with_reducible assumption | exact hp.trans rfl | intro _
    | (extract_lets +onlyGivenNames x; refine Keeps.seq (m := m) (s0 := s0) x ?_ ?_; rotate_left; clear_value x; revert x; intro _ _; rotate_left; unfold x; clear x)
    | (extract_lets +onlyGivenNames x; revert x; intro _) | with_reducible apply State.lookup_keeps
    | with_reducible apply State.queueConflict_keeps | with_reducible apply State.brokenRequest_keeps
    | with_reducible apply State.backInvalidate_keeps | with_reducible apply State.addTxn_keeps | with_reducible apply State.count_keeps
    | with_reducible apply State.startProxy_keeps | split | (clear_value *; split)

theorem State.proxyRequest_keeps {m : Nat} {s0 s : State} (h : Keeps m s0 s) (hp : Sub 0x1084108e m) (a1) : Keeps m s0 (State.proxyRequest s a1) := by
  unfold State.proxyRequest
  repeat' first
    | with_reducible assumption | exact hp.trans rfl | intro _
    | (extract_lets +onlyGivenNames x; refine Keeps.seq (m := m) (s0 := s0) x ?_ ?_; rotate_left; clear_value x; revert x; intro _ _; rotate_left; unfold x; clear x)
    | (extract_lets +onlyGivenNames x; revert x; intro _) | with_reducible apply State.tick_keeps
    | with_reducible apply State.proxyServe_keeps | with_reducible apply State.complete_keeps | split | (clear_value *; split)

theorem State.takeOffer_keeps {m : Nat} {s0 s : State} (h : Keeps m s0 s) (hp : Sub 0x10800080 m) (a1 a2) : Keeps m s0 (State.takeOffer s a1 a2) := by
  unfold State.takeOffer
  repeat' first
    | with_reducible assumption | exact hp.trans rfl | intro _
    | (extract_lets +onlyGivenNames x; refine Keeps.seq (m := m) (s0 := s0) x ?_ ?_; rotate_left; clear_value x; revert x; intro _ _; rotate_left; unfold x; clear x)
    | (extract_lets +onlyGivenNames x; revert x; intro _) | with_reducible apply State.issue_keeps
    | with_reducible apply State.modSlice_keeps | split | (clear_value *; split)

theorem State.pageArrives_keeps {m : Nat} {s0 s : State} (h : Keeps m s0 s) (hp : Sub 0x92 m) (a1 a2 a3) : Keeps m s0 (State.pageArrives s a1 a2 a3) := by
  unfold State.pageArrives
  repeat' first
    | with_reducible assumption | exact hp.trans rfl | intro _
    | (extract_lets +onlyGivenNames x; refine Keeps.seq (m := m) (s0 := s0) x ?_ ?_; rotate_left; clear_value x; revert x; intro _ _; rotate_left; unfold x; clear x)
    | (extract_lets +onlyGivenNames x; revert x; intro _) | with_reducible apply State.modSlice_keeps
    | with_reducible apply State.count_keeps | with_reducible apply State.writeMem_keeps | split | (clear_value *; split)

theorem State.poisonWaiters_keeps {m : Nat} {s0 s : State} (h : Keeps m s0 s) (hp : Sub 0x10000082 m) (a1 a2) : Keeps m s0 (State.poisonWaiters s a1 a2) := by
  unfold State.poisonWaiters
  repeat' first
    | with_reducible assumption | exact hp.trans rfl | intro _
    | (extract_lets +onlyGivenNames x; refine Keeps.seq (m := m) (s0 := s0) x ?_ ?_; rotate_left; clear_value x; revert x; intro _ _; rotate_left; unfold x; clear x)
    | (extract_lets +onlyGivenNames x; revert x; intro _) | with_reducible apply State.modSlice_keeps
    | with_reducible apply State.complete_keeps | with_reducible apply Keeps.foldl | with_reducible apply Keeps.foldl_fst

theorem State.proxyCmp_keeps {m : Nat} {s0 s : State} (h : Keeps m s0 s) (hp : Sub 0x10841082 m) (a1 a2 a3 a4) : Keeps m s0 (State.proxyCmp s a1 a2 a3 a4) := by
  unfold State.proxyCmp
  repeat' first
    | with_reducible assumption | exact hp.trans rfl | intro _
    | (extract_lets +onlyGivenNames x; refine Keeps.seq (m := m) (s0 := s0) x ?_ ?_; rotate_left; clear_value x; revert x; intro _ _; rotate_left; unfold x; clear x)
    | (extract_lets +onlyGivenNames x; revert x; intro _) | with_reducible apply State.delTxn_keeps
    | with_reducible apply State.putEntry_keeps | with_reducible apply State.poisonWaiters_keeps | with_reducible apply State.complete_keeps
    | with_reducible apply State.proxyDone_keeps | with_reducible apply State.takeOffer_keeps | with_reducible apply State.takeM_keeps
    | with_reducible apply State.proxySnoops_keeps | with_reducible apply State.toHome_keeps | split | (clear_value *; split)

theorem State.answerHome_keeps {m : Nat} {s0 s : State} (h : Keeps m s0 s) (hp : Sub 0x10000000 m) (a1 a2 a3) : Keeps m s0 (State.answerHome s a1 a2 a3) := by
  unfold State.answerHome
  repeat' first | with_reducible assumption | exact hp.trans rfl | with_reducible apply State.send_keeps

theorem State.snoopEnd_keeps {m : Nat} {s0 s : State} (h : Keeps m s0 s) (hp : Sub 0x10000080 m) (a1 a2 a3) : Keeps m s0 (State.snoopEnd s a1 a2 a3) := by
  unfold State.snoopEnd
  repeat' first
    | with_reducible assumption | exact hp.trans rfl | intro _
    | (extract_lets +onlyGivenNames x; refine Keeps.seq (m := m) (s0 := s0) x ?_ ?_; rotate_left; clear_value x; revert x; intro _ _; rotate_left; unfold x; clear x)
    | (extract_lets +onlyGivenNames x; revert x; intro _) | with_reducible apply State.delTxn_keeps
    | with_reducible apply State.answerHome_keeps | with_reducible apply State.putEntry_keeps | split | (clear_value *; split)

theorem State.proxySnoop_keeps {m : Nat} {s0 s : State} (h : Keeps m s0 s) (hp : Sub 0x10041082 m) (a1) : Keeps m s0 (State.proxySnoop s a1) := by
  unfold State.proxySnoop
  repeat' first
    | with_reducible assumption | exact hp.trans rfl | intro _
    | (extract_lets +onlyGivenNames x; refine Keeps.seq (m := m) (s0 := s0) x ?_ ?_; rotate_left; clear_value x; revert x; intro _ _; rotate_left; unfold x; clear x)
    | (extract_lets +onlyGivenNames x; revert x; intro _) | with_reducible apply State.lookup_keeps
    | with_reducible apply State.modSlice_keeps | with_reducible apply State.answerHome_keeps | with_reducible apply State.addTxn_keeps
    | with_reducible apply State.sendSnoops_keeps | with_reducible apply State.snoopEnd_keeps | split | (clear_value *; split)

theorem State.proxySpi_keeps {m : Nat} {s0 s : State} (h : Keeps m s0 s) (hp : Sub 0x10041082 m) (a1) : Keeps m s0 (State.proxySpi s a1) := by
  unfold State.proxySpi
  repeat' first
    | with_reducible assumption | exact hp.trans rfl | intro _
    | (extract_lets +onlyGivenNames x; refine Keeps.seq (m := m) (s0 := s0) x ?_ ?_; rotate_left; clear_value x; revert x; intro _ _; rotate_left; unfold x; clear x)
    | (extract_lets +onlyGivenNames x; revert x; intro _) | with_reducible apply State.modSlice_keeps
    | with_reducible apply State.count_keeps | with_reducible apply State.putEntry_keeps | with_reducible apply State.sendSnoop_keeps
    | with_reducible apply State.snoopEnd_keeps | with_reducible apply State.addTxn_keeps | with_reducible apply Keeps.foldl
    | with_reducible apply Keeps.foldl_fst | split | (clear_value *; split)

end Sys2Proof.Machine
end

