-- ==== Sys2Proof/Laws/KeepsStakes.lean ====
section
/-!
SUPPORT. The operations of Machine/Stakes.lean leave the queue of waiting commands alone and keep the canonical form.
-/
namespace Sys2Proof.Machine

set_option linter.all false

theorem State.setStake_keeps {m : Nat} {s0 s : State} (h : Keeps m s0 s) (hp : Sub 0x100 m) (a1 a2) : Keeps m s0 (State.setStake s a1 a2) := by
  unfold State.setStake
  repeat' first
    | with_reducible assumption | intro _
    | (extract_lets +onlyGivenNames x; refine Keeps.seq (m := m) (s0 := s0) x ?_ ?_; rotate_left; clear_value x; revert x; intro _ _; rotate_left; unfold x; clear x)
    | (extract_lets +onlyGivenNames x; revert x; intro _) | with_reducible refine Keeps.stk (by assumption) (Sub.bit 8 rfl hp)

theorem State.stakeCmp_keeps {m : Nat} {s0 s : State} (h : Keeps m s0 s) (hp : Sub 0x10000002 m) (a1 a2 a3 a4 a5 a6) : Keeps m s0 (State.stakeCmp s a1 a2 a3 a4 a5 a6) := by
  unfold State.stakeCmp
  repeat' first
    | with_reducible assumption | exact hp.trans rfl | intro _
    | (extract_lets +onlyGivenNames x; refine Keeps.seq (m := m) (s0 := s0) x ?_ ?_; rotate_left; clear_value x; revert x; intro _ _; rotate_left; unfold x; clear x)
    | (extract_lets +onlyGivenNames x; revert x; intro _) | with_reducible apply State.countRevoked_keeps
    | with_reducible apply State.count_keeps | with_reducible apply State.completeRaw_keeps | split | (clear_value *; split)

theorem State.wake_keeps {m : Nat} {s0 s : State} (h : Keeps m s0 s) (hp : Sub 0x100 m) (a1 a2 a3) : Keeps m s0 (State.wake s a1 a2 a3) := by
  unfold State.wake
  repeat' first
    | with_reducible assumption | intro _
    | (extract_lets +onlyGivenNames x; refine Keeps.seq (m := m) (s0 := s0) x ?_ ?_; rotate_left; clear_value x; revert x; intro _ _; rotate_left; unfold x; clear x)
    | (extract_lets +onlyGivenNames x; revert x; intro _) | with_reducible refine Keeps.stk (by assumption) (Sub.bit 8 rfl hp)

theorem State.stakeRelease_keeps {m : Nat} {s0 s : State} (h : Keeps m s0 s) (hp : Sub 0x104 m) (a1 a2 a3 a4) : Keeps m s0 (State.stakeRelease s a1 a2 a3 a4) := by
  unfold State.stakeRelease
  repeat' first
    | with_reducible assumption | exact hp.trans rfl | intro _
    | (extract_lets +onlyGivenNames x; refine Keeps.seq (m := m) (s0 := s0) x ?_ ?_; rotate_left; clear_value x; revert x; intro _ _; rotate_left; unfold x; clear x)
    | (extract_lets +onlyGivenNames x; revert x; intro _) | with_reducible apply State.tick_keeps | with_reducible apply State.wake_keeps
    | with_reducible apply State.setStake_keeps

theorem State.srelLocal_keeps {m : Nat} {s0 s : State} (h : Keeps m s0 s) (hp : Sub 0x106 m) (a1 a2 a3 a4) : Keeps m s0 (State.srelLocal s a1 a2 a3 a4) := by
  unfold State.srelLocal
  repeat' first
    | with_reducible assumption | exact hp.trans rfl | with_reducible apply State.tick_keeps | with_reducible apply State.count_keeps
    | with_reducible apply State.stakeRelease_keeps | split

theorem State.releaseSet_keeps {m : Nat} {s0 s : State} (h : Keeps m s0 s) (hp : Sub 0x104 m) (a1 a2 a3) : Keeps m s0 (State.releaseSet s a1 a2 a3) := by
  unfold State.releaseSet
  repeat' first | with_reducible assumption | exact hp.trans rfl | with_reducible apply State.stakeRelease_keeps

theorem State.stakeSrel_keeps {m : Nat} {s0 s : State} (h : Keeps m s0 s) (hp : Sub 0x10000106 m) (a1) : Keeps m s0 (State.stakeSrel s a1) := by
  unfold State.stakeSrel
  repeat' first
    | with_reducible assumption | exact hp.trans rfl | intro _
    | (extract_lets +onlyGivenNames x; refine Keeps.seq (m := m) (s0 := s0) x ?_ ?_; rotate_left; clear_value x; revert x; intro _ _; rotate_left; unfold x; clear x)
    | (extract_lets +onlyGivenNames x; revert x; intro _) | with_reducible apply State.stakeCmp_keeps
    | with_reducible apply State.stakeRelease_keeps | with_reducible apply State.count_keeps | with_reducible apply State.tick_keeps | split
    | (clear_value *; split)

theorem execStakeSrel_keeps {m : Nat} {s0 s : State} (h : Keeps m s0 s) (hp : Sub 0x10000106 m) (a1) : Ends m s0 (execStakeSrel a1 s) := by
  unfold execStakeSrel
  repeat' first
    | with_reducible assumption | exact hp.trans rfl | with_reducible apply State.stakeSrel_keeps | with_reducible apply Ends.next

theorem State.stakeSacq_keeps {m : Nat} {s0 s : State} (h : Keeps m s0 s) (hp : Sub 0x10000106 m) (a1) : Keeps m s0 (State.stakeSacq s a1) := by
  unfold State.stakeSacq
  repeat' first
    | with_reducible assumption | exact hp.trans rfl | intro _
    | (extract_lets +onlyGivenNames x; refine Keeps.seq (m := m) (s0 := s0) x ?_ ?_; rotate_left; clear_value x; revert x; intro _ _; rotate_left; unfold x; clear x)
    | (extract_lets +onlyGivenNames x; revert x; intro _) | with_reducible apply State.stakeCmp_keeps
    | with_reducible apply State.tick_keeps | with_reducible apply State.count_keeps | split | (clear_value *; split)
    | with_reducible refine Keeps.stk (by assumption) (Sub.bit 8 rfl hp)

theorem execStakeSacq_keeps {m : Nat} {s0 s : State} (h : Keeps m s0 s) (hp : Sub 0x10000106 m) (a1) : Ends m s0 (execStakeSacq a1 s) := by
  unfold execStakeSacq
  repeat' first
    | with_reducible assumption | exact hp.trans rfl | with_reducible apply State.stakeSacq_keeps | with_reducible apply Ends.next

theorem State.stakeSet_keeps {m : Nat} {s0 s : State} (h : Keeps m s0 s) (hp : Sub 0x106 m) (a1 a2) : Keeps m s0 (State.stakeSet s a1 a2) := by
  unfold State.stakeSet
  repeat' first
    | with_reducible assumption | exact hp.trans rfl | intro _
    | (extract_lets +onlyGivenNames x; refine Keeps.seq (m := m) (s0 := s0) x ?_ ?_; rotate_left; clear_value x; revert x; intro _ _; rotate_left; unfold x; clear x)
    | (extract_lets +onlyGivenNames x; revert x; intro _) | with_reducible apply State.count_keeps | with_reducible apply State.tick_keeps
    | with_reducible apply State.wake_keeps | with_reducible apply State.setStake_keeps

theorem State.stakePlain_keeps {m : Nat} {s0 s : State} (h : Keeps m s0 s) (hp : Sub 0x10000002 m) (a1 a2 a3 a4) : Keeps m s0 (State.stakePlain s a1 a2 a3 a4) := by
  unfold State.stakePlain
  repeat' first
    | with_reducible assumption | exact hp.trans rfl | intro _
    | (extract_lets +onlyGivenNames x; refine Keeps.seq (m := m) (s0 := s0) x ?_ ?_; rotate_left; clear_value x; revert x; intro _ _; rotate_left; unfold x; clear x)
    | (extract_lets +onlyGivenNames x; revert x; intro _) | with_reducible apply State.countRevoked_keeps
    | with_reducible apply State.complete_keeps | split | (clear_value *; split)

theorem State.stakeSset_keeps {m : Nat} {s0 s : State} (h : Keeps m s0 s) (hp : Sub 0x10000106 m) (a1) : Keeps m s0 (State.stakeSset s a1) := by
  unfold State.stakeSset
  repeat' first
    | with_reducible assumption | exact hp.trans rfl | intro _
    | (extract_lets +onlyGivenNames x; refine Keeps.seq (m := m) (s0 := s0) x ?_ ?_; rotate_left; clear_value x; revert x; intro _ _; rotate_left; unfold x; clear x)
    | (extract_lets +onlyGivenNames x; revert x; intro _) | with_reducible apply State.stakeCmp_keeps
    | with_reducible apply State.stakeSet_keeps | with_reducible apply State.tick_keeps | with_reducible apply State.stakePlain_keeps
    | split | (clear_value *; split)

theorem execStakeSset_keeps {m : Nat} {s0 s : State} (h : Keeps m s0 s) (hp : Sub 0x10000106 m) (a1) : Ends m s0 (execStakeSset a1 s) := by
  unfold execStakeSset
  repeat' first
    | with_reducible assumption | exact hp.trans rfl | with_reducible apply State.stakeSset_keeps | with_reducible apply Ends.next

theorem State.stakeSread_keeps {m : Nat} {s0 s : State} (h : Keeps m s0 s) (hp : Sub 0x10000006 m) (a1) : Keeps m s0 (State.stakeSread s a1) := by
  unfold State.stakeSread
  repeat' first
    | with_reducible assumption | exact hp.trans rfl | intro _
    | (extract_lets +onlyGivenNames x; refine Keeps.seq (m := m) (s0 := s0) x ?_ ?_; rotate_left; clear_value x; revert x; intro _ _; rotate_left; unfold x; clear x)
    | (extract_lets +onlyGivenNames x; revert x; intro _) | with_reducible apply State.stakeCmp_keeps
    | with_reducible apply State.tick_keeps | with_reducible apply State.count_keeps | with_reducible apply State.stakePlain_keeps | split
    | (clear_value *; split)

theorem execStakeSread_keeps {m : Nat} {s0 s : State} (h : Keeps m s0 s) (hp : Sub 0x10000006 m) (a1) : Ends m s0 (execStakeSread a1 s) := by
  unfold execStakeSread
  repeat' first
    | with_reducible assumption | exact hp.trans rfl | with_reducible apply State.stakeSread_keeps | with_reducible apply Ends.next

theorem State.sacqWake_keeps {m : Nat} {s0 s : State} (h : Keeps m s0 s) (hp : Sub 0x10000102 m) (a1) : Keeps m s0 (State.sacqWake s a1) := by
  unfold State.sacqWake
  repeat' first
    | with_reducible assumption | exact hp.trans rfl | intro _
    | (extract_lets +onlyGivenNames x; refine Keeps.seq (m := m) (s0 := s0) x ?_ ?_; rotate_left; clear_value x; revert x; intro _ _; rotate_left; unfold x; clear x)
    | (extract_lets +onlyGivenNames x; revert x; intro _) | with_reducible apply State.stakeCmp_keeps | split | (clear_value *; split)
    | with_reducible refine Keeps.stk (by assumption) (Sub.bit 8 rfl hp)

theorem execSacqWake_keeps {m : Nat} {s0 s : State} (h : Keeps m s0 s) (hp : Sub 0x10000102 m) (a1) : Ends m s0 (execSacqWake a1 s) := by
  unfold execSacqWake
  repeat' first
    | with_reducible assumption | exact hp.trans rfl | with_reducible apply State.sacqWake_keeps | with_reducible apply Ends.next

theorem State.sacqExpiry_keeps {m : Nat} {s0 s : State} (h : Keeps m s0 s) (hp : Sub 0x10000106 m) (a1) : Keeps m s0 (State.sacqExpiry s a1) := by
  unfold State.sacqExpiry
  repeat' first
    | with_reducible assumption | exact hp.trans rfl | intro _
    | (extract_lets +onlyGivenNames x; refine Keeps.seq (m := m) (s0 := s0) x ?_ ?_; rotate_left; clear_value x; revert x; intro _ _; rotate_left; unfold x; clear x)
    | (extract_lets +onlyGivenNames x; revert x; intro _) | with_reducible apply State.tick_keeps
    | with_reducible apply State.stakeCmp_keeps | with_reducible apply State.count_keeps | split | (clear_value *; split)
    | with_reducible refine Keeps.stk (by assumption) (Sub.bit 8 rfl hp)

theorem execSacqExpiry_keeps {m : Nat} {s0 s : State} (h : Keeps m s0 s) (hp : Sub 0x10000106 m) (a1) : Ends m s0 (execSacqExpiry a1 s) := by
  unfold execSacqExpiry
  repeat' first
    | with_reducible assumption | exact hp.trans rfl | with_reducible apply State.sacqExpiry_keeps | with_reducible apply Ends.next

theorem State.stkProbe_keeps {m : Nat} {s0 s : State} (h : Keeps m s0 s) (hp : Sub 0x6 m) (a1) : Keeps m s0 (State.stkProbe s a1) := by
  unfold State.stkProbe
  repeat' first
    | with_reducible assumption | exact hp.trans rfl | intro _
    | (extract_lets +onlyGivenNames x; refine Keeps.seq (m := m) (s0 := s0) x ?_ ?_; rotate_left; clear_value x; revert x; intro _ _; rotate_left; unfold x; clear x)
    | (extract_lets +onlyGivenNames x; revert x; intro _) | with_reducible apply State.cfgDo_keeps | with_reducible apply State.setFld_keeps
    | with_reducible apply State.tick_keeps | with_reducible apply State.setBit_keeps | with_reducible apply State.setReg_keeps | split
    | (clear_value *; split)

theorem execStkProbe_keeps {m : Nat} {s0 s : State} (h : Keeps m s0 s) (hp : Sub 0x6 m) (a1) : Ends m s0 (execStkProbe a1 s) := by
  unfold execStkProbe
  repeat' first
    | with_reducible assumption | exact hp.trans rfl | with_reducible apply State.stkProbe_keeps | with_reducible apply Ends.next

theorem State.dropParked_keeps {m : Nat} {s0 s : State} (h : Keeps m s0 s) (hp : Sub 0x100 m) (a1) : Keeps m s0 (State.dropParked s a1) := by
  unfold State.dropParked
  repeat' first
    | with_reducible assumption | intro _
    | (extract_lets +onlyGivenNames x; refine Keeps.seq (m := m) (s0 := s0) x ?_ ?_; rotate_left; clear_value x; revert x; intro _ _; rotate_left; unfold x; clear x)
    | (extract_lets +onlyGivenNames x; revert x; intro _) | with_reducible refine Keeps.stk (by assumption) (Sub.bit 8 rfl hp)

theorem State.failParked_keeps {m : Nat} {s0 s : State} (h : Keeps m s0 s) (hp : Sub 0x10000102 m) (a1 a2) : Keeps m s0 (State.failParked s a1 a2) := by
  unfold State.failParked
  repeat' first
    | with_reducible assumption | exact hp.trans rfl | intro _
    | (extract_lets +onlyGivenNames x; refine Keeps.seq (m := m) (s0 := s0) x ?_ ?_; rotate_left; clear_value x; revert x; intro _ _; rotate_left; unfold x; clear x)
    | (extract_lets +onlyGivenNames x; revert x; intro _) | with_reducible apply State.stakeCmp_keeps | with_reducible apply Keeps.foldl
    | with_reducible apply Keeps.foldl_fst | with_reducible refine Keeps.stk (by assumption) (Sub.bit 8 rfl hp)

theorem State.resetStakes_keeps {m : Nat} {s0 s : State} (h : Keeps m s0 s) (hp : Sub 0x100 m) (a1) : Keeps m s0 (State.resetStakes s a1) := by
  unfold State.resetStakes
  repeat' first
    | with_reducible assumption | intro _
    | (extract_lets +onlyGivenNames x; refine Keeps.seq (m := m) (s0 := s0) x ?_ ?_; rotate_left; clear_value x; revert x; intro _ _; rotate_left; unfold x; clear x)
    | (extract_lets +onlyGivenNames x; revert x; intro _) | with_reducible refine Keeps.stk (by assumption) (Sub.bit 8 rfl hp)

theorem State.stakeEccError_keeps {m : Nat} {s0 s : State} (h : Keeps m s0 s) (hp : Sub 0x18c00106 m) (a1) : Keeps m s0 (State.stakeEccError s a1) := by
  unfold State.stakeEccError
  repeat' first
    | with_reducible assumption | exact hp.trans rfl | intro _
    | (extract_lets +onlyGivenNames x; refine Keeps.seq (m := m) (s0 := s0) x ?_ ?_; rotate_left; clear_value x; revert x; intro _ _; rotate_left; unfold x; clear x)
    | (extract_lets +onlyGivenNames x; revert x; intro _) | with_reducible apply State.tick_keeps
    | with_reducible apply State.failParked_keeps | with_reducible apply State.setStake_keeps | with_reducible apply State.fatalEvent_keeps
    | split | (clear_value *; split)

theorem execStakeEccError_keeps {m : Nat} {s0 s : State} (h : Keeps m s0 s) (hp : Sub 0x18c00106 m) (a1) : Ends m s0 (execStakeEccError a1 s) := by
  unfold execStakeEccError
  repeat' first
    | with_reducible assumption | exact hp.trans rfl | with_reducible apply State.stakeEccError_keeps | with_reducible apply Ends.next

end Sys2Proof.Machine
end

