-- ==== Sys2Proof/Laws/KeepsCadastre.lean ====
section
/-!
SUPPORT. The operations of Machine/Cadastre.lean leave the queue of waiting commands alone and keep the canonical form.
-/
namespace Sys2Proof.Machine

set_option linter.all false

theorem State.leaver_keeps {m : Nat} {s0 s : State} (h : Keeps m s0 s) (hp : Sub 0x2 m) (a1) : Keeps m s0 (State.leaver s a1) := by
  unfold State.leaver
  repeat' first | with_reducible assumption | exact hp.trans rfl | with_reducible apply State.bindAgent_keeps | split

theorem State.leavers_keeps {m : Nat} {s0 s : State} (h : Keeps m s0 s) (hp : Sub 0x2 m) : Keeps m s0 (State.leavers s) := by
  unfold State.leavers
  repeat' first
    | with_reducible assumption | exact hp.trans rfl | intro _ | with_reducible apply State.leaver_keeps | with_reducible apply Keeps.foldl
    | with_reducible apply Keeps.foldl_fst | split

theorem State.advance_keeps {m : Nat} {s0 s : State} (h : Keeps m s0 s) (hp : Sub 0x18851496 m) (a1 a2) : Keeps m s0 (State.advance s a1 a2) := by
  unfold State.advance
  repeat' first
    | with_reducible assumption | exact hp.trans rfl | with_reducible apply State.afterLookup_keeps
    | with_reducible apply State.spiDone_keeps | with_reducible apply State.finishTxn_keeps | with_reducible apply State.homeEnd_keeps
    | with_reducible apply State.proxyEnd_keeps | with_reducible apply State.snoopEnd_keeps | with_reducible apply State.leavers_keeps
    | with_reducible apply State.recallEnd_keeps | with_reducible apply State.fetchEnd_keeps | with_reducible apply State.giveUpEnd_keeps
    | split

theorem State.holderAnswers_keeps {m : Nat} {s0 s : State} (h : Keeps m s0 s) (hp : Sub 0x18851496 m) (a1 a2 a3 a4 a5) : Keeps m s0 (State.holderAnswers s a1 a2 a3 a4 a5) := by
  unfold State.holderAnswers
  repeat' first
    | with_reducible assumption | exact hp.trans rfl | intro _
    | (extract_lets +onlyGivenNames x; refine Keeps.seq (m := m) (s0 := s0) x ?_ ?_; rotate_left; clear_value x; revert x; intro _ _; rotate_left; unfold x; clear x)
    | (extract_lets +onlyGivenNames x; revert x; intro _) | with_reducible apply State.putEntry_keeps
    | with_reducible apply State.sendSnoops_keeps | with_reducible apply State.writePoisoned_keeps
    | with_reducible apply State.advance_keeps | with_reducible apply State.setTxn_keeps | split | (clear_value *; split)

theorem State.snoopReply_keeps {m : Nat} {s0 s : State} (h : Keeps m s0 s) (hp : Sub 0x18851496 m) (a1 a2 a3) : Keeps m s0 (State.snoopReply s a1 a2 a3) := by
  unfold State.snoopReply
  repeat' first
    | with_reducible assumption | exact hp.trans rfl | intro _
    | (extract_lets +onlyGivenNames x; refine Keeps.seq (m := m) (s0 := s0) x ?_ ?_; rotate_left; clear_value x; revert x; intro _ _; rotate_left; unfold x; clear x)
    | (extract_lets +onlyGivenNames x; revert x; intro _) | with_reducible apply State.tick_keeps
    | with_reducible apply State.holderAnswers_keeps | split | (clear_value *; split)

theorem State.loseEntry_keeps {m : Nat} {s0 s : State} (h : Keeps m s0 s) (hp : Sub 0x18841096 m) (a1 a2) : Keeps m s0 (State.loseEntry s a1 a2) := by
  unfold State.loseEntry
  repeat' first
    | with_reducible assumption | exact hp.trans rfl | intro _
    | (extract_lets +onlyGivenNames x; refine Keeps.seq (m := m) (s0 := s0) x ?_ ?_; rotate_left; clear_value x; revert x; intro _ _; rotate_left; unfold x; clear x)
    | (extract_lets +onlyGivenNames x; revert x; intro _) | with_reducible apply State.writePoisoned_keeps
    | with_reducible apply State.setTxn_keeps | with_reducible apply State.sendSnoops_keeps | with_reducible apply State.putEntry_keeps
    | with_reducible apply State.addTxn_keeps | split | (clear_value *; split)

theorem State.fatalLines_keeps {m : Nat} {s0 s : State} (h : Keeps m s0 s) (hp : Sub 0x8c00022 m) (a1 a2 a3) : Keeps m s0 (State.fatalLines s a1 a2 a3) := by
  unfold State.fatalLines
  repeat' first
    | with_reducible assumption | exact hp.trans rfl | intro _
    | (extract_lets +onlyGivenNames x; refine Keeps.seq (m := m) (s0 := s0) x ?_ ?_; rotate_left; clear_value x; revert x; intro _ _; rotate_left; unfold x; clear x)
    | (extract_lets +onlyGivenNames x; revert x; intro _) | with_reducible apply State.fatalEvent_keeps
    | with_reducible apply State.setExt_keeps | with_reducible apply Keeps.foldl | with_reducible apply Keeps.foldl_fst

theorem State.fatalRegion_keeps {m : Nat} {s0 s : State} (h : Keeps m s0 s) (hp : Sub 0x8c00032 m) (a1 a2) : Keeps m s0 (State.fatalRegion s a1 a2) := by
  unfold State.fatalRegion
  repeat' first
    | with_reducible assumption | exact hp.trans rfl | intro _
    | (extract_lets +onlyGivenNames x; refine Keeps.seq (m := m) (s0 := s0) x ?_ ?_; rotate_left; clear_value x; revert x; intro _ _; rotate_left; unfold x; clear x)
    | (extract_lets +onlyGivenNames x; revert x; intro _) | with_reducible apply State.fatalEvent_keeps
    | with_reducible apply State.onMem_keeps | with_reducible apply State.setExt_keeps | split | (clear_value *; split)

theorem State.loseLines_keeps {m : Nat} {s0 s : State} (h : Keeps m s0 s) (hp : Sub 0x18841096 m) (a1 a2) : Keeps m s0 (State.loseLines s a1 a2) := by
  unfold State.loseLines
  repeat' first
    | with_reducible assumption | exact hp.trans rfl | intro _
    | (extract_lets +onlyGivenNames x; refine Keeps.seq (m := m) (s0 := s0) x ?_ ?_; rotate_left; clear_value x; revert x; intro _ _; rotate_left; unfold x; clear x)
    | (extract_lets +onlyGivenNames x; revert x; intro _) | with_reducible apply State.putEntry_keeps
    | with_reducible apply State.loseEntry_keeps | with_reducible apply Keeps.foldl | with_reducible apply Keeps.foldl_fst

theorem State.entryError_keeps {m : Nat} {s0 s : State} (h : Keeps m s0 s) (hp : Sub 0x18c410b6 m) (a1 a2) : Keeps m s0 (State.entryError s a1 a2) := by
  unfold State.entryError
  repeat' first
    | with_reducible assumption | exact hp.trans rfl | intro _
    | (extract_lets +onlyGivenNames x; refine Keeps.seq (m := m) (s0 := s0) x ?_ ?_; rotate_left; clear_value x; revert x; intro _ _; rotate_left; unfold x; clear x)
    | (extract_lets +onlyGivenNames x; revert x; intro _) | with_reducible apply State.fatalLines_keeps
    | with_reducible apply State.loseLines_keeps | with_reducible apply Keeps.foldl | with_reducible apply Keeps.foldl_fst

theorem State.injectPoison_keeps {m : Nat} {s0 s : State} (h : Keeps m s0 s) (hp : Sub 0x2 m) (a1) : Keeps m s0 (State.injectPoison s a1).1 := by
  induction a1 generalizing s with
  | nil =>
    unfold State.injectPoison
    repeat' first
      | with_reducible assumption | exact hp.trans rfl | intro _
      | (extract_lets +onlyGivenNames x; refine Keeps.seq (m := m) (s0 := s0) x ?_ ?_; rotate_left; clear_value x; revert x; intro _ _; rotate_left; unfold x; clear x)
      | (extract_lets +onlyGivenNames x; refine Keeps.seq (m := m) (s0 := s0) x.1 ?_ ?_; rotate_left; clear_value x; revert x; intro _ _; rotate_left; unfold x; clear x)
      | (extract_lets +onlyGivenNames x; refine KeepsO.seq (m := m) (s0 := s0) x ?_ ?_; rotate_left; clear_value x; revert x; intro _ _; rotate_left; unfold x; clear x)
      | (extract_lets +onlyGivenNames x; revert x; intro _) | with_reducible apply State.takeInject_keeps
      | with_reducible apply KeepsO.some_ | with_reducible apply KeepsO.none_ | with_reducible apply KeepsO.getD
      | with_reducible refine KeepsO.get (by assumption) ?_ | split | (clear_value *; split)
      | with_reducible refine Keeps.of_fst (by assumption) ?_ | exact KeepsO.get rfl (by assumption)
  | cons _ _ ih =>
    unfold State.injectPoison
    repeat' first
      | with_reducible assumption | with_reducible apply ih | exact hp.trans rfl | intro _
      | (extract_lets +onlyGivenNames x; refine Keeps.seq (m := m) (s0 := s0) x ?_ ?_; rotate_left; clear_value x; revert x; intro _ _; rotate_left; unfold x; clear x)
      | (extract_lets +onlyGivenNames x; refine Keeps.seq (m := m) (s0 := s0) x.1 ?_ ?_; rotate_left; clear_value x; revert x; intro _ _; rotate_left; unfold x; clear x)
      | (extract_lets +onlyGivenNames x; refine KeepsO.seq (m := m) (s0 := s0) x ?_ ?_; rotate_left; clear_value x; revert x; intro _ _; rotate_left; unfold x; clear x)
      | (extract_lets +onlyGivenNames x; revert x; intro _) | with_reducible apply State.takeInject_keeps
      | with_reducible apply KeepsO.some_ | with_reducible apply KeepsO.none_ | with_reducible apply KeepsO.getD
      | with_reducible refine KeepsO.get (by assumption) ?_ | split | (clear_value *; split)
      | with_reducible refine Keeps.of_fst (by assumption) ?_ | exact KeepsO.get rfl (by assumption)

theorem State.withPoison_keeps {m : Nat} {s0 s : State} (h : Keeps m s0 s) (hp : Sub 0x10 m) (a1 a2) (hf : ∀ t, Keeps m s0 t → Keeps m s0 (a2 t)) : Keeps m s0 (State.withPoison s a1 a2) := by
  unfold State.withPoison
  repeat' first
    | with_reducible assumption | exact hp.trans rfl | intro _ | with_reducible apply hf
    | (extract_lets +onlyGivenNames x; refine Keeps.seq (m := m) (s0 := s0) x ?_ ?_; rotate_left; clear_value x; revert x; intro _ _; rotate_left; unfold x; clear x)
    | (extract_lets +onlyGivenNames x; revert x; intro _) | split | (clear_value *; split)
    | with_reducible refine Keeps.mem (by assumption) rfl (Sub.bit 4 rfl hp)

theorem State.injectEntry_keeps {m : Nat} {s0 s : State} (h : Keeps m s0 s) (hp : Sub 0x18c410b6 m) (a1 a2) : Keeps m s0 (State.injectEntry s a1 a2) := by
  unfold State.injectEntry
  repeat' first
    | with_reducible assumption | exact hp.trans rfl | with_reducible apply State.takeInject_keeps
    | with_reducible apply State.entryError_keeps | with_reducible apply State.count_keeps | with_reducible apply KeepsO.some_
    | with_reducible apply KeepsO.none_ | with_reducible apply KeepsO.getD | with_reducible refine KeepsO.get (by assumption) ?_ | split

theorem State.homeRequest_keeps {m : Nat} {s0 s : State} (h : Keeps m s0 s) (hp : Sub 0x18c514be m) (a1) : Keeps m s0 (State.homeRequest s a1) := by
  unfold State.homeRequest
  repeat' first
    | with_reducible assumption | exact hp.trans rfl | intro _
    | (extract_lets +onlyGivenNames x; refine Keeps.seq (m := m) (s0 := s0) x ?_ ?_; rotate_left; clear_value x; revert x; intro _ _; rotate_left; unfold x; clear x)
    | (extract_lets +onlyGivenNames x; refine Keeps.seq (m := m) (s0 := s0) x.1 ?_ ?_; rotate_left; clear_value x; revert x; intro _ _; rotate_left; unfold x; clear x)
    | (extract_lets +onlyGivenNames x; revert x; intro _) | with_reducible apply State.memRequest_keeps
    | with_reducible apply State.injectEntry_keeps | with_reducible apply State.injectPoison_keeps
    | with_reducible apply State.withPoison_keeps | split | (clear_value *; split) | with_reducible refine Keeps.of_fst (by assumption) ?_

theorem State.cadRequest_keeps {m : Nat} {s0 s : State} (h : Keeps m s0 s) (hp : Sub 0x18c514be m) (a1) : Keeps m s0 (State.cadRequest s a1) := by
  unfold State.cadRequest
  repeat' first
    | with_reducible assumption | exact hp.trans rfl | intro _
    | (extract_lets +onlyGivenNames x; refine Keeps.seq (m := m) (s0 := s0) x ?_ ?_; rotate_left; clear_value x; revert x; intro _ _; rotate_left; unfold x; clear x)
    | (extract_lets +onlyGivenNames x; revert x; intro _) | with_reducible apply State.onlyIf_keeps
    | with_reducible apply State.homeRequest_keeps | with_reducible apply State.proxyRequest_keeps
    | with_reducible apply State.injectEntry_keeps | split | (clear_value *; split)

theorem execRds_keeps {m : Nat} {s0 s : State} (h : Keeps m s0 s) (hp : Sub 0x18c514be m) (a1) : Ends m s0 (execRds a1 s) := by
  unfold execRds
  repeat' first
    | with_reducible assumption | exact hp.trans rfl | with_reducible apply State.cadRequest_keeps | with_reducible apply Ends.next

theorem execRdo_keeps {m : Nat} {s0 s : State} (h : Keeps m s0 s) (hp : Sub 0x18c514be m) (a1) : Ends m s0 (execRdo a1 s) := by
  unfold execRdo
  repeat' first
    | with_reducible assumption | exact hp.trans rfl | with_reducible apply State.cadRequest_keeps | with_reducible apply Ends.next

theorem execUpg_keeps {m : Nat} {s0 s : State} (h : Keeps m s0 s) (hp : Sub 0x18c514be m) (a1) : Ends m s0 (execUpg a1 s) := by
  unfold execUpg
  repeat' first
    | with_reducible assumption | exact hp.trans rfl | with_reducible apply State.cadRequest_keeps | with_reducible apply Ends.next

theorem execEvc_keeps {m : Nat} {s0 s : State} (h : Keeps m s0 s) (hp : Sub 0x18c514be m) (a1) : Ends m s0 (execEvc a1 s) := by
  unfold execEvc
  repeat' first
    | with_reducible assumption | exact hp.trans rfl | with_reducible apply State.cadRequest_keeps | with_reducible apply Ends.next

theorem execWbk_keeps {m : Nat} {s0 s : State} (h : Keeps m s0 s) (hp : Sub 0x18c514be m) (a1) : Ends m s0 (execWbk a1 s) := by
  unfold execWbk
  repeat' first
    | with_reducible assumption | exact hp.trans rfl | with_reducible apply State.cadRequest_keeps | with_reducible apply Ends.next

theorem State.rpq_keeps {m : Nat} {s0 s : State} (h : Keeps m s0 s) (hp : Sub 0x18c514be m) (a1) : Keeps m s0 (State.rpq s a1) := by
  unfold State.rpq
  repeat' first
    | with_reducible assumption | exact hp.trans rfl | intro _
    | (extract_lets +onlyGivenNames x; refine Keeps.seq (m := m) (s0 := s0) x ?_ ?_; rotate_left; clear_value x; revert x; intro _ _; rotate_left; unfold x; clear x)
    | (extract_lets +onlyGivenNames x; revert x; intro _) | with_reducible apply State.cadRequest_keeps
    | with_reducible apply State.modSlice_keeps

theorem execRpq_keeps {m : Nat} {s0 s : State} (h : Keeps m s0 s) (hp : Sub 0x18c514be m) (a1) : Ends m s0 (execRpq a1 s) := by
  unfold execRpq
  repeat' first
    | with_reducible assumption | exact hp.trans rfl | intro _ | with_reducible apply State.onlyIf_keeps
    | with_reducible apply State.rpq_keeps | with_reducible apply Ends.next

theorem State.snooped_keeps {m : Nat} {s0 s : State} (h : Keeps m s0 s) (hp : Sub 0x4 m) (a1 a2) (hf : ∀ t, Keeps m s0 t → Keeps m s0 (a2 t)) : Keeps m s0 (State.snooped s a1 a2) := by
  unfold State.snooped
  repeat' first
    | with_reducible assumption | exact hp.trans rfl | intro _ | with_reducible apply hf | with_reducible apply State.tick_keeps | split

theorem execSni_keeps {m : Nat} {s0 s : State} (h : Keeps m s0 s) (hp : Sub 0x10041086 m) (a1) : Ends m s0 (execSni a1 s) := by
  unfold execSni
  repeat' first
    | with_reducible assumption | exact hp.trans rfl | intro _ | with_reducible apply State.snooped_keeps
    | with_reducible apply State.proxySnoop_keeps | with_reducible apply Ends.next

theorem execSnd_keeps {m : Nat} {s0 s : State} (h : Keeps m s0 s) (hp : Sub 0x10041086 m) (a1) : Ends m s0 (execSnd a1 s) := by
  unfold execSnd
  repeat' first
    | with_reducible assumption | exact hp.trans rfl | intro _ | with_reducible apply State.snooped_keeps
    | with_reducible apply State.proxySnoop_keeps | with_reducible apply Ends.next

theorem execSnf_keeps {m : Nat} {s0 s : State} (h : Keeps m s0 s) (hp : Sub 0x10041086 m) (a1) : Ends m s0 (execSnf a1 s) := by
  unfold execSnf
  repeat' first
    | with_reducible assumption | exact hp.trans rfl | intro _ | with_reducible apply State.snooped_keeps
    | with_reducible apply State.proxySnoop_keeps | with_reducible apply Ends.next

theorem execSpi_keeps {m : Nat} {s0 s : State} (h : Keeps m s0 s) (hp : Sub 0x10041086 m) (a1) : Ends m s0 (execSpi a1 s) := by
  unfold execSpi
  repeat' first
    | with_reducible assumption | exact hp.trans rfl | intro _ | with_reducible apply State.snooped_keeps
    | with_reducible apply State.proxySpi_keeps | with_reducible apply Ends.next

theorem execSak_keeps {m : Nat} {s0 s : State} (h : Keeps m s0 s) (hp : Sub 0x18851496 m) (a1 a2) : Ends m s0 (execSak a1 a2 s) := by
  unfold execSak
  repeat' first
    | with_reducible assumption | exact hp.trans rfl | with_reducible apply State.snoopReply_keeps | with_reducible apply Ends.next

theorem execSda_keeps {m : Nat} {s0 s : State} (h : Keeps m s0 s) (hp : Sub 0x18851496 m) (a1 a2) : Ends m s0 (execSda a1 a2 s) := by
  unfold execSda
  repeat' first
    | with_reducible assumption | exact hp.trans rfl | with_reducible apply State.snoopReply_keeps | with_reducible apply Ends.next

theorem State.memWriteAccepted_keeps {m : Nat} {s0 s : State} (h : Keeps m s0 s) (hp : Sub 0x18851496 m) (a1 a2) : Keeps m s0 (State.memWriteAccepted s a1 a2) := by
  unfold State.memWriteAccepted
  repeat' first
    | with_reducible assumption | exact hp.trans rfl | with_reducible apply State.advance_keeps | with_reducible apply State.setTxn_keeps
    | split

theorem execMemWriteAccepted_keeps {m : Nat} {s0 s : State} (h : Keeps m s0 s) (hp : Sub 0x18851496 m) (a1 a2) : Ends m s0 (execMemWriteAccepted a1 a2 s) := by
  unfold execMemWriteAccepted
  repeat' first
    | with_reducible assumption | exact hp.trans rfl | with_reducible apply State.memWriteAccepted_keeps | with_reducible apply Ends.next

theorem State.memReadDone_keeps {m : Nat} {s0 s : State} (h : Keeps m s0 s) (hp : Sub 0x18851496 m) (a1 a2) : Keeps m s0 (State.memReadDone s a1 a2) := by
  unfold State.memReadDone
  repeat' first
    | with_reducible assumption | exact hp.trans rfl | intro _
    | (extract_lets +onlyGivenNames x; refine Keeps.seq (m := m) (s0 := s0) x ?_ ?_; rotate_left; clear_value x; revert x; intro _ _; rotate_left; unfold x; clear x)
    | (extract_lets +onlyGivenNames x; revert x; intro _) | with_reducible apply State.allocFrame_keeps
    | with_reducible apply State.advance_keeps | with_reducible apply State.setTxn_keeps | with_reducible apply State.finishTxn_keeps
    | with_reducible apply State.cacheLookup_keeps | with_reducible apply KeepsC.hit | with_reducible apply KeepsC.waits
    | with_reducible apply KeepsC.quota | with_reducible refine KeepsC.ofHit (by assumption) ?_
    | with_reducible refine KeepsC.ofWaits (by assumption) ?_ | with_reducible refine KeepsC.ofQuota (by assumption) ?_ | split
    | (clear_value *; split)

theorem State.homeReadDone_keeps {m : Nat} {s0 s : State} (h : Keeps m s0 s) (hp : Sub 0x18851496 m) (a1 a2) : Keeps m s0 (State.homeReadDone s a1 a2) := by
  unfold State.homeReadDone
  repeat' first
    | with_reducible assumption | exact hp.trans rfl | intro _
    | (extract_lets +onlyGivenNames x; refine Keeps.seq (m := m) (s0 := s0) x ?_ ?_; rotate_left; clear_value x; revert x; intro _ _; rotate_left; unfold x; clear x)
    | (extract_lets +onlyGivenNames x; refine Keeps.seq (m := m) (s0 := s0) x.1 ?_ ?_; rotate_left; clear_value x; revert x; intro _ _; rotate_left; unfold x; clear x)
    | (extract_lets +onlyGivenNames x; revert x; intro _) | with_reducible apply State.injectPoison_keeps
    | with_reducible apply State.withPoison_keeps | with_reducible apply State.memReadDone_keeps | split | (clear_value *; split)
    | with_reducible refine Keeps.of_fst (by assumption) ?_

theorem execHomeMemoryReadDone_keeps {m : Nat} {s0 s : State} (h : Keeps m s0 s) (hp : Sub 0x18851496 m) (a1 a2) : Ends m s0 (execHomeMemoryReadDone a1 a2 s) := by
  unfold execHomeMemoryReadDone
  repeat' first
    | with_reducible assumption | exact hp.trans rfl | with_reducible apply State.homeReadDone_keeps | with_reducible apply Ends.next

theorem State.backingFetchDone_keeps {m : Nat} {s0 s : State} (h : Keeps m s0 s) (hp : Sub 0x18851496 m) (a1 a2) : Keeps m s0 (State.backingFetchDone s a1 a2) := by
  unfold State.backingFetchDone
  repeat' first
    | with_reducible assumption | exact hp.trans rfl | intro _
    | (extract_lets +onlyGivenNames x; refine Keeps.seq (m := m) (s0 := s0) x ?_ ?_; rotate_left; clear_value x; revert x; intro _ _; rotate_left; unfold x; clear x)
    | (extract_lets +onlyGivenNames x; revert x; intro _) | with_reducible apply State.modSlice_keeps
    | with_reducible apply State.startProxy_keeps | with_reducible apply State.startHome_keeps | split | (clear_value *; split)

theorem execBackingFetchDone_keeps {m : Nat} {s0 s : State} (h : Keeps m s0 s) (hp : Sub 0x18851496 m) (a1 a2) : Ends m s0 (execBackingFetchDone a1 a2 s) := by
  unfold execBackingFetchDone
  repeat' first
    | with_reducible assumption | exact hp.trans rfl | with_reducible apply State.backingFetchDone_keeps | with_reducible apply Ends.next

theorem State.dequeue_keeps {m : Nat} {s0 s : State} (h : Keeps m s0 s) (hp : Sub 0x1885149e m) (a1) : Keeps m s0 (State.dequeue s a1) := by
  unfold State.dequeue
  repeat' first
    | with_reducible assumption | exact hp.trans rfl | intro _
    | (extract_lets +onlyGivenNames x; refine Keeps.seq (m := m) (s0 := s0) x ?_ ?_; rotate_left; clear_value x; revert x; intro _ _; rotate_left; unfold x; clear x)
    | (extract_lets +onlyGivenNames x; revert x; intro _) | with_reducible apply State.backInvalidate_keeps
    | with_reducible apply State.modSlice_keeps | with_reducible apply State.proxySnoop_keeps | with_reducible apply State.memServe_keeps
    | with_reducible apply State.proxyServe_keeps | split | (clear_value *; split)

theorem execConflictQueueDequeue_keeps {m : Nat} {s0 s : State} (h : Keeps m s0 s) (hp : Sub 0x1885149e m) (a1) : Ends m s0 (execConflictQueueDequeue a1 s) := by
  unfold execConflictQueueDequeue
  repeat' first | with_reducible assumption | exact hp.trans rfl | with_reducible apply State.dequeue_keeps | with_reducible apply Ends.next

theorem State.replWindowEnd_keeps {m : Nat} {s0 s : State} (h : Keeps m s0 s) (hp : Sub 0x82 m) (a1) : Keeps m s0 (State.replWindowEnd s a1) := by
  unfold State.replWindowEnd
  repeat' first
    | with_reducible assumption | exact hp.trans rfl | intro _
    | (extract_lets +onlyGivenNames x; refine Keeps.seq (m := m) (s0 := s0) x ?_ ?_; rotate_left; clear_value x; revert x; intro _ _; rotate_left; unfold x; clear x)
    | (extract_lets +onlyGivenNames x; revert x; intro _) | with_reducible apply State.modSlice_keeps
    | with_reducible apply State.count_keeps

theorem execReplWindowEnd_keeps {m : Nat} {s0 s : State} (h : Keeps m s0 s) (hp : Sub 0x82 m) (a1) : Ends m s0 (execReplWindowEnd a1 s) := by
  unfold execReplWindowEnd
  repeat' first
    | with_reducible assumption | exact hp.trans rfl | intro _ | with_reducible apply State.onlyIf_keeps
    | with_reducible apply State.replWindowEnd_keeps | with_reducible apply Ends.next

theorem State.replicaDrop_keeps {m : Nat} {s0 s : State} (h : Keeps m s0 s) (hp : Sub 0x80 m) (a1 a2) : Keeps m s0 (State.replicaDrop s a1 a2) := by
  unfold State.replicaDrop
  repeat' first | with_reducible assumption | exact hp.trans rfl | with_reducible apply State.modSlice_keeps

theorem execReplicaDrop_keeps {m : Nat} {s0 s : State} (h : Keeps m s0 s) (hp : Sub 0x80 m) (a1 a2) : Ends m s0 (execReplicaDrop a1 a2 s) := by
  unfold execReplicaDrop
  repeat' first
    | with_reducible assumption | exact hp.trans rfl | with_reducible apply State.replicaDrop_keeps | with_reducible apply Ends.next

theorem State.resolveDead_keeps {m : Nat} {s0 s : State} (h : Keeps m s0 s) (hp : Sub 0x18841096 m) (a1 a2 a3) : Keeps m s0 (State.resolveDead s a1 a2 a3) := by
  unfold State.resolveDead
  repeat' first
    | with_reducible assumption | exact hp.trans rfl | intro _
    | (extract_lets +onlyGivenNames x; refine Keeps.seq (m := m) (s0 := s0) x ?_ ?_; rotate_left; clear_value x; revert x; intro _ _; rotate_left; unfold x; clear x)
    | (extract_lets +onlyGivenNames x; revert x; intro _) | with_reducible apply State.startRecall_keeps
    | with_reducible apply State.putEntry_keeps | with_reducible apply State.writePoisoned_keeps
    | with_reducible apply State.startGiveUp_keeps | split | (clear_value *; split)

theorem State.deadInSlice_keeps {m : Nat} {s0 s : State} (h : Keeps m s0 s) (hp : Sub 0x18851496 m) (a1 a2) : Keeps m s0 (State.deadInSlice s a1 a2) := by
  unfold State.deadInSlice
  repeat' first
    | with_reducible assumption | exact hp.trans rfl | intro _
    | (extract_lets +onlyGivenNames x; refine Keeps.seq (m := m) (s0 := s0) x ?_ ?_; rotate_left; clear_value x; revert x; intro _ _; rotate_left; unfold x; clear x)
    | (extract_lets +onlyGivenNames x; revert x; intro _) | with_reducible apply State.modSlice_keeps
    | with_reducible apply State.holderAnswers_keeps | with_reducible apply State.resolveDead_keeps
    | with_reducible apply State.setReg_keeps | with_reducible apply Keeps.foldl | with_reducible apply Keeps.foldl_fst | split
    | (clear_value *; split)

theorem State.dropWaiters_keeps {m : Nat} {s0 s : State} (h : Keeps m s0 s) (hp : Sub 0x400 m) (a1) : Keeps m s0 (State.dropWaiters s a1) := by
  unfold State.dropWaiters
  repeat' first
    | with_reducible assumption | intro _
    | (extract_lets +onlyGivenNames x; refine Keeps.seq (m := m) (s0 := s0) x ?_ ?_; rotate_left; clear_value x; revert x; intro _ _; rotate_left; unfold x; clear x)
    | (extract_lets +onlyGivenNames x; revert x; intro _) | with_reducible refine Keeps.tier (by assumption) (Sub.bit 10 rfl hp)

theorem State.agentDead_keeps {m : Nat} {s0 s : State} (h : Keeps m s0 s) (hp : Sub 0x18851596 m) (a1 a2) : Keeps m s0 (State.agentDead s a1 a2) := by
  unfold State.agentDead
  repeat' first
    | with_reducible assumption | exact hp.trans rfl | intro _
    | (extract_lets +onlyGivenNames x; refine Keeps.seq (m := m) (s0 := s0) x ?_ ?_; rotate_left; clear_value x; revert x; intro _ _; rotate_left; unfold x; clear x)
    | (extract_lets +onlyGivenNames x; revert x; intro _) | with_reducible apply State.note_keeps | with_reducible apply State.tick_keeps
    | with_reducible apply State.dropWaiters_keeps | with_reducible apply State.dropParked_keeps
    | with_reducible apply State.deadInSlice_keeps | with_reducible apply Keeps.foldl | with_reducible apply Keeps.foldl_fst | split
    | (clear_value *; split)

theorem State.severLine_keeps {m : Nat} {s0 s : State} (h : Keeps m s0 s) (hp : Sub 0x8800096 m) (a1 a2 a3) : Keeps m s0 (State.severLine s a1 a2 a3) := by
  unfold State.severLine
  repeat' first
    | with_reducible assumption | exact hp.trans rfl | intro _
    | (extract_lets +onlyGivenNames x; refine Keeps.seq (m := m) (s0 := s0) x ?_ ?_; rotate_left; clear_value x; revert x; intro _ _; rotate_left; unfold x; clear x)
    | (extract_lets +onlyGivenNames x; revert x; intro _) | with_reducible apply State.putEntry_keeps
    | with_reducible apply State.writePoisoned_keeps | split | (clear_value *; split)

theorem State.sever_keeps {m : Nat} {s0 s : State} (h : Keeps m s0 s) (hp : Sub 0x18851496 m) (a1 a2) : Keeps m s0 (State.sever s a1 a2) := by
  unfold State.sever
  repeat' first
    | with_reducible assumption | exact hp.trans rfl | intro _
    | (extract_lets +onlyGivenNames x; refine Keeps.seq (m := m) (s0 := s0) x ?_ ?_; rotate_left; clear_value x; revert x; intro _ _; rotate_left; unfold x; clear x)
    | (extract_lets +onlyGivenNames x; revert x; intro _) | with_reducible apply State.setBit_keeps | with_reducible apply State.note_keeps
    | with_reducible apply State.tick_keeps | with_reducible apply State.holderAnswers_keeps | with_reducible apply State.modSlice_keeps
    | with_reducible apply State.severLine_keeps | with_reducible apply Keeps.foldl | with_reducible apply Keeps.foldl_fst | split
    | (clear_value *; split)

theorem State.snoopTimeout_keeps {m : Nat} {s0 s : State} (h : Keeps m s0 s) (hp : Sub 0x18851596 m) (a1 a2 a3) : Keeps m s0 (State.snoopTimeout s a1 a2 a3) := by
  unfold State.snoopTimeout
  repeat' first
    | with_reducible assumption | exact hp.trans rfl | intro _
    | (extract_lets +onlyGivenNames x; refine Keeps.seq (m := m) (s0 := s0) x ?_ ?_; rotate_left; clear_value x; revert x; intro _ _; rotate_left; unfold x; clear x)
    | (extract_lets +onlyGivenNames x; revert x; intro _) | with_reducible apply State.count_keeps
    | with_reducible apply State.agentDead_keeps | with_reducible apply State.sever_keeps | split | (clear_value *; split)

theorem execSnoopTimeout_keeps {m : Nat} {s0 s : State} (h : Keeps m s0 s) (hp : Sub 0x18851596 m) (a1 a2 a3) : Ends m s0 (execSnoopTimeout a1 a2 a3 s) := by
  unfold execSnoopTimeout
  repeat' first
    | with_reducible assumption | exact hp.trans rfl | with_reducible apply State.snoopTimeout_keeps | with_reducible apply Ends.next

theorem State.companionBeat_keeps {m : Nat} {s0 s : State} (h : Keeps m s0 s) (hp : Sub 0x8800006 m) : Keeps m s0 (State.companionBeat s) := by
  unfold State.companionBeat
  repeat' first
    | with_reducible assumption | exact hp.trans rfl | intro _
    | (extract_lets +onlyGivenNames x; refine Keeps.seq (m := m) (s0 := s0) x ?_ ?_; rotate_left; clear_value x; revert x; intro _ _; rotate_left; unfold x; clear x)
    | (extract_lets +onlyGivenNames x; revert x; intro _) | with_reducible apply State.record_keeps
    | with_reducible apply State.setBit_keeps | split | (clear_value *; split)
    | with_reducible refine Keeps.recov (by assumption) (Sub.bit 23 rfl hp)

theorem State.deadSweepDone_keeps {m : Nat} {s0 s : State} (h : Keeps m s0 s) (hp : Sub 0x8800086 m) (a1) : Keeps m s0 (State.deadSweepDone s a1) := by
  unfold State.deadSweepDone
  repeat' first
    | with_reducible assumption | exact hp.trans rfl | intro _
    | (extract_lets +onlyGivenNames x; refine Keeps.seq (m := m) (s0 := s0) x ?_ ?_; rotate_left; clear_value x; revert x; intro _ _; rotate_left; unfold x; clear x)
    | (extract_lets +onlyGivenNames x; revert x; intro _) | with_reducible apply State.setBit_keeps
    | with_reducible apply State.modSlice_keeps | with_reducible apply State.bindAgent_keeps
    | with_reducible apply State.companionBeat_keeps | with_reducible apply Keeps.foldl | with_reducible apply Keeps.foldl_fst | split
    | (clear_value *; split)

theorem execDeadSweepDone_keeps {m : Nat} {s0 s : State} (h : Keeps m s0 s) (hp : Sub 0x8800086 m) (a1) : Ends m s0 (execDeadSweepDone a1 s) := by
  unfold execDeadSweepDone
  repeat' first
    | with_reducible assumption | exact hp.trans rfl | with_reducible apply State.deadSweepDone_keeps | with_reducible apply Ends.next

theorem State.cadDeadClear_keeps {m : Nat} {s0 s : State} (h : Keeps m s0 s) (hp : Sub 0x6 m) (a1 a2) : Keeps m s0 (State.cadDeadClear s a1 a2) := by
  unfold State.cadDeadClear
  repeat' first
    | with_reducible assumption | exact hp.trans rfl | intro _ | with_reducible apply State.cfgDo_keeps
    | with_reducible apply State.setReg_keeps | split

theorem execCadDeadClear_keeps {m : Nat} {s0 s : State} (h : Keeps m s0 s) (hp : Sub 0x6 m) (a1 a2) : Ends m s0 (execCadDeadClear a1 a2 s) := by
  unfold execCadDeadClear
  repeat' first
    | with_reducible assumption | exact hp.trans rfl | with_reducible apply State.cadDeadClear_keeps | with_reducible apply Ends.next

theorem State.cadSeverClear_keeps {m : Nat} {s0 s : State} (h : Keeps m s0 s) (hp : Sub 0x6 m) (a1 a2 a3) : Keeps m s0 (State.cadSeverClear s a1 a2 a3) := by
  unfold State.cadSeverClear
  repeat' first
    | with_reducible assumption | exact hp.trans rfl | intro _ | with_reducible apply State.cfgDo_keeps
    | with_reducible apply State.setReg_keeps

theorem execCadSeverClear_keeps {m : Nat} {s0 s : State} (h : Keeps m s0 s) (hp : Sub 0x6 m) (a1 a2 a3) : Ends m s0 (execCadSeverClear a1 a2 a3 s) := by
  unfold execCadSeverClear
  repeat' first
    | with_reducible assumption | exact hp.trans rfl | with_reducible apply State.cadSeverClear_keeps | with_reducible apply Ends.next

theorem execEntryEccError_keeps {m : Nat} {s0 s : State} (h : Keeps m s0 s) (hp : Sub 0x18c410b6 m) (a1 a2) : Ends m s0 (execEntryEccError a1 a2 s) := by
  unfold execEntryEccError
  repeat' first
    | with_reducible assumption | exact hp.trans rfl | with_reducible apply State.entryError_keeps | with_reducible apply State.count_keeps
    | with_reducible apply State.tick_keeps | with_reducible apply Ends.next

theorem State.cadCtlFields_keeps {m : Nat} {s0 s : State} (h : Keeps m s0 s) (hp : Sub 0x82 m) (a1 a2) : Keeps m s0 (State.cadCtlFields s a1 a2) := by
  unfold State.cadCtlFields
  repeat' first
    | with_reducible assumption | exact hp.trans rfl | intro _
    | (extract_lets +onlyGivenNames x; refine Keeps.seq (m := m) (s0 := s0) x ?_ ?_; rotate_left; clear_value x; revert x; intro _ _; rotate_left; unfold x; clear x)
    | (extract_lets +onlyGivenNames x; revert x; intro _) | with_reducible apply State.setFld_keeps
    | with_reducible apply State.modSlice_keeps | split | (clear_value *; split)

theorem State.cadEnable_keeps {m : Nat} {s0 s : State} (h : Keeps m s0 s) (hp : Sub 0x8800086 m) (a1 a2) : Keeps m s0 (State.cadEnable s a1 a2) := by
  unfold State.cadEnable
  repeat' first
    | with_reducible assumption | exact hp.trans rfl | intro _
    | (extract_lets +onlyGivenNames x; refine Keeps.seq (m := m) (s0 := s0) x ?_ ?_; rotate_left; clear_value x; revert x; intro _ _; rotate_left; unfold x; clear x)
    | (extract_lets +onlyGivenNames x; revert x; intro _) | with_reducible apply State.cfgDo_keeps
    | with_reducible apply State.cadCtlFields_keeps | with_reducible apply State.tick_keeps | with_reducible apply State.note_keeps
    | with_reducible apply State.setBit_keeps | with_reducible apply State.refuseEnable_keeps | split | (clear_value *; split)

theorem execCadEnable_keeps {m : Nat} {s0 s : State} (h : Keeps m s0 s) (hp : Sub 0x8800086 m) (a1 a2) : Ends m s0 (execCadEnable a1 a2 s) := by
  unfold execCadEnable
  repeat' first
    | with_reducible assumption | exact hp.trans rfl | with_reducible apply State.cadEnable_keeps | with_reducible apply Ends.next

theorem State.cadProbe_keeps {m : Nat} {s0 s : State} (h : Keeps m s0 s) (hp : Sub 0x6 m) (a1 a2) : Keeps m s0 (State.cadProbe s a1 a2) := by
  unfold State.cadProbe
  repeat' first
    | with_reducible assumption | exact hp.trans rfl | intro _
    | (extract_lets +onlyGivenNames x; refine Keeps.seq (m := m) (s0 := s0) x ?_ ?_; rotate_left; clear_value x; revert x; intro _ _; rotate_left; unfold x; clear x)
    | (extract_lets +onlyGivenNames x; revert x; intro _) | with_reducible apply State.cfgDo_keeps | with_reducible apply State.setFld_keeps
    | with_reducible apply State.count_keeps | with_reducible apply State.tick_keeps | with_reducible apply State.setBit_keeps
    | with_reducible apply State.setReg_keeps | with_reducible apply Keeps.foldl | with_reducible apply Keeps.foldl_fst | split
    | (clear_value *; split)

theorem execCadProbe_keeps {m : Nat} {s0 s : State} (h : Keeps m s0 s) (hp : Sub 0x6 m) (a1 a2) : Ends m s0 (execCadProbe a1 a2 s) := by
  unfold execCadProbe
  repeat' first
    | with_reducible assumption | exact hp.trans rfl | with_reducible apply State.cadProbe_keeps | with_reducible apply Ends.next

end Sys2Proof.Machine
end

