-- ==== Sys2Proof/Laws/KeepsBooks.lean ====
section
/-!
SUPPORT. The operations of Machine/Books.lean leave the queue of waiting commands alone and keep the canonical form.
-/
namespace Sys2Proof.Machine

set_option linter.all false

theorem State.setBook_keeps {m : Nat} {s0 s : State} (h : Keeps m s0 s) (hp : Sub 0x800000 m) (a1 a2) : Keeps m s0 (State.setBook s a1 a2) := by
  unfold State.setBook
  repeat' first
    | with_reducible assumption | intro _
    | (extract_lets +onlyGivenNames x; refine Keeps.seq (m := m) (s0 := s0) x ?_ ?_; rotate_left; clear_value x; revert x; intro _ _; rotate_left; unfold x; clear x)
    | (extract_lets +onlyGivenNames x; revert x; intro _) | with_reducible refine Keeps.recov (by assumption) (Sub.bit 23 rfl hp)

theorem State.escalate_keeps {m : Nat} {s0 s : State} (h : Keeps m s0 s) (hp : Sub 0x800002 m) (a1 a2) : Keeps m s0 (State.escalate s a1 a2) := by
  unfold State.escalate
  repeat' first
    | with_reducible assumption | exact hp.trans rfl | intro _
    | (extract_lets +onlyGivenNames x; refine Keeps.seq (m := m) (s0 := s0) x ?_ ?_; rotate_left; clear_value x; revert x; intro _ _; rotate_left; unfold x; clear x)
    | (extract_lets +onlyGivenNames x; revert x; intro _) | with_reducible apply State.event_keeps | with_reducible apply State.count_keeps
    | split | (clear_value *; split)

theorem State.produce_keeps {m : Nat} {s0 s : State} (h : Keeps m s0 s) (hp : Sub 0x880000e m) (a1 a2) : Keeps m s0 (State.produce s a1 a2) := by
  unfold State.produce
  repeat' first
    | with_reducible assumption | exact hp.trans rfl | intro _
    | (extract_lets +onlyGivenNames x; refine Keeps.seq (m := m) (s0 := s0) x ?_ ?_; rotate_left; clear_value x; revert x; intro _ _; rotate_left; unfold x; clear x)
    | (extract_lets +onlyGivenNames x; revert x; intro _) | with_reducible apply State.tick_keeps | with_reducible apply State.took_keeps
    | with_reducible apply State.count_keeps | with_reducible apply State.setFld_keeps | with_reducible apply State.setBook_keeps
    | with_reducible apply State.escalate_keeps | with_reducible apply State.raisePage_keeps | with_reducible apply State.errSum_keeps
    | split | (clear_value *; split)

theorem State.closeEntry_keeps {m : Nat} {s0 s : State} (h : Keeps m s0 s) (hp : Sub 0x880000e m) (a1 a2) : Keeps m s0 (State.closeEntry s a1 a2) := by
  unfold State.closeEntry
  repeat' first
    | with_reducible assumption | exact hp.trans rfl | intro _
    | (extract_lets +onlyGivenNames x; refine Keeps.seq (m := m) (s0 := s0) x ?_ ?_; rotate_left; clear_value x; revert x; intro _ _; rotate_left; unfold x; clear x)
    | (extract_lets +onlyGivenNames x; revert x; intro _) | with_reducible apply State.setBook_keeps
    | with_reducible apply State.produce_keeps | split | (clear_value *; split)

theorem State.bookEvent_keeps {m : Nat} {s0 s : State} (h : Keeps m s0 s) (hp : Sub 0x880000e m) (a1) : Keeps m s0 (State.bookEvent s a1) := by
  unfold State.bookEvent
  repeat' first
    | with_reducible assumption | exact hp.trans rfl | intro _
    | (extract_lets +onlyGivenNames x; refine Keeps.seq (m := m) (s0 := s0) x ?_ ?_; rotate_left; clear_value x; revert x; intro _ _; rotate_left; unfold x; clear x)
    | (extract_lets +onlyGivenNames x; revert x; intro _) | with_reducible apply State.count_keeps
    | with_reducible apply State.setBook_keeps | with_reducible apply State.closeEntry_keeps | with_reducible apply State.produce_keeps
    | split | (clear_value *; split)

theorem execFieldBookEvent_keeps {m : Nat} {s0 s : State} (h : Keeps m s0 s) (hp : Sub 0x880000e m) (a1) : Ends m s0 (execFieldBookEvent a1 s) := by
  unfold execFieldBookEvent
  repeat' first
    | with_reducible assumption | exact hp.trans rfl | with_reducible apply State.bookEvent_keeps | with_reducible apply Ends.next

theorem State.coalClose_keeps {m : Nat} {s0 s : State} (h : Keeps m s0 s) (hp : Sub 0x880000e m) (a1 a2 a3) : Keeps m s0 (State.coalClose s a1 a2 a3) := by
  unfold State.coalClose
  repeat' first | with_reducible assumption | exact hp.trans rfl | with_reducible apply State.closeEntry_keeps | split

theorem execCoalesceClose_keeps {m : Nat} {s0 s : State} (h : Keeps m s0 s) (hp : Sub 0x880000e m) (a1 a2 a3) : Ends m s0 (execCoalesceClose a1 a2 a3 s) := by
  unfold execCoalesceClose
  repeat' first
    | with_reducible assumption | exact hp.trans rfl | with_reducible apply State.coalClose_keeps | with_reducible apply Ends.next

theorem State.tailWrite_keeps {m : Nat} {s0 s : State} (h : Keeps m s0 s) (hp : Sub 0x6 m) (a1 a2) : Keeps m s0 (State.tailWrite s a1 a2) := by
  unfold State.tailWrite
  repeat' first
    | with_reducible assumption | exact hp.trans rfl | intro _
    | (extract_lets +onlyGivenNames x; refine Keeps.seq (m := m) (s0 := s0) x ?_ ?_; rotate_left; clear_value x; revert x; intro _ _; rotate_left; unfold x; clear x)
    | (extract_lets +onlyGivenNames x; revert x; intro _) | with_reducible apply State.cfgDo_keeps | with_reducible apply State.setFld_keeps
    | split | (clear_value *; split)

theorem execFbTailWrite_keeps {m : Nat} {s0 s : State} (h : Keeps m s0 s) (hp : Sub 0x6 m) (a1 a2) : Ends m s0 (execFbTailWrite a1 a2 s) := by
  unfold execFbTailWrite
  repeat' first
    | with_reducible assumption | exact hp.trans rfl | with_reducible apply State.tailWrite_keeps | with_reducible apply Ends.next

theorem State.spillMove_keeps {m : Nat} {s0 s : State} (h : Keeps m s0 s) (hp : Sub 0x10800000 m) : Keeps m s0 (State.spillMove s) := by
  unfold State.spillMove
  repeat' first
    | with_reducible assumption | exact hp.trans rfl | intro _
    | (extract_lets +onlyGivenNames x; refine Keeps.seq (m := m) (s0 := s0) x ?_ ?_; rotate_left; clear_value x; revert x; intro _ _; rotate_left; unfold x; clear x)
    | (extract_lets +onlyGivenNames x; revert x; intro _) | with_reducible apply State.issue_keeps | split | (clear_value *; split)
    | with_reducible refine Keeps.recov (by assumption) (Sub.bit 23 rfl hp)

theorem State.spilled_keeps {m : Nat} {s0 s : State} (h : Keeps m s0 s) (hp : Sub 0x800106 m) (a1) : Keeps m s0 (State.spilled s a1) := by
  unfold State.spilled
  repeat' first
    | with_reducible assumption | exact hp.trans rfl | intro _
    | (extract_lets +onlyGivenNames x; refine Keeps.seq (m := m) (s0 := s0) x ?_ ?_; rotate_left; clear_value x; revert x; intro _ _; rotate_left; unfold x; clear x)
    | (extract_lets +onlyGivenNames x; revert x; intro _) | with_reducible apply State.setFld_keeps | with_reducible apply State.count_keeps
    | with_reducible apply State.srelLocal_keeps | split | (clear_value *; split)
    | with_reducible refine Keeps.recov (by assumption) (Sub.bit 23 rfl hp)

theorem execSpillMove_keeps {m : Nat} {s0 s : State} (h : Keeps m s0 s) (hp : Sub 0x10800000 m) : Ends m s0 (execSpillMove s) := by
  unfold execSpillMove
  repeat' first
    | with_reducible assumption | exact hp.trans rfl | with_reducible apply State.spillMove_keeps | with_reducible apply Ends.next

theorem State.coreWatchdog_keeps {m : Nat} {s0 s : State} (h : Keeps m s0 s) (hp : Sub 0x8800006 m) (a1) : Keeps m s0 (State.coreWatchdog s a1) := by
  unfold State.coreWatchdog
  repeat' first
    | with_reducible assumption | exact hp.trans rfl | intro _
    | (extract_lets +onlyGivenNames x; refine Keeps.seq (m := m) (s0 := s0) x ?_ ?_; rotate_left; clear_value x; revert x; intro _ _; rotate_left; unfold x; clear x)
    | (extract_lets +onlyGivenNames x; revert x; intro _) | with_reducible apply State.count_keeps | with_reducible apply State.record_keeps
    | with_reducible apply State.setBit_keeps | with_reducible refine Keeps.recov (by assumption) (Sub.bit 23 rfl hp)

theorem execMgmtWatchdogExpiry_keeps {m : Nat} {s0 s : State} (h : Keeps m s0 s) (hp : Sub 0x8800006 m) (a1) : Ends m s0 (execMgmtWatchdogExpiry a1 s) := by
  unfold execMgmtWatchdogExpiry
  repeat' first
    | with_reducible assumption | exact hp.trans rfl | with_reducible apply State.coreWatchdog_keeps | with_reducible apply Ends.next

theorem State.heartbeat_keeps {m : Nat} {s0 s : State} (h : Keeps m s0 s) (hp : Sub 0x8800006 m) (a1) : Keeps m s0 (State.heartbeat s a1) := by
  unfold State.heartbeat
  repeat' first
    | with_reducible assumption | exact hp.trans rfl | intro _
    | (extract_lets +onlyGivenNames x; refine Keeps.seq (m := m) (s0 := s0) x ?_ ?_; rotate_left; clear_value x; revert x; intro _ _; rotate_left; unfold x; clear x)
    | (extract_lets +onlyGivenNames x; revert x; intro _) | with_reducible apply State.cfgDo_keeps | with_reducible apply State.setFld_keeps
    | with_reducible apply State.companionBeat_keeps | split | (clear_value *; split)

theorem execHeartbeat_keeps {m : Nat} {s0 s : State} (h : Keeps m s0 s) (hp : Sub 0x8800006 m) (a1) : Ends m s0 (execHeartbeat a1 s) := by
  unfold execHeartbeat
  repeat' first
    | with_reducible assumption | exact hp.trans rfl | with_reducible apply State.heartbeat_keeps | with_reducible apply Ends.next

theorem State.companionLost_keeps {m : Nat} {s0 s : State} (h : Keeps m s0 s) (hp : Sub 0x18851596 m) : Keeps m s0 (State.companionLost s) := by
  unfold State.companionLost
  repeat' first
    | with_reducible assumption | exact hp.trans rfl | intro _
    | (extract_lets +onlyGivenNames x; refine Keeps.seq (m := m) (s0 := s0) x ?_ ?_; rotate_left; clear_value x; revert x; intro _ _; rotate_left; unfold x; clear x)
    | (extract_lets +onlyGivenNames x; revert x; intro _) | with_reducible apply State.count_keeps | with_reducible apply State.record_keeps
    | with_reducible apply State.setBit_keeps | with_reducible apply State.agentDead_keeps | split | (clear_value *; split)

theorem execCompanionLost_keeps {m : Nat} {s0 s : State} (h : Keeps m s0 s) (hp : Sub 0x18851596 m) : Ends m s0 (execCompanionLost s) := by
  unfold execCompanionLost
  repeat' first
    | with_reducible assumption | exact hp.trans rfl | with_reducible apply State.companionLost_keeps | with_reducible apply Ends.next

end Sys2Proof.Machine
end

