-- ==== Sys2Proof/Laws/KeepsTiers.lean ====
section
/-!
SUPPORT. The operations of Machine/Tiers.lean leave the queue of waiting commands alone and keep the canonical form.
-/
namespace Sys2Proof.Machine

set_option linter.all false

theorem State.holdDoor_keeps {m : Nat} {s0 s : State} (h : Keeps m s0 s) (hp : Sub 0x400 m) (a1 a2) : Keeps m s0 (State.holdDoor s a1 a2) := by
  unfold State.holdDoor
  repeat' first
    | with_reducible assumption | intro _
    | (extract_lets +onlyGivenNames x; refine Keeps.seq (m := m) (s0 := s0) x ?_ ?_; rotate_left; clear_value x; revert x; intro _ _; rotate_left; unfold x; clear x)
    | (extract_lets +onlyGivenNames x; revert x; intro _) | with_reducible refine Keeps.tier (by assumption) (Sub.bit 10 rfl hp)

theorem State.tierNote_keeps {m : Nat} {s0 s : State} (h : Keeps m s0 s) (hp : Sub 0x8800006 m) (a1 a2 a3 a4 a5) : Keeps m s0 (State.tierNote s a1 a2 a3 a4 a5) := by
  unfold State.tierNote
  repeat' first | with_reducible assumption | exact hp.trans rfl | with_reducible apply State.record_keeps

theorem State.setUnit_keeps {m : Nat} {s0 s : State} (h : Keeps m s0 s) (hp : Sub 0x400 m) (a1 a2) : Keeps m s0 (State.setUnit s a1 a2) := by
  unfold State.setUnit
  repeat' first
    | with_reducible assumption | intro _
    | (extract_lets +onlyGivenNames x; refine Keeps.seq (m := m) (s0 := s0) x ?_ ?_; rotate_left; clear_value x; revert x; intro _ _; rotate_left; unfold x; clear x)
    | (extract_lets +onlyGivenNames x; revert x; intro _) | with_reducible refine Keeps.tier (by assumption) (Sub.bit 10 rfl hp)

theorem State.setBlock_keeps {m : Nat} {s0 s : State} (h : Keeps m s0 s) (hp : Sub 0x400 m) (a1 a2) : Keeps m s0 (State.setBlock s a1 a2) := by
  unfold State.setBlock
  repeat' first
    | with_reducible assumption | intro _
    | (extract_lets +onlyGivenNames x; refine Keeps.seq (m := m) (s0 := s0) x ?_ ?_; rotate_left; clear_value x; revert x; intro _ _; rotate_left; unfold x; clear x)
    | (extract_lets +onlyGivenNames x; revert x; intro _) | with_reducible refine Keeps.tier (by assumption) (Sub.bit 10 rfl hp)

theorem State.freeBlock_keeps {m : Nat} {s0 s : State} (h : Keeps m s0 s) (hp : Sub 0x400 m) (a1) : Keeps m s0 (State.freeBlock s a1) := by
  unfold State.freeBlock
  repeat' first
    | with_reducible assumption | exact hp.trans rfl | intro _
    | (extract_lets +onlyGivenNames x; refine Keeps.seq (m := m) (s0 := s0) x ?_ ?_; rotate_left; clear_value x; revert x; intro _ _; rotate_left; unfold x; clear x)
    | (extract_lets +onlyGivenNames x; revert x; intro _) | with_reducible apply State.setBlock_keeps

theorem State.objReadCount_keeps {m : Nat} {s0 s : State} (h : Keeps m s0 s) (hp : Sub 0x402 m) (a1 a2 a3 a4) : Keeps m s0 (State.objReadCount s a1 a2 a3 a4) := by
  unfold State.objReadCount
  repeat' first
    | with_reducible assumption | exact hp.trans rfl | intro _
    | (extract_lets +onlyGivenNames x; refine Keeps.seq (m := m) (s0 := s0) x ?_ ?_; rotate_left; clear_value x; revert x; intro _ _; rotate_left; unfold x; clear x)
    | (extract_lets +onlyGivenNames x; revert x; intro _) | with_reducible apply State.count_keeps
    | with_reducible apply State.setBlock_keeps | split | (clear_value *; split)

theorem State.setCmds_keeps {m : Nat} {s0 s : State} (h : Keeps m s0 s) (hp : Sub 0x400 m) (a1) : Keeps m s0 (State.setCmds s a1) := by
  unfold State.setCmds
  repeat' first
    | with_reducible assumption | intro _
    | (extract_lets +onlyGivenNames x; refine Keeps.seq (m := m) (s0 := s0) x ?_ ?_; rotate_left; clear_value x; revert x; intro _ _; rotate_left; unfold x; clear x)
    | (extract_lets +onlyGivenNames x; revert x; intro _) | with_reducible refine Keeps.tier (by assumption) (Sub.bit 10 rfl hp)

theorem State.setCmd_keeps {m : Nat} {s0 s : State} (h : Keeps m s0 s) (hp : Sub 0x400 m) (a1) : Keeps m s0 (State.setCmd s a1) := by
  unfold State.setCmd
  repeat' first | with_reducible assumption | exact hp.trans rfl | with_reducible apply State.setCmds_keeps | split

theorem State.endCmd_keeps {m : Nat} {s0 s : State} (h : Keeps m s0 s) (hp : Sub 0x400 m) (a1 a2) : Keeps m s0 (State.endCmd s a1 a2) := by
  unfold State.endCmd
  repeat' first | with_reducible assumption | exact hp.trans rfl | with_reducible apply State.setCmd_keeps

theorem State.tierReq_keeps {m : Nat} {s0 s : State} (h : Keeps m s0 s) (hp : Sub 0x10800000 m) (a1 a2 a3 a4 a5) : Keeps m s0 (State.tierReq s a1 a2 a3 a4 a5) := by
  unfold State.tierReq
  repeat' first | with_reducible assumption | exact hp.trans rfl | with_reducible apply State.issue_keeps

theorem State.pinPage_keeps {m : Nat} {s0 s : State} (h : Keeps m s0 s) (hp : Sub 0x8800416 m) (a1 a2) : Keeps m s0 (State.pinPage s a1 a2).1 := by
  unfold State.pinPage
  repeat' first
    | with_reducible assumption | exact hp.trans rfl | intro _
    | (extract_lets +onlyGivenNames x; refine Keeps.seq (m := m) (s0 := s0) x ?_ ?_; rotate_left; clear_value x; revert x; intro _ _; rotate_left; unfold x; clear x)
    | (extract_lets +onlyGivenNames x; refine Keeps.seq (m := m) (s0 := s0) x.1 ?_ ?_; rotate_left; clear_value x; revert x; intro _ _; rotate_left; unfold x; clear x)
    | (extract_lets +onlyGivenNames x; revert x; intro _) | with_reducible apply State.setFrame_keeps
    | with_reducible apply State.cacheTick_keeps | with_reducible apply State.count_keeps | with_reducible apply State.startWriteBack_keeps
    | with_reducible apply State.dropFrame_keeps | split | (clear_value *; split) | with_reducible refine Keeps.of_fst (by assumption) ?_

theorem State.pinPages_keeps {m : Nat} {s0 s : State} (h : Keeps m s0 s) (hp : Sub 0x8800416 m) (a1 a2) : Keeps m s0 (State.pinPages s a1 a2).1 := by
  induction a2 generalizing s a1 with
  | zero =>
    unfold State.pinPages
    repeat' first
      | with_reducible assumption | exact hp.trans rfl | intro _
      | (extract_lets +onlyGivenNames x; refine Keeps.seq (m := m) (s0 := s0) x ?_ ?_; rotate_left; clear_value x; revert x; intro _ _; rotate_left; unfold x; clear x)
      | (extract_lets +onlyGivenNames x; refine Keeps.seq (m := m) (s0 := s0) x.1 ?_ ?_; rotate_left; clear_value x; revert x; intro _ _; rotate_left; unfold x; clear x)
      | (extract_lets +onlyGivenNames x; revert x; intro _) | with_reducible apply State.pinPage_keeps | split | (clear_value *; split)
      | with_reducible refine Keeps.of_fst (by assumption) ?_
  | succ _ ih =>
    unfold State.pinPages
    repeat' first
      | with_reducible assumption | with_reducible apply ih | exact hp.trans rfl | intro _
      | (extract_lets +onlyGivenNames x; refine Keeps.seq (m := m) (s0 := s0) x ?_ ?_; rotate_left; clear_value x; revert x; intro _ _; rotate_left; unfold x; clear x)
      | (extract_lets +onlyGivenNames x; refine Keeps.seq (m := m) (s0 := s0) x.1 ?_ ?_; rotate_left; clear_value x; revert x; intro _ _; rotate_left; unfold x; clear x)
      | (extract_lets +onlyGivenNames x; revert x; intro _) | with_reducible apply State.pinPage_keeps | split | (clear_value *; split)
      | with_reducible refine Keeps.of_fst (by assumption) ?_

theorem State.pinStep_keeps {m : Nat} {s0 s : State} (h : Keeps m s0 s) (hp : Sub 0x8800416 m) (a1) : Keeps m s0 (State.pinStep s a1) := by
  unfold State.pinStep
  repeat' first
    | with_reducible assumption | exact hp.trans rfl | intro _
    | (extract_lets +onlyGivenNames x; refine Keeps.seq (m := m) (s0 := s0) x ?_ ?_; rotate_left; clear_value x; revert x; intro _ _; rotate_left; unfold x; clear x)
    | (extract_lets +onlyGivenNames x; refine Keeps.seq (m := m) (s0 := s0) x.1 ?_ ?_; rotate_left; clear_value x; revert x; intro _ _; rotate_left; unfold x; clear x)
    | (extract_lets +onlyGivenNames x; revert x; intro _) | with_reducible apply State.endCmd_keeps
    | with_reducible apply State.pinPages_keeps | with_reducible apply State.setCmd_keeps | split | (clear_value *; split)
    | with_reducible refine Keeps.of_fst (by assumption) ?_

theorem State.openImage_keeps {m : Nat} {s0 s : State} (h : Keeps m s0 s) (hp : Sub 0x400 m) (a1) : KeepsO m s0 (State.openImage s a1) := by
  unfold State.openImage
  repeat' first
    | with_reducible assumption | intro _
    | (extract_lets +onlyGivenNames x; refine Keeps.seq (m := m) (s0 := s0) x ?_ ?_; rotate_left; clear_value x; revert x; intro _ _; rotate_left; unfold x; clear x)
    | (extract_lets +onlyGivenNames x; revert x; intro _) | with_reducible apply KeepsO.some_ | with_reducible apply KeepsO.none_
    | with_reducible apply KeepsO.getD | with_reducible refine KeepsO.get (by assumption) ?_ | split | (clear_value *; split)
    | with_reducible refine Keeps.tier (by assumption) (Sub.bit 10 rfl hp)

theorem State.tierStep_keeps {m : Nat} {s0 s : State} (h : Keeps m s0 s) (hp : Sub 0x18800416 m) (a1) : Keeps m s0 (State.tierStep s a1) := by
  unfold State.tierStep
  repeat' first
    | with_reducible assumption | exact hp.trans rfl | intro _
    | (extract_lets +onlyGivenNames x; refine Keeps.seq (m := m) (s0 := s0) x ?_ ?_; rotate_left; clear_value x; revert x; intro _ _; rotate_left; unfold x; clear x)
    | (extract_lets +onlyGivenNames x; revert x; intro _) | with_reducible apply State.openImage_keeps
    | with_reducible apply State.tierReq_keeps | with_reducible apply State.setCmd_keeps | with_reducible apply State.endCmd_keeps
    | with_reducible apply State.objReadCount_keeps | with_reducible apply State.pinStep_keeps | with_reducible apply KeepsO.some_
    | with_reducible apply KeepsO.none_ | with_reducible apply KeepsO.getD | with_reducible refine KeepsO.get (by assumption) ?_ | split
    | (clear_value *; split)

theorem State.setObj_keeps {m : Nat} {s0 s : State} (h : Keeps m s0 s) (hp : Sub 0x400 m) (a1 a2) : Keeps m s0 (State.setObj s a1 a2) := by
  unfold State.setObj
  repeat' first
    | with_reducible assumption | intro _
    | (extract_lets +onlyGivenNames x; refine Keeps.seq (m := m) (s0 := s0) x ?_ ?_; rotate_left; clear_value x; revert x; intro _ _; rotate_left; unfold x; clear x)
    | (extract_lets +onlyGivenNames x; revert x; intro _) | with_reducible refine Keeps.tier (by assumption) (Sub.bit 10 rfl hp)

theorem State.startCreate_keeps {m : Nat} {s0 s : State} (h : Keeps m s0 s) (hp : Sub 0x1000402 m) (a1) : Keeps m s0 (State.startCreate s a1) := by
  unfold State.startCreate
  repeat' first
    | with_reducible assumption | exact hp.trans rfl | intro _
    | (extract_lets +onlyGivenNames x; refine Keeps.seq (m := m) (s0 := s0) x ?_ ?_; rotate_left; clear_value x; revert x; intro _ _; rotate_left; unfold x; clear x)
    | (extract_lets +onlyGivenNames x; revert x; intro _) | with_reducible apply State.count_keeps | with_reducible apply State.endCmd_keeps
    | with_reducible apply State.setCmd_keeps | with_reducible apply State.setObj_keeps | split | (clear_value *; split)
    | with_reducible refine Keeps.sec (by assumption) (Sub.bit 24 rfl hp)

theorem State.tierStart_keeps {m : Nat} {s0 s : State} (h : Keeps m s0 s) (hp : Sub 0x19810416 m) (a1) : Keeps m s0 (State.tierStart s a1) := by
  unfold State.tierStart
  repeat' first
    | with_reducible assumption | exact hp.trans rfl | intro _
    | (extract_lets +onlyGivenNames x; refine Keeps.seq (m := m) (s0 := s0) x ?_ ?_; rotate_left; clear_value x; revert x; intro _ _; rotate_left; unfold x; clear x)
    | (extract_lets +onlyGivenNames x; revert x; intro _) | with_reducible apply State.count_keeps | with_reducible apply State.endCmd_keeps
    | with_reducible apply State.startCreate_keeps | with_reducible apply State.setCmd_keeps | with_reducible apply State.squash_keeps
    | with_reducible apply State.setObj_keeps | with_reducible apply State.tierStep_keeps | with_reducible apply State.startWriteBack_keeps
    | with_reducible apply State.setFrame_keeps | with_reducible apply Keeps.foldl | with_reducible apply Keeps.foldl_fst | split
    | (clear_value *; split)

theorem State.tierPump_keeps {m : Nat} {s0 s : State} (h : Keeps m s0 s) (hp : Sub 0x19810416 m) : Keeps m s0 (State.tierPump s) := by
  unfold State.tierPump
  repeat' first
    | with_reducible assumption | exact hp.trans rfl | intro _ | with_reducible apply State.tierStart_keeps
    | with_reducible apply Keeps.foldl | with_reducible apply Keeps.foldl_fst | split

theorem State.tierQueue_keeps {m : Nat} {s0 s : State} (h : Keeps m s0 s) (hp : Sub 0x19810416 m) (a1 a2) : Keeps m s0 (State.tierQueue s a1 a2) := by
  unfold State.tierQueue
  repeat' first
    | with_reducible assumption | exact hp.trans rfl | intro _
    | (extract_lets +onlyGivenNames x; refine Keeps.seq (m := m) (s0 := s0) x ?_ ?_; rotate_left; clear_value x; revert x; intro _ _; rotate_left; unfold x; clear x)
    | (extract_lets +onlyGivenNames x; revert x; intro _) | with_reducible apply State.tierPump_keeps
    | with_reducible apply State.complete_keeps | with_reducible apply State.setCmds_keeps

theorem State.tierDoor_keeps {m : Nat} {s0 s : State} (h : Keeps m s0 s) (hp : Sub 0x19810416 m) (a1 a2) : Keeps m s0 (State.tierDoor s a1 a2) := by
  unfold State.tierDoor
  repeat' first
    | with_reducible assumption | exact hp.trans rfl | intro _
    | (extract_lets +onlyGivenNames x; refine Keeps.seq (m := m) (s0 := s0) x ?_ ?_; rotate_left; clear_value x; revert x; intro _ _; rotate_left; unfold x; clear x)
    | (extract_lets +onlyGivenNames x; revert x; intro _) | with_reducible apply State.tick_keeps
    | with_reducible apply State.complete_keeps | with_reducible apply State.tierQueue_keeps | with_reducible apply State.holdDoor_keeps
    | split | (clear_value *; split)

theorem execOcreate_keeps {m : Nat} {s0 s : State} (h : Keeps m s0 s) (hp : Sub 0x19810416 m) (a1) : Ends m s0 (execOcreate a1 s) := by
  unfold execOcreate
  repeat' first
    | with_reducible assumption | exact hp.trans rfl | with_reducible apply State.tierDoor_keeps | with_reducible apply Ends.next

theorem execOdelete_keeps {m : Nat} {s0 s : State} (h : Keeps m s0 s) (hp : Sub 0x19810416 m) (a1) : Ends m s0 (execOdelete a1 s) := by
  unfold execOdelete
  repeat' first
    | with_reducible assumption | exact hp.trans rfl | with_reducible apply State.tierDoor_keeps | with_reducible apply Ends.next

theorem execOwrite_keeps {m : Nat} {s0 s : State} (h : Keeps m s0 s) (hp : Sub 0x19810416 m) (a1) : Ends m s0 (execOwrite a1 s) := by
  unfold execOwrite
  repeat' first
    | with_reducible assumption | exact hp.trans rfl | with_reducible apply State.tierDoor_keeps | with_reducible apply Ends.next

theorem execOread_keeps {m : Nat} {s0 s : State} (h : Keeps m s0 s) (hp : Sub 0x19810416 m) (a1) : Ends m s0 (execOread a1 s) := by
  unfold execOread
  repeat' first
    | with_reducible assumption | exact hp.trans rfl | with_reducible apply State.tierDoor_keeps | with_reducible apply Ends.next

theorem execCopy_keeps {m : Nat} {s0 s : State} (h : Keeps m s0 s) (hp : Sub 0x19810416 m) (a1) : Ends m s0 (execCopy a1 s) := by
  unfold execCopy
  repeat' first
    | with_reducible assumption | exact hp.trans rfl | with_reducible apply State.tierDoor_keeps | with_reducible apply Ends.next

theorem execFlush_keeps {m : Nat} {s0 s : State} (h : Keeps m s0 s) (hp : Sub 0x19810416 m) (a1) : Ends m s0 (execFlush a1 s) := by
  unfold execFlush
  repeat' first
    | with_reducible assumption | exact hp.trans rfl | with_reducible apply State.tierDoor_keeps | with_reducible apply Ends.next

theorem execPin_keeps {m : Nat} {s0 s : State} (h : Keeps m s0 s) (hp : Sub 0x19810416 m) (a1) : Ends m s0 (execPin a1 s) := by
  unfold execPin
  repeat' first
    | with_reducible assumption | exact hp.trans rfl | with_reducible apply State.tierDoor_keeps | with_reducible apply Ends.next

theorem execUnpin_keeps {m : Nat} {s0 s : State} (h : Keeps m s0 s) (hp : Sub 0x19810416 m) (a1) : Ends m s0 (execUnpin a1 s) := by
  unfold execUnpin
  repeat' first
    | with_reducible assumption | exact hp.trans rfl | with_reducible apply State.tierDoor_keeps | with_reducible apply Ends.next

theorem execOquery_keeps {m : Nat} {s0 s : State} (h : Keeps m s0 s) (hp : Sub 0x19810416 m) (a1) : Ends m s0 (execOquery a1 s) := by
  unfold execOquery
  repeat' first
    | with_reducible assumption | exact hp.trans rfl | with_reducible apply State.tierDoor_keeps | with_reducible apply Ends.next

theorem State.dropImages_keeps {m : Nat} {s0 s : State} (h : Keeps m s0 s) (hp : Sub 0x400 m) (a1) : Keeps m s0 (State.dropImages s a1) := by
  unfold State.dropImages
  repeat' first
    | with_reducible assumption | exact hp.trans rfl | intro _
    | (extract_lets +onlyGivenNames x; refine Keeps.seq (m := m) (s0 := s0) x ?_ ?_; rotate_left; clear_value x; revert x; intro _ _; rotate_left; unfold x; clear x)
    | (extract_lets +onlyGivenNames x; revert x; intro _) | with_reducible apply State.freeBlock_keeps | with_reducible apply Keeps.foldl
    | with_reducible apply Keeps.foldl_fst | with_reducible refine Keeps.tier (by assumption) (Sub.bit 10 rfl hp)

theorem State.imagePage_keeps {m : Nat} {s0 s : State} (h : Keeps m s0 s) (hp : Sub 0x400 m) (a1 a2 a3) : Keeps m s0 (State.imagePage s a1 a2 a3) := by
  unfold State.imagePage
  repeat' first
    | with_reducible assumption | intro _
    | (extract_lets +onlyGivenNames x; refine Keeps.seq (m := m) (s0 := s0) x ?_ ?_; rotate_left; clear_value x; revert x; intro _ _; rotate_left; unfold x; clear x)
    | (extract_lets +onlyGivenNames x; revert x; intro _) | split | (clear_value *; split)
    | with_reducible refine Keeps.tier (by assumption) (Sub.bit 10 rfl hp)

theorem State.tierCmp_keeps {m : Nat} {s0 s : State} (h : Keeps m s0 s) (hp : Sub 0x19810416 m) (a1 a2 a3) : Keeps m s0 (State.tierCmp s a1 a2 a3) := by
  unfold State.tierCmp
  repeat' first
    | with_reducible assumption | exact hp.trans rfl | intro _
    | (extract_lets +onlyGivenNames x; refine Keeps.seq (m := m) (s0 := s0) x ?_ ?_; rotate_left; clear_value x; revert x; intro _ _; rotate_left; unfold x; clear x)
    | (extract_lets +onlyGivenNames x; revert x; intro _) | with_reducible apply State.setCmd_keeps
    | with_reducible apply State.tierPump_keeps | with_reducible apply State.endCmd_keeps | with_reducible apply State.dropImages_keeps
    | with_reducible apply State.tierReq_keeps | with_reducible apply State.imagePage_keeps | with_reducible apply State.tierStep_keeps
    | split | (clear_value *; split)

theorem State.unitSwitch_keeps {m : Nat} {s0 s : State} (h : Keeps m s0 s) (hp : Sub 0x400 m) (a1 a2) : Keeps m s0 (State.unitSwitch s a1 a2) := by
  unfold State.unitSwitch
  repeat' first
    | with_reducible assumption | exact hp.trans rfl | intro _
    | (extract_lets +onlyGivenNames x; refine Keeps.seq (m := m) (s0 := s0) x ?_ ?_; rotate_left; clear_value x; revert x; intro _ _; rotate_left; unfold x; clear x)
    | (extract_lets +onlyGivenNames x; revert x; intro _) | with_reducible apply State.freeBlock_keeps
    | with_reducible apply State.setUnit_keeps | split | (clear_value *; split)
    | with_reducible refine Keeps.tier (by assumption) (Sub.bit 10 rfl hp)

theorem State.unitDone_keeps {m : Nat} {s0 s : State} (h : Keeps m s0 s) (hp : Sub 0x19810416 m) (a1) : Keeps m s0 (State.unitDone s a1) := by
  unfold State.unitDone
  repeat' first
    | with_reducible assumption | exact hp.trans rfl | intro _
    | (extract_lets +onlyGivenNames x; refine Keeps.seq (m := m) (s0 := s0) x ?_ ?_; rotate_left; clear_value x; revert x; intro _ _; rotate_left; unfold x; clear x)
    | (extract_lets +onlyGivenNames x; revert x; intro _) | with_reducible apply State.squash_keeps | with_reducible apply State.count_keeps
    | with_reducible apply State.tick_keeps | with_reducible apply State.unitSwitch_keeps | with_reducible apply State.tierPump_keeps
    | with_reducible apply State.tierStep_keeps | split | (clear_value *; split)

theorem execUnitProgramDone_keeps {m : Nat} {s0 s : State} (h : Keeps m s0 s) (hp : Sub 0x19810416 m) (a1) : Ends m s0 (execUnitProgramDone a1 s) := by
  unfold execUnitProgramDone
  repeat' first
    | with_reducible assumption | exact hp.trans rfl | with_reducible apply State.unitDone_keeps | with_reducible apply Ends.next

theorem State.dropObj_keeps {m : Nat} {s0 s : State} (h : Keeps m s0 s) (hp : Sub 0x400 m) (a1) : Keeps m s0 (State.dropObj s a1) := by
  unfold State.dropObj
  repeat' first
    | with_reducible assumption | exact hp.trans rfl | intro _
    | (extract_lets +onlyGivenNames x; refine Keeps.seq (m := m) (s0 := s0) x ?_ ?_; rotate_left; clear_value x; revert x; intro _ _; rotate_left; unfold x; clear x)
    | (extract_lets +onlyGivenNames x; revert x; intro _) | with_reducible apply State.freeBlock_keeps | with_reducible apply Keeps.foldl
    | with_reducible apply Keeps.foldl_fst | with_reducible refine Keeps.tier (by assumption) (Sub.bit 10 rfl hp)

theorem State.tierFinish_keeps {m : Nat} {s0 s : State} (h : Keeps m s0 s) (hp : Sub 0x400 m) (a1) : Keeps m s0 (State.tierFinish s a1) := by
  unfold State.tierFinish
  repeat' first
    | with_reducible assumption | exact hp.trans rfl | with_reducible apply State.endCmd_keeps | with_reducible apply State.setObj_keeps
    | with_reducible apply State.dropObj_keeps | split

theorem State.tierEnd_keeps {m : Nat} {s0 s : State} (h : Keeps m s0 s) (hp : Sub 0x10800402 m) (a1) : Keeps m s0 (State.tierEnd s a1) := by
  unfold State.tierEnd
  repeat' first
    | with_reducible assumption | exact hp.trans rfl | intro _
    | (extract_lets +onlyGivenNames x; refine Keeps.seq (m := m) (s0 := s0) x ?_ ?_; rotate_left; clear_value x; revert x; intro _ _; rotate_left; unfold x; clear x)
    | (extract_lets +onlyGivenNames x; revert x; intro _) | with_reducible apply State.tierFinish_keeps
    | with_reducible apply State.count_keeps | with_reducible apply State.issue_keeps | with_reducible apply State.setCmd_keeps | split
    | (clear_value *; split)

theorem execTierCommandEnd_keeps {m : Nat} {s0 s : State} (h : Keeps m s0 s) (hp : Sub 0x10800402 m) (a1) : Ends m s0 (execTierCommandEnd a1 s) := by
  unfold execTierCommandEnd
  repeat' first | with_reducible assumption | exact hp.trans rfl | with_reducible apply State.tierEnd_keeps | with_reducible apply Ends.next

theorem State.tierRecorded_keeps {m : Nat} {s0 s : State} (h : Keeps m s0 s) (hp : Sub 0x19810516 m) (a1 a2) : Keeps m s0 (State.tierRecorded s a1 a2) := by
  unfold State.tierRecorded
  repeat' first
    | with_reducible assumption | exact hp.trans rfl | intro _
    | (extract_lets +onlyGivenNames x; refine Keeps.seq (m := m) (s0 := s0) x ?_ ?_; rotate_left; clear_value x; revert x; intro _ _; rotate_left; unfold x; clear x)
    | (extract_lets +onlyGivenNames x; revert x; intro _) | with_reducible apply State.setCmds_keeps
    | with_reducible apply State.srelLocal_keeps | with_reducible apply State.record_keeps | with_reducible apply State.tierPump_keeps
    | split | (clear_value *; split)

theorem State.checkSpare_keeps {m : Nat} {s0 s : State} (h : Keeps m s0 s) (hp : Sub 0x8800006 m) : Keeps m s0 (State.checkSpare s) := by
  unfold State.checkSpare
  repeat' first
    | with_reducible assumption | exact hp.trans rfl | intro _
    | (extract_lets +onlyGivenNames x; refine Keeps.seq (m := m) (s0 := s0) x ?_ ?_; rotate_left; clear_value x; revert x; intro _ _; rotate_left; unfold x; clear x)
    | (extract_lets +onlyGivenNames x; revert x; intro _) | with_reducible apply State.setBit_keeps
    | with_reducible apply State.tierNote_keeps | split | (clear_value *; split)

theorem State.mountStart_keeps {m : Nat} {s0 s : State} (h : Keeps m s0 s) (hp : Sub 0x8800006 m) (a1) : Keeps m s0 (State.mountStart s a1) := by
  unfold State.mountStart
  repeat' first
    | with_reducible assumption | exact hp.trans rfl | intro _
    | (extract_lets +onlyGivenNames x; refine Keeps.seq (m := m) (s0 := s0) x ?_ ?_; rotate_left; clear_value x; revert x; intro _ _; rotate_left; unfold x; clear x)
    | (extract_lets +onlyGivenNames x; revert x; intro _) | with_reducible apply State.cfgDo_keeps | with_reducible apply State.setFld_keeps
    | with_reducible apply State.tick_keeps | with_reducible apply State.refuseEnable_keeps | with_reducible apply State.setBit_keeps
    | split | (clear_value *; split)

theorem execTlMountStart_keeps {m : Nat} {s0 s : State} (h : Keeps m s0 s) (hp : Sub 0x8800006 m) (a1) : Ends m s0 (execTlMountStart a1 s) := by
  unfold execTlMountStart
  repeat' first
    | with_reducible assumption | exact hp.trans rfl | with_reducible apply State.mountStart_keeps | with_reducible apply Ends.next

theorem State.mountDone_keeps {m : Nat} {s0 s : State} (h : Keeps m s0 s) (hp : Sub 0x19810416 m) (a1) : Keeps m s0 (State.mountDone s a1) := by
  unfold State.mountDone
  repeat' first
    | with_reducible assumption | exact hp.trans rfl | intro _
    | (extract_lets +onlyGivenNames x; refine Keeps.seq (m := m) (s0 := s0) x ?_ ?_; rotate_left; clear_value x; revert x; intro _ _; rotate_left; unfold x; clear x)
    | (extract_lets +onlyGivenNames x; revert x; intro _) | with_reducible apply State.tierPump_keeps
    | with_reducible apply State.checkSpare_keeps | with_reducible apply State.setBit_keeps | split | (clear_value *; split)
    | with_reducible refine Keeps.tier (by assumption) (Sub.bit 10 rfl hp)

theorem State.loseCmd_keeps {m : Nat} {s0 s : State} (h : Keeps m s0 s) (hp : Sub 0x408 m) (a1) : Keeps m s0 (State.loseCmd s a1) := by
  unfold State.loseCmd
  repeat' first
    | with_reducible assumption | exact hp.trans rfl | intro _
    | (extract_lets +onlyGivenNames x; refine Keeps.seq (m := m) (s0 := s0) x ?_ ?_; rotate_left; clear_value x; revert x; intro _ _; rotate_left; unfold x; clear x)
    | (extract_lets +onlyGivenNames x; revert x; intro _) | with_reducible apply State.dropImages_keeps
    | with_reducible apply State.endCmd_keeps | with_reducible apply State.took_keeps | with_reducible apply State.setObj_keeps
    | with_reducible apply State.dropObj_keeps | split | (clear_value *; split)

theorem State.loseCmds_keeps {m : Nat} {s0 s : State} (h : Keeps m s0 s) (hp : Sub 0x408 m) (a1) : Keeps m s0 (State.loseCmds s a1) := by
  unfold State.loseCmds
  repeat' first
    | with_reducible assumption | exact hp.trans rfl | intro _ | with_reducible apply State.loseCmd_keeps | with_reducible apply Keeps.foldl
    | with_reducible apply Keeps.foldl_fst | split

theorem State.loseT2Cmds_keeps {m : Nat} {s0 s : State} (h : Keeps m s0 s) (hp : Sub 0x408 m) : Keeps m s0 (State.loseT2Cmds s) := by
  unfold State.loseT2Cmds
  repeat' first | with_reducible assumption | exact hp.trans rfl | with_reducible apply State.loseCmds_keeps

theorem State.mapLost_keeps {m : Nat} {s0 s : State} (h : Keeps m s0 s) (hp : Sub 0x1981041e m) : Keeps m s0 (State.mapLost s) := by
  unfold State.mapLost
  repeat' first
    | with_reducible assumption | exact hp.trans rfl | intro _
    | (extract_lets +onlyGivenNames x; refine Keeps.seq (m := m) (s0 := s0) x ?_ ?_; rotate_left; clear_value x; revert x; intro _ _; rotate_left; unfold x; clear x)
    | (extract_lets +onlyGivenNames x; revert x; intro _) | with_reducible apply State.setBit_keeps
    | with_reducible apply State.tierPump_keeps | with_reducible apply State.tierNote_keeps | with_reducible apply State.loseT2Cmds_keeps
    | split | (clear_value *; split)

theorem execTlMapLost_keeps {m : Nat} {s0 s : State} (h : Keeps m s0 s) (hp : Sub 0x1981041e m) : Ends m s0 (execTlMapLost s) := by
  unfold execTlMapLost
  repeat' first | with_reducible assumption | exact hp.trans rfl | with_reducible apply State.mapLost_keeps | with_reducible apply Ends.next

theorem State.migrate_keeps {m : Nat} {s0 s : State} (h : Keeps m s0 s) (hp : Sub 0x404 m) (a1 a2) : Keeps m s0 (State.migrate s a1 a2) := by
  unfold State.migrate
  repeat' first
    | with_reducible assumption | exact hp.trans rfl | intro _
    | (extract_lets +onlyGivenNames x; refine Keeps.seq (m := m) (s0 := s0) x ?_ ?_; rotate_left; clear_value x; revert x; intro _ _; rotate_left; unfold x; clear x)
    | (extract_lets +onlyGivenNames x; revert x; intro _) | with_reducible apply State.freeBlock_keeps
    | with_reducible apply State.tick_keeps | split | (clear_value *; split)
    | with_reducible refine Keeps.tier (by assumption) (Sub.bit 10 rfl hp)

theorem State.wearLevel_keeps {m : Nat} {s0 s : State} (h : Keeps m s0 s) (hp : Sub 0x406 m) (a1 a2) : Keeps m s0 (State.wearLevel s a1 a2) := by
  unfold State.wearLevel
  repeat' first
    | with_reducible assumption | exact hp.trans rfl | intro _
    | (extract_lets +onlyGivenNames x; refine Keeps.seq (m := m) (s0 := s0) x ?_ ?_; rotate_left; clear_value x; revert x; intro _ _; rotate_left; unfold x; clear x)
    | (extract_lets +onlyGivenNames x; revert x; intro _) | with_reducible apply State.count_keeps
    | with_reducible apply State.migrate_keeps | split | (clear_value *; split)

theorem execWearLevelMigration_keeps {m : Nat} {s0 s : State} (h : Keeps m s0 s) (hp : Sub 0x800406 m) (a1 a2) : Ends m s0 (execWearLevelMigration a1 a2 s) := by
  unfold execWearLevelMigration
  repeat' first
    | with_reducible assumption | exact hp.trans rfl | intro _ | with_reducible apply State.onFirmware_keeps
    | with_reducible apply State.wearLevel_keeps | with_reducible apply Ends.next

theorem State.refresh_keeps {m : Nat} {s0 s : State} (h : Keeps m s0 s) (hp : Sub 0x406 m) (a1 a2) : Keeps m s0 (State.refresh s a1 a2) := by
  unfold State.refresh
  repeat' first
    | with_reducible assumption | exact hp.trans rfl | intro _
    | (extract_lets +onlyGivenNames x; refine Keeps.seq (m := m) (s0 := s0) x ?_ ?_; rotate_left; clear_value x; revert x; intro _ _; rotate_left; unfold x; clear x)
    | (extract_lets +onlyGivenNames x; revert x; intro _) | with_reducible apply State.count_keeps
    | with_reducible apply State.migrate_keeps | with_reducible apply State.setBlock_keeps | split | (clear_value *; split)

theorem execRefreshMigration_keeps {m : Nat} {s0 s : State} (h : Keeps m s0 s) (hp : Sub 0x800406 m) (a1 a2) : Ends m s0 (execRefreshMigration a1 a2 s) := by
  unfold execRefreshMigration
  repeat' first
    | with_reducible assumption | exact hp.trans rfl | intro _ | with_reducible apply State.onFirmware_keeps
    | with_reducible apply State.refresh_keeps | with_reducible apply Ends.next

theorem State.retireBlock_keeps {m : Nat} {s0 s : State} (h : Keeps m s0 s) (hp : Sub 0x8800406 m) (a1 a2) : Keeps m s0 (State.retireBlock s a1 a2) := by
  unfold State.retireBlock
  repeat' first
    | with_reducible assumption | exact hp.trans rfl | intro _
    | (extract_lets +onlyGivenNames x; refine Keeps.seq (m := m) (s0 := s0) x ?_ ?_; rotate_left; clear_value x; revert x; intro _ _; rotate_left; unfold x; clear x)
    | (extract_lets +onlyGivenNames x; revert x; intro _) | with_reducible apply State.checkSpare_keeps
    | with_reducible apply State.count_keeps | with_reducible apply State.setBlock_keeps | split | (clear_value *; split)
    | with_reducible refine Keeps.tier (by assumption) (Sub.bit 10 rfl hp)

theorem execBlockRetire_keeps {m : Nat} {s0 s : State} (h : Keeps m s0 s) (hp : Sub 0x8800406 m) (a1 a2) : Ends m s0 (execBlockRetire a1 a2 s) := by
  unfold execBlockRetire
  repeat' first
    | with_reducible assumption | exact hp.trans rfl | with_reducible apply State.retireBlock_keeps | with_reducible apply Ends.next

theorem State.resumeWrites_keeps {m : Nat} {s0 s : State} (h : Keeps m s0 s) (hp : Sub 0x19810416 m) : Keeps m s0 (State.resumeWrites s) := by
  unfold State.resumeWrites
  repeat' first
    | with_reducible assumption | exact hp.trans rfl | intro _ | with_reducible apply State.tierPump_keeps
    | with_reducible apply State.tierStep_keeps | with_reducible apply Keeps.foldl | with_reducible apply Keeps.foldl_fst | split

theorem State.eraseDone_keeps {m : Nat} {s0 s : State} (h : Keeps m s0 s) (hp : Sub 0x19810416 m) (a1) : Keeps m s0 (State.eraseDone s a1) := by
  unfold State.eraseDone
  repeat' first
    | with_reducible assumption | exact hp.trans rfl | intro _
    | (extract_lets +onlyGivenNames x; refine Keeps.seq (m := m) (s0 := s0) x ?_ ?_; rotate_left; clear_value x; revert x; intro _ _; rotate_left; unfold x; clear x)
    | (extract_lets +onlyGivenNames x; revert x; intro _) | with_reducible apply State.resumeWrites_keeps
    | with_reducible apply State.setBlock_keeps | split | (clear_value *; split)

theorem execBackgroundEraseDone_keeps {m : Nat} {s0 s : State} (h : Keeps m s0 s) (hp : Sub 0x19810416 m) (a1) : Ends m s0 (execBackgroundEraseDone a1 s) := by
  unfold execBackgroundEraseDone
  repeat' first
    | with_reducible assumption | exact hp.trans rfl | with_reducible apply State.eraseDone_keeps | with_reducible apply Ends.next

theorem State.homeSteps_keeps {m : Nat} {s0 s : State} (h : Keeps m s0 s) (hp : Sub 0x4 m) : Keeps m s0 (State.homeSteps s) := by
  unfold State.homeSteps
  repeat' first
    | with_reducible assumption | exact hp.trans rfl | intro _ | with_reducible apply State.tick_keeps | with_reducible apply Keeps.foldl
    | with_reducible apply Keeps.foldl_fst

theorem State.weSteps_keeps {m : Nat} {s0 s : State} (h : Keeps m s0 s) (hp : Sub 0x4 m) (a1) : Keeps m s0 (State.weSteps s a1) := by
  unfold State.weSteps
  repeat' first | with_reducible assumption | exact hp.trans rfl | with_reducible apply State.homeSteps_keeps | split

theorem execCommitT1We_keeps {m : Nat} {s0 s : State} (h : Keeps m s0 s) (hp : Sub 0x6 m) (a1) : Ends m s0 (execCommitT1We a1 s) := by
  unfold execCommitT1We
  repeat' first
    | with_reducible assumption | exact hp.trans rfl | intro _ | with_reducible apply State.cfgDo_keeps
    | with_reducible apply State.weSteps_keeps | with_reducible apply State.setBit_keeps | with_reducible apply Ends.next

theorem State.commitT2_keeps {m : Nat} {s0 s : State} (h : Keeps m s0 s) (hp : Sub 0x2 m) (a1) : Keeps m s0 (State.commitT2 s a1) := by
  unfold State.commitT2
  repeat' first | with_reducible assumption | exact hp.trans rfl | with_reducible apply State.setBit_keeps | split

theorem execCommitT2We_keeps {m : Nat} {s0 s : State} (h : Keeps m s0 s) (hp : Sub 0x6 m) (a1) : Ends m s0 (execCommitT2We a1 s) := by
  unfold execCommitT2We
  repeat' first
    | with_reducible assumption | exact hp.trans rfl | intro _ | with_reducible apply State.cfgDo_keeps
    | with_reducible apply State.weSteps_keeps | with_reducible apply State.commitT2_keeps | with_reducible apply Ends.next

theorem State.tqLimitWrite_keeps {m : Nat} {s0 s : State} (h : Keeps m s0 s) (hp : Sub 0x406 m) (a1) : Keeps m s0 (State.tqLimitWrite s a1) := by
  unfold State.tqLimitWrite
  repeat' first
    | with_reducible assumption | exact hp.trans rfl | intro _
    | (extract_lets +onlyGivenNames x; refine Keeps.seq (m := m) (s0 := s0) x ?_ ?_; rotate_left; clear_value x; revert x; intro _ _; rotate_left; unfold x; clear x)
    | (extract_lets +onlyGivenNames x; revert x; intro _) | with_reducible apply State.cfgDo_keeps | with_reducible apply State.setBit_keeps
    | with_reducible apply Keeps.foldl | with_reducible apply Keeps.foldl_fst | split | (clear_value *; split)
    | with_reducible refine Keeps.tier (by assumption) (Sub.bit 10 rfl hp)

theorem execTqLimitWrite_keeps {m : Nat} {s0 s : State} (h : Keeps m s0 s) (hp : Sub 0x406 m) (a1) : Ends m s0 (execTqLimitWrite a1 s) := by
  unfold execTqLimitWrite
  repeat' first
    | with_reducible assumption | exact hp.trans rfl | with_reducible apply State.tqLimitWrite_keeps | with_reducible apply Ends.next

theorem State.frameDone_keeps {m : Nat} {s0 s : State} (h : Keeps m s0 s) (hp : Sub 0x19810416 m) (a1) : Keeps m s0 (State.frameDone s a1) := by
  unfold State.frameDone
  repeat' first
    | with_reducible assumption | exact hp.trans rfl | intro _ | with_reducible apply State.tierPump_keeps
    | with_reducible apply State.tierStep_keeps | with_reducible apply Keeps.foldl | with_reducible apply Keeps.foldl_fst | split

theorem State.frameGone_keeps {m : Nat} {s0 s : State} (h : Keeps m s0 s) (hp : Sub 0x19810416 m) (a1) : Keeps m s0 (State.frameGone s a1) := by
  unfold State.frameGone
  repeat' first
    | with_reducible assumption | exact hp.trans rfl | intro _ | with_reducible apply State.tierPump_keeps
    | with_reducible apply State.tierStep_keeps | with_reducible apply Keeps.foldl | with_reducible apply Keeps.foldl_fst | split

theorem State.frameMoves_keeps {m : Nat} {s0 s : State} (h : Keeps m s0 s) (hp : Sub 0x18851496 m) (a1 a2) : Keeps m s0 (State.frameMoves s a1 a2) := by
  unfold State.frameMoves
  repeat' first
    | with_reducible assumption | exact hp.trans rfl | intro _
    | (extract_lets +onlyGivenNames x; refine Keeps.seq (m := m) (s0 := s0) x ?_ ?_; rotate_left; clear_value x; revert x; intro _ _; rotate_left; unfold x; clear x)
    | (extract_lets +onlyGivenNames x; revert x; intro _) | with_reducible apply State.advance_keeps
    | with_reducible apply State.setTxn_keeps | with_reducible apply State.memReadDone_keeps | split | (clear_value *; split)

theorem State.framesMove_keeps {m : Nat} {s0 s : State} (h : Keeps m s0 s) (hp : Sub 0x18851496 m) : Keeps m s0 (State.framesMove s) := by
  unfold State.framesMove
  repeat' first
    | with_reducible assumption | exact hp.trans rfl | intro _ | with_reducible apply State.frameMoves_keeps
    | with_reducible apply Keeps.foldl | with_reducible apply Keeps.foldl_fst

theorem State.fillDone_keeps {m : Nat} {s0 s : State} (h : Keeps m s0 s) (hp : Sub 0x1985149e m) (a1) : Keeps m s0 (State.fillDone s a1) := by
  unfold State.fillDone
  repeat' first
    | with_reducible assumption | exact hp.trans rfl | intro _
    | (extract_lets +onlyGivenNames x; refine Keeps.seq (m := m) (s0 := s0) x ?_ ?_; rotate_left; clear_value x; revert x; intro _ _; rotate_left; unfold x; clear x)
    | (extract_lets +onlyGivenNames x; revert x; intro _) | with_reducible apply State.poisonLine_keeps
    | with_reducible apply State.verify_keeps | with_reducible apply State.setFrame_keeps | with_reducible apply State.framesMove_keeps
    | with_reducible apply State.frameDone_keeps | with_reducible apply State.memServe_keeps | with_reducible apply Keeps.foldl
    | with_reducible apply Keeps.foldl_fst | split | (clear_value *; split)
    | with_reducible refine Keeps.cells (by assumption) (by first | exact wf_memWrite _ _ _) (Sub.bit 4 rfl hp)
    | with_reducible refine Keeps.mem (by assumption) rfl (Sub.bit 4 rfl hp)

theorem execCacheFillDone_keeps {m : Nat} {s0 s : State} (h : Keeps m s0 s) (hp : Sub 0x1985149e m) (a1) : Ends m s0 (execCacheFillDone a1 s) := by
  unfold execCacheFillDone
  repeat' first
    | with_reducible assumption | exact hp.trans rfl | with_reducible apply State.fillDone_keeps | with_reducible apply Ends.next

theorem State.serveHeld_keeps {m : Nat} {s0 s : State} (h : Keeps m s0 s) (hp : Sub 0x1885149e m) (a1) : Keeps m s0 (State.serveHeld s a1) := by
  unfold State.serveHeld
  repeat' first
    | with_reducible assumption | exact hp.trans rfl | intro _
    | (extract_lets +onlyGivenNames x; refine Keeps.seq (m := m) (s0 := s0) x ?_ ?_; rotate_left; clear_value x; revert x; intro _ _; rotate_left; unfold x; clear x)
    | (extract_lets +onlyGivenNames x; revert x; intro _) | with_reducible apply State.memServe_keeps | with_reducible apply Keeps.foldl
    | with_reducible apply Keeps.foldl_fst | with_reducible refine Keeps.tier (by assumption) (Sub.bit 10 rfl hp)

theorem State.retryHeld_keeps {m : Nat} {s0 s : State} (h : Keeps m s0 s) (hp : Sub 0x1885149e m) (a1) : Keeps m s0 (State.retryHeld s a1) := by
  unfold State.retryHeld
  repeat' first | with_reducible assumption | exact hp.trans rfl | with_reducible apply State.serveHeld_keeps | split

theorem State.writeBackDone_keeps {m : Nat} {s0 s : State} (h : Keeps m s0 s) (hp : Sub 0x1985149e m) (a1) : Keeps m s0 (State.writeBackDone s a1) := by
  unfold State.writeBackDone
  repeat' first
    | with_reducible assumption | exact hp.trans rfl | intro _
    | (extract_lets +onlyGivenNames x; refine Keeps.seq (m := m) (s0 := s0) x ?_ ?_; rotate_left; clear_value x; revert x; intro _ _; rotate_left; unfold x; clear x)
    | (extract_lets +onlyGivenNames x; revert x; intro _) | with_reducible apply State.count_keeps
    | with_reducible apply State.setFrame_keeps | with_reducible apply State.retryHeld_keeps | with_reducible apply State.framesMove_keeps
    | with_reducible apply State.frameGone_keeps | with_reducible apply State.memServe_keeps | with_reducible apply State.dropFrame_keeps
    | with_reducible apply State.frameDone_keeps | with_reducible apply State.startWriteBack_keeps | with_reducible apply Keeps.foldl
    | with_reducible apply Keeps.foldl_fst | split | (clear_value *; split)

theorem execWriteBackDone_keeps {m : Nat} {s0 s : State} (h : Keeps m s0 s) (hp : Sub 0x1985149e m) (a1) : Ends m s0 (execWriteBackDone a1 s) := by
  unfold execWriteBackDone
  repeat' first
    | with_reducible assumption | exact hp.trans rfl | with_reducible apply State.writeBackDone_keeps | with_reducible apply Ends.next

theorem State.retryAll_keeps {m : Nat} {s0 s : State} (h : Keeps m s0 s) (hp : Sub 0x1885149e m) : Keeps m s0 (State.retryAll s) := by
  unfold State.retryAll
  repeat' first | with_reducible assumption | exact hp.trans rfl | with_reducible apply State.serveHeld_keeps

theorem State.holdTimeout_keeps {m : Nat} {s0 s : State} (h : Keeps m s0 s) (hp : Sub 0x10000402 m) (a1) : Keeps m s0 (State.holdTimeout s a1) := by
  unfold State.holdTimeout
  repeat' first
    | with_reducible assumption | exact hp.trans rfl | intro _
    | (extract_lets +onlyGivenNames x; refine Keeps.seq (m := m) (s0 := s0) x ?_ ?_; rotate_left; clear_value x; revert x; intro _ _; rotate_left; unfold x; clear x)
    | (extract_lets +onlyGivenNames x; revert x; intro _) | with_reducible apply State.count_keeps
    | with_reducible apply State.complete_keeps | split | (clear_value *; split)
    | with_reducible refine Keeps.tier (by assumption) (Sub.bit 10 rfl hp)

theorem execT1QuotaHoldTimeout_keeps {m : Nat} {s0 s : State} (h : Keeps m s0 s) (hp : Sub 0x10000402 m) (a1) : Ends m s0 (execT1QuotaHoldTimeout a1 s) := by
  unfold execT1QuotaHoldTimeout
  repeat' first
    | with_reducible assumption | exact hp.trans rfl | with_reducible apply State.holdTimeout_keeps | with_reducible apply Ends.next

theorem State.doorTimeout_keeps {m : Nat} {s0 s : State} (h : Keeps m s0 s) (hp : Sub 0x10000402 m) (a1) : Keeps m s0 (State.doorTimeout s a1) := by
  unfold State.doorTimeout
  repeat' first
    | with_reducible assumption | exact hp.trans rfl | intro _
    | (extract_lets +onlyGivenNames x; refine Keeps.seq (m := m) (s0 := s0) x ?_ ?_; rotate_left; clear_value x; revert x; intro _ _; rotate_left; unfold x; clear x)
    | (extract_lets +onlyGivenNames x; revert x; intro _) | with_reducible apply State.complete_keeps | split | (clear_value *; split)
    | with_reducible refine Keeps.tier (by assumption) (Sub.bit 10 rfl hp)

theorem execDoorbellHoldTimeout_keeps {m : Nat} {s0 s : State} (h : Keeps m s0 s) (hp : Sub 0x10000402 m) (a1) : Ends m s0 (execDoorbellHoldTimeout a1 s) := by
  unfold execDoorbellHoldTimeout
  repeat' first
    | with_reducible assumption | exact hp.trans rfl | with_reducible apply State.doorTimeout_keeps | with_reducible apply Ends.next

theorem State.cacheOff_keeps {m : Nat} {s0 s : State} (h : Keeps m s0 s) (hp : Sub 0x1985149e m) : Keeps m s0 (State.cacheOff s) := by
  unfold State.cacheOff
  repeat' first
    | with_reducible assumption | exact hp.trans rfl | intro _
    | (extract_lets +onlyGivenNames x; refine Keeps.seq (m := m) (s0 := s0) x ?_ ?_; rotate_left; clear_value x; revert x; intro _ _; rotate_left; unfold x; clear x)
    | (extract_lets +onlyGivenNames x; revert x; intro _) | with_reducible apply State.startWriteBack_keeps
    | with_reducible apply State.setFrame_keeps | with_reducible apply State.setBit_keeps | with_reducible apply State.framesMove_keeps
    | with_reducible apply State.frameGone_keeps | with_reducible apply State.memServe_keeps | with_reducible apply Keeps.foldl
    | with_reducible apply Keeps.foldl_fst | with_reducible refine Keeps.tier (by assumption) (Sub.bit 10 rfl hp)

theorem State.tcEnable_keeps {m : Nat} {s0 s : State} (h : Keeps m s0 s) (hp : Sub 0x1985149e m) (a1) : Keeps m s0 (State.tcEnable s a1) := by
  unfold State.tcEnable
  repeat' first
    | with_reducible assumption | exact hp.trans rfl | intro _
    | (extract_lets +onlyGivenNames x; refine Keeps.seq (m := m) (s0 := s0) x ?_ ?_; rotate_left; clear_value x; revert x; intro _ _; rotate_left; unfold x; clear x)
    | (extract_lets +onlyGivenNames x; revert x; intro _) | with_reducible apply State.cfgDo_keeps | with_reducible apply State.setFld_keeps
    | with_reducible apply State.tick_keeps | with_reducible apply State.refuseEnable_keeps | with_reducible apply State.setBit_keeps
    | with_reducible apply State.cacheOff_keeps | split | (clear_value *; split)

theorem execTcEnable_keeps {m : Nat} {s0 s : State} (h : Keeps m s0 s) (hp : Sub 0x1985149e m) (a1) : Ends m s0 (execTcEnable a1 s) := by
  unfold execTcEnable
  repeat' first
    | with_reducible assumption | exact hp.trans rfl | with_reducible apply State.tcEnable_keeps | with_reducible apply Ends.next

theorem State.waiterLost_keeps {m : Nat} {s0 s : State} (h : Keeps m s0 s) (hp : Sub 0x10000002 m) (a1) : Keeps m s0 (State.waiterLost s a1) := by
  unfold State.waiterLost
  repeat' first
    | with_reducible assumption | exact hp.trans rfl | intro _
    | (extract_lets +onlyGivenNames x; refine Keeps.seq (m := m) (s0 := s0) x ?_ ?_; rotate_left; clear_value x; revert x; intro _ _; rotate_left; unfold x; clear x)
    | (extract_lets +onlyGivenNames x; revert x; intro _) | with_reducible apply State.complete_keeps | split | (clear_value *; split)

theorem State.dropFrames_keeps {m : Nat} {s0 s : State} (h : Keeps m s0 s) (hp : Sub 0x19851496 m) (a1 a2 a3) : Keeps m s0 (State.dropFrames s a1 a2 a3) := by
  unfold State.dropFrames
  repeat' first
    | with_reducible assumption | exact hp.trans rfl | intro _
    | (extract_lets +onlyGivenNames x; refine Keeps.seq (m := m) (s0 := s0) x ?_ ?_; rotate_left; clear_value x; revert x; intro _ _; rotate_left; unfold x; clear x)
    | (extract_lets +onlyGivenNames x; revert x; intro _) | with_reducible apply State.framesMove_keeps
    | with_reducible apply State.frameGone_keeps | with_reducible apply State.waiterLost_keeps | with_reducible apply State.tierNote_keeps
    | with_reducible apply Keeps.foldl | with_reducible apply Keeps.foldl_fst | split | (clear_value *; split)
    | with_reducible refine Keeps.tier (by assumption) (Sub.bit 10 rfl hp)

theorem State.dropSlotFrames_keeps {m : Nat} {s0 s : State} (h : Keeps m s0 s) (hp : Sub 0x1985149e m) (a1) : Keeps m s0 (State.dropSlotFrames s a1) := by
  unfold State.dropSlotFrames
  repeat' first
    | with_reducible assumption | exact hp.trans rfl | with_reducible apply State.retryAll_keeps
    | with_reducible apply State.dropFrames_keeps

end Sys2Proof.Machine
end

