-- ==== Sys2Proof/Laws/KeepsTiles.lean ====
section
/-!
SUPPORT. The operations of Machine/Tiles.lean leave the queue of waiting commands alone and keep the canonical form.
-/
namespace Sys2Proof.Machine

set_option linter.all false

theorem State.setTile_keeps {m : Nat} {s0 s : State} (h : Keeps m s0 s) (hp : Sub 0x800 m) (a1 a2) : Keeps m s0 (State.setTile s a1 a2) := by
  unfold State.setTile
  repeat' first | with_reducible assumption | with_reducible refine Keeps.tiles (by assumption) (Sub.bit 11 rfl hp)

theorem State.setCtx_keeps {m : Nat} {s0 s : State} (h : Keeps m s0 s) (hp : Sub 0x800 m) (a1 a2 a3) : Keeps m s0 (State.setCtx s a1 a2 a3) := by
  unfold State.setCtx
  repeat' first
    | with_reducible assumption | exact hp.trans rfl | intro _
    | (extract_lets +onlyGivenNames x; refine Keeps.seq (m := m) (s0 := s0) x ?_ ?_; rotate_left; clear_value x; revert x; intro _ _; rotate_left; unfold x; clear x)
    | (extract_lets +onlyGivenNames x; revert x; intro _) | with_reducible apply State.setTile_keeps

theorem State.sramWrite_keeps {m : Nat} {s0 s : State} (h : Keeps m s0 s) (hp : Sub 0x800 m) (a1 a2 a3) : Keeps m s0 (State.sramWrite s a1 a2 a3) := by
  unfold State.sramWrite
  repeat' first
    | with_reducible assumption | exact hp.trans rfl | intro _
    | (extract_lets +onlyGivenNames x; refine Keeps.seq (m := m) (s0 := s0) x ?_ ?_; rotate_left; clear_value x; revert x; intro _ _; rotate_left; unfold x; clear x)
    | (extract_lets +onlyGivenNames x; revert x; intro _) | with_reducible apply State.setTile_keeps

theorem State.scrub_keeps {m : Nat} {s0 s : State} (h : Keeps m s0 s) (hp : Sub 0x802 m) (a1 a2) : Keeps m s0 (State.scrub s a1 a2) := by
  unfold State.scrub
  repeat' first
    | with_reducible assumption | exact hp.trans rfl | intro _
    | (extract_lets +onlyGivenNames x; refine Keeps.seq (m := m) (s0 := s0) x ?_ ?_; rotate_left; clear_value x; revert x; intro _ _; rotate_left; unfold x; clear x)
    | (extract_lets +onlyGivenNames x; revert x; intro _) | with_reducible apply State.count_keeps
    | with_reducible apply State.setTile_keeps | split | (clear_value *; split)

theorem State.sramInject_keeps {m : Nat} {s0 s : State} (h : Keeps m s0 s) (hp : Sub 0x2 m) (a1 a2) : KeepsO m s0 (State.sramInject s a1 a2) := by
  unfold State.sramInject
  repeat' first
    | with_reducible assumption | exact hp.trans rfl | with_reducible apply State.takeInject_keeps | with_reducible apply KeepsO.some_
    | with_reducible apply KeepsO.none_ | with_reducible apply KeepsO.getD | with_reducible refine KeepsO.get (by assumption) ?_ | split

theorem State.takeSlot_keeps {m : Nat} {s0 s : State} (h : Keeps m s0 s) (hp : Sub 0x802 m) (a1 a2) : Keeps m s0 (State.takeSlot s a1 a2) := by
  unfold State.takeSlot
  repeat' first
    | with_reducible assumption | exact hp.trans rfl | intro _
    | (extract_lets +onlyGivenNames x; refine Keeps.seq (m := m) (s0 := s0) x ?_ ?_; rotate_left; clear_value x; revert x; intro _ _; rotate_left; unfold x; clear x)
    | (extract_lets +onlyGivenNames x; revert x; intro _) | with_reducible apply State.count_keeps | with_reducible apply State.setCtx_keeps
    | with_reducible apply State.setTile_keeps | split | (clear_value *; split)

theorem State.preempt_keeps {m : Nat} {s0 s : State} (h : Keeps m s0 s) (hp : Sub 0x802 m) (a1) : Keeps m s0 (State.preempt s a1) := by
  unfold State.preempt
  repeat' first
    | with_reducible assumption | exact hp.trans rfl | intro _
    | (extract_lets +onlyGivenNames x; refine Keeps.seq (m := m) (s0 := s0) x ?_ ?_; rotate_left; clear_value x; revert x; intro _ _; rotate_left; unfold x; clear x)
    | (extract_lets +onlyGivenNames x; revert x; intro _) | with_reducible apply State.takeSlot_keeps
    | with_reducible apply State.count_keeps | with_reducible apply State.setCtx_keeps | split | (clear_value *; split)

theorem State.turn_keeps {m : Nat} {s0 s : State} (h : Keeps m s0 s) (hp : Sub 0x802 m) (a1 a2) : KeepsO m s0 (State.turn s a1 a2) := by
  unfold State.turn
  repeat' first
    | with_reducible assumption | exact hp.trans rfl | intro _
    | (extract_lets +onlyGivenNames x; refine Keeps.seq (m := m) (s0 := s0) x ?_ ?_; rotate_left; clear_value x; revert x; intro _ _; rotate_left; unfold x; clear x)
    | (extract_lets +onlyGivenNames x; revert x; intro _) | with_reducible apply State.takeSlot_keeps | with_reducible apply KeepsO.some_
    | with_reducible apply KeepsO.none_ | with_reducible apply KeepsO.getD | with_reducible refine KeepsO.get (by assumption) ?_ | split
    | (clear_value *; split)

theorem State.enterDrain_keeps {m : Nat} {s0 s : State} (h : Keeps m s0 s) (hp : Sub 0x800 m) (a1 a2) : Keeps m s0 (State.enterDrain s a1 a2) := by
  unfold State.enterDrain
  repeat' first
    | with_reducible assumption | exact hp.trans rfl | intro _
    | (extract_lets +onlyGivenNames x; refine Keeps.seq (m := m) (s0 := s0) x ?_ ?_; rotate_left; clear_value x; revert x; intro _ _; rotate_left; unfold x; clear x)
    | (extract_lets +onlyGivenNames x; revert x; intro _) | with_reducible apply State.setCtx_keeps
    | with_reducible apply State.setTile_keeps

theorem State.ctxFault_keeps {m : Nat} {s0 s : State} (h : Keeps m s0 s) (hp : Sub 0x8804806 m) (a1 a2 a3) : Keeps m s0 (State.ctxFault s a1 a2 a3) := by
  unfold State.ctxFault
  repeat' first
    | with_reducible assumption | exact hp.trans rfl | intro _
    | (extract_lets +onlyGivenNames x; refine Keeps.seq (m := m) (s0 := s0) x ?_ ?_; rotate_left; clear_value x; revert x; intro _ _; rotate_left; unfold x; clear x)
    | (extract_lets +onlyGivenNames x; revert x; intro _) | with_reducible apply State.enterDrain_keeps
    | with_reducible apply State.setCtx_keeps | with_reducible apply State.count_keeps | with_reducible apply State.setReg_keeps
    | with_reducible apply State.record_keeps | with_reducible apply State.setTile_keeps | split | (clear_value *; split)
    | with_reducible refine Keeps.coll (by assumption) (Sub.bit 14 rfl hp)

theorem State.ctxOpen_keeps {m : Nat} {s0 s : State} (h : Keeps m s0 s) (hp : Sub 0x800 m) (a1 a2 a3 a4) : Keeps m s0 (State.ctxOpen s a1 a2 a3 a4).1 := by
  unfold State.ctxOpen
  repeat' first
    | with_reducible assumption | exact hp.trans rfl | intro _
    | (extract_lets +onlyGivenNames x; refine Keeps.seq (m := m) (s0 := s0) x ?_ ?_; rotate_left; clear_value x; revert x; intro _ _; rotate_left; unfold x; clear x)
    | (extract_lets +onlyGivenNames x; refine Keeps.seq (m := m) (s0 := s0) x.1 ?_ ?_; rotate_left; clear_value x; revert x; intro _ _; rotate_left; unfold x; clear x)
    | (extract_lets +onlyGivenNames x; revert x; intro _) | with_reducible apply State.setCtx_keeps | split | (clear_value *; split)
    | with_reducible refine Keeps.of_fst (by assumption) ?_

theorem State.ctxIssue_keeps {m : Nat} {s0 s : State} (h : Keeps m s0 s) (hp : Sub 0x10800000 m) (a1 a2 a3 a4 a5 a6 a7 a8) : Keeps m s0 (State.ctxIssue s a1 a2 a3 a4 a5 a6 a7 a8) := by
  unfold State.ctxIssue
  repeat' first
    | with_reducible assumption | exact hp.trans rfl | intro _
    | (extract_lets +onlyGivenNames x; refine Keeps.seq (m := m) (s0 := s0) x ?_ ?_; rotate_left; clear_value x; revert x; intro _ _; rotate_left; unfold x; clear x)
    | (extract_lets +onlyGivenNames x; revert x; intro _) | with_reducible apply State.issue_keeps

theorem State.ctxSend_keeps {m : Nat} {s0 s : State} (h : Keeps m s0 s) (hp : Sub 0x10800800 m) (a1 a2 a3 a4 a5 a6 a7 a8) : Keeps m s0 (State.ctxSend s a1 a2 a3 a4 a5 a6 a7 a8) := by
  unfold State.ctxSend
  repeat' first
    | with_reducible assumption | exact hp.trans rfl | intro _
    | (extract_lets +onlyGivenNames x; refine Keeps.seq (m := m) (s0 := s0) x ?_ ?_; rotate_left; clear_value x; revert x; intro _ _; rotate_left; unfold x; clear x)
    | (extract_lets +onlyGivenNames x; refine Keeps.seq (m := m) (s0 := s0) x.1 ?_ ?_; rotate_left; clear_value x; revert x; intro _ _; rotate_left; unfold x; clear x)
    | (extract_lets +onlyGivenNames x; revert x; intro _) | with_reducible apply State.ctxOpen_keeps
    | with_reducible apply State.ctxIssue_keeps | with_reducible refine Keeps.of_fst (by assumption) ?_

theorem State.coherentAt_keeps {m : Nat} {s0 s : State} (h : Keeps m s0 s) (hp : Sub 0x8 m) (a1) : Keeps m s0 (State.coherentAt s a1).1 := by
  unfold State.coherentAt
  repeat' first
    | with_reducible assumption | exact hp.trans rfl | with_reducible apply State.took_keeps | split | (clear_value *; split)
    | with_reducible refine Keeps.of_fst (by assumption) ?_

theorem State.tlcFill_keeps {m : Nat} {s0 s : State} (h : Keeps m s0 s) (hp : Sub 0x10801008 m) (a1 a2 a3) : Keeps m s0 (State.tlcFill s a1 a2 a3) := by
  unfold State.tlcFill
  repeat' first
    | with_reducible assumption | exact hp.trans rfl | intro _
    | (extract_lets +onlyGivenNames x; refine Keeps.seq (m := m) (s0 := s0) x ?_ ?_; rotate_left; clear_value x; revert x; intro _ _; rotate_left; unfold x; clear x)
    | (extract_lets +onlyGivenNames x; revert x; intro _) | with_reducible apply State.setTlc_keeps | with_reducible apply State.took_keeps
    | with_reducible apply State.issue_keeps | with_reducible apply State.delTlc_keeps | split | (clear_value *; split)

theorem State.storeOut_keeps {m : Nat} {s0 s : State} (h : Keeps m s0 s) (hp : Sub 0x10800000 m) (a1 a2 a3 a4 a5 a6) : Keeps m s0 (State.storeOut s a1 a2 a3 a4 a5 a6) := by
  unfold State.storeOut
  repeat' first
    | with_reducible assumption | exact hp.trans rfl | intro _
    | (extract_lets +onlyGivenNames x; refine Keeps.seq (m := m) (s0 := s0) x ?_ ?_; rotate_left; clear_value x; revert x; intro _ _; rotate_left; unfold x; clear x)
    | (extract_lets +onlyGivenNames x; revert x; intro _) | with_reducible apply State.ctxIssue_keeps | split | (clear_value *; split)

theorem State.useEnds_keeps {m : Nat} {s0 s : State} (h : Keeps m s0 s) (hp : Sub 0x800 m) (a1 a2 a3 a4 a5 a6) : Keeps m s0 (State.useEnds s a1 a2 a3 a4 a5 a6) := by
  unfold State.useEnds
  repeat' first
    | with_reducible assumption | exact hp.trans rfl | intro _
    | (extract_lets +onlyGivenNames x; refine Keeps.seq (m := m) (s0 := s0) x ?_ ?_; rotate_left; clear_value x; revert x; intro _ _; rotate_left; unfold x; clear x)
    | (extract_lets +onlyGivenNames x; revert x; intro _) | with_reducible apply State.setCtx_keeps | split | (clear_value *; split)

theorem State.cacheAsk_keeps {m : Nat} {s0 s : State} (h : Keeps m s0 s) (hp : Sub 0x10800800 m) (a1 a2 a3 a4) : Keeps m s0 (State.cacheAsk s a1 a2 a3 a4) := by
  unfold State.cacheAsk
  repeat' first
    | with_reducible assumption | exact hp.trans rfl | intro _
    | (extract_lets +onlyGivenNames x; refine Keeps.seq (m := m) (s0 := s0) x ?_ ?_; rotate_left; clear_value x; revert x; intro _ _; rotate_left; unfold x; clear x)
    | (extract_lets +onlyGivenNames x; revert x; intro _) | with_reducible apply State.ctxIssue_keeps
    | with_reducible apply State.setCtx_keeps | split | (clear_value *; split)

theorem State.tlcServe_keeps {m : Nat} {s0 s : State} (h : Keeps m s0 s) (hp : Sub 0x10801800 m) (a1 a2 a3) : Keeps m s0 (State.tlcServe s a1 a2 a3) := by
  unfold State.tlcServe
  repeat' first
    | with_reducible assumption | exact hp.trans rfl | intro _
    | (extract_lets +onlyGivenNames x; refine Keeps.seq (m := m) (s0 := s0) x ?_ ?_; rotate_left; clear_value x; revert x; intro _ _; rotate_left; unfold x; clear x)
    | (extract_lets +onlyGivenNames x; revert x; intro _) | with_reducible apply State.useEnds_keeps
    | with_reducible apply State.setTlc_keeps | with_reducible apply State.cacheAsk_keeps | with_reducible apply State.delTlc_keeps | split
    | (clear_value *; split)

theorem State.loadLine_keeps {m : Nat} {s0 s : State} (h : Keeps m s0 s) (hp : Sub 0x1080180a m) (a1 a2 a3 a4 a5) : Keeps m s0 (State.loadLine s a1 a2 a3 a4 a5) := by
  unfold State.loadLine
  repeat' first
    | with_reducible assumption | exact hp.trans rfl | intro _
    | (extract_lets +onlyGivenNames x; refine Keeps.seq (m := m) (s0 := s0) x ?_ ?_; rotate_left; clear_value x; revert x; intro _ _; rotate_left; unfold x; clear x)
    | (extract_lets +onlyGivenNames x; refine Keeps.seq (m := m) (s0 := s0) x.1 ?_ ?_; rotate_left; clear_value x; revert x; intro _ _; rotate_left; unfold x; clear x)
    | (extract_lets +onlyGivenNames x; revert x; intro _) | with_reducible apply State.count_keeps | with_reducible apply State.setCtx_keeps
    | with_reducible apply State.ctxSend_keeps | with_reducible apply State.coherentAt_keeps | with_reducible apply State.ctxOpen_keeps
    | with_reducible apply State.tlcServe_keeps | split | (clear_value *; split) | with_reducible refine Keeps.of_fst (by assumption) ?_

theorem State.storeLineOf_keeps {m : Nat} {s0 s : State} (h : Keeps m s0 s) (hp : Sub 0x1080180a m) (a1 a2 a3 a4 a5) : Keeps m s0 (State.storeLineOf s a1 a2 a3 a4 a5) := by
  unfold State.storeLineOf
  repeat' first
    | with_reducible assumption | exact hp.trans rfl | intro _ | with_reducible apply hF
    | (extract_lets +onlyGivenNames x; refine Keeps.seq (m := m) (s0 := s0) x ?_ ?_; rotate_left; clear_value x; revert x; intro _ _; rotate_left; unfold x; clear x)
    | (extract_lets +onlyGivenNames x; refine Keeps.seq (m := m) (s0 := s0) x.1 ?_ ?_; rotate_left; clear_value x; revert x; intro _ _; rotate_left; unfold x; clear x)
    | (extract_lets +onlyGivenNames x; refine Keeps.seqF (m := m) (s0 := s0) x ?_ ?_; rotate_left; clear_value x; revert x; intro _ hF; rotate_left; unfold x; clear x)
    | (extract_lets +onlyGivenNames x; refine Keeps.seqG (m := m) (s0 := s0) x ?_ ?_; rotate_left; clear_value x; revert x; intro _ hF; rotate_left; unfold x; clear x)
    | (extract_lets +onlyGivenNames x; refine Keeps.seqH (m := m) (s0 := s0) x ?_ ?_; rotate_left; clear_value x; revert x; intro _ hF; rotate_left; unfold x; clear x)
    | (extract_lets +onlyGivenNames x; revert x; intro _) | with_reducible apply State.count_keeps | with_reducible apply State.setCtx_keeps
    | with_reducible apply State.ctxOpen_keeps | with_reducible apply State.storeOut_keeps | with_reducible apply State.coherentAt_keeps
    | with_reducible apply State.tlcServe_keeps | with_reducible apply State.delTlc_keeps | split | (clear_value *; split)
    | with_reducible refine Keeps.of_fst (by assumption) ?_

theorem State.accessEnds_keeps {m : Nat} {s0 s : State} (h : Keeps m s0 s) (hp : Sub 0x800 m) (a1 a2) : Keeps m s0 (State.accessEnds s a1 a2) := by
  unfold State.accessEnds
  repeat' first
    | with_reducible assumption | exact hp.trans rfl | intro _
    | (extract_lets +onlyGivenNames x; refine Keeps.seq (m := m) (s0 := s0) x ?_ ?_; rotate_left; clear_value x; revert x; intro _ _; rotate_left; unfold x; clear x)
    | (extract_lets +onlyGivenNames x; revert x; intro _) | with_reducible apply State.setCtx_keeps | split | (clear_value *; split)

theorem State.fenceEnds_keeps {m : Nat} {s0 s : State} (h : Keeps m s0 s) (hp : Sub 0x10800800 m) (a1 a2) : Keeps m s0 (State.fenceEnds s a1 a2) := by
  unfold State.fenceEnds
  repeat' first
    | with_reducible assumption | exact hp.trans rfl | intro _
    | (extract_lets +onlyGivenNames x; refine Keeps.seq (m := m) (s0 := s0) x ?_ ?_; rotate_left; clear_value x; revert x; intro _ _; rotate_left; unfold x; clear x)
    | (extract_lets +onlyGivenNames x; revert x; intro _) | with_reducible apply State.ctxSend_keeps
    | with_reducible apply State.setCtx_keeps | split | (clear_value *; split)

theorem State.acquireDiscard_keeps {m : Nat} {s0 s : State} (h : Keeps m s0 s) (hp : Sub 0x1000 m) (a1 a2) : Keeps m s0 (State.acquireDiscard s a1 a2) := by
  unfold State.acquireDiscard
  repeat' first | with_reducible assumption | split | with_reducible refine Keeps.tlc (by assumption) (Sub.bit 12 rfl hp)

theorem State.loadMore_keeps {m : Nat} {s0 s : State} (h : Keeps m s0 s) (hp : Sub 0x10800802 m) (a1 a2 a3) : Keeps m s0 (State.loadMore s a1 a2 a3) := by
  induction a3 generalizing s a1 a2 with
  | zero =>
    unfold State.loadMore
    repeat' first
      | with_reducible assumption | exact hp.trans rfl | intro _
      | (extract_lets +onlyGivenNames x; refine Keeps.seq (m := m) (s0 := s0) x ?_ ?_; rotate_left; clear_value x; revert x; intro _ _; rotate_left; unfold x; clear x)
      | (extract_lets +onlyGivenNames x; revert x; intro _) | with_reducible apply State.setCtx_keeps
      | with_reducible apply State.count_keeps | with_reducible apply State.ctxSend_keeps | split | (clear_value *; split)
  | succ _ ih =>
    unfold State.loadMore
    repeat' first
      | with_reducible assumption | with_reducible apply ih | exact hp.trans rfl | intro _
      | (extract_lets +onlyGivenNames x; refine Keeps.seq (m := m) (s0 := s0) x ?_ ?_; rotate_left; clear_value x; revert x; intro _ _; rotate_left; unfold x; clear x)
      | (extract_lets +onlyGivenNames x; revert x; intro _) | with_reducible apply State.setCtx_keeps
      | with_reducible apply State.count_keeps | with_reducible apply State.ctxSend_keeps | split | (clear_value *; split)

theorem State.slotFrees_keeps {m : Nat} {s0 s : State} (h : Keeps m s0 s) (hp : Sub 0x10800802 m) (a1) : Keeps m s0 (State.slotFrees s a1) := by
  unfold State.slotFrees
  repeat' first
    | with_reducible assumption | exact hp.trans rfl | intro _
    | (extract_lets +onlyGivenNames x; refine Keeps.seq (m := m) (s0 := s0) x ?_ ?_; rotate_left; clear_value x; revert x; intro _ _; rotate_left; unfold x; clear x)
    | (extract_lets +onlyGivenNames x; revert x; intro _) | with_reducible apply State.setTile_keeps
    | with_reducible apply State.loadMore_keeps | with_reducible apply Keeps.foldl | with_reducible apply Keeps.foldl_fst | split
    | (clear_value *; split)

theorem State.ctxSettle_keeps {m : Nat} {s0 s : State} (h : Keeps m s0 s) (hp : Sub 0x10800802 m) (a1 a2) : Keeps m s0 (State.ctxSettle s a1 a2) := by
  unfold State.ctxSettle
  repeat' first
    | with_reducible assumption | exact hp.trans rfl | with_reducible apply State.slotFrees_keeps
    | with_reducible apply State.fenceEnds_keeps | with_reducible apply State.accessEnds_keeps

theorem State.tlcReplay_keeps {m : Nat} {s0 s : State} (h : Keeps m s0 s) (hp : Sub 0x10801802 m) (a1 a2) : Keeps m s0 (State.tlcReplay s a1 a2) := by
  unfold State.tlcReplay
  repeat' first
    | with_reducible assumption | exact hp.trans rfl | intro _ | with_reducible apply State.ctxSettle_keeps
    | with_reducible apply State.tlcServe_keeps | with_reducible apply Keeps.foldl | with_reducible apply Keeps.foldl_fst

theorem State.ctxFree_keeps {m : Nat} {s0 s : State} (h : Keeps m s0 s) (hp : Sub 0x802 m) (a1 a2) : Keeps m s0 (State.ctxFree s a1 a2) := by
  unfold State.ctxFree
  repeat' first
    | with_reducible assumption | exact hp.trans rfl | intro _
    | (extract_lets +onlyGivenNames x; refine Keeps.seq (m := m) (s0 := s0) x ?_ ?_; rotate_left; clear_value x; revert x; intro _ _; rotate_left; unfold x; clear x)
    | (extract_lets +onlyGivenNames x; revert x; intro _) | with_reducible apply State.count_keeps
    | with_reducible apply State.setTile_keeps | split | (clear_value *; split)

theorem State.drainDone_keeps {m : Nat} {s0 s : State} (h : Keeps m s0 s) (hp : Sub 0x10800802 m) (a1 a2) : Keeps m s0 (State.drainDone s a1 a2) := by
  unfold State.drainDone
  repeat' first
    | with_reducible assumption | exact hp.trans rfl | intro _
    | (extract_lets +onlyGivenNames x; refine Keeps.seq (m := m) (s0 := s0) x ?_ ?_; rotate_left; clear_value x; revert x; intro _ _; rotate_left; unfold x; clear x)
    | (extract_lets +onlyGivenNames x; revert x; intro _) | with_reducible apply State.ctxFree_keeps
    | with_reducible apply State.ctxSend_keeps | with_reducible apply State.setCtx_keeps | split | (clear_value *; split)

theorem execContextDrainDone_keeps {m : Nat} {s0 s : State} (h : Keeps m s0 s) (hp : Sub 0x10800802 m) (a1 a2) : Ends m s0 (execContextDrainDone a1 a2 s) := by
  unfold execContextDrainDone
  repeat' first
    | with_reducible assumption | exact hp.trans rfl | with_reducible apply State.drainDone_keeps | with_reducible apply Ends.next

theorem State.tlcTaken_keeps {m : Nat} {s0 s : State} (h : Keeps m s0 s) (hp : Sub 0x10801008 m) (a1 a2 a3) : Keeps m s0 (State.tlcTaken s a1 a2 a3) := by
  unfold State.tlcTaken
  repeat' first
    | with_reducible assumption | exact hp.trans rfl | intro _
    | (extract_lets +onlyGivenNames x; refine Keeps.seq (m := m) (s0 := s0) x ?_ ?_; rotate_left; clear_value x; revert x; intro _ _; rotate_left; unfold x; clear x)
    | (extract_lets +onlyGivenNames x; revert x; intro _) | with_reducible apply State.tlcFill_keeps | split | (clear_value *; split)

theorem State.cacheCompletes_keeps {m : Nat} {s0 s : State} (h : Keeps m s0 s) (hp : Sub 0x1080180a m) (a1 a2 a3 a4) : Keeps m s0 (State.cacheCompletes s a1 a2 a3 a4) := by
  unfold State.cacheCompletes
  repeat' first
    | with_reducible assumption | exact hp.trans rfl | intro _
    | (extract_lets +onlyGivenNames x; refine Keeps.seq (m := m) (s0 := s0) x ?_ ?_; rotate_left; clear_value x; revert x; intro _ _; rotate_left; unfold x; clear x)
    | (extract_lets +onlyGivenNames x; revert x; intro _) | with_reducible apply State.setCtx_keeps
    | with_reducible apply State.tlcReplay_keeps | with_reducible apply State.storeOut_keeps | with_reducible apply State.delTlc_keeps
    | with_reducible apply State.tlcTaken_keeps | with_reducible apply State.ctxSettle_keeps | with_reducible apply State.useEnds_keeps
    | split | (clear_value *; split)

theorem State.inputAcquire_keeps {m : Nat} {s0 s : State} (h : Keeps m s0 s) (hp : Sub 0x10800800 m) (a1 a2 a3 a4 a5) : Keeps m s0 (State.inputAcquire s a1 a2 a3 a4 a5) := by
  unfold State.inputAcquire
  repeat' first
    | with_reducible assumption | exact hp.trans rfl | intro _
    | (extract_lets +onlyGivenNames x; refine Keeps.seq (m := m) (s0 := s0) x ?_ ?_; rotate_left; clear_value x; revert x; intro _ _; rotate_left; unfold x; clear x)
    | (extract_lets +onlyGivenNames x; revert x; intro _) | with_reducible apply State.ctxSend_keeps
    | with_reducible apply State.setCtx_keeps

theorem State.inputEnds_keeps {m : Nat} {s0 s : State} (h : Keeps m s0 s) (hp : Sub 0x10801802 m) (a1 a2 a3 a4 a5 a6) : Keeps m s0 (State.inputEnds s a1 a2 a3 a4 a5 a6) := by
  unfold State.inputEnds
  repeat' first
    | with_reducible assumption | exact hp.trans rfl | intro _
    | (extract_lets +onlyGivenNames x; refine Keeps.seq (m := m) (s0 := s0) x ?_ ?_; rotate_left; clear_value x; revert x; intro _ _; rotate_left; unfold x; clear x)
    | (extract_lets +onlyGivenNames x; revert x; intro _) | with_reducible apply State.slotFrees_keeps
    | with_reducible apply State.inputAcquire_keeps | with_reducible apply State.setCtx_keeps
    | with_reducible apply State.acquireDiscard_keeps | split | (clear_value *; split)

theorem State.ctxCompletes_keeps {m : Nat} {s0 s : State} (h : Keeps m s0 s) (hp : Sub 0x1880180e m) (a1 a2 a3 a4) : Keeps m s0 (State.ctxCompletes s a1 a2 a3 a4) := by
  unfold State.ctxCompletes
  repeat' first
    | with_reducible assumption | exact hp.trans rfl | intro _
    | (extract_lets +onlyGivenNames x; refine Keeps.seq (m := m) (s0 := s0) x ?_ ?_; rotate_left; clear_value x; revert x; intro _ _; rotate_left; unfold x; clear x)
    | (extract_lets +onlyGivenNames x; revert x; intro _) | with_reducible apply State.cacheCompletes_keeps
    | with_reducible apply State.slotFrees_keeps | with_reducible apply State.setCtx_keeps | with_reducible apply State.acquireDiscard_keeps
    | with_reducible apply State.sramWrite_keeps | with_reducible apply State.loadMore_keeps | with_reducible apply State.enterDrain_keeps
    | with_reducible apply State.ctxFree_keeps | with_reducible apply State.record_keeps | with_reducible apply State.ctxSend_keeps
    | with_reducible apply State.inputEnds_keeps | with_reducible apply State.ctxSettle_keeps | with_reducible apply State.useEnds_keeps
    | split | (clear_value *; split)

theorem State.remoteCompletion_keeps {m : Nat} {s0 s : State} (h : Keeps m s0 s) (hp : Sub 0x1880180e m) (a1) : Keeps m s0 (State.remoteCompletion s a1) := by
  unfold State.remoteCompletion
  repeat' first
    | with_reducible assumption | exact hp.trans rfl | intro _
    | (extract_lets +onlyGivenNames x; refine Keeps.seq (m := m) (s0 := s0) x ?_ ?_; rotate_left; clear_value x; revert x; intro _ _; rotate_left; unfold x; clear x)
    | (extract_lets +onlyGivenNames x; revert x; intro _) | with_reducible apply State.ctxCompletes_keeps
    | with_reducible apply State.dropTracker_keeps | split | (clear_value *; split)

theorem execRemoteCompletion_keeps {m : Nat} {s0 s : State} (h : Keeps m s0 s) (hp : Sub 0x1880180e m) (a1) : Ends m s0 (execRemoteCompletion a1 s) := by
  unfold execRemoteCompletion
  repeat' first
    | with_reducible assumption | exact hp.trans rfl | with_reducible apply State.remoteCompletion_keeps | with_reducible apply Ends.next

theorem State.tileDoor_keeps {m : Nat} {s0 s : State} (h : Keeps m s0 s) (hp : Sub 0x10000c06 m) (a1 a2) : Keeps m s0 (State.tileDoor s a1 a2) := by
  unfold State.tileDoor
  repeat' first
    | with_reducible assumption | exact hp.trans rfl | intro _
    | (extract_lets +onlyGivenNames x; refine Keeps.seq (m := m) (s0 := s0) x ?_ ?_; rotate_left; clear_value x; revert x; intro _ _; rotate_left; unfold x; clear x)
    | (extract_lets +onlyGivenNames x; revert x; intro _) | with_reducible apply State.tick_keeps
    | with_reducible apply State.complete_keeps | with_reducible apply State.setTile_keeps | split | (clear_value *; split)
    | with_reducible refine Keeps.tier (by assumption) (Sub.bit 10 rfl hp)

theorem execRunDescriptor_keeps {m : Nat} {s0 s : State} (h : Keeps m s0 s) (hp : Sub 0x10000c06 m) (a1 a2) : Ends m s0 (execRunDescriptor a1 a2 s) := by
  unfold execRunDescriptor
  repeat' first
    | with_reducible assumption | exact hp.trans rfl | with_reducible apply State.tileDoor_keeps | with_reducible apply Ends.next

theorem execLoadKernelDescriptor_keeps {m : Nat} {s0 s : State} (h : Keeps m s0 s) (hp : Sub 0x10000c06 m) (a1 a2) : Ends m s0 (execLoadKernelDescriptor a1 a2 s) := by
  unfold execLoadKernelDescriptor
  repeat' first
    | with_reducible assumption | exact hp.trans rfl | with_reducible apply State.tileDoor_keeps | with_reducible apply Ends.next

theorem execLoadDataDescriptor_keeps {m : Nat} {s0 s : State} (h : Keeps m s0 s) (hp : Sub 0x10000c06 m) (a1 a2) : Ends m s0 (execLoadDataDescriptor a1 a2 s) := by
  unfold execLoadDataDescriptor
  repeat' first
    | with_reducible assumption | exact hp.trans rfl | with_reducible apply State.tileDoor_keeps | with_reducible apply Ends.next

theorem State.allocLanes_keeps {m : Nat} {s0 s : State} (h : Keeps m s0 s) (hp : Sub 0x800 m) (a1 a2 a3) : Keeps m s0 (State.allocLanes s a1 a2 a3) := by
  unfold State.allocLanes
  repeat' first
    | with_reducible assumption | exact hp.trans rfl | intro _
    | (extract_lets +onlyGivenNames x; refine Keeps.seq (m := m) (s0 := s0) x ?_ ?_; rotate_left; clear_value x; revert x; intro _ _; rotate_left; unfold x; clear x)
    | (extract_lets +onlyGivenNames x; revert x; intro _) | with_reducible apply State.setTile_keeps
    | with_reducible apply State.setCtx_keeps | with_reducible apply Keeps.foldl | with_reducible apply Keeps.foldl_fst

theorem State.contextStart_keeps {m : Nat} {s0 s : State} (h : Keeps m s0 s) (hp : Sub 0x18804806 m) (a1) : Keeps m s0 (State.contextStart s a1) := by
  unfold State.contextStart
  repeat' first
    | with_reducible assumption | exact hp.trans rfl | intro _
    | (extract_lets +onlyGivenNames x; refine Keeps.seq (m := m) (s0 := s0) x ?_ ?_; rotate_left; clear_value x; revert x; intro _ _; rotate_left; unfold x; clear x)
    | (extract_lets +onlyGivenNames x; revert x; intro _) | with_reducible apply State.count_keeps
    | with_reducible apply State.setTile_keeps | with_reducible apply State.tick_keeps | with_reducible apply State.ctxFault_keeps
    | with_reducible apply State.setCtx_keeps | with_reducible apply State.loadMore_keeps | with_reducible apply State.allocLanes_keeps
    | split | (clear_value *; split)

theorem execContextStart_keeps {m : Nat} {s0 s : State} (h : Keeps m s0 s) (hp : Sub 0x18804806 m) (a1) : Ends m s0 (execContextStart a1 s) := by
  unfold execContextStart
  repeat' first
    | with_reducible assumption | exact hp.trans rfl | with_reducible apply State.contextStart_keeps | with_reducible apply Ends.next

theorem State.quantumExpiry_keeps {m : Nat} {s0 s : State} (h : Keeps m s0 s) (hp : Sub 0x802 m) (a1 a2) : Keeps m s0 (State.quantumExpiry s a1 a2) := by
  unfold State.quantumExpiry
  repeat' first
    | with_reducible assumption | exact hp.trans rfl | intro _
    | (extract_lets +onlyGivenNames x; refine Keeps.seq (m := m) (s0 := s0) x ?_ ?_; rotate_left; clear_value x; revert x; intro _ _; rotate_left; unfold x; clear x)
    | (extract_lets +onlyGivenNames x; revert x; intro _) | with_reducible apply State.count_keeps | with_reducible apply State.setCtx_keeps
    | split | (clear_value *; split)

theorem execQuantumExpiry_keeps {m : Nat} {s0 s : State} (h : Keeps m s0 s) (hp : Sub 0x802 m) (a1 a2) : Ends m s0 (execQuantumExpiry a1 a2 s) := by
  unfold execQuantumExpiry
  repeat' first
    | with_reducible assumption | exact hp.trans rfl | with_reducible apply State.quantumExpiry_keeps | with_reducible apply Ends.next

theorem State.watchdog_keeps {m : Nat} {s0 s : State} (h : Keeps m s0 s) (hp : Sub 0x8804806 m) (a1 a2) : Keeps m s0 (State.watchdog s a1 a2) := by
  unfold State.watchdog
  repeat' first
    | with_reducible assumption | exact hp.trans rfl | intro _
    | (extract_lets +onlyGivenNames x; refine Keeps.seq (m := m) (s0 := s0) x ?_ ?_; rotate_left; clear_value x; revert x; intro _ _; rotate_left; unfold x; clear x)
    | (extract_lets +onlyGivenNames x; revert x; intro _) | with_reducible apply State.ctxFault_keeps | split | (clear_value *; split)

theorem execTileWatchdogExpiry_keeps {m : Nat} {s0 s : State} (h : Keeps m s0 s) (hp : Sub 0x8804806 m) (a1 a2) : Ends m s0 (execTileWatchdogExpiry a1 a2 s) := by
  unfold execTileWatchdogExpiry
  repeat' first
    | with_reducible assumption | exact hp.trans rfl | with_reducible apply State.watchdog_keeps | with_reducible apply Ends.next

theorem State.killCtx_keeps {m : Nat} {s0 s : State} (h : Keeps m s0 s) (hp : Sub 0x8804806 m) (a1 a2) : Keeps m s0 (State.killCtx s a1 a2) := by
  unfold State.killCtx
  repeat' first
    | with_reducible assumption | exact hp.trans rfl | intro _
    | (extract_lets +onlyGivenNames x; refine Keeps.seq (m := m) (s0 := s0) x ?_ ?_; rotate_left; clear_value x; revert x; intro _ _; rotate_left; unfold x; clear x)
    | (extract_lets +onlyGivenNames x; revert x; intro _) | with_reducible apply State.ctxFault_keeps | split | (clear_value *; split)

theorem State.killTile_keeps {m : Nat} {s0 s : State} (h : Keeps m s0 s) (hp : Sub 0x8804806 m) (a1) : Keeps m s0 (State.killTile s a1) := by
  unfold State.killTile
  repeat' first
    | with_reducible assumption | exact hp.trans rfl | intro _ | with_reducible apply State.killCtx_keeps | with_reducible apply Keeps.foldl
    | with_reducible apply Keeps.foldl_fst

theorem State.contextKill_keeps {m : Nat} {s0 s : State} (h : Keeps m s0 s) (hp : Sub 0x8804806 m) (a1 a2) : Keeps m s0 (State.contextKill s a1 a2) := by
  unfold State.contextKill
  repeat' first
    | with_reducible assumption | exact hp.trans rfl | intro _ | with_reducible apply State.cfgDo_keeps
    | with_reducible apply State.killCtx_keeps | with_reducible apply Keeps.foldl | with_reducible apply Keeps.foldl_fst

theorem execContextKill_keeps {m : Nat} {s0 s : State} (h : Keeps m s0 s) (hp : Sub 0x8804806 m) (a1 a2) : Ends m s0 (execContextKill a1 a2 s) := by
  unfold execContextKill
  repeat' first
    | with_reducible assumption | exact hp.trans rfl | with_reducible apply State.contextKill_keeps | with_reducible apply Ends.next

theorem State.clearTile_keeps {m : Nat} {s0 s : State} (h : Keeps m s0 s) (hp : Sub 0x800 m) (a1) : Keeps m s0 (State.clearTile s a1) := by
  unfold State.clearTile
  repeat' first | with_reducible assumption | with_reducible refine Keeps.tiles (by assumption) (Sub.bit 11 rfl hp)

theorem State.tileZero_keeps {m : Nat} {s0 s : State} (h : Keeps m s0 s) (hp : Sub 0x806 m) (a1) : Keeps m s0 (State.tileZero s a1) := by
  unfold State.tileZero
  repeat' first
    | with_reducible assumption | exact hp.trans rfl | intro _ | with_reducible apply State.cfgDo_keeps
    | with_reducible apply State.setBit_keeps | with_reducible apply State.clearTile_keeps | split

theorem execTileZero_keeps {m : Nat} {s0 s : State} (h : Keeps m s0 s) (hp : Sub 0x806 m) (a1) : Ends m s0 (execTileZero a1 s) := by
  unfold execTileZero
  repeat' first
    | with_reducible assumption | exact hp.trans rfl | with_reducible apply State.tileZero_keeps | with_reducible apply Ends.next

theorem execTileZeroDone_keeps {m : Nat} {s0 s : State} (h : Keeps m s0 s) (hp : Sub 0x2 m) (a1) : Ends m s0 (execTileZeroDone a1 s) := by
  unfold execTileZeroDone
  repeat' first | with_reducible assumption | exact hp.trans rfl | with_reducible apply State.setBit_keeps | with_reducible apply Ends.next

theorem State.tileSramWrite_keeps {m : Nat} {s0 s : State} (h : Keeps m s0 s) (hp : Sub 0x6 m) (a1 a2) : Keeps m s0 (State.tileSramWrite s a1 a2) := by
  unfold State.tileSramWrite
  repeat' first
    | with_reducible assumption | exact hp.trans rfl | intro _
    | (extract_lets +onlyGivenNames x; refine Keeps.seq (m := m) (s0 := s0) x ?_ ?_; rotate_left; clear_value x; revert x; intro _ _; rotate_left; unfold x; clear x)
    | (extract_lets +onlyGivenNames x; revert x; intro _) | with_reducible apply State.cfgDo_keeps | with_reducible apply State.setReg_keeps
    | with_reducible apply State.setBit_keeps | split | (clear_value *; split)

theorem execTileSramWrite_keeps {m : Nat} {s0 s : State} (h : Keeps m s0 s) (hp : Sub 0x6 m) (a1 a2) : Ends m s0 (execTileSramWrite a1 a2 s) := by
  unfold execTileSramWrite
  repeat' first
    | with_reducible assumption | exact hp.trans rfl | with_reducible apply State.tileSramWrite_keeps | with_reducible apply Ends.next

end Sys2Proof.Machine
end

