-- ==== Sys2Proof/Laws/KeepsTwins.lean ====
section
/-!
SUPPORT. The operations of Machine/Twins.lean leave the queue of waiting commands alone and keep the canonical form.
-/
namespace Sys2Proof.Machine

set_option linter.all false

theorem State.setOps_keeps {m : Nat} {s0 s : State} (h : Keeps m s0 s) (hp : Sub 0x800000 m) (a1) : Keeps m s0 (State.setOps s a1) := by
  unfold State.setOps
  repeat' first
    | with_reducible assumption | intro _
    | (extract_lets +onlyGivenNames x; refine Keeps.seq (m := m) (s0 := s0) x ?_ ?_; rotate_left; clear_value x; revert x; intro _ _; rotate_left; unfold x; clear x)
    | (extract_lets +onlyGivenNames x; revert x; intro _) | with_reducible refine Keeps.recov (by assumption) (Sub.bit 23 rfl hp)

theorem State.setTwin_keeps {m : Nat} {s0 s : State} (h : Keeps m s0 s) (hp : Sub 0x800000 m) (a1) : Keeps m s0 (State.setTwin s a1) := by
  unfold State.setTwin
  repeat' first | with_reducible assumption | exact hp.trans rfl | with_reducible apply State.setOps_keeps | split

theorem State.dropTwin_keeps {m : Nat} {s0 s : State} (h : Keeps m s0 s) (hp : Sub 0x800000 m) (a1 a2 a3) : Keeps m s0 (State.dropTwin s a1 a2 a3) := by
  unfold State.dropTwin
  repeat' first | with_reducible assumption | exact hp.trans rfl | with_reducible apply State.setOps_keeps

theorem State.dropOp_keeps {m : Nat} {s0 s : State} (h : Keeps m s0 s) (hp : Sub 0x800000 m) (a1) : Keeps m s0 (State.dropOp s a1) := by
  unfold State.dropOp
  repeat' first | with_reducible assumption | exact hp.trans rfl | with_reducible apply State.setOps_keeps

theorem State.twinRecord_keeps {m : Nat} {s0 s : State} (h : Keeps m s0 s) (hp : Sub 0x8800006 m) (a1 a2 a3 a4 a5 a6) : Keeps m s0 (State.twinRecord s a1 a2 a3 a4 a5 a6) := by
  unfold State.twinRecord
  repeat' first | with_reducible assumption | exact hp.trans rfl | with_reducible apply State.record_keeps

theorem State.twinWrite_keeps {m : Nat} {s0 s : State} (h : Keeps m s0 s) (hp : Sub 0x10800000 m) (a1 a2 a3 a4 a5) : Keeps m s0 (State.twinWrite s a1 a2 a3 a4 a5) := by
  unfold State.twinWrite
  repeat' first | with_reducible assumption | exact hp.trans rfl | with_reducible apply State.issue_keeps

theorem State.mirrorTo_keeps {m : Nat} {s0 s : State} (h : Keeps m s0 s) (hp : Sub 0x10800008 m) (a1 a2 a3 a4) : Keeps m s0 (State.mirrorTo s a1 a2 a3 a4) := by
  unfold State.mirrorTo
  repeat' first
    | with_reducible assumption | exact hp.trans rfl | intro _
    | (extract_lets +onlyGivenNames x; refine Keeps.seq (m := m) (s0 := s0) x ?_ ?_; rotate_left; clear_value x; revert x; intro _ _; rotate_left; unfold x; clear x)
    | (extract_lets +onlyGivenNames x; revert x; intro _) | with_reducible apply State.twinWrite_keeps
    | with_reducible refine Keeps.free (by assumption) (Sub.bit 3 rfl hp)

theorem State.mirrorNext_keeps {m : Nat} {s0 s : State} (h : Keeps m s0 s) (hp : Sub 0x10800008 m) (a1) : Keeps m s0 (State.mirrorNext s a1) := by
  unfold State.mirrorNext
  repeat' first
    | with_reducible assumption | exact hp.trans rfl | intro _
    | (extract_lets +onlyGivenNames x; refine Keeps.seq (m := m) (s0 := s0) x ?_ ?_; rotate_left; clear_value x; revert x; intro _ _; rotate_left; unfold x; clear x)
    | (extract_lets +onlyGivenNames x; revert x; intro _) | with_reducible apply State.setTwin_keeps
    | with_reducible apply State.mirrorTo_keeps | split | (clear_value *; split)

theorem State.startTwin_keeps {m : Nat} {s0 s : State} (h : Keeps m s0 s) (hp : Sub 0x1880000e m) (a1 a2 a3 a4 a5 a6) : Keeps m s0 (State.startTwin s a1 a2 a3 a4 a5 a6).1 := by
  unfold State.startTwin
  repeat' first
    | with_reducible assumption | exact hp.trans rfl | intro _
    | (extract_lets +onlyGivenNames x; refine Keeps.seq (m := m) (s0 := s0) x ?_ ?_; rotate_left; clear_value x; revert x; intro _ _; rotate_left; unfold x; clear x)
    | (extract_lets +onlyGivenNames x; refine Keeps.seq (m := m) (s0 := s0) x.1 ?_ ?_; rotate_left; clear_value x; revert x; intro _ _; rotate_left; unfold x; clear x)
    | (extract_lets +onlyGivenNames x; revert x; intro _) | with_reducible apply State.twinRecord_keeps
    | with_reducible apply State.mirrorTo_keeps | with_reducible apply State.setOps_keeps | split | (clear_value *; split)
    | with_reducible refine Keeps.of_fst (by assumption) ?_

theorem State.visible_keeps {m : Nat} {s0 s : State} (h : Keeps m s0 s) (hp : Sub 0x10800008 m) (a1 a2 a3 a4 a5) (hf : ∀ t, Keeps m s0 t → Keeps m s0 (a4 t)) : Keeps m s0 (State.visible s a1 a2 a3 a4 a5) := by
  unfold State.visible
  repeat' first
    | with_reducible assumption | exact hp.trans rfl | intro _ | with_reducible apply hf | with_reducible apply State.mirrorNext_keeps
    | split

theorem State.setTwinCol_keeps {m : Nat} {s0 s : State} (h : Keeps m s0 s) (hp : Sub 0x800000 m) (a1 a2) : Keeps m s0 (State.setTwinCol s a1 a2) := by
  unfold State.setTwinCol
  repeat' first
    | with_reducible assumption | intro _
    | (extract_lets +onlyGivenNames x; refine Keeps.seq (m := m) (s0 := s0) x ?_ ?_; rotate_left; clear_value x; revert x; intro _ _; rotate_left; unfold x; clear x)
    | (extract_lets +onlyGivenNames x; revert x; intro _) | with_reducible refine Keeps.recov (by assumption) (Sub.bit 23 rfl hp)

theorem State.declareLost_keeps {m : Nat} {s0 s : State} (h : Keeps m s0 s) (hp : Sub 0x8c00006 m) (a1) : Keeps m s0 (State.declareLost s a1) := by
  unfold State.declareLost
  repeat' first
    | with_reducible assumption | exact hp.trans rfl | intro _
    | (extract_lets +onlyGivenNames x; refine Keeps.seq (m := m) (s0 := s0) x ?_ ?_; rotate_left; clear_value x; revert x; intro _ _; rotate_left; unfold x; clear x)
    | (extract_lets +onlyGivenNames x; revert x; intro _) | with_reducible apply State.setTwinCol_keeps
    | with_reducible apply State.count_keeps | with_reducible apply State.twinRecord_keeps | with_reducible apply State.degrade_keeps
    | with_reducible apply Keeps.foldl | with_reducible apply Keeps.foldl_fst | split | (clear_value *; split)

theorem State.routesLost_keeps {m : Nat} {s0 s : State} (h : Keeps m s0 s) (hp : Sub 0x8c00006 m) : Keeps m s0 (State.routesLost s) := by
  unfold State.routesLost
  repeat' first
    | with_reducible assumption | exact hp.trans rfl | intro _ | with_reducible apply State.declareLost_keeps
    | with_reducible apply Keeps.foldl | with_reducible apply Keeps.foldl_fst | split

end Sys2Proof.Machine
end

