-- ==== Sys2Proof/Laws/KeepsPlans.lean ====
section
/-!
SUPPORT. The operations of Machine/Plans.lean leave the queue of waiting commands alone and keep the canonical form.
-/
namespace Sys2Proof.Machine

set_option linter.all false

theorem State.setSlots_keeps {m : Nat} {s0 s : State} (h : Keeps m s0 s) (hp : Sub 0x4000 m) (a1) : Keeps m s0 (State.setSlots s a1) := by
  unfold State.setSlots
  repeat' first
    | with_reducible assumption | intro _
    | (extract_lets +onlyGivenNames x; refine Keeps.seq (m := m) (s0 := s0) x ?_ ?_; rotate_left; clear_value x; revert x; intro _ _; rotate_left; unfold x; clear x)
    | (extract_lets +onlyGivenNames x; revert x; intro _) | with_reducible refine Keeps.coll (by assumption) (Sub.bit 14 rfl hp)

theorem State.setRslot_keeps {m : Nat} {s0 s : State} (h : Keeps m s0 s) (hp : Sub 0x4000 m) (a1 a2) : Keeps m s0 (State.setRslot s a1 a2) := by
  unfold State.setRslot
  repeat' first | with_reducible assumption | exact hp.trans rfl | with_reducible apply State.setSlots_keeps

theorem State.freeRslot_keeps {m : Nat} {s0 s : State} (h : Keeps m s0 s) (hp : Sub 0x4000 m) (a1) : Keeps m s0 (State.freeRslot s a1) := by
  unfold State.freeRslot
  repeat' first | with_reducible assumption | exact hp.trans rfl | with_reducible apply State.setSlots_keeps

theorem State.bindTile_keeps {m : Nat} {s0 s : State} (h : Keeps m s0 s) (hp : Sub 0x800 m) (a1 a2 a3 a4 a5) : Keeps m s0 (State.bindTile s a1 a2 a3 a4 a5).1 := by
  unfold State.bindTile
  repeat' first
    | with_reducible assumption | exact hp.trans rfl | intro _
    | (extract_lets +onlyGivenNames x; refine Keeps.seq (m := m) (s0 := s0) x ?_ ?_; rotate_left; clear_value x; revert x; intro _ _; rotate_left; unfold x; clear x)
    | (extract_lets +onlyGivenNames x; refine Keeps.seq (m := m) (s0 := s0) x.1 ?_ ?_; rotate_left; clear_value x; revert x; intro _ _; rotate_left; unfold x; clear x)
    | (extract_lets +onlyGivenNames x; revert x; intro _) | with_reducible apply State.setCtx_keeps
    | with_reducible apply State.setTile_keeps | split | (clear_value *; split) | with_reducible refine Keeps.of_fst (by assumption) ?_

theorem State.bindStage_keeps {m : Nat} {s0 s : State} (h : Keeps m s0 s) (hp : Sub 0x800 m) (a1 a2 a3 a4) : KeepsP m s0 (State.bindStage s a1 a2 a3 a4) := by
  unfold State.bindStage
  repeat' first
    | with_reducible assumption | exact hp.trans rfl | intro _
    | (extract_lets +onlyGivenNames x; refine Keeps.seq (m := m) (s0 := s0) x ?_ ?_; rotate_left; clear_value x; revert x; intro _ _; rotate_left; unfold x; clear x)
    | (extract_lets +onlyGivenNames x; refine Keeps.seq (m := m) (s0 := s0) x.1 ?_ ?_; rotate_left; clear_value x; revert x; intro _ _; rotate_left; unfold x; clear x)
    | (extract_lets +onlyGivenNames x; revert x; intro _) | with_reducible apply State.bindTile_keeps | with_reducible apply Keeps.foldl
    | with_reducible apply Keeps.foldl_fst | with_reducible apply KeepsP.some_ | with_reducible apply KeepsP.none_
    | with_reducible refine KeepsP.map_ (fun _ => rfl) ?_ | with_reducible refine KeepsP.get (by assumption) ?_ | split
    | (clear_value *; split) | with_reducible refine Keeps.of_fst (by assumption) ?_

theorem State.bindStages_keeps {m : Nat} {s0 s : State} (h : Keeps m s0 s) (hp : Sub 0x800 m) (a1 a2 a3 a4) : KeepsP m s0 (State.bindStages s a1 a2 a3 a4) := by
  induction a4 generalizing s a1 a2 a3 with
  | nil =>
    unfold State.bindStages
    repeat' first
      | with_reducible assumption | exact hp.trans rfl | with_reducible apply State.bindStage_keeps | with_reducible apply KeepsP.some_
      | with_reducible apply KeepsP.none_ | with_reducible refine KeepsP.map_ (fun _ => rfl) ?_
      | with_reducible refine KeepsP.get (by assumption) ?_ | split
  | cons _ _ ih =>
    unfold State.bindStages
    repeat' first
      | with_reducible assumption | with_reducible apply ih | exact hp.trans rfl | with_reducible apply State.bindStage_keeps
      | with_reducible apply KeepsP.some_ | with_reducible apply KeepsP.none_ | with_reducible refine KeepsP.map_ (fun _ => rfl) ?_
      | with_reducible refine KeepsP.get (by assumption) ?_ | split

theorem State.unbind_keeps {m : Nat} {s0 s : State} (h : Keeps m s0 s) (hp : Sub 0x800 m) (a1 a2 a3) : Keeps m s0 (State.unbind s a1 a2 a3) := by
  unfold State.unbind
  repeat' first
    | with_reducible assumption | exact hp.trans rfl | intro _
    | (extract_lets +onlyGivenNames x; refine Keeps.seq (m := m) (s0 := s0) x ?_ ?_; rotate_left; clear_value x; revert x; intro _ _; rotate_left; unfold x; clear x)
    | (extract_lets +onlyGivenNames x; revert x; intro _) | with_reducible apply State.setTile_keeps | split | (clear_value *; split)

theorem State.unbindAll_keeps {m : Nat} {s0 s : State} (h : Keeps m s0 s) (hp : Sub 0x800 m) (a1) : Keeps m s0 (State.unbindAll s a1) := by
  unfold State.unbindAll
  repeat' first
    | with_reducible assumption | exact hp.trans rfl | intro _ | with_reducible apply State.unbind_keeps | with_reducible apply Keeps.foldl
    | with_reducible apply Keeps.foldl_fst

theorem State.setPlans_keeps {m : Nat} {s0 s : State} (h : Keeps m s0 s) (hp : Sub 0x4000 m) (a1) : Keeps m s0 (State.setPlans s a1) := by
  unfold State.setPlans
  repeat' first
    | with_reducible assumption | intro _
    | (extract_lets +onlyGivenNames x; refine Keeps.seq (m := m) (s0 := s0) x ?_ ?_; rotate_left; clear_value x; revert x; intro _ _; rotate_left; unfold x; clear x)
    | (extract_lets +onlyGivenNames x; revert x; intro _) | with_reducible refine Keeps.coll (by assumption) (Sub.bit 14 rfl hp)

theorem State.modPlan_keeps {m : Nat} {s0 s : State} (h : Keeps m s0 s) (hp : Sub 0x4000 m) (a1 a2 a3) : Keeps m s0 (State.modPlan s a1 a2 a3) := by
  unfold State.modPlan
  repeat' first | with_reducible assumption | exact hp.trans rfl | with_reducible apply State.setPlans_keeps | split

theorem State.setStage_keeps {m : Nat} {s0 s : State} (h : Keeps m s0 s) (hp : Sub 0x4000 m) (a1 a2) : Keeps m s0 (State.setStage s a1 a2) := by
  unfold State.setStage
  repeat' first | with_reducible assumption | exact hp.trans rfl | with_reducible apply State.modPlan_keeps

theorem State.setPlanCmds_keeps {m : Nat} {s0 s : State} (h : Keeps m s0 s) (hp : Sub 0x4000 m) (a1) : Keeps m s0 (State.setPlanCmds s a1) := by
  unfold State.setPlanCmds
  repeat' first
    | with_reducible assumption | intro _
    | (extract_lets +onlyGivenNames x; refine Keeps.seq (m := m) (s0 := s0) x ?_ ?_; rotate_left; clear_value x; revert x; intro _ _; rotate_left; unfold x; clear x)
    | (extract_lets +onlyGivenNames x; revert x; intro _) | with_reducible refine Keeps.coll (by assumption) (Sub.bit 14 rfl hp)

theorem State.planEnd_keeps {m : Nat} {s0 s : State} (h : Keeps m s0 s) (hp : Sub 0x10804000 m) (a1 a2 a3) : Keeps m s0 (State.planEnd s a1 a2 a3) := by
  unfold State.planEnd
  repeat' first
    | with_reducible assumption | exact hp.trans rfl | intro _
    | (extract_lets +onlyGivenNames x; refine Keeps.seq (m := m) (s0 := s0) x ?_ ?_; rotate_left; clear_value x; revert x; intro _ _; rotate_left; unfold x; clear x)
    | (extract_lets +onlyGivenNames x; revert x; intro _) | with_reducible apply State.setPlanCmds_keeps
    | with_reducible apply State.issue_keeps | split | (clear_value *; split)

theorem State.planRecorded_keeps {m : Nat} {s0 s : State} (h : Keeps m s0 s) (hp : Sub 0x8804106 m) (a1 a2) : Keeps m s0 (State.planRecorded s a1 a2) := by
  unfold State.planRecorded
  repeat' first
    | with_reducible assumption | exact hp.trans rfl | intro _
    | (extract_lets +onlyGivenNames x; refine Keeps.seq (m := m) (s0 := s0) x ?_ ?_; rotate_left; clear_value x; revert x; intro _ _; rotate_left; unfold x; clear x)
    | (extract_lets +onlyGivenNames x; revert x; intro _) | with_reducible apply State.setPlanCmds_keeps
    | with_reducible apply State.record_keeps | with_reducible apply State.srelLocal_keeps | split | (clear_value *; split)

theorem State.gatherAcquires_keeps {m : Nat} {s0 s : State} (h : Keeps m s0 s) (hp : Sub 0x10800800 m) (a1 a2) : Keeps m s0 (State.gatherAcquires s a1 a2) := by
  unfold State.gatherAcquires
  repeat' first
    | with_reducible assumption | exact hp.trans rfl | intro _ | with_reducible apply State.inputAcquire_keeps
    | with_reducible apply Keeps.foldl | with_reducible apply Keeps.foldl_fst | split

theorem State.launchNow_keeps {m : Nat} {s0 s : State} (h : Keeps m s0 s) (hp : Sub 0x1880480e m) (a1 a2) : Keeps m s0 (State.launchNow s a1 a2) := by
  unfold State.launchNow
  repeat' first
    | with_reducible assumption | exact hp.trans rfl | intro _
    | (extract_lets +onlyGivenNames x; refine Keeps.seq (m := m) (s0 := s0) x ?_ ?_; rotate_left; clear_value x; revert x; intro _ _; rotate_left; unfold x; clear x)
    | (extract_lets +onlyGivenNames x; refine Keeps.seq (m := m) (s0 := s0) x.1 ?_ ?_; rotate_left; clear_value x; revert x; intro _ _; rotate_left; unfold x; clear x)
    | (extract_lets +onlyGivenNames x; revert x; intro _) | with_reducible apply State.bindStages_keeps
    | with_reducible apply State.setRslot_keeps | with_reducible apply State.setPlans_keeps | with_reducible apply State.startTwin_keeps
    | with_reducible apply State.planEnd_keeps | with_reducible apply State.gatherAcquires_keeps | with_reducible apply Keeps.foldl
    | with_reducible apply Keeps.foldl_fst | with_reducible apply KeepsP.some_ | with_reducible apply KeepsP.none_
    | with_reducible refine KeepsP.map_ (fun _ => rfl) ?_ | with_reducible refine KeepsP.get (by assumption) ?_ | split
    | (clear_value *; split) | with_reducible refine Keeps.of_fst (by assumption) ?_

theorem State.launch_keeps {m : Nat} {s0 s : State} (h : Keeps m s0 s) (hp : Sub 0x1880480e m) (a1) : Keeps m s0 (State.launch s a1) := by
  unfold State.launch
  repeat' first
    | with_reducible assumption | exact hp.trans rfl | intro _
    | (extract_lets +onlyGivenNames x; refine Keeps.seq (m := m) (s0 := s0) x ?_ ?_; rotate_left; clear_value x; revert x; intro _ _; rotate_left; unfold x; clear x)
    | (extract_lets +onlyGivenNames x; revert x; intro _) | with_reducible apply State.planEnd_keeps
    | with_reducible apply State.launchNow_keeps | split | (clear_value *; split)

theorem State.rebind_keeps {m : Nat} {s0 s : State} (h : Keeps m s0 s) (hp : Sub 0x10804000 m) (a1) : Keeps m s0 (State.rebind s a1) := by
  unfold State.rebind
  repeat' first
    | with_reducible assumption | exact hp.trans rfl | with_reducible apply State.planEnd_keeps | with_reducible apply State.setStage_keeps
    | split

theorem State.planRun_keeps {m : Nat} {s0 s : State} (h : Keeps m s0 s) (hp : Sub 0x1880480e m) (a1) : Keeps m s0 (State.planRun s a1) := by
  unfold State.planRun
  repeat' first
    | with_reducible assumption | exact hp.trans rfl | with_reducible apply State.planEnd_keeps | with_reducible apply State.launch_keeps
    | with_reducible apply State.modPlan_keeps | with_reducible apply State.rebind_keeps | split

theorem State.planQueue_keeps {m : Nat} {s0 s : State} (h : Keeps m s0 s) (hp : Sub 0x1880480e m) (a1 a2) : Keeps m s0 (State.planQueue s a1 a2) := by
  unfold State.planQueue
  repeat' first
    | with_reducible assumption | exact hp.trans rfl | intro _
    | (extract_lets +onlyGivenNames x; refine Keeps.seq (m := m) (s0 := s0) x ?_ ?_; rotate_left; clear_value x; revert x; intro _ _; rotate_left; unfold x; clear x)
    | (extract_lets +onlyGivenNames x; revert x; intro _) | with_reducible apply State.planRun_keeps
    | with_reducible apply State.complete_keeps | with_reducible apply State.setPlanCmds_keeps

theorem State.planDoor_keeps {m : Nat} {s0 s : State} (h : Keeps m s0 s) (hp : Sub 0x18804c0e m) (a1 a2) : Keeps m s0 (State.planDoor s a1 a2) := by
  unfold State.planDoor
  repeat' first
    | with_reducible assumption | exact hp.trans rfl | intro _
    | (extract_lets +onlyGivenNames x; refine Keeps.seq (m := m) (s0 := s0) x ?_ ?_; rotate_left; clear_value x; revert x; intro _ _; rotate_left; unfold x; clear x)
    | (extract_lets +onlyGivenNames x; revert x; intro _) | with_reducible apply State.complete_keeps
    | with_reducible apply State.planQueue_keeps | with_reducible apply State.holdDoor_keeps | split | (clear_value *; split)

theorem execPlanLaunch_keeps {m : Nat} {s0 s : State} (h : Keeps m s0 s) (hp : Sub 0x18804c0e m) (a1) : Ends m s0 (execPlanLaunch a1 s) := by
  unfold execPlanLaunch
  repeat' first
    | with_reducible assumption | exact hp.trans rfl | with_reducible apply State.planDoor_keeps | with_reducible apply Ends.next

theorem execPlanStop_keeps {m : Nat} {s0 s : State} (h : Keeps m s0 s) (hp : Sub 0x18804c0e m) (a1) : Ends m s0 (execPlanStop a1 s) := by
  unfold execPlanStop
  repeat' first
    | with_reducible assumption | exact hp.trans rfl | with_reducible apply State.planDoor_keeps | with_reducible apply Ends.next

theorem execPlanRebind_keeps {m : Nat} {s0 s : State} (h : Keeps m s0 s) (hp : Sub 0x18804c0e m) (a1) : Ends m s0 (execPlanRebind a1 s) := by
  unfold execPlanRebind
  repeat' first
    | with_reducible assumption | exact hp.trans rfl | with_reducible apply State.planDoor_keeps | with_reducible apply Ends.next

theorem State.removePlan_keeps {m : Nat} {s0 s : State} (h : Keeps m s0 s) (hp : Sub 0x804800 m) (a1) : Keeps m s0 (State.removePlan s a1) := by
  unfold State.removePlan
  repeat' first
    | with_reducible assumption | exact hp.trans rfl | intro _
    | (extract_lets +onlyGivenNames x; refine Keeps.seq (m := m) (s0 := s0) x ?_ ?_; rotate_left; clear_value x; revert x; intro _ _; rotate_left; unfold x; clear x)
    | (extract_lets +onlyGivenNames x; revert x; intro _) | with_reducible apply State.unbindAll_keeps
    | with_reducible apply State.setRslot_keeps | with_reducible apply State.freeRslot_keeps | with_reducible apply State.dropTwin_keeps
    | with_reducible apply State.setPlans_keeps | with_reducible apply Keeps.foldl | with_reducible apply Keeps.foldl_fst | split
    | (clear_value *; split) | with_reducible refine Keeps.coll (by assumption) (Sub.bit 14 rfl hp)

theorem State.planStopDone_keeps {m : Nat} {s0 s : State} (h : Keeps m s0 s) (hp : Sub 0x10804800 m) (a1 a2) : Keeps m s0 (State.planStopDone s a1 a2) := by
  unfold State.planStopDone
  repeat' first
    | with_reducible assumption | exact hp.trans rfl | intro _
    | (extract_lets +onlyGivenNames x; refine Keeps.seq (m := m) (s0 := s0) x ?_ ?_; rotate_left; clear_value x; revert x; intro _ _; rotate_left; unfold x; clear x)
    | (extract_lets +onlyGivenNames x; revert x; intro _) | with_reducible apply State.removePlan_keeps
    | with_reducible apply State.planEnd_keeps | with_reducible apply Keeps.foldl | with_reducible apply Keeps.foldl_fst | split
    | (clear_value *; split)

theorem execPlanStopDone_keeps {m : Nat} {s0 s : State} (h : Keeps m s0 s) (hp : Sub 0x10804800 m) (a1 a2) : Ends m s0 (execPlanStopDone a1 a2 s) := by
  unfold execPlanStopDone
  repeat' first
    | with_reducible assumption | exact hp.trans rfl | with_reducible apply State.planStopDone_keeps | with_reducible apply Ends.next

end Sys2Proof.Machine
end

