-- ==== Sys2Proof/Laws/KeepsTileWord.lean ====
section
/-!
SUPPORT. The operations of Machine/TileWord.lean leave the queue of waiting commands alone and keep the canonical form.
-/
namespace Sys2Proof.Machine

set_option linter.all false

theorem State.issueAt_keeps {m : Nat} {s0 s : State} (h : Keeps m s0 s) (hp : Sub 0x8804806 m) (a1 a2 a3) (hf : ∀ t x1, Keeps m s0 t → KeepsO m s0 (a3 t x1)) : Keeps m s0 (State.issueAt s a1 a2 a3) := by
  unfold State.issueAt
  repeat' first
    | with_reducible assumption | exact hp.trans rfl | intro _ | with_reducible apply hf
    | (extract_lets +onlyGivenNames x; refine Keeps.seq (m := m) (s0 := s0) x ?_ ?_; rotate_left; clear_value x; revert x; intro _ _; rotate_left; unfold x; clear x)
    | (extract_lets +onlyGivenNames x; revert x; intro _) | with_reducible apply State.preempt_keeps | with_reducible apply State.turn_keeps
    | with_reducible apply State.ctxFault_keeps | with_reducible apply State.count_keeps | with_reducible apply State.scrub_keeps
    | with_reducible apply KeepsO.some_ | with_reducible apply KeepsO.none_ | with_reducible apply KeepsO.getD
    | with_reducible refine KeepsO.get (by assumption) ?_ | split | (clear_value *; split)

theorem State.issueOp_keeps {m : Nat} {s0 s : State} (h : Keeps m s0 s) (hp : Sub 0x8804806 m) (a1 a2 a3 a4) (hf : ∀ t x1, Keeps m s0 t → Keeps m s0 (a4 t x1)) : Keeps m s0 (State.issueOp s a1 a2 a3 a4) := by
  unfold State.issueOp
  repeat' first
    | with_reducible assumption | exact hp.trans rfl | intro _ | with_reducible apply hf | with_reducible apply State.issueAt_keeps
    | with_reducible apply State.preempt_keeps | with_reducible apply State.tick_keeps | with_reducible apply KeepsO.some_
    | with_reducible apply KeepsO.none_ | with_reducible apply KeepsO.getD | with_reducible refine KeepsO.get (by assumption) ?_ | split

theorem State.retire_keeps {m : Nat} {s0 s : State} (h : Keeps m s0 s) (hp : Sub 0x802 m) (a1 a2 a3) : Keeps m s0 (State.retire s a1 a2 a3) := by
  unfold State.retire
  repeat' first
    | with_reducible assumption | exact hp.trans rfl | with_reducible apply State.count_keeps | with_reducible apply State.setCtx_keeps

theorem State.illegal_keeps {m : Nat} {s0 s : State} (h : Keeps m s0 s) (hp : Sub 0x8804806 m) (a1 a2) : Keeps m s0 (State.illegal s a1 a2) := by
  unfold State.illegal
  repeat' first
    | with_reducible assumption | exact hp.trans rfl | intro _ | with_reducible apply State.issueAt_keeps
    | with_reducible apply State.ctxFault_keeps | with_reducible apply KeepsO.some_ | with_reducible apply KeepsO.none_
    | with_reducible apply KeepsO.getD | with_reducible refine KeepsO.get (by assumption) ?_ | split

theorem execIllegalInstruction_keeps {m : Nat} {s0 s : State} (h : Keeps m s0 s) (hp : Sub 0x8804806 m) (a1 a2) : Ends m s0 (execIllegalInstruction a1 a2 s) := by
  unfold execIllegalInstruction
  repeat' first | with_reducible assumption | exact hp.trans rfl | with_reducible apply State.illegal_keeps | with_reducible apply Ends.next

end Sys2Proof.Machine
end

