-- ==== Sys2Proof/Laws/KeepsTileScalar.lean ====
section
/-!
SUPPORT. The operations of Machine/TileScalar.lean leave the queue of waiting commands alone and keep the canonical form.
-/
namespace Sys2Proof.Machine

set_option linter.all false

theorem State.scalar_keeps {m : Nat} {s0 s : State} (h : Keeps m s0 s) (hp : Sub 0x8804806 m) (a1 a2 a3 a4) : Keeps m s0 (State.scalar s a1 a2 a3 a4) := by
  unfold State.scalar
  repeat' first
    | with_reducible assumption | exact hp.trans rfl | intro _ | with_reducible apply State.issueOp_keeps
    | with_reducible apply State.retire_keeps

theorem execSadd_keeps {m : Nat} {s0 s : State} (h : Keeps m s0 s) (hp : Sub 0x8804806 m) (a1 a2) : Ends m s0 (execSadd a1 a2 s) := by
  unfold execSadd
  repeat' first | with_reducible assumption | exact hp.trans rfl | with_reducible apply State.scalar_keeps | with_reducible apply Ends.next

theorem execSsub_keeps {m : Nat} {s0 s : State} (h : Keeps m s0 s) (hp : Sub 0x8804806 m) (a1 a2) : Ends m s0 (execSsub a1 a2 s) := by
  unfold execSsub
  repeat' first | with_reducible assumption | exact hp.trans rfl | with_reducible apply State.scalar_keeps | with_reducible apply Ends.next

theorem execSmul_keeps {m : Nat} {s0 s : State} (h : Keeps m s0 s) (hp : Sub 0x8804806 m) (a1 a2) : Ends m s0 (execSmul a1 a2 s) := by
  unfold execSmul
  repeat' first | with_reducible assumption | exact hp.trans rfl | with_reducible apply State.scalar_keeps | with_reducible apply Ends.next

theorem execSand_keeps {m : Nat} {s0 s : State} (h : Keeps m s0 s) (hp : Sub 0x8804806 m) (a1 a2) : Ends m s0 (execSand a1 a2 s) := by
  unfold execSand
  repeat' first | with_reducible assumption | exact hp.trans rfl | with_reducible apply State.scalar_keeps | with_reducible apply Ends.next

theorem execSor_keeps {m : Nat} {s0 s : State} (h : Keeps m s0 s) (hp : Sub 0x8804806 m) (a1 a2) : Ends m s0 (execSor a1 a2 s) := by
  unfold execSor
  repeat' first | with_reducible assumption | exact hp.trans rfl | with_reducible apply State.scalar_keeps | with_reducible apply Ends.next

theorem execSxor_keeps {m : Nat} {s0 s : State} (h : Keeps m s0 s) (hp : Sub 0x8804806 m) (a1 a2) : Ends m s0 (execSxor a1 a2 s) := by
  unfold execSxor
  repeat' first | with_reducible assumption | exact hp.trans rfl | with_reducible apply State.scalar_keeps | with_reducible apply Ends.next

theorem execSshl_keeps {m : Nat} {s0 s : State} (h : Keeps m s0 s) (hp : Sub 0x8804806 m) (a1 a2) : Ends m s0 (execSshl a1 a2 s) := by
  unfold execSshl
  repeat' first | with_reducible assumption | exact hp.trans rfl | with_reducible apply State.scalar_keeps | with_reducible apply Ends.next

theorem execSshr_keeps {m : Nat} {s0 s : State} (h : Keeps m s0 s) (hp : Sub 0x8804806 m) (a1 a2) : Ends m s0 (execSshr a1 a2 s) := by
  unfold execSshr
  repeat' first | with_reducible assumption | exact hp.trans rfl | with_reducible apply State.scalar_keeps | with_reducible apply Ends.next

theorem execSsra_keeps {m : Nat} {s0 s : State} (h : Keeps m s0 s) (hp : Sub 0x8804806 m) (a1 a2) : Ends m s0 (execSsra a1 a2 s) := by
  unfold execSsra
  repeat' first | with_reducible assumption | exact hp.trans rfl | with_reducible apply State.scalar_keeps | with_reducible apply Ends.next

theorem execSmin_keeps {m : Nat} {s0 s : State} (h : Keeps m s0 s) (hp : Sub 0x8804806 m) (a1 a2) : Ends m s0 (execSmin a1 a2 s) := by
  unfold execSmin
  repeat' first
    | with_reducible assumption | exact hp.trans rfl | with_reducible apply State.scalar_keeps | with_reducible apply Ends.next | split

theorem execSmax_keeps {m : Nat} {s0 s : State} (h : Keeps m s0 s) (hp : Sub 0x8804806 m) (a1 a2) : Ends m s0 (execSmax a1 a2 s) := by
  unfold execSmax
  repeat' first
    | with_reducible assumption | exact hp.trans rfl | with_reducible apply State.scalar_keeps | with_reducible apply Ends.next | split

theorem execScmp_keeps {m : Nat} {s0 s : State} (h : Keeps m s0 s) (hp : Sub 0x8804806 m) (a1 a2) : Ends m s0 (execScmp a1 a2 s) := by
  unfold execScmp
  repeat' first
    | with_reducible assumption | exact hp.trans rfl | with_reducible apply State.scalar_keeps | with_reducible apply Ends.next | split

theorem execSmov_keeps {m : Nat} {s0 s : State} (h : Keeps m s0 s) (hp : Sub 0x8804806 m) (a1 a2) : Ends m s0 (execSmov a1 a2 s) := by
  unfold execSmov
  repeat' first | with_reducible assumption | exact hp.trans rfl | with_reducible apply State.scalar_keeps | with_reducible apply Ends.next

theorem execSli_keeps {m : Nat} {s0 s : State} (h : Keeps m s0 s) (hp : Sub 0x8804806 m) (a1 a2) : Ends m s0 (execSli a1 a2 s) := by
  unfold execSli
  repeat' first | with_reducible assumption | exact hp.trans rfl | with_reducible apply State.scalar_keeps | with_reducible apply Ends.next

theorem execSlih_keeps {m : Nat} {s0 s : State} (h : Keeps m s0 s) (hp : Sub 0x8804806 m) (a1 a2) : Ends m s0 (execSlih a1 a2 s) := by
  unfold execSlih
  repeat' first | with_reducible assumption | exact hp.trans rfl | with_reducible apply State.scalar_keeps | with_reducible apply Ends.next

theorem execSget_keeps {m : Nat} {s0 s : State} (h : Keeps m s0 s) (hp : Sub 0x8804806 m) (a1 a2) : Ends m s0 (execSget a1 a2 s) := by
  unfold execSget
  repeat' first | with_reducible assumption | exact hp.trans rfl | with_reducible apply State.scalar_keeps | with_reducible apply Ends.next

theorem execSput_keeps {m : Nat} {s0 s : State} (h : Keeps m s0 s) (hp : Sub 0x8804806 m) (a1 a2) : Ends m s0 (execSput a1 a2 s) := by
  unfold execSput
  repeat' first
    | with_reducible assumption | exact hp.trans rfl | intro _
    | (extract_lets +onlyGivenNames x; refine Keeps.seq (m := m) (s0 := s0) x ?_ ?_; rotate_left; clear_value x; revert x; intro _ _; rotate_left; unfold x; clear x)
    | (extract_lets +onlyGivenNames x; revert x; intro _) | with_reducible apply State.issueOp_keeps
    | with_reducible apply State.retire_keeps | with_reducible apply Ends.next

theorem execSpcnt_keeps {m : Nat} {s0 s : State} (h : Keeps m s0 s) (hp : Sub 0x8804806 m) (a1 a2) : Ends m s0 (execSpcnt a1 a2 s) := by
  unfold execSpcnt
  repeat' first | with_reducible assumption | exact hp.trans rfl | with_reducible apply State.scalar_keeps | with_reducible apply Ends.next

theorem execPfirst_keeps {m : Nat} {s0 s : State} (h : Keeps m s0 s) (hp : Sub 0x8804806 m) (a1 a2) : Ends m s0 (execPfirst a1 a2 s) := by
  unfold execPfirst
  repeat' first
    | with_reducible assumption | exact hp.trans rfl | intro _ | with_reducible apply State.issueOp_keeps
    | with_reducible apply State.retire_keeps | with_reducible apply Ends.next

theorem execSstat_keeps {m : Nat} {s0 s : State} (h : Keeps m s0 s) (hp : Sub 0x8804806 m) (a1 a2) : Ends m s0 (execSstat a1 a2 s) := by
  unfold execSstat
  repeat' first | with_reducible assumption | exact hp.trans rfl | with_reducible apply State.scalar_keeps | with_reducible apply Ends.next

theorem execSclrf_keeps {m : Nat} {s0 s : State} (h : Keeps m s0 s) (hp : Sub 0x8804806 m) (a1 a2) : Ends m s0 (execSclrf a1 a2 s) := by
  unfold execSclrf
  repeat' first
    | with_reducible assumption | exact hp.trans rfl | intro _ | with_reducible apply State.issueOp_keeps
    | with_reducible apply State.retire_keeps | with_reducible apply Ends.next

theorem execScyc_keeps {m : Nat} {s0 s : State} (h : Keeps m s0 s) (hp : Sub 0x880480e m) (a1 a2) : Ends m s0 (execScyc a1 a2 s) := by
  unfold execScyc
  repeat' first
    | with_reducible assumption | exact hp.trans rfl | intro _ | with_reducible apply State.issueOp_keeps
    | with_reducible apply State.retire_keeps | with_reducible apply State.took_keeps | with_reducible apply Ends.next

theorem State.branch_keeps {m : Nat} {s0 s : State} (h : Keeps m s0 s) (hp : Sub 0x802 m) (a1 a2 a3 a4 a5) : Keeps m s0 (State.branch s a1 a2 a3 a4 a5) := by
  unfold State.branch
  repeat' first
    | with_reducible assumption | exact hp.trans rfl | with_reducible apply State.count_keeps | with_reducible apply State.setCtx_keeps
    | with_reducible apply State.retire_keeps | split

theorem execBr_keeps {m : Nat} {s0 s : State} (h : Keeps m s0 s) (hp : Sub 0x8804806 m) (a1 a2) : Ends m s0 (execBr a1 a2 s) := by
  unfold execBr
  repeat' first
    | with_reducible assumption | exact hp.trans rfl | intro _ | with_reducible apply State.issueOp_keeps
    | with_reducible apply State.branch_keeps | with_reducible apply Ends.next

theorem execLoopDec_keeps {m : Nat} {s0 s : State} (h : Keeps m s0 s) (hp : Sub 0x8804806 m) (a1 a2) : Ends m s0 (execLoopDec a1 a2 s) := by
  unfold execLoopDec
  repeat' first
    | with_reducible assumption | exact hp.trans rfl | intro _
    | (extract_lets +onlyGivenNames x; refine Keeps.seq (m := m) (s0 := s0) x ?_ ?_; rotate_left; clear_value x; revert x; intro _ _; rotate_left; unfold x; clear x)
    | (extract_lets +onlyGivenNames x; revert x; intro _) | with_reducible apply State.issueOp_keeps
    | with_reducible apply State.branch_keeps | with_reducible apply Ends.next

theorem State.stagedRead_keeps {m : Nat} {s0 s : State} (h : Keeps m s0 s) (hp : Sub 0x802 m) (a1 a2 a3) : Keeps m s0 (State.stagedRead s a1 a2 a3).1 := by
  unfold State.stagedRead
  repeat' first
    | with_reducible assumption | exact hp.trans rfl | intro _
    | (extract_lets +onlyGivenNames x; refine Keeps.seq (m := m) (s0 := s0) x ?_ ?_; rotate_left; clear_value x; revert x; intro _ _; rotate_left; unfold x; clear x)
    | (extract_lets +onlyGivenNames x; refine Keeps.seq (m := m) (s0 := s0) x.1 ?_ ?_; rotate_left; clear_value x; revert x; intro _ _; rotate_left; unfold x; clear x)
    | (extract_lets +onlyGivenNames x; revert x; intro _) | with_reducible apply State.sramInject_keeps
    | with_reducible apply State.scrub_keeps | with_reducible apply State.count_keeps | with_reducible apply KeepsO.some_
    | with_reducible apply KeepsO.none_ | with_reducible apply KeepsO.getD | with_reducible refine KeepsO.get (by assumption) ?_ | split
    | (clear_value *; split) | with_reducible refine Keeps.of_fst (by assumption) ?_

theorem State.loadEntry_keeps {m : Nat} {s0 s : State} (h : Keeps m s0 s) (hp : Sub 0x800 m) (a1 a2 a3) : Keeps m s0 (State.loadEntry s a1 a2 a3) := by
  unfold State.loadEntry
  repeat' first | with_reducible assumption | exact hp.trans rfl | with_reducible apply State.setCtx_keeps

theorem State.loadArrival_keeps {m : Nat} {s0 s : State} (h : Keeps m s0 s) (hp : Sub 0x802 m) (a1 a2 a3) : Keeps m s0 (State.loadArrival s a1 a2 a3) := by
  unfold State.loadArrival
  repeat' first
    | with_reducible assumption | exact hp.trans rfl | intro _
    | (extract_lets +onlyGivenNames x; refine Keeps.seq (m := m) (s0 := s0) x ?_ ?_; rotate_left; clear_value x; revert x; intro _ _; rotate_left; unfold x; clear x)
    | (extract_lets +onlyGivenNames x; refine Keeps.seq (m := m) (s0 := s0) x.1 ?_ ?_; rotate_left; clear_value x; revert x; intro _ _; rotate_left; unfold x; clear x)
    | (extract_lets +onlyGivenNames x; revert x; intro _) | with_reducible apply State.stagedRead_keeps
    | with_reducible apply State.setTile_keeps | with_reducible apply State.loadEntry_keeps | with_reducible apply State.setCtx_keeps
    | split | (clear_value *; split) | with_reducible refine Keeps.of_fst (by assumption) ?_

theorem execYield_keeps {m : Nat} {s0 s : State} (h : Keeps m s0 s) (hp : Sub 0x8804806 m) (a1 a2) : Ends m s0 (execYield a1 a2 s) := by
  unfold execYield
  repeat' first
    | with_reducible assumption | exact hp.trans rfl | intro _
    | (extract_lets +onlyGivenNames x; refine Keeps.seq (m := m) (s0 := s0) x ?_ ?_; rotate_left; clear_value x; revert x; intro _ _; rotate_left; unfold x; clear x)
    | (extract_lets +onlyGivenNames x; revert x; intro _) | with_reducible apply State.issueOp_keeps
    | with_reducible apply State.retire_keeps | with_reducible apply State.loadArrival_keeps | with_reducible apply Ends.next | split
    | (clear_value *; split)

theorem execEndCtx_keeps {m : Nat} {s0 s : State} (h : Keeps m s0 s) (hp : Sub 0x8804806 m) (a1 a2) : Ends m s0 (execEndCtx a1 a2 s) := by
  unfold execEndCtx
  repeat' first
    | with_reducible assumption | exact hp.trans rfl | intro _
    | (extract_lets +onlyGivenNames x; refine Keeps.seq (m := m) (s0 := s0) x ?_ ?_; rotate_left; clear_value x; revert x; intro _ _; rotate_left; unfold x; clear x)
    | (extract_lets +onlyGivenNames x; revert x; intro _) | with_reducible apply State.issueOp_keeps
    | with_reducible apply State.enterDrain_keeps | with_reducible apply State.count_keeps | with_reducible apply State.setCtx_keeps
    | with_reducible apply Ends.next

theorem State.arrive_keeps {m : Nat} {s0 s : State} (h : Keeps m s0 s) (hp : Sub 0x802 m) (a1 a2 a3 a4) : Keeps m s0 (State.arrive s a1 a2 a3 a4) := by
  unfold State.arrive
  repeat' first
    | with_reducible assumption | exact hp.trans rfl | intro _
    | (extract_lets +onlyGivenNames x; refine Keeps.seq (m := m) (s0 := s0) x ?_ ?_; rotate_left; clear_value x; revert x; intro _ _; rotate_left; unfold x; clear x)
    | (extract_lets +onlyGivenNames x; revert x; intro _) | with_reducible apply State.setTile_keeps
    | with_reducible apply State.sramWrite_keeps | with_reducible apply State.count_keeps | with_reducible apply State.loadArrival_keeps
    | split | (clear_value *; split)

theorem State.land_keeps {m : Nat} {s0 s : State} (h : Keeps m s0 s) (hp : Sub 0x802 m) (a1 a2 a3 a4) : Keeps m s0 (State.land s a1 a2 a3 a4).1 := by
  unfold State.land
  repeat' first
    | with_reducible assumption | exact hp.trans rfl | intro _
    | (extract_lets +onlyGivenNames x; refine Keeps.seq (m := m) (s0 := s0) x ?_ ?_; rotate_left; clear_value x; revert x; intro _ _; rotate_left; unfold x; clear x)
    | (extract_lets +onlyGivenNames x; refine Keeps.seq (m := m) (s0 := s0) x.1 ?_ ?_; rotate_left; clear_value x; revert x; intro _ _; rotate_left; unfold x; clear x)
    | (extract_lets +onlyGivenNames x; revert x; intro _) | with_reducible apply State.stagedRead_keeps
    | with_reducible apply State.count_keeps | with_reducible apply State.sramWrite_keeps | with_reducible apply State.loadEntry_keeps
    | split | (clear_value *; split) | with_reducible refine Keeps.of_fst (by assumption) ?_

theorem State.arriveWaiting_keeps {m : Nat} {s0 s : State} (h : Keeps m s0 s) (hp : Sub 0x802 m) (a1) : Keeps m s0 (State.arriveWaiting s a1) := by
  unfold State.arriveWaiting
  repeat' first
    | with_reducible assumption | exact hp.trans rfl | intro _
    | (extract_lets +onlyGivenNames x; refine Keeps.seq (m := m) (s0 := s0) x ?_ ?_; rotate_left; clear_value x; revert x; intro _ _; rotate_left; unfold x; clear x)
    | (extract_lets +onlyGivenNames x; revert x; intro _) | with_reducible apply State.setTile_keeps
    | with_reducible apply State.arrive_keeps | with_reducible apply Keeps.foldl | with_reducible apply Keeps.foldl_fst | split
    | (clear_value *; split)

theorem State.stfree_keeps {m : Nat} {s0 s : State} (h : Keeps m s0 s) (hp : Sub 0x802 m) (a1 a2 a3) : Keeps m s0 (State.stfree s a1 a2 a3) := by
  unfold State.stfree
  repeat' first
    | with_reducible assumption | exact hp.trans rfl | intro _
    | (extract_lets +onlyGivenNames x; refine Keeps.seq (m := m) (s0 := s0) x ?_ ?_; rotate_left; clear_value x; revert x; intro _ _; rotate_left; unfold x; clear x)
    | (extract_lets +onlyGivenNames x; revert x; intro _) | with_reducible apply State.arriveWaiting_keeps
    | with_reducible apply State.setTile_keeps | split | (clear_value *; split)

theorem execStfree_keeps {m : Nat} {s0 s : State} (h : Keeps m s0 s) (hp : Sub 0x8804806 m) (a1 a2) : Ends m s0 (execStfree a1 a2 s) := by
  unfold execStfree
  repeat' first
    | with_reducible assumption | exact hp.trans rfl | intro _
    | (extract_lets +onlyGivenNames x; refine Keeps.seq (m := m) (s0 := s0) x ?_ ?_; rotate_left; clear_value x; revert x; intro _ _; rotate_left; unfold x; clear x)
    | (extract_lets +onlyGivenNames x; revert x; intro _) | with_reducible apply State.issueOp_keeps
    | with_reducible apply State.stfree_keeps | with_reducible apply State.retire_keeps | with_reducible apply State.setCtx_keeps
    | with_reducible apply Ends.next | split | (clear_value *; split)

theorem execNop_keeps {m : Nat} {s0 s : State} (h : Keeps m s0 s) (hp : Sub 0x8804806 m) (a1 a2) : Ends m s0 (execNop a1 a2 s) := by
  unfold execNop
  repeat' first
    | with_reducible assumption | exact hp.trans rfl | intro _ | with_reducible apply State.issueOp_keeps
    | with_reducible apply State.retire_keeps | with_reducible apply Ends.next

end Sys2Proof.Machine
end

