-- ==== Sys2Proof/Laws/KeepsCollectives.lean ====
section
/-!
SUPPORT. The operations of Machine/Collectives.lean leave the queue of waiting commands alone and keep the canonical form.
-/
namespace Sys2Proof.Machine

set_option linter.all false

theorem State.colDiscard_keeps {m : Nat} {s0 s : State} (h : Keeps m s0 s) (hp : Sub 0x8800006 m) (a1 a2) : Keeps m s0 (State.colDiscard s a1 a2) := by
  unfold State.colDiscard
  repeat' first
    | with_reducible assumption | exact hp.trans rfl | intro _
    | (extract_lets +onlyGivenNames x; refine Keeps.seq (m := m) (s0 := s0) x ?_ ?_; rotate_left; clear_value x; revert x; intro _ _; rotate_left; unfold x; clear x)
    | (extract_lets +onlyGivenNames x; revert x; intro _) | with_reducible apply State.record_keeps | split | (clear_value *; split)

theorem State.forwardResult_keeps {m : Nat} {s0 s : State} (h : Keeps m s0 s) (hp : Sub 0x10000000 m) (a1 a2 a3 a4 a5 a6 a7) : Keeps m s0 (State.forwardResult s a1 a2 a3 a4 a5 a6 a7) := by
  induction a6 generalizing s a1 a2 a3 a4 a5 a7 with
  | zero =>
    unfold State.forwardResult
    repeat' first
      | with_reducible assumption | exact hp.trans rfl | intro _
      | (extract_lets +onlyGivenNames x; refine Keeps.seq (m := m) (s0 := s0) x ?_ ?_; rotate_left; clear_value x; revert x; intro _ _; rotate_left; unfold x; clear x)
      | (extract_lets +onlyGivenNames x; revert x; intro _) | with_reducible apply State.send_keeps | with_reducible apply Keeps.foldl
      | with_reducible apply Keeps.foldl_fst | split | (clear_value *; split)
  | succ _ ih =>
    unfold State.forwardResult
    repeat' first
      | with_reducible assumption | with_reducible apply ih | exact hp.trans rfl | intro _
      | (extract_lets +onlyGivenNames x; refine Keeps.seq (m := m) (s0 := s0) x ?_ ?_; rotate_left; clear_value x; revert x; intro _ _; rotate_left; unfold x; clear x)
      | (extract_lets +onlyGivenNames x; revert x; intro _) | with_reducible apply State.send_keeps | with_reducible apply Keeps.foldl
      | with_reducible apply Keeps.foldl_fst | split | (clear_value *; split)

theorem State.slotWrite_keeps {m : Nat} {s0 s : State} (h : Keeps m s0 s) (hp : Sub 0x10004010 m) (a1 a2 a3 a4 a5) : Keeps m s0 (State.slotWrite s a1 a2 a3 a4 a5) := by
  unfold State.slotWrite
  repeat' first
    | with_reducible assumption | exact hp.trans rfl | intro _
    | (extract_lets +onlyGivenNames x; refine Keeps.seq (m := m) (s0 := s0) x ?_ ?_; rotate_left; clear_value x; revert x; intro _ _; rotate_left; unfold x; clear x)
    | (extract_lets +onlyGivenNames x; revert x; intro _) | with_reducible apply State.setRslot_keeps
    | with_reducible apply State.writeMem_keeps | with_reducible apply State.forwardResult_keeps | with_reducible apply Keeps.foldl
    | with_reducible apply Keeps.foldl_fst | split | (clear_value *; split)

theorem State.slotResult_keeps {m : Nat} {s0 s : State} (h : Keeps m s0 s) (hp : Sub 0x10804018 m) (a1 a2 a3 a4 a5 a6 a7) : Keeps m s0 (State.slotResult s a1 a2 a3 a4 a5 a6 a7) := by
  unfold State.slotResult
  repeat' first
    | with_reducible assumption | exact hp.trans rfl | intro _
    | (extract_lets +onlyGivenNames x; refine Keeps.seq (m := m) (s0 := s0) x ?_ ?_; rotate_left; clear_value x; revert x; intro _ _; rotate_left; unfold x; clear x)
    | (extract_lets +onlyGivenNames x; revert x; intro _) | with_reducible apply State.visible_keeps
    | with_reducible apply State.slotWrite_keeps | split | (clear_value *; split)
    | with_reducible refine Keeps.coll (by assumption) (Sub.bit 14 rfl hp)

theorem State.ownResult_keeps {m : Nat} {s0 s : State} (h : Keeps m s0 s) (hp : Sub 0x10804018 m) (a1 a2 a3 a4 a5 a6) : Keeps m s0 (State.ownResult s a1 a2 a3 a4 a5 a6) := by
  unfold State.ownResult
  repeat' first
    | with_reducible assumption | exact hp.trans rfl | intro _
    | (extract_lets +onlyGivenNames x; refine Keeps.seq (m := m) (s0 := s0) x ?_ ?_; rotate_left; clear_value x; revert x; intro _ _; rotate_left; unfold x; clear x)
    | (extract_lets +onlyGivenNames x; revert x; intro _) | with_reducible apply State.slotResult_keeps

theorem State.rootResult_keeps {m : Nat} {s0 s : State} (h : Keeps m s0 s) (hp : Sub 0x10804018 m) (a1 a2 a3 a4 a5 a6) : Keeps m s0 (State.rootResult s a1 a2 a3 a4 a5 a6) := by
  unfold State.rootResult
  repeat' first
    | with_reducible assumption | exact hp.trans rfl | intro _
    | (extract_lets +onlyGivenNames x; refine Keeps.seq (m := m) (s0 := s0) x ?_ ?_; rotate_left; clear_value x; revert x; intro _ _; rotate_left; unfold x; clear x)
    | (extract_lets +onlyGivenNames x; revert x; intro _) | with_reducible apply State.ownResult_keeps
    | with_reducible apply State.send_keeps | with_reducible apply Keeps.foldl | with_reducible apply Keeps.foldl_fst | split
    | (clear_value *; split)

theorem State.stragglerNote_keeps {m : Nat} {s0 s : State} (h : Keeps m s0 s) (hp : Sub 0x8800006 m) (a1 a2 a3 a4) : Keeps m s0 (State.stragglerNote s a1 a2 a3 a4) := by
  unfold State.stragglerNote
  repeat' first
    | with_reducible assumption | exact hp.trans rfl | intro _
    | (extract_lets +onlyGivenNames x; refine Keeps.seq (m := m) (s0 := s0) x ?_ ?_; rotate_left; clear_value x; revert x; intro _ _; rotate_left; unfold x; clear x)
    | (extract_lets +onlyGivenNames x; revert x; intro _) | with_reducible apply State.record_keeps

theorem State.skewEntry_keeps {m : Nat} {s0 s : State} (h : Keeps m s0 s) (hp : Sub 0x8804016 m) (a1 a2 a3 a4) : Keeps m s0 (State.skewEntry s a1 a2 a3 a4) := by
  unfold State.skewEntry
  repeat' first
    | with_reducible assumption | exact hp.trans rfl | intro _
    | (extract_lets +onlyGivenNames x; refine Keeps.seq (m := m) (s0 := s0) x ?_ ?_; rotate_left; clear_value x; revert x; intro _ _; rotate_left; unfold x; clear x)
    | (extract_lets +onlyGivenNames x; revert x; intro _) | with_reducible apply State.writeMem_keeps
    | with_reducible apply State.setStage_keeps | with_reducible apply State.stragglerNote_keeps | split | (clear_value *; split)

theorem State.segmentDone_keeps {m : Nat} {s0 s : State} (h : Keeps m s0 s) (hp : Sub 0x8804016 m) (a1 a2 a3 a4) : Keeps m s0 (State.segmentDone s a1 a2 a3 a4) := by
  unfold State.segmentDone
  repeat' first
    | with_reducible assumption | exact hp.trans rfl | intro _
    | (extract_lets +onlyGivenNames x; refine Keeps.seq (m := m) (s0 := s0) x ?_ ?_; rotate_left; clear_value x; revert x; intro _ _; rotate_left; unfold x; clear x)
    | (extract_lets +onlyGivenNames x; revert x; intro _) | with_reducible apply State.setStage_keeps
    | with_reducible apply State.skewEntry_keeps | with_reducible apply Keeps.foldl | with_reducible apply Keeps.foldl_fst | split
    | (clear_value *; split)

theorem State.emitSegment_keeps {m : Nat} {s0 s : State} (h : Keeps m s0 s) (hp : Sub 0x1880401e m) (a1 a2 a3 a4 a5 a6) : Keeps m s0 (State.emitSegment s a1 a2 a3 a4 a5 a6) := by
  unfold State.emitSegment
  repeat' first
    | with_reducible assumption | exact hp.trans rfl | intro _
    | (extract_lets +onlyGivenNames x; refine Keeps.seq (m := m) (s0 := s0) x ?_ ?_; rotate_left; clear_value x; revert x; intro _ _; rotate_left; unfold x; clear x)
    | (extract_lets +onlyGivenNames x; revert x; intro _) | with_reducible apply State.rootResult_keeps
    | with_reducible apply State.send_keeps | with_reducible apply State.segmentDone_keeps | split | (clear_value *; split)

theorem State.emitReduced_keeps {m : Nat} {s0 s : State} (h : Keeps m s0 s) (hp : Sub 0x1880401e m) (a1 a2 a3) : Keeps m s0 (State.emitReduced s a1 a2 a3) := by
  unfold State.emitReduced
  repeat' first
    | with_reducible assumption | exact hp.trans rfl | intro _
    | (extract_lets +onlyGivenNames x; refine Keeps.seq (m := m) (s0 := s0) x ?_ ?_; rotate_left; clear_value x; revert x; intro _ _; rotate_left; unfold x; clear x)
    | (extract_lets +onlyGivenNames x; revert x; intro _) | with_reducible apply State.setStage_keeps
    | with_reducible apply State.emitSegment_keeps | split | (clear_value *; split)

theorem State.emitGathered_keeps {m : Nat} {s0 s : State} (h : Keeps m s0 s) (hp : Sub 0x1880401e m) (a1 a2 a3 a4) : Keeps m s0 (State.emitGathered s a1 a2 a3 a4) := by
  unfold State.emitGathered
  repeat' first
    | with_reducible assumption | exact hp.trans rfl | intro _
    | (extract_lets +onlyGivenNames x; refine Keeps.seq (m := m) (s0 := s0) x ?_ ?_; rotate_left; clear_value x; revert x; intro _ _; rotate_left; unfold x; clear x)
    | (extract_lets +onlyGivenNames x; revert x; intro _) | with_reducible apply State.emitSegment_keeps | with_reducible apply Keeps.foldl
    | with_reducible apply Keeps.foldl_fst | split | (clear_value *; split)

theorem State.emitFilter_keeps {m : Nat} {s0 s : State} (h : Keeps m s0 s) (hp : Sub 0x1880401e m) (a1 a2 a3) : Keeps m s0 (State.emitFilter s a1 a2 a3) := by
  unfold State.emitFilter
  repeat' first
    | with_reducible assumption | exact hp.trans rfl | intro _
    | (extract_lets +onlyGivenNames x; refine Keeps.seq (m := m) (s0 := s0) x ?_ ?_; rotate_left; clear_value x; revert x; intro _ _; rotate_left; unfold x; clear x)
    | (extract_lets +onlyGivenNames x; revert x; intro _) | with_reducible apply State.setStage_keeps
    | with_reducible apply State.took_keeps | with_reducible apply State.ownResult_keeps | with_reducible apply State.record_keeps
    | with_reducible apply State.segmentDone_keeps | with_reducible apply Keeps.foldl | with_reducible apply Keeps.foldl_fst | split
    | (clear_value *; split)

theorem State.colReduce_keeps {m : Nat} {s0 s : State} (h : Keeps m s0 s) (hp : Sub 0x1880401e m) (a1 a2 a3 a4 a5) : Keeps m s0 (State.colReduce s a1 a2 a3 a4 a5) := by
  unfold State.colReduce
  repeat' first
    | with_reducible assumption | exact hp.trans rfl | intro _
    | (extract_lets +onlyGivenNames x; refine Keeps.seq (m := m) (s0 := s0) x ?_ ?_; rotate_left; clear_value x; revert x; intro _ _; rotate_left; unfold x; clear x)
    | (extract_lets +onlyGivenNames x; revert x; intro _) | with_reducible apply State.took_keeps
    | with_reducible apply State.emitReduced_keeps | with_reducible apply State.setStage_keeps | split | (clear_value *; split)

theorem State.colPlace_keeps {m : Nat} {s0 s : State} (h : Keeps m s0 s) (hp : Sub 0x1880401e m) (a1 a2 a3 a4 a5) : Keeps m s0 (State.colPlace s a1 a2 a3 a4 a5) := by
  unfold State.colPlace
  repeat' first
    | with_reducible assumption | exact hp.trans rfl | intro _
    | (extract_lets +onlyGivenNames x; refine Keeps.seq (m := m) (s0 := s0) x ?_ ?_; rotate_left; clear_value x; revert x; intro _ _; rotate_left; unfold x; clear x)
    | (extract_lets +onlyGivenNames x; revert x; intro _) | with_reducible apply State.setStage_keeps
    | with_reducible apply State.emitGathered_keeps | with_reducible apply State.emitFilter_keeps | with_reducible apply Keeps.foldl
    | with_reducible apply Keeps.foldl_fst | split | (clear_value *; split)

theorem State.colKernel_keeps {m : Nat} {s0 s : State} (h : Keeps m s0 s) (hp : Sub 0x8804816 m) (a1 a2 a3 a4) : Keeps m s0 (State.colKernel s a1 a2 a3 a4) := by
  unfold State.colKernel
  repeat' first
    | with_reducible assumption | exact hp.trans rfl | intro _
    | (extract_lets +onlyGivenNames x; refine Keeps.seq (m := m) (s0 := s0) x ?_ ?_; rotate_left; clear_value x; revert x; intro _ _; rotate_left; unfold x; clear x)
    | (extract_lets +onlyGivenNames x; revert x; intro _) | with_reducible apply State.setStage_keeps
    | with_reducible apply State.arrive_keeps | with_reducible apply State.segmentDone_keeps | split | (clear_value *; split)

theorem State.colLand_keeps {m : Nat} {s0 s : State} (h : Keeps m s0 s) (hp : Sub 0x802 m) (a1 a2 a3) : Keeps m s0 (State.colLand s a1 a2 a3).1 := by
  unfold State.colLand
  repeat' first
    | with_reducible assumption | exact hp.trans rfl | with_reducible apply State.land_keeps | split | (clear_value *; split)
    | with_reducible refine Keeps.of_fst (by assumption) ?_

theorem State.colStageCheck_keeps {m : Nat} {s0 s : State} (h : Keeps m s0 s) (hp : Sub 0x1880481e m) (a1 a2 a3) : Keeps m s0 (State.colStageCheck s a1 a2 a3) := by
  unfold State.colStageCheck
  repeat' first
    | with_reducible assumption | exact hp.trans rfl | intro _
    | (extract_lets +onlyGivenNames x; refine Keeps.seq (m := m) (s0 := s0) x ?_ ?_; rotate_left; clear_value x; revert x; intro _ _; rotate_left; unfold x; clear x)
    | (extract_lets +onlyGivenNames x; refine Keeps.seq (m := m) (s0 := s0) x.1 ?_ ?_; rotate_left; clear_value x; revert x; intro _ _; rotate_left; unfold x; clear x)
    | (extract_lets +onlyGivenNames x; revert x; intro _) | with_reducible apply State.colDiscard_keeps
    | with_reducible apply State.setStage_keeps | with_reducible apply State.colKernel_keeps | with_reducible apply State.colLand_keeps
    | with_reducible apply State.colReduce_keeps | with_reducible apply State.colPlace_keeps | split | (clear_value *; split)
    | with_reducible refine Keeps.of_fst (by assumption) ?_

theorem State.colResultArrives_keeps {m : Nat} {s0 s : State} (h : Keeps m s0 s) (hp : Sub 0x1880401e m) (a1 a2) : Keeps m s0 (State.colResultArrives s a1 a2) := by
  unfold State.colResultArrives
  repeat' first
    | with_reducible assumption | exact hp.trans rfl | intro _
    | (extract_lets +onlyGivenNames x; refine Keeps.seq (m := m) (s0 := s0) x ?_ ?_; rotate_left; clear_value x; revert x; intro _ _; rotate_left; unfold x; clear x)
    | (extract_lets +onlyGivenNames x; revert x; intro _) | with_reducible apply State.ownResult_keeps
    | with_reducible apply State.colDiscard_keeps | split | (clear_value *; split)

theorem State.cold_keeps {m : Nat} {s0 s : State} (h : Keeps m s0 s) (hp : Sub 0x1880481e m) (a1) : Keeps m s0 (State.cold s a1) := by
  unfold State.cold
  repeat' first
    | with_reducible assumption | exact hp.trans rfl | intro _
    | (extract_lets +onlyGivenNames x; refine Keeps.seq (m := m) (s0 := s0) x ?_ ?_; rotate_left; clear_value x; revert x; intro _ _; rotate_left; unfold x; clear x)
    | (extract_lets +onlyGivenNames x; refine Keeps.seq (m := m) (s0 := s0) x.1 ?_ ?_; rotate_left; clear_value x; revert x; intro _ _; rotate_left; unfold x; clear x)
    | (extract_lets +onlyGivenNames x; revert x; intro _) | with_reducible apply State.heed_keeps
    | with_reducible apply State.colDiscard_keeps | with_reducible apply State.tick_keeps
    | with_reducible apply State.colResultArrives_keeps | with_reducible apply State.colStageCheck_keeps | split | (clear_value *; split)
    | with_reducible refine Keeps.of_fst (by assumption) ?_

theorem execCold_keeps {m : Nat} {s0 s : State} (h : Keeps m s0 s) (hp : Sub 0x1880481e m) (a1) : Ends m s0 (execCold a1 s) := by
  unfold execCold
  repeat' first | with_reducible assumption | exact hp.trans rfl | with_reducible apply State.cold_keeps | with_reducible apply Ends.next

theorem State.stepDeadline_keeps {m : Nat} {s0 s : State} (h : Keeps m s0 s) (hp : Sub 0x1880401e m) (a1 a2 a3 a4) : Keeps m s0 (State.stepDeadline s a1 a2 a3 a4) := by
  unfold State.stepDeadline
  repeat' first
    | with_reducible assumption | exact hp.trans rfl | intro _
    | (extract_lets +onlyGivenNames x; refine Keeps.seq (m := m) (s0 := s0) x ?_ ?_; rotate_left; clear_value x; revert x; intro _ _; rotate_left; unfold x; clear x)
    | (extract_lets +onlyGivenNames x; revert x; intro _) | with_reducible apply State.emitReduced_keeps
    | with_reducible apply State.setStage_keeps | with_reducible apply State.emitGathered_keeps
    | with_reducible apply State.emitFilter_keeps | with_reducible apply State.segmentDone_keeps | with_reducible apply Keeps.foldl
    | with_reducible apply Keeps.foldl_fst | split | (clear_value *; split)

theorem execStepDeadline_keeps {m : Nat} {s0 s : State} (h : Keeps m s0 s) (hp : Sub 0x1880401e m) (a1 a2 a3 a4) : Ends m s0 (execStepDeadline a1 a2 a3 a4 s) := by
  unfold execStepDeadline
  repeat' first
    | with_reducible assumption | exact hp.trans rfl | with_reducible apply State.stepDeadline_keeps | with_reducible apply Ends.next

theorem State.slotFillDone_keeps {m : Nat} {s0 s : State} (h : Keeps m s0 s) (hp : Sub 0x1080410e m) (a1) : Keeps m s0 (State.slotFillDone s a1) := by
  unfold State.slotFillDone
  repeat' first
    | with_reducible assumption | exact hp.trans rfl | intro _
    | (extract_lets +onlyGivenNames x; refine Keeps.seq (m := m) (s0 := s0) x ?_ ?_; rotate_left; clear_value x; revert x; intro _ _; rotate_left; unfold x; clear x)
    | (extract_lets +onlyGivenNames x; revert x; intro _) | with_reducible apply State.visible_keeps
    | with_reducible apply State.setRslot_keeps | with_reducible apply State.srelLocal_keeps | split | (clear_value *; split)

theorem execSlotFillDone_keeps {m : Nat} {s0 s : State} (h : Keeps m s0 s) (hp : Sub 0x1080410e m) (a1) : Ends m s0 (execSlotFillDone a1 s) := by
  unfold execSlotFillDone
  repeat' first
    | with_reducible assumption | exact hp.trans rfl | with_reducible apply State.slotFillDone_keeps | with_reducible apply Ends.next

theorem State.slotData_keeps {m : Nat} {s0 s : State} (h : Keeps m s0 s) (hp : Sub 0x10000002 m) (a1 a2 a3) : Keeps m s0 (State.slotData s a1 a2 a3) := by
  unfold State.slotData
  repeat' first
    | with_reducible assumption | exact hp.trans rfl | intro _
    | (extract_lets +onlyGivenNames x; refine Keeps.seq (m := m) (s0 := s0) x ?_ ?_; rotate_left; clear_value x; revert x; intro _ _; rotate_left; unfold x; clear x)
    | (extract_lets +onlyGivenNames x; revert x; intro _) | with_reducible apply State.complete_keeps | with_reducible apply Keeps.foldl
    | with_reducible apply Keeps.foldl_fst | split | (clear_value *; split)

theorem State.slotAnswer_keeps {m : Nat} {s0 s : State} (h : Keeps m s0 s) (hp : Sub 0x10000002 m) (a1 a2 a3 a4) : KeepsO m s0 (State.slotAnswer s a1 a2 a3 a4) := by
  unfold State.slotAnswer
  repeat' first
    | with_reducible assumption | exact hp.trans rfl | intro _
    | (extract_lets +onlyGivenNames x; refine Keeps.seq (m := m) (s0 := s0) x ?_ ?_; rotate_left; clear_value x; revert x; intro _ _; rotate_left; unfold x; clear x)
    | (extract_lets +onlyGivenNames x; revert x; intro _) | with_reducible apply State.complete_keeps
    | with_reducible apply State.countRevoked_keeps | with_reducible apply State.slotData_keeps | with_reducible apply KeepsO.some_
    | with_reducible apply KeepsO.none_ | with_reducible apply KeepsO.getD | with_reducible refine KeepsO.get (by assumption) ?_ | split
    | (clear_value *; split)

theorem State.slotPlainRead_keeps {m : Nat} {s0 s : State} (h : Keeps m s0 s) (hp : Sub 0x10000002 m) (a1) : Keeps m s0 (State.slotPlainRead s a1) := by
  unfold State.slotPlainRead
  repeat' first
    | with_reducible assumption | exact hp.trans rfl | with_reducible apply State.slotAnswer_keeps
    | with_reducible apply State.complete_keeps | with_reducible apply KeepsO.some_ | with_reducible apply KeepsO.none_
    | with_reducible apply KeepsO.getD | with_reducible refine KeepsO.get (by assumption) ?_ | split

theorem execSlotPlainRead_keeps {m : Nat} {s0 s : State} (h : Keeps m s0 s) (hp : Sub 0x10000002 m) (a1) : Ends m s0 (execSlotPlainRead a1 s) := by
  unfold execSlotPlainRead
  repeat' first
    | with_reducible assumption | exact hp.trans rfl | with_reducible apply State.slotPlainRead_keeps | with_reducible apply Ends.next

theorem State.setWaits_keeps {m : Nat} {s0 s : State} (h : Keeps m s0 s) (hp : Sub 0x4000 m) (a1) : Keeps m s0 (State.setWaits s a1) := by
  unfold State.setWaits
  repeat' first
    | with_reducible assumption | intro _
    | (extract_lets +onlyGivenNames x; refine Keeps.seq (m := m) (s0 := s0) x ?_ ?_; rotate_left; clear_value x; revert x; intro _ _; rotate_left; unfold x; clear x)
    | (extract_lets +onlyGivenNames x; revert x; intro _) | with_reducible refine Keeps.coll (by assumption) (Sub.bit 14 rfl hp)

theorem State.slotWaitRead_keeps {m : Nat} {s0 s : State} (h : Keeps m s0 s) (hp : Sub 0x10004002 m) (a1) : Keeps m s0 (State.slotWaitRead s a1) := by
  unfold State.slotWaitRead
  repeat' first
    | with_reducible assumption | exact hp.trans rfl | with_reducible apply State.slotAnswer_keeps
    | with_reducible apply State.setWaits_keeps | with_reducible apply State.complete_keeps | with_reducible apply KeepsO.some_
    | with_reducible apply KeepsO.none_ | with_reducible apply KeepsO.getD | with_reducible refine KeepsO.get (by assumption) ?_ | split

theorem execSlotWaitRead_keeps {m : Nat} {s0 s : State} (h : Keeps m s0 s) (hp : Sub 0x10004002 m) (a1) : Ends m s0 (execSlotWaitRead a1 s) := by
  unfold execSlotWaitRead
  repeat' first
    | with_reducible assumption | exact hp.trans rfl | with_reducible apply State.slotWaitRead_keeps | with_reducible apply Ends.next

theorem State.slotWaitServed_keeps {m : Nat} {s0 s : State} (h : Keeps m s0 s) (hp : Sub 0x10004002 m) (a1) : Keeps m s0 (State.slotWaitServed s a1) := by
  unfold State.slotWaitServed
  repeat' first
    | with_reducible assumption | exact hp.trans rfl | with_reducible apply State.slotAnswer_keeps
    | with_reducible apply State.setWaits_keeps | with_reducible apply KeepsO.some_ | with_reducible apply KeepsO.none_
    | with_reducible apply KeepsO.getD | with_reducible refine KeepsO.get (by assumption) ?_ | split

theorem execSlotWaitReadServed_keeps {m : Nat} {s0 s : State} (h : Keeps m s0 s) (hp : Sub 0x10004002 m) (a1) : Ends m s0 (execSlotWaitReadServed a1 s) := by
  unfold execSlotWaitReadServed
  repeat' first
    | with_reducible assumption | exact hp.trans rfl | with_reducible apply State.slotWaitServed_keeps | with_reducible apply Ends.next

theorem State.slotWaitTimeout_keeps {m : Nat} {s0 s : State} (h : Keeps m s0 s) (hp : Sub 0x10004002 m) (a1) : Keeps m s0 (State.slotWaitTimeout s a1) := by
  unfold State.slotWaitTimeout
  repeat' first
    | with_reducible assumption | exact hp.trans rfl | with_reducible apply State.setWaits_keeps | with_reducible apply State.complete_keeps
    | split

theorem execSlotWaitReadTimeout_keeps {m : Nat} {s0 s : State} (h : Keeps m s0 s) (hp : Sub 0x10004002 m) (a1) : Ends m s0 (execSlotWaitReadTimeout a1 s) := by
  unfold execSlotWaitReadTimeout
  repeat' first
    | with_reducible assumption | exact hp.trans rfl | with_reducible apply State.slotWaitTimeout_keeps | with_reducible apply Ends.next

theorem State.slotConsumeRead_keeps {m : Nat} {s0 s : State} (h : Keeps m s0 s) (hp : Sub 0x10004002 m) (a1) : Keeps m s0 (State.slotConsumeRead s a1) := by
  unfold State.slotConsumeRead
  repeat' first
    | with_reducible assumption | exact hp.trans rfl | intro _
    | (extract_lets +onlyGivenNames x; refine Keeps.seq (m := m) (s0 := s0) x ?_ ?_; rotate_left; clear_value x; revert x; intro _ _; rotate_left; unfold x; clear x)
    | (extract_lets +onlyGivenNames x; revert x; intro _) | with_reducible apply State.slotAnswer_keeps
    | with_reducible apply State.setRslot_keeps | with_reducible apply State.freeRslot_keeps | with_reducible apply State.complete_keeps
    | with_reducible apply KeepsO.some_ | with_reducible apply KeepsO.none_ | with_reducible apply KeepsO.getD
    | with_reducible refine KeepsO.get (by assumption) ?_ | split | (clear_value *; split)

theorem execSlotConsumeRead_keeps {m : Nat} {s0 s : State} (h : Keeps m s0 s) (hp : Sub 0x10004002 m) (a1) : Ends m s0 (execSlotConsumeRead a1 s) := by
  unfold execSlotConsumeRead
  repeat' first
    | with_reducible assumption | exact hp.trans rfl | with_reducible apply State.slotConsumeRead_keeps | with_reducible apply Ends.next

theorem State.resultHoldRelease_keeps {m : Nat} {s0 s : State} (h : Keeps m s0 s) (hp : Sub 0x10804018 m) (a1) : Keeps m s0 (State.resultHoldRelease s a1) := by
  unfold State.resultHoldRelease
  repeat' first
    | with_reducible assumption | exact hp.trans rfl | intro _
    | (extract_lets +onlyGivenNames x; refine Keeps.seq (m := m) (s0 := s0) x ?_ ?_; rotate_left; clear_value x; revert x; intro _ _; rotate_left; unfold x; clear x)
    | (extract_lets +onlyGivenNames x; revert x; intro _) | with_reducible apply State.visible_keeps
    | with_reducible apply State.slotWrite_keeps | with_reducible apply Keeps.foldl | with_reducible apply Keeps.foldl_fst | split
    | (clear_value *; split) | with_reducible refine Keeps.coll (by assumption) (Sub.bit 14 rfl hp)

theorem execResultHoldRelease_keeps {m : Nat} {s0 s : State} (h : Keeps m s0 s) (hp : Sub 0x10804018 m) (a1) : Ends m s0 (execResultHoldRelease a1 s) := by
  unfold execResultHoldRelease
  repeat' first
    | with_reducible assumption | exact hp.trans rfl | with_reducible apply State.resultHoldRelease_keeps | with_reducible apply Ends.next

theorem State.gatherEnds_keeps {m : Nat} {s0 s : State} (h : Keeps m s0 s) (hp : Sub 0x1880481e m) (a1 a2) : Keeps m s0 (State.gatherEnds s a1 a2) := by
  unfold State.gatherEnds
  repeat' first
    | with_reducible assumption | exact hp.trans rfl | intro _
    | (extract_lets +onlyGivenNames x; refine Keeps.seq (m := m) (s0 := s0) x ?_ ?_; rotate_left; clear_value x; revert x; intro _ _; rotate_left; unfold x; clear x)
    | (extract_lets +onlyGivenNames x; revert x; intro _) | with_reducible apply State.segmentDone_keeps
    | with_reducible apply State.ownResult_keeps | with_reducible apply State.gatherAcquires_keeps | split | (clear_value *; split)

theorem State.gatherRow_keeps {m : Nat} {s0 s : State} (h : Keeps m s0 s) (hp : Sub 0x10804018 m) (a1 a2 a3 a4 a5 a6 a7) : Keeps m s0 (State.gatherRow s a1 a2 a3 a4 a5 a6 a7) := by
  unfold State.gatherRow
  repeat' first
    | with_reducible assumption | exact hp.trans rfl | intro _
    | (extract_lets +onlyGivenNames x; refine Keeps.seq (m := m) (s0 := s0) x ?_ ?_; rotate_left; clear_value x; revert x; intro _ _; rotate_left; unfold x; clear x)
    | (extract_lets +onlyGivenNames x; refine Keeps.seq (m := m) (s0 := s0) x.1 ?_ ?_; rotate_left; clear_value x; revert x; intro _ _; rotate_left; unfold x; clear x)
    | (extract_lets +onlyGivenNames x; revert x; intro _) | with_reducible apply State.ownResult_keeps
    | with_reducible apply State.modPlan_keeps | with_reducible apply State.coherentAt_keeps | with_reducible apply State.issue_keeps
    | split | (clear_value *; split) | with_reducible refine Keeps.of_fst (by assumption) ?_

theorem State.gatherRows_keeps {m : Nat} {s0 s : State} (h : Keeps m s0 s) (hp : Sub 0x10804018 m) (a1 a2 a3 a4 a5 a6 a7) : Keeps m s0 (State.gatherRows s a1 a2 a3 a4 a5 a6 a7) := by
  induction a5 generalizing s a1 a2 a3 a4 a6 a7 with
  | zero =>
    unfold State.gatherRows
    repeat' first
      | with_reducible assumption | exact hp.trans rfl | intro _
      | (extract_lets +onlyGivenNames x; refine Keeps.seq (m := m) (s0 := s0) x ?_ ?_; rotate_left; clear_value x; revert x; intro _ _; rotate_left; unfold x; clear x)
      | (extract_lets +onlyGivenNames x; revert x; intro _) | with_reducible apply State.gatherRow_keeps | split | (clear_value *; split)
  | succ _ ih =>
    unfold State.gatherRows
    repeat' first
      | with_reducible assumption | with_reducible apply ih | exact hp.trans rfl | intro _
      | (extract_lets +onlyGivenNames x; refine Keeps.seq (m := m) (s0 := s0) x ?_ ?_; rotate_left; clear_value x; revert x; intro _ _; rotate_left; unfold x; clear x)
      | (extract_lets +onlyGivenNames x; revert x; intro _) | with_reducible apply State.gatherRow_keeps | split | (clear_value *; split)

theorem State.inputTaken_keeps {m : Nat} {s0 s : State} (h : Keeps m s0 s) (hp : Sub 0x800 m) (a1) : Keeps m s0 (State.inputTaken s a1) := by
  unfold State.inputTaken
  repeat' first
    | with_reducible assumption | exact hp.trans rfl | intro _
    | (extract_lets +onlyGivenNames x; refine Keeps.seq (m := m) (s0 := s0) x ?_ ?_; rotate_left; clear_value x; revert x; intro _ _; rotate_left; unfold x; clear x)
    | (extract_lets +onlyGivenNames x; revert x; intro _) | with_reducible apply State.setCtx_keeps | with_reducible apply Keeps.foldl
    | with_reducible apply Keeps.foldl_fst

theorem State.gatherStart_keeps {m : Nat} {s0 s : State} (h : Keeps m s0 s) (hp : Sub 0x1880481e m) (a1 a2 a3) : Keeps m s0 (State.gatherStart s a1 a2 a3) := by
  unfold State.gatherStart
  repeat' first
    | with_reducible assumption | exact hp.trans rfl | intro _
    | (extract_lets +onlyGivenNames x; refine Keeps.seq (m := m) (s0 := s0) x ?_ ?_; rotate_left; clear_value x; revert x; intro _ _; rotate_left; unfold x; clear x)
    | (extract_lets +onlyGivenNames x; revert x; intro _) | with_reducible apply State.setStage_keeps
    | with_reducible apply State.inputTaken_keeps | with_reducible apply State.ownResult_keeps | with_reducible apply State.gatherEnds_keeps
    | with_reducible apply State.gatherRows_keeps | with_reducible apply Keeps.foldl | with_reducible apply Keeps.foldl_fst | split
    | (clear_value *; split)

theorem execGatherStepStart_keeps {m : Nat} {s0 s : State} (h : Keeps m s0 s) (hp : Sub 0x1880481e m) (a1 a2 a3) : Ends m s0 (execGatherStepStart a1 a2 a3 s) := by
  unfold execGatherStepStart
  repeat' first
    | with_reducible assumption | exact hp.trans rfl | with_reducible apply State.gatherStart_keeps | with_reducible apply Ends.next

theorem State.gatherCmp_keeps {m : Nat} {s0 s : State} (h : Keeps m s0 s) (hp : Sub 0x1880481e m) (a1 a2 a3) : Keeps m s0 (State.gatherCmp s a1 a2 a3) := by
  unfold State.gatherCmp
  repeat' first
    | with_reducible assumption | exact hp.trans rfl | intro _
    | (extract_lets +onlyGivenNames x; refine Keeps.seq (m := m) (s0 := s0) x ?_ ?_; rotate_left; clear_value x; revert x; intro _ _; rotate_left; unfold x; clear x)
    | (extract_lets +onlyGivenNames x; revert x; intro _) | with_reducible apply State.gatherEnds_keeps
    | with_reducible apply State.ownResult_keeps | with_reducible apply State.setStage_keeps | split | (clear_value *; split)

theorem State.rebindIndex_keeps {m : Nat} {s0 s : State} (h : Keeps m s0 s) (hp : Sub 0x18804006 m) (a1 a2 a3 a4) : Keeps m s0 (State.rebindIndex s a1 a2 a3 a4) := by
  unfold State.rebindIndex
  repeat' first
    | with_reducible assumption | exact hp.trans rfl | intro _
    | (extract_lets +onlyGivenNames x; refine Keeps.seq (m := m) (s0 := s0) x ?_ ?_; rotate_left; clear_value x; revert x; intro _ _; rotate_left; unfold x; clear x)
    | (extract_lets +onlyGivenNames x; revert x; intro _) | with_reducible apply State.setStage_keeps
    | with_reducible apply State.stragglerNote_keeps | with_reducible apply State.planEnd_keeps | with_reducible apply Keeps.foldl
    | with_reducible apply Keeps.foldl_fst | split | (clear_value *; split)

theorem State.planBenchmark_keeps {m : Nat} {s0 s : State} (h : Keeps m s0 s) (hp : Sub 0x18804006 m) (a1) : Keeps m s0 (State.planBenchmark s a1) := by
  unfold State.planBenchmark
  repeat' first
    | with_reducible assumption | exact hp.trans rfl | intro _
    | (extract_lets +onlyGivenNames x; refine Keeps.seq (m := m) (s0 := s0) x ?_ ?_; rotate_left; clear_value x; revert x; intro _ _; rotate_left; unfold x; clear x)
    | (extract_lets +onlyGivenNames x; revert x; intro _) | with_reducible apply State.rebindIndex_keeps
    | with_reducible apply State.modPlan_keeps | with_reducible apply Keeps.foldl | with_reducible apply Keeps.foldl_fst | split
    | (clear_value *; split)

theorem State.loseSlots_keeps {m : Nat} {s0 s : State} (h : Keeps m s0 s) (hp : Sub 0x4000 m) (a1) : Keeps m s0 (State.loseSlots s a1) := by
  unfold State.loseSlots
  repeat' first
    | with_reducible assumption | exact hp.trans rfl | intro _
    | (extract_lets +onlyGivenNames x; refine Keeps.seq (m := m) (s0 := s0) x ?_ ?_; rotate_left; clear_value x; revert x; intro _ _; rotate_left; unfold x; clear x)
    | (extract_lets +onlyGivenNames x; revert x; intro _) | with_reducible apply State.setSlots_keeps | split | (clear_value *; split)

theorem State.loseStaging_keeps {m : Nat} {s0 s : State} (h : Keeps m s0 s) (hp : Sub 0x4000 m) (a1) : Keeps m s0 (State.loseStaging s a1) := by
  unfold State.loseStaging
  repeat' first | with_reducible assumption | exact hp.trans rfl | with_reducible apply State.setPlans_keeps | split

theorem State.stopPlans_keeps {m : Nat} {s0 s : State} (h : Keeps m s0 s) (hp : Sub 0x4000 m) (a1) : Keeps m s0 (State.stopPlans s a1) := by
  unfold State.stopPlans
  repeat' first | with_reducible assumption | exact hp.trans rfl | with_reducible apply State.setPlans_keeps | split

theorem State.dropPlans_keeps {m : Nat} {s0 s : State} (h : Keeps m s0 s) (hp : Sub 0x4000 m) (a1) : Keeps m s0 (State.dropPlans s a1) := by
  unfold State.dropPlans
  repeat' first
    | with_reducible assumption | exact hp.trans rfl | intro _
    | (extract_lets +onlyGivenNames x; refine Keeps.seq (m := m) (s0 := s0) x ?_ ?_; rotate_left; clear_value x; revert x; intro _ _; rotate_left; unfold x; clear x)
    | (extract_lets +onlyGivenNames x; revert x; intro _) | with_reducible apply State.setSlots_keeps
    | with_reducible apply State.setPlanCmds_keeps

end Sys2Proof.Machine
end

