-- ==== Sys2Proof/Laws/KeepsMgmt.lean ====
section
/-!
SUPPORT. The operations of Machine/Mgmt.lean leave the queue of waiting commands alone and keep the canonical form.
-/
namespace Sys2Proof.Machine

set_option linter.all false

theorem State.irqSend_keeps {m : Nat} {s0 s : State} (h : Keeps m s0 s) (hp : Sub 0x8000006 m) (a1) : Keeps m s0 (State.irqSend s a1) := by
  unfold State.irqSend
  repeat' first
    | with_reducible assumption | exact hp.trans rfl | intro _
    | (extract_lets +onlyGivenNames x; refine Keeps.seq (m := m) (s0 := s0) x ?_ ?_; rotate_left; clear_value x; revert x; intro _ _; rotate_left; unfold x; clear x)
    | (extract_lets +onlyGivenNames x; revert x; intro _) | with_reducible apply State.tick_keeps | with_reducible apply State.count_keeps
    | split | (clear_value *; split) | with_reducible refine Keeps.mgmt (by assumption) (Sub.bit 27 rfl hp)

theorem State.irqRaise_keeps {m : Nat} {s0 s : State} (h : Keeps m s0 s) (hp : Sub 0x8000006 m) (a1) : Keeps m s0 (State.irqRaise s a1) := by
  unfold State.irqRaise
  repeat' first
    | with_reducible assumption | exact hp.trans rfl | intro _
    | (extract_lets +onlyGivenNames x; refine Keeps.seq (m := m) (s0 := s0) x ?_ ?_; rotate_left; clear_value x; revert x; intro _ _; rotate_left; unfold x; clear x)
    | (extract_lets +onlyGivenNames x; revert x; intro _) | with_reducible apply State.tick_keeps | with_reducible apply State.count_keeps
    | with_reducible apply State.setBit_keeps | with_reducible apply State.irqSend_keeps | split | (clear_value *; split)
    | with_reducible refine Keeps.mgmt (by assumption) (Sub.bit 27 rfl hp)

theorem execInterruptRaise_keeps {m : Nat} {s0 s : State} (h : Keeps m s0 s) (hp : Sub 0x8000006 m) : Ends m s0 (execInterruptRaise s) := by
  unfold execInterruptRaise
  repeat' first
    | with_reducible assumption | exact hp.trans rfl | intro _
    | (extract_lets +onlyGivenNames x; refine Keeps.seq (m := m) (s0 := s0) x ?_ ?_; rotate_left; clear_value x; revert x; intro _ _; rotate_left; unfold x; clear x)
    | (extract_lets +onlyGivenNames x; revert x; intro _) | with_reducible apply State.irqRaise_keeps | with_reducible apply Ends.next
    | split | (clear_value *; split) | with_reducible refine Keeps.mgmt (by assumption) (Sub.bit 27 rfl hp)

theorem State.intPendClear_keeps {m : Nat} {s0 s : State} (h : Keeps m s0 s) (hp : Sub 0x6 m) (a1 a2) : Keeps m s0 (State.intPendClear s a1 a2) := by
  unfold State.intPendClear
  repeat' first
    | with_reducible assumption | exact hp.trans rfl | intro _ | with_reducible apply State.cfgDo_keeps
    | with_reducible apply State.setReg_keeps | with_reducible apply State.tick_keeps

theorem execIntPendClear_keeps {m : Nat} {s0 s : State} (h : Keeps m s0 s) (hp : Sub 0x6 m) (a1 a2) : Ends m s0 (execIntPendClear a1 a2 s) := by
  unfold execIntPendClear
  repeat' first
    | with_reducible assumption | exact hp.trans rfl | with_reducible apply State.intPendClear_keeps | with_reducible apply Ends.next

theorem State.irqUnmask_keeps {m : Nat} {s0 s : State} (h : Keeps m s0 s) (hp : Sub 0x8000006 m) (a1 a2) : Keeps m s0 (State.irqUnmask s a1 a2) := by
  induction a2 generalizing s a1 with
  | nil =>
    unfold State.irqUnmask
    repeat' first | with_reducible assumption | exact hp.trans rfl | with_reducible apply State.irqSend_keeps | split
  | cons _ _ ih =>
    unfold State.irqUnmask
    repeat' first
      | with_reducible assumption | with_reducible apply ih | exact hp.trans rfl | with_reducible apply State.irqSend_keeps | split

theorem State.intMaskWrite_keeps {m : Nat} {s0 s : State} (h : Keeps m s0 s) (hp : Sub 0x8000006 m) (a1 a2) : Keeps m s0 (State.intMaskWrite s a1 a2) := by
  unfold State.intMaskWrite
  repeat' first
    | with_reducible assumption | exact hp.trans rfl | intro _
    | (extract_lets +onlyGivenNames x; refine Keeps.seq (m := m) (s0 := s0) x ?_ ?_; rotate_left; clear_value x; revert x; intro _ _; rotate_left; unfold x; clear x)
    | (extract_lets +onlyGivenNames x; revert x; intro _) | with_reducible apply State.cfgDo_keeps
    | with_reducible apply State.irqUnmask_keeps | with_reducible apply State.setReg_keeps

theorem execIntMaskWrite_keeps {m : Nat} {s0 s : State} (h : Keeps m s0 s) (hp : Sub 0x8000006 m) (a1 a2) : Ends m s0 (execIntMaskWrite a1 a2 s) := by
  unfold execIntMaskWrite
  repeat' first
    | with_reducible assumption | exact hp.trans rfl | with_reducible apply State.intMaskWrite_keeps | with_reducible apply Ends.next

theorem State.errSumClear_keeps {m : Nat} {s0 s : State} (h : Keeps m s0 s) (hp : Sub 0x6 m) (a1 a2) : Keeps m s0 (State.errSumClear s a1 a2) := by
  unfold State.errSumClear
  repeat' first
    | with_reducible assumption | exact hp.trans rfl | intro _ | with_reducible apply State.cfgDo_keeps
    | with_reducible apply State.setReg_keeps

theorem execErrSumClear_keeps {m : Nat} {s0 s : State} (h : Keeps m s0 s) (hp : Sub 0x6 m) (a1 a2) : Ends m s0 (execErrSumClear a1 a2 s) := by
  unfold execErrSumClear
  repeat' first
    | with_reducible assumption | exact hp.trans rfl | with_reducible apply State.errSumClear_keeps | with_reducible apply Ends.next | split

theorem State.counterClear_keeps {m : Nat} {s0 s : State} (h : Keeps m s0 s) (hp : Sub 0x6 m) (a1) : Keeps m s0 (State.counterClear s a1) := by
  unfold State.counterClear
  repeat' first
    | with_reducible assumption | exact hp.trans rfl | intro _ | with_reducible apply State.cfgDo_keeps
    | with_reducible apply State.resetRegs_keeps

theorem execCounterClear_keeps {m : Nat} {s0 s : State} (h : Keeps m s0 s) (hp : Sub 0x6 m) (a1) : Ends m s0 (execCounterClear a1 s) := by
  unfold execCounterClear
  repeat' first
    | with_reducible assumption | exact hp.trans rfl | with_reducible apply State.counterClear_keeps | with_reducible apply Ends.next
    | split

theorem State.ibi_keeps {m : Nat} {s0 s : State} (h : Keeps m s0 s) (hp : Sub 0x8000000 m) : Keeps m s0 (State.ibi s) := by
  unfold State.ibi
  repeat' first
    | with_reducible assumption | intro _
    | (extract_lets +onlyGivenNames x; refine Keeps.seq (m := m) (s0 := s0) x ?_ ?_; rotate_left; clear_value x; revert x; intro _ _; rotate_left; unfold x; clear x)
    | (extract_lets +onlyGivenNames x; revert x; intro _) | split | (clear_value *; split)
    | with_reducible refine Keeps.mgmt (by assumption) (Sub.bit 27 rfl hp)

theorem execI3cDynamicAddress_keeps {m : Nat} {s0 s : State} (h : Keeps m s0 s) (hp : Sub 0x8000000 m) (a1) : Ends m s0 (execI3cDynamicAddress a1 s) := by
  unfold execI3cDynamicAddress
  repeat' first
    | with_reducible assumption | exact hp.trans rfl | intro _
    | (extract_lets +onlyGivenNames x; refine Keeps.seq (m := m) (s0 := s0) x ?_ ?_; rotate_left; clear_value x; revert x; intro _ _; rotate_left; unfold x; clear x)
    | (extract_lets +onlyGivenNames x; revert x; intro _) | with_reducible apply State.onlyIf_keeps | with_reducible apply Ends.next
    | with_reducible refine Keeps.mgmt (by assumption) (Sub.bit 27 rfl hp)

theorem execI3cIbiDisable_keeps {m : Nat} {s0 s : State} (h : Keeps m s0 s) (hp : Sub 0x8000000 m) (a1) : Ends m s0 (execI3cIbiDisable a1 s) := by
  unfold execI3cIbiDisable
  repeat' first
    | with_reducible assumption | exact hp.trans rfl | intro _
    | (extract_lets +onlyGivenNames x; refine Keeps.seq (m := m) (s0 := s0) x ?_ ?_; rotate_left; clear_value x; revert x; intro _ _; rotate_left; unfold x; clear x)
    | (extract_lets +onlyGivenNames x; revert x; intro _) | with_reducible apply State.onlyIf_keeps | with_reducible apply Ends.next
    | with_reducible refine Keeps.mgmt (by assumption) (Sub.bit 27 rfl hp)

theorem State.judgePower_keeps {m : Nat} {s0 s : State} (h : Keeps m s0 s) (hp : Sub 0x8000000 m) : Keeps m s0 (State.judgePower s) := by
  unfold State.judgePower
  repeat' first
    | with_reducible assumption | intro _
    | (extract_lets +onlyGivenNames x; refine Keeps.seq (m := m) (s0 := s0) x ?_ ?_; rotate_left; clear_value x; revert x; intro _ _; rotate_left; unfold x; clear x)
    | (extract_lets +onlyGivenNames x; revert x; intro _) | with_reducible refine Keeps.mgmt (by assumption) (Sub.bit 27 rfl hp)

theorem State.powerEstimate_keeps {m : Nat} {s0 s : State} (h : Keeps m s0 s) (hp : Sub 0x8000002 m) (a1 a2) : Keeps m s0 (State.powerEstimate s a1 a2) := by
  unfold State.powerEstimate
  repeat' first
    | with_reducible assumption | exact hp.trans rfl | intro _
    | (extract_lets +onlyGivenNames x; refine Keeps.seq (m := m) (s0 := s0) x ?_ ?_; rotate_left; clear_value x; revert x; intro _ _; rotate_left; unfold x; clear x)
    | (extract_lets +onlyGivenNames x; revert x; intro _) | with_reducible apply State.judgePower_keeps
    | with_reducible apply State.setFld_keeps | with_reducible refine Keeps.mgmt (by assumption) (Sub.bit 27 rfl hp)

theorem execPowerEstimate_keeps {m : Nat} {s0 s : State} (h : Keeps m s0 s) (hp : Sub 0x8000002 m) (a1 a2) : Ends m s0 (execPowerEstimate a1 a2 s) := by
  unfold execPowerEstimate
  repeat' first
    | with_reducible assumption | exact hp.trans rfl | with_reducible apply State.powerEstimate_keeps | with_reducible apply Ends.next

theorem State.setTileFreq_keeps {m : Nat} {s0 s : State} (h : Keeps m s0 s) (hp : Sub 0x2 m) (a1) : Keeps m s0 (State.setTileFreq s a1) := by
  unfold State.setTileFreq
  repeat' first
    | with_reducible assumption | exact hp.trans rfl | intro _
    | (extract_lets +onlyGivenNames x; refine Keeps.seq (m := m) (s0 := s0) x ?_ ?_; rotate_left; clear_value x; revert x; intro _ _; rotate_left; unfold x; clear x)
    | (extract_lets +onlyGivenNames x; revert x; intro _) | with_reducible apply State.setBit_keeps
    | with_reducible apply State.setReg_keeps | with_reducible apply Keeps.foldl | with_reducible apply Keeps.foldl_fst

theorem State.tileFreqStep_keeps {m : Nat} {s0 s : State} (h : Keeps m s0 s) (hp : Sub 0x8000002 m) : Keeps m s0 (State.tileFreqStep s) := by
  unfold State.tileFreqStep
  repeat' first
    | with_reducible assumption | exact hp.trans rfl | intro _
    | (extract_lets +onlyGivenNames x; refine Keeps.seq (m := m) (s0 := s0) x ?_ ?_; rotate_left; clear_value x; revert x; intro _ _; rotate_left; unfold x; clear x)
    | (extract_lets +onlyGivenNames x; revert x; intro _) | with_reducible apply State.count_keeps
    | with_reducible apply State.setTileFreq_keeps | with_reducible apply State.judgePower_keeps | split | (clear_value *; split)
    | with_reducible refine Keeps.mgmt (by assumption) (Sub.bit 27 rfl hp)

theorem execTileFreqStep_keeps {m : Nat} {s0 s : State} (h : Keeps m s0 s) (hp : Sub 0x8000002 m) : Ends m s0 (execTileFreqStep s) := by
  unfold execTileFreqStep
  repeat' first
    | with_reducible assumption | exact hp.trans rfl | with_reducible apply State.tileFreqStep_keeps | with_reducible apply Ends.next

theorem execPowerFloorEvent_keeps {m : Nat} {s0 s : State} (h : Keeps m s0 s) (hp : Sub 0x8800006 m) : Ends m s0 (execPowerFloorEvent s) := by
  unfold execPowerFloorEvent
  repeat' first
    | with_reducible assumption | exact hp.trans rfl | intro _ | with_reducible apply State.onlyIf_keeps
    | with_reducible apply State.record_keeps | with_reducible apply Ends.next

theorem State.tempUpdate_keeps {m : Nat} {s0 s : State} (h : Keeps m s0 s) (hp : Sub 0x2 m) (a1) : Keeps m s0 (State.tempUpdate s a1) := by
  unfold State.tempUpdate
  repeat' first
    | with_reducible assumption | exact hp.trans rfl | intro _
    | (extract_lets +onlyGivenNames x; refine Keeps.seq (m := m) (s0 := s0) x ?_ ?_; rotate_left; clear_value x; revert x; intro _ _; rotate_left; unfold x; clear x)
    | (extract_lets +onlyGivenNames x; revert x; intro _) | with_reducible apply State.setFld_keeps | with_reducible apply Keeps.foldl
    | with_reducible apply Keeps.foldl_fst | split | (clear_value *; split)

theorem execTempUpdate_keeps {m : Nat} {s0 s : State} (h : Keeps m s0 s) (hp : Sub 0x2 m) (a1) : Ends m s0 (execTempUpdate a1 s) := by
  unfold execTempUpdate
  repeat' first
    | with_reducible assumption | exact hp.trans rfl | with_reducible apply State.tempUpdate_keeps | with_reducible apply Ends.next

end Sys2Proof.Machine
end

