-- ==== Sys2Proof/Laws/KeepsPnm.lean ====
section
/-!
SUPPORT. The operations of Machine/Pnm.lean leave the queue of waiting commands alone and keep the canonical form.
-/
namespace Sys2Proof.Machine

set_option linter.all false

theorem State.setPnmQ_keeps {m : Nat} {s0 s : State} (h : Keeps m s0 s) (hp : Sub 0x8000 m) (a1 a2) : Keeps m s0 (State.setPnmQ s a1 a2) := by
  unfold State.setPnmQ
  repeat' first | with_reducible assumption | with_reducible refine Keeps.pnm (by assumption) (Sub.bit 15 rfl hp)

theorem State.pnmCount_keeps {m : Nat} {s0 s : State} (h : Keeps m s0 s) (hp : Sub 0x2 m) (a1 a2 a3) : Keeps m s0 (State.pnmCount s a1 a2 a3) := by
  unfold State.pnmCount
  repeat' first | with_reducible assumption | exact hp.trans rfl | with_reducible apply State.slotCount_keeps

theorem State.pnmEnd_keeps {m : Nat} {s0 s : State} (h : Keeps m s0 s) (hp : Sub 0x10808002 m) (a1 a2) : Keeps m s0 (State.pnmEnd s a1 a2) := by
  unfold State.pnmEnd
  repeat' first
    | with_reducible assumption | exact hp.trans rfl | intro _
    | (extract_lets +onlyGivenNames x; refine Keeps.seq (m := m) (s0 := s0) x ?_ ?_; rotate_left; clear_value x; revert x; intro _ _; rotate_left; unfold x; clear x)
    | (extract_lets +onlyGivenNames x; revert x; intro _) | with_reducible apply State.setPnmQ_keeps
    | with_reducible apply State.pnmCount_keeps | with_reducible apply State.issue_keeps | split | (clear_value *; split)

theorem State.pnmRelease_keeps {m : Nat} {s0 s : State} (h : Keeps m s0 s) (hp : Sub 0x1885149e m) (a1) : Keeps m s0 (State.pnmRelease s a1) := by
  unfold State.pnmRelease
  repeat' first
    | with_reducible assumption | exact hp.trans rfl | intro _
    | (extract_lets +onlyGivenNames x; refine Keeps.seq (m := m) (s0 := s0) x ?_ ?_; rotate_left; clear_value x; revert x; intro _ _; rotate_left; unfold x; clear x)
    | (extract_lets +onlyGivenNames x; revert x; intro _) | with_reducible apply State.memServe_keeps
    | with_reducible apply State.modSlice_keeps | with_reducible apply Keeps.foldl | with_reducible apply Keeps.foldl_fst

theorem State.pnmRecorded_keeps {m : Nat} {s0 s : State} (h : Keeps m s0 s) (hp : Sub 0x8808106 m) (a1 a2 a3) : Keeps m s0 (State.pnmRecorded s a1 a2 a3) := by
  unfold State.pnmRecorded
  repeat' first
    | with_reducible assumption | exact hp.trans rfl | intro _
    | (extract_lets +onlyGivenNames x; refine Keeps.seq (m := m) (s0 := s0) x ?_ ?_; rotate_left; clear_value x; revert x; intro _ _; rotate_left; unfold x; clear x)
    | (extract_lets +onlyGivenNames x; revert x; intro _) | with_reducible apply State.setPnmQ_keeps
    | with_reducible apply State.record_keeps | with_reducible apply State.srelLocal_keeps | split | (clear_value *; split)

theorem State.pnmQueue_keeps {m : Nat} {s0 s : State} (h : Keeps m s0 s) (hp : Sub 0x10808002 m) (a1 a2) : Keeps m s0 (State.pnmQueue s a1 a2) := by
  unfold State.pnmQueue
  repeat' first
    | with_reducible assumption | exact hp.trans rfl | intro _
    | (extract_lets +onlyGivenNames x; refine Keeps.seq (m := m) (s0 := s0) x ?_ ?_; rotate_left; clear_value x; revert x; intro _ _; rotate_left; unfold x; clear x)
    | (extract_lets +onlyGivenNames x; revert x; intro _) | with_reducible apply State.pnmEnd_keeps
    | with_reducible apply State.complete_keeps | with_reducible apply State.setPnmQ_keeps | split | (clear_value *; split)

theorem State.pnmDoor_keeps {m : Nat} {s0 s : State} (h : Keeps m s0 s) (hp : Sub 0x10808406 m) (a1 a2) : Keeps m s0 (State.pnmDoor s a1 a2) := by
  unfold State.pnmDoor
  repeat' first
    | with_reducible assumption | exact hp.trans rfl | intro _
    | (extract_lets +onlyGivenNames x; refine Keeps.seq (m := m) (s0 := s0) x ?_ ?_; rotate_left; clear_value x; revert x; intro _ _; rotate_left; unfold x; clear x)
    | (extract_lets +onlyGivenNames x; revert x; intro _) | with_reducible apply State.tick_keeps
    | with_reducible apply State.complete_keeps | with_reducible apply State.pnmQueue_keeps | with_reducible apply State.holdDoor_keeps
    | split | (clear_value *; split)

theorem execPnmAdd_keeps {m : Nat} {s0 s : State} (h : Keeps m s0 s) (hp : Sub 0x10808406 m) (a1) : Ends m s0 (execPnmAdd a1 s) := by
  unfold execPnmAdd
  repeat' first | with_reducible assumption | exact hp.trans rfl | with_reducible apply State.pnmDoor_keeps | with_reducible apply Ends.next

theorem execPnmMul_keeps {m : Nat} {s0 s : State} (h : Keeps m s0 s) (hp : Sub 0x10808406 m) (a1) : Ends m s0 (execPnmMul a1 s) := by
  unfold execPnmMul
  repeat' first | with_reducible assumption | exact hp.trans rfl | with_reducible apply State.pnmDoor_keeps | with_reducible apply Ends.next

theorem execPnmFma_keeps {m : Nat} {s0 s : State} (h : Keeps m s0 s) (hp : Sub 0x10808406 m) (a1) : Ends m s0 (execPnmFma a1 s) := by
  unfold execPnmFma
  repeat' first | with_reducible assumption | exact hp.trans rfl | with_reducible apply State.pnmDoor_keeps | with_reducible apply Ends.next

theorem execPnmAct_keeps {m : Nat} {s0 s : State} (h : Keeps m s0 s) (hp : Sub 0x10808406 m) (a1) : Ends m s0 (execPnmAct a1 s) := by
  unfold execPnmAct
  repeat' first | with_reducible assumption | exact hp.trans rfl | with_reducible apply State.pnmDoor_keeps | with_reducible apply Ends.next

theorem State.pnmFetch_keeps {m : Nat} {s0 s : State} (h : Keeps m s0 s) (hp : Sub 0x10041082 m) (a1 a2) : Keeps m s0 (State.pnmFetch s a1 a2) := by
  unfold State.pnmFetch
  repeat' first
    | with_reducible assumption | exact hp.trans rfl | intro _
    | (extract_lets +onlyGivenNames x; refine Keeps.seq (m := m) (s0 := s0) x ?_ ?_; rotate_left; clear_value x; revert x; intro _ _; rotate_left; unfold x; clear x)
    | (extract_lets +onlyGivenNames x; revert x; intro _) | with_reducible apply State.addTxn_keeps
    | with_reducible apply State.sendSnoops_keeps | split | (clear_value *; split)

theorem State.pnmSweepLine_keeps {m : Nat} {s0 s : State} (h : Keeps m s0 s) (hp : Sub 0x10041082 m) (a1 a2 a3) : Keeps m s0 (State.pnmSweepLine s a1 a2 a3).1 := by
  unfold State.pnmSweepLine
  repeat' first
    | with_reducible assumption | exact hp.trans rfl | with_reducible apply State.pnmFetch_keeps | with_reducible apply State.startSpi_keeps
    | with_reducible apply State.startRecall_keeps | split | (clear_value *; split) | with_reducible refine Keeps.of_fst (by assumption) ?_

theorem State.pnmSweep_keeps {m : Nat} {s0 s : State} (h : Keeps m s0 s) (hp : Sub 0x10049082 m) (a1 a2 a3) : Keeps m s0 (State.pnmSweep s a1 a2 a3) := by
  unfold State.pnmSweep
  repeat' first
    | with_reducible assumption | exact hp.trans rfl | intro _
    | (extract_lets +onlyGivenNames x; refine Keeps.seq (m := m) (s0 := s0) x ?_ ?_; rotate_left; clear_value x; revert x; intro _ _; rotate_left; unfold x; clear x)
    | (extract_lets +onlyGivenNames x; refine Keeps.seq (m := m) (s0 := s0) x.1 ?_ ?_; rotate_left; clear_value x; revert x; intro _ _; rotate_left; unfold x; clear x)
    | (extract_lets +onlyGivenNames x; revert x; intro _) | with_reducible apply State.pnmSweepLine_keeps
    | with_reducible apply State.setPnmQ_keeps | with_reducible apply Keeps.foldl | with_reducible apply Keeps.foldl_fst | split
    | (clear_value *; split) | with_reducible refine Keeps.of_fst (by assumption) ?_

theorem State.pnmCache_keeps {m : Nat} {s0 s : State} (h : Keeps m s0 s) (hp : Sub 0x8800416 m) (a1 a2) : Keeps m s0 (State.pnmCache s a1 a2) := by
  unfold State.pnmCache
  repeat' first
    | with_reducible assumption | exact hp.trans rfl | intro _
    | (extract_lets +onlyGivenNames x; refine Keeps.seq (m := m) (s0 := s0) x ?_ ?_; rotate_left; clear_value x; revert x; intro _ _; rotate_left; unfold x; clear x)
    | (extract_lets +onlyGivenNames x; revert x; intro _) | with_reducible apply State.pnmCount_keeps
    | with_reducible apply State.startWriteBack_keeps | with_reducible apply State.setFrame_keeps
    | with_reducible apply State.dropFrame_keeps | with_reducible apply Keeps.foldl | with_reducible apply Keeps.foldl_fst | split
    | (clear_value *; split)

theorem State.pnmPrepare_keeps {m : Nat} {s0 s : State} (h : Keeps m s0 s) (hp : Sub 0x18849496 m) (a1 a2 a3) : Keeps m s0 (State.pnmPrepare s a1 a2 a3) := by
  unfold State.pnmPrepare
  repeat' first
    | with_reducible assumption | exact hp.trans rfl | with_reducible apply State.pnmSweep_keeps | with_reducible apply State.pnmCache_keeps

theorem State.pnmTable_keeps {m : Nat} {s0 s : State} (h : Keeps m s0 s) (hp : Sub 0x10800000 m) (a1 a2) : Keeps m s0 (State.pnmTable s a1 a2) := by
  unfold State.pnmTable
  repeat' first
    | with_reducible assumption | exact hp.trans rfl | intro _
    | (extract_lets +onlyGivenNames x; refine Keeps.seq (m := m) (s0 := s0) x ?_ ?_; rotate_left; clear_value x; revert x; intro _ _; rotate_left; unfold x; clear x)
    | (extract_lets +onlyGivenNames x; revert x; intro _) | with_reducible apply State.issue_keeps | split | (clear_value *; split)

theorem State.pnmAccept_keeps {m : Nat} {s0 s : State} (h : Keeps m s0 s) (hp : Sub 0x18849496 m) (a1) : Keeps m s0 (State.pnmAccept s a1) := by
  unfold State.pnmAccept
  repeat' first
    | with_reducible assumption | exact hp.trans rfl | intro _
    | (extract_lets +onlyGivenNames x; refine Keeps.seq (m := m) (s0 := s0) x ?_ ?_; rotate_left; clear_value x; revert x; intro _ _; rotate_left; unfold x; clear x)
    | (extract_lets +onlyGivenNames x; revert x; intro _) | with_reducible apply State.tick_keeps | with_reducible apply State.pnmEnd_keeps
    | with_reducible apply State.count_keeps | with_reducible apply State.setPnmQ_keeps | with_reducible apply State.pnmCount_keeps
    | with_reducible apply State.pnmTable_keeps | with_reducible apply State.pnmPrepare_keeps | split | (clear_value *; split)

theorem execPnmAcceptance_keeps {m : Nat} {s0 s : State} (h : Keeps m s0 s) (hp : Sub 0x18849496 m) (a1) : Ends m s0 (execPnmAcceptance a1 s) := by
  unfold execPnmAcceptance
  repeat' first
    | with_reducible assumption | exact hp.trans rfl | with_reducible apply State.pnmAccept_keeps | with_reducible apply Ends.next

theorem State.pnmTableRead_keeps {m : Nat} {s0 s : State} (h : Keeps m s0 s) (hp : Sub 0x8000 m) (a1 a2 a3) : Keeps m s0 (State.pnmTableRead s a1 a2 a3) := by
  unfold State.pnmTableRead
  repeat' first
    | with_reducible assumption | exact hp.trans rfl | intro _
    | (extract_lets +onlyGivenNames x; refine Keeps.seq (m := m) (s0 := s0) x ?_ ?_; rotate_left; clear_value x; revert x; intro _ _; rotate_left; unfold x; clear x)
    | (extract_lets +onlyGivenNames x; revert x; intro _) | with_reducible apply State.setPnmQ_keeps | split | (clear_value *; split)

theorem State.pnmLine_keeps {m : Nat} {s0 s : State} (h : Keeps m s0 s) (hp : Sub 0x10012 m) (a1 a2) : Keeps m s0 (State.pnmLine s a1 a2).1 := by
  unfold State.pnmLine
  repeat' first
    | with_reducible assumption | exact hp.trans rfl | intro _
    | (extract_lets +onlyGivenNames x; refine Keeps.seq (m := m) (s0 := s0) x ?_ ?_; rotate_left; clear_value x; revert x; intro _ _; rotate_left; unfold x; clear x)
    | (extract_lets +onlyGivenNames x; refine Keeps.seq (m := m) (s0 := s0) x.1 ?_ ?_; rotate_left; clear_value x; revert x; intro _ _; rotate_left; unfold x; clear x)
    | (extract_lets +onlyGivenNames x; revert x; intro _) | with_reducible apply State.curePoison_keeps
    | with_reducible apply State.squash_keeps | with_reducible apply State.poisonLine_keeps | split | (clear_value *; split)
    | with_reducible refine Keeps.of_fst (by assumption) ?_
    | with_reducible refine Keeps.cells (by assumption) (by first | exact wf_memWrite _ _ _) (Sub.bit 4 rfl hp)
    | with_reducible refine Keeps.mem (by assumption) rfl (Sub.bit 4 rfl hp)

theorem State.pnmLines_keeps {m : Nat} {s0 s : State} (h : Keeps m s0 s) (hp : Sub 0x10012 m) (a1 a2 a3) : Keeps m s0 (State.pnmLines s a1 a2 a3).1 := by
  induction a3 generalizing s a1 a2 with
  | zero =>
    unfold State.pnmLines
    repeat' first
      | with_reducible assumption | exact hp.trans rfl | intro _
      | (extract_lets +onlyGivenNames x; refine Keeps.seq (m := m) (s0 := s0) x ?_ ?_; rotate_left; clear_value x; revert x; intro _ _; rotate_left; unfold x; clear x)
      | (extract_lets +onlyGivenNames x; refine Keeps.seq (m := m) (s0 := s0) x.1 ?_ ?_; rotate_left; clear_value x; revert x; intro _ _; rotate_left; unfold x; clear x)
      | (extract_lets +onlyGivenNames x; revert x; intro _) | with_reducible apply State.pnmLine_keeps | split | (clear_value *; split)
      | with_reducible refine Keeps.of_fst (by assumption) ?_
  | succ _ ih =>
    unfold State.pnmLines
    repeat' first
      | with_reducible assumption | with_reducible apply ih | exact hp.trans rfl | intro _
      | (extract_lets +onlyGivenNames x; refine Keeps.seq (m := m) (s0 := s0) x ?_ ?_; rotate_left; clear_value x; revert x; intro _ _; rotate_left; unfold x; clear x)
      | (extract_lets +onlyGivenNames x; refine Keeps.seq (m := m) (s0 := s0) x.1 ?_ ?_; rotate_left; clear_value x; revert x; intro _ _; rotate_left; unfold x; clear x)
      | (extract_lets +onlyGivenNames x; revert x; intro _) | with_reducible apply State.pnmLine_keeps | split | (clear_value *; split)
      | with_reducible refine Keeps.of_fst (by assumption) ?_

theorem State.toModule_keeps {m : Nat} {s0 s : State} (h : Keeps m s0 s) (hp : Sub 0x10000000 m) (a1 a2 a3 a4 a5 a6) : Keeps m s0 (State.toModule s a1 a2 a3 a4 a5 a6) := by
  unfold State.toModule
  repeat' first | with_reducible assumption | exact hp.trans rfl | with_reducible apply State.send_keeps

theorem State.pnmDispatch_keeps {m : Nat} {s0 s : State} (h : Keeps m s0 s) (hp : Sub 0x1885949e m) (a1 a2) : Keeps m s0 (State.pnmDispatch s a1 a2) := by
  unfold State.pnmDispatch
  repeat' first
    | with_reducible assumption | exact hp.trans rfl | intro _
    | (extract_lets +onlyGivenNames x; refine Keeps.seq (m := m) (s0 := s0) x ?_ ?_; rotate_left; clear_value x; revert x; intro _ _; rotate_left; unfold x; clear x)
    | (extract_lets +onlyGivenNames x; refine Keeps.seq (m := m) (s0 := s0) x.1 ?_ ?_; rotate_left; clear_value x; revert x; intro _ _; rotate_left; unfold x; clear x)
    | (extract_lets +onlyGivenNames x; revert x; intro _) | with_reducible apply State.pnmPrepare_keeps
    | with_reducible apply State.pnmRelease_keeps | with_reducible apply State.pnmEnd_keeps | with_reducible apply State.pnmCount_keeps
    | with_reducible apply State.toModule_keeps | with_reducible apply State.pnmLines_keeps | with_reducible apply State.setPnmQ_keeps
    | split | (clear_value *; split) | with_reducible refine Keeps.of_fst (by assumption) ?_

theorem execPnmDispatch_keeps {m : Nat} {s0 s : State} (h : Keeps m s0 s) (hp : Sub 0x1885949e m) (a1 a2) : Ends m s0 (execPnmDispatch a1 a2 s) := by
  unfold execPnmDispatch
  repeat' first
    | with_reducible assumption | exact hp.trans rfl | with_reducible apply State.pnmDispatch_keeps | with_reducible apply Ends.next

theorem State.pna_keeps {m : Nat} {s0 s : State} (h : Keeps m s0 s) (hp : Sub 0x1885949e m) (a1) : Keeps m s0 (State.pna s a1) := by
  unfold State.pna
  repeat' first
    | with_reducible assumption | exact hp.trans rfl | intro _
    | (extract_lets +onlyGivenNames x; refine Keeps.seq (m := m) (s0 := s0) x ?_ ?_; rotate_left; clear_value x; revert x; intro _ _; rotate_left; unfold x; clear x)
    | (extract_lets +onlyGivenNames x; revert x; intro _) | with_reducible apply State.pnmRelease_keeps
    | with_reducible apply State.pnmEnd_keeps | with_reducible apply State.tick_keeps | split | (clear_value *; split)

theorem execPna_keeps {m : Nat} {s0 s : State} (h : Keeps m s0 s) (hp : Sub 0x1885949e m) (a1) : Ends m s0 (execPna a1 s) := by
  unfold execPna
  repeat' first | with_reducible assumption | exact hp.trans rfl | with_reducible apply State.pna_keeps | with_reducible apply Ends.next

theorem State.pnmModuleLost_keeps {m : Nat} {s0 s : State} (h : Keeps m s0 s) (hp : Sub 0x10808082 m) (a1) : Keeps m s0 (State.pnmModuleLost s a1) := by
  unfold State.pnmModuleLost
  repeat' first
    | with_reducible assumption | exact hp.trans rfl | intro _
    | (extract_lets +onlyGivenNames x; refine Keeps.seq (m := m) (s0 := s0) x ?_ ?_; rotate_left; clear_value x; revert x; intro _ _; rotate_left; unfold x; clear x)
    | (extract_lets +onlyGivenNames x; revert x; intro _) | with_reducible apply State.modSlice_keeps
    | with_reducible apply State.waiterLost_keeps | with_reducible apply State.pnmEnd_keeps | with_reducible apply Keeps.foldl
    | with_reducible apply Keeps.foldl_fst | split | (clear_value *; split)

theorem State.pnmStackLost_keeps {m : Nat} {s0 s : State} (h : Keeps m s0 s) (hp : Sub 0x8000 m) (a1) : Keeps m s0 (State.pnmStackLost s a1) := by
  unfold State.pnmStackLost
  repeat' first
    | with_reducible assumption | exact hp.trans rfl | intro _
    | (extract_lets +onlyGivenNames x; refine Keeps.seq (m := m) (s0 := s0) x ?_ ?_; rotate_left; clear_value x; revert x; intro _ _; rotate_left; unfold x; clear x)
    | (extract_lets +onlyGivenNames x; revert x; intro _) | with_reducible apply State.setPnmQ_keeps | with_reducible apply Keeps.foldl
    | with_reducible apply Keeps.foldl_fst | split | (clear_value *; split)

theorem State.sendKeyp_keeps {m : Nat} {s0 s : State} (h : Keeps m s0 s) (hp : Sub 0x11000012 m) (a1) : Keeps m s0 (State.sendKeyp s a1) := by
  unfold State.sendKeyp
  repeat' first
    | with_reducible assumption | exact hp.trans rfl | intro _
    | (extract_lets +onlyGivenNames x; refine Keeps.seq (m := m) (s0 := s0) x ?_ ?_; rotate_left; clear_value x; revert x; intro _ _; rotate_left; unfold x; clear x)
    | (extract_lets +onlyGivenNames x; revert x; intro _) | with_reducible apply State.zeroMem_keeps
    | with_reducible apply State.setReg_keeps | with_reducible apply State.toModule_keeps | with_reducible apply State.setSlot_keeps | split
    | (clear_value *; split) | with_reducible refine Keeps.sec (by assumption) (Sub.bit 24 rfl hp)

theorem State.moduleInitDone_keeps {m : Nat} {s0 s : State} (h : Keeps m s0 s) (hp : Sub 0x12 m) (a1) : Keeps m s0 (State.moduleInitDone s a1) := by
  unfold State.moduleInitDone
  repeat' first
    | with_reducible assumption | exact hp.trans rfl | with_reducible apply State.setSlot_keeps | with_reducible apply State.setBit_keeps
    | split

end Sys2Proof.Machine
end

