-- ==== Sys2Proof/Laws/KeepsTraffic.lean ====
section
/-!
SUPPORT. The operations of Machine/Traffic.lean leave the queue of waiting commands alone and keep the canonical form.
-/
namespace Sys2Proof.Machine

set_option linter.all false

theorem State.showGrades_keeps {m : Nat} {s0 s : State} (h : Keeps m s0 s) (hp : Sub 0x2 m) : Keeps m s0 (State.showGrades s) := by
  unfold State.showGrades
  repeat' first
    | with_reducible assumption | exact hp.trans rfl | intro _ | with_reducible apply State.setReg_keeps | with_reducible apply Keeps.foldl
    | with_reducible apply Keeps.foldl_fst

theorem State.gradeUpdate_keeps {m : Nat} {s0 s : State} (h : Keeps m s0 s) (hp : Sub 0x80002 m) : Keeps m s0 (State.gradeUpdate s) := by
  unfold State.gradeUpdate
  repeat' first
    | with_reducible assumption | exact hp.trans rfl | intro _
    | (extract_lets +onlyGivenNames x; refine Keeps.seq (m := m) (s0 := s0) x ?_ ?_; rotate_left; clear_value x; revert x; intro _ _; rotate_left; unfold x; clear x)
    | (extract_lets +onlyGivenNames x; revert x; intro _) | with_reducible apply State.showGrades_keeps | with_reducible apply Keeps.foldl
    | with_reducible apply Keeps.foldl_fst | split | (clear_value *; split)
    | with_reducible refine Keeps.sw (by assumption) (Sub.bit 19 rfl hp)

theorem State.gradeThrWrite_keeps {m : Nat} {s0 s : State} (h : Keeps m s0 s) (hp : Sub 0x2 m) (a1) : Keeps m s0 (State.gradeThrWrite s a1) := by
  unfold State.gradeThrWrite
  repeat' first
    | with_reducible assumption | exact hp.trans rfl | intro _
    | (extract_lets +onlyGivenNames x; refine Keeps.seq (m := m) (s0 := s0) x ?_ ?_; rotate_left; clear_value x; revert x; intro _ _; rotate_left; unfold x; clear x)
    | (extract_lets +onlyGivenNames x; revert x; intro _) | with_reducible apply State.setReg_keeps | split | (clear_value *; split)

theorem State.setMeter_keeps {m : Nat} {s0 s : State} (h : Keeps m s0 s) (hp : Sub 0x100000 m) (a1 a2) : Keeps m s0 (State.setMeter s a1 a2) := by
  unfold State.setMeter
  repeat' first
    | with_reducible assumption | intro _
    | (extract_lets +onlyGivenNames x; refine Keeps.seq (m := m) (s0 := s0) x ?_ ?_; rotate_left; clear_value x; revert x; intro _ _; rotate_left; unfold x; clear x)
    | (extract_lets +onlyGivenNames x; revert x; intro _) | with_reducible refine Keeps.traf (by assumption) (Sub.bit 20 rfl hp)

theorem State.meterConfig_keeps {m : Nat} {s0 s : State} (h : Keeps m s0 s) (hp : Sub 0x100004 m) (a1 a2) : Keeps m s0 (State.meterConfig s a1 a2) := by
  unfold State.meterConfig
  repeat' first
    | with_reducible assumption | exact hp.trans rfl | intro _
    | (extract_lets +onlyGivenNames x; refine Keeps.seq (m := m) (s0 := s0) x ?_ ?_; rotate_left; clear_value x; revert x; intro _ _; rotate_left; unfold x; clear x)
    | (extract_lets +onlyGivenNames x; revert x; intro _) | with_reducible apply State.cfgDo_keeps
    | with_reducible apply State.setMeter_keeps | split | (clear_value *; split)

theorem execMeterConfig_keeps {m : Nat} {s0 s : State} (h : Keeps m s0 s) (hp : Sub 0x100004 m) (a1 a2) : Ends m s0 (execMeterConfig a1 a2 s) := by
  unfold execMeterConfig
  repeat' first
    | with_reducible assumption | exact hp.trans rfl | with_reducible apply State.meterConfig_keeps | with_reducible apply Ends.next

theorem State.refillMeters_keeps {m : Nat} {s0 s : State} (h : Keeps m s0 s) (hp : Sub 0x100000 m) : Keeps m s0 (State.refillMeters s) := by
  unfold State.refillMeters
  repeat' first
    | with_reducible assumption | intro _
    | (extract_lets +onlyGivenNames x; refine Keeps.seq (m := m) (s0 := s0) x ?_ ?_; rotate_left; clear_value x; revert x; intro _ _; rotate_left; unfold x; clear x)
    | (extract_lets +onlyGivenNames x; revert x; intro _) | with_reducible refine Keeps.traf (by assumption) (Sub.bit 20 rfl hp)

theorem State.contractTest_keeps {m : Nat} {s0 s : State} (h : Keeps m s0 s) (hp : Sub 0x100006 m) (a1 a2 a3 a4) : Keeps m s0 (State.contractTest s a1 a2 a3 a4).1 := by
  unfold State.contractTest
  repeat' first
    | with_reducible assumption | exact hp.trans rfl | intro _
    | (extract_lets +onlyGivenNames x; refine Keeps.seq (m := m) (s0 := s0) x ?_ ?_; rotate_left; clear_value x; revert x; intro _ _; rotate_left; unfold x; clear x)
    | (extract_lets +onlyGivenNames x; refine Keeps.seq (m := m) (s0 := s0) x.1 ?_ ?_; rotate_left; clear_value x; revert x; intro _ _; rotate_left; unfold x; clear x)
    | (extract_lets +onlyGivenNames x; revert x; intro _) | with_reducible apply State.tick_keeps | with_reducible apply State.count_keeps
    | with_reducible apply State.setMeter_keeps | split | (clear_value *; split) | with_reducible refine Keeps.of_fst (by assumption) ?_

theorem State.ethMeterTest_keeps {m : Nat} {s0 s : State} (h : Keeps m s0 s) (hp : Sub 0x100006 m) (a1 a2 a3 a4 a5) : Keeps m s0 (State.ethMeterTest s a1 a2 a3 a4 a5).1 := by
  unfold State.ethMeterTest
  repeat' first
    | with_reducible assumption | exact hp.trans rfl | intro _
    | (extract_lets +onlyGivenNames x; refine Keeps.seq (m := m) (s0 := s0) x ?_ ?_; rotate_left; clear_value x; revert x; intro _ _; rotate_left; unfold x; clear x)
    | (extract_lets +onlyGivenNames x; refine Keeps.seq (m := m) (s0 := s0) x.1 ?_ ?_; rotate_left; clear_value x; revert x; intro _ _; rotate_left; unfold x; clear x)
    | (extract_lets +onlyGivenNames x; revert x; intro _) | with_reducible apply State.tick_keeps
    | with_reducible apply State.setMeter_keeps | with_reducible apply State.count_keeps | split | (clear_value *; split)
    | with_reducible refine Keeps.of_fst (by assumption) ?_

theorem State.setShaper_keeps {m : Nat} {s0 s : State} (h : Keeps m s0 s) (hp : Sub 0x100000 m) (a1 a2) : Keeps m s0 (State.setShaper s a1 a2) := by
  unfold State.setShaper
  repeat' first
    | with_reducible assumption | intro _
    | (extract_lets +onlyGivenNames x; refine Keeps.seq (m := m) (s0 := s0) x ?_ ?_; rotate_left; clear_value x; revert x; intro _ _; rotate_left; unfold x; clear x)
    | (extract_lets +onlyGivenNames x; revert x; intro _) | with_reducible refine Keeps.traf (by assumption) (Sub.bit 20 rfl hp)

theorem State.shaperConfig_keeps {m : Nat} {s0 s : State} (h : Keeps m s0 s) (hp : Sub 0x100004 m) (a1) : Keeps m s0 (State.shaperConfig s a1) := by
  unfold State.shaperConfig
  repeat' first
    | with_reducible assumption | exact hp.trans rfl | intro _
    | (extract_lets +onlyGivenNames x; refine Keeps.seq (m := m) (s0 := s0) x ?_ ?_; rotate_left; clear_value x; revert x; intro _ _; rotate_left; unfold x; clear x)
    | (extract_lets +onlyGivenNames x; revert x; intro _) | with_reducible apply State.cfgDo_keeps
    | with_reducible apply State.setShaper_keeps | split | (clear_value *; split)

theorem execShaperConfig_keeps {m : Nat} {s0 s : State} (h : Keeps m s0 s) (hp : Sub 0x100004 m) (a1) : Ends m s0 (execShaperConfig a1 s) := by
  unfold execShaperConfig
  repeat' first
    | with_reducible assumption | exact hp.trans rfl | with_reducible apply State.shaperConfig_keeps | with_reducible apply Ends.next

theorem State.shaperRefill_keeps {m : Nat} {s0 s : State} (h : Keeps m s0 s) (hp : Sub 0x100002 m) : Keeps m s0 (State.shaperRefill s) := by
  unfold State.shaperRefill
  repeat' first
    | with_reducible assumption | exact hp.trans rfl | intro _
    | (extract_lets +onlyGivenNames x; refine Keeps.seq (m := m) (s0 := s0) x ?_ ?_; rotate_left; clear_value x; revert x; intro _ _; rotate_left; unfold x; clear x)
    | (extract_lets +onlyGivenNames x; revert x; intro _) | with_reducible apply State.count_keeps
    | with_reducible refine Keeps.traf (by assumption) (Sub.bit 20 rfl hp)

theorem execShaperRefill_keeps {m : Nat} {s0 s : State} (h : Keeps m s0 s) (hp : Sub 0x100002 m) : Ends m s0 (execShaperRefill s) := by
  unfold execShaperRefill
  repeat' first
    | with_reducible assumption | exact hp.trans rfl | with_reducible apply State.shaperRefill_keeps | with_reducible apply Ends.next

theorem State.shaperTake_keeps {m : Nat} {s0 s : State} (h : Keeps m s0 s) (hp : Sub 0x100000 m) (a1 a2 a3 a4) : Keeps m s0 (State.shaperTake s a1 a2 a3 a4) := by
  unfold State.shaperTake
  repeat' first | with_reducible assumption | exact hp.trans rfl | with_reducible apply State.setShaper_keeps | split

theorem State.setGate_keeps {m : Nat} {s0 s : State} (h : Keeps m s0 s) (hp : Sub 0x100000 m) (a1 a2) : Keeps m s0 (State.setGate s a1 a2) := by
  unfold State.setGate
  repeat' first
    | with_reducible assumption | intro _
    | (extract_lets +onlyGivenNames x; refine Keeps.seq (m := m) (s0 := s0) x ?_ ?_; rotate_left; clear_value x; revert x; intro _ _; rotate_left; unfold x; clear x)
    | (extract_lets +onlyGivenNames x; revert x; intro _) | with_reducible refine Keeps.traf (by assumption) (Sub.bit 20 rfl hp)

theorem State.portGateWrite_keeps {m : Nat} {s0 s : State} (h : Keeps m s0 s) (hp : Sub 0x100006 m) (a1 a2) : Keeps m s0 (State.portGateWrite s a1 a2) := by
  unfold State.portGateWrite
  repeat' first
    | with_reducible assumption | exact hp.trans rfl | intro _
    | (extract_lets +onlyGivenNames x; refine Keeps.seq (m := m) (s0 := s0) x ?_ ?_; rotate_left; clear_value x; revert x; intro _ _; rotate_left; unfold x; clear x)
    | (extract_lets +onlyGivenNames x; revert x; intro _) | with_reducible apply State.cfgDo_keeps | with_reducible apply State.count_keeps
    | with_reducible apply State.setBit_keeps | with_reducible apply State.setReg_keeps | with_reducible apply State.setGate_keeps | split
    | (clear_value *; split) | with_reducible refine Keeps.traf (by assumption) (Sub.bit 20 rfl hp)

theorem execGateListEnable_keeps {m : Nat} {s0 s : State} (h : Keeps m s0 s) (hp : Sub 0x100006 m) (a1 a2) : Ends m s0 (execGateListEnable a1 a2 s) := by
  unfold execGateListEnable
  repeat' first
    | with_reducible assumption | exact hp.trans rfl | with_reducible apply State.portGateWrite_keeps | with_reducible apply Ends.next

theorem execGateListChange_keeps {m : Nat} {s0 s : State} (h : Keeps m s0 s) (hp : Sub 0x100006 m) (a1 a2) : Ends m s0 (execGateListChange a1 a2 s) := by
  unfold execGateListChange
  repeat' first
    | with_reducible assumption | exact hp.trans rfl | with_reducible apply State.portGateWrite_keeps | with_reducible apply Ends.next

theorem State.glAdvance_keeps {m : Nat} {s0 s : State} (h : Keeps m s0 s) (hp : Sub 0x2 m) : Keeps m s0 (State.glAdvance s) := by
  unfold State.glAdvance
  repeat' first | with_reducible assumption | exact hp.trans rfl | with_reducible apply State.setFld_keeps | split

theorem State.gateEntryWrite_keeps {m : Nat} {s0 s : State} (h : Keeps m s0 s) (hp : Sub 0x100006 m) (a1) : Keeps m s0 (State.gateEntryWrite s a1) := by
  unfold State.gateEntryWrite
  repeat' first
    | with_reducible assumption | exact hp.trans rfl | intro _
    | (extract_lets +onlyGivenNames x; refine Keeps.seq (m := m) (s0 := s0) x ?_ ?_; rotate_left; clear_value x; revert x; intro _ _; rotate_left; unfold x; clear x)
    | (extract_lets +onlyGivenNames x; revert x; intro _) | with_reducible apply State.cfgDo_keeps
    | with_reducible apply State.glAdvance_keeps | with_reducible apply State.count_keeps | with_reducible apply State.setBit_keeps | split
    | (clear_value *; split) | with_reducible refine Keeps.traf (by assumption) (Sub.bit 20 rfl hp)

theorem execGateEntryWrite_keeps {m : Nat} {s0 s : State} (h : Keeps m s0 s) (hp : Sub 0x100006 m) (a1) : Ends m s0 (execGateEntryWrite a1 s) := by
  unfold execGateEntryWrite
  repeat' first
    | with_reducible assumption | exact hp.trans rfl | with_reducible apply State.gateEntryWrite_keeps | with_reducible apply Ends.next

theorem State.gateAnchor_keeps {m : Nat} {s0 s : State} (h : Keeps m s0 s) (hp : Sub 0x100002 m) (a1 a2) : Keeps m s0 (State.gateAnchor s a1 a2) := by
  unfold State.gateAnchor
  repeat' first
    | with_reducible assumption | exact hp.trans rfl | intro _
    | (extract_lets +onlyGivenNames x; refine Keeps.seq (m := m) (s0 := s0) x ?_ ?_; rotate_left; clear_value x; revert x; intro _ _; rotate_left; unfold x; clear x)
    | (extract_lets +onlyGivenNames x; revert x; intro _) | with_reducible apply State.count_keeps
    | with_reducible apply State.setGate_keeps | split | (clear_value *; split)

theorem State.gatesPass_keeps {m : Nat} {s0 s : State} (h : Keeps m s0 s) (hp : Sub 0x100000 m) (a1) : Keeps m s0 (State.gatesPass s a1) := by
  unfold State.gatesPass
  repeat' first
    | with_reducible assumption | intro _
    | (extract_lets +onlyGivenNames x; refine Keeps.seq (m := m) (s0 := s0) x ?_ ?_; rotate_left; clear_value x; revert x; intro _ _; rotate_left; unfold x; clear x)
    | (extract_lets +onlyGivenNames x; revert x; intro _) | with_reducible refine Keeps.traf (by assumption) (Sub.bit 20 rfl hp)

theorem State.gateTransition_keeps {m : Nat} {s0 s : State} (h : Keeps m s0 s) (hp : Sub 0x100000 m) (a1) : Keeps m s0 (State.gateTransition s a1) := by
  unfold State.gateTransition
  repeat' first | with_reducible assumption | exact hp.trans rfl | with_reducible apply State.setGate_keeps | split

theorem execGateEntryTransition_keeps {m : Nat} {s0 s : State} (h : Keeps m s0 s) (hp : Sub 0x100000 m) (a1) : Ends m s0 (execGateEntryTransition a1 s) := by
  unfold execGateEntryTransition
  repeat' first
    | with_reducible assumption | exact hp.trans rfl | with_reducible apply State.gateTransition_keeps | with_reducible apply Ends.next

end Sys2Proof.Machine
end

