-- ==== Sys2Proof/Laws/KeepsSwitch.lean ====
section
/-!
SUPPORT. The operations of Machine/Switch.lean leave the queue of waiting commands alone and keep the canonical form.
-/
namespace Sys2Proof.Machine

set_option linter.all false

theorem State.tickLanes_keeps {m : Nat} {s0 s : State} (h : Keeps m s0 s) (hp : Sub 0x4 m) (a1 a2) : Keeps m s0 (State.tickLanes s a1 a2) := by
  unfold State.tickLanes
  repeat' first
    | with_reducible assumption | exact hp.trans rfl | intro _ | with_reducible apply State.tick_keeps | with_reducible apply Keeps.foldl
    | with_reducible apply Keeps.foldl_fst | split

theorem State.takeVia_keeps {m : Nat} {s0 s : State} (h : Keeps m s0 s) (hp : Sub 0x80002 m) (a1 a2) : Keeps m s0 (State.takeVia s a1 a2).1 := by
  unfold State.takeVia
  repeat' first
    | with_reducible assumption | exact hp.trans rfl | intro _
    | (extract_lets +onlyGivenNames x; refine Keeps.seq (m := m) (s0 := s0) x ?_ ?_; rotate_left; clear_value x; revert x; intro _ _; rotate_left; unfold x; clear x)
    | (extract_lets +onlyGivenNames x; refine Keeps.seq (m := m) (s0 := s0) x.1 ?_ ?_; rotate_left; clear_value x; revert x; intro _ _; rotate_left; unfold x; clear x)
    | (extract_lets +onlyGivenNames x; revert x; intro _) | with_reducible apply State.count_keeps
    | with_reducible refine Keeps.of_fst (by assumption) ?_ | with_reducible refine Keeps.sw (by assumption) (Sub.bit 19 rfl hp)

theorem State.route_keeps {m : Nat} {s0 s : State} (h : Keeps m s0 s) (hp : Sub 0x80002 m) (a1 a2) : Keeps m s0 (State.route s a1 a2).1 := by
  unfold State.route
  repeat' first
    | with_reducible assumption | exact hp.trans rfl | intro _
    | (extract_lets +onlyGivenNames x; refine Keeps.seq (m := m) (s0 := s0) x ?_ ?_; rotate_left; clear_value x; revert x; intro _ _; rotate_left; unfold x; clear x)
    | (extract_lets +onlyGivenNames x; refine Keeps.seq (m := m) (s0 := s0) x.1 ?_ ?_; rotate_left; clear_value x; revert x; intro _ _; rotate_left; unfold x; clear x)
    | (extract_lets +onlyGivenNames x; revert x; intro _) | with_reducible apply State.takeVia_keeps | split | (clear_value *; split)
    | with_reducible refine Keeps.of_fst (by assumption) ?_

theorem State.noteDiscard_keeps {m : Nat} {s0 s : State} (h : Keeps m s0 s) (hp : Sub 0x8800006 m) (a1 a2) : Keeps m s0 (State.noteDiscard s a1 a2) := by
  unfold State.noteDiscard
  repeat' first | with_reducible assumption | exact hp.trans rfl | with_reducible apply State.record_keeps

theorem State.timeoutFor_keeps {m : Nat} {s0 s : State} (h : Keeps m s0 s) (hp : Sub 0x10000002 m) (a1) : Keeps m s0 (State.timeoutFor s a1) := by
  unfold State.timeoutFor
  repeat' first
    | with_reducible assumption | exact hp.trans rfl | intro _
    | (extract_lets +onlyGivenNames x; refine Keeps.seq (m := m) (s0 := s0) x ?_ ?_; rotate_left; clear_value x; revert x; intro _ _; rotate_left; unfold x; clear x)
    | (extract_lets +onlyGivenNames x; revert x; intro _) | with_reducible apply State.count_keeps | with_reducible apply State.send_keeps

theorem State.ageDiscard_keeps {m : Nat} {s0 s : State} (h : Keeps m s0 s) (hp : Sub 0x18800006 m) (a1 a2) : Keeps m s0 (State.ageDiscard s a1 a2) := by
  unfold State.ageDiscard
  repeat' first
    | with_reducible assumption | exact hp.trans rfl | intro _
    | (extract_lets +onlyGivenNames x; refine Keeps.seq (m := m) (s0 := s0) x ?_ ?_; rotate_left; clear_value x; revert x; intro _ _; rotate_left; unfold x; clear x)
    | (extract_lets +onlyGivenNames x; revert x; intro _) | with_reducible apply State.noteDiscard_keeps
    | with_reducible apply State.count_keeps | with_reducible apply State.timeoutFor_keeps | split | (clear_value *; split)

theorem State.refusePkt_keeps {m : Nat} {s0 s : State} (h : Keeps m s0 s) (hp : Sub 0x10000002 m) (a1 a2 a3) : Keeps m s0 (State.refusePkt s a1 a2 a3) := by
  unfold State.refusePkt
  repeat' first
    | with_reducible assumption | exact hp.trans rfl | with_reducible apply State.complete_keeps | with_reducible apply State.count_keeps
    | split

theorem State.classRsvWrite_keeps {m : Nat} {s0 s : State} (h : Keeps m s0 s) (hp : Sub 0x6 m) (a1) : Keeps m s0 (State.classRsvWrite s a1) := by
  unfold State.classRsvWrite
  repeat' first
    | with_reducible assumption | exact hp.trans rfl | intro _ | with_reducible apply State.cfgDo_keeps
    | with_reducible apply State.setBit_keeps | with_reducible apply State.setReg_keeps | split

theorem execClassRsvWrite_keeps {m : Nat} {s0 s : State} (h : Keeps m s0 s) (hp : Sub 0x6 m) (a1) : Ends m s0 (execClassRsvWrite a1 s) := by
  unfold execClassRsvWrite
  repeat' first
    | with_reducible assumption | exact hp.trans rfl | with_reducible apply State.classRsvWrite_keeps | with_reducible apply Ends.next

theorem State.setPath_keeps {m : Nat} {s0 s : State} (h : Keeps m s0 s) (hp : Sub 0x200 m) (a1 a2) : Keeps m s0 (State.setPath s a1 a2) := by
  unfold State.setPath
  repeat' first | with_reducible assumption | with_reducible refine Keeps.paths (by assumption) (Sub.bit 9 rfl hp)

theorem State.store_keeps {m : Nat} {s0 s : State} (h : Keeps m s0 s) (hp : Sub 0x80004 m) (a1) : Keeps m s0 (State.store s a1) := by
  unfold State.store
  repeat' first
    | with_reducible assumption | exact hp.trans rfl | intro _
    | (extract_lets +onlyGivenNames x; refine Keeps.seq (m := m) (s0 := s0) x ?_ ?_; rotate_left; clear_value x; revert x; intro _ _; rotate_left; unfold x; clear x)
    | (extract_lets +onlyGivenNames x; revert x; intro _) | with_reducible apply State.tick_keeps | with_reducible apply Keeps.foldl
    | with_reducible apply Keeps.foldl_fst | split | (clear_value *; split)
    | with_reducible refine Keeps.sw (by assumption) (Sub.bit 19 rfl hp)

theorem State.storeInner_keeps {m : Nat} {s0 s : State} (h : Keeps m s0 s) (hp : Sub 0x80006 m) (a1) : Keeps m s0 (State.storeInner s a1) := by
  unfold State.storeInner
  repeat' first
    | with_reducible assumption | exact hp.trans rfl | intro _
    | (extract_lets +onlyGivenNames x; refine Keeps.seq (m := m) (s0 := s0) x ?_ ?_; rotate_left; clear_value x; revert x; intro _ _; rotate_left; unfold x; clear x)
    | (extract_lets +onlyGivenNames x; revert x; intro _) | with_reducible apply State.store_keeps | with_reducible apply State.count_keeps
    | split | (clear_value *; split) | with_reducible refine Keeps.sw (by assumption) (Sub.bit 19 rfl hp)

theorem State.unstall_keeps {m : Nat} {s0 s : State} (h : Keeps m s0 s) (hp : Sub 0x80006 m) : Keeps m s0 (State.unstall s) := by
  unfold State.unstall
  repeat' first
    | with_reducible assumption | exact hp.trans rfl | intro _
    | (extract_lets +onlyGivenNames x; refine Keeps.seq (m := m) (s0 := s0) x ?_ ?_; rotate_left; clear_value x; revert x; intro _ _; rotate_left; unfold x; clear x)
    | (extract_lets +onlyGivenNames x; revert x; intro _) | with_reducible apply State.storeInner_keeps | with_reducible apply Keeps.foldl
    | with_reducible apply Keeps.foldl_fst | with_reducible refine Keeps.sw (by assumption) (Sub.bit 19 rfl hp)

theorem State.sendDrn_keeps {m : Nat} {s0 s : State} (h : Keeps m s0 s) (hp : Sub 0x80006 m) (a1 a2 a3) : Keeps m s0 (State.sendDrn s a1 a2 a3) := by
  unfold State.sendDrn
  repeat' first
    | with_reducible assumption | exact hp.trans rfl | intro _
    | (extract_lets +onlyGivenNames x; refine Keeps.seq (m := m) (s0 := s0) x ?_ ?_; rotate_left; clear_value x; revert x; intro _ _; rotate_left; unfold x; clear x)
    | (extract_lets +onlyGivenNames x; revert x; intro _) | with_reducible apply State.storeInner_keeps
    | with_reducible apply State.count_keeps

theorem State.bumpEpoch_keeps {m : Nat} {s0 s : State} (h : Keeps m s0 s) (hp : Sub 0x80206 m) (a1 a2) : Keeps m s0 (State.bumpEpoch s a1 a2) := by
  unfold State.bumpEpoch
  repeat' first
    | with_reducible assumption | exact hp.trans rfl | intro _
    | (extract_lets +onlyGivenNames x; refine Keeps.seq (m := m) (s0 := s0) x ?_ ?_; rotate_left; clear_value x; revert x; intro _ _; rotate_left; unfold x; clear x)
    | (extract_lets +onlyGivenNames x; revert x; intro _) | with_reducible apply State.count_keeps
    | with_reducible apply State.setPath_keeps | with_reducible apply State.sendDrn_keeps | with_reducible apply Keeps.foldl
    | with_reducible apply Keeps.foldl_fst | split | (clear_value *; split)

theorem State.toEndpoint_keeps {m : Nat} {s0 s : State} (h : Keeps m s0 s) (hp : Sub 0x800000 m) (a1) : Keeps m s0 (State.toEndpoint s a1) := by
  unfold State.toEndpoint
  repeat' first | with_reducible assumption | exact hp.trans rfl | with_reducible apply State.dropTracker_keeps | split

theorem State.ruling_keeps {m : Nat} {s0 s : State} (h : Keeps m s0 s) (hp : Sub 0x80002 m) (a1 a2) : Keeps m s0 (State.ruling s a1 a2).1 := by
  unfold State.ruling
  repeat' first
    | with_reducible assumption | exact hp.trans rfl | intro _
    | (extract_lets +onlyGivenNames x; refine Keeps.seq (m := m) (s0 := s0) x ?_ ?_; rotate_left; clear_value x; revert x; intro _ _; rotate_left; unfold x; clear x)
    | (extract_lets +onlyGivenNames x; refine Keeps.seq (m := m) (s0 := s0) x.1 ?_ ?_; rotate_left; clear_value x; revert x; intro _ _; rotate_left; unfold x; clear x)
    | (extract_lets +onlyGivenNames x; revert x; intro _) | with_reducible apply State.route_keeps | split | (clear_value *; split)
    | with_reducible refine Keeps.of_fst (by assumption) ?_

theorem State.noRoute_keeps {m : Nat} {s0 s : State} (h : Keeps m s0 s) (hp : Sub 0x18800006 m) (a1 a2 a3) : Keeps m s0 (State.noRoute s a1 a2 a3) := by
  unfold State.noRoute
  repeat' first
    | with_reducible assumption | exact hp.trans rfl | intro _
    | (extract_lets +onlyGivenNames x; refine Keeps.seq (m := m) (s0 := s0) x ?_ ?_; rotate_left; clear_value x; revert x; intro _ _; rotate_left; unfold x; clear x)
    | (extract_lets +onlyGivenNames x; revert x; intro _) | with_reducible apply State.count_keeps
    | with_reducible apply State.complete_keeps | with_reducible apply State.note_keeps | with_reducible apply State.ageDiscard_keeps
    | split | (clear_value *; split)

theorem State.countRefused_keeps {m : Nat} {s0 s : State} (h : Keeps m s0 s) (hp : Sub 0x2 m) (a1 a2 a3) : Keeps m s0 (State.countRefused s a1 a2 a3) := by
  unfold State.countRefused
  repeat' first | with_reducible assumption | exact hp.trans rfl | with_reducible apply State.count_keeps | split

theorem State.ringWrite_keeps {m : Nat} {s0 s : State} (h : Keeps m s0 s) (hp : Sub 0x10000000 m) (a1 a2 a3) : Keeps m s0 (State.ringWrite s a1 a2 a3) := by
  unfold State.ringWrite
  repeat' first | with_reducible assumption | exact hp.trans rfl | with_reducible apply State.send_keeps | split

theorem State.sample_keeps {m : Nat} {s0 s : State} (h : Keeps m s0 s) (hp : Sub 0x10080006 m) (a1 a2) : Keeps m s0 (State.sample s a1 a2) := by
  unfold State.sample
  repeat' first
    | with_reducible assumption | exact hp.trans rfl | intro _
    | (extract_lets +onlyGivenNames x; refine Keeps.seq (m := m) (s0 := s0) x ?_ ?_; rotate_left; clear_value x; revert x; intro _ _; rotate_left; unfold x; clear x)
    | (extract_lets +onlyGivenNames x; revert x; intro _) | with_reducible apply State.tick_keeps | with_reducible apply State.count_keeps
    | with_reducible apply State.setFld_keeps | with_reducible apply State.ringWrite_keeps | split | (clear_value *; split)
    | with_reducible refine Keeps.sw (by assumption) (Sub.bit 19 rfl hp)

theorem State.sampleWritten_keeps {m : Nat} {s0 s : State} (h : Keeps m s0 s) (hp : Sub 0x80106 m) : Keeps m s0 (State.sampleWritten s) := by
  unfold State.sampleWritten
  repeat' first
    | with_reducible assumption | exact hp.trans rfl | intro _
    | (extract_lets +onlyGivenNames x; refine Keeps.seq (m := m) (s0 := s0) x ?_ ?_; rotate_left; clear_value x; revert x; intro _ _; rotate_left; unfold x; clear x)
    | (extract_lets +onlyGivenNames x; revert x; intro _) | with_reducible apply State.count_keeps | with_reducible apply State.setFld_keeps
    | with_reducible apply State.srelLocal_keeps | split | (clear_value *; split)
    | with_reducible refine Keeps.sw (by assumption) (Sub.bit 19 rfl hp)

theorem execSampleRecordWritten_keeps {m : Nat} {s0 s : State} (h : Keeps m s0 s) (hp : Sub 0x80106 m) : Ends m s0 (execSampleRecordWritten s) := by
  unfold execSampleRecordWritten
  repeat' first
    | with_reducible assumption | exact hp.trans rfl | with_reducible apply State.sampleWritten_keeps | with_reducible apply Ends.next

theorem State.freeFlits_keeps {m : Nat} {s0 s : State} (h : Keeps m s0 s) (hp : Sub 0x40000 m) (a1 a2 a3) : Keeps m s0 (State.freeFlits s a1 a2 a3) := by
  unfold State.freeFlits
  repeat' first
    | with_reducible assumption | exact hp.trans rfl | intro _
    | (extract_lets +onlyGivenNames x; refine Keeps.seq (m := m) (s0 := s0) x ?_ ?_; rotate_left; clear_value x; revert x; intro _ _; rotate_left; unfold x; clear x)
    | (extract_lets +onlyGivenNames x; revert x; intro _) | with_reducible apply State.setLink_keeps

theorem State.trackOutside_keeps {m : Nat} {s0 s : State} (h : Keeps m s0 s) (hp : Sub 0x800000 m) (a1) : Keeps m s0 (State.trackOutside s a1) := by
  unfold State.trackOutside
  repeat' first
    | with_reducible assumption | intro _
    | (extract_lets +onlyGivenNames x; refine Keeps.seq (m := m) (s0 := s0) x ?_ ?_; rotate_left; clear_value x; revert x; intro _ _; rotate_left; unfold x; clear x)
    | (extract_lets +onlyGivenNames x; revert x; intro _) | split | (clear_value *; split)
    | with_reducible refine Keeps.recov (by assumption) (Sub.bit 23 rfl hp)

theorem State.trackAccel_keeps {m : Nat} {s0 s : State} (h : Keeps m s0 s) (hp : Sub 0x800000 m) (a1 a2) : Keeps m s0 (State.trackAccel s a1 a2) := by
  unfold State.trackAccel
  repeat' first | with_reducible assumption | exact hp.trans rfl | with_reducible apply State.trackOutside_keeps | split

theorem State.portIngress_keeps {m : Nat} {s0 s : State} (h : Keeps m s0 s) (hp : Sub 0x188c0006 m) (a1 a2) : Keeps m s0 (State.portIngress s a1 a2) := by
  unfold State.portIngress
  repeat' first
    | with_reducible assumption | exact hp.trans rfl | intro _
    | (extract_lets +onlyGivenNames x; refine Keeps.seq (m := m) (s0 := s0) x ?_ ?_; rotate_left; clear_value x; revert x; intro _ _; rotate_left; unfold x; clear x)
    | (extract_lets +onlyGivenNames x; refine Keeps.seq (m := m) (s0 := s0) x.1 ?_ ?_; rotate_left; clear_value x; revert x; intro _ _; rotate_left; unfold x; clear x)
    | (extract_lets +onlyGivenNames x; revert x; intro _) | with_reducible apply State.tick_keeps | with_reducible apply State.setLink_keeps
    | with_reducible apply State.sample_keeps | with_reducible apply State.freeFlits_keeps | with_reducible apply State.refusePkt_keeps
    | with_reducible apply State.countRefused_keeps | with_reducible apply State.trackAccel_keeps | with_reducible apply State.ruling_keeps
    | with_reducible apply State.count_keeps | with_reducible apply State.noRoute_keeps | with_reducible apply State.toEndpoint_keeps
    | with_reducible apply State.trackOutside_keeps | with_reducible apply State.store_keeps | split | (clear_value *; split)
    | with_reducible refine Keeps.of_fst (by assumption) ?_

theorem State.countReleasing_keeps {m : Nat} {s0 s : State} (h : Keeps m s0 s) (hp : Sub 0x2 m) (a1) : Keeps m s0 (State.countReleasing s a1) := by
  unfold State.countReleasing
  repeat' first | with_reducible assumption | exact hp.trans rfl | with_reducible apply State.count_keeps | split

theorem State.innerIngress_keeps {m : Nat} {s0 s : State} (h : Keeps m s0 s) (hp : Sub 0x18980006 m) (a1 a2 a3 a4) : Keeps m s0 (State.innerIngress s a1 a2 a3 a4) := by
  unfold State.innerIngress
  repeat' first
    | with_reducible assumption | exact hp.trans rfl | intro _ | with_reducible apply hF
    | (extract_lets +onlyGivenNames x; refine Keeps.seq (m := m) (s0 := s0) x ?_ ?_; rotate_left; clear_value x; revert x; intro _ _; rotate_left; unfold x; clear x)
    | (extract_lets +onlyGivenNames x; refine Keeps.seq (m := m) (s0 := s0) x.1 ?_ ?_; rotate_left; clear_value x; revert x; intro _ _; rotate_left; unfold x; clear x)
    | (extract_lets +onlyGivenNames x; refine Keeps.seqF (m := m) (s0 := s0) x ?_ ?_; rotate_left; clear_value x; revert x; intro _ hF; rotate_left; unfold x; clear x)
    | (extract_lets +onlyGivenNames x; refine Keeps.seqG (m := m) (s0 := s0) x ?_ ?_; rotate_left; clear_value x; revert x; intro _ hF; rotate_left; unfold x; clear x)
    | (extract_lets +onlyGivenNames x; refine Keeps.seqH (m := m) (s0 := s0) x ?_ ?_; rotate_left; clear_value x; revert x; intro _ hF; rotate_left; unfold x; clear x)
    | (extract_lets +onlyGivenNames x; revert x; intro _) | with_reducible apply State.refusePkt_keeps
    | with_reducible apply State.countReleasing_keeps | with_reducible apply State.count_keeps | with_reducible apply State.ruling_keeps
    | with_reducible apply State.noRoute_keeps | with_reducible apply State.tick_keeps | with_reducible apply State.contractTest_keeps
    | with_reducible apply State.shaperTake_keeps | with_reducible apply State.toEndpoint_keeps | with_reducible apply State.store_keeps
    | split | (clear_value *; split) | with_reducible refine Keeps.of_fst (by assumption) ?_
    | with_reducible refine Keeps.out (by assumption) (Sub.bit 28 rfl hp) | (with_reducible apply Keeps.mix <;> assumption)

theorem State.filardIngress_keeps {m : Nat} {s0 s : State} (h : Keeps m s0 s) (hp : Sub 0x189c0006 m) (a1) : Keeps m s0 (State.filardIngress s a1) := by
  unfold State.filardIngress
  repeat' first
    | with_reducible assumption | exact hp.trans rfl | intro _
    | (extract_lets +onlyGivenNames x; refine Keeps.seq (m := m) (s0 := s0) x ?_ ?_; rotate_left; clear_value x; revert x; intro _ _; rotate_left; unfold x; clear x)
    | (extract_lets +onlyGivenNames x; revert x; intro _) | with_reducible apply State.innerIngress_keeps
    | with_reducible apply State.freeFlits_keeps | with_reducible apply State.tick_keeps | with_reducible apply State.setLink_keeps

theorem State.packetIngress_keeps {m : Nat} {s0 s : State} (h : Keeps m s0 s) (hp : Sub 0x189c0006 m) (a1 a2) : Keeps m s0 (State.packetIngress s a1 a2) := by
  unfold State.packetIngress
  repeat' first
    | with_reducible assumption | exact hp.trans rfl | with_reducible apply State.portIngress_keeps
    | with_reducible apply State.innerIngress_keeps | with_reducible apply State.filardIngress_keeps | split

theorem execPacketIngress_keeps {m : Nat} {s0 s : State} (h : Keeps m s0 s) (hp : Sub 0x189c0006 m) (a1 a2) : Ends m s0 (execPacketIngress a1 a2 s) := by
  unfold execPacketIngress
  repeat' first
    | with_reducible assumption | exact hp.trans rfl | with_reducible apply State.packetIngress_keeps | with_reducible apply Ends.next

theorem State.setBuf_keeps {m : Nat} {s0 s : State} (h : Keeps m s0 s) (hp : Sub 0x80000 m) (a1) : Keeps m s0 (State.setBuf s a1) := by
  unfold State.setBuf
  repeat' first
    | with_reducible assumption | intro _
    | (extract_lets +onlyGivenNames x; refine Keeps.seq (m := m) (s0 := s0) x ?_ ?_; rotate_left; clear_value x; revert x; intro _ _; rotate_left; unfold x; clear x)
    | (extract_lets +onlyGivenNames x; revert x; intro _) | with_reducible refine Keeps.sw (by assumption) (Sub.bit 19 rfl hp)

theorem State.putStored_keeps {m : Nat} {s0 s : State} (h : Keeps m s0 s) (hp : Sub 0x80000 m) (a1) : Keeps m s0 (State.putStored s a1) := by
  unfold State.putStored
  repeat' first | with_reducible assumption | exact hp.trans rfl | with_reducible apply State.setBuf_keeps | split

theorem State.delStored_keeps {m : Nat} {s0 s : State} (h : Keeps m s0 s) (hp : Sub 0x80000 m) (a1) : Keeps m s0 (State.delStored s a1) := by
  unfold State.delStored
  repeat' first | with_reducible assumption | exact hp.trans rfl | with_reducible apply State.setBuf_keeps

theorem State.admitHead_keeps {m : Nat} {s0 s : State} (h : Keeps m s0 s) (hp : Sub 0x189c0006 m) (a1 a2) : Keeps m s0 (State.admitHead s a1 a2) := by
  unfold State.admitHead
  repeat' first
    | with_reducible assumption | exact hp.trans rfl | intro _
    | (extract_lets +onlyGivenNames x; refine Keeps.seq (m := m) (s0 := s0) x ?_ ?_; rotate_left; clear_value x; revert x; intro _ _; rotate_left; unfold x; clear x)
    | (extract_lets +onlyGivenNames x; refine Keeps.seq (m := m) (s0 := s0) x.1 ?_ ?_; rotate_left; clear_value x; revert x; intro _ _; rotate_left; unfold x; clear x)
    | (extract_lets +onlyGivenNames x; revert x; intro _) | with_reducible apply State.ageDiscard_keeps
    | with_reducible apply State.freeFlits_keeps | with_reducible apply State.delStored_keeps | with_reducible apply State.count_keeps
    | with_reducible apply State.contractTest_keeps | with_reducible apply State.putStored_keeps | split | (clear_value *; split)
    | with_reducible refine Keeps.of_fst (by assumption) ?_

theorem execCellAdmit_keeps {m : Nat} {s0 s : State} (h : Keeps m s0 s) (hp : Sub 0x189c0006 m) (a1 a2) : Ends m s0 (execCellAdmit a1 a2 s) := by
  unfold execCellAdmit
  repeat' first
    | with_reducible assumption | exact hp.trans rfl | with_reducible apply State.admitHead_keeps | with_reducible apply Ends.next

theorem State.testHeads_keeps {m : Nat} {s0 s : State} (h : Keeps m s0 s) (hp : Sub 0x189c0006 m) : Keeps m s0 (State.testHeads s) := by
  unfold State.testHeads
  repeat' first
    | with_reducible assumption | exact hp.trans rfl | intro _ | with_reducible apply State.admitHead_keeps
    | with_reducible apply Keeps.foldl | with_reducible apply Keeps.foldl_fst | split

theorem State.meterRefill_keeps {m : Nat} {s0 s : State} (h : Keeps m s0 s) (hp : Sub 0x189c0006 m) : Keeps m s0 (State.meterRefill s) := by
  unfold State.meterRefill
  repeat' first
    | with_reducible assumption | exact hp.trans rfl | with_reducible apply State.testHeads_keeps
    | with_reducible apply State.refillMeters_keeps

theorem execMeterRefill_keeps {m : Nat} {s0 s : State} (h : Keeps m s0 s) (hp : Sub 0x189c0006 m) : Ends m s0 (execMeterRefill s) := by
  unfold execMeterRefill
  repeat' first
    | with_reducible assumption | exact hp.trans rfl | with_reducible apply State.meterRefill_keeps | with_reducible apply Ends.next

theorem State.gradesMeasured_keeps {m : Nat} {s0 s : State} (h : Keeps m s0 s) (hp : Sub 0x189c0006 m) : Keeps m s0 (State.gradesMeasured s) := by
  unfold State.gradesMeasured
  repeat' first
    | with_reducible assumption | exact hp.trans rfl | with_reducible apply State.gradeUpdate_keeps
    | with_reducible apply State.testHeads_keeps | split

theorem execGradeUpdate_keeps {m : Nat} {s0 s : State} (h : Keeps m s0 s) (hp : Sub 0x189c0006 m) : Ends m s0 (execGradeUpdate s) := by
  unfold execGradeUpdate
  repeat' first
    | with_reducible assumption | exact hp.trans rfl | with_reducible apply State.gradesMeasured_keeps | with_reducible apply Ends.next

theorem State.setEth_keeps {m : Nat} {s0 s : State} (h : Keeps m s0 s) (hp : Sub 0x200000 m) (a1 a2) : Keeps m s0 (State.setEth s a1 a2) := by
  unfold State.setEth
  repeat' first
    | with_reducible assumption | intro _
    | (extract_lets +onlyGivenNames x; refine Keeps.seq (m := m) (s0 := s0) x ?_ ?_; rotate_left; clear_value x; revert x; intro _ _; rotate_left; unfold x; clear x)
    | (extract_lets +onlyGivenNames x; revert x; intro _) | with_reducible refine Keeps.roce (by assumption) (Sub.bit 21 rfl hp)

theorem State.frameSent_keeps {m : Nat} {s0 s : State} (h : Keeps m s0 s) (hp : Sub 0x200002 m) (a1 a2) : Keeps m s0 (State.frameSent s a1 a2) := by
  unfold State.frameSent
  repeat' first
    | with_reducible assumption | exact hp.trans rfl | intro _
    | (extract_lets +onlyGivenNames x; refine Keeps.seq (m := m) (s0 := s0) x ?_ ?_; rotate_left; clear_value x; revert x; intro _ _; rotate_left; unfold x; clear x)
    | (extract_lets +onlyGivenNames x; revert x; intro _) | with_reducible apply State.setEth_keeps
    | with_reducible apply State.setBit_keeps | split | (clear_value *; split)

theorem State.frameCell_keeps {m : Nat} {s0 s : State} (h : Keeps m s0 s) (hp : Sub 0x380006 m) (a1 a2 a3) : Keeps m s0 (State.frameCell s a1 a2 a3) := by
  unfold State.frameCell
  repeat' first
    | with_reducible assumption | exact hp.trans rfl | intro _
    | (extract_lets +onlyGivenNames x; refine Keeps.seq (m := m) (s0 := s0) x ?_ ?_; rotate_left; clear_value x; revert x; intro _ _; rotate_left; unfold x; clear x)
    | (extract_lets +onlyGivenNames x; revert x; intro _) | with_reducible apply State.tick_keeps | with_reducible apply State.count_keeps
    | with_reducible apply State.shaperTake_keeps | with_reducible apply State.putStored_keeps | with_reducible apply State.frameSent_keeps
    | with_reducible apply State.delStored_keeps | split | (clear_value *; split)
    | with_reducible refine Keeps.sw (by assumption) (Sub.bit 19 rfl hp)

theorem State.packetCell_keeps {m : Nat} {s0 s : State} (h : Keeps m s0 s) (hp : Sub 0xc0006 m) (a1 a2) : Keeps m s0 (State.packetCell s a1 a2) := by
  unfold State.packetCell
  repeat' first
    | with_reducible assumption | exact hp.trans rfl | intro _
    | (extract_lets +onlyGivenNames x; refine Keeps.seq (m := m) (s0 := s0) x ?_ ?_; rotate_left; clear_value x; revert x; intro _ _; rotate_left; unfold x; clear x)
    | (extract_lets +onlyGivenNames x; revert x; intro _) | with_reducible apply State.tick_keeps | with_reducible apply State.setLink_keeps
    | with_reducible apply State.count_keeps | with_reducible apply State.delStored_keeps | with_reducible apply State.putStored_keeps
    | split | (clear_value *; split) | with_reducible refine Keeps.sw (by assumption) (Sub.bit 19 rfl hp)

theorem State.sendCell_keeps {m : Nat} {s0 s : State} (h : Keeps m s0 s) (hp : Sub 0x3c0006 m) (a1 a2) : Keeps m s0 (State.sendCell s a1 a2) := by
  unfold State.sendCell
  repeat' first
    | with_reducible assumption | exact hp.trans rfl | with_reducible apply State.frameCell_keeps
    | with_reducible apply State.packetCell_keeps | split

theorem State.serveAll_keeps {m : Nat} {s0 s : State} (h : Keeps m s0 s) (hp : Sub 0x3c0006 m) (a1 a2) : Keeps m s0 (State.serveAll s a1 a2) := by
  induction a2 generalizing s a1 with
  | nil =>
    unfold State.serveAll
    repeat' first
      | with_reducible assumption | exact hp.trans rfl | intro _
      | (extract_lets +onlyGivenNames x; refine Keeps.seq (m := m) (s0 := s0) x ?_ ?_; rotate_left; clear_value x; revert x; intro _ _; rotate_left; unfold x; clear x)
      | (extract_lets +onlyGivenNames x; revert x; intro _) | with_reducible apply State.count_keeps
      | with_reducible apply State.sendCell_keeps | split | (clear_value *; split)
  | cons _ _ ih =>
    unfold State.serveAll
    repeat' first
      | with_reducible assumption | with_reducible apply ih | exact hp.trans rfl | intro _
      | (extract_lets +onlyGivenNames x; refine Keeps.seq (m := m) (s0 := s0) x ?_ ?_; rotate_left; clear_value x; revert x; intro _ _; rotate_left; unfold x; clear x)
      | (extract_lets +onlyGivenNames x; revert x; intro _) | with_reducible apply State.count_keeps
      | with_reducible apply State.sendCell_keeps | split | (clear_value *; split)

theorem State.expire_keeps {m : Nat} {s0 s : State} (h : Keeps m s0 s) (hp : Sub 0x188c0006 m) (a1) : Keeps m s0 (State.expire s a1) := by
  unfold State.expire
  repeat' first
    | with_reducible assumption | exact hp.trans rfl | intro _
    | (extract_lets +onlyGivenNames x; refine Keeps.seq (m := m) (s0 := s0) x ?_ ?_; rotate_left; clear_value x; revert x; intro _ _; rotate_left; unfold x; clear x)
    | (extract_lets +onlyGivenNames x; revert x; intro _) | with_reducible apply State.freeFlits_keeps
    | with_reducible apply State.ageDiscard_keeps | with_reducible apply State.delStored_keeps | with_reducible apply State.putStored_keeps
    | split | (clear_value *; split)

theorem State.ageSweep_keeps {m : Nat} {s0 s : State} (h : Keeps m s0 s) (hp : Sub 0x188c0006 m) : Keeps m s0 (State.ageSweep s) := by
  unfold State.ageSweep
  repeat' first
    | with_reducible assumption | exact hp.trans rfl | intro _ | with_reducible apply State.expire_keeps | with_reducible apply Keeps.foldl
    | with_reducible apply Keeps.foldl_fst

theorem execAgeSweep_keeps {m : Nat} {s0 s : State} (h : Keeps m s0 s) (hp : Sub 0x188c0006 m) : Ends m s0 (execAgeSweep s) := by
  unfold execAgeSweep
  repeat' first
    | with_reducible assumption | exact hp.trans rfl | with_reducible apply State.ageSweep_keeps | with_reducible apply Ends.next

theorem State.coreCycles_keeps {m : Nat} {s0 s : State} (h : Keeps m s0 s) (hp : Sub 0x180000 m) (a1) : Keeps m s0 (State.coreCycles s a1) := by
  unfold State.coreCycles
  repeat' first
    | with_reducible assumption | exact hp.trans rfl | intro _
    | (extract_lets +onlyGivenNames x; refine Keeps.seq (m := m) (s0 := s0) x ?_ ?_; rotate_left; clear_value x; revert x; intro _ _; rotate_left; unfold x; clear x)
    | (extract_lets +onlyGivenNames x; revert x; intro _) | with_reducible apply State.gatesPass_keeps
    | with_reducible refine Keeps.sw (by assumption) (Sub.bit 19 rfl hp)

theorem State.fabricRound_keeps {m : Nat} {s0 s : State} (h : Keeps m s0 s) (hp : Sub 0x18bc0006 m) : Keeps m s0 (State.fabricRound s) := by
  unfold State.fabricRound
  repeat' first
    | with_reducible assumption | exact hp.trans rfl | intro _
    | (extract_lets +onlyGivenNames x; refine Keeps.seq (m := m) (s0 := s0) x ?_ ?_; rotate_left; clear_value x; revert x; intro _ _; rotate_left; unfold x; clear x)
    | (extract_lets +onlyGivenNames x; revert x; intro _) | with_reducible apply State.count_keeps | with_reducible apply State.tick_keeps
    | with_reducible apply State.ageSweep_keeps | with_reducible apply State.unstall_keeps | with_reducible apply State.coreCycles_keeps
    | with_reducible apply State.serveAll_keeps | with_reducible apply Keeps.foldl | with_reducible apply Keeps.foldl_fst | split
    | (clear_value *; split) | with_reducible refine Keeps.sw (by assumption) (Sub.bit 19 rfl hp)

theorem State.drn_keeps {m : Nat} {s0 s : State} (h : Keeps m s0 s) (hp : Sub 0x10080006 m) (a1) : Keeps m s0 (State.drn s a1) := by
  unfold State.drn
  repeat' first
    | with_reducible assumption | exact hp.trans rfl | with_reducible apply State.send_keeps | with_reducible apply State.route_keeps
    | with_reducible apply State.storeInner_keeps | split | (clear_value *; split) | with_reducible refine Keeps.of_fst (by assumption) ?_

theorem execDrn_keeps {m : Nat} {s0 s : State} (h : Keeps m s0 s) (hp : Sub 0x10080006 m) (a1) : Ends m s0 (execDrn a1 s) := by
  unfold execDrn
  repeat' first | with_reducible assumption | exact hp.trans rfl | with_reducible apply State.drn_keeps | with_reducible apply Ends.next

end Sys2Proof.Machine
end

