-- ==== Sys2Proof/Laws/KeepsPortDown.lean ====
section
/-!
SUPPORT. The operations of Machine/PortDown.lean leave the queue of waiting commands alone and keep the canonical form.
-/
namespace Sys2Proof.Machine

set_option linter.all false

theorem State.laserLines_keeps {m : Nat} {s0 s : State} (h : Keeps m s0 s) (hp : Sub 0x8000000 m) : Keeps m s0 (State.laserLines s) := by
  unfold State.laserLines
  repeat' first
    | with_reducible assumption | intro _
    | (extract_lets +onlyGivenNames x; refine Keeps.seq (m := m) (s0 := s0) x ?_ ?_; rotate_left; clear_value x; revert x; intro _ _; rotate_left; unfold x; clear x)
    | (extract_lets +onlyGivenNames x; revert x; intro _) | with_reducible apply Keeps.foldl | with_reducible apply Keeps.foldl_fst
    | with_reducible refine Keeps.mgmt (by assumption) (Sub.bit 27 rfl hp)

theorem State.setPortState_keeps {m : Nat} {s0 s : State} (h : Keeps m s0 s) (hp : Sub 0x8000002 m) (a1 a2) : Keeps m s0 (State.setPortState s a1 a2) := by
  unfold State.setPortState
  repeat' first
    | with_reducible assumption | exact hp.trans rfl | with_reducible apply State.laserLines_keeps | with_reducible apply State.setFld_keeps

theorem State.setPortStep_keeps {m : Nat} {s0 s : State} (h : Keeps m s0 s) (hp : Sub 0x2 m) (a1 a2) : Keeps m s0 (State.setPortStep s a1 a2) := by
  unfold State.setPortStep
  repeat' first | with_reducible assumption | exact hp.trans rfl | with_reducible apply State.setFld_keeps

theorem State.setPortCause_keeps {m : Nat} {s0 s : State} (h : Keeps m s0 s) (hp : Sub 0x2 m) (a1 a2) : Keeps m s0 (State.setPortCause s a1 a2) := by
  unfold State.setPortCause
  repeat' first | with_reducible assumption | exact hp.trans rfl | with_reducible apply State.setFld_keeps

theorem State.linkNote_keeps {m : Nat} {s0 s : State} (h : Keeps m s0 s) (hp : Sub 0x8800006 m) (a1 a2 a3 a4) : Keeps m s0 (State.linkNote s a1 a2 a3 a4) := by
  unfold State.linkNote
  repeat' first | with_reducible assumption | exact hp.trans rfl | with_reducible apply State.record_keeps | split

theorem State.lockPolicy_keeps {m : Nat} {s0 s : State} (h : Keeps m s0 s) (hp : Sub 0x4000000 m) (a1) : Keeps m s0 (State.lockPolicy s a1) := by
  unfold State.lockPolicy
  repeat' first
    | with_reducible assumption | intro _
    | (extract_lets +onlyGivenNames x; refine Keeps.seq (m := m) (s0 := s0) x ?_ ?_; rotate_left; clear_value x; revert x; intro _ _; rotate_left; unfold x; clear x)
    | (extract_lets +onlyGivenNames x; revert x; intro _) | with_reducible refine Keeps.boot (by assumption) (Sub.bit 26 rfl hp)

theorem State.beginLevelling_keeps {m : Nat} {s0 s : State} (h : Keeps m s0 s) (hp : Sub 0x8040002 m) (a1) : Keeps m s0 (State.beginLevelling s a1) := by
  unfold State.beginLevelling
  repeat' first
    | with_reducible assumption | exact hp.trans rfl | intro _
    | (extract_lets +onlyGivenNames x; refine Keeps.seq (m := m) (s0 := s0) x ?_ ?_; rotate_left; clear_value x; revert x; intro _ _; rotate_left; unfold x; clear x)
    | (extract_lets +onlyGivenNames x; revert x; intro _) | with_reducible apply State.count_keeps
    | with_reducible apply State.setPortStep_keeps | with_reducible apply State.setPortState_keeps
    | with_reducible apply State.setLink_keeps | with_reducible apply State.setReg_keeps

theorem State.startLevelling_keeps {m : Nat} {s0 s : State} (h : Keeps m s0 s) (hp : Sub 0xc840006 m) (a1) : Keeps m s0 (State.startLevelling s a1) := by
  unfold State.startLevelling
  repeat' first
    | with_reducible assumption | exact hp.trans rfl | intro _
    | (extract_lets +onlyGivenNames x; refine Keeps.seq (m := m) (s0 := s0) x ?_ ?_; rotate_left; clear_value x; revert x; intro _ _; rotate_left; unfold x; clear x)
    | (extract_lets +onlyGivenNames x; revert x; intro _) | with_reducible apply State.record_keeps
    | with_reducible apply State.setPortState_keeps | with_reducible apply State.tick_keeps | with_reducible apply State.lockPolicy_keeps
    | with_reducible apply State.beginLevelling_keeps | with_reducible apply State.setPortCause_keeps
    | with_reducible apply State.note_keeps | split | (clear_value *; split)

theorem State.rerouteOne_keeps {m : Nat} {s0 s : State} (h : Keeps m s0 s) (hp : Sub 0x18880006 m) (a1 a2) : Keeps m s0 (State.rerouteOne s a1 a2) := by
  unfold State.rerouteOne
  repeat' first
    | with_reducible assumption | exact hp.trans rfl | intro _ | with_reducible apply hF
    | (extract_lets +onlyGivenNames x; refine Keeps.seq (m := m) (s0 := s0) x ?_ ?_; rotate_left; clear_value x; revert x; intro _ _; rotate_left; unfold x; clear x)
    | (extract_lets +onlyGivenNames x; refine Keeps.seq (m := m) (s0 := s0) x.1 ?_ ?_; rotate_left; clear_value x; revert x; intro _ _; rotate_left; unfold x; clear x)
    | (extract_lets +onlyGivenNames x; refine Keeps.seqF (m := m) (s0 := s0) x ?_ ?_; rotate_left; clear_value x; revert x; intro _ hF; rotate_left; unfold x; clear x)
    | (extract_lets +onlyGivenNames x; refine Keeps.seqG (m := m) (s0 := s0) x ?_ ?_; rotate_left; clear_value x; revert x; intro _ hF; rotate_left; unfold x; clear x)
    | (extract_lets +onlyGivenNames x; refine Keeps.seqH (m := m) (s0 := s0) x ?_ ?_; rotate_left; clear_value x; revert x; intro _ hF; rotate_left; unfold x; clear x)
    | (extract_lets +onlyGivenNames x; revert x; intro _) | with_reducible apply State.delStored_keeps
    | with_reducible apply State.putStored_keeps | with_reducible apply State.route_keeps | with_reducible apply State.noRoute_keeps
    | with_reducible apply State.tick_keeps | split | (clear_value *; split) | with_reducible refine Keeps.of_fst (by assumption) ?_

theorem State.rerouteBuf_keeps {m : Nat} {s0 s : State} (h : Keeps m s0 s) (hp : Sub 0x18880006 m) (a1) : Keeps m s0 (State.rerouteBuf s a1) := by
  unfold State.rerouteBuf
  repeat' first
    | with_reducible assumption | exact hp.trans rfl | intro _ | with_reducible apply State.rerouteOne_keeps
    | with_reducible apply Keeps.foldl | with_reducible apply Keeps.foldl_fst

theorem State.returnQueued_keeps {m : Nat} {s0 s : State} (h : Keeps m s0 s) (hp : Sub 0x18880006 m) (a1 a2) : Keeps m s0 (State.returnQueued s a1 a2) := by
  unfold State.returnQueued
  repeat' first
    | with_reducible assumption | exact hp.trans rfl | intro _ | with_reducible apply State.route_keeps
    | with_reducible apply State.store_keeps | with_reducible apply State.noRoute_keeps | with_reducible apply State.tick_keeps
    | with_reducible apply Keeps.foldl | with_reducible apply Keeps.foldl_fst | split | (clear_value *; split)
    | with_reducible refine Keeps.of_fst (by assumption) ?_

theorem State.reportLost_keeps {m : Nat} {s0 s : State} (h : Keeps m s0 s) (hp : Sub 0x10000002 m) (a1 a2) : Keeps m s0 (State.reportLost s a1 a2) := by
  unfold State.reportLost
  repeat' first
    | with_reducible assumption | exact hp.trans rfl | intro _
    | (extract_lets +onlyGivenNames x; refine Keeps.seq (m := m) (s0 := s0) x ?_ ?_; rotate_left; clear_value x; revert x; intro _ _; rotate_left; unfold x; clear x)
    | (extract_lets +onlyGivenNames x; revert x; intro _) | with_reducible apply State.count_keeps
    | with_reducible apply State.complete_keeps | split | (clear_value *; split)

theorem State.completeDue_keeps {m : Nat} {s0 s : State} (h : Keeps m s0 s) (hp : Sub 0x10800002 m) (a1) : Keeps m s0 (State.completeDue s a1) := by
  unfold State.completeDue
  repeat' first
    | with_reducible assumption | exact hp.trans rfl | intro _
    | (extract_lets +onlyGivenNames x; refine Keeps.seq (m := m) (s0 := s0) x ?_ ?_; rotate_left; clear_value x; revert x; intro _ _; rotate_left; unfold x; clear x)
    | (extract_lets +onlyGivenNames x; revert x; intro _) | with_reducible apply State.complete_keeps | with_reducible apply Keeps.foldl
    | with_reducible apply Keeps.foldl_fst | split | (clear_value *; split)
    | with_reducible refine Keeps.recov (by assumption) (Sub.bit 23 rfl hp)

theorem State.dropDrains_keeps {m : Nat} {s0 s : State} (h : Keeps m s0 s) (hp : Sub 0x10800202 m) (a1) : Keeps m s0 (State.dropDrains s a1) := by
  unfold State.dropDrains
  repeat' first
    | with_reducible assumption | exact hp.trans rfl | intro _
    | (extract_lets +onlyGivenNames x; refine Keeps.seq (m := m) (s0 := s0) x ?_ ?_; rotate_left; clear_value x; revert x; intro _ _; rotate_left; unfold x; clear x)
    | (extract_lets +onlyGivenNames x; revert x; intro _) | with_reducible apply State.completeDue_keeps
    | with_reducible apply State.setPath_keeps | with_reducible apply Keeps.foldl | with_reducible apply Keeps.foldl_fst

theorem State.sendLsr_keeps {m : Nat} {s0 s : State} (h : Keeps m s0 s) (hp : Sub 0x10000000 m) (a1) : Keeps m s0 (State.sendLsr s a1) := by
  unfold State.sendLsr
  repeat' first
    | with_reducible assumption | exact hp.trans rfl | intro _
    | (extract_lets +onlyGivenNames x; refine Keeps.seq (m := m) (s0 := s0) x ?_ ?_; rotate_left; clear_value x; revert x; intro _ _; rotate_left; unfold x; clear x)
    | (extract_lets +onlyGivenNames x; revert x; intro _) | with_reducible apply State.send_keeps | split | (clear_value *; split)

theorem State.lsr_keeps {m : Nat} {s0 s : State} (h : Keeps m s0 s) (hp : Sub 0x10840202 m) (a1) : Keeps m s0 (State.lsr s a1) := by
  unfold State.lsr
  repeat' first
    | with_reducible assumption | exact hp.trans rfl | intro _
    | (extract_lets +onlyGivenNames x; refine Keeps.seq (m := m) (s0 := s0) x ?_ ?_; rotate_left; clear_value x; revert x; intro _ _; rotate_left; unfold x; clear x)
    | (extract_lets +onlyGivenNames x; revert x; intro _) | with_reducible apply State.setLink_keeps
    | with_reducible apply State.dropDrains_keeps | with_reducible apply State.reportLost_keeps | with_reducible apply Keeps.foldl
    | with_reducible apply Keeps.foldl_fst | split | (clear_value *; split)

theorem execLsr_keeps {m : Nat} {s0 s : State} (h : Keeps m s0 s) (hp : Sub 0x10840202 m) (a1) : Ends m s0 (execLsr a1 s) := by
  unfold execLsr
  repeat' first | with_reducible assumption | exact hp.trans rfl | with_reducible apply State.lsr_keeps | with_reducible apply Ends.next

theorem State.unprovenTimeout_keeps {m : Nat} {s0 s : State} (h : Keeps m s0 s) (hp : Sub 0x10840202 m) (a1) : Keeps m s0 (State.unprovenTimeout s a1) := by
  unfold State.unprovenTimeout
  repeat' first
    | with_reducible assumption | exact hp.trans rfl | intro _
    | (extract_lets +onlyGivenNames x; refine Keeps.seq (m := m) (s0 := s0) x ?_ ?_; rotate_left; clear_value x; revert x; intro _ _; rotate_left; unfold x; clear x)
    | (extract_lets +onlyGivenNames x; revert x; intro _) | with_reducible apply State.dropDrains_keeps
    | with_reducible apply State.reportLost_keeps | with_reducible apply State.setLink_keeps | with_reducible apply Keeps.foldl
    | with_reducible apply Keeps.foldl_fst

theorem execUnprovenLossTimeout_keeps {m : Nat} {s0 s : State} (h : Keeps m s0 s) (hp : Sub 0x10840202 m) (a1) : Ends m s0 (execUnprovenLossTimeout a1 s) := by
  unfold execUnprovenLossTimeout
  repeat' first
    | with_reducible assumption | exact hp.trans rfl | with_reducible apply State.unprovenTimeout_keeps | with_reducible apply Ends.next

theorem State.gridDown_keeps {m : Nat} {s0 s : State} (h : Keeps m s0 s) (hp : Sub 0x18cc0206 m) (a1 a2) : Keeps m s0 (State.gridDown s a1 a2) := by
  unfold State.gridDown
  repeat' first
    | with_reducible assumption | exact hp.trans rfl | intro _
    | (extract_lets +onlyGivenNames x; refine Keeps.seq (m := m) (s0 := s0) x ?_ ?_; rotate_left; clear_value x; revert x; intro _ _; rotate_left; unfold x; clear x)
    | (extract_lets +onlyGivenNames x; revert x; intro _) | with_reducible apply State.setLink_keeps
    | with_reducible apply State.rerouteBuf_keeps | with_reducible apply State.sendLsr_keeps | with_reducible apply State.returnQueued_keeps
    | with_reducible apply State.bumpEpoch_keeps | with_reducible apply State.routesLost_keeps | with_reducible apply State.dropDrains_keeps
    | with_reducible apply Keeps.foldl | with_reducible apply Keeps.foldl_fst | split | (clear_value *; split)

theorem State.accelDown_keeps {m : Nat} {s0 s : State} (h : Keeps m s0 s) (hp : Sub 0x188d1596 m) (a1) : Keeps m s0 (State.accelDown s a1) := by
  unfold State.accelDown
  repeat' first
    | with_reducible assumption | exact hp.trans rfl | intro _
    | (extract_lets +onlyGivenNames x; refine Keeps.seq (m := m) (s0 := s0) x ?_ ?_; rotate_left; clear_value x; revert x; intro _ _; rotate_left; unfold x; clear x)
    | (extract_lets +onlyGivenNames x; revert x; intro _) | with_reducible apply State.rerouteBuf_keeps
    | with_reducible apply State.setLink_keeps | with_reducible apply State.agentDead_keeps | split | (clear_value *; split)
    | with_reducible refine Keeps.recov (by assumption) (Sub.bit 23 rfl hp)

theorem State.moduleDown_keeps {m : Nat} {s0 s : State} (h : Keeps m s0 s) (hp : Sub 0x198d949e m) (a1) : Keeps m s0 (State.moduleDown s a1) := by
  unfold State.moduleDown
  repeat' first
    | with_reducible assumption | exact hp.trans rfl | intro _
    | (extract_lets +onlyGivenNames x; refine Keeps.seq (m := m) (s0 := s0) x ?_ ?_; rotate_left; clear_value x; revert x; intro _ _; rotate_left; unfold x; clear x)
    | (extract_lets +onlyGivenNames x; revert x; intro _) | with_reducible apply State.rerouteBuf_keeps
    | with_reducible apply State.setLink_keeps | with_reducible apply State.setBit_keeps | with_reducible apply State.pnmModuleLost_keeps
    | with_reducible apply State.dropSlotFrames_keeps | with_reducible apply State.loseSlot_keeps

theorem State.setQp_keeps {m : Nat} {s0 s : State} (h : Keeps m s0 s) (hp : Sub 0x200000 m) (a1 a2) : Keeps m s0 (State.setQp s a1 a2) := by
  unfold State.setQp
  repeat' first
    | with_reducible assumption | intro _
    | (extract_lets +onlyGivenNames x; refine Keeps.seq (m := m) (s0 := s0) x ?_ ?_; rotate_left; clear_value x; revert x; intro _ _; rotate_left; unfold x; clear x)
    | (extract_lets +onlyGivenNames x; revert x; intro _) | with_reducible refine Keeps.roce (by assumption) (Sub.bit 21 rfl hp)

theorem State.setMr_keeps {m : Nat} {s0 s : State} (h : Keeps m s0 s) (hp : Sub 0x200000 m) (a1 a2) : Keeps m s0 (State.setMr s a1 a2) := by
  unfold State.setMr
  repeat' first
    | with_reducible assumption | intro _
    | (extract_lets +onlyGivenNames x; refine Keeps.seq (m := m) (s0 := s0) x ?_ ?_; rotate_left; clear_value x; revert x; intro _ _; rotate_left; unfold x; clear x)
    | (extract_lets +onlyGivenNames x; revert x; intro _) | with_reducible refine Keeps.roce (by assumption) (Sub.bit 21 rfl hp)

theorem State.mrFree_keeps {m : Nat} {s0 s : State} (h : Keeps m s0 s) (hp : Sub 0x200006 m) (a1) : Keeps m s0 (State.mrFree s a1) := by
  unfold State.mrFree
  repeat' first
    | with_reducible assumption | exact hp.trans rfl | intro _
    | (extract_lets +onlyGivenNames x; refine Keeps.seq (m := m) (s0 := s0) x ?_ ?_; rotate_left; clear_value x; revert x; intro _ _; rotate_left; unfold x; clear x)
    | (extract_lets +onlyGivenNames x; revert x; intro _) | with_reducible apply State.setMr_keeps | with_reducible apply State.tick_keeps
    | with_reducible apply State.setBit_keeps | split | (clear_value *; split)

theorem State.mrSettle_keeps {m : Nat} {s0 s : State} (h : Keeps m s0 s) (hp : Sub 0x200006 m) (a1) : Keeps m s0 (State.mrSettle s a1) := by
  unfold State.mrSettle
  repeat' first | with_reducible assumption | exact hp.trans rfl | with_reducible apply State.mrFree_keeps | split

theorem State.ethLost_keeps {m : Nat} {s0 s : State} (h : Keeps m s0 s) (hp : Sub 0x18ac0006 m) (a1) : Keeps m s0 (State.ethLost s a1) := by
  unfold State.ethLost
  repeat' first
    | with_reducible assumption | exact hp.trans rfl | intro _
    | (extract_lets +onlyGivenNames x; refine Keeps.seq (m := m) (s0 := s0) x ?_ ?_; rotate_left; clear_value x; revert x; intro _ _; rotate_left; unfold x; clear x)
    | (extract_lets +onlyGivenNames x; revert x; intro _) | with_reducible apply State.rerouteBuf_keeps
    | with_reducible apply State.setLink_keeps | with_reducible apply State.setEth_keeps | with_reducible apply State.mrSettle_keeps
    | with_reducible apply Keeps.foldl | with_reducible apply Keeps.foldl_fst | split | (clear_value *; split)
    | with_reducible refine Keeps.sw (by assumption) (Sub.bit 19 rfl hp)
    | with_reducible refine Keeps.roce (by assumption) (Sub.bit 21 rfl hp)

theorem State.filardSet_keeps {m : Nat} {s0 s : State} (h : Keeps m s0 s) (hp : Sub 0x8000002 m) (a1 a2) : Keeps m s0 (State.filardSet s a1 a2) := by
  unfold State.filardSet
  repeat' first
    | with_reducible assumption | exact hp.trans rfl | with_reducible apply State.ibi_keeps | with_reducible apply State.setBit_keeps
    | split

theorem State.portGoesDown_keeps {m : Nat} {s0 s : State} (h : Keeps m s0 s) (hp : Sub 0x19ed979e m) (a1 a2) : Keeps m s0 (State.portGoesDown s a1 a2) := by
  unfold State.portGoesDown
  repeat' first
    | with_reducible assumption | exact hp.trans rfl | intro _
    | (extract_lets +onlyGivenNames x; refine Keeps.seq (m := m) (s0 := s0) x ?_ ?_; rotate_left; clear_value x; revert x; intro _ _; rotate_left; unfold x; clear x)
    | (extract_lets +onlyGivenNames x; revert x; intro _) | with_reducible apply State.filardSet_keeps
    | with_reducible apply State.linkNote_keeps | with_reducible apply State.setPortCause_keeps | with_reducible apply State.setFld_keeps
    | with_reducible apply State.setPortState_keeps | with_reducible apply State.setBit_keeps | with_reducible apply State.setLink_keeps
    | with_reducible apply State.gridDown_keeps | with_reducible apply State.accelDown_keeps | with_reducible apply State.moduleDown_keeps
    | with_reducible apply State.ethLost_keeps | with_reducible apply State.beginLevelling_keeps | split | (clear_value *; split)

theorem execPortDown_keeps {m : Nat} {s0 s : State} (h : Keeps m s0 s) (hp : Sub 0x19ed979e m) (a1 a2) : Ends m s0 (execPortDown a1 a2 s) := by
  unfold execPortDown
  repeat' first
    | with_reducible assumption | exact hp.trans rfl | with_reducible apply State.portGoesDown_keeps | with_reducible apply Ends.next

theorem execLinkIdleTimeout_keeps {m : Nat} {s0 s : State} (h : Keeps m s0 s) (hp : Sub 0x19ed979e m) (a1) : Ends m s0 (execLinkIdleTimeout a1 s) := by
  unfold execLinkIdleTimeout
  repeat' first
    | with_reducible assumption | exact hp.trans rfl | intro _ | with_reducible apply State.onlyIf_keeps
    | with_reducible apply State.portGoesDown_keeps | with_reducible apply Ends.next

theorem State.pnaTimeout_keeps {m : Nat} {s0 s : State} (h : Keeps m s0 s) (hp : Sub 0x19ed979e m) (a1 a2) : Keeps m s0 (State.pnaTimeout s a1 a2) := by
  unfold State.pnaTimeout
  repeat' first | with_reducible assumption | exact hp.trans rfl | with_reducible apply State.portGoesDown_keeps | split

theorem execPnaTimeout_keeps {m : Nat} {s0 s : State} (h : Keeps m s0 s) (hp : Sub 0x19ed979e m) (a1 a2) : Ends m s0 (execPnaTimeout a1 a2 s) := by
  unfold execPnaTimeout
  repeat' first
    | with_reducible assumption | exact hp.trans rfl | with_reducible apply State.pnaTimeout_keeps | with_reducible apply Ends.next

end Sys2Proof.Machine
end

