-- ==== Sys2Proof/Laws/KeepsKex.lean ====
section
/-!
SUPPORT. The operations of Machine/Kex.lean leave the queue of waiting commands alone and keep the canonical form.
-/
namespace Sys2Proof.Machine

set_option linter.all false

theorem State.queueLocal_keeps {m : Nat} {s0 s : State} (h : Keeps m s0 s) (hp : Sub 0x40000 m) (a1 a2 a3) : Keeps m s0 (State.queueLocal s a1 a2 a3) := by
  unfold State.queueLocal
  repeat' first
    | with_reducible assumption | exact hp.trans rfl | intro _
    | (extract_lets +onlyGivenNames x; refine Keeps.seq (m := m) (s0 := s0) x ?_ ?_; rotate_left; clear_value x; revert x; intro _ _; rotate_left; unfold x; clear x)
    | (extract_lets +onlyGivenNames x; revert x; intro _) | with_reducible apply State.setLink_keeps

theorem State.setKex_keeps {m : Nat} {s0 s : State} (h : Keeps m s0 s) (hp : Sub 0x40000 m) (a1 a2) : Keeps m s0 (State.setKex s a1 a2) := by
  unfold State.setKex
  repeat' first
    | with_reducible assumption | exact hp.trans rfl | intro _
    | (extract_lets +onlyGivenNames x; refine Keeps.seq (m := m) (s0 := s0) x ?_ ?_; rotate_left; clear_value x; revert x; intro _ _; rotate_left; unfold x; clear x)
    | (extract_lets +onlyGivenNames x; revert x; intro _) | with_reducible apply State.setLink_keeps

theorem State.sendKex_keeps {m : Nat} {s0 s : State} (h : Keeps m s0 s) (hp : Sub 0x40000 m) (a1 a2) : Keeps m s0 (State.sendKex s a1 a2) := by
  unfold State.sendKex
  repeat' first
    | with_reducible assumption | exact hp.trans rfl | intro _
    | (extract_lets +onlyGivenNames x; refine Keeps.seq (m := m) (s0 := s0) x ?_ ?_; rotate_left; clear_value x; revert x; intro _ _; rotate_left; unfold x; clear x)
    | (extract_lets +onlyGivenNames x; revert x; intro _) | with_reducible apply State.setKex_keeps
    | with_reducible apply State.queueLocal_keeps | split | (clear_value *; split)

theorem State.draw_keeps {m : Nat} {s0 s : State} (h : Keeps m s0 s) (hp : Sub 0x1000000 m) : Keeps m s0 (State.draw s).2 := by
  unfold State.draw
  repeat' first
    | with_reducible assumption | intro _
    | (extract_lets +onlyGivenNames x; refine Keeps.seq (m := m) (s0 := s0) x ?_ ?_; rotate_left; clear_value x; revert x; intro _ _; rotate_left; unfold x; clear x)
    | (extract_lets +onlyGivenNames x; refine Keeps.seq (m := m) (s0 := s0) x.2 ?_ ?_; rotate_left; clear_value x; revert x; intro _ _; rotate_left; unfold x; clear x)
    | (extract_lets +onlyGivenNames x; revert x; intro _) | with_reducible refine Keeps.of_snd (by assumption) ?_
    | with_reducible refine Keeps.sec (by assumption) (Sub.bit 24 rfl hp)

theorem State.sendHello_keeps {m : Nat} {s0 s : State} (h : Keeps m s0 s) (hp : Sub 0x1040000 m) (a1) : Keeps m s0 (State.sendHello s a1) := by
  unfold State.sendHello
  repeat' first
    | with_reducible assumption | exact hp.trans rfl | intro _
    | (extract_lets +onlyGivenNames x; refine Keeps.seq (m := m) (s0 := s0) x ?_ ?_; rotate_left; clear_value x; revert x; intro _ _; rotate_left; unfold x; clear x)
    | (extract_lets +onlyGivenNames x; refine Keeps.seq (m := m) (s0 := s0) x.2 ?_ ?_; rotate_left; clear_value x; revert x; intro _ _; rotate_left; unfold x; clear x)
    | (extract_lets +onlyGivenNames x; revert x; intro _) | with_reducible apply State.draw_keeps | with_reducible apply State.sendKex_keeps
    | with_reducible refine Keeps.of_snd (by assumption) ?_

theorem State.sendCert_keeps {m : Nat} {s0 s : State} (h : Keeps m s0 s) (hp : Sub 0x40000 m) (a1) : Keeps m s0 (State.sendCert s a1) := by
  unfold State.sendCert
  repeat' first
    | with_reducible assumption | exact hp.trans rfl | intro _
    | (extract_lets +onlyGivenNames x; refine Keeps.seq (m := m) (s0 := s0) x ?_ ?_; rotate_left; clear_value x; revert x; intro _ _; rotate_left; unfold x; clear x)
    | (extract_lets +onlyGivenNames x; revert x; intro _) | with_reducible apply State.sendKex_keeps | with_reducible apply Keeps.foldl
    | with_reducible apply Keeps.foldl_fst

theorem State.kexFail_keeps {m : Nat} {s0 s : State} (h : Keeps m s0 s) (hp : Sub 0x19ed979e m) (a1) : Keeps m s0 (State.kexFail s a1) := by
  unfold State.kexFail
  repeat' first
    | with_reducible assumption | exact hp.trans rfl | with_reducible apply State.portGoesDown_keeps
    | with_reducible apply State.count_keeps | with_reducible apply State.setKex_keeps | with_reducible apply State.sendKex_keeps

theorem State.startKex_keeps {m : Nat} {s0 s : State} (h : Keeps m s0 s) (hp : Sub 0x19ed979e m) (a1) : Keeps m s0 (State.startKex s a1) := by
  unfold State.startKex
  repeat' first
    | with_reducible assumption | exact hp.trans rfl | intro _
    | (extract_lets +onlyGivenNames x; refine Keeps.seq (m := m) (s0 := s0) x ?_ ?_; rotate_left; clear_value x; revert x; intro _ _; rotate_left; unfold x; clear x)
    | (extract_lets +onlyGivenNames x; revert x; intro _) | with_reducible apply State.setKex_keeps
    | with_reducible apply State.kexFail_keeps | with_reducible apply State.sendHello_keeps | split | (clear_value *; split)

theorem State.sendKemkey_keeps {m : Nat} {s0 s : State} (h : Keeps m s0 s) (hp : Sub 0x1040000 m) (a1) : Keeps m s0 (State.sendKemkey s a1) := by
  unfold State.sendKemkey
  repeat' first
    | with_reducible assumption | exact hp.trans rfl | intro _
    | (extract_lets +onlyGivenNames x; refine Keeps.seq (m := m) (s0 := s0) x ?_ ?_; rotate_left; clear_value x; revert x; intro _ _; rotate_left; unfold x; clear x)
    | (extract_lets +onlyGivenNames x; refine Keeps.seq (m := m) (s0 := s0) x.2 ?_ ?_; rotate_left; clear_value x; revert x; intro _ _; rotate_left; unfold x; clear x)
    | (extract_lets +onlyGivenNames x; revert x; intro _) | with_reducible apply State.draw_keeps | with_reducible apply State.sendKex_keeps
    | with_reducible apply State.setKex_keeps | with_reducible refine Keeps.of_snd (by assumption) ?_

theorem State.kexDone_keeps {m : Nat} {s0 s : State} (h : Keeps m s0 s) (hp : Sub 0x40002 m) (a1) : Keeps m s0 (State.kexDone s a1) := by
  unfold State.kexDone
  repeat' first
    | with_reducible assumption | exact hp.trans rfl | intro _
    | (extract_lets +onlyGivenNames x; refine Keeps.seq (m := m) (s0 := s0) x ?_ ?_; rotate_left; clear_value x; revert x; intro _ _; rotate_left; unfold x; clear x)
    | (extract_lets +onlyGivenNames x; revert x; intro _) | with_reducible apply State.setLink_keeps
    | with_reducible apply State.setFld_keeps | with_reducible apply State.setBit_keeps | with_reducible apply State.count_keeps
    | with_reducible apply State.queueLocal_keeps | with_reducible apply State.setPortStep_keeps | split | (clear_value *; split)

theorem State.kexDerive_keeps {m : Nat} {s0 s : State} (h : Keeps m s0 s) (hp : Sub 0x40000 m) (a1 a2) : Keeps m s0 (State.kexDerive s a1 a2) := by
  unfold State.kexDerive
  repeat' first
    | with_reducible assumption | exact hp.trans rfl | intro _
    | (extract_lets +onlyGivenNames x; refine Keeps.seq (m := m) (s0 := s0) x ?_ ?_; rotate_left; clear_value x; revert x; intro _ _; rotate_left; unfold x; clear x)
    | (extract_lets +onlyGivenNames x; revert x; intro _) | with_reducible apply State.sendKex_keeps
    | with_reducible apply State.setKex_keeps

theorem State.kexHello_keeps {m : Nat} {s0 s : State} (h : Keeps m s0 s) (hp : Sub 0x19ed979e m) (a1 a2) : Keeps m s0 (State.kexHello s a1 a2) := by
  unfold State.kexHello
  repeat' first
    | with_reducible assumption | exact hp.trans rfl | intro _
    | (extract_lets +onlyGivenNames x; refine Keeps.seq (m := m) (s0 := s0) x ?_ ?_; rotate_left; clear_value x; revert x; intro _ _; rotate_left; unfold x; clear x)
    | (extract_lets +onlyGivenNames x; revert x; intro _) | with_reducible apply State.setKex_keeps
    | with_reducible apply State.kexFail_keeps | with_reducible apply State.sendCert_keeps | with_reducible apply State.sendHello_keeps
    | split | (clear_value *; split)

theorem execHello_keeps {m : Nat} {s0 s : State} (h : Keeps m s0 s) (hp : Sub 0x19ed979e m) (a1 a2) : Ends m s0 (execHello a1 a2 s) := by
  unfold execHello
  repeat' first
    | with_reducible assumption | exact hp.trans rfl | with_reducible apply State.kexHello_keeps | with_reducible apply Ends.next

theorem State.kexCert_keeps {m : Nat} {s0 s : State} (h : Keeps m s0 s) (hp : Sub 0x19ed979e m) (a1 a2) : Keeps m s0 (State.kexCert s a1 a2) := by
  unfold State.kexCert
  repeat' first
    | with_reducible assumption | exact hp.trans rfl | intro _
    | (extract_lets +onlyGivenNames x; refine Keeps.seq (m := m) (s0 := s0) x ?_ ?_; rotate_left; clear_value x; revert x; intro _ _; rotate_left; unfold x; clear x)
    | (extract_lets +onlyGivenNames x; revert x; intro _) | with_reducible apply State.kexFail_keeps
    | with_reducible apply State.setKex_keeps | with_reducible apply State.sendKemkey_keeps | with_reducible apply State.sendCert_keeps
    | split | (clear_value *; split)

theorem execCert_keeps {m : Nat} {s0 s : State} (h : Keeps m s0 s) (hp : Sub 0x19ed979e m) (a1 a2) : Ends m s0 (execCert a1 a2 s) := by
  unfold execCert
  repeat' first | with_reducible assumption | exact hp.trans rfl | with_reducible apply State.kexCert_keeps | with_reducible apply Ends.next

theorem State.kexOrRekey_keeps {m : Nat} {s0 s : State} (h : Keeps m s0 s) (hp : Sub 0x40000 m) (a1) : Keeps m s0 (State.kexOrRekey s a1) := by
  unfold State.kexOrRekey
  repeat' first
    | with_reducible assumption | exact hp.trans rfl | intro _
    | (extract_lets +onlyGivenNames x; refine Keeps.seq (m := m) (s0 := s0) x ?_ ?_; rotate_left; clear_value x; revert x; intro _ _; rotate_left; unfold x; clear x)
    | (extract_lets +onlyGivenNames x; revert x; intro _) | with_reducible apply State.setKex_keeps | split | (clear_value *; split)

theorem State.kexKemkey_keeps {m : Nat} {s0 s : State} (h : Keeps m s0 s) (hp : Sub 0x19ed979e m) (a1 a2) : Keeps m s0 (State.kexKemkey s a1 a2) := by
  unfold State.kexKemkey
  repeat' first
    | with_reducible assumption | exact hp.trans rfl | intro _
    | (extract_lets +onlyGivenNames x; refine Keeps.seq (m := m) (s0 := s0) x ?_ ?_; rotate_left; clear_value x; revert x; intro _ _; rotate_left; unfold x; clear x)
    | (extract_lets +onlyGivenNames x; refine Keeps.seq (m := m) (s0 := s0) x.2 ?_ ?_; rotate_left; clear_value x; revert x; intro _ _; rotate_left; unfold x; clear x)
    | (extract_lets +onlyGivenNames x; revert x; intro _) | with_reducible apply State.kexOrRekey_keeps
    | with_reducible apply State.kexFail_keeps | with_reducible apply State.setKex_keeps | with_reducible apply State.draw_keeps
    | with_reducible apply State.kexDerive_keeps | with_reducible apply State.sendKex_keeps | split | (clear_value *; split)
    | with_reducible refine Keeps.of_snd (by assumption) ?_

theorem execKemkey_keeps {m : Nat} {s0 s : State} (h : Keeps m s0 s) (hp : Sub 0x19ed979e m) (a1 a2) : Ends m s0 (execKemkey a1 a2 s) := by
  unfold execKemkey
  repeat' first
    | with_reducible assumption | exact hp.trans rfl | with_reducible apply State.kexKemkey_keeps | with_reducible apply Ends.next

theorem State.kexKemct_keeps {m : Nat} {s0 s : State} (h : Keeps m s0 s) (hp : Sub 0x19ed979e m) (a1 a2) : Keeps m s0 (State.kexKemct s a1 a2) := by
  unfold State.kexKemct
  repeat' first
    | with_reducible assumption | exact hp.trans rfl | intro _
    | (extract_lets +onlyGivenNames x; refine Keeps.seq (m := m) (s0 := s0) x ?_ ?_; rotate_left; clear_value x; revert x; intro _ _; rotate_left; unfold x; clear x)
    | (extract_lets +onlyGivenNames x; revert x; intro _) | with_reducible apply State.kexFail_keeps
    | with_reducible apply State.kexDerive_keeps | with_reducible apply State.setKex_keeps | split | (clear_value *; split)

theorem execKemct_keeps {m : Nat} {s0 s : State} (h : Keeps m s0 s) (hp : Sub 0x19ed979e m) (a1 a2) : Ends m s0 (execKemct a1 a2 s) := by
  unfold execKemct
  repeat' first
    | with_reducible assumption | exact hp.trans rfl | with_reducible apply State.kexKemct_keeps | with_reducible apply Ends.next

theorem State.kexFinish_keeps {m : Nat} {s0 s : State} (h : Keeps m s0 s) (hp : Sub 0x19ed979e m) (a1 a2) : Keeps m s0 (State.kexFinish s a1 a2) := by
  unfold State.kexFinish
  repeat' first
    | with_reducible assumption | exact hp.trans rfl | intro _
    | (extract_lets +onlyGivenNames x; refine Keeps.seq (m := m) (s0 := s0) x ?_ ?_; rotate_left; clear_value x; revert x; intro _ _; rotate_left; unfold x; clear x)
    | (extract_lets +onlyGivenNames x; revert x; intro _) | with_reducible apply State.kexFail_keeps
    | with_reducible apply State.kexDone_keeps | with_reducible apply State.setKex_keeps | split | (clear_value *; split)

theorem execFinish_keeps {m : Nat} {s0 s : State} (h : Keeps m s0 s) (hp : Sub 0x19ed979e m) (a1 a2) : Ends m s0 (execFinish a1 a2 s) := by
  unfold execFinish
  repeat' first
    | with_reducible assumption | exact hp.trans rfl | with_reducible apply State.kexFinish_keeps | with_reducible apply Ends.next

theorem State.kexAbort_keeps {m : Nat} {s0 s : State} (h : Keeps m s0 s) (hp : Sub 0x19ed979e m) (a1) : Keeps m s0 (State.kexAbort s a1) := by
  unfold State.kexAbort
  repeat' first
    | with_reducible assumption | exact hp.trans rfl | with_reducible apply State.portGoesDown_keeps
    | with_reducible apply State.count_keeps | with_reducible apply State.setKex_keeps | split

theorem execAbort_keeps {m : Nat} {s0 s : State} (h : Keeps m s0 s) (hp : Sub 0x19ed979e m) (a1 a2) : Ends m s0 (execAbort a1 a2 s) := by
  unfold execAbort
  repeat' first
    | with_reducible assumption | exact hp.trans rfl | with_reducible apply State.kexAbort_keeps | with_reducible apply Ends.next

theorem State.startRekey_keeps {m : Nat} {s0 s : State} (h : Keeps m s0 s) (hp : Sub 0x19ed979e m) (a1) : Keeps m s0 (State.startRekey s a1) := by
  unfold State.startRekey
  repeat' first
    | with_reducible assumption | exact hp.trans rfl | intro _
    | (extract_lets +onlyGivenNames x; refine Keeps.seq (m := m) (s0 := s0) x ?_ ?_; rotate_left; clear_value x; revert x; intro _ _; rotate_left; unfold x; clear x)
    | (extract_lets +onlyGivenNames x; revert x; intro _) | with_reducible apply State.kexFail_keeps
    | with_reducible apply State.kexOrRekey_keeps | with_reducible apply State.sendKemkey_keeps | split | (clear_value *; split)

end Sys2Proof.Machine
end

