-- ==== Sys2Proof/Laws/KeepsLink.lean ====
section
/-!
SUPPORT. The operations of Machine/Link.lean leave the queue of waiting commands alone and keep the canonical form.
-/
namespace Sys2Proof.Machine

set_option linter.all false

theorem State.stepDone_keeps {m : Nat} {s0 s : State} (h : Keeps m s0 s) (hp : Sub 0x19ed979e m) (a1 a2 a3 a4) : Keeps m s0 (State.stepDone s a1 a2 a3 a4) := by
  unfold State.stepDone
  repeat' first
    | with_reducible assumption | exact hp.trans rfl | with_reducible apply State.setPortStep_keeps
    | with_reducible apply State.portGoesDown_keeps | split

theorem State.carrierDone_keeps {m : Nat} {s0 s : State} (h : Keeps m s0 s) (hp : Sub 0x19ed979e m) (a1 a2) : Keeps m s0 (State.carrierDone s a1 a2) := by
  unfold State.carrierDone
  repeat' first
    | with_reducible assumption | exact hp.trans rfl | intro _
    | (extract_lets +onlyGivenNames x; refine Keeps.seq (m := m) (s0 := s0) x ?_ ?_; rotate_left; clear_value x; revert x; intro _ _; rotate_left; unfold x; clear x)
    | (extract_lets +onlyGivenNames x; revert x; intro _) | with_reducible apply State.stepDone_keeps

theorem execCarrierCheckDone_keeps {m : Nat} {s0 s : State} (h : Keeps m s0 s) (hp : Sub 0x19ed979e m) (a1 a2) : Ends m s0 (execCarrierCheckDone a1 a2 s) := by
  unfold execCarrierCheckDone
  repeat' first
    | with_reducible assumption | exact hp.trans rfl | with_reducible apply State.carrierDone_keeps | with_reducible apply Ends.next

theorem execLaneTrainingDone_keeps {m : Nat} {s0 s : State} (h : Keeps m s0 s) (hp : Sub 0x19ed979e m) (a1 a2) : Ends m s0 (execLaneTrainingDone a1 a2 s) := by
  unfold execLaneTrainingDone
  repeat' first
    | with_reducible assumption | exact hp.trans rfl | with_reducible apply State.stepDone_keeps | with_reducible apply Ends.next

theorem State.filardQualify_keeps {m : Nat} {s0 s : State} (h : Keeps m s0 s) (hp : Sub 0x19ed979e m) (a1 a2) : Keeps m s0 (State.filardQualify s a1 a2) := by
  unfold State.filardQualify
  repeat' first
    | with_reducible assumption | exact hp.trans rfl | intro _
    | (extract_lets +onlyGivenNames x; refine Keeps.seq (m := m) (s0 := s0) x ?_ ?_; rotate_left; clear_value x; revert x; intro _ _; rotate_left; unfold x; clear x)
    | (extract_lets +onlyGivenNames x; revert x; intro _) | with_reducible apply State.portGoesDown_keeps
    | with_reducible apply State.setPortStep_keeps | with_reducible apply State.setLink_keeps | split | (clear_value *; split)

theorem State.qualifyDone_keeps {m : Nat} {s0 s : State} (h : Keeps m s0 s) (hp : Sub 0x19ed979e m) (a1 a2 a3) : Keeps m s0 (State.qualifyDone s a1 a2 a3) := by
  unfold State.qualifyDone
  repeat' first
    | with_reducible assumption | exact hp.trans rfl | intro _
    | (extract_lets +onlyGivenNames x; refine Keeps.seq (m := m) (s0 := s0) x ?_ ?_; rotate_left; clear_value x; revert x; intro _ _; rotate_left; unfold x; clear x)
    | (extract_lets +onlyGivenNames x; revert x; intro _) | with_reducible apply State.filardQualify_keeps
    | with_reducible apply State.portGoesDown_keeps | with_reducible apply State.setReg_keeps | with_reducible apply State.setBit_keeps
    | with_reducible apply State.setPortStep_keeps | with_reducible apply State.setLink_keeps | with_reducible apply Keeps.foldl
    | with_reducible apply Keeps.foldl_fst | split | (clear_value *; split)

theorem execLaneQualifyDone_keeps {m : Nat} {s0 s : State} (h : Keeps m s0 s) (hp : Sub 0x19ed979e m) (a1 a2 a3) : Ends m s0 (execLaneQualifyDone a1 a2 a3 s) := by
  unfold execLaneQualifyDone
  repeat' first
    | with_reducible assumption | exact hp.trans rfl | with_reducible apply State.qualifyDone_keeps | with_reducible apply Ends.next

theorem State.alignmentLock_keeps {m : Nat} {s0 s : State} (h : Keeps m s0 s) (hp : Sub 0x19ed979e m) (a1 a2) : Keeps m s0 (State.alignmentLock s a1 a2) := by
  unfold State.alignmentLock
  repeat' first
    | with_reducible assumption | exact hp.trans rfl | with_reducible apply State.startKex_keeps
    | with_reducible apply State.setPortStep_keeps | with_reducible apply State.portGoesDown_keeps | split

theorem execAlignmentLock_keeps {m : Nat} {s0 s : State} (h : Keeps m s0 s) (hp : Sub 0x19ed979e m) (a1 a2) : Ends m s0 (execAlignmentLock a1 a2 s) := by
  unfold execAlignmentLock
  repeat' first
    | with_reducible assumption | exact hp.trans rfl | with_reducible apply State.alignmentLock_keeps | with_reducible apply Ends.next

theorem State.gateTimeSet_keeps {m : Nat} {s0 s : State} (h : Keeps m s0 s) (hp : Sub 0x2 m) (a1) : Keeps m s0 (State.gateTimeSet s a1) := by
  unfold State.gateTimeSet
  repeat' first
    | with_reducible assumption | exact hp.trans rfl | intro _
    | (extract_lets +onlyGivenNames x; refine Keeps.seq (m := m) (s0 := s0) x ?_ ?_; rotate_left; clear_value x; revert x; intro _ _; rotate_left; unfold x; clear x)
    | (extract_lets +onlyGivenNames x; revert x; intro _) | with_reducible apply State.setFld_keeps | split | (clear_value *; split)

theorem State.portComesUp_keeps {m : Nat} {s0 s : State} (h : Keeps m s0 s) (hp : Sub 0x190c021e m) (a1 a2) : Keeps m s0 (State.portComesUp s a1 a2) := by
  unfold State.portComesUp
  repeat' first
    | with_reducible assumption | exact hp.trans rfl | intro _
    | (extract_lets +onlyGivenNames x; refine Keeps.seq (m := m) (s0 := s0) x ?_ ?_; rotate_left; clear_value x; revert x; intro _ _; rotate_left; unfold x; clear x)
    | (extract_lets +onlyGivenNames x; revert x; intro _) | with_reducible apply State.setLink_keeps
    | with_reducible apply State.setPortCause_keeps | with_reducible apply State.setPortStep_keeps
    | with_reducible apply State.setPortState_keeps | with_reducible apply State.setFld_keeps | with_reducible apply State.took_keeps
    | with_reducible apply State.gateTimeSet_keeps | with_reducible apply State.bindAgent_keeps | with_reducible apply State.bumpEpoch_keeps
    | with_reducible apply State.sendKeyp_keeps | with_reducible apply Keeps.foldl | with_reducible apply Keeps.foldl_fst | split
    | (clear_value *; split)

theorem State.lvl_keeps {m : Nat} {s0 s : State} (h : Keeps m s0 s) (hp : Sub 0x19ed979e m) (a1 a2) : Keeps m s0 (State.lvl s a1 a2) := by
  unfold State.lvl
  repeat' first
    | with_reducible assumption | exact hp.trans rfl | intro _
    | (extract_lets +onlyGivenNames x; refine Keeps.seq (m := m) (s0 := s0) x ?_ ?_; rotate_left; clear_value x; revert x; intro _ _; rotate_left; unfold x; clear x)
    | (extract_lets +onlyGivenNames x; revert x; intro _) | with_reducible apply State.portComesUp_keeps
    | with_reducible apply State.portGoesDown_keeps | with_reducible apply State.record_keeps | split | (clear_value *; split)

theorem State.levellingRetry_keeps {m : Nat} {s0 s : State} (h : Keeps m s0 s) (hp : Sub 0x8040002 m) (a1) : Keeps m s0 (State.levellingRetry s a1) := by
  unfold State.levellingRetry
  repeat' first | with_reducible assumption | exact hp.trans rfl | with_reducible apply State.beginLevelling_keeps | split

theorem execLevellingRetry_keeps {m : Nat} {s0 s : State} (h : Keeps m s0 s) (hp : Sub 0x8840002 m) (a1) : Ends m s0 (execLevellingRetry a1 s) := by
  unfold execLevellingRetry
  repeat' first
    | with_reducible assumption | exact hp.trans rfl | intro _ | with_reducible apply State.onFirmware_keeps
    | with_reducible apply State.levellingRetry_keeps | with_reducible apply Ends.next

theorem State.startSwap_keeps {m : Nat} {s0 s : State} (h : Keeps m s0 s) (hp : Sub 0x8840006 m) (a1 a2 a3) : Keeps m s0 (State.startSwap s a1 a2 a3) := by
  unfold State.startSwap
  repeat' first
    | with_reducible assumption | exact hp.trans rfl | intro _
    | (extract_lets +onlyGivenNames x; refine Keeps.seq (m := m) (s0 := s0) x ?_ ?_; rotate_left; clear_value x; revert x; intro _ _; rotate_left; unfold x; clear x)
    | (extract_lets +onlyGivenNames x; revert x; intro _) | with_reducible apply State.setLink_keeps
    | with_reducible apply State.linkNote_keeps | with_reducible apply State.setPortState_keeps

theorem State.laneFails_keeps {m : Nat} {s0 s : State} (h : Keeps m s0 s) (hp : Sub 0x19ed979e m) (a1 a2) : Keeps m s0 (State.laneFails s a1 a2) := by
  unfold State.laneFails
  repeat' first
    | with_reducible assumption | exact hp.trans rfl | intro _
    | (extract_lets +onlyGivenNames x; refine Keeps.seq (m := m) (s0 := s0) x ?_ ?_; rotate_left; clear_value x; revert x; intro _ _; rotate_left; unfold x; clear x)
    | (extract_lets +onlyGivenNames x; revert x; intro _) | with_reducible apply State.portGoesDown_keeps
    | with_reducible apply State.errSum_keeps | with_reducible apply State.setBit_keeps | with_reducible apply State.setLink_keeps
    | with_reducible apply State.startSwap_keeps | split | (clear_value *; split)

theorem execLaneFail_keeps {m : Nat} {s0 s : State} (h : Keeps m s0 s) (hp : Sub 0x19ed979e m) (a1 a2) : Ends m s0 (execLaneFail a1 a2 s) := by
  unfold execLaneFail
  repeat' first
    | with_reducible assumption | exact hp.trans rfl | with_reducible apply State.laneFails_keeps | with_reducible apply Ends.next

theorem State.berWindow_keeps {m : Nat} {s0 s : State} (h : Keeps m s0 s) (hp : Sub 0x8840006 m) (a1 a2 a3) : Keeps m s0 (State.berWindow s a1 a2 a3) := by
  unfold State.berWindow
  repeat' first
    | with_reducible assumption | exact hp.trans rfl | intro _
    | (extract_lets +onlyGivenNames x; refine Keeps.seq (m := m) (s0 := s0) x ?_ ?_; rotate_left; clear_value x; revert x; intro _ _; rotate_left; unfold x; clear x)
    | (extract_lets +onlyGivenNames x; revert x; intro _) | with_reducible apply State.setLink_keeps
    | with_reducible apply State.tickLanes_keeps | with_reducible apply State.setFld_keeps | with_reducible apply State.setBit_keeps
    | with_reducible apply State.startSwap_keeps | with_reducible apply State.linkNote_keeps | split | (clear_value *; split)

theorem execBerWindowEnd_keeps {m : Nat} {s0 s : State} (h : Keeps m s0 s) (hp : Sub 0x8840006 m) (a1 a2 a3) : Ends m s0 (execBerWindowEnd a1 a2 a3 s) := by
  unfold execBerWindowEnd
  repeat' first
    | with_reducible assumption | exact hp.trans rfl | with_reducible apply State.berWindow_keeps | with_reducible apply Ends.next

theorem State.swapRequest_keeps {m : Nat} {s0 s : State} (h : Keeps m s0 s) (hp : Sub 0x8000002 m) (a1 a2) : Keeps m s0 (State.swapRequest s a1 a2) := by
  unfold State.swapRequest
  repeat' first
    | with_reducible assumption | exact hp.trans rfl | intro _
    | (extract_lets +onlyGivenNames x; refine Keeps.seq (m := m) (s0 := s0) x ?_ ?_; rotate_left; clear_value x; revert x; intro _ _; rotate_left; unfold x; clear x)
    | (extract_lets +onlyGivenNames x; revert x; intro _) | with_reducible apply State.setBit_keeps
    | with_reducible apply State.setFld_keeps | with_reducible apply State.setPortState_keeps | split | (clear_value *; split)

theorem execSwapRequest_keeps {m : Nat} {s0 s : State} (h : Keeps m s0 s) (hp : Sub 0x8000002 m) (a1 a2) : Ends m s0 (execSwapRequest a1 a2 s) := by
  unfold execSwapRequest
  repeat' first
    | with_reducible assumption | exact hp.trans rfl | with_reducible apply State.swapRequest_keeps | with_reducible apply Ends.next

theorem State.swapLock_keeps {m : Nat} {s0 s : State} (h : Keeps m s0 s) (hp : Sub 0x40002 m) (a1) : Keeps m s0 (State.swapLock s a1) := by
  unfold State.swapLock
  repeat' first
    | with_reducible assumption | exact hp.trans rfl | intro _
    | (extract_lets +onlyGivenNames x; refine Keeps.seq (m := m) (s0 := s0) x ?_ ?_; rotate_left; clear_value x; revert x; intro _ _; rotate_left; unfold x; clear x)
    | (extract_lets +onlyGivenNames x; revert x; intro _) | with_reducible apply State.setLink_keeps
    | with_reducible apply State.count_keeps | with_reducible apply State.setBit_keeps | split | (clear_value *; split)

theorem execSwapLock_keeps {m : Nat} {s0 s : State} (h : Keeps m s0 s) (hp : Sub 0x40002 m) (a1) : Ends m s0 (execSwapLock a1 s) := by
  unfold execSwapLock
  repeat' first
    | with_reducible assumption | exact hp.trans rfl | with_reducible apply State.swapLock_keeps | with_reducible apply Ends.next

theorem execSwapTimeout_keeps {m : Nat} {s0 s : State} (h : Keeps m s0 s) (hp : Sub 0x19ed979e m) (a1) : Ends m s0 (execSwapTimeout a1 s) := by
  unfold execSwapTimeout
  repeat' first
    | with_reducible assumption | exact hp.trans rfl | intro _ | with_reducible apply State.onlyIf_keeps
    | with_reducible apply State.portGoesDown_keeps | with_reducible apply Ends.next

theorem State.putOnLanes_keeps {m : Nat} {s0 s : State} (h : Keeps m s0 s) (hp : Sub 0x40004 m) (a1 a2) : Keeps m s0 (State.putOnLanes s a1 a2) := by
  unfold State.putOnLanes
  repeat' first
    | with_reducible assumption | exact hp.trans rfl | intro _
    | (extract_lets +onlyGivenNames x; refine Keeps.seq (m := m) (s0 := s0) x ?_ ?_; rotate_left; clear_value x; revert x; intro _ _; rotate_left; unfold x; clear x)
    | (extract_lets +onlyGivenNames x; revert x; intro _) | with_reducible apply State.tickLanes_keeps
    | with_reducible apply State.setLink_keeps | split | (clear_value *; split)

theorem State.newFrame_keeps {m : Nat} {s0 s : State} (h : Keeps m s0 s) (hp : Sub 0x40006 m) (a1) : Keeps m s0 (State.newFrame s a1) := by
  unfold State.newFrame
  repeat' first
    | with_reducible assumption | exact hp.trans rfl | intro _
    | (extract_lets +onlyGivenNames x; refine Keeps.seq (m := m) (s0 := s0) x ?_ ?_; rotate_left; clear_value x; revert x; intro _ _; rotate_left; unfold x; clear x)
    | (extract_lets +onlyGivenNames x; revert x; intro _) | with_reducible apply State.setLink_keeps
    | with_reducible apply State.count_keeps | with_reducible apply State.putOnLanes_keeps | with_reducible apply State.setFld_keeps | split
    | (clear_value *; split)

theorem State.replayFrame_keeps {m : Nat} {s0 s : State} (h : Keeps m s0 s) (hp : Sub 0x40006 m) (a1) : Keeps m s0 (State.replayFrame s a1) := by
  unfold State.replayFrame
  repeat' first
    | with_reducible assumption | exact hp.trans rfl | intro _
    | (extract_lets +onlyGivenNames x; refine Keeps.seq (m := m) (s0 := s0) x ?_ ?_; rotate_left; clear_value x; revert x; intro _ _; rotate_left; unfold x; clear x)
    | (extract_lets +onlyGivenNames x; revert x; intro _) | with_reducible apply State.count_keeps
    | with_reducible apply State.setLink_keeps | with_reducible apply State.putOnLanes_keeps | split | (clear_value *; split)

theorem State.frameSend_keeps {m : Nat} {s0 s : State} (h : Keeps m s0 s) (hp : Sub 0x40006 m) (a1) : Keeps m s0 (State.frameSend s a1) := by
  unfold State.frameSend
  repeat' first
    | with_reducible assumption | exact hp.trans rfl | intro _
    | (extract_lets +onlyGivenNames x; refine Keeps.seq (m := m) (s0 := s0) x ?_ ?_; rotate_left; clear_value x; revert x; intro _ _; rotate_left; unfold x; clear x)
    | (extract_lets +onlyGivenNames x; revert x; intro _) | with_reducible apply State.replayFrame_keeps
    | with_reducible apply State.newFrame_keeps | split | (clear_value *; split)

theorem execFrameSend_keeps {m : Nat} {s0 s : State} (h : Keeps m s0 s) (hp : Sub 0x40006 m) (a1) : Ends m s0 (execFrameSend a1 s) := by
  unfold execFrameSend
  repeat' first
    | with_reducible assumption | exact hp.trans rfl | with_reducible apply State.frameSend_keeps | with_reducible apply Ends.next

theorem State.countWords_keeps {m : Nat} {s0 s : State} (h : Keeps m s0 s) (hp : Sub 0x40002 m) (a1 a2) : Keeps m s0 (State.countWords s a1 a2) := by
  unfold State.countWords
  repeat' first
    | with_reducible assumption | exact hp.trans rfl | intro _
    | (extract_lets +onlyGivenNames x; refine Keeps.seq (m := m) (s0 := s0) x ?_ ?_; rotate_left; clear_value x; revert x; intro _ _; rotate_left; unfold x; clear x)
    | (extract_lets +onlyGivenNames x; revert x; intro _) | with_reducible apply State.count_keeps | with_reducible apply State.setFld_keeps
    | with_reducible apply State.setLink_keeps | with_reducible apply Keeps.foldl | with_reducible apply Keeps.foldl_fst | split
    | (clear_value *; split)

theorem State.acceptFrame_keeps {m : Nat} {s0 s : State} (h : Keeps m s0 s) (hp : Sub 0x19ed979e m) (a1 a2 a3) : Keeps m s0 (State.acceptFrame s a1 a2 a3) := by
  unfold State.acceptFrame
  repeat' first
    | with_reducible assumption | exact hp.trans rfl | intro _
    | (extract_lets +onlyGivenNames x; refine Keeps.seq (m := m) (s0 := s0) x ?_ ?_; rotate_left; clear_value x; revert x; intro _ _; rotate_left; unfold x; clear x)
    | (extract_lets +onlyGivenNames x; revert x; intro _) | with_reducible apply State.count_keeps
    | with_reducible apply State.setLink_keeps | with_reducible apply State.setPortState_keeps
    | with_reducible apply State.swapRequest_keeps | with_reducible apply State.portGoesDown_keeps | split | (clear_value *; split)

theorem State.frameChecked_keeps {m : Nat} {s0 s : State} (h : Keeps m s0 s) (hp : Sub 0x19ed979e m) (a1 a2) : Keeps m s0 (State.frameChecked s a1 a2) := by
  unfold State.frameChecked
  repeat' first
    | with_reducible assumption | exact hp.trans rfl | intro _
    | (extract_lets +onlyGivenNames x; refine Keeps.seq (m := m) (s0 := s0) x ?_ ?_; rotate_left; clear_value x; revert x; intro _ _; rotate_left; unfold x; clear x)
    | (extract_lets +onlyGivenNames x; revert x; intro _) | with_reducible apply State.portGoesDown_keeps
    | with_reducible apply State.record_keeps | with_reducible apply State.count_keeps | with_reducible apply State.acceptFrame_keeps
    | with_reducible apply State.setLink_keeps | split | (clear_value *; split)

theorem State.frameDamaged_keeps {m : Nat} {s0 s : State} (h : Keeps m s0 s) (hp : Sub 0x40000 m) (a1) : Keeps m s0 (State.frameDamaged s a1) := by
  unfold State.frameDamaged
  repeat' first
    | with_reducible assumption | exact hp.trans rfl | intro _
    | (extract_lets +onlyGivenNames x; refine Keeps.seq (m := m) (s0 := s0) x ?_ ?_; rotate_left; clear_value x; revert x; intro _ _; rotate_left; unfold x; clear x)
    | (extract_lets +onlyGivenNames x; revert x; intro _) | with_reducible apply State.setLink_keeps

theorem State.frameReceive_keeps {m : Nat} {s0 s : State} (h : Keeps m s0 s) (hp : Sub 0x19ed979e m) (a1 a2) : Keeps m s0 (State.frameReceive s a1 a2) := by
  unfold State.frameReceive
  repeat' first
    | with_reducible assumption | exact hp.trans rfl | intro _
    | (extract_lets +onlyGivenNames x; refine Keeps.seq (m := m) (s0 := s0) x ?_ ?_; rotate_left; clear_value x; revert x; intro _ _; rotate_left; unfold x; clear x)
    | (extract_lets +onlyGivenNames x; refine KeepsO.seq (m := m) (s0 := s0) x ?_ ?_; rotate_left; clear_value x; revert x; intro _ _; rotate_left; unfold x; clear x)
    | (extract_lets +onlyGivenNames x; revert x; intro _) | with_reducible apply State.takeInject_keeps
    | with_reducible apply State.countWords_keeps | with_reducible apply State.tickLanes_keeps
    | with_reducible apply State.frameDamaged_keeps | with_reducible apply State.count_keeps | with_reducible apply State.frameChecked_keeps
    | with_reducible apply KeepsO.some_ | with_reducible apply KeepsO.none_ | with_reducible apply KeepsO.getD
    | with_reducible refine KeepsO.get (by assumption) ?_ | split | (clear_value *; split) | exact KeepsO.get rfl (by assumption)

theorem execFrameReceive_keeps {m : Nat} {s0 s : State} (h : Keeps m s0 s) (hp : Sub 0x19ed979e m) (a1 a2) : Ends m s0 (execFrameReceive a1 a2 s) := by
  unfold execFrameReceive
  repeat' first
    | with_reducible assumption | exact hp.trans rfl | with_reducible apply State.frameReceive_keeps | with_reducible apply Ends.next

theorem State.portCtlWrite_keeps {m : Nat} {s0 s : State} (h : Keeps m s0 s) (hp : Sub 0x1ded979e m) (a1 a2) : Keeps m s0 (State.portCtlWrite s a1 a2) := by
  unfold State.portCtlWrite
  repeat' first
    | with_reducible assumption | exact hp.trans rfl | intro _
    | (extract_lets +onlyGivenNames x; refine Keeps.seq (m := m) (s0 := s0) x ?_ ?_; rotate_left; clear_value x; revert x; intro _ _; rotate_left; unfold x; clear x)
    | (extract_lets +onlyGivenNames x; revert x; intro _) | with_reducible apply State.cfgDo_keeps | with_reducible apply State.setBit_keeps
    | with_reducible apply State.setFld_keeps | with_reducible apply State.startLevelling_keeps
    | with_reducible apply State.setPortCause_keeps | with_reducible apply State.setPortState_keeps
    | with_reducible apply State.portGoesDown_keeps | with_reducible apply State.startSwap_keeps
    | with_reducible apply State.startRekey_keeps | split | (clear_value *; split)
    | with_reducible refine Keeps.boot (by assumption) (Sub.bit 26 rfl hp)

theorem execLevellingStart_keeps {m : Nat} {s0 s : State} (h : Keeps m s0 s) (hp : Sub 0x1ded979e m) (a1 a2) : Ends m s0 (execLevellingStart a1 a2 s) := by
  unfold execLevellingStart
  repeat' first
    | with_reducible assumption | exact hp.trans rfl | with_reducible apply State.portCtlWrite_keeps | with_reducible apply Ends.next

theorem execPortDisable_keeps {m : Nat} {s0 s : State} (h : Keeps m s0 s) (hp : Sub 0x1ded979e m) (a1 a2) : Ends m s0 (execPortDisable a1 a2 s) := by
  unfold execPortDisable
  repeat' first
    | with_reducible assumption | exact hp.trans rfl | with_reducible apply State.portCtlWrite_keeps | with_reducible apply Ends.next

theorem execSwapNow_keeps {m : Nat} {s0 s : State} (h : Keeps m s0 s) (hp : Sub 0x1ded979e m) (a1 a2) : Ends m s0 (execSwapNow a1 a2 s) := by
  unfold execSwapNow
  repeat' first
    | with_reducible assumption | exact hp.trans rfl | with_reducible apply State.portCtlWrite_keeps | with_reducible apply Ends.next

theorem execRekey_keeps {m : Nat} {s0 s : State} (h : Keeps m s0 s) (hp : Sub 0x1ded979e m) (a1 a2) : Ends m s0 (execRekey a1 a2 s) := by
  unfold execRekey
  repeat' first
    | with_reducible assumption | exact hp.trans rfl | with_reducible apply State.portCtlWrite_keeps | with_reducible apply Ends.next

theorem State.rekeyInterval_keeps {m : Nat} {s0 s : State} (h : Keeps m s0 s) (hp : Sub 0x19ed979e m) (a1) : Keeps m s0 (State.rekeyInterval s a1) := by
  unfold State.rekeyInterval
  repeat' first
    | with_reducible assumption | exact hp.trans rfl | intro _
    | (extract_lets +onlyGivenNames x; refine Keeps.seq (m := m) (s0 := s0) x ?_ ?_; rotate_left; clear_value x; revert x; intro _ _; rotate_left; unfold x; clear x)
    | (extract_lets +onlyGivenNames x; revert x; intro _) | with_reducible apply State.startRekey_keeps | split | (clear_value *; split)

theorem execRekeyInterval_keeps {m : Nat} {s0 s : State} (h : Keeps m s0 s) (hp : Sub 0x19ed979e m) (a1) : Ends m s0 (execRekeyInterval a1 s) := by
  unfold execRekeyInterval
  repeat' first
    | with_reducible assumption | exact hp.trans rfl | with_reducible apply State.rekeyInterval_keeps | with_reducible apply Ends.next

theorem State.laserFault_keeps {m : Nat} {s0 s : State} (h : Keeps m s0 s) (hp : Sub 0x19ed979e m) (a1 a2) : Keeps m s0 (State.laserFault s a1 a2) := by
  unfold State.laserFault
  repeat' first
    | with_reducible assumption | exact hp.trans rfl | intro _
    | (extract_lets +onlyGivenNames x; refine Keeps.seq (m := m) (s0 := s0) x ?_ ?_; rotate_left; clear_value x; revert x; intro _ _; rotate_left; unfold x; clear x)
    | (extract_lets +onlyGivenNames x; revert x; intro _) | with_reducible apply State.laneFails_keeps
    | with_reducible apply State.setLink_keeps | with_reducible apply Keeps.foldl | with_reducible apply Keeps.foldl_fst | split
    | (clear_value *; split)

theorem execLaserFault_keeps {m : Nat} {s0 s : State} (h : Keeps m s0 s) (hp : Sub 0x19ed979e m) (a1 a2) : Ends m s0 (execLaserFault a1 a2 s) := by
  unfold execLaserFault
  repeat' first
    | with_reducible assumption | exact hp.trans rfl | with_reducible apply State.laserFault_keeps | with_reducible apply Ends.next

end Sys2Proof.Machine
end

