-- ==== Sys2Proof/Laws/KeepsRoce.lean ====
section
/-!
SUPPORT. The operations of Machine/Roce.lean leave the queue of waiting commands alone and keep the canonical form.
-/
namespace Sys2Proof.Machine

set_option linter.all false

theorem State.tickRoce_keeps {m : Nat} {s0 s : State} (h : Keeps m s0 s) (hp : Sub 0x4 m) (a1) : Keeps m s0 (State.tickRoce s a1) := by
  unfold State.tickRoce
  repeat' first | with_reducible assumption | exact hp.trans rfl | with_reducible apply State.tick_keeps | split

theorem State.setRing_keeps {m : Nat} {s0 s : State} (h : Keeps m s0 s) (hp : Sub 0x200000 m) (a1 a2) : Keeps m s0 (State.setRing s a1 a2) := by
  unfold State.setRing
  repeat' first
    | with_reducible assumption | intro _
    | (extract_lets +onlyGivenNames x; refine Keeps.seq (m := m) (s0 := s0) x ?_ ?_; rotate_left; clear_value x; revert x; intro _ _; rotate_left; unfold x; clear x)
    | (extract_lets +onlyGivenNames x; revert x; intro _) | with_reducible refine Keeps.roce (by assumption) (Sub.bit 21 rfl hp)

theorem State.ethTx_keeps {m : Nat} {s0 s : State} (h : Keeps m s0 s) (hp : Sub 0x280006 m) (a1 a2) : Keeps m s0 (State.ethTx s a1 a2) := by
  unfold State.ethTx
  repeat' first
    | with_reducible assumption | exact hp.trans rfl | intro _
    | (extract_lets +onlyGivenNames x; refine Keeps.seq (m := m) (s0 := s0) x ?_ ?_; rotate_left; clear_value x; revert x; intro _ _; rotate_left; unfold x; clear x)
    | (extract_lets +onlyGivenNames x; revert x; intro _) | with_reducible apply State.storeInner_keeps | split | (clear_value *; split)
    | with_reducible refine Keeps.roce (by assumption) (Sub.bit 21 rfl hp)

theorem State.pfcOne_keeps {m : Nat} {s0 s : State} (h : Keeps m s0 s) (hp : Sub 0x280006 m) (a1 a2) : Keeps m s0 (State.pfcOne s a1 a2) := by
  unfold State.pfcOne
  repeat' first
    | with_reducible assumption | exact hp.trans rfl | intro _
    | (extract_lets +onlyGivenNames x; refine Keeps.seq (m := m) (s0 := s0) x ?_ ?_; rotate_left; clear_value x; revert x; intro _ _; rotate_left; unfold x; clear x)
    | (extract_lets +onlyGivenNames x; revert x; intro _) | with_reducible apply State.ethTx_keeps | with_reducible apply State.setEth_keeps
    | split | (clear_value *; split)

theorem State.pfcUpdate_keeps {m : Nat} {s0 s : State} (h : Keeps m s0 s) (hp : Sub 0x280006 m) (a1) : Keeps m s0 (State.pfcUpdate s a1) := by
  unfold State.pfcUpdate
  repeat' first
    | with_reducible assumption | exact hp.trans rfl | intro _ | with_reducible apply State.pfcOne_keeps | with_reducible apply Keeps.foldl
    | with_reducible apply Keeps.foldl_fst

theorem execPfcRefresh_keeps {m : Nat} {s0 s : State} (h : Keeps m s0 s) (hp : Sub 0x280006 m) (a1 a2) : Ends m s0 (execPfcRefresh a1 a2 s) := by
  unfold execPfcRefresh
  repeat' first
    | with_reducible assumption | exact hp.trans rfl | intro _ | with_reducible apply State.onlyIf_keeps
    | with_reducible apply State.ethTx_keeps | with_reducible apply Ends.next

theorem State.pfcFrame_keeps {m : Nat} {s0 s : State} (h : Keeps m s0 s) (hp : Sub 0x200000 m) (a1 a2 a3) : Keeps m s0 (State.pfcFrame s a1 a2 a3) := by
  unfold State.pfcFrame
  repeat' first
    | with_reducible assumption | exact hp.trans rfl | intro _
    | (extract_lets +onlyGivenNames x; refine Keeps.seq (m := m) (s0 := s0) x ?_ ?_; rotate_left; clear_value x; revert x; intro _ _; rotate_left; unfold x; clear x)
    | (extract_lets +onlyGivenNames x; revert x; intro _) | with_reducible apply State.setEth_keeps | with_reducible apply Keeps.foldl
    | with_reducible apply Keeps.foldl_fst | split | (clear_value *; split)

theorem execPfcFrame_keeps {m : Nat} {s0 s : State} (h : Keeps m s0 s) (hp : Sub 0x200000 m) (a1 a2 a3) : Ends m s0 (execPfcFrame a1 a2 a3 s) := by
  unfold execPfcFrame
  repeat' first
    | with_reducible assumption | exact hp.trans rfl | with_reducible apply State.pfcFrame_keeps | with_reducible apply Ends.next

theorem State.pfcExpiry_keeps {m : Nat} {s0 s : State} (h : Keeps m s0 s) (hp : Sub 0x200000 m) (a1 a2) : Keeps m s0 (State.pfcExpiry s a1 a2) := by
  unfold State.pfcExpiry
  repeat' first
    | with_reducible assumption | exact hp.trans rfl | intro _
    | (extract_lets +onlyGivenNames x; refine Keeps.seq (m := m) (s0 := s0) x ?_ ?_; rotate_left; clear_value x; revert x; intro _ _; rotate_left; unfold x; clear x)
    | (extract_lets +onlyGivenNames x; revert x; intro _) | with_reducible apply State.setEth_keeps

theorem execPfcPauseExpiry_keeps {m : Nat} {s0 s : State} (h : Keeps m s0 s) (hp : Sub 0x200000 m) (a1 a2) : Ends m s0 (execPfcPauseExpiry a1 a2 s) := by
  unfold execPfcPauseExpiry
  repeat' first
    | with_reducible assumption | exact hp.trans rfl | with_reducible apply State.pfcExpiry_keeps | with_reducible apply Ends.next

theorem State.pfcConfig_keeps {m : Nat} {s0 s : State} (h : Keeps m s0 s) (hp : Sub 0x280006 m) (a1 a2) : Keeps m s0 (State.pfcConfig s a1 a2) := by
  unfold State.pfcConfig
  repeat' first
    | with_reducible assumption | exact hp.trans rfl | intro _
    | (extract_lets +onlyGivenNames x; refine Keeps.seq (m := m) (s0 := s0) x ?_ ?_; rotate_left; clear_value x; revert x; intro _ _; rotate_left; unfold x; clear x)
    | (extract_lets +onlyGivenNames x; revert x; intro _) | with_reducible apply State.cfgDo_keeps | with_reducible apply State.setBit_keeps
    | with_reducible apply State.pfcUpdate_keeps | with_reducible apply State.setReg_keeps | split | (clear_value *; split)

theorem execPfcConfig_keeps {m : Nat} {s0 s : State} (h : Keeps m s0 s) (hp : Sub 0x280006 m) (a1 a2) : Ends m s0 (execPfcConfig a1 a2 s) := by
  unfold execPfcConfig
  repeat' first
    | with_reducible assumption | exact hp.trans rfl | with_reducible apply State.pfcConfig_keeps | with_reducible apply Ends.next

theorem State.spillWrite_keeps {m : Nat} {s0 s : State} (h : Keeps m s0 s) (hp : Sub 0x10 m) (a1) : Keeps m s0 (State.spillWrite s a1) := by
  unfold State.spillWrite
  repeat' first | with_reducible assumption | exact hp.trans rfl | with_reducible apply State.writeMem_keeps | split

theorem State.cacheQp_keeps {m : Nat} {s0 s : State} (h : Keeps m s0 s) (hp : Sub 0x200010 m) (a1) : KeepsO m s0 (State.cacheQp s a1) := by
  unfold State.cacheQp
  repeat' first
    | with_reducible assumption | exact hp.trans rfl | intro _ | with_reducible apply hF
    | (extract_lets +onlyGivenNames x; refine Keeps.seq (m := m) (s0 := s0) x ?_ ?_; rotate_left; clear_value x; revert x; intro _ _; rotate_left; unfold x; clear x)
    | (extract_lets +onlyGivenNames x; refine Keeps.seqF (m := m) (s0 := s0) x ?_ ?_; rotate_left; clear_value x; revert x; intro _ hF; rotate_left; unfold x; clear x)
    | (extract_lets +onlyGivenNames x; refine Keeps.seqG (m := m) (s0 := s0) x ?_ ?_; rotate_left; clear_value x; revert x; intro _ hF; rotate_left; unfold x; clear x)
    | (extract_lets +onlyGivenNames x; refine Keeps.seqH (m := m) (s0 := s0) x ?_ ?_; rotate_left; clear_value x; revert x; intro _ hF; rotate_left; unfold x; clear x)
    | (extract_lets +onlyGivenNames x; revert x; intro _) | with_reducible apply State.spillWrite_keeps | with_reducible apply KeepsO.some_
    | with_reducible apply KeepsO.none_ | with_reducible apply KeepsO.getD | with_reducible refine KeepsO.get (by assumption) ?_ | split
    | (clear_value *; split) | with_reducible refine Keeps.roce (by assumption) (Sub.bit 21 rfl hp)

theorem State.mrCmd_keeps {m : Nat} {s0 s : State} (h : Keeps m s0 s) (hp : Sub 0x6 m) (a1 a2 a3) (hf : ∀ t x1, Keeps m s0 t → Keeps m s0 (a3 t x1)) : Keeps m s0 (State.mrCmd s a1 a2 a3) := by
  unfold State.mrCmd
  repeat' first
    | with_reducible assumption | exact hp.trans rfl | intro _ | with_reducible apply hf
    | (extract_lets +onlyGivenNames x; refine Keeps.seq (m := m) (s0 := s0) x ?_ ?_; rotate_left; clear_value x; revert x; intro _ _; rotate_left; unfold x; clear x)
    | (extract_lets +onlyGivenNames x; revert x; intro _) | with_reducible apply State.cfgDo_keeps | with_reducible apply State.setFld_keeps
    | with_reducible apply State.tick_keeps | split | (clear_value *; split)

theorem State.mrEnd_keeps {m : Nat} {s0 s : State} (h : Keeps m s0 s) (hp : Sub 0x2 m) (a1) : Keeps m s0 (State.mrEnd s a1) := by
  unfold State.mrEnd
  repeat' first
    | with_reducible assumption | exact hp.trans rfl | with_reducible apply State.setBit_keeps | with_reducible apply State.setFld_keeps

theorem State.mrRegister_keeps {m : Nat} {s0 s : State} (h : Keeps m s0 s) (hp : Sub 0x200006 m) (a1) : Keeps m s0 (State.mrRegister s a1) := by
  unfold State.mrRegister
  repeat' first
    | with_reducible assumption | exact hp.trans rfl | intro _
    | (extract_lets +onlyGivenNames x; refine Keeps.seq (m := m) (s0 := s0) x ?_ ?_; rotate_left; clear_value x; revert x; intro _ _; rotate_left; unfold x; clear x)
    | (extract_lets +onlyGivenNames x; revert x; intro _) | with_reducible apply State.mrCmd_keeps | with_reducible apply State.mrEnd_keeps
    | with_reducible apply State.setMr_keeps | split | (clear_value *; split)

theorem execMrRegister_keeps {m : Nat} {s0 s : State} (h : Keeps m s0 s) (hp : Sub 0x200006 m) (a1) : Ends m s0 (execMrRegister a1 s) := by
  unfold execMrRegister
  repeat' first
    | with_reducible assumption | exact hp.trans rfl | with_reducible apply State.mrRegister_keeps | with_reducible apply Ends.next

theorem State.mrRevoke_keeps {m : Nat} {s0 s : State} (h : Keeps m s0 s) (hp : Sub 0x200006 m) (a1) : Keeps m s0 (State.mrRevoke s a1) := by
  unfold State.mrRevoke
  repeat' first
    | with_reducible assumption | exact hp.trans rfl | intro _
    | (extract_lets +onlyGivenNames x; refine Keeps.seq (m := m) (s0 := s0) x ?_ ?_; rotate_left; clear_value x; revert x; intro _ _; rotate_left; unfold x; clear x)
    | (extract_lets +onlyGivenNames x; revert x; intro _) | with_reducible apply State.mrCmd_keeps | with_reducible apply State.mrEnd_keeps
    | with_reducible apply State.mrSettle_keeps | with_reducible apply State.setFld_keeps | with_reducible apply State.setMr_keeps | split
    | (clear_value *; split)

theorem execMrRevoke_keeps {m : Nat} {s0 s : State} (h : Keeps m s0 s) (hp : Sub 0x200006 m) (a1) : Ends m s0 (execMrRevoke a1 s) := by
  unfold execMrRevoke
  repeat' first
    | with_reducible assumption | exact hp.trans rfl | with_reducible apply State.mrRevoke_keeps | with_reducible apply Ends.next

theorem State.mrQuery_keeps {m : Nat} {s0 s : State} (h : Keeps m s0 s) (hp : Sub 0x6 m) (a1) : Keeps m s0 (State.mrQuery s a1) := by
  unfold State.mrQuery
  repeat' first
    | with_reducible assumption | exact hp.trans rfl | intro _
    | (extract_lets +onlyGivenNames x; refine Keeps.seq (m := m) (s0 := s0) x ?_ ?_; rotate_left; clear_value x; revert x; intro _ _; rotate_left; unfold x; clear x)
    | (extract_lets +onlyGivenNames x; revert x; intro _) | with_reducible apply State.mrCmd_keeps | with_reducible apply State.mrEnd_keeps
    | with_reducible apply State.setReg_keeps | with_reducible apply Keeps.foldl | with_reducible apply Keeps.foldl_fst | split
    | (clear_value *; split)

theorem execMrQuery_keeps {m : Nat} {s0 s : State} (h : Keeps m s0 s) (hp : Sub 0x6 m) (a1) : Ends m s0 (execMrQuery a1 s) := by
  unfold execMrQuery
  repeat' first | with_reducible assumption | exact hp.trans rfl | with_reducible apply State.mrQuery_keeps | with_reducible apply Ends.next

theorem State.unreserve_keeps {m : Nat} {s0 s : State} (h : Keeps m s0 s) (hp : Sub 0x200000 m) (a1) : Keeps m s0 (State.unreserve s a1) := by
  unfold State.unreserve
  repeat' first
    | with_reducible assumption | exact hp.trans rfl | intro _
    | (extract_lets +onlyGivenNames x; refine Keeps.seq (m := m) (s0 := s0) x ?_ ?_; rotate_left; clear_value x; revert x; intro _ _; rotate_left; unfold x; clear x)
    | (extract_lets +onlyGivenNames x; revert x; intro _) | with_reducible apply State.setRing_keeps | split | (clear_value *; split)

theorem State.qpError_keeps {m : Nat} {s0 s : State} (h : Keeps m s0 s) (hp : Sub 0x8a00006 m) (a1 a2 a3) : Keeps m s0 (State.qpError s a1 a2 a3) := by
  unfold State.qpError
  repeat' first
    | with_reducible assumption | exact hp.trans rfl | intro _
    | (extract_lets +onlyGivenNames x; refine Keeps.seq (m := m) (s0 := s0) x ?_ ?_; rotate_left; clear_value x; revert x; intro _ _; rotate_left; unfold x; clear x)
    | (extract_lets +onlyGivenNames x; revert x; intro _) | with_reducible apply State.dropTwin_keeps
    | with_reducible apply State.setQp_keeps | with_reducible apply State.unreserve_keeps | with_reducible apply State.count_keeps
    | with_reducible apply State.record_keeps | with_reducible apply State.mrSettle_keeps | with_reducible apply Keeps.foldl
    | with_reducible apply Keeps.foldl_fst | split | (clear_value *; split)

theorem State.qpFail_keeps {m : Nat} {s0 s : State} (h : Keeps m s0 s) (hp : Sub 0x8a80006 m) (a1 a2 a3 a4) : Keeps m s0 (State.qpFail s a1 a2 a3 a4) := by
  unfold State.qpFail
  repeat' first
    | with_reducible assumption | exact hp.trans rfl | with_reducible apply State.qpError_keeps | with_reducible apply State.count_keeps
    | with_reducible apply State.ethTx_keeps

theorem State.mrTimeout_keeps {m : Nat} {s0 s : State} (h : Keeps m s0 s) (hp : Sub 0x8a80006 m) (a1) : Keeps m s0 (State.mrTimeout s a1) := by
  unfold State.mrTimeout
  repeat' first
    | with_reducible assumption | exact hp.trans rfl | intro _
    | (extract_lets +onlyGivenNames x; refine Keeps.seq (m := m) (s0 := s0) x ?_ ?_; rotate_left; clear_value x; revert x; intro _ _; rotate_left; unfold x; clear x)
    | (extract_lets +onlyGivenNames x; revert x; intro _) | with_reducible apply State.qpFail_keeps
    | with_reducible apply State.mrFree_keeps | with_reducible apply Keeps.foldl | with_reducible apply Keeps.foldl_fst | split
    | (clear_value *; split)

theorem execMrRevokeTimeout_keeps {m : Nat} {s0 s : State} (h : Keeps m s0 s) (hp : Sub 0x8a80006 m) (a1) : Ends m s0 (execMrRevokeTimeout a1 s) := by
  unfold execMrRevokeTimeout
  repeat' first
    | with_reducible assumption | exact hp.trans rfl | with_reducible apply State.mrTimeout_keeps | with_reducible apply Ends.next

theorem State.addReq_keeps {m : Nat} {s0 s : State} (h : Keeps m s0 s) (hp : Sub 0x200000 m) (a1 a2 a3 a4 a5 a6 a7) : Keeps m s0 (State.addReq s a1 a2 a3 a4 a5 a6 a7) := by
  unfold State.addReq
  repeat' first
    | with_reducible assumption | exact hp.trans rfl | intro _
    | (extract_lets +onlyGivenNames x; refine Keeps.seq (m := m) (s0 := s0) x ?_ ?_; rotate_left; clear_value x; revert x; intro _ _; rotate_left; unfold x; clear x)
    | (extract_lets +onlyGivenNames x; revert x; intro _) | with_reducible apply State.setQp_keeps

theorem State.addData_keeps {m : Nat} {s0 s : State} (h : Keeps m s0 s) (hp : Sub 0x200008 m) (a1 a2 a3 a4 a5 a6 a7 a8 a9 a10 a11 a12) : Keeps m s0 (State.addData s a1 a2 a3 a4 a5 a6 a7 a8 a9 a10 a11 a12) := by
  unfold State.addData
  repeat' first
    | with_reducible assumption | exact hp.trans rfl | intro _
    | (extract_lets +onlyGivenNames x; refine Keeps.seq (m := m) (s0 := s0) x ?_ ?_; rotate_left; clear_value x; revert x; intro _ _; rotate_left; unfold x; clear x)
    | (extract_lets +onlyGivenNames x; refine Keeps.seq (m := m) (s0 := s0) x.1 ?_ ?_; rotate_left; clear_value x; revert x; intro _ _; rotate_left; unfold x; clear x)
    | (extract_lets +onlyGivenNames x; revert x; intro _) | with_reducible apply State.coherentAt_keeps
    | with_reducible apply State.addReq_keeps | with_reducible refine Keeps.of_fst (by assumption) ?_

theorem State.roceIssue_keeps {m : Nat} {s0 s : State} (h : Keeps m s0 s) (hp : Sub 0x10a00000 m) (a1 a2) : Keeps m s0 (State.roceIssue s a1 a2) := by
  unfold State.roceIssue
  repeat' first
    | with_reducible assumption | exact hp.trans rfl | intro _
    | (extract_lets +onlyGivenNames x; refine Keeps.seq (m := m) (s0 := s0) x ?_ ?_; rotate_left; clear_value x; revert x; intro _ _; rotate_left; unfold x; clear x)
    | (extract_lets +onlyGivenNames x; revert x; intro _) | with_reducible apply State.issue_keeps | with_reducible apply State.setQp_keeps
    | split | (clear_value *; split)

theorem State.rocePump_keeps {m : Nat} {s0 s : State} (h : Keeps m s0 s) (hp : Sub 0x10a00000 m) (a1) : Keeps m s0 (State.rocePump s a1) := by
  unfold State.rocePump
  repeat' first
    | with_reducible assumption | exact hp.trans rfl | intro _ | with_reducible apply State.roceIssue_keeps
    | with_reducible apply Keeps.foldl | with_reducible apply Keeps.foldl_fst

theorem State.postEntry_keeps {m : Nat} {s0 s : State} (h : Keeps m s0 s) (hp : Sub 0x200006 m) (a1 a2) : Keeps m s0 (State.postEntry s a1 a2) := by
  unfold State.postEntry
  repeat' first
    | with_reducible assumption | exact hp.trans rfl | intro _
    | (extract_lets +onlyGivenNames x; refine Keeps.seq (m := m) (s0 := s0) x ?_ ?_; rotate_left; clear_value x; revert x; intro _ _; rotate_left; unfold x; clear x)
    | (extract_lets +onlyGivenNames x; revert x; intro _) | with_reducible apply State.setRing_keeps | with_reducible apply State.tick_keeps
    | with_reducible apply State.count_keeps | with_reducible apply State.addReq_keeps | with_reducible apply State.setQp_keeps | split
    | (clear_value *; split)

theorem State.readSend_keeps {m : Nat} {s0 s : State} (h : Keeps m s0 s) (hp : Sub 0x280006 m) (a1) : Keeps m s0 (State.readSend s a1) := by
  unfold State.readSend
  repeat' first
    | with_reducible assumption | exact hp.trans rfl | intro _
    | (extract_lets +onlyGivenNames x; refine Keeps.seq (m := m) (s0 := s0) x ?_ ?_; rotate_left; clear_value x; revert x; intro _ _; rotate_left; unfold x; clear x)
    | (extract_lets +onlyGivenNames x; revert x; intro _) | with_reducible apply State.ethTx_keeps | with_reducible apply State.setQp_keeps
    | with_reducible apply State.mrSettle_keeps | with_reducible apply State.tick_keeps | split | (clear_value *; split)

theorem State.ackOne_keeps {m : Nat} {s0 s : State} (h : Keeps m s0 s) (hp : Sub 0x280106 m) (a1 a2) : KeepsO m s0 (State.ackOne s a1 a2) := by
  unfold State.ackOne
  repeat' first
    | with_reducible assumption | exact hp.trans rfl | intro _
    | (extract_lets +onlyGivenNames x; refine Keeps.seq (m := m) (s0 := s0) x ?_ ?_; rotate_left; clear_value x; revert x; intro _ _; rotate_left; unfold x; clear x)
    | (extract_lets +onlyGivenNames x; revert x; intro _) | with_reducible apply State.postEntry_keeps
    | with_reducible apply State.ethTx_keeps | with_reducible apply State.setQp_keeps | with_reducible apply State.srelLocal_keeps
    | with_reducible apply State.mrSettle_keeps | with_reducible apply State.tick_keeps | with_reducible apply KeepsO.some_
    | with_reducible apply KeepsO.none_ | with_reducible apply KeepsO.getD | with_reducible refine KeepsO.get (by assumption) ?_ | split
    | (clear_value *; split)

theorem State.roceOut_keeps {m : Nat} {s0 s : State} (h : Keeps m s0 s) (hp : Sub 0x10a8010e m) (a1 a2) : Keeps m s0 (State.roceOut a1 s a2) := by
  induction a1 generalizing s a2 with
  | zero =>
    unfold State.roceOut
    repeat' first
      | with_reducible assumption | exact hp.trans rfl | intro _
      | (extract_lets +onlyGivenNames x; refine Keeps.seq (m := m) (s0 := s0) x ?_ ?_; rotate_left; clear_value x; revert x; intro _ _; rotate_left; unfold x; clear x)
      | (extract_lets +onlyGivenNames x; revert x; intro _) | with_reducible apply State.readSend_keeps
      | with_reducible apply State.visible_keeps | with_reducible apply State.ackOne_keeps | with_reducible apply State.rocePump_keeps
      | with_reducible apply KeepsO.some_ | with_reducible apply KeepsO.none_ | with_reducible apply KeepsO.getD
      | with_reducible refine KeepsO.get (by assumption) ?_ | split | (clear_value *; split)
  | succ _ ih =>
    unfold State.roceOut
    repeat' first
      | with_reducible assumption | with_reducible apply ih | exact hp.trans rfl | intro _
      | (extract_lets +onlyGivenNames x; refine Keeps.seq (m := m) (s0 := s0) x ?_ ?_; rotate_left; clear_value x; revert x; intro _ _; rotate_left; unfold x; clear x)
      | (extract_lets +onlyGivenNames x; revert x; intro _) | with_reducible apply State.readSend_keeps
      | with_reducible apply State.visible_keeps | with_reducible apply State.ackOne_keeps | with_reducible apply State.rocePump_keeps
      | with_reducible apply KeepsO.some_ | with_reducible apply KeepsO.none_ | with_reducible apply KeepsO.getD
      | with_reducible refine KeepsO.get (by assumption) ?_ | split | (clear_value *; split)

theorem State.roceRun_keeps {m : Nat} {s0 s : State} (h : Keeps m s0 s) (hp : Sub 0x10a8010e m) (a1) : Keeps m s0 (State.roceRun s a1) := by
  unfold State.roceRun
  repeat' first
    | with_reducible assumption | exact hp.trans rfl | intro _
    | (extract_lets +onlyGivenNames x; refine Keeps.seq (m := m) (s0 := s0) x ?_ ?_; rotate_left; clear_value x; revert x; intro _ _; rotate_left; unfold x; clear x)
    | (extract_lets +onlyGivenNames x; revert x; intro _) | with_reducible apply State.roceOut_keeps
    | with_reducible apply State.rocePump_keeps | with_reducible apply Keeps.foldl | with_reducible apply Keeps.foldl_fst | split
    | (clear_value *; split)

theorem State.readResponseAct_keeps {m : Nat} {s0 s : State} (h : Keeps m s0 s) (hp : Sub 0x10a8010e m) (a1) : Keeps m s0 (State.readResponseAct s a1) := by
  unfold State.readResponseAct
  repeat' first
    | with_reducible assumption | exact hp.trans rfl | with_reducible apply State.roceRun_keeps | with_reducible apply State.readSend_keeps

theorem State.roceStep_keeps {m : Nat} {s0 s : State} (h : Keeps m s0 s) (hp : Sub 0x18a8010e m) (a1 a2 a3) : Keeps m s0 (State.roceStep s a1 a2 a3) := by
  unfold State.roceStep
  repeat' first
    | with_reducible assumption | exact hp.trans rfl | intro _
    | (extract_lets +onlyGivenNames x; refine Keeps.seq (m := m) (s0 := s0) x ?_ ?_; rotate_left; clear_value x; revert x; intro _ _; rotate_left; unfold x; clear x)
    | (extract_lets +onlyGivenNames x; revert x; intro _) | with_reducible apply State.mrSettle_keeps
    | with_reducible apply State.setQp_keeps | with_reducible apply State.issue_keeps | with_reducible apply State.roceRun_keeps
    | with_reducible apply State.record_keeps | with_reducible apply State.count_keeps | with_reducible apply State.qpFail_keeps | split
    | (clear_value *; split)

theorem State.roceCmp_keeps {m : Nat} {s0 s : State} (h : Keeps m s0 s) (hp : Sub 0x18a8010e m) (a1 a2 a3) : Keeps m s0 (State.roceCmp s a1 a2 a3) := by
  unfold State.roceCmp
  repeat' first
    | with_reducible assumption | exact hp.trans rfl | intro _
    | (extract_lets +onlyGivenNames x; refine Keeps.seq (m := m) (s0 := s0) x ?_ ?_; rotate_left; clear_value x; revert x; intro _ _; rotate_left; unfold x; clear x)
    | (extract_lets +onlyGivenNames x; revert x; intro _) | with_reducible apply State.roceStep_keeps
    | with_reducible apply State.rocePump_keeps | with_reducible apply Keeps.foldl | with_reducible apply Keeps.foldl_fst | split
    | (clear_value *; split)

theorem State.served_keeps {m : Nat} {s0 s : State} (h : Keeps m s0 s) (hp : Sub 0x10a8010e m) (a1 a2 a3 a4 a5) : Keeps m s0 (State.served s a1 a2 a3 a4 a5) := by
  unfold State.served
  repeat' first
    | with_reducible assumption | exact hp.trans rfl | intro _
    | (extract_lets +onlyGivenNames x; refine Keeps.seq (m := m) (s0 := s0) x ?_ ?_; rotate_left; clear_value x; revert x; intro _ _; rotate_left; unfold x; clear x)
    | (extract_lets +onlyGivenNames x; revert x; intro _) | with_reducible apply State.roceRun_keeps
    | with_reducible apply State.count_keeps | with_reducible apply State.setQp_keeps | split | (clear_value *; split)

theorem State.sendCnp_keeps {m : Nat} {s0 s : State} (h : Keeps m s0 s) (hp : Sub 0x280006 m) (a1 a2) : Keeps m s0 (State.sendCnp s a1 a2) := by
  unfold State.sendCnp
  repeat' first
    | with_reducible assumption | exact hp.trans rfl | intro _
    | (extract_lets +onlyGivenNames x; refine Keeps.seq (m := m) (s0 := s0) x ?_ ?_; rotate_left; clear_value x; revert x; intro _ _; rotate_left; unfold x; clear x)
    | (extract_lets +onlyGivenNames x; revert x; intro _) | with_reducible apply State.count_keeps | with_reducible apply State.ethTx_keeps
    | with_reducible apply State.setQp_keeps | split | (clear_value *; split)

theorem State.roceWrites_keeps {m : Nat} {s0 s : State} (h : Keeps m s0 s) (hp : Sub 0x200008 m) (a1 a2 a3 a4 a5 a6) : Keeps m s0 (State.roceWrites s a1 a2 a3 a4 a5 a6) := by
  unfold State.roceWrites
  repeat' first
    | with_reducible assumption | exact hp.trans rfl | intro _ | with_reducible apply State.addData_keeps | with_reducible apply Keeps.foldl
    | with_reducible apply Keeps.foldl_fst

theorem State.serveWrite_keeps {m : Nat} {s0 s : State} (h : Keeps m s0 s) (hp : Sub 0x18a8010e m) (a1 a2 a3 a4) : Keeps m s0 (State.serveWrite s a1 a2 a3 a4) := by
  unfold State.serveWrite
  repeat' first
    | with_reducible assumption | exact hp.trans rfl | intro _
    | (extract_lets +onlyGivenNames x; refine Keeps.seq (m := m) (s0 := s0) x ?_ ?_; rotate_left; clear_value x; revert x; intro _ _; rotate_left; unfold x; clear x)
    | (extract_lets +onlyGivenNames x; revert x; intro _) | with_reducible apply State.qpFail_keeps | with_reducible apply State.tick_keeps
    | with_reducible apply State.count_keeps | with_reducible apply State.ethTx_keeps | with_reducible apply State.setRing_keeps
    | with_reducible apply State.served_keeps | with_reducible apply State.roceWrites_keeps | with_reducible apply State.setQp_keeps | split
    | (clear_value *; split)

theorem State.serveRead_keeps {m : Nat} {s0 s : State} (h : Keeps m s0 s) (hp : Sub 0x18a8010e m) (a1 a2 a3 a4 a5) : Keeps m s0 (State.serveRead s a1 a2 a3 a4 a5) := by
  unfold State.serveRead
  repeat' first
    | with_reducible assumption | exact hp.trans rfl | intro _
    | (extract_lets +onlyGivenNames x; refine Keeps.seq (m := m) (s0 := s0) x ?_ ?_; rotate_left; clear_value x; revert x; intro _ _; rotate_left; unfold x; clear x)
    | (extract_lets +onlyGivenNames x; revert x; intro _) | with_reducible apply State.qpFail_keeps | with_reducible apply State.tick_keeps
    | with_reducible apply State.setQp_keeps | with_reducible apply State.addData_keeps | with_reducible apply State.roceRun_keeps
    | with_reducible apply State.served_keeps | with_reducible apply Keeps.foldl | with_reducible apply Keeps.foldl_fst | split
    | (clear_value *; split)

theorem State.servePacket_keeps {m : Nat} {s0 s : State} (h : Keeps m s0 s) (hp : Sub 0x18a8010e m) (a1 a2 a3 a4) : Keeps m s0 (State.servePacket s a1 a2 a3 a4) := by
  unfold State.servePacket
  repeat' first
    | with_reducible assumption | exact hp.trans rfl | intro _
    | (extract_lets +onlyGivenNames x; refine Keeps.seq (m := m) (s0 := s0) x ?_ ?_; rotate_left; clear_value x; revert x; intro _ _; rotate_left; unfold x; clear x)
    | (extract_lets +onlyGivenNames x; revert x; intro _) | with_reducible apply State.tick_keeps
    | with_reducible apply State.serveRead_keeps | with_reducible apply State.serveWrite_keeps | with_reducible apply State.sendCnp_keeps
    | with_reducible apply State.count_keeps | with_reducible apply State.roceRun_keeps | with_reducible apply State.setQp_keeps
    | with_reducible apply State.ethTx_keeps | split | (clear_value *; split)

theorem State.roceAccept_keeps {m : Nat} {s0 s : State} (h : Keeps m s0 s) (hp : Sub 0x18a8011e m) (a1 a2 a3 a4 a5) : KeepsO m s0 (State.roceAccept s a1 a2 a3 a4 a5) := by
  unfold State.roceAccept
  repeat' first
    | with_reducible assumption | exact hp.trans rfl | intro _
    | (extract_lets +onlyGivenNames x; refine Keeps.seq (m := m) (s0 := s0) x ?_ ?_; rotate_left; clear_value x; revert x; intro _ _; rotate_left; unfold x; clear x)
    | (extract_lets +onlyGivenNames x; revert x; intro _) | with_reducible apply State.cacheQp_keeps
    | with_reducible apply State.servePacket_keeps | with_reducible apply State.count_keeps | with_reducible apply State.pfcUpdate_keeps
    | with_reducible apply State.setEth_keeps | with_reducible apply KeepsO.some_ | with_reducible apply KeepsO.none_
    | with_reducible apply KeepsO.getD | with_reducible refine KeepsO.get (by assumption) ?_ | split | (clear_value *; split)

theorem State.cnpServe_keeps {m : Nat} {s0 s : State} (h : Keeps m s0 s) (hp : Sub 0x200002 m) (a1) : Keeps m s0 (State.cnpServe s a1) := by
  unfold State.cnpServe
  repeat' first
    | with_reducible assumption | exact hp.trans rfl | intro _
    | (extract_lets +onlyGivenNames x; refine Keeps.seq (m := m) (s0 := s0) x ?_ ?_; rotate_left; clear_value x; revert x; intro _ _; rotate_left; unfold x; clear x)
    | (extract_lets +onlyGivenNames x; revert x; intro _) | with_reducible apply State.setQp_keeps | with_reducible apply State.count_keeps
    | split | (clear_value *; split)

theorem State.rocePacketIn_keeps {m : Nat} {s0 s : State} (h : Keeps m s0 s) (hp : Sub 0x18b8011e m) (a1 a2 a3) : Keeps m s0 (State.rocePacketIn s a1 a2 a3) := by
  unfold State.rocePacketIn
  repeat' first
    | with_reducible assumption | exact hp.trans rfl | intro _
    | (extract_lets +onlyGivenNames x; refine Keeps.seq (m := m) (s0 := s0) x ?_ ?_; rotate_left; clear_value x; revert x; intro _ _; rotate_left; unfold x; clear x)
    | (extract_lets +onlyGivenNames x; refine Keeps.seq (m := m) (s0 := s0) x.1 ?_ ?_; rotate_left; clear_value x; revert x; intro _ _; rotate_left; unfold x; clear x)
    | (extract_lets +onlyGivenNames x; revert x; intro _) | with_reducible apply State.ethMeterTest_keeps
    | with_reducible apply State.setEth_keeps | with_reducible apply State.pfcUpdate_keeps | with_reducible apply State.count_keeps
    | with_reducible apply State.cnpServe_keeps | with_reducible apply State.roceAccept_keeps | with_reducible apply KeepsO.some_
    | with_reducible apply KeepsO.none_ | with_reducible apply KeepsO.getD | with_reducible refine KeepsO.get (by assumption) ?_ | split
    | (clear_value *; split) | with_reducible refine Keeps.of_fst (by assumption) ?_

theorem execRdmaWriteFirst_keeps {m : Nat} {s0 s : State} (h : Keeps m s0 s) (hp : Sub 0x18b8011e m) (a1 a2) : Ends m s0 (execRdmaWriteFirst a1 a2 s) := by
  unfold execRdmaWriteFirst
  repeat' first
    | with_reducible assumption | exact hp.trans rfl | with_reducible apply State.rocePacketIn_keeps | with_reducible apply Ends.next

theorem execRdmaWriteMiddle_keeps {m : Nat} {s0 s : State} (h : Keeps m s0 s) (hp : Sub 0x18b8011e m) (a1 a2) : Ends m s0 (execRdmaWriteMiddle a1 a2 s) := by
  unfold execRdmaWriteMiddle
  repeat' first
    | with_reducible assumption | exact hp.trans rfl | with_reducible apply State.rocePacketIn_keeps | with_reducible apply Ends.next

theorem execRdmaWriteLast_keeps {m : Nat} {s0 s : State} (h : Keeps m s0 s) (hp : Sub 0x18b8011e m) (a1 a2) : Ends m s0 (execRdmaWriteLast a1 a2 s) := by
  unfold execRdmaWriteLast
  repeat' first
    | with_reducible assumption | exact hp.trans rfl | with_reducible apply State.rocePacketIn_keeps | with_reducible apply Ends.next

theorem execRdmaWriteOnly_keeps {m : Nat} {s0 s : State} (h : Keeps m s0 s) (hp : Sub 0x18b8011e m) (a1 a2) : Ends m s0 (execRdmaWriteOnly a1 a2 s) := by
  unfold execRdmaWriteOnly
  repeat' first
    | with_reducible assumption | exact hp.trans rfl | with_reducible apply State.rocePacketIn_keeps | with_reducible apply Ends.next

theorem execRdmaWriteLastWithImmediate_keeps {m : Nat} {s0 s : State} (h : Keeps m s0 s) (hp : Sub 0x18b8011e m) (a1 a2) : Ends m s0 (execRdmaWriteLastWithImmediate a1 a2 s) := by
  unfold execRdmaWriteLastWithImmediate
  repeat' first
    | with_reducible assumption | exact hp.trans rfl | with_reducible apply State.rocePacketIn_keeps | with_reducible apply Ends.next

theorem execRdmaWriteOnlyWithImmediate_keeps {m : Nat} {s0 s : State} (h : Keeps m s0 s) (hp : Sub 0x18b8011e m) (a1 a2) : Ends m s0 (execRdmaWriteOnlyWithImmediate a1 a2 s) := by
  unfold execRdmaWriteOnlyWithImmediate
  repeat' first
    | with_reducible assumption | exact hp.trans rfl | with_reducible apply State.rocePacketIn_keeps | with_reducible apply Ends.next

theorem execRdmaReadRequest_keeps {m : Nat} {s0 s : State} (h : Keeps m s0 s) (hp : Sub 0x18b8011e m) (a1 a2) : Ends m s0 (execRdmaReadRequest a1 a2 s) := by
  unfold execRdmaReadRequest
  repeat' first
    | with_reducible assumption | exact hp.trans rfl | with_reducible apply State.rocePacketIn_keeps | with_reducible apply Ends.next

theorem execCnp_keeps {m : Nat} {s0 s : State} (h : Keeps m s0 s) (hp : Sub 0x18b8011e m) (a1 a2) : Ends m s0 (execCnp a1 a2 s) := by
  unfold execCnp
  repeat' first
    | with_reducible assumption | exact hp.trans rfl | with_reducible apply State.rocePacketIn_keeps | with_reducible apply Ends.next

theorem State.rateUp_keeps {m : Nat} {s0 s : State} (h : Keeps m s0 s) (hp : Sub 0x200000 m) (a1) : Keeps m s0 (State.rateUp s a1) := by
  unfold State.rateUp
  repeat' first
    | with_reducible assumption | exact hp.trans rfl | intro _
    | (extract_lets +onlyGivenNames x; refine Keeps.seq (m := m) (s0 := s0) x ?_ ?_; rotate_left; clear_value x; revert x; intro _ _; rotate_left; unfold x; clear x)
    | (extract_lets +onlyGivenNames x; revert x; intro _) | with_reducible apply State.setQp_keeps | split | (clear_value *; split)

theorem execRoceRateIncrease_keeps {m : Nat} {s0 s : State} (h : Keeps m s0 s) (hp : Sub 0x200000 m) (a1) : Ends m s0 (execRoceRateIncrease a1 s) := by
  unfold execRoceRateIncrease
  repeat' first
    | with_reducible assumption | exact hp.trans rfl | intro _ | with_reducible apply State.onlyIf_keeps
    | with_reducible apply State.rateUp_keeps | with_reducible apply Ends.next

theorem State.fetchDone_keeps {m : Nat} {s0 s : State} (h : Keeps m s0 s) (hp : Sub 0x18e8011e m) (a1 a2) : Keeps m s0 (State.fetchDone s a1 a2) := by
  unfold State.fetchDone
  repeat' first
    | with_reducible assumption | exact hp.trans rfl | intro _
    | (extract_lets +onlyGivenNames x; refine Keeps.seq (m := m) (s0 := s0) x ?_ ?_; rotate_left; clear_value x; revert x; intro _ _; rotate_left; unfold x; clear x)
    | (extract_lets +onlyGivenNames x; revert x; intro _) | with_reducible apply State.cacheQp_keeps
    | with_reducible apply State.setEth_keeps | with_reducible apply State.fatalEvent_keeps | with_reducible apply State.qpError_keeps
    | with_reducible apply State.pfcUpdate_keeps | with_reducible apply State.servePacket_keeps | with_reducible apply State.count_keeps
    | with_reducible apply Keeps.foldl | with_reducible apply Keeps.foldl_fst | with_reducible apply KeepsO.some_
    | with_reducible apply KeepsO.none_ | with_reducible apply KeepsO.getD | with_reducible refine KeepsO.get (by assumption) ?_ | split
    | (clear_value *; split)

theorem execQpcFetchDone_keeps {m : Nat} {s0 s : State} (h : Keeps m s0 s) (hp : Sub 0x18e8011e m) (a1 a2) : Ends m s0 (execQpcFetchDone a1 a2 s) := by
  unfold execQpcFetchDone
  repeat' first
    | with_reducible assumption | exact hp.trans rfl | with_reducible apply State.fetchDone_keeps | with_reducible apply Ends.next

theorem State.rawDrop_keeps {m : Nat} {s0 s : State} (h : Keeps m s0 s) (hp : Sub 0x200002 m) : Keeps m s0 (State.rawDrop s) := by
  unfold State.rawDrop
  repeat' first
    | with_reducible assumption | exact hp.trans rfl | intro _
    | (extract_lets +onlyGivenNames x; refine Keeps.seq (m := m) (s0 := s0) x ?_ ?_; rotate_left; clear_value x; revert x; intro _ _; rotate_left; unfold x; clear x)
    | (extract_lets +onlyGivenNames x; revert x; intro _) | with_reducible apply State.setFld_keeps
    | with_reducible refine Keeps.roce (by assumption) (Sub.bit 21 rfl hp)

theorem State.rawWrite_keeps {m : Nat} {s0 s : State} (h : Keeps m s0 s) (hp : Sub 0x10800000 m) : Keeps m s0 (State.rawWrite s) := by
  unfold State.rawWrite
  repeat' first
    | with_reducible assumption | exact hp.trans rfl | intro _
    | (extract_lets +onlyGivenNames x; refine Keeps.seq (m := m) (s0 := s0) x ?_ ?_; rotate_left; clear_value x; revert x; intro _ _; rotate_left; unfold x; clear x)
    | (extract_lets +onlyGivenNames x; revert x; intro _) | with_reducible apply State.issue_keeps | split | (clear_value *; split)

theorem State.rawFrame_keeps {m : Nat} {s0 s : State} (h : Keeps m s0 s) (hp : Sub 0x10a00006 m) (a1 a2) : Keeps m s0 (State.rawFrame s a1 a2) := by
  unfold State.rawFrame
  repeat' first
    | with_reducible assumption | exact hp.trans rfl | intro _
    | (extract_lets +onlyGivenNames x; refine Keeps.seq (m := m) (s0 := s0) x ?_ ?_; rotate_left; clear_value x; revert x; intro _ _; rotate_left; unfold x; clear x)
    | (extract_lets +onlyGivenNames x; revert x; intro _) | with_reducible apply State.tick_keeps | with_reducible apply State.rawDrop_keeps
    | with_reducible apply State.count_keeps | with_reducible apply State.rawWrite_keeps | split | (clear_value *; split)
    | with_reducible refine Keeps.roce (by assumption) (Sub.bit 21 rfl hp)

theorem State.rawWritten_keeps {m : Nat} {s0 s : State} (h : Keeps m s0 s) (hp : Sub 0x10a00106 m) (a1) : Keeps m s0 (State.rawWritten s a1) := by
  unfold State.rawWritten
  repeat' first
    | with_reducible assumption | exact hp.trans rfl | intro _
    | (extract_lets +onlyGivenNames x; refine Keeps.seq (m := m) (s0 := s0) x ?_ ?_; rotate_left; clear_value x; revert x; intro _ _; rotate_left; unfold x; clear x)
    | (extract_lets +onlyGivenNames x; revert x; intro _) | with_reducible apply State.rawDrop_keeps
    | with_reducible apply State.setFld_keeps | with_reducible apply State.srelLocal_keeps | with_reducible apply State.rawWrite_keeps
    | split | (clear_value *; split) | with_reducible refine Keeps.roce (by assumption) (Sub.bit 21 rfl hp)

theorem State.rawPump_keeps {m : Nat} {s0 s : State} (h : Keeps m s0 s) (hp : Sub 0x10b80006 m) (a1 a2) : Keeps m s0 (State.rawPump s a1 a2) := by
  unfold State.rawPump
  repeat' first
    | with_reducible assumption | exact hp.trans rfl | intro _
    | (extract_lets +onlyGivenNames x; refine Keeps.seq (m := m) (s0 := s0) x ?_ ?_; rotate_left; clear_value x; revert x; intro _ _; rotate_left; unfold x; clear x)
    | (extract_lets +onlyGivenNames x; refine Keeps.seq (m := m) (s0 := s0) x.1 ?_ ?_; rotate_left; clear_value x; revert x; intro _ _; rotate_left; unfold x; clear x)
    | (extract_lets +onlyGivenNames x; revert x; intro _) | with_reducible apply State.ethMeterTest_keeps
    | with_reducible apply State.pfcUpdate_keeps | with_reducible apply State.rawFrame_keeps | with_reducible apply State.setEth_keeps
    | split | (clear_value *; split) | with_reducible refine Keeps.of_fst (by assumption) ?_

theorem State.ethFrame_keeps {m : Nat} {s0 s : State} (h : Keeps m s0 s) (hp : Sub 0x18b80006 m) (a1 a2) : Keeps m s0 (State.ethFrame s a1 a2) := by
  unfold State.ethFrame
  repeat' first
    | with_reducible assumption | exact hp.trans rfl | intro _
    | (extract_lets +onlyGivenNames x; refine Keeps.seq (m := m) (s0 := s0) x ?_ ?_; rotate_left; clear_value x; revert x; intro _ _; rotate_left; unfold x; clear x)
    | (extract_lets +onlyGivenNames x; revert x; intro _) | with_reducible apply State.count_keeps | with_reducible apply State.qpFail_keeps
    | with_reducible apply State.pfcUpdate_keeps | with_reducible apply State.setEth_keeps | with_reducible apply State.rawPump_keeps
    | split | (clear_value *; split)

theorem execEthFrame_keeps {m : Nat} {s0 s : State} (h : Keeps m s0 s) (hp : Sub 0x18b80006 m) (a1 a2) : Ends m s0 (execEthFrame a1 a2 s) := by
  unfold execEthFrame
  repeat' first
    | with_reducible assumption | exact hp.trans rfl | with_reducible apply State.ethFrame_keeps | with_reducible apply Ends.next

theorem State.rawTx_keeps {m : Nat} {s0 s : State} (h : Keeps m s0 s) (hp : Sub 0x280006 m) (a1) : Keeps m s0 (State.rawTx s a1) := by
  unfold State.rawTx
  repeat' first
    | with_reducible assumption | exact hp.trans rfl | intro _
    | (extract_lets +onlyGivenNames x; refine Keeps.seq (m := m) (s0 := s0) x ?_ ?_; rotate_left; clear_value x; revert x; intro _ _; rotate_left; unfold x; clear x)
    | (extract_lets +onlyGivenNames x; revert x; intro _) | with_reducible apply State.cfgDo_keeps | with_reducible apply State.setReg_keeps
    | with_reducible apply State.ethTx_keeps | split | (clear_value *; split)

theorem execRawTx_keeps {m : Nat} {s0 s : State} (h : Keeps m s0 s) (hp : Sub 0x280006 m) (a1) : Ends m s0 (execRawTx a1 s) := by
  unfold execRawTx
  repeat' first | with_reducible assumption | exact hp.trans rfl | with_reducible apply State.rawTx_keeps | with_reducible apply Ends.next

theorem State.roceEnable_keeps {m : Nat} {s0 s : State} (h : Keeps m s0 s) (hp : Sub 0x8800006 m) (a1) : Keeps m s0 (State.roceEnable s a1) := by
  unfold State.roceEnable
  repeat' first
    | with_reducible assumption | exact hp.trans rfl | intro _
    | (extract_lets +onlyGivenNames x; refine Keeps.seq (m := m) (s0 := s0) x ?_ ?_; rotate_left; clear_value x; revert x; intro _ _; rotate_left; unfold x; clear x)
    | (extract_lets +onlyGivenNames x; revert x; intro _) | with_reducible apply State.cfgDo_keeps | with_reducible apply State.setReg_keeps
    | with_reducible apply State.setBit_keeps | with_reducible apply State.note_keeps | split | (clear_value *; split)

theorem execRoceEnable_keeps {m : Nat} {s0 s : State} (h : Keeps m s0 s) (hp : Sub 0x8800006 m) (a1) : Ends m s0 (execRoceEnable a1 s) := by
  unfold execRoceEnable
  repeat' first
    | with_reducible assumption | exact hp.trans rfl | with_reducible apply State.roceEnable_keeps | with_reducible apply Ends.next

theorem State.qpCmd_keeps {m : Nat} {s0 s : State} (h : Keeps m s0 s) (hp : Sub 0x6 m) (a1 a2 a3) (hf : ∀ t x1, Keeps m s0 t → Keeps m s0 (a3 t x1)) : Keeps m s0 (State.qpCmd s a1 a2 a3) := by
  unfold State.qpCmd
  repeat' first
    | with_reducible assumption | exact hp.trans rfl | intro _ | with_reducible apply hf
    | (extract_lets +onlyGivenNames x; refine Keeps.seq (m := m) (s0 := s0) x ?_ ?_; rotate_left; clear_value x; revert x; intro _ _; rotate_left; unfold x; clear x)
    | (extract_lets +onlyGivenNames x; revert x; intro _) | with_reducible apply State.cfgDo_keeps | with_reducible apply State.setFld_keeps
    | split | (clear_value *; split)

theorem State.qpCmdEnd_keeps {m : Nat} {s0 s : State} (h : Keeps m s0 s) (hp : Sub 0x2 m) (a1) : Keeps m s0 (State.qpCmdEnd s a1) := by
  unfold State.qpCmdEnd
  repeat' first
    | with_reducible assumption | exact hp.trans rfl | with_reducible apply State.setBit_keeps | with_reducible apply State.setFld_keeps

theorem State.qpCreate_keeps {m : Nat} {s0 s : State} (h : Keeps m s0 s) (hp : Sub 0x18a0001e m) (a1) : Keeps m s0 (State.qpCreate s a1) := by
  unfold State.qpCreate
  repeat' first
    | with_reducible assumption | exact hp.trans rfl | intro _
    | (extract_lets +onlyGivenNames x; refine Keeps.seq (m := m) (s0 := s0) x ?_ ?_; rotate_left; clear_value x; revert x; intro _ _; rotate_left; unfold x; clear x)
    | (extract_lets +onlyGivenNames x; refine Keeps.seq (m := m) (s0 := s0) x.1 ?_ ?_; rotate_left; clear_value x; revert x; intro _ _; rotate_left; unfold x; clear x)
    | (extract_lets +onlyGivenNames x; revert x; intro _) | with_reducible apply State.qpCmd_keeps
    | with_reducible apply State.qpCmdEnd_keeps | with_reducible apply State.setQp_keeps | with_reducible apply State.tickRoce_keeps
    | with_reducible apply State.cacheQp_keeps | with_reducible apply State.spillWrite_keeps | with_reducible apply State.startTwin_keeps
    | with_reducible apply KeepsO.some_ | with_reducible apply KeepsO.none_ | with_reducible apply KeepsO.getD
    | with_reducible refine KeepsO.get (by assumption) ?_ | split | (clear_value *; split)
    | with_reducible refine Keeps.of_fst (by assumption) ?_

theorem execQpCreate_keeps {m : Nat} {s0 s : State} (h : Keeps m s0 s) (hp : Sub 0x18a0001e m) (a1) : Ends m s0 (execQpCreate a1 s) := by
  unfold execQpCreate
  repeat' first
    | with_reducible assumption | exact hp.trans rfl | with_reducible apply State.qpCreate_keeps | with_reducible apply Ends.next

theorem State.qpQuery_keeps {m : Nat} {s0 s : State} (h : Keeps m s0 s) (hp : Sub 0xe m) (a1) : Keeps m s0 (State.qpQuery s a1) := by
  unfold State.qpQuery
  repeat' first
    | with_reducible assumption | exact hp.trans rfl | intro _
    | (extract_lets +onlyGivenNames x; refine Keeps.seq (m := m) (s0 := s0) x ?_ ?_; rotate_left; clear_value x; revert x; intro _ _; rotate_left; unfold x; clear x)
    | (extract_lets +onlyGivenNames x; revert x; intro _) | with_reducible apply State.qpCmd_keeps | with_reducible apply State.setReg_keeps
    | with_reducible apply State.took_keeps | with_reducible apply State.tickRoce_keeps | with_reducible apply State.qpCmdEnd_keeps
    | with_reducible apply Keeps.foldl | with_reducible apply Keeps.foldl_fst | split | (clear_value *; split)

theorem execQpQuery_keeps {m : Nat} {s0 s : State} (h : Keeps m s0 s) (hp : Sub 0xe m) (a1) : Ends m s0 (execQpQuery a1 s) := by
  unfold execQpQuery
  repeat' first | with_reducible assumption | exact hp.trans rfl | with_reducible apply State.qpQuery_keeps | with_reducible apply Ends.next

theorem State.qpFailCmd_keeps {m : Nat} {s0 s : State} (h : Keeps m s0 s) (hp : Sub 0x8a00006 m) (a1) : Keeps m s0 (State.qpFailCmd s a1) := by
  unfold State.qpFailCmd
  repeat' first
    | with_reducible assumption | exact hp.trans rfl | intro _ | with_reducible apply State.qpCmd_keeps
    | with_reducible apply State.qpCmdEnd_keeps | with_reducible apply State.qpError_keeps | with_reducible apply State.tickRoce_keeps
    | split

theorem execQpFail_keeps {m : Nat} {s0 s : State} (h : Keeps m s0 s) (hp : Sub 0x8a00006 m) (a1) : Ends m s0 (execQpFail a1 s) := by
  unfold execQpFail
  repeat' first
    | with_reducible assumption | exact hp.trans rfl | with_reducible apply State.qpFailCmd_keeps | with_reducible apply Ends.next

theorem State.qpReset_keeps {m : Nat} {s0 s : State} (h : Keeps m s0 s) (hp : Sub 0xa00006 m) (a1 a2) : Keeps m s0 (State.qpReset s a1 a2) := by
  unfold State.qpReset
  repeat' first
    | with_reducible assumption | exact hp.trans rfl | intro _
    | (extract_lets +onlyGivenNames x; refine Keeps.seq (m := m) (s0 := s0) x ?_ ?_; rotate_left; clear_value x; revert x; intro _ _; rotate_left; unfold x; clear x)
    | (extract_lets +onlyGivenNames x; revert x; intro _) | with_reducible apply State.dropTwin_keeps
    | with_reducible apply State.unreserve_keeps | with_reducible apply State.mrSettle_keeps | with_reducible apply State.setQp_keeps
    | with_reducible apply Keeps.foldl | with_reducible apply Keeps.foldl_fst
    | with_reducible refine Keeps.roce (by assumption) (Sub.bit 21 rfl hp)

theorem State.qpDestroy_keeps {m : Nat} {s0 s : State} (h : Keeps m s0 s) (hp : Sub 0xa00006 m) (a1) : Keeps m s0 (State.qpDestroy s a1) := by
  unfold State.qpDestroy
  repeat' first
    | with_reducible assumption | exact hp.trans rfl | intro _
    | (extract_lets +onlyGivenNames x; refine Keeps.seq (m := m) (s0 := s0) x ?_ ?_; rotate_left; clear_value x; revert x; intro _ _; rotate_left; unfold x; clear x)
    | (extract_lets +onlyGivenNames x; revert x; intro _) | with_reducible apply State.qpCmd_keeps
    | with_reducible apply State.qpReset_keeps | with_reducible apply State.tickRoce_keeps | with_reducible apply State.setFld_keeps
    | with_reducible apply State.qpCmdEnd_keeps | split | (clear_value *; split)

theorem execQpDestroy_keeps {m : Nat} {s0 s : State} (h : Keeps m s0 s) (hp : Sub 0xa00006 m) (a1) : Ends m s0 (execQpDestroy a1 s) := by
  unfold execQpDestroy
  repeat' first
    | with_reducible assumption | exact hp.trans rfl | with_reducible apply State.qpDestroy_keeps | with_reducible apply Ends.next

theorem State.qpDestroyDone_keeps {m : Nat} {s0 s : State} (h : Keeps m s0 s) (hp : Sub 0x200002 m) (a1) : Keeps m s0 (State.qpDestroyDone s a1) := by
  unfold State.qpDestroyDone
  repeat' first
    | with_reducible assumption | exact hp.trans rfl | intro _
    | (extract_lets +onlyGivenNames x; refine Keeps.seq (m := m) (s0 := s0) x ?_ ?_; rotate_left; clear_value x; revert x; intro _ _; rotate_left; unfold x; clear x)
    | (extract_lets +onlyGivenNames x; revert x; intro _) | with_reducible apply State.qpCmdEnd_keeps
    | with_reducible apply State.setQp_keeps | split | (clear_value *; split)

theorem execQpDestroyDone_keeps {m : Nat} {s0 s : State} (h : Keeps m s0 s) (hp : Sub 0x200002 m) (a1) : Ends m s0 (execQpDestroyDone a1 s) := by
  unfold execQpDestroyDone
  repeat' first
    | with_reducible assumption | exact hp.trans rfl | with_reducible apply State.qpDestroyDone_keeps | with_reducible apply Ends.next

theorem State.dropRemote_keeps {m : Nat} {s0 s : State} (h : Keeps m s0 s) (hp : Sub 0xa00006 m) (a1) : Keeps m s0 (State.dropRemote s a1) := by
  unfold State.dropRemote
  repeat' first
    | with_reducible assumption | exact hp.trans rfl | intro _
    | (extract_lets +onlyGivenNames x; refine Keeps.seq (m := m) (s0 := s0) x ?_ ?_; rotate_left; clear_value x; revert x; intro _ _; rotate_left; unfold x; clear x)
    | (extract_lets +onlyGivenNames x; revert x; intro _) | with_reducible apply State.qpReset_keeps | with_reducible apply State.tick_keeps
    | with_reducible apply State.setMr_keeps | with_reducible apply Keeps.foldl | with_reducible apply Keeps.foldl_fst | split
    | (clear_value *; split)

theorem State.ethDown_keeps {m : Nat} {s0 s : State} (h : Keeps m s0 s) (hp : Sub 0x19ed979e m) (a1) : Keeps m s0 (State.ethDown s a1) := by
  unfold State.ethDown
  repeat' first | with_reducible assumption | exact hp.trans rfl | with_reducible apply State.portGoesDown_keeps | split

theorem execEthLinkDown_keeps {m : Nat} {s0 s : State} (h : Keeps m s0 s) (hp : Sub 0x19ed979e m) (a1) : Ends m s0 (execEthLinkDown a1 s) := by
  unfold execEthLinkDown
  repeat' first | with_reducible assumption | exact hp.trans rfl | with_reducible apply State.ethDown_keeps | with_reducible apply Ends.next

theorem State.ethUp_keeps {m : Nat} {s0 s : State} (h : Keeps m s0 s) (hp : Sub 0x8040002 m) (a1) : Keeps m s0 (State.ethUp s a1) := by
  unfold State.ethUp
  repeat' first
    | with_reducible assumption | exact hp.trans rfl | intro _
    | (extract_lets +onlyGivenNames x; refine Keeps.seq (m := m) (s0 := s0) x ?_ ?_; rotate_left; clear_value x; revert x; intro _ _; rotate_left; unfold x; clear x)
    | (extract_lets +onlyGivenNames x; revert x; intro _) | with_reducible apply State.setFld_keeps
    | with_reducible apply State.setPortCause_keeps | with_reducible apply State.setPortStep_keeps
    | with_reducible apply State.setPortState_keeps | with_reducible apply State.gateTimeSet_keeps
    | with_reducible apply State.setLink_keeps | split | (clear_value *; split)

theorem execEthLinkUp_keeps {m : Nat} {s0 s : State} (h : Keeps m s0 s) (hp : Sub 0x8040002 m) (a1) : Ends m s0 (execEthLinkUp a1 s) := by
  unfold execEthLinkUp
  repeat' first | with_reducible assumption | exact hp.trans rfl | with_reducible apply State.ethUp_keeps | with_reducible apply Ends.next

theorem State.sakInstall_keeps {m : Nat} {s0 s : State} (h : Keeps m s0 s) (hp : Sub 0x200006 m) (a1) : Keeps m s0 (State.sakInstall s a1) := by
  unfold State.sakInstall
  repeat' first
    | with_reducible assumption | exact hp.trans rfl | intro _
    | (extract_lets +onlyGivenNames x; refine Keeps.seq (m := m) (s0 := s0) x ?_ ?_; rotate_left; clear_value x; revert x; intro _ _; rotate_left; unfold x; clear x)
    | (extract_lets +onlyGivenNames x; revert x; intro _) | with_reducible apply State.cfgDo_keeps | with_reducible apply State.setReg_keeps
    | with_reducible apply State.resetReg_keeps | with_reducible apply Keeps.foldl | with_reducible apply Keeps.foldl_fst | split
    | (clear_value *; split) | with_reducible refine Keeps.roce (by assumption) (Sub.bit 21 rfl hp)

theorem execSakInstall_keeps {m : Nat} {s0 s : State} (h : Keeps m s0 s) (hp : Sub 0x200006 m) (a1) : Ends m s0 (execSakInstall a1 s) := by
  unfold execSakInstall
  repeat' first
    | with_reducible assumption | exact hp.trans rfl | with_reducible apply State.sakInstall_keeps | with_reducible apply Ends.next

theorem State.pfcSend_keeps {m : Nat} {s0 s : State} (h : Keeps m s0 s) (hp : Sub 0x200002 m) (a1) : Keeps m s0 (State.pfcSend s a1) := by
  unfold State.pfcSend
  repeat' first
    | with_reducible assumption | exact hp.trans rfl | intro _
    | (extract_lets +onlyGivenNames x; refine Keeps.seq (m := m) (s0 := s0) x ?_ ?_; rotate_left; clear_value x; revert x; intro _ _; rotate_left; unfold x; clear x)
    | (extract_lets +onlyGivenNames x; revert x; intro _) | with_reducible apply State.frameSent_keeps | split | (clear_value *; split)
    | with_reducible refine Keeps.roce (by assumption) (Sub.bit 21 rfl hp)

theorem State.readRefill_keeps {m : Nat} {s0 s : State} (h : Keeps m s0 s) (hp : Sub 0x10a8010e m) : Keeps m s0 (State.readRefill s) := by
  unfold State.readRefill
  repeat' first
    | with_reducible assumption | exact hp.trans rfl | intro _
    | (extract_lets +onlyGivenNames x; refine Keeps.seq (m := m) (s0 := s0) x ?_ ?_; rotate_left; clear_value x; revert x; intro _ _; rotate_left; unfold x; clear x)
    | (extract_lets +onlyGivenNames x; revert x; intro _) | with_reducible apply State.roceRun_keeps | with_reducible apply Keeps.foldl
    | with_reducible apply Keeps.foldl_fst | with_reducible refine Keeps.roce (by assumption) (Sub.bit 21 rfl hp)

theorem State.schedulerRound_keeps {m : Nat} {s0 s : State} (h : Keeps m s0 s) (hp : Sub 0x18bc010e m) : Keeps m s0 (State.schedulerRound s) := by
  unfold State.schedulerRound
  repeat' first
    | with_reducible assumption | exact hp.trans rfl | intro _
    | (extract_lets +onlyGivenNames x; refine Keeps.seq (m := m) (s0 := s0) x ?_ ?_; rotate_left; clear_value x; revert x; intro _ _; rotate_left; unfold x; clear x)
    | (extract_lets +onlyGivenNames x; revert x; intro _) | with_reducible apply State.fabricRound_keeps
    | with_reducible apply State.readRefill_keeps | with_reducible apply State.pfcSend_keeps | with_reducible apply State.rawPump_keeps
    | with_reducible apply Keeps.foldl | with_reducible apply Keeps.foldl_fst | split | (clear_value *; split)

theorem execSchedulerRound_keeps {m : Nat} {s0 s : State} (h : Keeps m s0 s) (hp : Sub 0x18bc010e m) : Ends m s0 (execSchedulerRound s) := by
  unfold execSchedulerRound
  repeat' first
    | with_reducible assumption | exact hp.trans rfl | with_reducible apply State.schedulerRound_keeps | with_reducible apply Ends.next

end Sys2Proof.Machine
end

