-- ==== Sys2Proof/Laws/KeepsTraverse.lean ====
section
/-!
SUPPORT. The operations of Machine/Traverse.lean leave the queue of waiting commands alone and keep the canonical form.
-/
namespace Sys2Proof.Machine

set_option linter.all false

theorem State.travReq_keeps {m : Nat} {s0 s : State} (h : Keeps m s0 s) (hp : Sub 0x10800000 m) (a1 a2 a3 a4 a5 a6 a7 a8) : Keeps m s0 (State.travReq s a1 a2 a3 a4 a5 a6 a7 a8) := by
  unfold State.travReq
  repeat' first
    | with_reducible assumption | exact hp.trans rfl | intro _
    | (extract_lets +onlyGivenNames x; refine Keeps.seq (m := m) (s0 := s0) x ?_ ?_; rotate_left; clear_value x; revert x; intro _ _; rotate_left; unfold x; clear x)
    | (extract_lets +onlyGivenNames x; revert x; intro _) | with_reducible apply State.issue_keeps

theorem State.travRecord_keeps {m : Nat} {s0 s : State} (h : Keeps m s0 s) (hp : Sub 0x10810000 m) (a1 a2 a3 a4 a5 a6 a7 a8 a9) : Keeps m s0 (State.travRecord s a1 a2 a3 a4 a5 a6 a7 a8 a9) := by
  unfold State.travRecord
  repeat' first
    | with_reducible assumption | exact hp.trans rfl | intro _
    | (extract_lets +onlyGivenNames x; refine Keeps.seq (m := m) (s0 := s0) x ?_ ?_; rotate_left; clear_value x; revert x; intro _ _; rotate_left; unfold x; clear x)
    | (extract_lets +onlyGivenNames x; revert x; intro _) | with_reducible apply State.travReq_keeps
    | with_reducible refine Keeps.trav (by assumption) (Sub.bit 16 rfl hp)

theorem State.travRecorded_keeps {m : Nat} {s0 s : State} (h : Keeps m s0 s) (hp : Sub 0x8810106 m) (a1 a2) : Keeps m s0 (State.travRecorded s a1 a2) := by
  unfold State.travRecorded
  repeat' first
    | with_reducible assumption | exact hp.trans rfl | intro _
    | (extract_lets +onlyGivenNames x; refine Keeps.seq (m := m) (s0 := s0) x ?_ ?_; rotate_left; clear_value x; revert x; intro _ _; rotate_left; unfold x; clear x)
    | (extract_lets +onlyGivenNames x; revert x; intro _) | with_reducible apply State.record_keeps
    | with_reducible apply State.srelLocal_keeps | split | (clear_value *; split)
    | with_reducible refine Keeps.trav (by assumption) (Sub.bit 16 rfl hp)

theorem State.travCmdEnd_keeps {m : Nat} {s0 s : State} (h : Keeps m s0 s) (hp : Sub 0x10810000 m) (a1 a2 a3 a4 a5 a6 a7) : Keeps m s0 (State.travCmdEnd s a1 a2 a3 a4 a5 a6 a7) := by
  unfold State.travCmdEnd
  repeat' first
    | with_reducible assumption | exact hp.trans rfl | intro _
    | (extract_lets +onlyGivenNames x; refine Keeps.seq (m := m) (s0 := s0) x ?_ ?_; rotate_left; clear_value x; revert x; intro _ _; rotate_left; unfold x; clear x)
    | (extract_lets +onlyGivenNames x; revert x; intro _) | with_reducible apply State.travRecord_keeps | split | (clear_value *; split)

theorem State.setTravs_keeps {m : Nat} {s0 s : State} (h : Keeps m s0 s) (hp : Sub 0x10000 m) (a1) : Keeps m s0 (State.setTravs s a1) := by
  unfold State.setTravs
  repeat' first
    | with_reducible assumption | intro _
    | (extract_lets +onlyGivenNames x; refine Keeps.seq (m := m) (s0 := s0) x ?_ ?_; rotate_left; clear_value x; revert x; intro _ _; rotate_left; unfold x; clear x)
    | (extract_lets +onlyGivenNames x; revert x; intro _) | with_reducible refine Keeps.trav (by assumption) (Sub.bit 16 rfl hp)

theorem State.setTrav_keeps {m : Nat} {s0 s : State} (h : Keeps m s0 s) (hp : Sub 0x10000 m) (a1 a2) : Keeps m s0 (State.setTrav s a1 a2) := by
  unfold State.setTrav
  repeat' first | with_reducible assumption | exact hp.trans rfl | with_reducible apply State.setTravs_keeps

theorem State.travNote_keeps {m : Nat} {s0 s : State} (h : Keeps m s0 s) (hp : Sub 0x8800006 m) (a1 a2 a3 a4 a5 a6 a7) : Keeps m s0 (State.travNote s a1 a2 a3 a4 a5 a6 a7) := by
  unfold State.travNote
  repeat' first | with_reducible assumption | exact hp.trans rfl | with_reducible apply State.record_keeps

theorem State.dropTravReqs_keeps {m : Nat} {s0 s : State} (h : Keeps m s0 s) (hp : Sub 0x800000 m) (a1) : Keeps m s0 (State.dropTravReqs s a1) := by
  unfold State.dropTravReqs
  repeat' first
    | with_reducible assumption | intro _
    | (extract_lets +onlyGivenNames x; refine Keeps.seq (m := m) (s0 := s0) x ?_ ?_; rotate_left; clear_value x; revert x; intro _ _; rotate_left; unfold x; clear x)
    | (extract_lets +onlyGivenNames x; revert x; intro _) | split | (clear_value *; split)
    | with_reducible refine Keeps.recov (by assumption) (Sub.bit 23 rfl hp)

theorem State.travEnd_keeps {m : Nat} {s0 s : State} (h : Keeps m s0 s) (hp : Sub 0x10810002 m) (a1 a2 a3) : Keeps m s0 (State.travEnd s a1 a2 a3) := by
  unfold State.travEnd
  repeat' first
    | with_reducible assumption | exact hp.trans rfl | intro _
    | (extract_lets +onlyGivenNames x; refine Keeps.seq (m := m) (s0 := s0) x ?_ ?_; rotate_left; clear_value x; revert x; intro _ _; rotate_left; unfold x; clear x)
    | (extract_lets +onlyGivenNames x; revert x; intro _) | with_reducible apply State.count_keeps
    | with_reducible apply State.setTravs_keeps | with_reducible apply State.dropTravReqs_keeps | with_reducible apply State.dropTwin_keeps
    | with_reducible apply State.travRecord_keeps | with_reducible apply State.travCmdEnd_keeps | with_reducible apply Keeps.foldl
    | with_reducible apply Keeps.foldl_fst | split | (clear_value *; split)

theorem State.backSacq_keeps {m : Nat} {s0 s : State} (h : Keeps m s0 s) (hp : Sub 0x10800000 m) (a1 a2 a3) : Keeps m s0 (State.backSacq s a1 a2 a3) := by
  unfold State.backSacq
  repeat' first
    | with_reducible assumption | exact hp.trans rfl | intro _
    | (extract_lets +onlyGivenNames x; refine Keeps.seq (m := m) (s0 := s0) x ?_ ?_; rotate_left; clear_value x; revert x; intro _ _; rotate_left; unfold x; clear x)
    | (extract_lets +onlyGivenNames x; revert x; intro _) | with_reducible apply State.travReq_keeps

theorem State.legBegin_keeps {m : Nat} {s0 s : State} (h : Keeps m s0 s) (hp : Sub 0x10810000 m) (a1 a2) : Keeps m s0 (State.legBegin s a1 a2) := by
  unfold State.legBegin
  repeat' first
    | with_reducible assumption | exact hp.trans rfl | intro _
    | (extract_lets +onlyGivenNames x; refine Keeps.seq (m := m) (s0 := s0) x ?_ ?_; rotate_left; clear_value x; revert x; intro _ _; rotate_left; unfold x; clear x)
    | (extract_lets +onlyGivenNames x; revert x; intro _) | with_reducible apply State.backSacq_keeps
    | with_reducible apply State.setTrav_keeps | with_reducible apply Keeps.foldl | with_reducible apply Keeps.foldl_fst | split
    | (clear_value *; split)

theorem State.legEnds_keeps {m : Nat} {s0 s : State} (h : Keeps m s0 s) (hp : Sub 0x10810002 m) (a1) : Keeps m s0 (State.legEnds s a1) := by
  unfold State.legEnds
  repeat' first
    | with_reducible assumption | exact hp.trans rfl | intro _
    | (extract_lets +onlyGivenNames x; refine Keeps.seq (m := m) (s0 := s0) x ?_ ?_; rotate_left; clear_value x; revert x; intro _ _; rotate_left; unfold x; clear x)
    | (extract_lets +onlyGivenNames x; revert x; intro _) | with_reducible apply State.travEnd_keeps
    | with_reducible apply State.setTrav_keeps | with_reducible apply State.legBegin_keeps | split | (clear_value *; split)

theorem State.memberFails_keeps {m : Nat} {s0 s : State} (h : Keeps m s0 s) (hp : Sub 0x18810006 m) (a1 a2) : Keeps m s0 (State.memberFails s a1 a2) := by
  unfold State.memberFails
  repeat' first
    | with_reducible assumption | exact hp.trans rfl | intro _
    | (extract_lets +onlyGivenNames x; refine Keeps.seq (m := m) (s0 := s0) x ?_ ?_; rotate_left; clear_value x; revert x; intro _ _; rotate_left; unfold x; clear x)
    | (extract_lets +onlyGivenNames x; revert x; intro _) | with_reducible apply State.travNote_keeps
    | with_reducible apply State.legEnds_keeps | with_reducible apply State.setTrav_keeps | split | (clear_value *; split)

theorem State.backCmp_keeps {m : Nat} {s0 s : State} (h : Keeps m s0 s) (hp : Sub 0x18810006 m) (a1 a2 a3) : Keeps m s0 (State.backCmp s a1 a2 a3) := by
  unfold State.backCmp
  repeat' first
    | with_reducible assumption | exact hp.trans rfl | with_reducible apply State.setTrav_keeps | with_reducible apply State.backSacq_keeps
    | with_reducible apply State.count_keeps | with_reducible apply State.memberFails_keeps | split

theorem State.bmkCast_keeps {m : Nat} {s0 s : State} (h : Keeps m s0 s) (hp : Sub 0x10000000 m) (a1 a2 a3 a4 a5 a6) : Keeps m s0 (State.bmkCast s a1 a2 a3 a4 a5 a6) := by
  unfold State.bmkCast
  repeat' first
    | with_reducible assumption | exact hp.trans rfl | intro _
    | (extract_lets +onlyGivenNames x; refine Keeps.seq (m := m) (s0 := s0) x ?_ ?_; rotate_left; clear_value x; revert x; intro _ _; rotate_left; unfold x; clear x)
    | (extract_lets +onlyGivenNames x; revert x; intro _) | with_reducible apply State.send_keeps | with_reducible apply Keeps.foldl
    | with_reducible apply Keeps.foldl_fst | split | (clear_value *; split)

theorem State.travArrival_keeps {m : Nat} {s0 s : State} (h : Keeps m s0 s) (hp : Sub 0x10810002 m) (a1 a2) : Keeps m s0 (State.travArrival s a1 a2) := by
  unfold State.travArrival
  repeat' first
    | with_reducible assumption | exact hp.trans rfl | intro _
    | (extract_lets +onlyGivenNames x; refine Keeps.seq (m := m) (s0 := s0) x ?_ ?_; rotate_left; clear_value x; revert x; intro _ _; rotate_left; unfold x; clear x)
    | (extract_lets +onlyGivenNames x; revert x; intro _) | with_reducible apply State.travEnd_keeps
    | with_reducible apply State.setTrav_keeps | split | (clear_value *; split)

theorem State.benchAccept_keeps {m : Nat} {s0 s : State} (h : Keeps m s0 s) (hp : Sub 0x18914006 m) (a1 a2 a3 a4) : Keeps m s0 (State.benchAccept s a1 a2 a3 a4) := by
  unfold State.benchAccept
  repeat' first
    | with_reducible assumption | exact hp.trans rfl | intro _
    | (extract_lets +onlyGivenNames x; refine Keeps.seq (m := m) (s0 := s0) x ?_ ?_; rotate_left; clear_value x; revert x; intro _ _; rotate_left; unfold x; clear x)
    | (extract_lets +onlyGivenNames x; revert x; intro _) | with_reducible apply State.count_keeps
    | with_reducible apply State.gateAnchor_keeps | with_reducible apply State.send_keeps | with_reducible apply State.bmkCast_keeps
    | with_reducible apply State.planBenchmark_keeps | with_reducible apply State.travArrival_keeps | with_reducible apply Keeps.foldl
    | with_reducible apply Keeps.foldl_fst | split | (clear_value *; split)
    | with_reducible refine Keeps.trav (by assumption) (Sub.bit 16 rfl hp)

theorem State.benchDrop_keeps {m : Nat} {s0 s : State} (h : Keeps m s0 s) (hp : Sub 0x8800002 m) (a1 a2 a3) : Keeps m s0 (State.benchDrop s a1 a2 a3) := by
  unfold State.benchDrop
  repeat' first
    | with_reducible assumption | exact hp.trans rfl | intro _
    | (extract_lets +onlyGivenNames x; refine Keeps.seq (m := m) (s0 := s0) x ?_ ?_; rotate_left; clear_value x; revert x; intro _ _; rotate_left; unfold x; clear x)
    | (extract_lets +onlyGivenNames x; revert x; intro _) | with_reducible apply State.count_keeps | with_reducible apply State.note_keeps
    | split | (clear_value *; split)

theorem State.bmk_keeps {m : Nat} {s0 s : State} (h : Keeps m s0 s) (hp : Sub 0x18914006 m) (a1) : Keeps m s0 (State.bmk s a1) := by
  unfold State.bmk
  repeat' first
    | with_reducible assumption | exact hp.trans rfl | intro _
    | (extract_lets +onlyGivenNames x; refine Keeps.seq (m := m) (s0 := s0) x ?_ ?_; rotate_left; clear_value x; revert x; intro _ _; rotate_left; unfold x; clear x)
    | (extract_lets +onlyGivenNames x; revert x; intro _) | with_reducible apply State.tick_keeps
    | with_reducible apply State.benchAccept_keeps | with_reducible apply State.benchDrop_keeps | split | (clear_value *; split)

theorem execBmk_keeps {m : Nat} {s0 s : State} (h : Keeps m s0 s) (hp : Sub 0x18914006 m) (a1) : Ends m s0 (execBmk a1 s) := by
  unfold execBmk
  repeat' first | with_reducible assumption | exact hp.trans rfl | with_reducible apply State.bmk_keeps | with_reducible apply Ends.next

theorem State.benchInject_keeps {m : Nat} {s0 s : State} (h : Keeps m s0 s) (hp : Sub 0x18914006 m) (a1) : Keeps m s0 (State.benchInject s a1) := by
  unfold State.benchInject
  repeat' first
    | with_reducible assumption | exact hp.trans rfl | intro _
    | (extract_lets +onlyGivenNames x; refine Keeps.seq (m := m) (s0 := s0) x ?_ ?_; rotate_left; clear_value x; revert x; intro _ _; rotate_left; unfold x; clear x)
    | (extract_lets +onlyGivenNames x; revert x; intro _) | with_reducible apply State.cfgDo_keeps | with_reducible apply State.setReg_keeps
    | with_reducible apply State.tick_keeps | with_reducible apply State.benchDrop_keeps | with_reducible apply State.benchAccept_keeps
    | with_reducible apply State.bmkCast_keeps | split | (clear_value *; split)

theorem execBenchmarkInject_keeps {m : Nat} {s0 s : State} (h : Keeps m s0 s) (hp : Sub 0x18914006 m) (a1) : Ends m s0 (execBenchmarkInject a1 s) := by
  unfold execBenchmarkInject
  repeat' first
    | with_reducible assumption | exact hp.trans rfl | with_reducible apply State.benchInject_keeps | with_reducible apply Ends.next

theorem State.travStart_keeps {m : Nat} {s0 s : State} (h : Keeps m s0 s) (hp : Sub 0x1881000e m) (a1 a2 a3) : Keeps m s0 (State.travStart s a1 a2 a3) := by
  unfold State.travStart
  repeat' first
    | with_reducible assumption | exact hp.trans rfl | intro _ | with_reducible apply hF
    | (extract_lets +onlyGivenNames x; refine Keeps.seq (m := m) (s0 := s0) x ?_ ?_; rotate_left; clear_value x; revert x; intro _ _; rotate_left; unfold x; clear x)
    | (extract_lets +onlyGivenNames x; refine Keeps.seq (m := m) (s0 := s0) x.1 ?_ ?_; rotate_left; clear_value x; revert x; intro _ _; rotate_left; unfold x; clear x)
    | (extract_lets +onlyGivenNames x; refine Keeps.seqF (m := m) (s0 := s0) x ?_ ?_; rotate_left; clear_value x; revert x; intro _ hF; rotate_left; unfold x; clear x)
    | (extract_lets +onlyGivenNames x; refine Keeps.seqG (m := m) (s0 := s0) x ?_ ?_; rotate_left; clear_value x; revert x; intro _ hF; rotate_left; unfold x; clear x)
    | (extract_lets +onlyGivenNames x; refine Keeps.seqH (m := m) (s0 := s0) x ?_ ?_; rotate_left; clear_value x; revert x; intro _ hF; rotate_left; unfold x; clear x)
    | (extract_lets +onlyGivenNames x; revert x; intro _) | with_reducible apply State.travCmdEnd_keeps
    | with_reducible apply State.startTwin_keeps | with_reducible apply State.legBegin_keeps | split | (clear_value *; split)
    | with_reducible refine Keeps.of_fst (by assumption) ?_

theorem State.travStop_keeps {m : Nat} {s0 s : State} (h : Keeps m s0 s) (hp : Sub 0x10810002 m) (a1 a2 a3) : Keeps m s0 (State.travStop s a1 a2 a3) := by
  unfold State.travStop
  repeat' first
    | with_reducible assumption | exact hp.trans rfl | intro _
    | (extract_lets +onlyGivenNames x; refine Keeps.seq (m := m) (s0 := s0) x ?_ ?_; rotate_left; clear_value x; revert x; intro _ _; rotate_left; unfold x; clear x)
    | (extract_lets +onlyGivenNames x; revert x; intro _) | with_reducible apply State.travCmdEnd_keeps
    | with_reducible apply State.setTrav_keeps | with_reducible apply State.travEnd_keeps | split | (clear_value *; split)

theorem State.travQueue_keeps {m : Nat} {s0 s : State} (h : Keeps m s0 s) (hp : Sub 0x1881000e m) (a1 a2) : Keeps m s0 (State.travQueue s a1 a2) := by
  unfold State.travQueue
  repeat' first
    | with_reducible assumption | exact hp.trans rfl | intro _
    | (extract_lets +onlyGivenNames x; refine Keeps.seq (m := m) (s0 := s0) x ?_ ?_; rotate_left; clear_value x; revert x; intro _ _; rotate_left; unfold x; clear x)
    | (extract_lets +onlyGivenNames x; revert x; intro _) | with_reducible apply State.complete_keeps
    | with_reducible apply State.travStart_keeps | with_reducible apply State.travStop_keeps | with_reducible apply State.travCmdEnd_keeps
    | split | (clear_value *; split)

theorem State.travDoor_keeps {m : Nat} {s0 s : State} (h : Keeps m s0 s) (hp : Sub 0x1881040e m) (a1 a2) : Keeps m s0 (State.travDoor s a1 a2) := by
  unfold State.travDoor
  repeat' first
    | with_reducible assumption | exact hp.trans rfl | intro _
    | (extract_lets +onlyGivenNames x; refine Keeps.seq (m := m) (s0 := s0) x ?_ ?_; rotate_left; clear_value x; revert x; intro _ _; rotate_left; unfold x; clear x)
    | (extract_lets +onlyGivenNames x; revert x; intro _) | with_reducible apply State.tick_keeps
    | with_reducible apply State.complete_keeps | with_reducible apply State.travQueue_keeps | with_reducible apply State.holdDoor_keeps
    | split | (clear_value *; split)

theorem execTraverseStart_keeps {m : Nat} {s0 s : State} (h : Keeps m s0 s) (hp : Sub 0x1881040e m) (a1) : Ends m s0 (execTraverseStart a1 s) := by
  unfold execTraverseStart
  repeat' first
    | with_reducible assumption | exact hp.trans rfl | with_reducible apply State.travDoor_keeps | with_reducible apply Ends.next

theorem execTraverseStop_keeps {m : Nat} {s0 s : State} (h : Keeps m s0 s) (hp : Sub 0x1881040e m) (a1) : Ends m s0 (execTraverseStop a1 s) := by
  unfold execTraverseStop
  repeat' first
    | with_reducible assumption | exact hp.trans rfl | with_reducible apply State.travDoor_keeps | with_reducible apply Ends.next

theorem State.setDest_keeps {m : Nat} {s0 s : State} (h : Keeps m s0 s) (hp : Sub 0x10000 m) (a1) : Keeps m s0 (State.setDest s a1) := by
  unfold State.setDest
  repeat' first
    | with_reducible assumption | intro _
    | (extract_lets +onlyGivenNames x; refine Keeps.seq (m := m) (s0 := s0) x ?_ ?_; rotate_left; clear_value x; revert x; intro _ _; rotate_left; unfold x; clear x)
    | (extract_lets +onlyGivenNames x; revert x; intro _) | split | (clear_value *; split)
    | with_reducible refine Keeps.trav (by assumption) (Sub.bit 16 rfl hp)

theorem State.windowWrite_keeps {m : Nat} {s0 s : State} (h : Keeps m s0 s) (hp : Sub 0x10810002 m) (a1 a2 a3 a4) : Keeps m s0 (State.windowWrite s a1 a2 a3 a4) := by
  unfold State.windowWrite
  repeat' first
    | with_reducible assumption | exact hp.trans rfl | intro _
    | (extract_lets +onlyGivenNames x; refine Keeps.seq (m := m) (s0 := s0) x ?_ ?_; rotate_left; clear_value x; revert x; intro _ _; rotate_left; unfold x; clear x)
    | (extract_lets +onlyGivenNames x; revert x; intro _) | with_reducible apply State.setDest_keeps
    | with_reducible apply State.travReq_keeps | with_reducible apply State.count_keeps | split | (clear_value *; split)

theorem State.expandLeg_keeps {m : Nat} {s0 s : State} (h : Keeps m s0 s) (hp : Sub 0x18810006 m) (a1) : Keeps m s0 (State.expandLeg s a1) := by
  unfold State.expandLeg
  repeat' first
    | with_reducible assumption | exact hp.trans rfl | intro _
    | (extract_lets +onlyGivenNames x; refine Keeps.seq (m := m) (s0 := s0) x ?_ ?_; rotate_left; clear_value x; revert x; intro _ _; rotate_left; unfold x; clear x)
    | (extract_lets +onlyGivenNames x; revert x; intro _) | with_reducible apply State.count_keeps
    | with_reducible apply State.windowWrite_keeps | with_reducible apply State.travNote_keeps | with_reducible apply State.setDest_keeps
    | with_reducible apply Keeps.foldl | with_reducible apply Keeps.foldl_fst | split | (clear_value *; split)

theorem State.legPart_keeps {m : Nat} {s0 s : State} (h : Keeps m s0 s) (hp : Sub 0x18810006 m) (a1 a2 a3 a4) : Keeps m s0 (State.legPart s a1 a2 a3 a4) := by
  unfold State.legPart
  repeat' first
    | with_reducible assumption | exact hp.trans rfl | intro _
    | (extract_lets +onlyGivenNames x; refine Keeps.seq (m := m) (s0 := s0) x ?_ ?_; rotate_left; clear_value x; revert x; intro _ _; rotate_left; unfold x; clear x)
    | (extract_lets +onlyGivenNames x; revert x; intro _) | with_reducible apply State.setDest_keeps
    | with_reducible apply State.expandLeg_keeps | with_reducible apply State.windowWrite_keeps | split | (clear_value *; split)

theorem State.legReported_keeps {m : Nat} {s0 s : State} (h : Keeps m s0 s) (hp : Sub 0x18810006 m) (a1 a2 a3 a4 a5 a6) : Keeps m s0 (State.legReported s a1 a2 a3 a4 a5 a6) := by
  unfold State.legReported
  repeat' first
    | with_reducible assumption | exact hp.trans rfl | intro _
    | (extract_lets +onlyGivenNames x; refine Keeps.seq (m := m) (s0 := s0) x ?_ ?_; rotate_left; clear_value x; revert x; intro _ _; rotate_left; unfold x; clear x)
    | (extract_lets +onlyGivenNames x; revert x; intro _) | with_reducible apply State.travNote_keeps
    | with_reducible apply State.legEnds_keeps | with_reducible apply State.setTrav_keeps | split | (clear_value *; split)

theorem State.report_keeps {m : Nat} {s0 s : State} (h : Keeps m s0 s) (hp : Sub 0x18810006 m) (a1 a2 a3 a4 a5 a6 a7 a8) : Keeps m s0 (State.report s a1 a2 a3 a4 a5 a6 a7 a8) := by
  unfold State.report
  repeat' first
    | with_reducible assumption | exact hp.trans rfl | with_reducible apply State.legReported_keeps | with_reducible apply State.send_keeps
    | split

theorem State.legArrives_keeps {m : Nat} {s0 s : State} (h : Keeps m s0 s) (hp : Sub 0x18810006 m) (a1 a2 a3 a4 a5 a6) : Keeps m s0 (State.legArrives s a1 a2 a3 a4 a5 a6) := by
  unfold State.legArrives
  repeat' first
    | with_reducible assumption | exact hp.trans rfl | intro _
    | (extract_lets +onlyGivenNames x; refine Keeps.seq (m := m) (s0 := s0) x ?_ ?_; rotate_left; clear_value x; revert x; intro _ _; rotate_left; unfold x; clear x)
    | (extract_lets +onlyGivenNames x; revert x; intro _) | with_reducible apply State.report_keeps
    | with_reducible apply State.legPart_keeps | split | (clear_value *; split)
    | with_reducible refine Keeps.trav (by assumption) (Sub.bit 16 rfl hp)

theorem State.trvdArrives_keeps {m : Nat} {s0 s : State} (h : Keeps m s0 s) (hp : Sub 0x18810006 m) (a1 a2) : Keeps m s0 (State.trvdArrives s a1 a2) := by
  unfold State.trvdArrives
  repeat' first | with_reducible assumption | exact hp.trans rfl | with_reducible apply State.legArrives_keeps | split

theorem execTrvd_keeps {m : Nat} {s0 s : State} (h : Keeps m s0 s) (hp : Sub 0x1881000e m) (a1 a2) : Ends m s0 (execTrvd a1 a2 s) := by
  unfold execTrvd
  repeat' first
    | with_reducible assumption | exact hp.trans rfl | with_reducible apply State.trvdArrives_keeps | with_reducible apply State.heed_keeps
    | with_reducible apply Ends.next | with_reducible refine Keeps.of_fst (by assumption) ?_

theorem State.trvrArrives_keeps {m : Nat} {s0 s : State} (h : Keeps m s0 s) (hp : Sub 0x18810006 m) (a1) : Keeps m s0 (State.trvrArrives s a1) := by
  unfold State.trvrArrives
  repeat' first
    | with_reducible assumption | exact hp.trans rfl | intro _
    | (extract_lets +onlyGivenNames x; refine Keeps.seq (m := m) (s0 := s0) x ?_ ?_; rotate_left; clear_value x; revert x; intro _ _; rotate_left; unfold x; clear x)
    | (extract_lets +onlyGivenNames x; revert x; intro _) | with_reducible apply State.legReported_keeps

theorem execTrvr_keeps {m : Nat} {s0 s : State} (h : Keeps m s0 s) (hp : Sub 0x1881000e m) (a1) : Ends m s0 (execTrvr a1 s) := by
  unfold execTrvr
  repeat' first
    | with_reducible assumption | exact hp.trans rfl | with_reducible apply State.trvrArrives_keeps | with_reducible apply State.heed_keeps
    | with_reducible apply Ends.next | with_reducible refine Keeps.of_fst (by assumption) ?_

theorem State.dropDest_keeps {m : Nat} {s0 s : State} (h : Keeps m s0 s) (hp : Sub 0x10000 m) (a1) : Keeps m s0 (State.dropDest s a1) := by
  unfold State.dropDest
  repeat' first
    | with_reducible assumption | intro _
    | (extract_lets +onlyGivenNames x; refine Keeps.seq (m := m) (s0 := s0) x ?_ ?_; rotate_left; clear_value x; revert x; intro _ _; rotate_left; unfold x; clear x)
    | (extract_lets +onlyGivenNames x; revert x; intro _) | with_reducible refine Keeps.trav (by assumption) (Sub.bit 16 rfl hp)

theorem State.legWritesDone_keeps {m : Nat} {s0 s : State} (h : Keeps m s0 s) (hp : Sub 0x1881000e m) (a1 a2) : Keeps m s0 (State.legWritesDone s a1 a2) := by
  unfold State.legWritesDone
  repeat' first
    | with_reducible assumption | exact hp.trans rfl | intro _
    | (extract_lets +onlyGivenNames x; refine Keeps.seq (m := m) (s0 := s0) x ?_ ?_; rotate_left; clear_value x; revert x; intro _ _; rotate_left; unfold x; clear x)
    | (extract_lets +onlyGivenNames x; revert x; intro _) | with_reducible apply State.took_keeps | with_reducible apply State.report_keeps
    | with_reducible apply State.dropDest_keeps | with_reducible apply State.count_keeps | with_reducible apply State.setDest_keeps
    | with_reducible apply State.travReq_keeps | split | (clear_value *; split)

theorem execLegWritesDone_keeps {m : Nat} {s0 s : State} (h : Keeps m s0 s) (hp : Sub 0x1881000e m) (a1 a2) : Ends m s0 (execLegWritesDone a1 a2 s) := by
  unfold execLegWritesDone
  repeat' first
    | with_reducible assumption | exact hp.trans rfl | with_reducible apply State.legWritesDone_keeps | with_reducible apply Ends.next

theorem State.destCmp_keeps {m : Nat} {s0 s : State} (h : Keeps m s0 s) (hp : Sub 0x18810106 m) (a1 a2 a3) : Keeps m s0 (State.destCmp s a1 a2 a3) := by
  unfold State.destCmp
  repeat' first
    | with_reducible assumption | exact hp.trans rfl | intro _
    | (extract_lets +onlyGivenNames x; refine Keeps.seq (m := m) (s0 := s0) x ?_ ?_; rotate_left; clear_value x; revert x; intro _ _; rotate_left; unfold x; clear x)
    | (extract_lets +onlyGivenNames x; revert x; intro _) | with_reducible apply State.setDest_keeps
    | with_reducible apply State.dropDest_keeps | with_reducible apply State.record_keeps | with_reducible apply State.report_keeps
    | with_reducible apply State.srelLocal_keeps | split | (clear_value *; split)
    | with_reducible refine Keeps.trav (by assumption) (Sub.bit 16 rfl hp)

theorem State.askSource_keeps {m : Nat} {s0 s : State} (h : Keeps m s0 s) (hp : Sub 0x10800008 m) (a1 a2 a3 a4 a5 a6 a7) : Keeps m s0 (State.askSource s a1 a2 a3 a4 a5 a6 a7) := by
  unfold State.askSource
  extract_lets g r
  exact State.travReq_keeps (State.coherentAt_keeps h (hp.trans rfl) _) (hp.trans rfl) _ _ _ _ _ _ _ _

theorem State.askPages_keeps {m : Nat} {s0 s : State} (h : Keeps m s0 s) (hp : Sub 0x10800008 m) (a1 a2 a3 a4 a5) : Keeps m s0 (State.askPages s a1 a2 a3 a4 a5) := by
  unfold State.askPages
  repeat' first
    | with_reducible assumption | exact hp.trans rfl | intro _ | with_reducible apply State.askSource_keeps
    | with_reducible apply Keeps.foldl | with_reducible apply Keeps.foldl_fst

theorem State.askLines_keeps {m : Nat} {s0 s : State} (h : Keeps m s0 s) (hp : Sub 0x10800008 m) (a1 a2 a3 a4 a5 a6) : Keeps m s0 (State.askLines s a1 a2 a3 a4 a5 a6) := by
  unfold State.askLines
  repeat' first
    | with_reducible assumption | exact hp.trans rfl | intro _ | with_reducible apply State.askSource_keeps
    | with_reducible apply Keeps.foldl | with_reducible apply Keeps.foldl_fst

theorem State.awaitUnit_keeps {m : Nat} {s0 s : State} (h : Keeps m s0 s) (hp : Sub 0x800000 m) (a1 a2 a3) : Keeps m s0 (State.awaitUnit s a1 a2 a3) := by
  unfold State.awaitUnit
  repeat' first
    | with_reducible assumption | intro _
    | (extract_lets +onlyGivenNames x; refine Keeps.seq (m := m) (s0 := s0) x ?_ ?_; rotate_left; clear_value x; revert x; intro _ _; rotate_left; unfold x; clear x)
    | (extract_lets +onlyGivenNames x; revert x; intro _) | with_reducible refine Keeps.recov (by assumption) (Sub.bit 23 rfl hp)

theorem State.sendPart_keeps {m : Nat} {s0 s : State} (h : Keeps m s0 s) (hp : Sub 0x18810006 m) (a1 a2 a3 a4 a5) : Keeps m s0 (State.sendPart s a1 a2 a3 a4 a5) := by
  unfold State.sendPart
  repeat' first
    | with_reducible assumption | exact hp.trans rfl | intro _
    | (extract_lets +onlyGivenNames x; refine Keeps.seq (m := m) (s0 := s0) x ?_ ?_; rotate_left; clear_value x; revert x; intro _ _; rotate_left; unfold x; clear x)
    | (extract_lets +onlyGivenNames x; revert x; intro _) | with_reducible apply State.send_keeps
    | with_reducible apply State.legArrives_keeps | with_reducible apply Keeps.foldl | with_reducible apply Keeps.foldl_fst | split
    | (clear_value *; split)

theorem State.sendFilled_keeps {m : Nat} {s0 s : State} (h : Keeps m s0 s) (hp : Sub 0x18810006 m) (a1 a2 a3 a4) : Keeps m s0 (State.sendFilled s a1 a2 a3 a4) := by
  unfold State.sendFilled
  repeat' first
    | with_reducible assumption | exact hp.trans rfl | intro _
    | (extract_lets +onlyGivenNames x; refine Keeps.seq (m := m) (s0 := s0) x ?_ ?_; rotate_left; clear_value x; revert x; intro _ _; rotate_left; unfold x; clear x)
    | (extract_lets +onlyGivenNames x; revert x; intro _) | with_reducible apply State.sendPart_keeps | with_reducible apply Keeps.foldl
    | with_reducible apply Keeps.foldl_fst | split | (clear_value *; split)

theorem State.unitPage_keeps {m : Nat} {s0 s : State} (h : Keeps m s0 s) (hp : Sub 0x402 m) (a1 a2 a3) : Keeps m s0 (State.unitPage s a1 a2 a3).1 := by
  unfold State.unitPage
  repeat' first
    | with_reducible assumption | exact hp.trans rfl | intro _
    | (extract_lets +onlyGivenNames x; refine Keeps.seq (m := m) (s0 := s0) x ?_ ?_; rotate_left; clear_value x; revert x; intro _ _; rotate_left; unfold x; clear x)
    | (extract_lets +onlyGivenNames x; refine Keeps.seq (m := m) (s0 := s0) x.1 ?_ ?_; rotate_left; clear_value x; revert x; intro _ _; rotate_left; unfold x; clear x)
    | (extract_lets +onlyGivenNames x; revert x; intro _) | with_reducible apply State.objReadCount_keeps | split | (clear_value *; split)
    | with_reducible refine Keeps.of_fst (by assumption) ?_

theorem State.legSend_keeps {m : Nat} {s0 s : State} (h : Keeps m s0 s) (hp : Sub 0x1881040e m) (a1) : Keeps m s0 (State.legSend s a1) := by
  unfold State.legSend
  repeat' first
    | with_reducible assumption | exact hp.trans rfl | intro _
    | (extract_lets +onlyGivenNames x; refine Keeps.seq (m := m) (s0 := s0) x ?_ ?_; rotate_left; clear_value x; revert x; intro _ _; rotate_left; unfold x; clear x)
    | (extract_lets +onlyGivenNames x; refine Keeps.seq (m := m) (s0 := s0) x.1 ?_ ?_; rotate_left; clear_value x; revert x; intro _ _; rotate_left; unfold x; clear x)
    | (extract_lets +onlyGivenNames x; revert x; intro _) | with_reducible apply State.count_keeps
    | with_reducible apply State.setTrav_keeps | with_reducible apply State.sendFilled_keeps | with_reducible apply State.askPages_keeps
    | with_reducible apply State.unitPage_keeps | with_reducible apply State.sendPart_keeps | with_reducible apply State.awaitUnit_keeps
    | with_reducible apply State.legEnds_keeps | with_reducible apply Keeps.foldl | with_reducible apply Keeps.foldl_fst | split
    | (clear_value *; split) | with_reducible refine Keeps.of_fst (by assumption) ?_

theorem State.legSendPoint_keeps {m : Nat} {s0 s : State} (h : Keeps m s0 s) (hp : Sub 0x1881040e m) (a1) : Keeps m s0 (State.legSendPoint s a1) := by
  unfold State.legSendPoint
  repeat' first
    | with_reducible assumption | exact hp.trans rfl | intro _
    | (extract_lets +onlyGivenNames x; refine Keeps.seq (m := m) (s0 := s0) x ?_ ?_; rotate_left; clear_value x; revert x; intro _ _; rotate_left; unfold x; clear x)
    | (extract_lets +onlyGivenNames x; revert x; intro _) | with_reducible apply State.visible_keeps
    | with_reducible apply State.legSend_keeps | split | (clear_value *; split)

theorem execLegSendPoint_keeps {m : Nat} {s0 s : State} (h : Keeps m s0 s) (hp : Sub 0x1881040e m) (a1) : Ends m s0 (execLegSendPoint a1 s) := by
  unfold execLegSendPoint
  repeat' first
    | with_reducible assumption | exact hp.trans rfl | with_reducible apply State.legSendPoint_keeps | with_reducible apply Ends.next

theorem State.fillStart_keeps {m : Nat} {s0 s : State} (h : Keeps m s0 s) (hp : Sub 0x1081041a m) (a1) : Keeps m s0 (State.fillStart s a1) := by
  unfold State.fillStart
  repeat' first
    | with_reducible assumption | exact hp.trans rfl | intro _
    | (extract_lets +onlyGivenNames x; refine Keeps.seq (m := m) (s0 := s0) x ?_ ?_; rotate_left; clear_value x; revert x; intro _ _; rotate_left; unfold x; clear x)
    | (extract_lets +onlyGivenNames x; refine Keeps.seq (m := m) (s0 := s0) x.1 ?_ ?_; rotate_left; clear_value x; revert x; intro _ _; rotate_left; unfold x; clear x)
    | (extract_lets +onlyGivenNames x; revert x; intro _) | with_reducible apply State.count_keeps
    | with_reducible apply State.setTrav_keeps | with_reducible apply State.askPages_keeps | with_reducible apply State.unitPage_keeps
    | with_reducible apply State.writeMem_keeps | with_reducible apply State.awaitUnit_keeps | with_reducible apply Keeps.foldl
    | with_reducible apply Keeps.foldl_fst | split | (clear_value *; split) | with_reducible refine Keeps.of_fst (by assumption) ?_

theorem execRunaheadFillStart_keeps {m : Nat} {s0 s : State} (h : Keeps m s0 s) (hp : Sub 0x1081041a m) (a1) : Ends m s0 (execRunaheadFillStart a1 s) := by
  unfold execRunaheadFillStart
  repeat' first
    | with_reducible assumption | exact hp.trans rfl | with_reducible apply State.fillStart_keeps | with_reducible apply Ends.next

theorem State.raFillDone_keeps {m : Nat} {s0 s : State} (h : Keeps m s0 s) (hp : Sub 0x10000 m) (a1 a2) : Keeps m s0 (State.raFillDone s a1 a2) := by
  unfold State.raFillDone
  repeat' first | with_reducible assumption | exact hp.trans rfl | with_reducible apply State.setTrav_keeps | split

theorem execRunaheadFillDone_keeps {m : Nat} {s0 s : State} (h : Keeps m s0 s) (hp : Sub 0x10000 m) (a1 a2) : Ends m s0 (execRunaheadFillDone a1 a2 s) := by
  unfold execRunaheadFillDone
  repeat' first
    | with_reducible assumption | exact hp.trans rfl | with_reducible apply State.raFillDone_keeps | with_reducible apply Ends.next

theorem State.sourceRead_keeps {m : Nat} {s0 s : State} (h : Keeps m s0 s) (hp : Sub 0x1881001e m) (a1 a2 a3 a4) : Keeps m s0 (State.sourceRead s a1 a2 a3 a4) := by
  unfold State.sourceRead
  repeat' first
    | with_reducible assumption | exact hp.trans rfl | intro _
    | (extract_lets +onlyGivenNames x; refine Keeps.seq (m := m) (s0 := s0) x ?_ ?_; rotate_left; clear_value x; revert x; intro _ _; rotate_left; unfold x; clear x)
    | (extract_lets +onlyGivenNames x; revert x; intro _) | with_reducible apply State.setTrav_keeps
    | with_reducible apply State.askLines_keeps | with_reducible apply State.writeMem_keeps | with_reducible apply State.sendPart_keeps
    | split | (clear_value *; split)

theorem State.travLineCmp_keeps {m : Nat} {s0 s : State} (h : Keeps m s0 s) (hp : Sub 0x1881001e m) (a1 a2 a3) : Keeps m s0 (State.travLineCmp s a1 a2 a3) := by
  unfold State.travLineCmp
  repeat' first | with_reducible assumption | exact hp.trans rfl | with_reducible apply State.sourceRead_keeps | split

theorem State.unitsServed_keeps {m : Nat} {s0 s : State} (h : Keeps m s0 s) (hp : Sub 0x1881041e m) : Keeps m s0 (State.unitsServed s) := by
  unfold State.unitsServed
  repeat' first
    | with_reducible assumption | exact hp.trans rfl | intro _
    | (extract_lets +onlyGivenNames x; refine Keeps.seq (m := m) (s0 := s0) x ?_ ?_; rotate_left; clear_value x; revert x; intro _ _; rotate_left; unfold x; clear x)
    | (extract_lets +onlyGivenNames x; refine Keeps.seq (m := m) (s0 := s0) x.1 ?_ ?_; rotate_left; clear_value x; revert x; intro _ _; rotate_left; unfold x; clear x)
    | (extract_lets +onlyGivenNames x; revert x; intro _) | with_reducible apply State.unitPage_keeps
    | with_reducible apply State.sourceRead_keeps | with_reducible apply State.dropTracker_keeps | with_reducible apply Keeps.foldl
    | with_reducible apply Keeps.foldl_fst | split | (clear_value *; split) | with_reducible refine Keeps.of_fst (by assumption) ?_

theorem execTlMountDone_keeps {m : Nat} {s0 s : State} (h : Keeps m s0 s) (hp : Sub 0x1981041e m) (a1) : Ends m s0 (execTlMountDone a1 s) := by
  unfold execTlMountDone
  repeat' first
    | with_reducible assumption | exact hp.trans rfl | with_reducible apply State.unitsServed_keeps
    | with_reducible apply State.mountDone_keeps | with_reducible apply Ends.next

theorem State.travStall_keeps {m : Nat} {s0 s : State} (h : Keeps m s0 s) (hp : Sub 0x10810002 m) (a1) : Keeps m s0 (State.travStall s a1) := by
  unfold State.travStall
  repeat' first
    | with_reducible assumption | exact hp.trans rfl | intro _
    | (extract_lets +onlyGivenNames x; refine Keeps.seq (m := m) (s0 := s0) x ?_ ?_; rotate_left; clear_value x; revert x; intro _ _; rotate_left; unfold x; clear x)
    | (extract_lets +onlyGivenNames x; revert x; intro _) | with_reducible apply State.travEnd_keeps | split | (clear_value *; split)

theorem execTraverseStallTimeout_keeps {m : Nat} {s0 s : State} (h : Keeps m s0 s) (hp : Sub 0x10810002 m) (a1) : Ends m s0 (execTraverseStallTimeout a1 s) := by
  unfold execTraverseStallTimeout
  repeat' first
    | with_reducible assumption | exact hp.trans rfl | with_reducible apply State.travStall_keeps | with_reducible apply Ends.next

theorem State.legMemberTimeout_keeps {m : Nat} {s0 s : State} (h : Keeps m s0 s) (hp : Sub 0x18810006 m) (a1 a2) : Keeps m s0 (State.legMemberTimeout s a1 a2) := by
  unfold State.legMemberTimeout
  repeat' first
    | with_reducible assumption | exact hp.trans rfl | intro _
    | (extract_lets +onlyGivenNames x; refine Keeps.seq (m := m) (s0 := s0) x ?_ ?_; rotate_left; clear_value x; revert x; intro _ _; rotate_left; unfold x; clear x)
    | (extract_lets +onlyGivenNames x; revert x; intro _) | with_reducible apply State.memberFails_keeps | split | (clear_value *; split)

theorem execLegMemberTimeout_keeps {m : Nat} {s0 s : State} (h : Keeps m s0 s) (hp : Sub 0x18810006 m) (a1 a2) : Ends m s0 (execLegMemberTimeout a1 a2 s) := by
  unfold execLegMemberTimeout
  repeat' first
    | with_reducible assumption | exact hp.trans rfl | with_reducible apply State.legMemberTimeout_keeps | with_reducible apply Ends.next

theorem State.stopTravs_keeps {m : Nat} {s0 s : State} (h : Keeps m s0 s) (hp : Sub 0x10810002 m) (a1) : Keeps m s0 (State.stopTravs s a1) := by
  unfold State.stopTravs
  repeat' first
    | with_reducible assumption | exact hp.trans rfl | intro _
    | (extract_lets +onlyGivenNames x; refine Keeps.seq (m := m) (s0 := s0) x ?_ ?_; rotate_left; clear_value x; revert x; intro _ _; rotate_left; unfold x; clear x)
    | (extract_lets +onlyGivenNames x; revert x; intro _) | with_reducible apply State.setTrav_keeps
    | with_reducible apply State.travEnd_keeps | with_reducible apply Keeps.foldl | with_reducible apply Keeps.foldl_fst | split
    | (clear_value *; split)

theorem State.dropTravs_keeps {m : Nat} {s0 s : State} (h : Keeps m s0 s) (hp : Sub 0x10000 m) (a1) : Keeps m s0 (State.dropTravs s a1) := by
  unfold State.dropTravs
  repeat' first
    | with_reducible assumption | intro _
    | (extract_lets +onlyGivenNames x; refine Keeps.seq (m := m) (s0 := s0) x ?_ ?_; rotate_left; clear_value x; revert x; intro _ _; rotate_left; unfold x; clear x)
    | (extract_lets +onlyGivenNames x; revert x; intro _) | with_reducible refine Keeps.trav (by assumption) (Sub.bit 16 rfl hp)

end Sys2Proof.Machine
end

