-- ==== Sys2Proof/Laws/KeepsParcels.lean ====
section
/-!
SUPPORT. The operations of Machine/Parcels.lean leave the queue of waiting commands alone and keep the canonical form.
-/
namespace Sys2Proof.Machine

set_option linter.all false

theorem State.setPcl_keeps {m : Nat} {s0 s : State} (h : Keeps m s0 s) (hp : Sub 0x400000 m) (a1 a2) : Keeps m s0 (State.setPcl s a1 a2) := by
  unfold State.setPcl
  repeat' first | with_reducible assumption | with_reducible refine Keeps.parcels (by assumption) (Sub.bit 22 rfl hp)

theorem State.pclEnd_keeps {m : Nat} {s0 s : State} (h : Keeps m s0 s) (hp : Sub 0x2 m) (a1 a2 a3) : Keeps m s0 (State.pclEnd s a1 a2 a3) := by
  unfold State.pclEnd
  repeat' first
    | with_reducible assumption | exact hp.trans rfl | intro _
    | (extract_lets +onlyGivenNames x; refine Keeps.seq (m := m) (s0 := s0) x ?_ ?_; rotate_left; clear_value x; revert x; intro _ _; rotate_left; unfold x; clear x)
    | (extract_lets +onlyGivenNames x; revert x; intro _) | with_reducible apply State.setFld_keeps

theorem State.recallAgent_keeps {m : Nat} {s0 s : State} (h : Keeps m s0 s) (hp : Sub 0x10841082 m) (a1) : Keeps m s0 (State.recallAgent s a1) := by
  unfold State.recallAgent
  repeat' first
    | with_reducible assumption | exact hp.trans rfl | intro _
    | (extract_lets +onlyGivenNames x; refine Keeps.seq (m := m) (s0 := s0) x ?_ ?_; rotate_left; clear_value x; revert x; intro _ _; rotate_left; unfold x; clear x)
    | (extract_lets +onlyGivenNames x; revert x; intro _) | with_reducible apply State.startRecall_keeps
    | with_reducible apply State.startGiveUp_keeps | with_reducible apply Keeps.foldl | with_reducible apply Keeps.foldl_fst | split
    | (clear_value *; split)

theorem State.clearPorts_keeps {m : Nat} {s0 s : State} (h : Keeps m s0 s) (hp : Sub 0x10841082 m) (a1) : Keeps m s0 (State.clearPorts s a1) := by
  unfold State.clearPorts
  repeat' first
    | with_reducible assumption | exact hp.trans rfl | intro _ | with_reducible apply State.leaver_keeps
    | with_reducible apply State.recallAgent_keeps | with_reducible apply Keeps.foldl | with_reducible apply Keeps.foldl_fst

theorem State.dropHeld_keeps {m : Nat} {s0 s : State} (h : Keeps m s0 s) (hp : Sub 0x10000402 m) (a1) : Keeps m s0 (State.dropHeld s a1) := by
  unfold State.dropHeld
  repeat' first
    | with_reducible assumption | exact hp.trans rfl | intro _
    | (extract_lets +onlyGivenNames x; refine Keeps.seq (m := m) (s0 := s0) x ?_ ?_; rotate_left; clear_value x; revert x; intro _ _; rotate_left; unfold x; clear x)
    | (extract_lets +onlyGivenNames x; revert x; intro _) | with_reducible apply State.complete_keeps | with_reducible apply Keeps.foldl
    | with_reducible apply Keeps.foldl_fst | with_reducible refine Keeps.tier (by assumption) (Sub.bit 10 rfl hp)

theorem State.zeroBusy_keeps {m : Nat} {s0 s : State} (h : Keeps m s0 s) (hp : Sub 0x2 m) (a1 a2) : Keeps m s0 (State.zeroBusy s a1 a2) := by
  unfold State.zeroBusy
  repeat' first
    | with_reducible assumption | exact hp.trans rfl | intro _ | with_reducible apply State.setBit_keeps | with_reducible apply Keeps.foldl
    | with_reducible apply Keeps.foldl_fst

theorem State.quiesce_keeps {m : Nat} {s0 s : State} (h : Keeps m s0 s) (hp : Sub 0x188c5f86 m) (a1 a2) : Keeps m s0 (State.quiesce s a1 a2) := by
  unfold State.quiesce
  repeat' first
    | with_reducible assumption | exact hp.trans rfl | intro _
    | (extract_lets +onlyGivenNames x; refine Keeps.seq (m := m) (s0 := s0) x ?_ ?_; rotate_left; clear_value x; revert x; intro _ _; rotate_left; unfold x; clear x)
    | (extract_lets +onlyGivenNames x; revert x; intro _) | with_reducible apply State.killTile_keeps
    | with_reducible apply State.clearPorts_keeps | with_reducible apply State.resetStakes_keeps
    | with_reducible apply State.failParked_keeps | with_reducible apply State.zeroBusy_keeps | with_reducible apply State.dropHeld_keeps
    | with_reducible apply State.bumpEpoch_keeps | with_reducible apply Keeps.foldl | with_reducible apply Keeps.foldl_fst

theorem State.zeroUnits_keeps {m : Nat} {s0 s : State} (h : Keeps m s0 s) (hp : Sub 0x912 m) (a1 a2) : Keeps m s0 (State.zeroUnits s a1 a2) := by
  unfold State.zeroUnits
  repeat' first
    | with_reducible assumption | exact hp.trans rfl | intro _
    | (extract_lets +onlyGivenNames x; refine Keeps.seq (m := m) (s0 := s0) x ?_ ?_; rotate_left; clear_value x; revert x; intro _ _; rotate_left; unfold x; clear x)
    | (extract_lets +onlyGivenNames x; revert x; intro _) | with_reducible apply State.clearTile_keeps
    | with_reducible apply State.zeroBusy_keeps | with_reducible apply State.resetStakes_keeps | with_reducible apply State.zeroMem_keeps
    | with_reducible apply Keeps.foldl | with_reducible apply Keeps.foldl_fst | split | (clear_value *; split)

theorem State.freeAgents_keeps {m : Nat} {s0 s : State} (h : Keeps m s0 s) (hp : Sub 0x2 m) (a1 a2) : Keeps m s0 (State.freeAgents s a1 a2) := by
  unfold State.freeAgents
  repeat' first
    | with_reducible assumption | exact hp.trans rfl | intro _ | with_reducible apply State.bindAgent_keeps
    | with_reducible apply Keeps.foldl | with_reducible apply Keeps.foldl_fst | split

theorem State.giveAgents_keeps {m : Nat} {s0 s : State} (h : Keeps m s0 s) (hp : Sub 0x2 m) (a1 a2) : Keeps m s0 (State.giveAgents s a1 a2) := by
  unfold State.giveAgents
  repeat' first
    | with_reducible assumption | exact hp.trans rfl | intro _ | with_reducible apply State.bindAgent_keeps
    | with_reducible apply Keeps.foldl | with_reducible apply Keeps.foldl_fst | split

theorem State.setGrants_keeps {m : Nat} {s0 s : State} (h : Keeps m s0 s) (hp : Sub 0x2 m) (a1 a2) : Keeps m s0 (State.setGrants s a1 a2) := by
  unfold State.setGrants
  repeat' first
    | with_reducible assumption | exact hp.trans rfl | intro _ | with_reducible apply State.setReg_keeps | with_reducible apply Keeps.foldl
    | with_reducible apply Keeps.foldl_fst

theorem State.keyModules_keeps {m : Nat} {s0 s : State} (h : Keeps m s0 s) (hp : Sub 0x11000012 m) (a1 a2) : Keeps m s0 (State.keyModules s a1 a2) := by
  unfold State.keyModules
  repeat' first
    | with_reducible assumption | exact hp.trans rfl | intro _ | with_reducible apply State.sendKeyp_keeps
    | with_reducible apply Keeps.foldl | with_reducible apply Keeps.foldl_fst

theorem State.compBegin_keeps {m : Nat} {s0 s : State} (h : Keeps m s0 s) (hp : Sub 0x19cc5f96 m) (a1 a2 a3) : Keeps m s0 (State.compBegin s a1 a2 a3) := by
  unfold State.compBegin
  repeat' first
    | with_reducible assumption | exact hp.trans rfl | intro _
    | (extract_lets +onlyGivenNames x; refine Keeps.seq (m := m) (s0 := s0) x ?_ ?_; rotate_left; clear_value x; revert x; intro _ _; rotate_left; unfold x; clear x)
    | (extract_lets +onlyGivenNames x; revert x; intro _) | with_reducible apply State.setFld_keeps
    | with_reducible apply State.setPcl_keeps | with_reducible apply State.setPclState_keeps | with_reducible apply State.keyModules_keeps
    | with_reducible apply State.quiesce_keeps | split | (clear_value *; split)

theorem State.compRefuse_keeps {m : Nat} {s0 s : State} (h : Keeps m s0 s) (hp : Sub 0x2 m) (a1 a2 a3) : Keeps m s0 (State.compRefuse s a1 a2 a3) := by
  unfold State.compRefuse
  repeat' first
    | with_reducible assumption | exact hp.trans rfl | with_reducible apply State.count_keeps | with_reducible apply State.pclEnd_keeps

theorem State.revokeExt_keeps {m : Nat} {s0 s : State} (h : Keeps m s0 s) (hp : Sub 0x10066 m) (a1) : Keeps m s0 (State.revokeExt s a1) := by
  unfold State.revokeExt
  repeat' first
    | with_reducible assumption | exact hp.trans rfl | intro _
    | (extract_lets +onlyGivenNames x; refine Keeps.seq (m := m) (s0 := s0) x ?_ ?_; rotate_left; clear_value x; revert x; intro _ _; rotate_left; unfold x; clear x)
    | (extract_lets +onlyGivenNames x; revert x; intro _) | with_reducible apply State.tick_keeps | with_reducible apply State.squash_keeps
    | with_reducible apply Keeps.foldl | with_reducible apply Keeps.foldl_fst | split | (clear_value *; split)
    | (with_reducible apply Keeps.several <;> first | assumption | exact id | exact .inl rfl | exact .inr (Sub.bit _ rfl hp) | exact wf_kset _ _ _ | exact wf_kdel _ _ | exact wf_filter _ _ | exact wf_memWrite _ _ _)

theorem State.releaseBegin_keeps {m : Nat} {s0 s : State} (h : Keeps m s0 s) (hp : Sub 0x10e14066 m) (a1) : Keeps m s0 (State.releaseBegin s a1) := by
  unfold State.releaseBegin
  repeat' first
    | with_reducible assumption | exact hp.trans rfl | intro _
    | (extract_lets +onlyGivenNames x; refine Keeps.seq (m := m) (s0 := s0) x ?_ ?_; rotate_left; clear_value x; revert x; intro _ _; rotate_left; unfold x; clear x)
    | (extract_lets +onlyGivenNames x; revert x; intro _) | with_reducible apply State.setFld_keeps
    | with_reducible apply State.setPclState_keeps | with_reducible apply State.setPcl_keeps | with_reducible apply State.revokeExt_keeps
    | with_reducible apply State.dropRemote_keeps | with_reducible apply State.stopTravs_keeps | with_reducible apply State.stopPlans_keeps
    | with_reducible apply Keeps.foldl | with_reducible apply Keeps.foldl_fst

theorem State.pclRun_keeps {m : Nat} {s0 s : State} (h : Keeps m s0 s) (hp : Sub 0x19ed5ff6 m) (a1 a2) : Keeps m s0 (State.pclRun s a1 a2) := by
  unfold State.pclRun
  repeat' first
    | with_reducible assumption | exact hp.trans rfl | intro _
    | (extract_lets +onlyGivenNames x; refine Keeps.seq (m := m) (s0 := s0) x ?_ ?_; rotate_left; clear_value x; revert x; intro _ _; rotate_left; unfold x; clear x)
    | (extract_lets +onlyGivenNames x; revert x; intro _) | with_reducible apply State.tick_keeps | with_reducible apply State.pclEnd_keeps
    | with_reducible apply State.compRefuse_keeps | with_reducible apply State.compBegin_keeps
    | with_reducible apply State.setPclState_keeps | with_reducible apply State.releaseBegin_keeps | split | (clear_value *; split)

theorem State.pclGo_keeps {m : Nat} {s0 s : State} (h : Keeps m s0 s) (hp : Sub 0x19ed5ff6 m) (a1 a2) : Keeps m s0 (State.pclGo s a1 a2) := by
  unfold State.pclGo
  repeat' first
    | with_reducible assumption | exact hp.trans rfl | intro _ | with_reducible apply State.cfgDo_keeps
    | with_reducible apply State.onFirmware_keeps | with_reducible apply State.setFld_keeps | with_reducible apply State.setReg_keeps
    | with_reducible apply State.pclRun_keeps | split

theorem execBoot_keeps {m : Nat} {s0 s : State} (h : Keeps m s0 s) (hp : Sub 0x19ed5ff6 m) (a1) : Ends m s0 (execBoot a1 s) := by
  unfold execBoot
  repeat' first | with_reducible assumption | exact hp.trans rfl | with_reducible apply State.pclGo_keeps | with_reducible apply Ends.next

theorem execCompose_keeps {m : Nat} {s0 s : State} (h : Keeps m s0 s) (hp : Sub 0x19ed5ff6 m) (a1) : Ends m s0 (execCompose a1 s) := by
  unfold execCompose
  repeat' first | with_reducible assumption | exact hp.trans rfl | with_reducible apply State.pclGo_keeps | with_reducible apply Ends.next

theorem execActivate_keeps {m : Nat} {s0 s : State} (h : Keeps m s0 s) (hp : Sub 0x19ed5ff6 m) (a1) : Ends m s0 (execActivate a1 s) := by
  unfold execActivate
  repeat' first | with_reducible assumption | exact hp.trans rfl | with_reducible apply State.pclGo_keeps | with_reducible apply Ends.next

theorem execRelease_keeps {m : Nat} {s0 s : State} (h : Keeps m s0 s) (hp : Sub 0x19ed5ff6 m) (a1) : Ends m s0 (execRelease a1 s) := by
  unfold execRelease
  repeat' first | with_reducible assumption | exact hp.trans rfl | with_reducible apply State.pclGo_keeps | with_reducible apply Ends.next

theorem execClearDegraded_keeps {m : Nat} {s0 s : State} (h : Keeps m s0 s) (hp : Sub 0x19ed5ff6 m) (a1) : Ends m s0 (execClearDegraded a1 s) := by
  unfold execClearDegraded
  repeat' first | with_reducible assumption | exact hp.trans rfl | with_reducible apply State.pclGo_keeps | with_reducible apply Ends.next

theorem State.forgetSteps_keeps {m : Nat} {s0 s : State} (h : Keeps m s0 s) (hp : Sub 0x10000 m) : Keeps m s0 (State.forgetSteps s) := by
  unfold State.forgetSteps
  repeat' first
    | with_reducible assumption | intro _
    | (extract_lets +onlyGivenNames x; refine Keeps.seq (m := m) (s0 := s0) x ?_ ?_; rotate_left; clear_value x; revert x; intro _ _; rotate_left; unfold x; clear x)
    | (extract_lets +onlyGivenNames x; revert x; intro _) | with_reducible refine Keeps.trav (by assumption) (Sub.bit 16 rfl hp)

theorem State.grantsEffect_keeps {m : Nat} {s0 s : State} (h : Keeps m s0 s) (hp : Sub 0x10c51996 m) (a1) : Keeps m s0 (State.grantsEffect s a1) := by
  unfold State.grantsEffect
  repeat' first
    | with_reducible assumption | exact hp.trans rfl | intro _
    | (extract_lets +onlyGivenNames x; refine Keeps.seq (m := m) (s0 := s0) x ?_ ?_; rotate_left; clear_value x; revert x; intro _ _; rotate_left; unfold x; clear x)
    | (extract_lets +onlyGivenNames x; revert x; intro _) | with_reducible apply State.clearPorts_keeps
    | with_reducible apply State.setGrants_keeps | with_reducible apply State.homeSteps_keeps | with_reducible apply State.freeAgents_keeps
    | with_reducible apply State.zeroUnits_keeps | with_reducible apply State.forgetSteps_keeps
    | with_reducible apply State.giveAgents_keeps | with_reducible apply State.count_keeps | with_reducible apply State.setPclState_keeps
    | with_reducible apply State.setPcl_keeps | with_reducible apply State.pclEnd_keeps | split | (clear_value *; split)

theorem execCompositionGrantsEffect_keeps {m : Nat} {s0 s : State} (h : Keeps m s0 s) (hp : Sub 0x10c51996 m) (a1) : Ends m s0 (execCompositionGrantsEffect a1 s) := by
  unfold execCompositionGrantsEffect
  repeat' first
    | with_reducible assumption | exact hp.trans rfl | with_reducible apply State.grantsEffect_keeps | with_reducible apply Ends.next

theorem State.releaseDone_keeps {m : Nat} {s0 s : State} (h : Keeps m s0 s) (hp : Sub 0x18cd5f96 m) (a1) : Keeps m s0 (State.releaseDone s a1) := by
  unfold State.releaseDone
  repeat' first
    | with_reducible assumption | exact hp.trans rfl | intro _
    | (extract_lets +onlyGivenNames x; refine Keeps.seq (m := m) (s0 := s0) x ?_ ?_; rotate_left; clear_value x; revert x; intro _ _; rotate_left; unfold x; clear x)
    | (extract_lets +onlyGivenNames x; revert x; intro _) | with_reducible apply State.quiesce_keeps
    | with_reducible apply State.setPcl_keeps | with_reducible apply State.clearPorts_keeps | with_reducible apply State.dropTravs_keeps
    | with_reducible apply State.dropPlans_keeps | with_reducible apply State.homeSteps_keeps | with_reducible apply State.freeAgents_keeps
    | with_reducible apply State.zeroMem_keeps | with_reducible apply State.zeroUnits_keeps | with_reducible apply State.forgetSteps_keeps
    | with_reducible apply State.setGrants_keeps | with_reducible apply State.pclEnd_keeps | with_reducible apply State.setPclState_keeps
    | split | (clear_value *; split)

theorem execReleaseDone_keeps {m : Nat} {s0 s : State} (h : Keeps m s0 s) (hp : Sub 0x18cd5f96 m) (a1) : Ends m s0 (execReleaseDone a1 s) := by
  unfold execReleaseDone
  repeat' first
    | with_reducible assumption | exact hp.trans rfl | with_reducible apply State.releaseDone_keeps | with_reducible apply Ends.next

theorem State.loseCompose_keeps {m : Nat} {s0 s : State} (h : Keeps m s0 s) (hp : Sub 0x400912 m) (a1) : Keeps m s0 (State.loseCompose s a1) := by
  unfold State.loseCompose
  repeat' first
    | with_reducible assumption | exact hp.trans rfl | intro _
    | (extract_lets +onlyGivenNames x; refine Keeps.seq (m := m) (s0 := s0) x ?_ ?_; rotate_left; clear_value x; revert x; intro _ _; rotate_left; unfold x; clear x)
    | (extract_lets +onlyGivenNames x; revert x; intro _) | with_reducible apply State.setGrants_keeps
    | with_reducible apply State.freeAgents_keeps | with_reducible apply State.zeroUnits_keeps | with_reducible apply State.count_keeps
    | with_reducible apply State.setPclState_keeps | with_reducible apply State.pclEnd_keeps | with_reducible apply State.setPcl_keeps
    | split | (clear_value *; split)

theorem State.extEnd_keeps {m : Nat} {s0 s : State} (h : Keeps m s0 s) (hp : Sub 0x2 m) (a1 a2) : Keeps m s0 (State.extEnd s a1 a2) := by
  unfold State.extEnd
  repeat' first
    | with_reducible assumption | exact hp.trans rfl | with_reducible apply State.setBit_keeps | with_reducible apply State.setFld_keeps

theorem State.extCreateRun_keeps {m : Nat} {s0 s : State} (h : Keeps m s0 s) (hp : Sub 0x26 m) (a1 a2) : Keeps m s0 (State.extCreateRun s a1 a2) := by
  unfold State.extCreateRun
  repeat' first
    | with_reducible assumption | exact hp.trans rfl | intro _
    | (extract_lets +onlyGivenNames x; refine Keeps.seq (m := m) (s0 := s0) x ?_ ?_; rotate_left; clear_value x; revert x; intro _ _; rotate_left; unfold x; clear x)
    | (extract_lets +onlyGivenNames x; revert x; intro _) | with_reducible apply State.extEnd_keeps | with_reducible apply State.tick_keeps
    | with_reducible apply State.count_keeps | with_reducible apply State.setExt_keeps | with_reducible apply Keeps.foldl
    | with_reducible apply Keeps.foldl_fst | split | (clear_value *; split)

theorem State.extRevokeRun_keeps {m : Nat} {s0 s : State} (h : Keeps m s0 s) (hp : Sub 0x10066 m) (a1 a2) : Keeps m s0 (State.extRevokeRun s a1 a2) := by
  unfold State.extRevokeRun
  repeat' first
    | with_reducible assumption | exact hp.trans rfl | intro _
    | (extract_lets +onlyGivenNames x; refine Keeps.seq (m := m) (s0 := s0) x ?_ ?_; rotate_left; clear_value x; revert x; intro _ _; rotate_left; unfold x; clear x)
    | (extract_lets +onlyGivenNames x; revert x; intro _) | with_reducible apply State.extEnd_keeps
    | with_reducible apply State.revokeExt_keeps | split | (clear_value *; split)

theorem State.extQueryRun_keeps {m : Nat} {s0 s : State} (h : Keeps m s0 s) (hp : Sub 0x2 m) (a1 a2) : Keeps m s0 (State.extQueryRun s a1 a2) := by
  unfold State.extQueryRun
  repeat' first
    | with_reducible assumption | exact hp.trans rfl | intro _
    | (extract_lets +onlyGivenNames x; refine Keeps.seq (m := m) (s0 := s0) x ?_ ?_; rotate_left; clear_value x; revert x; intro _ _; rotate_left; unfold x; clear x)
    | (extract_lets +onlyGivenNames x; revert x; intro _) | with_reducible apply State.extEnd_keeps
    | with_reducible apply State.setReg_keeps | with_reducible apply Keeps.foldl | with_reducible apply Keeps.foldl_fst | split
    | (clear_value *; split)

theorem State.extRun_keeps {m : Nat} {s0 s : State} (h : Keeps m s0 s) (hp : Sub 0x10066 m) (a1 a2 a3) : Keeps m s0 (State.extRun s a1 a2 a3) := by
  unfold State.extRun
  repeat' first
    | with_reducible assumption | exact hp.trans rfl | with_reducible apply State.extCreateRun_keeps
    | with_reducible apply State.extRevokeRun_keeps | with_reducible apply State.extQueryRun_keeps | with_reducible apply State.extEnd_keeps
    | split

theorem State.extGo_keeps {m : Nat} {s0 s : State} (h : Keeps m s0 s) (hp : Sub 0x810066 m) (a1 a2 a3) : Keeps m s0 (State.extGo s a1 a2 a3) := by
  unfold State.extGo
  repeat' first
    | with_reducible assumption | exact hp.trans rfl | intro _
    | (extract_lets +onlyGivenNames x; refine Keeps.seq (m := m) (s0 := s0) x ?_ ?_; rotate_left; clear_value x; revert x; intro _ _; rotate_left; unfold x; clear x)
    | (extract_lets +onlyGivenNames x; revert x; intro _) | with_reducible apply State.cfgDo_keeps | with_reducible apply State.setReg_keeps
    | with_reducible apply State.onFirmware_keeps | with_reducible apply State.extRun_keeps | split | (clear_value *; split)

theorem execExtCreate_keeps {m : Nat} {s0 s : State} (h : Keeps m s0 s) (hp : Sub 0x810066 m) (a1 a2) : Ends m s0 (execExtCreate a1 a2 s) := by
  unfold execExtCreate
  repeat' first | with_reducible assumption | exact hp.trans rfl | with_reducible apply State.extGo_keeps | with_reducible apply Ends.next

theorem execExtRevoke_keeps {m : Nat} {s0 s : State} (h : Keeps m s0 s) (hp : Sub 0x810066 m) (a1 a2) : Ends m s0 (execExtRevoke a1 a2 s) := by
  unfold execExtRevoke
  repeat' first | with_reducible assumption | exact hp.trans rfl | with_reducible apply State.extGo_keeps | with_reducible apply Ends.next

theorem execExtQuery_keeps {m : Nat} {s0 s : State} (h : Keeps m s0 s) (hp : Sub 0x810066 m) (a1 a2) : Ends m s0 (execExtQuery a1 a2 s) := by
  unfold execExtQuery
  repeat' first | with_reducible assumption | exact hp.trans rfl | with_reducible apply State.extGo_keeps | with_reducible apply Ends.next

theorem State.extRecall_keeps {m : Nat} {s0 s : State} (h : Keeps m s0 s) (hp : Sub 0x10041082 m) (a1) : Keeps m s0 (State.extRecall s a1) := by
  unfold State.extRecall
  repeat' first
    | with_reducible assumption | exact hp.trans rfl | intro _
    | (extract_lets +onlyGivenNames x; refine Keeps.seq (m := m) (s0 := s0) x ?_ ?_; rotate_left; clear_value x; revert x; intro _ _; rotate_left; unfold x; clear x)
    | (extract_lets +onlyGivenNames x; revert x; intro _) | with_reducible apply State.startSpi_keeps
    | with_reducible apply State.startRecall_keeps | with_reducible apply Keeps.foldl | with_reducible apply Keeps.foldl_fst

theorem State.extsFree_keeps {m : Nat} {s0 s : State} (h : Keeps m s0 s) (hp : Sub 0x66 m) (a1 a2) : Keeps m s0 (State.extsFree s a1 a2) := by
  unfold State.extsFree
  repeat' first
    | with_reducible assumption | exact hp.trans rfl | intro _
    | (extract_lets +onlyGivenNames x; refine Keeps.seq (m := m) (s0 := s0) x ?_ ?_; rotate_left; clear_value x; revert x; intro _ _; rotate_left; unfold x; clear x)
    | (extract_lets +onlyGivenNames x; revert x; intro _) | with_reducible apply State.tick_keeps | with_reducible apply State.count_keeps
    | with_reducible apply State.extEnd_keeps | with_reducible apply Keeps.foldl | with_reducible apply Keeps.foldl_fst | split
    | (clear_value *; split)
    | (with_reducible apply Keeps.several <;> first | assumption | exact id | exact .inl rfl | exact .inr (Sub.bit _ rfl hp) | exact wf_kset _ _ _ | exact wf_kdel _ _ | exact wf_filter _ _ | exact wf_memWrite _ _ _)

theorem State.revokeDrained_keeps {m : Nat} {s0 s : State} (h : Keeps m s0 s) (hp : Sub 0x198514f6 m) (a1) : Keeps m s0 (State.revokeDrained s a1) := by
  unfold State.revokeDrained
  repeat' first
    | with_reducible assumption | exact hp.trans rfl | intro _
    | (extract_lets +onlyGivenNames x; refine Keeps.seq (m := m) (s0 := s0) x ?_ ?_; rotate_left; clear_value x; revert x; intro _ _; rotate_left; unfold x; clear x)
    | (extract_lets +onlyGivenNames x; revert x; intro _) | with_reducible apply State.extsFree_keeps
    | with_reducible apply State.extRecall_keeps | with_reducible apply State.dropFrames_keeps
    | with_reducible apply State.startWriteBack_keeps | with_reducible apply Keeps.foldl | with_reducible apply Keeps.foldl_fst | split
    | (clear_value *; split) | with_reducible refine Keeps.tier (by assumption) (Sub.bit 10 rfl hp)

theorem execExtentRevokeDrained_keeps {m : Nat} {s0 s : State} (h : Keeps m s0 s) (hp : Sub 0x198514f6 m) (a1) : Ends m s0 (execExtentRevokeDrained a1 s) := by
  unfold execExtentRevokeDrained
  repeat' first
    | with_reducible assumption | exact hp.trans rfl | with_reducible apply State.revokeDrained_keeps | with_reducible apply Ends.next

theorem State.occupyOne_keeps {m : Nat} {s0 s : State} (h : Keeps m s0 s) (hp : Sub 0x400000 m) (a1 a2) : Keeps m s0 (State.occupyOne s a1 a2) := by
  unfold State.occupyOne
  repeat' first
    | with_reducible assumption | exact hp.trans rfl | intro _
    | (extract_lets +onlyGivenNames x; refine Keeps.seq (m := m) (s0 := s0) x ?_ ?_; rotate_left; clear_value x; revert x; intro _ _; rotate_left; unfold x; clear x)
    | (extract_lets +onlyGivenNames x; revert x; intro _) | with_reducible apply State.setPcl_keeps | with_reducible apply Keeps.foldl
    | with_reducible apply Keeps.foldl_fst | split | (clear_value *; split)

theorem execOccupancyTick_keeps {m : Nat} {s0 s : State} (h : Keeps m s0 s) (hp : Sub 0x400000 m) (a1) : Ends m s0 (execOccupancyTick a1 s) := by
  unfold execOccupancyTick
  repeat' first
    | with_reducible assumption | exact hp.trans rfl | intro _ | with_reducible apply State.occupyOne_keeps
    | with_reducible apply Keeps.foldl | with_reducible apply Keeps.foldl_fst | with_reducible apply Ends.next

theorem State.usageSnap_keeps {m : Nat} {s0 s : State} (h : Keeps m s0 s) (hp : Sub 0x400006 m) (a1 a2) : Keeps m s0 (State.usageSnap s a1 a2) := by
  unfold State.usageSnap
  repeat' first
    | with_reducible assumption | exact hp.trans rfl | intro _
    | (extract_lets +onlyGivenNames x; refine Keeps.seq (m := m) (s0 := s0) x ?_ ?_; rotate_left; clear_value x; revert x; intro _ _; rotate_left; unfold x; clear x)
    | (extract_lets +onlyGivenNames x; revert x; intro _) | with_reducible apply State.cfgDo_keeps | with_reducible apply State.setReg_keeps
    | with_reducible apply State.setPcl_keeps | split | (clear_value *; split)

theorem execUsageSnap_keeps {m : Nat} {s0 s : State} (h : Keeps m s0 s) (hp : Sub 0x400006 m) (a1 a2) : Ends m s0 (execUsageSnap a1 a2 s) := by
  unfold execUsageSnap
  repeat' first
    | with_reducible assumption | exact hp.trans rfl | with_reducible apply State.usageSnap_keeps | with_reducible apply Ends.next

end Sys2Proof.Machine
end

