-- ==== Sys2Proof/Laws/KeepsPublish.lean ====
section
/-!
SUPPORT. The operations of Machine/Publish.lean leave the queue of waiting commands alone and keep the canonical form.
-/
namespace Sys2Proof.Machine

set_option linter.all false

theorem State.publishRefuse_keeps {m : Nat} {s0 s : State} (h : Keeps m s0 s) (hp : Sub 0x10000002 m) (a1 a2) : Keeps m s0 (State.publishRefuse s a1 a2) := by
  unfold State.publishRefuse
  repeat' first
    | with_reducible assumption | exact hp.trans rfl | intro _
    | (extract_lets +onlyGivenNames x; refine Keeps.seq (m := m) (s0 := s0) x ?_ ?_; rotate_left; clear_value x; revert x; intro _ _; rotate_left; unfold x; clear x)
    | (extract_lets +onlyGivenNames x; revert x; intro _) | with_reducible apply State.countRevoked_keeps
    | with_reducible apply State.count_keeps | with_reducible apply State.completeRaw_keeps | split | (clear_value *; split)

theorem State.publishSteps_keeps {m : Nat} {s0 s : State} (h : Keeps m s0 s) (hp : Sub 0x10000126 m) (a1) : Keeps m s0 (State.publishSteps s a1) := by
  unfold State.publishSteps
  repeat' first
    | with_reducible assumption | exact hp.trans rfl | intro _ | with_reducible apply hF
    | (extract_lets +onlyGivenNames x; refine Keeps.seq (m := m) (s0 := s0) x ?_ ?_; rotate_left; clear_value x; revert x; intro _ _; rotate_left; unfold x; clear x)
    | (extract_lets +onlyGivenNames x; refine Keeps.seqF (m := m) (s0 := s0) x ?_ ?_; rotate_left; clear_value x; revert x; intro _ hF; rotate_left; unfold x; clear x)
    | (extract_lets +onlyGivenNames x; refine Keeps.seqG (m := m) (s0 := s0) x ?_ ?_; rotate_left; clear_value x; revert x; intro _ hF; rotate_left; unfold x; clear x)
    | (extract_lets +onlyGivenNames x; refine Keeps.seqH (m := m) (s0 := s0) x ?_ ?_; rotate_left; clear_value x; revert x; intro _ hF; rotate_left; unfold x; clear x)
    | (extract_lets +onlyGivenNames x; revert x; intro _) | with_reducible apply State.releaseSet_keeps
    | with_reducible apply State.tick_keeps | with_reducible apply State.setExt_keeps | with_reducible apply State.count_keeps
    | with_reducible apply State.completeRaw_keeps | with_reducible apply Keeps.foldl | with_reducible apply Keeps.foldl_fst | split
    | (clear_value *; split)

theorem State.publishNow_keeps {m : Nat} {s0 s : State} (h : Keeps m s0 s) (hp : Sub 0x10000126 m) (a1) : Keeps m s0 (State.publishNow s a1) := by
  unfold State.publishNow
  repeat' first
    | with_reducible assumption | exact hp.trans rfl | intro _
    | (extract_lets +onlyGivenNames x; refine Keeps.seq (m := m) (s0 := s0) x ?_ ?_; rotate_left; clear_value x; revert x; intro _ _; rotate_left; unfold x; clear x)
    | (extract_lets +onlyGivenNames x; revert x; intro _) | with_reducible apply State.publishSteps_keeps
    | with_reducible apply State.publishRefuse_keeps | split | (clear_value *; split)

theorem State.publish_keeps {m : Nat} {s0 s : State} (h : Keeps m s0 s) (hp : Sub 0x1880012e m) (a1) : Keeps m s0 (State.publish s a1) := by
  unfold State.publish
  repeat' first
    | with_reducible assumption | exact hp.trans rfl | intro _
    | (extract_lets +onlyGivenNames x; refine Keeps.seq (m := m) (s0 := s0) x ?_ ?_; rotate_left; clear_value x; revert x; intro _ _; rotate_left; unfold x; clear x)
    | (extract_lets +onlyGivenNames x; refine Keeps.seq (m := m) (s0 := s0) x.1 ?_ ?_; rotate_left; clear_value x; revert x; intro _ _; rotate_left; unfold x; clear x)
    | (extract_lets +onlyGivenNames x; revert x; intro _) | with_reducible apply State.tick_keeps | with_reducible apply State.visible_keeps
    | with_reducible apply State.publishRefuse_keeps | with_reducible apply State.publishSteps_keeps
    | with_reducible apply State.startTwin_keeps | split | (clear_value *; split) | with_reducible refine Keeps.of_fst (by assumption) ?_

theorem execPublish_keeps {m : Nat} {s0 s : State} (h : Keeps m s0 s) (hp : Sub 0x1880012e m) (a1) : Ends m s0 (execPublish a1 s) := by
  unfold execPublish
  repeat' first | with_reducible assumption | exact hp.trans rfl | with_reducible apply State.publish_keeps | with_reducible apply Ends.next

theorem State.publishAct_keeps {m : Nat} {s0 s : State} (h : Keeps m s0 s) (hp : Sub 0x10800126 m) (a1) : Keeps m s0 (State.publishAct s a1) := by
  unfold State.publishAct
  repeat' first
    | with_reducible assumption | exact hp.trans rfl | intro _
    | (extract_lets +onlyGivenNames x; refine Keeps.seq (m := m) (s0 := s0) x ?_ ?_; rotate_left; clear_value x; revert x; intro _ _; rotate_left; unfold x; clear x)
    | (extract_lets +onlyGivenNames x; revert x; intro _) | with_reducible apply State.publishNow_keeps
    | with_reducible apply State.dropTwin_keeps | split | (clear_value *; split)

end Sys2Proof.Machine
end

