-- ==== Sys2Proof/Laws/KeepsTakeover.lean ====
section
/-!
SUPPORT. The operations of Machine/Takeover.lean leave the queue of waiting commands alone and keep the canonical form.
-/
namespace Sys2Proof.Machine

set_option linter.all false

theorem State.doAct_keeps {m : Nat} {s0 s : State} (h : Keeps m s0 s) (hp : Sub 0x18a9453e m) (a1 a2) : Keeps m s0 (State.doAct s a1 a2) := by
  unfold State.doAct
  repeat' first
    | with_reducible assumption | exact hp.trans rfl | with_reducible apply State.releaseSet_keeps
    | with_reducible apply State.slotWrite_keeps | with_reducible apply State.legSend_keeps | with_reducible apply State.publishAct_keeps
    | with_reducible apply State.readResponseAct_keeps | split

theorem State.discardOp_keeps {m : Nat} {s0 s : State} (h : Keeps m s0 s) (hp : Sub 0xa14800 m) (a1) : Keeps m s0 (State.discardOp s a1) := by
  unfold State.discardOp
  repeat' first
    | with_reducible assumption | exact hp.trans rfl | intro _
    | (extract_lets +onlyGivenNames x; refine Keeps.seq (m := m) (s0 := s0) x ?_ ?_; rotate_left; clear_value x; revert x; intro _ _; rotate_left; unfold x; clear x)
    | (extract_lets +onlyGivenNames x; revert x; intro _) | with_reducible apply State.dropOp_keeps
    | with_reducible apply State.unbindAll_keeps | with_reducible apply State.setPlans_keeps | with_reducible apply State.setTravs_keeps
    | with_reducible apply State.dropTravReqs_keeps | with_reducible apply Keeps.foldl | with_reducible apply Keeps.foldl_fst | split
    | (clear_value *; split) | with_reducible refine Keeps.coll (by assumption) (Sub.bit 14 rfl hp)
    | with_reducible refine Keeps.roce (by assumption) (Sub.bit 21 rfl hp)

theorem State.standDown_keeps {m : Nat} {s0 s : State} (h : Keeps m s0 s) (hp : Sub 0x8a14806 m) (a1 a2 a3) : Keeps m s0 (State.standDown s a1 a2 a3) := by
  unfold State.standDown
  repeat' first
    | with_reducible assumption | exact hp.trans rfl | with_reducible apply State.count_keeps | with_reducible apply State.twinRecord_keeps
    | with_reducible apply State.discardOp_keeps

theorem State.mirrorAnswer_keeps {m : Nat} {s0 s : State} (h : Keeps m s0 s) (hp : Sub 0x18a94d3e m) (a1 a2 a3 a4 a5) : Keeps m s0 (State.mirrorAnswer s a1 a2 a3 a4 a5) := by
  unfold State.mirrorAnswer
  repeat' first
    | with_reducible assumption | exact hp.trans rfl | intro _
    | (extract_lets +onlyGivenNames x; refine Keeps.seq (m := m) (s0 := s0) x ?_ ?_; rotate_left; clear_value x; revert x; intro _ _; rotate_left; unfold x; clear x)
    | (extract_lets +onlyGivenNames x; revert x; intro _) | with_reducible apply State.standDown_keeps
    | with_reducible apply State.setTwin_keeps | with_reducible apply State.doAct_keeps | with_reducible apply State.mirrorNext_keeps
    | with_reducible apply State.mirrorTo_keeps | split | (clear_value *; split)

theorem execMirrorAnswer_keeps {m : Nat} {s0 s : State} (h : Keeps m s0 s) (hp : Sub 0x18a94d3e m) (a1 a2 a3 a4 a5) : Ends m s0 (execMirrorAnswer a1 a2 a3 a4 a5 s) := by
  unfold execMirrorAnswer
  repeat' first
    | with_reducible assumption | exact hp.trans rfl | with_reducible apply State.mirrorAnswer_keeps | with_reducible apply Ends.next

theorem State.startBringIn_keeps {m : Nat} {s0 s : State} (h : Keeps m s0 s) (hp : Sub 0x10800008 m) (a1 a2) : Keeps m s0 (State.startBringIn s a1 a2) := by
  unfold State.startBringIn
  repeat' first
    | with_reducible assumption | exact hp.trans rfl | intro _
    | (extract_lets +onlyGivenNames x; refine Keeps.seq (m := m) (s0 := s0) x ?_ ?_; rotate_left; clear_value x; revert x; intro _ _; rotate_left; unfold x; clear x)
    | (extract_lets +onlyGivenNames x; revert x; intro _) | with_reducible apply State.setTwin_keeps
    | with_reducible apply State.dropOp_keeps | with_reducible apply State.mirrorTo_keeps | split | (clear_value *; split)

theorem State.bringInCommit_keeps {m : Nat} {s0 s : State} (h : Keeps m s0 s) (hp : Sub 0x18a1480e m) (a1 a2 a3 a4 a5) : Keeps m s0 (State.bringInCommit s a1 a2 a3 a4 a5) := by
  unfold State.bringInCommit
  repeat' first
    | with_reducible assumption | exact hp.trans rfl | intro _
    | (extract_lets +onlyGivenNames x; refine Keeps.seq (m := m) (s0 := s0) x ?_ ?_; rotate_left; clear_value x; revert x; intro _ _; rotate_left; unfold x; clear x)
    | (extract_lets +onlyGivenNames x; revert x; intro _) | with_reducible apply State.standDown_keeps
    | with_reducible apply State.mirrorNext_keeps | with_reducible apply State.count_keeps | with_reducible apply State.setTwin_keeps
    | split | (clear_value *; split)

theorem execBringInCommit_keeps {m : Nat} {s0 s : State} (h : Keeps m s0 s) (hp : Sub 0x18a1480e m) (a1 a2 a3 a4 a5) : Ends m s0 (execBringInCommit a1 a2 a3 a4 a5 s) := by
  unfold execBringInCommit
  repeat' first
    | with_reducible assumption | exact hp.trans rfl | with_reducible apply State.bringInCommit_keeps | with_reducible apply Ends.next

theorem State.mirrorFailed_keeps {m : Nat} {s0 s : State} (h : Keeps m s0 s) (hp : Sub 0x1880000e m) (a1 a2 a3 a4) : Keeps m s0 (State.mirrorFailed s a1 a2 a3 a4) := by
  unfold State.mirrorFailed
  repeat' first
    | with_reducible assumption | exact hp.trans rfl | with_reducible apply State.startBringIn_keeps
    | with_reducible apply State.twinRecord_keeps | with_reducible apply State.count_keeps | split

theorem State.mirrorCmp_keeps {m : Nat} {s0 s : State} (h : Keeps m s0 s) (hp : Sub 0x1880000e m) (a1 a2 a3 a4 a5) : Keeps m s0 (State.mirrorCmp s a1 a2 a3 a4 a5) := by
  unfold State.mirrorCmp
  repeat' first | with_reducible assumption | exact hp.trans rfl | with_reducible apply State.mirrorFailed_keeps | split

theorem State.answerMirror_keeps {m : Nat} {s0 s : State} (h : Keeps m s0 s) (hp : Sub 0x10800000 m) (a1 a2 a3 a4 a5) : Keeps m s0 (State.answerMirror s a1 a2 a3 a4 a5) := by
  unfold State.answerMirror
  repeat' first
    | with_reducible assumption | exact hp.trans rfl | intro _
    | (extract_lets +onlyGivenNames x; refine Keeps.seq (m := m) (s0 := s0) x ?_ ?_; rotate_left; clear_value x; revert x; intro _ _; rotate_left; unfold x; clear x)
    | (extract_lets +onlyGivenNames x; revert x; intro _) | with_reducible apply State.twinWrite_keeps | split | (clear_value *; split)

theorem State.mirrorWrite_keeps {m : Nat} {s0 s : State} (h : Keeps m s0 s) (hp : Sub 0x18a14806 m) (a1 a2 a3) : Keeps m s0 (State.mirrorWrite s a1 a2 a3) := by
  unfold State.mirrorWrite
  repeat' first
    | with_reducible assumption | exact hp.trans rfl | intro _
    | (extract_lets +onlyGivenNames x; refine Keeps.seq (m := m) (s0 := s0) x ?_ ?_; rotate_left; clear_value x; revert x; intro _ _; rotate_left; unfold x; clear x)
    | (extract_lets +onlyGivenNames x; revert x; intro _) | with_reducible apply State.standDown_keeps
    | with_reducible apply State.answerMirror_keeps | with_reducible apply State.setTwinCol_keeps | split | (clear_value *; split)

theorem execMirrorWrite_keeps {m : Nat} {s0 s : State} (h : Keeps m s0 s) (hp : Sub 0x18a14806 m) (a1 a2 a3) : Ends m s0 (execMirrorWrite a1 a2 a3 s) := by
  unfold execMirrorWrite
  repeat' first
    | with_reducible assumption | exact hp.trans rfl | with_reducible apply State.mirrorWrite_keeps | with_reducible apply Ends.next

theorem State.beatLine_keeps {m : Nat} {s0 s : State} (h : Keeps m s0 s) (hp : Sub 0x10800000 m) (a1 a2 a3 a4 a5) : Keeps m s0 (State.beatLine s a1 a2 a3 a4 a5) := by
  unfold State.beatLine
  repeat' first
    | with_reducible assumption | exact hp.trans rfl | intro _
    | (extract_lets +onlyGivenNames x; refine Keeps.seq (m := m) (s0 := s0) x ?_ ?_; rotate_left; clear_value x; revert x; intro _ _; rotate_left; unfold x; clear x)
    | (extract_lets +onlyGivenNames x; revert x; intro _) | with_reducible apply State.twinWrite_keeps | split | (clear_value *; split)

theorem State.twinBeat_keeps {m : Nat} {s0 s : State} (h : Keeps m s0 s) (hp : Sub 0x10800000 m) (a1) : Keeps m s0 (State.twinBeat s a1) := by
  unfold State.twinBeat
  repeat' first
    | with_reducible assumption | exact hp.trans rfl | intro _
    | (extract_lets +onlyGivenNames x; refine Keeps.seq (m := m) (s0 := s0) x ?_ ?_; rotate_left; clear_value x; revert x; intro _ _; rotate_left; unfold x; clear x)
    | (extract_lets +onlyGivenNames x; revert x; intro _) | with_reducible apply State.setTwinCol_keeps
    | with_reducible apply State.beatLine_keeps | with_reducible apply Keeps.foldl | with_reducible apply Keeps.foldl_fst | split
    | (clear_value *; split)

theorem execTwinBeat_keeps {m : Nat} {s0 s : State} (h : Keeps m s0 s) (hp : Sub 0x10800000 m) (a1) : Ends m s0 (execTwinBeat a1 s) := by
  unfold execTwinBeat
  repeat' first
    | with_reducible assumption | exact hp.trans rfl | with_reducible apply State.twinBeat_keeps | with_reducible apply Ends.next

theorem execTwinBeatMiss_keeps {m : Nat} {s0 s : State} (h : Keeps m s0 s) (hp : Sub 0x8c00006 m) (a1) : Ends m s0 (execTwinBeatMiss a1 s) := by
  unfold execTwinBeatMiss
  repeat' first
    | with_reducible assumption | exact hp.trans rfl | with_reducible apply State.declareLost_keeps | with_reducible apply Ends.next

theorem State.handover_keeps {m : Nat} {s0 s : State} (h : Keeps m s0 s) (hp : Sub 0x8c00006 m) (a1 a2) : Keeps m s0 (State.handover s a1 a2) := by
  unfold State.handover
  repeat' first
    | with_reducible assumption | exact hp.trans rfl | intro _
    | (extract_lets +onlyGivenNames x; refine Keeps.seq (m := m) (s0 := s0) x ?_ ?_; rotate_left; clear_value x; revert x; intro _ _; rotate_left; unfold x; clear x)
    | (extract_lets +onlyGivenNames x; revert x; intro _) | with_reducible apply State.declareLost_keeps
    | with_reducible apply State.setTwinCol_keeps

theorem execHandover_keeps {m : Nat} {s0 s : State} (h : Keeps m s0 s) (hp : Sub 0x8c00006 m) (a1 a2) : Ends m s0 (execHandover a1 a2 s) := by
  unfold execHandover
  repeat' first
    | with_reducible assumption | exact hp.trans rfl | with_reducible apply State.handover_keeps | with_reducible apply Ends.next

theorem State.reissueTo_keeps {m : Nat} {s0 s : State} (h : Keeps m s0 s) (hp : Sub 0x10800000 m) (a1 a2 a3 a4 a5 a6) : Keeps m s0 (State.reissueTo s a1 a2 a3 a4 a5 a6) := by
  unfold State.reissueTo
  repeat' first
    | with_reducible assumption | exact hp.trans rfl | intro _
    | (extract_lets +onlyGivenNames x; refine Keeps.seq (m := m) (s0 := s0) x ?_ ?_; rotate_left; clear_value x; revert x; intro _ _; rotate_left; unfold x; clear x)
    | (extract_lets +onlyGivenNames x; revert x; intro _) | with_reducible apply State.issue_keeps

theorem State.reissue_keeps {m : Nat} {s0 s : State} (h : Keeps m s0 s) (hp : Sub 0x10800000 m) (a1 a2 a3) : Keeps m s0 (State.reissue s a1 a2 a3) := by
  unfold State.reissue
  repeat' first
    | with_reducible assumption | exact hp.trans rfl | intro _ | with_reducible apply State.reissueTo_keeps
    | with_reducible apply State.send_keeps | with_reducible apply State.issue_keeps | with_reducible apply Keeps.foldl
    | with_reducible apply Keeps.foldl_fst | split

theorem State.takeoverFenceEnd_keeps {m : Nat} {s0 s : State} (h : Keeps m s0 s) (hp : Sub 0x10800008 m) (a1) : Keeps m s0 (State.takeoverFenceEnd s a1) := by
  unfold State.takeoverFenceEnd
  repeat' first
    | with_reducible assumption | exact hp.trans rfl | intro _
    | (extract_lets +onlyGivenNames x; refine Keeps.seq (m := m) (s0 := s0) x ?_ ?_; rotate_left; clear_value x; revert x; intro _ _; rotate_left; unfold x; clear x)
    | (extract_lets +onlyGivenNames x; revert x; intro _) | with_reducible apply State.setTwinCol_keeps
    | with_reducible apply State.reissue_keeps | with_reducible apply State.startBringIn_keeps | with_reducible apply State.setOps_keeps
    | with_reducible apply Keeps.foldl | with_reducible apply Keeps.foldl_fst | split | (clear_value *; split)

theorem execTakeoverFenceEnd_keeps {m : Nat} {s0 s : State} (h : Keeps m s0 s) (hp : Sub 0x10800008 m) (a1) : Ends m s0 (execTakeoverFenceEnd a1 s) := by
  unfold execTakeoverFenceEnd
  repeat' first
    | with_reducible assumption | exact hp.trans rfl | with_reducible apply State.takeoverFenceEnd_keeps | with_reducible apply Ends.next

theorem State.loseFill_keeps {m : Nat} {s0 s : State} (h : Keeps m s0 s) (hp : Sub 0x4106 m) (a1 a2) : Keeps m s0 (State.loseFill s a1 a2) := by
  unfold State.loseFill
  repeat' first
    | with_reducible assumption | exact hp.trans rfl | intro _
    | (extract_lets +onlyGivenNames x; refine Keeps.seq (m := m) (s0 := s0) x ?_ ?_; rotate_left; clear_value x; revert x; intro _ _; rotate_left; unfold x; clear x)
    | (extract_lets +onlyGivenNames x; revert x; intro _) | with_reducible apply State.srelLocal_keeps
    | with_reducible apply State.setRslot_keeps | with_reducible apply Keeps.foldl | with_reducible apply Keeps.foldl_fst | split
    | (clear_value *; split)

theorem State.handOver_keeps {m : Nat} {s0 s : State} (h : Keeps m s0 s) (hp : Sub 0xa14906 m) (a1) : Keeps m s0 (State.handOver s a1) := by
  unfold State.handOver
  repeat' first
    | with_reducible assumption | exact hp.trans rfl | intro _
    | (extract_lets +onlyGivenNames x; refine Keeps.seq (m := m) (s0 := s0) x ?_ ?_; rotate_left; clear_value x; revert x; intro _ _; rotate_left; unfold x; clear x)
    | (extract_lets +onlyGivenNames x; revert x; intro _) | with_reducible apply State.discardOp_keeps
    | with_reducible apply State.loseFill_keeps | with_reducible apply Keeps.foldl | with_reducible apply Keeps.foldl_fst

theorem State.handOverAll_keeps {m : Nat} {s0 s : State} (h : Keeps m s0 s) (hp : Sub 0x10a14906 m) : Keeps m s0 (State.handOverAll s) := by
  unfold State.handOverAll
  repeat' first
    | with_reducible assumption | exact hp.trans rfl | intro _
    | (extract_lets +onlyGivenNames x; refine Keeps.seq (m := m) (s0 := s0) x ?_ ?_; rotate_left; clear_value x; revert x; intro _ _; rotate_left; unfold x; clear x)
    | (extract_lets +onlyGivenNames x; revert x; intro _) | with_reducible apply State.beatLine_keeps
    | with_reducible apply State.setTwinCol_keeps | with_reducible apply State.handOver_keeps | with_reducible apply Keeps.foldl
    | with_reducible apply Keeps.foldl_fst

theorem State.publishLost_keeps {m : Nat} {s0 s : State} (h : Keeps m s0 s) (hp : Sub 0x10810066 m) (a1) : Keeps m s0 (State.publishLost s a1) := by
  unfold State.publishLost
  repeat' first
    | with_reducible assumption | exact hp.trans rfl | intro _
    | (extract_lets +onlyGivenNames x; refine Keeps.seq (m := m) (s0 := s0) x ?_ ?_; rotate_left; clear_value x; revert x; intro _ _; rotate_left; unfold x; clear x)
    | (extract_lets +onlyGivenNames x; revert x; intro _) | with_reducible apply State.complete_keeps
    | with_reducible apply State.dropOp_keeps | with_reducible apply State.revokeExt_keeps | with_reducible apply Keeps.foldl
    | with_reducible apply Keeps.foldl_fst | split | (clear_value *; split)

theorem State.requestStateLost_keeps {m : Nat} {s0 s : State} (h : Keeps m s0 s) (hp : Sub 0x19a14d7e m) : Keeps m s0 (State.requestStateLost s) := by
  unfold State.requestStateLost
  repeat' first
    | with_reducible assumption | exact hp.trans rfl | intro _
    | (extract_lets +onlyGivenNames x; refine Keeps.seq (m := m) (s0 := s0) x ?_ ?_; rotate_left; clear_value x; revert x; intro _ _; rotate_left; unfold x; clear x)
    | (extract_lets +onlyGivenNames x; revert x; intro _) | with_reducible apply State.publishLost_keeps
    | with_reducible apply State.loseSlots_keeps | with_reducible apply State.travEnd_keeps | with_reducible apply State.tierPump_keeps
    | with_reducible apply State.loseCmds_keeps | with_reducible apply State.handOverAll_keeps | with_reducible apply Keeps.foldl
    | with_reducible apply Keeps.foldl_fst | split | (clear_value *; split)
    | with_reducible refine Keeps.roce (by assumption) (Sub.bit 21 rfl hp)

end Sys2Proof.Machine
end

