-- ==== Sys2Proof/Laws/KeepsReset.lean ====
section
/-!
SUPPORT. The operations of Machine/Reset.lean leave the queue of waiting commands alone and keep the canonical form.
-/
namespace Sys2Proof.Machine

set_option linter.all false

theorem State.dropRegionFrames_keeps {m : Nat} {s0 s : State} (h : Keeps m s0 s) (hp : Sub 0x1985149e m) (a1) : Keeps m s0 (State.dropRegionFrames s a1) := by
  unfold State.dropRegionFrames
  repeat' first
    | with_reducible assumption | exact hp.trans rfl | intro _
    | (extract_lets +onlyGivenNames x; refine Keeps.seq (m := m) (s0 := s0) x ?_ ?_; rotate_left; clear_value x; revert x; intro _ _; rotate_left; unfold x; clear x)
    | (extract_lets +onlyGivenNames x; revert x; intro _) | with_reducible apply State.retryAll_keeps
    | with_reducible apply State.complete_keeps | with_reducible apply State.dropFrames_keeps | with_reducible apply Keeps.foldl
    | with_reducible apply Keeps.foldl_fst | split | (clear_value *; split)
    | with_reducible refine Keeps.tier (by assumption) (Sub.bit 10 rfl hp)

theorem State.stackFail_keeps {m : Nat} {s0 s : State} (h : Keeps m s0 s) (hp : Sub 0x19e5ddfe m) (a1) : Keeps m s0 (State.stackFail s a1) := by
  unfold State.stackFail
  repeat' first
    | with_reducible assumption | exact hp.trans rfl | intro _
    | (extract_lets +onlyGivenNames x; refine Keeps.seq (m := m) (s0 := s0) x ?_ ?_; rotate_left; clear_value x; revert x; intro _ _; rotate_left; unfold x; clear x)
    | (extract_lets +onlyGivenNames x; revert x; intro _) | with_reducible apply State.tick_keeps
    | with_reducible apply State.loseLines_keeps | with_reducible apply State.fatalRegion_keeps | with_reducible apply State.mapLost_keeps
    | with_reducible apply State.pnmStackLost_keeps | with_reducible apply State.dropRegionFrames_keeps
    | with_reducible apply State.requestStateLost_keeps | with_reducible apply State.took_keeps | with_reducible apply Keeps.foldl
    | with_reducible apply Keeps.foldl_fst | split | (clear_value *; split)
    | with_reducible refine Keeps.mem (by assumption) rfl (Sub.bit 4 rfl hp)

theorem execHbmStackFail_keeps {m : Nat} {s0 s : State} (h : Keeps m s0 s) (hp : Sub 0x19e5ddfe m) (a1) : Ends m s0 (execHbmStackFail a1 s) := by
  unfold execHbmStackFail
  repeat' first
    | with_reducible assumption | exact hp.trans rfl | with_reducible apply State.stackFail_keeps | with_reducible apply Ends.next

theorem State.flashCut_keeps {m : Nat} {s0 s : State} (h : Keeps m s0 s) (hp : Sub 0x408 m) : Keeps m s0 (State.flashCut s) := by
  unfold State.flashCut
  repeat' first
    | with_reducible assumption | exact hp.trans rfl | intro _
    | (extract_lets +onlyGivenNames x; refine Keeps.seq (m := m) (s0 := s0) x ?_ ?_; rotate_left; clear_value x; revert x; intro _ _; rotate_left; unfold x; clear x)
    | (extract_lets +onlyGivenNames x; revert x; intro _) | with_reducible apply State.unitSwitch_keeps
    | with_reducible apply State.took_keeps | with_reducible apply State.freeBlock_keeps | with_reducible apply State.dropObj_keeps
    | with_reducible apply State.setObj_keeps | with_reducible apply Keeps.foldl | with_reducible apply Keeps.foldl_fst | split
    | (clear_value *; split)

theorem State.allReset_keeps {m : Nat} {s0 s : State} (h : Keeps m s0 s) (hp : Sub 0x1ffffffe m) : Keeps m s0 (State.allReset s) :=
  have k : Keeps m s0 (State.flashCut s) := State.flashCut_keeps h (hp.trans rfl)
  ⟨k.pending, fun _ => ⟨rfl, rfl, rfl⟩,
   fun q hq => by cases q <;> first | exact k.only _ hq | exact absurd hq (by rw [Sub.bit _ rfl hp]; decide)⟩

theorem State.coldReset_keeps {m : Nat} {s0 s : State} (h : Keeps m s0 s) (hp : Sub 0x1ffffffe m) (a1) : Keeps m s0 (State.coldReset s a1) := by
  unfold State.coldReset
  repeat' first
    | with_reducible assumption | exact hp.trans rfl | intro _
    | (extract_lets +onlyGivenNames x; refine Keeps.seq (m := m) (s0 := s0) x ?_ ?_; rotate_left; clear_value x; revert x; intro _ _; rotate_left; unfold x; clear x)
    | (extract_lets +onlyGivenNames x; revert x; intro _) | with_reducible apply State.allReset_keeps | split | (clear_value *; split)
    | with_reducible refine Keeps.mgmt (by assumption) (Sub.bit 27 rfl hp)

theorem execColdReset_keeps {m : Nat} {s0 s : State} (h : Keeps m s0 s) (hp : Sub 0x1ffffffe m) (a1) : Ends m s0 (execColdReset a1 s) := by
  unfold execColdReset
  repeat' first
    | with_reducible assumption | exact hp.trans rfl | with_reducible apply State.coldReset_keeps | with_reducible apply Ends.next

theorem State.setPhase_keeps {m : Nat} {s0 s : State} (h : Keeps m s0 s) (hp : Sub 0x2 m) (a1) : Keeps m s0 (State.setPhase s a1) := by
  unfold State.setPhase
  repeat' first | with_reducible assumption | exact hp.trans rfl | with_reducible apply State.setFld_keeps

theorem State.coldRelease_keeps {m : Nat} {s0 s : State} (h : Keeps m s0 s) (hp : Sub 0x8000002 m) (a1) : Keeps m s0 (State.coldRelease s a1) := by
  unfold State.coldRelease
  repeat' first
    | with_reducible assumption | exact hp.trans rfl | intro _
    | (extract_lets +onlyGivenNames x; refine Keeps.seq (m := m) (s0 := s0) x ?_ ?_; rotate_left; clear_value x; revert x; intro _ _; rotate_left; unfold x; clear x)
    | (extract_lets +onlyGivenNames x; revert x; intro _) | with_reducible apply State.setPhase_keeps | split | (clear_value *; split)
    | with_reducible refine Keeps.mgmt (by assumption) (Sub.bit 27 rfl hp)

theorem execColdResetRelease_keeps {m : Nat} {s0 s : State} (h : Keeps m s0 s) (hp : Sub 0x8000002 m) (a1) : Ends m s0 (execColdResetRelease a1 s) := by
  unfold execColdResetRelease
  repeat' first
    | with_reducible assumption | exact hp.trans rfl | with_reducible apply State.coldRelease_keeps | with_reducible apply Ends.next

theorem State.refLoss_keeps {m : Nat} {s0 s : State} (h : Keeps m s0 s) (hp : Sub 0x1ffffffe m) (a1) : Keeps m s0 (State.refLoss s a1) := by
  unfold State.refLoss
  repeat' first
    | with_reducible assumption | exact hp.trans rfl | intro _
    | (extract_lets +onlyGivenNames x; refine Keeps.seq (m := m) (s0 := s0) x ?_ ?_; rotate_left; clear_value x; revert x; intro _ _; rotate_left; unfold x; clear x)
    | (extract_lets +onlyGivenNames x; revert x; intro _) | with_reducible apply State.allReset_keeps
    | with_reducible refine Keeps.mgmt (by assumption) (Sub.bit 27 rfl hp)

theorem execRefclkLoss_keeps {m : Nat} {s0 s : State} (h : Keeps m s0 s) (hp : Sub 0x1ffffffe m) (a1) : Ends m s0 (execRefclkLoss a1 s) := by
  unfold execRefclkLoss
  repeat' first | with_reducible assumption | exact hp.trans rfl | with_reducible apply State.refLoss_keeps | with_reducible apply Ends.next

theorem State.refRestored_keeps {m : Nat} {s0 s : State} (h : Keeps m s0 s) (hp : Sub 0x8000002 m) : Keeps m s0 (State.refRestored s) := by
  unfold State.refRestored
  repeat' first
    | with_reducible assumption | exact hp.trans rfl | intro _
    | (extract_lets +onlyGivenNames x; refine Keeps.seq (m := m) (s0 := s0) x ?_ ?_; rotate_left; clear_value x; revert x; intro _ _; rotate_left; unfold x; clear x)
    | (extract_lets +onlyGivenNames x; revert x; intro _) | with_reducible apply State.setPhase_keeps | split | (clear_value *; split)
    | with_reducible refine Keeps.mgmt (by assumption) (Sub.bit 27 rfl hp)

theorem execRefclkRestored_keeps {m : Nat} {s0 s : State} (h : Keeps m s0 s) (hp : Sub 0x8000002 m) : Ends m s0 (execRefclkRestored s) := by
  unfold execRefclkRestored
  repeat' first
    | with_reducible assumption | exact hp.trans rfl | with_reducible apply State.refRestored_keeps | with_reducible apply Ends.next

theorem execThermtrip_keeps {m : Nat} {s0 s : State} (h : Keeps m s0 s) (hp : Sub 0x1ffffffe m) : Ends m s0 (execThermtrip s) := by
  unfold execThermtrip
  repeat' first
    | with_reducible assumption | exact hp.trans rfl | intro _
    | (extract_lets +onlyGivenNames x; refine Keeps.seq (m := m) (s0 := s0) x ?_ ?_; rotate_left; clear_value x; revert x; intro _ _; rotate_left; unfold x; clear x)
    | (extract_lets +onlyGivenNames x; revert x; intro _) | with_reducible apply State.allReset_keeps | with_reducible apply Ends.next
    | with_reducible refine Keeps.mgmt (by assumption) (Sub.bit 27 rfl hp)

theorem State.extendMr_keeps {m : Nat} {s0 s : State} (h : Keeps m s0 s) (hp : Sub 0x1000000 m) (a1 a2) : Keeps m s0 (State.extendMr s a1 a2) := by
  unfold State.extendMr
  repeat' first
    | with_reducible assumption | intro _
    | (extract_lets +onlyGivenNames x; refine Keeps.seq (m := m) (s0 := s0) x ?_ ?_; rotate_left; clear_value x; revert x; intro _ _; rotate_left; unfold x; clear x)
    | (extract_lets +onlyGivenNames x; revert x; intro _) | split | (clear_value *; split)
    | with_reducible refine Keeps.sec (by assumption) (Sub.bit 24 rfl hp)

theorem State.deriveCdi_keeps {m : Nat} {s0 s : State} (h : Keeps m s0 s) (hp : Sub 0x1000000 m) : Keeps m s0 (State.deriveCdi s) := by
  unfold State.deriveCdi
  repeat' first
    | with_reducible assumption | intro _
    | (extract_lets +onlyGivenNames x; refine Keeps.seq (m := m) (s0 := s0) x ?_ ?_; rotate_left; clear_value x; revert x; intro _ _; rotate_left; unfold x; clear x)
    | (extract_lets +onlyGivenNames x; revert x; intro _) | with_reducible refine Keeps.sec (by assumption) (Sub.bit 24 rfl hp)

theorem State.beginTests_keeps {m : Nat} {s0 s : State} (h : Keeps m s0 s) (hp : Sub 0x1000002 m) : Keeps m s0 (State.beginTests s) := by
  unfold State.beginTests
  repeat' first
    | with_reducible assumption | exact hp.trans rfl | with_reducible apply State.extendMr_keeps | with_reducible apply State.setPhase_keeps

theorem execPllLock_keeps {m : Nat} {s0 s : State} (h : Keeps m s0 s) (hp : Sub 0x1000002 m) : Ends m s0 (execPllLock s) := by
  unfold execPllLock
  repeat' first
    | with_reducible assumption | exact hp.trans rfl | intro _ | with_reducible apply State.onlyIf_keeps
    | with_reducible apply State.beginTests_keeps | with_reducible apply Ends.next

theorem State.warm_keeps {m : Nat} {s0 s : State} (h : Keeps m s0 s) (hp : Sub 0x1ffffffe m) : Keeps m s0 (State.warm s) := by
  unfold State.warm
  repeat' first
    | with_reducible assumption | exact hp.trans rfl | intro _
    | (extract_lets +onlyGivenNames x; refine Keeps.seq (m := m) (s0 := s0) x ?_ ?_; rotate_left; clear_value x; revert x; intro _ _; rotate_left; unfold x; clear x)
    | (extract_lets +onlyGivenNames x; revert x; intro _) | with_reducible apply State.setFld_keeps
    | with_reducible apply State.allReset_keeps | with_reducible apply State.setPhase_keeps | with_reducible apply State.beginTests_keeps
    | split | (clear_value *; split)

theorem execI3cWarm_keeps {m : Nat} {s0 s : State} (h : Keeps m s0 s) (hp : Sub 0x1ffffffe m) (a1) : Ends m s0 (execI3cWarm a1 s) := by
  unfold execI3cWarm
  repeat' first
    | with_reducible assumption | exact hp.trans rfl | intro _ | with_reducible apply State.onlyIf_keeps
    | with_reducible apply State.warm_keeps | with_reducible apply Ends.next

theorem State.portReset_keeps {m : Nat} {s0 s : State} (h : Keeps m s0 s) (hp : Sub 0x1ded979e m) (a1) : Keeps m s0 (State.portReset s a1) := by
  unfold State.portReset
  repeat' first
    | with_reducible assumption | exact hp.trans rfl | intro _
    | (extract_lets +onlyGivenNames x; refine Keeps.seq (m := m) (s0 := s0) x ?_ ?_; rotate_left; clear_value x; revert x; intro _ _; rotate_left; unfold x; clear x)
    | (extract_lets +onlyGivenNames x; revert x; intro _) | with_reducible apply State.portGoesDown_keeps
    | with_reducible apply State.setBit_keeps | with_reducible apply State.endLost_keeps | split | (clear_value *; split)
    | with_reducible refine Keeps.boot (by assumption) (Sub.bit 26 rfl hp)

theorem State.blockDown_keeps {m : Nat} {s0 s : State} (h : Keeps m s0 s) (hp : Sub 0x1dedff9e m) (a1) : Keeps m s0 (State.blockDown s a1) := by
  unfold State.blockDown
  repeat' first
    | with_reducible assumption | exact hp.trans rfl | intro _
    | (extract_lets +onlyGivenNames x; refine Keeps.seq (m := m) (s0 := s0) x ?_ ?_; rotate_left; clear_value x; revert x; intro _ _; rotate_left; unfold x; clear x)
    | (extract_lets +onlyGivenNames x; revert x; intro _) | with_reducible apply State.portReset_keeps
    | with_reducible apply State.agentDead_keeps | with_reducible apply State.clearTile_keeps | with_reducible apply State.killTile_keeps
    | with_reducible apply State.loseStaging_keeps | with_reducible apply State.resetRegs_keeps
    | with_reducible apply State.laserLines_keeps | with_reducible apply State.setPortCause_keeps | with_reducible apply Keeps.foldl
    | with_reducible apply Keeps.foldl_fst
    | (with_reducible apply Keeps.several <;> first | assumption | exact id | exact .inl rfl | exact .inr (Sub.bit _ rfl hp) | exact wf_kset _ _ _ | exact wf_kdel _ _ | exact wf_filter _ _ | exact wf_memWrite _ _ _)

theorem State.partialBegin_keeps {m : Nat} {s0 s : State} (h : Keeps m s0 s) (hp : Sub 0x4000002 m) (a1 a2) : Keeps m s0 (State.partialBegin s a1 a2) := by
  unfold State.partialBegin
  repeat' first
    | with_reducible assumption | exact hp.trans rfl | intro _
    | (extract_lets +onlyGivenNames x; refine Keeps.seq (m := m) (s0 := s0) x ?_ ?_; rotate_left; clear_value x; revert x; intro _ _; rotate_left; unfold x; clear x)
    | (extract_lets +onlyGivenNames x; revert x; intro _) | with_reducible apply State.count_keeps | with_reducible apply State.setFld_keeps
    | with_reducible apply State.setBit_keeps | with_reducible refine Keeps.boot (by assumption) (Sub.bit 26 rfl hp)

theorem State.blockResets_keeps {m : Nat} {s0 s : State} (h : Keeps m s0 s) (hp : Sub 0x1dedff9e m) (a1) : Keeps m s0 (State.blockResets s a1) := by
  unfold State.blockResets
  repeat' first
    | with_reducible assumption | exact hp.trans rfl | with_reducible apply State.partialBegin_keeps
    | with_reducible apply State.blockDown_keeps

theorem State.stakesDown_keeps {m : Nat} {s0 s : State} (h : Keeps m s0 s) (hp : Sub 0x8c00106 m) (a1) : Keeps m s0 (State.stakesDown s a1) := by
  unfold State.stakesDown
  repeat' first
    | with_reducible assumption | exact hp.trans rfl | intro _
    | (extract_lets +onlyGivenNames x; refine Keeps.seq (m := m) (s0 := s0) x ?_ ?_; rotate_left; clear_value x; revert x; intro _ _; rotate_left; unfold x; clear x)
    | (extract_lets +onlyGivenNames x; revert x; intro _) | with_reducible apply State.resetStakes_keeps
    | with_reducible apply State.fatalEvent_keeps | with_reducible apply State.tick_keeps | with_reducible apply Keeps.foldl
    | with_reducible apply Keeps.foldl_fst | with_reducible refine Keeps.stk (by assumption) (Sub.bit 8 rfl hp)

theorem State.regionResets_keeps {m : Nat} {s0 s : State} (h : Keeps m s0 s) (hp : Sub 0x1dedfffe m) (a1) : Keeps m s0 (State.regionResets s a1) := by
  unfold State.regionResets
  repeat' first
    | with_reducible assumption | exact hp.trans rfl | intro _
    | (extract_lets +onlyGivenNames x; refine Keeps.seq (m := m) (s0 := s0) x ?_ ?_; rotate_left; clear_value x; revert x; intro _ _; rotate_left; unfold x; clear x)
    | (extract_lets +onlyGivenNames x; revert x; intro _) | with_reducible apply State.blockDown_keeps
    | with_reducible apply State.modSlice_keeps | with_reducible apply State.stakesDown_keeps | with_reducible apply State.stackFail_keeps
    | with_reducible apply State.loseCompose_keeps | with_reducible apply State.setBit_keeps | with_reducible apply State.resetRegs_keeps
    | with_reducible apply State.partialBegin_keeps | with_reducible apply Keeps.foldl | with_reducible apply Keeps.foldl_fst
    | (with_reducible apply Keeps.several <;> first | assumption | exact id | exact .inl rfl | exact .inr (Sub.bit _ rfl hp) | exact wf_kset _ _ _ | exact wf_kdel _ _ | exact wf_filter _ _ | exact wf_memWrite _ _ _)

theorem State.rstCtlWrite_keeps {m : Nat} {s0 s : State} (h : Keeps m s0 s) (hp : Sub 0x1ffffffe m) (a1) : Keeps m s0 (State.rstCtlWrite s a1) := by
  unfold State.rstCtlWrite
  repeat' first
    | with_reducible assumption | exact hp.trans rfl | intro _
    | (extract_lets +onlyGivenNames x; refine Keeps.seq (m := m) (s0 := s0) x ?_ ?_; rotate_left; clear_value x; revert x; intro _ _; rotate_left; unfold x; clear x)
    | (extract_lets +onlyGivenNames x; revert x; intro _) | with_reducible apply State.cfgDo_keeps | with_reducible apply State.warm_keeps
    | with_reducible apply State.regionResets_keeps | with_reducible apply State.blockResets_keeps | with_reducible apply Keeps.foldl
    | with_reducible apply Keeps.foldl_fst | split | (clear_value *; split)

theorem execWarmReset_keeps {m : Nat} {s0 s : State} (h : Keeps m s0 s) (hp : Sub 0x1ffffffe m) (a1) : Ends m s0 (execWarmReset a1 s) := by
  unfold execWarmReset
  repeat' first
    | with_reducible assumption | exact hp.trans rfl | with_reducible apply State.rstCtlWrite_keeps | with_reducible apply Ends.next

theorem execRegionReset_keeps {m : Nat} {s0 s : State} (h : Keeps m s0 s) (hp : Sub 0x1ffffffe m) (a1) : Ends m s0 (execRegionReset a1 s) := by
  unfold execRegionReset
  repeat' first
    | with_reducible assumption | exact hp.trans rfl | with_reducible apply State.rstCtlWrite_keeps | with_reducible apply Ends.next | split

theorem execBlockReset_keeps {m : Nat} {s0 s : State} (h : Keeps m s0 s) (hp : Sub 0x1ffffffe m) (a1) : Ends m s0 (execBlockReset a1 s) := by
  unfold execBlockReset
  repeat' first
    | with_reducible assumption | exact hp.trans rfl | with_reducible apply State.rstCtlWrite_keeps | with_reducible apply Ends.next

end Sys2Proof.Machine
end

