-- ==== Sys2Proof/Laws/KeepsSecurity.lean ====
section
/-!
SUPPORT. The operations of Machine/Security.lean leave the queue of waiting commands alone and keep the canonical form.
-/
namespace Sys2Proof.Machine

set_option linter.all false

theorem State.secStore_keeps {m : Nat} {s0 s : State} (h : Keeps m s0 s) (hp : Sub 0x5000000 m) (a1) : Keeps m s0 (State.secStore s a1) := by
  unfold State.secStore
  repeat' first
    | with_reducible assumption | intro _
    | (extract_lets +onlyGivenNames x; refine Keeps.seq (m := m) (s0 := s0) x ?_ ?_; rotate_left; clear_value x; revert x; intro _ _; rotate_left; unfold x; clear x)
    | (extract_lets +onlyGivenNames x; revert x; intro _) | split | (clear_value *; split)
    | (with_reducible apply Keeps.several <;> first | assumption | exact id | exact .inl rfl | exact .inr (Sub.bit _ rfl hp) | exact wf_kset _ _ _ | exact wf_kdel _ _ | exact wf_filter _ _ | exact wf_memWrite _ _ _)

theorem State.newNonce_keeps {m : Nat} {s0 s : State} (h : Keeps m s0 s) (hp : Sub 0x3000000 m) : Keeps m s0 (State.newNonce s) := by
  unfold State.newNonce
  repeat' first
    | with_reducible assumption | exact hp.trans rfl | intro _
    | (extract_lets +onlyGivenNames x; refine Keeps.seq (m := m) (s0 := s0) x ?_ ?_; rotate_left; clear_value x; revert x; intro _ _; rotate_left; unfold x; clear x)
    | (extract_lets +onlyGivenNames x; refine Keeps.seq (m := m) (s0 := s0) x.2 ?_ ?_; rotate_left; clear_value x; revert x; intro _ _; rotate_left; unfold x; clear x)
    | (extract_lets +onlyGivenNames x; revert x; intro _) | with_reducible apply State.draw_keeps
    | with_reducible refine Keeps.of_snd (by assumption) ?_ | with_reducible refine Keeps.nonce (by assumption) (Sub.bit 25 rfl hp)

theorem State.secEnd_keeps {m : Nat} {s0 s : State} (h : Keeps m s0 s) (hp : Sub 0x3000002 m) (a1 a2 a3) : Keeps m s0 (State.secEnd s a1 a2 a3) := by
  unfold State.secEnd
  repeat' first
    | with_reducible assumption | exact hp.trans rfl | intro _
    | (extract_lets +onlyGivenNames x; refine Keeps.seq (m := m) (s0 := s0) x ?_ ?_; rotate_left; clear_value x; revert x; intro _ _; rotate_left; unfold x; clear x)
    | (extract_lets +onlyGivenNames x; revert x; intro _) | with_reducible apply State.setBit_keeps
    | with_reducible apply State.setFld_keeps | with_reducible apply State.newNonce_keeps | split | (clear_value *; split)

theorem State.writeReport_keeps {m : Nat} {s0 s : State} (h : Keeps m s0 s) (hp : Sub 0x1000002 m) (a1) : Keeps m s0 (State.writeReport s a1) := by
  unfold State.writeReport
  repeat' first
    | with_reducible assumption | exact hp.trans rfl | intro _
    | (extract_lets +onlyGivenNames x; refine Keeps.seq (m := m) (s0 := s0) x ?_ ?_; rotate_left; clear_value x; revert x; intro _ _; rotate_left; unfold x; clear x)
    | (extract_lets +onlyGivenNames x; revert x; intro _) | with_reducible apply State.count_keeps
    | with_reducible refine Keeps.sec (by assumption) (Sub.bit 24 rfl hp)

theorem State.writeCerts_keeps {m : Nat} {s0 s : State} (h : Keeps m s0 s) (hp : Sub 0x1000000 m) : Keeps m s0 (State.writeCerts s) := by
  unfold State.writeCerts
  repeat' first
    | with_reducible assumption | intro _
    | (extract_lets +onlyGivenNames x; refine Keeps.seq (m := m) (s0 := s0) x ?_ ?_; rotate_left; clear_value x; revert x; intro _ _; rotate_left; unfold x; clear x)
    | (extract_lets +onlyGivenNames x; revert x; intro _) | with_reducible refine Keeps.sec (by assumption) (Sub.bit 24 rfl hp)

theorem State.portsOff_keeps {m : Nat} {s0 s : State} (h : Keeps m s0 s) (hp : Sub 0x1ded979e m) : Keeps m s0 (State.portsOff s) := by
  unfold State.portsOff
  repeat' first
    | with_reducible assumption | exact hp.trans rfl | intro _ | with_reducible apply State.portReset_keeps
    | with_reducible apply Keeps.foldl | with_reducible apply Keeps.foldl_fst

theorem State.parcelsHalt_keeps {m : Nat} {s0 s : State} (h : Keeps m s0 s) (hp : Sub 0x400002 m) : Keeps m s0 (State.parcelsHalt s) := by
  unfold State.parcelsHalt
  repeat' first
    | with_reducible assumption | exact hp.trans rfl | intro _
    | (extract_lets +onlyGivenNames x; refine Keeps.seq (m := m) (s0 := s0) x ?_ ?_; rotate_left; clear_value x; revert x; intro _ _; rotate_left; unfold x; clear x)
    | (extract_lets +onlyGivenNames x; revert x; intro _) | with_reducible apply State.setPclState_keeps
    | with_reducible apply State.zeroBusy_keeps | with_reducible apply State.pclEnd_keeps | with_reducible apply Keeps.foldl
    | with_reducible apply Keeps.foldl_fst | with_reducible refine Keeps.parcels (by assumption) (Sub.bit 22 rfl hp)

theorem State.onDieZero_keeps {m : Nat} {s0 s : State} (h : Keeps m s0 s) (hp : Sub 0x10afffe0 m) : Keeps m s0 (State.onDieZero s) := by
  unfold State.onDieZero
  repeat' first
    | with_reducible assumption | intro _
    | (extract_lets +onlyGivenNames x; refine Keeps.seq (m := m) (s0 := s0) x ?_ ?_; rotate_left; clear_value x; revert x; intro _ _; rotate_left; unfold x; clear x)
    | (extract_lets +onlyGivenNames x; revert x; intro _) | split | (clear_value *; split)
    | (with_reducible apply Keeps.several <;> first | assumption | exact id | exact .inl rfl | exact .inr (Sub.bit _ rfl hp) | exact wf_kset _ _ _ | exact wf_kdel _ _ | exact wf_filter _ _ | exact wf_memWrite _ _ _)

theorem State.objectsGone_keeps {m : Nat} {s0 s : State} (h : Keeps m s0 s) (hp : Sub 0x400 m) : Keeps m s0 (State.objectsGone s) := by
  unfold State.objectsGone
  repeat' first
    | with_reducible assumption | exact hp.trans rfl | intro _
    | (extract_lets +onlyGivenNames x; refine Keeps.seq (m := m) (s0 := s0) x ?_ ?_; rotate_left; clear_value x; revert x; intro _ _; rotate_left; unfold x; clear x)
    | (extract_lets +onlyGivenNames x; revert x; intro _) | with_reducible apply State.freeBlock_keeps | with_reducible apply Keeps.foldl
    | with_reducible apply Keeps.foldl_fst | with_reducible refine Keeps.tier (by assumption) (Sub.bit 10 rfl hp)

theorem State.clearBegin_keeps {m : Nat} {s0 s : State} (h : Keeps m s0 s) (hp : Sub 0x1deffffe m) (a1 a2 a3 a4) : Keeps m s0 (State.clearBegin s a1 a2 a3 a4) := by
  unfold State.clearBegin
  repeat' first
    | with_reducible assumption | exact hp.trans rfl | intro _
    | (extract_lets +onlyGivenNames x; refine Keeps.seq (m := m) (s0 := s0) x ?_ ?_; rotate_left; clear_value x; revert x; intro _ _; rotate_left; unfold x; clear x)
    | (extract_lets +onlyGivenNames x; refine Keeps.seq (m := m) (s0 := s0) x.2 ?_ ?_; rotate_left; clear_value x; revert x; intro _ _; rotate_left; unfold x; clear x)
    | (extract_lets +onlyGivenNames x; revert x; intro _) | with_reducible apply State.draw_keeps | with_reducible apply State.setBit_keeps
    | with_reducible apply State.resetRegs_keeps | with_reducible apply State.parcelsHalt_keeps | with_reducible apply State.portsOff_keeps
    | with_reducible apply State.onDieZero_keeps | with_reducible apply State.objectsGone_keeps | with_reducible apply State.secStore_keeps
    | with_reducible apply State.startRekey_keeps | with_reducible apply State.sendKeyp_keeps | with_reducible apply Keeps.foldl
    | with_reducible apply Keeps.foldl_fst | with_reducible refine Keeps.of_snd (by assumption) ?_
    | with_reducible refine Keeps.sec (by assumption) (Sub.bit 24 rfl hp)

theorem State.clearFinish_keeps {m : Nat} {s0 s : State} (h : Keeps m s0 s) (hp : Sub 0x7000012 m) (a1 a2 a3) : Keeps m s0 (State.clearFinish s a1 a2 a3) := by
  unfold State.clearFinish
  repeat' first
    | with_reducible assumption | exact hp.trans rfl | intro _
    | (extract_lets +onlyGivenNames x; refine Keeps.seq (m := m) (s0 := s0) x ?_ ?_; rotate_left; clear_value x; revert x; intro _ _; rotate_left; unfold x; clear x)
    | (extract_lets +onlyGivenNames x; revert x; intro _) | with_reducible apply State.setReg_keeps
    | with_reducible apply State.secStore_keeps | with_reducible apply State.zeroMem_keeps | with_reducible apply State.bindAgent_keeps
    | with_reducible apply State.setPclState_keeps | with_reducible apply State.setGrants_keeps | with_reducible apply State.setBit_keeps
    | with_reducible apply State.deriveCdi_keeps | with_reducible apply State.extendMr_keeps | with_reducible apply State.writeReport_keeps
    | with_reducible apply State.secEnd_keeps | with_reducible apply State.count_keeps | with_reducible apply Keeps.foldl
    | with_reducible apply Keeps.foldl_fst | split | (clear_value *; split)
    | with_reducible refine Keeps.sec (by assumption) (Sub.bit 24 rfl hp)

theorem State.clearMayEnd_keeps {m : Nat} {s0 s : State} (h : Keeps m s0 s) (hp : Sub 0x7000012 m) : Keeps m s0 (State.clearMayEnd s) := by
  unfold State.clearMayEnd
  repeat' first | with_reducible assumption | exact hp.trans rfl | with_reducible apply State.clearFinish_keeps | split

theorem State.moduleInit_keeps {m : Nat} {s0 s : State} (h : Keeps m s0 s) (hp : Sub 0x1ded979e m) (a1) : Keeps m s0 (State.moduleInit s a1) := by
  unfold State.moduleInit
  repeat' first
    | with_reducible assumption | exact hp.trans rfl | intro _
    | (extract_lets +onlyGivenNames x; refine Keeps.seq (m := m) (s0 := s0) x ?_ ?_; rotate_left; clear_value x; revert x; intro _ _; rotate_left; unfold x; clear x)
    | (extract_lets +onlyGivenNames x; revert x; intro _) | with_reducible apply State.moduleInitDone_keeps
    | with_reducible apply State.portReset_keeps | split | (clear_value *; split)

theorem execModuleInitDone_keeps {m : Nat} {s0 s : State} (h : Keeps m s0 s) (hp : Sub 0x1ded979e m) (a1) : Ends m s0 (execModuleInitDone a1 s) := by
  unfold execModuleInitDone
  repeat' first
    | with_reducible assumption | exact hp.trans rfl | with_reducible apply State.moduleInit_keeps | with_reducible apply Ends.next

theorem State.secAct_keeps {m : Nat} {s0 s : State} (h : Keeps m s0 s) (hp : Sub 0x1feffffe m) (a1 a2) : Keeps m s0 (State.secAct s a1 a2) := by
  unfold State.secAct
  repeat' first
    | with_reducible assumption | exact hp.trans rfl | intro _
    | (extract_lets +onlyGivenNames x; refine Keeps.seq (m := m) (s0 := s0) x ?_ ?_; rotate_left; clear_value x; revert x; intro _ _; rotate_left; unfold x; clear x)
    | (extract_lets +onlyGivenNames x; revert x; intro _) | with_reducible apply State.secEnd_keeps
    | with_reducible apply State.secStore_keeps | with_reducible apply State.writeReport_keeps | with_reducible apply State.writeCerts_keeps
    | with_reducible apply State.extendMr_keeps | with_reducible apply State.clearBegin_keeps | split | (clear_value *; split)

theorem State.secReserved_keeps {m : Nat} {s0 s : State} (h : Keeps m s0 s) (hp : Sub 0x3000006 m) (a1) : Keeps m s0 (State.secReserved s a1) := by
  unfold State.secReserved
  repeat' first
    | with_reducible assumption | exact hp.trans rfl | with_reducible apply State.secEnd_keeps | with_reducible apply State.tick_keeps
    | with_reducible apply State.setReg_keeps | split

theorem State.secRun_keeps {m : Nat} {s0 s : State} (h : Keeps m s0 s) (hp : Sub 0x1feffffe m) (a1 a2) : Keeps m s0 (State.secRun s a1 a2) := by
  unfold State.secRun
  repeat' first
    | with_reducible assumption | exact hp.trans rfl | intro _
    | (extract_lets +onlyGivenNames x; refine Keeps.seq (m := m) (s0 := s0) x ?_ ?_; rotate_left; clear_value x; revert x; intro _ _; rotate_left; unfold x; clear x)
    | (extract_lets +onlyGivenNames x; revert x; intro _) | with_reducible apply State.setBit_keeps | with_reducible apply State.tick_keeps
    | with_reducible apply State.secEnd_keeps | with_reducible apply State.count_keeps | with_reducible apply State.secAct_keeps | split
    | (clear_value *; split) | with_reducible refine Keeps.sec (by assumption) (Sub.bit 24 rfl hp)

theorem State.secGo_keeps {m : Nat} {s0 s : State} (h : Keeps m s0 s) (hp : Sub 0x1feffffe m) (a1 a2) : Keeps m s0 (State.secGo s a1 a2) := by
  unfold State.secGo
  repeat' first
    | with_reducible assumption | exact hp.trans rfl | intro _ | with_reducible apply State.cfgDo_keeps
    | with_reducible apply State.onFirmware_keeps | with_reducible apply State.setBit_keeps | with_reducible apply State.setReg_keeps
    | with_reducible apply State.secRun_keeps | split

theorem execClaim_keeps {m : Nat} {s0 s : State} (h : Keeps m s0 s) (hp : Sub 0x1feffffe m) (a1) : Ends m s0 (execClaim a1 s) := by
  unfold execClaim
  repeat' first | with_reducible assumption | exact hp.trans rfl | with_reducible apply State.secGo_keeps | with_reducible apply Ends.next

theorem execClear_keeps {m : Nat} {s0 s : State} (h : Keeps m s0 s) (hp : Sub 0x1feffffe m) (a1) : Ends m s0 (execClear a1 s) := by
  unfold execClear
  repeat' first | with_reducible assumption | exact hp.trans rfl | with_reducible apply State.secGo_keeps | with_reducible apply Ends.next

theorem execDebugCmd_keeps {m : Nat} {s0 s : State} (h : Keeps m s0 s) (hp : Sub 0x1feffffe m) (a1) : Ends m s0 (execDebugCmd a1 s) := by
  unfold execDebugCmd
  repeat' first | with_reducible assumption | exact hp.trans rfl | with_reducible apply State.secGo_keeps | with_reducible apply Ends.next

theorem execDecommission_keeps {m : Nat} {s0 s : State} (h : Keeps m s0 s) (hp : Sub 0x1feffffe m) (a1) : Ends m s0 (execDecommission a1 s) := by
  unfold execDecommission
  repeat' first | with_reducible assumption | exact hp.trans rfl | with_reducible apply State.secGo_keeps | with_reducible apply Ends.next

theorem execReport_keeps {m : Nat} {s0 s : State} (h : Keeps m s0 s) (hp : Sub 0x1feffffe m) (a1) : Ends m s0 (execReport a1 s) := by
  unfold execReport
  repeat' first | with_reducible assumption | exact hp.trans rfl | with_reducible apply State.secGo_keeps | with_reducible apply Ends.next

theorem execCerts_keeps {m : Nat} {s0 s : State} (h : Keeps m s0 s) (hp : Sub 0x1feffffe m) (a1) : Ends m s0 (execCerts a1 s) := by
  unfold execCerts
  repeat' first | with_reducible assumption | exact hp.trans rfl | with_reducible apply State.secGo_keeps | with_reducible apply Ends.next

theorem execExtend_keeps {m : Nat} {s0 s : State} (h : Keeps m s0 s) (hp : Sub 0x1feffffe m) (a1) : Ends m s0 (execExtend a1 s) := by
  unfold execExtend
  repeat' first | with_reducible assumption | exact hp.trans rfl | with_reducible apply State.secGo_keeps | with_reducible apply Ends.next

theorem execNewOwner_keeps {m : Nat} {s0 s : State} (h : Keeps m s0 s) (hp : Sub 0x1feffffe m) (a1) : Ends m s0 (execNewOwner a1 s) := by
  unfold execNewOwner
  repeat' first | with_reducible assumption | exact hp.trans rfl | with_reducible apply State.secGo_keeps | with_reducible apply Ends.next

theorem State.clearItems_keeps {m : Nat} {s0 s : State} (h : Keeps m s0 s) (hp : Sub 0x7000012 m) (a1 a2) : Keeps m s0 (State.clearItems s a1 a2) := by
  unfold State.clearItems
  repeat' first
    | with_reducible assumption | exact hp.trans rfl | intro _
    | (extract_lets +onlyGivenNames x; refine Keeps.seq (m := m) (s0 := s0) x ?_ ?_; rotate_left; clear_value x; revert x; intro _ _; rotate_left; unfold x; clear x)
    | (extract_lets +onlyGivenNames x; revert x; intro _) | with_reducible apply State.clearMayEnd_keeps | split | (clear_value *; split)
    | with_reducible refine Keeps.sec (by assumption) (Sub.bit 24 rfl hp)

theorem State.entropyFail_keeps {m : Nat} {s0 s : State} (h : Keeps m s0 s) (hp : Sub 0x19ed979e m) : Keeps m s0 (State.entropyFail s) := by
  unfold State.entropyFail
  repeat' first
    | with_reducible assumption | exact hp.trans rfl | intro _
    | (extract_lets +onlyGivenNames x; refine Keeps.seq (m := m) (s0 := s0) x ?_ ?_; rotate_left; clear_value x; revert x; intro _ _; rotate_left; unfold x; clear x)
    | (extract_lets +onlyGivenNames x; revert x; intro _) | with_reducible apply State.count_keeps | with_reducible apply State.setBit_keeps
    | with_reducible apply State.kexFail_keeps | with_reducible apply Keeps.foldl | with_reducible apply Keeps.foldl_fst

theorem execEntropyHealthFail_keeps {m : Nat} {s0 s : State} (h : Keeps m s0 s) (hp : Sub 0x19ed979e m) : Ends m s0 (execEntropyHealthFail s) := by
  unfold execEntropyHealthFail
  repeat' first
    | with_reducible assumption | exact hp.trans rfl | with_reducible apply State.entropyFail_keeps | with_reducible apply Ends.next

theorem State.jtag_keeps {m : Nat} {s0 s : State} (h : Keeps m s0 s) (hp : Sub 0x4000000 m) (a1) : Keeps m s0 (State.jtag s a1) := by
  unfold State.jtag
  repeat' first
    | with_reducible assumption | exact hp.trans rfl | intro _
    | (extract_lets +onlyGivenNames x; refine Keeps.seq (m := m) (s0 := s0) x ?_ ?_; rotate_left; clear_value x; revert x; intro _ _; rotate_left; unfold x; clear x)
    | (extract_lets +onlyGivenNames x; revert x; intro _) | with_reducible apply State.onlyIf_keeps
    | with_reducible refine Keeps.boot (by assumption) (Sub.bit 26 rfl hp)

theorem execJtagInstruction_keeps {m : Nat} {s0 s : State} (h : Keeps m s0 s) (hp : Sub 0x4000000 m) (a1) : Ends m s0 (execJtagInstruction a1 s) := by
  unfold execJtagInstruction
  repeat' first | with_reducible assumption | exact hp.trans rfl | with_reducible apply State.jtag_keeps | with_reducible apply Ends.next

end Sys2Proof.Machine
end

