-- ==== Sys2Proof/Laws/KeepsMonument.lean ====
section
/-!
SUPPORT. The operations of Machine/Monument.lean leave the queue of waiting commands alone and keep the canonical form.
-/
namespace Sys2Proof.Machine

set_option linter.all false

theorem State.msEnd_keeps {m : Nat} {s0 s : State} (h : Keeps m s0 s) (hp : Sub 0x2 m) (a1 a2) : Keeps m s0 (State.msEnd s a1 a2) := by
  unfold State.msEnd
  repeat' first
    | with_reducible assumption | exact hp.trans rfl | with_reducible apply State.setBit_keeps | with_reducible apply State.setFld_keeps

theorem State.msLoadRun_keeps {m : Nat} {s0 s : State} (h : Keeps m s0 s) (hp : Sub 0x4000002 m) : Keeps m s0 (State.msLoadRun s) := by
  unfold State.msLoadRun
  repeat' first
    | with_reducible assumption | exact hp.trans rfl | intro _
    | (extract_lets +onlyGivenNames x; refine Keeps.seq (m := m) (s0 := s0) x ?_ ?_; rotate_left; clear_value x; revert x; intro _ _; rotate_left; unfold x; clear x)
    | (extract_lets +onlyGivenNames x; revert x; intro _) | with_reducible apply State.msEnd_keeps
    | with_reducible refine Keeps.boot (by assumption) (Sub.bit 26 rfl hp)

theorem State.msStoreRun_keeps {m : Nat} {s0 s : State} (h : Keeps m s0 s) (hp : Sub 0x4000006 m) : Keeps m s0 (State.msStoreRun s) := by
  unfold State.msStoreRun
  repeat' first
    | with_reducible assumption | exact hp.trans rfl | intro _ | with_reducible apply hF
    | (extract_lets +onlyGivenNames x; refine Keeps.seq (m := m) (s0 := s0) x ?_ ?_; rotate_left; clear_value x; revert x; intro _ _; rotate_left; unfold x; clear x)
    | (extract_lets +onlyGivenNames x; refine Keeps.seqF (m := m) (s0 := s0) x ?_ ?_; rotate_left; clear_value x; revert x; intro _ hF; rotate_left; unfold x; clear x)
    | (extract_lets +onlyGivenNames x; refine Keeps.seqG (m := m) (s0 := s0) x ?_ ?_; rotate_left; clear_value x; revert x; intro _ hF; rotate_left; unfold x; clear x)
    | (extract_lets +onlyGivenNames x; refine Keeps.seqH (m := m) (s0 := s0) x ?_ ?_; rotate_left; clear_value x; revert x; intro _ hF; rotate_left; unfold x; clear x)
    | (extract_lets +onlyGivenNames x; revert x; intro _) | with_reducible apply State.tick_keeps | with_reducible apply State.msEnd_keeps
    | with_reducible apply State.count_keeps | split | (clear_value *; split)
    | with_reducible refine Keeps.boot (by assumption) (Sub.bit 26 rfl hp)

theorem State.msImageRun_keeps {m : Nat} {s0 s : State} (h : Keeps m s0 s) (hp : Sub 0x4000006 m) : Keeps m s0 (State.msImageRun s) := by
  unfold State.msImageRun
  repeat' first
    | with_reducible assumption | exact hp.trans rfl | intro _
    | (extract_lets +onlyGivenNames x; refine Keeps.seq (m := m) (s0 := s0) x ?_ ?_; rotate_left; clear_value x; revert x; intro _ _; rotate_left; unfold x; clear x)
    | (extract_lets +onlyGivenNames x; revert x; intro _) | with_reducible apply State.tick_keeps | with_reducible apply State.msEnd_keeps
    | split | (clear_value *; split) | with_reducible refine Keeps.boot (by assumption) (Sub.bit 26 rfl hp)

theorem State.msGo_keeps {m : Nat} {s0 s : State} (h : Keeps m s0 s) (hp : Sub 0x4800006 m) (a1) : Keeps m s0 (State.msGo s a1) := by
  unfold State.msGo
  repeat' first
    | with_reducible assumption | exact hp.trans rfl | intro _
    | (extract_lets +onlyGivenNames x; refine Keeps.seq (m := m) (s0 := s0) x ?_ ?_; rotate_left; clear_value x; revert x; intro _ _; rotate_left; unfold x; clear x)
    | (extract_lets +onlyGivenNames x; revert x; intro _) | with_reducible apply State.cfgDo_keeps | with_reducible apply State.setFld_keeps
    | with_reducible apply State.setBit_keeps | with_reducible apply State.setReg_keeps | with_reducible apply State.msLoadRun_keeps
    | with_reducible apply State.onFirmware_keeps | with_reducible apply State.msStoreRun_keeps
    | with_reducible apply State.msImageRun_keeps | with_reducible apply State.msEnd_keeps | split | (clear_value *; split)

theorem execMsLoad_keeps {m : Nat} {s0 s : State} (h : Keeps m s0 s) (hp : Sub 0x4800006 m) (a1) : Ends m s0 (execMsLoad a1 s) := by
  unfold execMsLoad
  repeat' first | with_reducible assumption | exact hp.trans rfl | with_reducible apply State.msGo_keeps | with_reducible apply Ends.next

theorem execMsStore_keeps {m : Nat} {s0 s : State} (h : Keeps m s0 s) (hp : Sub 0x4800006 m) (a1) : Ends m s0 (execMsStore a1 s) := by
  unfold execMsStore
  repeat' first | with_reducible assumption | exact hp.trans rfl | with_reducible apply State.msGo_keeps | with_reducible apply Ends.next

theorem execMsImage_keeps {m : Nat} {s0 s : State} (h : Keeps m s0 s) (hp : Sub 0x4800006 m) (a1) : Ends m s0 (execMsImage a1 s) := by
  unfold execMsImage
  repeat' first | with_reducible assumption | exact hp.trans rfl | with_reducible apply State.msGo_keeps | with_reducible apply Ends.next

theorem State.storeFree_keeps {m : Nat} {s0 s : State} (h : Keeps m s0 s) (hp : Sub 0x1feffffe m) : Keeps m s0 (State.storeFree s) := by
  unfold State.storeFree
  repeat' first
    | with_reducible assumption | exact hp.trans rfl | intro _
    | (extract_lets +onlyGivenNames x; refine Keeps.seq (m := m) (s0 := s0) x ?_ ?_; rotate_left; clear_value x; revert x; intro _ _; rotate_left; unfold x; clear x)
    | (extract_lets +onlyGivenNames x; revert x; intro _) | with_reducible apply State.secRun_keeps
    | with_reducible apply State.clearMayEnd_keeps | split | (clear_value *; split)
    | with_reducible refine Keeps.sec (by assumption) (Sub.bit 24 rfl hp)

theorem State.msStoreDone_keeps {m : Nat} {s0 s : State} (h : Keeps m s0 s) (hp : Sub 0x1feffffe m) (a1) : Keeps m s0 (State.msStoreDone s a1) := by
  unfold State.msStoreDone
  repeat' first
    | with_reducible assumption | exact hp.trans rfl | intro _
    | (extract_lets +onlyGivenNames x; refine Keeps.seq (m := m) (s0 := s0) x ?_ ?_; rotate_left; clear_value x; revert x; intro _ _; rotate_left; unfold x; clear x)
    | (extract_lets +onlyGivenNames x; revert x; intro _) | with_reducible apply State.storeFree_keeps
    | with_reducible apply State.msEnd_keeps | with_reducible apply State.count_keeps | split | (clear_value *; split)
    | with_reducible refine Keeps.boot (by assumption) (Sub.bit 26 rfl hp)

theorem execMsStoreDone_keeps {m : Nat} {s0 s : State} (h : Keeps m s0 s) (hp : Sub 0x1feffffe m) (a1) : Ends m s0 (execMsStoreDone a1 s) := by
  unfold execMsStoreDone
  repeat' first
    | with_reducible assumption | exact hp.trans rfl | with_reducible apply State.msStoreDone_keeps | with_reducible apply Ends.next

theorem State.msImageDone_keeps {m : Nat} {s0 s : State} (h : Keeps m s0 s) (hp : Sub 0x1feffffe m) (a1) : Keeps m s0 (State.msImageDone s a1) := by
  unfold State.msImageDone
  repeat' first
    | with_reducible assumption | exact hp.trans rfl | intro _
    | (extract_lets +onlyGivenNames x; refine Keeps.seq (m := m) (s0 := s0) x ?_ ?_; rotate_left; clear_value x; revert x; intro _ _; rotate_left; unfold x; clear x)
    | (extract_lets +onlyGivenNames x; revert x; intro _) | with_reducible apply State.storeFree_keeps
    | with_reducible apply State.msEnd_keeps | with_reducible apply State.count_keeps | split | (clear_value *; split)
    | with_reducible refine Keeps.boot (by assumption) (Sub.bit 26 rfl hp)

theorem execMsImageDone_keeps {m : Nat} {s0 s : State} (h : Keeps m s0 s) (hp : Sub 0x1feffffe m) (a1) : Ends m s0 (execMsImageDone a1 s) := by
  unfold execMsImageDone
  repeat' first
    | with_reducible assumption | exact hp.trans rfl | with_reducible apply State.msImageDone_keeps | with_reducible apply Ends.next

theorem State.stgAdvance_keeps {m : Nat} {s0 s : State} (h : Keeps m s0 s) (hp : Sub 0x2 m) : Keeps m s0 (State.stgAdvance s) := by
  unfold State.stgAdvance
  repeat' first | with_reducible assumption | exact hp.trans rfl | with_reducible apply State.setFld_keeps | split

theorem State.stgWrite_keeps {m : Nat} {s0 s : State} (h : Keeps m s0 s) (hp : Sub 0x4000006 m) (a1) : Keeps m s0 (State.stgWrite s a1) := by
  unfold State.stgWrite
  repeat' first
    | with_reducible assumption | exact hp.trans rfl | intro _
    | (extract_lets +onlyGivenNames x; refine Keeps.seq (m := m) (s0 := s0) x ?_ ?_; rotate_left; clear_value x; revert x; intro _ _; rotate_left; unfold x; clear x)
    | (extract_lets +onlyGivenNames x; revert x; intro _) | with_reducible apply State.cfgDo_keeps
    | with_reducible apply State.stgAdvance_keeps | with_reducible refine Keeps.boot (by assumption) (Sub.bit 26 rfl hp)

theorem execMsStgDataWrite_keeps {m : Nat} {s0 s : State} (h : Keeps m s0 s) (hp : Sub 0x4000006 m) (a1) : Ends m s0 (execMsStgDataWrite a1 s) := by
  unfold execMsStgDataWrite
  repeat' first
    | with_reducible assumption | exact hp.trans rfl | with_reducible apply State.stgWrite_keeps | with_reducible apply Ends.next

theorem State.hbmRetrainRun_keeps {m : Nat} {s0 s : State} (h : Keeps m s0 s) (hp : Sub 0x2 m) (a1) : Keeps m s0 (State.hbmRetrainRun s a1) := by
  unfold State.hbmRetrainRun
  repeat' first | with_reducible assumption | exact hp.trans rfl | with_reducible apply State.setBit_keeps | split

theorem State.hbmRetrain_keeps {m : Nat} {s0 s : State} (h : Keeps m s0 s) (hp : Sub 0x800006 m) (a1) : Keeps m s0 (State.hbmRetrain s a1) := by
  unfold State.hbmRetrain
  repeat' first
    | with_reducible assumption | exact hp.trans rfl | intro _ | with_reducible apply State.cfgDo_keeps
    | with_reducible apply State.onFirmware_keeps | with_reducible apply State.hbmRetrainRun_keeps

theorem execHbmRetrain_keeps {m : Nat} {s0 s : State} (h : Keeps m s0 s) (hp : Sub 0x800006 m) (a1) : Ends m s0 (execHbmRetrain a1 s) := by
  unfold execHbmRetrain
  repeat' first
    | with_reducible assumption | exact hp.trans rfl | with_reducible apply State.hbmRetrain_keeps | with_reducible apply Ends.next

end Sys2Proof.Machine
end

