-- ==== Sys2Proof/Laws/KeepsXcEngine.lean ====
section
/-!
SUPPORT. The operations of Machine/XcEngine.lean leave the queue of waiting commands alone and keep the canonical form.
-/
namespace Sys2Proof.Machine

set_option linter.all false

theorem State.xcReq_keeps {m : Nat} {s0 s : State} (h : Keeps m s0 s) (hp : Sub 0x10800000 m) (a1 a2 a3 a4 a5 a6) : Keeps m s0 (State.xcReq s a1 a2 a3 a4 a5 a6) := by
  unfold State.xcReq
  repeat' first
    | with_reducible assumption | exact hp.trans rfl | intro _
    | (extract_lets +onlyGivenNames x; refine Keeps.seq (m := m) (s0 := s0) x ?_ ?_; rotate_left; clear_value x; revert x; intro _ _; rotate_left; unfold x; clear x)
    | (extract_lets +onlyGivenNames x; revert x; intro _) | with_reducible apply State.issue_keeps

theorem State.setXc_keeps {m : Nat} {s0 s : State} (h : Keeps m s0 s) (hp : Sub 0x20000 m) (a1) : Keeps m s0 (State.setXc s a1) := by
  unfold State.setXc
  repeat' first | with_reducible assumption | with_reducible refine Keeps.xc (by assumption) (Sub.bit 17 rfl hp)

theorem State.xcStep_keeps {m : Nat} {s0 s : State} (h : Keeps m s0 s) (hp : Sub 0x1082000a m) (a1) : Keeps m s0 (State.xcStep s a1) := by
  unfold State.xcStep
  repeat' first
    | with_reducible assumption | exact hp.trans rfl | intro _
    | (extract_lets +onlyGivenNames x; refine Keeps.seq (m := m) (s0 := s0) x ?_ ?_; rotate_left; clear_value x; revert x; intro _ _; rotate_left; unfold x; clear x)
    | (extract_lets +onlyGivenNames x; refine Keeps.seq (m := m) (s0 := s0) x.1 ?_ ?_; rotate_left; clear_value x; revert x; intro _ _; rotate_left; unfold x; clear x)
    | (extract_lets +onlyGivenNames x; revert x; intro _) | with_reducible apply State.coherentAt_keeps
    | with_reducible apply State.setXc_keeps | with_reducible apply State.xcReq_keeps | with_reducible apply State.count_keeps | split
    | (clear_value *; split) | with_reducible refine Keeps.of_fst (by assumption) ?_

theorem State.xcCmp_keeps {m : Nat} {s0 s : State} (h : Keeps m s0 s) (hp : Sub 0x1082000a m) (a1 a2 a3) : Keeps m s0 (State.xcCmp s a1 a2 a3) := by
  unfold State.xcCmp
  repeat' first
    | with_reducible assumption | exact hp.trans rfl | with_reducible apply State.setXc_keeps | with_reducible apply State.xcStep_keeps
    | with_reducible apply State.count_keeps | split

theorem State.xcCtlWrite_keeps {m : Nat} {s0 s : State} (h : Keeps m s0 s) (hp : Sub 0x1082000e m) (a1) : Keeps m s0 (State.xcCtlWrite s a1) := by
  unfold State.xcCtlWrite
  repeat' first
    | with_reducible assumption | exact hp.trans rfl | intro _
    | (extract_lets +onlyGivenNames x; refine Keeps.seq (m := m) (s0 := s0) x ?_ ?_; rotate_left; clear_value x; revert x; intro _ _; rotate_left; unfold x; clear x)
    | (extract_lets +onlyGivenNames x; revert x; intro _) | with_reducible apply State.cfgDo_keeps | with_reducible apply State.setFld_keeps
    | with_reducible apply State.setReg_keeps | with_reducible apply State.setXc_keeps | with_reducible apply State.xcStep_keeps | split
    | (clear_value *; split)

theorem execXcEncode_keeps {m : Nat} {s0 s : State} (h : Keeps m s0 s) (hp : Sub 0x1082000e m) (a1) : Ends m s0 (execXcEncode a1 s) := by
  unfold execXcEncode
  repeat' first
    | with_reducible assumption | exact hp.trans rfl | with_reducible apply State.xcCtlWrite_keeps | with_reducible apply Ends.next

theorem execXcVerify_keeps {m : Nat} {s0 s : State} (h : Keeps m s0 s) (hp : Sub 0x1082000e m) (a1) : Ends m s0 (execXcVerify a1 s) := by
  unfold execXcVerify
  repeat' first
    | with_reducible assumption | exact hp.trans rfl | with_reducible apply State.xcCtlWrite_keeps | with_reducible apply Ends.next

theorem State.xcDone_keeps {m : Nat} {s0 s : State} (h : Keeps m s0 s) (hp : Sub 0x20002 m) : Keeps m s0 (State.xcDone s) := by
  unfold State.xcDone
  repeat' first
    | with_reducible assumption | exact hp.trans rfl | intro _
    | (extract_lets +onlyGivenNames x; refine Keeps.seq (m := m) (s0 := s0) x ?_ ?_; rotate_left; clear_value x; revert x; intro _ _; rotate_left; unfold x; clear x)
    | (extract_lets +onlyGivenNames x; revert x; intro _) | with_reducible apply State.setReg_keeps | split | (clear_value *; split)
    | with_reducible refine Keeps.xc (by assumption) (Sub.bit 17 rfl hp)

theorem execXcRunDone_keeps {m : Nat} {s0 s : State} (h : Keeps m s0 s) (hp : Sub 0x20002 m) : Ends m s0 (execXcRunDone s) := by
  unfold execXcRunDone
  repeat' first | with_reducible assumption | exact hp.trans rfl | with_reducible apply State.xcDone_keeps | with_reducible apply Ends.next

end Sys2Proof.Machine
end

