-- ==== Sys2Proof/Laws/KeepsCompletions.lean ====
section
/-!
SUPPORT. The operations of Machine/Completions.lean leave the queue of waiting commands alone and keep the canonical form.
-/
namespace Sys2Proof.Machine

set_option linter.all false

theorem State.dropProxyTracker_keeps {m : Nat} {s0 s : State} (h : Keeps m s0 s) (hp : Sub 0x800000 m) (a1) : Keeps m s0 (State.dropProxyTracker s a1) := by
  unfold State.dropProxyTracker
  repeat' first
    | with_reducible assumption | intro _
    | (extract_lets +onlyGivenNames x; refine Keeps.seq (m := m) (s0 := s0) x ?_ ?_; rotate_left; clear_value x; revert x; intro _ _; rotate_left; unfold x; clear x)
    | (extract_lets +onlyGivenNames x; revert x; intro _) | split | (clear_value *; split)
    | with_reducible refine Keeps.recov (by assumption) (Sub.bit 23 rfl hp)

theorem State.tlcWritten_keeps {m : Nat} {s0 s : State} (h : Keeps m s0 s) (hp : Sub 0x10801802 m) (a1 a2) : Keeps m s0 (State.tlcWritten s a1 a2) := by
  unfold State.tlcWritten
  repeat' first
    | with_reducible assumption | exact hp.trans rfl | intro _
    | (extract_lets +onlyGivenNames x; refine Keeps.seq (m := m) (s0 := s0) x ?_ ?_; rotate_left; clear_value x; revert x; intro _ _; rotate_left; unfold x; clear x)
    | (extract_lets +onlyGivenNames x; revert x; intro _) | with_reducible apply State.tlcReplay_keeps
    | with_reducible apply State.delTlc_keeps | split | (clear_value *; split)

theorem State.cmpFor'_keeps {m : Nat} {s0 s : State} (h : Keeps m s0 s) (hp : Sub 0x19abdd9e m) (a1 a2) : Keeps m s0 (State.cmpFor' s a1 a2) := by
  unfold State.cmpFor'
  repeat' first
    | with_reducible assumption | exact hp.trans rfl | intro _
    | (extract_lets +onlyGivenNames x; refine Keeps.seq (m := m) (s0 := s0) x ?_ ?_; rotate_left; clear_value x; revert x; intro _ _; rotate_left; unfold x; clear x)
    | (extract_lets +onlyGivenNames x; revert x; intro _) | with_reducible apply State.dropTracker_keeps
    | with_reducible apply State.send_keeps | with_reducible apply State.remoteCompletion_keeps
    | with_reducible apply State.tlcWritten_keeps | with_reducible apply State.tierCmp_keeps | with_reducible apply State.tierRecorded_keeps
    | with_reducible apply State.backCmp_keeps | with_reducible apply State.destCmp_keeps | with_reducible apply State.gatherCmp_keeps
    | with_reducible apply State.roceCmp_keeps | with_reducible apply State.rawWritten_keeps | with_reducible apply State.pageArrives_keeps
    | with_reducible apply State.xcCmp_keeps | with_reducible apply State.mirrorCmp_keeps | with_reducible apply State.spilled_keeps
    | with_reducible apply State.travLineCmp_keeps | with_reducible apply State.planRecorded_keeps
    | with_reducible apply State.travRecorded_keeps | with_reducible apply State.pnmRecorded_keeps
    | with_reducible apply State.pnmTableRead_keeps | split | (clear_value *; split)

theorem State.cmp_keeps {m : Nat} {s0 s : State} (h : Keeps m s0 s) (hp : Sub 0x19afdd9e m) (a1) : Keeps m s0 (State.cmp s a1) := by
  unfold State.cmp
  repeat' first
    | with_reducible assumption | exact hp.trans rfl | intro _
    | (extract_lets +onlyGivenNames x; refine Keeps.seq (m := m) (s0 := s0) x ?_ ?_; rotate_left; clear_value x; revert x; intro _ _; rotate_left; unfold x; clear x)
    | (extract_lets +onlyGivenNames x; refine Keeps.seq (m := m) (s0 := s0) x.1 ?_ ?_; rotate_left; clear_value x; revert x; intro _ _; rotate_left; unfold x; clear x)
    | (extract_lets +onlyGivenNames x; revert x; intro _) | with_reducible apply State.heed_keeps
    | with_reducible apply State.proxyCmp_keeps | with_reducible apply State.dropProxyTracker_keeps
    | with_reducible apply State.cmpFor'_keeps | with_reducible apply State.toFilard_keeps | with_reducible apply State.count_keeps | split
    | (clear_value *; split) | with_reducible refine Keeps.of_fst (by assumption) ?_

theorem execCmp_keeps {m : Nat} {s0 s : State} (h : Keeps m s0 s) (hp : Sub 0x19afdd9e m) (a1) : Ends m s0 (execCmp a1 s) := by
  unfold execCmp
  repeat' first | with_reducible assumption | exact hp.trans rfl | with_reducible apply State.cmp_keeps | with_reducible apply Ends.next

theorem State.answerSelf_keeps {m : Nat} {s0 s : State} (h : Keeps m s0 s) (hp : Sub 0x19afdd9e m) (a1 a2) : Keeps m s0 (State.answerSelf s a1 a2) := by
  unfold State.answerSelf
  repeat' first
    | with_reducible assumption | exact hp.trans rfl | intro _
    | (extract_lets +onlyGivenNames x; refine Keeps.seq (m := m) (s0 := s0) x ?_ ?_; rotate_left; clear_value x; revert x; intro _ _; rotate_left; unfold x; clear x)
    | (extract_lets +onlyGivenNames x; revert x; intro _) | with_reducible apply State.send_keeps | with_reducible apply State.cmp_keeps
    | with_reducible apply State.cmpFor'_keeps | split | (clear_value *; split)

theorem State.trackerTimeout_keeps {m : Nat} {s0 s : State} (h : Keeps m s0 s) (hp : Sub 0x19afdd9e m) (a1) : Keeps m s0 (State.trackerTimeout s a1) := by
  unfold State.trackerTimeout
  repeat' first
    | with_reducible assumption | exact hp.trans rfl | intro _
    | (extract_lets +onlyGivenNames x; refine Keeps.seq (m := m) (s0 := s0) x ?_ ?_; rotate_left; clear_value x; revert x; intro _ _; rotate_left; unfold x; clear x)
    | (extract_lets +onlyGivenNames x; revert x; intro _) | with_reducible apply State.record_keeps | with_reducible apply State.count_keeps
    | with_reducible apply State.answerSelf_keeps | split | (clear_value *; split)
    | with_reducible refine Keeps.recov (by assumption) (Sub.bit 23 rfl hp)

theorem execTrackerTimeout_keeps {m : Nat} {s0 s : State} (h : Keeps m s0 s) (hp : Sub 0x19afdd9e m) (a1) : Ends m s0 (execTrackerTimeout a1 s) := by
  unfold execTrackerTimeout
  repeat' first
    | with_reducible assumption | exact hp.trans rfl | with_reducible apply State.trackerTimeout_keeps | with_reducible apply Ends.next

theorem State.drnReturn_keeps {m : Nat} {s0 s : State} (h : Keeps m s0 s) (hp : Sub 0x10800202 m) (a1) : Keeps m s0 (State.drnReturn s a1) := by
  unfold State.drnReturn
  repeat' first
    | with_reducible assumption | exact hp.trans rfl | intro _
    | (extract_lets +onlyGivenNames x; refine Keeps.seq (m := m) (s0 := s0) x ?_ ?_; rotate_left; clear_value x; revert x; intro _ _; rotate_left; unfold x; clear x)
    | (extract_lets +onlyGivenNames x; revert x; intro _) | with_reducible apply State.completeDue_keeps
    | with_reducible apply State.setPath_keeps | with_reducible apply State.count_keeps

theorem execDrnReturn_keeps {m : Nat} {s0 s : State} (h : Keeps m s0 s) (hp : Sub 0x10800202 m) (a1) : Ends m s0 (execDrnReturn a1 s) := by
  unfold execDrnReturn
  repeat' first
    | with_reducible assumption | exact hp.trans rfl | with_reducible apply State.drnReturn_keeps | with_reducible apply Ends.next

theorem State.doorTake_keeps {m : Nat} {s0 s : State} (h : Keeps m s0 s) (hp : Sub 0x1981cc1e m) (a1 a2) : Keeps m s0 (State.doorTake s a1 a2) := by
  unfold State.doorTake
  repeat' first
    | with_reducible assumption | exact hp.trans rfl | intro _
    | (extract_lets +onlyGivenNames x; refine Keeps.seq (m := m) (s0 := s0) x ?_ ?_; rotate_left; clear_value x; revert x; intro _ _; rotate_left; unfold x; clear x)
    | (extract_lets +onlyGivenNames x; revert x; intro _) | with_reducible apply State.travQueue_keeps
    | with_reducible apply State.tierQueue_keeps | with_reducible apply State.planQueue_keeps | with_reducible apply State.pnmQueue_keeps
    | with_reducible apply State.complete_keeps | with_reducible apply State.setTile_keeps | split | (clear_value *; split)

theorem State.heldAccepted_keeps {m : Nat} {s0 s : State} (h : Keeps m s0 s) (hp : Sub 0x1981cc1e m) (a1) : Keeps m s0 (State.heldAccepted s a1) := by
  unfold State.heldAccepted
  repeat' first
    | with_reducible assumption | exact hp.trans rfl | intro _
    | (extract_lets +onlyGivenNames x; refine Keeps.seq (m := m) (s0 := s0) x ?_ ?_; rotate_left; clear_value x; revert x; intro _ _; rotate_left; unfold x; clear x)
    | (extract_lets +onlyGivenNames x; revert x; intro _) | with_reducible apply State.doorTake_keeps | split | (clear_value *; split)
    | with_reducible refine Keeps.tier (by assumption) (Sub.bit 10 rfl hp)

theorem execHeldDoorbellAccepted_keeps {m : Nat} {s0 s : State} (h : Keeps m s0 s) (hp : Sub 0x1981cc1e m) (a1) : Ends m s0 (execHeldDoorbellAccepted a1 s) := by
  unfold execHeldDoorbellAccepted
  repeat' first
    | with_reducible assumption | exact hp.trans rfl | with_reducible apply State.heldAccepted_keeps | with_reducible apply Ends.next

theorem State.fwRun_keeps {m : Nat} {s0 s : State} (h : Keeps m s0 s) (hp : Sub 0x1feffffe m) (a1) : Keeps m s0 (State.fwRun s a1) := by
  unfold State.fwRun
  repeat' first
    | with_reducible assumption | exact hp.trans rfl | with_reducible apply State.levellingRetry_keeps
    | with_reducible apply State.wearLevel_keeps | with_reducible apply State.refresh_keeps | with_reducible apply State.pclRun_keeps
    | with_reducible apply State.extRun_keeps | with_reducible apply State.hbmRetrainRun_keeps | with_reducible apply State.msStoreRun_keeps
    | with_reducible apply State.secRun_keeps | split

theorem State.firmwareDone_keeps {m : Nat} {s0 s : State} (h : Keeps m s0 s) (hp : Sub 0x1feffffe m) (a1) : Keeps m s0 (State.firmwareDone s a1) := by
  unfold State.firmwareDone
  repeat' first
    | with_reducible assumption | exact hp.trans rfl | intro _
    | (extract_lets +onlyGivenNames x; refine Keeps.seq (m := m) (s0 := s0) x ?_ ?_; rotate_left; clear_value x; revert x; intro _ _; rotate_left; unfold x; clear x)
    | (extract_lets +onlyGivenNames x; revert x; intro _) | with_reducible apply State.fwRun_keeps | with_reducible apply Keeps.foldl
    | with_reducible apply Keeps.foldl_fst | split | (clear_value *; split)
    | with_reducible refine Keeps.recov (by assumption) (Sub.bit 23 rfl hp)

theorem execFirmwareRestartDone_keeps {m : Nat} {s0 s : State} (h : Keeps m s0 s) (hp : Sub 0x1feffffe m) (a1) : Ends m s0 (execFirmwareRestartDone a1 s) := by
  unfold execFirmwareRestartDone
  repeat' first
    | with_reducible assumption | exact hp.trans rfl | with_reducible apply State.firmwareDone_keeps | with_reducible apply Ends.next

end Sys2Proof.Machine
end

