-- ==== Sys2Proof/Laws/KeepsConfigSpace.lean ====
section
/-!
SUPPORT. The operations of Machine/ConfigSpace.lean leave the queue of waiting commands alone and keep the canonical form.
-/
namespace Sys2Proof.Machine

set_option linter.all false

theorem State.cfgRead_keeps {m : Nat} {s0 s : State} (h : Keeps m s0 s) (hp : Sub 0x6 m) (a1) : Keeps m s0 (State.cfgRead s a1) := by
  unfold State.cfgRead
  repeat' first
    | with_reducible assumption | exact hp.trans rfl | intro _
    | (extract_lets +onlyGivenNames x; refine Keeps.seq (m := m) (s0 := s0) x ?_ ?_; rotate_left; clear_value x; revert x; intro _ _; rotate_left; unfold x; clear x)
    | (extract_lets +onlyGivenNames x; revert x; intro _) | with_reducible apply State.tick_keeps | with_reducible apply State.setReg_keeps
    | with_reducible apply State.glAdvance_keeps | with_reducible apply State.stgAdvance_keeps | split | (clear_value *; split)

theorem State.perturbWrite_keeps {m : Nat} {s0 s : State} (h : Keeps m s0 s) (hp : Sub 0x19ed979e m) (a1 a2) : Keeps m s0 (State.perturbWrite s a1 a2) := by
  unfold State.perturbWrite
  repeat' first
    | with_reducible assumption | exact hp.trans rfl | intro _
    | (extract_lets +onlyGivenNames x; refine Keeps.seq (m := m) (s0 := s0) x ?_ ?_; rotate_left; clear_value x; revert x; intro _ _; rotate_left; unfold x; clear x)
    | (extract_lets +onlyGivenNames x; revert x; intro _) | with_reducible apply State.cfgDo_keeps | with_reducible apply State.setBit_keeps
    | with_reducible apply State.setReg_keeps | with_reducible apply State.setLink_keeps | with_reducible apply State.laneFails_keeps
    | split | (clear_value *; split)

theorem State.perturbPage_keeps {m : Nat} {s0 s : State} (h : Keeps m s0 s) (hp : Sub 0x19ed979e m) (a1 a2) : Keeps m s0 (State.perturbPage s a1 a2) := by
  unfold State.perturbPage
  repeat' first | with_reducible assumption | exact hp.trans rfl | with_reducible apply State.perturbWrite_keeps | split

theorem execPerturbOff_keeps {m : Nat} {s0 s : State} (h : Keeps m s0 s) (hp : Sub 0x19ed979e m) (a1 a2) : Ends m s0 (execPerturbOff a1 a2 s) := by
  unfold execPerturbOff
  repeat' first
    | with_reducible assumption | exact hp.trans rfl | with_reducible apply State.perturbPage_keeps | with_reducible apply Ends.next

theorem execPerturbDelay_keeps {m : Nat} {s0 s : State} (h : Keeps m s0 s) (hp : Sub 0x19ed979e m) (a1 a2) : Ends m s0 (execPerturbDelay a1 a2 s) := by
  unfold execPerturbDelay
  repeat' first
    | with_reducible assumption | exact hp.trans rfl | with_reducible apply State.perturbPage_keeps | with_reducible apply Ends.next

theorem execPerturbBackpressure_keeps {m : Nat} {s0 s : State} (h : Keeps m s0 s) (hp : Sub 0x19ed979e m) (a1 a2) : Ends m s0 (execPerturbBackpressure a1 a2 s) := by
  unfold execPerturbBackpressure
  repeat' first
    | with_reducible assumption | exact hp.trans rfl | with_reducible apply State.perturbPage_keeps | with_reducible apply Ends.next

theorem execPerturbGateJitter_keeps {m : Nat} {s0 s : State} (h : Keeps m s0 s) (hp : Sub 0x19ed979e m) (a1 a2) : Ends m s0 (execPerturbGateJitter a1 a2 s) := by
  unfold execPerturbGateJitter
  repeat' first
    | with_reducible assumption | exact hp.trans rfl | with_reducible apply State.perturbPage_keeps | with_reducible apply Ends.next

theorem execPerturbInject_keeps {m : Nat} {s0 s : State} (h : Keeps m s0 s) (hp : Sub 0x19ed979e m) (a1 a2) : Ends m s0 (execPerturbInject a1 a2 s) := by
  unfold execPerturbInject
  repeat' first
    | with_reducible assumption | exact hp.trans rfl | with_reducible apply State.perturbPage_keeps | with_reducible apply Ends.next

theorem State.plainWrite_keeps {m : Nat} {s0 s : State} (h : Keeps m s0 s) (hp : Sub 0x6 m) (a1 a2 a3) : Keeps m s0 (State.plainWrite s a1 a2 a3) := by
  unfold State.plainWrite
  repeat' first
    | with_reducible assumption | exact hp.trans rfl | intro _
    | (extract_lets +onlyGivenNames x; refine Keeps.seq (m := m) (s0 := s0) x ?_ ?_; rotate_left; clear_value x; revert x; intro _ _; rotate_left; unfold x; clear x)
    | (extract_lets +onlyGivenNames x; revert x; intro _) | with_reducible apply State.cfgDo_keeps | with_reducible apply State.setReg_keeps
    | split | (clear_value *; split)

theorem State.pgCtlWrite_keeps {m : Nat} {s0 s : State} (h : Keeps m s0 s) (hp : Sub 0x6 m) (a1 a2) : Keeps m s0 (State.pgCtlWrite s a1 a2) := by
  unfold State.pgCtlWrite
  repeat' first
    | with_reducible assumption | exact hp.trans rfl | intro _
    | (extract_lets +onlyGivenNames x; refine Keeps.seq (m := m) (s0 := s0) x ?_ ?_; rotate_left; clear_value x; revert x; intro _ _; rotate_left; unfold x; clear x)
    | (extract_lets +onlyGivenNames x; revert x; intro _) | with_reducible apply State.cfgDo_keeps | with_reducible apply State.setBit_keeps
    | with_reducible apply State.resetRegs_keeps | split | (clear_value *; split)

theorem State.twnAreaWrite_keeps {m : Nat} {s0 s : State} (h : Keeps m s0 s) (hp : Sub 0x800004 m) (a1) : Keeps m s0 (State.twnAreaWrite s a1) := by
  unfold State.twnAreaWrite
  repeat' first
    | with_reducible assumption | exact hp.trans rfl | intro _
    | (extract_lets +onlyGivenNames x; refine Keeps.seq (m := m) (s0 := s0) x ?_ ?_; rotate_left; clear_value x; revert x; intro _ _; rotate_left; unfold x; clear x)
    | (extract_lets +onlyGivenNames x; revert x; intro _) | with_reducible apply State.cfgDo_keeps
    | with_reducible refine Keeps.recov (by assumption) (Sub.bit 23 rfl hp)

theorem State.tqObjWrite_keeps {m : Nat} {s0 s : State} (h : Keeps m s0 s) (hp : Sub 0x404 m) (a1) : Keeps m s0 (State.tqObjWrite s a1) := by
  unfold State.tqObjWrite
  repeat' first
    | with_reducible assumption | exact hp.trans rfl | intro _
    | (extract_lets +onlyGivenNames x; refine Keeps.seq (m := m) (s0 := s0) x ?_ ?_; rotate_left; clear_value x; revert x; intro _ _; rotate_left; unfold x; clear x)
    | (extract_lets +onlyGivenNames x; revert x; intro _) | with_reducible apply State.cfgDo_keeps
    | with_reducible refine Keeps.tier (by assumption) (Sub.bit 10 rfl hp)

theorem State.ringCfgWrite_keeps {m : Nat} {s0 s : State} (h : Keeps m s0 s) (hp : Sub 0x200004 m) (a1) : Keeps m s0 (State.ringCfgWrite s a1) := by
  unfold State.ringCfgWrite
  repeat' first
    | with_reducible assumption | exact hp.trans rfl | intro _
    | (extract_lets +onlyGivenNames x; refine Keeps.seq (m := m) (s0 := s0) x ?_ ?_; rotate_left; clear_value x; revert x; intro _ _; rotate_left; unfold x; clear x)
    | (extract_lets +onlyGivenNames x; revert x; intro _) | with_reducible apply State.cfgDo_keeps
    | with_reducible apply State.setRing_keeps

theorem State.tierWeWrite_keeps {m : Nat} {s0 s : State} (h : Keeps m s0 s) (hp : Sub 0x6 m) (a1) : Keeps m s0 (State.tierWeWrite s a1) := by
  unfold State.tierWeWrite
  repeat' first
    | with_reducible assumption | exact hp.trans rfl | intro _
    | (extract_lets +onlyGivenNames x; refine Keeps.seq (m := m) (s0 := s0) x ?_ ?_; rotate_left; clear_value x; revert x; intro _ _; rotate_left; unfold x; clear x)
    | (extract_lets +onlyGivenNames x; revert x; intro _) | with_reducible apply State.cfgDo_keeps | with_reducible apply State.setBit_keeps
    | with_reducible apply State.weSteps_keeps | with_reducible apply State.commitT2_keeps | split | (clear_value *; split)

theorem State.tileCtlWrite_keeps {m : Nat} {s0 s : State} (h : Keeps m s0 s) (hp : Sub 0x8804806 m) (a1 a2) : Keeps m s0 (State.tileCtlWrite s a1 a2) := by
  unfold State.tileCtlWrite
  repeat' first
    | with_reducible assumption | exact hp.trans rfl | intro _
    | (extract_lets +onlyGivenNames x; refine Keeps.seq (m := m) (s0 := s0) x ?_ ?_; rotate_left; clear_value x; revert x; intro _ _; rotate_left; unfold x; clear x)
    | (extract_lets +onlyGivenNames x; revert x; intro _) | with_reducible apply State.cfgDo_keeps | with_reducible apply State.setFld_keeps
    | with_reducible apply State.killCtx_keeps | with_reducible apply State.setBit_keeps | with_reducible apply State.clearTile_keeps
    | with_reducible apply Keeps.foldl | with_reducible apply Keeps.foldl_fst | split | (clear_value *; split)

theorem State.secOpWrite_keeps {m : Nat} {s0 s : State} (h : Keeps m s0 s) (hp : Sub 0x3000006 m) (a1) : Keeps m s0 (State.secOpWrite s a1) := by
  unfold State.secOpWrite
  repeat' first
    | with_reducible assumption | exact hp.trans rfl | intro _
    | (extract_lets +onlyGivenNames x; refine Keeps.seq (m := m) (s0 := s0) x ?_ ?_; rotate_left; clear_value x; revert x; intro _ _; rotate_left; unfold x; clear x)
    | (extract_lets +onlyGivenNames x; revert x; intro _) | with_reducible apply State.cfgDo_keeps
    | with_reducible apply State.secReserved_keeps | with_reducible apply State.setFld_keeps | split | (clear_value *; split)

theorem State.roleWrite_keeps {m : Nat} {s0 s : State} (h : Keeps m s0 s) (hp : Sub 0x16 m) (a1 a2) : Keeps m s0 (State.roleWrite s a1 a2) := by
  unfold State.roleWrite
  repeat' first
    | with_reducible assumption | exact hp.trans rfl | intro _
    | (extract_lets +onlyGivenNames x; refine Keeps.seq (m := m) (s0 := s0) x ?_ ?_; rotate_left; clear_value x; revert x; intro _ _; rotate_left; unfold x; clear x)
    | (extract_lets +onlyGivenNames x; revert x; intro _) | with_reducible apply State.plainWrite_keeps
    | with_reducible apply State.endLost_keeps | split | (clear_value *; split)

theorem State.powerWrite_keeps {m : Nat} {s0 s : State} (h : Keeps m s0 s) (hp : Sub 0x8000006 m) (a1 a2) : Keeps m s0 (State.powerWrite s a1 a2) := by
  unfold State.powerWrite
  repeat' first
    | with_reducible assumption | exact hp.trans rfl | with_reducible apply State.judgePower_keeps
    | with_reducible apply State.plainWrite_keeps

theorem State.regWrite_keeps {m : Nat} {s0 s : State} (h : Keeps m s0 s) (hp : Sub 0x1ffffffe m) (a1 a2 a3) : Keeps m s0 (State.regWrite s a1 a2 a3) := by
  unfold State.regWrite
  repeat' first
    | with_reducible assumption | exact hp.trans rfl | intro _
    | (extract_lets +onlyGivenNames x; refine Keeps.seq (m := m) (s0 := s0) x ?_ ?_; rotate_left; clear_value x; revert x; intro _ _; rotate_left; unfold x; clear x)
    | (extract_lets +onlyGivenNames x; revert x; intro _) | with_reducible apply State.pgCtlWrite_keeps
    | with_reducible apply State.errSumClear_keeps | with_reducible apply State.perturbWrite_keeps
    | with_reducible apply State.powerWrite_keeps | with_reducible apply State.secOpWrite_keeps | with_reducible apply State.msGo_keeps
    | with_reducible apply State.stgWrite_keeps | with_reducible apply State.tailWrite_keeps | with_reducible apply State.heartbeat_keeps
    | with_reducible apply State.twnAreaWrite_keeps | with_reducible apply State.classRsvWrite_keeps
    | with_reducible apply State.cadEnable_keeps | with_reducible apply State.cadDeadClear_keeps | with_reducible apply State.cadProbe_keeps
    | with_reducible apply State.hbmRetrain_keeps | with_reducible apply State.plainWrite_keeps
    | with_reducible apply State.mountStart_keeps | with_reducible apply State.tierWeWrite_keeps | with_reducible apply State.tcEnable_keeps
    | with_reducible apply State.tqLimitWrite_keeps | with_reducible apply State.tqObjWrite_keeps
    | with_reducible apply State.benchInject_keeps | with_reducible apply State.meterConfig_keeps
    | with_reducible apply State.shaperConfig_keeps | with_reducible apply State.gateEntryWrite_keeps
    | with_reducible apply State.stkProbe_keeps | with_reducible apply State.pclGo_keeps | with_reducible apply State.extGo_keeps
    | with_reducible apply State.usageSnap_keeps | with_reducible apply State.roceEnable_keeps | with_reducible apply State.qpCreate_keeps
    | with_reducible apply State.qpQuery_keeps | with_reducible apply State.qpFailCmd_keeps | with_reducible apply State.qpDestroy_keeps
    | with_reducible apply State.qpCmd_keeps | with_reducible apply State.qpCmdEnd_keeps | with_reducible apply State.mrRegister_keeps
    | with_reducible apply State.mrRevoke_keeps | with_reducible apply State.mrQuery_keeps | with_reducible apply State.mrCmd_keeps
    | with_reducible apply State.mrEnd_keeps | with_reducible apply State.ringCfgWrite_keeps | with_reducible apply State.rawTx_keeps
    | with_reducible apply State.sakInstall_keeps | with_reducible apply State.xcCtlWrite_keeps
    | with_reducible apply State.rstCtlWrite_keeps | with_reducible apply State.roleWrite_keeps
    | with_reducible apply State.portCtlWrite_keeps | with_reducible apply State.portGateWrite_keeps
    | with_reducible apply State.pfcConfig_keeps | with_reducible apply State.tileCtlWrite_keeps
    | with_reducible apply State.tileSramWrite_keeps | with_reducible apply State.intPendClear_keeps
    | with_reducible apply State.intMaskWrite_keeps | with_reducible apply State.cadSeverClear_keeps | split | (clear_value *; split)

theorem State.cfgWriteAt_keeps {m : Nat} {s0 s : State} (h : Keeps m s0 s) (hp : Sub 0x1ffffffe m) (a1 a2) : Keeps m s0 (State.cfgWriteAt s a1 a2) := by
  unfold State.cfgWriteAt
  repeat' first | with_reducible assumption | exact hp.trans rfl | with_reducible apply State.regWrite_keeps | split

theorem State.cfgServe_keeps {m : Nat} {s0 s : State} (h : Keeps m s0 s) (hp : Sub 0x1ffffffe m) (a1 a2) : Keeps m s0 (State.cfgServe s a1 a2) := by
  unfold State.cfgServe
  repeat' first
    | with_reducible assumption | exact hp.trans rfl | intro _
    | (extract_lets +onlyGivenNames x; refine Keeps.seq (m := m) (s0 := s0) x ?_ ?_; rotate_left; clear_value x; revert x; intro _ _; rotate_left; unfold x; clear x)
    | (extract_lets +onlyGivenNames x; revert x; intro _) | with_reducible apply State.complete_keeps
    | with_reducible apply State.cfgRead_keeps | with_reducible apply State.cfgWriteAt_keeps | split | (clear_value *; split)

theorem State.filardConfig_keeps {m : Nat} {s0 s : State} (h : Keeps m s0 s) (hp : Sub 0x1ffffffe m) (a1 a2) : Keeps m s0 (State.filardConfig s a1 a2) := by
  unfold State.filardConfig
  repeat' first
    | with_reducible assumption | exact hp.trans rfl | intro _
    | (extract_lets +onlyGivenNames x; refine Keeps.seq (m := m) (s0 := s0) x ?_ ?_; rotate_left; clear_value x; revert x; intro _ _; rotate_left; unfold x; clear x)
    | (extract_lets +onlyGivenNames x; revert x; intro _) | with_reducible apply State.count_keeps
    | with_reducible apply State.cfgServe_keeps | with_reducible apply State.complete_keeps | split | (clear_value *; split)

theorem State.inBandConfig_keeps {m : Nat} {s0 s : State} (h : Keeps m s0 s) (hp : Sub 0x1ffffffe m) (a1 a2) : Keeps m s0 (State.inBandConfig s a1 a2) := by
  unfold State.inBandConfig
  repeat' first
    | with_reducible assumption | exact hp.trans rfl | with_reducible apply State.cfgServe_keeps | with_reducible apply State.count_keeps
    | with_reducible apply State.complete_keeps | split

theorem State.configAccess_keeps {m : Nat} {s0 s : State} (h : Keeps m s0 s) (hp : Sub 0x1ffffffe m) (a1 a2) : Keeps m s0 (State.configAccess s a1 a2) := by
  unfold State.configAccess
  repeat' first
    | with_reducible assumption | exact hp.trans rfl | with_reducible apply State.filardConfig_keeps
    | with_reducible apply State.inBandConfig_keeps | split

theorem execInBandConfigAccess_keeps {m : Nat} {s0 s : State} (h : Keeps m s0 s) (hp : Sub 0x1ffffffe m) (a1) : Ends m s0 (execInBandConfigAccess a1 s) := by
  unfold execInBandConfigAccess
  repeat' first
    | with_reducible assumption | exact hp.trans rfl | with_reducible apply State.configAccess_keeps | with_reducible apply Ends.next
    | split

theorem execConfigWrite_keeps {m : Nat} {s0 s : State} (h : Keeps m s0 s) (hp : Sub 0x1ffffffe m) (a1 a2 a3 a4) : Ends m s0 (execConfigWrite a1 a2 a3 a4 s) := by
  unfold execConfigWrite
  repeat' first
    | with_reducible assumption | exact hp.trans rfl | intro _
    | (extract_lets +onlyGivenNames x; refine Keeps.seq (m := m) (s0 := s0) x ?_ ?_; rotate_left; clear_value x; revert x; intro _ _; rotate_left; unfold x; clear x)
    | (extract_lets +onlyGivenNames x; revert x; intro _) | with_reducible apply State.filardConfig_keeps | with_reducible apply Ends.next

end Sys2Proof.Machine
end

