-- ==== Sys2Proof/Laws/KeepsDoors.lean ====
section
/-!
SUPPORT. The operations of Machine/Doors.lean leave the queue of waiting commands alone and keep the canonical form.
-/
namespace Sys2Proof.Machine

set_option linter.all false

theorem State.engineAccess_keeps {m : Nat} {s0 s : State} (h : Keeps m s0 s) (hp : Sub 0x1981cc1e m) (a1 a2) : Keeps m s0 (State.engineAccess s a1 a2) := by
  unfold State.engineAccess
  repeat' first
    | with_reducible assumption | exact hp.trans rfl | intro _
    | (extract_lets +onlyGivenNames x; refine Keeps.seq (m := m) (s0 := s0) x ?_ ?_; rotate_left; clear_value x; revert x; intro _ _; rotate_left; unfold x; clear x)
    | (extract_lets +onlyGivenNames x; revert x; intro _) | with_reducible apply State.travDoor_keeps
    | with_reducible apply State.tierDoor_keeps | with_reducible apply State.planDoor_keeps | with_reducible apply State.pnmDoor_keeps
    | split | (clear_value *; split)

theorem State.plainRequest_keeps {m : Nat} {s0 s : State} (h : Keeps m s0 s) (hp : Sub 0x1ffffffe m) (a1) : Keeps m s0 (State.plainRequest s a1) := by
  unfold State.plainRequest
  repeat' first
    | with_reducible assumption | exact hp.trans rfl | with_reducible apply State.stakeSset_keeps
    | with_reducible apply State.stakeSread_keeps | with_reducible apply State.tileDoor_keeps
    | with_reducible apply State.engineAccess_keeps | with_reducible apply State.slotPlainRead_keeps
    | with_reducible apply State.slotWaitRead_keeps | with_reducible apply State.slotConsumeRead_keeps
    | with_reducible apply State.configAccess_keeps | with_reducible apply State.homeRequest_keeps | split

theorem execRdn_keeps {m : Nat} {s0 s : State} (h : Keeps m s0 s) (hp : Sub 0x1ffffffe m) (a1) : Ends m s0 (execRdn a1 s) := by
  unfold execRdn
  repeat' first
    | with_reducible assumption | exact hp.trans rfl | with_reducible apply State.plainRequest_keeps | with_reducible apply Ends.next

theorem execWrn_keeps {m : Nat} {s0 s : State} (h : Keeps m s0 s) (hp : Sub 0x1ffffffe m) (a1) : Ends m s0 (execWrn a1 s) := by
  unfold execWrn
  repeat' first
    | with_reducible assumption | exact hp.trans rfl | with_reducible apply State.plainRequest_keeps | with_reducible apply Ends.next

theorem execRdu_keeps {m : Nat} {s0 s : State} (h : Keeps m s0 s) (hp : Sub 0x1ffffffe m) (a1) : Ends m s0 (execRdu a1 s) := by
  unfold execRdu
  repeat' first
    | with_reducible assumption | exact hp.trans rfl | with_reducible apply State.plainRequest_keeps | with_reducible apply Ends.next

theorem execWri_keeps {m : Nat} {s0 s : State} (h : Keeps m s0 s) (hp : Sub 0x1ffffffe m) (a1) : Ends m s0 (execWri a1 s) := by
  unfold execWri
  repeat' first
    | with_reducible assumption | exact hp.trans rfl | with_reducible apply State.plainRequest_keeps | with_reducible apply Ends.next

theorem execAtm_keeps {m : Nat} {s0 s : State} (h : Keeps m s0 s) (hp : Sub 0x1ffffffe m) (a1) : Ends m s0 (execAtm a1 s) := by
  unfold execAtm
  repeat' first
    | with_reducible assumption | exact hp.trans rfl | with_reducible apply State.plainRequest_keeps | with_reducible apply Ends.next

end Sys2Proof.Machine
end

