-- ==== Sys2Proof/Laws/KeepsStartup.lean ====
section
/-!
SUPPORT. The operations of Machine/Startup.lean leave the queue of waiting commands alone and keep the canonical form.
-/
namespace Sys2Proof.Machine

set_option linter.all false

theorem State.hold_keeps {m : Nat} {s0 s : State} (h : Keeps m s0 s) (hp : Sub 0x8000002 m) (a1) : Keeps m s0 (State.hold s a1) := by
  unfold State.hold
  repeat' first
    | with_reducible assumption | exact hp.trans rfl | with_reducible apply State.ibi_keeps | with_reducible apply State.setFld_keeps
    | with_reducible apply State.setBit_keeps

theorem State.loadLife_keeps {m : Nat} {s0 s : State} (h : Keeps m s0 s) (hp : Sub 0x1000000 m) : Keeps m s0 (State.loadLife s) := by
  unfold State.loadLife
  repeat' first
    | with_reducible assumption | intro _
    | (extract_lets +onlyGivenNames x; refine Keeps.seq (m := m) (s0 := s0) x ?_ ?_; rotate_left; clear_value x; revert x; intro _ _; rotate_left; unfold x; clear x)
    | (extract_lets +onlyGivenNames x; revert x; intro _) | split | (clear_value *; split)
    | with_reducible refine Keeps.sec (by assumption) (Sub.bit 24 rfl hp)

theorem State.readStore_keeps {m : Nat} {s0 s : State} (h : Keeps m s0 s) (hp : Sub 0xd000002 m) : Keeps m s0 (State.readStore s) := by
  unfold State.readStore
  repeat' first
    | with_reducible assumption | exact hp.trans rfl | intro _
    | (extract_lets +onlyGivenNames x; refine Keeps.seq (m := m) (s0 := s0) x ?_ ?_; rotate_left; clear_value x; revert x; intro _ _; rotate_left; unfold x; clear x)
    | (extract_lets +onlyGivenNames x; revert x; intro _) | with_reducible apply State.hold_keeps
    | with_reducible apply State.loadLife_keeps | with_reducible apply State.setPhase_keeps | with_reducible apply State.setBit_keeps
    | split | (clear_value *; split) | with_reducible refine Keeps.boot (by assumption) (Sub.bit 26 rfl hp)

theorem State.selfTests_keeps {m : Nat} {s0 s : State} (h : Keeps m s0 s) (hp : Sub 0xd000002 m) (a1) : Keeps m s0 (State.selfTests s a1) := by
  unfold State.selfTests
  repeat' first
    | with_reducible assumption | exact hp.trans rfl | intro _
    | (extract_lets +onlyGivenNames x; refine Keeps.seq (m := m) (s0 := s0) x ?_ ?_; rotate_left; clear_value x; revert x; intro _ _; rotate_left; unfold x; clear x)
    | (extract_lets +onlyGivenNames x; revert x; intro _) | with_reducible apply State.count_keeps | with_reducible apply State.setBit_keeps
    | with_reducible apply State.readStore_keeps | with_reducible apply State.setPhase_keeps | split | (clear_value *; split)
    | with_reducible refine Keeps.sec (by assumption) (Sub.bit 24 rfl hp)

theorem execSelfTestsDone_keeps {m : Nat} {s0 s : State} (h : Keeps m s0 s) (hp : Sub 0xd000002 m) (a1) : Ends m s0 (execSelfTestsDone a1 s) := by
  unfold execSelfTestsDone
  repeat' first
    | with_reducible assumption | exact hp.trans rfl | with_reducible apply State.selfTests_keeps | with_reducible apply Ends.next

theorem State.showBist_keeps {m : Nat} {s0 s : State} (h : Keeps m s0 s) (hp : Sub 0x2 m) (a1) : Keeps m s0 (State.showBist s a1) := by
  unfold State.showBist
  repeat' first
    | with_reducible assumption | exact hp.trans rfl | intro _
    | (extract_lets +onlyGivenNames x; refine Keeps.seq (m := m) (s0 := s0) x ?_ ?_; rotate_left; clear_value x; revert x; intro _ _; rotate_left; unfold x; clear x)
    | (extract_lets +onlyGivenNames x; revert x; intro _) | with_reducible apply State.setReg_keeps | with_reducible apply Keeps.foldl
    | with_reducible apply Keeps.foldl_fst

theorem State.bistDone_keeps {m : Nat} {s0 s : State} (h : Keeps m s0 s) (hp : Sub 0x8000002 m) (a1) : Keeps m s0 (State.bistDone s a1) := by
  unfold State.bistDone
  repeat' first
    | with_reducible assumption | exact hp.trans rfl | intro _
    | (extract_lets +onlyGivenNames x; refine Keeps.seq (m := m) (s0 := s0) x ?_ ?_; rotate_left; clear_value x; revert x; intro _ _; rotate_left; unfold x; clear x)
    | (extract_lets +onlyGivenNames x; revert x; intro _) | with_reducible apply State.showBist_keeps
    | with_reducible apply State.setPhase_keeps | with_reducible apply State.count_keeps | with_reducible apply State.hold_keeps
    | with_reducible apply State.setFld_keeps | with_reducible apply Keeps.foldl | with_reducible apply Keeps.foldl_fst | split
    | (clear_value *; split)

theorem execBistDone_keeps {m : Nat} {s0 s : State} (h : Keeps m s0 s) (hp : Sub 0x8000002 m) (a1) : Ends m s0 (execBistDone a1 s) := by
  unfold execBistDone
  repeat' first
    | with_reducible assumption | exact hp.trans rfl | with_reducible apply State.bistDone_keeps | with_reducible apply Ends.next

theorem State.applyImage_keeps {m : Nat} {s0 s : State} (h : Keeps m s0 s) (hp : Sub 0x1ffffffe m) (a1) : Keeps m s0 (State.applyImage s a1) := by
  unfold State.applyImage
  repeat' first
    | with_reducible assumption | exact hp.trans rfl | intro _
    | (extract_lets +onlyGivenNames x; refine Keeps.seq (m := m) (s0 := s0) x ?_ ?_; rotate_left; clear_value x; revert x; intro _ _; rotate_left; unfold x; clear x)
    | (extract_lets +onlyGivenNames x; revert x; intro _) | with_reducible apply State.record_keeps
    | with_reducible apply State.regWrite_keeps | split | (clear_value *; split)

theorem State.applyRoles_keeps {m : Nat} {s0 s : State} (h : Keeps m s0 s) (hp : Sub 0x2 m) (a1) : Keeps m s0 (State.applyRoles s a1) := by
  unfold State.applyRoles
  repeat' first
    | with_reducible assumption | exact hp.trans rfl | intro _ | with_reducible apply State.setReg_keeps | with_reducible apply Keeps.foldl
    | with_reducible apply Keeps.foldl_fst

theorem State.applyStored_keeps {m : Nat} {s0 s : State} (h : Keeps m s0 s) (hp : Sub 0x1ffffffe m) : Keeps m s0 (State.applyStored s) := by
  unfold State.applyStored
  repeat' first
    | with_reducible assumption | exact hp.trans rfl | intro _
    | (extract_lets +onlyGivenNames x; refine Keeps.seq (m := m) (s0 := s0) x ?_ ?_; rotate_left; clear_value x; revert x; intro _ _; rotate_left; unfold x; clear x)
    | (extract_lets +onlyGivenNames x; revert x; intro _) | with_reducible apply State.setReg_keeps
    | with_reducible apply State.applyRoles_keeps | with_reducible apply State.applyImage_keeps | with_reducible apply Keeps.foldl
    | with_reducible apply Keeps.foldl_fst

theorem State.bootStep7_keeps {m : Nat} {s0 s : State} (h : Keeps m s0 s) (hp : Sub 0x1ffffffe m) : Keeps m s0 (State.bootStep7 s) := by
  unfold State.bootStep7
  repeat' first
    | with_reducible assumption | exact hp.trans rfl | intro _
    | (extract_lets +onlyGivenNames x; refine Keeps.seq (m := m) (s0 := s0) x ?_ ?_; rotate_left; clear_value x; revert x; intro _ _; rotate_left; unfold x; clear x)
    | (extract_lets +onlyGivenNames x; revert x; intro _) | with_reducible apply State.setPhase_keeps
    | with_reducible apply State.applyStored_keeps | with_reducible apply State.setBit_keeps | with_reducible apply Keeps.foldl
    | with_reducible apply Keeps.foldl_fst

theorem State.measureRest_keeps {m : Nat} {s0 s : State} (h : Keeps m s0 s) (hp : Sub 0x1000000 m) : Keeps m s0 (State.measureRest s) := by
  unfold State.measureRest
  repeat' first
    | with_reducible assumption | exact hp.trans rfl | intro _
    | (extract_lets +onlyGivenNames x; refine Keeps.seq (m := m) (s0 := s0) x ?_ ?_; rotate_left; clear_value x; revert x; intro _ _; rotate_left; unfold x; clear x)
    | (extract_lets +onlyGivenNames x; revert x; intro _) | with_reducible apply State.deriveCdi_keeps
    | with_reducible apply State.extendMr_keeps

theorem State.bootStep6_keeps {m : Nat} {s0 s : State} (h : Keeps m s0 s) (hp : Sub 0x1ffffffe m) : Keeps m s0 (State.bootStep6 s) := by
  unfold State.bootStep6
  repeat' first
    | with_reducible assumption | exact hp.trans rfl | intro _
    | (extract_lets +onlyGivenNames x; refine Keeps.seq (m := m) (s0 := s0) x ?_ ?_; rotate_left; clear_value x; revert x; intro _ _; rotate_left; unfold x; clear x)
    | (extract_lets +onlyGivenNames x; revert x; intro _) | with_reducible apply State.measureRest_keeps
    | with_reducible apply State.setPhase_keeps | with_reducible apply State.bootStep7_keeps | with_reducible apply State.clearBegin_keeps
    | split | (clear_value *; split)

theorem State.imagesDone_keeps {m : Nat} {s0 s : State} (h : Keeps m s0 s) (hp : Sub 0x1ffffffe m) (a1 a2) : Keeps m s0 (State.imagesDone s a1 a2) := by
  unfold State.imagesDone
  repeat' first
    | with_reducible assumption | exact hp.trans rfl | intro _
    | (extract_lets +onlyGivenNames x; refine Keeps.seq (m := m) (s0 := s0) x ?_ ?_; rotate_left; clear_value x; revert x; intro _ _; rotate_left; unfold x; clear x)
    | (extract_lets +onlyGivenNames x; revert x; intro _) | with_reducible apply State.hold_keeps | with_reducible apply State.setBit_keeps
    | with_reducible apply State.bootStep6_keeps | with_reducible apply State.extendMr_keeps | split | (clear_value *; split)

theorem execImageVerifyDone_keeps {m : Nat} {s0 s : State} (h : Keeps m s0 s) (hp : Sub 0x1ffffffe m) (a1 a2) : Ends m s0 (execImageVerifyDone a1 a2 s) := by
  unfold execImageVerifyDone
  repeat' first
    | with_reducible assumption | exact hp.trans rfl | with_reducible apply State.imagesDone_keeps | with_reducible apply Ends.next

theorem State.clearDone_keeps {m : Nat} {s0 s : State} (h : Keeps m s0 s) (hp : Sub 0x1ffffffe m) (a1 a2) : Keeps m s0 (State.clearDone s a1 a2) := by
  unfold State.clearDone
  repeat' first
    | with_reducible assumption | exact hp.trans rfl | intro _
    | (extract_lets +onlyGivenNames x; refine Keeps.seq (m := m) (s0 := s0) x ?_ ?_; rotate_left; clear_value x; revert x; intro _ _; rotate_left; unfold x; clear x)
    | (extract_lets +onlyGivenNames x; revert x; intro _) | with_reducible apply State.clearItems_keeps
    | with_reducible apply State.bootStep7_keeps | split | (clear_value *; split)

theorem execClearanceItemsDone_keeps {m : Nat} {s0 s : State} (h : Keeps m s0 s) (hp : Sub 0x1ffffffe m) (a1 a2) : Ends m s0 (execClearanceItemsDone a1 a2 s) := by
  unfold execClearanceItemsDone
  repeat' first
    | with_reducible assumption | exact hp.trans rfl | with_reducible apply State.clearDone_keeps | with_reducible apply Ends.next

theorem State.levelFilard_keeps {m : Nat} {s0 s : State} (h : Keeps m s0 s) (hp : Sub 0x8040002 m) : Keeps m s0 (State.levelFilard s) := by
  unfold State.levelFilard
  repeat' first
    | with_reducible assumption | exact hp.trans rfl | with_reducible apply State.beginLevelling_keeps
    | with_reducible apply State.setBit_keeps | with_reducible apply State.setPhase_keeps

theorem State.hbmDone_keeps {m : Nat} {s0 s : State} (h : Keeps m s0 s) (hp : Sub 0x8840016 m) (a1 a2 a3 a4) : Keeps m s0 (State.hbmDone s a1 a2 a3 a4) := by
  unfold State.hbmDone
  repeat' first
    | with_reducible assumption | exact hp.trans rfl | intro _
    | (extract_lets +onlyGivenNames x; refine Keeps.seq (m := m) (s0 := s0) x ?_ ?_; rotate_left; clear_value x; revert x; intro _ _; rotate_left; unfold x; clear x)
    | (extract_lets +onlyGivenNames x; revert x; intro _) | with_reducible apply State.setReg_keeps
    | with_reducible apply State.record_keeps | with_reducible apply State.levelFilard_keeps | split | (clear_value *; split)
    | with_reducible refine Keeps.mem (by assumption) rfl (Sub.bit 4 rfl hp)

theorem execHbmTrainingDone_keeps {m : Nat} {s0 s : State} (h : Keeps m s0 s) (hp : Sub 0x8840016 m) (a1 a2 a3 a4) : Ends m s0 (execHbmTrainingDone a1 a2 a3 a4 s) := by
  unfold execHbmTrainingDone
  repeat' first | with_reducible assumption | exact hp.trans rfl | with_reducible apply State.hbmDone_keeps | with_reducible apply Ends.next

theorem State.lvlStep_keeps {m : Nat} {s0 s : State} (h : Keeps m s0 s) (hp : Sub 0x19ed979e m) (a1 a2) : Keeps m s0 (State.lvlStep s a1 a2) := by
  unfold State.lvlStep
  repeat' first
    | with_reducible assumption | exact hp.trans rfl | intro _
    | (extract_lets +onlyGivenNames x; refine Keeps.seq (m := m) (s0 := s0) x ?_ ?_; rotate_left; clear_value x; revert x; intro _ _; rotate_left; unfold x; clear x)
    | (extract_lets +onlyGivenNames x; revert x; intro _) | with_reducible apply State.lvl_keeps
    | with_reducible apply State.filardSet_keeps | with_reducible apply State.setPhase_keeps | split | (clear_value *; split)

theorem execLvl_keeps {m : Nat} {s0 s : State} (h : Keeps m s0 s) (hp : Sub 0x19ed979e m) (a1 a2) : Ends m s0 (execLvl a1 a2 s) := by
  unfold execLvl
  repeat' first | with_reducible assumption | exact hp.trans rfl | with_reducible apply State.lvlStep_keeps | with_reducible apply Ends.next

theorem State.autoLevel_keeps {m : Nat} {s0 s : State} (h : Keeps m s0 s) (hp : Sub 0x1ded979e m) (a1) : Keeps m s0 (State.autoLevel s a1) := by
  unfold State.autoLevel
  repeat' first | with_reducible assumption | exact hp.trans rfl | with_reducible apply State.portCtlWrite_keeps | split

theorem State.bootSet_keeps {m : Nat} {s0 s : State} (h : Keeps m s0 s) (hp : Sub 0x19ed5ff6 m) (a1) : Keeps m s0 (State.bootSet s a1) := by
  unfold State.bootSet
  repeat' first
    | with_reducible assumption | exact hp.trans rfl | intro _
    | (extract_lets +onlyGivenNames x; refine Keeps.seq (m := m) (s0 := s0) x ?_ ?_; rotate_left; clear_value x; revert x; intro _ _; rotate_left; unfold x; clear x)
    | (extract_lets +onlyGivenNames x; revert x; intro _) | with_reducible apply State.setReg_keeps
    | with_reducible apply State.pclRun_keeps | with_reducible apply State.note_keeps | with_reducible apply Keeps.foldl
    | with_reducible apply Keeps.foldl_fst | split | (clear_value *; split)

theorem State.bootEnd_keeps {m : Nat} {s0 s : State} (h : Keeps m s0 s) (hp : Sub 0x1deddffe m) : Keeps m s0 (State.bootEnd s) := by
  unfold State.bootEnd
  repeat' first
    | with_reducible assumption | exact hp.trans rfl | intro _
    | (extract_lets +onlyGivenNames x; refine Keeps.seq (m := m) (s0 := s0) x ?_ ?_; rotate_left; clear_value x; revert x; intro _ _; rotate_left; unfold x; clear x)
    | (extract_lets +onlyGivenNames x; revert x; intro _) | with_reducible apply State.bootSet_keeps
    | with_reducible apply State.autoLevel_keeps | with_reducible apply State.ibi_keeps | with_reducible apply State.count_keeps
    | with_reducible apply State.setPhase_keeps | with_reducible apply Keeps.foldl | with_reducible apply Keeps.foldl_fst

theorem State.flashDone_keeps {m : Nat} {s0 s : State} (h : Keeps m s0 s) (hp : Sub 0x1deddffe m) (a1 a2 a3) : Keeps m s0 (State.flashDone s a1 a2 a3) := by
  unfold State.flashDone
  repeat' first
    | with_reducible assumption | exact hp.trans rfl | intro _ | with_reducible apply hF
    | (extract_lets +onlyGivenNames x; refine Keeps.seq (m := m) (s0 := s0) x ?_ ?_; rotate_left; clear_value x; revert x; intro _ _; rotate_left; unfold x; clear x)
    | (extract_lets +onlyGivenNames x; refine Keeps.seqF (m := m) (s0 := s0) x ?_ ?_; rotate_left; clear_value x; revert x; intro _ hF; rotate_left; unfold x; clear x)
    | (extract_lets +onlyGivenNames x; refine Keeps.seqG (m := m) (s0 := s0) x ?_ ?_; rotate_left; clear_value x; revert x; intro _ hF; rotate_left; unfold x; clear x)
    | (extract_lets +onlyGivenNames x; refine Keeps.seqH (m := m) (s0 := s0) x ?_ ?_; rotate_left; clear_value x; revert x; intro _ hF; rotate_left; unfold x; clear x)
    | (extract_lets +onlyGivenNames x; revert x; intro _) | with_reducible apply State.setReg_keeps
    | with_reducible apply State.bootEnd_keeps | split | (clear_value *; split)
    | with_reducible refine Keeps.boot (by assumption) (Sub.bit 26 rfl hp)

theorem execFlashTrainingDone_keeps {m : Nat} {s0 s : State} (h : Keeps m s0 s) (hp : Sub 0x1deddffe m) (a1 a2 a3) : Ends m s0 (execFlashTrainingDone a1 a2 a3 s) := by
  unfold execFlashTrainingDone
  repeat' first
    | with_reducible assumption | exact hp.trans rfl | with_reducible apply State.flashDone_keeps | with_reducible apply Ends.next

theorem State.partialDone_keeps {m : Nat} {s0 s : State} (h : Keeps m s0 s) (hp : Sub 0x1ffffffe m) : Keeps m s0 (State.partialDone s) := by
  unfold State.partialDone
  repeat' first
    | with_reducible assumption | exact hp.trans rfl | intro _
    | (extract_lets +onlyGivenNames x; refine Keeps.seq (m := m) (s0 := s0) x ?_ ?_; rotate_left; clear_value x; revert x; intro _ _; rotate_left; unfold x; clear x)
    | (extract_lets +onlyGivenNames x; revert x; intro _) | with_reducible apply State.setBit_keeps
    | with_reducible apply State.applyImage_keeps | with_reducible apply State.applyRoles_keeps
    | with_reducible apply State.firmwareDone_keeps | with_reducible apply State.autoLevel_keeps | with_reducible apply Keeps.foldl
    | with_reducible apply Keeps.foldl_fst | split | (clear_value *; split)
    | with_reducible refine Keeps.boot (by assumption) (Sub.bit 26 rfl hp)

theorem execPartialResetDone_keeps {m : Nat} {s0 s : State} (h : Keeps m s0 s) (hp : Sub 0x1ffffffe m) : Ends m s0 (execPartialResetDone s) := by
  unfold execPartialResetDone
  repeat' first
    | with_reducible assumption | exact hp.trans rfl | with_reducible apply State.partialDone_keeps | with_reducible apply Ends.next

end Sys2Proof.Machine
end

