-- ==== Sys2Proof/Laws/KeepsTileCache.lean ====
section
/-!
SUPPORT. The operations of Machine/TileCache.lean leave the queue of waiting commands alone and keep the canonical form.
-/
namespace Sys2Proof.Machine

set_option linter.all false

theorem State.tlcFail_keeps {m : Nat} {s0 s : State} (h : Keeps m s0 s) (hp : Sub 0x18857d96 m) (a1) : Keeps m s0 (State.tlcFail s a1) := by
  unfold State.tlcFail
  repeat' first
    | with_reducible assumption | exact hp.trans rfl | intro _
    | (extract_lets +onlyGivenNames x; refine Keeps.seq (m := m) (s0 := s0) x ?_ ?_; rotate_left; clear_value x; revert x; intro _ _; rotate_left; unfold x; clear x)
    | (extract_lets +onlyGivenNames x; revert x; intro _) | with_reducible apply State.agentDead_keeps
    | with_reducible apply State.ctxFault_keeps | with_reducible apply State.ctxSettle_keeps | with_reducible apply State.useEnds_keeps
    | with_reducible apply Keeps.foldl | with_reducible apply Keeps.foldl_fst
    | with_reducible refine Keeps.tlcDown (by assumption) (Sub.bit 13 rfl hp)
    | with_reducible refine Keeps.tlc (by assumption) (Sub.bit 12 rfl hp)

theorem execTileLineCacheFail_keeps {m : Nat} {s0 s : State} (h : Keeps m s0 s) (hp : Sub 0x18857d96 m) (a1) : Ends m s0 (execTileLineCacheFail a1 s) := by
  unfold execTileLineCacheFail
  repeat' first | with_reducible assumption | exact hp.trans rfl | with_reducible apply State.tlcFail_keeps | with_reducible apply Ends.next

end Sys2Proof.Machine
end

