-- ==== Sys2Proof/Laws/KeepsTileMem.lean ====
section
/-!
SUPPORT. The operations of Machine/TileMem.lean leave the queue of waiting commands alone and keep the canonical form.
-/
namespace Sys2Proof.Machine

set_option linter.all false

theorem State.localRead_keeps {m : Nat} {s0 s : State} (h : Keeps m s0 s) (hp : Sub 0x8804806 m) (a1 a2 a3 a4) (hf : ∀ t, Keeps m s0 t → Keeps m s0 (a4 t)) : Keeps m s0 (State.localRead s a1 a2 a3 a4) := by
  unfold State.localRead
  repeat' first
    | with_reducible assumption | exact hp.trans rfl | intro _ | with_reducible apply hf
    | (extract_lets +onlyGivenNames x; refine Keeps.seq (m := m) (s0 := s0) x ?_ ?_; rotate_left; clear_value x; revert x; intro _ _; rotate_left; unfold x; clear x)
    | (extract_lets +onlyGivenNames x; revert x; intro _) | with_reducible apply State.sramInject_keeps
    | with_reducible apply State.ctxFault_keeps | with_reducible apply State.count_keeps | with_reducible apply State.scrub_keeps
    | with_reducible apply KeepsO.some_ | with_reducible apply KeepsO.none_ | with_reducible apply KeepsO.getD
    | with_reducible refine KeepsO.get (by assumption) ?_ | split | (clear_value *; split)

theorem execVld_keeps {m : Nat} {s0 s : State} (h : Keeps m s0 s) (hp : Sub 0x8804806 m) (a1 a2) : Ends m s0 (execVld a1 a2 s) := by
  unfold execVld
  repeat' first
    | with_reducible assumption | exact hp.trans rfl | intro _
    | (extract_lets +onlyGivenNames x; refine Keeps.seq (m := m) (s0 := s0) x ?_ ?_; rotate_left; clear_value x; revert x; intro _ _; rotate_left; unfold x; clear x)
    | (extract_lets +onlyGivenNames x; revert x; intro _) | with_reducible apply State.issueOp_keeps
    | with_reducible apply State.ctxFault_keeps | with_reducible apply State.localRead_keeps | with_reducible apply State.retire_keeps
    | with_reducible apply Ends.next | split | (clear_value *; split)

theorem execVst_keeps {m : Nat} {s0 s : State} (h : Keeps m s0 s) (hp : Sub 0x8804806 m) (a1 a2) : Ends m s0 (execVst a1 a2 s) := by
  unfold execVst
  repeat' first
    | with_reducible assumption | exact hp.trans rfl | intro _
    | (extract_lets +onlyGivenNames x; refine Keeps.seq (m := m) (s0 := s0) x ?_ ?_; rotate_left; clear_value x; revert x; intro _ _; rotate_left; unfold x; clear x)
    | (extract_lets +onlyGivenNames x; revert x; intro _) | with_reducible apply State.issueOp_keeps
    | with_reducible apply State.ctxFault_keeps | with_reducible apply State.sramWrite_keeps | with_reducible apply State.setTile_keeps
    | with_reducible apply State.retire_keeps | with_reducible apply Ends.next | split | (clear_value *; split)

theorem execVgath_keeps {m : Nat} {s0 s : State} (h : Keeps m s0 s) (hp : Sub 0x8804806 m) (a1 a2) : Ends m s0 (execVgath a1 a2 s) := by
  unfold execVgath
  repeat' first
    | with_reducible assumption | exact hp.trans rfl | intro _
    | (extract_lets +onlyGivenNames x; refine Keeps.seq (m := m) (s0 := s0) x ?_ ?_; rotate_left; clear_value x; revert x; intro _ _; rotate_left; unfold x; clear x)
    | (extract_lets +onlyGivenNames x; revert x; intro _) | with_reducible apply State.issueOp_keeps
    | with_reducible apply State.ctxFault_keeps | with_reducible apply State.localRead_keeps | with_reducible apply State.retire_keeps
    | with_reducible apply Ends.next | split | (clear_value *; split)

theorem execSld_keeps {m : Nat} {s0 s : State} (h : Keeps m s0 s) (hp : Sub 0x8804806 m) (a1 a2) : Ends m s0 (execSld a1 a2 s) := by
  unfold execSld
  repeat' first
    | with_reducible assumption | exact hp.trans rfl | intro _
    | (extract_lets +onlyGivenNames x; refine Keeps.seq (m := m) (s0 := s0) x ?_ ?_; rotate_left; clear_value x; revert x; intro _ _; rotate_left; unfold x; clear x)
    | (extract_lets +onlyGivenNames x; revert x; intro _) | with_reducible apply State.issueOp_keeps
    | with_reducible apply State.ctxFault_keeps | with_reducible apply State.localRead_keeps | with_reducible apply State.retire_keeps
    | with_reducible apply Ends.next | split | (clear_value *; split)

theorem execSst_keeps {m : Nat} {s0 s : State} (h : Keeps m s0 s) (hp : Sub 0x8804806 m) (a1 a2) : Ends m s0 (execSst a1 a2 s) := by
  unfold execSst
  repeat' first
    | with_reducible assumption | exact hp.trans rfl | intro _
    | (extract_lets +onlyGivenNames x; refine Keeps.seq (m := m) (s0 := s0) x ?_ ?_; rotate_left; clear_value x; revert x; intro _ _; rotate_left; unfold x; clear x)
    | (extract_lets +onlyGivenNames x; revert x; intro _) | with_reducible apply State.issueOp_keeps
    | with_reducible apply State.ctxFault_keeps | with_reducible apply State.retire_keeps | with_reducible apply State.sramWrite_keeps
    | with_reducible apply Ends.next | split | (clear_value *; split)

theorem State.noSlot_keeps {m : Nat} {s0 s : State} (h : Keeps m s0 s) (hp : Sub 0x802 m) (a1 a2) : Keeps m s0 (State.noSlot s a1 a2) := by
  unfold State.noSlot
  repeat' first
    | with_reducible assumption | exact hp.trans rfl | intro _
    | (extract_lets +onlyGivenNames x; refine Keeps.seq (m := m) (s0 := s0) x ?_ ?_; rotate_left; clear_value x; revert x; intro _ _; rotate_left; unfold x; clear x)
    | (extract_lets +onlyGivenNames x; revert x; intro _) | with_reducible apply State.count_keeps | with_reducible apply State.setCtx_keeps

theorem State.waits_keeps {m : Nat} {s0 s : State} (h : Keeps m s0 s) (hp : Sub 0x802 m) (a1 a2 a3) : Keeps m s0 (State.waits s a1 a2 a3) := by
  unfold State.waits
  repeat' first | with_reducible assumption | exact hp.trans rfl | with_reducible apply State.retire_keeps

theorem State.loadLines_keeps {m : Nat} {s0 s : State} (h : Keeps m s0 s) (hp : Sub 0x1080180a m) (a1 a2 a3 a4) : Keeps m s0 (State.loadLines s a1 a2 a3 a4) := by
  induction a4 generalizing s a1 a2 a3 with
  | nil =>
    unfold State.loadLines
    repeat' first | with_reducible assumption | exact hp.trans rfl | with_reducible apply State.loadLine_keeps | split
  | cons _ _ ih =>
    unfold State.loadLines
    repeat' first
      | with_reducible assumption | with_reducible apply ih | exact hp.trans rfl | with_reducible apply State.loadLine_keeps | split

theorem execRld_keeps {m : Nat} {s0 s : State} (h : Keeps m s0 s) (hp : Sub 0x1880580e m) (a1 a2) : Ends m s0 (execRld a1 a2 s) := by
  unfold execRld
  repeat' first
    | with_reducible assumption | exact hp.trans rfl | intro _
    | (extract_lets +onlyGivenNames x; refine Keeps.seq (m := m) (s0 := s0) x ?_ ?_; rotate_left; clear_value x; revert x; intro _ _; rotate_left; unfold x; clear x)
    | (extract_lets +onlyGivenNames x; revert x; intro _) | with_reducible apply State.issueOp_keeps
    | with_reducible apply State.noSlot_keeps | with_reducible apply State.waits_keeps | with_reducible apply State.loadLines_keeps
    | with_reducible apply State.setCtx_keeps | with_reducible apply State.accessEnds_keeps | with_reducible apply Keeps.foldl
    | with_reducible apply Keeps.foldl_fst | with_reducible apply Ends.next | split | (clear_value *; split)

theorem execRgath_keeps {m : Nat} {s0 s : State} (h : Keeps m s0 s) (hp : Sub 0x1880580e m) (a1 a2) : Ends m s0 (execRgath a1 a2 s) := by
  unfold execRgath
  repeat' first
    | with_reducible assumption | exact hp.trans rfl | intro _
    | (extract_lets +onlyGivenNames x; refine Keeps.seq (m := m) (s0 := s0) x ?_ ?_; rotate_left; clear_value x; revert x; intro _ _; rotate_left; unfold x; clear x)
    | (extract_lets +onlyGivenNames x; revert x; intro _) | with_reducible apply State.issueOp_keeps
    | with_reducible apply State.noSlot_keeps | with_reducible apply State.accessEnds_keeps | with_reducible apply State.loadLines_keeps
    | with_reducible apply State.waits_keeps | with_reducible apply Ends.next | split | (clear_value *; split)

theorem State.storeLinesOf_keeps {m : Nat} {s0 s : State} (h : Keeps m s0 s) (hp : Sub 0x1080180a m) (a1 a2 a3) : Keeps m s0 (State.storeLinesOf s a1 a2 a3) := by
  induction a3 generalizing s a1 a2 with
  | nil =>
    unfold State.storeLinesOf
    repeat' first | with_reducible assumption | exact hp.trans rfl | with_reducible apply State.storeLineOf_keeps | split
  | cons _ _ ih =>
    unfold State.storeLinesOf
    repeat' first
      | with_reducible assumption | with_reducible apply ih | exact hp.trans rfl | with_reducible apply State.storeLineOf_keeps | split

theorem execRst_keeps {m : Nat} {s0 s : State} (h : Keeps m s0 s) (hp : Sub 0x1880580e m) (a1 a2) : Ends m s0 (execRst a1 a2 s) := by
  unfold execRst
  repeat' first
    | with_reducible assumption | exact hp.trans rfl | intro _
    | (extract_lets +onlyGivenNames x; refine Keeps.seq (m := m) (s0 := s0) x ?_ ?_; rotate_left; clear_value x; revert x; intro _ _; rotate_left; unfold x; clear x)
    | (extract_lets +onlyGivenNames x; revert x; intro _) | with_reducible apply State.issueOp_keeps
    | with_reducible apply State.noSlot_keeps | with_reducible apply State.retire_keeps | with_reducible apply State.storeLinesOf_keeps
    | with_reducible apply State.setCtx_keeps | with_reducible apply Ends.next | split | (clear_value *; split)

theorem execRatom_keeps {m : Nat} {s0 s : State} (h : Keeps m s0 s) (hp : Sub 0x18804806 m) (a1 a2) : Ends m s0 (execRatom a1 a2 s) := by
  unfold execRatom
  repeat' first
    | with_reducible assumption | exact hp.trans rfl | intro _
    | (extract_lets +onlyGivenNames x; refine Keeps.seq (m := m) (s0 := s0) x ?_ ?_; rotate_left; clear_value x; revert x; intro _ _; rotate_left; unfold x; clear x)
    | (extract_lets +onlyGivenNames x; revert x; intro _) | with_reducible apply State.issueOp_keeps
    | with_reducible apply State.noSlot_keeps | with_reducible apply State.waits_keeps | with_reducible apply State.accessEnds_keeps
    | with_reducible apply State.setCtx_keeps | with_reducible apply State.ctxSend_keeps | with_reducible apply State.count_keeps
    | with_reducible apply Ends.next | split | (clear_value *; split)

theorem execSrel_keeps {m : Nat} {s0 s : State} (h : Keeps m s0 s) (hp : Sub 0x18804806 m) (a1 a2) : Ends m s0 (execSrel a1 a2 s) := by
  unfold execSrel
  repeat' first
    | with_reducible assumption | exact hp.trans rfl | intro _
    | (extract_lets +onlyGivenNames x; refine Keeps.seq (m := m) (s0 := s0) x ?_ ?_; rotate_left; clear_value x; revert x; intro _ _; rotate_left; unfold x; clear x)
    | (extract_lets +onlyGivenNames x; revert x; intro _) | with_reducible apply State.issueOp_keeps
    | with_reducible apply State.noSlot_keeps | with_reducible apply State.fenceEnds_keeps | with_reducible apply State.retire_keeps
    | with_reducible apply Ends.next | split | (clear_value *; split)

theorem execSacq_keeps {m : Nat} {s0 s : State} (h : Keeps m s0 s) (hp : Sub 0x18804806 m) (a1 a2) : Ends m s0 (execSacq a1 a2 s) := by
  unfold execSacq
  repeat' first
    | with_reducible assumption | exact hp.trans rfl | intro _
    | (extract_lets +onlyGivenNames x; refine Keeps.seq (m := m) (s0 := s0) x ?_ ?_; rotate_left; clear_value x; revert x; intro _ _; rotate_left; unfold x; clear x)
    | (extract_lets +onlyGivenNames x; revert x; intro _) | with_reducible apply State.issueOp_keeps
    | with_reducible apply State.noSlot_keeps | with_reducible apply State.ctxSend_keeps | with_reducible apply State.retire_keeps
    | with_reducible apply Ends.next | split | (clear_value *; split)

end Sys2Proof.Machine
end

