-- ==== Sys2Proof/Laws/KeepsTileVector.lean ====
section
/-!
SUPPORT. The operations of Machine/TileVector.lean leave the queue of waiting commands alone and keep the canonical form.
-/
namespace Sys2Proof.Machine

set_option linter.all false

theorem State.vecOp_keeps {m : Nat} {s0 s : State} (h : Keeps m s0 s) (hp : Sub 0x8804806 m) (a1 a2 a3 a4) : Keeps m s0 (State.vecOp s a1 a2 a3 a4) := by
  unfold State.vecOp
  repeat' first
    | with_reducible assumption | exact hp.trans rfl | intro _
    | (extract_lets +onlyGivenNames x; refine Keeps.seq (m := m) (s0 := s0) x ?_ ?_; rotate_left; clear_value x; revert x; intro _ _; rotate_left; unfold x; clear x)
    | (extract_lets +onlyGivenNames x; revert x; intro _) | with_reducible apply State.issueOp_keeps
    | with_reducible apply State.retire_keeps

theorem execVadd_keeps {m : Nat} {s0 s : State} (h : Keeps m s0 s) (hp : Sub 0x8804806 m) (a1 a2) : Ends m s0 (execVadd a1 a2 s) := by
  unfold execVadd
  repeat' first | with_reducible assumption | exact hp.trans rfl | with_reducible apply State.vecOp_keeps | with_reducible apply Ends.next

theorem execVmul_keeps {m : Nat} {s0 s : State} (h : Keeps m s0 s) (hp : Sub 0x8804806 m) (a1 a2) : Ends m s0 (execVmul a1 a2 s) := by
  unfold execVmul
  repeat' first | with_reducible assumption | exact hp.trans rfl | with_reducible apply State.vecOp_keeps | with_reducible apply Ends.next

theorem execVfma_keeps {m : Nat} {s0 s : State} (h : Keeps m s0 s) (hp : Sub 0x8804806 m) (a1 a2) : Ends m s0 (execVfma a1 a2 s) := by
  unfold execVfma
  repeat' first | with_reducible assumption | exact hp.trans rfl | with_reducible apply State.vecOp_keeps | with_reducible apply Ends.next

theorem execVmax_keeps {m : Nat} {s0 s : State} (h : Keeps m s0 s) (hp : Sub 0x8804806 m) (a1 a2) : Ends m s0 (execVmax a1 a2 s) := by
  unfold execVmax
  repeat' first | with_reducible assumption | exact hp.trans rfl | with_reducible apply State.vecOp_keeps | with_reducible apply Ends.next

theorem execVmin_keeps {m : Nat} {s0 s : State} (h : Keeps m s0 s) (hp : Sub 0x8804806 m) (a1 a2) : Ends m s0 (execVmin a1 a2 s) := by
  unfold execVmin
  repeat' first | with_reducible assumption | exact hp.trans rfl | with_reducible apply State.vecOp_keeps | with_reducible apply Ends.next

theorem execVcvt_keeps {m : Nat} {s0 s : State} (h : Keeps m s0 s) (hp : Sub 0x8804806 m) (a1 a2) : Ends m s0 (execVcvt a1 a2 s) := by
  unfold execVcvt
  repeat' first
    | with_reducible assumption | exact hp.trans rfl | intro _ | with_reducible apply State.issueOp_keeps
    | with_reducible apply State.retire_keeps | with_reducible apply Ends.next

theorem State.setLane_keeps {m : Nat} {s0 s : State} (h : Keeps m s0 s) (hp : Sub 0x800 m) (a1 a2 a3) : Keeps m s0 (State.setLane s a1 a2 a3) := by
  unfold State.setLane
  repeat' first
    | with_reducible assumption | exact hp.trans rfl | intro _
    | (extract_lets +onlyGivenNames x; refine Keeps.seq (m := m) (s0 := s0) x ?_ ?_; rotate_left; clear_value x; revert x; intro _ _; rotate_left; unfold x; clear x)
    | (extract_lets +onlyGivenNames x; revert x; intro _) | with_reducible apply State.setTile_keeps

theorem State.addLanes_keeps {m : Nat} {s0 s : State} (h : Keeps m s0 s) (hp : Sub 0x808 m) (a1 a2 a3 a4 a5) : Keeps m s0 (State.addLanes s a1 a2 a3 a4 a5).1 := by
  induction a5 generalizing s a1 a2 a3 a4 with
  | nil =>
    unfold State.addLanes
    repeat' first
      | with_reducible assumption | exact hp.trans rfl | intro _
      | (extract_lets +onlyGivenNames x; refine Keeps.seq (m := m) (s0 := s0) x ?_ ?_; rotate_left; clear_value x; revert x; intro _ _; rotate_left; unfold x; clear x)
      | (extract_lets +onlyGivenNames x; refine Keeps.seq (m := m) (s0 := s0) x.1 ?_ ?_; rotate_left; clear_value x; revert x; intro _ _; rotate_left; unfold x; clear x)
      | (extract_lets +onlyGivenNames x; revert x; intro _) | with_reducible apply State.took_keeps
      | with_reducible apply State.setLane_keeps | split | (clear_value *; split) | with_reducible refine Keeps.of_fst (by assumption) ?_
  | cons _ _ ih =>
    unfold State.addLanes
    repeat' first
      | with_reducible assumption | with_reducible apply ih | exact hp.trans rfl | intro _
      | (extract_lets +onlyGivenNames x; refine Keeps.seq (m := m) (s0 := s0) x ?_ ?_; rotate_left; clear_value x; revert x; intro _ _; rotate_left; unfold x; clear x)
      | (extract_lets +onlyGivenNames x; refine Keeps.seq (m := m) (s0 := s0) x.1 ?_ ?_; rotate_left; clear_value x; revert x; intro _ _; rotate_left; unfold x; clear x)
      | (extract_lets +onlyGivenNames x; revert x; intro _) | with_reducible apply State.took_keeps
      | with_reducible apply State.setLane_keeps | split | (clear_value *; split) | with_reducible refine Keeps.of_fst (by assumption) ?_

theorem execXacc_keeps {m : Nat} {s0 s : State} (h : Keeps m s0 s) (hp : Sub 0x880480e m) (a1 a2) : Ends m s0 (execXacc a1 a2 s) := by
  unfold execXacc
  repeat' first
    | with_reducible assumption | exact hp.trans rfl | intro _
    | (extract_lets +onlyGivenNames x; refine Keeps.seq (m := m) (s0 := s0) x ?_ ?_; rotate_left; clear_value x; revert x; intro _ _; rotate_left; unfold x; clear x)
    | (extract_lets +onlyGivenNames x; refine Keeps.seq (m := m) (s0 := s0) x.1 ?_ ?_; rotate_left; clear_value x; revert x; intro _ _; rotate_left; unfold x; clear x)
    | (extract_lets +onlyGivenNames x; revert x; intro _) | with_reducible apply State.issueOp_keeps
    | with_reducible apply State.ctxFault_keeps | with_reducible apply State.addLanes_keeps | with_reducible apply State.retire_keeps
    | with_reducible apply Ends.next | split | (clear_value *; split) | with_reducible refine Keeps.of_fst (by assumption) ?_

theorem State.clearLanes_keeps {m : Nat} {s0 s : State} (h : Keeps m s0 s) (hp : Sub 0x800 m) (a1 a2) : Keeps m s0 (State.clearLanes s a1 a2) := by
  induction a2 generalizing s a1 with
  | nil =>
    unfold State.clearLanes
    repeat' first | with_reducible assumption | exact hp.trans rfl | with_reducible apply State.setLane_keeps | split
  | cons _ _ ih =>
    unfold State.clearLanes
    repeat' first
      | with_reducible assumption | with_reducible apply ih | exact hp.trans rfl | with_reducible apply State.setLane_keeps | split

theorem execXrd_keeps {m : Nat} {s0 s : State} (h : Keeps m s0 s) (hp : Sub 0x8804806 m) (a1 a2) : Ends m s0 (execXrd a1 a2 s) := by
  unfold execXrd
  repeat' first
    | with_reducible assumption | exact hp.trans rfl | intro _
    | (extract_lets +onlyGivenNames x; refine Keeps.seq (m := m) (s0 := s0) x ?_ ?_; rotate_left; clear_value x; revert x; intro _ _; rotate_left; unfold x; clear x)
    | (extract_lets +onlyGivenNames x; revert x; intro _) | with_reducible apply State.issueOp_keeps
    | with_reducible apply State.ctxFault_keeps | with_reducible apply State.clearLanes_keeps | with_reducible apply State.retire_keeps
    | with_reducible apply Ends.next | split | (clear_value *; split)

theorem execVcmp_keeps {m : Nat} {s0 s : State} (h : Keeps m s0 s) (hp : Sub 0x8804806 m) (a1 a2) : Ends m s0 (execVcmp a1 a2 s) := by
  unfold execVcmp
  repeat' first
    | with_reducible assumption | exact hp.trans rfl | intro _ | with_reducible apply State.issueOp_keeps
    | with_reducible apply State.retire_keeps | with_reducible apply Ends.next

theorem execVcompact_keeps {m : Nat} {s0 s : State} (h : Keeps m s0 s) (hp : Sub 0x8804806 m) (a1 a2) : Ends m s0 (execVcompact a1 a2 s) := by
  unfold execVcompact
  repeat' first
    | with_reducible assumption | exact hp.trans rfl | intro _ | with_reducible apply State.issueOp_keeps
    | with_reducible apply State.retire_keeps | with_reducible apply Ends.next

theorem execVtopk_keeps {m : Nat} {s0 s : State} (h : Keeps m s0 s) (hp : Sub 0x8804806 m) (a1 a2) : Ends m s0 (execVtopk a1 a2 s) := by
  unfold execVtopk
  repeat' first
    | with_reducible assumption | exact hp.trans rfl | intro _
    | (extract_lets +onlyGivenNames x; refine Keeps.seq (m := m) (s0 := s0) x ?_ ?_; rotate_left; clear_value x; revert x; intro _ _; rotate_left; unfold x; clear x)
    | (extract_lets +onlyGivenNames x; revert x; intro _) | with_reducible apply State.issueOp_keeps
    | with_reducible apply State.retire_keeps | with_reducible apply Ends.next | split | (clear_value *; split)

end Sys2Proof.Machine
end

