-- ==== Sys2Proof/Laws/State.lean ====
section
/-!
SUPPORT. Beside the state: one lemma per field per named update, so that no proof unfolds a record update; and the value read back through
the accessor of what was written.
-/
namespace Sys2Proof.Machine

@[simp] theorem State.setReg_pending (s : State) (c v : Nat) : (s.setReg c v).pending = s.pending := rfl
@[simp] theorem State.setReg_seqs (s : State) (c v : Nat) : (s.setReg c v).seqs = s.seqs := rfl
@[simp] theorem State.setReg_free (s : State) (c v : Nat) : (s.setReg c v).free = s.free := rfl
@[simp] theorem State.setReg_mem (s : State) (c v : Nat) : (s.setReg c v).mem = s.mem := rfl
@[simp] theorem State.setReg_extents (s : State) (c v : Nat) : (s.setReg c v).extents = s.extents := rfl
@[simp] theorem State.setReg_revoking (s : State) (c v : Nat) : (s.setReg c v).revoking = s.revoking := rfl
@[simp] theorem State.setReg_cad (s : State) (c v : Nat) : (s.setReg c v).cad = s.cad := rfl
@[simp] theorem State.setReg_stk (s : State) (c v : Nat) : (s.setReg c v).stk = s.stk := rfl
@[simp] theorem State.setReg_paths (s : State) (c v : Nat) : (s.setReg c v).paths = s.paths := rfl
@[simp] theorem State.setReg_tier (s : State) (c v : Nat) : (s.setReg c v).tier = s.tier := rfl
@[simp] theorem State.setReg_tiles (s : State) (c v : Nat) : (s.setReg c v).tiles = s.tiles := rfl
@[simp] theorem State.setReg_tlc (s : State) (c v : Nat) : (s.setReg c v).tlc = s.tlc := rfl
@[simp] theorem State.setReg_tlcDown (s : State) (c v : Nat) : (s.setReg c v).tlcDown = s.tlcDown := rfl
@[simp] theorem State.setReg_coll (s : State) (c v : Nat) : (s.setReg c v).coll = s.coll := rfl
@[simp] theorem State.setReg_pnm (s : State) (c v : Nat) : (s.setReg c v).pnm = s.pnm := rfl
@[simp] theorem State.setReg_trav (s : State) (c v : Nat) : (s.setReg c v).trav = s.trav := rfl
@[simp] theorem State.setReg_xc (s : State) (c v : Nat) : (s.setReg c v).xc = s.xc := rfl
@[simp] theorem State.setReg_links (s : State) (c v : Nat) : (s.setReg c v).links = s.links := rfl
@[simp] theorem State.setReg_sw (s : State) (c v : Nat) : (s.setReg c v).sw = s.sw := rfl
@[simp] theorem State.setReg_traf (s : State) (c v : Nat) : (s.setReg c v).traf = s.traf := rfl
@[simp] theorem State.setReg_roce (s : State) (c v : Nat) : (s.setReg c v).roce = s.roce := rfl
@[simp] theorem State.setReg_parcels (s : State) (c v : Nat) : (s.setReg c v).parcels = s.parcels := rfl
@[simp] theorem State.setReg_recov (s : State) (c v : Nat) : (s.setReg c v).recov = s.recov := rfl
@[simp] theorem State.setReg_sec (s : State) (c v : Nat) : (s.setReg c v).sec = s.sec := rfl
@[simp] theorem State.setReg_nonce (s : State) (c v : Nat) : (s.setReg c v).nonce = s.nonce := rfl
@[simp] theorem State.setReg_boot (s : State) (c v : Nat) : (s.setReg c v).boot = s.boot := rfl
@[simp] theorem State.setReg_mgmt (s : State) (c v : Nat) : (s.setReg c v).mgmt = s.mgmt := rfl
@[simp] theorem State.setReg_out (s : State) (c v : Nat) : (s.setReg c v).out = s.out := rfl

@[simp] theorem State.resetReg_pending (s : State) (c : Nat) : (s.resetReg c).pending = s.pending := rfl
@[simp] theorem State.resetReg_seqs (s : State) (c : Nat) : (s.resetReg c).seqs = s.seqs := rfl
@[simp] theorem State.resetReg_free (s : State) (c : Nat) : (s.resetReg c).free = s.free := rfl
@[simp] theorem State.resetReg_mem (s : State) (c : Nat) : (s.resetReg c).mem = s.mem := rfl
@[simp] theorem State.resetReg_extents (s : State) (c : Nat) : (s.resetReg c).extents = s.extents := rfl
@[simp] theorem State.resetReg_revoking (s : State) (c : Nat) : (s.resetReg c).revoking = s.revoking := rfl
@[simp] theorem State.resetReg_cad (s : State) (c : Nat) : (s.resetReg c).cad = s.cad := rfl
@[simp] theorem State.resetReg_stk (s : State) (c : Nat) : (s.resetReg c).stk = s.stk := rfl
@[simp] theorem State.resetReg_paths (s : State) (c : Nat) : (s.resetReg c).paths = s.paths := rfl
@[simp] theorem State.resetReg_tier (s : State) (c : Nat) : (s.resetReg c).tier = s.tier := rfl
@[simp] theorem State.resetReg_tiles (s : State) (c : Nat) : (s.resetReg c).tiles = s.tiles := rfl
@[simp] theorem State.resetReg_tlc (s : State) (c : Nat) : (s.resetReg c).tlc = s.tlc := rfl
@[simp] theorem State.resetReg_tlcDown (s : State) (c : Nat) : (s.resetReg c).tlcDown = s.tlcDown := rfl
@[simp] theorem State.resetReg_coll (s : State) (c : Nat) : (s.resetReg c).coll = s.coll := rfl
@[simp] theorem State.resetReg_pnm (s : State) (c : Nat) : (s.resetReg c).pnm = s.pnm := rfl
@[simp] theorem State.resetReg_trav (s : State) (c : Nat) : (s.resetReg c).trav = s.trav := rfl
@[simp] theorem State.resetReg_xc (s : State) (c : Nat) : (s.resetReg c).xc = s.xc := rfl
@[simp] theorem State.resetReg_links (s : State) (c : Nat) : (s.resetReg c).links = s.links := rfl
@[simp] theorem State.resetReg_sw (s : State) (c : Nat) : (s.resetReg c).sw = s.sw := rfl
@[simp] theorem State.resetReg_traf (s : State) (c : Nat) : (s.resetReg c).traf = s.traf := rfl
@[simp] theorem State.resetReg_roce (s : State) (c : Nat) : (s.resetReg c).roce = s.roce := rfl
@[simp] theorem State.resetReg_parcels (s : State) (c : Nat) : (s.resetReg c).parcels = s.parcels := rfl
@[simp] theorem State.resetReg_recov (s : State) (c : Nat) : (s.resetReg c).recov = s.recov := rfl
@[simp] theorem State.resetReg_sec (s : State) (c : Nat) : (s.resetReg c).sec = s.sec := rfl
@[simp] theorem State.resetReg_nonce (s : State) (c : Nat) : (s.resetReg c).nonce = s.nonce := rfl
@[simp] theorem State.resetReg_boot (s : State) (c : Nat) : (s.resetReg c).boot = s.boot := rfl
@[simp] theorem State.resetReg_mgmt (s : State) (c : Nat) : (s.resetReg c).mgmt = s.mgmt := rfl
@[simp] theorem State.resetReg_out (s : State) (c : Nat) : (s.resetReg c).out = s.out := rfl

@[simp] theorem State.resetRegs_pending (s : State) (q : Nat → Bool) : (s.resetRegs q).pending = s.pending := rfl
@[simp] theorem State.resetRegs_seqs (s : State) (q : Nat → Bool) : (s.resetRegs q).seqs = s.seqs := rfl
@[simp] theorem State.resetRegs_free (s : State) (q : Nat → Bool) : (s.resetRegs q).free = s.free := rfl
@[simp] theorem State.resetRegs_mem (s : State) (q : Nat → Bool) : (s.resetRegs q).mem = s.mem := rfl
@[simp] theorem State.resetRegs_extents (s : State) (q : Nat → Bool) : (s.resetRegs q).extents = s.extents := rfl
@[simp] theorem State.resetRegs_revoking (s : State) (q : Nat → Bool) : (s.resetRegs q).revoking = s.revoking := rfl
@[simp] theorem State.resetRegs_cad (s : State) (q : Nat → Bool) : (s.resetRegs q).cad = s.cad := rfl
@[simp] theorem State.resetRegs_stk (s : State) (q : Nat → Bool) : (s.resetRegs q).stk = s.stk := rfl
@[simp] theorem State.resetRegs_paths (s : State) (q : Nat → Bool) : (s.resetRegs q).paths = s.paths := rfl
@[simp] theorem State.resetRegs_tier (s : State) (q : Nat → Bool) : (s.resetRegs q).tier = s.tier := rfl
@[simp] theorem State.resetRegs_tiles (s : State) (q : Nat → Bool) : (s.resetRegs q).tiles = s.tiles := rfl
@[simp] theorem State.resetRegs_tlc (s : State) (q : Nat → Bool) : (s.resetRegs q).tlc = s.tlc := rfl
@[simp] theorem State.resetRegs_tlcDown (s : State) (q : Nat → Bool) : (s.resetRegs q).tlcDown = s.tlcDown := rfl
@[simp] theorem State.resetRegs_coll (s : State) (q : Nat → Bool) : (s.resetRegs q).coll = s.coll := rfl
@[simp] theorem State.resetRegs_pnm (s : State) (q : Nat → Bool) : (s.resetRegs q).pnm = s.pnm := rfl
@[simp] theorem State.resetRegs_trav (s : State) (q : Nat → Bool) : (s.resetRegs q).trav = s.trav := rfl
@[simp] theorem State.resetRegs_xc (s : State) (q : Nat → Bool) : (s.resetRegs q).xc = s.xc := rfl
@[simp] theorem State.resetRegs_links (s : State) (q : Nat → Bool) : (s.resetRegs q).links = s.links := rfl
@[simp] theorem State.resetRegs_sw (s : State) (q : Nat → Bool) : (s.resetRegs q).sw = s.sw := rfl
@[simp] theorem State.resetRegs_traf (s : State) (q : Nat → Bool) : (s.resetRegs q).traf = s.traf := rfl
@[simp] theorem State.resetRegs_roce (s : State) (q : Nat → Bool) : (s.resetRegs q).roce = s.roce := rfl
@[simp] theorem State.resetRegs_parcels (s : State) (q : Nat → Bool) : (s.resetRegs q).parcels = s.parcels := rfl
@[simp] theorem State.resetRegs_recov (s : State) (q : Nat → Bool) : (s.resetRegs q).recov = s.recov := rfl
@[simp] theorem State.resetRegs_sec (s : State) (q : Nat → Bool) : (s.resetRegs q).sec = s.sec := rfl
@[simp] theorem State.resetRegs_nonce (s : State) (q : Nat → Bool) : (s.resetRegs q).nonce = s.nonce := rfl
@[simp] theorem State.resetRegs_boot (s : State) (q : Nat → Bool) : (s.resetRegs q).boot = s.boot := rfl
@[simp] theorem State.resetRegs_mgmt (s : State) (q : Nat → Bool) : (s.resetRegs q).mgmt = s.mgmt := rfl
@[simp] theorem State.resetRegs_out (s : State) (q : Nat → Bool) : (s.resetRegs q).out = s.out := rfl

@[simp] theorem State.tick_pending (s : State) (aid : Nat) : (s.tick aid).pending = s.pending := rfl
@[simp] theorem State.tick_regs (s : State) (aid : Nat) : (s.tick aid).regs = s.regs := rfl
@[simp] theorem State.tick_free (s : State) (aid : Nat) : (s.tick aid).free = s.free := rfl
@[simp] theorem State.tick_mem (s : State) (aid : Nat) : (s.tick aid).mem = s.mem := rfl
@[simp] theorem State.tick_extents (s : State) (aid : Nat) : (s.tick aid).extents = s.extents := rfl
@[simp] theorem State.tick_revoking (s : State) (aid : Nat) : (s.tick aid).revoking = s.revoking := rfl
@[simp] theorem State.tick_cad (s : State) (aid : Nat) : (s.tick aid).cad = s.cad := rfl
@[simp] theorem State.tick_stk (s : State) (aid : Nat) : (s.tick aid).stk = s.stk := rfl
@[simp] theorem State.tick_paths (s : State) (aid : Nat) : (s.tick aid).paths = s.paths := rfl
@[simp] theorem State.tick_tier (s : State) (aid : Nat) : (s.tick aid).tier = s.tier := rfl
@[simp] theorem State.tick_tiles (s : State) (aid : Nat) : (s.tick aid).tiles = s.tiles := rfl
@[simp] theorem State.tick_tlc (s : State) (aid : Nat) : (s.tick aid).tlc = s.tlc := rfl
@[simp] theorem State.tick_tlcDown (s : State) (aid : Nat) : (s.tick aid).tlcDown = s.tlcDown := rfl
@[simp] theorem State.tick_coll (s : State) (aid : Nat) : (s.tick aid).coll = s.coll := rfl
@[simp] theorem State.tick_pnm (s : State) (aid : Nat) : (s.tick aid).pnm = s.pnm := rfl
@[simp] theorem State.tick_trav (s : State) (aid : Nat) : (s.tick aid).trav = s.trav := rfl
@[simp] theorem State.tick_xc (s : State) (aid : Nat) : (s.tick aid).xc = s.xc := rfl
@[simp] theorem State.tick_links (s : State) (aid : Nat) : (s.tick aid).links = s.links := rfl
@[simp] theorem State.tick_sw (s : State) (aid : Nat) : (s.tick aid).sw = s.sw := rfl
@[simp] theorem State.tick_traf (s : State) (aid : Nat) : (s.tick aid).traf = s.traf := rfl
@[simp] theorem State.tick_roce (s : State) (aid : Nat) : (s.tick aid).roce = s.roce := rfl
@[simp] theorem State.tick_parcels (s : State) (aid : Nat) : (s.tick aid).parcels = s.parcels := rfl
@[simp] theorem State.tick_recov (s : State) (aid : Nat) : (s.tick aid).recov = s.recov := rfl
@[simp] theorem State.tick_sec (s : State) (aid : Nat) : (s.tick aid).sec = s.sec := rfl
@[simp] theorem State.tick_nonce (s : State) (aid : Nat) : (s.tick aid).nonce = s.nonce := rfl
@[simp] theorem State.tick_boot (s : State) (aid : Nat) : (s.tick aid).boot = s.boot := rfl
@[simp] theorem State.tick_mgmt (s : State) (aid : Nat) : (s.tick aid).mgmt = s.mgmt := rfl
@[simp] theorem State.tick_out (s : State) (aid : Nat) : (s.tick aid).out = s.out := rfl

@[simp] theorem State.took_pending (s : State) : (s.took).pending = s.pending := rfl
@[simp] theorem State.took_regs (s : State) : (s.took).regs = s.regs := rfl
@[simp] theorem State.took_seqs (s : State) : (s.took).seqs = s.seqs := rfl
@[simp] theorem State.took_mem (s : State) : (s.took).mem = s.mem := rfl
@[simp] theorem State.took_extents (s : State) : (s.took).extents = s.extents := rfl
@[simp] theorem State.took_revoking (s : State) : (s.took).revoking = s.revoking := rfl
@[simp] theorem State.took_cad (s : State) : (s.took).cad = s.cad := rfl
@[simp] theorem State.took_stk (s : State) : (s.took).stk = s.stk := rfl
@[simp] theorem State.took_paths (s : State) : (s.took).paths = s.paths := rfl
@[simp] theorem State.took_tier (s : State) : (s.took).tier = s.tier := rfl
@[simp] theorem State.took_tiles (s : State) : (s.took).tiles = s.tiles := rfl
@[simp] theorem State.took_tlc (s : State) : (s.took).tlc = s.tlc := rfl
@[simp] theorem State.took_tlcDown (s : State) : (s.took).tlcDown = s.tlcDown := rfl
@[simp] theorem State.took_coll (s : State) : (s.took).coll = s.coll := rfl
@[simp] theorem State.took_pnm (s : State) : (s.took).pnm = s.pnm := rfl
@[simp] theorem State.took_trav (s : State) : (s.took).trav = s.trav := rfl
@[simp] theorem State.took_xc (s : State) : (s.took).xc = s.xc := rfl
@[simp] theorem State.took_links (s : State) : (s.took).links = s.links := rfl
@[simp] theorem State.took_sw (s : State) : (s.took).sw = s.sw := rfl
@[simp] theorem State.took_traf (s : State) : (s.took).traf = s.traf := rfl
@[simp] theorem State.took_roce (s : State) : (s.took).roce = s.roce := rfl
@[simp] theorem State.took_parcels (s : State) : (s.took).parcels = s.parcels := rfl
@[simp] theorem State.took_recov (s : State) : (s.took).recov = s.recov := rfl
@[simp] theorem State.took_sec (s : State) : (s.took).sec = s.sec := rfl
@[simp] theorem State.took_nonce (s : State) : (s.took).nonce = s.nonce := rfl
@[simp] theorem State.took_boot (s : State) : (s.took).boot = s.boot := rfl
@[simp] theorem State.took_mgmt (s : State) : (s.took).mgmt = s.mgmt := rfl
@[simp] theorem State.took_out (s : State) : (s.took).out = s.out := rfl

@[simp] theorem State.setExt_pending (s : State) (e : Nat) (x : Extent) : (s.setExt e x).pending = s.pending := rfl
@[simp] theorem State.setExt_regs (s : State) (e : Nat) (x : Extent) : (s.setExt e x).regs = s.regs := rfl
@[simp] theorem State.setExt_seqs (s : State) (e : Nat) (x : Extent) : (s.setExt e x).seqs = s.seqs := rfl
@[simp] theorem State.setExt_free (s : State) (e : Nat) (x : Extent) : (s.setExt e x).free = s.free := rfl
@[simp] theorem State.setExt_mem (s : State) (e : Nat) (x : Extent) : (s.setExt e x).mem = s.mem := rfl
@[simp] theorem State.setExt_revoking (s : State) (e : Nat) (x : Extent) : (s.setExt e x).revoking = s.revoking := rfl
@[simp] theorem State.setExt_cad (s : State) (e : Nat) (x : Extent) : (s.setExt e x).cad = s.cad := rfl
@[simp] theorem State.setExt_stk (s : State) (e : Nat) (x : Extent) : (s.setExt e x).stk = s.stk := rfl
@[simp] theorem State.setExt_paths (s : State) (e : Nat) (x : Extent) : (s.setExt e x).paths = s.paths := rfl
@[simp] theorem State.setExt_tier (s : State) (e : Nat) (x : Extent) : (s.setExt e x).tier = s.tier := rfl
@[simp] theorem State.setExt_tiles (s : State) (e : Nat) (x : Extent) : (s.setExt e x).tiles = s.tiles := rfl
@[simp] theorem State.setExt_tlc (s : State) (e : Nat) (x : Extent) : (s.setExt e x).tlc = s.tlc := rfl
@[simp] theorem State.setExt_tlcDown (s : State) (e : Nat) (x : Extent) : (s.setExt e x).tlcDown = s.tlcDown := rfl
@[simp] theorem State.setExt_coll (s : State) (e : Nat) (x : Extent) : (s.setExt e x).coll = s.coll := rfl
@[simp] theorem State.setExt_pnm (s : State) (e : Nat) (x : Extent) : (s.setExt e x).pnm = s.pnm := rfl
@[simp] theorem State.setExt_trav (s : State) (e : Nat) (x : Extent) : (s.setExt e x).trav = s.trav := rfl
@[simp] theorem State.setExt_xc (s : State) (e : Nat) (x : Extent) : (s.setExt e x).xc = s.xc := rfl
@[simp] theorem State.setExt_links (s : State) (e : Nat) (x : Extent) : (s.setExt e x).links = s.links := rfl
@[simp] theorem State.setExt_sw (s : State) (e : Nat) (x : Extent) : (s.setExt e x).sw = s.sw := rfl
@[simp] theorem State.setExt_traf (s : State) (e : Nat) (x : Extent) : (s.setExt e x).traf = s.traf := rfl
@[simp] theorem State.setExt_roce (s : State) (e : Nat) (x : Extent) : (s.setExt e x).roce = s.roce := rfl
@[simp] theorem State.setExt_parcels (s : State) (e : Nat) (x : Extent) : (s.setExt e x).parcels = s.parcels := rfl
@[simp] theorem State.setExt_recov (s : State) (e : Nat) (x : Extent) : (s.setExt e x).recov = s.recov := rfl
@[simp] theorem State.setExt_sec (s : State) (e : Nat) (x : Extent) : (s.setExt e x).sec = s.sec := rfl
@[simp] theorem State.setExt_nonce (s : State) (e : Nat) (x : Extent) : (s.setExt e x).nonce = s.nonce := rfl
@[simp] theorem State.setExt_boot (s : State) (e : Nat) (x : Extent) : (s.setExt e x).boot = s.boot := rfl
@[simp] theorem State.setExt_mgmt (s : State) (e : Nat) (x : Extent) : (s.setExt e x).mgmt = s.mgmt := rfl
@[simp] theorem State.setExt_out (s : State) (e : Nat) (x : Extent) : (s.setExt e x).out = s.out := rfl

@[simp] theorem State.send_pending (s : State) (p : Packet) : (s.send p).pending = s.pending := rfl
@[simp] theorem State.send_regs (s : State) (p : Packet) : (s.send p).regs = s.regs := rfl
@[simp] theorem State.send_seqs (s : State) (p : Packet) : (s.send p).seqs = s.seqs := rfl
@[simp] theorem State.send_free (s : State) (p : Packet) : (s.send p).free = s.free := rfl
@[simp] theorem State.send_mem (s : State) (p : Packet) : (s.send p).mem = s.mem := rfl
@[simp] theorem State.send_extents (s : State) (p : Packet) : (s.send p).extents = s.extents := rfl
@[simp] theorem State.send_revoking (s : State) (p : Packet) : (s.send p).revoking = s.revoking := rfl
@[simp] theorem State.send_cad (s : State) (p : Packet) : (s.send p).cad = s.cad := rfl
@[simp] theorem State.send_stk (s : State) (p : Packet) : (s.send p).stk = s.stk := rfl
@[simp] theorem State.send_paths (s : State) (p : Packet) : (s.send p).paths = s.paths := rfl
@[simp] theorem State.send_tier (s : State) (p : Packet) : (s.send p).tier = s.tier := rfl
@[simp] theorem State.send_tiles (s : State) (p : Packet) : (s.send p).tiles = s.tiles := rfl
@[simp] theorem State.send_tlc (s : State) (p : Packet) : (s.send p).tlc = s.tlc := rfl
@[simp] theorem State.send_tlcDown (s : State) (p : Packet) : (s.send p).tlcDown = s.tlcDown := rfl
@[simp] theorem State.send_coll (s : State) (p : Packet) : (s.send p).coll = s.coll := rfl
@[simp] theorem State.send_pnm (s : State) (p : Packet) : (s.send p).pnm = s.pnm := rfl
@[simp] theorem State.send_trav (s : State) (p : Packet) : (s.send p).trav = s.trav := rfl
@[simp] theorem State.send_xc (s : State) (p : Packet) : (s.send p).xc = s.xc := rfl
@[simp] theorem State.send_links (s : State) (p : Packet) : (s.send p).links = s.links := rfl
@[simp] theorem State.send_sw (s : State) (p : Packet) : (s.send p).sw = s.sw := rfl
@[simp] theorem State.send_traf (s : State) (p : Packet) : (s.send p).traf = s.traf := rfl
@[simp] theorem State.send_roce (s : State) (p : Packet) : (s.send p).roce = s.roce := rfl
@[simp] theorem State.send_parcels (s : State) (p : Packet) : (s.send p).parcels = s.parcels := rfl
@[simp] theorem State.send_recov (s : State) (p : Packet) : (s.send p).recov = s.recov := rfl
@[simp] theorem State.send_sec (s : State) (p : Packet) : (s.send p).sec = s.sec := rfl
@[simp] theorem State.send_nonce (s : State) (p : Packet) : (s.send p).nonce = s.nonce := rfl
@[simp] theorem State.send_boot (s : State) (p : Packet) : (s.send p).boot = s.boot := rfl
@[simp] theorem State.send_mgmt (s : State) (p : Packet) : (s.send p).mgmt = s.mgmt := rfl

@[simp] theorem State.setLink_pending (s : State) (p : Nat) (l : Link) : (s.setLink p l).pending = s.pending := rfl
@[simp] theorem State.setLink_regs (s : State) (p : Nat) (l : Link) : (s.setLink p l).regs = s.regs := rfl
@[simp] theorem State.setLink_seqs (s : State) (p : Nat) (l : Link) : (s.setLink p l).seqs = s.seqs := rfl
@[simp] theorem State.setLink_free (s : State) (p : Nat) (l : Link) : (s.setLink p l).free = s.free := rfl
@[simp] theorem State.setLink_mem (s : State) (p : Nat) (l : Link) : (s.setLink p l).mem = s.mem := rfl
@[simp] theorem State.setLink_extents (s : State) (p : Nat) (l : Link) : (s.setLink p l).extents = s.extents := rfl
@[simp] theorem State.setLink_revoking (s : State) (p : Nat) (l : Link) : (s.setLink p l).revoking = s.revoking := rfl
@[simp] theorem State.setLink_cad (s : State) (p : Nat) (l : Link) : (s.setLink p l).cad = s.cad := rfl
@[simp] theorem State.setLink_stk (s : State) (p : Nat) (l : Link) : (s.setLink p l).stk = s.stk := rfl
@[simp] theorem State.setLink_paths (s : State) (p : Nat) (l : Link) : (s.setLink p l).paths = s.paths := rfl
@[simp] theorem State.setLink_tier (s : State) (p : Nat) (l : Link) : (s.setLink p l).tier = s.tier := rfl
@[simp] theorem State.setLink_tiles (s : State) (p : Nat) (l : Link) : (s.setLink p l).tiles = s.tiles := rfl
@[simp] theorem State.setLink_tlc (s : State) (p : Nat) (l : Link) : (s.setLink p l).tlc = s.tlc := rfl
@[simp] theorem State.setLink_tlcDown (s : State) (p : Nat) (l : Link) : (s.setLink p l).tlcDown = s.tlcDown := rfl
@[simp] theorem State.setLink_coll (s : State) (p : Nat) (l : Link) : (s.setLink p l).coll = s.coll := rfl
@[simp] theorem State.setLink_pnm (s : State) (p : Nat) (l : Link) : (s.setLink p l).pnm = s.pnm := rfl
@[simp] theorem State.setLink_trav (s : State) (p : Nat) (l : Link) : (s.setLink p l).trav = s.trav := rfl
@[simp] theorem State.setLink_xc (s : State) (p : Nat) (l : Link) : (s.setLink p l).xc = s.xc := rfl
@[simp] theorem State.setLink_sw (s : State) (p : Nat) (l : Link) : (s.setLink p l).sw = s.sw := rfl
@[simp] theorem State.setLink_traf (s : State) (p : Nat) (l : Link) : (s.setLink p l).traf = s.traf := rfl
@[simp] theorem State.setLink_roce (s : State) (p : Nat) (l : Link) : (s.setLink p l).roce = s.roce := rfl
@[simp] theorem State.setLink_parcels (s : State) (p : Nat) (l : Link) : (s.setLink p l).parcels = s.parcels := rfl
@[simp] theorem State.setLink_recov (s : State) (p : Nat) (l : Link) : (s.setLink p l).recov = s.recov := rfl
@[simp] theorem State.setLink_sec (s : State) (p : Nat) (l : Link) : (s.setLink p l).sec = s.sec := rfl
@[simp] theorem State.setLink_nonce (s : State) (p : Nat) (l : Link) : (s.setLink p l).nonce = s.nonce := rfl
@[simp] theorem State.setLink_boot (s : State) (p : Nat) (l : Link) : (s.setLink p l).boot = s.boot := rfl
@[simp] theorem State.setLink_mgmt (s : State) (p : Nat) (l : Link) : (s.setLink p l).mgmt = s.mgmt := rfl
@[simp] theorem State.setLink_out (s : State) (p : Nat) (l : Link) : (s.setLink p l).out = s.out := rfl

@[simp] theorem State.modSlice_pending (s : State) (n : Nat) (f : CadSlice → CadSlice) : (s.modSlice n f).pending = s.pending := rfl
@[simp] theorem State.modSlice_regs (s : State) (n : Nat) (f : CadSlice → CadSlice) : (s.modSlice n f).regs = s.regs := rfl
@[simp] theorem State.modSlice_seqs (s : State) (n : Nat) (f : CadSlice → CadSlice) : (s.modSlice n f).seqs = s.seqs := rfl
@[simp] theorem State.modSlice_free (s : State) (n : Nat) (f : CadSlice → CadSlice) : (s.modSlice n f).free = s.free := rfl
@[simp] theorem State.modSlice_mem (s : State) (n : Nat) (f : CadSlice → CadSlice) : (s.modSlice n f).mem = s.mem := rfl
@[simp] theorem State.modSlice_extents (s : State) (n : Nat) (f : CadSlice → CadSlice) : (s.modSlice n f).extents = s.extents := rfl
@[simp] theorem State.modSlice_revoking (s : State) (n : Nat) (f : CadSlice → CadSlice) : (s.modSlice n f).revoking = s.revoking := rfl
@[simp] theorem State.modSlice_stk (s : State) (n : Nat) (f : CadSlice → CadSlice) : (s.modSlice n f).stk = s.stk := rfl
@[simp] theorem State.modSlice_paths (s : State) (n : Nat) (f : CadSlice → CadSlice) : (s.modSlice n f).paths = s.paths := rfl
@[simp] theorem State.modSlice_tier (s : State) (n : Nat) (f : CadSlice → CadSlice) : (s.modSlice n f).tier = s.tier := rfl
@[simp] theorem State.modSlice_tiles (s : State) (n : Nat) (f : CadSlice → CadSlice) : (s.modSlice n f).tiles = s.tiles := rfl
@[simp] theorem State.modSlice_tlc (s : State) (n : Nat) (f : CadSlice → CadSlice) : (s.modSlice n f).tlc = s.tlc := rfl
@[simp] theorem State.modSlice_tlcDown (s : State) (n : Nat) (f : CadSlice → CadSlice) : (s.modSlice n f).tlcDown = s.tlcDown := rfl
@[simp] theorem State.modSlice_coll (s : State) (n : Nat) (f : CadSlice → CadSlice) : (s.modSlice n f).coll = s.coll := rfl
@[simp] theorem State.modSlice_pnm (s : State) (n : Nat) (f : CadSlice → CadSlice) : (s.modSlice n f).pnm = s.pnm := rfl
@[simp] theorem State.modSlice_trav (s : State) (n : Nat) (f : CadSlice → CadSlice) : (s.modSlice n f).trav = s.trav := rfl
@[simp] theorem State.modSlice_xc (s : State) (n : Nat) (f : CadSlice → CadSlice) : (s.modSlice n f).xc = s.xc := rfl
@[simp] theorem State.modSlice_links (s : State) (n : Nat) (f : CadSlice → CadSlice) : (s.modSlice n f).links = s.links := rfl
@[simp] theorem State.modSlice_sw (s : State) (n : Nat) (f : CadSlice → CadSlice) : (s.modSlice n f).sw = s.sw := rfl
@[simp] theorem State.modSlice_traf (s : State) (n : Nat) (f : CadSlice → CadSlice) : (s.modSlice n f).traf = s.traf := rfl
@[simp] theorem State.modSlice_roce (s : State) (n : Nat) (f : CadSlice → CadSlice) : (s.modSlice n f).roce = s.roce := rfl
@[simp] theorem State.modSlice_parcels (s : State) (n : Nat) (f : CadSlice → CadSlice) : (s.modSlice n f).parcels = s.parcels := rfl
@[simp] theorem State.modSlice_recov (s : State) (n : Nat) (f : CadSlice → CadSlice) : (s.modSlice n f).recov = s.recov := rfl
@[simp] theorem State.modSlice_sec (s : State) (n : Nat) (f : CadSlice → CadSlice) : (s.modSlice n f).sec = s.sec := rfl
@[simp] theorem State.modSlice_nonce (s : State) (n : Nat) (f : CadSlice → CadSlice) : (s.modSlice n f).nonce = s.nonce := rfl
@[simp] theorem State.modSlice_boot (s : State) (n : Nat) (f : CadSlice → CadSlice) : (s.modSlice n f).boot = s.boot := rfl
@[simp] theorem State.modSlice_mgmt (s : State) (n : Nat) (f : CadSlice → CadSlice) : (s.modSlice n f).mgmt = s.mgmt := rfl
@[simp] theorem State.modSlice_out (s : State) (n : Nat) (f : CadSlice → CadSlice) : (s.modSlice n f).out = s.out := rfl

@[simp] theorem State.setFrame_pending (s : State) (k : Nat) (f : Frame) : (s.setFrame k f).pending = s.pending := rfl
@[simp] theorem State.setFrame_regs (s : State) (k : Nat) (f : Frame) : (s.setFrame k f).regs = s.regs := rfl
@[simp] theorem State.setFrame_seqs (s : State) (k : Nat) (f : Frame) : (s.setFrame k f).seqs = s.seqs := rfl
@[simp] theorem State.setFrame_free (s : State) (k : Nat) (f : Frame) : (s.setFrame k f).free = s.free := rfl
@[simp] theorem State.setFrame_mem (s : State) (k : Nat) (f : Frame) : (s.setFrame k f).mem = s.mem := rfl
@[simp] theorem State.setFrame_extents (s : State) (k : Nat) (f : Frame) : (s.setFrame k f).extents = s.extents := rfl
@[simp] theorem State.setFrame_revoking (s : State) (k : Nat) (f : Frame) : (s.setFrame k f).revoking = s.revoking := rfl
@[simp] theorem State.setFrame_cad (s : State) (k : Nat) (f : Frame) : (s.setFrame k f).cad = s.cad := rfl
@[simp] theorem State.setFrame_stk (s : State) (k : Nat) (f : Frame) : (s.setFrame k f).stk = s.stk := rfl
@[simp] theorem State.setFrame_paths (s : State) (k : Nat) (f : Frame) : (s.setFrame k f).paths = s.paths := rfl
@[simp] theorem State.setFrame_tiles (s : State) (k : Nat) (f : Frame) : (s.setFrame k f).tiles = s.tiles := rfl
@[simp] theorem State.setFrame_tlc (s : State) (k : Nat) (f : Frame) : (s.setFrame k f).tlc = s.tlc := rfl
@[simp] theorem State.setFrame_tlcDown (s : State) (k : Nat) (f : Frame) : (s.setFrame k f).tlcDown = s.tlcDown := rfl
@[simp] theorem State.setFrame_coll (s : State) (k : Nat) (f : Frame) : (s.setFrame k f).coll = s.coll := rfl
@[simp] theorem State.setFrame_pnm (s : State) (k : Nat) (f : Frame) : (s.setFrame k f).pnm = s.pnm := rfl
@[simp] theorem State.setFrame_trav (s : State) (k : Nat) (f : Frame) : (s.setFrame k f).trav = s.trav := rfl
@[simp] theorem State.setFrame_xc (s : State) (k : Nat) (f : Frame) : (s.setFrame k f).xc = s.xc := rfl
@[simp] theorem State.setFrame_links (s : State) (k : Nat) (f : Frame) : (s.setFrame k f).links = s.links := rfl
@[simp] theorem State.setFrame_sw (s : State) (k : Nat) (f : Frame) : (s.setFrame k f).sw = s.sw := rfl
@[simp] theorem State.setFrame_traf (s : State) (k : Nat) (f : Frame) : (s.setFrame k f).traf = s.traf := rfl
@[simp] theorem State.setFrame_roce (s : State) (k : Nat) (f : Frame) : (s.setFrame k f).roce = s.roce := rfl
@[simp] theorem State.setFrame_parcels (s : State) (k : Nat) (f : Frame) : (s.setFrame k f).parcels = s.parcels := rfl
@[simp] theorem State.setFrame_recov (s : State) (k : Nat) (f : Frame) : (s.setFrame k f).recov = s.recov := rfl
@[simp] theorem State.setFrame_sec (s : State) (k : Nat) (f : Frame) : (s.setFrame k f).sec = s.sec := rfl
@[simp] theorem State.setFrame_nonce (s : State) (k : Nat) (f : Frame) : (s.setFrame k f).nonce = s.nonce := rfl
@[simp] theorem State.setFrame_boot (s : State) (k : Nat) (f : Frame) : (s.setFrame k f).boot = s.boot := rfl
@[simp] theorem State.setFrame_mgmt (s : State) (k : Nat) (f : Frame) : (s.setFrame k f).mgmt = s.mgmt := rfl
@[simp] theorem State.setFrame_out (s : State) (k : Nat) (f : Frame) : (s.setFrame k f).out = s.out := rfl

@[simp] theorem State.dropFrame_pending (s : State) (k : Nat) : (s.dropFrame k).pending = s.pending := rfl
@[simp] theorem State.dropFrame_regs (s : State) (k : Nat) : (s.dropFrame k).regs = s.regs := rfl
@[simp] theorem State.dropFrame_seqs (s : State) (k : Nat) : (s.dropFrame k).seqs = s.seqs := rfl
@[simp] theorem State.dropFrame_free (s : State) (k : Nat) : (s.dropFrame k).free = s.free := rfl
@[simp] theorem State.dropFrame_mem (s : State) (k : Nat) : (s.dropFrame k).mem = s.mem := rfl
@[simp] theorem State.dropFrame_extents (s : State) (k : Nat) : (s.dropFrame k).extents = s.extents := rfl
@[simp] theorem State.dropFrame_revoking (s : State) (k : Nat) : (s.dropFrame k).revoking = s.revoking := rfl
@[simp] theorem State.dropFrame_cad (s : State) (k : Nat) : (s.dropFrame k).cad = s.cad := rfl
@[simp] theorem State.dropFrame_stk (s : State) (k : Nat) : (s.dropFrame k).stk = s.stk := rfl
@[simp] theorem State.dropFrame_paths (s : State) (k : Nat) : (s.dropFrame k).paths = s.paths := rfl
@[simp] theorem State.dropFrame_tiles (s : State) (k : Nat) : (s.dropFrame k).tiles = s.tiles := rfl
@[simp] theorem State.dropFrame_tlc (s : State) (k : Nat) : (s.dropFrame k).tlc = s.tlc := rfl
@[simp] theorem State.dropFrame_tlcDown (s : State) (k : Nat) : (s.dropFrame k).tlcDown = s.tlcDown := rfl
@[simp] theorem State.dropFrame_coll (s : State) (k : Nat) : (s.dropFrame k).coll = s.coll := rfl
@[simp] theorem State.dropFrame_pnm (s : State) (k : Nat) : (s.dropFrame k).pnm = s.pnm := rfl
@[simp] theorem State.dropFrame_trav (s : State) (k : Nat) : (s.dropFrame k).trav = s.trav := rfl
@[simp] theorem State.dropFrame_xc (s : State) (k : Nat) : (s.dropFrame k).xc = s.xc := rfl
@[simp] theorem State.dropFrame_links (s : State) (k : Nat) : (s.dropFrame k).links = s.links := rfl
@[simp] theorem State.dropFrame_sw (s : State) (k : Nat) : (s.dropFrame k).sw = s.sw := rfl
@[simp] theorem State.dropFrame_traf (s : State) (k : Nat) : (s.dropFrame k).traf = s.traf := rfl
@[simp] theorem State.dropFrame_roce (s : State) (k : Nat) : (s.dropFrame k).roce = s.roce := rfl
@[simp] theorem State.dropFrame_parcels (s : State) (k : Nat) : (s.dropFrame k).parcels = s.parcels := rfl
@[simp] theorem State.dropFrame_recov (s : State) (k : Nat) : (s.dropFrame k).recov = s.recov := rfl
@[simp] theorem State.dropFrame_sec (s : State) (k : Nat) : (s.dropFrame k).sec = s.sec := rfl
@[simp] theorem State.dropFrame_nonce (s : State) (k : Nat) : (s.dropFrame k).nonce = s.nonce := rfl
@[simp] theorem State.dropFrame_boot (s : State) (k : Nat) : (s.dropFrame k).boot = s.boot := rfl
@[simp] theorem State.dropFrame_mgmt (s : State) (k : Nat) : (s.dropFrame k).mgmt = s.mgmt := rfl
@[simp] theorem State.dropFrame_out (s : State) (k : Nat) : (s.dropFrame k).out = s.out := rfl

@[simp] theorem State.setTlc_pending (s : State) (b k : Nat) (l : TlcLine) : (s.setTlc b k l).pending = s.pending := rfl
@[simp] theorem State.setTlc_regs (s : State) (b k : Nat) (l : TlcLine) : (s.setTlc b k l).regs = s.regs := rfl
@[simp] theorem State.setTlc_seqs (s : State) (b k : Nat) (l : TlcLine) : (s.setTlc b k l).seqs = s.seqs := rfl
@[simp] theorem State.setTlc_free (s : State) (b k : Nat) (l : TlcLine) : (s.setTlc b k l).free = s.free := rfl
@[simp] theorem State.setTlc_mem (s : State) (b k : Nat) (l : TlcLine) : (s.setTlc b k l).mem = s.mem := rfl
@[simp] theorem State.setTlc_extents (s : State) (b k : Nat) (l : TlcLine) : (s.setTlc b k l).extents = s.extents := rfl
@[simp] theorem State.setTlc_revoking (s : State) (b k : Nat) (l : TlcLine) : (s.setTlc b k l).revoking = s.revoking := rfl
@[simp] theorem State.setTlc_cad (s : State) (b k : Nat) (l : TlcLine) : (s.setTlc b k l).cad = s.cad := rfl
@[simp] theorem State.setTlc_stk (s : State) (b k : Nat) (l : TlcLine) : (s.setTlc b k l).stk = s.stk := rfl
@[simp] theorem State.setTlc_paths (s : State) (b k : Nat) (l : TlcLine) : (s.setTlc b k l).paths = s.paths := rfl
@[simp] theorem State.setTlc_tier (s : State) (b k : Nat) (l : TlcLine) : (s.setTlc b k l).tier = s.tier := rfl
@[simp] theorem State.setTlc_tiles (s : State) (b k : Nat) (l : TlcLine) : (s.setTlc b k l).tiles = s.tiles := rfl
@[simp] theorem State.setTlc_tlcDown (s : State) (b k : Nat) (l : TlcLine) : (s.setTlc b k l).tlcDown = s.tlcDown := rfl
@[simp] theorem State.setTlc_coll (s : State) (b k : Nat) (l : TlcLine) : (s.setTlc b k l).coll = s.coll := rfl
@[simp] theorem State.setTlc_pnm (s : State) (b k : Nat) (l : TlcLine) : (s.setTlc b k l).pnm = s.pnm := rfl
@[simp] theorem State.setTlc_trav (s : State) (b k : Nat) (l : TlcLine) : (s.setTlc b k l).trav = s.trav := rfl
@[simp] theorem State.setTlc_xc (s : State) (b k : Nat) (l : TlcLine) : (s.setTlc b k l).xc = s.xc := rfl
@[simp] theorem State.setTlc_links (s : State) (b k : Nat) (l : TlcLine) : (s.setTlc b k l).links = s.links := rfl
@[simp] theorem State.setTlc_sw (s : State) (b k : Nat) (l : TlcLine) : (s.setTlc b k l).sw = s.sw := rfl
@[simp] theorem State.setTlc_traf (s : State) (b k : Nat) (l : TlcLine) : (s.setTlc b k l).traf = s.traf := rfl
@[simp] theorem State.setTlc_roce (s : State) (b k : Nat) (l : TlcLine) : (s.setTlc b k l).roce = s.roce := rfl
@[simp] theorem State.setTlc_parcels (s : State) (b k : Nat) (l : TlcLine) : (s.setTlc b k l).parcels = s.parcels := rfl
@[simp] theorem State.setTlc_recov (s : State) (b k : Nat) (l : TlcLine) : (s.setTlc b k l).recov = s.recov := rfl
@[simp] theorem State.setTlc_sec (s : State) (b k : Nat) (l : TlcLine) : (s.setTlc b k l).sec = s.sec := rfl
@[simp] theorem State.setTlc_nonce (s : State) (b k : Nat) (l : TlcLine) : (s.setTlc b k l).nonce = s.nonce := rfl
@[simp] theorem State.setTlc_boot (s : State) (b k : Nat) (l : TlcLine) : (s.setTlc b k l).boot = s.boot := rfl
@[simp] theorem State.setTlc_mgmt (s : State) (b k : Nat) (l : TlcLine) : (s.setTlc b k l).mgmt = s.mgmt := rfl
@[simp] theorem State.setTlc_out (s : State) (b k : Nat) (l : TlcLine) : (s.setTlc b k l).out = s.out := rfl

@[simp] theorem State.delTlc_pending (s : State) (b k : Nat) : (s.delTlc b k).pending = s.pending := rfl
@[simp] theorem State.delTlc_regs (s : State) (b k : Nat) : (s.delTlc b k).regs = s.regs := rfl
@[simp] theorem State.delTlc_seqs (s : State) (b k : Nat) : (s.delTlc b k).seqs = s.seqs := rfl
@[simp] theorem State.delTlc_free (s : State) (b k : Nat) : (s.delTlc b k).free = s.free := rfl
@[simp] theorem State.delTlc_mem (s : State) (b k : Nat) : (s.delTlc b k).mem = s.mem := rfl
@[simp] theorem State.delTlc_extents (s : State) (b k : Nat) : (s.delTlc b k).extents = s.extents := rfl
@[simp] theorem State.delTlc_revoking (s : State) (b k : Nat) : (s.delTlc b k).revoking = s.revoking := rfl
@[simp] theorem State.delTlc_cad (s : State) (b k : Nat) : (s.delTlc b k).cad = s.cad := rfl
@[simp] theorem State.delTlc_stk (s : State) (b k : Nat) : (s.delTlc b k).stk = s.stk := rfl
@[simp] theorem State.delTlc_paths (s : State) (b k : Nat) : (s.delTlc b k).paths = s.paths := rfl
@[simp] theorem State.delTlc_tier (s : State) (b k : Nat) : (s.delTlc b k).tier = s.tier := rfl
@[simp] theorem State.delTlc_tiles (s : State) (b k : Nat) : (s.delTlc b k).tiles = s.tiles := rfl
@[simp] theorem State.delTlc_tlcDown (s : State) (b k : Nat) : (s.delTlc b k).tlcDown = s.tlcDown := rfl
@[simp] theorem State.delTlc_coll (s : State) (b k : Nat) : (s.delTlc b k).coll = s.coll := rfl
@[simp] theorem State.delTlc_pnm (s : State) (b k : Nat) : (s.delTlc b k).pnm = s.pnm := rfl
@[simp] theorem State.delTlc_trav (s : State) (b k : Nat) : (s.delTlc b k).trav = s.trav := rfl
@[simp] theorem State.delTlc_xc (s : State) (b k : Nat) : (s.delTlc b k).xc = s.xc := rfl
@[simp] theorem State.delTlc_links (s : State) (b k : Nat) : (s.delTlc b k).links = s.links := rfl
@[simp] theorem State.delTlc_sw (s : State) (b k : Nat) : (s.delTlc b k).sw = s.sw := rfl
@[simp] theorem State.delTlc_traf (s : State) (b k : Nat) : (s.delTlc b k).traf = s.traf := rfl
@[simp] theorem State.delTlc_roce (s : State) (b k : Nat) : (s.delTlc b k).roce = s.roce := rfl
@[simp] theorem State.delTlc_parcels (s : State) (b k : Nat) : (s.delTlc b k).parcels = s.parcels := rfl
@[simp] theorem State.delTlc_recov (s : State) (b k : Nat) : (s.delTlc b k).recov = s.recov := rfl
@[simp] theorem State.delTlc_sec (s : State) (b k : Nat) : (s.delTlc b k).sec = s.sec := rfl
@[simp] theorem State.delTlc_nonce (s : State) (b k : Nat) : (s.delTlc b k).nonce = s.nonce := rfl
@[simp] theorem State.delTlc_boot (s : State) (b k : Nat) : (s.delTlc b k).boot = s.boot := rfl
@[simp] theorem State.delTlc_mgmt (s : State) (b k : Nat) : (s.delTlc b k).mgmt = s.mgmt := rfl
@[simp] theorem State.delTlc_out (s : State) (b k : Nat) : (s.delTlc b k).out = s.out := rfl

@[simp] theorem State.setStake_pending (s : State) (n : Nat) (k : Stake) : (s.setStake n k).pending = s.pending := rfl
@[simp] theorem State.setStake_regs (s : State) (n : Nat) (k : Stake) : (s.setStake n k).regs = s.regs := rfl
@[simp] theorem State.setStake_seqs (s : State) (n : Nat) (k : Stake) : (s.setStake n k).seqs = s.seqs := rfl
@[simp] theorem State.setStake_free (s : State) (n : Nat) (k : Stake) : (s.setStake n k).free = s.free := rfl
@[simp] theorem State.setStake_mem (s : State) (n : Nat) (k : Stake) : (s.setStake n k).mem = s.mem := rfl
@[simp] theorem State.setStake_extents (s : State) (n : Nat) (k : Stake) : (s.setStake n k).extents = s.extents := rfl
@[simp] theorem State.setStake_revoking (s : State) (n : Nat) (k : Stake) : (s.setStake n k).revoking = s.revoking := rfl
@[simp] theorem State.setStake_cad (s : State) (n : Nat) (k : Stake) : (s.setStake n k).cad = s.cad := rfl
@[simp] theorem State.setStake_paths (s : State) (n : Nat) (k : Stake) : (s.setStake n k).paths = s.paths := rfl
@[simp] theorem State.setStake_tier (s : State) (n : Nat) (k : Stake) : (s.setStake n k).tier = s.tier := rfl
@[simp] theorem State.setStake_tiles (s : State) (n : Nat) (k : Stake) : (s.setStake n k).tiles = s.tiles := rfl
@[simp] theorem State.setStake_tlc (s : State) (n : Nat) (k : Stake) : (s.setStake n k).tlc = s.tlc := rfl
@[simp] theorem State.setStake_tlcDown (s : State) (n : Nat) (k : Stake) : (s.setStake n k).tlcDown = s.tlcDown := rfl
@[simp] theorem State.setStake_coll (s : State) (n : Nat) (k : Stake) : (s.setStake n k).coll = s.coll := rfl
@[simp] theorem State.setStake_pnm (s : State) (n : Nat) (k : Stake) : (s.setStake n k).pnm = s.pnm := rfl
@[simp] theorem State.setStake_trav (s : State) (n : Nat) (k : Stake) : (s.setStake n k).trav = s.trav := rfl
@[simp] theorem State.setStake_xc (s : State) (n : Nat) (k : Stake) : (s.setStake n k).xc = s.xc := rfl
@[simp] theorem State.setStake_links (s : State) (n : Nat) (k : Stake) : (s.setStake n k).links = s.links := rfl
@[simp] theorem State.setStake_sw (s : State) (n : Nat) (k : Stake) : (s.setStake n k).sw = s.sw := rfl
@[simp] theorem State.setStake_traf (s : State) (n : Nat) (k : Stake) : (s.setStake n k).traf = s.traf := rfl
@[simp] theorem State.setStake_roce (s : State) (n : Nat) (k : Stake) : (s.setStake n k).roce = s.roce := rfl
@[simp] theorem State.setStake_parcels (s : State) (n : Nat) (k : Stake) : (s.setStake n k).parcels = s.parcels := rfl
@[simp] theorem State.setStake_recov (s : State) (n : Nat) (k : Stake) : (s.setStake n k).recov = s.recov := rfl
@[simp] theorem State.setStake_sec (s : State) (n : Nat) (k : Stake) : (s.setStake n k).sec = s.sec := rfl
@[simp] theorem State.setStake_nonce (s : State) (n : Nat) (k : Stake) : (s.setStake n k).nonce = s.nonce := rfl
@[simp] theorem State.setStake_boot (s : State) (n : Nat) (k : Stake) : (s.setStake n k).boot = s.boot := rfl
@[simp] theorem State.setStake_mgmt (s : State) (n : Nat) (k : Stake) : (s.setStake n k).mgmt = s.mgmt := rfl
@[simp] theorem State.setStake_out (s : State) (n : Nat) (k : Stake) : (s.setStake n k).out = s.out := rfl

@[simp] theorem State.setPath_pending (s : State) (t : Nat) (x : Path) : (s.setPath t x).pending = s.pending := rfl
@[simp] theorem State.setPath_regs (s : State) (t : Nat) (x : Path) : (s.setPath t x).regs = s.regs := rfl
@[simp] theorem State.setPath_seqs (s : State) (t : Nat) (x : Path) : (s.setPath t x).seqs = s.seqs := rfl
@[simp] theorem State.setPath_free (s : State) (t : Nat) (x : Path) : (s.setPath t x).free = s.free := rfl
@[simp] theorem State.setPath_mem (s : State) (t : Nat) (x : Path) : (s.setPath t x).mem = s.mem := rfl
@[simp] theorem State.setPath_extents (s : State) (t : Nat) (x : Path) : (s.setPath t x).extents = s.extents := rfl
@[simp] theorem State.setPath_revoking (s : State) (t : Nat) (x : Path) : (s.setPath t x).revoking = s.revoking := rfl
@[simp] theorem State.setPath_cad (s : State) (t : Nat) (x : Path) : (s.setPath t x).cad = s.cad := rfl
@[simp] theorem State.setPath_stk (s : State) (t : Nat) (x : Path) : (s.setPath t x).stk = s.stk := rfl
@[simp] theorem State.setPath_tier (s : State) (t : Nat) (x : Path) : (s.setPath t x).tier = s.tier := rfl
@[simp] theorem State.setPath_tiles (s : State) (t : Nat) (x : Path) : (s.setPath t x).tiles = s.tiles := rfl
@[simp] theorem State.setPath_tlc (s : State) (t : Nat) (x : Path) : (s.setPath t x).tlc = s.tlc := rfl
@[simp] theorem State.setPath_tlcDown (s : State) (t : Nat) (x : Path) : (s.setPath t x).tlcDown = s.tlcDown := rfl
@[simp] theorem State.setPath_coll (s : State) (t : Nat) (x : Path) : (s.setPath t x).coll = s.coll := rfl
@[simp] theorem State.setPath_pnm (s : State) (t : Nat) (x : Path) : (s.setPath t x).pnm = s.pnm := rfl
@[simp] theorem State.setPath_trav (s : State) (t : Nat) (x : Path) : (s.setPath t x).trav = s.trav := rfl
@[simp] theorem State.setPath_xc (s : State) (t : Nat) (x : Path) : (s.setPath t x).xc = s.xc := rfl
@[simp] theorem State.setPath_links (s : State) (t : Nat) (x : Path) : (s.setPath t x).links = s.links := rfl
@[simp] theorem State.setPath_sw (s : State) (t : Nat) (x : Path) : (s.setPath t x).sw = s.sw := rfl
@[simp] theorem State.setPath_traf (s : State) (t : Nat) (x : Path) : (s.setPath t x).traf = s.traf := rfl
@[simp] theorem State.setPath_roce (s : State) (t : Nat) (x : Path) : (s.setPath t x).roce = s.roce := rfl
@[simp] theorem State.setPath_parcels (s : State) (t : Nat) (x : Path) : (s.setPath t x).parcels = s.parcels := rfl
@[simp] theorem State.setPath_recov (s : State) (t : Nat) (x : Path) : (s.setPath t x).recov = s.recov := rfl
@[simp] theorem State.setPath_sec (s : State) (t : Nat) (x : Path) : (s.setPath t x).sec = s.sec := rfl
@[simp] theorem State.setPath_nonce (s : State) (t : Nat) (x : Path) : (s.setPath t x).nonce = s.nonce := rfl
@[simp] theorem State.setPath_boot (s : State) (t : Nat) (x : Path) : (s.setPath t x).boot = s.boot := rfl
@[simp] theorem State.setPath_mgmt (s : State) (t : Nat) (x : Path) : (s.setPath t x).mgmt = s.mgmt := rfl
@[simp] theorem State.setPath_out (s : State) (t : Nat) (x : Path) : (s.setPath t x).out = s.out := rfl

@[simp] theorem State.setBuf_pending (s : State) (l : List Stored) : (s.setBuf l).pending = s.pending := rfl
@[simp] theorem State.setBuf_regs (s : State) (l : List Stored) : (s.setBuf l).regs = s.regs := rfl
@[simp] theorem State.setBuf_seqs (s : State) (l : List Stored) : (s.setBuf l).seqs = s.seqs := rfl
@[simp] theorem State.setBuf_free (s : State) (l : List Stored) : (s.setBuf l).free = s.free := rfl
@[simp] theorem State.setBuf_mem (s : State) (l : List Stored) : (s.setBuf l).mem = s.mem := rfl
@[simp] theorem State.setBuf_extents (s : State) (l : List Stored) : (s.setBuf l).extents = s.extents := rfl
@[simp] theorem State.setBuf_revoking (s : State) (l : List Stored) : (s.setBuf l).revoking = s.revoking := rfl
@[simp] theorem State.setBuf_cad (s : State) (l : List Stored) : (s.setBuf l).cad = s.cad := rfl
@[simp] theorem State.setBuf_stk (s : State) (l : List Stored) : (s.setBuf l).stk = s.stk := rfl
@[simp] theorem State.setBuf_paths (s : State) (l : List Stored) : (s.setBuf l).paths = s.paths := rfl
@[simp] theorem State.setBuf_tier (s : State) (l : List Stored) : (s.setBuf l).tier = s.tier := rfl
@[simp] theorem State.setBuf_tiles (s : State) (l : List Stored) : (s.setBuf l).tiles = s.tiles := rfl
@[simp] theorem State.setBuf_tlc (s : State) (l : List Stored) : (s.setBuf l).tlc = s.tlc := rfl
@[simp] theorem State.setBuf_tlcDown (s : State) (l : List Stored) : (s.setBuf l).tlcDown = s.tlcDown := rfl
@[simp] theorem State.setBuf_coll (s : State) (l : List Stored) : (s.setBuf l).coll = s.coll := rfl
@[simp] theorem State.setBuf_pnm (s : State) (l : List Stored) : (s.setBuf l).pnm = s.pnm := rfl
@[simp] theorem State.setBuf_trav (s : State) (l : List Stored) : (s.setBuf l).trav = s.trav := rfl
@[simp] theorem State.setBuf_xc (s : State) (l : List Stored) : (s.setBuf l).xc = s.xc := rfl
@[simp] theorem State.setBuf_links (s : State) (l : List Stored) : (s.setBuf l).links = s.links := rfl
@[simp] theorem State.setBuf_traf (s : State) (l : List Stored) : (s.setBuf l).traf = s.traf := rfl
@[simp] theorem State.setBuf_roce (s : State) (l : List Stored) : (s.setBuf l).roce = s.roce := rfl
@[simp] theorem State.setBuf_parcels (s : State) (l : List Stored) : (s.setBuf l).parcels = s.parcels := rfl
@[simp] theorem State.setBuf_recov (s : State) (l : List Stored) : (s.setBuf l).recov = s.recov := rfl
@[simp] theorem State.setBuf_sec (s : State) (l : List Stored) : (s.setBuf l).sec = s.sec := rfl
@[simp] theorem State.setBuf_nonce (s : State) (l : List Stored) : (s.setBuf l).nonce = s.nonce := rfl
@[simp] theorem State.setBuf_boot (s : State) (l : List Stored) : (s.setBuf l).boot = s.boot := rfl
@[simp] theorem State.setBuf_mgmt (s : State) (l : List Stored) : (s.setBuf l).mgmt = s.mgmt := rfl
@[simp] theorem State.setBuf_out (s : State) (l : List Stored) : (s.setBuf l).out = s.out := rfl

@[simp] theorem State.setTile_pending (s : State) (t : Nat) (x : Tile) : (s.setTile t x).pending = s.pending := rfl
@[simp] theorem State.setTile_regs (s : State) (t : Nat) (x : Tile) : (s.setTile t x).regs = s.regs := rfl
@[simp] theorem State.setTile_seqs (s : State) (t : Nat) (x : Tile) : (s.setTile t x).seqs = s.seqs := rfl
@[simp] theorem State.setTile_free (s : State) (t : Nat) (x : Tile) : (s.setTile t x).free = s.free := rfl
@[simp] theorem State.setTile_mem (s : State) (t : Nat) (x : Tile) : (s.setTile t x).mem = s.mem := rfl
@[simp] theorem State.setTile_extents (s : State) (t : Nat) (x : Tile) : (s.setTile t x).extents = s.extents := rfl
@[simp] theorem State.setTile_revoking (s : State) (t : Nat) (x : Tile) : (s.setTile t x).revoking = s.revoking := rfl
@[simp] theorem State.setTile_cad (s : State) (t : Nat) (x : Tile) : (s.setTile t x).cad = s.cad := rfl
@[simp] theorem State.setTile_stk (s : State) (t : Nat) (x : Tile) : (s.setTile t x).stk = s.stk := rfl
@[simp] theorem State.setTile_paths (s : State) (t : Nat) (x : Tile) : (s.setTile t x).paths = s.paths := rfl
@[simp] theorem State.setTile_tier (s : State) (t : Nat) (x : Tile) : (s.setTile t x).tier = s.tier := rfl
@[simp] theorem State.setTile_tlc (s : State) (t : Nat) (x : Tile) : (s.setTile t x).tlc = s.tlc := rfl
@[simp] theorem State.setTile_tlcDown (s : State) (t : Nat) (x : Tile) : (s.setTile t x).tlcDown = s.tlcDown := rfl
@[simp] theorem State.setTile_coll (s : State) (t : Nat) (x : Tile) : (s.setTile t x).coll = s.coll := rfl
@[simp] theorem State.setTile_pnm (s : State) (t : Nat) (x : Tile) : (s.setTile t x).pnm = s.pnm := rfl
@[simp] theorem State.setTile_trav (s : State) (t : Nat) (x : Tile) : (s.setTile t x).trav = s.trav := rfl
@[simp] theorem State.setTile_xc (s : State) (t : Nat) (x : Tile) : (s.setTile t x).xc = s.xc := rfl
@[simp] theorem State.setTile_links (s : State) (t : Nat) (x : Tile) : (s.setTile t x).links = s.links := rfl
@[simp] theorem State.setTile_sw (s : State) (t : Nat) (x : Tile) : (s.setTile t x).sw = s.sw := rfl
@[simp] theorem State.setTile_traf (s : State) (t : Nat) (x : Tile) : (s.setTile t x).traf = s.traf := rfl
@[simp] theorem State.setTile_roce (s : State) (t : Nat) (x : Tile) : (s.setTile t x).roce = s.roce := rfl
@[simp] theorem State.setTile_parcels (s : State) (t : Nat) (x : Tile) : (s.setTile t x).parcels = s.parcels := rfl
@[simp] theorem State.setTile_recov (s : State) (t : Nat) (x : Tile) : (s.setTile t x).recov = s.recov := rfl
@[simp] theorem State.setTile_sec (s : State) (t : Nat) (x : Tile) : (s.setTile t x).sec = s.sec := rfl
@[simp] theorem State.setTile_nonce (s : State) (t : Nat) (x : Tile) : (s.setTile t x).nonce = s.nonce := rfl
@[simp] theorem State.setTile_boot (s : State) (t : Nat) (x : Tile) : (s.setTile t x).boot = s.boot := rfl
@[simp] theorem State.setTile_mgmt (s : State) (t : Nat) (x : Tile) : (s.setTile t x).mgmt = s.mgmt := rfl
@[simp] theorem State.setTile_out (s : State) (t : Nat) (x : Tile) : (s.setTile t x).out = s.out := rfl

@[simp] theorem State.setPlans_pending (s : State) (l : List Plan) : (s.setPlans l).pending = s.pending := rfl
@[simp] theorem State.setPlans_regs (s : State) (l : List Plan) : (s.setPlans l).regs = s.regs := rfl
@[simp] theorem State.setPlans_seqs (s : State) (l : List Plan) : (s.setPlans l).seqs = s.seqs := rfl
@[simp] theorem State.setPlans_free (s : State) (l : List Plan) : (s.setPlans l).free = s.free := rfl
@[simp] theorem State.setPlans_mem (s : State) (l : List Plan) : (s.setPlans l).mem = s.mem := rfl
@[simp] theorem State.setPlans_extents (s : State) (l : List Plan) : (s.setPlans l).extents = s.extents := rfl
@[simp] theorem State.setPlans_revoking (s : State) (l : List Plan) : (s.setPlans l).revoking = s.revoking := rfl
@[simp] theorem State.setPlans_cad (s : State) (l : List Plan) : (s.setPlans l).cad = s.cad := rfl
@[simp] theorem State.setPlans_stk (s : State) (l : List Plan) : (s.setPlans l).stk = s.stk := rfl
@[simp] theorem State.setPlans_paths (s : State) (l : List Plan) : (s.setPlans l).paths = s.paths := rfl
@[simp] theorem State.setPlans_tier (s : State) (l : List Plan) : (s.setPlans l).tier = s.tier := rfl
@[simp] theorem State.setPlans_tiles (s : State) (l : List Plan) : (s.setPlans l).tiles = s.tiles := rfl
@[simp] theorem State.setPlans_tlc (s : State) (l : List Plan) : (s.setPlans l).tlc = s.tlc := rfl
@[simp] theorem State.setPlans_tlcDown (s : State) (l : List Plan) : (s.setPlans l).tlcDown = s.tlcDown := rfl
@[simp] theorem State.setPlans_pnm (s : State) (l : List Plan) : (s.setPlans l).pnm = s.pnm := rfl
@[simp] theorem State.setPlans_trav (s : State) (l : List Plan) : (s.setPlans l).trav = s.trav := rfl
@[simp] theorem State.setPlans_xc (s : State) (l : List Plan) : (s.setPlans l).xc = s.xc := rfl
@[simp] theorem State.setPlans_links (s : State) (l : List Plan) : (s.setPlans l).links = s.links := rfl
@[simp] theorem State.setPlans_sw (s : State) (l : List Plan) : (s.setPlans l).sw = s.sw := rfl
@[simp] theorem State.setPlans_traf (s : State) (l : List Plan) : (s.setPlans l).traf = s.traf := rfl
@[simp] theorem State.setPlans_roce (s : State) (l : List Plan) : (s.setPlans l).roce = s.roce := rfl
@[simp] theorem State.setPlans_parcels (s : State) (l : List Plan) : (s.setPlans l).parcels = s.parcels := rfl
@[simp] theorem State.setPlans_recov (s : State) (l : List Plan) : (s.setPlans l).recov = s.recov := rfl
@[simp] theorem State.setPlans_sec (s : State) (l : List Plan) : (s.setPlans l).sec = s.sec := rfl
@[simp] theorem State.setPlans_nonce (s : State) (l : List Plan) : (s.setPlans l).nonce = s.nonce := rfl
@[simp] theorem State.setPlans_boot (s : State) (l : List Plan) : (s.setPlans l).boot = s.boot := rfl
@[simp] theorem State.setPlans_mgmt (s : State) (l : List Plan) : (s.setPlans l).mgmt = s.mgmt := rfl
@[simp] theorem State.setPlans_out (s : State) (l : List Plan) : (s.setPlans l).out = s.out := rfl

@[simp] theorem State.setSlots_pending (s : State) (l : KMap RSlot) : (s.setSlots l).pending = s.pending := rfl
@[simp] theorem State.setSlots_regs (s : State) (l : KMap RSlot) : (s.setSlots l).regs = s.regs := rfl
@[simp] theorem State.setSlots_seqs (s : State) (l : KMap RSlot) : (s.setSlots l).seqs = s.seqs := rfl
@[simp] theorem State.setSlots_free (s : State) (l : KMap RSlot) : (s.setSlots l).free = s.free := rfl
@[simp] theorem State.setSlots_mem (s : State) (l : KMap RSlot) : (s.setSlots l).mem = s.mem := rfl
@[simp] theorem State.setSlots_extents (s : State) (l : KMap RSlot) : (s.setSlots l).extents = s.extents := rfl
@[simp] theorem State.setSlots_revoking (s : State) (l : KMap RSlot) : (s.setSlots l).revoking = s.revoking := rfl
@[simp] theorem State.setSlots_cad (s : State) (l : KMap RSlot) : (s.setSlots l).cad = s.cad := rfl
@[simp] theorem State.setSlots_stk (s : State) (l : KMap RSlot) : (s.setSlots l).stk = s.stk := rfl
@[simp] theorem State.setSlots_paths (s : State) (l : KMap RSlot) : (s.setSlots l).paths = s.paths := rfl
@[simp] theorem State.setSlots_tier (s : State) (l : KMap RSlot) : (s.setSlots l).tier = s.tier := rfl
@[simp] theorem State.setSlots_tiles (s : State) (l : KMap RSlot) : (s.setSlots l).tiles = s.tiles := rfl
@[simp] theorem State.setSlots_tlc (s : State) (l : KMap RSlot) : (s.setSlots l).tlc = s.tlc := rfl
@[simp] theorem State.setSlots_tlcDown (s : State) (l : KMap RSlot) : (s.setSlots l).tlcDown = s.tlcDown := rfl
@[simp] theorem State.setSlots_pnm (s : State) (l : KMap RSlot) : (s.setSlots l).pnm = s.pnm := rfl
@[simp] theorem State.setSlots_trav (s : State) (l : KMap RSlot) : (s.setSlots l).trav = s.trav := rfl
@[simp] theorem State.setSlots_xc (s : State) (l : KMap RSlot) : (s.setSlots l).xc = s.xc := rfl
@[simp] theorem State.setSlots_links (s : State) (l : KMap RSlot) : (s.setSlots l).links = s.links := rfl
@[simp] theorem State.setSlots_sw (s : State) (l : KMap RSlot) : (s.setSlots l).sw = s.sw := rfl
@[simp] theorem State.setSlots_traf (s : State) (l : KMap RSlot) : (s.setSlots l).traf = s.traf := rfl
@[simp] theorem State.setSlots_roce (s : State) (l : KMap RSlot) : (s.setSlots l).roce = s.roce := rfl
@[simp] theorem State.setSlots_parcels (s : State) (l : KMap RSlot) : (s.setSlots l).parcels = s.parcels := rfl
@[simp] theorem State.setSlots_recov (s : State) (l : KMap RSlot) : (s.setSlots l).recov = s.recov := rfl
@[simp] theorem State.setSlots_sec (s : State) (l : KMap RSlot) : (s.setSlots l).sec = s.sec := rfl
@[simp] theorem State.setSlots_nonce (s : State) (l : KMap RSlot) : (s.setSlots l).nonce = s.nonce := rfl
@[simp] theorem State.setSlots_boot (s : State) (l : KMap RSlot) : (s.setSlots l).boot = s.boot := rfl
@[simp] theorem State.setSlots_mgmt (s : State) (l : KMap RSlot) : (s.setSlots l).mgmt = s.mgmt := rfl
@[simp] theorem State.setSlots_out (s : State) (l : KMap RSlot) : (s.setSlots l).out = s.out := rfl

@[simp] theorem State.setWaits_pending (s : State) (l : List Packet) : (s.setWaits l).pending = s.pending := rfl
@[simp] theorem State.setWaits_regs (s : State) (l : List Packet) : (s.setWaits l).regs = s.regs := rfl
@[simp] theorem State.setWaits_seqs (s : State) (l : List Packet) : (s.setWaits l).seqs = s.seqs := rfl
@[simp] theorem State.setWaits_free (s : State) (l : List Packet) : (s.setWaits l).free = s.free := rfl
@[simp] theorem State.setWaits_mem (s : State) (l : List Packet) : (s.setWaits l).mem = s.mem := rfl
@[simp] theorem State.setWaits_extents (s : State) (l : List Packet) : (s.setWaits l).extents = s.extents := rfl
@[simp] theorem State.setWaits_revoking (s : State) (l : List Packet) : (s.setWaits l).revoking = s.revoking := rfl
@[simp] theorem State.setWaits_cad (s : State) (l : List Packet) : (s.setWaits l).cad = s.cad := rfl
@[simp] theorem State.setWaits_stk (s : State) (l : List Packet) : (s.setWaits l).stk = s.stk := rfl
@[simp] theorem State.setWaits_paths (s : State) (l : List Packet) : (s.setWaits l).paths = s.paths := rfl
@[simp] theorem State.setWaits_tier (s : State) (l : List Packet) : (s.setWaits l).tier = s.tier := rfl
@[simp] theorem State.setWaits_tiles (s : State) (l : List Packet) : (s.setWaits l).tiles = s.tiles := rfl
@[simp] theorem State.setWaits_tlc (s : State) (l : List Packet) : (s.setWaits l).tlc = s.tlc := rfl
@[simp] theorem State.setWaits_tlcDown (s : State) (l : List Packet) : (s.setWaits l).tlcDown = s.tlcDown := rfl
@[simp] theorem State.setWaits_pnm (s : State) (l : List Packet) : (s.setWaits l).pnm = s.pnm := rfl
@[simp] theorem State.setWaits_trav (s : State) (l : List Packet) : (s.setWaits l).trav = s.trav := rfl
@[simp] theorem State.setWaits_xc (s : State) (l : List Packet) : (s.setWaits l).xc = s.xc := rfl
@[simp] theorem State.setWaits_links (s : State) (l : List Packet) : (s.setWaits l).links = s.links := rfl
@[simp] theorem State.setWaits_sw (s : State) (l : List Packet) : (s.setWaits l).sw = s.sw := rfl
@[simp] theorem State.setWaits_traf (s : State) (l : List Packet) : (s.setWaits l).traf = s.traf := rfl
@[simp] theorem State.setWaits_roce (s : State) (l : List Packet) : (s.setWaits l).roce = s.roce := rfl
@[simp] theorem State.setWaits_parcels (s : State) (l : List Packet) : (s.setWaits l).parcels = s.parcels := rfl
@[simp] theorem State.setWaits_recov (s : State) (l : List Packet) : (s.setWaits l).recov = s.recov := rfl
@[simp] theorem State.setWaits_sec (s : State) (l : List Packet) : (s.setWaits l).sec = s.sec := rfl
@[simp] theorem State.setWaits_nonce (s : State) (l : List Packet) : (s.setWaits l).nonce = s.nonce := rfl
@[simp] theorem State.setWaits_boot (s : State) (l : List Packet) : (s.setWaits l).boot = s.boot := rfl
@[simp] theorem State.setWaits_mgmt (s : State) (l : List Packet) : (s.setWaits l).mgmt = s.mgmt := rfl
@[simp] theorem State.setWaits_out (s : State) (l : List Packet) : (s.setWaits l).out = s.out := rfl

@[simp] theorem State.setPlanCmds_pending (s : State) (l : List PlanCmd) : (s.setPlanCmds l).pending = s.pending := rfl
@[simp] theorem State.setPlanCmds_regs (s : State) (l : List PlanCmd) : (s.setPlanCmds l).regs = s.regs := rfl
@[simp] theorem State.setPlanCmds_seqs (s : State) (l : List PlanCmd) : (s.setPlanCmds l).seqs = s.seqs := rfl
@[simp] theorem State.setPlanCmds_free (s : State) (l : List PlanCmd) : (s.setPlanCmds l).free = s.free := rfl
@[simp] theorem State.setPlanCmds_mem (s : State) (l : List PlanCmd) : (s.setPlanCmds l).mem = s.mem := rfl
@[simp] theorem State.setPlanCmds_extents (s : State) (l : List PlanCmd) : (s.setPlanCmds l).extents = s.extents := rfl
@[simp] theorem State.setPlanCmds_revoking (s : State) (l : List PlanCmd) : (s.setPlanCmds l).revoking = s.revoking := rfl
@[simp] theorem State.setPlanCmds_cad (s : State) (l : List PlanCmd) : (s.setPlanCmds l).cad = s.cad := rfl
@[simp] theorem State.setPlanCmds_stk (s : State) (l : List PlanCmd) : (s.setPlanCmds l).stk = s.stk := rfl
@[simp] theorem State.setPlanCmds_paths (s : State) (l : List PlanCmd) : (s.setPlanCmds l).paths = s.paths := rfl
@[simp] theorem State.setPlanCmds_tier (s : State) (l : List PlanCmd) : (s.setPlanCmds l).tier = s.tier := rfl
@[simp] theorem State.setPlanCmds_tiles (s : State) (l : List PlanCmd) : (s.setPlanCmds l).tiles = s.tiles := rfl
@[simp] theorem State.setPlanCmds_tlc (s : State) (l : List PlanCmd) : (s.setPlanCmds l).tlc = s.tlc := rfl
@[simp] theorem State.setPlanCmds_tlcDown (s : State) (l : List PlanCmd) : (s.setPlanCmds l).tlcDown = s.tlcDown := rfl
@[simp] theorem State.setPlanCmds_pnm (s : State) (l : List PlanCmd) : (s.setPlanCmds l).pnm = s.pnm := rfl
@[simp] theorem State.setPlanCmds_trav (s : State) (l : List PlanCmd) : (s.setPlanCmds l).trav = s.trav := rfl
@[simp] theorem State.setPlanCmds_xc (s : State) (l : List PlanCmd) : (s.setPlanCmds l).xc = s.xc := rfl
@[simp] theorem State.setPlanCmds_links (s : State) (l : List PlanCmd) : (s.setPlanCmds l).links = s.links := rfl
@[simp] theorem State.setPlanCmds_sw (s : State) (l : List PlanCmd) : (s.setPlanCmds l).sw = s.sw := rfl
@[simp] theorem State.setPlanCmds_traf (s : State) (l : List PlanCmd) : (s.setPlanCmds l).traf = s.traf := rfl
@[simp] theorem State.setPlanCmds_roce (s : State) (l : List PlanCmd) : (s.setPlanCmds l).roce = s.roce := rfl
@[simp] theorem State.setPlanCmds_parcels (s : State) (l : List PlanCmd) : (s.setPlanCmds l).parcels = s.parcels := rfl
@[simp] theorem State.setPlanCmds_recov (s : State) (l : List PlanCmd) : (s.setPlanCmds l).recov = s.recov := rfl
@[simp] theorem State.setPlanCmds_sec (s : State) (l : List PlanCmd) : (s.setPlanCmds l).sec = s.sec := rfl
@[simp] theorem State.setPlanCmds_nonce (s : State) (l : List PlanCmd) : (s.setPlanCmds l).nonce = s.nonce := rfl
@[simp] theorem State.setPlanCmds_boot (s : State) (l : List PlanCmd) : (s.setPlanCmds l).boot = s.boot := rfl
@[simp] theorem State.setPlanCmds_mgmt (s : State) (l : List PlanCmd) : (s.setPlanCmds l).mgmt = s.mgmt := rfl
@[simp] theorem State.setPlanCmds_out (s : State) (l : List PlanCmd) : (s.setPlanCmds l).out = s.out := rfl

@[simp] theorem State.setTravs_pending (s : State) (l : KMap Trav) : (s.setTravs l).pending = s.pending := rfl
@[simp] theorem State.setTravs_regs (s : State) (l : KMap Trav) : (s.setTravs l).regs = s.regs := rfl
@[simp] theorem State.setTravs_seqs (s : State) (l : KMap Trav) : (s.setTravs l).seqs = s.seqs := rfl
@[simp] theorem State.setTravs_free (s : State) (l : KMap Trav) : (s.setTravs l).free = s.free := rfl
@[simp] theorem State.setTravs_mem (s : State) (l : KMap Trav) : (s.setTravs l).mem = s.mem := rfl
@[simp] theorem State.setTravs_extents (s : State) (l : KMap Trav) : (s.setTravs l).extents = s.extents := rfl
@[simp] theorem State.setTravs_revoking (s : State) (l : KMap Trav) : (s.setTravs l).revoking = s.revoking := rfl
@[simp] theorem State.setTravs_cad (s : State) (l : KMap Trav) : (s.setTravs l).cad = s.cad := rfl
@[simp] theorem State.setTravs_stk (s : State) (l : KMap Trav) : (s.setTravs l).stk = s.stk := rfl
@[simp] theorem State.setTravs_paths (s : State) (l : KMap Trav) : (s.setTravs l).paths = s.paths := rfl
@[simp] theorem State.setTravs_tier (s : State) (l : KMap Trav) : (s.setTravs l).tier = s.tier := rfl
@[simp] theorem State.setTravs_tiles (s : State) (l : KMap Trav) : (s.setTravs l).tiles = s.tiles := rfl
@[simp] theorem State.setTravs_tlc (s : State) (l : KMap Trav) : (s.setTravs l).tlc = s.tlc := rfl
@[simp] theorem State.setTravs_tlcDown (s : State) (l : KMap Trav) : (s.setTravs l).tlcDown = s.tlcDown := rfl
@[simp] theorem State.setTravs_coll (s : State) (l : KMap Trav) : (s.setTravs l).coll = s.coll := rfl
@[simp] theorem State.setTravs_pnm (s : State) (l : KMap Trav) : (s.setTravs l).pnm = s.pnm := rfl
@[simp] theorem State.setTravs_xc (s : State) (l : KMap Trav) : (s.setTravs l).xc = s.xc := rfl
@[simp] theorem State.setTravs_links (s : State) (l : KMap Trav) : (s.setTravs l).links = s.links := rfl
@[simp] theorem State.setTravs_sw (s : State) (l : KMap Trav) : (s.setTravs l).sw = s.sw := rfl
@[simp] theorem State.setTravs_traf (s : State) (l : KMap Trav) : (s.setTravs l).traf = s.traf := rfl
@[simp] theorem State.setTravs_roce (s : State) (l : KMap Trav) : (s.setTravs l).roce = s.roce := rfl
@[simp] theorem State.setTravs_parcels (s : State) (l : KMap Trav) : (s.setTravs l).parcels = s.parcels := rfl
@[simp] theorem State.setTravs_recov (s : State) (l : KMap Trav) : (s.setTravs l).recov = s.recov := rfl
@[simp] theorem State.setTravs_sec (s : State) (l : KMap Trav) : (s.setTravs l).sec = s.sec := rfl
@[simp] theorem State.setTravs_nonce (s : State) (l : KMap Trav) : (s.setTravs l).nonce = s.nonce := rfl
@[simp] theorem State.setTravs_boot (s : State) (l : KMap Trav) : (s.setTravs l).boot = s.boot := rfl
@[simp] theorem State.setTravs_mgmt (s : State) (l : KMap Trav) : (s.setTravs l).mgmt = s.mgmt := rfl
@[simp] theorem State.setTravs_out (s : State) (l : KMap Trav) : (s.setTravs l).out = s.out := rfl

@[simp] theorem State.setPnmQ_pending (s : State) (m : Nat) (q : PnmQueue) : (s.setPnmQ m q).pending = s.pending := rfl
@[simp] theorem State.setPnmQ_regs (s : State) (m : Nat) (q : PnmQueue) : (s.setPnmQ m q).regs = s.regs := rfl
@[simp] theorem State.setPnmQ_seqs (s : State) (m : Nat) (q : PnmQueue) : (s.setPnmQ m q).seqs = s.seqs := rfl
@[simp] theorem State.setPnmQ_free (s : State) (m : Nat) (q : PnmQueue) : (s.setPnmQ m q).free = s.free := rfl
@[simp] theorem State.setPnmQ_mem (s : State) (m : Nat) (q : PnmQueue) : (s.setPnmQ m q).mem = s.mem := rfl
@[simp] theorem State.setPnmQ_extents (s : State) (m : Nat) (q : PnmQueue) : (s.setPnmQ m q).extents = s.extents := rfl
@[simp] theorem State.setPnmQ_revoking (s : State) (m : Nat) (q : PnmQueue) : (s.setPnmQ m q).revoking = s.revoking := rfl
@[simp] theorem State.setPnmQ_cad (s : State) (m : Nat) (q : PnmQueue) : (s.setPnmQ m q).cad = s.cad := rfl
@[simp] theorem State.setPnmQ_stk (s : State) (m : Nat) (q : PnmQueue) : (s.setPnmQ m q).stk = s.stk := rfl
@[simp] theorem State.setPnmQ_paths (s : State) (m : Nat) (q : PnmQueue) : (s.setPnmQ m q).paths = s.paths := rfl
@[simp] theorem State.setPnmQ_tier (s : State) (m : Nat) (q : PnmQueue) : (s.setPnmQ m q).tier = s.tier := rfl
@[simp] theorem State.setPnmQ_tiles (s : State) (m : Nat) (q : PnmQueue) : (s.setPnmQ m q).tiles = s.tiles := rfl
@[simp] theorem State.setPnmQ_tlc (s : State) (m : Nat) (q : PnmQueue) : (s.setPnmQ m q).tlc = s.tlc := rfl
@[simp] theorem State.setPnmQ_tlcDown (s : State) (m : Nat) (q : PnmQueue) : (s.setPnmQ m q).tlcDown = s.tlcDown := rfl
@[simp] theorem State.setPnmQ_coll (s : State) (m : Nat) (q : PnmQueue) : (s.setPnmQ m q).coll = s.coll := rfl
@[simp] theorem State.setPnmQ_trav (s : State) (m : Nat) (q : PnmQueue) : (s.setPnmQ m q).trav = s.trav := rfl
@[simp] theorem State.setPnmQ_xc (s : State) (m : Nat) (q : PnmQueue) : (s.setPnmQ m q).xc = s.xc := rfl
@[simp] theorem State.setPnmQ_links (s : State) (m : Nat) (q : PnmQueue) : (s.setPnmQ m q).links = s.links := rfl
@[simp] theorem State.setPnmQ_sw (s : State) (m : Nat) (q : PnmQueue) : (s.setPnmQ m q).sw = s.sw := rfl
@[simp] theorem State.setPnmQ_traf (s : State) (m : Nat) (q : PnmQueue) : (s.setPnmQ m q).traf = s.traf := rfl
@[simp] theorem State.setPnmQ_roce (s : State) (m : Nat) (q : PnmQueue) : (s.setPnmQ m q).roce = s.roce := rfl
@[simp] theorem State.setPnmQ_parcels (s : State) (m : Nat) (q : PnmQueue) : (s.setPnmQ m q).parcels = s.parcels := rfl
@[simp] theorem State.setPnmQ_recov (s : State) (m : Nat) (q : PnmQueue) : (s.setPnmQ m q).recov = s.recov := rfl
@[simp] theorem State.setPnmQ_sec (s : State) (m : Nat) (q : PnmQueue) : (s.setPnmQ m q).sec = s.sec := rfl
@[simp] theorem State.setPnmQ_nonce (s : State) (m : Nat) (q : PnmQueue) : (s.setPnmQ m q).nonce = s.nonce := rfl
@[simp] theorem State.setPnmQ_boot (s : State) (m : Nat) (q : PnmQueue) : (s.setPnmQ m q).boot = s.boot := rfl
@[simp] theorem State.setPnmQ_mgmt (s : State) (m : Nat) (q : PnmQueue) : (s.setPnmQ m q).mgmt = s.mgmt := rfl
@[simp] theorem State.setPnmQ_out (s : State) (m : Nat) (q : PnmQueue) : (s.setPnmQ m q).out = s.out := rfl

@[simp] theorem State.setPcl_pending (s : State) (n : Nat) (x : Parcel) : (s.setPcl n x).pending = s.pending := rfl
@[simp] theorem State.setPcl_regs (s : State) (n : Nat) (x : Parcel) : (s.setPcl n x).regs = s.regs := rfl
@[simp] theorem State.setPcl_seqs (s : State) (n : Nat) (x : Parcel) : (s.setPcl n x).seqs = s.seqs := rfl
@[simp] theorem State.setPcl_free (s : State) (n : Nat) (x : Parcel) : (s.setPcl n x).free = s.free := rfl
@[simp] theorem State.setPcl_mem (s : State) (n : Nat) (x : Parcel) : (s.setPcl n x).mem = s.mem := rfl
@[simp] theorem State.setPcl_extents (s : State) (n : Nat) (x : Parcel) : (s.setPcl n x).extents = s.extents := rfl
@[simp] theorem State.setPcl_revoking (s : State) (n : Nat) (x : Parcel) : (s.setPcl n x).revoking = s.revoking := rfl
@[simp] theorem State.setPcl_cad (s : State) (n : Nat) (x : Parcel) : (s.setPcl n x).cad = s.cad := rfl
@[simp] theorem State.setPcl_stk (s : State) (n : Nat) (x : Parcel) : (s.setPcl n x).stk = s.stk := rfl
@[simp] theorem State.setPcl_paths (s : State) (n : Nat) (x : Parcel) : (s.setPcl n x).paths = s.paths := rfl
@[simp] theorem State.setPcl_tier (s : State) (n : Nat) (x : Parcel) : (s.setPcl n x).tier = s.tier := rfl
@[simp] theorem State.setPcl_tiles (s : State) (n : Nat) (x : Parcel) : (s.setPcl n x).tiles = s.tiles := rfl
@[simp] theorem State.setPcl_tlc (s : State) (n : Nat) (x : Parcel) : (s.setPcl n x).tlc = s.tlc := rfl
@[simp] theorem State.setPcl_tlcDown (s : State) (n : Nat) (x : Parcel) : (s.setPcl n x).tlcDown = s.tlcDown := rfl
@[simp] theorem State.setPcl_coll (s : State) (n : Nat) (x : Parcel) : (s.setPcl n x).coll = s.coll := rfl
@[simp] theorem State.setPcl_pnm (s : State) (n : Nat) (x : Parcel) : (s.setPcl n x).pnm = s.pnm := rfl
@[simp] theorem State.setPcl_trav (s : State) (n : Nat) (x : Parcel) : (s.setPcl n x).trav = s.trav := rfl
@[simp] theorem State.setPcl_xc (s : State) (n : Nat) (x : Parcel) : (s.setPcl n x).xc = s.xc := rfl
@[simp] theorem State.setPcl_links (s : State) (n : Nat) (x : Parcel) : (s.setPcl n x).links = s.links := rfl
@[simp] theorem State.setPcl_sw (s : State) (n : Nat) (x : Parcel) : (s.setPcl n x).sw = s.sw := rfl
@[simp] theorem State.setPcl_traf (s : State) (n : Nat) (x : Parcel) : (s.setPcl n x).traf = s.traf := rfl
@[simp] theorem State.setPcl_roce (s : State) (n : Nat) (x : Parcel) : (s.setPcl n x).roce = s.roce := rfl
@[simp] theorem State.setPcl_recov (s : State) (n : Nat) (x : Parcel) : (s.setPcl n x).recov = s.recov := rfl
@[simp] theorem State.setPcl_sec (s : State) (n : Nat) (x : Parcel) : (s.setPcl n x).sec = s.sec := rfl
@[simp] theorem State.setPcl_nonce (s : State) (n : Nat) (x : Parcel) : (s.setPcl n x).nonce = s.nonce := rfl
@[simp] theorem State.setPcl_boot (s : State) (n : Nat) (x : Parcel) : (s.setPcl n x).boot = s.boot := rfl
@[simp] theorem State.setPcl_mgmt (s : State) (n : Nat) (x : Parcel) : (s.setPcl n x).mgmt = s.mgmt := rfl
@[simp] theorem State.setPcl_out (s : State) (n : Nat) (x : Parcel) : (s.setPcl n x).out = s.out := rfl

@[simp] theorem State.setQp_pending (s : State) (n : Nat) (q : Qp) : (s.setQp n q).pending = s.pending := rfl
@[simp] theorem State.setQp_regs (s : State) (n : Nat) (q : Qp) : (s.setQp n q).regs = s.regs := rfl
@[simp] theorem State.setQp_seqs (s : State) (n : Nat) (q : Qp) : (s.setQp n q).seqs = s.seqs := rfl
@[simp] theorem State.setQp_free (s : State) (n : Nat) (q : Qp) : (s.setQp n q).free = s.free := rfl
@[simp] theorem State.setQp_mem (s : State) (n : Nat) (q : Qp) : (s.setQp n q).mem = s.mem := rfl
@[simp] theorem State.setQp_extents (s : State) (n : Nat) (q : Qp) : (s.setQp n q).extents = s.extents := rfl
@[simp] theorem State.setQp_revoking (s : State) (n : Nat) (q : Qp) : (s.setQp n q).revoking = s.revoking := rfl
@[simp] theorem State.setQp_cad (s : State) (n : Nat) (q : Qp) : (s.setQp n q).cad = s.cad := rfl
@[simp] theorem State.setQp_stk (s : State) (n : Nat) (q : Qp) : (s.setQp n q).stk = s.stk := rfl
@[simp] theorem State.setQp_paths (s : State) (n : Nat) (q : Qp) : (s.setQp n q).paths = s.paths := rfl
@[simp] theorem State.setQp_tier (s : State) (n : Nat) (q : Qp) : (s.setQp n q).tier = s.tier := rfl
@[simp] theorem State.setQp_tiles (s : State) (n : Nat) (q : Qp) : (s.setQp n q).tiles = s.tiles := rfl
@[simp] theorem State.setQp_tlc (s : State) (n : Nat) (q : Qp) : (s.setQp n q).tlc = s.tlc := rfl
@[simp] theorem State.setQp_tlcDown (s : State) (n : Nat) (q : Qp) : (s.setQp n q).tlcDown = s.tlcDown := rfl
@[simp] theorem State.setQp_coll (s : State) (n : Nat) (q : Qp) : (s.setQp n q).coll = s.coll := rfl
@[simp] theorem State.setQp_pnm (s : State) (n : Nat) (q : Qp) : (s.setQp n q).pnm = s.pnm := rfl
@[simp] theorem State.setQp_trav (s : State) (n : Nat) (q : Qp) : (s.setQp n q).trav = s.trav := rfl
@[simp] theorem State.setQp_xc (s : State) (n : Nat) (q : Qp) : (s.setQp n q).xc = s.xc := rfl
@[simp] theorem State.setQp_links (s : State) (n : Nat) (q : Qp) : (s.setQp n q).links = s.links := rfl
@[simp] theorem State.setQp_sw (s : State) (n : Nat) (q : Qp) : (s.setQp n q).sw = s.sw := rfl
@[simp] theorem State.setQp_traf (s : State) (n : Nat) (q : Qp) : (s.setQp n q).traf = s.traf := rfl
@[simp] theorem State.setQp_parcels (s : State) (n : Nat) (q : Qp) : (s.setQp n q).parcels = s.parcels := rfl
@[simp] theorem State.setQp_recov (s : State) (n : Nat) (q : Qp) : (s.setQp n q).recov = s.recov := rfl
@[simp] theorem State.setQp_sec (s : State) (n : Nat) (q : Qp) : (s.setQp n q).sec = s.sec := rfl
@[simp] theorem State.setQp_nonce (s : State) (n : Nat) (q : Qp) : (s.setQp n q).nonce = s.nonce := rfl
@[simp] theorem State.setQp_boot (s : State) (n : Nat) (q : Qp) : (s.setQp n q).boot = s.boot := rfl
@[simp] theorem State.setQp_mgmt (s : State) (n : Nat) (q : Qp) : (s.setQp n q).mgmt = s.mgmt := rfl
@[simp] theorem State.setQp_out (s : State) (n : Nat) (q : Qp) : (s.setQp n q).out = s.out := rfl

@[simp] theorem State.setEth_pending (s : State) (p : Nat) (e : EthPort) : (s.setEth p e).pending = s.pending := rfl
@[simp] theorem State.setEth_regs (s : State) (p : Nat) (e : EthPort) : (s.setEth p e).regs = s.regs := rfl
@[simp] theorem State.setEth_seqs (s : State) (p : Nat) (e : EthPort) : (s.setEth p e).seqs = s.seqs := rfl
@[simp] theorem State.setEth_free (s : State) (p : Nat) (e : EthPort) : (s.setEth p e).free = s.free := rfl
@[simp] theorem State.setEth_mem (s : State) (p : Nat) (e : EthPort) : (s.setEth p e).mem = s.mem := rfl
@[simp] theorem State.setEth_extents (s : State) (p : Nat) (e : EthPort) : (s.setEth p e).extents = s.extents := rfl
@[simp] theorem State.setEth_revoking (s : State) (p : Nat) (e : EthPort) : (s.setEth p e).revoking = s.revoking := rfl
@[simp] theorem State.setEth_cad (s : State) (p : Nat) (e : EthPort) : (s.setEth p e).cad = s.cad := rfl
@[simp] theorem State.setEth_stk (s : State) (p : Nat) (e : EthPort) : (s.setEth p e).stk = s.stk := rfl
@[simp] theorem State.setEth_paths (s : State) (p : Nat) (e : EthPort) : (s.setEth p e).paths = s.paths := rfl
@[simp] theorem State.setEth_tier (s : State) (p : Nat) (e : EthPort) : (s.setEth p e).tier = s.tier := rfl
@[simp] theorem State.setEth_tiles (s : State) (p : Nat) (e : EthPort) : (s.setEth p e).tiles = s.tiles := rfl
@[simp] theorem State.setEth_tlc (s : State) (p : Nat) (e : EthPort) : (s.setEth p e).tlc = s.tlc := rfl
@[simp] theorem State.setEth_tlcDown (s : State) (p : Nat) (e : EthPort) : (s.setEth p e).tlcDown = s.tlcDown := rfl
@[simp] theorem State.setEth_coll (s : State) (p : Nat) (e : EthPort) : (s.setEth p e).coll = s.coll := rfl
@[simp] theorem State.setEth_pnm (s : State) (p : Nat) (e : EthPort) : (s.setEth p e).pnm = s.pnm := rfl
@[simp] theorem State.setEth_trav (s : State) (p : Nat) (e : EthPort) : (s.setEth p e).trav = s.trav := rfl
@[simp] theorem State.setEth_xc (s : State) (p : Nat) (e : EthPort) : (s.setEth p e).xc = s.xc := rfl
@[simp] theorem State.setEth_links (s : State) (p : Nat) (e : EthPort) : (s.setEth p e).links = s.links := rfl
@[simp] theorem State.setEth_sw (s : State) (p : Nat) (e : EthPort) : (s.setEth p e).sw = s.sw := rfl
@[simp] theorem State.setEth_traf (s : State) (p : Nat) (e : EthPort) : (s.setEth p e).traf = s.traf := rfl
@[simp] theorem State.setEth_parcels (s : State) (p : Nat) (e : EthPort) : (s.setEth p e).parcels = s.parcels := rfl
@[simp] theorem State.setEth_recov (s : State) (p : Nat) (e : EthPort) : (s.setEth p e).recov = s.recov := rfl
@[simp] theorem State.setEth_sec (s : State) (p : Nat) (e : EthPort) : (s.setEth p e).sec = s.sec := rfl
@[simp] theorem State.setEth_nonce (s : State) (p : Nat) (e : EthPort) : (s.setEth p e).nonce = s.nonce := rfl
@[simp] theorem State.setEth_boot (s : State) (p : Nat) (e : EthPort) : (s.setEth p e).boot = s.boot := rfl
@[simp] theorem State.setEth_mgmt (s : State) (p : Nat) (e : EthPort) : (s.setEth p e).mgmt = s.mgmt := rfl
@[simp] theorem State.setEth_out (s : State) (p : Nat) (e : EthPort) : (s.setEth p e).out = s.out := rfl

@[simp] theorem State.setMr_pending (s : State) (k : Nat) (m : Mr) : (s.setMr k m).pending = s.pending := rfl
@[simp] theorem State.setMr_regs (s : State) (k : Nat) (m : Mr) : (s.setMr k m).regs = s.regs := rfl
@[simp] theorem State.setMr_seqs (s : State) (k : Nat) (m : Mr) : (s.setMr k m).seqs = s.seqs := rfl
@[simp] theorem State.setMr_free (s : State) (k : Nat) (m : Mr) : (s.setMr k m).free = s.free := rfl
@[simp] theorem State.setMr_mem (s : State) (k : Nat) (m : Mr) : (s.setMr k m).mem = s.mem := rfl
@[simp] theorem State.setMr_extents (s : State) (k : Nat) (m : Mr) : (s.setMr k m).extents = s.extents := rfl
@[simp] theorem State.setMr_revoking (s : State) (k : Nat) (m : Mr) : (s.setMr k m).revoking = s.revoking := rfl
@[simp] theorem State.setMr_cad (s : State) (k : Nat) (m : Mr) : (s.setMr k m).cad = s.cad := rfl
@[simp] theorem State.setMr_stk (s : State) (k : Nat) (m : Mr) : (s.setMr k m).stk = s.stk := rfl
@[simp] theorem State.setMr_paths (s : State) (k : Nat) (m : Mr) : (s.setMr k m).paths = s.paths := rfl
@[simp] theorem State.setMr_tier (s : State) (k : Nat) (m : Mr) : (s.setMr k m).tier = s.tier := rfl
@[simp] theorem State.setMr_tiles (s : State) (k : Nat) (m : Mr) : (s.setMr k m).tiles = s.tiles := rfl
@[simp] theorem State.setMr_tlc (s : State) (k : Nat) (m : Mr) : (s.setMr k m).tlc = s.tlc := rfl
@[simp] theorem State.setMr_tlcDown (s : State) (k : Nat) (m : Mr) : (s.setMr k m).tlcDown = s.tlcDown := rfl
@[simp] theorem State.setMr_coll (s : State) (k : Nat) (m : Mr) : (s.setMr k m).coll = s.coll := rfl
@[simp] theorem State.setMr_pnm (s : State) (k : Nat) (m : Mr) : (s.setMr k m).pnm = s.pnm := rfl
@[simp] theorem State.setMr_trav (s : State) (k : Nat) (m : Mr) : (s.setMr k m).trav = s.trav := rfl
@[simp] theorem State.setMr_xc (s : State) (k : Nat) (m : Mr) : (s.setMr k m).xc = s.xc := rfl
@[simp] theorem State.setMr_links (s : State) (k : Nat) (m : Mr) : (s.setMr k m).links = s.links := rfl
@[simp] theorem State.setMr_sw (s : State) (k : Nat) (m : Mr) : (s.setMr k m).sw = s.sw := rfl
@[simp] theorem State.setMr_traf (s : State) (k : Nat) (m : Mr) : (s.setMr k m).traf = s.traf := rfl
@[simp] theorem State.setMr_parcels (s : State) (k : Nat) (m : Mr) : (s.setMr k m).parcels = s.parcels := rfl
@[simp] theorem State.setMr_recov (s : State) (k : Nat) (m : Mr) : (s.setMr k m).recov = s.recov := rfl
@[simp] theorem State.setMr_sec (s : State) (k : Nat) (m : Mr) : (s.setMr k m).sec = s.sec := rfl
@[simp] theorem State.setMr_nonce (s : State) (k : Nat) (m : Mr) : (s.setMr k m).nonce = s.nonce := rfl
@[simp] theorem State.setMr_boot (s : State) (k : Nat) (m : Mr) : (s.setMr k m).boot = s.boot := rfl
@[simp] theorem State.setMr_mgmt (s : State) (k : Nat) (m : Mr) : (s.setMr k m).mgmt = s.mgmt := rfl
@[simp] theorem State.setMr_out (s : State) (k : Nat) (m : Mr) : (s.setMr k m).out = s.out := rfl

@[simp] theorem State.setRing_pending (s : State) (r : Nat) (x : Ring) : (s.setRing r x).pending = s.pending := rfl
@[simp] theorem State.setRing_regs (s : State) (r : Nat) (x : Ring) : (s.setRing r x).regs = s.regs := rfl
@[simp] theorem State.setRing_seqs (s : State) (r : Nat) (x : Ring) : (s.setRing r x).seqs = s.seqs := rfl
@[simp] theorem State.setRing_free (s : State) (r : Nat) (x : Ring) : (s.setRing r x).free = s.free := rfl
@[simp] theorem State.setRing_mem (s : State) (r : Nat) (x : Ring) : (s.setRing r x).mem = s.mem := rfl
@[simp] theorem State.setRing_extents (s : State) (r : Nat) (x : Ring) : (s.setRing r x).extents = s.extents := rfl
@[simp] theorem State.setRing_revoking (s : State) (r : Nat) (x : Ring) : (s.setRing r x).revoking = s.revoking := rfl
@[simp] theorem State.setRing_cad (s : State) (r : Nat) (x : Ring) : (s.setRing r x).cad = s.cad := rfl
@[simp] theorem State.setRing_stk (s : State) (r : Nat) (x : Ring) : (s.setRing r x).stk = s.stk := rfl
@[simp] theorem State.setRing_paths (s : State) (r : Nat) (x : Ring) : (s.setRing r x).paths = s.paths := rfl
@[simp] theorem State.setRing_tier (s : State) (r : Nat) (x : Ring) : (s.setRing r x).tier = s.tier := rfl
@[simp] theorem State.setRing_tiles (s : State) (r : Nat) (x : Ring) : (s.setRing r x).tiles = s.tiles := rfl
@[simp] theorem State.setRing_tlc (s : State) (r : Nat) (x : Ring) : (s.setRing r x).tlc = s.tlc := rfl
@[simp] theorem State.setRing_tlcDown (s : State) (r : Nat) (x : Ring) : (s.setRing r x).tlcDown = s.tlcDown := rfl
@[simp] theorem State.setRing_coll (s : State) (r : Nat) (x : Ring) : (s.setRing r x).coll = s.coll := rfl
@[simp] theorem State.setRing_pnm (s : State) (r : Nat) (x : Ring) : (s.setRing r x).pnm = s.pnm := rfl
@[simp] theorem State.setRing_trav (s : State) (r : Nat) (x : Ring) : (s.setRing r x).trav = s.trav := rfl
@[simp] theorem State.setRing_xc (s : State) (r : Nat) (x : Ring) : (s.setRing r x).xc = s.xc := rfl
@[simp] theorem State.setRing_links (s : State) (r : Nat) (x : Ring) : (s.setRing r x).links = s.links := rfl
@[simp] theorem State.setRing_sw (s : State) (r : Nat) (x : Ring) : (s.setRing r x).sw = s.sw := rfl
@[simp] theorem State.setRing_traf (s : State) (r : Nat) (x : Ring) : (s.setRing r x).traf = s.traf := rfl
@[simp] theorem State.setRing_parcels (s : State) (r : Nat) (x : Ring) : (s.setRing r x).parcels = s.parcels := rfl
@[simp] theorem State.setRing_recov (s : State) (r : Nat) (x : Ring) : (s.setRing r x).recov = s.recov := rfl
@[simp] theorem State.setRing_sec (s : State) (r : Nat) (x : Ring) : (s.setRing r x).sec = s.sec := rfl
@[simp] theorem State.setRing_nonce (s : State) (r : Nat) (x : Ring) : (s.setRing r x).nonce = s.nonce := rfl
@[simp] theorem State.setRing_boot (s : State) (r : Nat) (x : Ring) : (s.setRing r x).boot = s.boot := rfl
@[simp] theorem State.setRing_mgmt (s : State) (r : Nat) (x : Ring) : (s.setRing r x).mgmt = s.mgmt := rfl
@[simp] theorem State.setRing_out (s : State) (r : Nat) (x : Ring) : (s.setRing r x).out = s.out := rfl

@[simp] theorem State.setCmds_pending (s : State) (l : List TierCmd) : (s.setCmds l).pending = s.pending := rfl
@[simp] theorem State.setCmds_regs (s : State) (l : List TierCmd) : (s.setCmds l).regs = s.regs := rfl
@[simp] theorem State.setCmds_seqs (s : State) (l : List TierCmd) : (s.setCmds l).seqs = s.seqs := rfl
@[simp] theorem State.setCmds_free (s : State) (l : List TierCmd) : (s.setCmds l).free = s.free := rfl
@[simp] theorem State.setCmds_mem (s : State) (l : List TierCmd) : (s.setCmds l).mem = s.mem := rfl
@[simp] theorem State.setCmds_extents (s : State) (l : List TierCmd) : (s.setCmds l).extents = s.extents := rfl
@[simp] theorem State.setCmds_revoking (s : State) (l : List TierCmd) : (s.setCmds l).revoking = s.revoking := rfl
@[simp] theorem State.setCmds_cad (s : State) (l : List TierCmd) : (s.setCmds l).cad = s.cad := rfl
@[simp] theorem State.setCmds_stk (s : State) (l : List TierCmd) : (s.setCmds l).stk = s.stk := rfl
@[simp] theorem State.setCmds_paths (s : State) (l : List TierCmd) : (s.setCmds l).paths = s.paths := rfl
@[simp] theorem State.setCmds_tiles (s : State) (l : List TierCmd) : (s.setCmds l).tiles = s.tiles := rfl
@[simp] theorem State.setCmds_tlc (s : State) (l : List TierCmd) : (s.setCmds l).tlc = s.tlc := rfl
@[simp] theorem State.setCmds_tlcDown (s : State) (l : List TierCmd) : (s.setCmds l).tlcDown = s.tlcDown := rfl
@[simp] theorem State.setCmds_coll (s : State) (l : List TierCmd) : (s.setCmds l).coll = s.coll := rfl
@[simp] theorem State.setCmds_pnm (s : State) (l : List TierCmd) : (s.setCmds l).pnm = s.pnm := rfl
@[simp] theorem State.setCmds_trav (s : State) (l : List TierCmd) : (s.setCmds l).trav = s.trav := rfl
@[simp] theorem State.setCmds_xc (s : State) (l : List TierCmd) : (s.setCmds l).xc = s.xc := rfl
@[simp] theorem State.setCmds_links (s : State) (l : List TierCmd) : (s.setCmds l).links = s.links := rfl
@[simp] theorem State.setCmds_sw (s : State) (l : List TierCmd) : (s.setCmds l).sw = s.sw := rfl
@[simp] theorem State.setCmds_traf (s : State) (l : List TierCmd) : (s.setCmds l).traf = s.traf := rfl
@[simp] theorem State.setCmds_roce (s : State) (l : List TierCmd) : (s.setCmds l).roce = s.roce := rfl
@[simp] theorem State.setCmds_parcels (s : State) (l : List TierCmd) : (s.setCmds l).parcels = s.parcels := rfl
@[simp] theorem State.setCmds_recov (s : State) (l : List TierCmd) : (s.setCmds l).recov = s.recov := rfl
@[simp] theorem State.setCmds_sec (s : State) (l : List TierCmd) : (s.setCmds l).sec = s.sec := rfl
@[simp] theorem State.setCmds_nonce (s : State) (l : List TierCmd) : (s.setCmds l).nonce = s.nonce := rfl
@[simp] theorem State.setCmds_boot (s : State) (l : List TierCmd) : (s.setCmds l).boot = s.boot := rfl
@[simp] theorem State.setCmds_mgmt (s : State) (l : List TierCmd) : (s.setCmds l).mgmt = s.mgmt := rfl
@[simp] theorem State.setCmds_out (s : State) (l : List TierCmd) : (s.setCmds l).out = s.out := rfl

@[simp] theorem State.setObj_pending (s : State) (i : Nat) (o : Obj) : (s.setObj i o).pending = s.pending := rfl
@[simp] theorem State.setObj_regs (s : State) (i : Nat) (o : Obj) : (s.setObj i o).regs = s.regs := rfl
@[simp] theorem State.setObj_seqs (s : State) (i : Nat) (o : Obj) : (s.setObj i o).seqs = s.seqs := rfl
@[simp] theorem State.setObj_free (s : State) (i : Nat) (o : Obj) : (s.setObj i o).free = s.free := rfl
@[simp] theorem State.setObj_mem (s : State) (i : Nat) (o : Obj) : (s.setObj i o).mem = s.mem := rfl
@[simp] theorem State.setObj_extents (s : State) (i : Nat) (o : Obj) : (s.setObj i o).extents = s.extents := rfl
@[simp] theorem State.setObj_revoking (s : State) (i : Nat) (o : Obj) : (s.setObj i o).revoking = s.revoking := rfl
@[simp] theorem State.setObj_cad (s : State) (i : Nat) (o : Obj) : (s.setObj i o).cad = s.cad := rfl
@[simp] theorem State.setObj_stk (s : State) (i : Nat) (o : Obj) : (s.setObj i o).stk = s.stk := rfl
@[simp] theorem State.setObj_paths (s : State) (i : Nat) (o : Obj) : (s.setObj i o).paths = s.paths := rfl
@[simp] theorem State.setObj_tiles (s : State) (i : Nat) (o : Obj) : (s.setObj i o).tiles = s.tiles := rfl
@[simp] theorem State.setObj_tlc (s : State) (i : Nat) (o : Obj) : (s.setObj i o).tlc = s.tlc := rfl
@[simp] theorem State.setObj_tlcDown (s : State) (i : Nat) (o : Obj) : (s.setObj i o).tlcDown = s.tlcDown := rfl
@[simp] theorem State.setObj_coll (s : State) (i : Nat) (o : Obj) : (s.setObj i o).coll = s.coll := rfl
@[simp] theorem State.setObj_pnm (s : State) (i : Nat) (o : Obj) : (s.setObj i o).pnm = s.pnm := rfl
@[simp] theorem State.setObj_trav (s : State) (i : Nat) (o : Obj) : (s.setObj i o).trav = s.trav := rfl
@[simp] theorem State.setObj_xc (s : State) (i : Nat) (o : Obj) : (s.setObj i o).xc = s.xc := rfl
@[simp] theorem State.setObj_links (s : State) (i : Nat) (o : Obj) : (s.setObj i o).links = s.links := rfl
@[simp] theorem State.setObj_sw (s : State) (i : Nat) (o : Obj) : (s.setObj i o).sw = s.sw := rfl
@[simp] theorem State.setObj_traf (s : State) (i : Nat) (o : Obj) : (s.setObj i o).traf = s.traf := rfl
@[simp] theorem State.setObj_roce (s : State) (i : Nat) (o : Obj) : (s.setObj i o).roce = s.roce := rfl
@[simp] theorem State.setObj_parcels (s : State) (i : Nat) (o : Obj) : (s.setObj i o).parcels = s.parcels := rfl
@[simp] theorem State.setObj_recov (s : State) (i : Nat) (o : Obj) : (s.setObj i o).recov = s.recov := rfl
@[simp] theorem State.setObj_sec (s : State) (i : Nat) (o : Obj) : (s.setObj i o).sec = s.sec := rfl
@[simp] theorem State.setObj_nonce (s : State) (i : Nat) (o : Obj) : (s.setObj i o).nonce = s.nonce := rfl
@[simp] theorem State.setObj_boot (s : State) (i : Nat) (o : Obj) : (s.setObj i o).boot = s.boot := rfl
@[simp] theorem State.setObj_mgmt (s : State) (i : Nat) (o : Obj) : (s.setObj i o).mgmt = s.mgmt := rfl
@[simp] theorem State.setObj_out (s : State) (i : Nat) (o : Obj) : (s.setObj i o).out = s.out := rfl

@[simp] theorem State.setUnit_pending (s : State) (k : Nat) (u : FUnit) : (s.setUnit k u).pending = s.pending := rfl
@[simp] theorem State.setUnit_regs (s : State) (k : Nat) (u : FUnit) : (s.setUnit k u).regs = s.regs := rfl
@[simp] theorem State.setUnit_seqs (s : State) (k : Nat) (u : FUnit) : (s.setUnit k u).seqs = s.seqs := rfl
@[simp] theorem State.setUnit_free (s : State) (k : Nat) (u : FUnit) : (s.setUnit k u).free = s.free := rfl
@[simp] theorem State.setUnit_mem (s : State) (k : Nat) (u : FUnit) : (s.setUnit k u).mem = s.mem := rfl
@[simp] theorem State.setUnit_extents (s : State) (k : Nat) (u : FUnit) : (s.setUnit k u).extents = s.extents := rfl
@[simp] theorem State.setUnit_revoking (s : State) (k : Nat) (u : FUnit) : (s.setUnit k u).revoking = s.revoking := rfl
@[simp] theorem State.setUnit_cad (s : State) (k : Nat) (u : FUnit) : (s.setUnit k u).cad = s.cad := rfl
@[simp] theorem State.setUnit_stk (s : State) (k : Nat) (u : FUnit) : (s.setUnit k u).stk = s.stk := rfl
@[simp] theorem State.setUnit_paths (s : State) (k : Nat) (u : FUnit) : (s.setUnit k u).paths = s.paths := rfl
@[simp] theorem State.setUnit_tiles (s : State) (k : Nat) (u : FUnit) : (s.setUnit k u).tiles = s.tiles := rfl
@[simp] theorem State.setUnit_tlc (s : State) (k : Nat) (u : FUnit) : (s.setUnit k u).tlc = s.tlc := rfl
@[simp] theorem State.setUnit_tlcDown (s : State) (k : Nat) (u : FUnit) : (s.setUnit k u).tlcDown = s.tlcDown := rfl
@[simp] theorem State.setUnit_coll (s : State) (k : Nat) (u : FUnit) : (s.setUnit k u).coll = s.coll := rfl
@[simp] theorem State.setUnit_pnm (s : State) (k : Nat) (u : FUnit) : (s.setUnit k u).pnm = s.pnm := rfl
@[simp] theorem State.setUnit_trav (s : State) (k : Nat) (u : FUnit) : (s.setUnit k u).trav = s.trav := rfl
@[simp] theorem State.setUnit_xc (s : State) (k : Nat) (u : FUnit) : (s.setUnit k u).xc = s.xc := rfl
@[simp] theorem State.setUnit_links (s : State) (k : Nat) (u : FUnit) : (s.setUnit k u).links = s.links := rfl
@[simp] theorem State.setUnit_sw (s : State) (k : Nat) (u : FUnit) : (s.setUnit k u).sw = s.sw := rfl
@[simp] theorem State.setUnit_traf (s : State) (k : Nat) (u : FUnit) : (s.setUnit k u).traf = s.traf := rfl
@[simp] theorem State.setUnit_roce (s : State) (k : Nat) (u : FUnit) : (s.setUnit k u).roce = s.roce := rfl
@[simp] theorem State.setUnit_parcels (s : State) (k : Nat) (u : FUnit) : (s.setUnit k u).parcels = s.parcels := rfl
@[simp] theorem State.setUnit_recov (s : State) (k : Nat) (u : FUnit) : (s.setUnit k u).recov = s.recov := rfl
@[simp] theorem State.setUnit_sec (s : State) (k : Nat) (u : FUnit) : (s.setUnit k u).sec = s.sec := rfl
@[simp] theorem State.setUnit_nonce (s : State) (k : Nat) (u : FUnit) : (s.setUnit k u).nonce = s.nonce := rfl
@[simp] theorem State.setUnit_boot (s : State) (k : Nat) (u : FUnit) : (s.setUnit k u).boot = s.boot := rfl
@[simp] theorem State.setUnit_mgmt (s : State) (k : Nat) (u : FUnit) : (s.setUnit k u).mgmt = s.mgmt := rfl
@[simp] theorem State.setUnit_out (s : State) (k : Nat) (u : FUnit) : (s.setUnit k u).out = s.out := rfl

@[simp] theorem State.setBlock_pending (s : State) (b : Nat) (x : FBlock) : (s.setBlock b x).pending = s.pending := rfl
@[simp] theorem State.setBlock_regs (s : State) (b : Nat) (x : FBlock) : (s.setBlock b x).regs = s.regs := rfl
@[simp] theorem State.setBlock_seqs (s : State) (b : Nat) (x : FBlock) : (s.setBlock b x).seqs = s.seqs := rfl
@[simp] theorem State.setBlock_free (s : State) (b : Nat) (x : FBlock) : (s.setBlock b x).free = s.free := rfl
@[simp] theorem State.setBlock_mem (s : State) (b : Nat) (x : FBlock) : (s.setBlock b x).mem = s.mem := rfl
@[simp] theorem State.setBlock_extents (s : State) (b : Nat) (x : FBlock) : (s.setBlock b x).extents = s.extents := rfl
@[simp] theorem State.setBlock_revoking (s : State) (b : Nat) (x : FBlock) : (s.setBlock b x).revoking = s.revoking := rfl
@[simp] theorem State.setBlock_cad (s : State) (b : Nat) (x : FBlock) : (s.setBlock b x).cad = s.cad := rfl
@[simp] theorem State.setBlock_stk (s : State) (b : Nat) (x : FBlock) : (s.setBlock b x).stk = s.stk := rfl
@[simp] theorem State.setBlock_paths (s : State) (b : Nat) (x : FBlock) : (s.setBlock b x).paths = s.paths := rfl
@[simp] theorem State.setBlock_tiles (s : State) (b : Nat) (x : FBlock) : (s.setBlock b x).tiles = s.tiles := rfl
@[simp] theorem State.setBlock_tlc (s : State) (b : Nat) (x : FBlock) : (s.setBlock b x).tlc = s.tlc := rfl
@[simp] theorem State.setBlock_tlcDown (s : State) (b : Nat) (x : FBlock) : (s.setBlock b x).tlcDown = s.tlcDown := rfl
@[simp] theorem State.setBlock_coll (s : State) (b : Nat) (x : FBlock) : (s.setBlock b x).coll = s.coll := rfl
@[simp] theorem State.setBlock_pnm (s : State) (b : Nat) (x : FBlock) : (s.setBlock b x).pnm = s.pnm := rfl
@[simp] theorem State.setBlock_trav (s : State) (b : Nat) (x : FBlock) : (s.setBlock b x).trav = s.trav := rfl
@[simp] theorem State.setBlock_xc (s : State) (b : Nat) (x : FBlock) : (s.setBlock b x).xc = s.xc := rfl
@[simp] theorem State.setBlock_links (s : State) (b : Nat) (x : FBlock) : (s.setBlock b x).links = s.links := rfl
@[simp] theorem State.setBlock_sw (s : State) (b : Nat) (x : FBlock) : (s.setBlock b x).sw = s.sw := rfl
@[simp] theorem State.setBlock_traf (s : State) (b : Nat) (x : FBlock) : (s.setBlock b x).traf = s.traf := rfl
@[simp] theorem State.setBlock_roce (s : State) (b : Nat) (x : FBlock) : (s.setBlock b x).roce = s.roce := rfl
@[simp] theorem State.setBlock_parcels (s : State) (b : Nat) (x : FBlock) : (s.setBlock b x).parcels = s.parcels := rfl
@[simp] theorem State.setBlock_recov (s : State) (b : Nat) (x : FBlock) : (s.setBlock b x).recov = s.recov := rfl
@[simp] theorem State.setBlock_sec (s : State) (b : Nat) (x : FBlock) : (s.setBlock b x).sec = s.sec := rfl
@[simp] theorem State.setBlock_nonce (s : State) (b : Nat) (x : FBlock) : (s.setBlock b x).nonce = s.nonce := rfl
@[simp] theorem State.setBlock_boot (s : State) (b : Nat) (x : FBlock) : (s.setBlock b x).boot = s.boot := rfl
@[simp] theorem State.setBlock_mgmt (s : State) (b : Nat) (x : FBlock) : (s.setBlock b x).mgmt = s.mgmt := rfl
@[simp] theorem State.setBlock_out (s : State) (b : Nat) (x : FBlock) : (s.setBlock b x).out = s.out := rfl

@[simp] theorem State.setMeter_pending (s : State) (m : Nat) (x : Meter) : (s.setMeter m x).pending = s.pending := rfl
@[simp] theorem State.setMeter_regs (s : State) (m : Nat) (x : Meter) : (s.setMeter m x).regs = s.regs := rfl
@[simp] theorem State.setMeter_seqs (s : State) (m : Nat) (x : Meter) : (s.setMeter m x).seqs = s.seqs := rfl
@[simp] theorem State.setMeter_free (s : State) (m : Nat) (x : Meter) : (s.setMeter m x).free = s.free := rfl
@[simp] theorem State.setMeter_mem (s : State) (m : Nat) (x : Meter) : (s.setMeter m x).mem = s.mem := rfl
@[simp] theorem State.setMeter_extents (s : State) (m : Nat) (x : Meter) : (s.setMeter m x).extents = s.extents := rfl
@[simp] theorem State.setMeter_revoking (s : State) (m : Nat) (x : Meter) : (s.setMeter m x).revoking = s.revoking := rfl
@[simp] theorem State.setMeter_cad (s : State) (m : Nat) (x : Meter) : (s.setMeter m x).cad = s.cad := rfl
@[simp] theorem State.setMeter_stk (s : State) (m : Nat) (x : Meter) : (s.setMeter m x).stk = s.stk := rfl
@[simp] theorem State.setMeter_paths (s : State) (m : Nat) (x : Meter) : (s.setMeter m x).paths = s.paths := rfl
@[simp] theorem State.setMeter_tier (s : State) (m : Nat) (x : Meter) : (s.setMeter m x).tier = s.tier := rfl
@[simp] theorem State.setMeter_tiles (s : State) (m : Nat) (x : Meter) : (s.setMeter m x).tiles = s.tiles := rfl
@[simp] theorem State.setMeter_tlc (s : State) (m : Nat) (x : Meter) : (s.setMeter m x).tlc = s.tlc := rfl
@[simp] theorem State.setMeter_tlcDown (s : State) (m : Nat) (x : Meter) : (s.setMeter m x).tlcDown = s.tlcDown := rfl
@[simp] theorem State.setMeter_coll (s : State) (m : Nat) (x : Meter) : (s.setMeter m x).coll = s.coll := rfl
@[simp] theorem State.setMeter_pnm (s : State) (m : Nat) (x : Meter) : (s.setMeter m x).pnm = s.pnm := rfl
@[simp] theorem State.setMeter_trav (s : State) (m : Nat) (x : Meter) : (s.setMeter m x).trav = s.trav := rfl
@[simp] theorem State.setMeter_xc (s : State) (m : Nat) (x : Meter) : (s.setMeter m x).xc = s.xc := rfl
@[simp] theorem State.setMeter_links (s : State) (m : Nat) (x : Meter) : (s.setMeter m x).links = s.links := rfl
@[simp] theorem State.setMeter_sw (s : State) (m : Nat) (x : Meter) : (s.setMeter m x).sw = s.sw := rfl
@[simp] theorem State.setMeter_roce (s : State) (m : Nat) (x : Meter) : (s.setMeter m x).roce = s.roce := rfl
@[simp] theorem State.setMeter_parcels (s : State) (m : Nat) (x : Meter) : (s.setMeter m x).parcels = s.parcels := rfl
@[simp] theorem State.setMeter_recov (s : State) (m : Nat) (x : Meter) : (s.setMeter m x).recov = s.recov := rfl
@[simp] theorem State.setMeter_sec (s : State) (m : Nat) (x : Meter) : (s.setMeter m x).sec = s.sec := rfl
@[simp] theorem State.setMeter_nonce (s : State) (m : Nat) (x : Meter) : (s.setMeter m x).nonce = s.nonce := rfl
@[simp] theorem State.setMeter_boot (s : State) (m : Nat) (x : Meter) : (s.setMeter m x).boot = s.boot := rfl
@[simp] theorem State.setMeter_mgmt (s : State) (m : Nat) (x : Meter) : (s.setMeter m x).mgmt = s.mgmt := rfl
@[simp] theorem State.setMeter_out (s : State) (m : Nat) (x : Meter) : (s.setMeter m x).out = s.out := rfl

@[simp] theorem State.setShaper_pending (s : State) (k : Nat) (x : Shaper) : (s.setShaper k x).pending = s.pending := rfl
@[simp] theorem State.setShaper_regs (s : State) (k : Nat) (x : Shaper) : (s.setShaper k x).regs = s.regs := rfl
@[simp] theorem State.setShaper_seqs (s : State) (k : Nat) (x : Shaper) : (s.setShaper k x).seqs = s.seqs := rfl
@[simp] theorem State.setShaper_free (s : State) (k : Nat) (x : Shaper) : (s.setShaper k x).free = s.free := rfl
@[simp] theorem State.setShaper_mem (s : State) (k : Nat) (x : Shaper) : (s.setShaper k x).mem = s.mem := rfl
@[simp] theorem State.setShaper_extents (s : State) (k : Nat) (x : Shaper) : (s.setShaper k x).extents = s.extents := rfl
@[simp] theorem State.setShaper_revoking (s : State) (k : Nat) (x : Shaper) : (s.setShaper k x).revoking = s.revoking := rfl
@[simp] theorem State.setShaper_cad (s : State) (k : Nat) (x : Shaper) : (s.setShaper k x).cad = s.cad := rfl
@[simp] theorem State.setShaper_stk (s : State) (k : Nat) (x : Shaper) : (s.setShaper k x).stk = s.stk := rfl
@[simp] theorem State.setShaper_paths (s : State) (k : Nat) (x : Shaper) : (s.setShaper k x).paths = s.paths := rfl
@[simp] theorem State.setShaper_tier (s : State) (k : Nat) (x : Shaper) : (s.setShaper k x).tier = s.tier := rfl
@[simp] theorem State.setShaper_tiles (s : State) (k : Nat) (x : Shaper) : (s.setShaper k x).tiles = s.tiles := rfl
@[simp] theorem State.setShaper_tlc (s : State) (k : Nat) (x : Shaper) : (s.setShaper k x).tlc = s.tlc := rfl
@[simp] theorem State.setShaper_tlcDown (s : State) (k : Nat) (x : Shaper) : (s.setShaper k x).tlcDown = s.tlcDown := rfl
@[simp] theorem State.setShaper_coll (s : State) (k : Nat) (x : Shaper) : (s.setShaper k x).coll = s.coll := rfl
@[simp] theorem State.setShaper_pnm (s : State) (k : Nat) (x : Shaper) : (s.setShaper k x).pnm = s.pnm := rfl
@[simp] theorem State.setShaper_trav (s : State) (k : Nat) (x : Shaper) : (s.setShaper k x).trav = s.trav := rfl
@[simp] theorem State.setShaper_xc (s : State) (k : Nat) (x : Shaper) : (s.setShaper k x).xc = s.xc := rfl
@[simp] theorem State.setShaper_links (s : State) (k : Nat) (x : Shaper) : (s.setShaper k x).links = s.links := rfl
@[simp] theorem State.setShaper_sw (s : State) (k : Nat) (x : Shaper) : (s.setShaper k x).sw = s.sw := rfl
@[simp] theorem State.setShaper_roce (s : State) (k : Nat) (x : Shaper) : (s.setShaper k x).roce = s.roce := rfl
@[simp] theorem State.setShaper_parcels (s : State) (k : Nat) (x : Shaper) : (s.setShaper k x).parcels = s.parcels := rfl
@[simp] theorem State.setShaper_recov (s : State) (k : Nat) (x : Shaper) : (s.setShaper k x).recov = s.recov := rfl
@[simp] theorem State.setShaper_sec (s : State) (k : Nat) (x : Shaper) : (s.setShaper k x).sec = s.sec := rfl
@[simp] theorem State.setShaper_nonce (s : State) (k : Nat) (x : Shaper) : (s.setShaper k x).nonce = s.nonce := rfl
@[simp] theorem State.setShaper_boot (s : State) (k : Nat) (x : Shaper) : (s.setShaper k x).boot = s.boot := rfl
@[simp] theorem State.setShaper_mgmt (s : State) (k : Nat) (x : Shaper) : (s.setShaper k x).mgmt = s.mgmt := rfl
@[simp] theorem State.setShaper_out (s : State) (k : Nat) (x : Shaper) : (s.setShaper k x).out = s.out := rfl

@[simp] theorem State.setGate_pending (s : State) (p : Nat) (g : Gate) : (s.setGate p g).pending = s.pending := rfl
@[simp] theorem State.setGate_regs (s : State) (p : Nat) (g : Gate) : (s.setGate p g).regs = s.regs := rfl
@[simp] theorem State.setGate_seqs (s : State) (p : Nat) (g : Gate) : (s.setGate p g).seqs = s.seqs := rfl
@[simp] theorem State.setGate_free (s : State) (p : Nat) (g : Gate) : (s.setGate p g).free = s.free := rfl
@[simp] theorem State.setGate_mem (s : State) (p : Nat) (g : Gate) : (s.setGate p g).mem = s.mem := rfl
@[simp] theorem State.setGate_extents (s : State) (p : Nat) (g : Gate) : (s.setGate p g).extents = s.extents := rfl
@[simp] theorem State.setGate_revoking (s : State) (p : Nat) (g : Gate) : (s.setGate p g).revoking = s.revoking := rfl
@[simp] theorem State.setGate_cad (s : State) (p : Nat) (g : Gate) : (s.setGate p g).cad = s.cad := rfl
@[simp] theorem State.setGate_stk (s : State) (p : Nat) (g : Gate) : (s.setGate p g).stk = s.stk := rfl
@[simp] theorem State.setGate_paths (s : State) (p : Nat) (g : Gate) : (s.setGate p g).paths = s.paths := rfl
@[simp] theorem State.setGate_tier (s : State) (p : Nat) (g : Gate) : (s.setGate p g).tier = s.tier := rfl
@[simp] theorem State.setGate_tiles (s : State) (p : Nat) (g : Gate) : (s.setGate p g).tiles = s.tiles := rfl
@[simp] theorem State.setGate_tlc (s : State) (p : Nat) (g : Gate) : (s.setGate p g).tlc = s.tlc := rfl
@[simp] theorem State.setGate_tlcDown (s : State) (p : Nat) (g : Gate) : (s.setGate p g).tlcDown = s.tlcDown := rfl
@[simp] theorem State.setGate_coll (s : State) (p : Nat) (g : Gate) : (s.setGate p g).coll = s.coll := rfl
@[simp] theorem State.setGate_pnm (s : State) (p : Nat) (g : Gate) : (s.setGate p g).pnm = s.pnm := rfl
@[simp] theorem State.setGate_trav (s : State) (p : Nat) (g : Gate) : (s.setGate p g).trav = s.trav := rfl
@[simp] theorem State.setGate_xc (s : State) (p : Nat) (g : Gate) : (s.setGate p g).xc = s.xc := rfl
@[simp] theorem State.setGate_links (s : State) (p : Nat) (g : Gate) : (s.setGate p g).links = s.links := rfl
@[simp] theorem State.setGate_sw (s : State) (p : Nat) (g : Gate) : (s.setGate p g).sw = s.sw := rfl
@[simp] theorem State.setGate_roce (s : State) (p : Nat) (g : Gate) : (s.setGate p g).roce = s.roce := rfl
@[simp] theorem State.setGate_parcels (s : State) (p : Nat) (g : Gate) : (s.setGate p g).parcels = s.parcels := rfl
@[simp] theorem State.setGate_recov (s : State) (p : Nat) (g : Gate) : (s.setGate p g).recov = s.recov := rfl
@[simp] theorem State.setGate_sec (s : State) (p : Nat) (g : Gate) : (s.setGate p g).sec = s.sec := rfl
@[simp] theorem State.setGate_nonce (s : State) (p : Nat) (g : Gate) : (s.setGate p g).nonce = s.nonce := rfl
@[simp] theorem State.setGate_boot (s : State) (p : Nat) (g : Gate) : (s.setGate p g).boot = s.boot := rfl
@[simp] theorem State.setGate_mgmt (s : State) (p : Nat) (g : Gate) : (s.setGate p g).mgmt = s.mgmt := rfl
@[simp] theorem State.setGate_out (s : State) (p : Nat) (g : Gate) : (s.setGate p g).out = s.out := rfl

@[simp] theorem State.setBook_pending (s : State) (b : Nat) (k : Book) : (s.setBook b k).pending = s.pending := rfl
@[simp] theorem State.setBook_regs (s : State) (b : Nat) (k : Book) : (s.setBook b k).regs = s.regs := rfl
@[simp] theorem State.setBook_seqs (s : State) (b : Nat) (k : Book) : (s.setBook b k).seqs = s.seqs := rfl
@[simp] theorem State.setBook_free (s : State) (b : Nat) (k : Book) : (s.setBook b k).free = s.free := rfl
@[simp] theorem State.setBook_mem (s : State) (b : Nat) (k : Book) : (s.setBook b k).mem = s.mem := rfl
@[simp] theorem State.setBook_extents (s : State) (b : Nat) (k : Book) : (s.setBook b k).extents = s.extents := rfl
@[simp] theorem State.setBook_revoking (s : State) (b : Nat) (k : Book) : (s.setBook b k).revoking = s.revoking := rfl
@[simp] theorem State.setBook_cad (s : State) (b : Nat) (k : Book) : (s.setBook b k).cad = s.cad := rfl
@[simp] theorem State.setBook_stk (s : State) (b : Nat) (k : Book) : (s.setBook b k).stk = s.stk := rfl
@[simp] theorem State.setBook_paths (s : State) (b : Nat) (k : Book) : (s.setBook b k).paths = s.paths := rfl
@[simp] theorem State.setBook_tier (s : State) (b : Nat) (k : Book) : (s.setBook b k).tier = s.tier := rfl
@[simp] theorem State.setBook_tiles (s : State) (b : Nat) (k : Book) : (s.setBook b k).tiles = s.tiles := rfl
@[simp] theorem State.setBook_tlc (s : State) (b : Nat) (k : Book) : (s.setBook b k).tlc = s.tlc := rfl
@[simp] theorem State.setBook_tlcDown (s : State) (b : Nat) (k : Book) : (s.setBook b k).tlcDown = s.tlcDown := rfl
@[simp] theorem State.setBook_coll (s : State) (b : Nat) (k : Book) : (s.setBook b k).coll = s.coll := rfl
@[simp] theorem State.setBook_pnm (s : State) (b : Nat) (k : Book) : (s.setBook b k).pnm = s.pnm := rfl
@[simp] theorem State.setBook_trav (s : State) (b : Nat) (k : Book) : (s.setBook b k).trav = s.trav := rfl
@[simp] theorem State.setBook_xc (s : State) (b : Nat) (k : Book) : (s.setBook b k).xc = s.xc := rfl
@[simp] theorem State.setBook_links (s : State) (b : Nat) (k : Book) : (s.setBook b k).links = s.links := rfl
@[simp] theorem State.setBook_sw (s : State) (b : Nat) (k : Book) : (s.setBook b k).sw = s.sw := rfl
@[simp] theorem State.setBook_traf (s : State) (b : Nat) (k : Book) : (s.setBook b k).traf = s.traf := rfl
@[simp] theorem State.setBook_roce (s : State) (b : Nat) (k : Book) : (s.setBook b k).roce = s.roce := rfl
@[simp] theorem State.setBook_parcels (s : State) (b : Nat) (k : Book) : (s.setBook b k).parcels = s.parcels := rfl
@[simp] theorem State.setBook_sec (s : State) (b : Nat) (k : Book) : (s.setBook b k).sec = s.sec := rfl
@[simp] theorem State.setBook_nonce (s : State) (b : Nat) (k : Book) : (s.setBook b k).nonce = s.nonce := rfl
@[simp] theorem State.setBook_boot (s : State) (b : Nat) (k : Book) : (s.setBook b k).boot = s.boot := rfl
@[simp] theorem State.setBook_mgmt (s : State) (b : Nat) (k : Book) : (s.setBook b k).mgmt = s.mgmt := rfl
@[simp] theorem State.setBook_out (s : State) (b : Nat) (k : Book) : (s.setBook b k).out = s.out := rfl

@[simp] theorem State.setTwinCol_pending (s : State) (c : Nat) (x : TwinCol) : (s.setTwinCol c x).pending = s.pending := rfl
@[simp] theorem State.setTwinCol_regs (s : State) (c : Nat) (x : TwinCol) : (s.setTwinCol c x).regs = s.regs := rfl
@[simp] theorem State.setTwinCol_seqs (s : State) (c : Nat) (x : TwinCol) : (s.setTwinCol c x).seqs = s.seqs := rfl
@[simp] theorem State.setTwinCol_free (s : State) (c : Nat) (x : TwinCol) : (s.setTwinCol c x).free = s.free := rfl
@[simp] theorem State.setTwinCol_mem (s : State) (c : Nat) (x : TwinCol) : (s.setTwinCol c x).mem = s.mem := rfl
@[simp] theorem State.setTwinCol_extents (s : State) (c : Nat) (x : TwinCol) : (s.setTwinCol c x).extents = s.extents := rfl
@[simp] theorem State.setTwinCol_revoking (s : State) (c : Nat) (x : TwinCol) : (s.setTwinCol c x).revoking = s.revoking := rfl
@[simp] theorem State.setTwinCol_cad (s : State) (c : Nat) (x : TwinCol) : (s.setTwinCol c x).cad = s.cad := rfl
@[simp] theorem State.setTwinCol_stk (s : State) (c : Nat) (x : TwinCol) : (s.setTwinCol c x).stk = s.stk := rfl
@[simp] theorem State.setTwinCol_paths (s : State) (c : Nat) (x : TwinCol) : (s.setTwinCol c x).paths = s.paths := rfl
@[simp] theorem State.setTwinCol_tier (s : State) (c : Nat) (x : TwinCol) : (s.setTwinCol c x).tier = s.tier := rfl
@[simp] theorem State.setTwinCol_tiles (s : State) (c : Nat) (x : TwinCol) : (s.setTwinCol c x).tiles = s.tiles := rfl
@[simp] theorem State.setTwinCol_tlc (s : State) (c : Nat) (x : TwinCol) : (s.setTwinCol c x).tlc = s.tlc := rfl
@[simp] theorem State.setTwinCol_tlcDown (s : State) (c : Nat) (x : TwinCol) : (s.setTwinCol c x).tlcDown = s.tlcDown := rfl
@[simp] theorem State.setTwinCol_coll (s : State) (c : Nat) (x : TwinCol) : (s.setTwinCol c x).coll = s.coll := rfl
@[simp] theorem State.setTwinCol_pnm (s : State) (c : Nat) (x : TwinCol) : (s.setTwinCol c x).pnm = s.pnm := rfl
@[simp] theorem State.setTwinCol_trav (s : State) (c : Nat) (x : TwinCol) : (s.setTwinCol c x).trav = s.trav := rfl
@[simp] theorem State.setTwinCol_xc (s : State) (c : Nat) (x : TwinCol) : (s.setTwinCol c x).xc = s.xc := rfl
@[simp] theorem State.setTwinCol_links (s : State) (c : Nat) (x : TwinCol) : (s.setTwinCol c x).links = s.links := rfl
@[simp] theorem State.setTwinCol_sw (s : State) (c : Nat) (x : TwinCol) : (s.setTwinCol c x).sw = s.sw := rfl
@[simp] theorem State.setTwinCol_traf (s : State) (c : Nat) (x : TwinCol) : (s.setTwinCol c x).traf = s.traf := rfl
@[simp] theorem State.setTwinCol_roce (s : State) (c : Nat) (x : TwinCol) : (s.setTwinCol c x).roce = s.roce := rfl
@[simp] theorem State.setTwinCol_parcels (s : State) (c : Nat) (x : TwinCol) : (s.setTwinCol c x).parcels = s.parcels := rfl
@[simp] theorem State.setTwinCol_sec (s : State) (c : Nat) (x : TwinCol) : (s.setTwinCol c x).sec = s.sec := rfl
@[simp] theorem State.setTwinCol_nonce (s : State) (c : Nat) (x : TwinCol) : (s.setTwinCol c x).nonce = s.nonce := rfl
@[simp] theorem State.setTwinCol_boot (s : State) (c : Nat) (x : TwinCol) : (s.setTwinCol c x).boot = s.boot := rfl
@[simp] theorem State.setTwinCol_mgmt (s : State) (c : Nat) (x : TwinCol) : (s.setTwinCol c x).mgmt = s.mgmt := rfl
@[simp] theorem State.setTwinCol_out (s : State) (c : Nat) (x : TwinCol) : (s.setTwinCol c x).out = s.out := rfl

@[simp] theorem State.setOps_pending (s : State) (l : List TwinOp) : (s.setOps l).pending = s.pending := rfl
@[simp] theorem State.setOps_regs (s : State) (l : List TwinOp) : (s.setOps l).regs = s.regs := rfl
@[simp] theorem State.setOps_seqs (s : State) (l : List TwinOp) : (s.setOps l).seqs = s.seqs := rfl
@[simp] theorem State.setOps_free (s : State) (l : List TwinOp) : (s.setOps l).free = s.free := rfl
@[simp] theorem State.setOps_mem (s : State) (l : List TwinOp) : (s.setOps l).mem = s.mem := rfl
@[simp] theorem State.setOps_extents (s : State) (l : List TwinOp) : (s.setOps l).extents = s.extents := rfl
@[simp] theorem State.setOps_revoking (s : State) (l : List TwinOp) : (s.setOps l).revoking = s.revoking := rfl
@[simp] theorem State.setOps_cad (s : State) (l : List TwinOp) : (s.setOps l).cad = s.cad := rfl
@[simp] theorem State.setOps_stk (s : State) (l : List TwinOp) : (s.setOps l).stk = s.stk := rfl
@[simp] theorem State.setOps_paths (s : State) (l : List TwinOp) : (s.setOps l).paths = s.paths := rfl
@[simp] theorem State.setOps_tier (s : State) (l : List TwinOp) : (s.setOps l).tier = s.tier := rfl
@[simp] theorem State.setOps_tiles (s : State) (l : List TwinOp) : (s.setOps l).tiles = s.tiles := rfl
@[simp] theorem State.setOps_tlc (s : State) (l : List TwinOp) : (s.setOps l).tlc = s.tlc := rfl
@[simp] theorem State.setOps_tlcDown (s : State) (l : List TwinOp) : (s.setOps l).tlcDown = s.tlcDown := rfl
@[simp] theorem State.setOps_coll (s : State) (l : List TwinOp) : (s.setOps l).coll = s.coll := rfl
@[simp] theorem State.setOps_pnm (s : State) (l : List TwinOp) : (s.setOps l).pnm = s.pnm := rfl
@[simp] theorem State.setOps_trav (s : State) (l : List TwinOp) : (s.setOps l).trav = s.trav := rfl
@[simp] theorem State.setOps_xc (s : State) (l : List TwinOp) : (s.setOps l).xc = s.xc := rfl
@[simp] theorem State.setOps_links (s : State) (l : List TwinOp) : (s.setOps l).links = s.links := rfl
@[simp] theorem State.setOps_sw (s : State) (l : List TwinOp) : (s.setOps l).sw = s.sw := rfl
@[simp] theorem State.setOps_traf (s : State) (l : List TwinOp) : (s.setOps l).traf = s.traf := rfl
@[simp] theorem State.setOps_roce (s : State) (l : List TwinOp) : (s.setOps l).roce = s.roce := rfl
@[simp] theorem State.setOps_parcels (s : State) (l : List TwinOp) : (s.setOps l).parcels = s.parcels := rfl
@[simp] theorem State.setOps_sec (s : State) (l : List TwinOp) : (s.setOps l).sec = s.sec := rfl
@[simp] theorem State.setOps_nonce (s : State) (l : List TwinOp) : (s.setOps l).nonce = s.nonce := rfl
@[simp] theorem State.setOps_boot (s : State) (l : List TwinOp) : (s.setOps l).boot = s.boot := rfl
@[simp] theorem State.setOps_mgmt (s : State) (l : List TwinOp) : (s.setOps l).mgmt = s.mgmt := rfl
@[simp] theorem State.setOps_out (s : State) (l : List TwinOp) : (s.setOps l).out = s.out := rfl

@[simp] theorem State.setXc_pending (s : State) (x : XcRun) : (s.setXc x).pending = s.pending := rfl
@[simp] theorem State.setXc_regs (s : State) (x : XcRun) : (s.setXc x).regs = s.regs := rfl
@[simp] theorem State.setXc_seqs (s : State) (x : XcRun) : (s.setXc x).seqs = s.seqs := rfl
@[simp] theorem State.setXc_free (s : State) (x : XcRun) : (s.setXc x).free = s.free := rfl
@[simp] theorem State.setXc_mem (s : State) (x : XcRun) : (s.setXc x).mem = s.mem := rfl
@[simp] theorem State.setXc_extents (s : State) (x : XcRun) : (s.setXc x).extents = s.extents := rfl
@[simp] theorem State.setXc_revoking (s : State) (x : XcRun) : (s.setXc x).revoking = s.revoking := rfl
@[simp] theorem State.setXc_cad (s : State) (x : XcRun) : (s.setXc x).cad = s.cad := rfl
@[simp] theorem State.setXc_stk (s : State) (x : XcRun) : (s.setXc x).stk = s.stk := rfl
@[simp] theorem State.setXc_paths (s : State) (x : XcRun) : (s.setXc x).paths = s.paths := rfl
@[simp] theorem State.setXc_tier (s : State) (x : XcRun) : (s.setXc x).tier = s.tier := rfl
@[simp] theorem State.setXc_tiles (s : State) (x : XcRun) : (s.setXc x).tiles = s.tiles := rfl
@[simp] theorem State.setXc_tlc (s : State) (x : XcRun) : (s.setXc x).tlc = s.tlc := rfl
@[simp] theorem State.setXc_tlcDown (s : State) (x : XcRun) : (s.setXc x).tlcDown = s.tlcDown := rfl
@[simp] theorem State.setXc_coll (s : State) (x : XcRun) : (s.setXc x).coll = s.coll := rfl
@[simp] theorem State.setXc_pnm (s : State) (x : XcRun) : (s.setXc x).pnm = s.pnm := rfl
@[simp] theorem State.setXc_trav (s : State) (x : XcRun) : (s.setXc x).trav = s.trav := rfl
@[simp] theorem State.setXc_links (s : State) (x : XcRun) : (s.setXc x).links = s.links := rfl
@[simp] theorem State.setXc_sw (s : State) (x : XcRun) : (s.setXc x).sw = s.sw := rfl
@[simp] theorem State.setXc_traf (s : State) (x : XcRun) : (s.setXc x).traf = s.traf := rfl
@[simp] theorem State.setXc_roce (s : State) (x : XcRun) : (s.setXc x).roce = s.roce := rfl
@[simp] theorem State.setXc_parcels (s : State) (x : XcRun) : (s.setXc x).parcels = s.parcels := rfl
@[simp] theorem State.setXc_recov (s : State) (x : XcRun) : (s.setXc x).recov = s.recov := rfl
@[simp] theorem State.setXc_sec (s : State) (x : XcRun) : (s.setXc x).sec = s.sec := rfl
@[simp] theorem State.setXc_nonce (s : State) (x : XcRun) : (s.setXc x).nonce = s.nonce := rfl
@[simp] theorem State.setXc_boot (s : State) (x : XcRun) : (s.setXc x).boot = s.boot := rfl
@[simp] theorem State.setXc_mgmt (s : State) (x : XcRun) : (s.setXc x).mgmt = s.mgmt := rfl
@[simp] theorem State.setXc_out (s : State) (x : XcRun) : (s.setXc x).out = s.out := rfl

@[simp] theorem State.poisonLine_pending (s : State) (line : Nat) : (s.poisonLine line).pending = s.pending := rfl
@[simp] theorem State.poisonLine_regs (s : State) (line : Nat) : (s.poisonLine line).regs = s.regs := rfl
@[simp] theorem State.poisonLine_seqs (s : State) (line : Nat) : (s.poisonLine line).seqs = s.seqs := rfl
@[simp] theorem State.poisonLine_free (s : State) (line : Nat) : (s.poisonLine line).free = s.free := rfl
@[simp] theorem State.poisonLine_extents (s : State) (line : Nat) : (s.poisonLine line).extents = s.extents := rfl
@[simp] theorem State.poisonLine_revoking (s : State) (line : Nat) : (s.poisonLine line).revoking = s.revoking := rfl
@[simp] theorem State.poisonLine_cad (s : State) (line : Nat) : (s.poisonLine line).cad = s.cad := rfl
@[simp] theorem State.poisonLine_stk (s : State) (line : Nat) : (s.poisonLine line).stk = s.stk := rfl
@[simp] theorem State.poisonLine_paths (s : State) (line : Nat) : (s.poisonLine line).paths = s.paths := rfl
@[simp] theorem State.poisonLine_tier (s : State) (line : Nat) : (s.poisonLine line).tier = s.tier := rfl
@[simp] theorem State.poisonLine_tiles (s : State) (line : Nat) : (s.poisonLine line).tiles = s.tiles := rfl
@[simp] theorem State.poisonLine_tlc (s : State) (line : Nat) : (s.poisonLine line).tlc = s.tlc := rfl
@[simp] theorem State.poisonLine_tlcDown (s : State) (line : Nat) : (s.poisonLine line).tlcDown = s.tlcDown := rfl
@[simp] theorem State.poisonLine_coll (s : State) (line : Nat) : (s.poisonLine line).coll = s.coll := rfl
@[simp] theorem State.poisonLine_pnm (s : State) (line : Nat) : (s.poisonLine line).pnm = s.pnm := rfl
@[simp] theorem State.poisonLine_trav (s : State) (line : Nat) : (s.poisonLine line).trav = s.trav := rfl
@[simp] theorem State.poisonLine_xc (s : State) (line : Nat) : (s.poisonLine line).xc = s.xc := rfl
@[simp] theorem State.poisonLine_links (s : State) (line : Nat) : (s.poisonLine line).links = s.links := rfl
@[simp] theorem State.poisonLine_sw (s : State) (line : Nat) : (s.poisonLine line).sw = s.sw := rfl
@[simp] theorem State.poisonLine_traf (s : State) (line : Nat) : (s.poisonLine line).traf = s.traf := rfl
@[simp] theorem State.poisonLine_roce (s : State) (line : Nat) : (s.poisonLine line).roce = s.roce := rfl
@[simp] theorem State.poisonLine_parcels (s : State) (line : Nat) : (s.poisonLine line).parcels = s.parcels := rfl
@[simp] theorem State.poisonLine_recov (s : State) (line : Nat) : (s.poisonLine line).recov = s.recov := rfl
@[simp] theorem State.poisonLine_sec (s : State) (line : Nat) : (s.poisonLine line).sec = s.sec := rfl
@[simp] theorem State.poisonLine_nonce (s : State) (line : Nat) : (s.poisonLine line).nonce = s.nonce := rfl
@[simp] theorem State.poisonLine_boot (s : State) (line : Nat) : (s.poisonLine line).boot = s.boot := rfl
@[simp] theorem State.poisonLine_mgmt (s : State) (line : Nat) : (s.poisonLine line).mgmt = s.mgmt := rfl
@[simp] theorem State.poisonLine_out (s : State) (line : Nat) : (s.poisonLine line).out = s.out := rfl

@[simp] theorem State.curePoison_pending (s : State) (line : Nat) : (s.curePoison line).pending = s.pending := rfl
@[simp] theorem State.curePoison_regs (s : State) (line : Nat) : (s.curePoison line).regs = s.regs := rfl
@[simp] theorem State.curePoison_seqs (s : State) (line : Nat) : (s.curePoison line).seqs = s.seqs := rfl
@[simp] theorem State.curePoison_free (s : State) (line : Nat) : (s.curePoison line).free = s.free := rfl
@[simp] theorem State.curePoison_extents (s : State) (line : Nat) : (s.curePoison line).extents = s.extents := rfl
@[simp] theorem State.curePoison_revoking (s : State) (line : Nat) : (s.curePoison line).revoking = s.revoking := rfl
@[simp] theorem State.curePoison_cad (s : State) (line : Nat) : (s.curePoison line).cad = s.cad := rfl
@[simp] theorem State.curePoison_stk (s : State) (line : Nat) : (s.curePoison line).stk = s.stk := rfl
@[simp] theorem State.curePoison_paths (s : State) (line : Nat) : (s.curePoison line).paths = s.paths := rfl
@[simp] theorem State.curePoison_tier (s : State) (line : Nat) : (s.curePoison line).tier = s.tier := rfl
@[simp] theorem State.curePoison_tiles (s : State) (line : Nat) : (s.curePoison line).tiles = s.tiles := rfl
@[simp] theorem State.curePoison_tlc (s : State) (line : Nat) : (s.curePoison line).tlc = s.tlc := rfl
@[simp] theorem State.curePoison_tlcDown (s : State) (line : Nat) : (s.curePoison line).tlcDown = s.tlcDown := rfl
@[simp] theorem State.curePoison_coll (s : State) (line : Nat) : (s.curePoison line).coll = s.coll := rfl
@[simp] theorem State.curePoison_pnm (s : State) (line : Nat) : (s.curePoison line).pnm = s.pnm := rfl
@[simp] theorem State.curePoison_trav (s : State) (line : Nat) : (s.curePoison line).trav = s.trav := rfl
@[simp] theorem State.curePoison_xc (s : State) (line : Nat) : (s.curePoison line).xc = s.xc := rfl
@[simp] theorem State.curePoison_links (s : State) (line : Nat) : (s.curePoison line).links = s.links := rfl
@[simp] theorem State.curePoison_sw (s : State) (line : Nat) : (s.curePoison line).sw = s.sw := rfl
@[simp] theorem State.curePoison_traf (s : State) (line : Nat) : (s.curePoison line).traf = s.traf := rfl
@[simp] theorem State.curePoison_roce (s : State) (line : Nat) : (s.curePoison line).roce = s.roce := rfl
@[simp] theorem State.curePoison_parcels (s : State) (line : Nat) : (s.curePoison line).parcels = s.parcels := rfl
@[simp] theorem State.curePoison_recov (s : State) (line : Nat) : (s.curePoison line).recov = s.recov := rfl
@[simp] theorem State.curePoison_sec (s : State) (line : Nat) : (s.curePoison line).sec = s.sec := rfl
@[simp] theorem State.curePoison_nonce (s : State) (line : Nat) : (s.curePoison line).nonce = s.nonce := rfl
@[simp] theorem State.curePoison_boot (s : State) (line : Nat) : (s.curePoison line).boot = s.boot := rfl
@[simp] theorem State.curePoison_mgmt (s : State) (line : Nat) : (s.curePoison line).mgmt = s.mgmt := rfl
@[simp] theorem State.curePoison_out (s : State) (line : Nat) : (s.curePoison line).out = s.out := rfl

@[simp] theorem State.writeMask_pending (s : State) (a mask : Nat) (bs : List Byte) : (s.writeMask a mask bs).pending = s.pending := rfl
@[simp] theorem State.writeMask_regs (s : State) (a mask : Nat) (bs : List Byte) : (s.writeMask a mask bs).regs = s.regs := rfl
@[simp] theorem State.writeMask_seqs (s : State) (a mask : Nat) (bs : List Byte) : (s.writeMask a mask bs).seqs = s.seqs := rfl
@[simp] theorem State.writeMask_free (s : State) (a mask : Nat) (bs : List Byte) : (s.writeMask a mask bs).free = s.free := rfl
@[simp] theorem State.writeMask_extents (s : State) (a mask : Nat) (bs : List Byte) : (s.writeMask a mask bs).extents = s.extents := rfl
@[simp] theorem State.writeMask_revoking (s : State) (a mask : Nat) (bs : List Byte) : (s.writeMask a mask bs).revoking = s.revoking := rfl
@[simp] theorem State.writeMask_cad (s : State) (a mask : Nat) (bs : List Byte) : (s.writeMask a mask bs).cad = s.cad := rfl
@[simp] theorem State.writeMask_stk (s : State) (a mask : Nat) (bs : List Byte) : (s.writeMask a mask bs).stk = s.stk := rfl
@[simp] theorem State.writeMask_paths (s : State) (a mask : Nat) (bs : List Byte) : (s.writeMask a mask bs).paths = s.paths := rfl
@[simp] theorem State.writeMask_tier (s : State) (a mask : Nat) (bs : List Byte) : (s.writeMask a mask bs).tier = s.tier := rfl
@[simp] theorem State.writeMask_tiles (s : State) (a mask : Nat) (bs : List Byte) : (s.writeMask a mask bs).tiles = s.tiles := rfl
@[simp] theorem State.writeMask_tlc (s : State) (a mask : Nat) (bs : List Byte) : (s.writeMask a mask bs).tlc = s.tlc := rfl
@[simp] theorem State.writeMask_tlcDown (s : State) (a mask : Nat) (bs : List Byte) : (s.writeMask a mask bs).tlcDown = s.tlcDown := rfl
@[simp] theorem State.writeMask_coll (s : State) (a mask : Nat) (bs : List Byte) : (s.writeMask a mask bs).coll = s.coll := rfl
@[simp] theorem State.writeMask_pnm (s : State) (a mask : Nat) (bs : List Byte) : (s.writeMask a mask bs).pnm = s.pnm := rfl
@[simp] theorem State.writeMask_trav (s : State) (a mask : Nat) (bs : List Byte) : (s.writeMask a mask bs).trav = s.trav := rfl
@[simp] theorem State.writeMask_xc (s : State) (a mask : Nat) (bs : List Byte) : (s.writeMask a mask bs).xc = s.xc := rfl
@[simp] theorem State.writeMask_links (s : State) (a mask : Nat) (bs : List Byte) : (s.writeMask a mask bs).links = s.links := rfl
@[simp] theorem State.writeMask_sw (s : State) (a mask : Nat) (bs : List Byte) : (s.writeMask a mask bs).sw = s.sw := rfl
@[simp] theorem State.writeMask_traf (s : State) (a mask : Nat) (bs : List Byte) : (s.writeMask a mask bs).traf = s.traf := rfl
@[simp] theorem State.writeMask_roce (s : State) (a mask : Nat) (bs : List Byte) : (s.writeMask a mask bs).roce = s.roce := rfl
@[simp] theorem State.writeMask_parcels (s : State) (a mask : Nat) (bs : List Byte) : (s.writeMask a mask bs).parcels = s.parcels := rfl
@[simp] theorem State.writeMask_recov (s : State) (a mask : Nat) (bs : List Byte) : (s.writeMask a mask bs).recov = s.recov := rfl
@[simp] theorem State.writeMask_sec (s : State) (a mask : Nat) (bs : List Byte) : (s.writeMask a mask bs).sec = s.sec := rfl
@[simp] theorem State.writeMask_nonce (s : State) (a mask : Nat) (bs : List Byte) : (s.writeMask a mask bs).nonce = s.nonce := rfl
@[simp] theorem State.writeMask_boot (s : State) (a mask : Nat) (bs : List Byte) : (s.writeMask a mask bs).boot = s.boot := rfl
@[simp] theorem State.writeMask_mgmt (s : State) (a mask : Nat) (bs : List Byte) : (s.writeMask a mask bs).mgmt = s.mgmt := rfl
@[simp] theorem State.writeMask_out (s : State) (a mask : Nat) (bs : List Byte) : (s.writeMask a mask bs).out = s.out := rfl

@[simp] theorem State.zeroMem_pending (s : State) (lo hi : Nat) : (s.zeroMem lo hi).pending = s.pending := rfl
@[simp] theorem State.zeroMem_regs (s : State) (lo hi : Nat) : (s.zeroMem lo hi).regs = s.regs := rfl
@[simp] theorem State.zeroMem_seqs (s : State) (lo hi : Nat) : (s.zeroMem lo hi).seqs = s.seqs := rfl
@[simp] theorem State.zeroMem_free (s : State) (lo hi : Nat) : (s.zeroMem lo hi).free = s.free := rfl
@[simp] theorem State.zeroMem_extents (s : State) (lo hi : Nat) : (s.zeroMem lo hi).extents = s.extents := rfl
@[simp] theorem State.zeroMem_revoking (s : State) (lo hi : Nat) : (s.zeroMem lo hi).revoking = s.revoking := rfl
@[simp] theorem State.zeroMem_cad (s : State) (lo hi : Nat) : (s.zeroMem lo hi).cad = s.cad := rfl
@[simp] theorem State.zeroMem_stk (s : State) (lo hi : Nat) : (s.zeroMem lo hi).stk = s.stk := rfl
@[simp] theorem State.zeroMem_paths (s : State) (lo hi : Nat) : (s.zeroMem lo hi).paths = s.paths := rfl
@[simp] theorem State.zeroMem_tier (s : State) (lo hi : Nat) : (s.zeroMem lo hi).tier = s.tier := rfl
@[simp] theorem State.zeroMem_tiles (s : State) (lo hi : Nat) : (s.zeroMem lo hi).tiles = s.tiles := rfl
@[simp] theorem State.zeroMem_tlc (s : State) (lo hi : Nat) : (s.zeroMem lo hi).tlc = s.tlc := rfl
@[simp] theorem State.zeroMem_tlcDown (s : State) (lo hi : Nat) : (s.zeroMem lo hi).tlcDown = s.tlcDown := rfl
@[simp] theorem State.zeroMem_coll (s : State) (lo hi : Nat) : (s.zeroMem lo hi).coll = s.coll := rfl
@[simp] theorem State.zeroMem_pnm (s : State) (lo hi : Nat) : (s.zeroMem lo hi).pnm = s.pnm := rfl
@[simp] theorem State.zeroMem_trav (s : State) (lo hi : Nat) : (s.zeroMem lo hi).trav = s.trav := rfl
@[simp] theorem State.zeroMem_xc (s : State) (lo hi : Nat) : (s.zeroMem lo hi).xc = s.xc := rfl
@[simp] theorem State.zeroMem_links (s : State) (lo hi : Nat) : (s.zeroMem lo hi).links = s.links := rfl
@[simp] theorem State.zeroMem_sw (s : State) (lo hi : Nat) : (s.zeroMem lo hi).sw = s.sw := rfl
@[simp] theorem State.zeroMem_traf (s : State) (lo hi : Nat) : (s.zeroMem lo hi).traf = s.traf := rfl
@[simp] theorem State.zeroMem_roce (s : State) (lo hi : Nat) : (s.zeroMem lo hi).roce = s.roce := rfl
@[simp] theorem State.zeroMem_parcels (s : State) (lo hi : Nat) : (s.zeroMem lo hi).parcels = s.parcels := rfl
@[simp] theorem State.zeroMem_recov (s : State) (lo hi : Nat) : (s.zeroMem lo hi).recov = s.recov := rfl
@[simp] theorem State.zeroMem_sec (s : State) (lo hi : Nat) : (s.zeroMem lo hi).sec = s.sec := rfl
@[simp] theorem State.zeroMem_nonce (s : State) (lo hi : Nat) : (s.zeroMem lo hi).nonce = s.nonce := rfl
@[simp] theorem State.zeroMem_boot (s : State) (lo hi : Nat) : (s.zeroMem lo hi).boot = s.boot := rfl
@[simp] theorem State.zeroMem_mgmt (s : State) (lo hi : Nat) : (s.zeroMem lo hi).mgmt = s.mgmt := rfl
@[simp] theorem State.zeroMem_out (s : State) (lo hi : Nat) : (s.zeroMem lo hi).out = s.out := rfl

@[simp] theorem State.count_pending (s : State) (page k n : Nat) : (s.count page k n).pending = s.pending := by unfold State.count; split <;> rfl
@[simp] theorem State.count_seqs (s : State) (page k n : Nat) : (s.count page k n).seqs = s.seqs := by unfold State.count; split <;> rfl
@[simp] theorem State.count_free (s : State) (page k n : Nat) : (s.count page k n).free = s.free := by unfold State.count; split <;> rfl
@[simp] theorem State.count_mem (s : State) (page k n : Nat) : (s.count page k n).mem = s.mem := by unfold State.count; split <;> rfl
@[simp] theorem State.count_extents (s : State) (page k n : Nat) : (s.count page k n).extents = s.extents := by unfold State.count; split <;> rfl
@[simp] theorem State.count_revoking (s : State) (page k n : Nat) : (s.count page k n).revoking = s.revoking := by unfold State.count; split <;> rfl
@[simp] theorem State.count_cad (s : State) (page k n : Nat) : (s.count page k n).cad = s.cad := by unfold State.count; split <;> rfl
@[simp] theorem State.count_stk (s : State) (page k n : Nat) : (s.count page k n).stk = s.stk := by unfold State.count; split <;> rfl
@[simp] theorem State.count_paths (s : State) (page k n : Nat) : (s.count page k n).paths = s.paths := by unfold State.count; split <;> rfl
@[simp] theorem State.count_tier (s : State) (page k n : Nat) : (s.count page k n).tier = s.tier := by unfold State.count; split <;> rfl
@[simp] theorem State.count_tiles (s : State) (page k n : Nat) : (s.count page k n).tiles = s.tiles := by unfold State.count; split <;> rfl
@[simp] theorem State.count_tlc (s : State) (page k n : Nat) : (s.count page k n).tlc = s.tlc := by unfold State.count; split <;> rfl
@[simp] theorem State.count_tlcDown (s : State) (page k n : Nat) : (s.count page k n).tlcDown = s.tlcDown := by unfold State.count; split <;> rfl
@[simp] theorem State.count_coll (s : State) (page k n : Nat) : (s.count page k n).coll = s.coll := by unfold State.count; split <;> rfl
@[simp] theorem State.count_pnm (s : State) (page k n : Nat) : (s.count page k n).pnm = s.pnm := by unfold State.count; split <;> rfl
@[simp] theorem State.count_trav (s : State) (page k n : Nat) : (s.count page k n).trav = s.trav := by unfold State.count; split <;> rfl
@[simp] theorem State.count_xc (s : State) (page k n : Nat) : (s.count page k n).xc = s.xc := by unfold State.count; split <;> rfl
@[simp] theorem State.count_links (s : State) (page k n : Nat) : (s.count page k n).links = s.links := by unfold State.count; split <;> rfl
@[simp] theorem State.count_sw (s : State) (page k n : Nat) : (s.count page k n).sw = s.sw := by unfold State.count; split <;> rfl
@[simp] theorem State.count_traf (s : State) (page k n : Nat) : (s.count page k n).traf = s.traf := by unfold State.count; split <;> rfl
@[simp] theorem State.count_roce (s : State) (page k n : Nat) : (s.count page k n).roce = s.roce := by unfold State.count; split <;> rfl
@[simp] theorem State.count_parcels (s : State) (page k n : Nat) : (s.count page k n).parcels = s.parcels := by unfold State.count; split <;> rfl
@[simp] theorem State.count_recov (s : State) (page k n : Nat) : (s.count page k n).recov = s.recov := by unfold State.count; split <;> rfl
@[simp] theorem State.count_sec (s : State) (page k n : Nat) : (s.count page k n).sec = s.sec := by unfold State.count; split <;> rfl
@[simp] theorem State.count_nonce (s : State) (page k n : Nat) : (s.count page k n).nonce = s.nonce := by unfold State.count; split <;> rfl
@[simp] theorem State.count_boot (s : State) (page k n : Nat) : (s.count page k n).boot = s.boot := by unfold State.count; split <;> rfl
@[simp] theorem State.count_mgmt (s : State) (page k n : Nat) : (s.count page k n).mgmt = s.mgmt := by unfold State.count; split <;> rfl
@[simp] theorem State.count_out (s : State) (page k n : Nat) : (s.count page k n).out = s.out := by unfold State.count; split <;> rfl

@[simp] theorem State.setFld_pending (s : State) (c hi lo v : Nat) : (s.setFld c hi lo v).pending = s.pending := rfl
@[simp] theorem State.setFld_seqs (s : State) (c hi lo v : Nat) : (s.setFld c hi lo v).seqs = s.seqs := rfl
@[simp] theorem State.setFld_free (s : State) (c hi lo v : Nat) : (s.setFld c hi lo v).free = s.free := rfl
@[simp] theorem State.setFld_mem (s : State) (c hi lo v : Nat) : (s.setFld c hi lo v).mem = s.mem := rfl
@[simp] theorem State.setFld_extents (s : State) (c hi lo v : Nat) : (s.setFld c hi lo v).extents = s.extents := rfl
@[simp] theorem State.setFld_revoking (s : State) (c hi lo v : Nat) : (s.setFld c hi lo v).revoking = s.revoking := rfl
@[simp] theorem State.setFld_cad (s : State) (c hi lo v : Nat) : (s.setFld c hi lo v).cad = s.cad := rfl
@[simp] theorem State.setFld_stk (s : State) (c hi lo v : Nat) : (s.setFld c hi lo v).stk = s.stk := rfl
@[simp] theorem State.setFld_paths (s : State) (c hi lo v : Nat) : (s.setFld c hi lo v).paths = s.paths := rfl
@[simp] theorem State.setFld_tier (s : State) (c hi lo v : Nat) : (s.setFld c hi lo v).tier = s.tier := rfl
@[simp] theorem State.setFld_tiles (s : State) (c hi lo v : Nat) : (s.setFld c hi lo v).tiles = s.tiles := rfl
@[simp] theorem State.setFld_tlc (s : State) (c hi lo v : Nat) : (s.setFld c hi lo v).tlc = s.tlc := rfl
@[simp] theorem State.setFld_tlcDown (s : State) (c hi lo v : Nat) : (s.setFld c hi lo v).tlcDown = s.tlcDown := rfl
@[simp] theorem State.setFld_coll (s : State) (c hi lo v : Nat) : (s.setFld c hi lo v).coll = s.coll := rfl
@[simp] theorem State.setFld_pnm (s : State) (c hi lo v : Nat) : (s.setFld c hi lo v).pnm = s.pnm := rfl
@[simp] theorem State.setFld_trav (s : State) (c hi lo v : Nat) : (s.setFld c hi lo v).trav = s.trav := rfl
@[simp] theorem State.setFld_xc (s : State) (c hi lo v : Nat) : (s.setFld c hi lo v).xc = s.xc := rfl
@[simp] theorem State.setFld_links (s : State) (c hi lo v : Nat) : (s.setFld c hi lo v).links = s.links := rfl
@[simp] theorem State.setFld_sw (s : State) (c hi lo v : Nat) : (s.setFld c hi lo v).sw = s.sw := rfl
@[simp] theorem State.setFld_traf (s : State) (c hi lo v : Nat) : (s.setFld c hi lo v).traf = s.traf := rfl
@[simp] theorem State.setFld_roce (s : State) (c hi lo v : Nat) : (s.setFld c hi lo v).roce = s.roce := rfl
@[simp] theorem State.setFld_parcels (s : State) (c hi lo v : Nat) : (s.setFld c hi lo v).parcels = s.parcels := rfl
@[simp] theorem State.setFld_recov (s : State) (c hi lo v : Nat) : (s.setFld c hi lo v).recov = s.recov := rfl
@[simp] theorem State.setFld_sec (s : State) (c hi lo v : Nat) : (s.setFld c hi lo v).sec = s.sec := rfl
@[simp] theorem State.setFld_nonce (s : State) (c hi lo v : Nat) : (s.setFld c hi lo v).nonce = s.nonce := rfl
@[simp] theorem State.setFld_boot (s : State) (c hi lo v : Nat) : (s.setFld c hi lo v).boot = s.boot := rfl
@[simp] theorem State.setFld_mgmt (s : State) (c hi lo v : Nat) : (s.setFld c hi lo v).mgmt = s.mgmt := rfl
@[simp] theorem State.setFld_out (s : State) (c hi lo v : Nat) : (s.setFld c hi lo v).out = s.out := rfl

@[simp] theorem State.setBit_pending (s : State) (c i : Nat) (b : Bool) : (s.setBit c i b).pending = s.pending := rfl
@[simp] theorem State.setBit_seqs (s : State) (c i : Nat) (b : Bool) : (s.setBit c i b).seqs = s.seqs := rfl
@[simp] theorem State.setBit_free (s : State) (c i : Nat) (b : Bool) : (s.setBit c i b).free = s.free := rfl
@[simp] theorem State.setBit_mem (s : State) (c i : Nat) (b : Bool) : (s.setBit c i b).mem = s.mem := rfl
@[simp] theorem State.setBit_extents (s : State) (c i : Nat) (b : Bool) : (s.setBit c i b).extents = s.extents := rfl
@[simp] theorem State.setBit_revoking (s : State) (c i : Nat) (b : Bool) : (s.setBit c i b).revoking = s.revoking := rfl
@[simp] theorem State.setBit_cad (s : State) (c i : Nat) (b : Bool) : (s.setBit c i b).cad = s.cad := rfl
@[simp] theorem State.setBit_stk (s : State) (c i : Nat) (b : Bool) : (s.setBit c i b).stk = s.stk := rfl
@[simp] theorem State.setBit_paths (s : State) (c i : Nat) (b : Bool) : (s.setBit c i b).paths = s.paths := rfl
@[simp] theorem State.setBit_tier (s : State) (c i : Nat) (b : Bool) : (s.setBit c i b).tier = s.tier := rfl
@[simp] theorem State.setBit_tiles (s : State) (c i : Nat) (b : Bool) : (s.setBit c i b).tiles = s.tiles := rfl
@[simp] theorem State.setBit_tlc (s : State) (c i : Nat) (b : Bool) : (s.setBit c i b).tlc = s.tlc := rfl
@[simp] theorem State.setBit_tlcDown (s : State) (c i : Nat) (b : Bool) : (s.setBit c i b).tlcDown = s.tlcDown := rfl
@[simp] theorem State.setBit_coll (s : State) (c i : Nat) (b : Bool) : (s.setBit c i b).coll = s.coll := rfl
@[simp] theorem State.setBit_pnm (s : State) (c i : Nat) (b : Bool) : (s.setBit c i b).pnm = s.pnm := rfl
@[simp] theorem State.setBit_trav (s : State) (c i : Nat) (b : Bool) : (s.setBit c i b).trav = s.trav := rfl
@[simp] theorem State.setBit_xc (s : State) (c i : Nat) (b : Bool) : (s.setBit c i b).xc = s.xc := rfl
@[simp] theorem State.setBit_links (s : State) (c i : Nat) (b : Bool) : (s.setBit c i b).links = s.links := rfl
@[simp] theorem State.setBit_sw (s : State) (c i : Nat) (b : Bool) : (s.setBit c i b).sw = s.sw := rfl
@[simp] theorem State.setBit_traf (s : State) (c i : Nat) (b : Bool) : (s.setBit c i b).traf = s.traf := rfl
@[simp] theorem State.setBit_roce (s : State) (c i : Nat) (b : Bool) : (s.setBit c i b).roce = s.roce := rfl
@[simp] theorem State.setBit_parcels (s : State) (c i : Nat) (b : Bool) : (s.setBit c i b).parcels = s.parcels := rfl
@[simp] theorem State.setBit_recov (s : State) (c i : Nat) (b : Bool) : (s.setBit c i b).recov = s.recov := rfl
@[simp] theorem State.setBit_sec (s : State) (c i : Nat) (b : Bool) : (s.setBit c i b).sec = s.sec := rfl
@[simp] theorem State.setBit_nonce (s : State) (c i : Nat) (b : Bool) : (s.setBit c i b).nonce = s.nonce := rfl
@[simp] theorem State.setBit_boot (s : State) (c i : Nat) (b : Bool) : (s.setBit c i b).boot = s.boot := rfl
@[simp] theorem State.setBit_mgmt (s : State) (c i : Nat) (b : Bool) : (s.setBit c i b).mgmt = s.mgmt := rfl
@[simp] theorem State.setBit_out (s : State) (c i : Nat) (b : Bool) : (s.setBit c i b).out = s.out := rfl

/-! ### What was written is read back -/

@[simp] theorem State.ext_setExt_self (s : State) (n : Nat) (x : Extent) : (s.setExt n x).ext n = x := by simp [State.ext, State.setExt]
theorem State.ext_setExt_ne (s : State) (n k : Nat) (x : Extent) (h : k ≠ n) : (s.setExt n x).ext k = s.ext k := by
  simp [State.ext, State.setExt, kgetD_kset_ne _ _ _ _ _ h]
@[simp] theorem State.link_setLink_self (s : State) (n : Nat) (x : Link) : (s.setLink n x).link n = x := by simp [State.link, State.setLink]
theorem State.link_setLink_ne (s : State) (n k : Nat) (x : Link) (h : k ≠ n) : (s.setLink n x).link k = s.link k := by
  simp [State.link, State.setLink, kgetD_kset_ne _ _ _ _ _ h]
@[simp] theorem State.stake_setStake_self (s : State) (n : Nat) (x : Stake) : (s.setStake n x).stake n = x := by simp [State.stake, State.setStake]
theorem State.stake_setStake_ne (s : State) (n k : Nat) (x : Stake) (h : k ≠ n) : (s.setStake n x).stake k = s.stake k := by
  simp [State.stake, State.setStake, kgetD_kset_ne _ _ _ _ _ h]
@[simp] theorem State.path_setPath_self (s : State) (n : Nat) (x : Path) : (s.setPath n x).path n = x := by simp [State.path, State.setPath]
theorem State.path_setPath_ne (s : State) (n k : Nat) (x : Path) (h : k ≠ n) : (s.setPath n x).path k = s.path k := by
  simp [State.path, State.setPath, kgetD_kset_ne _ _ _ _ _ h]
@[simp] theorem State.tile_setTile_self (s : State) (n : Nat) (x : Tile) : (s.setTile n x).tile n = x := by simp [State.tile, State.setTile]
theorem State.tile_setTile_ne (s : State) (n k : Nat) (x : Tile) (h : k ≠ n) : (s.setTile n x).tile k = s.tile k := by
  simp [State.tile, State.setTile, kgetD_kset_ne _ _ _ _ _ h]
@[simp] theorem State.pnmQ_setPnmQ_self (s : State) (n : Nat) (x : PnmQueue) : (s.setPnmQ n x).pnmQ n = x := by simp [State.pnmQ, State.setPnmQ]
theorem State.pnmQ_setPnmQ_ne (s : State) (n k : Nat) (x : PnmQueue) (h : k ≠ n) : (s.setPnmQ n x).pnmQ k = s.pnmQ k := by
  simp [State.pnmQ, State.setPnmQ, kgetD_kset_ne _ _ _ _ _ h]
@[simp] theorem State.pcl_setPcl_self (s : State) (n : Nat) (x : Parcel) : (s.setPcl n x).pcl n = x := by simp [State.pcl, State.setPcl]
theorem State.pcl_setPcl_ne (s : State) (n k : Nat) (x : Parcel) (h : k ≠ n) : (s.setPcl n x).pcl k = s.pcl k := by
  simp [State.pcl, State.setPcl, kgetD_kset_ne _ _ _ _ _ h]
@[simp] theorem State.qp_setQp_self (s : State) (n : Nat) (x : Qp) : (s.setQp n x).qp n = x := by simp [State.qp, State.setQp]
theorem State.qp_setQp_ne (s : State) (n k : Nat) (x : Qp) (h : k ≠ n) : (s.setQp n x).qp k = s.qp k := by
  simp [State.qp, State.setQp, kgetD_kset_ne _ _ _ _ _ h]
@[simp] theorem State.eth_setEth_self (s : State) (n : Nat) (x : EthPort) : (s.setEth n x).eth n = x := by simp [State.eth, State.setEth]
theorem State.eth_setEth_ne (s : State) (n k : Nat) (x : EthPort) (h : k ≠ n) : (s.setEth n x).eth k = s.eth k := by
  simp [State.eth, State.setEth, kgetD_kset_ne _ _ _ _ _ h]
@[simp] theorem State.mr_setMr_self (s : State) (n : Nat) (x : Mr) : (s.setMr n x).mr n = x := by simp [State.mr, State.setMr]
theorem State.mr_setMr_ne (s : State) (n k : Nat) (x : Mr) (h : k ≠ n) : (s.setMr n x).mr k = s.mr k := by
  simp [State.mr, State.setMr, kgetD_kset_ne _ _ _ _ _ h]
@[simp] theorem State.ring_setRing_self (s : State) (n : Nat) (x : Ring) : (s.setRing n x).ring n = x := by simp [State.ring, State.setRing]
theorem State.ring_setRing_ne (s : State) (n k : Nat) (x : Ring) (h : k ≠ n) : (s.setRing n x).ring k = s.ring k := by
  simp [State.ring, State.setRing, kgetD_kset_ne _ _ _ _ _ h]
@[simp] theorem State.meter_setMeter_self (s : State) (n : Nat) (x : Meter) : (s.setMeter n x).meter n = x := by simp [State.meter, State.setMeter]
theorem State.meter_setMeter_ne (s : State) (n k : Nat) (x : Meter) (h : k ≠ n) : (s.setMeter n x).meter k = s.meter k := by
  simp [State.meter, State.setMeter, kgetD_kset_ne _ _ _ _ _ h]
@[simp] theorem State.shaper_setShaper_self (s : State) (n : Nat) (x : Shaper) : (s.setShaper n x).shaper n = x := by simp [State.shaper, State.setShaper]
theorem State.shaper_setShaper_ne (s : State) (n k : Nat) (x : Shaper) (h : k ≠ n) : (s.setShaper n x).shaper k = s.shaper k := by
  simp [State.shaper, State.setShaper, kgetD_kset_ne _ _ _ _ _ h]
@[simp] theorem State.book_setBook_self (s : State) (n : Nat) (x : Book) : (s.setBook n x).book n = x := by simp [State.book, State.setBook]
theorem State.book_setBook_ne (s : State) (n k : Nat) (x : Book) (h : k ≠ n) : (s.setBook n x).book k = s.book k := by
  simp [State.book, State.setBook, kgetD_kset_ne _ _ _ _ _ h]
@[simp] theorem State.twinCol_setTwinCol_self (s : State) (n : Nat) (x : TwinCol) : (s.setTwinCol n x).twinCol n = x := by simp [State.twinCol, State.setTwinCol]
theorem State.twinCol_setTwinCol_ne (s : State) (n k : Nat) (x : TwinCol) (h : k ≠ n) : (s.setTwinCol n x).twinCol k = s.twinCol k := by
  simp [State.twinCol, State.setTwinCol, kgetD_kset_ne _ _ _ _ _ h]
@[simp] theorem State.fblock_setBlock_self (s : State) (n : Nat) (x : FBlock) : (s.setBlock n x).fblock n = x := by simp [State.fblock, State.setBlock]
theorem State.fblock_setBlock_ne (s : State) (n k : Nat) (x : FBlock) (h : k ≠ n) : (s.setBlock n x).fblock k = s.fblock k := by
  simp [State.fblock, State.setBlock, kgetD_kset_ne _ _ _ _ _ h]
@[simp] theorem State.cadSlice_modSlice_self (s : State) (n : Nat) (f : CadSlice → CadSlice) : (s.modSlice n f).cadSlice n = f (s.cadSlice n) := by
  simp [State.cadSlice, State.modSlice]
theorem State.cadSlice_modSlice_ne (s : State) (n k : Nat) (f : CadSlice → CadSlice) (h : k ≠ n) : (s.modSlice n f).cadSlice k = s.cadSlice k := by
  simp [State.cadSlice, State.modSlice, kgetD_kset_ne _ _ _ _ _ h]
@[simp] theorem State.ctx_setCtx_self (s : State) (t c : Nat) (x : Ctx) : (s.setCtx t c x).ctx t c = x := by
  simp [State.ctx, State.setCtx]

end Sys2Proof.Machine
end

