-- ==== Sys2Proof/Tests/Slice0.lean ====
section
/-!
SUPPORT. Small states and packets, well-formedness at work, and for each statement states and operands that meet its hypotheses.
-/
namespace Sys2Proof.Machine

set_option Elab.async false
set_option linter.unusedVariables false

/-- Parcel 0 is ACTIVE, binds job tag 0 and holds stake group 0; extent 0 is its versioned window of one page that shows extent 2, and extent
1 its staging extent. -/
def tGranted : State :=
  let s := ((((State.reset.setPclState 0 2).setReg (rPclGrant 0 7) 1).setReg (rPclGrant 0 4) 1).setReg (rStkWaitLimit 0) 1)
  { s with extents := [
      (0, { owner := 0, base := 0x200000000000, pages := 1, rd := true, vers := true, visible := 2, state := .valid }),
      (1, { owner := 0, base := 0, pages := 1, rd := true, wr := true, state := .valid }),
      (2, { owner := 0, base := 0x1000, pages := 1, rd := true, wr := true, state := .valid })] }

/-- A request on stake 0 with an OPERAND and a WAIT, scope LINE. -/
def tStakeReq (op : BitVec 8) (operand wait : Nat) : Packet :=
  { opcode := op, len := 16, gfa := 0x3FFE00000000, payload := leBytes 8 operand ++ leBytes 8 (wait * 2 ^ 16) }

def tParked : Parked := { stake := 0, target := 1, scope := 0, req := {} }

/-- One tracked request with a purpose. -/
def tTracked (u : Purpose) (op : BitVec 8) : State :=
  { State.reset with recov := { trackers := [{ req := { opcode := op }, purpose := u, dest := 0 }] } }

/-- As `tGranted`, with extent 3 a coherent window of one page, its lines homed at slice 2, and every slice ready. -/
def tCoherent : State :=
  let s := (List.range 4).foldl (fun s n => (s.setBit (rCadCtl n) 0 true).setBit (rCadStat n) 0 true) tGranted
  { s with extents := s.extents ++ [(3, { owner := 0, base := 0x2000, pages := 1, rd := true, wr := true, coh := true, state := .valid })] }

/-- The proxy entry of a line of Tiolo 1 that no local agent holds any longer. -/
def tProxyHolds : State := State.reset.putEntry 2 0x8000000040 { gstate := .s }

/-- Replication runs in slice 2 with room for one page. -/
def tReplica : State := (tCoherent.setBit (rCadCtl 2) 2 true).setReg (rCadReplCtl 2) (2 ^ 32)

/-- The same, extent 3 replicable, and every line of its page held here. -/
def tReplPage : State :=
  let s := { tReplica with extents := tReplica.extents.map (fun (e : Nat × Extent) => if e.1 == 3 then (3, { e.2 with repl := true }) else e) }
  s.modSlice 2 (fun c => { c with entries := (pageLines 2).map (fun k => (k, ({} : DirEntry).addSharer 32)), lru := pageLines 2 })

/-- A request of one cell for port 5, admitted, and the state after reset with one packet in the buffer. -/
def tStored : Stored := { id := 0, pkt := { opcode := 0x01 }, input := 5, cells := 1, account := none, admitted := true, outs := [(5, 0)] }
def tBuffer (x : Stored) : State := { State.reset with sw := { buf := [x], nextId := 1 } }

def tSample : Sample := { seq := 0, port := 0, cls := 0, trunc := false, masked := false, len := 0, cycle := 0, k := 0, pkt := {}, dropped := 0 }

/-- A 64 B tier descriptor of scope TIOLO: object, offset, addresses, length; its record at 0. -/
def tDesc (obj off a b len : Nat) : Packet :=
  { len := 64, agent := 0x900, payload := leBytes 8 0x100 ++ leBytes 8 obj ++ leBytes 8 off ++ leBytes 8 a ++ leBytes 8 b ++ leBytes 8 len ++
    leBytes 8 0 ++ leBytes 8 0 }

/-- As `tGranted`, with mounted and writable tiers, one flash target, the tier cache on, quotas, object 5 of one unit, extent 3 a cached window of
the first module page, and that page in a frame. -/
def tTier : State :=
  let s := (((((tGranted.setBit rTlStat 0 true).setBit rTierWe 0 true).setBit rTierWe 1 true).setBit rTcPool 0 true).setReg (rFcStat 0) 0x101)
  { s with
    tier := { objs := [(5, { owner := 0, size := 1, key := 1 })], quotas := [(0, { t0 := 16, t1 := 16, t2 := 16, objs := 16 })],
              frames := [(0x100000000, { parcel := 0, pool := 0x7000000000 })] }
    extents := s.extents ++ [(3, { owner := 0, base := 0x100000000000, pages := 1, rd := true, wr := true, wb := true, state := .valid })] }

def tEndedCmd : TierCmd := { id := 3, parcel := 0, op := 1, desc := [], req := {}, phase := .ended }
def tEnded : State := { State.reset with tier := { cmds := [tEndedCmd] } }

/-- One unit in block 4 of a mounted, writable T2 with one target; block 5 is worn. -/
def tFlash : State :=
  let s := ((State.reset.setBit rTlStat 0 true).setBit rTierWe 1 true).setReg (rFcStat 0) 0x101
  { s.setFld rTlCtl 63 48 1 with tier := { units := [(0, { block := 4 })], blocks := [(5, { erases := 9 })] } }

/-- A tile instruction word from its fields (R205). -/
def tWord (op fmt dst s1 s2 s3 dt imm : Nat) : Nat :=
  op * 2 ^ 56 + fmt * 2 ^ 52 + dst * 2 ^ 46 + s1 * 2 ^ 40 + s2 * 2 ^ 34 + s3 * 2 ^ 28 + dt * 2 ^ 24 + imm

/-- Context 0 of tile 0 runs at PC 0, where this word stands, with lane 0 and some registers set. -/
def tTileAt (w : Nat) : State :=
  { State.reset with tiles := [(0, {
      sram := memWrite [] 0 (leBytes 8 w)
      lanes := [(0, { owner := some 0 })]
      ctxs := [(0, { state := .running, s := [(1, 5), (2, 3)], a := [(1, 0x40000)], p := [(1, 0x00FF)], lanes := [0],
                     v := [(1, 0x4000000040000000), (2, 0x3F80000041000000)] })] })] }

/-- The same, the context bound by binding 0 of KERNEL kind. -/
def tBound (w : Nat) : State :=
  let s := tTileAt w
  s.setTile 0 { (s.setCtx 0 0 { s.ctx 0 0 with bound := some 0 }).tile 0 with bindings := [(0, { ctx := 0, builtin := false, job := 0, plan := 0, flow := 0 })] }

/-- The same, its one binding's queue and what it delivered. -/
def tArrived (w : Nat) (q d : List Arrival) : State :=
  let s := tBound w
  s.setTile 0 { s.tile 0 with bindings := [(0, { ctx := 0, builtin := false, job := 0, plan := 0, flow := 0, queue := q, delivered := d })] }

/-- As `tTileAt`, the context READY. -/
def tReady (w : Nat) : State := let s := tTileAt w; s.setCtx 0 0 { s.ctx 0 0 with state := .ready }

/-- As `tTileAt`, with an error that cannot be corrected in the SRAM word that A1 names. -/
def tBadWord (w : Nat) : State := let s := tTileAt w; s.setTile 0 { s.tile 0 with eccBad := [0x8000] }

/-- The same with as many requests outstanding as a context may have. -/
def tFullSlots (w : Nat) : State :=
  let s := tTileAt w
  s.setCtx 0 0 { s.ctx 0 0 with outstanding := (List.range 64).map (fun k => { tid := BitVec.ofNat 16 k, use := .record }) }

/-- As `tTileAt`, with address 0x40000 in a coherent extent. -/
def tTileCoh (w : Nat) : State := { tTileAt w with extents := [(3, { owner := 0, base := 0x40000, pages := 1, rd := true, wr := true, coh := true, state := .valid })] }

/-- Context 0 of tile 0 in this state. -/
def tCtx (x : Ctx) : State := { State.reset with tiles := [(0, { ctxs := [(0, x)] })] }

/-- Tile 0 is enabled and belongs to parcel 0, which is ACTIVE and binds job tag 0. -/
def tTileOn : State := (tGranted.setReg (rTileCtl 0) 1).setReg (rPclGrant 0 1) 0xFFFF

/-- A descriptor with this first word waits in tile 0's queue. -/
def tQueued (w0 : Word) : State := { State.reset with tiles := [(0, { queue := [([w0, 0, 0, 7, 0, 0, 0, 9], {})] })] }

/-- Port 0 is a levelled ACCEL port. -/
def tAccel0 : State := ((tGranted.setFld (rPortRole 0) 2 0 roleAccel).setFld (rPortStat 0) 2 0 2)

/-- A plan of one stage on this Tiolo: this kind, word 2 and word 7, one chainage entry, port 0. -/
def tPlanBytes (kind w2 w7 : Nat) : List Byte :=
  leBytes 8 (7 + kind * 2 ^ 16 + 2 ^ 24) ++ leBytes 8 (128 + 2 ^ 24) ++ leBytes 8 w2 ++ leBytes 8 0 ++ leBytes 8 (1 + 2 ^ 24) ++ leBytes 8 0x100000 ++ leBytes 8 0 ++
    leBytes 8 w7 ++ leBytes 8 (2 ^ 16 + 2 ^ 56) ++ leBytes 8 80 ++ leBytes 4 0

/-- As `tAccel0`, with 1 GiB of datum area at 1 GiB, 16 slots, tile 0, and an ALLREDUCE plan at 0 in extent 3. -/
def tPlanMem : State :=
  let s := (tAccel0.setReg (rPclGrant 0 0) (1 + 2 ^ 16 + 16 * 2 ^ 32)).setReg (rPclGrant 0 1) 0xFFFF
  let s1 := s.setReg (rTileCtl 0) 1
  { s1 with mem := { s1.mem with cells := memWrite s1.mem.cells 0 (tPlanBytes 1 (1 + 1 * 2 ^ 8 + 1 * 2 ^ 32) 0) } }

/-- A 64 B plan descriptor: plan word, word 2. -/
def tPlanDesc (w1 w2 : Nat) : Packet :=
  { opcode := 0x02, len := 64, agent := 0x900, payload := leBytes 8 0x100 ++ leBytes 8 w1 ++ leBytes 8 w2 ++ leBytes 8 0 ++ leBytes 8 0 ++ leBytes 8 0 ++
      leBytes 8 0x2000 ++ leBytes 8 9 }

/-- A live plan 7 of job tag 0 with one stage of two endpoint sources, ports 0 and 1, that sends on to stage 1 at Tiolo 1. -/
def tStage : Stage := { number := 0, n := 2, next := 1, nextIdx := 3, tiles := [0], sources := [{ stage := false, ref := 0, len := 128 }, { stage := false, ref := 1, len := 128 }], outLen := 128 }
def tPlanOf (kind : Nat) : Plan :=
  { job := 0, plan := 7, parcel := 0, header := [BitVec.ofNat 64 (7 + kind * 2 ^ 16 + 2 * 2 ^ 24), BitVec.ofNat 64 (128 + 2 ^ 24), 1 + 2 ^ 8 + 2 ^ 32, 0, 1, 0x100000, 0, BitVec.ofNat 64 (2 ^ 48)],
    hosts := [0, 1], nexts := [1, 1], leaves := [0], spares := [2], stages := [tStage], slot := 0 }
def tLive (q : Plan) : State := { tAccel0 with coll := { plans := [q] } }

/-- The same, its stage the root, with index 1 of step 0 present, or of CUSTOM kind with a binding; slot 0 is armed for its first fill. -/
def tRoot (kind : Nat) : Plan :=
  { tPlanOf kind with stages := [{ tStage with next := 0, binds := [(0, 0, 0)], segments := [{ step := 0, off := 0, present := [(1, 0)], nodes := [((1, 1), { status := 0, data := leBytes 128 0x40000000 })] }] }] }
def tRootAt (q : Plan) : State := { tLive q with coll := { plans := [q], slots := [(0, { state := .armed, job := 0, plan := 7, base := 0x4000, lines := 1, fill := 1, due := 128 })] } }

/-- A contribution of 128 B of index `c`. -/
def tCol (c : Nat) : Packet := { opcode := 0x38, cls := 4, len := 128, agent := BitVec.ofNat 12 c, flow := 7, seqx := some (mkSeqx c 0 0 0 false), payload := leBytes 128 0x3F800000 }

/-- Result slot 0 of plan 7, in this state; 128 B of fill due, written. -/
def tSlotOf (st : SlotState) : RSlot := { state := st, job := 0, plan := 7, base := 0x4000, lines := 1, due := 128, segs := [(0, 128)] }
def tSlot (x : RSlot) : State := { tGranted with coll := { slots := [(0, x)] } }
/-- A 128 B read of result slot 0 through a view. -/
def tSlotRead (v : Nat) : Packet := { opcode := 0x01, len := 128, gfa := BitVec.ofNat 56 (stakeBase + 0x40000000 + v * 0x40000000) }

/-- As `tGranted`, with module slot 0 behind the UP MODULE port 0, its PNM enabled and writable, and extent 3 over its first MiB. -/
def tModule : State :=
  let s := ((((tGranted.setBit rTierWe 0 true).setFld (rPortRole 0) 2 0 3).setFld (rPortStat 0) 2 0 2).setBit (rPortCtl 0) 0 true).setBit (rModPnmCtl 0) 0 true
  let s1 := s.setSlot 0 true false
  { s1 with boot := { s1.boot with roleLocked := [0] }, extents := s1.extents ++ [(3, { owner := 0, base := slotBase 0, pages := 256, rd := true, wr := true, state := .valid })] }

/-- A PNM descriptor of one line of FP32: A, B and D in slot 0. -/
def tPnmDesc (op : Nat) : List Word :=
  [BitVec.ofNat 64 (op + 0x100), BitVec.ofNat 64 (slotBase 0), BitVec.ofNat 64 (slotBase 0 + 0x40000), BitVec.ofNat 64 (slotBase 0 + 0x80000), 128, 0, 0x2000, 9]
def tPnmDoor : Packet := { opcode := 0x02, len := 64, agent := 0x900, payload := (tPnmDesc 1).flatMap (fun w => leBytes 8 w.toNat) }
def tPnmCmd : PnmCmd := { id := 4, parcel := 0, desc := tPnmDesc 1, req := tPnmDoor }
def tPnmAct : PnmCmd := { tPnmCmd with desc := [0x104, BitVec.ofNat 64 (slotBase 0), 0, BitVec.ofNat 64 (slotBase 0 + 0x80000), 128, 0, 0x2000, 9] }
def tPnmWith (q : PnmQueue) : State := tModule.setPnmQ 0 q

/-- GRID port 3 of which the far end is port 9 of Tiolo 1, with a lost write unproven. -/
def tGridLost : State :=
  (State.reset.setFld (rPortRole 3) 2 0 2).setLink 3
    { far := some { role := 2, gref := 137, axis := false, peer := 0, vcMin := 0 }, unproven := [(5, { opcode := 0x02, tid := 3 })] }

/-- An owned Tiolo after boot, and a security block that names no target. -/
def tOwned : State := { State.reset with nonce := 7, sec := { State.reset.sec with life := { State.reset.sec.life with state := 1, owner := some 5 } } }
def tUnowned : State := { State.reset with sec := { State.reset.sec with life := { State.reset.sec.life with state := 1, owner := none } } }
def tBlk (target : BitVec 8) : SecBlock := { op := 0, target := target, nonce := 7 }

/-- The start-up sequence stands at a step, and every self-test passed. -/
def tPhase (n : Nat) : State := (State.reset.setFld rBootStat 3 0 n).setFld rBootStat 4 4 0
def tKat : KatResult := { aes := true, sha3 := true, mlKem := true, mlDsa := true, drbg := true, entropy := true }
def tBist : BistResult := { misr := [1, 2], lanes := 0, filard := 0 }
def tClearing : State := { tOwned.setBit rSecStat 4 true with sec := { tOwned.sec with clearance := some { target := 2, tenant := 9, vnonce := 0 } } }

/-- ACCEL port 0 with EN at 1 stands at a step of its levelling. -/
def tStep (n : Nat) : State := (((State.reset.setFld (rPortRole 0) 2 0 1).setBit (rPortCtl 0) 0 true).setFld (rPortStat 0) 2 0 1).setFld (rPortStat 0) 5 3 n
/-- The same, ETH port 100's place taken: port 96, which needs no laser. -/
def tStep96 (n : Nat) : State := (((State.reset.setFld (rPortRole 96) 2 0 1).setBit (rPortCtl 96) 0 true).setFld (rPortStat 96) 2 0 1).setFld (rPortStat 96) 5 3 n
/-- An UP ACCEL port 0 with EN at 1 and a spare lane each way. -/
def tUp : State :=
  ((((State.reset.setFld (rPortRole 0) 2 0 1).setBit (rPortCtl 0) 0 true).setFld (rPortStat 0) 2 0 2).setReg (rPortLane 0) 0xC688).setLink 0
    { rxMap := [0, 1, 2, 3], rxSpare := some 4, keys := some { keyIR := 0, keyRI := 0, saltIR := 0, saltRI := 0, confirm := 0 } }
def tSent (f : TxFrame) : RxFrame := { lanes := frameLevels 4 (f.seal none) }
def tTx : TxFrame := { ctr := 0, ackSeq := 0, nak := false, kph := false, swap := none, credit := [], slots := [] }
def tFrame : RxFrame := tSent tTx
/-- A frame as `tTx`, its integrity flit with this tag. -/
def tTagged (n : Nat) : RxFrame :=
  let front := tTx.controlFlit ++ tTx.plain ++ leBytes 56 n
  { lanes := frameLevels 4 (front ++ leBytes 8 (crc64 front)) }
/-- ACCEL port 0 exchanges keys on four lanes and sends frames that are not encrypted yet. -/
def tPlainLink : State := (((tStep 5).setReg (rPortLane 0) 0xC688)).setLink 0 { rxMap := [0, 1, 2, 3], rxSpare := some 4 }
def tNaked : TxFrame := { tTx with nak := true, ackSeq := 2 ^ 32 - 1 }
def tKexAt (n : Nat) (i : Bool) : State := (tStep 5).setLink 0 { kex := { step := n, initiator := i } }

/-- A traverse descriptor: opcode, TRAV, word 2. -/
def tTravDesc (op k w2 : Nat) : Packet :=
  { opcode := 0x02, len := 64, agent := 0x900, payload := leBytes 8 (op + 0x100) ++ leBytes 8 k ++ leBytes 8 w2 ++ leBytes 8 0 ++ leBytes 8 0 ++ leBytes 8 0 ++ leBytes 8 0x2000 ++ leBytes 8 9 }
/-- The header and the one leg of a traverse of 4 KiB of slot 0 to Tiolo 1 of this row. -/
def tTravHeader : List Word := [0, 0, 0, 0x100001000, 0, 0, 0, 0]
def tTravLeg : List Word := [0, 1, 0, 0x1000, 0x100000000, 2, 0, 0]
def tTravOn : State :=
  let s := ((tModule.setBit rTrvCtl 0 true).setReg (rPclGrant 0 2) 1).setFld rGridCfg 28 24 1
  { s with mem := { s.mem with cells := memWrite s.mem.cells 0 ((tTravHeader ++ tTravLeg).flatMap (fun w => leBytes 8 w.toNat)) } }
/-- Traverse 0 in a state of its first leg, its hand-back met and its anchor there. -/
def tTrav (st : Nat) : Trav := { parcel := 0, req := tTravDesc 1 0 0, desc := descOf (tTravDesc 1 0 0), header := tTravHeader, legs := [tTravLeg], state := st, anchor := some 4, handed := [1] }
def tTravAt (t : Trav) : State := tTravOn.setTrav 0 t
/-- A page of a leg from Tiolo 1, and what its program says. -/
def tLegInfo : LegInfo := { bytes := 0x1000, blocks := 0, win := 0x8000, trl := 0x4000, stake := 3 }
def tTrvd : Packet := { opcode := 0x3A, len := 0x1000, src := 1, agent := agTraverse, seqx := some (.trv (travSeqx 0 0 0 0 4 0 0 9)), payload := leBytes 0x1000 7 }
def tDestLeg : DestLeg := { id := 0, sender := 1, trav := 0, leg := 0, pass := 0, job := 0, step := 4, win := 0, comp := 0, deadline := 9, info := tLegInfo, got := 0x1000 }
/-- The packets of a coded leg of one block, and its first half. -/
def tBlock : List Byte := leBytes 2 48 ++ leBytes 2 0x1001 ++ List.replicate 36 0 ++ leBytes 8 0x3F80
def tCoded (n : Nat) : Packet := { tTrvd with len := n, seqx := some (.trv (travSeqx 0 0 0 0 4 0 2 9)), payload := slice tBlock 0 n }
def tCodedInfo : LegInfo := { tLegInfo with bytes := 48, blocks := 1 }
/-- A leg through the run-ahead buffer, and a traverse whose leg stands there. -/
def tRaHeader : List Word := [0x10000000000000, 0, 0, 0x100001000, 0, 0, 0, 0x1000]
def tRaLeg : List Word := [0x10, 1, 0, 0x1000, 0x100000000, 2, 0, 0]
def tRaTrav : Trav := { tTrav 2 with header := tRaHeader, legs := [tRaLeg], runahead := [{ gidx := 0, complete := true }] }
/-- A traverse whose leg is read from an object of T2. -/
def tT2Trav : Trav := { tTrav 2 with legs := [[1, 5, 0, 0x1000, 0x100000000, 2, 0, 0]] }
def tDest (x : DestLeg) : State := { tGranted with trav := { tGranted.trav with legs := [x], nextLeg := 1 } }

/-- A raise of vector 5 waits; messages may be sent. -/
def tRaise : State := let s := (State.reset.setBit rIntBase 0 true).setBit rBootStat 5 true; { s with mgmt := { s.mgmt with raises := [{ vector := 5, page := 9 }] } }
/-- A record, a copy for a partner, and an operation twinned to column 2 with one release pending. -/
def tRec : Rec := { cls := 2, source := 7, severity := 1, seq := 3 }
def tTwinRec : TwinRecord := { kind := 1, job := 0, opref := 7, gen := 3, owner := 2, commit := true, intent := true, mseq := 4, act := some (.releaseSet 3 9), sends := [], crcOk := true }
def tTwinOp : TwinOp := { kind := 2, job := 0, opref := 7, parcel := 0, owner := 0, partner := some 2, mseq := 4, pending := true, acts := [.releaseSet 3 9] }
def tTwinned (o : TwinOp) : State := { tGranted with recov := { tGranted.recov with ops := [o] } }
def tHeld (c : TwinCopy) : State := tGranted.setTwinCol 2 { copies := [c] }

/-- An ACTIVE parcel 0 with a proposal of its own grants and tile group 3, and the same with extent 2 revoking. -/
def tCompose : State := { ((tGranted.setReg (rPclCmp 0 1) 8).setReg (rPclCmp 0 4) 1).setReg (rPclCmp 0 7) 1 with extents := [] }
def tRevoking : State := { tGranted with extents := [(2, { owner := 0, base := 0x1000, pages := 1, rd := true, wr := true, state := .revoking })], revoking := [{ ext := 2 }] }

/-- ETH port 96 with its link up; QP 5 of parcel 0 is served, its context on chip, EPSN 16, PMTU 1,024; registration 7 covers 64 KiB at 0x1000;
ring 3 is enabled. -/
def tEth : State :=
  let s := (((tGranted.setFld (rPortRole 96) 2 0 roleEth).setFld (rPortStat 96) 2 0 2).setBit rRoceCtl 0 true).setLink 96 { ethUp := true }
  let w : List Word := [BitVec.ofNat 64 (2 ^ 22 + 2 ^ 23 + 3 * 2 ^ 35 + 96 * 2 ^ 38 + 9 * 2 ^ 45), 0, 0, 0, 0, 0, BitVec.ofNat 64 (3 * 2 ^ 16 + 2 ^ 26), 0]
  { s with roce := { qps := [(5, { state := .rtr, words := w, epsn := 16, rate := 900 })], cached := [5], rings := [(3, { cfg := BitVec.ofNat 64 (13 + 9 * 2 ^ 46) })],
                     mrs := [(7, { state := 1, words := [BitVec.ofNat 64 (3 * 2 ^ 20), 0x10000, 0x1000, 0x10000] })] } }
/-- A RoCE frame whose packet has this opcode, for this QP. -/
def tEthFrame (op : BitVec 8) (qp : BitVec 24) : EthFrame :=
  { toPort := true, broadcast := false, isRoce := true, icrcOk := true, vlan := none, dscp := none, ect := false, bytes := leBytes 64 5, roce := { opcode := op, destQP := qp, psn := 16 } }
def tRoceReq : RoceReq := { k := 0, pkt := {}, use := .write, psn := 16, num := 1, mr := 7, issued := true }
def tRoceWait : State :=
  let s := tEth.setQp 5 { tEth.qp 5 with reqs := [tRoceReq], acks := [{ psn := 16, num := 1, last := true }],
                                         msgs := [{ write := true, psn := 16, num := 1, gfa := 0, left := 0, total := 4, mr := 7, ended := true }] }
  { s with recov := { s.recov with trackers := [{ req := { agent := agRoce 96 }, purpose := .roce 5 0, dest := 0 }] } }

/-- A packet of one cell that may go to port 5 on channel 0. -/
def tGo : Stored := { id := 0, pkt := { opcode := 0x01 }, input := 7, cells := 1, account := none, admitted := true, outs := [(5, 0)] }
def tRound : State := { ((State.reset.setFld (rPortRole 5) 2 0 1).setFld (rPortStat 5) 2 0 2).setLink 5 { credits := [(0, 9)] } with sw := { buf := [tGo], nextId := 1 } }
/-- A frame for the medium of port 96 in the packet buffer, and the port with it and no QP. -/
def tFrameOut (cells : Nat) : Stored :=
  { id := 0, pkt := {}, input := 96, cells := cells, account := none, admitted := true, outs := [(96, 2)], frame := some { tx := .raw 2 [1], prio := 2, len := 64 } }
def tEthOut (x : List Stored) (tx : List (Nat × RoceTx)) : State := { tEth with roce := { tx := tx }, sw := { buf := x, nextId := 1 } }
def tRawFrame : EthFrame := { tEthFrame 0x0A 5 with isRoce := false }
/-- A raw frame is being written to the ring. -/
def tRawOut : State :=
  let s := (tEth.setBit rRoceRawRing 63 true).setFld rRoceRawTail 45 32 9
  { s with roce := { s.roce with rawQ := [(96, 1, 0, [])] }, recov := { s.recov with trackers := [{ req := { agent := agRoce 96 }, purpose := .rawRing, dest := 0 }] } }

/-! ### A frame that asks for a replay -/

/-- A received frame with NAK, nothing acknowledged, its integrity flit with tag 0 or 1. -/
def tNakBody (tag : Nat) : List Byte :=
  leBytes 64 ((2 ^ 32 - 1) * 2 ^ 32 + 2 ^ 64) ++ List.replicate 1792 0 ++ leBytes 56 tag ++ leBytes 8 (if tag == 0 then 15909122717518302118 else 364143011638040169)
def tNakFrame (tag : Nat) : RxFrame := { lanes := frameLevels 4 (tNakBody tag) }
def tNakLanes (tag : Nat) : List (List (Fin 4)) := [0, 1, 2, 3].map (fun x => (tNakFrame tag).lanes.getD x [])

set_option maxRecDepth 20000 in
theorem tNak_decodes : rxBody ((laneWords (tNakLanes 0)).map rsDecode) = some (tNakBody 0) := by decide +kernel
set_option maxRecDepth 20000 in
theorem tNak_crc : crcMatches (tNakBody 0) = true := by decide +kernel
set_option maxRecDepth 20000 in
theorem tNak_decodes_tag : rxBody ((laneWords (tNakLanes 1)).map rsDecode) = some (tNakBody 1) := by decide +kernel
set_option maxRecDepth 20000 in
theorem tNak_crc_tag : crcMatches (tNakBody 1) = true := by decide +kernel

theorem tNak_good (s : State) (hm : (s.link 0).rxMap = [0, 1, 2, 3]) (hi : s.takeInject (pgPort 0) 2 = none) :
    s.rxGood 0 (tNakFrame 0) = some (tNakBody 0) := by
  have h : rxBody (s.rxWords 0 (tNakFrame 0)) = some (tNakBody 0) := by rw [State.rxWords, hm]; exact tNak_decodes
  simp [State.rxGood, h, hi, tNak_crc]

theorem tNak_good_tag (s : State) (hm : (s.link 0).rxMap = [0, 1, 2, 3]) (hi : s.takeInject (pgPort 0) 2 = none) :
    s.rxGood 0 (tNakFrame 1) = some (tNakBody 1) := by
  have h : rxBody (s.rxWords 0 (tNakFrame 1)) = some (tNakBody 1) := by rw [State.rxWords, hm]; exact tNak_decodes_tag
  simp [State.rxGood, h, hi, tNak_crc_tag]

/-- A keyed link's tag matches one of the two frames at most. -/
theorem tNak_mismatch : tUp.tagMatches 0 (readControl (tNakBody 0)) (tNakBody 0) = false ∨ tUp.tagMatches 0 (readControl (tNakBody 1)) (tNakBody 1) = false := by
  have e0 : slice (tNakBody 1) 0 64 = slice (tNakBody 0) 0 64 := by decide +kernel
  have e1 : slice (tNakBody 1) 64 1792 = slice (tNakBody 0) 64 1792 := by decide +kernel
  have c : readControl (tNakBody 1) = readControl (tNakBody 0) := by decide +kernel
  have k : tUp.rxKey 0 (readControl (tNakBody 0)) = some (0, 0) := by decide +kernel
  have t0 : leNat (slice (tNakBody 0) 1856 16) = 0 := by decide +kernel
  have t1 : leNat (slice (tNakBody 1) 1856 16) = 1 := by decide +kernel
  simp only [State.tagMatches, c, k, e0, e1, t0, t1, beq_eq_false_iff_ne, ne_eq]
  omega

/-- A plain link with a CRC error armed. -/
def tInjected : State := tPlainLink.setReg (rPgPerturb (pgPort 0)) (4 + 2 * 2 ^ 8 + 2 ^ 48)

theorem tInjected_none : tInjected.rxGood 0 { lanes := [] } = none := by
  have h : (tInjected.takeInject (pgPort 0) 2).isNone = false := by decide +kernel
  have e : ∀ (o : Option (List Byte)) (f : List Byte → Bool), o.filter (fun b => f b && false) = none := by
    intro o f
    cases o with
    | none => rfl
    | some x => rw [Option.filter, Bool.and_false, if_neg Bool.false_ne_true]
  rw [State.rxGood, h]
  exact e _ _

/-! ### A full packet buffer -/

/-- GRID port 5, with n packets in the buffer that each hold a cell of every bank. -/
def tFull (n : Nat) : State :=
  { State.reset.setReg (rPortRole 5) roleGrid with sw := { buf := List.replicate n { tStored with banks := List.range 256 }, nextId := 1 } }

theorem tFull_bank (n b : Nat) (h : b < 256) : (tFull n).bankUsed b = n := by
  have e : ∀ n a, (List.replicate n { tStored with banks := List.range 256 }).foldl (fun a x => a + x.banks.count b) a = a + n := by
    intro n
    induction n with
    | zero => simp
    | succ n ih => intro a; rw [List.replicate_succ, List.foldl_cons, ih, show (List.range 256).count b = 1 by simp [List.count_range, h]]; omega
  exact (e n 0).trans (Nat.zero_add n)

theorem tFull_room (n : Nat) (h : 6144 ≤ n) : (tFull n).hasRoom 0 1 = false := by
  have h : (tFull n).nextBank 0 [] = none := by
    rw [State.nextBank, List.find?_eq_none]
    intro b hb
    have hlt : b < 256 := (show ∀ b ∈ (sliceOrder 0).flatMap (fun n => (List.range 16).map (fun k => 16 * n + (1 + k) % 16)), b < 256 by decide +kernel) b hb
    simpa [tFull_bank n b hlt] using h
  simp [State.hasRoom, State.placeCells, h]

/-! ### States and operands that meet the hypotheses of each statement, clause by clause -/

theorem wit_StepKeepsTheCanonicalForm :
    ∃ (s : State) (t : State), s.Canon ∧ step s = Host.Outcome.next t :=
  ⟨State.reset.setBit rSecStat 4 true, State.reset.setBit rSecStat 4 true, ⟨by decide +kernel, by decide +kernel, by decide +kernel⟩, rfl⟩

theorem wit_MemoryReadsWhatWasWritten :
    (∃ (m : List Host.Cell) (a : Nat) (bs : List Byte) (x : Nat), Memory.wf m = true ∧ (x < a ∨ a + bs.length ≤ x)) ∧
    (∃ (m : List Host.Cell) (a : Nat) (mask : Nat) (x : Nat) (bs : List Byte), Memory.wf m = true ∧ x < bs.length) ∧
    (∃ (m : List Host.Cell) (a : Nat) (mask : Nat) (x : Nat) (bs : List Byte), x < a ∨ a + bs.length ≤ x) :=
  ⟨⟨[(0, 1)], 0, [1], 1, by decide +kernel⟩,
   ⟨[(0, 1)], 0, 0, 0, [1], by decide +kernel⟩,
   ⟨[(0, 1)], 0, 0, 1, [1], by decide +kernel⟩⟩

theorem wit_StakeReleaseAdds :
    (∃ (s : State) (p : Packet) (n : Nat) (k : Nat), placeOf (gfaOff p.gfa) = Place.stake n 0 ∧ s.stakeCheck p true = stOK ∧ k ≠ n) ∧
    (∃ (s : State) (p : Packet), s.stakeCheck p true ≠ stOK) :=
  ⟨⟨tGranted, tStakeReq 0x40 1 0, 0, 1, by decide +kernel⟩,
   ⟨tGranted, {}, by decide +kernel⟩⟩

theorem wit_StakeAcquireCompletesParksOrGivesUp :
    (∃ (s : State) (p : Packet) (n : Nat), placeOf (gfaOff p.gfa) = Place.stake n 0 ∧ s.stakeCheck p true = stOK ∧ stakeOperand p ≤ (s.stake n).value) ∧
    (∃ (s : State) (p : Packet) (n : Nat), placeOf (gfaOff p.gfa) = Place.stake n 0 ∧ s.stakeCheck p true = stOK ∧ ¬stakeOperand p ≤ (s.stake n).value ∧ s.parkFull n ((s.stakeParcel n).getD 0) = true) ∧
    (∃ (s : State) (p : Packet) (n : Nat), placeOf (gfaOff p.gfa) = Place.stake n 0 ∧ s.stakeCheck p true = stOK ∧ ¬stakeOperand p ≤ (s.stake n).value ∧ s.parkFull n ((s.stakeParcel n).getD 0) = false ∧ stakeWait p = 0) ∧
    (∃ (s : State) (p : Packet) (n : Nat), placeOf (gfaOff p.gfa) = Place.stake n 0 ∧ s.stakeCheck p true = stOK ∧ ¬stakeOperand p ≤ (s.stake n).value ∧ s.parkFull n ((s.stakeParcel n).getD 0) = false ∧ stakeWait p ≠ 0) ∧
    (∃ (s : State) (p : Packet), s.stakeCheck p true ≠ stOK) :=
  ⟨⟨tGranted, tStakeReq 0x41 0 0, 0, by decide +kernel⟩,
   ⟨tGranted.setReg (rStkWaitLimit 0) 0, tStakeReq 0x41 1 0, 0, by decide +kernel⟩,
   ⟨tGranted, tStakeReq 0x41 1 0, 0, by decide +kernel⟩,
   ⟨tGranted, tStakeReq 0x41 1 1, 0, by decide +kernel⟩,
   ⟨tGranted, {}, by decide +kernel⟩⟩

theorem wit_StakeSetReadWakeAndExpiry_1 :
    (∃ (s : State) (p : Packet) (n : Nat) (k : Nat), placeOf (gfaOff p.gfa) = Place.stake n 0 ∧ ssetStatus s p n 0 = stOK ∧ (p.opcode = 66 ∨ p.opcode = 2 ∧ p.mask = none) ∧ k ≠ n) ∧
    (∃ (s : State) (p : Packet) (n : Nat) (o : Nat), placeOf (gfaOff p.gfa) = Place.stake n o ∧ ssetStatus s p n o = stOK ∧ p.opcode = 2 ∧ (o ≠ 0 ∨ p.mask ≠ none)) ∧
    (∃ (s : State) (p : Packet) (n : Nat) (o : Nat), placeOf (gfaOff p.gfa) = Place.stake n o ∧ (p.opcode = 66 ∨ p.opcode = 2) ∧ ssetStatus s p n o ≠ stOK) ∧
    (∃ (s : State) (p : Packet) (n : Nat) (o : Nat), placeOf (gfaOff p.gfa) = Place.stake n o ∧ sreadStatus s p n o = stOK ∧ p.opcode = 67) ∧
    (∃ (s : State) (p : Packet) (n : Nat) (o : Nat), placeOf (gfaOff p.gfa) = Place.stake n o ∧ sreadStatus s p n o = stOK ∧ p.opcode = 1) ∧
    (∃ (s : State) (p : Packet) (n : Nat) (o : Nat), placeOf (gfaOff p.gfa) = Place.stake n o ∧ (p.opcode = 67 ∨ p.opcode = 1) ∧ sreadStatus s p n o ≠ stOK) ∧
    (∃ (s : State) (r : SliceIx) (w : Woken), List.find? (fun w => w.parked.stake / 4096 == r.val) s.stk.woken = some w) :=
  ⟨⟨tGranted, tStakeReq 0x42 1 0, 0, 8, by decide +kernel⟩,
   ⟨tGranted, { opcode := 0x02, len := 8, gfa := 0x3FFE00000008, payload := leBytes 8 1 }, 0, 8, by decide +kernel⟩,
   ⟨State.reset, { opcode := 0x02, len := 8, gfa := 0x3FFE00000008, payload := leBytes 8 1 }, 0, 8, by decide +kernel⟩,
   ⟨tGranted, tStakeReq 0x43 0 0, 0, 0, by decide +kernel⟩,
   ⟨tGranted, { tStakeReq 0x01 0 0 with len := 8 }, 0, 0, by decide +kernel⟩,
   ⟨State.reset, tStakeReq 0x43 0 0, 0, 0, by decide +kernel⟩,
   ⟨{ State.reset with stk := { woken := [{ parked := tParked, value := 1, seq := 1, flags := 0 }] } }, 0, { parked := tParked, value := 1, seq := 1, flags := 0 }, by decide +kernel⟩⟩

theorem wit_StakeSetReadWakeAndExpiry_2 :
    (∃ (s : State) (r : SliceIx), List.find? (fun w => w.parked.stake / 4096 == r.val) s.stk.woken = none) ∧
    (∃ (s : State) (k : Nat) (q : Parked), s.stk.parked[k]? = some q) ∧
    (∃ (s : State) (v : Word), s.cfgOpen rStkProbeCtl = true ∧ BitVec.getLsbD v 63 = true) ∧
    (∃ (s : State) (v : Word) (c : Nat), s.cfgOpen rStkProbeCtl = true ∧ BitVec.getLsbD v 63 = false ∧ c ≠ rStkProbeCtl) ∧
    (∃ (s : State) (k : StakeIx) (i : Nat), i ≠ k.val) ∧
    (∃ (s : State) (k : StakeIx) (n : Nat), s.stakeParcel k.val = some n) :=
  ⟨⟨State.reset, 0, by decide +kernel⟩,
   ⟨{ State.reset with stk := { parked := [tParked] } }, 0, ({ State.reset with stk := { parked := [tParked] } } : State).stk.parked[(0 : Nat)]?.get (by decide +kernel), by decide +kernel⟩,
   ⟨State.reset, 0x8000000000000000, by decide +kernel⟩,
   ⟨State.reset, 0, 0, by decide +kernel⟩,
   ⟨State.reset, 0, 1, by decide +kernel⟩,
   ⟨tGranted, 0, ((tGranted : State).stakeParcel ↑0).get (by decide +kernel), by decide +kernel⟩⟩

theorem wit_PublishSwapsTheVisibleExtent :
    (∃ (s : State) (p : Packet) (e : Nat), s.twinOp 3 (pubRef p) = none ∧ (s.ext (pubAlias p)).twin = false ∧ s.publishCheck p = stOK ∧ e ≠ pubAlias p) ∧
    (∃ (s : State) (p : Packet), s.twinOp 3 (pubRef p) = none ∧ (s.ext (pubAlias p)).twin = false ∧ s.publishCheck p = stOK ∧ pubNotifyEn p = true) ∧
    (∃ (s : State) (p : Packet) (k : Nat), s.twinOp 3 (pubRef p) = none ∧ (s.ext (pubAlias p)).twin = false ∧ s.publishCheck p = stOK ∧ (pubNotifyEn p = false ∨ k ≠ pubNotify p)) ∧
    (∃ (s : State) (p : Packet), s.twinOp 3 (pubRef p) = none ∧ s.publishCheck p ≠ stOK) ∧
    (∃ (s : State) (p : Packet) (o : TwinOp), s.twinOp 3 (pubRef p) = some o ∧ o.pending = true) :=
  ⟨⟨tGranted, { opcode := 0x44, gfa := 0x200000000000, payload := leBytes 8 (0 + 1 * 65536 + 1 * 2 ^ 32) ++ leBytes 8 0x8003 }, 1, by decide +kernel⟩,
   ⟨tGranted, { opcode := 0x44, gfa := 0x200000000000, payload := leBytes 8 (0 + 1 * 65536 + 1 * 2 ^ 32) ++ leBytes 8 0x8003 }, by decide +kernel⟩,
   ⟨tGranted, { opcode := 0x44, gfa := 0x200000000000, payload := leBytes 8 (0 + 1 * 65536 + 1 * 2 ^ 32) ++ leBytes 8 0x8003 }, 0, by decide +kernel⟩,
   ⟨tTwinned { tTwinOp with kind := 3, opref := 0 }, { opcode := 0x02, len := 8, agent := 0x900, payload := leBytes 8 5 }, by decide +kernel⟩,
   ⟨tTwinned { tTwinOp with kind := 3, opref := 0 }, { opcode := 0x44, gfa := 0x200000000000, payload := leBytes 8 (0 + 1 * 65536 + 1 * 2 ^ 32) ++ leBytes 8 0x8003 }, ((tTwinned { tTwinOp with kind := 3, opref := 0 } : State).twinOp 3 (pubRef ({ opcode := 0x44, gfa := 0x200000000000, payload := leBytes 8 (0 + 1 * 65536 + 1 * 2 ^ 32) ++ leBytes 8 0x8003 } : Packet))).get (by decide +kernel), by decide +kernel⟩⟩

theorem wit_CompletionsTrackersAndRestarts :
    (∃ (s : State) (c : Packet) (x : Tracker), s.proxyTxn c = none ∧ s.trackerFor c = some x ∧ x.purpose = Purpose.posted) ∧
    (∃ (s : State) (c : Packet) (x : Tracker), s.proxyTxn c = none ∧ s.trackerFor c = some x ∧ x.purpose = Purpose.outside ∧ c.status.toNat < 12) ∧
    (∃ (s : State) (c : Packet), s.proxyTxn c = none ∧ s.trackerFor c = none ∧ c.agent ≠ 2304 ∧ s.bit (rPgCtl pgFb) 0 = false) ∧
    (∃ (s : State) (k : Nat) (x : Tracker), s.recov.trackers[k]? = some x ∧ x.purpose = Purpose.outside ∧ (writesOp x.req.opcode.toNat = false ∨ (s.path x.dest).drains = [])) ∧
    (∃ (s : State) (k : Nat) (x : Tracker), s.recov.trackers[k]? = some x ∧ writesOp x.req.opcode.toNat = true ∧ (s.path x.dest).drains ≠ []) ∧
    (∃ (s : State) (p : Packet) (i : Nat), i ≠ p.src.toNat) ∧
    (∃ (s : State) (k : Nat) (n : Nat) (p : Packet) (i : Nat), s.tier.held[k]? = some { door := 4 + n, req := p } ∧ (s.tile n).queue.length < 64 ∧ (∀ (g : HeldDoorbell), g ∈ List.take k s.tier.held → g.door ≠ 4 + n ∨ g.req.job ≠ p.job) ∧ i ≠ n) ∧
    (∃ (s : State) (k : Nat) (n : Nat) (p : Packet), s.tier.held[k]? = some { door := 4 + n, req := p } ∧ ¬(s.tile n).queue.length < 64) ∧
    (∃ (s : State) (k : Fin 16), List.filter (fun x => x != k.val) s.recov.restarting ≠ []) ∧
    (∃ (s : State) (k : Fin 16), (List.filter (fun x => x != k.val) s.recov.restarting = []) ∧ s.recov.waiting = []) :=
  ⟨⟨tTracked .posted 0x02, {}, ((tTracked .posted 0x02 : State).trackerFor ({} : Packet)).get (by decide +kernel), by decide +kernel⟩,
   ⟨tTracked .outside 0x01, {}, ((tTracked .outside 0x01 : State).trackerFor ({} : Packet)).get (by decide +kernel), by decide +kernel⟩,
   ⟨{ State.reset with tier := { held := [{ door := 4, req := {} }] }, tiles := [(0, { queue := List.replicate 64 ([], {}) })] }, {}, by decide +kernel⟩,
   ⟨tTracked .outside 0x01, 0, (tTracked .outside 0x01 : State).recov.trackers[(0 : Nat)]?.get (by decide +kernel), by decide +kernel⟩,
   ⟨(tTracked .outside 0x02).setPath 0 { drains := [(0, 0)] }, 0, ((tTracked .outside 0x02).setPath 0 { drains := [(0, 0)] } : State).recov.trackers[(0 : Nat)]?.get (by decide +kernel), by decide +kernel⟩,
   ⟨{ State.reset with tier := { held := [{ door := 4, req := {} }] }, tiles := [(0, { queue := List.replicate 64 ([], {}) })] }, {}, 1, by decide +kernel⟩,
   ⟨{ State.reset with tier := { held := [{ door := 4, req := {} }] } }, 0, 0, {}, 1, by decide +kernel⟩,
   ⟨{ State.reset with tier := { held := [{ door := 4, req := {} }] }, tiles := [(0, { queue := List.replicate 64 ([], {}) })] }, 0, 0, {}, by decide +kernel⟩,
   ⟨{ State.reset with recov := { restarting := [1] } }, 0, by decide +kernel⟩,
   ⟨{ State.reset with tier := { held := [{ door := 4, req := {} }] }, tiles := [(0, { queue := List.replicate 64 ([], {}) })] }, 0, by decide +kernel⟩⟩

theorem wit_ConfigurationAccesses :
    (∃ (s : State) (off : BitVec 24) (len : Nat) (v : Word) (tid : BitVec 16), len ≠ 8 ∨ off.toNat % 8 ≠ 0) ∧
    (∃ (s : State) (off : BitVec 24) (v : Word) (tid : BitVec 16), off.toNat % 8 = 0 ∧ s.cfgOpen off.toNat = false) ∧
    (∃ (s : State) (v : Word) (tid : BitVec 16), s.cfgOpen (rStkWaitLimit 0) = true) ∧
    (∃ (s : State) (p : Packet) (c : Nat), s.configOff p = some c ∧ s.fromCompanion p = false ∧ cfgAligned p c = true ∧ s.inList p = true ∧ filardOnly c = false ∧ s.bit rSecStat 4 = false ∧ p.opcode = 1 ∧ s.cfgStatus c = stOK) ∧
    (∃ (s : State) (p : Packet) (c : Nat), s.configOff p = some c ∧ s.fromCompanion p = false ∧ cfgAligned p c = true ∧ s.inList p = true ∧ filardOnly c = false ∧ s.bit rSecStat 4 = false ∧ p.opcode = 2 ∧ c = rStkWaitLimit 0 ∧ s.cfgStatus c = stOK) ∧
    (∃ (s : State) (p : Packet) (c : Nat), s.configOff p = some c ∧ s.fromCompanion p = false ∧ cfgAligned p c = true ∧ s.inList p = true ∧ filardOnly c = false ∧ s.bit rSecStat 4 = false ∧ s.cfgStatus c ≠ stOK) ∧
    (∃ (s : State) (p : Packet) (c : Nat), s.configOff p = some c ∧ s.fromCompanion p = false ∧ (cfgAligned p c = false ∨ s.inList p = false ∨ filardOnly c = true ∨ s.bit rSecStat 4 = true)) :=
  ⟨⟨State.reset.setBit rSecStat 4 true, BitVec.ofNat 24 (rStkWaitLimit 0), 0, 0, 0, by decide +kernel⟩,
   ⟨State.reset.setBit rSecStat 4 true, BitVec.ofNat 24 (rStkWaitLimit 0), 0, 0, by decide +kernel⟩,
   ⟨State.reset.setReg (rIbm 0) (2 ^ 17 + 2 ^ 18), 0, 0, by decide +kernel⟩,
   ⟨State.reset.setReg (rIbm 0) (2 ^ 17 + 2 ^ 18), { opcode := 0x01, len := 8, gfa := 0x3FFF00000000 }, ((State.reset.setReg (rIbm 0) (2 ^ 17 + 2 ^ 18) : State).configOff ({ opcode := 0x01, len := 8, gfa := 0x3FFF00000000 } : Packet)).get (by decide +kernel), by decide +kernel⟩,
   ⟨State.reset.setReg (rIbm 0) (2 ^ 17 + 2 ^ 18), { opcode := 0x02, len := 8, gfa := BitVec.ofNat 56 (0x3FFF00000000 + rStkWaitLimit 0), payload := leBytes 8 3 }, ((State.reset.setReg (rIbm 0) (2 ^ 17 + 2 ^ 18) : State).configOff ({ opcode := 0x02, len := 8, gfa := BitVec.ofNat 56 (0x3FFF00000000 + rStkWaitLimit 0), payload := leBytes 8 3 } : Packet)).get (by decide +kernel), by decide +kernel⟩,
   ⟨{ State.reset.setReg (rIbm 0) (2 ^ 17 + 2 ^ 18) with boot := { State.reset.boot with inReset := [16] } }, { opcode := 0x02, len := 8, gfa := BitVec.ofNat 56 (0x3FFF00000000 + rCadCtl 0), payload := leBytes 8 3 }, (({ State.reset.setReg (rIbm 0) (2 ^ 17 + 2 ^ 18) with boot := { State.reset.boot with inReset := [16] } } : State).configOff ({ opcode := 0x02, len := 8, gfa := BitVec.ofNat 56 (0x3FFF00000000 + rCadCtl 0), payload := leBytes 8 3 } : Packet)).get (by decide +kernel), by decide +kernel⟩,
   ⟨State.reset.setBit rSecStat 4 true, { opcode := 0x02, len := 8, gfa := BitVec.ofNat 56 (0x3FFF00000000 + rStkWaitLimit 0), payload := leBytes 8 3 }, ((State.reset.setBit rSecStat 4 true : State).configOff ({ opcode := 0x02, len := 8, gfa := BitVec.ofNat 56 (0x3FFF00000000 + rStkWaitLimit 0), payload := leBytes 8 3 } : Packet)).get (by decide +kernel), by decide +kernel⟩⟩

theorem wit_PerturbationsAreArmedOrRefused :
    (∃ (s : State) (page : BitVec 12) (v : Word) (p : Page), pageOf (page.toNat * 4096) = some p ∧ s.cfgOpen (rPgPerturb p.base) = true ∧ s.certified = false ∧ s.perturbOk p (BitVec.toNat v) = true ∧ BitVec.toNat v % 8 = 0) ∧
    (∃ (s : State) (page : BitVec 12) (v : Word) (p : Page), pageOf (page.toNat * 4096) = some p ∧ s.cfgOpen (rPgPerturb p.base) = true ∧ s.certified = false ∧ s.perturbOk p (BitVec.toNat v) = true ∧ BitVec.toNat v % 8 = 1) ∧
    (∃ (s : State) (page : BitVec 12) (v : Word) (p : Page), pageOf (page.toNat * 4096) = some p ∧ s.cfgOpen (rPgPerturb p.base) = true ∧ s.certified = false ∧ s.perturbOk p (BitVec.toNat v) = true ∧ BitVec.toNat v % 8 = 2) ∧
    (∃ (s : State) (page : BitVec 12) (v : Word) (p : Page), pageOf (page.toNat * 4096) = some p ∧ s.cfgOpen (rPgPerturb p.base) = true ∧ s.certified = false ∧ s.perturbOk p (BitVec.toNat v) = true ∧ BitVec.toNat v % 8 = 3) ∧
    (∃ (s : State) (page : BitVec 12) (v : Word) (p : Page), pageOf (page.toNat * 4096) = some p ∧ s.cfgOpen (rPgPerturb p.base) = true ∧ s.certified = false ∧ s.perturbOk p (BitVec.toNat v) = true ∧ BitVec.toNat v % 8 = 4 ∧ nbits (BitVec.toNat v) 11 8 ≠ 3 ∧ nbits (BitVec.toNat v) 62 48 ≠ 0) ∧
    (∃ (s : State) (page : BitVec 12) (v : Word) (p : Page), pageOf (page.toNat * 4096) = some p ∧ s.cfgOpen (rPgPerturb p.base) = true ∧ s.certified = false ∧ s.perturbOk p (BitVec.toNat v) = true ∧ BitVec.toNat v % 8 = 4 ∧ nbits (BitVec.toNat v) 11 8 ≠ 3 ∧ nbits (BitVec.toNat v) 62 48 = 0) ∧
    (∃ (s : State) (page : BitVec 12) (v : Word) (p : Page), pageOf (page.toNat * 4096) = some p ∧ s.cfgOpen (rPgPerturb p.base) = true ∧ s.certified = false ∧ s.perturbOk p (BitVec.toNat v) = false) ∧
    (∃ (s : State) (page : BitVec 12) (v : Word) (p : Page), pageOf (page.toNat * 4096) = some p ∧ s.cfgOpen (rPgPerturb p.base) = true ∧ s.certified = true) :=
  ⟨⟨State.reset, 0x100, 0, (pageOf ((0x100 : BitVec 12).toNat * 4096)).get (by decide +kernel), by decide +kernel⟩,
   ⟨State.reset, 0x100, 1, (pageOf ((0x100 : BitVec 12).toNat * 4096)).get (by decide +kernel), by decide +kernel⟩,
   ⟨State.reset, 0x100, 0x0000000100010002, (pageOf ((0x100 : BitVec 12).toNat * 4096)).get (by decide +kernel), by decide +kernel⟩,
   ⟨State.reset, 0x181, 3, (pageOf ((0x181 : BitVec 12).toNat * 4096)).get (by decide +kernel), by decide +kernel⟩,
   ⟨State.reset, 0x040, 0x0001000000000104, (pageOf ((0x040 : BitVec 12).toNat * 4096)).get (by decide +kernel), by decide +kernel⟩,
   ⟨State.reset, 0x100, 0x0000000000000204, (pageOf ((0x100 : BitVec 12).toNat * 4096)).get (by decide +kernel), by decide +kernel⟩,
   ⟨State.reset, 0x100, 0x0000000000000104, (pageOf ((0x100 : BitVec 12).toNat * 4096)).get (by decide +kernel), by decide +kernel⟩,
   ⟨{ State.reset with sec := { State.reset.sec with life := { State.reset.sec.life with state := 2 } } }, 0x100, 1, (pageOf ((0x100 : BitVec 12).toNat * 4096)).get (by decide +kernel), by decide +kernel⟩⟩

theorem wit_PlainMemoryRequests :
    (∃ (s : State) (p : Packet), let a : Nat := (s.memCheck     { p with opcode := 1 }).off; admittedPlain s     { p with opcode := 1 } =   true ∧ s.anyPoison a p.len = false) ∧
    (∃ (s : State) (p : Packet), let a : Nat := (s.memCheck     { p with opcode := 19 }).off; admittedPlain s     { p with opcode := 19 } =   true ∧ s.anyPoison a p.len = false) ∧
    (∃ (s : State) (p : Packet), let a : Nat := (s.memCheck     { p with opcode := 2 }).off; let n : Nat := p.payload.length; s.Canon ∧ admittedPlain s     { p with opcode := 2 } =   true ∧ s.anyPoison a n = false ∧ p.mask = none ∧ p.poi = false) ∧
    (∃ (s : State) (p : Packet), let a : Nat := (s.memCheck     { p with opcode := 2 }).off; let n : Nat := p.payload.length; s.Canon ∧ admittedPlain s     { p with opcode := 2 } =   true ∧ s.anyPoison a n = false ∧ p.mask = none ∧ p.poi = true) ∧
    (∃ (s : State) (p : Packet) (m : BitVec 128) (i : Nat), let a : Nat := (s.memCheck     { p with opcode := 2 }).off; let n : Nat := p.payload.length; s.Canon ∧ admittedPlain s     { p with opcode := 2 } =   true ∧ s.anyPoison a n = false ∧ p.mask = some m ∧ a % 128 = 0 ∧ n = 128 ∧ p.poi = false ∧ i < 128) ∧
    (∃ (s : State) (p : Packet), let a : Nat := (s.memCheck     { p with opcode := 20 }).off; let n : Nat := p.payload.length; s.Canon ∧ admittedPlain s     { p with opcode := 20 } =   true ∧ s.anyPoison a n = false ∧ p.mask = none ∧ p.poi = false) ∧
    (∃ (s : State) (p : Packet), let a : Nat := (s.memCheck     { p with opcode := 20 }).off; let n : Nat := p.payload.length; s.Canon ∧ admittedPlain s     { p with opcode := 20 } =   true ∧ s.anyPoison a n = false ∧ p.mask = none ∧ p.poi = true) ∧
    (∃ (s : State) (p : Packet) (m : BitVec 128) (i : Nat), let a : Nat := (s.memCheck     { p with opcode := 20 }).off; let n : Nat := p.payload.length; s.Canon ∧ admittedPlain s     { p with opcode := 20 } =   true ∧ s.anyPoison a n = false ∧ p.mask = some m ∧ a % 128 = 0 ∧ n = 128 ∧ p.poi = false ∧ i < 128) ∧
    (∃ (s : State) (p : Packet), let sz : Nat := if atmW32 p = true then 4 else 8; let a : Nat := (s.memCheck       { p with opcode := 3 }).off -   (s.memCheck         { p with opcode := 3 }).off %     sz; s.Canon ∧ admittedPlain s     { p with opcode := 3 } =   true ∧ s.poisoned a = false) :=
  ⟨⟨tGranted, { len := 2, agent := 0x900, poi := true, payload := [1, 2] }, by decide +kernel⟩,
   ⟨tGranted, { len := 2, agent := 0x900, poi := true, payload := [1, 2] }, by decide +kernel⟩,
   ⟨tGranted, { len := 8, agent := 0x900 }, ⟨by decide +kernel, by decide +kernel, by decide +kernel⟩, by decide +kernel, by decide +kernel, by decide +kernel, by decide +kernel⟩,
   ⟨tGranted, { len := 2, agent := 0x900, poi := true, payload := [1, 2] }, ⟨by decide +kernel, by decide +kernel, by decide +kernel⟩, by decide +kernel, by decide +kernel, by decide +kernel, by decide +kernel⟩,
   ⟨tGranted, { len := 128, agent := 0x900, mask := some 5, payload := List.replicate 128 7 }, ({ len := 128, agent := 0x900, mask := some 5, payload := List.replicate 128 7 } : Packet).mask.get (by decide +kernel), 0, ⟨by decide +kernel, by decide +kernel, by decide +kernel⟩, by decide +kernel, by decide +kernel, by decide +kernel, by decide +kernel, by decide +kernel, by decide +kernel, by decide +kernel⟩,
   ⟨tGranted, { len := 8, agent := 0x900 }, ⟨by decide +kernel, by decide +kernel, by decide +kernel⟩, by decide +kernel, by decide +kernel, by decide +kernel, by decide +kernel⟩,
   ⟨tGranted, { len := 2, agent := 0x900, poi := true, payload := [1, 2] }, ⟨by decide +kernel, by decide +kernel, by decide +kernel⟩, by decide +kernel, by decide +kernel, by decide +kernel, by decide +kernel⟩,
   ⟨tGranted, { len := 128, agent := 0x900, mask := some 5, payload := List.replicate 128 7 }, ({ len := 128, agent := 0x900, mask := some 5, payload := List.replicate 128 7 } : Packet).mask.get (by decide +kernel), 0, ⟨by decide +kernel, by decide +kernel, by decide +kernel⟩, by decide +kernel, by decide +kernel, by decide +kernel, by decide +kernel, by decide +kernel, by decide +kernel, by decide +kernel⟩,
   ⟨tGranted, { len := 2, agent := 0x900, poi := true, payload := [1, 2] }, ⟨by decide +kernel, by decide +kernel, by decide +kernel⟩, by decide +kernel, by decide +kernel⟩⟩

theorem wit_CoherentRequestsAtHome :
    (∃ (s : State) (p : Packet) (n : Nat) (k : Nat) (w : Holder), s.who p = some w ∧ s.entry n k = { } ∧ admittedCoherent s     { p with opcode := 16 }     n k =   true) ∧
    (∃ (s : State) (p : Packet) (n : Nat) (k : Nat) (w : Holder), s.who p = some w ∧ s.entry n k = { } ∧ admittedCoherent s     { p with opcode := 17 }     n k =   true) ∧
    (∃ (s : State) (p : Packet) (n : Nat) (k : Nat) (a : Fin 49), s.who p = some (Holder.agent a) ∧ s.entry n k = ({} : DirEntry).addSharer a ∧ admittedCoherent s     { p with opcode := 18 }     n k =   true) ∧
    (∃ (s : State) (p : Packet) (n : Nat) (k : Nat) (a : Fin 49), s.who p = some (Holder.agent a) ∧ s.entry n k = ({} : DirEntry).addSharer a ∧ admittedCoherent s     { p with opcode := 21 }     n k =   true) ∧
    (∃ (s : State) (p : Packet) (n : Nat) (k : Nat), s.Canon ∧ admittedCoherent s     { p with opcode := 22 }     n k =   true ∧ ((∃ a, s.who p = some (Holder.agent a) ∧ s.entry n k = ({} : DirEntry).setOwner a LoState.m) ∨   s.who p = some (Holder.tiolo p.src) ∧ s.entry n k = { gstate := GState.m, gowner := p.src }) ∧ p.payload.length = 128 ∧ p.poi = false) ∧
    (∃ (s : State) (p : Packet) (n : Nat) (k : Nat), s.Canon ∧ admittedCoherent s     { p with opcode := 22 }     n k =   true ∧ ((∃ a, s.who p = some (Holder.agent a) ∧ s.entry n k = ({} : DirEntry).setOwner a LoState.m) ∨   s.who p = some (Holder.tiolo p.src) ∧ s.entry n k = { gstate := GState.m, gowner := p.src }) ∧ p.payload.length = 128 ∧ p.poi = true) :=
  ⟨⟨tCoherent, { agent := 0x900, gfa := 0x2000, len := 128, poi := true, payload := List.replicate 128 7 }, 2, 0x40, ((tCoherent : State).who ({ agent := 0x900, gfa := 0x2000, len := 128, poi := true, payload := List.replicate 128 7 } : Packet)).get (by decide +kernel), by decide +kernel⟩,
   ⟨tCoherent, { agent := 0x900, gfa := 0x2000, len := 128, poi := true, payload := List.replicate 128 7 }, 2, 0x40, ((tCoherent : State).who ({ agent := 0x900, gfa := 0x2000, len := 128, poi := true, payload := List.replicate 128 7 } : Packet)).get (by decide +kernel), by decide +kernel⟩,
   ⟨(tCoherent.putEntry 2 0x40 (({} : DirEntry).addSharer 32)), { agent := 0x900, gfa := 0x2000, len := 128, poi := true, payload := List.replicate 128 7 }, 2, 0x40, 32, by decide +kernel⟩,
   ⟨(tCoherent.putEntry 2 0x40 (({} : DirEntry).addSharer 32)), { agent := 0x900, gfa := 0x2000, len := 128, poi := true, payload := List.replicate 128 7 }, 2, 0x40, 32, by decide +kernel⟩,
   ⟨tCoherent.putEntry 2 0x40 (({} : DirEntry).setOwner 32 .m), { agent := 0x900, gfa := 0x2000, len := 128, payload := List.replicate 128 7 }, 2, 0x40, ⟨by decide +kernel, by decide +kernel, by decide +kernel⟩, by decide +kernel, Or.inl ⟨32, by decide +kernel⟩, by decide +kernel⟩,
   ⟨tCoherent.putEntry 2 0x40 (({} : DirEntry).setOwner 32 .m), { agent := 0x900, gfa := 0x2000, len := 128, poi := true, payload := List.replicate 128 7 }, 2, 0x40, ⟨by decide +kernel, by decide +kernel, by decide +kernel⟩, by decide +kernel, Or.inl ⟨32, by decide +kernel⟩, by decide +kernel⟩⟩

theorem wit_CoherentTransactionsGoOn :
    (∃ (s : State) (p : Packet) (n : SliceIx) (k : BitVec 49) (a : Fin 49) (e : Nat) (x : Extent), (s.cadSlice n.val).txns = [{ lines := [k.toNat], kind := TxnKind.home, req := p, reading := true }] ∧ p.opcode = 16 ∧ s.who p = some (Holder.agent a) ∧ s.entry n.val k.toNat = { } ∧ keyHome k.toNat = s.ix ∧ s.extAt (keyOff k.toNat) = some (e, x) ∧ x.wb = false ∧ s.lostAt x (keyOff k.toNat) 128 = false ∧ (s.cadSlice n.val).sweeping = [] ∧ s.poisoned (keyOff k.toNat) = false ∧ s.calmLine (keyOff k.toNat / 128) = true) ∧
    (∃ (s : State) (p : Packet) (c : Packet) (n : SliceIx) (k : BitVec 49), (s.cadSlice n.val).txns =   [{ lines := [k.toNat], kind := TxnKind.home, req := p, writes := 1, applied := true, ans := some c }]) ∧
    (∃ (s : State) (n : SliceIx) (k : BitVec 49) (m : Nat), (s.cadSlice n.val).txns = [] ∧ m ≠ n.val) ∧
    (∃ (s : State) (n : SliceIx) (p : Packet), (s.cadSlice n.val).conflictQ = [(0, p)] ∧ p.cls = 1 ∧ (s.cadSlice n.val).txns = [] ∧ gfaHome p.gfa ≠ s.ix ∧ keyOff (p.gfa.toNat / 128) / 4096 % 4 = n.val ∧ (s.entry n.val (p.gfa.toNat / 128)).isFree = true) ∧
    (∃ (s : State) (n : Nat) (p : Packet) (h : Holder) (w : Nat × Holder) (x : Txn) (lost : Bool) (m : Nat), s.keySlice (p.gfa.toNat / 128) = n ∧ s.who p = some h ∧ (s.cadSlice n).txns = [x] ∧ x.waiting = [(p.gfa.toNat / 128, h), w] ∧ x.got = [] ∧ (lost = false ∨ (s.entry n (p.gfa.toNat / 128)).dirtyAt h = false) ∧ m ≠ n) ∧
    (∃ (s : State) (n : Nat) (p : Packet) (h : Holder) (w : Nat × Holder) (x : Txn) (lost : Bool), s.keySlice (p.gfa.toNat / 128) = n ∧ s.who p = some h ∧ (s.cadSlice n).txns = [x] ∧ x.waiting = [(p.gfa.toNat / 128, h), w] ∧ x.got = [] ∧ (lost = false ∨ (s.entry n (p.gfa.toNat / 128)).dirtyAt h = false) ∧ lost = false) :=
  ⟨⟨(tCoherent.modSlice 2 (fun c => { c with txns := [{ lines := [0x40], kind := .home, req := { agent := 0x900, gfa := 0x2000, len := 128, opcode := 0x10 }, reading := true }] })), { agent := 0x900, gfa := 0x2000, len := 128, opcode := 0x10 }, 2, 0x40, 32, ((((tCoherent.modSlice 2 (fun c => { c with txns := [{ lines := [0x40], kind := .home, req := { agent := 0x900, gfa := 0x2000, len := 128, opcode := 0x10 }, reading := true }] })) : State).extAt (keyOff (0x40 : BitVec 49).toNat)).get (by decide +kernel)).fst, ((((tCoherent.modSlice 2 (fun c => { c with txns := [{ lines := [0x40], kind := .home, req := { agent := 0x900, gfa := 0x2000, len := 128, opcode := 0x10 }, reading := true }] })) : State).extAt (keyOff (0x40 : BitVec 49).toNat)).get (by decide +kernel)).snd, by decide +kernel⟩,
   ⟨(tCoherent.modSlice 2 (fun c => { c with txns := [{ lines := [0x40], kind := .home, req := { agent := 0x900, gfa := 0x2000, len := 128, opcode := 0x16 }, applied := true, writes := 1, ans := some {} }] })), { agent := 0x900, gfa := 0x2000, len := 128, opcode := 0x16 }, {}, 2, 0x40, by decide +kernel⟩,
   ⟨tCoherent, 2, 0x40, 3, by decide +kernel⟩,
   ⟨(tCoherent.modSlice 2 (fun c => { c with conflictQ := [(0, { cls := 1, gfa := 0x400000002000 })] })), 2, (((tCoherent.modSlice 2 (fun c => { c with conflictQ := [(0, { cls := 1, gfa := 0x400000002000 })] }) : State).cadSlice ↑(2 : SliceIx)).conflictQ.head (by decide +kernel)).snd, by decide +kernel⟩,
   ⟨(tCoherent.modSlice 2 (fun c => { c with txns := [{ lines := [0x40], kind := .home, req := {}, waiting := [(0x40, .agent 32), (0x40, .agent 33)] }] })), 2, { agent := 0x900, gfa := 0x2000, len := 128, opcode := 0x10 }, (((tCoherent.modSlice 2 (fun c => { c with txns := [{ lines := [0x40], kind := .home, req := {}, waiting := [(0x40, .agent 32), (0x40, .agent 33)] }] })) : State).who ({ agent := 0x900, gfa := 0x2000, len := 128, opcode := 0x10 } : Packet)).get (by decide +kernel), (0x40, .agent 33), (((tCoherent.modSlice 2 (fun c => { c with txns := [{ lines := [0x40], kind := .home, req := {}, waiting := [(0x40, .agent 32), (0x40, .agent 33)] }] })) : State).cadSlice (2 : Nat)).txns.head (by decide +kernel), false, 3, by decide +kernel⟩,
   ⟨(tCoherent.modSlice 2 (fun c => { c with txns := [{ lines := [0x40], kind := .home, req := {}, waiting := [(0x40, .agent 32), (0x40, .agent 33)] }] })), 2, { agent := 0x900, gfa := 0x2000, len := 128, opcode := 0x10 }, (((tCoherent.modSlice 2 (fun c => { c with txns := [{ lines := [0x40], kind := .home, req := {}, waiting := [(0x40, .agent 32), (0x40, .agent 33)] }] })) : State).who ({ agent := 0x900, gfa := 0x2000, len := 128, opcode := 0x10 } : Packet)).get (by decide +kernel), (0x40, .agent 33), (((tCoherent.modSlice 2 (fun c => { c with txns := [{ lines := [0x40], kind := .home, req := {}, waiting := [(0x40, .agent 32), (0x40, .agent 33)] }] })) : State).cadSlice (2 : Nat)).txns.head (by decide +kernel), false, by decide +kernel⟩⟩

theorem wit_SnoopsAtTheProxy :
    (∃ (s : State) (p : Packet) (n : Nat) (k : Nat), gfaHome p.gfa ≠ s.ix ∧ k = p.gfa.toNat / 128 ∧ n = keyOff k / 4096 % 4 ∧ s.roundOn n k = false ∧ (s.entry n k).locals = [] ∧ (s.entry n k).lostData = false ∧ s.inFlight n k = none) ∧
    (∃ (s : State) (p : Packet) (n : Nat) (g : Nat), gfaHome p.gfa ≠ s.ix ∧ n = gfaOff p.gfa / 4096 % 4 ∧ (s.cadSlice n).replHolders = [] ∧ g ≠ p.gfa.toNat / 4096) ∧
    (∃ (s : State) (p : Packet) (n : Nat) (m : Nat), gfaHome p.gfa ≠ s.ix ∧ n = gfaOff p.gfa / 4096 % 4 ∧ (s.cadSlice n).replHolders = [] ∧ m ≠ n) :=
  ⟨⟨tProxyHolds, { gfa := 0x400000002000, src := 1 }, 2, ({ gfa := 0x400000002000, src := 1 } : Packet).gfa.toNat / 128, by decide +kernel⟩,
   ⟨tProxyHolds, { gfa := 0x400000002000, src := 1 }, gfaOff ({ gfa := 0x400000002000, src := 1 } : Packet).gfa / 4096 % 4, 2, by decide +kernel⟩,
   ⟨tProxyHolds, { gfa := 0x400000002000, src := 1 }, gfaOff ({ gfa := 0x400000002000, src := 1 } : Packet).gfa / 4096 % 4, 0x8000000040, by decide +kernel⟩⟩

theorem wit_ReplicasAtHome :
    (∃ (s : State) (p : Packet) (n : Nat) (pg : Nat) (g : Nat), admittedPage s p n pg = true ∧ s.qualifies n (keyOff (32 * pg)) = true ∧ s.shortSet n (pageLines pg) = none ∧ (((pageLines pg).all fun k => (s.entry n k).owner.isNone) = true) ∧ s.anyPoison (keyOff (32 * pg)) 4096 = false ∧ g ≠ pg) ∧
    (∃ (s : State) (p : Packet) (n : Nat) (pg : Nat) (k : Nat), admittedPage s p n pg = true ∧ s.qualifies n (keyOff (32 * pg)) = true ∧ s.shortSet n (pageLines pg) = none ∧ (((pageLines pg).all fun k => (s.entry n k).owner.isNone) = true) ∧ s.anyPoison (keyOff (32 * pg)) 4096 = false ∧ k ∈ pageLines pg) ∧
    (∃ (s : State) (p : Packet) (n : Nat) (pg : Nat) (k : Nat), admittedPage s p n pg = true ∧ s.qualifies n (keyOff (32 * pg)) = true ∧ s.shortSet n (pageLines pg) = none ∧ (((pageLines pg).all fun k => (s.entry n k).owner.isNone) = true) ∧ s.anyPoison (keyOff (32 * pg)) 4096 = false ∧ ¬k ∈ pageLines pg) ∧
    (∃ (s : State) (p : Packet) (n : Nat) (pg : Nat), admittedPage s p n pg = true ∧ s.qualifies n (keyOff (32 * pg)) = false) ∧
    (∃ (s : State) (p : Packet), admittedPlain s     { p with opcode := 23 } =   true) ∧
    (∃ (s : State) (n : SliceIx) (m : Nat), s.replOn n.val = true ∧ m ≠ n.val) ∧
    (∃ (s : State) (n : SliceIx), s.replOn n.val = false) ∧
    (∃ (s : State) (n : SliceIx) (g : BitVec 44) (h : Nat), h ≠ g.toNat) ∧
    (∃ (s : State) (n : SliceIx) (g : BitVec 44) (m : Nat), m ≠ n.val) :=
  ⟨⟨tReplPage, { gfa := 0x2000, src := 1, opcode := 0x17 }, 2, 2, 0, by decide +kernel⟩,
   ⟨tReplPage, { gfa := 0x2000, src := 1, opcode := 0x17 }, 2, 2, (pageLines (2 : Nat)).head (by decide +kernel), by decide +kernel⟩,
   ⟨tReplPage, { gfa := 0x2000, src := 1, opcode := 0x17 }, 2, 2, 2, by decide +kernel⟩,
   ⟨tCoherent, { gfa := 0x2000, src := 1, opcode := 0x17 }, 2, 2, by decide +kernel⟩,
   ⟨tReplPage, {}, by decide +kernel⟩,
   ⟨tReplPage, 2, 0, by decide +kernel⟩,
   ⟨tReplPage, 0, by decide +kernel⟩,
   ⟨tReplPage, 2, 0, 2, by decide +kernel⟩,
   ⟨tReplPage, 2, 0, 0, by decide +kernel⟩⟩

theorem wit_HoldersThatFail :
    (∃ (s : State) (n : SliceIx) (k : BitVec 49) (a : Fin 49) (m : Nat), ((s.txnIx n.val fun t => t.waiting.contains (k.toNat, Holder.agent a)).isSome = true) ∧ (s.cadSlice n.val).sweeping.contains a.val = false ∧ m < 4) ∧
    (∃ (s : State) (n : SliceIx) (k : BitVec 49) (a : Fin 49), ((s.txnIx n.val fun t => t.waiting.contains (k.toNat, Holder.agent a)).isSome = true) ∧ (s.cadSlice n.val).sweeping.contains a.val = true) ∧
    (∃ (s : State) (n : SliceIx) (k : BitVec 49) (x : BitVec 10), (s.txnIx n.val fun t => t.waiting.contains (k.toNat, Holder.tiolo x)).isSome = true) ∧
    (∃ (s : State) (n : SliceIx) (m : Nat), ((List.any (s.cadSlice n.val).entries fun e => e.snd.locals.any fun a => (s.cadSlice n.val).sweeping.contains ↑a) = false) ∧ m ≠ n.val) ∧
    (∃ (s : State) (n : SliceIx), ((List.any (s.cadSlice n.val).entries fun e => e.snd.locals.any fun a => (s.cadSlice n.val).sweeping.contains ↑a) = false) ∧ s.recov.beatDue = false) ∧
    (∃ (s : State) (n : SliceIx), (List.any (s.cadSlice n.val).entries fun e => e.snd.locals.any fun a => (s.cadSlice n.val).sweeping.contains ↑a) = true) ∧
    (∃ (s : State) (n : SliceIx) (v : Word), s.cfgOpen (rCadDead n.val) = true ∧ s.bit (rCadDead n.val) 63 = false) ∧
    (∃ (s : State) (n : SliceIx) (j : Fin 16) (v : Word), s.cfgOpen (rCadSever n.val j.val) = true) ∧
    (∃ (s : State) (n : SliceIx) (k : BitVec 49) (e : Nat) (x : Extent), s.keySlice k.toNat = n.val ∧ keyHome k.toNat = s.ix ∧ (s.cadSlice n.val).txns = [] ∧ s.extAt (keyOff k.toNat) = some (e, x) ∧ s.ext e = x) :=
  ⟨⟨(tCoherent.modSlice 2 (fun c => { c with txns := [{ lines := [0x40], kind := .home, req := {}, waiting := [(0x40, .agent 32), (0x40, .agent 33)] }] })), 2, 0x40, 32, 3, by decide +kernel⟩,
   ⟨(tCoherent.modSlice 2 (fun c => { c with sweeping := [32], txns := [{ lines := [0x40], kind := .home, req := {}, waiting := [(0x40, .agent 32)] }] })), 2, 0x40, 32, by decide +kernel⟩,
   ⟨(tCoherent.modSlice 2 (fun c => { c with txns := [{ lines := [0x40], kind := .home, req := {}, waiting := [(0x40, .tiolo 5), (0x40, .agent 33)] }] })), 2, 0x40, 5, by decide +kernel⟩,
   ⟨(tCoherent.modSlice 2 (fun c => { c with sweeping := [32], txns := [{ lines := [0x40], kind := .home, req := {}, waiting := [(0x40, .agent 32)] }] })), 1, 3, by decide +kernel⟩,
   ⟨(tCoherent.modSlice 2 (fun c => { c with sweeping := [32], txns := [{ lines := [0x40], kind := .home, req := {}, waiting := [(0x40, .agent 32)] }] })), 1, by decide +kernel⟩,
   ⟨(tCoherent.putEntry 2 0x40 (({} : DirEntry).addSharer 32)).modSlice 2 (fun c => { c with sweeping := [32] }), 2, by decide +kernel⟩,
   ⟨(tCoherent.modSlice 2 (fun c => { c with sweeping := [32], txns := [{ lines := [0x40], kind := .home, req := {}, waiting := [(0x40, .agent 32)] }] })), 1, 0, by decide +kernel⟩,
   ⟨(tCoherent.modSlice 2 (fun c => { c with sweeping := [32], txns := [{ lines := [0x40], kind := .home, req := {}, waiting := [(0x40, .agent 32)] }] })), 1, 3, 0, by decide +kernel⟩,
   ⟨tCoherent.modSlice 2 (fun c => { c with sweeping := [32], txns := [{ lines := [0x40], kind := .home, req := {}, waiting := [(0x40, .agent 32)] }] }), 0, 0, 1, tCoherent.ext 1, by decide +kernel⟩⟩

theorem wit_SliceControl :
    (∃ (s : State) (n : SliceIx) (v : Word), let u : State := s.cadCtlFields n.val (BitVec.toNat v); let gib : Nat := nbits (BitVec.toNat v) 11 8; let fits : Bool := decide (1 ≤ gib) && decide (gib ≤ 8) && (s.backingGib == 0 || s.backingGib == gib) && !u.grantsAbove (u.topWith n.val) &&   u.stacksOk; s.cfgOpen (rCadCtl n.val) = true ∧ BitVec.getLsbD v 0 = true ∧ s.bit (rCadCtl n.val) 0 = false ∧ fits = true) ∧
    (∃ (s : State) (n : SliceIx) (v : Word), let u : State := s.cadCtlFields n.val (BitVec.toNat v); let gib : Nat := nbits (BitVec.toNat v) 11 8; let fits : Bool := decide (1 ≤ gib) && decide (gib ≤ 8) && (s.backingGib == 0 || s.backingGib == gib) && !u.grantsAbove (u.topWith n.val) &&   u.stacksOk; s.cfgOpen (rCadCtl n.val) = true ∧ BitVec.getLsbD v 0 = true ∧ s.bit (rCadCtl n.val) 0 = false ∧ fits = false) ∧
    (∃ (s : State) (n : SliceIx) (v : Word), s.cfgOpen (rCadCtl n.val) = true ∧ (BitVec.getLsbD v 0 = false ∨ s.bit (rCadCtl n.val) 0 = true)) ∧
    (∃ (s : State) (n : SliceIx) (v : Word) (j : Nat), s.cfgOpen (rCadProbeAddr n.val) = true ∧ BitVec.getLsbD v 63 = true ∧ j < 4) :=
  ⟨⟨State.reset, 1, 0x101, by decide +kernel⟩,
   ⟨State.reset, 1, 0x001, by decide +kernel⟩,
   ⟨State.reset, 1, 0x8000000000002000, by decide +kernel⟩,
   ⟨State.reset, 1, 0x8000000000002000, 0, by decide +kernel⟩⟩

theorem wit_PacketsEnterTheSwitch :
    (∃ (s : State) (j : PortIx) (p : Packet), s.portRole j.val = roleGrid ∧ p.cls.toNat ≤ 5 ∧ knownOp p.opcode.toNat = true ∧ p.mcx = none ∧ destOf (oneHop p) = s.ix ∧ s.inGrid s.ix = true ∧ endPort (oneHop p) Entry.grid = none ∧ s.noEndpoint (oneHop p) Entry.grid = false ∧ nbit (s.reg (rPortSmp j.val)) (6 * p.cls.toNat + 5) = false ∧ s.hasRoom (j.val / 8) (pktCells (oneHop p)) = true) ∧
    (∃ (s : State) (j : PortIx) (p : Packet), s.portRole j.val = roleGrid ∧ p.cls.toNat ≤ 5 ∧ knownOp p.opcode.toNat = true ∧ p.mcx = none ∧ destOf (oneHop p) = s.ix ∧ s.inGrid s.ix = true ∧ endPort (oneHop p) Entry.grid = none ∧ s.noEndpoint (oneHop p) Entry.grid = false ∧ nbit (s.reg (rPortSmp j.val)) (6 * p.cls.toNat + 5) = false ∧ s.hasRoom (j.val / 8) (pktCells (oneHop p)) = false) ∧
    (∃ (s : State) (j : PortIx) (p : Packet), s.portRole j.val = roleAccel ∧ p.cls = 0 ∧ s.portParcel j.val = none ∧ p.opcode.toNat ≠ opSAK ∧ p.opcode.toNat ≠ opSDA ∧ nbit (s.reg (rPortSmp j.val)) (6 * p.cls.toNat + 5) = false) ∧
    (∃ (s : State) (j : PortIx) (v : Fin 18) (x : Stored), s.waitingHead j.val v.val = some x ∧ s.expired x.pkt x.res = false ∧ s.headFree j.val x = true ∧ s.headFits x = true ∧ s.headMeter j.val x = true ∧ x.outs ≠ []) ∧
    (∃ (s : State) (j : PortIx) (v : Fin 18) (x : Stored) (y : Stored), s.waitingHead j.val v.val = some x ∧ s.expired x.pkt x.res = false ∧ s.headFree j.val x = true ∧ s.headFits x = true ∧ s.headMeter j.val x = true ∧ x.outs = []) ∧
    (∃ (s : State) (j : PortIx) (v : Fin 18) (x : Stored) (y : Stored), s.waitingHead j.val v.val = some x ∧ s.expired x.pkt x.res = false ∧ s.headFree j.val x = true ∧ s.headFits x = true ∧ s.headMeter j.val x = true ∧ y ∈ s.sw.buf ∧ y.id ≠ x.id) ∧
    (∃ (s : State) (j : PortIx) (v : Fin 18) (x : Stored), s.waitingHead j.val v.val = some x ∧ s.expired x.pkt x.res = false ∧ s.headFree j.val x = false) ∧
    (∃ (s : State) (j : PortIx) (v : Fin 18) (x : Stored), s.waitingHead j.val v.val = some x ∧ s.expired x.pkt x.res = false ∧ s.headFree j.val x = true ∧ s.headFits x = false) ∧
    (∃ (s : State) (j : PortIx) (v : Fin 18) (x : Stored), s.waitingHead j.val v.val = some x ∧ s.expired x.pkt x.res = false ∧ s.headFree j.val x = true ∧ s.headFits x = true ∧ s.headMeter j.val x = false) ∧
    (∃ (s : State) (p : Packet), p.dst.toNat / 128 = s.ix) ∧
    (∃ (s : State) (p : Packet), p.dst.toNat / 128 ≠ s.ix) :=
  ⟨⟨{ State.reset.setReg (rPortRole 5) roleGrid with sw := { buf := [{ tStored with cells := 2000000 }], nextId := 1 } }, 5, { opcode := 0x01 }, by decide +kernel⟩,
   ⟨tFull 6144, 5, { opcode := 0x01 }, by decide +kernel, by decide +kernel, by decide +kernel, by decide +kernel, by decide +kernel, by decide +kernel, by decide +kernel, by decide +kernel, by decide +kernel, tFull_room 6144 (Nat.le_refl _)⟩,
   ⟨State.reset.setReg (rPortRole 5) roleAccel, 5, { dst := 0x80 }, by decide +kernel⟩,
   ⟨{ tBuffer { tStored with admitted := false, link := some (5, 0) } with sw := { buf := [{ tStored with admitted := false, link := some (5, 0) }, { tStored with id := 1 }], nextId := 2 } }, 5, 0, (({ tBuffer { tStored with admitted := false, link := some (5, 0) } with sw := { buf := [{ tStored with admitted := false, link := some (5, 0) }, { tStored with id := 1 }], nextId := 2 } } : State).waitingHead ↑(5 : PortIx) ↑(0 : Fin 18)).get (by decide +kernel), by decide +kernel⟩,
   ⟨tBuffer { tStored with admitted := false, outs := [], link := some (5, 0) }, 5, 0, ((tBuffer { tStored with admitted := false, outs := [], link := some (5, 0) } : State).waitingHead ↑(5 : PortIx) ↑(0 : Fin 18)).get (by decide +kernel), { tStored with admitted := false, outs := [], link := some (5, 0) }, by decide +kernel⟩,
   ⟨{ tBuffer { tStored with admitted := false, link := some (5, 0) } with sw := { buf := [{ tStored with admitted := false, link := some (5, 0) }, { tStored with id := 1 }], nextId := 2 } }, 5, 0, { tStored with admitted := false, link := some (5, 0) }, { tStored with id := 1 }, by decide +kernel⟩,
   ⟨(tBuffer { tStored with admitted := false, internal := true, link := some (5, 0) }).modSlice 0 (fun c => { c with holdQ := List.replicate 1024 (0, {}) }), 5, 0, (((tBuffer { tStored with admitted := false, internal := true, link := some (5, 0) }).modSlice 0 (fun c => { c with holdQ := List.replicate 1024 (0, {}) }) : State).waitingHead ↑(5 : PortIx) ↑(0 : Fin 18)).get (by decide +kernel), by decide +kernel⟩,
   ⟨(tBuffer { tStored with admitted := false, link := some (5, 0) }).setReg rSchClassRsv 0xFF000000, 5, 0, (((tBuffer { tStored with admitted := false, link := some (5, 0) }).setReg rSchClassRsv 0xFF000000 : State).waitingHead ↑(5 : PortIx) ↑(0 : Fin 18)).get (by decide +kernel), by decide +kernel⟩,
   ⟨{ (((tBuffer { tStored with admitted := false, link := some (5, 0) }).setReg (rPortRole 5) roleAccel).setReg (rPclGrant 0 2) 32) with traf := { meters := [(0, { cfg0 := 0x8000000000000000, cfg1 := 1 })] } }, 5, 0, (({ (((tBuffer { tStored with admitted := false, link := some (5, 0) }).setReg (rPortRole 5) roleAccel).setReg (rPclGrant 0 2) 32) with traf := { meters := [(0, { cfg0 := 0x8000000000000000, cfg1 := 1 })] } } : State).waitingHead ↑(5 : PortIx) ↑(0 : Fin 18)).get (by decide +kernel), by decide +kernel⟩,
   ⟨State.reset, { opcode := 0x01 }, by decide +kernel⟩,
   ⟨State.reset, { dst := 0x80 }, by decide +kernel⟩⟩

theorem wit_PacketsAgeAndAreSampled :
    (∃ (s : State), (s.sw.buf.all fun x => x.frame.isSome || !s.expired x.pkt x.res) = true) ∧
    (∃ (s : State) (x : Stored), s.sw.buf = [x] ∧ x.frame = none ∧ s.expired x.pkt x.res = true ∧ x.started = [] ∧ x.pkt.cls = 0 ∧ x.pkt.opcode.toNat ≠ opDRN ∧ (x.admitted = true ∨ x.link = none)) ∧
    (∃ (s : State) (x : Stored) (j : Nat) (v : Nat), s.sw.buf = [x] ∧ x.frame = none ∧ s.expired x.pkt x.res = true ∧ x.started = [] ∧ x.pkt.cls = 0 ∧ x.pkt.opcode.toNat ≠ opDRN ∧ x.admitted = false ∧ x.link = some (j, v)) ∧
    (∃ (s : State) (x : Sample) (rest : List Sample), s.sw.samples = x :: rest) ∧
    (∃ (s : State) (v : Word), s.cfgOpen rSchClassRsv = true ∧ s.linkReserve + 8192 * rsvMiB (BitVec.toNat v) ≤ 96 * 8192) ∧
    (∃ (s : State) (v : Word), s.cfgOpen rSchClassRsv = true ∧ 96 * 8192 < s.linkReserve + 8192 * rsvMiB (BitVec.toNat v)) ∧
    (∃ (s : State), (s.sw.buf.all fun x => x.admitted) = true) :=
  ⟨⟨State.reset, by decide +kernel⟩,
   ⟨tBuffer { tStored with res := 10000000000 }, (tBuffer { tStored with res := 10000000000 } : State).sw.buf.head (by decide +kernel), by decide +kernel⟩,
   ⟨tBuffer { tStored with res := 10000000000, admitted := false, link := some (5, 0) }, (tBuffer { tStored with res := 10000000000, admitted := false, link := some (5, 0) } : State).sw.buf.head (by decide +kernel), (((tBuffer { tStored with res := 10000000000, admitted := false, link := some (5, 0) } : State).sw.buf.head (by decide +kernel)).link.get (by decide +kernel)).fst, (((tBuffer { tStored with res := 10000000000, admitted := false, link := some (5, 0) } : State).sw.buf.head (by decide +kernel)).link.get (by decide +kernel)).snd, by decide +kernel⟩,
   ⟨{ State.reset with sw := { samples := [tSample] } }, ({ State.reset with sw := { samples := [tSample] } } : State).sw.samples.head (by decide +kernel), ({ State.reset with sw := { samples := [tSample] } } : State).sw.samples.tail, by decide +kernel⟩,
   ⟨State.reset, 0x010203, by decide +kernel⟩,
   ⟨State.reset, 0xFFFFFF, by decide +kernel⟩,
   ⟨State.reset, by decide +kernel⟩⟩

theorem wit_MetersAndGrades :
    (∃ (s : State) (k : Nat), k < 140) ∧
    (∃ (s : State) (j : Nat), j < 8) ∧
    (∃ (s : State), (s.sw.buf.all fun x => x.admitted) = true) ∧
    (∃ (s : State) (v : Word) (m : Nat) (k : Nat), s.cfgOpen rMtrCfg0 = true ∧ s.fld rMtrSel 8 0 = m ∧ m < 320 ∧ ({ s.meter m with cfg0 := v } : Meter).ok =   true ∧ k ≠ m) ∧
    (∃ (s : State) (v : Word) (m : Nat) (k : Nat), s.cfgOpen rMtrCfg1 = true ∧ s.fld rMtrSel 8 0 = m ∧ m < 320 ∧ (BitVec.getLsbD v 0 = false ∨ (s.meter m).ok = true) ∧ k ≠ m) ∧
    (∃ (s : State) (v : Word) (m : Nat) (b : Bool) (k : Nat), (s.cfgOpen (if b = true then rMtrCfg1 else rMtrCfg0) = true) ∧ s.fld rMtrSel 8 0 = m ∧ m < 320 ∧ (if b = true then BitVec.getLsbD v 0 = true ∧ (s.meter m).ok = false else   ({ s.meter m with cfg0 := v } : Meter).ok =     false) ∧ k ≠ m) ∧
    (∃ (s : State) (v : Word) (k : Nat) (i : Nat), let y : Shaper := have __src := s.shaper k; { cfg := BitVec.ofNat 64 (shpMask (BitVec.toNat v)), tokens := __src.tokens }; let ok : Bool := decide (1 ≤ nbits (BitVec.toNat v) 31 16) && decide (5 ≤ nbits (BitVec.toNat v) 47 32) &&   !(BitVec.getLsbD v 0 && List.any s.traf.shapers fun e => e.fst != k && e.snd.en && e.snd.target == y.target); s.cfgOpen rShpCfg = true ∧ s.fld rShpSel 7 0 = k ∧ ok = true ∧ i ≠ k) ∧
    (∃ (s : State) (v : Word) (k : Nat) (i : Nat), let y : Shaper := have __src := s.shaper k; { cfg := BitVec.ofNat 64 (shpMask (BitVec.toNat v)), tokens := __src.tokens }; let ok : Bool := decide (1 ≤ nbits (BitVec.toNat v) 31 16) && decide (5 ≤ nbits (BitVec.toNat v) 47 32) &&   !(BitVec.getLsbD v 0 && List.any s.traf.shapers fun e => e.fst != k && e.snd.en && e.snd.target == y.target); s.cfgOpen rShpCfg = true ∧ s.fld rShpSel 7 0 = k ∧ ok = false ∧ i ≠ k) :=
  ⟨⟨State.reset, 0, by decide +kernel⟩,
   ⟨State.reset, 0, by decide +kernel⟩,
   ⟨State.reset, by decide +kernel⟩,
   ⟨State.reset, 0x0005000500020001, (State.reset : State).fld rMtrSel 8 0, 1, by decide +kernel⟩,
   ⟨State.reset, 0, (State.reset : State).fld rMtrSel 8 0, 1, by decide +kernel⟩,
   ⟨State.reset, 0, (State.reset : State).fld rMtrSel 8 0, false, 1, by decide +kernel⟩,
   ⟨State.reset, 0x0005000500020001, (State.reset : State).fld rShpSel 7 0, 1, by decide +kernel⟩,
   ⟨State.reset, 0, (State.reset : State).fld rShpSel 7 0, 1, by decide +kernel⟩⟩

theorem wit_GateLists :
    (∃ (s : State) (p : PortIx) (v : Word), let base : Nat := nbits (BitVec.toNat v) 11 0; let count : Nat := nbits (BitVec.toNat v) 20 12; s.cfgOpen (rPortGate p.val) = true ∧ BitVec.getLsbD v 48 = true ∧ s.listOk p.val base count = true ∧ s.gate p.val = none) ∧
    (∃ (s : State) (p : PortIx) (v : Word) (g : Gate), let base : Nat := nbits (BitVec.toNat v) 11 0; let count : Nat := nbits (BitVec.toNat v) 20 12; s.cfgOpen (rPortGate p.val) = true ∧ BitVec.getLsbD v 48 = true ∧ s.listOk p.val base count = true ∧ s.gate p.val = some g ∧ (g.base ≠ base ∨ g.count ≠ count)) ∧
    (∃ (s : State) (p : PortIx) (v : Word) (g : Gate), let base : Nat := nbits (BitVec.toNat v) 11 0; let count : Nat := nbits (BitVec.toNat v) 20 12; s.cfgOpen (rPortGate p.val) = true ∧ BitVec.getLsbD v 48 = true ∧ s.listOk p.val base count = true ∧ s.gate p.val = some g ∧ g.base = base ∧ g.count = count) ∧
    (∃ (s : State) (p : PortIx) (v : Word), let base : Nat := nbits (BitVec.toNat v) 11 0; let count : Nat := nbits (BitVec.toNat v) 20 12; s.cfgOpen (rPortGate p.val) = true ∧ BitVec.getLsbD v 48 = true ∧ s.listOk p.val base count = false) ∧
    (∃ (s : State) (p : PortIx) (v : Word), s.cfgOpen (rPortGate p.val) = true ∧ BitVec.getLsbD v 48 = false) ∧
    (∃ (s : State) (v : Word) (k : Nat), s.cfgOpen rGlData = true ∧ s.entryInEffect (s.fld rGlAddr 11 0) = false ∧ k ≠ s.fld rGlAddr 11 0) ∧
    (∃ (s : State) (v : Word), s.cfgOpen rGlData = true ∧ s.entryInEffect (s.fld rGlAddr 11 0) = true) ∧
    (∃ (s : State) (p : PortIx) (g : Gate) (q : Nat), s.gate p.val = some g ∧ g.anchored = true ∧ g.entry + 1 < g.count ∧ q ≠ p.val) ∧
    (∃ (s : State) (p : PortIx) (g : Gate), s.gate p.val = some g ∧ g.anchored = true ∧ g.count ≤ g.entry + 1) :=
  ⟨⟨State.reset, 5, 0x0001000000001000, by decide +kernel⟩,
   ⟨State.reset.setGate 5 { base := 8, count := 1 }, 5, 0x0001000000001000, ((State.reset.setGate 5 { base := 8, count := 1 } : State).gate ↑(5 : PortIx)).get (by decide +kernel), by decide +kernel⟩,
   ⟨State.reset.setGate 5 { base := 0, count := 1, anchored := true }, 5, 0x0001000000001000, ((State.reset.setGate 5 { base := 0, count := 1, anchored := true } : State).gate ↑(5 : PortIx)).get (by decide +kernel), by decide +kernel⟩,
   ⟨State.reset, 5, 0x0001000000000000, by decide +kernel⟩,
   ⟨State.reset, 5, 0, by decide +kernel⟩,
   ⟨State.reset, 0x0001000000001000, 1, by decide +kernel⟩,
   ⟨State.reset.setGate 5 { base := 0, count := 1, anchored := true }, 0x0001000000001000, by decide +kernel⟩,
   ⟨State.reset.setGate 5 { base := 0, count := 2, anchored := true }, 5, ((State.reset.setGate 5 { base := 0, count := 2, anchored := true } : State).gate ↑(5 : PortIx)).get (by decide +kernel), 0, by decide +kernel⟩,
   ⟨State.reset.setGate 5 { base := 0, count := 1, anchored := true }, 5, ((State.reset.setGate 5 { base := 0, count := 1, anchored := true } : State).gate ↑(5 : PortIx)).get (by decide +kernel), by decide +kernel⟩⟩

theorem wit_TierCommandsThatEndAtOnce :
    (∃ (s : State) (p : Packet) (op : Nat) (n : Nat), 1 ≤ op ∧ op ≤ 9 ∧ s.engineDoor p ≠ stOK) ∧
    (∃ (s : State) (p : Packet) (op : Nat) (n : Nat), 1 ≤ op ∧ op ≤ 9 ∧ s.engineDoor p = stOK ∧ s.parcelOf p.job.toNat = some n ∧ (s.tierRoom n = false ∨ s.doorWaits 1 p = true)) ∧
    (∃ (s : State) (p : Packet) (op : Nat) (n : Nat), let st : Status := if op = 1 then s.createStatus (tierCmdOf op n p) else s.startStatus (tierCmdOf op n p); 1 ≤ op ∧ op ≤ 9 ∧ s.tierReady n p = true ∧ st ≠ stOK) ∧
    (∃ (s : State) (p : Packet) (n : Nat) (i : Nat), s.tierReady n p = true ∧ s.createStatus (tierCmdOf 1 n p) = stOK ∧ i ≠ s.freeObj) ∧
    (∃ (s : State) (p : Packet) (n : Nat) (o : Obj) (i : Nat), s.tierReady n p = true ∧ s.startStatus (tierCmdOf 2 n p) = stOK ∧ kget s.tier.objs (tierCmdOf 2 n p).obj = some o ∧ i ≠ (tierCmdOf 2 n p).obj) ∧
    (∃ (s : State) (p : Packet) (n : Nat), s.tierReady n p = true ∧ s.startStatus (tierCmdOf 6 n p) = stOK ∧ ((List.all (s.wbFrames (tierCmdOf 6 n p)) fun e => !e.snd.dirty) = true)) ∧
    (∃ (s : State) (p : Packet) (n : Nat) (k : Nat) (f : Frame), s.tierReady n p = true ∧ s.startStatus (tierCmdOf 6 n p) = stOK ∧ (tierCmdOf 6 n p).len = 4096 ∧ k = gfaOff (BitVec.ofNat 56 (tierCmdOf 6 n p).addrA) / 4096 ∧ kget s.tier.frames k = some f ∧ f.dirty = true ∧ f.cleaning = false ∧ s.Canon) ∧
    (∃ (s : State) (p : Packet) (n : Nat) (k : Nat) (f : Frame) (i : Nat), s.tierReady n p = true ∧ s.startStatus (tierCmdOf 7 n p) = stOK ∧ (tierCmdOf 7 n p).len = 4096 ∧ k = gfaOff (BitVec.ofNat 56 (tierCmdOf 7 n p).addrA) / 4096 ∧ kget s.tier.frames k = some f ∧ f.filling = false ∧ f.evict = false ∧ s.pinned n (s.frameRegion k) < 256 * (s.quota n).t0 ∧ i ≠ k) ∧
    (∃ (s : State) (p : Packet) (n : Nat) (e : Nat × Frame), s.tierReady n p = true ∧ s.startStatus (tierCmdOf 8 n p) = stOK ∧ e ∈ s.wbFrames (tierCmdOf 8 n p)) ∧
    (∃ (s : State) (p : Packet) (n : Nat) (o : Obj), s.tierReady n p = true ∧ s.startStatus (tierCmdOf 9 n p) = stOK ∧ kget s.tier.objs (tierCmdOf 9 n p).obj = some o) :=
  ⟨⟨{ tTier with tier := { tTier.tier with held := [{ door := 1, req := {} }] } }, {}, 1, 0, by decide +kernel⟩,
   ⟨{ tTier with tier := { tTier.tier with held := [{ door := 1, req := {} }] } }, tDesc 0 0 0 0 0x200000, 1, (({ tTier with tier := { tTier.tier with held := [{ door := 1, req := {} }] } } : State).parcelOf (tDesc 0 0 0 0 0x200000 : Packet).job.toNat).get (by decide +kernel), by decide +kernel⟩,
   ⟨{ tTier with tier := { tTier.tier with frames := [(0x100000000, { parcel := 0, pool := 0x7000000000, dirty := true })] } }, tDesc 0 0 0 0 0x200000, 2, 0, by decide +kernel⟩,
   ⟨{ tTier with tier := { tTier.tier with frames := [(0x100000000, { parcel := 0, pool := 0x7000000000, dirty := true })] } }, tDesc 0 0 0 0 0x200000, 0, 1, by decide +kernel⟩,
   ⟨{ tTier with tier := { tTier.tier with frames := [(0x100000000, { parcel := 0, pool := 0x7000000000, dirty := true })] } }, tDesc 5 0 0 0 0, 0, (kget ({ tTier with tier := { tTier.tier with frames := [(0x100000000, { parcel := 0, pool := 0x7000000000, dirty := true })] } } : State).tier.objs (tierCmdOf 2 (0 : Nat) (tDesc 5 0 0 0 0 : Packet)).obj).get (by decide +kernel), 0, by decide +kernel⟩,
   ⟨tTier, tDesc 0 0 0x100000000000 0 0x1000, 0, by decide +kernel⟩,
   ⟨{ tTier with tier := { tTier.tier with frames := [(0x100000000, { parcel := 0, pool := 0x7000000000, dirty := true })] } }, tDesc 0 0 0x100000000000 0 0x1000, 0, gfaOff (BitVec.ofNat 56 (tierCmdOf 6 (0 : Nat) (tDesc 0 0 0x100000000000 0 0x1000 : Packet)).addrA) / 4096, (kget ({ tTier with tier := { tTier.tier with frames := [(0x100000000, { parcel := 0, pool := 0x7000000000, dirty := true })] } } : State).tier.frames (gfaOff (BitVec.ofNat 56 (tierCmdOf 6 (0 : Nat) (tDesc 0 0 0x100000000000 0 0x1000 : Packet)).addrA) / 4096)).get (by decide +kernel), by decide +kernel, by decide +kernel, by decide +kernel, by decide +kernel, by decide +kernel, by decide +kernel, by decide +kernel, ⟨by decide +kernel, by decide +kernel, by decide +kernel⟩⟩,
   ⟨{ tTier with tier := { tTier.tier with frames := [(0x100000000, { parcel := 0, pool := 0x7000000000, dirty := true })] } }, tDesc 0 0 0x100000000000 0 0x1000, 0, gfaOff (BitVec.ofNat 56 (tierCmdOf 7 (0 : Nat) (tDesc 0 0 0x100000000000 0 0x1000 : Packet)).addrA) / 4096, (kget ({ tTier with tier := { tTier.tier with frames := [(0x100000000, { parcel := 0, pool := 0x7000000000, dirty := true })] } } : State).tier.frames (gfaOff (BitVec.ofNat 56 (tierCmdOf 7 (0 : Nat) (tDesc 0 0 0x100000000000 0 0x1000 : Packet)).addrA) / 4096)).get (by decide +kernel), 0, by decide +kernel⟩,
   ⟨{ tTier with tier := { tTier.tier with frames := [(0x100000000, { parcel := 0, pool := 0x7000000000, dirty := true })] } }, tDesc 0 0 0x100000000000 0 0x1000, 0, List.head (({ tTier with tier := { tTier.tier with frames := [(0x100000000, { parcel := 0, pool := 0x7000000000, dirty := true })] } } : State).wbFrames (tierCmdOf 8 (0 : Nat) (tDesc 0 0 0x100000000000 0 0x1000 : Packet))) (by decide +kernel), by decide +kernel⟩,
   ⟨{ tTier with tier := { tTier.tier with frames := [(0x100000000, { parcel := 0, pool := 0x7000000000, dirty := true })] } }, tDesc 5 0 0 0 0, 0, (kget ({ tTier with tier := { tTier.tier with frames := [(0x100000000, { parcel := 0, pool := 0x7000000000, dirty := true })] } } : State).tier.objs (tierCmdOf 9 (0 : Nat) (tDesc 5 0 0 0 0 : Packet)).obj).get (by decide +kernel), by decide +kernel⟩⟩

theorem wit_TierCommandsThatMovePages :
    (∃ (s : State) (p : Packet) (n : Nat), let k : Nat := unitKey (tierCmdOf 3 n p).obj ((tierCmdOf 3 n p).objOff / 2 ^ 20); s.tierReady n p = true ∧ s.startStatus (tierCmdOf 3 n p) = stOK ∧ ((kget s.tier.images k).isSome = true ∨ s.allocBlock ≠ none)) ∧
    (∃ (s : State) (p : Packet) (n : Nat), let k : Nat := unitKey (tierCmdOf 3 n p).obj ((tierCmdOf 3 n p).objOff / 2 ^ 20); s.tierReady n p = true ∧ s.startStatus (tierCmdOf 3 n p) = stOK ∧ kget s.tier.images k = none ∧ s.allocBlock = none) ∧
    (∃ (s : State) (p : Packet) (n : Nat), s.tierReady n p = true ∧ s.startStatus (tierCmdOf 4 n p) = stOK) ∧
    (∃ (s : State) (p : Packet) (n : Nat), s.tierReady n p = true ∧ s.startStatus (tierCmdOf 5 n p) = stOK) ∧
    (∃ (s : State) (k : Nat) (x : TierCmd), s.cmd k = some x ∧ x.phase = CmdPhase.ended ∧ x.recorded = false) ∧
    (∃ (s : State) (k : Nat) (x : TierCmd) (o : Obj) (i : Nat), s.cmd k = some x ∧ x.phase = CmdPhase.running ∧ x.recorded = false ∧ (x.op = 1 ∨ x.op = 2) ∧ kget s.tier.objs x.object = some o ∧ i ≠ x.object) ∧
    (∃ (s : State) (k : Nat) (x : TierCmd) (o : Obj) (e : Nat × FUnit), s.cmd k = some x ∧ x.phase = CmdPhase.running ∧ x.recorded = false ∧ (x.op = 1 ∨ x.op = 2) ∧ kget s.tier.objs x.object = some o ∧ x.op = 2) :=
  ⟨⟨tTier, tDesc 5 0 0x1000 0 0x1000, 0, by decide +kernel⟩,
   ⟨tTier.setReg (rFcStat 0) 0, tDesc 5 0 0x1000 0 0x1000, 0, by decide +kernel⟩,
   ⟨tTier.setReg (rFcStat 0) 0, tDesc 5 0 0x1000 0 0x1000, 0, by decide +kernel⟩,
   ⟨tTier.setReg (rFcStat 0) 0, tDesc 5 0 0x1000 0 0x1000, 0, by decide +kernel⟩,
   ⟨tEnded, 3, ((tEnded : State).cmd (3 : Nat)).get (by decide +kernel), by decide +kernel⟩,
   ⟨{ tTier with tier := { tTier.tier with cmds := [{ tEndedCmd with phase := .running, object := 5 }] } }, 3, (({ tTier with tier := { tTier.tier with cmds := [{ tEndedCmd with phase := .running, object := 5 }] } } : State).cmd (3 : Nat)).get (by decide +kernel), (kget ({ tTier with tier := { tTier.tier with cmds := [{ tEndedCmd with phase := .running, object := 5 }] } } : State).tier.objs ((({ tTier with tier := { tTier.tier with cmds := [{ tEndedCmd with phase := .running, object := 5 }] } } : State).cmd (3 : Nat)).get (by decide +kernel)).object).get (by decide +kernel), 0, by decide +kernel⟩,
   ⟨{ tTier with tier := { tTier.tier with cmds := [{ tEndedCmd with phase := .running, op := 2, object := 5 }], units := [(unitKey 5 0, { block := 4 })] } }, 3, (({ tTier with tier := { tTier.tier with cmds := [{ tEndedCmd with phase := .running, op := 2, object := 5 }], units := [(unitKey 5 0, { block := 4 })] } } : State).cmd (3 : Nat)).get (by decide +kernel), (kget ({ tTier with tier := { tTier.tier with cmds := [{ tEndedCmd with phase := .running, op := 2, object := 5 }], units := [(unitKey 5 0, { block := 4 })] } } : State).tier.objs ((({ tTier with tier := { tTier.tier with cmds := [{ tEndedCmd with phase := .running, op := 2, object := 5 }], units := [(unitKey 5 0, { block := 4 })] } } : State).cmd (3 : Nat)).get (by decide +kernel)).object).get (by decide +kernel), (unitKey 5 0, { block := 4 }), by decide +kernel⟩⟩

theorem wit_CacheAndHoldEvents :
    (∃ (s : State) (k : Nat) (f : Frame) (i : Nat), s.Canon ∧ kget s.tier.frames k = some f ∧ f.filling = true ∧ f.waiters = [] ∧ s.tier.cmds = [] ∧ (∀ (n : Nat), n < 4 → ((s.cadSlice n).txns.all fun x => !x.framing) = true) ∧ (((linesOf (4096 * k) 4096).all fun l => !s.mem.faults.any fun y => y.fst == l) = true) ∧ i ≠ k) ∧
    (∃ (s : State) (k : Nat) (f : Frame) (i : Nat), kget s.tier.frames k = some f ∧ f.cleaning = true ∧ s.tier.cmds = [] ∧ s.tier.heldStores = [] ∧ f.evict = false ∧ i ≠ k) ∧
    (∃ (s : State) (k : Nat) (f : Frame) (i : Nat), kget s.tier.frames k = some f ∧ f.cleaning = true ∧ s.tier.cmds = [] ∧ s.tier.heldStores = [] ∧ f.evict = true ∧ f.restored = false ∧ f.waiters = [] ∧ (∀ (n : Nat), n < 4 → ((s.cadSlice n).txns.all fun x => !x.framing) = true) ∧ i ≠ k) ∧
    (∃ (s : State) (k : Nat) (h : HeldDoorbell), s.tier.held[k]? = some h) ∧
    (∃ (s : State) (k : Nat) (off : Nat) (p : Packet), s.tier.heldStores[k]? = some (off, p)) :=
  ⟨⟨{ State.reset with tier := { frames := [(8, { parcel := 0, pool := 0x4000, filling := true })] } }, 8, (kget ({ State.reset with tier := { frames := [(8, { parcel := 0, pool := 0x4000, filling := true })] } } : State).tier.frames (8 : Nat)).get (by decide +kernel), 0, ⟨by decide +kernel, by decide +kernel, by decide +kernel⟩, by decide +kernel, by decide +kernel, by decide +kernel, by decide +kernel, by decide +kernel, by decide +kernel, by decide +kernel⟩,
   ⟨{ State.reset with tier := { frames := [(8, { parcel := 0, pool := 0x4000, dirty := true, cleaning := true })] } }, 8, (kget ({ State.reset with tier := { frames := [(8, { parcel := 0, pool := 0x4000, dirty := true, cleaning := true })] } } : State).tier.frames (8 : Nat)).get (by decide +kernel), 0, by decide +kernel⟩,
   ⟨{ State.reset with tier := { frames := [(8, { parcel := 0, pool := 0x4000, dirty := true, cleaning := true, evict := true })] } }, 8, (kget ({ State.reset with tier := { frames := [(8, { parcel := 0, pool := 0x4000, dirty := true, cleaning := true, evict := true })] } } : State).tier.frames (8 : Nat)).get (by decide +kernel), 0, by decide +kernel⟩,
   ⟨{ State.reset with tier := { held := [{ door := 1, req := {} }] } }, 0, ({ State.reset with tier := { held := [{ door := 1, req := {} }] } } : State).tier.held[(0 : Nat)]?.get (by decide +kernel), by decide +kernel⟩,
   ⟨{ tTier with tier := { tTier.tier with heldStores := [(0x100000000000, { opcode := 0x02, len := 8, gfa := 0x100000000000, payload := leBytes 8 5 })] } }, 0, (({ tTier with tier := { tTier.tier with heldStores := [(0x100000000000, { opcode := 0x02, len := 8, gfa := 0x100000000000, payload := leBytes 8 5 })] } } : State).tier.heldStores[(0 : Nat)]?.get (by decide +kernel)).fst, (({ tTier with tier := { tTier.tier with heldStores := [(0x100000000000, { opcode := 0x02, len := 8, gfa := 0x100000000000, payload := leBytes 8 5 })] } } : State).tier.heldStores[(0 : Nat)]?.get (by decide +kernel)).snd, by decide +kernel⟩⟩

theorem wit_FlashLayer :
    (∃ (s : State) (k : Nat) (im : UnitImage) (u : FUnit), kget s.tier.images k = some im ∧ im.full = true ∧ kget s.tier.units k = some u) ∧
    (∃ (s : State) (k : Nat) (im : UnitImage) (i : Nat), kget s.tier.images k = some im ∧ im.full = true ∧ i ≠ k) ∧
    (∃ (s : State) (k : Nat) (im : UnitImage), kget s.tier.images k = some im ∧ im.full = true ∧ s.cmd im.cmd = none) ∧
    (∃ (s : State) (blank : Bool), s.bit rTlCtl 0 = true ∧ s.bit rTlStat 0 = false ∧ s.stacksTrained = true ∧ s.tier.cmds = [] ∧ s.recov.trackers = []) ∧
    (∃ (s : State) (b : Nat) (g : Nat), let cold : Bool := List.all s.tier.units fun e => decide ((s.fblock b).erases ≤ (s.fblock e.snd.block).erases); let wear : Bool := s.mayMigrate b g && cold && decide (s.fld rTlCtl 63 48 < s.peMax - s.peMin); s.recov.restarting = [] ∧ wear = true) ∧
    (∃ (s : State) (b : Nat) (g : Nat), let cold : Bool := List.all s.tier.units fun e => decide ((s.fblock b).erases ≤ (s.fblock e.snd.block).erases); let wear : Bool := s.mayMigrate b g && cold && decide (s.fld rTlCtl 63 48 < s.peMax - s.peMin); s.recov.restarting = [] ∧ wear = false) ∧
    (∃ (s : State) (b : Nat) (g : Nat), let due : Bool := s.mayMigrate b g && (s.fblock b).due; s.recov.restarting = [] ∧ due = true) ∧
    (∃ (s : State) (b : Nat) (g : Nat), let due : Bool := s.mayMigrate b g && (s.fblock b).due; s.recov.restarting = [] ∧ due = false) ∧
    (∃ (s : State) (b : Nat) (g : Nat), s.bit rTlStat 0 = true ∧ (s.fblock b).retired = false ∧ b ≠ g ∧ s.blockFree g = true) ∧
    (∃ (s : State) (b : Nat) (i : Nat), (s.fblock b).erasePending = true ∧ s.tier.cmds = [] ∧ i ≠ b) :=
  ⟨⟨{ tFlash with tier := { tFlash.tier with images := [(0, { cmd := 3, object := 5, index := 0, block := 6, data := [], bad := [], full := true })] } }, 0, (kget ({ tFlash with tier := { tFlash.tier with images := [(0, { cmd := 3, object := 5, index := 0, block := 6, data := [], bad := [], full := true })] } } : State).tier.images 0).get (by decide +kernel), (kget ({ tFlash with tier := { tFlash.tier with images := [(0, { cmd := 3, object := 5, index := 0, block := 6, data := [], bad := [], full := true })] } } : State).tier.units 0).get (by decide +kernel), by decide +kernel⟩,
   ⟨{ tFlash with tier := { tFlash.tier with images := [(0, { cmd := 3, object := 5, index := 0, block := 6, data := [], bad := [], full := true })] } }, 0, (kget ({ tFlash with tier := { tFlash.tier with images := [(0, { cmd := 3, object := 5, index := 0, block := 6, data := [], bad := [], full := true })] } } : State).tier.images 0).get (by decide +kernel), 1, by decide +kernel⟩,
   ⟨{ tFlash with tier := { tFlash.tier with images := [(0, { cmd := 3, object := 5, index := 0, block := 6, data := [], bad := [], full := true })] } }, 0, (kget ({ tFlash with tier := { tFlash.tier with images := [(0, { cmd := 3, object := 5, index := 0, block := 6, data := [], bad := [], full := true })] } } : State).tier.images 0).get (by decide +kernel), by decide +kernel⟩,
   ⟨State.reset.setBit rTlCtl 0 true, true, by decide +kernel⟩,
   ⟨{ tFlash with tier := { tFlash.tier with images := [(0, { cmd := 3, object := 5, index := 0, block := 6, data := [], bad := [], full := true })] } }, 4, 7, by decide +kernel⟩,
   ⟨{ tFlash with tier := { tFlash.tier with images := [(0, { cmd := 3, object := 5, index := 0, block := 6, data := [], bad := [], full := true })] } }, 4, 4, by decide +kernel⟩,
   ⟨{ tFlash with tier := { tFlash.tier with blocks := [(4, { due := true })] } }, 4, 7, by decide +kernel⟩,
   ⟨{ tFlash with tier := { tFlash.tier with images := [(0, { cmd := 3, object := 5, index := 0, block := 6, data := [], bad := [], full := true })] } }, 4, 4, by decide +kernel⟩,
   ⟨{ tFlash with tier := { tFlash.tier with images := [(0, { cmd := 3, object := 5, index := 0, block := 6, data := [], bad := [], full := true })] } }, 4, 7, by decide +kernel⟩,
   ⟨State.reset.setBlock 4 { erasePending := true }, 4, 0, by decide +kernel⟩⟩

theorem wit_TierControl :
    (∃ (s : State) (on : Bool), s.cfgOpen rTierWe = true ∧ (on = false ∨ s.bit rTlStat 0 = true ∧ s.bit rTlStat 2 = false)) ∧
    (∃ (s : State) (on : Bool), s.cfgOpen rTierWe = true ∧ on = true ∧ (s.bit rTlStat 0 = false ∨ s.bit rTlStat 2 = true)) ∧
    (∃ (s : State) (v : Word) (n : Nat) (i : Nat), let sum : Nat := List.foldl (fun a e => a + e.snd.t0) 0 (List.filter (fun e => e.fst != n) s.tier.quotas) + nbits (BitVec.toNat v) 17 0; s.cfgOpen rTqLimit = true ∧ s.fld rTqSel 5 0 = n ∧ sum ≤ s.fld rTcPool 14 8 * 256 ∧ i ≠ n) ∧
    (∃ (s : State) (v : Word) (n : Nat), let sum : Nat := List.foldl (fun a e => a + e.snd.t0) 0 (List.filter (fun e => e.fst != n) s.tier.quotas) + nbits (BitVec.toNat v) 17 0; s.cfgOpen rTqLimit = true ∧ s.fld rTqSel 5 0 = n ∧ s.fld rTcPool 14 8 * 256 < sum) ∧
    (∃ (s : State) (v : Word), s.cfgOpen rTlCtl = true ∧ BitVec.getLsbD v 0 = true ∧ s.bit rTlCtl 0 = false ∧ s.grantsAbove (s.reservedTop - 3) = false ∧ 4 ≤ nbits (BitVec.toNat v) 12 8 ∧ nbits (BitVec.toNat v) 12 8 ≤ 16) ∧
    (∃ (s : State) (v : Word), s.cfgOpen rTlCtl = true ∧ BitVec.getLsbD v 0 = true ∧ s.bit rTlCtl 0 = false ∧ s.grantsAbove (s.reservedTop - 3) = true) ∧
    (∃ (s : State) (v : Word), s.cfgOpen rTcPool = true ∧ BitVec.getLsbD v 0 = true ∧ s.bit rTcPool 0 = false ∧ nbits (BitVec.toNat v) 14 8 ≤ 64 ∧ nbits (BitVec.toNat v) 14 8 % 4 = 0 ∧ s.grantsAbove (s.reservedTop - nbits (BitVec.toNat v) 14 8) = false) ∧
    (∃ (s : State) (v : Word), s.cfgOpen rTcPool = true ∧ BitVec.getLsbD v 0 = true ∧ s.bit rTcPool 0 = false ∧ nbits (BitVec.toNat v) 14 8 ≤ 64 ∧ nbits (BitVec.toNat v) 14 8 % 4 = 0 ∧ s.grantsAbove (s.reservedTop - nbits (BitVec.toNat v) 14 8) = true) ∧
    (∃ (s : State) (v : Word), s.cfgOpen rTcPool = true ∧ BitVec.getLsbD v 0 = false ∧ s.bit rTcPool 0 = true ∧ s.tier.frames = [] ∧ (∀ (n : Nat), n < 4 → ((s.cadSlice n).txns.all fun x => !x.framing) = true)) :=
  ⟨⟨State.reset, false, by decide +kernel⟩,
   ⟨State.reset, true, by decide +kernel⟩,
   ⟨State.reset, 0, (State.reset : State).fld rTqSel 5 0, 1, by decide +kernel⟩,
   ⟨State.reset, 1, (State.reset : State).fld rTqSel 5 0, by decide +kernel⟩,
   ⟨State.reset, 0x0010000000000801, by decide +kernel⟩,
   ⟨(State.reset.setPclState 0 2).setReg (rPclGrant 0 0) (2 ^ 16 * 511), 1, by decide +kernel⟩,
   ⟨State.reset, 1, by decide +kernel⟩,
   ⟨(State.reset.setPclState 0 2).setReg (rPclGrant 0 0) (2 ^ 16 * 511), 0x0010000000000801, by decide +kernel⟩,
   ⟨State.reset.setBit rTcPool 0 true, 0x10000200010, by decide +kernel⟩⟩

theorem wit_TileScalarArithmetic :
    (∃ (s : State) (i : TileIx) (c : CtxIx) (x : TWord), s.atWord i.val c.val 48 x = true) ∧
    (∃ (s : State) (i : TileIx) (c : CtxIx) (x : TWord), s.atWord i.val c.val 49 x = true) ∧
    (∃ (s : State) (i : TileIx) (c : CtxIx) (x : TWord), s.atWord i.val c.val 50 x = true) ∧
    (∃ (s : State) (i : TileIx) (c : CtxIx) (x : TWord), s.atWord i.val c.val 51 x = true) ∧
    (∃ (s : State) (i : TileIx) (c : CtxIx) (x : TWord), s.atWord i.val c.val 52 x = true) ∧
    (∃ (s : State) (i : TileIx) (c : CtxIx) (x : TWord), s.atWord i.val c.val 53 x = true) ∧
    (∃ (s : State) (i : TileIx) (c : CtxIx) (x : TWord), s.atWord i.val c.val 54 x = true) ∧
    (∃ (s : State) (i : TileIx) (c : CtxIx) (x : TWord), s.atWord i.val c.val 55 x = true) ∧
    (∃ (s : State) (i : TileIx) (c : CtxIx) (x : TWord), s.atWord i.val c.val 56 x = true) ∧
    (∃ (s : State) (i : TileIx) (c : CtxIx) (x : TWord), s.atWord i.val c.val 57 x = true) ∧
    (∃ (s : State) (i : TileIx) (c : CtxIx) (x : TWord), s.atWord i.val c.val 58 x = true) :=
  ⟨⟨tTileAt (tWord 0x30 0 0x23 0x21 0x22 0x0 0 0x0), 0, 0, twordOf ((tTileAt (tWord 0x30 0 0x23 0x21 0x22 0x0 0 0x0) : State).fetchWord (↑(0 : TileIx)) ((tTileAt (tWord 0x30 0 0x23 0x21 0x22 0x0 0 0x0) : State).ctx ↑(0 : TileIx) ↑(0 : CtxIx)).pc.toNat), by decide +kernel⟩,
   ⟨tTileAt (tWord 0x31 0 0x23 0x21 0x22 0x0 0 0x0), 0, 0, twordOf ((tTileAt (tWord 0x31 0 0x23 0x21 0x22 0x0 0 0x0) : State).fetchWord (↑(0 : TileIx)) ((tTileAt (tWord 0x31 0 0x23 0x21 0x22 0x0 0 0x0) : State).ctx ↑(0 : TileIx) ↑(0 : CtxIx)).pc.toNat), by decide +kernel⟩,
   ⟨tTileAt (tWord 0x32 0 0x23 0x21 0x22 0x0 0 0x0), 0, 0, twordOf ((tTileAt (tWord 0x32 0 0x23 0x21 0x22 0x0 0 0x0) : State).fetchWord (↑(0 : TileIx)) ((tTileAt (tWord 0x32 0 0x23 0x21 0x22 0x0 0 0x0) : State).ctx ↑(0 : TileIx) ↑(0 : CtxIx)).pc.toNat), by decide +kernel⟩,
   ⟨tTileAt (tWord 0x33 0 0x23 0x21 0x22 0x0 0 0x0), 0, 0, twordOf ((tTileAt (tWord 0x33 0 0x23 0x21 0x22 0x0 0 0x0) : State).fetchWord (↑(0 : TileIx)) ((tTileAt (tWord 0x33 0 0x23 0x21 0x22 0x0 0 0x0) : State).ctx ↑(0 : TileIx) ↑(0 : CtxIx)).pc.toNat), by decide +kernel⟩,
   ⟨tTileAt (tWord 0x34 0 0x23 0x21 0x22 0x0 0 0x0), 0, 0, twordOf ((tTileAt (tWord 0x34 0 0x23 0x21 0x22 0x0 0 0x0) : State).fetchWord (↑(0 : TileIx)) ((tTileAt (tWord 0x34 0 0x23 0x21 0x22 0x0 0 0x0) : State).ctx ↑(0 : TileIx) ↑(0 : CtxIx)).pc.toNat), by decide +kernel⟩,
   ⟨tTileAt (tWord 0x35 0 0x23 0x21 0x22 0x0 0 0x0), 0, 0, twordOf ((tTileAt (tWord 0x35 0 0x23 0x21 0x22 0x0 0 0x0) : State).fetchWord (↑(0 : TileIx)) ((tTileAt (tWord 0x35 0 0x23 0x21 0x22 0x0 0 0x0) : State).ctx ↑(0 : TileIx) ↑(0 : CtxIx)).pc.toNat), by decide +kernel⟩,
   ⟨tTileAt (tWord 0x36 0 0x23 0x21 0x22 0x0 0 0x0), 0, 0, twordOf ((tTileAt (tWord 0x36 0 0x23 0x21 0x22 0x0 0 0x0) : State).fetchWord (↑(0 : TileIx)) ((tTileAt (tWord 0x36 0 0x23 0x21 0x22 0x0 0 0x0) : State).ctx ↑(0 : TileIx) ↑(0 : CtxIx)).pc.toNat), by decide +kernel⟩,
   ⟨tTileAt (tWord 0x37 0 0x23 0x21 0x22 0x0 0 0x0), 0, 0, twordOf ((tTileAt (tWord 0x37 0 0x23 0x21 0x22 0x0 0 0x0) : State).fetchWord (↑(0 : TileIx)) ((tTileAt (tWord 0x37 0 0x23 0x21 0x22 0x0 0 0x0) : State).ctx ↑(0 : TileIx) ↑(0 : CtxIx)).pc.toNat), by decide +kernel⟩,
   ⟨tTileAt (tWord 0x38 0 0x23 0x21 0x22 0x0 0 0x0), 0, 0, twordOf ((tTileAt (tWord 0x38 0 0x23 0x21 0x22 0x0 0 0x0) : State).fetchWord (↑(0 : TileIx)) ((tTileAt (tWord 0x38 0 0x23 0x21 0x22 0x0 0 0x0) : State).ctx ↑(0 : TileIx) ↑(0 : CtxIx)).pc.toNat), by decide +kernel⟩,
   ⟨tTileAt (tWord 0x39 0 0x23 0x21 0x22 0x0 0 0x0), 0, 0, twordOf ((tTileAt (tWord 0x39 0 0x23 0x21 0x22 0x0 0 0x0) : State).fetchWord (↑(0 : TileIx)) ((tTileAt (tWord 0x39 0 0x23 0x21 0x22 0x0 0 0x0) : State).ctx ↑(0 : TileIx) ↑(0 : CtxIx)).pc.toNat), by decide +kernel⟩,
   ⟨tTileAt (tWord 0x3a 0 0x23 0x21 0x22 0x0 0 0x0), 0, 0, twordOf ((tTileAt (tWord 0x3a 0 0x23 0x21 0x22 0x0 0 0x0) : State).fetchWord (↑(0 : TileIx)) ((tTileAt (tWord 0x3a 0 0x23 0x21 0x22 0x0 0 0x0) : State).ctx ↑(0 : TileIx) ↑(0 : CtxIx)).pc.toNat), by decide +kernel⟩⟩

theorem wit_TileScalarMoves :
    (∃ (s : State) (i : TileIx) (c : CtxIx) (x : TWord), s.atWord i.val c.val 59 x = true) ∧
    (∃ (s : State) (i : TileIx) (c : CtxIx) (x : TWord), s.atWord i.val c.val 60 x = true) ∧
    (∃ (s : State) (i : TileIx) (c : CtxIx) (x : TWord), s.atWord i.val c.val 61 x = true) ∧
    (∃ (s : State) (i : TileIx) (c : CtxIx) (x : TWord), s.atWord i.val c.val 62 x = true) ∧
    (∃ (s : State) (i : TileIx) (c : CtxIx) (x : TWord), s.atWord i.val c.val 63 x = true) ∧
    (∃ (s : State) (i : TileIx) (c : CtxIx) (x : TWord) (j : Nat), s.atWord i.val c.val 64 x = true ∧ j < elemCount x.dt) ∧
    (∃ (s : State) (i : TileIx) (c : CtxIx) (x : TWord), s.atWord i.val c.val 65 x = true) ∧
    (∃ (s : State) (i : TileIx) (c : CtxIx) (x : TWord) (b : Nat), s.atWord i.val c.val 66 x = true ∧ b < 128) ∧
    (∃ (s : State) (i : TileIx) (c : CtxIx) (x : TWord), s.atWord i.val c.val 67 x = true) ∧
    (∃ (s : State) (i : TileIx) (c : CtxIx) (x : TWord), s.atWord i.val c.val 68 x = true) ∧
    (∃ (s : State) (i : TileIx) (c : CtxIx) (x : TWord), s.atWord i.val c.val 69 x = true) ∧
    (∃ (s : State) (i : TileIx) (c : CtxIx) (x : TWord), s.atWord i.val c.val 85 x = true) :=
  ⟨⟨tTileAt (tWord 0x3b 0 0x23 0x21 0x22 0x0 0 0x2), 0, 0, twordOf ((tTileAt (tWord 0x3b 0 0x23 0x21 0x22 0x0 0 0x2) : State).fetchWord (↑(0 : TileIx)) ((tTileAt (tWord 0x3b 0 0x23 0x21 0x22 0x0 0 0x2) : State).ctx ↑(0 : TileIx) ↑(0 : CtxIx)).pc.toNat), by decide +kernel⟩,
   ⟨tTileAt (tWord 0x3c 0 0x23 0x21 0x0 0x0 0 0x0), 0, 0, twordOf ((tTileAt (tWord 0x3c 0 0x23 0x21 0x0 0x0 0 0x0) : State).fetchWord (↑(0 : TileIx)) ((tTileAt (tWord 0x3c 0 0x23 0x21 0x0 0x0 0 0x0) : State).ctx ↑(0 : TileIx) ↑(0 : CtxIx)).pc.toNat), by decide +kernel⟩,
   ⟨tTileAt (tWord 0x3d 2 0x23 0x0 0x0 0x0 0 0xfffffe), 0, 0, twordOf ((tTileAt (tWord 0x3d 2 0x23 0x0 0x0 0x0 0 0xfffffe) : State).fetchWord (↑(0 : TileIx)) ((tTileAt (tWord 0x3d 2 0x23 0x0 0x0 0x0 0 0xfffffe) : State).ctx ↑(0 : TileIx) ↑(0 : CtxIx)).pc.toNat), by decide +kernel⟩,
   ⟨tTileAt (tWord 0x3e 2 0x23 0x0 0x0 0x0 0 0x123456), 0, 0, twordOf ((tTileAt (tWord 0x3e 2 0x23 0x0 0x0 0x0 0 0x123456) : State).fetchWord (↑(0 : TileIx)) ((tTileAt (tWord 0x3e 2 0x23 0x0 0x0 0x0 0 0x123456) : State).ctx ↑(0 : TileIx) ↑(0 : CtxIx)).pc.toNat), by decide +kernel⟩,
   ⟨tTileAt (tWord 0x3f 0 0x23 0x1 0x0 0x0 0 0x1), 0, 0, twordOf ((tTileAt (tWord 0x3f 0 0x23 0x1 0x0 0x0 0 0x1) : State).fetchWord (↑(0 : TileIx)) ((tTileAt (tWord 0x3f 0 0x23 0x1 0x0 0x0 0 0x1) : State).ctx ↑(0 : TileIx) ↑(0 : CtxIx)).pc.toNat), by decide +kernel⟩,
   ⟨tTileAt (tWord 0x40 0 0x1 0x21 0x0 0x0 0 0x1), 0, 0, twordOf ((tTileAt (tWord 0x40 0 0x1 0x21 0x0 0x0 0 0x1) : State).fetchWord (↑(0 : TileIx)) ((tTileAt (tWord 0x40 0 0x1 0x21 0x0 0x0 0 0x1) : State).ctx ↑(0 : TileIx) ↑(0 : CtxIx)).pc.toNat), 0, by decide +kernel⟩,
   ⟨tTileAt (tWord 0x41 0 0x23 0x31 0x0 0x0 0 0x0), 0, 0, twordOf ((tTileAt (tWord 0x41 0 0x23 0x31 0x0 0x0 0 0x0) : State).fetchWord (↑(0 : TileIx)) ((tTileAt (tWord 0x41 0 0x23 0x31 0x0 0x0 0 0x0) : State).ctx ↑(0 : TileIx) ↑(0 : CtxIx)).pc.toNat), by decide +kernel⟩,
   ⟨tTileAt (tWord 0x42 0 0x31 0x22 0x0 0x0 0 0x0), 0, 0, twordOf ((tTileAt (tWord 0x42 0 0x31 0x22 0x0 0x0 0 0x0) : State).fetchWord (↑(0 : TileIx)) ((tTileAt (tWord 0x42 0 0x31 0x22 0x0 0x0 0 0x0) : State).ctx ↑(0 : TileIx) ↑(0 : CtxIx)).pc.toNat), 0, by decide +kernel⟩,
   ⟨tTileAt (tWord 0x43 0 0x23 0x0 0x0 0x0 0 0x0), 0, 0, twordOf ((tTileAt (tWord 0x43 0 0x23 0x0 0x0 0x0 0 0x0) : State).fetchWord (↑(0 : TileIx)) ((tTileAt (tWord 0x43 0 0x23 0x0 0x0 0x0 0 0x0) : State).ctx ↑(0 : TileIx) ↑(0 : CtxIx)).pc.toNat), by decide +kernel⟩,
   ⟨tTileAt (tWord 0x44 0 0x0 0x0 0x0 0x0 0 0x105), 0, 0, twordOf ((tTileAt (tWord 0x44 0 0x0 0x0 0x0 0x0 0 0x105) : State).fetchWord (↑(0 : TileIx)) ((tTileAt (tWord 0x44 0 0x0 0x0 0x0 0x0 0 0x105) : State).ctx ↑(0 : TileIx) ↑(0 : CtxIx)).pc.toNat), by decide +kernel⟩,
   ⟨tTileAt (tWord 0x45 0 0x23 0x0 0x0 0x0 0 0x0), 0, 0, twordOf ((tTileAt (tWord 0x45 0 0x23 0x0 0x0 0x0 0 0x0) : State).fetchWord (↑(0 : TileIx)) ((tTileAt (tWord 0x45 0 0x23 0x0 0x0 0x0 0 0x0) : State).ctx ↑(0 : TileIx) ↑(0 : CtxIx)).pc.toNat), by decide +kernel⟩,
   ⟨tTileAt (tWord 0x55 0 0x0 0x0 0x0 0x0 0 0x0), 0, 0, twordOf ((tTileAt (tWord 0x55 0 0x0 0x0 0x0 0x0 0 0x0) : State).fetchWord (↑(0 : TileIx)) ((tTileAt (tWord 0x55 0 0x0 0x0 0x0 0x0 0 0x0) : State).ctx ↑(0 : TileIx) ↑(0 : CtxIx)).pc.toNat), by decide +kernel⟩⟩

theorem wit_TileControlFlow :
    (∃ (s : State) (i : TileIx) (c : CtxIx) (x : TWord), (s.ctx i.val c.val).state = CtxState.ready ∧ (s.tile i.val).choice = some c.val ∧ (s.tile i.val).running = none ∧ (s.takeSlot i.val c.val).atWord i.val c.val 1 x = true) ∧
    (∃ (s : State) (i : TileIx) (c : CtxIx) (x : TWord), (s.ctx i.val c.val).state = CtxState.ready ∧ (s.tile i.val).choice = some c.val ∧ (s.tile i.val).running = none ∧ (s.takeSlot i.val c.val).atWord i.val c.val 85 x = true) ∧
    (∃ (s : State) (i : TileIx) (c : CtxIx) (x : TWord), s.atWord i.val c.val 80 x = true) ∧
    (∃ (s : State) (i : TileIx) (c : CtxIx) (x : TWord), s.atWord i.val c.val 81 x = true) ∧
    (∃ (s : State) (i : TileIx) (c : CtxIx) (x : TWord), s.atWord i.val c.val 82 x = true ∧ (s.ctx i.val c.val).bound = none) ∧
    (∃ (s : State) (i : TileIx) (c : CtxIx) (x : TWord) (b : Nat), s.atWord i.val c.val 82 x = true ∧ (s.ctx i.val c.val).bound = some b ∧ ((Option.map (fun k => k.queue) (kget (s.tile i.val).bindings b)).getD [] = [])) ∧
    (∃ (s : State) (i : TileIx) (c : CtxIx) (x : TWord) (b : Nat) (k : Binding) (a : Arrival) (rest : List Arrival) (n : Nat), s.atWord i.val c.val 82 x = true ∧ (s.ctx i.val c.val).bound = some b ∧ kget (s.tile i.val).bindings b = some k ∧ k.queue = a :: rest ∧ n ≠ b) ∧
    (∃ (s : State) (i : TileIx) (c : CtxIx) (x : TWord), s.atWord i.val c.val 83 x = true) ∧
    (∃ (s : State) (i : TileIx) (c : CtxIx) (x : TWord) (b : Nat), s.atWord i.val c.val 84 x = true ∧ (s.ctx i.val c.val).bound = some b ∧ ((Option.map (fun k => k.holds ((s.ctx i.val c.val).rs x.s1)) (kget (s.tile i.val).bindings b)).getD false = false)) ∧
    (∃ (s : State) (i : TileIx) (c : CtxIx) (x : TWord) (b : Nat) (k : Binding), s.atWord i.val c.val 84 x = true ∧ (s.ctx i.val c.val).bound = some b ∧ kget (s.tile i.val).bindings b = some k ∧ k.holds ((s.ctx i.val c.val).rs x.s1) = true ∧ ((List.all (s.tile i.val).bindings fun e => e.snd.waiting.isEmpty) = true)) ∧
    (∃ (s : State) (i : TileIx) (c : CtxIx), s.atSlot i.val c.val = true ∧ (twordOf (s.fetchWord i.val (s.ctx i.val c.val).pc.toNat)).legal (s.boundKind i.val c.val) = false) :=
  ⟨⟨tReady (tWord 0x1 0 0x0 0x1 0x2 0x31 9 0x0), 0, 0, twordOf (((tReady (tWord 0x1 0 0x0 0x1 0x2 0x31 9 0x0) : State).takeSlot ↑(0 : TileIx) ↑(0 : CtxIx)).fetchWord (↑(0 : TileIx)) (((tReady (tWord 0x1 0 0x0 0x1 0x2 0x31 9 0x0) : State).takeSlot ↑(0 : TileIx) ↑(0 : CtxIx)).ctx ↑(0 : TileIx) ↑(0 : CtxIx)).pc.toNat), by decide +kernel⟩,
   ⟨tReady (tWord 0x55 0 0 0 0 0 0 0), 0, 0, twordOf (((tReady (tWord 0x55 0 0 0 0 0 0 0) : State).takeSlot ↑(0 : TileIx) ↑(0 : CtxIx)).fetchWord (↑(0 : TileIx)) (((tReady (tWord 0x55 0 0 0 0 0 0 0) : State).takeSlot ↑(0 : TileIx) ↑(0 : CtxIx)).ctx ↑(0 : TileIx) ↑(0 : CtxIx)).pc.toNat), by decide +kernel⟩,
   ⟨tTileAt (tWord 0x50 4 0x0 0x21 0x0 0x0 0 0x20005), 0, 0, twordOf ((tTileAt (tWord 0x50 4 0x0 0x21 0x0 0x0 0 0x20005) : State).fetchWord (↑(0 : TileIx)) ((tTileAt (tWord 0x50 4 0x0 0x21 0x0 0x0 0 0x20005) : State).ctx ↑(0 : TileIx) ↑(0 : CtxIx)).pc.toNat), by decide +kernel⟩,
   ⟨tTileAt (tWord 0x51 4 0x0 0x21 0x0 0x0 0 0xffff), 0, 0, twordOf ((tTileAt (tWord 0x51 4 0x0 0x21 0x0 0x0 0 0xffff) : State).fetchWord (↑(0 : TileIx)) ((tTileAt (tWord 0x51 4 0x0 0x21 0x0 0x0 0 0xffff) : State).ctx ↑(0 : TileIx) ↑(0 : CtxIx)).pc.toNat), by decide +kernel⟩,
   ⟨tTileAt (tWord 0x52 0 0x0 0x0 0x0 0x0 0 0x0), 0, 0, twordOf ((tTileAt (tWord 0x52 0 0x0 0x0 0x0 0x0 0 0x0) : State).fetchWord (↑(0 : TileIx)) ((tTileAt (tWord 0x52 0 0x0 0x0 0x0 0x0 0 0x0) : State).ctx ↑(0 : TileIx) ↑(0 : CtxIx)).pc.toNat), by decide +kernel⟩,
   ⟨tBound (tWord 0x52 0 0x0 0x0 0x0 0x0 0 0x0), 0, 0, twordOf ((tBound (tWord 0x52 0 0x0 0x0 0x0 0x0 0 0x0) : State).fetchWord (↑(0 : TileIx)) ((tBound (tWord 0x52 0 0x0 0x0 0x0 0x0 0 0x0) : State).ctx ↑(0 : TileIx) ↑(0 : CtxIx)).pc.toNat), ((tBound (tWord 0x52 0 0x0 0x0 0x0 0x0 0 0x0) : State).ctx ↑(0 : TileIx) ↑(0 : CtxIx)).bound.get (by decide +kernel), by decide +kernel⟩,
   ⟨tArrived (tWord 0x52 0 0x0 0x0 0x0 0x0 0 0x0) [{ s12 := 7, s13 := 8 }] [], 0, 0, twordOf ((tArrived (tWord 0x52 0 0x0 0x0 0x0 0x0 0 0x0) [{ s12 := 7, s13 := 8 }] [] : State).fetchWord (↑(0 : TileIx)) ((tArrived (tWord 0x52 0 0x0 0x0 0x0 0x0 0 0x0) [{ s12 := 7, s13 := 8 }] [] : State).ctx ↑(0 : TileIx) ↑(0 : CtxIx)).pc.toNat), ((tArrived (tWord 0x52 0 0x0 0x0 0x0 0x0 0 0x0) [{ s12 := 7, s13 := 8 }] [] : State).ctx ↑(0 : TileIx) ↑(0 : CtxIx)).bound.get (by decide +kernel), (kget ((tArrived (tWord 0x52 0 0x0 0x0 0x0 0x0 0 0x0) [{ s12 := 7, s13 := 8 }] [] : State).tile ↑(0 : TileIx)).bindings (((tArrived (tWord 0x52 0 0x0 0x0 0x0 0x0 0 0x0) [{ s12 := 7, s13 := 8 }] [] : State).ctx ↑(0 : TileIx) ↑(0 : CtxIx)).bound.get (by decide +kernel))).get (by decide +kernel), ((kget ((tArrived (tWord 0x52 0 0x0 0x0 0x0 0x0 0 0x0) [{ s12 := 7, s13 := 8 }] [] : State).tile ↑(0 : TileIx)).bindings (((tArrived (tWord 0x52 0 0x0 0x0 0x0 0x0 0 0x0) [{ s12 := 7, s13 := 8 }] [] : State).ctx ↑(0 : TileIx) ↑(0 : CtxIx)).bound.get (by decide +kernel))).get (by decide +kernel)).queue.head (by decide +kernel), ((kget ((tArrived (tWord 0x52 0 0x0 0x0 0x0 0x0 0 0x0) [{ s12 := 7, s13 := 8 }] [] : State).tile ↑(0 : TileIx)).bindings (((tArrived (tWord 0x52 0 0x0 0x0 0x0 0x0 0 0x0) [{ s12 := 7, s13 := 8 }] [] : State).ctx ↑(0 : TileIx) ↑(0 : CtxIx)).bound.get (by decide +kernel))).get (by decide +kernel)).queue.tail, 1, by decide +kernel⟩,
   ⟨tTileAt (tWord 0x53 0 0x0 0x0 0x0 0x0 0 0x0), 0, 0, twordOf ((tTileAt (tWord 0x53 0 0x0 0x0 0x0 0x0 0 0x0) : State).fetchWord (↑(0 : TileIx)) ((tTileAt (tWord 0x53 0 0x0 0x0 0x0 0x0 0 0x0) : State).ctx ↑(0 : TileIx) ↑(0 : CtxIx)).pc.toNat), by decide +kernel⟩,
   ⟨tBound (tWord 0x54 0 0x0 0x21 0x0 0x0 0 0x0), 0, 0, twordOf ((tBound (tWord 0x54 0 0x0 0x21 0x0 0x0 0 0x0) : State).fetchWord (↑(0 : TileIx)) ((tBound (tWord 0x54 0 0x0 0x21 0x0 0x0 0 0x0) : State).ctx ↑(0 : TileIx) ↑(0 : CtxIx)).pc.toNat), ((tBound (tWord 0x54 0 0x0 0x21 0x0 0x0 0 0x0) : State).ctx ↑(0 : TileIx) ↑(0 : CtxIx)).bound.get (by decide +kernel), by decide +kernel⟩,
   ⟨tArrived (tWord 0x54 0 0x0 0x21 0x0 0x0 0 0x0) [] [{ s12 := 5, s13 := 8 }], 0, 0, twordOf ((tArrived (tWord 0x54 0 0x0 0x21 0x0 0x0 0 0x0) [] [{ s12 := 5, s13 := 8 }] : State).fetchWord (↑(0 : TileIx)) ((tArrived (tWord 0x54 0 0x0 0x21 0x0 0x0 0 0x0) [] [{ s12 := 5, s13 := 8 }] : State).ctx ↑(0 : TileIx) ↑(0 : CtxIx)).pc.toNat), ((tArrived (tWord 0x54 0 0x0 0x21 0x0 0x0 0 0x0) [] [{ s12 := 5, s13 := 8 }] : State).ctx ↑(0 : TileIx) ↑(0 : CtxIx)).bound.get (by decide +kernel), (kget ((tArrived (tWord 0x54 0 0x0 0x21 0x0 0x0 0 0x0) [] [{ s12 := 5, s13 := 8 }] : State).tile ↑(0 : TileIx)).bindings (((tArrived (tWord 0x54 0 0x0 0x21 0x0 0x0 0 0x0) [] [{ s12 := 5, s13 := 8 }] : State).ctx ↑(0 : TileIx) ↑(0 : CtxIx)).bound.get (by decide +kernel))).get (by decide +kernel), by decide +kernel⟩,
   ⟨tTileAt 0xFF00000000000000, 0, 0, by decide +kernel⟩⟩

theorem wit_TileVectors :
    (∃ (s : State) (i : TileIx) (c : CtxIx) (x : TWord) (j : Nat), s.atWord i.val c.val 1 x = true ∧ j < elemCount x.dt) ∧
    (∃ (s : State) (i : TileIx) (c : CtxIx) (x : TWord) (j : Nat), s.atWord i.val c.val 2 x = true ∧ j < elemCount x.dt) ∧
    (∃ (s : State) (i : TileIx) (c : CtxIx) (x : TWord) (j : Nat), s.atWord i.val c.val 3 x = true ∧ j < elemCount x.dt) ∧
    (∃ (s : State) (i : TileIx) (c : CtxIx) (x : TWord) (j : Nat), s.atWord i.val c.val 4 x = true ∧ j < elemCount x.dt) ∧
    (∃ (s : State) (i : TileIx) (c : CtxIx) (x : TWord) (j : Nat), s.atWord i.val c.val 5 x = true ∧ j < elemCount x.dt) ∧
    (∃ (s : State) (i : TileIx) (c : CtxIx) (x : TWord) (j : Nat), s.atWord i.val c.val 1 x = true ∧ x.fmt = 0 ∧ x.dt = 9 ∧ x.s3 = 0 ∧ nbits x.imm 4 0 = 0 ∧ j < 32) ∧
    (∃ (s : State) (i : TileIx) (c : CtxIx) (x : TWord) (j : Nat), s.atWord i.val c.val 2 x = true ∧ x.fmt = 0 ∧ x.dt = 9 ∧ x.s3 = 0 ∧ nbits x.imm 4 0 = 0 ∧ j < 32) :=
  ⟨⟨tTileAt (tWord 0x1 0 0x0 0x1 0x2 0x31 9 0x0), 0, 0, twordOf ((tTileAt (tWord 0x1 0 0x0 0x1 0x2 0x31 9 0x0) : State).fetchWord (↑(0 : TileIx)) ((tTileAt (tWord 0x1 0 0x0 0x1 0x2 0x31 9 0x0) : State).ctx ↑(0 : TileIx) ↑(0 : CtxIx)).pc.toNat), 0, by decide +kernel⟩,
   ⟨tTileAt (tWord 0x2 0 0x0 0x1 0x2 0x31 9 0x0), 0, 0, twordOf ((tTileAt (tWord 0x2 0 0x0 0x1 0x2 0x31 9 0x0) : State).fetchWord (↑(0 : TileIx)) ((tTileAt (tWord 0x2 0 0x0 0x1 0x2 0x31 9 0x0) : State).ctx ↑(0 : TileIx) ↑(0 : CtxIx)).pc.toNat), 0, by decide +kernel⟩,
   ⟨tTileAt (tWord 0x3 0 0x0 0x1 0x2 0x3 9 0x0), 0, 0, twordOf ((tTileAt (tWord 0x3 0 0x0 0x1 0x2 0x3 9 0x0) : State).fetchWord (↑(0 : TileIx)) ((tTileAt (tWord 0x3 0 0x0 0x1 0x2 0x3 9 0x0) : State).ctx ↑(0 : TileIx) ↑(0 : CtxIx)).pc.toNat), 0, by decide +kernel⟩,
   ⟨tTileAt (tWord 0x4 0 0x0 0x1 0x2 0x0 9 0x0), 0, 0, twordOf ((tTileAt (tWord 0x4 0 0x0 0x1 0x2 0x0 9 0x0) : State).fetchWord (↑(0 : TileIx)) ((tTileAt (tWord 0x4 0 0x0 0x1 0x2 0x0 9 0x0) : State).ctx ↑(0 : TileIx) ↑(0 : CtxIx)).pc.toNat), 0, by decide +kernel⟩,
   ⟨tTileAt (tWord 0x5 0 0x0 0x1 0x2 0x0 0 0x0), 0, 0, twordOf ((tTileAt (tWord 0x5 0 0x0 0x1 0x2 0x0 0 0x0) : State).fetchWord (↑(0 : TileIx)) ((tTileAt (tWord 0x5 0 0x0 0x1 0x2 0x0 0 0x0) : State).ctx ↑(0 : TileIx) ↑(0 : CtxIx)).pc.toNat), 0, by decide +kernel⟩,
   ⟨tTileAt (tWord 0x1 0 0x0 0x1 0x2 0x0 9 0x0), 0, 0, twordOf ((tTileAt (tWord 0x1 0 0x0 0x1 0x2 0x0 9 0x0) : State).fetchWord (↑(0 : TileIx)) ((tTileAt (tWord 0x1 0 0x0 0x1 0x2 0x0 9 0x0) : State).ctx ↑(0 : TileIx) ↑(0 : CtxIx)).pc.toNat), 0, by decide +kernel⟩,
   ⟨tTileAt (tWord 0x2 0 0x0 0x1 0x2 0x0 9 0x0), 0, 0, twordOf ((tTileAt (tWord 0x2 0 0x0 0x1 0x2 0x0 9 0x0) : State).fetchWord (↑(0 : TileIx)) ((tTileAt (tWord 0x2 0 0x0 0x1 0x2 0x0 9 0x0) : State).ctx ↑(0 : TileIx) ↑(0 : CtxIx)).pc.toNat), 0, by decide +kernel⟩⟩

theorem wit_TileVectorsBeyondArithmetic :
    (∃ (s : State) (i : TileIx) (c : CtxIx) (x : TWord), s.atWord i.val c.val 6 x = true) ∧
    (∃ (s : State) (i : TileIx) (c : CtxIx) (x : TWord) (f : Fmt) (l : Nat) (e : Nat) (m : Nat) (g : Bool) (z : Int) (j : Nat), let k : Nat := (s.ctx i.val c.val).lanes.getD l 0; let sum : Int := (s.lane i.val k).sum.toInt + signedMant g (m * 2 ^ (z + 149).toNat); s.atWord i.val c.val 8 x = true ∧ fpFmt x.dt = some f ∧ (s.ctx i.val c.val).xaccElems x = [(l, e)] ∧ f.decode e = Fp.fin g m z ∧ nbit x.imm 12 = false ∧ ((nbits x.imm 3 0 + if nbit x.imm 11 = true then 1 else nbits x.imm 7 4 + 1) ≤ (s.ctx i.val c.val).lanes.length) ∧ (s.lane i.val k).tag = LaneTag.finite ∧ -2 ^ 319 ≤ sum ∧ sum < 2 ^ 319 ∧ j ≠ k) ∧
    (∃ (s : State) (i : TileIx) (c : CtxIx) (x : TWord), s.atWord i.val c.val 8 x = true ∧ ((fun s i c x => (s.ctx i.val c.val).lanes.length < nbits x.imm 3 0 + if nbit x.imm 11 = true then 1 else nbits x.imm 7 4 + 1)   s i c x)) ∧
    (∃ (s : State) (i : TileIx) (c : CtxIx) (x : TWord), let n : Nat := if nbit x.imm 12 = true then 1 else nbits x.imm 7 4 + 1; s.atWord i.val c.val 9 x = true ∧ nbits x.imm 3 0 + n ≤ (s.ctx i.val c.val).lanes.length ∧ nbit x.imm 12 = true) ∧
    (∃ (s : State) (i : TileIx) (c : CtxIx) (x : TWord) (f : Fmt) (j : Nat), let n : Nat := if nbit x.imm 12 = true then 1 else nbits x.imm 7 4 + 1; s.atWord i.val c.val 9 x = true ∧ nbits x.imm 3 0 + n ≤ (s.ctx i.val c.val).lanes.length ∧ nbit x.imm 12 = false ∧ fpFmt x.dt = some f ∧ j < elemCount x.dt) ∧
    (∃ (s : State) (i : TileIx) (c : CtxIx) (x : TWord), s.atWord i.val c.val 9 x = true ∧ ((fun s i c x => (s.ctx i.val c.val).lanes.length < nbits x.imm 3 0 + if nbit x.imm 12 = true then 1 else nbits x.imm 7 4 + 1)   s i c x)) ∧
    (∃ (s : State) (i : TileIx) (c : CtxIx) (x : TWord) (b : Nat), s.atWord i.val c.val 12 x = true ∧ b < 128) ∧
    (∃ (s : State) (i : TileIx) (c : CtxIx) (x : TWord) (j : Nat), s.atWord i.val c.val 13 x = true ∧ j < elemCount x.dt) ∧
    (∃ (s : State) (i : TileIx) (c : CtxIx) (x : TWord) (f : Fmt) (j : Nat), s.atWord i.val c.val 14 x = true ∧ fpFmt x.dt = some f ∧ j < 64) :=
  ⟨⟨tTileAt (tWord 0x6 0 0x0 0x1 0x0 0x0 0 0x9), 0, 0, twordOf ((tTileAt (tWord 0x6 0 0x0 0x1 0x0 0x0 0 0x9) : State).fetchWord (↑(0 : TileIx)) ((tTileAt (tWord 0x6 0 0x0 0x1 0x0 0x0 0 0x9) : State).ctx ↑(0 : TileIx) ↑(0 : CtxIx)).pc.toNat), by decide +kernel⟩,
   ⟨tTileAt (tWord 0x8 0 0x0 0x1 0x0 0x0 0 0x0), 0, 0, twordOf ((tTileAt (tWord 0x8 0 0x0 0x1 0x0 0x0 0 0x0) : State).fetchWord (↑(0 : TileIx)) ((tTileAt (tWord 0x8 0 0x0 0x1 0x0 0x0 0 0x0) : State).ctx ↑(0 : TileIx) ↑(0 : CtxIx)).pc.toNat), (fpFmt (twordOf ((tTileAt (tWord 0x8 0 0x0 0x1 0x0 0x0 0 0x0) : State).fetchWord (↑(0 : TileIx)) ((tTileAt (tWord 0x8 0 0x0 0x1 0x0 0x0 0 0x0) : State).ctx ↑(0 : TileIx) ↑(0 : CtxIx)).pc.toNat)).dt).get (by decide +kernel), ((((tTileAt (tWord 0x8 0 0x0 0x1 0x0 0x0 0 0x0) : State).ctx ↑(0 : TileIx) ↑(0 : CtxIx)).xaccElems (twordOf ((tTileAt (tWord 0x8 0 0x0 0x1 0x0 0x0 0 0x0) : State).fetchWord (↑(0 : TileIx)) ((tTileAt (tWord 0x8 0 0x0 0x1 0x0 0x0 0 0x0) : State).ctx ↑(0 : TileIx) ↑(0 : CtxIx)).pc.toNat))).head     (by decide +kernel)).fst, ((((tTileAt (tWord 0x8 0 0x0 0x1 0x0 0x0 0 0x0) : State).ctx ↑(0 : TileIx) ↑(0 : CtxIx)).xaccElems (twordOf ((tTileAt (tWord 0x8 0 0x0 0x1 0x0 0x0 0 0x0) : State).fetchWord (↑(0 : TileIx)) ((tTileAt (tWord 0x8 0 0x0 0x1 0x0 0x0 0 0x0) : State).ctx ↑(0 : TileIx) ↑(0 : CtxIx)).pc.toNat))).head     (by decide +kernel)).snd, 0x800000, false, -22, 0x40000000, by decide +kernel⟩,
   ⟨tTileAt (tWord 0x8 0 0x0 0x1 0x0 0x0 0 0x1), 0, 0, twordOf ((tTileAt (tWord 0x8 0 0x0 0x1 0x0 0x0 0 0x1) : State).fetchWord (↑(0 : TileIx)) ((tTileAt (tWord 0x8 0 0x0 0x1 0x0 0x0 0 0x1) : State).ctx ↑(0 : TileIx) ↑(0 : CtxIx)).pc.toNat), by decide +kernel⟩,
   ⟨tTileAt (tWord 0x9 0 0x23 0x0 0x0 0x0 0 0x1000), 0, 0, twordOf ((tTileAt (tWord 0x9 0 0x23 0x0 0x0 0x0 0 0x1000) : State).fetchWord (↑(0 : TileIx)) ((tTileAt (tWord 0x9 0 0x23 0x0 0x0 0x0 0 0x1000) : State).ctx ↑(0 : TileIx) ↑(0 : CtxIx)).pc.toNat), by decide +kernel⟩,
   ⟨tTileAt (tWord 0x9 0 0x4 0x0 0x0 0x0 0 0x0), 0, 0, twordOf ((tTileAt (tWord 0x9 0 0x4 0x0 0x0 0x0 0 0x0) : State).fetchWord (↑(0 : TileIx)) ((tTileAt (tWord 0x9 0 0x4 0x0 0x0 0x0 0 0x0) : State).ctx ↑(0 : TileIx) ↑(0 : CtxIx)).pc.toNat), (fpFmt (twordOf ((tTileAt (tWord 0x9 0 0x4 0x0 0x0 0x0 0 0x0) : State).fetchWord (↑(0 : TileIx)) ((tTileAt (tWord 0x9 0 0x4 0x0 0x0 0x0 0 0x0) : State).ctx ↑(0 : TileIx) ↑(0 : CtxIx)).pc.toNat)).dt).get (by decide +kernel), 0, by decide +kernel⟩,
   ⟨tTileAt (tWord 0x9 0 0x4 0x0 0x0 0x0 0 0x1), 0, 0, twordOf ((tTileAt (tWord 0x9 0 0x4 0x0 0x0 0x0 0 0x1) : State).fetchWord (↑(0 : TileIx)) ((tTileAt (tWord 0x9 0 0x4 0x0 0x0 0x0 0 0x1) : State).ctx ↑(0 : TileIx) ↑(0 : CtxIx)).pc.toNat), by decide +kernel⟩,
   ⟨tTileAt (tWord 0xc 0 0x31 0x1 0x2 0x0 9 0x2), 0, 0, twordOf ((tTileAt (tWord 0xc 0 0x31 0x1 0x2 0x0 9 0x2) : State).fetchWord (↑(0 : TileIx)) ((tTileAt (tWord 0xc 0 0x31 0x1 0x2 0x0 9 0x2) : State).ctx ↑(0 : TileIx) ↑(0 : CtxIx)).pc.toNat), 0, by decide +kernel⟩,
   ⟨tTileAt (tWord 0xd 0 0x0 0x1 0x0 0x31 9 0x0), 0, 0, twordOf ((tTileAt (tWord 0xd 0 0x0 0x1 0x0 0x31 9 0x0) : State).fetchWord (↑(0 : TileIx)) ((tTileAt (tWord 0xd 0 0x0 0x1 0x0 0x31 9 0x0) : State).ctx ↑(0 : TileIx) ↑(0 : CtxIx)).pc.toNat), 0, by decide +kernel⟩,
   ⟨tTileAt (tWord 0xe 0 0x4 0x1 0x0 0x21 2 0x82), 0, 0, twordOf ((tTileAt (tWord 0xe 0 0x4 0x1 0x0 0x21 2 0x82) : State).fetchWord (↑(0 : TileIx)) ((tTileAt (tWord 0xe 0 0x4 0x1 0x0 0x21 2 0x82) : State).ctx ↑(0 : TileIx) ↑(0 : CtxIx)).pc.toNat), (fpFmt (twordOf ((tTileAt (tWord 0xe 0 0x4 0x1 0x0 0x21 2 0x82) : State).fetchWord (↑(0 : TileIx)) ((tTileAt (tWord 0xe 0 0x4 0x1 0x0 0x21 2 0x82) : State).ctx ↑(0 : TileIx) ↑(0 : CtxIx)).pc.toNat)).dt).get (by decide +kernel), 0, by decide +kernel⟩⟩

theorem wit_TileLocalMemory_1 :
    (∃ (s : State) (i : TileIx) (c : CtxIx) (x : TWord) (j : Nat), s.atWord i.val c.val 16 x = true ∧ x.dt = 0 ∧ s.selIn i.val c.val x = true ∧ s.readsOk i.val c.val (s.selWords i.val c.val x) = true ∧ j < 128) ∧
    (∃ (s : State) (i : TileIx) (c : CtxIx) (x : TWord) (j : Nat), let ws : List Nat := spanWords [(s.localAt i.val c.val x, s.xcbLen i.val c.val x)]; s.atWord i.val c.val 16 x = true ∧ x.dt ≠ 0 ∧ s.xcbIn i.val c.val x = true ∧ s.readsOk i.val c.val ws = true ∧ j < 64) ∧
    (∃ (s : State) (i : TileIx) (c : CtxIx) (x : TWord) (j : Nat), s.atWord i.val c.val 17 x = true ∧ Memory.wf (s.tile i.val).sram = true ∧ s.selIn i.val c.val x = true ∧ j < 128) ∧
    (∃ (s : State) (i : TileIx) (c : CtxIx) (x : TWord) (a : Nat), s.atWord i.val c.val 17 x = true ∧ Memory.wf (s.tile i.val).sram = true ∧ s.selIn i.val c.val x = true ∧ (a < s.localAt i.val c.val x ∨ s.localAt i.val c.val x + 128 ≤ a)) ∧
    (∃ (s : State) (i : TileIx) (c : CtxIx) (x : TWord) (j : Nat), s.atWord i.val c.val 18 x = true ∧ s.gathIn i.val c.val x = true ∧ s.readsOk i.val c.val (s.gathWords i.val c.val x) = true ∧ j < elemCount x.dt) ∧
    (∃ (s : State) (i : TileIx) (c : CtxIx) (x : TWord), s.atWord i.val c.val 19 x = true ∧ s.wordIn i.val c.val x = true ∧ s.readsOk i.val c.val [s.localAt i.val c.val x / 8] = true) ∧
    (∃ (s : State) (i : TileIx) (c : CtxIx) (x : TWord) (b : Nat), s.atWord i.val c.val 20 x = true ∧ Memory.wf (s.tile i.val).sram = true ∧ s.wordIn i.val c.val x = true ∧ (b < s.localAt i.val c.val x / 8 * 8 ∨ s.localAt i.val c.val x / 8 * 8 + 8 ≤ b)) ∧
    (∃ (s : State) (i : TileIx) (c : CtxIx) (x : TWord), s.atWord i.val c.val 16 x = true ∧ ((fun s i c x => (if x.dt = 0 then s.selIn i.val c.val x else s.xcbIn i.val c.val x) = false) s i c x)) :=
  ⟨⟨tTileAt (tWord 0x10 3 0x0 0x39 0x0 0x31 0 0x10080), 0, 0, twordOf ((tTileAt (tWord 0x10 3 0x0 0x39 0x0 0x31 0 0x10080) : State).fetchWord (↑(0 : TileIx)) ((tTileAt (tWord 0x10 3 0x0 0x39 0x0 0x31 0 0x10080) : State).ctx ↑(0 : TileIx) ↑(0 : CtxIx)).pc.toNat), 0, by decide +kernel⟩,
   ⟨tTileAt (tWord 0x10 3 0x0 0x39 0x0 0x0 0xA 0x0), 0, 0, twordOf ((tTileAt (tWord 0x10 3 0x0 0x39 0x0 0x0 0xA 0x0) : State).fetchWord (↑(0 : TileIx)) ((tTileAt (tWord 0x10 3 0x0 0x39 0x0 0x0 0xA 0x0) : State).ctx ↑(0 : TileIx) ↑(0 : CtxIx)).pc.toNat), 0, by decide +kernel⟩,
   ⟨tTileAt (tWord 0x11 3 0x0 0x39 0x1 0x31 0 0x10080), 0, 0, twordOf ((tTileAt (tWord 0x11 3 0x0 0x39 0x1 0x31 0 0x10080) : State).fetchWord (↑(0 : TileIx)) ((tTileAt (tWord 0x11 3 0x0 0x39 0x1 0x31 0 0x10080) : State).ctx ↑(0 : TileIx) ↑(0 : CtxIx)).pc.toNat), 0, by decide +kernel⟩,
   ⟨tTileAt (tWord 0x11 3 0x0 0x39 0x1 0x31 0 0x10080), 0, 0, twordOf ((tTileAt (tWord 0x11 3 0x0 0x39 0x1 0x31 0 0x10080) : State).fetchWord (↑(0 : TileIx)) ((tTileAt (tWord 0x11 3 0x0 0x39 0x1 0x31 0 0x10080) : State).ctx ↑(0 : TileIx) ↑(0 : CtxIx)).pc.toNat), 0, by decide +kernel⟩,
   ⟨tTileAt (tWord 0x12 3 0x0 0x39 0x3 0x0 0 0x0), 0, 0, twordOf ((tTileAt (tWord 0x12 3 0x0 0x39 0x3 0x0 0 0x0) : State).fetchWord (↑(0 : TileIx)) ((tTileAt (tWord 0x12 3 0x0 0x39 0x3 0x0 0 0x0) : State).ctx ↑(0 : TileIx) ↑(0 : CtxIx)).pc.toNat), 0, by decide +kernel⟩,
   ⟨tTileAt (tWord 0x13 3 0x23 0x39 0x0 0x0 0 0x8), 0, 0, twordOf ((tTileAt (tWord 0x13 3 0x23 0x39 0x0 0x0 0 0x8) : State).fetchWord (↑(0 : TileIx)) ((tTileAt (tWord 0x13 3 0x23 0x39 0x0 0x0 0 0x8) : State).ctx ↑(0 : TileIx) ↑(0 : CtxIx)).pc.toNat), by decide +kernel⟩,
   ⟨tTileAt (tWord 0x14 3 0x0 0x39 0x21 0x0 0 0x8), 0, 0, twordOf ((tTileAt (tWord 0x14 3 0x0 0x39 0x21 0x0 0 0x8) : State).fetchWord (↑(0 : TileIx)) ((tTileAt (tWord 0x14 3 0x0 0x39 0x21 0x0 0 0x8) : State).ctx ↑(0 : TileIx) ↑(0 : CtxIx)).pc.toNat), 0, by decide +kernel⟩,
   ⟨tTileAt (tWord 0x10 3 0x0 0x38 0x0 0x31 0 0x0), 0, 0, twordOf ((tTileAt (tWord 0x10 3 0x0 0x38 0x0 0x31 0 0x0) : State).fetchWord (↑(0 : TileIx)) ((tTileAt (tWord 0x10 3 0x0 0x38 0x0 0x31 0 0x0) : State).ctx ↑(0 : TileIx) ↑(0 : CtxIx)).pc.toNat), by decide +kernel⟩⟩

theorem wit_TileLocalMemory_2 :
    (∃ (s : State) (i : TileIx) (c : CtxIx) (x : TWord), s.atWord i.val c.val 17 x = true ∧ ((fun s i c x => s.selIn i.val c.val x = false) s i c x)) ∧
    (∃ (s : State) (i : TileIx) (c : CtxIx) (x : TWord), s.atWord i.val c.val 18 x = true ∧ ((fun s i c x => s.gathIn i.val c.val x = false) s i c x)) ∧
    (∃ (s : State) (i : TileIx) (c : CtxIx) (x : TWord), s.atWord i.val c.val 19 x = true ∧ ((fun s i c x => s.wordIn i.val c.val x = false) s i c x)) ∧
    (∃ (s : State) (i : TileIx) (c : CtxIx) (x : TWord), s.atWord i.val c.val 20 x = true ∧ ((fun s i c x => s.wordIn i.val c.val x = false) s i c x)) ∧
    (∃ (s : State) (i : TileIx) (c : CtxIx) (x : TWord), s.atWord i.val c.val 16 x = true ∧ ((fun s i c x =>     (if x.dt = 0 then s.selIn i.val c.val x else s.xcbIn i.val c.val x) = true ∧       s.readsOk i.val c.val           (if x.dt = 0 then s.selWords i.val c.val x else spanWords [(s.localAt i.val c.val x, s.xcbLen i.val c.val x)]) =         false)   s i c x)) ∧
    (∃ (s : State) (i : TileIx) (c : CtxIx) (x : TWord), s.atWord i.val c.val 18 x = true ∧ ((fun s i c x => s.gathIn i.val c.val x = true ∧ s.readsOk i.val c.val (s.gathWords i.val c.val x) = false) s i c x)) ∧
    (∃ (s : State) (i : TileIx) (c : CtxIx) (x : TWord), s.atWord i.val c.val 19 x = true ∧ ((fun s i c x => s.wordIn i.val c.val x = true ∧ s.readsOk i.val c.val [s.localAt i.val c.val x / 8] = false) s i c x)) :=
  ⟨⟨tTileAt (tWord 0x11 3 0x0 0x38 0x1 0x31 0 0x0), 0, 0, twordOf ((tTileAt (tWord 0x11 3 0x0 0x38 0x1 0x31 0 0x0) : State).fetchWord (↑(0 : TileIx)) ((tTileAt (tWord 0x11 3 0x0 0x38 0x1 0x31 0 0x0) : State).ctx ↑(0 : TileIx) ↑(0 : CtxIx)).pc.toNat), by decide +kernel⟩,
   ⟨tTileAt (tWord 0x12 3 0x0 0x38 0x3 0x0 0 0x0), 0, 0, twordOf ((tTileAt (tWord 0x12 3 0x0 0x38 0x3 0x0 0 0x0) : State).fetchWord (↑(0 : TileIx)) ((tTileAt (tWord 0x12 3 0x0 0x38 0x3 0x0 0 0x0) : State).ctx ↑(0 : TileIx) ↑(0 : CtxIx)).pc.toNat), by decide +kernel⟩,
   ⟨tTileAt (tWord 0x13 3 0x23 0x38 0x0 0x0 0 0x8), 0, 0, twordOf ((tTileAt (tWord 0x13 3 0x23 0x38 0x0 0x0 0 0x8) : State).fetchWord (↑(0 : TileIx)) ((tTileAt (tWord 0x13 3 0x23 0x38 0x0 0x0 0 0x8) : State).ctx ↑(0 : TileIx) ↑(0 : CtxIx)).pc.toNat), by decide +kernel⟩,
   ⟨tTileAt (tWord 0x14 3 0x0 0x38 0x21 0x0 0 0x8), 0, 0, twordOf ((tTileAt (tWord 0x14 3 0x0 0x38 0x21 0x0 0 0x8) : State).fetchWord (↑(0 : TileIx)) ((tTileAt (tWord 0x14 3 0x0 0x38 0x21 0x0 0 0x8) : State).ctx ↑(0 : TileIx) ↑(0 : CtxIx)).pc.toNat), by decide +kernel⟩,
   ⟨tBadWord (tWord 0x10 3 0x0 0x39 0x0 0x31 0 0x0), 0, 0, twordOf ((tBadWord (tWord 0x10 3 0x0 0x39 0x0 0x31 0 0x0) : State).fetchWord (↑(0 : TileIx)) ((tBadWord (tWord 0x10 3 0x0 0x39 0x0 0x31 0 0x0) : State).ctx ↑(0 : TileIx) ↑(0 : CtxIx)).pc.toNat), by decide +kernel⟩,
   ⟨tBadWord (tWord 0x12 3 0x0 0x39 0x3 0x0 0 0x0), 0, 0, twordOf ((tBadWord (tWord 0x12 3 0x0 0x39 0x3 0x0 0 0x0) : State).fetchWord (↑(0 : TileIx)) ((tBadWord (tWord 0x12 3 0x0 0x39 0x3 0x0 0 0x0) : State).ctx ↑(0 : TileIx) ↑(0 : CtxIx)).pc.toNat), by decide +kernel⟩,
   ⟨tBadWord (tWord 0x13 3 0x23 0x39 0x0 0x0 0 0x0), 0, 0, twordOf ((tBadWord (tWord 0x13 3 0x23 0x39 0x0 0x0 0 0x0) : State).fetchWord (↑(0 : TileIx)) ((tBadWord (tWord 0x13 3 0x23 0x39 0x0 0x0 0 0x0) : State).ctx ↑(0 : TileIx) ↑(0 : CtxIx)).pc.toNat), by decide +kernel⟩⟩

theorem wit_TileRemoteMemory_1 :
    (∃ (s : State) (i : TileIx) (c : CtxIx) (x : TWord), s.atWord i.val c.val 24 x = true ∧ s.slotsFor i.val c.val x.count = false) ∧
    (∃ (s : State) (i : TileIx) (c : CtxIx) (x : TWord), s.atWord i.val c.val 25 x = true ∧ s.slotsFor i.val c.val x.count = false) ∧
    (∃ (s : State) (i : TileIx) (c : CtxIx) (x : TWord), s.atWord i.val c.val 27 x = true ∧ s.slotsFor i.val c.val x.count = false) ∧
    (∃ (s : State) (i : TileIx) (c : CtxIx) (x : TWord), s.atWord i.val c.val 26 x = true ∧ (s.slotsFor i.val c.val ((fun x => 1) x) = false)) ∧
    (∃ (s : State) (i : TileIx) (c : CtxIx) (x : TWord), s.atWord i.val c.val 32 x = true ∧ (s.slotsFor i.val c.val ((fun x => 1) x) = false)) ∧
    (∃ (s : State) (i : TileIx) (c : CtxIx) (x : TWord), s.atWord i.val c.val 33 x = true ∧ (s.slotsFor i.val c.val ((fun x => 1) x) = false)) ∧
    (∃ (s : State) (i : TileIx) (c : CtxIx) (x : TWord), s.slotsFor i.val c.val x.count = true ∧ s.atWord i.val c.val 24 x = true ∧ x.dst ≠ x.s1) ∧
    (∃ (s : State) (i : TileIx) (c : CtxIx) (x : TWord) (k : Nat), s.slotsFor i.val c.val 1 = true ∧ s.tlcFailed (i.val / 16) = false ∧ x.count = 1 ∧ s.tlcBusy (i.val / 16) k = false ∧ s.tlcLine (i.val / 16) k = none ∧ nbit x.imm 20 = false ∧ s.atWord i.val c.val 24 x = true ∧ s.cacheKey (lineGfa (s.remoteAt i.val c.val x) 0) = some k ∧ s.cacheKey (BitVec.ofNat 56 (s.remoteAt i.val c.val x / 8 * 8)) = some k) ∧
    (∃ (s : State) (i : TileIx) (c : CtxIx) (x : TWord) (k : Nat), s.slotsFor i.val c.val 1 = true ∧ s.tlcFailed (i.val / 16) = false ∧ x.count = 1 ∧ s.tlcBusy (i.val / 16) k = false ∧ s.tlcLine (i.val / 16) k = none ∧ nbit x.imm 20 = false ∧ s.atWord i.val c.val 27 x = true ∧ s.cacheKey (lineGfa (s.gathAt i.val c.val x) 0) = some k) ∧
    (∃ (s : State) (i : TileIx) (c : CtxIx) (x : TWord) (k : Nat) (l : TlcLine), s.slotsFor i.val c.val 1 = true ∧ s.tlcFailed (i.val / 16) = false ∧ x.count = 1 ∧ s.tlcBusy (i.val / 16) k = false ∧ s.tlcLine (i.val / 16) k = some l ∧ l.data.length = 128 ∧ s.idleCtx i.val c.val = true ∧ nbit x.imm 20 = false ∧ s.atWord i.val c.val 24 x = true ∧ s.cacheKey (lineGfa (s.remoteAt i.val c.val x) 0) = some k ∧ s.cacheKey (BitVec.ofNat 56 (s.remoteAt i.val c.val x / 8 * 8)) = some k) :=
  ⟨⟨tFullSlots (tWord 0x18 3 0x0 0x39 0x0 0x0 0 0x0), 0, 0, twordOf ((tFullSlots (tWord 0x18 3 0x0 0x39 0x0 0x0 0 0x0) : State).fetchWord (↑(0 : TileIx)) ((tFullSlots (tWord 0x18 3 0x0 0x39 0x0 0x0 0 0x0) : State).ctx ↑(0 : TileIx) ↑(0 : CtxIx)).pc.toNat), by decide +kernel⟩,
   ⟨tFullSlots (tWord 0x19 3 0x0 0x39 0x1 0x0 0 0x0), 0, 0, twordOf ((tFullSlots (tWord 0x19 3 0x0 0x39 0x1 0x0 0 0x0) : State).fetchWord (↑(0 : TileIx)) ((tFullSlots (tWord 0x19 3 0x0 0x39 0x1 0x0 0 0x0) : State).ctx ↑(0 : TileIx) ↑(0 : CtxIx)).pc.toNat), by decide +kernel⟩,
   ⟨tFullSlots (tWord 0x1b 3 0x0 0x39 0x1 0x0 0 0x0), 0, 0, twordOf ((tFullSlots (tWord 0x1b 3 0x0 0x39 0x1 0x0 0 0x0) : State).fetchWord (↑(0 : TileIx)) ((tFullSlots (tWord 0x1b 3 0x0 0x39 0x1 0x0 0 0x0) : State).ctx ↑(0 : TileIx) ↑(0 : CtxIx)).pc.toNat), by decide +kernel⟩,
   ⟨tFullSlots (tWord 0x1a 3 0x23 0x39 0x21 0x22 0 0x0), 0, 0, twordOf ((tFullSlots (tWord 0x1a 3 0x23 0x39 0x21 0x22 0 0x0) : State).fetchWord (↑(0 : TileIx)) ((tFullSlots (tWord 0x1a 3 0x23 0x39 0x21 0x22 0 0x0) : State).ctx ↑(0 : TileIx) ↑(0 : CtxIx)).pc.toNat), by decide +kernel⟩,
   ⟨tFullSlots (tWord 0x20 3 0x23 0x39 0x21 0x0 0 0x1), 0, 0, twordOf ((tFullSlots (tWord 0x20 3 0x23 0x39 0x21 0x0 0 0x1) : State).fetchWord (↑(0 : TileIx)) ((tFullSlots (tWord 0x20 3 0x23 0x39 0x21 0x0 0 0x1) : State).ctx ↑(0 : TileIx) ↑(0 : CtxIx)).pc.toNat), by decide +kernel⟩,
   ⟨tFullSlots (tWord 0x21 3 0x23 0x39 0x21 0x0 0 0x41), 0, 0, twordOf ((tFullSlots (tWord 0x21 3 0x23 0x39 0x21 0x0 0 0x41) : State).fetchWord (↑(0 : TileIx)) ((tFullSlots (tWord 0x21 3 0x23 0x39 0x21 0x0 0 0x41) : State).ctx ↑(0 : TileIx) ↑(0 : CtxIx)).pc.toNat), by decide +kernel⟩,
   ⟨(tTileAt (tWord 0x18 3 0x0 0x39 0x0 0x0 0 0x0)).setTlc 0 0x800 { state := 1, data := List.replicate 128 7 }, 0, 0, twordOf (((tTileAt (tWord 0x18 3 0x0 0x39 0x0 0x0 0 0x0)).setTlc 0 0x800 { state := 1, data := List.replicate 128 7 } : State).fetchWord (↑(0 : TileIx)) (((tTileAt (tWord 0x18 3 0x0 0x39 0x0 0x0 0 0x0)).setTlc 0 0x800 { state := 1, data := List.replicate 128 7 } : State).ctx ↑(0 : TileIx) ↑(0 : CtxIx)).pc.toNat), by decide +kernel⟩,
   ⟨tTileAt (tWord 0x18 3 0x0 0x39 0x0 0x0 0 0x0), 0, 0, twordOf ((tTileAt (tWord 0x18 3 0x0 0x39 0x0 0x0 0 0x0) : State).fetchWord (↑(0 : TileIx)) ((tTileAt (tWord 0x18 3 0x0 0x39 0x0 0x0 0 0x0) : State).ctx ↑(0 : TileIx) ↑(0 : CtxIx)).pc.toNat), ((tTileAt (tWord 0x18 3 0x0 0x39 0x0 0x0 0 0x0) : State).cacheKey       (lineGfa         ((tTileAt (tWord 0x18 3 0x0 0x39 0x0 0x0 0 0x0) : State).remoteAt (↑(0 : TileIx)) (↑(0 : CtxIx)) (twordOf ((tTileAt (tWord 0x18 3 0x0 0x39 0x0 0x0 0 0x0) : State).fetchWord (↑(0 : TileIx)) ((tTileAt (tWord 0x18 3 0x0 0x39 0x0 0x0 0 0x0) : State).ctx ↑(0 : TileIx) ↑(0 : CtxIx)).pc.toNat)))         0)).get   (by decide +kernel), by decide +kernel⟩,
   ⟨tTileAt (tWord 0x1b 3 0x0 0x39 0x1 0x0 0 0x0), 0, 0, twordOf ((tTileAt (tWord 0x1b 3 0x0 0x39 0x1 0x0 0 0x0) : State).fetchWord (↑(0 : TileIx)) ((tTileAt (tWord 0x1b 3 0x0 0x39 0x1 0x0 0 0x0) : State).ctx ↑(0 : TileIx) ↑(0 : CtxIx)).pc.toNat), ((tTileAt (tWord 0x1b 3 0x0 0x39 0x1 0x0 0 0x0) : State).cacheKey       (lineGfa ((tTileAt (tWord 0x1b 3 0x0 0x39 0x1 0x0 0 0x0) : State).gathAt (↑(0 : TileIx)) (↑(0 : CtxIx)) (twordOf ((tTileAt (tWord 0x1b 3 0x0 0x39 0x1 0x0 0 0x0) : State).fetchWord (↑(0 : TileIx)) ((tTileAt (tWord 0x1b 3 0x0 0x39 0x1 0x0 0 0x0) : State).ctx ↑(0 : TileIx) ↑(0 : CtxIx)).pc.toNat)))         0)).get   (by decide +kernel), by decide +kernel⟩,
   ⟨(tTileAt (tWord 0x18 3 0x0 0x39 0x0 0x0 0 0x0)).setTlc 0 0x800 { state := 1, data := List.replicate 128 7 }, 0, 0, twordOf (((tTileAt (tWord 0x18 3 0x0 0x39 0x0 0x0 0 0x0)).setTlc 0 0x800 { state := 1, data := List.replicate 128 7 } : State).fetchWord (↑(0 : TileIx)) (((tTileAt (tWord 0x18 3 0x0 0x39 0x0 0x0 0 0x0)).setTlc 0 0x800 { state := 1, data := List.replicate 128 7 } : State).ctx ↑(0 : TileIx) ↑(0 : CtxIx)).pc.toNat), (((tTileAt (tWord 0x18 3 0x0 0x39 0x0 0x0 0 0x0)).setTlc 0 0x800 { state := 1, data := List.replicate 128 7 } : State).cacheKey       (lineGfa         (((tTileAt (tWord 0x18 3 0x0 0x39 0x0 0x0 0 0x0)).setTlc 0 0x800 { state := 1, data := List.replicate 128 7 } : State).remoteAt (↑(0 : TileIx)) (↑(0 : CtxIx)) (twordOf (((tTileAt (tWord 0x18 3 0x0 0x39 0x0 0x0 0 0x0)).setTlc 0 0x800 { state := 1, data := List.replicate 128 7 } : State).fetchWord (↑(0 : TileIx)) (((tTileAt (tWord 0x18 3 0x0 0x39 0x0 0x0 0 0x0)).setTlc 0 0x800 { state := 1, data := List.replicate 128 7 } : State).ctx ↑(0 : TileIx) ↑(0 : CtxIx)).pc.toNat)))         0)).get   (by decide +kernel), (((tTileAt (tWord 0x18 3 0x0 0x39 0x0 0x0 0 0x0)).setTlc 0 0x800 { state := 1, data := List.replicate 128 7 } : State).tlcLine (↑(0 : TileIx) / 16)       ((((tTileAt (tWord 0x18 3 0x0 0x39 0x0 0x0 0 0x0)).setTlc 0 0x800 { state := 1, data := List.replicate 128 7 } : State).cacheKey             (lineGfa               (((tTileAt (tWord 0x18 3 0x0 0x39 0x0 0x0 0 0x0)).setTlc 0 0x800 { state := 1, data := List.replicate 128 7 } : State).remoteAt (↑(0 : TileIx)) (↑(0 : CtxIx)) (twordOf (((tTileAt (tWord 0x18 3 0x0 0x39 0x0 0x0 0 0x0)).setTlc 0 0x800 { state := 1, data := List.replicate 128 7 } : State).fetchWord (↑(0 : TileIx)) (((tTileAt (tWord 0x18 3 0x0 0x39 0x0 0x0 0 0x0)).setTlc 0 0x800 { state := 1, data := List.replicate 128 7 } : State).ctx ↑(0 : TileIx) ↑(0 : CtxIx)).pc.toNat)))               0)).get         (by decide +kernel))).get   (by decide +kernel), by decide +kernel⟩⟩

theorem wit_TileRemoteMemory_2 :
    (∃ (s : State) (i : TileIx) (c : CtxIx) (x : TWord) (k : Nat) (l : TlcLine), s.slotsFor i.val c.val 1 = true ∧ s.tlcFailed (i.val / 16) = false ∧ x.count = 1 ∧ s.tlcBusy (i.val / 16) k = false ∧ s.tlcLine (i.val / 16) k = some l ∧ l.data.length = 128 ∧ s.idleCtx i.val c.val = true ∧ nbit x.imm 20 = false ∧ s.atWord i.val c.val 27 x = true ∧ s.cacheKey (lineGfa (s.gathAt i.val c.val x) 0) = some k) ∧
    (∃ (s : State) (i : TileIx) (c : CtxIx) (x : TWord), let g : BitVec 56 := if isV x.dst = true then lineGfa (s.remoteAt i.val c.val x) 0 else BitVec.ofNat 56 (s.remoteAt i.val c.val x / 8 * 8); s.atWord i.val c.val 24 x = true ∧ s.slotsFor i.val c.val 1 = true ∧ s.tlcFailed (i.val / 16) = false ∧ x.count = 1 ∧ (s.cacheKey g).isSome = true ∧ nbit x.imm 20 = true) ∧
    (∃ (s : State) (i : TileIx) (c : CtxIx) (x : TWord), let g : BitVec 56 := if isV x.dst = true then lineGfa (s.remoteAt i.val c.val x) 0 else BitVec.ofNat 56 (s.remoteAt i.val c.val x / 8 * 8); s.atWord i.val c.val 24 x = true ∧ s.slotsFor i.val c.val 1 = true ∧ s.tlcFailed (i.val / 16) = false ∧ x.count = 1 ∧ s.cacheKey g = none) ∧
    (∃ (s : State) (i : TileIx) (c : CtxIx) (x : TWord), s.slotsFor i.val c.val x.count = true ∧ s.idleCtx i.val c.val = true ∧ s.atWord i.val c.val 24 x = true ∧ onePage (s.remoteAt i.val c.val x) x.count = false) ∧
    (∃ (s : State) (i : TileIx) (c : CtxIx) (x : TWord), s.slotsFor i.val c.val x.count = true ∧ s.idleCtx i.val c.val = true ∧ s.atWord i.val c.val 24 x = true ∧ onePage (s.remoteAt i.val c.val x) x.count = true ∧ s.tlcFailed (i.val / 16) = true) ∧
    (∃ (s : State) (i : TileIx) (c : CtxIx) (x : TWord), s.slotsFor i.val c.val x.count = true ∧ s.idleCtx i.val c.val = true ∧ s.atWord i.val c.val 27 x = true ∧ s.tlcFailed (i.val / 16) = true) ∧
    (∃ (s : State) (i : TileIx) (c : CtxIx) (x : TWord), s.atWord i.val c.val 26 x = true ∧ s.slotsFor i.val c.val 1 = true ∧ s.idleCtx i.val c.val = true ∧ s.tlcFailed (i.val / 16) = true) ∧
    (∃ (s : State) (i : TileIx) (c : CtxIx) (x : TWord), s.atWord i.val c.val 25 x = true ∧ s.slotsFor i.val c.val x.count = true ∧ onePage (s.remoteAt i.val c.val x) x.count = false) ∧
    (∃ (s : State) (i : TileIx) (c : CtxIx) (x : TWord), s.atWord i.val c.val 25 x = true ∧ s.slotsFor i.val c.val x.count = true ∧ x.count = 1 ∧ s.tlcFailed (i.val / 16) = true) ∧
    (∃ (s : State) (i : TileIx) (c : CtxIx) (x : TWord), s.atWord i.val c.val 25 x = true ∧ s.slotsFor i.val c.val 1 = true ∧ s.tlcFailed (i.val / 16) = false ∧ x.count = 1 ∧ (s.cacheKey (lineGfa (s.remoteAt i.val c.val x) 0) = none ∨ (s.coherentAt (lineGfa (s.remoteAt i.val c.val x) 0)).snd = false) ∧ isV x.s2 = true ∧ (s.ctx i.val c.val).pred x = none) :=
  ⟨⟨(tTileAt (tWord 0x1b 3 0x0 0x39 0x1 0x0 0 0x0)).setTlc 0 0x40000800 { state := 1, data := List.replicate 128 7 }, 0, 0, twordOf (((tTileAt (tWord 0x1b 3 0x0 0x39 0x1 0x0 0 0x0)).setTlc 0 0x40000800 { state := 1, data := List.replicate 128 7 } : State).fetchWord (↑(0 : TileIx)) (((tTileAt (tWord 0x1b 3 0x0 0x39 0x1 0x0 0 0x0)).setTlc 0 0x40000800 { state := 1, data := List.replicate 128 7 } : State).ctx ↑(0 : TileIx) ↑(0 : CtxIx)).pc.toNat), (((tTileAt (tWord 0x1b 3 0x0 0x39 0x1 0x0 0 0x0)).setTlc 0 0x40000800 { state := 1, data := List.replicate 128 7 } : State).cacheKey       (lineGfa (((tTileAt (tWord 0x1b 3 0x0 0x39 0x1 0x0 0 0x0)).setTlc 0 0x40000800 { state := 1, data := List.replicate 128 7 } : State).gathAt (↑(0 : TileIx)) (↑(0 : CtxIx)) (twordOf (((tTileAt (tWord 0x1b 3 0x0 0x39 0x1 0x0 0 0x0)).setTlc 0 0x40000800 { state := 1, data := List.replicate 128 7 } : State).fetchWord (↑(0 : TileIx)) (((tTileAt (tWord 0x1b 3 0x0 0x39 0x1 0x0 0 0x0)).setTlc 0 0x40000800 { state := 1, data := List.replicate 128 7 } : State).ctx ↑(0 : TileIx) ↑(0 : CtxIx)).pc.toNat)))         0)).get   (by decide +kernel), (((tTileAt (tWord 0x1b 3 0x0 0x39 0x1 0x0 0 0x0)).setTlc 0 0x40000800 { state := 1, data := List.replicate 128 7 } : State).tlcLine (↑(0 : TileIx) / 16)       ((((tTileAt (tWord 0x1b 3 0x0 0x39 0x1 0x0 0 0x0)).setTlc 0 0x40000800 { state := 1, data := List.replicate 128 7 } : State).cacheKey             (lineGfa               (((tTileAt (tWord 0x1b 3 0x0 0x39 0x1 0x0 0 0x0)).setTlc 0 0x40000800 { state := 1, data := List.replicate 128 7 } : State).gathAt (↑(0 : TileIx)) (↑(0 : CtxIx)) (twordOf (((tTileAt (tWord 0x1b 3 0x0 0x39 0x1 0x0 0 0x0)).setTlc 0 0x40000800 { state := 1, data := List.replicate 128 7 } : State).fetchWord (↑(0 : TileIx)) (((tTileAt (tWord 0x1b 3 0x0 0x39 0x1 0x0 0 0x0)).setTlc 0 0x40000800 { state := 1, data := List.replicate 128 7 } : State).ctx ↑(0 : TileIx) ↑(0 : CtxIx)).pc.toNat)))               0)).get         (by decide +kernel))).get   (by decide +kernel), by decide +kernel⟩,
   ⟨tTileAt (tWord 0x18 3 0x0 0x39 0x0 0x0 0 0x100000), 0, 0, twordOf ((tTileAt (tWord 0x18 3 0x0 0x39 0x0 0x0 0 0x100000) : State).fetchWord (↑(0 : TileIx)) ((tTileAt (tWord 0x18 3 0x0 0x39 0x0 0x0 0 0x100000) : State).ctx ↑(0 : TileIx) ↑(0 : CtxIx)).pc.toNat), by decide +kernel⟩,
   ⟨(let s := tTileAt (tWord 0x18 3 0x0 0x39 0x0 0x0 0 0x0); s.setCtx 0 0 { s.ctx 0 0 with a := [(1, BitVec.ofNat 64 (stakeBase + 0x40000000))] }), 0, 0, twordOf ((let s := tTileAt (tWord 0x18 3 0x0 0x39 0x0 0x0 0 0x0); s.setCtx 0 0 { s.ctx 0 0 with a := [(1, BitVec.ofNat 64 (stakeBase + 0x40000000))] } : State).fetchWord (↑(0 : TileIx)) ((let s := tTileAt (tWord 0x18 3 0x0 0x39 0x0 0x0 0 0x0); s.setCtx 0 0 { s.ctx 0 0 with a := [(1, BitVec.ofNat 64 (stakeBase + 0x40000000))] } : State).ctx ↑(0 : TileIx) ↑(0 : CtxIx)).pc.toNat), by decide +kernel⟩,
   ⟨tTileAt (tWord 0x18 3 0x0 0x39 0x0 0x0 0 0x20f80), 0, 0, twordOf ((tTileAt (tWord 0x18 3 0x0 0x39 0x0 0x0 0 0x20f80) : State).fetchWord (↑(0 : TileIx)) ((tTileAt (tWord 0x18 3 0x0 0x39 0x0 0x0 0 0x20f80) : State).ctx ↑(0 : TileIx) ↑(0 : CtxIx)).pc.toNat), by decide +kernel⟩,
   ⟨{ tTileAt (tWord 0x18 3 0x0 0x39 0x0 0x0 0 0x0) with tlcDown := [0] }, 0, 0, twordOf (({ tTileAt (tWord 0x18 3 0x0 0x39 0x0 0x0 0 0x0) with tlcDown := [0] } : State).fetchWord (↑(0 : TileIx)) (({ tTileAt (tWord 0x18 3 0x0 0x39 0x0 0x0 0 0x0) with tlcDown := [0] } : State).ctx ↑(0 : TileIx) ↑(0 : CtxIx)).pc.toNat), by decide +kernel⟩,
   ⟨{ tTileAt (tWord 0x1b 3 0x0 0x39 0x1 0x0 0 0x0) with tlcDown := [0] }, 0, 0, twordOf (({ tTileAt (tWord 0x1b 3 0x0 0x39 0x1 0x0 0 0x0) with tlcDown := [0] } : State).fetchWord (↑(0 : TileIx)) (({ tTileAt (tWord 0x1b 3 0x0 0x39 0x1 0x0 0 0x0) with tlcDown := [0] } : State).ctx ↑(0 : TileIx) ↑(0 : CtxIx)).pc.toNat), by decide +kernel⟩,
   ⟨{ tTileAt (tWord 0x1a 3 0x23 0x39 0x21 0x22 0 0x0) with tlcDown := [0] }, 0, 0, twordOf (({ tTileAt (tWord 0x1a 3 0x23 0x39 0x21 0x22 0 0x0) with tlcDown := [0] } : State).fetchWord (↑(0 : TileIx)) (({ tTileAt (tWord 0x1a 3 0x23 0x39 0x21 0x22 0 0x0) with tlcDown := [0] } : State).ctx ↑(0 : TileIx) ↑(0 : CtxIx)).pc.toNat), by decide +kernel⟩,
   ⟨tTileAt (tWord 0x19 3 0x0 0x39 0x1 0x0 0 0x20f80), 0, 0, twordOf ((tTileAt (tWord 0x19 3 0x0 0x39 0x1 0x0 0 0x20f80) : State).fetchWord (↑(0 : TileIx)) ((tTileAt (tWord 0x19 3 0x0 0x39 0x1 0x0 0 0x20f80) : State).ctx ↑(0 : TileIx) ↑(0 : CtxIx)).pc.toNat), by decide +kernel⟩,
   ⟨{ tTileAt (tWord 0x19 3 0x0 0x39 0x1 0x0 0 0x0) with tlcDown := [0] }, 0, 0, twordOf (({ tTileAt (tWord 0x19 3 0x0 0x39 0x1 0x0 0 0x0) with tlcDown := [0] } : State).fetchWord (↑(0 : TileIx)) (({ tTileAt (tWord 0x19 3 0x0 0x39 0x1 0x0 0 0x0) with tlcDown := [0] } : State).ctx ↑(0 : TileIx) ↑(0 : CtxIx)).pc.toNat), by decide +kernel⟩,
   ⟨tTileAt (tWord 0x19 3 0x0 0x39 0x1 0x0 0 0x0), 0, 0, twordOf ((tTileAt (tWord 0x19 3 0x0 0x39 0x1 0x0 0 0x0) : State).fetchWord (↑(0 : TileIx)) ((tTileAt (tWord 0x19 3 0x0 0x39 0x1 0x0 0 0x0) : State).ctx ↑(0 : TileIx) ↑(0 : CtxIx)).pc.toNat), by decide +kernel⟩⟩

theorem wit_TileRemoteMemory_3 :
    (∃ (s : State) (i : TileIx) (c : CtxIx) (x : TWord) (b : BitVec 128), s.atWord i.val c.val 25 x = true ∧ s.slotsFor i.val c.val 1 = true ∧ s.tlcFailed (i.val / 16) = false ∧ x.count = 1 ∧ (s.cacheKey (lineGfa (s.remoteAt i.val c.val x) 0) = none ∨ (s.coherentAt (lineGfa (s.remoteAt i.val c.val x) 0)).snd = false) ∧ isV x.s2 = true ∧ (s.ctx i.val c.val).pred x = some b ∧ maskRun b = none) ∧
    (∃ (s : State) (i : TileIx) (c : CtxIx) (x : TWord) (b : BitVec 128) (lo : Nat) (n : Nat), s.atWord i.val c.val 25 x = true ∧ s.slotsFor i.val c.val 1 = true ∧ s.tlcFailed (i.val / 16) = false ∧ x.count = 1 ∧ (s.cacheKey (lineGfa (s.remoteAt i.val c.val x) 0) = none ∨ (s.coherentAt (lineGfa (s.remoteAt i.val c.val x) 0)).snd = false) ∧ isV x.s2 = true ∧ (s.ctx i.val c.val).pred x = some b ∧ maskRun b = some (lo, n)) ∧
    (∃ (s : State) (i : TileIx) (c : CtxIx) (x : TWord), s.atWord i.val c.val 25 x = true ∧ s.slotsFor i.val c.val 1 = true ∧ s.tlcFailed (i.val / 16) = false ∧ x.count = 1 ∧ (s.cacheKey (lineGfa (s.remoteAt i.val c.val x) 0) = none ∨ (s.coherentAt (lineGfa (s.remoteAt i.val c.val x) 0)).snd = false) ∧ isV x.s2 = false) ∧
    (∃ (s : State) (i : TileIx) (c : CtxIx) (x : TWord) (k : Nat) (l : TlcLine), s.atWord i.val c.val 25 x = true ∧ s.slotsFor i.val c.val 1 = true ∧ s.tlcFailed (i.val / 16) = false ∧ x.count = 1 ∧ s.cacheKey (lineGfa (s.remoteAt i.val c.val x) 0) = some k ∧ (s.coherentAt (lineGfa (s.remoteAt i.val c.val x) 0)).snd = true ∧ s.tlcBusy (i.val / 16) k = false ∧ s.tlcLine (i.val / 16) k = some l ∧ (l.state = 2 ∨ l.state = 3) ∧ isV x.s2 = true ∧ (s.ctx i.val c.val).pred x = none) ∧
    (∃ (s : State) (i : TileIx) (c : CtxIx) (x : TWord) (k : Nat), s.atWord i.val c.val 25 x = true ∧ s.slotsFor i.val c.val 1 = true ∧ s.tlcFailed (i.val / 16) = false ∧ x.count = 1 ∧ s.cacheKey (lineGfa (s.remoteAt i.val c.val x) 0) = some k ∧ (s.coherentAt (lineGfa (s.remoteAt i.val c.val x) 0)).snd = true ∧ s.tlcBusy (i.val / 16) k = false ∧ (∀ (l : TlcLine), s.tlcLine (i.val / 16) k = some l → l.state ≠ 2 ∧ l.state ≠ 3)) ∧
    (∃ (s : State) (i : TileIx) (c : CtxIx) (x : TWord), s.atWord i.val c.val 26 x = true ∧ s.slotsFor i.val c.val 1 = true ∧ s.tlcFailed (i.val / 16) = false) ∧
    (∃ (s : State) (i : TileIx) (c : CtxIx) (x : TWord), let scope : BitVec 2 := BitVec.ofNat 2 (nbits x.imm 1 0); let st : Status := (s.ctx i.val c.val).fenceWorst s.ix scope; s.atWord i.val c.val 32 x = true ∧ s.slotsFor i.val c.val 1 = true ∧ (s.ctx i.val c.val).fenceDone s.ix scope = true ∧ st = stOK) ∧
    (∃ (s : State) (i : TileIx) (c : CtxIx) (x : TWord), let scope : BitVec 2 := BitVec.ofNat 2 (nbits x.imm 1 0); let st : Status := (s.ctx i.val c.val).fenceWorst s.ix scope; s.atWord i.val c.val 32 x = true ∧ s.slotsFor i.val c.val 1 = true ∧ (s.ctx i.val c.val).fenceDone s.ix scope = true ∧ st ≠ stOK) ∧
    (∃ (s : State) (i : TileIx) (c : CtxIx) (x : TWord), let scope : BitVec 2 := BitVec.ofNat 2 (nbits x.imm 1 0); s.atWord i.val c.val 32 x = true ∧ s.slotsFor i.val c.val 1 = true ∧ (s.ctx i.val c.val).fenceDone s.ix scope = false) ∧
    (∃ (s : State) (i : TileIx) (c : CtxIx) (x : TWord), s.atWord i.val c.val 33 x = true ∧ s.slotsFor i.val c.val 1 = true) :=
  ⟨⟨(let s := tTileAt (tWord 0x19 3 0x0 0x39 0x1 0x31 0 0x0); s.setCtx 0 0 { s.ctx 0 0 with p := [(1, 5)] }), 0, 0, twordOf ((let s := tTileAt (tWord 0x19 3 0x0 0x39 0x1 0x31 0 0x0); s.setCtx 0 0 { s.ctx 0 0 with p := [(1, 5)] } : State).fetchWord (↑(0 : TileIx)) ((let s := tTileAt (tWord 0x19 3 0x0 0x39 0x1 0x31 0 0x0); s.setCtx 0 0 { s.ctx 0 0 with p := [(1, 5)] } : State).ctx ↑(0 : TileIx) ↑(0 : CtxIx)).pc.toNat), (((let s := tTileAt (tWord 0x19 3 0x0 0x39 0x1 0x31 0 0x0); s.setCtx 0 0 { s.ctx 0 0 with p := [(1, 5)] } : State).ctx ↑(0 : TileIx) ↑(0 : CtxIx)).pred (twordOf ((let s := tTileAt (tWord 0x19 3 0x0 0x39 0x1 0x31 0 0x0); s.setCtx 0 0 { s.ctx 0 0 with p := [(1, 5)] } : State).fetchWord (↑(0 : TileIx)) ((let s := tTileAt (tWord 0x19 3 0x0 0x39 0x1 0x31 0 0x0); s.setCtx 0 0 { s.ctx 0 0 with p := [(1, 5)] } : State).ctx ↑(0 : TileIx) ↑(0 : CtxIx)).pc.toNat))).get (by decide +kernel), by decide +kernel⟩,
   ⟨tTileAt (tWord 0x19 3 0x0 0x39 0x1 0x31 0 0x0), 0, 0, twordOf ((tTileAt (tWord 0x19 3 0x0 0x39 0x1 0x31 0 0x0) : State).fetchWord (↑(0 : TileIx)) ((tTileAt (tWord 0x19 3 0x0 0x39 0x1 0x31 0 0x0) : State).ctx ↑(0 : TileIx) ↑(0 : CtxIx)).pc.toNat), (((tTileAt (tWord 0x19 3 0x0 0x39 0x1 0x31 0 0x0) : State).ctx ↑(0 : TileIx) ↑(0 : CtxIx)).pred (twordOf ((tTileAt (tWord 0x19 3 0x0 0x39 0x1 0x31 0 0x0) : State).fetchWord (↑(0 : TileIx)) ((tTileAt (tWord 0x19 3 0x0 0x39 0x1 0x31 0 0x0) : State).ctx ↑(0 : TileIx) ↑(0 : CtxIx)).pc.toNat))).get (by decide +kernel), ((maskRun         ((((tTileAt (tWord 0x19 3 0x0 0x39 0x1 0x31 0 0x0) : State).ctx ↑(0 : TileIx) ↑(0 : CtxIx)).pred (twordOf ((tTileAt (tWord 0x19 3 0x0 0x39 0x1 0x31 0 0x0) : State).fetchWord (↑(0 : TileIx)) ((tTileAt (tWord 0x19 3 0x0 0x39 0x1 0x31 0 0x0) : State).ctx ↑(0 : TileIx) ↑(0 : CtxIx)).pc.toNat))).get           (by decide +kernel))).get     (by decide +kernel)).fst, ((maskRun         ((((tTileAt (tWord 0x19 3 0x0 0x39 0x1 0x31 0 0x0) : State).ctx ↑(0 : TileIx) ↑(0 : CtxIx)).pred (twordOf ((tTileAt (tWord 0x19 3 0x0 0x39 0x1 0x31 0 0x0) : State).fetchWord (↑(0 : TileIx)) ((tTileAt (tWord 0x19 3 0x0 0x39 0x1 0x31 0 0x0) : State).ctx ↑(0 : TileIx) ↑(0 : CtxIx)).pc.toNat))).get           (by decide +kernel))).get     (by decide +kernel)).snd, by decide +kernel⟩,
   ⟨tTileAt (tWord 0x19 3 0x0 0x39 0x21 0x0 0 0x0), 0, 0, twordOf ((tTileAt (tWord 0x19 3 0x0 0x39 0x21 0x0 0 0x0) : State).fetchWord (↑(0 : TileIx)) ((tTileAt (tWord 0x19 3 0x0 0x39 0x21 0x0 0 0x0) : State).ctx ↑(0 : TileIx) ↑(0 : CtxIx)).pc.toNat), by decide +kernel⟩,
   ⟨(tTileCoh (tWord 0x19 3 0x0 0x39 0x1 0x0 0 0x0)).setTlc 0 0x800 { state := 2, data := List.replicate 128 7 }, 0, 0, twordOf (((tTileCoh (tWord 0x19 3 0x0 0x39 0x1 0x0 0 0x0)).setTlc 0 0x800 { state := 2, data := List.replicate 128 7 } : State).fetchWord (↑(0 : TileIx)) (((tTileCoh (tWord 0x19 3 0x0 0x39 0x1 0x0 0 0x0)).setTlc 0 0x800 { state := 2, data := List.replicate 128 7 } : State).ctx ↑(0 : TileIx) ↑(0 : CtxIx)).pc.toNat), (((tTileCoh (tWord 0x19 3 0x0 0x39 0x1 0x0 0 0x0)).setTlc 0 0x800 { state := 2, data := List.replicate 128 7 } : State).cacheKey       (lineGfa         (((tTileCoh (tWord 0x19 3 0x0 0x39 0x1 0x0 0 0x0)).setTlc 0 0x800 { state := 2, data := List.replicate 128 7 } : State).remoteAt (↑(0 : TileIx)) (↑(0 : CtxIx)) (twordOf (((tTileCoh (tWord 0x19 3 0x0 0x39 0x1 0x0 0 0x0)).setTlc 0 0x800 { state := 2, data := List.replicate 128 7 } : State).fetchWord (↑(0 : TileIx)) (((tTileCoh (tWord 0x19 3 0x0 0x39 0x1 0x0 0 0x0)).setTlc 0 0x800 { state := 2, data := List.replicate 128 7 } : State).ctx ↑(0 : TileIx) ↑(0 : CtxIx)).pc.toNat)))         0)).get   (by decide +kernel), (((tTileCoh (tWord 0x19 3 0x0 0x39 0x1 0x0 0 0x0)).setTlc 0 0x800 { state := 2, data := List.replicate 128 7 } : State).tlcLine (↑(0 : TileIx) / 16)       ((((tTileCoh (tWord 0x19 3 0x0 0x39 0x1 0x0 0 0x0)).setTlc 0 0x800 { state := 2, data := List.replicate 128 7 } : State).cacheKey             (lineGfa               (((tTileCoh (tWord 0x19 3 0x0 0x39 0x1 0x0 0 0x0)).setTlc 0 0x800 { state := 2, data := List.replicate 128 7 } : State).remoteAt (↑(0 : TileIx)) (↑(0 : CtxIx)) (twordOf (((tTileCoh (tWord 0x19 3 0x0 0x39 0x1 0x0 0 0x0)).setTlc 0 0x800 { state := 2, data := List.replicate 128 7 } : State).fetchWord (↑(0 : TileIx)) (((tTileCoh (tWord 0x19 3 0x0 0x39 0x1 0x0 0 0x0)).setTlc 0 0x800 { state := 2, data := List.replicate 128 7 } : State).ctx ↑(0 : TileIx) ↑(0 : CtxIx)).pc.toNat)))               0)).get         (by decide +kernel))).get   (by decide +kernel), by decide +kernel⟩,
   ⟨tTileCoh (tWord 0x19 3 0x0 0x39 0x1 0x0 0 0x0), 0, 0, twordOf ((tTileCoh (tWord 0x19 3 0x0 0x39 0x1 0x0 0 0x0) : State).fetchWord (↑(0 : TileIx)) ((tTileCoh (tWord 0x19 3 0x0 0x39 0x1 0x0 0 0x0) : State).ctx ↑(0 : TileIx) ↑(0 : CtxIx)).pc.toNat), ((tTileCoh (tWord 0x19 3 0x0 0x39 0x1 0x0 0 0x0) : State).cacheKey       (lineGfa         ((tTileCoh (tWord 0x19 3 0x0 0x39 0x1 0x0 0 0x0) : State).remoteAt (↑(0 : TileIx)) (↑(0 : CtxIx)) (twordOf ((tTileCoh (tWord 0x19 3 0x0 0x39 0x1 0x0 0 0x0) : State).fetchWord (↑(0 : TileIx)) ((tTileCoh (tWord 0x19 3 0x0 0x39 0x1 0x0 0 0x0) : State).ctx ↑(0 : TileIx) ↑(0 : CtxIx)).pc.toNat)))         0)).get   (by decide +kernel), by decide +kernel⟩,
   ⟨tTileAt (tWord 0x1a 3 0x23 0x39 0x21 0x22 0 0x0), 0, 0, twordOf ((tTileAt (tWord 0x1a 3 0x23 0x39 0x21 0x22 0 0x0) : State).fetchWord (↑(0 : TileIx)) ((tTileAt (tWord 0x1a 3 0x23 0x39 0x21 0x22 0 0x0) : State).ctx ↑(0 : TileIx) ↑(0 : CtxIx)).pc.toNat), by decide +kernel⟩,
   ⟨tTileAt (tWord 0x20 3 0x23 0x39 0x21 0x0 0 0x1), 0, 0, twordOf ((tTileAt (tWord 0x20 3 0x23 0x39 0x21 0x0 0 0x1) : State).fetchWord (↑(0 : TileIx)) ((tTileAt (tWord 0x20 3 0x23 0x39 0x21 0x0 0 0x1) : State).ctx ↑(0 : TileIx) ↑(0 : CtxIx)).pc.toNat), by decide +kernel⟩,
   ⟨(let s := tTileAt (tWord 0x20 3 0x23 0x39 0x21 0x0 0 0x1); s.setCtx 0 0 { s.ctx 0 0 with fence := [(0, (0, 9))] }), 0, 0, twordOf ((let s := tTileAt (tWord 0x20 3 0x23 0x39 0x21 0x0 0 0x1); s.setCtx 0 0 { s.ctx 0 0 with fence := [(0, (0, 9))] } : State).fetchWord (↑(0 : TileIx)) ((let s := tTileAt (tWord 0x20 3 0x23 0x39 0x21 0x0 0 0x1); s.setCtx 0 0 { s.ctx 0 0 with fence := [(0, (0, 9))] } : State).ctx ↑(0 : TileIx) ↑(0 : CtxIx)).pc.toNat), by decide +kernel⟩,
   ⟨(let s := tTileAt (tWord 0x20 3 0x23 0x39 0x21 0x0 0 0x1); s.setCtx 0 0 { s.ctx 0 0 with fence := [(0, (1, 0))] }), 0, 0, twordOf ((let s := tTileAt (tWord 0x20 3 0x23 0x39 0x21 0x0 0 0x1); s.setCtx 0 0 { s.ctx 0 0 with fence := [(0, (1, 0))] } : State).fetchWord (↑(0 : TileIx)) ((let s := tTileAt (tWord 0x20 3 0x23 0x39 0x21 0x0 0 0x1); s.setCtx 0 0 { s.ctx 0 0 with fence := [(0, (1, 0))] } : State).ctx ↑(0 : TileIx) ↑(0 : CtxIx)).pc.toNat), by decide +kernel⟩,
   ⟨tTileAt (tWord 0x21 3 0x23 0x39 0x21 0x0 0 0x41), 0, 0, twordOf ((tTileAt (tWord 0x21 3 0x23 0x39 0x21 0x0 0 0x41) : State).fetchWord (↑(0 : TileIx)) ((tTileAt (tWord 0x21 3 0x23 0x39 0x21 0x0 0 0x41) : State).ctx ↑(0 : TileIx) ↑(0 : CtxIx)).pc.toNat), by decide +kernel⟩⟩

theorem wit_TileDescriptorsAndContexts_1 :
    (∃ (s : State) (i : TileIx) (p : Packet) (k : Nat), let free : Bool := decide ((s.tile i.val).queue.length < 64) && !s.tier.held.any fun h => h.door == 4 + i.val; s.tileOpen i.val p = true ∧ doorForm p = true ∧ free = true ∧ k ≠ i.val) ∧
    (∃ (s : State) (i : TileIx) (p : Packet), let free : Bool := decide ((s.tile i.val).queue.length < 64) && !s.tier.held.any fun h => h.door == 4 + i.val; s.tileOpen i.val p = true ∧ doorForm p = true ∧ free = false) ∧
    (∃ (s : State) (i : TileIx) (p : Packet), (s.tileOpen i.val p && doorForm p) = false) ∧
    (∃ (s : State) (i : TileIx) (d : List Word) (p : Packet) (rest : List (List Word × Packet)) (c : Nat) (l : Nat), let w0 : Nat := BitVec.toNat (d.getD 0 0); (s.tile i.val).queue = (d, p) :: rest ∧ s.freeCtx i.val = some c ∧ s.bit (rTileCtl i.val) 1 = false ∧ s.bit (rTileStat i.val) 40 = false ∧ (s.tile i.val).loading = false ∧ s.descFault i.val d = none ∧ nbits w0 63 60 = 0 ∧ nbits w0 20 16 ≤ (s.freeLanes i.val).length ∧ l ∈ List.take (nbits w0 20 16) (s.freeLanes i.val)) ∧
    (∃ (s : State) (i : TileIx) (d : List Word) (p : Packet) (rest : List (List Word × Packet)) (c : Nat), let w0 : Nat := BitVec.toNat (d.getD 0 0); (s.tile i.val).queue = (d, p) :: rest ∧ s.freeCtx i.val = some c ∧ s.bit (rTileCtl i.val) 1 = false ∧ s.bit (rTileStat i.val) 40 = false ∧ (s.tile i.val).loading = false ∧ s.descFault i.val d = none ∧ nbits w0 63 60 ≠ 0 ∧ ((List.all (s.tile i.val).ctxs fun e => e.snd.state == CtxState.free || e.snd.isBound) = true) ∧ s.slotsFor i.val c 1 = true ∧ BitVec.toNat (d.getD 3 0) % 4096 + BitVec.toNat (d.getD 4 0) ≤ 4096) ∧
    (∃ (s : State) (i : TileIx) (d : List Word) (p : Packet) (rest : List (List Word × Packet)) (c : Nat) (f : BitVec 8), (s.tile i.val).queue = (d, p) :: rest ∧ s.freeCtx i.val = some c ∧ s.bit (rTileCtl i.val) 1 = false ∧ s.bit (rTileStat i.val) 40 = false ∧ (s.tile i.val).loading = false ∧ s.descFault i.val d = some f) ∧
    (∃ (s : State) (i : TileIx), (s.tile i.val).queue = [] ∨   s.freeCtx i.val = none ∨ s.bit (rTileCtl i.val) 1 = true ∨ s.bit (rTileStat i.val) 40 = true ∨ (s.tile i.val).loading = true) ∧
    (∃ (s : State) (i : TileIx) (c : CtxIx), (s.ctx i.val c.val).state ≠ CtxState.drain ∨ (s.ctx i.val c.val).outstanding ≠ [] ∨ (s.ctx i.val c.val).recorded = true) ∧
    (∃ (s : State) (i : TileIx) (c : CtxIx), (s.ctx i.val c.val).state = CtxState.drain ∧ (s.ctx i.val c.val).outstanding = [] ∧ (s.ctx i.val c.val).recorded = false ∧ (s.ctx i.val c.val).desc ≠ [] ∧ s.slotsFor i.val c.val 1 = true) ∧
    (∃ (s : State) (i : TileIx) (c : CtxIx), (s.ctx i.val c.val).state = CtxState.drain ∧ (s.ctx i.val c.val).outstanding = [] ∧ (s.ctx i.val c.val).recorded = false ∧ (s.ctx i.val c.val).desc ≠ [] ∧ s.slotsFor i.val c.val 1 = false) ∧
    (∃ (s : State) (i : TileIx) (c : CtxIx), (s.ctx i.val c.val).state = CtxState.drain ∧ (s.ctx i.val c.val).outstanding = [] ∧ (s.ctx i.val c.val).recorded = false ∧ (s.ctx i.val c.val).desc = []) :=
  ⟨⟨tTileOn, 0, { opcode := 0x02, len := 64, agent := 0x900, payload := leBytes 8 5 ++ leBytes 8 6 }, 0x20000, by decide +kernel⟩,
   ⟨{ tTileOn with tier := { held := [{ door := 4, req := {} }] } }, 0, { opcode := 0x02, len := 64, agent := 0x900, payload := leBytes 8 5 ++ leBytes 8 6 }, by decide +kernel⟩,
   ⟨State.reset, 0, { agent := 0x800, tid := 5, gfa := 0x40000, payload := List.replicate 128 7 }, by decide +kernel⟩,
   ⟨tQueued 0x1010000, 0, [0x1010000, 0, 0, 7, 0, 0, 0, 9], {}, [], 0, 0, by decide +kernel⟩,
   ⟨{ State.reset with tiles := [(0, { queue := [([0x1000000001000000, 0, 0, 0x1000, 0x80, 0, 0, 9], {})] })] }, 0, ((({ State.reset with tiles := [(0, { queue := [([0x1000000001000000, 0, 0, 0x1000, 0x80, 0, 0, 9], {})] })] } : State).tile ↑(0 : TileIx)).queue.head (by decide +kernel)).fst, ((({ State.reset with tiles := [(0, { queue := [([0x1000000001000000, 0, 0, 0x1000, 0x80, 0, 0, 9], {})] })] } : State).tile ↑(0 : TileIx)).queue.head (by decide +kernel)).snd, (({ State.reset with tiles := [(0, { queue := [([0x1000000001000000, 0, 0, 0x1000, 0x80, 0, 0, 9], {})] })] } : State).tile ↑(0 : TileIx)).queue.tail, (({ State.reset with tiles := [(0, { queue := [([0x1000000001000000, 0, 0, 0x1000, 0x80, 0, 0, 9], {})] })] } : State).freeCtx ↑(0 : TileIx)).get (by decide +kernel), by decide +kernel⟩,
   ⟨tQueued 0, 0, (((tQueued 0 : State).tile ↑(0 : TileIx)).queue.head (by decide +kernel)).fst, (((tQueued 0 : State).tile ↑(0 : TileIx)).queue.head (by decide +kernel)).snd, ((tQueued 0 : State).tile ↑(0 : TileIx)).queue.tail, ((tQueued 0 : State).freeCtx ↑(0 : TileIx)).get (by decide +kernel), ((tQueued 0 : State).descFault (↑(0 : TileIx)) (((tQueued 0 : State).tile ↑(0 : TileIx)).queue.head (by decide +kernel)).fst).get (by decide +kernel), by decide +kernel⟩,
   ⟨State.reset, 0, by decide +kernel⟩,
   ⟨State.reset, 0, 0, by decide +kernel⟩,
   ⟨(tTileAt 0).setCtx 0 0 { state := .drain, desc := [0, 0x5000, 9] }, 0, 0, by decide +kernel⟩,
   ⟨({ State.reset with tiles := [(0, { ctxs := (0, { state := .drain, desc := [0, 0x5000, 9] }) :: (List.range 8).map (fun c => (c + 1, { state := .waitRemote, outstanding := List.replicate 64 {} })) })] }), 0, 0, by decide +kernel⟩,
   ⟨tCtx { state := .drain }, 0, 0, by decide +kernel⟩⟩

theorem wit_TileDescriptorsAndContexts_2 :
    (∃ (s : State) (i : TileIx) (c : CtxIx) (p : Packet) (o : Outstanding) (r : Nat), s.completesOnly i.val c.val o p = true ∧ o.cached = false ∧ o.use = RemoteUse.loadV r ∧ (s.ctx i.val c.val).state = CtxState.waitRemote) ∧
    (∃ (s : State) (i : TileIx) (c : CtxIx) (p : Packet) (o : Outstanding) (r : Nat) (d : Nat), s.completesOnly i.val c.val o p = true ∧ o.cached = false ∧ o.use = RemoteUse.atomic r d ∧ (s.ctx i.val c.val).state = CtxState.waitRemote) ∧
    (∃ (s : State) (i : TileIx) (c : CtxIx) (p : Packet) (o : Outstanding) (d : Nat) (m : BitVec 128) (v : BitVec 1024), s.completesOnly i.val c.val o p = true ∧ o.cached = false ∧ o.use = RemoteUse.store d m v ∧ (s.ctx i.val c.val).state ≠ CtxState.waitRemote ∧ (s.ctx i.val c.val).fencing = none) ∧
    (∃ (s : State) (i : TileIx) (c : CtxIx) (p : Packet) (o : Outstanding) (r : Nat), s.completesOnly i.val c.val o p = true ∧ o.cached = false ∧ o.use = RemoteUse.srel r ∧ (s.ctx i.val c.val).state = CtxState.waitStake) ∧
    (∃ (s : State) (i : TileIx) (c : CtxIx) (p : Packet) (o : Outstanding) (r : Nat) (scope : BitVec 2), s.completesOnly i.val c.val o p = true ∧ o.cached = false ∧ o.use = RemoteUse.sacq r scope ∧ (s.ctx i.val c.val).state = CtxState.waitStake) ∧
    (∃ (s : State) (i : TileIx) (c : CtxIx) (p : Packet) (o : Outstanding) (a : Nat), s.completesOnly i.val c.val o p = true ∧ o.cached = false ∧ o.use = RemoteUse.load a ∧ (s.ctx i.val c.val).state = CtxState.waitRemote ∧ (s.ctx i.val c.val).loadLen ≤ (s.ctx i.val c.val).loadNext ∧ Memory.wf (s.tile i.val).sram = true) ∧
    (∃ (s : State) (i : TileIx) (c : CtxIx) (p : Packet) (o : Outstanding), let ok : Bool := p.status == stOK; s.completesOnly i.val c.val o p = true ∧ o.cached = false ∧ o.use = RemoteUse.record ∧ ok = true ∧ (s.ctx i.val c.val).stakeEn = true ∧ (s.ctx i.val c.val).fault = 0 ∧ (s.ctx i.val c.val).endStatus s.ix = stOK) ∧
    (∃ (s : State) (i : TileIx) (c : CtxIx) (p : Packet) (o : Outstanding), let ok : Bool := p.status == stOK; s.completesOnly i.val c.val o p = true ∧ o.cached = false ∧ o.use = RemoteUse.record ∧ (ok = false ∨ (s.ctx i.val c.val).stakeEn = false ∨ (s.ctx i.val c.val).fault ≠ 0 ∨ (s.ctx i.val c.val).endStatus s.ix ≠ stOK)) ∧
    (∃ (s : State) (i : TileIx) (c : CtxIx) (p : Packet) (o : Outstanding), s.completesOnly i.val c.val o p = true ∧ o.cached = false ∧ o.use = RemoteUse.release) ∧
    (∃ (s : State) (i : TileIx) (c : CtxIx) (p : Packet) (o : Outstanding) (r : Nat), s.completesOnly i.val c.val o p = true ∧ o.cached = true ∧ o.sent = true ∧ o.use = RemoteUse.loadV r ∧ s.tlcFailed (i.val / 16) = false ∧ p.status = stOK ∧ (s.ctx i.val c.val).state = CtxState.waitRemote ∧ (tlcSet (kgetD s.tlc (i.val / 16) []) o.line).length < 16 ∧ s.tlcWaiting (i.val / 16) o.line = []) ∧
    (∃ (s : State) (p : Packet), ∀ (i : Nat), tileOfPkt p = some i → ∀ (o : Outstanding), o ∈ (s.ctx i (p.tid.toNat / 128)).outstanding → o.tid ≠ p.tid) :=
  ⟨⟨(tTileAt 0).setCtx 0 0 { state := .waitRemote, outstanding := [{ tid := 5, use := .loadV 3 }] }, 0, 0, { agent := 0x800, tid := 5, gfa := 0x40000, payload := List.replicate 128 7 }, (((tTileAt 0).setCtx 0 0 { state := .waitRemote, outstanding := [{ tid := 5, use := .loadV 3 }] } : State).ctx ↑(0 : TileIx) ↑(0 : CtxIx)).outstanding.head (by decide +kernel), 3, by decide +kernel⟩,
   ⟨tCtx { state := .waitRemote, outstanding := [{ tid := 5, use := .atomic 3 0 }] }, 0, 0, { agent := 0x800, tid := 5, gfa := 0x40000, payload := List.replicate 128 7 }, ((tCtx { state := .waitRemote, outstanding := [{ tid := 5, use := .atomic 3 0 }] } : State).ctx ↑(0 : TileIx) ↑(0 : CtxIx)).outstanding.head (by decide +kernel), 3, 0, by decide +kernel⟩,
   ⟨tCtx { state := .ready, outstanding := [{ tid := 5, use := .store 0 1 2 }] }, 0, 0, { agent := 0x800, tid := 5, gfa := 0x40000, payload := List.replicate 128 7 }, ((tCtx { state := .ready, outstanding := [{ tid := 5, use := .store 0 1 2 }] } : State).ctx ↑(0 : TileIx) ↑(0 : CtxIx)).outstanding.head (by decide +kernel), 0, 1, 2, by decide +kernel⟩,
   ⟨tCtx { state := .waitStake, outstanding := [{ tid := 5, use := .srel 3 }] }, 0, 0, { agent := 0x800, tid := 5, gfa := 0x40000, payload := List.replicate 128 7 }, ((tCtx { state := .waitStake, outstanding := [{ tid := 5, use := .srel 3 }] } : State).ctx ↑(0 : TileIx) ↑(0 : CtxIx)).outstanding.head (by decide +kernel), 3, by decide +kernel⟩,
   ⟨tCtx { state := .waitStake, outstanding := [{ tid := 5, use := .sacq 3 1 }] }, 0, 0, { agent := 0x800, tid := 5, gfa := 0x40000, payload := List.replicate 128 7 }, ((tCtx { state := .waitStake, outstanding := [{ tid := 5, use := .sacq 3 1 }] } : State).ctx ↑(0 : TileIx) ↑(0 : CtxIx)).outstanding.head (by decide +kernel), 3, 1, by decide +kernel⟩,
   ⟨tCtx { state := .waitRemote, isLoad := true, desc := [0x1000000001000000, 0, 0, 0x1000, 0x80], loadNext := 0x80, outstanding := [{ tid := 5, use := .load 0x20000 }] }, 0, 0, { agent := 0x800, tid := 5, gfa := 0x40000, payload := List.replicate 128 7 }, ((tCtx { state := .waitRemote, isLoad := true, desc := [0x1000000001000000, 0, 0, 0x1000, 0x80], loadNext := 0x80, outstanding := [{ tid := 5, use := .load 0x20000 }] } : State).ctx ↑(0 : TileIx) ↑(0 : CtxIx)).outstanding.head (by decide +kernel), 0x20000, by decide +kernel⟩,
   ⟨tCtx { state := .drain, recorded := true, desc := [BitVec.ofNat 64 (2 ^ 26)], outstanding := [{ tid := 5, use := .record }] }, 0, 0, { agent := 0x800, tid := 5, gfa := 0x40000, payload := List.replicate 128 7 }, ((tCtx { state := .drain, recorded := true, desc := [BitVec.ofNat 64 (2 ^ 26)], outstanding := [{ tid := 5, use := .record }] } : State).ctx ↑(0 : TileIx) ↑(0 : CtxIx)).outstanding.head (by decide +kernel), by decide +kernel⟩,
   ⟨tCtx { state := .drain, recorded := true, desc := [0], outstanding := [{ tid := 5, use := .record }] }, 0, 0, { agent := 0x800, tid := 5, gfa := 0x40000, payload := List.replicate 128 7 }, ((tCtx { state := .drain, recorded := true, desc := [0], outstanding := [{ tid := 5, use := .record }] } : State).ctx ↑(0 : TileIx) ↑(0 : CtxIx)).outstanding.head (by decide +kernel), by decide +kernel⟩,
   ⟨tCtx { state := .drain, recorded := true, desc := [0], outstanding := [{ tid := 5, use := .release }] }, 0, 0, { agent := 0x800, tid := 5, gfa := 0x40000, payload := List.replicate 128 7 }, ((tCtx { state := .drain, recorded := true, desc := [0], outstanding := [{ tid := 5, use := .release }] } : State).ctx ↑(0 : TileIx) ↑(0 : CtxIx)).outstanding.head (by decide +kernel), by decide +kernel⟩,
   ⟨tCtx { state := .waitRemote, outstanding := [{ tid := 5, use := .loadV 3, cached := true, sent := true, line := 0x800, gfa := 0x40000 }] }, 0, 0, { agent := 0x800, tid := 5, gfa := 0x40000, payload := List.replicate 128 7 }, ((tCtx { state := .waitRemote, outstanding := [{ tid := 5, use := .loadV 3, cached := true, sent := true, line := 0x800, gfa := 0x40000 }] } : State).ctx ↑(0 : TileIx) ↑(0 : CtxIx)).outstanding.head (by decide +kernel), 3, by decide +kernel⟩,
   ⟨State.reset, { agent := 0x800, tid := 5, gfa := 0x40000, payload := List.replicate 128 7 }, by decide +kernel⟩⟩

theorem wit_TileEvents :
    (∃ (s : State) (i : TileIx) (c : CtxIx) (n : Nat) (d : CtxIx), (s.tile i.val).running = some c.val ∧ (s.ctx i.val c.val).state = CtxState.running ∧ (s.ctx i.val c.val).bound = none ∧ (s.tile i.val).nextReady true (s.tile i.val).rrUrgent = some n ∧ d ≠ c ∧ d.val ≠ n) ∧
    (∃ (s : State) (i : TileIx) (c : CtxIx), let other : Bool := List.any (s.tile i.val).ctxs fun e => e.fst != c.val && e.snd.ready && e.snd.isBound == (s.ctx i.val c.val).isBound; (s.ctx i.val c.val).state = CtxState.running ∧ other = true) ∧
    (∃ (s : State) (i : TileIx) (c : CtxIx), let other : Bool := List.any (s.tile i.val).ctxs fun e => e.fst != c.val && e.snd.ready && e.snd.isBound == (s.ctx i.val c.val).isBound; (s.ctx i.val c.val).state ≠ CtxState.running ∨ other = false) ∧
    (∃ (s : State) (i : TileIx) (c : CtxIx), let due : Prop := s.fld (rTileWdog i.val) 31 0 ≠ 0 ∧   (s.ctx i.val c.val).bound = none ∧ (s.ctx i.val c.val).state ≠ CtxState.free ∧ (s.ctx i.val c.val).state ≠ CtxState.drain; due) ∧
    (∃ (s : State) (i : TileIx) (c : CtxIx), let due : Prop := s.fld (rTileWdog i.val) 31 0 ≠ 0 ∧   (s.ctx i.val c.val).bound = none ∧ (s.ctx i.val c.val).state ≠ CtxState.free ∧ (s.ctx i.val c.val).state ≠ CtxState.drain; ¬due) ∧
    (∃ (s : State) (i : TileIx) (m : BitVec 16) (c : Nat), s.cfgOpen (rTileCtl i.val) = true ∧ c < 16) ∧
    (∃ (s : State) (i : TileIx) (k : Nat), s.cfgOpen (rTileCtl i.val) = true ∧ (s.tile i.val).idle = true ∧ s.bit (rTileStat i.val) 40 = false ∧ k ≠ i.val) ∧
    (∃ (s : State) (i : TileIx), s.cfgOpen (rTileCtl i.val) = true ∧ ((s.tile i.val).idle = false ∨ s.bit (rTileStat i.val) 40 = true)) ∧
    (∃ (s : State) (i : TileIx) (v : Word), let k : Nat := nbits (BitVec.toNat v) 4 0; let g : Nat := nbits (BitVec.toNat v) 12 8; let legal : Bool := (s.tile i.val).idle && decide (1 ≤ k) && decide (g ≤ 16) && decide (k + g ≤ 31); s.cfgOpen (rTileSram i.val) = true ∧ legal = true) ∧
    (∃ (s : State) (i : TileIx) (v : Word), let k : Nat := nbits (BitVec.toNat v) 4 0; let g : Nat := nbits (BitVec.toNat v) 12 8; let legal : Bool := (s.tile i.val).idle && decide (1 ≤ k) && decide (g ≤ 16) && decide (k + g ≤ 31); s.cfgOpen (rTileSram i.val) = true ∧ legal = false) ∧
    (∃ (s : State) (n : BlockIx) (i : Nat) (c : Nat), i < 16 ∧ c ∈ (s.tile (16 * n.val + i)).throughCache) :=
  ⟨⟨(tTileAt 0).setCtx 0 1 { state := .ready, bound := some 0 }, 0, 0, ((((tTileAt 0).setCtx 0 1 { state := .ready, bound := some 0 } : State).tile ↑(0 : TileIx)).nextReady true (((tTileAt 0).setCtx 0 1 { state := .ready, bound := some 0 } : State).tile ↑(0 : TileIx)).rrUrgent).get (by decide +kernel), 2, by decide +kernel⟩,
   ⟨(tTileAt 0).setCtx 0 1 { state := .ready }, 0, 0, by decide +kernel⟩,
   ⟨State.reset, 0, 2, by decide +kernel⟩,
   ⟨(tTileAt 0).setCtx 0 1 { state := .ready, bound := some 0 }, 0, 0, by decide +kernel⟩,
   ⟨State.reset, 0, 2, by decide +kernel⟩,
   ⟨State.reset, 0, 1, 0, by decide +kernel⟩,
   ⟨State.reset, 0, 1, by decide +kernel⟩,
   ⟨(tTileAt 0).setCtx 0 1 { state := .ready, bound := some 0 }, 0, by decide +kernel⟩,
   ⟨State.reset, 0, 0x0402, by decide +kernel⟩,
   ⟨State.reset, 0, 0, by decide +kernel⟩,
   ⟨{ State.reset with tiles := [(0, { ctxs := [(0, { state := .waitRemote, outstanding := [{ cached := true }] })] })] }, 0, 0, (({ State.reset with tiles := [(0, { ctxs := [(0, { state := .waitRemote, outstanding := [{ cached := true }] })] })] } : State).tile (16 * ↑0 + 0)).throughCache.head (by decide +kernel), by decide +kernel⟩⟩

theorem wit_PlanCommands_1 :
    (∃ (s : State) (p : Packet), s.engineDoor (withOp 1 p) ≠ stOK) ∧
    (∃ (s : State) (p : Packet) (n : Nat), s.engineDoor (withOp 1 p) = stOK ∧ s.parcelOf p.job.toNat = some n ∧ (s.planRoom n = false ∨ s.doorWaits 2 p = true)) ∧
    (∃ (s : State) (p : Packet) (n : Nat), s.planOpen 1 n p = true ∧ s.coll.cmds = [] ∧ (planCmdOf 1 n p).bad = true) ∧
    (∃ (s : State) (p : Packet), s.engineDoor (withOp 2 p) ≠ stOK) ∧
    (∃ (s : State) (p : Packet) (n : Nat), s.engineDoor (withOp 2 p) = stOK ∧ s.parcelOf p.job.toNat = some n ∧ (s.planRoom n = false ∨ s.doorWaits 2 p = true)) ∧
    (∃ (s : State) (p : Packet) (n : Nat), s.planOpen 2 n p = true ∧ s.coll.cmds = [] ∧ (planCmdOf 2 n p).bad = true) ∧
    (∃ (s : State) (p : Packet), s.engineDoor (withOp 3 p) ≠ stOK) ∧
    (∃ (s : State) (p : Packet) (n : Nat), s.engineDoor (withOp 3 p) = stOK ∧ s.parcelOf p.job.toNat = some n ∧ (s.planRoom n = false ∨ s.doorWaits 2 p = true)) ∧
    (∃ (s : State) (p : Packet) (n : Nat), s.planOpen 3 n p = true ∧ s.coll.cmds = [] ∧ (planCmdOf 3 n p).bad = true) ∧
    (∃ (s : State) (p : Packet) (n : Nat) (r : Nat), let f : Nat → Nat → Nat := s.planBytes (planCmdOf 1 n p); let h : List Word := plHeader f; s.planReady 1 n p = true ∧ s.planRefusal (planCmdOf 1 n p) = none ∧ r < hdrDepth h) ∧
    (∃ (s : State) (p : Packet) (n : Nat) (d : Nat) (st : Status), s.planReady 1 n p = true ∧ s.planRefusal (planCmdOf 1 n p) = some (st, d)) :=
  ⟨⟨{ tPlanMem with tier := { held := [{ door := 2, req := {} }] } }, {}, by decide +kernel⟩,
   ⟨{ tPlanMem with tier := { held := [{ door := 2, req := {} }] } }, { opcode := 0x02, len := 64, agent := 0x900, payload := leBytes 64 0 }, (({ tPlanMem with tier := { held := [{ door := 2, req := {} }] } } : State).parcelOf ({ opcode := 0x02, len := 64, agent := 0x900, payload := leBytes 64 0 } : Packet).job.toNat).get (by decide +kernel), by decide +kernel⟩,
   ⟨tLive { tPlanOf 1 with stages := [{ tStage with sources := [{ stage := false, ref := 1, armed := some (2, false) }] }] }, { opcode := 0x02, len := 64, agent := 0x900, payload := leBytes 64 0 }, 0, by decide +kernel⟩,
   ⟨{ tPlanMem with tier := { held := [{ door := 2, req := {} }] } }, {}, by decide +kernel⟩,
   ⟨{ tPlanMem with tier := { held := [{ door := 2, req := {} }] } }, { opcode := 0x02, len := 64, agent := 0x900, payload := leBytes 64 0 }, (({ tPlanMem with tier := { held := [{ door := 2, req := {} }] } } : State).parcelOf ({ opcode := 0x02, len := 64, agent := 0x900, payload := leBytes 64 0 } : Packet).job.toNat).get (by decide +kernel), by decide +kernel⟩,
   ⟨tLive { tPlanOf 1 with stages := [{ tStage with sources := [{ stage := false, ref := 1, armed := some (2, false) }] }] }, { opcode := 0x02, len := 64, agent := 0x900, payload := leBytes 64 0 }, 0, by decide +kernel⟩,
   ⟨{ tPlanMem with tier := { held := [{ door := 2, req := {} }] } }, {}, by decide +kernel⟩,
   ⟨{ tPlanMem with tier := { held := [{ door := 2, req := {} }] } }, { opcode := 0x02, len := 64, agent := 0x900, payload := leBytes 64 0 }, (({ tPlanMem with tier := { held := [{ door := 2, req := {} }] } } : State).parcelOf ({ opcode := 0x02, len := 64, agent := 0x900, payload := leBytes 64 0 } : Packet).job.toNat).get (by decide +kernel), by decide +kernel⟩,
   ⟨tLive { tPlanOf 1 with stages := [{ tStage with sources := [{ stage := false, ref := 1, armed := some (2, false) }] }] }, { opcode := 0x02, len := 64, agent := 0x900, payload := leBytes 64 0 }, 0, by decide +kernel⟩,
   ⟨tPlanMem, tPlanDesc 0 0, 0, 0, by decide +kernel⟩,
   ⟨tLive { tPlanOf 1 with stages := [{ tStage with sources := [{ stage := false, ref := 1, armed := some (2, false) }] }] }, tPlanDesc 0 0, 0, (((tLive { tPlanOf 1 with stages := [{ tStage with sources := [{ stage := false, ref := 1, armed := some (2, false) }] }] } : State).planRefusal (planCmdOf 1 (0 : Nat) (tPlanDesc 0 0 : Packet))).get (by decide +kernel)).snd, (((tLive { tPlanOf 1 with stages := [{ tStage with sources := [{ stage := false, ref := 1, armed := some (2, false) }] }] } : State).planRefusal (planCmdOf 1 (0 : Nat) (tPlanDesc 0 0 : Packet))).get (by decide +kernel)).fst, by decide +kernel⟩⟩

theorem wit_PlanCommands_2 :
    (∃ (s : State) (p : Packet) (n : Nat) (q : Plan), let k : BitVec 16 := (planCmdOf 2 n p).plan; s.planReady 2 n p = true ∧ s.plan p.job k = some q) ∧
    (∃ (s : State) (p : Packet) (n : Nat) (q : Plan), let k : BitVec 16 := (planCmdOf 2 n p).plan; s.planReady 2 n p = true ∧ s.plan p.job k = none) ∧
    (∃ (s : State) (p : Packet) (n : Nat) (q : Plan) (g : Stage) (x : Source') (r : Nat), let c : PlanCmd := planCmdOf 3 n p; s.planReady 3 n p = true ∧ s.plan p.job c.plan = some q ∧ q.stage c.stage = some g ∧ g.sources[c.index]? = some x ∧ x.stage = false ∧ x.armed = none ∧ s.spareFor q = some r) ∧
    (∃ (s : State) (p : Packet) (n : Nat) (q : Plan) (g : Stage) (x : Source'), let c : PlanCmd := planCmdOf 3 n p; s.planReady 3 n p = true ∧ s.plan p.job c.plan = some q ∧ q.stage c.stage = some g ∧ g.sources[c.index]? = some x ∧ x.stage = false ∧ x.armed.isSome = true) ∧
    (∃ (s : State) (p : Packet) (n : Nat) (q : Plan) (g : Stage) (x : Source'), let c : PlanCmd := planCmdOf 3 n p; s.planReady 3 n p = true ∧ s.plan p.job c.plan = some q ∧ q.stage c.stage = some g ∧ g.sources[c.index]? = some x ∧ x.stage = false ∧ x.armed = none ∧ s.spareFor q = none) ∧
    (∃ (s : State) (p : Packet) (n : Nat), let c : PlanCmd := planCmdOf 3 n p; s.planReady 3 n p = true ∧ s.plan p.job c.plan = none) ∧
    (∃ (s : State) (p : Packet) (n : Nat) (q : Plan), let c : PlanCmd := planCmdOf 3 n p; s.planReady 3 n p = true ∧ s.plan p.job c.plan = some q ∧ (∀ (g : Stage) (x : Source'), q.stage c.stage = some g → g.sources[c.index]? = some x → x.stage = true)) ∧
    (∃ (s : State) (j : BitVec 16) (k : BitVec 16) (q : Plan) (m : Nat), s.plan j k = some q ∧ q.stopping = true ∧ s.planIdle q = true ∧ m ∈ q.slots) ∧
    (∃ (s : State) (j : BitVec 16) (k : BitVec 16) (q : Plan) (m : Nat), s.plan j k = some q ∧ q.stopping = true ∧ s.planIdle q = true ∧ ¬m ∈ q.slots) ∧
    (∃ (s : State) (j : BitVec 16) (k : BitVec 16) (q : Plan) (c : PlanCmd), s.plan j k = some q ∧ q.stopping = true ∧ s.planIdle q = true ∧ s.coll.cmds = [c] ∧ c.recording = false ∧ c.req.job = j ∧ c.plan = k ∧ c.op = 2) ∧
    (∃ (s : State) (j : BitVec 16) (k : BitVec 16), ∀ (q : Plan), s.plan j k = some q → q.stopping = false ∨ s.planIdle q = false) :=
  ⟨⟨tLive { tPlanOf 1 with stages := [{ tStage with sources := [{ stage := false, ref := 1, armed := some (2, false) }] }] }, tPlanDesc 7 0, 0, { tPlanOf 1 with stages := [{ tStage with sources := [{ stage := false, ref := 1, armed := some (2, false) }] }] }, by decide +kernel⟩,
   ⟨tLive { tPlanOf 1 with stages := [{ tStage with sources := [{ stage := false, ref := 1, armed := some (2, false) }] }] }, tPlanDesc 0 0, 0, { tPlanOf 1 with stages := [{ tStage with sources := [{ stage := false, ref := 1, armed := some (2, false) }] }] }, by decide +kernel⟩,
   ⟨{ tLive { tPlanOf 1 with spares := [0], stages := [{ tStage with sources := [{ stage := false, ref := 1 }] }] } with nonce := 0 }, tPlanDesc 7 0, 0, { tPlanOf 1 with spares := [0], stages := [{ tStage with sources := [{ stage := false, ref := 1 }] }] }, { tStage with sources := [{ stage := false, ref := 1 }] }, { stage := false, ref := 1 }, (({ tLive { tPlanOf 1 with spares := [0], stages := [{ tStage with sources := [{ stage := false, ref := 1 }] }] } with nonce := 0 } : State).spareFor ({ tPlanOf 1 with spares := [0], stages := [{ tStage with sources := [{ stage := false, ref := 1 }] }] } : Plan)).get (by decide +kernel), by decide +kernel⟩,
   ⟨tLive { tPlanOf 1 with stages := [{ tStage with sources := [{ stage := false, ref := 1, armed := some (2, false) }] }] }, tPlanDesc 7 0, 0, { tPlanOf 1 with stages := [{ tStage with sources := [{ stage := false, ref := 1, armed := some (2, false) }] }] }, { tStage with sources := [{ stage := false, ref := 1, armed := some (2, false) }] }, { stage := false, ref := 1, armed := some (2, false) }, by decide +kernel⟩,
   ⟨tLive (tPlanOf 1), tPlanDesc 7 0, 0, tPlanOf 1, tStage, { stage := false, ref := 0, len := 128 }, by decide +kernel⟩,
   ⟨tLive { tPlanOf 1 with stages := [{ tStage with sources := [{ stage := false, ref := 1, armed := some (2, false) }] }] }, tPlanDesc 0 0, 0, by decide +kernel⟩,
   ⟨tLive { tPlanOf 1 with stages := [{ tStage with sources := [{ stage := true, ref := 1 }] }] }, tPlanDesc 7 0, 0, { tPlanOf 1 with stages := [{ tStage with sources := [{ stage := true, ref := 1 }] }] }, by decide +kernel, by decide +kernel, fun g x hg hx => by
    obtain rfl := Option.some.inj ((show some _ = some g from hg))
    obtain rfl := Option.some.inj ((show some _ = some x from hx))
    rfl⟩,
   ⟨(let s := tLive { tPlanOf 1 with stopping := true }; { s with coll := { s.coll with cmds := [planCmdOf 2 0 (tPlanDesc 7 0)] } }), 0, 7, ((let s := tLive { tPlanOf 1 with stopping := true }; { s with coll := { s.coll with cmds := [planCmdOf 2 0 (tPlanDesc 7 0)] } } : State).plan (0 : BitVec 16) (7 : BitVec 16)).get (by decide +kernel), (((let s := tLive { tPlanOf 1 with stopping := true }; { s with coll := { s.coll with cmds := [planCmdOf 2 0 (tPlanDesc 7 0)] } } : State).plan (0 : BitVec 16) (7 : BitVec 16)).get (by decide +kernel)).slots.head (by decide +kernel), by decide +kernel⟩,
   ⟨(let s := tLive { tPlanOf 1 with stopping := true }; { s with coll := { s.coll with cmds := [planCmdOf 2 0 (tPlanDesc 7 0)] } }), 0, 7, ((let s := tLive { tPlanOf 1 with stopping := true }; { s with coll := { s.coll with cmds := [planCmdOf 2 0 (tPlanDesc 7 0)] } } : State).plan (0 : BitVec 16) (7 : BitVec 16)).get (by decide +kernel), 1, by decide +kernel⟩,
   ⟨(let s := tLive { tPlanOf 1 with stopping := true }; { s with coll := { s.coll with cmds := [planCmdOf 2 0 (tPlanDesc 7 0)] } }), 0, 7, ((let s := tLive { tPlanOf 1 with stopping := true }; { s with coll := { s.coll with cmds := [planCmdOf 2 0 (tPlanDesc 7 0)] } } : State).plan (0 : BitVec 16) (7 : BitVec 16)).get (by decide +kernel), (let s := tLive { tPlanOf 1 with stopping := true }; { s with coll := { s.coll with cmds := [planCmdOf 2 0 (tPlanDesc 7 0)] } } : State).coll.cmds.head (by decide +kernel), by decide +kernel⟩,
   ⟨{ tPlanMem with tier := { held := [{ door := 2, req := {} }] } }, 0, 0, by decide +kernel⟩⟩

theorem wit_Contributions_1 :
    (∃ (s : State) (p : Packet), 12 ≤ p.status.toNat) ∧
    (∃ (s : State) (p : Packet), p.status.toNat < 12 ∧ (s.plan p.job p.flow = none ∨   ∃ q,     s.plan p.job p.flow = some q ∧       colResult p = false ∧         ∀ (g : Stage) (a : Nat), s.colHeard p q g a = true → g.fits q p = true ∧ colPresent q g a p = true)) ∧
    (∃ (s : State) (p : Packet) (q : Plan) (g : Stage) (a : Nat), s.colHeard p q g a = true ∧ g.fits q p = false) ∧
    (∃ (s : State) (p : Packet) (q : Plan) (g : Stage) (a : Nat), let x : Segment := s.merged p q g a; s.colTaken p q g a = true ∧ reduces q.kind = true ∧ x.present.length ≠ g.n) ∧
    (∃ (s : State) (p : Packet) (q : Plan) (g : Stage) (a : Nat), let x : Segment := s.merged p q g a; s.colTaken p q g a = true ∧ reduces q.kind = true ∧ x.present.length = g.n ∧ g.next ≠ g.number) ∧
    (∃ (s : State) (p : Packet) (q : Plan) (g : Stage) (a : Nat) (m : Nat), let x : Segment := s.merged p q g a; let len : Nat := if (x.worst == stOK) = true then (x.value q.header true).length else q.segBytes g (colOff p); s.colTaken p q g a = true ∧ reduces q.kind = true ∧ x.present.length = g.n ∧ g.next = g.number ∧ q.kind = 1 ∧ s.awaits q a (hdrResult q.header (colOff p)) = true ∧ 0 < len ∧ m ≠ q.slotOf a) ∧
    (∃ (s : State) (p : Packet) (q : Plan) (g : Stage) (a : Nat), let st : Status := (s.colLand q g p).snd; let x : Segment := g.segment a 0; let nd : Node := { status := st, data := if (st == stOK) = true then p.payload else errorBytes p.payload.length }; let y : Segment := { step := x.step, off := x.off, present := x.present ++ [(colIndex p, colOff p)],   nodes := x.nodes ++ [((colIndex p, colOff p), nd)], sums := x.sums, worst := worse x.worst st }; s.colTaken p q g a = true ∧ q.kind = 5 ∧ allPieces q g y = false) ∧
    (∃ (s : State) (p : Packet) (q : Plan) (g : Stage) (a : Nat) (b : Nat × Nat × Nat), let st : Status := (s.colLand q g p).snd; let x : Segment := g.segment a 0; let nd : Node := { status := st, data := if (st == stOK) = true then p.payload else errorBytes p.payload.length }; let y : Segment := { step := x.step, off := x.off, present := x.present ++ [(colIndex p, colOff p)],   nodes := x.nodes ++ [((colIndex p, colOff p), nd)], sums := x.sums, worst := worse x.worst st }; s.colTaken p q g a = true ∧ q.kind = 6 ∧ g.bindOf q p = some b ∧ allPieces q g y = false) ∧
    (∃ (s : State) (p : Packet) (q : Plan), s.plan p.job p.flow = some q ∧ colResult p = true ∧ p.status.toNat < 12 ∧ s.resultOk q p = false) :=
  ⟨⟨tRootAt (tRoot 1), { tCol 0 with status := 15 }, by decide +kernel⟩,
   ⟨tRootAt (tRoot 1), {}, by decide +kernel, Or.inl (by decide +kernel)⟩,
   ⟨tRootAt (tRoot 1), { tCol 0 with len := 64, payload := leBytes 64 1 }, tRoot 1, (tRoot 1).stages.headD tStage, 0, by decide +kernel⟩,
   ⟨tLive (tPlanOf 1), tCol 0, tPlanOf 1, tStage, 0, by decide +kernel⟩,
   ⟨tLive { tPlanOf 1 with stages := [{ tStage with segments := [{ step := 0, off := 0, present := [(1, 0)], nodes := [((1, 1), { status := 0, data := leBytes 128 0x40000000 })] }] }] }, tCol 0, { tPlanOf 1 with stages := [{ tStage with segments := [{ step := 0, off := 0, present := [(1, 0)], nodes := [((1, 1), { status := 0, data := leBytes 128 0x40000000 })] }] }] }, { tStage with segments := [{ step := 0, off := 0, present := [(1, 0)], nodes := [((1, 1), { status := 0, data := leBytes 128 0x40000000 })] }] }, 0, by decide +kernel⟩,
   ⟨tRootAt (tRoot 1), tCol 0, tRoot 1, (tRoot 1).stages.headD tStage, 0, 1, by decide +kernel⟩,
   ⟨tRootAt { tRoot 5 with stages := [{ (tRoot 5).stages.headD tStage with segments := [] }] }, tCol 0, { tRoot 5 with stages := [{ (tRoot 5).stages.headD tStage with segments := [] }] }, { (tRoot 5).stages.headD tStage with segments := [] }, 0, by decide +kernel⟩,
   ⟨tRootAt { tRoot 6 with stages := [{ (tRoot 6).stages.headD tStage with segments := [] }] }, tCol 0, { tRoot 6 with stages := [{ (tRoot 6).stages.headD tStage with segments := [] }] }, { (tRoot 5).stages.headD tStage with segments := [] }, 0, (({ (tRoot 5).stages.headD tStage with segments := [] } : Stage).bindOf ({ tRoot 6 with stages := [{ (tRoot 6).stages.headD tStage with segments := [] }] } : Plan) (tCol 0 : Packet)).get (by decide +kernel), by decide +kernel⟩,
   ⟨tRootAt (tRoot 1), { tCol 0 with seqx := some (mkSeqx 0 0 0 0 true) }, ((tRootAt (tRoot 1) : State).plan ({ tCol 0 with seqx := some (mkSeqx 0 0 0 0 true) } : Packet).job ({ tCol 0 with seqx := some (mkSeqx 0 0 0 0 true) } : Packet).flow).get (by decide +kernel), by decide +kernel⟩⟩

theorem wit_Contributions_2 :
    (∃ (s : State) (p : Packet) (q : Plan) (l : Nat), let step : Nat := s.ringStep q + s.resultAhead q p; s.plan p.job p.flow = some q ∧ colResult p = true ∧ p.status.toNat < 12 ∧ s.resultOk q p = true ∧ s.awaits q step (colOff p) = true ∧ l ∈ linesOf (colOff p) p.payload.length) ∧
    (∃ (s : State) (p : Packet) (q : Plan) (m : Nat), let step : Nat := s.ringStep q + s.resultAhead q p; s.plan p.job p.flow = some q ∧ colResult p = true ∧ p.status.toNat < 12 ∧ s.resultOk q p = true ∧ s.awaits q step (colOff p) = true ∧ m ≠ q.slotOf step) ∧
    (∃ (s : State) (j : BitVec 16) (k : BitVec 16) (f : BitVec 16) (i : Fin 64), ∀ (q : Plan) (g : Stage) (a : Nat),   s.plan j k = some q → q.stage i.val = some g → g.stepOf f.toNat = some a → kget g.began a = none) ∧
    (∃ (s : State) (j : BitVec 16) (k : BitVec 16) (f : BitVec 16) (i : Fin 64) (q : Plan) (g : Stage) (a : Nat), s.plan j k = some q ∧ q.stage i.val = some g ∧ g.stepOf f.toNat = some a ∧ (kget g.began a).isSome = true ∧ reduces q.kind = true ∧ pieceOffs q.seg q.len = [0] ∧ g.emitted.contains (a, 0) = false ∧ g.next ≠ g.number) ∧
    (∃ (s : State) (j : BitVec 16) (k : BitVec 16) (q : Plan) (g : Stage) (i : Nat), s.gatherMay j k q g stOK = true ∧ 0 < hdr q.header 7 63 48 ∧ (List.range (hdr q.header 7 63 48)).all (s.gatherFits q g) = true ∧ i < hdr q.header 7 63 48) ∧
    (∃ (s : State) (j : BitVec 16) (k : BitVec 16) (q : Plan) (g : Stage) (st : Status) (l : Nat), s.gatherMay j k q g st = true ∧ st ≠ stOK ∧ s.awaits q g.current 0 = true ∧ (s.rslot (q.slotOf g.current)).segs = [] ∧ (s.rslot (q.slotOf g.current)).status = [] ∧ 0 < hdrSlotLines q.header ∧ l < hdrSlotLines q.header) ∧
    (∃ (s : State) (j : BitVec 16) (k : BitVec 16) (q : Plan) (g : Stage) (st : Status) (m : Nat), s.gatherMay j k q g st = true ∧ st ≠ stOK ∧ s.awaits q g.current 0 = true ∧ (s.rslot (q.slotOf g.current)).segs = [] ∧ (s.rslot (q.slotOf g.current)).status = [] ∧ 0 < hdrSlotLines q.header ∧ m ≠ q.slotOf g.current) ∧
    (∃ (s : State) (j : BitVec 16) (k : BitVec 16) (late : Bool), ∀ (q : Plan) (g : Stage) (st : Status), s.gatherMay j k q g st = true → (st = stOK ↔ late = true)) :=
  ⟨⟨tRootAt (tRoot 1), { tCol 0 with src := 1, agent := agPlan, seqx := some (mkSeqx 0 1 0 0 true) }, ((tRootAt (tRoot 1) : State).plan ({ tCol 0 with src := 1, agent := agPlan, seqx := some (mkSeqx 0 1 0 0 true) } : Packet).job ({ tCol 0 with src := 1, agent := agPlan, seqx := some (mkSeqx 0 1 0 0 true) } : Packet).flow).get (by decide +kernel), (linesOf (colOff ({ tCol 0 with src := 1, agent := agPlan, seqx := some (mkSeqx 0 1 0 0 true) } : Packet)) ({ tCol 0 with src := 1, agent := agPlan, seqx := some (mkSeqx 0 1 0 0 true) } : Packet).payload.length).head (by decide +kernel), by decide +kernel⟩,
   ⟨tRootAt (tRoot 1), { tCol 0 with src := 1, agent := agPlan, seqx := some (mkSeqx 0 1 0 0 true) }, ((tRootAt (tRoot 1) : State).plan ({ tCol 0 with src := 1, agent := agPlan, seqx := some (mkSeqx 0 1 0 0 true) } : Packet).job ({ tCol 0 with src := 1, agent := agPlan, seqx := some (mkSeqx 0 1 0 0 true) } : Packet).flow).get (by decide +kernel), 1, by decide +kernel⟩,
   ⟨tRootAt (tRoot 1), 0, 0, 0, 0, fun _ _ _ h => absurd (h.symm.trans (show State.plan (tRootAt (tRoot 1)) 0 0 = none by decide +kernel)) nofun⟩,
   ⟨tLive { tPlanOf 1 with stages := [{ tStage with began := [(0, 5)] }] }, 0, 7, 0, 0, ((tLive { tPlanOf 1 with stages := [{ tStage with began := [(0, 5)] }] } : State).plan (0 : BitVec 16) (7 : BitVec 16)).get (by decide +kernel), ((((tLive { tPlanOf 1 with stages := [{ tStage with began := [(0, 5)] }] } : State).plan (0 : BitVec 16) (7 : BitVec 16)).get (by decide +kernel)).stage ↑(0 : Fin 64)).get (by decide +kernel), ((((((tLive { tPlanOf 1 with stages := [{ tStage with began := [(0, 5)] }] } : State).plan (0 : BitVec 16) (7 : BitVec 16)).get (by decide +kernel)).stage ↑(0 : Fin 64)).get (by decide +kernel)).stepOf (0 : BitVec 16).toNat).get (by decide +kernel), by decide +kernel⟩,
   ⟨(tLive (tPlanOf 4)).stakeRelease 0 1 0 { tiolo := 0, agent := 0 }, 0, 7, tPlanOf 4, tStage, 0, by decide +kernel⟩,
   ⟨(tRootAt (tRoot 4)).setCtx 0 0 { input := some stPoison }, 0, 7, tRoot 4, (tRoot 1).stages.headD tStage, stPoison, 0, by decide +kernel⟩,
   ⟨(tRootAt (tRoot 4)).setCtx 0 0 { input := some stPoison }, 0, 7, tRoot 4, (tRoot 1).stages.headD tStage, stPoison, 1, by decide +kernel⟩,
   ⟨tRootAt (tRoot 1), 0, 0, false, fun q g st h => by rw [State.gatherMay, show State.plan (tRootAt (tRoot 1)) 0 0 = none by decide +kernel] at h; exact Bool.noConfusion (show false = true from h)⟩⟩

theorem wit_ResultSlots_1 :
    (∃ (s : State) (i : Fin 4096) (k : Nat), (s.rslot i.val).state = SlotState.armed ∧ (s.rslot i.val).filled = true ∧ s.slotSettled i.val = true ∧ s.twinOp 1 (s.slotOpref (s.rslot i.val)) (some (s.rslot i.val).job) = none ∧ (s.stake (s.rslot i.val).stake).lost = false ∧ k ≠ i.val) ∧
    (∃ (s : State) (i : Fin 4096) (k : Nat), (s.rslot i.val).state = SlotState.armed ∧ (s.rslot i.val).filled = true ∧ s.slotSettled i.val = true ∧ s.twinOp 1 (s.slotOpref (s.rslot i.val)) (some (s.rslot i.val).job) = none ∧ (s.stake (s.rslot i.val).stake).lost = false ∧ k ≠ (s.rslot i.val).stake) ∧
    (∃ (s : State) (i : Fin 4096), (s.rslot i.val).state ≠ SlotState.armed ∨ (s.rslot i.val).filled = false ∨ s.slotSettled i.val = false) ∧
    (∃ (s : State) (p : Packet), ∀ (sl o : Nat), slotPlace p ≠ some (0, sl, o)) ∧
    (∃ (s : State) (p : Packet) (sl : Nat) (o : Nat), slotPlace p = some (0, sl, o) ∧ s.slotCheck sl o p ≠ stOK) ∧
    (∃ (s : State) (p : Packet) (sl : Nat) (o : Nat), slotPlace p = some (0, sl, o) ∧ (s.rslot sl).state = SlotState.lost ∧ s.binds (s.rslot sl).parcel p.job.toNat = true) ∧
    (∃ (s : State) (p : Packet), ∀ (sl o : Nat), slotPlace p ≠ some (1, sl, o)) ∧
    (∃ (s : State) (p : Packet) (sl : Nat) (o : Nat), slotPlace p = some (1, sl, o) ∧ s.slotCheck sl o p ≠ stOK) ∧
    (∃ (s : State) (p : Packet) (sl : Nat) (o : Nat), slotPlace p = some (1, sl, o) ∧ (s.rslot sl).state = SlotState.lost ∧ s.binds (s.rslot sl).parcel p.job.toNat = true) ∧
    (∃ (s : State) (p : Packet), ∀ (sl o : Nat), slotPlace p ≠ some (2, sl, o)) :=
  ⟨⟨tSlot (tSlotOf .armed), 0, 1, by decide +kernel⟩,
   ⟨tSlot (tSlotOf .armed), 0, 1, by decide +kernel⟩,
   ⟨State.reset, 0, by decide +kernel⟩,
   ⟨State.reset, tSlotRead 1, fun sl o h => by rw [show slotPlace (tSlotRead 1) = some (1, 0, 0) by decide +kernel] at h; simp at h⟩,
   ⟨State.reset, tSlotRead 0, ((slotPlace (tSlotRead 0 : Packet)).get (by decide +kernel)).snd.fst, ((slotPlace (tSlotRead 0 : Packet)).get (by decide +kernel)).snd.snd, by decide +kernel⟩,
   ⟨tSlot (tSlotOf .lost), tSlotRead 0, ((slotPlace (tSlotRead 0 : Packet)).get (by decide +kernel)).snd.fst, ((slotPlace (tSlotRead 0 : Packet)).get (by decide +kernel)).snd.snd, by decide +kernel⟩,
   ⟨State.reset, tSlotRead 0, fun sl o h => by rw [show slotPlace (tSlotRead 0) = some (0, 0, 0) by decide +kernel] at h; simp at h⟩,
   ⟨State.reset, tSlotRead 1, ((slotPlace (tSlotRead 1 : Packet)).get (by decide +kernel)).snd.fst, ((slotPlace (tSlotRead 1 : Packet)).get (by decide +kernel)).snd.snd, by decide +kernel⟩,
   ⟨tSlot (tSlotOf .lost), tSlotRead 1, ((slotPlace (tSlotRead 1 : Packet)).get (by decide +kernel)).snd.fst, ((slotPlace (tSlotRead 1 : Packet)).get (by decide +kernel)).snd.snd, by decide +kernel⟩,
   ⟨State.reset, tSlotRead 0, fun sl o h => by rw [show slotPlace (tSlotRead 0) = some (0, 0, 0) by decide +kernel] at h; simp at h⟩⟩

theorem wit_ResultSlots_2 :
    (∃ (s : State) (p : Packet) (sl : Nat) (o : Nat), slotPlace p = some (2, sl, o) ∧ s.slotCheck sl o p ≠ stOK) ∧
    (∃ (s : State) (p : Packet) (sl : Nat) (o : Nat), slotPlace p = some (2, sl, o) ∧ (s.rslot sl).state = SlotState.lost ∧ s.binds (s.rslot sl).parcel p.job.toNat = true) ∧
    (∃ (s : State) (p : Packet) (sl : Nat) (o : Nat), slotPlace p = some (0, sl, o) ∧ s.slotCheck sl o p = stOK ∧ (s.rslot sl).state = SlotState.ready) ∧
    (∃ (s : State) (p : Packet) (sl : Nat) (o : Nat), slotPlace p = some (0, sl, o) ∧ s.slotCheck sl o p = stOK ∧ (s.rslot sl).state = SlotState.armed) ∧
    (∃ (s : State) (k : Nat) (p : Packet) (sl : Nat) (o : Nat), s.coll.waits[k]? = some p ∧ slotPlace p = some (1, sl, o) ∧ s.slotCheck sl o p = stOK ∧ (s.rslot sl).state = SlotState.ready) ∧
    (∃ (s : State) (k : Nat) (p : Packet) (sl : Nat) (o : Nat), s.coll.waits[k]? = some p ∧ slotPlace p = some (1, sl, o) ∧ s.slotCheck sl o p = stOK ∧ (s.rslot sl).state = SlotState.armed) ∧
    (∃ (s : State) (p : Packet) (sl : Nat) (o : Nat), slotPlace p = some (2, sl, o) ∧ s.slotCheck sl o p = stOK ∧ (s.rslot sl).state = SlotState.armed) ∧
    (∃ (s : State) (p : Packet) (sl : Nat) (o : Nat) (k : Nat), slotPlace p = some (2, sl, o) ∧ s.slotCheck sl o p = stOK ∧ (s.rslot sl).state = SlotState.ready ∧ k ≠ sl) ∧
    (∃ (s : State) (i : Fin 4096), (s.rslot i.val).state ≠ SlotState.armed) ∧
    (∃ (s : State) (i : Fin 4096) (h : HeldResult), (s.rslot i.val).state = SlotState.armed ∧ s.coll.held = [h] ∧ h.slot = i.val ∧ h.fill = (s.rslot i.val).fill ∧ h.data.length = 128 ∧ h.off % 128 = 0 ∧ s.twinOp 1 (s.slotOpref (s.rslot i.val)) (some (s.rslot i.val).job) = none) :=
  ⟨⟨State.reset, tSlotRead 2, ((slotPlace (tSlotRead 2 : Packet)).get (by decide +kernel)).snd.fst, ((slotPlace (tSlotRead 2 : Packet)).get (by decide +kernel)).snd.snd, by decide +kernel⟩,
   ⟨tSlot (tSlotOf .lost), tSlotRead 2, ((slotPlace (tSlotRead 2 : Packet)).get (by decide +kernel)).snd.fst, ((slotPlace (tSlotRead 2 : Packet)).get (by decide +kernel)).snd.snd, by decide +kernel⟩,
   ⟨tSlot (tSlotOf .ready), tSlotRead 0, ((slotPlace (tSlotRead 0 : Packet)).get (by decide +kernel)).snd.fst, ((slotPlace (tSlotRead 0 : Packet)).get (by decide +kernel)).snd.snd, by decide +kernel⟩,
   ⟨tSlot (tSlotOf .armed), tSlotRead 0, ((slotPlace (tSlotRead 0 : Packet)).get (by decide +kernel)).snd.fst, ((slotPlace (tSlotRead 0 : Packet)).get (by decide +kernel)).snd.snd, by decide +kernel⟩,
   ⟨(tSlot (tSlotOf .ready)).setWaits [tSlotRead 1], 0, ((tSlot (tSlotOf .ready)).setWaits [tSlotRead 1] : State).coll.waits[(0 : Nat)]?.get (by decide +kernel), ((slotPlace (((tSlot (tSlotOf .ready)).setWaits [tSlotRead 1] : State).coll.waits[(0 : Nat)]?.get (by decide +kernel))).get (by decide +kernel)).snd.fst, ((slotPlace (((tSlot (tSlotOf .ready)).setWaits [tSlotRead 1] : State).coll.waits[(0 : Nat)]?.get (by decide +kernel))).get (by decide +kernel)).snd.snd, by decide +kernel⟩,
   ⟨(tSlot (tSlotOf .armed)).setWaits [tSlotRead 1], 0, ((tSlot (tSlotOf .armed)).setWaits [tSlotRead 1] : State).coll.waits[(0 : Nat)]?.get (by decide +kernel), ((slotPlace (((tSlot (tSlotOf .armed)).setWaits [tSlotRead 1] : State).coll.waits[(0 : Nat)]?.get (by decide +kernel))).get (by decide +kernel)).snd.fst, ((slotPlace (((tSlot (tSlotOf .armed)).setWaits [tSlotRead 1] : State).coll.waits[(0 : Nat)]?.get (by decide +kernel))).get (by decide +kernel)).snd.snd, by decide +kernel⟩,
   ⟨tSlot (tSlotOf .armed), tSlotRead 2, ((slotPlace (tSlotRead 2 : Packet)).get (by decide +kernel)).snd.fst, ((slotPlace (tSlotRead 2 : Packet)).get (by decide +kernel)).snd.snd, by decide +kernel⟩,
   ⟨tSlot (tSlotOf .ready), tSlotRead 2, ((slotPlace (tSlotRead 2 : Packet)).get (by decide +kernel)).snd.fst, ((slotPlace (tSlotRead 2 : Packet)).get (by decide +kernel)).snd.snd, 1, by decide +kernel⟩,
   ⟨State.reset, 0, by decide +kernel⟩,
   ⟨{ tSlot { tSlotOf .armed with segs := [] } with coll := { (tSlot { tSlotOf .armed with segs := [] }).coll with held := [{ slot := 0, stage := 0, fill := 1, off := 0, status := 0, data := leBytes 128 3 }] } }, 0, ({ tSlot { tSlotOf .armed with segs := [] } with coll := { (tSlot { tSlotOf .armed with segs := [] }).coll with held := [{ slot := 0, stage := 0, fill := 1, off := 0, status := 0, data := leBytes 128 3 }] } } : State).coll.held.head (by decide +kernel), by decide +kernel⟩⟩

theorem wit_PnmCommands_1 :
    (∃ (s : State) (p : Packet), s.engineDoor (withOp 1 p) ≠ stOK) ∧
    (∃ (s : State) (p : Packet) (n : Nat), s.engineDoor (withOp 1 p) = stOK ∧ s.parcelOf p.job.toNat = some n ∧ (s.doorWaits 3 p = true ∨ s.pnmRoom (withOp 1 p) = false)) ∧
    (∃ (s : State) (p : Packet) (n : Nat) (m : Nat) (k : Nat), s.pnmOpen 1 n p = true ∧ s.pnmModule (descOf (withOp 1 p)) = some m ∧ (s.pnmQ m).queue.length < 64 ∧ k ≠ m) ∧
    (∃ (s : State) (p : Packet) (n : Nat) (k : Nat), s.pnmOpen 1 n p = true ∧ s.pnmModule (descOf (withOp 1 p)) = none ∧ k ≠ 64) ∧
    (∃ (s : State) (p : Packet), s.engineDoor (withOp 2 p) ≠ stOK) ∧
    (∃ (s : State) (p : Packet) (n : Nat), s.engineDoor (withOp 2 p) = stOK ∧ s.parcelOf p.job.toNat = some n ∧ (s.doorWaits 3 p = true ∨ s.pnmRoom (withOp 2 p) = false)) ∧
    (∃ (s : State) (p : Packet) (n : Nat) (m : Nat) (k : Nat), s.pnmOpen 2 n p = true ∧ s.pnmModule (descOf (withOp 2 p)) = some m ∧ (s.pnmQ m).queue.length < 64 ∧ k ≠ m) ∧
    (∃ (s : State) (p : Packet) (n : Nat) (k : Nat), s.pnmOpen 2 n p = true ∧ s.pnmModule (descOf (withOp 2 p)) = none ∧ k ≠ 64) ∧
    (∃ (s : State) (p : Packet), s.engineDoor (withOp 3 p) ≠ stOK) :=
  ⟨⟨tPnmWith { queue := [tPnmAct] }, { payload := leBytes 8 4 }, by decide +kernel⟩,
   ⟨{ tModule with tier := { held := [{ door := 3, req := {} }] } }, tPnmDoor, (({ tModule with tier := { held := [{ door := 3, req := {} }] } } : State).parcelOf (tPnmDoor : Packet).job.toNat).get (by decide +kernel), by decide +kernel⟩,
   ⟨tPnmWith { queue := [tPnmAct] }, tPnmDoor, 0, ((tPnmWith { queue := [tPnmAct] } : State).pnmModule (descOf (withOp 1 (tPnmDoor : Packet)))).get (by decide +kernel), 1, by decide +kernel⟩,
   ⟨tEth, tPnmDoor, 0, 0, by decide +kernel⟩,
   ⟨tPnmWith { queue := [tPnmAct] }, { payload := leBytes 8 4 }, by decide +kernel⟩,
   ⟨{ tModule with tier := { held := [{ door := 3, req := {} }] } }, tPnmDoor, (({ tModule with tier := { held := [{ door := 3, req := {} }] } } : State).parcelOf (tPnmDoor : Packet).job.toNat).get (by decide +kernel), by decide +kernel⟩,
   ⟨tPnmWith { queue := [tPnmAct] }, tPnmDoor, 0, ((tPnmWith { queue := [tPnmAct] } : State).pnmModule (descOf (withOp 2 (tPnmDoor : Packet)))).get (by decide +kernel), 1, by decide +kernel⟩,
   ⟨tEth, tPnmDoor, 0, 0, by decide +kernel⟩,
   ⟨tPnmWith { queue := [tPnmAct] }, { payload := leBytes 8 4 }, by decide +kernel⟩⟩

theorem wit_PnmCommands_2 :
    (∃ (s : State) (p : Packet) (n : Nat), s.engineDoor (withOp 3 p) = stOK ∧ s.parcelOf p.job.toNat = some n ∧ (s.doorWaits 3 p = true ∨ s.pnmRoom (withOp 3 p) = false)) ∧
    (∃ (s : State) (p : Packet) (n : Nat) (m : Nat) (k : Nat), s.pnmOpen 3 n p = true ∧ s.pnmModule (descOf (withOp 3 p)) = some m ∧ (s.pnmQ m).queue.length < 64 ∧ k ≠ m) ∧
    (∃ (s : State) (p : Packet) (n : Nat) (k : Nat), s.pnmOpen 3 n p = true ∧ s.pnmModule (descOf (withOp 3 p)) = none ∧ k ≠ 64) ∧
    (∃ (s : State) (p : Packet), s.engineDoor (withOp 4 p) ≠ stOK) ∧
    (∃ (s : State) (p : Packet) (n : Nat), s.engineDoor (withOp 4 p) = stOK ∧ s.parcelOf p.job.toNat = some n ∧ (s.doorWaits 3 p = true ∨ s.pnmRoom (withOp 4 p) = false)) ∧
    (∃ (s : State) (p : Packet) (n : Nat) (m : Nat) (k : Nat), s.pnmOpen 4 n p = true ∧ s.pnmModule (descOf (withOp 4 p)) = some m ∧ (s.pnmQ m).queue.length < 64 ∧ k ≠ m) ∧
    (∃ (s : State) (p : Packet) (n : Nat) (k : Nat), s.pnmOpen 4 n p = true ∧ s.pnmModule (descOf (withOp 4 p)) = none ∧ k ≠ 64) ∧
    (∃ (s : State) (m : SlotIx), ∀ (c : PnmCmd), s.pnmTurn m.val c = false) ∧
    (∃ (s : State) (m : SlotIx) (c : PnmCmd), s.pnmTurn m.val c = true ∧ (s.pnmCheck m.val c).fst ≠ stOK) :=
  ⟨⟨{ tModule with tier := { held := [{ door := 3, req := {} }] } }, tPnmDoor, (({ tModule with tier := { held := [{ door := 3, req := {} }] } } : State).parcelOf (tPnmDoor : Packet).job.toNat).get (by decide +kernel), by decide +kernel⟩,
   ⟨tPnmWith { queue := [tPnmAct] }, tPnmDoor, 0, ((tPnmWith { queue := [tPnmAct] } : State).pnmModule (descOf (withOp 3 (tPnmDoor : Packet)))).get (by decide +kernel), 1, by decide +kernel⟩,
   ⟨tEth, tPnmDoor, 0, 0, by decide +kernel⟩,
   ⟨tPnmWith { queue := [tPnmAct] }, { payload := leBytes 8 4 }, by decide +kernel⟩,
   ⟨{ tModule with tier := { held := [{ door := 3, req := {} }] } }, tPnmDoor, (({ tModule with tier := { held := [{ door := 3, req := {} }] } } : State).parcelOf (tPnmDoor : Packet).job.toNat).get (by decide +kernel), by decide +kernel⟩,
   ⟨tPnmWith { queue := [tPnmAct] }, tPnmDoor, 0, ((tPnmWith { queue := [tPnmAct] } : State).pnmModule (descOf (withOp 4 (tPnmDoor : Packet)))).get (by decide +kernel), 1, by decide +kernel⟩,
   ⟨tEth, tPnmDoor, 0, 0, by decide +kernel⟩,
   ⟨tPnmWith { queue := [tPnmAct] }, 1, fun c => by
    have h : pnmNext (((tPnmWith { queue := [tPnmAct] }).pnmQ 1).active.flatMap PnmCmd.banks) ((tPnmWith { queue := [tPnmAct] }).pnmQ 1).queue [] = none := by decide +kernel
    simp only [State.pnmTurn, Fin.val_one, h]; rfl⟩,
   ⟨(tPnmWith { queue := [tPnmCmd] }).setBit rTierWe 0 false, 0, tPnmCmd, by decide +kernel⟩⟩

theorem wit_PnmCommands_3 :
    (∃ (s : State) (m : SlotIx) (c : PnmCmd), s.pnmTurn m.val c = true ∧ (s.pnmCheck m.val c).fst = stOK ∧ c.isAct = true) ∧
    (∃ (s : State) (m : SlotIx) (c : PnmCmd), s.pnmTurn m.val c = true ∧ (s.pnmCheck m.val c).fst = stOK ∧ s.pnmFrames c = [] ∧ ((c.gfas.all fun r => !s.pnmCoh r) = true) ∧ c.isAct = false) ∧
    (∃ (s : State) (m : SlotIx) (i : BitVec 16), s.pnmWaiting m.val i.toNat = none ∨ s.modPort m.val = none) ∧
    (∃ (s : State) (m : SlotIx) (i : BitVec 16) (c : PnmCmd) (p : Nat), let n : Nat := s.homeRegion (slotBase m.val); s.pnmWaiting m.val i.toNat = some c ∧ s.modPort m.val = some p ∧ s.pnmPrepared n c = false) ∧
    (∃ (s : State) (m : SlotIx) (i : BitVec 16) (c : PnmCmd) (p : Nat), let n : Nat := s.homeRegion (slotBase m.val); s.pnmWaiting m.val i.toNat = some c ∧ s.modPort m.val = some p ∧ s.pnmPrepared n c = true ∧ c.isAct = true ∧ c.detail = 11 ∧ (s.cadSlice n).holdQ = []) ∧
    (∃ (s : State) (m : SlotIx) (i : BitVec 16) (c : PnmCmd) (p : Nat), let n : Nat := s.homeRegion (slotBase m.val); s.pnmWaiting m.val i.toNat = some c ∧ s.modPort m.val = some p ∧ s.pnmPrepared n c = true ∧ c.isAct = true ∧ c.detail ≠ 11 ∧ actValid (c.table.getD []) = false ∧ (s.cadSlice n).holdQ = []) ∧
    (∃ (s : State) (m : SlotIx) (i : BitVec 16) (c : PnmCmd) (p : Nat) (j : Nat), let n : Nat := s.homeRegion (slotBase m.val); s.pnmWaiting m.val i.toNat = some c ∧ s.modPort m.val = some p ∧ s.pnmPrepared n c = true ∧ (c.isAct = false ∨ c.detail ≠ 11 ∧ actValid (c.table.getD []) = true) ∧ c.aside = true ∧ Memory.wf s.mem.cells = true ∧ j < c.len / 128) ∧
    (∃ (s : State) (p : Packet), let m : Nat := p.agent.toNat % 64; let w : Nat := wordAt p.payload 0; let mine : Option PnmCmd := List.find? (fun c => c.id.toNat == nbits w 15 0 && c.dispatched) (s.pnmQ m).active; mine = none) ∧
    (∃ (s : State) (p : Packet) (c : PnmCmd), let m : Nat := p.agent.toNat % 64; let w : Nat := wordAt p.payload 0; let mine : Option PnmCmd := List.find? (fun c => c.id.toNat == nbits w 15 0 && c.dispatched) (s.pnmQ m).active; mine = some c ∧ (s.cadSlice (s.homeRegion (slotBase m))).holdQ = []) :=
  ⟨⟨tPnmWith { queue := [tPnmAct] }, 0, tPnmAct, by decide +kernel⟩,
   ⟨tPnmWith { queue := List.replicate 64 tPnmCmd }, 0, tPnmCmd, by decide +kernel⟩,
   ⟨tPnmWith { queue := [tPnmAct] }, 0, 4, by decide +kernel⟩,
   ⟨tPnmWith { active := [tPnmAct] }, 0, 4, ((tPnmWith { active := [tPnmAct] } : State).pnmWaiting (↑(0 : SlotIx)) (4 : BitVec 16).toNat).get (by decide +kernel), ((tPnmWith { active := [tPnmAct] } : State).modPort ↑(0 : SlotIx)).get (by decide +kernel), by decide +kernel⟩,
   ⟨tPnmWith { active := [{ tPnmAct with detail := 11, status := 3, table := some [] }] }, 0, 4, ((tPnmWith { active := [{ tPnmAct with detail := 11, status := 3, table := some [] }] } : State).pnmWaiting (↑(0 : SlotIx)) (4 : BitVec 16).toNat).get (by decide +kernel), ((tPnmWith { active := [{ tPnmAct with detail := 11, status := 3, table := some [] }] } : State).modPort ↑(0 : SlotIx)).get (by decide +kernel), by decide +kernel⟩,
   ⟨tPnmWith { active := [{ tPnmAct with table := some [] }] }, 0, 4, ((tPnmWith { active := [{ tPnmAct with table := some [] }] } : State).pnmWaiting (↑(0 : SlotIx)) (4 : BitVec 16).toNat).get (by decide +kernel), ((tPnmWith { active := [{ tPnmAct with table := some [] }] } : State).modPort ↑(0 : SlotIx)).get (by decide +kernel), by decide +kernel⟩,
   ⟨tPnmWith { active := [tPnmCmd] }, 0, 4, ((tPnmWith { active := [tPnmCmd] } : State).pnmWaiting (↑(0 : SlotIx)) (4 : BitVec 16).toNat).get (by decide +kernel), ((tPnmWith { active := [tPnmCmd] } : State).modPort ↑(0 : SlotIx)).get (by decide +kernel), 0, by decide +kernel⟩,
   ⟨tPnmWith { queue := [tPnmAct] }, tPnmDoor, by decide +kernel⟩,
   ⟨tPnmWith { active := [{ tPnmCmd with dispatched := true }] }, { payload := leBytes 8 4 }, { tPnmCmd with dispatched := true }, by decide +kernel⟩⟩

theorem wit_PortsGoDown_1 :
    (∃ (s : State) (p : LinkIx) (c : BitVec 8), s.portState p.val = 0 ∨ s.portState p.val = 4) ∧
    (∃ (s : State) (p : LinkIx) (c : BitVec 8), let m : Nat := s.fld (rPortRole p.val) 13 8; s.portUp p.val = true ∧ s.portRole p.val = roleModule ∧ s.slotAvail m = true) ∧
    (∃ (s : State) (p : LinkIx) (c : BitVec 8) (k : Nat), s.portUp p.val = true ∧ s.portRole p.val = roleEth ∧ k ≠ p.val) ∧
    (∃ (s : State) (p : LinkIx) (c : BitVec 8) (f : FarEnd), s.portUp p.val = true ∧ s.portRole p.val = roleGrid ∧ (s.link p.val).far = some f) ∧
    (∃ (s : State) (p : LinkIx) (c : BitVec 8) (a : Nat) (n : Nat), s.portUp p.val = true ∧ s.portRole p.val = roleAccel ∧ s.agentOfPort p.val = some a ∧ a < 32 ∧ (s.cadSlice (p.val / 32)).sweeping.contains a = false ∧ n < 4) ∧
    (∃ (s : State) (p : LinkIx) (c : BitVec 8), s.portUp p.val = false ∧ s.portState p.val ≠ 0 ∧ s.portState p.val ≠ 4 ∧ s.bit (rPortCtl p.val) 0 = true) ∧
    (∃ (s : State) (p : LinkIx) (c : BitVec 8), s.portUp p.val = false ∧ s.portState p.val ≠ 0 ∧ s.portState p.val ≠ 4 ∧ s.bit (rPortCtl p.val) 0 = false) ∧
    (∃ (s : State) (p : LinkIx), s.portState p.val = 2 ∧ s.portRole p.val ≠ roleEth) :=
  ⟨⟨State.reset, 0, 0, by decide +kernel⟩,
   ⟨tPnmWith { active := [{ tPnmCmd with dispatched := true }] }, 0, 0, by decide +kernel⟩,
   ⟨((State.reset.setFld (rPortRole 100) 2 0 4).setFld (rPortStat 100) 2 0 2).setBit (rPortCtl 100) 0 true, 100, 0, 3, by decide +kernel⟩,
   ⟨(tGridLost.setFld (rPortStat 3) 2 0 2).setBit (rPortCtl 3) 0 true, 3, 0, (((tGridLost.setFld (rPortStat 3) 2 0 2).setBit (rPortCtl 3) 0 true : State).link ↑(3 : LinkIx)).far.get (by decide +kernel), by decide +kernel⟩,
   ⟨tUp.setReg (rCadAgentPort 0 0) 0x80, 0, 0, ((tUp.setReg (rCadAgentPort 0 0) 0x80 : State).agentOfPort ↑(0 : LinkIx)).get (by decide +kernel), 3, by decide +kernel⟩,
   ⟨((State.reset.setFld (rPortStat 0) 2 0 1).setBit (rPortCtl 0) 0 true).setFld (rPortCtl 0) 7 4 3, 0, 0, by decide +kernel⟩,
   ⟨State.reset.setFld (rPortStat 0) 2 0 1, 0, 0, by decide +kernel⟩,
   ⟨tUp.setReg (rCadAgentPort 0 0) 0x80, 0, by decide +kernel⟩⟩

theorem wit_PortsGoDown_2 :
    (∃ (s : State) (p : LinkIx), s.portState p.val ≠ 2 ∨ s.portRole p.val = roleEth) ∧
    (∃ (s : State) (m : SlotIx) (i : BitVec 16) (p : LinkIx), let waits : Bool := (s.pnmQ m.val).active.any fun c => c.id.toNat == i.toNat && c.dispatched; waits = true ∧ s.modPort m.val = some p.val) ∧
    (∃ (s : State) (m : SlotIx) (i : BitVec 16), let waits : Bool := (s.pnmQ m.val).active.any fun c => c.id.toNat == i.toNat && c.dispatched; waits = false ∨ s.modPort m.val = none) ∧
    (∃ (s : State) (q : Packet) (p : Nat) (k : Nat), s.lsrPort q = some p ∧ k ≠ p) ∧
    (∃ (s : State) (q : Packet) (p : Nat) (e : Nat × Packet), s.lsrPort q = some p ∧ e ∈ (s.link p).unproven ∧ (wordAt q.payload 1 + 1) % 2 ^ 64 ≤ e.fst) ∧
    (∃ (s : State) (q : Packet), s.lsrPort q = none) ∧
    (∃ (s : State) (p : PortIx) (k : Nat), k ≠ p.val) ∧
    (∃ (s : State) (p : PortIx) (e : Nat × Packet), e ∈ (s.link p.val).unproven) :=
  ⟨⟨State.reset, 0, by decide +kernel⟩,
   ⟨tPnmWith { active := [{ tPnmCmd with dispatched := true }] }, 0, 4, 0, by decide +kernel⟩,
   ⟨State.reset, 0, 4, by decide +kernel⟩,
   ⟨(tGridLost.setFld (rPortStat 3) 2 0 2).setBit (rPortCtl 3) 0 true, { src := 1, payload := leBytes 8 9 ++ leBytes 8 3 }, (((tGridLost.setFld (rPortStat 3) 2 0 2).setBit (rPortCtl 3) 0 true : State).lsrPort ({ src := 1, payload := leBytes 8 9 ++ leBytes 8 3 } : Packet)).get (by decide +kernel), 0, by decide +kernel⟩,
   ⟨(tGridLost.setFld (rPortStat 3) 2 0 2).setBit (rPortCtl 3) 0 true, { src := 1, payload := leBytes 8 9 ++ leBytes 8 3 }, (((tGridLost.setFld (rPortStat 3) 2 0 2).setBit (rPortCtl 3) 0 true : State).lsrPort ({ src := 1, payload := leBytes 8 9 ++ leBytes 8 3 } : Packet)).get (by decide +kernel), (((tGridLost.setFld (rPortStat 3) 2 0 2).setBit (rPortCtl 3) 0 true : State).link ((((tGridLost.setFld (rPortStat 3) 2 0 2).setBit (rPortCtl 3) 0 true : State).lsrPort ({ src := 1, payload := leBytes 8 9 ++ leBytes 8 3 } : Packet)).get (by decide +kernel))).unproven.head (by decide +kernel), by decide +kernel⟩,
   ⟨State.reset, { src := 1, payload := leBytes 8 9 ++ leBytes 8 3 }, by decide +kernel⟩,
   ⟨State.reset, 0, 3, by decide +kernel⟩,
   ⟨(tGridLost.setFld (rPortStat 3) 2 0 2).setBit (rPortCtl 3) 0 true, 3, (((tGridLost.setFld (rPortStat 3) 2 0 2).setBit (rPortCtl 3) 0 true : State).link ↑3).unproven.head (by decide +kernel), by decide +kernel⟩⟩

theorem wit_SecurityCommands_1 :
    (∃ (s : State) (b : SecBlock), s.bit rSecStat 3 = true) ∧
    (∃ (s : State) (b : SecBlock), s.bit rSecStat 3 = false ∧ s.recov.restarting ≠ []) ∧
    (∃ (s : State) (b : SecBlock), s.bit rSecStat 3 = false ∧ s.recov.restarting = [] ∧ s.bit rSecStat 6 = true) ∧
    (∃ (s : State) (b : SecBlock), s.bit rSecStat 3 = false ∧ s.recov.restarting = [] ∧ s.bit rSecStat 6 = false ∧ s.storeBusy = true) ∧
    (∃ (s : State) (b : SecBlock), let formed : Bool := !b.reservedSet && s.targetOk 2 b.target.toNat; s.secOpen 2 = true ∧ formed = false) ∧
    (∃ (s : State) (b : SecBlock), let formed : Bool := !b.reservedSet && s.targetOk 2 b.target.toNat; s.secOpen 2 = true ∧ formed = true ∧ s.secPermits 2 = false) ∧
    (∃ (s : State) (b : SecBlock), let formed : Bool := !b.reservedSet && s.targetOk 2 b.target.toNat; s.secOpen 2 = true ∧ formed = true ∧ s.secPermits 2 = true ∧ s.sec.life.owner = none) ∧
    (∃ (s : State) (b : SecBlock) (h : BitVec 256), let formed : Bool := !b.reservedSet && s.targetOk 2 b.target.toNat; s.secOpen 2 = true ∧ formed = true ∧ s.secPermits 2 = true ∧ s.sec.life.owner = some h) ∧
    (∃ (s : State) (b : SecBlock), let formed : Bool := !b.reservedSet && s.targetOk 3 b.target.toNat; s.secOpen 3 = true ∧ formed = false) ∧
    (∃ (s : State) (b : SecBlock), let formed : Bool := !b.reservedSet && s.targetOk 3 b.target.toNat; s.secOpen 3 = true ∧ formed = true ∧ s.secPermits 3 = false) :=
  ⟨⟨tOwned.setBit rSecStat 3 true, tBlk 0, by decide +kernel⟩,
   ⟨{ tOwned with recov := { tOwned.recov with restarting := [1] } }, tBlk 0, by decide +kernel⟩,
   ⟨tOwned.setBit rSecStat 6 true, tBlk 0, by decide +kernel⟩,
   ⟨{ tOwned with boot := { tOwned.boot with imaging := true } }, tBlk 0, by decide +kernel⟩,
   ⟨tOwned, tBlk 0, by decide +kernel⟩,
   ⟨{ tOwned with sec := { tOwned.sec with life := { state := 0 } } }, tBlk 1, by decide +kernel⟩,
   ⟨tUnowned, tBlk 1, by decide +kernel⟩,
   ⟨tOwned, tBlk 1, (tOwned : State).sec.life.owner.get (by decide +kernel), by decide +kernel⟩,
   ⟨tOwned, tBlk 1, by decide +kernel⟩,
   ⟨{ tOwned with sec := { tOwned.sec with life := { state := 0 } } }, tBlk 0, by decide +kernel⟩⟩

theorem wit_SecurityCommands_2 :
    (∃ (s : State) (b : SecBlock), let formed : Bool := !b.reservedSet && s.targetOk 3 b.target.toNat; s.secOpen 3 = true ∧ formed = true ∧ s.secPermits 3 = true ∧ s.sec.life.owner = none) ∧
    (∃ (s : State) (b : SecBlock) (h : BitVec 256), let formed : Bool := !b.reservedSet && s.targetOk 3 b.target.toNat; s.secOpen 3 = true ∧ formed = true ∧ s.secPermits 3 = true ∧ s.sec.life.owner = some h) ∧
    (∃ (s : State) (b : SecBlock), let formed : Bool := !b.reservedSet && s.targetOk 4 b.target.toNat; s.secOpen 4 = true ∧ formed = false) ∧
    (∃ (s : State) (b : SecBlock), let formed : Bool := !b.reservedSet && s.targetOk 4 b.target.toNat; s.secOpen 4 = true ∧ formed = true ∧ s.secPermits 4 = false) ∧
    (∃ (s : State) (b : SecBlock), let formed : Bool := !b.reservedSet && s.targetOk 4 b.target.toNat; s.secOpen 4 = true ∧ formed = true ∧ s.secPermits 4 = true ∧ s.sec.life.owner = none) ∧
    (∃ (s : State) (b : SecBlock) (h : BitVec 256), let formed : Bool := !b.reservedSet && s.targetOk 4 b.target.toNat; s.secOpen 4 = true ∧ formed = true ∧ s.secPermits 4 = true ∧ s.sec.life.owner = some h) ∧
    (∃ (s : State) (b : SecBlock), let formed : Bool := !b.reservedSet && s.targetOk 8 b.target.toNat; s.secOpen 8 = true ∧ formed = false) ∧
    (∃ (s : State) (b : SecBlock), let formed : Bool := !b.reservedSet && s.targetOk 8 b.target.toNat; s.secOpen 8 = true ∧ formed = true ∧ s.secPermits 8 = false) ∧
    (∃ (s : State) (b : SecBlock), let formed : Bool := !b.reservedSet && s.targetOk 8 b.target.toNat; s.secOpen 8 = true ∧ formed = true ∧ s.secPermits 8 = true ∧ s.sec.life.owner = none) ∧
    (∃ (s : State) (b : SecBlock) (h : BitVec 256), let formed : Bool := !b.reservedSet && s.targetOk 8 b.target.toNat; s.secOpen 8 = true ∧ formed = true ∧ s.secPermits 8 = true ∧ s.sec.life.owner = some h) :=
  ⟨⟨tUnowned, tBlk 0, by decide +kernel⟩,
   ⟨tOwned, tBlk 0, (tOwned : State).sec.life.owner.get (by decide +kernel), by decide +kernel⟩,
   ⟨tOwned, tBlk 1, by decide +kernel⟩,
   ⟨{ tOwned with sec := { tOwned.sec with life := { state := 0 } } }, tBlk 0, by decide +kernel⟩,
   ⟨tUnowned, tBlk 0, by decide +kernel⟩,
   ⟨tOwned, tBlk 0, (tOwned : State).sec.life.owner.get (by decide +kernel), by decide +kernel⟩,
   ⟨tOwned, tBlk 1, by decide +kernel⟩,
   ⟨{ tOwned with sec := { tOwned.sec with life := { state := 0 } } }, tBlk 0, by decide +kernel⟩,
   ⟨tUnowned, tBlk 0, by decide +kernel⟩,
   ⟨tOwned, tBlk 0, (tOwned : State).sec.life.owner.get (by decide +kernel), by decide +kernel⟩⟩

theorem wit_SecurityCommands_3 :
    (∃ (s : State) (b : SecBlock), s.secOpen 1 = true ∧ s.secPermits 1 = true) ∧
    (∃ (s : State) (b : SecBlock), s.secOpen 1 = true ∧ s.secPermits 1 = false) ∧
    (∃ (s : State) (b : SecBlock), s.secOpen 5 = true ∧ s.secPermits 5 = false) ∧
    (∃ (s : State) (b : SecBlock), s.secOpen 6 = true ∧ s.secPermits 6 = false) ∧
    (∃ (s : State) (b : SecBlock), s.secOpen 7 = true ∧ s.secPermits 7 = false) ∧
    (∃ (s : State) (b : SecBlock), s.secOpen 5 = true ∧ s.secPermits 5 = true) ∧
    (∃ (s : State) (b : SecBlock), s.secOpen 6 = true ∧ s.secPermits 6 = true) ∧
    (∃ (s : State) (b : SecBlock) (k : Nat), s.secOpen 7 = true ∧ s.secPermits 7 = true ∧ k < 7) :=
  ⟨⟨tUnowned, tBlk 0, by decide +kernel⟩,
   ⟨tOwned, tBlk 0, by decide +kernel⟩,
   ⟨{ tOwned with sec := { tOwned.sec with life := { state := 0 } } }, tBlk 0, by decide +kernel⟩,
   ⟨{ tOwned with sec := { tOwned.sec with life := { state := 0 } } }, tBlk 0, by decide +kernel⟩,
   ⟨{ tOwned with sec := { tOwned.sec with life := { state := 0 } } }, tBlk 0, by decide +kernel⟩,
   ⟨{ tOwned with boot := { tOwned.boot with imaging := true } }, tBlk 0, by decide +kernel⟩,
   ⟨{ tOwned with boot := { tOwned.boot with imaging := true } }, tBlk 0, by decide +kernel⟩,
   ⟨{ tOwned with boot := { tOwned.boot with imaging := true } }, tBlk 0, 0, by decide +kernel⟩⟩

theorem wit_SecurityEvents :
    (∃ (s : State) (p : PortIx), let here : Bool := s.portRole p.val == roleModule && s.portUp p.val && s.bit (rModKeyStat p.val) 1; here = true ∧ (∀ (c : Clearance), s.sec.clearance = some c → c.modules.contains p.val = false)) ∧
    (∃ (s : State) (p : PortIx) (c : Clearance), let here : Bool := s.portRole p.val == roleModule && s.portUp p.val && s.bit (rModKeyStat p.val) 1; here = true ∧ s.sec.clearance = some c ∧ c.modules.contains p.val = true) ∧
    (∃ (s : State) (p : PortIx), let here : Bool := s.portRole p.val == roleModule && s.portUp p.val && s.bit (rModKeyStat p.val) 1; here = false ∧ (s.bit (rModKeyStat p.val) 1 = false ∨ ∀ (c : Clearance), s.sec.clearance = some c → c.modules.contains p.val = false)) ∧
    (∃ (s : State) (st : List (BitVec 8)) (ms : List (BitVec 16)) (c : Clearance) (a : Nat), s.sec.clearance = some c ∧ s.bit rSecStat 4 = true ∧ s.modulesBusy c = false ∧ c.ended = none ∧ s.storeBusy = false ∧ s.atPhase 6 = false ∧ a < t0End) ∧
    (∃ (s : State) (st : List (BitVec 8)) (ms : List (BitVec 16)) (c : Clearance), s.sec.clearance = some c ∧ s.bit rSecStat 4 = true ∧ s.modulesBusy c = false ∧ c.ended = none ∧ s.storeBusy = true) ∧
    (∃ (s : State) (st : List (BitVec 8)) (ms : List (BitVec 16)), ∀ (c : Clearance), s.sec.clearance = some c → s.bit rSecStat 4 = false ∨ s.modulesBusy c = true ∨ c.ended ≠ none) ∧
    (∃ (s : State) (p : Nat), p < 129 ∧ (s.link p).kex.step ≠ 0) ∧
    (∃ (s : State), ∀ (p : Nat), p < 129 → (s.link p).kex.step = 0) :=
  ⟨⟨tModule.setBit (rModKeyStat 0) 1 true, 0, by decide +kernel⟩,
   ⟨{ tModule.setBit (rModKeyStat 0) 1 true with sec := { tModule.sec with clearance := some { target := 2, tenant := 9, vnonce := 0, modules := [0] } } }, 0, ({ tModule.setBit (rModKeyStat 0) 1 true with sec := { tModule.sec with clearance := some { target := 2, tenant := 9, vnonce := 0, modules := [0] } } } : State).sec.clearance.get (by decide +kernel), by decide +kernel⟩,
   ⟨State.reset, 0, by decide +kernel⟩,
   ⟨tClearing, [0, 0, 0, 0, 0], [], (tClearing : State).sec.clearance.get (by decide +kernel), 0, by decide +kernel⟩,
   ⟨{ tClearing with boot := { tClearing.boot with imaging := true } }, [0, 0, 0, 0, 0], [], ({ tClearing with boot := { tClearing.boot with imaging := true } } : State).sec.clearance.get (by decide +kernel), by decide +kernel⟩,
   ⟨State.reset, [0, 0, 0, 0, 0], [], by decide +kernel⟩,
   ⟨{ State.reset with links := [(0, { kex := { step := 2 } })] }, 0, by decide +kernel⟩,
   ⟨State.reset, by decide +kernel⟩⟩

theorem wit_StartUp_1 :
    (∃ (s : State) (k : KatResult), s.atPhase 2 = false) ∧
    (∃ (s : State) (k : KatResult), let c : MsCopy := s.boot.choose.active; s.atPhase 2 = true ∧ c.valid = false) ∧
    (∃ (s : State) (k : KatResult), let c : MsCopy := s.boot.choose.active; s.atPhase 2 = true ∧ c.valid = true ∧ c.pkgOk = false) ∧
    (∃ (s : State) (k : KatResult), let c : MsCopy := s.boot.choose.active; s.atPhase 2 = true ∧ c.valid = true ∧ c.pkgOk = true) ∧
    (∃ (s : State) (r : BistResult), s.atPhase 4 = false) ∧
    (∃ (s : State) (r : BistResult) (i : Nat), s.atPhase 4 = true ∧ i < 6) ∧
    (∃ (s : State) (r : BistResult), let bad : List Nat := List.filter (fun i => s.itemFails r i) (List.range 6); s.atPhase 4 = true ∧ bad = []) ∧
    (∃ (s : State) (r : BistResult), let bad : List Nat := List.filter (fun i => s.itemFails r i) (List.range 6); s.atPhase 4 = true ∧ bad ≠ []) ∧
    (∃ (s : State) (p : List ImageSource) (ds : List Word), s.atPhase 5 = false) ∧
    (∃ (s : State) (p : List ImageSource) (ds : List Word), s.atPhase 5 = true ∧ s.bootSource p = none) ∧
    (∃ (s : State) (p : List ImageSource) (ds : List Word) (i : ImageSource) (r : Nat), s.atPhase 5 = true ∧ s.bootSource p = some i ∧ s.sec.life.clearing = false ∧ s.boot.active.policy = [] ∧ r < 4) :=
  ⟨⟨tPhase 5, tKat, by decide +kernel⟩,
   ⟨{ tPhase 2 with boot := { State.reset.boot with a := { magicOk := false }, b := { crcOk := false } } }, tKat, by decide +kernel⟩,
   ⟨{ tPhase 2 with boot := { State.reset.boot with a := { pkgOk := false }, b := { pkgOk := false } } }, tKat, by decide +kernel⟩,
   ⟨tPhase 2, tKat, by decide +kernel⟩,
   ⟨tPhase 2, tBist, by decide +kernel⟩,
   ⟨tPhase 4, tBist, 0, by decide +kernel⟩,
   ⟨tPhase 4, tBist, by decide +kernel⟩,
   ⟨{ tPhase 4 with boot := { a := { pkgRef := [some 2] }, b := { pkgRef := [some 2] } } }, tBist, by decide +kernel⟩,
   ⟨tPhase 2, [.preferred0], [], by decide +kernel⟩,
   ⟨tPhase 5, [], [], by decide +kernel⟩,
   ⟨tPhase 5, [.preferred0], [], ((tPhase 5 : State).bootSource ([.preferred0] : List ImageSource)).get (by decide +kernel), 0, by decide +kernel⟩⟩

theorem wit_StartUp_2 :
    (∃ (s : State) (p : List ImageSource) (ds : List Word) (i : ImageSource) (q : Nat), s.atPhase 5 = true ∧ s.bootSource p = some i ∧ s.sec.life.clearing = false ∧ s.boot.active.policy = [] ∧ q < 128) ∧
    (∃ (s : State) (p : List ImageSource) (ds : List Word) (i : ImageSource), s.atPhase 5 = true ∧ s.bootSource p = some i ∧ s.sec.life.clearing = true) ∧
    (∃ (s : State) (r : SliceIx) (ok : Bool) (x : BitVec 16) (y : BitVec 16), s.bit (rHbmStat r.val) 2 = false) ∧
    (∃ (s : State) (r : SliceIx) (ok : Bool) (x : BitVec 16) (y : BitVec 16), s.bit (rHbmStat r.val) 2 = true) ∧
    (∃ (s : State) (c : Fin 16) (ok : Bool) (x : BitVec 8), s.regionInReset (c.val / 4) = true) ∧
    (∃ (s : State) (c : Fin 16) (ok : Bool) (x : BitVec 8), s.regionInReset (c.val / 4) = false ∧ (s.atPhase 10 = false ∨ s.boot.doneParts.contains c.val = true)) ∧
    (∃ (s : State) (c : Fin 16) (ok : Bool) (x : BitVec 8), s.regionInReset (c.val / 4) = false ∧ s.atPhase 10 = true ∧ s.boot.doneParts.contains c.val = false ∧ s.boot.doneParts.length < 15) ∧
    (∃ (s : State) (c : Fin 16) (ok : Bool) (x : BitVec 8), s.regionInReset (c.val / 4) = false ∧ s.atPhase 10 = true ∧ s.boot.doneParts.contains c.val = false ∧ 15 ≤ s.boot.doneParts.length) ∧
    (∃ (s : State), let trained : Bool := s.boot.inReset.all fun k => decide (k < 16) || s.regionTrained (k - 16); s.boot.inReset ≠ [] ∧ trained = true) ∧
    (∃ (s : State), let trained : Bool := s.boot.inReset.all fun k => decide (k < 16) || s.regionTrained (k - 16); s.boot.inReset = [] ∨ trained = false) :=
  ⟨⟨tPhase 5, [.preferred0], [], ((tPhase 5 : State).bootSource ([.preferred0] : List ImageSource)).get (by decide +kernel), 0, by decide +kernel⟩,
   ⟨{ tPhase 5 with sec := { State.reset.sec with life := { State.reset.sec.life with clearing := true } } }, [.preferred0], [], (({ tPhase 5 with sec := { State.reset.sec with life := { State.reset.sec.life with clearing := true } } } : State).bootSource ([.preferred0] : List ImageSource)).get (by decide +kernel), by decide +kernel⟩,
   ⟨tPhase 2, 1, true, 0, 0, by decide +kernel⟩,
   ⟨State.reset.setBit (rHbmStat 1) 2 true, 1, true, 0, 0, by decide +kernel⟩,
   ⟨{ tPhase 10 with boot := { State.reset.boot with inReset := [17] } }, 5, true, 0, by decide +kernel⟩,
   ⟨tPhase 2, 5, true, 0, by decide +kernel⟩,
   ⟨{ tPhase 10 with boot := { State.reset.boot with inReset := [17] } }, 0, true, 0, by decide +kernel⟩,
   ⟨{ tPhase 10 with boot := { doneParts := List.range 15 } }, 15, true, 0, by decide +kernel⟩,
   ⟨{ State.reset with boot := { inReset := [3] } }, by decide +kernel⟩,
   ⟨tPhase 2, by decide +kernel⟩⟩

theorem wit_LevellingSteps_1 :
    (∃ (s : State) (p : PortIx) (v : Word), s.cfgOpen (rPortCtl p.val) = false) ∧
    (∃ (s : State) (p : PortIx) (v : Word), s.cfgOpen (rPortCtl p.val) = true ∧ BitVec.getLsbD v 0 = true ∧ s.bit (rPortCtl p.val) 0 = false ∧ s.portRole p.val ≠ roleDisabled ∧ (s.portRole p.val = roleGrid → s.inGrid s.ix = true) ∧ s.roleOk p.val = true) ∧
    (∃ (s : State) (p : PortIx) (v : Word), s.cfgOpen (rPortCtl p.val) = true ∧ BitVec.getLsbD v 0 = true ∧ s.bit (rPortCtl p.val) 0 = false ∧ s.portRole p.val ≠ roleDisabled ∧ (s.portRole p.val = roleGrid → s.inGrid s.ix = true) ∧ s.roleOk p.val = false) ∧
    (∃ (s : State) (p : PortIx) (v : Word), s.cfgOpen (rPortCtl p.val) = true ∧ BitVec.getLsbD v 0 = true ∧ s.bit (rPortCtl p.val) 0 = false ∧ s.portRole p.val = roleGrid ∧ s.inGrid s.ix = false) ∧
    (∃ (s : State) (p : PortIx) (v : Word), s.cfgOpen (rPortCtl p.val) = true ∧ BitVec.getLsbD v 0 = true ∧ s.bit (rPortCtl p.val) 0 = false ∧ s.portRole p.val = roleDisabled ∧ s.portUp p.val = false) ∧
    (∃ (s : State) (p : PortIx) (v : Word), s.cfgOpen (rPortCtl p.val) = true ∧ BitVec.getLsbD v 0 = false ∧ s.bit (rPortCtl p.val) 0 = true) ∧
    (∃ (s : State) (p : PortIx) (v : Word), s.cfgOpen (rPortCtl p.val) = true ∧ BitVec.getLsbD v 0 = s.bit (rPortCtl p.val) 0 ∧ BitVec.getLsbD v 8 = false ∧ BitVec.getLsbD v 12 = false) ∧
    (∃ (s : State) (p : LinkIx) (ok : Bool) (x : List Nat) (y : List Nat) (b : BitVec 128), s.atStep p.val 1 = false) ∧
    (∃ (s : State) (p : LinkIx) (ok : Bool) (x : List Nat) (y : List Nat) (b : BitVec 128), s.atStep p.val 2 = false) ∧
    (∃ (s : State) (p : LinkIx) (ok : Bool) (x : List Nat) (y : List Nat) (b : BitVec 128), s.atStep p.val 3 = false) :=
  ⟨⟨(tStep 1).setBit rSecStat 4 true, 0, 1, by decide +kernel⟩,
   ⟨State.reset.setFld (rPortRole 0) 2 0 1, 0, 1, by decide +kernel⟩,
   ⟨State.reset.setFld (rPortRole 0) 2 0 2, 0, 1, by decide +kernel⟩,
   ⟨((State.reset.setFld (rPortRole 0) 2 0 2).setFld rGridCfg 4 0 9), 0, 1, by decide +kernel⟩,
   ⟨tUp, 3, 1, by decide +kernel⟩,
   ⟨tUp, 0, 0, by decide +kernel⟩,
   ⟨tUp, 0, 1, by decide +kernel⟩,
   ⟨tUp, 0, true, [0, 1, 2, 3], [0, 1, 2, 3], 0, by decide +kernel⟩,
   ⟨tUp, 0, true, [0, 1, 2, 3], [0, 1, 2, 3], 0, by decide +kernel⟩,
   ⟨tUp, 0, true, [0, 1, 2, 3], [0, 1, 2, 3], 0, by decide +kernel⟩⟩

theorem wit_LevellingSteps_2 :
    (∃ (s : State) (p : LinkIx) (ok : Bool) (x : List Nat) (y : List Nat) (b : BitVec 128), s.atStep p.val 4 = false) ∧
    (∃ (s : State) (p : LinkIx) (ok : Bool) (x : List Nat) (y : List Nat) (b : BitVec 128), s.atStep p.val 6 = false) ∧
    (∃ (s : State) (p : LinkIx) (ok : Bool), let good : Bool := ok && (decide (96 ≤ p.val) || s.mgmt.lsPres.getLsbD (p.val / 8) && (s.link p.val).lowCarriers.isEmpty); s.atStep p.val 1 = true ∧ good = true) ∧
    (∃ (s : State) (p : LinkIx) (ok : Bool), let good : Bool := ok && (decide (96 ≤ p.val) || s.mgmt.lsPres.getLsbD (p.val / 8) && (s.link p.val).lowCarriers.isEmpty); s.atStep p.val 1 = true ∧ good = false) ∧
    (∃ (s : State) (p : LinkIx), s.atStep p.val 2 = true) ∧
    (∃ (s : State) (p : LinkIx) (x : List Nat) (y : List Nat) (k : Nat), let a : List Nat := s.goodLanes p.val x; let b : List Nat := s.goodLanes p.val y; s.atStep p.val 3 = true ∧ p.val ≠ filardLink ∧ 4 ≤ a.length ∧ 4 ≤ b.length ∧ k ≠ p.val) ∧
    (∃ (s : State) (p : LinkIx) (x : List Nat) (y : List Nat), let a : List Nat := s.goodLanes p.val x; let b : List Nat := s.goodLanes p.val y; s.atStep p.val 3 = true ∧ p.val ≠ filardLink ∧ (a.length < 4 ∨ b.length < 4)) ∧
    (∃ (s : State) (x : List Nat) (y : List Nat), let ok : Nat → Bool := fun l => x.contains l && y.contains l && nbit (s.fld rBistFilard 9 8) (l / 4); let lo : Bool := [0, 1, 2, 3].all ok; let hi : Bool := [4, 5, 6, 7].all ok; s.atStep filardLink 3 = true ∧ (lo || hi) = true) ∧
    (∃ (s : State) (x : List Nat) (y : List Nat), let ok : Nat → Bool := fun l => x.contains l && y.contains l && nbit (s.fld rBistFilard 9 8) (l / 4); let lo : Bool := [0, 1, 2, 3].all ok; let hi : Bool := [4, 5, 6, 7].all ok; s.atStep filardLink 3 = true ∧ (lo || hi) = false) ∧
    (∃ (s : State) (p : LinkIx) (k : Nat), s.atStep p.val 4 = true ∧ s.kexBarred = false ∧ k ≠ p.val) :=
  ⟨⟨tUp, 0, true, [0, 1, 2, 3], [0, 1, 2, 3], 0, by decide +kernel⟩,
   ⟨tUp, 0, true, [0, 1, 2, 3], [0, 1, 2, 3], 0, by decide +kernel⟩,
   ⟨tStep 1, 0, true, by decide +kernel⟩,
   ⟨tStep 1, 0, false, by decide +kernel⟩,
   ⟨tStep 2, 0, by decide +kernel⟩,
   ⟨tStep 3, 0, [0, 1, 2, 3], [0, 1, 2, 3], 1, by decide +kernel⟩,
   ⟨tStep 3, 0, [0, 1, 2, 3], [], by decide +kernel⟩,
   ⟨((State.reset.setFld (rPortStat 128) 2 0 1).setFld (rPortStat 128) 5 3 3).setFld rBistFilard 9 8 1, [0, 1, 2, 3], [0, 1, 2, 3], by decide +kernel⟩,
   ⟨((State.reset.setFld (rPortStat 128) 2 0 1).setFld (rPortStat 128) 5 3 3), [0, 1, 2, 3], [0, 1, 2, 3], by decide +kernel⟩,
   ⟨tStep 4, 0, 1, by decide +kernel⟩⟩

theorem wit_LevellingSteps_3 :
    (∃ (s : State) (p : LinkIx), s.atStep p.val 4 = true ∧ s.kexBarred = true) ∧
    (∃ (s : State) (p : LinkIx) (b : BitVec 128), s.atStep p.val 6 = true ∧ s.farOk p.val (lvlFar b) = true ∧ s.portRole p.val ≠ roleModule) ∧
    (∃ (s : State) (p : LinkIx) (b : BitVec 128), s.atStep p.val 6 = true ∧ s.farOk p.val (lvlFar b) = true ∧ s.portRole p.val = roleAccel ∧ s.freeAgent ≠ none) ∧
    (∃ (s : State) (p : LinkIx) (b : BitVec 128), s.atStep p.val 6 = true ∧ s.farOk p.val (lvlFar b) = true ∧ s.portRole p.val = roleModule ∧ s.bit rSecStat 6 = false) ∧
    (∃ (s : State) (p : LinkIx) (b : BitVec 128), s.atStep p.val 6 = true ∧ s.farOk p.val (lvlFar b) = true ∧ p.val = filardLink ∧ s.atPhase 9 = true) ∧
    (∃ (s : State) (p : LinkIx) (b : BitVec 128), s.atStep p.val 6 = true ∧ s.farOk p.val (lvlFar b) = false) ∧
    (∃ (s : State) (p : LinkIx), let again : Bool := s.bit (rPortCtl p.val) 0 && s.portState p.val == 0 && s.fld (rPortStat p.val) 15 8 != 1 && s.fld (rPortStat p.val) 23 16 != 0; s.recov.restarting = [] ∧ again = true) ∧
    (∃ (s : State) (p : LinkIx), let again : Bool := s.bit (rPortCtl p.val) 0 && s.portState p.val == 0 && s.fld (rPortStat p.val) 15 8 != 1 && s.fld (rPortStat p.val) 23 16 != 0; s.recov.restarting = [] ∧ again = false) ∧
    (∃ (s : State) (p : LinkIx), s.recov.restarting ≠ []) :=
  ⟨⟨(tStep 4).setBit rSecStat 6 true, 0, by decide +kernel⟩,
   ⟨tStep 6, 0, 0, by decide +kernel⟩,
   ⟨tStep 6, 0, 0, by decide +kernel⟩,
   ⟨(tStep 6).setFld (rPortRole 0) 2 0 3, 0, 0, by decide +kernel⟩,
   ⟨(((State.reset.setFld (rPortStat 128) 2 0 1).setFld (rPortStat 128) 5 3 6).setFld rBootStat 3 0 9), 128, 0, by decide +kernel⟩,
   ⟨(tStep 6).setFld (rPortRole 0) 2 0 2, 0, 0, by decide +kernel⟩,
   ⟨((tStep 0).setFld (rPortStat 0) 2 0 0).setFld (rPortStat 0) 23 16 1, 0, by decide +kernel⟩,
   ⟨tUp, 0, by decide +kernel⟩,
   ⟨{ State.reset with recov := { restarting := [0] } }, 0, by decide +kernel⟩⟩

theorem wit_FramesAndLanes_1 :
    (∃ (s : State) (p : LinkIx), s.framing p.val = false) ∧
    (∃ (s : State) (p : LinkIx), let l : Link := s.link p.val; s.framing p.val = true ∧ l.toReplay = 0 ∧ 64 ≤ l.unacked.length) ∧
    (∃ (s : State) (p : LinkIx) (f : TxFrame), let l : Link := s.link p.val; s.framing p.val = true ∧ 0 < l.toReplay ∧ l.unacked[l.unacked.length - l.toReplay]? = some f) ∧
    (∃ (s : State) (p : LinkIx), let l : Link := s.link p.val; s.framing p.val = true ∧ l.toReplay = 0 ∧ l.unacked.length < 64 ∧ p.val ≠ filardLink) ∧
    (∃ (s : State) (p : LinkIx) (f : RxFrame), s.receives p.val = false) ∧
    (∃ (s : State) (p : LinkIx) (f : RxFrame), s.receives p.val = true ∧ s.rxGood p.val f = none) ∧
    (∃ (s : State) (p : LinkIx) (f : RxFrame) (body : List Byte), let c : FrameCtl := readControl body; s.receives p.val = true ∧ s.rxGood p.val f = some body ∧ s.tagMatches p.val c body = false) ∧
    (∃ (s : State) (p : LinkIx) (f : RxFrame) (body : List Byte), let l : Link := s.link p.val; let c : FrameCtl := readControl body; let un : List TxFrame := ackFrames c.ackSeq l.unacked l.unacked; let again : Nat := if c.nak = true ∧ un ≠ [] then if un.length < l.unacked.length then 1 else l.replays + 1 else if un.length < l.unacked.length then 0 else l.replays; s.receives p.val = true ∧ s.rxGood p.val f = some body ∧ s.tagMatches p.val c body = true ∧ c.fseq = l.expected c % 2 ^ 32 ∧ again ≤ 16 ∧ c.nak = true ∧ un ≠ []) ∧
    (∃ (s : State) (p : LinkIx) (f : RxFrame) (body : List Byte) (v : Nat), let l : Link := s.link p.val; let c : FrameCtl := readControl body; let un : List TxFrame := ackFrames c.ackSeq l.unacked l.unacked; let again : Nat := if c.nak = true ∧ un ≠ [] then if un.length < l.unacked.length then 1 else l.replays + 1 else if un.length < l.unacked.length then 0 else l.replays; s.receives p.val = true ∧ s.rxGood p.val f = some body ∧ s.tagMatches p.val c body = true ∧ c.fseq = l.expected c % 2 ^ 32 ∧ again ≤ 16 ∧ v < 18) ∧
    (∃ (s : State) (p : LinkIx) (f : RxFrame) (body : List Byte), let l : Link := s.link p.val; let c : FrameCtl := readControl body; let un : List TxFrame := ackFrames c.ackSeq l.unacked l.unacked; let again : Nat := if c.nak = true ∧ un ≠ [] then if un.length < l.unacked.length then 1 else l.replays + 1 else if un.length < l.unacked.length then 0 else l.replays; s.receives p.val = true ∧ s.rxGood p.val f = some body ∧ s.tagMatches p.val c body = true ∧ c.fseq = l.expected c % 2 ^ 32 ∧ 16 < again) ∧
    (∃ (s : State) (p : LinkIx) (f : RxFrame) (body : List Byte), let l : Link := s.link p.val; let c : FrameCtl := readControl body; s.receives p.val = true ∧ s.rxGood p.val f = some body ∧ s.tagMatches p.val c body = true ∧ c.fseq ≠ l.expected c % 2 ^ 32) :=
  ⟨⟨tPlainLink, 1, by decide +kernel⟩,
   ⟨tUp.setLink 0 { tUp.link 0 with unacked := List.replicate 64 tTx }, 0, by decide +kernel⟩,
   ⟨tPlainLink.setLink 0 { tPlainLink.link 0 with toReplay := 1, unacked := [tTx] }, 0, tTx, by decide +kernel⟩,
   ⟨tPlainLink, 0, by decide +kernel⟩,
   ⟨tPlainLink, 1, tFrame, by decide +kernel⟩,
   ⟨tInjected, 0, { lanes := [] }, by decide +kernel, tInjected_none⟩,
   tNak_mismatch.elim (fun h => ⟨tUp, 0, tNakFrame 0, tNakBody 0, by decide +kernel, tNak_good _ rfl rfl, h⟩)
    (fun h => ⟨tUp, 0, tNakFrame 1, tNakBody 1, by decide +kernel, tNak_good_tag _ rfl rfl, h⟩),
   ⟨tPlainLink.setLink 0 { tPlainLink.link 0 with unacked := [{ tTx with ctr := 5 }] }, 0, tNakFrame 0, tNakBody 0, by decide +kernel, tNak_good _ rfl rfl, by decide +kernel⟩,
   ⟨tPlainLink, 0, tNakFrame 0, tNakBody 0, 2, by decide +kernel, tNak_good _ rfl rfl, by decide +kernel⟩,
   ⟨tPlainLink.setLink 0 { tPlainLink.link 0 with unacked := [{ tTx with ctr := 5 }], replays := 16 }, 0, tNakFrame 0, tNakBody 0, by decide +kernel, tNak_good _ rfl rfl, by decide +kernel⟩,
   ⟨tPlainLink.setLink 0 { tPlainLink.link 0 with accepted := 7 }, 0, tNakFrame 0, tNakBody 0, by decide +kernel, tNak_good _ rfl rfl, by decide +kernel⟩⟩

theorem wit_FramesAndLanes_2 :
    (∃ (s : State) (p : LinkIx) (a : Fin 8), s.portUp p.val = false ∨ p.val ≠ filardLink ∧ 5 ≤ a.val) ∧
    (∃ (s : State) (p : LinkIx) (a : Fin 8), let l : Link := s.link p.val; let special : Prop := p.val = filardLink ∨ s.portRole p.val = roleEth; let needed : Bool := if p.val = filardLink then l.rxMap.contains a.val else decide (a.val < 4); s.portUp p.val = true ∧ special ∧ needed = true) ∧
    (∃ (s : State) (p : LinkIx) (a : Fin 8), let l : Link := s.link p.val; let special : Prop := p.val = filardLink ∨ s.portRole p.val = roleEth; let needed : Bool := if p.val = filardLink then l.rxMap.contains a.val else decide (a.val < 4); s.portUp p.val = true ∧ special ∧ needed = false) ∧
    (∃ (s : State) (p : LinkIx) (a : Fin 8), let l : Link := s.link p.val; let special : Prop := p.val = filardLink ∨ s.portRole p.val = roleEth; s.portUp p.val = true ∧ ¬special ∧ a.val < 5 ∧ l.rxSpare = some a.val ∧ l.swapRx = none) ∧
    (∃ (s : State) (p : LinkIx) (a : Fin 8), let l : Link := s.link p.val; let special : Prop := p.val = filardLink ∨ s.portRole p.val = roleEth; s.portUp p.val = true ∧ ¬special ∧ a.val < 5 ∧ l.rxSpare = some a.val ∧ l.swapRx ≠ none) ∧
    (∃ (s : State) (p : LinkIx) (a : Fin 8), let l : Link := s.link p.val; let special : Prop := p.val = filardLink ∨ s.portRole p.val = roleEth; s.portUp p.val = true ∧ ¬special ∧ a.val < 5 ∧ l.rxSpare ≠ some a.val ∧ (l.rxMap.contains a.val = false ∨ l.swapRx = some a.val)) ∧
    (∃ (s : State) (p : LinkIx) (a : Fin 8), let l : Link := s.link p.val; let special : Prop := p.val = filardLink ∨ s.portRole p.val = roleEth; s.portUp p.val = true ∧ ¬special ∧ a.val < 5 ∧ l.rxSpare ≠ some a.val ∧ s.canSwap p.val a.val = true) ∧
    (∃ (s : State) (p : LinkIx) (a : Fin 8), let l : Link := s.link p.val; let special : Prop := p.val = filardLink ∨ s.portRole p.val = roleEth; s.portUp p.val = true ∧ ¬special ∧ a.val < 5 ∧ l.rxSpare ≠ some a.val ∧ l.rxMap.contains a.val = true ∧ l.swapRx ≠ some a.val ∧ s.canSwap p.val a.val = false) ∧
    (∃ (s : State) (p : PortIx) (a : Fin 5), s.windowWhole p.val a.val = false) ∧
    (∃ (s : State) (p : PortIx) (a : Fin 5) (n : BitVec 32), let w : Nat := (kgetD (s.link p.val).window a.val (0, 0)).snd + s.lostSymbols p.val a.val n.toNat; let run : Nat := if s.fld (rPortBer p.val) 63 32 < w then kgetD (s.link p.val).overRun a.val 0 + 1 else 0; let marks : Bool := (s.link p.val).rxMap.contains a.val && decide (max 1 (s.fld (rPortBer p.val) 11 8) ≤ run) && !s.bit (rPortLane p.val) (21 + a.val); s.windowWhole p.val a.val = true ∧ marks = true ∧ s.canSwap p.val a.val = true) ∧
    (∃ (s : State) (p : PortIx) (a : Fin 5) (n : BitVec 32), let w : Nat := (kgetD (s.link p.val).window a.val (0, 0)).snd + s.lostSymbols p.val a.val n.toNat; let run : Nat := if s.fld (rPortBer p.val) 63 32 < w then kgetD (s.link p.val).overRun a.val 0 + 1 else 0; let marks : Bool := (s.link p.val).rxMap.contains a.val && decide (max 1 (s.fld (rPortBer p.val) 11 8) ≤ run) && !s.bit (rPortLane p.val) (21 + a.val); s.windowWhole p.val a.val = true ∧ (marks = false ∨ s.canSwap p.val a.val = false)) :=
  ⟨⟨tPlainLink, 0, 1, by decide +kernel⟩,
   ⟨tEth, 96, 1, by decide +kernel⟩,
   ⟨tEth, 96, 4, by decide +kernel⟩,
   ⟨tUp, 0, 4, by decide +kernel⟩,
   ⟨tUp.setLink 0 { tUp.link 0 with swapRx := some 1 }, 0, 4, by decide +kernel⟩,
   ⟨(tUp.setReg (rPortBer 0) 16).setLink 0 { tUp.link 0 with window := [(1, (65536, 5))], rxSpare := none }, 0, 4, by decide +kernel⟩,
   ⟨tUp, 0, 1, by decide +kernel⟩,
   ⟨(tUp.setReg (rPortBer 0) 16).setLink 0 { tUp.link 0 with window := [(1, (65536, 5))], rxSpare := none }, 0, 1, by decide +kernel⟩,
   ⟨tPlainLink, 0, 1, by decide +kernel⟩,
   ⟨(tUp.setReg (rPortBer 0) 16).setLink 0 { tUp.link 0 with window := [(1, (65536, 5))], badWords := [(1, 1)] }, 0, 1, 3, by decide +kernel⟩,
   ⟨(tUp.setReg (rPortBer 0) 16).setLink 0 { tUp.link 0 with window := [(1, (65536, 5))], badWords := [(1, 1)], rxSpare := none }, 0, 1, 3, by decide +kernel⟩⟩

theorem wit_FramesAndLanes_3 :
    (∃ (s : State) (p : PortIx) (a : Fin 5) (k : Nat), let on : Option Nat := List.find? (fun j => s.fld (rPortLane p.val) (3 * j + 2) (3 * j) == a.val) (List.range 4); on = some k ∧ s.portUp p.val = true ∧ s.bit (rPortLane p.val) 15 = true) ∧
    (∃ (s : State) (p : PortIx) (a : Fin 5), let on : Option Nat := List.find? (fun j => s.fld (rPortLane p.val) (3 * j + 2) (3 * j) == a.val) (List.range 4); on = none ∨ s.portUp p.val = false ∨ s.bit (rPortLane p.val) 15 = false) ∧
    (∃ (s : State) (p : PortIx) (a : Nat) (sp : Nat), let l : Link := s.link p.val; l.swapRx = some a ∧ l.rxSpare = some sp) ∧
    (∃ (s : State) (p : PortIx), let l : Link := s.link p.val; l.swapRx = none ∨ l.rxSpare = none) ∧
    (∃ (s : State) (p : PortIx) (q : LinkIx), q.val = p.val ∧ s.portState p.val = 3) ∧
    (∃ (s : State) (p : PortIx) (q : LinkIx), q.val = p.val ∧ s.portState p.val ≠ 3) ∧
    (∃ (s : State) (p : PortIx) (v : Word), s.cfgOpen (rPortCtl p.val) = true ∧ BitVec.getLsbD v 0 = s.bit (rPortCtl p.val) 0 ∧ BitVec.getLsbD v 8 = true ∧ (BitVec.getLsbD v 12 = false ∨ s.kexBarred = false) ∧ s.canSwap p.val (nbits (BitVec.toNat v) 11 9) = true) ∧
    (∃ (s : State) (k : Fin 12) (p : PortIx) (a : Fin 5) (q : LinkIx) (m : Fin 8), q.val = p.val ∧ m.val = a.val ∧ p.val / 8 = k.val ∧ s.portUp p.val = true) ∧
    (∃ (s : State) (k : Fin 12) (p : PortIx) (a : Fin 5) (q : LinkIx) (m : Fin 8), q.val = p.val ∧ m.val = a.val ∧ p.val / 8 = k.val ∧ s.atStep p.val 1 = true) ∧
    (∃ (s : State) (k : Fin 12) (p : PortIx) (a : Fin 5) (q : LinkIx) (m : Fin 8), q.val = p.val ∧ m.val = a.val ∧ (p.val / 8 ≠ k.val ∨ s.portUp p.val = false ∧ s.atStep p.val 1 = false)) :=
  ⟨⟨tUp, 0, 1, 1, by decide +kernel⟩,
   ⟨tPlainLink, 0, 1, by decide +kernel⟩,
   ⟨tUp.setLink 0 { tUp.link 0 with swapRx := some 1 }, 0, 1, 4, by decide +kernel⟩,
   ⟨tPlainLink, 0, by decide +kernel⟩,
   ⟨tUp.setFld (rPortStat 0) 2 0 3, 0, 0, by decide +kernel⟩,
   ⟨tPlainLink, 0, 0, by decide +kernel⟩,
   ⟨tUp, 0, 0x501, by decide +kernel⟩,
   ⟨tUp, 0, 0, 1, 0, 1, by decide +kernel⟩,
   ⟨tStep 1, 0, 0, 1, 0, 1, by decide +kernel⟩,
   ⟨tPlainLink, 0, 0, 1, 0, 1, by decide +kernel⟩⟩

theorem wit_KeyExchange_1 :
    (∃ (s : State) (p : LinkIx) (b : List Byte), let k : Kex := (s.link p.val).kex; k.step ≠ 1 ∨ k.rekey = true) ∧
    (∃ (s : State) (p : LinkIx) (b : List Byte), let k : Kex := (s.link p.val).kex; let suite : Nat := leNat (slice (kexBody b) 32 2); k.step = 1 ∧ k.rekey = false ∧ suite ≠ 1) ∧
    (∃ (s : State) (p : LinkIx) (b : List Byte), let k : Kex := (s.link p.val).kex; let suite : Nat := leNat (slice (kexBody b) 32 2); k.step = 1 ∧ k.rekey = false ∧ suite = 1 ∧ k.initiator = false) ∧
    (∃ (s : State) (p : LinkIx) (b : List Byte), let k : Kex := (s.link p.val).kex; let suite : Nat := leNat (slice (kexBody b) 32 2); k.step = 1 ∧ k.rekey = false ∧ suite = 1 ∧ k.initiator = true) ∧
    (∃ (s : State) (p : LinkIx) (b : List Byte), let k : Kex := (s.link p.val).kex; k.step ≠ 2) ∧
    (∃ (s : State) (p : LinkIx) (b : List Byte), let k : Kex := (s.link p.val).kex; let n : Nat := BitVec.toNat (b.getD 2 0); let inTurn : Bool := decide (1 ≤ n ∧ n ≤ 4 ∧ BitVec.toNat (b.getD 1 0) = k.frags.length); k.step = 2 ∧ inTurn = false) ∧
    (∃ (s : State) (p : LinkIx) (b : List Byte), let k : Kex := (s.link p.val).kex; let n : Nat := BitVec.toNat (b.getD 2 0); let inTurn : Bool := decide (1 ≤ n ∧ n ≤ 4 ∧ BitVec.toNat (b.getD 1 0) = k.frags.length); k.step = 2 ∧ inTurn = true ∧ k.frags.length + 1 < n) ∧
    (∃ (s : State) (p : LinkIx) (b : List Byte), let k : Kex := (s.link p.val).kex; let n : Nat := BitVec.toNat (b.getD 2 0); let inTurn : Bool := decide (1 ≤ n ∧ n ≤ 4 ∧ BitVec.toNat (b.getD 1 0) = k.frags.length); k.step = 2 ∧ inTurn = true ∧ n ≤ k.frags.length + 1) ∧
    (∃ (s : State) (p : LinkIx) (b : List Byte), let u : State := s.kexOrRekey p.val; let k : Kex := (u.link p.val).kex; k.step ≠ 3 ∨ k.initiator = false) ∧
    (∃ (s : State) (p : LinkIx) (b : List Byte), let u : State := s.kexOrRekey p.val; let k : Kex := (u.link p.val).kex; k.step = 3 ∧ k.initiator = true) ∧
    (∃ (s : State) (p : LinkIx) (b : List Byte), let k : Kex := (s.link p.val).kex; k.step ≠ 4 ∨ k.initiator = true) ∧
    (∃ (s : State) (p : LinkIx) (b : List Byte), let k : Kex := (s.link p.val).kex; k.step = 4 ∧ k.initiator = false ∧ k.secret = none) :=
  ⟨⟨State.reset, 0, [], by decide +kernel⟩,
   ⟨tKexAt 1 false, 0, [], by decide +kernel⟩,
   ⟨tKexAt 1 false, 0, List.replicate 48 0 ++ [1, 0], by decide +kernel⟩,
   ⟨tKexAt 1 true, 0, List.replicate 48 0 ++ [1, 0], by decide +kernel⟩,
   ⟨State.reset, 0, [], by decide +kernel⟩,
   ⟨tKexAt 2 true, 0, [], by decide +kernel⟩,
   ⟨tKexAt 2 true, 0, [2, 0, 3], by decide +kernel⟩,
   ⟨tKexAt 2 true, 0, [2, 0, 1], by decide +kernel⟩,
   ⟨State.reset, 0, [], by decide +kernel⟩,
   ⟨tUp, 0, [], by decide +kernel⟩,
   ⟨State.reset, 0, [], by decide +kernel⟩,
   ⟨(tStep 5).setLink 0 { kex := { step := 4 } }, 0, [], by decide +kernel⟩⟩

theorem wit_KeyExchange_2 :
    (∃ (s : State) (p : LinkIx) (b : List Byte) (d : List Byte), let k : Kex := (s.link p.val).kex; k.step = 4 ∧ k.initiator = false ∧ k.secret = some d) ∧
    (∃ (s : State) (p : LinkIx) (b : List Byte), let k : Kex := (s.link p.val).kex; k.derived = none) ∧
    (∃ (s : State) (p : LinkIx) (b : List Byte) (d : LinkKeys), let k : Kex := (s.link p.val).kex; k.derived = some d) ∧
    (∃ (s : State) (p : LinkIx) (b : List Byte), (s.link p.val).kex.step ≠ 0) ∧
    (∃ (s : State) (p : LinkIx) (b : List Byte), (s.link p.val).kex.step = 0) ∧
    (∃ (s : State) (p : PortIx) (v : Word), s.cfgOpen (rPortCtl p.val) = true ∧ BitVec.getLsbD v 0 = s.bit (rPortCtl p.val) 0 ∧ BitVec.getLsbD v 8 = false ∧ BitVec.getLsbD v 12 = true ∧ s.mayRekey p.val = true ∧ s.kexBarred = false) ∧
    (∃ (s : State) (p : PortIx) (v : Word), s.cfgOpen (rPortCtl p.val) = true ∧ BitVec.getLsbD v 0 = s.bit (rPortCtl p.val) 0 ∧ BitVec.getLsbD v 8 = false ∧ BitVec.getLsbD v 12 = true ∧ s.mayRekey p.val = true ∧ s.kexBarred = true) ∧
    (∃ (s : State) (p : PortIx) (v : Word), s.cfgOpen (rPortCtl p.val) = true ∧ BitVec.getLsbD v 0 = s.bit (rPortCtl p.val) 0 ∧ BitVec.getLsbD v 8 = false ∧ BitVec.getLsbD v 12 = true ∧ s.mayRekey p.val = false) ∧
    (∃ (s : State) (p : LinkIx), let due : Bool := decide (2 ^ min 47 (max 20 (s.fld (rPortKey p.val) 13 8)) ≤ (s.link p.val).next); due = true ∧ s.mayRekey p.val = true ∧ s.kexBarred = false) ∧
    (∃ (s : State) (p : LinkIx), let due : Bool := decide (2 ^ min 47 (max 20 (s.fld (rPortKey p.val) 13 8)) ≤ (s.link p.val).next); due = true ∧ s.mayRekey p.val = true ∧ s.kexBarred = true) ∧
    (∃ (s : State) (p : LinkIx), let due : Bool := decide (2 ^ min 47 (max 20 (s.fld (rPortKey p.val) 13 8)) ≤ (s.link p.val).next); due = false ∨ s.mayRekey p.val = false) :=
  ⟨⟨(tStep 5).setLink 0 { kex := { step := 4, secret := some [] } }, 0, [], [], by decide +kernel⟩,
   ⟨State.reset, 0, [], by decide +kernel⟩,
   ⟨(tStep 5).setLink 0 { kex := { step := 6, sentFinish := true, derived := some { keyIR := 0, keyRI := 0, saltIR := 0, saltRI := 0, confirm := 0 } } }, 0, [], { keyIR := 0, keyRI := 0, saltIR := 0, saltRI := 0, confirm := 0 }, by decide +kernel⟩,
   ⟨(tStep 5).setLink 0 { kex := { step := 4 } }, 0, [], by decide +kernel⟩,
   ⟨State.reset, 0, [], by decide +kernel⟩,
   ⟨tUp, 0, 0x1001, by decide +kernel⟩,
   ⟨tUp.setBit rSecStat 6 true, 0, 0x1001, by decide +kernel⟩,
   ⟨State.reset, 0, 4096, by decide +kernel⟩,
   ⟨tUp.setLink 0 { tUp.link 0 with next := 2 ^ 40 }, 0, by decide +kernel⟩,
   ⟨(tUp.setBit rSecStat 6 true).setLink 0 { tUp.link 0 with next := 2 ^ 40 }, 0, by decide +kernel⟩,
   ⟨State.reset, 0, by decide +kernel⟩⟩

theorem wit_TraverseCommands_1 :
    (∃ (s : State) (p : Packet), s.travDoorStatus 1 p ≠ stOK) ∧
    (∃ (s : State) (p : Packet) (n : Nat), s.travDoorStatus 1 p = stOK ∧ s.parcelOf p.job.toNat = some n ∧ (s.travRoom n = false ∨ s.doorWaits 0 p = true)) ∧
    (∃ (s : State) (p : Packet) (n : Nat) (st : Status) (detail : Nat), s.travOpen 1 n p = true ∧ s.startFailure n p = some (st, detail)) ∧
    (∃ (s : State) (p : Packet), s.travDoorStatus 2 p ≠ stOK) ∧
    (∃ (s : State) (p : Packet) (n : Nat), s.travDoorStatus 2 p = stOK ∧ s.parcelOf p.job.toNat = some n ∧ (s.travRoom n = false ∨ s.doorWaits 0 p = true)) ∧
    (∃ (s : State) (p : Packet) (n : Nat) (st : Status) (detail : Nat), s.travOpen 2 n p = true ∧ s.stopFailure n p = some (st, detail)) ∧
    (∃ (s : State) (p : Packet) (n : Nat) (m : Nat), let d : List Word := descOf (withOp 1 p); let legs : List (List Word) := s.progLegs d; s.travOpen 1 n p = true ∧ s.startFailure n p = none ∧ m ∈ s.legMembers (legs.getD 0 [])) ∧
    (∃ (s : State) (p : Packet) (n : Nat) (x : Trav), let d : List Word := descOf (withOp 2 p); let k : Nat := wbits d 1 3 0; s.travOpen 2 n p = true ∧ s.stopFailure n p = none ∧ s.trav' k = some x ∧ x.state < 3) :=
  ⟨⟨State.reset, tTravDesc 1 0 0, by decide +kernel⟩,
   ⟨({ tTravOn with trav := { tTravOn.trav with recs := (List.range 64).map (fun k => { id := k, parcel := 0, tag := 0, stake := none }) } }), tTravDesc 1 0 0, (({ tTravOn with trav := { tTravOn.trav with recs := (List.range 64).map (fun k => { id := k, parcel := 0, tag := 0, stake := none }) } } : State).parcelOf (tTravDesc 1 0 0 : Packet).job.toNat).get (by decide +kernel), by decide +kernel⟩,
   ⟨tTravAt (tTrav 1), tTravDesc 1 0 0, 0, (((tTravAt (tTrav 1) : State).startFailure (0 : Nat) (tTravDesc 1 0 0 : Packet)).get (by decide +kernel)).fst, (((tTravAt (tTrav 1) : State).startFailure (0 : Nat) (tTravDesc 1 0 0 : Packet)).get (by decide +kernel)).snd, by decide +kernel⟩,
   ⟨State.reset, tTravDesc 1 0 0, by decide +kernel⟩,
   ⟨({ tTravOn with trav := { tTravOn.trav with recs := (List.range 64).map (fun k => { id := k, parcel := 0, tag := 0, stake := none }) } }), tTravDesc 1 0 0, (({ tTravOn with trav := { tTravOn.trav with recs := (List.range 64).map (fun k => { id := k, parcel := 0, tag := 0, stake := none }) } } : State).parcelOf (tTravDesc 1 0 0 : Packet).job.toNat).get (by decide +kernel), by decide +kernel⟩,
   ⟨tTravOn.setBit rSecStat 4 true, tTravDesc 1 0 0, 0, (((tTravOn.setBit rSecStat 4 true : State).stopFailure (0 : Nat) (tTravDesc 1 0 0 : Packet)).get (by decide +kernel)).fst, (((tTravOn.setBit rSecStat 4 true : State).stopFailure (0 : Nat) (tTravDesc 1 0 0 : Packet)).get (by decide +kernel)).snd, by decide +kernel⟩,
   ⟨tTravOn, tTravDesc 1 0 0, 0, 1, by decide +kernel⟩,
   ⟨tTravAt (tTrav 1), tTravDesc 1 0 0, 0, tTrav 1, by decide +kernel⟩⟩

theorem wit_TraverseCommands_2 :
    (∃ (s : State) (p : Packet) (n : Nat) (x : Trav), let d : List Word := descOf (withOp 2 p); let k : Nat := wbits d 1 3 0; s.travOpen 2 n p = true ∧ s.stopFailure n p = none ∧ s.trav' k = some x ∧ 3 ≤ x.state) ∧
    (∃ (s : State) (p : Packet), s.benchOk (bmkJob p) (bmkStep p) = true) ∧
    (∃ (s : State) (p : Packet), s.benchOk (bmkJob p) (bmkStep p) = false) ∧
    (∃ (s : State) (v : Word), s.cfgOpen rTrvBench = false) ∧
    (∃ (s : State) (v : Word), s.cfgOpen rTrvBench = true ∧ BitVec.getLsbD v 63 = false) ∧
    (∃ (s : State) (v : Word) (i : Nat), let job : Nat := nbits (BitVec.toNat v) 15 0; let step : Nat := nbits (BitVec.toNat v) 31 16; s.cfgOpen rTrvBench = true ∧ BitVec.getLsbD v 63 = true ∧ s.benchOk job step = true ∧ BitVec.getLsbD v 32 = true ∧ i < s.cols ∧ i ≠ s.col ∧ s.bit rTrvBenchMask i = true) ∧
    (∃ (s : State) (v : Word), let job : Nat := nbits (BitVec.toNat v) 15 0; let step : Nat := nbits (BitVec.toNat v) 31 16; s.cfgOpen rTrvBench = true ∧ BitVec.getLsbD v 63 = true ∧ s.benchOk job step = false) :=
  ⟨⟨tTravAt (tTrav 3), tTravDesc 1 0 0, 0, tTrav 3, by decide +kernel⟩,
   ⟨({ tTravOn with trav := { tTravOn.trav with recs := (List.range 64).map (fun k => { id := k, parcel := 0, tag := 0, stake := none }) } }), { payload := leBytes 8 0x50000 }, by decide +kernel⟩,
   ⟨State.reset, tTravDesc 1 0 0, by decide +kernel⟩,
   ⟨tTravOn.setBit rSecStat 4 true, 0x8000000100010000, by decide +kernel⟩,
   ⟨State.reset, 0x100050000, by decide +kernel⟩,
   ⟨(tTravOn.setReg rTrvBenchMask 2), 0x8000000100010000, 1, by decide +kernel⟩,
   ⟨State.reset, 0x8000000100010000, by decide +kernel⟩⟩

theorem wit_TraverseLegs_1 :
    (∃ (s : State) (k : Fin 16) (l : BitVec 12) (i : Fin 32), s.trav' k.val = none) ∧
    (∃ (s : State) (k : Fin 16) (x : Trav), s.trav' k.val = some x ∧ s.mayLeaveLeg x = false) ∧
    (∃ (s : State) (k : Fin 16) (x : Trav) (i : Nat), let fill : Option RaFill := if legRa x.cur = true then Option.filter (fun f => !f.direct) (x.fillOf x.gidx) else none; s.trav' k.val = some x ∧ s.mayLeaveLeg x = true ∧ s.twinOp 2 (BitVec.ofNat 32 k.val) = none ∧ s.legOpen x = true ∧ x.count ≤ 4096 ∧ fill = none ∧ legT2 x.cur = false ∧ i < legPages x.cur) ∧
    (∃ (s : State) (k : Fin 16) (x : Trav) (i : Nat), let fill : Option RaFill := if legRa x.cur = true then Option.filter (fun f => !f.direct) (x.fillOf x.gidx) else none; s.trav' k.val = some x ∧ s.mayLeaveLeg x = true ∧ s.twinOp 2 (BitVec.ofNat 32 k.val) = none ∧ s.legOpen x = true ∧ x.count ≤ 4096 ∧ fill = none ∧ legT2 x.cur = true ∧ s.bit rTlStat 0 = true ∧ s.legOthers x ≠ [] ∧ i < legPages x.cur) ∧
    (∃ (s : State) (k : Fin 16) (x : Trav) (i : Nat), let fill : Option RaFill := if legRa x.cur = true then Option.filter (fun f => !f.direct) (x.fillOf x.gidx) else none; s.trav' k.val = some x ∧ s.mayLeaveLeg x = true ∧ s.twinOp 2 (BitVec.ofNat 32 k.val) = none ∧ s.legOpen x = true ∧ x.count ≤ 4096 ∧ fill = none ∧ legT2 x.cur = true ∧ s.bit rTlStat 0 = false ∧ i < legPages x.cur) ∧
    (∃ (s : State) (k : Fin 16) (x : Trav) (f : RaFill) (i : Nat), let fill : Option RaFill := if legRa x.cur = true then Option.filter (fun f => !f.direct) (x.fillOf x.gidx) else none; s.trav' k.val = some x ∧ s.mayLeaveLeg x = true ∧ s.twinOp 2 (BitVec.ofNat 32 k.val) = none ∧ s.legOpen x = true ∧ x.count ≤ 4096 ∧ fill = some f ∧ f.bad = [] ∧ s.legOthers x ≠ [] ∧ i < legPages x.cur ∧ s.anyPoison (s.ringAt x f i) 4096 = false ∧ s.ringAt x f i % 4096 = 0) ∧
    (∃ (s : State) (p : Packet) (i : LegInfo), p.status.toNat < 12 ∧ s.legOver p i = true ∧ nbits (trvW p) 63 32 = 0 ∧ p.src.toNat ≠ s.ix) ∧
    (∃ (s : State) (p : Packet) (i : LegInfo), p.status.toNat < 12 ∧ s.legOver p i = true ∧ nbits (trvW p) 63 32 ≠ 0) ∧
    (∃ (s : State) (p : Packet) (i : LegInfo) (b : Nat), let expand : Bool := nbits (trvW p) 85 84 % 4 == 2; p.status.toNat < 12 ∧ s.legOver p i = false ∧ ((s.trav.legs.any fun x => sameLeg p i x || x.id == s.trav.nextLeg) = false) ∧ expand = false ∧ s.jobDatum p.job = some b) ∧
    (∃ (s : State) (p : Packet) (i : LegInfo), let expand : Bool := nbits (trvW p) 85 84 % 4 == 2; p.status.toNat < 12 ∧ s.legOver p i = false ∧ ((s.trav.legs.any fun x => sameLeg p i x || x.id == s.trav.nextLeg) = false) ∧ expand = false ∧ s.jobDatum p.job = none) ∧
    (∃ (s : State) (p : Packet) (i : LegInfo), let expand : Bool := nbits (trvW p) 85 84 % 4 == 2; p.status.toNat < 12 ∧ s.legOver p i = false ∧ ((s.trav.legs.any fun x => sameLeg p i x || x.id == s.trav.nextLeg) = false) ∧ expand = true ∧ p.payload.length < i.bytes) :=
  ⟨⟨tTravAt tT2Trav, 1, 0, 1, by decide +kernel⟩,
   ⟨tTravAt { tTrav 4 with gidx := 0 }, 0, ((tTravAt { tTrav 4 with gidx := 0 } : State).trav' ↑(0 : Fin 16)).get (by decide +kernel), by decide +kernel⟩,
   ⟨tTravAt (tTrav 2), 0, ((tTravAt (tTrav 2) : State).trav' ↑(0 : Fin 16)).get (by decide +kernel), 0, by decide +kernel⟩,
   ⟨(tTravAt tT2Trav).setBit rTlStat 0 true, 0, (((tTravAt tT2Trav).setBit rTlStat 0 true : State).trav' ↑(0 : Fin 16)).get (by decide +kernel), 0, by decide +kernel⟩,
   ⟨tTravAt tT2Trav, 0, ((tTravAt tT2Trav : State).trav' ↑(0 : Fin 16)).get (by decide +kernel), 0, by decide +kernel⟩,
   ⟨tTravAt tRaTrav, 0, tRaTrav, { gidx := 0, complete := true }, 0, by decide +kernel⟩,
   ⟨{ tGranted with trav := { tGranted.trav with doneLegs := [{ job := 0, trav := 0, stake := 3, leg := 0, pass := 0, step := 4 }] } }, tTrvd, tLegInfo, by decide +kernel⟩,
   ⟨{ tGranted with trav := { tGranted.trav with doneLegs := [{ job := 0, trav := 0, stake := 3, leg := 0, pass := 0, step := 4 }] } }, { tTrvd with seqx := some (.trv (travSeqx 0 0 0 64 4 0 0 9)) }, tLegInfo, by decide +kernel⟩,
   ⟨tTravAt tT2Trav, tTrvd, tLegInfo, ((tTravAt tT2Trav : State).jobDatum (tTrvd : Packet).job).get (by decide +kernel), by decide +kernel⟩,
   ⟨State.reset.setBit rSecStat 4 true, tTrvd, tLegInfo, by decide +kernel⟩,
   ⟨tTravAt tT2Trav, tCoded 48, tLegInfo, by decide +kernel⟩⟩

theorem wit_TraverseLegs_2 :
    (∃ (s : State) (p : Packet) (i : LegInfo) (b : Nat) (j : Nat) (bs : List Nat), let expand : Bool := nbits (trvW p) 85 84 % 4 == 2; p.status.toNat < 12 ∧ s.legOver p i = false ∧ ((s.trav.legs.any fun x => sameLeg p i x || x.id == s.trav.nextLeg) = false) ∧ expand = true ∧ i.bytes ≤ p.payload.length ∧ s.jobDatum p.job = some b ∧ (xcbStream i.blocks p.payload)[j]?.bind Except.toOption = some bs ∧ trvdStatus p = stOK) ∧
    (∃ (s : State) (p : Packet) (i : LegInfo) (x : DestLeg), p.status.toNat < 12 ∧ s.legOver p i = false ∧ List.find? (sameLeg p i) s.trav.legs = some x ∧ s.destLeg x.id = some x ∧ (x.trailer = true ∨ x.info.bytes ≤ x.got)) ∧
    (∃ (s : State) (p : Packet) (i : LegInfo) (x : DestLeg) (b : Nat), p.status.toNat < 12 ∧ s.legOver p i = false ∧ List.find? (sameLeg p i) s.trav.legs = some x ∧ s.destLeg x.id = some x ∧ x.trailer = false ∧ x.got < x.info.bytes ∧ x.comp ≠ 2 ∧ s.jobDatum p.job = some b) ∧
    (∃ (s : State) (k : Nat) (d : Nat), ∀ (x : DestLeg), s.trav.legs[k]? = some x → x.trailer = true ∨ x.out ≠ 0 ∨ x.got < x.info.bytes) ∧
    (∃ (s : State) (k : Nat) (d : Nat) (x : DestLeg) (b : Nat), s.trav.legs[k]? = some x ∧ x.trailer = false ∧ x.out = 0 ∧ x.info.bytes ≤ x.got ∧ s.jobDatum x.job = some b) ∧
    (∃ (s : State) (k : Nat) (d : Nat) (x : DestLeg), s.trav.legs[k]? = some x ∧ x.trailer = false ∧ x.out = 0 ∧ x.info.bytes ≤ x.got ∧ s.jobDatum x.job = none ∧ x.sender ≠ s.ix) ∧
    (∃ (s : State) (p : Packet), let k : Nat := nbits (trvW p) 3 0; let m : Nat := p.src.toNat; p.status.toNat < 12 ∧ (∀ (x : Trav), s.trav' k = some x → s.reports x (trvW p) m = false)) ∧
    (∃ (s : State) (p : Packet) (x : Trav), let k : Nat := nbits (trvW p) 3 0; let m : Nat := p.src.toNat; let after : Trav → Trav := fun x =>   { x with reported := x.reported ++ [m] }; p.status.toNat < 12 ∧ s.trav' k = some x ∧ s.reports x (trvW p) m = true ∧ s.legOpen (after x) = true) ∧
    (∃ (s : State) (p : Packet) (x : Trav), let k : Nat := nbits (trvW p) 3 0; let m : Nat := p.src.toNat; let after : Trav → Trav := fun x =>   { x with reported := x.reported ++ [m] }; p.status.toNat < 12 ∧ s.trav' k = some x ∧ s.reports x (trvW p) m = true ∧ s.legOpen (after x) = false ∧ x.goesOn = true) ∧
    (∃ (s : State) (p : Packet) (x : Trav), let k : Nat := nbits (trvW p) 3 0; let m : Nat := p.src.toNat; let after : Trav → Trav := fun x =>   { x with reported := x.reported ++ [m] }; p.status.toNat < 12 ∧ s.trav' k = some x ∧ s.reports x (trvW p) m = true ∧ s.legOpen (after x) = false ∧ x.goesOn = false) ∧
    (∃ (s : State) (k : Fin 16) (x : Trav), s.trav' k.val = some x ∧ x.nextFill = none) :=
  ⟨⟨tTravAt tT2Trav, tCoded 48, tCodedInfo, ((tTravAt tT2Trav : State).jobDatum (tCoded 48 : Packet).job).get (by decide +kernel), 0, ((xcbStream (tCodedInfo : LegInfo).blocks (tCoded 48 : Packet).payload)[(0 : Nat)]?.bind Except.toOption).get (by decide +kernel), by decide +kernel⟩,
   ⟨{ tDest tDestLeg with trav := { (tDest tDestLeg).trav with steps := [(0, 4)] } }, tTrvd, tLegInfo, (List.find? (sameLeg (tTrvd : Packet) (tLegInfo : LegInfo)) ({ tDest tDestLeg with trav := { (tDest tDestLeg).trav with steps := [(0, 4)] } } : State).trav.legs).get (by decide +kernel), by decide +kernel⟩,
   ⟨tDest { tDestLeg with got := 0 }, tTrvd, tLegInfo, (List.find? (sameLeg (tTrvd : Packet) (tLegInfo : LegInfo)) (tDest { tDestLeg with got := 0 } : State).trav.legs).get (by decide +kernel), ((tDest { tDestLeg with got := 0 } : State).jobDatum (tTrvd : Packet).job).get (by decide +kernel), by decide +kernel⟩,
   ⟨tTravAt tT2Trav, 0, 0, by decide +kernel⟩,
   ⟨{ tDest tDestLeg with trav := { (tDest tDestLeg).trav with steps := [(0, 4)] } }, 0, 0, ({ tDest tDestLeg with trav := { (tDest tDestLeg).trav with steps := [(0, 4)] } } : State).trav.legs[(0 : Nat)]?.get (by decide +kernel), (({ tDest tDestLeg with trav := { (tDest tDestLeg).trav with steps := [(0, 4)] } } : State).jobDatum (({ tDest tDestLeg with trav := { (tDest tDestLeg).trav with steps := [(0, 4)] } } : State).trav.legs[(0 : Nat)]?.get (by decide +kernel)).job).get (by decide +kernel), by decide +kernel⟩,
   ⟨{ tDest tDestLeg with trav := { (tDest { tDestLeg with job := 5 }).trav with steps := [(5, 4)] } }, 0, 0, ({ tDest tDestLeg with trav := { (tDest { tDestLeg with job := 5 }).trav with steps := [(5, 4)] } } : State).trav.legs[(0 : Nat)]?.get (by decide +kernel), by decide +kernel⟩,
   ⟨tTravAt tT2Trav, tTrvd, by decide +kernel⟩,
   ⟨tTravAt { tTrav 3 with legs := [[0, 1, 0, 0x1000, 0x100000000, 6, 0, 0]] }, tTrvd, { tTrav 3 with legs := [[0, 1, 0, 0x1000, 0x100000000, 6, 0, 0]] }, by decide +kernel⟩,
   ⟨tTravAt (tTrav 3), tTrvd, tTrav 3, by decide +kernel⟩,
   ⟨tTravAt (tTrav 4), tTrvd, tTrav 4, by decide +kernel⟩,
   ⟨tTravAt tT2Trav, 0, ((tTravAt tT2Trav : State).trav' ↑(0 : Fin 16)).get (by decide +kernel), by decide +kernel⟩⟩

theorem wit_TraverseLegs_3 :
    (∃ (s : State) (k : Fin 16) (x : Trav) (g : Nat) (q : Nat), let l : List Word := x.entry g; let room : Bool := decide (x.ringUsed g + legBytes l ≤ wbits x.header 7 31 0); s.trav' k.val = some x ∧ x.nextFill = some (g, q) ∧ room = false) ∧
    (∃ (s : State) (k : Fin 16) (x : Trav) (g : Nat) (q : Nat) (i : Nat), let l : List Word := x.entry g; let room : Bool := decide (x.ringUsed g + legBytes l ≤ wbits x.header 7 31 0); s.trav' k.val = some x ∧ x.nextFill = some (g, q) ∧ room = true ∧ legT2 l = false ∧ i < legPages l) ∧
    (∃ (s : State) (k : Fin 16) (x : Trav) (g : Nat) (q : Nat), let l : List Word := x.entry g; let room : Bool := decide (x.ringUsed g + legBytes l ≤ wbits x.header 7 31 0); s.trav' k.val = some x ∧ x.nextFill = some (g, q) ∧ room = true ∧ legT2 l = true ∧ s.bit rTlStat 0 = false) ∧
    (∃ (s : State) (k : Fin 16) (x : Trav) (l : BitVec 12), s.trav' k.val = some x) ∧
    (∃ (s : State) (k : Fin 16) (x : Trav), let stalls : Bool := decide (wbits x.header 7 63 48 ≠ 0 ∧ x.state < 3) &&   !(((s.legMembers x.cur).all fun m => x.handed.contains m) && x.anchor.isSome); s.trav' k.val = some x ∧ stalls = true) ∧
    (∃ (s : State) (k : Fin 16) (x : Trav), let stalls : Bool := decide (wbits x.header 7 63 48 ≠ 0 ∧ x.state < 3) &&   !(((s.legMembers x.cur).all fun m => x.handed.contains m) && x.anchor.isSome); s.trav' k.val = some x ∧ stalls = false) ∧
    (∃ (s : State) (k : Fin 16) (x : Trav) (i : Fin 32), let m : Nat := if (wbits x.cur 5 32 32 == 1) = true then i.val * 32 + s.col else s.row * 32 + i.val; let fails : Bool := decide (3 ≤ x.state) && (s.legMembers x.cur).contains m && !x.reported.contains m; s.trav' k.val = some x ∧ fails = false) ∧
    (∃ (s : State) (k : Fin 16) (x : Trav) (i : Fin 32), let m : Nat := if (wbits x.cur 5 32 32 == 1) = true then i.val * 32 + s.col else s.row * 32 + i.val; let fails : Bool := decide (3 ≤ x.state) && (s.legMembers x.cur).contains m && !x.reported.contains m; let after : Trav := { x with reported := x.reported ++ [m] }; s.trav' k.val = some x ∧ fails = true ∧ s.legOpen after = true) ∧
    (∃ (s : State) (k : Fin 16) (x : Trav) (i : Fin 32), let m : Nat := if (wbits x.cur 5 32 32 == 1) = true then i.val * 32 + s.col else s.row * 32 + i.val; let fails : Bool := decide (3 ≤ x.state) && (s.legMembers x.cur).contains m && !x.reported.contains m; let after : Trav := { x with reported := x.reported ++ [m] }; s.trav' k.val = some x ∧ fails = true ∧ s.legOpen after = false ∧ x.goesOn = true) ∧
    (∃ (s : State) (k : Fin 16) (x : Trav) (i : Fin 32), let m : Nat := if (wbits x.cur 5 32 32 == 1) = true then i.val * 32 + s.col else s.row * 32 + i.val; let fails : Bool := decide (3 ≤ x.state) && (s.legMembers x.cur).contains m && !x.reported.contains m; let after : Trav := { x with reported := x.reported ++ [m] }; s.trav' k.val = some x ∧ fails = true ∧ s.legOpen after = false ∧ x.goesOn = false) :=
  ⟨⟨tTravAt { tTrav 1 with header := tRaHeader, legs := [[0x10, 1, 0, 0x2000, 0x100000000, 2, 0, 0]] }, 0, ((tTravAt { tTrav 1 with header := tRaHeader, legs := [[0x10, 1, 0, 0x2000, 0x100000000, 2, 0, 0]] } : State).trav' ↑(0 : Fin 16)).get (by decide +kernel), ((((tTravAt { tTrav 1 with header := tRaHeader, legs := [[0x10, 1, 0, 0x2000, 0x100000000, 2, 0, 0]] } : State).trav' ↑(0 : Fin 16)).get (by decide +kernel)).nextFill.get (by decide +kernel)).fst, ((((tTravAt { tTrav 1 with header := tRaHeader, legs := [[0x10, 1, 0, 0x2000, 0x100000000, 2, 0, 0]] } : State).trav' ↑(0 : Fin 16)).get (by decide +kernel)).nextFill.get (by decide +kernel)).snd, by decide +kernel⟩,
   ⟨tTravAt tRaTrav, 0, ((tTravAt tRaTrav : State).trav' ↑(0 : Fin 16)).get (by decide +kernel), ((((tTravAt tRaTrav : State).trav' ↑(0 : Fin 16)).get (by decide +kernel)).nextFill.get (by decide +kernel)).fst, ((((tTravAt tRaTrav : State).trav' ↑(0 : Fin 16)).get (by decide +kernel)).nextFill.get (by decide +kernel)).snd, 0, by decide +kernel⟩,
   ⟨tTravAt { tTrav 1 with header := tRaHeader, legs := [[0x11, 5, 0, 0x1000, 0x100000000, 2, 0, 0]] }, 0, ((tTravAt { tTrav 1 with header := tRaHeader, legs := [[0x11, 5, 0, 0x1000, 0x100000000, 2, 0, 0]] } : State).trav' ↑(0 : Fin 16)).get (by decide +kernel), ((((tTravAt { tTrav 1 with header := tRaHeader, legs := [[0x11, 5, 0, 0x1000, 0x100000000, 2, 0, 0]] } : State).trav' ↑(0 : Fin 16)).get (by decide +kernel)).nextFill.get (by decide +kernel)).fst, ((((tTravAt { tTrav 1 with header := tRaHeader, legs := [[0x11, 5, 0, 0x1000, 0x100000000, 2, 0, 0]] } : State).trav' ↑(0 : Fin 16)).get (by decide +kernel)).nextFill.get (by decide +kernel)).snd, by decide +kernel⟩,
   ⟨tTravAt tT2Trav, 0, ((tTravAt tT2Trav : State).trav' ↑(0 : Fin 16)).get (by decide +kernel), 0, by decide +kernel⟩,
   ⟨tTravAt { tTrav 1 with anchor := none, header := [0, 0, 0, 0x100001000, 0, 0, 0, 0x1000000000000] }, 0, ((tTravAt { tTrav 1 with anchor := none, header := [0, 0, 0, 0x100001000, 0, 0, 0, 0x1000000000000] } : State).trav' ↑(0 : Fin 16)).get (by decide +kernel), by decide +kernel⟩,
   ⟨tTravAt tT2Trav, 0, ((tTravAt tT2Trav : State).trav' ↑(0 : Fin 16)).get (by decide +kernel), by decide +kernel⟩,
   ⟨tTravAt tT2Trav, 0, ((tTravAt tT2Trav : State).trav' ↑(0 : Fin 16)).get (by decide +kernel), 1, by decide +kernel⟩,
   ⟨tTravAt { tTrav 3 with legs := [[0, 1, 0, 0x1000, 0x100000000, 6, 0, 0]] }, 0, ((tTravAt { tTrav 3 with legs := [[0, 1, 0, 0x1000, 0x100000000, 6, 0, 0]] } : State).trav' ↑(0 : Fin 16)).get (by decide +kernel), 1, by decide +kernel⟩,
   ⟨tTravAt (tTrav 3), 0, ((tTravAt (tTrav 3) : State).trav' ↑(0 : Fin 16)).get (by decide +kernel), 1, by decide +kernel⟩,
   ⟨tTravAt { tTrav 4 with gidx := 0 }, 0, ((tTravAt { tTrav 4 with gidx := 0 } : State).trav' ↑(0 : Fin 16)).get (by decide +kernel), 1, by decide +kernel⟩⟩

theorem wit_CodingEngineAndStore_1 :
    (∃ (s : State) (v : Word), s.cfgOpen rXcCtl = false) ∧
    (∃ (s : State) (v : Word), s.cfgOpen rXcCtl = true ∧ (BitVec.getLsbD v 0 = false ∨ s.bit rXcStat 0 = true)) ∧
    (∃ (s : State) (v : Word), s.xcIdle v = true ∧ s.xcBad v = true) ∧
    (∃ (s : State) (v : Word), s.xcIdle v = true ∧ s.xcBad v = false ∧ s.xcBytes ≠ 0) ∧
    (∃ (s : State) (v : Word), s.xcIdle v = true ∧ s.xcBad v = false ∧ s.xcBytes = 0) ∧
    (∃ (s : State) (v : Word), BitVec.getLsbD v 63 = false) ∧
    (∃ (s : State) (v : Word), BitVec.getLsbD v 63 = true ∧ s.bit rMsCtl 61 = true) ∧
    (∃ (s : State) (v : Word) (op : Nat), (op = 0 ∨ 3 < op) ∧ s.msIdle v op = true) ∧
    (∃ (s : State) (x : XcRun), s.xc = some x ∧ x.ended = true ∧ x.verify = true) ∧
    (∃ (s : State), ∀ (x : XcRun), s.xc = some x → x.ended = false) ∧
    (∃ (s : State) (v : Word), s.msIdle v 1 = true) ∧
    (∃ (s : State) (v : Word), s.msIdle v 2 = true ∧ s.recov.restarting ≠ []) :=
  ⟨⟨State.reset.setBit rSecStat 4 true, 0x8000000000000001, by decide +kernel⟩,
   ⟨State.reset.setBit rMsCtl 61 true, 0x8000000000000002, by decide +kernel⟩,
   ⟨State.reset.setBit rMsCtl 61 true, 0x8000000000000001, by decide +kernel⟩,
   ⟨State.reset.setReg rXcLen 256, 0x8000000000000001, by decide +kernel⟩,
   ⟨State.reset.setBit rMsCtl 61 true, 0x8000000000000003, by decide +kernel⟩,
   ⟨State.reset.setBit rMsCtl 61 true, 1, by decide +kernel⟩,
   ⟨State.reset.setBit rMsCtl 61 true, 0x8000000000000001, by decide +kernel⟩,
   ⟨State.reset, 9223372036854775808, 0, by decide +kernel⟩,
   ⟨{ State.reset with xc := some { verify := true, ended := true, damaged := 2, first := some (1, 3) } }, ({ State.reset with xc := some { verify := true, ended := true, damaged := 2, first := some (1, 3) } } : State).xc.get (by decide +kernel), by decide +kernel⟩,
   ⟨State.reset.setBit rMsCtl 61 true, by decide +kernel⟩,
   ⟨State.reset, 0x8000000000000001, by decide +kernel⟩,
   ⟨{ State.reset with recov := { restarting := [0] } }, 0x8000000000000002, by decide +kernel⟩⟩

theorem wit_CodingEngineAndStore_2 :
    (∃ (s : State) (v : Word), s.msIdle v 2 = true ∧ s.recov.restarting = []) ∧
    (∃ (s : State) (v : Word), let g : Nat := s.fld rMsImg 55 0; let a : Nat := g % 2 ^ 46; let placed : Bool := decide (g / 2 ^ 46 = s.ix ∧ a + 33554432 ≤ t0End ∧ a % 4096 = 0); s.msIdle v 3 = true ∧ placed = false) ∧
    (∃ (s : State) (v : Word), let g : Nat := s.fld rMsImg 55 0; let a : Nat := g % 2 ^ 46; let placed : Bool := decide (g / 2 ^ 46 = s.ix ∧ a + 33554432 ≤ t0End ∧ a % 4096 = 0); s.msIdle v 3 = true ∧ placed = true) ∧
    (∃ (s : State) (ok : Bool) (c : MsCopy), s.boot.storing = some c ∧ s.storeAlone ∧ ok = false) ∧
    (∃ (s : State) (ok : Bool) (c : MsCopy), s.boot.storing = some c ∧ s.boot.imaging = false) ∧
    (∃ (s : State) (ok : Bool) (i : Nat), s.boot.imaging = true ∧ s.storeAlone ∧ i < 2) ∧
    (∃ (s : State) (ok : Bool), s.boot.imaging = true ∧ s.boot.storing = none) ∧
    (∃ (s : State) (r : SliceIx), s.cfgOpen (rHbmCtl r.val) = false) ∧
    (∃ (s : State) (r : SliceIx), s.cfgOpen (rHbmCtl r.val) = true ∧ s.recov.restarting ≠ []) ∧
    (∃ (s : State) (r : SliceIx), s.cfgOpen (rHbmCtl r.val) = true ∧ s.recov.restarting = [] ∧ s.bit (rCadCtl r.val) 0 = false) ∧
    (∃ (s : State) (r : SliceIx), s.cfgOpen (rHbmCtl r.val) = true ∧ s.recov.restarting = [] ∧ s.bit (rCadCtl r.val) 0 = true) :=
  ⟨⟨State.reset, 0x8000000000000002, by decide +kernel⟩,
   ⟨State.reset.setReg rMsImg 8, 0x8000000000000003, by decide +kernel⟩,
   ⟨State.reset, 0x8000000000000003, by decide +kernel⟩,
   ⟨{ State.reset with boot := { storing := some { gen := 4 } } }, false, ({ State.reset with boot := { storing := some { gen := 4 } } } : State).boot.storing.get (by decide +kernel), by decide +kernel, ⟨by decide +kernel, nofun⟩, by decide +kernel⟩,
   ⟨{ State.reset with boot := { storing := some { gen := 4 } } }, true, ({ State.reset with boot := { storing := some { gen := 4 } } } : State).boot.storing.get (by decide +kernel), by decide +kernel⟩,
   ⟨{ State.reset with boot := { imaging := true } }, true, 0, by decide +kernel, ⟨by decide +kernel, nofun⟩, by decide +kernel⟩,
   ⟨{ State.reset with boot := { imaging := true } }, true, by decide +kernel⟩,
   ⟨State.reset.setBit rSecStat 4 true, 1, by decide +kernel⟩,
   ⟨{ State.reset with recov := { restarting := [0] } }, 1, by decide +kernel⟩,
   ⟨State.reset.setBit rMsCtl 61 true, 1, by decide +kernel⟩,
   ⟨State.reset.setBit (rCadCtl 1) 0 true, 1, by decide +kernel⟩⟩

theorem wit_ActiveCopy :
    (∃ (s : State) (k : KatResult), s.atPhase 2 = true ∧ (s.boot.a.valid = true ∨ s.boot.b.valid = true)) ∧
    (∃ (s : State) (k : KatResult), s.atPhase 2 = true ∧ s.boot.a.valid = false ∧ s.boot.b.valid = false) :=
  ⟨⟨tPhase 2, tKat, by decide +kernel⟩,
   ⟨{ tPhase 2 with boot := { State.reset.boot with a := { magicOk := false }, b := { crcOk := false } } }, tKat, by decide +kernel⟩⟩

theorem wit_MessagesWaitForTheLink :
    (∃ (s : State) (j : Nat) (i : Nat), s.bit rBootStat 5 = false ∧ j < 32 ∧ s.bit (rIntPend j) i = true) ∧
    (∃ (s : State) (r : Raise), s.bit rBootStat 5 = false ∧ s.mgmt.raises.head? = some r) ∧
    (∃ (s : State) (j : Fin 32) (v : Word) (k : Nat) (i : Nat), s.bit rBootStat 5 = false ∧ k < 32) :=
  ⟨⟨State.reset.setReg (rIntPend 0) 1, 0, 0, by decide +kernel⟩,
   ⟨tRaise.setBit rBootStat 5 false, (tRaise.setBit rBootStat 5 false : State).mgmt.raises.head?.get (by decide +kernel), by decide +kernel⟩,
   ⟨State.reset, 0, 0, 0, 0, by decide +kernel⟩⟩

theorem wit_ManagementEvents_1 :
    (∃ (s : State), s.mgmt.raises = []) ∧
    (∃ (s : State) (r : Raise) (l : List Raise) (v : Nat), s.mgmt.raises = r :: l ∧ v = r.vector % 2048 ∧ s.vectorBit rIntPend v = true) ∧
    (∃ (s : State) (r : Raise) (l : List Raise) (v : Nat), s.mgmt.raises = r :: l ∧ v = r.vector % 2048 ∧ s.vectorBit rIntPend v = false ∧ (s.vectorBit rIntMask v = true ∨ s.irqOpen = false)) ∧
    (∃ (s : State) (r : Raise) (l : List Raise) (v : Nat), s.mgmt.raises = r :: l ∧ v = r.vector % 2048 ∧ s.vectorBit rIntPend v = false ∧ s.vectorBit rIntMask v = false ∧ s.irqOpen = true) ∧
    (∃ (s : State) (j : Fin 32) (v : Word), s.cfgOpen (rIntPend j.val) = false) ∧
    (∃ (s : State) (j : Fin 32) (v : Word) (i : Nat), s.cfgOpen (rIntPend j.val) = true ∧ i < 64) ∧
    (∃ (s : State) (j : Fin 32) (v : Word) (c : Nat), s.cfgOpen (rIntPend j.val) = true ∧ c ≠ rIntPend j.val) ∧
    (∃ (s : State) (j : Fin 32) (v : Word), s.cfgOpen (rIntMask j.val) = false) ∧
    (∃ (s : State) (j : Fin 32) (v : Word) (c : Nat), s.cfgOpen (rIntMask j.val) = true ∧ s.irqOpen = false ∧ c ≠ rIntMask j.val) ∧
    (∃ (s : State) (j : Fin 32) (v : Word) (i : Nat), s.cfgOpen (rIntMask j.val) = true ∧ s.irqOpen = true ∧ i < 64) ∧
    (∃ (s : State) (p : BitVec 12) (v : Word), pageBase p = none) ∧
    (∃ (s : State) (p : BitVec 12) (v : Word) (b : Nat), pageBase p = some b ∧ s.cfgOpen (rPgErrSum b) = false) :=
  ⟨⟨State.reset, by decide +kernel⟩,
   ⟨tRaise.setBit (rIntPend 0) 5 true, (tRaise.setBit (rIntPend 0) 5 true : State).mgmt.raises.head (by decide +kernel), (tRaise.setBit (rIntPend 0) 5 true : State).mgmt.raises.tail, ((tRaise.setBit (rIntPend 0) 5 true : State).mgmt.raises.head (by decide +kernel)).vector % 2048, by decide +kernel⟩,
   ⟨(tRaise.setReg (rIntMask 0) 0xFFFFFFFFFFFFFFFF), ((tRaise.setReg (rIntMask 0) 0xFFFFFFFFFFFFFFFF) : State).mgmt.raises.head (by decide +kernel), ((tRaise.setReg (rIntMask 0) 0xFFFFFFFFFFFFFFFF) : State).mgmt.raises.tail, (((tRaise.setReg (rIntMask 0) 0xFFFFFFFFFFFFFFFF) : State).mgmt.raises.head (by decide +kernel)).vector % 2048, by decide +kernel⟩,
   ⟨tRaise, (tRaise : State).mgmt.raises.head (by decide +kernel), (tRaise : State).mgmt.raises.tail, ((tRaise : State).mgmt.raises.head (by decide +kernel)).vector % 2048, by decide +kernel⟩,
   ⟨State.reset.setBit rSecStat 4 true, 0, 0, by decide +kernel⟩,
   ⟨State.reset, 0, 0, 0, by decide +kernel⟩,
   ⟨State.reset, 0, 0, 0, by decide +kernel⟩,
   ⟨State.reset.setBit rSecStat 4 true, 0, 0, by decide +kernel⟩,
   ⟨State.reset, 0, 0, 0, by decide +kernel⟩,
   ⟨(tRaise.setReg (rIntMask 0) 0xFFFFFFFFFFFFFFFF), 0, 0, 0, by decide +kernel⟩,
   ⟨State.reset, 5, 0, by decide +kernel⟩,
   ⟨State.reset.setBit rSecStat 4 true, 0x100, 0, (pageBase (0x100 : BitVec 12)).get (by decide +kernel), by decide +kernel⟩⟩

theorem wit_ManagementEvents_2 :
    (∃ (s : State) (p : BitVec 12) (v : Word) (b : Nat) (i : Nat), pageBase p = some b ∧ s.cfgOpen (rPgErrSum b) = true ∧ i < 64) ∧
    (∃ (s : State) (p : BitVec 12) (v : Word) (b : Nat) (c : Nat), pageBase p = some b ∧ s.cfgOpen (rPgErrSum b) = true ∧ c ≠ rPgErrSum b) ∧
    (∃ (s : State) (p : BitVec 12) (b : Nat), pageBase p = some b ∧ s.cfgOpen (rPgCtl b) = false) ∧
    (∃ (s : State) (p : BitVec 12) (b : Nat) (k : Nat), pageBase p = some b ∧ s.cfgOpen (rPgCtl b) = true ∧ k < 24) ∧
    (∃ (s : State) (p : BitVec 12) (b : Nat) (c : Nat), pageBase p = some b ∧ s.cfgOpen (rPgCtl b) = true ∧ (c < rPgCnt b 0 ∨ rPgCnt b 23 < c)) ∧
    (∃ (s : State) (r : SliceIx) (w : Nat) (q : Nat), q ≠ r.val) ∧
    (∃ (s : State) (r : SliceIx) (w : Nat) (c : Nat), c ≠ rChipPwr) ∧
    (∃ (s : State) (g : Nat) (n : Nat), (g =   if s.overLimit = true then max 18 (s.tileFreq 0 - 1)   else if s.mgmt.belowAll = true then min 35 (s.tileFreq 0 + 1) else s.tileFreq 0) ∧ n < 16) ∧
    (∃ (s : State), s.bit rChipPwr 29 = false ∨ s.overLimit = false) ∧
    (∃ (s : State), s.bit rChipPwr 29 = true ∧ s.overLimit = true) ∧
    (∃ (s : State) (l : List (BitVec 8)) (r : Nat), r < 4) ∧
    (∃ (s : State) (l : List (BitVec 8)) (c : Nat), c ≠ rChipTemp) :=
  ⟨⟨State.reset, 0x100, 0, (pageBase (0x100 : BitVec 12)).get (by decide +kernel), 0, by decide +kernel⟩,
   ⟨State.reset, 0x100, 0, (pageBase (0x100 : BitVec 12)).get (by decide +kernel), 0, by decide +kernel⟩,
   ⟨State.reset.setBit rSecStat 4 true, 0x100, (pageBase (0x100 : BitVec 12)).get (by decide +kernel), by decide +kernel⟩,
   ⟨State.reset, 0x100, (pageBase (0x100 : BitVec 12)).get (by decide +kernel), 0, by decide +kernel⟩,
   ⟨State.reset, 0x100, (pageBase (0x100 : BitVec 12)).get (by decide +kernel), 0, by decide +kernel⟩,
   ⟨State.reset, 0, 0, 1, by decide +kernel⟩,
   ⟨State.reset, 0, 0, 0, by decide +kernel⟩,
   ⟨State.reset, if (State.reset : State).overLimit = true then max 18 ((State.reset : State).tileFreq 0 - 1) else if (State.reset : State).mgmt.belowAll = true then min 35 ((State.reset : State).tileFreq 0 + 1) else (State.reset : State).tileFreq 0, 0, by decide +kernel⟩,
   ⟨State.reset, by decide +kernel⟩,
   ⟨(let s := State.reset.setBit rChipPwr 29 true; { s with mgmt := { s.mgmt with power := [(0, [2000])] } }), by decide +kernel⟩,
   ⟨State.reset, [60, 61, 62, 63], 0, by decide +kernel⟩,
   ⟨State.reset, [60, 61, 62, 63], 0, by decide +kernel⟩⟩

theorem wit_Resets_1 :
    (∃ (s : State) (r : SliceIx), s.mem.failed.contains r.val = true) ∧
    (∃ (s : State) (r : SliceIx) (a : Nat), s.mem.failed.contains r.val = false ∧ a < t0End ∧ t0Stack a = r.val) ∧
    (∃ (s : State) (k : BitVec 2), s.mgmt.coldRst = false ∧ s.mgmt.pwrOk = true) ∧
    (∃ (s : State) (k : BitVec 2), (s.mgmt.coldRst = true ∨ s.mgmt.pwrOk = false) ∧ s.mgmt.refLost = [] ∧ s.mgmt.thermtrip = false) ∧
    (∃ (s : State) (k : BitVec 2), (s.mgmt.coldRst = true ∨ s.mgmt.pwrOk = false) ∧ (s.mgmt.refLost ≠ [] ∨ s.mgmt.thermtrip = true)) ∧
    (∃ (s : State) (k : Nat), s.phase = 1 ∧ 0 < k ∧ k < 8) ∧
    (∃ (s : State), s.phase ≠ 1) ∧
    (∃ (s : State) (v : Word), s.cfgOpen rRstCtl = false) ∧
    (∃ (s : State) (v : Word), s.cfgOpen rRstCtl = true ∧ BitVec.getLsbD v 0 = true ∧ s.bit rBootStat 4 = false) ∧
    (∃ (s : State) (v : Word), s.cfgOpen rRstCtl = true ∧ BitVec.getLsbD v 0 = true ∧ s.bit rBootStat 4 = true) ∧
    (∃ (s : State) (v : Word), s.cfgOpen rRstCtl = true ∧ BitVec.getLsbD v 0 = false ∧ (s.bit rRstCtl 35 = true ∨ rstUnits v = [])) :=
  ⟨⟨{ State.reset with mem := { failed := [1] } }, 1, by decide +kernel⟩,
   ⟨State.reset, 0, 0, by decide +kernel⟩,
   ⟨{ tPhase 12 with mgmt := { coldRst := false, refLost := [1], thermtrip := true } }, 0, by decide +kernel⟩,
   ⟨State.reset, 0, by decide +kernel⟩,
   ⟨{ tPhase 12 with mgmt := { coldRst := true, refLost := [1], thermtrip := false } }, 0, by decide +kernel⟩,
   ⟨tPhase 1, 1, by decide +kernel⟩,
   ⟨State.reset, by decide +kernel⟩,
   ⟨State.reset.setBit rSecStat 4 true, 1, by decide +kernel⟩,
   ⟨State.reset, 1, by decide +kernel⟩,
   ⟨(tPhase 4).setBit rBootStat 4 true, 1, by decide +kernel⟩,
   ⟨State.reset, 0, by decide +kernel⟩⟩

theorem wit_Resets_2 :
    (∃ (s : State) (v : Word) (u : Nat), s.cfgOpen rRstCtl = true ∧ BitVec.getLsbD v 0 = false ∧ s.bit rRstCtl 35 = false ∧ rstUnits v ≠ [] ∧ u ∈ rstUnits v ∧ u < 16) ∧
    (∃ (s : State) (r : SliceIx), s.cfgOpen rRstCtl = false) ∧
    (∃ (s : State) (r : SliceIx), s.cfgOpen rRstCtl = true ∧ (s.bit rRstCtl 35 = true ∨ r.val = 0)) ∧
    (∃ (s : State) (r : SliceIx) (i : Nat), s.cfgOpen rRstCtl = true ∧ s.bit rRstCtl 35 = false ∧ r.val ≠ 0 ∧ i < 4) ∧
    (∃ (s : State) (n : BlockIx), s.cfgOpen rRstCtl = false) ∧
    (∃ (s : State) (n : BlockIx), s.cfgOpen rRstCtl = true ∧ s.bit rRstCtl 35 = true) ∧
    (∃ (s : State) (n : BlockIx), s.cfgOpen rRstCtl = true ∧ s.bit rRstCtl 35 = false) ∧
    (∃ (s : State), let free : Bool := s.mgmt.pwrOk && !s.mgmt.coldRst && !s.mgmt.thermtrip; s.mgmt.refLost ≠ [] ∧ free = true) ∧
    (∃ (s : State), let free : Bool := s.mgmt.pwrOk && !s.mgmt.coldRst && !s.mgmt.thermtrip; s.mgmt.refLost ≠ [] ∧ free = false) ∧
    (∃ (s : State) (v : Word), s.i3cReady = false ∨ v ≠ 1465011546 ∨ s.bit rBootStat 4 = true) ∧
    (∃ (s : State) (v : Word), s.i3cReady = true ∧ v = 1465011546 ∧ s.bit rBootStat 4 = false) :=
  ⟨⟨State.reset, 0x10000, (rstUnits (0x10000 : Word)).head (by decide +kernel), by decide +kernel⟩,
   ⟨State.reset.setBit rSecStat 4 true, 1, by decide +kernel⟩,
   ⟨State.reset, 0, by decide +kernel⟩,
   ⟨State.reset, 1, 0, by decide +kernel⟩,
   ⟨State.reset.setBit rSecStat 4 true, 3, by decide +kernel⟩,
   ⟨State.reset.setBit rRstCtl 35 true, 3, by decide +kernel⟩,
   ⟨State.reset, 3, by decide +kernel⟩,
   ⟨{ State.reset with mgmt := { coldRst := false, refLost := [1] } }, by decide +kernel⟩,
   ⟨{ tPhase 12 with mgmt := { coldRst := false, refLost := [1], thermtrip := true } }, by decide +kernel⟩,
   ⟨State.reset, 1, by decide +kernel⟩,
   ⟨{ tPhase 12 with mgmt := { coldRst := false, refLost := [1], thermtrip := true } }, 1465011546, by decide +kernel⟩⟩

theorem wit_FieldBooks_1 :
    (∃ (s : State) (b : BookIx), (s.book (bookNo b)).queue = []) ∧
    (∃ (s : State) (b : BookIx) (e : Rec) (l : List Rec) (c : Coal), let k : Book := s.book (bookNo b); (s.book (bookNo b)).queue = e :: l ∧ (List.find? (fun c => c.of e.cls e.source) k.open' = some c)) ∧
    (∃ (s : State) (b : BookIx) (e : Rec) (l : List Rec), let k : Book := s.book (bookNo b); (s.book (bookNo b)).queue = e :: l ∧ ((k.open'.any fun c => c.of e.cls e.source) = false) ∧ k.open'.length < bookEntries (bookNo b)) ∧
    (∃ (s : State) (b : BookIx) (e : Rec) (l : List Rec) (c : Coal) (o : List Coal), let k : Book := s.book (bookNo b); (s.book (bookNo b)).queue = e :: l ∧ ((k.open'.any fun c => c.of e.cls e.source) = false) ∧ k.open' = c :: o ∧ bookEntries (bookNo b) ≤ k.open'.length ∧ c.count = 0) ∧
    (∃ (s : State) (b : BookIx) (e : Rec) (l : List Rec) (c : Coal) (o : List Coal), let k : Book := s.book (bookNo b); (s.book (bookNo b)).queue = e :: l ∧ ((k.open'.any fun c => c.of e.cls e.source) = false) ∧ k.open' = c :: o ∧ bookEntries (bookNo b) ≤ k.open'.length ∧ c.count ≠ 0 ∧ s.unread (bookNo b) + 1 < bookCap (bookNo b)) ∧
    (∃ (s : State) (b : BookIx) (x : BitVec 8) (y : BitVec 16), let k : Book := s.book (bookNo b); (k.open'.any fun c => c.of x y) = false) ∧
    (∃ (s : State) (b : BookIx) (x : BitVec 8) (y : BitVec 16) (c : Coal), let k : Book := s.book (bookNo b); (List.find? (fun c => c.of x y) k.open' = some c) ∧ c.count = 0) ∧
    (∃ (s : State) (b : BookIx) (x : BitVec 8) (y : BitVec 16) (c : Coal), let k : Book := s.book (bookNo b); (List.find? (fun c => c.of x y) k.open' = some c) ∧ c.count ≠ 0) ∧
    (∃ (s : State) (b : BookIx) (v : Word), s.cfgOpen (rFbTail (pgBook (bookNo b))) = false) ∧
    (∃ (s : State) (b : BookIx) (v : Word), s.cfgOpen (rFbTail (pgBook (bookNo b))) = true ∧ s.behindHead (bookNo b) v ≤ (s.book (bookNo b)).recs.length) :=
  ⟨⟨State.reset, .block 3, by decide +kernel⟩,
   ⟨State.reset.setBook 20 { queue := [tRec], open' := [{ cls := 2, source := 7, latest := tRec }] }, .chip, tRec, [], { cls := 2, source := 7, latest := tRec }, by decide +kernel⟩,
   ⟨State.reset.setBook 3 { queue := [tRec] }, .block 3, ((State.reset.setBook 3 { queue := [tRec] } : State).book (bookNo (.block 3 : BookIx))).queue.head (by decide +kernel), ((State.reset.setBook 3 { queue := [tRec] } : State).book (bookNo (.block 3 : BookIx))).queue.tail, by decide +kernel⟩,
   ⟨State.reset.setBook 3 { queue := [tRec], open' := (List.range 16).map (fun i => { cls := 3, source := BitVec.ofNat 16 i, latest := tRec }) }, .block 3, tRec, [], { cls := 3, source := 0, latest := tRec }, ((List.range 16).map (fun i => ({ cls := 3, source := BitVec.ofNat 16 i, latest := tRec } : Coal))).tail, by decide +kernel⟩,
   ⟨State.reset.setBook 3 { queue := [tRec], open' := (List.range 16).map (fun i => { cls := 3, source := BitVec.ofNat 16 i, latest := tRec, count := 2 }) }, .block 3, tRec, [], { cls := 3, source := 0, latest := tRec, count := 2 }, ((List.range 16).map (fun i => ({ cls := 3, source := BitVec.ofNat 16 i, latest := tRec, count := 2 } : Coal))).tail, by decide +kernel⟩,
   ⟨State.reset, .block 3, 2, 7, by decide +kernel⟩,
   ⟨State.reset.setBook 3 { queue := [tRec], open' := (List.range 16).map (fun i => { cls := 3, source := BitVec.ofNat 16 i, latest := tRec }) }, .block 3, 3, 7, { cls := 3, source := 7, latest := tRec }, by decide +kernel⟩,
   ⟨State.reset.setBook 3 { queue := [tRec], open' := (List.range 16).map (fun i => { cls := 3, source := BitVec.ofNat 16 i, latest := tRec, count := 2 }) }, .block 3, 3, 7, { cls := 3, source := 7, latest := tRec, count := 2 }, by decide +kernel⟩,
   ⟨State.reset.setBit rSecStat 4 true, .block 3, 1, by decide +kernel⟩,
   ⟨State.reset, .block 3, 0, by decide +kernel⟩⟩

theorem wit_FieldBooks_2 :
    (∃ (s : State) (b : BookIx) (v : Word), s.cfgOpen (rFbTail (pgBook (bookNo b))) = true ∧ (s.book (bookNo b)).recs.length < s.behindHead (bookNo b) v) ∧
    (∃ (s : State), lastN (s.unread 20) (s.book 20).recs = [] ∨ s.maySpill = false ∨ s.jobOf (nbits (s.reg rFbSpill) 61 56) = none) ∧
    (∃ (s : State) (r : Rec) (l : List Rec) (j : Nat), lastN (s.unread 20) (s.book 20).recs = r :: l ∧ s.maySpill = true ∧ s.jobOf (nbits (s.reg rFbSpill) 61 56) = some j) ∧
    (∃ (s : State) (c : Packet) (x : Tracker), s.proxyTxn c = none ∧ s.trackerFor c = some x ∧ x.purpose = Purpose.spill ∧ c.status = stOK ∧ s.bit rFbSpillTail 48 = false) ∧
    (∃ (s : State) (c : Packet) (x : Tracker), s.proxyTxn c = none ∧ s.trackerFor c = some x ∧ x.purpose = Purpose.spill ∧ c.status ≠ stOK) ∧
    (∃ (s : State) (v : Word), BitVec.getLsbD v 0 = false ∨ s.bit rFbHb 32 = false) ∧
    (∃ (s : State) (v : Word), BitVec.getLsbD v 0 = true ∧ s.bit rFbHb 32 = true ∧ s.sweepBusy = true) ∧
    (∃ (s : State) (v : Word), BitVec.getLsbD v 0 = true ∧ s.bit rFbHb 32 = true ∧ s.sweepBusy = false) ∧
    (∃ (s : State), s.bit rFbHb 32 = false ∧ (s.cadSlice 0).sweeping.contains 32 = true) ∧
    (∃ (s : State) (m : Nat), s.bit rFbHb 32 = false ∧ (s.cadSlice 0).sweeping.contains 32 = false ∧ m < 4) :=
  ⟨⟨State.reset, .block 3, 1, by decide +kernel⟩,
   ⟨State.reset, by decide +kernel⟩,
   ⟨((tGranted.setBook 20 { recs := [tRec] }).setFld (rFbHead pgFb) 31 0 1).setBit rFbSpill 63 true, (lastN ((((tGranted.setBook 20 { recs := [tRec] }).setFld (rFbHead pgFb) 31 0 1).setBit rFbSpill 63 true : State).unread 20) ((((tGranted.setBook 20 { recs := [tRec] }).setFld (rFbHead pgFb) 31 0 1).setBit rFbSpill 63 true : State).book 20).recs).head (by decide +kernel), (lastN ((((tGranted.setBook 20 { recs := [tRec] }).setFld (rFbHead pgFb) 31 0 1).setBit rFbSpill 63 true : State).unread 20) ((((tGranted.setBook 20 { recs := [tRec] }).setFld (rFbHead pgFb) 31 0 1).setBit rFbSpill 63 true : State).book 20).recs).tail, ((((tGranted.setBook 20 { recs := [tRec] }).setFld (rFbHead pgFb) 31 0 1).setBit rFbSpill 63 true : State).jobOf (nbits ((((tGranted.setBook 20 { recs := [tRec] }).setFld (rFbHead pgFb) 31 0 1).setBit rFbSpill 63 true : State).reg rFbSpill) 61 56)).get (by decide +kernel), by decide +kernel⟩,
   ⟨tTracked .spill 0x02, { opcode := 0x30 }, ((tTracked .spill 0x02 : State).trackerFor ({ opcode := 0x30 } : Packet)).get (by decide +kernel), by decide +kernel⟩,
   ⟨tTracked .spill 0x02, { opcode := 0x30, status := 4 }, ((tTracked .spill 0x02 : State).trackerFor ({ opcode := 0x30, status := 4 } : Packet)).get (by decide +kernel), by decide +kernel⟩,
   ⟨State.reset, 1, by decide +kernel⟩,
   ⟨(State.reset.setBit rFbHb 32 true).setBit (rCadDead 0) 63 true, 1, by decide +kernel⟩,
   ⟨State.reset.setBit rFbHb 32 true, 1, by decide +kernel⟩,
   ⟨(State.reset.modSlice 0 (fun c => { c with sweeping := [32] })), by decide +kernel⟩,
   ⟨State.reset, 0, by decide +kernel⟩⟩

theorem wit_Twins_1 :
    (∃ (s : State) (c : Fin 32), s.twinnedTo c.val = []) ∧
    (∃ (s : State) (c : Fin 32) (e : Nat × BitVec 16), s.twinnedTo c.val ≠ [] ∧ e ∈ s.twinnedTo c.val) ∧
    (∃ (s : State) (c : Fin 32) (n : Nat), (s.twinCol c.val).fencing = true ∨ (s.twinCol c.val).live = []) ∧
    (∃ (s : State) (c : Fin 32) (n : Nat), (s.twinCol c.val).fencing = false ∧ (s.twinCol c.val).live ≠ []) ∧
    (∃ (s : State) (c : Fin 32) (p : Nat) (m : TwinRecord), m.crcOk = false) ∧
    (∃ (s : State) (c : Fin 32) (p : Nat) (m : TwinRecord), let own : Option TwinOp := List.find? (fun o => o.is m.kind m.opref (some m.job) && o.taken == some c.val) s.recov.ops; let held : Option TwinCopy := List.find? (fun x => x.same m && x.claimed) (s.twinCol c.val).copies; m.crcOk = true ∧ own = none ∧ held = none) ∧
    (∃ (s : State) (c : Fin 32) (p : Nat) (m : TwinRecord) (x : TwinCopy), let own : Option TwinOp := List.find? (fun o => o.is m.kind m.opref (some m.job) && o.taken == some c.val) s.recov.ops; let held : Option TwinCopy := List.find? (fun x => x.same m && x.claimed) (s.twinCol c.val).copies; m.crcOk = true ∧ own = none ∧ held = some x ∧ outranks m.gen.toNat m.owner.toNat x.rec'.gen.toNat s.ix = true) ∧
    (∃ (s : State) (c : Fin 32) (p : Nat) (m : TwinRecord) (x : TwinCopy), let own : Option TwinOp := List.find? (fun o => o.is m.kind m.opref (some m.job) && o.taken == some c.val) s.recov.ops; let held : Option TwinCopy := List.find? (fun x => x.same m && x.claimed) (s.twinCol c.val).copies; m.crcOk = true ∧ own = none ∧ held = some x ∧ outranks m.gen.toNat m.owner.toNat x.rec'.gen.toNat s.ix = false) ∧
    (∃ (s : State) (c : Fin 32) (p : Nat) (m : TwinRecord) (o : TwinOp), let own : Option TwinOp := List.find? (fun o => o.is m.kind m.opref (some m.job) && o.taken == some c.val) s.recov.ops; m.crcOk = true ∧ own = some o ∧ outranks m.gen.toNat m.owner.toNat o.gen.toNat s.ix = true) ∧
    (∃ (s : State) (c : Fin 32) (p : Nat) (m : TwinRecord) (o : TwinOp), let own : Option TwinOp := List.find? (fun o => o.is m.kind m.opref (some m.job) && o.taken == some c.val) s.recov.ops; m.crcOk = true ∧ own = some o ∧ outranks m.gen.toNat m.owner.toNat o.gen.toNat s.ix = false) :=
  ⟨⟨State.reset, 2, by decide +kernel⟩,
   ⟨tTwinned { tTwinOp with taken := some 2 }, 2, ((tTwinned { tTwinOp with taken := some 2 } : State).twinnedTo ↑(2 : Fin 32)).head (by decide +kernel), by decide +kernel⟩,
   ⟨State.reset, 2, 0, by decide +kernel⟩,
   ⟨tHeld { page := 1, rec' := tTwinRec }, 2, 0, by decide +kernel⟩,
   ⟨State.reset, 2, 0, { tTwinRec with crcOk := false }, by decide +kernel⟩,
   ⟨State.reset, 2, 0, tTwinRec, by decide +kernel⟩,
   ⟨tHeld { page := 1, rec' := { tTwinRec with gen := 2 }, claimed := true }, 2, 0, tTwinRec, { page := 1, rec' := { tTwinRec with gen := 2 }, claimed := true }, by decide +kernel⟩,
   ⟨tHeld { page := 1, rec' := { tTwinRec with gen := 9 }, claimed := true }, 2, 0, tTwinRec, { page := 1, rec' := { tTwinRec with gen := 9 }, claimed := true }, by decide +kernel⟩,
   ⟨tTwinned { tTwinOp with kind := 1, taken := some 2, gen := 1 }, 2, 0, tTwinRec, { tTwinOp with kind := 1, taken := some 2, gen := 1 }, by decide +kernel⟩,
   ⟨tTwinned { tTwinOp with kind := 1, taken := some 2, gen := 9 }, 2, 0, tTwinRec, { tTwinOp with kind := 1, taken := some 2, gen := 9 }, by decide +kernel⟩⟩

theorem wit_Twins_2 :
    (∃ (s : State) (c : Fin 32) (k : BitVec 4) (r : BitVec 32) (g : BitVec 32) (m : Word), s.twinAt c.val k r g = none) ∧
    (∃ (s : State) (c : Fin 32) (k : BitVec 4) (r : BitVec 32) (g : BitVec 32) (m : Word) (o : TwinOp), s.twinAt c.val k r g = some o ∧ o.gen.toNat < g.toNat) ∧
    (∃ (s : State) (c : Fin 32) (k : BitVec 4) (r : BitVec 32) (g : BitVec 32) (m : Word) (o : TwinOp), s.twinAt c.val k r g = some o ∧ g.toNat ≤ o.gen.toNat ∧ s.answers o c.val g m = false) ∧
    (∃ (s : State) (c : Fin 32) (k : BitVec 4) (r : BitVec 32) (g : BitVec 32) (m : Word) (o : TwinOp), s.twinAt c.val k r g = some o ∧ s.answers o c.val g m = true ∧ o.acts = []) ∧
    (∃ (s : State) (c : Fin 32) (k : BitVec 4) (r : BitVec 32) (g : BitVec 32) (m : Word) (o : TwinOp) (a : TwinAct) (rest : List TwinAct) (n : Nat) (v : Word), s.twinAt c.val k r g = some o ∧ s.answers o c.val g m = true ∧ o.acts = a :: rest ∧ a = TwinAct.releaseSet n v) ∧
    (∃ (s : State) (c : Fin 32) (k : BitVec 4) (r : BitVec 32) (g : BitVec 32) (m : Word) (o : TwinOp) (a : TwinAct) (rest : List TwinAct) (o2 : TwinOp), let o1 : TwinOp := { kind := o.kind, job := o.job, opref := o.opref, parcel := o.parcel, gen := o.gen, owner := o.owner,   partner := o.partner, mseq := o.mseq, page := o.page, agent := o.agent, acts := rest, stopped := o.stopped,   bringIn := o.bringIn, taken := o.taken }; let s1 : State := (s.setTwin o1).doAct o1 a; s.twinAt c.val k r g = some o ∧ s.answers o c.val g m = true ∧ o.acts = a :: rest ∧ (List.find? (fun q => q.same o) s1.recov.ops = some o2) ∧ o2.pending = false) ∧
    (∃ (s : State) (c : Fin 32) (k : BitVec 4) (r : BitVec 32) (g : BitVec 32) (m : Word) (o : TwinOp), s.twinAt c.val k r g = some o ∧ g.toNat ≤ o.gen.toNat ∧ (o.bringIn ≠ some c.val ∨ g ≠ o.gen ∨ BitVec.toNat m ≠ o.mseq)) ∧
    (∃ (s : State) (c : Fin 32) (k : BitVec 4) (r : BitVec 32) (g : BitVec 32) (m : Word) (o : TwinOp), s.twinAt c.val k r g = some o ∧ g = o.gen ∧ BitVec.toNat m = o.mseq ∧ o.bringIn = some c.val ∧ (o.acts = [] ∨ o.pending = true)) ∧
    (∃ (s : State) (c : Fin 32) (k : BitVec 4) (r : BitVec 32) (g : BitVec 32) (m : Word) (o : TwinOp), s.twinAt c.val k r g = some o ∧ g = o.gen ∧ BitVec.toNat m = o.mseq ∧ o.bringIn = some c.val ∧ o.acts ≠ [] ∧ o.pending = false) ∧
    (∃ (s : State) (c : Fin 32) (x : TwinCopy) (a : TwinAct), (s.twinCol c.val).fencing = true ∧ x ∈ (s.twinCol c.val).copies ∧ x.claimed = true ∧ x.rec'.intent = true ∧ x.rec'.act = some a) :=
  ⟨⟨State.reset, 2, 2, 7, 7, 4, by decide +kernel⟩,
   ⟨tTwinned { tTwinOp with taken := some 2 }, 2, 2, 7, 7, 4, ((tTwinned { tTwinOp with taken := some 2 } : State).twinAt (↑(2 : Fin 32)) (2 : BitVec 4) (7 : BitVec 32) (7 : BitVec 32)).get (by decide +kernel), by decide +kernel⟩,
   ⟨tTwinned { tTwinOp with taken := some 2 }, 2, 2, 7, 1, 9, ((tTwinned { tTwinOp with taken := some 2 } : State).twinAt (↑(2 : Fin 32)) (2 : BitVec 4) (7 : BitVec 32) (1 : BitVec 32)).get (by decide +kernel), by decide +kernel⟩,
   ⟨tTwinned { tTwinOp with acts := [] }, 2, 2, 7, 1, 4, ((tTwinned { tTwinOp with acts := [] } : State).twinAt (↑(2 : Fin 32)) (2 : BitVec 4) (7 : BitVec 32) (1 : BitVec 32)).get (by decide +kernel), by decide +kernel⟩,
   ⟨tTwinned { tTwinOp with taken := some 2 }, 2, 2, 7, 1, 4, ((tTwinned { tTwinOp with taken := some 2 } : State).twinAt (↑(2 : Fin 32)) (2 : BitVec 4) (7 : BitVec 32) (1 : BitVec 32)).get (by decide +kernel), (((tTwinned { tTwinOp with taken := some 2 } : State).twinAt (↑(2 : Fin 32)) (2 : BitVec 4) (7 : BitVec 32) (1 : BitVec 32)).get (by decide +kernel)).acts.head (by decide +kernel), (((tTwinned { tTwinOp with taken := some 2 } : State).twinAt (↑(2 : Fin 32)) (2 : BitVec 4) (7 : BitVec 32) (1 : BitVec 32)).get (by decide +kernel)).acts.tail, 3, 9, by decide +kernel⟩,
   ⟨tTwinned { tTwinOp with acts := [.releaseSet 3 9, .releaseSet 3 9] }, 2, 2, 7, 1, 4, { tTwinOp with acts := [.releaseSet 3 9, .releaseSet 3 9] }, .releaseSet 3 9, [.releaseSet 3 9], { tTwinOp with pending := false, acts := [.releaseSet 3 9] }, by decide +kernel⟩,
   ⟨tTwinned { tTwinOp with taken := some 2 }, 2, 2, 7, 1, 4, ((tTwinned { tTwinOp with taken := some 2 } : State).twinAt (↑(2 : Fin 32)) (2 : BitVec 4) (7 : BitVec 32) (1 : BitVec 32)).get (by decide +kernel), by decide +kernel⟩,
   ⟨tTwinned { tTwinOp with partner := none, bringIn := some 2, acts := [], pending := false }, 2, 2, 7, 1, 4, ((tTwinned { tTwinOp with partner := none, bringIn := some 2, acts := [], pending := false } : State).twinAt (↑(2 : Fin 32)) (2 : BitVec 4) (7 : BitVec 32) (1 : BitVec 32)).get (by decide +kernel), by decide +kernel⟩,
   ⟨tTwinned { tTwinOp with partner := none, bringIn := some 2, pending := false, stopped := true }, 2, 2, 7, 1, 4, ((tTwinned { tTwinOp with partner := none, bringIn := some 2, pending := false, stopped := true } : State).twinAt (↑(2 : Fin 32)) (2 : BitVec 4) (7 : BitVec 32) (1 : BitVec 32)).get (by decide +kernel), by decide +kernel⟩,
   ⟨tGranted.setTwinCol 2 { fencing := true, copies := [{ page := 1, rec' := tTwinRec, claimed := true }] }, 2, ((tGranted.setTwinCol 2 { fencing := true, copies := [{ page := 1, rec' := tTwinRec, claimed := true }] } : State).twinCol ↑(2 : Fin 32)).copies.head (by decide +kernel), (((tGranted.setTwinCol 2 { fencing := true, copies := [{ page := 1, rec' := tTwinRec, claimed := true }] } : State).twinCol ↑(2 : Fin 32)).copies.head (by decide +kernel)).rec'.act.get (by decide +kernel), by decide +kernel⟩⟩

theorem wit_Parcels_1 :
    (∃ (s : State) (n : ParcelIx), s.cfgOpen (rPclCmd n.val) = false) ∧
    (∃ (s : State) (n : ParcelIx), s.cfgOpen (rPclCmd n.val) = true ∧ s.bit (rPclCmd n.val) 61 = true) ∧
    (∃ (s : State) (n : ParcelIx) (c : Nat), s.cfgOpen (rPclCmd n.val) = true ∧ s.bit (rPclCmd n.val) 61 = false ∧ s.recov.restarting ≠ [] ∧ c ≠ rPclCmd n.val) ∧
    (∃ (s : State) (n : ParcelIx) (c : Nat), s.pclOpen n.val = true ∧ ((s.pcl n.val).compose ≠ none ∨ ¬s.pclState n.val ∈ [0]) ∧ c ≠ rPclCmd n.val) ∧
    (∃ (s : State) (n : ParcelIx) (c : Nat), s.pclOpen n.val = true ∧ ((s.pcl n.val).compose ≠ none ∨ ¬s.pclState n.val ∈ [1, 2, 4]) ∧ c ≠ rPclCmd n.val) ∧
    (∃ (s : State) (n : ParcelIx) (c : Nat), s.pclOpen n.val = true ∧ ((s.pcl n.val).compose ≠ none ∨ ¬s.pclState n.val ∈ [1]) ∧ c ≠ rPclCmd n.val) ∧
    (∃ (s : State) (n : ParcelIx) (c : Nat), s.pclOpen n.val = true ∧ ((s.pcl n.val).compose ≠ none ∨ ¬s.pclState n.val ∈ [4]) ∧ c ≠ rPclCmd n.val) ∧
    (∃ (s : State) (n : ParcelIx), s.pclFree n.val = true ∧ s.pclState n.val = 0 ∧ s.compCheck n.val (s.proposed n.val) true = none) ∧
    (∃ (s : State) (n : ParcelIx) (e : Status × Nat), s.pclFree n.val = true ∧ s.pclState n.val = 0 ∧ s.compCheck n.val (s.proposed n.val) true = some e) ∧
    (∃ (s : State) (n : ParcelIx), s.pclFree n.val = true ∧ (s.pclState n.val = 1 ∨ s.pclState n.val = 2 ∨ s.pclState n.val = 4) ∧ s.compCheck n.val (s.proposed n.val) (s.pclState n.val == 1) = none) ∧
    (∃ (s : State) (n : ParcelIx) (e : Status × Nat), s.pclFree n.val = true ∧ (s.pclState n.val = 1 ∨ s.pclState n.val = 2 ∨ s.pclState n.val = 4) ∧ s.compCheck n.val (s.proposed n.val) (s.pclState n.val == 1) = some e) :=
  ⟨⟨State.reset.setBit rSecStat 4 true, 0, by decide +kernel⟩,
   ⟨tGranted.setBit (rPclCmd 0) 61 true, 0, by decide +kernel⟩,
   ⟨{ State.reset with recov := { restarting := [0] } }, 0, 2, by decide +kernel⟩,
   ⟨(let s := (tGranted.setReg (rPclGrant 0 1) 1).setPclState 0 5; { s with extents := [], tiles := [(0, { ctxs := [(0, { state := .drain })] })] }).setPcl 0 { compose := some { op := 4, from' := 2, words := [], removing := true } }, 0, 2, by decide +kernel⟩,
   ⟨State.reset, 0, 2, by decide +kernel⟩,
   ⟨State.reset, 0, 2, by decide +kernel⟩,
   ⟨State.reset, 0, 2, by decide +kernel⟩,
   ⟨State.reset, 0, by decide +kernel⟩,
   ⟨State.reset.setReg (rPclCmp 3 7) 16, 3, ((State.reset.setReg (rPclCmp 3 7) 16 : State).compCheck (↑(3 : ParcelIx)) ((State.reset.setReg (rPclCmp 3 7) 16 : State).proposed ↑(3 : ParcelIx)) true).get (by decide +kernel), by decide +kernel⟩,
   ⟨{ tTier with extents := [(3, { owner := 0, base := 0x100000000000, pages := 1, rd := true, wr := true, wb := true, state := .revoking })], revoking := [{ ext := 3 }] }, 0, by decide +kernel⟩,
   ⟨{ tGranted with extents := [(0, { owner := 0, base := 0x200000000000, pages := 1, rd := true, vers := true, visible := 2, state := .revoking }), (2, { owner := 0, base := 0x1000, pages := 1, rd := true, wr := true, state := .valid })], revoking := [{ ext := 0 }] }, 0, (({ tGranted with extents := [(0, { owner := 0, base := 0x200000000000, pages := 1, rd := true, vers := true, visible := 2, state := .revoking }), (2, { owner := 0, base := 0x1000, pages := 1, rd := true, wr := true, state := .valid })], revoking := [{ ext := 0 }] } : State).compCheck (↑(0 : ParcelIx)) (({ tGranted with extents := [(0, { owner := 0, base := 0x200000000000, pages := 1, rd := true, vers := true, visible := 2, state := .revoking }), (2, { owner := 0, base := 0x1000, pages := 1, rd := true, wr := true, state := .valid })], revoking := [{ ext := 0 }] } : State).proposed ↑(0 : ParcelIx)) (({ tGranted with extents := [(0, { owner := 0, base := 0x200000000000, pages := 1, rd := true, vers := true, visible := 2, state := .revoking }), (2, { owner := 0, base := 0x1000, pages := 1, rd := true, wr := true, state := .valid })], revoking := [{ ext := 0 }] } : State).pclState ↑(0 : ParcelIx) == 1)).get (by decide +kernel), by decide +kernel⟩⟩

theorem wit_Parcels_2 :
    (∃ (s : State) (n : ParcelIx), s.pclFree n.val = true ∧ s.pclState n.val = 1) ∧
    (∃ (s : State) (n : ParcelIx), s.pclFree n.val = true ∧ s.pclState n.val = 4) ∧
    (∃ (s : State) (n : ParcelIx) (e : Nat), s.pclFree n.val = true ∧ (s.pclState n.val = 1 ∨ s.pclState n.val = 2 ∨ s.pclState n.val = 4) ∧ (s.ext e).state = ExtState.valid ∧ (s.ext e).owner = n.val) ∧
    (∃ (s : State) (n : ParcelIx), ∀ (x : Compose), (s.pcl n.val).compose = some x → x.op = 4) ∧
    (∃ (s : State) (n : ParcelIx) (x : Compose) (g : CompWords) (w : CompWords), let s0 : State := s.clearPorts (removedPorts g w); (s.pcl n.val).compose = some x ∧ x.op ≠ 4 ∧ (g = if s.pclState n.val = 0 then [] else s.grants n.val) ∧ w = List.map BitVec.toNat x.words ∧ s0.quiesced g w = false) ∧
    (∃ (s : State) (n : ParcelIx) (x : Compose) (g : CompWords) (w : CompWords) (i : Nat), let s0 : State := s.clearPorts (removedPorts g w); (s.pcl n.val).compose = some x ∧ x.op ≠ 4 ∧ (g = if s.pclState n.val = 0 then [] else s.grants n.val) ∧ w = List.map BitVec.toNat x.words ∧ s0.quiesced g w = true ∧ i < 8) ∧
    (∃ (s : State) (n : ParcelIx) (x : Compose) (g : CompWords) (w : CompWords) (m : Nat), let s0 : State := s.clearPorts (removedPorts g w); (s.pcl n.val).compose = some x ∧ x.op ≠ 4 ∧ (g = if s.pclState n.val = 0 then [] else s.grants n.val) ∧ w = List.map BitVec.toNat x.words ∧ s0.quiesced g w = true ∧ m ≠ n.val) ∧
    (∃ (s : State) (n : ParcelIx) (x : Compose) (g : CompWords) (w : CompWords) (k : Nat) (i : Nat), let s0 : State := s.clearPorts (removedPorts g w); (s.pcl n.val).compose = some x ∧ x.op ≠ 4 ∧ (g = if s.pclState n.val = 0 then [] else s.grants n.val) ∧ w = List.map BitVec.toNat x.words ∧ s0.quiesced g w = true ∧ k < 64 ∧ i < 4) ∧
    (∃ (s : State) (n : ParcelIx), (∀ (x : Compose), (s.pcl n.val).compose = some x → x.op ≠ 4) ∨ s.releaseReady n.val = false) ∧
    (∃ (s : State) (n : ParcelIx) (x : Compose) (i : Nat), (s.pcl n.val).compose = some x ∧ x.op = 4 ∧ s.releaseReady n.val = true ∧ x.removing = false ∧ i < 8) ∧
    (∃ (s : State) (n : ParcelIx) (x : Compose), let g : CompWords := s.grants n.val; let s0 : State := s.clearPorts (removedPorts g []); (s.pcl n.val).compose = some x ∧ x.op = 4 ∧ s.releaseReady n.val = true ∧ x.removing = true ∧ s0.quiesced g [] = false) :=
  ⟨⟨tGranted.setPclState 0 1, 0, by decide +kernel⟩,
   ⟨tGranted.setPclState 0 4, 0, by decide +kernel⟩,
   ⟨{ tGranted with extents := [(0, { owner := 0, base := 0x200000000000, pages := 1, rd := true, vers := true, visible := 2, state := .revoking }), (2, { owner := 0, base := 0x1000, pages := 1, rd := true, wr := true, state := .valid })], revoking := [{ ext := 0 }] }, 0, 2, by decide +kernel⟩,
   ⟨State.reset, 0, by decide +kernel⟩,
   ⟨(let s := (tGranted.setReg (rPclGrant 0 1) 1); { s with tiles := [(1, { ctxs := [(0, { state := .drain })] })] }).setPcl 0 { compose := some { op := 2, from' := 2, words := [0, 0, 0, 0, 1, 0, 0, 1] } }, 0, (((let s := (tGranted.setReg (rPclGrant 0 1) 1); { s with tiles := [(1, { ctxs := [(0, { state := .drain })] })] }).setPcl 0 { compose := some { op := 2, from' := 2, words := [0, 0, 0, 0, 1, 0, 0, 1] } } : State).pcl ↑(0 : ParcelIx)).compose.get (by decide +kernel), if ((let s := (tGranted.setReg (rPclGrant 0 1) 1); { s with tiles := [(1, { ctxs := [(0, { state := .drain })] })] }).setPcl 0 { compose := some { op := 2, from' := 2, words := [0, 0, 0, 0, 1, 0, 0, 1] } } : State).pclState ↑(0 : ParcelIx) = 0 then [] else ((let s := (tGranted.setReg (rPclGrant 0 1) 1); { s with tiles := [(1, { ctxs := [(0, { state := .drain })] })] }).setPcl 0 { compose := some { op := 2, from' := 2, words := [0, 0, 0, 0, 1, 0, 0, 1] } } : State).grants ↑(0 : ParcelIx), List.map BitVec.toNat ((((let s := (tGranted.setReg (rPclGrant 0 1) 1); { s with tiles := [(1, { ctxs := [(0, { state := .drain })] })] }).setPcl 0 { compose := some { op := 2, from' := 2, words := [0, 0, 0, 0, 1, 0, 0, 1] } } : State).pcl ↑(0 : ParcelIx)).compose.get (by decide +kernel)).words, by decide +kernel⟩,
   ⟨(let s := tGranted; { s with tiles := [(8, {}), (9, { queue := [] })] }).setPcl 0 { compose := some { op := 2, from' := 2, words := [0, 4, 0, 0, 1, 0, 0, 1] } }, 0, (((let s := tGranted; { s with tiles := [(8, {}), (9, { queue := [] })] }).setPcl 0 { compose := some { op := 2, from' := 2, words := [0, 4, 0, 0, 1, 0, 0, 1] } } : State).pcl ↑(0 : ParcelIx)).compose.get (by decide +kernel), if ((let s := tGranted; { s with tiles := [(8, {}), (9, { queue := [] })] }).setPcl 0 { compose := some { op := 2, from' := 2, words := [0, 4, 0, 0, 1, 0, 0, 1] } } : State).pclState ↑(0 : ParcelIx) = 0 then [] else ((let s := tGranted; { s with tiles := [(8, {}), (9, { queue := [] })] }).setPcl 0 { compose := some { op := 2, from' := 2, words := [0, 4, 0, 0, 1, 0, 0, 1] } } : State).grants ↑(0 : ParcelIx), List.map BitVec.toNat ((((let s := tGranted; { s with tiles := [(8, {}), (9, { queue := [] })] }).setPcl 0 { compose := some { op := 2, from' := 2, words := [0, 4, 0, 0, 1, 0, 0, 1] } } : State).pcl ↑(0 : ParcelIx)).compose.get (by decide +kernel)).words, 0, by decide +kernel⟩,
   ⟨(let s := tGranted; { s with tiles := [(8, {}), (9, { queue := [] })] }).setPcl 0 { compose := some { op := 2, from' := 2, words := [0, 4, 0, 0, 1, 0, 0, 1] } }, 0, (((let s := tGranted; { s with tiles := [(8, {}), (9, { queue := [] })] }).setPcl 0 { compose := some { op := 2, from' := 2, words := [0, 4, 0, 0, 1, 0, 0, 1] } } : State).pcl ↑(0 : ParcelIx)).compose.get (by decide +kernel), if ((let s := tGranted; { s with tiles := [(8, {}), (9, { queue := [] })] }).setPcl 0 { compose := some { op := 2, from' := 2, words := [0, 4, 0, 0, 1, 0, 0, 1] } } : State).pclState ↑(0 : ParcelIx) = 0 then [] else ((let s := tGranted; { s with tiles := [(8, {}), (9, { queue := [] })] }).setPcl 0 { compose := some { op := 2, from' := 2, words := [0, 4, 0, 0, 1, 0, 0, 1] } } : State).grants ↑(0 : ParcelIx), List.map BitVec.toNat ((((let s := tGranted; { s with tiles := [(8, {}), (9, { queue := [] })] }).setPcl 0 { compose := some { op := 2, from' := 2, words := [0, 4, 0, 0, 1, 0, 0, 1] } } : State).pcl ↑(0 : ParcelIx)).compose.get (by decide +kernel)).words, 2, by decide +kernel⟩,
   ⟨(let s := tGranted; { s with tiles := [(8, {}), (9, { queue := [] })] }).setPcl 0 { compose := some { op := 2, from' := 2, words := [0, 4, 0, 0, 1, 0, 0, 1] } }, 0, (((let s := tGranted; { s with tiles := [(8, {}), (9, { queue := [] })] }).setPcl 0 { compose := some { op := 2, from' := 2, words := [0, 4, 0, 0, 1, 0, 0, 1] } } : State).pcl ↑(0 : ParcelIx)).compose.get (by decide +kernel), if ((let s := tGranted; { s with tiles := [(8, {}), (9, { queue := [] })] }).setPcl 0 { compose := some { op := 2, from' := 2, words := [0, 4, 0, 0, 1, 0, 0, 1] } } : State).pclState ↑(0 : ParcelIx) = 0 then [] else ((let s := tGranted; { s with tiles := [(8, {}), (9, { queue := [] })] }).setPcl 0 { compose := some { op := 2, from' := 2, words := [0, 4, 0, 0, 1, 0, 0, 1] } } : State).grants ↑(0 : ParcelIx), List.map BitVec.toNat ((((let s := tGranted; { s with tiles := [(8, {}), (9, { queue := [] })] }).setPcl 0 { compose := some { op := 2, from' := 2, words := [0, 4, 0, 0, 1, 0, 0, 1] } } : State).pcl ↑(0 : ParcelIx)).compose.get (by decide +kernel)).words, 2, 0, by decide +kernel⟩,
   ⟨State.reset, 0, by decide +kernel⟩,
   ⟨(let s := (tGranted.setReg (rPclGrant 0 0) (2 ^ 16)).setPclState 0 5; { s with extents := [] }).setPcl 0 { compose := some { op := 4, from' := 2, words := [] } }, 0, (((let s := (tGranted.setReg (rPclGrant 0 0) (2 ^ 16)).setPclState 0 5; { s with extents := [] }).setPcl 0 { compose := some { op := 4, from' := 2, words := [] } } : State).pcl ↑(0 : ParcelIx)).compose.get (by decide +kernel), 0, by decide +kernel⟩,
   ⟨(let s := (tGranted.setReg (rPclGrant 0 1) 1).setPclState 0 5; { s with extents := [], tiles := [(0, { ctxs := [(0, { state := .drain })] })] }).setPcl 0 { compose := some { op := 4, from' := 2, words := [], removing := true } }, 0, (((let s := (tGranted.setReg (rPclGrant 0 1) 1).setPclState 0 5; { s with extents := [], tiles := [(0, { ctxs := [(0, { state := .drain })] })] }).setPcl 0 { compose := some { op := 4, from' := 2, words := [], removing := true } } : State).pcl ↑(0 : ParcelIx)).compose.get (by decide +kernel), by decide +kernel⟩⟩

theorem wit_Parcels_3 :
    (∃ (s : State) (n : ParcelIx) (x : Compose) (i : Nat), let g : CompWords := s.grants n.val; let s0 : State := s.clearPorts (removedPorts g []); (s.pcl n.val).compose = some x ∧ x.op = 4 ∧ s.releaseReady n.val = true ∧ x.removing = true ∧ s0.quiesced g [] = true ∧ i < 8) ∧
    (∃ (s : State) (n : ParcelIx) (x : Compose) (k : Nat) (i : Nat), let g : CompWords := s.grants n.val; let s0 : State := s.clearPorts (removedPorts g []); (s.pcl n.val).compose = some x ∧ x.op = 4 ∧ s.releaseReady n.val = true ∧ x.removing = true ∧ s0.quiesced g [] = true ∧ k < 64 ∧ i < 4) ∧
    (∃ (s : State) (n : ParcelIx) (v : Word), s.cfgOpen (rPclExtCmd n.val) = false) ∧
    (∃ (s : State) (n : ParcelIx) (v : Word), s.cfgOpen (rPclExtCmd n.val) = true ∧ BitVec.getLsbD v 63 = false) ∧
    (∃ (s : State) (n : ParcelIx) (v : Word), s.cfgOpen (rPclExtCmd n.val) = true ∧ BitVec.getLsbD v 63 = true ∧ s.recov.restarting ≠ []) ∧
    (∃ (s : State) (n : ParcelIx) (v : Word) (e : Nat) (i : Nat), s.extOpen n.val v = true ∧ e = nbits (BitVec.toNat v) 12 0 ∧ s.extBad e n.val (s.stagedExt n.val) = false ∧ i ≠ e) ∧
    (∃ (s : State) (n : ParcelIx) (v : Word) (e : Nat), s.extOpen n.val v = true ∧ e = nbits (BitVec.toNat v) 12 0 ∧ s.extBad e n.val (s.stagedExt n.val) = true) ∧
    (∃ (s : State) (n : ParcelIx) (v : Word) (e : Nat), s.extOpen n.val v = true ∧ e = nbits (BitVec.toNat v) 12 0 ∧ (s.ext e).state = ExtState.valid ∧ (s.ext e).owner = n.val) ∧
    (∃ (s : State) (n : ParcelIx) (v : Word) (e : Nat), s.extOpen n.val v = true ∧ e = nbits (BitVec.toNat v) 12 0 ∧ (s.ext e).state = ExtState.revoking ∧ (s.ext e).owner = n.val) ∧
    (∃ (s : State) (n : ParcelIx) (v : Word) (e : Nat), s.extOpen n.val v = true ∧ e = nbits (BitVec.toNat v) 12 0 ∧ ((s.ext e).state = ExtState.free ∨ (s.ext e).owner ≠ n.val)) ∧
    (∃ (s : State) (n : ParcelIx) (v : Word) (e : Nat) (i : Nat), s.extOpen n.val v = true ∧ e = nbits (BitVec.toNat v) 12 0 ∧ ((s.ext e).state = ExtState.free ∨ (s.ext e).owner = n.val) ∧ i < 4) :=
  ⟨⟨(let s := (tGranted.setReg (rPclGrant 0 0) (2 ^ 16)).setPclState 0 5; { s with extents := [], mem := { s.mem with cells := [(5, 1)] } }).setPcl 0 { compose := some { op := 4, from' := 2, words := [], removing := true } }, 0, (((let s := (tGranted.setReg (rPclGrant 0 0) (2 ^ 16)).setPclState 0 5; { s with extents := [], mem := { s.mem with cells := [(5, 1)] } }).setPcl 0 { compose := some { op := 4, from' := 2, words := [], removing := true } } : State).pcl ↑(0 : ParcelIx)).compose.get (by decide +kernel), 0, by decide +kernel⟩,
   ⟨(let s := (tGranted.setReg (rPclGrant 0 0) (2 ^ 16)).setPclState 0 5; { s with extents := [], mem := { s.mem with cells := [(5, 1)] } }).setPcl 0 { compose := some { op := 4, from' := 2, words := [], removing := true } }, 0, (((let s := (tGranted.setReg (rPclGrant 0 0) (2 ^ 16)).setPclState 0 5; { s with extents := [], mem := { s.mem with cells := [(5, 1)] } }).setPcl 0 { compose := some { op := 4, from' := 2, words := [], removing := true } } : State).pcl ↑(0 : ParcelIx)).compose.get (by decide +kernel), 2, 0, by decide +kernel⟩,
   ⟨State.reset.setBit rSecStat 4 true, 0, BitVec.ofNat 64 (2 ^ 63 + 7), by decide +kernel⟩,
   ⟨State.reset, 0, 0, by decide +kernel⟩,
   ⟨{ State.reset with recov := { restarting := [0] } }, 0, BitVec.ofNat 64 (2 ^ 63 + 7), by decide +kernel⟩,
   ⟨((tGranted.setReg (rPclGrant 0 0) (2 ^ 16)).setReg (rPclExt 0 0) 0x5000).setReg (rPclExt 0 1) 1, 0, BitVec.ofNat 64 (2 ^ 63 + 7), nbits (BitVec.toNat (BitVec.ofNat 64 (2 ^ 63 + 7) : Word)) 12 0, 0, by decide +kernel⟩,
   ⟨State.reset, 0, BitVec.ofNat 64 (2 ^ 63 + 7), nbits (BitVec.toNat (BitVec.ofNat 64 (2 ^ 63 + 7) : Word)) 12 0, by decide +kernel⟩,
   ⟨{ tGranted with extents := [(0, { owner := 0, base := 0x200000000000, pages := 1, rd := true, vers := true, visible := 2, state := .revoking }), (2, { owner := 0, base := 0x1000, pages := 1, rd := true, wr := true, state := .valid })], revoking := [{ ext := 0 }] }, 0, BitVec.ofNat 64 (2 ^ 63 + 2), nbits (BitVec.toNat (BitVec.ofNat 64 (2 ^ 63 + 2) : Word)) 12 0, by decide +kernel⟩,
   ⟨{ tGranted with extents := [(0, { owner := 0, base := 0x200000000000, pages := 1, rd := true, vers := true, visible := 2, state := .revoking }), (2, { owner := 0, base := 0x1000, pages := 1, rd := true, wr := true, state := .valid })], revoking := [{ ext := 0 }] }, 0, 0x8000000000000000, 0, by decide +kernel⟩,
   ⟨State.reset, 0, BitVec.ofNat 64 (2 ^ 63 + 7), nbits (BitVec.toNat (BitVec.ofNat 64 (2 ^ 63 + 7) : Word)) 12 0, by decide +kernel⟩,
   ⟨State.reset, 0, BitVec.ofNat 64 (2 ^ 63 + 7), nbits (BitVec.toNat (BitVec.ofNat 64 (2 ^ 63 + 7) : Word)) 12 0, 0, by decide +kernel⟩⟩

theorem wit_Parcels_4 :
    (∃ (s : State) (n : ParcelIx) (v : Word) (e : Nat) (i : Nat), s.extOpen n.val v = true ∧ e = nbits (BitVec.toNat v) 12 0 ∧ (s.ext e).state ≠ ExtState.free ∧ (s.ext e).owner ≠ n.val ∧ i < 4) ∧
    (∃ (s : State) (e : Fin 8192) (x : Extent), x = s.ext e.val ∧ (x.state ≠ ExtState.revoking ∨ s.extPending x = true ∨ x.vers = true ∧ (s.ext x.visible).state = ExtState.revoking)) ∧
    (∃ (s : State) (e : Fin 8192) (x : Extent), x = s.ext e.val ∧ x.state = ExtState.revoking ∧ s.extPending x = false ∧ x.vers = true ∧ (s.ext x.visible).state ≠ ExtState.revoking) ∧
    (∃ (s : State) (e : Fin 8192) (x : Extent), x = s.ext e.val ∧ x.state = ExtState.revoking ∧ s.extPending x = false ∧ x.vers = false ∧ x.coh = false ∧ x.wb = false) ∧
    (∃ (s : State) (e : Fin 8192) (x : Extent), let s0 : State := if x.coh = true then s.extRecall x else s; x = s.ext e.val ∧ x.state = ExtState.revoking ∧ s.extPending x = false ∧ x.vers = false ∧ s0.extPending x = true) ∧
    (∃ (s : State) (e : Fin 8192) (x : Extent), let s0 : State := if x.coh = true then s.extRecall x else s; let s1 : State := if (x.wb && !s0.t1We) = true then s0.dropFrames (fun k => x.hit (4096 * k)) (s0.homeRegion x.base) 5 else s0; let dirty : List Nat := List.map (fun f => f.fst) (List.filter (fun f => x.hit (4096 * f.fst) && f.snd.dirty) s1.tier.frames); x = s.ext e.val ∧ x.state = ExtState.revoking ∧ s.extPending x = false ∧ x.vers = false ∧ s0.extPending x = false ∧ x.wb = true ∧ dirty ≠ []) ∧
    (∃ (s : State) (e : Fin 8192) (x : Extent) (f : Nat × Frame), let s0 : State := if x.coh = true then s.extRecall x else s; let s1 : State := if (x.wb && !s0.t1We) = true then s0.dropFrames (fun k => x.hit (4096 * k)) (s0.homeRegion x.base) 5 else s0; let dirty : List Nat := List.map (fun f => f.fst) (List.filter (fun f => x.hit (4096 * f.fst) && f.snd.dirty) s1.tier.frames); x = s.ext e.val ∧ x.state = ExtState.revoking ∧ s.extPending x = false ∧ x.vers = false ∧ s0.extPending x = false ∧ (x.wb = false ∨ dirty = []) ∧ x.wb = true) ∧
    (∃ (s : State) (r : SliceIx) (n : Nat) (k : Nat), n < 64 ∧ k < 5) ∧
    (∃ (s : State) (n : ParcelIx) (v : Word), s.cfgOpen (rPclUseSel n.val) = false) ∧
    (∃ (s : State) (n : ParcelIx) (v : Word) (m : Nat), s.cfgOpen (rPclUseSel n.val) = true ∧ m ≠ n.val) :=
  ⟨⟨{ tGranted with extents := [(0, { owner := 0, base := 0x200000000000, pages := 1, rd := true, vers := true, visible := 2, state := .revoking }), (2, { owner := 0, base := 0x1000, pages := 1, rd := true, wr := true, state := .valid })], revoking := [{ ext := 0 }] }, 3, BitVec.ofNat 64 (2 ^ 63 + 2), nbits (BitVec.toNat (BitVec.ofNat 64 (2 ^ 63 + 2) : Word)) 12 0, 0, by decide +kernel⟩,
   ⟨State.reset, 0, (State.reset : State).ext ↑(0 : Fin 8192), by decide +kernel⟩,
   ⟨{ tGranted with extents := [(0, { owner := 0, base := 0x200000000000, pages := 1, rd := true, vers := true, visible := 2, state := .revoking }), (2, { owner := 0, base := 0x1000, pages := 1, rd := true, wr := true, state := .valid })], revoking := [{ ext := 0 }] }, 0, ({ tGranted with extents := [(0, { owner := 0, base := 0x200000000000, pages := 1, rd := true, vers := true, visible := 2, state := .revoking }), (2, { owner := 0, base := 0x1000, pages := 1, rd := true, wr := true, state := .valid })], revoking := [{ ext := 0 }] } : State).ext ↑(0 : Fin 8192), by decide +kernel⟩,
   ⟨tRevoking, 2, (tRevoking : State).ext ↑(2 : Fin 8192), by decide +kernel⟩,
   ⟨{ tCoherent.putEntry 2 0x40 (({} : DirEntry).addSharer 32) with extents := [(3, { owner := 0, base := 0x2000, pages := 1, rd := true, wr := true, coh := true, state := .revoking })], revoking := [{ ext := 3 }] }, 3, ({ tCoherent.putEntry 2 0x40 (({} : DirEntry).addSharer 32) with extents := [(3, { owner := 0, base := 0x2000, pages := 1, rd := true, wr := true, coh := true, state := .revoking })], revoking := [{ ext := 3 }] } : State).ext ↑(3 : Fin 8192), by decide +kernel⟩,
   ⟨{ tTier with extents := [(3, { owner := 0, base := 0x100000000000, pages := 1, rd := true, wr := true, wb := true, state := .revoking })], revoking := [{ ext := 3 }], tier := { tTier.tier with frames := [(0x100000000, { parcel := 0, pool := 0x7000000000, dirty := true })] } }, 3, ({ tTier with extents := [(3, { owner := 0, base := 0x100000000000, pages := 1, rd := true, wr := true, wb := true, state := .revoking })], revoking := [{ ext := 3 }], tier := { tTier.tier with frames := [(0x100000000, { parcel := 0, pool := 0x7000000000, dirty := true })] } } : State).ext ↑(3 : Fin 8192), by decide +kernel⟩,
   ⟨{ tTier with extents := [(3, { owner := 0, base := 0x100000000000, pages := 1, rd := true, wr := true, wb := true, state := .revoking })], revoking := [{ ext := 3 }] }, 3, ({ tTier with extents := [(3, { owner := 0, base := 0x100000000000, pages := 1, rd := true, wr := true, wb := true, state := .revoking })], revoking := [{ ext := 3 }] } : State).ext ↑(3 : Fin 8192), (0x100000009, { parcel := 0, pool := 0x7000001000 }), by decide +kernel⟩,
   ⟨State.reset, 0, 2, 2, by decide +kernel⟩,
   ⟨State.reset.setBit rSecStat 4 true, 0, BitVec.ofNat 64 (2 ^ 63 + 7), by decide +kernel⟩,
   ⟨State.reset, 0, BitVec.ofNat 64 (2 ^ 63 + 7), 2, by decide +kernel⟩⟩

theorem wit_RemoteWritesAndReads_1 :
    (∃ (s : State) (p : PortIx) (k : RocePkt) (n : Nat) (g : Nat) (left : Nat) (total : Nat) (mr : Nat), s.servedNow 6 p.val n k = true ∧ k.psn.toNat = (s.qp n).epsn ∧ s.writeBad n 6 k = false ∧ (opImm 6 = true → s.ringFull ((s.qp n).f 6 25 16) = false ∧ k.payload ≠ []) ∧ (s.qp n).quiet = true ∧ s.writeMsg n 6 k = some (g, left, total, mr)) ∧
    (∃ (s : State) (p : PortIx) (k : RocePkt) (n : Nat), s.servedNow 6 p.val n k = true ∧ k.psn.toNat = (s.qp n).epsn ∧ s.writeBad n 6 k = true) ∧
    (∃ (s : State) (p : PortIx) (k : RocePkt) (n : Nat), s.servedNow 6 p.val n k = true ∧ k.psn.toNat = (s.qp n).epsn ∧ s.writeBad n 6 k = false ∧ s.writeMsg n 6 k = none) ∧
    (∃ (s : State) (p : PortIx) (k : RocePkt) (n : Nat), s.servedNow 9 p.val n k = true ∧ k.psn.toNat = (s.qp n).epsn ∧ s.writeBad n 9 k = true) ∧
    (∃ (s : State) (p : PortIx) (k : RocePkt) (n : Nat), s.servedNow 11 p.val n k = true ∧ k.psn.toNat = (s.qp n).epsn ∧ s.writeBad n 11 k = false ∧ s.writeMsg n 11 k ≠ none ∧ opImm 11 = true ∧ s.ringFull ((s.qp n).f 6 25 16) = true) ∧
    (∃ (s : State) (p : PortIx) (k : RocePkt) (n : Nat), s.servedNow 11 p.val n k = true ∧ k.psn.toNat = (s.qp n).epsn ∧ s.writeBad n 11 k = false ∧ s.writeMsg n 11 k = none) ∧
    (∃ (s : State) (p : PortIx) (k : RocePkt) (n : Nat) (m : Nat × Nat × Nat × Nat), opImm 11 = true ∧ s.servedNow 11 p.val n k = true ∧ k.psn.toNat = (s.qp n).epsn ∧ s.writeBad n 11 k = false ∧ s.writeMsg n 11 k = some m ∧ k.payload = [] ∧ (s.qp n).quiet = true ∧ s.ringFull ((s.qp n).f 6 25 16) = false ∧ s.roceTracked (s.qp n).port < 2048) ∧
    (∃ (s : State) (p : PortIx) (k : RocePkt) (n : Nat) (m : Nat), s.servedNow 12 p.val n k = true ∧ k.psn.toNat = (s.qp n).epsn ∧ s.readBad n k = false ∧ s.mrCheck (s.qp n) k false = some m ∧ (s.qp n).quiet = true ∧ 3 ≤ (s.qp n).f 0 37 35 ∧ (k.dmaLen ≠ 0 ∨ (s.qp n).tokens < 0)) ∧
    (∃ (s : State) (p : PortIx) (k : RocePkt) (n : Nat) (m : Nat), s.servedNow 12 p.val n k = true ∧ k.psn.toNat = (s.qp n).epsn ∧ s.readBad n k = false ∧ s.mrCheck (s.qp n) k false = some m ∧ (s.qp n).quiet = true ∧ k.dmaLen = 0 ∧ 0 ≤ (s.qp n).tokens ∧ s.twinOp 4 (BitVec.ofNat 32 n) = none) ∧
    (∃ (s : State) (p : PortIx) (k : RocePkt) (n : Nat), s.servedNow 12 p.val n k = true ∧ k.psn.toNat = (s.qp n).epsn ∧ s.readBad n k = true) ∧
    (∃ (s : State) (p : PortIx) (k : RocePkt) (n : Nat), s.servedNow 12 p.val n k = true ∧ k.psn.toNat = (s.qp n).epsn ∧ s.readBad n k = false ∧ s.mrCheck (s.qp n) k false = none) :=
  ⟨⟨tEth, 96, { opcode := 0, destQP := 5, psn := 16, va := 0x10040, rkey := 0x70000, dmaLen := 2048, payload := leBytes 1024 7 }, 5, (((tEth : State).writeMsg (5 : Nat) 6 ({ opcode := 0, destQP := 5, psn := 16, va := 0x10040, rkey := 0x70000, dmaLen := 2048, payload := leBytes 1024 7 } : RocePkt)).get (by decide +kernel)).fst, (((tEth : State).writeMsg (5 : Nat) 6 ({ opcode := 0, destQP := 5, psn := 16, va := 0x10040, rkey := 0x70000, dmaLen := 2048, payload := leBytes 1024 7 } : RocePkt)).get (by decide +kernel)).snd.fst, (((tEth : State).writeMsg (5 : Nat) 6 ({ opcode := 0, destQP := 5, psn := 16, va := 0x10040, rkey := 0x70000, dmaLen := 2048, payload := leBytes 1024 7 } : RocePkt)).get (by decide +kernel)).snd.snd.fst, (((tEth : State).writeMsg (5 : Nat) 6 ({ opcode := 0, destQP := 5, psn := 16, va := 0x10040, rkey := 0x70000, dmaLen := 2048, payload := leBytes 1024 7 } : RocePkt)).get (by decide +kernel)).snd.snd.snd, by decide +kernel⟩,
   ⟨tEth, 96, { opcode := 0, destQP := 5, psn := 16, va := 0x10040, rkey := 0x70000, dmaLen := 0, payload := leBytes 1024 7 }, 5, by decide +kernel⟩,
   ⟨tEth, 96, { opcode := 0, destQP := 5, psn := 16 }, 5, by decide +kernel⟩,
   ⟨tEth, 96, { opcode := 0, destQP := 5, psn := 16 }, 5, by decide +kernel⟩,
   ⟨tEth.setRing 3 { cfg := BitVec.ofNat 64 (13 + 9 * 2 ^ 46), posted := 64 }, 96, { opcode := 0, destQP := 5, psn := 16, va := 0x10040, rkey := 0x70000, dmaLen := 300, payload := leBytes 300 7, ce := true }, 5, by decide +kernel⟩,
   ⟨tEth, 96, { opcode := 0, destQP := 5, psn := 16 }, 5, by decide +kernel⟩,
   ⟨tEth, 96, { opcode := 0, destQP := 5, psn := 16, va := 0x10040, rkey := 0x70000, dmaLen := 0, payload := leBytes 0 7, imm := 9 }, 5, ((tEth : State).writeMsg (5 : Nat) 11 ({ opcode := 0, destQP := 5, psn := 16, va := 0x10040, rkey := 0x70000, dmaLen := 0, payload := leBytes 0 7, imm := 9 } : RocePkt)).get (by decide +kernel), by decide +kernel⟩,
   ⟨tEth, 96, { opcode := 0, destQP := 5, psn := 16, va := 0x10040, rkey := 0x70000, dmaLen := 2048, payload := leBytes 1024 7 }, 5, ((tEth : State).mrCheck ((tEth : State).qp (5 : Nat)) ({ opcode := 0, destQP := 5, psn := 16, va := 0x10040, rkey := 0x70000, dmaLen := 2048, payload := leBytes 1024 7 } : RocePkt) false).get (by decide +kernel), by decide +kernel⟩,
   ⟨tEth, 96, { opcode := 0, destQP := 5, psn := 16, va := 0x10040, rkey := 0x70000, dmaLen := 0, payload := leBytes 1024 7 }, 5, ((tEth : State).mrCheck ((tEth : State).qp (5 : Nat)) ({ opcode := 0, destQP := 5, psn := 16, va := 0x10040, rkey := 0x70000, dmaLen := 0, payload := leBytes 1024 7 } : RocePkt) false).get (by decide +kernel), by decide +kernel⟩,
   ⟨tRoceWait.setQp 5 { tRoceWait.qp 5 with reqs := [{ tRoceReq with use := .read 0 0 64 }], acks := [], msgs := [{ write := false, psn := 16, num := 1, gfa := 0, left := 64, total := 64, mr := 7 }] }, 96, { opcode := 0, destQP := 5, psn := 16 }, 5, by decide +kernel⟩,
   ⟨tEth, 96, { opcode := 0, destQP := 5, psn := 16 }, 5, by decide +kernel⟩⟩

theorem wit_RemoteWritesAndReads_2 :
    (∃ (s : State) (p : PortIx) (k : RocePkt) (n : Nat), let d : Nat := (k.psn.toNat + 2 ^ 24 - (s.qp n).epsn) % 2 ^ 24; s.servedNow 6 p.val n k = true ∧ d ≠ 0 ∧ d < 2 ^ 24 - 2 ^ 22) ∧
    (∃ (s : State) (p : PortIx) (k : RocePkt) (n : Nat), let d : Nat := (k.psn.toNat + 2 ^ 24 - (s.qp n).epsn) % 2 ^ 24; s.servedNow 6 p.val n k = true ∧ 2 ^ 24 - 2 ^ 22 ≤ d ∧ (s.qp n).quiet = true) ∧
    (∃ (s : State) (p : PortIx) (k : RocePkt) (n : Nat), let d : Nat := (k.psn.toNat + 2 ^ 24 - (s.qp n).epsn) % 2 ^ 24; s.servedNow 7 p.val n k = true ∧ d ≠ 0 ∧ d < 2 ^ 24 - 2 ^ 22) ∧
    (∃ (s : State) (p : PortIx) (k : RocePkt) (n : Nat), let d : Nat := (k.psn.toNat + 2 ^ 24 - (s.qp n).epsn) % 2 ^ 24; s.servedNow 8 p.val n k = true ∧ d ≠ 0 ∧ d < 2 ^ 24 - 2 ^ 22) ∧
    (∃ (s : State) (p : PortIx) (k : RocePkt) (n : Nat), let d : Nat := (k.psn.toNat + 2 ^ 24 - (s.qp n).epsn) % 2 ^ 24; s.servedNow 9 p.val n k = true ∧ d ≠ 0 ∧ d < 2 ^ 24 - 2 ^ 22) ∧
    (∃ (s : State) (p : PortIx) (k : RocePkt) (n : Nat) (m : Nat), s.servedNow 12 p.val n k = true ∧ 2 ^ 24 - 2 ^ 22 ≤ (k.psn.toNat + 2 ^ 24 - (s.qp n).epsn) % 2 ^ 24 ∧ s.readBad n k = false ∧ s.mrCheck (s.qp n) k false = some m ∧ (s.qp n).quiet = true ∧ (k.dmaLen ≠ 0 ∨ (s.qp n).tokens < 0)) ∧
    (∃ (s : State) (p : PortIx) (k : RocePkt), s.ethOpen p.val = false) ∧
    (∃ (s : State) (p : PortIx) (k : RocePkt), s.arrives 6 p.val k = true ∧ (Option.all (fun n => !s.qpServes n) (s.qpOf k) = true)) ∧
    (∃ (s : State) (p : PortIx) (k : RocePkt) (f : Nat × EthFrame), s.ethOpen p.val = true ∧ s.roceFrame 10 p.val k = some f ∧ s.frameFirst p.val f = false) ∧
    (∃ (s : State) (p : PortIx) (k : RocePkt) (f : Nat × EthFrame), s.ethOpen p.val = true ∧ s.roceFrame 10 p.val k = some f ∧ s.frameFirst p.val f = true ∧ (s.meter (ethMeter p.val f.fst)).en = true ∧ ((s.meter (ethMeter p.val f.fst)).colour     (if (Option.map (fun v => v.snd) f.snd.vlan).getD false = true then Colour.yellow else Colour.green)     f.snd.bytes.length =   Colour.red)) ∧
    (∃ (s : State) (p : PortIx) (k : RocePkt) (n : Nat), s.arrives 6 p.val k = true ∧ s.qpOf k = some n ∧ s.qpServes n = true ∧ (s.roce.cached.contains n = false ∨ ((s.eth p.val).missq.any fun m => m.qp == n) = true) ∧ (s.eth p.val).missq.length < 512) :=
  ⟨⟨tEth, 96, { opcode := 0, destQP := 5, psn := 18, va := 0x10040, rkey := 0x70000, dmaLen := 0, payload := leBytes 200 7 }, 5, by decide +kernel⟩,
   ⟨tEth, 96, { opcode := 0, destQP := 5, psn := 15, va := 0x10040, rkey := 0x70000, dmaLen := 300, payload := leBytes 300 7 }, 5, by decide +kernel⟩,
   ⟨tEth, 96, { opcode := 0, destQP := 5, psn := 18, va := 0x10040, rkey := 0x70000, dmaLen := 0, payload := leBytes 200 7 }, 5, by decide +kernel⟩,
   ⟨tEth, 96, { opcode := 0, destQP := 5, psn := 18, va := 0x10040, rkey := 0x70000, dmaLen := 0, payload := leBytes 200 7 }, 5, by decide +kernel⟩,
   ⟨tEth, 96, { opcode := 0, destQP := 5, psn := 18, va := 0x10040, rkey := 0x70000, dmaLen := 0, payload := leBytes 200 7 }, 5, by decide +kernel⟩,
   ⟨tEth, 96, { opcode := 0, destQP := 5, psn := 15, va := 0x10040, rkey := 0x70000, dmaLen := 300, payload := leBytes 300 7 }, 5, ((tEth : State).mrCheck ((tEth : State).qp (5 : Nat)) ({ opcode := 0, destQP := 5, psn := 15, va := 0x10040, rkey := 0x70000, dmaLen := 300, payload := leBytes 300 7 } : RocePkt) false).get (by decide +kernel), by decide +kernel⟩,
   ⟨tEth, 0, { opcode := 0, destQP := 5, psn := 16 }, by decide +kernel⟩,
   ⟨{ tEth.setBit rRoceCtl 0 false with roce := { tEth.roce with cached := [], eth := [(96, { missq := [{ qp := 5, prio := 0, yellow := false, pkt := { opcode := 0x0A, destQP := 5, psn := 15 } }] })] } }, 96, { opcode := 0, destQP := 5, psn := 16 }, by decide +kernel⟩,
   ⟨tEth.setEth 96 { buffer := [(2, tEthFrame 0x0A 6), (2, tEthFrame 0x0A 5)] }, 96, { opcode := 0, destQP := 5, psn := 16 }, ((tEth.setEth 96 { buffer := [(2, tEthFrame 0x0A 6), (2, tEthFrame 0x0A 5)] } : State).roceFrame 10 (↑(96 : PortIx)) ({ opcode := 0, destQP := 5, psn := 16 } : RocePkt)).get (by decide +kernel), by decide +kernel⟩,
   ⟨(tEth.setEth 96 { buffer := [(2, tEthFrame 0x0A 5)] }).setMeter (ethMeter 96 2) { cfg1 := 1 }, 96, { opcode := 0, destQP := 5, psn := 16 }, (((tEth.setEth 96 { buffer := [(2, tEthFrame 0x0A 5)] }).setMeter (ethMeter 96 2) { cfg1 := 1 } : State).roceFrame 10 (↑(96 : PortIx)) ({ opcode := 0, destQP := 5, psn := 16 } : RocePkt)).get (by decide +kernel), by decide +kernel⟩,
   ⟨{ tEth with mem := { tEth.mem with poison := [5] }, roce := { tEth.roce with cached := [], eth := [(96, { missq := [{ qp := 5, prio := 0, yellow := false, pkt := { opcode := 0x0A, destQP := 5, psn := 15 } }] })] } }, 96, { opcode := 0, destQP := 5, psn := 16 }, (({ tEth with mem := { tEth.mem with poison := [5] }, roce := { tEth.roce with cached := [], eth := [(96, { missq := [{ qp := 5, prio := 0, yellow := false, pkt := { opcode := 0x0A, destQP := 5, psn := 15 } }] })] } } : State).qpOf ({ opcode := 0, destQP := 5, psn := 16 } : RocePkt)).get (by decide +kernel), by decide +kernel⟩⟩

theorem wit_RemoteWritesAndReads_3 :
    (∃ (s : State) (p : PortIx) (k : RocePkt) (n : Nat), s.arrives 6 p.val k = true ∧ s.qpOf k = some n ∧ s.qpServes n = true ∧ (s.roce.cached.contains n = false ∨ ((s.eth p.val).missq.any fun m => m.qp == n) = true) ∧ 512 ≤ (s.eth p.val).missq.length) ∧
    (∃ (s : State) (p : PortIx) (k : RocePkt) (n : Nat), s.arrives 7 p.val k = true ∧ s.qpOf k = some n ∧ s.qpServes n = true ∧ (s.roce.cached.contains n = false ∨ ((s.eth p.val).missq.any fun m => m.qp == n) = true) ∧ (s.eth p.val).missq.length < 512) ∧
    (∃ (s : State) (p : PortIx) (k : RocePkt) (n : Nat), s.arrives 8 p.val k = true ∧ s.qpOf k = some n ∧ s.qpServes n = true ∧ (s.roce.cached.contains n = false ∨ ((s.eth p.val).missq.any fun m => m.qp == n) = true) ∧ (s.eth p.val).missq.length < 512) ∧
    (∃ (s : State) (p : PortIx) (k : RocePkt) (n : Nat), s.arrives 10 p.val k = true ∧ s.qpOf k = some n ∧ s.qpServes n = true ∧ (s.roce.cached.contains n = false ∨ ((s.eth p.val).missq.any fun m => m.qp == n) = true) ∧ (s.eth p.val).missq.length < 512) ∧
    (∃ (s : State) (p : PortIx) (k : RocePkt) (n : Nat), s.arrives 9 p.val k = true ∧ s.qpOf k = some n ∧ s.qpServes n = true ∧ (s.roce.cached.contains n = false ∨ ((s.eth p.val).missq.any fun m => m.qp == n) = true) ∧ (s.eth p.val).missq.length < 512) ∧
    (∃ (s : State) (p : PortIx) (k : RocePkt) (n : Nat), s.arrives 11 p.val k = true ∧ s.qpOf k = some n ∧ s.qpServes n = true ∧ (s.roce.cached.contains n = false ∨ ((s.eth p.val).missq.any fun m => m.qp == n) = true) ∧ (s.eth p.val).missq.length < 512) ∧
    (∃ (s : State) (p : PortIx) (k : RocePkt) (n : Nat), s.arrives 12 p.val k = true ∧ s.qpOf k = some n ∧ s.qpServes n = true ∧ (s.roce.cached.contains n = false ∨ ((s.eth p.val).missq.any fun m => m.qp == n) = true) ∧ (s.eth p.val).missq.length < 512) ∧
    (∃ (s : State) (p : PortIx) (n : BitVec 16), ((s.eth p.val).missq.all fun m => m.qp != n.toNat) = true) ∧
    (∃ (s : State) (p : PortIx) (n : BitVec 16), (4096 ≤ (List.filter (fun x => x != n.toNat) s.roce.cached).length) ∧ ((s.roce.cached.all fun v => s.qpBusy v) = true)) ∧
    (∃ (s : State) (p : PortIx) (n : BitVec 16), (((s.eth p.val).missq.any fun m => m.qp == n.toNat) = true) ∧ s.roce.cached.length < 4096 ∧ s.poisoned (s.spillAt n.toNat) = false ∧ s.qpServes n.toNat = false) ∧
    (∃ (s : State) (p : PortIx) (n : BitVec 16) (m : Miss), (s.eth p.val).missq = [m] ∧ m.qp = n.toNat ∧ s.qpServes n.toNat = true ∧ s.roce.cached.length < 4096 ∧ s.poisoned (s.spillAt n.toNat) = false ∧ (s.qp n.toNat).quiet = true ∧ m.pkt.opcode ≠ 12 ∧ 2 ^ 24 - 2 ^ 22 ≤ (m.pkt.psn.toNat + 2 ^ 24 - (s.qp n.toNat).epsn) % 2 ^ 24) :=
  ⟨⟨{ tEth with roce := { tEth.roce with cached := [], eth := [(96, { missq := List.replicate 512 { qp := 5, prio := 0, yellow := false, pkt := { opcode := 0x0A, destQP := 5, psn := 15 } } })] } }, 96, { opcode := 0, destQP := 5, psn := 16 }, (({ tEth with roce := { tEth.roce with cached := [], eth := [(96, { missq := List.replicate 512 { qp := 5, prio := 0, yellow := false, pkt := { opcode := 0x0A, destQP := 5, psn := 15 } } })] } } : State).qpOf ({ opcode := 0, destQP := 5, psn := 16 } : RocePkt)).get (by decide +kernel), by decide +kernel⟩,
   ⟨{ tEth with mem := { tEth.mem with poison := [5] }, roce := { tEth.roce with cached := [], eth := [(96, { missq := [{ qp := 5, prio := 0, yellow := false, pkt := { opcode := 0x0A, destQP := 5, psn := 15 } }] })] } }, 96, { opcode := 0, destQP := 5, psn := 16 }, (({ tEth with mem := { tEth.mem with poison := [5] }, roce := { tEth.roce with cached := [], eth := [(96, { missq := [{ qp := 5, prio := 0, yellow := false, pkt := { opcode := 0x0A, destQP := 5, psn := 15 } }] })] } } : State).qpOf ({ opcode := 0, destQP := 5, psn := 16 } : RocePkt)).get (by decide +kernel), by decide +kernel⟩,
   ⟨{ tEth with mem := { tEth.mem with poison := [5] }, roce := { tEth.roce with cached := [], eth := [(96, { missq := [{ qp := 5, prio := 0, yellow := false, pkt := { opcode := 0x0A, destQP := 5, psn := 15 } }] })] } }, 96, { opcode := 0, destQP := 5, psn := 16 }, (({ tEth with mem := { tEth.mem with poison := [5] }, roce := { tEth.roce with cached := [], eth := [(96, { missq := [{ qp := 5, prio := 0, yellow := false, pkt := { opcode := 0x0A, destQP := 5, psn := 15 } }] })] } } : State).qpOf ({ opcode := 0, destQP := 5, psn := 16 } : RocePkt)).get (by decide +kernel), by decide +kernel⟩,
   ⟨{ tEth with mem := { tEth.mem with poison := [5] }, roce := { tEth.roce with cached := [], eth := [(96, { missq := [{ qp := 5, prio := 0, yellow := false, pkt := { opcode := 0x0A, destQP := 5, psn := 15 } }] })] } }, 96, { opcode := 0, destQP := 5, psn := 16 }, (({ tEth with mem := { tEth.mem with poison := [5] }, roce := { tEth.roce with cached := [], eth := [(96, { missq := [{ qp := 5, prio := 0, yellow := false, pkt := { opcode := 0x0A, destQP := 5, psn := 15 } }] })] } } : State).qpOf ({ opcode := 0, destQP := 5, psn := 16 } : RocePkt)).get (by decide +kernel), by decide +kernel⟩,
   ⟨{ tEth with mem := { tEth.mem with poison := [5] }, roce := { tEth.roce with cached := [], eth := [(96, { missq := [{ qp := 5, prio := 0, yellow := false, pkt := { opcode := 0x0A, destQP := 5, psn := 15 } }] })] } }, 96, { opcode := 0, destQP := 5, psn := 16 }, (({ tEth with mem := { tEth.mem with poison := [5] }, roce := { tEth.roce with cached := [], eth := [(96, { missq := [{ qp := 5, prio := 0, yellow := false, pkt := { opcode := 0x0A, destQP := 5, psn := 15 } }] })] } } : State).qpOf ({ opcode := 0, destQP := 5, psn := 16 } : RocePkt)).get (by decide +kernel), by decide +kernel⟩,
   ⟨{ tEth with mem := { tEth.mem with poison := [5] }, roce := { tEth.roce with cached := [], eth := [(96, { missq := [{ qp := 5, prio := 0, yellow := false, pkt := { opcode := 0x0A, destQP := 5, psn := 15 } }] })] } }, 96, { opcode := 0, destQP := 5, psn := 16 }, (({ tEth with mem := { tEth.mem with poison := [5] }, roce := { tEth.roce with cached := [], eth := [(96, { missq := [{ qp := 5, prio := 0, yellow := false, pkt := { opcode := 0x0A, destQP := 5, psn := 15 } }] })] } } : State).qpOf ({ opcode := 0, destQP := 5, psn := 16 } : RocePkt)).get (by decide +kernel), by decide +kernel⟩,
   ⟨{ tEth with mem := { tEth.mem with poison := [5] }, roce := { tEth.roce with cached := [], eth := [(96, { missq := [{ qp := 5, prio := 0, yellow := false, pkt := { opcode := 0x0A, destQP := 5, psn := 15 } }] })] } }, 96, { opcode := 0, destQP := 5, psn := 16 }, (({ tEth with mem := { tEth.mem with poison := [5] }, roce := { tEth.roce with cached := [], eth := [(96, { missq := [{ qp := 5, prio := 0, yellow := false, pkt := { opcode := 0x0A, destQP := 5, psn := 15 } }] })] } } : State).qpOf ({ opcode := 0, destQP := 5, psn := 16 } : RocePkt)).get (by decide +kernel), by decide +kernel⟩,
   ⟨tEth, 96, 6, by decide +kernel⟩,
   ⟨{ tRoceWait with roce := { tRoceWait.roce with cached := List.replicate 4096 5 } }, 96, 6, by decide +kernel⟩,
   ⟨{ tEth.setBit rRoceCtl 0 false with roce := { tEth.roce with cached := [], eth := [(96, { missq := [{ qp := 5, prio := 0, yellow := false, pkt := { opcode := 0x0A, destQP := 5, psn := 15 } }] })] } }, 96, 5, by decide +kernel⟩,
   ⟨{ tEth with roce := { tEth.roce with cached := [], eth := [(96, { missq := [{ qp := 5, prio := 0, yellow := false, pkt := { opcode := 0x0A, destQP := 5, psn := 15, va := 0x10040, rkey := 0x70000, dmaLen := 300, payload := leBytes 300 7 } }] })] } }, 96, 5, (({ tEth with roce := { tEth.roce with cached := [], eth := [(96, { missq := [{ qp := 5, prio := 0, yellow := false, pkt := { opcode := 0x0A, destQP := 5, psn := 15, va := 0x10040, rkey := 0x70000, dmaLen := 300, payload := leBytes 300 7 } }] })] } } : State).eth ↑(96 : PortIx)).missq.head (by decide +kernel), by decide +kernel⟩⟩

theorem wit_RemoteWritesAndReads_4 :
    (∃ (s : State) (p : PortIx) (n : BitVec 16), (((s.eth p.val).missq.any fun m => m.qp == n.toNat) = true) ∧ s.roce.cached.length < 4096 ∧ s.roce.cached.contains n.toNat = false ∧ s.poisoned (s.spillAt n.toNat) = true ∧ s.qpServes n.toNat = true) ∧
    (∃ (s : State) (c : Packet) (x : Tracker) (r : RoceReq) (n : Nat) (a : RoceAck) (m : RoceMsg) (j : Nat), s.proxyTxn c = none ∧ s.trackerFor c = some x ∧ x.purpose = Purpose.roce n r.k ∧ (s.qp n).state = QpState.rtr ∧ (s.qp n).reqs = [r] ∧ s.roceTracked (s.qp n).port + 1 < 2048 ∧ c.status.toNat < 12 ∧ c.status = stOK ∧ r.use = RoceUse.write ∧ (s.qp n).acks = [a] ∧ (s.qp n).msgs = [m] ∧ m.write = true ∧ m.ended = true ∧ m.num = a.num ∧ m.imm = none ∧ a.last = true ∧ j ≠ n) ∧
    (∃ (s : State) (c : Packet) (x : Tracker) (r : RoceReq) (n : Nat) (j : Nat), s.proxyTxn c = none ∧ s.trackerFor c = some x ∧ x.purpose = Purpose.roce n r.k ∧ (s.qp n).state = QpState.rtr ∧ (s.qp n).reqs = [r] ∧ s.roceTracked (s.qp n).port + 1 < 2048 ∧ c.status.toNat < 12 ∧ c.status = stRetry ∧ r.retries < 3 ∧ j ≠ n) ∧
    (∃ (s : State) (c : Packet) (x : Tracker) (r : RoceReq) (n : Nat) (st : Status) (j : Nat), s.proxyTxn c = none ∧ s.trackerFor c = some x ∧ x.purpose = Purpose.roce n r.k ∧ (s.qp n).state = QpState.rtr ∧ (s.qp n).reqs = [r] ∧ s.roceTracked (s.qp n).port + 1 < 2048 ∧ c.status.toNat < 12 ∧ (st = if c.status = stRetry then stLostState else c.status) ∧ c.status ≠ stOK ∧ (c.status = stRetry → 3 ≤ r.retries) ∧ (∀ (off cut len : Nat), r.use ≠ RoceUse.read off cut len) ∧ j ≠ n) ∧
    (∃ (s : State) (c : Packet) (x : Tracker) (r : RoceReq) (n : Nat) (m : RoceMsg) (cut : Nat) (len : Nat) (j : Nat), s.proxyTxn c = none ∧ s.trackerFor c = some x ∧ x.purpose = Purpose.roce n r.k ∧ (s.qp n).state = QpState.rtr ∧ (s.qp n).reqs = [r] ∧ s.roceTracked (s.qp n).port + 1 < 2048 ∧ c.status.toNat < 12 ∧ c.status = stOK ∧ r.use = RoceUse.read 0 cut len ∧ (s.qp n).acks = [] ∧ (s.qp n).msgs = [m] ∧ m.write = false ∧ m.num = r.num ∧ m.data = [] ∧ m.resp = 0 ∧ m.total = len ∧ 0 < len ∧ len ≤ (s.qp n).pmtu ∧ cut + len ≤ c.payload.length ∧ 0 ≤ (s.qp n).tokens ∧ m.dup = false ∧ s.twinOp 4 (BitVec.ofNat 32 n) = none ∧ j ≠ n) ∧
    (∃ (s : State) (p : PortIx) (k : RocePkt) (n : Nat), s.arrives 129 p.val k = true ∧ s.qpOf k = some n ∧ s.qpServes n = true) ∧
    (∃ (s : State) (n : BitVec 16) (m : Nat), let q : Qp := s.qp n.toNat; q.state = QpState.rtr ∧ s.since q.incAt (s.fld rRoceCc 23 16) = true ∧ m ≠ n.toNat) ∧
    (∃ (s : State) (n : BitVec 16), let q : Qp := s.qp n.toNat; q.state ≠ QpState.rtr ∨ s.since q.incAt (s.fld rRoceCc 23 16) = false) :=
  ⟨⟨{ tEth with mem := { tEth.mem with poison := [5] }, roce := { tEth.roce with cached := [], eth := [(96, { missq := [{ qp := 5, prio := 0, yellow := false, pkt := { opcode := 0x0A, destQP := 5, psn := 15 } }] })] } }, 96, 5, by decide +kernel⟩,
   ⟨{ tRoceWait with roce := { tRoceWait.roce with cached := List.replicate 4096 5 } }, { opcode := 0x30, agent := agRoce 96, tid := 0 }, (({ tRoceWait with roce := { tRoceWait.roce with cached := List.replicate 4096 5 } } : State).trackerFor ({ opcode := 0x30, agent := agRoce 96, tid := 0 } : Packet)).get (by decide +kernel), tRoceReq, 5, (({ tRoceWait with roce := { tRoceWait.roce with cached := List.replicate 4096 5 } } : State).qp (5 : Nat)).acks.head (by decide +kernel), (({ tRoceWait with roce := { tRoceWait.roce with cached := List.replicate 4096 5 } } : State).qp (5 : Nat)).msgs.head (by decide +kernel), 0, by decide +kernel⟩,
   ⟨{ tRoceWait with roce := { tRoceWait.roce with cached := List.replicate 4096 5 } }, { opcode := 0x30, agent := agRoce 96, tid := 0, status := stRetry }, (({ tRoceWait with roce := { tRoceWait.roce with cached := List.replicate 4096 5 } } : State).trackerFor ({ opcode := 0x30, agent := agRoce 96, tid := 0, status := stRetry } : Packet)).get (by decide +kernel), tRoceReq, 5, 0, by decide +kernel⟩,
   ⟨tRoceWait, { opcode := 0x30, agent := agRoce 96, tid := 0, status := stPoison }, { req := { agent := agRoce 96 }, purpose := .roce 5 0, dest := 0 }, tRoceReq, 5, stPoison, 0, by decide +kernel, by decide +kernel, rfl, by decide +kernel, by decide +kernel, by decide +kernel, by decide +kernel, by decide +kernel, by decide +kernel, by decide +kernel, (fun _ _ _ h => nomatch h), by decide +kernel⟩,
   ⟨tRoceWait.setQp 5 { tRoceWait.qp 5 with reqs := [{ tRoceReq with use := .read 0 0 64 }], acks := [], msgs := [{ write := false, psn := 16, num := 1, gfa := 0, left := 64, total := 64, mr := 7 }] }, { opcode := 0x30, agent := agRoce 96, tid := 0, len := 128, payload := leBytes 128 9 }, ((tRoceWait.setQp 5 { tRoceWait.qp 5 with reqs := [{ tRoceReq with use := .read 0 0 64 }], acks := [], msgs := [{ write := false, psn := 16, num := 1, gfa := 0, left := 64, total := 64, mr := 7 }] } : State).trackerFor ({ opcode := 0x30, agent := agRoce 96, tid := 0, len := 128, payload := leBytes 128 9 } : Packet)).get (by decide +kernel), { tRoceReq with use := .read 0 0 64 }, 5, ((tRoceWait.setQp 5 { tRoceWait.qp 5 with reqs := [{ tRoceReq with use := .read 0 0 64 }], acks := [], msgs := [{ write := false, psn := 16, num := 1, gfa := 0, left := 64, total := 64, mr := 7 }] } : State).qp (5 : Nat)).msgs.head (by decide +kernel), 0, (((tRoceWait.setQp 5 { tRoceWait.qp 5 with reqs := [{ tRoceReq with use := .read 0 0 64 }], acks := [], msgs := [{ write := false, psn := 16, num := 1, gfa := 0, left := 64, total := 64, mr := 7 }] } : State).qp (5 : Nat)).msgs.head (by decide +kernel)).total, 0, by decide +kernel⟩,
   ⟨tEth, 96, { opcode := 0, destQP := 5, psn := 16 }, ((tEth : State).qpOf ({ opcode := 0, destQP := 5, psn := 16 } : RocePkt)).get (by decide +kernel), by decide +kernel⟩,
   ⟨tEth, 5, 0, by decide +kernel⟩,
   ⟨tEth, 6, by decide +kernel⟩⟩

theorem wit_EthernetAndItsCommands_1 :
    (∃ (s : State) (p : PortIx) (w : BitVec 8) (l : List (BitVec 16)) (q : Nat), s.ethOpen p.val = true ∧ q < 8) ∧
    (∃ (s : State) (p : PortIx) (w : BitVec 8) (l : List (BitVec 16)) (r : Nat), s.ethOpen p.val = true ∧ r ≠ p.val) ∧
    (∃ (s : State) (p : PortIx) (w : BitVec 8) (l : List (BitVec 16)), s.ethOpen p.val = false) ∧
    (∃ (s : State) (p : PortIx) (q : Fin 8), (s.eth p.val).pausing.getLsbD q.val = true) ∧
    (∃ (s : State) (p : PortIx) (q : Fin 8), (s.eth p.val).pausing.getLsbD q.val = false) ∧
    (∃ (s : State) (p : PortIx) (q : Fin 8) (i : Nat), i < 8) ∧
    (∃ (s : State) (p : PortIx) (q : Fin 8) (r : Nat), r ≠ p.val) ∧
    (∃ (s : State) (p : PortIx) (v : Word), s.cfgOpen (rEthPfc p.val) = false) ∧
    (∃ (s : State) (p : PortIx) (v : Word), s.cfgOpen (rEthPfc p.val) = true ∧ s.portRole p.val ≠ roleEth) ∧
    (∃ (s : State) (p : PortIx) (v : Word) (c : Nat), let w : Nat := BitVec.toNat v % 2 ^ 41; s.cfgOpen (rEthPfc p.val) = true ∧ s.portRole p.val = roleEth ∧ pfcRefused w = false ∧ c ≠ rEthPfc p.val) ∧
    (∃ (s : State) (p : PortIx) (v : Word) (i : Nat), let w : Nat := BitVec.toNat v % 2 ^ 41; s.cfgOpen (rEthPfc p.val) = true ∧ s.portRole p.val = roleEth ∧ pfcRefused w = true ∧ i < 63) :=
  ⟨⟨tEth, 96, 7, [1, 0, 5], 0, by decide +kernel⟩,
   ⟨tEth, 96, 7, [1, 0, 5], 0, by decide +kernel⟩,
   ⟨tEth, 0, 7, [1, 0, 5], by decide +kernel⟩,
   ⟨tEth.setEth 96 { pausing := 4 }, 96, 2, by decide +kernel⟩,
   ⟨tEth, 96, 2, by decide +kernel⟩,
   ⟨tEth, 96, 2, 0, by decide +kernel⟩,
   ⟨tEth, 96, 2, 0, by decide +kernel⟩,
   ⟨State.reset.setBit rSecStat 4 true, 96, 1, by decide +kernel⟩,
   ⟨tEth, 0, 1, by decide +kernel⟩,
   ⟨tEth, 96, BitVec.ofNat 64 (1 + 9 * 2 ^ 8 + 4 * 2 ^ 19 + 5 * 2 ^ 30), 0, by decide +kernel⟩,
   ⟨tEth, 96, 1, 0, by decide +kernel⟩⟩

theorem wit_EthernetAndItsCommands_2 :
    (∃ (s : State) (p : PortIx) (v : Word) (c : Nat), let w : Nat := BitVec.toNat v % 2 ^ 41; s.cfgOpen (rEthPfc p.val) = true ∧ s.portRole p.val = roleEth ∧ pfcRefused w = true ∧ c ≠ rEthPfc p.val) ∧
    (∃ (s : State) (p : PortIx) (f : EthFrame), s.ethOpen p.val = false) ∧
    (∃ (s : State) (p : PortIx) (f : EthFrame), s.ethOpen p.val = true ∧ rawEth f = false ∧ s.frameQp f = none) ∧
    (∃ (s : State) (p : PortIx) (f : EthFrame) (n : Nat), s.ethOpen p.val = true ∧ rawEth f = false ∧ s.frameQp f = some n ∧ roceOpOk f = false) ∧
    (∃ (s : State) (p : PortIx) (f : EthFrame), let q : Nat := s.ethPrio p.val f; s.ethOpen p.val = true ∧ (rawEth f = true ∨ s.frameQp f ≠ none ∧ roceOpOk f = true) ∧ s.frameRoom p.val q f = false) ∧
    (∃ (s : State) (p : PortIx) (f : EthFrame) (r : Nat), let q : Nat := s.ethPrio p.val f; s.ethOpen p.val = true ∧ rawEth f = false ∧ s.frameQp f ≠ none ∧ roceOpOk f = true ∧ s.frameRoom p.val q f = true ∧ r ≠ p.val) ∧
    (∃ (s : State) (p : PortIx) (f : EthFrame) (g : Nat × EthFrame), let q : Nat := s.ethPrio p.val f; s.ethOpen p.val = true ∧ rawEth f = true ∧ s.frameRoom p.val q f = true ∧ (List.find? (fun x => x.fst == q) (s.eth p.val).buffer = some g) ∧ g.snd.isRoce = true ∧ g.snd.roce.destQP ≠ 1) ∧
    (∃ (s : State) (p : PortIx) (f : EthFrame), let q : Nat := s.ethPrio p.val f; let y : Meter := s.meter (ethMeter p.val q); s.ethOpen p.val = true ∧ rawEth f = true ∧ s.frameRoom p.val q f = true ∧ (((s.eth p.val).buffer.all fun x => x.fst != q) = true) ∧ y.en = true ∧ (y.colour (if (Option.map (fun v => v.snd) f.vlan).getD false = true then Colour.yellow else Colour.green)     f.bytes.length =   Colour.red)) ∧
    (∃ (s : State) (p : PortIx) (f : EthFrame), let q : Nat := s.ethPrio p.val f; let y : Meter := s.meter (ethMeter p.val q); s.ethOpen p.val = true ∧ rawEth f = true ∧ s.frameRoom p.val q f = true ∧ (((s.eth p.val).buffer.all fun x => x.fst != q) = true) ∧ y.en = false ∧ s.rawTakes = true ∧ s.roce.rawQ = []) ∧
    (∃ (s : State) (p : PortIx) (f : EthFrame), let q : Nat := s.ethPrio p.val f; let y : Meter := s.meter (ethMeter p.val q); s.ethOpen p.val = true ∧ rawEth f = true ∧ s.frameRoom p.val q f = true ∧ (((s.eth p.val).buffer.all fun x => x.fst != q) = true) ∧ y.en = false ∧ s.rawTakes = true ∧ s.roce.rawQ ≠ []) ∧
    (∃ (s : State) (p : PortIx) (f : EthFrame), let q : Nat := s.ethPrio p.val f; let y : Meter := s.meter (ethMeter p.val q); s.ethOpen p.val = true ∧ rawEth f = true ∧ s.frameRoom p.val q f = true ∧ (((s.eth p.val).buffer.all fun x => x.fst != q) = true) ∧ y.en = false ∧ s.rawTakes = false) :=
  ⟨⟨tEth, 96, 1, 0, by decide +kernel⟩,
   ⟨tEth, 0, tRawFrame, by decide +kernel⟩,
   ⟨tEth, 96, { toPort := true, broadcast := false, isRoce := true, icrcOk := false, vlan := none, dscp := none, ect := false, bytes := leBytes 64 5, roce := { opcode := 0x0A, destQP := 5, psn := 16 } }, by decide +kernel⟩,
   ⟨tEth, 96, { toPort := true, broadcast := false, isRoce := true, icrcOk := true, vlan := none, dscp := none, ect := false, bytes := leBytes 64 5, roce := { opcode := 0x04, destQP := 5, psn := 16 } }, ((tEth : State).frameQp ({ toPort := true, broadcast := false, isRoce := true, icrcOk := true, vlan := none, dscp := none, ect := false, bytes := leBytes 64 5, roce := { opcode := 0x04, destQP := 5, psn := 16 } } : EthFrame)).get (by decide +kernel), by decide +kernel⟩,
   ⟨tEth.setReg (rEthPfc 96) 0, 96, tRawFrame, by decide +kernel⟩,
   ⟨tEth, 96, tEthFrame 0x0A 5, 0, by decide +kernel⟩,
   ⟨tEth.setEth 96 { buffer := [(0, tEthFrame 0x0A 5)] }, 96, tRawFrame, (0, tEthFrame 0x0A 5), by decide +kernel⟩,
   ⟨tEth.setMeter (ethMeter 96 0) { cfg1 := 1 }, 96, tRawFrame, by decide +kernel⟩,
   ⟨tEth.setBit rRoceRawRing 63 true, 96, tRawFrame, by decide +kernel⟩,
   ⟨tRawOut, 96, tRawFrame, by decide +kernel⟩,
   ⟨tEth, 96, tRawFrame, by decide +kernel⟩⟩

theorem wit_EthernetAndItsCommands_3 :
    (∃ (s : State) (c : Packet) (x : Tracker) (e : Nat × Nat × Nat × List Byte) (k : Nat), let n : Nat := s.fld rRoceRawTail 45 32; s.proxyTxn c = none ∧ s.trackerFor c = some x ∧ x.purpose = Purpose.rawRing ∧ c.status.toNat < 12 ∧ s.roce.rawQ = [e] ∧ c.status = stOK ∧ s.bit rRoceRawTail 48 = true ∧ (s.stake n).lost = false ∧ k ≠ n) ∧
    (∃ (s : State) (c : Packet) (x : Tracker) (e : Nat × Nat × Nat × List Byte), s.proxyTxn c = none ∧ s.trackerFor c = some x ∧ x.purpose = Purpose.rawRing ∧ c.status.toNat < 12 ∧ s.roce.rawQ = [e] ∧ c.status = stOK ∧ s.bit rRoceRawTail 48 = false) ∧
    (∃ (s : State) (c : Packet) (x : Tracker) (e : Nat × Nat × Nat × List Byte), s.proxyTxn c = none ∧ s.trackerFor c = some x ∧ x.purpose = Purpose.rawRing ∧ c.status.toNat < 12 ∧ s.roce.rawQ = [e] ∧ c.status ≠ stOK) ∧
    (∃ (s : State) (v : Word), s.cfgOpen rRoceCtl = false) ∧
    (∃ (s : State) (v : Word) (c : Nat), s.cfgOpen rRoceCtl = true ∧ s.bit rRoceCtl 0 = false ∧ BitVec.getLsbD v 0 = true ∧ s.spillExt (nbits (BitVec.toNat v) 7 2) = true ∧ c ≠ rRoceCtl) ∧
    (∃ (s : State) (v : Word), s.cfgOpen rRoceCtl = true ∧ s.bit rRoceCtl 0 = false ∧ BitVec.getLsbD v 0 = true ∧ s.spillExt (nbits (BitVec.toNat v) 7 2) = false) ∧
    (∃ (s : State) (v : Word), s.cfgOpen rRoceCtl = true ∧ s.bit rRoceCtl 0 = true ∧ BitVec.getLsbD v 0 = true) ∧
    (∃ (s : State) (v : Word), s.cfgOpen rRoceCtl = true ∧ BitVec.getLsbD v 0 = false ∧ s.bit rRoceCtl 0 = false) ∧
    (∃ (s : State) (v : Word) (i : Nat), s.cfgOpen rRoceCtl = true ∧ BitVec.getLsbD v 0 = false ∧ s.bit rRoceCtl 0 = true ∧ 0 < i) ∧
    (∃ (s : State) (v : Word) (c : Nat), s.cfgOpen rRoceCtl = true ∧ BitVec.getLsbD v 0 = false ∧ c ≠ rRoceCtl) ∧
    (∃ (s : State) (v : Word), s.cfgOpen rRoceQpcCmd = false) :=
  ⟨⟨tRawOut.setBit rRoceRawTail 48 true, { opcode := 0x30, agent := agRoce 96, tid := 0 }, ((tRawOut.setBit rRoceRawTail 48 true : State).trackerFor ({ opcode := 0x30, agent := agRoce 96, tid := 0 } : Packet)).get (by decide +kernel), (tRawOut.setBit rRoceRawTail 48 true : State).roce.rawQ.head (by decide +kernel), 0, by decide +kernel⟩,
   ⟨tRawOut, { opcode := 0x30, agent := agRoce 96, tid := 0 }, ((tRawOut : State).trackerFor ({ opcode := 0x30, agent := agRoce 96, tid := 0 } : Packet)).get (by decide +kernel), (tRawOut : State).roce.rawQ.head (by decide +kernel), by decide +kernel⟩,
   ⟨tRawOut, { opcode := 0x30, agent := agRoce 96, tid := 0, status := stPoison }, ((tRawOut : State).trackerFor ({ opcode := 0x30, agent := agRoce 96, tid := 0, status := stPoison } : Packet)).get (by decide +kernel), (tRawOut : State).roce.rawQ.head (by decide +kernel), by decide +kernel⟩,
   ⟨State.reset.setBit rSecStat 4 true, 1, by decide +kernel⟩,
   ⟨{ State.reset with extents := [(2, { owner := 0, base := 0, pages := 4096, rd := true, wr := true, state := .valid })] }, 1, 0, by decide +kernel⟩,
   ⟨State.reset, 1, by decide +kernel⟩,
   ⟨tEth, 1, by decide +kernel⟩,
   ⟨State.reset, 0, by decide +kernel⟩,
   ⟨tEth, 0, 1, by decide +kernel⟩,
   ⟨tEth, 0, 0, by decide +kernel⟩,
   ⟨State.reset.setBit rSecStat 4 true, 1, by decide +kernel⟩⟩

theorem wit_EthernetAndItsCommands_4 :
    (∃ (s : State) (v : Word), s.cfgOpen rRoceQpcCmd = true ∧ s.qpHeld = true) ∧
    (∃ (s : State) (v : Word) (c : Nat), s.cfgOpen rRoceQpcCmd = true ∧ s.qpHeld = false ∧ BitVec.getLsbD v 63 = false ∧ c ≠ rRoceQpcCmd) ∧
    (∃ (s : State) (v : Word), s.cfgOpen rRoceMrCmd = false) ∧
    (∃ (s : State) (v : Word), s.cfgOpen rRoceMrCmd = true ∧ s.mrHeld = true) ∧
    (∃ (s : State) (v : Word) (c : Nat), s.cfgOpen rRoceMrCmd = true ∧ s.mrHeld = false ∧ BitVec.getLsbD v 63 = false ∧ c ≠ rRoceMrCmd) ∧
    (∃ (s : State) (v : Word) (m : Nat), let n : Nat := nbits (BitVec.toNat v) 15 0; s.qpGo v = true ∧ s.mayCreate n = true ∧ ctxBad s.stagedWords = false ∧ m ≠ n) ∧
    (∃ (s : State) (v : Word), let n : Nat := nbits (BitVec.toNat v) 15 0; s.qpGo v = true ∧ s.mayCreate n = true ∧ ctxBad s.stagedWords = false ∧ s.roce.cached.length < 4096) ∧
    (∃ (s : State) (v : Word), let n : Nat := nbits (BitVec.toNat v) 15 0; s.qpGo v = true ∧ s.mayCreate n = true ∧ ctxBad s.stagedWords = false ∧ s.bit rRoceCtl 1 = false) ∧
    (∃ (s : State) (v : Word), let n : Nat := nbits (BitVec.toNat v) 15 0; s.qpGo v = true ∧ s.mayCreate n = false) ∧
    (∃ (s : State) (v : Word), let n : Nat := nbits (BitVec.toNat v) 15 0; s.qpGo v = true ∧ s.mayCreate n = true ∧ ctxBad s.stagedWords = true) ∧
    (∃ (s : State) (v : Word) (i : Nat), s.qpGo v = true ∧ i < 8) :=
  ⟨⟨tEth.setQp 5 { destroying := true }, 1, by decide +kernel⟩,
   ⟨tEth, 1, 0, by decide +kernel⟩,
   ⟨State.reset.setBit rSecStat 4 true, 1, by decide +kernel⟩,
   ⟨(tEth.setMr 7 { state := 2 }).setReg rRoceMrCmd (7 + 2 * 2 ^ 16), 1, by decide +kernel⟩,
   ⟨tEth, 1, 0, by decide +kernel⟩,
   ⟨((tGranted.setReg (rRoceQpcData 0) (3 * 2 ^ 35 + 96 * 2 ^ 38)).setReg (rPclGrant 0 5) (2 ^ 16)), BitVec.ofNat 64 (2 ^ 63 + 7), 0, by decide +kernel⟩,
   ⟨((tGranted.setReg (rRoceQpcData 0) (3 * 2 ^ 35 + 96 * 2 ^ 38)).setReg (rPclGrant 0 5) (2 ^ 16)), BitVec.ofNat 64 (2 ^ 63 + 7), by decide +kernel⟩,
   ⟨((tGranted.setReg (rRoceQpcData 0) (3 * 2 ^ 35 + 96 * 2 ^ 38)).setReg (rPclGrant 0 5) (2 ^ 16)), BitVec.ofNat 64 (2 ^ 63 + 7), by decide +kernel⟩,
   ⟨tEth, BitVec.ofNat 64 (2 ^ 63 + 7), by decide +kernel⟩,
   ⟨((tGranted.setReg (rRoceQpcData 0) (3 * 2 ^ 35 + 96 * 2 ^ 38)).setReg (rPclGrant 0 5) (2 ^ 16)).setReg (rRoceQpcData 9) 1, BitVec.ofNat 64 (2 ^ 63 + 7), by decide +kernel⟩,
   ⟨tEth, BitVec.ofNat 64 (2 ^ 63 + 7), 0, by decide +kernel⟩⟩

theorem wit_EthernetAndItsCommands_5 :
    (∃ (s : State) (v : Word) (m : Nat), let n : Nat := nbits (BitVec.toNat v) 15 0; s.qpGo v = true ∧ (s.qp n).state = QpState.rtr ∧ m ≠ n) ∧
    (∃ (s : State) (v : Word), let n : Nat := nbits (BitVec.toNat v) 15 0; s.qpGo v = true ∧ (s.qp n).state ≠ QpState.rtr) ∧
    (∃ (s : State) (n : BitVec 16) (m : Nat), (s.qp n.toNat).destroying = true ∧ (s.qp n.toNat).reqs = [] ∧ m ≠ n.toNat) ∧
    (∃ (s : State) (n : BitVec 16), (s.qp n.toNat).destroying = false ∨ (s.qp n.toNat).reqs ≠ []) ∧
    (∃ (s : State) (v : Word) (m : Nat), let n : Nat := nbits (BitVec.toNat v) 13 0; let len : Nat := s.reg (rRoceMrData 3) % 2 ^ 41; s.mrGo v = true ∧ (s.mr n).state = 0 ∧ len ≠ 0 ∧ m ≠ n) ∧
    (∃ (s : State) (v : Word), let n : Nat := nbits (BitVec.toNat v) 13 0; s.mrGo v = true ∧ (s.mr n).state ≠ 0) ∧
    (∃ (s : State) (v : Word), let n : Nat := nbits (BitVec.toNat v) 13 0; let len : Nat := s.reg (rRoceMrData 3) % 2 ^ 41; s.mrGo v = true ∧ (s.mr n).state = 0 ∧ len = 0) ∧
    (∃ (s : State) (v : Word) (m : Nat), let n : Nat := nbits (BitVec.toNat v) 13 0; s.mrGo v = true ∧ (s.mr n).state = 1 ∧ s.mrBusy n = false ∧ m ≠ n) ∧
    (∃ (s : State) (v : Word) (m : Nat), let n : Nat := nbits (BitVec.toNat v) 13 0; s.mrGo v = true ∧ (s.mr n).state = 1 ∧ s.mrBusy n = true ∧ m ≠ n) ∧
    (∃ (s : State) (v : Word) (i : Nat), s.mrGo v = true ∧ i < 4) ∧
    (∃ (s : State) (k : Fin 16384), (s.mr k.val).state = 2 ∧ s.mrNamed k.val = true) :=
  ⟨⟨tEth, BitVec.ofNat 64 (2 ^ 63 + 5), 0, by decide +kernel⟩,
   ⟨tEth, BitVec.ofNat 64 (2 ^ 63 + 7), by decide +kernel⟩,
   ⟨tEth.setQp 5 { destroying := true }, 5, 0, by decide +kernel⟩,
   ⟨tEth, 5, by decide +kernel⟩,
   ⟨tEth.setReg (rRoceMrData 3) 64, BitVec.ofNat 64 (2 ^ 63 + 5), 0, by decide +kernel⟩,
   ⟨tEth, BitVec.ofNat 64 (2 ^ 63 + 7), by decide +kernel⟩,
   ⟨tEth, BitVec.ofNat 64 (2 ^ 63 + 5), by decide +kernel⟩,
   ⟨tEth, BitVec.ofNat 64 (2 ^ 63 + 7), 0, by decide +kernel⟩,
   ⟨tRoceWait, BitVec.ofNat 64 (2 ^ 63 + 7), 0, by decide +kernel⟩,
   ⟨tEth, BitVec.ofNat 64 (2 ^ 63 + 7), 0, by decide +kernel⟩,
   ⟨(tEth.setMr 7 { state := 2 }).setReg rRoceMrCmd (7 + 2 * 2 ^ 16), 7, by decide +kernel⟩⟩

theorem wit_EthernetAndItsCommands_6 :
    (∃ (s : State) (k : Fin 16384) (n : Nat), (s.mr k.val).state = 2 ∧ (s.qp n).state = QpState.rtr ∧ (((s.qp n).msgs.any fun m => m.mr == k.val) = true) ∧ s.ethOpen (s.qp n).port = true) ∧
    (∃ (s : State) (k : Fin 16384), (s.mr k.val).state ≠ 2) ∧
    (∃ (s : State) (v : Word), s.cfgOpen rRoceRawTx1 = false) ∧
    (∃ (s : State) (v : Word), let g : Nat := s.reg rRoceRawTx0; let n : Nat := nbits (BitVec.toNat v) 13 0; let p : Nat := nbits (BitVec.toNat v) 20 14; let ok : Bool := s.ethOpen p && decide (60 ≤ n) && decide (n ≤ 9216) && g / 2 ^ 46 == s.ix && g % 64 == 0 &&   decide (g % 2 ^ 46 + n ≤ t0End); s.cfgOpen rRoceRawTx1 = true ∧ BitVec.getLsbD v 63 = true ∧ ok = true) ∧
    (∃ (s : State) (v : Word) (c : Nat), let g : Nat := s.reg rRoceRawTx0; let n : Nat := nbits (BitVec.toNat v) 13 0; let p : Nat := nbits (BitVec.toNat v) 20 14; let ok : Bool := s.ethOpen p && decide (60 ≤ n) && decide (n ≤ 9216) && g / 2 ^ 46 == s.ix && g % 64 == 0 &&   decide (g % 2 ^ 46 + n ≤ t0End); s.cfgOpen rRoceRawTx1 = true ∧ BitVec.getLsbD v 63 = true ∧ ok = false ∧ c ≠ rRoceRawTx1) ∧
    (∃ (s : State) (v : Word) (c : Nat), s.cfgOpen rRoceRawTx1 = true ∧ BitVec.getLsbD v 63 = false ∧ c ≠ rRoceRawTx1) ∧
    (∃ (s : State) (p : PortIx), s.portRole p.val = roleEth ∧ s.portState p.val = 2 ∧ (s.link p.val).ethUp = true) ∧
    (∃ (s : State) (p : PortIx), s.portRole p.val ≠ roleEth ∨ (s.link p.val).ethUp = false) ∧
    (∃ (s : State) (p : PortIx), s.portRole p.val = roleEth ∧ s.portState p.val = 1) ∧
    (∃ (s : State) (p : PortIx), s.portRole p.val ≠ roleEth ∨ s.portState p.val ≠ 1) ∧
    (∃ (s : State) (v : Word), s.cfgOpen rLcSel = false) :=
  ⟨⟨tRoceWait.setMr 7 { state := 2 }, 7, 5, by decide +kernel⟩,
   ⟨tEth, 7, by decide +kernel⟩,
   ⟨State.reset.setBit rSecStat 4 true, 1, by decide +kernel⟩,
   ⟨tEth, BitVec.ofNat 64 (2 ^ 63 + 60 + 96 * 2 ^ 14), by decide +kernel⟩,
   ⟨tEth, BitVec.ofNat 64 (2 ^ 63 + 7), 0, by decide +kernel⟩,
   ⟨tEth, 1, 0, by decide +kernel⟩,
   ⟨tEth, 96, by decide +kernel⟩,
   ⟨tEth, 0, by decide +kernel⟩,
   ⟨(tEthOut [] [(96, .raw 2 [1])]).setFld (rPortStat 96) 2 0 1, 96, by decide +kernel⟩,
   ⟨tEth, 96, by decide +kernel⟩,
   ⟨State.reset.setBit rSecStat 4 true, 1, by decide +kernel⟩⟩

theorem wit_EthernetAndItsCommands_7 :
    (∃ (s : State) (v : Word) (j : Nat), let k : Nat := 8 * nbits (BitVec.toNat v) 6 0 + 2 * nbits (BitVec.toNat v) 8 7 + nbits (BitVec.toNat v) 9 9; s.cfgOpen rLcSel = true ∧ BitVec.getLsbD v 63 = true ∧ j ≠ k) ∧
    (∃ (s : State) (v : Word) (i : Nat), s.cfgOpen rLcSel = true ∧ BitVec.getLsbD v 63 = true ∧ i < 4) ∧
    (∃ (s : State) (v : Word) (c : Nat), s.cfgOpen rLcSel = true ∧ BitVec.getLsbD v 63 = false ∧ c ≠ rLcSel) ∧
    (∃ (s : State) (x : Stored) (o : Nat × Nat) (j : Nat), s.sw.buf = [x] ∧ s.sw.stalled = [] ∧ x.outs = [o] ∧ x.started = [] ∧ s.eligible x o = true ∧ s.roce.qps = [] ∧ s.roce.tx = [] ∧ x.frame = none ∧ s.roce.eth = [] ∧ 1 ≤ pktFlits x.pkt ∧ pktFlits x.pkt ≤ 2 ∧ j ≠ o.fst) ∧
    (∃ (s : State) (x : Stored) (o : Nat × Nat) (f : EthOut) (r : Nat), s.sw.buf = [x] ∧ s.sw.stalled = [] ∧ x.outs = [o] ∧ x.started = [] ∧ s.eligible x o = true ∧ s.roce.qps = [] ∧ s.roce.tx = [] ∧ x.frame = some f ∧ x.cells = 1 ∧ ((List.all s.roce.eth fun e => e.snd.buffer.isEmpty) = true) ∧ r ≠ o.fst) ∧
    (∃ (s : State) (x : Stored) (o : Nat × Nat) (f : EthOut) (q : Nat) (b : List Byte), s.sw.buf = [x] ∧ s.sw.stalled = [] ∧ x.outs = [o] ∧ x.started = [] ∧ s.eligible x o = true ∧ s.roce.qps = [] ∧ s.roce.tx = [] ∧ x.frame = some f ∧ x.cells = 1 ∧ ((List.all s.roce.eth fun e => e.snd.buffer.isEmpty) = true) ∧ f.tx = RoceTx.raw q b) ∧
    (∃ (s : State) (x : Stored) (o : Nat × Nat) (f : EthOut), s.sw.buf = [x] ∧ s.sw.stalled = [] ∧ x.outs = [o] ∧ x.started = [] ∧ s.eligible x o = true ∧ s.roce.qps = [] ∧ s.roce.tx = [] ∧ x.frame = some f ∧ 1 < x.cells ∧ ((List.all s.roce.eth fun e => e.snd.buffer.isEmpty) = true)) ∧
    (∃ (s : State) (p : Fin 32) (x : RoceTx) (r : Nat), s.sw.buf = [] ∧ s.sw.stalled = [] ∧ s.roce.qps = [] ∧ ((List.all s.roce.eth fun e => e.snd.buffer.isEmpty) = true) ∧ s.roce.tx = [(96 + p.val, x)] ∧ s.ethOpen (96 + p.val) = true ∧ r ≠ 96 + p.val) ∧
    (∃ (s : State) (p : Fin 32) (x : RoceTx), s.sw.buf = [] ∧ s.sw.stalled = [] ∧ s.roce.qps = [] ∧ ((List.all s.roce.eth fun e => e.snd.buffer.isEmpty) = true) ∧ s.roce.tx = [(96 + p.val, x)] ∧ s.ethOpen (96 + p.val) = false) ∧
    (∃ (s : State) (n : Nat) (q : Qp), s.sw.buf = [] ∧ s.sw.stalled = [] ∧ s.roce.eth = [] ∧ s.roce.tx = [] ∧ s.sw.cycle / 64 ≠ (s.sw.cycle + 2) / 64 ∧ ((List.all s.roce.qps fun e => e.snd.msgs.all fun m => m.write) = true) ∧ kget s.roce.qps n = some q) :=
  ⟨⟨tEth, BitVec.ofNat 64 (2 ^ 63 + 7), 0, by decide +kernel⟩,
   ⟨tEth, BitVec.ofNat 64 (2 ^ 63 + 7), 0, by decide +kernel⟩,
   ⟨tEth, 1, 0, by decide +kernel⟩,
   ⟨tRound, (tRound : State).sw.buf.head (by decide +kernel), ((tRound : State).sw.buf.head (by decide +kernel)).outs.head (by decide +kernel), 0, by decide +kernel⟩,
   ⟨tEthOut [tFrameOut 1] [], (tEthOut [tFrameOut 1] [] : State).sw.buf.head (by decide +kernel), ((tEthOut [tFrameOut 1] [] : State).sw.buf.head (by decide +kernel)).outs.head (by decide +kernel), ((tEthOut [tFrameOut 1] [] : State).sw.buf.head (by decide +kernel)).frame.get (by decide +kernel), 0, by decide +kernel⟩,
   ⟨tEthOut [tFrameOut 1] [], (tEthOut [tFrameOut 1] [] : State).sw.buf.head (by decide +kernel), ((tEthOut [tFrameOut 1] [] : State).sw.buf.head (by decide +kernel)).outs.head (by decide +kernel), ((tEthOut [tFrameOut 1] [] : State).sw.buf.head (by decide +kernel)).frame.get (by decide +kernel), 2, [1], by decide +kernel⟩,
   ⟨tEthOut [tFrameOut 2] [], (tEthOut [tFrameOut 2] [] : State).sw.buf.head (by decide +kernel), ((tEthOut [tFrameOut 2] [] : State).sw.buf.head (by decide +kernel)).outs.head (by decide +kernel), ((tEthOut [tFrameOut 2] [] : State).sw.buf.head (by decide +kernel)).frame.get (by decide +kernel), by decide +kernel⟩,
   ⟨tEthOut [] [(96, .raw 2 [1])], 0, ((tEthOut [] [(96, .raw 2 [1])] : State).roce.tx.head (by decide +kernel)).snd, 0, by decide +kernel⟩,
   ⟨(tEthOut [] [(96, .raw 2 [1])]).setFld (rPortStat 96) 2 0 1, 0, (((tEthOut [] [(96, .raw 2 [1])]).setFld (rPortStat 96) 2 0 1 : State).roce.tx.head (by decide +kernel)).snd, by decide +kernel⟩,
   ⟨{ tEthOut [] [] with sw := { cycle := 62 }, roce := { qps := [(5, { state := .rtr, rate := 900 })] } }, 5, (kget ({ tEthOut [] [] with sw := { cycle := 62 }, roce := { qps := [(5, { state := .rtr, rate := 900 })] } } : State).roce.qps (5 : Nat)).get (by decide +kernel), by decide +kernel⟩⟩

/-! ### Well-formedness refuses -/

def tTooLong : Packet := { cls := 6 }
def tBadFrame : RxFrame := { lanes := List.replicate 9 [] }
def tLongEth : EthFrame := { toPort := true, broadcast := false, isRoce := true, icrcOk := true, vlan := none, dscp := none, ect := false, bytes := [],
                             roce := { opcode := 0x0A, destQP := 5, psn := 0, payload := List.replicate 4097 0 } }

theorem test_wf_packet_class : Instr.wf (.rdn tTooLong) = false := by decide
theorem test_wf_packet_level : Packet.wf { hop := 3 } = false := by decide
theorem test_wf_packet_length : Packet.wf { len := 4097 } = false := by decide
theorem test_wf_packet_payload : Packet.wf { payload := List.replicate 4097 0 } = false := by decide +kernel
theorem test_wf_frame_lanes : RxFrame.wf tBadFrame = false := by decide
theorem test_wf_ethernet_payload : EthFrame.wf tLongEth = false := by decide +kernel
theorem test_wf_security_key : SecBlock.wf { op := 1, ownerPk := List.replicate 1313 0 } = false := by decide +kernel
theorem test_wf_self_test : BistResult.wf tBist = false := by decide
theorem test_wf_leg_bytes : LegInfo.wf { tLegInfo with bytes := 0 } = false := by decide
theorem test_wf_leg_stake : LegInfo.wf { tLegInfo with stake := 16384 } = false := by decide
theorem test_wf_twin_stake : TwinAct.wf (.releaseSet 16384 0) = false := by decide
theorem test_wf_twin_record : TwinRecord.wf { tTwinRec with act := some (.leg 16) } = false := by decide
theorem test_wf_lanes_twice : lanesWf 0 [1, 1] = false := by decide
theorem test_wf_lanes_range : lanesWf 0 [5] = false ∧ lanesWf 128 [5] = true := by decide
theorem test_wf_accepts : Instr.wf (.rdn {}) = true := by decide

/-! ### Worked examples of the specification -/

/-- Chapter 2: the address of an expert's weight column. -/
theorem test_example_address : gfaHome 0x1C515234567880 = 113 ∧ gfaOff 0x1C515234567880 = 0x115234567880 ∧ placeOf 0x115234567880 = .slot 5 := by decide
/-- Chapter 5: the reserved top of T0 begins at 453 GiB. -/
def tTop : State := (((((State.reset.setBit (rCadCtl 0) 0 true).setFld (rCadCtl 0) 11 8 4).setFld (rCadReplPool 0) 4 0 8).setBit rTlCtl 0 true).setBit rTcPool 0 true).setFld rTcPool 14 8 32
theorem test_example_reserved_top : tTop.reservedTop = 453 := by decide +kernel
/-- Chapter 8: the canonical tree over five BF16 contributions gives 2.0, the exact sum 3.0. -/
def tBf (a b : Nat) : Nat := (fmtBF16.encode ((fmtBF16.decode a).add (fmtBF16.decode b))).1
theorem test_example_tree : tBf (tBf (tBf 0x4380 0x3F80) (tBf 0x3F80 0x3F80)) 0xC380 = 0x4000 := by decide +kernel
theorem test_example_running : tBf (tBf (tBf (tBf 0x4380 0x3F80) 0x3F80) 0x3F80) 0xC380 = 0 ∧
    tBf (tBf (tBf (tBf 0xC380 0x3F80) 0x3F80) 0x3F80) 0x4380 = 0x4040 := by decide +kernel
theorem test_example_exact : (([0x4380, 0x3F80, 0x3F80, 0x3F80, 0xC380].foldl (fun l c => (Lane.add l (fmtBF16.decode c) false 0).1) ({} : Lane)).read fmtBF16).1 = 0x4040 := by
  decide +kernel
/-- Chapter 12: the codes of eight dictionary entries. -/
theorem test_example_codes : xcbCodes [2, 2, 3, 3, 4, 4, 4, 4, 0, 0, 0, 0, 0, 0, 0, 0] =
    [(0, 2, 0), (1, 2, 1), (2, 3, 4), (3, 3, 5), (4, 4, 12), (5, 4, 13), (6, 4, 14), (7, 4, 15)] := by decide
/-- Chapter 13: the sequence extension of one contribution. -/
theorem test_example_seqx : seqxWord (mkSeqx 7 11 5 6144 false) = 0x18000005B007 := by decide
/-- Chapter 16: the target of the hand-over. -/
theorem test_example_target : (State.reset.setMr 18 { state := 1, words := [0, 0x7F0000000000, 0x8804000000000, 0x40000] }).mrTarget 18 0x7F0000100000 = 0x8804000100000 := by decide
/-- Chapter 17: the grown composition passes as a live change. -/
def tNine : State :=
  let w := [64 + 32 * 2 ^ 16 + 64 * 2 ^ 32, 0xFF00, 0, 0, 0, 0, 0, 0]
  let v := [0x0000004000240040, 0xFFF00, 0, 0, 0, 0, 0, 0]
  let s := (State.reset.setReg rGridCfg (34 % 32 * 2 ^ 8 + 1 + 3 * 2 ^ 16 + 3 * 2 ^ 24)).setPclState 9 2
  (List.range 8).foldl (fun s i => (s.setReg (rPclGrant 9 i) (w.getD i 0)).setReg (rPclCmp 9 i) (v.getD i 0)) s
theorem test_example_live : tNine.compCheck 9 (tNine.proposed 9) false = none := by decide +kernel

end Sys2Proof.Machine
end

section
/-!
PROOFS. Fields and bits of a register read back after a field write; shared by every statement that reads a register which the command wrote.
-/
namespace Sys2Proof.Machine

/-! ### Fields and bits of a number -/

theorem nbit_eq_testBit (w i : Nat) : nbit w i = w.testBit i :=
  Nat.testBit_eq_decide_div_mod_eq.symm

theorem testBit_nbits (w hi lo i : Nat) : (nbits w hi lo).testBit i = (decide (i < hi + 1 - lo) && w.testBit (lo + i)) := by
  simp only [nbits, Nat.testBit_mod_two_pow, Nat.testBit_div_two_pow, Nat.add_comm]

/-- A number whose field was replaced: the new field stands between the bits below it and the bits above it. -/
theorem nsetBits_eq_parts (w hi lo v : Nat) :
    nsetBits w hi lo v = 2 ^ lo * (2 ^ (hi + 1 - lo) * (w / 2 ^ lo / 2 ^ (hi + 1 - lo)) + v % 2 ^ (hi + 1 - lo)) + w % 2 ^ lo := by
  have low : 2 ^ lo * (w / 2 ^ lo) + w % 2 ^ lo = w := Nat.div_add_mod w (2 ^ lo)
  have field : 2 ^ (hi + 1 - lo) * (w / 2 ^ lo / 2 ^ (hi + 1 - lo)) + w / 2 ^ lo % 2 ^ (hi + 1 - lo) = w / 2 ^ lo := Nat.div_add_mod _ _
  have whole : w = 2 ^ lo * (2 ^ (hi + 1 - lo) * (w / 2 ^ lo / 2 ^ (hi + 1 - lo))) + w / 2 ^ lo % 2 ^ (hi + 1 - lo) * 2 ^ lo + w % 2 ^ lo := by
    rw [Nat.mul_comm (w / 2 ^ lo % _), ← Nat.mul_add, field, low]
  have drop : w - nbits w hi lo * 2 ^ lo = 2 ^ lo * (2 ^ (hi + 1 - lo) * (w / 2 ^ lo / 2 ^ (hi + 1 - lo))) + w % 2 ^ lo := by
    unfold nbits
    omega
  rw [nsetBits, drop, Nat.mul_add, Nat.mul_comm (v % _)]
  omega

/-- The bits of a number whose field [hi:lo] was replaced. -/
theorem testBit_nsetBits (w hi lo v i : Nat) (h : lo ≤ hi) :
    (nsetBits w hi lo v).testBit i = if lo ≤ i ∧ i ≤ hi then v.testBit (i - lo) else w.testBit i := by
  rw [nsetBits_eq_parts, Nat.testBit_two_pow_mul_add _ (Nat.mod_lt _ (Nat.two_pow_pos lo))]
  by_cases below : i < lo
  · rw [if_pos below, if_neg (by omega), Nat.testBit_mod_two_pow]
    simp only [below, decide_true, Bool.true_and]
  · rw [if_neg below, Nat.testBit_two_pow_mul_add _ (Nat.mod_lt _ (Nat.two_pow_pos _))]
    by_cases within : i ≤ hi
    · rw [if_pos (by omega), if_pos (by omega), Nat.testBit_mod_two_pow]
      simp only [show i - lo < hi + 1 - lo by omega, decide_true, Bool.true_and]
    · rw [if_neg (by omega), if_neg (by omega), Nat.testBit_div_two_pow, Nat.testBit_div_two_pow]
      congr 1
      omega

/-! ### Fields and bits of a register -/

theorem State.bit_eq_testBit (s : State) (c i : Nat) : s.bit c i = (s.reg c).testBit i := nbit_eq_testBit _ _

/-- Every bit of a register of which a field was written (R521). -/
theorem State.bit_setFld (s : State) (c hi lo v i : Nat) (h : lo ≤ hi) (h64 : i < 64) :
    (s.setFld c hi lo v).bit c i = if lo ≤ i ∧ i ≤ hi then v.testBit (i - lo) else s.bit c i := by
  simp only [State.bit_eq_testBit, State.setFld, State.reg_setReg_self, Nat.testBit_mod_two_pow, h64, decide_true, Bool.true_and,
    testBit_nsetBits _ _ _ _ _ h]

/-- A bit outside the field that was written stays. -/
theorem State.bit_setFld_outside (s : State) (c hi lo v i : Nat) (h : lo ≤ hi) (h64 : i < 64) (out : i < lo ∨ hi < i) :
    (s.setFld c hi lo v).bit c i = s.bit c i := by
  rw [State.bit_setFld _ _ _ _ _ _ h h64, if_neg (by omega)]

/-- A bit that was written reads as written. -/
theorem State.bit_setBit_self (s : State) (c i : Nat) (b : Bool) (h64 : i < 64) : (s.setBit c i b).bit c i = b := by
  rw [State.setBit, State.bit_setFld _ _ _ _ _ _ (Nat.le_refl i) h64, if_pos ⟨Nat.le_refl i, Nat.le_refl i⟩, Nat.sub_self]
  cases b <;> rfl

/-- A field that was written reads as written, within its width. -/
theorem State.fld_setFld_self (s : State) (c hi lo v : Nat) (h : lo ≤ hi) (h64 : hi < 64) :
    (s.setFld c hi lo v).fld c hi lo = v % 2 ^ (hi + 1 - lo) := by
  refine Nat.eq_of_testBit_eq fun i => ?_
  rw [State.fld, testBit_nbits, Nat.testBit_mod_two_pow]
  by_cases within : i < hi + 1 - lo
  · rw [← State.bit_eq_testBit, State.bit_setFld _ _ _ _ _ _ h (by omega), if_pos (by omega), Nat.add_sub_cancel_left]
  · simp only [within, decide_false, Bool.false_and]

end Sys2Proof.Machine
end

section
/-!
PROOFS. Steps 2 and 3 of the start-up sequence: reset-hold, the choice of the active copy, and what the end of the self-tests does to the
monument store (R497, R503, R510).
-/
namespace Sys2Proof.Machine

/-! ### Reset-hold -/

@[simp] theorem State.ibi_regs (s : State) : s.ibi.regs = s.regs := by unfold State.ibi; split <;> rfl
@[simp] theorem State.ibi_boot (s : State) : s.ibi.boot = s.boot := by unfold State.ibi; split <;> rfl
@[simp] theorem State.reg_ibi (s : State) (c : Nat) : s.ibi.reg c = s.reg c := by simp only [State.reg, State.ibi_regs]
@[simp] theorem State.bit_ibi (s : State) (c i : Nat) : s.ibi.bit c i = s.bit c i := by simp only [State.bit, State.reg_ibi]
@[simp] theorem State.fld_ibi (s : State) (c hi lo : Nat) : s.ibi.fld c hi lo = s.fld c hi lo := by simp only [State.fld, State.reg_ibi]

@[simp] theorem State.hold_boot (s : State) (cause : Nat) : (s.hold cause).boot = s.boot := by
  simp only [State.hold, State.ibi_boot, State.setFld_boot, State.setBit_boot]

/-- Reset-hold shows in BOOT_STAT.HOLD (R503). -/
theorem State.bit_hold (s : State) (cause : Nat) : (s.hold cause).bit rBootStat 4 = true := by
  rw [State.hold, State.bit_ibi, State.bit_setFld_outside _ _ _ _ _ _ (by decide) (by decide) (by decide),
    State.bit_setBit_self _ _ _ _ (by decide)]

/-- Reset-hold shows its cause in BOOT_STAT.CAUSE (R503). -/
theorem State.fld_hold (s : State) (cause : Nat) : (s.hold cause).fld rBootStat 11 8 = cause % 16 := by
  rw [State.hold, State.fld_ibi]
  exact State.fld_setFld_self _ _ _ _ _ (by decide) (by decide)

/-! ### The choice of the active copy (R510) -/

/-- A copy is valid when its MAGIC and its CRC match (R510). -/
theorem MsCopy.valid_iff (c : MsCopy) : c.valid = true ↔ c.magicOk = true ∧ c.crcOk = true := by
  simp only [MsCopy.valid, Bool.and_eq_true]

@[simp] theorem Boot.choose_a (b : Boot) : b.choose.a = b.a := rfl
@[simp] theorem Boot.choose_b (b : Boot) : b.choose.b = b.b := rfl

/-- Copy B is chosen when it is valid and copy A is not, or has a lower GEN (R510). -/
theorem Boot.choose_activeB_iff (b : Boot) :
    b.choose.activeB = true ↔ b.b.valid = true ∧ (b.a.valid = true → b.a.gen < b.b.gen) := by
  cases ha : b.a.valid with
  | false => simp only [Boot.choose, ha, Bool.not_false, Bool.true_or, Bool.and_true, Bool.false_eq_true, false_implies, and_true]
  | true => simp only [Boot.choose, ha, Bool.not_true, Bool.false_or, Bool.and_eq_true, decide_eq_true_eq, forall_const]

/-- With no valid copy the chosen one, copy A, is not valid. -/
theorem Boot.choose_active_invalid (b : Boot) (ha : b.a.valid = false) (hb : b.b.valid = false) : b.choose.active.valid = false := by
  simp only [Boot.choose, Boot.active, ha, hb, Bool.false_and, Bool.false_eq_true, if_false]

/-! ### Steps 2 and 3 -/

@[simp] theorem State.setPhase_boot (s : State) (n : Nat) : (s.setPhase n).boot = s.boot := rfl
@[simp] theorem State.loadLife_boot (s : State) : s.loadLife.boot = s.boot := rfl

/-- Step 3 changes the store's unit by the choice of the active copy alone. -/
theorem State.readStore_boot (s : State) : s.readStore.boot = s.boot.choose := by
  unfold State.readStore
  dsimp only
  split
  · exact State.hold_boot _ _
  · split
    · rw [State.hold_boot, State.loadLife_boot]
    · rw [State.setPhase_boot, State.setBit_boot, State.loadLife_boot]

/-- Step 3 with no valid copy is reset-hold with cause 0x1 (R510). -/
theorem State.readStore_eq_hold (s : State) (ha : s.boot.a.valid = false) (hb : s.boot.b.valid = false) :
    s.readStore = ({ s with boot := s.boot.choose } : State).hold 1 := by
  simp only [State.readStore, Boot.choose_active_invalid _ ha hb, Bool.not_false, if_true]

/-- At step 2 the end of the self-tests leaves the monument store to step 3 as it was. -/
theorem State.selfTests_eq_readStore (s : State) (k : KatResult) (h : s.atPhase 2 = true) :
    ∃ u : State, u.boot = s.boot ∧ s.selfTests k = u.readStore := by
  simp only [State.selfTests, h, Bool.not_true, Bool.false_eq_true, if_false]
  refine ⟨_, ?_, rfl⟩
  rw [State.setPhase_boot]
  dsimp only
  split
  · rfl
  · rw [State.count_boot, State.setBit_boot]

/-- SELF_TESTS_DONE at step 2 completes in the state that step 3 gives, run on an unchanged monument store. -/
theorem runs_selfTestsDone {s : State} {k : KatResult} {P : State → Prop} (h2 : s.atPhase 2 = true)
    (h : ∀ u : State, u.boot = s.boot → P u.readStore) : Runs (.selfTestsDone k) s P := by
  obtain ⟨u, hu, step3⟩ := s.selfTests_eq_readStore k h2
  exact ⟨s.selfTests k, rfl, step3 ▸ h u hu⟩

/-- Settles O52: after step 2 the sequence runs step 3, whose choice of the active copy follows R510 and which holds with cause 0x1 when
neither copy is valid. -/
theorem activeCopy : Obligations.ActiveCopy := by
  refine ⟨MsCopy.valid_iff, fun s k h2 _ => runs_selfTestsDone h2 fun u hu => ?chosen,
    fun s k h2 ha hb => runs_selfTestsDone h2 fun u hu => ?held⟩
  case chosen =>
    rw [State.readStore_boot, hu]
    exact ⟨Boot.choose_a _, Boot.choose_b _, Boot.choose_activeB_iff _⟩
  case held =>
    rw [State.readStore_eq_hold u (hu ▸ ha) (hu ▸ hb)]
    exact ⟨State.bit_hold _ _, State.fld_hold _ _⟩

end Sys2Proof.Machine
end

section
/-!
PROOFS. The interrupt arbiter while messages are not sent: a raise and a write of INT_MASK leave the messages alone and keep every PEND bit
(R525, R527).
-/
namespace Sys2Proof.Machine

/-! ### Registers beside the one written -/

@[simp] theorem State.reg_tick (s : State) (aid c : Nat) : (s.tick aid).reg c = s.reg c := rfl
@[simp] theorem State.bit_tick (s : State) (aid c i : Nat) : (s.tick aid).bit c i = s.bit c i := rfl

/-- A write to one register leaves every bit of another alone. -/
theorem State.bit_setReg_ne (s : State) (c d v i : Nat) (h : d ≠ c) : (s.setReg c v).bit d i = s.bit d i := by
  rw [State.bit, State.reg_setReg_ne _ _ _ _ h, State.bit]

/-- A counter that counts leaves every bit of another register alone. -/
theorem State.bit_count_ne (s : State) (page k n c i : Nat) (h : c ≠ rPgCnt page k) : (s.count page k n).bit c i = s.bit c i := by
  unfold State.count
  split
  · rfl
  · exact State.bit_setReg_ne _ _ _ _ _ h

/-- Setting a bit clears none. -/
theorem State.bit_setBit_true_of_bit (s : State) (c k d i : Nat) (h64 : i < 64) (h : s.bit d i = true) : (s.setBit c k true).bit d i = true := by
  by_cases same : d = c
  · subst same
    by_cases written : i = k
    · exact written ▸ State.bit_setBit_self _ _ _ _ h64
    · rw [State.setBit, State.bit_setFld_outside _ _ _ _ _ _ (Nat.le_refl k) h64 (by omega), h]
  · rw [State.setBit, State.setFld, State.bit_setReg_ne _ _ _ _ _ same, h]

/-- The configuration arbiter's order of an access changes sequence numbers alone. -/
theorem State.cfgTick_eq_seqs (s : State) (c : Nat) : ∃ q, s.cfgTick c = { s with seqs := q } := by
  unfold State.cfgTick
  split
  · exact ⟨s.seqs, rfl⟩
  · exact ⟨_, rfl⟩

/-! ### The registers of the interrupt arbiter -/

/-- INT_PEND is 0 after reset (the Reset column of its registers). -/
theorem regReset_rIntPend : ∀ j < 32, regReset (rIntPend j) = 0 := by decide

/-- INT_PEND has no bit beyond the sixty-fourth. -/
theorem State.lt_of_bit_rIntPend (s : State) (j i : Nat) (hj : j < 32) (h : s.bit (rIntPend j) i = true) : i < 64 := by
  have word : s.reg (rIntPend j) < 2 ^ 64 := by
    unfold State.reg
    split
    · exact BitVec.isLt _
    · rw [regReset_rIntPend j hj]
      decide
  refine Nat.lt_of_not_le fun beyond => ?_
  rw [State.bit_eq_testBit, Nat.testBit_lt_two_pow (Nat.lt_of_lt_of_le word (Nat.pow_le_pow_right (by decide) beyond))] at h
  exact Bool.false_ne_true h

theorem rIntPend_ne_rPgCnt (j : Nat) : rIntPend j ≠ rPgCnt pgChip 4 := by
  simp only [rIntPend, rPgCnt, pgChip]
  omega

theorem rIntPend_ne_rIntMask (j k : Nat) (hk : k < 32) : rIntPend k ≠ rIntMask j := by
  simp only [rIntPend, rIntMask]
  omega

theorem rBootStat_ne_rIntMask (j : Nat) (hj : j < 32) : rBootStat ≠ rIntMask j := by
  simp only [rBootStat, rIntMask]
  omega

theorem rBootStat_ne_rIntPend (j : Nat) (hj : j < 32) : rBootStat ≠ rIntPend j := by
  simp only [rBootStat, rIntPend]
  omega

/-! ### Without the Filard Link -/

/-- Without the Filard Link no message is sent, whatever INT_BASE.EN says (R527). -/
theorem State.irqOpen_of_link_down (s : State) (h : s.bit rBootStat 5 = false) : s.irqOpen = false := by
  rw [State.irqOpen, h, Bool.and_false]

/-- The event that would send a message is ordered all the same. -/
theorem State.irqSend_of_not_irqOpen (s : State) (v : Nat) (h : s.irqOpen = false) : s.irqSend v = s.tick aidIrq := by
  simp only [State.irqSend, h, Bool.false_eq_true, if_false]

/-- Unmasking vectors changes the arbiter's sequence number alone. -/
theorem State.irqUnmask_of_not_irqOpen (s : State) (j : Nat) (l : List Nat) (h : s.irqOpen = false) : ∃ q, s.irqUnmask j l = { s with seqs := q } := by
  induction l generalizing s with
  | nil => exact ⟨s.seqs, rfl⟩
  | cons i rest ih =>
    obtain ⟨q, unmasked⟩ := ih (s.tick aidIrq) h
    exact ⟨q, by rw [State.irqUnmask, State.irqSend_of_not_irqOpen _ _ h, unmasked]; rfl⟩

/-- A write of INT_MASK without the Filard Link writes the register and orders events, or is not taken at all. -/
theorem State.intMaskWrite_of_link_down (s : State) (j : Nat) (v : Word) (hj : j < 32) (h : s.bit rBootStat 5 = false) :
    s.intMaskWrite j v = s ∨ ∃ q, s.intMaskWrite j v = { s.setReg (rIntMask j) v.toNat with seqs := q } := by
  unfold State.intMaskWrite State.cfgDo
  split
  · obtain ⟨q, ordered⟩ := s.cfgTick_eq_seqs (rIntMask j)
    rw [ordered]
    have closed : (({ s with seqs := q } : State).setReg (rIntMask j) v.toNat).irqOpen = false :=
      State.irqOpen_of_link_down _ ((State.bit_setReg_ne _ _ _ _ _ (rBootStat_ne_rIntMask j hj)).trans h)
    obtain ⟨q', unmasked⟩ := State.irqUnmask_of_not_irqOpen _ j _ closed
    exact .inr ⟨q', unmasked⟩
  · exact .inl rfl

/-- A raise of a vector that pends is counted, and sends nothing (R525). -/
theorem State.irqRaise_of_pending (s : State) (r : Raise) (h : s.vectorBit rIntPend (r.vector % 2048) = true) :
    ∃ q c, s.irqRaise r = ({ s with seqs := q, mgmt := { s.mgmt with coalesced := c } } : State).count pgChip 4 :=
  ⟨_, _, if_pos h⟩

/-- A raise of a vector that does not pend, without the Filard Link, sets its PEND bit and notes the raising page, masked or not (R525, R527). -/
theorem State.irqRaise_of_not_pending (s : State) (r : Raise) (h : s.vectorBit rIntPend (r.vector % 2048) = false) (down : s.bit rBootStat 5 = false) :
    ∃ q p, s.irqRaise r =
      { s.setBit (rIntPend (r.vector % 2048 / 64)) (r.vector % 2048 % 64) true with seqs := q, mgmt := { s.mgmt with irqPage := p } } := by
  have closed : (s.setBit (rIntPend (r.vector % 2048 / 64)) (r.vector % 2048 % 64) true).irqOpen = false :=
    State.irqOpen_of_link_down _ ((State.bit_setReg_ne _ _ _ _ _ (rBootStat_ne_rIntPend _ (by omega))).trans down)
  unfold State.irqRaise
  dsimp only
  rw [if_neg (ne_true_of_eq_false h)]
  split
  case isTrue masked => exact ⟨_, _, rfl⟩
  case isFalse unmasked => exact ⟨_, _, State.irqSend_of_not_irqOpen _ _ closed⟩

/-- What a raise leaves without the Filard Link: the messages sent, and every PEND bit that was set, with its own set too (R525, R527). -/
theorem State.irqRaise_of_link_down (s : State) (r : Raise) (down : s.bit rBootStat 5 = false) :
    (s.irqRaise r).mgmt.msgs = s.mgmt.msgs ∧ (s.irqRaise r).out = s.out ∧
    (∀ j i, j < 32 → s.bit (rIntPend j) i = true → (s.irqRaise r).bit (rIntPend j) i = true) ∧
    (s.irqRaise r).vectorBit rIntPend (r.vector % 2048) = true := by
  cases pends : s.vectorBit rIntPend (r.vector % 2048) with
  | true =>
    obtain ⟨q, c, counted⟩ := s.irqRaise_of_pending r pends
    rw [counted]
    have kept (j i : Nat) : (({ s with seqs := q, mgmt := { s.mgmt with coalesced := c } } : State).count pgChip 4).bit (rIntPend j) i =
        s.bit (rIntPend j) i := State.bit_count_ne _ _ _ _ _ _ (rIntPend_ne_rPgCnt j)
    exact ⟨by rw [State.count_mgmt], State.count_out _ _ _ _, fun j i _ set => (kept j i).trans set, (kept _ _).trans pends⟩
  | false =>
    obtain ⟨q, p, marked⟩ := s.irqRaise_of_not_pending r pends down
    rw [marked]
    exact ⟨rfl, rfl, fun j i hj set => State.bit_setBit_true_of_bit s _ _ _ _ (s.lt_of_bit_rIntPend j i hj set) set,
      State.bit_setBit_self s _ _ _ (by omega)⟩

/-- What a write of INT_MASK leaves without the Filard Link: the messages sent and every PEND bit (R527). -/
theorem State.intMaskWrite_keeps_messages_and_pending (s : State) (j : Nat) (v : Word) (hj : j < 32) (down : s.bit rBootStat 5 = false) :
    (s.intMaskWrite j v).mgmt.msgs = s.mgmt.msgs ∧ (s.intMaskWrite j v).out = s.out ∧
    (∀ k i, k < 32 → (s.intMaskWrite j v).bit (rIntPend k) i = s.bit (rIntPend k) i) := by
  obtain refused | ⟨q, written⟩ := s.intMaskWrite_of_link_down j v hj down
  · rw [refused]
    exact ⟨rfl, rfl, fun _ _ _ => rfl⟩
  · rw [written]
    exact ⟨rfl, rfl, fun k i hk => State.bit_setReg_ne s _ _ _ _ (rIntPend_ne_rIntMask j k hk)⟩

theorem exec_interruptRaise (s : State) : exec .interruptRaise s = execInterruptRaise s := rfl

/-- Settles O53: while the link is down INTERRUPT_RAISE handles the oldest raise, if one waits, by counting it or setting its PEND bit, and
INT_MASK_WRITE touches the mask register alone. -/
theorem messagesWaitForTheLink : Obligations.MessagesWaitForTheLink := by
  refine ⟨fun s down => ?raise, fun s j v down => ⟨_, rfl, s.intMaskWrite_keeps_messages_and_pending j v j.isLt down⟩⟩
  case raise =>
    cases waiting : s.mgmt.raises with
    | nil => exact ⟨s, by rw [exec_interruptRaise, execInterruptRaise, waiting], rfl, rfl, fun _ _ _ set => set, nofun⟩
    | cons r rest =>
      obtain ⟨msgs, out, kept, own⟩ := State.irqRaise_of_link_down { s with mgmt := { s.mgmt with raises := rest } } r down
      refine ⟨_, by rw [exec_interruptRaise, execInterruptRaise, waiting], msgs, out, kept, fun r' oldest => ?_⟩
      obtain rfl : r = r' := Option.some.inj oldest
      rwa [State.vectorBit, Nat.mod_mod_of_dvd _ (by decide)] at own

end Sys2Proof.Machine
end
